-- ==== Sys2Proof/Word.lean ====
section
/-! DEFINITION. The words of the LB-9400 (spec/00_scope.md R3, R4). -/

namespace Sys2Proof

/-- One byte of memory or of a record. -/
abbrev Byte := BitVec 8

/-- A 64-bit register or descriptor word (R28, R85). -/
abbrev Word := BitVec 64

/-- The mode of an application core (R111, R226). -/
inductive CoreMode where
  | machine | supervisor | user
  deriving DecidableEq, Repr

/-- Who makes a request: the BCC, application core n in a mode, a PCIe host, or an engine or block by its engine ID
(R9, R111). -/
inductive Requester where
  | bcc
  | core (n : Nat) (mode : CoreMode)
  | host
  | engine (id : Nat)
  deriving DecidableEq, Repr

end Sys2Proof
end

