-- ==== Sys2Proof/Syntax.lean ====
section
/-! DEFINITION. The commands of the LB-9400 block, one constructor per row of the table of commands (R5 to R557). -/

namespace Sys2Proof

/-- A command given to the block. Each constructor's docstring cites the rule its row names. -/
inductive Instr where
  /-- REGISTER_WRITE (R96): A write to a register that has no row of its own is judged field by field: fields are stored, clamped, refused or ignored. -/
  | registerWrite (sender : Requester) (wide : Bool) (offset : Nat) (value : BitVec 64)
  /-- MEMORY_REQUEST (R39): A memory request is decoded, translated and served at its home in arrival order. -/
  | memoryRequest (sender : Requester) (handle : Option Nat) (isWrite : Bool) (addr : Nat) (len : Nat) (data : List (BitVec 8)) (upset : Nat)
  /-- PATROL_SCRUB (R34): The patrol scrubber reads and corrects the whole populated capacity of a channel once per MC_SCRUB_PERIOD. -/
  | patrolScrub (channel : Nat) (weak : List Nat) (bad : List Nat)
  /-- DRIFT_TRACKING (R35): Each rank is retrained for drift every 128 ms, blocking the channel for at most 1.5 µs. -/
  | driftTracking (channel : Nat) (rank : Nat)
  /-- REFRESH (R35): A DDR refresh is issued every tREFI, halved above 85 °C case temperature. -/
  | refresh (channel : Nat) (rank : Nat) (hot : Bool)
  /-- TRAINING (R35): The BCC trains a channel pair when its partition is brought up, setting ecc_mode, capacity and speed. -/
  | training (part : Nat)
  /-- MMU_INVAL (R44): A write to MMU_INVAL starts an invalidation of one context handle over a virtual range, or is refused while busy. -/
  | mmuInval (sender : Requester) (handle : Nat) (all : Bool)
  /-- MMU_INVAL_DONE (R44): An invalidation completes and MMU_INVAL_STATUS.done reads 1. -/
  | mmuInvalDone
  /-- CREATE_CONTEXT (R116): A BCC request sets a free context table entry live with the next generation. -/
  | createContext (id : Nat) (physical : Bool) (root : Nat) (ceiling : Nat) (safety : Bool) (quota : Nat) (eventQueue : Nat)
  /-- TEARDOWN_CONTEXT (R476): A BCC request tears a context down: refusing its requests, cancelling tasks, aborting channels and destroying its objects. -/
  | teardownContext (handle : Nat) (reportAt : Nat)
  /-- TEARDOWN_COMPLETE (R477): The teardown drain ends, the teardown report is written, event 0x7004 is raised and the context ID becomes free. -/
  | teardownComplete (handle : Nat)
  /-- FAB_DRAIN_DECLARED (R477): With only fabric requests outstanding, the teardown drain is declared complete 2 × RCV_FAB_RTT after step 4. -/
  | fabDrainDeclared (handle : Nat)
  /-- LATE_RESPONSE_DISCARD (R477): A response, token, flag advance or entry carrying an old handle is discarded and counted in RCV_LATE. -/
  | lateResponseDiscard (handle : Nat)
  /-- REGISTER_BUFFER (R50): A BCC request registers a buffer of a context, or refuses it with status 0x17. -/
  | registerBuffer (handle : Nat) (base : Nat) (length : Nat)
  /-- DEREGISTER_BUFFER (R53): A BCC request starts deregistration of a buffer, after which new enqueues naming it are rejected. -/
  | deregisterBuffer (handle : Nat) (base : Nat)
  /-- DEREGISTRATION_COMPLETE (R53): A buffer deregistration completes once no live task names the buffer. -/
  | deregistrationComplete (handle : Nat) (base : Nat)
  /-- PORT_ACK_READ (R112): A read of PORT_ACK with done = 1 allows the port to accept its next PORT_CMD. -/
  | portAckRead (port : Nat)
  /-- ENQUEUE (R112): Port operation 0 appends an entry to a queue and returns its seq, or refuses it. -/
  | enqueue (port : Nat) (target : Nat) (ty : Nat)
  /-- TASK_SUBMISSION (R115): An enqueue of type 0x1 reads the task descriptor, checks it under R52 and enters the task in the matching store as waiting. -/
  | taskSubmission (port : Nat) (target : Nat)
  /-- LEDGER_ACCEPTANCE (R153): An entry to a ledger-mode queue is accepted once its ring, mirror ring and two accept records are acknowledged. -/
  | ledgerAcceptance (port : Nat) (target : Nat) (ty : Nat)
  /-- DEQUEUE (R112): Port operation 1 binds and removes one entry into DEQ_DATA, or returns queue empty. -/
  | dequeue (port : Nat) (target : Nat)
  /-- CREATE_QUEUE (R113): Port operation 2 creates a queue with the lowest free ID after translating and checking its ring. -/
  | createQueue (port : Nat)
  /-- DESTROY_QUEUE (R54): Port operation 3 destroys a queue, refusing it when occupied unless forced. -/
  | destroyQueue (port : Nat) (target : Nat)
  /-- GRANT (R79): Port operation 4 grants enqueue rights on a queue to another context handle. -/
  | grant (port : Nat) (target : Nat)
  /-- REVOKE (R79): Port operation 5 revokes a grant. -/
  | revoke (port : Nat) (target : Nat)
  /-- REGISTER_GRAPH (R132): Port operation 6 copies and checks a graph template table and installs it with the lowest free template ID. -/
  | registerGraph (port : Nat)
  /-- DEREGISTER_GRAPH (R55): Port operation 7 starts deregistration of a graph template. -/
  | deregisterGraph (port : Nat)
  /-- GRAPH_DEREGISTRATION_DONE (R55): A graph deregistration completes when its last instance has ended. -/
  | graphDeregistrationDone (graph : Nat)
  /-- TOKEN_ARRIVAL (R120): An operand token reaches the matching store and satisfies a waiting slot or is counted on its board entry. -/
  | tokenArrival (handle : Nat) (key : Nat) (failed : Bool)
  /-- DISPATCH (R124): When a stall frees, Tally takes the first eligible task of the highest non-empty class into it and starts a wake if needed. -/
  | dispatch (engine : Nat)
  /-- DESCRIPTOR_FETCH (R88): The engine reads and checks the tensor descriptors and parameter block of an assigned task. -/
  | descriptorFetch (engine : Nat)
  /-- TASK_START (R125): The engine starts the prefetched task in the cycle after the running task ends. -/
  | taskStart (engine : Nat)
  /-- BLOCK_STEP_END (R201): A block step ends, giving a tile boundary and a heartbeat, with its ABFT check. -/
  | blockStepEnd (engine : Nat) (mismatch : Option Nat)
  /-- ABFT_RECOMPUTE_DONE (R217): A recomputed K block passes with event 0x4401, or fails and aborts the task with event 0x4402 and a rung 2 reset. -/
  | abftRecomputeDone (engine : Nat) (ok : Bool)
  /-- PREEMPT_SAVE (R221): At the tile boundary the running task stops, the tile switches bank and copies the task state to its save area. -/
  | preemptSave (engine : Nat)
  /-- TASK_END (R90): A task ends: its completion record is written, a completion entry appended and its signal token sent. -/
  | taskEnd (engine : Nat) (cycles : Nat)
  /-- COMMIT (R156): A completed staged task's commit takes effect when the second commit record is acknowledged. -/
  | commit (task : Nat)
  /-- HELD_EFFECT_RELEASE (R158): Held effects of a committed entry are released in list order once the queue's ordering rule allows. -/
  | heldEffectRelease (queue : Nat) (seq : Nat)
  /-- QUEUE_APPEND (R109): A task output append, held on a full queue or fenced ledger home, is accepted once room frees. -/
  | queueAppend (task : Nat)
  /-- BUDGET_EXPIRY (R127): A task's budget runs out: it ends timed out, event 0x5101 is raised and a rung 1 reset follows. -/
  | budgetExpiry (engine : Nat)
  /-- MIDSTREAM_FAULT (R245): An error response to a started task stops it and its chain, draining outstanding transfers. -/
  | midstreamFault (task : Nat) (reason : Nat)
  /-- FAULT_RESUME (R253): A FAULT_RESUME write with abandon 0 resets the chain's rings and readies its tasks again with event 0x0501. -/
  | faultResume (sender : Requester) (hold : Nat) (handle : Nat)
  /-- FAULT_RESUME_ABANDON (R247): A FAULT_RESUME write with abandon 1 ends the held chain. -/
  | faultResumeAbandon (sender : Requester) (hold : Nat) (handle : Nat)
  /-- HOLD_LIMIT_EXPIRY (R247): A hold lasting TLY_HOLD.ms ends its chain without replay. -/
  | holdLimitExpiry (hold : Nat)
  /-- PROGRESS_WATCHDOG (R249): A wait-graph cycle without progress for TLY_PROGRESS.us aborts its youngest task with event 0x5501. -/
  | progressWatchdog (cycle : List Nat)
  /-- BAND_FILLED (R242): All producer writes to a band are acknowledged, its seal is written and the fill flag advances. -/
  | bandFilled (task : Nat) (record : Nat)
  /-- BAND_RELEASED (R242): A band released by every consumer frees and the credit flag advances. -/
  | bandReleased (task : Nat) (record : Nat)
  /-- DELAY_FIRE (R128): A delay-list entry fires at the first tick edge at or after its due time and sends its token. -/
  | delayFire (index : Nat)
  /-- SLOT_INSTANCE_CREATE (R133): A radio-slot graph instance is created at epoch + n × period, or event 0x5102 is raised. -/
  | slotInstanceCreate (graph : Nat)
  /-- NOP (R101): Joins its token slots and completes as soon as ready. -/
  | nop (task : Nat)
  /-- DELAY (R129): Places a delay-list entry and completes when it falls due. -/
  | delay (task : Nat)
  /-- INSTANTIATE (R134): Creates one whole instance of a cadence-0 graph template, or ends aborted. -/
  | instantiate (task : Nat)
  /-- POST (R135): Appends one data entry built from its parameter block to the queue in output slot 8. -/
  | post (task : Nat)
  /-- COPY (R551): Copies elements by logical index between two descriptors. -/
  | copy (engine : Nat)
  /-- FILL (R101): Writes the destination fill value to its owned region. -/
  | fill (engine : Nat)
  /-- GATHER (R230): Gathers table slices selected by an index stream. -/
  | gather (engine : Nat)
  /-- SCATTER (R230): Scatters values to index-selected slices, highest source index winning. -/
  | scatter (engine : Nat)
  /-- MATMUL (R212): Matrix product A, B, bias to C. -/
  | matmul (engine : Nat)
  /-- CONV2D (R212): Two-dimensional convolution. -/
  | conv2d (engine : Nat)
  /-- DWCONV2D (R212): Depthwise convolution. -/
  | dwconv2d (engine : Nat)
  /-- TCONV2D (R212): Transposed convolution. -/
  | tconv2d (engine : Nat)
  /-- ELTWISE (R211): Elementwise binary operation with broadcasting. -/
  | eltwise (engine : Nat)
  /-- UNARY (R209): Elementwise unary function. -/
  | unary (engine : Nat)
  /-- QUANTIZE (R208): Produces narrow values and a scale array. -/
  | quantize (engine : Nat)
  /-- DEQUANTIZE (R208): Loads scaled narrow values and stores them wider. -/
  | dequantize (engine : Nat)
  /-- CMATMUL (R206): Complex matrix product. -/
  | cmatmul (engine : Nat)
  /-- REDUCE (R212): Sum, mean, max or min over a dimension set. -/
  | reduce (engine : Nat)
  /-- SOFTMAX (R211): Softmax over one dimension. -/
  | softmax (engine : Nat)
  /-- LAYERNORM (R211): Layer normalization. -/
  | layernorm (engine : Nat)
  /-- RMSNORM (R211): RMS normalization. -/
  | rmsnorm (engine : Nat)
  /-- ARGMAX (R210): Index of the maximum, lowest index on ties. -/
  | argmax (engine : Nat)
  /-- TOPK (R210): Top-k values and indices. -/
  | topk (engine : Nat)
  /-- ATTENTION (R211): Scaled attention over Q, K, V and a mask. -/
  | attention (engine : Nat)
  /-- ROUTE_GATHER (R230): Routes tokens into per-expert blocks by an index stream. -/
  | routeGather (engine : Nat)
  /-- ROUTE_COMBINE (R211): Combines expert outputs in ascending expert index. -/
  | routeCombine (engine : Nat)
  /-- ISP_FRAME (R287): Runs the ISP pipeline on a camera or detached frame into an image and statistics. -/
  | ispFrame (engine : Nat)
  /-- PYR_BUILD (R308): Builds pyramid levels. -/
  | pyrBuild (engine : Nat)
  /-- PYR_LAPLACE (R312): Forms a Laplacian level. -/
  | pyrLaplace (engine : Nat)
  /-- WARP_MESH (R314): Resamples an image through a mesh grid. -/
  | warpMesh (engine : Nat)
  /-- WARP_HOMOG (R315): Resamples an image through a homography. -/
  | warpHomog (engine : Nat)
  /-- FLOW (R330): Dense optical flow with a status plane. -/
  | flow (engine : Nat)
  /-- STEREO (R331): Dense disparity with a status plane. -/
  | stereo (engine : Nat)
  /-- FEAT_DETECT (R350): Detects and describes features into a feature list. -/
  | featDetect (engine : Nat)
  /-- FEAT_MATCH (R356): Matches two feature lists into a match list. -/
  | featMatch (engine : Nat)
  /-- DFE_DDC (R384): Forms baseband samples from JESD streams. -/
  | dfeDdc (engine : Nat)
  /-- DFE_DUC (R385): Forms JESD transmit samples with crest-factor reduction. -/
  | dfeDuc (engine : Nat)
  /-- FFT (R387): Time samples to block-scaled CI16 values and scales. -/
  | fft (engine : Nat)
  /-- IFFT (R388): Values and scales to time samples with cyclic prefix. -/
  | ifft (engine : Nat)
  /-- PRACH_DETECT (R390): Detects PRACH preambles into a report. -/
  | prachDetect (engine : Nat)
  /-- LDPC_DECODE (R392): Decodes a transport block with CRC status. -/
  | ldpcDecode (engine : Nat)
  /-- LDPC_ENCODE (R394): Encodes and rate-matches a transport block. -/
  | ldpcEncode (engine : Nat)
  /-- POLAR_ENCODE (R396): Polar-encodes PBCH or DCI bits. -/
  | polarEncode (engine : Nat)
  /-- POLAR_DECODE (R394): CRC-aided list-8 polar decoding on tiles. -/
  | polarDecode (engine : Nat)
  /-- FH_TX (R401): Sends eCPRI U-plane and C-plane messages in the peer's window. -/
  | fhTx (engine : Nat)
  /-- FH_RX (R401): Receives eCPRI U-plane into values and scales until its window closes. -/
  | fhRx (engine : Nat)
  /-- CRC32C (R552): Writes the CRC-32C of each layout tile of a tensor. -/
  | crc32c (engine : Nat)
  /-- COMPARE (R552): Writes the mismatch count and first mismatch of two tensors. -/
  | compare (engine : Nat)
  /-- CAIRN_CHECK (R454): Compares an output with a golden output within a tolerance into a verdict record. -/
  | cairnCheck (engine : Nat)
  /-- SEND_SHARD (R422): Sends this member's part of a tensor to a peer. -/
  | sendShard (engine : Nat)
  /-- RECV_SHARD (R422): Receives a peer's part of a tensor. -/
  | recvShard (engine : Nat)
  /-- ALL_REDUCE (R422): Reduces inputs of all members in ascending rank. -/
  | allReduce (engine : Nat)
  /-- ALL_GATHER (R422): Gathers shards of all members in rank order. -/
  | allGather (engine : Nat)
  /-- PACKET_RECEIVE (R278): A CSI-2 packet is checked and its line stored, replaced or discarded. -/
  | packetReceive (port : Nat) (vc : Nat) (dt : Nat) (payload : List (BitVec 8)) (header : Nat) (crcOk : Bool)
  /-- DESKEW (R277): The receiver runs D-PHY deskew calibration on a deskew sequence. -/
  | deskew (port : Nat) (passed : Bool)
  /-- CSI_LINK_LOSS (R279): No valid header or clock lane for CSI_LOSS.us takes the link down with event 0xA702. -/
  | csiLinkLoss (port : Nat)
  /-- FRAME_START (R281): A frame start packet stamps and numbers a new frame, commits the parameter page and creates the camera-cadence instance. -/
  | frameStart (cam : Nat) (csiFrame : Nat)
  /-- FRAME_END (R282): A frame end packet closes the frame as complete, short or long. -/
  | frameEnd (cam : Nat) (csiFrame : Nat)
  /-- FRAME_TIMEOUT (R283): The frame-timeout watchdog closes an open frame short and timeout at its deadline. -/
  | frameTimeout (cam : Nat)
  /-- CAM_ARM (R293): CAM_CMD.arm sets CAM_STATE.armed for a parameter commit. -/
  | camArm (sender : Requester) (cam : Nat)
  /-- CAM_DISARM (R293): CAM_CMD.disarm clears armed before the boundary. -/
  | camDisarm (sender : Requester) (cam : Nat)
  /-- EXPOSURE_REQUEST (R301): A write to CAM_EXPREQ queues an exposure request, or refuses it with event 0x3701. -/
  | exposureRequest (sender : Requester) (cam : Nat) (block : Nat)
  /-- BUS_LIST_START (R299): A write to CSI_BUS_LIST starts a software sensor-bus list. -/
  | busListStart (sender : Requester) (port : Nat) (addr : Nat)
  /-- BUS_TRANSFER_COMPLETE (R301): A sensor-bus entry completes; after the last entry of an exposure request its target frame is recorded. -/
  | busTransferComplete (port : Nat) (data : List (BitVec 8))
  /-- BUS_TRANSFER_FAIL (R299): A transfer without acknowledgement, or not complete within 10 ms, fails with event 0x4704. -/
  | busTransferFail (port : Nat)
  /-- ISP_CTL_APPLY (R303): A held ISP_CTL write takes effect once no frame of the old or new in-line context is open. -/
  | ispCtlApply
  /-- HALL_FLAG_ADV (R361): A BCC write advances a Hall flag by 1. -/
  | hallFlagAdv (sender : Requester) (flag : Nat)
  /-- HALL_FLAG_THR_WRITE (R362): A threshold written at or below the count crosses at once. -/
  | hallFlagThrWrite (sender : Requester) (flag : Nat) (thr : Nat)
  /-- HALL_RECORD_ACTIVATE (R372): Writing HALL_BUF_BASE nonzero checks and makes a Hall buffer record live. -/
  | hallRecordActivate (sender : Requester) (record : Nat) (base : Nat) (copiesM1 : Nat)
  /-- DMA_START (R257): CTL.start starts a channel at ACTIVE_HEAD from idle or halted. -/
  | dmaStart (sender : Requester) (ch : Nat)
  /-- DMA_ARM (R270): CTL.arm sets STATUS.armed for a shadow chain hand-over. -/
  | dmaArm (sender : Requester) (ch : Nat)
  /-- DMA_DISARM (R271): CTL.disarm clears armed before the hand-over point. -/
  | dmaDisarm (sender : Requester) (ch : Nat)
  /-- DMA_STOP (R268): CTL.stop lets the executing descriptor complete and idles the channel. -/
  | dmaStop (sender : Requester) (ch : Nat)
  /-- DMA_ABORT (R268): CTL.abort drains the channel and completes the descriptor as aborted. -/
  | dmaAbort (sender : Requester) (ch : Nat)
  /-- CRATE_FETCH_DONE (R263): A crate of four descriptors arrives and its descriptors are checked and followed. -/
  | crateFetchDone (ch : Nat)
  /-- DESCRIPTOR_COMPLETE (R265): A descriptor's last write is acknowledged and its status write-back is issued. -/
  | descriptorComplete (ch : Nat)
  /-- WRITEBACK_ACK (R265): A status write-back is acknowledged and the descriptor's token, flag advance and entry are sent. -/
  | writebackAck (ch : Nat)
  /-- DMA_TRANSFER_ERROR (R269): An error response to a transfer marks the descriptor bad with event 0x4601. -/
  | dmaTransferError (ch : Nat)
  /-- FETCH_TIMEOUT (R269): A crate fetch without response within fetch_us halts the channel chain-broken. -/
  | fetchTimeout (ch : Nat)
  /-- DESCRIPTOR_TIMEOUT (R269): A descriptor running longer than desc_ms is drained, marked timed out and halts the channel. -/
  | descriptorTimeout (ch : Nat)
  /-- DMA_DRAIN_COMPLETE (R257): A draining channel's outstanding transfers are answered and it enters halted. -/
  | dmaDrainComplete (ch : Nat)
  /-- STREAM_SHARE_WRITE (R239): A STREAM_SHARE write is clamped and applied only if its fields sum to 16. -/
  | streamShareWrite (sender : Requester) (part : Nat) (value : BitVec 64)
  /-- FENCE_DRAIN_END (R461): The last outstanding request of a fenced domain is answered and the drain ends. -/
  | fenceDrainEnd (domain : Nat)
  /-- FENCE_DRAIN_DECLARATION (R461): At fence stamp + 50 µs the drain is declared and remaining inbound requests get error responses. -/
  | fenceDrainDeclaration (domain : Nat)
  /-- RUNG_1_RESET (R464): Rung 1 resets one context on one engine, by trigger or RCV_CMD. -/
  | rung1Reset (engine : Nat) (handle : Nat)
  /-- RUNG_2_RESET (R464): Rung 2 resets one engine, DMA channel or Ethernet port. -/
  | rung2Reset (engine : Nat)
  /-- RUNG_3_RESET (R464): Rung 3 resets one partition with DDR retraining and restricted mode. -/
  | rung3Reset (part : Nat)
  /-- CHIP_RESET (R464): Rung 4 resets the die except the always-on domain, reboots the BCC and replays the ledger. -/
  | chipReset (cause : Nat)
  /-- POWER_CYCLE_REQUEST (R474): Rung 5 asks the tray controller for a power cycle through PCYC_REQ_N and SMBus. -/
  | powerCycleRequest (reason : Nat)
  /-- RUNG_LIMIT_EXPIRY (R465): A reset incomplete at its limit is abandoned and the next rung begins with event 0x7003. -/
  | rungLimitExpiry (reset : Nat)
  /-- RESET_COMPLETE (R464): A reset's scope returns to service and its reset report is written with event 0x7002. -/
  | resetComplete (reset : Nat)
  /-- REPLAY_CHIP (R161): Once every populated C partition is back, the BCC rebuilds ledger-mode queues and resubmits interrupted work. -/
  | replayChip
  /-- ENGINE_HANG_WATCHDOG (R459): A running stall without heartbeat or counted stall for RCV_HANG.us raises 0x5201 and a rung 2 reset. -/
  | engineHangWatchdog (engine : Nat)
  /-- WDT_KICK (R460): A write of 1 to RCV_WDT.kick restarts the BCC watchdog. -/
  | wdtKick (sender : Requester)
  /-- BCC_WATCHDOG_EXPIRY (R460): No kick within bcc_ms raises event 0x5202 and restarts the BCC. -/
  | bccWatchdogExpiry
  /-- HEARTBEAT_LOSS (R460): A missing Tally, security block or SiteTime heartbeat for 100 µs raises 0x5202 and resets the block or the die. -/
  | heartbeatLoss (block : Nat)
  /-- RESET_IN (R475): RESET_IN_N low for 1 µs begins rung 4 with a zero-length drain. -/
  | resetIn
  /-- RESET_IN_RELEASE (R475): RESET_IN_N rising lets the rung 4 reset complete. -/
  | resetInRelease
  /-- SMBUS_BLOCK_READ_A0 (R474): SMBus Block Read 0xA0 returns the 16-byte rung 5 message and releases TRAY_ALERT_N. -/
  | smbusBlockReadA0
  /-- RETURN_TO_SERVICE (R533): A write to SEC_RTS verifies a signed command and leaves bivouac, or refuses it with event 0x9008. -/
  | returnToService (sender : Requester) (addr : Nat)
  /-- START_SERVICE (R145): TIME_CMD.start_service sets TIME_STATUS.service. -/
  | startService (sender : Requester)
  /-- TIME_STEP (R145): A write to TIME_STEP steps SiteTime, refused while service is 1. -/
  | timeStep (sender : Requester) (offset : BitVec 64)
  /-- PPS_IN_EDGE (R143): A rising PPS_IN edge is stamped into TIME_PPS_IN_STAMP. -/
  | ppsInEdge
  /-- PPS_OUT_RISE (R143): PPS_OUT rises when the SiteTime fraction passes TIME_PPS_OUT.phase. -/
  | ppsOutRise
  /-- PPS_OUT_FALL (R143): PPS_OUT falls 100 µs after it rose. -/
  | ppsOutFall
  /-- TIME_LOCKED (R144): The servo offset within its limit for 16 s puts the SiteTime unit in locked with event 0x0201. -/
  | timeLocked (offset : Int)
  /-- HOLDOVER (R144): Loss of all phase sources while locked enters holdover with event 0x0201. -/
  | holdover (error : Int)
  /-- GATE_DECISION (R445): When an instance's tasks, checks and windows are all done, the gate writes the verdict into its entries and a closing entry. -/
  | gateDecision (pipe : Nat) (inst : Nat)
  /-- GATE_DEADLINE (R445): At capture stamp + ftti_ms an undecided instance gets a fault of kind 5 and is decided. -/
  | gateDeadline (pipe : Nat) (inst : Nat)
  /-- CHECKER_COMPARE (R441): A checker's recomputed block CRC is compared with the producer's; a difference is a fault of kind 0. -/
  | checkerCompare (pipe : Nat) (task : Nat) (crc : Nat)
  /-- SAFE_CLEAR (R447): SAFE_PIPE_CMD.clear leaves safe state if every bound cairn has passed since. -/
  | safeClear (sender : Requester) (pipe : Nat)
  /-- SAFE_ENTER (R447): SAFE_PIPE_CMD.enter forces safe state with reason 3. -/
  | safeEnter (sender : Requester) (pipe : Nat)
  /-- PIPELINE_ENABLE (R444): Setting SAFE_PIPE_CFG.enable checks the output queue and enables the pipeline unverified. -/
  | pipelineEnable (sender : Requester) (pipe : Nat)
  /-- SEAL_ENABLE (R438): Setting SAFE_SEAL.enable checks and enables a seal sidecar. -/
  | sealEnable (sender : Requester) (record : Nat) (base : Nat)
  /-- BELAY_ENABLE (R450): Setting SAFE_BW_CFG.enable checks and enables a belay window. -/
  | belayEnable (sender : Requester) (window : Nat)
  /-- BELAY_ARM (R451): SAFE_BW_CMD.arm sets armed for a commit at the next instance creation. -/
  | belayArm (sender : Requester) (window : Nat)
  /-- BELAY_DISARM (R451): SAFE_BW_CMD.disarm clears armed before the boundary. -/
  | belayDisarm (sender : Requester) (window : Nat)
  /-- BELAY_WINDOW_DECISION (R449): At close + 1,024 units a belay window judges its stage in window, early or late. -/
  | belayWindowDecision (window : Nat)
  /-- CAIRN_ENABLE (R452): Setting SAFE_CAIRN_CFG.enable reserves a cairn instance's entries and starts its period. -/
  | cairnEnable (sender : Requester) (cairn : Nat)
  /-- CAIRN_DUE (R452): At a cairn due time SAFE creates its instance and reserves the target engine's prefetched stall. -/
  | cairnDue (cairn : Nat)
  /-- CAIRN_WINDOW_EXPIRY (R453): At t + window_ms the cairn is judged passed, failed or missed. -/
  | cairnWindowExpiry (cairn : Nat)
  /-- BIST_START (R488): BIST_CMD.start begins an in-service test of a unit, or is refused with 0x3F01. -/
  | bistStart (sender : Requester) (unit : Nat)
  /-- BIST_ABORT (R491): BIST_CMD.abort returns the unit to service or skips to restore. -/
  | bistAbort (sender : Requester)
  /-- BIST_DRAIN_LIMIT (R489): At drain_ms the tasks still running on the unit are interrupted and the unit is fenced. -/
  | bistDrainLimit
  /-- LBIST_COMPLETE (R482): An LBIST run ends with pass, fail or conditions not met. -/
  | lbistComplete (misrPort : BitVec 64) (misrBody : BitVec 64) (broken : Nat) (worst : Nat)
  /-- MBIST_COMPLETE (R485): An MBIST run ends and failing macros are taken out of service. -/
  | mbistComplete (failing : List Nat)
  /-- ROTATION_DUE (R490): The rotation period starts the in-service test of the next unit in rot_mask. -/
  | rotationDue
  /-- BIST_RETRY (R490): A test ending in conditions not met is repeated after 10 minutes. -/
  | bistRetry
  /-- BIST_BYPASS_WRITE (R492): A BIST_BYPASS write makes engines absent once their task ends, or returns them after MBIST. -/
  | bistBypassWrite (sender : Requester) (engines : Nat)
  /-- RAIL_INVALID (R497): A rail leaving its window or losing PG_IN becomes invalid, raising 0xB001 and its reset. -/
  | railInvalid (rail : Nat)
  /-- RAIL_VALID (R497): A rail returning to validity raises event 0xB001. -/
  | railValid (rail : Nat)
  /-- POWER_ON (R498): VDD_AO and VDDIO valid with REF_AO running for 1 ms release the always-on domain from reset. -/
  | powerOn
  /-- BCC_RESET_RELEASE (R498): Every rail valid for 2 ms with REF_SYNC running starts the PLLs and releases the BCC. -/
  | bccResetRelease
  /-- REF_AO_LOSS (R544): REF_AO stopping for 2 µs is treated as loss of VDD_AO. -/
  | refAoLoss
  /-- WARM_STANDBY_ENTRY (R500): An engine idle for warm_ns gates its clock into warm standby. -/
  | warmStandbyEntry (engine : Nat)
  /-- COLD_ENTRY (R500): An engine in warm standby for cold_us goes cold. -/
  | coldEntry (engine : Nat)
  /-- PLL_STOP (R500): A clock domain's PLL stops once every engine on it has been cold for cold_us. -/
  | pllStop (domain : Nat)
  /-- WAKE_COMPLETE (R500): An engine's wake ends and it is awake. -/
  | wakeComplete (engine : Nat)
  /-- DOMAIN_SWITCH (R499): A PWR_DOM write switches a BCC-switched domain on or off. -/
  | domainSwitch (sender : Requester) (domain : Nat) (on : Bool)
  /-- PLL_UNLOCK (R503): A PLL losing lock stops its output, stalls its engines and raises event 0xB009. -/
  | pllUnlock (domain : Nat)
  /-- PLL_RELOCK_TIMEOUT (R503): A PLL not relocked within 100 µs resets its engines at rung 2 or the die at rung 4. -/
  | pllRelockTimeout (domain : Nat)
  /-- POWER_EVALUATION (R506): Every 10 µs package power is computed and throttling started or lifted. -/
  | powerEvaluation (mw : Nat)
  /-- MONITOR_SAMPLE (R504): The monitor bank samples every monitor every 10 µs. -/
  | monitorSample (kind : Nat) (index : Nat) (value : Nat)
  /-- DROOP_DETECT (R505): A local supply below the setpoint by thr_mv stretches its clock to half frequency. -/
  | droopDetect (part : Nat)
  /-- BOOT (R521): The ROM and BCC verify the owner record, images and configuration, run the start-up test and open Tally. -/
  | boot (port : Nat) (body : Nat) (macros : List Nat) (ring : Nat)
  /-- MEASUREMENT_EXTEND (R526): A SEC_EXTEND write extends layer 5–7 by a 64-byte measurement. -/
  | measurementExtend (sender : Requester) (layer : Nat) (addr : Nat)
  /-- ATTESTATION_REQUEST (R528): A SEC_ATT_REQ write starts a signed attestation report over a nonce. -/
  | attestationRequest (sender : Requester) (addr : Nat)
  /-- ATTESTATION_REPORT_DONE (R528): The 1,024-byte report is written and busy clears. -/
  | attestationReportDone
  /-- FIRMWARE_UPDATE (R531): A SEC_UPD write starts verification of a new BCC patch image. -/
  | firmwareUpdate (sender : Requester) (addr : Nat)
  /-- UPDATE_WRITE_DONE (R531): The image is written to the inactive slot and read back. -/
  | updateWriteDone (ok : Bool)
  /-- QUIESCENT_TICK (R531): A quiescent BCC tick hands over to the new image in probation. -/
  | quiescentTick
  /-- UPDATE_WAIT_TIMEOUT (R531): No quiescent tick within 10 s refuses the update. -/
  | updateWaitTimeout
  /-- UPDATE_COMMIT (R531): After 1 s of kicks the new image becomes the active slot with event 0x9006. -/
  | updateCommit
  /-- UPDATE_REVERT (R532): A watchdog expiry or stop in probation resumes the old image with event 0x9007. -/
  | updateRevert
  /-- SVN_COMMIT_BCC (R523): SEC_SVN_COMMIT.bcc advances the BCC counter to the running svn. -/
  | svnCommitBcc (sender : Requester)
  /-- SVN_COMMIT_APP (R523): SEC_SVN_COMMIT.app advances the application counter to the running svn. -/
  | svnCommitApp (sender : Requester)
  /-- IDCODE (R529): The TAP IDCODE instruction returns the identification code. -/
  | idcode
  /-- TAP_BYPASS (R529): The TAP BYPASS instruction selects the bypass register. -/
  | tapBypass
  /-- DEBUG_CHALLENGE (R530): The TAP reads a 64-byte challenge from the random generator. -/
  | debugChallenge
  /-- DEBUG_RESPONSE (R530): A signed response unlocks a debug level and extends layer 3, or fails with event 0x9005. -/
  | debugResponse (data : List (BitVec 8))
  /-- EXTEST (R530): EXTEST drives pins from the boundary register and takes the device out of service. -/
  | extest (pins : Nat)
  /-- EXTEST_EXIT (R530): Leaving EXTEST starts a rung 4 reset. -/
  | extestExit
  /-- ETH_FRAME_RECEIVE (R413): A received Ethernet frame is routed to PTP, LLDP, FHE, the fabric engine or a receive queue. -/
  | ethFrameReceive (port : Nat) (frame : List (BitVec 8))
  /-- ETH_FRAME_TRANSMIT (R415): The MAC binds the next ETH_TXQ entry in seq order and sends its frame. -/
  | ethFrameTransmit (port : Nat)
  /-- RX_BUFFER_RETURN (R415): A write to ETH_RXBUF_RET returns receive buffers up to an index. -/
  | rxBufferReturn (sender : Requester) (port : Nat) (index : Nat)
  /-- ETH_LINK_UP (R425): An Ethernet link comes up with event 0xAD01. -/
  | ethLinkUp (port : Nat)
  /-- ETH_LINK_DOWN (R425): An Ethernet link goes down with event 0xAD02. -/
  | ethLinkDown (port : Nat)
  /-- LLDP_SEND (R425): LLDP is sent on every port with link up every 30 s. -/
  | lldpSend (port : Nat)
  /-- LLDP_TTL_EXPIRY (R425): A neighbour whose TTL expires raises event 0xAD04. -/
  | lldpTtlExpiry (port : Nat)
  /-- RDMA_WRITE_RECEIVE (R418): An inbound RDMA WRITE is checked and written, or refused with a NAK and event 0x3D01. -/
  | rdmaWriteReceive (qp : Nat) (psn : Nat) (form : Nat) (rkey : Nat) (addr : Nat) (len : Nat) (data : List (BitVec 8)) (ce : Bool)
  /-- RDMA_READ_RECEIVE (R418): An inbound RDMA READ request is checked and answered, or refused with a NAK. -/
  | rdmaReadReceive (qp : Nat) (psn : Nat) (rkey : Nat) (addr : Nat) (len : Nat)
  /-- ROCE_SEND_RECEIVE (R423): An inbound SEND delivers a fabric message to its queue or a matching receiving task. -/
  | roceSendReceive (qp : Nat) (psn : Nat) (form : Nat) (message : List (BitVec 8)) (ce : Bool)
  /-- ROCE_ACK_RECEIVE (R416): An ACK or NAK completes or retransmits outstanding packets of a queue pair. -/
  | roceAckReceive (qp : Nat) (psn : Nat) (nak : Nat)
  /-- CNP_RECEIVE (R419): A CNP is counted in its queue pair's rate window. -/
  | cnpReceive (qp : Nat)
  /-- ACK_TIMEOUT (R416): An ACK timeout retransmits go-back-N; exhausted retries end tasks naming the peer. -/
  | ackTimeout (qp : Nat)
  /-- RATE_WINDOW_END (R419): At each window_us a queue pair's rate is cut or raised. -/
  | rateWindowEnd (qp : Nat)
  /-- RESET_NOTICE (R426): A reset notice from rank q puts its queue pairs in error and aborts tasks naming q. -/
  | resetNotice (job : Nat) (rank : Nat)
  /-- TRANSFER_DISCARD (R421): A transfer no live task awaits is discarded after 10 ms. -/
  | transferDiscard (index : Nat)
  /-- JOB_ABORT (R427): FAB_JOB_CMD cmd 1 cancels the job's unfinished tasks of step k. -/
  | jobAbort (sender : Requester) (job : Nat) (step : Nat)
  /-- JOB_RESUME (R427): FAB_JOB_CMD cmd 2 increments the epoch and readmits every rank. -/
  | jobResume (sender : Requester) (job : Nat)
  /-- PCIE_LINK_UP (R428): The PCIe link comes up with event 0xAD06. -/
  | pcieLinkUp (speed : Nat) (width : Nat)
  /-- PCIE_LINK_DOWN (R428): The PCIe link goes down with event 0xAD07. -/
  | pcieLinkDown
  /-- MSI_RECEIVE (R428): An inbound write to PCIE_MSI.addr raises event 0x0D01. -/
  | msiReceive (addr : Nat) (data : Nat)
  /-- SYSREF_EDGE (R382): A SYSREF edge aligns JESD links and resynchronizes links that lost sync. -/
  | sysrefEdge
  /-- JESD_LINK_ERROR (R382): Sync loss or a CRC-12 error takes a link out of data state with event 0xAC02. -/
  | jesdLinkError (link : Nat) (sync : Bool)
  /-- SYMBOL_BOUNDARY (R383): A symbol begins at a DFE channel and is processed by its task or as zeros. -/
  | symbolBoundary (carrier : Nat) (samples : List (BitVec 8))
  /-- SYMBOL_LAUNCH (R385): At a symbol's launch instant the DUC sends it, or zeros if its band was late. -/
  | symbolLaunch (carrier : Nat)
  /-- FH_WINDOW_OPEN (R401): A fronthaul send window opens and filled symbols are sent. -/
  | fhWindowOpen (peer : Nat)
  /-- FH_WINDOW_CLOSE (R401): At the declaration of close, unsent symbols are counted missed and FH_RX fills missing PRBs and ends. -/
  | fhWindowClose (peer : Nat)
  /-- PLL_RELOCKED (R503): A PLL that lost lock locks again, its output restarts and the stalled engines of its clock domain resume. -/
  | pllRelocked (domain : Nat)
  /-- SERVO_START (R144): The BCC starts the PTP servo and the SiteTime unit enters the acquiring state. -/
  | servoStart
  /-- DROOP_STRETCH_END (R505): Sixteen cycles after a local supply droop ends, the clock stretch of its domain ends and full frequency returns. -/
  | droopStretchEnd (part : Nat)
  /-- UPDATE_VERIFICATION_DONE (R531): Verification of a new BCC patch image ends, moving the update to writing or to refused with event 0x9001. -/
  | updateVerificationDone
  /-- LEDGER_COPY_REWRITTEN (R165): The BCC finishes rewriting the missing ledger copy from the surviving one and the queue accepts enqueues again. -/
  | ledgerCopyRewritten (queue : Nat)
  /-- RDMA_READ_RESPONSE (R424): An RDMA READ response arrives for a read the fabric engine issued, such as the read-back of a mirror region. -/
  | rdmaReadResponse (qp : Nat) (psn : Nat) (data : List (BitVec 8))
  deriving DecidableEq, Repr

end Sys2Proof
end

