-- ==== Sys2Proof/Machine/Bits.lean ====
section
/-! DEFINITION. Bit fields, sign extension, byte order (R3, R4), CRC-32C and serial-number order (R148). -/

namespace Sys2Proof.Machine

open Sys2Proof

/-- Bits [lsb + width − 1 : lsb] of a natural number (R3). -/
def bitsOf (n lsb width : Nat) : Nat := n / 2 ^ lsb % 2 ^ width

/-- The field of a 64-bit word at [lsb + width − 1 : lsb] (R3). -/
def getBits (w : Word) (lsb width : Nat) : Nat := bitsOf w.toNat lsb width

/-- A 64-bit word with its field at [lsb + width − 1 : lsb] replaced; all other bits keep their values. -/
def setBits (w : Word) (lsb width v : Nat) : Word :=
  let mask : Word := BitVec.ofNat 64 ((2 ^ width - 1) * 2 ^ lsb)
  (w &&& ~~~ mask) ||| (BitVec.ofNat 64 (v * 2 ^ lsb) &&& mask)

/-- Bit i of a word as a truth value. -/
def bitAt (n i : Nat) : Bool := n / 2 ^ i % 2 == 1

/-- 1 for true, 0 for false. -/
def flagBit (b : Bool) : Nat := if b then 1 else 0

/-- The two's-complement value of the low w bits of n. -/
def signed (w n : Nat) : Int :=
  let m := n % 2 ^ w
  if w ≠ 0 ∧ 2 ^ (w - 1) ≤ m then (m : Int) - 2 ^ w else m

/-- The w-bit two's-complement pattern of an integer. -/
def unsigned (w : Nat) (i : Int) : Nat := (i % (2 ^ w : Int)).toNat

/-- The number whose bytes, lowest first, are given (R4). -/
def leNat : List Byte → Nat
  | [] => 0
  | b :: bs => b.toNat + 256 * leNat bs

/-- The k bytes of a number, lowest first (R4). -/
def leBytes : Nat → Nat → List Byte
  | 0, _ => []
  | k + 1, n => BitVec.ofNat 8 n :: leBytes k (n / 256)

/-- Bytes off to off + len − 1 of a record, read as a little-endian number. -/
def leAt (bs : List Byte) (off len : Nat) : Nat := leNat ((bs.drop off).take len)

/-- A number in k bytes, highest first. -/
def beBytes (k n : Nat) : List Byte := (leBytes k n).reverse

/-- Bytes off to off + len − 1 read highest first. -/
def beAt (bs : List Byte) (off len : Nat) : Nat := leNat ((bs.drop off).take len).reverse

/-- k zero bytes. -/
def zeros (k : Nat) : List Byte := List.replicate k 0#8

/-- A record padded with zero bytes, or cut, to n bytes. -/
def padTo (n : Nat) (bs : List Byte) : List Byte := (bs ++ zeros n).take n

/-- Whether every byte of a record from off to off + len − 1 is 0 (R8). -/
def allZero (bs : List Byte) (off len : Nat) : Bool := ((bs.drop off).take len).all (· == 0#8)

/-- A record with the bytes at off replaced. -/
def putBytes (bs : List Byte) (off : Nat) (new : List Byte) : List Byte :=
  bs.take off ++ new ++ bs.drop (off + new.length)

/-- Addition of a counter that saturates at all-ones of its width. -/
def satAdd (width a b : Nat) : Nat := min (a + b) (2 ^ width - 1)

/-- One bit step of the reflected CRC-32C polynomial 0x82F63B78. -/
def crcBit (c : Nat) : Nat := if c % 2 = 1 then (c / 2) ^^^ 0x82F63B78 else c / 2

/-- One byte step of CRC-32C. -/
def crcByte (c : Nat) (b : Byte) : Nat :=
  let x := c ^^^ b.toNat
  crcBit (crcBit (crcBit (crcBit (crcBit (crcBit (crcBit (crcBit x)))))))

/-- CRC-32C of a byte list (Castagnoli polynomial, initial value and final inversion all-ones; PRESUMED, log entry 10). -/
def crc32c (bs : List Byte) : Nat := (bs.foldl crcByte 0xFFFFFFFF) ^^^ 0xFFFFFFFF

/-- A record of n + 4 bytes closed by the CRC-32C over its first n bytes. -/
def withCrc (n : Nat) (bs : List Byte) : List Byte :=
  let body := padTo n bs
  body ++ leBytes 4 (crc32c body)

/-- Sequence a precedes sequence b (R148): the distance b − a modulo 2^32 lies in 1 to 2^31 − 1. -/
def seqBefore (a b : Nat) : Bool :=
  let d := (b + (2 ^ 32 - a % 2 ^ 32)) % 2 ^ 32
  1 ≤ d && d ≤ 2 ^ 31 - 1

/-- The sign extension of bit 47 to a 64-bit address (R85). -/
def signExtend48 (a : Nat) : Nat :=
  let m := a % 2 ^ 48
  if 2 ^ 47 ≤ m then m + (2 ^ 64 - 2 ^ 48) else m

/-- Whether a 64-bit address is sign-extended from bit 47 (R41). -/
def canonical (a : Nat) : Bool := a < 2 ^ 64 && signExtend48 a == a

/-- SiteTime units in one microsecond are 2^32 / 10^6; a span in microseconds is rounded up to whole units. -/
def usUnits (us : Nat) : Nat := (us * 2 ^ 32 + 999999) / 1000000

/-- A span in milliseconds, in SiteTime units, rounded up. -/
def msUnits (ms : Nat) : Nat := usUnits (ms * 1000)

/-- A span in nanoseconds, in SiteTime units, rounded up. -/
def nsUnits (ns : Nat) : Nat := (ns * 2 ^ 32 + 999999999) / 1000000000

/-- The settle margin of R150: a watcher declares no earlier than its deadline plus 1,024 units. -/
def settleMargin : Nat := 1024

/-- Ceiling division. -/
def ceilDiv (a b : Nat) : Nat := if b = 0 then 0 else (a + b - 1) / b

end Sys2Proof.Machine
end

