-- ==== Sys2Proof/Machine/Crypto.lean ====
section
/-! DEFINITION. The hash and signature that images, reports and commands use (R519): SHAKE256 of FIPS 202 and Ed448 of
RFC 8032, both written from those standards (PRESUMED, log entry 14). -/

namespace Sys2Proof.Machine

open Sys2Proof

/-! ## SHAKE256 -/

/-- The 24 round constants of Keccak-f[1600]. -/
def keccakRc : List Word := [
  0x0000000000000001#64, 0x0000000000008082#64, 0x800000000000808A#64, 0x8000000080008000#64,
  0x000000000000808B#64, 0x0000000080000001#64, 0x8000000080008081#64, 0x8000000000008009#64,
  0x000000000000008A#64, 0x0000000000000088#64, 0x0000000080008009#64, 0x000000008000000A#64,
  0x000000008000808B#64, 0x800000000000008B#64, 0x8000000000008089#64, 0x8000000000008003#64,
  0x8000000000008002#64, 0x8000000000000080#64, 0x000000000000800A#64, 0x800000008000000A#64,
  0x8000000080008081#64, 0x8000000000008080#64, 0x0000000080000001#64, 0x8000000080008008#64]

/-- Rotation of lane x + 5y. -/
def keccakRot : List Nat :=
  [0, 1, 62, 28, 27, 36, 44, 6, 55, 20, 3, 10, 43, 25, 39, 41, 45, 15, 21, 8, 18, 2, 61, 56, 14]

/-- The state of Keccak: 25 lanes. -/
abbrev Lanes := List Word

/-- Lane (x, y), coordinates modulo 5. -/
def lane (a : Lanes) (x y : Nat) : Word := a.getD (x % 5 + 5 * (y % 5)) 0#64

/-- One round of Keccak-f[1600]. -/
def keccakRound (a : Lanes) (rc : Word) : Lanes :=
  let c := (List.range 5).map fun x => lane a x 0 ^^^ lane a x 1 ^^^ lane a x 2 ^^^ lane a x 3 ^^^ lane a x 4
  let d := (List.range 5).map fun x => c.getD ((x + 4) % 5) 0#64 ^^^ (c.getD ((x + 1) % 5) 0#64).rotateLeft 1
  let t := (List.range 25).map fun i => a.getD i 0#64 ^^^ d.getD (i % 5) 0#64
  let b := (List.range 25).map fun i =>
    let x := i % 5
    let y := i / 5
    let sx := (x + 3 * y) % 5
    (lane t sx x).rotateLeft (keccakRot.getD (sx + 5 * x) 0)
  let e := (List.range 25).map fun i => lane b i (i / 5) ^^^ (~~~ lane b (i % 5 + 1) (i / 5) &&& lane b (i % 5 + 2) (i / 5))
  match e with
  | h :: r => (h ^^^ rc) :: r
  | [] => []

/-- Keccak-f[1600]. -/
def keccakF (a : Lanes) : Lanes := keccakRc.foldl keccakRound a

/-- Bytes per block of SHAKE256. -/
def shakeRate : Nat := 136

/-- Absorb one block. -/
def shakeAbsorb (a : Lanes) (block : List Byte) : Lanes :=
  keccakF ((List.range 25).map fun i => a.getD i 0#64 ^^^ BitVec.ofNat 64 (leAt block (8 * i) 8))

/-- Cut a message into blocks. -/
def shakeBlocks : Nat → List Byte → List (List Byte)
  | 0, _ => []
  | n + 1, m => m.take shakeRate :: shakeBlocks n (m.drop shakeRate)

/-- The message with its padding. -/
def shakePad (m : List Byte) : List Byte :=
  let total := (m.length / shakeRate + 1) * shakeRate
  let body := m ++ [0x1F#8] ++ zeros (total - m.length - 1)
  putBytes body (total - 1) [body.getD (total - 1) 0#8 ||| 0x80#8]

/-- Squeeze blocks. -/
def shakeSqueeze : Nat → Lanes → List Byte
  | 0, _ => []
  | n + 1, a => (a.flatMap fun w => leBytes 8 w.toNat).take shakeRate ++ shakeSqueeze n (keccakF a)

/-- SHAKE256 with n bytes of output. -/
def shake256 (m : List Byte) (n : Nat) : List Byte :=
  let p := shakePad m
  let a := (shakeBlocks (p.length / shakeRate) p).foldl shakeAbsorb (List.replicate 25 0#64)
  (shakeSqueeze (n / shakeRate + 1) a).take n

/-- SHAKE256 with 512-bit output. -/
def shake512 (m : List Byte) : List Byte := shake256 m 64

/-! ## Ed448 -/

/-- The prime of the field. -/
def edP : Nat := 2 ^ 448 - 2 ^ 224 - 1

/-- The order of the base point. -/
def edL : Nat := 2 ^ 446 - 13818066809895115352007386748515426880336692474882178609894547503885

/-- The curve constant d = −39081. -/
def edD : Nat := edP - 39081

/-- x to the power e modulo edP, by squaring over the low n bits of e. -/
def edPow : Nat → Nat → Nat → Nat
  | 0, _, _ => 1
  | n + 1, x, e =>
    let r := edPow n (x * x % edP) (e / 2)
    if e % 2 = 1 then r * x % edP else r

/-- The inverse in the field. -/
def edInv (x : Nat) : Nat := edPow 448 x (edP - 2)

/-- A point in projective coordinates. -/
abbrev EdPoint := Nat × Nat × Nat

/-- The neutral element. -/
def edZero : EdPoint := (0, 1, 1)

/-- Addition of points (RFC 8032, 5.2.4). -/
def edAdd (p q : EdPoint) : EdPoint :=
  let a := p.2.2 * q.2.2 % edP
  let b := a * a % edP
  let c := p.1 * q.1 % edP
  let d := p.2.1 * q.2.1 % edP
  let e := edD * (c * d % edP) % edP
  let f := (b + (edP - e)) % edP
  let g := (b + e) % edP
  let h := (p.1 + p.2.1) * (q.1 + q.2.1) % edP
  (a * f % edP * ((h + 2 * edP - c - d) % edP) % edP, a * g % edP * ((d + edP - c) % edP) % edP, f * g % edP)

/-- A multiple of a point, over the low n bits of the factor. -/
def edMul : Nat → Nat → EdPoint → EdPoint
  | 0, _, _ => edZero
  | n + 1, k, p =>
    let r := edMul n (k / 2) (edAdd p p)
    if k % 2 = 1 then edAdd r p else r

/-- The base point. -/
def edBase : EdPoint :=
  (224580040295924300187604334099896036246789641632564134246125461686950415467406032909029192869357953282578032075146446173674602635247710,
   298819210078481492676017930443930673437544040154080242095928241372331506189835876003536878655418784733982303233503462500531545062832660, 1)

/-- A point as 57 bytes. -/
def edEncode (p : EdPoint) : List Byte :=
  let i := edInv p.2.2
  let x := p.1 * i % edP
  let y := p.2.1 * i % edP
  leBytes 56 y ++ leBytes 1 (x % 2 * 128)

/-- The point 57 bytes spell, if any. -/
def edDecode (b : List Byte) : Option EdPoint :=
  let y := leAt b 0 56
  let sign := leAt b 56 1
  if b.length ≠ 57 ∨ edP ≤ y ∨ sign % 128 ≠ 0 then none
  else
    let u := (y * y + edP - 1) % edP
    let v := (edD * (y * y % edP) + edP - 1) % edP
    let u3 := u * u % edP * u % edP
    let u5v3 := u3 * u % edP * u % edP * (v * v % edP * v % edP) % edP
    let x := u3 * v % edP * edPow 448 u5v3 ((edP - 3) / 4) % edP
    if v * (x * x % edP) % edP ≠ u then none
    else if x = 0 ∧ sign = 128 then none
    else some (if x % 2 = sign / 128 then x else edP - x, y, 1)

/-- The hash of Ed448 with an empty context. -/
def edHash (m : List Byte) : List Byte :=
  shake256 ([0x53#8, 0x69#8, 0x67#8, 0x45#8, 0x64#8, 0x34#8, 0x34#8, 0x38#8, 0#8, 0#8] ++ m) 114

/-- The secret scalar and the prefix of a 57-byte secret. -/
def edSecret (k : List Byte) : Nat × List Byte :=
  let h := shake256 k 114
  let s := leAt h 0 56
  (s % 2 ^ 447 / 4 * 4 + 2 ^ 447, h.drop 57)

/-- The public key of a secret. -/
def edPublic (k : List Byte) : List Byte := edEncode (edMul 448 (edSecret k).1 edBase)

/-- The signature of a message. -/
def edSign (k m : List Byte) : List Byte :=
  let (s, pre) := edSecret k
  let pub := edPublic k
  let r := leNat (edHash (pre ++ m)) % edL
  let bigR := edEncode (edMul 448 r edBase)
  let h := leNat (edHash (bigR ++ pub ++ m)) % edL
  bigR ++ leBytes 57 ((r + h * s) % edL)

/-- Whether two points are one. -/
def edSame (p q : EdPoint) : Bool :=
  p.1 * q.2.2 % edP == q.1 * p.2.2 % edP && p.2.1 * q.2.2 % edP == q.2.1 * p.2.2 % edP

/-- Whether a signature verifies under a public key. -/
def edVerify (pub m sig : List Byte) : Bool :=
  let s := leAt sig 57 57
  match edDecode pub, edDecode (sig.take 57) with
  | some a, some r =>
    sig.length == 114 && s < edL
      && edSame (edMul 448 (4 * s) edBase)
          (edAdd (edMul 3 4 r) (edMul 3 4 (edMul 448 (leNat (edHash (sig.take 57 ++ pub ++ m)) % edL) a)))
  | _, _ => false

end Sys2Proof.Machine
end

