-- ==== Sys2Proof/Config.lean ====
section
/-! DEFINITION. The values the spec leaves open, as constants without bodies (log entry 4), and fixed figures. -/

namespace Sys2Proof

/-- A fresh natural number for a value the spec leaves open: which number the n-th drawn value is. -/
opaque Config.freeNat : Nat → Nat

/-- A fresh byte for contents the spec leaves undefined. -/
opaque Config.freeByte : Nat → BitVec 8

/-- The contents of the BCC mask ROM at an offset (R26). -/
opaque Config.romByte : Nat → BitVec 8

/-- What the n-th read through the PCIe outbound window returns from the attached device, at an address (R26, R428). -/
opaque Config.pcieByte : Nat → Nat → BitVec 8

/-- The digest of the mask ROM, fixed per stepping (R526). -/
opaque Config.romDigest : List (BitVec 8)

/-- The vendor root public key held in the mask ROM (R520). -/
opaque Config.vendorKey : List (BitVec 8)

/-- The device seed that the PUF SRAM and the helper data rebuild (R525). -/
opaque Config.deviceSeed : List (BitVec 8)

/-- The signature the mask ROM expects of a unit's scan segment (0 port, 1 body; R482). -/
opaque Config.scanSignature : Nat → Nat → BitVec 64

/-- Which integer candidate OFE's coarse search settles on (key beginning 0), and which of equal least costs the refinement keeps
(key beginning 1), from what R330 lets the result depend on. -/
opaque Config.flowChoice : List Nat → Nat

/-- The cost STE takes at a pixel for a level it does not evaluate (R329, R332), at (x, y, level). -/
opaque Config.steEdgeCost : Nat → Nat → Nat → Nat

/-- Whether the inexact quotient of P2 (R331) is rounded up, by P2 and the intensity step. -/
opaque Config.steRoundUp : Nat → Nat → Bool

/-- Whether STE takes the old pixel's least cost off a path's costs (R331 does not say). -/
opaque Config.steSubtract : Bool

/-- STE's right-referenced disparity (R337), or a code of 250 to 254 as 65536 + code, from the images, the parameters, the position
and the window base. -/
opaque Config.steRight : List Nat → Nat

/-- What R351 and R352 leave to the stepping for a feature: the rounding of its score (key beginning 0), how far its orientation lies
from the exact one (key beginning 1), and the orientation where both moments are 0 (key beginning 2). -/
opaque Config.featChoice : List Nat → Nat

/-- What R289, R290 and R297 leave to the ISP, by a key: 0 which of equally near pixels stands for one outside the image, 1 a level below
the first decompanding knot, 2 whether a negative inexact quotient is rounded up, 3 a colour of the demosaic between its bounds, 4 a
component of noise reduction between its bounds, 5 a colour a quad lacks. -/
opaque Config.ispChoice : List Nat → Nat

/-- The latency JESD measures on a link, by link and release buffer delay (R378, R408), in units of 2^−32 s. -/
opaque Config.jesdLatency : Nat → Nat → Nat

/-- The physical root of a logical root index for a sequence length (TS 38.211 tables 6.3.3.1-3 and -4, which the spec names). -/
opaque Config.prachRoot : Nat → Nat → Nat

/-- The header bytes of a PRACH report (R390 names what it holds, not where), and the four bytes of a peak of 2^32 or more. -/
opaque Config.prachHeader : List Nat → Nat → BitVec 8
opaque Config.prachPeak : Nat → Nat

/-- The shift of a base-graph entry by base graph, lifting size, row and column; none where the base graph has no entry (TS 38.212 tables
5.3.2-2 and -3, which the spec names). -/
opaque Config.ldpcShift : Nat → Nat → Nat → Nat → Option Nat

/-- The polar sequence from the least to the most reliable index, and the interleaver of up to 164 bits (TS 38.212 tables 5.3.1.2-1 and
5.3.1.1-1, which the spec names). -/
opaque Config.polarOrder : Nat → Nat
opaque Config.polarInterleaver : Nat → Nat

/-- The PBCH payload after the interleaving and scrambling of TS 38.212 clauses 7.1.1 and 7.1.2, by payload bits, cell ID and log2 of the
number of SSBs. -/
opaque Config.pbchScrambled : List Bool → Nat → Nat → List Bool

/-- The path MTU of the fabric engine (R416), as a number of doublings of 1,024 modulo 3, and its retry count (0 to 7 when taken
modulo 8). -/
opaque Config.pathMtuCode : Nat
opaque Config.retryLimit : Nat

/-- The identification code the TAP returns (R529). -/
opaque Config.idcode : BitVec 32

end Sys2Proof
end

