-- ==== Sys2Proof/Machine/Tbl.lean ====
section
/-! DEFINITION. Sparse tables: lists of (key, value) pairs, keys strictly rising. -/

namespace Sys2Proof.Machine

/-- A sparse table keyed by natural numbers. -/
abbrev Tbl (α : Type) := List (Nat × α)

/-- The entry at a key. -/
def tblFind {α : Type} : Tbl α → Nat → Option α
  | [], _ => none
  | (k, v) :: t, i => if k = i then some v else tblFind t i

/-- A table with the entry at a key set, keys kept rising. -/
def tblSet {α : Type} : Tbl α → Nat → α → Tbl α
  | [], i, v => [(i, v)]
  | (k, w) :: t, i, v =>
    if i < k then (i, v) :: (k, w) :: t
    else if i = k then (i, v) :: t
    else (k, w) :: tblSet t i v

/-- A table without the entry at a key. -/
def tblDel {α : Type} : Tbl α → Nat → Tbl α
  | [], _ => []
  | (k, v) :: t, i => if k = i then t else (k, v) :: tblDel t i

/-- The entry at a key, or a default. -/
def tblGet {α : Type} (t : Tbl α) (d : α) (i : Nat) : α := (tblFind t i).getD d

/-- The keys of a table strictly rise. -/
def tblSorted {α : Type} : Tbl α → Bool
  | [] => true
  | [_] => true
  | (k, _) :: (k', v') :: t => k < k' && tblSorted ((k', v') :: t)

/-- The lowest number not used as a key, from a start, within a fuel (R112: lowest free first). -/
def lowestFree (used : Nat → Bool) : Nat → Nat → Option Nat
  | 0, _ => none
  | fuel + 1, i => if used i then lowestFree used fuel (i + 1) else some i

end Sys2Proof.Machine
end

