-- ==== Sys2Proof/Machine/RegMap.lean ====
section
/-! DEFINITION. The register map: every register the spec tabulates, with its page, offset, fields, field types (R5),
ranges and reset values (the register tables of spec/02 to spec/21, allocated by R47). -/

namespace Sys2Proof.Machine

open Sys2Proof

/-- Register field types (R5); RES0 bits are those no field covers. An RWK field carries its range. -/
inductive FieldType where
  | rw | ro | w1c | wo
  | rwk (lo hi : Int)
  deriving DecidableEq, Repr

/-- A register field: lowest bit, width, type, reset value, and the valid encodings when the field is enumerated
(inclusive ranges; an empty list admits every value). -/
structure Field where
  lsb : Nat
  width : Nat
  ty : FieldType
  reset : Nat
  enc : List (Nat × Nat)
  deriving DecidableEq, Repr

/-- Who may write a register (the sentence above each register table). -/
inductive Writers where
  | bccOnly
  | bccOrMachine
  | bccOrPrivCore
  | port
  deriving DecidableEq, Repr

/-- A register or an indexed set of registers: byte offset of the first from 0x7F_0000_0000, the two index ranges with their
strides, who may write it, and its fields. -/
structure RegDef where
  base : Nat
  n1 : Nat
  s1 : Nat
  n2 : Nat
  s2 : Nat
  writers : Writers
  fields : List Field
  deriving DecidableEq, Repr

/-- Pages of register space, in the order of R47. -/
def regPage (p : Nat) : Nat := p * 0x1000

/-- MMU_INVAL.handle (R45). -/
def Fld.mmuInvalHandle : Field := ⟨0, 20, .wo, 0, []⟩
/-- MMU_INVAL.all (R45). -/
def Fld.mmuInvalAll : Field := ⟨20, 1, .wo, 0, []⟩
/-- MMU_INVAL_VA.base (R45). -/
def Fld.mmuInvalVaBase : Field := ⟨12, 36, .rw, 0, []⟩
/-- MMU_INVAL_PAGES.pages_m1 (R45). -/
def Fld.mmuInvalPagesPagesM1 : Field := ⟨0, 36, .rw, 0, []⟩
/-- MMU_INVAL_STATUS.done (R45). -/
def Fld.mmuInvalStatusDone : Field := ⟨0, 1, .ro, 1, []⟩
/-- MC_CTL.speed (R46). -/
def Fld.mcCtlSpeed : Field := ⟨0, 2, .rw, 0, []⟩
/-- MC_CTL.ecc_mode (R46). -/
def Fld.mcCtlEccMode : Field := ⟨2, 1, .ro, 0, []⟩
/-- MC_STATUS.trained (R46). -/
def Fld.mcStatusTrained : Field := ⟨0, 1, .ro, 0, []⟩
/-- MC_STATUS.self_refresh (R46). -/
def Fld.mcStatusSelfRefresh : Field := ⟨1, 1, .ro, 1, []⟩
/-- MC_STATUS.tracking (R46). -/
def Fld.mcStatusTracking : Field := ⟨2, 1, .ro, 0, []⟩
/-- MC_STATUS.capacity_gib (R46). -/
def Fld.mcStatusCapacityGib : Field := ⟨3, 6, .ro, 0, []⟩
/-- MC_STATUS.speed_run (R46). -/
def Fld.mcStatusSpeedRun : Field := ⟨9, 2, .ro, 0, []⟩
/-- MC_ECC_CNT.count (R46). -/
def Fld.mcEccCntCount : Field := ⟨0, 32, .w1c, 0, []⟩
/-- MC_ECC_THR.threshold (R46). -/
def Fld.mcEccThrThreshold : Field := ⟨0, 32, .rwk (1) 4294967295, 1024, []⟩
/-- MC_SCRUB_PERIOD.hours (R46). -/
def Fld.mcScrubPeriodHours : Field := ⟨0, 16, .rwk (1) 168, 24, []⟩
/-- MC_ERR_ADDR.addr (R46). -/
def Fld.mcErrAddrAddr : Field := ⟨0, 40, .ro, 0, []⟩
/-- MC_ERR_ADDR.valid (R46). -/
def Fld.mcErrAddrValid : Field := ⟨63, 1, .w1c, 0, []⟩
/-- TLY_STATUS.store_free (R138). -/
def Fld.tlyStatusStoreFree : Field := ⟨0, 19, .ro, 262144, []⟩
/-- TLY_STATUS.board_free (R138). -/
def Fld.tlyStatusBoardFree : Field := ⟨20, 20, .ro, 524288, []⟩
/-- TLY_STATUS.pinned (R138). -/
def Fld.tlyStatusPinned : Field := ⟨40, 13, .ro, 0, []⟩
/-- TLY_RESV_HI.entries (R138). -/
def Fld.tlyResvHiEntries : Field := ⟨0, 19, .rwk (0) 65536, 8192, []⟩
/-- TLY_PREEMPT.min_class (R138). -/
def Fld.tlyPreemptMinClass : Field := ⟨0, 3, .rwk (1) 7, 6, []⟩
/-- TLY_CLASS_BUDGET.us_m1 (R138). -/
def Fld.tlyClassBudgetUsM1 : Field := ⟨0, 20, .rwk (0) 999999, 0, []⟩
/-- TLY_DLY_CFG.entries (R138). -/
def Fld.tlyDlyCfgEntries : Field := ⟨0, 17, .rwk (0) 65536, 8192, []⟩
/-- TLY_DLY_STATUS.used (R138). -/
def Fld.tlyDlyStatusUsed : Field := ⟨0, 17, .ro, 0, []⟩
/-- ENQ_DATA.data (R139). -/
def Fld.enqDataData : Field := ⟨0, 64, .wo, 0, []⟩
/-- PORT_CMD.target (R139). -/
def Fld.portCmdTarget : Field := ⟨0, 20, .wo, 0, []⟩
/-- PORT_CMD.type (R139). -/
def Fld.portCmdType : Field := ⟨20, 4, .wo, 0, []⟩
/-- PORT_CMD.op (R139). -/
def Fld.portCmdOp : Field := ⟨24, 3, .wo, 0, []⟩
/-- PORT_ACK.status (R139). -/
def Fld.portAckStatus : Field := ⟨0, 8, .ro, 0, []⟩
/-- PORT_ACK.done (R139). -/
def Fld.portAckDone : Field := ⟨16, 1, .ro, 1, []⟩
/-- PORT_ACK.seq (R139). -/
def Fld.portAckSeq : Field := ⟨32, 32, .ro, 0, []⟩
/-- PORT_STAMP.stamp (R139). -/
def Fld.portStampStamp : Field := ⟨0, 64, .ro, 0, []⟩
/-- PORT_HANDLE.handle (R139). -/
def Fld.portHandleHandle : Field := ⟨0, 20, .rw, 0, []⟩
/-- DEQ_DATA.data (R139). -/
def Fld.deqDataData : Field := ⟨0, 64, .ro, 0, []⟩
/-- TIME_NOW.now (R163). -/
def Fld.timeNowNow : Field := ⟨0, 64, .ro, 0, []⟩
/-- TIME_STATUS.state (R163). -/
def Fld.timeStatusState : Field := ⟨0, 2, .ro, 0, []⟩
/-- TIME_STATUS.service (R163). -/
def Fld.timeStatusService : Field := ⟨2, 1, .ro, 0, []⟩
/-- TIME_STATUS.pps_present (R163). -/
def Fld.timeStatusPpsPresent : Field := ⟨3, 1, .ro, 0, []⟩
/-- TIME_STATUS.synce_present (R163). -/
def Fld.timeStatusSyncePresent : Field := ⟨4, 1, .ro, 0, []⟩
/-- TIME_CTL.freq_src (R163). -/
def Fld.timeCtlFreqSrc : Field := ⟨0, 2, .rw, 0, [(0, 1)]⟩
/-- TIME_CTL.synce_port (R163). -/
def Fld.timeCtlSyncePort : Field := ⟨2, 3, .rw, 0, []⟩
/-- TIME_CTL.pps_in_en (R163). -/
def Fld.timeCtlPpsInEn : Field := ⟨5, 1, .rw, 0, []⟩
/-- TIME_CTL.pps_out_en (R163). -/
def Fld.timeCtlPpsOutEn : Field := ⟨6, 1, .rw, 0, []⟩
/-- TIME_STEP.offset (R163). -/
def Fld.timeStepOffset : Field := ⟨0, 64, .wo, 0, []⟩
/-- TIME_FREQ_ADJ.adj (R163). -/
def Fld.timeFreqAdjAdj : Field := ⟨0, 32, .rwk (-219902325) 219902325, 0, []⟩
/-- TIME_PPS_OUT.phase (R163). -/
def Fld.timePpsOutPhase : Field := ⟨0, 32, .rw, 0, []⟩
/-- TIME_CMD.start_service (R163). -/
def Fld.timeCmdStartService : Field := ⟨0, 1, .wo, 0, []⟩
/-- TIME_PPS_IN_STAMP.stamp (R163). -/
def Fld.timePpsInStampStamp : Field := ⟨0, 64, .ro, 0, []⟩
/-- LEDGER_BASE.base (R164). -/
def Fld.ledgerBaseBase : Field := ⟨16, 24, .rw, 0, []⟩
/-- LEDGER_SIZE.mib_m1 (R164). -/
def Fld.ledgerSizeMibM1 : Field := ⟨0, 12, .rwk (15) 4095, 15, []⟩
/-- LEDGER_USED.kib (R164). -/
def Fld.ledgerUsedKib : Field := ⟨0, 32, .ro, 0, []⟩
/-- LEDGER_STATUS.enabled (R164). -/
def Fld.ledgerStatusEnabled : Field := ⟨0, 1, .ro, 0, []⟩
/-- LEDGER_STATUS.replaying (R164). -/
def Fld.ledgerStatusReplaying : Field := ⟨1, 1, .ro, 0, []⟩
/-- LEDGER_STATUS.open (R164). -/
def Fld.ledgerStatusOpen : Field := ⟨32, 32, .ro, 0, []⟩
/-- TT_STATUS.power (R226). -/
def Fld.ttStatusPower : Field := ⟨0, 2, .ro, 0, []⟩
/-- TT_STATUS.busy (R226). -/
def Fld.ttStatusBusy : Field := ⟨2, 1, .ro, 0, []⟩
/-- TT_STATUS.saved (R226). -/
def Fld.ttStatusSaved : Field := ⟨3, 3, .ro, 0, []⟩
/-- TT_STATUS.oos (R226). -/
def Fld.ttStatusOos : Field := ⟨6, 1, .ro, 0, []⟩
/-- TT_STATUS.crier (R226). -/
def Fld.ttStatusCrier : Field := ⟨7, 1, .ro, 0, []⟩
/-- TT_STATUS.last_lane (R226). -/
def Fld.ttStatusLastLane : Field := ⟨8, 6, .ro, 0, []⟩
/-- TT_TMEM.staging_banks (R226). -/
def Fld.ttTmemStagingBanks : Field := ⟨0, 6, .rwk (8) 32, 24, []⟩
/-- TT_TMEM.pending (R226). -/
def Fld.ttTmemPending : Field := ⟨6, 1, .ro, 0, []⟩
/-- TT_CRIER.window (R226). -/
def Fld.ttCrierWindow : Field := ⟨0, 13, .rwk (0) 4096, 256, []⟩
/-- TT_ABFT_CTL.lane_limit (R226). -/
def Fld.ttAbftCtlLaneLimit : Field := ⟨0, 4, .rwk (1) 15, 2, []⟩
/-- TT_ABFT_CNT.retried (R226). -/
def Fld.ttAbftCntRetried : Field := ⟨0, 32, .w1c, 0, []⟩
/-- TT_ABFT_CNT.failed (R226). -/
def Fld.ttAbftCntFailed : Field := ⟨32, 32, .w1c, 0, []⟩
/-- TT_TMEM_SAT.count (R226). -/
def Fld.ttTmemSatCount : Field := ⟨0, 48, .w1c, 0, []⟩
/-- TT_BUSY.cycles (R226). -/
def Fld.ttBusyCycles : Field := ⟨0, 48, .ro, 0, []⟩
/-- TT_PREEMPT_CNT.count (R226). -/
def Fld.ttPreemptCntCount : Field := ⟨0, 32, .ro, 0, []⟩
/-- TT_STALL.cycles (R226). -/
def Fld.ttStallCycles : Field := ⟨0, 48, .ro, 0, []⟩
/-- SAVE.slot (R227). -/
def Fld.saveSlot : Field := ⟨0, 3, .rw, 7, []⟩
/-- STREAM_SHARE.read (R250). -/
def Fld.streamShareRead : Field := ⟨0, 4, .rwk (1) 14, 8, []⟩
/-- STREAM_SHARE.write (R250). -/
def Fld.streamShareWrite : Field := ⟨4, 4, .rwk (1) 14, 5, []⟩
/-- STREAM_SHARE.remote (R250). -/
def Fld.streamShareRemote : Field := ⟨8, 4, .rwk (1) 14, 3, []⟩
/-- STREAM_MODE.restricted (R250). -/
def Fld.streamModeRestricted : Field := ⟨0, 1, .rw, 1, []⟩
/-- STREAM_TAGS.reads_out (R250). -/
def Fld.streamTagsReadsOut : Field := ⟨0, 16, .ro, 0, []⟩
/-- STREAM_RD_BYTES.bytes (R250). -/
def Fld.streamRdBytesBytes : Field := ⟨0, 48, .ro, 0, []⟩
/-- STREAM_WR_BYTES.bytes (R250). -/
def Fld.streamWrBytesBytes : Field := ⟨0, 48, .ro, 0, []⟩
/-- STREAM_RM_BYTES.bytes (R250). -/
def Fld.streamRmBytesBytes : Field := ⟨0, 48, .ro, 0, []⟩
/-- STREAM_WAIT.cycles (R250). -/
def Fld.streamWaitCycles : Field := ⟨0, 48, .ro, 0, []⟩
/-- TLY_PROGRESS.us (R252). -/
def Fld.tlyProgressUs : Field := ⟨0, 14, .rwk (10) 10000, 100, []⟩
/-- TLY_HOLD.ms (R252). -/
def Fld.tlyHoldMs : Field := ⟨0, 16, .rwk (1) 60000, 1000, []⟩
/-- FAULT_RESUME.hold (R253). -/
def Fld.faultResumeHold : Field := ⟨0, 10, .wo, 0, []⟩
/-- FAULT_RESUME.abandon (R253). -/
def Fld.faultResumeAbandon : Field := ⟨10, 1, .wo, 0, []⟩
/-- FAULT_RESUME.handle (R253). -/
def Fld.faultResumeHandle : Field := ⟨12, 20, .wo, 0, []⟩
/-- FAULT_HOLDS.live (R253). -/
def Fld.faultHoldsLive : Field := ⟨0, 11, .ro, 0, []⟩
/-- DMA_CH_CTL.start (R274). -/
def Fld.dmaChCtlStart : Field := ⟨0, 1, .wo, 0, []⟩
/-- DMA_CH_CTL.arm (R274). -/
def Fld.dmaChCtlArm : Field := ⟨1, 1, .wo, 0, []⟩
/-- DMA_CH_CTL.disarm (R274). -/
def Fld.dmaChCtlDisarm : Field := ⟨2, 1, .wo, 0, []⟩
/-- DMA_CH_CTL.stop (R274). -/
def Fld.dmaChCtlStop : Field := ⟨3, 1, .wo, 0, []⟩
/-- DMA_CH_CTL.abort (R274). -/
def Fld.dmaChCtlAbort : Field := ⟨4, 1, .wo, 0, []⟩
/-- DMA_CH_STATUS.state (R274). -/
def Fld.dmaChStatusState : Field := ⟨0, 2, .ro, 0, []⟩
/-- DMA_CH_STATUS.cause (R274). -/
def Fld.dmaChStatusCause : Field := ⟨2, 4, .ro, 0, []⟩
/-- DMA_CH_STATUS.armed (R274). -/
def Fld.dmaChStatusArmed : Field := ⟨6, 1, .ro, 0, []⟩
/-- DMA_CH_STATUS.handover (R274). -/
def Fld.dmaChStatusHandover : Field := ⟨7, 2, .ro, 0, []⟩
/-- DMA_CH_STATUS.hops (R274). -/
def Fld.dmaChStatusHops : Field := ⟨32, 21, .ro, 0, []⟩
/-- DMA_CH_ACTIVE_HEAD.head (R274). -/
def Fld.dmaChActiveHeadHead : Field := ⟨0, 48, .rw, 0, []⟩
/-- DMA_CH_SHADOW_HEAD.head (R274). -/
def Fld.dmaChShadowHeadHead : Field := ⟨0, 48, .rw, 0, []⟩
/-- DMA_CH_CUR.addr (R274). -/
def Fld.dmaChCurAddr : Field := ⟨0, 48, .ro, 0, []⟩
/-- DMA_CH_CTX.handle (R274). -/
def Fld.dmaChCtxHandle : Field := ⟨0, 20, .rw, 0, []⟩
/-- DMA_CH_CTX.class (R274). -/
def Fld.dmaChCtxClass : Field := ⟨20, 3, .rw, 0, []⟩
/-- DMA_CH_CFG.hop_limit (R274). -/
def Fld.dmaChCfgHopLimit : Field := ⟨0, 21, .rwk (1) 1048576, 65536, []⟩
/-- DMA_CH_CFG.fetch_us (R274). -/
def Fld.dmaChCfgFetchUs : Field := ⟨32, 16, .rwk (10) 10000, 100, []⟩
/-- DMA_CH_CFG.desc_ms (R274). -/
def Fld.dmaChCfgDescMs : Field := ⟨48, 16, .rwk (1) 60000, 100, []⟩
/-- DMA_CH_SIGNAL.key (R274). -/
def Fld.dmaChSignalKey : Field := ⟨0, 12, .rw, 0, []⟩
/-- DMA_CH_HALL.flag (R274). -/
def Fld.dmaChHallFlag : Field := ⟨0, 12, .rw, 0, []⟩
/-- DMA_CH_NOTIFY.queue (R274). -/
def Fld.dmaChNotifyQueue : Field := ⟨0, 20, .rw, 0, []⟩
/-- DMA_CH_BYTES.bytes (R274). -/
def Fld.dmaChBytesBytes : Field := ⟨0, 48, .ro, 0, []⟩
/-- DMA_CH_DESC_CNT.done (R274). -/
def Fld.dmaChDescCntDone : Field := ⟨0, 32, .w1c, 0, []⟩
/-- DMA_CH_DESC_CNT.bad (R274). -/
def Fld.dmaChDescCntBad : Field := ⟨32, 32, .w1c, 0, []⟩
/-- DMA_CH_WAIT.cycles (R274). -/
def Fld.dmaChWaitCycles : Field := ⟨0, 48, .ro, 0, []⟩
/-- CSI_CTL.enable (R302). -/
def Fld.csiCtlEnable : Field := ⟨0, 1, .rw, 0, []⟩
/-- CSI_CTL.lanes_m1 (R302). -/
def Fld.csiCtlLanesM1 : Field := ⟨1, 2, .rw, 0, [(0, 1), (3, 3)]⟩
/-- CSI_CTL.lane_map (R302). -/
def Fld.csiCtlLaneMap : Field := ⟨3, 8, .rw, 228, []⟩
/-- CSI_CTL.pol (R302). -/
def Fld.csiCtlPol : Field := ⟨11, 5, .rw, 0, []⟩
/-- CSI_CTL.rate_mbps (R302). -/
def Fld.csiCtlRateMbps : Field := ⟨16, 13, .rwk (80) 4500, 2500, []⟩
/-- CSI_STATUS.link (R302). -/
def Fld.csiStatusLink : Field := ⟨0, 2, .ro, 0, []⟩
/-- CSI_STATUS.deskew_ok (R302). -/
def Fld.csiStatusDeskewOk : Field := ⟨2, 1, .ro, 0, []⟩
/-- CSI_LOSS.us (R302). -/
def Fld.csiLossUs : Field := ⟨0, 14, .rwk (10) 10000, 1000, []⟩
/-- CSI_ERR.ecc_corrected (R302). -/
def Fld.csiErrEccCorrected : Field := ⟨0, 16, .w1c, 0, []⟩
/-- CSI_ERR.hdr_drop (R302). -/
def Fld.csiErrHdrDrop : Field := ⟨16, 16, .w1c, 0, []⟩
/-- CSI_ERR.crc_err (R302). -/
def Fld.csiErrCrcErr : Field := ⟨32, 16, .w1c, 0, []⟩
/-- CSI_ERR.dt_drop (R302). -/
def Fld.csiErrDtDrop : Field := ⟨48, 16, .w1c, 0, []⟩
/-- CSI_BUS_CTL.speed (R302). -/
def Fld.csiBusCtlSpeed : Field := ⟨0, 2, .rw, 0, [(0, 2)]⟩
/-- CSI_BUS_LIST.addr (R302). -/
def Fld.csiBusListAddr : Field := ⟨6, 34, .wo, 0, []⟩
/-- CSI_BUS_STATUS.busy (R302). -/
def Fld.csiBusStatusBusy : Field := ⟨0, 1, .ro, 0, []⟩
/-- CSI_BUS_STATUS.error (R302). -/
def Fld.csiBusStatusError : Field := ⟨1, 1, .w1c, 0, []⟩
/-- CSI_BUS_STATUS.entry (R302). -/
def Fld.csiBusStatusEntry : Field := ⟨2, 4, .ro, 0, []⟩
/-- ISP_CTL.inline_ctx (R303). -/
def Fld.ispCtlInlineCtx : Field := ⟨0, 5, .rw, 0, []⟩
/-- ISP_CTL.inline_en (R303). -/
def Fld.ispCtlInlineEn : Field := ⟨5, 1, .rw, 0, []⟩
/-- ISP_STATUS.inline_busy (R303). -/
def Fld.ispStatusInlineBusy : Field := ⟨0, 1, .ro, 0, []⟩
/-- ISP_STATUS.busy (R303). -/
def Fld.ispStatusBusy : Field := ⟨1, 1, .ro, 0, []⟩
/-- ISP_STALL.cycles (R303). -/
def Fld.ispStallCycles : Field := ⟨0, 48, .ro, 0, []⟩
/-- CAM_CFG.enable (R304). -/
def Fld.camCfgEnable : Field := ⟨0, 1, .rw, 0, []⟩
/-- CAM_CFG.port (R304). -/
def Fld.camCfgPort : Field := ⟨1, 3, .rw, 0, []⟩
/-- CAM_CFG.vc (R304). -/
def Fld.camCfgVc : Field := ⟨4, 4, .rw, 0, []⟩
/-- CAM_CFG.dt (R304). -/
def Fld.camCfgDt : Field := ⟨8, 6, .rw, 42, [(42, 44), (46, 47)]⟩
/-- CAM_CFG.emb_en (R304). -/
def Fld.camCfgEmbEn : Field := ⟨14, 1, .rw, 0, []⟩
/-- CAM_CFG.exp_latency (R304). -/
def Fld.camCfgExpLatency : Field := ⟨15, 3, .rwk (1) 7, 2, []⟩
/-- CAM_SIZE.width_m1 (R304). -/
def Fld.camSizeWidthM1 : Field := ⟨0, 13, .rwk (63) 8191, 1919, []⟩
/-- CAM_SIZE.height_m1 (R304). -/
def Fld.camSizeHeightM1 : Field := ⟨16, 13, .rwk (16) 8191, 1079, []⟩
/-- CAM_FILL.value (R304). -/
def Fld.camFillValue : Field := ⟨0, 20, .rw, 0, []⟩
/-- CAM_TIMEOUT.us (R304). -/
def Fld.camTimeoutUs : Field := ⟨0, 20, .rwk (1000) 1000000, 100000, []⟩
/-- CAM_RAW.base (R304). -/
def Fld.camRawBase : Field := ⟨6, 42, .rw, 0, []⟩
/-- CAM_RAW.slots_m1 (R304). -/
def Fld.camRawSlotsM1 : Field := ⟨48, 3, .rw, 0, []⟩
/-- CAM_STATUS_BASE.base (R304). -/
def Fld.camStatusBaseBase : Field := ⟨6, 42, .rw, 0, []⟩
/-- CAM_OWNER.handle (R304). -/
def Fld.camOwnerHandle : Field := ⟨0, 20, .rw, 0, []⟩
/-- CAM_OWNER.close_key (R304). -/
def Fld.camOwnerCloseKey : Field := ⟨20, 12, .rw, 0, []⟩
/-- CAM_PARAM_SHADOW.page (R304). -/
def Fld.camParamShadowPage : Field := ⟨6, 42, .rw, 0, []⟩
/-- CAM_PARAM_ACTIVE.page (R304). -/
def Fld.camParamActivePage : Field := ⟨6, 42, .ro, 0, []⟩
/-- CAM_PARAM_ACTIVE.gen (R304). -/
def Fld.camParamActiveGen : Field := ⟨48, 16, .ro, 0, []⟩
/-- CAM_CMD.arm (R304). -/
def Fld.camCmdArm : Field := ⟨0, 1, .wo, 0, []⟩
/-- CAM_CMD.disarm (R304). -/
def Fld.camCmdDisarm : Field := ⟨1, 1, .wo, 0, []⟩
/-- CAM_STATE.frame (R304). -/
def Fld.camStateFrame : Field := ⟨0, 32, .ro, 4294967295, []⟩
/-- CAM_STATE.armed (R304). -/
def Fld.camStateArmed : Field := ⟨32, 1, .ro, 0, []⟩
/-- CAM_STATE.open (R304). -/
def Fld.camStateOpen : Field := ⟨33, 1, .ro, 0, []⟩
/-- CAM_STATE.last_commit (R304). -/
def Fld.camStateLastCommit : Field := ⟨34, 2, .ro, 0, []⟩
/-- CAM_EMB.exp_off (R304). -/
def Fld.camEmbExpOff : Field := ⟨0, 12, .rw, 0, []⟩
/-- CAM_EMB.exp_bytes_m1 (R304). -/
def Fld.camEmbExpBytesM1 : Field := ⟨12, 2, .rw, 0, []⟩
/-- CAM_EMB.gain_off (R304). -/
def Fld.camEmbGainOff : Field := ⟨14, 12, .rw, 0, []⟩
/-- CAM_EMB.gain_bytes_m1 (R304). -/
def Fld.camEmbGainBytesM1 : Field := ⟨26, 1, .rw, 0, []⟩
/-- CAM_EXPREQ.block (R304). -/
def Fld.camExpreqBlock : Field := ⟨6, 42, .wo, 0, []⟩
/-- CAM_EXPREQ_STATUS.target (R304). -/
def Fld.camExpreqStatusTarget : Field := ⟨0, 32, .ro, 0, []⟩
/-- CAM_EXPREQ_STATUS.state (R304). -/
def Fld.camExpreqStatusState : Field := ⟨32, 3, .ro, 0, []⟩
/-- CAM_EXPREQ_STATUS.pending (R304). -/
def Fld.camExpreqStatusPending : Field := ⟨35, 4, .ro, 0, []⟩
/-- CAM_CNT.short (R304). -/
def Fld.camCntShort : Field := ⟨0, 16, .w1c, 0, []⟩
/-- CAM_CNT.long (R304). -/
def Fld.camCntLong : Field := ⟨16, 16, .w1c, 0, []⟩
/-- CAM_CNT.timeout (R304). -/
def Fld.camCntTimeout : Field := ⟨32, 16, .w1c, 0, []⟩
/-- CAM_CNT.late_lines (R304). -/
def Fld.camCntLateLines : Field := ⟨48, 16, .w1c, 0, []⟩
/-- PYR_STATUS.power (R322). -/
def Fld.pyrStatusPower : Field := ⟨0, 2, .ro, 0, []⟩
/-- PYR_STATUS.busy (R322). -/
def Fld.pyrStatusBusy : Field := ⟨2, 1, .ro, 0, []⟩
/-- PYR_STATUS.oos (R322). -/
def Fld.pyrStatusOos : Field := ⟨3, 1, .ro, 0, []⟩
/-- PYR_PIXELS.count (R322). -/
def Fld.pyrPixelsCount : Field := ⟨0, 48, .ro, 0, []⟩
/-- WRP_INVALID.count (R322). -/
def Fld.wrpInvalidCount : Field := ⟨0, 48, .w1c, 0, []⟩
/-- WRP_SPLIT.count (R322). -/
def Fld.wrpSplitCount : Field := ⟨0, 32, .w1c, 0, []⟩
/-- PYR_STALL.cycles (R322). -/
def Fld.pyrStallCycles : Field := ⟨0, 48, .ro, 0, []⟩
/-- OFE_STATUS.power (R347). -/
def Fld.ofeStatusPower : Field := ⟨0, 2, .ro, 0, []⟩
/-- OFE_STATUS.busy (R347). -/
def Fld.ofeStatusBusy : Field := ⟨2, 1, .ro, 0, []⟩
/-- OFE_STATUS.oos (R347). -/
def Fld.ofeStatusOos : Field := ⟨3, 1, .ro, 0, []⟩
/-- OFE_VECTORS.count (R347). -/
def Fld.ofeVectorsCount : Field := ⟨0, 48, .ro, 0, []⟩
/-- OFE_CODE_CNT.count (R347). -/
def Fld.ofeCodeCntCount : Field := ⟨0, 48, .w1c, 0, []⟩
/-- OFE_PRED_FALLBACK.count (R347). -/
def Fld.ofePredFallbackCount : Field := ⟨0, 32, .w1c, 0, []⟩
/-- OFE_PRED_FALLBACK.invalid (R347). -/
def Fld.ofePredFallbackInvalid : Field := ⟨32, 32, .w1c, 0, []⟩
/-- OFE_STALL.cycles (R347). -/
def Fld.ofeStallCycles : Field := ⟨0, 48, .ro, 0, []⟩
/-- FTR_STATUS.power (R371). -/
def Fld.ftrStatusPower : Field := ⟨0, 2, .ro, 0, []⟩
/-- FTR_STATUS.busy (R371). -/
def Fld.ftrStatusBusy : Field := ⟨2, 1, .ro, 0, []⟩
/-- FTR_STATUS.oos (R371). -/
def Fld.ftrStatusOos : Field := ⟨3, 1, .ro, 0, []⟩
/-- FTR_FEATURES.count (R371). -/
def Fld.ftrFeaturesCount : Field := ⟨0, 48, .ro, 0, []⟩
/-- FTR_COMPARES.count (R371). -/
def Fld.ftrComparesCount : Field := ⟨0, 48, .ro, 0, []⟩
/-- FTR_TRUNC.count (R371). -/
def Fld.ftrTruncCount : Field := ⟨0, 32, .w1c, 0, []⟩
/-- FTR_STALL.cycles (R371). -/
def Fld.ftrStallCycles : Field := ⟨0, 48, .ro, 0, []⟩
/-- HALL_FLAG_SEL.flag (R372). -/
def Fld.hallFlagSelFlag : Field := ⟨0, 12, .rw, 0, []⟩
/-- HALL_FLAG_CFG.owner (R372). -/
def Fld.hallFlagCfgOwner : Field := ⟨0, 20, .rw, 0, []⟩
/-- HALL_FLAG_CFG.mode (R372). -/
def Fld.hallFlagCfgMode : Field := ⟨20, 2, .rw, 0, []⟩
/-- HALL_FLAG_CFG.period (R372). -/
def Fld.hallFlagCfgPeriod : Field := ⟨22, 16, .rw, 0, []⟩
/-- HALL_FLAG_THR.thr (R372). -/
def Fld.hallFlagThrThr : Field := ⟨0, 32, .rw, 0, []⟩
/-- HALL_FLAG_COUNT.count (R372). -/
def Fld.hallFlagCountCount : Field := ⟨0, 32, .rw, 0, []⟩
/-- HALL_FLAG_COUNT.held (R372). -/
def Fld.hallFlagCountHeld : Field := ⟨32, 1, .ro, 0, []⟩
/-- HALL_FLAG_ADV.adv (R372). -/
def Fld.hallFlagAdvAdv : Field := ⟨0, 1, .wo, 0, []⟩
/-- HALL_BUF_SEL.rec (R372). -/
def Fld.hallBufSelRec : Field := ⟨0, 8, .rw, 0, []⟩
/-- HALL_BUF_BASE.base (R372). -/
def Fld.hallBufBaseBase : Field := ⟨6, 42, .rw, 0, []⟩
/-- HALL_BUF_BASE.copies_m1 (R372). -/
def Fld.hallBufBaseCopiesM1 : Field := ⟨48, 3, .rw, 0, []⟩
/-- HALL_BUF_STRIDE.copy_stride (R372). -/
def Fld.hallBufStrideCopyStride : Field := ⟨6, 26, .rw, 0, []⟩
/-- HALL_BUF_STRIDE.band_bytes (R372). -/
def Fld.hallBufStrideBandBytes : Field := ⟨38, 26, .rw, 0, []⟩
/-- HALL_BUF_RING.ring (R372). -/
def Fld.hallBufRingRing : Field := ⟨0, 1, .rw, 0, []⟩
/-- HALL_BUF_RING.band_rows_m1 (R372). -/
def Fld.hallBufRingBandRowsM1 : Field := ⟨1, 11, .rw, 0, []⟩
/-- HALL_BUF_RING.depth_m1 (R372). -/
def Fld.hallBufRingDepthM1 : Field := ⟨12, 8, .rw, 0, []⟩
/-- HALL_BUF_RING.bands_m1 (R372). -/
def Fld.hallBufRingBandsM1 : Field := ⟨20, 12, .rw, 0, []⟩
/-- HALL_BUF_RING.bands_known (R372). -/
def Fld.hallBufRingBandsKnown : Field := ⟨32, 1, .rw, 0, []⟩
/-- HALL_BUF_RING.consumers_m1 (R372). -/
def Fld.hallBufRingConsumersM1 : Field := ⟨33, 2, .rw, 0, []⟩
/-- HALL_BUF_RING.fill_flag (R372). -/
def Fld.hallBufRingFillFlag : Field := ⟨35, 12, .rw, 0, []⟩
/-- HALL_BUF_OWNER.handle (R372). -/
def Fld.hallBufOwnerHandle : Field := ⟨0, 20, .rw, 0, []⟩
/-- HALL_BUF_COUNTS.fill (R372). -/
def Fld.hallBufCountsFill : Field := ⟨0, 32, .ro, 0, []⟩
/-- HALL_BUF_COUNTS.credit (R372). -/
def Fld.hallBufCountsCredit : Field := ⟨32, 32, .ro, 0, []⟩
/-- HALL_BUF_COPY.copy (R372). -/
def Fld.hallBufCopyCopy : Field := ⟨0, 3, .rw, 0, []⟩
/-- RD_STATUS.power (R406). -/
def Fld.rdStatusPower : Field := ⟨0, 2, .ro, 0, []⟩
/-- RD_STATUS.busy (R406). -/
def Fld.rdStatusBusy : Field := ⟨2, 1, .ro, 0, []⟩
/-- RD_STATUS.oos (R406). -/
def Fld.rdStatusOos : Field := ⟨3, 1, .ro, 0, []⟩
/-- RD_WORK.count (R406). -/
def Fld.rdWorkCount : Field := ⟨0, 48, .ro, 0, []⟩
/-- RD_SAT.count (R406). -/
def Fld.rdSatCount : Field := ⟨0, 32, .w1c, 0, []⟩
/-- RD_STALL.cycles (R406). -/
def Fld.rdStallCycles : Field := ⟨0, 48, .ro, 0, []⟩
/-- DFE_CFG.rx_en (R407). -/
def Fld.dfeCfgRxEn : Field := ⟨0, 1, .rw, 0, []⟩
/-- DFE_CFG.tx_en (R407). -/
def Fld.dfeCfgTxEn : Field := ⟨1, 1, .rw, 0, []⟩
/-- DFE_CFG.scs (R407). -/
def Fld.dfeCfgScs : Field := ⟨2, 1, .rw, 0, []⟩
/-- DFE_CFG.nfft_log2 (R407). -/
def Fld.dfeCfgNfftLog2 : Field := ⟨3, 4, .rw, 12, [(9, 12)]⟩
/-- DFE_CFG.prb_m1 (R407). -/
def Fld.dfeCfgPrbM1 : Field := ⟨7, 9, .rwk (10) 272, 272, []⟩
/-- DFE_CFG.first_stream (R407). -/
def Fld.dfeCfgFirstStream : Field := ⟨16, 4, .rw, 0, []⟩
/-- DFE_CFG.streams_m1 (R407). -/
def Fld.dfeCfgStreamsM1 : Field := ⟨20, 4, .rw, 0, []⟩
/-- DFE_CFG.sfn_offset (R407). -/
def Fld.dfeCfgSfnOffset : Field := ⟨24, 10, .rw, 0, []⟩
/-- DFE_NCO.nco (R407). -/
def Fld.dfeNcoNco : Field := ⟨0, 32, .rw, 0, []⟩
/-- DFE_NCO.f0 (R407). -/
def Fld.dfeNcoF0 : Field := ⟨32, 32, .rw, 0, []⟩
/-- DFE_LAT.rx_rf (R407). -/
def Fld.dfeLatRxRf : Field := ⟨0, 24, .rw, 0, []⟩
/-- DFE_LAT.tx_rf (R407). -/
def Fld.dfeLatTxRf : Field := ⟨32, 24, .rw, 0, []⟩
/-- DFE_CNT.rx_zero (R407). -/
def Fld.dfeCntRxZero : Field := ⟨0, 32, .w1c, 0, []⟩
/-- DFE_CNT.tx_zero (R407). -/
def Fld.dfeCntTxZero : Field := ⟨32, 32, .w1c, 0, []⟩
/-- JESD_CTL.enable (R408). -/
def Fld.jesdCtlEnable : Field := ⟨0, 1, .rw, 0, []⟩
/-- JESD_CTL.dir (R408). -/
def Fld.jesdCtlDir : Field := ⟨1, 1, .rw, 0, []⟩
/-- JESD_CTL.first_lane (R408). -/
def Fld.jesdCtlFirstLane : Field := ⟨2, 4, .rw, 0, []⟩
/-- JESD_CTL.lanes_m1 (R408). -/
def Fld.jesdCtlLanesM1 : Field := ⟨6, 2, .rw, 0, [(0, 1), (3, 3)]⟩
/-- JESD_CTL.two_streams (R408). -/
def Fld.jesdCtlTwoStreams : Field := ⟨8, 1, .rw, 0, []⟩
/-- JESD_CTL.n12 (R408). -/
def Fld.jesdCtlN12 : Field := ⟨9, 1, .rw, 0, []⟩
/-- JESD_CTL.half_rate (R408). -/
def Fld.jesdCtlHalfRate : Field := ⟨10, 1, .rw, 0, []⟩
/-- JESD_CTL.e_m1 (R408). -/
def Fld.jesdCtlEM1 : Field := ⟨11, 2, .rw, 0, []⟩
/-- JESD_CTL.rbd (R408). -/
def Fld.jesdCtlRbd : Field := ⟨13, 5, .rw, 0, []⟩
/-- JESD_CTL.first_stream (R408). -/
def Fld.jesdCtlFirstStream : Field := ⟨18, 4, .rw, 0, []⟩
/-- JESD_STATUS.state (R408). -/
def Fld.jesdStatusState : Field := ⟨0, 2, .ro, 0, []⟩
/-- JESD_STATUS.lat (R408). -/
def Fld.jesdStatusLat : Field := ⟨8, 24, .ro, 0, []⟩
/-- JESD_ERR.crc (R408). -/
def Fld.jesdErrCrc : Field := ⟨0, 32, .w1c, 0, []⟩
/-- JESD_ERR.resync (R408). -/
def Fld.jesdErrResync : Field := ⟨32, 32, .w1c, 0, []⟩
/-- JESD_SYSREF.out_en (R408). -/
def Fld.jesdSysrefOutEn : Field := ⟨0, 4, .rw, 0, []⟩
/-- JESD_SYSREF.div (R408). -/
def Fld.jesdSysrefDiv : Field := ⟨4, 16, .rw, 1, []⟩
/-- FHE_ADDR.mac (R409). -/
def Fld.fheAddrMac : Field := ⟨0, 48, .rw, 0, []⟩
/-- FHE_ADDR.vid (R409). -/
def Fld.fheAddrVid : Field := ⟨48, 12, .rw, 0, []⟩
/-- FHE_ADDR.pcp (R409). -/
def Fld.fheAddrPcp : Field := ⟨60, 3, .rw, 0, []⟩
/-- FHE_ADDR.valid (R409). -/
def Fld.fheAddrValid : Field := ⟨63, 1, .rw, 0, []⟩
/-- FHE_PORT.port (R409). -/
def Fld.fhePortPort : Field := ⟨0, 3, .rw, 0, []⟩
/-- FHE_WIN_TX_CP.open (R409). -/
def Fld.fheWinTxCpOpen : Field := ⟨0, 32, .rw, 0, []⟩
/-- FHE_WIN_TX_CP.close (R409). -/
def Fld.fheWinTxCpClose : Field := ⟨32, 32, .rw, 0, []⟩
/-- FHE_WIN_TX_UP.open (R409). -/
def Fld.fheWinTxUpOpen : Field := ⟨0, 32, .rw, 0, []⟩
/-- FHE_WIN_TX_UP.close (R409). -/
def Fld.fheWinTxUpClose : Field := ⟨32, 32, .rw, 0, []⟩
/-- FHE_WIN_RX_CP.open (R409). -/
def Fld.fheWinRxCpOpen : Field := ⟨0, 32, .rw, 0, []⟩
/-- FHE_WIN_RX_CP.close (R409). -/
def Fld.fheWinRxCpClose : Field := ⟨32, 32, .rw, 0, []⟩
/-- FHE_WIN_RX_UP.open (R409). -/
def Fld.fheWinRxUpOpen : Field := ⟨0, 32, .rw, 0, []⟩
/-- FHE_WIN_RX_UP.close (R409). -/
def Fld.fheWinRxUpClose : Field := ⟨32, 32, .rw, 0, []⟩
/-- FHE_CNT_A.rx_early (R409). -/
def Fld.fheCntARxEarly : Field := ⟨0, 32, .w1c, 0, []⟩
/-- FHE_CNT_A.rx_late (R409). -/
def Fld.fheCntARxLate : Field := ⟨32, 32, .w1c, 0, []⟩
/-- FHE_CNT_B.tx_missed (R409). -/
def Fld.fheCntBTxMissed : Field := ⟨0, 32, .w1c, 0, []⟩
/-- FHE_CNT_B.rx_dup (R409). -/
def Fld.fheCntBRxDup : Field := ⟨32, 32, .w1c, 0, []⟩
/-- ETH_CTL.enable (R429). -/
def Fld.ethCtlEnable : Field := ⟨0, 1, .rw, 0, []⟩
/-- ETH_CTL.max_frame (R429). -/
def Fld.ethCtlMaxFrame : Field := ⟨1, 14, .rwk (1514) 9216, 9216, []⟩
/-- ETH_STATUS.link (R429). -/
def Fld.ethStatusLink : Field := ⟨0, 1, .ro, 0, []⟩
/-- ETH_STATUS.fec_lock (R429). -/
def Fld.ethStatusFecLock : Field := ⟨1, 1, .ro, 0, []⟩
/-- ETH_CTX.handle (R429). -/
def Fld.ethCtxHandle : Field := ⟨0, 20, .rw, 0, []⟩
/-- ETH_RXBUF.base (R429). -/
def Fld.ethRxbufBase : Field := ⟨6, 42, .rw, 0, []⟩
/-- ETH_RXBUF.count_m1 (R429). -/
def Fld.ethRxbufCountM1 : Field := ⟨48, 12, .rw, 0, []⟩
/-- ETH_RXBUF_RET.index (R429). -/
def Fld.ethRxbufRetIndex : Field := ⟨0, 12, .wo, 0, []⟩
/-- ETH_RXQ.queue (R429). -/
def Fld.ethRxqQueue : Field := ⟨0, 20, .rw, 0, []⟩
/-- ETH_TXQ.queue (R429). -/
def Fld.ethTxqQueue : Field := ⟨0, 20, .rw, 0, []⟩
/-- ETH_TXDONE.seq (R429). -/
def Fld.ethTxdoneSeq : Field := ⟨0, 32, .ro, 0, []⟩
/-- ETH_MAC.mac (R429). -/
def Fld.ethMacMac : Field := ⟨0, 48, .rw, 0, []⟩
/-- ETH_IP4.addr (R429). -/
def Fld.ethIp4Addr : Field := ⟨0, 32, .rw, 0, []⟩
/-- ETH_IP6.addr (R429). -/
def Fld.ethIp6Addr : Field := ⟨0, 64, .rw, 0, []⟩
/-- ETH_CNT.rx_drop (R429). -/
def Fld.ethCntRxDrop : Field := ⟨0, 32, .w1c, 0, []⟩
/-- ETH_CNT.pause_rx (R429). -/
def Fld.ethCntPauseRx : Field := ⟨32, 32, .w1c, 0, []⟩
/-- FAB_RC.cut (R431). -/
def Fld.fabRcCut : Field := ⟨0, 8, .rwk (1) 255, 64, []⟩
/-- FAB_RC.window_us (R431). -/
def Fld.fabRcWindowUs : Field := ⟨8, 10, .rwk (10) 1000, 50, []⟩
/-- FAB_RC.add_mbps (R431). -/
def Fld.fabRcAddMbps : Field := ⟨18, 14, .rwk (100) 10000, 1000, []⟩
/-- FAB_RC.cnp_us (R431). -/
def Fld.fabRcCnpUs : Field := ⟨32, 10, .rwk (1) 1000, 20, []⟩
/-- FAB_RC.rmin_mbps (R431). -/
def Fld.fabRcRminMbps : Field := ⟨42, 14, .rwk (100) 10000, 100, []⟩
/-- FAB_RC.step_max (R431). -/
def Fld.fabRcStepMax : Field := ⟨56, 8, .rwk (1) 200, 64, []⟩
/-- FAB_JOB_CFG.handle (R431). -/
def Fld.fabJobCfgHandle : Field := ⟨0, 20, .rw, 0, []⟩
/-- FAB_JOB_CFG.rank (R431). -/
def Fld.fabJobCfgRank : Field := ⟨20, 6, .rw, 0, []⟩
/-- FAB_JOB_CFG.members_m1 (R431). -/
def Fld.fabJobCfgMembersM1 : Field := ⟨26, 6, .rw, 0, []⟩
/-- FAB_JOB_CMD.cmd (R431). -/
def Fld.fabJobCmdCmd : Field := ⟨0, 2, .wo, 0, []⟩
/-- FAB_JOB_CMD.step (R431). -/
def Fld.fabJobCmdStep : Field := ⟨32, 32, .wo, 0, []⟩
/-- FAB_JOB_STATUS.committed (R431). -/
def Fld.fabJobStatusCommitted : Field := ⟨0, 32, .ro, 0, []⟩
/-- FAB_JOB_STATUS.epoch (R431). -/
def Fld.fabJobStatusEpoch : Field := ⟨32, 8, .ro, 0, []⟩
/-- FAB_JOB_STATUS.aborted (R431). -/
def Fld.fabJobStatusAborted : Field := ⟨40, 1, .ro, 0, []⟩
/-- FAB_MEMBERS.valid (R431). -/
def Fld.fabMembersValid : Field := ⟨0, 1, .rw, 0, []⟩
/-- FAB_MEMBERS.base (R431). -/
def Fld.fabMembersBase : Field := ⟨16, 24, .rw, 0, []⟩
/-- PCIE_STATUS.role (R432). -/
def Fld.pcieStatusRole : Field := ⟨0, 1, .ro, 0, []⟩
/-- PCIE_STATUS.speed (R432). -/
def Fld.pcieStatusSpeed : Field := ⟨1, 3, .ro, 0, []⟩
/-- PCIE_STATUS.width (R432). -/
def Fld.pcieStatusWidth : Field := ⟨4, 4, .ro, 0, []⟩
/-- PCIE_CTX.handle (R432). -/
def Fld.pcieCtxHandle : Field := ⟨0, 20, .rw, 0, []⟩
/-- PCIE_MSI.addr (R432). -/
def Fld.pcieMsiAddr : Field := ⟨2, 38, .rw, 0, []⟩
/-- PCIE_BAR2.base (R432). -/
def Fld.pcieBar2Base : Field := ⟨20, 20, .rw, 0, []⟩
/-- PCIE_BAR2.size_log2 (R432). -/
def Fld.pcieBar2SizeLog2 : Field := ⟨40, 6, .rwk (20) 38, 30, []⟩
/-- PCIE_MSIX.queue (R432). -/
def Fld.pcieMsixQueue : Field := ⟨0, 20, .rw, 0, []⟩
/-- SAFE_CTL.release (R456). -/
def Fld.safeCtlRelease : Field := ⟨0, 1, .rw, 0, []⟩
/-- SAFE_STATUS.safe_mask (R456). -/
def Fld.safeStatusSafeMask : Field := ⟨0, 32, .ro, 0, []⟩
/-- SAFE_STATUS.pin (R456). -/
def Fld.safeStatusPin : Field := ⟨32, 1, .ro, 1, []⟩
/-- SAFE_BW_SEL.window (R456). -/
def Fld.safeBwSelWindow : Field := ⟨0, 8, .rw, 0, []⟩
/-- SAFE_BW_CFG.enable (R456). -/
def Fld.safeBwCfgEnable : Field := ⟨0, 1, .rw, 0, []⟩
/-- SAFE_BW_CFG.mode (R456). -/
def Fld.safeBwCfgMode : Field := ⟨1, 1, .rw, 0, []⟩
/-- SAFE_BW_CFG.pipe (R456). -/
def Fld.safeBwCfgPipe : Field := ⟨2, 5, .rw, 0, []⟩
/-- SAFE_BW_CFG.tmpl (R456). -/
def Fld.safeBwCfgTmpl : Field := ⟨7, 14, .rw, 0, []⟩
/-- SAFE_BW_CFG.task (R456). -/
def Fld.safeBwCfgTask : Field := ⟨21, 10, .rw, 0, []⟩
/-- SAFE_BW_SHADOW.open (R456). -/
def Fld.safeBwShadowOpen : Field := ⟨0, 32, .rw, 0, []⟩
/-- SAFE_BW_SHADOW.close (R456). -/
def Fld.safeBwShadowClose : Field := ⟨32, 32, .rw, 0, []⟩
/-- SAFE_BW_ACTIVE.times (R456). -/
def Fld.safeBwActiveTimes : Field := ⟨0, 64, .ro, 0, []⟩
/-- SAFE_BW_CMD.arm (R456). -/
def Fld.safeBwCmdArm : Field := ⟨0, 1, .wo, 0, []⟩
/-- SAFE_BW_CMD.disarm (R456). -/
def Fld.safeBwCmdDisarm : Field := ⟨1, 1, .wo, 0, []⟩
/-- SAFE_BW_STATUS.armed (R456). -/
def Fld.safeBwStatusArmed : Field := ⟨0, 1, .ro, 0, []⟩
/-- SAFE_BW_STATUS.last_commit (R456). -/
def Fld.safeBwStatusLastCommit : Field := ⟨1, 2, .ro, 0, []⟩
/-- SAFE_BW_STATUS.result (R456). -/
def Fld.safeBwStatusResult : Field := ⟨3, 2, .ro, 0, []⟩
/-- SAFE_BW_STATUS.instance (R456). -/
def Fld.safeBwStatusInstance : Field := ⟨32, 32, .ro, 0, []⟩
/-- SAFE_CAIRN_SEL.cairn (R456). -/
def Fld.safeCairnSelCairn : Field := ⟨0, 4, .rw, 0, []⟩
/-- SAFE_CAIRN_CFG.enable (R456). -/
def Fld.safeCairnCfgEnable : Field := ⟨0, 1, .rw, 0, []⟩
/-- SAFE_CAIRN_CFG.tmpl (R456). -/
def Fld.safeCairnCfgTmpl : Field := ⟨1, 14, .rw, 0, []⟩
/-- SAFE_CAIRN_CFG.pipe_mask (R456). -/
def Fld.safeCairnCfgPipeMask : Field := ⟨32, 32, .rw, 0, []⟩
/-- SAFE_CAIRN_TIME.period_ms (R456). -/
def Fld.safeCairnTimePeriodMs : Field := ⟨0, 16, .rwk (10) 60000, 1000, []⟩
/-- SAFE_CAIRN_TIME.window_ms (R456). -/
def Fld.safeCairnTimeWindowMs : Field := ⟨16, 10, .rwk (1) 1000, 20, []⟩
/-- SAFE_CAIRN_STATUS.last (R456). -/
def Fld.safeCairnStatusLast : Field := ⟨0, 2, .ro, 0, []⟩
/-- SAFE_CAIRN_STATUS.skipped (R456). -/
def Fld.safeCairnStatusSkipped : Field := ⟨2, 1, .ro, 0, []⟩
/-- SAFE_CAIRN_STATUS.runs (R456). -/
def Fld.safeCairnStatusRuns : Field := ⟨32, 32, .ro, 0, []⟩
/-- SAFE_SEAL_SEL.rec (R456). -/
def Fld.safeSealSelRec : Field := ⟨0, 8, .rw, 0, []⟩
/-- SAFE_SEAL.enable (R456). -/
def Fld.safeSealEnable : Field := ⟨0, 1, .rw, 0, []⟩
/-- SAFE_SEAL.base (R456). -/
def Fld.safeSealBase : Field := ⟨6, 42, .rw, 0, []⟩
/-- SAFE_PIPE_CFG.enable (R456). -/
def Fld.safePipeCfgEnable : Field := ⟨0, 1, .rw, 0, []⟩
/-- SAFE_PIPE_CFG.tmpl (R456). -/
def Fld.safePipeCfgTmpl : Field := ⟨1, 14, .rw, 0, []⟩
/-- SAFE_PIPE_CFG.handle (R456). -/
def Fld.safePipeCfgHandle : Field := ⟨15, 20, .rw, 0, []⟩
/-- SAFE_PIPE_CFG.safe_pin (R456). -/
def Fld.safePipeCfgSafePin : Field := ⟨35, 1, .rw, 1, []⟩
/-- SAFE_PIPE_GATE.out_queue (R456). -/
def Fld.safePipeGateOutQueue : Field := ⟨0, 20, .rw, 0, []⟩
/-- SAFE_PIPE_GATE.ftti_ms (R456). -/
def Fld.safePipeGateFttiMs : Field := ⟨32, 10, .rwk (10) 1000, 100, []⟩
/-- SAFE_PIPE_CHK.sample_log2 (R456). -/
def Fld.safePipeChkSampleLog2 : Field := ⟨0, 4, .rwk (0) 8, 4, []⟩
/-- SAFE_PIPE_CHK.dis_window (R456). -/
def Fld.safePipeChkDisWindow : Field := ⟨4, 7, .rwk (2) 64, 8, []⟩
/-- SAFE_PIPE_STATUS.state (R456). -/
def Fld.safePipeStatusState : Field := ⟨0, 2, .ro, 0, []⟩
/-- SAFE_PIPE_STATUS.last_fault (R456). -/
def Fld.safePipeStatusLastFault : Field := ⟨32, 32, .ro, 0, []⟩
/-- SAFE_PIPE_CNT.withheld (R456). -/
def Fld.safePipeCntWithheld : Field := ⟨0, 32, .w1c, 0, []⟩
/-- SAFE_PIPE_CNT.faults (R456). -/
def Fld.safePipeCntFaults : Field := ⟨32, 32, .w1c, 0, []⟩
/-- SAFE_PIPE_CMD.clear (R456). -/
def Fld.safePipeCmdClear : Field := ⟨0, 1, .wo, 0, []⟩
/-- SAFE_PIPE_CMD.enter (R456). -/
def Fld.safePipeCmdEnter : Field := ⟨1, 1, .wo, 0, []⟩
/-- SAFE_PIPE_SAMPLED.blocks (R456). -/
def Fld.safePipeSampledBlocks : Field := ⟨0, 48, .ro, 0, []⟩
/-- CHK_STATUS.power (R457). -/
def Fld.chkStatusPower : Field := ⟨0, 2, .ro, 0, []⟩
/-- CHK_STATUS.busy (R457). -/
def Fld.chkStatusBusy : Field := ⟨2, 1, .ro, 0, []⟩
/-- CHK_STATUS.oos (R457). -/
def Fld.chkStatusOos : Field := ⟨3, 1, .ro, 0, []⟩
/-- CHK_STATUS.test (R457). -/
def Fld.chkStatusTest : Field := ⟨4, 1, .ro, 0, []⟩
/-- CHK_BLOCKS.count (R457). -/
def Fld.chkBlocksCount : Field := ⟨0, 48, .ro, 0, []⟩
/-- CHK_MISMATCH.count (R457). -/
def Fld.chkMismatchCount : Field := ⟨0, 32, .w1c, 0, []⟩
/-- CHK_STALL.cycles (R457). -/
def Fld.chkStallCycles : Field := ⟨0, 48, .ro, 0, []⟩
/-- RCV_STATUS.state (R479). -/
def Fld.rcvStatusState : Field := ⟨0, 2, .ro, 0, []⟩
/-- RCV_STATUS.rung (R479). -/
def Fld.rcvStatusRung : Field := ⟨2, 3, .ro, 0, []⟩
/-- RCV_STATUS.priv (R479). -/
def Fld.rcvStatusPriv : Field := ⟨5, 8, .ro, 0, []⟩
/-- RCV_CMD.rung (R479). -/
def Fld.rcvCmdRung : Field := ⟨0, 3, .wo, 0, []⟩
/-- RCV_CMD.engine (R479). -/
def Fld.rcvCmdEngine : Field := ⟨8, 8, .wo, 0, []⟩
/-- RCV_CMD.partition (R479). -/
def Fld.rcvCmdPartition : Field := ⟨16, 8, .wo, 0, []⟩
/-- RCV_CMD.handle (R479). -/
def Fld.rcvCmdHandle : Field := ⟨24, 20, .wo, 0, []⟩
/-- RCV_ESC.count (R479). -/
def Fld.rcvEscCount : Field := ⟨0, 4, .rwk (1) 15, 3, []⟩
/-- RCV_ESC.window_s (R479). -/
def Fld.rcvEscWindowS : Field := ⟨4, 12, .rwk (1) 3600, 60, []⟩
/-- RCV_PRIV.limit (R479). -/
def Fld.rcvPrivLimit : Field := ⟨0, 5, .rwk (2) 16, 4, []⟩
/-- RCV_PRIV.window_h (R479). -/
def Fld.rcvPrivWindowH : Field := ⟨5, 8, .rwk (1) 168, 24, []⟩
/-- RCV_HANG.us (R479). -/
def Fld.rcvHangUs : Field := ⟨0, 17, .rwk (20) 100000, 200, []⟩
/-- RCV_WDT.bcc_ms (R479). -/
def Fld.rcvWdtBccMs : Field := ⟨0, 14, .rwk (10) 10000, 500, []⟩
/-- RCV_WDT.kick (R479). -/
def Fld.rcvWdtKick : Field := ⟨14, 1, .wo, 0, []⟩
/-- RCV_FAB_RTT.us (R479). -/
def Fld.rcvFabRttUs : Field := ⟨0, 17, .rwk (10) 100000, 500, []⟩
/-- RCV_LATE.count (R479). -/
def Fld.rcvLateCount : Field := ⟨0, 48, .w1c, 0, []⟩
/-- RCV_REPORT.seq (R479). -/
def Fld.rcvReportSeq : Field := ⟨0, 32, .ro, 0, []⟩
/-- BIST_CMD.unit (R494). -/
def Fld.bistCmdUnit : Field := ⟨0, 4, .wo, 0, []⟩
/-- BIST_CMD.start (R494). -/
def Fld.bistCmdStart : Field := ⟨4, 1, .wo, 0, []⟩
/-- BIST_CMD.abort (R494). -/
def Fld.bistCmdAbort : Field := ⟨5, 1, .wo, 0, []⟩
/-- BIST_STATUS.busy (R494). -/
def Fld.bistStatusBusy : Field := ⟨0, 1, .ro, 0, []⟩
/-- BIST_STATUS.unit (R494). -/
def Fld.bistStatusUnit : Field := ⟨1, 4, .ro, 0, []⟩
/-- BIST_STATUS.phase (R494). -/
def Fld.bistStatusPhase : Field := ⟨5, 3, .ro, 0, []⟩
/-- BIST_RESULT.port (R494). -/
def Fld.bistResultPort : Field := ⟨0, 2, .ro, 0, []⟩
/-- BIST_RESULT.body (R494). -/
def Fld.bistResultBody : Field := ⟨2, 2, .ro, 0, []⟩
/-- BIST_RESULT.mbist_fail (R494). -/
def Fld.bistResultMbistFail : Field := ⟨4, 1, .ro, 0, []⟩
/-- BIST_RESULT.aborted (R494). -/
def Fld.bistResultAborted : Field := ⟨5, 1, .ro, 0, []⟩
/-- BIST_RESULT.macros (R494). -/
def Fld.bistResultMacros : Field := ⟨6, 10, .ro, 0, []⟩
/-- BIST_RESULT.when (R494). -/
def Fld.bistResultWhen : Field := ⟨16, 32, .ro, 0, []⟩
/-- BIST_ROT.rot_mask (R494). -/
def Fld.bistRotRotMask : Field := ⟨0, 7, .rw, 95, []⟩
/-- BIST_ROT.enable (R494). -/
def Fld.bistRotEnable : Field := ⟨7, 1, .rw, 0, []⟩
/-- BIST_ROT.period_h (R494). -/
def Fld.bistRotPeriodH : Field := ⟨8, 8, .rwk (1) 24, 24, []⟩
/-- BIST_ROT.drain_ms (R494). -/
def Fld.bistRotDrainMs : Field := ⟨16, 16, .rwk (1) 1000, 20, []⟩
/-- BIST_ROT.boot_test (R494). -/
def Fld.bistRotBootTest : Field := ⟨32, 1, .rw, 1, []⟩
/-- BIST_BYPASS.engines (R494). -/
def Fld.bistBypassEngines : Field := ⟨0, 11, .rw, 0, []⟩
/-- BIST_MISR_PORT.sig (R494). -/
def Fld.bistMisrPortSig : Field := ⟨0, 64, .ro, 0, []⟩
/-- BIST_MISR_BODY.sig (R494). -/
def Fld.bistMisrBodySig : Field := ⟨0, 64, .ro, 0, []⟩
/-- PWR_STATUS.mw_1ms (R513). -/
def Fld.pwrStatusMw1ms : Field := ⟨0, 20, .ro, 0, []⟩
/-- PWR_STATUS.rails (R513). -/
def Fld.pwrStatusRails : Field := ⟨20, 10, .ro, 0, []⟩
/-- PWR_STATUS.throttling (R513). -/
def Fld.pwrStatusThrottling : Field := ⟨30, 1, .ro, 0, []⟩
/-- PWR_LIMIT.watts (R513). -/
def Fld.pwrLimitWatts : Field := ⟨0, 8, .rwk (40) 165, 165, []⟩
/-- PWR_IDLE.warm_ns (R513). -/
def Fld.pwrIdleWarmNs : Field := ⟨0, 16, .rwk (20) 60000, 200, []⟩
/-- PWR_IDLE.cold_us (R513). -/
def Fld.pwrIdleColdUs : Field := ⟨16, 16, .rwk (50) 60000, 1000, []⟩
/-- PWR_KEEP.keep (R513). -/
def Fld.pwrKeepKeep : Field := ⟨0, 64, .rw, 0, []⟩
/-- PWR_DOM_SEL.domain (R513). -/
def Fld.pwrDomSelDomain : Field := ⟨0, 7, .rw, 0, []⟩
/-- PWR_DOM.on (R513). -/
def Fld.pwrDomOn : Field := ⟨0, 1, .rw, 0, []⟩
/-- PWR_DOM.state (R513). -/
def Fld.pwrDomState : Field := ⟨1, 2, .ro, 0, []⟩
/-- PWR_AVS.core_mv (R513). -/
def Fld.pwrAvsCoreMv : Field := ⟨0, 10, .ro, 700, []⟩
/-- PWR_AVS.cpu_mv (R513). -/
def Fld.pwrAvsCpuMv : Field := ⟨16, 10, .ro, 750, []⟩
/-- PWR_OPDEF.mv (R513). -/
def Fld.pwrOpdefMv : Field := ⟨0, 10, .rwk (700) 800, 780, []⟩
/-- OPREC_SEL.rec (R513). -/
def Fld.oprecSelRec : Field := ⟨0, 3, .rw, 0, []⟩
/-- OPREC_DATA.mv (R513). -/
def Fld.oprecDataMv : Field := ⟨0, 10, .rwk (600) 800, 780, []⟩
/-- OPREC_DATA.band (R513). -/
def Fld.oprecDataBand : Field := ⟨10, 2, .rw, 0, []⟩
/-- OPREC_DATA.valid (R513). -/
def Fld.oprecDataValid : Field := ⟨12, 1, .rw, 0, []⟩
/-- OPREC_DATA.fallback (R513). -/
def Fld.oprecDataFallback : Field := ⟨13, 1, .ro, 0, []⟩
/-- OPREC_DATA.cal_temp (R513). -/
def Fld.oprecDataCalTemp : Field := ⟨16, 8, .rw, 0, []⟩
/-- CLK_STATUS.locked (R514). -/
def Fld.clkStatusLocked : Field := ⟨0, 41, .ro, 0, []⟩
/-- CLK_UNLOCK_CNT.count (R514). -/
def Fld.clkUnlockCntCount : Field := ⟨0, 32, .w1c, 0, []⟩
/-- MON_SEL.kind (R514). -/
def Fld.monSelKind : Field := ⟨0, 2, .rw, 0, []⟩
/-- MON_SEL.index (R514). -/
def Fld.monSelIndex : Field := ⟨2, 7, .rw, 0, []⟩
/-- MON_VALUE.value (R514). -/
def Fld.monValueValue : Field := ⟨0, 32, .ro, 0, []⟩
/-- MON_VALUE.max (R514). -/
def Fld.monValueMax : Field := ⟨32, 32, .w1c, 0, []⟩
/-- MON_THERM.throttle_c (R514). -/
def Fld.monThermThrottleC : Field := ⟨0, 8, .rwk (70) 110, 105, []⟩
/-- MON_THERM.alarm_c (R514). -/
def Fld.monThermAlarmC : Field := ⟨8, 8, .rwk (80) 115, 110, []⟩
/-- MON_THERM.resume_c (R514). -/
def Fld.monThermResumeC : Field := ⟨16, 8, .rwk (50) 100, 90, []⟩
/-- MON_DROOP.thr_mv (R514). -/
def Fld.monDroopThrMv : Field := ⟨0, 7, .rwk (20) 100, 40, []⟩
/-- MON_DROOP_CNT.cycles (R514). -/
def Fld.monDroopCntCycles : Field := ⟨0, 48, .ro, 0, []⟩
/-- SEC_STATUS.identity_ok (R534). -/
def Fld.secStatusIdentityOk : Field := ⟨0, 1, .ro, 0, []⟩
/-- SEC_STATUS.rpmb_ok (R534). -/
def Fld.secStatusRpmbOk : Field := ⟨1, 1, .ro, 0, []⟩
/-- SEC_STATUS.no_image (R534). -/
def Fld.secStatusNoImage : Field := ⟨2, 1, .ro, 0, []⟩
/-- SEC_STATUS.bcc_slot (R534). -/
def Fld.secStatusBccSlot : Field := ⟨3, 1, .ro, 0, []⟩
/-- SEC_STATUS.app_slot (R534). -/
def Fld.secStatusAppSlot : Field := ⟨4, 1, .ro, 0, []⟩
/-- SEC_STATUS.debug (R534). -/
def Fld.secStatusDebug : Field := ⟨5, 2, .ro, 0, []⟩
/-- SEC_EXTEND.layer (R534). -/
def Fld.secExtendLayer : Field := ⟨0, 3, .wo, 0, []⟩
/-- SEC_EXTEND.addr (R534). -/
def Fld.secExtendAddr : Field := ⟨6, 34, .wo, 0, []⟩
/-- SEC_ATT_REQ.addr (R534). -/
def Fld.secAttReqAddr : Field := ⟨6, 34, .wo, 0, []⟩
/-- SEC_ATT_STATUS.busy (R534). -/
def Fld.secAttStatusBusy : Field := ⟨0, 1, .ro, 0, []⟩
/-- SEC_ATT_STATUS.seq (R534). -/
def Fld.secAttStatusSeq : Field := ⟨32, 32, .ro, 0, []⟩
/-- SEC_UPD.addr (R534). -/
def Fld.secUpdAddr : Field := ⟨6, 34, .wo, 0, []⟩
/-- SEC_UPD_STATUS.state (R534). -/
def Fld.secUpdStatusState : Field := ⟨0, 3, .ro, 0, []⟩
/-- SEC_RTS.addr (R534). -/
def Fld.secRtsAddr : Field := ⟨6, 34, .wo, 0, []⟩
/-- SEC_RTS_CHALLENGE.value (R534). -/
def Fld.secRtsChallengeValue : Field := ⟨0, 64, .ro, 0, []⟩
/-- SEC_SVN_COMMIT.bcc (R534). -/
def Fld.secSvnCommitBcc : Field := ⟨0, 1, .wo, 0, []⟩
/-- SEC_SVN_COMMIT.app (R534). -/
def Fld.secSvnCommitApp : Field := ⟨1, 1, .wo, 0, []⟩
/-- SDS_CFG.quad0_mode (R430). -/
def Fld.sdsCfgQuad0Mode : Field := ⟨0, 2, .rw, 2, []⟩
/-- SDS_CFG.quad1_mode (R430). -/
def Fld.sdsCfgQuad1Mode : Field := ⟨2, 2, .rw, 2, []⟩

/-- Byte offset of MMU_INVAL (R45). -/
def Reg.mmuInval : Nat := 0xA6800
/-- Byte offset of MMU_INVAL_VA (R45). -/
def Reg.mmuInvalVa : Nat := 0xA6808
/-- Byte offset of MMU_INVAL_PAGES (R45). -/
def Reg.mmuInvalPages : Nat := 0xA6810
/-- Byte offset of MMU_INVAL_STATUS (R45). -/
def Reg.mmuInvalStatus : Nat := 0xA6818
/-- Byte offset of MC_CTL (R46). -/
def Reg.mcCtl (i : Nat) : Nat := 0xA8000 + 0x1000 * i
/-- Byte offset of MC_STATUS (R46). -/
def Reg.mcStatus (i : Nat) : Nat := 0xA8008 + 0x1000 * i
/-- Byte offset of MC_ECC_CNT (R46). -/
def Reg.mcEccCnt (i : Nat) : Nat := 0xA8010 + 0x1000 * i
/-- Byte offset of MC_ECC_THR (R46). -/
def Reg.mcEccThr (i : Nat) : Nat := 0xA8018 + 0x1000 * i
/-- Byte offset of MC_SCRUB_PERIOD (R46). -/
def Reg.mcScrubPeriod (i : Nat) : Nat := 0xA8020 + 0x1000 * i
/-- Byte offset of MC_ERR_ADDR (R46). -/
def Reg.mcErrAddr (i : Nat) : Nat := 0xA8028 + 0x1000 * i
/-- Byte offset of TLY_STATUS (R138). -/
def Reg.tlyStatus : Nat := 0x10000
/-- Byte offset of TLY_RESV_HI (R138). -/
def Reg.tlyResvHi : Nat := 0x10008
/-- Byte offset of TLY_PREEMPT (R138). -/
def Reg.tlyPreempt : Nat := 0x10010
/-- Byte offset of TLY_CLASS_BUDGET (R138). -/
def Reg.tlyClassBudget (j : Nat) : Nat := 0x10018 + 0x8 * j
/-- Byte offset of TLY_DLY_CFG (R138). -/
def Reg.tlyDlyCfg (j : Nat) : Nat := 0x10058 + 0x8 * j
/-- Byte offset of TLY_DLY_STATUS (R138). -/
def Reg.tlyDlyStatus (j : Nat) : Nat := 0x10098 + 0x8 * j
/-- Byte offset of ENQ_DATA (R139). -/
def Reg.enqData (i j : Nat) : Nat := 0x1E000 + 0x1000 * i + 0x8 * j
/-- Byte offset of PORT_CMD (R139). -/
def Reg.portCmd (i : Nat) : Nat := 0x1E030 + 0x1000 * i
/-- Byte offset of PORT_ACK (R139). -/
def Reg.portAck (i : Nat) : Nat := 0x1E038 + 0x1000 * i
/-- Byte offset of PORT_STAMP (R139). -/
def Reg.portStamp (i : Nat) : Nat := 0x1E040 + 0x1000 * i
/-- Byte offset of PORT_HANDLE (R139). -/
def Reg.portHandle (i : Nat) : Nat := 0x1E048 + 0x1000 * i
/-- Byte offset of DEQ_DATA (R139). -/
def Reg.deqData (i j : Nat) : Nat := 0x1E080 + 0x1000 * i + 0x8 * j
/-- Byte offset of TIME_NOW (R163). -/
def Reg.timeNow : Nat := 0x30000
/-- Byte offset of TIME_STATUS (R163). -/
def Reg.timeStatus : Nat := 0x30008
/-- Byte offset of TIME_CTL (R163). -/
def Reg.timeCtl : Nat := 0x30010
/-- Byte offset of TIME_STEP (R163). -/
def Reg.timeStep : Nat := 0x30018
/-- Byte offset of TIME_FREQ_ADJ (R163). -/
def Reg.timeFreqAdj : Nat := 0x30020
/-- Byte offset of TIME_PPS_OUT (R163). -/
def Reg.timePpsOut : Nat := 0x30028
/-- Byte offset of TIME_CMD (R163). -/
def Reg.timeCmd : Nat := 0x30030
/-- Byte offset of TIME_PPS_IN_STAMP (R163). -/
def Reg.timePpsInStamp : Nat := 0x30038
/-- Byte offset of LEDGER_BASE (R164). -/
def Reg.ledgerBase (i : Nat) : Nat := 0xA0400 + 0x1000 * i
/-- Byte offset of LEDGER_SIZE (R164). -/
def Reg.ledgerSize (i : Nat) : Nat := 0xA0408 + 0x1000 * i
/-- Byte offset of LEDGER_USED (R164). -/
def Reg.ledgerUsed (i : Nat) : Nat := 0xA0410 + 0x1000 * i
/-- Byte offset of LEDGER_STATUS (R164). -/
def Reg.ledgerStatus (i : Nat) : Nat := 0xA0418 + 0x1000 * i
/-- Byte offset of TT_STATUS (R226). -/
def Reg.ttStatus (i : Nat) : Nat := 0x80000 + 0x1000 * i
/-- Byte offset of TT_TMEM (R226). -/
def Reg.ttTmem (i : Nat) : Nat := 0x80008 + 0x1000 * i
/-- Byte offset of TT_CRIER (R226). -/
def Reg.ttCrier (i : Nat) : Nat := 0x80010 + 0x1000 * i
/-- Byte offset of TT_ABFT_CTL (R226). -/
def Reg.ttAbftCtl (i : Nat) : Nat := 0x80018 + 0x1000 * i
/-- Byte offset of TT_ABFT_CNT (R226). -/
def Reg.ttAbftCnt (i : Nat) : Nat := 0x80020 + 0x1000 * i
/-- Byte offset of TT_TMEM_SAT (R226). -/
def Reg.ttTmemSat (i : Nat) : Nat := 0x80028 + 0x1000 * i
/-- Byte offset of TT_BUSY (R226). -/
def Reg.ttBusy (i : Nat) : Nat := 0x80030 + 0x1000 * i
/-- Byte offset of TT_PREEMPT_CNT (R226). -/
def Reg.ttPreemptCnt (i : Nat) : Nat := 0x80038 + 0x1000 * i
/-- Byte offset of TT_STALL (R226). -/
def Reg.ttStall (i j : Nat) : Nat := 0x80040 + 0x1000 * i + 0x8 * j
/-- Byte offset of SAVE (R227). -/
def Reg.save (i : Nat) : Nat := 0xA0500 + 0x1000 * i
/-- Byte offset of STREAM_SHARE (R250). -/
def Reg.streamShare (i : Nat) : Nat := 0xA0600 + 0x1000 * i
/-- Byte offset of STREAM_MODE (R250). -/
def Reg.streamMode (i : Nat) : Nat := 0xA0608 + 0x1000 * i
/-- Byte offset of STREAM_TAGS (R250). -/
def Reg.streamTags (i : Nat) : Nat := 0xA0610 + 0x1000 * i
/-- Byte offset of STREAM_RD_BYTES (R250). -/
def Reg.streamRdBytes (i : Nat) : Nat := 0xA0618 + 0x1000 * i
/-- Byte offset of STREAM_WR_BYTES (R250). -/
def Reg.streamWrBytes (i : Nat) : Nat := 0xA0620 + 0x1000 * i
/-- Byte offset of STREAM_RM_BYTES (R250). -/
def Reg.streamRmBytes (i : Nat) : Nat := 0xA0628 + 0x1000 * i
/-- Byte offset of STREAM_WAIT (R250). -/
def Reg.streamWait (i j : Nat) : Nat := 0xA0630 + 0x1000 * i + 0x8 * j
/-- Byte offset of TLY_PROGRESS (R252). -/
def Reg.tlyProgress : Nat := 0x100D8
/-- Byte offset of TLY_HOLD (R252). -/
def Reg.tlyHold : Nat := 0x100E0
/-- Byte offset of FAULT_RESUME (R253). -/
def Reg.faultResume : Nat := 0xA6840
/-- Byte offset of FAULT_HOLDS (R253). -/
def Reg.faultHolds : Nat := 0xA6848
/-- Byte offset of DMA_CH_CTL (R274). -/
def Reg.dmaChCtl (i : Nat) : Nat := 0x40000 + 0x1000 * i
/-- Byte offset of DMA_CH_STATUS (R274). -/
def Reg.dmaChStatus (i : Nat) : Nat := 0x40008 + 0x1000 * i
/-- Byte offset of DMA_CH_ACTIVE_HEAD (R274). -/
def Reg.dmaChActiveHead (i : Nat) : Nat := 0x40010 + 0x1000 * i
/-- Byte offset of DMA_CH_SHADOW_HEAD (R274). -/
def Reg.dmaChShadowHead (i : Nat) : Nat := 0x40018 + 0x1000 * i
/-- Byte offset of DMA_CH_CUR (R274). -/
def Reg.dmaChCur (i : Nat) : Nat := 0x40020 + 0x1000 * i
/-- Byte offset of DMA_CH_CTX (R274). -/
def Reg.dmaChCtx (i : Nat) : Nat := 0x40028 + 0x1000 * i
/-- Byte offset of DMA_CH_CFG (R274). -/
def Reg.dmaChCfg (i : Nat) : Nat := 0x40030 + 0x1000 * i
/-- Byte offset of DMA_CH_SIGNAL (R274). -/
def Reg.dmaChSignal (i : Nat) : Nat := 0x40038 + 0x1000 * i
/-- Byte offset of DMA_CH_HALL (R274). -/
def Reg.dmaChHall (i : Nat) : Nat := 0x40040 + 0x1000 * i
/-- Byte offset of DMA_CH_NOTIFY (R274). -/
def Reg.dmaChNotify (i : Nat) : Nat := 0x40048 + 0x1000 * i
/-- Byte offset of DMA_CH_BYTES (R274). -/
def Reg.dmaChBytes (i : Nat) : Nat := 0x40050 + 0x1000 * i
/-- Byte offset of DMA_CH_DESC_CNT (R274). -/
def Reg.dmaChDescCnt (i : Nat) : Nat := 0x40058 + 0x1000 * i
/-- Byte offset of DMA_CH_WAIT (R274). -/
def Reg.dmaChWait (i : Nat) : Nat := 0x40060 + 0x1000 * i
/-- Byte offset of CSI_CTL (R302). -/
def Reg.csiCtl (i : Nat) : Nat := 0xD0000 + 0x1000 * i
/-- Byte offset of CSI_STATUS (R302). -/
def Reg.csiStatus (i : Nat) : Nat := 0xD0008 + 0x1000 * i
/-- Byte offset of CSI_LOSS (R302). -/
def Reg.csiLoss (i : Nat) : Nat := 0xD0010 + 0x1000 * i
/-- Byte offset of CSI_ERR (R302). -/
def Reg.csiErr (i : Nat) : Nat := 0xD0018 + 0x1000 * i
/-- Byte offset of CSI_BUS_CTL (R302). -/
def Reg.csiBusCtl (i : Nat) : Nat := 0xD0020 + 0x1000 * i
/-- Byte offset of CSI_BUS_LIST (R302). -/
def Reg.csiBusList (i : Nat) : Nat := 0xD0028 + 0x1000 * i
/-- Byte offset of CSI_BUS_STATUS (R302). -/
def Reg.csiBusStatus (i : Nat) : Nat := 0xD0030 + 0x1000 * i
/-- Byte offset of ISP_CTL (R303). -/
def Reg.ispCtl : Nat := 0xC0000
/-- Byte offset of ISP_STATUS (R303). -/
def Reg.ispStatus : Nat := 0xC0008
/-- Byte offset of ISP_STALL (R303). -/
def Reg.ispStall (j : Nat) : Nat := 0xC0040 + 0x8 * j
/-- Byte offset of CAM_CFG (R304). -/
def Reg.camCfg (i j : Nat) : Nat := 0xC1000 + 0x1000 * i + 0x100 * j
/-- Byte offset of CAM_SIZE (R304). -/
def Reg.camSize (i j : Nat) : Nat := 0xC1008 + 0x1000 * i + 0x100 * j
/-- Byte offset of CAM_FILL (R304). -/
def Reg.camFill (i j : Nat) : Nat := 0xC1010 + 0x1000 * i + 0x100 * j
/-- Byte offset of CAM_TIMEOUT (R304). -/
def Reg.camTimeout (i j : Nat) : Nat := 0xC1018 + 0x1000 * i + 0x100 * j
/-- Byte offset of CAM_RAW (R304). -/
def Reg.camRaw (i j : Nat) : Nat := 0xC1020 + 0x1000 * i + 0x100 * j
/-- Byte offset of CAM_STATUS_BASE (R304). -/
def Reg.camStatusBase (i j : Nat) : Nat := 0xC1028 + 0x1000 * i + 0x100 * j
/-- Byte offset of CAM_OWNER (R304). -/
def Reg.camOwner (i j : Nat) : Nat := 0xC1038 + 0x1000 * i + 0x100 * j
/-- Byte offset of CAM_PARAM_SHADOW (R304). -/
def Reg.camParamShadow (i j : Nat) : Nat := 0xC1040 + 0x1000 * i + 0x100 * j
/-- Byte offset of CAM_PARAM_ACTIVE (R304). -/
def Reg.camParamActive (i j : Nat) : Nat := 0xC1048 + 0x1000 * i + 0x100 * j
/-- Byte offset of CAM_CMD (R304). -/
def Reg.camCmd (i j : Nat) : Nat := 0xC1050 + 0x1000 * i + 0x100 * j
/-- Byte offset of CAM_STATE (R304). -/
def Reg.camState (i j : Nat) : Nat := 0xC1058 + 0x1000 * i + 0x100 * j
/-- Byte offset of CAM_EMB (R304). -/
def Reg.camEmb (i j : Nat) : Nat := 0xC1060 + 0x1000 * i + 0x100 * j
/-- Byte offset of CAM_EXPREQ (R304). -/
def Reg.camExpreq (i j : Nat) : Nat := 0xC1068 + 0x1000 * i + 0x100 * j
/-- Byte offset of CAM_EXPREQ_STATUS (R304). -/
def Reg.camExpreqStatus (i j : Nat) : Nat := 0xC1070 + 0x1000 * i + 0x100 * j
/-- Byte offset of CAM_CNT (R304). -/
def Reg.camCnt (i j : Nat) : Nat := 0xC1078 + 0x1000 * i + 0x100 * j
/-- Byte offset of PYR_STATUS (R322). -/
def Reg.pyrStatus (i : Nat) : Nat := 0xC8000 + 0x1000 * i
/-- Byte offset of PYR_PIXELS (R322). -/
def Reg.pyrPixels (i : Nat) : Nat := 0xC8008 + 0x1000 * i
/-- Byte offset of WRP_INVALID (R322). -/
def Reg.wrpInvalid : Nat := 0xC9010
/-- Byte offset of WRP_SPLIT (R322). -/
def Reg.wrpSplit : Nat := 0xC9018
/-- Byte offset of PYR_STALL (R322). -/
def Reg.pyrStall (i j : Nat) : Nat := 0xC8040 + 0x1000 * i + 0x8 * j
/-- Byte offset of OFE_STATUS (R347). -/
def Reg.ofeStatus (i : Nat) : Nat := 0xCA000 + 0x1000 * i
/-- Byte offset of OFE_VECTORS (R347). -/
def Reg.ofeVectors (i : Nat) : Nat := 0xCA008 + 0x1000 * i
/-- Byte offset of OFE_CODE_CNT (R347). -/
def Reg.ofeCodeCnt (i j : Nat) : Nat := 0xCA010 + 0x1000 * i + 0x8 * j
/-- Byte offset of OFE_PRED_FALLBACK (R347). -/
def Reg.ofePredFallback (i : Nat) : Nat := 0xCA038 + 0x1000 * i
/-- Byte offset of OFE_STALL (R347). -/
def Reg.ofeStall (i j : Nat) : Nat := 0xCA040 + 0x1000 * i + 0x8 * j
/-- Byte offset of FTR_STATUS (R371). -/
def Reg.ftrStatus : Nat := 0xCC000
/-- Byte offset of FTR_FEATURES (R371). -/
def Reg.ftrFeatures : Nat := 0xCC008
/-- Byte offset of FTR_COMPARES (R371). -/
def Reg.ftrCompares : Nat := 0xCC010
/-- Byte offset of FTR_TRUNC (R371). -/
def Reg.ftrTrunc : Nat := 0xCC018
/-- Byte offset of FTR_STALL (R371). -/
def Reg.ftrStall (j : Nat) : Nat := 0xCC040 + 0x8 * j
/-- Byte offset of HALL_FLAG_SEL (R372). -/
def Reg.hallFlagSel : Nat := 0xCD000
/-- Byte offset of HALL_FLAG_CFG (R372). -/
def Reg.hallFlagCfg : Nat := 0xCD008
/-- Byte offset of HALL_FLAG_THR (R372). -/
def Reg.hallFlagThr : Nat := 0xCD010
/-- Byte offset of HALL_FLAG_COUNT (R372). -/
def Reg.hallFlagCount : Nat := 0xCD018
/-- Byte offset of HALL_FLAG_ADV (R372). -/
def Reg.hallFlagAdv : Nat := 0xCD020
/-- Byte offset of HALL_BUF_SEL (R372). -/
def Reg.hallBufSel : Nat := 0xCD040
/-- Byte offset of HALL_BUF_BASE (R372). -/
def Reg.hallBufBase : Nat := 0xCD048
/-- Byte offset of HALL_BUF_STRIDE (R372). -/
def Reg.hallBufStride : Nat := 0xCD050
/-- Byte offset of HALL_BUF_RING (R372). -/
def Reg.hallBufRing : Nat := 0xCD058
/-- Byte offset of HALL_BUF_OWNER (R372). -/
def Reg.hallBufOwner : Nat := 0xCD060
/-- Byte offset of HALL_BUF_COUNTS (R372). -/
def Reg.hallBufCounts : Nat := 0xCD068
/-- Byte offset of HALL_BUF_COPY (R372). -/
def Reg.hallBufCopy : Nat := 0xCD070
/-- Byte offset of RD_STATUS (R406). -/
def Reg.rdStatus (i : Nat) : Nat := 0xE0000 + 0x1000 * i
/-- Byte offset of RD_WORK (R406). -/
def Reg.rdWork (i : Nat) : Nat := 0xE0008 + 0x1000 * i
/-- Byte offset of RD_SAT (R406). -/
def Reg.rdSat (i : Nat) : Nat := 0xE0010 + 0x1000 * i
/-- Byte offset of RD_STALL (R406). -/
def Reg.rdStall (i j : Nat) : Nat := 0xE0040 + 0x1000 * i + 0x8 * j
/-- Byte offset of DFE_CFG (R407). -/
def Reg.dfeCfg (j : Nat) : Nat := 0xE1100 + 0x20 * j
/-- Byte offset of DFE_NCO (R407). -/
def Reg.dfeNco (j : Nat) : Nat := 0xE1108 + 0x20 * j
/-- Byte offset of DFE_LAT (R407). -/
def Reg.dfeLat (j : Nat) : Nat := 0xE1110 + 0x20 * j
/-- Byte offset of DFE_CNT (R407). -/
def Reg.dfeCnt (j : Nat) : Nat := 0xE1118 + 0x20 * j
/-- Byte offset of JESD_CTL (R408). -/
def Reg.jesdCtl (i : Nat) : Nat := 0xE8000 + 0x1000 * i
/-- Byte offset of JESD_STATUS (R408). -/
def Reg.jesdStatus (i : Nat) : Nat := 0xE8008 + 0x1000 * i
/-- Byte offset of JESD_ERR (R408). -/
def Reg.jesdErr (i : Nat) : Nat := 0xE8010 + 0x1000 * i
/-- Byte offset of JESD_SYSREF (R408). -/
def Reg.jesdSysref : Nat := 0xE8020
/-- Byte offset of FHE_ADDR (R409). -/
def Reg.fheAddr (j : Nat) : Nat := 0xE5100 + 0x40 * j
/-- Byte offset of FHE_PORT (R409). -/
def Reg.fhePort (j : Nat) : Nat := 0xE5108 + 0x40 * j
/-- Byte offset of FHE_WIN_TX_CP (R409). -/
def Reg.fheWinTxCp (j : Nat) : Nat := 0xE5110 + 0x40 * j
/-- Byte offset of FHE_WIN_TX_UP (R409). -/
def Reg.fheWinTxUp (j : Nat) : Nat := 0xE5118 + 0x40 * j
/-- Byte offset of FHE_WIN_RX_CP (R409). -/
def Reg.fheWinRxCp (j : Nat) : Nat := 0xE5120 + 0x40 * j
/-- Byte offset of FHE_WIN_RX_UP (R409). -/
def Reg.fheWinRxUp (j : Nat) : Nat := 0xE5128 + 0x40 * j
/-- Byte offset of FHE_CNT_A (R409). -/
def Reg.fheCntA (j : Nat) : Nat := 0xE5130 + 0x40 * j
/-- Byte offset of FHE_CNT_B (R409). -/
def Reg.fheCntB (j : Nat) : Nat := 0xE5138 + 0x40 * j
/-- Byte offset of ETH_CTL (R429). -/
def Reg.ethCtl (i : Nat) : Nat := 0x100000 + 0x1000 * i
/-- Byte offset of ETH_STATUS (R429). -/
def Reg.ethStatus (i : Nat) : Nat := 0x100008 + 0x1000 * i
/-- Byte offset of ETH_CTX (R429). -/
def Reg.ethCtx (i : Nat) : Nat := 0x100010 + 0x1000 * i
/-- Byte offset of ETH_RXBUF (R429). -/
def Reg.ethRxbuf (i : Nat) : Nat := 0x100018 + 0x1000 * i
/-- Byte offset of ETH_RXBUF_RET (R429). -/
def Reg.ethRxbufRet (i : Nat) : Nat := 0x100020 + 0x1000 * i
/-- Byte offset of ETH_RXQ (R429). -/
def Reg.ethRxq (i j : Nat) : Nat := 0x100028 + 0x1000 * i + 0x8 * j
/-- Byte offset of ETH_TXQ (R429). -/
def Reg.ethTxq (i : Nat) : Nat := 0x100068 + 0x1000 * i
/-- Byte offset of ETH_TXDONE (R429). -/
def Reg.ethTxdone (i : Nat) : Nat := 0x100070 + 0x1000 * i
/-- Byte offset of ETH_MAC (R429). -/
def Reg.ethMac (i : Nat) : Nat := 0x100078 + 0x1000 * i
/-- Byte offset of ETH_IP4 (R429). -/
def Reg.ethIp4 (i : Nat) : Nat := 0x100080 + 0x1000 * i
/-- Byte offset of ETH_IP6 (R429). -/
def Reg.ethIp6 (i j : Nat) : Nat := 0x100088 + 0x1000 * i + 0x8 * j
/-- Byte offset of ETH_CNT (R429). -/
def Reg.ethCnt (i : Nat) : Nat := 0x100098 + 0x1000 * i
/-- Byte offset of FAB_RC (R431). -/
def Reg.fabRc : Nat := 0xA6A00
/-- Byte offset of FAB_JOB_CFG (R431). -/
def Reg.fabJobCfg (j : Nat) : Nat := 0xA6A08 + 0x18 * j
/-- Byte offset of FAB_JOB_CMD (R431). -/
def Reg.fabJobCmd (j : Nat) : Nat := 0xA6A10 + 0x18 * j
/-- Byte offset of FAB_JOB_STATUS (R431). -/
def Reg.fabJobStatus (j : Nat) : Nat := 0xA6A18 + 0x18 * j
/-- Byte offset of FAB_MEMBERS (R431). -/
def Reg.fabMembers : Nat := 0xA6C00
/-- Byte offset of PCIE_STATUS (R432). -/
def Reg.pcieStatus : Nat := 0x110000
/-- Byte offset of PCIE_CTX (R432). -/
def Reg.pcieCtx : Nat := 0x110008
/-- Byte offset of PCIE_MSI (R432). -/
def Reg.pcieMsi : Nat := 0x110010
/-- Byte offset of PCIE_BAR2 (R432). -/
def Reg.pcieBar2 : Nat := 0x110018
/-- Byte offset of PCIE_MSIX (R432). -/
def Reg.pcieMsix (j : Nat) : Nat := 0x110040 + 0x8 * j
/-- Byte offset of SAFE_CTL (R456). -/
def Reg.safeCtl : Nat := 0x120000
/-- Byte offset of SAFE_STATUS (R456). -/
def Reg.safeStatus : Nat := 0x120008
/-- Byte offset of SAFE_BW_SEL (R456). -/
def Reg.safeBwSel : Nat := 0x120010
/-- Byte offset of SAFE_BW_CFG (R456). -/
def Reg.safeBwCfg : Nat := 0x120018
/-- Byte offset of SAFE_BW_SHADOW (R456). -/
def Reg.safeBwShadow : Nat := 0x120020
/-- Byte offset of SAFE_BW_ACTIVE (R456). -/
def Reg.safeBwActive : Nat := 0x120028
/-- Byte offset of SAFE_BW_CMD (R456). -/
def Reg.safeBwCmd : Nat := 0x120030
/-- Byte offset of SAFE_BW_STATUS (R456). -/
def Reg.safeBwStatus : Nat := 0x120038
/-- Byte offset of SAFE_CAIRN_SEL (R456). -/
def Reg.safeCairnSel : Nat := 0x120040
/-- Byte offset of SAFE_CAIRN_CFG (R456). -/
def Reg.safeCairnCfg : Nat := 0x120048
/-- Byte offset of SAFE_CAIRN_TIME (R456). -/
def Reg.safeCairnTime : Nat := 0x120050
/-- Byte offset of SAFE_CAIRN_STATUS (R456). -/
def Reg.safeCairnStatus : Nat := 0x120058
/-- Byte offset of SAFE_SEAL_SEL (R456). -/
def Reg.safeSealSel : Nat := 0x120060
/-- Byte offset of SAFE_SEAL (R456). -/
def Reg.safeSeal : Nat := 0x120068
/-- Byte offset of SAFE_PIPE_CFG (R456). -/
def Reg.safePipeCfg (j : Nat) : Nat := 0x120100 + 0x40 * j
/-- Byte offset of SAFE_PIPE_GATE (R456). -/
def Reg.safePipeGate (j : Nat) : Nat := 0x120108 + 0x40 * j
/-- Byte offset of SAFE_PIPE_CHK (R456). -/
def Reg.safePipeChk (j : Nat) : Nat := 0x120110 + 0x40 * j
/-- Byte offset of SAFE_PIPE_STATUS (R456). -/
def Reg.safePipeStatus (j : Nat) : Nat := 0x120118 + 0x40 * j
/-- Byte offset of SAFE_PIPE_CNT (R456). -/
def Reg.safePipeCnt (j : Nat) : Nat := 0x120120 + 0x40 * j
/-- Byte offset of SAFE_PIPE_CMD (R456). -/
def Reg.safePipeCmd (j : Nat) : Nat := 0x120128 + 0x40 * j
/-- Byte offset of SAFE_PIPE_SAMPLED (R456). -/
def Reg.safePipeSampled (j : Nat) : Nat := 0x120130 + 0x40 * j
/-- Byte offset of CHK_STATUS (R457). -/
def Reg.chkStatus (i : Nat) : Nat := 0xB0000 + 0x1000 * i
/-- Byte offset of CHK_BLOCKS (R457). -/
def Reg.chkBlocks (i : Nat) : Nat := 0xB0008 + 0x1000 * i
/-- Byte offset of CHK_MISMATCH (R457). -/
def Reg.chkMismatch (i : Nat) : Nat := 0xB0010 + 0x1000 * i
/-- Byte offset of CHK_STALL (R457). -/
def Reg.chkStall (i j : Nat) : Nat := 0xB0040 + 0x1000 * i + 0x8 * j
/-- Byte offset of RCV_STATUS (R479). -/
def Reg.rcvStatus : Nat := 0x121000
/-- Byte offset of RCV_CMD (R479). -/
def Reg.rcvCmd : Nat := 0x121008
/-- Byte offset of RCV_ESC (R479). -/
def Reg.rcvEsc : Nat := 0x121010
/-- Byte offset of RCV_PRIV (R479). -/
def Reg.rcvPriv : Nat := 0x121018
/-- Byte offset of RCV_HANG (R479). -/
def Reg.rcvHang : Nat := 0x121020
/-- Byte offset of RCV_WDT (R479). -/
def Reg.rcvWdt : Nat := 0x121028
/-- Byte offset of RCV_FAB_RTT (R479). -/
def Reg.rcvFabRtt : Nat := 0x121030
/-- Byte offset of RCV_LATE (R479). -/
def Reg.rcvLate : Nat := 0x121038
/-- Byte offset of RCV_REPORT (R479). -/
def Reg.rcvReport : Nat := 0x121040
/-- Byte offset of BIST_CMD (R494). -/
def Reg.bistCmd : Nat := 0x122000
/-- Byte offset of BIST_STATUS (R494). -/
def Reg.bistStatus : Nat := 0x122008
/-- Byte offset of BIST_RESULT (R494). -/
def Reg.bistResult (j : Nat) : Nat := 0x122010 + 0x8 * j
/-- Byte offset of BIST_ROT (R494). -/
def Reg.bistRot : Nat := 0x122068
/-- Byte offset of BIST_BYPASS (R494). -/
def Reg.bistBypass : Nat := 0x122070
/-- Byte offset of BIST_MISR_PORT (R494). -/
def Reg.bistMisrPort : Nat := 0x122078
/-- Byte offset of BIST_MISR_BODY (R494). -/
def Reg.bistMisrBody : Nat := 0x122080
/-- Byte offset of PWR_STATUS (R513). -/
def Reg.pwrStatus : Nat := 0x123000
/-- Byte offset of PWR_LIMIT (R513). -/
def Reg.pwrLimit : Nat := 0x123008
/-- Byte offset of PWR_IDLE (R513). -/
def Reg.pwrIdle : Nat := 0x123010
/-- Byte offset of PWR_KEEP (R513). -/
def Reg.pwrKeep (j : Nat) : Nat := 0x123018 + 0x8 * j
/-- Byte offset of PWR_DOM_SEL (R513). -/
def Reg.pwrDomSel : Nat := 0x123028
/-- Byte offset of PWR_DOM (R513). -/
def Reg.pwrDom : Nat := 0x123030
/-- Byte offset of PWR_AVS (R513). -/
def Reg.pwrAvs : Nat := 0x123038
/-- Byte offset of PWR_OPDEF (R513). -/
def Reg.pwrOpdef : Nat := 0x123040
/-- Byte offset of OPREC_SEL (R513). -/
def Reg.oprecSel : Nat := 0x123048
/-- Byte offset of OPREC_DATA (R513). -/
def Reg.oprecData : Nat := 0x123050
/-- Byte offset of CLK_STATUS (R514). -/
def Reg.clkStatus : Nat := 0x124000
/-- Byte offset of CLK_UNLOCK_CNT (R514). -/
def Reg.clkUnlockCnt : Nat := 0x124008
/-- Byte offset of MON_SEL (R514). -/
def Reg.monSel : Nat := 0x125000
/-- Byte offset of MON_VALUE (R514). -/
def Reg.monValue : Nat := 0x125008
/-- Byte offset of MON_THERM (R514). -/
def Reg.monTherm : Nat := 0x125010
/-- Byte offset of MON_DROOP (R514). -/
def Reg.monDroop : Nat := 0x125018
/-- Byte offset of MON_DROOP_CNT (R514). -/
def Reg.monDroopCnt (j : Nat) : Nat := 0x125020 + 0x8 * j
/-- Byte offset of SEC_STATUS (R534). -/
def Reg.secStatus : Nat := 0x08000
/-- Byte offset of SEC_EXTEND (R534). -/
def Reg.secExtend : Nat := 0x08008
/-- Byte offset of SEC_ATT_REQ (R534). -/
def Reg.secAttReq : Nat := 0x08010
/-- Byte offset of SEC_ATT_STATUS (R534). -/
def Reg.secAttStatus : Nat := 0x08018
/-- Byte offset of SEC_UPD (R534). -/
def Reg.secUpd : Nat := 0x08020
/-- Byte offset of SEC_UPD_STATUS (R534). -/
def Reg.secUpdStatus : Nat := 0x08028
/-- Byte offset of SEC_RTS (R534). -/
def Reg.secRts : Nat := 0x08030
/-- Byte offset of SEC_RTS_CHALLENGE (R534). -/
def Reg.secRtsChallenge : Nat := 0x08038
/-- Byte offset of SEC_SVN_COMMIT (R534). -/
def Reg.secSvnCommit : Nat := 0x08040
/-- Byte offset of SDS_CFG (R430). -/
def Reg.sdsCfg : Nat := 0x108000

/-- Part 1 of the register table. -/
def regTable1 : List RegDef := [
  ⟨0xA6800, 1, 0x1000, 1, 0x8, .bccOnly, [Fld.mmuInvalHandle, Fld.mmuInvalAll]⟩,
  ⟨0xA6808, 1, 0x1000, 1, 0x8, .bccOnly, [Fld.mmuInvalVaBase]⟩,
  ⟨0xA6810, 1, 0x1000, 1, 0x8, .bccOnly, [Fld.mmuInvalPagesPagesM1]⟩,
  ⟨0xA6818, 1, 0x1000, 1, 0x8, .bccOnly, [Fld.mmuInvalStatusDone]⟩,
  ⟨0xA8000, 8, 0x1000, 1, 0x8, .bccOnly, [Fld.mcCtlSpeed, Fld.mcCtlEccMode]⟩,
  ⟨0xA8008, 8, 0x1000, 1, 0x8, .bccOnly, [Fld.mcStatusTrained, Fld.mcStatusSelfRefresh, Fld.mcStatusTracking, Fld.mcStatusCapacityGib, Fld.mcStatusSpeedRun]⟩,
  ⟨0xA8010, 8, 0x1000, 1, 0x8, .bccOnly, [Fld.mcEccCntCount]⟩,
  ⟨0xA8018, 8, 0x1000, 1, 0x8, .bccOnly, [Fld.mcEccThrThreshold]⟩,
  ⟨0xA8020, 8, 0x1000, 1, 0x8, .bccOnly, [Fld.mcScrubPeriodHours]⟩,
  ⟨0xA8028, 8, 0x1000, 1, 0x8, .bccOnly, [Fld.mcErrAddrAddr, Fld.mcErrAddrValid]⟩,
  ⟨0x10000, 1, 0x1000, 1, 0x8, .bccOnly, [Fld.tlyStatusStoreFree, Fld.tlyStatusBoardFree, Fld.tlyStatusPinned]⟩,
  ⟨0x10008, 1, 0x1000, 1, 0x8, .bccOnly, [Fld.tlyResvHiEntries]⟩,
  ⟨0x10010, 1, 0x1000, 1, 0x8, .bccOnly, [Fld.tlyPreemptMinClass]⟩,
  ⟨0x10018, 1, 0x1000, 8, 0x8, .bccOnly, [Fld.tlyClassBudgetUsM1]⟩,
  ⟨0x10058, 1, 0x1000, 8, 0x8, .bccOnly, [Fld.tlyDlyCfgEntries]⟩,
  ⟨0x10098, 1, 0x1000, 8, 0x8, .bccOnly, [Fld.tlyDlyStatusUsed]⟩,
  ⟨0x1E000, 18, 0x1000, 6, 0x8, .port, [Fld.enqDataData]⟩,
  ⟨0x1E030, 18, 0x1000, 1, 0x8, .port, [Fld.portCmdTarget, Fld.portCmdType, Fld.portCmdOp]⟩,
  ⟨0x1E038, 18, 0x1000, 1, 0x8, .port, [Fld.portAckStatus, Fld.portAckDone, Fld.portAckSeq]⟩,
  ⟨0x1E040, 18, 0x1000, 1, 0x8, .port, [Fld.portStampStamp]⟩,
  ⟨0x1E048, 18, 0x1000, 1, 0x8, .port, [Fld.portHandleHandle]⟩,
  ⟨0x1E080, 18, 0x1000, 8, 0x8, .port, [Fld.deqDataData]⟩,
  ⟨0x30000, 1, 0x1000, 1, 0x8, .bccOnly, [Fld.timeNowNow]⟩,
  ⟨0x30008, 1, 0x1000, 1, 0x8, .bccOnly, [Fld.timeStatusState, Fld.timeStatusService, Fld.timeStatusPpsPresent, Fld.timeStatusSyncePresent]⟩,
  ⟨0x30010, 1, 0x1000, 1, 0x8, .bccOnly, [Fld.timeCtlFreqSrc, Fld.timeCtlSyncePort, Fld.timeCtlPpsInEn, Fld.timeCtlPpsOutEn]⟩]

/-- Part 2 of the register table. -/
def regTable2 : List RegDef := [
  ⟨0x30018, 1, 0x1000, 1, 0x8, .bccOnly, [Fld.timeStepOffset]⟩,
  ⟨0x30020, 1, 0x1000, 1, 0x8, .bccOnly, [Fld.timeFreqAdjAdj]⟩,
  ⟨0x30028, 1, 0x1000, 1, 0x8, .bccOnly, [Fld.timePpsOutPhase]⟩,
  ⟨0x30030, 1, 0x1000, 1, 0x8, .bccOnly, [Fld.timeCmdStartService]⟩,
  ⟨0x30038, 1, 0x1000, 1, 0x8, .bccOnly, [Fld.timePpsInStampStamp]⟩,
  ⟨0xA0400, 4, 0x1000, 1, 0x8, .bccOnly, [Fld.ledgerBaseBase]⟩,
  ⟨0xA0408, 4, 0x1000, 1, 0x8, .bccOnly, [Fld.ledgerSizeMibM1]⟩,
  ⟨0xA0410, 4, 0x1000, 1, 0x8, .bccOnly, [Fld.ledgerUsedKib]⟩,
  ⟨0xA0418, 4, 0x1000, 1, 0x8, .bccOnly, [Fld.ledgerStatusEnabled, Fld.ledgerStatusReplaying, Fld.ledgerStatusOpen]⟩,
  ⟨0x80000, 32, 0x1000, 1, 0x8, .bccOnly, [Fld.ttStatusPower, Fld.ttStatusBusy, Fld.ttStatusSaved, Fld.ttStatusOos, Fld.ttStatusCrier, Fld.ttStatusLastLane]⟩,
  ⟨0x80008, 32, 0x1000, 1, 0x8, .bccOnly, [Fld.ttTmemStagingBanks, Fld.ttTmemPending]⟩,
  ⟨0x80010, 32, 0x1000, 1, 0x8, .bccOnly, [Fld.ttCrierWindow]⟩,
  ⟨0x80018, 32, 0x1000, 1, 0x8, .bccOnly, [Fld.ttAbftCtlLaneLimit]⟩,
  ⟨0x80020, 32, 0x1000, 1, 0x8, .bccOnly, [Fld.ttAbftCntRetried, Fld.ttAbftCntFailed]⟩,
  ⟨0x80028, 32, 0x1000, 1, 0x8, .bccOnly, [Fld.ttTmemSatCount]⟩,
  ⟨0x80030, 32, 0x1000, 1, 0x8, .bccOnly, [Fld.ttBusyCycles]⟩,
  ⟨0x80038, 32, 0x1000, 1, 0x8, .bccOnly, [Fld.ttPreemptCntCount]⟩,
  ⟨0x80040, 32, 0x1000, 8, 0x8, .bccOnly, [Fld.ttStallCycles]⟩,
  ⟨0xA0500, 4, 0x1000, 1, 0x8, .bccOnly, [Fld.saveSlot]⟩,
  ⟨0xA0600, 4, 0x1000, 1, 0x8, .bccOnly, [Fld.streamShareRead, Fld.streamShareWrite, Fld.streamShareRemote]⟩,
  ⟨0xA0608, 4, 0x1000, 1, 0x8, .bccOnly, [Fld.streamModeRestricted]⟩,
  ⟨0xA0610, 4, 0x1000, 1, 0x8, .bccOnly, [Fld.streamTagsReadsOut]⟩,
  ⟨0xA0618, 4, 0x1000, 1, 0x8, .bccOnly, [Fld.streamRdBytesBytes]⟩,
  ⟨0xA0620, 4, 0x1000, 1, 0x8, .bccOnly, [Fld.streamWrBytesBytes]⟩,
  ⟨0xA0628, 4, 0x1000, 1, 0x8, .bccOnly, [Fld.streamRmBytesBytes]⟩]

/-- Part 3 of the register table. -/
def regTable3 : List RegDef := [
  ⟨0xA0630, 4, 0x1000, 3, 0x8, .bccOnly, [Fld.streamWaitCycles]⟩,
  ⟨0x100D8, 1, 0x1000, 1, 0x8, .bccOnly, [Fld.tlyProgressUs]⟩,
  ⟨0x100E0, 1, 0x1000, 1, 0x8, .bccOnly, [Fld.tlyHoldMs]⟩,
  ⟨0xA6840, 1, 0x1000, 1, 0x8, .bccOrPrivCore, [Fld.faultResumeHold, Fld.faultResumeAbandon, Fld.faultResumeHandle]⟩,
  ⟨0xA6848, 1, 0x1000, 1, 0x8, .bccOrPrivCore, [Fld.faultHoldsLive]⟩,
  ⟨0x40000, 64, 0x1000, 1, 0x8, .bccOrPrivCore, [Fld.dmaChCtlStart, Fld.dmaChCtlArm, Fld.dmaChCtlDisarm, Fld.dmaChCtlStop, Fld.dmaChCtlAbort]⟩,
  ⟨0x40008, 64, 0x1000, 1, 0x8, .bccOrPrivCore, [Fld.dmaChStatusState, Fld.dmaChStatusCause, Fld.dmaChStatusArmed, Fld.dmaChStatusHandover, Fld.dmaChStatusHops]⟩,
  ⟨0x40010, 64, 0x1000, 1, 0x8, .bccOrPrivCore, [Fld.dmaChActiveHeadHead]⟩,
  ⟨0x40018, 64, 0x1000, 1, 0x8, .bccOrPrivCore, [Fld.dmaChShadowHeadHead]⟩,
  ⟨0x40020, 64, 0x1000, 1, 0x8, .bccOrPrivCore, [Fld.dmaChCurAddr]⟩,
  ⟨0x40028, 64, 0x1000, 1, 0x8, .bccOrPrivCore, [Fld.dmaChCtxHandle, Fld.dmaChCtxClass]⟩,
  ⟨0x40030, 64, 0x1000, 1, 0x8, .bccOrPrivCore, [Fld.dmaChCfgHopLimit, Fld.dmaChCfgFetchUs, Fld.dmaChCfgDescMs]⟩,
  ⟨0x40038, 64, 0x1000, 1, 0x8, .bccOrPrivCore, [Fld.dmaChSignalKey]⟩,
  ⟨0x40040, 64, 0x1000, 1, 0x8, .bccOrPrivCore, [Fld.dmaChHallFlag]⟩,
  ⟨0x40048, 64, 0x1000, 1, 0x8, .bccOrPrivCore, [Fld.dmaChNotifyQueue]⟩,
  ⟨0x40050, 64, 0x1000, 1, 0x8, .bccOrPrivCore, [Fld.dmaChBytesBytes]⟩,
  ⟨0x40058, 64, 0x1000, 1, 0x8, .bccOrPrivCore, [Fld.dmaChDescCntDone, Fld.dmaChDescCntBad]⟩,
  ⟨0x40060, 64, 0x1000, 1, 0x8, .bccOrPrivCore, [Fld.dmaChWaitCycles]⟩,
  ⟨0xD0000, 8, 0x1000, 1, 0x8, .bccOrMachine, [Fld.csiCtlEnable, Fld.csiCtlLanesM1, Fld.csiCtlLaneMap, Fld.csiCtlPol, Fld.csiCtlRateMbps]⟩,
  ⟨0xD0008, 8, 0x1000, 1, 0x8, .bccOrMachine, [Fld.csiStatusLink, Fld.csiStatusDeskewOk]⟩,
  ⟨0xD0010, 8, 0x1000, 1, 0x8, .bccOrMachine, [Fld.csiLossUs]⟩,
  ⟨0xD0018, 8, 0x1000, 1, 0x8, .bccOrMachine, [Fld.csiErrEccCorrected, Fld.csiErrHdrDrop, Fld.csiErrCrcErr, Fld.csiErrDtDrop]⟩,
  ⟨0xD0020, 8, 0x1000, 1, 0x8, .bccOrMachine, [Fld.csiBusCtlSpeed]⟩,
  ⟨0xD0028, 8, 0x1000, 1, 0x8, .bccOrMachine, [Fld.csiBusListAddr]⟩,
  ⟨0xD0030, 8, 0x1000, 1, 0x8, .bccOrMachine, [Fld.csiBusStatusBusy, Fld.csiBusStatusError, Fld.csiBusStatusEntry]⟩]

/-- Part 4 of the register table. -/
def regTable4 : List RegDef := [
  ⟨0xC0000, 1, 0x1000, 1, 0x8, .bccOnly, [Fld.ispCtlInlineCtx, Fld.ispCtlInlineEn]⟩,
  ⟨0xC0008, 1, 0x1000, 1, 0x8, .bccOnly, [Fld.ispStatusInlineBusy, Fld.ispStatusBusy]⟩,
  ⟨0xC0040, 1, 0x1000, 8, 0x8, .bccOnly, [Fld.ispStallCycles]⟩,
  ⟨0xC1000, 2, 0x1000, 16, 0x100, .bccOrPrivCore, [Fld.camCfgEnable, Fld.camCfgPort, Fld.camCfgVc, Fld.camCfgDt, Fld.camCfgEmbEn, Fld.camCfgExpLatency]⟩,
  ⟨0xC1008, 2, 0x1000, 16, 0x100, .bccOrPrivCore, [Fld.camSizeWidthM1, Fld.camSizeHeightM1]⟩,
  ⟨0xC1010, 2, 0x1000, 16, 0x100, .bccOrPrivCore, [Fld.camFillValue]⟩,
  ⟨0xC1018, 2, 0x1000, 16, 0x100, .bccOrPrivCore, [Fld.camTimeoutUs]⟩,
  ⟨0xC1020, 2, 0x1000, 16, 0x100, .bccOrPrivCore, [Fld.camRawBase, Fld.camRawSlotsM1]⟩,
  ⟨0xC1028, 2, 0x1000, 16, 0x100, .bccOrPrivCore, [Fld.camStatusBaseBase]⟩,
  ⟨0xC1038, 2, 0x1000, 16, 0x100, .bccOrPrivCore, [Fld.camOwnerHandle, Fld.camOwnerCloseKey]⟩,
  ⟨0xC1040, 2, 0x1000, 16, 0x100, .bccOrPrivCore, [Fld.camParamShadowPage]⟩,
  ⟨0xC1048, 2, 0x1000, 16, 0x100, .bccOrPrivCore, [Fld.camParamActivePage, Fld.camParamActiveGen]⟩,
  ⟨0xC1050, 2, 0x1000, 16, 0x100, .bccOrPrivCore, [Fld.camCmdArm, Fld.camCmdDisarm]⟩,
  ⟨0xC1058, 2, 0x1000, 16, 0x100, .bccOrPrivCore, [Fld.camStateFrame, Fld.camStateArmed, Fld.camStateOpen, Fld.camStateLastCommit]⟩,
  ⟨0xC1060, 2, 0x1000, 16, 0x100, .bccOrPrivCore, [Fld.camEmbExpOff, Fld.camEmbExpBytesM1, Fld.camEmbGainOff, Fld.camEmbGainBytesM1]⟩,
  ⟨0xC1068, 2, 0x1000, 16, 0x100, .bccOrPrivCore, [Fld.camExpreqBlock]⟩,
  ⟨0xC1070, 2, 0x1000, 16, 0x100, .bccOrPrivCore, [Fld.camExpreqStatusTarget, Fld.camExpreqStatusState, Fld.camExpreqStatusPending]⟩,
  ⟨0xC1078, 2, 0x1000, 16, 0x100, .bccOrPrivCore, [Fld.camCntShort, Fld.camCntLong, Fld.camCntTimeout, Fld.camCntLateLines]⟩,
  ⟨0xC8000, 2, 0x1000, 1, 0x8, .bccOnly, [Fld.pyrStatusPower, Fld.pyrStatusBusy, Fld.pyrStatusOos]⟩,
  ⟨0xC8008, 2, 0x1000, 1, 0x8, .bccOnly, [Fld.pyrPixelsCount]⟩,
  ⟨0xC9010, 1, 0x1000, 1, 0x8, .bccOnly, [Fld.wrpInvalidCount]⟩,
  ⟨0xC9018, 1, 0x1000, 1, 0x8, .bccOnly, [Fld.wrpSplitCount]⟩,
  ⟨0xC8040, 2, 0x1000, 8, 0x8, .bccOnly, [Fld.pyrStallCycles]⟩,
  ⟨0xCA000, 2, 0x1000, 1, 0x8, .bccOnly, [Fld.ofeStatusPower, Fld.ofeStatusBusy, Fld.ofeStatusOos]⟩,
  ⟨0xCA008, 2, 0x1000, 1, 0x8, .bccOnly, [Fld.ofeVectorsCount]⟩]

/-- Part 5 of the register table. -/
def regTable5 : List RegDef := [
  ⟨0xCA010, 2, 0x1000, 5, 0x8, .bccOnly, [Fld.ofeCodeCntCount]⟩,
  ⟨0xCA038, 2, 0x1000, 1, 0x8, .bccOnly, [Fld.ofePredFallbackCount, Fld.ofePredFallbackInvalid]⟩,
  ⟨0xCA040, 2, 0x1000, 8, 0x8, .bccOnly, [Fld.ofeStallCycles]⟩,
  ⟨0xCC000, 1, 0x1000, 1, 0x8, .bccOnly, [Fld.ftrStatusPower, Fld.ftrStatusBusy, Fld.ftrStatusOos]⟩,
  ⟨0xCC008, 1, 0x1000, 1, 0x8, .bccOnly, [Fld.ftrFeaturesCount]⟩,
  ⟨0xCC010, 1, 0x1000, 1, 0x8, .bccOnly, [Fld.ftrComparesCount]⟩,
  ⟨0xCC018, 1, 0x1000, 1, 0x8, .bccOnly, [Fld.ftrTruncCount]⟩,
  ⟨0xCC040, 1, 0x1000, 8, 0x8, .bccOnly, [Fld.ftrStallCycles]⟩,
  ⟨0xCD000, 1, 0x1000, 1, 0x8, .bccOnly, [Fld.hallFlagSelFlag]⟩,
  ⟨0xCD008, 1, 0x1000, 1, 0x8, .bccOnly, [Fld.hallFlagCfgOwner, Fld.hallFlagCfgMode, Fld.hallFlagCfgPeriod]⟩,
  ⟨0xCD010, 1, 0x1000, 1, 0x8, .bccOnly, [Fld.hallFlagThrThr]⟩,
  ⟨0xCD018, 1, 0x1000, 1, 0x8, .bccOnly, [Fld.hallFlagCountCount, Fld.hallFlagCountHeld]⟩,
  ⟨0xCD020, 1, 0x1000, 1, 0x8, .bccOnly, [Fld.hallFlagAdvAdv]⟩,
  ⟨0xCD040, 1, 0x1000, 1, 0x8, .bccOnly, [Fld.hallBufSelRec]⟩,
  ⟨0xCD048, 1, 0x1000, 1, 0x8, .bccOnly, [Fld.hallBufBaseBase, Fld.hallBufBaseCopiesM1]⟩,
  ⟨0xCD050, 1, 0x1000, 1, 0x8, .bccOnly, [Fld.hallBufStrideCopyStride, Fld.hallBufStrideBandBytes]⟩,
  ⟨0xCD058, 1, 0x1000, 1, 0x8, .bccOnly, [Fld.hallBufRingRing, Fld.hallBufRingBandRowsM1, Fld.hallBufRingDepthM1, Fld.hallBufRingBandsM1, Fld.hallBufRingBandsKnown, Fld.hallBufRingConsumersM1, Fld.hallBufRingFillFlag]⟩,
  ⟨0xCD060, 1, 0x1000, 1, 0x8, .bccOnly, [Fld.hallBufOwnerHandle]⟩,
  ⟨0xCD068, 1, 0x1000, 1, 0x8, .bccOnly, [Fld.hallBufCountsFill, Fld.hallBufCountsCredit]⟩,
  ⟨0xCD070, 1, 0x1000, 1, 0x8, .bccOnly, [Fld.hallBufCopyCopy]⟩,
  ⟨0xE0000, 6, 0x1000, 1, 0x8, .bccOnly, [Fld.rdStatusPower, Fld.rdStatusBusy, Fld.rdStatusOos]⟩,
  ⟨0xE0008, 6, 0x1000, 1, 0x8, .bccOnly, [Fld.rdWorkCount]⟩,
  ⟨0xE0010, 6, 0x1000, 1, 0x8, .bccOnly, [Fld.rdSatCount]⟩,
  ⟨0xE0040, 6, 0x1000, 8, 0x8, .bccOnly, [Fld.rdStallCycles]⟩,
  ⟨0xE1100, 1, 0x1000, 12, 0x20, .bccOnly, [Fld.dfeCfgRxEn, Fld.dfeCfgTxEn, Fld.dfeCfgScs, Fld.dfeCfgNfftLog2, Fld.dfeCfgPrbM1, Fld.dfeCfgFirstStream, Fld.dfeCfgStreamsM1, Fld.dfeCfgSfnOffset]⟩]

/-- Part 6 of the register table. -/
def regTable6 : List RegDef := [
  ⟨0xE1108, 1, 0x1000, 12, 0x20, .bccOnly, [Fld.dfeNcoNco, Fld.dfeNcoF0]⟩,
  ⟨0xE1110, 1, 0x1000, 12, 0x20, .bccOnly, [Fld.dfeLatRxRf, Fld.dfeLatTxRf]⟩,
  ⟨0xE1118, 1, 0x1000, 12, 0x20, .bccOnly, [Fld.dfeCntRxZero, Fld.dfeCntTxZero]⟩,
  ⟨0xE8000, 8, 0x1000, 1, 0x8, .bccOnly, [Fld.jesdCtlEnable, Fld.jesdCtlDir, Fld.jesdCtlFirstLane, Fld.jesdCtlLanesM1, Fld.jesdCtlTwoStreams, Fld.jesdCtlN12, Fld.jesdCtlHalfRate, Fld.jesdCtlEM1, Fld.jesdCtlRbd, Fld.jesdCtlFirstStream]⟩,
  ⟨0xE8008, 8, 0x1000, 1, 0x8, .bccOnly, [Fld.jesdStatusState, Fld.jesdStatusLat]⟩,
  ⟨0xE8010, 8, 0x1000, 1, 0x8, .bccOnly, [Fld.jesdErrCrc, Fld.jesdErrResync]⟩,
  ⟨0xE8020, 1, 0x1000, 1, 0x8, .bccOnly, [Fld.jesdSysrefOutEn, Fld.jesdSysrefDiv]⟩,
  ⟨0xE5100, 1, 0x1000, 16, 0x40, .bccOnly, [Fld.fheAddrMac, Fld.fheAddrVid, Fld.fheAddrPcp, Fld.fheAddrValid]⟩,
  ⟨0xE5108, 1, 0x1000, 16, 0x40, .bccOnly, [Fld.fhePortPort]⟩,
  ⟨0xE5110, 1, 0x1000, 16, 0x40, .bccOnly, [Fld.fheWinTxCpOpen, Fld.fheWinTxCpClose]⟩,
  ⟨0xE5118, 1, 0x1000, 16, 0x40, .bccOnly, [Fld.fheWinTxUpOpen, Fld.fheWinTxUpClose]⟩,
  ⟨0xE5120, 1, 0x1000, 16, 0x40, .bccOnly, [Fld.fheWinRxCpOpen, Fld.fheWinRxCpClose]⟩,
  ⟨0xE5128, 1, 0x1000, 16, 0x40, .bccOnly, [Fld.fheWinRxUpOpen, Fld.fheWinRxUpClose]⟩,
  ⟨0xE5130, 1, 0x1000, 16, 0x40, .bccOnly, [Fld.fheCntARxEarly, Fld.fheCntARxLate]⟩,
  ⟨0xE5138, 1, 0x1000, 16, 0x40, .bccOnly, [Fld.fheCntBTxMissed, Fld.fheCntBRxDup]⟩,
  ⟨0x100000, 8, 0x1000, 1, 0x8, .bccOnly, [Fld.ethCtlEnable, Fld.ethCtlMaxFrame]⟩,
  ⟨0x100008, 8, 0x1000, 1, 0x8, .bccOnly, [Fld.ethStatusLink, Fld.ethStatusFecLock]⟩,
  ⟨0x100010, 8, 0x1000, 1, 0x8, .bccOnly, [Fld.ethCtxHandle]⟩,
  ⟨0x100018, 8, 0x1000, 1, 0x8, .bccOnly, [Fld.ethRxbufBase, Fld.ethRxbufCountM1]⟩,
  ⟨0x100020, 8, 0x1000, 1, 0x8, .bccOnly, [Fld.ethRxbufRetIndex]⟩,
  ⟨0x100028, 8, 0x1000, 8, 0x8, .bccOnly, [Fld.ethRxqQueue]⟩,
  ⟨0x100068, 8, 0x1000, 1, 0x8, .bccOnly, [Fld.ethTxqQueue]⟩,
  ⟨0x100070, 8, 0x1000, 1, 0x8, .bccOnly, [Fld.ethTxdoneSeq]⟩,
  ⟨0x100078, 8, 0x1000, 1, 0x8, .bccOnly, [Fld.ethMacMac]⟩,
  ⟨0x100080, 8, 0x1000, 1, 0x8, .bccOnly, [Fld.ethIp4Addr]⟩]

/-- Part 7 of the register table. -/
def regTable7 : List RegDef := [
  ⟨0x100088, 8, 0x1000, 2, 0x8, .bccOnly, [Fld.ethIp6Addr]⟩,
  ⟨0x100098, 8, 0x1000, 1, 0x8, .bccOnly, [Fld.ethCntRxDrop, Fld.ethCntPauseRx]⟩,
  ⟨0xA6A00, 1, 0x1000, 1, 0x8, .bccOnly, [Fld.fabRcCut, Fld.fabRcWindowUs, Fld.fabRcAddMbps, Fld.fabRcCnpUs, Fld.fabRcRminMbps, Fld.fabRcStepMax]⟩,
  ⟨0xA6A08, 1, 0x1000, 16, 0x18, .bccOnly, [Fld.fabJobCfgHandle, Fld.fabJobCfgRank, Fld.fabJobCfgMembersM1]⟩,
  ⟨0xA6A10, 1, 0x1000, 16, 0x18, .bccOnly, [Fld.fabJobCmdCmd, Fld.fabJobCmdStep]⟩,
  ⟨0xA6A18, 1, 0x1000, 16, 0x18, .bccOnly, [Fld.fabJobStatusCommitted, Fld.fabJobStatusEpoch, Fld.fabJobStatusAborted]⟩,
  ⟨0xA6C00, 1, 0x1000, 1, 0x8, .bccOnly, [Fld.fabMembersValid, Fld.fabMembersBase]⟩,
  ⟨0x110000, 1, 0x1000, 1, 0x8, .bccOnly, [Fld.pcieStatusRole, Fld.pcieStatusSpeed, Fld.pcieStatusWidth]⟩,
  ⟨0x110008, 1, 0x1000, 1, 0x8, .bccOnly, [Fld.pcieCtxHandle]⟩,
  ⟨0x110010, 1, 0x1000, 1, 0x8, .bccOnly, [Fld.pcieMsiAddr]⟩,
  ⟨0x110018, 1, 0x1000, 1, 0x8, .bccOnly, [Fld.pcieBar2Base, Fld.pcieBar2SizeLog2]⟩,
  ⟨0x110040, 1, 0x1000, 16, 0x8, .bccOnly, [Fld.pcieMsixQueue]⟩,
  ⟨0x120000, 1, 0x1000, 1, 0x8, .bccOnly, [Fld.safeCtlRelease]⟩,
  ⟨0x120008, 1, 0x1000, 1, 0x8, .bccOnly, [Fld.safeStatusSafeMask, Fld.safeStatusPin]⟩,
  ⟨0x120010, 1, 0x1000, 1, 0x8, .bccOnly, [Fld.safeBwSelWindow]⟩,
  ⟨0x120018, 1, 0x1000, 1, 0x8, .bccOnly, [Fld.safeBwCfgEnable, Fld.safeBwCfgMode, Fld.safeBwCfgPipe, Fld.safeBwCfgTmpl, Fld.safeBwCfgTask]⟩,
  ⟨0x120020, 1, 0x1000, 1, 0x8, .bccOnly, [Fld.safeBwShadowOpen, Fld.safeBwShadowClose]⟩,
  ⟨0x120028, 1, 0x1000, 1, 0x8, .bccOnly, [Fld.safeBwActiveTimes]⟩,
  ⟨0x120030, 1, 0x1000, 1, 0x8, .bccOnly, [Fld.safeBwCmdArm, Fld.safeBwCmdDisarm]⟩,
  ⟨0x120038, 1, 0x1000, 1, 0x8, .bccOnly, [Fld.safeBwStatusArmed, Fld.safeBwStatusLastCommit, Fld.safeBwStatusResult, Fld.safeBwStatusInstance]⟩,
  ⟨0x120040, 1, 0x1000, 1, 0x8, .bccOnly, [Fld.safeCairnSelCairn]⟩,
  ⟨0x120048, 1, 0x1000, 1, 0x8, .bccOnly, [Fld.safeCairnCfgEnable, Fld.safeCairnCfgTmpl, Fld.safeCairnCfgPipeMask]⟩,
  ⟨0x120050, 1, 0x1000, 1, 0x8, .bccOnly, [Fld.safeCairnTimePeriodMs, Fld.safeCairnTimeWindowMs]⟩,
  ⟨0x120058, 1, 0x1000, 1, 0x8, .bccOnly, [Fld.safeCairnStatusLast, Fld.safeCairnStatusSkipped, Fld.safeCairnStatusRuns]⟩,
  ⟨0x120060, 1, 0x1000, 1, 0x8, .bccOnly, [Fld.safeSealSelRec]⟩]

/-- Part 8 of the register table. -/
def regTable8 : List RegDef := [
  ⟨0x120068, 1, 0x1000, 1, 0x8, .bccOnly, [Fld.safeSealEnable, Fld.safeSealBase]⟩,
  ⟨0x120100, 1, 0x1000, 32, 0x40, .bccOnly, [Fld.safePipeCfgEnable, Fld.safePipeCfgTmpl, Fld.safePipeCfgHandle, Fld.safePipeCfgSafePin]⟩,
  ⟨0x120108, 1, 0x1000, 32, 0x40, .bccOnly, [Fld.safePipeGateOutQueue, Fld.safePipeGateFttiMs]⟩,
  ⟨0x120110, 1, 0x1000, 32, 0x40, .bccOnly, [Fld.safePipeChkSampleLog2, Fld.safePipeChkDisWindow]⟩,
  ⟨0x120118, 1, 0x1000, 32, 0x40, .bccOnly, [Fld.safePipeStatusState, Fld.safePipeStatusLastFault]⟩,
  ⟨0x120120, 1, 0x1000, 32, 0x40, .bccOnly, [Fld.safePipeCntWithheld, Fld.safePipeCntFaults]⟩,
  ⟨0x120128, 1, 0x1000, 32, 0x40, .bccOnly, [Fld.safePipeCmdClear, Fld.safePipeCmdEnter]⟩,
  ⟨0x120130, 1, 0x1000, 32, 0x40, .bccOnly, [Fld.safePipeSampledBlocks]⟩,
  ⟨0xB0000, 5, 0x1000, 1, 0x8, .bccOnly, [Fld.chkStatusPower, Fld.chkStatusBusy, Fld.chkStatusOos, Fld.chkStatusTest]⟩,
  ⟨0xB0008, 5, 0x1000, 1, 0x8, .bccOnly, [Fld.chkBlocksCount]⟩,
  ⟨0xB0010, 5, 0x1000, 1, 0x8, .bccOnly, [Fld.chkMismatchCount]⟩,
  ⟨0xB0040, 5, 0x1000, 8, 0x8, .bccOnly, [Fld.chkStallCycles]⟩,
  ⟨0x121000, 1, 0x1000, 1, 0x8, .bccOnly, [Fld.rcvStatusState, Fld.rcvStatusRung, Fld.rcvStatusPriv]⟩,
  ⟨0x121008, 1, 0x1000, 1, 0x8, .bccOnly, [Fld.rcvCmdRung, Fld.rcvCmdEngine, Fld.rcvCmdPartition, Fld.rcvCmdHandle]⟩,
  ⟨0x121010, 1, 0x1000, 1, 0x8, .bccOnly, [Fld.rcvEscCount, Fld.rcvEscWindowS]⟩,
  ⟨0x121018, 1, 0x1000, 1, 0x8, .bccOnly, [Fld.rcvPrivLimit, Fld.rcvPrivWindowH]⟩,
  ⟨0x121020, 1, 0x1000, 1, 0x8, .bccOnly, [Fld.rcvHangUs]⟩,
  ⟨0x121028, 1, 0x1000, 1, 0x8, .bccOnly, [Fld.rcvWdtBccMs, Fld.rcvWdtKick]⟩,
  ⟨0x121030, 1, 0x1000, 1, 0x8, .bccOnly, [Fld.rcvFabRttUs]⟩,
  ⟨0x121038, 1, 0x1000, 1, 0x8, .bccOnly, [Fld.rcvLateCount]⟩,
  ⟨0x121040, 1, 0x1000, 1, 0x8, .bccOnly, [Fld.rcvReportSeq]⟩,
  ⟨0x122000, 1, 0x1000, 1, 0x8, .bccOnly, [Fld.bistCmdUnit, Fld.bistCmdStart, Fld.bistCmdAbort]⟩,
  ⟨0x122008, 1, 0x1000, 1, 0x8, .bccOnly, [Fld.bistStatusBusy, Fld.bistStatusUnit, Fld.bistStatusPhase]⟩,
  ⟨0x122010, 1, 0x1000, 11, 0x8, .bccOnly, [Fld.bistResultPort, Fld.bistResultBody, Fld.bistResultMbistFail, Fld.bistResultAborted, Fld.bistResultMacros, Fld.bistResultWhen]⟩,
  ⟨0x122068, 1, 0x1000, 1, 0x8, .bccOnly, [Fld.bistRotRotMask, Fld.bistRotEnable, Fld.bistRotPeriodH, Fld.bistRotDrainMs, Fld.bistRotBootTest]⟩]

/-- Part 9 of the register table. -/
def regTable9 : List RegDef := [
  ⟨0x122070, 1, 0x1000, 1, 0x8, .bccOnly, [Fld.bistBypassEngines]⟩,
  ⟨0x122078, 1, 0x1000, 1, 0x8, .bccOnly, [Fld.bistMisrPortSig]⟩,
  ⟨0x122080, 1, 0x1000, 1, 0x8, .bccOnly, [Fld.bistMisrBodySig]⟩,
  ⟨0x123000, 1, 0x1000, 1, 0x8, .bccOnly, [Fld.pwrStatusMw1ms, Fld.pwrStatusRails, Fld.pwrStatusThrottling]⟩,
  ⟨0x123008, 1, 0x1000, 1, 0x8, .bccOnly, [Fld.pwrLimitWatts]⟩,
  ⟨0x123010, 1, 0x1000, 1, 0x8, .bccOnly, [Fld.pwrIdleWarmNs, Fld.pwrIdleColdUs]⟩,
  ⟨0x123018, 1, 0x1000, 2, 0x8, .bccOnly, [Fld.pwrKeepKeep]⟩,
  ⟨0x123028, 1, 0x1000, 1, 0x8, .bccOnly, [Fld.pwrDomSelDomain]⟩,
  ⟨0x123030, 1, 0x1000, 1, 0x8, .bccOnly, [Fld.pwrDomOn, Fld.pwrDomState]⟩,
  ⟨0x123038, 1, 0x1000, 1, 0x8, .bccOnly, [Fld.pwrAvsCoreMv, Fld.pwrAvsCpuMv]⟩,
  ⟨0x123040, 1, 0x1000, 1, 0x8, .bccOnly, [Fld.pwrOpdefMv]⟩,
  ⟨0x123048, 1, 0x1000, 1, 0x8, .bccOnly, [Fld.oprecSelRec]⟩,
  ⟨0x123050, 1, 0x1000, 1, 0x8, .bccOnly, [Fld.oprecDataMv, Fld.oprecDataBand, Fld.oprecDataValid, Fld.oprecDataFallback, Fld.oprecDataCalTemp]⟩,
  ⟨0x124000, 1, 0x1000, 1, 0x8, .bccOnly, [Fld.clkStatusLocked]⟩,
  ⟨0x124008, 1, 0x1000, 1, 0x8, .bccOnly, [Fld.clkUnlockCntCount]⟩,
  ⟨0x125000, 1, 0x1000, 1, 0x8, .bccOnly, [Fld.monSelKind, Fld.monSelIndex]⟩,
  ⟨0x125008, 1, 0x1000, 1, 0x8, .bccOnly, [Fld.monValueValue, Fld.monValueMax]⟩,
  ⟨0x125010, 1, 0x1000, 1, 0x8, .bccOnly, [Fld.monThermThrottleC, Fld.monThermAlarmC, Fld.monThermResumeC]⟩,
  ⟨0x125018, 1, 0x1000, 1, 0x8, .bccOnly, [Fld.monDroopThrMv]⟩,
  ⟨0x125020, 1, 0x1000, 7, 0x8, .bccOnly, [Fld.monDroopCntCycles]⟩,
  ⟨0x08000, 1, 0x1000, 1, 0x8, .bccOrMachine, [Fld.secStatusIdentityOk, Fld.secStatusRpmbOk, Fld.secStatusNoImage, Fld.secStatusBccSlot, Fld.secStatusAppSlot, Fld.secStatusDebug]⟩,
  ⟨0x08008, 1, 0x1000, 1, 0x8, .bccOrMachine, [Fld.secExtendLayer, Fld.secExtendAddr]⟩,
  ⟨0x08010, 1, 0x1000, 1, 0x8, .bccOrMachine, [Fld.secAttReqAddr]⟩,
  ⟨0x08018, 1, 0x1000, 1, 0x8, .bccOrMachine, [Fld.secAttStatusBusy, Fld.secAttStatusSeq]⟩,
  ⟨0x08020, 1, 0x1000, 1, 0x8, .bccOrMachine, [Fld.secUpdAddr]⟩]

/-- Part 10 of the register table. -/
def regTable10 : List RegDef := [
  ⟨0x08028, 1, 0x1000, 1, 0x8, .bccOrMachine, [Fld.secUpdStatusState]⟩,
  ⟨0x08030, 1, 0x1000, 1, 0x8, .bccOrMachine, [Fld.secRtsAddr]⟩,
  ⟨0x08038, 1, 0x1000, 1, 0x8, .bccOrMachine, [Fld.secRtsChallengeValue]⟩,
  ⟨0x08040, 1, 0x1000, 1, 0x8, .bccOrMachine, [Fld.secSvnCommitBcc, Fld.secSvnCommitApp]⟩,
  ⟨0x108000, 1, 0x1000, 1, 0x8, .bccOnly, [Fld.sdsCfgQuad0Mode, Fld.sdsCfgQuad1Mode]⟩]

/-- Every tabulated register. -/
def regTable : List RegDef :=
  regTable1 ++ regTable2 ++ regTable3 ++ regTable4 ++ regTable5 ++ regTable6 ++ regTable7 ++ regTable8 ++ regTable9 ++ regTable10

/-- Whether a register covers a byte offset, and its two indices there. -/
def RegDef.index (r : RegDef) (off : Nat) : Option (Nat × Nat) :=
  if off < r.base then none
  else
    let d := off - r.base
    let i := d / r.s1
    let rest := d % r.s1
    let j := rest / r.s2
    if i < r.n1 && rest % r.s2 == 0 && j < r.n2 then some (i, j) else none

/-- The register defined at a 64-bit aligned offset of register space. -/
def regAt (off : Nat) : Option RegDef := regTable.find? fun r => (r.index off).isSome

/-- The reset value of TLY_CLASS[c]_BUDGET.us_m1 (R138). -/
def budgetReset (c : Nat) : Nat := if c = 7 then 499 else if c = 6 then 9999 else 99999

/-- The value of a register after reset, from its fields' reset values. -/
def regReset (off : Nat) : Word :=
  if Reg.tlyClassBudget 0 ≤ off ∧ off ≤ Reg.tlyClassBudget 7 then
    BitVec.ofNat 64 (budgetReset ((off - Reg.tlyClassBudget 0) / 8))
  else
    match regAt off with
    | none => 0#64
    | some r => r.fields.foldl (fun w f => setBits w f.lsb f.width f.reset) 0#64

/-- The pages R47 allocates. -/
def pageAllocated (p : Nat) : Bool :=
  p ≤ 0xA6 || (0xA8 ≤ p && p ≤ 0xB4) || (0xC0 ≤ p && p ≤ 0xCD) || (0xD0 ≤ p && p ≤ 0xD7)
    || (0xE0 ≤ p && p ≤ 0xE5) || (0xE8 ≤ p && p ≤ 0xEF) || (0x100 ≤ p && p ≤ 0x108)
    || p == 0x110 || (0x120 ≤ p && p ≤ 0x125) || p == 0x130

end Sys2Proof.Machine
end

