-- ==== Sys2Proof/Machine/State.lean ====
section
/-! DEFINITION. The state of the LB-9400 as plain data, the reasons a step can stop, and the state after reset. -/

namespace Sys2Proof.Machine

open Sys2Proof

/-- Faults of the machine. The spec gives every error an answer (an error response, a status, an event, a task end),
so no command raises one (safe: nothing stops on it). -/
inductive Fault where
  deriving DecidableEq, Repr

/-- Why a command has no next state. -/
inductive Refusal where
  /-- A command that has no meaning in this model. Raised by an arm of Dispatch.lean only; safe. -/
  | notModelled (mnemonic : String)
  /-- A command that stands for an event of the hardware or of the wires whose cause is absent in the state (a task
  end on an engine that runs no task, a deadline not yet reached): the hardware never takes it there. Raised by the
  event commands; safe (log entry 3). -/
  | notEnabled
  deriving DecidableEq, Repr

/-! ## Time (06_time_order.md, R140–R147) -/

/-- The SiteTime unit beside its registers. Times are numbers of 2^−32 s units below 2^64 (R140). -/
structure Clock where
  /-- SiteTime (TIME_NOW). -/
  now : Nat
  /-- Fraction of a unit left by the frequency slew, in units of 2^−40 (R145, R163); the model's own. -/
  sub : Nat
  /-- The always-on mirror (R146), at 40 ns resolution. -/
  mirror : Nat
  /-- Servo offset estimate in units (R165, event 0x0201). -/
  servoOffset : Int
  /-- Since when the servo has been acquiring (R144). -/
  acquiredAt : Nat
  /-- Stamp of the last PPS_OUT rise (R143). -/
  ppsRose : Option Nat
  /-- Stamp of the last PPS_IN edge seen (TIME_STATUS.pps_present, R163). -/
  ppsSeen : Option Nat
  deriving DecidableEq, Repr

/-! ## Memory (02_memory_map.md, R26–R47) -/

/-- What the signed configuration record gives for one DDR channel (R31, R35). -/
structure DdrConf where
  /-- Device width: 4 or 8. -/
  width : Nat
  /-- Density in Gb: 8 or 16. -/
  density : Nat
  /-- Ranks: 1 or 2. -/
  ranks : Nat
  deriving DecidableEq, Repr

/-- A system cache line (R38): 64 data bytes, and whether it is dirty. -/
structure CacheLine where
  data : List Byte
  dirty : Bool
  deriving DecidableEq, Repr

/-- A translation cache entry (R42): tag (handle), virtual page number at its level, level (0: 4 KiB, 1: 2 MiB,
2: 1 GiB), leaf page table entry. -/
structure TlbEntry where
  handle : Nat
  vpn : Nat
  level : Nat
  pte : Nat
  deriving DecidableEq, Repr

/-- A running MMU invalidation (R44). -/
structure Inval where
  handle : Nat
  all : Bool
  base : Nat
  pages : Nat
  deriving DecidableEq, Repr

/-- Memory beside its bytes: ECC words known bad (R33) or weak (one correctable error), cache, DDR configuration,
address ranges turned into holes (failed banks R486, unpowered Hall groups R499), translation caches and the running
invalidation. -/
structure MemSys where
  badWords : List Nat
  weakWords : List Nat
  cache : Tbl CacheLine
  ddr : Tbl DdrConf
  holes : List (Nat × Nat)
  tlb : List (Nat × TlbEntry)
  inval : Option Inval
  /-- Stamps of the last scrub pass of channel c (key c), the last drift retraining of a rank (16 + 2c + rank), the last
  refresh of a rank (32 + 2c + rank) and the last training of a pair (48 + p). -/
  marks : Tbl Nat
  deriving DecidableEq, Repr

/-! ## Tally (03 to 06, 09) -/

/-- State of a context table entry (R116). -/
inductive CtxPhase where
  | free | live | tearing
  deriving DecidableEq, Repr

/-- A context table entry (R76, R81, R116). -/
structure Ctx where
  phase : CtxPhase
  gen : Nat
  physical : Bool
  root : Nat
  ceiling : Nat
  safety : Bool
  quota : Nat
  eventQueue : Nat
  /-- Tasks ended, by status. -/
  ended : Tbl Nat
  /-- Engine cycles, by engine kind. -/
  cycles : Tbl Nat
  bytesRead : Nat
  bytesWritten : Nat
  /-- Stall cycles, by cause. -/
  stalls : Tbl Nat
  /-- Stamp of teardown step 4 while tearing down (R477). -/
  tearStamp : Nat
  /-- Address of the teardown report named in the request (R477). -/
  reportAt : Nat
  deriving DecidableEq, Repr

/-- A registered buffer (R50): owner, extent, and whether deregistration has begun (R53). -/
structure Buffer where
  handle : Nat
  base : Nat
  length : Nat
  dereg : Bool
  deriving DecidableEq, Repr

/-- A queue entry as Tally tracks it; its 64 bytes stand in the ring (R105). -/
structure Entry where
  seq : Nat
  slot : Nat
  ty : Nat
  producer : Nat
  safety : Bool
  flow : Nat
  stamp : Nat
  /-- The task (acceptance number) and slot it is bound to (R107), or the task whose submission it is (R108). -/
  bound : Option (Nat × Nat)
  /-- The safety pipeline instance that withholds it (R444). -/
  gate : Option Nat
  deriving DecidableEq, Repr

/-- The origin key of a held append (R159). -/
structure OriginKey where
  queue : Nat
  seq : Nat
  slot : Nat
  index : Nat
  deriving DecidableEq, Repr

/-- Ring, mode and contents of a queue (R104–R113, R136, R151, R159). -/
structure Queue where
  owner : Nat
  base : Nat
  entries : Nat
  order : Nat
  flowWord : Nat
  ledger : Bool
  pin : Bool
  submitOnly : Bool
  grants : List Nat
  ents : List Entry
  next : Nat
  drops : Nat
  /-- Stamp of the last event 0x4101 of this queue (R109). -/
  lastDrop : Option Nat
  /-- Next event sequence when the queue is an event stream, and records lost since the last 0x0101 (R136). -/
  evSeq : Nat
  evLost : Nat
  /-- Primary and mirror home, and the base of the mirror ring (R151). -/
  home : Nat
  mirror : Nat
  mirrorBase : Nat
  /-- A ledger copy is missing after event 0x4202 (R165). -/
  blocked : Bool
  /-- Input slots (task, slot) waiting for an entry, oldest first (R107). -/
  waiters : List (Nat × Nat)
  /-- Origin keys of the last 4,096 accepted appended entries (R159). -/
  keys : List OriginKey
  /-- Stamp at which an entry last left (R249). -/
  left : Nat
  /-- The far end of a proxy queue (R423): job, rank, queue ID; or the peer of a mirrored queue (R424): job, rank, and 2^20 plus the offset
  of its part of the mirror region. -/
  remote : Option (Nat × Nat × Nat)
  /-- A mirrored queue that has yet to read its region back (R424). -/
  reading : Bool
  deriving DecidableEq, Repr

/-- One ledger record as written (R154): home partition, and its 64 bytes. -/
structure LedgerRec where
  home : Nat
  queue : Nat
  seq : Nat
  ty : Nat
  bytes : List Byte
  deriving DecidableEq, Repr

/-- What a staged task holds back (R155), with its done mark (R156). -/
inductive Effect where
  | append (queue slot index : Nat) (payload : List Byte)
  | token
  | completion
  deriving DecidableEq, Repr

/-- The held-effects list of an ended staged task (R155, R156, R158). -/
structure HeldList where
  queue : Nat
  seq : Nat
  task : Nat
  handle : Nat
  status : Nat
  record : List Byte
  cplAddr : Nat
  notify : Option Nat
  key : Nat
  effects : List (Effect × Bool)
  committed : Bool
  deriving DecidableEq, Repr

/-- Who a task is (R48). -/
inductive Origin where
  | enq (queue seq : Nat)
  | inst (tmpl index number : Nat)
  deriving DecidableEq, Repr

/-- Task life (R51), with the states of R245 and R468 between. -/
inductive Life where
  | waiting | ready | assigned | running | preempted
  /-- A family 0x00 task that Tally has yet to run (R102). -/
  | tally
  /-- A DELAY task on its delay list (R129). -/
  | delayed
  /-- Stopped by a mid-stream fault, its chain not yet settled (R245). -/
  | stopped
  /-- In a held chain (R246). -/
  | held
  deriving DecidableEq, Repr

/-- A task in the matching store (R51, R88, R90, R115–R120). -/
structure Task where
  desc : List Byte
  handle : Nat
  origin : Origin
  /-- The creation number of the task's graph instance. -/
  inst : Option Nat
  life : Life
  missing : List Nat
  failed : Bool
  readyAt : Nat
  /-- The kind of the ready list it is placed in (R123). -/
  kind : Nat
  engine : Nat
  start : Nat
  preempts : Nat
  cycles : Nat
  firstEvent : Nat
  eventSeq : Nat
  oobReads : Nat
  oobWrites : Nat
  /-- Occurrences by (slot, class 2 event code) (R97). -/
  counts : List (Nat × Nat × Nat)
  /-- Tensor descriptors read, by slot, and the parameter block (R88). -/
  tds : Tbl (List Byte)
  params : List Byte
  /-- Entries bound to its slots: slot, queue, seq (R107). -/
  taken : List (Nat × Nat × Nat)
  /-- Whether the operation has formed its result. -/
  done : Bool
  /-- Block steps, bands or output tiles finished (R201), and steps of the save area. -/
  steps : Nat
  /-- Budget used before the current run, and the stamp of the current run (R127). -/
  used : Nat
  runAt : Nat
  /-- Appends made so far: queue, payload (R109), and those not yet accepted. -/
  appended : Nat
  pendingAppends : List (Nat × Nat × List Byte)
  effects : List (Effect × Bool)
  /-- The hold from which it was replayed (R247). -/
  replayed : Option Nat
  /-- Ring copies it uses: (slot, ring key), a ring key being record × 8 + physical copy (R242, R365). -/
  rings : List (Nat × Nat)
  /-- Previous-copy inputs it still waits for: (slot, record, instance number) (R368). -/
  prev : List (Nat × Nat × Nat)
  /-- Whether its descriptors and parameter block have been read and found good (R88, R89). -/
  fetched : Bool
  /-- Bands of ring inputs its streamer has used: (slot, band, bytes) (R242). -/
  ringIn : List (Nat × Nat × List Byte)
  /-- Bands of a ring output formed and not yet filled: (slot, band bytes), in order (R242). -/
  ringOut : List (Nat × List Byte)
  /-- Whether its budget of the current dispatch ran out (R127), or why it stopped (R245). -/
  stop : Nat
  deriving DecidableEq, Repr

/-- A token board entry (R119). -/
structure Board where
  waiters : List (Nat × Nat)
  ok : Nat
  failed : Nat
  deriving DecidableEq, Repr

/-- An entry of a delay list (R128, R129, R133): list, due time, and the DELAY task it ends, or else the instance and
symbol whose cadence key it signals. -/
structure DelayEntry where
  list : Nat
  due : Nat
  task : Option Nat
  inst : Nat
  symbol : Nat
  deriving DecidableEq, Repr

/-- A graph template (R132–R134). -/
structure Graph where
  owner : Nat
  tasks : List (List Byte)
  maxInst : Nat
  cadence : Nat
  camera : Nat
  slotList : Nat
  epoch : Nat
  period : Nat
  /-- Cadence events so far: the next instance number (R133). -/
  number : Nat
  /-- How the templates of past instances ended: instance number, template, completed (R368). -/
  past : List (Nat × Nat × Bool)
  dereg : Bool
  deriving DecidableEq, Repr

/-- A live graph instance (R133): template, instance number, stamp, live tasks, air slot (R403). -/
structure Instance where
  tmpl : Nat
  number : Nat
  stamp : Nat
  live : List Nat
  air : Nat
  deriving DecidableEq, Repr

/-- A hold record (R246): chain, faulting task first; 0 page fault, 1 fence response. -/
structure Hold where
  chain : List Nat
  reason : Nat
  stamp : Nat
  /-- The reset domain whose return it waits for, where it was held for a reset (R468); else any fence's lifting. -/
  dom : Option Nat
  deriving DecidableEq, Repr

/-- One copy of a ring (R242, R365): bands filled and credited, live consumers' released counts. -/
structure Ring where
  fill : Nat
  credit : Nat
  producer : Option Nat
  /-- Whether the producer has ended, and whether it completed (R243, R365). -/
  ended : Bool
  ok : Bool
  /-- Consumers: task and bands it has released. -/
  consumers : List (Nat × Nat)
  /-- Slots waiting for the first band (R365). -/
  waiters : List (Nat × Nat)
  /-- Stamp of the last band filled or released (R249). -/
  moved : Nat
  /-- The stamp at which each band was filled, in order (R385, R401). -/
  stamps : List Nat
  deriving DecidableEq, Repr

/-- Tally's tables (R104–R137, R151–R160, R242–R249). -/
structure Tally where
  contexts : Tbl Ctx
  buffers : List Buffer
  queues : Tbl Queue
  /-- Ports whose last acknowledgement has not been read since it was judged (R112). -/
  unread : List Nat
  tasks : Tbl Task
  nextTask : Nat
  board : Tbl Board
  /-- Ready lists by engine class × 8 + priority class (R123, R124). -/
  ready : Tbl (List Nat)
  delay : List DelayEntry
  graphs : Tbl Graph
  instances : Tbl Instance
  nextInstance : Nat
  holds : Tbl Hold
  rings : Tbl Ring
  ledger : List LedgerRec
  heldLists : List HeldList
  /-- Engine kinds under substitution: kind replaced, kind substituted (R74). -/
  subst : List (Nat × Nat)
  /-- Queue IDs in the head cache (R110). -/
  headCache : List Nat
  /-- Whether Tally accepts work (R521); false until boot completes. -/
  accepting : Bool
  deriving DecidableEq, Repr

/-! ## Engines -/

/-- Power state of an engine (R500). -/
inductive Power where
  | awake | warm | cold | waking
  deriving DecidableEq, Repr

/-- An engine (R72, R125, R126, R223, R459, R500): running and prefetched stalls, pre-empted tasks, and why it is out. -/
structure Engine where
  running : Option Nat
  next : Option Nat
  saved : List Nat
  bypassed : Bool
  failed : Bool
  testing : Bool
  resetting : Bool
  power : Power
  /-- Stamp at which its stalls emptied or its power state was entered (R500). -/
  since : Nat
  /-- Stamp of the last heartbeat and of the last counted stall (R459). -/
  beat : Nat
  /-- A cairn instance for which the prefetched stall is kept free (R452). -/
  reserved : Option Nat
  /-- The task to be stopped at the next tile boundary for the prefetched one (R126). -/
  preempting : Bool
  /-- Lanes with an ABFT mismatch: lane and stamp, of the last 24 h (R218). -/
  lanes : List (Nat × Nat)
  /-- A K block awaiting recomputation: the lane (R217). -/
  recompute : Option Nat
  /-- Clock stopped by its PLL (R503). -/
  stopped : Bool
  /-- The staging banks in effect in a tile (R199). -/
  staging : Nat
  deriving DecidableEq, Repr


/-! ## DMA channels (10_dma.md, R257–R270) -/

/-- A DMA descriptor a channel has taken: address, its 64 bytes as fetched, hop number, first read and completion stamps,
status (R260; 0: none yet), whether its write-back is issued (R265), and what the SIGNAL, HALL and NOTIFY registers gave when
it was checked (R274). -/
structure DmaDesc where
  addr : Nat
  bytes : List Byte
  hop : Nat
  firstRead : Nat
  stamp : Nat
  status : Nat
  issued : Bool
  key : Nat
  flag : Nat
  queue : Nat
  deriving DecidableEq, Repr

/-- A DMA channel beside its registers: descriptor executing, descriptors taken ahead, next crate wanted, crate fetch
outstanding (address and stamp), whether the hand-over point is passed (R270), the hop limit reached, why the chain is
broken (reason, address; R269), a stop in progress, the cause to enter once drained, and the first event of the executing
descriptor with its sequence. -/
structure DmaChan where
  cur : Option DmaDesc
  ahead : List DmaDesc
  want : Option Nat
  fetch : Option (Nat × Nat)
  ended : Bool
  loop : Bool
  broken : Option (Nat × Nat)
  stopping : Bool
  drain : Nat
  event : Nat
  eventSeq : Nat
  deriving DecidableEq, Repr

/-! ## Recovery (18_reset_recovery.md, R459–R478) -/

/-- A fence of one reset domain (R461): its stamp, whether its drain has ended, requests answered with the fence response
and with an error at the declaration. -/
structure Fence where
  stamp : Nat
  drained : Option Nat
  refused : Nat
  errored : Nat
  deriving DecidableEq, Repr

/-- A running reset (R464–R467, R478). -/
structure Reset where
  rung : Nat
  scope : Nat
  engine : Nat
  part : Nat
  handle : Nat
  cause : Nat
  trigger : Nat
  seq : Nat
  cameFrom : Nat
  fencedAt : Nat
  assertedAt : Nat
  interrupted : Nat
  ended : Nat
  held : Nat
  late : Nat
  readied : Nat
  dmaAddr : Nat
  /-- The registers of the scope as they stood, of which the BCC restores the configuration (R469). -/
  saved : Tbl Word
  deriving DecidableEq, Repr

/-- The recovery unit beside its registers. Reset domains are numbered: engine e is e, partition p is 0x100 + p, the die
0x200, context handle h on engine e is 0x1000000 × (e + 1) + h. -/
structure Recovery where
  fences : Tbl Fence
  resets : Tbl Reset
  /-- Trigger stamps of past resets: (domain, rung, stamp) (R466). -/
  history : List (Nat × Nat × Nat)
  /-- Stamps of privileged resets, in the always-on domain and in eMMC (R471). -/
  priv : List Nat
  privEmmc : List Nat
  nextReport : Nat
  /-- SMBus message 0xA0: reason and SiteTime of the request (R474). -/
  reason : Nat
  requestAt : Nat
  /-- A rung 5 request recorded in eMMC (R470, R474). -/
  recorded : Bool
  kickAt : Nat
  bivouac : Bool
  /-- RESET_IN_N held low (R475). -/
  resetInLow : Bool
  /-- A rung 4 reset begun for the loss of a DDR rail (R21, R469). -/
  ddrLost : Bool
  /-- A rung 4 reset has completed and the ledger is not yet replayed (R161). -/
  replayDue : Bool
  /-- The device was in bivouac when power was lost (R473). -/
  wasBivouac : Bool
  deriving DecidableEq, Repr

/-- What the block last answered to the sender of a command: an acceptance or an error, with the data returned. -/
structure Response where
  ok : Bool
  data : List Byte
  deriving DecidableEq, Repr

/-! ## Hall flags and buffers (14_features_graphs.md, R360–R365) -/

/-- A Hall flag (R360), a held crossing and the slots waiting on it (R121). -/
structure HallFlag where
  owner : Nat
  mode : Nat
  count : Nat
  thr : Nat
  period : Nat
  held : Bool
  waiters : List (Nat × Nat)
  /-- A crossing with period 0 has been given since the threshold was written (R362). -/
  spent : Bool
  deriving DecidableEq, Repr

/-- A Hall buffer record (R363, R372). -/
structure HallBuf where
  base : Nat
  copiesM1 : Nat
  stride : Nat
  bandBytes : Nat
  ring : Bool
  rowsM1 : Nat
  depthM1 : Nat
  bandsM1 : Nat
  bandsKnown : Bool
  consumersM1 : Nat
  fillFlag : Nat
  owner : Nat
  /-- Seal sidecar of the record (R438): enabled, base. -/
  sealed : Bool
  sealBase : Nat
  deriving DecidableEq, Repr

/-- The Hall flags and the Hall buffer table. -/
structure Hall where
  flags : Tbl HallFlag
  bufs : Tbl HallBuf
  deriving DecidableEq, Repr

/-! ## Pins (22_package_electrical.md, R541) -/

/-- Output pins; true is high. -/
structure Pins where
  safeN : Bool
  oosN : Bool
  pcycReqN : Bool
  thermN : Bool
  trayAlertN : Bool
  ppsOut : Bool
  /-- Whether the always-on domain drives the discrete outputs; before step 1 of R498 they are high-impedance. -/
  driven : Bool
  /-- Whether EXTEST drives the pins from the boundary register (R530). -/
  extest : Bool
  deriving DecidableEq, Repr

/-! ## Fabric (16_fabric.md, R411–R427) -/

/-- State of a queue pair (R416). -/
inductive QpPhase where
  | reset | ready | error
  deriving DecidableEq, Repr

/-- A packet the fabric engine sent and whose acknowledgement it awaits (R416): packet sequence number, transport opcode, remote key,
address and length (WRITE and READ), payload, the task or the queue and entry it serves, its stamp. -/
structure OutPkt where
  psn : Nat
  op : Nat
  rkey : Nat
  addr : Nat
  len : Nat
  bytes : List Byte
  task : Option Nat
  entry : Option (Nat × Nat)
  stamp : Nat
  deriving DecidableEq, Repr

/-- A queue pair (R416–R419). -/
structure Qp where
  job : Nat
  rank : Nat
  phase : QpPhase
  handle : Nat
  /-- Queue pair number at the peer; line rate of its port in Mbit/s. -/
  peer : Nat
  line : Nat
  sendPsn : Nat
  recvPsn : Nat
  /-- Rate in Mbit/s, recovery step, stamps of the CNPs not yet judged, the first window not yet judged (R419). -/
  rate : Nat
  step : Nat
  cnps : List Nat
  windowAt : Nat
  retries : Nat
  out : List OutPkt
  /-- The message being received: its bytes so far; 1 a SEND, 2 a WRITE, else none; the remote key, address and length of a WRITE. -/
  part : List Byte
  msg : Nat
  rkey : Nat
  addr : Nat
  total : Nat
  /-- Stamp of the last CNP returned (R419). -/
  cnpAt : Option Nat
  deriving DecidableEq, Repr

/-- A transfer received for a task (R421): job, epoch, step, tag, sender, what it says of its tensor, the elements, its stamp. -/
structure Transfer where
  job : Nat
  epoch : Nat
  step : Nat
  tag : Nat
  sender : Nat
  shape : List Byte
  data : List Byte
  stamp : Nat
  deriving DecidableEq, Repr

/-- A fabric job beside its registers (R426, R427): ranks lost, with the reason; by step, whether every family 0x08 task that has ended
completed, and the staged ones that have yet to commit. -/
structure Job where
  lost : List (Nat × Nat)
  steps : Tbl (Bool × List Nat)
  deriving DecidableEq, Repr

/-- An enqueue to a mirrored queue that awaits its peer's ACK (R424): queue, sequence, port, and the task of a submission. -/
structure MirrorWait where
  queue : Nat
  seq : Nat
  port : Option Nat
  task : Option Nat
  deriving DecidableEq, Repr

/-- The fabric engine: queue pairs, transfers held, jobs, tasks that have sent their part (with the stamp of that run), enqueues that await a
peer, transfers discarded (R421). -/
structure Fabric where
  qps : Tbl Qp
  transfers : List Transfer
  jobs : Tbl Job
  sends : List (Nat × Nat)
  waits : List MirrorWait
  discarded : Nat
  deriving DecidableEq, Repr

/-! ## Ethernet ports (16_fabric.md, R411–R415, R425) -/

/-- A port beside its registers: index of the next receive buffer to fill, buffers filled and not returned, stamp of the last LLDPDU sent,
the neighbour (chassis ID, the LLDPDU, its TTL in seconds, its stamp). -/
structure EthPort where
  next : Nat
  used : Nat
  lldpAt : Option Nat
  neigh : Option (List Byte × List Byte × Nat × Nat)
  deriving DecidableEq, Repr

/-! ## Power, clocks, monitors (20_power_clocks.md, R496–R515) -/

/-- An operating-point record (R511, OPREC_DATA). -/
structure OpRec where
  mv : Nat
  band : Nat
  valid : Bool
  fallback : Bool
  calTemp : Nat
  /-- The band a new record must reach for the fallback to end (R512). -/
  needs : Nat
  deriving DecidableEq, Repr

/-- The power manager beside its registers. Rails carry the numbers of R497, clock domains the order of R502, power domains
the index of R499, monitors kind × 256 + index. -/
structure PowerSys where
  /-- Valid rails, and the stamp of each rail's last change. -/
  valid : List Nat
  railAt : Tbl Nat
  /-- 0 unpowered, 1 always-on domain running, 2 BCC out of reset (R498). -/
  phase : Nat
  /-- BCC-switched domains that are on (R499). -/
  domOn : List Nat
  /-- Clock domains whose PLL is out of lock: stamp of the loss, and whether 100 µs have been declared (R503). -/
  unlocked : Tbl (Nat × Bool)
  /-- Clock domains whose PLL is stopped because every engine on them is cold (R500). -/
  stopped : List Nat
  /-- Package power samples of the last 1 ms, newest first, in mW (R506). -/
  samples : List Nat
  /-- Duty cut by the power limit, in sixteenths of clock enables stopped (R506). -/
  duty : Nat
  /-- Partitions throttled for heat (R509) and cut for the current limit (R507). -/
  hot : List Nat
  cut : List Nat
  /-- Partitions whose clocks are stretched, with the stamp (R505), and the stamps of their last events 0xB007. -/
  droop : Tbl Nat
  droopEvent : Tbl Nat
  /-- Monitor readings and largest values, as 32-bit patterns (MON_VALUE). -/
  mon : Tbl (Nat × Nat)
  records : Tbl OpRec
  /-- A thermal trip not yet cooled down (R509). -/
  tripped : Bool
  deriving DecidableEq, Repr

/-! ## Storage, security, update, debug (21_boot_security.md, R516–R535) -/

/-- A signed image: its 256-byte header and its body (R519). -/
structure Image where
  header : List Byte
  body : List Byte
  deriving DecidableEq, Repr

/-- The owner record (R520). -/
structure Owner where
  id : Nat
  imageKey : List Byte
  debugKey : List Byte
  ownerSig : List Byte
  vendorSig : List Byte
  deriving DecidableEq, Repr

/-- What the configuration record set says (R35, R104, R428, R474). -/
structure Conf where
  ddr : Tbl DdrConf
  eventEntries : Option Nat
  pcieRole : Nat
  smbus : Nat
  deriving DecidableEq, Repr

/-- Flash and eMMC (R516–R518, R523, R524): directory copies with good CRC, owner record, configuration record set, whether
the helper data rebuild the seed, image slots, active slots, RPMB key, authentication, counters by image type. -/
structure Storage where
  dirGood : List Nat
  owner : Option Owner
  confImage : Option Image
  conf : Conf
  helperOk : Bool
  bccSlots : Tbl Image
  appSlots : Tbl Image
  bccActive : Nat
  appActive : Nat
  rpmbKeyed : Bool
  rpmbGood : Bool
  rpmbWorn : Bool
  counters : Tbl Nat
  /-- Operating-point records kept in eMMC (R511). -/
  records : Tbl OpRec
  deriving DecidableEq, Repr

/-- A firmware update in progress (R531): image address and contents as verified, target slot, type, stamp of the phase. -/
structure Update where
  addr : Nat
  image : Option Image
  slot : Nat
  type : Nat
  since : Nat
  deriving DecidableEq, Repr

/-- The security block beside its registers (R525–R533). -/
structure Security where
  /-- Whether the device seed is held, and L0 to L7 (R526). -/
  seeded : Bool
  layers : List (List Byte)
  /-- L2 at the derivation of the alias key (R527). -/
  aliasL2 : List Byte
  /-- Running images (R528). -/
  bccImage : Option Image
  appImage : Option Image
  /-- Whether boot has ended since the BCC left reset (R521). -/
  booted : Bool
  /-- Pending attestation: nonce address, nonce, request stamp (R528). -/
  att : Option (Nat × List Byte × Nat)
  attSeq : Nat
  update : Option Update
  /-- Outstanding debug challenge, failures since power-on, highest level unlocked since power-on (R530). -/
  challenge : Option (List Byte)
  failures : Nat
  peakDebug : Nat
  deriving DecidableEq, Repr

/-! ## Self-test (19_selftest.md, R481–R495) -/

/-- The test in progress beside its registers (R488–R491). -/
structure Bist where
  /-- Unit, start stamp, whether it was aborted, LBIST results (port, body) so far. -/
  unit : Option Nat
  since : Nat
  aborted : Bool
  port : Nat
  body : Nat
  /-- Units whose last test ended in conditions not met: unit, stamp, repeats so far (R490). -/
  retry : List (Nat × Nat × Nat)
  /-- Stamps of the last rotation test of a unit (R490). -/
  rotated : Tbl Nat
  /-- Failed macros (the numbers of log entry 15) and parts held in reset: units whose body or port segment failed (R487). -/
  macros : List Nat
  badBody : List Nat
  badPort : List Nat
  /-- Engines whose bypass was cleared and that await their MBIST (R492). -/
  bypassing : List Nat
  deriving DecidableEq, Repr

/-! ## Functional safety (17_safety.md, R434–R458) -/

/-- A sampled block that awaits its checker (R440, R441): task, block index, producing engine, checker, the producer's CRC. -/
structure Block where
  task : Nat
  index : Nat
  engine : Nat
  checker : Nat
  crc : Nat
  deriving DecidableEq, Repr

/-- An instance of a pipeline (R434, R442, R445): frame number, creation number of its graph instance, capture stamp, kind of its
first fault, sampled blocks not yet compared, and the verdict and reason once decided. -/
structure PipeInst where
  num : Nat
  id : Nat
  stamp : Nat
  fault : Option Nat
  blocks : List Block
  verdict : Option (Nat × Nat)
  deriving DecidableEq, Repr

/-- A safety pipeline beside its registers: instances in order of creation, frame numbers of faulty instances since the last clear
(R446), bound cairns that have yet to pass before the pipeline is verified (R453) and, in safe state, before a clear (R447). -/
structure Pipe where
  insts : List PipeInst
  faulty : List Nat
  due : List Nat
  safeDue : List Nat
  deriving DecidableEq, Repr

/-- The judgement of a belay window on one instance (R449, R451): creation number and number of the instance, open and close times
committed at its creation, and the end stamp of the watched task once it has ended. -/
structure BelayDue where
  id : Nat
  num : Nat
  opens : Int
  closes : Int
  ended : Option Nat
  deriving DecidableEq, Repr

/-- A belay window (R449–R451): SAFE_BW_CFG, SAFE_BW_SHADOW, SAFE_BW_ACTIVE, the fields of SAFE_BW_STATUS, whether the arm came in
or after the boundary cycle, the cycle of the last creation of the watched graph's instance, judgements pending. -/
structure Belay where
  cfg : Word
  shadow : Word
  active : Word
  armed : Bool
  late : Bool
  last : Nat
  result : Nat
  inst : Nat
  created : Option Nat
  due : List BelayDue
  deriving DecidableEq, Repr

/-- A running cairn instance (R452, R453): creation number, due stamp, tasks that have ended otherwise than completed, the latest
end stamp, and what its CAIRN_CHECK tasks found: pass, bad elements, first bad index. -/
structure CairnRun where
  id : Nat
  due : Nat
  aborted : Bool
  lastEnd : Nat
  checks : List (Bool × Nat × Nat)
  deriving DecidableEq, Repr

/-- A cairn record (R452, R453): SAFE_CAIRN_CFG, SAFE_CAIRN_TIME, the fields of SAFE_CAIRN_STATUS, enable stamp, due times passed, the
running instance. -/
structure Cairn where
  cfg : Word
  time : Word
  last : Nat
  skipped : Bool
  runs : Nat
  since : Nat
  n : Nat
  run : Option CairnRun
  deriving DecidableEq, Repr

/-- The SAFE block beside its registers. -/
structure SafeUnit where
  pipes : Tbl Pipe
  belays : Tbl Belay
  cairns : Tbl Cairn
  deriving DecidableEq, Repr

/-! ## Cameras (11_camera_isp.md, R276–R305) -/

/-- A frame of a camera context (R281–R286, R293, R295): number, frame start stamp, watchdog deadline, CSI-2 frame number, page and
its gen, whether it is dropped, in-line, missed its in-line task; raw slot; lines received and kept, extra, late, replaced, padded or
cut; payload of the open line group and CRCs of the full ones; the lines of an in-line frame; valid pixels per kept line; stamp of the
last line; codes read back; confirmed; open; lines filled; close stamp; request in force and its codes; lg_crc. -/
structure CamFrame where
  num : Nat
  capture : Nat
  deadline : Nat
  csiFn : Nat
  page : Nat
  gen : Nat
  dropped : Bool
  direct : Bool
  miss : Bool
  slot : Nat
  rx : Nat
  extra : Nat
  late : Nat
  crc : Nat
  len : Nat
  group : List Byte
  crcs : List Nat
  lines : List (List Nat)
  valid : List Nat
  lastLine : Nat
  emb : Option (Nat × Nat)
  confirmed : Bool
  isOpen : Bool
  filled : Nat
  closed : Nat
  expReq : Nat
  expCode : Nat
  gainCode : Nat
  lgCrc : Nat
  deriving DecidableEq, Repr

/-- An exposure request (R300, R301): ID, codes, entries, state as in CAM_EXPREQ_STATUS, target frame, the frame whose close started
its writes. -/
structure ExpReq where
  id : Nat
  exp : Nat
  gain : Nat
  entries : List (List Byte)
  state : Nat
  target : Nat
  since : Nat
  deriving DecidableEq, Repr

/-- A camera context beside its registers: its last frames, newest last, the stamp of its last frame start and of the last arm,
whether that arm came in a boundary cycle (R293), its exposure requests in order. -/
structure Cam where
  frames : List CamFrame
  lastStart : Option Nat
  armAt : Nat
  late : Bool
  reqs : List ExpReq
  deriving DecidableEq, Repr

/-- A list of transfers on a sensor bus (R299–R301): the camera context of an exposure request, its ID (0 for a software list), the
physical address of a software list, entries, index of the entry in progress, stamp at which that entry began. -/
structure BusJob where
  cam : Option Nat
  req : Nat
  addr : Nat
  entries : List (List Byte)
  idx : Nat
  since : Nat
  deriving DecidableEq, Repr

/-- A CSI port beside its registers: stamp of the last valid packet header, bus jobs, the one in progress first. -/
structure CsiPort where
  lastPacket : Nat
  jobs : List BusJob
  deriving DecidableEq, Repr

/-- The camera path: contexts, ports, a held write to ISP_CTL (R303). -/
structure Cameras where
  cams : Tbl Cam
  ports : Tbl CsiPort
  ctl : Option Word
  deriving DecidableEq, Repr

/-! ## Radio (15_radio.md, R374–R410) -/

/-- What became of a symbol of a running radio task: the task, the symbol's index in it, the stamp at which this was settled; for a
received one the CI16 encodings of its samples, stream by stream. -/
structure SymRec where
  task : Nat
  index : Nat
  stamp : Nat
  data : List (List Nat)
  deriving DecidableEq, Repr

/-- A symbol that a DFE transmit channel has launched (R385): the index of its first sample at the carrier's rate since second 0, its
samples after phase compensation and gain, stream by stream, the channel filter and the crest threshold (0: none). -/
structure TxSym where
  start : Nat
  data : List (List (Int × Int))
  taps : List Int
  thr : Nat
  deriving DecidableEq, Repr

/-- Samples of a carrier at 491.52 MHz that await the sum over the carriers of their streams (R385): index of the first sample since
second 0, samples stream by stream, crest threshold. -/
structure TxSeg where
  start : Nat
  data : List (List (Int × Int))
  thr : Nat
  deriving DecidableEq, Repr

/-- PRBs that FHE has received for a symbol of an FH_RX task (R401): task, symbol index, PRB, mantissas by subcarrier, exponent. -/
structure RxPrb where
  task : Nat
  index : Nat
  prb : Nat
  vals : List Nat
  exp : Int
  deriving DecidableEq, Repr

/-- The radio beside its registers: by carrier the stamps of the last symbol taken at the DFE input and launched; received symbols; symbols
of transmit tasks that have been launched; by carrier the launched symbols that still reach a filter, and the samples that await the sum;
by stream the index up to which samples have left; whether event 0x4C05 has been raised since the time state last changed (R379); by eAxC the
next eCPRI sequence number sent and the last 128 received (R399); fronthaul PRBs received, symbols of FH_TX tasks sent or missed, symbols of
FH_RX tasks whose window has closed; stamp of the last SYSREF edge. -/
structure Radio where
  rxAt : Tbl Nat
  txAt : Tbl Nat
  rx : List SymRec
  launched : List SymRec
  tx : Tbl (List TxSym)
  segs : Tbl (List TxSeg)
  left : Tbl Nat
  held : Bool
  fhSeq : Tbl Nat
  fhSeen : Tbl (List Nat)
  fhPrbs : List RxPrb
  fhSent : List SymRec
  fhClosed : List SymRec
  sysref : Nat
  deriving DecidableEq, Repr


/-! ## Reset values of the tables -/

/-- Tally after reset: every table empty (R104: the BCC creates queue 0 at boot). -/
def tally0 : Tally where
  contexts := []
  buffers := []
  queues := []
  unread := []
  tasks := []
  nextTask := 0
  board := []
  ready := []
  delay := []
  graphs := []
  instances := []
  nextInstance := 0
  holds := []
  rings := []
  ledger := []
  heldLists := []
  subst := []
  headCache := []
  accepting := false

/-- An engine after reset: stalls empty, in service, cold (R500). -/
def engine0 : Engine where
  running := none
  next := none
  saved := []
  bypassed := false
  failed := false
  testing := false
  resetting := false
  power := .cold
  since := 0
  beat := 0
  reserved := none
  preempting := false
  lanes := []
  recompute := none
  stopped := false
  staging := 24

/-- A DMA channel after reset (R257). -/
def dma0 : DmaChan where
  cur := none
  ahead := []
  want := none
  fetch := none
  ended := false
  loop := false
  broken := none
  stopping := false
  drain := 0
  event := 0
  eventSeq := 0

/-- The recovery unit after reset. -/
def rcv0 : Recovery where
  fences := []
  resets := []
  history := []
  priv := []
  privEmmc := []
  nextReport := 0
  reason := 0
  requestAt := 0
  recorded := false
  kickAt := 0
  bivouac := false
  resetInLow := false
  ddrLost := false
  replayDue := false
  wasBivouac := false

/-- A Hall flag after reset (R372). -/
def flag0 : HallFlag := ⟨0, 0, 0, 0, 0, false, [], false⟩

/-- A Hall buffer record after reset (R372). -/
def hallBuf0 : HallBuf := ⟨0, 0, 0, 0, false, 0, 0, 0, false, 0, 0, 0, false, 0⟩

/-- A pipeline, a belay window and a cairn record after reset (R456). -/
def pipe0 : Pipe := ⟨[], [], [], []⟩
def belay0 : Belay := ⟨0#64, 0#64, 0#64, false, false, 0, 0, 0, none, []⟩
def cairn0 : Cairn := ⟨0#64, BitVec.ofNat 64 (1000 + 20 * 2 ^ 16), 0, false, 0, 0, 0, none⟩

/-- A camera context and a port after reset. -/
def cam0 : Cam := ⟨[], none, 0, false, []⟩
def csiPort0 : CsiPort := ⟨0, []⟩

/-- The radio after reset. -/
def radio0 : Radio := ⟨[], [], [], [], [], [], [], false, [], [], [], [], [], 0⟩

/-- An Ethernet port after reset. -/
def ethPort0 : EthPort := ⟨0, 0, none, none⟩

/-- The range of a Hall bank group, banks 8g to 8g + 7 (R499). No BCC-switched domain is on after reset (PWR_DOM, R513), so every group's range is
a hole until boot powers it (R498 step 3). -/
def hallGroup (g : Nat) : Nat × Nat := (0x4010000000 + g * 8 * 0xC0000, 8 * 0xC0000)


/-! ## The state -/

/-- The state of the LB-9400: every register, table, buffer, queue and pin the spec gives it, and the queue of commands
that wait. -/
structure State where
  /-- The commands that are waiting, first in first out. -/
  pending : List Instr
  /-- What the last command was answered, where its rule gives an answer (log entry 5). -/
  out : Option Response
  /-- How many values the spec leaves open have been drawn (log entry 4). -/
  free : Nat
  /-- SiteTime beside its registers (R140 to R147). -/
  clock : Clock
  /-- The bytes of physical memory (R26) that do not read as the default. -/
  mem : List Host.Cell
  /-- The registers that do not hold their reset value, by byte offset in register space (R47). -/
  regs : Tbl Word
  /-- The memory system beside its bytes. -/
  sys : MemSys
  /-- Tally's tables. -/
  tally : Tally
  /-- The engines by engine ID; an engine without an entry is as engine0 says. -/
  engines : Tbl Engine
  /-- The DMA channels by number. -/
  dma : Tbl DmaChan
  /-- The recovery unit. -/
  rcv : Recovery
  /-- The Hall flags and Hall buffer records (R360, R363). -/
  hall : Hall
  /-- What the block has sent on its wires: engine ID of the sending block, bytes (R98 IDs of R9), oldest first. -/
  sent : List (Nat × List Byte)
  /-- The output pins (R498, R541). -/
  pins : Pins
  /-- The fabric engine (R416 to R427). -/
  fabric : Fabric
  /-- The power manager, clocks and monitors (R496 to R515). -/
  power : PowerSys
  /-- Flash and eMMC (R516 to R524; log entry 8). -/
  store : Storage
  /-- The security block (R525 to R533). -/
  sec : Security
  /-- The self-test (R481 to R495). -/
  bist : Bist
  /-- The SAFE block (R434 to R456). -/
  safe : SafeUnit
  /-- The camera path (R276 to R305). -/
  cams : Cameras
  /-- The radio beside its registers (R374 to R410). -/
  radio : Radio
  /-- The Ethernet ports beside their registers (R411 to R415, R425). -/
  eth : Tbl EthPort
  deriving DecidableEq, Repr

/-- The state right after reset: the device before power-on with every register at its reset value (R498, R541; the log's
entries 2 to 10 name what the spec leaves open). -/
def State.reset : State where
  pending := []
  out := none
  free := 0
  clock := ⟨0, 0, 0, 0, 0, none, none⟩
  mem := []
  regs := []
  sys := ⟨[], [], [], [], (List.range 8).map hallGroup, [], none, []⟩
  tally := tally0
  engines := []
  dma := []
  rcv := rcv0
  hall := ⟨[], []⟩
  sent := []
  pins := ⟨false, false, true, true, true, false, false, false⟩
  fabric := ⟨[], [], [], [], [], 0⟩
  power := ⟨[], [], 0, [], [], [], [], 0, [], [], [], [], [], [], false⟩
  store := ⟨[], none, none, ⟨[], none, 0, 0x4C⟩, false, [], [], 0, 0, false, true, false, [], []⟩
  sec := ⟨false, List.replicate 8 (List.replicate 64 0#8), List.replicate 64 0#8, none, none, false, none, 0, none, none, 0, 0⟩
  bist := ⟨none, 0, false, 0, 0, [], [], [], [], [], []⟩
  safe := ⟨[], [], []⟩
  cams := ⟨[], [], none⟩
  radio := radio0
  eth := []

end Sys2Proof.Machine
end

