-- ==== Sys2Proof/Machine/Act.lean ====
section
/-! DEFINITION. How a command changes the state: a list of updates, one kind per component of State, interleaved with looks
at the state. No update touches the queue of commands; memory and registers change only through their canonical
writes. -/

namespace Sys2Proof.Machine

open Sys2Proof

/-- What one byte of memory that nothing has written reads as (log entry 2). -/
def memDefault : Byte := 0#8

/-- A memory list with the byte at an address set: addresses stay strictly rising, and no entry holds the default. -/
def memPut : List Host.Cell → Nat → Byte → List Host.Cell
  | [], a, b => if b = memDefault then [] else [(a, b)]
  | (k, c) :: t, a, b =>
    if a < k then (if b = memDefault then (k, c) :: t else (a, b) :: (k, c) :: t)
    else if a = k then (if b = memDefault then t else (a, b) :: t)
    else (k, c) :: memPut t a b

/-- A memory list with consecutive bytes set from an address. -/
def memPutAll : List Host.Cell → Nat → List Byte → List Host.Cell
  | m, _, [] => m
  | m, a, b :: bs => memPutAll (memPut m a b) (a + 1) bs

/-- The byte a memory list gives for an address. -/
def memGet : List Host.Cell → Nat → Byte
  | [], _ => memDefault
  | (k, c) :: t, a => if k = a then c else memGet t a

/-- The canonical form of memory: addresses strictly rising, no entry at the default. -/
def Memory.wf : List Host.Cell → Bool
  | [] => true
  | [(_, c)] => c != memDefault
  | (k, c) :: (k', c') :: t => c != memDefault && k < k' && Memory.wf ((k', c') :: t)

/-- The stored value of a register: the table's entry, or its reset value. -/
def regGet (rs : Tbl Word) (off : Nat) : Word := (tblFind rs off).getD (regReset off)

/-- A register table with one register set; a register at its reset value has no entry. -/
def regPut (rs : Tbl Word) (off : Nat) (v : Word) : Tbl Word :=
  if v = regReset off then tblDel rs off else tblSet rs off v

/-- One update of the state. -/
inductive Upd where
  /-- Bytes stored from an address. -/
  | mem (addr : Nat) (bytes : List Byte)
  /-- Addresses from `lo` below `hi` made to read as the default. -/
  | memClear (lo hi : Nat)
  /-- Registers from `lo` below `hi` given their reset values. -/
  | regClear (lo hi : Nat)
  | reg (off : Nat) (v : Word)
  | out (f : (Option Response) → Option Response)
  | free (f : Nat → Nat)
  | clock (f : Clock → Clock)
  | sys (f : MemSys → MemSys)
  | tally (f : Tally → Tally)
  | engines (f : (Tbl Engine) → Tbl Engine)
  | dma (f : (Tbl DmaChan) → Tbl DmaChan)
  | rcv (f : Recovery → Recovery)
  | hall (f : Hall → Hall)
  | sent (f : (List (Nat × List Byte)) → List (Nat × List Byte))
  | pins (f : Pins → Pins)
  | fabric (f : Fabric → Fabric)
  | power (f : PowerSys → PowerSys)
  | store (f : Storage → Storage)
  | sec (f : Security → Security)
  | bist (f : Bist → Bist)
  | safe (f : SafeUnit → SafeUnit)
  | cams (f : Cameras → Cameras)
  | radio (f : Radio → Radio)
  | eth (f : (Tbl EthPort) → Tbl EthPort)

/-- The effect of one update. -/
def Upd.apply : Upd → State → State
  | .mem a bs, s => { s with mem := memPutAll s.mem a bs }
  | .memClear lo hi, s => { s with mem := s.mem.filter fun c => c.1 < lo || hi ≤ c.1 }
  | .regClear lo hi, s => { s with regs := s.regs.filter fun c => c.1 < lo || hi ≤ c.1 }
  | .reg off v, s => { s with regs := regPut s.regs off v }
  | .out f, s => { s with out := f s.out }
  | .free f, s => { s with free := f s.free }
  | .clock f, s => { s with clock := f s.clock }
  | .sys f, s => { s with sys := f s.sys }
  | .tally f, s => { s with tally := f s.tally }
  | .engines f, s => { s with engines := f s.engines }
  | .dma f, s => { s with dma := f s.dma }
  | .rcv f, s => { s with rcv := f s.rcv }
  | .hall f, s => { s with hall := f s.hall }
  | .sent f, s => { s with sent := f s.sent }
  | .pins f, s => { s with pins := f s.pins }
  | .fabric f, s => { s with fabric := f s.fabric }
  | .power f, s => { s with power := f s.power }
  | .store f, s => { s with store := f s.store }
  | .sec f, s => { s with sec := f s.sec }
  | .bist f, s => { s with bist := f s.bist }
  | .safe f, s => { s with safe := f s.safe }
  | .cams f, s => { s with cams := f s.cams }
  | .radio f, s => { s with radio := f s.radio }
  | .eth f, s => { s with eth := f s.eth }

/-- What a command does: looks at the state and updates it, a finite tree. -/
inductive Act where
  | done
  | get (k : State → Act)
  | upd (u : Upd) (k : Act)

/-- The state an action leaves. -/
def Act.run : Act → State → State
  | .done, s => s
  | .get k, s => (k s).run s
  | .upd u k, s => k.run (u.apply s)

/-- Meanings are written in continuation style over actions. -/
abbrev M (α : Type) := Cont Act α

/-- The state as it stands. -/
def getS : M State := fun k => Act.get k

/-- Make one update. -/
def update (u : Upd) : M Unit := fun k => Act.upd u (k ())

/-- A meaning as an action. -/
def M.act (m : M Unit) : Act := m (fun _ => Act.done)

/-- The state a meaning leaves. -/
def M.run (m : M Unit) (s : State) : State := m.act.run s

/-- A command that always runs. -/
def always (m : M Unit) (s : State) : Host.Outcome State Fault Refusal := .next (m.run s)

/-- A command that stands for an event: it runs where its cause is present (log entry 3). -/
def whenEnabled (c : State → Bool) (m : M Unit) (s : State) : Host.Outcome State Fault Refusal :=
  if c s then .next (m.run s) else .refused .notEnabled

end Sys2Proof.Machine
end

