-- ==== Sys2Proof/Machine/Ops.lean ====
section
/-! DEFINITION. The named operations over registers, memory and event streams: register fields, the physical address map
(R26–R40), the Device MMU (R41–R43), event records (R98, R136). -/

namespace Sys2Proof.Machine

open Sys2Proof

/-! ## Registers as stored -/

/-- The stored value of a register. -/
def State.reg (s : State) (off : Nat) : Word := regGet s.regs off

/-- The stored value of a register field. -/
def State.fld (s : State) (off : Nat) (f : Field) : Nat := getBits (s.reg off) f.lsb f.width

/-- Whether a one-bit field is set. -/
def State.flag (s : State) (off : Nat) (f : Field) : Bool := s.fld off f != 0

/-- Store a whole register. -/
def wrReg (off : Nat) (v : Word) : M Unit := update (.reg off v)

/-- Store one field of a register. -/
def wrFld (off : Nat) (f : Field) (v : Nat) : M Unit := do
  let s ← getS
  wrReg off (setBits (s.reg off) f.lsb f.width v)

/-- Add to a counter field, saturating at all-ones. -/
def bump (off : Nat) (f : Field) (n : Nat) : M Unit := do
  let s ← getS
  wrFld off f (satAdd f.width (s.fld off f) n)

/-- Draw a value the spec leaves open, below a bound (log entry 4). -/
def fresh (bound : Nat) : M Nat := do
  let s ← getS
  update (.free (· + 1))
  return Config.freeNat s.free % max bound 1

/-- Draw bytes the spec leaves open. -/
def freshBytes (n : Nat) : M (List Byte) := do
  let s ← getS
  update (.free (· + n))
  return (List.range n).map fun i => Config.freeByte (s.free + i)

/-- Give the sender of the command its answer (log entry 5). -/
def answer (ok : Bool) (data : List Byte) : M Unit := update (.out fun _ => some ⟨ok, data⟩)

/-! ## Updates of the tables -/

def modTally (f : Tally → Tally) : M Unit := update (.tally f)

/-- The engine with an ID. -/
def State.engine (s : State) (e : Nat) : Engine := tblGet s.engines engine0 e

def modEngine (e : Nat) (f : Engine → Engine) : M Unit :=
  update (.engines fun t => tblSet t e (f (tblGet t engine0 e)))

def State.task (s : State) (t : Nat) : Option Task := tblFind s.tally.tasks t

def modTask (t : Nat) (f : Task → Task) : M Unit :=
  modTally fun x => { x with tasks := match tblFind x.tasks t with
    | some k => tblSet x.tasks t (f k)
    | none => x.tasks }

def State.queue (s : State) (q : Nat) : Option Queue := tblFind s.tally.queues q

def modQueue (q : Nat) (f : Queue → Queue) : M Unit :=
  modTally fun x => { x with queues := match tblFind x.queues q with
    | some k => tblSet x.queues q (f k)
    | none => x.queues }

/-- The context table entry a handle names by its ID (R12). -/
def State.ctxAt (s : State) (h : Nat) : Option Ctx := tblFind s.tally.contexts (h % 4096)

/-- The live context of a full handle, generation included (R12, R56). -/
def State.ctx (s : State) (h : Nat) : Option Ctx :=
  match s.ctxAt h with
  | some c => if c.phase = .live ∧ c.gen = h / 4096 then some c else none
  | none => none

def modCtx (h : Nat) (f : Ctx → Ctx) : M Unit :=
  modTally fun x => { x with contexts := match tblFind x.contexts (h % 4096) with
    | some k => tblSet x.contexts (h % 4096) (f k)
    | none => x.contexts }

/-! ## Engines, kinds and partitions (R9, R11, R15, R70, R123) -/

/-- The ISP's in-line channel (R286), apart from the two stalls of engine 0x28; the model's own number. -/
def inlineChannel : Nat := 0x128

/-- A receive or transmit channel of DFE (R383): 0x200 + carrier, 0x210 + carrier; the model's own numbers. -/
def isChannel (e : Nat) : Bool := (0x200 ≤ e && e < 0x20C) || (0x210 ≤ e && e < 0x21C)

/-- The engine an engine number belongs to. -/
def baseEngine (e : Nat) : Nat := if e = inlineChannel then 0x28 else if isChannel e then 0x31 else e

/-- The channels of an engine that stand beside its two stalls. -/
def channelsOf (e : Nat) : List Nat :=
  if e = 0x28 then [inlineChannel] else if e = 0x31 then List.range' 0x200 12 ++ List.range' 0x210 12 else []

/-- The engine kind of an engine ID (R70); 15 where it runs no tasks. -/
def kindOf (e : Nat) : Nat :=
  if e < 0x20 then 0
  else if e < 0x24 ∨ e = 0x2E then 13
  else if e = 0x28 ∨ e = inlineChannel then 1 else if e = 0x29 then 2 else if e = 0x2A then 3 else if e = 0x2B then 4
  else if e = 0x2C then 5 else if e = 0x2D then 6 else if e = 0x30 then 7 else if e = 0x31 ∨ isChannel e then 8
  else if e = 0x32 then 9 else if e = 0x33 then 10 else if e = 0x34 then 11 else if e = 0x35 then 12
  else if e = 0xB1 then 14 else 15

/-- The engines of a kind, in ascending ID (R70). -/
def enginesOf (k : Nat) : List Nat :=
  if k = 0 then List.range 32
  else if k = 13 then [0x20, 0x21, 0x22, 0x23, 0x2E]
  else if k ≤ 6 then [0x27 + k]
  else if k ≤ 12 then [0x29 + k]
  else if k = 14 then [0xB1] else []

/-- Tally's engine class of a kind (R123). -/
def classOf (k : Nat) : Nat :=
  if k = 0 then 0 else if k = 13 then 1 else if k = 1 then 2 else if k ≤ 3 then 3 else if k ≤ 6 then 4
  else if k ≤ 9 then 5 else if k ≤ 12 then 6 else 7

/-- The partition code of an engine or block ID (R9, R11, R15). -/
def partOf (e : Nat) : Nat :=
  if e < 0x20 then e / 8
  else if e < 0x24 then e - 0x20
  else if (0x28 ≤ e ∧ e ≤ 0x2E) ∨ e = inlineChannel then 4
  else if (0x30 ≤ e ∧ e ≤ 0x35) ∨ isChannel e then 5
  else if 0x40 ≤ e ∧ e < 0x60 then (e - 0x40) / 8
  else if 0x60 ≤ e ∧ e < 0x68 then 4
  else if 0x68 ≤ e ∧ e < 0x70 then 5
  else if 0x88 ≤ e ∧ e ≤ 0x8F then (e - 0x88) / 2
  else if (0xA0 ≤ e ∧ e ≤ 0xA7) ∨ e = 0xB2 then 4
  else if e = 0xB3 then 5
  else 6

/-- All engines that run tasks. -/
def taskEngines : List Nat := (List.range 15).flatMap enginesOf

/-- An engine is present unless it is out of service (R72): bypassed once its running task has ended (R492), failed, under
test, or in a partition in bivouac. -/
def State.present (s : State) (e : Nat) : Bool :=
  let g := s.engine (baseEngine e)
  !((g.bypassed && g.running.isNone) || g.failed || g.testing || (s.rcv.bivouac && partOf e < 6))

/-- The engine ID that stands for a requester in event records (R9). -/
def senderId : Requester → Nat
  | .bcc => 0x81
  | .core n _ => 0x90 + n
  | .host => 0xB0
  | .engine e => e

/-- Whether a requester is served by the system cache (R38). -/
def cached (who : Nat) : Bool :=
  who == 0x81 || (0x90 ≤ who && who ≤ 0x9F) || (0xA8 ≤ who && who ≤ 0xB0) || (0x70 ≤ who && who ≤ 0x7F)

/-- The translation cache that serves a requester (R42); none for requesters the rule does not list. -/
def tlbOf (who : Nat) : Option Nat :=
  if who = 0xB1 then some 7
  else if who = 0xB0 ∨ (0x70 ≤ who ∧ who ≤ 0x7F) then some 6
  else if 0xA0 ≤ who ∧ who ≤ 0xA7 then some 4
  else if who < 0x80 then some (partOf who)
  else none

/-! ## The physical address map (R26–R29, R199) -/

/-- What decodes a physical address. -/
inductive Place where
  | ddr (part off : Nat)
  | tile (n off : Nat)
  | hall (off : Nat)
  | pbuf (p off : Nat)
  | regs (off : Nat)
  | rom (off : Nat)
  | aoSram (off : Nat)
  | pcie
  | hole
  deriving DecidableEq, Repr

/-- Offset of register space. -/
def regSpace : Nat := 0x7F00000000

/-- Base of the always-on SRAM. -/
def aoBase : Nat := 0x7FF0100000

/-- GiB of a channel (R35, MC_STATUS.capacity_gib). -/
def State.chanGib (s : State) (c : Nat) : Nat := s.fld (Reg.mcStatus c) Fld.mcStatusCapacityGib

/-- Whether a C partition's pair is populated (R22, R29). -/
def State.populated (s : State) (p : Nat) : Bool := p < 4 && s.chanGib (2 * p) != 0 && s.chanGib (2 * p + 1) != 0

/-- The C partitions with a populated pair. -/
def State.populatedParts (s : State) : List Nat := (List.range 4).filter fun p => s.populated p

/-- The decoding of a physical address (R26, R29, R199, R486, R499). -/
def State.place (s : State) (a : Nat) : Place :=
  if s.sys.holes.any (fun h => h.1 ≤ a && a < h.1 + h.2) then .hole
  else if a < 0x4000000000 then
    let p := a / 0x1000000000
    let off := a % 0x1000000000
    if s.populated p ∧ off < 2 * s.chanGib (2 * p) * 2 ^ 30 then .ddr p off else .hole
  else if a < 0x4010000000 then
    let n := (a - 0x4000000000) / 0x800000
    let off := a % 0x800000
    if off < 0x400000 ∧ (s.engine n).staging * 0x20000 ≤ off then .tile n off else .hole
  else if a < 0x4013000000 then .hall (a - 0x4010000000)
  else if 0x4020000000 ≤ a ∧ a < 0x4024000000 then .pbuf ((a - 0x4020000000) / 0x1000000) (a % 0x1000000)
  else if regSpace ≤ a ∧ a < regSpace + 0x400000 then .regs (a - regSpace)
  else if 0x7FF0000000 ≤ a ∧ a < 0x7FF0040000 then .rom (a - 0x7FF0000000)
  else if aoBase ≤ a ∧ a < aoBase + 0x10000 then .aoSram (a - aoBase)
  else if 0x8000000000 ≤ a ∧ a < 0x10000000000 then .pcie
  else .hole

/-- The partition a decoded place belongs to (R20, R26). -/
def Place.part : Place → Nat
  | .ddr p _ => p
  | .tile n _ => n / 8
  | .hall _ => 4
  | .pbuf p _ => p
  | _ => 6

/-- The fence of a domain, if raised (R461). -/
def State.fence (s : State) (d : Nat) : Option Fence := tblFind s.rcv.fences d

/-- Whether a partition is behind a fence, its own or the die's (R461), or held in reset in bivouac (R471). -/
def State.fenced (s : State) (p : Nat) : Bool :=
  (s.fence (0x100 + p)).isSome || (s.fence 0x200).isSome || (s.rcv.bivouac && p < 6)

/-- Whether a place is behind a fence: its partition's, or its tile's own. -/
def State.placeFenced (s : State) (pl : Place) : Bool :=
  match pl with
  | .tile n _ => s.fenced (n / 8) || (s.fence n).isSome
  | .ddr p _ => s.fenced p
  | .hall _ => s.fenced 4
  | .pbuf p _ => s.fenced p
  | _ => false

/-- Count a request answered with the fence response in the covering fence. -/
def countRefused (p : Nat) : M Unit :=
  update (.rcv fun r => { r with fences := r.fences.map fun (d, f) =>
    if d = 0x100 + p ∨ d = 0x200 then (d, { f with refused := f.refused + 1 }) else (d, f) })

/-- The channel a DDR offset of a partition reaches (R29). -/
def chanOf (p off : Nat) : Nat := 2 * p + off / 256 % 2

/-- Bytes in an ECC word at an address (R32, R33): 8, or 16 under device correction. -/
def State.eccSize (s : State) (a : Nat) : Nat :=
  match s.place a with
  | .ddr p off => if s.flag (Reg.mcCtl (chanOf p off)) Fld.mcCtlEccMode then 16 else 8
  | _ => 8

/-! ## Bytes as every requester sees them (R38, R39) -/

/-- One byte: a system cache line holds the line's newest data; DRAM or SRAM holds the rest. -/
def State.byteAt (s : State) (a : Nat) : Byte :=
  match tblFind s.sys.cache (a / 64) with
  | some l => l.data.getD (a % 64) 0#8
  | none => match s.place a with
    | .rom off => Config.romByte off
    | _ => memGet s.mem a

/-- Consecutive bytes. -/
def State.bytesAt (s : State) (a n : Nat) : List Byte := (List.range n).map fun i => s.byteAt (a + i)

/-- A little-endian number at an address. -/
def State.numAt (s : State) (a n : Nat) : Nat := leNat (s.bytesAt a n)

/-- Write a cache line back to DRAM. -/
def writeBack (line : Nat) : M Unit := do
  let s ← getS
  match tblFind s.sys.cache line with
  | some l =>
    if l.dirty then update (.mem (line * 64) l.data)
    update (.sys fun m => { m with cache := tblSet m.cache line { l with dirty := false } })
  | none => pure ()

/-- Drop a cache line, writing it back when dirty. -/
def dropLine (line : Nat) : M Unit := do
  writeBack line
  update (.sys fun m => { m with cache := tblDel m.cache line })

/-- How many lines the system cache holds (R37: 32 MiB of 64 bytes). -/
def cacheLines : Nat := 524288

/-- Allocate a line; a full cache writes back and drops its lowest line first (which one is open, R38). -/
def allocLine (line : Nat) (l : CacheLine) : M Unit := do
  let s ← getS
  match s.sys.cache with
  | (k, _) :: _ =>
    if cacheLines ≤ s.sys.cache.length ∧ (tblFind s.sys.cache line).isNone then dropLine k
  | [] => pure ()
  update (.sys fun m => { m with cache := tblSet m.cache line l })

/-- Store bytes within one 64-byte line (R38, R39): a cached requester's DDR write allocates the line dirty, a bypassing
write invalidates the cached copy. -/
def storeLine (who a : Nat) (bs : List Byte) : M Unit := do
  let s ← getS
  match s.place a with
  | .ddr _ _ =>
    if cached who then
      allocLine (a / 64) ⟨putBytes (s.bytesAt (a / 64 * 64) 64) (a % 64) bs, true⟩
    else do
      dropLine (a / 64)
      update (.mem a bs)
  | _ => update (.mem a bs)

/-- What a read leaves in the cache (R38): a cached requester's DDR read allocates the line clean. -/
def touchLine (who a : Nat) : M Unit := do
  let s ← getS
  match s.place a with
  | .ddr _ _ =>
    if cached who ∧ (tblFind s.sys.cache (a / 64)).isNone then
      allocLine (a / 64) ⟨s.bytesAt (a / 64 * 64) 64, false⟩
  | _ => pure ()

/-- The ECC words a range touches: base addresses. -/
def State.eccWords (s : State) (a n : Nat) : List Nat :=
  let z := s.eccSize a
  (List.range ((a + n - 1) / z - a / z + 1)).map fun i => (a / z + i) * z

/-- Whether a range covers an ECC word whole. -/
def State.coversWord (s : State) (a n w : Nat) : Bool := a ≤ w && w + s.eccSize a ≤ a + n

/-! ## Event records (R98, R136) -/

/-- The detail bytes of an event from (width in bytes, value) pairs, padded with zeros to 16 bytes. -/
def det (parts : List (Nat × Nat)) : List Byte := padTo 16 (parts.flatMap fun p => leBytes p.1 p.2)

/-- The 32 bytes of an event record (R98). -/
def eventBytes (stamp seq src part code : Nat) (detail : List Byte) : List Byte :=
  leBytes 8 stamp ++ leBytes 4 seq ++ leBytes 1 src ++ leBytes 1 part ++ leBytes 2 code ++ padTo 16 detail

/-- The first ring slot at or after the entry's natural place that holds no entry. -/
def freeSlot (q : Queue) : Nat :=
  let used := q.ents.map (·.slot)
  let start := q.next % max q.entries 1
  match (List.range q.entries).find? fun i => !used.contains ((start + i) % q.entries) with
  | some i => (start + i) % q.entries
  | none => start

/-- Whether a queue holds as many entries as its ring has places (R109). -/
def Queue.full (q : Queue) : Bool := q.entries ≤ q.ents.length

/-- The 64 bytes of a queue entry (R105). -/
def entryBytes (payload : List Byte) (stamp seq producer ty : Nat) (safety : Bool) : List Byte :=
  padTo 48 payload ++ leBytes 8 stamp ++ leBytes 4 seq
    ++ leBytes 4 (producer % 2 ^ 20 + ty * 2 ^ 20 + flagBit safety * 2 ^ 24)

/-- The event stream's write of one record into its ring: an entry of type 0x3 at a physical ring address. -/
def streamWrite (q pa : Nat) (r : List Byte) : M Unit := do
  let s ← getS
  match s.queue q with
  | none => pure ()
  | some u =>
    storeLine 0x80 pa (entryBytes r s.clock.now u.next u.owner 3 false)
    modQueue q fun u => { u with
      ents := u.ents ++ [⟨u.next, freeSlot u, 3, u.owner, false, leAt r (4 * u.flowWord) 4, s.clock.now, none, none⟩]
      next := (u.next + 1) % 2 ^ 32 }

/-- Whether a line of memory takes a device write: decoded, not fenced. -/
def State.takesWrite (s : State) (a : Nat) : Bool :=
  match s.place a with
  | .hole => false
  | .rom _ => false
  | .regs _ => false
  | pl => !s.placeFenced pl

/-- Offer one record to the device event stream, queue 0 (R136). A record that finds the ring full, or whose ring write
fails, takes its sequence and is counted lost; when space returns event 0x0101 goes first. -/
def offer0 (mk : Nat → List Byte) : M Unit := do
  let s ← getS
  match s.queue 0 with
  | none => pure ()
  | some u0 =>
    if u0.evLost ≠ 0 ∧ !u0.full ∧ s.takesWrite (u0.base + 64 * freeSlot u0) then
      streamWrite 0 (u0.base + 64 * freeSlot u0)
        (eventBytes s.clock.now u0.evSeq 0x80 6 0x0101 (det [(4, u0.evLost)]))
      modQueue 0 fun u => { u with evSeq := (u.evSeq + 1) % 2 ^ 32, evLost := 0 }
    let s ← getS
    match s.queue 0 with
    | none => pure ()
    | some u =>
      modQueue 0 fun u => { u with evSeq := (u.evSeq + 1) % 2 ^ 32 }
      let pa := u.base + 64 * freeSlot u
      if u.full ∨ !s.takesWrite pa then
        modQueue 0 fun u => { u with evLost := u.evLost + 1, drops := u.drops + 1 }
      else streamWrite 0 pa (mk u.evSeq)

/-- Raise an event (R98, R136): source byte, partition code, code, detail. -/
def raise (src part code : Nat) (detail : List Byte) : M Unit := do
  let s ← getS
  offer0 fun seq => eventBytes s.clock.now seq src part code detail

/-! ## Refused register writes (R95, R548) -/

/-- The block that owns a register page, and its partition code (R548). -/
def pageOwner (page : Nat) : Nat × Nat :=
  let id : Nat :=
    if 0x10 ≤ page ∧ page < 0x30 then 0x80
    else if 0x30 ≤ page ∧ page < 0x40 then 0x82
    else if 0x08 ≤ page ∧ page < 0x10 then 0x83
    else if 0x40 ≤ page ∧ page < 0x80 then page
    else if 0x80 ≤ page ∧ page < 0xA0 then page - 0x80
    else if 0xA8 ≤ page ∧ page < 0xB0 then 0x88 + (page - 0xA8)
    else if 0xB0 ≤ page ∧ page < 0xB4 then 0x20 + (page - 0xB0)
    else if page = 0xB4 then 0x2E
    else if 0xC0 ≤ page ∧ page < 0xC8 then 0x28
    else if 0xC8 ≤ page ∧ page ≤ 0xCC then 0x29 + (page - 0xC8)
    else if page = 0xCD then 0xB2
    else if 0xD0 ≤ page ∧ page < 0xD8 then 0xA0 + (page - 0xD0)
    else if 0xE0 ≤ page ∧ page < 0xE6 then 0x30 + (page - 0xE0)
    else if 0xE8 ≤ page ∧ page < 0xF0 then 0xB3
    else if 0x100 ≤ page ∧ page < 0x108 then 0xA8 + (page - 0x100)
    else if page = 0x110 then 0xB0
    else 0x81
  let part : Nat := if 0xA0 ≤ page ∧ page ≤ 0xA6 then page - 0xA0 else partOf id
  (id, part)

/-- A refused write to a register (R95, R548): event 0x3003 with the register's offset, the value's low word and the field's lowest
bit. -/
def refuseReg (off value lsb : Nat) : M Unit := do
  let o := pageOwner (off / 0x1000)
  raise o.1 o.2 0x3003 (det [(4, off), (4, value % 2 ^ 32), (1, lsb)])

/-- A clamped write to an RWK field (R7, R548): event 0x1001 with the value written and the value applied. -/
def clampReg (off value applied lsb width : Nat) : M Unit := do
  let o := pageOwner (off / 0x1000)
  raise o.1 o.2 0x1001 (det [(4, off), (4, value % 2 ^ 32), (4, applied % 2 ^ 32), (1, lsb), (1, width - 1)])

/-! ## Physical accesses (R27, R33, R37, R461) -/

/-- Error responses to a request. -/
inductive MemErr where
  | decode | page | access | nonCanonical | ecc | fence | stale
  deriving DecidableEq, Repr

/-- Record and report an uncorrectable DDR error (R33): MC_ERR_ADDR and event 0x4002. -/
def eccFailed (who w kind : Nat) : M Unit := do
  let s ← getS
  match s.place w with
  | .ddr p off => do
    let c := chanOf p off
    wrReg (Reg.mcErrAddr c) (BitVec.ofNat 64 (w % 2 ^ 40 + 2 ^ 63))
    raise (0x88 + c) p 0x4002 (det [(5, w), (1, c), (1, kind), (1, who)])
  | .tile n _ => modEngine n fun g => { g with failed := true }
  | _ => pure ()

/-- Count a corrected error (R33): at the threshold event 0x4001 is raised and the counter cleared. -/
def eccCorrected (w : Nat) : M Unit := do
  update (.sys fun m => { m with weakWords := m.weakWords.filter (· ≠ w) })
  let s ← getS
  match s.place w with
  | .ddr p off => do
    let c := chanOf p off
    bump (Reg.mcEccCnt c) Fld.mcEccCntCount 1
    let s ← getS
    let thr := s.fld (Reg.mcEccThr c) Fld.mcEccThrThreshold
    if thr ≤ s.fld (Reg.mcEccCnt c) Fld.mcEccCntCount then
      wrFld (Reg.mcEccCnt c) Fld.mcEccCntCount 0
      raise (0x88 + c) p 0x4001 (det [(1, c), (3, 0), (4, thr)])
  | _ => pure ()

/-- A decode-error response (R27): event 0x3002 with the address, the access type and the requester as source. -/
def decodeError (who a : Nat) (isWrite : Bool) : M Unit :=
  raise who (partOf who) 0x3002 (det [(5, a % 2 ^ 40), (1, flagBit isWrite)])

/-- Decode and fence checks of a request to memory, with their events; register space is reached by cores only. -/
def admitAccess (who a : Nat) (isWrite : Bool) : M (Option MemErr) := do
  let s ← getS
  match s.place a with
  | .hole => do decodeError who a isWrite; return some .decode
  | .regs _ => do decodeError who a isWrite; return some .decode
  | .rom _ =>
    if isWrite then do
      decodeError who a isWrite
      return some .decode
    else return none
  | pl =>
    if s.placeFenced pl then do
      countRefused pl.part
      return some .fence
    else return none

/-- Count the bytes of a request at the regulators it passes (R237, R251); cache hits and on-chip memories pass none. -/
def meter (who a n : Nat) (isWrite : Bool) : M Unit := do
  let s ← getS
  match s.place a with
  | .ddr h _ =>
    let p := partOf who
    if cached who ∧ (tblFind s.sys.cache (a / 64)).isSome then pure ()
    else if p = h then
      (if isWrite then bump (Reg.streamWrBytes h) Fld.streamWrBytesBytes n else bump (Reg.streamRdBytes h) Fld.streamRdBytesBytes n)
    else do
      bump (Reg.streamRmBytes h) Fld.streamRmBytesBytes n
      if p < 4 then bump (Reg.streamRmBytes p) Fld.streamRmBytesBytes n
  | _ => pure ()

/-- Read up to one 64-byte line by physical address. -/
def physRead (who a n : Nat) : M (Except MemErr (List Byte)) := do
  match ← admitAccess who a false with
  | some e => return .error e
  | none => do
    let s ← getS
    let ws := s.eccWords a n
    match ws.find? fun w => s.sys.badWords.contains w with
    | some w => do
      eccFailed who w 0
      return .error .ecc
    | none => do
      for w in ws do
        if s.sys.weakWords.contains w then eccCorrected w
      meter who a n false
      touchLine who a
      match s.place a with
      | .pcie => do
        let s ← getS
        update (.free (· + 1))
        return .ok ((List.range n).map fun i => Config.pcieByte s.free (a + i))
      | _ => return .ok (s.bytesAt a n)

/-- Write up to one 64-byte line by physical address. An uncorrectable word covered in part keeps its contents and refuses
the write with event 0x4002; words covered whole are stored with fresh check bits (R33). -/
def physWrite (who a : Nat) (bs : List Byte) : M (Option MemErr) := do
  match ← admitAccess who a true with
  | some e => return some e
  | none => do
    let s ← getS
    let n := bs.length
    let z := s.eccSize a
    let ws := s.eccWords a n
    let part := ws.filter fun w => s.sys.badWords.contains w && !s.coversWord a n w
    update (.sys fun m => { m with
      badWords := m.badWords.filter fun w => !(ws.contains w && s.coversWord a n w)
      weakWords := m.weakWords.filter fun w => !(ws.contains w && s.coversWord a n w) })
    meter who a n true
    if part.isEmpty then do
      storeLine who a bs
      return none
    else do
      for w in ws do
        if !part.contains w then
          let lo := max a w
          let hi := min (a + n) (w + z)
          storeLine who lo ((bs.drop (lo - a)).take (hi - lo))
      for w in part do
        eccFailed who w 2
      return some .ecc

/-! ## The Device MMU (R41–R43) -/

/-- Fields of a Sv48 page table entry. -/
def pteV (e : Nat) : Bool := bitAt e 0
def pteR (e : Nat) : Bool := bitAt e 1
def pteW (e : Nat) : Bool := bitAt e 2
def pteX (e : Nat) : Bool := bitAt e 3
def pteA (e : Nat) : Bool := bitAt e 6
def pteD (e : Nat) : Bool := bitAt e 7
def ptePpn (e : Nat) : Nat := bitsOf e 10 44

/-- Whether an entry is well formed: valid, not write-only, reserved bits 54–63 zero. -/
def pteOk (e : Nat) : Bool := pteV e && !(pteW e && !pteR e) && bitsOf e 54 10 == 0

/-- The virtual page number of an address at a level. -/
def vpnAt (va level : Nat) : Nat := va % 2 ^ 48 / 2 ^ (12 + 9 * level)

/-- The physical address a leaf gives. -/
def leafAddr (pte level va : Nat) : Nat := ptePpn pte * 4096 + va % 2 ^ (12 + 9 * level)

/-- Whether a leaf's low page-number bits are zero at its level. -/
def leafAligned (pte level : Nat) : Bool := ptePpn pte % 2 ^ (9 * level) == 0

/-- Check of a leaf for an access (R41): permission, A and D bits, physical range. -/
def leafCheck (pte level va : Nat) (isWrite : Bool) : Except MemErr Nat :=
  if (if isWrite then !pteW pte else !pteR pte) || !pteA pte || (isWrite && !pteD pte) then .error .page
  else if 2 ^ 40 ≤ leafAddr pte level va then .error .access
  else .ok (leafAddr pte level va)

/-- A walk's result: a leaf with its level, a page fault, or the address whose read failed. -/
inductive Walk where
  | leaf (pte level : Nat)
  | fault
  | readAt (a : Nat)
  deriving DecidableEq, Repr

/-- A page table walk from a level down (R41), seeing memory as the state holds it; 512 GiB leaves are page faults. -/
def State.walk (s : State) (who va : Nat) : Nat → Nat → Walk
  | 0, _ => .fault
  | l + 1, table =>
    let a := table + vpnAt va l % 512 * 8
    let bad := match s.place a with
      | .hole => true
      | .regs _ => true
      | .pcie => true
      | pl => s.placeFenced pl || (s.eccWords a 8).any s.sys.badWords.contains
    if bad then .readAt a
    else
      let e := s.numAt a 8
      if !pteOk e then .fault
      else if pteR e || pteX e then
        (if l = 3 ∨ !leafAligned e l then .fault else .leaf e l)
      else s.walk who va l (ptePpn e * 4096)

/-- The kind byte of event 0x4003 (R43, R100). -/
def MemErr.kind : MemErr → Nat
  | .page => 0
  | .nonCanonical => 2
  | _ => 1

/-- Raise a translation fault (R43). -/
def translationFault (who h va access : Nat) (e : MemErr) : M Unit :=
  raise 0x84 6 0x4003 (det [(6, va % 2 ^ 48), (1, access), (1, e.kind), (3, h % 2 ^ 20), (1, who)])

/-- Count a discarded response or request of an old handle (R477). -/
def countLate : M Unit := bump Reg.rcvLate Fld.rcvLateCount 1

/-- How many entries a translation cache holds (R42). -/
def tlbSmall : Nat := 2048
def tlbLarge : Nat := 64

/-- Enter a leaf in a translation cache; a full cache drops its oldest entry of that size (which one is open). -/
def tlbInsert (t : List (Nat × TlbEntry)) (c : Nat) (e : TlbEntry) : List (Nat × TlbEntry) :=
  let same := fun (x : Nat × TlbEntry) => x.1 == c && ((x.2.level == 0) == (e.level == 0))
  let cap := if e.level = 0 then tlbSmall else tlbLarge
  let t := if cap ≤ (t.filter same).length then
      (match t.find? same with
        | some x => t.erase x
        | none => t)
    else t
  t ++ [(c, e)]

/-- The cached translation that serves a handle and an address. -/
def State.tlbFind (s : State) (c h va : Nat) : Option TlbEntry :=
  (s.sys.tlb.find? fun x => x.1 == c && x.2.handle == h && x.2.vpn == vpnAt va x.2.level).map (·.2)

/-- Whether a physical page belongs to a buffer of a safety-class context, as its own page tables map it now (R80). -/
def State.safetyPage (s : State) (pa : Nat) : Bool :=
  s.tally.buffers.any fun b =>
    match s.ctx b.handle with
    | none => false
    | some c => c.safety &&
      (if c.physical then b.base ≤ pa && pa < b.base + b.length
       else (List.range ((b.length + b.base % 4096 + 4095) / 4096)).any fun i =>
        let va := b.base / 4096 * 4096 + 4096 * i
        match s.walk 0x84 va 4 c.root with
        | .leaf pte l => leafAddr pte l va / 4096 == pa / 4096
            && b.base ≤ va + pa % 4096 && va + pa % 4096 < b.base + b.length
        | _ => false)

/-- Translate one address for a request (R41–R43, R80), raising the translation fault; a handle that is not live is
answered with an error response and counted. -/
def translate (who h va : Nat) (isWrite : Bool) : M (Except MemErr Nat) := do
  let s ← getS
  match s.ctx h with
  | none => do countLate; return .error .stale
  | some c =>
    let fail : Nat → MemErr → M (Except MemErr Nat) := fun acc e => do
      translationFault who h va acc e
      return .error e
    let acc := flagBit isWrite
    let guard80 : Nat → M (Except MemErr Nat) := fun pa => do
      let s ← getS
      if isWrite ∧ !c.safety ∧ s.safetyPage pa then fail acc .access else return .ok pa
    if c.physical then
      (if va < 2 ^ 40 then guard80 va else do decodeError who va isWrite; return .error .decode)
    else if !canonical va then fail acc .nonCanonical
    else
      let cache := tlbOf who
      match cache.bind fun k => s.tlbFind k h va with
      | some e =>
        (match leafCheck e.pte e.level va isWrite with
          | .ok pa => guard80 pa
          | .error x => fail acc x)
      | none =>
        match s.walk who va 4 c.root with
        | .readAt a => do
          let _ ← physRead 0x84 a 8
          fail 2 .access
        | .fault => fail acc .page
        | .leaf pte l =>
          match leafCheck pte l va isWrite with
          | .error x => fail acc x
          | .ok pa => do
            match cache with
            | some k => update (.sys fun m => { m with tlb := tlbInsert m.tlb k ⟨h, vpnAt va l, l, pte⟩ })
            | none => pure ()
            guard80 pa

/-- Split a range into pieces that stay within one 64-byte line: (offset, length). -/
def linePieces : Nat → Nat → Nat → Nat → List (Nat × Nat)
  | 0, _, _, _ => []
  | fuel + 1, a, off, n =>
    if n = 0 then []
    else
      let k := min n (64 - a % 64)
      (off, k) :: linePieces fuel (a + k) (off + k) (n - k)

/-- Read bytes at a context's address, line by line; the first error ends the read. -/
def ctxRead (who h va n : Nat) : M (Except MemErr (List Byte)) := do
  let mut acc : Except MemErr (List Byte) := .ok []
  for (off, k) in linePieces (n / 64 + 2) va 0 n do
    match acc with
    | .error _ => pure ()
    | .ok bs =>
      match ← translate who h (va + off) false with
      | .error e => acc := .error e
      | .ok pa =>
        match ← physRead who pa k with
        | .error e => acc := .error e
        | .ok b => acc := .ok (bs ++ b)
  if acc.isOk then modCtx h fun c => { c with bytesRead := satAdd 48 c.bytesRead n }
  return acc

/-- Write bytes at a context's address, line by line; the first error ends the write. -/
def ctxWrite (who h va : Nat) (bs : List Byte) : M (Option MemErr) := do
  let mut err : Option MemErr := none
  for (off, k) in linePieces (bs.length / 64 + 2) va 0 bs.length do
    if err.isNone then
      match ← translate who h (va + off) true with
      | .error e => err := some e
      | .ok pa => err := ← physWrite who pa ((bs.drop off).take k)
  if err.isNone then modCtx h fun c => { c with bytesWritten := satAdd 48 c.bytesWritten bs.length }
  return err

/-- Read physical memory across lines. -/
def physReadAll (who a n : Nat) : M (Except MemErr (List Byte)) := do
  let mut acc : Except MemErr (List Byte) := .ok []
  for (off, k) in linePieces (n / 64 + 2) a 0 n do
    match acc with
    | .error _ => pure ()
    | .ok bs =>
      match ← physRead who (a + off) k with
      | .error e => acc := .error e
      | .ok b => acc := .ok (bs ++ b)
  return acc

/-- Write physical memory across lines. -/
def physWriteAll (who a : Nat) (bs : List Byte) : M (Option MemErr) := do
  let mut err : Option MemErr := none
  for (off, k) in linePieces (bs.length / 64 + 2) a 0 bs.length do
    if err.isNone then err := ← physWrite who (a + off) ((bs.drop off).take k)
  return err

end Sys2Proof.Machine
end

