-- ==== Sys2Proof/Machine/Desc.lean ====
section
/-! DEFINITION. Task descriptors (R82–R87), the operation catalogue (R101–R103), and the fields of tensor descriptors (R166). -/

namespace Sys2Proof.Machine

open Sys2Proof

/-! ## The task descriptor (R83–R85) -/

/-- A 128-byte task descriptor. -/
abbrev Desc := List Byte

def dOpcode (d : Desc) : Nat := leAt d 0 2
def dLevel (d : Desc) : Nat := bitsOf (leAt d 0 4) 16 4
def dClass (d : Desc) : Nat := bitsOf (leAt d 0 4) 20 3
def dOwnBudget (d : Desc) : Bool := bitAt (leAt d 0 4) 24
def dNotify (d : Desc) : Bool := bitAt (leAt d 0 4) 25
def dStaged (d : Desc) : Bool := bitAt (leAt d 0 4) 26
def dCheckEvery (d : Desc) : Bool := bitAt (leAt d 0 4) 27
def dHandle (d : Desc) : Nat := bitsOf (leAt d 4 4) 0 20
def dSignal (d : Desc) : Nat := bitsOf (leAt d 4 4) 20 12
def dKindMask (d : Desc) : Nat := bitsOf (leAt d 8 4) 0 15
def dBudgetM1 (d : Desc) : Nat := leAt d 10 2
def dNotifyQueue (d : Desc) : Nat := bitsOf (leAt d 12 4) 0 20
def dCpl (d : Desc) : Nat := leAt d 0x10 8
def dParam (d : Desc) : Nat := leAt d 0x18 8

/-- The word of operand slot n (R82). -/
def dSlot (d : Desc) (n : Nat) : Nat := leAt d (0x20 + 8 * n) 8

/-- The kind of a slot word (R85). -/
def slotKind (w : Nat) : Nat := w % 16

/-- The 64-byte-aligned address of a slot word, sign-extended from bit 47 (R85). -/
def slotAddr (w : Nat) : Nat := signExtend48 (w % 2 ^ 48 / 64 * 64)

/-- The key or flag number of a slot word. -/
def slotKey (w : Nat) : Nat := bitsOf w 48 12

/-- The queue ID of a slot word of kind 0x4. -/
def slotQueue (w : Nat) : Nat := bitsOf w 6 20

/-! ## The catalogue (R101) -/

/-- One row of the catalogue: opcode, feature level, data inputs required and optional, outputs required and optional,
parameter block size, eligible kinds in order of preference. -/
structure OpRow where
  opcode : Nat
  level : Nat
  inReq : Nat
  inOpt : Nat
  outReq : Nat
  outOpt : Nat
  params : Nat
  kinds : List Nat
  deriving DecidableEq, Repr

/-- Families 0x00 to 0x04. -/
def catalogueA : List OpRow := [
  ⟨0x0000, 2, 0, 0, 0, 0, 0, []⟩, ⟨0x0001, 2, 0, 0, 0, 0, 64, []⟩,
  ⟨0x0002, 2, 0, 0, 0, 0, 64, []⟩, ⟨0x0003, 2, 0, 0, 1, 0, 64, []⟩,
  ⟨0x0100, 2, 1, 0, 1, 0, 0, [0]⟩, ⟨0x0101, 2, 0, 0, 1, 0, 0, [0]⟩,
  ⟨0x0102, 3, 2, 0, 1, 0, 64, [0]⟩, ⟨0x0103, 3, 3, 0, 1, 0, 64, [0]⟩,
  ⟨0x0200, 2, 2, 1, 1, 0, 0, [0]⟩, ⟨0x0201, 2, 2, 1, 1, 0, 64, [0]⟩,
  ⟨0x0202, 2, 2, 1, 1, 0, 64, [0]⟩, ⟨0x0203, 3, 2, 1, 1, 0, 64, [0]⟩,
  ⟨0x0204, 2, 2, 0, 1, 0, 64, [0]⟩, ⟨0x0205, 2, 1, 0, 1, 0, 64, [0]⟩,
  ⟨0x0206, 2, 1, 1, 1, 0, 64, [0]⟩, ⟨0x0207, 2, 1, 0, 1, 0, 64, [0]⟩,
  ⟨0x0208, 3, 2, 1, 1, 0, 0, [0]⟩]

/-- Families 0x03 and 0x04. -/
def catalogueB : List OpRow := [
  ⟨0x0300, 2, 1, 0, 1, 0, 64, [0]⟩, ⟨0x0301, 2, 1, 0, 1, 0, 64, [0]⟩,
  ⟨0x0302, 2, 1, 2, 1, 0, 64, [0]⟩, ⟨0x0303, 3, 1, 1, 1, 0, 64, [0]⟩,
  ⟨0x0304, 2, 1, 0, 1, 0, 64, [0]⟩, ⟨0x0305, 3, 1, 0, 2, 0, 64, [0]⟩,
  ⟨0x0400, 3, 3, 1, 1, 0, 64, [0]⟩, ⟨0x0401, 3, 2, 0, 1, 0, 64, [0]⟩,
  ⟨0x0402, 3, 3, 0, 1, 0, 64, [0]⟩]

/-- Families 0x05 to 0x08. -/
def catalogueC : List OpRow := [
  ⟨0x0500, 2, 0, 1, 1, 1, 128, [1, 0]⟩, ⟨0x0501, 2, 1, 0, 1, 3, 64, [2, 0]⟩,
  ⟨0x0502, 2, 2, 0, 1, 0, 64, [2, 0]⟩, ⟨0x0503, 2, 2, 0, 1, 0, 64, [3, 0]⟩,
  ⟨0x0504, 2, 1, 0, 1, 0, 128, [3, 0]⟩, ⟨0x0505, 2, 2, 1, 2, 0, 64, [4, 0]⟩,
  ⟨0x0506, 2, 2, 1, 2, 0, 64, [5, 0]⟩, ⟨0x0507, 2, 1, 0, 1, 0, 64, [6, 0]⟩,
  ⟨0x0508, 3, 2, 1, 1, 0, 64, [6, 0]⟩,
  ⟨0x0600, 2, 0, 0, 1, 0, 128, [8]⟩, ⟨0x0601, 2, 1, 0, 0, 0, 128, [8]⟩,
  ⟨0x0602, 2, 1, 0, 2, 0, 64, [7, 0]⟩, ⟨0x0603, 2, 2, 0, 1, 0, 64, [7, 0]⟩,
  ⟨0x0604, 2, 1, 0, 1, 0, 64, [9, 0]⟩, ⟨0x0605, 2, 1, 0, 1, 0, 64, [10, 0]⟩,
  ⟨0x0606, 2, 1, 0, 1, 0, 64, [11, 0]⟩, ⟨0x0607, 2, 1, 0, 1, 0, 64, [11, 0]⟩,
  ⟨0x0608, 3, 1, 0, 1, 0, 64, [0]⟩, ⟨0x0609, 2, 1, 1, 0, 0, 128, [12]⟩,
  ⟨0x060A, 2, 0, 0, 2, 0, 128, [12]⟩,
  ⟨0x0700, 2, 1, 0, 1, 0, 0, [13, 0]⟩, ⟨0x0701, 2, 2, 0, 1, 0, 0, [13, 0]⟩,
  ⟨0x0702, 3, 2, 0, 1, 0, 64, [13]⟩,
  ⟨0x0800, 2, 1, 0, 0, 0, 64, [14]⟩, ⟨0x0801, 2, 0, 0, 1, 0, 64, [14]⟩,
  ⟨0x0802, 3, 1, 0, 1, 0, 64, [14]⟩, ⟨0x0803, 3, 1, 0, 1, 0, 64, [14]⟩]

/-- The operation catalogue. -/
def catalogue : List OpRow := catalogueA ++ catalogueB ++ catalogueC

/-- The row of an opcode. -/
def opRow (op : Nat) : Option OpRow := catalogue.find? fun r => r.opcode == op

/-- Kinds a task may run on: the catalogue's, within the kind mask (R73). -/
def taskKinds (d : Desc) : List Nat :=
  match opRow (dOpcode d) with
  | none => []
  | some r => if dKindMask d = 0 then r.kinds else r.kinds.filter fun k => bitAt (dKindMask d) k

/-- Data inputs a descriptor supplies: leading nonempty input slots that are not token slots. -/
def dataInputs (d : Desc) : Nat :=
  ((List.range 8).takeWhile fun n => slotKind (dSlot d n) != 0 && slotKind (dSlot d n) != 5).length

/-- Data outputs a descriptor supplies: leading nonempty output slots. -/
def dataOutputs (d : Desc) : Nat :=
  ((List.range 4).takeWhile fun n => slotKind (dSlot d (8 + n)) != 0).length

/-! ## Tensor descriptor fields (R166) -/

def tdBase (d : List Byte) : Nat := signExtend48 (leAt d 0 6 / 64 * 64)
def tdDtype (d : List Byte) : Nat := leAt d 6 1
def tdRank (d : List Byte) : Nat := bitsOf (leAt d 7 1) 0 3 + 1
def tdDist (d : List Byte) : Nat := bitsOf (leAt d 7 1) 3 2
def tdHome (d : List Byte) : Nat := bitsOf (leAt d 7 1) 5 3

/-- The storage width in bits of a data type (R167); none where the code is reserved. -/
def dtWidth (dt : Nat) : Option Nat :=
  if dt = 0x01 ∨ dt = 0x08 then some 4
  else if dt = 0x09 ∨ dt = 0x0A then some 6
  else if dt = 0x02 ∨ dt = 0x03 ∨ dt = 0x0B ∨ dt = 0x0C ∨ dt = 0x18 ∨ dt = 0x19 then some 8
  else if dt = 0x04 ∨ dt = 0x0D ∨ dt = 0x0E ∨ dt = 0x10 ∨ (0x20 ≤ dt ∧ dt ≤ 0x23) then some 16
  else if dt = 0x05 ∨ dt = 0x0F ∨ dt = 0x11 ∨ dt = 0x12 ∨ dt = 0x24 then some 32
  else none

def tdTileLog2 (d : List Byte) (k : Nat) : Nat := bitsOf (leAt d 0x35 3) (4 * k) 4
def tdStLog2 (d : List Byte) (k : Nat) : Nat := bitsOf (leAt d 0x38 8) (3 * k) 3
def tdGrid (d : List Byte) (k : Nat) : Nat := bitsOf (leAt d 0x2C 9) (12 * k) 12 + 1
def tdExtent (d : List Byte) (k : Nat) : Nat := leAt d (0x14 + 2 * k) 2 + 1

/-- Bits of a layout tile (R170, R171). -/
def tdTileBits (d : List Byte) : Nat :=
  (dtWidth (tdDtype d)).getD 8 * 2 ^ ((List.range 6).foldl (fun n k => n + tdTileLog2 d k) 0)

/-- Bytes of a layout tile. -/
def tdTileBytes (d : List Byte) : Nat := tdTileBits d / 8

/-! ## Looking at a context's memory without an access -/

/-- The physical address a context's page tables give now. -/
def State.peekAddr (s : State) (h va : Nat) : Option Nat :=
  match s.ctx h with
  | none => none
  | some c =>
    if c.physical then (if va < 2 ^ 40 then some va else none)
    else if !canonical va then none
    else match s.walk 0x84 va 4 c.root with
      | .leaf pte l => some (leafAddr pte l va)
      | _ => none

/-- Bytes at a context's address, one page lookup per line; none where a line does not translate. -/
def State.peek (s : State) (h va n : Nat) : Option (List Byte) :=
  (linePieces (n / 64 + 2) va 0 n).foldl
    (fun acc p => match acc, s.peekAddr h (va + p.1) with
      | some bs, some pa => some (bs ++ s.bytesAt pa p.2)
      | _, _ => none) (some [])

/-- Whether a range lies wholly in one registered buffer of a context (R87). -/
def State.inBuffer (s : State) (h a n : Nat) : Bool :=
  s.tally.buffers.any fun b => b.handle == h && b.base ≤ a && a + n ≤ b.base + b.length

/-- Whether an address lies in a buffer of the context under deregistration (R53). -/
def State.inDereg (s : State) (h a : Nat) : Bool :=
  s.tally.buffers.any fun b => b.handle == h && b.dereg && b.base ≤ a && a < b.base + b.length

/-- The live Hall buffer record and copy that a base address names for a context (R364). -/
def State.hallOf (s : State) (h base : Nat) : Option (Nat × Nat) :=
  s.hall.bufs.findSome? fun (r, b) =>
    if b.base = 0 ∨ b.owner ≠ h then none
    else if b.copiesM1 = 0 ∨ b.stride = 0 then (if base = b.base then some (r, 0) else none)
    else if base < b.base ∨ (base - b.base) % b.stride ≠ 0 ∨ b.copiesM1 < (base - b.base) / b.stride then none
    else some (r, (base - b.base) / b.stride)

/-- The Hall record and copy an operand slot of a task names, by its tensor descriptor in memory. -/
def State.hallSlot (s : State) (h : Nat) (d : Desc) (n : Nat) : Option (Nat × Nat) :=
  let w := dSlot d n
  if slotKind w = 1 ∨ slotKind w = 2 ∨ slotKind w = 3 then
    match s.peek h (slotAddr w) 64 with
    | some td => s.hallOf h (tdBase td)
    | none => none
  else none

/-- The physical copy an operand uses in instance k (R367). -/
def HallBuf.copy (b : HallBuf) (c k : Nat) : Nat := (c + k) % (b.copiesM1 + 1)

/-- A ring's key: record and physical copy. -/
def ringKey (r c : Nat) : Nat := r * 8 + c

end Sys2Proof.Machine
end

