-- ==== Sys2Proof/Machine/FabBase.lean ====
section
/-! DEFINITION. The fabric engine's shared operations: ports and rates (R411), the member table (R420), queue pairs and the packets they
send (R416, R419), peer queues and mirror regions (R423, R424), lost peers (R426). The transport's bytes are InfiniBand's (PRESUMED, log
entry 21); the bytes behind them are the model's own (log entry 22). -/

namespace Sys2Proof.Machine

open Sys2Proof

/-! ## Ports (R411) -/

/-- The mode of a quad. -/
def State.quadMode (s : State) (q : Nat) : Nat := s.fld Reg.sdsCfg (if q = 0 then Fld.sdsCfgQuad0Mode else Fld.sdsCfgQuad1Mode)

/-- The lanes of a port; 0 where the port is absent. -/
def State.portLanes (s : State) (n : Nat) : Nat :=
  let f := n % 4
  match s.quadMode (n / 4) with
  | 0 => if f = 0 then 4 else 0
  | 1 => if f % 2 = 0 then 2 else 0
  | 2 => 1
  | _ => if f = 0 then 2 else if 2 ≤ f then 1 else 0

/-- The rate of a port in Mbit/s. -/
def State.portRate (s : State) (n : Nat) : Nat := s.portLanes n * 100000

/-! ## Jobs and members (R420, R431) -/

def State.jobHandle (s : State) (j : Nat) : Nat := s.fld (Reg.fabJobCfg j) Fld.fabJobCfgHandle
def State.jobRank (s : State) (j : Nat) : Nat := s.fld (Reg.fabJobCfg j) Fld.fabJobCfgRank
def State.jobMembers (s : State) (j : Nat) : Nat := s.fld (Reg.fabJobCfg j) Fld.fabJobCfgMembersM1 + 1
def State.jobEpoch (s : State) (j : Nat) : Nat := s.fld (Reg.fabJobStatus j) Fld.fabJobStatusEpoch

/-- A job beside its registers. -/
def job0 : Job := ⟨[], []⟩
def State.job (s : State) (j : Nat) : Job := tblGet s.fabric.jobs job0 j
def modJob (j : Nat) (f : Job → Job) : M Unit :=
  update (.fabric fun x => { x with jobs := tblSet x.jobs j (f (tblGet x.jobs job0 j)) })

/-- Read a member table entry; none where the table is absent, the entry not valid, or its CRC wrong. -/
def readMember (j r : Nat) : M (Option (List Byte)) := do
  let s ← getS
  if !s.flag Reg.fabMembers Fld.fabMembersValid then return none
  else
    match ← physReadAll 0xB1 (s.fld Reg.fabMembers Fld.fabMembersBase * 2 ^ 16 + (64 * j + r) * 64) 64 with
    | .error _ => return none
    | .ok b => return if bitAt (leAt b 6 1) 7 && crc32c (b.take 60) == leAt b 60 4 then some b else none

def mbPort (b : List Byte) : Nat := leAt b 6 1 % 8
def mbQp (b : List Byte) : Nat := leAt b 24 2 % 4096
def mbPeerQpn (b : List Byte) : Nat := leAt b 26 3
def mbMirrorBase (b : List Byte) : Nat := leAt b 32 8
def mbMirrorSize (b : List Byte) : Nat := (leAt b 40 4 + 1) * 2 ^ 20
def mbMirrorRkey (b : List Byte) : Nat := leAt b 44 4

/-! ## Queue pairs (R416, R417, R419) -/

/-- A queue pair after reset. -/
def qp0 : Qp where
  job := 0
  rank := 0
  phase := .reset
  handle := 0
  peer := 0
  line := 0
  sendPsn := 0
  recvPsn := 0
  rate := 0
  step := 0
  cnps := []
  windowAt := 0
  retries := 0
  out := []
  part := []
  msg := 0
  rkey := 0
  addr := 0
  total := 0
  cnpAt := none

def State.qp (s : State) (i : Nat) : Qp := tblGet s.fabric.qps qp0 i
def modQp (i : Nat) (f : Qp → Qp) : M Unit :=
  update (.fabric fun x => { x with qps := tblSet x.qps i (f (tblGet x.qps qp0 i)) })

/-- The queue pair of a job's peer. -/
def State.qpOf (s : State) (j r : Nat) : Option (Nat × Qp) := s.fabric.qps.find? fun p => p.2.job == j && p.2.rank == r

/-- Whether the fabric endpoint is fenced for reset: it sends nothing and answers nothing (R426). -/
def State.fabFenced (s : State) : Bool := (s.fence 0x200).isSome || (s.fence 0xB1).isSome

/-- The rate window of a stamp (R419). -/
def State.rateWindow (s : State) (t : Nat) : Nat := t * 1000000 / (2 ^ 32 * max (s.fld Reg.fabRc Fld.fabRcWindowUs) 1)

/-- The queue pair to a peer, set up from the member table where there is none (R420): ready, at line rate; none where it is in error, the
job or the peer is absent, or the peer is this member. -/
def openQp (j r : Nat) : M (Option Nat) := do
  let s ← getS
  match s.qpOf j r with
  | some (i, q) => return if q.phase = .ready then some i else none
  | none =>
    if s.reg (Reg.fabJobCfg j) = 0#64 ∨ s.jobMembers j ≤ r ∨ r = s.jobRank j then return none
    else
      match ← readMember j r with
      | none => return none
      | some b => do
        let line := s.portRate (mbPort b)
        modQp (mbQp b) fun _ => { qp0 with
          job := j
          rank := r
          phase := .ready
          handle := s.jobHandle j
          peer := mbPeerQpn b
          line := line
          rate := line
          step := s.fld Reg.fabRc Fld.fabRcAddMbps
          windowAt := s.rateWindow s.clock.now }
        return some (mbQp b)

/-- The path MTU (R416): 1,024, 2,048 or 4,096 bytes; which is open. -/
def pathMtu : Nat := 1024 * 2 ^ (Config.pathMtuCode % 3)

/-- Bytes in pieces of at most n, at least one piece. -/
def pieces (n : Nat) : Nat → List Byte → List (List Byte)
  | 0, bs => [bs]
  | k + 1, bs => if bs.length ≤ n then [bs] else bs.take n :: pieces n k (bs.drop n)

/-- A RoCEv2 packet to a queue pair: transport header, what follows it, payload in whole words. -/
def wirePacket (peer op psn : Nat) (ext payload : List Byte) : List Byte :=
  let pad := (4 - payload.length % 4) % 4
  beBytes 1 op ++ beBytes 1 (0x40 + 16 * pad) ++ beBytes 2 0xFFFF ++ beBytes 1 0 ++ beBytes 3 peer
    ++ beBytes 1 0x80 ++ beBytes 3 psn ++ ext ++ payload ++ zeros pad

/-- Put a packet on the wire. -/
def sendPacket (peer op psn : Nat) (ext payload : List Byte) : M Unit := do
  let s ← getS
  if s.fabFenced then pure () else update (.sent (· ++ [(0xB1, wirePacket peer op psn ext payload)]))

/-- Send, or send again, a packet that awaits its acknowledgement. -/
def sendOut (i : Nat) (p : OutPkt) : M Unit := do
  let s ← getS
  let ext := if p.op = 6 ∨ p.op = 10 ∨ p.op = 12 then beBytes 8 p.addr ++ beBytes 4 p.rkey ++ beBytes 4 p.len else []
  sendPacket (s.qp i).peer p.op p.psn ext p.bytes

/-- Enter a packet in a queue pair's outstanding packets and send it. -/
def postPacket (i : Nat) (p : OutPkt) (psns : Nat) : M Unit := do
  let s ← getS
  let p := { p with
    psn := (s.qp i).sendPsn
    stamp := s.clock.now }
  modQp i fun q => { q with
    sendPsn := (q.sendPsn + psns) % 2 ^ 24
    out := q.out ++ [p] }
  sendOut i p

/-- Post a message in packets of the path MTU: a SEND, or a WRITE to a remote key and address. Its last packet carries the task or the
entry it serves. -/
def postMsg (i : Nat) (write : Option (Nat × Nat)) (msg : List Byte) (task : Option Nat) (entry : Option (Nat × Nat)) : M Unit := do
  let ps := pieces pathMtu (msg.length / 1024 + 1) msg
  let base := if write.isSome then 6 else 0
  for (x, n) in ps.zipIdx do
    let lst := n + 1 == ps.length
    let op := if ps.length = 1 then base + 4 else if n = 0 then base else if lst then base + 2 else base + 1
    let (rkey, addr) := if n = 0 then write.getD (0, 0) else (0, 0)
    postPacket i ⟨0, op, rkey, addr, msg.length, x, if lst then task else none, if lst then entry else none, 0⟩ 1

/-- Post an RDMA READ request; its responses take as many sequence numbers as they are packets. -/
def postRead (i rkey addr len : Nat) (entry : Option (Nat × Nat)) : M Unit :=
  postPacket i ⟨0, 12, rkey, addr, len, [], none, entry, 0⟩ (max 1 (ceilDiv len pathMtu))

/-! ## Peer queues and mirror regions (R423, R424) -/

/-- A gate that holds an entry until its peer has accepted it. -/
def peerGate : Nat := 2 ^ 63

/-- The payload of a fabric message (R423). -/
def fabricMessage (payload : List Byte) (seq queue slot rank job index : Nat) : List Byte :=
  padTo 24 payload ++ leBytes 4 seq ++ leBytes 4 (queue % 2 ^ 20 + slot % 4 * 2 ^ 20 + rank % 64 * 2 ^ 22 + job % 16 * 2 ^ 28)
    ++ leBytes 4 index ++ zeros 12

/-- The far queue of a proxy: job, rank, queue. -/
def Queue.proxy (u : Queue) : Option (Nat × Nat × Nat) := u.remote.filter fun x => x.2.2 < 2 ^ 20

/-- The peer of a mirrored queue: job, rank, offset of its part of the region. -/
def Queue.mirrored (u : Queue) : Option (Nat × Nat × Nat) := (u.remote.filter fun x => 2 ^ 20 ≤ x.2.2).map fun x => (x.1, x.2.1, x.2.2 - 2 ^ 20)

/-- Whether a queue pair a queue depends on for acceptance is in error, or its region is still to be read back (R424). -/
def State.mirrorDown (s : State) (u : Queue) : Bool :=
  match u.mirrored with
  | none => false
  | some (j, r, _) => u.reading || (match s.qpOf j r with
    | some (_, q) => q.phase != .ready
    | none => false)

/-- Bytes of a mirror region that a queue takes: its ring, and four records for each place. -/
def mirrorSpan (entries : Nat) : Nat := 320 * entries

/-- Where a record stands in a queue's part of the region. -/
def mirrorRecordAt (entries slot ty : Nat) : Nat := 64 * (entries + 4 * slot + (ty - 1))

/-- Write into the mirror region of a peer. -/
def mirrorPost (j r off : Nat) (bytes : List Byte) (entry : Option (Nat × Nat)) : M Bool := do
  match ← openQp j r with
  | none => return false
  | some i =>
    match ← readMember j r with
    | none => return false
    | some b =>
      if mbMirrorBase b = 0 then return false
      else do
        postMsg i (some (mbMirrorRkey b, mbMirrorBase b + off)) bytes none entry
        return true

/-- What the loss of a queue pair leaves of it: in error, with only the packets of peer queues, which go again when it is set up
anew (R423, R424, R426). -/
def lostQp (q : Qp) : Qp :=
  { q with
    phase := .error
    out := q.out.filter fun p => p.entry.isSome
    part := []
    msg := 0
    retries := 0 }

/-- The wire form of a fabric message to a peer queue. -/
def wireMessage (queue : Nat) (payload : List Byte) : List Byte := leBytes 4 5 ++ leBytes 4 queue ++ zeros 8 ++ padTo 48 payload

/-- Forward an entry of a proxy queue to its peer (R423). Where the queue pair is not ready the message goes when it is set up again. -/
def forwardEntry (q seq oseq oqueue oslot index : Nat) (payload : List Byte) : M Unit := do
  let s ← getS
  match (s.queue q).bind Queue.proxy with
  | none => pure ()
  | some (j, r, pq) => do
    let msg := wireMessage pq (fabricMessage payload oseq oqueue oslot (s.jobRank j) j index)
    match ← openQp j r with
    | some i => postMsg i none msg none (some (q, seq))
    | none =>
      match s.qpOf j r with
      | some (i, _) => modQp i fun x => { x with out := x.out ++ [⟨x.sendPsn, 4, 0, 0, msg.length, msg, none, some (q, seq), s.clock.now⟩] }
      | none => pure ()

/-- Whether a fabric message with an origin still awaits its peer. -/
def State.awaitsPeer (s : State) (u : Queue) (oseq oqueue oslot index : Nat) : Bool :=
  match u.proxy with
  | none => false
  | some (j, r, pq) =>
    let tail := (wireMessage pq (fabricMessage [] oseq oqueue oslot (s.jobRank j) j index)).drop 40
    match s.qpOf j r with
    | none => false
    | some (_, q) => q.out.any fun p => p.bytes.length == 64 && p.bytes.drop 40 == tail

/-! ## Communication tasks (R421, R426) -/

/-- The parameter block of a family 0x08 task. -/
def State.fabParams (s : State) (k : Task) : Option (List Byte) :=
  if dOpcode k.desc / 256 ≠ 8 then none
  else if k.fetched then some k.params
  else s.peek k.handle (dParam k.desc) 64

/-- Job and step of a family 0x08 task. -/
def State.taskStep (s : State) (k : Task) : Option (Nat × Nat) :=
  (s.fabParams k).map fun p => (leAt p 6 1 % 16, leAt p 0 4)

/-- The ranks of a job that a task needs. -/
def State.needsRank (s : State) (k : Task) (j r : Nat) : Bool :=
  match s.fabParams k with
  | none => false
  | some p => leAt p 6 1 == j && s.jobHandle j == k.handle && (0x802 ≤ dOpcode k.desc || leAt p 4 1 == r)

/-- A lost rank that a task needs: job, rank, reason. -/
def State.lostFor (s : State) (k : Task) : Option (Nat × Nat × Nat) :=
  s.fabric.jobs.findSome? fun p => (p.2.lost.find? fun l => s.needsRank k p.1 l.1).map fun l => (p.1, l.1, l.2)

/-- Set FAB_JOB_STATUS.committed to the highest step whose family 0x08 tasks have all completed and, if staged, committed (R427). -/
def settleSteps (j : Nat) : M Unit := do
  let s ← getS
  let busy : Nat → Bool := fun k => s.tally.tasks.any fun t => t.2.handle == s.jobHandle j && s.taskStep t.2 == some (j, k)
  let top := (s.job j).steps.foldl (fun m p => if p.2.1 && p.2.2.isEmpty && !busy p.1 then max m p.1 else m)
    (s.fld (Reg.fabJobStatus j) Fld.fabJobStatusCommitted)
  wrFld (Reg.fabJobStatus j) Fld.fabJobStatusCommitted top
  modJob j fun x => { x with steps := x.steps.filter fun p => top < p.1 || !p.2.2.isEmpty }

/-- A family 0x08 task has ended: completed or not; a staged one that completed has still to commit. -/
def noteStep (t : Nat) (k : Task) (ok staged : Bool) : M Unit := do
  let s ← getS
  update (.fabric fun x => { x with sends := x.sends.filter fun p => p.1 != t })
  match s.taskStep k with
  | none => pure ()
  | some (j, n) =>
    if s.jobHandle j ≠ k.handle then pure ()
    else modJob j fun x =>
      let old := tblGet x.steps (true, []) n
      { x with steps := tblSet x.steps n (old.1 && ok, if ok && staged then old.2 ++ [t] else old.2) }

/-- A staged task has committed (R427). -/
def noteCommit (t : Nat) : M Unit := do
  let s ← getS
  for (j, x) in s.fabric.jobs do
    if x.steps.any fun p => p.2.2.contains t then
      modJob j fun x => { x with steps := x.steps.map fun p => (p.1, (p.2.1, p.2.2.filter (· ≠ t))) }
      settleSteps j

/-- Settle the steps of every job of a context. -/
def settleJobs (h : Nat) : M Unit := do
  let s ← getS
  for (j, _) in s.fabric.jobs do
    if s.jobHandle j = h then settleSteps j

end Sys2Proof.Machine
end

