-- ==== Sys2Proof/Machine/Gate.lean ====
section
/-! DEFINITION. Shared operations of functional safety: pipelines, faults of instances, safe state, the output gate's bytes, belay
commits, cairn runs (R434–R453), and the pin that follows them (R448). -/

namespace Sys2Proof.Machine

open Sys2Proof

/-! ## Tables -/

def State.pipe (s : State) (p : Nat) : Pipe := tblGet s.safe.pipes pipe0 p
def State.belay (s : State) (w : Nat) : Belay := tblGet s.safe.belays belay0 w
def State.cairn (s : State) (c : Nat) : Cairn := tblGet s.safe.cairns cairn0 c

def modPipe (p : Nat) (f : Pipe → Pipe) : M Unit :=
  update (.safe fun x => { x with pipes := tblSet x.pipes p (f (tblGet x.pipes pipe0 p)) })

def modBelay (w : Nat) (f : Belay → Belay) : M Unit :=
  update (.safe fun x => { x with belays := tblSet x.belays w (f (tblGet x.belays belay0 w)) })

def modCairn (c : Nat) (f : Cairn → Cairn) : M Unit :=
  update (.safe fun x => { x with cairns := tblSet x.cairns c (f (tblGet x.cairns cairn0 c)) })

/-- A field of a SAFE_BW_CFG, SAFE_CAIRN_CFG or SAFE_CAIRN_TIME word. -/
def fieldOf (w : Word) (f : Field) : Nat := getBits w f.lsb f.width

/-- Whether a pipeline is enabled, and its state (SAFE_PIPE_STATUS). -/
def State.pipeOn (s : State) (p : Nat) : Bool := s.flag (Reg.safePipeCfg p) Fld.safePipeCfgEnable
def State.pipeState (s : State) (p : Nat) : Nat := s.fld (Reg.safePipeStatus p) Fld.safePipeStatusState

/-- The enabled pipeline bound to a graph template (R434). -/
def State.pipeOfGraph (s : State) (g : Nat) : Option Nat :=
  (List.range 32).find? fun p => s.pipeOn p && s.fld (Reg.safePipeCfg p) Fld.safePipeCfgTmpl == g

/-- The enabled pipeline of a task, with its instance's number. -/
def State.pipeOfTask (s : State) (k : Task) : Option (Nat × Nat) :=
  match k.origin with
  | .inst g _ n => (s.pipeOfGraph g).map fun p => (p, n)
  | _ => none

/-- The enabled pipeline whose output queue a queue is (R444). -/
def State.pipeOfQueue (s : State) (q : Nat) : Option Nat :=
  (List.range 32).find? fun p => s.pipeOn p && s.fld (Reg.safePipeGate p) Fld.safePipeGateOutQueue == q

/-- Cairns bound to a pipeline: enabled, with the pipeline in their mask. -/
def State.boundCairns (s : State) (p : Nat) : List Nat :=
  (List.range 16).filter fun c => fieldOf (s.cairn c).cfg Fld.safeCairnCfgEnable == 1
    && bitAt (fieldOf (s.cairn c).cfg Fld.safeCairnCfgPipeMask) p

/-- Whether a graph template is that of an enabled cairn (R452). -/
def State.isCairn (s : State) (g : Nat) : Bool :=
  s.safe.cairns.any fun c => fieldOf c.2.cfg Fld.safeCairnCfgEnable == 1 && fieldOf c.2.cfg Fld.safeCairnCfgTmpl == g

/-- Whether a task is a cairn's. -/
def State.cairnTask (s : State) (t : Nat) : Bool :=
  match s.task t with
  | some k => (match k.origin with
    | .inst g _ _ => s.isCairn g
    | _ => false)
  | none => false

/-! ## The pin (R448) -/

/-- RCV_STATUS.state and rung (R479). -/
def State.rcvState (s : State) : Nat :=
  if s.rcv.bivouac then 2 else if s.rcv.resets.isEmpty then 0 else 1
def State.rcvRung (s : State) : Nat := s.rcv.resets.foldl (fun m p => max m p.2.rung) 0

/-- Whether SAFE_N must be low (R448), a failure of the SAFE block asserting it whatever safe_pin says (R455). -/
def State.safeLow (s : State) : Bool :=
  !s.flag Reg.safeCtl Fld.safeCtlRelease || s.rcv.bivouac || 4 ≤ s.rcvRung
    || (List.range 32).any fun p =>
        s.pipeState p == 3 && (s.flag (Reg.safePipeCfg p) Fld.safePipeCfgSafePin || s.bist.badBody.contains 6)

/-- Drive SAFE_N as R448 says. -/
def drivePins : M Unit := do
  let s ← getS
  update (.pins fun p => { p with safeN := !s.safeLow })

/-! ## Safe state and faults (R442, R446, R447) -/

/-- A pipeline enters safe state (R447): reason of event 0x6003, instance, earlier faulty instance. -/
def enterSafe (p reason num earlier : Nat) : M Unit := do
  let s ← getS
  if s.pipeOn p ∧ s.pipeState p ≠ 3 then
    wrFld (Reg.safePipeStatus p) Fld.safePipeStatusState 3
    modPipe p fun x => { x with safeDue := s.boundCairns p }
    raise 0x81 6 0x6003 (det [(1, p), (1, reason), (2, 0), (4, num), (4, earlier)])
    drivePins

/-- Whether instance b follows a by less than the window (R446). -/
def withinWindow (a b window : Nat) : Bool :=
  let d := (b + 2 ^ 32 - a) % 2 ^ 32
  0 < d && d < window

/-- A fault of an instance (R442, R446): event 0x6001; the instance's first fault counts, and a second faulty instance within the
window brings safe state. -/
def pipeFault (p num kind producer checker index crc : Nat) : M Unit := do
  let s ← getS
  let src := if kind = 0 then checker else if kind ≤ 3 ∧ producer < 0xFF then producer else 0x81
  raise src (partOf src) 0x6001 (det [(1, p), (1, producer), (1, checker), (1, kind), (4, num), (4, index), (4, crc)])
  let x := s.pipe p
  modPipe p fun x => { x with insts := x.insts.map fun i =>
    if i.num = num ∧ i.fault.isNone then { i with fault := some kind } else i }
  wrFld (Reg.safePipeStatus p) Fld.safePipeStatusLastFault num
  if !x.faulty.contains num then
    bump (Reg.safePipeCnt p) Fld.safePipeCntFaults 1
    modPipe p fun x => { x with faulty := (x.faulty ++ [num]).drop (x.faulty.length + 1 - 128) }
    let w := s.fld (Reg.safePipeChk p) Fld.safePipeChkDisWindow
    match x.faulty.find? fun a => withinWindow a num w || withinWindow num a w with
    | some a => if withinWindow a num w then enterSafe p 0 num a else enterSafe p 0 a num
    | none => pure ()

/-- A fault of the instance a task belongs to, if a pipeline covers it. -/
def taskFault (k : Task) (kind index crc : Nat) : M Unit := do
  let s ← getS
  match s.pipeOfTask k with
  | some (p, n) => pipeFault p n kind k.engine 0xFF index crc
  | none => pure ()

/-- The state of a pipeline outside safe state (R453): unverified while a bound cairn has yet to pass. -/
def settlePipe (p : Nat) : M Unit := do
  let s ← getS
  if s.pipeOn p ∧ s.pipeState p ≠ 3 then
    wrFld (Reg.safePipeStatus p) Fld.safePipeStatusState (if (s.pipe p).due.isEmpty then 1 else 2)

/-! ## The output gate (R444, R445) -/

/-- The bytes of an entry as the gate releases it (R444). -/
def gateBytes (e : List Byte) (stamp num verdict pipe reason : Nat) : List Byte :=
  let head := if verdict % 4 = 2 ∨ verdict % 4 = 3 then zeros 28 else padTo 28 e
  let tail := leBytes 8 stamp ++ leBytes 4 num ++ leBytes 1 verdict ++ leBytes 1 pipe ++ leBytes 1 reason ++ leBytes 1 0
    ++ (padTo 64 e).drop 48
  head ++ leBytes 4 (crc32c (head ++ tail)) ++ tail

/-- The gate that applies to an entry a task appends: pipeline × 2^32 + instance number. -/
def State.gateOf (s : State) (q : Nat) (by_ : Option Task) : Option Nat :=
  match s.pipeOfQueue q, by_.bind s.pipeOfTask with
  | some p, some (p', n) => if p = p' then some (p * 2 ^ 32 + n) else none
  | _, _ => none

/-- Whether a queue refuses an entry because it is a pipeline's output queue and the appender is none of its tasks (R444). -/
def State.gateRefuses (s : State) (q : Nat) (by_ : Option Task) : Bool :=
  (s.pipeOfQueue q).isSome && (s.gateOf q by_).isNone

/-- The verdict under which the gate has already decided an instance. -/
def State.gateDecided (s : State) (g : Nat) : Option (PipeInst × Nat × Nat) :=
  match (s.pipe (g / 2 ^ 32)).insts.find? fun i => i.num == g % 2 ^ 32 with
  | some i => i.verdict.map fun v => (i, v)
  | none => none

/-! ## What follows tasks and instances (R445, R449–R453) -/

/-- The stamp a belay window counts from (R449): the frame start, or the air boundary of a slot graph's instance. -/
def State.belayBase (s : State) (g stamp air : Nat) : Nat :=
  match tblFind s.tally.graphs g with
  | some x => if x.cadence = 2 then air else stamp
  | none => stamp

/-- The windows that watch a graph template. -/
def State.belaysOf (s : State) (g : Nat) : List Nat :=
  (s.safe.belays.filter fun w => fieldOf w.2.cfg Fld.safeBwCfgEnable == 1 && fieldOf w.2.cfg Fld.safeBwCfgTmpl == g).map (·.1)

/-- Tally has created an instance (R434, R451): armed times commit, windows and pipelines take the instance. -/
def safeCreated (g id num stamp air : Nat) : M Unit := do
  let s ← getS
  for w in s.belaysOf g do
    let b := s.belay w
    if b.armed then
      modBelay w fun x => { x with active := b.shadow, armed := false, late := false, last := if b.late then 2 else 1 }
      if b.late then raise 0x81 6 0x0E02 (det [(1, w), (3, 0), (4, num)])
    let s ← getS
    let times := (s.belay w).active
    let base : Int := s.belayBase g stamp air
    let d : BelayDue := ⟨id, num, base + signed 32 (fieldOf times Fld.safeBwShadowOpen),
      base + signed 32 (fieldOf times Fld.safeBwShadowClose), none⟩
    modBelay w fun x => { x with created := some s.clock.now, due := x.due ++ [d] }
  match s.pipeOfGraph g with
  | some p => modPipe p fun x => { x with insts := x.insts ++ [⟨num, id, stamp, none, [], none⟩] }
  | none => pure ()

/-- A task of an instance has ended (R442, R449, R453). -/
def safeEnded (k : Task) (g j n id : Nat) (ok last : Bool) : M Unit := do
  let s ← getS
  let now := s.clock.now
  for w in s.belaysOf g do
    if fieldOf (s.belay w).cfg Fld.safeBwCfgTask = j then
      modBelay w fun x => { x with due := x.due.map fun d => if d.id = id ∧ d.ended.isNone then { d with ended := some now } else d }
  for (c, x) in s.safe.cairns do
    match x.run with
    | some r =>
      if r.id = id then modCairn c fun x => { x with run := some { r with aborted := r.aborted || !ok, lastEnd := now } }
    | none => pure ()
  if last then
    update (.engines fun t => t.map fun e => if e.2.reserved = some id then (e.1, { e.2 with reserved := none }) else e)
  if !ok then
    match s.pipeOfGraph g with
    | some p => pipeFault p n 3 k.engine 0xFF 0 0
    | none => pure ()

end Sys2Proof.Machine
end

