-- ==== Sys2Proof/Machine/Queues.lean ====
section
/-! DEFINITION. Shared operations on queues, rings and the ledger: appends, binding, leaving, ledger records
(R104–R110, R151–R160, R554–R557). -/

namespace Sys2Proof.Machine

open Sys2Proof

/-- Something that follows from a change of Tally's tables and is still to be done (R120). -/
inductive Work where
  /-- A token for a board key, with its failed mark. -/
  | token (key : Nat) (failed : Bool)
  /-- A token aimed at one slot of a task. -/
  | slot (task slot : Nat) (failed : Bool)
  /-- Entries of a queue to be bound to waiting slots (R107). -/
  | bind (queue : Nat)
  deriving DecidableEq, Repr

/-- Raise an event attributed to a context too: it enters queue 0 and is offered to the context's event queue by the
caller through this record (R136). -/
structure EventRec where
  src : Nat
  part : Nat
  code : Nat
  detail : List Byte
  deriving DecidableEq, Repr

/-! ## Ledger (R152–R154, R164, R165) -/

/-- KiB of mirror rings a ledger region holds. -/
def State.mirrorBytes (s : State) (p : Nat) : Nat :=
  s.tally.queues.foldl (fun n (_, q) => if q.ledger ∧ q.mirror = p then n + 64 * q.entries else n) 0

/-- Whether an accepted entry has neither a retire nor a close record. -/
def State.openEntry (s : State) (q seq : Nat) : Bool :=
  s.tally.ledger.any (fun r => r.queue == q && r.seq == seq && r.ty == 1) &&
    !s.tally.ledger.any (fun r => r.queue == q && r.seq == seq && (r.ty == 3 || r.ty == 4))

/-- Bytes in use in a ledger region: mirror rings, and the records of open entries; records of retired and closed entries are
reclaimed when room is needed (log entry 12). -/
def State.ledgerBytes (s : State) (p : Nat) : Nat :=
  s.mirrorBytes p + 64 * (s.tally.ledger.filter fun r => r.home == p && s.openEntry r.queue r.seq).length

/-- The size of a ledger region in bytes. -/
def State.ledgerSize (s : State) (p : Nat) : Nat :=
  (s.fld (Reg.ledgerSize p) Fld.ledgerSizeMibM1 + 1) * 2 ^ 20

/-- Whether a region has room for some more bytes. -/
def State.ledgerRoom (s : State) (p n : Nat) : Bool := s.ledgerBytes p + n ≤ s.ledgerSize p

/-- The 64 bytes of a ledger record (R154). -/
def ledgerBytes (stamp seq queue ty copy crc producer status : Nat) (key : OriginKey) (addr : Nat) : List Byte :=
  withCrc 60 (leBytes 8 stamp ++ leBytes 4 seq ++ leBytes 4 (queue % 2 ^ 20 + ty * 2 ^ 20 + copy * 2 ^ 24)
    ++ leBytes 4 crc ++ leBytes 4 (producer % 2 ^ 20 + status * 2 ^ 20) ++ leBytes 4 key.seq
    ++ leBytes 4 (key.queue % 2 ^ 20 + key.slot * 2 ^ 20) ++ leBytes 4 key.index ++ leBytes 4 0 ++ leBytes 8 addr)

/-- No origin. -/
def noKey : OriginKey := ⟨0, 0, 0, 0⟩

/-- Write one kind of record in both homes of a queue (R152), and to the peer of a mirrored queue (R424). A home behind a fence fails:
event 0x4202, and the queue refuses enqueues until the copy is rewritten (R165). Returns whether both were written. -/
def writeLedger (q seq ty crc producer status : Nat) (key : OriginKey) (a0 a1 : Nat) : M Bool := do
  let s ← getS
  match s.queue q with
  | none => return false
  | some u => do
    let mut ok := true
    for (copy, home, addr) in [(0, u.home, a0), (1, u.mirror, a1)] do
      if s.fenced home then do
        ok := false
        raise 0x80 6 0x4202 (det [(4, q), (4, seq), (1, home), (1, ty)])
        modQueue q fun u => { u with blocked := true }
      else
        modTally fun t => { t with ledger := t.ledger ++
          [⟨home, q, seq, ty, ledgerBytes s.clock.now seq q ty copy crc producer status key addr⟩] }
    match u.mirrored with
    | some (j, r, off) =>
      if !u.reading then
        let slot := ((u.ents.find? fun e => e.seq == seq).map (·.slot)).getD (freeSlot u)
        let _ ← mirrorPost j r (off + mirrorRecordAt u.entries slot ty)
          (ledgerBytes s.clock.now seq q ty 0 crc producer status key a0) (if ty = 1 then some (q, seq) else none)
    | none => pure ()
    return ok

/-- Whether a record of a type exists for an entry. -/
def State.hasRecord (s : State) (q seq ty : Nat) : Bool :=
  s.tally.ledger.any fun r => r.queue == q && r.seq == seq && r.ty == ty

/-! ## Appending an entry -/

/-- Why an entry is not accepted. -/
inductive AppendErr where
  | full | fenced | room | memory | none | gated
  deriving DecidableEq, Repr

/-- Send an MSI-X vector for each PCIE_MSIX register that names a queue (R428); the message is the vector number. -/
def msixFor (q : Nat) : M Unit := do
  let s ← getS
  for v in List.range 16 do
    if s.fld (Reg.pcieMsix v) Fld.pcieMsixQueue = q ∧ q ≠ 0 ∧ s.fld Reg.pcieStatus Fld.pcieStatusSpeed ≠ 0 then
      update (.sent (· ++ [(0xB0, leBytes 4 v)]))

/-- Accept an entry into a queue (R105, R109, R153, R554): ring write, mirror ring write and two accept records for a ledger
queue, then the entry takes its sequence. An entry of a mirrored queue is withheld until its peer has acknowledged it (R424); one of a
proxy queue goes to its peer, unless a pipeline's gate withholds it (R423). `bound` is the task of a submission; `gate` withholds it; `form` gives the stored
bytes. -/
def acceptEntry (q ty : Nat) (payload : List Byte) (producer : Nat) (safety : Bool) (bound : Option (Nat × Nat))
    (key : OriginKey) (gate : Option Nat) (form : List Byte → List Byte) : M (Except AppendErr Nat) := do
  let s ← getS
  match s.queue q with
  | none => return .error .none
  | some u =>
    if u.ledger && (s.fenced u.home || s.fenced u.mirror || u.blocked || s.mirrorDown u) then return .error .fenced
    else if u.full then return .error .full
    else if u.ledger && !(s.ledgerRoom u.home 64 && s.ledgerRoom u.mirror 64) then return .error .room
    else do
      let slot := freeSlot u
      let seq := u.next
      let bytes := form (entryBytes payload s.clock.now seq producer ty safety)
      match ← ctxWrite 0x80 u.owner (u.base + 64 * slot) bytes with
      | some .fence => return .error .fenced
      | some _ => return .error .memory
      | none => do
        if u.ledger then
          let a0 := (s.peekAddr u.owner (u.base + 64 * slot)).getD 0
          let a1 := u.mirrorBase + 64 * slot
          let _ ← physWrite 0x80 a1 bytes
          match u.mirrored with
          | some (j, r, off) =>
            let _ ← mirrorPost j r (off + 64 * slot) bytes none
          | none => pure ()
          let _ ← writeLedger q seq 1 (crc32c bytes) producer 0 key a0 a1
        let held := if gate.isNone ∧ u.remote.isSome then some peerGate else gate
        modQueue q fun u => { u with
          ents := u.ents ++ [⟨seq, slot, ty, producer, safety, leAt payload (4 * u.flowWord) 4, s.clock.now, bound, held⟩]
          next := (seq + 1) % 2 ^ 32
          keys := if key = noKey then u.keys else (u.keys ++ [key]).drop (u.keys.length + 1 - 4096) }
        if gate.isNone then
          (if key = noKey then forwardEntry q seq seq q 0 0 payload else forwardEntry q seq key.seq key.queue key.slot key.index payload)
        msixFor q
        return .ok seq

/-- Append an entry (R444): refused on a pipeline's output queue unless a task of the pipeline appends it, and then withheld by the
gate, or released under the verdict its instance already has. `by_` is the appending task. -/
def appendEntry (q ty : Nat) (payload : List Byte) (producer : Nat) (safety : Bool) (bound : Option (Nat × Nat))
    (by_ : Option Task) (key : OriginKey) : M (Except AppendErr Nat) := do
  let s ← getS
  if s.gateRefuses q by_ then return .error .gated
  else
    let gate := s.gateOf q by_
    match gate.bind s.gateDecided with
    | some (i, v, r) => do
      let form : List Byte → List Byte := fun e => gateBytes e i.stamp i.num v ((gate.getD 0) / 2 ^ 32) r
      acceptEntry q ty payload producer safety bound key none form
    | none => acceptEntry q ty payload producer safety bound key gate id

/-- Raise event 0x4101 for a queue, at most once per 1 ms (R109, R554). -/
def dropEvent (q why : Nat) : M Unit := do
  let s ← getS
  match s.queue q with
  | none => pure ()
  | some u =>
    modQueue q fun u => { u with drops := u.drops + 1 }
    let due := match u.lastDrop with
      | none => true
      | some t => t + msUnits 1 ≤ s.clock.now
    if due then
      modQueue q fun u => { u with lastDrop := some s.clock.now }
      raise 0x80 6 0x4101 (det [(4, q), (1, why)])

/-- A device-sourced entry (R109): dropped on a full queue or a failed ring write. -/
def deviceAppend (q ty : Nat) (payload : List Byte) (producer : Nat) (safety : Bool) : M (List Work) := do
  match ← appendEntry q ty payload producer safety none none noKey with
  | .ok _ => return [.bind q]
  | .error .memory => do dropEvent q 1; return []
  | .error .fenced => do dropEvent q 1; return []
  | .error .none => return []
  | .error .gated => do
    modQueue q fun u => { u with drops := u.drops + 1 }
    return []
  | .error _ => do dropEvent q 0; return []

/-- Offer an event record to a context's own event queue (R136). -/
def offerCtx (h : Nat) (e : EventRec) : M (List Work) := do
  let s ← getS
  match s.ctxAt h with
  | none => return []
  | some c =>
    if c.eventQueue = 0 then return []
    else
      match s.queue c.eventQueue with
      | none => return []
      | some u0 => do
        if u0.evLost ≠ 0 ∧ !u0.full then
          let r := eventBytes s.clock.now u0.evSeq 0x80 6 0x0101 (det [(4, u0.evLost)])
          match ← appendEntry c.eventQueue 3 r u0.owner false none none noKey with
          | .ok _ => modQueue c.eventQueue fun u => { u with evSeq := (u.evSeq + 1) % 2 ^ 32, evLost := 0 }
          | .error _ => pure ()
        let s ← getS
        let u := (s.queue c.eventQueue).getD u0
        let r := eventBytes s.clock.now u.evSeq e.src e.part e.code e.detail
        modQueue c.eventQueue fun u => { u with evSeq := (u.evSeq + 1) % 2 ^ 32 }
        match ← appendEntry c.eventQueue 3 r u.owner false none none noKey with
        | .ok _ => return [.bind c.eventQueue]
        | .error _ => do
          modQueue c.eventQueue fun u => { u with evLost := u.evLost + 1, drops := u.drops + 1 }
          return []

/-- Write the lost-records event when space has returned to an event stream (R136). -/
def flushLost (q : Nat) : M Unit := do
  let s ← getS
  match s.queue q with
  | none => pure ()
  | some u =>
    if u.evLost ≠ 0 ∧ !u.full then
      let r := eventBytes s.clock.now u.evSeq 0x80 6 0x0101 (det [(4, u.evLost)])
      match ← appendEntry q 3 r u.owner false none none noKey with
      | .ok _ => modQueue q fun u => { u with evSeq := (u.evSeq + 1) % 2 ^ 32, evLost := 0 }
      | .error _ => pure ()

/-- An entry leaves its ring (R108); in ledger mode a retire record goes to both homes (R156, R557) unless a close was
written. -/
def leaveEntry (q seq : Nat) : M (List Work) := do
  let s ← getS
  match s.queue q with
  | none => return []
  | some u => do
    if u.ledger ∧ !s.hasRecord q seq 3 then
      let _ ← writeLedger q seq 4 0 0 0 noKey 0 0
    modQueue q fun u => { u with ents := u.ents.filter fun e => e.seq != seq, left := s.clock.now }
    flushLost q
    return [.bind q]

/-! ## Binding (R107) -/

/-- The entry to bind next, if any: in ascending sequence, unbound and not withheld by a gate; under per-flow-key order not one
whose flow key an earlier bound entry of a live task carries. A strict queue stops at its first unbound entry. -/
def bindable (q : Queue) : Option Entry :=
  let free := q.ents.filter fun e => e.bound.isNone
  if q.order = 0 then
    match free with
    | e :: _ => if e.gate.isNone then some e else none
    | [] => none
  else if q.order = 1 then free.find? fun e => e.gate.isNone
  else free.find? fun e => e.gate.isNone &&
    !q.ents.any fun x => x.seq != e.seq && seqBefore x.seq e.seq && x.flow == e.flow
      && (x.bound.isSome || x.gate.isSome)

/-- Bind one entry to the oldest waiting slot of a queue. -/
def bindOne (q : Nat) : M (List Work) := do
  let s ← getS
  match s.queue q with
  | none => return []
  | some u =>
    match u.waiters, bindable u with
    | (t, sl) :: rest, some e => do
      modQueue q fun u => { u with
        waiters := rest
        ents := u.ents.map fun x => if x.seq = e.seq then { x with bound := some (t, sl) } else x }
      modTask t fun k => { k with taken := k.taken ++ [(sl, q, e.seq)] }
      return [.slot t sl false, .bind q]
    | _, _ => return []

end Sys2Proof.Machine
end

