-- ==== Sys2Proof/Machine/Tally.lean ====
section
/-! DEFINITION. Shared operations of Tally: the token board, readiness, ready lists, pre-emption, task ends, substitution
(R51, R73, R74, R90–R93, R119–R126, R155–R160, R243, R365, R368). -/

namespace Sys2Proof.Machine

open Sys2Proof

/-! ## Board keys (R119, R132) -/

/-- The board key of a token key of a context; instance-local and cadence keys belong to the instance. -/
def boardKey (h : Nat) (inst : Option Nat) (k : Nat) : Nat :=
  match inst with
  | some i => if 0xBF0 ≤ k then (2 ^ 20 + i) * 4096 + k else h * 4096 + k
  | none => h * 4096 + k

/-- Token keys of the slots of a descriptor: (slot, key). -/
def keySlots (d : Desc) : List (Nat × Nat) :=
  (List.range 8).filterMap fun n =>
    let w := dSlot d n
    if slotKind w = 2 ∨ slotKind w = 5 then some (n, slotKey w) else none

/-- Board keys a task names: its signal key and its key slots. -/
def namedKeys (h : Nat) (inst : Option Nat) (d : Desc) : List Nat :=
  ((if dSignal d = 0 then [] else [boardKey h inst (dSignal d)])
    ++ (keySlots d).map fun p => boardKey h inst p.2).dedup

/-- Board entries that cadence-bound graphs hold reserved (R134): their instance-local and cadence keys per instance. -/
def Graph.localKeys (g : Graph) : Nat :=
  ((g.tasks.flatMap fun d => ((keySlots d).map (·.2)).filter fun k => 0xBF0 ≤ k).dedup).length

/-- Matching-store entries taken: tasks outside cadence-bound graphs, and the reservations of those graphs and of enabled cairns
(R118, R134, R452). -/
def State.storeTaken (s : State) : Nat :=
  let cadence := fun g => s.isCairn g || ((tblFind s.tally.graphs g).map fun x => x.cadence != 0).getD false
  (s.tally.tasks.filter fun p => match p.2.origin with
    | .inst g _ _ => !cadence g
    | _ => true).length
  + s.tally.graphs.foldl (fun n p => if p.2.cadence = 0 then n else n + p.2.maxInst * p.2.tasks.length) 0
  + s.tally.graphs.foldl (fun n p => if s.isCairn p.1 then n + p.2.tasks.length else n) 0

/-- Size of the matching store, the token board, the waiting delay entries (R48, R119, R129). -/
def storeSize : Nat := 262144
def boardSize : Nat := 524288

/-- Board entries taken. -/
def State.boardTaken (s : State) : Nat :=
  (s.tally.board.filter fun p => p.1 < 2 ^ 32).length
  + s.tally.graphs.foldl (fun n p => if p.2.cadence = 0 then n else n + p.2.maxInst * p.2.localKeys) 0
  + s.tally.graphs.foldl (fun n p => if s.isCairn p.1 then n + p.2.localKeys else n) 0

/-- Free matching-store entries and board entries (TLY_STATUS, R138). -/
def State.storeFree (s : State) : Nat := storeSize - s.storeTaken
def State.boardFree (s : State) : Nat := boardSize - s.boardTaken

/-- Tasks a context has in the store (R117). -/
def State.tasksOf (s : State) (h : Nat) : Nat := (s.tally.tasks.filter fun p => p.2.handle == h).length

/-! ## Events of a task (R90, R97, R98, R548) -/

/-- The origin word of a task (R90). -/
def originWord (o : Origin) : Nat :=
  match o with
  | .enq q _ => q
  | .inst g i _ => g + i * 2 ^ 20 + 2 ^ 31

/-- The sequence of the submitting entry or the instance number. -/
def Origin.seq : Origin → Nat
  | .enq _ s => s
  | .inst _ _ n => n

/-- The common task detail, bytes 20–31 (R100), behind four given bytes 16–19. -/
def taskDetail (first : List (Nat × Nat)) (k : Task) (slot : Nat) : List Byte :=
  padTo 4 (first.flatMap fun p => leBytes p.1 p.2)
    ++ leBytes 3 k.handle ++ leBytes 1 slot ++ leBytes 4 k.origin.seq ++ leBytes 4 (originWord k.origin)

/-- Raise an event attributable to a task (R136): into queue 0 and its context's event queue; the first of class 0x2–0x5 is kept
for the completion record with its sequence in queue 0 (R90). -/
def raiseFor (t src part code : Nat) (detail : List Byte) : M (List Work) := do
  let s ← getS
  let seq := ((s.queue 0).map (·.evSeq)).getD 0
  raise src part code detail
  match s.task t with
  | none => return []
  | some k => do
    if k.firstEvent = 0 ∧ 0x2000 ≤ code ∧ code < 0x6000 then
      modTask t fun k => { k with firstEvent := code, eventSeq := seq }
    offerCtx k.handle ⟨src, part, code, detail⟩

/-! ## Ready lists (R73, R123, R124) -/

/-- Take a task out of every ready list. -/
def unlist (t : Nat) : M Unit :=
  modTally fun x => { x with ready := x.ready.map fun p => (p.1, p.2.filter (· ≠ t)) }

/-- Where a task stands in a list ordered by ready stamp, equal stamps by acceptance. -/
def insertReady (s : State) (t : Nat) : List Nat → List Nat
  | [] => [t]
  | x :: xs =>
    let key := fun i => ((s.task i).map (·.readyAt)).getD 0
    if key t < key x ∨ (key t = key x ∧ t < x) then t :: x :: xs else x :: insertReady s t xs

/-- The first kind of a task, in catalogue order and within its mask, that has a present engine (R123); without KV, a pipeline's
pyramid and warp tasks go to tiles (R443). -/
def State.placeKind (s : State) (k : Task) : Option Nat :=
  let ks := taskKinds k.desc
  let noKv := (s.pipeOfTask k).isSome && !s.present 0x2E && 0x501 ≤ dOpcode k.desc && dOpcode k.desc ≤ 0x504 && ks.contains 0
  (if noKv then [0] else ks).find? fun k => (enginesOf k).any s.present

/-- The priority class a task is listed under: a cairn's is 6 (R452). -/
def State.listClass (s : State) (t : Nat) (k : Task) : Nat := if s.cairnTask t then 6 else dClass k.desc

/-- The ready list of a kind and a priority class. -/
def listKey (kind cls : Nat) : Nat := classOf kind * 8 + cls

/-- Enter a task in its ready list, at its place or at the head; answers whether a kind with a present engine exists. -/
def enlist (t : Nat) (atHead : Bool) : M Bool := do
  let s ← getS
  match s.task t with
  | none => return true
  | some k =>
    match s.placeKind k with
    | none => return false
    | some kind => do
      modTask t fun k => { k with kind := kind, life := if k.life = .preempted then .preempted else .ready }
      let s ← getS
      let key := listKey kind (s.listClass t k)
      let place : List Nat → List Nat := fun l =>
        if s.cairnTask t then (l.takeWhile s.cairnTask) ++ [t] ++ l.dropWhile s.cairnTask
        else (l.takeWhile s.cairnTask) ++ (if atHead then t :: l.dropWhile s.cairnTask else insertReady s t (l.dropWhile s.cairnTask))
      modTally fun x => { x with ready := tblSet x.ready key (place ((tblGet x.ready [] key).filter (· ≠ t))) }
      return true

/-- Whether blocks of a task may be sampled for a checker (R440): pipeline tasks of the tile families that compute. -/
def State.needsSampling (s : State) (k : Task) : Bool :=
  (s.pipeOfTask k).isSome && 0x200 ≤ dOpcode k.desc && dOpcode k.desc < 0x700

/-- Whether an engine may take a ready task (R73, R124, R126, R443, R452): its kind, the checker of a sampled pipeline task, its save area or save store for a pre-empted
task, and a cairn's reservation. -/
def State.eligible (s : State) (e t : Nat) : Bool :=
  match s.task t with
  | none => false
  | some k =>
    kindOf e == k.kind && s.present e && !(kindOf e == 0 && s.needsSampling k && !s.present (0x20 + partOf e))
      && (k.life != .preempted || (if kindOf e = 0 then partOf e == partOf k.engine else e == k.engine))
      && (match (s.engine e).reserved with
          | none => true
          | some i => k.inst == some i)

/-- Whether an engine can be given work: present, not resetting, not behind a fence. -/
def State.serving (s : State) (e : Nat) : Bool :=
  s.present e && !(s.engine (baseEngine e)).resetting && (s.fence (baseEngine e)).isNone && !s.fenced (partOf e)

/-- Engines whose power state follows their use (R499, R500): tiles, V engines, radio engines. -/
def gated (e : Nat) : Bool := e < 0x20 || (0x28 ≤ e && e ≤ 0x2E) || (0x30 ≤ e && e ≤ 0x35)

/-- Save areas of a tile or save store of a checker (R126). -/
def saveLimit (e : Nat) : Nat := if kindOf e = 0 then 4 else if kindOf e = 13 then 2 else 0

/-- Whether a tile's save region holds no failed bank (R223, R486). -/
def State.saveHealthy (s : State) (e : Nat) : Bool :=
  let p := partOf e
  let a := 0x4020000000 + p * 0x1000000 + s.fld (Reg.save p) Fld.saveSlot * 0x200000
  0x20 ≤ e || !s.sys.holes.any fun h => h.1 < a + 0x200000 && a < h.1 + h.2

/-- The priority class of a task in a stall. -/
def State.classOfTask (s : State) (t : Nat) : Nat := ((s.task t).map fun k => dClass k.desc).getD 0

/-- The better of two engines to pre-empt (R126): lower class, then later start, then lower ID. -/
def State.betterVictim (s : State) (a b : Nat) : Nat :=
  let run : Nat → Nat := fun e => (s.engine e).running.getD 0
  let c : Nat → Nat := fun e => s.classOfTask (run e)
  let st : Nat → Nat := fun e => ((s.task (run e)).map (·.runAt)).getD 0
  if c b < c a ∨ (c b = c a ∧ (st a < st b ∨ (st a = st b ∧ b < a))) then b else a

/-- The engine a ready task pre-empts, if R126 lets it. -/
def State.victim (s : State) (t : Nat) : Option Nat :=
  match s.task t with
  | none => none
  | some k =>
    let c := dClass k.desc
    let es := (enginesOf k.kind).filter fun e => s.eligible e t && s.serving e
    if c < s.fld Reg.tlyPreempt Fld.tlyPreemptMinClass ∨ es.any (fun e => (s.engine e).next.isNone) then none
    else
      let vs := es.filter fun e =>
        let g := s.engine e
        (kindOf e == 0 || kindOf e == 13) && g.saved.length < saveLimit e && s.saveHealthy e && !g.preempting
          && (match g.running with
              | some r => s.classOfTask r < c && !s.cairnTask r
              | none => false)
          && (match g.next with
              | some n => s.classOfTask n < c && !s.cairnTask n
              | none => true)
      match vs with
      | [] => none
      | v :: rest => some (rest.foldl s.betterVictim v)

/-- Whether a task's state stands in a save area or save store (R51, R221). -/
def State.isSaved (s : State) (t : Nat) : Bool := s.engines.any fun p => p.2.saved.contains t

/-- Pre-empt for a ready task where R126 applies: the prefetched task returns to the head of its list, the pre-empting task
takes the prefetched stall. -/
def tryPreempt (t : Nat) : M Unit := do
  let s ← getS
  match s.victim t with
  | none => pure ()
  | some e => do
    match (s.engine e).next with
    | some n => do
      modTask n fun k => { k with life := if s.isSaved n then .preempted else .ready, tds := [], params := [], fetched := false }
      let _ ← enlist n true
    | none => pure ()
    unlist t
    modTask t fun k => { k with life := .assigned, engine := e }
    modEngine e fun g => { g with next := some t, preempting := true }

/-! ## Rings (R242, R243, R365) -/

def State.ring (s : State) (key : Nat) : Ring := tblGet s.tally.rings ⟨0, 0, none, false, false, [], [], 0, []⟩ key

def modRing (key : Nat) (f : Ring → Ring) : M Unit :=
  modTally fun x => { x with rings := tblSet x.rings key (f (tblGet x.rings ⟨0, 0, none, false, false, [], [], 0, []⟩ key)) }

/-- A consumer that has ended counts as having released every band (R243). -/
def releasedAll : Nat := 2 ^ 40

/-- Bands released by every declared consumer: consumers not yet accepted have released none. -/
def State.ringCredit (s : State) (key : Nat) : Nat :=
  let r := s.ring key
  let declared := ((tblFind s.hall.bufs (key / 8)).map fun b => b.consumersM1 + 1).getD 1
  if r.consumers.length < declared then r.credit
  else min r.fill (r.consumers.foldl (fun m c => min m c.2) releasedAll)

/-- The Hall flag with a number. -/
def State.hflag (s : State) (f : Nat) : HallFlag := tblGet s.hall.flags flag0 f

def modFlag (f : Nat) (g : HallFlag → HallFlag) : M Unit :=
  update (.hall fun h => { h with flags := tblSet h.flags f (g (tblGet h.flags flag0 f)) })

/-- A crossing of a plain flag (R121): the oldest waiting slot, or held, or lost with event 0x3102. -/
def crossFlag (f : Nat) : M (List Work) := do
  let s ← getS
  match (s.hflag f).waiters with
  | (t, sl) :: rest => do
    modFlag f fun x => { x with waiters := rest }
    return [.slot t sl false]
  | [] =>
    if (s.hflag f).held then do
      raise 0x80 6 0x3102 (det [(4, f)])
      return []
    else do
      modFlag f fun x => { x with held := true }
      return []

/-- What a crossing does to the threshold (R362): it moves on by the period, or no other follows until a new one is written. -/
def rearmFlag (f : Nat) : M Unit :=
  modFlag f fun x => if x.period = 0 then { x with spent := true } else { x with thr := (x.thr + x.period) % 2 ^ 32 }

/-- Advance a flag by 1 on behalf of a context (R361, R362); the BCC's own write is admitted for every owner. -/
def advanceFlag (f h src part : Nat) (byBcc : Bool) : M (List Work) := do
  let s ← getS
  let x := s.hflag f
  if x.mode = 0 ∨ (!byBcc ∧ x.owner ≠ h) then do
    raise 0xB2 4 0x3B02 (det [(4, f), (3, h), (1, src), (1, part)])
    return []
  else do
    let c := (x.count + 1) % 2 ^ 32
    modFlag f fun x => { x with count := c }
    if x.mode = 1 ∧ c = x.thr ∧ !x.spent then do
      rearmFlag f
      crossFlag f
    else return []

/-- Recompute a ring's credit; each band freed advances the credit flag (R242, R361). -/
def settleCredit (key : Nat) : M Unit := do
  let s ← getS
  let r := s.ring key
  let c := s.ringCredit key
  if r.credit < c then
    modRing key fun r => { r with credit := c }
    match tblFind s.hall.bufs (key / 8) with
    | some b => modFlag (b.fillFlag + 2 * (key % 8) + 1) fun x => { x with count := (x.count + (c - r.credit)) % 2 ^ 32 }
    | none => pure ()

/-- A task ends for its rings: as producer its filled bands stay and waiting slots are satisfied, failed where nothing was
filled and it did not complete; as consumer it releases everything (R243, R365). -/
def endRings (t : Nat) (ok : Bool) : M (List Work) := do
  let s ← getS
  match s.task t with
  | none => return []
  | some k => do
    let mut ws : List Work := []
    for (_, key) in k.rings do
      let s ← getS
      let r := s.ring key
      if r.producer = some t then
        modRing key fun r => { r with ended := true, ok := ok, waiters := [] }
        ws := ws ++ r.waiters.map fun (a, b) => Work.slot a b (!ok && r.fill == 0)
      if r.consumers.any fun c => c.1 == t then
        modRing key fun r => { r with consumers := r.consumers.map fun c => if c.1 = t then (t, releasedAll) else c }
        settleCredit key
    return ws

/-! ## Ends (R90–R93, R155–R160) -/

/-- The completion record of a task (R90): 64 bytes. -/
def completionRecord (k : Task) (status stamp : Nat) : List Byte :=
  leBytes 8 stamp ++ leBytes 8 k.start ++ leBytes 4 k.origin.seq ++ leBytes 4 (originWord k.origin)
    ++ leBytes 1 status ++ leBytes 1 k.engine ++ leBytes 1 (min k.preempts 255) ++ leBytes 1 0
    ++ leBytes 4 k.handle ++ leBytes 6 (min k.cycles (2 ^ 48 - 1)) ++ leBytes 2 k.firstEvent
    ++ leBytes 4 (min k.oobReads (2 ^ 32 - 1)) ++ leBytes 4 (min k.oobWrites (2 ^ 32 - 1))
    ++ leBytes 4 k.eventSeq ++ zeros 12

/-- The safety class of a context. -/
def State.safetyOf (s : State) (h : Nat) : Bool := ((s.ctxAt h).map (·.safety)).getD false

/-- Write a completion record and append its entry (R90); the writer is the last engine, or Tally. -/
def deliverCompletion (h who : Nat) (record : List Byte) (cpl : Nat) (notify : Option Nat) : M (List Work) := do
  let s ← getS
  if cpl ≠ 0 then
    let _ ← ctxWrite who h cpl record
  match notify with
  | some q => deviceAppend q 2 (record.take 48) ((s.queue q).map (·.owner) |>.getD h) (s.safetyOf h)
  | none => return []

/-- Free board entries that hold no token and no waiter and that no task names (R119). -/
def freeBoard : M Unit := do
  let s ← getS
  let named := s.tally.tasks.flatMap fun p => namedKeys p.2.handle p.2.inst p.2.desc
  modTally fun x => { x with board := x.board.filter fun p =>
    !(p.2.waiters.isEmpty && p.2.ok == 0 && p.2.failed == 0 && !named.contains p.1) }

/-- Whether the templates of an instance that write copy 0 of a record have all ended, and whether any failed (R368). -/
def State.prevDone (s : State) (g rec num : Nat) : Option Bool :=
  match tblFind s.tally.graphs g with
  | none => some true
  | some x =>
    let writers := (List.range x.tasks.length).filter fun j =>
      let d := x.tasks.getD j []
      (List.range 4).any fun n => s.hallSlot x.owner d (8 + n) == some (rec, 0)
    let live := s.tally.instances.any fun p => p.2.tmpl == g && p.2.number == num
    let ends := x.past.filter fun r => r.1 == num
    if !live && ends.isEmpty then some true
    else
      let res := writers.map fun j => (ends.find? fun r => r.2.1 == j).map fun r => r.2.2
      if res.all Option.isSome then some (res.any fun r => r == some false) else none

/-- Slots whose previous-copy token has become known (R368). -/
def prevTokens (g : Nat) : M (List Work) := do
  let s ← getS
  let mut ws : List Work := []
  for (t, k) in s.tally.tasks do
    match k.origin with
    | .inst g' _ _ =>
      if g' = g then
        for (sl, r, n) in k.prev do
          match s.prevDone g r n with
          | some failed => do
            modTask t fun k => { k with prev := k.prev.filter fun p => p.1 != sl || p.2.1 != r }
            ws := ws ++ [.slot t (16 + sl) failed]
          | none => pure ()
    | _ => pure ()
  return ws

/-- Remove a task from the store and every list, stall and save area that holds it. -/
def forget (t : Nat) : M Unit := do
  unlist t
  let s ← getS
  for (e, g) in s.engines do
    if g.running = some t then modEngine e fun g => { g with running := none, since := s.clock.now, preempting := false }
    if g.next = some t then modEngine e fun g => { g with next := none, preempting := false }
    if g.saved.contains t then modEngine e fun g => { g with saved := g.saved.filter (· ≠ t) }
  modTally fun x => { x with
    tasks := tblDel x.tasks t
    delay := x.delay.filter fun e => e.task != some t
    board := x.board.map fun p => (p.1, { p.2 with waiters := p.2.waiters.filter fun w => w.1 != t })
    queues := x.queues.map fun p => (p.1, { p.2 with waiters := p.2.waiters.filter fun w => w.1 != t })
    instances := (x.instances.map fun p => (p.1, { p.2 with live := p.2.live.filter (· ≠ t) })).filter
      fun p => !p.2.live.isEmpty }
  update (.hall fun h => { h with flags := h.flags.map fun p =>
    (p.1, { p.2 with waiters := p.2.waiters.filter fun w => w.1 != t }) })
  freeBoard

/-- Whether the entry of a staged task already has a commit or close record (R160). -/
def State.settled (s : State) (q seq : Nat) : Bool := s.hasRecord q seq 2 || s.hasRecord q seq 3

/-- The source of an event of a task's end: the engine, but WRP for its own codes (R323). -/
def countSource (eng code : Nat) : Nat := if code = 0x2801 ∨ code = 0x8801 then 0x2A else eng

/-- A task ends with a status (R51, R90–R93, R97, R108, R155–R157): class 0x2 events, completion record and entry, signal token
with its failed mark, entries leaving their rings; a staged task commits (its effects held for release) or is
closed. -/
def endTask (t status : Nat) : M (List Work) := do
  let s ← getS
  match s.task t with
  | none => return []
  | some k0 => do
    let mut ws : List Work := []
    let eng := k0.engine
    for (sl, code, n) in k0.counts do
      let src := countSource eng code
      ws := ws ++ (← raiseFor t src (partOf src) code (taskDetail [(4, n)] k0 sl))
    let s ← getS
    let k := (s.task t).getD k0
    let ok := status == 0
    let now := s.clock.now
    let record := completionRecord k status now
    let who := if eng = 0xFF then 0x80 else eng
    let notify := if dNotify k.desc then some (dNotifyQueue k.desc) else none
    let key := if dSignal k.desc = 0 then 0 else boardKey k.handle k.inst (dSignal k.desc)
    ws := ws ++ (← endRings t ok)
    modCtx k.handle fun c => { c with
      ended := tblSet c.ended status (satAdd 48 (tblGet c.ended 0 status) 1)
      cycles := tblSet c.cycles (kindOf eng) (satAdd 48 (tblGet c.cycles 0 (kindOf eng)) k.cycles) }
    let staged := dStaged k.desc
    match k.origin with
    | .enq q seq =>
      if staged ∧ ok then
        if s.settled q seq then do
          raise 0x80 6 0x0202 (det [(4, q), (4, seq)])
          ws := ws ++ (← leaveEntry q seq)
        else
          modTally fun x => { x with heldLists := x.heldLists ++
            [⟨q, seq, t, k.handle, status, record, dCpl k.desc, notify, key,
              k.effects ++ (if key = 0 then [] else [(.token, false)]) ++ [(.completion, false)], false⟩] }
      else do
        if staged ∧ !s.settled q seq then
          let _ ← writeLedger q seq 3 0 0 status noKey 0 0
        if key ≠ 0 then ws := ws ++ [.token key (!ok)]
        ws := ws ++ (← deliverCompletion k.handle who record (dCpl k.desc) notify)
        ws := ws ++ (← leaveEntry q seq)
    | .inst g j n => do
      if key ≠ 0 then ws := ws ++ [.token key (!ok)]
      match k.inst with
      | some i => do
        ws := ws ++ [.token ((2 ^ 20 + i) * 4096 + 0xC00 + j) (!ok)]
        safeEnded k g j n i ok (((tblFind s.tally.instances i).map (·.live)) == some [t])
      | none => pure ()
      ws := ws ++ (← deliverCompletion k.handle who record (dCpl k.desc) notify)
      modTally fun x => { x with graphs := match tblFind x.graphs g with
        | some gr => tblSet x.graphs g { gr with past :=
            (gr.past.filter fun r => r.1 + 16 > n ∨ n < 16) ++ [(n, j, ok)] }
        | none => x.graphs }
    for (_, q, seq) in k.taken do
      ws := ws ++ (← leaveEntry q seq)
    if dOpcode k.desc / 256 = 8 then noteStep t k ok staged
    forget t
    if dOpcode k.desc / 256 = 8 then settleJobs k.handle
    match k.origin with
    | .inst g _ _ => ws := ws ++ (← prevTokens g)
    | _ => pure ()
    return ws

/-- A communication task that needs a lost rank ends aborted with event 0x4D03 (R426). -/
def endLost (t : Nat) (k : Task) (j r reason : Nat) : M (List Work) := do
  let w ← raiseFor t 0xB1 6 0x4D03 (taskDetail [(1, r), (1, reason), (1, j), (1, 0)] k 0xFF)
  return w ++ (← endTask t 1)

/-- A task has all its operand tokens (R120, R73, R102): a failed one ends cancelled; family 0x00 waits for Tally; one that needs a lost
rank ends aborted (R426); others enter their ready list, or end with no eligible engine and event 0x4004. -/
def makeReady (t : Nat) : M (List Work) := do
  let s ← getS
  match s.task t with
  | none => return []
  | some k =>
    if k.failed then endTask t 4
    else do
      modTask t fun k => { k with readyAt := if k.readyAt = 0 then s.clock.now else k.readyAt }
      if dOpcode k.desc < 0x100 then do
        modTask t fun k => { k with life := .tally }
        return []
      else
        match s.lostFor k with
        | some (j, r, reason) => endLost t k j r reason
        | none =>
          if ← enlist t false then do
            tryPreempt t
            return []
          else do
            let w ← raiseFor t 0x80 6 0x4004 (taskDetail [(1, (taskKinds k.desc).headD 0)] k 0xFF)
            return w ++ (← endTask t 5)

/-- One slot of a task is satisfied (R120). -/
def satisfy (t sl : Nat) (failed : Bool) : M (List Work) := do
  let s ← getS
  match s.task t with
  | none => return []
  | some k =>
    if !k.missing.contains sl then return []
    else do
      modTask t fun k => { k with missing := k.missing.filter (· ≠ sl), failed := k.failed || failed }
      if k.missing = [sl] then makeReady t else return []

/-- A token reaches its board entry (R120): the oldest waiter, or a count; beyond 65,535 it is lost with event 0x3101. -/
def onToken (key : Nat) (failed : Bool) : M (List Work) := do
  let s ← getS
  let e := tblGet s.tally.board ⟨[], 0, 0⟩ key
  let lost : M (List Work) := do
    raise 0x80 6 0x3101 (det [(4, key / 4096 % 2 ^ 20 + key % 4096 * 2 ^ 20)])
    return []
  match e.waiters with
  | (t, sl) :: rest => do
    modTally fun x => { x with board := tblSet x.board key { e with waiters := rest } }
    satisfy t sl failed
  | [] =>
    if failed then
      (if 65535 ≤ e.failed then lost
       else do
        modTally fun x => { x with board := tblSet x.board key { e with failed := e.failed + 1 } }
        return [])
    else
      (if 65535 ≤ e.ok then lost
       else do
        modTally fun x => { x with board := tblSet x.board key { e with ok := e.ok + 1 } }
        return [])

/-- Do one piece of work. -/
def doWork : Work → M (List Work)
  | .token key failed => onToken key failed
  | .slot t sl failed => satisfy t sl failed
  | .bind q => bindOne q

/-- Do work until none is left, within a bound. -/
def settle : Nat → List Work → M Unit
  | 0, _ => pure ()
  | _ + 1, [] => pure ()
  | n + 1, w :: ws => do
    let more ← doWork w
    settle n (more ++ ws)

/-- Whether a tile has no task in a stall and holds no pre-empted task (R199). -/
def State.tileIdle (s : State) (n : Nat) : Bool :=
  let g := s.engine n
  g.running.isNone && g.next.isNone && g.saved.isEmpty

/-- A tile's staging banks change (R199); banks that staging gives up hold what it left in them, which is open. -/
def setStaging (n v : Nat) : M Unit := do
  let s ← getS
  let old := (s.engine n).staging
  modEngine n fun g => { g with staging := v }
  if v < old then
    let bs ← freshBytes ((old - v) * 0x20000)
    update (.mem (0x4000000000 + n * 0x800000 + v * 0x20000) bs)
  wrFld (Reg.ttTmem n) Fld.ttTmemPending 0

/-- Staging values that await an idle tile take effect (R199). -/
def applyStaging : M Unit := do
  let s ← getS
  for (off, w) in s.regs do
    let n := (off - Reg.ttTmem 0) / 0x1000
    if Reg.ttTmem 0 ≤ off ∧ off ≤ Reg.ttTmem 31 ∧ off % 0x1000 = 8
        ∧ getBits w Fld.ttTmemPending.lsb 1 = 1 ∧ s.tileIdle n then
      setStaging n (getBits w Fld.ttTmemStagingBanks.lsb Fld.ttTmemStagingBanks.width)

/-- Do all the work that follows from a list (each task ends at most once, and each entry binds at most once, so the bound
is never reached). -/
def settleAll (ws : List Work) : M Unit := do
  let s ← getS
  let n := s.tally.tasks.length
  let m := s.tally.queues.foldl (fun a p => a + p.2.ents.length) 0
  settle (16 * (n + m + ws.length) + 64) ws
  applyStaging

/-- A task ends, and everything that follows from it. -/
def finish (t status : Nat) : M Unit := do
  settleAll (← endTask t status)

/-! ## Presence and substitution (R72–R74, R125) -/

/-- The kind that replaces an absent kind in the catalogue: tiles, where any operation of the kind lists them. -/
def substituteOf (k : Nat) : Option Nat :=
  if catalogue.any fun r => r.kinds.head? == some k && r.kinds.contains 0 && k != 0 then some 0 else none

/-- After engines became absent or present: prefetched tasks of absent engines return to the heads of their lists, ready tasks are
placed again or end with no eligible engine, substitution begins and ends with its events. -/
def presenceChanged : M Unit := do
  let s ← getS
  for e in taskEngines ++ channelsOf 0x28 ++ channelsOf 0x31 do
    if !s.present e then
      match (s.engine e).next with
      | some t => do
        modEngine e fun g => { g with next := none, preempting := false }
        modTask t fun k => { k with life := if s.isSaved t then .preempted else .ready, tds := [], params := [], fetched := false }
        let _ ← enlist t true
      | none => pure ()
  for k in List.range 15 do
    let absent := !(enginesOf k).any s.present
    match substituteOf k with
    | some sub =>
      if absent ∧ !s.tally.subst.any (fun p => p.1 == k) then
        modTally fun x => { x with subst := x.subst ++ [(k, sub)] }
        raise 0x80 6 0x0002 (det [(1, k), (1, sub)])
      if !absent ∧ s.tally.subst.any (fun p => p.1 == k) then
        modTally fun x => { x with subst := x.subst.filter fun p => p.1 != k }
        raise 0x80 6 0x0003 (det [(1, k), (1, sub)])
    | none => pure ()
  let s ← getS
  for (t, k) in s.tally.tasks do
    if k.life = .ready ∧ s.placeKind k ≠ some k.kind then
      unlist t
      if !(← enlist t false) then
        let w ← raiseFor t 0x80 6 0x4004 (taskDetail [(1, (taskKinds k.desc).headD 0)] k 0xFF)
        let w2 ← endTask t 5
        settleAll (w ++ w2)

end Sys2Proof.Machine
end

