-- ==== Sys2Proof/Machine/Faults.lean ====
section
/-! DEFINITION. Shared operations on faults in mid-stream: chains, holds, replay (R245–R247, R468). -/

namespace Sys2Proof.Machine

open Sys2Proof

/-- Whether a consumer of a ring has read anything of it (R245). -/
def State.hasRead (s : State) (t : Nat) (released : Nat) : Bool :=
  released != 0 || ((s.task t).map fun k => k.done || k.steps != 0).getD false

/-- Live consumers of the rings a task produces, with whether each has read: (task, ring key, read). -/
def State.ringReaders (s : State) (t : Nat) : List (Nat × Nat × Bool) :=
  s.tally.rings.flatMap fun (key, r) =>
    if r.producer = some t then
      (r.consumers.filter fun c => c.2 < releasedAll && (s.task c.1).isSome).map
        fun c => (c.1, key, s.hasRead c.1 c.2)
    else []

/-- The chain of a faulting task (R245): everything that has read from it, directly or through others. -/
def State.chain (s : State) : Nat → List Nat → List Nat
  | 0, c => c
  | n + 1, c =>
    let more := (c.flatMap fun t => ((s.ringReaders t).filter fun r => r.2.2).map (·.1)).filter fun t => !c.contains t
    if more.isEmpty then c else s.chain n (c ++ more.dedup)

/-- Take a task out of its stall or save area, keeping it in the matching store. -/
def unstall (t : Nat) : M Unit := do
  unlist t
  let s ← getS
  for (e, g) in s.engines do
    if g.running = some t then modEngine e fun g => { g with running := none, since := s.clock.now, preempting := false }
    if g.next = some t then modEngine e fun g => { g with next := none, preempting := false }
    if g.saved.contains t then modEngine e fun g => { g with saved := g.saved.filter (· ≠ t) }

/-- Forget what a run of a task has formed, so that it can run again from its start. -/
def rewind (k : Task) : Task :=
  { k with tds := [], params := [], done := false, steps := 0, counts := [], oobReads := 0, oobWrites := 0,
           appended := 0, pendingAppends := [], effects := [],
           fetched := false, ringIn := [], ringOut := [] }

/-- A stopped consumer that has read nothing returns to waiting for its slot (R245). -/
def backToWaiting (t key : Nat) : M Unit := do
  unstall t
  let s ← getS
  match s.task t with
  | none => pure ()
  | some k =>
    let sl := ((k.rings.find? fun r => r.2 == key).map (·.1)).getD 0
    modTask t fun k => { rewind k with life := .waiting, missing := [sl] }
    modRing key fun r => { r with waiters := r.waiters ++ [(t, sl)] }

/-- Whether a task has appended an entry that was not held under R155. -/
def Task.appendedNow (k : Task) : Bool := k.appended != 0 && !dStaged k.desc

/-- End a chain without replay (R247): the faulting task with the given status, the others poisoned, event 0x4502. -/
def endChain (chain : List Nat) (status hold reason : Nat) : M Unit := do
  let s ← getS
  match chain with
  | [] => pure ()
  | t :: rest =>
    match s.task t with
    | none => pure ()
    | some k => do
      let w ← raiseFor t 0x80 6 0x4502
        (taskDetail [(2, hold), (1, reason), (1, min chain.length 255)] k 0xFF)
      settleAll w
      for x in chain do unstall x
      finish t status
      for x in rest do finish x 2

/-- Stop a task on a fault in mid-stream (R245): its chain is held where R246 lets it, else it ends (R247). `fence` and `page`
say whether the fault is of a kind that can be held. -/
def faultTask (t : Nat) (page fence : Bool) (status : Nat) : M Unit := do
  let s ← getS
  match s.task t with
  | none => pure ()
  | some k => do
    let chain := s.chain (s.tally.tasks.length + 1) [t]
    for p in chain do
      let s ← getS
      for (c, key, read) in s.ringReaders p do
        let inStall := ((s.task c).map fun k => k.life == .running || k.life == .assigned).getD false
        if !read && inStall then backToWaiting c key
    let s ← getS
    let id := lowestFree (fun i => (tblFind s.tally.holds i).isSome) 1024 0
    let appended := chain.any fun x => ((s.task x).map Task.appendedNow).getD false
    let replay := chain.findSome? fun x => (s.task x).bind (·.replayed)
    if replay.isSome then endChain chain status (replay.getD 0xFFFF) 2
    else if !(page || fence) || appended then endChain chain status 0xFFFF 0
    else
      match id with
      | none => endChain chain status 0xFFFF 4
      | some i => do
        let reason := if page then 0 else 1
        modTally fun x => { x with holds := tblSet x.holds i ⟨chain, reason, s.clock.now, none⟩ }
        for x in chain do
          unstall x
          modTask x fun k => { k with life := .held }
        let w ← raiseFor t 0x80 6 0x4501 (taskDetail [(2, i), (1, reason), (1, min chain.length 255)] k 0xFF)
        settleAll w

/-- A fault found by an access of a task. -/
def opFault (t : Nat) (e : MemErr) : M Unit :=
  faultTask t (e == .page) (e == .fence) 1

/-- Resume a held chain (R246): its rings empty, its tasks ready again with their ready stamps, event 0x0501. -/
def resumeHold (i : Nat) : M Unit := do
  let s ← getS
  match tblFind s.tally.holds i with
  | none => pure ()
  | some h => do
    modTally fun x => { x with holds := tblDel x.holds i }
    match h.chain with
    | [] => pure ()
    | t :: _ =>
      match s.task t with
      | none => pure ()
      | some k => do
        let w ← raiseFor t 0x80 6 0x0501 (taskDetail [(2, i), (1, 0), (1, min h.chain.length 255)] k 0xFF)
        settleAll w
        for x in h.chain do
          let s ← getS
          match s.task x with
          | none => pure ()
          | some k =>
            for (_, key) in k.rings do
              if (s.ring key).producer = some x then
                let again : List (Nat × Nat) := (s.ring key).consumers.map fun c => (c.1, 0)
                modRing key fun r => { r with fill := 0, credit := 0, ended := false, ok := false, consumers := again }
            modTask x fun k => { rewind k with replayed := some i, life := .ready }
        for x in h.chain do
          let w ← makeReady x
          settleAll w

/-- Resume the chains held for a fence response that a domain's return ends (R246, R463): those held for its reset, and, once no
partition or die is fenced, those held for fence responses met by accesses. -/
def resumeFenceHolds (dom : Nat) : M Unit := do
  let s ← getS
  let open_ := !s.rcv.fences.any fun p => 0x100 ≤ p.1 && p.1 ≤ 0x300
  for (i, h) in s.tally.holds do
    if h.reason = 1 ∧ (h.dom = some dom ∨ (h.dom = none ∧ open_)) then resumeHold i

/-- A task that a reset at rung 2 or 3 meets is interrupted (R468): the faulting task of a chain whose fault is a fence response; a
staged task is readied again even where its chain cannot be held. Its hold resumes when the domain `dom` returns. Answers whether a chain was held. -/
def interruptTask (t dom : Nat) : M Bool := do
  let s ← getS
  match s.task t with
  | none => return false
  | some k =>
    let chain := s.chain (s.tally.tasks.length + 1) [t]
    let free := (lowestFree (fun i => (tblFind s.tally.holds i).isSome) 1024 0).isSome
    let appended := chain.any fun x => ((s.task x).map Task.appendedNow).getD false
    if dStaged k.desc ∧ (appended ∨ !free ∨ k.replayed.isSome) then do
      unstall t
      modTask t fun k => { rewind k with life := .ready }
      let w ← makeReady t
      settleAll w
      return false
    else do
      faultTask t false true 1
      modTally fun x => { x with holds := x.holds.map fun p =>
        if p.2.chain.head? = some t then (p.1, { p.2 with dom := some dom }) else p }
      let s' ← getS
      return (s'.task t).isSome

end Sys2Proof.Machine
end

