-- ==== Sys2Proof/Machine/Submit.lean ====
section
/-! DEFINITION. Task checks at enqueue (R52, R84–R87, R91–R93, R102, R103, R115, R550), resources (R117–R119, R134) and acceptance
(R51, R88, R120, R121, R364–R368). -/

namespace Sys2Proof.Machine

open Sys2Proof

/-- One broken rule: status code and the byte offset of the offending field in the task descriptor. -/
abbrev Violation := Nat × Nat

/-- Violations of a condition list. -/
def viol (l : List (Bool × Nat × Nat)) : List Violation := (l.filter (·.1)).map (·.2)

/-- Whether a context may enqueue on a queue: its owner, or a live grantee (R79). -/
def State.mayEnqueue (s : State) (h q : Nat) : Bool :=
  match s.queue q with
  | none => false
  | some u => u.owner == h || (u.grants.contains h && (s.ctx h).isSome)

/-- Violations of one operand slot's own encoding (R85). -/
def slotEncoding (n w : Nat) : List Violation :=
  let off := 0x20 + 8 * n
  let high := bitsOf w 60 4 != 0 || bitsOf w 4 2 != 0
  let key := bitsOf w 48 12
  let addr := bitsOf w 6 42
  match slotKind w with
  | 0 => viol [(w != 0, 0x12, off)]
  | 1 => viol [(high || key != 0, 0x12, off)]
  | 2 => viol [(high || key == 0, 0x12, off)]
  | 3 => viol [(high, 0x12, off)]
  | 4 => viol [(high || key != 0 || bitsOf w 26 22 != 0, 0x12, off)]
  | 5 => viol [(high || key == 0 || addr != 0, 0x12, off)]
  | _ => [(0x12, off)]

/-- Whether an address field is good for a 64-byte-aligned block of some bytes in a buffer of the context (R87). -/
def State.goodBlock (s : State) (h a n : Nat) : Bool := a % 64 == 0 && canonical a && s.inBuffer h a n

/-- Violations of one slot against its context (R52, R85, R87, R360). -/
def slotObjects (s : State) (h : Nat) (op n w : Nat) : List Violation :=
  let off := 0x20 + 8 * n
  let phys := ((s.ctx h).map (·.physical)).getD false
  let a := slotAddr w
  let td := viol [(s.inDereg h a, 0x16, off), (!s.inBuffer h a 64 || (phys && 2 ^ 40 ≤ a), 0x17, off)]
  match slotKind w with
  | 1 => td
  | 2 => td
  | 3 =>
    let f := s.hflag (slotKey w)
    td ++ viol [(f.mode == 0 || f.mode == 3, 0x19, off), (f.owner != h, 0x15, off)]
  | 4 =>
    if n < 8 then viol [(((s.queue (slotQueue w)).map (·.owner)) != some h, 0x15, off)]
    else viol [(op == 3 && !s.mayEnqueue h (slotQueue w), 0x15, off)]
  | _ => []

/-- Violations of the operand arrangement (R86, R103, R550). -/
def arrangement (d : Desc) (r : OpRow) : List Violation :=
  let ni := dataInputs d
  let no := dataOutputs d
  viol [(ni < r.inReq || r.inReq + r.inOpt < ni, 0x19, 0x20 + 8 * min ni (r.inReq + r.inOpt)),
        (no < r.outReq || r.outReq + r.outOpt < no, 0x19, 0x60 + 8 * min no (r.outReq + r.outOpt))]
  ++ ((List.range 8).filter (fun n => ni ≤ n)).flatMap (fun n =>
      let k := slotKind (dSlot d n)
      viol [(k != 0 && k != 5, 0x19, 0x20 + 8 * n)])
  ++ ((List.range 4).flatMap fun j =>
      let n := 8 + j
      let k := slotKind (dSlot d n)
      viol [(no ≤ j && k != 0, 0x19, 0x20 + 8 * n),
            (j < no && (if r.opcode = 3 then k != 4 else k != 1) && k < 6, 0x19, 0x20 + 8 * n)])

/-- Every broken rule of a task descriptor (R52); `h` is the producer's handle, `ledgerQ` whether it is submitted from a
queue in ledger mode. -/
def taskViolations (s : State) (h : Nat) (ledgerQ : Bool) (d : Desc) : List Violation :=
  let op := dOpcode d
  let c := s.ctx h
  let ceiling := (c.map (·.ceiling)).getD 0
  let safety := (c.map (·.safety)).getD false
  let phys := (c.map (·.physical)).getD false
  let row := opRow op
  let psize := (row.map (·.params)).getD 0
  viol [(row.isNone, 0x10, 0),
    (3 < dLevel d, 0x11, 2),
    (match row with | some r => dLevel d < r.level && dLevel d ≤ 3 | none => false, 0x11, 2),
    (dLevel d < 2, 0x12, 2),
    (bitAt (leAt d 0 4) 23, 0x12, 2),
    (bitsOf (leAt d 0 4) 28 4 != 0, 0x12, 3),
    (bitAt (leAt d 8 4) 15, 0x12, 9),
    (bitsOf (leAt d 12 4) 20 12 != 0, 0x12, 0x0E),
    (ceiling < dClass d || (dClass d == 6 && !safety), 0x13, 2),
    (row.isSome && (if op < 0x100 then dKindMask d != 0 else (taskKinds d).isEmpty), 0x14, 8),
    (dHandle d % 4096 != h % 4096, 0x15, 4),
    (dHandle d % 4096 == h % 4096 && dHandle d != h, 0x18, 4),
    (dNotify d && !s.mayEnqueue h (dNotifyQueue d), 0x15, 0x0C),
    (dCpl d != 0 && s.inDereg h (dCpl d), 0x16, 0x10),
    (dParam d != 0 && s.inDereg h (dParam d), 0x16, 0x18),
    (dCpl d != 0 && (!s.goodBlock h (dCpl d) 64 || (phys && 2 ^ 40 ≤ dCpl d)), 0x17, 0x10),
    (dParam d != 0 && (!s.goodBlock h (dParam d) (max psize 1) || (phys && 2 ^ 40 ≤ dParam d)), 0x17, 0x18),
    (dStaged d && !ledgerQ, 0x19, 3),
    (dCheckEvery d && !safety, 0x19, 3),
    (!dOwnBudget d && dBudgetM1 d != 0, 0x19, 0x0A),
    (!dNotify d && dNotifyQueue d != 0, 0x19, 0x0C),
    (row.isSome && ((psize == 0) != (dParam d == 0)), 0x19, 0x18)]
  ++ ((List.range 12).flatMap fun n => slotEncoding n (dSlot d n))
  ++ ((List.range 12).flatMap fun n => slotObjects s h op n (dSlot d n))
  ++ (match row with | some r => arrangement d r | none => [])

/-- The lowest code among violations, with the first offending field of that code (R92, R100). -/
def lowestViolation : List Violation → Option Violation
  | [] => none
  | v :: vs =>
    match lowestViolation vs with
    | none => some v
    | some w => if v.1 < w.1 ∨ (v.1 = w.1 ∧ v.2 ≤ w.2) then some v else some w

/-- The Hall ring a slot of a task uses: (slot, ring key), in instance number k (R364, R367). -/
def State.ringSlots (s : State) (h : Nat) (d : Desc) (k : Nat) : List (Nat × Nat) :=
  (List.range 12).filterMap fun n =>
    match s.hallSlot h d n with
    | some (r, c) =>
      match tblFind s.hall.bufs r with
      | some b => if b.ring then some (n, ringKey r (b.copy c k)) else none
      | none => none
    | none => none

/-- Whether an output ring copy still has a producer or consumer that has not ended (R365). -/
def State.ringBusy (s : State) (h : Nat) (d : Desc) (k : Nat) : Bool :=
  (s.ringSlots h d k).any fun p => 8 ≤ p.1 &&
    (let r := s.ring p.2
     (r.producer.isSome && !r.ended) || r.consumers.any fun c => c.2 < releasedAll && (s.task c.1).isSome)

/-- Whether the store, the board and the quota have room for some tasks of a context (R117–R119). `inst` tells the
instance when the tasks are a graph's; reserved tasks of a cadence-bound graph draw on its own reservation (R134). -/
def State.hasRoom (s : State) (h : Nat) (inst : Option Nat) (reserved : Bool) (ds : List Desc) : Bool :=
  let low := (ds.filter fun d => dClass d < 6).length
  let resv := s.fld Reg.tlyResvHi Fld.tlyResvHiEntries
  let keys := ((ds.flatMap fun d => namedKeys h inst d).dedup).filter fun k => (tblFind s.tally.board k).isNone
  let quota := ((s.ctx h).map (·.quota)).getD 0
  s.tasksOf h + ds.length ≤ quota
    && (reserved || (ds.length ≤ s.storeFree && (low == 0 || low + resv ≤ s.storeFree) && keys.length ≤ s.boardFree))

/-- Take one key slot of a newly accepted task (R120): a pending failed token, else a pending ok token, else wait. -/
def acceptKeySlot (t sl key : Nat) : M (List Work) := do
  let s ← getS
  let e := tblGet s.tally.board ⟨[], 0, 0⟩ key
  let put := fun (b : Board) => modTally fun x => { x with board := tblSet x.board key b }
  if 0 < e.failed then do
    put { e with failed := e.failed - 1 }
    return [.slot t sl true]
  else if 0 < e.ok then do
    put { e with ok := e.ok - 1 }
    return [.slot t sl false]
  else do
    put { e with waiters := e.waiters ++ [(t, sl)] }
    return []

/-- A slot on a plain flag (R121): the held crossing, or wait. -/
def plainFlagSlot (t sl flag : Nat) (s : State) : M (List Work) := do
  if (s.hflag flag).held then do
    modFlag flag fun x => { x with held := false }
    return [.slot t sl false]
  else do
    modFlag flag fun x => { x with waiters := x.waiters ++ [(t, sl)] }
    return []

/-- Take one flag slot of a newly accepted task (R121, R365, R367). -/
def acceptFlagSlot (t sl flag : Nat) (k : Task) (num : Nat) : M (List Work) := do
  let s ← getS
  match s.hallSlot k.handle k.desc sl with
  | some (r, c) =>
    match tblFind s.hall.bufs r with
    | some b =>
      if b.ring then do
        let key := ringKey r (b.copy c num)
        modRing key fun x => { x with consumers := x.consumers ++ [(t, 0)] }
        let x := s.ring key
        if 1 ≤ x.fill then return [.slot t sl false]
        else if x.ended then return [.slot t sl (!x.ok)]
        else do
          modRing key fun x => { x with waiters := x.waiters ++ [(t, sl)] }
          return []
      else plainFlagSlot t sl flag s
    | none => plainFlagSlot t sl flag s
  | none => plainFlagSlot t sl flag s

/-- A new task as it enters the matching store (R51, R88). -/
def newTask (h : Nat) (d : Desc) (o : Origin) (inst : Option Nat) (missing : List Nat) (rings : List (Nat × Nat))
    (prev : List (Nat × Nat × Nat)) : Task where
  desc := d
  handle := h
  origin := o
  inst := inst
  life := .waiting
  missing := missing
  failed := false
  readyAt := 0
  kind := 15
  engine := 0xFF
  start := 0
  preempts := 0
  cycles := 0
  firstEvent := 0
  eventSeq := 0
  oobReads := 0
  oobWrites := 0
  counts := []
  tds := []
  params := []
  taken := []
  done := false
  steps := 0
  used := 0
  runAt := 0
  appended := 0
  pendingAppends := []
  effects := []
  replayed := none
  rings := rings
  prev := prev
  fetched := false
  ringIn := []
  ringOut := []
  stop := 0

/-- Previous-copy inputs of an instance task (R368): slots naming copy c ≠ 0 of a buffer of n copies wait for instance
k − (n − c). -/
def State.prevInputs (s : State) (h : Nat) (d : Desc) (k : Nat) : List (Nat × Nat × Nat) :=
  (List.range 8).filterMap fun n =>
    match s.hallSlot h d n with
    | some (r, c) =>
      match tblFind s.hall.bufs r with
      | some b => if c = 0 then none else some (n, r, (k + 2 ^ 32 - (b.copiesM1 + 1 - c)) % 2 ^ 32)
      | none => none
    | none => none

/-- Accept a task into the matching store as waiting (R51, R119, R365), without taking its tokens; answers its number. -/
def storeTask (h : Nat) (d : Desc) (o : Origin) (inst : Option Nat) : M Nat := do
  let s ← getS
  let t := s.tally.nextTask
  let num := match o with | .inst _ _ n => n | _ => 0
  let prev := if inst.isSome then s.prevInputs h d num else []
  let missing := ((List.range 8).filter fun n =>
      let k := slotKind (dSlot d n)
      2 ≤ k && k ≤ 5) ++ prev.map fun p => 16 + p.1
  let rings := s.ringSlots h d num
  modTally fun x => { x with
    tasks := tblSet x.tasks t (newTask h d o inst missing rings prev)
    nextTask := t + 1
    board := (namedKeys h inst d).foldl
      (fun b k => match tblFind b k with
        | some _ => b
        | none => tblSet b k ⟨[], 0, 0⟩) x.board }
  for (n, key) in rings do
    if 8 ≤ n then
      modRing key fun _ => ⟨0, 0, some t, false, false, [], [], s.clock.now, []⟩
  return t

/-- Take the tokens that already await an accepted task, slot by slot; a task that lacks none becomes ready (R120). -/
def takeTokens (t : Nat) : M (List Work) := do
  let s ← getS
  match s.task t with
  | none => return []
  | some k => do
    let num := match k.origin with | .inst _ _ n => n | _ => 0
    let mut ws : List Work := []
    for n in List.range 8 do
      let w := dSlot k.desc n
      if slotKind w = 2 ∨ slotKind w = 5 then
        ws := ws ++ (← acceptKeySlot t n (boardKey k.handle k.inst (slotKey w)))
      if slotKind w = 3 then
        ws := ws ++ (← acceptFlagSlot t n (slotKey w) k num)
      if slotKind w = 1 ∨ slotKind w = 2 then
        match k.rings.find? fun r => r.1 == n with
        | some (_, key) => modRing key fun x => { x with consumers := x.consumers ++ [(t, 0)] }
        | none => pure ()
      if slotKind w = 4 then
        modQueue (slotQueue w) fun u => { u with waiters := u.waiters ++ [(t, n)] }
        ws := ws ++ [.bind (slotQueue w)]
    match k.origin with
    | .inst g _ _ =>
      for (sl, r, n) in k.prev do
        let s ← getS
        match s.prevDone g r n with
        | some failed => ws := ws ++ [.slot t (16 + sl) failed]
        | none => pure ()
    | _ => pure ()
    if k.missing.isEmpty then ws := ws ++ (← makeReady t)
    return ws

/-- Event 0x3001 for a rejected task or registration (R52, R100): status, offending field, and bytes 28–31. -/
def rejected (h status field word : Nat) : M (List Work) := do
  let detail := leBytes 1 status ++ leBytes 1 field ++ leBytes 2 0 ++ leBytes 3 h ++ leBytes 1 0xFF ++ leBytes 4 0
    ++ leBytes 4 word
  raise 0x80 6 0x3001 detail
  offerCtx h ⟨0x80, 6, 0x3001, detail⟩

end Sys2Proof.Machine
end

