-- ==== Sys2Proof/Machine/Graphs.lean ====
section
/-! DEFINITION. Graph templates and instances (R132–R134, R248, R366–R370). -/

namespace Sys2Proof.Machine

open Sys2Proof

/-! ## Credit cycles (R248, R370) -/

/-- The rings of a graph's templates: (record and copy named, template, slot). -/
def State.graphRings (s : State) (h : Nat) (ds : List Desc) : List (Nat × Nat × Nat) :=
  (List.range ds.length).flatMap fun j =>
    let d := ds.getD j []
    (List.range 12).filterMap fun n =>
      match s.hallSlot h d n with
      | some (r, c) =>
        match tblFind s.hall.bufs r with
        | some b => if b.ring && (8 ≤ n || slotKind (dSlot d n) == 3) then some (ringKey r c, j, n) else none
        | none => none
      | none => none

/-- A ring has slack when its declared bands fit its depth (R248). -/
def HallBuf.slack (b : HallBuf) : Bool := b.bandsKnown && b.bandsM1 ≤ b.depthM1

/-- Edges (producer, consumer) of a graph over rings without slack. -/
def State.ringEdges (s : State) (h : Nat) (ds : List Desc) : List (Nat × Nat) :=
  let rs := s.graphRings h ds
  rs.flatMap fun (key, j, n) =>
    if n < 8 then []
    else if ((tblFind s.hall.bufs (key / 8)).map HallBuf.slack).getD true then []
    else (rs.filter fun x => x.1 == key && x.2.2 < 8).map fun x => (j, x.2.1)

/-- Whether an undirected multigraph has a cycle: joining component labels edge by edge, an edge within a component
closes one. -/
def hasCycle (n : Nat) (edges : List (Nat × Nat)) : Bool :=
  let label := fun (ls : List Nat) i => ls.getD i i
  (edges.foldl
    (fun (acc : List Nat × Bool) e =>
      let a := label acc.1 e.1
      let b := label acc.1 e.2
      if a = b then (acc.1, true) else (acc.1.map fun x => if x = b then a else x, acc.2))
    (List.range n, false)).2

/-- Whether the rings of a graph wait in a circle without slack (R248). -/
def State.creditCycle (s : State) (h : Nat) (ds : List Desc) : Bool := hasCycle ds.length (s.ringEdges h ds)

/-- Whether a ring has more consumers in the templates than it declares (R370). -/
def State.tooManyConsumers (s : State) (h : Nat) (ds : List Desc) : Bool :=
  let rs := s.graphRings h ds
  rs.any fun (key, _, _) =>
    let declared := ((tblFind s.hall.bufs (key / 8)).map fun b => b.consumersM1 + 1).getD 1
    declared < (rs.filter fun x => x.1 == key && x.2.2 < 8).length

/-! ## Templates (R132) -/

/-- Violations of a template beyond those of a task: keys it may not use (R132). -/
def templateViolations (count cadence : Nat) (d : Desc) : List Violation :=
  viol [(0xBF0 ≤ dSignal d, 0x12, 6)]
  ++ (keySlots d).flatMap fun (n, k) =>
      viol [((0xBF0 ≤ k && k ≤ 0xBFD && cadence != 2) || k == 0xBFE || k == 0xBFF
              || (0xC00 ≤ k && count ≤ k - 0xC00), 0x12, 0x20 + 8 * n)]

/-- Delay-list entries a slot graph reserves on a list (R133, R134): one on list 3 and 14 symbols on its own list, per
instance allowed. -/
def Graph.delayNeed (g : Graph) (list : Nat) : Nat :=
  if g.cadence = 2 then g.maxInst * ((if list = 3 then 1 else 0) + (if list = g.slotList then 14 else 0)) else 0

/-- Entries of a delay list in use, reserved entries included (TLY_DLY_STATUS.used). -/
def State.delayUsed (s : State) (list : Nat) : Nat :=
  (s.tally.delay.filter fun e => e.list == list && e.task.isSome).length
  + s.tally.graphs.foldl (fun n p => n + p.2.delayNeed list) 0

/-- Entries given to a delay list (TLY_DLY_CFG.entries). -/
def State.delaySize (s : State) (list : Nat) : Nat := s.fld (Reg.tlyDlyCfg list) Fld.tlyDlyCfgEntries

/-- Whether the store, board and delay lists can reserve a cadence-bound graph's instances (R134). -/
def State.canReserve (s : State) (g : Graph) : Bool :=
  g.cadence == 0 ||
    (g.maxInst * g.tasks.length ≤ s.storeFree && g.maxInst * g.localKeys ≤ s.boardFree
      && (List.range 8).all fun l => s.delayUsed l + g.delayNeed l ≤ s.delaySize l)

/-! ## Instances (R133, R134, R369) -/

/-- Live instances of a template. -/
def State.liveInstances (s : State) (g : Nat) : List (Nat × Instance) :=
  s.tally.instances.filter fun p => p.2.tmpl == g

/-- The rules of R52 whose outcome can change after registration: buffers under deregistration, grants (R133). -/
def State.stillGood (s : State) (g : Graph) : Bool :=
  g.tasks.all fun d => (taskViolations s g.owner false d).all fun v => v.1 != 0x16 && v.1 != 0x15

/-- Physical copies that a template's outputs would write in instance k: (record, copy). -/
def State.copiesWritten (s : State) (h : Nat) (d : Desc) (k : Nat) (lo : Nat) : List (Nat × Nat) :=
  ((List.range 12).filter fun n => lo ≤ n).filterMap fun n =>
    match s.hallSlot h d n with
    | some (r, c) => (tblFind s.hall.bufs r).map fun b => (r, b.copy c k)
    | none => none

/-- Whether an instance would write a copy that a live instance's unended task names (R369). -/
def State.copyClash (s : State) (g : Graph) (k : Nat) : Bool :=
  let out := g.tasks.flatMap fun d => s.copiesWritten g.owner d k 8
  s.tally.tasks.any fun p =>
    match p.2.origin with
    | .inst _ _ n => (s.copiesWritten p.2.handle p.2.desc n 0).any out.contains
    | _ => false

/-- Why an instance is not created. -/
inductive NoInstance where
  | bad | room
  deriving DecidableEq, Repr

/-- Create an instance of a template whole or not at all (R133, R134): all tasks enter as waiting, then their tokens are taken.
Answers the instance's creation number. -/
def createInstance (g num stamp air : Nat) : M (Except NoInstance Nat) := do
  let s ← getS
  match tblFind s.tally.graphs g with
  | none => return .error .bad
  | some gr =>
    let id := s.tally.nextInstance
    if !s.stillGood gr then return .error .bad
    else if s.creditCycle gr.owner gr.tasks then return .error .room
    else if gr.maxInst ≤ (s.liveInstances g).length
        ∨ !s.hasRoom gr.owner (some id) (gr.cadence != 0 || s.isCairn g) gr.tasks
        ∨ (gr.cadence != 0 && s.copyClash gr num) then return .error .room
    else do
      modTally fun x => { x with nextInstance := id + 1 }
      let mut ts : List Nat := []
      for j in List.range gr.tasks.length do
        ts := ts ++ [← storeTask gr.owner (gr.tasks.getD j []) (.inst g j num) (some id)]
      modTally fun x => { x with instances := tblSet x.instances id ⟨g, num, stamp, ts, air⟩ }
      safeCreated g id num stamp air
      let mut ws : List Work := []
      for t in ts do
        ws := ws ++ (← takeTokens t)
      settleAll ws
      return .ok id

/-- Advance a template's instance counter by one cadence event (R133); answers the number of this event. -/
def countInstance (g : Nat) : M Nat := do
  let s ← getS
  let n := ((tblFind s.tally.graphs g).map (·.number)).getD 0
  modTally fun x => { x with graphs := match tblFind x.graphs g with
    | some gr => tblSet x.graphs g { gr with number := (gr.number + 1) % 2 ^ 32 }
    | none => x.graphs }
  return n

/-- A cadence event creates an instance, or raises event 0x5102 (R133, R134). -/
def cadenceEvent (g num stamp air : Nat) : M (Option Nat) := do
  let s ← getS
  match tblFind s.tally.graphs g with
  | none => return none
  | some gr =>
    if gr.dereg then return none
    else
      match ← createInstance g num stamp air with
      | .ok id => return some id
      | .error _ => do
        raise 0x80 6 0x5102 (det [(4, g), (4, num)])
        return none

end Sys2Proof.Machine
end

