-- ==== Sys2Proof/Machine/CamBase.lean ====
section
/-! DEFINITION. Shared operations of the camera path: contexts, raw lines, the close of a frame, exposure requests, a port going down
(R279–R286, R295, R301). -/

namespace Sys2Proof.Machine

open Sys2Proof

/-! ## Tables -/

def State.cam (s : State) (c : Nat) : Cam := tblGet s.cams.cams cam0 c
def State.csi (s : State) (n : Nat) : CsiPort := tblGet s.cams.ports csiPort0 n

def modCam (c : Nat) (f : Cam → Cam) : M Unit :=
  update (.cams fun x => { x with cams := tblSet x.cams c (f (tblGet x.cams cam0 c)) })

def modCsi (n : Nat) (f : CsiPort → CsiPort) : M Unit :=
  update (.cams fun x => { x with ports := tblSet x.ports n (f (tblGet x.ports csiPort0 n)) })

/-- A register of a camera context (R304). -/
def camReg (r : Nat → Nat → Nat) (c : Nat) : Nat := r (c / 16) (c % 16)

/-- Fields of a context's configuration (R280, R282, R285). -/
def State.camOn (s : State) (c : Nat) : Bool := s.flag (camReg Reg.camCfg c) Fld.camCfgEnable
def State.camPort (s : State) (c : Nat) : Nat := s.fld (camReg Reg.camCfg c) Fld.camCfgPort
def State.camVc (s : State) (c : Nat) : Nat := s.fld (camReg Reg.camCfg c) Fld.camCfgVc
def State.camDt (s : State) (c : Nat) : Nat := s.fld (camReg Reg.camCfg c) Fld.camCfgDt
def State.camW (s : State) (c : Nat) : Nat := s.fld (camReg Reg.camSize c) Fld.camSizeWidthM1 + 1
def State.camH (s : State) (c : Nat) : Nat := s.fld (camReg Reg.camSize c) Fld.camSizeHeightM1 + 1
def State.camOwner (s : State) (c : Nat) : Nat := s.fld (camReg Reg.camOwner c) Fld.camOwnerHandle
def State.camRawBase (s : State) (c : Nat) : Nat := signExtend48 (s.fld (camReg Reg.camRaw c) Fld.camRawBase * 64)
def State.camSlots (s : State) (c : Nat) : Nat := s.fld (camReg Reg.camRaw c) Fld.camRawSlotsM1 + 1

/-- The enabled contexts that bind a port, and the one that binds a virtual channel of it (R280). -/
def State.camsOn (s : State) (port : Nat) : List Nat := (List.range 32).filter fun c => s.camOn c && s.camPort c == port
def State.camOf (s : State) (port vc : Nat) : Option Nat := (s.camsOn port).find? fun c => s.camVc c == vc

/-- Whether a context is the in-line one (R286). -/
def State.isInline (s : State) (c : Nat) : Bool := s.flag Reg.ispCtl Fld.ispCtlInlineEn && s.fld Reg.ispCtl Fld.ispCtlInlineCtx == c

/-- Whether the receivers are held in reset: partition V fenced, also by its test (R489). -/
def State.csiHeld (s : State) (port : Nat) : Bool := s.fenced 4 || (s.fence (0xA0 + port)).isSome

/-! ## Pixels and lines (R167, R276, R285) -/

/-- The RAW data type of a CSI-2 image data type (R276). -/
def rawType (dt : Nat) : Nat :=
  if dt = 0x2A then 0x20 else if dt = 0x2B then 0x21 else if dt = 0x2C then 0x22 else if dt = 0x2E then 0x23 else 0x24

/-- Valid bits of a pixel by CSI-2 data type, and of a context's pixels; container bytes. -/
def csiBits (dt : Nat) : Nat := if dt = 0x2A then 8 else if dt = 0x2B then 10 else if dt = 0x2C then 12 else if dt = 0x2E then 16 else 20
def State.camBits (s : State) (c : Nat) : Nat := csiBits (s.camDt c)
def containerBytes (bits : Nat) : Nat := if bits = 20 then 4 else 2

/-- Groups of a list. -/
def chunks {α : Type} (n : Nat) : Nat → List α → List (List α)
  | 0, _ => []
  | fuel + 1, l => if l.isEmpty then [] else l.take n :: chunks n fuel (l.drop n)

/-- The pixels of a CSI-2 group of bytes, most significant parts first (PRESUMED, log entry 17). -/
def unpackGroup (bits : Nat) (g : List Nat) : List Nat :=
  let b : Nat → Nat := fun i => g.getD i 0
  if bits = 8 then [b 0]
  else if bits = 10 then (List.range 4).map fun i => b i * 4 + b 4 / 4 ^ i % 4
  else if bits = 12 then [b 0 * 16 + b 2 % 16, b 1 * 16 + b 2 / 16]
  else if bits = 16 then [b 0 * 256 + b 1]
  else (List.range 2).map fun i => (b (2 * i) * 4 + b 4 / 16 ^ i % 4) * 1024 + b (2 * i + 1) * 4 + b 4 / (4 * 16 ^ i) % 4

/-- Bytes and pixels of a CSI-2 group. -/
def groupBytes (bits : Nat) : Nat := if bits = 8 then 1 else if bits = 16 then 2 else if bits = 12 then 3 else 5
def groupPixels (bits : Nat) : Nat := if bits = 8 ∨ bits = 16 then 1 else if bits = 10 then 4 else 2

/-- The pixels of a line's payload; bytes that complete no group carry none. -/
def unpackLine (bits : Nat) (payload : List Byte) : List Nat :=
  ((chunks (groupBytes bits) payload.length (payload.map BitVec.toNat)).filter fun g => g.length == groupBytes bits).flatMap
    (unpackGroup bits)

/-- The bytes of a CSI-2 group of pixels. -/
def packGroup (bits : Nat) (g : List Nat) : List Byte :=
  let p : Nat → Nat := fun i => g.getD i 0
  let bytes : List Nat :=
    if bits = 8 then [p 0]
    else if bits = 10 then (List.range 4).map (fun i => p i / 4) ++ [(List.range 4).foldl (fun n i => n + p i % 4 * 4 ^ i) 0]
    else if bits = 12 then [p 0 / 16, p 1 / 16, p 0 % 16 + p 1 % 16 * 16]
    else if bits = 16 then [p 0 / 256, p 0 % 256]
    else (List.range 2).flatMap (fun i => [p i / 4096, p i / 4 % 256])
      ++ [(List.range 2).foldl (fun n i => n + p i / 1024 % 4 * 16 ^ i + p i % 4 * (4 * 16 ^ i)) 0]
  bytes.map (BitVec.ofNat 8)

/-- The payload a line of pixels has as received. -/
def packLine (bits : Nat) (l : List Nat) : List Byte := (chunks (groupPixels bits) l.length l).flatMap (packGroup bits)

/-- The value of a fill pixel (R282). -/
def State.camFill (s : State) (c : Nat) : Nat := s.fld (camReg Reg.camFill c) Fld.camFillValue % 2 ^ s.camBits c

/-- Bytes of a row of a raw slot, and the address of a row (R285). -/
def rowBytes (w bits : Nat) : Nat := (w * containerBytes bits + 63) / 64 * 64
def State.rawRow (s : State) (c slot y : Nat) : Nat :=
  s.camRawBase c + (slot * s.camH c + y) * rowBytes (s.camW c) (s.camBits c)

/-- A line group CRC closes with every 16th line (R281); lines enter as they are stored. -/
def CamFrame.addLine (f : CamFrame) (bits : Nat) (l : List Nat) : CamFrame :=
  let g := f.group ++ packLine bits l
  if (f.rx + f.filled + 1) % 16 = 0 then { f with group := [], crcs := f.crcs ++ [crc32c g] } else { f with group := g }

/-- Update the newest frame of a context. -/
def modFrame (c : Nat) (g : CamFrame → CamFrame) : M Unit :=
  modCam c fun x => { x with frames := x.frames.dropLast ++ (x.frames.getLast?.map g).toList }

/-- The open frame of a context. -/
def State.openFrame (s : State) (c : Nat) : Option CamFrame := (s.cam c).frames.getLast?.filter (·.isOpen)

/-- Store line y of the open frame: kept in the raw buffer of an in-line frame, in the raw ring otherwise; a line the ring's memory
refuses is not stored. -/
def storeLineOf (c y : Nat) (l : List Nat) : M Unit := do
  let s ← getS
  match s.openFrame c with
  | none => pure ()
  | some f =>
    modFrame c fun f => f.addLine (s.camBits c) l
    if f.direct && !f.miss then modFrame c fun f => { f with lines := f.lines ++ [l] }
    else
      let _ ← ctxWrite (0xA0 + s.camPort c) (s.camOwner c) (s.rawRow c f.slot y)
        (l.flatMap fun v => leBytes (containerBytes (s.camBits c)) v)

/-! ## Exposure requests (R301) -/

/-- The request in force for a frame: the highest target not after it, the later of equal ones. -/
def reqInForce (rs : List ExpReq) (f : Nat) : Option ExpReq :=
  (rs.filter fun r => (r.state == 3 || r.state == 4) && (r.target == f || seqBefore r.target f)).foldl
    (fun a r => match a with
      | none => some r
      | some b => if seqBefore r.target b.target then some b else some r) none

/-- CAM_EXPREQ_STATUS follows the last request queued and the count of those pending. -/
def showReqs (c : Nat) : M Unit := do
  let s ← getS
  let rs := (s.cam c).reqs
  let st := camReg Reg.camExpreqStatus c
  match rs.getLast? with
  | some r => do
    wrFld st Fld.camExpreqStatusTarget r.target
    wrFld st Fld.camExpreqStatusState r.state
  | none => pure ()
  wrFld st Fld.camExpreqStatusPending (rs.filter fun r => 1 ≤ r.state && r.state ≤ 3).length

/-- Change the requests of a context; those that no rule can still name are dropped. -/
def modReqs (c : Nat) (g : ExpReq → ExpReq) : M Unit := do
  modCam c fun x =>
    let rs := x.reqs.map g
    let keep := rs.filter fun r => r.state < 5
    { x with reqs := (if (rs.getLast?.map fun r => decide (5 ≤ r.state)).getD false then keep ++ rs.getLast?.toList else keep) }
  showReqs c

/-- At a frame close, the queued requests of the context become bus jobs, ahead of waiting software lists (R299, R301). -/
def beginWrites (c frame : Nat) : M Unit := do
  let s ← getS
  let port := s.camPort c
  let jobs := ((s.cam c).reqs.filter fun r => r.state == 1).map fun r => (⟨some c, r.id, 0, r.entries, 0, s.clock.now⟩ : BusJob)
  if !jobs.isEmpty then
    modCsi port fun p =>
      let head := p.jobs.take 1
      let rest := p.jobs.drop 1
      { p with jobs := head ++ (rest.filter fun j => j.cam.isSome) ++ jobs ++ rest.filter fun j => j.cam.isNone }
    modReqs c fun r => if r.state = 1 then { r with state := 2, since := frame } else r

/-! ## The close of a frame (R282–R284, R295) -/

/-- The 64 bytes of a frame status record (R295). -/
def statusRecord (c port vc : Nat) (f : CamFrame) (short long timeout lost noFe : Bool) : List Byte :=
  let flags := flagBit short + 2 * flagBit long + 4 * flagBit timeout + 8 * flagBit lost + 16 * flagBit f.miss
    + 32 * flagBit (f.crc != 0) + 64 * flagBit f.dropped
  let flags2 := flagBit f.emb.isSome + 2 * flagBit f.confirmed + 4 * flagBit noFe
  withCrc 60 (leBytes 8 f.capture ++ leBytes 8 f.closed ++ leBytes 4 f.num ++ leBytes 1 c ++ leBytes 1 flags ++ leBytes 1 flags2
    ++ leBytes 1 (port + 8 * vc) ++ leBytes 2 f.rx ++ leBytes 2 f.filled ++ leBytes 2 (min f.extra 65535)
    ++ leBytes 2 (min f.late 65535) ++ leBytes 2 f.crc ++ leBytes 2 f.len ++ leBytes 4 f.expReq ++ leBytes 2 f.csiFn
    ++ leBytes 2 f.gen ++ leBytes 4 f.lgCrc ++ leBytes 8 f.lastLine)

/-- Close the open frame of a context (R282–R284): fill lines, flags, counters, record, events 0x4701 and 0x5701, token; then the
exposure writes begin. -/
def closeFrame (c stamp : Nat) (noFe timeout lost : Bool) : M Unit := do
  let s ← getS
  match s.openFrame c with
  | none => pure ()
  | some f0 => do
    let h := s.camH c
    let port := s.camPort c
    let missing := if f0.dropped then 0 else h - f0.rx
    for i in List.range missing do
      storeLineOf c (f0.rx + i) (List.replicate (s.camW c) (s.camFill c))
      modFrame c fun f => { f with filled := f.filled + 1 }
    let s ← getS
    let req := reqInForce (s.cam c).reqs f0.num
    modFrame c fun f =>
      let crcs := f.crcs ++ if f.group.isEmpty then [] else [crc32c f.group]
      { f with
        isOpen := false
        closed := stamp
        group := []
        crcs := []
        lgCrc := crc32c (crcs.flatMap (leBytes 4))
        expReq := (req.map (·.id)).getD 0
        expCode := match f.emb with
          | some e => e.1
          | none => (req.map (·.exp)).getD 0
        gainCode := match f.emb with
          | some e => e.2
          | none => (req.map (·.gain)).getD 0 }
    let s ← getS
    match (s.cam c).frames.getLast? with
    | none => pure ()
    | some f => do
      let short := !f.dropped && missing != 0
      let long := f.extra != 0
      wrFld (camReg Reg.camState c) Fld.camStateOpen 0
      if short then bump (camReg Reg.camCnt c) Fld.camCntShort 1
      if long then bump (camReg Reg.camCnt c) Fld.camCntLong 1
      if timeout then bump (camReg Reg.camCnt c) Fld.camCntTimeout 1
      if timeout then
        raise (0xA0 + port) 4 0x5701 (det [(1, c), (1, 0), (2, f.rx), (4, f.num)])
      if f.filled + f.crc ≠ 0 then
        raise (0xA0 + port) 4 0x4701 (det [(1, port), (1, s.camVc c), (2, f.filled + f.crc), (4, f.num)])
      let base := signExtend48 (s.fld (camReg Reg.camStatusBase c) Fld.camStatusBaseBase * 64)
      let _ ← ctxWrite (0xA0 + port) (s.camOwner c) (base + 64 * (f.num % 8)) (statusRecord c port (s.camVc c) f short long timeout lost noFe)
      let key := s.fld (camReg Reg.camOwner c) Fld.camOwnerCloseKey
      if key ≠ 0 ∧ (s.ctx (s.camOwner c)).isSome then settleAll [.token (s.camOwner c * 4096 + key) false]
      beginWrites c f.num

/-! ## Links (R279) -/

/-- A valid packet header has arrived (R277, R279): the link comes up once deskew has passed where it must. -/
def validHeader (port : Nat) : M Unit := do
  let s ← getS
  modCsi port fun p => { p with lastPacket := s.clock.now }
  if s.fld (Reg.csiStatus port) Fld.csiStatusLink ≠ 2 then
    if s.flag (Reg.csiStatus port) Fld.csiStatusDeskewOk || s.fld (Reg.csiCtl port) Fld.csiCtlRateMbps ≤ 1500 then
      wrFld (Reg.csiStatus port) Fld.csiStatusLink 2
      raise (0xA0 + port) 4 0xA701 (det [(1, port), (1, s.fld (Reg.csiCtl port) Fld.csiCtlLanesM1 + 1),
        (2, s.fld (Reg.csiCtl port) Fld.csiCtlRateMbps)])
    else wrFld (Reg.csiStatus port) Fld.csiStatusLink 1

/-- Close the open frames of a port with link_lost; answers how many. -/
def loseFrames (port stamp : Nat) : M Nat := do
  let s ← getS
  let open_ := (s.camsOn port).filter fun c => (s.openFrame c).isSome
  for c in open_ do closeFrame c stamp false false true
  return open_.length

/-- A link leaves the up state (R279, R282, R301): open frames close, requests not yet issued fail, event 0xA702. -/
def linkDown (port reason : Nat) : M Unit := do
  let s ← getS
  for c in s.camsOn port do
    modReqs c fun r => if r.state = 1 then { r with state := 6 } else r
  let n ← loseFrames port (s.csi port).lastPacket
  wrFld (Reg.csiStatus port) Fld.csiStatusLink 0
  raise (0xA0 + port) 4 0xA702 (det [(1, port), (1, reason), (2, n)])

/-- The receivers are about to be held in reset (R489): open frames close with link_lost, links go down. -/
def camerasDown : M Unit := do
  for port in List.range 8 do
    let s ← getS
    if s.fld (Reg.csiStatus port) Fld.csiStatusLink = 2 then linkDown port 0
    else
      let _ ← loseFrames port (s.csi port).lastPacket

/-- The reset of the camera path (R469): frames and requests are gone. -/
def clearCameras : M Unit := update (.cams fun _ => State.reset.cams)

end Sys2Proof.Machine
end

