-- ==== Sys2Proof/Machine/RadioBase.lean ====
section
/-! DEFINITION. The radio's registers and times: carriers, symbol geometry and air boundaries (R375–R378), JESD links (R380–R382). -/

namespace Sys2Proof.Machine

open Sys2Proof

def modRadio (f : Radio → Radio) : M Unit := update (.radio f)

/-! ## Carriers and symbols (R375, R376) -/

/-- µ: 0 for 15 kHz, 1 for 30 kHz. -/
def State.carMu (s : State) (c : Nat) : Nat := s.fld (Reg.dfeCfg c) Fld.dfeCfgScs

def State.carNfft (s : State) (c : Nat) : Nat := 2 ^ s.fld (Reg.dfeCfg c) Fld.dfeCfgNfftLog2

/-- The sample rate in samples a second. -/
def State.carRate (s : State) (c : Nat) : Nat := s.carNfft c * 15000 * 2 ^ s.carMu c

def State.carPrbs (s : State) (c : Nat) : Nat := s.fld (Reg.dfeCfg c) Fld.dfeCfgPrbM1 + 1
def State.carStreams (s : State) (c : Nat) : Nat := s.fld (Reg.dfeCfg c) Fld.dfeCfgStreamsM1 + 1
def State.carFirst (s : State) (c : Nat) : Nat := s.fld (Reg.dfeCfg c) Fld.dfeCfgFirstStream

/-- Samples of the cyclic prefix of symbol l of a subframe (R376). -/
def cpLen (nfft mu l : Nat) : Nat := 9 * nfft / 128 + (if l % (7 * 2 ^ mu) = 0 then nfft / 64 else 0)

/-- The offset of symbol l in its subframe, in samples at the carrier's rate. -/
def symOffset (nfft mu l : Nat) : Nat := (List.range l).foldl (fun n i => n + nfft + cpLen nfft mu i) 0

/-- Samples of 122.88 MHz in one sample of a carrier. -/
def State.carStep (s : State) (c : Nat) : Nat := 122880000 / max 1 (s.carRate c)

/-! ## Air boundaries (R377)

A symbol is named by (millisecond since second 0, symbol l of that subframe); its boundary by (second, 122.88 MHz samples). -/

/-- The stamp of a boundary lying n samples of 122.88 MHz into second S. -/
def airStamp (sec n : Nat) : Nat := sec * 2 ^ 32 + ceilDiv (n * 2 ^ 32) 122880000

/-- Seconds of the GPS epoch in SiteTime. -/
def gpsEpoch : Nat := 315964819

/-- Samples of 122.88 MHz from the start of a second to symbol l of the subframe at millisecond ms. -/
def State.symSamples (s : State) (c ms l : Nat) : Nat := ms % 1000 * 122880 + symOffset (s.carNfft c) (s.carMu c) l * s.carStep c

/-- The air boundary of symbol l of the subframe at millisecond ms. -/
def State.symStamp (s : State) (c ms l : Nat) : Nat := airStamp (ms / 1000) (s.symSamples c ms l)

/-- Symbols of a subframe. -/
def State.symsPer (s : State) (c : Nat) : Nat := 14 * 2 ^ s.carMu c

/-- The symbol after one. -/
def State.nextSym (s : State) (c : Nat) (x : Nat × Nat) : Nat × Nat :=
  if x.2 + 1 < s.symsPer c then (x.1, x.2 + 1) else (x.1 + 1, 0)

/-- The latest symbol of a carrier whose boundary, moved by an offset, is at or before a time. -/
def State.symAt (s : State) (c : Nat) (shift : Int) (t : Nat) : Option (Nat × Nat) :=
  let ms := ((t : Int) - shift).toNat * 1000 / 2 ^ 32
  let all := [ms - 1, ms, ms + 1].dedup.flatMap fun m => (List.range (s.symsPer c)).map fun l => (m, l)
  (all.filter fun x => decide ((s.symStamp c x.1 x.2 : Int) + shift ≤ t)).getLast?

/-- The slot of a symbol since the GPS epoch, and its symbol in the slot (R386). -/
def State.slotOf (s : State) (c : Nat) (x : Nat × Nat) : Nat × Nat :=
  ((x.1 - gpsEpoch * 1000) * 2 ^ s.carMu c + x.2 / 14, x.2 % 14)

/-! ## JESD204C (R380–R382, R408) -/

def State.linkOn (s : State) (l : Nat) : Bool := s.flag (Reg.jesdCtl l) Fld.jesdCtlEnable
def State.linkState (s : State) (l : Nat) : Nat := s.fld (Reg.jesdStatus l) Fld.jesdStatusState
def State.linkTx (s : State) (l : Nat) : Bool := s.flag (Reg.jesdCtl l) Fld.jesdCtlDir
def State.linkLanes (s : State) (l : Nat) : Nat := s.fld (Reg.jesdCtl l) Fld.jesdCtlLanesM1 + 1

/-- The enabled link that carries a stream in a direction. -/
def State.linkFor (s : State) (tx : Bool) (stream : Nat) : Option Nat :=
  (List.range 8).find? fun l => s.linkOn l && s.linkTx l == tx
    && (let f := s.fld (Reg.jesdCtl l) Fld.jesdCtlFirstStream
        let n := s.linkLanes l * (s.fld (Reg.jesdCtl l) Fld.jesdCtlTwoStreams + 1)
        f ≤ stream && stream < f + n)

/-- The latency of the link that carries a carrier's first stream (R378). -/
def State.linkLat (s : State) (tx : Bool) (c : Nat) : Nat :=
  ((s.linkFor tx (s.carFirst c)).map fun l => s.fld (Reg.jesdStatus l) Fld.jesdStatusLat).getD 0

/-- The rate of a carrier's streams over its own: D (R384); 122.88 MHz samples are 4 or 2 of the streams'. -/
def State.carDecim (s : State) (tx : Bool) (c : Nat) : Nat :=
  let half := ((s.linkFor tx (s.carFirst c)).map fun l => s.flag (Reg.jesdCtl l) Fld.jesdCtlHalfRate).getD false
  (if half then 2 else 4) * s.carStep c

/-- Offset of the DFE input instant of a symbol from its air boundary (R378). -/
def State.rxShift (s : State) (c : Nat) : Nat := s.fld (Reg.dfeLat c) Fld.dfeLatRxRf + s.linkLat false c

/-- How long before its air boundary a symbol is launched (R378). -/
def State.txLead (s : State) (c : Nat) : Nat := s.fld (Reg.dfeLat c) Fld.dfeLatTxRf + s.linkLat true c

/-- A link leaves the data state (R382, R410): event 0xAC02, 0 for lost sync, 1 for a CRC-12 error. -/
def linkLost (l why : Nat) : M Unit := do
  wrFld (Reg.jesdStatus l) Fld.jesdStatusState 1
  raise 0xB3 5 0xAC02 (det [(1, l), (1, why)])

/-- The links go down with their partition. -/
def jesdDown : M Unit := do
  let s ← getS
  for l in List.range 8 do
    if s.linkState l = 2 then
      linkLost l 0
      wrFld (Reg.jesdStatus l) Fld.jesdStatusState 0

/-- Extended multiblock periods of a link in a second (R381, R382): 64-bit blocks a second over 32 E. -/
def State.lemcRate (s : State) (l : Nat) : Nat :=
  let r := 245760000 * (s.fld (Reg.jesdCtl l) Fld.jesdCtlTwoStreams + 1)
  let r := if s.flag (Reg.jesdCtl l) Fld.jesdCtlN12 then r * 3 / 4 else r
  let r := if s.flag (Reg.jesdCtl l) Fld.jesdCtlHalfRate then r / 2 else r
  r / (32 * (s.fld (Reg.jesdCtl l) Fld.jesdCtlEM1 + 1))

/-- The stamp of the latest SYSREF edge (R382), counted in the periods of link 0. -/
def State.sysrefAt (s : State) : Nat :=
  let div := max 1 (s.fld Reg.jesdSysref Fld.jesdSysrefDiv)
  let p := max 1 (s.lemcRate 0)
  let sec := s.clock.now / 2 ^ 32
  let k := s.clock.now % 2 ^ 32 * p / (div * 2 ^ 32)
  sec * 2 ^ 32 + ceilDiv (k * div * 2 ^ 32) p

end Sys2Proof.Machine
end

