-- ==== Sys2Proof/Machine/Recover.lean ====
section
/-! DEFINITION. Shared operations of recovery: fences, triggers, what each rung keeps and loses, reports
(R461–R471, R478, R480). -/

namespace Sys2Proof.Machine

open Sys2Proof

/-! ## Scopes -/

/-- What a reset covers (R464): a context on an engine, an engine (or DMA channel, or Ethernet port), a partition, the die, the
package. -/
inductive Scope where
  | ctxEngine (e h : Nat)
  | engine (e : Nat)
  | part (p : Nat)
  | die
  | package
  /-- A BCC restart and a security block reset (R472), outside the ladder. -/
  | bcc
  | sec
  deriving DecidableEq, Repr

/-- The number of a scope's domain in the tables of fences and resets. -/
def Scope.key : Scope → Nat
  | .ctxEngine e h => 0x1000000 * (e + 1) + h
  | .engine e => e
  | .part p => 0x100 + p
  | .die => 0x200
  | .package => 0x300
  | .bcc => 0x400
  | .sec => 0x401

/-- The enclosing scope (R466): an engine of S and the partition S climb to the die. -/
def Scope.enclosing : Scope → Scope
  | .ctxEngine e _ => .engine e
  | .engine e => if partOf e = 6 then .die else .part (partOf e)
  | .part _ => .die
  | .die => .package
  | .package => .package
  | .bcc => .die
  | .sec => .die

/-- The rung that resets a scope (R464). -/
def Scope.rung : Scope → Nat
  | .ctxEngine _ _ => 1
  | .engine _ => 2
  | .part _ => 3
  | .die => 4
  | .package => 5
  | .bcc => 0
  | .sec => 0

/-- The partition code of a scope (R478, R480). -/
def Scope.partCode : Scope → Nat
  | .ctxEngine e _ => partOf e
  | .engine e => partOf e
  | .part p => p
  | .bcc => 6
  | .sec => 6
  | _ => 0xFF

/-- Whether a scope lies inside another. -/
def Scope.inside (a b : Scope) : Bool :=
  a != b && (b == a.enclosing || b == a.enclosing.enclosing || b == a.enclosing.enclosing.enclosing
    || b == a.enclosing.enclosing.enclosing.enclosing)

/-- The scope a running reset covers. -/
def Reset.toScope (r : Reset) : Scope :=
  match r.scope with
  | 1 => .ctxEngine r.engine r.handle
  | 2 => .engine r.engine
  | 3 => .part r.part
  | 4 => .die
  | 6 => .bcc
  | 7 => .sec
  | _ => .package

/-! ## Status (R471, R479) -/

/-- Privileged resets whose stamps lie within the window (R471). -/
def State.privCount (s : State) : Nat :=
  let w := s.fld Reg.rcvPriv Fld.rcvPrivWindowH * 3600 * 2 ^ 32
  (s.rcv.priv.filter fun t => s.clock.now ≤ t + w).length

/-- The limit of privileged resets. -/
def State.privLimit (s : State) : Nat := s.fld Reg.rcvPriv Fld.rcvPrivLimit

/-! ## Reports (R478) -/

/-- The 64-byte header and 188-byte body of a reset report, closed by its CRC. -/
def reportBytes (r : Reset) (stop outcome refused errored priv now : Nat) (event : List Byte) : List Byte :=
  withCrc 252 (leBytes 8 r.trigger ++ leBytes 8 stop ++ leBytes 4 r.seq ++ leBytes 1 r.rung ++ leBytes 1 r.scope
    ++ leBytes 1 r.engine ++ leBytes 1 r.part ++ leBytes 2 r.cause ++ leBytes 1 r.cameFrom ++ leBytes 1 outcome
    ++ leBytes 4 r.handle ++ leBytes 4 r.interrupted ++ leBytes 4 r.ended ++ leBytes 4 r.held ++ leBytes 4 refused
    ++ leBytes 4 errored ++ leBytes 4 r.late ++ leBytes 1 priv ++ zeros 3 ++ leBytes 4 r.readied
    ++ leBytes 8 r.fencedAt ++ leBytes 8 r.assertedAt ++ leBytes 8 r.assertedAt ++ leBytes 8 stop
    ++ leBytes 4 (now % 2 ^ 32) ++ leBytes 6 r.dmaAddr ++ zeros 6 ++ padTo 32 event)

/-- Where a report goes in always-on SRAM. -/
def reportAddr (seq : Nat) : Nat := 0x7FF0108000 + seq % 64 * 0x100

/-- Write the report of a reset and name it in RCV_REPORT (R478). -/
def writeReport (r : Reset) (outcome : Nat) : M Unit := do
  let s ← getS
  let f := s.fence r.toScope.key
  let bytes := reportBytes r s.clock.now outcome ((f.map (·.refused)).getD 0) ((f.map (·.errored)).getD 0)
    (min s.privCount 255) s.clock.now
    (eventBytes r.trigger 0 0x81 r.toScope.partCode r.cause [])
  update (.mem (reportAddr r.seq) bytes)
  wrReg Reg.rcvReport (BitVec.ofNat 64 r.seq)

/-! ## What a reset does to its scope (R469) -/

/-- Engines of a partition, DMA channels and Ethernet ports included. -/
def enginesIn (p : Nat) : List Nat :=
  (List.range 0x80 ++ List.range' 0xA8 8 ++ [0xB1]).filter fun e => partOf e == p && (kindOf e < 15 || (0x40 ≤ e && e < 0x80) || 0xA8 ≤ e)

/-- The register pages of an engine (R47). -/
def enginePages (e : Nat) : List Nat :=
  if e < 0x20 then [0x80 + e]
  else if e < 0x24 then [0xB0 + (e - 0x20)]
  else if e = 0x28 then [0xC0, 0xC1, 0xC2]
  else if e = 0x2E then [0xB4]
  else if e < 0x2E then [0xC8 + (e - 0x29)]
  else if 0x30 ≤ e ∧ e ≤ 0x35 then [0xE0 + (e - 0x30)]
  else if 0xA8 ≤ e ∧ e ≤ 0xAF then [0x100 + (e - 0xA8)]
  else if 0xA0 ≤ e ∧ e ≤ 0xA7 then [0xD0 + (e - 0xA0)]
  else if e = 0xB0 then [0x110]
  else []

/-- The register pages of a partition (R47). -/
def partPages (p : Nat) : List Nat :=
  if p < 4 then List.range' (0x80 + 8 * p) 8 ++ [0xA0 + p, 0xB0 + p]
  else if p = 4 then [0xA4, 0xB4] ++ List.range' 0xC0 14 ++ List.range' 0xD0 8
  else if p = 5 then [0xA5] ++ List.range' 0xE0 6 ++ List.range' 0xE8 8
  else []

/-- Give the registers of some pages their reset values. -/
def resetPages (ps : List Nat) : M Unit := do
  for p in ps do
    update (.regClear (p * 0x1000) ((p + 1) * 0x1000))

/-- Reset of a DMA channel (R272): halted with cause 7; ACTIVE_HEAD, SHADOW_HEAD and CTX keep their values. -/
def resetDma (n : Nat) : M Unit := do
  let s ← getS
  let a := s.reg (Reg.dmaChActiveHead n)
  let b := s.reg (Reg.dmaChShadowHead n)
  let c := s.reg (Reg.dmaChCtx n)
  resetPages [0x40 + n]
  wrReg (Reg.dmaChActiveHead n) a
  wrReg (Reg.dmaChShadowHead n) b
  wrReg (Reg.dmaChCtx n) c
  wrReg (Reg.dmaChStatus n) (BitVec.ofNat 64 (3 + 7 * 4))
  update (.dma fun t => tblDel t n)

/-- Reset an engine's logic (R464 rung 2, R469): local memories cleared, registers at reset values, warm standby. -/
def resetEngine (e : Nat) : M Unit := do
  let s ← getS
  if e < 0x20 then update (.memClear (0x4000000000 + e * 0x800000) (0x4000000000 + e * 0x800000 + 0x400000))
  if 0x40 ≤ e ∧ e < 0x80 then resetDma (e - 0x40)
  else resetPages (enginePages e)
  let g := s.engine e
  for c in channelsOf e do modEngine c fun _ => engine0
  if 0xA8 ≤ e ∧ e ≤ 0xAF then update (.eth fun t => tblDel t (e - 0xA8))
  if e = 0xB1 then
    update (.fabric fun f => { f with
      qps := f.qps.map fun p => (p.1, lostQp p.2)
      transfers := []
      sends := [] })
  if e = 0x31 then modRadio fun r => { r with rx := [], launched := [], tx := [], segs := [] }
  if e = 0x35 then modRadio fun r => { r with fhSeq := [], fhSeen := [], fhPrbs := [], fhSent := [], fhClosed := [] }
  modEngine e fun _ => { engine0 with
    bypassed := g.bypassed, failed := g.failed, testing := g.testing, resetting := g.resetting,
    power := .warm, since := s.clock.now, beat := s.clock.now, reserved := g.reserved }

/-- Write back the dirty system cache lines of a home (R40, R469). -/
def writeBackHome (p : Nat) : M Unit := do
  let s ← getS
  for (line, _) in s.sys.cache do
    match s.place (line * 64) with
    | .ddr q _ => if q = p then writeBack line
    | _ => pure ()

/-- A partition's DDR channels enter self-refresh (R464, R475). -/
def selfRefresh (p : Nat) : M Unit := do
  for c in [2 * p, 2 * p + 1] do
    wrFld (Reg.mcStatus c) Fld.mcStatusSelfRefresh 1
    wrFld (Reg.mcStatus c) Fld.mcStatusTrained 0

/-- Reset a partition (R464 rung 3, R469): engines, memories and registers cleared; the DDR training state and the ledger
and capacity fields that the BCC restores keep their values in MC_CTL and MC_STATUS. -/
def resetPart (p : Nat) : M Unit := do
  for e in enginesIn p do resetEngine e
  resetPages (partPages p)
  if p < 4 then update (.memClear (0x4020000000 + p * 0x1000000) (0x4020000000 + (p + 1) * 0x1000000))
  if p = 4 then
    update (.memClear 0x4010000000 0x4013000000)
    clearCameras
  for e in enginesIn p do
    modEngine e fun g => { g with saved := [] }

/-! ## Interrupted work (R468) -/

/-- Tasks that a reset of an engine interrupts: in its stalls or its save areas. -/
def State.tasksAt (s : State) (e : Nat) : List Nat :=
  let of : Nat → List Nat := fun e => let g := s.engine e; g.running.toList ++ g.next.toList ++ g.saved
  (of e ++ (channelsOf e).flatMap of).dedup

/-- Interrupt the tasks of some engines; answers (interrupted, chains held). -/
def interruptEngines (es : List Nat) (dom : Nat) : M (Nat × Nat) := do
  let mut n := 0
  let mut held := 0
  for e in es do
    let s ← getS
    for t in s.tasksAt e do
      n := n + 1
      if ← interruptTask t dom then held := held + 1
  return (n, held)

/-- End the tasks of a context on an engine (R464 rung 1, R468); answers how many. -/
def endOnEngine (e h status : Nat) : M Nat := do
  let s ← getS
  let ts := (s.tasksAt e).filter fun t => ((s.task t).map fun k => k.handle == h).getD false
  for t in ts do
    unstall t
    finish t status
  return ts.length

/-! ## Beginning and completing a reset (R461, R464–R467, R478) -/

/-- The scope byte of a reset report (R478). -/
def Scope.code : Scope → Nat
  | .ctxEngine _ _ => 1
  | .engine _ => 2
  | .part _ => 3
  | .die => 4
  | .package => 5
  | .bcc => 6
  | .sec => 7

/-- Raise a recovery event (R480). -/
def rcvEvent (sc : Scope) (code : Nat) (detail : List (Nat × Nat)) : M Unit := raise 0x81 sc.partCode code (det detail)

/-- Reset notices to every peer of a ready queue pair (R426), on queue pair 1: job and this member's rank. -/
def sendResetNotices : M Unit := do
  let s ← getS
  for (_, q) in s.fabric.qps do
    if q.phase = .ready then
      update (.sent (· ++ [(0xB1, wirePacket 1 4 0 [] (leBytes 1 1 ++ leBytes 1 q.job ++ leBytes 1 (s.jobRank q.job) ++ leBytes 1 q.rank))]))

/-- Raise event 0x0201 on a change of SiteTime state (R144, R165). -/
def timeState (new : Nat) : M Unit := do
  let s ← getS
  let old := s.fld Reg.timeStatus Fld.timeStatusState
  if old ≠ new then
    wrFld Reg.timeStatus Fld.timeStatusState new
    modRadio fun r => { r with held := false }
    raise 0x82 6 0x0201 (det [(1, old), (1, new), (6, 0), (8, unsigned 64 s.clock.servoOffset)])

/-- Put SiteTime back after a chip reset (R146): reloaded from the always-on mirror, later than every stamp taken, acquiring. -/
def reloadTime : M Unit := do
  update (.clock fun c => { c with
    now := max (c.now + 1) c.mirror
    acquiredAt := max (c.now + 1) c.mirror })
  timeState 1

/-- Register pages whose partition is fenced answer with the fence response (R21, R47), but to the BCC, which restores them behind
the fence. Answers whether a write reaches its register. -/
def reachReg (by_ : Requester) (part : Nat) : M Bool := do
  let s ← getS
  if by_ ≠ .bcc ∧ part < 6 ∧ s.fenced part then do
    countRefused part
    answer false []
    return false
  else return true

/-- The channels of a scope drain when its fence is raised (R272): nothing more is issued, no descriptor is written back. -/
def drainDma (e : Nat) : M Unit := do
  if 0x40 ≤ e ∧ e < 0x80 then
    let n := e - 0x40
    update (.dma fun t => tblSet t n { dma0 with drain := 7 })
    wrFld (Reg.dmaChStatus n) Fld.dmaChStatusState 2
    wrFld (Reg.dmaChStatus n) Fld.dmaChStatusArmed 0

/-- Begin a reset (R461, R464): the fence is raised, event 0x7001, and the work the scope holds meets it (R468). -/
def beginReset (sc : Scope) (cause trigger cameFrom : Nat) (zeroDrain : Bool) : M Unit := do
  if sc = .part 4 then camerasDown
  if sc = .part 5 then jesdDown
  let s ← getS
  let seq := s.rcv.nextReport
  let (e, h, p) := match sc with
    | .ctxEngine e h => (e, h, partOf e)
    | .engine e => (e, 0, partOf e)
    | .part p => (0xFF, 0, p)
    | _ => (0xFF, 0, 0xFF)
  let dmaAt := if 0x40 ≤ e ∧ e < 0x80 then (((tblFind s.dma (e - 0x40)).bind (·.cur)).map (·.addr)).getD 0 else 0
  let r : Reset := ⟨sc.rung, sc.code, e, p, h, cause, trigger, seq, cameFrom, s.clock.now, 0, 0, 0, 0, 0, 0, dmaAt, []⟩
  let f : Fence := ⟨s.clock.now, if zeroDrain then some s.clock.now else none, 0, 0⟩
  update (.rcv fun x => { x with
    nextReport := (seq + 1) % 2 ^ 32
    fences := tblSet x.fences sc.key f
    resets := tblSet x.resets sc.key r
    history := x.history ++ [(sc.key, sc.rung, trigger)] })
  rcvEvent sc 0x7001 [(1, sc.rung), (1, sc.code), (1, e), (1, 0), (4, seq), (2, cause)]
  match sc with
  | .ctxEngine e h => do
    let n ← endOnEngine e h 4
    update (.rcv fun x => { x with resets := tblSet x.resets sc.key { r with ended := n } })
  | .engine e => do
    modEngine e fun g => { g with resetting := true }
    drainDma e
    let (n, held) ← interruptEngines [e] sc.key
    update (.rcv fun x => { x with resets := tblSet x.resets sc.key { r with interrupted := n, held := held } })
  | .part p => do
    for e in enginesIn p do
      modEngine e fun g => { g with resetting := true }
      drainDma e
    let (n, held) ← interruptEngines (enginesIn p) sc.key
    if p < 4 then selfRefresh p
    update (.rcv fun x => { x with resets := tblSet x.resets sc.key { r with interrupted := n, held := held } })
  | .die => do
    match s.bist.unit with
    | some u => wrFld (Reg.bistResult u) Fld.bistResultAborted 1
    | none => pure ()
    sendResetNotices
    let s ← getS
    for q in List.range 4 do writeBackHome q
    for q in List.range 4 do selfRefresh q
    update (.rcv fun x => { x with
      resets := tblSet x.resets sc.key { r with interrupted := s.tally.tasks.length }
      priv := x.priv ++ [s.clock.now] })
    update (.pins fun x => { x with safeN := false, trayAlertN := false })
  | .package => pure ()
  | _ => update (.rcv fun x => { x with priv := x.priv ++ [s.clock.now] })

/-- Ask the tray controller for a power cycle (R474, R478, R480): message, pins, event 0x7007, the report with outcome 3. -/
def requestPowerCycle (reason cause stamp cameFrom : Nat) (byBcc : Bool) : M Unit := do
  let s ← getS
  let seq := s.rcv.nextReport
  update (.rcv fun x => { x with
    reason := reason
    requestAt := s.clock.now
    recorded := x.recorded || byBcc
    nextReport := (seq + 1) % 2 ^ 32 })
  update (.pins fun p => { p with pcycReqN := false, trayAlertN := false, safeN := false })
  raise 0x81 0xFF 0x7007 (det [(1, reason), (3, 0), (4, seq)])
  writeReport ⟨5, 5, 0xFF, 0xFF, 0, cause, stamp, seq, cameFrom, 0, 0, 0, 0, 0, 0, 0, 0, []⟩ 3

/-- How often a scope was reset at its rung within the escalation window (R466). -/
def State.resetCount (s : State) (sc : Scope) : Nat :=
  let w := s.fld Reg.rcvEsc Fld.rcvEscWindowS * 2 ^ 32
  (s.rcv.history.filter fun x => x.1 == sc.key && x.2.1 == sc.rung && s.clock.now ≤ x.2.2 + w).length

/-- Climb from a scope by repeat counts (R466): event 0x7003 with reason 1 at each step; answers the scope to reset and
the rung it was escalated from. -/
def climb : Nat → Scope → Nat → M (Scope × Nat)
  | 0, sc, src => return (sc, src)
  | n + 1, sc, src => do
    let s ← getS
    if sc = .package ∨ s.resetCount sc < s.fld Reg.rcvEsc Fld.rcvEscCount then return (sc, src)
    else do
      rcvEvent sc 0x7003 [(1, sc.rung), (1, sc.enclosing.rung), (1, 1), (1, 0), (4, s.rcv.nextReport)]
      climb n sc.enclosing sc.rung

/-- Stop running resets of scopes inside a larger one (R467): event 0x7003 with reason 2, their reports escalated. -/
def takeOver (sc : Scope) : M Unit := do
  let s ← getS
  for (key, r) in s.rcv.resets do
    if r.toScope.inside sc then
      rcvEvent r.toScope 0x7003 [(1, r.rung), (1, sc.rung), (1, 2), (1, 0), (4, r.seq)]
      writeReport r 1
      update (.rcv fun x => { x with resets := tblDel x.resets key, fences := tblDel x.fences key })

/-- Whether a scope lies inside the unit under test, whose test absorbs its triggers (R491). -/
def State.testAbsorbs (s : State) (sc : Scope) : Bool :=
  match s.bist.unit with
  | some u => u < 6 && 1 ≤ sc.rung && sc.rung ≤ 3 && sc.partCode == u
  | none => false

/-- A trigger (R464–R467, R491): absorbed by a running reset of the same or a larger scope and by the unit under test; otherwise it
takes over smaller ones, climbs by repeat count, and begins. The package scope asks for a power cycle. -/
def trigger (sc0 : Scope) (cause : Nat) (stamp cameFrom : Nat) (zeroDrain : Bool) : M Unit := do
  let s ← getS
  if s.testAbsorbs sc0 || s.rcv.resets.any fun p => p.2.toScope == sc0 || sc0.inside p.2.toScope then pure ()
  else do
    let (sc, src) ← climb 4 sc0 cameFrom
    let s ← getS
    if s.rcv.resets.any fun p => p.2.toScope == sc || sc.inside p.2.toScope then pure ()
    else if sc = .package then requestPowerCycle (if src = 4 then 1 else 3) cause stamp src true
    else do
      takeOver sc
      beginReset sc cause stamp src zeroDrain

/-- The scope of a rung 2 request for an engine: engines of partition S are reset alone at rung 2 as well (R464). -/
def engineScope (e : Nat) : Scope := .engine e

/-- The scope of a rung 3 request: partition S is the die (R16, R464). -/
def partScope (p : Nat) : Scope := if p = 6 ∨ p = 0xFF then .die else .part p

end Sys2Proof.Machine
end

