-- ==== Sys2Proof/Machine/Life.lean ====
section
/-! DEFINITION. The life of tasks: tokens, dispatch, start, boundaries, ABFT, pre-emption, ends, commits, releases, budgets, faults,
holds, bands (R120–R137, R155–R160, R201, R216–R224, R242–R254). -/

namespace Sys2Proof.Machine

open Sys2Proof

/-! ## Tokens and dispatch -/

/-- TOKEN_ARRIVAL (R120): a token for key k of a context; one carrying an old handle is discarded and counted (R477). -/
def tokenArrival (h key : Nat) (failed : Bool) : M Unit := do
  let s ← getS
  if (s.ctx h).isNone then countLate else settleAll [.token (h * 4096 + key) failed]

def execTokenArrival (handle key : Nat) (failed : Bool) (s : State) : Host.Outcome State Fault Refusal :=
  whenEnabled (fun _ => 1 ≤ key && key < 4096) (tokenArrival handle key failed) s

/-- The home partition of a task's input slot 0 tensor, by its descriptor (R124). -/
def State.homeOfInput (s : State) (t : Nat) : Option Nat :=
  match s.task t with
  | none => none
  | some k =>
    if slotKind (dSlot k.desc 0) = 0 ∨ 4 ≤ slotKind (dSlot k.desc 0) then none
    else (s.peek k.handle (slotAddr (dSlot k.desc 0)) 64).map tdHome

/-- The frame an ISP_FRAME task names (R287): context and number, by its parameter block in memory. -/
def State.ispFrame (s : State) (k : Task) : Option (Nat × Nat) :=
  if dOpcode k.desc ≠ 0x500 then none
  else match s.peek k.handle (dParam k.desc) 8 with
    | some p =>
      if leAt p 1 1 ≠ 0 then none
      else some (leAt p 0 1, if leAt p 3 1 = 1 then (match k.origin with | .inst _ _ n => n | .enq _ _ => 0) else leAt p 4 4)
    | none => none

/-- Whether a task is one for the in-line channel (R286): it names a frame of the in-line context that is in-line or has not started. -/
def State.inlineTask (s : State) (t : Nat) : Bool :=
  match (s.task t).bind s.ispFrame with
  | none => false
  | some (c, n) =>
    s.flag Reg.ispCtl Fld.ispCtlInlineEn && s.fld Reg.ispCtl Fld.ispCtlInlineCtx == c
      && (match (tblGet s.cams.cams cam0 c).frames.find? fun f => f.num == n with
          | some f => f.direct && !f.miss && !f.dropped
          | none => ((tblGet s.cams.cams cam0 c).frames.getLast?.map fun f => seqBefore f.num n).getD true)

/-- The DFE channel of a DFE_DDC or DFE_DUC task (R383): that of the carrier its parameter block names; a block that names none is read,
and refused, in the channel of carrier 0. -/
def State.dfeChannel (s : State) (t : Nat) : Option Nat :=
  match s.task t with
  | none => none
  | some k =>
    let c := ((s.peek k.handle (dParam k.desc) 1).map leNat).getD 0
    let c := if c < 12 then c else 0
    if dOpcode k.desc = 0x600 then some (0x200 + c) else if dOpcode k.desc = 0x601 then some (0x210 + c) else none

/-- Whether a stall may take a task as far as the channels beside the stalls go. -/
def State.channelFits (s : State) (e t : Nat) : Bool :=
  if e = inlineChannel then s.inlineTask t
  else if e = 0x28 then !s.inlineTask t
  else if e = 0x31 || isChannel e then s.dfeChannel t == some e
  else true

/-- The task Tally takes for a free stall of an engine (R124): the first eligible task of the highest non-empty class, or for a tile
one at home among the first 16 of that class. -/
def State.pick (s : State) (e : Nat) : Option Nat :=
  let ok : Nat → Bool := fun t => s.eligible e t && s.channelFits e t
  let lists := [7, 6, 5, 4, 3, 2, 1, 0].map fun c => tblGet s.tally.ready [] (listKey (kindOf e) c)
  match lists.find? fun l => l.any ok with
  | none => none
  | some l =>
    let home := if kindOf e = 0 then
        (l.take 16).find? fun t => ok t && s.homeOfInput t == some (partOf e)
      else none
    match home with
    | some t => some t
    | none => l.find? ok

/-- Whether a stall of an engine can be filled now. -/
def State.canDispatch (s : State) (e : Nat) : Bool :=
  kindOf e < 15 && s.serving e && (s.engine e).next.isNone && (s.pick e).isSome

/-- DISPATCH (R124, R125, R131): the prefetched stall takes the task; a wake begins when the engine is gated. -/
def dispatch (e : Nat) : M Unit := do
  let s ← getS
  match s.pick e with
  | none => pure ()
  | some t => do
    unlist t
    modTask t fun k => { k with life := .assigned, engine := if s.isSaved t then k.engine else baseEngine e }
    modEngine e fun g => { g with next := some t }
    let b := baseEngine e
    modEngine b fun g => { g with power := if g.power = .awake ∨ !gated b then g.power else .waking }

def execDispatch (engine : Nat) (s : State) : Host.Outcome State Fault Refusal :=
  whenEnabled (fun s => s.canDispatch engine) (dispatch engine) s

/-- Whether the prefetched task can start: descriptors read, engine awake, running stall empty. -/
def State.canStart (s : State) (e : Nat) : Bool :=
  let g := s.engine e
  let b := s.engine (baseEngine e)
  g.running.isNone && s.serving e && (!gated (baseEngine e) || b.power == .awake) && !b.stopped
    && (match g.next.bind s.task with
        | some k => k.fetched
        | none => false)

/-- TASK_START (R125, R147, R222): the task enters the running stall; a pre-empted one is restored and continues. -/
def taskStart (e : Nat) : M Unit := do
  let s ← getS
  match (s.engine e).next with
  | none => pure ()
  | some t => do
    for (x, g) in s.engines do
      if g.saved.contains t then modEngine x fun g => { g with saved := g.saved.filter (· ≠ t) }
    modEngine e fun g => { g with running := some t, next := none, preempting := false, beat := s.clock.now }
    modTask t fun k => { k with
      life := .running, engine := baseEngine e, runAt := s.clock.now,
      start := if k.start = 0 then s.clock.now else k.start }

def execTaskStart (engine : Nat) (s : State) : Host.Outcome State Fault Refusal :=
  whenEnabled (fun s => s.canStart engine) (taskStart engine) s

/-! ## Block steps and ABFT (R201, R216–R219) -/

/-- BLOCK_STEP_END (R201, R217, R218, R459): a boundary and a heartbeat; a column mismatch discards the K block for
recomputation. -/
def blockStepEnd (e : Nat) (mismatch : Option Nat) : M Unit := do
  let s ← getS
  match (s.engine e).running with
  | none => pure ()
  | some t => do
    modEngine e fun g => { g with beat := s.clock.now, recompute := mismatch }
    match mismatch with
    | some lane => if e < 0x20 then wrFld (Reg.ttStatus e) Fld.ttStatusLastLane lane
    | none => modTask t fun k => { k with steps := k.steps + 1 }

def execBlockStepEnd (engine : Nat) (mismatch : Option Nat) (s : State) : Host.Outcome State Fault Refusal :=
  whenEnabled (fun s => (s.engine engine).running.isSome && (s.engine engine).recompute.isNone
      && (match mismatch with | some l => engine < 0x20 && l < 64 | none => true))
    (blockStepEnd engine mismatch) s

/-- Span of the lane count of R218. -/
def dayUnits : Nat := 86400 * 2 ^ 32

/-- ABFT_RECOMPUTE_DONE (R217, R218): passed with event 0x4401, or failed: the task ends aborted, event 0x4402, the tile takes
rung 2. A lane that reaches its limit takes the tile out of service with event 0x4403. -/
def abftRecomputeDone (e : Nat) (ok : Bool) : M Unit := do
  let s ← getS
  match (s.engine e).running, (s.engine e).recompute with
  | some t, some lane =>
    match s.task t with
    | none => pure ()
    | some k => do
      let recent := ((s.engine e).lanes.filter fun x => s.clock.now ≤ x.2 + dayUnits) ++ [(lane, s.clock.now)]
      let n := (recent.filter fun x => x.1 == lane).length
      modEngine e fun g => { g with recompute := none, lanes := recent }
      let detail := taskDetail [(1, lane), (1, 0), (2, k.steps % 65536)] k 0xFF
      if ok then do
        bump (Reg.ttAbftCnt e) Fld.ttAbftCntRetried 1
        modTask t fun k => { k with steps := k.steps + 1 }
        settleAll (← raiseFor t e (partOf e) 0x4401 detail)
      else do
        bump (Reg.ttAbftCnt e) Fld.ttAbftCntFailed 1
        settleAll (← raiseFor t e (partOf e) 0x4402 detail)
        faultTask t false false 1
        trigger (.engine e) 0x4402 s.clock.now 0 false
      if s.fld (Reg.ttAbftCtl e) Fld.ttAbftCtlLaneLimit ≤ n then do
        raise e (partOf e) 0x4403 (det [(1, lane), (1, min n 255)])
        modEngine e fun g => { g with failed := true }
        presenceChanged
  | _, _ => pure ()

def execAbftRecomputeDone (engine : Nat) (ok : Bool) (s : State) : Host.Outcome State Fault Refusal :=
  whenEnabled (fun s => engine < 0x20 && (s.engine engine).recompute.isSome
      && ((s.engine engine).running.bind s.task).isSome) (abftRecomputeDone engine ok) s

/-! ## Pre-emption (R126, R221, R224) -/

/-- PREEMPT_SAVE (R51, R126, R221): the running task stops at the boundary and is saved, a tile's in a save area of
its partition buffer (R223), whose bytes are open; it re-enters the head of its list. -/
def preemptSave (e : Nat) : M Unit := do
  let s ← getS
  match (s.engine e).running with
  | none => pure ()
  | some t => do
    modTask t fun k => { k with life := .preempted, preempts := k.preempts + 1, used := k.used + (s.clock.now - k.runAt),
                                fetched := false }
    modEngine e fun g => { g with running := none, saved := g.saved ++ [t], preempting := false }
    if e < 0x20 then do
      bump (Reg.ttPreemptCnt e) Fld.ttPreemptCntCount 1
      let p := partOf e
      let a := 0x4020000000 + p * 0x1000000 + s.fld (Reg.save p) Fld.saveSlot * 0x200000
        + (e % 8 * 4 + (s.engine e).saved.length) * 0x10000
      let bytes ← freshBytes 0x10000
      update (.mem a bytes)
    let _ ← enlist t true

def execPreemptSave (engine : Nat) (s : State) : Host.Outcome State Fault Refusal :=
  whenEnabled (fun s => let g := s.engine engine
      g.preempting && g.running.isSome && g.next.isSome && g.saved.length < saveLimit engine)
    (preemptSave engine) s

/-! ## Ends (R90, R127) -/

/-- TASK_END (R90, R107, R234): an engine's task whose operation is done, with its bands filled and its appends made, ends
completed; `cycles` are the engine cycles it took. -/
def taskEnd (e cycles : Nat) : M Unit := do
  let s ← getS
  match (s.engine e).running with
  | none => pure ()
  | some t => do
    modTask t fun k => { k with cycles := k.cycles + cycles }
    if e < 0x20 then bump (Reg.ttBusy e) Fld.ttBusyCycles cycles
    finish t 0
    let s ← getS
    modEngine e fun g => { g with beat := s.clock.now }
    if (s.engine e).bypassed then presenceChanged

def execTaskEnd (engine cycles : Nat) (s : State) : Host.Outcome State Fault Refusal :=
  whenEnabled (fun s => match (s.engine engine).running.bind s.task with
      | some k => k.done && k.pendingAppends.isEmpty && k.ringOut.isEmpty
      | none => false) (taskEnd engine cycles) s

/-- The budget of a task in SiteTime units (R84, R127). -/
def State.budget (s : State) (k : Task) : Nat :=
  usUnits (if dOwnBudget k.desc then dBudgetM1 k.desc + 1
    else s.fld (Reg.tlyClassBudget (dClass k.desc)) Fld.tlyClassBudgetUsM1 + 1)

/-- The task whose budget an engine's expiry concerns: its running task; for Tally (0x80) a task that holds at an append. -/
def State.budgetTask (s : State) (e : Nat) : Option Nat :=
  if e = 0x80 then
    (s.tally.tasks.find? fun p => p.2.life == .tally && !p.2.pendingAppends.isEmpty
      && p.2.runAt + s.budget p.2 + settleMargin ≤ s.clock.now).map (·.1)
  else (s.engine e).running.filter fun t =>
    match s.task t with
    | some k => k.runAt + (s.budget k - k.used) + settleMargin ≤ s.clock.now
    | none => false

/-- BUDGET_EXPIRY (R127, R157): the task ends timed out, event 0x5101, and the engine's context takes rung 1. -/
def budgetExpiry (e : Nat) : M Unit := do
  let s ← getS
  match s.budgetTask e with
  | none => pure ()
  | some t =>
    match s.task t with
    | none => pure ()
    | some k => do
      settleAll (← raiseFor t 0x80 6 0x5101 (taskDetail [(4, 0)] k 0xFF))
      faultTask t false false 3
      if e ≠ 0x80 then trigger (.ctxEngine (baseEngine e) k.handle) 0x5101 s.clock.now 0 false

def execBudgetExpiry (engine : Nat) (s : State) : Host.Outcome State Fault Refusal :=
  whenEnabled (fun s => (s.budgetTask engine).isSome) (budgetExpiry engine) s

/-! ## Commits and releases (R155–R160) -/

/-- The held-effects list of a task that has ended and not yet committed. -/
def State.heldOf (s : State) (t : Nat) : Option HeldList :=
  s.tally.heldLists.find? fun l => l.task == t && !l.committed

/-- COMMIT (R156, R160, R165): both copies of the commit record are written; a duplicate is never written and its held effects are
discarded with event 0x0202. -/
def commit (t : Nat) : M Unit := do
  let s ← getS
  match s.heldOf t with
  | none => pure ()
  | some l =>
    if s.settled l.queue l.seq then do
      raise 0x80 6 0x0202 (det [(4, l.queue), (4, l.seq)])
      modTally fun x => { x with heldLists := x.heldLists.filter fun y => y.task != t }
      settleAll (← leaveEntry l.queue l.seq)
    else do
      if ← writeLedger l.queue l.seq 2 0 0 0 noKey 0 0 then
        modTally fun x => { x with heldLists := x.heldLists.map fun y =>
          if y.task = t then { y with committed := true } else y }
        noteCommit t

def execCommit (task : Nat) (s : State) : Host.Outcome State Fault Refusal :=
  whenEnabled (fun s => (s.heldOf task).isSome) (commit task) s

/-- The committed list of an entry. -/
def State.committedOf (s : State) (q seq : Nat) : Option HeldList :=
  s.tally.heldLists.find? fun l => l.queue == q && l.seq == seq && l.committed

/-- Whether the queue's ordering rule allows an entry's release (R158): no earlier entry (of the same flow) still in the ring. -/
def State.mayRelease (s : State) (q seq : Nat) : Bool :=
  match s.queue q with
  | none => false
  | some u =>
    let flow := ((u.ents.find? fun e => e.seq == seq).map (·.flow)).getD 0
    u.order == 1 || !u.ents.any fun e => seqBefore e.seq seq && (u.order == 0 || e.flow == flow)

/-- Mark the first undone effect of a list done. -/
def markDone : List (Effect × Bool) → List (Effect × Bool)
  | [] => []
  | (e, true) :: r => (e, true) :: markDone r
  | (e, false) :: r => (e, true) :: r

/-- Release one effect; answers whether its target acknowledged it, and the work that follows (R156, R159, R555). -/
def releaseOne (l : HeldList) (e : Effect) : M (Bool × List Work) := do
  let s ← getS
  match e with
  | .token => return (true, [.token l.key (l.status != 0)])
  | .completion => do
    let w ← deliverCompletion l.handle 0x80 l.record l.cplAddr l.notify
    return (true, w)
  | .append q slot index payload => do
    let key : OriginKey := ⟨l.queue, l.seq, slot, index⟩
    match s.queue q with
    | none => return (true, [])
    | some u =>
      -- a release to a proxy is done when the peer has accepted it (R423)
      if u.proxy.isSome ∧ u.keys.contains key then return (!s.awaitsPeer u l.seq l.queue slot index, [])
      else if u.ledger ∧ u.keys.contains key then do
        raise 0x80 6 0x0202 (det [(4, l.queue), (4, l.seq), (4, key.seq), (4, key.queue + key.slot * 2 ^ 20)])
        return (true, [])
      else
        match ← appendEntry q 0 payload l.handle (s.safetyOf l.handle) none none key with
        | .ok _ => return (u.proxy.isNone, [.bind q])
        | .error .memory => return (true, [])
        | .error .gated => return (true, [])
        | .error _ => return (false, [])

/-- Release the undone effects of a list in order, stopping at one that must wait. -/
def releaseAll (l : HeldList) : List (Effect × Bool) → M Unit
  | [] => pure ()
  | (_, true) :: r => releaseAll l r
  | (e, false) :: r => do
    let (ok, ws) ← releaseOne l e
    if ok then
      modTally fun x => { x with heldLists := x.heldLists.map fun y =>
        if y.task = l.task then { y with effects := markDone y.effects } else y }
      settleAll ws
      releaseAll l r

/-- HELD_EFFECT_RELEASE (R156, R158, R159): effects in list order; when all are done the entry is retired and leaves its ring. -/
def heldEffectRelease (q seq : Nat) : M Unit := do
  let s ← getS
  match s.committedOf q seq with
  | none => pure ()
  | some l => do
    releaseAll l l.effects
    let s ← getS
    match s.committedOf q seq with
    | none => pure ()
    | some l =>
      if l.effects.all (·.2) then
        modTally fun x => { x with heldLists := x.heldLists.filter fun y => y.task != l.task }
        settleAll (← leaveEntry q seq)

def execHeldEffectRelease (queue seq : Nat) (s : State) : Host.Outcome State Fault Refusal :=
  whenEnabled (fun s => (s.committedOf queue seq).isSome && s.mayRelease queue seq) (heldEffectRelease queue seq) s

/-! ## Appends of tasks (R109, R135, R554, R555) -/

/-- Whether a queue can accept an entry now. -/
def State.canAppend (s : State) (q : Nat) : Bool :=
  match s.queue q with
  | none => true
  | some u => !u.full && !(u.ledger && (s.fenced u.home || s.fenced u.mirror || u.blocked
      || !(s.ledgerRoom u.home 64 && s.ledgerRoom u.mirror 64)))

/-- Append the next entry of a task, or hold it for later; a failed ring write is a fault in mid-stream (R554). Answers whether
the task goes on. -/
def appendNow (t : Nat) (q slot : Nat) (payload : List Byte) : M Bool := do
  let s ← getS
  match s.task t with
  | none => return false
  | some k =>
    if !s.canAppend q then do
      modTask t fun k => { k with pendingAppends := [(q, slot, payload)] }
      return false
    else
      match ← appendEntry q 0 payload k.handle (s.safetyOf k.handle) none (some k) noKey with
      | .ok _ => do
        modTask t fun k => { k with pendingAppends := [], appended := k.appended + 1 }
        settleAll [.bind q]
        return true
      | .error .memory => do
        let cause := s.peekAddr ((s.queue q).map (·.owner) |>.getD 0) ((s.queue q).map (·.base) |>.getD 0)
        faultTask t cause.isNone false 1
        return false
      | .error .fenced => do
        faultTask t false true 1
        return false
      | .error _ => return true

/-- QUEUE_APPEND (R109, R555): a held append is accepted once room frees; a POST then ends completed. -/
def queueAppend (t : Nat) : M Unit := do
  let s ← getS
  match (s.task t).map (·.pendingAppends) with
  | some ((q, slot, payload) :: _) =>
    if ← appendNow t q slot payload then
      let s ← getS
      if ((s.task t).map fun k => k.life == .tally).getD false then finish t 0
  | _ => pure ()

def execQueueAppend (task : Nat) (s : State) : Host.Outcome State Fault Refusal :=
  whenEnabled (fun s => match (s.task task).map (·.pendingAppends) with
      | some ((q, _, _) :: _) => s.canAppend q
      | _ => false) (queueAppend task) s

/-! ## Faults and holds (R245–R249, R253) -/

/-- MIDSTREAM_FAULT (R245): an error response to a started task; reason 0 page fault, 1 fence response, otherwise a fault that cannot be
held. -/
def execMidstreamFault (task reason : Nat) (s : State) : Host.Outcome State Fault Refusal :=
  whenEnabled (fun s => ((s.task task).map fun k => k.life == .running).getD false)
    (faultTask task (reason == 0) (reason == 1) 1) s

/-- The longest hold in units (R247, R252). -/
def State.holdLimit (s : State) : Nat := msUnits (s.fld Reg.tlyHold Fld.tlyHoldMs)

/-- Who may write FAULT_RESUME and the other registers that application cores in supervisor or machine mode share with the
BCC (R253, R274). -/
def privileged : Requester → Bool
  | .bcc => true
  | .core _ .machine => true
  | .core _ .supervisor => true
  | _ => false

/-- Application cores in machine mode and the BCC. -/
def machineMode : Requester → Bool
  | .bcc => true
  | .core _ .machine => true
  | _ => false

/-- End a held chain without replay (R247). -/
def abandonHold (i reason : Nat) : M Unit := do
  let s ← getS
  match tblFind s.tally.holds i with
  | none => pure ()
  | some h => do
    modTally fun x => { x with holds := tblDel x.holds i }
    endChain h.chain 1 i reason

/-- A FAULT_RESUME write (R247, R253): refused with event 0x3501 unless it names a live page-fault hold by the faulting task's full
handle; one stamped after the hold's limit ends the chain. -/
def faultResume (by_ : Requester) (i h : Nat) (abandon : Bool) : M Unit := do
  let s ← getS
  let value := i % 1024 + flagBit abandon * 1024 + h % 2 ^ 20 * 4096
  if !privileged by_ then refuseReg Reg.faultResume value 0
  else
    let good := match tblFind s.tally.holds i with
      | some x => x.reason == 0 && ((x.chain.head?.bind s.task).map (·.handle)) == some h
      | none => false
    if !good then raise 0x80 6 0x3501 (det [(4, value)])
    else
      let late := ((tblFind s.tally.holds i).map fun x => decide (x.stamp + s.holdLimit < s.clock.now)).getD false
      if late then abandonHold i 3
      else if abandon then abandonHold i 1
      else resumeHold i

def execFaultResume (sender : Requester) (hold handle : Nat) (s : State) : Host.Outcome State Fault Refusal :=
  always (faultResume sender hold handle false) s

def execFaultResumeAbandon (sender : Requester) (hold handle : Nat) (s : State) : Host.Outcome State Fault Refusal :=
  always (faultResume sender hold handle true) s

/-- HOLD_LIMIT_EXPIRY (R247, R149, R150). -/
def execHoldLimitExpiry (hold : Nat) (s : State) : Host.Outcome State Fault Refusal :=
  whenEnabled (fun s => match tblFind s.tally.holds hold with
      | some h => h.stamp + s.holdLimit + settleMargin ≤ s.clock.now
      | none => false) (abandonHold hold 3) s

/-- Whether a task waits for another in Tally's wait graph (R249). -/
def State.waitsFor (s : State) (a b : Nat) : Bool :=
  let onRing := s.tally.rings.any fun (key, r) =>
    let depth := ((tblFind s.hall.bufs (key / 8)).map fun x => x.depthM1 + 1).getD 0
    (r.producer == some a && !r.ended && r.credit + depth ≤ r.fill && r.consumers.any fun c => c.1 == b && c.2 < r.fill)
    || (r.producer == some b && !r.ended && r.consumers.any fun c => c.1 == a && r.fill ≤ c.2)
  let onQueue := match s.task a with
    | some k => k.pendingAppends.any fun p =>
        match s.queue p.1 with
        | some u => u.full && u.ents.any fun e => (e.bound.map (·.1)) == some b
        | none => false
    | none => false
  let onEngine := match s.task a with
    | some k => k.life == .ready && (enginesOf k.kind).all (fun e => (s.engine e).next.isSome)
        && (enginesOf k.kind).any fun e => s.eligible e a && (s.engine e).running == some b
    | none => false
  onRing || onQueue || onEngine

/-- Stamp of the last progress on the rings and queues of some tasks. -/
def State.lastProgress (s : State) (ts : List Nat) : Nat :=
  let rings := s.tally.rings.filter fun (_, r) =>
    (match r.producer with | some p => ts.contains p | none => false) || r.consumers.any fun c => ts.contains c.1
  let qs := ts.flatMap fun t => ((s.task t).map fun k => k.pendingAppends.map (·.1)).getD []
  max (rings.foldl (fun m p => max m p.2.moved) 0)
    (qs.foldl (fun m q => max m (((s.queue q).map (·.left)).getD 0)) 0)

/-- Whether some tasks form a wait cycle that has made no progress for TLY_PROGRESS.us (R249). -/
def State.stuckCycle (s : State) (ts : List Nat) : Bool :=
  !ts.isEmpty && (List.range ts.length).all (fun i =>
      s.waitsFor (ts.getD i 0) (ts.getD ((i + 1) % ts.length) 0))
    && s.lastProgress ts + usUnits (s.fld Reg.tlyProgress Fld.tlyProgressUs) + settleMargin ≤ s.clock.now

/-- PROGRESS_WATCHDOG (R249): the youngest task of the cycle is aborted with event 0x5501. -/
def progressWatchdog (ts : List Nat) : M Unit := do
  let s ← getS
  let t := ts.foldl max 0
  match s.task t with
  | none => pure ()
  | some k => do
    settleAll (← raiseFor t 0x80 6 0x5501 (taskDetail [(1, min ts.length 255)] k 0xFF))
    faultTask t false false 1

def execProgressWatchdog (cycle : List Nat) (s : State) : Host.Outcome State Fault Refusal :=
  whenEnabled (fun s => s.stuckCycle cycle) (progressWatchdog cycle) s

/-! ## Bands (R242, R243, R365, R439) -/

/-- The ring keys of a task for a record. -/
def Task.ringOf (k : Task) (record : Nat) (out : Bool) : Option (Nat × Nat) :=
  k.rings.find? fun p => p.2 / 8 == record && (if out then 8 ≤ p.1 else p.1 < 8)

/-- Where band j of a ring copy stands (R364). -/
def HallBuf.bandAddr (b : HallBuf) (copy j : Nat) : Nat :=
  b.base + copy * b.stride + j % (b.depthM1 + 1) * b.bandBytes

/-- The sidecar addresses of a sealed band's layout tiles, with the bytes of each (R438): a tile is indexed by its band slot. -/
def HallBuf.bandSeals (b : HallBuf) (copy j tile : Nat) (bytes : List Byte) : List (Nat × List Byte) :=
  let n := b.bandBytes / max tile 1
  let total := (b.depthM1 + 1) * n
  (List.range n).map fun i =>
    (b.sealBase + 4 * (copy * total + j % (b.depthM1 + 1) * n + i), (bytes.drop (i * tile)).take tile)

/-- Layout-tile bytes of the descriptor a task has read for a slot. -/
def Task.tileBytes (k : Task) (sl : Nat) : Nat := ((tblFind k.tds sl).map tdTileBytes).getD 64

/-- Whether the producer has a formed band and a free place for it (R243, R365). -/
def State.canFill (s : State) (t rec : Nat) : Bool :=
  match s.task t, tblFind s.hall.bufs rec with
  | some k, some b =>
    match k.ringOf rec true with
    | some (sl, key) =>
      let r := s.ring key
      k.life == .running && r.producer == some t && r.fill < r.credit + b.depthM1 + 1 && k.ringOut.any fun p => p.1 == sl
    | none => false
  | _, _ => false

/-- BAND_FILLED (R242, R365): the band's bytes and seals (R439) are in memory, the fill count and flag advance, a slot that waited for
the first band is satisfied. A failed write is a fault in mid-stream. -/
def bandFilled (t rec : Nat) : M Unit := do
  let s ← getS
  match s.task t, tblFind s.hall.bufs rec with
  | some k, some b =>
    match k.ringOf rec true with
    | none => pure ()
    | some (sl, key) =>
      match k.ringOut.find? fun p => p.1 == sl with
      | none => pure ()
      | some (_, bytes) => do
        let r := s.ring key
        match ← ctxWrite k.engine k.handle (b.bandAddr (key % 8) r.fill) bytes with
        | some e => opFault t e
        | none => do
          if b.sealed then
            for (a, tile) in b.bandSeals (key % 8) r.fill (k.tileBytes sl) bytes do
              let _ ← ctxWrite k.engine k.handle a (leBytes 4 (crc32c tile))
          modTask t fun k => { k with ringOut := k.ringOut.erase (sl, bytes), steps := k.steps + 1 }
          modEngine k.engine fun g => { g with beat := s.clock.now }
          modRing key fun r => { r with fill := r.fill + 1, waiters := [], moved := s.clock.now, stamps := r.stamps ++ [s.clock.now] }
          modFlag (b.fillFlag + 2 * (key % 8)) fun f => { f with count := (f.count + 1) % 2 ^ 32 }
          settleAll (r.waiters.map fun w => .slot w.1 w.2 false)
  | _, _ => pure ()

def execBandFilled (task record : Nat) (s : State) : Host.Outcome State Fault Refusal :=
  whenEnabled (fun s => s.canFill task record) (bandFilled task record) s

/-- Whether a running consumer has a filled band it has not released (R242, R243). -/
def State.canReleaseBand (s : State) (t rec : Nat) : Bool :=
  match s.task t with
  | some k =>
    match k.ringOf rec false with
    | some (_, key) =>
      let r := s.ring key
      k.life == .running && r.consumers.any fun c => c.1 == t && c.2 < r.fill
    | none => false
  | none => false

/-- BAND_RELEASED (R242): the consumer has used the band's last unit; a band released by every consumer frees and the credit flag
advances. The bytes used are kept for the consumer's result; a seal that differs is a fault of kind 1 (R439). -/
def bandReleased (t rec : Nat) : M Unit := do
  let s ← getS
  match s.task t, tblFind s.hall.bufs rec with
  | some k, some b =>
    match k.ringOf rec false with
    | none => pure ()
    | some (sl, key) => do
      let j := (((s.ring key).consumers.find? fun c => c.1 == t).map (·.2)).getD 0
      match ← ctxRead k.engine k.handle (b.bandAddr (key % 8) j) b.bandBytes with
      | .error e => opFault t e
      | .ok bytes => do
        if b.sealed then
          for (a, tile) in b.bandSeals (key % 8) j (k.tileBytes sl) bytes do
            match ← ctxRead k.engine k.handle a 4 with
            | .ok c => if leNat c ≠ crc32c tile then taskFault k 1 ((a - b.sealBase) / 4) (crc32c tile)
            | .error _ => pure ()
        modTask t fun k => { k with ringIn := k.ringIn ++ [(sl, j, bytes)], steps := k.steps + 1 }
        modEngine k.engine fun g => { g with beat := s.clock.now }
        modRing key fun r => { r with
          moved := s.clock.now
          consumers := r.consumers.map fun c => if c.1 = t then (t, c.2 + 1) else c }
        settleCredit key
  | _, _ => pure ()

def execBandReleased (task record : Nat) (s : State) : Host.Outcome State Fault Refusal :=
  whenEnabled (fun s => s.canReleaseBand task record) (bandReleased task record) s

/-! ## Delay lists (R128, R129) -/

/-- The first tick edge of a list at or after a time (R128). -/
def tickEdge (list due : Nat) : Nat :=
  let unit := 2 ^ (8 + 2 * list)
  (due + unit - 1) / unit * unit

/-- DELAY_FIRE (R128, R129, R132): a DELAY task completes, or a symbol's cadence key is signalled. -/
def delayFire (i : Nat) : M Unit := do
  let s ← getS
  match s.tally.delay[i]? with
  | none => pure ()
  | some e => do
    modTally fun x => { x with delay := x.delay.eraseIdx i }
    match e.task with
    | some t => finish t 0
    | none => settleAll [.token ((2 ^ 20 + e.inst) * 4096 + 0xBF0 + e.symbol) false]

def execDelayFire (index : Nat) (s : State) : Host.Outcome State Fault Refusal :=
  whenEnabled (fun s => match s.tally.delay[index]? with
      | some e => tickEdge e.list e.due ≤ s.clock.now
      | none => false) (delayFire index) s

/-! ## Family 0x00 (R101, R102, R129, R134, R135) -/

/-- Whether a task is Tally's to run and carries an opcode. -/
def State.tallyTask (s : State) (t op : Nat) : Bool :=
  match s.task t with
  | some k => k.life == .tally && k.pendingAppends.isEmpty && dOpcode k.desc == op
  | none => false

/-- NOP: joins its token slots and completes. -/
def execNop (task : Nat) (s : State) : Host.Outcome State Fault Refusal :=
  whenEnabled (fun s => s.tallyTask task 0) (finish task 0) s

/-- Event 0x3004 (R89, R100): slot or 0xFE, offending byte offset; the task ends aborted. -/
def descriptorInvalid (t slot off : Nat) : M Unit := do
  let s ← getS
  match s.task t with
  | none => pure ()
  | some k => do
    let src := if dOpcode k.desc < 0x100 then 0x80 else k.engine
    settleAll (← raiseFor t src (partOf src) 0x3004 (taskDetail [(1, slot), (1, off)] k slot))
    finish t 1

/-- Read the parameter block of a family 0x00 task (R102): an error response ends it aborted at once. -/
def tallyParams (t : Nat) (k : Task) (go : List Byte → M Unit) : M Unit := do
  match ← ctxRead 0x80 k.handle (dParam k.desc) 64 with
  | .error _ => finish t 1
  | .ok p => go p

/-- DELAY (R129). -/
def delayTask (t : Nat) : M Unit := do
  let s ← getS
  match s.task t with
  | none => pure ()
  | some k => tallyParams t k fun p => do
    let due := leAt p 0 8
    let list := leAt p 8 1
    if 7 < list then descriptorInvalid t 0xFE 8
    else if !allZero p 9 55 then descriptorInvalid t 0xFE 9
    else if due < s.clock.now then finish t 0
    else if s.delaySize list ≤ s.delayUsed list then do
      raise 0x80 6 0x4102 (det [(4, list)])
      finish t 1
    else do
      modTally fun x => { x with delay := x.delay ++ [⟨list, due, some t, 0, 0⟩] }
      modTask t fun k => { k with life := .delayed }

def execDelay (task : Nat) (s : State) : Host.Outcome State Fault Refusal :=
  whenEnabled (fun s => s.tallyTask task 1) (delayTask task) s

/-- INSTANTIATE (R133–R135). -/
def instantiateTask (t : Nat) : M Unit := do
  let s ← getS
  match s.task t with
  | none => pure ()
  | some k => tallyParams t k fun p => do
    let g := leAt p 0 2 % 2 ^ 14
    let gr := tblFind s.tally.graphs g
    let bad := match gr with
      | none => true
      | some x => x.cadence != 0 || x.owner != k.handle || x.dereg || !s.stillGood x
    if leAt p 0 2 ≠ g then descriptorInvalid t 0xFE 0
    else if !allZero p 2 62 then descriptorInvalid t 0xFE 2
    else if bad then descriptorInvalid t 0xFE 0
    else
      match ← createInstance g ((gr.map (·.number)).getD 0) k.readyAt 0 with
      | .ok _ => do
        let _ ← countInstance g
        finish t 0
      | .error _ => finish t 1

def execInstantiate (task : Nat) (s : State) : Host.Outcome State Fault Refusal :=
  whenEnabled (fun s => s.tallyTask task 2) (instantiateTask task) s

/-- POST (R135, R155): a staged task's append is held; otherwise it is made, or the task holds at it; a queue that refuses the
entry (R79, R444) makes the parameter invalid. -/
def postTask (t : Nat) : M Unit := do
  let s ← getS
  match s.task t with
  | none => pure ()
  | some k => tallyParams t k fun p => do
    let q := slotQueue (dSlot k.desc 8)
    if !allZero p 48 16 then descriptorInvalid t 0xFE 48
    else if !s.mayEnqueue k.handle q ∨ s.gateRefuses q (some k) then descriptorInvalid t 8 0
    else if dStaged k.desc then do
      modTask t fun k => { k with effects := k.effects ++ [(.append q 0 0 (p.take 48), false)] }
      finish t 0
    else do
      modTask t fun k => { k with runAt := s.clock.now }
      if ← appendNow t q 0 (p.take 48) then finish t 0

def execPost (task : Nat) (s : State) : Host.Outcome State Fault Refusal :=
  whenEnabled (fun s => s.tallyTask task 3) (postTask task) s

end Sys2Proof.Machine
end

