-- ==== Sys2Proof/Machine/Memory.lean ====
section
/-! DEFINITION. Upkeep of memory: scrubbing, training, drift tracking and refresh of DDR channels, and invalidation of
translations (R30–R35, R44, R45). -/

namespace Sys2Proof.Machine

open Sys2Proof

/-- Whether a channel is trained and serves. -/
def State.chanServes (s : State) (c : Nat) : Bool :=
  c < 8 && s.flag (Reg.mcStatus c) Fld.mcStatusTrained && !s.flag (Reg.mcStatus c) Fld.mcStatusSelfRefresh

/-- The channel that holds an address. -/
def State.channelOf (s : State) (a : Nat) : Option Nat :=
  match s.place a with
  | .ddr p off => some (chanOf p off)
  | _ => none

/-- Whether a span has passed since a mark. -/
def State.due (s : State) (mark span : Nat) : Bool :=
  match tblFind s.sys.marks mark with
  | none => true
  | some t => t + span ≤ s.clock.now

def setMark (mark : Nat) : M Unit := do
  let s ← getS
  update (.sys fun m => { m with marks := tblSet m.marks mark s.clock.now })

/-- PATROL_SCRUB (R33, R34): every word of the channel with a correctable error is counted and written back, newly found
uncorrectable words are recorded and left; `weak` and `bad` are the words in which errors stand beside those already
known. -/
def patrolScrub (c : Nat) (weak bad : List Nat) : M Unit := do
  let s ← getS
  setMark c
  let mine := (s.sys.weakWords.filter fun w => s.channelOf w == some c) ++ weak
  for w in mine.dedup do eccCorrected w
  update (.sys fun m => { m with badWords := (m.badWords ++ bad).dedup })
  for w in bad.dedup do eccFailed 0xFF w 1

def execPatrolScrub (channel : Nat) (weak bad : List Nat) (s : State) : Host.Outcome State Fault Refusal :=
  whenEnabled (fun s => s.chanServes channel
      && s.due channel (s.fld (Reg.mcScrubPeriod channel) Fld.mcScrubPeriodHours * 3600 * 2 ^ 32)
      && (weak ++ bad).all (fun w => s.channelOf w == some channel && w % s.eccSize w == 0)
      && !weak.any bad.contains)
    (patrolScrub channel weak bad) s

/-- Ranks of a channel (R31, R35). -/
def State.ranksOf (s : State) (c : Nat) : Nat := ((tblFind s.sys.ddr c).map (·.ranks)).getD 0

/-- DRIFT_TRACKING (R35): a rank is retrained every 128 ms, never in the same period as a training run on the other channel
of its pair; MC_STATUS.tracking reads 1 only within the command. -/
def execDriftTracking (channel rank : Nat) (s : State) : Host.Outcome State Fault Refusal :=
  whenEnabled (fun s => s.chanServes channel && decide (rank < s.ranksOf channel)
      && s.due (16 + 2 * channel + rank) (msUnits 128)
      && s.due (48 + channel / 2) (msUnits 128)
      && (List.range 2).all fun r =>
          match tblFind s.sys.marks (16 + 2 * (if channel % 2 = 0 then channel + 1 else channel - 1) + r) with
          | some t => t / msUnits 128 != s.clock.now / msUnits 128
          | none => true)
    (setMark (16 + 2 * channel + rank)) s

/-- REFRESH (R35): every tREFI of 7.8 µs, halved above 85 °C; it changes no contents. -/
def execRefresh (channel rank : Nat) (hot : Bool) (s : State) : Host.Outcome State Fault Refusal :=
  whenEnabled (fun s => s.chanServes channel && decide (rank < s.ranksOf channel)
      && s.due (32 + 2 * channel + rank) (nsUnits (if hot then 3900 else 7800)))
    (setMark (32 + 2 * channel + rank)) s

/-- Capacity in GiB of a device configuration that R31 lists; 0 where it lists none. -/
def DdrConf.gib (d : DdrConf) : Nat :=
  if d.width = 8 ∧ d.density = 8 ∧ (d.ranks = 1 ∨ d.ranks = 2) then 8 * d.ranks
  else if d.width = 8 ∧ d.density = 16 ∧ (d.ranks = 1 ∨ d.ranks = 2) then 16 * d.ranks
  else if d.width = 4 ∧ d.density = 8 ∧ (d.ranks = 1 ∨ d.ranks = 2) then 16 * d.ranks
  else if d.width = 4 ∧ d.density = 16 ∧ d.ranks = 1 then 32 else 0

/-- TRAINING of a pair (R22, R30, R35): ecc_mode, capacity and the lower of the two speeds; a pair with a channel that is not
given or not listed, or whose channels differ in ranks, density or capacity, stays unpopulated. -/
def training (p : Nat) : M Unit := do
  let s ← getS
  setMark (48 + p)
  let a := tblFind s.sys.ddr (2 * p)
  let b := tblFind s.sys.ddr (2 * p + 1)
  let good := match a, b with
    | some x, some y => x.gib != 0 && y.gib != 0 && x.ranks == y.ranks && x.density == y.density && x.gib == y.gib
    | _, _ => false
  let speed := max (s.fld (Reg.mcCtl (2 * p)) Fld.mcCtlSpeed) (s.fld (Reg.mcCtl (2 * p + 1)) Fld.mcCtlSpeed)
  for (c, d) in [(2 * p, a), (2 * p + 1, b)] do
    if good then
      wrFld (Reg.mcCtl c) Fld.mcCtlEccMode (flagBit ((d.map (·.width)) == some 4))
      wrFld (Reg.mcStatus c) Fld.mcStatusCapacityGib ((d.map (·.gib)).getD 0)
      wrFld (Reg.mcStatus c) Fld.mcStatusSpeedRun speed
    else wrFld (Reg.mcStatus c) Fld.mcStatusCapacityGib 0
    wrFld (Reg.mcStatus c) Fld.mcStatusTrained (flagBit good)
    wrFld (Reg.mcStatus c) Fld.mcStatusSelfRefresh (flagBit !good)

def execTraining (part : Nat) (s : State) : Host.Outcome State Fault Refusal :=
  whenEnabled (fun _ => part < 4) (training part) s

/-- MMU_INVAL (R44, R45): starts one invalidation; refused with event 0x3005 while one runs, and with 0x3003 for any writer but
the BCC. -/
def mmuInval (by_ : Requester) (h : Nat) (all : Bool) : M Unit := do
  let s ← getS
  let v := h % 2 ^ 20 + flagBit all * 2 ^ 20
  if by_ ≠ .bcc then refuseReg Reg.mmuInval v 0
  else if s.sys.inval.isSome then raise 0x84 6 0x3005 (det [(4, h % 2 ^ 20)])
  else do
    update (.sys fun m => { m with inval := some ⟨h % 2 ^ 20, all,
      s.fld Reg.mmuInvalVa Fld.mmuInvalVaBase, s.fld Reg.mmuInvalPages Fld.mmuInvalPagesPagesM1 + 1⟩ })
    wrFld Reg.mmuInvalStatus Fld.mmuInvalStatusDone 0

def execMmuInval (sender : Requester) (handle : Nat) (all : Bool) (s : State) : Host.Outcome State Fault Refusal :=
  always (mmuInval sender handle all) s

/-- Whether a running invalidation covers a cached translation. -/
def Inval.covers (i : Inval) (e : TlbEntry) : Bool :=
  i.handle == e.handle && (i.all || (e.vpn * 2 ^ (9 * e.level) < i.base + i.pages && i.base < (e.vpn + 1) * 2 ^ (9 * e.level)))

/-- Remove the translations an invalidation covers. -/
def dropTranslations (i : Inval) : M Unit :=
  update (.sys fun m => { m with tlb := m.tlb.filter fun x => !i.covers x.2 })

/-- MMU_INVAL_DONE (R44): no cache holds a translation of the range. -/
def mmuInvalDone : M Unit := do
  let s ← getS
  match s.sys.inval with
  | none => pure ()
  | some i => do
    dropTranslations i
    update (.sys fun m => { m with inval := none })
    wrFld Reg.mmuInvalStatus Fld.mmuInvalStatusDone 1

def execMmuInvalDone (s : State) : Host.Outcome State Fault Refusal :=
  whenEnabled (fun s => s.sys.inval.isSome) mmuInvalDone s

end Sys2Proof.Machine
end

