-- ==== Sys2Proof/Machine/Dma.lean ====
section
/-! DEFINITION. The DMA channels (10_dma.md, R255–R275) and the bandwidth shares (R239). -/

namespace Sys2Proof.Machine

open Sys2Proof

/-! ## A channel and its registers -/

def State.chan (s : State) (n : Nat) : DmaChan := tblGet s.dma dma0 n

def modChan (n : Nat) (f : DmaChan → DmaChan) : M Unit := update (.dma fun t => tblSet t n (f (tblGet t dma0 n)))

/-- STATUS.state (R257): 0 idle, 1 running, 2 draining, 3 halted. -/
def State.chanState (s : State) (n : Nat) : Nat := s.fld (Reg.dmaChStatus n) Fld.dmaChStatusState

def State.chanArmed (s : State) (n : Nat) : Bool := s.flag (Reg.dmaChStatus n) Fld.dmaChStatusArmed

/-- The context handle of a channel. -/
def State.chanCtx (s : State) (n : Nat) : Nat := s.fld (Reg.dmaChCtx n) Fld.dmaChCtxHandle

def setArmed (n : Nat) (on : Bool) : M Unit := wrFld (Reg.dmaChStatus n) Fld.dmaChStatusArmed (flagBit on)

/-- Enter a state with a cause (R257). -/
def enterState (n st cause : Nat) : M Unit := do
  wrFld (Reg.dmaChStatus n) Fld.dmaChStatusState st
  wrFld (Reg.dmaChStatus n) Fld.dmaChStatusCause cause

/-- Raise an event of a channel (R275); the first of class 0x2–0x5 of a descriptor is kept for its notify entry (R266). -/
def chanEvent (n code : Nat) (detail : List (Nat × Nat)) : M Unit := do
  let s ← getS
  let seq := ((s.queue 0).map (·.evSeq)).getD 0
  raise (0x40 + n) (partOf (0x40 + n)) code (det detail)
  if (s.chan n).event = 0 ∧ 0x2000 ≤ code ∧ code < 0x6000 then
    modChan n fun c => { c with event := code, eventSeq := seq }

/-! ## Descriptor fields (R258, R259) -/

def ddNext (d : List Byte) : Nat := signExtend48 (leAt d 0 6)
def ddFlags (d : List Byte) : Nat := leAt d 6 1
def ddSrc (d : List Byte) : Nat := signExtend48 (leAt d 8 6)
def ddDst (d : List Byte) : Nat := signExtend48 (leAt d 0x10 6)
def ddCount (d : List Byte) (k : Nat) : Nat := leAt d (if k = 0 then 0x0E else if k = 1 then 0x16 else 0x1A) 2 + 1
def ddRun (d : List Byte) : Nat := leAt d 0x18 2 + 1
def ddSrcStep (d : List Byte) (k : Nat) : Int := signed 32 (leAt d (0x20 + 8 * k) 4)
def ddDstStep (d : List Byte) (k : Nat) : Int := signed 32 (leAt d (0x24 + 8 * k) 4)
def ddSignal (d : List Byte) : Bool := bitAt (ddFlags d) 0
def ddHall (d : List Byte) : Bool := bitAt (ddFlags d) 1
def ddNotify (d : List Byte) : Bool := bitAt (ddFlags d) 2
def ddWb (d : List Byte) : Bool := bitAt (ddFlags d) 4

/-- The units of a descriptor in the order of R261: (source, destination), addresses modulo 2^64. -/
def ddUnits (d : List Byte) : List (Nat × Nat) :=
  (List.range (ddCount d 2)).flatMap fun i2 => (List.range (ddCount d 1)).flatMap fun i1 =>
    (List.range (ddCount d 0)).flatMap fun i0 =>
      let at_ : (List Byte → Nat → Int) → Nat → Nat := fun step base =>
        unsigned 64 (base + i0 * step d 0 + i1 * step d 1 + i2 * step d 2)
      let a := at_ ddSrcStep (ddSrc d)
      let b := at_ ddDstStep (ddDst d)
      (List.range (ddRun d)).map fun u => ((a + 64 * u) % 2 ^ 64, (b + 64 * u) % 2 ^ 64)

/-- Whether an address of a physical-addressing context has bits [47:40] set (R258). -/
def State.badPhysical (s : State) (h a : Nat) : Bool :=
  ((s.ctx h).map fun c => c.physical && bitsOf a 40 8 != 0).getD false

/-- Whether a context may append to a queue: it owns it or holds a live grant (R79). -/
def State.holdsQueue (s : State) (h q : Nat) : Bool :=
  match s.queue q with
  | some u => u.owner == h || u.grants.contains h
  | none => false

/-- The byte offset of a descriptor's first offending field (R262). -/
def State.ddBad (s : State) (n : Nat) (d : List Byte) : Option Nat :=
  let h := s.chanCtx n
  let key := s.fld (Reg.dmaChSignal n) Fld.dmaChSignalKey
  let q := s.fld (Reg.dmaChNotify n) Fld.dmaChNotifyQueue
  let step : Nat → Bool × Nat := fun o => (leAt d o 4 % 64 != 0, o)
  ([(ddNext d % 64 != 0 || s.badPhysical h (ddNext d), 0),
    (ddFlags d / 32 != 0 || (ddSignal d && key == 0) || (ddNotify d && (q == 0 || !s.holdsQueue h q)), 6),
    (leAt d 7 1 != 0, 7),
    (ddSrc d % 64 != 0 || s.badPhysical h (ddSrc d), 8),
    (ddDst d % 64 != 0 || s.badPhysical h (ddDst d), 0x10),
    (leAt d 0x1D 3 != 0, 0x1D),
    step 0x20, step 0x24, step 0x28, step 0x2C, step 0x30, step 0x34].find? (·.1)).map (·.2)

/-! ## Fetching (R263, R267, R269, R270) -/

/-- Crates a channel holds or has fetched ahead of the executing descriptor's. -/
def DmaChan.cratesAhead (c : DmaChan) : Nat :=
  ((c.ahead.map fun d => d.addr / 256).dedup.filter fun x => (c.cur.map fun d => d.addr / 256) != some x).length

/-- Issue the fetch of the crate wanted next, up to four crates ahead (R263). -/
def issueFetch (n : Nat) : M Unit := do
  let s ← getS
  let c := s.chan n
  match c.want with
  | some a =>
    if c.fetch.isNone ∧ c.cratesAhead < 4 then
      modChan n fun c => { c with want := none, fetch := some (a, s.clock.now) }
  | none => pure ()

/-- The chain goes on at an address: its crate is wanted, or the chain is broken there (R269, reason 2). -/
def follow (n a : Nat) : M Unit := do
  let s ← getS
  if a % 64 ≠ 0 ∨ s.badPhysical (s.chanCtx n) a then modChan n fun c => { c with broken := some (2, a) }
  else modChan n fun c => { c with want := some a }

/-- Commit the shadow chain (R270): heads, armed, hops and hand-over kind; the chain goes on at the shadow head. -/
def commitShadow (n kind : Nat) : M Unit := do
  let s ← getS
  let head := s.fld (Reg.dmaChShadowHead n) Fld.dmaChShadowHeadHead
  wrFld (Reg.dmaChActiveHead n) Fld.dmaChActiveHeadHead head
  setArmed n false
  wrFld (Reg.dmaChStatus n) Fld.dmaChStatusHops 0
  wrFld (Reg.dmaChStatus n) Fld.dmaChStatusHandover kind
  modChan n fun c => { c with ended := false, loop := false }
  if kind = 2 then chanEvent n 0x0601 [(6, head)]
  follow n (signExtend48 head)

/-- Take descriptors of a crate from an address on, while the chain stays in it at slots not yet taken (R263, R267). -/
def takeDescs : Nat → Nat → List Byte → Nat → M Unit
  | 0, _, _, _ => pure ()
  | f + 1, n, crate, a => do
    let s ← getS
    let d := (crate.drop (a % 256)).take 64
    let hop := s.fld (Reg.dmaChStatus n) Fld.dmaChStatusHops
    let limit := s.fld (Reg.dmaChCfg n) Fld.dmaChCfgHopLimit
    modChan n fun c => { c with ahead := c.ahead ++ [⟨a, d, hop, 0, 0, 0, false, 0, 0, 0⟩] }
    wrFld (Reg.dmaChStatus n) Fld.dmaChStatusHops (min (hop + 1) (2 ^ 21 - 1))
    let next := ddNext d
    if next = 0 then
      if s.chanArmed n then commitShadow n 1 else modChan n fun c => { c with ended := true }
    else if next % 64 ≠ 0 ∨ s.badPhysical (s.chanCtx n) next then follow n next
    else if limit ≤ hop + 1 then
      modChan n fun c => { c with loop := true }
      chanEvent n 0x3602 [(4, hop + 1), (6, a % 2 ^ 48)]
    else if next / 256 = a / 256 ∧ a % 256 < next % 256 then takeDescs f n crate next
    else follow n next

/-- Enter draining for a halt (R257). -/
def drainFor (n cause : Nat) : M Unit := do
  wrFld (Reg.dmaChStatus n) Fld.dmaChStatusState 2
  modChan n fun c => { c with
    drain := cause
    ahead := []
    want := none
    fetch := none
    stopping := false }

/-- Take the next descriptor for execution, checking it (R262), or end the chain where none is left (R257, R269, R270). -/
def beginNext (n : Nat) : M Unit := do
  let s ← getS
  let c := s.chan n
  if s.chanState n ≠ 1 ∨ c.cur.isSome then pure ()
  else match c.ahead with
    | d :: rest => do
      wrFld (Reg.dmaChCur n) Fld.dmaChCurAddr (d.addr % 2 ^ 48)
      let d' : DmaDesc := { d with
        key := s.fld (Reg.dmaChSignal n) Fld.dmaChSignalKey
        flag := s.fld (Reg.dmaChHall n) Fld.dmaChHallFlag
        queue := s.fld (Reg.dmaChNotify n) Fld.dmaChNotifyQueue }
      modChan n fun c => { c with ahead := rest, event := 0, eventSeq := 0 }
      match s.ddBad n d.bytes with
      | some off => do
        modChan n fun c => { c with cur := some { d' with status := 0x82, stamp := s.clock.now, issued := true } }
        chanEvent n 0x3601 [(1, off), (3, 0), (6, d.addr % 2 ^ 48)]
      | none => modChan n fun c => { c with cur := some { d' with firstRead := s.clock.now } }
    | [] =>
      match c.broken with
      | some (reason, a) => do
        chanEvent n 0x4602 [(1, reason), (1, 0), (6, a % 2 ^ 48)]
        drainFor n 5
      | none =>
        if c.loop then drainFor n 4
        else if c.ended then
          (if s.chanArmed n then do
            commitShadow n 2
            issueFetch n
          else do
            modChan n fun _ => dma0
            enterState n 0 1)
        else pure ()

/-- Begin a chain from a head (R257, R267). -/
def startChain (n head : Nat) : M Unit := do
  modChan n fun _ => dma0
  wrFld (Reg.dmaChStatus n) Fld.dmaChStatusHops 0
  enterState n 1 0
  follow n (signExtend48 head)
  issueFetch n
  beginNext n

/-! ## Commands of the CTL register (R257, R268, R270, R271, R274) -/

/-- A write of one bit of CTL: the writer and the fence are checked first. -/
def ctlWrite (by_ : Requester) (n bit : Nat) (act : M Unit) : M Unit := do
  if ← reachReg by_ (partOf (0x40 + n)) then
    if privileged by_ then act else refuseReg (Reg.dmaChCtl n) (2 ^ bit) 0

/-- Whether a start or commit from idle or halted is taken (R257, R486). -/
def State.canStartChan (s : State) (n : Nat) : Bool :=
  (s.chanState n == 0 || s.chanState n == 3) && (s.ctx (s.chanCtx n)).isSome && s.present (0x40 + n)

/-- DMA_START (R257). -/
def dmaStart (n : Nat) : M Unit := do
  let s ← getS
  if s.canStartChan n then
    wrFld (Reg.dmaChStatus n) Fld.dmaChStatusHandover 0
    startChain n (s.fld (Reg.dmaChActiveHead n) Fld.dmaChActiveHeadHead)
  else refuseReg (Reg.dmaChCtl n) 1 0

def execDmaStart (sender : Requester) (ch : Nat) (s : State) : Host.Outcome State Fault Refusal :=
  whenEnabled (fun _ => ch < 64) (ctlWrite sender ch 0 (dmaStart ch)) s

/-- DMA_ARM (R270): armed while running or draining; from idle or halted the commit is taken at once. -/
def dmaArm (n : Nat) : M Unit := do
  let s ← getS
  if s.chanState n = 1 ∨ s.chanState n = 2 then setArmed n true
  else if s.canStartChan n then
    modChan n fun _ => dma0
    enterState n 1 0
    commitShadow n 2
    issueFetch n
    beginNext n
  else refuseReg (Reg.dmaChCtl n) 2 1

def execDmaArm (sender : Requester) (ch : Nat) (s : State) : Host.Outcome State Fault Refusal :=
  whenEnabled (fun _ => ch < 64) (ctlWrite sender ch 1 (dmaArm ch)) s

/-- DMA_DISARM (R271): clears armed before the hand-over point only. -/
def dmaDisarm (n : Nat) : M Unit := do
  let s ← getS
  if !(s.chan n).ended then setArmed n false

def execDmaDisarm (sender : Requester) (ch : Nat) (s : State) : Host.Outcome State Fault Refusal :=
  whenEnabled (fun _ => ch < 64) (ctlWrite sender ch 2 (dmaDisarm ch)) s

/-- DMA_STOP (R268): prefetched descriptors are discarded; the executing one completes, then the channel is idle with cause 2. -/
def dmaStop (n : Nat) : M Unit := do
  let s ← getS
  if s.chanState n = 1 then
    setArmed n false
    modChan n fun c => { c with
      ahead := []
      want := none
      fetch := none
      stopping := true }
    if (s.chan n).cur.isNone then
      modChan n fun _ => dma0
      enterState n 0 2
  else if s.chanState n = 2 then setArmed n false

def execDmaStop (sender : Requester) (ch : Nat) (s : State) : Host.Outcome State Fault Refusal :=
  whenEnabled (fun _ => ch < 64) (ctlWrite sender ch 3 (dmaStop ch)) s

/-! ## Moving units (R261, R264, R269) -/

/-- The status of a descriptor that met an error response (R260); a stale handle counts as an access fault (R43). -/
def MemErr.dmaStatus : MemErr → Nat
  | .decode => 0x84
  | .ecc => 0x85
  | .fence => 0x86
  | _ => 0x83

/-- Move units in order up to the first error; answers the error and its address. -/
def moveUnits (n : Nat) : List (Nat × Nat) → M (Option (MemErr × Nat))
  | [] => return none
  | (a, b) :: rest => do
    let s ← getS
    let h := s.chanCtx n
    match ← ctxRead (0x40 + n) h a 64 with
    | .error e => return some (e, a)
    | .ok bs =>
      match ← ctxWrite (0x40 + n) h b bs with
      | some e => return some (e, b)
      | none => do
        bump (Reg.dmaChBytes n) Fld.dmaChBytesBytes 64
        moveUnits n rest

/-- Destination units that are also source units of the same descriptor hold undefined values (R264). -/
def scramble (n : Nat) (us : List (Nat × Nat)) : M Unit := do
  let s ← getS
  for (_, b) in us do
    if us.any fun u => u.1 == b then
      let bs ← freshBytes 64
      let _ ← ctxWrite (0x40 + n) (s.chanCtx n) b bs

/-- Some of an executing descriptor's units moved when it is cut short; how many is open (R268, R269). -/
def moveSome (n : Nat) : M Unit := do
  let s ← getS
  match (s.chan n).cur with
  | some d =>
    if d.status = 0 then
      let us := ddUnits d.bytes
      let k ← fresh (us.length + 1)
      let _ ← moveUnits n (us.take k)
  | none => pure ()

/-! ## Completion (R265, R266) -/

/-- What a requester would meet at an address, without any effect: the first error of one 64-byte unit. -/
def State.unitFails (s : State) (who h va : Nat) (isWrite : Bool) : Bool :=
  match s.ctx h with
  | none => true
  | some c =>
    let pa : Option Nat :=
      if c.physical then (if va < 2 ^ 40 then some va else none)
      else if !canonical va then none
      else
        let chk : Nat → Nat → Option Nat := fun pte l => match leafCheck pte l va isWrite with
          | .ok p => some p
          | .error _ => none
        match (tlbOf who).bind fun k => s.tlbFind k h va with
        | some e => chk e.pte e.level
        | none => match s.walk who va 4 c.root with
          | .leaf pte l => chk pte l
          | _ => none
    match pa with
    | none => true
    | some p =>
      (isWrite && !c.safety && s.safetyPage p) || s.placeFenced (s.place p)
        || (match s.place p with
            | .hole => true
            | .regs _ => true
            | .rom _ => isWrite
            | _ => !isWrite && (s.eccWords p 64).any s.sys.badWords.contains)

/-- The executing descriptor of a channel that still has to move its units. -/
def State.moving (s : State) (n : Nat) : Option DmaDesc :=
  if s.chanState n = 1 ∧ !(s.engine (0x40 + n)).stopped then (s.chan n).cur.filter fun d => d.status == 0 else none

/-- Whether some unit of the executing descriptor meets an error. -/
def State.moveFails (s : State) (n : Nat) : Bool :=
  match s.moving n with
  | none => false
  | some d => (ddUnits d.bytes).any fun u =>
      s.unitFails (0x40 + n) (s.chanCtx n) u.1 false || s.unitFails (0x40 + n) (s.chanCtx n) u.2 true

/-- The 48-byte payload of a notify entry (R266). -/
def notifyPayload (n h : Nat) (c : DmaChan) (d : DmaDesc) : List Byte :=
  let st := if d.status = 0x81 then 0 else if d.status = 0x87 then 4 else if d.status = 0x88 then 3 else 1
  let cycles := if d.firstRead = 0 then 0 else (d.stamp - d.firstRead) * 1000000000 / 2 ^ 32
  leBytes 8 d.stamp ++ leBytes 8 d.firstRead ++ leBytes 4 d.hop ++ leBytes 4 0
    ++ leBytes 1 st ++ leBytes 1 (0x40 + n) ++ leBytes 2 0 ++ leBytes 4 h
    ++ leBytes 6 (min cycles (2 ^ 48 - 1)) ++ leBytes 2 c.event ++ zeros 8

/-- Send what the flags of a completed descriptor request (R265), unless it was invalid (R262); count it; go on. -/
def descDone (n : Nat) (d : DmaDesc) : M Unit := do
  let s ← getS
  let h := s.chanCtx n
  let c := s.chan n
  let ok := d.status == 0x81
  modChan n fun c => { c with cur := none }
  if ok then bump (Reg.dmaChDescCnt n) Fld.dmaChDescCntDone 1 else bump (Reg.dmaChDescCnt n) Fld.dmaChDescCntBad 1
  if d.status ≠ 0x82 then
    if ddSignal d.bytes then
      if (s.ctx h).isNone then countLate else settleAll [.token (h * 4096 + d.key) (!ok)]
    if ddHall d.bytes then
      if (s.ctx h).isNone then countLate
      else settleAll (← advanceFlag d.flag h (0x40 + n) (partOf (0x40 + n)) false)
    if ddNotify d.bytes then
      settleAll (← deviceAppend d.queue 2 (notifyPayload n h c d) (((s.queue d.queue).map (·.owner)).getD h) (s.safetyOf h))
  let s ← getS
  if s.chanState n = 1 then
    if (s.chan n).stopping then
      modChan n fun _ => dma0
      enterState n 0 2
    else
      issueFetch n
      beginNext n

/-- A descriptor gets its status and stamp; its write-back is issued where R260 asks for one, else it is done at once. -/
def settleDesc (n status : Nat) : M Unit := do
  let s ← getS
  match (s.chan n).cur with
  | none => pure ()
  | some d0 => do
    let d := { d0 with status := status, stamp := s.clock.now, issued := true }
    modChan n fun c => { c with cur := some d }
    if status = 0x81 ∧ !ddWb d.bytes then descDone n d

/-- Move the executing descriptor's units: done, or marked bad with event 0x4601 (R265, R269). -/
def runDesc (n : Nat) : M Unit := do
  let s ← getS
  match s.moving n with
  | none => pure ()
  | some d => do
    let us := ddUnits d.bytes
    match ← moveUnits n us with
    | none => do
      scramble n us
      settleDesc n 0x81
    | some (e, a) => do
      chanEvent n 0x4601 [(1, e.dmaStatus), (1, 0), (6, a % 2 ^ 48), (6, d.addr % 2 ^ 48)]
      settleDesc n e.dmaStatus

/-- DESCRIPTOR_COMPLETE (R265). -/
def execDescriptorComplete (ch : Nat) (s : State) : Host.Outcome State Fault Refusal :=
  whenEnabled (fun s => ch < 64 && (s.moving ch).isSome && !s.moveFails ch) (runDesc ch) s

/-- DMA_TRANSFER_ERROR (R269): an error response marks the descriptor bad; the channel goes on with its next. -/
def execDmaTransferError (ch : Nat) (s : State) : Host.Outcome State Fault Refusal :=
  whenEnabled (fun s => ch < 64 && s.moveFails ch) (runDesc ch) s

/-- WRITEBACK_ACK (R265, R269): status and stamp are written; then the token, the advance and the entry are sent. A failed
write-back halts the channel with chain-broken. -/
def writebackAck (n : Nat) : M Unit := do
  let s ← getS
  match (s.chan n).cur with
  | none => pure ()
  | some d => do
    let h := s.chanCtx n
    let e1 ← ctxWrite (0x40 + n) h (d.addr + 0x1C) (leBytes 1 d.status)
    let e2 ← if e1.isNone then ctxWrite (0x40 + n) h (d.addr + 0x38) (leBytes 8 d.stamp) else pure e1
    match e2 with
    | none => descDone n d
    | some _ => do
      modChan n fun c => { c with cur := none }
      bump (Reg.dmaChDescCnt n) Fld.dmaChDescCntBad 1
      chanEvent n 0x4602 [(1, 3), (1, 0), (6, d.addr % 2 ^ 48)]
      if s.chanState n = 1 then drainFor n 5

def execWritebackAck (ch : Nat) (s : State) : Host.Outcome State Fault Refusal :=
  whenEnabled (fun s => ch < 64 && (s.chanState ch == 1 || s.chanState ch == 2)
      && ((s.chan ch).cur.map (·.issued)).getD false) (writebackAck ch) s

/-- CRATE_FETCH_DONE (R263, R267, R269): the crate's descriptors on the chain are taken; an error response breaks the chain where
execution reaches it. -/
def crateFetchDone (n : Nat) : M Unit := do
  let s ← getS
  match (s.chan n).fetch with
  | none => pure ()
  | some (a, _) => do
    modChan n fun c => { c with fetch := none }
    match ← ctxRead (0x40 + n) (s.chanCtx n) (a / 256 * 256) 256 with
    | .error _ => modChan n fun c => { c with broken := some (0, a) }
    | .ok crate => takeDescs 4 n crate a
    issueFetch n
    beginNext n

def execCrateFetchDone (ch : Nat) (s : State) : Host.Outcome State Fault Refusal :=
  whenEnabled (fun s => ch < 64 && s.chanState ch == 1 && (s.chan ch).fetch.isSome) (crateFetchDone ch) s

/-- FETCH_TIMEOUT (R269, R149, R150). -/
def fetchTimeout (n : Nat) : M Unit := do
  let s ← getS
  match (s.chan n).fetch with
  | none => pure ()
  | some (a, _) => do
    modChan n fun c => { c with fetch := none, broken := some (1, a) }
    beginNext n

def execFetchTimeout (ch : Nat) (s : State) : Host.Outcome State Fault Refusal :=
  whenEnabled (fun s => ch < 64 && s.chanState ch == 1 && (match (s.chan ch).fetch with
      | some (_, t) => decide (t + usUnits (s.fld (Reg.dmaChCfg ch) Fld.dmaChCfgFetchUs) + settleMargin ≤ s.clock.now)
      | none => false)) (fetchTimeout ch) s

/-- DESCRIPTOR_TIMEOUT (R269, R149, R150): the descriptor is timed out and the channel drains to a halt with cause 6. -/
def descriptorTimeout (n : Nat) : M Unit := do
  let s ← getS
  match s.moving n with
  | none => pure ()
  | some d => do
    moveSome n
    chanEvent n 0x5601 [(4, d.hop), (6, d.addr % 2 ^ 48)]
    drainFor n 6
    settleDesc n 0x88

def execDescriptorTimeout (ch : Nat) (s : State) : Host.Outcome State Fault Refusal :=
  whenEnabled (fun s => ch < 64 && (match s.moving ch with
      | some d => decide (d.firstRead + msUnits (s.fld (Reg.dmaChCfg ch) Fld.dmaChCfgDescMs) + settleMargin ≤ s.clock.now)
      | none => false)) (descriptorTimeout ch) s

/-- DMA_ABORT (R268): nothing more is issued; the executing descriptor completes aborted; the channel drains to a halt with
cause 3. -/
def dmaAbort (n : Nat) : M Unit := do
  let s ← getS
  if s.chanState n = 1 then
    setArmed n false
    moveSome n
    drainFor n 3
    if ((s.chan n).cur.map fun d => d.status == 0).getD false then settleDesc n 0x87
  else if s.chanState n = 2 then setArmed n false

def execDmaAbort (sender : Requester) (ch : Nat) (s : State) : Host.Outcome State Fault Refusal :=
  whenEnabled (fun _ => ch < 64) (ctlWrite sender ch 4 (dmaAbort ch)) s

/-- DMA_DRAIN_COMPLETE (R257): every outstanding transfer is answered; the channel is halted with its cause. -/
def dmaDrainComplete (n : Nat) : M Unit := do
  let s ← getS
  let cause := (s.chan n).drain
  modChan n fun _ => dma0
  enterState n 3 cause

def execDmaDrainComplete (ch : Nat) (s : State) : Host.Outcome State Fault Refusal :=
  whenEnabled (fun s => ch < 64 && s.chanState ch == 2 && (s.chan ch).drain != 7 && (s.chan ch).cur.isNone)
    (dmaDrainComplete ch) s

/-! ## STREAM_SHARE (R239) -/

/-- Whether a partition is held in reset or in restricted mode. -/
def State.heldForShare (s : State) (p : Nat) : Bool :=
  s.rcv.bivouac || s.fenced p || s.flag (Reg.streamMode p) Fld.streamModeRestricted

/-- The three fields of STREAM_SHARE. -/
def shareFields : List Field := [Fld.streamShareRead, Fld.streamShareWrite, Fld.streamShareRemote]

/-- STREAM_SHARE_WRITE (R239): only by the BCC while the partition is in reset or restricted; each field clamped to 1–14; refused
whole unless the clamped fields sum to 16. -/
def streamShareWrite (by_ : Requester) (p : Nat) (v : Word) : M Unit := do
  let s ← getS
  let off := Reg.streamShare p
  let get : Field → Nat := fun f => getBits v f.lsb f.width
  let clamp : Field → Nat := fun f => min 14 (max 1 (get f))
  if by_ ≠ .bcc ∨ !(s.heldForShare p) ∨ (shareFields.map clamp).foldl (· + ·) 0 ≠ 16 then refuseReg off v.toNat 0
  else
    for f in shareFields do
      wrFld off f (clamp f)
      if get f ≠ clamp f then clampReg off (get f) (clamp f) f.lsb f.width

def execStreamShareWrite (sender : Requester) (part : Nat) (value : Word) (s : State) : Host.Outcome State Fault Refusal :=
  whenEnabled (fun _ => part < 4) (streamShareWrite sender part value) s

end Sys2Proof.Machine
end

