-- ==== Sys2Proof/Machine/Power.lean ====
section
/-! DEFINITION. Power, clocks and monitors (R496–R515, R543, R544). -/

namespace Sys2Proof.Machine

open Sys2Proof

def modPower (f : PowerSys → PowerSys) : M Unit := update (.power f)

/-! ## Loss of power (R469, R470, R497, R498) -/

/-- Everything that power holds is lost (R469, rung 5): memories, registers and tables take their reset values; flash, eMMC, the rails
themselves and what the wires have already carried remain. -/
def powerLoss : M Unit := do
  let s ← getS
  update (.memClear 0 (2 ^ 41))
  update (.regClear 0 (2 ^ 32))
  update (.out fun _ => none)
  update (.clock fun _ => State.reset.clock)
  update (.sys fun _ => State.reset.sys)
  update (.tally fun _ => State.reset.tally)
  update (.engines fun _ => [])
  update (.dma fun _ => [])
  update (.rcv fun r => { State.reset.rcv with privEmmc := r.privEmmc, recorded := r.recorded, wasBivouac := r.bivouac || r.wasBivouac })
  update (.hall fun _ => State.reset.hall)
  update (.pins fun _ => State.reset.pins)
  update (.fabric fun _ => State.reset.fabric)
  update (.eth fun _ => [])
  update (.sec fun _ => State.reset.sec)
  update (.bist fun _ => State.reset.bist)
  update (.safe fun _ => State.reset.safe)
  clearCameras
  modRadio fun _ => State.reset.radio
  modPower fun p => { State.reset.power with valid := p.valid, railAt := p.valid.map fun r => (r, 0) }
  let _ := s
  pure ()

/-! ## Rails (R497, R515) -/

/-- PWR_STATUS.rails follows the valid rails. -/
def showRails : M Unit := do
  let s ← getS
  wrFld Reg.pwrStatus Fld.pwrStatusRails (s.power.valid.foldl (fun n r => n + 2 ^ r) 0)

/-- A change of a rail's validity (R497): the register, and event 0xB001 once the device runs; the reading is open. -/
def railChanged (rail : Nat) (ok : Bool) : M Unit := do
  let s ← getS
  modPower fun p => { p with
    valid := if ok then p.valid.orderedInsert (· ≤ ·) rail else p.valid.filter (· ≠ rail)
    railAt := tblSet p.railAt rail s.clock.now }
  showRails
  if s.power.phase = 2 then
    let mv ← fresh 65536
    raise 0x81 0xFF 0xB001 (det [(1, rail), (1, flagBit ok), (2, mv)])

/-- RAIL_INVALID (R497): the effect of the table of rails. -/
def railInvalid (rail : Nat) : M Unit := do
  let s ← getS
  railChanged rail false
  if rail < 2 then powerLoss
  else if s.power.phase = 2 then
    if rail ≤ 6 then
      if rail = 5 ∨ rail = 6 then update (.rcv fun r => { r with ddrLost := true })
      trigger .die 0xB001 s.clock.now 0 true
    else if rail = 9 then
      for n in List.range 8 do trigger (.engine (0xA0 + n)) 0xB001 s.clock.now 0 false
    else
      for n in List.range 8 do trigger (.engine (0xA8 + n)) 0xB001 s.clock.now 0 false
      trigger (.engine 0xB0) 0xB001 s.clock.now 0 false
    drivePins

def execRailInvalid (rail : Nat) (s : State) : Host.Outcome State Fault Refusal :=
  whenEnabled (fun s => s.power.valid.contains rail) (railInvalid rail) s

/-- RAIL_VALID (R497). -/
def execRailValid (rail : Nat) (s : State) : Host.Outcome State Fault Refusal :=
  whenEnabled (fun s => rail < 10 && !s.power.valid.contains rail) (railChanged rail true) s

/-- Whether some rails have been valid for 2 ms (R497, R498). -/
def State.railsFor2ms (s : State) (rails : List Nat) : Bool :=
  rails.all fun r => s.power.valid.contains r && tblGet s.power.railAt 0 r + msUnits 2 ≤ s.clock.now

/-- POWER_ON (R498 step 1): the always-on domain leaves reset and drives the discrete outputs; in bivouac by its record the
device returns there at boot. -/
def powerOn : M Unit := do
  modPower fun p => { p with phase := 1 }
  update (.pins fun p => { p with driven := true, safeN := false, oosN := false, pcycReqN := true, thermN := true, trayAlertN := true })
  showRails
  wrFld Reg.clkStatus Fld.clkStatusLocked 1

def execPowerOn (s : State) : Host.Outcome State Fault Refusal :=
  whenEnabled (fun s => s.power.phase == 0 && s.power.valid.contains 0 && s.power.valid.contains 1) powerOn s

/-- Bits of CLK_STATUS.locked of some clock domains. -/
def setLocked (ds : List Nat) (on : Bool) : M Unit := do
  let s ← getS
  let old := s.fld Reg.clkStatus Fld.clkStatusLocked
  wrFld Reg.clkStatus Fld.clkStatusLocked (ds.foldl (fun n d =>
    if bitAt n d = on then n else if on then n + 2 ^ d else n - 2 ^ d) old)

/-- BCC_RESET_RELEASE (R498 step 2): PLLs of the BCC and SiteTime clocks start, the BCC leaves reset. -/
def bccResetRelease : M Unit := do
  let s ← getS
  modPower fun p => { p with phase := 2 }
  setLocked [22, 40] true
  update (.rcv fun r => { r with kickAt := s.clock.now })
  showRails

def execBccResetRelease (s : State) : Host.Outcome State Fault Refusal :=
  whenEnabled (fun s => s.power.phase == 1 && s.railsFor2ms (List.range 10)) bccResetRelease s

/-- REF_AO_LOSS (R544): as a loss of VDD_AO. -/
def execRefAoLoss (s : State) : Host.Outcome State Fault Refusal :=
  whenEnabled (fun s => s.power.phase != 0) powerLoss s

/-! ## Engine power states (R499–R501) -/

/-- The power domain of a gated engine (R499). -/
def domainOf (e : Nat) : Nat :=
  if e < 0x20 then e
  else if e < 0x30 then 44 + (e - 0x28)
  else if e = 0x31 then 59
  else if e = 0x30 then 60
  else 61 + (e - 0x32)

/-- The clock domain of an engine, DMA channel or port, by the order of R502. -/
def clockOf (e : Nat) : Nat :=
  if e < 0x20 then 1 + e / 8
  else if e < 0x24 then 1 + (e - 0x20)
  else if 0x28 ≤ e ∧ e ≤ 0x2E then 6
  else if 0x30 ≤ e ∧ e ≤ 0x35 then 8
  else if 0x40 ≤ e ∧ e < 0x80 then 7
  else if 0x88 ≤ e ∧ e ≤ 0x8F then 10 + (e - 0x88)
  else if e = 0xB3 then 9
  else if 0xA8 ≤ e ∧ e ≤ 0xAF then 23 + (e - 0xA8)
  else if e = 0xB0 then 31
  else if 0xA0 ≤ e ∧ e ≤ 0xA7 then 32 + (e - 0xA0)
  else 5

/-- Engines, channels and ports on a clock domain. -/
def clockEngines (d : Nat) : List Nat :=
  ((List.range 0x80) ++ List.range' 0x88 8 ++ List.range' 0xA0 17 ++ [0xB3]).filter fun e =>
    clockOf e == d && (kindOf e < 15 || 0x40 ≤ e)

/-- Whether a domain is kept (R501). -/
def State.kept (s : State) (d : Nat) : Bool := bitAt (s.reg (Reg.pwrKeep (d / 64))).toNat (d % 64)

/-- Both stalls of an engine are empty, and a DFE channel holds no task (R383, R500). -/
def State.idleEngine (s : State) (e : Nat) : Bool :=
  (e :: channelsOf e).all fun x => (s.engine x).running.isNone && (s.engine x).next.isNone

/-- Since when an engine has been idle, or in its power state. -/
def State.idleSince (s : State) (e : Nat) : Nat := (channelsOf e).foldl (fun m x => max m (s.engine x).since) (s.engine e).since

/-- WARM_STANDBY_ENTRY (R500). -/
def execWarmStandbyEntry (engine : Nat) (s : State) : Host.Outcome State Fault Refusal :=
  whenEnabled (fun s => gated engine && (s.engine engine).power == .awake && s.idleEngine engine
      && decide (s.idleSince engine + nsUnits (s.fld Reg.pwrIdle Fld.pwrIdleWarmNs) ≤ s.clock.now))
    (do
      let s ← getS
      modEngine engine fun g => { g with power := .warm, since := s.clock.now }) s

/-- COLD_ENTRY (R500, R501). -/
def execColdEntry (engine : Nat) (s : State) : Host.Outcome State Fault Refusal :=
  whenEnabled (fun s => gated engine && (s.engine engine).power == .warm && s.idleEngine engine && !s.kept (domainOf engine)
      && decide ((s.engine engine).since + usUnits (s.fld Reg.pwrIdle Fld.pwrIdleColdUs) ≤ s.clock.now))
    (do
      let s ← getS
      modEngine engine fun g => { g with power := .cold, since := s.clock.now }) s

/-- PLL_STOP (R500): every engine of the clock domain has been cold for cold_us. -/
def execPllStop (domain : Nat) (s : State) : Host.Outcome State Fault Refusal :=
  whenEnabled (fun s => ([1, 2, 3, 4, 6, 8].contains domain) && !s.power.stopped.contains domain
      && ((clockEngines domain).filter gated).all fun e => (s.engine e).power == .cold
        && (s.engine e).since + usUnits (s.fld Reg.pwrIdle Fld.pwrIdleColdUs) ≤ s.clock.now)
    (do
      modPower fun p => { p with stopped := p.stopped ++ [domain] }
      setLocked [domain] false) s

/-- WAKE_COMPLETE (R131, R500): the engine is awake; a stopped PLL of its domain runs again. -/
def wakeComplete (e : Nat) : M Unit := do
  let s ← getS
  if s.power.stopped.contains (clockOf e) then
    modPower fun p => { p with stopped := p.stopped.filter (· ≠ clockOf e) }
    setLocked [clockOf e] true
  modEngine e fun g => { g with power := .awake, since := s.clock.now, beat := s.clock.now }

def execWakeComplete (engine : Nat) (s : State) : Host.Outcome State Fault Refusal :=
  whenEnabled (fun s => (s.engine engine).power == .waking && (tblFind s.power.unlocked (clockOf engine)).isNone)
    (wakeComplete engine) s

/-! ## BCC-switched domains (R499, R513) -/

/-- Whether the BCC switches a domain. -/
def bccSwitched (d : Nat) : Bool := (32 ≤ d && d ≤ 43) || (51 ≤ d && d ≤ 58) || (65 ≤ d && d ≤ 80) || (82 ≤ d && d ≤ 84)

/-- Whether a partition is held in reset. -/
def State.heldInReset (s : State) (p : Nat) : Bool :=
  (s.rcv.bivouac && p < 6) || ((s.fence (0x100 + p)).isSome) || (s.fence 0x200).isSome

/-- Whether a BCC-switched domain may be off (R499). -/
def State.mayBeOff (s : State) (d : Nat) : Bool :=
  if d ≤ 35 then s.heldInReset (d - 32)
  else if d ≤ 43 then s.chanGib (d - 36) == 0
  else if d ≤ 58 then
    let r := hallGroup (d - 51)
    !(s.tally.buffers.any fun b =>
        (List.range ((b.length + 4095) / 4096 + 1)).any fun i =>
          match s.peekAddr b.handle (min (b.base + 4096 * i) (b.base + b.length - 1)) with
          | some a => r.1 ≤ a && a < r.1 + r.2
          | none => false)
      && !(s.hall.bufs.any fun p => p.2.base != 0 &&
          (match s.peekAddr p.2.owner p.2.base with
            | some a => r.1 ≤ a && a < r.1 + r.2
            | none => false))
  else if d = 82 ∨ d = 83 then
    (List.range 4).all fun i => !s.flag (Reg.ethCtl (4 * (d - 82) + i)) Fld.ethCtlEnable
  else if d = 84 then s.fld Reg.pcieStatus Fld.pcieStatusSpeed == 0
  else true

/-- DOMAIN_SWITCH (R499, R513): a write of PWR_DOM.on by the BCC; a Hall group that goes off loses its contents and becomes a
hole. -/
def domainSwitch (by_ : Requester) (d : Nat) (on : Bool) : M Unit := do
  let s ← getS
  if by_ ≠ .bcc ∨ !bccSwitched d ∨ (!on ∧ !s.mayBeOff d) then refuseReg Reg.pwrDom (flagBit on) 0
  else do
    modPower fun p => { p with domOn := if on then ((p.domOn ++ [d]).dedup) else p.domOn.filter (· ≠ d) }
    if 51 ≤ d ∧ d ≤ 58 then
      let r := hallGroup (d - 51)
      if on then update (.sys fun m => { m with holes := m.holes.filter (· ≠ r) })
      else do
        update (.memClear r.1 (r.1 + r.2))
        update (.sys fun m => { m with holes := (m.holes ++ [r]).dedup })

def execDomainSwitch (sender : Requester) (domain : Nat) (on : Bool) (s : State) : Host.Outcome State Fault Refusal :=
  always (domainSwitch sender domain on) s

/-! ## PLLs (R503) -/

/-- Whether a clock domain has a PLL (R502). -/
def hasPll (d : Nat) : Bool := d != 0 && d < 41 && !(32 ≤ d && d ≤ 39)

/-- PLL_UNLOCK (R503, R459): the output stops, the engines of the domain stall, event 0xB009. -/
def pllUnlock (d : Nat) : M Unit := do
  let s ← getS
  modPower fun p => { p with unlocked := tblSet p.unlocked d (s.clock.now, false) }
  setLocked [d] false
  bump Reg.clkUnlockCnt Fld.clkUnlockCntCount 1
  for e in clockEngines d do modEngine e fun g => { g with stopped := true }
  raise 0x81 0xFF 0xB009 (det [(1, d), (1, 0)])

def execPllUnlock (domain : Nat) (s : State) : Host.Outcome State Fault Refusal :=
  whenEnabled (fun s => hasPll domain && bitAt (s.fld Reg.clkStatus Fld.clkStatusLocked) domain) (pllUnlock domain) s

/-- PLL_RELOCKED (R503): the output restarts, the engines resume; the stopped time does not count for the hang watchdog. -/
def pllRelocked (d : Nat) : M Unit := do
  let s ← getS
  let t := ((tblFind s.power.unlocked d).map (·.1)).getD s.clock.now
  modPower fun p => { p with unlocked := tblDel p.unlocked d }
  setLocked [d] true
  for e in clockEngines d do modEngine e fun g => { g with stopped := false, beat := g.beat + (s.clock.now - t) }

def execPllRelocked (domain : Nat) (s : State) : Host.Outcome State Fault Refusal :=
  whenEnabled (fun s => (tblFind s.power.unlocked domain).isSome) (pllRelocked domain) s

/-- PLL_RELOCK_TIMEOUT (R503): engines of the domain take rung 2, a domain of S rung 4; Ethernet and PCIe ports take rung 2. -/
def pllRelockTimeout (d : Nat) : M Unit := do
  let s ← getS
  modPower fun p => { p with unlocked := tblSet p.unlocked d (((tblFind s.power.unlocked d).map (·.1)).getD 0, true) }
  raise 0x81 0xFF 0xB009 (det [(1, d), (1, 1)])
  if d = 5 ∨ (18 ≤ d ∧ d ≤ 22) ∨ d = 40 then trigger .die 0xB009 s.clock.now 0 false
  else
    for e in clockEngines d do trigger (.engine e) 0xB009 s.clock.now 0 false

def execPllRelockTimeout (domain : Nat) (s : State) : Host.Outcome State Fault Refusal :=
  whenEnabled (fun s => match tblFind s.power.unlocked domain with
      | some (t, false) => t + usUnits 100 ≤ s.clock.now
      | _ => false) (pllRelockTimeout domain) s

/-! ## Package power (R506–R508) -/

/-- Mean of the samples of the last 1 ms. -/
def meanMw (l : List Nat) : Nat := if l.isEmpty then 0 else l.foldl (· + ·) 0 / l.length

/-- POWER_EVALUATION (R506): every 10 µs; throttling starts above 97 % of the limit and is lifted below 92 %; the duty chosen is
open. -/
def powerEvaluation (mw : Nat) : M Unit := do
  let s ← getS
  let samples := (mw :: s.power.samples).take 100
  let mean := meanMw samples
  let limit := s.fld Reg.pwrLimit Fld.pwrLimitWatts * 1000
  modPower fun p => { p with samples := samples }
  wrFld Reg.pwrStatus Fld.pwrStatusMw1ms (min mean (2 ^ 20 - 1))
  if limit * 97 < mean * 100 then
    let duty ← fresh 15
    modPower fun p => { p with duty := duty + 1 }
    if s.power.duty = 0 then
      wrFld Reg.pwrStatus Fld.pwrStatusThrottling 1
      raise 0x81 0xFF 0xB006 (det [(1, 1), (1, duty + 1), (2, 0), (4, mean)])
  else if mean * 100 < limit * 92 ∧ s.power.duty ≠ 0 then
    modPower fun p => { p with duty := 0 }
    wrFld Reg.pwrStatus Fld.pwrStatusThrottling 0
    raise 0x81 0xFF 0xB006 (det [(1, 0), (1, s.power.duty), (2, 0), (4, mean)])

def execPowerEvaluation (mw : Nat) (s : State) : Host.Outcome State Fault Refusal :=
  whenEnabled (fun s => s.power.phase == 2) (powerEvaluation mw) s

/-! ## Monitors (R504, R507, R509–R512) -/

/-- The partition of a temperature sensor (R504): 8 in each C partition, 8 in V, 4 in RD, 4 in S, 1 per core. -/
def sensorPart (i : Nat) : Nat := if i < 32 then i / 8 else if i < 40 then 4 else if i < 44 then 5 else 6

/-- The reading of a monitor, as a signed number. -/
def State.monitor (s : State) (kind i : Nat) : Int := signed 32 ((tblFind s.power.mon (kind * 256 + i)).map (·.1) |>.getD 0)

/-- Rated current of a record's partition in mA (R511). -/
def ratedMa (rec : Nat) : Nat := if rec < 4 then 42000 else if rec = 4 then 20000 else if rec = 5 then 16000 else if rec = 6 then 6000 else 60000

/-- The load band of a current (R511). -/
def bandOf (rec ma : Nat) : Nat :=
  let r := ratedMa rec
  if ma * 4 < r then 0 else if ma * 2 ≤ r then 1 else if ma * 4 ≤ r * 3 then 2 else 3

/-- Operating-point record n; before calibration it holds its reset values (R513). -/
def State.opRec (s : State) (n : Nat) : OpRec := tblGet s.power.records ⟨780, 0, false, false, 0, 0⟩ n

/-- The voltage a record's scope requires (R512). -/
def State.requiredMv (s : State) (n : Nat) : Nat :=
  let r := s.opRec n
  if r.valid && !r.fallback then r.mv else s.fld Reg.pwrOpdef Fld.pwrOpdefMv

/-- The setpoints (R510): VDD_CORE the highest requirement of the partitions not held in reset, within 600–800 mV; VDD_CPU from record 7,
within 600–900 mV. -/
def setAvs : M Unit := do
  let s ← getS
  let core := ((List.range 7).filter fun p => !s.heldInReset p).foldl (fun m p => max m (s.requiredMv p)) 600
  let cpu := if (s.opRec 7).valid then (s.opRec 7).mv else s.fld Reg.pwrAvs Fld.pwrAvsCpuMv
  wrFld Reg.pwrAvs Fld.pwrAvsCoreMv (min core 800)
  wrFld Reg.pwrAvs Fld.pwrAvsCpuMv (min (max cpu 600) 900)

/-- Fall back to the conservative default (R512), event 0xB002. -/
def opFallback (n band why ma : Nat) : M Unit := do
  let s ← getS
  let r := s.opRec n
  if r.valid ∧ !r.fallback then
    modPower fun p => { p with records := tblSet p.records n { r with fallback := true, needs := band } }
    setAvs
    raise 0x81 (if n < 7 then n else 6) 0xB002 (det [(1, n), (1, band), (1, r.band), (1, why), (4, ma),
      (4, s.fld Reg.pwrOpdef Fld.pwrOpdefMv)])

/-- Temperature steps on one sensor's new reading (R509), in 1/8 °C. -/
def thermal (i : Nat) : M Unit := do
  let s ← getS
  let p := sensorPart i
  let t := s.monitor 0 i
  let eighth := unsigned 16 t
  let thr : Int := 8 * s.fld Reg.monTherm Fld.monThermThrottleC
  let alarm : Int := 8 * s.fld Reg.monTherm Fld.monThermAlarmC
  let cool : (Nat → Bool) → Int → Bool := fun f lim => (List.range 64).all fun j => !f j || s.monitor 0 j ≤ lim
  if thr ≤ t ∧ !s.power.hot.contains p then
    modPower fun x => { x with hot := x.hot ++ [p] }
    raise 0x81 p 0xB003 (det [(1, p), (1, 1), (2, eighth)])
  if s.power.hot.contains p ∧ cool (fun j => sensorPart j == p) (thr - 24) then
    modPower fun x => { x with hot := x.hot.filter (· ≠ p) }
    raise 0x81 p 0xB003 (det [(1, p), (1, 0), (2, eighth)])
  if alarm ≤ t ∧ s.pins.thermN then
    update (.pins fun x => { x with thermN := false })
    raise 0x81 0xFF 0xB004 (det [(1, i), (1, 1), (2, eighth)])
  if !s.pins.thermN ∧ cool (fun _ => true) (alarm - 24) then
    update (.pins fun x => { x with thermN := true })
    raise 0x81 0xFF 0xB004 (det [(1, i), (1, 0), (2, eighth)])
  if 960 ≤ t ∧ !s.power.tripped then
    modPower fun x => { x with tripped := true }
    raise 0x81 0xFF 0xB005 (det [(1, i), (1, 0), (2, eighth)])
    trigger .die 0xB005 s.clock.now 0 false
    drivePins
  if s.power.tripped ∧ cool (fun _ => true) (8 * s.fld Reg.monTherm Fld.monThermResumeC) then
    modPower fun x => { x with tripped := false }
  if t < signed 8 (s.opRec p).calTemp * 8 - 240 then opFallback p 0 1 0

/-- A current sample (R507, R512): index 0–6 the VDD_CORE feed of a partition, 7 VDD_SRAM, 8 VDD_CPU. -/
def currentSample (i : Nat) : M Unit := do
  let s ← getS
  let ma := (s.monitor 3 i).toNat
  let total := (List.range 7).foldl (fun n p => n + (s.monitor 3 p).toNat) 0
  if i < 7 then
    modPower fun p => { p with cut := if 200000 < total then ((p.cut ++ [i]).dedup) else [] }
  let n := if i < 7 then i else 7
  if i ≠ 7 ∧ (s.opRec n).band < bandOf n ma then opFallback n (bandOf n ma) 0 ma

/-- MONITOR_SAMPLE (R504): the reading and its maximum, and what follows from a temperature or a current. -/
def monitorSample (kind i v : Nat) : M Unit := do
  let s ← getS
  let old := tblFind s.power.mon (kind * 256 + i)
  let v := v % 2 ^ 32
  let top := match old with
    | some (_, m) => if signed 32 m < signed 32 v then v else m
    | none => v
  modPower fun p => { p with mon := tblSet p.mon (kind * 256 + i) (v, top) }
  if kind = 0 then thermal i
  if kind = 3 then currentSample i

/-- Monitors of a kind (R504). -/
def monitorCount (kind : Nat) : Nat := if kind = 0 then 64 else if kind = 1 then 128 else if kind = 2 then 48 else if kind = 3 then 9 else 0

def execMonitorSample (kind index value : Nat) (s : State) : Host.Outcome State Fault Refusal :=
  whenEnabled (fun s => s.power.phase != 0 && index < monitorCount kind) (monitorSample kind index value) s

/-- Clock frequency of a partition's stretched domain, in kHz (R502). -/
def partKhz (p : Nat) : Nat := if p = 4 then 1000000 else if p = 5 then 983040 else 1250000

/-- DROOP_DETECT (R505): the partition's clocks are stretched; event 0xB007 at most once per 1 ms; which detector and what it read are
open. -/
def droopDetect (p : Nat) : M Unit := do
  let s ← getS
  modPower fun x => { x with droop := tblSet x.droop p s.clock.now }
  let quiet := ((tblFind s.power.droopEvent p).map fun t => decide (s.clock.now < t + msUnits 1)).getD false
  if !quiet then
    let d ← fresh 24
    let mv ← fresh 65536
    let n ← fresh (2 ^ 32)
    modPower fun x => { x with droopEvent := tblSet x.droopEvent p s.clock.now }
    raise 0x81 p 0xB007 (det [(1, p), (1, d), (2, mv), (4, n)])

def execDroopDetect (part : Nat) (s : State) : Host.Outcome State Fault Refusal :=
  whenEnabled (fun s => part < 7 && (tblFind s.power.droop part).isNone) (droopDetect part) s

/-- DROOP_STRETCH_END (R505): full frequency returns; the cycles of the stretch at half frequency are counted. -/
def droopStretchEnd (p : Nat) : M Unit := do
  let s ← getS
  let t := tblGet s.power.droop s.clock.now p
  modPower fun x => { x with droop := tblDel x.droop p }
  bump (Reg.monDroopCnt p) Fld.monDroopCntCycles ((s.clock.now - t) * (partKhz p * 1000) / 2 ^ 33)

def execDroopStretchEnd (part : Nat) (s : State) : Host.Outcome State Fault Refusal :=
  whenEnabled (fun s => (tblFind s.power.droop part).isSome) (droopStretchEnd part) s

end Sys2Proof.Machine
end

