-- ==== Sys2Proof/Machine/Recovery.lean ====
section
/-! DEFINITION. The commands of recovery: fences, rungs, watchdogs, restarts, replay, bivouac, the tray controller, context
teardown (18_reset_recovery.md, R459–R480; R161). -/

namespace Sys2Proof.Machine

open Sys2Proof

/-! ## Assertion of a reset (R464, R469) -/

/-- Registers whose page is one of some pages. -/
def State.regsIn (s : State) (pages : List Nat) : Tbl Word := s.regs.filter fun r => pages.contains (r.1 / 0x1000)

/-- The register pages of a scope. -/
def Scope.pages : Scope → List Nat
  | .engine e => (if 0x40 ≤ e ∧ e < 0x80 then [e] else enginePages e)
  | .part p => partPages p ++ ((enginesIn p).filter fun e => 0x40 ≤ e && e < 0x80)
  | .die => List.range 0x131
  | _ => []

/-- Restore the configuration fields of saved registers (R469): RW and RWK fields take their saved values; SAFE_CTL,
STREAM_MODE and the enabling of pipelines (R448) are written by the steps of bring-up themselves. -/
def restoreRegs (saved : Tbl Word) : M Unit := do
  for (off, v) in saved do
    if off ≠ Reg.safeCtl ∧ !((List.range 4).any fun p => off == Reg.streamMode p) then
      match regAt off with
      | none => pure ()
      | some r =>
        for f in r.fields do
          let pipeOn : Bool := Reg.safePipeCfg 0 ≤ off && off < Reg.safePipeCfg 32 && off % 0x40 == 0 && f.lsb == 0
          match f.ty with
          | .rw => if !pipeOn then wrFld off f (getBits v f.lsb f.width)
          | .rwk _ _ => wrFld off f (getBits v f.lsb f.width)
          | _ => pure ()
        if Reg.ttTmem 0 ≤ off ∧ off ≤ Reg.ttTmem 31 ∧ off % 0x1000 = 8 then
          modEngine ((off - Reg.ttTmem 0) / 0x1000) fun g => { g with
            staging := getBits v Fld.ttTmemStagingBanks.lsb Fld.ttTmemStagingBanks.width }

/-- Tally after a die reset (R468, R469): the BCC restores contexts, buffers, queues with their rings empty but for ledger-mode
queues, and graphs; everything else is lost. -/
def tallyAfterDie (x : Tally) : Tally :=
  { tally0 with
    contexts := x.contexts
    buffers := x.buffers
    queues := x.queues.map fun p => (p.1, { p.2 with
      ents := if p.2.ledger then p.2.ents.map fun e => { e with bound := none } else []
      waiters := [] })
    graphs := x.graphs.map fun p => (p.1, { p.2 with past := [] })
    nextTask := x.nextTask
    nextInstance := x.nextInstance
    ledger := x.ledger
    heldLists := x.heldLists.filter (·.committed) }

/-- Tally after a die reset that lost DDR: the BCC's copy and the ledger regions are gone; generations continue (R469). -/
def tallyAfterLoss (x : Tally) : Tally :=
  { tally0 with
    contexts := x.contexts.map fun p => (p.1, { p.2 with phase := .free })
    nextTask := x.nextTask
    nextInstance := x.nextInstance }

/-- Reset of the die but for the always-on domain (R464 rung 4, R469): on-chip memories and registers are cleared, DDR keeps its
contents unless its rails were lost, SiteTime comes from the mirror, layers and debug unlocks are cleared (R526, R530). -/
def dieReset : M Unit := do
  let s ← getS
  let lost := s.rcv.ddrLost
  update (.memClear 0x4000000000 0x4030000000)
  if lost then update (.memClear 0 0x4000000000)
  let service := s.fld Reg.timeStatus Fld.timeStatusService
  let tstate := s.fld Reg.timeStatus Fld.timeStatusState
  update (.regClear 0 0x121000)
  update (.regClear 0x122000 (2 ^ 32))
  wrFld Reg.timeStatus Fld.timeStatusService service
  wrFld Reg.timeStatus Fld.timeStatusState tstate
  update (.sys fun m => { State.reset.sys with
    badWords := if lost then [] else m.badWords.filter (· < 0x4000000000)
    weakWords := if lost then [] else m.weakWords.filter (· < 0x4000000000)
    ddr := m.ddr
    holes := m.holes })
  modTally (if lost then tallyAfterLoss else tallyAfterDie)
  update (.engines fun t => t.map fun p => (p.1, { engine0 with
    bypassed := p.2.bypassed, failed := p.2.failed, testing := p.2.testing, resetting := p.2.resetting,
    since := s.clock.now, beat := s.clock.now }))
  for n in List.range 64 do resetDma n
  update (.hall fun h => { h with
    flags := h.flags.map fun p => (p.1, { p.2 with count := 0, held := false, waiters := [] })
    bufs := if lost then [] else h.bufs })
  update (.safe fun x =>
    { pipes := []
      belays := x.belays.map fun b => (b.1, { belay0 with cfg := setBits b.2.cfg 0 1 0, shadow := b.2.shadow })
      cairns := x.cairns.map fun c => (c.1, { cairn0 with cfg := setBits c.2.cfg 0 1 0, time := c.2.time }) })
  update (.fabric fun f => { f with
    qps := f.qps.map fun p => (p.1, lostQp p.2)
    transfers := []
    sends := []
    waits := [] })
  update (.eth fun _ => [])
  clearCameras
  modRadio fun _ => State.reset.radio
  update (.sec fun x => { x with
    layers := State.reset.sec.layers
    aliasL2 := State.reset.sec.aliasL2
    booted := false
    att := none
    challenge := none
    update := none })
  update (.bist fun b => { b with unit := none })
  modPower fun p => { p with unlocked := p.unlocked.filter fun d => d.1 != 22, stopped := [], duty := 0, samples := [] }
  setLocked [0, 22, 40] true
  showRails
  reloadTime

/-- Assert the reset of a scope whose drain has ended (R464, R469). -/
def assertReset (sc : Scope) : M Unit := do
  let s ← getS
  let now := s.clock.now
  update (.rcv fun x => { x with resets := x.resets.map fun p =>
    if p.1 = sc.key then (p.1, { p.2 with assertedAt := now, saved := s.regsIn sc.pages }) else p })
  match sc with
  | .engine e => resetEngine e
  | .part p => resetPart p
  | .die => dieReset
  | _ => pure ()

/-- The drain of a fence ends (R461): the reset of its domain, if one is running, is asserted; a test's drain lets the work it
interrupted restart elsewhere (R489), and the unit is zeroized and scanned (R488). -/
def drainEnds (dom : Nat) : M Unit := do
  let s ← getS
  update (.rcv fun x => { x with fences := x.fences.map fun p =>
    if p.1 = dom then (p.1, { p.2 with drained := some s.clock.now }) else p })
  match tblFind s.rcv.resets dom with
  | some r => assertReset r.toScope
  | none =>
    match s.bist.unit with
    | some u =>
      if dom = 0x100 + u ∧ s.fld Reg.bistStatus Fld.bistStatusPhase = 2 then
        wrFld Reg.bistStatus Fld.bistStatusPhase 4
        resumeFenceHolds (0x800 + u)
    | none => pure ()

/-- Whether a fence still drains: its drain has not ended, or its reset (begun with a drain of zero length) is not yet
asserted. -/
def State.draining (s : State) (dom : Nat) : Bool :=
  match s.fence dom with
  | none => false
  | some f => f.drained.isNone || ((tblFind s.rcv.resets dom).map fun r => r.assertedAt == 0).getD false

/-- FENCE_DRAIN_END (R461): the last outstanding request is answered. -/
def execFenceDrainEnd (domain : Nat) (s : State) : Host.Outcome State Fault Refusal :=
  whenEnabled (fun s => s.draining domain) (drainEnds domain) s

/-- FENCE_DRAIN_DECLARATION (R461, R149, R150): at the fence stamp plus 50 µs. -/
def execFenceDrainDeclaration (domain : Nat) (s : State) : Host.Outcome State Fault Refusal :=
  whenEnabled (fun s => s.draining domain
      && ((s.fence domain).map fun f => decide (f.stamp + usUnits 50 + settleMargin ≤ s.clock.now)).getD false)
    (drainEnds domain) s

/-! ## Triggers (R464–R467, R475) -/

/-- RUNG_1_RESET (R464). -/
def execRung1Reset (engine handle : Nat) (s : State) : Host.Outcome State Fault Refusal :=
  whenEnabled (fun _ => kindOf engine < 15) (do
    let s ← getS
    trigger (.ctxEngine engine handle) 0 s.clock.now 0 false) s

/-- Engine, DMA channel or port that rung 2 resets (R464, R497). -/
def rung2Target (e : Nat) : Bool := kindOf e < 15 || (0x40 ≤ e && e < 0x80) || (0xA0 ≤ e && e ≤ 0xB0)

/-- RUNG_2_RESET (R464). -/
def execRung2Reset (engine : Nat) (s : State) : Host.Outcome State Fault Refusal :=
  whenEnabled (fun _ => rung2Target engine) (do
    let s ← getS
    trigger (.engine engine) 0 s.clock.now 0 false) s

/-- RUNG_3_RESET (R464): a request for partition S takes rung 4. -/
def execRung3Reset (part : Nat) (s : State) : Host.Outcome State Fault Refusal :=
  whenEnabled (fun _ => part ≤ 6) (do
    let s ← getS
    trigger (partScope part) 0 s.clock.now 0 false) s

/-- CHIP_RESET (R464, R471): rung 4, privileged. -/
def chipReset (cause : Nat) : M Unit := do
  let s ← getS
  trigger .die cause s.clock.now 0 false
  drivePins

def execChipReset (cause : Nat) (s : State) : Host.Outcome State Fault Refusal := always (chipReset cause) s

/-- POWER_CYCLE_REQUEST (R474): reasons 1 rung 4 over its limit, 2 always-on watchdog, 3 commanded. -/
def execPowerCycleRequest (reason : Nat) (s : State) : Host.Outcome State Fault Refusal :=
  whenEnabled (fun _ => 1 ≤ reason && reason ≤ 3) (do
    let s ← getS
    requestPowerCycle reason 0 s.clock.now 0 (reason != 2)) s

/-- A scope's limit (R464, R472), in SiteTime units. -/
def Scope.limit : Scope → Nat
  | .ctxEngine _ _ => usUnits 60
  | .engine _ => msUnits 1
  | .part _ => msUnits 2000
  | .die => msUnits 6000
  | .bcc => msUnits 300
  | .sec => msUnits 50
  | .package => 0

/-- RUNG_LIMIT_EXPIRY (R465): the reset is abandoned, event 0x7003 with reason 0; the next rung begins at once for the enclosing
scope, its limit measured from the first trigger. -/
def rungLimitExpiry (key : Nat) : M Unit := do
  let s ← getS
  match tblFind s.rcv.resets key with
  | none => pure ()
  | some r => do
    let sc := r.toScope
    rcvEvent sc 0x7003 [(1, sc.rung), (1, sc.enclosing.rung), (1, 0), (1, 0), (4, r.seq)]
    writeReport r 1
    update (.rcv fun x => { x with resets := tblDel x.resets key, fences := tblDel x.fences key })
    if sc = .die then requestPowerCycle 1 r.cause r.trigger 4 true
    else trigger sc.enclosing r.cause r.trigger sc.rung false

def execRungLimitExpiry (reset : Nat) (s : State) : Host.Outcome State Fault Refusal :=
  whenEnabled (fun s => match tblFind s.rcv.resets reset with
      | some r => r.trigger + r.toScope.limit + settleMargin ≤ s.clock.now
      | none => false) (rungLimitExpiry reset) s

/-! ## Bivouac (R471, R473) -/

/-- Bivouac is entered (R471): partitions held in reset with their channels in self-refresh, OOS_N and SAFE_N low, event
0x7005, TRAY_ALERT_N asserted. -/
def enterBivouac : M Unit := do
  let s ← getS
  update (.rcv fun r => { r with bivouac := true })
  for p in List.range 4 do selfRefresh p
  update (.pins fun p => { p with oosN := false, trayAlertN := false, safeN := false })
  modTally fun x => { x with accepting := false }
  raise 0x81 0xFF 0x7005 (det [(1, min s.privCount 255), (1, s.fld Reg.rcvPriv Fld.rcvPrivWindowH), (2, 0), (4, s.rcv.nextReport)])
  presenceChanged

/-- Bivouac is left (R473): event 0x7006, OOS_N released, the bring-up completed; the replay follows. -/
def leaveBivouac (how : Nat) : M Unit := do
  update (.rcv fun r => { r with bivouac := false, replayDue := true, wasBivouac := false })
  raise 0x81 0xFF 0x7006 (det [(1, how)])
  update (.pins fun p => { p with oosN := true })
  for p in List.range 4 do training p
  for p in List.range 4 do wrFld (Reg.streamMode p) Fld.streamModeRestricted 0
  modTally fun x => { x with accepting := true }
  drivePins
  presenceChanged
  resumeFenceHolds 0x200

/-! ## Completion (R463, R464, R471, R478) -/

/-- Whether a pair that the configuration populates is trained again. -/
def State.pairBack (s : State) (p : Nat) : Bool :=
  s.fld (Reg.mcStatus (2 * p)) Fld.mcStatusSelfRefresh == 0
    || ((tblFind s.sys.ddr (2 * p)).isNone || (tblFind s.sys.ddr (2 * p + 1)).isNone)

/-- Whether a running reset can complete: drained, asserted, and its scope ready for service. -/
def State.resetReady (s : State) (key : Nat) : Bool :=
  match tblFind s.rcv.resets key with
  | none => false
  | some r =>
    let sc := r.toScope
    let drained := ((s.fence key).map fun f => f.drained.isSome).getD false && r.assertedAt != 0
    match sc with
    | .part p => drained && (4 ≤ p || s.pairBack p)
    | .die => drained && s.sec.booted && !s.rcv.resetInLow && s.railsFor2ms [2, 3, 4, 5, 6] && !s.power.tripped
        && (tblFind s.power.unlocked 5).isNone && (tblFind s.power.unlocked 22).isNone && (tblFind s.power.unlocked 40).isNone
    | .bcc => true
    | .sec => true
    | .package => false
    | _ => drained

/-- RESET_COMPLETE (R463, R464, R469, R471, R478): the configuration is restored, the fence lifts, event 0x7002 and the report; held
chains resume. A privileged reset that reached the limit enters bivouac instead. -/
def resetComplete (key : Nat) : M Unit := do
  let s ← getS
  match tblFind s.rcv.resets key with
  | none => pure ()
  | some r => do
    let sc := r.toScope
    let priv := sc = .die ∨ sc = .bcc ∨ sc = .sec
    let full := priv ∧ s.privLimit ≤ s.privCount
    restoreRegs r.saved
    update (.rcv fun x => { x with privEmmc := if priv then x.priv else x.privEmmc })
    if s.rcv.ddrLost ∧ sc = .die then
      raise 0x81 0xFF 0xB008 []
      update (.rcv fun x => { x with ddrLost := false })
    let outcome := if full then 2 else 0
    rcvEvent sc 0x7002 [(1, r.rung), (1, outcome), (2, 0), (4, r.seq),
      (4, min ((s.clock.now - r.trigger) * 1000000 / 2 ^ 32) (2 ^ 32 - 1))]
    writeReport r outcome
    update (.rcv fun x => { x with
      resets := tblDel x.resets key
      fences := tblDel x.fences key
      replayDue := x.replayDue || decide (sc = .die) })
    let es : List Nat := match sc with
      | .engine e => [e]
      | .part p => enginesIn p
      | .die => List.range 0xC0
      | _ => []
    for e in es do
      if (s.engine e).resetting then modEngine e fun g => { g with resetting := false }
    match sc with
    | .part p => if p < 4 then wrFld (Reg.streamMode p) Fld.streamModeRestricted 0
    | .die => for p in List.range 4 do wrFld (Reg.streamMode p) Fld.streamModeRestricted 0
    | _ => pure ()
    if full then enterBivouac
    else
      if sc = .die then update (.pins fun p => { p with oosN := true })
      drivePins
      resumeFenceHolds key
    presenceChanged

def execResetComplete (reset : Nat) (s : State) : Host.Outcome State Fault Refusal :=
  whenEnabled (fun s => s.resetReady reset) (resetComplete reset) s

/-! ## Replay (R161) -/

/-- The accept record of an entry in one home copy (0 primary, 1 mirror). -/
def State.acceptRec (s : State) (q seq copy : Nat) : Option LedgerRec :=
  s.tally.ledger.find? fun r => r.queue == q && r.seq == seq && r.ty == 1 && bitsOf (leAt r.bytes 12 4) 24 1 == copy

/-- Whether the entry copy a record names matches its CRC. -/
def State.copyGood (s : State) (r : Option LedgerRec) : Bool :=
  match r with
  | none => false
  | some x => crc32c (s.bytesAt (leAt x.bytes 40 8) 64) == leAt x.bytes 16 4

/-- Accepted entries of a queue with neither commit, close nor retire record, by ascending sequence. -/
def State.interrupted (s : State) (q : Nat) : List Nat :=
  ((s.tally.ledger.filter fun r => r.queue == q && r.ty == 1).map (·.seq)).dedup.filter fun n =>
    !s.hasRecord q n 2 && !s.hasRecord q n 3 && !s.hasRecord q n 4

/-- Resubmit one entry (R161): its descriptor is read again; a submission that cannot be stored is closed aborted. -/
def resubmit (q seq : Nat) : M Unit := do
  let s ← getS
  match (s.queue q).bind fun u => u.ents.find? fun e => e.seq == seq with
  | none => pure ()
  | some e =>
    if e.ty ≠ 1 then pure ()
    else
      let a := (s.acceptRec q seq 0).map fun r => leAt (s.bytesAt (leAt r.bytes 40 8) 64) 0 8
      let close : M Unit := do
        let _ ← writeLedger q seq 3 0 0 1 noKey 0 0
        settleAll (← leaveEntry q seq)
      match ← ctxRead 0x80 e.producer (a.getD 0) 128 with
      | .error _ => close
      | .ok d => do
        let s ← getS
        if !s.hasRoom e.producer none false [d] then close
        else do
          let t ← storeTask e.producer d (.enq q seq) none
          modQueue q fun u => { u with ents := u.ents.map fun x =>
            if x.seq = seq then { x with bound := some (t, 0xFF) } else x }
          settleAll (← takeTokens t)

/-- One copy of an entry is checked against the other (R161): both bad closes the entry with event 0x4204; one bad is rewritten with event
0x4203. Answers whether the entry can be resubmitted. -/
def checkCopies (q seq : Nat) : M Bool := do
  let s ← getS
  let r0 := s.acceptRec q seq 0
  let r1 := s.acceptRec q seq 1
  let a0 := (r0.map fun r => leAt r.bytes 40 8).getD 0
  let a1 := (r1.map fun r => leAt r.bytes 40 8).getD 0
  match s.copyGood r0, s.copyGood r1 with
  | true, true => return true
  | true, false => do
    raise 0x80 6 0x4203 (det [(4, q), (4, seq), (1, (r1.map (·.home)).getD 0), (1, 1)])
    storeLine 0x80 a1 (s.bytesAt a0 64)
    return true
  | false, true => do
    raise 0x80 6 0x4203 (det [(4, q), (4, seq), (1, (r0.map (·.home)).getD 0), (1, 1)])
    storeLine 0x80 a0 (s.bytesAt a1 64)
    return true
  | false, false => do
    raise 0x80 6 0x4204 (det [(4, q), (4, seq), (1, (r0.map (·.home)).getD 0), (1, 1)])
    let _ ← writeLedger q seq 3 0 0 1 noKey 0 0
    settleAll (← leaveEntry q seq)
    return false

/-- REPLAY_CHIP (R161): releases cut short are resumed, interrupted entries are resubmitted in ascending accept stamp, queue, sequence;
event 0x0203. -/
def replayChip : M Unit := do
  let s ← getS
  update (.rcv fun r => { r with replayDue := false })
  let qs := (s.tally.queues.filter fun p => p.2.ledger).map (·.1)
  let lists := s.tally.heldLists.filter (·.committed)
  for l in lists do heldEffectRelease l.queue l.seq
  let mut todo : List (Nat × Nat × Nat) := []
  for q in qs do
    let s ← getS
    for seq in s.interrupted q do
      if ← checkCopies q seq then
        todo := todo ++ [((((s.acceptRec q seq 0).map fun r => leAt r.bytes 0 8)).getD 0, q, seq)]
  let order := todo.mergeSort fun a b => a.1 < b.1 || (a.1 == b.1 && (a.2.1 < b.2.1 || (a.2.1 == b.2.1 && a.2.2 ≤ b.2.2)))
  for (_, q, seq) in order do resubmit q seq
  raise 0x80 6 0x0203 (det [(4, order.length), (4, lists.length)])

def execReplayChip (s : State) : Host.Outcome State Fault Refusal :=
  whenEnabled (fun s => s.rcv.replayDue && s.tally.accepting && s.populatedParts.all fun p => !s.fenced p) replayChip s

/-! ## Watchdogs (R459, R460, R472) -/

/-- Whether clock enables of an engine are being stopped (R506, R509): a throttled engine counts stall cycles. -/
def State.throttled (s : State) (e : Nat) : Bool :=
  s.power.duty != 0 || s.power.hot.contains (partOf e) || s.power.cut.contains (partOf e)

/-- Whether a task waits on input, credits or an append (R240), so that its engine counts stall cycles. -/
def State.waitsOnFlow (s : State) (t : Nat) : Bool :=
  match s.task t with
  | none => true
  | some k => !k.pendingAppends.isEmpty || !k.ringOut.isEmpty
      || (!k.done && [0x500, 0x600, 0x601, 0x609, 0x60A].contains (dOpcode k.desc))
      || k.rings.any fun p => p.1 < 8 && !(s.ring p.2).ended && (s.ring p.2).consumers.any fun c => c.1 == t && (s.ring p.2).fill ≤ c.2

/-- ENGINE_HANG_WATCHDOG (R459): event 0x5201 and rung 2. -/
def engineHang (e : Nat) : M Unit := do
  let s ← getS
  match (s.engine e).running.bind fun t => (s.task t).map fun k => (t, k) with
  | none => pure ()
  | some (t, k) => do
    settleAll (← raiseFor t 0x81 (partOf e) 0x5201 (taskDetail [(1, baseEngine e)] k 0xFF))
    trigger (.engine (baseEngine e)) 0x5201 s.clock.now 0 false

def execEngineHangWatchdog (engine : Nat) (s : State) : Host.Outcome State Fault Refusal :=
  whenEnabled (fun s => let g := s.engine engine
      !g.stopped && !s.throttled engine && (match g.running with
        | some t => (s.task t).isSome && !s.waitsOnFlow t
        | none => false)
      && decide (g.beat + usUnits (s.fld Reg.rcvHang Fld.rcvHangUs) + settleMargin ≤ s.clock.now)) (engineHang engine) s

/-- WDT_KICK (R460, R479). -/
def wdtKick (by_ : Requester) : M Unit := do
  let s ← getS
  if by_ = .bcc then update (.rcv fun r => { r with kickAt := s.clock.now })
  else refuseReg Reg.rcvWdt (2 ^ 14) 0

def execWdtKick (sender : Requester) (s : State) : Host.Outcome State Fault Refusal := always (wdtKick sender) s

/-- A BCC restart or a security block reset begins (R470, R472), unless a larger reset covers it. -/
def restartBlock (sc : Scope) (cause : Nat) : M Unit := do
  let s ← getS
  if s.rcv.resets.any fun p => p.2.toScope == sc || sc.inside p.2.toScope then pure ()
  else beginReset sc cause s.clock.now 0 false

/-- A firmware update in probation is reverted (R532): the old image resumes, event 0x9007; why: 0 watchdog, 1 stop. -/
def revertUpdate (why : Nat) : M Unit := do
  let s ← getS
  match s.sec.update with
  | some u =>
    if s.fld Reg.secUpdStatus Fld.secUpdStatusState = 4 then
      update (.sec fun x => { x with update := none })
      wrFld Reg.secUpdStatus Fld.secUpdStatusState 7
      raise 0x81 6 0x9007 (det [(1, u.slot), (1, why), (2, 0), (4, (u.image.map fun i => leAt i.header 8 4).getD 0)])
  | none => pure ()

/-- BCC_WATCHDOG_EXPIRY (R460, R472, R532): event 0x5202 and a BCC restart. -/
def bccWatchdogExpiry : M Unit := do
  let s ← getS
  raise 0x81 6 0x5202 (det [(1, 0)])
  revertUpdate 0
  restartBlock .bcc 0x5202
  update (.rcv fun r => { r with kickAt := s.clock.now })

def execBccWatchdogExpiry (s : State) : Host.Outcome State Fault Refusal :=
  whenEnabled (fun s => s.power.phase == 2
      && decide (s.rcv.kickAt + msUnits (s.fld Reg.rcvWdt Fld.rcvWdtBccMs) + settleMargin ≤ s.clock.now)) bccWatchdogExpiry s

/-- HEARTBEAT_LOSS (R460): 1 Tally, 2 security block, 3 SiteTime unit. -/
def heartbeatLoss (block : Nat) : M Unit := do
  raise 0x81 6 0x5202 (det [(1, block)])
  if block = 2 then restartBlock .sec 0x5202
  else do
    let s ← getS
    trigger .die 0x5202 s.clock.now 0 false
    drivePins

def execHeartbeatLoss (block : Nat) (s : State) : Host.Outcome State Fault Refusal :=
  whenEnabled (fun s => s.power.phase == 2 && 1 ≤ block && block ≤ 3) (heartbeatLoss block) s

/-! ## RESET_IN_N and the tray controller (R474, R475) -/

/-- RESET_IN (R475): rung 4 with a drain of zero length. -/
def resetIn : M Unit := do
  let s ← getS
  update (.rcv fun r => { r with resetInLow := true })
  trigger .die 0 s.clock.now 0 true
  drivePins

def execResetIn (s : State) : Host.Outcome State Fault Refusal :=
  whenEnabled (fun s => s.power.phase != 0 && !s.rcv.resetInLow) resetIn s

/-- RESET_IN_RELEASE (R475). -/
def execResetInRelease (s : State) : Host.Outcome State Fault Refusal :=
  whenEnabled (fun s => s.rcv.resetInLow) (update (.rcv fun r => { r with resetInLow := false })) s

/-- SMBUS_BLOCK_READ_A0 (R474): the 16-byte message; TRAY_ALERT_N is released unless PCYC_REQ_N is low. -/
def smbusRead : M Unit := do
  let s ← getS
  answer true (leBytes 1 s.rcv.reason ++ leBytes 4 (s.fld Reg.rcvReport Fld.rcvReportSeq) ++ leBytes 8 s.rcv.requestAt
    ++ leBytes 1 s.rcvState ++ leBytes 1 (min s.privCount 255) ++ leBytes 1 0)
  if s.pins.pcycReqN then update (.pins fun p => { p with trayAlertN := true })

def execSmbusBlockReadA0 (s : State) : Host.Outcome State Fault Refusal :=
  whenEnabled (fun s => s.power.phase != 0) smbusRead s

/-! ## The missing ledger copy (R165) -/

/-- LEDGER_COPY_REWRITTEN (R165): both homes serve again; each record missing in one home is written there from the other, and the
queue accepts enqueues again. -/
def ledgerCopyRewritten (q : Nat) : M Unit := do
  let s ← getS
  match s.queue q with
  | none => pure ()
  | some u => do
    for r in s.tally.ledger do
      if r.queue = q then
        let other := if r.home = u.home then u.mirror else u.home
        let s ← getS
        if !s.tally.ledger.any (fun x => x.queue == q && x.seq == r.seq && x.ty == r.ty && x.home == other) then
          let copy := flagBit (other != u.home)
          let w := leAt r.bytes 12 4 % 2 ^ 24 + copy * 2 ^ 24
          let bytes := withCrc 60 (putBytes (r.bytes.take 60) 12 (leBytes 4 w))
          modTally fun t => { t with ledger := t.ledger ++ [{ r with home := other, bytes := bytes }] }
    modQueue q fun u => { u with blocked := false }

def execLedgerCopyRewritten (queue : Nat) (s : State) : Host.Outcome State Fault Refusal :=
  whenEnabled (fun s => match s.queue queue with
      | some u => u.ledger && u.blocked && !s.fenced u.home && !s.fenced u.mirror
      | none => false) (ledgerCopyRewritten queue) s

/-! ## Context teardown (R56, R476, R477) -/

/-- Queues, graphs, grants, buffers and Hall records of a context are destroyed; open entries of its ledger-mode queues are
closed with status cancelled (R157, R476 step 5). -/
def destroyObjects (h : Nat) : M Unit := do
  let s ← getS
  let qs := (s.tally.queues.filter fun p => p.2.owner == h && p.1 != 0).map (·.1)
  for q in qs do
    let s ← getS
    for seq in s.interrupted q do
      let _ ← writeLedger q seq 3 0 0 4 noKey 0 0
  modTally fun x => { x with
    queues := (x.queues.filter fun p => !qs.contains p.1).map fun p =>
      (p.1, { p.2 with grants := p.2.grants.filter (· ≠ h) })
    headCache := x.headCache.filter fun q => !qs.contains q
    graphs := x.graphs.filter fun p => p.2.owner != h
    instances := x.instances.filter fun p => ((tblFind x.graphs p.2.tmpl).map (·.owner)) != some h
    buffers := x.buffers.filter fun b => b.handle != h
    board := x.board.filter fun p => p.1 / 4096 != h
    heldLists := x.heldLists.filter fun l => l.handle != h }
  update (.hall fun x => { x with bufs := x.bufs.filter fun p => p.2.owner != h })

/-- TEARDOWN_CONTEXT (R476, R553). -/
def teardownContext (h reportAt : Nat) : M Unit := do
  let s ← getS
  match s.ctx h with
  | none => answer false (leBytes 1 0x18)
  | some _ => do
    modCtx h fun c => { c with phase := .tearing, reportAt := reportAt }
    let mine := (s.tally.tasks.filter fun p => p.2.handle == h).map (·.1)
    for e in taskEngines do
      if (s.tasksAt e).any mine.contains then trigger (.ctxEngine e h) 0 s.clock.now 0 false
    for t in mine do
      unstall t
      finish t 4
    for n in List.range 64 do
      if s.chanCtx n = h then dmaAbort n
    update (.fabric fun f => { f with qps := f.qps.map fun p =>
      if p.2.handle = h then (p.1, { p.2 with phase := .error }) else p })
    for j in List.range 16 do
      if s.fld (Reg.fabJobCfg j) Fld.fabJobCfgHandle = h then wrReg (Reg.fabJobCfg j) 0#64
    let s ← getS
    modCtx h fun c => { c with tearStamp := s.clock.now }
    destroyObjects h
    dropTranslations ⟨h, true, 0, 0⟩
    answer true (leBytes 1 0)

def execTeardownContext (handle reportAt : Nat) (s : State) : Host.Outcome State Fault Refusal :=
  always (teardownContext handle reportAt) s

/-- The context entry under teardown that a handle names. -/
def State.tearingCtx (s : State) (h : Nat) : Option Ctx := (s.ctxAt h).filter fun c => c.phase == .tearing && c.gen == h / 4096

/-- Outstanding fabric requests of a context. -/
def State.fabricOutstanding (s : State) (h : Nat) : Bool :=
  s.fabric.qps.any fun p => p.2.handle == h && !p.2.out.isEmpty

/-- Outstanding on-chip work of a context under teardown: channels still draining, engines under rung 1. -/
def State.chipOutstanding (s : State) (h : Nat) : Bool :=
  (List.range 64).any (fun n => s.chanCtx n == h && s.chanState n == 2)
    || s.rcv.resets.any fun p => p.2.scope == 1 && p.2.handle == h

/-- FAB_DRAIN_DECLARED (R477): only fabric requests are outstanding, 2 × RCV_FAB_RTT after step 4. -/
def execFabDrainDeclared (handle : Nat) (s : State) : Host.Outcome State Fault Refusal :=
  whenEnabled (fun s => match s.tearingCtx handle with
      | some c => s.fabricOutstanding handle && !s.chipOutstanding handle
          && decide (c.tearStamp + usUnits (2 * s.fld Reg.rcvFabRtt Fld.rcvFabRttUs) + settleMargin ≤ s.clock.now)
      | none => false)
    (update (.fabric fun f => { f with qps := f.qps.map fun p =>
      if p.2.handle = handle then (p.1, { p.2 with out := [] }) else p })) s

/-- The 256-byte teardown report (R477, R478): the scope 0 header and body. -/
def teardownReport (h seq : Nat) (c : Ctx) (now late priv : Nat) : List Byte :=
  withCrc 252 (leBytes 8 c.tearStamp ++ leBytes 8 now ++ leBytes 4 seq ++ leBytes 2 0 ++ leBytes 1 0xFF ++ leBytes 1 6
    ++ leBytes 4 0 ++ leBytes 4 (h % 2 ^ 20) ++ leBytes 4 0
    ++ leBytes 4 (min (c.ended.foldl (fun n p => n + p.2) 0) (2 ^ 32 - 1)) ++ leBytes 4 0 ++ leBytes 8 0
    ++ leBytes 4 (min late (2 ^ 32 - 1)) ++ leBytes 1 priv ++ zeros 3 ++ leBytes 4 0
    ++ (List.range 6).flatMap (fun k => leBytes 6 (tblGet c.ended 0 k)) ++ (List.range 15).flatMap (fun k => leBytes 6 (tblGet c.cycles 0 k))
    ++ leBytes 6 c.bytesRead ++ leBytes 6 c.bytesWritten ++ (List.range 8).flatMap fun k => leBytes 6 (tblGet c.stalls 0 k))

/-- TEARDOWN_COMPLETE (R116, R477): the report is written, event 0x7004 raised, the ID becomes free; its next creation takes the next
generation. -/
def teardownComplete (h : Nat) : M Unit := do
  let s ← getS
  match s.tearingCtx h with
  | none => pure ()
  | some c => do
    let seq := s.rcv.nextReport
    let late := s.fld Reg.rcvLate Fld.rcvLateCount
    let _ ← physWriteAll 0x81 c.reportAt (teardownReport h seq c s.clock.now late (min s.privCount 255))
    update (.rcv fun r => { r with nextReport := (seq + 1) % 2 ^ 32 })
    raise 0x81 6 0x7004 (det [(4, h % 2 ^ 20), (4, late % 2 ^ 32), (4, seq)])
    modCtx h fun c => { c with phase := .free }

def execTeardownComplete (handle : Nat) (s : State) : Host.Outcome State Fault Refusal :=
  whenEnabled (fun s => (s.tearingCtx handle).isSome && !s.fabricOutstanding handle && !s.chipOutstanding handle)
    (teardownComplete handle) s

end Sys2Proof.Machine
end

