-- ==== Sys2Proof/Machine/Boot.lean ====
section
/-! DEFINITION. Boot, identity, attestation, debug, firmware update and return to service (21_boot_security.md,
R516–R535). -/

namespace Sys2Proof.Machine

open Sys2Proof

def modSec (f : Security → Security) : M Unit := update (.sec f)

/-! ## Images (R519, R522, R523) -/

def imgType (i : Image) : Nat := leAt i.header 0 2
def imgLength (i : Image) : Nat := leAt i.header 4 4 + 1
def imgSvn (i : Image) : Nat := leAt i.header 8 4
def imgVersion (i : Image) : Nat := leAt i.header 12 4
def imgLoad (i : Image) : Nat := leAt i.header 16 8
def imgDigest (i : Image) : List Byte := (i.header.drop 24).take 64
def imgSig (i : Image) : List Byte := (i.header.drop 88).take 114

/-- The largest body of an image type (R519). -/
def bodyLimit (ty : Nat) : Nat := if ty = 1 then 2 ^ 20 else if ty = 2 then 2 ^ 25 else 2 ^ 16

/-- Why an image is rejected (event 0x9001): 3 header, 0 digest, 1 signature, 2 svn. -/
def imageFault (ty counter : Nat) (key : List Byte) (i : Image) : Option Nat :=
  if imgType i ≠ ty ∨ !allZero i.header 2 2 ∨ !allZero i.header 202 54 ∨ bodyLimit ty < imgLength i
      ∨ imgLength i ≠ i.body.length ∨ (ty ≠ 2 ∧ imgLoad i ≠ 0) then some 3
  else if shake512 i.body ≠ imgDigest i then some 0
  else if !edVerify key (i.header.take 88) (imgSig i) then some 1
  else if imgSvn i < counter then some 2
  else none

/-- The RPMB counter of an image type. -/
def State.counter (s : State) (ty : Nat) : Nat := tblGet s.store.counters 0 ty

/-- The owner image key, if there is an owner record. -/
def State.ownerKey (s : State) : List Byte := (s.store.owner.map (·.imageKey)).getD []

/-- The bytes of the owner record that its keys sign (R520). -/
def Owner.bytes (o : Owner) : List Byte := leBytes 4 o.id ++ o.imageKey ++ o.debugKey

/-- Whether both signatures of an owner record verify (R520). -/
def Owner.good (o : Owner) : Bool :=
  edVerify o.imageKey o.bytes o.ownerSig && edVerify Config.vendorKey (o.bytes ++ o.ownerSig) o.vendorSig

/-- Raise event 0x9001 for a rejected image. -/
def imageRejected (ty slot why : Nat) (i : Option Image) : M Unit := do
  let s ← getS
  raise 0x81 6 0x9001 (det [(1, ty), (1, slot), (1, why), (1, 0), (4, (i.map imgSvn).getD 0), (4, s.counter ty)])

/-! ## Identity and layers (R525–R527) -/

/-- The device identity key's secret, its public key, the device ID (R525). -/
def dikSecret : List Byte := shake256 (Config.deviceSeed ++ [0x44#8, 0x49#8, 0x4B#8]) 57
def dikPublic : List Byte := edPublic dikSecret
def deviceId : List Byte := shake512 dikPublic

/-- The alias key's secret for a value of L2 (R527). -/
def aliasSecret (l2 : List Byte) : List Byte :=
  shake256 (Config.deviceSeed ++ [0x41#8, 0x4C#8, 0x49#8, 0x41#8, 0x53#8] ++ l2) 57

/-- A layer register. -/
def State.layer (s : State) (i : Nat) : List Byte := s.sec.layers.getD i []

/-- Extend a layer by a measurement (R526); the alias key is derived again whenever L2 changes (R527). -/
def extend (i : Nat) (m : List Byte) : M Unit := do
  let s ← getS
  let v := shake512 (s.layer i ++ m)
  modSec fun x => { x with
    layers := x.layers.set i v
    aliasL2 := if i = 2 then v else x.aliasL2 }

/-! ## Boot (R521, R522, R524, R487) -/

/-- Boot ends in bivouac with an event already raised (R522, R524, R525); SEC_STATUS.no_image where no image is accepted. -/
def bootFails (noImage : Bool) : M Unit := do
  if noImage then wrFld Reg.secStatus Fld.secStatusNoImage 1
  modSec fun x => { x with booted := true }
  enterBivouac

/-- Try the slots of an image type, the active one first (R522): the accepted slot and image. -/
def trySlots (ty : Nat) (slots : List Nat) (get : Nat → Option Image) : M (Option (Nat × Image)) := do
  let mut found : Option (Nat × Image) := none
  for slot in slots do
    if found.isNone then
      let s ← getS
      match get slot with
      | none => imageRejected ty slot 3 none
      | some i =>
        match imageFault ty (s.counter ty) s.ownerKey i with
        | some why => imageRejected ty slot why (some i)
        | none => found := some (slot, i)
  return found

/-- The BCC's own context and queue 0 (R76, R104): created at boot where they do not exist; the ring in the region the BCC
reserves, its size from the configuration record. -/
def createEventQueue (ring : Nat) : M Unit := do
  let s ← getS
  if (tblFind s.tally.contexts 0).isNone then
    let c : Ctx := ⟨.live, 1, true, 0, 7, true, 262144, 0, [], [], 0, 0, [], 0, 0⟩
    modTally fun x => { x with contexts := tblSet x.contexts 0 c }
  if (s.queue 0).isNone then
    let n := max 4096 (min 1048576 (s.store.conf.eventEntries.getD 65536))
    let home := ring / 0x1000000000
    let q : Queue := ⟨0x1000, ring, n, 1, 0, false, false, true, [], [], 0, 0, none, 0, 0, home, home, 0, false, [], [], 0, none, false⟩
    modTally fun x => { x with queues := tblSet x.queues 0 q }

/-- The macros of an element that the start-up test or an in-service test can find failed (log entry 15): kind, index. -/
def macroKind (m : Nat) : Nat := m / 65536
def macroIndex (m : Nat) : Nat := m % 65536

/-- The engine a macro belongs to; 0xFF where none. -/
def macroEngine (m : Nat) : Nat :=
  match macroKind m with
  | 0 => macroIndex m / 32
  | 1 => macroIndex m
  | 2 => macroIndex m
  | 3 => 0x40 + macroIndex m
  | _ => 0xFF

/-- The base address of a memory bank; 0 for a macro outside the address map. -/
def macroBase (m : Nat) : Nat :=
  match macroKind m with
  | 0 => 0x4000000000 + macroIndex m / 32 * 0x800000 + macroIndex m % 32 * 0x20000
  | 4 => 0x4020000000 + macroIndex m * 0x100000
  | 5 => 0x4010000000 + macroIndex m * 0xC0000
  | _ => 0

/-- The test unit of a macro (R481); 0xFF in partition S but for core clusters. -/
def macroUnit (m : Nat) : Nat :=
  let p := match macroKind m with
    | 4 => macroIndex m / 16
    | 5 => 4
    | 7 => 7 + macroIndex m
    | 6 => 0xFF
    | 8 => 0xFF
    | _ => partOf (macroEngine m)
  if p = 6 ∧ macroKind m ≤ 3 then 0xFF else p

/-- A failing macro (R486): its engine or channel is out of service, or its bank becomes a hole; event 0x4F02. -/
def macroFailed (m : Nat) : M Unit := do
  update (.bist fun b => { b with macros := (b.macros ++ [m]).dedup })
  raise 0x81 (if macroUnit m < 6 then macroUnit m else 6) 0x4F02
    (det [(1, macroUnit m), (1, macroEngine m), (2, macroIndex m), (6, macroBase m)])
  match macroKind m with
  | 4 => update (.sys fun x => { x with holes := (x.holes ++ [(macroBase m, 0x100000)]).dedup })
  | 5 => update (.sys fun x => { x with holes := (x.holes ++ [(macroBase m, 0xC0000)]).dedup })
  | 6 => pure ()
  | 7 => pure ()
  | 8 => pure ()
  | _ => modEngine (macroEngine m) fun g => { g with failed := true }

/-- Engines whose logic the body segment of a unit holds (R481). -/
def unitEngines (u : Nat) : List Nat := if u < 6 then enginesIn u else []

/-- The outcome of a unit's LBIST (R482, R487, R494, R495): a failed port segment of a C partition makes its DDR region a hole, a
failed body segment takes its engines and channels out of service. -/
def unitTested (u : Nat) (portBad bodyBad : Bool) (inService since : Nat) (sig : Nat) : M Unit := do
  let s ← getS
  let hasPort := u < 6
  wrFld (Reg.bistResult u) Fld.bistResultPort (if !hasPort then 0 else if portBad then 2 else 1)
  wrFld (Reg.bistResult u) Fld.bistResultBody (if bodyBad then 2 else 1)
  wrFld (Reg.bistResult u) Fld.bistResultWhen (s.clock.now / 2 ^ 32 % 2 ^ 32)
  let part := if u < 6 then u else 6
  if portBad ∨ bodyBad then
    raise 0x81 part 0x4F01 (det [(1, u), (1, if portBad ∧ bodyBad then 2 else if portBad then 0 else 1), (2, 0), (8, sig)])
  else
    raise 0x81 part 0x0F01 (det [(1, u), (1, inService), (2, 0), (8, (s.clock.now - since) * 1000000 / 2 ^ 32)])
  update (.bist fun b => { b with
    badPort := if portBad then (b.badPort ++ [u]).dedup else b.badPort.filter (· ≠ u)
    badBody := if bodyBad then (b.badBody ++ [u]).dedup else b.badBody.filter (· ≠ u) })
  if portBad ∧ u < 4 then
    update (.sys fun m => { m with holes := (m.holes ++ [(u * 0x1000000000, 0x1000000000)]).dedup })
  if portBad ∨ bodyBad then
    for e in unitEngines u do modEngine e fun g => { g with failed := true }

/-- The start-up test (R487): units whose port or body segment fails, and failing macros, as the hardware finds them; memories are
left cleared. -/
def startupTest (port body : Nat) (macros : List Nat) : M Unit := do
  let s ← getS
  update (.memClear 0x4000000000 0x4030000000)
  for m in macros.dedup do macroFailed m
  for u in List.range 11 do
    unitTested u (u < 6 && bitAt port u) (bitAt body u) 0 s.clock.now 0
    let n := ((macros.dedup.filter fun m => macroUnit m == u).length)
    wrFld (Reg.bistResult u) Fld.bistResultMbistFail (flagBit (n != 0))
    wrFld (Reg.bistResult u) Fld.bistResultMacros (min n 1023)

/-- The BCC powers the domains that the start-up test and bring-up need (R498 step 3, R499): fabrics, populated DDR channels, Hall groups and
application cores; Ethernet quads and PCIe only where they are in use. -/
def powerDomains : M Unit := do
  let s ← getS
  let on := (List.range 86).filter fun d => bccSwitched d &&
    (if 36 ≤ d ∧ d ≤ 43 then (tblFind s.sys.ddr (d - 36)).isSome else if 82 ≤ d then !s.mayBeOff d else true)
  modPower fun p => { p with domOn := on }
  update (.sys fun m => { m with holes := m.holes.filter fun h => !((List.range 8).map hallGroup).contains h })

/-- Steps 4 to 7 of boot (R521): configuration, start-up test, DDR bring-up, application-core image, Tally opens. -/
def bootRest (port body : Nat) (macros : List Nat) : M Unit := do
  let s ← getS
  match s.store.confImage.filter fun i => (imageFault 3 (s.counter 3) s.ownerKey i).isNone with
  | none => do
    imageRejected 3 0 ((s.store.confImage.bind fun i => imageFault 3 (s.counter 3) s.ownerKey i).getD 3) s.store.confImage
    bootFails true
  | some ci => do
    extend 3 (imgDigest ci)
    update (.sys fun m => { m with ddr := s.store.conf.ddr })
    wrFld Reg.pcieStatus Fld.pcieStatusRole s.store.conf.pcieRole
    modPower fun p => { p with records := s.store.records }
    powerDomains
    setAvs
    setLocked [1, 2, 3, 4, 5, 6, 7, 8, 9, 10, 11, 12, 13, 14, 15, 16, 17, 18, 19, 20, 21] true
    let again : Bool := match tblFind s.rcv.resets 0x200 with
      | some r => getBits (regGet r.saved Reg.bistRot) Fld.bistRotBootTest.lsb 1 == 1
      | none => true
    if again then startupTest port body macros
    for p in List.range 4 do
      if !s.bist.badPort.contains p then training p
      wrFld (Reg.streamMode p) Fld.streamModeRestricted 0
    let s ← getS
    match ← trySlots 2 [s.store.appActive, 1 - s.store.appActive] (tblFind s.store.appSlots) with
    | none => bootFails true
    | some (slot, i) => do
      if slot ≠ s.store.appActive then update (.store fun x => { x with appActive := slot, dirGood := [0, 1] })
      update (.mem (imgLoad i) i.body)
      extend 4 (imgDigest i)
      wrFld Reg.secStatus Fld.secStatusAppSlot slot
      modSec fun x => { x with appImage := some i, booted := true }
      let s ← getS
      if again && macros.any (fun m => macroKind m == 8) then enterBivouac
      else if s.privLimit ≤ s.privCount ∧ !s.rcv.resets.any (fun p => p.1 == 0x200) then enterBivouac
      else do
        modTally fun x => { x with accepting := true }
        if !s.rcv.resets.any (fun p => p.1 == 0x200) then
          update (.pins fun p => { p with oosN := true })
        if s.rcv.wasBivouac then
          raise 0x81 0xFF 0x7006 (det [(1, 1)])
          update (.rcv fun r => { r with wasBivouac := false })
        drivePins
        presenceChanged

/-- BOOT (R471, R487, R498, R521–R525): the sequence from the BCC leaving reset to Tally open; `port`, `body` (bit u: unit u) and
`macros` are what the start-up test finds failing, `ring` where the BCC places the ring of queue 0. -/
def boot (port body : Nat) (macros : List Nat) (ring : Nat) : M Unit := do
  let s0 ← getS
  if s0.rcv.resets.isEmpty then
    update (.rcv fun r => { r with
      priv := r.privEmmc ++ (if r.recorded then [s0.clock.now] else [])
      privEmmc := r.privEmmc ++ (if r.recorded then [s0.clock.now] else [])
      recorded := false })
  createEventQueue ring
  wrFld Reg.secStatus Fld.secStatusIdentityOk (flagBit s0.store.helperOk)
  if !s0.store.helperOk then
    raise 0x81 6 0x9003 []
    bootFails false
  else do
    modSec fun x => { x with seeded := true }
    extend 0 Config.romDigest
    if !s0.store.rpmbKeyed then
      update (.store fun x => { x with rpmbKeyed := true, counters := [] })
      raise 0x81 6 0x9002 (det [(1, 0)])
    if s0.store.rpmbKeyed ∧ (!s0.store.rpmbGood ∨ s0.store.rpmbWorn) then
      raise 0x81 6 0x9002 (det [(1, 1)])
      bootFails false
    else do
      wrFld Reg.secStatus Fld.secStatusRpmbOk 1
      let challenge ← freshBytes 8
      wrReg Reg.secRtsChallenge (BitVec.ofNat 64 (leNat challenge))
      match s0.store.owner.filter fun o => o.good && !s0.store.dirGood.isEmpty with
      | none => bootFails true
      | some o => do
        extend 1 (shake512 (o.bytes ++ o.ownerSig ++ o.vendorSig))
        match ← trySlots 1 [s0.store.bccActive, 1 - s0.store.bccActive] (tblFind s0.store.bccSlots) with
        | none => bootFails true
        | some (slot, i) => do
          if slot ≠ s0.store.bccActive then update (.store fun x => { x with bccActive := slot, dirGood := [0, 1] })
          extend 2 (imgDigest i)
          wrFld Reg.secStatus Fld.secStatusBccSlot slot
          modSec fun x => { x with bccImage := some i }
          bootRest port body macros

def execBoot (port body : Nat) (macros : List Nat) (ring : Nat) (s : State) : Host.Outcome State Fault Refusal :=
  whenEnabled (fun s => s.power.phase == 2 && !s.sec.booted && ring % 64 == 0 && ring < 2 ^ 38
      && ((tblFind s.rcv.resets 0x200).map fun r => r.assertedAt != 0).getD true) (boot port body macros ring) s

/-! ## Measurements and attestation (R526–R528, R534) -/

/-- Read a block at a physical address on behalf of the security block; none on an error response. -/
def secRead (a n : Nat) : M (Option (List Byte)) := do
  match ← physReadAll 0x83 a n with
  | .ok b => return some b
  | .error _ => return none

/-- Whether a block stays within one 4 KiB page (R534). -/
def within4k (a n : Nat) : Bool := a % 4096 + n ≤ 4096

/-- MEASUREMENT_EXTEND (R526, R534). -/
def measurementExtend (by_ : Requester) (layer addr : Nat) : M Unit := do
  let v := layer % 8 + addr % 2 ^ 40 / 64 * 64
  if !machineMode by_ ∨ layer % 8 < 5 then refuseReg Reg.secExtend v 0
  else
    match ← secRead (addr % 2 ^ 40 / 64 * 64) 64 with
    | some m => extend (layer % 8) m
    | none => pure ()

def execMeasurementExtend (sender : Requester) (layer addr : Nat) (s : State) : Host.Outcome State Fault Refusal :=
  always (measurementExtend sender layer addr) s

/-- ATTESTATION_REQUEST (R528, R534): the nonce is taken; refused while busy or where nonce and report cross a 4 KiB boundary. -/
def attestationRequest (by_ : Requester) (addr : Nat) : M Unit := do
  let s ← getS
  let a := addr % 2 ^ 40 / 64 * 64
  if !machineMode by_ then refuseReg Reg.secAttReq a 0
  else if s.sec.att.isSome ∨ !within4k a 1088 then refuseReg Reg.secAttReq a 6
  else
    match ← secRead a 64 with
    | none => pure ()
    | some nonce => do
      modSec fun x => { x with att := some (a, nonce, s.clock.now) }
      wrFld Reg.secAttStatus Fld.secAttStatusBusy 1

def execAttestationRequest (sender : Requester) (addr : Nat) (s : State) : Host.Outcome State Fault Refusal :=
  always (attestationRequest sender addr) s

/-- The 1,024-byte report (R528). -/
def State.attReport (s : State) (nonce : List Byte) : List Byte :=
  let aliasKey := aliasSecret s.sec.aliasL2
  let aliasPub := edPublic aliasKey
  let head := leBytes 2 1 ++ leBytes 2 1024 ++ leBytes 4 s.sec.attSeq ++ leBytes 8 s.clock.now ++ leBytes 1 0xB0
    ++ leBytes 1 s.rcvState ++ leBytes 1 s.sec.peakDebug
    ++ leBytes 1 (s.fld Reg.secStatus Fld.secStatusBccSlot + 2 * s.fld Reg.secStatus Fld.secStatusAppSlot)
    ++ leBytes 4 ((s.store.owner.map (·.id)).getD 0)
    ++ leBytes 4 ((s.sec.bccImage.map imgSvn).getD 0) ++ leBytes 4 ((s.sec.appImage.map imgSvn).getD 0)
    ++ leBytes 4 (s.counter 1) ++ leBytes 4 (s.counter 2) ++ zeros 24
  let cert := edSign dikSecret (aliasPub ++ s.sec.aliasL2)
  let body := head ++ nonce ++ s.sec.layers.flatten ++ aliasPub ++ zeros 7 ++ dikPublic ++ zeros 7 ++ cert ++ zeros 14
  padTo 1024 (body ++ edSign aliasKey body)

/-- ATTESTATION_REPORT_DONE (R528). -/
def attestationDone : M Unit := do
  let s ← getS
  match s.sec.att with
  | none => pure ()
  | some (a, nonce, _) => do
    let _ ← physWriteAll 0x83 (a + 64) (s.attReport nonce)
    wrFld Reg.secAttStatus Fld.secAttStatusSeq s.sec.attSeq
    modSec fun x => { x with att := none, attSeq := (x.attSeq + 1) % 2 ^ 32 }
    wrFld Reg.secAttStatus Fld.secAttStatusBusy 0

def execAttestationReportDone (s : State) : Host.Outcome State Fault Refusal :=
  whenEnabled (fun s => s.sec.att.isSome) attestationDone s

/-! ## Firmware update (R531, R532) -/

/-- SEC_UPD_STATUS.state. -/
def State.updState (s : State) : Nat := s.fld Reg.secUpdStatus Fld.secUpdStatusState

def setUpd (n : Nat) : M Unit := do
  let s ← getS
  wrFld Reg.secUpdStatus Fld.secUpdStatusState n
  modSec fun x => { x with update := x.update.map fun u => { u with since := s.clock.now } }

/-- FIRMWARE_UPDATE (R531, R532, R534): verification begins; refused while an update is in states 1 to 4. -/
def firmwareUpdate (by_ : Requester) (addr : Nat) : M Unit := do
  let s ← getS
  let a := addr % 2 ^ 40 / 64 * 64
  if !machineMode by_ then refuseReg Reg.secUpd a 0
  else if 1 ≤ s.updState ∧ s.updState ≤ 4 then refuseReg Reg.secUpd a 6
  else do
    let img : Option Image ← do
      match ← secRead a 256 with
      | none => pure none
      | some h =>
        match ← secRead (a + 256) (min (leAt h 4 4 + 1) (bodyLimit (leAt h 0 2))) with
        | none => pure none
        | some b => pure (some ⟨h, b⟩)
    let ty := if (img.map imgType) = some 2 then 2 else 1
    let slot := if ty = 2 then 1 - s.store.appActive else 1 - s.store.bccActive
    modSec fun x => { x with update := some ⟨a, img, slot, ty, s.clock.now⟩ }
    wrFld Reg.secUpdStatus Fld.secUpdStatusState 1

def execFirmwareUpdate (sender : Requester) (addr : Nat) (s : State) : Host.Outcome State Fault Refusal :=
  always (firmwareUpdate sender addr) s

/-- UPDATE_VERIFICATION_DONE (R531): to writing, or refused with event 0x9001. -/
def updateVerified : M Unit := do
  let s ← getS
  match s.sec.update with
  | none => pure ()
  | some u =>
    let why := match u.image with
      | none => some 3
      | some i => imageFault u.type (s.counter u.type) s.ownerKey i
    match why with
    | none => setUpd 2
    | some w => do
      imageRejected u.type u.slot w u.image
      setUpd 6

def execUpdateVerificationDone (s : State) : Host.Outcome State Fault Refusal :=
  whenEnabled (fun s => s.updState == 1 && s.sec.update.isSome) updateVerified s

/-- UPDATE_WRITE_DONE (R531, R532): the inactive slot holds the image; a BCC image waits for a quiescent tick, an application image
takes effect at the next rung 4. A failed read-back refuses the update. -/
def updateWritten (ok : Bool) : M Unit := do
  let s ← getS
  match s.sec.update with
  | none => pure ()
  | some u =>
    if !ok then setUpd 6
    else
      match u.image with
      | none => setUpd 6
      | some i =>
        if u.type = 1 then do
          update (.store fun x => { x with bccSlots := tblSet x.bccSlots u.slot i })
          setUpd 3
        else do
          update (.store fun x => { x with appSlots := tblSet x.appSlots u.slot i, appActive := u.slot })
          modSec fun x => { x with update := none }
          wrFld Reg.secUpdStatus Fld.secUpdStatusState 0

def execUpdateWriteDone (ok : Bool) (s : State) : Host.Outcome State Fault Refusal :=
  whenEnabled (fun s => s.updState == 2 && s.sec.update.isSome) (updateWritten ok) s

/-- Whether the BCC is quiescent (R531): no reset, in-service test, teardown or replay in progress. -/
def State.quiescent (s : State) : Bool :=
  s.rcv.resets.isEmpty && s.bist.unit.isNone && !s.rcv.replayDue && s.sec.booted
    && !s.tally.contexts.any fun c => c.2.phase == .tearing

/-- QUIESCENT_TICK (R526, R527, R531): hand-over to the new image in probation. -/
def quiescentTick : M Unit := do
  let s ← getS
  match s.sec.update.bind fun u => u.image with
  | none => pure ()
  | some i => do
    extend 2 (imgDigest i)
    modSec fun x => { x with bccImage := some i }
    update (.rcv fun r => { r with kickAt := s.clock.now })
    setUpd 4

def execQuiescentTick (s : State) : Host.Outcome State Fault Refusal :=
  whenEnabled (fun s => s.updState == 3 && s.quiescent && (s.sec.update.bind fun u => u.image).isSome) quiescentTick s

/-- Whether a span has passed since the update entered its state. -/
def State.updSince (s : State) (span : Nat) : Bool := (s.sec.update.map fun u => decide (u.since + span ≤ s.clock.now)).getD false

/-- UPDATE_WAIT_TIMEOUT (R531). -/
def execUpdateWaitTimeout (s : State) : Host.Outcome State Fault Refusal :=
  whenEnabled (fun s => s.updState == 3 && s.updSince (msUnits 10000)) (setUpd 6) s

/-- UPDATE_COMMIT (R531): the new image becomes the active slot in both directory copies; event 0x9006. -/
def updateCommit : M Unit := do
  let s ← getS
  match s.sec.update with
  | none => pure ()
  | some u => do
    update (.store fun x => { x with bccActive := u.slot, dirGood := [0, 1] })
    wrFld Reg.secStatus Fld.secStatusBccSlot u.slot
    raise 0x81 6 0x9006 (det [(1, u.slot), (3, 0), (4, (u.image.map imgSvn).getD 0), (4, (u.image.map imgVersion).getD 0)])
    modSec fun x => { x with update := none }
    wrFld Reg.secUpdStatus Fld.secUpdStatusState 5

def execUpdateCommit (s : State) : Host.Outcome State Fault Refusal :=
  whenEnabled (fun s => s.updState == 4 && s.updSince (msUnits 1000)) updateCommit s

/-- UPDATE_REVERT (R532): the new firmware stops; the old image resumes and the restart counts as privileged. -/
def updateRevert : M Unit := do
  let s ← getS
  revertUpdate 1
  modSec fun x => { x with bccImage := tblFind s.store.bccSlots s.store.bccActive }
  restartBlock .bcc 0x9007

def execUpdateRevert (s : State) : Host.Outcome State Fault Refusal :=
  whenEnabled (fun s => s.updState == 4 && s.sec.update.isSome) updateRevert s

/-- SVN_COMMIT_BCC and SVN_COMMIT_APP (R523): the counter advances to the running svn; counters never decrease. -/
def svnCommit (by_ : Requester) (ty bit : Nat) : M Unit := do
  let s ← getS
  if !machineMode by_ then refuseReg Reg.secSvnCommit (2 ^ bit) 0
  else
    let running := if ty = 1 then s.sec.bccImage else s.sec.appImage
    update (.store fun x => { x with
      counters := tblSet x.counters ty (max (tblGet x.counters 0 ty) ((running.map imgSvn).getD 0)) })

def execSvnCommitBcc (sender : Requester) (s : State) : Host.Outcome State Fault Refusal := always (svnCommit sender 1 0) s

def execSvnCommitApp (sender : Requester) (s : State) : Host.Outcome State Fault Refusal := always (svnCommit sender 2 1) s

/-! ## Return to service (R473, R533) -/

/-- RETURN_TO_SERVICE (R533): the 256-byte block holds the device ID, the challenge and the owner's signature over both; a block
that fails is refused with event 0x9008; the challenge is new after every attempt. -/
def returnToService (by_ : Requester) (addr : Nat) : M Unit := do
  let s ← getS
  let a := addr % 2 ^ 40 / 64 * 64
  if !machineMode by_ then refuseReg Reg.secRts a 0
  else if !within4k a 256 then refuseReg Reg.secRts a 6
  else do
    let b := (← secRead a 256).getD []
    let challenge := s.reg Reg.secRtsChallenge
    let new ← freshBytes 8
    wrReg Reg.secRtsChallenge (BitVec.ofNat 64 (leNat new))
    let why : Option Nat :=
      if b.take 64 ≠ deviceId then some 1
      else if leAt b 64 8 ≠ challenge.toNat then some 2
      else if !edVerify s.ownerKey (b.take 72) ((b.drop 72).take 114) then some 0
      else none
    match why with
    | some w => raise 0x81 6 0x9008 (det [(1, w)])
    | none =>
      if s.rcv.bivouac then
        update (.rcv fun r => { r with priv := [], privEmmc := [] })
        leaveBivouac 0

def execReturnToService (sender : Requester) (addr : Nat) (s : State) : Host.Outcome State Fault Refusal :=
  always (returnToService sender addr) s

/-! ## Debug access (R529, R530) -/

/-- IDCODE (R529). -/
def execIdcode (s : State) : Host.Outcome State Fault Refusal :=
  whenEnabled (fun s => s.power.phase != 0) (answer true (leBytes 4 Config.idcode.toNat)) s

/-- TAP_BYPASS (R529): the one-bit bypass register is selected; it captures 0 (log entry 9). -/
def execTapBypass (s : State) : Host.Outcome State Fault Refusal :=
  whenEnabled (fun s => s.power.phase != 0) (answer true [0#8]) s

/-- DEBUG_CHALLENGE (R530): 64 random bytes; none after four failures. -/
def debugChallenge : M Unit := do
  let s ← getS
  if 4 ≤ s.sec.failures then answer false []
  else do
    let c ← freshBytes 64
    modSec fun x => { x with challenge := some c }
    answer true c

def execDebugChallenge (s : State) : Host.Outcome State Fault Refusal :=
  whenEnabled (fun s => s.power.phase == 2) debugChallenge s

/-- DEBUG_RESPONSE (R530): `data` is the level byte and the signature of the owner debug key over challenge, device ID and level; the
challenge serves one attempt. -/
def debugResponse (data : List Byte) : M Unit := do
  let s ← getS
  let level := leAt data 0 1
  let key := (s.store.owner.map (·.debugKey)).getD []
  let c := s.sec.challenge.getD []
  modSec fun x => { x with challenge := none }
  if 1 ≤ level ∧ level ≤ 3 ∧ edVerify key (c ++ deviceId ++ leBytes 1 level) (data.drop 1) then
    let top := max level (s.fld Reg.secStatus Fld.secStatusDebug)
    wrFld Reg.secStatus Fld.secStatusDebug top
    modSec fun x => { x with peakDebug := max x.peakDebug level }
    extend 3 (shake512 (leBytes 1 level))
    raise 0x81 6 0x9004 (det [(1, level)])
    answer true []
  else
    modSec fun x => { x with failures := x.failures + 1 }
    raise 0x81 6 0x9005 (det [(1, level), (1, min (s.sec.failures + 1) 255)])
    answer false []

def execDebugResponse (data : List Byte) (s : State) : Host.Outcome State Fault Refusal :=
  whenEnabled (fun s => s.sec.challenge.isSome) (debugResponse data) s

/-- EXTEST (R529, R530): refused until level 1 is unlocked; the pins are driven from the boundary register (bit 0 PPS_OUT, 1 PCYC_REQ_N,
2 THERM_N, 3 TRAY_ALERT_N), SAFE_N and OOS_N are low, and Tally accepts no work. -/
def extest (pins : Nat) : M Unit := do
  let s ← getS
  if s.fld Reg.secStatus Fld.secStatusDebug = 0 then answer false []
  else do
    update (.pins fun p => { p with
      extest := true
      safeN := false
      oosN := false
      ppsOut := bitAt pins 0
      pcycReqN := bitAt pins 1
      thermN := bitAt pins 2
      trayAlertN := bitAt pins 3 })
    modTally fun x => { x with accepting := false }
    answer true []

def execExtest (pins : Nat) (s : State) : Host.Outcome State Fault Refusal :=
  whenEnabled (fun s => s.power.phase != 0) (extest pins) s

/-- EXTEST_EXIT (R530): rung 4; the discrete outputs are driven by the device again. -/
def extestExit : M Unit := do
  let s ← getS
  update (.pins fun p => { p with extest := false, pcycReqN := true, thermN := true, trayAlertN := true, ppsOut := false })
  trigger .die 0 s.clock.now 0 false
  drivePins

def execExtestExit (s : State) : Host.Outcome State Fault Refusal :=
  whenEnabled (fun s => s.pins.extest) extestExit s

end Sys2Proof.Machine
end

