-- ==== Sys2Proof/Machine/Safe.lean ====
section
/-! DEFINITION. The commands of functional safety: the gate, checkers, pipelines, seals, belay windows, cairns
(17_safety.md, R434–R458). -/

namespace Sys2Proof.Machine

open Sys2Proof

/-! ## The output gate (R444, R445) -/

/-- The first instance of a pipeline that is not decided (R445: ascending frame number). -/
def State.nextInst (s : State) (p : Nat) : Option PipeInst := (s.pipe p).insts.find? fun i => i.verdict.isNone

/-- Whether everything the gate waits for in an instance is done (R445). -/
def State.instReady (s : State) (p : Nat) (i : PipeInst) : Bool :=
  (tblFind s.tally.instances i.id).isNone && i.blocks.isEmpty
    && !s.safe.belays.any fun w => fieldOf w.2.cfg Fld.safeBwCfgMode == 1 && fieldOf w.2.cfg Fld.safeBwCfgPipe == p
        && w.2.due.any fun d => d.id == i.id

/-- The capture stamp of an instance plus ftti_ms (R436). -/
def State.gateLimit (s : State) (p : Nat) (i : PipeInst) : Nat :=
  i.stamp + msUnits (s.fld (Reg.safePipeGate p) Fld.safePipeGateFttiMs)

/-- The verdict and reason of an instance (R444, R445); a pipeline that was disabled before the decision is not verified. -/
def State.verdict (s : State) (p : Nat) (i : PipeInst) : Nat × Nat :=
  if s.pipeState p = 3 then (3, 0xFF)
  else match i.fault with
    | some k => (2, k)
    | none => if s.pipeState p = 1 then (0, 0xFF) else (1, 0xFF)

/-- Release the entry in a ring slot (R444). -/
def releaseEntry (q p : Nat) (u : Queue) (i : PipeInst) (v : Nat × Nat) (e : Entry) : M Unit := do
  match ← ctxRead 0x80 u.owner (u.base + 64 * e.slot) 64 with
  | .ok bs => do
    let _ ← ctxWrite 0x80 u.owner (u.base + 64 * e.slot) (gateBytes bs i.stamp i.num v.1 p v.2)
    forwardEntry q e.seq e.seq q 0 0 ((gateBytes bs i.stamp i.num v.1 p v.2).take 48)
  | .error _ => pure ()
  modQueue q fun u => { u with ents := u.ents.map fun x =>
    if x.seq = e.seq then { x with gate := if u.remote.isSome then some peerGate else none } else x }

/-- The gate decides an instance (R444–R446): its entries are released in order, then the closing entry. -/
def decideInst (p : Nat) (i : PipeInst) : M Unit := do
  let s ← getS
  let v := s.verdict p i
  let q := s.fld (Reg.safePipeGate p) Fld.safePipeGateOutQueue
  let u := s.queue q
  let mine : List Entry := match u with
    | some u => u.ents.filter fun e => e.gate == some (p * 2 ^ 32 + i.num)
    | none => []
  modPipe p fun x => { x with insts := x.insts.map fun y => if y.id = i.id then { y with verdict := some v } else y }
  if v.1 = 2 then
    bump (Reg.safePipeCnt p) Fld.safePipeCntWithheld 1
    raise 0x81 6 0x6002 (det [(1, p), (1, v.2), (2, mine.length), (4, i.num), (8, i.stamp)])
  match u with
  | none => pure ()
  | some u => do
    for e in mine do releaseEntry q p u i v e
    let r ← acceptEntry q 0 [] u.owner true none noKey none fun e => gateBytes e i.stamp i.num (v.1 + 4) p v.2
    match r with
    | .error .full => dropEvent q 0
    | .error .memory => dropEvent q 1
    | _ => pure ()
    settleAll [.bind q]
  let s ← getS
  modPipe p fun x => { x with insts := x.insts.filter fun y =>
    y.verdict.isNone || (tblFind s.tally.instances y.id).isSome || !y.blocks.isEmpty }

/-- GATE_DECISION (R445). -/
def gateDecision (p : Nat) : M Unit := do
  let s ← getS
  match s.nextInst p with
  | some i => decideInst p i
  | none => pure ()

def execGateDecision (pipe inst : Nat) (s : State) : Host.Outcome State Fault Refusal :=
  whenEnabled (fun s => match s.nextInst pipe with
      | some i => i.num == inst && s.instReady pipe i
      | none => false) (gateDecision pipe) s

/-- GATE_DEADLINE (R445, R149): the instance has a fault of kind 5 and is decided. -/
def gateDeadline (p : Nat) : M Unit := do
  let s ← getS
  match s.nextInst p with
  | some i => do
    pipeFault p i.num 5 0xFF 0xFF 0 0
    let s ← getS
    match s.nextInst p with
    | some i => decideInst p i
    | none => pure ()
  | none => pure ()

def execGateDeadline (pipe inst : Nat) (s : State) : Host.Outcome State Fault Refusal :=
  whenEnabled (fun s => match s.nextInst pipe with
      | some i => i.num == inst && !s.instReady pipe i && s.gateLimit pipe i + settleMargin ≤ s.clock.now
      | none => false) (gateDeadline pipe) s

/-! ## Checkers (R440, R441) -/

/-- The instance of a pipeline in which a task has a block that awaits its checker, with the oldest block. -/
def State.nextBlock (s : State) (p t : Nat) : Option (PipeInst × Block) :=
  (s.pipe p).insts.findSome? fun i => (i.blocks.find? fun b => b.task == t).map fun b => (i, b)

/-- The register page index of a checker (R457). -/
def checkerIndex (e : Nat) : Nat := if e = 0x2E then 4 else e - 0x20

/-- CHECKER_COMPARE (R441): `crc` is the CRC the checker forms; a difference is a fault of kind 0. -/
def checkerCompare (p t crc : Nat) : M Unit := do
  let s ← getS
  match s.nextBlock p t with
  | none => pure ()
  | some (i, b) => do
    modPipe p fun x => { x with insts := x.insts.map fun y =>
      if y.id = i.id then { y with blocks := y.blocks.erase b } else y }
    bump (Reg.safePipeSampled p) Fld.safePipeSampledBlocks 1
    bump (Reg.chkBlocks (checkerIndex b.checker)) Fld.chkBlocksCount 1
    if crc ≠ b.crc then
      bump (Reg.chkMismatch (checkerIndex b.checker)) Fld.chkMismatchCount 1
      pipeFault p i.num 0 b.engine b.checker b.index b.crc

def execCheckerCompare (pipe task crc : Nat) (s : State) : Host.Outcome State Fault Refusal :=
  whenEnabled (fun s => match s.nextBlock pipe task with
      | some (_, b) => s.present b.checker
      | none => false) (checkerCompare pipe task crc) s

/-! ## Pipelines (R434, R444, R447, R453, R456) -/

/-- A write only the BCC may make to a register of the SAFE block (R456). -/
def safeWrite (by_ : Requester) (off value : Nat) (m : M Unit) : M Unit :=
  if by_ = .bcc then m else refuseReg off value 0

/-- SAFE_CLEAR (R447): refused until every bound cairn has passed since safe state was entered. -/
def safeClear (p : Nat) : M Unit := do
  let s ← getS
  if s.pipeState p ≠ 3 then pure ()
  else if !(s.pipe p).safeDue.isEmpty then refuseReg (Reg.safePipeCmd p) 1 0
  else do
    wrFld (Reg.safePipeStatus p) Fld.safePipeStatusState 1
    modPipe p fun x => { x with faulty := [], due := [] }
    raise 0x81 6 0x6004 (det [(1, p)])
    drivePins

def execSafeClear (sender : Requester) (pipe : Nat) (s : State) : Host.Outcome State Fault Refusal :=
  whenEnabled (fun _ => pipe < 32) (safeWrite sender (Reg.safePipeCmd pipe) 1 (safeClear pipe)) s

/-- SAFE_ENTER (R447): safe state with reason 3, for the newest instance. -/
def safeEnter (p : Nat) : M Unit := do
  let s ← getS
  enterSafe p 3 (((s.pipe p).insts.getLast?.map (·.num)).getD (s.fld (Reg.safePipeStatus p) Fld.safePipeStatusLastFault)) 0

def execSafeEnter (sender : Requester) (pipe : Nat) (s : State) : Host.Outcome State Fault Refusal :=
  whenEnabled (fun _ => pipe < 32) (safeWrite sender (Reg.safePipeCmd pipe) 2 (safeEnter pipe)) s

/-- Whether a pipeline record may be enabled (R434, R444, R455): a frame graph of a safety-class context, an output queue of that
context with strict order and not in ledger mode, a good SAFE block. -/
def State.pipeGood (s : State) (p : Nat) : Bool :=
  let h := s.fld (Reg.safePipeCfg p) Fld.safePipeCfgHandle
  ((s.ctx h).map (·.safety)).getD false && !s.bist.badBody.contains 6
    && (match tblFind s.tally.graphs (s.fld (Reg.safePipeCfg p) Fld.safePipeCfgTmpl) with
        | some g => g.owner == h && g.cadence == 1
        | none => false)
    && (match s.queue (s.fld (Reg.safePipeGate p) Fld.safePipeGateOutQueue) with
        | some q => q.owner == h && q.order == 0 && !q.ledger
        | none => false)

/-- PIPELINE_ENABLE (R434, R444, R453): the pipeline is unverified until its bound cairns have passed. -/
def pipelineEnable (p : Nat) : M Unit := do
  let s ← getS
  if s.pipeOn p then pure ()
  else if !s.pipeGood p then refuseReg (Reg.safePipeCfg p) ((s.reg (Reg.safePipeCfg p)).toNat + 1) 0
  else do
    wrFld (Reg.safePipeCfg p) Fld.safePipeCfgEnable 1
    modPipe p fun x => { x with faulty := [], due := s.boundCairns p, safeDue := [] }
    settlePipe p

def execPipelineEnable (sender : Requester) (pipe : Nat) (s : State) : Host.Outcome State Fault Refusal :=
  whenEnabled (fun _ => pipe < 32)
    (safeWrite sender (Reg.safePipeCfg pipe) 1 (pipelineEnable pipe)) s

/-! ## Seals (R438, R456) -/

/-- Bytes of one copy of a Hall buffer record, as far as the record tells: a ring's bands, or the distance of copies. -/
def HallBuf.copyBytes (b : HallBuf) : Nat := if b.ring then (b.depthM1 + 1) * b.bandBytes else b.stride

/-- The least size of a seal sidecar: one CRC for each 4 KiB layout tile of each copy. -/
def HallBuf.sidecarBytes (b : HallBuf) : Nat := 4 * ((b.copiesM1 + 1) * max 1 (b.copyBytes / 4096))

/-- Whether a range meets a live Hall buffer record (R438). -/
def State.meetsHall (s : State) (h a n : Nat) : Bool :=
  s.hall.bufs.any fun x => x.2.owner == h && x.2.base != 0
    && x.2.base < a + n && a < x.2.base + x.2.copiesM1 * x.2.stride + max 64 x.2.copyBytes

/-- SEAL_ENABLE (R438): the sidecar lies in a registered buffer of the owner and clear of every Hall buffer record. -/
def sealEnable (r base : Nat) : M Unit := do
  let s ← getS
  let a := signExtend48 (base % 2 ^ 48 / 64 * 64)
  let good := match tblFind s.hall.bufs r with
    | some b => b.base != 0 && s.inBuffer b.owner a b.sidecarBytes && !s.meetsHall b.owner a b.sidecarBytes
    | none => false
  if good then
    update (.hall fun x => { x with bufs := match tblFind x.bufs r with
      | some b => tblSet x.bufs r { b with sealed := true, sealBase := a }
      | none => x.bufs })
  else refuseReg Reg.safeSeal (base % 2 ^ 48 / 64 * 64 + 1) 0

def execSealEnable (sender : Requester) (record base : Nat) (s : State) : Host.Outcome State Fault Refusal :=
  whenEnabled (fun _ => record < 256) (safeWrite sender Reg.safeSeal 1 (sealEnable record base)) s

/-! ## Belay windows (R449–R451) -/

/-- BELAY_ENABLE (R450): a window in mode 1 watches the graph of the pipeline it names. -/
def belayEnable (w : Nat) : M Unit := do
  let s ← getS
  let b := s.belay w
  let p := fieldOf b.cfg Fld.safeBwCfgPipe
  if fieldOf b.cfg Fld.safeBwCfgEnable = 1 then pure ()
  else if fieldOf b.cfg Fld.safeBwCfgMode = 1
      ∧ fieldOf b.cfg Fld.safeBwCfgTmpl ≠ s.fld (Reg.safePipeCfg p) Fld.safePipeCfgTmpl then
    refuseReg Reg.safeBwCfg (b.cfg.toNat + 1) 0
  else modBelay w fun x => { x with cfg := setBits x.cfg 0 1 1, created := none }

def execBelayEnable (sender : Requester) (window : Nat) (s : State) : Host.Outcome State Fault Refusal :=
  whenEnabled (fun _ => window < 256) (safeWrite sender Reg.safeBwCfg 1 (belayEnable window)) s

/-- BELAY_ARM (R451): an arm in the cycle of the last creation commits late, at the next instance. -/
def belayArm (w : Nat) : M Unit := do
  let s ← getS
  if (s.belay w).armed then pure ()
  else modBelay w fun x => { x with armed := true, late := x.created == some s.clock.now }

def execBelayArm (sender : Requester) (window : Nat) (s : State) : Host.Outcome State Fault Refusal :=
  whenEnabled (fun _ => window < 256) (safeWrite sender Reg.safeBwCmd 1 (belayArm window)) s

/-- BELAY_DISARM (R451, R271). -/
def execBelayDisarm (sender : Requester) (window : Nat) (s : State) : Host.Outcome State Fault Refusal :=
  whenEnabled (fun _ => window < 256)
    (safeWrite sender Reg.safeBwCmd 2 (modBelay window fun x => { x with armed := false })) s

/-- Whether the oldest judgement of a window can be made (R149, R449): the stage has ended, or its close and the settle margin have
passed. -/
def State.belayDecidable (s : State) (w : Nat) : Bool :=
  match (s.belay w).due with
  | d :: _ => d.ended.isSome || decide (d.closes + settleMargin ≤ (s.clock.now : Int))
  | [] => false

/-- The judgement of a window (R449): 1 in the window, 2 early, 3 late. -/
def BelayDue.result (d : BelayDue) : Nat :=
  match d.ended with
  | some e => if (e : Int) < d.opens then 2 else if (e : Int) ≤ d.closes then 1 else 3
  | none => 3

/-- BELAY_WINDOW_DECISION (R449, R450, R405): a pipeline window's early or late stage is a fault of kind 4; a monitor window raises
event 0x5C01 for a slot graph and 0x5E01 for any other. -/
def belayWindowDecision (w : Nat) : M Unit := do
  let s ← getS
  let b := s.belay w
  match b.due with
  | [] => pure ()
  | d :: rest => do
    let r := d.result
    modBelay w fun x => { x with due := rest, result := r, inst := d.num }
    if r ≠ 1 then
      if fieldOf b.cfg Fld.safeBwCfgMode = 1 then
        pipeFault (fieldOf b.cfg Fld.safeBwCfgPipe) d.num 4 0xFF 0xFF w 0
      else
        let slot := ((tblFind s.tally.graphs (fieldOf b.cfg Fld.safeBwCfgTmpl)).map fun g => g.cadence == 2).getD false
        let detail := det [(4, w), (4, d.num), (8, d.closes.toNat)]
        if slot then raise 0x81 5 0x5C01 detail else raise 0x81 6 0x5E01 detail

def execBelayWindowDecision (window : Nat) (s : State) : Host.Outcome State Fault Refusal :=
  whenEnabled (fun s => s.belayDecidable window) (belayWindowDecision window) s

/-! ## Cairns (R452, R453) -/

/-- The kinds that the tasks of a cairn template name, each task exactly one. -/
def cairnKinds (g : Graph) : Option (List Nat) :=
  g.tasks.foldl (fun acc d => match acc, (List.range 15).filter (bitAt (dKindMask d)) with
    | some ks, [k] => some (if ks.contains k then ks else ks ++ [k])
    | _, _ => none) (some [])

/-- Pipelines a cairn covers that are enabled. -/
def State.coveredPipes (s : State) (c : Nat) : List Nat :=
  (List.range 32).filter fun p => s.pipeOn p && bitAt (fieldOf (s.cairn c).cfg Fld.safeCairnCfgPipeMask) p

/-- CAIRN_ENABLE (R452, R453): a cadence-0 template of a safety-class context, each task naming one kind, with room for one instance;
its entries are reserved from now on, and covered pipelines wait for its first pass. -/
def cairnEnable (c : Nat) : M Unit := do
  let s ← getS
  let x := s.cairn c
  if fieldOf x.cfg Fld.safeCairnCfgEnable = 1 then pure ()
  else
    let good := match tblFind s.tally.graphs (fieldOf x.cfg Fld.safeCairnCfgTmpl) with
      | some g => g.cadence == 0 && ((s.ctx g.owner).map (·.safety)).getD false && (cairnKinds g).isSome
          && g.tasks.length ≤ s.storeFree && g.localKeys ≤ s.boardFree
      | none => false
    if !good then refuseReg Reg.safeCairnCfg (x.cfg.toNat + 1) 0
    else do
      modCairn c fun x => { x with
        cfg := setBits x.cfg 0 1 1
        since := s.clock.now
        n := 0
        run := none }
      let s ← getS
      for p in s.coveredPipes c do
        modPipe p fun y => { y with due := y.due ++ [c] }
        settlePipe p

def execCairnEnable (sender : Requester) (cairn : Nat) (s : State) : Host.Outcome State Fault Refusal :=
  whenEnabled (fun _ => cairn < 16) (safeWrite sender Reg.safeCairnCfg 1 (cairnEnable cairn)) s

/-- The next due time of a cairn (R452). -/
def State.cairnDue (s : State) (c : Nat) : Nat :=
  (s.cairn c).since + msUnits ((s.cairn c).n * fieldOf (s.cairn c).time Fld.safeCairnTimePeriodMs)

/-- A cairn has not passed in time (R453): event 0x6007, covered pipelines unverified until its next pass. -/
def cairnMissed (c why due : Nat) : M Unit := do
  let s ← getS
  modCairn c fun x => { x with last := 3, run := none }
  raise 0x81 6 0x6007 (det [(1, c), (1, why), (2, 0), (8, due), (4, fieldOf (s.cairn c).cfg Fld.safeCairnCfgPipeMask)])
  for p in s.coveredPipes c do
    modPipe p fun y => { y with due := if y.due.contains c then y.due else y.due ++ [c] }
    settlePipe p

/-- Reserve the prefetched stall of an engine for a cairn's instance; another task there returns to the head of its list
(R125, R452). -/
def reserveStall (e id : Nat) : M Unit := do
  let s ← getS
  modEngine e fun g => { g with reserved := some id }
  match (s.engine e).next with
  | some t =>
    if ((s.task t).bind (·.inst)) ≠ some id then
      modEngine e fun g => { g with next := none, preempting := false }
      modTask t fun k => { k with life := if s.isSaved t then .preempted else .ready, tds := [], params := [], fetched := false }
      let _ ← enlist t true
  | none => pure ()

/-- CAIRN_DUE (R452, R453): the instance is created and the stalls of its engines are reserved, or it is skipped while a kind has no
present engine; one that cannot be created has missed its window. -/
def cairnDue (c : Nat) : M Unit := do
  let s ← getS
  let x := s.cairn c
  let g := fieldOf x.cfg Fld.safeCairnCfgTmpl
  let due := s.cairnDue c
  modCairn c fun x => { x with n := x.n + 1 }
  match (tblFind s.tally.graphs g).bind cairnKinds with
  | none => cairnMissed c 1 due
  | some ks =>
    let es := ks.filterMap fun k => (enginesOf k).find? s.present
    if es.length < ks.length then modCairn c fun x => { x with skipped := true }
    else do
      modCairn c fun x => { x with skipped := false }
      if !(s.liveInstances g).isEmpty then cairnMissed c 1 due
      else
        let id := s.tally.nextInstance
        for e in es do reserveStall e id
        let num ← countInstance g
        match ← createInstance g num due 0 with
        | .ok i => modCairn c fun x => { x with
            runs := satAdd 32 x.runs 1
            run := if x.run.isSome then x.run else some ⟨i, due, false, 0, []⟩ }
        | .error _ => do
          update (.engines fun t => t.map fun e => if e.2.reserved = some id then (e.1, { e.2 with reserved := none }) else e)
          cairnMissed c 1 due

def execCairnDue (cairn : Nat) (s : State) : Host.Outcome State Fault Refusal :=
  whenEnabled (fun s => fieldOf (s.cairn cairn).cfg Fld.safeCairnCfgEnable == 1 && (s.cairn cairn).run.isNone
      && s.cairnDue cairn ≤ s.clock.now) (cairnDue cairn) s

/-- The end of a cairn's window (R453). -/
def State.cairnLimit (s : State) (c : Nat) (r : CairnRun) : Nat :=
  r.due + msUnits (fieldOf (s.cairn c).time Fld.safeCairnTimeWindowMs)

/-- CAIRN_WINDOW_EXPIRY (R453, R149): failed on a failing verdict, passed when all tasks completed in time, else missed. -/
def cairnWindowExpiry (c : Nat) : M Unit := do
  let s ← getS
  match (s.cairn c).run with
  | none => pure ()
  | some r =>
    let mask := fieldOf (s.cairn c).cfg Fld.safeCairnCfgPipeMask
    match r.checks.find? fun x => !x.1 with
    | some (_, bad, first) => do
      modCairn c fun x => { x with last := 2, run := none }
      raise 0x81 6 0x6006 (det [(1, c), (3, 0), (4, bad), (4, first), (4, mask)])
      for p in s.coveredPipes c do
        enterSafe p 1 (((s.pipe p).insts.getLast?.map (·.num)).getD 0) 0
    | none =>
      let ended := (tblFind s.tally.instances r.id).isNone
      if ended ∧ !r.aborted ∧ r.lastEnd ≤ s.cairnLimit c r then do
        modCairn c fun x => { x with last := 1, run := none }
        raise 0x81 6 0x0E01 (det [(1, c), (3, 0), (4, (s.cairn c).runs), (8, r.due)])
        for p in s.coveredPipes c do
          modPipe p fun y => { y with due := y.due.filter (· ≠ c), safeDue := y.safeDue.filter (· ≠ c) }
          settlePipe p
      else cairnMissed c (if ended ∧ !r.aborted then 0 else if r.aborted then 1 else 0) r.due

def execCairnWindowExpiry (cairn : Nat) (s : State) : Host.Outcome State Fault Refusal :=
  whenEnabled (fun s => match (s.cairn cairn).run with
      | some r => (tblFind s.tally.instances r.id).isNone || s.cairnLimit cairn r + settleMargin ≤ s.clock.now
      | none => false) (cairnWindowExpiry cairn) s

/-- A failure of the SAFE block or gate logic (R455): every enabled pipeline enters safe state with reason 2. -/
def safeUnitFailed : M Unit := do
  let s ← getS
  for p in List.range 32 do
    enterSafe p 2 (((s.pipe p).insts.getLast?.map (·.num)).getD 0) 0
  drivePins

end Sys2Proof.Machine
end

