-- ==== Sys2Proof/Machine/Bist.lean ====
section
/-! DEFINITION. In-service test: start, drain limit, LBIST, MBIST, abort, rotation, retry, bypass (19_selftest.md, R488–R495). -/

namespace Sys2Proof.Machine

open Sys2Proof

/-- The phase of the test in progress (BIST_STATUS.phase). -/
def State.bistPhase (s : State) : Nat := s.fld Reg.bistStatus Fld.bistStatusPhase

/-- Write BIST_STATUS. -/
def bistStatus (busy unit phase : Nat) : M Unit := do
  wrFld Reg.bistStatus Fld.bistStatusBusy busy
  wrFld Reg.bistStatus Fld.bistStatusUnit unit
  wrFld Reg.bistStatus Fld.bistStatusPhase phase

/-- Whether a unit is resetting or out of service (R491). -/
def State.unitDown (s : State) (u : Nat) : Bool :=
  s.bist.badBody.contains u || s.bist.badPort.contains u
    || s.rcv.resets.any fun p => 3 ≤ p.2.rung || (p.2.rung != 0 && p.2.part == u)

/-- Why a start is refused (event 0x3F01), in the order of its codes (R491). -/
def State.bistRefusal (s : State) (u : Nat) : Option Nat :=
  if s.bist.unit.isSome then some 0
  else if s.unitDown u then some 1
  else if s.rcv.bivouac then some 2
  else if 7 ≤ u then some 3
  else none

/-- Begin the test of a unit (R488): its engines become absent; the SAFE segment goes straight to the scan of its first gate
unit. -/
def beginTest (u : Nat) : M Unit := do
  let s ← getS
  match s.bistRefusal u with
  | some why => raise 0x81 (if u < 6 then u else 6) 0x3F01 (det [(1, u), (1, why)])
  | none => do
    update (.bist fun b => { b with
      unit := some u
      since := s.clock.now
      aborted := false
      port := 0
      body := 0
      rotated := tblSet b.rotated u s.clock.now })
    bistStatus 1 u (if u = 6 then 4 else 1)
    for e in unitEngines u do modEngine e fun g => { g with testing := true }
    presenceChanged

/-- BIST_START (R488, R491, R494). -/
def bistStart (by_ : Requester) (u : Nat) : M Unit :=
  if by_ ≠ .bcc ∨ 11 ≤ u then refuseReg Reg.bistCmd (u % 16 + 16) 0 else beginTest u

def execBistStart (sender : Requester) (unit : Nat) (s : State) : Host.Outcome State Fault Refusal :=
  always (bistStart sender unit) s

/-- The result of the test in BIST_RESULT, and the end of the test (R488, R494). -/
def endTest (u : Nat) (aborted : Bool) : M Unit := do
  let s ← getS
  wrFld (Reg.bistResult u) Fld.bistResultAborted (flagBit aborted)
  wrFld (Reg.bistResult u) Fld.bistResultWhen (s.clock.now / 2 ^ 32 % 2 ^ 32)
  update (.bist fun b => { b with unit := none })
  bistStatus 0 u 0

/-- Phase 6 (R488): reset and bring-up as at rung 3, retraining, the fence lifted; held chains resume. -/
def restoreUnit (u : Nat) : M Unit := do
  let s ← getS
  if u < 6 then
    let saved := s.regsIn (Scope.part u).pages
    resetPart u
    restoreRegs saved
    if u < 4 then training u
    update (.rcv fun r => { r with fences := tblDel r.fences (0x100 + u) })
    for e in unitEngines u do modEngine e fun g => { g with testing := false, resetting := false }
    if u < 4 then wrFld (Reg.streamMode u) Fld.streamModeRestricted 0
    presenceChanged
    resumeFenceHolds (0x800 + u)
    resumeFenceHolds (0x100 + u)

/-- BIST_DRAIN_LIMIT (R488, R489): tasks still on the unit are interrupted, the unit is fenced, its DDR enters self-refresh. -/
def bistDrainLimit : M Unit := do
  let s ← getS
  match s.bist.unit with
  | none => pure ()
  | some u => do
    if u = 4 then camerasDown
    if u = 5 then jesdDown
    let _ ← interruptEngines (unitEngines u) (0x800 + u)
    for e in unitEngines u do drainDma e
    update (.rcv fun r => { r with fences := tblSet r.fences (0x100 + u) ⟨s.clock.now, none, 0, 0⟩ })
    if u < 4 then
      selfRefresh u
      wrFld (Reg.streamMode u) Fld.streamModeRestricted 1
    bistStatus 1 u 2

def execBistDrainLimit (s : State) : Host.Outcome State Fault Refusal :=
  whenEnabled (fun s => s.bist.unit.isSome && s.bistPhase == 1
      && decide (s.bist.since + msUnits (s.fld Reg.bistRot Fld.bistRotDrainMs) ≤ s.clock.now)) bistDrainLimit s

/-- A test that ended in conditions not met is repeated later, at most three times (R490). -/
def noteRetry (u : Nat) (valid : Bool) : M Unit := do
  let s ← getS
  let old := s.bist.retry.find? fun r => r.1 == u
  let rest := s.bist.retry.filter fun r => r.1 != u
  let n := (old.map (·.2.2)).getD 0
  update (.bist fun b => { b with retry := if valid then rest else rest ++ [(u, s.clock.now, n)] })

/-- LBIST_COMPLETE (R482, R483, R495): the signatures as compacted, and whether a condition broke (1 clock, 2 VDD_CORE) with its
worst sample. -/
def lbistComplete (misrPort misrBody : Word) (broken worst : Nat) : M Unit := do
  let s ← getS
  match s.bist.unit with
  | none => pure ()
  | some u => do
    wrReg Reg.bistMisrPort misrPort
    wrReg Reg.bistMisrBody misrBody
    let portBad := u < 6 && misrPort != Config.scanSignature u 0
    let bodyBad := misrBody != Config.scanSignature u 1
    noteRetry u (broken == 0)
    if broken ≠ 0 then do
      if u < 6 then wrFld (Reg.bistResult u) Fld.bistResultPort 3
      wrFld (Reg.bistResult u) Fld.bistResultBody 3
      raise 0x81 (if u < 6 then u else 6) 0x0F02 (det [(1, u), (1, broken - 1), (2, 0), (4, worst)])
    else if u = 6 then do
      if bodyBad then
        update (.bist fun b => { b with body := 1, badBody := (b.badBody ++ [6]).dedup })
        safeUnitFailed
      if s.bist.port = 1 then unitTested 6 false (bodyBad || s.bist.body == 1) 1 s.bist.since misrBody.toNat
    else unitTested u portBad bodyBad 1 s.bist.since (if portBad then misrPort.toNat else misrBody.toNat)
    bistStatus 1 u 5

def execLbistComplete (misrPort misrBody : Word) (broken worst : Nat) (s : State) : Host.Outcome State Fault Refusal :=
  whenEnabled (fun s => s.bist.unit.isSome && s.bistPhase == 4 && broken ≤ 2) (lbistComplete misrPort misrBody broken worst) s

/-- Macros of the engines that await their return from bypass (R492). -/
def State.bypassMacros (s : State) (ms : List Nat) : List Nat :=
  ms.filter fun m => macroKind m ≤ 3 && s.bist.bypassing.contains (macroEngine m)

/-- MBIST_COMPLETE (R485, R486, R488, R492): failing macros are taken out of service; the unit is restored, or the second gate unit is
scanned; or the engines whose bypass was cleared return. -/
def mbistComplete (failing : List Nat) : M Unit := do
  let s ← getS
  match (if s.bistPhase = 5 then s.bist.unit else none) with
  | none => do
    for m in s.bypassMacros failing do macroFailed m
    for e in s.bist.bypassing do modEngine e fun g => { g with bypassed := false }
    update (.bist fun b => { b with bypassing := [] })
    presenceChanged
  | some u => do
    let mine := failing.dedup.filter fun m => macroUnit m == u
    for m in mine do macroFailed m
    wrFld (Reg.bistResult u) Fld.bistResultMbistFail (flagBit !mine.isEmpty)
    wrFld (Reg.bistResult u) Fld.bistResultMacros (min mine.length 1023)
    if u = 6 ∧ s.bist.port = 0 then do
      update (.bist fun b => { b with port := 1 })
      bistStatus 1 u 4
    else do
      restoreUnit u
      endTest u false

def execMbistComplete (failing : List Nat) (s : State) : Host.Outcome State Fault Refusal :=
  whenEnabled (fun s => (s.bist.unit.isSome && s.bistPhase == 5) || !s.bist.bypassing.isEmpty) (mbistComplete failing) s

/-- BIST_ABORT (R491): in phase 1 the unit returns to service; later the test skips to its restore, recorded as aborted. -/
def bistAbort (by_ : Requester) : M Unit := do
  let s ← getS
  if by_ ≠ .bcc then refuseReg Reg.bistCmd 32 0
  else
    match s.bist.unit with
    | none => pure ()
    | some u =>
      if s.bistPhase = 1 then do
        for e in unitEngines u do modEngine e fun g => { g with testing := false }
        update (.bist fun b => { b with unit := none })
        bistStatus 0 u 0
        presenceChanged
      else do
        restoreUnit u
        endTest u true

def execBistAbort (sender : Requester) (s : State) : Host.Outcome State Fault Refusal := always (bistAbort sender) s

/-- The unit that rotation tests next (R490): the lowest in the mask not tested within the period. -/
def State.rotationUnit (s : State) : Option Nat :=
  let period := s.fld Reg.bistRot Fld.bistRotPeriodH * 3600 * 2 ^ 32
  if !s.flag Reg.bistRot Fld.bistRotEnable then none
  else (List.range 7).find? fun u =>
    bitAt (s.fld Reg.bistRot Fld.bistRotRotMask) u && (s.bistRefusal u).isNone
      && (match tblFind s.bist.rotated u with
          | some t => decide (t + period ≤ s.clock.now)
          | none => true)

/-- ROTATION_DUE (R490). -/
def rotationDue : M Unit := do
  let s ← getS
  match s.rotationUnit with
  | some u => beginTest u
  | none => pure ()

def execRotationDue (s : State) : Host.Outcome State Fault Refusal :=
  whenEnabled (fun s => s.rotationUnit.isSome) rotationDue s

/-- The unit whose test is repeated now (R490): 10 minutes after it ended in conditions not met. -/
def State.retryUnit (s : State) : Option (Nat × Nat × Nat) :=
  s.bist.retry.find? fun r => r.2.2 < 3 && (s.bistRefusal r.1).isNone && decide (r.2.1 + 600 * 2 ^ 32 ≤ s.clock.now)

/-- BIST_RETRY (R490). -/
def bistRetry : M Unit := do
  let s ← getS
  match s.retryUnit with
  | none => pure ()
  | some (u, _, n) => do
    update (.bist fun b => { b with retry := b.retry.map fun r => if r.1 = u then (u, s.clock.now, n + 1) else r })
    beginTest u

def execBistRetry (s : State) : Host.Outcome State Fault Refusal :=
  whenEnabled (fun s => s.retryUnit.isSome) bistRetry s

/-- The engines of the bits of BIST_BYPASS (R494). -/
def bypassEngines : List Nat := [0x28, 0x29, 0x2A, 0x2B, 0x2C, 0x2D, 0x2E, 0x30, 0x32, 0x33, 0x34]

/-- BIST_BYPASS_WRITE (R492): engines set become absent once their task ends; engines cleared await their MBIST. -/
def bistBypassWrite (by_ : Requester) (v : Nat) : M Unit := do
  if by_ ≠ .bcc then refuseReg Reg.bistBypass v 0
  else do
    wrFld Reg.bistBypass Fld.bistBypassEngines v
    for i in List.range 11 do
      let s ← getS
      let e := bypassEngines.getD i 0
      if bitAt v i then do
        modEngine e fun g => { g with bypassed := true }
        update (.bist fun b => { b with bypassing := b.bypassing.filter (· ≠ e) })
      else if (s.engine e).bypassed ∧ !s.bist.bypassing.contains e then
        update (.bist fun b => { b with bypassing := b.bypassing ++ [e] })
    presenceChanged

def execBistBypassWrite (sender : Requester) (engines : Nat) (s : State) : Host.Outcome State Fault Refusal :=
  always (bistBypassWrite sender engines) s

end Sys2Proof.Machine
end

