-- ==== Sys2Proof/Machine/Camera.lean ====
section
/-! DEFINITION. Camera ports, contexts, exposure requests and sensor buses (R276–R286, R293–R305). -/

namespace Sys2Proof.Machine

open Sys2Proof

/-- Whether packets reach a port: enabled, and not held in reset (R489). -/
def State.csiReceives (s : State) (port : Nat) : Bool :=
  decide (port < 8) && s.flag (Reg.csiCtl port) Fld.csiCtlEnable && !s.csiHeld port

/-- Whether a port's link is up. -/
def State.csiUp (s : State) (port : Nat) : Bool := s.fld (Reg.csiStatus port) Fld.csiStatusLink == 2

/-! ## Lines (R278, R281–R283, R286, R299) -/

/-- The tasks, in a stall of the ISP or pre-empted, for a frame whose lines stand in a raw slot (R285). -/
def State.slotBusy (s : State) (c slot : Nat) : Bool :=
  match (((s.cam c).frames.filter fun f => f.slot == slot && !f.dropped && (!f.direct || f.miss)).getLast?).map (·.num) with
  | none => false
  | some n => s.tally.tasks.any fun p =>
      (p.2.life == .assigned || p.2.life == .running) && s.ispFrame p.2 == some (c, n)

/-- Whether an ISP_FRAME task for a frame holds the in-line channel (R286). -/
def State.channelHolds (s : State) (c n : Nat) : Bool :=
  let g := s.engine inlineChannel
  (g.running.toList ++ g.next.toList).any fun t => ((s.task t).bind s.ispFrame) == some (c, n)

/-- Drop the newest frame of a context (R285): none of its lines is stored, event 0x4702. -/
def dropFrame (c : Nat) : M Unit := do
  let s ← getS
  match (s.cam c).frames.getLast? with
  | none => pure ()
  | some f => do
    modFrame c fun f => { f with
      dropped := true
      rx := 0
      lines := []
      valid := []
      group := []
      crcs := []
      lastLine := 0
      crc := 0
      len := 0
      extra := 0
      late := 0 }
    raise (0xA0 + s.camPort c) 4 0x4702 (det [(1, c), (1, 0), (2, 0), (4, f.num)])

/-- An in-line miss (R286): the frame becomes memory-fed, its buffered lines go to the raw ring, event 0x4703; without a ring, or with
its slot busy, it is dropped. -/
def inlineMiss (c : Nat) : M Unit := do
  let s ← getS
  match s.openFrame c with
  | none => pure ()
  | some f => do
    raise 0x28 4 0x4703 (det [(1, c), (3, 0), (4, f.num)])
    modFrame c fun f => { f with miss := true, lines := [] }
    if s.camRawBase c = 0 || s.slotBusy c f.slot then dropFrame c
    else
      for (y, l) in (List.range f.lines.length).zip f.lines do
        let _ ← ctxWrite (0xA0 + s.camPort c) (s.camOwner c) (s.rawRow c f.slot y)
          (l.flatMap fun v => leBytes (containerBytes (s.camBits c)) v)

/-- An image line of a context (R278, R281–R283): late, beyond the frame, replaced, cut, padded or kept. -/
def imageLine (c : Nat) (payload : List Byte) (crcOk : Bool) : M Unit := do
  let s ← getS
  match s.openFrame c with
  | none =>
    if (s.cam c).lastStart.isSome then bump (camReg Reg.camCnt c) Fld.camCntLateLines 1
  | some f =>
    if f.dropped then pure ()
    else if f.deadline < s.clock.now then modFrame c fun f => { f with late := f.late + 1 }
    else if s.camH c ≤ f.rx then modFrame c fun f => { f with extra := f.extra + 1 }
    else do
      let w := s.camW c
      let got := unpackLine (s.camBits c) payload
      let fill := s.camFill c
      let line := if crcOk then (got ++ List.replicate (w - got.length) fill).take w else List.replicate w fill
      storeLineOf c f.rx line
      modFrame c fun f => { f with
        rx := f.rx + 1
        crc := f.crc + flagBit (!crcOk)
        len := f.len + flagBit (crcOk && got.length != w)
        valid := f.valid ++ [if crcOk then min got.length w else 0]
        lastLine := s.clock.now }
      if f.direct && !f.miss && f.rx == 63 && !s.channelHolds c f.num then inlineMiss c

/-- A big-endian number. -/
def beNat (bs : List Byte) : Nat := leNat bs.reverse

/-- Distance of two frame numbers. -/
def frameGap (a b : Nat) : Nat := min ((a + 2 ^ 32 - b) % 2 ^ 32) ((b + 2 ^ 32 - a) % 2 ^ 32)

/-- The first embedded line of a frame (R299, R301): the codes read back confirm requests; codes that appear on another frame within
seven of the target raise event 0x0702. -/
def embeddedLine (c : Nat) (payload : List Byte) : M Unit := do
  let s ← getS
  match s.openFrame c with
  | none => pure ()
  | some f =>
    let r := camReg Reg.camEmb c
    let eo := s.fld r Fld.camEmbExpOff
    let en := s.fld r Fld.camEmbExpBytesM1 + 1
    let go := s.fld r Fld.camEmbGainOff
    let gn := s.fld r Fld.camEmbGainBytesM1 + 1
    if f.emb.isSome ∨ payload.length < eo + en ∨ payload.length < go + gn then pure ()
    else do
      let e := beNat ((payload.drop eo).take en)
      let g := beNat ((payload.drop go).take gn)
      let force := reqInForce (s.cam c).reqs f.num
      modFrame c fun f => { f with
        emb := some (e, g)
        confirmed := match force with
          | some q => q.exp == e && q.gain == g
          | none => false }
      for q in (s.cam c).reqs do
        if q.state = 3 ∧ q.exp = e ∧ q.gain = g ∧ frameGap f.num q.target ≤ 7 then
          if q.target ≠ f.num then
            raise (0xA0 + s.camPort c) 4 0x0702 (det [(1, c), (3, 0), (4, q.id), (4, q.target), (4, f.num)])
          modReqs c fun x => if x = q then { x with state := 4 } else x

/-- PACKET_RECEIVE (R276, R278, R279): a long packet; the header was good (0), corrected (1) or uncorrectable (2). -/
def packetReceive (port vc dt : Nat) (payload : List Byte) (header : Nat) (crcOk : Bool) : M Unit := do
  if header = 2 then bump (Reg.csiErr port) Fld.csiErrHdrDrop 1
  else do
    if header = 1 then bump (Reg.csiErr port) Fld.csiErrEccCorrected 1
    validHeader port
    let s ← getS
    let bound := (s.camOf port vc).filter fun c =>
      s.camDt c == dt || (dt == 0x12 && s.flag (camReg Reg.camCfg c) Fld.camCfgEmbEn)
    if dt = 2 ∨ dt = 3 then pure ()
    else
      match bound with
      | none => bump (Reg.csiErr port) Fld.csiErrDtDrop 1
      | some c => do
        if !crcOk then bump (Reg.csiErr port) Fld.csiErrCrcErr 1
        if s.csiUp port then
          if dt = 0x12 then (if crcOk then embeddedLine c payload else pure ())
          else imageLine c payload crcOk

def execPacketReceive (port vc dt : Nat) (payload : List Byte) (header : Nat) (crcOk : Bool) (s : State) :
    Host.Outcome State Fault Refusal :=
  whenEnabled (fun s => s.csiReceives port && vc < 16 && 2 ≤ dt && dt < 64 && header ≤ 2)
    (packetReceive port vc dt payload header crcOk) s

/-! ## Links (R277, R279) -/

/-- DESKEW (R277, R279): a deskew sequence ends; the link trains until it has passed, and a failure takes it out of the up state. -/
def deskew (port : Nat) (passed : Bool) : M Unit := do
  let s ← getS
  wrFld (Reg.csiStatus port) Fld.csiStatusDeskewOk (flagBit passed)
  if s.csiUp port then (if passed then pure () else linkDown port 1)
  else wrFld (Reg.csiStatus port) Fld.csiStatusLink 1

def execDeskew (port : Nat) (passed : Bool) (s : State) : Host.Outcome State Fault Refusal :=
  whenEnabled (fun s => s.csiReceives port && decide (1500 < s.fld (Reg.csiCtl port) Fld.csiCtlRateMbps)) (deskew port passed) s

/-- CSI_LINK_LOSS (R279): no valid packet header for CSI_LOSS.us. -/
def execCsiLinkLoss (port : Nat) (s : State) : Host.Outcome State Fault Refusal :=
  whenEnabled (fun s => decide (port < 8) && s.csiUp port
      && decide ((s.csi port).lastPacket + usUnits (s.fld (Reg.csiLoss port) Fld.csiLossUs) ≤ s.clock.now)) (linkDown port 0) s

/-! ## Frames (R281–R285, R293, R301, R366) -/

/-- The parameter commit at a frame start (R293): an arm before the boundary cycle commits now; one in it has waited since then. -/
def commitPage (c num : Nat) : M Unit := do
  let s ← getS
  let x := s.cam c
  let st := camReg Reg.camState c
  if s.flag st Fld.camStateArmed ∧ x.armAt < s.clock.now then
    let page := s.fld (camReg Reg.camParamShadow c) Fld.camParamShadowPage
    let act := camReg Reg.camParamActive c
    wrFld act Fld.camParamActivePage page
    wrFld act Fld.camParamActiveGen ((s.fld act Fld.camParamActiveGen + 1) % 65536)
    wrFld st Fld.camStateArmed 0
    wrFld st Fld.camStateLastCommit (if x.late then 2 else 1)
    modCam c fun x => { x with late := false }
    if x.late then
      raise (0xA0 + s.camPort c) 4 0x0701 (det [(1, c), (3, 0), (4, num), (6, signExtend48 (page * 64) % 2 ^ 48)])
  else if s.flag st Fld.camStateArmed then modCam c fun x => { x with late := true }

/-- The graphs that a camera context's frames drive (R133, R366). -/
def State.camGraphs (s : State) (c : Nat) : List Nat :=
  (s.tally.graphs.filter fun g => g.2.cadence == 1 && g.2.camera == c).map (·.1)

/-- FRAME_START (R281, R282, R285, R293, R366). -/
def frameStart (c csiFn : Nat) : M Unit := do
  let s0 ← getS
  validHeader (s0.camPort c)
  match s0.openFrame c with
  | some f =>
    if f.deadline < s0.clock.now then closeFrame c f.deadline false true false
    else closeFrame c s0.clock.now true false false
  | none => pure ()
  let s ← getS
  let now := s.clock.now
  let num := (s.fld (camReg Reg.camState c) Fld.camStateFrame + 1) % 2 ^ 32
  match (s.cam c).frames.getLast? with
  | some f =>
    if (f.csiFn + 1) % 65536 ≠ csiFn % 65536 then
      raise (0xA0 + s.camPort c) 4 0x0703 (det [(1, c), (1, 0), (2, (f.csiFn + 1) % 65536), (2, csiFn), (2, 0), (4, num)])
  | none => pure ()
  commitPage c num
  let s ← getS
  let act := camReg Reg.camParamActive c
  let direct := s.isInline c && (s.engine 0x28).bypassed == false && s.present 0x28
  let ring := s.camRawBase c != 0
  let miss := s.isInline c && !direct
  let slot := num % s.camSlots c
  let busy := !direct && (!ring || s.slotBusy c slot)
  let f : CamFrame := ⟨num, now, now + usUnits (s.fld (camReg Reg.camTimeout c) Fld.camTimeoutUs), csiFn % 65536,
    signExtend48 (s.fld act Fld.camParamActivePage * 64), s.fld act Fld.camParamActiveGen, false, direct, miss, slot,
    0, 0, 0, 0, 0, [], [], [], [], 0, none, false, true, 0, 0, 0, 0, 0, 0⟩
  let kept := (s.cam c).frames.map fun g => if direct && !s.channelHolds c g.num then { g with lines := [] } else g
  modCam c fun x => { x with frames := (kept ++ [f]).drop (kept.length - 7), lastStart := some now }
  wrFld (camReg Reg.camState c) Fld.camStateFrame num
  wrFld (camReg Reg.camState c) Fld.camStateOpen 1
  if miss then raise 0x28 4 0x4703 (det [(1, c), (3, 0), (4, num)])
  if busy then dropFrame c
  match reqInForce (s.cam c).reqs num with
  | some q => modReqs c fun r =>
      if r.state = 3 ∧ r ≠ q ∧ seqBefore r.target q.target ∧ (!s.flag (camReg Reg.camCfg c) Fld.camCfgEmbEn ∨ 7 < frameGap r.target num) then
        { r with state := 5 } else r
  | none => pure ()
  for g in s.camGraphs c do
    let _ ← cadenceEvent g num now 0

def execFrameStart (cam csiFrame : Nat) (s : State) : Host.Outcome State Fault Refusal :=
  whenEnabled (fun s => decide (cam < 32) && s.camOn cam && s.csiReceives (s.camPort cam)
      && (s.csiUp (s.camPort cam) || s.flag (Reg.csiStatus (s.camPort cam)) Fld.csiStatusDeskewOk
          || s.fld (Reg.csiCtl (s.camPort cam)) Fld.csiCtlRateMbps ≤ 1500))
    (frameStart cam csiFrame) s

/-- FRAME_END (R282, R283): a frame end stamped no later than the deadline closes the open frame; others change nothing. -/
def frameEnd (c : Nat) : M Unit := do
  let s ← getS
  validHeader (s.camPort c)
  match s.openFrame c with
  | some f => if s.clock.now ≤ f.deadline then closeFrame c s.clock.now false false false
  | none => pure ()

def execFrameEnd (cam _csiFrame : Nat) (s : State) : Host.Outcome State Fault Refusal :=
  whenEnabled (fun s => decide (cam < 32) && s.camOn cam && s.csiReceives (s.camPort cam)) (frameEnd cam) s

/-- FRAME_TIMEOUT (R149, R150, R283): the watchdog declares after the settle margin and closes the frame at its deadline. -/
def frameTimeout (c : Nat) : M Unit := do
  let s ← getS
  match s.openFrame c with
  | some f => closeFrame c f.deadline false true false
  | none => pure ()

def execFrameTimeout (cam : Nat) (s : State) : Host.Outcome State Fault Refusal :=
  whenEnabled (fun s => match s.openFrame cam with
      | some f => decide (f.deadline + settleMargin ≤ s.clock.now)
      | none => false) (frameTimeout cam) s

/-! ## Parameter pages (R293, R304) -/

/-- A write to a camera context's register by a requester that may make it (R304). -/
def camWrite (by_ : Requester) (off value : Nat) (m : M Unit) : M Unit := do
  if ← reachReg by_ 4 then
    if privileged by_ then m else refuseReg off value 0

/-- CAM_ARM (R293, R304): the arm takes effect now; while armed it changes nothing. -/
def camArm (c : Nat) : M Unit := do
  let s ← getS
  if !s.flag (camReg Reg.camState c) Fld.camStateArmed then
    wrFld (camReg Reg.camState c) Fld.camStateArmed 1
    modCam c fun x => { x with armAt := s.clock.now, late := x.lastStart == some s.clock.now }

def execCamArm (sender : Requester) (cam : Nat) (s : State) : Host.Outcome State Fault Refusal :=
  whenEnabled (fun _ => cam < 32) (camWrite sender (camReg Reg.camCmd cam) 1 (camArm cam)) s

/-- CAM_DISARM (R271, R293): clears armed before the commit. -/
def camDisarm (c : Nat) : M Unit := do
  wrFld (camReg Reg.camState c) Fld.camStateArmed 0
  modCam c fun x => { x with late := false }

def execCamDisarm (sender : Requester) (cam : Nat) (s : State) : Host.Outcome State Fault Refusal :=
  whenEnabled (fun _ => cam < 32) (camWrite sender (camReg Reg.camCmd cam) 2 (camDisarm cam)) s

/-! ## Exposure requests (R300, R301) -/

/-- The entries of a list block, and whether their reserved fields are 0 (R300). -/
def listEntries (b : List Byte) : List (List Byte) := (List.range (leAt b 12 1 % 16 + 1)).map fun e => (b.drop (64 + 8 * e)).take 8
def entryOk (e : List Byte) : Bool :=
  let w := leAt e 0 8
  !bitAt w 7 && bitsOf w 13 3 == 0
def entryReads (e : List Byte) : Bool := bitAt (leAt e 0 8) 8

/-- CAM_EXPREQ (R300, R301): the request is queued, or refused with event 0x3701. -/
def exposureRequest (c block : Nat) : M Unit := do
  let s ← getS
  let port := s.camPort c
  let refuse : Nat → Nat → M Unit := fun why id => raise (0xA0 + port) 4 0x3701 (det [(1, c), (1, why), (2, 0), (4, id)])
  match ← ctxRead (0xA0 + port) (s.camOwner c) (signExtend48 (block % 2 ^ 48 / 64 * 64)) 256 with
  | .error _ => refuse 1 0
  | .ok b =>
    let id := leAt b 8 4
    let es := listEntries b
    let bad := id = 0 ∨ leAt b 6 2 ≠ 0 ∨ 16 ≤ leAt b 12 1 ∨ !allZero b 13 51 ∨ !allZero b 192 64 ∨ es.any fun e => !entryOk e || entryReads e
    if bad then refuse 1 id
    else if 8 ≤ ((s.cam c).reqs.filter fun r => 1 ≤ r.state && r.state ≤ 3).length then refuse 0 id
    else do
      modCam c fun x => { x with reqs := x.reqs ++ [⟨id, leAt b 0 4, leAt b 4 2, es, 1, 0, 0⟩] }
      showReqs c

def execExposureRequest (sender : Requester) (cam block : Nat) (s : State) : Host.Outcome State Fault Refusal :=
  whenEnabled (fun _ => cam < 32) (camWrite sender (camReg Reg.camExpreq cam) block (exposureRequest cam block)) s

/-! ## Sensor buses (R299–R302) -/

/-- BUS_LIST_START (R300, R302): a write to CSI_BUS_LIST; refused while busy. A list block that memory does not yield fails at its first
entry. -/
def busListStart (by_ : Requester) (port addr : Nat) : M Unit := do
  if ← reachReg by_ 4 then
    let s ← getS
    let st := Reg.csiBusStatus port
    if !machineMode by_ then refuseReg (Reg.csiBusList port) addr 0
    else if s.flag st Fld.csiBusStatusBusy then refuseReg (Reg.csiBusList port) addr 6
    else
      let a := addr % 2 ^ 40 / 64 * 64
      match ← physReadAll (0xA0 + port) a 256 with
      | .error _ => do
        wrFld st Fld.csiBusStatusError 1
        wrFld st Fld.csiBusStatusEntry 0
        raise (0xA0 + port) 4 0x4704 (det [(1, port), (1, 0), (1, 0), (1, 0), (4, 0)])
      | .ok b => do
        wrFld st Fld.csiBusStatusBusy 1
        modCsi port fun p => { p with jobs := p.jobs ++ [⟨none, 0, a, listEntries b, 0, s.clock.now⟩] }

def execBusListStart (sender : Requester) (port addr : Nat) (s : State) : Host.Outcome State Fault Refusal :=
  whenEnabled (fun _ => port < 8) (busListStart sender port addr) s

/-- What a transfer puts on the wires: address byte, register address and data, most significant first (R300). -/
def busBytes (e : List Byte) : List Byte :=
  let w := leAt e 0 8
  let rd := entryReads e
  leBytes 1 (w % 128 * 2 + flagBit rd) ++ (leBytes (bitsOf w 10 1 + 1) (bitsOf w 16 16)).reverse
    ++ if rd then [] else (leBytes (bitsOf w 11 2 + 1) (bitsOf w 32 32)).reverse

/-- The last entry of an exposure request has completed (R301): its target, event 0x0704 where the writes overran the blanking, and
earlier requests with the same target are superseded. -/
def schedule (c id : Nat) : M Unit := do
  let s ← getS
  let b := s.fld (camReg Reg.camState c) Fld.camStateFrame
  let target := (b + s.fld (camReg Reg.camCfg c) Fld.camCfgExpLatency) % 2 ^ 32
  match (s.cam c).reqs.find? fun r => r.state == 2 && r.id == id with
  | none => pure ()
  | some q => do
    modReqs c fun r =>
      if r = q then { r with state := 3, target := target }
      else if r.state = 3 ∧ r.target = target then { r with state := 5 } else r
    if b ≠ q.since then
      raise (0xA0 + s.camPort c) 4 0x0704 (det [(1, c), (3, 0), (4, id), (4, target)])

/-- BUS_TRANSFER_COMPLETE (R299–R301): the entry in progress is acknowledged; a read stores its data in the list block. -/
def busTransferComplete (port : Nat) (data : List Byte) : M Unit := do
  let s ← getS
  match (s.csi port).jobs with
  | [] => pure ()
  | j :: rest => do
    let e := j.entries.getD j.idx []
    update (.sent (· ++ [(0xA0 + port, busBytes e)]))
    if entryReads e ∧ j.cam.isNone then
      let n := bitsOf (leAt e 0 8) 11 2 + 1
      let _ ← physWriteAll (0xA0 + port) (j.addr + 64 + 8 * j.idx + 4) (padTo n data).reverse
    if j.idx + 1 < j.entries.length then
      modCsi port fun p => { p with jobs := { j with idx := j.idx + 1, since := s.clock.now } :: rest }
    else do
      modCsi port fun p => { p with jobs := match rest with
        | [] => []
        | k :: r => { k with since := s.clock.now } :: r }
      match j.cam with
      | some c => schedule c j.req
      | none => wrFld (Reg.csiBusStatus port) Fld.csiBusStatusBusy 0

def execBusTransferComplete (port : Nat) (data : List Byte) (s : State) : Host.Outcome State Fault Refusal :=
  whenEnabled (fun s => !(s.csi port).jobs.isEmpty) (busTransferComplete port data) s

/-- BUS_TRANSFER_FAIL (R299, R301): no acknowledgement, or not complete within 10 ms; event 0x4704. -/
def busTransferFail (port : Nat) : M Unit := do
  let s ← getS
  match (s.csi port).jobs with
  | [] => pure ()
  | j :: rest => do
    modCsi port fun p => { p with jobs := match rest with
      | [] => []
      | k :: r => { k with since := s.clock.now } :: r }
    raise (0xA0 + port) 4 0x4704 (det [(1, port), (1, j.idx), (1, flagBit (decide (j.since + msUnits 10 ≤ s.clock.now))), (1, 0), (4, j.req)])
    match j.cam with
    | some c => modReqs c fun r => if r.state = 2 ∧ r.id = j.req then { r with state := 6 } else r
    | none => do
      wrFld (Reg.csiBusStatus port) Fld.csiBusStatusBusy 0
      wrFld (Reg.csiBusStatus port) Fld.csiBusStatusError 1
      wrFld (Reg.csiBusStatus port) Fld.csiBusStatusEntry j.idx

def execBusTransferFail (port : Nat) (s : State) : Host.Outcome State Fault Refusal :=
  whenEnabled (fun s => !(s.csi port).jobs.isEmpty) (busTransferFail port) s

/-! ## ISP_CTL (R303) -/

/-- Whether a write to ISP_CTL must wait: a frame of the old or the new in-line context is open. -/
def State.ispCtlWaits (s : State) (v : Word) : Bool :=
  let new := getBits v Fld.ispCtlInlineCtx.lsb Fld.ispCtlInlineCtx.width
  (s.openFrame (s.fld Reg.ispCtl Fld.ispCtlInlineCtx)).isSome || (s.openFrame new).isSome

/-- ISP_CTL_APPLY (R303): the held write takes effect. -/
def ispCtlApply : M Unit := do
  let s ← getS
  match s.cams.ctl with
  | none => pure ()
  | some v => do
    wrReg Reg.ispCtl v
    update (.cams fun x => { x with ctl := none })

def execIspCtlApply (s : State) : Host.Outcome State Fault Refusal :=
  whenEnabled (fun s => match s.cams.ctl with
      | some v => !s.ispCtlWaits v
      | none => false) ispCtlApply s

end Sys2Proof.Machine
end

