-- ==== Sys2Proof/Machine/Num.lean ====
section
/-! DEFINITION. Numbers of the arithmetic: floating-point formats (R203), FP32 operations (R204, R210), correctly rounded functions
(R209), the reduction order (R65, R66), conversion on store (R207). -/

namespace Sys2Proof.Machine

open Sys2Proof

/-! ## Exact values and rounding -/

/-- A floating-point value: (−1)^neg × m × 2^e, an infinity, or the canonical NaN. -/
inductive Fp where
  | nan
  | inf (neg : Bool)
  | fin (neg : Bool) (m : Nat) (e : Int)
  deriving DecidableEq, Repr

/-- 2 to an integer power, 0 for a negative one. -/
def pow2 (e : Int) : Nat := if e < 0 then 0 else 2 ^ e.toNat

/-- m × 2^e as an integer quotient with its remainder's place: (quotient, above half, at half, exact). -/
structure Rem where
  q : Nat
  more : Bool
  half : Bool

/-- m × 2^e cut to an integer, `sticky` telling that a little more than m is meant. -/
def cut (m : Nat) (e : Int) (sticky : Bool) : Rem :=
  if 0 ≤ e then ⟨m * 2 ^ e.toNat, false, false⟩
  else
    let d := 2 ^ (-e).toNat
    let r := m % d
    ⟨m / d, decide (d < 2 * r) || (2 * r == d && sticky), 2 * r == d && !sticky⟩

/-- Round to nearest, ties to even. -/
def Rem.nearest (r : Rem) : Nat := if r.more || (r.half && r.q % 2 == 1) then r.q + 1 else r.q

/-- A magnitude m × 2^e rounded to a precision, quanta no smaller than 2^qmin. -/
def roundMag (prec : Nat) (qmin : Int) (m : Nat) (e : Int) (sticky : Bool) : Nat × Int :=
  if m = 0 then (0, qmin)
  else
    let q : Int := max (e + (Nat.log2 m : Int) + 1 - prec) qmin
    if q ≤ e then (m, e) else ((cut m (e - q) sticky).nearest, q)

/-- A magnitude as a value, infinite from 2^emax up. -/
def mkFp (neg : Bool) (emax : Int) (x : Nat × Int) : Fp :=
  if x.1 = 0 then .fin neg 0 0
  else if emax ≤ (Nat.log2 x.1 : Int) + x.2 then .inf neg
  else .fin neg x.1 x.2

/-- One rounding to FP32 (R204). -/
def round32 (neg : Bool) (m : Nat) (e : Int) (sticky : Bool) : Fp := mkFp neg 128 (roundMag 24 (-149) m e sticky)

/-- The quotient n / d of positive numbers rounded once to FP32. -/
def roundFrac (neg : Bool) (n d : Nat) : Fp :=
  if n = 0 then .fin neg 0 0
  else
    let s : Int := (Nat.log2 d : Int) - (Nat.log2 n : Int) + 32
    let n' := n * pow2 s
    let d' := d * pow2 (-s)
    let a := if 0 ≤ s then n' else n
    let b := if 0 ≤ s then d else d'
    round32 neg (2 * (a / b) + flagBit (a % b != 0)) (-s - 1) false

/-! ## Formats (R203) -/

/-- A floating-point format: exponent and mantissa bits, bias, and what the top exponent means (0 finite, 1 IEEE 754, 2 E4M3). -/
structure Fmt where
  eb : Nat
  mb : Nat
  bias : Nat
  top : Nat

def fmtE2M1 : Fmt := ⟨2, 1, 1, 0⟩
def fmtE2M3 : Fmt := ⟨2, 3, 1, 0⟩
def fmtE3M2 : Fmt := ⟨3, 2, 3, 0⟩
def fmtE4M3 : Fmt := ⟨4, 3, 7, 2⟩
def fmtE5M2 : Fmt := ⟨5, 2, 15, 1⟩
def fmtFP16 : Fmt := ⟨5, 10, 15, 1⟩
def fmtBF16 : Fmt := ⟨8, 7, 127, 1⟩
def fmtFP32 : Fmt := ⟨8, 23, 127, 1⟩

/-- The value an encoding stands for. -/
def Fmt.decode (f : Fmt) (c : Nat) : Fp :=
  let neg := bitAt c (f.eb + f.mb)
  let x := bitsOf c f.mb f.eb
  let m := bitsOf c 0 f.mb
  if f.top = 1 ∧ x = 2 ^ f.eb - 1 then (if m = 0 then .inf neg else .nan)
  else if f.top = 2 ∧ x = 2 ^ f.eb - 1 ∧ m = 2 ^ f.mb - 1 then .nan
  else if x = 0 then .fin neg m (1 - (f.bias : Int) - f.mb)
  else .fin neg (m + 2 ^ f.mb) ((x : Int) - f.bias - f.mb)

/-- The canonical NaN of a format. -/
def Fmt.nan (f : Fmt) : Nat :=
  if f.top = 2 then 2 ^ (f.eb + f.mb) - 1 else (2 ^ f.eb - 1) * 2 ^ f.mb + 2 ^ (f.mb - 1)

/-- The largest finite encoding, sign clear. -/
def Fmt.top! (f : Fmt) : Nat :=
  if f.top = 0 then 2 ^ (f.eb + f.mb) - 1
  else if f.top = 2 then 2 ^ (f.eb + f.mb) - 2
  else (2 ^ f.eb - 1) * 2 ^ f.mb - 1

/-- The encoding of a magnitude that the format holds exactly. -/
def Fmt.encodeMag (f : Fmt) (m : Nat) (e : Int) : Nat :=
  if m = 0 then 0
  else
    let x : Int := (Nat.log2 m : Int) + e
    let emin : Int := 1 - (f.bias : Int)
    if x < emin then (cut m (e - (emin - f.mb)) false).q
    else (x + f.bias).toNat * 2 ^ f.mb + ((cut m (e - (x - f.mb)) false).q - 2 ^ f.mb)

/-- Conversion on store to a format (R207, R208): the encoding, and whether the element counts as saturated. Formats without
infinities take ±largest finite; those without NaN take 0. -/
def Fmt.store (f : Fmt) (v : Fp) : Nat × Bool :=
  let sgn : Bool → Nat := fun neg => flagBit neg * 2 ^ (f.eb + f.mb)
  match v with
  | .nan => if f.top = 0 then (0, false) else (f.nan, false)
  | .inf neg => if f.top = 1 then (sgn neg + (2 ^ f.eb - 1) * 2 ^ f.mb, false) else (sgn neg + f.top!, true)
  | .fin neg m e =>
    let qmin : Int := 1 - (f.bias : Int) - f.mb
    let r := roundMag (f.mb + 1) qmin m e false
    let x : Int := (Nat.log2 r.1 : Int) + r.2
    let emaxI : Int := ((2 ^ f.eb - 1 : Nat) : Int) - f.bias
    if f.top = 1 then
      (if r.1 ≠ 0 ∧ emaxI ≤ x then (sgn neg + (2 ^ f.eb - 1) * 2 ^ f.mb, false) else (sgn neg + f.encodeMag r.1 r.2, false))
    else if r.1 ≠ 0 ∧ (emaxI < x ∨ f.top! < f.encodeMag r.1 r.2) then (sgn neg + f.top!, true)
    else (sgn neg + f.encodeMag r.1 r.2, false)

/-- The 32 bits of an FP32 value, and back. -/
def toBits32 (v : Fp) : Nat := (fmtFP32.store v).1
def ofBits32 (c : Nat) : Fp := fmtFP32.decode (c % 2 ^ 32)

/-! ## FP32 operations (R204, R210) -/

def Fp.isNan : Fp → Bool
  | .nan => true
  | _ => false

def Fp.negative : Fp → Bool
  | .nan => false
  | .inf n => n
  | .fin n _ _ => n

def Fp.isZero : Fp → Bool
  | .fin _ m _ => m == 0
  | _ => false

def fNeg : Fp → Fp
  | .nan => .nan
  | .inf n => .inf !n
  | .fin n m e => .fin (!n) m e

def fAbs : Fp → Fp
  | .nan => .nan
  | .inf _ => .inf false
  | .fin _ m e => .fin false m e

/-- A signed integer times a power of two, rounded once. -/
def roundInt (i : Int) (e : Int) : Fp := round32 (i < 0) i.natAbs e false

/-- The signed numerator of a finite value at a smaller exponent. -/
def numAtExp (neg : Bool) (m : Nat) (e low : Int) : Int :=
  let n : Int := ((m * 2 ^ (e - low).toNat : Nat) : Int)
  if neg then -n else n

/-- Addition with one rounding. -/
def fAdd : Fp → Fp → Fp
  | .nan, _ => .nan
  | _, .nan => .nan
  | .inf a, .inf b => if a = b then .inf a else .nan
  | .inf a, _ => .inf a
  | _, .inf b => .inf b
  | .fin na ma ea, .fin nb mb eb =>
    let low := min ea eb
    let sum := numAtExp na ma ea low + numAtExp nb mb eb low
    if sum = 0 then .fin (na && nb && ma == 0 && mb == 0) 0 0 else roundInt sum low

def fSub (a b : Fp) : Fp := fAdd a (fNeg b)

/-- Multiplication with one rounding. -/
def fMul : Fp → Fp → Fp
  | .nan, _ => .nan
  | _, .nan => .nan
  | .inf a, .inf b => .inf (a != b)
  | .inf a, .fin nb mb _ => if mb = 0 then .nan else .inf (a != nb)
  | .fin na ma _, .inf b => if ma = 0 then .nan else .inf (na != b)
  | .fin na ma ea, .fin nb mb eb => round32 (na != nb) (ma * mb) (ea + eb) false

/-- Division with one rounding. -/
def fDiv : Fp → Fp → Fp
  | .nan, _ => .nan
  | _, .nan => .nan
  | .inf _, .inf _ => .nan
  | .inf a, .fin nb _ _ => .inf (a != nb)
  | .fin na _ _, .inf b => .fin (na != b) 0 0
  | .fin na ma ea, .fin nb mb eb =>
    if mb = 0 then (if ma = 0 then .nan else .inf (na != nb))
    else
      let s := ea - eb
      roundFrac (na != nb) (if 0 ≤ s then ma * 2 ^ s.toNat else ma) (if 0 ≤ s then mb else mb * 2 ^ (-s).toNat)

/-- Strict order of numbers, −0 below +0 (R210); neither argument is NaN. -/
def fLt : Fp → Fp → Bool
  | .nan, _ => false
  | _, .nan => false
  | .inf a, b => a && b != .inf true
  | a, .inf b => !b && a != .inf false
  | .fin na ma ea, .fin nb mb eb =>
    let low := min ea eb
    let x := numAtExp na ma ea low
    let y := numAtExp nb mb eb low
    decide (x < y) || (x == y && na && !nb && ma == 0)

/-- max and min (R210). -/
def fMax (a b : Fp) : Fp := if a.isNan || b.isNan then .nan else if fLt a b then b else a
def fMin (a b : Fp) : Fp := if a.isNan || b.isNan then .nan else if fLt b a then b else a

/-- An exact integer as FP32, rounded once. -/
def ofInt (i : Int) : Fp := roundInt i 0

def f32Zero : Fp := .fin false 0 0
def f32One : Fp := .fin false 1 0
def f32Half : Fp := .fin false 1 (-1)

/-- The nearest integer, ties to even; none for NaN and infinities. -/
def Fp.toInt : Fp → Option Int
  | .fin neg m e =>
    let n : Int := ((cut m e false).nearest : Int)
    some (if neg then -n else n)
  | _ => none

/-! ## Sums in the fixed order (R65, R66) -/

/-- One level of the pairwise tree; an unpaired node passes up. -/
def pairUp {α : Type} (add : α → α → α) : List α → List α
  | a :: b :: t => add a b :: pairUp add t
  | t => t

/-- The tree over at most 64 terms: six levels. -/
def blockSum {α : Type} (add : α → α → α) (xs : List α) : List α :=
  pairUp add (pairUp add (pairUp add (pairUp add (pairUp add (pairUp add xs)))))

/-- Blocks of 64 terms, within a fuel. -/
def blocks64 {α : Type} : Nat → List α → List (List α)
  | 0, _ => []
  | n + 1, xs => if xs.isEmpty then [] else xs.take 64 :: blocks64 n (xs.drop 64)

/-- The sum of some terms in the order of R65; none for no term. -/
def orderedSum {α : Type} (add : α → α → α) (xs : List α) : Option α :=
  match (blocks64 (xs.length / 64 + 1) xs).flatMap (blockSum add) with
  | [] => none
  | s :: t => some (t.foldl add s)

def fSum (xs : List Fp) : Fp := (orderedSum fAdd xs).getD f32Zero

/-! ## Correctly rounded functions (R209)

A function value is enclosed between two fractions; when both round to one FP32 number that is the correctly rounded value. The
precision doubles until it does. -/

/-- An interval [lo, hi] of integers at a scale 2^p. -/
structure Iv where
  lo : Int
  hi : Int

def fdiv (a b : Int) : Int := a / b
def cdiv (a b : Int) : Int := -((-a) / b)

def Iv.add (x y : Iv) : Iv := ⟨x.lo + y.lo, x.hi + y.hi⟩
def Iv.sub (x y : Iv) : Iv := ⟨x.lo - y.hi, x.hi - y.lo⟩

def Iv.mul (p : Nat) (x y : Iv) : Iv :=
  let a := x.lo * y.lo
  let b := x.lo * y.hi
  let c := x.hi * y.lo
  let d := x.hi * y.hi
  ⟨fdiv (min (min a b) (min c d)) (2 ^ p), cdiv (max (max a b) (max c d)) (2 ^ p)⟩

/-- Division by a positive integer. -/
def Iv.divNat (x : Iv) (n : Nat) : Iv := ⟨fdiv x.lo n, cdiv x.hi n⟩

/-- Division by a positive interval. -/
def Iv.div (p : Nat) (x y : Iv) : Iv :=
  let q := fun (a b : Int) => fdiv (a * 2 ^ p) b
  let r := fun (a b : Int) => cdiv (a * 2 ^ p) b
  ⟨min (min (q x.lo y.lo) (q x.lo y.hi)) (min (q x.hi y.lo) (q x.hi y.hi)),
   max (max (r x.lo y.lo) (r x.lo y.hi)) (max (r x.hi y.lo) (r x.hi y.hi))⟩

/-- An integer at scale 2^p. -/
def Iv.ofNat (p n : Nat) : Iv := ⟨(n : Int) * 2 ^ p, (n : Int) * 2 ^ p⟩

/-- m × 2^e at scale 2^p. -/
def Iv.ofDy (p : Nat) (m : Int) (e : Int) : Iv :=
  let s := (p : Int) + e
  if 0 ≤ s then ⟨m * 2 ^ s.toNat, m * 2 ^ s.toNat⟩ else ⟨fdiv m (2 ^ (-s).toNat), cdiv m (2 ^ (-s).toNat)⟩

def Iv.widen (x : Iv) (n : Int) : Iv := ⟨x.lo - n, x.hi + n⟩

/-- Horner evaluation 1 + x/1 (1 + x/2 (1 + …)) with n terms. -/
def expHorner (p : Nat) (x : Iv) : Nat → Nat → Iv
  | 0, _ => Iv.ofNat p 1
  | n + 1, i => (Iv.ofNat p 1).add (((x.mul p (expHorner p x n (i + 1)))).divNat i)

/-- e^x for 0 ≤ x = m × 2^e, |x| < 128: the argument is divided by 2^8, the series summed, the result squared eight times. -/
def ivExp (p m : Nat) (e : Int) : Iv :=
  let r := Iv.ofDy p m (e - 8)
  let s := (expHorner p r (p / 2 + 8) 1).widen 4
  (List.range 8).foldl (fun x _ => x.mul p x) s

/-- Terms z^(2i+1)/(2i+1) of the inverse hyperbolic tangent, or with alternating signs of the inverse tangent. -/
def ivAtanSum (p : Nat) (alt : Bool) (z z2 : Iv) : Nat → Nat → Iv → Iv
  | 0, _, acc => acc.widen 4
  | n + 1, i, acc =>
    let t := z.divNat (2 * i + 1)
    ivAtanSum p alt (z.mul p z2) z2 n (i + 1) (if alt && i % 2 == 1 then acc.sub t else acc.add t)

def ivAtanh (p : Nat) (z : Iv) : Iv := ivAtanSum p false z (z.mul p z) (p / 3 + 8) 0 ⟨0, 0⟩
def ivAtan (p : Nat) (z : Iv) : Iv := ivAtanSum p true z (z.mul p z) (p / 3 + 8) 0 ⟨0, 0⟩

/-- ln 2 = 2 atanh(1/3). -/
def ivLn2 (p : Nat) : Iv := let a := ivAtanh p ((Iv.ofNat p 1).divNat 3); a.add a

/-- π = 16 atan(1/5) − 4 atan(1/239). -/
def ivPi (p : Nat) : Iv :=
  let a := ivAtan p ((Iv.ofNat p 1).divNat 5)
  let b := ivAtan p ((Iv.ofNat p 1).divNat 239)
  ⟨16 * a.lo - 4 * b.hi, 16 * a.hi - 4 * b.lo⟩

/-- Integer square root, bit by bit from 2^k. -/
def isqrtAux (n : Nat) : Nat → Nat → Nat
  | 0, r => if (r + 1) * (r + 1) ≤ n then r + 1 else r
  | k + 1, r => isqrtAux n k (if (r + 2 ^ (k + 1)) * (r + 2 ^ (k + 1)) ≤ n then r + 2 ^ (k + 1) else r)

def isqrt (n : Nat) : Nat := isqrtAux n (Nat.log2 n / 2 + 1) 0

/-- Square root of a nonnegative interval. -/
def ivSqrt (p : Nat) (x : Iv) : Iv := ⟨isqrt ((x.lo * 2 ^ p).toNat), isqrt ((x.hi * 2 ^ p).toNat) + 1⟩

/-- ln x for x = m × 2^e > 0. -/
def ivLog (p m : Nat) (e : Int) : Iv :=
  let k0 : Int := Nat.log2 m
  -- the mantissa m / 2^k0 lies in [1, 2); values above 4/3 are halved
  let k := if 4 * 2 ^ k0.toNat < 3 * m then k0 + 1 else k0
  let one := Iv.ofNat p 1
  let f := Iv.ofDy p m (-k)
  let z := (f.sub one).div p (f.add one)
  let l := ivAtanh p z
  let n := k + e
  let ln2 := ivLn2 p
  let part : Iv := if 0 ≤ n then ⟨n * ln2.lo, n * ln2.hi⟩ else ⟨n * ln2.hi, n * ln2.lo⟩
  (l.add l).add part

/-- The series Σ 2^n y^n / (2n+1)!! for the error function, y = x². -/
def erfHorner (p : Nat) (y : Iv) : Nat → Nat → Iv
  | 0, _ => Iv.ofNat p 1
  | n + 1, i => (Iv.ofNat p 1).add (((y.add y).mul p (erfHorner p y n (i + 1))).divNat (2 * i + 1))

/-- erf(x) / x for |x| < 4, x = m × 2^e. -/
def ivErfRatio (p m : Nat) (e : Int) : Iv :=
  let x := Iv.ofDy p m e
  let y := x.mul p x
  let s := (erfHorner p y (p + 64) 1).widen 8
  let ex := ivExp p (m * m) (2 * e)
  let two := Iv.ofNat p 2
  ((s.div p ex).mul p (two.div p (ivSqrt p (ivPi p)))).widen 2

/-- Round the enclosure [a/b, c/d] of a magnitude if both ends round alike. -/
def agree (neg : Bool) (a b c d : Nat) : Option Fp :=
  let x := roundFrac neg a b
  if x = roundFrac neg c d then some x else none

/-- Try an enclosure at rising precisions. -/
def ziv (f : Nat → Nat × Nat × Nat × Nat) (neg : Bool) : List Nat → Fp
  | [] => .nan
  | p :: ps =>
    let (a, b, c, d) := f p
    match agree neg a b c d with
    | some x => x
    | none => match ps with
      | [] => roundFrac neg a b
      | _ => ziv f neg ps

/-- The precisions tried. -/
def zivSteps : List Nat := [64, 96, 160, 320]

/-- A positive interval as fractions. -/
def Iv.fracs (x : Iv) (p : Nat) : Nat × Nat × Nat × Nat := (x.lo.toNat, 2 ^ p, x.hi.toNat, 2 ^ p)

/-- Whether a magnitude m × 2^e is at least n. -/
def atLeast (m : Nat) (e : Int) (n : Nat) : Bool :=
  if 0 ≤ e then n ≤ m * 2 ^ e.toNat else n * 2 ^ (-e).toNat ≤ m

def crExp : Fp → Fp
  | .nan => .nan
  | .inf n => if n then f32Zero else .inf false
  | .fin neg m e =>
    if m = 0 then f32One
    else if neg then
      (if atLeast m e 104 then f32Zero
       else ziv (fun p => let x := ivExp p m e; (2 ^ p, x.hi.toNat, 2 ^ p, x.lo.toNat)) false zivSteps)
    else if atLeast m e 89 then .inf false
    else ziv (fun p => (ivExp p m e).fracs p) false zivSteps

def crLog : Fp → Fp
  | .nan => .nan
  | .inf n => if n then .nan else .inf false
  | .fin neg m e =>
    if m = 0 then .inf true
    else if neg then .nan
    else if e ≤ 0 ∧ m = 2 ^ (-e).toNat then f32Zero
    else
      let isNeg := if 0 ≤ e then false else decide (m < 2 ^ (-e).toNat)
      ziv (fun p =>
        let x := ivLog p m e
        if isNeg then ((-x.hi).toNat, 2 ^ p, (-x.lo).toNat, 2 ^ p) else x.fracs p) isNeg zivSteps

def crSqrt : Fp → Fp
  | .nan => .nan
  | .inf n => if n then .nan else .inf false
  | .fin neg m e =>
    if m = 0 then .fin neg 0 0
    else if neg then .nan
    else
      let s : Nat := 64 + (e % 2).toNat
      let n := m * 2 ^ s
      let r := isqrt n
      round32 false (2 * r + flagBit (r * r != n)) ((e - s) / 2 - 1) false

def crRsqrt : Fp → Fp
  | .nan => .nan
  | .inf n => if n then .nan else f32Zero
  | .fin neg m e =>
    if m = 0 then .inf neg
    else if neg then .nan
    else
      -- 1/√(m 2^e) = √(2^k / m) × 2^(−(e + k)/2) with e + k even
      let k : Nat := 128 + ((-e) % 2).toNat
      let n := 2 ^ k
      let r := isqrt (n / m)
      round32 false (2 * r + flagBit (r * r * m != n)) (-((e + k) / 2) - 1) false

def crRecip (x : Fp) : Fp := fDiv f32One x

/-- tanh x, and the sigmoid, by e^2x and e^x; small arguments of tanh by x − x³/3 and x − x³/3 + 2x⁵/15. -/
def crTanh : Fp → Fp
  | .nan => .nan
  | .inf n => .fin n 1 0
  | .fin neg m e =>
    if m = 0 then .fin neg 0 0
    else if atLeast m e 10 then .fin neg 1 0
    else if !atLeast m (e + 12) 1 then
      -- x = m 2^e, e < 0; over the denominator 15 × 2^(−5e)
      let d := 2 ^ (-e).toNat
      let d4 := d * d * d * d
      let low := 15 * m * d4 - 5 * m * m * m * (d * d)
      (agree neg low (15 * d4 * d) (low + 2 * m * m * m * m * m) (15 * d4 * d)).getD (roundFrac neg low (15 * d4 * d))
    else ziv (fun p =>
      let x := ivExp p m (e + 1)
      let one : Int := 2 ^ p
      ((x.lo - one).toNat, (x.lo + one).toNat, (x.hi - one).toNat, (x.hi + one).toNat)) neg zivSteps

def crSigmoid : Fp → Fp
  | .nan => .nan
  | .inf n => if n then f32Zero else f32One
  | .fin neg m e =>
    if neg then
      (if atLeast m e 104 then f32Zero
       else ziv (fun p => let x := ivExp p m e; (2 ^ p, (x.hi + 2 ^ p).toNat, 2 ^ p, (x.lo + 2 ^ p).toNat)) false zivSteps)
    else if atLeast m e 18 then f32One
    else ziv (fun p => let x := ivExp p m e
      (x.lo.toNat, (x.lo + 2 ^ p).toNat, x.hi.toNat, (x.hi + 2 ^ p).toNat)) false zivSteps

def crErf : Fp → Fp
  | .nan => .nan
  | .inf n => .fin n 1 0
  | .fin neg m e =>
    if m = 0 then .fin neg 0 0
    else if atLeast m e 4 then .fin neg 1 0
    else ziv (fun p =>
      let g := ivErfRatio p m e
      let a := if 0 ≤ e then m * 2 ^ e.toNat else m
      let b := if 0 ≤ e then 1 else 2 ^ (-e).toNat
      (a * g.lo.toNat, b * 2 ^ p, a * g.hi.toNat, b * 2 ^ p)) neg zivSteps

/-- The constant of gelu: FP32 0x3F3504F3 (R209). -/
def geluC : Fp := ofBits32 0x3F3504F3

def fGelu (x : Fp) : Fp := fMul x (fMul f32Half (fAdd f32One (crErf (fMul x geluC))))
def fSilu (x : Fp) : Fp := fMul x (crSigmoid x)

/-- The functions of R209 on FP32, codes 0x00 to 0x0F. -/
def fFunction (code : Nat) (alpha beta x : Fp) : Fp :=
  if x.isNan then .nan
  else match code with
    | 0 => x
    | 1 => if fLt f32Zero x then x else f32Zero
    | 2 => if fLt f32Zero x then x else fMul alpha x
    | 3 => fMin (fMax x alpha) beta
    | 4 => fAbs x
    | 5 => fNeg x
    | 6 => crExp x
    | 7 => crLog x
    | 8 => crSqrt x
    | 9 => crRsqrt x
    | 10 => crRecip x
    | 11 => crTanh x
    | 12 => crSigmoid x
    | 13 => crErf x
    | 14 => fGelu x
    | 15 => fSilu x
    | _ => x

end Sys2Proof.Machine
end

