-- ==== Sys2Proof/Machine/Tensor.lean ====
section
/-! DEFINITION. Tensor operands: descriptors (R166–R177, R191–R196), element access (R170, R178–R183, R364), load and store conversion
(R185, R203, R207), and the run of one operation over its operands (R88, R97, R190, R231, R439, R440). -/

namespace Sys2Proof.Machine

open Sys2Proof

/-! ## Data types (R167) -/

def isInt (dt : Nat) : Bool := 1 ≤ dt && dt ≤ 5
def isFp (dt : Nat) : Bool := 8 ≤ dt && dt ≤ 0x0F
def isCint (dt : Nat) : Bool := dt == 0x10 || dt == 0x11
def isCplx (dt : Nat) : Bool := isCint dt || dt == 0x12
def isScaleType (dt : Nat) : Bool := dt == 0x18 || dt == 0x19
def isRaw (dt : Nat) : Bool := 0x20 ≤ dt && dt ≤ 0x24

/-- Scale arrays of a type: 0 not permitted, 1 optional, 2 required; and the scale format (0 E8M0, 1 INT8 exponent). -/
def scaleRule (dt : Nat) : Nat × Nat :=
  if dt = 1 ∨ dt = 2 ∨ dt = 4 ∨ dt = 0x10 ∨ dt = 0x11 then (1, 1)
  else if dt = 8 ∨ dt = 9 ∨ dt = 0x0A then (2, 0)
  else if dt = 0x0B ∨ dt = 0x0C then (1, 0)
  else (0, 0)

/-- The floating-point format of a type. -/
def fmtOf (dt : Nat) : Fmt :=
  if dt = 8 then fmtE2M1 else if dt = 9 then fmtE2M3 else if dt = 0x0A then fmtE3M2 else if dt = 0x0B then fmtE4M3
  else if dt = 0x0C then fmtE5M2 else if dt = 0x0D ∨ dt = 0x12 then fmtFP16 else if dt = 0x0E then fmtBF16 else fmtFP32

/-- The range of an integer type, of a component of CI8 and CI16, or of a RAW container's value. -/
def intRange (dt : Nat) : Int × Int :=
  if isRaw dt then (0, 2 ^ (if dt = 0x20 then 8 else if dt = 0x21 then 10 else if dt = 0x22 then 12 else if dt = 0x23 then 16 else 20) - 1)
  else if dt = 1 then (-8, 7) else if dt = 2 ∨ dt = 0x10 then (-128, 127) else if dt = 3 then (0, 255)
  else if dt = 4 ∨ dt = 0x11 then (-32768, 32767) else (-2147483648, 2147483647)

/-- Valid bits of a RAW container. -/
def rawBits (dt : Nat) : Nat := if dt = 0x20 then 8 else if dt = 0x21 then 10 else if dt = 0x22 then 12 else if dt = 0x23 then 16 else 20

/-! ## Operands -/

/-- An operand: its slot, descriptor (with the owner table behind it under dist 2), address after R364 and R367, extents seen by the
task (R193), the ring it is part of (band rows, depth, band bytes, band dimension), the bands of a ring input that its streamer has
used, the registered buffers that hold base and scale base (R178), this member's rank (R192). -/
structure Ten where
  slot : Nat
  td : List Byte
  base : Nat
  dims : List Nat
  ring : Option (Nat × Nat × Nat × Nat)
  bands : List (Nat × List Byte)
  buf : Option (Nat × Nat)
  sbuf : Option (Nat × Nat)
  rank : Nat

def Ten.dt (t : Ten) : Nat := tdDtype t.td
def Ten.width (t : Ten) : Nat := (dtWidth t.dt).getD 8
def Ten.ext (t : Ten) (k : Nat) : Nat := t.dims.getD k 1
def Ten.ndim (t : Ten) : Nat := tdRank t.td
def Ten.fill (t : Ten) : Nat := leAt t.td 0x10 4
def tdWord8 (d : List Byte) : Nat := leAt d 8 8
def tdScaleBase (d : List Byte) : Nat := signExtend48 (tdWord8 d % 2 ^ 48 / 64 * 64)
def tdHasScale (d : List Byte) : Bool := tdWord8 d % 2 ^ 48 / 64 != 0
def tdScaleBlk (d : List Byte) : Nat := tdWord8 d % 4
def tdScaleFmt (d : List Byte) : Nat := bitsOf (tdWord8 d) 2 1
def tdScaleDim (d : List Byte) : Nat := bitsOf (tdWord8 d) 3 3
def tdQuiet (d : List Byte) : Bool := bitAt (tdWord8 d) 63

/-- The logical dimension at physical position j (R166, R169). -/
def tdOrder (d : List Byte) (j : Nat) : Nat := if j = 5 then 5 else bitsOf (tdWord8 d) (48 + 3 * j) 3

def tdOwnLo (d : List Byte) (k : Nat) : Nat := leAt d (0x20 + k) 1
def tdOwnHi (d : List Byte) (k : Nat) : Nat := leAt d (0x26 + k) 1
def tdInfo (d : List Byte) : Nat := leAt d 0x38 8 / 2 ^ 22

/-- Elements in a scale block (R166). -/
def blkSize (c : Nat) : Nat := if c = 0 then 12 else if c = 1 then 16 else if c = 2 then 32 else 64

def Ten.hasScale (t : Ten) : Bool := tdHasScale t.td

/-! ## Distribution (R191–R195) -/

/-- The shard count and kind of a dimension (R192). -/
def shardCount (d : List Byte) (k : Nat) : Nat := bitsOf (tdInfo d) (7 * k + 1) 6 + 1
def shardCyclic (d : List Byte) (k : Nat) : Bool := bitAt (tdInfo d) (7 * k)

/-- The shard coordinate of a rank along a dimension, in mixed radix, d0 fastest; none for an empty shard. -/
def shardCoord (d : List Byte) (r k : Nat) : Option Nat :=
  let all := (List.range 6).foldl (fun n j => n * shardCount d j) 1
  let below := (List.range k).foldl (fun n j => n * shardCount d j) 1
  if all ≤ r then none else some (r / below % shardCount d k)

/-- The shard and the local index of a global index along a dimension (R193). -/
def shardIndex (d : List Byte) (k x : Nat) : Nat × Nat :=
  let n := shardCount d k
  if shardCyclic d k then
    let b := 2 ^ (tdTileLog2 d k + tdStLog2 d k)
    (x / b % n, x / b / n * b + x % b)
  else
    let s := ceilDiv (tdExtent d k) n
    (x / s, x % s)

/-- The extent of a shard along a dimension: the count of global indices on it. -/
def shardExtent (d : List Byte) (k c : Nat) : Nat :=
  let g := tdExtent d k
  let n := shardCount d k
  if shardCyclic d k then
    let b := 2 ^ (tdTileLog2 d k + tdStLog2 d k)
    let whole := g / b
    let mine := whole / n + flagBit (decide (c < whole % n))
    mine * b + (if whole % n = c then g % b else 0)
  else
    let s := ceilDiv g n
    min s (g - c * s)

/-- Extents a task sees (R191, R193). -/
def seenDims (d : List Byte) (r : Nat) : List Nat :=
  (List.range 6).map fun k =>
    if tdDist d = 1 then (match shardCoord d r k with
      | some c => shardExtent d k c
      | none => 0)
    else tdExtent d k

/-- The fabric job of a context (R420): its number. -/
def State.jobOf (s : State) (h : Nat) : Option Nat :=
  (List.range 16).find? fun j => s.reg (Reg.fabJobCfg j) != 0 && s.fld (Reg.fabJobCfg j) Fld.fabJobCfgHandle == h

/-- This member's rank in a context's job. -/
def State.rankOf (s : State) (h : Nat) : Nat :=
  ((s.jobOf h).map fun j => s.fld (Reg.fabJobCfg j) Fld.fabJobCfgRank).getD 0

/-! ## Building an operand -/

/-- The registered buffer of a context that holds an address: [low, high). -/
def State.bufferAt (s : State) (h a : Nat) : Option (Nat × Nat) :=
  (s.tally.buffers.find? fun b => b.handle == h && b.base ≤ a && a < b.base + b.length).map fun b => (b.base, b.base + b.length)

/-- The operand of a slot of a task, from the descriptor it has read (R88, R364, R367). -/
def State.operand (s : State) (k : Task) (slot : Nat) : Option Ten :=
  match tblFind k.tds slot with
  | none => none
  | some d =>
    let num := match k.origin with | .inst _ _ n => n | _ => 0
    let r := s.rankOf k.handle
    let dims := seenDims d r
    let hall := s.hallOf k.handle (tdBase d)
    let base := match hall with
      | some (rec, c) => (match tblFind s.hall.bufs rec with
        | some b => b.base + b.copy c num * b.stride
        | none => tdBase d)
      | none => tdBase d
    let ring := match hall with
      | some (rec, _) => (match tblFind s.hall.bufs rec with
        | some b => if b.ring then some (b.rowsM1 + 1, b.depthM1 + 1, b.bandBytes, tdRank d - 1) else none
        | none => none)
      | none => none
    let bands := (k.ringIn.filter fun b => b.1 == slot).map fun b => (b.2.1, b.2.2)
    some ⟨slot, d, base, dims, ring, bands, s.bufferAt k.handle (tdBase d), s.bufferAt k.handle (tdScaleBase d), r⟩

/-- Whether an operand is a ring that its task reads band by band (slot kind 0x3, R242). -/
def Ten.ringInput (t : Ten) : Bool := t.ring.isSome && t.slot < 8

/-! ## Where an element lies (R170, R178, R195, R364) -/

/-- A tile's place: supertile in the grid, tile in the supertile, element in the tile (R170). -/
def gridPlace (d : List Byte) (i : List Nat) : Nat × Nat × Nat :=
  let x := (List.range 6).foldl
    (fun (a : (Nat × Nat × Nat) × (Nat × Nat × Nat)) j =>
      let k := tdOrder d j
      let v := i.getD k 0
      let t := 2 ^ tdTileLog2 d k
      let u := 2 ^ tdStLog2 d k
      let ((e, su, g), (re, ru, rg)) := a
      ((e + v % t * re, su + v / t % u * ru, g + v / (t * u) * rg), (re * t, ru * u, rg * tdGrid d k)))
    ((0, 0, 0), (1, 1, 1))
  (x.1.2.2, x.1.2.1, x.1.1)

/-- Layout tiles in a supertile. -/
def tilesPerSt (d : List Byte) : Nat := 2 ^ ((List.range 6).foldl (fun n k => n + tdStLog2 d k) 0)

/-- Whether an owner-table entry names this member (R195). -/
def heldHere (d : List Byte) (r g : Nat) : Bool :=
  let b := leAt d (64 + g) 1
  bitAt b 7 && b % 64 == r

/-- The stored position of a supertile under dist 2: how many held ones precede it. -/
def ownerPosition (d : List Byte) (r g : Nat) : Nat := ((List.range g).filter (heldHere d r)).length

/-- Where an element is found: filled (quietly under R180 or not), in memory at a byte and bit, or in band j of a ring input. -/
inductive Spot where
  | fill (quiet : Bool)
  | mem (a bit : Nat)
  | band (j off bit : Nat)
  deriving DecidableEq, Repr

/-- An index as naturals where it lies inside the logical shape. -/
def Ten.inside (t : Ten) (i : List Int) : Option (List Nat) :=
  if (List.range 6).all fun k => decide (0 ≤ i.getD k 0) && decide (i.getD k 0 < (t.ext k : Int)) then
    some ((List.range 6).map fun k => (i.getD k 0).toNat)
  else none

/-- Whether the supertile of an element is held locally. -/
def Ten.local (t : Ten) (i : List Nat) : Bool := tdDist t.td != 2 || heldHere t.td t.rank (gridPlace t.td i).1

/-- The byte offset of an element's tile from the start of a copy or band, and its bit in the tile. -/
def Ten.offset (t : Ten) (i : List Nat) : Nat × Nat :=
  let (g, u, e) := gridPlace t.td i
  let g' := if tdDist t.td = 2 then ownerPosition t.td t.rank g else g
  let bit := e * t.width
  ((g' * tilesPerSt t.td + u) * tdTileBytes t.td + bit / 8, bit % 8)

/-- An index with its band coordinate reduced to the band, and the band. -/
def Ten.bandOf (t : Ten) (i : List Nat) : List Nat × Nat :=
  match t.ring with
  | some (rows, _, _, dim) => (i.set dim (i.getD dim 0 % rows), i.getD dim 0 / rows)
  | none => (i, 0)

/-- The address and bit of an element's storage (R170, R364). -/
def Ten.address (t : Ten) (i : List Nat) : Nat × Nat :=
  let (i', j) := t.bandOf i
  let (o, b) := t.offset i'
  match t.ring with
  | some (_, depth, bytes, _) => (t.base + j % depth * bytes + o, b)
  | none => (t.base + o, b)

/-- Whether a byte range lies in a registered buffer. -/
def inRange (b : Option (Nat × Nat)) (a n : Nat) : Bool :=
  match b with
  | some (lo, hi) => lo ≤ a && a + n ≤ hi
  | none => false

/-- Bytes the storage of an element at a bit touches. -/
def Ten.span (t : Ten) (bit : Nat) : Nat := (bit + t.width + 7) / 8

/-- The address of the scale byte of an element's block (R173, R175). -/
def Ten.scaleAddr (t : Ten) (i : List Nat) : Nat :=
  let d := t.td
  let b := blkSize (tdScaleBlk d)
  let e : Nat → Nat := fun k => if k = tdScaleDim d then ceilDiv (t.ext k) b else t.ext k
  let j : Nat → Nat := fun k => if k = tdScaleDim d then i.getD k 0 / b else i.getD k 0
  let row := ([1, 2, 3, 4, 5].foldl (fun (a : Nat × Nat) k => (a.1 + j k * a.2, a.2 * e k)) (0, 1)).1
  tdScaleBase d + row * (ceilDiv (e 0) 64 * 64) + j 0

/-- Where a read of an element finds it (R178). -/
def Ten.spot (t : Ten) (i : List Int) : Spot :=
  match t.inside i with
  | none => .fill (tdQuiet t.td)
  | some n =>
    if !t.local n then .fill false
    else
      let (a, bit) := t.address n
      if !inRange t.buf a (t.span bit) || (t.hasScale && !inRange t.sbuf (t.scaleAddr n) 1) then .fill false
      else if t.ringInput then
        let (i', j) := t.bandOf n
        (if t.bands.any fun b => b.1 == j then .band j (t.offset i').1 (t.offset i').2 else .fill false)
      else .mem a bit

/-- Bits of a byte list as a stream. -/
def bitsAt (bs : List Byte) (bit w : Nat) : Nat := bitsOf (leNat bs) bit w

/-- The stored encoding of an element, or its fill. -/
def Ten.code (s : State) (h : Nat) (t : Ten) (i : List Int) : Nat :=
  match t.spot i with
  | .fill _ => t.fill
  | .mem a bit => bitsAt ((s.peek h a (t.span bit)).getD []) bit t.width
  | .band j off bit => match t.bands.find? fun b => b.1 == j with
    | some (_, bs) => bitsAt ((bs.drop off).take (t.span bit)) bit t.width
    | none => t.fill

/-- Whether a read of an element is answered with the fill. -/
def Ten.filled (t : Ten) (i : List Int) : Bool :=
  match t.spot i with
  | .fill _ => true
  | _ => false

/-- The scale byte of an element; none where it has no scale or is filled (R177). -/
def Ten.scaleByte (s : State) (h : Nat) (t : Ten) (i : List Int) : Option Nat :=
  if !t.hasScale || t.filled i then none
  else (t.inside i).map fun n => leNat ((s.peek h (t.scaleAddr n) 1).getD [])

/-! ## Load (R174, R185, R203) -/

/-- A component: an exact integer, or an FP32 value. -/
inductive Num where
  | int (i : Int)
  | fp (v : Fp)

/-- An element: a real, or a complex with its imaginary component. -/
structure Elt where
  re : Num
  im : Option Num

/-- The value of a component's encoding. -/
def decodeComp (dt c : Nat) : Num :=
  if isFp dt || dt == 0x12 then .fp ((fmtOf dt).decode c)
  else if isRaw dt then .int (c % 2 ^ rawBits dt)
  else if dt = 3 then .int (c % 256)
  else if isCint dt then .int (signed (if dt = 0x10 then 8 else 16) c)
  else if dt = 0x18 then .fp (if c % 256 = 255 then .nan else .fin false 1 ((c % 256 : Nat) - 127))
  else if dt = 0x19 then .int (signed 8 c)
  else .int (signed ((dtWidth dt).getD 8) c)

/-- A component multiplied by its block's scale, rounded once to FP32 (R174, R203). -/
def Num.scaled (n : Num) (fmt byte : Nat) : Num :=
  if fmt = 0 ∧ byte = 255 then .fp .nan
  else
    let x : Int := if fmt = 0 then (byte : Int) - 127 else signed 8 byte
    match n with
    | .int i => .fp (roundInt i x)
    | .fp (.fin neg m e) => .fp (round32 neg m (e + x) false)
    | .fp v => .fp v

/-- An encoding as an element, with an optional scale. -/
def decodeElt (dt c : Nat) (scale : Option (Nat × Nat)) : Elt :=
  let sc : Num → Num := fun n => match scale with
    | some (f, b) => n.scaled f b
    | none => n
  if isCplx dt then
    let w := if dt = 0x10 then 8 else 16
    ⟨sc (decodeComp dt (c % 2 ^ w)), some (sc (decodeComp dt (c / 2 ^ w % 2 ^ w)))⟩
  else ⟨sc (decodeComp dt c), none⟩

/-- The element at an index, loaded. -/
def Ten.load (s : State) (h : Nat) (t : Ten) (i : List Int) : Elt :=
  decodeElt t.dt (t.code s h i) ((t.scaleByte s h i).map fun b => (tdScaleFmt t.td, b))

def Num.toFp : Num → Fp
  | .int i => ofInt i
  | .fp v => v

def Num.toInt : Num → Int
  | .int i => i
  | .fp v => v.toInt.getD 0

def Elt.fp (e : Elt) : Fp := e.re.toFp
def Elt.int (e : Elt) : Int := e.re.toInt
def realElt (n : Num) : Elt := ⟨n, none⟩

/-! ## Store (R207) -/

/-- An integer saturated to a range. -/
def saturate (r : Int × Int) (i : Int) : Int × Bool :=
  if i < r.1 then (r.1, true) else if r.2 < i then (r.2, true) else (i, false)

/-- A component converted to a type: its encoding in w bits, and whether it counts as saturated. -/
def storeComp (dt w : Nat) (n : Num) : Nat × Bool :=
  if isFp dt || dt == 0x12 then
    (match n with
    | .fp v => (fmtOf dt).store v
    | .int i => (fmtOf dt).store (.fin (i < 0) i.natAbs 0))
  else
    let r := intRange dt
    match n with
    | .int i => let x := saturate r i; (unsigned w x.1, x.2)
    | .fp .nan => (0, false)
    | .fp (.inf neg) => (unsigned w (if neg then r.1 else r.2), true)
    | .fp (.fin neg m e) =>
      let i : Int := (Fp.toInt (.fin neg m e)).getD 0
      let x := saturate r i
      (unsigned w x.1, x.2)

/-- An element converted to a type. -/
def storeElt (dt : Nat) (e : Elt) : Nat × Bool :=
  if isCplx dt then
    let w := if dt = 0x10 then 8 else 16
    let a := storeComp dt w e.re
    let b := match e.im with
      | some i => storeComp dt w i
      | none => (0, false)
    (a.1 + b.1 * 2 ^ w, a.2 || b.2)
  else storeComp dt ((dtWidth dt).getD 8) e.re

/-! ## Indices -/

/-- All indices of a shape, d0 fastest (R67). -/
def allIdx : List Nat → List (List Nat)
  | [] => [[]]
  | n :: ds => (allIdx ds).flatMap fun r => (List.range n).map fun i => i :: r

/-- All indices of an operand's logical shape. -/
def Ten.indices (t : Ten) : List (List Nat) := allIdx ((List.range 6).map t.ext)

/-- An index of naturals as one of integers. -/
def toInts (i : List Nat) : List Int := i.map fun (n : Nat) => (n : Int)

/-! ## The run of an operation -/

/-- One element an operation writes: output slot, index, encoding, whether it counts as saturated, scale byte of its block. -/
structure OutW where
  slot : Nat
  idx : List Nat
  code : Nat
  sat : Bool
  scale : Option Nat

/-- What an operation does over its operands: the elements it reads, with repetitions as often as it reads them; bytes it reads beside
its tensors; the elements it writes. -/
structure Plan where
  reads : List (Nat × List Int)
  extra : List (Nat × Nat)
  writes : List OutW

/-- Which blocks of a result a checker may recompute (R440): none, 64-row blocks, or 64 × 64 tiles. -/
inductive Sampling where
  | none | rows | tiles
  deriving DecidableEq, Repr

/-- The operands of a task. -/
def State.operands (s : State) (k : Task) : List Ten := (k.tds.map (·.1)).filterMap fun n => s.operand k n

/-- The operand of a slot among some. -/
def tenAt (ts : List Ten) (slot : Nat) : Option Ten := ts.find? fun t => t.slot == slot

/-- The 64-byte units of memory that the reads of a plan touch (R185). -/
def readUnits (ts : List Ten) (p : Plan) : List Nat :=
  (p.reads.flatMap (fun r => match tenAt ts r.1 with
    | none => []
    | some t =>
      let own := match t.spot r.2 with
        | .mem a bit => [a / 64, (a + t.span bit - 1) / 64]
        | _ => []
      let sc := if t.hasScale && !t.filled r.2 then (match t.inside r.2 with
        | some n => [t.scaleAddr n / 64]
        | none => []) else []
      own ++ sc)
    ++ p.extra.flatMap fun x => (List.range' (x.1 / 64) ((x.1 + x.2 + 63) / 64 - x.1 / 64))).dedup

/-- Read every unit; the first error ends it. -/
def touch (e h : Nat) : List Nat → M (Option MemErr)
  | [] => return none
  | u :: us => do
    match ← ctxRead e h (u * 64) 64 with
    | .error x => return some x
    | .ok _ => touch e h us

/-- Class 2 counts of the reads of a slot (R97, R178–R181): fills that raise event 0x2001, and quiet ones. -/
def fillCounts (ts : List Ten) (p : Plan) (slot : Nat) : Nat × Nat :=
  match tenAt ts slot with
  | none => (0, 0)
  | some t => (p.reads.filter fun r => r.1 == slot).foldl
      (fun (a : Nat × Nat) r => match t.spot r.2 with
        | .fill true => (a.1, a.2 + 1)
        | .fill false => (a.1 + 1, a.2)
        | _ => a) (0, 0)

/-- The test of R179 that a write fails first. -/
def Ten.writeTest (t : Ten) (i : List Nat) : Option Nat :=
  if (List.range 6).any (fun k => t.ext k ≤ i.getD k 0) || !t.local i then some 1
  else if (List.range 6).any fun k => i.getD k 0 < tdOwnLo t.td k || t.ext k ≤ i.getD k 0 + tdOwnHi t.td k then some 2
  else
    let (a, bit) := t.address i
    if inRange t.buf a (t.span bit) then none else some 3

/-- Bytes being formed, by address. -/
abbrev Form := Tbl Byte

/-- Put w bits at a byte and bit, over what the bytes hold. -/
def putBits (cur : Nat → Byte) (f : Form) (a bit w code : Nat) : Form :=
  let n := (bit + w + 7) / 8
  let old := leNat ((List.range n).map fun i => (tblFind f (a + i)).getD (cur (a + i)))
  let new := old - bitsOf old bit w * 2 ^ bit + code % 2 ^ w * 2 ^ bit
  (List.range n).foldl (fun g i => tblSet g (a + i) (BitVec.ofNat 8 (new / 2 ^ (8 * i)))) f

/-- Runs of consecutive bytes within 64-byte lines. -/
def formRuns : List (Nat × Byte) → List (Nat × List Byte)
  | [] => []
  | (a, b) :: t =>
    match formRuns t with
    | (c, bs) :: rest => if c = a + 1 ∧ c % 64 ≠ 0 then (a, b :: bs) :: rest else (a, [b]) :: (c, bs) :: rest
    | [] => [(a, [b])]

/-- Write runs through the context's translation; the first error ends it. -/
def writeRuns (e h : Nat) : List (Nat × List Byte) → M (Option MemErr)
  | [] => return none
  | (a, bs) :: t => do
    match ← ctxWrite e h a bs with
    | some x => return some x
    | none => writeRuns e h t

/-- The bytes that the passing writes of a plan form in memory, those of output rings apart. -/
def formMem (s : State) (h : Nat) (ts : List Ten) (ws : List OutW) : Form :=
  let cur : Nat → Byte := fun a => (((s.peek h a 1).getD []).head?).getD 0#8
  ws.foldl (fun f w => match tenAt ts w.slot with
    | none => f
    | some t =>
      let f1 := if t.ring.isSome then f else
        let (a, bit) := t.address w.idx
        putBits cur f a bit t.width w.code
      match w.scale with
      | some b => if t.hasScale && inRange t.sbuf (t.scaleAddr w.idx) 1 then tblSet f1 (t.scaleAddr w.idx) (BitVec.ofNat 8 b) else f1
      | none => f1) []

/-- The bands of an output ring that the passing writes form, in order: each whole band over what its place holds. -/
def formBands (s : State) (h : Nat) (t : Ten) (ws : List OutW) : List (List Byte) :=
  match t.ring with
  | none => []
  | some (rows, depth, bytes, dim) =>
    (List.range (ceilDiv (t.ext dim) rows)).map fun j =>
      let place := t.base + j % depth * bytes
      let mine := ws.filter fun w => w.slot == t.slot && (t.bandOf w.idx).2 == j
      let old := ((s.peek h place bytes).getD [])
      let f := mine.foldl (fun f w =>
        let (a, bit) := t.offset (t.bandOf w.idx).1
        putBits (fun i => old.getD i 0#8) f a bit t.width w.code) ([] : Form)
      (List.range bytes).map fun i => (tblFind f i).getD (old.getD i 0#8)

/-- Pack encodings of a width into bytes, lowest bits first. -/
def packCodes (w : Nat) (cs : List Nat) : List Byte :=
  let n := cs.foldr (fun c acc => c % 2 ^ w + acc * 2 ^ w) 0
  leBytes ((cs.length * w + 7) / 8) n

/-- The blocks of a result in order (R440): each the encodings it stores, in logical order. -/
def resultBlocks (smp : Sampling) (ts : List Ten) (ws : List OutW) : List (List Byte) :=
  let outs := ts.filter fun t => 8 ≤ t.slot
  match smp with
  | .none => []
  | .rows => outs.flatMap fun t =>
      let rows := allIdx ([1, 2, 3, 4, 5].map t.ext)
      (List.range (ceilDiv rows.length 64)).map fun b =>
        let mine := (rows.drop (64 * b)).take 64
        packCodes t.width ((ws.filter fun w => w.slot == t.slot && mine.contains (w.idx.drop 1)).map (·.code))
  | .tiles => outs.flatMap fun t =>
      let x := if t.ndim = 3 then 1 else 0
      (List.range (ceilDiv (t.ext (x + 1)) 64)).flatMap fun ty => (List.range (ceilDiv (t.ext x) 64)).map fun tx =>
        packCodes t.width ((ws.filter fun w => w.slot == t.slot && w.idx.getD x 0 / 64 == tx && w.idx.getD (x + 1) 0 / 64 == ty).map (·.code))

/-- Hand the sampled blocks of a pipeline task to its checker (R440, R441). -/
def sampleBlocks (t : Nat) (k : Task) (every : Bool) (blocks : List (List Byte)) : M Unit := do
  let s ← getS
  match s.pipeOfTask k with
  | none => pure ()
  | some (p, n) =>
    let e := k.engine
    let chk := if e < 0x20 then 0x20 + partOf e else 0x2E
    let m := 2 ^ s.fld (Reg.safePipeChk p) Fld.safePipeChkSampleLog2
    let bs : List Block := (List.range blocks.length).filterMap fun i =>
      if every || dCheckEvery k.desc || (i + n) % m == 0 then some ⟨t, i, e, chk, crc32c (blocks.getD i [])⟩ else none
    modPipe p fun x => { x with insts := x.insts.map fun i => if i.num = n then { i with blocks := i.blocks ++ bs } else i }

/-- The sealed Hall buffer record of an operand that is no ring, with the copy it uses (R438). -/
def State.sealOf (s : State) (k : Task) (t : Ten) : Option (HallBuf × Nat) :=
  match s.hallOf k.handle (tdBase t.td) with
  | some (rec, c) => (match tblFind s.hall.bufs rec with
    | some b => if b.sealed && !b.ring then
        some (b, b.copy c (match k.origin with | .inst _ _ n => n | _ => 0)) else none
    | none => none)
  | none => none

/-- Layout tiles in one copy of an operand (R438). -/
def tilesPerCopy (d : List Byte) : Nat := tilesPerSt d * (List.range 6).foldl (fun n k => n * tdGrid d k) 1

/-- Check the seals of the layout tiles a task reads in full (R439): a mismatch is a fault of kind 1. -/
def checkSeals (k : Task) (ts : List Ten) (units : List Nat) : M Unit := do
  for t in ts do
    let s ← getS
    match (if t.slot < 8 then s.sealOf k t else none) with
    | none => pure ()
    | some (b, c) =>
      let n := tdTileBytes t.td
      for i in List.range (tilesPerCopy t.td) do
        let a := t.base + i * n
        if (List.range (n / 64)).all fun j => units.contains (a / 64 + j) then
          let s ← getS
          let got := crc32c ((s.peek k.handle a n).getD [])
          let side := b.sealBase + 4 * (c * tilesPerCopy t.td + i)
          if leNat ((s.peek k.handle side 4).getD []) ≠ got then taskFault k 1 i got

/-- Write the seals of the layout tiles a task has written (R439). -/
def writeSeals (k : Task) (ts : List Ten) (f : Form) : M Unit := do
  for t in ts do
    let s ← getS
    match (if 8 ≤ t.slot then s.sealOf k t else none) with
    | none => pure ()
    | some (b, c) =>
      let n := tdTileBytes t.td
      for i in List.range (tilesPerCopy t.td) do
        let a := t.base + i * n
        if f.any fun x => a ≤ x.1 && x.1 < a + n then
          let s ← getS
          let crc := crc32c ((s.peek k.handle a n).getD [])
          let _ ← ctxWrite k.engine k.handle (b.sealBase + 4 * (c * tilesPerCopy t.td + i)) (leBytes 4 crc)

/-- What an operation reports beside its elements: occurrences by (slot, code), 0xFF for no slot, and reads counted beside its
tensors' own. -/
abbrev Notes := List (Nat × Nat × Nat) × Nat

/-- Run an operation (R88, R97, R178–R183, R207, R231, R245): its reads, then its writes judged one by one, its counts, its sampled
blocks, and what `post` does with the number of elements written. An error response is a fault in mid-stream. Outputs behind slot 11
(R308) report without a slot. -/
def runPlanWith (t : Nat) (smp : Sampling) (every : Bool) (plan : State → List Ten → Plan) (notes : State → List Ten → Notes)
    (post : List OutW → M Unit) : M Unit := do
  let s ← getS
  match s.task t with
  | none => pure ()
  | some k => do
    let ts := s.operands k
    let units := readUnits ts (plan s ts)
    match ← touch k.engine k.handle units with
    | some x => opFault t x
    | none => do
      checkSeals k ts units
      let s ← getS
      let p := plan s ts
      let more := notes s ts
      let judged := p.writes.map fun w => (w, ((tenAt ts w.slot).map fun o => o.writeTest w.idx).getD (some 1))
      let good := (judged.filter fun j => j.2.isNone).map (·.1)
      let form := formMem s k.handle ts good
      match ← writeRuns k.engine k.handle (formRuns form) with
      | some x => opFault t x
      | none => do
        writeSeals k ts form
        let slots := ts.map (·.slot)
        let readCounts := slots.filterMap fun sl =>
          let n := (fillCounts ts p sl).1
          if sl < 8 ∧ n ≠ 0 then some (sl, 0x2001, n) else none
        let lost : Nat → Nat := fun sl => match tenAt ts sl with
          | some o => ((good.filter fun w => w.slot == sl && w.scale.isSome && !inRange o.sbuf (o.scaleAddr w.idx) 1).map
              fun w => o.scaleAddr w.idx).dedup.length
          | none => 0
        let dropped : List Nat → Nat := fun sls => sls.foldl (fun n sl =>
          n + (judged.filter fun j => j.1.slot == sl && (j.2 == some 1 || j.2 == some 3)).length + lost sl) 0
        let padding : List Nat → Nat := fun sls => (judged.filter fun j => sls.contains j.1.slot && j.2 == some 2).length
        let groups := ((slots.filter (· < 12)).map fun sl => (sl, [sl])) ++ [(0xFF, slots.filter (12 ≤ ·))]
        let writeCounts := (groups.flatMap fun g => [(g.1, 0x2002, dropped g.2), (g.1, 0x2003, padding g.2)]).filter fun c => c.2.2 != 0
        let reads := slots.foldl (fun n sl => n + (fillCounts ts p sl).1 + (fillCounts ts p sl).2) 0
        let bands := (ts.filter fun o => 8 ≤ o.slot && o.ring.isSome).flatMap fun o => (formBands s k.handle o good).map fun b => (o.slot, b)
        if k.engine < 0x20 then
          bump (Reg.ttTmemSat k.engine) Fld.ttTmemSatCount (p.writes.filter (·.sat)).length
        modTask t fun x => { x with
          done := true
          oobReads := x.oobReads + reads + more.2
          oobWrites := x.oobWrites + writeCounts.foldl (fun n c => n + c.2.2) 0
          counts := x.counts ++ readCounts ++ writeCounts ++ more.1.filter fun c => c.2.2 != 0
          ringOut := x.ringOut ++ bands }
        sampleBlocks t k every (resultBlocks smp ts p.writes)
        post good

/-- Run an operation that reports nothing beside its elements. -/
def runPlan (t : Nat) (smp : Sampling) (every : Bool) (plan : State → List Ten → Plan) : M Unit :=
  runPlanWith t smp every plan (fun _ _ => ([], 0)) fun _ => pure ()

/-- The bands a ring input has in all (R364). -/
def Ten.bandCount (t : Ten) : Nat :=
  match t.ring with
  | some (rows, _, _, dim) => ceilDiv (t.ext dim) rows
  | none => 0

/-- Whether every ring input of a task has been used to its end (R243, R365): all its bands, or all that an ended producer
filled. -/
def State.ringsUsed (s : State) (k : Task) : Bool :=
  k.rings.all fun (sl, key) =>
    8 ≤ sl || (match s.operand k sl with
      | none => true
      | some t =>
        let r := s.ring key
        t.bandCount ≤ t.bands.length || (r.ended && r.fill ≤ t.bands.length))

/-- The task an engine runs, where it carries an opcode, has its descriptors and inputs, and has not yet formed its result. -/
def State.opTask (s : State) (e op : Nat) : Option Nat :=
  (s.engine e).running.filter fun t => match s.task t with
    | some k => dOpcode k.desc == op && k.fetched && !k.done && k.life == .running && s.ringsUsed k
    | none => false

/-- An operation on the running task of an engine. -/
def opCommand (e op : Nat) (m : Nat → M Unit) (s : State) : Host.Outcome State Fault Refusal :=
  whenEnabled (fun s => (s.opTask e op).isSome) (do
    let s ← getS
    match s.opTask e op with
    | some t => m t
    | none => pure ()) s

end Sys2Proof.Machine
end

