-- ==== Sys2Proof/Machine/TileOps.lean ====
section
/-! DEFINITION. The operations of families 0x01 to 0x04 on tensor tiles: what their descriptor sets must satisfy (R89, R187, R188,
R200, R202, R205, R208, R212) and what they compute (R65–R67, R200–R212, R551). -/

namespace Sys2Proof.Machine

open Sys2Proof

/-! ## Checks

A violation is (slot, byte offset); 0xFE is the parameter block (R89). -/

/-- Violations among some conditions. -/
def bad (l : List (Bool × Nat × Nat)) : List (Nat × Nat) := (l.filter (·.1)).map (·.2)

/-- The slot's data type is not one of those allowed: byte 6. -/
def wantType (t : Ten) (ok : Nat → Bool) : List (Nat × Nat) := bad [(!ok t.dt, t.slot, 6)]

/-- The slot's extent along a dimension differs from what is called for. -/
def wantExt (t : Ten) (k n : Nat) : List (Nat × Nat) := bad [(t.ext k != n, t.slot, 0x14 + 2 * k)]

/-- Extents called for in every dimension. -/
def wantExts (t : Ten) (f : Nat → Nat) : List (Nat × Nat) := (List.range 6).flatMap fun k => wantExt t k (f k)

/-- Batch dimensions (R212): extents equal across operands, or 1; the output has the largest. -/
def wantBatch (ins : List Ten) (out : Ten) (dims : List Nat) : List (Nat × Nat) :=
  dims.flatMap fun k =>
    let d := (ins ++ [out]).foldl (fun m t => max m (t.ext k)) 1
    (ins.flatMap fun t => bad [(t.ext k != 1 && t.ext k != d, t.slot, 0x14 + 2 * k)]) ++ wantExt out k d

/-- Bytes of a parameter block that must be 0 (R8): ranges (first, length). -/
def wantZero (p : List Byte) (rs : List (Nat × Nat)) : List (Nat × Nat) :=
  rs.flatMap fun r => (List.range r.2).flatMap fun i => bad [(!allZero p (r.1 + i) 1, 0xFE, r.1 + i)]

/-- Real arithmetic types, and complex ones. -/
def isReal (dt : Nat) : Bool := isInt dt || isFp dt
def isArith (dt : Nat) : Bool := isReal dt || isCplx dt

/-- An output of an arithmetic operation: real or complex as its inputs are (R207). -/
def wantOut (o : Ten) (cplx : Bool) : List (Nat × Nat) := wantType o fun dt => if cplx then isCplx dt else isReal dt

/-- Fused activations and UNARY functions (R209, R212): reserved codes, real functions on complex, conj on real. -/
def actOk (code : Nat) (cplx : Bool) : Bool :=
  if cplx then code ≤ 5 || code == 0x10 else code ≤ 0x0F

/-! ## Paths (R200) -/

/-- The compute path of two multiplicands. -/
inductive Path where
  | int | fp | cint | cfp
  deriving DecidableEq, Repr

def multiplicand (dt : Nat) : Bool := (isInt dt && dt != 5) || isFp dt

def pathOf (a b : Ten) : Option Path :=
  if multiplicand a.dt && multiplicand b.dt then
    some (if isInt a.dt && isInt b.dt && !a.hasScale && !b.hasScale then .int else .fp)
  else if isCplx a.dt && isCplx b.dt then
    some (if isCint a.dt && isCint b.dt && !a.hasScale && !b.hasScale then .cint else .cfp)
  else none

def Path.cplx : Path → Bool
  | .cint => true
  | .cfp => true
  | _ => false

/-- Multiplicands that have no path (R200): the first whose type no path takes, else the second. -/
def wantPath (a b : Ten) : List (Nat × Nat) :=
  if (pathOf a b).isSome then []
  else if !(multiplicand a.dt || isCplx a.dt) then [(a.slot, 6)] else [(b.slot, 6)]

/-- The bias types of a path (R205). -/
def wantBias (p : Path) (b : Ten) : List (Nat × Nat) :=
  match p with
  | .int => wantType b isInt ++ bad [(b.hasScale, b.slot, 8)]
  | .fp => wantType b isReal
  | .cint => wantType b isCint ++ bad [(b.hasScale, b.slot, 8)]
  | .cfp => wantType b isCplx

/-- Checks of MATMUL and CMATMUL (R212): A (k, m), B (k, n), bias (n), C (n, m). -/
def checkMatmul (cplx : Bool) (ts : List Ten) : List (Nat × Nat) :=
  match tenAt ts 0, tenAt ts 1, tenAt ts 8 with
  | some a, some b, some c =>
    let bias := tenAt ts 2
    wantPath a b ++ (if cplx then wantType a isCplx ++ wantType b isCplx else [])
    ++ wantExt b 0 (a.ext 0) ++ wantExt c 0 (b.ext 1) ++ wantExt c 1 (a.ext 1)
    ++ wantBatch ([a, b] ++ bias.toList) c [2, 3, 4, 5]
    ++ wantOut c (isCplx a.dt)
    ++ (match bias with
        | some x => wantExt x 0 (b.ext 1) ++ wantExt x 1 1 ++ (match pathOf a b with | some p => wantBias p x | none => [])
        | none => [])
  | _, _, _ => []

/-- The parameters of a convolution (R212). -/
structure Conv where
  sx : Nat
  sy : Nat
  dx : Nat
  dy : Nat
  groups : Nat
  ox : Int
  oy : Int
  act : Nat
  alpha : Fp
  beta : Fp

def convParams (depthwise : Bool) (p : List Byte) (cin : Nat) : Conv :=
  ⟨leAt p 0 1 + 1, leAt p 1 1 + 1, leAt p 2 1 + 1, leAt p 3 1 + 1, if depthwise then cin else leAt p 4 2 + 1,
   signed 16 (leAt p 8 2), signed 16 (leAt p 10 2), leAt p 12 1, ofBits32 (leAt p 16 4), ofBits32 (leAt p 20 4)⟩

/-- Checks of CONV2D, DWCONV2D and TCONV2D (R202, R212): input (c, x, y, b), weights (c / groups, kx, ky, co), bias (co), output
(co, x, y, b). -/
def checkConv (depthwise : Bool) (p : List Byte) (ts : List Ten) : List (Nat × Nat) :=
  match tenAt ts 0, tenAt ts 1, tenAt ts 8 with
  | some a, some w, some o =>
    let c := convParams depthwise p (a.ext 0)
    let bias := tenAt ts 2
    wantPath a w ++ wantExt w 0 (a.ext 0 / c.groups) ++ wantExt o 0 (w.ext 3) ++ wantExt o 3 (a.ext 3)
    ++ wantBatch ([a, w] ++ bias.toList) o [4, 5]
    ++ bad [(2 ^ 24 < w.ext 0 * w.ext 1 * w.ext 2, 1, 0x14)]
    ++ wantOut o (isCplx a.dt)
    ++ (match bias with
        | some x => wantExt x 0 (w.ext 3) ++ wantExt x 1 1 ++ wantExt x 2 1 ++ bad [(x.ext 3 != 1 && x.ext 3 != o.ext 3, 2, 0x1A)]
            ++ (match pathOf a w with | some q => wantBias q x | none => [])
        | none => [])
    ++ bad [(15 < leAt p 0 1, 0xFE, 0), (15 < leAt p 1 1, 0xFE, 1), (15 < leAt p 2 1, 0xFE, 2), (15 < leAt p 3 1, 0xFE, 3),
        (if depthwise then leAt p 4 2 != 0 else a.ext 0 % c.groups != 0, 0xFE, 4), (w.ext 3 % c.groups != 0, 0xFE, 4),
        (!actOk c.act (isCplx a.dt), 0xFE, 12)]
    ++ wantZero p [(6, 2), (13, 3), (24, 40)]
  | _, _, _ => []

/-- Whether two operands take one arithmetic together: both real, or both complex. -/
def sameField (a b : Ten) : List (Nat × Nat) :=
  wantType a isArith ++ bad [(isCplx a.dt != isCplx b.dt || !isArith b.dt, b.slot, 6)]

/-- Checks of ELTWISE (R212). -/
def checkEltwise (p : List Byte) (ts : List Ten) : List (Nat × Nat) :=
  match tenAt ts 0, tenAt ts 1, tenAt ts 8 with
  | some a, some b, some o =>
    sameField a b ++ wantBatch [a, b] o [0, 1, 2, 3, 4, 5] ++ wantOut o (isCplx a.dt)
    ++ bad [(4 < leAt p 0 1, 0xFE, 0), (isCplx a.dt && 3 ≤ leAt p 0 1, 0xFE, 0), (!actOk (leAt p 12 1) (isCplx a.dt), 0xFE, 12)]
    ++ wantZero p [(1, 11), (13, 3), (24, 40)]
  | _, _, _ => []

/-- Checks of UNARY (R209, R212). -/
def checkUnary (p : List Byte) (ts : List Ten) : List (Nat × Nat) :=
  match tenAt ts 0, tenAt ts 8 with
  | some a, some o =>
    wantType a isArith ++ wantExts o a.ext ++ wantOut o (isCplx a.dt)
    ++ bad [(!actOk (leAt p 0 1) (isCplx a.dt), 0xFE, 0)] ++ wantZero p [(1, 3), (12, 52)]
  | _, _ => []

/-- Extents of a scale array (R175). -/
def scaleExt (t : Ten) (k : Nat) : Nat := if k = tdScaleDim t.td then ceilDiv (t.ext k) (blkSize (tdScaleBlk t.td)) else t.ext k

/-- Checks of QUANTIZE (R187, R208). -/
def checkQuantize (p : List Byte) (ts : List Ten) : List (Nat × Nat) :=
  match tenAt ts 0, tenAt ts 8 with
  | some a, some o =>
    let mode := leAt p 0 1
    sameField a o ++ wantExts o a.ext ++ bad [(!o.hasScale, 8, 8)]
    ++ (match tenAt ts 1 with
        | some sc => (if mode = 0 then wantType sc (fun dt => dt == (if tdScaleFmt o.td = 0 then 0x18 else 0x19)) ++ wantExts sc (scaleExt o)
            else [])
        | none => [])
    ++ bad [(1 < mode, 0xFE, 0), (mode == 0 && (tenAt ts 1).isNone, 0xFE, 0), (mode == 1 && (tenAt ts 1).isSome, 0xFE, 0)]
    ++ wantZero p [(1, 63)]
  | _, _ => []

/-- Checks of DEQUANTIZE (R208). -/
def checkDequantize (p : List Byte) (ts : List Ten) : List (Nat × Nat) :=
  match tenAt ts 0, tenAt ts 8 with
  | some a, some o => sameField a o ++ wantExts o a.ext ++ wantZero p [(0, 64)]
  | _, _ => []

/-- Checks of REDUCE (R212). -/
def checkReduce (p : List Byte) (ts : List Ten) : List (Nat × Nat) :=
  match tenAt ts 0, tenAt ts 8 with
  | some a, some o =>
    let mask := leAt p 1 1
    let n := (List.range 6).foldl (fun n k => if bitAt mask k then n * a.ext k else n) 1
    wantType a isArith ++ bad [(2 ^ 24 < n, 0, 0x14), (o.ndim != a.ndim, 8, 7)]
    ++ wantExts o (fun k => if bitAt mask k then 1 else a.ext k) ++ wantOut o (isCplx a.dt)
    ++ bad [(3 < leAt p 0 1, 0xFE, 0), (isCplx a.dt && 2 ≤ leAt p 0 1, 0xFE, 0), (63 < mask, 0xFE, 1)] ++ wantZero p [(2, 62)]
  | _, _ => []

/-- Checks of SOFTMAX (R212). -/
def checkSoftmax (p : List Byte) (ts : List Ten) : List (Nat × Nat) :=
  match tenAt ts 0, tenAt ts 8 with
  | some a, some o =>
    wantType a isReal ++ wantExts o a.ext ++ wantOut o false ++ bad [(5 < leAt p 0 1, 0xFE, 0)] ++ wantZero p [(1, 63)]
  | _, _ => []

/-- Checks of LAYERNORM and RMSNORM (R212); slots 1 and 2 are γ and β. -/
def checkNorm (p : List Byte) (ts : List Ten) : List (Nat × Nat) :=
  match tenAt ts 0, tenAt ts 8 with
  | some a, some o =>
    let mask := leAt p 1 1
    wantType a isReal ++ wantExts o a.ext ++ wantOut o false
    ++ ([1, 2].flatMap fun n => match tenAt ts n with
        | some g => wantType g isReal ++ (List.range 6).flatMap fun k =>
            bad [(if bitAt mask k then g.ext k != a.ext k else g.ext k != 1 && g.ext k != a.ext k, n, 0x14 + 2 * k)]
        | none => [])
    ++ bad [(63 < mask, 0xFE, 1)] ++ wantZero p [(0, 1), (2, 2), (8, 56)]
  | _, _ => []

/-- Checks of ARGMAX: INT32, extent 1 along its dimension. -/
def checkArgmax (p : List Byte) (ts : List Ten) : List (Nat × Nat) :=
  match tenAt ts 0, tenAt ts 8 with
  | some a, some o =>
    wantType a isReal ++ wantExts o (fun k => if k = leAt p 0 1 then 1 else a.ext k) ++ wantType o (· == 5)
    ++ bad [(5 < leAt p 0 1, 0xFE, 0)] ++ wantZero p [(1, 63)]
  | _, _ => []

/-- Checks of TOPK: values and INT32 indices with k entries along the dimension. -/
def checkTopk (p : List Byte) (ts : List Ten) : List (Nat × Nat) :=
  match tenAt ts 0, tenAt ts 8, tenAt ts 9 with
  | some a, some v, some x =>
    let n := leAt p 4 2 + 1
    let f := fun k => if k = leAt p 0 1 then n else a.ext k
    wantType a isReal ++ wantExts v f ++ wantOut v false ++ wantExts x f ++ wantType x (· == 5)
    ++ bad [(5 < leAt p 0 1, 0xFE, 0), (a.ext (leAt p 0 1) < n, 0xFE, 4)] ++ wantZero p [(1, 3), (6, 58)]
  | _, _, _ => []

/-- Checks of ATTENTION (R212). -/
def checkAttention (p : List Byte) (ts : List Ten) : List (Nat × Nat) :=
  match tenAt ts 0, tenAt ts 1, tenAt ts 2, tenAt ts 8 with
  | some q, some k, some v, some o =>
    let mask := tenAt ts 3
    wantType q isReal ++ wantType k isReal ++ wantType v isReal
    ++ wantExt k 0 (q.ext 0) ++ wantExt v 0 (q.ext 0) ++ wantExt o 0 (q.ext 0) ++ wantExt v 1 (k.ext 1) ++ wantExt o 1 (q.ext 1)
    ++ ([2, 3].flatMap fun d => wantExt k d (q.ext d) ++ wantExt v d (q.ext d) ++ wantExt o d (q.ext d))
    ++ wantBatch [q, k, v] o [4, 5] ++ wantOut o false
    ++ (match mask with
        | some m => wantType m (· == 0x0F) ++ wantExt m 0 (k.ext 1) ++ wantExt m 1 (q.ext 1)
            ++ [2, 3, 4, 5].flatMap fun d => bad [(m.ext d != 1 && m.ext d != o.ext d, 3, 0x14 + 2 * d)]
        | none => [])
    ++ bad [(1 < leAt p 4 1, 0xFE, 4)] ++ wantZero p [(5, 59)]
  | _, _, _, _ => []

/-- Checks of GATHER (R212): table, index, out. -/
def checkGather (p : List Byte) (ts : List Ten) : List (Nat × Nat) :=
  match tenAt ts 0, tenAt ts 1, tenAt ts 8 with
  | some a, some x, some o =>
    let ax := leAt p 0 1
    sameField a o ++ wantType x (· == 5) ++ wantExt o ax (x.ext ax)
    ++ wantBatch [a, x] o ((List.range 6).filter (· ≠ ax)) ++ bad [(5 < ax, 0xFE, 0)] ++ wantZero p [(1, 63)]
  | _, _, _ => []

/-- Checks of SCATTER (R212): base, index, values, out. -/
def checkScatter (p : List Byte) (ts : List Ten) : List (Nat × Nat) :=
  match tenAt ts 0, tenAt ts 1, tenAt ts 2, tenAt ts 8 with
  | some a, some x, some v, some o =>
    let ax := leAt p 0 1
    sameField a v ++ sameField a o ++ wantType x (· == 5) ++ wantExts o a.ext ++ wantExt v ax (x.ext ax)
    ++ ((List.range 6).filter (· ≠ ax)).flatMap (fun k =>
      bad [(x.ext k != 1 && x.ext k != a.ext k, 1, 0x14 + 2 * k), (v.ext k != 1 && v.ext k != a.ext k, 2, 0x14 + 2 * k)])
    ++ bad [(5 < ax, 0xFE, 0)] ++ wantZero p [(1, 63)]
  | _, _, _, _ => []

/-- Experts, capacity and choices per token (R212). -/
def routeParams (p : List Byte) : Nat × Nat × Nat := (leAt p 0 2 + 1, leAt p 2 2 + 1, leAt p 4 1 + 1)

/-- Checks of ROUTE_GATHER: tokens (c, token), index (choice, token), out (c, place, expert). -/
def checkRouteGather (p : List Byte) (ts : List Ten) : List (Nat × Nat) :=
  match tenAt ts 0, tenAt ts 1, tenAt ts 8 with
  | some a, some x, some o =>
    let (e, c, k) := routeParams p
    sameField a o ++ wantType x (· == 5) ++ wantExt x 0 k ++ wantExt x 1 (a.ext 1)
    ++ wantExt o 0 (a.ext 0) ++ wantExt o 1 c ++ wantExt o 2 e
    ++ [2, 3, 4, 5].flatMap (fun d => wantExt a d 1 ++ wantExt x d 1) ++ [3, 4, 5].flatMap (fun d => wantExt o d 1)
    ++ bad [(7 < leAt p 4 1, 0xFE, 4)] ++ wantZero p [(5, 59)]
  | _, _, _ => []

/-- Checks of ROUTE_COMBINE: expert outputs (c, place, expert), index (choice, token), weights (choice, token), out (c, token). -/
def checkRouteCombine (p : List Byte) (ts : List Ten) : List (Nat × Nat) :=
  match tenAt ts 0, tenAt ts 1, tenAt ts 2, tenAt ts 8 with
  | some a, some x, some w, some o =>
    let (e, c, k) := routeParams p
    wantType a isReal ++ wantType x (· == 5) ++ wantType w isReal ++ wantOut o false
    ++ wantExt a 1 c ++ wantExt a 2 e ++ wantExt x 0 k ++ wantExt w 0 k ++ wantExt w 1 (x.ext 1)
    ++ wantExt o 0 (a.ext 0) ++ wantExt o 1 (x.ext 1)
    ++ [2, 3, 4, 5].flatMap (fun d => wantExt x d 1 ++ wantExt w d 1 ++ wantExt o d 1) ++ [3, 4, 5].flatMap (fun d => wantExt a d 1)
    ++ bad [(7 < leAt p 4 1, 0xFE, 4)] ++ wantZero p [(5, 59)]
  | _, _, _, _ => []

/-- Same dtype and scale settings (R187, R551). -/
def sameStored (a b : Ten) : Bool :=
  a.dt == b.dt && a.hasScale == b.hasScale
    && (!a.hasScale || (tdScaleFmt a.td == tdScaleFmt b.td && tdScaleBlk a.td == tdScaleBlk b.td && tdScaleDim a.td == tdScaleDim b.td))

/-- Checks of COPY (R187, R188): a scale array only from the same settings, RAW to RAW or to the five types. -/
def checkCopy (ts : List Ten) : List (Nat × Nat) :=
  match tenAt ts 0, tenAt ts 8 with
  | some a, some o =>
    bad [(isRaw o.dt && !isRaw a.dt, 8, 6), (isRaw a.dt && !isRaw o.dt && !(([0x03, 0x04, 0x05, 0x0D, 0x0F] : List Nat).contains o.dt), 8, 6),
      (o.hasScale && !sameStored a o, 8, 8), ((isScaleType a.dt || isScaleType o.dt) && a.dt != o.dt, 8, 6)]
  | _, _ => []

/-! ## Element arithmetic -/

def Num.fpOf (e : Option Num) : Fp := (e.map Num.toFp).getD f32Zero
def Num.intOf (e : Option Num) : Int := (e.map Num.toInt).getD 0

/-- A product on a path (R204–R206). -/
def mulElt (p : Path) (x y : Elt) : Elt :=
  match p with
  | .int => ⟨.int (x.int * y.int), none⟩
  | .fp => ⟨.fp (fMul x.fp y.fp), none⟩
  | .cint =>
    let a := x.int; let b := Num.intOf x.im; let c := y.int; let d := Num.intOf y.im
    ⟨.int (a * c - b * d), some (.int (a * d + b * c))⟩
  | .cfp =>
    let a := x.fp; let b := Num.fpOf x.im; let c := y.fp; let d := Num.fpOf y.im
    ⟨.fp (fAdd (fMul a c) (fNeg (fMul b d))), some (.fp (fAdd (fMul a d) (fMul b c)))⟩

/-- Addition of components: exact where both are integers. -/
def Num.add : Num → Num → Num
  | .int a, .int b => .int (a + b)
  | a, b => .fp (fAdd a.toFp b.toFp)

def addElt (x y : Elt) : Elt :=
  ⟨x.re.add y.re, match x.im, y.im with
    | some a, some b => some (a.add b)
    | some a, none => some a
    | none, b => b⟩

/-- The zero of a path. -/
def Path.zero : Path → Elt
  | .int => ⟨.int 0, none⟩
  | .fp => ⟨.fp f32Zero, none⟩
  | .cint => ⟨.int 0, some (.int 0)⟩
  | .cfp => ⟨.fp f32Zero, some (.fp f32Zero)⟩

/-- A bias as loaded on a path: exact on the integer paths, FP32 on the floating ones (R205). -/
def Path.bias (p : Path) (e : Elt) : Elt :=
  match p with
  | .int => e
  | .cint => e
  | _ => ⟨.fp e.re.toFp, e.im.map fun x => .fp x.toFp⟩

/-- The exact product of an integer and a finite FP32 value, rounded to the nearest integer (R209). -/
def mulRound (i : Int) : Fp → Num
  | .fin neg m e => .int ((Fp.toInt (.fin (xor neg (i < 0)) (i.natAbs * m) e)).getD 0)
  | .inf neg => if i = 0 then .int 0 else .fp (.inf (xor neg (i < 0)))
  | .nan => .int 0

/-- Comparison of an integer with an FP32 value that is not NaN. -/
def intBelow (i : Int) (v : Fp) : Bool := fLt (.fin (i < 0) i.natAbs 0) v && !(i == 0 && v.isZero)
def intAbove (i : Int) (v : Fp) : Bool := fLt v (.fin (i < 0) i.natAbs 0) && !(i == 0 && v.isZero)

/-- A bound that clamp selects, rounded to the nearest integer. -/
def boundNum (v : Fp) : Num :=
  match v.toInt with
  | some i => .int i
  | none => .fp v

/-- The functions of R209 on a component: exact for codes 0 to 5 on integers, else on FP32. -/
def numFunction (code : Nat) (alpha beta : Fp) (x : Num) : Num :=
  match x with
  | .int i =>
    (match code with
    | 0 => .int i
    | 1 => .int (if 0 < i then i else 0)
    | 2 => if 0 < i then .int i else mulRound i alpha
    | 3 => if alpha.isNan || beta.isNan then .int 0
      else
        let lifted := intBelow i alpha
        let above := if lifted then fLt beta alpha else intAbove i beta
        if above then boundNum beta else if lifted then boundNum alpha else .int i
    | 4 => .int i.natAbs
    | 5 => .int (-i)
    | 0x10 => .int i
    | c => .fp (fFunction c alpha beta (ofInt i)))
  | .fp v => .fp (fFunction code alpha beta v)

/-- A function on an element; conj negates the imaginary component, the others act on each component. -/
def eltFunction (code : Nat) (alpha beta : Fp) (e : Elt) : Elt :=
  if code = 0x10 then ⟨e.re, e.im.map fun x => numFunction 5 alpha beta x⟩
  else ⟨numFunction code alpha beta e.re, e.im.map fun x => numFunction code alpha beta x⟩

/-- The value written at an index of an output (R207). -/
def outE (o : Ten) (i : List Nat) (e : Elt) : OutW :=
  let c := storeElt o.dt e
  ⟨o.slot, i, c.1, c.2, none⟩

/-! ## Plans -/

/-- An index with 0 along dimensions where an operand has extent 1 (broadcast, R212). -/
def bcast (t : Ten) (i : List Nat) : List Int :=
  (List.range 6).map fun k => if t.ext k = 1 then 0 else ((i.getD k 0 : Nat) : Int)

/-- One output element as a dot product: the pairs of reads it takes, in the order of the sum, and the bias read. -/
structure Dot where
  out : List Nat
  terms : List (List Int × List Int)
  bias : Option (List Int)

/-- A plan of dot products of slots 0 and 1 (R65, R204–R206). -/
def dotPlan (h act : Nat) (alpha beta : Fp) (dots : List Dot) (s : State) (ts : List Ten) : Plan :=
  match tenAt ts 0, tenAt ts 1, tenAt ts 8 with
  | some a, some b, some o =>
    let p := (pathOf a b).getD .fp
    let reads := dots.flatMap fun d => (d.terms.flatMap fun t => [(0, t.1), (1, t.2)])
      ++ (match d.bias with | some i => [(2, i)] | none => [])
    let value : Dot → Elt := fun d =>
      let sum := (orderedSum addElt (d.terms.map fun t => mulElt p (a.load s h t.1) (b.load s h t.2))).getD p.zero
      let biased := match d.bias, tenAt ts 2 with
        | some i, some x => addElt sum (p.bias (x.load s h i))
        | _, _ => sum
      eltFunction act alpha beta biased
    ⟨reads, [], dots.map fun d => outE o d.out (value d)⟩
  | _, _, _ => ⟨[], [], []⟩

/-- MATMUL and CMATMUL. -/
def matmulDots (ts : List Ten) : List Dot :=
  match tenAt ts 0, tenAt ts 1, tenAt ts 8 with
  | some a, some b, some o => o.indices.map fun i =>
      let n := i.getD 0 0
      let m := i.getD 1 0
      let tail := i.drop 2
      ⟨i, (List.range (a.ext 0)).map fun k => (bcast a (k :: m :: tail), bcast b (k :: n :: tail)),
        (tenAt ts 2).map fun x => bcast x (n :: 0 :: tail)⟩
  | _, _, _ => []

/-- CONV2D and DWCONV2D: K index c + Cg × (kx + KW × ky) (R212). -/
def convDots (c : Conv) (ts : List Ten) : List Dot :=
  match tenAt ts 0, tenAt ts 1, tenAt ts 8 with
  | some a, some w, some o => o.indices.map fun i =>
      let co := i.getD 0 0
      let cg := w.ext 0
      let g := co / (w.ext 3 / c.groups)
      let taps := allIdx [cg, w.ext 1, w.ext 2]
      let tail := i.drop 3
      ⟨i, taps.map fun t =>
          let x : Int := c.ox + (i.getD 1 0 * c.sx + t.getD 1 0 * c.dx : Nat)
          let y : Int := c.oy + (i.getD 2 0 * c.sy + t.getD 2 0 * c.dy : Nat)
          let z := bcast a (0 :: 0 :: 0 :: tail)
          ([((g * cg + t.getD 0 0 : Nat) : Int), x, y] ++ z.drop 3, bcast w (t ++ (co :: i.drop 4))),
        (tenAt ts 2).map fun x => bcast x (co :: 0 :: 0 :: tail)⟩
  | _, _, _ => []

/-- TCONV2D: terms with xi·sx + kx·dx = x − ox and yi·sy + ky·dy = y − oy (R212). -/
def tconvDots (c : Conv) (ts : List Ten) : List Dot :=
  match tenAt ts 0, tenAt ts 1, tenAt ts 8 with
  | some a, some w, some o => o.indices.map fun i =>
      let co := i.getD 0 0
      let cg := w.ext 0
      let g := co / (w.ext 3 / c.groups)
      let taps := allIdx [cg, w.ext 1, w.ext 2]
      let tail := i.drop 3
      let from_ : Int → Nat → Nat → Nat → Option Int := fun v d s n =>
        if (v - d) % (s : Int) = 0 ∧ 0 ≤ (v - d) / (s : Int) ∧ (v - d) / (s : Int) < (n : Int) then some ((v - d) / (s : Int)) else none
      ⟨i, taps.filterMap fun t =>
          match from_ ((i.getD 1 0 : Nat) - c.ox) (t.getD 1 0 * c.dx) c.sx (a.ext 1),
                from_ ((i.getD 2 0 : Nat) - c.oy) (t.getD 2 0 * c.dy) c.sy (a.ext 2) with
          | some x, some y =>
            some ([((g * cg + t.getD 0 0 : Nat) : Int), x, y] ++ (bcast a (0 :: 0 :: 0 :: tail)).drop 3, bcast w (t ++ (co :: i.drop 4)))
          | _, _ => none,
        (tenAt ts 2).map fun x => bcast x (co :: 0 :: 0 :: tail)⟩
  | _, _, _ => []

/-- Elementwise operation on components (R210, R211). -/
def numBinary (op : Nat) (a b : Num) : Num :=
  match a, b with
  | .int x, .int y => .int (match op with
    | 0 => x + y
    | 1 => x - y
    | 2 => x * y
    | 3 => max x y
    | _ => min x y)
  | a, b =>
    let x := a.toFp
    let y := b.toFp
    .fp (match op with
    | 0 => fAdd x y
    | 1 => fSub x y
    | 2 => fMul x y
    | 3 => fMax x y
    | _ => fMin x y)

/-- ELTWISE (R211): components one by one; a complex product by R206. -/
def eltBinary (op : Nat) (a b : Elt) : Elt :=
  match a.im, b.im with
  | some x, some y =>
    if op = 2 then
      (match a.re, x, b.re, y with
      | .int _, .int _, .int _, .int _ => mulElt .cint a b
      | _, _, _, _ => mulElt .cfp a b)
    else ⟨numBinary op a.re b.re, some (numBinary op x y)⟩
  | _, _ => ⟨numBinary op a.re b.re, none⟩

def eltwisePlan (h : Nat) (p : List Byte) (s : State) (ts : List Ten) : Plan :=
  match tenAt ts 0, tenAt ts 1, tenAt ts 8 with
  | some a, some b, some o =>
    let f := eltFunction (leAt p 12 1) (ofBits32 (leAt p 16 4)) (ofBits32 (leAt p 20 4))
    ⟨o.indices.flatMap fun i => [(0, bcast a i), (1, bcast b i)], [],
     o.indices.map fun i => outE o i (f (eltBinary (leAt p 0 1) (a.load s h (bcast a i)) (b.load s h (bcast b i))))⟩
  | _, _, _ => ⟨[], [], []⟩

def unaryPlan (h : Nat) (p : List Byte) (s : State) (ts : List Ten) : Plan :=
  match tenAt ts 0, tenAt ts 8 with
  | some a, some o =>
    let f := eltFunction (leAt p 0 1) (ofBits32 (leAt p 4 4)) (ofBits32 (leAt p 8 4))
    ⟨o.indices.map fun i => (0, toInts i), [], o.indices.map fun i => outE o i (f (a.load s h (toInts i)))⟩
  | _, _ => ⟨[], [], []⟩

/-- DEQUANTIZE: a load and a store (R208). -/
def dequantizePlan (h : Nat) (s : State) (ts : List Ten) : Plan :=
  match tenAt ts 0, tenAt ts 8 with
  | some a, some o =>
    ⟨o.indices.map fun i => (0, toInts i), [], o.indices.map fun i => outE o i (a.load s h (toInts i))⟩
  | _, _ => ⟨[], [], []⟩

/-! ### QUANTIZE (R208) -/

/-- The components of an element as FP32. -/
def Elt.parts (e : Elt) : List Fp := e.re.toFp :: (e.im.map Num.toFp).toList

/-- The exponent of the leading bit of a finite magnitude. -/
def Fp.lead : Fp → Option Int
  | .fin _ m e => if m = 0 then none else some ((Nat.log2 m : Int) + e)
  | _ => none

/-- emax of R208. -/
def quantEmax (dt : Nat) : Int := if dt = 8 ∨ dt = 9 then 2 else if dt = 0x0A then 4 else if dt = 0x0B then 8 else 15

/-- The largest magnitude of some finite values. -/
def largest (xs : List Fp) : Fp := xs.foldl (fun m x => match x with
  | .fin _ _ _ => fMax m (fAbs x)
  | _ => m) f32Zero

/-- Whether a magnitude divided by 2^s is at most P. -/
def fitsAt (x : Fp) (s : Int) (p : Nat) : Bool :=
  match x with
  | .fin _ m e => if e - s < 0 then m ≤ p * 2 ^ (s - e).toNat else m * 2 ^ (e - s).toNat ≤ p
  | _ => false

/-- The computed scale byte of a block (R208), from its components. -/
def computedScale (dt : Nat) (xs : List Fp) : Nat :=
  let infs := xs.any fun x => match x with | .inf _ => true | _ => false
  if (scaleRule dt).2 = 0 then
    if xs.any Fp.isNan || (infs && dt != 0x0C) then 0xFF
    else match (largest xs).lead with
      | none => 127
      | some l => (min (max (l - quantEmax dt + 127) 0) 254).toNat
  else
    let p := if dt = 1 then 7 else if dt = 2 ∨ dt = 0x10 then 127 else 32767
    match (largest xs).lead with
    | none => 0
    | some _ =>
      let x := largest xs
      unsigned 8 (((List.range 256).map fun (i : Nat) => (i : Int) - 128).find? (fun s => fitsAt x s p) |>.getD 127)

/-- One component stored as x / scale (R208): in one FP32 rounding, then to the type; block byte 0xFF stores 0, or NaN where the type
has one. -/
def quantComp (dt w byte : Nat) (given : Bool) (x : Fp) : Nat × Bool :=
  let sf := (scaleRule dt).2
  if sf = 0 ∧ byte = 0xFF then (if given then storeComp dt w (.fp .nan) else (0, false))
  else
    let k : Int := if sf = 0 then (byte : Int) - 127 else signed 8 byte
    match x with
    | .fin neg m e => storeComp dt w (.fp (round32 neg m (e - k) false))
    | v => storeComp dt w (.fp v)

/-- The indices of a block (R173). -/
def sameBlock (o : Ten) (i : List Nat) : List (List Nat) :=
  let d := tdScaleDim o.td
  let b := blkSize (tdScaleBlk o.td)
  let j := i.getD d 0 / b
  ((List.range b).filter fun x => j * b + x < o.ext d).map fun x => i.set d (j * b + x)

/-- The index of a scale in a tensor of scales (R175). -/
def scaleIdx (o : Ten) (i : List Nat) : List Nat := i.set (tdScaleDim o.td) (i.getD (tdScaleDim o.td) 0 / blkSize (tdScaleBlk o.td))

def quantizePlan (h : Nat) (p : List Byte) (s : State) (ts : List Ten) : Plan :=
  match tenAt ts 0, tenAt ts 8 with
  | some a, some o =>
    let given := leAt p 0 1 = 0
    let w := if o.dt = 0x10 then 8 else if o.dt = 0x11 then 16 else o.width
    let byte : List Nat → Nat := fun i =>
      match (if given then tenAt ts 1 else none) with
      | some sc => sc.code s h (toInts (scaleIdx o i))
      | none => computedScale o.dt ((sameBlock o i).flatMap fun j => (a.load s h (toInts j)).parts)
    let scaleReads := if given then o.indices.map fun i => (1, toInts (scaleIdx o i)) else []
    ⟨(o.indices.map fun i => (0, toInts i)) ++ scaleReads.dedup, [],
     o.indices.map fun i =>
      let b := byte i
      let cs := (a.load s h (toInts i)).parts.map (quantComp o.dt w b given)
      ⟨8, i, cs.foldr (fun c n => c.1 + n * 2 ^ w) 0, cs.any (·.2), some b⟩⟩
  | _, _ => ⟨[], [], []⟩

/-! ### Reductions and norms (R211) -/

/-- The indices over which an output element reduces, the masked dimensions flattened (R67). -/
def reduceIdx (a : Ten) (mask : Nat) (i : List Nat) : List (List Nat) :=
  (allIdx ((List.range 6).map fun k => if bitAt mask k then a.ext k else 1)).map fun j =>
    (List.range 6).map fun k => if bitAt mask k then j.getD k 0 else i.getD k 0

/-- round(S ÷ n), or the exact quotient rounded to the nearest integer. -/
def meanNum (x : Num) (n : Nat) : Num :=
  match x with
  | .int i =>
    let q := i.natAbs / n
    let r := i.natAbs % n
    let q' := if n < 2 * r || (2 * r == n && q % 2 == 1) then q + 1 else q
    .int (if i < 0 then -(q' : Int) else q')
  | .fp v => .fp (fDiv v (ofInt n))

def reduceElt (op : Nat) (xs : List Elt) : Elt :=
  match op with
  | 0 => (orderedSum addElt xs).getD ⟨.int 0, none⟩
  | 1 =>
    let t := (orderedSum addElt xs).getD ⟨.int 0, none⟩
    ⟨meanNum t.re xs.length, t.im.map fun y => meanNum y xs.length⟩
  | _ => match xs with
    | [] => ⟨.int 0, none⟩
    | x :: rest => rest.foldl (eltBinary (if op = 2 then 3 else 4)) x

def reducePlan (h : Nat) (p : List Byte) (s : State) (ts : List Ten) : Plan :=
  match tenAt ts 0, tenAt ts 8 with
  | some a, some o =>
    let m := leAt p 1 1
    ⟨o.indices.flatMap fun i => (reduceIdx a m i).map fun j => (0, toInts j), [],
     o.indices.map fun i => outE o i (reduceElt (leAt p 0 1) ((reduceIdx a m i).map fun j => a.load s h (toInts j)))⟩
  | _, _ => ⟨[], [], []⟩

/-- The maximum of some FP32 values. -/
def fMaxAll : List Fp → Fp
  | [] => .inf true
  | x :: t => t.foldl fMax x

/-- SOFTMAX of a list (R211). -/
def softmaxList (xs : List Fp) : List Fp :=
  let m := fMaxAll xs
  if m.isNan || m == .inf false || m == .inf true then xs.map fun _ => .nan
  else
    let es := xs.map fun x => crExp (fSub x m)
    let t := fSum es
    es.map fun e => fDiv e t

/-- A line along a dimension through an index. -/
def lineIdx (a : Ten) (d : Nat) (i : List Nat) : List (List Nat) := (List.range (a.ext d)).map fun j => i.set d j

def softmaxPlan (h : Nat) (p : List Byte) (s : State) (ts : List Ten) : Plan :=
  match tenAt ts 0, tenAt ts 8 with
  | some a, some o =>
    let d := leAt p 0 1
    ⟨o.indices.map fun i => (0, toInts i), [],
     o.indices.map fun i =>
      let ys := softmaxList ((lineIdx a d i).map fun j => (a.load s h (toInts j)).fp)
      outE o i (realElt (.fp (ys.getD (i.getD d 0) .nan)))⟩
  | _, _ => ⟨[], [], []⟩

/-- One element of LAYERNORM (`centred`) or RMSNORM (R211). -/
def normElt (centred : Bool) (eps : Fp) (xs : List Fp) (x : Fp) (gamma beta : Option Fp) : Fp :=
  let n := ofInt xs.length
  let mu := fDiv (fSum xs) n
  let d : Fp → Fp := fun x => if centred then fSub x mu else x
  let v := fDiv (fSum (xs.map fun x => fMul (d x) (d x))) n
  let r := crRsqrt (fAdd v eps)
  let y := fMul (d x) r
  let y := match gamma with | some g => fMul y g | none => y
  match beta with | some b => fAdd y b | none => y

def normPlan (centred : Bool) (h : Nat) (p : List Byte) (s : State) (ts : List Ten) : Plan :=
  match tenAt ts 0, tenAt ts 8 with
  | some a, some o =>
    let m := leAt p 1 1
    let side : Nat → List Nat → Option (List Int) := fun n i => (tenAt ts n).map fun g => bcast g i
    let sideVal : Nat → List Nat → Option Fp := fun n i => match tenAt ts n with
      | some g => some (g.load s h (bcast g i)).fp
      | none => none
    ⟨o.indices.flatMap fun i => (0, toInts i) :: ((side 1 i).map fun x => (1, x)).toList ++ ((side 2 i).map fun x => (2, x)).toList, [],
     o.indices.map fun i =>
      let xs := (reduceIdx a m i).map fun j => (a.load s h (toInts j)).fp
      outE o i (realElt (.fp (normElt centred (ofBits32 (leAt p 4 4)) xs (a.load s h (toInts i)).fp (sideVal 1 i) (sideVal 2 i))))⟩
  | _, _ => ⟨[], [], []⟩

/-- Order of ARGMAX and TOPK (R210): NaN above every number. -/
def ranksAbove (x y : Fp) : Bool :=
  if x.isNan then !y.isNan else if y.isNan then false else fLt y x

/-- The order of two components: exact for integers. -/
def numAbove (x y : Num) : Bool :=
  match x, y with
  | .int a, .int b => b < a
  | a, b => ranksAbove a.toFp b.toFp

/-- Place an index among others in descending value, ties in ascending index. -/
def insertRank (v : Nat → Num) (i : Nat) : List Nat → List Nat
  | [] => [i]
  | j :: t => if numAbove (v i) (v j) then i :: j :: t else j :: insertRank v i t

/-- Indices of a line in descending value. -/
def ranking (v : Nat → Num) (n : Nat) : List Nat := (List.range n).foldl (fun l i => insertRank v i l) []

def argmaxPlan (h : Nat) (p : List Byte) (s : State) (ts : List Ten) : Plan :=
  match tenAt ts 0, tenAt ts 8 with
  | some a, some o =>
    let d := leAt p 0 1
    ⟨a.indices.map fun i => (0, toInts i), [],
     o.indices.map fun i =>
      let r := ranking (fun j => (a.load s h (toInts (i.set d j))).re) (a.ext d)
      outE o i (realElt (.int (r.headD 0)))⟩
  | _, _ => ⟨[], [], []⟩

def topkPlan (h : Nat) (p : List Byte) (s : State) (ts : List Ten) : Plan :=
  match tenAt ts 0, tenAt ts 8, tenAt ts 9 with
  | some a, some o, some x =>
    let d := leAt p 0 1
    let pick : List Nat → Nat := fun i =>
      (ranking (fun j => (a.load s h (toInts (i.set d j))).re) (a.ext d)).getD (i.getD d 0) 0
    ⟨a.indices.map fun i => (0, toInts i), [],
     (o.indices.map fun i => outE o i (a.load s h (toInts (i.set d (pick i)))))
      ++ x.indices.map fun i => outE x i (realElt (.int (pick i)))⟩
  | _, _, _ => ⟨[], [], []⟩

/-! ### ATTENTION (R211) -/

def attentionPlan (h : Nat) (p : List Byte) (s : State) (ts : List Ten) : Plan :=
  match tenAt ts 0, tenAt ts 1, tenAt ts 2, tenAt ts 8 with
  | some q, some k, some v, some o =>
    let sigma := ofBits32 (leAt p 0 4)
    let causal := leAt p 4 1 = 1
    let keys := k.ext 1
    let feats := q.ext 0
    let row : List Nat → Nat → List Fp := fun i _ =>
      let tail := i.drop 2
      let qi := i.getD 1 0
      softmaxList ((List.range keys).map fun j =>
        let dot := fSum ((List.range feats).map fun f =>
          fMul (q.load s h (bcast q (f :: qi :: tail))).fp (k.load s h (bcast k (f :: j :: tail))).fp)
        let x := fMul dot sigma
        let x := match tenAt ts 3 with
          | some m => fAdd x (m.load s h (bcast m (j :: qi :: tail))).fp
          | none => x
        if causal && qi < j then .inf true else x)
    let heads := allIdx ((List.range 6).map fun d => if d = 0 then 1 else o.ext d)
    ⟨heads.flatMap fun i =>
        let tail := i.drop 2
        ((List.range feats).flatMap fun f => (0, bcast q (f :: i.getD 1 0 :: tail)) ::
          (List.range keys).flatMap fun j => [(1, bcast k (f :: j :: tail)), (2, bcast v (f :: j :: tail))])
        ++ (match tenAt ts 3 with
          | some m => (List.range keys).map fun j => (3, bcast m (j :: i.getD 1 0 :: tail))
          | none => []), [],
     heads.flatMap fun i =>
      let ps := row i 0
      (List.range feats).map fun f =>
        let y := fSum ((List.range keys).map fun j => fMul (ps.getD j .nan) (v.load s h (bcast v (f :: j :: i.drop 2))).fp)
        outE o (i.set 0 f) (realElt (.fp y))⟩
  | _, _, _, _ => ⟨[], [], []⟩

/-! ### GATHER, SCATTER, routing (R212) -/

def gatherPlan (h : Nat) (p : List Byte) (s : State) (ts : List Ten) : Plan :=
  match tenAt ts 0, tenAt ts 1, tenAt ts 8 with
  | some a, some x, some o =>
    let ax := leAt p 0 1
    let src : List Nat → List Int := fun i => (bcast a i).set ax (x.load s h ((bcast x i).set ax ((i.getD ax 0 : Nat) : Int))).int
    ⟨o.indices.flatMap fun i => [(1, (bcast x i).set ax ((i.getD ax 0 : Nat) : Int)), (0, src i)], [],
     o.indices.map fun i => outE o i (a.load s h (src i))⟩
  | _, _, _ => ⟨[], [], []⟩

/-- An index far outside every shape, where an index value names none. -/
def noIndex : Nat := 2 ^ 32

def scatterPlan (h : Nat) (p : List Byte) (s : State) (ts : List Ten) : Plan :=
  match tenAt ts 0, tenAt ts 1, tenAt ts 2, tenAt ts 8 with
  | some a, some x, some v, some o =>
    let ax := leAt p 0 1
    let n := v.ext ax
    let at_ : List Nat → Nat → Int := fun i j => (x.load s h ((bcast x i).set ax (j : Int))).int
    let hit : List Nat → Option Nat := fun i => (List.range n).reverse.find? fun j => at_ i j == ((i.getD ax 0 : Nat) : Int)
    let lines := allIdx ((List.range 6).map fun k => if k = ax then 1 else o.ext k)
    let lost := lines.flatMap fun i => (List.range n).filterMap fun j =>
      if at_ i j < 0 ∨ (o.ext ax : Int) ≤ at_ i j then
        some (outE o (i.set ax noIndex) (v.load s h ((bcast v i).set ax (j : Int))))
      else none
    ⟨(o.indices.map fun i => (0, toInts i))
      ++ lines.flatMap fun i => (List.range n).flatMap fun j => [(1, (bcast x i).set ax (j : Int)), (2, (bcast v i).set ax (j : Int))], [],
     (o.indices.map fun i => match hit i with
      | some j => outE o i (v.load s h ((bcast v i).set ax (j : Int)))
      | none => outE o i (a.load s h (toInts i))) ++ lost⟩
  | _, _, _, _ => ⟨[], [], []⟩

/-- Choices of all tokens in order of token, then of choice: (token, choice, expert). -/
def choices (h : Nat) (s : State) (x : Ten) : List (Nat × Nat × Int) :=
  (List.range (x.ext 1)).flatMap fun t => (List.range (x.ext 0)).map fun j =>
    (t, j, (x.load s h [(j : Int), (t : Int), 0, 0, 0, 0]).int)

/-- Places of the choices in their experts' blocks, in order: (token, choice, expert, place); beyond capacity a choice has none. -/
def places (e c : Nat) (cs : List (Nat × Nat × Int)) : List (Nat × Nat × Nat × Nat) :=
  (cs.foldl (fun (a : List (Nat × Nat × Nat × Nat) × List Nat) x =>
    let ex := x.2.2.toNat
    if x.2.2 < 0 ∨ (e : Int) ≤ x.2.2 then a
    else
      let n := a.2.getD ex 0
      (if n < c then a.1 ++ [(x.1, x.2.1, ex, n)] else a.1, a.2.set ex (n + 1))) ([], List.replicate e 0)).1

/-- Reads of a whole operand. -/
def allReads (t : Ten) : List (Nat × List Int) := t.indices.map fun i => (t.slot, toInts i)

def routeGatherPlan (h : Nat) (p : List Byte) (s : State) (ts : List Ten) : Plan :=
  match tenAt ts 0, tenAt ts 1, tenAt ts 8 with
  | some a, some x, some o =>
    let (e, c, _) := routeParams p
    let ps := places e c (choices h s x)
    ⟨allReads x ++ ps.flatMap fun q => (List.range (a.ext 0)).map fun f => (0, [(f : Int), (q.1 : Int), 0, 0, 0, 0]), [],
     ps.flatMap fun q => (List.range (a.ext 0)).map fun f =>
      outE o [f, q.2.2.2, q.2.2.1, 0, 0, 0] (a.load s h [(f : Int), (q.1 : Int), 0, 0, 0, 0])⟩
  | _, _, _ => ⟨[], [], []⟩

def routeCombinePlan (h : Nat) (p : List Byte) (s : State) (ts : List Ten) : Plan :=
  match tenAt ts 0, tenAt ts 1, tenAt ts 2, tenAt ts 8 with
  | some a, some x, some w, some o =>
    let (e, c, _) := routeParams p
    let ps := places e c (choices h s x)
    let mine : Nat → List (Nat × Nat × Nat × Nat) := fun t => (ps.filter fun q => q.1 == t).mergeSort fun q r => q.2.2.1 ≤ r.2.2.1
    let at_ : Nat → Nat × Nat × Nat × Nat → List Int := fun f q => [(f : Int), (q.2.2.2 : Int), (q.2.2.1 : Int), 0, 0, 0]
    let wt : Nat × Nat × Nat × Nat → List Int := fun q => [(q.2.1 : Int), (q.1 : Int), 0, 0, 0, 0]
    ⟨allReads x ++ o.indices.flatMap fun i => (mine (i.getD 1 0)).flatMap fun q => [(2, wt q), (0, at_ (i.getD 0 0) q)], [],
     o.indices.map fun i => outE o i (realElt (.fp (fSum ((mine (i.getD 1 0)).map fun q =>
      fMul (w.load s h (wt q)).fp (a.load s h (at_ (i.getD 0 0) q)).fp))))⟩
  | _, _, _, _ => ⟨[], [], []⟩

/-! ### COPY and FILL (R187, R551) -/

/-- The scale byte that stands for a scale of 1. -/
def unitScale (fmt : Nat) : Nat := if fmt = 0 then 127 else 0

/-- The scale byte COPY carries for an element: its block's in the source, or 1 where the block is filled throughout. -/
def carriedScale (h : Nat) (s : State) (a o : Ten) (i : List Nat) : Option Nat :=
  if !o.hasScale then none
  else match a.scaleByte s h (toInts i) with
    | some b => some b
    | none => match (sameBlock o i).findSome? fun j => a.scaleByte s h (toInts j) with
      | some b => some b
      | none => some (unitScale (tdScaleFmt o.td))

def copyPlan (h : Nat) (s : State) (ts : List Ten) : Plan :=
  match tenAt ts 0, tenAt ts 8 with
  | some a, some o =>
    ⟨((o.indices.filter fun i => (o.writeTest i).isNone).map fun i => (0, toInts i)), [],
     o.indices.map fun i =>
      if sameStored a o then ⟨8, i, a.code s h (toInts i), false, carriedScale h s a o i⟩
      else
        let e := a.load s h (toInts i)
        outE o i (if isCplx o.dt && e.im.isNone then ⟨e.re, some (.fp f32Zero)⟩ else e)⟩
  | _, _ => ⟨[], [], []⟩

def fillPlan (ts : List Ten) : Plan :=
  match tenAt ts 8 with
  | some o => ⟨[], [], (o.indices.filter fun i => o.writeTest i != some 2).map fun i => ⟨8, i, o.fill, false, none⟩⟩
  | none => ⟨[], [], []⟩

/-! ## Commands -/

/-- Run an operation given by its parameter block and context. -/
def runOp (t : Nat) (smp : Sampling) (plan : Nat → List Byte → State → List Ten → Plan) : M Unit := do
  let s ← getS
  match s.task t with
  | none => pure ()
  | some k => runPlan t smp false (plan k.handle k.params)

/-- What a checker samples of a matrix product (R440): the integer paths only under functions 0x06 to 0x0F. -/
def dotSampling (s : State) (t act : Nat) : Sampling :=
  match s.task t with
  | none => .none
  | some k => match s.operand k 0, s.operand k 1 with
    | some a, some b => (match pathOf a b with
      | some .int => if 6 ≤ act then .rows else .none
      | some .cint => if 6 ≤ act then .rows else .none
      | _ => .rows)
    | _, _ => .none

/-- A matrix product or convolution. -/
def dotOp (t : Nat) (act : List Byte → Nat) (dots : List Byte → List Ten → List Dot) : M Unit := do
  let s ← getS
  let p := ((s.task t).map (·.params)).getD []
  let code := act p
  runOp t (dotSampling s t code) fun h p s ts =>
    dotPlan h code (ofBits32 (leAt p 16 4)) (ofBits32 (leAt p 20 4)) (dots p ts) s ts

def matmulOp (t : Nat) : M Unit := dotOp t (fun _ => 0) fun _ ts => matmulDots ts

/-- The convolution parameters of a task over its input. -/
def convOf (depthwise : Bool) (p : List Byte) (ts : List Ten) : Conv :=
  convParams depthwise p (((tenAt ts 0).map fun a => a.ext 0).getD 1)

def execMatmul (engine : Nat) (s : State) : Host.Outcome State Fault Refusal := opCommand engine 0x200 matmulOp s
def execCmatmul (engine : Nat) (s : State) : Host.Outcome State Fault Refusal := opCommand engine 0x208 matmulOp s
def execConv2d (engine : Nat) (s : State) : Host.Outcome State Fault Refusal :=
  opCommand engine 0x201 (fun t => dotOp t (fun p => leAt p 12 1) fun p ts => convDots (convOf false p ts) ts) s
def execDwconv2d (engine : Nat) (s : State) : Host.Outcome State Fault Refusal :=
  opCommand engine 0x202 (fun t => dotOp t (fun p => leAt p 12 1) fun p ts => convDots (convOf true p ts) ts) s
def execTconv2d (engine : Nat) (s : State) : Host.Outcome State Fault Refusal :=
  opCommand engine 0x203 (fun t => dotOp t (fun p => leAt p 12 1) fun p ts => tconvDots (convOf false p ts) ts) s
def execEltwise (engine : Nat) (s : State) : Host.Outcome State Fault Refusal :=
  opCommand engine 0x204 (fun t => runOp t .rows eltwisePlan) s
def execUnary (engine : Nat) (s : State) : Host.Outcome State Fault Refusal :=
  opCommand engine 0x205 (fun t => runOp t .rows unaryPlan) s
def execQuantize (engine : Nat) (s : State) : Host.Outcome State Fault Refusal :=
  opCommand engine 0x206 (fun t => runOp t .rows quantizePlan) s
def execDequantize (engine : Nat) (s : State) : Host.Outcome State Fault Refusal :=
  opCommand engine 0x207 (fun t => runOp t .rows fun h _ s ts => dequantizePlan h s ts) s
def execReduce (engine : Nat) (s : State) : Host.Outcome State Fault Refusal :=
  opCommand engine 0x300 (fun t => runOp t .rows reducePlan) s
def execSoftmax (engine : Nat) (s : State) : Host.Outcome State Fault Refusal :=
  opCommand engine 0x301 (fun t => runOp t .rows softmaxPlan) s
def execLayernorm (engine : Nat) (s : State) : Host.Outcome State Fault Refusal :=
  opCommand engine 0x302 (fun t => runOp t .rows (normPlan true)) s
def execRmsnorm (engine : Nat) (s : State) : Host.Outcome State Fault Refusal :=
  opCommand engine 0x303 (fun t => runOp t .rows (normPlan false)) s
def execArgmax (engine : Nat) (s : State) : Host.Outcome State Fault Refusal :=
  opCommand engine 0x304 (fun t => runOp t .rows argmaxPlan) s
def execTopk (engine : Nat) (s : State) : Host.Outcome State Fault Refusal :=
  opCommand engine 0x305 (fun t => runOp t .rows topkPlan) s
def execAttention (engine : Nat) (s : State) : Host.Outcome State Fault Refusal :=
  opCommand engine 0x400 (fun t => runOp t .rows attentionPlan) s
def execRouteGather (engine : Nat) (s : State) : Host.Outcome State Fault Refusal :=
  opCommand engine 0x401 (fun t => runOp t .rows routeGatherPlan) s
def execRouteCombine (engine : Nat) (s : State) : Host.Outcome State Fault Refusal :=
  opCommand engine 0x402 (fun t => runOp t .rows routeCombinePlan) s
def execCopy (engine : Nat) (s : State) : Host.Outcome State Fault Refusal :=
  opCommand engine 0x100 (fun t => runOp t .none fun h _ s ts => copyPlan h s ts) s
def execFill (engine : Nat) (s : State) : Host.Outcome State Fault Refusal :=
  opCommand engine 0x101 (fun t => runOp t .none fun _ _ _ ts => fillPlan ts) s
def execGather (engine : Nat) (s : State) : Host.Outcome State Fault Refusal :=
  opCommand engine 0x102 (fun t => runOp t .none gatherPlan) s
def execScatter (engine : Nat) (s : State) : Host.Outcome State Fault Refusal :=
  opCommand engine 0x103 (fun t => runOp t .none scatterPlan) s

end Sys2Proof.Machine
end

