-- ==== Sys2Proof/Machine/CheckOps.lean ====
section
/-! DEFINITION. The operations of family 0x07: CRC32C and COMPARE (R552), CAIRN_CHECK (R454). -/

namespace Sys2Proof.Machine

open Sys2Proof

/-! ## Checks -/

/-- Checks of CRC32C (R552). -/
def checkCrc (ts : List Ten) : List (Nat × Nat) :=
  match tenAt ts 8 with
  | some o => wantType o (· == 5) ++ bad [(o.ndim != 1, 8, 7)]
  | none => []

/-- A 64-byte record as output: UINT8 of rank 1, at least 64 long. -/
def wantRecord (o : Ten) : List (Nat × Nat) := wantType o (· == 3) ++ bad [(o.ndim != 1, 8, 7), (o.ext 0 < 64, 8, 0x14)]

/-- Checks of COMPARE (R552). -/
def checkCompare (ts : List Ten) : List (Nat × Nat) :=
  match tenAt ts 0, tenAt ts 1, tenAt ts 8 with
  | some a, some b, some o =>
    wantType b (· == a.dt) ++ wantExts b a.ext ++ bad [(a.dt == b.dt && !sameStored a b, 1, 8)] ++ wantRecord o
  | _, _, _ => []

/-- Checks of CAIRN_CHECK (R454). -/
def checkCairnCheck (p : List Byte) (ts : List Ten) : List (Nat × Nat) :=
  match tenAt ts 0, tenAt ts 1, tenAt ts 8 with
  | some a, some b, some o =>
    wantType a (fun dt => 2 ≤ dt && dt ≤ 5) ++ wantType b (· == a.dt) ++ wantExts b a.ext ++ wantRecord o
    ++ bad [(1 < leAt p 0 1, 0xFE, 0), (1 < leAt p 1 1 || (leAt p 1 1 == 1 && a.dt != 4), 0xFE, 1),
        (1 < leAt p 2 1 || (leAt p 2 1 == 1 && leAt p 0 1 == 1), 0xFE, 2)]
    ++ wantZero p [(3, 1), (16, 48)]
  | _, _, _ => []

/-! ## CRC32C (R552) -/

/-- An operand without its scale array, which CRC32C does not cover. -/
def Ten.bare (t : Ten) : Ten := { t with td := putBytes t.td 8 (zeros 6) }

/-- The indices of the positions of a layout tile in storage order. -/
def tileIdx (d : List Byte) (c : List Nat) : List (List Int) :=
  let order := (List.range 6).map (tdOrder d)
  (allIdx (order.map fun k => 2 ^ tdTileLog2 d k)).map fun e =>
    (List.range 6).map fun k => ((c.getD k 0 * 2 ^ tdTileLog2 d k + e.getD (order.idxOf k) 0 : Nat) : Int)

/-- The layout tiles of a logical shape in logical tile order. -/
def tileGrid (t : Ten) : List (List Nat) := allIdx ((List.range 6).map fun k => ceilDiv (t.ext k) (2 ^ tdTileLog2 t.td k))

/-- The encoding a position enters the bit stream with: a fill has 0 in unused container bits. -/
def Ten.streamCode (s : State) (h : Nat) (t : Ten) (i : List Int) : Nat :=
  if t.filled i && isRaw t.dt then t.fill % 2 ^ rawBits t.dt else t.code s h i

def crcPlan (h : Nat) (s : State) (ts : List Ten) : Plan :=
  match tenAt ts 0, tenAt ts 8 with
  | some a0, some o =>
    let a := a0.bare
    let tiles := (tileGrid a).map (tileIdx a.td)
    ⟨tiles.flatten.map fun i => (0, i), [],
     tiles.zipIdx.map fun x =>
      let n := x.2
      outE o [n, 0, 0, 0, 0, 0] (realElt (.int (signed 32 (crc32c (packCodes a.width (x.1.map (a.streamCode s h)))))))⟩
  | _, _ => ⟨[], [], []⟩

/-! ## Records -/

/-- The writes of a 64-byte record to slot 8. -/
def recordWrites (bs : List Byte) : List OutW :=
  (padTo 64 bs).zipIdx.map fun b => ⟨8, [b.2, 0, 0, 0, 0, 0], b.1.toNat, false, none⟩

/-- All elements of slots 0 and 1. -/
def pairReads (a : Ten) : List (Nat × List Int) := a.indices.flatMap fun i => [(0, toInts i), (1, toInts i)]

/-- The encoding COMPARE compares: the valid bits of a RAW container. -/
def Ten.validCode (s : State) (h : Nat) (t : Ten) (i : List Nat) : Nat :=
  let c := t.code s h (toInts i)
  if isRaw t.dt then c % 2 ^ rawBits t.dt else c

/-- The scale byte an element goes by: its block's, or that of scale 1 where it is filled (R177). -/
def Ten.scaleOrUnit (s : State) (h : Nat) (t : Ten) (i : List Nat) : Nat :=
  if t.hasScale then (t.scaleByte s h (toInts i)).getD (unitScale (tdScaleFmt t.td)) else 0

/-- The positions, in logical order, at which a test holds. -/
def positions (a : Ten) (test : List Nat → Bool) : List Nat := (a.indices.zipIdx.filter fun x => test x.1).map (·.2)

/-- The record of COMPARE. -/
def compareRecord (h : Nat) (s : State) (a b : Ten) : List Byte :=
  let l := positions a fun i => a.validCode s h i != b.validCode s h i || a.scaleOrUnit s h i != b.scaleOrUnit s h i
  withCrc 60 (leBytes 8 l.length ++ leBytes 8 (l.headD (2 ^ 64 - 1)) ++ leBytes 8 a.indices.length)

def comparePlan (h : Nat) (s : State) (ts : List Ten) : Plan :=
  match tenAt ts 0, tenAt ts 1 with
  | some a, some b => ⟨pairReads a, [], recordWrites (compareRecord h s a b)⟩
  | _, _ => ⟨[], [], []⟩

/-! ## CAIRN_CHECK (R454) -/

/-- The integer CAIRN_CHECK compares. -/
def cairnValue (h : Nat) (p : List Byte) (s : State) (t : Ten) (i : List Nat) : Int :=
  let c := t.code s h (toInts i)
  if leAt p 1 1 = 1 then ((c % 2 ^ 16 : Nat) : Int) else (decodeComp t.dt c).toInt

/-- Whether a pair of values is bad. -/
def cairnBad (p : List Byte) (a g : Int) : Bool :=
  if leAt p 0 1 = 1 then
    let cls : Int → Int := fun v => if v < 250 then 0 else v
    cls a != cls g
  else
    let sn := signed 32 (leAt p 8 4)
    (((leAt p 4 4 : Nat) : Int) < (a - g).natAbs) || (leAt p 2 1 == 1 && (a == sn) != (g == sn))

/-- Verdict, bad elements, largest difference, first bad index. -/
def cairnVerdict (h : Nat) (p : List Byte) (s : State) (a b : Ten) : Bool × Nat × Nat × Nat :=
  let v := cairnValue h p s
  let l := positions a fun i => cairnBad p (v a i) (v b i)
  let big := if leAt p 0 1 = 1 then 0 else a.indices.foldl (fun m i => max m (v a i - v b i).natAbs) 0
  (decide (l.length ≤ leAt p 12 4), min l.length (2 ^ 32 - 1), big, l.headD (2 ^ 32 - 1))

def cairnPlan (h : Nat) (p : List Byte) (s : State) (ts : List Ten) : Plan :=
  match tenAt ts 0, tenAt ts 1 with
  | some a, some b =>
    let (ok, n, big, first) := cairnVerdict h p s a b
    ⟨pairReads a, [], recordWrites (withCrc 60 (leBytes 4 (flagBit ok) ++ leBytes 4 n ++ leBytes 4 big ++ leBytes 4 first
      ++ leBytes 4 a.indices.length))⟩
  | _, _ => ⟨[], [], []⟩

/-- CAIRN_CHECK: its record, and its verdict for the cairn whose instance it belongs to (R452). -/
def cairnCheckOp (t : Nat) : M Unit := do
  runOp t .none cairnPlan
  let s ← getS
  match s.task t with
  | none => pure ()
  | some k =>
    if k.done then
      match tenAt (s.operands k) 0, tenAt (s.operands k) 1, k.inst with
      | some a, some b, some id => do
        let v := cairnVerdict k.handle k.params s a b
        update (.safe fun x => { x with cairns := x.cairns.map fun c =>
          match c.2.run with
          | some r => if r.id = id then (c.1, { c.2 with run := some { r with checks := r.checks ++ [(v.1, v.2.1, v.2.2.2)] } }) else c
          | none => c })
      | _, _, _ => pure ()

def execCrc32c (engine : Nat) (s : State) : Host.Outcome State Fault Refusal :=
  opCommand engine 0x700 (fun t => runOp t .none fun h _ s ts => crcPlan h s ts) s
def execCompare (engine : Nat) (s : State) : Host.Outcome State Fault Refusal :=
  opCommand engine 0x701 (fun t => runOp t .none fun h _ s ts => comparePlan h s ts) s
def execCairnCheck (engine : Nat) (s : State) : Host.Outcome State Fault Refusal :=
  opCommand engine 0x702 cairnCheckOp s

end Sys2Proof.Machine
end

