-- ==== Sys2Proof/Machine/Trig.lean ====
section
/-! DEFINITION. Quantized cosines and sines (R384, R387), complex integers with rounding and saturation (R384). -/

namespace Sys2Proof.Machine

open Sys2Proof

/-- Terms of the series 1 − x²/((i+1)(i+2)) (1 − …) at scale 2^p, x² given at that scale. -/
def trigHorner (p : Nat) (x2 : Int) : Nat → Nat → Int
  | 0, _ => 2 ^ p
  | n + 1, i => 2 ^ p - x2 * trigHorner p x2 n (i + 2) / 2 ^ p / ((i + 1) * (i + 2))

/-- Binary places of the fixed-point angle. -/
def trigBits : Nat := 120

/-- The angle π r / (2 n) at scale 2^trigBits. -/
def quarterAngle (r n : Nat) : Int := (ivPi trigBits).lo * r / (2 * n)

/-- cos(2πk/n) at scale 2^trigBits: the quadrant, and a series in it. -/
def cosFix (k n : Nat) : Int :=
  let r := 4 * (k % n)
  let a := quarterAngle (r % n) n
  let a2 := a * a / 2 ^ trigBits
  let c := trigHorner trigBits a2 24 0
  let s := a * trigHorner trigBits a2 24 1 / 2 ^ trigBits
  match r / n with
  | 0 => c
  | 1 => -s
  | 2 => -c
  | _ => s

/-- A fixed-point number times 2^15, rounded to nearest, ties away from zero; multiples of a quarter turn are exact. -/
def roundQ15 (x : Int) : Int :=
  let m : Int := ((x.natAbs + 2 ^ (trigBits - 16)) / 2 ^ (trigBits - 15) : Nat)
  if x < 0 then -m else m

/-- round(2^15 cos(2πk/n)) and round(2^15 sin(2πk/n)). -/
def cosQ (k n : Nat) : Int := roundQ15 (cosFix k n)
def sinQ (k n : Nat) : Int := roundQ15 (cosFix (4 * (k % n) + 3 * n) (4 * n))

/-- A table of W[m] = cos − j sin, m below n (R387). -/
def twiddles (n : Nat) : Array (Int × Int) := ((List.range n).map fun m => (cosQ m n, -sinQ m n)).toArray

/-- e^(jθ) of the NCO (R384): θ = 2πk / 2^14, 2^15 replaced by 32,767. -/
def ncoAt (k : Nat) : Int × Int :=
  let f : Int → Int := fun v => if v = 32768 then 32767 else v
  (f (cosQ k 16384), f (sinQ k 16384))

/-- Product, sum and conjugate of complex integers. -/
def cmulZ (a b : Int × Int) : Int × Int := (a.1 * b.1 - a.2 * b.2, a.1 * b.2 + a.2 * b.1)
def caddZ (a b : Int × Int) : Int × Int := (a.1 + b.1, a.2 + b.2)
def conjZ (a : Int × Int) : Int × Int := (a.1, -a.2)
def csumZ (l : List (Int × Int)) : Int × Int := l.foldl caddZ (0, 0)

/-- int16 saturation, and whether it acted. -/
def sat16 (x : Int) : Int × Nat := if x < -32768 then (-32768, 1) else if 32767 < x then (32767, 1) else (x, 0)

/-- (x + 2^(q−1)) >> q with saturation to int16 (R384). -/
def roundShift (q : Nat) (x : Int) : Int × Nat := sat16 (if q = 0 then x else (x + 2 ^ (q - 1)) / 2 ^ q)

/-- The same on both components, saturations counted. -/
def roundZ (q : Nat) (z : Int × Int) : (Int × Int) × Nat :=
  let a := roundShift q z.1
  let b := roundShift q z.2
  ((a.1, b.1), a.2 + b.2)

/-- Values apart from the saturations counted with them. -/
def gather {α : Type} (l : List (α × Nat)) : List α × Nat := (l.map (·.1), l.foldl (fun n x => n + x.2) 0)

/-- The CI16 encoding of a complex integer, and back (R167). -/
def toCi16 (z : Int × Int) : Nat := unsigned 16 z.1 + unsigned 16 z.2 * 2 ^ 16
def ofCi16 (c : Nat) : Int × Int := (signed 16 c, signed 16 (c / 2 ^ 16))

end Sys2Proof.Machine
end

