-- ==== Sys2Proof/Machine/WarpOps.lean ====
section
/-! DEFINITION. The operations of the pyramid and warp engines (R306–R323). -/

namespace Sys2Proof.Machine

open Sys2Proof

/-! ## Images (R306, R307) -/

def Ten.chans (t : Ten) : Nat := if t.ndim = 3 then t.ext 0 else 1
def Ten.wide (t : Ten) : Nat := if t.ndim = 3 then t.ext 1 else t.ext 0
def Ten.high (t : Ten) : Nat := if t.ndim = 3 then t.ext 2 else t.ext 1

/-- The index of channel c of position (x, y). -/
def Ten.pix (t : Ten) (c : Nat) (x y : Int) : List Int := if t.ndim = 3 then [(c : Int), x, y, 0, 0, 0] else [x, y, 0, 0, 0, 0]

/-- The natural form of such an index. -/
def Ten.pixN (t : Ten) (c x y : Nat) : List Nat := if t.ndim = 3 then [c, x, y, 0, 0, 0] else [x, y, 0, 0, 0, 0]

/-- Channels and positions of an image, channel fastest, then x. -/
def Ten.pixels (t : Ten) : List (Nat × Nat × Nat) :=
  (List.range t.high).flatMap fun y => (List.range t.wide).flatMap fun x => (List.range t.chans).map fun c => (c, x, y)

/-- No scale array on an operand. -/
def noScale (t : Ten) : List (Nat × Nat) := bad [(t.hasScale, t.slot, 8)]

/-- The shape and type rules of an image operand. -/
def wantImage (t : Ten) : List (Nat × Nat) :=
  wantType t (fun dt => dt == 3 || dt == 4 || dt == 0x0D)
  ++ bad [(t.ndim != 2 && t.ndim != 3, t.slot, 7), (t.ndim == 3 && 4 < t.ext 0, t.slot, 0x14)] ++ noScale t

/-- Extents W and H of an image. -/
def wantSize (t : Ten) (w h : Nat) : List (Nat × Nat) :=
  let b := if t.ndim = 3 then 0x16 else 0x14
  bad [(t.wide != w, t.slot, b), (t.high != h, t.slot, b + 2)]

/-- The channel count and type of another image. -/
def wantLike (t a : Ten) (dt : Nat) : List (Nat × Nat) := wantType t (· == dt) ++ bad [(t.chans != a.chans, t.slot, 0x14)]

/-- FP16 values are multiples of 2^−24. -/
def fp16Units : Fp → Int
  | .fin neg m e => (if neg then -1 else 1) * ((m * 2 ^ (e + 24).toNat : Nat) : Int)
  | _ => 0

/-- The stored encoding of a weighted sum over 2^n (R307): taps are (weight, encoding). -/
def tapSum (dt n : Nat) (taps : List (Int × Nat)) : Nat :=
  if dt = 0x0D then
    let vs := (taps.filter fun t => t.1 != 0).map fun t => (t.1, fmtFP16.decode t.2)
    let pos := vs.any fun v => v.2 == .inf false
    let neg := vs.any fun v => v.2 == .inf true
    if vs.any (fun v => v.2.isNan) || (pos && neg) then 0x7E00
    else if pos then 0x7C00 else if neg then 0xFC00
    else
      let sum := vs.foldl (fun a v => a + v.1 * fp16Units v.2) 0
      (fmtFP16.store (.fin (sum < 0) sum.natAbs (-24 - (n : Int)))).1
  else
    let sum := taps.foldl (fun a v => a + v.1 * (decodeComp dt v.2).toInt) 0
    unsigned ((dtWidth dt).getD 8) (saturate (intRange dt) ((sum + 2 ^ (n - 1)) / 2 ^ n)).1

/-- Taps of a separable weighting: (weight, x, y). -/
def sepTaps (xs ys : List (Int × Int)) : List (Int × Int × Int) := ys.flatMap fun y => xs.map fun x => (x.1 * y.1, x.2, y.2)

/-! ## Borders (R311) -/

/-- A coordinate reflected at both ends until it lies in 0 … n − 1. -/
def reflect (c : Int) (n : Nat) : Int :=
  if n ≤ 1 then 0
  else
    let m := c % (2 * ((n : Int) - 1))
    if m < n then m else 2 * ((n : Int) - 1) - m

/-- A coordinate under a border mode: 0 replicate, 1 reflect, 2 fill (unchanged). -/
def border (mode : Nat) (c : Int) (n : Nat) : Int :=
  if mode = 0 then max 0 (min c ((n : Int) - 1)) else if mode = 1 then reflect c n else c

/-! ## PYR_BUILD (R308–R311) -/

/-- The size of the next level along one dimension (R309). -/
def nextSize (mode ratio n : Nat) : Nat := if mode = 0 then (n + 1) / 2 else max 1 (n * 256 / ratio)

/-- The outputs of PYR_BUILD in level order. -/
def levelTens (ts : List Ten) : List Ten := ts.filter fun t => 8 ≤ t.slot

/-- Violations of level operands named by the level table are violations of the block (R103, R308). -/
def levelViolation (v : Nat × Nat) : Nat × Nat := if 12 ≤ v.1 ∧ v.1 < 0xFE then (0xFE, 8) else v

/-- Checks of the levels against the sizes computed for them. -/
def checkLevels (a : Ten) (mode ratio : Nat) : List Ten → Nat → Nat → List (Nat × Nat)
  | [], _, _ => []
  | o :: rest, w, h =>
    let w' := nextSize mode ratio w
    let h' := nextSize mode ratio h
    wantImage o ++ wantLike o a a.dt ++ wantSize o w' h' ++ checkLevels a mode ratio rest w' h'

/-- Checks of PYR_BUILD. -/
def checkPyrBuild (p : List Byte) (ts : List Ten) : List (Nat × Nat) :=
  match tenAt ts 0 with
  | some a =>
    let mode := leAt p 0 1
    let ratio := leAt p 4 2
    let n := leAt p 1 1 + 1
    let slots := (ts.filter fun t => 8 ≤ t.slot && t.slot < 12).length
    (wantImage a ++ (if mode = 1 ∧ ratio = 0 then [] else checkLevels a mode ratio (levelTens ts) a.wide a.high)).map levelViolation
    ++ bad [(1 < mode, 0xFE, 0), (12 < n || slots != min n 4 || (4 < n && (ts.filter fun t => 12 ≤ t.slot).length != n - 4), 0xFE, 1),
        (2 < leAt p 2 1, 0xFE, 2), (if mode = 1 then ratio < 256 || 1024 < ratio else ratio != 0, 0xFE, 4)]
    ++ wantZero p [(3, 1), (6, 2), (16, 48)]
    ++ bad [((leAt p 8 8 == 0) != (n ≤ 4) || leAt p 8 8 % 64 != 0 || 2 ^ 48 ≤ leAt p 8 8, 0xFE, 8)]
  | none => []

/-- The binomial kernel. -/
def kernel5 (i : Int) : Int := if i = 0 then 6 else if i = 1 ∨ i = -1 then 4 else if i = 2 ∨ i = -2 then 1 else 0

/-- Taps along one dimension for an output coordinate (R310): (weight, input coordinate). -/
def pyrTaps (mode ratio x : Nat) : List (Int × Int) :=
  if mode = 0 then [-2, -1, 0, 1, 2].map fun d => (kernel5 d, 2 * (x : Int) + d)
  else
    let s : Int := ((2 * (x : Int) + 1) * ratio - 256) / 2
    let i := s / 256
    let a := s % 256 / 4
    [-2, -1, 0, 1, 2, 3].map fun d => ((64 - a) * kernel5 d + a * kernel5 (d - 1), i + d)

/-- An image at hand: channels, width, height, its encodings. -/
structure Pic where
  c : Nat
  w : Nat
  h : Nat
  px : Array Nat

def Pic.at_ (q : Pic) (c x y : Nat) : Nat := q.px.getD ((y * q.w + x) * q.c + c) 0

/-- Whether a position lies in a picture. -/
def inPic (w h : Nat) (x y : Int) : Bool := 0 ≤ x && x < w && 0 ≤ y && y < h

/-- One level from the one below: encodings, and fill reads made. -/
def pyrLevel (dt fill mode ratio bord : Nat) (q : Pic) : Pic × Nat :=
  let w := nextSize mode ratio q.w
  let h := nextSize mode ratio q.h
  let at_ : Nat → Nat → Nat → List (Int × Int × Int) := fun _ x y =>
    (sepTaps (pyrTaps mode ratio x) (pyrTaps mode ratio y)).map fun t => (t.1, border bord t.2.1 q.w, border bord t.2.2 q.h)
  let cells := (List.range h).flatMap fun y => (List.range w).flatMap fun x => (List.range q.c).map fun c => (c, x, y)
  let code : Nat × Nat × Nat → Nat := fun z => tapSum dt (if mode = 0 then 8 else 20) ((at_ z.1 z.2.1 z.2.2).map fun t =>
    (t.1, if inPic q.w q.h t.2.1 t.2.2 then q.at_ z.1 t.2.1.toNat t.2.2.toNat else fill))
  let outside := cells.foldl (fun n z => n + ((at_ z.1 z.2.1 z.2.2).filter fun t => !inPic q.w q.h t.2.1 t.2.2).length) 0
  (⟨q.c, w, h, (cells.map code).toArray⟩, outside)

/-- The levels above a picture, each with the fill reads made for it; the first level takes the input's fill, the others that of
level 1. -/
def pyrLevels (dt mode ratio bord : Nat) : List Ten → Nat → Nat → Pic → List (Ten × Pic × Nat)
  | [], _, _, _ => []
  | o :: rest, fill, fill1, q =>
    let r := pyrLevel dt fill mode ratio bord q
    (o, r.1, r.2) :: pyrLevels dt mode ratio bord rest fill1 fill1 r.1

/-- The input as a picture. -/
def Ten.pic (s : State) (h : Nat) (t : Ten) : Pic :=
  ⟨t.chans, t.wide, t.high, (t.pixels.map fun z => t.code s h (t.pix z.1 z.2.1 z.2.2)).toArray⟩

/-- The levels PYR_BUILD computes. -/
def pyrResult (h : Nat) (p : List Byte) (s : State) (ts : List Ten) : List (Ten × Pic × Nat) :=
  match tenAt ts 0 with
  | some a =>
    let fill1 := ((levelTens ts).head?.map Ten.fill).getD 0
    pyrLevels a.dt (leAt p 0 1) (leAt p 4 2) (leAt p 2 1) (levelTens ts) a.fill fill1 (a.pic s h)
  | none => []

/-- The reads of level 1's taps. -/
def pyrReads (p : List Byte) (a : Ten) : List (Nat × List Int) :=
  let mode := leAt p 0 1
  let ratio := leAt p 4 2
  let bord := leAt p 2 1
  (List.range (nextSize mode ratio a.high)).flatMap fun y => (List.range (nextSize mode ratio a.wide)).flatMap fun x =>
    (List.range a.chans).flatMap fun c => (sepTaps (pyrTaps mode ratio x) (pyrTaps mode ratio y)).map fun t =>
      (0, a.pix c (border bord t.2.1 a.wide) (border bord t.2.2 a.high))

def pyrPlan (h : Nat) (p : List Byte) (s : State) (ts : List Ten) : Plan :=
  match tenAt ts 0 with
  | some a => ⟨pyrReads p a, [], (pyrResult h p s ts).flatMap fun r =>
      r.1.pixels.map fun z => ⟨r.1.slot, r.1.pixN z.1 z.2.1 z.2.2, r.2.1.at_ z.1 z.2.1 z.2.2, false, none⟩⟩
  | none => ⟨[], [], []⟩

/-- Fill reads of levels 2 and above: counted, and reported for slot 8 unless its descriptor is quiet (R180, R311). -/
def pyrNotes (h : Nat) (p : List Byte) (s : State) (ts : List Ten) : Notes :=
  let n := ((pyrResult h p s ts).drop 1).foldl (fun n r => n + r.2.2) 0
  let quiet := ((levelTens ts).head?.map fun o => tdQuiet o.td).getD false
  (if quiet then [] else [(8, 0x2001, n)], n)

/-! ## PYR_LAPLACE (R312) -/

/-- Checks of PYR_LAPLACE. -/
def checkPyrLaplace (p : List Byte) (ts : List Ten) : List (Nat × Nat) :=
  match tenAt ts 0, tenAt ts 1, tenAt ts 8 with
  | some a, some k, some o =>
    wantImage a ++ bad [(a.dt == 4, 0, 6)] ++ wantImage k ++ wantLike k a a.dt ++ wantSize k ((a.wide + 1) / 2) ((a.high + 1) / 2)
    ++ wantImage o ++ wantLike o a (if a.dt = 3 then 4 else a.dt) ++ wantSize o a.wide a.high
    ++ bad [(2 < leAt p 0 1, 0xFE, 0)] ++ wantZero p [(1, 63)]
  | _, _, _ => []

/-- Expansion taps along one dimension. -/
def expandTaps (x : Nat) : List (Int × Int) :=
  let m : Int := x / 2
  if x % 2 = 0 then [(1, m - 1), (6, m), (1, m + 1)] else [(4, m), (4, m + 1)]

def laplaceTaps (bord : Nat) (k : Ten) (x y : Nat) : List (Int × Int × Int) :=
  (sepTaps (expandTaps x) (expandTaps y)).map fun t => (t.1, border bord t.2.1 k.wide, border bord t.2.2 k.high)

def laplacePlan (h : Nat) (p : List Byte) (s : State) (ts : List Ten) : Plan :=
  match tenAt ts 0, tenAt ts 1, tenAt ts 8 with
  | some a, some k, some o =>
    let b := leAt p 0 1
    ⟨a.pixels.flatMap fun z => (0, a.pix z.1 z.2.1 z.2.2) :: (laplaceTaps b k z.2.1 z.2.2).map fun t => (1, k.pix z.1 t.2.1 t.2.2), [],
     a.pixels.map fun z =>
      let l := a.code s h (a.pix z.1 z.2.1 z.2.2)
      let es := (laplaceTaps b k z.2.1 z.2.2).map fun t => (t.1, k.code s h (k.pix z.1 t.2.1 t.2.2))
      let code := if a.dt = 0x0D then tapSum 0x0D 6 ((64, l) :: es.map fun e => (e.1, e.2 ^^^ 0x8000))
        else
          let e := es.foldl (fun n t => n + t.1 * (t.2 : Int)) 0
          unsigned 16 ((64 * (l : Int) - e + 8) / 16)
      ⟨8, o.pixN z.1 z.2.1 z.2.2, code, false, none⟩⟩
  | _, _, _ => ⟨[], [], []⟩

/-! ## Warps (R313–R317) -/

/-- Where an output pixel samples: source position in 1/64 pixel; none where its source is invalid. -/
abbrev Source := Nat → Nat → Option (Int × Int)

/-- The mesh cell weights and nodes of an output coordinate pair: (weight, node x, node y). -/
def meshNodes (g u v : Nat) : List (Nat × Nat × Nat) :=
  let cx := u / g
  let fx := u % g
  let cy := v / g
  let fy := v % g
  [((g - fx) * (g - fy), cx, cy), (fx * (g - fy), cx + 1, cy), ((g - fx) * fy, cx, cy + 1), (fx * fy, cx + 1, cy + 1)]

/-- A node coordinate. -/
def meshValue (s : State) (h : Nat) (m : Ten) (d x y : Nat) : Int := (m.load s h [(d : Int), (x : Int), (y : Int), 0, 0, 0]).int

/-- The source of WARP_MESH (R314). -/
def meshSource (s : State) (h : Nat) (m : Ten) (g : Nat) : Source := fun u v =>
  let ns := meshNodes g u v
  let valid : Int → Bool := fun c => -65536 ≤ c && c ≤ 65535
  if ns.all fun n => valid (meshValue s h m 0 n.2.1 n.2.2) && valid (meshValue s h m 1 n.2.1 n.2.2) then
    let pos : Nat → Int := fun d =>
      (8 * ns.foldl (fun a n => a + (n.1 : Int) * meshValue s h m d n.2.1 n.2.2) 0 + (g * g / 2 : Nat)) / ((g * g : Nat) : Int)
    some (pos 0, pos 1)
  else none

/-- Whether a value is finite. -/
def Fp.finite : Fp → Bool
  | .fin _ _ _ => true
  | _ => false

/-- A coordinate times 64, rounded to the nearest integer. -/
def times64 : Fp → Int
  | .fin neg m e => (Fp.toInt (.fin neg m (e + 6))).getD 0
  | _ => 0

/-- The source of WARP_HOMOG (R315). -/
def homogSource (p : List Byte) : Source := fun u v =>
  let hk : Nat → Fp := fun k => ofBits32 (leAt p (4 * k) 4)
  let row : Nat → Fp := fun k => fAdd (fAdd (fMul (hk k) (ofInt u)) (fMul (hk (k + 1)) (ofInt v))) (hk (k + 2))
  let x0 := row 0
  let y0 := row 3
  let w := row 6
  let x := fDiv x0 w
  let y := fDiv y0 w
  let ok := !w.isZero && !(w.negative && !w.isNan) && x0.finite && y0.finite && x.finite && y.finite
  if ok && (times64 x).natAbs < 2 ^ 22 && (times64 y).natAbs < 2 ^ 22 then some (times64 x, times64 y) else none

/-- The weights of R316 along one dimension: (weight, offset). -/
def warpWeights (bicubic : Bool) (a : Int) : List (Int × Int) :=
  if bicubic then
    [(-a ^ 3 + 128 * a ^ 2 - 4096 * a, -1), (3 * a ^ 3 - 320 * a ^ 2 + 524288, 0), (-3 * a ^ 3 + 256 * a ^ 2 + 4096 * a, 1),
      (a ^ 3 - 64 * a ^ 2, 2)]
  else [(64 - a, 0), (a, 1)]

/-- The taps of a position in 1/64 pixel. -/
def warpTaps (bicubic : Bool) (pos : Int × Int) : List (Int × Int × Int) :=
  let f : Int → List (Int × Int) := fun c => (warpWeights bicubic (c % 64)).map fun w => (w.1, c / 64 + w.2)
  sepTaps (f pos.1) (f pos.2)

/-- Where a tap reads under the border of R316: 0 fill, 1 replicate. -/
def warpCoord (bord : Nat) (c : Int) (n : Nat) : Int := if bord = 1 then border 0 c n else c

/-- The elements of a warp. -/
def warpPlan (bicubic : Bool) (bord : Nat) (src : State → List Ten → Source) (extra : List Ten → List (Nat × List Int)) (h : Nat)
    (s : State) (ts : List Ten) : Plan :=
  match tenAt ts 0, tenAt ts 8 with
  | some a, some o =>
    let f := src s ts
    let taps : Nat → Nat → List (Int × Int × Int) := fun u v => match f u v with
      | some pos => (warpTaps bicubic pos).map fun t => (t.1, warpCoord bord t.2.1 a.wide, warpCoord bord t.2.2 a.high)
      | none => []
    ⟨extra ts ++ o.pixels.flatMap fun z => (taps z.2.1 z.2.2).map fun t => (0, a.pix z.1 t.2.1 t.2.2), [],
     o.pixels.map fun z =>
      let ws := taps z.2.1 z.2.2
      let code := if ws.isEmpty then o.fill
        else tapSum a.dt (if bicubic then 38 else 12) (ws.map fun t => (t.1, a.code s h (a.pix z.1 t.2.1 t.2.2)))
      ⟨8, o.pixN z.1 z.2.1 z.2.2, code, false, none⟩⟩
  | _, _ => ⟨[], [], []⟩

/-- Whether the output pixels at a position are written with fill for an invalid source, counted by pixel (R317). -/
def invalidPixels (o : Ten) (f : Source) : Nat := (o.pixels.filter fun z => (f z.2.1 z.2.2).isNone).length

/-- The mesh reads: every node of the output's cells, both values. -/
def meshReads (g : Nat) (ts : List Ten) : List (Nat × List Int) :=
  match tenAt ts 8 with
  | some o => (List.range (ceilDiv o.high g + 1)).flatMap fun j => (List.range (ceilDiv o.wide g + 1)).flatMap fun i =>
      [(1, [0, (i : Int), (j : Int), 0, 0, 0]), (1, [1, (i : Int), (j : Int), 0, 0, 0])]
  | none => []

/-- Grid spacing of WARP_MESH. -/
def meshGrid (p : List Byte) : Nat := if leAt p 0 1 = 0 then 16 else 32

/-- Checks of WARP_MESH. -/
def checkWarpMesh (p : List Byte) (ts : List Ten) : List (Nat × Nat) :=
  match tenAt ts 0, tenAt ts 1, tenAt ts 8 with
  | some a, some m, some o =>
    let g := meshGrid p
    wantImage a ++ wantType m (· == 5) ++ bad [(m.ndim != 3, 1, 7)] ++ noScale m
    ++ wantExt m 0 2 ++ wantExt m 1 (ceilDiv o.wide g + 1) ++ wantExt m 2 (ceilDiv o.high g + 1)
    ++ wantImage o ++ wantLike o a a.dt
    ++ bad [(1 < leAt p 0 1, 0xFE, 0), (1 < leAt p 1 1, 0xFE, 1), (1 < leAt p 2 1, 0xFE, 2)] ++ wantZero p [(3, 61)]
  | _, _, _ => []

/-- Checks of WARP_HOMOG. -/
def checkWarpHomog (p : List Byte) (ts : List Ten) : List (Nat × Nat) :=
  match tenAt ts 0, tenAt ts 8 with
  | some a, some o =>
    wantImage a ++ wantImage o ++ wantLike o a a.dt
    ++ bad ((List.range 9).map fun k => (!(ofBits32 (leAt p (4 * k) 4)).finite, 0xFE, 4 * k))
    ++ bad [(1 < leAt p 36 1, 0xFE, 36), (1 < leAt p 37 1, 0xFE, 37)] ++ wantZero p [(38, 90)]
  | _, _ => []

/-! ## Source windows (R319, R320) -/

/-- The extent of some coordinates, cut to 0 … n − 1. -/
def spanOf (cs : List Int) (n : Nat) : Option (Nat × Nat) :=
  match cs with
  | [] => none
  | c :: rest =>
    let lo := rest.foldl min c
    let hi := rest.foldl max c
    some ((border 0 lo n).toNat, (border 0 hi n).toNat)

/-- Splits of an output tile of size 2^k at (x, y) (R319): the box of its taps against the 256 KiB source buffer. -/
def warpSplits (a o : Ten) (bicubic : Bool) (f : Source) : Nat → Nat → Nat → Nat
  | 0, _, _ => 0
  | k + 1, x0, y0 =>
    let n := 8 * 2 ^ k
    let pts := (List.range n).flatMap fun j => (List.range n).flatMap fun i =>
      if x0 + i < o.wide ∧ y0 + j < o.high then
        (match f (x0 + i) (y0 + j) with
        | some p => (warpTaps bicubic p).map fun t => t.2
        | none => [])
      else []
    match spanOf (pts.map (·.1)) a.wide, spanOf (pts.map (·.2)) a.high with
    | some (xl, xh), some (yl, yh) =>
      if k ≠ 0 ∧ 262144 < (xh - xl + 1) * (yh - yl + 1) * a.chans * (a.width / 8) then
        let m := n / 2
        1 + warpSplits a o bicubic f k x0 y0 + warpSplits a o bicubic f k (x0 + m) y0
          + warpSplits a o bicubic f k x0 (y0 + m) + warpSplits a o bicubic f k (x0 + m) (y0 + m)
      else 0
    | _, _ => 0

/-- All splits of a task on WRP: 64 × 64 tiles down to 8 × 8. -/
def allSplits (a o : Ten) (bicubic : Bool) (f : Source) : Nat :=
  (List.range (ceilDiv o.high 64)).foldl (fun n ty => (List.range (ceilDiv o.wide 64)).foldl
    (fun n tx => n + warpSplits a o bicubic f 4 (64 * tx) (64 * ty)) n) 0

/-- The bands a tile row needs, lowest and highest (R320): over its positions, or all for a tile whose corners do not all have a
source. -/
def rowBands (a o : Ten) (bicubic corners : Bool) (f : Source) (rows ty : Nat) : Option (Nat × Nat) :=
  let y0 := 64 * ty
  let y1 := min (y0 + 63) (o.high - 1)
  let xs := if corners then (List.range (ceilDiv o.wide 64)).flatMap fun tx => [64 * tx, min (64 * tx + 63) (o.wide - 1)]
    else List.range o.wide
  let ys := if corners then [y0, y1] else List.range' y0 (y1 + 1 - y0)
  let ps := ys.flatMap fun v => xs.map fun u => f u v
  if corners && ps.any Option.isNone then some (0, (a.high - 1) / rows)
  else (spanOf (ps.flatMap fun p => match p with
      | some q => (warpTaps bicubic q).map fun t => t.2.2
      | none => []) a.high).map fun r => (r.1 / rows, r.2 / rows)

/-- The first tile row a ring input cannot serve, with the bands it needs. -/
def windowFails (depth : Nat) : Nat → Nat → List (Option (Nat × Nat)) → Option (Nat × Nat)
  | _, _, [] => none
  | ty, low, none :: rest => windowFails depth (ty + 1) low rest
  | ty, low, some (lo, hi) :: rest =>
    if depth < hi - lo + 1 ∨ lo < low then some (ty, hi - lo + 1) else windowFails depth (ty + 1) (max low lo) rest

/-- The failing tile row of a warp whose input is a ring. -/
def ringWindow (a o : Ten) (bicubic corners : Bool) (f : Source) : Option (Nat × Nat) :=
  match a.ring with
  | some (rows, depth, _, _) =>
    if a.ringInput then windowFails depth 0 0 ((List.range (ceilDiv o.high 64)).map fun ty => rowBands a o bicubic corners f rows ty)
    else none
  | none => none

/-! ## Commands -/

/-- Count output pixels on an engine's own page (R322). -/
def countPixels (e off : Nat) (f : Field) (t : Nat) (n : Nat) : M Unit := do
  let s ← getS
  if ((s.task t).map (·.engine)) = some e then bump off f n

def pyrBuildOp (t : Nat) : M Unit := do
  let s ← getS
  match s.task t with
  | none => pure ()
  | some k => do
    let post : List OutW → M Unit := fun ws => countPixels 0x29 (Reg.pyrPixels 0) Fld.pyrPixelsCount t ws.length
    runPlanWith t .tiles false (pyrPlan k.handle k.params) (pyrNotes k.handle k.params) post

def pyrLaplaceOp (t : Nat) : M Unit := do
  let s ← getS
  match s.task t with
  | none => pure ()
  | some k => do
    let post : List OutW → M Unit := fun ws => countPixels 0x29 (Reg.pyrPixels 0) Fld.pyrPixelsCount t ws.length
    runPlanWith t .tiles false (laplacePlan k.handle k.params) (fun _ _ => ([], 0)) post

/-- A warp (R313–R320). -/
def warpOp (t : Nat) (bicubic : Bool) (bord : Nat) (corners : Bool) (src : State → List Ten → Source)
    (extra : List Ten → List (Nat × List Int)) : M Unit := do
  let s ← getS
  match s.task t with
  | none => pure ()
  | some k =>
    let ts := s.operands k
    match tenAt ts 0, tenAt ts 8 with
    | some a, some o =>
      match ringWindow a o bicubic corners (src s ts) with
      | some (ty, n) => do
        settleAll (← raiseFor t 0x2A 4 0x3801 (taskDetail [(2, ty), (2, n)] k 0))
        finish t 1
      | none =>
        let own := k.engine == 0x2A
        let notes : State → List Ten → Notes := fun s ts => match tenAt ts 0, tenAt ts 8 with
          | some a, some o => ([(0xFF, 0x2801, invalidPixels o (src s ts)),
              (0xFF, 0x8801, if own then allSplits a o bicubic (src s ts) else 0)], 0)
          | _, _ => ([], 0)
        runPlanWith t .tiles false (warpPlan bicubic bord src extra k.handle) notes fun ws => do
          if own then
            let n := notes s ts
            bump (Reg.pyrPixels 1) Fld.pyrPixelsCount ws.length
            bump Reg.wrpInvalid Fld.wrpInvalidCount ((n.1.map (·.2.2)).getD 0 0)
            bump Reg.wrpSplit Fld.wrpSplitCount ((n.1.map (·.2.2)).getD 1 0)
    | _, _ => pure ()

def warpMeshOp (t : Nat) : M Unit := do
  let s ← getS
  match s.task t with
  | none => pure ()
  | some k =>
    let p := k.params
    let src : State → List Ten → Source := fun s ts => match tenAt ts 1 with
      | some m => meshSource s k.handle m (meshGrid p)
      | none => fun _ _ => none
    warpOp t (leAt p 1 1 == 1) (leAt p 2 1) false src (meshReads (meshGrid p))

def warpHomogOp (t : Nat) : M Unit := do
  let s ← getS
  match s.task t with
  | none => pure ()
  | some k => warpOp t (leAt k.params 36 1 == 1) (leAt k.params 37 1) true (fun _ _ => homogSource k.params) fun _ => []

def execPyrBuild (engine : Nat) (s : State) : Host.Outcome State Fault Refusal := opCommand engine 0x501 pyrBuildOp s
def execPyrLaplace (engine : Nat) (s : State) : Host.Outcome State Fault Refusal := opCommand engine 0x502 pyrLaplaceOp s
def execWarpMesh (engine : Nat) (s : State) : Host.Outcome State Fault Refusal := opCommand engine 0x503 warpMeshOp s
def execWarpHomog (engine : Nat) (s : State) : Host.Outcome State Fault Refusal := opCommand engine 0x504 warpHomogOp s

end Sys2Proof.Machine
end

