-- ==== Sys2Proof/Machine/Dfe.lean ====
section
/-! DEFINITION. The digital front end: symbols at its input and output, DFE_DDC and DFE_DUC (R378, R379, R383–R386), and JESD204C links
(R380–R382). -/

namespace Sys2Proof.Machine

open Sys2Proof

/-! ## JESD204C -/

/-- SYSREF_EDGE (R382): every enabled link aligns its counters; a link that was not in the data state enters it with the latency measured,
event 0xAC01. -/
def sysrefEdge : M Unit := do
  let s ← getS
  modRadio fun r => { r with sysref := s.sysrefAt }
  for l in List.range 8 do
    if s.linkOn l && s.linkState l != 2 then
      let lat := Config.jesdLatency l (s.fld (Reg.jesdCtl l) Fld.jesdCtlRbd) % 2 ^ 24
      if s.linkState l = 1 then bump (Reg.jesdErr l) Fld.jesdErrResync 1
      wrFld (Reg.jesdStatus l) Fld.jesdStatusLat lat
      wrFld (Reg.jesdStatus l) Fld.jesdStatusState 2
      raise 0xB3 5 0xAC01 (det [(1, l), (1, s.linkLanes l), (4, lat)])

def execSysrefEdge (s : State) : Host.Outcome State Fault Refusal :=
  whenEnabled (fun s => decide (s.radio.sysref < s.sysrefAt) && !s.fenced 5) sysrefEdge s

/-- JESD_LINK_ERROR (R382): a link in the data state loses sync, or raises a CRC-12 error. -/
def execJesdLinkError (link : Nat) (sync : Bool) (s : State) : Host.Outcome State Fault Refusal :=
  whenEnabled (fun s => link < 8 && s.linkOn link && s.linkState link == 2)
    (do
      if !sync then bump (Reg.jesdErr link) Fld.jesdErrCrc 1
      linkLost link (if sync then 0 else 1)) s

/-! ## Which symbols a task holds (R386, R402) -/

/-- A radio parameter block's carrier, first symbol, symbol count, slot mode, slot: DFE at bytes 0–7, fronthaul at 4, 5, 16–20. -/
structure Span where
  car : Nat
  l0 : Nat
  count : Nat
  mode : Nat
  slot : Nat

def dfeSpan (p : List Byte) : Span := ⟨leAt p 0 1, leAt p 1 1, leAt p 2 1 + 1, leAt p 3 1, leAt p 4 4⟩
def fhSpan (p : List Byte) : Span := ⟨leAt p 4 1, leAt p 5 1 % 16, leAt p 5 1 / 16 + 1, leAt p 20 1, leAt p 16 4⟩

/-- Whether a task belongs to a slot-graph instance (R386). -/
def State.inSlotInstance (s : State) (k : Task) : Bool :=
  match k.origin with
  | .inst g _ _ => ((tblFind s.tally.graphs g).map fun x => x.cadence == 2).getD false
  | .enq _ _ => false

/-- The slot of a task since the GPS epoch: the air slot of its instance, or the slot nearest to now that has the given low 32 bits. -/
def State.taskSlot (s : State) (k : Task) (sp : Span) : Nat :=
  if sp.mode = 1 then
    let air := ((k.inst.bind fun i => tblFind s.tally.instances i).map (·.air)).getD 0
    ((s.symAt sp.car 0 air).map fun x => (s.slotOf sp.car x).1).getD 0
  else
    let cur := ((s.symAt sp.car 0 s.clock.now).map fun x => (s.slotOf sp.car x).1).getD 0
    ((cur : Int) + signed 32 (sp.slot + 2 ^ 32 - cur % 2 ^ 32)).toNat

/-- Symbol i of a task, as millisecond and symbol of the subframe. -/
def State.taskSym (s : State) (k : Task) (sp : Span) (i : Nat) : Nat × Nat :=
  let x := s.taskSlot k sp
  let per := 2 ^ s.carMu sp.car
  (gpsEpoch * 1000 + x / per, x % per * 14 + sp.l0 + i)

/-- The index in a task of a symbol, if the task holds it. -/
def State.holds (s : State) (k : Task) (sp : Span) (x : Nat × Nat) : Option Nat :=
  (List.range sp.count).find? fun i => s.taskSym k sp i == x

/-- The task in a stall, where its descriptors have been read or its parameter block can be. -/
def State.stallTask (s : State) (t : Option Nat) : Option (Nat × Task × List Byte) :=
  match t with
  | none => none
  | some t => match s.task t with
    | none => none
    | some k => some (t, k, if k.fetched then k.params else ((s.peek k.handle (dParam k.desc) 128).getD []))

/-- The task of a channel's running stall that holds a symbol, and the one waiting that does: (task, record, parameters, index). -/
def State.holder (s : State) (t : Option Nat) (c : Nat) (x : Nat × Nat) : Option (Nat × Task × List Byte × Nat) :=
  match s.stallTask t with
  | none => none
  | some (t, k, p) =>
    let sp := dfeSpan p
    if sp.car = c then (s.holds k sp x).map fun i => (t, k, p, i) else none

/-! ## Filters (R384, R385) -/

/-- Half-band taps at odd offsets 1, 3, …, 11 (S1.17). -/
def halfTaps : List Int := [41418, -12648, 6357, -3316, 1625, -668]

/-- The half-band tap at an offset. -/
def halfTap (o : Nat) : Int := if o = 0 then 65536 else if o % 2 = 1 then halfTaps.getD (o / 2) 0 else 0

/-- One decimating stage: the input reaches 11 samples beyond the span of the output at both ends. -/
def decimate (x : List (Int × Int)) : List (Int × Int) × Nat :=
  let a := x.toArray
  gather ((List.range ((x.length - 22) / 2)).map fun m =>
    roundZ 17 (csumZ ((List.range 23).map fun (o : Nat) =>
      let h := halfTap (if 11 ≤ o then o - 11 else 11 - o)
      let v := a.getD (2 * m + o) (0, 0)
      (h * v.1, h * v.2))))

/-- One interpolating stage: input and output reach 11 samples beyond the span. -/
def interpolate (x : List (Int × Int)) : List (Int × Int) × Nat :=
  let a := x.toArray
  let n := x.length - 22
  gather ((List.range (2 * n + 22)).map fun j =>
    -- output position i = j − 11; the input position i/2 stands at index 11 + i/2
    roundZ 17 (csumZ ((List.range 23).map fun (o : Nat) =>
      let q : Int := (j : Int) - 11 + o - 11
      if q % 2 = 0 then
        let h := 2 * halfTap (if 11 ≤ o then o - 11 else 11 - o)
        let v := a.getD (q / 2 + 11).toNat (0, 0)
        (h * v.1, h * v.2)
      else (0, 0))))

/-- Some number of stages, saturations summed. -/
def stages (f : List (Int × Int) → List (Int × Int) × Nat) : Nat → List (Int × Int) → List (Int × Int) × Nat
  | 0, x => (x, 0)
  | n + 1, x =>
    let y := f x
    let z := stages f n y.1
    (z.1, y.2 + z.2)

/-- The 47-tap channel filter; the input reaches 23 samples beyond the output at both ends. -/
def channelFilter (h : List Int) (x : List (Int × Int)) : List (Int × Int) × Nat :=
  let a := x.toArray
  gather ((List.range (x.length - 46)).map fun n =>
    roundZ 15 (csumZ ((List.range 47).map fun o =>
      let c := h.getD (if o ≤ 23 then o else 46 - o) 0
      let v := a.getD (n + o) (0, 0)
      (c * v.1, c * v.2))))

/-- Gain in U2.14. -/
def applyGain (g : Nat) (x : List (Int × Int)) : List (Int × Int) × Nat :=
  gather (x.map fun v => roundZ 14 (g * v.1, g * v.2))

/-- A rotation by a constant. -/
def rotate (w : Int × Int) (x : List (Int × Int)) : List (Int × Int) × Nat := gather (x.map fun v => roundZ 15 (cmulZ v w))

/-- The taps h[0..23] of a parameter block. -/
def dfeTaps (p : List Byte) : List Int := (List.range 24).map fun i => signed 16 (leAt p (32 + 2 * i) 2)

/-- e^(jθ) of the phase compensation of a symbol (R384 step 5). -/
def State.phaseOf (s : State) (c l : Nat) : Int × Int :=
  let n := (symOffset (s.carNfft c) (s.carMu c) l + cpLen (s.carNfft c) (s.carMu c) l) * s.carStep c
  ncoAt (s.fld (Reg.dfeNco c) Fld.dfeNcoF0 * n % 65536 / 4)

/-- e^(jφ) of a carrier's NCO at a sample of 491.52 MHz of its second (R384 step 1). -/
def State.ncoPhase (s : State) (c idx : Nat) : Int × Int :=
  ncoAt (s.fld (Reg.dfeNco c) Fld.dfeNcoNco * (idx % 491520000) % 2 ^ 32 / 2 ^ 18)

/-- How many 491.52 MHz samples one stream sample of a carrier spans. -/
def State.streamStep (s : State) (tx : Bool) (c : Nat) : Nat := 4 * s.carStep c / max 1 (s.carDecim tx c)

/-- Stream samples beyond a symbol's span that its filters reach. -/
def reach (d : Nat) : Nat := 23 * d + 11 * (d - 1)

/-- Samples of a symbol with its prefix. -/
def State.symLen (s : State) (c : Nat) (x : Nat × Nat) : Nat := s.carNfft c + cpLen (s.carNfft c) (s.carMu c) x.2

/-- One stream of one symbol through R384: its CI16 samples and the saturations. -/
def State.downConvert (s : State) (c : Nat) (x : Nat × Nat) (p : List Byte) (inp : List (Int × Int)) : List Nat × Nat :=
  let d := s.carDecim false c
  let step := s.streamStep false c
  let start := x.1 / 1000 * 491520000 + 4 * s.symSamples c x.1 x.2
  let mixed := gather (inp.zipIdx.map fun v =>
    roundZ 15 (cmulZ v.1 (conjZ (s.ncoPhase c (start + v.2 * step - reach d * step)))))
  let y := stages decimate (Nat.log2 d) mixed.1
  let f := channelFilter (dfeTaps p) y.1
  let g := applyGain (leAt p 8 2) f.1
  let r := rotate (conjZ (s.phaseOf c x.2)) g.1
  (r.1.map toCi16, mixed.2 + y.2 + f.2 + g.2 + r.2)

/-! ## Symbols at the DFE input (R378, R383) -/

/-- Event 0x4C03 or 0x4C04 of a task's symbol (R410), and the symbol counted as zeros. -/
def zeroSymbol (t : Nat) (k : Task) (c l code : Nat) (tx : Bool) : M Unit := do
  bump (Reg.dfeCnt c) (if tx then Fld.dfeCntTxZero else Fld.dfeCntRxZero) 1
  settleAll (← raiseFor t 0x31 5 code (taskDetail [(1, c), (1, l)] k 0xFF))

/-- The samples of one stream as they reach DFE: those of a link out of the data state are zeros, 12-bit ones have four zero low bits. -/
def State.linkSamples (s : State) (stream : Nat) (bs : List Byte) : List (Int × Int) × Bool :=
  let n := bs.length / 4
  match s.linkFor false stream with
  | none => (List.replicate n (0, 0), true)
  | some l =>
    if s.linkState l ≠ 2 then (List.replicate n (0, 0), true)
    else
      let cut : Int → Int := fun v => if s.flag (Reg.jesdCtl l) Fld.jesdCtlN12 then v / 16 * 16 else v
      ((List.range n).map fun i =>
        let z := ofCi16 (leAt bs (4 * i) 4)
        (cut z.1, cut z.2), false)

/-- Bytes of one stream of a symbol at the DFE input. -/
def State.inputBytes (s : State) (c : Nat) (x : Nat × Nat) : Nat :=
  let d := s.carDecim false c
  4 * (s.symLen c x * d + 2 * reach d)

/-- The symbol of a receive carrier that is due at the DFE input. -/
def State.rxDue (s : State) (c : Nat) : Option (Nat × Nat) :=
  if !s.flag (Reg.dfeCfg c) Fld.dfeCfgRxEn || 12 ≤ c then none
  else (s.symAt c (s.rxShift c) s.clock.now).filter fun x =>
    match tblFind s.radio.rxAt c with
    | some t => t < s.symStamp c x.1 x.2
    | none => true

/-- SYMBOL_BOUNDARY (R378, R383, R384): the symbol that has begun at the DFE input, with the stream samples that its filters reach; the running
task that holds it takes it, one that only waits loses it. -/
def symbolBoundary (c : Nat) (samples : List Byte) : M Unit := do
  let s ← getS
  match s.rxDue c with
  | none => pure ()
  | some x => do
    let n := s.inputBytes c x
    let ins := (List.range (s.carStreams c)).map fun a => s.linkSamples (s.carFirst c + a) ((samples.drop (a * n)).take n)
    modRadio fun r => { r with
      rxAt := tblSet r.rxAt c (s.symStamp c x.1 x.2)
      rx := r.rx.filter fun e => (s.task e.task).isSome }
    let g := s.engine (0x200 + c)
    match s.holder (g.running.filter fun t => ((s.task t).map (·.fetched)).getD false) c x with
    | some (t, _, p, i) => do
      let out := ins.map fun v => s.downConvert c x p v.1
      bump (Reg.rdSat 1) Fld.rdSatCount (out.foldl (fun m v => m + v.2) 0)
      if ins.any (·.2) then bump (Reg.dfeCnt c) Fld.dfeCntRxZero 1
      modRadio fun r => { r with rx := r.rx ++ [⟨t, i, s.clock.now, out.map (·.1)⟩] }
    | none =>
      match s.holder g.next c x with
      | some (t, k, _, i) => do
        zeroSymbol t k c (x.2 % 14) 0x4C03 false
        modRadio fun r => { r with rx := r.rx ++ [⟨t, i, s.clock.now, []⟩] }
      | none => if ins.any (·.2) then bump (Reg.dfeCnt c) Fld.dfeCntRxZero 1

def execSymbolBoundary (carrier : Nat) (samples : List Byte) (s : State) : Host.Outcome State Fault Refusal :=
  whenEnabled (fun s => match s.rxDue carrier with
      | some x => samples.length == s.carStreams carrier * s.inputBytes carrier x
      | none => false) (symbolBoundary carrier samples) s

/-! ## DFE_DDC (R384, R386) -/

/-- Checks of the parameter block of R386. -/
def checkDfe (s : State) (k : Task) (p : List Byte) (tx : Bool) : List (Nat × Nat) :=
  let sp := dfeSpan p
  bad [(11 < sp.car, 0xFE, 0), (13 < sp.l0, 0xFE, 1), (14 < sp.l0 + sp.count, 0xFE, 2),
    (1 < sp.mode || (sp.mode == 1 && !s.inSlotInstance k), 0xFE, 3), (sp.mode == 1 && sp.slot != 0, 0xFE, 4),
    (if tx then leAt p 10 2 == 0 || 32767 < leAt p 10 2 else leAt p 10 2 != 0, 0xFE, 10)]
  ++ wantZero p [(12, 20), (80, 48)]

/-- A tensor of the symbols of R386: CI16, (139 nfft / 128, streams, symbols). -/
def wantSymbols (s : State) (c n : Nat) (o : Ten) : List (Nat × Nat) :=
  wantType o (· == 0x11) ++ noScale o ++ bad [(o.ndim != 3, o.slot, 7)]
    ++ wantExt o 0 (139 * s.carNfft c / 128) ++ wantExt o 1 (s.carStreams c) ++ wantExt o 2 n

def checkDdc (s : State) (k : Task) (p : List Byte) (ts : List Ten) : List (Nat × Nat) :=
  checkDfe s k p false ++ (match tenAt ts 8 with
    | some o => wantSymbols s (leAt p 0 1) (leAt p 2 1 + 1) o
    | none => [])

def checkDuc (s : State) (k : Task) (p : List Byte) (ts : List Ten) : List (Nat × Nat) :=
  checkDfe s k p true ++ (match tenAt ts 0 with
    | some o => wantSymbols s (leAt p 0 1) (leAt p 2 1 + 1) o
    | none => [])

/-- What became of symbol i of a task in its current run. -/
def recOf (l : List SymRec) (t i : Nat) (k : Task) : Option SymRec :=
  l.find? fun r => r.task == t && r.index == i && (r.data.isEmpty || k.runAt ≤ r.stamp)

/-- Whether the last symbol of a task has passed the DFE input. -/
def State.symbolsOver (s : State) (k : Task) (sp : Span) : Bool :=
  let x := s.nextSym sp.car (s.taskSym k sp (sp.count - 1))
  s.symStamp sp.car x.1 x.2 + s.rxShift sp.car ≤ s.clock.now

/-- Symbols of a task of which nothing is recorded. -/
def unseen (l : List SymRec) (t : Nat) (k : Task) (n : Nat) : List Nat :=
  (List.range n).filter fun i => (recOf l t i k).isNone

def ddcPlan (t : Nat) (k : Task) (sp : Span) (s : State) (ts : List Ten) : Plan :=
  match tenAt ts 8 with
  | none => ⟨[], [], []⟩
  | some _ =>
    ⟨[], [], (List.range sp.count).flatMap fun i =>
      let data := ((recOf s.radio.rx t i k).map (·.data)).getD []
      (List.range (s.carStreams sp.car)).flatMap fun a =>
        (List.range (s.symLen sp.car (s.taskSym k sp i))).map fun n =>
          ⟨8, [n, a, i, 0, 0, 0], ((data.getD a []).getD n 0), false, none⟩⟩

/-- DFE_DDC: once its symbols are over, their samples are written; symbols that went by before the task ran are zeros (R383). -/
def dfeDdc (t : Nat) : M Unit := do
  let s ← getS
  match s.task t with
  | none => pure ()
  | some k => do
    let sp := dfeSpan k.params
    for i in unseen s.radio.rx t k sp.count do zeroSymbol t k sp.car (sp.l0 + i) 0x4C03 false
    bump (Reg.rdWork 1) Fld.rdWorkCount
      (s.carStreams sp.car * (List.range sp.count).foldl (fun n i => n + s.symLen sp.car (s.taskSym k sp i)) 0)
    runPlan t .none false (ddcPlan t k sp)
    modRadio fun r => { r with rx := r.rx.filter fun e => e.task != t }

def execDfeDdc (engine : Nat) (s : State) : Host.Outcome State Fault Refusal :=
  whenEnabled (fun s => match (s.opTask engine 0x600).bind s.task with
      | some k => s.symbolsOver k (dfeSpan k.params)
      | none => false) (do
    let s ← getS
    match s.opTask engine 0x600 with
    | some t => dfeDdc t
    | none => pure ()) s

/-! ## Launch (R378, R379, R385) -/

/-- The symbol of a transmit carrier whose launch instant has come. -/
def State.txDue (s : State) (c : Nat) : Option (Nat × Nat) :=
  if !s.flag (Reg.dfeCfg c) Fld.dfeCfgTxEn || 12 ≤ c then none
  else (s.symAt c (-(s.txLead c : Int)) s.clock.now).filter fun x =>
    match tblFind s.radio.txAt c with
    | some t => t < s.symStamp c x.1 x.2
    | none => true

/-- When the band of symbol i of a task's input was filled: the fill stamp of a ring band, or the stamp at which all its inputs were there. -/
def State.bandStamp (s : State) (k : Task) (i : Nat) : Option Nat :=
  match k.rings.find? fun r => r.1 == 0 with
  | some (_, key) => (s.ring key).stamps[i]?
  | none => some k.readyAt

/-- An operand as memory holds it, apart from the bands its streamer has already used. -/
def Ten.liveBand (t : Ten) (j : Nat) : Ten := if t.bands.any fun b => b.1 == j then t else { t with slot := 8 + t.slot }

/-- The samples of one stream of symbol i of a transmit task. -/
def State.txInput (s : State) (k : Task) (len a i : Nat) : List (Int × Int) :=
  match s.operand k 0 with
  | none => List.replicate len (0, 0)
  | some t => (List.range len).map fun n =>
    ofCi16 ((t.liveBand i).code s k.handle [(n : Int), (a : Int), (i : Int), 0, 0, 0])

/-- A launched symbol's samples at an index of its carrier's rate; 0 where no symbol reaches. -/
def txAtIdx (l : List TxSym) (a i : Nat) : Int × Int :=
  match l.reverse.find? fun x => x.start ≤ i && i < x.start + ((x.data.getD 0 []).length) with
  | some x => (x.data.getD a []).getD (i - x.start) (0, 0)
  | none => (0, 0)

/-- One stream of a launched symbol through the channel filter, interpolation and NCO (R385). -/
def State.upConvert (s : State) (c : Nat) (l : List TxSym) (x : TxSym) (a : Nat) : List (Int × Int) × Nat :=
  let n := (x.data.getD 0 []).length
  let d := s.carDecim true c
  let step := s.streamStep true c
  let win := (List.range (n + 68)).map fun i => if x.start + i < 34 then (0, 0) else txAtIdx l a (x.start + i - 34)
  let f := channelFilter x.taps win
  let y := stages interpolate (Nat.log2 d) f.1
  let z := (y.1.drop 11).take (n * d)
  let m := gather (z.zipIdx.map fun v => roundZ 15 (cmulZ v.1 (s.ncoPhase c (x.start * d * step + v.2 * step))))
  (m.1, f.2 + y.2 + m.2)

/-- Crest-factor reduction (R385): above the threshold both components shrink by cr(thr / √(i² + q²)) in FP32. -/
def crest (thr : Nat) (z : Int × Int) : (Int × Int) × Nat :=
  let p : Nat := (z.1 * z.1 + z.2 * z.2).toNat
  if thr = 0 ∨ p ≤ thr * thr then (z, 0)
  else
    let n := thr * thr * 2 ^ 128
    let r := isqrt (n / p)
    let f := round32 false (2 * r + flagBit (r * r * p != n)) (-65) false
    let g : Int → Int := fun v => ((fMul (ofInt v) f).toInt).getD 0
    ((g z.1, g z.2), 1)

/-- The value a carrier's segments give a stream at a 491.52 MHz grid index, and the threshold there. -/
def segAt (l : List TxSeg) (a i : Nat) : Option ((Int × Int) × Nat) :=
  (l.find? fun x => x.start ≤ i && i < x.start + ((x.data.getD 0 []).length)).map fun x =>
    ((x.data.getD a []).getD (i - x.start) (0, 0), x.thr)

/-- The index behind the last sample of some segments. -/
def segEnd (l : List TxSeg) : Nat := (l.getLast?.map fun x => x.start + ((x.data.getD 0 []).length)).getD 0

/-- Transmit carriers that send a stream. -/
def State.sharing (s : State) (st : Nat) : List Nat :=
  (List.range 12).filter fun c => s.flag (Reg.dfeCfg c) Fld.dfeCfgTxEn && s.carFirst c ≤ st && st < s.carFirst c + s.carStreams c

/-- Send what every carrier of a stream has formed (R385): the sum with saturation, then crest-factor reduction. -/
def emitStream (st : Nat) : M Unit := do
  let s ← getS
  let cs := s.sharing st
  let segs : Nat → List TxSeg := fun c => tblGet s.radio.segs [] c
  if cs.all fun c => !(segs c).isEmpty then
    let lo := match tblFind s.radio.left st with
      | some i => i
      | none => cs.foldl (fun m c => min m (((segs c).head?.map (·.start)).getD m)) (2 ^ 64)
    let hi := cs.foldl (fun m c => min m (segEnd (segs c))) (2 ^ 64)
    let out := gather ((List.range (hi - lo)).map fun i =>
      let vs := cs.filterMap fun c => segAt (segs c) (st - s.carFirst c) (lo + i)
      let sum := csumZ (vs.map (·.1))
      let sat := roundZ 0 sum
      let thr := ((vs.filter fun v => v.2 != 0).head?.map (·.2)).getD 0
      let z := crest thr sat.1
      (z.1, sat.2 + z.2))
    if lo < hi then
      bump (Reg.rdSat 1) Fld.rdSatCount out.2
      modRadio fun r => { r with left := tblSet r.left st hi }
      update (.sent (· ++ [(0xB3, leBytes 1 st ++ leBytes 8 lo ++ out.1.flatMap fun z => leBytes 4 (toCi16 z))]))

/-- Launch a symbol's samples: the symbol before it now has all that its filters reach, and leaves for the sum. -/
def launchSamples (c : Nat) (y : TxSym) : M Unit := do
  let s ← getS
  let old := tblGet s.radio.tx [] c
  let all := old ++ [y]
  let rate := s.carDecim true c
  match old.getLast? with
  | none => modRadio fun r => { r with tx := tblSet r.tx c all }
  | some x => do
    let outs := (List.range (s.carStreams c)).map fun a => s.upConvert c all x a
    bump (Reg.rdSat 1) Fld.rdSatCount (outs.foldl (fun n o => n + o.2) 0)
    bump (Reg.rdWork 1) Fld.rdWorkCount (s.carStreams c * ((x.data.getD 0 []).length))
    let seg : TxSeg := ⟨x.start * rate, outs.map (·.1), x.thr⟩
    modRadio fun r => { r with
      tx := tblSet r.tx c (all.drop (all.length - 3))
      segs := tblSet r.segs c (tblGet r.segs [] c ++ [seg]) }
    for a in List.range (s.carStreams c) do emitStream (s.carFirst c + a)
    let s ← getS
    let low := (List.range' (s.carFirst c) (s.carStreams c)).foldl (fun m st => min m ((tblFind s.radio.left st).getD 0)) (2 ^ 64)
    modRadio fun r => { r with segs := tblSet r.segs c ((tblGet r.segs [] c).filter fun g => low < segEnd [g]) }

/-- Whether transmission is held for the time state (R379), with event 0x4C05 once per change of state. -/
def heldForTime : M Bool := do
  let s ← getS
  let st := s.fld Reg.timeStatus Fld.timeStatusState
  if st = 2 ∨ st = 3 then return false
  else do
    if !s.radio.held then
      modRadio fun r => { r with held := true }
      raise 0x31 5 0x4C05 (det [(1, st)])
    return true

/-- SYMBOL_LAUNCH (R378, R379, R383, R385). -/
def symbolLaunch (c : Nat) : M Unit := do
  let s ← getS
  match s.txDue c with
  | none => pure ()
  | some x => do
    let at_ := s.symStamp c x.1 x.2 - s.txLead c
    let len := s.symLen c x
    let start := x.1 / 1000 * s.carRate c + s.symSamples c x.1 x.2 / max 1 (s.carStep c)
    let zero : TxSym := ⟨start, List.replicate (s.carStreams c) (List.replicate len (0, 0)), List.replicate 24 0, 0⟩
    modRadio fun r => { r with
      txAt := tblSet r.txAt c (s.symStamp c x.1 x.2)
      launched := r.launched.filter fun e => (s.task e.task).isSome }
    let g := s.engine (0x210 + c)
    let mark : Nat → Nat → List (List Nat) → M Unit := fun t i d =>
      modRadio fun r => { r with launched := r.launched ++ [⟨t, i, s.clock.now, d⟩] }
    match s.holder (g.running.filter fun t => ((s.task t).map (·.fetched)).getD false) c x with
    | some (t, k, p, i) => do
      if ← heldForTime then
        bump (Reg.dfeCnt c) Fld.dfeCntTxZero 1
        mark t i []
        launchSamples c zero
      else
        let inTime := match s.bandStamp k i with
          | some b => decide (b + usUnits 2 ≤ at_)
          | none => false
        if inTime then
          let ins := (List.range (s.carStreams c)).map fun a =>
            let r := rotate (s.phaseOf c x.2) (s.txInput k len a i)
            let y := applyGain (leAt p 8 2) r.1
            (y.1, r.2 + y.2)
          bump (Reg.rdSat 1) Fld.rdSatCount (ins.foldl (fun n v => n + v.2) 0)
          mark t i [[1]]
          launchSamples c ⟨start, ins.map (·.1), dfeTaps p, leAt p 10 2⟩
        else
          zeroSymbol t k c (x.2 % 14) 0x4C04 true
          mark t i []
          launchSamples c zero
    | none =>
      match s.holder g.next c x with
      | some (t, k, _, i) => do
        if ← heldForTime then bump (Reg.dfeCnt c) Fld.dfeCntTxZero 1
        else zeroSymbol t k c (x.2 % 14) 0x4C03 true
        mark t i []
        launchSamples c zero
      | none => launchSamples c zero

def execSymbolLaunch (carrier : Nat) (s : State) : Host.Outcome State Fault Refusal :=
  whenEnabled (fun s => (s.txDue carrier).isSome) (symbolLaunch carrier) s

/-! ## DFE_DUC (R385, R386) -/

/-- Whether the launch instants of all symbols of a task have passed. -/
def State.launchesOver (s : State) (k : Task) (sp : Span) : Bool :=
  let x := s.taskSym k sp (sp.count - 1)
  s.symStamp sp.car x.1 x.2 ≤ s.clock.now + s.txLead sp.car

/-- The elements of the symbols sent. -/
def ducPlan (t : Nat) (k : Task) (sp : Span) (s : State) (_ : List Ten) : Plan :=
  ⟨(List.range sp.count).flatMap fun i =>
      if ((recOf s.radio.launched t i k).map fun r => r.data.isEmpty).getD true then []
      else (List.range (s.carStreams sp.car)).flatMap fun a =>
        (List.range (s.symLen sp.car (s.taskSym k sp i))).map fun n => (0, [(n : Int), (a : Int), (i : Int), 0, 0, 0]),
    [], []⟩

/-- DFE_DUC: once its symbols have been launched, the task has done its work; symbols launched before it ran were zeros (R383). -/
def dfeDuc (t : Nat) : M Unit := do
  let s ← getS
  match s.task t with
  | none => pure ()
  | some k => do
    let sp := dfeSpan k.params
    for i in unseen s.radio.launched t k sp.count do zeroSymbol t k sp.car (sp.l0 + i) 0x4C03 true
    runPlan t .none false (ducPlan t k sp)
    modRadio fun r => { r with launched := r.launched.filter fun e => e.task != t }

def execDfeDuc (engine : Nat) (s : State) : Host.Outcome State Fault Refusal :=
  whenEnabled (fun s => match (s.opTask engine 0x601).bind s.task with
      | some k => s.launchesOver k (dfeSpan k.params)
      | none => false) (do
    let s ← getS
    match s.opTask engine 0x601 with
    | some t => dfeDuc t
    | none => pure ()) s

end Sys2Proof.Machine
end

