-- ==== Sys2Proof/Machine/FftOps.lean ====
section
/-! DEFINITION. FFT and IFFT (R387–R389) and PRACH_DETECT (R390, R391). -/

namespace Sys2Proof.Machine

open Sys2Proof

/-! ## Shared -/

/-- Count work and saturations at a radio engine (R406); a tile has no such counters. -/
def radioCount (t work sat : Nat) : M Unit := do
  let s ← getS
  let e := ((s.task t).map (·.engine)).getD 0
  if 0x30 ≤ e ∧ e ≤ 0x35 then
    bump (Reg.rdWork (e - 0x30)) Fld.rdWorkCount work
    bump (Reg.rdSat (e - 0x30)) Fld.rdSatCount sat

/-- A scales operand (R175, R176): INT8 exponents of 12-subcarrier blocks, laid out as a scale array. -/
def wantScales (o : Ten) (ext : Nat → Nat) : List (Nat × Nat) :=
  wantType o (· == 0x19) ++ wantExts o ext
    ++ bad [((List.range 5).any fun j => tdOrder o.td j != j, o.slot, 0x0E)]
    ++ (List.range 6).flatMap (fun k => bad [(tdTileLog2 o.td k != (if k = 0 then 6 else 0), o.slot, 0x35 + k / 2),
        (tdStLog2 o.td k != 0, o.slot, 0x38 + 3 * k / 8)])

/-- A values operand (R389): CI16, (12 P, streams, symbols), no scale array. -/
def wantValues (o : Ten) (prbs : Nat) : List (Nat × Nat) :=
  wantType o (· == 0x11) ++ noScale o ++ bad [(o.ndim != 3, o.slot, 7)] ++ wantExt o 0 (12 * prbs)

/-- A samples operand (R386, R389): CI16, (139 nfft / 128, streams, symbols). -/
def wantSamples (o : Ten) (nfft : Nat) : List (Nat × Nat) :=
  wantType o (· == 0x11) ++ noScale o ++ bad [(o.ndim != 3, o.slot, 7)] ++ wantExt o 0 (139 * nfft / 128)

/-- Checks of the parameter block of R389; the symbols of the task come from its tensors. -/
def checkFftParams (p : List Byte) (n : Nat) (inverse : Bool) : List (Nat × Nat) :=
  bad [(11 < leAt p 0 1, 0xFE, 0), (13 < leAt p 1 1 || 14 < leAt p 1 1 + n, 0xFE, 1),
    (if inverse then 15 < leAt p 2 1 else leAt p 2 1 != 0, 0xFE, 2)] ++ wantZero p [(3, 61)]

/-- Checks of FFT (R387–R389). -/
def checkFft (s : State) (p : List Byte) (ts : List Ten) : List (Nat × Nat) :=
  let c := leAt p 0 1
  match tenAt ts 0, tenAt ts 8, tenAt ts 9 with
  | some x, some v, some sc =>
    checkFftParams p (x.ext 2) false ++ wantSamples x (s.carNfft c) ++ wantValues v (s.carPrbs c)
    ++ wantExt v 1 (x.ext 1) ++ wantExt v 2 (x.ext 2)
    ++ wantScales sc (fun k => if k = 0 then s.carPrbs c else if k < 3 then x.ext k else 1)
  | _, _, _ => []

/-- Checks of IFFT (R388, R389). -/
def checkIfft (s : State) (p : List Byte) (ts : List Ten) : List (Nat × Nat) :=
  let c := leAt p 0 1
  match tenAt ts 0, tenAt ts 1, tenAt ts 8 with
  | some v, some sc, some x =>
    checkFftParams p (v.ext 2) true ++ wantValues v (s.carPrbs c)
    ++ wantScales sc (fun k => if k = 0 then s.carPrbs c else if k < 3 then v.ext k else 1)
    ++ wantSamples x (s.carNfft c) ++ wantExt x 1 (v.ext 1) ++ wantExt x 2 (v.ext 2)
  | _, _, _ => []

/-- The complex integer at an index of a CI16 operand. -/
def Ten.z (s : State) (h : Nat) (t : Ten) (i : List Int) : Int × Int := ofCi16 (t.code s h i)

/-- Σ x[n] W[(n k) mod N], exact (R387). -/
def dftBin (w : Array (Int × Int)) (x : Array (Int × Int)) (k : Nat) : Int × Int :=
  csumZ ((List.range x.size).map fun n => cmulZ (x.getD n (0, 0)) (w.getD (n * k % w.size) (0, 0)))

/-- The bin of a subcarrier (R387): (i − 6P) mod nfft. -/
def binOf (nfft prbs i : Nat) : Nat := (((i : Int) - 6 * prbs) % nfft).toNat

/-- The rows of an operand: (stream, symbol). -/
def rowsOf (t : Ten) : List (Nat × Nat) := (List.range (t.ext 2)).flatMap fun i => (List.range (t.ext 1)).map fun a => (a, i)

/-! ## FFT -/

/-- (A + 2^(14+s)) >> (15 + s), for s = −15 A itself (R388). -/
def scaleDown (s : Int) (a : Int) : Int := if s ≤ -15 then a else (a + 2 ^ (14 + s).toNat) / 2 ^ (15 + s).toNat

def fits16 (x : Int) : Bool := decide (-32768 ≤ x) && decide (x ≤ 32767)

/-- The scale of a PRB (R388): the least from −15 to 127 at which every component fits. -/
def prbScale (l : List (Int × Int)) : Int :=
  ((((List.range 143).map fun (i : Nat) => (i : Int) - 15).find? fun s =>
    l.all fun z => fits16 (scaleDown s z.1) && fits16 (scaleDown s z.2)).getD 127)

def fftPlan (h : Nat) (p : List Byte) (s : State) (ts : List Ten) : Plan :=
  match tenAt ts 0 with
  | none => ⟨[], [], []⟩
  | some x =>
    let c := leAt p 0 1
    let n := s.carNfft c
    let prbs := s.carPrbs c
    let w := twiddles n
    let at_ : Nat → Nat → Nat → List Int := fun a i k => [(k : Int), (a : Int), (i : Int), 0, 0, 0]
    let cp : Nat → Nat := fun i => cpLen n (s.carMu c) (leAt p 1 1 + i)
    ⟨(rowsOf x).flatMap fun r => (List.range n).map fun k => (0, at_ r.1 r.2 (cp r.2 + k)), [],
     (rowsOf x).flatMap fun r =>
      let row := ((List.range n).map fun k => x.z s h (at_ r.1 r.2 (cp r.2 + k))).toArray
      (List.range prbs).flatMap fun b =>
        let as := (List.range 12).map fun j => dftBin w row (binOf n prbs (12 * b + j))
        let sc := prbScale as
        (as.zipIdx.map fun z =>
          (⟨8, [12 * b + z.2, r.1, r.2, 0, 0, 0], toCi16 (scaleDown sc z.1.1, scaleDown sc z.1.2), false, none⟩ : OutW))
        ++ [⟨9, [b, r.1, r.2, 0, 0, 0], unsigned 8 sc, false, none⟩]⟩

/-- FFT. -/
def fftOp (t : Nat) : M Unit := do
  let s ← getS
  match s.task t with
  | none => pure ()
  | some k => runPlanWith t .none false (fftPlan k.handle k.params) (fun _ _ => ([], 0)) fun out =>
      radioCount t ((out.filter fun w => w.slot == 8).length) 0

def execFft (engine : Nat) (s : State) : Host.Outcome State Fault Refusal := opCommand engine 0x602 fftOp s

/-! ## IFFT -/

/-- A scale clamped to −15 … 31, and whether it was outside (R388). -/
def clampScale (s : Int) : Int × Nat := if s < -15 then (-15, 1) else if 31 < s then (31, 1) else (s, 0)

/-- The samples of one row, CP first, and the saturations. -/
def ifftRow (n prbs cp g : Nat) (w : Array (Int × Int)) (v : List ((Int × Int) × Int)) : List (Int × Int) × Nat :=
  let x := v.zipIdx.map fun z => (binOf n prbs z.2, (z.1.1.1 * 2 ^ (z.1.2 + 15).toNat, z.1.1.2 * 2 ^ (z.1.2 + 15).toNat))
  let y := gather ((List.range n).map fun m =>
    roundZ (30 + g) (csumZ (x.map fun b => cmulZ b.2 (conjZ (w.getD (m * b.1 % n) (0, 0))))))
  (y.1.drop (n - cp) ++ y.1, y.2)

/-- Values with their clamped scales, and the scales clamped, of one row. -/
def ifftInput (s : State) (h : Nat) (v sc : Ten) (prbs : Nat) (r : Nat × Nat) : List ((Int × Int) × Int) × Nat :=
  let scs := (List.range prbs).map fun b => clampScale (signed 8 (sc.code s h [(b : Int), (r.1 : Int), (r.2 : Int), 0, 0, 0]))
  ((List.range (12 * prbs)).map fun (i : Nat) =>
    (v.z s h [(i : Int), (r.1 : Int), (r.2 : Int), 0, 0, 0], (scs.getD (i / 12) (0, 0)).1), scs.foldl (fun n x => n + x.2) 0)

/-- The rows of an IFFT: (stream, symbol), samples, saturations and clamped scales. -/
def ifftRows (h : Nat) (p : List Byte) (s : State) (ts : List Ten) : List ((Nat × Nat) × List (Int × Int) × Nat) :=
  match tenAt ts 0, tenAt ts 1 with
  | some v, some sc =>
    let c := leAt p 0 1
    let n := s.carNfft c
    let w := twiddles n
    (rowsOf v).map fun r =>
      let x := ifftInput s h v sc (s.carPrbs c) r
      let y := ifftRow n (s.carPrbs c) (cpLen n (s.carMu c) (leAt p 1 1 + r.2)) (leAt p 2 1) w x.1
      (r, y.1, x.2 + y.2)
  | _, _ => []

def ifftPlan (h : Nat) (p : List Byte) (s : State) (ts : List Ten) : Plan :=
  let all : Nat → List (Nat × List Int) := fun sl => ((tenAt ts sl).map fun t => t.indices.map fun i => (sl, toInts i)).getD []
  ⟨all 0 ++ all 1, [], (ifftRows h p s ts).flatMap fun r =>
    r.2.1.zipIdx.map fun z => ⟨8, [z.2, r.1.1, r.1.2, 0, 0, 0], toCi16 z.1, false, none⟩⟩

/-- IFFT. -/
def ifftOp (t : Nat) : M Unit := do
  let s ← getS
  match s.task t with
  | none => pure ()
  | some k => do
    let sat := (ifftRows k.handle k.params s (s.operands k)).foldl (fun n r => n + r.2.2) 0
    runPlanWith t .none false (ifftPlan k.handle k.params) (fun _ _ => ([], 0)) fun out => radioCount t out.length sat

def execIfft (engine : Nat) (s : State) : Host.Outcome State Fault Refusal := opCommand engine 0x603 ifftOp s

/-! ## PRACH_DETECT -/

/-- Length of the sequence of a format, and of its inverse transform (R390, R391). -/
def prachLen (format : Nat) : Nat := if format = 0 then 839 else 139
def prachPoints (format : Nat) : Nat := if format = 0 then 1024 else 256

/-- Samples of one occasion without its prefix: fs over the PRACH subcarrier spacing, 1.25 kHz for format 0, else the carrier's. -/
def State.prachSamples (s : State) (c format : Nat) : Nat := if format = 0 then s.carRate c / 1250 else s.carNfft c

/-- Checks of PRACH_DETECT (R391). -/
def checkPrach (s : State) (p : List Byte) (ts : List Ten) : List (Nat × Nat) :=
  let f := leAt p 1 1
  let roots := prachLen f - 1
  bad [(11 < leAt p 0 1, 0xFE, 0), (5 < f, 0xFE, 1), (roots ≤ leAt p 4 2, 0xFE, 4), (63 < leAt p 6 1 || roots ≤ leAt p 4 2 + leAt p 6 1, 0xFE, 6),
    (prachLen f / 2 < leAt p 8 2, 0xFE, 8)] ++ wantZero p [(7, 1), (12, 52)]
  ++ (match tenAt ts 0 with
      | some x => wantType x (· == 0x11) ++ noScale x ++ bad [(x.ndim != 3, 0, 7), (x.ext 0 < s.prachSamples (leAt p 0 1) f, 0, 0x14)]
      | none => [])
  ++ (match tenAt ts 8 with
      | some o => wantType o (· == 3) ++ bad [(o.ndim != 1, 8, 7)] ++ noScale o
      | none => [])

/-- The sequence of a root on its subcarriers, of unit magnitude, quantized like W (TS 38.211 clause 6.3.3.1): the DFT of
e^(−jπ u m (m+1) / L) over √L. -/
def zcSequence (len u : Nat) : List (Int × Int) :=
  let root : Int := isqrt (len * 2 ^ 80)
  (List.range len).map fun n =>
    let term : Nat → Nat := fun m => (u * m * (m + 1) + 2 * m * n) % (2 * len)
    let re := (List.range len).foldl (fun a m => a + cosFix (term m) (2 * len)) 0
    let im := (List.range len).foldl (fun a m => a - cosFix (4 * term m + 3 * (2 * len)) (4 * (2 * len))) 0
    (roundQ15 (re * 2 ^ 40 / root), roundQ15 (im * 2 ^ 40 / root))

/-- One row of an occasion behind its prefix, shifted so that the lowest PRACH subcarrier stands at 0. -/
def prachShift (s : State) (c : Nat) (off : Int) (x : List (Int × Int)) : Array (Int × Int) :=
  let step : Nat := ((off - 6 * s.carPrbs c) * (2 ^ 32 / max 1 (s.carNfft c))  % 2 ^ 32).toNat
  (x.zipIdx.map fun v => (roundZ 15 (cmulZ v.1 (conjZ (ncoAt (v.2 * step % 2 ^ 32 / 2 ^ 18))))).1).toArray

/-- |value|² by τ of one row against one root. -/
def prachPower (points : Nat) (w : Array (Int × Int)) (spec zc : List (Int × Int)) : List Nat :=
  let z := (spec.zip zc).map fun v => cmulZ v.1 (conjZ v.2)
  (List.range points).map fun tau =>
    let v := csumZ (z.zipIdx.map fun b => cmulZ b.1 (conjZ (w.getD (b.2 * tau % points) (0, 0))))
    (v.1 * v.1 + v.2 * v.2).toNat

/-- The cyclic shifts of a root in the unrestricted set. -/
def prachShifts (len ncs : Nat) : List Nat := if ncs = 0 then [0] else (List.range (len / ncs)).map (· * ncs)

/-- The values of τ in the zone of a shift. -/
def prachZone (len points ncs shift : Nat) : List Nat :=
  (List.range points).filter fun tau => (tau * len / points + shift) % len < (if ncs = 0 then len else ncs)

/-- What PRACH_DETECT reports: by root N, and (preamble, τ, peak) in ascending order. -/
def prachReport (h : Nat) (p : List Byte) (s : State) (x : Ten) : List Nat × List (Nat × Nat × Nat) :=
  let c := leAt p 0 1
  let f := leAt p 1 1
  let len := prachLen f
  let points := prachPoints f
  let n := s.prachSamples c f
  let ncs := leAt p 8 2
  let wn := twiddles n
  let wp := twiddles points
  let specs := (rowsOf x).map fun r =>
    let row := (List.range n).map fun i => x.z s h [((x.ext 0 - n + i : Nat) : Int), (r.1 : Int), (r.2 : Int), 0, 0, 0]
    let y := prachShift s c (signed 16 (leAt p 2 2)) row
    (List.range len).map fun k => dftBin wn y k
  let roots := (List.range (leAt p 6 1 + 1)).map fun i =>
    let zc := zcSequence len (Config.prachRoot len (leAt p 4 2 + i))
    specs.foldl (fun (a : List Nat) sp => List.zipWith (· + ·) a (prachPower points wp sp zc)) (List.replicate points 0)
  let ns := roots.map fun pw => pw.foldl (· + ·) 0 / points
  let cand := ((roots.zip ns).flatMap fun r => (prachShifts len ncs).map fun sh => (r.1, r.2, sh)).take 64
  let found := cand.zipIdx.filterMap fun ((pw, avg, sh), i) =>
    let best := (prachZone len points ncs sh).foldl (fun (b : Option (Nat × Nat)) tau =>
      let v := pw.getD tau 0
      match b with
      | some (_, m) => if m < v then some (tau, v) else b
      | none => some (tau, v)) none
    best.bind fun b => if leAt p 10 2 * avg / 256 < b.2 then some (i, b.1, b.2) else none
  (ns, found)

/-- The bytes of a report (R390): the header's layout, and a peak that four bytes cannot hold, are open. -/
def prachBytes (now : Nat) (r : List Nat × List (Nat × Nat × Nat)) : List Byte :=
  let key := now :: r.2.length :: r.1
  let head := (List.range 60).map fun i => Config.prachHeader key i
  withCrc 60 head ++ r.2.flatMap fun d =>
    leBytes 1 d.1 ++ leBytes 1 0 ++ leBytes 2 d.2.1 ++ leBytes 4 (if d.2.2 < 2 ^ 32 then d.2.2 else Config.prachPeak d.2.2)

def prachPlan (h now : Nat) (p : List Byte) (s : State) (ts : List Ten) : Plan :=
  match tenAt ts 0 with
  | none => ⟨[], [], []⟩
  | some x =>
    let n := s.prachSamples (leAt p 0 1) (leAt p 1 1)
    ⟨(rowsOf x).flatMap fun r => (List.range n).map fun i => (0, [((x.ext 0 - n + i : Nat) : Int), (r.1 : Int), (r.2 : Int), 0, 0, 0]), [],
     (prachBytes now (prachReport h p s x)).zipIdx.map fun b => ⟨8, [b.2, 0, 0, 0, 0, 0], b.1.toNat, false, none⟩⟩

/-- PRACH_DETECT. -/
def prachDetect (t : Nat) : M Unit := do
  let s ← getS
  match s.task t with
  | none => pure ()
  | some k => runPlanWith t .none false (prachPlan k.handle s.clock.now k.params) (fun _ _ => ([], 0)) fun _ => radioCount t 1 0

def execPrachDetect (engine : Nat) (s : State) : Host.Outcome State Fault Refusal := opCommand engine 0x604 prachDetect s

end Sys2Proof.Machine
end

