-- ==== Sys2Proof/Machine/Coding.lean ====
section
/-! DEFINITION. Channel coding: LDPC_DECODE, LDPC_ENCODE, POLAR_ENCODE, POLAR_DECODE (R392–R396), to TS 38.212 (log entry 19). -/

namespace Sys2Proof.Machine

open Sys2Proof

/-! ## Bits and CRCs -/

/-- Bits of an operand of bytes: bit i in bit 7 − (i mod 8) of byte i div 8 (R395). -/
def inputBits (s : State) (h : Nat) (t : Ten) (n : Nat) : List Bool :=
  (List.range n).map fun i => bitAt (t.code s h [((i / 8 : Nat) : Int), 0, 0, 0, 0, 0]) (7 - i % 8)

/-- Bits packed the same way. -/
def packBits (l : List Bool) : List Byte :=
  (List.range ((l.length + 7) / 8)).map fun j =>
    BitVec.ofNat 8 ((List.range 8).foldl (fun n i => 2 * n + flagBit (l.getD (8 * j + i) false)) 0)

/-- Remainder of a bit string, most significant first, under a generator of a degree (TS 38.212 clause 5.1). -/
def crcBits (deg poly : Nat) (l : List Bool) : List Bool :=
  let r := l.foldl (fun (r : Nat) b =>
    let top := bitAt r (deg - 1) != b
    (r * 2 % 2 ^ deg) ^^^ (if top then poly else 0)) 0
  (List.range deg).map fun i => bitAt r (deg - 1 - i)

def crc24A (l : List Bool) : List Bool := crcBits 24 0x864CFB l
def crc24B (l : List Bool) : List Bool := crcBits 24 0x800063 l
def crc24C (l : List Bool) : List Bool := crcBits 24 0xB2B117 l
def crc16 (l : List Bool) : List Bool := crcBits 16 0x1021 l
def crc11 (l : List Bool) : List Bool := crcBits 11 0x621 l
def crc6 (l : List Bool) : List Bool := crcBits 6 0x21 l

/-- The transport block CRC (clause 7.2.1). -/
def tbCrc (a : List Bool) : List Bool := if 3824 < a.length then crc24A a else crc16 a
def tbCrcLen (n : Nat) : Nat := if 3824 < n then 24 else 16

/-- Writes of bytes to slot 8. -/
def byteWrites (bs : List Byte) : List OutW := bs.zipIdx.map fun b => ⟨8, [b.2, 0, 0, 0, 0, 0], b.1.toNat, false, none⟩

/-- A result record (R393): 60 header bytes, a CRC-32C, and bits. -/
def codeRecord (head : List Byte) (bits : List Bool) : List Byte := withCrc 60 head ++ packBits bits

/-! ## LDPC (R392–R395) -/

/-- Whether a number is a lifting size (clause 5.3.2). -/
def liftingSize (z : Nat) : Bool :=
  2 ≤ z && z ≤ 384 && [2, 3, 5, 7, 9, 11, 13, 15].any fun a => (List.range 8).any fun j => a * 2 ^ j == z

/-- Systematic columns, coded bits over Zc, and rows of a base graph. -/
def ldpcKb (bg : Nat) : Nat := if bg = 1 then 22 else 10
def ldpcN (bg : Nat) : Nat := if bg = 1 then 66 else 50
def ldpcRows (bg : Nat) : Nat := if bg = 1 then 46 else 42

/-- The entries of a base-graph row: (column, shift). -/
def ldpcRow (bg zc r : Nat) : List (Nat × Nat) :=
  (List.range (ldpcKb bg + ldpcRows bg)).filterMap fun c => (Config.ldpcShift bg zc r c).map fun sh => (c, sh % zc)

/-- The variables of lifted row i of a base-graph row. -/
def liftedRow (zc i : Nat) (row : List (Nat × Nat)) : List Nat := row.map fun e => e.1 * zc + (i + e.2) % zc

/-- Saturation of the decoders (R392, R394). -/
def sat1023 (x : Int) : Int := if x < -1023 then -1023 else if 1023 < x then 1023 else x

/-- One lifted row of one layer (R392): the new messages, by the order of its edges. -/
def minSum (offset : Int) (q : List Int) : List Int :=
  q.zipIdx.map fun x =>
    let others := (q.zipIdx.filter fun y => y.2 != x.2).map (·.1)
    let m := others.foldl (fun m v => min m (v.natAbs : Int)) 1023
    let neg := others.foldl (fun b v => b != decide (v < 0)) false
    let r := max (m - offset) 0
    if neg then -r else r

/-- The decoder's state: L by variable, messages by (layer, lifted row). -/
structure Ldpc where
  l : Array Int
  r : Tbl (List Int)

/-- One layer. -/
def ldpcLayer (zc lay : Nat) (offset : Int) (row : List (Nat × Nat)) (x : Ldpc) : Ldpc :=
  (List.range zc).foldl (fun y i =>
    let vs := liftedRow zc i row
    let old := tblGet y.r (vs.map fun _ => 0) (lay * zc + i)
    let q := (vs.zip old).map fun e => sat1023 (x.l.getD e.1 0 - e.2)
    let new := minSum offset q
    { l := (vs.zip (q.zip new)).foldl (fun (a : Array Int) e => a.setIfInBounds e.1 (sat1023 (e.2.1 + e.2.2))) y.l
      r := tblSet y.r (lay * zc + i) new }) x

/-- Whether every check holds on the hard decisions. -/
def ldpcHolds (zc : Nat) (rows : List (List (Nat × Nat))) (l : Array Int) : Bool :=
  rows.all fun row => (List.range zc).all fun i =>
    !(liftedRow zc i row).foldl (fun b v => b != decide (l.getD v 0 < 0)) false

/-- Iterations: the state and how many were used. -/
def ldpcIterate (zc : Nat) (offset : Int) (rows : List (List (Nat × Nat))) : Nat → Nat → Ldpc → Ldpc × Nat
  | 0, it, x => (x, it)
  | n + 1, it, x =>
    let y := rows.zipIdx.foldl (fun y r => ldpcLayer zc r.2 offset r.1 y) x
    if ldpcHolds zc rows y.l then (y, it + 1) else ldpcIterate zc offset rows n (it + 1) y

/-- One code block (R392): its K′ bits and the iterations used. -/
def ldpcDecodeBlock (p : List Byte) (llr : List Int) : List Bool × Nat :=
  let bg := leAt p 0 1
  let zc := leAt p 2 2
  let rows := leAt p 1 1 + 1
  let kp := leAt p 6 2 + 1
  let kb := ldpcKb bg
  let start : List Int := (List.range ((kb + rows) * zc)).map fun v =>
    if kp ≤ v ∧ v < kb * zc then 1023 else if v < 2 * zc then 0 else llr.getD (v - 2 * zc) 0
  let x := ldpcIterate zc (leAt p 13 1) ((List.range rows).map (ldpcRow bg zc)) (leAt p 12 1 + 1) 0 ⟨start.toArray, []⟩
  ((List.range kp).map fun v => decide (x.1.l.getD v 0 < 0), x.2)

/-- Checks of LDPC_DECODE (R392, R393). -/
def checkLdpcDecode (p : List Byte) (ts : List Ten) : List (Nat × Nat) :=
  let bg := leAt p 0 1
  let zc := leAt p 2 2
  bad [(bg == 0 || 2 < bg, 0xFE, 0), (leAt p 1 1 < 3 || ldpcRows bg ≤ leAt p 1 1, 0xFE, 1), (!liftingSize zc, 0xFE, 2),
    (ldpcKb bg * zc ≤ leAt p 6 2, 0xFE, 6), (31 < leAt p 12 1, 0xFE, 12), (3 < leAt p 13 1, 0xFE, 13)] ++ wantZero p [(14, 50)]
  ++ (match tenAt ts 0 with
      | some x => wantType x (· == 2) ++ noScale x ++ bad [(x.ndim != 2, 0, 7)] ++ wantExt x 0 (ldpcN bg * zc) ++ wantExt x 1 (leAt p 4 2 + 1)
      | none => [])
  ++ (match tenAt ts 8 with
      | some o => wantType o (· == 3) ++ bad [(o.ndim != 1, 8, 7)] ++ noScale o
      | none => [])

/-- The record of LDPC_DECODE (R393). -/
def ldpcDecodeRecord (h : Nat) (p : List Byte) (s : State) (x : Ten) : List Byte :=
  let c := leAt p 4 2 + 1
  let a := leAt p 8 4 + 1
  let blocks := (List.range c).map fun j =>
    ldpcDecodeBlock p ((List.range (x.ext 0)).map fun v => signed 8 (x.code s h [(v : Int), (j : Int), 0, 0, 0, 0]))
  let kp := leAt p 6 2 + 1
  let failed := if c = 1 then 0 else (blocks.filter fun b => crc24B (b.1.take (kp - 24)) != b.1.drop (kp - 24)).length
  let bits := blocks.flatMap fun b => if c = 1 then b.1 else b.1.take (kp - 24)
  let tb := (List.range a).map fun i => bits.getD i false
  let crc := (List.range (tbCrcLen a)).map fun i => bits.getD (a + i) false
  let its := blocks.map (·.2)
  codeRecord (leBytes 4 a ++ leBytes 1 (flagBit (tbCrc tb == crc)) ++ leBytes 2 c ++ leBytes 1 (min failed 255)
    ++ leBytes 1 (its.foldl max 0) ++ zeros 3 ++ leBytes 4 (its.foldl (· + ·) 0)) tb

def ldpcDecodePlan (h : Nat) (p : List Byte) (s : State) (ts : List Ten) : Plan :=
  match tenAt ts 0 with
  | none => ⟨[], [], []⟩
  | some x => ⟨x.indices.map fun i => (0, toInts i), [], byteWrites (ldpcDecodeRecord h p s x)⟩

/-- LDPC_DECODE. -/
def ldpcDecode (t : Nat) : M Unit := do
  let s ← getS
  match s.task t with
  | none => pure ()
  | some k => runPlanWith t .none false (ldpcDecodePlan k.handle k.params) (fun _ _ => ([], 0)) fun _ =>
      radioCount t (leAt k.params 4 2 + 1) 0

def execLdpcDecode (engine : Nat) (s : State) : Host.Outcome State Fault Refusal := opCommand engine 0x605 ldpcDecode s

/-! ### Encoding (TS 38.212 clauses 5.2.2, 5.3.2, 5.4.2, 5.5) -/

/-- Elimination over GF(2): equations are numbers with coefficient bits below n and the right side at bit n; pivots are found from the
highest column down. -/
def gfElim : Nat → List Nat → List (Nat × Nat)
  | 0, _ => []
  | c + 1, eqs =>
    match eqs.find? fun e => bitAt e c with
    | none => gfElim c eqs
    | some p => (c, p) :: gfElim c ((eqs.erase p).map fun e => if bitAt e c then e ^^^ p else e)

/-- The solution as a number, unknown i in bit i; an unknown without a pivot is 0. -/
def gfSolve (n : Nat) (eqs : List Nat) : Nat :=
  (gfElim n eqs).reverse.foldl (fun x cp =>
    let low := cp.2 % 2 ^ cp.1 &&& x
    let par := (List.range cp.1).foldl (fun b i => b != bitAt low i) (bitAt cp.2 n)
    if par then x + 2 ^ cp.1 else x) 0

/-- The parity bits of a code block: they make every lifted row of the base graph even. -/
def ldpcParity (bg zc : Nat) (c : List Bool) : List Bool :=
  let n := ldpcRows bg * zc
  let k := ldpcKb bg * zc
  let a := c.toArray
  let eqs := (List.range (ldpcRows bg)).flatMap fun r =>
    let row := ldpcRow bg zc r
    (List.range zc).map fun i =>
      let vs := liftedRow zc i row
      let rhs := vs.foldl (fun b v => if v < k then b != a.getD v false else b) false
      vs.foldl (fun e v => if k ≤ v then e ^^^ 2 ^ (v - k) else e) (flagBit rhs * 2 ^ n)
  let x := gfSolve n eqs
  (List.range n).map fun i => bitAt x i

/-- Segmentation (clause 5.2.2): code blocks, and bits of each with its CRC. -/
def ldpcSegments (bg a : Nat) : Nat × Nat :=
  let b := a + tbCrcLen a
  let kcb := if bg = 1 then 8448 else 3840
  if b ≤ kcb then (1, b)
  else
    let c := ceilDiv b (kcb - 24)
    (c, ceilDiv (b + 24 * c) c)

/-- Columns that carry information (clause 5.2.2), by B. -/
def ldpcInfoCols (bg b : Nat) : Nat := if bg = 1 then 22 else if 640 < b then 10 else if 560 < b then 9 else if 192 < b then 8 else 6

/-- The start of a redundancy version in the circular buffer (table 5.4.2.1-2). -/
def ldpcStart (bg rv ncb zc : Nat) : Nat :=
  let f := if bg = 1 then [0, 17, 33, 56].getD rv 0 else [0, 13, 25, 43].getD rv 0
  f * ncb / (ldpcN bg * zc) * zc

/-- Rate matching of a code block: e bits from the circular buffer, skipping fillers. -/
def ldpcSelect (d : Array (Option Bool)) (ncb start e : Nat) : List Bool :=
  let whole := (List.range ncb).filterMap fun j => d.getD ((start + j) % ncb) none
  (List.range e).map fun i => whole.getD (i % max 1 whole.length) false

/-- Bit interleaving (clause 5.4.2.2). -/
def ldpcInterleave (qm : Nat) (e : List Bool) : List Bool :=
  let a := e.toArray
  let rows := e.length / qm
  (List.range rows).flatMap fun j => (List.range qm).map fun i => a.getD (i * rows + j) false

/-- The bits of code block r after rate matching (clause 5.4.2.1): the blocks that take the larger share come last. -/
def ldpcShare (g nlqm c r : Nat) : Nat :=
  if r + (g / nlqm) % c < c then nlqm * (g / nlqm / c) else nlqm * ceilDiv (g / nlqm) c

/-- LDPC_ENCODE's coded bits, and C. -/
def ldpcEncodeBits (p : List Byte) (a : List Bool) : List Bool × Nat :=
  let bg := leAt p 0 1
  let zc := leAt p 2 2
  let qm := leAt p 4 1
  let (c, kp) := ldpcSegments bg a.length
  let b := a ++ tbCrc a
  let per := if c = 1 then b.length else kp - 24
  let k := ldpcKb bg * zc
  let ncb := leAt p 16 4 + 1
  let out := (List.range c).flatMap fun r =>
    let own := (b.drop (r * per)).take per
    let cb := if c = 1 then own else own ++ crc24B own
    let full := cb ++ List.replicate (k - cb.length) false
    let par := ldpcParity bg zc full
    let d : List (Option Bool) := ((List.range k).map fun i => if i < cb.length then some (full.getD i false) else none) ++ par.map some
    ldpcInterleave qm (ldpcSelect (d.drop (2 * zc)).toArray ncb (ldpcStart bg (leAt p 1 1) ncb zc)
      (ldpcShare (leAt p 12 4 + 1) (qm * (leAt p 5 1 + 1)) c r))
  (out, c)

/-- Checks of LDPC_ENCODE (R395). -/
def checkLdpcEncode (p : List Byte) (ts : List Ten) : List (Nat × Nat) :=
  let bg := leAt p 0 1
  let zc := leAt p 2 2
  let a := leAt p 8 4 + 1
  let (c, kp) := ldpcSegments bg a
  let b := a + tbCrcLen a
  let uneven := c != 1 && (b + 24 * c) % c != 0
  bad [(bg == 0 || 2 < bg, 0xFE, 0), (3 < leAt p 1 1, 0xFE, 1), (!liftingSize zc, 0xFE, 2), (!([1, 2, 4, 6, 8] : List Nat).contains (leAt p 4 1), 0xFE, 4),
    (3 < leAt p 5 1, 0xFE, 5), (ldpcInfoCols bg b * zc < kp || uneven, 0xFE, 8),
    (leAt p 4 1 != 0 && (leAt p 12 4 + 1) % (leAt p 4 1 * (leAt p 5 1 + 1)) != 0, 0xFE, 12), (ldpcN bg * zc ≤ leAt p 16 4, 0xFE, 16)]
  ++ wantZero p [(6, 2), (20, 44)]
  ++ ([tenAt ts 0, tenAt ts 8].filterMap id).flatMap fun o => wantType o (· == 3) ++ bad [(o.ndim != 1, o.slot, 7)] ++ noScale o

/-- The reads of n input bits. -/
def bitReads (n : Nat) : List (Nat × List Int) := (List.range ((n + 7) / 8)).map fun i => (0, [(i : Int), 0, 0, 0, 0, 0])

def ldpcEncodePlan (h : Nat) (p : List Byte) (s : State) (ts : List Ten) : Plan :=
  match tenAt ts 0 with
  | none => ⟨[], [], []⟩
  | some x =>
    let n := leAt p 8 4 + 1
    let r := ldpcEncodeBits p (inputBits s h x n)
    ⟨bitReads n, [], byteWrites (codeRecord (leBytes 4 (leAt p 12 4 + 1) ++ leBytes 2 r.2) r.1)⟩

/-- LDPC_ENCODE. -/
def ldpcEncode (t : Nat) : M Unit := do
  let s ← getS
  match s.task t with
  | none => pure ()
  | some k => runPlanWith t .none false (ldpcEncodePlan k.handle k.params) (fun _ _ => ([], 0)) fun _ =>
      radioCount t (ldpcSegments (leAt k.params 0 1) (leAt k.params 8 4 + 1)).1 0

def execLdpcEncode (engine : Nat) (s : State) : Host.Outcome State Fault Refusal := opCommand engine 0x606 ldpcEncode s

/-! ## Polar codes (R394, R396; TS 38.212 clauses 5.3.1, 5.4.1) -/

/-- Rounded-up base-2 logarithm. -/
def log2Up (n : Nat) : Nat := if n ≤ 1 then 0 else Nat.log2 (n - 1) + 1

/-- The code's n (clause 5.3.1): N = 2^n. -/
def polarLog (k e nmax : Nat) : Nat :=
  let up := log2Up e
  let n1 := if 8 * e ≤ 9 * 2 ^ (up - 1) ∧ 16 * k < 9 * e then up - 1 else up
  max (min (min n1 (log2Up (8 * k))) nmax) 5

/-- The sub-block interleaver pattern (table 5.4.1.1-1). -/
def subBlock : List Nat := [0, 1, 2, 4, 3, 5, 6, 7, 8, 16, 9, 17, 10, 18, 11, 19, 12, 20, 13, 21, 14, 22, 15, 23, 24, 25, 26, 28, 27, 29, 30, 31]

/-- The sub-block interleaver J of N bits. -/
def polarJ (n i : Nat) : Nat := subBlock.getD (32 * i / n) 0 * (n / 32) + i % (n / 32)

/-- Indices frozen by rate matching (clause 5.4.1.1). -/
def polarForced (k e n : Nat) : List Nat :=
  if n ≤ e then []
  else if 16 * k ≤ 7 * e then
    ((List.range (n - e)).map (polarJ n)) ++
      (if 3 * n ≤ 4 * e then List.range (ceilDiv (3 * n - 2 * e) 4) else List.range (ceilDiv (9 * n - 4 * e) 16))
  else (List.range' e (n - e)).map (polarJ n)

/-- A polar code: N, the information bits with the parity-check bits, and which of them are parity-check bits. -/
structure Polar where
  n : Nat
  info : List Nat
  pc : List Nat

/-- Rows of the generator's weight by index: 2 to the number of ones. -/
def rowWeight (i : Nat) : Nat := 2 ^ ((List.range 10).filter (bitAt i)).length

/-- The code for K bits (CRC included) and E coded bits; an uplink code has parity-check bits for K of 18 to 25. -/
def polarCode (k e nmax : Nat) (uplink : Bool) : Polar :=
  let n := 2 ^ polarLog k e nmax
  let npc := if uplink && 18 ≤ k && k ≤ 25 then 3 else 0
  let nwm := if npc = 3 ∧ 189 + k < e then 1 else 0
  let forced := polarForced k e n
  let order := ((List.range 1024).map Config.polarOrder).filter fun i => i < n && !forced.contains i
  let best := order.drop (order.length - (k + npc))
  let plain := best.take (npc - nwm)
  let rest := (best.drop npc).foldl (fun (b : Option Nat) i =>
    match b with
    | some j => if rowWeight i ≤ rowWeight j then some i else b
    | none => some i) none
  ⟨n, best.mergeSort, if nwm = 1 then plain ++ rest.toList else plain⟩

/-- u G: the polar transform in natural order. -/
def polarTransform : Nat → List Bool → List Bool
  | 0, u => u
  | m + 1, u =>
    let a := polarTransform m (u.take (2 ^ m))
    let b := polarTransform m (u.drop (2 ^ m))
    List.zipWith (· != ·) a b ++ b


/-- The bits u before the transform, from the information bits in order. -/
def polarU (c : Polar) (bits : List Bool) : List Bool :=
  ((List.range c.n).foldl (fun (a : (List Bool × List Bool) × List Bool) i =>
    let ((u, rest), y0) := a
    let y := y0.drop 1 ++ y0.take 1
    if c.info.contains i then
      (if c.pc.contains i then ((u ++ [y.getD 0 false], rest), y)
       else
        let b := rest.headD false
        ((u ++ [b], rest.tail), y.set 0 (y.getD 0 false != b)))
    else ((u ++ [false], rest), y)) (([], bits), List.replicate 5 false)).1.1

/-- Rate matching of N coded bits to E (clauses 5.4.1.1, 5.4.1.2): which position of the code each output takes. -/
def polarMap (k e n : Nat) : List Nat :=
  (List.range e).map fun i =>
    if n ≤ e then polarJ n (i % n)
    else if 16 * k ≤ 7 * e then polarJ n (i + n - e)
    else polarJ n i

/-- The triangular interleaver of clause 5.4.1.3: which input each output takes. -/
def triangular (e : Nat) : List Nat :=
  let t := ((List.range (e + 1)).find? fun t => e ≤ t * (t + 1) / 2).getD 0
  -- row i starts behind rows of t, t − 1, … entries
  let start : Nat → Nat := fun i => i * t - i * (i - 1) / 2
  (List.range t).flatMap fun j => (List.range (t - j)).filterMap fun i =>
    let k := start i + j
    if k < e then some k else none

/-- The interleaver of the K bits of a downlink code (clause 5.3.1.1). -/
def polarPi (k : Nat) : List Nat :=
  (List.range 164).filterMap fun m =>
    let v := Config.polarInterleaver m
    if 164 - k ≤ v then some (v - (164 - k)) else none

/-- The coded bits of K bits, CRC included: downlink with interleaving of the K bits, uplink with interleaving of the E bits. -/
def polarEncode (bits : List Bool) (e nmax : Nat) (uplink : Bool) : List Bool :=
  let k := bits.length
  let c := polarCode k e nmax uplink
  let a := bits.toArray
  let inp := if uplink then bits else (polarPi k).map fun i => a.getD i false
  let d := (polarTransform (polarLog k e nmax) (polarU c inp)).toArray
  let f := ((polarMap k e c.n).map fun i => d.getD i false).toArray
  if uplink then (triangular e).map fun i => f.getD i false else f.toList

/-- The CRC of a DCI (clause 7.3.2): over 24 ones and the bits, its last 16 bits scrambled by the RNTI. -/
def dciCrc (a : List Bool) (rnti : Nat) : List Bool :=
  (crc24C (List.replicate 24 true ++ a)).zipIdx.map fun b => if 8 ≤ b.2 then b.1 != bitAt rnti (23 - b.2) else b.1

/-- Checks of POLAR_ENCODE and POLAR_DECODE (R396). -/
def checkPolar (decode_ : Bool) (p : List Byte) (ts : List Ten) : List (Nat × Nat) :=
  let ch := leAt p 0 1
  let a1 := leAt p 2 2
  let chBad := if decode_ then ch == 0 || 2 < ch else 1 < ch
  let aBad := if ch = 0 then a1 != 31 else a1 < 11 || (if ch = 1 then 139 else 1705) < a1
  bad [(chBad, 0xFE, 0), (aBad, 0xFE, 2), (8191 < leAt p 4 2, 0xFE, 4), (ch != 1 && leAt p 6 2 != 0, 0xFE, 6),
    (if !decode_ && ch == 0 then 1007 < leAt p 8 2 else leAt p 8 2 != 0, 0xFE, 8),
    (if !decode_ && ch == 0 then leAt p 10 1 != 2 && leAt p 10 1 != 3 else leAt p 10 1 != 0, 0xFE, 10)]
  ++ wantZero p [(1, 1), (11, 53)]
  ++ (match tenAt ts 0 with
      | some x => wantType x (· == (if decode_ then 2 else 3)) ++ bad [(x.ndim != 1, 0, 7)] ++ noScale x
      | none => [])
  ++ (match tenAt ts 8 with
      | some o => wantType o (· == 3) ++ bad [(o.ndim != 1, 8, 7)] ++ noScale o
      | none => [])

def polarEncodePlan (h : Nat) (p : List Byte) (s : State) (ts : List Ten) : Plan :=
  match tenAt ts 0 with
  | none => ⟨[], [], []⟩
  | some x =>
    let n := leAt p 2 2 + 1
    let e := leAt p 4 2 + 1
    let a := inputBits s h x n
    let bits := if leAt p 0 1 = 0 then
        let b := (List.range 32).map fun i => (Config.pbchScrambled a (leAt p 8 2) (leAt p 10 1)).getD i false
        b ++ crc24C b
      else a ++ dciCrc a (leAt p 6 2)
    ⟨bitReads n, [], byteWrites (codeRecord (leBytes 4 e) (polarEncode bits e 9 false))⟩

/-- POLAR_ENCODE. -/
def polarEncodeOp (t : Nat) : M Unit := do
  let s ← getS
  match s.task t with
  | none => pure ()
  | some k => runPlanWith t .none false (polarEncodePlan k.handle k.params) (fun _ _ => ([], 0)) fun _ => radioCount t 1 0

def execPolarEncode (engine : Nat) (s : State) : Host.Outcome State Fault Refusal := opCommand engine 0x607 polarEncodeOp s

/-! ### List decoding (R394) -/

/-- The f and g functions, min-sum, saturated. -/
def polarF (a b : Int) : Int :=
  let m : Int := ((min a.natAbs b.natAbs : Nat) : Int)
  sat1023 (if decide (a < 0) != decide (b < 0) then -m else m)
def polarG (a b : Int) (u : Bool) : Int := sat1023 (if u then b - a else b + a)

/-- The LLR of bit i, from the channel LLRs and the bits before it. -/
def polarLlr : Nat → List Int → List Bool → Nat → Int
  | 0, l, _, _ => l.headD 0
  | m + 1, l, u, i =>
    let half := 2 ^ m
    let a := l.take half
    let b := l.drop half
    if i < half then polarLlr m (List.zipWith polarF a b) u i
    else
      let x := polarTransform m (u.take half)
      polarLlr m (List.zipWith (fun (p : Int × Int) v => polarG p.1 p.2 v) (a.zip b) x) (u.drop half) (i - half)

/-- A path: metric, bits so far, information bits so far, parity-check register. -/
structure Path8 where
  metric : Nat
  u : List Bool
  info : List Bool
  y : List Bool

/-- One bit of a path. -/
def Path8.extend (x : Path8) (llr : Int) (b isInfo : Bool) (y : List Bool) : Path8 :=
  let cost := if b != decide (llr < 0) ∧ llr ≠ 0 then llr.natAbs else 0
  ⟨x.metric + cost, x.u ++ [b], if isInfo then x.info ++ [b] else x.info, if isInfo then y.set 0 (y.getD 0 false != b) else y⟩

/-- Successive-cancellation list decoding with list 8: paths in metric order, ties to the lower index. -/
def polarList (c : Polar) (llr : List Int) : List Path8 :=
  let m := Nat.log2 c.n
  (List.range c.n).foldl (fun ps i =>
    let next := ps.flatMap fun x =>
      let l := polarLlr m llr x.u i
      let y := x.y.drop 1 ++ x.y.take 1
      if !c.info.contains i then [x.extend l false false y]
      else if c.pc.contains i then [x.extend l (y.getD 0 false) false y]
      else [x.extend l false true y, x.extend l true true y]
    (next.mergeSort fun a b => a.metric ≤ b.metric).take 8) [⟨0, [], [], List.replicate 5 false⟩]

/-- Channel LLRs of the code's N bits from E soft values: punctured bits 0, shortened bits certain zeros, repetitions summed. -/
def polarLlrs (k e n : Nat) (soft : List Int) : List Int :=
  let a := soft.toArray
  let map := (polarMap k e n).zipIdx
  let short := n ≤ e || 16 * k ≤ 7 * e
  (List.range n).map fun j =>
    match map.filter fun x => x.1 == j with
    | [] => if short then 0 else 1023
    | l => l.foldl (fun v x => sat1023 (v + a.getD x.2 0)) 0

/-- Decode K bits from E soft values; `good` judges the bits of a path. Answers the bits, the index of the path, whether its CRC passed. -/
def polarDecode (k nmax : Nat) (uplink : Bool) (soft : List Int) (good : List Bool → Bool) : List Bool × Nat × Bool :=
  let e := soft.length
  let c := polarCode k e nmax uplink
  let f := soft.toArray
  let deint := if uplink then
      let tri := triangular e
      (List.range e).map fun i => f.getD (tri.idxOf i) 0
    else soft
  let pi := polarPi k
  let paths := (polarList c (polarLlrs k e c.n deint)).map fun x =>
    let a := x.info.toArray
    if uplink then x.info else (List.range k).map fun i => a.getD (pi.idxOf i) false
  match paths.zipIdx.find? fun x => good x.1 with
  | some (b, i) => (b, i, true)
  | none => (paths.headD [], 0, false)

/-- UCI CRC (clause 6.3.1.2.1) of a segment, for a payload of n bits. -/
def uciCrc (n : Nat) (l : List Bool) : List Bool := if n ≤ 19 then crc6 l else crc11 l

/-- The result of POLAR_DECODE: payload bits, whether all CRCs passed, the list indices. -/
def polarDecodeResult (p : List Byte) (soft : List Int) : List Bool × Bool × Nat × Nat :=
  let n := leAt p 2 2 + 1
  let e := leAt p 4 2 + 1
  if leAt p 0 1 = 1 then
    let r := polarDecode (n + 24) 9 false soft fun b => dciCrc (b.take n) (leAt p 6 2) == b.drop n
    (r.1.take n, r.2.2, r.2.1, 0)
  else
    let crcLen := if n ≤ 19 then 6 else 11
    let seg := if 360 ≤ n ∧ 1088 ≤ e then 2 else 1
    let per := ceilDiv n seg
    let one := fun (x : List Int) => polarDecode (per + crcLen) 10 true x fun b => uciCrc n (b.take per) == b.drop per
    if seg = 1 then
      let r := one soft
      (r.1.take n, r.2.2, r.2.1, 0)
    else
      let a := one (soft.take (e / 2))
      let b := one ((soft.drop (e / 2)).take (e / 2))
      ((a.1.take per).drop (2 * per - n) ++ b.1.take per, a.2.2 && b.2.2, a.2.1, b.2.1)

def polarDecodePlan (h : Nat) (p : List Byte) (s : State) (ts : List Ten) : Plan :=
  match tenAt ts 0 with
  | none => ⟨[], [], []⟩
  | some x =>
    let e := leAt p 4 2 + 1
    let at_ : Nat → List Int := fun i => [(i : Int), 0, 0, 0, 0, 0]
    let r := polarDecodeResult p ((List.range e).map fun i => signed 8 (x.code s h (at_ i)))
    ⟨(List.range e).map fun i => (0, at_ i), [],
     byteWrites (codeRecord (leBytes 4 (leAt p 2 2 + 1) ++ leBytes 1 (flagBit r.2.1) ++ leBytes 1 r.2.2.1 ++ leBytes 1 r.2.2.2) r.1)⟩

/-- POLAR_DECODE. -/
def polarDecodeOp (t : Nat) : M Unit := do
  let s ← getS
  match s.task t with
  | none => pure ()
  | some k => runPlan t .none false (polarDecodePlan k.handle k.params)

def execPolarDecode (engine : Nat) (s : State) : Host.Outcome State Fault Refusal := opCommand engine 0x608 polarDecodeOp s

end Sys2Proof.Machine
end

