-- ==== Sys2Proof/Machine/Contexts.lean ====
section
/-! DEFINITION. Requests to BCC firmware on contexts and buffers (R50, R53, R56, R76, R116, R117, R553). -/

namespace Sys2Proof.Machine

open Sys2Proof

/-- Answer a BCC request with a status of R91, R114 or R480 (R553). -/
def status (code : Nat) : M Unit := answer (code == 0) (leBytes 1 code)

/-- CREATE_CONTEXT (R76, R116, R117): a free entry becomes live with the next generation and its attributes. -/
def createContext (id : Nat) (physical : Bool) (root ceiling : Nat) (safety : Bool) (quota eventQueue : Nat) : M Unit := do
  let s ← getS
  let old := tblFind s.tally.contexts id
  if s.rcv.bivouac then status 0x20
  else if 7 < ceiling ∨ quota < 16 ∨ 262144 < quota ∨ root % 4096 ≠ 0 ∨ 2 ^ 40 ≤ root then status 0x12
  else if 4096 ≤ id ∨ ((old.map fun c => c.phase != .free).getD false) = true then status 0x1B
  else do
    let gen := match old with
      | some c => (c.gen + 1) % 256
      | none => 1
    let c : Ctx := ⟨.live, gen, physical, root, ceiling, safety, quota, eventQueue, [], [], 0, 0, [], 0, 0⟩
    modTally fun x => { x with contexts := tblSet x.contexts id c }
    answer true (leBytes 1 0 ++ leBytes 3 (gen * 4096 + id))

def execCreateContext (id : Nat) (physical : Bool) (root ceiling : Nat) (safety : Bool) (quota eventQueue : Nat)
    (s : State) : Host.Outcome State Fault Refusal :=
  always (createContext id physical root ceiling safety quota eventQueue) s

/-- Whether two extents overlap. -/
def overlap (a n b m : Nat) : Bool := a < b + m && b < a + n

/-- REGISTER_BUFFER (R48, R50): refused with status 0x17 when misaligned, not canonical or overlapping. -/
def registerBuffer (h base len : Nat) : M Unit := do
  let s ← getS
  match s.ctx h with
  | none => status 0x18
  | some c =>
    let bad := base % 64 != 0 || len % 64 != 0 || len == 0
      || (if c.physical then 2 ^ 40 < base + len
          else !canonical base || !canonical (base + len - 1) || decide (base < 2 ^ 47 ∧ 2 ^ 47 < base + len))
      || s.tally.buffers.any fun b => b.handle == h && overlap b.base b.length base len
    if bad then status 0x17
    else if 65536 ≤ s.tally.buffers.length ∨ 1024 ≤ (s.tally.buffers.filter fun b => b.handle == h).length then status 0x1B
    else do
      modTally fun x => { x with buffers := x.buffers ++ [⟨h, base, len, false⟩] }
      status 0

def execRegisterBuffer (handle base length : Nat) (s : State) : Host.Outcome State Fault Refusal :=
  always (registerBuffer handle base length) s

/-- DEREGISTER_BUFFER (R53): from now on new enqueues that name the buffer are rejected. -/
def deregisterBuffer (h base : Nat) : M Unit := do
  let s ← getS
  if (s.ctx h).isNone then status 0x18
  else if !s.tally.buffers.any (fun b => b.handle == h && b.base == base) then status 0x17
  else do
    modTally fun x => { x with buffers := x.buffers.map fun b =>
      if b.handle = h ∧ b.base = base then { b with dereg := true } else b }
    status 0

def execDeregisterBuffer (handle base : Nat) (s : State) : Host.Outcome State Fault Refusal :=
  always (deregisterBuffer handle base) s

/-- Whether a task names a buffer: by its completion record, parameter block, descriptor addresses or tensor bases (R53). -/
def State.namesBuffer (s : State) (k : Task) (b : Buffer) : Bool :=
  let hit := fun a => b.base ≤ a && a < b.base + b.length
  k.handle == b.handle &&
    ((dCpl k.desc != 0 && hit (dCpl k.desc)) || (dParam k.desc != 0 && hit (dParam k.desc))
      || (List.range 12).any (fun n =>
          let w := dSlot k.desc n
          (slotKind w == 1 || slotKind w == 2 || slotKind w == 3)
            && (hit (slotAddr w) || ((s.peek k.handle (slotAddr w) 64).map fun td => hit (tdBase td)).getD false))
      || k.tds.any fun p => hit (tdBase p.2))

/-- Whether a buffer's deregistration can complete (R53). -/
def State.deregReady (s : State) (h base : Nat) : Bool :=
  s.tally.buffers.any fun b => b.handle == h && b.base == base && b.dereg
    && !s.tally.tasks.any fun p => s.namesBuffer p.2 b

/-- DEREGISTRATION_COMPLETE (R53). -/
def deregistrationComplete (h base : Nat) : M Unit :=
  modTally fun x => { x with buffers := x.buffers.filter fun b => !(b.handle == h && b.base == base) }

def execDeregistrationComplete (handle base : Nat) (s : State) : Host.Outcome State Fault Refusal :=
  whenEnabled (fun s => s.deregReady handle base) (deregistrationComplete handle base) s

/-- LATE_RESPONSE_DISCARD (R477): anything that carries a handle that is not the current generation of a live context is discarded and
counted in RCV_LATE. -/
def execLateResponseDiscard (handle : Nat) (s : State) : Host.Outcome State Fault Refusal :=
  whenEnabled (fun s => (s.ctx handle).isNone) countLate s

end Sys2Proof.Machine
end

