-- ==== Sys2Proof/Machine/Fronthaul.lean ====
section
/-! DEFINITION. Fronthaul (R398–R402): the messages FHE sends and receives, the windows of its symbols, FH_TX and FH_RX. The byte layouts of
eCPRI 2.0 and of the O-RAN user and control planes are those standards' (PRESUMED, log entry 20). -/

namespace Sys2Proof.Machine

open Sys2Proof

/-! ## Bytes of the wire -/

/-- Fields of given widths packed into bytes, highest bit first. -/
def packFields (fs : List (Nat × Nat)) : List Byte :=
  let n := fs.foldl (fun n f => n * 2 ^ f.1 + f.2 % 2 ^ f.1) 0
  beBytes (fs.foldl (fun n f => n + f.1) 0 / 8) n

/-- An Ethernet header to a MAC address, with one 802.1Q tag where a VLAN ID is given (R412). -/
def etherHeader (dst src vid pcp ethertype : Nat) : List Byte :=
  beBytes 6 dst ++ beBytes 6 src ++ (if vid = 0 then [] else beBytes 2 0x8100 ++ beBytes 2 (pcp * 2 ^ 13 + vid)) ++ beBytes 2 ethertype

/-! ## Parameters (R402) -/

def fhRole (p : List Byte) : Nat := leAt p 0 1
def fhPeer (p : List Byte) : Nat := leAt p 1 1
def fhEaxc (p : List Byte) : Nat := leAt p 2 2
def fhStart (p : List Byte) : Nat := leAt p 6 2
def fhPrbCount (p : List Byte) : Nat := leAt p 8 2 + 1
def fhComp (p : List Byte) : Nat := leAt p 10 1

/-- Mantissa bits of a compression code; 16 uncompressed. -/
def fhWidth (comp : Nat) : Nat := [16, 9, 12, 14].getD comp 16

/-- An operand's index of (subcarrier, symbol): the symbols stand along its outermost dimension. -/
def fhIdx (t : Ten) (x i : Nat) : List Nat :=
  if t.ndim = 1 then [x, 0, 0, 0, 0, 0] else if t.ndim = 2 then [x, i, 0, 0, 0, 0] else [x, 0, i, 0, 0, 0]

/-- The extents of a fronthaul operand: n along d0, the symbols along the outermost dimension, 1 elsewhere. -/
def fhExt (t : Ten) (n count k : Nat) : Nat :=
  if k = 0 then n else if k = t.ndim - 1 then count else 1

/-- Checks of FH_TX and FH_RX (R402). -/
def checkFh (s : State) (k : Task) (tx : Bool) (p : List Byte) (ts : List Ten) : List (Nat × Nat) :=
  let sp := fhSpan p
  let n := fhPrbCount p
  let vals := tenAt ts (if tx then 0 else 8)
  let scs := tenAt ts (if tx then 1 else 9)
  bad [(1 < fhRole p, 0xFE, 0), (15 < fhPeer p || !s.flag (Reg.fheAddr (fhPeer p)) Fld.fheAddrValid, 0xFE, 1), (11 < sp.car, 0xFE, 4),
    (13 < sp.l0 || 14 < sp.l0 + sp.count, 0xFE, 5), (272 < fhStart p || s.carPrbs sp.car < fhStart p + n, 0xFE, 6), (273 < n, 0xFE, 8),
    (3 < fhComp p, 0xFE, 10), (leAt p 11 1 != 1 && leAt p 11 1 != 3, 0xFE, 11), (2 ^ 15 ≤ leAt p 12 2, 0xFE, 12),
    (1 < sp.mode || (sp.mode == 1 && !s.inSlotInstance k), 0xFE, 20), (sp.mode == 1 && sp.slot != 0, 0xFE, 16)]
  ++ wantZero p [(14, 2), (21, 107)]
  ++ (match vals with
      | some v => wantType v (· == 0x11) ++ noScale v ++ bad [(3 < v.ndim, v.slot, 7)] ++ wantExts v (fhExt v (12 * n) sp.count)
      | none => [])
  ++ (match scs with
      | some v => wantScales v (fhExt v n sp.count) ++ bad [(3 < v.ndim, v.slot, 7)]
      | none => [])

/-! ## Conversion (R400) -/

/-- v × 2^(s − e): shifted up, or shifted down with rounding. -/
def fhShift (v : Int) (t : Int) : Int := if t ≤ 0 then v * 2 ^ (-t).toNat else (v + 2 ^ (t.toNat - 1)) / 2 ^ t.toNat

/-- An integer saturated to w signed bits, and whether it was. -/
def satBits (w : Nat) (x : Int) : Int × Nat :=
  if x < -(2 ^ (w - 1)) then (-(2 ^ (w - 1)), 1) else if 2 ^ (w - 1) - 1 < x then (2 ^ (w - 1) - 1, 1) else (x, 0)

/-- A PRB as it is sent: exponent, mantissas of its 24 components, saturations. -/
def fhCompress (comp : Nat) (vs : List Int) (sc : Int) : Nat × List Int × Nat :=
  if comp = 0 then
    let r := gather (vs.map fun v => satBits 16 (fhShift v (-sc)))
    (0, r.1, r.2)
  else
    let w := fhWidth comp
    let fits : Nat → Bool := fun e => vs.all fun v => (satBits w (fhShift v ((e : Int) - sc))).2 == 0
    let e := ((List.range 16).find? fits).getD 15
    let r := gather (vs.map fun v => satBits w (fhShift v ((e : Int) - sc)))
    (e, r.1, r.2)

/-- The bytes of a compressed PRB: the exponent's byte for block floating point, then I and Q of each subcarrier. -/
def prbBytes (comp : Nat) (x : Nat × List Int × Nat) : List Byte :=
  (if comp = 0 then [] else packFields [(4, 0), (4, x.1)]) ++ packFields (x.2.1.map fun m => (fhWidth comp, unsigned (fhWidth comp) m))

def prbSize (comp : Nat) : Nat := if comp = 0 then 48 else 1 + 3 * fhWidth comp

/-! ## Messages -/

/-- The radio time of a symbol of a task: frame modulo 256, subframe, slot in the subframe, symbol in the slot (R377). -/
def State.radioTime (s : State) (c : Nat) (x : Nat × Nat) : Nat × Nat × Nat × Nat :=
  let frame := (x.1 - gpsEpoch * 1000) / 10 + s.fld (Reg.dfeCfg c) Fld.dfeCfgSfnOffset
  (frame % 1024 % 256, x.1 % 10, x.2 / 14, x.2 % 14)

/-- An eCPRI message of a type for an eAxC, with its sequence number. -/
def ecpri (type eaxc seq : Nat) (body : List Byte) : List Byte :=
  beBytes 1 0x10 ++ beBytes 1 type ++ beBytes 2 (4 + body.length) ++ beBytes 2 eaxc ++ beBytes 1 seq ++ beBytes 1 0x80 ++ body

/-- Four bytes that open every O-RAN message: direction (1 downlink), frame, subframe, slot, symbol. -/
def oranHead (down : Nat) (r : Nat × Nat × Nat × Nat) : List Byte :=
  packFields [(1, down), (3, 1), (4, 0), (8, r.1), (4, r.2.1), (6, r.2.2.1), (6, r.2.2.2)]

/-- The compression header byte. -/
def udComp (comp : Nat) : Nat := if comp = 0 then 0 else fhWidth comp * 16 + 1

/-- A user-plane section: PRBs start to start + n − 1. -/
def uSection (comp start n : Nat) (data : List Byte) : List Byte :=
  packFields [(12, 0), (1, 0), (1, 0), (10, start), (8, if 255 < n then 0 else n), (8, udComp comp), (8, 0)] ++ data

/-- The control-plane message of an FH_TX task (section type 1 or 3). -/
def cMessage (p : List Byte) (r : Nat × Nat × Nat × Nat) (count : Nat) : List Byte :=
  let n := fhPrbCount p
  let sec : List (Nat × Nat) := [(12, 0), (1, 0), (1, 0), (10, fhStart p), (8, if 255 < n then 0 else n), (12, 0xFFF), (4, count), (1, 0), (15, leAt p 12 2)]
  oranHead 1 r ++ (if leAt p 11 1 = 1 then packFields ([(8, 1), (8, 1), (8, udComp (fhComp p)), (8, 0)] ++ sec)
    else packFields ([(8, 1), (8, 3), (16, 0), (8, 0), (16, 0), (8, udComp (fhComp p))] ++ sec ++ [(24, 0), (8, 0)]))

/-- Send one eCPRI message for a task: the next number of its eAxC's sequence (R399). -/
def fhSend (p : List Byte) (type : Nat) (body : List Byte) : M Unit := do
  let s ← getS
  let seq := tblGet s.radio.fhSeq 0 (fhEaxc p)
  let a := fhPeer p
  let port := s.fld (Reg.fhePort a) Fld.fhePortPort
  let f := etherHeader (s.fld (Reg.fheAddr a) Fld.fheAddrMac) (s.reg (Reg.ethMac port)).toNat (s.fld (Reg.fheAddr a) Fld.fheAddrVid)
    (s.fld (Reg.fheAddr a) Fld.fheAddrPcp) 0xAEFE
  modRadio fun r => { r with fhSeq := tblSet r.fhSeq (fhEaxc p) ((seq + 1) % 256) }
  update (.sent (· ++ [(0xA8 + port, f ++ ecpri type (fhEaxc p) seq body)]))
  bump (Reg.rdWork 5) Fld.rdWorkCount 1

/-! ## Windows (R401) -/

/-- A window of a peer around a symbol: open and close stamps; 0 TX_CP, 1 TX_UP, 2 RX_CP, 3 RX_UP. -/
def State.fhWindow (s : State) (peer which : Nat) (c : Nat) (x : Nat × Nat) : Int × Int :=
  let r := (if which = 0 then Reg.fheWinTxCp else if which = 1 then Reg.fheWinTxUp else if which = 2 then Reg.fheWinRxCp else Reg.fheWinRxUp) peer
  let w := (s.reg r).toNat
  let b : Int := s.symStamp c x.1 x.2
  (b + signed 32 w, b + signed 32 (w / 2 ^ 32))

/-- The running task of FHE where it carries an opcode and a peer. -/
def State.fhTask (s : State) (op peer : Nat) : Option (Nat × Task) :=
  match (s.engine 0x35).running with
  | none => none
  | some t => match s.task t with
    | some k => if dOpcode k.desc = op ∧ k.fetched ∧ !k.done ∧ fhPeer k.params = peer then some (t, k) else none
    | none => none

/-- The symbols of the running FH_TX task that can be sent now; index 1000 stands for its control-plane message (R399). -/
def State.fhSendable (s : State) (peer : Nat) : List Nat :=
  match s.fhTask 0x609 peer with
  | none => []
  | some (t, k) =>
    let p := k.params
    let sp := fhSpan p
    let now : Int := s.clock.now
    let port := s.fld (Reg.fhePort peer) Fld.fhePortPort
    let within : Int × Int → Bool := fun w => decide (w.1 ≤ now) && decide (now ≤ w.2)
    if !s.flag (Reg.ethStatus port) Fld.ethStatusLink then []
    else
      (if fhRole p = 0 && (recOf s.radio.fhSent t 1000 k).isNone && within (s.fhWindow peer 0 sp.car (s.taskSym k sp 0)) then [1000] else [])
      ++ (List.range sp.count).filter fun i =>
        (recOf s.radio.fhSent t i k).isNone && (s.bandStamp k i).isSome && within (s.fhWindow peer 1 sp.car (s.taskSym k sp i))

/-- The components and scale of PRB b of symbol i of an FH_TX task. -/
def State.fhPrb (s : State) (k : Task) (b i : Nat) : List Int × Int :=
  let vals := match s.operand k 0 with
    | none => []
    | some t => (List.range 12).flatMap fun j =>
        let z := ofCi16 ((t.liveBand i).code s k.handle (toInts (fhIdx t (12 * b + j) i)))
        [z.1, z.2]
  let sc := match s.operand k 1 with
    | none => 0
    | some t => signed 8 ((t.liveBand i).code s k.handle (toInts (fhIdx t b i)))
  (vals, sc)

/-- Send the user-plane messages of symbol i, no frame beyond 9,000 bytes (R398). -/
def fhSendSymbol (k : Task) (i : Nat) : M Unit := do
  let s ← getS
  let p := k.params
  let sp := fhSpan p
  let comp := fhComp p
  let n := fhPrbCount p
  let per := 8900 / prbSize comp
  let down := if fhRole p = 0 then 1 else 0
  for c in List.range (ceilDiv n per) do
    let first := c * per
    let m := min per (n - first)
    let prbs := (List.range m).map fun b =>
      let x := s.fhPrb k (first + b) i
      fhCompress comp x.1 x.2
    bump (Reg.rdSat 5) Fld.rdSatCount (prbs.foldl (fun a x => a + x.2.2) 0)
    fhSend p 0 (oranHead down (s.radioTime sp.car (s.taskSym k sp i)) ++ uSection comp (fhStart p + first) m (prbs.flatMap (prbBytes comp)))

/-- FH_WINDOW_OPEN (R379, R399, R401): the messages of a peer's task whose windows are open and whose bands are filled leave, unless the time
state holds transmission. -/
def fhWindowOpen (peer : Nat) : M Unit := do
  let s ← getS
  match s.fhTask 0x609 peer with
  | none => pure ()
  | some (t, k) => do
    let sp := fhSpan k.params
    for i in s.fhSendable peer do
      let held ← heldForTime
      if i = 1000 then
        if !held then fhSend k.params 2 (cMessage k.params (s.radioTime sp.car (s.taskSym k sp 0)) sp.count)
      else if held then bump (Reg.dfeCnt sp.car) Fld.dfeCntTxZero 1
      else fhSendSymbol k i
      modRadio fun r => { r with fhSent := r.fhSent ++ [⟨t, i, s.clock.now, [[1]]⟩] }

def execFhWindowOpen (peer : Nat) (s : State) : Host.Outcome State Fault Refusal :=
  whenEnabled (fun s => peer < 16 && !(s.fhSendable peer).isEmpty) (fhWindowOpen peer) s

/-- Symbols of a peer's running task whose window's close is declared now (R150, R401). -/
def State.fhClosing (s : State) (peer : Nat) (op : Nat) : List Nat :=
  match s.fhTask op peer with
  | none => []
  | some (t, k) =>
    let sp := fhSpan k.params
    let seen := if op = 0x609 then s.radio.fhSent else s.radio.fhClosed
    (List.range sp.count).filter fun i => (recOf seen t i k).isNone
      && decide ((s.fhWindow peer (if op = 0x609 then 1 else 3) sp.car (s.taskSym k sp i)).2 + settleMargin ≤ (s.clock.now : Int))

/-- FH_WINDOW_CLOSE (R401): symbols not sent by close are counted with event 0x4C06; an FH_RX task waits no longer for a symbol. -/
def fhWindowClose (peer : Nat) : M Unit := do
  let s ← getS
  for i in s.fhClosing peer 0x609 do
    match s.fhTask 0x609 peer with
    | none => pure ()
    | some (t, k) => do
      let sp := fhSpan k.params
      bump (Reg.fheCntB peer) Fld.fheCntBTxMissed 1
      modRadio fun r => { r with fhSent := r.fhSent ++ [⟨t, i, s.clock.now, []⟩] }
      settleAll (← raiseFor t 0x35 5 0x4C06 (taskDetail [(1, peer), (1, sp.l0 + i), (2, fhEaxc k.params)] k 0xFF))
  for i in s.fhClosing peer 0x60A do
    match s.fhTask 0x60A peer with
    | none => pure ()
    | some (t, _) => modRadio fun r => { r with fhClosed := r.fhClosed ++ [⟨t, i, s.clock.now, [[1]]⟩] }

def execFhWindowClose (peer : Nat) (s : State) : Host.Outcome State Fault Refusal :=
  whenEnabled (fun s => peer < 16 && !((s.fhClosing peer 0x609).isEmpty && (s.fhClosing peer 0x60A).isEmpty)) (fhWindowClose peer) s

/-! ## FH_TX and FH_RX -/

/-- Whether every symbol of a task is settled. -/
def settled (l : List SymRec) (t : Nat) (k : Task) : Bool := (unseen l t k (fhSpan k.params).count).isEmpty

/-- The elements an FH_TX task has sent. -/
def fhTxPlan (t : Nat) (k : Task) (s : State) (ts : List Ten) : Plan :=
  let n := fhPrbCount k.params
  let sent := (List.range (fhSpan k.params).count).filter fun i => ((recOf s.radio.fhSent t i k).map fun r => !r.data.isEmpty).getD false
  let reads : Nat → Nat → List (Nat × List Int) := fun sl m => match tenAt ts sl with
    | none => []
    | some x => sent.flatMap fun i => (List.range m).map fun j => (sl, toInts (fhIdx x j i))
  ⟨reads 0 (12 * n) ++ reads 1 n, [], []⟩

/-- FH_TX (R399, R401): done once every symbol has been sent or missed. -/
def fhTx (t : Nat) : M Unit := do
  let s ← getS
  match s.task t with
  | none => pure ()
  | some k => do
    runPlan t .none false (fhTxPlan t k)
    modRadio fun r => { r with fhSent := r.fhSent.filter fun e => e.task != t }

def execFhTx (engine : Nat) (s : State) : Host.Outcome State Fault Refusal :=
  whenEnabled (fun s => match s.opTask engine 0x609 with
      | some t => ((s.task t).map fun k => settled s.radio.fhSent t k).getD false
      | none => false) (do
    let s ← getS
    match s.opTask engine 0x609 with
    | some t => fhTx t
    | none => pure ()) s

/-- The PRBs of an FH_RX task: (symbol, PRB) with what was received. -/
def State.fhResults (s : State) (t : Nat) (k : Task) : List ((Nat × Nat) × Option RxPrb) :=
  (List.range (fhSpan k.params).count).flatMap fun i => (List.range (fhPrbCount k.params)).map fun b =>
    ((i, b), s.radio.fhPrbs.find? fun r => r.task == t && r.index == i && r.prb == fhStart k.params + b)

def fhRxPlan (t : Nat) (k : Task) (s : State) (ts : List Ten) : Plan :=
  match tenAt ts 8, tenAt ts 9 with
  | some v, some sc =>
    ⟨[], [], (s.fhResults t k).flatMap fun r =>
      ((List.range 12).map fun j => (⟨8, fhIdx v (12 * r.1.2 + j) r.1.1, (r.2.map fun x => x.vals.getD j 0).getD 0, false, none⟩ : OutW))
      ++ [⟨9, fhIdx sc r.1.2 r.1.1, unsigned 8 ((r.2.map (·.exp)).getD 0), false, none⟩]⟩
  | _, _ => ⟨[], [], []⟩

/-- FH_RX (R401): once its windows have closed, values and scales are written; PRBs not received are zeros, counted in oob_reads. -/
def fhRx (t : Nat) : M Unit := do
  let s ← getS
  match s.task t with
  | none => pure ()
  | some k => do
    runPlanWith t .none false (fhRxPlan t k) (fun s _ => ([], ((s.fhResults t k).filter fun r => r.2.isNone).length)) fun _ => pure ()
    modRadio fun r => { r with
      fhPrbs := r.fhPrbs.filter fun e => e.task != t
      fhClosed := r.fhClosed.filter fun e => e.task != t }

def execFhRx (engine : Nat) (s : State) : Host.Outcome State Fault Refusal :=
  whenEnabled (fun s => match s.opTask engine 0x60A with
      | some t => ((s.task t).map fun k => settled s.radio.fhClosed t k).getD false
      | none => false) (do
    let s ← getS
    match s.opTask engine 0x60A with
    | some t => fhRx t
    | none => pure ()) s

/-! ## Reception (R398, R399, R401) -/

/-- Unpack fields of one width, highest bit first. -/
def unpackFields (w n : Nat) (bs : List Byte) : List Nat :=
  let x := leNat bs.reverse
  let total := 8 * bs.length
  (List.range n).map fun i => bitsOf x (total - w * (i + 1)) w

/-- The PRBs of a user-plane section's data: (mantissas as CI16 encodings, exponent). -/
def readPrbs (comp n : Nat) (bs : List Byte) : List (List Nat × Int) :=
  (List.range n).map fun i =>
    let b := (bs.drop (i * prbSize comp)).take (prbSize comp)
    let e := if comp = 0 then 0 else leAt b 0 1 % 16
    let w := fhWidth comp
    let m := unpackFields w 24 (if comp = 0 then b else b.drop 1)
    ((List.range 12).map fun j => toCi16 (signed w (m.getD (2 * j) 0), signed w (m.getD (2 * j + 1) 0)), (e : Int))

/-- The compression code of a header byte; none where it is not supported (R398). -/
def compOf (b : Nat) : Option Nat := (List.range 4).find? fun c => udComp c == b || (c == 0 && b % 16 == 0)

/-- The symbol of the running FH_RX task that a message's radio time names. -/
def State.fhMatch (s : State) (k : Task) (r : Nat × Nat × Nat × Nat) : Option Nat :=
  let sp := fhSpan k.params
  (List.range sp.count).find? fun i => s.radioTime sp.car (s.taskSym k sp i) == r

/-- An eCPRI message from a peer, with its MAC stamp. -/
def fhReceive (peer stamp : Nat) (msg : List Byte) : M Unit := do
  let s ← getS
  bump (Reg.rdWork 5) Fld.rdWorkCount 1
  let type := beAt msg 1 1
  let eaxc := beAt msg 4 2
  let seq := beAt msg 6 1
  let body := msg.drop 8
  match s.fhTask 0x60A peer with
  | none => pure ()
  | some (t, k) =>
    if fhEaxc k.params = eaxc && beAt msg 0 1 == 0x10 && (type == 0 || (type == 2 && fhRole k.params == 1)) then
      let seen := tblGet s.radio.fhSeen [] eaxc
      if seen.contains (type * 256 + seq) then bump (Reg.fheCntB peer) Fld.fheCntBRxDup 1
      else
        modRadio fun r => { r with fhSeen := tblSet r.fhSeen eaxc (((type * 256 + seq) :: seen).take 128) }
        let h := beAt body 0 4
        let down := bitsOf h 31 1
        let time := (bitsOf h 16 8, bitsOf h 12 4, bitsOf h 6 6, bitsOf h 0 6)
        let sp := fhSpan k.params
        match s.fhMatch k time with
        | none => pure ()
        | some i =>
          let w := s.fhWindow peer (if type = 2 then 2 else 3) sp.car (s.taskSym k sp i)
          if down ≠ fhRole k.params then pure ()
          else if (stamp : Int) < w.1 then bump (Reg.fheCntA peer) Fld.fheCntARxEarly 1
          else if w.2 < (stamp : Int) then bump (Reg.fheCntA peer) Fld.fheCntARxLate 1
          else if type = 2 then
            -- the first section stands behind 4 bytes (section type 1) or 8 (section type 3); ef is bit 15 of its last halfword
            let sec := body.drop (if beAt body 5 1 = 3 then 12 else 8)
            (if bitAt (beAt sec 6 2) 15 then bump (Reg.fheCntB peer) Fld.fheCntBRxDup 1 else pure ())
          else
            let sh := beAt body 4 4
            match compOf (beAt body 8 1) with
            | none => pure ()
            | some comp =>
              let first := bitsOf sh 8 10 % 1024
              let cnt := bitsOf sh 0 8
              let n := if cnt = 0 then (body.length - 10) / prbSize comp else cnt
              let got := (readPrbs comp n (body.drop 10)).zipIdx.map fun x => (⟨t, i, first + x.2, x.1.1, x.1.2⟩ : RxPrb)
              modRadio fun r => { r with fhPrbs := r.fhPrbs ++ got }

end Sys2Proof.Machine
end

