-- ==== Sys2Proof/Machine/Ports.lean ====
section
/-! DEFINITION. Port operations (R79, R104, R111–R116, R132, R139, R151, R153). Port i is page 0x01E + i: 0 a PCIe host,
1 the BCC, 2 + n application core n. -/

namespace Sys2Proof.Machine

open Sys2Proof

/-- Payload word k of a port's request. -/
def State.enq (s : State) (i k : Nat) : Nat := (s.reg (Reg.enqData i k)).toNat

/-- The 48 payload bytes of a port's request. -/
def State.enqBytes (s : State) (i : Nat) : List Byte := (List.range 6).flatMap fun k => leBytes 8 (s.enq i k)

/-- The handle a port carries (R111). -/
def State.portHandle (s : State) (i : Nat) : Nat := s.fld (Reg.portHandle i) Fld.portHandleHandle

/-- Judge a request (R112, R114): PORT_ACK holds status and sequence with done = 1, and waits to be read. -/
def portAck (i code seq : Nat) : M Unit := do
  wrReg (Reg.portAck i) (BitVec.ofNat 64 (code + 2 ^ 16 + seq * 2 ^ 32))
  modTally fun x => { x with unread := (x.unread.filter (· ≠ i)) ++ [i] }
  answer (code == 0) (leBytes 1 code ++ leBytes 4 seq)

/-- The lowest status among those that apply (R92, R114); 0 when none does. -/
def lowest (codes : List (Bool × Nat)) : Nat :=
  match (codes.filter (·.1)).map (·.2) with
  | [] => 0
  | c :: cs => cs.foldl min c

/-- Run a port operation (R112): a command written before the last acknowledgement was read is ignored with event 0x3003; otherwise
the operation judges itself, out of service while in bivouac or before Tally accepts work (R471, R521). -/
def portOp (i cmd : Nat) (op : M Unit) : M Unit := do
  let s ← getS
  if s.tally.unread.contains i then
    raise 0x80 6 0x3003 (det [(4, Reg.portCmd i), (4, cmd)])
  else if s.rcv.bivouac ∨ !s.tally.accepting then portAck i 0x20 0
  else op

/-- PORT_CMD as written for an operation. -/
def cmdWord (op ty target : Nat) : Nat := target % 2 ^ 20 + ty % 16 * 2 ^ 20 + op * 2 ^ 24

/-- PORT_ACK_READ (R112): where the request has been judged, the port may take its next command. -/
def portAckRead (i : Nat) : M Unit := do
  let s ← getS
  if s.flag (Reg.portAck i) Fld.portAckDone then modTally fun x => { x with unread := x.unread.filter (· ≠ i) }
  answer true (leBytes 8 (s.reg (Reg.portAck i)).toNat)

def execPortAckRead (port : Nat) (s : State) : Host.Outcome State Fault Refusal := always (portAckRead port) s

/-- Whether a queue lies behind a fence (R114, R461): its ring's home, or the die's. -/
def State.queueFenced (s : State) (q : Queue) : Bool :=
  (s.fence 0x200).isSome ||
    (if q.ledger then s.fenced q.home || s.fenced q.mirror || q.blocked
     else match s.peekAddr q.owner q.base with
      | some a => s.placeFenced (s.place a)
      | none => false)

/-- Statuses of an enqueue that do not depend on a task (R79, R106, R109, R113, R114, R444). -/
def enqueueCodes (s : State) (h q ty : Nat) : List (Bool × Nat) :=
  match s.queue q with
  | none => [((s.ctx h).isNone, 0x18), (6 ≤ ty, 0x12), (true, 0x1D)]
  | some u =>
    [((s.ctx h).isNone, 0x18), (6 ≤ ty, 0x12), (!s.mayEnqueue h q, 0x15),
     (u.submitOnly && ty != 1, 0x19), (u.submitOnly && ty == 1 && u.owner != h, 0x15),
     (s.gateRefuses q none, 0x19), (u.full, 0x1A), (s.queueFenced u || s.mirrorDown u, 0x1C),
     (u.ledger && !(s.ledgerRoom u.home 64 && s.ledgerRoom u.mirror 64), 0x1B)]

/-- The status a failed ring write gives a port enqueue (R554). -/
def AppendErr.code : AppendErr → Nat
  | .full => 0x1A
  | .fenced => 0x1C
  | .room => 0x1B
  | .memory => 0x17
  | .none => 0x1D
  | .gated => 0x19

/-- Acknowledge an accepted enqueue: at once, or once the peer of a mirrored queue has acknowledged the entry (R424). -/
def ackEnqueue (i q seq : Nat) (task : Option Nat) (work : M (List Work)) : M Unit := do
  let s ← getS
  if ((s.queue q).bind Queue.mirrored).isSome then
    wrReg (Reg.portAck i) 0#64
    modTally fun x => { x with unread := (x.unread.filter (· ≠ i)) ++ [i] }
    update (.fabric fun f => { f with waits := f.waits ++ [⟨q, seq, some i, task⟩] })
  else
    wrReg (Reg.portStamp i) (BitVec.ofNat 64 s.clock.now)
    portAck i 0 seq
    settleAll (← work)

/-- Port operation 0 for an entry that submits no task (R112, R114). -/
def enqueueData (i q ty : Nat) : M Unit := do
  let s ← getS
  let h := s.portHandle i
  let code := lowest (enqueueCodes s h q ty)
  if code ≠ 0 then portAck i code 0
  else
    match ← appendEntry q ty (s.enqBytes i) h (s.safetyOf h) none none noKey with
    | .error e => portAck i e.code 0
    | .ok seq => ackEnqueue i q seq none (return [.bind q])

/-- Port operation 0 for a submission (R52, R115, R117–R119, R153, R365): the descriptor is read and judged, resources reserved,
the entry written, the task stored. -/
def enqueueSubmit (i q : Nat) : M Unit := do
  let s ← getS
  let h := s.portHandle i
  let payload := s.enqBytes i
  let addr := leAt payload 0 8
  let early := enqueueCodes s h q 1
    ++ [(!allZero payload 8 40, 0x12), (addr % 64 != 0 || !canonical addr, 0x17)]
  let fatal := lowest (early.filter fun c => c.2 == 0x18 || c.2 == 0x1D || c.2 == 0x17)
  if fatal ≠ 0 then do
    let code := lowest early
    portAck i code 0
    if code ≤ 0x19 then settleAll (← rejected h code 0xFF q)
  else
    match ← ctxRead 0x80 h addr 128 with
    | .error _ => do
      let code := lowest ((true, 0x17) :: early)
      portAck i code 0
      if code ≤ 0x19 then settleAll (← rejected h code 0xFF q)
    | .ok d => do
      let s ← getS
      let ledgerQ := ((s.queue q).map (·.ledger)).getD false
      let v := lowestViolation (taskViolations s h ledgerQ d)
      let codes := early ++ (match v with | some x => [(true, x.1)] | none => [])
        ++ [(!s.hasRoom h none false [d] || s.ringBusy h d 0, 0x1B)]
      let code := lowest codes
      if code ≠ 0 then do
        portAck i code 0
        if code ≤ 0x19 then
          settleAll (← rejected h code (match v with | some x => if x.1 = code then x.2 else 0xFF | none => 0xFF) q)
      else do
        let t := s.tally.nextTask
        match ← appendEntry q 1 payload h (s.safetyOf h) (some (t, 0xFF)) none noKey with
        | .error e => portAck i e.code 0
        | .ok seq => do
          let _ ← storeTask h d (.enq q seq) none
          ackEnqueue i q seq (some t) (takeTokens t)

/-- Port operation 0 (R112). -/
def enqueueOp (i q ty : Nat) : M Unit := if ty = 1 then enqueueSubmit i q else enqueueData i q ty

def execEnqueue (port target ty : Nat) (s : State) : Host.Outcome State Fault Refusal :=
  always (portOp port (cmdWord 0 ty target) (enqueueOp port target ty)) s

def execTaskSubmission (port target : Nat) (s : State) : Host.Outcome State Fault Refusal :=
  always (portOp port (cmdWord 0 1 target) (enqueueSubmit port target)) s

/-- LEDGER_ACCEPTANCE (R153): an enqueue whose target is in ledger mode. -/
def execLedgerAcceptance (port target ty : Nat) (s : State) : Host.Outcome State Fault Refusal :=
  whenEnabled (fun s => ((s.queue target).map (·.ledger)).getD false)
    (portOp port (cmdWord 0 ty target) (enqueueOp port target ty)) s

/-- Port operation 1 (R107, R108, R112, R557): the owner takes the entry that may be bound next. -/
def dequeueOp (i q : Nat) : M Unit := do
  let s ← getS
  let h := s.portHandle i
  match s.queue q with
  | none => portAck i (lowest [((s.ctx h).isNone, 0x18), (true, 0x1D)]) 0
  | some u =>
    let e := bindable u
    let code := lowest [((s.ctx h).isNone, 0x18), (u.owner != h, 0x15), (s.queueFenced u, 0x1C), (e.isNone, 0x1E)]
    match e with
    | none => portAck i code 0
    | some e =>
      if code ≠ 0 then portAck i code 0
      else
        match ← ctxRead 0x80 u.owner (u.base + 64 * e.slot) 64 with
        | .error x => portAck i (if x = .fence then 0x1C else 0x17) 0
        | .ok bs => do
          for k in List.range 8 do
            wrReg (Reg.deqData i k) (BitVec.ofNat 64 (leAt bs (8 * k) 8))
          let ws ← leaveEntry q e.seq
          portAck i 0 e.seq
          settleAll ws

def execDequeue (port target : Nat) (s : State) : Host.Outcome State Fault Refusal :=
  always (portOp port (cmdWord 1 0 target) (dequeueOp port target)) s

/-- The class of memory a ring page lies in (R104, R113): DDR, Hall, or one partition buffer. -/
def State.ringClass (s : State) (a : Nat) : Nat :=
  match s.place a with
  | .ddr _ _ => 1
  | .hall _ => 2
  | .pbuf p _ => 3 + p
  | _ => 0

/-- The home partition of a DDR address, 4 for others. -/
def State.homeOf (s : State) (a : Nat) : Nat :=
  match s.place a with
  | .ddr p _ => p
  | _ => 4

/-- The mirror home (R151): the first C partition after the primary with a populated pair. -/
def State.mirrorHome (s : State) (p : Nat) : Nat :=
  (([1, 2, 3].map fun i => (p + i) % 4).find? s.populated).getD p

/-- Where a new mirror ring goes in the mirror home's ledger region: after those already there (log entry 12). -/
def State.mirrorPlace (s : State) (p : Nat) : Nat :=
  getBits (s.reg (Reg.ledgerBase p)) 16 24 * 2 ^ 16 + s.mirrorBytes p

/-- What word 2 of a create-queue payload asks for (R423): nothing, or the far end with the codes that refuse it. -/
def State.peerWord (s : State) (h n : Nat) (ledger : Bool) (w : Nat) : List (Bool × Nat) × Option (Nat × Nat × Nat) :=
  let proxy := bitAt w 0
  let mirror := bitAt w 1
  let r := bitsOf w 2 6
  let pq := bitsOf w 8 20
  let j := bitsOf w 28 4
  if w = 0 then ([], none)
  else
    let used := s.tally.queues.foldl (fun m p => match p.2.mirrored with
      | some (a, b, off) => if a = j ∧ b = r then max m (off + mirrorSpan p.2.entries) else m
      | none => m) 0
    ([(bitsOf w 32 32 != 0 || proxy == mirror || (mirror && pq != 0), 0x12),
      (s.reg (Reg.fabJobCfg j) == 0#64 || s.jobHandle j != h || s.jobMembers j ≤ r || s.jobRank j == r, 0x15),
      (mirror && !ledger, 0x19)],
     some (j, r, if proxy then pq else 2 ^ 20 + (if n = 0 then 0 else used)))

/-- Begin the read-back of a mirrored queue's part of the region (R424); answers whether the peer holds a region for it. -/
def readMirror (q n : Nat) (far : Nat × Nat × Nat) : M Bool := do
  match ← openQp far.1 far.2.1 with
  | none => return false
  | some i =>
    match ← readMember far.1 far.2.1 with
    | none => return false
    | some b =>
      let off := far.2.2 - 2 ^ 20
      if mbMirrorBase b = 0 ∨ mbMirrorSize b < off + mirrorSpan n then return false
      else do
        postRead i (mbMirrorRkey b) (mbMirrorBase b + off) (mirrorSpan n) (some (q, 0))
        return true

/-- Port operation 2 (R104, R110, R112, R113, R151, R423, R424). -/
def createQueueOp (i : Nat) : M Unit := do
  let s ← getS
  let h := s.portHandle i
  let w0 := s.enq i 0
  let w1 := s.enq i 1
  let base := slotAddr w0
  let n := bitsOf w1 0 20 + 1
  let order := bitsOf w1 20 2
  let word := bitsOf w1 22 4
  let ledger := bitAt w1 26
  let pin := bitAt w1 27
  let reserved := bitsOf w1 29 35 != 0 || ((List.range 3).any fun k => s.enq i (3 + k) != 0)
  let (peerCodes, far) := s.peerWord h n ledger (s.enq i 2)
  let mirror2 := ((far.map fun x => decide (2 ^ 20 ≤ x.2.2)).getD false)
  let pinned := (s.tally.queues.filter fun p => p.2.pin).length
  let id := lowestFree (fun q => (tblFind s.tally.queues q).isSome) 0xFFFFF 1
  let early : List (Bool × Nat) := [((s.ctx h).isNone, 0x18),
    (reserved || n < 16 || order == 3 || (order != 2 && word != 0) || 11 < word, 0x12),
    (w0 % 64 != 0 || bitsOf w0 48 16 != 0 || !s.inBuffer h base (64 * n), 0x17),
    (ledger && s.populatedParts.length < 2, 0x19),
    ((pin && 4096 ≤ pinned) || id.isNone, 0x1B)] ++ peerCodes
  if lowest (early.filter fun c => c.2 ≤ 0x18) ≠ 0 then portAck i (lowest early) 0
  else do
    let mut ok := true
    let mut pas : List Nat := []
    for j in List.range ((64 * n + base % 4096 + 4095) / 4096) do
      match ← translate 0x80 h (base / 4096 * 4096 + 4096 * j) false with
      | .error _ => ok := false
      | .ok pa => pas := pas ++ [pa]
    let s ← getS
    let classes := (pas.map s.ringClass).dedup
    let homes := (pas.map s.homeOf).dedup
    let home := homes.headD 4
    let mirror := s.mirrorHome home
    let code := lowest (early ++ [(!ok || classes.length != 1 || classes.contains 0, 0x17),
      (ledger && (homes.length != 1 || home == 4), 0x19),
      (ledger && home < 4 && !(s.ledgerRoom home 64 && s.ledgerRoom mirror (64 * n)), 0x1B)])
    let q := id.getD 0
    let peered := match far with
      | some f => if mirror2 && code == 0 then readMirror q n f else pure true
      | none => pure true
    if code ≠ 0 then portAck i code 0
    else if !(← peered) then portAck i 0x1C 0
    else do
      let u : Queue :=
        { owner := h, base := base, entries := n, order := order, flowWord := word, ledger := ledger, pin := pin,
          submitOnly := bitAt w1 28, grants := [], ents := [], next := 0, drops := 0, lastDrop := none,
          evSeq := 0, evLost := 0, home := home, mirror := mirror,
          mirrorBase := if ledger then s.mirrorPlace mirror else 0, blocked := false, waiters := [], keys := [],
          left := 0, remote := far, reading := mirror2 }
      modTally fun x => { x with queues := tblSet x.queues q u }
      portAck i 0 q

def execCreateQueue (port : Nat) (s : State) : Host.Outcome State Fault Refusal :=
  always (portOp port (cmdWord 2 0 0) (createQueueOp port)) s

/-- Whether a task names a queue (R54): a slot of kind 0x4, or its notify queue. -/
def namesQueue (d : Desc) (q : Nat) : Bool :=
  (dNotify d && dNotifyQueue d == q)
    || (List.range 12).any fun n => slotKind (dSlot d n) == 4 && slotQueue (dSlot d n) == q

/-- Live tasks that name a queue or were submitted through it. -/
def State.tasksOnQueue (s : State) (q : Nat) : List Nat :=
  (s.tally.tasks.filter fun p => namesQueue p.2.desc q ||
    (match p.2.origin with | .enq q' _ => q' == q | _ => false)).map (·.1)

/-- Whether a ledger queue holds accepted, uncommitted entries (R54). -/
def State.uncommitted (s : State) (q : Nat) : Bool :=
  s.tally.ledger.any fun r => r.queue == q && r.ty == 1 && s.openEntry q r.seq && !s.hasRecord q r.seq 2

/-- Discard a queue with its entries and ledger records. -/
def dropQueue (q : Nat) : M Unit :=
  modTally fun x => { x with
    queues := tblDel x.queues q
    ledger := x.ledger.filter fun r => r.queue != q
    heldLists := x.heldLists.filter fun l => l.queue != q
    headCache := x.headCache.filter (· ≠ q) }

/-- Port operation 3 (R54, R104, R112): refused when occupied or named unless forced; a forced destruction reports the
entries discarded and the tasks cancelled in event 0x0004. -/
def destroyQueueOp (i q : Nat) : M Unit := do
  let s ← getS
  let h := s.portHandle i
  let force := bitAt (s.enq i 0) 0
  match s.queue q with
  | none => portAck i (lowest [((s.ctx h).isNone, 0x18), (true, 0x1D)]) 0
  | some u =>
    let live := s.tasksOnQueue q
    let busy := !u.ents.isEmpty || !live.isEmpty
    let code := lowest [((s.ctx h).isNone, 0x18), (u.owner != h, 0x15), (q == 0, 0x19),
      ((!force && busy) || (u.ledger && s.uncommitted q), 0x19), (s.queueFenced u, 0x1C)]
    if code ≠ 0 then portAck i code 0
    else do
      let n := u.ents.length
      for t in live do finish t 4
      dropQueue q
      portAck i 0 0
      if force then raise 0x80 6 0x0004 (det [(4, q), (4, n), (4, live.length)])

def execDestroyQueue (port target : Nat) (s : State) : Host.Outcome State Fault Refusal :=
  always (portOp port (cmdWord 3 0 target) (destroyQueueOp port target)) s

/-- Port operation 4 (R79): up to 16 grants, each naming a full handle. -/
def grantOp (i q : Nat) : M Unit := do
  let s ← getS
  let h := s.portHandle i
  let g := s.enq i 0 % 2 ^ 20
  match s.queue q with
  | none => portAck i (lowest [((s.ctx h).isNone, 0x18), (true, 0x1D)]) 0
  | some u =>
    let code := lowest [((s.ctx h).isNone, 0x18), (bitsOf (s.enq i 0) 20 44 != 0, 0x12), (u.owner != h, 0x15),
      (!u.grants.contains g && 16 ≤ u.grants.length, 0x1B)]
    if code ≠ 0 then portAck i code 0
    else do
      modQueue q fun u => { u with grants := u.grants.filter (· ≠ g) ++ [g] }
      portAck i 0 0

def execGrant (port target : Nat) (s : State) : Host.Outcome State Fault Refusal :=
  always (portOp port (cmdWord 4 0 target) (grantOp port target)) s

/-- Port operation 5 (R79). -/
def revokeOp (i q : Nat) : M Unit := do
  let s ← getS
  let h := s.portHandle i
  let g := s.enq i 0 % 2 ^ 20
  match s.queue q with
  | none => portAck i (lowest [((s.ctx h).isNone, 0x18), (true, 0x1D)]) 0
  | some u =>
    let code := lowest [((s.ctx h).isNone, 0x18), (bitsOf (s.enq i 0) 20 44 != 0, 0x12), (u.owner != h, 0x15)]
    if code ≠ 0 then portAck i code 0
    else do
      modQueue q fun u => { u with grants := u.grants.filter (· ≠ g) }
      portAck i 0 0

def execRevoke (port target : Nat) (s : State) : Host.Outcome State Fault Refusal :=
  always (portOp port (cmdWord 5 0 target) (revokeOp port target)) s

/-- µ of a radio-slot period (R403); none for a period the rule does not name. -/
def slotMu (period : Nat) : Option Nat := if period = 2147484 then some 1 else if period = 4294967 then some 0 else none

/-- Port operation 6 (R48, R112, R132, R134, R248, R370): the table is copied and every template judged; refused whole. -/
def registerGraphOp (i : Nat) : M Unit := do
  let s ← getS
  let h := s.portHandle i
  let w0 := s.enq i 0
  let w1 := s.enq i 1
  let w2 := s.enq i 2
  let w3 := s.enq i 3
  let table := slotAddr w0
  let count := bitsOf w1 0 10 + 1
  let cadence := bitsOf w1 13 2
  let camera := bitsOf w1 15 5
  let list := bitsOf w1 20 3
  let unused := (cadence != 1 && camera != 0) || (cadence != 2 && (list != 0 || w2 != 0 || w3 != 0))
  let reserved := bitsOf w1 23 41 != 0 || bitsOf w3 32 32 != 0 || s.enq i 4 != 0 || s.enq i 5 != 0
  let early : List (Bool × Nat) := [((s.ctx h).isNone, 0x18),
    (reserved || cadence == 3 || unused, 0x12),
    (w0 % 64 != 0 || bitsOf w0 48 16 != 0 || !s.inBuffer h table (128 * count), 0x17)]
  if lowest early ≠ 0 then portAck i (lowest early) 0
  else
    match ← ctxRead 0x80 h table (128 * count) with
    | .error _ => portAck i 0x17 0
    | .ok bs => do
      let s ← getS
      let ds := (List.range count).map fun j => (bs.drop (128 * j)).take 128
      let bad := (List.range count).filterMap fun j =>
        let d := ds.getD j []
        (lowestViolation (taskViolations s h false d ++ templateViolations count cadence d)).map fun v => (v.1, j, v.2)
      let worst := bad.foldl (fun (m : Option (Nat × Nat × Nat)) v =>
        match m with
        | none => some v
        | some w => if v.1 < w.1 then some v else some w) none
      let g : Graph := ⟨h, ds, bitsOf w1 10 3 + 1, cadence, camera, list, w2, w3 % 2 ^ 32, 0, [], false⟩
      let id := lowestFree (fun x => (tblFind s.tally.graphs x).isSome) 16384 0
      let code := lowest ([(s.tooManyConsumers h ds, 0x19), (cadence == 2 && (list != 0 || slotMu (w3 % 2 ^ 32) == none), 0x19), (id.isNone || !s.canReserve g, 0x1B),
        (s.creditCycle h ds, 0x1F)] ++ (match worst with | some v => [(true, v.1)] | none => []))
      if code ≠ 0 then do
        portAck i code 0
        match worst with
        | some v => if v.1 = code then settleAll (← rejected h code v.2.2 (v.2.1 * 2 ^ 20 + 2 ^ 31))
        | none => pure ()
      else do
        modTally fun x => { x with graphs := tblSet x.graphs (id.getD 0) g }
        portAck i 0 (id.getD 0)

def execRegisterGraph (port : Nat) (s : State) : Host.Outcome State Fault Refusal :=
  always (portOp port (cmdWord 6 0 0) (registerGraphOp port)) s

/-- Port operation 7 (R55): no new instance is made after the request; the template goes when its last instance has ended. -/
def deregisterGraphOp (i : Nat) : M Unit := do
  let s ← getS
  let h := s.portHandle i
  let g := s.enq i 0 % 2 ^ 14
  match tblFind s.tally.graphs g with
  | none => portAck i (lowest [((s.ctx h).isNone, 0x18), (true, 0x1D)]) 0
  | some gr =>
    let code := lowest [((s.ctx h).isNone, 0x18), (gr.owner != h, 0x15)]
    if code ≠ 0 then portAck i code 0
    else do
      modTally fun x => { x with graphs := tblSet x.graphs g { gr with dereg := true } }
      portAck i 0 0

def execDeregisterGraph (port : Nat) (s : State) : Host.Outcome State Fault Refusal :=
  always (portOp port (cmdWord 7 0 0) (deregisterGraphOp port)) s

/-- GRAPH_DEREGISTRATION_DONE (R55). -/
def execGraphDeregistrationDone (graph : Nat) (s : State) : Host.Outcome State Fault Refusal :=
  whenEnabled
    (fun s => ((tblFind s.tally.graphs graph).map (·.dereg)).getD false && (s.liveInstances graph).isEmpty)
    (modTally fun x => { x with graphs := tblDel x.graphs graph }) s

end Sys2Proof.Machine
end

