-- ==== Sys2Proof/Machine/Fabric.lean ====
section
/-! DEFINITION. The commands of the fabric engine: RoCEv2 reception and acknowledgement (R416–R419), lost peers (R426), communication
operations (R421, R422), jobs (R427). -/

namespace Sys2Proof.Machine

open Sys2Proof

/-! ## Answers -/

/-- An acknowledgement (0x1F), an RNR NAK (0x20) or a NAK (0x60 sequence, 0x61 invalid request, 0x62 remote access, 0x63 remote
operation) of a packet. -/
def acknowledge (i psn syndrome : Nat) : M Unit := do
  let s ← getS
  sendPacket (s.qp i).peer 17 psn (beBytes 1 syndrome ++ beBytes 3 0) []

/-- A congestion-marked packet has one CNP returned, at most one per FAB_RC.cnp_us (R419). -/
def congestion (i : Nat) (ce : Bool) : M Unit := do
  let s ← getS
  let due : Bool := match (s.qp i).cnpAt with
    | none => true
    | some t => decide (t + usUnits (s.fld Reg.fabRc Fld.fabRcCnpUs) ≤ s.clock.now)
  if ce && due then
    modQp i fun q => { q with cnpAt := some s.clock.now }
    sendPacket (s.qp i).peer 0x81 0 [] (zeros 16)

/-- The queue pair a packet names, set up where the member table names it for a peer of a job (R420); whether it takes packets. -/
def ensureQp (i : Nat) : M Bool := do
  let s ← getS
  if s.fabFenced then return false
  else if (tblFind s.fabric.qps i).isSome then return (s.qp i).phase == .ready
  else
    let js := (List.range 16).filter fun j => s.reg (Reg.fabJobCfg j) != 0#64
    let pairs := js.flatMap fun j => ((List.range (s.jobMembers j)).filter fun r => r != s.jobRank j).map fun r => (j, r)
    let mut found := false
    for (j, r) in pairs do
      if !found then
        match ← readMember j r with
        | some b =>
          if mbQp b = i then
            let _ ← openQp j r
            found := true
        | none => pure ()
    return found

/-- Where a packet stands to the expected sequence number: 0 it is the one, 1 a repetition, 2 beyond a gap. -/
def seqClass (expected psn : Nat) : Nat :=
  let d := (psn + 2 ^ 24 - expected) % 2 ^ 24
  if d = 0 then 0 else if d < 2 ^ 23 then 2 else 1

/-- A request packet on a queue pair (R416): the expected one is taken; a repetition is acknowledged again, a gap answered with a NAK. -/
def inbound (i psn : Nat) (ce : Bool) (go : M Unit) : M Unit := do
  if ← ensureQp i then
    congestion i ce
    let s ← getS
    let e := (s.qp i).recvPsn
    match seqClass e psn with
    | 0 => go
    | 1 => acknowledge i ((e + 2 ^ 24 - 1) % 2 ^ 24) 0x1F
    | _ => acknowledge i e 0x60

/-! ## RDMA (R417, R418) -/

/-- Whether a remote key names a live context and one of its live buffers, and the range lies in it (R417, R418). -/
def State.rdmaOk (s : State) (rkey addr len : Nat) : Bool :=
  let h := rkey % 2 ^ 20
  decide (rkey < 2 ^ 30) && (s.ctx h).isSome
    && (match (s.tally.buffers.filter fun b => b.handle == h)[bitsOf rkey 20 10]? with
      | some b => b.base ≤ addr && addr + len ≤ b.base + b.length
      | none => false)

/-- Whether every page of a range translates for translation cache 7 (R418). -/
def rdmaTranslates (h addr len : Nat) (isWrite : Bool) : M Bool := do
  let mut ok := true
  for n in List.range ((len + addr % 4096 + 4095) / 4096) do
    if ok then
      match ← translate 0xB1 h (if n = 0 then addr else addr / 4096 * 4096 + 4096 * n) isWrite with
      | .error _ => ok := false
      | .ok _ => pure ()
  return ok

/-- Refuse an inbound WRITE or READ (R418): event 0x3D01, NAK. -/
def rdmaRefuse (i psn rkey addr : Nat) : M Unit := do
  let s ← getS
  raise 0xB1 6 0x3D01 (det [(4, rkey), (6, addr), (1, (s.qp i).job), (1, (s.qp i).rank)])
  modQp i fun q => { q with
    msg := 0
    part := [] }
  acknowledge i psn 0x62

/-- The checks of R418, with the answer to a request that fails them. -/
def rdmaAdmit (i psn rkey addr len : Nat) (isWrite : Bool) : M Bool := do
  let s ← getS
  let good ← if s.rdmaOk rkey addr len then rdmaTranslates (rkey % 2 ^ 20) addr len isWrite else pure false
  if !good then rdmaRefuse i psn rkey addr
  return good

/-- Take the expected packet of a message: its bytes join those before it, the sequence number moves on. -/
def takePacket (i kind : Nat) (first : Bool) (rkey addr len : Nat) (data : List Byte) : M Unit :=
  modQp i fun q => { q with
    part := (if first then [] else q.part) ++ data
    msg := kind
    rkey := if first then rkey else q.rkey
    addr := if first then addr else q.addr
    total := if first then len else q.total
    recvPsn := (q.recvPsn + 1) % 2 ^ 24 }

/-- A message has ended. -/
def endMessage (i : Nat) : M Unit := modQp i fun q => { q with
  part := []
  msg := 0 }

/-- RDMA_WRITE_RECEIVE (R416, R418): a packet of a WRITE (form 0 first, 1 middle, 2 last, 3 only). The message is checked when it begins and
again before its bytes are written, all at its last packet; the ACK follows the writes. -/
def rdmaWrite (i psn form rkey addr len : Nat) (data : List Byte) (ce : Bool) : M Unit := inbound i psn ce do
  let s ← getS
  let first := form == 0 || form == 3
  let begun ← if first then rdmaAdmit i psn rkey addr len true else pure ((s.qp i).msg == 2)
  if !begun then
    (if first then pure () else acknowledge i psn 0x61)
  else do
    takePacket i 2 first rkey addr len data
    let s ← getS
    let q := s.qp i
    if form = 2 ∨ form = 3 then
      endMessage i
      if q.part.length ≠ q.total then acknowledge i psn 0x61
      else if ← rdmaAdmit i psn q.rkey q.addr q.total true then
        match ← ctxWrite 0xB1 (q.rkey % 2 ^ 20) q.addr q.part with
        | none => acknowledge i psn 0x1F
        | some _ => acknowledge i psn 0x63

def execRdmaWriteReceive (qp psn form rkey addr len : Nat) (data : List Byte) (ce : Bool) (s : State) :
    Host.Outcome State Fault Refusal :=
  always (rdmaWrite qp psn form rkey addr len data ce) s

/-- RDMA_READ_RECEIVE (R416, R418): the range is read and returned in packets of the path MTU; a repetition is answered again. -/
def rdmaRead (i psn rkey addr len : Nat) : M Unit := do
  if ← ensureQp i then
    let s ← getS
    let cls := seqClass (s.qp i).recvPsn psn
    if cls = 2 then acknowledge i (s.qp i).recvPsn 0x60
    else if ← rdmaAdmit i psn rkey addr len false then
      match ← ctxRead 0xB1 (rkey % 2 ^ 20) addr len with
      | .error _ => acknowledge i psn 0x63
      | .ok bs => do
        let ps := pieces pathMtu (len / 1024 + 1) bs
        for (x, n) in ps.zipIdx do
          let op := if ps.length = 1 then 16 else if n = 0 then 13 else if n + 1 = ps.length then 15 else 14
          sendPacket (s.qp i).peer op ((psn + n) % 2 ^ 24) (if op = 14 then [] else beBytes 1 0x1F ++ beBytes 3 0) x
        if cls = 0 then modQp i fun q => { q with recvPsn := (q.recvPsn + ps.length) % 2 ^ 24 }

def execRdmaReadReceive (qp psn rkey addr len : Nat) (s : State) : Host.Outcome State Fault Refusal :=
  always (rdmaRead qp psn rkey addr len) s

/-! ## Messages (R421, R423) -/

/-- A fabric message reaches its queue: 0 accepted, 1 not now, 2 refused. A queue holding its origin key acknowledges it without a new
entry, event 0x0202 (R159). -/
def takeFabricMessage (i : Nat) (msg : List Byte) : M Nat := do
  let s ← getS
  let h := (s.qp i).handle
  let q := leAt msg 4 4 % 2 ^ 20
  let p := msg.drop 16
  let w := leAt p 28 4
  let key : OriginKey := ⟨w % 2 ^ 20 + 2 ^ 20 * (1 + bitsOf w 22 6 + 64 * bitsOf w 28 4), leAt p 24 4, bitsOf w 20 2, leAt p 32 4⟩
  match s.queue q with
  | none => return 2
  | some u =>
    if msg.length ≠ 64 ∨ !s.mayEnqueue h q ∨ s.gateRefuses q none then return 2
    else if u.ledger && u.keys.contains key then do
      raise 0x80 6 0x0202 (det [(4, q), (4, 0), (4, leAt p 24 4), (4, w % 2 ^ 22)])
      return 0
    else
      match ← appendEntry q 5 p h (s.safetyOf h) none none key with
      | .ok _ => do
        settleAll [.bind q]
        return 0
      | .error .full => return 1
      | .error .fenced => return 1
      | .error .room => return 1
      | .error _ => return 2

/-- A transfer reaches this member (R421) and waits for its task. -/
def takeTransfer (msg : List Byte) : M Nat := do
  let s ← getS
  if msg.length < 64 then return 2
  else do
    let x : Transfer := ⟨leAt msg 1 1, leAt msg 2 1, leAt msg 4 4, leAt msg 8 4, leAt msg 3 1, (msg.drop 12).take 52, msg.drop 64, s.clock.now⟩
    update (.fabric fun f => { f with transfers := f.transfers ++ [x] })
    return 0

/-- ROCE_SEND_RECEIVE (R416, R421, R423): a packet of a SEND (forms as for a WRITE); the whole message goes to its queue, or is held for a
receiving task. A queue without room has the sender try again (RNR NAK). -/
def roceSend (i psn form : Nat) (data : List Byte) (ce : Bool) : M Unit := inbound i psn ce do
  let s ← getS
  let first := form == 0 || form == 3
  let q := s.qp i
  if !first ∧ q.msg ≠ 1 then acknowledge i psn 0x61
  else if form = 0 ∨ form = 1 then takePacket i 1 first 0 0 0 data
  else do
    let msg := (if first then [] else q.part) ++ data
    let code ← if leAt msg 0 1 = 5 then takeFabricMessage i msg else if leAt msg 0 1 = 1 then takeTransfer msg else pure 2
    if code = 0 then
      takePacket i 1 first 0 0 0 data
      endMessage i
      acknowledge i psn 0x1F
    else acknowledge i psn (if code = 1 then 0x20 else 0x61)

def execRoceSendReceive (qp psn form : Nat) (message : List Byte) (ce : Bool) (s : State) : Host.Outcome State Fault Refusal :=
  always (roceSend qp psn form message ce) s

/-! ## Lost peers (R426) -/

/-- A pending enqueue to a mirrored queue whose peer is lost is refused with status 0x1C: the entry, its records and its task are taken
back (R424). -/
def refuseWait (w : MirrorWait) : M Unit := do
  modTally fun x => { x with ledger := x.ledger.filter fun r => !(r.queue == w.queue && r.seq == w.seq) }
  modQueue w.queue fun u => { u with ents := u.ents.filter fun e => e.seq != w.seq }
  match w.task with
  | some t => forget t
  | none => pure ()
  match w.port with
  | some i => portAck i 0x1C 0
  | none => pure ()

/-- A peer is lost (R426), with reason 0 (reset notice) or 1 (retries exhausted): its queue pairs enter error, and every ready or running
communication task that needs it ends aborted with event 0x4D03. -/
def peerLost (j r reason : Nat) : M Unit := do
  update (.fabric fun f => { f with qps := f.qps.map fun p => if p.2.job = j ∧ p.2.rank = r then (p.1, lostQp p.2) else p })
  modJob j fun x => { x with lost := (x.lost.filter fun l => l.1 != r) ++ [(r, reason)] }
  let s ← getS
  let gone := s.fabric.waits.filter fun w => match (s.queue w.queue).bind Queue.mirrored with
    | some (a, b, _) => a == j && b == r
    | none => false
  update (.fabric fun f => { f with waits := f.waits.filter fun w => !gone.contains w })
  for w in gone do refuseWait w
  for (t, k) in s.tally.tasks do
    if (k.life = .ready ∨ k.life = .assigned ∨ k.life = .running) ∧ s.needsRank k j r then
      unstall t
      settleAll (← endLost t k j r reason)

/-- RESET_NOTICE (R426). -/
def resetNotice (j r : Nat) : M Unit := do
  peerLost j r 0
  raise 0xB1 6 0xAD05 (det [(1, j), (1, r)])

def execResetNotice (job rank : Nat) (s : State) : Host.Outcome State Fault Refusal :=
  whenEnabled (fun s => !s.fabFenced && decide (job < 16) && decide (rank < s.jobMembers job)) (resetNotice job rank) s

/-! ## Acknowledgements (R416, R423, R424) -/

/-- The peer of a mirrored queue has an entry: its acceptance is complete (R424). -/
def mirrorAccepted (q seq : Nat) : M Unit := do
  let s ← getS
  let stamp := (((s.queue q).bind fun u => u.ents.find? fun e => e.seq == seq).map (·.stamp)).getD s.clock.now
  modQueue q fun u => { u with ents := u.ents.map fun e =>
    if e.seq = seq ∧ e.gate = some peerGate then { e with gate := none } else e }
  match s.fabric.waits.find? fun w => w.queue == q && w.seq == seq with
  | none => pure ()
  | some w => do
    update (.fabric fun f => { f with waits := f.waits.filter fun x => x != w })
    match w.port with
    | some i => do
      wrReg (Reg.portStamp i) (BitVec.ofNat 64 stamp)
      portAck i 0 seq
    | none => pure ()
    match w.task with
    | some t => settleAll (← takeTokens t)
    | none => pure ()
  settleAll [.bind q]

/-- Whether packets of a task are outstanding. -/
def State.sending (s : State) (t : Nat) : Bool := s.fabric.qps.any fun p => p.2.out.any fun x => x.task == some t

/-- What the acknowledgement of a packet completes. -/
def packetAcked (p : OutPkt) : M Unit := do
  match p.entry with
  | some (q, seq) => do
    let s ← getS
    (if ((s.queue q).bind Queue.proxy).isSome then do settleAll (← leaveEntry q seq)
     else if p.op ≠ 12 then mirrorAccepted q seq
     else pure ())
  | none => pure ()
  match p.task with
  | some t => do
    let s ← getS
    (if !s.sending t then modTask t fun k => if dOpcode k.desc = 0x800 then { k with done := true } else k else pure ())
  | none => pure ()

/-- Whether packet a precedes packet b (24-bit sequence numbers). -/
def psnBefore (a b : Nat) : Bool := seqClass a b == 2

/-- Send every outstanding packet of a queue pair again (go-back-N), or give the peer up when the retries are exhausted (R416, R426). -/
def retryQp (i : Nat) (count : Bool) : M Unit := do
  let s ← getS
  let q := s.qp i
  if count ∧ Config.retryLimit % 8 ≤ q.retries then peerLost q.job q.rank 1
  else do
    modQp i fun q => { q with retries := if count then q.retries + 1 else q.retries }
    for p in q.out do sendOut i p

/-- ROCE_ACK_RECEIVE (R416): nak 0 acknowledges every packet up to psn; 1 (sequence) and 2 (receiver not ready) those before it, the rest
going again; 3 is a remote error, after which the queue pair is lost. -/
def roceAck (i psn nak : Nat) : M Unit := do
  let s ← getS
  let q := s.qp i
  let fits : OutPkt → Bool := fun p => p.op != 12 && (psnBefore p.psn psn || (nak == 0 && p.psn == psn))
  let good := q.out.takeWhile fits
  modQp i fun q => { q with
    out := q.out.drop good.length
    retries := if good.isEmpty then q.retries else 0 }
  for p in good do packetAcked p
  match nak with
  | 0 => pure ()
  | 1 => retryQp i false
  | 2 => retryQp i true
  | _ => peerLost q.job q.rank 1

def execRoceAckReceive (qp psn nak : Nat) (s : State) : Host.Outcome State Fault Refusal :=
  whenEnabled (fun s => !s.fabFenced && (s.qp qp).phase == .ready) (roceAck qp psn nak) s

/-- ACK_TIMEOUT (R416, R426). -/
def execAckTimeout (qp : Nat) (s : State) : Host.Outcome State Fault Refusal :=
  whenEnabled (fun s => !s.fabFenced && (s.qp qp).phase == .ready && !(s.qp qp).out.isEmpty) (retryQp qp true) s

/-! ## Congestion (R419) -/

/-- CNP_RECEIVE (R419): the CNP is kept with its stamp for its window. -/
def execCnpReceive (qp : Nat) (s : State) : Host.Outcome State Fault Refusal :=
  whenEnabled (fun s => !s.fabFenced && (s.qp qp).phase == .ready) (do
    let s ← getS
    modQp qp fun q => { q with cnps := q.cnps ++ [s.clock.now] }) s

/-- The rate and step of a queue pair at the end of a window with c CNPs (R419). -/
def rateStep (line rmin cut add stepMax c rate step : Nat) : Nat × Nat :=
  if 0 < c then (max rmin (rate - rate * min c 4 * cut / 1024), add)
  else if rate < line then (min line (rate + step), min stepMax (2 * step))
  else (rate, step)

/-- RATE_WINDOW_END (R419). -/
def rateWindowEnd (i : Nat) : M Unit := do
  let s ← getS
  let q := s.qp i
  let c := (q.cnps.filter fun t => s.rateWindow t == q.windowAt).length
  let n := rateStep q.line (s.fld Reg.fabRc Fld.fabRcRminMbps) (s.fld Reg.fabRc Fld.fabRcCut) (s.fld Reg.fabRc Fld.fabRcAddMbps)
    (s.fld Reg.fabRc Fld.fabRcStepMax * 1000) c q.rate q.step
  modQp i fun q => { q with
    rate := n.1
    step := n.2
    cnps := q.cnps.filter fun t => q.windowAt < s.rateWindow t
    windowAt := q.windowAt + 1 }

def execRateWindowEnd (qp : Nat) (s : State) : Host.Outcome State Fault Refusal :=
  whenEnabled (fun s => (s.qp qp).phase == .ready && decide ((s.qp qp).windowAt < s.rateWindow (s.clock.now - settleMargin)))
    (rateWindowEnd qp) s

/-! ## Mirror regions (R424) -/

/-- The record of a type for a place of a mirrored queue, as read back; none where its CRC or its type is wrong. -/
def mirrorRecord (data : List Byte) (entries slot ty : Nat) : Option (List Byte) :=
  let r := (data.drop (mirrorRecordAt entries slot ty)).take 64
  if leAt r 60 4 = crc32c (r.take 60) ∧ bitsOf (leAt r 12 4) 20 4 = ty then some r else none

/-- The entries a mirror region holds accepted, and neither committed, closed nor retired: sequence, place, bytes. -/
def mirrorOpen (data : List Byte) (entries : Nat) : List (Nat × Nat × List Byte) :=
  ((List.range entries).filterMap fun slot =>
    match mirrorRecord data entries slot 1 with
    | none => none
    | some r =>
      let seq := leAt r 8 4
      let bytes := (data.drop (64 * slot)).take 64
      let past := [2, 3, 4].any fun ty => ((mirrorRecord data entries slot ty).map fun x => leAt x 8 4 == seq).getD false
      if past ∨ crc32c bytes ≠ leAt r 16 4 then none else some (seq, slot, bytes)).mergeSort fun a b => a.1 == b.1 || seqBefore a.1 b.1

/-- Accept an entry again from its copy (R161). -/
def restoreEntry (q : Nat) (x : Nat × Nat × List Byte) : M Unit := do
  let s ← getS
  match s.queue q with
  | none => pure ()
  | some u =>
    match ← ctxWrite 0x80 u.owner (u.base + 64 * x.2.1) x.2.2 with
    | some _ => pure ()
    | none => do
      let w := leAt x.2.2 60 4
      let a1 := u.mirrorBase + 64 * x.2.1
      let _ ← physWrite 0x80 a1 x.2.2
      let _ ← writeLedger q x.1 1 (crc32c x.2.2) (w % 2 ^ 20) 0 noKey ((s.peekAddr u.owner (u.base + 64 * x.2.1)).getD 0) a1
      modQueue q fun u => { u with
        ents := u.ents ++ [⟨x.1, x.2.1, bitsOf w 20 4, w % 2 ^ 20, bitAt w 24, leAt x.2.2 (4 * u.flowWord) 4, leAt x.2.2 48 8, none, none⟩]
        next := (x.1 + 1) % 2 ^ 32 }

/-- RDMA_READ_RESPONSE (R424): a mirrored queue's part of the region has been read back; its interrupted entries are accepted and submitted
again in sequence order (R161), and the queue takes enqueues. -/
def readResponse (i psn : Nat) (data : List Byte) : M Unit := do
  let s ← getS
  match (s.qp i).out.find? fun p => p.op == 12 && p.psn == psn with
  | none => pure ()
  | some p => do
    modQp i fun q => { q with
      out := q.out.erase p
      retries := 0 }
    match p.entry with
    | none => pure ()
    | some (q, _) =>
      match s.queue q with
      | none => pure ()
      | some u => do
        let xs := mirrorOpen data u.entries
        for x in xs do restoreEntry q x
        modQueue q fun u => { u with reading := false }
        for x in xs do resubmit q x.1
        settleAll [.bind q]

def execRdmaReadResponse (qp psn : Nat) (data : List Byte) (s : State) : Host.Outcome State Fault Refusal :=
  whenEnabled (fun s => !s.fabFenced && (s.qp qp).phase == .ready
      && (s.qp qp).out.any fun p => p.op == 12 && p.psn == psn && p.len == data.length) (readResponse qp psn data) s

/-! ## Communication operations (R421, R422) -/

def fabJob (p : List Byte) : Nat := leAt p 6 1
def fabPeer (p : List Byte) : Nat := leAt p 4 1
def fabStep (p : List Byte) : Nat := leAt p 0 4
def fabTag (p : List Byte) : Nat := leAt p 8 4
def fabOp (p : List Byte) : Nat := leAt p 5 1

/-- The part of an operand that this member holds, in ascending global index, d0 fastest (R422). -/
def Ten.part (t : Ten) : List (List Nat) := t.indices.filter t.local

/-- What a transfer says of its tensor: global shape, data type and distribution (with the layout that a distribution uses). -/
def shapeOf (t : Ten) : List Byte :=
  leBytes 1 t.dt ++ leBytes 1 (leAt t.td 7 1 % 32) ++ (t.td.drop 0x14).take 12
    ++ (if tdDist t.td = 0 then [] else (t.td.drop 0x35).take 11 ++ leBytes 2 (leAt t.td 0xE 2 % 2 ^ 15))
    ++ (if tdDist t.td = 2 then leBytes 4 (crc32c (t.td.drop 64)) else [])

/-- How a transfer's elements stand: the encoding in whole bytes, then a scale byte where its tensor has scales; the last byte of its header
says so: 0 none, else 1 and the scale format. -/
def scaleMark (t : Ten) : Nat := if t.hasScale then 1 + 2 * tdScaleFmt t.td else 0

/-- A transfer message (R421). -/
def transferMsg (s : State) (h j rank : Nat) (p : List Byte) (t : Ten) : List Byte :=
  leBytes 1 1 ++ leBytes 1 j ++ leBytes 1 (s.jobEpoch j) ++ leBytes 1 rank ++ leBytes 4 (fabStep p) ++ leBytes 4 (fabTag p)
    ++ padTo 51 (shapeOf t) ++ leBytes 1 (scaleMark t)
    ++ t.part.flatMap fun i => leBytes ((t.width + 7) / 8) (t.code s h (toInts i))
        ++ (if t.hasScale then leBytes 1 ((t.scaleByte s h (toInts i)).getD 0) else [])

/-- The elements of a transfer: encoding, and scale format and byte. -/
def Transfer.elements (x : Transfer) (w : Nat) : List (Nat × Option (Nat × Nat)) :=
  let mark := leAt x.shape 51 1
  let nb := (w + 7) / 8
  let n := nb + mark % 2
  (List.range (x.data.length / n)).map fun i =>
    (leAt x.data (i * n) nb, if mark = 0 then none else some (mark / 2, leAt x.data (i * n + nb) 1))

/-- The transfer a task awaits from a rank (R421). -/
def State.transferFor (s : State) (p : List Byte) (r : Nat) : Option Transfer :=
  s.fabric.transfers.find? fun x => x.job == fabJob p && x.epoch == s.jobEpoch (fabJob p) && x.step == fabStep p && x.tag == fabTag p
    && x.sender == r

/-- The other ranks of a job. -/
def State.otherRanks (s : State) (j : Nat) : List Nat := (List.range (s.jobMembers j)).filter fun r => r != s.jobRank j

/-- Whether a task has sent its part in the present run. -/
def State.hasSent (s : State) (t : Nat) : Bool :=
  match s.task t with
  | some k => s.fabric.sends.contains (t, k.runAt)
  | none => false

/-- Sending reads this member's part. -/
def sendPlan (_ : State) (ts : List Ten) : Plan :=
  match tenAt ts 0 with
  | some o => ⟨o.part.map fun i => (0, toInts i), [], []⟩
  | none => ⟨[], [], []⟩

/-- Read a task's part and send it to some ranks (R422); nothing is sent while a queue pair cannot be set up. -/
def sendPart (t : Nat) (k : Task) (ranks : List Nat) : M Unit := do
  let mut ok := true
  for r in ranks do
    if (← openQp (fabJob k.params) r).isNone then ok := false
  if ok then
    let post : List OutW → M Unit := fun _ => do
      let s ← getS
      modTask t fun k => { k with done := false }
      update (.fabric fun f => { f with sends := f.sends.filter (fun x => x.1 != t) ++ [(t, k.runAt)] })
      match s.operand k 0 with
      | none => pure ()
      | some o =>
        let msg := transferMsg s k.handle (fabJob k.params) (s.jobRank (fabJob k.params)) k.params o
        for r in ranks do
          match ← openQp (fabJob k.params) r with
          | some i => postMsg i none msg (some t) none
          | none => pure ()
    runPlanWith t .none false sendPlan (fun _ _ => ([], 0)) post

/-- A transfer differs in shape, type or distribution (R422): event 0x3D02, the task ends aborted. -/
def shapeMismatch (t r : Nat) (k : Task) : M Unit := do
  settleAll (← raiseFor t 0xB1 6 0x3D02 (taskDetail [(1, r)] k 0xFF))
  faultTask t false false 1

/-- One received element as an output stores it: its encoding and scale where both tensors have scales or neither has, else converted. -/
def storeReceived (o : Ten) (i : List Nat) (e : Nat × Option (Nat × Nat)) : OutW :=
  match e.2, o.hasScale with
  | none, _ => ⟨o.slot, i, e.1, false, none⟩
  | some (_, b), true => ⟨o.slot, i, e.1, false, some b⟩
  | some s, false => let c := storeElt o.dt (decodeElt o.dt e.1 (some s)); ⟨o.slot, i, c.1, c.2, none⟩

/-- Drop the transfers a task has used. -/
def dropTransfers (xs : List Transfer) : M Unit :=
  update (.fabric fun f => { f with transfers := f.transfers.filter fun x => !xs.contains x })

/-- SEND_SHARD (R422): the part is sent; the task is done once the peer has acknowledged it. -/
def execSendShard (engine : Nat) (s : State) : Host.Outcome State Fault Refusal :=
  whenEnabled (fun s => match s.opTask engine 0x800 with
      | some t => !s.hasSent t
      | none => false) (do
    let s ← getS
    match s.opTask engine 0x800 with
    | some t => (match s.task t with
      | some k => sendPart t k [fabPeer k.params]
      | none => pure ())
    | none => pure ()) s

/-- Receiving writes the transfer's elements to this member's part, in order. -/
def recvPlan (x : Transfer) (_ : State) (ts : List Ten) : Plan :=
  match tenAt ts 8 with
  | some o => ⟨[], [], (o.part.zip (x.elements o.width)).map fun e => storeReceived o e.1 e.2⟩
  | none => ⟨[], [], []⟩

/-- RECV_SHARD (R422): the n-th element of the sender's part goes to the n-th element of this member's. -/
def recvShard (t : Nat) (k : Task) : M Unit := do
  let s ← getS
  match s.transferFor k.params (fabPeer k.params), s.operand k 8 with
  | some x, some o =>
    if x.shape.take 51 ≠ padTo 51 (shapeOf o) then shapeMismatch t (fabPeer k.params) k
    else
      runPlanWith t .none false (recvPlan x) (fun _ _ => ([], 0)) fun _ => dropTransfers [x]
  | _, _ => pure ()

def execRecvShard (engine : Nat) (s : State) : Host.Outcome State Fault Refusal :=
  whenEnabled (fun s => match (s.opTask engine 0x801).bind s.task with
      | some k => (s.transferFor k.params (fabPeer k.params)).isSome
      | none => false) (do
    let s ← getS
    match s.opTask engine 0x801 with
    | some t => (match s.task t with
      | some k => recvShard t k
      | none => pure ())
    | none => pure ()) s

/-- Whether an ALL_REDUCE or ALL_GATHER task can form its result: its part acknowledged, every other member's received. -/
def State.gathered (s : State) (t : Nat) (k : Task) : Bool :=
  s.hasSent t && !s.sending t && (s.otherRanks (fabJob k.params)).all fun r => (s.transferFor k.params r).isSome

/-- The elements every rank supplies for an operand, by rank: this member's own from memory. -/
def State.gatheredParts (s : State) (k : Task) (o : Ten) : List (Nat × List (Nat × Option (Nat × Nat))) :=
  (List.range (s.jobMembers (fabJob k.params))).map fun r =>
    if r = s.jobRank (fabJob k.params) then
      (r, o.part.map fun i => (o.code s k.handle (toInts i), (o.scaleByte s k.handle (toInts i)).map fun b => (tdScaleFmt o.td, b)))
    else (r, ((s.transferFor k.params r).map fun x => x.elements o.width).getD [])

/-- One step of a reduction on a component (R210, R422): sum, max, min. -/
def fabReduceStep (op : Nat) (a b : Num) : Num :=
  match a, b with
  | .int x, .int y => .int (if op = 0 then x + y else if op = 1 then max x y else min x y)
  | x, y => .fp (if op = 0 then fAdd x.toFp y.toFp else if op = 1 then fMax x.toFp y.toFp else fMin x.toFp y.toFp)

def fabReduceElt (op : Nat) (a b : Elt) : Elt :=
  ⟨fabReduceStep op a.re b.re, match a.im, b.im with
    | some x, some y => some (fabReduceStep op x y)
    | x, _ => x⟩

/-- The sum of an ALL_REDUCE in ascending rank (R422). Floating values begin as FP32. -/
def fabReduceAll (op : Nat) : List Elt → Elt
  | [] => realElt (.int 0)
  | e :: es => es.foldl (fabReduceElt op) e

def fabReducePlan (k : Task) (s : State) (ts : List Ten) : Plan :=
  match tenAt ts 0, tenAt ts 8 with
  | some x, some o =>
    let parts := (s.gatheredParts k x).map (·.2)
    let ix := x.part
    ⟨[], [], ix.zipIdx.map fun (i, n) =>
      let es := parts.map fun q => decodeElt x.dt (q.getD n (0, none)).1 none
      let c := storeElt o.dt (fabReduceAll (fabOp k.params) es)
      ⟨8, i, c.1, c.2, none⟩⟩
  | _, _ => ⟨[], [], []⟩

/-- The rank that holds a global index of a distributed operand (R193, R195). -/
def holderOf (d : List Byte) (i : List Nat) : Option Nat :=
  if tdDist d = 1 then
    some ((List.range 6).foldl (fun (a : Nat × Nat) k => (a.1 + (shardIndex d k (i.getD k 0)).1 * a.2, a.2 * shardCount d k)) (0, 1)).1
  else
    let b := leAt d (64 + (gridPlace d i).1) 1
    if bitAt b 7 then some (b % 64) else none

/-- Every global index of a distributed operand with the element its holder supplies. -/
def State.gatherElements (s : State) (k : Task) (x : Ten) : List (List Nat × Option (Nat × Option (Nat × Nat))) :=
  let parts := s.gatheredParts k x
  let all := allIdx ((List.range 6).map (tdExtent x.td))
  (all.foldl (fun (acc : List (List Nat × Option (Nat × Option (Nat × Nat))) × Tbl Nat) i =>
    match holderOf x.td i with
    | none => ((i, none) :: acc.1, acc.2)
    | some r =>
      let n := tblGet acc.2 0 r
      ((i, ((tblFind parts r).bind fun q => q[n]?)) :: acc.1, tblSet acc.2 r (n + 1))) ([], [])).1.reverse

def fabGatherPlan (k : Task) (s : State) (ts : List Ten) : Plan :=
  match tenAt ts 0, tenAt ts 8 with
  | some x, some o => ⟨[], [], (s.gatherElements k x).map fun e => storeReceived o e.1 (e.2.getD (x.fill, none))⟩
  | _, _ => ⟨[], [], []⟩

/-- Elements held by no rank count as reads out of bounds (R422). -/
def fabGatherNotes (k : Task) (s : State) (ts : List Ten) : Notes :=
  match tenAt ts 0 with
  | some x => let n := ((s.gatherElements k x).filter fun e => e.2.isNone).length; ([(0, 0x2001, n)], n)
  | none => ([], 0)

/-- An operation over all members: the first command sends this member's part to every other, the second, with every part received, forms
the result. -/
def allMembers (t : Nat) (k : Task) (plan : State → List Ten → Plan) (notes : State → List Ten → Notes) : M Unit := do
  let s ← getS
  let others := s.otherRanks (fabJob k.params)
  if !s.hasSent t then sendPart t k others
  else
    let xs := others.filterMap fun r => s.transferFor k.params r
    let want := ((s.operand k 0).map fun o => padTo 51 (shapeOf o)).getD []
    match xs.find? fun x => x.shape.take 51 != want with
    | some x => shapeMismatch t x.sender k
    | none => runPlanWith t .none false plan notes fun _ => dropTransfers xs

def allCommand (engine op : Nat) (plan : Task → State → List Ten → Plan) (notes : Task → State → List Ten → Notes) (s : State) :
    Host.Outcome State Fault Refusal :=
  whenEnabled (fun s => match s.opTask engine op with
      | some t => !s.hasSent t || ((s.task t).map (s.gathered t)).getD false
      | none => false) (do
    let s ← getS
    match s.opTask engine op with
    | some t => (match s.task t with
      | some k => allMembers t k (plan k) (notes k)
      | none => pure ())
    | none => pure ()) s

def execAllReduce (engine : Nat) (s : State) : Host.Outcome State Fault Refusal :=
  allCommand engine 0x802 fabReducePlan (fun _ _ _ => ([], 0)) s

def execAllGather (engine : Nat) (s : State) : Host.Outcome State Fault Refusal := allCommand engine 0x803 fabGatherPlan fabGatherNotes s

/-- Checks of family 0x08 (R421, R422). -/
def checkFabric (s : State) (k : Task) (op : Nat) (p : List Byte) (ts : List Ten) : List (Nat × Nat) :=
  let j := fabJob p
  bad [(15 < j || s.jobHandle j != k.handle, 0xFE, 6), (op ≤ 0x801 && s.jobMembers j ≤ fabPeer p, 0xFE, 4), (0x802 ≤ op && fabPeer p != 0, 0xFE, 4),
    (if op = 0x802 then 2 < fabOp p else fabOp p != 0, 0xFE, 5)]
  ++ wantZero p [(7, 1), (12, 52)]
  ++ (match tenAt ts 0, tenAt ts 8 with
      | some x, some o =>
        if op = 0x802 then
          bad [(tdDist x.td != 0, 0, 7), (tdDist o.td != 0, 8, 7)] ++ noScale x ++ noScale o ++ wantExts o x.ext ++ wantType x (isArith ·)
            ++ wantOut o (isCplx x.dt) ++ bad [(isCplx x.dt && fabOp p != 0, 0, 6)]
        else
          bad [(tdDist x.td == 0, 0, 7), (tdDist o.td != 0, 8, 7)] ++ wantExts o (tdExtent x.td) ++ wantType o (· == x.dt)
      | _, _ => [])

/-- Whether a live task awaits a transfer (R421). -/
def State.awaited (s : State) (x : Transfer) : Bool :=
  x.epoch == s.jobEpoch x.job && s.tally.tasks.any fun t => t.2.handle == s.jobHandle x.job && s.taskStep t.2 == some (x.job, x.step)

/-- TRANSFER_DISCARD (R421, R149, R150): a transfer no live task awaits is discarded and counted 10 ms after it came. -/
def execTransferDiscard (index : Nat) (s : State) : Host.Outcome State Fault Refusal :=
  whenEnabled (fun s => match s.fabric.transfers[index]? with
      | some x => !s.awaited x && decide (x.stamp + msUnits 10 + settleMargin ≤ s.clock.now)
      | none => false)
    (update (.fabric fun f => { f with
      transfers := f.transfers.eraseIdx index
      discarded := f.discarded + 1 })) s

/-! ## Jobs (R427, R431) -/

/-- Abort a step (R427): the context's tasks end cancelled, transfers of the current epoch are discarded, aborted is set. -/
def abortJob (j : Nat) : M Unit := do
  let s ← getS
  let mine := (s.tally.tasks.filter fun p => p.2.handle == s.jobHandle j).map (·.1)
  for t in mine do
    unstall t
    finish t 4
  update (.fabric fun f => { f with transfers := f.transfers.filter fun x => !(x.job == j && x.epoch == s.jobEpoch j) })
  wrFld (Reg.fabJobStatus j) Fld.fabJobStatusAborted 1

/-- Set a lost queue pair up again (R427): sequence numbers from the start, the packets of peer queues sent again. -/
def reviveQp (i : Nat) : M Unit := do
  let s ← getS
  let q := s.qp i
  match ← readMember q.job q.rank with
  | none => update (.fabric fun f => { f with qps := tblDel f.qps i })
  | some b => do
    let line := s.portRate (mbPort b)
    modQp i fun _ => { qp0 with
      job := q.job
      rank := q.rank
      phase := .ready
      handle := s.jobHandle q.job
      peer := mbPeerQpn b
      line := line
      rate := line
      step := s.fld Reg.fabRc Fld.fabRcAddMbps
      windowAt := s.rateWindow s.clock.now }
    for p in q.out do postPacket i p (if p.op = 12 then max 1 (ceilDiv p.len pathMtu) else 1)

/-- Resume a job (R427): the epoch moves on, every rank is readmitted, aborted is cleared. -/
def resumeJob (j : Nat) : M Unit := do
  let s ← getS
  wrFld (Reg.fabJobStatus j) Fld.fabJobStatusEpoch ((s.jobEpoch j + 1) % 256)
  wrFld (Reg.fabJobStatus j) Fld.fabJobStatusAborted 0
  modJob j fun x => { x with
    lost := []
    steps := x.steps.filter fun p => !p.2.2.isEmpty }
  for (i, q) in s.fabric.qps do
    if q.job = j ∧ q.phase = .error then reviveQp i

/-- A write of FAB_JOB_CMD (R427, R431): the BCC's or an application core's in machine mode; reserved commands are refused. -/
def fabJobCmd (by_ : Requester) (j cmd step : Nat) : M Unit := do
  if !machineMode by_ ∨ cmd = 0 ∨ 3 ≤ cmd then refuseReg (Reg.fabJobCmd j) (cmd + step * 2 ^ 32) 0
  else if cmd = 1 then abortJob j
  else resumeJob j

def execJobAbort (sender : Requester) (job step : Nat) (s : State) : Host.Outcome State Fault Refusal :=
  always (fabJobCmd sender job 1 step) s

def execJobResume (sender : Requester) (job : Nat) (s : State) : Host.Outcome State Fault Refusal :=
  always (fabJobCmd sender job 2 0) s

end Sys2Proof.Machine
end

