-- ==== Sys2Proof/Machine/Ether.lean ====
section
/-! DEFINITION. The commands of the Ethernet ports, discovery and PCIe (R411–R415, R425, R428). -/

namespace Sys2Proof.Machine

open Sys2Proof

/-! ## Ports -/

/-- Whether a port is there and on (R411, R429). -/
def State.portOn (s : State) (n : Nat) : Bool :=
  decide (n < 8) && s.portLanes n != 0 && s.flag (Reg.ethCtl n) Fld.ethCtlEnable && !s.fabFenced && (s.fence (0xA8 + n)).isNone

/-- Whether a port's link is up. -/
def State.linkUp (s : State) (n : Nat) : Bool := s.portOn n && s.flag (Reg.ethStatus n) Fld.ethStatusLink

def State.ethPort (s : State) (n : Nat) : EthPort := tblGet s.eth ethPort0 n

def modEth (n : Nat) (f : EthPort → EthPort) : M Unit :=
  update (.eth fun t => tblSet t n (f (tblGet t ethPort0 n)))

/-- Event 0xAD01 or 0xAD02 (R433): port, lanes, Gbit/s. -/
def linkEvent (n code : Nat) : M Unit := do
  let s ← getS
  raise (0xA8 + n) 6 code (det [(1, n), (1, s.portLanes n), (2, s.portRate n / 1000)])

/-- ETH_LINK_UP (R425, R429). -/
def ethLinkUp (n : Nat) : M Unit := do
  wrReg (Reg.ethStatus n) 3#64
  linkEvent n 0xAD01

def execEthLinkUp (port : Nat) (s : State) : Host.Outcome State Fault Refusal :=
  whenEnabled (fun s => s.portOn port && !s.linkUp port) (ethLinkUp port) s

/-- ETH_LINK_DOWN (R425, R429). -/
def ethLinkDown (n : Nat) : M Unit := do
  wrReg (Reg.ethStatus n) 0#64
  linkEvent n 0xAD02

def execEthLinkDown (port : Nat) (s : State) : Host.Outcome State Fault Refusal :=
  whenEnabled (fun s => s.linkUp port) (ethLinkDown port) s

/-! ## Reception (R412–R415) -/

/-- Where a frame's header leaves off: whether it has a VLAN tag, its pcp, its ethertype, what follows. -/
def etherParse (f : List Byte) : Bool × Nat × Nat × List Byte :=
  if beAt f 12 2 = 0x8100 then (true, beAt f 14 2 / 2 ^ 13, beAt f 16 2, f.drop 18) else (false, 0, beAt f 12 2, f.drop 14)

/-- The UDP destination port, destination address bytes and UDP payload of an IP packet. -/
def udpParse (ethertype : Nat) (b : List Byte) : Option (Nat × List Byte × List Byte) :=
  if ethertype = 0x0800 ∧ beAt b 0 1 / 16 = 4 ∧ beAt b 9 1 = 17 then
    let u := b.drop (4 * (beAt b 0 1 % 16))
    some (beAt u 2 2, (b.drop 16).take 4, (u.take (beAt u 4 2)).drop 8)
  else if ethertype = 0x86DD ∧ beAt b 0 1 / 16 = 6 ∧ beAt b 6 1 = 17 then
    let u := b.drop 40
    some (beAt u 2 2, (b.drop 24).take 16, (u.take (beAt u 4 2)).drop 8)
  else none

/-- Whether an IP packet is marked congestion experienced (R412). -/
def ipCe (ethertype : Nat) (b : List Byte) : Bool :=
  if ethertype = 0x0800 then beAt b 1 1 % 4 == 3 else if ethertype = 0x86DD then beAt b 0 4 / 2 ^ 20 % 4 == 3 else false

/-- Whether a destination address is the port's ETH_IP4 or ETH_IP6. -/
def State.ipMine (s : State) (n : Nat) (dst : List Byte) : Bool :=
  if dst.length = 4 then beAt dst 0 4 == s.fld (Reg.ethIp4 n) Fld.ethIp4Addr
  else beAt dst 0 8 == (s.reg (Reg.ethIp6 n 1)).toNat && beAt dst 8 8 == (s.reg (Reg.ethIp6 n 0)).toNat

/-- The FHE_PEER entry that holds a MAC address (R409). -/
def State.fhePeerOf (s : State) (mac : Nat) : Option Nat :=
  (List.range 16).find? fun p => s.flag (Reg.fheAddr p) Fld.fheAddrValid && s.fld (Reg.fheAddr p) Fld.fheAddrMac == mac

/-- The value of an LLDP TLV of a type, walking the TLVs (R425). -/
def lldpTlv (want : Nat) : Nat → List Byte → Option (List Byte)
  | 0, _ => none
  | n + 1, b =>
    let h := beAt b 0 2
    let len := h % 512
    if b.length < 2 ∨ h / 512 = 0 then none
    else if h / 512 = want then some ((b.drop 2).take len)
    else lldpTlv want n (b.drop (2 + len))

/-- A received LLDPDU (R425): a new or changed neighbour raises event 0xAD03. -/
def lldpReceive (n : Nat) (b : List Byte) : M Unit := do
  let s ← getS
  match lldpTlv 1 64 b, lldpTlv 3 64 b with
  | some c, some ttl => do
    let chassis := padTo 6 (c.drop 1)
    let same := match (s.ethPort n).neigh with
      | some (_, old, _, _) => old == b
      | none => false
    modEth n fun p => { p with neigh := some (chassis, b, beAt ttl 0 2, s.clock.now) }
    if !same then raise 0x81 6 0xAD03 (det ([(1, n), (3, 0)] ++ chassis.map fun x => (1, x.toNat)))
  | _, _ => pure ()

/-- A RoCEv2 packet reaches the fabric engine: the transport header's opcode selects what it does (R416); packets on queue pair 1 are reset
notices (R426). -/
def roceReceive (b : List Byte) (ce : Bool) : M Unit := do
  let s ← getS
  let op := beAt b 0 1
  let pad := beAt b 1 1 / 16 % 4
  let qp := beAt b 5 3
  let psn := beAt b 9 3
  let body := b.drop 12
  let data : Nat → List Byte := fun off => (body.drop off).take (body.length - off - 4 - pad)
  let reth := (beAt body 0 8, beAt body 8 4, beAt body 12 4)
  if s.fabFenced then pure ()
  else if qp = 1 ∧ op = 4 then
    (if leAt body 1 1 < 16 ∧ leAt body 2 1 < s.jobMembers (leAt body 1 1) then resetNotice (leAt body 1 1) (leAt body 2 1) else pure ())
  else if op ≤ 5 then
    let (f, off) : Nat × Nat := [(0, 0), (1, 0), (2, 0), (2, 4), (3, 0), (3, 4)].getD op (3, 0)
    roceSend qp psn f (data off) ce
  else if op ≤ 11 then
    let (f, off) : Nat × Nat := [(0, 16), (1, 0), (2, 0), (2, 4), (3, 16), (3, 20)].getD (op - 6) (3, 16)
    rdmaWrite qp psn f reth.2.1 reth.1 reth.2.2 (data off) ce
  else if op = 12 then rdmaRead qp psn reth.2.1 reth.1 reth.2.2
  else if op = 16 then readResponse qp psn (data 4)
  else if op = 17 then
    let syn := beAt body 0 1
    (if (s.qp qp).phase = .ready then roceAck qp psn (if syn / 32 = 0 then 0 else if syn / 32 = 1 then 2 else if syn = 0x60 then 1 else 3) else pure ())
  else if op = 0x81 then modQp qp fun q => if q.phase = .ready then { q with cnps := q.cnps ++ [s.clock.now] } else q
  else pure ()

/-- A frame for a receive queue (R413–R415): it takes the next free buffer, and its entry joins the queue of its priority; without a free
buffer it is dropped and counted. -/
def rxPacket (n : Nat) (f : List Byte) (tagged : Bool) (pcp : Nat) : M Unit := do
  let s ← getS
  let q := s.fld (Reg.ethRxq n pcp) Fld.ethRxqQueue
  let p := s.ethPort n
  let count := s.fld (Reg.ethRxbuf n) Fld.ethRxbufCountM1 + 1
  let base := s.fld (Reg.ethRxbuf n) Fld.ethRxbufBase * 64
  let h := s.fld (Reg.ethCtx n) Fld.ethCtxHandle
  let a := base + 10240 * p.next
  let drop := bump (Reg.ethCnt n) Fld.ethCntRxDrop 1
  if q = 0 then pure ()
  else if count ≤ p.used ∨ !s.inBuffer h base (10240 * count) then drop
  else
    match ← ctxWrite (0xA8 + n) h a f with
    | some _ => drop
    | none => do
      let before := (s.queue q).map (·.next)
      let ws ← deviceAppend q 4 (leBytes 8 a ++ leBytes 2 (f.length - 1) ++ leBytes 1 n ++ leBytes 1 (flagBit tagged) ++ leBytes 4 p.next
        ++ leBytes 8 s.clock.now) h (s.safetyOf h)
      let s ← getS
      if (s.queue q).map (·.next) ≠ before then
        modEth n fun p => { p with
          next := (p.next + 1) % count
          used := p.used + 1 }
      settleAll ws

/-- ETH_FRAME_RECEIVE (R412, R413): a frame with a good FCS, without it, goes to the first destination whose condition it meets. -/
def ethReceive (n : Nat) (f : List Byte) : M Unit := do
  let s ← getS
  let (tagged, pcp, ty, body) := etherParse f
  let udp := udpParse ty body
  let port := (udp.map (·.1)).getD 0
  if s.fld (Reg.ethCtl n) Fld.ethCtlMaxFrame < f.length then pure ()
  else if ty = 0x8808 then bump (Reg.ethCnt n) Fld.ethCntPauseRx 1
  else if ty = 0x88F7 ∨ port = 319 ∨ port = 320 then answer true (leBytes 8 s.clock.now ++ f)
  else if ty = 0x88CC then lldpReceive n body
  else
    match (if ty = 0xAEFE then s.fhePeerOf (beAt f 6 6) else none) with
    | some peer => fhReceive peer s.clock.now body
    | none =>
      match udp with
      | some (4791, dst, b) => if s.ipMine n dst then roceReceive b (ipCe ty body) else rxPacket n f tagged pcp
      | _ => rxPacket n f tagged pcp

def execEthFrameReceive (port : Nat) (frame : List Byte) (s : State) : Host.Outcome State Fault Refusal :=
  whenEnabled (fun s => s.linkUp port && decide (14 ≤ frame.length)) (ethReceive port frame) s

/-- RX_BUFFER_RETURN (R415, R429): buffers up to an index go back to the ring. -/
def rxReturn (by_ : Requester) (n index : Nat) : M Unit := do
  let s ← getS
  if by_ ≠ .bcc ∨ 4096 ≤ index then refuseReg (Reg.ethRxbufRet n) index 0
  else
    let count := s.fld (Reg.ethRxbuf n) Fld.ethRxbufCountM1 + 1
    let p := s.ethPort n
    let first := (p.next + count - p.used % count) % count
    let k := (index + count - first) % count + 1
    if index < count ∧ k ≤ p.used then modEth n fun p => { p with used := p.used - k } else pure ()

def execRxBufferReturn (sender : Requester) (port index : Nat) (s : State) : Host.Outcome State Fault Refusal :=
  always (rxReturn sender port index) s

/-! ## Transmission (R414, R415) -/

/-- The next entry of a port's transmit queue, which its context owns. -/
def State.txEntry (s : State) (n : Nat) : Option (Nat × Queue × Entry) :=
  let q := s.fld (Reg.ethTxq n) Fld.ethTxqQueue
  match s.queue q with
  | none => none
  | some u =>
    if q = 0 ∨ u.owner ≠ s.fld (Reg.ethCtx n) Fld.ethCtxHandle then none
    else (u.ents.find? fun e => e.bound.isNone && e.gate.isNone).map fun e => (q, u, e)

/-- Whether the payload of a packet entry is one the port sends (R414): a frame address, a length, the port, zeros. -/
def State.txGood (s : State) (n : Nat) (e : Entry) (b : List Byte) : Bool :=
  let len := leAt b 8 2 + 1
  e.ty == 4 && leAt b 0 8 % 64 == 0 && decide (14 ≤ len) && decide (len ≤ s.fld (Reg.ethCtl n) Fld.ethCtlMaxFrame)
    && leAt b 10 1 == n && leAt b 11 1 < 2 && allZero b 12 36

/-- ETH_FRAME_TRANSMIT (R415): the entry's frame is read under its producer's handle, padded to 60 bytes and sent; a frame outside the
producer's buffers is not sent, event 0x3D03. The entry leaves the ring. -/
def ethTransmit (n : Nat) : M Unit := do
  let s ← getS
  match s.txEntry n with
  | none => pure ()
  | some (q, u, e) => do
    match ← ctxRead (0xA8 + n) u.owner (u.base + 64 * e.slot) 64 with
    | .error _ => pure ()
    | .ok b =>
      let a := leAt b 0 8
      let len := leAt b 8 2 + 1
      let outside := raise (0xA8 + n) 6 0x3D03 (det [(1, n), (3, 0), (4, e.seq)])
      if !s.txGood n e b then pure ()
      else if !s.inBuffer e.producer a len then outside
      else
        match ← ctxRead (0xA8 + n) e.producer a len with
        | .error _ => outside
        | .ok f => update (.sent (· ++ [(0xA8 + n, padTo (max 60 len) f)]))
    wrReg (Reg.ethTxdone n) (BitVec.ofNat 64 e.seq)
    settleAll (← leaveEntry q e.seq)

def execEthFrameTransmit (port : Nat) (s : State) : Host.Outcome State Fault Refusal :=
  whenEnabled (fun s => s.linkUp port && (s.txEntry port).isSome) (ethTransmit port) s

/-! ## Discovery (R425) -/

/-- An LLDP TLV. -/
def tlv (type : Nat) (v : List Byte) : List Byte := beBytes 2 (type * 512 + v.length) ++ v

/-- LLDP_SEND (R425): every 30 s, chassis ID the first bytes of the device identity, port ID the port number, TTL 120 s. -/
def lldpSend (n : Nat) : M Unit := do
  let s ← getS
  let body := tlv 1 (leBytes 1 4 ++ deviceId.take 6) ++ tlv 2 (leBytes 1 7 ++ leBytes 1 n) ++ tlv 3 (beBytes 2 120) ++ zeros 2
  let f := etherHeader 0x0180C200000E (s.fld (Reg.ethMac n) Fld.ethMacMac) 0 0 0x88CC ++ body
  update (.sent (· ++ [(0xA8 + n, padTo (max 60 f.length) f)]))
  modEth n fun p => { p with lldpAt := some s.clock.now }

def execLldpSend (port : Nat) (s : State) : Host.Outcome State Fault Refusal :=
  whenEnabled (fun s => s.linkUp port && (match (s.ethPort port).lldpAt with
      | none => true
      | some t => decide (t + 30 * 2 ^ 32 ≤ s.clock.now))) (lldpSend port) s

/-- LLDP_TTL_EXPIRY (R425, R149): the neighbour ages out with event 0xAD04. -/
def lldpExpire (n : Nat) : M Unit := do
  let s ← getS
  match (s.ethPort n).neigh with
  | none => pure ()
  | some (c, _, _, _) => do
    modEth n fun p => { p with neigh := none }
    raise 0x81 6 0xAD04 (det ([(1, n), (3, 0)] ++ c.map fun x => (1, x.toNat)))

def execLldpTtlExpiry (port : Nat) (s : State) : Host.Outcome State Fault Refusal :=
  whenEnabled (fun s => match (s.ethPort port).neigh with
      | some (_, _, ttl, t) => decide (t + ttl * 2 ^ 32 + settleMargin ≤ s.clock.now)
      | none => false) (lldpExpire port) s

/-! ## PCIe (R428, R432) -/

/-- PCIE_LINK_UP (R428). -/
def pcieLinkUp (speed width : Nat) : M Unit := do
  wrFld Reg.pcieStatus Fld.pcieStatusSpeed speed
  wrFld Reg.pcieStatus Fld.pcieStatusWidth width
  raise 0xB0 6 0xAD06 (det [(1, speed), (1, width)])

def execPcieLinkUp (speed width : Nat) (s : State) : Host.Outcome State Fault Refusal :=
  whenEnabled (fun s => decide (1 ≤ speed) && decide (speed ≤ 5) && ([1, 2, 4, 8] : List Nat).contains width
      && s.fld Reg.pcieStatus Fld.pcieStatusSpeed == 0) (pcieLinkUp speed width) s

/-- PCIE_LINK_DOWN (R428): the event names what the link ran at. -/
def pcieLinkDown : M Unit := do
  let s ← getS
  let speed := s.fld Reg.pcieStatus Fld.pcieStatusSpeed
  let width := s.fld Reg.pcieStatus Fld.pcieStatusWidth
  wrFld Reg.pcieStatus Fld.pcieStatusSpeed 0
  wrFld Reg.pcieStatus Fld.pcieStatusWidth 0
  raise 0xB0 6 0xAD07 (det [(1, speed), (1, width)])

def execPcieLinkDown (s : State) : Host.Outcome State Fault Refusal :=
  whenEnabled (fun s => s.fld Reg.pcieStatus Fld.pcieStatusSpeed != 0) pcieLinkDown s

/-- MSI_RECEIVE (R428): the root port's MSI target is written; event 0x0D01 also enters the event queue of PCIE_CTX's context. -/
def msiReceive (data : Nat) : M Unit := do
  let s ← getS
  let d := det [(4, data)]
  raise 0xB0 6 0x0D01 d
  settleAll (← offerCtx (s.fld Reg.pcieCtx Fld.pcieCtxHandle) ⟨0xB0, 6, 0x0D01, d⟩)

def execMsiReceive (addr data : Nat) (s : State) : Host.Outcome State Fault Refusal :=
  whenEnabled (fun s => s.fld Reg.pcieStatus Fld.pcieStatusRole == 0 && s.fld Reg.pcieStatus Fld.pcieStatusSpeed != 0
      && addr == s.fld Reg.pcieMsi Fld.pcieMsiAddr * 4) (msiReceive data) s

end Sys2Proof.Machine
end

