-- ==== Sys2Proof/Machine/FlowOps.lean ====
section
/-! DEFINITION. Optical flow and stereo (R324–R348). Both operations are bounded (R63): what their rules leave to the stepping is drawn
from Config (log entry 16). -/

namespace Sys2Proof.Machine

open Sys2Proof

/-! ## Parameters (R339, R340) -/

/-- The fields both operations share: prediction mode and scale, check and region flags, texture threshold, region. -/
structure Search where
  mode : Nat
  scale : Nat
  check : Bool
  roi : Bool
  tex : Nat
  x0 : Nat
  y0 : Nat
  x1 : Nat
  y1 : Nat

def searchParams (p : List Byte) (roiAt : Nat) : Search :=
  ⟨leAt p 0 1, leAt p 1 1, bitAt (leAt p 2 1) 0, bitAt (leAt p 2 1) 1, leAt p 4 2,
   leAt p roiAt 2, leAt p (roiAt + 2) 2, leAt p (roiAt + 4) 2, leAt p (roiAt + 6) 2⟩

def Search.inRoi (q : Search) (x y : Nat) : Bool := !q.roi || (q.x0 ≤ x && x ≤ q.x1 && q.y0 ≤ y && y ≤ q.y1)

/-- Violations of the shared fields. -/
def checkSearch (p : List Byte) (roiAt w h : Nat) (has2 : Bool) : List (Nat × Nat) :=
  let q := searchParams p roiAt
  bad [(2 < q.mode || (q.mode == 0) == has2, 0xFE, 0), (if q.mode = 2 then 1 < q.scale else q.scale != 0, 0xFE, 1),
    (3 < leAt p 2 1, 0xFE, 2),
    (if q.roi then q.x1 < q.x0 else q.x0 != 0, 0xFE, roiAt), (if q.roi then q.y1 < q.y0 else q.y0 != 0, 0xFE, roiAt + 2),
    (if q.roi then w ≤ q.x1 else q.x1 != 0, 0xFE, roiAt + 4), (if q.roi then h ≤ q.y1 else q.y1 != 0, 0xFE, roiAt + 6)]

/-- A plane: UINT8 or INT16 of a shape, no scale array. -/
def wantPlane (t : Ten) (dt : Nat) (shape : List Nat) : List (Nat × Nat) :=
  wantType t (· == dt) ++ bad [(t.ndim != shape.length, t.slot, 7)] ++ noScale t
  ++ (List.range shape.length).flatMap fun k => wantExt t k (shape.getD k 1)

/-- Shape of a prediction (R328). -/
def predShape (q : Search) (w h : Nat) : List Nat :=
  if q.mode = 1 then [ceilDiv w 16, ceilDiv h 16] else [ceilDiv w (2 ^ q.scale), ceilDiv h (2 ^ q.scale)]

/-- Operands given as tensors only (R343, R344). -/
def wantTensor (t : Ten) : List (Nat × Nat) := bad [(t.ring.isSome, t.slot, 0)]

/-- The operands of R324; `vec` is the leading extent of vectors. -/
def checkPlanes (p : List Byte) (roiAt : Nat) (vec : List Nat) (ts : List Ten) : List (Nat × Nat) :=
  match tenAt ts 0, tenAt ts 1, tenAt ts 8, tenAt ts 9 with
  | some a, some b, some o, some st =>
    let w := a.ext 0
    let h := a.ext 1
    let q := searchParams p roiAt
    wantPlane a 3 [w, h] ++ bad [(w < 16 || 8192 < w, 0, 0x14), (h < 16 || 8192 < h, 0, 0x16)]
    ++ wantPlane b 3 [w, h] ++ wantTensor b
    ++ (match tenAt ts 2 with
        | some m => wantPlane m 4 (vec ++ predShape q w h) ++ wantTensor m
        | none => [])
    ++ wantPlane o 4 (vec ++ [w, h]) ++ wantPlane st 3 [w, h]
    ++ checkSearch p roiAt w h (tenAt ts 2).isSome
  | _, _, _, _ => []

/-- Checks of FLOW. -/
def checkFlow (p : List Byte) (ts : List Ten) : List (Nat × Nat) :=
  let fb := bitAt (leAt p 2 1) 0
  checkPlanes p 12 [2] ts
  ++ bad [(fb == (leAt p 3 1 == 0), 0xFE, 3), (leAt p 8 2 == 0x8000, 0xFE, 8), (leAt p 10 2 == 0x8000, 0xFE, 10)]
  ++ wantZero p [(6, 2), (20, 44)]

/-- Checks of STEREO. -/
def checkStereo (p : List Byte) (ts : List Ten) : List (Nat × Nat) :=
  let lr := bitAt (leAt p 2 1) 0
  let p1 := leAt p 10 2
  checkPlanes p 16 [] ts
  ++ (match tenAt ts 0 with | some a => wantTensor a | none => [])
  ++ bad [(if lr then leAt p 6 2 == 0 || 1023 < leAt p 6 2 else leAt p 6 2 != 0, 0xFE, 6), (leAt p 8 2 == 0xFFFF, 0xFE, 8),
    (p1 == 0 || 4095 < p1, 0xFE, 10), (leAt p 12 2 < p1 + 1 || 8191 < leAt p 12 2, 0xFE, 12)]
  ++ wantZero p [(3, 1), (14, 2), (24, 40)]

/-! ## Predictions (R328) -/

/-- A block's prediction: marked invalid, or its value and whether default_pred took its place. -/
inductive Pred where
  | invalid
  | at_ (v : List Int) (fallback : Bool)
  deriving DecidableEq, Repr

/-- A flow component or disparity encoding as a number; none where it is invalid (R326). -/
def predValue (flow : Bool) (c : Nat) : Option Int :=
  if flow then (if c % 65536 = 0x8000 then none else some (signed 16 c))
  else (if c % 65536 = 0xFFFF then none else some ((c % 65536 : Nat) : Int))

/-- The positions a block's prediction is read from. -/
def predIdx (q : Search) (flow : Bool) (w h bx by_ : Nat) : List (List Int) :=
  let x : Nat := if q.mode = 1 then bx else min (16 * bx + 8) (w - 1) / 2 ^ q.scale
  let y : Nat := if q.mode = 1 then by_ else min (16 * by_ + 8) (h - 1) / 2 ^ q.scale
  if flow then [[0, (x : Int), (y : Int), 0, 0, 0], [1, (x : Int), (y : Int), 0, 0, 0]] else [[(x : Int), (y : Int), 0, 0, 0, 0]]

/-- The prediction of a block. -/
def prediction (s : State) (h : Nat) (q : Search) (flow : Bool) (dflt : List Int) (t : Option Ten) (w ht bx by_ : Nat) : Pred :=
  match t with
  | none => .at_ dflt false
  | some m =>
    let vs := (predIdx q flow w ht bx by_).map fun i => predValue flow (m.code s h i)
    if q.mode = 1 then
      (if vs.any Option.isNone then .invalid else .at_ (vs.map fun v => v.getD 0) false)
    else
      let scaled := vs.map fun v => v.map fun x => x * 2 ^ q.scale
      let ok : Option Int → Bool := fun v => match v with
        | some x => if flow then -32767 ≤ x && x ≤ 32767 else x ≤ 0xFFFE
        | none => false
      if scaled.all ok then .at_ (scaled.map fun v => v.getD 0) false else .at_ dflt true

/-- Blocks of an image. -/
def imageBlocks (w h : Nat) : List (Nat × Nat) :=
  (List.range (ceilDiv h 16)).flatMap fun y => (List.range (ceilDiv w 16)).map fun x => (x, y)

/-! ## Shared measures -/

/-- A plane at hand. -/
def planePic (s : State) (h : Nat) (t : Ten) : Pic :=
  ⟨1, t.ext 0, t.ext 1, ((allIdx [t.ext 0, t.ext 1]).map fun i => t.code s h [((i.getD 0 0 : Nat) : Int), ((i.getD 1 0 : Nat) : Int), 0, 0, 0, 0]).toArray⟩

/-- A pixel at a position inside the image. -/
def Pic.get (q : Pic) (x y : Int) : Nat := q.at_ 0 x.toNat y.toNat

/-- Whether a position lies at least m from every edge. -/
def Pic.within (q : Pic) (m : Int) (x y : Int) : Bool := m ≤ x && x + m < q.w && m ≤ y && y + m < q.h

/-- Offsets of a window of radii rx and ry. -/
def window (rx ry : Nat) : List (Int × Int) :=
  (List.range (2 * ry + 1)).flatMap fun (j : Nat) => (List.range (2 * rx + 1)).map fun (i : Nat) => ((i : Int) - rx, (j : Int) - ry)

/-- The census transform: for each neighbour, whether it is below the centre. -/
def census (q : Pic) (rx ry : Nat) (x y : Int) : List Bool :=
  (window rx ry).map fun d => decide (q.get (x + d.1) (y + d.2) < q.get x y)

/-- Hamming distance. -/
def hamming (a b : List Bool) : Nat := ((a.zip b).filter fun p => p.1 != p.2).length

/-- Texture (R336): the sums of central differences along x and y. -/
def texture (q : Pic) (x y : Int) : Nat × Nat :=
  (window 2 2).foldl (fun a d =>
    let u := x + d.1
    let v := y + d.2
    (a.1 + ((q.get (u + 1) v : Int) - q.get (u - 1) v).natAbs, a.2 + ((q.get u (v + 1) : Int) - q.get u (v - 1)).natAbs)) (0, 0)

/-- Rounding to nearest with ties toward zero. -/
def roundTowardZero (n : Int) (d : Nat) : Int :=
  let q := n.natAbs / d
  let m := if d < 2 * (n.natAbs % d) then q + 1 else q
  if n < 0 then -(m : Int) else m

/-- The sub-pixel offset (R333). -/
def subPixel (k cm c0 cp : Nat) : Int :=
  let den : Int := (cm : Int) - 2 * c0 + cp
  if den ≤ 0 then 0 else max (-(k : Int)) (min k (roundTowardZero (k * ((cm : Int) - cp)) den.toNat))

/-- The confidence (R334) from the best cost and the least cost more than one step away. -/
def confidence (c1 : Nat) (c2 : Option Nat) : Nat :=
  match c2 with
  | none => 249
  | some c => if c = 0 then 0 else 249 * (c - c1) / c

/-- The least of some numbers. -/
def leastOf : List Nat → Option Nat
  | [] => none
  | x :: t => some (t.foldl min x)

/-- A result at a pixel: value components and code. -/
structure Found where
  v : List Int
  code : Nat

/-! ## FLOW (R330, R333–R337) -/

/-- The census cost of a candidate. -/
def flowCost (a b : Pic) (x y : Int) (d : Int × Int) : Nat :=
  (window 2 2).foldl (fun n w => n + hamming (census a 3 3 (x + w.1) (y + w.2)) (census b 3 3 (x + w.1 + d.1) (y + w.2 + d.2))) 0

/-- The evaluated candidates of a pixel about a centre. -/
def flowCands (b : Pic) (x y : Int) (c : Int × Int) : List (Int × Int) :=
  ((window 64 32).map fun w => (c.1 + w.1, c.2 + w.2)).filter fun d => b.within 5 (x + d.1) (y + d.2)

/-- What R330 lets a pixel's result depend on: its patch, the other image over the window, its place among the image's edges. -/
def flowKey (a b : Pic) (p : List Byte) (x y : Int) (c : Int × Int) : List Nat :=
  p.map BitVec.toNat ++ ((window 5 5).map fun w => a.get (x + w.1) (y + w.2))
  ++ (window 69 37).map fun w => if inPic b.w b.h (x + c.1 + w.1) (y + c.2 + w.2) then b.get (x + c.1 + w.1) (y + c.2 + w.2) else 256

/-- Whether the image is shifted by d over a patch, or everywhere. -/
def patchShift (a b : Pic) (x y : Int) (d : Int × Int) : Bool :=
  (window 5 5).all fun w => a.get (x + w.1) (y + w.2) == b.get (x + w.1 + d.1) (y + w.2 + d.2)

def wholeShift (a b : Pic) (d : Int × Int) : Bool :=
  (List.range a.h).all fun (y : Nat) => (List.range a.w).all fun (x : Nat) =>
    !inPic b.w b.h (x + d.1) (y + d.2) || a.get x y == b.get (x + d.1) (y + d.2)

/-- An element of a list by a choice. -/
def chosen (l : List (Int × Int)) (n : Nat) : Int × Int := l.getD (n % max l.length 1) (0, 0)

/-- The integer candidate (R330): an exact shift (R341), or the best within ±2 of what the coarse search settled on; and whether it is
exact. -/
def flowBest (a b : Pic) (p : List Byte) (x y : Int) (c : Int × Int) (cands : List (Int × Int)) : (Int × Int) × Bool :=
  let exact := cands.filter (patchShift a b x y)
  let whole := exact.filter (wholeShift a b)
  let key := flowKey a b p x y c
  if !whole.isEmpty then (chosen whole (Config.flowChoice (1 :: key)), true)
  else if !exact.isEmpty then (chosen exact (Config.flowChoice (1 :: key)), true)
  else
    let coarse := chosen cands (Config.flowChoice (0 :: key))
    let near := cands.filter fun d => (d.1 - coarse.1).natAbs ≤ 2 && (d.2 - coarse.2).natAbs ≤ 2
    let least := (leastOf (near.map (flowCost a b x y))).getD 0
    (chosen (near.filter fun d => flowCost a b x y d == least) (Config.flowChoice (1 :: key)), false)

/-- Orders 2 to 6 and 8 of R335 for a pixel about a centre. -/
def flowVector (a b : Pic) (p : List Byte) (tex : Nat) (x y : Int) (c : Int × Int) : Found :=
  let fail : Nat → Found := fun code => ⟨[-32768, -32768], code⟩
  if !a.within 5 x y then fail 250
  else if min (texture a x y).1 (texture a x y).2 < tex then fail 252
  else
    let cands := flowCands b x y c
    if cands.isEmpty then fail 250
    else
      let (d, exact) := flowBest a b p x y c cands
      if (d.1 - c.1).natAbs = 64 ∨ (d.2 - c.2).natAbs = 32 then fail 253
      else if !([(1, 0), (-1, 0), (0, 1), (0, -1)] : List (Int × Int)).all fun w => cands.contains (d.1 + w.1, d.2 + w.2) then fail 250
      else
        let cost := flowCost a b x y
        let c1 := cost d
        let offX := if exact then 0 else subPixel 8 (cost (d.1 - 1, d.2)) c1 (cost (d.1 + 1, d.2))
        let offY := if exact then 0 else subPixel 8 (cost (d.1, d.2 - 1)) c1 (cost (d.1, d.2 + 1))
        let far := cands.filter fun e => 1 < (e.1 - d.1).natAbs || 1 < (e.2 - d.2).natAbs
        ⟨[16 * d.1 + offX, 16 * d.2 + offY], confidence c1 (leastOf (far.map cost))⟩

/-- The window centre of a flow prediction (R329). -/
def flowCentre (v : List Int) : Int × Int := ((v.getD 0 0 + 8) / 16, (v.getD 1 0 + 8) / 16)

/-- A pixel of FLOW (R335, R337). -/
def flowPixel (a b : Pic) (p : List Byte) (q : Search) (pr : Pred) (x y : Nat) : Found :=
  let fail : Nat → Found := fun code => ⟨[-32768, -32768], code⟩
  match pr with
  | .invalid => fail 254
  | .at_ v _ =>
    if !q.inRoi x y then fail 254
    else
      let r := flowVector a b p q.tex x y (flowCentre v)
      if 249 < r.code ∨ !q.check then r
      else
        let u := r.v.getD 0 0
        let w := r.v.getD 1 0
        let thr := leAt p 3 1
        let back := flowVector b a p q.tex (x + (u + 8) / 16) (y + (w + 8) / 16) (flowCentre (v.map fun z => -z))
        if 249 < back.code ∨ thr < (u + back.v.getD 0 0).natAbs ∨ thr < (w + back.v.getD 1 0).natAbs then fail 251 else r

/-! ## STEREO (R331–R337) -/

/-- The window base of a disparity prediction (R329). -/
def steBase (v : List Int) : Nat := (max 0 (min ((v.getD 0 0 + 32) / 64 - 64) 896)).toNat

/-- Whether a level is evaluated at a left pixel (R329, R332). -/
def steEvaluated (a : Pic) (x y d : Nat) : Bool := a.within 4 x y && a.within 4 ((x : Int) - d) y

/-- The matching cost of a level (R331). -/
def steCost (cl cr : Array (List Bool)) (a : Pic) (x y d : Nat) : Nat :=
  if steEvaluated a x y d then hamming (cl.getD (y * a.w + x) []) (cr.getD (y * a.w + x - d) [])
  else Config.steEdgeCost x y d % 64

/-- The penalty P2 at an intensity step (R331). -/
def steP2 (p1 p2 step : Nat) : Nat :=
  let n := 16 * p2
  let d := 16 + step
  max (p1 + 1) (if n % d = 0 then n / d else n / d + flagBit (Config.steRoundUp p2 step))

/-- One pixel of a path (R331): its 128 costs, from its own costs and the pixel before it, costs carried by absolute disparity. -/
def steStep (own : List Nat) (b : Nat) (prev : Option (List Nat × Nat)) (p1 p2 : Nat) : List Nat :=
  match prev with
  | none => own
  | some (old, b') =>
    let m := (leastOf old).getD 0
    let at_ : Nat → Option Nat := fun d => if b' ≤ d ∧ d < b' + 128 then old[d - b']? else none
    own.zipIdx.map fun c =>
      let d := b + c.2
      let opts := match at_ d with
        | none => [m + p2]
        | some l => [l, m + p2] ++ ((if d = 0 then none else at_ (d - 1)).map (· + p1)).toList ++ ((at_ (d + 1)).map (· + p1)).toList
      c.1 + (leastOf opts).getD 0 - (if Config.steSubtract then m else 0)

/-- The eight directions of the paths. -/
def steDirs : List (Int × Int) := [(1, 0), (1, 1), (0, 1), (-1, 1), (-1, 0), (-1, -1), (0, -1), (1, -1)]

/-- The costs of one direction over the region, pixel by pixel, indexed as the region's raster. -/
def stePath (a : Pic) (cost : Nat → Nat → List Nat) (base : Nat → Nat → Nat) (p1 p2 x0 y0 x1 y1 : Nat) (dir : Int × Int) : Array (List Nat) :=
  let w := x1 - x0 + 1
  let order := (List.range (w * (y1 - y0 + 1)))
  let order := if 0 < dir.2 ∨ (dir.2 = 0 ∧ 0 < dir.1) then order else order.reverse
  order.foldl (fun acc i =>
    let x := x0 + i % w
    let y := y0 + i / w
    let px : Int := x - dir.1
    let py : Int := y - dir.2
    let inside := decide ((x0 : Int) ≤ px) && decide (px ≤ (x1 : Int)) && decide ((y0 : Int) ≤ py) && decide (py ≤ (y1 : Int))
    let prev := if inside then some (acc.getD ((py.toNat - y0) * w + (px.toNat - x0)) [], base px.toNat py.toNat) else none
    let step := if inside then ((a.at_ 0 x y : Int) - a.at_ 0 px.toNat py.toNat).natAbs else 0
    acc.setIfInBounds i (steStep (cost x y) (base x y) prev p1 (steP2 p1 p2 step)))
    (Array.replicate (w * (y1 - y0 + 1)) [])

/-- The summed costs over the eight paths. -/
def steSums (a b : Pic) (base : Nat → Nat → Nat) (p1 p2 x0 y0 x1 y1 : Nat) : Array (List Nat) :=
  let all : Pic → Array (List Bool) := fun q => ((allIdx [q.w, q.h]).map fun i =>
    let x := i.getD 0 0
    let y := i.getD 1 0
    if q.within 4 x y then census q 4 3 x y else []).toArray
  let cl := all a
  let cr := all b
  let cost : Nat → Nat → List Nat := fun x y => (List.range 128).map fun k => steCost cl cr a x y (base x y + k)
  let paths := steDirs.map (stePath a cost base p1 p2 x0 y0 x1 y1)
  ((List.range ((x1 - x0 + 1) * (y1 - y0 + 1))).map fun i =>
    (List.range 128).map fun k => paths.foldl (fun n q => n + (q.getD i []).getD k 0) 0).toArray

/-- The disparity by which the right image is the left shifted throughout, if one is in a list (R341). -/
def steShift (a b : Pic) (ds : List Nat) : Option Nat :=
  ds.find? fun k => (List.range a.h).all fun y => (List.range a.w).all fun x => x < k || a.at_ 0 x y == b.at_ 0 (x - k) y

/-- A pixel of STEREO (R335, R337). -/
def stePixel (a b : Pic) (p : List Byte) (q : Search) (pr : Pred) (sums : List Nat) (x y : Nat) : Found :=
  let fail : Nat → Found := fun code => ⟨[0xFFFF], code⟩
  match pr with
  | .invalid => fail 254
  | .at_ v _ =>
    let base := steBase v
    if !q.inRoi x y then fail 254
    else if !a.within 4 x y then fail 250
    else if (texture a x y).1 < q.tex then fail 252
    else
      let levels := ((List.range 128).map (base + ·)).filter (steEvaluated a x y)
      let sum : Nat → Nat := fun d => sums.getD (d - base) 0
      match leastOf (levels.map sum) with
      | none => fail 250
      | some least =>
        let exact := steShift a b levels
        let d := match exact with
          | some k => k
          | none => (levels.find? fun k => sum k == least).getD 0
        if (d = base ∨ d = base + 127) ∧ d ≠ 0 then fail 253
        else if (d ≠ 0 && !levels.contains (d - 1)) || !levels.contains (d + 1) then fail 250
        else
          let off := if exact.isSome || d == 0 then 0 else subPixel 32 (sum (d - 1)) (sum d) (sum (d + 1))
          let val : Int := 64 * d + off
          let far := levels.filter fun (k : Nat) => d + 1 < k || k + 1 < d
          let conf := confidence (sum d) (leastOf (far.map sum))
          if !q.check then ⟨[val], conf⟩
          else
            let r := Config.steRight (a.px.toList ++ b.px.toList ++ p.map BitVec.toNat ++ [(x - (val + 32) / 64).toNat, y, base])
            if 65536 ≤ r ∨ leAt p 6 2 < (val - r).natAbs then fail 251 else ⟨[val], conf⟩

/-! ## Results -/

/-- The pixels of FLOW, in raster order. -/
def flowField (h : Nat) (p : List Byte) (s : State) (ts : List Ten) : List ((Nat × Nat) × Found) :=
  match tenAt ts 0, tenAt ts 1 with
  | some ta, some tb =>
    let a := planePic s h ta
    let b := planePic s h tb
    let q := searchParams p 12
    let dflt := [signed 16 (leAt p 8 2), signed 16 (leAt p 10 2)]
    (List.range a.h).flatMap fun y => (List.range a.w).map fun x =>
      ((x, y), flowPixel a b p q (prediction s h q true dflt (tenAt ts 2) a.w a.h (x / 16) (y / 16)) x y)
  | _, _ => []

/-- The pixels of STEREO, in raster order. -/
def steField (h : Nat) (p : List Byte) (s : State) (ts : List Ten) : List ((Nat × Nat) × Found) :=
  match tenAt ts 0, tenAt ts 1 with
  | some ta, some tb =>
    let a := planePic s h ta
    let b := planePic s h tb
    let q := searchParams p 16
    let dflt : List Int := [((leAt p 8 2 : Nat) : Int)]
    let pred : Nat → Nat → Pred := fun x y => prediction s h q false dflt (tenAt ts 2) a.w a.h (x / 16) (y / 16)
    let base : Nat → Nat → Nat := fun x y => match pred x y with
      | .at_ v _ => steBase v
      | .invalid => steBase dflt
    let (x0, y0, x1, y1) := if q.roi then (q.x0, q.y0, q.x1, q.y1) else (0, 0, a.w - 1, a.h - 1)
    let sums := steSums a b base (leAt p 10 2) (leAt p 12 2) x0 y0 x1 y1
    (List.range a.h).flatMap fun y => (List.range a.w).map fun x =>
      ((x, y), stePixel a b p q (pred x y) (sums.getD ((y - y0) * (x1 - x0 + 1) + (x - x0)) []) x y)
  | _, _ => []

/-- The plan of either operation: both images and the prediction read once, vectors and status planes written. -/
def searchPlan (flow : Bool) (roiAt : Nat) (field : Nat → List Byte → State → List Ten → List ((Nat × Nat) × Found)) (h : Nat)
    (p : List Byte) (s : State) (ts : List Ten) : Plan :=
  match tenAt ts 0, tenAt ts 8, tenAt ts 9 with
  | some a, some _, some _ =>
    let q := searchParams p roiAt
    let f := field h p s ts
    ⟨(a.indices.flatMap fun i => [(0, toInts i), (1, toInts i)])
      ++ (if (tenAt ts 2).isSome then (imageBlocks (a.ext 0) (a.ext 1)).flatMap fun b =>
            (predIdx q flow (a.ext 0) (a.ext 1) b.1 b.2).map fun i => (2, i) else []), [],
     (f.flatMap fun r => r.2.v.zipIdx.map fun v =>
        ⟨8, if flow then [v.2, r.1.1, r.1.2, 0, 0, 0] else [r.1.1, r.1.2, 0, 0, 0, 0], unsigned 16 v.1, false, none⟩)
      ++ f.map fun r => ⟨9, [r.1.1, r.1.2, 0, 0, 0, 0], r.2.code, false, none⟩⟩
  | _, _, _ => ⟨[], [], []⟩

/-- Blocks given default_pred under pred_mode 2, and blocks marked 254 under pred_mode 1. -/
def predCounts (flow : Bool) (roiAt h : Nat) (p : List Byte) (s : State) (ts : List Ten) : Nat × Nat :=
  match tenAt ts 0 with
  | some a =>
    let ps := (imageBlocks (a.ext 0) (a.ext 1)).map fun b =>
      prediction s h (searchParams p roiAt) flow [0, 0] (tenAt ts 2) (a.ext 0) (a.ext 1) b.1 b.2
    ((ps.filter fun r => match r with | .at_ _ f => f | .invalid => false).length, (ps.filter (· == Pred.invalid)).length)
  | none => (0, 0)

/-! ## Commands -/

/-- FLOW or STEREO; `u` numbers the register page (0 OFE, 1 STE). -/
def searchOp (t u own : Nat) (flow : Bool) (roiAt : Nat)
    (field : Nat → List Byte → State → List Ten → List ((Nat × Nat) × Found)) : M Unit := do
  let s ← getS
  match s.task t with
  | none => pure ()
  | some k =>
    let rows := match s.operand k 0 with
      | some a => (match a.ring with
        | some (r, d, _, _) => if a.ringInput then some (r * d) else none
        | none => none)
      | none => none
    if flow && (rows.getD 96) < 96 then do
      settleAll (← raiseFor t k.engine (partOf k.engine) 0x3901 (taskDetail [(2, rows.getD 0)] k 0))
      finish t 1
    else do
      let notes : State → List Ten → Notes := fun s ts =>
        let c := predCounts flow roiAt k.handle k.params s ts
        ([(0xFF, 0x0901, c.1), (0xFF, 0x0902, c.2)], 0)
      let post : List OutW → M Unit := fun ws => do
        if k.engine = own then
          let st := ws.filter fun w => w.slot == 9
          bump (Reg.ofeVectors u) Fld.ofeVectorsCount st.length
          for j in List.range 5 do
            bump (Reg.ofeCodeCnt u j) Fld.ofeCodeCntCount (st.filter fun w => w.code == 250 + j).length
          let c := predCounts flow roiAt k.handle k.params s (s.operands k)
          bump (Reg.ofePredFallback u) Fld.ofePredFallbackCount c.1
          bump (Reg.ofePredFallback u) Fld.ofePredFallbackInvalid c.2
      runPlanWith t (if k.engine < 0x20 then .rows else .none) true (searchPlan flow roiAt field k.handle k.params) notes post

def execFlow (engine : Nat) (s : State) : Host.Outcome State Fault Refusal :=
  opCommand engine 0x505 (fun t => searchOp t 0 0x2B true 12 flowField) s
def execStereo (engine : Nat) (s : State) : Host.Outcome State Fault Refusal :=
  opCommand engine 0x506 (fun t => searchOp t 1 0x2C false 16 steField) s

end Sys2Proof.Machine
end

