-- ==== Sys2Proof/Machine/FeatOps.lean ====
section
/-! DEFINITION. The feature engine's operations (R349–R359). The score's rounding and the orientation are bounded (R358; log entry 16). -/

namespace Sys2Proof.Machine

open Sys2Proof

/-! ## FEAT_DETECT (R349–R355) -/

/-- Checks of FEAT_DETECT; the pair table follows the 64 bytes of the parameter block as it was read. -/
def checkFeatDetect (p : List Byte) (ts : List Ten) : List (Nat × Nat) :=
  match tenAt ts 0, tenAt ts 8 with
  | some a, some o =>
    let w := a.ext 0
    let h := a.ext 1
    let desc := bitAt (leAt p 3 1) 0
    let roi := bitAt (leAt p 3 1) 1
    let v : Nat → Nat := fun k => leAt p (24 + 2 * k) 2
    let k := leAt p 12 2
    wantPlane a 3 [w, h] ++ bad [(w < 64 || 8192 < w, 0, 0x14), (h < 64 || 8192 < h, 0, 0x16)]
    ++ wantType o (· == 3) ++ bad [(o.ndim != 1, 8, 7)] ++ noScale o ++ bad [(o.ext 0 < 64 + 64 * (leAt p 6 2 + 1), 8, 0x14)]
    ++ bad [(leAt p 0 1 < 9 || 12 < leAt p 0 1, 0xFE, 0), (1 < leAt p 1 1, 0xFE, 1), (1 < leAt p 2 1, 0xFE, 2), (3 < leAt p 3 1, 0xFE, 3),
        (leAt p 4 1 == 0, 0xFE, 4), (if leAt p 1 1 = 0 then k == 0 || 16384 < k else k != 0, 0xFE, 12),
        (if roi then v 2 < v 0 else v 0 != 0, 0xFE, 24), (if roi then v 3 < v 1 else v 1 != 0, 0xFE, 26),
        (if roi then w ≤ v 2 else v 2 != 0, 0xFE, 28), (if roi then h ≤ v 3 else v 3 != 0, 0xFE, 30)]
    ++ wantZero p [(5, 1), (14, 2), (32, 32)]
    ++ bad [((leAt p 16 8 != 0) != desc || leAt p 16 8 % 64 != 0 || 2 ^ 48 ≤ leAt p 16 8, 0xFE, 16),
        (desc && (List.range 256).any fun i =>
          let c : Nat → Int := fun j => signed 8 (leAt p (64 + 4 * i + j) 1)
          225 < c 0 * c 0 + c 1 * c 1 || 225 < c 2 * c 2 + c 3 * c 3, 0xFE, 16)]
  | _, _ => []

/-- The Bresenham circle of radius 3, in order. -/
def circle16 : List (Int × Int) := [(0, -3), (1, -3), (2, -2), (3, -1), (3, 0), (3, 1), (2, 2), (1, 3), (0, 3), (-1, 3), (-2, 2), (-3, 1),
  (-3, 0), (-3, -1), (-2, -2), (-1, -3)]

/-- Whether a cyclic list of 16 has a run of n that hold. -/
def arcRun (n : Nat) (l : List Bool) : Bool :=
  (List.range 16).any fun i => (List.range n).all fun j => l.getD ((i + j) % 16) false

/-- The segment test (R350). -/
def segmentTest (q : Pic) (arc t : Nat) (x y : Int) : Bool :=
  let c := q.get x y
  arcRun arc (circle16.map fun d => decide (c + t < q.get (x + d.1) (y + d.2)))
    || arcRun arc (circle16.map fun d => decide (q.get (x + d.1) (y + d.2) + t < c))

/-- Sobel gradients. -/
def sobel (q : Pic) (x y : Int) : Int × Int :=
  let g : Int → Int → Int := fun i j => q.get (x + i) (y + j)
  (g 1 (-1) + 2 * g 1 0 + g 1 1 - g (-1) (-1) - 2 * g (-1) 0 - g (-1) 1,
   g (-1) 1 + 2 * g 0 1 + g 1 1 - g (-1) (-1) - 2 * g 0 (-1) - g 1 (-1))

/-- The structure tensor: sums of Ix², Ix·Iy, Iy² over 7 × 7. -/
def structureTensor (q : Pic) (x y : Int) : Int × Int × Int :=
  (window 3 3).foldl (fun a d =>
    let g := sobel q (x + d.1) (y + d.2)
    (a.1 + g.1 * g.1, a.2.1 + g.1 * g.2, a.2.2 + g.2 * g.2)) (0, 0, 0)

/-- An inexact score rounded down or up as the stepping does. -/
def roundScore (lo : Nat) (exact : Bool) (key : List Nat) : Nat :=
  min (if exact then lo else lo + Config.featChoice (0 :: key) % 2) (2 ^ 32 - 1)

/-- The score of a candidate (R351) in units of 2^−8; none where its response is not positive. -/
def featScore (q : Pic) (kind k : Nat) (x y : Int) : Option Nat :=
  let (a, b, c) := structureTensor q x y
  let det := a * c - b * b
  if kind = 0 then
    let n := 65536 * det - k * (a + c) * (a + c)
    if n ≤ 0 then none else some (roundScore (n.toNat / 256) (n % 256 == 0) [n.toNat])
  else
    if det ≤ 0 then none
    else
      let n := (16384 * ((a - c) * (a - c) + 4 * b * b)).toNat
      let r := isqrt n
      let exact := r * r == n
      some (roundScore ((128 * (a + c)).toNat - r - (if exact then 0 else 1)) exact [n, (a + c).toNat])

/-- A feature: position and score. -/
abbrev Corner := Nat × Nat × Nat

/-- The candidates with their scores, in raster order (R350, R351). -/
def featCandidates (q : Pic) (p : List Byte) : List Corner :=
  let margin : Nat := if bitAt (leAt p 3 1) 0 then 18 else 5
  let v : Nat → Nat := fun k => leAt p (24 + 2 * k) 2
  let roi := bitAt (leAt p 3 1) 1
  (List.range q.h).flatMap fun (y : Nat) => (List.range q.w).filterMap fun (x : Nat) =>
    if q.within margin x y && (!roi || (v 0 ≤ x && x ≤ v 2 && v 1 ≤ y && y ≤ v 3)) && segmentTest q (leAt p 0 1) (leAt p 4 1) x y then
      (featScore q (leAt p 1 1) (leAt p 12 2) x y).map fun (sc : Nat) => ((x, y, sc) : Corner)
    else none

/-- Raster order of two features. -/
def rasterBefore (a b : Corner) : Bool := a.2.1 < b.2.1 || (a.2.1 == b.2.1 && a.1 < b.1)

/-- Suppression (R351). -/
def survives (all : List Corner) (r : Int) (c : Corner) : Bool :=
  !all.any fun o => o != c && ((o.1 : Int) - c.1).natAbs ≤ r.toNat && ((o.2.1 : Int) - c.2.1).natAbs ≤ r.toNat
    && (c.2.2 < o.2.2 || (c.2.2 == o.2.2 && rasterBefore o c))

/-- The survivors at or above the threshold, in raster order. -/
def featSurvivors (q : Pic) (p : List Byte) : List Corner :=
  let all := featCandidates q p
  (all.filter (survives all (if leAt p 2 1 = 0 then 1 else 2))).filter fun c => leAt p 8 4 ≤ c.2.2

/-- The features kept, in raster order. -/
def featKept (p : List Byte) (l : List Corner) : List Corner :=
  let n := leAt p 6 2 + 1
  let best := (l.mergeSort fun a b => b.2.2 < a.2.2 || (a.2.2 == b.2.2 && !rasterBefore b a)).take n
  l.filter best.contains

/-- atan(lo ÷ hi) in units of 2π ÷ 256, rounded, for lo ≤ hi. -/
def octantByte (lo hi : Nat) : Nat :=
  let pi := ivPi 96
  let frac : Nat → Nat → Int := fun n d => (ivAtan 96 ((Iv.ofNat 96 n).divNat d)).lo
  let a : Int := if 1000 * lo ≤ 414 * hi then frac lo hi else pi.lo / 4 - frac (hi - lo) (hi + lo)
  ((a * 256 / pi.lo + 1) / 2).toNat

/-- round(atan2(y, x) × 256 ÷ 2π) mod 256, for (x, y) not both 0. -/
def angleByte (x y : Int) : Nat :=
  let ax := x.natAbs
  let ay := y.natAbs
  let first := if ay ≤ ax then octantByte ay ax else 64 - octantByte ax ay
  let half := if x < 0 then 128 - first else first
  (if y < 0 then 256 - half else half) % 256

/-- The moments of the disc of radius 15 (R352). -/
def featMoments (q : Pic) (x y : Int) : Int × Int :=
  (window 15 15).foldl (fun a d =>
    if d.1 * d.1 + d.2 * d.2 ≤ 225 then
      let i : Int := q.get (x + d.1) (y + d.2)
      (a.1 + d.1 * i, a.2 + d.2 * i)
    else a) (0, 0)

/-- The orient byte (R352). -/
def featOrient (q : Pic) (x y : Int) : Nat :=
  let (m10, m01) := featMoments q x y
  let key := [unsigned 32 m10, unsigned 32 m01]
  if m10 = 0 ∧ m01 = 0 then Config.featChoice (2 :: key) % 256
  else (angleByte m10 m01 + 255 + Config.featChoice (1 :: key) % 3) % 256

/-- cos(k π ÷ 16) × 2^60 for k = 0 … 8. -/
def cosTable : List Int := [1152921504606846976, 1130768441178740757, 1065160580698383124, 958619196450722178, 815238614083298888,
  640528868967736374, 441203958630471860, 224923827593068887, 0]

/-- cos(k π ÷ 16) × 2^60 for any k. -/
def cos16 (k : Nat) : Int :=
  let j := k % 32
  let j := if 16 < j then 32 - j else j
  if j ≤ 8 then cosTable.getD j 0 else -(cosTable.getD (16 - j) 0)

/-- A number over 2^60 rounded to the nearest integer, ties away from zero. -/
def roundAway (n : Int) : Int :=
  let m : Int := ((n.natAbs * 2 + 2 ^ 60) / 2 ^ 61 : Nat)
  if n < 0 then -m else m

/-- A point of the pair table rotated (R353). -/
def rotated (step : Nat) (x y : Int) : Int × Int :=
  let c := cos16 step
  let s := cos16 (step + 24)
  (roundAway (x * c - y * s), roundAway (x * s + y * c))

/-- The sum of the 5 × 5 box about a position, whose order the smoothed values have. -/
def boxSum (q : Pic) (x y : Int) : Nat := (window 2 2).foldl (fun n d => n + q.get (x + d.1) (y + d.2)) 0

/-- The 32 bytes of a descriptor (R353). -/
def featDesc (q : Pic) (table : List Byte) (orient : Nat) (x y : Int) : List Byte :=
  let step := (orient + 4) / 8 % 32
  let bit : Nat → Bool := fun i =>
    let c : Nat → Int := fun j => signed 8 (leAt table (4 * i + j) 1)
    let a := rotated step (c 0) (c 1)
    let b := rotated step (c 2) (c 3)
    boxSum q (x + a.1) (y + a.2) < boxSum q (x + b.1) (y + b.2)
  (List.range 32).map fun k => BitVec.ofNat 8 ((List.range 8).foldl (fun n j => n + flagBit (bit (8 * k + j)) * 2 ^ j) 0)

/-- An entry of a feature list (R355). -/
def featEntry (q : Pic) (p : List Byte) (c : Corner) : List Byte :=
  let desc := bitAt (leAt p 3 1) 0
  let o := if desc then featOrient q c.1 c.2.1 else 0
  padTo 64 (padTo 16 (leBytes 2 c.1 ++ leBytes 2 c.2.1 ++ leBytes 4 c.2.2 ++ leBytes 1 o)
    ++ (if desc then featDesc q (p.drop 64) o c.1 c.2.1 else []))

/-- The capture stamp of the camera-cadence instance that ran a task. -/
def State.captureStamp (s : State) (k : Task) : Nat :=
  match k.origin, k.inst with
  | .inst g _ _, some i => (match tblFind s.tally.graphs g, tblFind s.tally.instances i with
    | some x, some n => if x.cadence = 1 then n.stamp else 0
    | _, _ => 0)
  | _, _ => 0

/-- The feature list of a task (R355), with found and count. -/
def featList (s : State) (k : Task) (a : Ten) : List Byte × Nat × Nat :=
  let q := planePic s k.handle a
  let p := k.params
  let l := featSurvivors q p
  let kept := featKept p l
  let flags := flagBit (kept.length < l.length) + 2 * flagBit (bitAt (leAt p 3 1) 0)
  (withCrc 60 (leBytes 8 (s.captureStamp k) ++ leBytes 4 k.origin.seq ++ leBytes 4 kept.length ++ leBytes 4 l.length
      ++ leBytes 2 (a.ext 0 - 1) ++ leBytes 2 (a.ext 1 - 1) ++ leBytes 1 flags)
    ++ kept.flatMap (featEntry q p), l.length, kept.length)

/-- The writes of a byte list from element 0 of a slot. -/
def bytesWrites (slot : Nat) (bs : List Byte) : List OutW := bs.zipIdx.map fun b => ⟨slot, [b.2, 0, 0, 0, 0, 0], b.1.toNat, false, none⟩

/-- What a bounded operation offers a checker: every block where a tile runs it (R440). -/
def boundedSampling (k : Task) : Sampling := if k.engine < 0x20 then .rows else .none

/-- FEAT_DETECT reads the whole image and writes its feature list. -/
def featDetectPlan (k : Task) (s : State) (ts : List Ten) : Plan :=
  match tenAt ts 0 with
  | some a => ⟨a.indices.map fun i => (0, toInts i), [], bytesWrites 8 (featList s k a).1⟩
  | none => ⟨[], [], []⟩

def featDetectOp (t : Nat) : M Unit := do
  let s ← getS
  match s.task t with
  | none => pure ()
  | some k => do
    let cut : State → List Ten → Nat := fun s ts => match tenAt ts 0 with
      | some a => let r := featList s k a; if r.2.2 < r.2.1 then r.2.1 else 0
      | none => 0
    let post : List OutW → M Unit := fun _ => do
      if k.engine = 0x2D then
        match s.operand k 0 with
        | some a => bump Reg.ftrFeatures Fld.ftrFeaturesCount (featList s k a).2.2
        | none => pure ()
        if cut s (s.operands k) ≠ 0 then bump Reg.ftrTrunc Fld.ftrTruncCount 1
    runPlanWith t (boundedSampling k) true (featDetectPlan k) (fun s ts => ([(0xFF, 0x0A01, cut s ts)], 0)) post

/-! ## FEAT_MATCH (R356, R357) -/

/-- Checks of FEAT_MATCH. -/
def checkFeatMatch (p : List Byte) (ts : List Ten) : List (Nat × Nat) :=
  let list : Ten → List (Nat × Nat) := fun t => wantType t (· == 3) ++ bad [(t.ndim != 1, t.slot, 7)] ++ noScale t
  match tenAt ts 0, tenAt ts 1, tenAt ts 8 with
  | some a, some b, some o =>
    list a ++ list b ++ list o
    ++ (match tenAt ts 2 with
        | some f => wantType f (· == 4) ++ bad [(f.ndim != 3, 2, 7), (f.ext 0 != 2, 2, 0x14)] ++ noScale f
        | none => [])
    ++ bad [(leAt p 0 1 == 0, 0xFE, 0), (leAt p 1 1 == 0, 0xFE, 1), (256 < leAt p 2 2, 0xFE, 2), (256 < leAt p 4 2, 0xFE, 4)]
    ++ wantZero p [(6, 58)]
  | _, _, _ => []

/-- The bytes of a rank-1 operand as read. -/
def Ten.readBytes (s : State) (h : Nat) (t : Ten) (n : Nat) : List Byte :=
  (List.range n).map fun i => BitVec.ofNat 8 (t.code s h [(i : Int), 0, 0, 0, 0, 0])

/-- Entry j of a list. -/
def featAt (l : List Byte) (j : Nat) : List Byte := (l.drop (64 + 64 * j)).take 64

/-- Why a list cannot be used: 0 no descriptors, 1 count, 2 CRC, 3 order (asked of list b only). -/
def listFault (l : List Byte) (ext : Nat) (ordered : Bool) : Option Nat :=
  let n := leAt l 12 4
  if !bitAt (leAt l 24 1) 1 then some 0
  else if ext < 64 + 64 * n then some 1
  else if leAt l 60 4 ≠ crc32c (l.take 60) then some 2
  else if ordered && !(List.range (n - 1)).all fun j =>
      let c : Nat → Corner := fun j => (leAt (featAt l j) 0 2, leAt (featAt l j) 2 2, 0)
      rasterBefore (c j) (c (j + 1)) then some 3
  else none

/-- The whole of a list operand. -/
def Ten.listBytes (s : State) (h : Nat) (t : Ten) : List Byte :=
  let head := t.readBytes s h 64
  t.readBytes s h (min (64 + 64 * leAt head 12 4) (t.ext 0))

/-- The XOR popcount of two descriptors. -/
def descDistance (a b : List Byte) : Nat :=
  let x := leAt a 16 32 ^^^ leAt b 16 32
  ((List.range 256).filter fun i => bitAt x i).length

/-- One entry of the match list (R356, R357): ib, status, distance, second distance, comparisons made. -/
structure Match where
  ib : Nat
  status : Nat
  dist : Nat
  second : Nat
  compares : Nat

/-- The predicted position of a feature, none where the flow is invalid there. -/
def predicted (s : State) (h : Nat) (flow : Option Ten) (x y : Nat) : Option (Int × Int) :=
  match flow with
  | none => some (x, y)
  | some f =>
    match predValue true (f.code s h [0, (x : Int), (y : Int), 0, 0, 0]), predValue true (f.code s h [1, (x : Int), (y : Int), 0, 0, 0]) with
    | some u, some v => some (x + (u + 8) / 16, y + (v + 8) / 16)
    | _, _ => none

/-- Match one entry of list a against list b. -/
def matchEntry (p : List Byte) (b : List Byte) (e : List Byte) (pos : Option (Int × Int)) : Match :=
  let none4 : Match := ⟨0xFFFFFF, 4, 0xFFFF, 0xFFFF, 0⟩
  match pos with
  | none => none4
  | some (px, py) =>
    if !inPic (leAt b 20 2 + 1) (leAt b 22 2 + 1) px py then none4
    else
      let cands := (List.range (leAt b 12 4)).filter fun j =>
        ((leAt (featAt b j) 0 2 : Int) - px).natAbs ≤ leAt p 0 1 && ((leAt (featAt b j) 2 2 : Int) - py).natAbs ≤ leAt p 1 1
      let ds := cands.map fun j => (j, descDistance e (featAt b j))
      match leastOf (ds.map (·.2)) with
      | none => ⟨0xFFFFFF, 1, 0xFFFF, 0xFFFF, 0⟩
      | some d =>
        let best := ((ds.find? fun q => q.2 == d).map (·.1)).getD 0
        let second := leastOf ((ds.filter fun q => q.1 != best).map (·.2))
        let st : Nat := if leAt p 2 2 < d then 2
          else if leAt p 4 2 ≠ 0 ∧ second.isSome ∧ leAt p 4 2 * second.getD 0 < d * 256 then 3 else 0
        ⟨if st = 0 then best else 0xFFFFFF, st, d, second.getD 0xFFFF, ds.length⟩

/-- The matches of a task. -/
def featMatches (s : State) (k : Task) (a b : List Byte) (flow : Option Ten) : List Match :=
  (List.range (leAt a 12 4)).map fun j =>
    let e := featAt a j
    matchEntry k.params b e (predicted s k.handle flow (leAt e 0 2) (leAt e 2 2))

/-- The match list (R357). -/
def matchBytes (a : List Byte) (ms : List Match) : List Byte :=
  withCrc 60 (a.take 16 ++ leBytes 4 (ms.filter fun m => m.status == 0).length)
    ++ ms.flatMap fun m => leBytes 3 m.ib ++ leBytes 1 m.status ++ leBytes 2 m.dist ++ leBytes 2 m.second

/-- FEAT_MATCH reads both lists, and the flow field at every feature of the first where it has one, and writes the matches. -/
def featMatchPlan (guided : Bool) (a b : List Byte) (ms : List Match) (_ : State) (_ : List Ten) : Plan :=
  let flowReads : List (Nat × List Int) := if guided then (List.range (leAt a 12 4)).flatMap fun j =>
      let e := featAt a j
      [(2, [0, ((leAt e 0 2 : Nat) : Int), ((leAt e 2 2 : Nat) : Int), 0, 0, 0]), (2, [1, ((leAt e 0 2 : Nat) : Int), ((leAt e 2 2 : Nat) : Int), 0, 0, 0])]
    else []
  let idx : Nat → Nat → Nat × List Int := fun sl i => (sl, [(i : Int), 0, 0, 0, 0, 0])
  ⟨(List.range a.length).map (idx 0) ++ (List.range b.length).map (idx 1) ++ flowReads, [], bytesWrites 8 (matchBytes a ms)⟩

def featMatchOp (t : Nat) : M Unit := do
  let s ← getS
  match s.task t with
  | none => pure ()
  | some k =>
    match s.operand k 0, s.operand k 1 with
    | some ta, some tb => do
      let a := ta.listBytes s k.handle
      let b := tb.listBytes s k.handle
      let fault := match listFault a (ta.ext 0) false with
        | some c => some (0, c)
        | none => (listFault b (tb.ext 0) true).map fun c => (1, c)
      match fault with
      | some (sl, c) => do
        settleAll (← raiseFor t k.engine (partOf k.engine) 0x3A01 (taskDetail [(1, sl), (1, c)] k sl))
        finish t 1
      | none => do
        let ms := featMatches s k a b (s.operand k 2)
        let post : List OutW → M Unit := fun _ => do
          if k.engine = 0x2D then bump Reg.ftrCompares Fld.ftrComparesCount (ms.foldl (fun n m => n + m.compares) 0)
        runPlanWith t .none false (featMatchPlan (s.operand k 2).isSome a b ms) (fun _ _ => ([], 0)) post
    | _, _ => pure ()

def execFeatDetect (engine : Nat) (s : State) : Host.Outcome State Fault Refusal := opCommand engine 0x507 featDetectOp s
def execFeatMatch (engine : Nat) (s : State) : Host.Outcome State Fault Refusal := opCommand engine 0x508 featMatchOp s

end Sys2Proof.Machine
end

