-- ==== Sys2Proof/Machine/IspOps.lean ====
section
/-! DEFINITION. ISP_FRAME (R287–R298, R437). Demosaic and noise reduction are bounded (R290; log entry 16). -/

namespace Sys2Proof.Machine

open Sys2Proof

/-! ## Parameter block and page (R287, R292) -/

/-- Whether a task is one of a camera-cadence graph instance of a camera context. -/
def State.inCamInstance (s : State) (k : Task) (c : Nat) : Bool :=
  match k.origin with
  | .inst g _ _ => ((tblFind s.tally.graphs g).map fun x => x.cadence == 1 && x.camera == c).getD false
  | .enq _ _ => false

/-- Checks of ISP_FRAME (R287, R291, R296). -/
def checkIspFrame (s : State) (k : Task) (p : List Byte) (ts : List Ten) : List (Nat × Nat) :=
  let c := leAt p 0 1
  let mode := leAt p 1 1
  let fmt := leAt p 2 1
  let shape : Nat × Nat := if mode = 1 then (((tenAt ts 0).map fun t => t.ext 0).getD 0, ((tenAt ts 0).map fun t => t.ext 1).getD 0)
    else (s.camW c, s.camH c)
  bad [(31 < c, 0xFE, 0), (1 < mode, 0xFE, 1), (2 < fmt, 0xFE, 2),
    (1 < leAt p 3 1 || (leAt p 3 1 == 1 && (mode == 1 || !s.inCamInstance k c)), 0xFE, 3), (leAt p 3 1 == 1 && leAt p 4 4 != 0, 0xFE, 4),
    (mode == 0 && leAt p 8 8 != 0, 0xFE, 8), (mode == 0 && leAt p 16 8 != 0, 0xFE, 16),
    (mode == 1 && (leAt p 16 8 == 0 || leAt p 16 8 % 64 != 0 || !canonical (leAt p 16 8)), 0xFE, 16)]
  ++ wantZero p [(24, 104)]
  ++ (match tenAt ts 0 with
      | some t => if mode = 0 then bad [(true, 0, 0)]
        else wantType t isRaw ++ bad [(t.ndim != 2, 0, 7), (t.ext 0 < 64, 0, 0x14), (t.ext 1 < 17, 0, 0x16)]
      | none => bad [(mode == 1, 0, 0)])
  ++ (match tenAt ts 8 with
      | some o => wantType o (fun d => d == 3 || d == 0x0D) ++ noScale o
          ++ (if fmt = 2 then bad [(o.ndim != 2, 8, 7)] ++ wantExt o 0 shape.1 ++ wantExt o 1 shape.2
              else bad [(o.ndim != 3, 8, 7)] ++ wantExt o 0 3 ++ wantExt o 1 shape.1 ++ wantExt o 2 shape.2)
      | none => [])
  ++ (match tenAt ts 9 with
      | some o => wantType o (· == 3) ++ bad [(o.ndim != 1, 9, 7)] ++ noScale o
      | none => [])

/-- Bytes of a parameter page that carry a field: (offset, size). -/
def pageFields : List (Nat × Nat) := [(0, 17), (0x14, 12), (0x20, 129), (0x100, 2312), (0xA40, 14), (0xA80, 18), (0xA94, 12), (0xB00, 514),
  (0xD40, 2), (0xD80, 26), (0xE00, 2), (0xE04, 4), (0xE40, 128)]

/-- Whether a parameter page keeps its rules (R292). -/
def pageOk (p : List Byte) : Bool :=
  let pattern := leAt p 0x10 1 % 4
  p.zipIdx.all (fun b => b.1 == 0#8 || pageFields.any fun f => f.1 ≤ b.2 && b.2 < f.1 + f.2)
  && (List.range 4).all (fun i => leAt p (4 * i) 4 < 2 ^ 20)
  && pattern != 3 && leAt p 0x10 1 < 64 && (pattern == 2 || leAt p 0x10 1 / 4 < 4)
  && leAt p 0x14 4 < 2 ^ 21
  && leAt p 0x18 8 % 64 == 0 && (leAt p 0x18 8 % 2 ^ 48 != 0 || leAt p 0x18 8 == 0)
  && (List.range 16).all (fun k => leAt p (0x20 + 8 * k) 4 < 2 ^ 20 && leAt p (0x24 + 8 * k) 4 < 2 ^ 24)
  && (List.range 15).all (fun k => leAt p (0x20 + 8 * k) 4 < leAt p (0x28 + 8 * k) 4)
  && leAt p 0xA0 1 ≤ 1 && (pattern == 2 || allZero p 0xA48 6)
  && (List.range 3).all (fun k => let o := signed 32 (leAt p (0xA94 + 4 * k) 4)
      decide (-(2 ^ 24 : Int) ≤ o) && decide (o ≤ 2 ^ 24 - 1))
  && leAt p 0xD80 1 ≤ 3 && leAt p 0xD81 1 ≤ 1 && leAt p 0xE00 1 < 32 && leAt p 0xE01 1 < 32 && leAt p 0xE04 4 < 2 ^ 24

/-! ## Mosaics (R289; layout of RGB-IR and phases PRESUMED, log entry 18) -/

/-- The channel of a pixel under a pattern byte: c0 to c3. -/
def chanAt (pattern x y : Nat) : Nat :=
  let ph := pattern / 4
  if pattern % 4 = 2 then
    let i := (x + ph % 4) % 4
    let j := (y + ph / 4) % 4
    ([2, 1, 0, 1, 1, 3, 1, 3, 0, 1, 2, 1, 1, 3, 1, 3] : List Nat).getD (4 * j + i) 0
  else (x + ph % 2) % 2 + 2 * ((y + ph / 2) % 2)

/-- The colour of a channel: 0 red, 1 green or clear, 2 blue, 3 infrared. -/
def colourOf (pattern ch : Nat) : Nat := if pattern % 4 = 2 then ch else if ch = 0 then 0 else if ch = 3 then 2 else 1

/-- A picture of one value per pixel from a function. -/
def mkPic (w h : Nat) (f : Nat → Nat → Nat) : Pic :=
  ⟨1, w, h, ((List.range h).flatMap fun y => (List.range w).map fun x => f x y).toArray⟩

/-- Squared length of an offset. -/
def sqLen (d : Int × Int) : Nat := (d.1 * d.1 + d.2 * d.2).toNat

/-- The value at a position, or of the nearest pixel of the same channel inside (R289 stage 2). -/
def nearestSame (pattern : Nat) (q : Pic) (x y : Int) : Nat :=
  if inPic q.w q.h x y then q.get x y
  else
    let ch := chanAt pattern (x % 4 + 4).toNat (y % 4 + 4).toNat
    let cx : Int := max 0 (min x (q.w - 1))
    let cy : Int := max 0 (min y (q.h - 1))
    let cands := ((window 4 4).map fun d => (cx + d.1, cy + d.2)).filter fun c =>
      inPic q.w q.h c.1 c.2 && chanAt pattern c.1.toNat c.2.toNat == ch
    let best := cands.foldl (fun m c => min m (sqLen (c.1 - x, c.2 - y))) (2 ^ 20)
    let near := cands.filter fun c => sqLen (c.1 - x, c.2 - y) == best
    match near[Config.ispChoice [0, (x + 8).toNat, (y + 8).toNat] % max near.length 1]? with
    | some c => q.get c.1 c.2
    | none => 0

/-- The 8 nearest neighbours of the same channel. -/
def sameNeighbours (pattern : Nat) (q : Pic) (x y : Nat) : List Nat :=
  let ch := chanAt pattern x y
  let ds := (window 4 4).filter fun d => d != (0, 0)
    && chanAt pattern ((x : Int) + d.1 + 8).toNat ((y : Int) + d.2 + 8).toNat == ch
  ((ds.mergeSort fun a b => sqLen a ≤ sqLen b).take 8).map fun d => nearestSame pattern q (x + d.1) (y + d.2)

/-! ## Stages 1 to 5 (R289) -/

/-- Stage 1. -/
def stageBlack (p : List Byte) (bits : Nat) (raw : Pic) : Pic :=
  mkPic raw.w raw.h fun x y => raw.at_ 0 x y * 2 ^ (20 - bits) - leAt p (4 * chanAt (leAt p 0x10 1) x y) 4

/-- Stage 2, with the static list. -/
def stageDefect (p : List Byte) (list : List (Nat × Nat)) (q : Pic) : Pic :=
  let pattern := leAt p 0x10 1
  let thr := leAt p 0x14 4 % 2 ^ 20
  mkPic q.w q.h fun x y =>
    let v := q.at_ 0 x y
    let n := sameNeighbours pattern q x y
    let hi := n.foldl max 0
    let lo := n.foldl min (2 ^ 24)
    if list.contains (x, y) || (bitAt (leAt p 0x14 4) 20 && (hi + thr < v || v + thr < lo)) then
      let m := n.mergeSort
      (m.getD 3 0 + m.getD 4 0) / 2
    else v

/-- Stage 3. -/
def decompand (p : List Byte) (v : Nat) : Nat :=
  if leAt p 0xA0 1 = 0 then v * 16
  else
    let i : Nat → Nat := fun k => leAt p (0x20 + 8 * k) 4
    let o : Nat → Int := fun k => (leAt p (0x24 + 8 * k) 4 : Int)
    if i 15 ≤ v then (o 15).toNat
    else match (List.range 15).find? fun k => i k ≤ v && v < i (k + 1) with
      | some k =>
        let n : Int := ((v - i k : Nat) : Int) * (o (k + 1) - o k)
        let d : Int := ((i (k + 1) - i k : Nat) : Int)
        let up : Nat := if n < 0 ∧ n % d ≠ 0 then Config.ispChoice [2, n.natAbs, d.natAbs] % 2 else 0
        (o k + n / d + up).toNat
      | none => Config.ispChoice [1, v, i 0, (o 0).toNat] % 2 ^ 24

/-- Stage 4: the gain of a pixel, and its product. -/
def shade (p : List Byte) (ch w h x y v : Nat) : Nat :=
  let u := x * 65536 / max (w - 1) 1
  let r := y * 65536 / max (h - 1) 1
  let j := min (u / 4096) 15
  let i := min (r / 4096) 15
  let t := u - j * 4096
  let sy := r - i * 4096
  let gain : Nat → Nat → Nat := fun j i => leAt p (0x100 + 2 * ((i * 17 + j) * 4 + ch)) 2
  let g := (gain j i * (4096 - t) * (4096 - sy) + gain (j + 1) i * t * (4096 - sy) + gain j (i + 1) * (4096 - t) * sy
    + gain (j + 1) (i + 1) * t * sy + 2 ^ 23) / 2 ^ 24
  min ((v * g + 2 ^ 11) / 2 ^ 12) (2 ^ 24 - 1)

/-- The output of stage 4 (also what the statistics are measured on). -/
def ispLinear (p : List Byte) (bits : Nat) (list : List (Nat × Nat)) (raw : Pic) : Pic :=
  let q := stageDefect p list (stageBlack p bits raw)
  mkPic q.w q.h fun x y => shade p (chanAt (leAt p 0x10 1) x y) q.w q.h x y (decompand p (q.at_ 0 x y))

/-- Stage 5. -/
def whiteBalance (p : List Byte) (q : Pic) : Pic :=
  mkPic q.w q.h fun x y => min ((q.at_ 0 x y * leAt p (0xA40 + 2 * chanAt (leAt p 0x10 1) x y) 2 + 2 ^ 11) / 2 ^ 12) (2 ^ 24 - 1)

/-! ## Stages 6 to 10 (R289, R290) -/

/-- A value between bounds that the stepping chooses. -/
def between (lo hi : Nat) (key : List Nat) : Nat := lo + Config.ispChoice key % (hi - lo + 1)

/-- Stage 6: colour k at a pixel, bounded by the samples of its colour in the 7 × 7 window. -/
def demosaic (p : List Byte) (q : Pic) (k x y : Nat) : Nat :=
  let pattern := leAt p 0x10 1
  let pos := ((window 3 3).map fun d => ((x : Int) + d.1, (y : Int) + d.2)).filter fun c => inPic q.w q.h c.1 c.2
  let same := (pos.filter fun c => colourOf pattern (chanAt pattern c.1.toNat c.2.toNat) == k).map fun c => q.get c.1 c.2
  let lo := same.foldl min (2 ^ 24 - 1)
  between lo (max lo (same.foldl max 0)) (3 :: k :: x :: y :: pattern :: leAt p 0xA48 6 :: pos.map fun c => q.get c.1 c.2)

/-- Clamp of an integer. -/
def clampTo (lo hi i : Int) : Nat := (max lo (min i hi)).toNat

/-- Stages 7 and 8. -/
def colourTone (p : List Byte) (v : Nat → Nat) (k : Nat) : Nat :=
  let m : Nat → Int := fun j => signed 16 (leAt p (0xA80 + 2 * (3 * k + j)) 2)
  let sum : Int := (List.range 3).foldl (fun a j => a + m j * (v j : Int)) 0
  let c := clampTo 0 (2 ^ 24 - 1) ((sum + 2 ^ 11) / 2 ^ 12 + signed 32 (leAt p (0xA94 + 4 * k) 4))
  let l : Nat → Int := fun i => (leAt p (0xB00 + 2 * i) 2 : Int)
  let i := c / 65536
  (l i + ((l (i + 1) - l i) * ((c % 65536 : Nat) : Int) + 2 ^ 15) / 2 ^ 16).toNat

/-- A picture of three components per pixel. -/
def mkPic3 (w h : Nat) (f : Nat → Nat → Nat → Nat) : Pic :=
  ⟨3, w, h, ((List.range h).flatMap fun y => (List.range w).flatMap fun x => (List.range 3).map fun k => f k x y).toArray⟩

/-- Stage 9: a component at a pixel, bounded by its 5 × 5 window; strengths of 0 pass the values. -/
def denoise (p : List Byte) (q : Pic) (k x y : Nat) : Nat :=
  if leAt p 0xD40 2 = 0 then q.at_ k x y
  else
    let pos := ((window 2 2).map fun d => ((x : Int) + d.1, (y : Int) + d.2)).filter fun c => inPic q.w q.h c.1 c.2
    let vals := pos.map fun c => q.at_ k c.1.toNat c.2.toNat
    let lo := vals.foldl min 65535
    between lo (max lo (vals.foldl max 0)) (4 :: k :: x :: y :: leAt p 0xD40 2
      :: pos.flatMap fun c => (List.range 3).map fun j => q.at_ j c.1.toNat c.2.toNat)

/-- Luma weights of red and blue in ten-thousandths (BT.601, BT.709, BT.2020; PRESUMED, log entry 18). -/
def lumaWeights (mode : Nat) : Int × Int := if mode = 1 then (2990, 1140) else if mode = 2 then (2126, 722) else (2627, 593)

/-- n ÷ d rounded to nearest, halves up. -/
def roundQuot (n d : Int) : Int := (2 * n + d) / (2 * d)

/-- Coefficient (row, column) of stage 10 in S2.14 and the row's offset. -/
def cscCoeff (p : List Byte) (row col : Nat) : Int :=
  let mode := leAt p 0xD80 1
  if mode = 0 then signed 16 (leAt p (0xD82 + 2 * (3 * row + col)) 2)
  else
    let (kr, kb) := lumaWeights mode
    let y : Int := if col = 0 then kr else if col = 1 then 10000 - kr - kb else kb
    let (num, den) : Int × Int :=
      if row = 0 then (if leAt p 0xD81 1 = 1 then (219, 255) else (1, 1)) else (if leAt p 0xD81 1 = 1 then (224, 255) else (1, 1))
    if row = 0 then roundQuot (y * 16384 * num) (10000 * den)
    else
      let w : Int := if row = 1 then kb else kr
      let own : Nat := if row = 1 then 2 else 0
      let d := (if col = own then 10000 else 0) - y
      roundQuot (d * 16384 * num) (2 * (10000 - w) * den)

def cscOffset (p : List Byte) (row : Nat) : Int :=
  if leAt p 0xD80 1 = 0 then signed 16 (leAt p (0xD94 + 2 * row) 2)
  else if row = 0 then (if leAt p 0xD81 1 = 1 then 4096 else 0) else 32768

/-- Stage 10. -/
def colourSpace (p : List Byte) (fmt : Nat) (v : Nat → Nat) (k : Nat) : Nat :=
  if fmt = 0 then v k
  else
    let sum : Int := (List.range 3).foldl (fun a j => a + cscCoeff p k j * (v j : Int)) 0
    clampTo 0 65535 ((sum + 2 ^ 13) / 2 ^ 14 + cscOffset p k)

/-- The image before it is stored: three components, or one for out_fmt 2. -/
def ispImage (p : List Byte) (fmt : Nat) (lin : Pic) : Pic :=
  let wb := whiteBalance p lin
  let toned := mkPic3 wb.w wb.h fun k x y => colourTone p (fun j => demosaic p wb j x y) k
  mkPic3 wb.w wb.h fun k x y => colourSpace p fmt (fun j => denoise p toned j x y) k

/-- u ÷ 65,535 rounded to nearest even FP16 (R291). -/
def fp16Of (u : Nat) : Nat :=
  let n := u * 2 ^ 60
  (fmtFP16.store (.fin false (2 * (n / 65535) + flagBit (n % 65535 != 0)) (-61))).1

/-- The stored encoding of a component (R291). -/
def ispStore (dt u : Nat) : Nat := if dt = 3 then min ((u + 128) / 256) 255 else fp16Of u

/-! ## Statistics (R296–R298) -/

/-- A quad: its samples of red, green twice, blue; none where the quad lacks one; whether it counts as measured. -/
structure Quad where
  r : Option Nat
  g : List Nat
  b : Option Nat

/-- The quad at (qx, qy) of the output of stage 4, where its pixels are measured. -/
def quadAt (pattern : Nat) (lin : Pic) (valid : Nat → Nat) (qx qy : Nat) : Option Quad :=
  if valid (2 * qy) < 2 * qx + 2 ∨ valid (2 * qy + 1) < 2 * qx + 2 then none
  else
    let px := [(0, 0), (1, 0), (0, 1), (1, 1)].map fun (d : Nat × Nat) => (2 * qx + d.1, 2 * qy + d.2)
    let of : Nat → List Nat := fun k => (px.filter fun c => colourOf pattern (chanAt pattern c.1 c.2) == k).map fun c => lin.at_ 0 c.1 c.2
    some ⟨(of 0).head?, of 1, (of 2).head?⟩

def Quad.saturated (q : Quad) (sat : Nat) : Bool := (q.r.toList ++ q.g ++ q.b.toList).any (sat ≤ ·)

/-- A colour sample of a quad; the RGB-IR mosaic leaves one out (R297 gives no value then). -/
def Quad.red (q : Quad) (x y : Nat) : Nat := q.r.getD (Config.ispChoice [5, 0, x, y] % 2 ^ 24)
def Quad.blue (q : Quad) (x y : Nat) : Nat := q.b.getD (Config.ispChoice [5, 2, x, y] % 2 ^ 24)

/-- The top 16 bits of a mean of 24-bit values. -/
def mean16 (sum n : Nat) : Nat := if n = 0 then 0 else sum / n / 256

/-- The body of the statistics record (R297). -/
def statsBody (p : List Byte) (lin : Pic) (valid : Nat → Nat) : List Byte :=
  let pattern := leAt p 0x10 1
  let gw := leAt p 0xE00 1 + 1
  let gh := leAt p 0xE01 1 + 1
  let wq := lin.w / 2
  let hq := lin.h / 2
  let sat := leAt p 0xE04 4
  let quads := (allIdx [wq, hq]).filterMap fun i => (quadAt pattern lin valid (i.getD 0 0) (i.getD 1 0)).map fun q => (i.getD 0 0, i.getD 1 0, q)
  let cells := (allIdx [gw, gh]).flatMap fun i =>
    let mine := quads.filter fun q => q.1 * gw / max wq 1 == i.getD 0 0 && q.2.1 * gh / max hq 1 == i.getD 1 0
    let good := (mine.filter fun q => !q.2.2.saturated sat).map (·.2.2)
    let rs := good.filterMap (·.r)
    let bs := good.filterMap (·.b)
    let gs := good.flatMap (·.g)
    leBytes 2 (mean16 (rs.foldl (· + ·) 0) rs.length) ++ leBytes 2 (mean16 (gs.foldl (· + ·) 0) gs.length)
      ++ leBytes 2 (mean16 (bs.foldl (· + ·) 0) bs.length) ++ leBytes 2 (min (mine.length - good.length) 65535)
      ++ leBytes 4 (min good.length (2 ^ 32 - 1)) ++ zeros 4
  let bins := quads.map fun q => (q.2.2.red q.1 q.2.1 + q.2.2.g.foldl (· + ·) 0 + q.2.2.blue q.1 q.2.1) / 4 / 65536
  let hist := (List.range 256).flatMap fun i => leBytes 4 (min (bins.filter (· == i)).length (2 ^ 32 - 1))
  let af := (List.range 16).flatMap fun n =>
    let v : Nat → Nat := fun i => leAt p (0xE40 + 8 * n + 2 * i) 2
    let xs := if v 2 < v 0 then [] else List.range' (v 0) (v 2 + 1 - v 0)
    let ys := if v 3 < v 1 then [] else List.range' (v 1) (v 3 + 1 - v 1)
    let sum := ys.foldl (fun a y => xs.foldl (fun a x =>
      if y < lin.h ∧ 2 ≤ x ∧ x + 2 < valid y ∧ colourOf pattern (chanAt pattern x y) = 1 then
        a + ((lin.at_ 0 (x - 2) y : Int) - 2 * lin.at_ 0 x y + lin.at_ 0 (x + 2) y).natAbs
      else a) a) 0
    leBytes 8 (min sum (2 ^ 64 - 1))
  padTo ((cells.length + 63) / 64 * 64) cells ++ hist ++ af

/-- The statistics record (R296). -/
def statsRecord (capture frame ctx flags exp gain req lines gw gh : Nat) (body : List Byte) : List Byte :=
  withCrc 60 (leBytes 8 capture ++ leBytes 4 frame ++ leBytes 1 ctx ++ leBytes 1 flags ++ leBytes 2 (body.length / 64 - 1)
    ++ leBytes 4 exp ++ leBytes 2 gain ++ zeros 2 ++ leBytes 4 req ++ leBytes 2 lines ++ leBytes 1 gw ++ leBytes 1 gh) ++ body

/-! ## The operation -/

/-- What a task knows of its frame: raw bits, lines of pixels, valid pixels per line, and the header of its statistics. -/
structure IspInput where
  bits : Nat
  lines : List (List Nat)
  valid : List Nat
  capture : Nat
  frame : Nat
  ctx : Nat
  flags : Nat
  exp : Nat
  gain : Nat
  req : Nat
  measured : Nat

/-- The frame a task in mode 0 names, and whether its lines are still to be had (R285–R287). -/
def State.frameOf (s : State) (c n : Nat) : Option CamFrame :=
  ((s.cam c).frames.filter fun f => f.num == n).getLast?

def State.frameGone (s : State) (c n : Nat) : Bool :=
  match s.frameOf c n with
  | none => ((s.cam c).frames.getLast?.map fun f => !seqBefore f.num n).getD false
  | some f => f.dropped
      || (if f.direct && !f.miss then f.lines.length != f.rx + f.filled
          else (s.cam c).frames.any fun g => seqBefore f.num g.num && g.slot == f.slot && !g.dropped && (!g.direct || g.miss))

/-- Whether the frame of a task is closed, or can no longer be had. -/
def State.ispReady (s : State) (t : Nat) : Bool :=
  match s.task t with
  | none => false
  | some k => leAt k.params 1 1 == 1 || (match s.ispFrame k with
      | some (c, n) => s.frameGone c n || ((s.frameOf c n).map fun f => !f.isOpen).getD false
      | none => true)

/-- The CRC over the line-group CRCs of some lines (R281, R437). -/
def linesCrc (bits : Nat) (lines : List (List Nat)) : Nat :=
  crc32c ((chunks 16 lines.length lines).flatMap fun g => leBytes 4 (crc32c (g.flatMap (packLine bits))))

/-- The static defect list of a page (R292); an error response ends the read. -/
def defectList (e h : Nat) (p : List Byte) : M (Except MemErr (List (Nat × Nat))) := do
  let a := leAt p 0x18 8 % 2 ^ 48
  if a = 0 then return .ok []
  else
    let n := leAt p 0x1E 2 + 1
    match ← ctxRead e h (signExtend48 a) (4 * n) with
    | .error x => return .error x
    | .ok b => return .ok ((List.range n).map fun i => (leAt b (4 * i) 2, leAt b (4 * i + 2) 2))

/-- What a frame with its page and defect list writes: image and statistics. -/
def ispPlan (k : Task) (page : List Byte) (list : List (Nat × Nat)) (reads : State → List Ten → List (Nat × List Int))
    (inp : State → List Ten → IspInput) (s : State) (ts : List Ten) : Plan :=
  let fmt := leAt k.params 2 1
  let i := inp s ts
  let w := ((i.lines.head?).map List.length).getD 0
  let raw : Pic := ⟨1, w, i.lines.length, i.lines.flatten.toArray⟩
  let lin := ispLinear page i.bits list raw
  let img := ispImage page fmt lin
  let image : List OutW := match tenAt ts 8 with
    | none => []
    | some o => (allIdx [if fmt = 2 then 1 else 3, w, i.lines.length]).map fun d =>
        let u := img.at_ (d.getD 0 0) (d.getD 1 0) (d.getD 2 0)
        ⟨8, if fmt = 2 then [d.getD 1 0, d.getD 2 0, 0, 0, 0, 0] else [d.getD 0 0, d.getD 1 0, d.getD 2 0, 0, 0, 0], ispStore o.dt u, false, none⟩
  let stats : List OutW := if (tenAt ts 9).isSome then
      bytesWrites 9 (statsRecord i.capture i.frame i.ctx i.flags i.exp i.gain i.req i.measured (leAt page 0xE00 1) (leAt page 0xE01 1)
        (statsBody page lin fun y => i.valid.getD y 0))
    else []
  ⟨reads s ts, [], image ++ stats⟩

/-- Process a frame with its page: image and statistics. -/
def ispRun (t : Nat) (k : Task) (h : Nat) (page : List Byte) (reads : State → List Ten → List (Nat × List Int)) (inp : State → List Ten → IspInput) : M Unit := do
  if !pageOk page then descriptorInvalid t 0xFE 16
  else
    match ← defectList k.engine h page with
    | .error x => opFault t x
    | .ok list => runPlanWith t (boundedSampling k) true (ispPlan k page list reads inp) (fun _ _ => ([], 0)) fun _ => pure ()

/-- A named frame that has been dropped or overwritten (R287): event 0x4702, the task ends aborted. -/
def ispGone (t c n : Nat) : M Unit := do
  settleAll (← raiseFor t 0x28 4 0x4702 (det [(1, c), (1, 1), (2, 0), (4, n)]))
  finish t 1

/-- Read the rows of a raw slot. -/
def readRows (e c slot : Nat) : List Nat → M (Except MemErr (List (List Nat)))
  | [] => return .ok []
  | y :: ys => do
    let s ← getS
    let n := containerBytes (s.camBits c)
    match ← ctxRead e (s.camOwner c) (s.rawRow c slot y) (s.camW c * n) with
    | .error x => return .error x
    | .ok b =>
      match ← readRows e c slot ys with
      | .error x => return .error x
      | .ok r => return .ok (((List.range (s.camW c)).map fun i => leAt b (n * i) n % 2 ^ s.camBits c) :: r)

/-- A camera frame: its lines, and what its record says of it. -/
def cameraInput (f : CamFrame) (c bits : Nat) (lines : List (List Nat)) : IspInput :=
  let flags := flagBit (f.filled != 0) + 2 * flagBit f.emb.isNone + 4 * flagBit (f.emb.isSome && f.expReq != 0 && !f.confirmed)
  ⟨bits, lines, f.valid, f.capture, f.num, c, flags, f.expCode, f.gainCode, f.expReq, f.rx - f.crc⟩

/-- Mode 0 (R287): a camera frame. -/
def ispCamera (t : Nat) (k : Task) (c n : Nat) : M Unit := do
  let s ← getS
  match s.frameOf c n with
  | none => ispGone t c n
  | some f =>
    if s.frameGone c n then ispGone t c n
    else if f.page = 0 then descriptorInvalid t 0xFE 0
    else
      match ← ctxRead k.engine (s.camOwner c) f.page 8192 with
      | .error x => opFault t x
      | .ok page => do
        let rows ← (if f.direct && !f.miss then pure (.ok f.lines) else readRows k.engine c f.slot (List.range (f.rx + f.filled)))
        match (rows : Except MemErr (List (List Nat))) with
        | .error x => opFault t x
        | .ok lines => do
          let bits := s.camBits c
          if linesCrc bits lines ≠ f.lgCrc then taskFault k 2 0 (linesCrc bits lines)
          ispRun t k (s.camOwner c) page (fun _ _ => []) fun _ _ => cameraInput f c bits lines

/-- A detached frame is read whole from its input tensor. -/
def detachedReads (_ : State) (ts : List Ten) : List (Nat × List Int) :=
  match tenAt ts 0 with
  | some a => a.indices.map fun i => (0, toInts i)
  | none => []

/-- A detached frame: its lines from the input tensor, its stamps and numbers from the parameter block. -/
def detachedInput (k : Task) (s : State) (ts : List Ten) : IspInput :=
  match tenAt ts 0 with
  | some a =>
    let lines := (List.range (a.ext 1)).map fun y => (List.range (a.ext 0)).map fun x =>
      a.code s k.handle [((x : Nat) : Int), ((y : Nat) : Int), 0, 0, 0, 0] % 2 ^ rawBits a.dt
    ⟨rawBits a.dt, lines, List.replicate (a.ext 1) (a.ext 0), leAt k.params 8 8, leAt k.params 4 4, leAt k.params 0 1, 2, 0, 0, 0, a.ext 1⟩
  | none => ⟨8, [], [], 0, 0, 0, 0, 0, 0, 0, 0⟩

/-- Mode 1 (R287): a detached frame. -/
def ispDetached (t : Nat) (k : Task) : M Unit := do
  match ← ctxRead k.engine k.handle (leAt k.params 16 8) 8192 with
  | .error x => opFault t x
  | .ok page => do
    ispRun t k k.handle page detachedReads (detachedInput k)

def ispFrameOp (t : Nat) : M Unit := do
  let s ← getS
  match s.task t with
  | none => pure ()
  | some k =>
    if leAt k.params 1 1 = 1 then ispDetached t k
    else match s.ispFrame k with
      | some (c, n) => ispCamera t k c n
      | none => pure ()

def execIspFrame (engine : Nat) (s : State) : Host.Outcome State Fault Refusal :=
  whenEnabled (fun s => match s.opTask engine 0x500 with
      | some t => s.ispReady t
      | none => false) (do
    let s ← getS
    match s.opTask engine 0x500 with
    | some t => ispFrameOp t
    | none => pure ()) s

end Sys2Proof.Machine
end

