-- ==== Sys2Proof/Machine/Fetch.lean ====
section
/-! DEFINITION. Reading and checking the tensor descriptors and the parameter block of an assigned task (R88, R89, R167–R196, R364, R365). -/

namespace Sys2Proof.Machine

open Sys2Proof

/-! ## Descriptor validity (R166–R173, R177, R182, R187, R188, R191–R196) -/

/-- The logical index of a dimension that lies outermost: the last below the rank. -/
def Ten.outer (t : Ten) : Nat := t.ndim - 1

/-- Supertiles of the global grid. -/
def gridCount (d : List Byte) : Nat := (List.range 6).foldl (fun n k => n * tdGrid d k) 1

/-- The address of an owner table (R194). -/
def ownerAddr (d : List Byte) : Nat := signExtend48 (tdInfo d * 64)

/-- Whether an operand of an operation may have a RAW type (R188). -/
def rawAllowed (op slot : Nat) : Bool :=
  (op == 0x500 && slot == 0) || op == 0x100 || op == 0x101 || op == 0x700 || op == 0x701

/-- Whether an address lies in a registered buffer of a context, and, under physical addressing, in the physical range (R166, R196). -/
def State.goodBase (s : State) (h a : Nat) : Bool :=
  s.inBuffer h a 1 && (((s.ctx h).map fun c => !c.physical || decide (a < 2 ^ 40)).getD false)

/-- Whether a dimension's bytes must be 0, being at or above the rank (R168), and are not. -/
def deadDim (d : List Byte) (k v : Nat) : Bool := tdRank d ≤ k && v != 0

/-- Offsets of the offending fields of a tensor descriptor (R196). -/
def tdOffsets (s : State) (k : Task) (op : Nat) (t : Ten) : List Nat :=
  let d := t.td
  let h := k.handle
  let w := (dtWidth t.dt).getD 0
  let rule := scaleRule t.dt
  let dims := List.range 6
  let word8 := tdWord8 d
  let order := (List.range 5).map (tdOrder d)
  let bits := tdTileBits d
  let l : List (Bool × Nat) :=
    [(leAt d 0 1 % 64 != 0 || !s.goodBase h (tdBase d), 0),
     (w == 0 || (isRaw t.dt && !rawAllowed op t.slot), 6),
     (6 < tdRank d || tdDist d == 3 || tdHome d == 7 || (tdDist d != 0 && (s.jobOf h).isNone), 7),
     (if tdHasScale d then
        rule.1 == 0 || tdDist d == 2 || tdScaleFmt d != rule.2 || (tdScaleBlk d == 0 && !isCint t.dt) || tdRank d ≤ tdScaleDim d
          || !s.goodBase h (tdScaleBase d) || (8 ≤ t.slot && op != 0x206 && op != 0x100)
      else rule.1 == 2 || word8 % 64 != 0, 8),
     (order.any (4 < ·) || order.dedup.length != 5, 0x0E),
     (decide (2 ^ w ≤ t.fill), 0x10),
     (w != 0 && (bits < 512 || 32768 < bits || bits % 512 != 0), 0x35),
     (bitsOf (leAt d 0x38 8) 18 4 != 0 || (tdDist d == 0 && tdInfo d != 0)
        || (tdDist d == 1 && (dims.any (fun j => deadDim d j (bitsOf (tdInfo d) (7 * j) 7)) || 64 < dims.foldl (fun n j => n * shardCount d j) 1))
        || (tdDist d == 2 && ((d.drop 64).length < gridCount d || (d.drop 64).any (fun b => bitAt b.toNat 6)
             || !allZero d (64 + gridCount d) (d.length - 64 - gridCount d))), 0x3A)]
    ++ dims.flatMap fun j =>
      let stored := tdGrid d j * 2 ^ tdStLog2 d j * 2 ^ tdTileLog2 d j
      [(deadDim d j (tdExtent d j - 1) || (match t.ring with
          | some (rows, _, _, dim) => if j = dim then stored != rows else decide (stored < t.ext j)
          | none => decide (stored < t.ext j)), 0x14 + 2 * j),
       (deadDim d j (tdOwnLo d j) || (t.ext j != 0 && t.ext j ≤ tdOwnLo d j + tdOwnHi d j), 0x20 + j),
       (deadDim d j (tdOwnHi d j), 0x26 + j),
       (deadDim d j (tdGrid d j - 1), 0x2C + 12 * j / 8),
       (12 < tdTileLog2 d j || deadDim d j (tdTileLog2 d j), 0x35 + j / 2),
       (deadDim d j (tdStLog2 d j), 0x38 + 3 * j / 8)]
  (l.filter (·.1)).map (·.2)

/-- Violations of the descriptors of a set; those of level operands belong to the block (R308). -/
def setViolations (s : State) (k : Task) (op : Nat) (ts : List Ten) : List (Nat × Nat) :=
  (ts.flatMap fun t => (tdOffsets s k op t).map fun o => (t.slot, o)).map levelViolation

/-- The checks of the operation of a task (R101, R103). -/
def opViolations (s : State) (k : Task) (ts : List Ten) : List (Nat × Nat) :=
  let p := k.params
  match dOpcode k.desc with
  | 0x0100 => checkCopy ts
  | 0x0102 => checkGather p ts
  | 0x0103 => checkScatter p ts
  | 0x0200 => checkMatmul false ts
  | 0x0201 => checkConv false p ts
  | 0x0202 => checkConv true p ts
  | 0x0203 => checkConv false p ts
  | 0x0204 => checkEltwise p ts
  | 0x0205 => checkUnary p ts
  | 0x0206 => checkQuantize p ts
  | 0x0207 => checkDequantize p ts
  | 0x0208 => checkMatmul true ts
  | 0x0300 => checkReduce p ts
  | 0x0301 => checkSoftmax p ts
  | 0x0302 => checkNorm p ts
  | 0x0303 => checkNorm p ts
  | 0x0304 => checkArgmax p ts
  | 0x0305 => checkTopk p ts
  | 0x0400 => checkAttention p ts
  | 0x0401 => checkRouteGather p ts
  | 0x0402 => checkRouteCombine p ts
  | 0x0500 => checkIspFrame s k p ts
  | 0x0501 => checkPyrBuild p ts
  | 0x0502 => checkPyrLaplace p ts
  | 0x0503 => checkWarpMesh p ts
  | 0x0504 => checkWarpHomog p ts
  | 0x0505 => checkFlow p ts
  | 0x0506 => checkStereo p ts
  | 0x0507 => checkFeatDetect p ts
  | 0x0508 => checkFeatMatch p ts
  | 0x0600 => checkDdc s k p ts
  | 0x0601 => checkDuc s k p ts
  | 0x0602 => checkFft s p ts
  | 0x0603 => checkIfft s p ts
  | 0x0604 => checkPrach s p ts
  | 0x0605 => checkLdpcDecode p ts
  | 0x0606 => checkLdpcEncode p ts
  | 0x0607 => checkPolar false p ts
  | 0x0608 => checkPolar true p ts
  | 0x0609 => checkFh s k true p ts
  | 0x060A => checkFh s k false p ts
  | 0x0700 => checkCrc ts
  | 0x0701 => checkCompare ts
  | 0x0702 => checkCairnCheck p ts
  | 0x0800 => checkFabric s k 0x800 p ts
  | 0x0801 => checkFabric s k 0x801 p ts
  | 0x0802 => checkFabric s k 0x802 p ts
  | 0x0803 => checkFabric s k 0x803 p ts
  | _ => []

/-- The violation that event 0x3004 names (R89): the lowest slot, the parameter block last, then the lowest byte. -/
def firstViolation (vs : List (Nat × Nat)) : Option (Nat × Nat) :=
  match vs with
  | [] => none
  | v :: rest => some (rest.foldl (fun m x => if x.1 < m.1 ∨ (x.1 = m.1 ∧ x.2 < m.2) then x else m) v)

/-! ## Overlap (R189, R190) -/

/-- Bytes of a scale array (R175). -/
def scaleBytes (t : Ten) : Nat := (List.range' 1 5).foldl (fun n k => n * scaleExt t k) (ceilDiv (scaleExt t 0) 64 * 64)

/-- The footprint ranges of an operand: (first byte, length). -/
def footprint (t : Ten) : List (Nat × Nat) :=
  let d := t.td
  let n := if tdDist d = 2 then ownerPosition d t.rank (gridCount d) else gridCount d
  (tdBase d, n * tilesPerSt d * tdTileBytes d) :: (if t.hasScale then [(tdScaleBase d, scaleBytes t)] else [])

/-- Whether two operands overlap. -/
def overlaps (a b : Ten) : Bool :=
  (footprint a).any fun x => (footprint b).any fun y => x.1 < y.1 + y.2 && y.1 < x.1 + x.2

/-- A descriptor without its base, scale base and owned margins. -/
def tdCommon (d : List Byte) : List Byte :=
  leBytes 2 (leAt d 6 2) ++ leBytes 8 (tdWord8 d % 64 + tdWord8 d / 2 ^ 48 * 2 ^ 48) ++ (d.drop 0x10).take 0x10 ++ d.drop 0x2C

/-- Whether an output may overlap another operand (R190): a COPY of like descriptors, an ELTWISE or UNARY in place. -/
def mayOverlap (op : Nat) (i o : Ten) : Bool :=
  if op = 0x100 then i.slot == 0 && tdCommon i.td == tdCommon o.td && i.hasScale == o.hasScale
  else (op == 0x204 || op == 0x205) && i.slot == 0 && i.td == o.td

/-- The first pair of overlapping operands, an output second (R190). -/
def overlapping (op : Nat) (ts : List Ten) : Option (Nat × Nat) :=
  (ts.filter fun o => 8 ≤ o.slot).findSome? fun o =>
    (ts.find? fun i => i.slot < o.slot && overlaps i o && !mayOverlap op i o).map fun i => (i.slot, o.slot)

/-! ## Reading (R88, R194, R308, R353, R550) -/

/-- The descriptor addresses of a task's operand slots (R85, R550): slot, and the address or none where the bound entry gives none that
R87 admits. -/
def descAddrs (k : Task) : M (List (Nat × Option Nat)) := do
  let mut l : List (Nat × Option Nat) := []
  let n := dataInputs k.desc
  for sl in List.range n ++ (List.range (dataOutputs k.desc)).map (8 + ·) do
    let w := dSlot k.desc sl
    if slotKind w = 4 then
      let s ← getS
      match k.taken.find? fun x => x.1 == sl with
      | none => l := l ++ [(sl, none)]
      | some (_, q, seq) =>
        match s.queue q with
        | none => l := l ++ [(sl, none)]
        | some u =>
          match u.ents.find? fun e => e.seq == seq with
          | none => l := l ++ [(sl, none)]
          | some e =>
            match ← ctxRead 0x80 u.owner (u.base + 64 * e.slot) 8 with
            | .error _ => l := l ++ [(sl, none)]
            | .ok b =>
              let a := leNat b
              l := l ++ [(sl, if e.ty = 0 ∧ s.goodBlock k.handle a 64 then some a else none)]
    else l := l ++ [(sl, some (slotAddr w))]
  return l

/-- Read one descriptor, with its owner table behind it under dist 2 (R194). A table too long or outside the buffers is left unread, and
its descriptor invalid. -/
def readDesc (k : Task) (a : Nat) : M (Except MemErr (List Byte)) := do
  match ← ctxRead k.engine k.handle a 64 with
  | .error e => return .error e
  | .ok d => do
    let s ← getS
    let n := ceilDiv (gridCount d) 64 * 64
    if tdDist d ≠ 2 ∨ 65536 < gridCount d ∨ !s.inBuffer k.handle (ownerAddr d) n then return .ok d
    else
      match ← ctxRead k.engine k.handle (ownerAddr d) n with
      | .error e => return .error e
      | .ok t => return .ok (d ++ t)

/-- The word addresses of the levels 5 upwards that PYR_BUILD's level table names (R308), or none where the table breaks its rules. -/
def levelAddrs (s : State) (k : Task) (p table : List Byte) : Option (List Nat) :=
  let n := leAt p 1 1 + 1
  let ws := (List.range 8).map fun j => leAt table (8 * j) 8
  let built := ws.take (n - 4)
  if (built.all fun w => w % 64 == 1 && w / 2 ^ 48 == 0 && s.goodBlock k.handle (slotAddr w) 64) && (ws.drop (n - 4)).all (· == 0) then
    some (built.map slotAddr)
  else none

/-- What a fetch finds: descriptors by slot, the parameter block with the table behind it, violations that reading itself shows; or an
error response. -/
structure Fetched where
  tds : Tbl (List Byte)
  params : List Byte
  bad : List (Nat × Nat)
  err : Option MemErr

/-- Read the descriptors of some slots. -/
def readDescs (k : Task) : List (Nat × Option Nat) → Fetched → M Fetched
  | [], f => return f
  | (sl, none) :: r, f => readDescs k r { f with bad := f.bad ++ [levelViolation (sl, 0)] }
  | (sl, some a) :: r, f => do
    match ← readDesc k a with
    | .error e => return { f with err := some e }
    | .ok d => readDescs k r { f with tds := tblSet f.tds sl d }

/-- Read the parameter block and the tables it names. -/
def readParams (k : Task) (f : Fetched) : M Fetched := do
  let size := ((opRow (dOpcode k.desc)).map (·.params)).getD 0
  if size = 0 then return f
  else
    match ← ctxRead k.engine k.handle (dParam k.desc) size with
    | .error e => return { f with err := some e }
    | .ok p => do
      let s ← getS
      let f := { f with params := p }
      if dOpcode k.desc = 0x501 ∧ 4 < leAt p 1 1 + 1 ∧ leAt p 1 1 < 12 then
        let a := signExtend48 (leAt p 8 8)
        if !s.goodBlock k.handle a 64 then return { f with bad := f.bad ++ [(0xFE, 8)] }
        else
          match ← ctxRead k.engine k.handle a 64 with
          | .error e => return { f with err := some e }
          | .ok t =>
            match levelAddrs s k p t with
            | none => return { f with bad := f.bad ++ [(0xFE, 8)] }
            | some as => readDescs k (as.zipIdx.map fun x => (12 + x.2, some x.1)) f
      else if dOpcode k.desc = 0x507 ∧ bitAt (leAt p 3 1) 0 then
        let a := signExtend48 (leAt p 16 8)
        if !s.goodBlock k.handle a 1024 then return { f with bad := f.bad ++ [(0xFE, 16)] }
        else
          match ← ctxRead k.engine k.handle a 1024 with
          | .error e => return { f with err := some e }
          | .ok t => return { f with params := p ++ t }
      else return f

/-- The first consumer slot of a task that its ring's declared count does not cover (R365): slot, record. -/
def State.extraConsumer (s : State) (t : Nat) (k : Task) : Option (Nat × Nat) :=
  (k.rings.filter fun r => r.1 < 8).findSome? fun (sl, key) =>
    let declared := ((tblFind s.hall.bufs (key / 8)).map fun b => b.consumersM1 + 1).getD 1
    let i := (s.ring key).consumers.findIdx fun c => c.1 == t
    if declared ≤ i ∧ i < (s.ring key).consumers.length then some (sl, key / 8) else none

/-- Event 0x8301 for operands whose home field is not the partition that holds their base (R184). -/
def homeEvents (t : Nat) (k : Task) (ts : List Ten) : M (List Work) := do
  let mut ws : List Work := []
  for o in ts do
    let s ← getS
    match s.peekAddr k.handle (tdBase o.td) with
    | none => pure ()
    | some a =>
      let p := (s.place a).part
      if p ≠ tdHome o.td then
        let sl := if o.slot < 12 then o.slot else 0xFE
        ws := ws ++ (← raiseFor t k.engine (partOf k.engine) 0x8301 (taskDetail [(1, sl), (1, tdHome o.td), (1, p)] k sl))
  return ws

/-- DESCRIPTOR_FETCH (R88, R89, R184, R190, R365): the descriptors and the parameter block of the task in an engine's prefetched stall are
read and checked. An invalid set ends it aborted with event 0x3004; a consumer beyond the declared count with 0x3B01; an overlap with
0x3301; an error response is a fault in mid-stream. -/
def descriptorFetch (e : Nat) : M Unit := do
  let s ← getS
  match (s.engine e).next with
  | none => pure ()
  | some t =>
    match s.task t with
    | none => pure ()
    | some k => do
      let f ← readDescs k (← descAddrs k) ⟨[], [], [], none⟩
      let f ← if f.err.isSome then pure f else readParams k f
      match f.err with
      | some x => opFault t x
      | none => do
        let s ← getS
        let k := { k with
          tds := f.tds
          params := f.params }
        let ts := s.operands k
        let own := f.bad ++ setViolations s k (dOpcode k.desc) ts
        match firstViolation (if own.isEmpty then opViolations s k ts else own ++ opViolations s k ts) with
        | some (sl, off) => descriptorInvalid t sl off
        | none =>
          match s.extraConsumer t k, overlapping (dOpcode k.desc) ts with
          | some (sl, rec), _ => do
            settleAll (← raiseFor t 0xB2 4 0x3B01 (taskDetail [(1, rec)] k sl))
            finish t 1
          | none, some (i, o) => do
            settleAll (← raiseFor t k.engine (partOf k.engine) 0x3301 (taskDetail [(1, i), (1, o)] k 0xFF))
            finish t 1
          | none, none => do
            modTask t fun x => { x with
              tds := f.tds
              params := f.params
              fetched := true }
            settleAll (← homeEvents t k ts)

def execDescriptorFetch (engine : Nat) (s : State) : Host.Outcome State Fault Refusal :=
  whenEnabled (fun s => s.serving engine && (match (s.engine engine).next.bind s.task with
      | some k => !k.fetched
      | none => false)) (descriptorFetch engine) s

end Sys2Proof.Machine
end

