-- ==== Sys2Proof/Machine/HallCmds.lean ====
section
/-! DEFINITION. Commands on Hall flags and Hall buffer records (R360–R363, R372). -/

namespace Sys2Proof.Machine

open Sys2Proof

/-- A write to the Hall page by a requester that may make it (R372). -/
def hallWrite (by_ : Requester) (off value : Nat) (m : M Unit) : M Unit := do
  if ← reachReg by_ 4 then
    if by_ = .bcc then m else refuseReg off value 0

/-- HALL_FLAG_ADV (R361). -/
def hallFlagAdv (f : Nat) : M Unit := do
  let ws ← advanceFlag f 0 0x81 6 true
  settleAll ws

def execHallFlagAdv (sender : Requester) (flag : Nat) (s : State) : Host.Outcome State Fault Refusal :=
  whenEnabled (fun _ => flag < 4096) (hallWrite sender Reg.hallFlagAdv 1 (hallFlagAdv flag)) s

/-- HALL_FLAG_THR (R362): a threshold at or below the count of a plain flag crosses at once. -/
def hallFlagThr (f thr : Nat) : M Unit := do
  modFlag f fun x => { x with thr := thr % 2 ^ 32, spent := false }
  let s ← getS
  let x := s.hflag f
  if x.mode = 1 ∧ (x.thr = x.count ∨ seqBefore x.thr x.count) then
    rearmFlag f
    settleAll (← crossFlag f)

def execHallFlagThrWrite (sender : Requester) (flag thr : Nat) (s : State) : Host.Outcome State Fault Refusal :=
  whenEnabled (fun _ => flag < 4096) (hallWrite sender Reg.hallFlagThr thr (hallFlagThr flag thr)) s

/-- Whether a live task names a Hall buffer record, or a Hall flag (R372). -/
def State.recordNamed (s : State) (r : Nat) : Bool :=
  s.tally.tasks.any fun p => p.2.rings.any (fun x => x.2 / 8 == r)
    || (List.range 12).any fun n => ((s.hallSlot p.2.handle p.2.desc n).map fun x => x.1 == r).getD false

def State.flagNamed (s : State) (f : Nat) : Bool :=
  s.tally.tasks.any fun p => ((List.range 8).any fun n => slotKind (dSlot p.2.desc n) == 3 && slotKey (dSlot p.2.desc n) == f)
    || p.2.rings.any fun x => match tblFind s.hall.bufs (x.2 / 8) with
        | some b => f == b.fillFlag + 2 * (x.2 % 8) || f == b.fillFlag + 2 * (x.2 % 8) + 1
        | none => false

/-- Bytes of one copy of a record: the bands of a ring, else the stride. -/
def HallBuf.extent (b : HallBuf) : Nat := max 1 (if b.ring then (b.depthM1 + 1) * b.bandBytes else b.stride)

/-- The byte ranges of the copies of a record. -/
def HallBuf.ranges (b : HallBuf) : List (Nat × Nat) := (List.range (b.copiesM1 + 1)).map fun c => (b.base + c * b.stride, b.extent)

def rangesMeet (a b : Nat × Nat) : Bool := a.1 < b.1 + b.2 && b.1 < a.1 + a.2

/-- The rules of R363 for a record about to become live. -/
def State.recordGood (s : State) (r : Nat) (b : HallBuf) : Bool :=
  let rs := b.ranges
  let others := s.hall.bufs.flatMap fun p => if p.1 = r ∨ p.2.base = 0 then [] else p.2.ranges
  rs.all (fun x => s.inBuffer b.owner x.1 x.2)
  && (List.range rs.length).all (fun i => (List.range i).all fun j => !rangesMeet (rs.getD i (0, 0)) (rs.getD j (0, 0)))
  && rs.all (fun x => !others.any (rangesMeet x))
  && (!b.ring || (b.depthM1 != 0 && b.bandBytes != 0 && (List.range (b.copiesM1 + 1)).all fun c =>
      let f := b.fillFlag + 2 * c
      f + 1 < 4096 && (s.hflag f).mode == 2 && (s.hflag (f + 1)).mode == 3
        && (s.hflag f).owner == b.owner && (s.hflag (f + 1)).owner == b.owner))

def modBuf (r : Nat) (g : HallBuf → HallBuf) : M Unit :=
  update (.hall fun h => { h with bufs := tblSet h.bufs r (g (tblGet h.bufs hallBuf0 r)) })

/-- HALL_BUF_BASE (R363, R372): a nonzero base makes the record live under its other registers; 0 frees it. -/
def hallRecordActivate (r base copiesM1 : Nat) : M Unit := do
  let s ← getS
  let a := signExtend48 (base % 2 ^ 48 / 64 * 64)
  let b : HallBuf := { tblGet s.hall.bufs hallBuf0 r with base := a, copiesM1 := copiesM1 % 8 }
  let value := base % 2 ^ 48 / 64 * 64 + copiesM1 % 8 * 2 ^ 48
  if s.recordNamed r ∨ (a ≠ 0 ∧ !s.recordGood r b) then refuseReg Reg.hallBufBase value 6
  else modBuf r fun _ => b

def execHallRecordActivate (sender : Requester) (record base copiesM1 : Nat) (s : State) : Host.Outcome State Fault Refusal :=
  whenEnabled (fun _ => record < 256) (hallWrite sender Reg.hallBufBase base (hallRecordActivate record base copiesM1)) s

end Sys2Proof.Machine
end

