-- ==== Sys2Proof/Machine/Slots.lean ====
section
/-! DEFINITION. Radio slot graphs (R133, R134, R403). -/

namespace Sys2Proof.Machine

open Sys2Proof

/-- The stamp of the n-th creation of a slot graph: its epoch and n exact slots, rounded up (R403). -/
def slotDue (g : Graph) (mu n : Nat) : Nat := g.epoch + ceilDiv (n * 2 ^ 32) (1000 * 2 ^ mu)

/-- 122.88 MHz samples from a slot boundary to symbol l of the subframe (R376). -/
def airOffset (mu l : Nat) : Nat := symOffset 4096 mu l * (2 - mu)

/-- The first slot boundary at or after a stamp (R377, R403), as millisecond and slot of the subframe. -/
def firstSlot (mu stamp : Nat) : Nat × Nat :=
  let ms := stamp * 1000 / 2 ^ 32
  let all := [ms, ms + 1].flatMap fun m => (List.range (2 ^ mu)).map fun k => (m, k)
  (all.find? fun x => stamp ≤ airStamp (x.1 / 1000) (x.1 % 1000 * 122880 + airOffset mu (14 * x.2))).getD (ms + 2, 0)

/-- SLOT_INSTANCE_CREATE (R133, R134, R403): an instance of a slot graph, with the cadence keys of its air slot's symbols on the delay list. -/
def slotInstanceCreate (g : Nat) : M Unit := do
  let s ← getS
  match tblFind s.tally.graphs g with
  | none => pure ()
  | some gr => do
    let mu := (slotMu gr.period).getD 0
    let due := slotDue gr mu gr.number
    let slot := firstSlot mu due
    let at_ : Nat → Nat := fun l => airStamp (slot.1 / 1000) (slot.1 % 1000 * 122880 + airOffset mu (14 * slot.2 + l))
    let n ← countInstance g
    match ← cadenceEvent g n due (at_ 0) with
    | none => pure ()
    | some id =>
      modTally fun x => { x with delay := x.delay ++ (List.range 14).map fun l => ⟨gr.slotList, at_ l, none, id, l⟩ }

def execSlotInstanceCreate (graph : Nat) (s : State) : Host.Outcome State Fault Refusal :=
  whenEnabled (fun s => match tblFind s.tally.graphs graph with
      | some g => g.cadence == 2 && !g.dereg && decide (slotDue g ((slotMu g.period).getD 0) g.number ≤ s.clock.now)
      | none => false) (slotInstanceCreate graph) s

end Sys2Proof.Machine
end

