-- ==== Sys2Proof/Machine/Time.lean ====
section
/-! DEFINITION. SiteTime: its ticks, service, steps, servo states and PPS (R140–R147, R163, R165). -/

namespace Sys2Proof.Machine

open Sys2Proof

/-- SiteTime advances by one unit corrected by the frequency slew (R145, R163); the always-on mirror follows at its 40 ns
resolution, 172 units (R146). -/
def advance (adj : Int) (c : Clock) : Clock :=
  let total := (c.sub + 2 ^ 40 + adj).toNat
  let now := (c.now + total / 2 ^ 40) % 2 ^ 64
  { c with now := now, sub := total % 2 ^ 40, mirror := now - now % 172 }

/-- One tick of SiteTime. -/
def tick : M Unit := do
  let s ← getS
  update (.clock (advance (signed 32 (s.fld Reg.timeFreqAdj Fld.timeFreqAdjAdj))))

/-- Whether the device is in service (TIME_STATUS.service, R145). -/
def State.service (s : State) : Bool := s.flag Reg.timeStatus Fld.timeStatusService

/-- START_SERVICE (R145): the BCC sets the service bit; nothing but a power-on clears it. -/
def startService (by_ : Requester) : M Unit :=
  if by_ = .bcc then wrFld Reg.timeStatus Fld.timeStatusService 1
  else refuseReg Reg.timeCmd 1 0

def execStartService (sender : Requester) (s : State) : Host.Outcome State Fault Refusal := always (startService sender) s

/-- TIME_STEP (R145): a signed step in units of 2^−32 s; refused with event 0x3003 while service is 1. -/
def timeStep (by_ : Requester) (offset : Word) : M Unit := do
  let s ← getS
  if by_ ≠ .bcc ∨ s.service then refuseReg Reg.timeStep offset.toNat 0
  else update (.clock fun c => { c with now := (c.now + offset.toNat) % 2 ^ 64 })

def execTimeStep (sender : Requester) (offset : Word) (s : State) : Host.Outcome State Fault Refusal :=
  always (timeStep sender offset) s

/-- PPS_IN_EDGE (R143, R163): the edge is seen, and stamped while TIME_CTL.pps_in_en is 1. -/
def ppsInEdge : M Unit := do
  let s ← getS
  update (.clock fun c => { c with ppsSeen := some s.clock.now })
  if s.flag Reg.timeCtl Fld.timeCtlPpsInEn then wrReg Reg.timePpsInStamp (BitVec.ofNat 64 s.clock.now)

def execPpsInEdge (s : State) : Host.Outcome State Fault Refusal := always ppsInEdge s

/-- The instant of the current second at which PPS_OUT rises (R143). -/
def State.ppsAt (s : State) : Nat := s.clock.now / 2 ^ 32 * 2 ^ 32 + s.fld Reg.timePpsOut Fld.timePpsOutPhase

/-- PPS_OUT_RISE (R143): once per second, from the instant the fraction passes the phase. -/
def execPpsOutRise (s : State) : Host.Outcome State Fault Refusal :=
  whenEnabled (fun s => s.flag Reg.timeCtl Fld.timeCtlPpsOutEn && !s.pins.ppsOut && decide (s.ppsAt ≤ s.clock.now)
      && ((s.clock.ppsRose.map fun t => decide (t < s.ppsAt)).getD true))
    (do
      let s ← getS
      update (.pins fun p => { p with ppsOut := true })
      update (.clock fun c => { c with ppsRose := some s.clock.now })) s

/-- PPS_OUT_FALL (R143): 100 µs after it rose. -/
def execPpsOutFall (s : State) : Host.Outcome State Fault Refusal :=
  whenEnabled (fun s => s.pins.ppsOut && ((s.clock.ppsRose.map fun t => decide (t + usUnits 100 ≤ s.clock.now)).getD false))
    (update (.pins fun p => { p with ppsOut := false })) s

/-- SERVO_START (R144): the BCC starts the servo; the unit is acquiring. -/
def execServoStart (s : State) : Host.Outcome State Fault Refusal :=
  always (do
    let s ← getS
    timeState 1
    update (.clock fun c => { c with acquiredAt := s.clock.now })) s

/-- One microsecond in SiteTime units, rounded down (R145). -/
def usFloor : Int := 4294

/-- A time error above 1 µs while service is 1 raises event 0x4201 (R145). -/
def timeError (e : Int) : M Unit := do
  let s ← getS
  if s.service ∧ (usFloor < e ∨ e < -usFloor) then
    raise 0x82 6 0x4201 (det [(8, unsigned 64 e)])

/-- TIME_LOCKED (R144): the servo has reported its offset within its limit for 16 s; the state is locked, with event 0x0201. -/
def timeLocked (offset : Int) : M Unit := do
  update (.clock fun c => { c with servoOffset := offset })
  timeState 2
  timeError offset

def execTimeLocked (offset : Int) (s : State) : Host.Outcome State Fault Refusal :=
  whenEnabled (fun s => s.fld Reg.timeStatus Fld.timeStatusState == 1 && decide (s.clock.acquiredAt + 16 * 2 ^ 32 ≤ s.clock.now))
    (timeLocked offset) s

/-- HOLDOVER (R144): every phase source lost while locked; event 0x0201. -/
def holdover (e : Int) : M Unit := do
  update (.clock fun c => { c with servoOffset := e })
  timeState 3
  timeError e

def execHoldover (error : Int) (s : State) : Host.Outcome State Fault Refusal :=
  whenEnabled (fun s => s.fld Reg.timeStatus Fld.timeStatusState == 2) (holdover error) s

end Sys2Proof.Machine
end

