-- ==== Sys2Proof/Machine/RegRead.lean ====
section
/-! DEFINITION. What a register reads as: stored registers, registers behind select registers, and registers that show the state
of their block (R5, R28, R47 and the register tables). -/

namespace Sys2Proof.Machine

open Sys2Proof

/-- A word made of fields. -/
def ofFields (l : List (Field × Nat)) : Word := l.foldl (fun w p => setBits w p.1.lsb p.1.width p.2) 0#64

/-! ## Registers behind select registers -/

/-- What the select registers name (R372, R456, R513, R514). -/
def State.selFlag (s : State) : Nat := s.fld Reg.hallFlagSel Fld.hallFlagSelFlag
def State.selRec (s : State) : Nat := s.fld Reg.hallBufSel Fld.hallBufSelRec
def State.selCopy (s : State) : Nat := s.fld Reg.hallBufCopy Fld.hallBufCopyCopy
def State.selWindow (s : State) : Nat := s.fld Reg.safeBwSel Fld.safeBwSelWindow
def State.selCairn (s : State) : Nat := s.fld Reg.safeCairnSel Fld.safeCairnSelCairn
def State.selSeal (s : State) : Nat := s.fld Reg.safeSealSel Fld.safeSealSelRec
def State.selDomain (s : State) : Nat := s.fld Reg.pwrDomSel Fld.pwrDomSelDomain
def State.selOprec (s : State) : Nat := s.fld Reg.oprecSel Fld.oprecSelRec
def State.selMonitor (s : State) : Nat := s.fld Reg.monSel Fld.monSelKind * 256 + s.fld Reg.monSel Fld.monSelIndex

/-- The windows of the Hall page (R372). -/
def State.hallWindow (s : State) (off : Nat) : Option Word :=
  let x := s.hflag s.selFlag
  let b := tblGet s.hall.bufs hallBuf0 s.selRec
  if off = Reg.hallFlagCfg then
    some (ofFields [(Fld.hallFlagCfgOwner, x.owner), (Fld.hallFlagCfgMode, x.mode), (Fld.hallFlagCfgPeriod, x.period)])
  else if off = Reg.hallFlagThr then some (ofFields [(Fld.hallFlagThrThr, x.thr)])
  else if off = Reg.hallFlagCount then
    some (ofFields [(Fld.hallFlagCountCount, x.count), (Fld.hallFlagCountHeld, flagBit x.held)])
  else if off = Reg.hallBufBase then
    some (ofFields [(Fld.hallBufBaseBase, b.base % 2 ^ 48 / 64), (Fld.hallBufBaseCopiesM1, b.copiesM1)])
  else if off = Reg.hallBufStride then
    some (ofFields [(Fld.hallBufStrideCopyStride, b.stride / 64), (Fld.hallBufStrideBandBytes, b.bandBytes / 64)])
  else if off = Reg.hallBufRing then
    some (ofFields [(Fld.hallBufRingRing, flagBit b.ring), (Fld.hallBufRingBandRowsM1, b.rowsM1),
      (Fld.hallBufRingDepthM1, b.depthM1), (Fld.hallBufRingBandsM1, b.bandsM1),
      (Fld.hallBufRingBandsKnown, flagBit b.bandsKnown), (Fld.hallBufRingConsumersM1, b.consumersM1),
      (Fld.hallBufRingFillFlag, b.fillFlag)])
  else if off = Reg.hallBufOwner then some (ofFields [(Fld.hallBufOwnerHandle, b.owner)])
  else if off = Reg.hallBufCounts then
    let key := ringKey s.selRec s.selCopy
    some (ofFields [(Fld.hallBufCountsFill, (s.ring key).fill), (Fld.hallBufCountsCredit, (s.ring key).credit)])
  else none

/-- The windows of the SAFE page (R456). -/
def State.safeWindow (s : State) (off : Nat) : Option Word :=
  let b := s.belay s.selWindow
  let c := s.cairn s.selCairn
  let h := tblGet s.hall.bufs hallBuf0 s.selSeal
  if off = Reg.safeBwCfg then some b.cfg
  else if off = Reg.safeBwShadow then some b.shadow
  else if off = Reg.safeBwActive then some b.active
  else if off = Reg.safeBwStatus then
    some (ofFields [(Fld.safeBwStatusArmed, flagBit b.armed), (Fld.safeBwStatusLastCommit, b.last),
      (Fld.safeBwStatusResult, b.result), (Fld.safeBwStatusInstance, b.inst)])
  else if off = Reg.safeCairnCfg then some c.cfg
  else if off = Reg.safeCairnTime then some c.time
  else if off = Reg.safeCairnStatus then
    some (ofFields [(Fld.safeCairnStatusLast, c.last), (Fld.safeCairnStatusSkipped, flagBit c.skipped),
      (Fld.safeCairnStatusRuns, c.runs)])
  else if off = Reg.safeSeal then
    some (ofFields [(Fld.safeSealEnable, flagBit h.sealed), (Fld.safeSealBase, h.sealBase % 2 ^ 48 / 64)])
  else none

/-- The state PWR_DOM shows for a domain (R499, R500, R513): engine-state domains by their engine, BCC-switched ones by `on`,
the others awake. -/
def State.domState (s : State) (d : Nat) : Nat :=
  match taskEngines.find? fun e => gated e && domainOf e == d with
  | some e => (match (s.engine e).power with
      | .cold => 0
      | .warm => 1
      | .waking => 1
      | .awake => 2)
  | none => if bccSwitched d && !s.power.domOn.contains d then 0 else 2

/-- The windows of the PWR and MON pages (R513, R514). -/
def State.powerWindow (s : State) (off : Nat) : Option Word :=
  let r := s.opRec s.selOprec
  if off = Reg.pwrDom then
    some (ofFields [(Fld.pwrDomOn, flagBit (bccSwitched s.selDomain && s.power.domOn.contains s.selDomain)),
      (Fld.pwrDomState, s.domState s.selDomain)])
  else if off = Reg.oprecData then
    some (ofFields [(Fld.oprecDataMv, r.mv), (Fld.oprecDataBand, r.band), (Fld.oprecDataValid, flagBit r.valid),
      (Fld.oprecDataFallback, flagBit r.fallback), (Fld.oprecDataCalTemp, r.calTemp)])
  else if off = Reg.monValue then
    let v := tblGet s.power.mon (0, 0) s.selMonitor
    some (ofFields [(Fld.monValueValue, v.1), (Fld.monValueMax, v.2)])
  else none

/-- The word a register holds, reached directly or through a window. -/
def State.stored (s : State) (off : Nat) : Word :=
  let page := off / 0x1000
  let w : Option Word :=
    if page = 0xCD then s.hallWindow off
    else if page = 0x120 then s.safeWindow off
    else if page = 0x123 ∨ page = 0x125 then s.powerWindow off
    else none
  w.getD (s.reg off)

/-! ## Registers that show the state of their block -/

/-- Power, busy and out-of-service bits of an engine's STATUS register (R226, R322, R347, R371, R406, R457). -/
def State.engineBits (s : State) (e : Nat) : Nat × Nat × Nat :=
  let g := s.engine e
  let power : Nat := match g.power with
    | .cold => 0
    | .warm => 1
    | .waking => 1
    | .awake => 2
  let busy := (e :: channelsOf e).any fun x => (s.engine x).running.isSome || (0x30 ≤ e && e < 0x36 && (s.engine x).next.isSome)
  (power, flagBit busy, flagBit (!s.present e))

/-- LEDGER_STATUS.enabled (R164): the region lies in the populated DDR of its partition. -/
def State.ledgerEnabled (s : State) (p : Nat) : Bool :=
  let base := s.fld (Reg.ledgerBase p) Fld.ledgerBaseBase * 2 ^ 16
  let isHome : Nat → Bool := fun a => match s.place a with
    | .ddr q _ => q == p
    | _ => false
  isHome base && isHome (base + s.ledgerSize p - 1)

/-- Accepted entries homed in a partition without a retire or close record (R164). -/
def State.ledgerOpen (s : State) (p : Nat) : Nat :=
  (s.tally.ledger.filter fun r => r.ty == 1 && r.home == p && s.openEntry r.queue r.seq).length

/-- Registers of the C partitions and of TLY, PART_S and TIME that show the state (R138, R163, R164, R253). -/
def State.shownTally (s : State) (off : Nat) : Option Word :=
  let p := off / 0x1000 - 0xA0
  if off = Reg.tlyStatus then
    some (ofFields [(Fld.tlyStatusStoreFree, s.storeFree), (Fld.tlyStatusBoardFree, s.boardFree),
      (Fld.tlyStatusPinned, (s.tally.queues.filter fun q => q.2.pin).length)])
  else if Reg.tlyDlyStatus 0 ≤ off ∧ off ≤ Reg.tlyDlyStatus 7 then
    some (ofFields [(Fld.tlyDlyStatusUsed, s.delayUsed ((off - Reg.tlyDlyStatus 0) / 8))])
  else if off = Reg.faultHolds then some (ofFields [(Fld.faultHoldsLive, s.tally.holds.length)])
  else if off = Reg.timeNow then some (BitVec.ofNat 64 s.clock.now)
  else if off = Reg.timeStatus then
    let seen := (s.clock.ppsSeen.map fun t => decide (s.clock.now * 10 ≤ t * 10 + 11 * 2 ^ 32)).getD false
    some (setBits (s.reg off) Fld.timeStatusPpsPresent.lsb 1 (flagBit seen))
  else if off = Reg.ledgerUsed p then some (ofFields [(Fld.ledgerUsedKib, ceilDiv (s.ledgerBytes p) 1024)])
  else if off = Reg.ledgerStatus p then
    some (ofFields [(Fld.ledgerStatusEnabled, flagBit (s.ledgerEnabled p)), (Fld.ledgerStatusReplaying, flagBit s.rcv.replayDue),
      (Fld.ledgerStatusOpen, s.ledgerOpen p)])
  else none

/-- STATUS registers of the engines (R226, R303, R322, R347, R371, R406, R457). -/
def State.shownEngine (s : State) (off : Nat) : Option Word :=
  let page := off / 0x1000
  let plain : Nat → Word := fun e =>
    let x := s.engineBits e
    ofFields [(Fld.ftrStatusPower, x.1), (Fld.ftrStatusBusy, x.2.1), (Fld.ftrStatusOos, x.2.2)]
  if off % 0x1000 = 0 ∧ 0xC8 ≤ page ∧ page ≤ 0xCC then some (plain (0x29 + (page - 0xC8)))
  else if off % 0x1000 = 0 ∧ 0xE0 ≤ page ∧ page ≤ 0xE5 then some (plain (0x30 + (page - 0xE0)))
  else if off % 0x1000 = 0 ∧ 0xB0 ≤ page ∧ page ≤ 0xB4 then
    let e := if page = 0xB4 then 0x2E else 0x20 + (page - 0xB0)
    some (setBits (plain e) Fld.chkStatusTest.lsb 1 (flagBit ((s.engine e).testing && s.bist.unit.isSome)))
  else if off % 0x1000 = 0 ∧ 0x80 ≤ page ∧ page < 0xA0 then
    let e := page - 0x80
    let x := s.engineBits e
    some (ofFields [(Fld.ttStatusPower, x.1), (Fld.ttStatusBusy, x.2.1), (Fld.ttStatusSaved, (s.engine e).saved.length),
      (Fld.ttStatusOos, x.2.2), (Fld.ttStatusLastLane, s.fld off Fld.ttStatusLastLane)])
  else if off = Reg.ispStatus then
    let c := s.engine inlineChannel
    some (ofFields [(Fld.ispStatusInlineBusy, flagBit (c.running.isSome || s.cams.ctl.isSome)),
      (Fld.ispStatusBusy, flagBit (s.engine 0x28).running.isSome)])
  else none

/-- SAFE_STATUS and RCV_STATUS (R456, R479). -/
def State.shownSystem (s : State) (off : Nat) : Option Word :=
  if off = Reg.safeStatus then
    some (ofFields [(Fld.safeStatusSafeMask, (List.range 32).foldl (fun n p => if s.pipeState p = 3 then n + 2 ^ p else n) 0),
      (Fld.safeStatusPin, flagBit (!s.pins.safeN))])
  else if off = Reg.rcvStatus then
    some (ofFields [(Fld.rcvStatusState, s.rcvState), (Fld.rcvStatusRung, s.rcvRung),
      (Fld.rcvStatusPriv, min s.privCount 255)])
  else none

/-- Whether a register counts cycles of work or waiting that the model does not time, or requests in flight at the read (R241,
R250, R274); what it reads as is open. -/
def openCounter (off : Nat) : Bool :=
  let page := off / 0x1000
  let lo := off % 0x1000
  ((0x80 ≤ page && page < 0xA0) || (0xB0 ≤ page && page ≤ 0xB4) || page == 0xC0 || (0xC8 ≤ page && page ≤ 0xCC)
      || (0xE0 ≤ page && page ≤ 0xE5)) && 0x40 ≤ lo && lo < 0x80
    || (0x40 ≤ page && page < 0x80 && lo == 0x60)
    || (0xA0 ≤ page && page < 0xA4 && (lo == 0x610 || (0x630 ≤ lo && lo < 0x648)))

/-- A word with its write-only bits read as 0 (R5). -/
def maskWo (r : RegDef) (w : Word) : Word :=
  r.fields.foldl (fun w f => if f.ty = .wo then setBits w f.lsb f.width 0 else w) w

/-- What a defined register reads as; a lock to a recovered clock and the membership of a Crier group are open. -/
def readDefined (off : Nat) (r : RegDef) : M Word := do
  let s ← getS
  if openCounter off then
    let w := (r.fields.map (·.width)).foldl max 0
    let v ← fresh (2 ^ w)
    return BitVec.ofNat 64 v
  else if off = Reg.timeStatus then
    let synce ← fresh 2
    return setBits ((s.shownTally off).getD 0#64) Fld.timeStatusSyncePresent.lsb 1 synce
  else if 0x80 ≤ off / 0x1000 ∧ off / 0x1000 < 0xA0 ∧ off % 0x1000 = 0 then
    let crier ← fresh 2
    return setBits ((s.shownEngine off).getD 0#64) Fld.ttStatusCrier.lsb 1 crier
  else
    let page := off / 0x1000
    let shown : Option Word :=
      if page = 0x10 ∨ page = 0x30 ∨ (0xA0 ≤ page ∧ page ≤ 0xA6) then s.shownTally off
      else if page = 0x120 ∨ page = 0x121 then s.shownSystem off
      else s.shownEngine off
    return maskWo r (shown.getD (s.stored off))

/-- The value of the 64-bit register at an aligned offset (R47): one that is not defined reads 0; a read of PORT_ACK is noted by its
port (R112). -/
def readReg (off : Nat) : M Word := do
  match regAt off with
  | none => return 0#64
  | some r => do
    let w ← readDefined off r
    let port := off / 0x1000 - 0x1E
    if 0x1E ≤ off / 0x1000 ∧ off / 0x1000 < 0x30 ∧ off = Reg.portAck port then
      if getBits w Fld.portAckDone.lsb 1 = 1 then
        modTally fun x => { x with unread := x.unread.filter (· ≠ port) }
    return w

end Sys2Proof.Machine
end

