-- ==== Sys2Proof/Machine/RegWrite.lean ====
section
/-! DEFINITION. Writes of registers, field by field (R5, R7, R28, R47, R95, R96), and memory requests (R26–R43). -/

namespace Sys2Proof.Machine

open Sys2Proof

/-! ## Who may write, and when -/

/-- Whether a requester may write a register (the sentence above its table; R111 for PORT_HANDLE, R274 for DMA_CH_CTX). -/
def mayWrite (by_ : Requester) (r : RegDef) (off : Nat) : Bool :=
  match r.writers with
  | .bccOnly => by_ == .bcc
  | .bccOrMachine => machineMode by_
  | .bccOrPrivCore =>
    privileged by_ && (!(0x40 ≤ off / 0x1000 && off / 0x1000 < 0x80 && off % 0x1000 == 0x28) || by_ == .bcc)
  | .port =>
    let port := off / 0x1000 - 0x1E
    off != Reg.portHandle port || by_ == .bcc || (2 ≤ port && by_ == .core (port - 2) .machine)

/-- Fields whose written value differs from the one they hold. -/
def changed (old w : Word) (fs : List Field) : List Field :=
  fs.filter fun f => getBits old f.lsb f.width != getBits w f.lsb f.width

/-- A rule on a whole write: refused, or taken but for some fields. -/
abbrev Judgement := Option (List Field)

/-- Refuse the whole write when a condition holds. -/
def refusedIf (c : Bool) : Judgement := if c then none else some []

/-- Registers of the C partitions (R164, R227) and FAB_MEMBERS (R431). -/
def State.judgePart (s : State) (off : Nat) (w : Word) : Judgement :=
  let p := off / 0x1000 - 0xA0
  let inDdr : Nat → Option Nat := fun a => match s.place a with
    | .ddr q _ => some q
    | _ => none
  let homed := s.tally.queues.any fun q => q.2.ledger && q.2.home == p
  if off = Reg.ledgerBase p then
    if homed then none
    else if inDdr (getBits w 16 24 * 2 ^ 16) = some p then some [] else some [Fld.ledgerBaseBase]
  else if off = Reg.ledgerSize p then refusedIf homed
  else if off = Reg.save p then refusedIf ((List.range 8).any fun i => !s.tileIdle (8 * p + i))
  else if off = Reg.fabMembers then
    if (inDdr (getBits w 16 24 * 2 ^ 16)).isSome then some [] else some [Fld.fabMembersBase]
  else some []

/-- Chain heads of a DMA channel (R271): 64-byte aligned, and only in the states that take them. -/
def State.judgeDma (s : State) (off : Nat) (w : Word) : Judgement :=
  let n := off / 0x1000 - 0x40
  let head : Judgement := if getBits w 0 6 = 0 then some [] else some [Fld.dmaChActiveHeadHead]
  if off = Reg.dmaChActiveHead n then if s.chanState n = 1 ∨ s.chanState n = 2 then none else head
  else if off = Reg.dmaChShadowHead n then if s.flag (Reg.dmaChStatus n) Fld.dmaChStatusArmed then none else head
  else some []

/-- Registers of a camera context (R280, R293, R304). -/
def State.judgeCam (s : State) (by_ : Requester) (off : Nat) (old w : Word) : Judgement :=
  let c := (off / 0x1000 - 0xC1) * 16 + off % 0x1000 / 0x100
  let bound := by_ != .bcc || s.camOn c
  if off = camReg Reg.camCfg c then
    let bad := if bound then changed old w [Fld.camCfgPort, Fld.camCfgVc, Fld.camCfgDt] else []
    let eff : Field → Nat := fun f => if bad.contains f then fieldOf old f else fieldOf w f
    let clash := eff Fld.camCfgEnable == 1 && (List.range 32).any fun d =>
      d != c && s.camOn d && s.camPort d == eff Fld.camCfgPort && s.camVc d == eff Fld.camCfgVc
    if clash then none else some bad
  else if off = camReg Reg.camOwner c then refusedIf bound
  else if off = camReg Reg.camParamShadow c then refusedIf (s.flag (camReg Reg.camState c) Fld.camStateArmed)
  else some []

/-- Registers of Hall flags and records (R372). -/
def State.judgeHall (s : State) (off : Nat) : Judgement :=
  if off = Reg.hallFlagCfg ∨ off = Reg.hallFlagCount then refusedIf (s.flagNamed s.selFlag)
  else if off = Reg.hallBufStride ∨ off = Reg.hallBufRing ∨ off = Reg.hallBufOwner then refusedIf (s.recordNamed s.selRec)
  else some []

/-- Streams and band of a carrier from its CFG and NCO words (R375, R384), in units of 1,875 Hz. -/
def carrierStreams (cfg : Word) : Nat × Nat :=
  let a := fieldOf cfg Fld.dfeCfgFirstStream
  (a, a + fieldOf cfg Fld.dfeCfgStreamsM1)
def carrierBand (cfg nco : Word) : Int × Int :=
  let c : Int := signed 32 (fieldOf nco Fld.dfeNcoNco) / 16384
  let h : Int := 48 * (fieldOf cfg Fld.dfeCfgPrbM1 + 1) * (fieldOf cfg Fld.dfeCfgScs + 1)
  (c - h, c + h)

/-- Whether two carriers share a stream in overlapping bands (R375). -/
def carriersClash (cfg nco cfg' nco' : Word) : Bool :=
  let on : Field → Bool := fun f => fieldOf cfg f == 1 && fieldOf cfg' f == 1
  let x := carrierStreams cfg
  let y := carrierStreams cfg'
  let a := carrierBand cfg nco
  let b := carrierBand cfg' nco'
  (on Fld.dfeCfgRxEn || on Fld.dfeCfgTxEn) && x.1 ≤ y.2 && y.1 ≤ x.2 && decide (a.1 < b.2) && decide (b.1 < a.2)

/-- Registers of the radio engines (R375, R382, R384, R407, R409). -/
def State.judgeRadio (s : State) (off : Nat) (w : Word) : Judgement :=
  let c := (off - Reg.dfeCfg 0) / 0x20
  let p := (off - Reg.fheAddr 0) / 0x40
  if off / 0x1000 = 0xE1 ∧ Reg.dfeCfg 0 ≤ off ∧ c < 12 then
    let held := [0x200 + c, 0x210 + c].any fun e => (s.engine e).running.isSome || (s.engine e).next.isSome
    let cfg := if off = Reg.dfeCfg c then w else s.reg (Reg.dfeCfg c)
    let nco := if off = Reg.dfeNco c then w else s.reg (Reg.dfeNco c)
    let clash := (List.range 12).any fun d => d != c && carriersClash cfg nco (s.reg (Reg.dfeCfg d)) (s.reg (Reg.dfeNco d))
    let prb := min 272 (max 10 (fieldOf w Fld.dfeCfgPrbM1)) + 1
    if off = Reg.dfeCfg c then refusedIf (held || clash || 2 ^ fieldOf w Fld.dfeCfgNfftLog2 ≤ 12 * prb)
    else if off = Reg.dfeNco c then
      if held ∨ clash then none
      else if fieldOf w Fld.dfeNcoNco % 16384 = 0 then some [] else some [Fld.dfeNcoNco]
    else if off = Reg.dfeLat c then refusedIf held
    else some []
  else if off = Reg.jesdSysref then
    let div := fieldOf w Fld.jesdSysrefDiv
    if div = 0 ∨ s.lemcRate 0 % div ≠ 0 then some [Fld.jesdSysrefDiv] else some []
  else if off / 0x1000 = 0xE5 ∧ Reg.fheAddr 0 ≤ off ∧ p < 16
      ∧ [Reg.fheWinTxCp p, Reg.fheWinTxUp p, Reg.fheWinRxCp p, Reg.fheWinRxUp p].contains off then
    refusedIf (signed 32 (getBits w 32 32) < signed 32 (getBits w 0 32))
  else some []

/-- SDS_CFG (R430): a quad's mode changes only while none of its ports is enabled. -/
def State.judgeSds (s : State) (old w : Word) : Judgement :=
  let on : Nat → Bool := fun q => (List.range 4).any fun i => s.flag (Reg.ethCtl (4 * q + i)) Fld.ethCtlEnable
  some (changed old w ((if on 0 then [Fld.sdsCfgQuad0Mode] else []) ++ (if on 1 then [Fld.sdsCfgQuad1Mode] else [])))

/-- Registers of the SAFE block (R451, R456). -/
def State.judgeSafe (s : State) (off : Nat) (old w : Word) : Judgement :=
  let p := (off - Reg.safePipeCfg 0) / 0x40
  let b := s.belay s.selWindow
  if off = Reg.safeBwCfg then
    some (if fieldOf old Fld.safeBwCfgEnable = 1 then
      changed old w [Fld.safeBwCfgMode, Fld.safeBwCfgPipe, Fld.safeBwCfgTmpl, Fld.safeBwCfgTask] else [])
  else if off = Reg.safeBwShadow then
    refusedIf (b.armed || signed 32 (getBits w 32 32) < signed 32 (getBits w 0 32))
  else if off = Reg.safeCairnCfg then
    some (if fieldOf old Fld.safeCairnCfgEnable = 1 then
      changed old w [Fld.safeCairnCfgTmpl, Fld.safeCairnCfgPipeMask] else [])
  else if Reg.safePipeCfg 0 ≤ off ∧ p < 32 ∧ off = Reg.safePipeCfg p then
    some (if s.pipeOn p then changed old w [Fld.safePipeCfgTmpl, Fld.safePipeCfgHandle, Fld.safePipeCfgSafePin] else [])
  else if Reg.safePipeCfg 0 ≤ off ∧ p < 32 ∧ off = Reg.safePipeGate p then
    some (if s.pipeOn p then changed old w [Fld.safePipeGateOutQueue] else [])
  else some []

/-- OPREC_DATA (R513): only for a partition held in reset or already using the default. -/
def State.judgePower (s : State) (off : Nat) : Judgement :=
  let n := s.selOprec
  let r := s.opRec n
  if off = Reg.oprecData then refusedIf (!(r.fallback || !r.valid || (n < 7 && s.heldInReset n))) else some []

/-- The rules on a whole write that a register's chapter adds. -/
def State.judgeWrite (s : State) (by_ : Requester) (off : Nat) (old w : Word) : Judgement :=
  let page := off / 0x1000
  if 0x40 ≤ page ∧ page < 0x80 then s.judgeDma off w
  else if (0xA0 ≤ page ∧ page < 0xA4) ∨ page = 0xA6 then s.judgePart off w
  else if page = 0xC1 ∨ page = 0xC2 then s.judgeCam by_ off old w
  else if page = 0xCD then s.judgeHall off
  else if 0xE0 ≤ page ∧ page < 0xF0 then s.judgeRadio off w
  else if page = 0x108 then s.judgeSds old w
  else if page = 0x120 then s.judgeSafe off old w
  else if page = 0x123 then s.judgePower off
  else some []

/-- The range of an RWK field, where it depends on the state (R138, R513). -/
def State.fieldRange (s : State) (off : Nat) (lo hi : Int) : Int × Int :=
  if Reg.tlyDlyCfg 0 ≤ off ∧ off ≤ Reg.tlyDlyCfg 7 then
    let i := (off - Reg.tlyDlyCfg 0) / 8
    let others := (List.range 8).foldl (fun n j => if j = i then n else n + s.delaySize j) 0
    (s.delayUsed i, 65536 - others)
  else if off = Reg.oprecData ∧ s.selOprec = 7 then (600, 900)
  else (lo, hi)

/-! ## Judging a write field by field (R96) -/

/-- What became of a field: its new value, and whether the write was clamped or refused, with the value written. -/
inductive FieldFate where
  | kept
  | stored (v : Nat)
  | clamped (v written : Nat)
  | refused
  deriving DecidableEq, Repr

/-- The judgement of one field (R5, R7, R95). -/
def State.judgeField (s : State) (off : Nat) (old w : Word) (bad : List Field) (f : Field) : FieldFate :=
  let v := getBits w f.lsb f.width
  let coded := f.enc.isEmpty || f.enc.any fun r => r.1 ≤ v && v ≤ r.2
  match f.ty with
  | .ro => .kept
  | .wo => if coded then .kept else .refused
  | .w1c => .stored (getBits (old &&& ~~~w) f.lsb f.width)
  | .rw => if bad.contains f || !coded then .refused else .stored v
  | .rwk lo hi =>
    let (l, h) := s.fieldRange off lo hi
    let x : Int := if lo < 0 then signed f.width v else v
    let y : Int := max l (min h x)
    if y = x then .stored v else .clamped (unsigned f.width y) v

/-- The fate of each field of a write, in ascending order of their lowest bits. -/
def State.fates (s : State) (off : Nat) (old w : Word) (bad : List Field) (r : RegDef) : List (Field × FieldFate) :=
  r.fields.map fun f => (f, s.judgeField off old w bad f)

/-- The word a write leaves: fields stored or clamped take their values, all other bits keep theirs. -/
def judgedWord (old : Word) (fates : List (Field × FieldFate)) : Word :=
  fates.foldl (fun x p => match p.2 with
    | .stored v => setBits x p.1.lsb p.1.width v
    | .clamped v _ => setBits x p.1.lsb p.1.width v
    | _ => x) old

/-- The events of a judged write, one for each field clamped or refused (R96). -/
def judgedEvents (off : Nat) (w : Word) (fates : List (Field × FieldFate)) : M Unit := do
  for (f, x) in fates do
    match x with
    | .clamped v written => clampReg off written v f.lsb f.width
    | .refused => refuseReg off w.toNat f.lsb
    | _ => pure ()

/-- The register value that results from an access (R28): a 32-bit write leaves RW and RWK bits of the other half as they are, and takes
all its other bits as 0. -/
def mergeHalf (r : RegDef) (old : Word) (wide : Bool) (high : Bool) (v : Word) : Word :=
  if wide then v
  else
    let keep := r.fields.foldl (fun m f => match f.ty with
      | .rw => setBits m f.lsb f.width (2 ^ f.width - 1)
      | .rwk _ _ => setBits m f.lsb f.width (2 ^ f.width - 1)
      | _ => m) 0#64
    if high then setBits (old &&& keep) 32 32 (v.toNat % 2 ^ 32) else setBits (old &&& keep) 0 32 (v.toNat % 2 ^ 32)

/-! ## Storing a judged word -/

/-- Store what a Hall window holds (R372). -/
def storeHall (off : Nat) (w : Word) : M Unit := do
  let s ← getS
  if off = Reg.hallFlagCfg then
    modFlag s.selFlag fun x => { x with
      owner := fieldOf w Fld.hallFlagCfgOwner
      mode := fieldOf w Fld.hallFlagCfgMode
      period := fieldOf w Fld.hallFlagCfgPeriod }
  else if off = Reg.hallFlagCount then modFlag s.selFlag fun x => { x with count := fieldOf w Fld.hallFlagCountCount }
  else if off = Reg.hallBufStride then
    modBuf s.selRec fun b => { b with
      stride := fieldOf w Fld.hallBufStrideCopyStride * 64
      bandBytes := fieldOf w Fld.hallBufStrideBandBytes * 64 }
  else if off = Reg.hallBufRing then
    modBuf s.selRec fun b => { b with
      ring := fieldOf w Fld.hallBufRingRing == 1
      rowsM1 := fieldOf w Fld.hallBufRingBandRowsM1
      depthM1 := fieldOf w Fld.hallBufRingDepthM1
      bandsM1 := fieldOf w Fld.hallBufRingBandsM1
      bandsKnown := fieldOf w Fld.hallBufRingBandsKnown == 1
      consumersM1 := fieldOf w Fld.hallBufRingConsumersM1
      fillFlag := fieldOf w Fld.hallBufRingFillFlag }
  else if off = Reg.hallBufOwner then modBuf s.selRec fun b => { b with owner := fieldOf w Fld.hallBufOwnerHandle }
  else wrReg off w

/-- Store what a window of the SAFE page holds (R456). -/
def storeSafe (off : Nat) (w : Word) : M Unit := do
  let s ← getS
  if off = Reg.safeBwCfg then modBelay s.selWindow fun b => { b with cfg := w }
  else if off = Reg.safeBwShadow then modBelay s.selWindow fun b => { b with shadow := w }
  else if off = Reg.safeCairnCfg then modCairn s.selCairn fun c => { c with cfg := w }
  else if off = Reg.safeCairnTime then modCairn s.selCairn fun c => { c with time := w }
  else wrReg off w

/-- Store what a window of the PWR or MON page holds (R512–R514): a record calibrated in a band at least as high as the sample that
brought the fallback ends it. -/
def storePower (off : Nat) (w : Word) : M Unit := do
  let s ← getS
  if off = Reg.oprecData then
    let n := s.selOprec
    let r := s.opRec n
    let band := fieldOf w Fld.oprecDataBand
    let still := r.fallback && band < r.needs
    let new : OpRec := ⟨fieldOf w Fld.oprecDataMv, band, fieldOf w Fld.oprecDataValid == 1, still,
      fieldOf w Fld.oprecDataCalTemp, if still then r.needs else 0⟩
    modPower fun p => { p with records := tblSet p.records n new }
    setAvs
  else if off = Reg.monValue then
    modPower fun p => { p with mon := match tblFind p.mon s.selMonitor with
      | some (v, _) => tblSet p.mon s.selMonitor (v, fieldOf w Fld.monValueMax)
      | none => p.mon }
  else wrReg off w

/-- Store a judged word where its register is held. -/
def storeWord (off : Nat) (w : Word) : M Unit :=
  let page := off / 0x1000
  if page = 0xCD then storeHall off w
  else if page = 0x120 then storeSafe off w
  else if page = 0x123 ∨ page = 0x125 then storePower off w
  else if off = Reg.pwrKeep 1 then wrReg off (setBits w 22 42 0)
  else wrReg off w

/-! ## What follows from a stored word -/

/-- An enable bit that went from 0 to 1, or from 1 to 0. -/
def rose (old new : Word) : Bool := getBits old 0 1 == 0 && getBits new 0 1 == 1
def fell (old new : Word) : Bool := getBits old 0 1 == 1 && getBits new 0 1 == 0

/-- A camera context is enabled or disabled (R281, R304): its first frame after that is number 0; an open frame closes. -/
def camSwitched (c : Nat) (on : Bool) : M Unit := do
  let s ← getS
  let st := camReg Reg.camState c
  if on then
    wrFld st Fld.camStateFrame (2 ^ 32 - 1)
    modCam c fun x => { x with frames := [] }
  else closeFrame c s.clock.now true false false

/-- Write an enable register of the SAFE block whose enabling is judged by its own operation: a refused write leaves the old word. -/
def enabling (off : Nat) (old new : Word) (act : M Unit) (done : State → Bool) : M Unit := do
  storeWord off (setBits new 0 1 0)
  act
  let s ← getS
  if !done s then storeWord off old

/-- A pipeline is disabled (R456): off, and SAFE_N follows. -/
def pipelineOff (p : Nat) : M Unit := do
  wrFld (Reg.safePipeStatus p) Fld.safePipeStatusState 0
  drivePins

/-- A cairn is disabled: pipelines no longer wait for it. -/
def cairnOff (c : Nat) : M Unit := do
  for p in List.range 32 do
    modPipe p fun x => { x with due := x.due.filter (· ≠ c), safeDue := x.safeDue.filter (· ≠ c) }
    settlePipe p

/-- Store a judged word, and what follows from it: links and frames end with their enable bits, pins and setpoints follow, enabling
checks of the SAFE block are made (R199, R279, R380, R425, R444, R448, R450, R452, R510). -/
def settleWrite (off : Nat) (old new : Word) : M Unit := do
  let s ← getS
  let page := off / 0x1000
  if page = 0x120 then
    let p := (off - Reg.safePipeCfg 0) / 0x40
    if off = Reg.safeBwCfg ∧ rose old new then
      let w := s.selWindow
      enabling off old new (belayEnable w) fun s => fieldOf (s.belay w).cfg Fld.safeBwCfgEnable == 1
    else if off = Reg.safeCairnCfg ∧ rose old new then
      let c := s.selCairn
      enabling off old new (cairnEnable c) fun s => fieldOf (s.cairn c).cfg Fld.safeCairnCfgEnable == 1
    else if Reg.safePipeCfg 0 ≤ off ∧ p < 32 ∧ off = Reg.safePipeCfg p ∧ rose old new then
      enabling off old new (pipelineEnable p) fun s => s.pipeOn p
    else do
      storeWord off new
      if off = Reg.safeCairnCfg ∧ fell old new then cairnOff s.selCairn
      if Reg.safePipeCfg 0 ≤ off ∧ p < 32 ∧ off = Reg.safePipeCfg p ∧ fell old new then pipelineOff p
      if off = Reg.safeCtl then drivePins
  else do
    storeWord off new
    if 0x80 ≤ page ∧ page < 0xA0 ∧ off % 0x1000 = 8 then
      let n := page - 0x80
      let v := getBits new Fld.ttTmemStagingBanks.lsb Fld.ttTmemStagingBanks.width
      wrFld off Fld.ttTmemPending (flagBit ((s.engine n).staging != v))
      applyStaging
    if 0xD0 ≤ page ∧ page < 0xD8 ∧ off % 0x1000 = 0 then
      let n := page - 0xD0
      if rose old new then wrFld (Reg.csiStatus n) Fld.csiStatusLink 1
      if fell old new then
        if s.fld (Reg.csiStatus n) Fld.csiStatusLink = 2 then linkDown n 0
        else wrFld (Reg.csiStatus n) Fld.csiStatusLink 0
    if (page = 0xC1 ∨ page = 0xC2) ∧ off % 0x100 = 0 then
      let c := (page - 0xC1) * 16 + off % 0x1000 / 0x100
      if rose old new then camSwitched c true
      if fell old new then camSwitched c false
    if 0xE8 ≤ page ∧ page < 0xF0 ∧ off % 0x1000 = 0 then
      let l := page - 0xE8
      if rose old new then wrFld (Reg.jesdStatus l) Fld.jesdStatusState 1
      if fell old new then
        if s.linkState l = 2 then linkLost l 0
        wrFld (Reg.jesdStatus l) Fld.jesdStatusState 0
    if 0x100 ≤ page ∧ page < 0x108 ∧ off % 0x1000 = 0 ∧ fell old new then
      if s.flag (Reg.ethStatus (page - 0x100)) Fld.ethStatusLink then ethLinkDown (page - 0x100)
    if off = Reg.pwrOpdef then setAvs

/-! ## Registers whose write is a command -/

/-- RCV_CMD (R464, R479): reserved rungs, engines that are none, and reserved partition codes are refused. -/
def rcvCommand (w : Word) : M Unit := do
  let s ← getS
  let now := s.clock.now
  let rung := fieldOf w Fld.rcvCmdRung
  let e := fieldOf w Fld.rcvCmdEngine
  let p := fieldOf w Fld.rcvCmdPartition
  let bad : Nat → M Unit := fun lsb => refuseReg Reg.rcvCmd w.toNat lsb
  if rung = 1 then
    if kindOf e < 15 then trigger (.ctxEngine e (fieldOf w Fld.rcvCmdHandle)) 0 now 0 false else bad 8
  else if rung = 2 then if rung2Target e then trigger (.engine e) 0 now 0 false else bad 8
  else if rung = 3 then if p < 6 then trigger (partScope p) 0 now 0 false else bad 16
  else if rung = 4 then chipReset 0
  else if rung = 5 then requestPowerCycle 3 0 now 0 true
  else bad 0

/-- PORT_CMD (R112): the operation it names. -/
def portCommand (i : Nat) (w : Word) : M Unit :=
  let t := fieldOf w Fld.portCmdTarget
  let op := fieldOf w Fld.portCmdOp
  let m : M Unit :=
    if op = 0 then enqueueOp i t (fieldOf w Fld.portCmdType)
    else if op = 1 then dequeueOp i t
    else if op = 2 then createQueueOp i
    else if op = 3 then destroyQueueOp i t
    else if op = 4 then grantOp i t
    else if op = 5 then revokeOp i t
    else if op = 6 then registerGraphOp i
    else deregisterGraphOp i
  portOp i (w.toNat % 2 ^ 27) m

/-- CTL of a DMA channel (R268–R271): start, arm and disarm in that order; abort wins over stop. -/
def dmaCommand (n : Nat) (w : Word) : M Unit := do
  if fieldOf w Fld.dmaChCtlStart = 1 then dmaStart n
  if fieldOf w Fld.dmaChCtlArm = 1 then dmaArm n
  if fieldOf w Fld.dmaChCtlDisarm = 1 then dmaDisarm n
  if fieldOf w Fld.dmaChCtlAbort = 1 then dmaAbort n
  else if fieldOf w Fld.dmaChCtlStop = 1 then dmaStop n

/-- ISP_CTL (R303): held while a frame of the old or the new in-line context is open. -/
def ispControl (w : Word) : M Unit := do
  let s ← getS
  let v := setBits w 6 58 0
  if s.ispCtlWaits v then update (.cams fun x => { x with ctl := some v })
  else do
    wrReg Reg.ispCtl v
    update (.cams fun x => { x with ctl := none })

/-- SAFE_SEAL (R438, R456). -/
def sealWrite (w : Word) : M Unit := do
  let s ← getS
  let base := fieldOf w Fld.safeSealBase * 64
  if fieldOf w Fld.safeSealEnable = 1 then sealEnable s.selSeal base
  else modBuf s.selSeal fun b => { b with sealed := false, sealBase := signExtend48 base }

/-- The pages from 0x000 to 0x0BF whose registers start an action: SEC, ports, TIME, DMA, the partitions. -/
def lowAction (by_ : Requester) (off : Nat) (w : Word) : Option (M Unit) :=
  let page := off / 0x1000
  if off = Reg.secExtend then some (measurementExtend by_ (fieldOf w Fld.secExtendLayer) (fieldOf w Fld.secExtendAddr * 64))
  else if off = Reg.secAttReq then some (attestationRequest by_ (fieldOf w Fld.secAttReqAddr * 64))
  else if off = Reg.secUpd then some (firmwareUpdate by_ (fieldOf w Fld.secUpdAddr * 64))
  else if off = Reg.secRts then some (returnToService by_ (fieldOf w Fld.secRtsAddr * 64))
  else if off = Reg.secSvnCommit then some (do
    if fieldOf w Fld.secSvnCommitBcc = 1 then svnCommit by_ 1 0
    if fieldOf w Fld.secSvnCommitApp = 1 then svnCommit by_ 2 1)
  else if 0x1E ≤ page ∧ page < 0x30 then
    if off = Reg.portCmd (page - 0x1E) then some (portCommand (page - 0x1E) w)
    else if off % 0x1000 < 0x30 then some (wrReg off w)
    else none
  else if off = Reg.timeStep then some (timeStep by_ w)
  else if off = Reg.timeCmd then some (if getBits w 0 1 = 1 then startService by_ else pure ())
  else if 0x40 ≤ page ∧ page < 0x80 ∧ off % 0x1000 = 0 then some (dmaCommand (page - 0x40) w)
  else if 0xA0 ≤ page ∧ page < 0xA4 ∧ off % 0x1000 = 0x600 then some (streamShareWrite by_ (page - 0xA0) w)
  else if off = Reg.mmuInval then
    some (mmuInval by_ (fieldOf w Fld.mmuInvalHandle) (fieldOf w Fld.mmuInvalAll == 1))
  else if off = Reg.faultResume then
    some (faultResume by_ (fieldOf w Fld.faultResumeHold) (fieldOf w Fld.faultResumeHandle) (fieldOf w Fld.faultResumeAbandon == 1))
  else if page = 0xA6 ∧ Reg.fabJobCmd 0 ≤ off ∧ off ≤ Reg.fabJobCmd 15 ∧ (off - Reg.fabJobCmd 0) % 0x18 = 0 then
    some (fabJobCmd by_ ((off - Reg.fabJobCmd 0) / 0x18) (fieldOf w Fld.fabJobCmdCmd) (fieldOf w Fld.fabJobCmdStep))
  else none

/-- The other pages whose registers start an action: cameras, Hall, Ethernet, SAFE, RCV, BIST, PWR. -/
def highAction (s : State) (by_ : Requester) (off : Nat) (w : Word) : Option (M Unit) :=
  let page := off / 0x1000
  let c := (page - 0xC1) * 16 + off % 0x1000 / 0x100
  let p := (off - Reg.safePipeCfg 0) / 0x40
  if off = Reg.ispCtl then some (ispControl w)
  else if (page = 0xC1 ∨ page = 0xC2) ∧ off = camReg Reg.camCmd c then some (do
    if fieldOf w Fld.camCmdArm = 1 then camArm c
    if fieldOf w Fld.camCmdDisarm = 1 then camDisarm c)
  else if (page = 0xC1 ∨ page = 0xC2) ∧ off = camReg Reg.camExpreq c then
    some (exposureRequest c (fieldOf w Fld.camExpreqBlock * 64))
  else if off = Reg.hallFlagThr then some (hallFlagThr s.selFlag (fieldOf w Fld.hallFlagThrThr))
  else if off = Reg.hallFlagAdv then some (if getBits w 0 1 = 1 then hallFlagAdv s.selFlag else pure ())
  else if off = Reg.hallBufBase then
    some (hallRecordActivate s.selRec (fieldOf w Fld.hallBufBaseBase * 64) (fieldOf w Fld.hallBufBaseCopiesM1))
  else if 0xD0 ≤ page ∧ page < 0xD8 ∧ off % 0x1000 = 0x28 then
    some (busListStart by_ (page - 0xD0) (fieldOf w Fld.csiBusListAddr * 64))
  else if 0x100 ≤ page ∧ page < 0x108 ∧ off % 0x1000 = 0x20 then
    some (rxReturn by_ (page - 0x100) (fieldOf w Fld.ethRxbufRetIndex))
  else if off = Reg.safeBwCmd then some (do
    if fieldOf w Fld.safeBwCmdArm = 1 then belayArm s.selWindow
    if fieldOf w Fld.safeBwCmdDisarm = 1 then modBelay s.selWindow fun x => { x with armed := false })
  else if off = Reg.safeSeal then some (sealWrite w)
  else if page = 0x120 ∧ Reg.safePipeCfg 0 ≤ off ∧ p < 32 ∧ off = Reg.safePipeCmd p then some (do
    if fieldOf w Fld.safePipeCmdClear = 1 then safeClear p
    if fieldOf w Fld.safePipeCmdEnter = 1 then safeEnter p)
  else if off = Reg.rcvCmd then some (rcvCommand w)
  else if off = Reg.bistCmd then some (do
    if 11 ≤ fieldOf w Fld.bistCmdUnit then refuseReg off w.toNat 0
    else if fieldOf w Fld.bistCmdStart = 1 then bistStart by_ (fieldOf w Fld.bistCmdUnit)
    if fieldOf w Fld.bistCmdAbort = 1 then bistAbort by_)
  else if off = Reg.bistBypass then some (bistBypassWrite by_ (fieldOf w Fld.bistBypassEngines))
  else if off = Reg.pwrDom then some (domainSwitch by_ s.selDomain (getBits w 0 1 == 1))
  else none

/-- The action a register's write starts, if it is such a register. -/
def regAction (s : State) (by_ : Requester) (off : Nat) (w : Word) : Option (M Unit) :=
  if off < 0xC0000 then lowAction by_ off w else highAction s by_ off w

/-! ## A write as a whole -/

/-- Write a defined register: the writer is checked, then the register acts, or its fields are judged and stored (R28, R95, R96). -/
def writeDefined (by_ : Requester) (off : Nat) (r : RegDef) (wide high : Bool) (v : Word) : M Unit := do
  let s ← getS
  let old := s.stored off
  let w := mergeHalf r old wide high v
  if !mayWrite by_ r off then refuseReg off w.toNat 0
  else
    match regAction s by_ off w with
    | some m => m
    | none =>
      match s.judgeWrite by_ off old w with
      | none => refuseReg off w.toNat 0
      | some bad => do
        let fates := s.fates off old w bad r
        judgedEvents off w fates
        settleWrite off old (judgedWord old fates)
        if off = Reg.rcvWdt ∧ fieldOf w Fld.rcvWdtKick = 1 then wdtKick by_

/-- Whether a register access is aligned as R28 asks, and reaches an allocated page (R27, R47). -/
def regReachable (wide : Bool) (offset : Nat) : Bool :=
  offset % (if wide then 8 else 4) == 0 && offset < 0x400000 && pageAllocated (offset / 0x1000)

/-- A register write at a byte offset of register space (R27, R28, R47): a misaligned one, one to an unallocated page, or one by an
engine is a decode error; pages of a fenced partition answer under R21; an offset without a register ignores it. -/
def writeRegister (by_ : Requester) (wide : Bool) (offset : Nat) (v : Word) : M Unit := do
  let engine : Bool := match by_ with
    | .engine _ => true
    | _ => false
  if engine ∨ !regReachable wide offset then do
    decodeError (senderId by_) (regSpace + offset) true
    answer false []
  else
    let part := (pageOwner (offset / 0x1000)).2
    if ← reachReg by_ part then
      answer true []
      let off := offset / 8 * 8
      match regAt off with
      | none => pure ()
      | some r => writeDefined by_ off r wide (offset % 8 == 4) v

def execRegisterWrite (sender : Requester) (wide : Bool) (offset : Nat) (value : Word) (s : State) :
    Host.Outcome State Fault Refusal :=
  always (writeRegister sender wide offset value) s

/-! ## Memory requests (R26–R43) -/

/-- A register read of 4 or 8 bytes. -/
def readRegister (by_ : Requester) (wide : Bool) (offset : Nat) : M Unit := do
  let engine : Bool := match by_ with
    | .engine _ => true
    | _ => false
  if engine ∨ !regReachable wide offset then do
    decodeError (senderId by_) (regSpace + offset) false
    answer false []
  else if ← reachReg by_ (pageOwner (offset / 0x1000)).2 then
    let w ← readReg (offset / 8 * 8)
    let half := if wide then w.toNat else if offset % 8 = 4 then w.toNat / 2 ^ 32 else w.toNat % 2 ^ 32
    answer true (leBytes (if wide then 8 else 4) half)

/-- Errors that struck the first ECC word a request reaches, since it was last written (R33, R37): 1 a correctable, 2 an
uncorrectable one. -/
def upsetWord (pa upset : Nat) : M Unit := do
  let s ← getS
  let w := pa / s.eccSize pa * s.eccSize pa
  let known := s.sys.badWords.contains w
  match s.place pa with
  | .hole => pure ()
  | .regs _ => pure ()
  | .rom _ => pure ()
  | .pcie => pure ()
  | _ =>
    if upset = 1 ∧ !known then update (.sys fun m => { m with weakWords := (m.weakWords ++ [w]).dedup })
    if upset = 2 then
      update (.sys fun m => { m with
        badWords := (m.badWords ++ [w]).dedup
        weakWords := m.weakWords.filter (· ≠ w) })

/-- A request at a physical address: register space answers register accesses, the rest of the map is memory. -/
def physRequest (by_ : Requester) (isWrite : Bool) (pa n : Nat) (data : List Byte) (upset : Nat) : M Unit := do
  let s ← getS
  let who := senderId by_
  match s.place pa with
  | .regs off =>
    if n ≠ 4 ∧ n ≠ 8 then do
      decodeError who pa isWrite
      answer false []
    else if isWrite then writeRegister by_ (n == 8) off (BitVec.ofNat 64 (leNat data))
    else readRegister by_ (n == 8) off
  | _ => do
    upsetWord pa upset
    if isWrite then
      match ← physWrite who pa data with
      | none => answer true []
      | some _ => answer false []
    else
      match ← physRead who pa n with
      | .ok bs => answer true bs
      | .error _ => answer false []
    if upset = 2 then presenceChanged

/-- MEMORY_REQUEST (R26–R28, R33, R37–R43, R461): by physical address, or translated under a context handle. -/
def memoryRequest (by_ : Requester) (handle : Option Nat) (isWrite : Bool) (addr n : Nat) (data : List Byte) (upset : Nat) :
    M Unit := do
  match handle with
  | none => physRequest by_ isWrite addr n data upset
  | some h =>
    match ← translate (senderId by_) h addr isWrite with
    | .error _ => answer false []
    | .ok pa => physRequest by_ isWrite pa n data upset

/-- Whether a request has a form that a requester makes (R28): within one 64-byte unit; a core's or the BCC's of a naturally aligned size
up to 64 bytes; any register access. -/
def requestForm (s : State) (by_ : Requester) (isWrite : Bool) (addr n : Nat) (data : List Byte) : Bool :=
  let inRegs := match s.place addr with
    | .regs _ => true
    | _ => false
  let natural := [1, 2, 4, 8, 16, 32, 64].contains n && addr % n == 0
  let unit := addr % 64 + n ≤ 64
  let sized : Bool := match by_ with
    | .bcc => natural
    | .core _ _ => natural
    | .host => unit
    | .engine _ => unit && (isWrite || n == 64)
  1 ≤ n && n ≤ 64 && (inRegs || sized) && (!isWrite || data.length == n)

def execMemoryRequest (sender : Requester) (handle : Option Nat) (isWrite : Bool) (addr len : Nat) (data : List Byte) (upset : Nat)
    (s : State) : Host.Outcome State Fault Refusal :=
  whenEnabled (fun s => requestForm s sender isWrite addr len data) (memoryRequest sender handle isWrite addr len data upset) s

end Sys2Proof.Machine
end

