-- ==== Sys2Proof/Machine/Dispatch.lean ====
section
/-! DEFINITION. The dispatch of commands to their meanings, one arm per constructor. -/

namespace Sys2Proof.Machine

open Sys2Proof

def exec (i : Instr) (s : State) : Host.Outcome State Fault Refusal :=
  match i with
  | .registerWrite sender wide offset value => Sys2Proof.Machine.execRegisterWrite sender wide offset value s
  | .memoryRequest sender handle isWrite addr len data upset => Sys2Proof.Machine.execMemoryRequest sender handle isWrite addr len data upset s
  | .patrolScrub channel weak bad => Sys2Proof.Machine.execPatrolScrub channel weak bad s
  | .driftTracking channel rank => Sys2Proof.Machine.execDriftTracking channel rank s
  | .refresh channel rank hot => Sys2Proof.Machine.execRefresh channel rank hot s
  | .training part => Sys2Proof.Machine.execTraining part s
  | .mmuInval sender handle all => Sys2Proof.Machine.execMmuInval sender handle all s
  | .mmuInvalDone => Sys2Proof.Machine.execMmuInvalDone s
  | .createContext id physical root ceiling safety quota eventQueue => Sys2Proof.Machine.execCreateContext id physical root ceiling safety quota eventQueue s
  | .teardownContext handle reportAt => Sys2Proof.Machine.execTeardownContext handle reportAt s
  | .teardownComplete handle => Sys2Proof.Machine.execTeardownComplete handle s
  | .fabDrainDeclared handle => Sys2Proof.Machine.execFabDrainDeclared handle s
  | .lateResponseDiscard handle => Sys2Proof.Machine.execLateResponseDiscard handle s
  | .registerBuffer handle base length => Sys2Proof.Machine.execRegisterBuffer handle base length s
  | .deregisterBuffer handle base => Sys2Proof.Machine.execDeregisterBuffer handle base s
  | .deregistrationComplete handle base => Sys2Proof.Machine.execDeregistrationComplete handle base s
  | .portAckRead port => Sys2Proof.Machine.execPortAckRead port s
  | .enqueue port target ty => Sys2Proof.Machine.execEnqueue port target ty s
  | .taskSubmission port target => Sys2Proof.Machine.execTaskSubmission port target s
  | .ledgerAcceptance port target ty => Sys2Proof.Machine.execLedgerAcceptance port target ty s
  | .dequeue port target => Sys2Proof.Machine.execDequeue port target s
  | .createQueue port => Sys2Proof.Machine.execCreateQueue port s
  | .destroyQueue port target => Sys2Proof.Machine.execDestroyQueue port target s
  | .grant port target => Sys2Proof.Machine.execGrant port target s
  | .revoke port target => Sys2Proof.Machine.execRevoke port target s
  | .registerGraph port => Sys2Proof.Machine.execRegisterGraph port s
  | .deregisterGraph port => Sys2Proof.Machine.execDeregisterGraph port s
  | .graphDeregistrationDone graph => Sys2Proof.Machine.execGraphDeregistrationDone graph s
  | .tokenArrival handle key failed => Sys2Proof.Machine.execTokenArrival handle key failed s
  | .dispatch engine => Sys2Proof.Machine.execDispatch engine s
  | .descriptorFetch engine => Sys2Proof.Machine.execDescriptorFetch engine s
  | .taskStart engine => Sys2Proof.Machine.execTaskStart engine s
  | .blockStepEnd engine mismatch => Sys2Proof.Machine.execBlockStepEnd engine mismatch s
  | .abftRecomputeDone engine ok => Sys2Proof.Machine.execAbftRecomputeDone engine ok s
  | .preemptSave engine => Sys2Proof.Machine.execPreemptSave engine s
  | .taskEnd engine cycles => Sys2Proof.Machine.execTaskEnd engine cycles s
  | .commit task => Sys2Proof.Machine.execCommit task s
  | .heldEffectRelease queue seq => Sys2Proof.Machine.execHeldEffectRelease queue seq s
  | .queueAppend task => Sys2Proof.Machine.execQueueAppend task s
  | .budgetExpiry engine => Sys2Proof.Machine.execBudgetExpiry engine s
  | .midstreamFault task reason => Sys2Proof.Machine.execMidstreamFault task reason s
  | .faultResume sender hold handle => Sys2Proof.Machine.execFaultResume sender hold handle s
  | .faultResumeAbandon sender hold handle => Sys2Proof.Machine.execFaultResumeAbandon sender hold handle s
  | .holdLimitExpiry hold => Sys2Proof.Machine.execHoldLimitExpiry hold s
  | .progressWatchdog cycle => Sys2Proof.Machine.execProgressWatchdog cycle s
  | .bandFilled task record => Sys2Proof.Machine.execBandFilled task record s
  | .bandReleased task record => Sys2Proof.Machine.execBandReleased task record s
  | .delayFire index => Sys2Proof.Machine.execDelayFire index s
  | .slotInstanceCreate graph => Sys2Proof.Machine.execSlotInstanceCreate graph s
  | .nop task => Sys2Proof.Machine.execNop task s
  | .delay task => Sys2Proof.Machine.execDelay task s
  | .instantiate task => Sys2Proof.Machine.execInstantiate task s
  | .post task => Sys2Proof.Machine.execPost task s
  | .copy engine => Sys2Proof.Machine.execCopy engine s
  | .fill engine => Sys2Proof.Machine.execFill engine s
  | .gather engine => Sys2Proof.Machine.execGather engine s
  | .scatter engine => Sys2Proof.Machine.execScatter engine s
  | .matmul engine => Sys2Proof.Machine.execMatmul engine s
  | .conv2d engine => Sys2Proof.Machine.execConv2d engine s
  | .dwconv2d engine => Sys2Proof.Machine.execDwconv2d engine s
  | .tconv2d engine => Sys2Proof.Machine.execTconv2d engine s
  | .eltwise engine => Sys2Proof.Machine.execEltwise engine s
  | .unary engine => Sys2Proof.Machine.execUnary engine s
  | .quantize engine => Sys2Proof.Machine.execQuantize engine s
  | .dequantize engine => Sys2Proof.Machine.execDequantize engine s
  | .cmatmul engine => Sys2Proof.Machine.execCmatmul engine s
  | .reduce engine => Sys2Proof.Machine.execReduce engine s
  | .softmax engine => Sys2Proof.Machine.execSoftmax engine s
  | .layernorm engine => Sys2Proof.Machine.execLayernorm engine s
  | .rmsnorm engine => Sys2Proof.Machine.execRmsnorm engine s
  | .argmax engine => Sys2Proof.Machine.execArgmax engine s
  | .topk engine => Sys2Proof.Machine.execTopk engine s
  | .attention engine => Sys2Proof.Machine.execAttention engine s
  | .routeGather engine => Sys2Proof.Machine.execRouteGather engine s
  | .routeCombine engine => Sys2Proof.Machine.execRouteCombine engine s
  | .ispFrame engine => Sys2Proof.Machine.execIspFrame engine s
  | .pyrBuild engine => Sys2Proof.Machine.execPyrBuild engine s
  | .pyrLaplace engine => Sys2Proof.Machine.execPyrLaplace engine s
  | .warpMesh engine => Sys2Proof.Machine.execWarpMesh engine s
  | .warpHomog engine => Sys2Proof.Machine.execWarpHomog engine s
  | .flow engine => Sys2Proof.Machine.execFlow engine s
  | .stereo engine => Sys2Proof.Machine.execStereo engine s
  | .featDetect engine => Sys2Proof.Machine.execFeatDetect engine s
  | .featMatch engine => Sys2Proof.Machine.execFeatMatch engine s
  | .dfeDdc engine => Sys2Proof.Machine.execDfeDdc engine s
  | .dfeDuc engine => Sys2Proof.Machine.execDfeDuc engine s
  | .fft engine => Sys2Proof.Machine.execFft engine s
  | .ifft engine => Sys2Proof.Machine.execIfft engine s
  | .prachDetect engine => Sys2Proof.Machine.execPrachDetect engine s
  | .ldpcDecode engine => Sys2Proof.Machine.execLdpcDecode engine s
  | .ldpcEncode engine => Sys2Proof.Machine.execLdpcEncode engine s
  | .polarEncode engine => Sys2Proof.Machine.execPolarEncode engine s
  | .polarDecode engine => Sys2Proof.Machine.execPolarDecode engine s
  | .fhTx engine => Sys2Proof.Machine.execFhTx engine s
  | .fhRx engine => Sys2Proof.Machine.execFhRx engine s
  | .crc32c engine => Sys2Proof.Machine.execCrc32c engine s
  | .compare engine => Sys2Proof.Machine.execCompare engine s
  | .cairnCheck engine => Sys2Proof.Machine.execCairnCheck engine s
  | .sendShard engine => Sys2Proof.Machine.execSendShard engine s
  | .recvShard engine => Sys2Proof.Machine.execRecvShard engine s
  | .allReduce engine => Sys2Proof.Machine.execAllReduce engine s
  | .allGather engine => Sys2Proof.Machine.execAllGather engine s
  | .packetReceive port vc dt payload header crcOk => Sys2Proof.Machine.execPacketReceive port vc dt payload header crcOk s
  | .deskew port passed => Sys2Proof.Machine.execDeskew port passed s
  | .csiLinkLoss port => Sys2Proof.Machine.execCsiLinkLoss port s
  | .frameStart cam csiFrame => Sys2Proof.Machine.execFrameStart cam csiFrame s
  | .frameEnd cam csiFrame => Sys2Proof.Machine.execFrameEnd cam csiFrame s
  | .frameTimeout cam => Sys2Proof.Machine.execFrameTimeout cam s
  | .camArm sender cam => Sys2Proof.Machine.execCamArm sender cam s
  | .camDisarm sender cam => Sys2Proof.Machine.execCamDisarm sender cam s
  | .exposureRequest sender cam block => Sys2Proof.Machine.execExposureRequest sender cam block s
  | .busListStart sender port addr => Sys2Proof.Machine.execBusListStart sender port addr s
  | .busTransferComplete port data => Sys2Proof.Machine.execBusTransferComplete port data s
  | .busTransferFail port => Sys2Proof.Machine.execBusTransferFail port s
  | .ispCtlApply => Sys2Proof.Machine.execIspCtlApply s
  | .hallFlagAdv sender flag => Sys2Proof.Machine.execHallFlagAdv sender flag s
  | .hallFlagThrWrite sender flag thr => Sys2Proof.Machine.execHallFlagThrWrite sender flag thr s
  | .hallRecordActivate sender record base copiesM1 => Sys2Proof.Machine.execHallRecordActivate sender record base copiesM1 s
  | .dmaStart sender ch => Sys2Proof.Machine.execDmaStart sender ch s
  | .dmaArm sender ch => Sys2Proof.Machine.execDmaArm sender ch s
  | .dmaDisarm sender ch => Sys2Proof.Machine.execDmaDisarm sender ch s
  | .dmaStop sender ch => Sys2Proof.Machine.execDmaStop sender ch s
  | .dmaAbort sender ch => Sys2Proof.Machine.execDmaAbort sender ch s
  | .crateFetchDone ch => Sys2Proof.Machine.execCrateFetchDone ch s
  | .descriptorComplete ch => Sys2Proof.Machine.execDescriptorComplete ch s
  | .writebackAck ch => Sys2Proof.Machine.execWritebackAck ch s
  | .dmaTransferError ch => Sys2Proof.Machine.execDmaTransferError ch s
  | .fetchTimeout ch => Sys2Proof.Machine.execFetchTimeout ch s
  | .descriptorTimeout ch => Sys2Proof.Machine.execDescriptorTimeout ch s
  | .dmaDrainComplete ch => Sys2Proof.Machine.execDmaDrainComplete ch s
  | .streamShareWrite sender part value => Sys2Proof.Machine.execStreamShareWrite sender part value s
  | .fenceDrainEnd domain => Sys2Proof.Machine.execFenceDrainEnd domain s
  | .fenceDrainDeclaration domain => Sys2Proof.Machine.execFenceDrainDeclaration domain s
  | .rung1Reset engine handle => Sys2Proof.Machine.execRung1Reset engine handle s
  | .rung2Reset engine => Sys2Proof.Machine.execRung2Reset engine s
  | .rung3Reset part => Sys2Proof.Machine.execRung3Reset part s
  | .chipReset cause => Sys2Proof.Machine.execChipReset cause s
  | .powerCycleRequest reason => Sys2Proof.Machine.execPowerCycleRequest reason s
  | .rungLimitExpiry reset => Sys2Proof.Machine.execRungLimitExpiry reset s
  | .resetComplete reset => Sys2Proof.Machine.execResetComplete reset s
  | .replayChip => Sys2Proof.Machine.execReplayChip s
  | .engineHangWatchdog engine => Sys2Proof.Machine.execEngineHangWatchdog engine s
  | .wdtKick sender => Sys2Proof.Machine.execWdtKick sender s
  | .bccWatchdogExpiry => Sys2Proof.Machine.execBccWatchdogExpiry s
  | .heartbeatLoss block => Sys2Proof.Machine.execHeartbeatLoss block s
  | .resetIn => Sys2Proof.Machine.execResetIn s
  | .resetInRelease => Sys2Proof.Machine.execResetInRelease s
  | .smbusBlockReadA0 => Sys2Proof.Machine.execSmbusBlockReadA0 s
  | .returnToService sender addr => Sys2Proof.Machine.execReturnToService sender addr s
  | .startService sender => Sys2Proof.Machine.execStartService sender s
  | .timeStep sender offset => Sys2Proof.Machine.execTimeStep sender offset s
  | .ppsInEdge => Sys2Proof.Machine.execPpsInEdge s
  | .ppsOutRise => Sys2Proof.Machine.execPpsOutRise s
  | .ppsOutFall => Sys2Proof.Machine.execPpsOutFall s
  | .timeLocked offset => Sys2Proof.Machine.execTimeLocked offset s
  | .holdover error => Sys2Proof.Machine.execHoldover error s
  | .gateDecision pipe inst => Sys2Proof.Machine.execGateDecision pipe inst s
  | .gateDeadline pipe inst => Sys2Proof.Machine.execGateDeadline pipe inst s
  | .checkerCompare pipe task crc => Sys2Proof.Machine.execCheckerCompare pipe task crc s
  | .safeClear sender pipe => Sys2Proof.Machine.execSafeClear sender pipe s
  | .safeEnter sender pipe => Sys2Proof.Machine.execSafeEnter sender pipe s
  | .pipelineEnable sender pipe => Sys2Proof.Machine.execPipelineEnable sender pipe s
  | .sealEnable sender record base => Sys2Proof.Machine.execSealEnable sender record base s
  | .belayEnable sender window => Sys2Proof.Machine.execBelayEnable sender window s
  | .belayArm sender window => Sys2Proof.Machine.execBelayArm sender window s
  | .belayDisarm sender window => Sys2Proof.Machine.execBelayDisarm sender window s
  | .belayWindowDecision window => Sys2Proof.Machine.execBelayWindowDecision window s
  | .cairnEnable sender cairn => Sys2Proof.Machine.execCairnEnable sender cairn s
  | .cairnDue cairn => Sys2Proof.Machine.execCairnDue cairn s
  | .cairnWindowExpiry cairn => Sys2Proof.Machine.execCairnWindowExpiry cairn s
  | .bistStart sender unit => Sys2Proof.Machine.execBistStart sender unit s
  | .bistAbort sender => Sys2Proof.Machine.execBistAbort sender s
  | .bistDrainLimit => Sys2Proof.Machine.execBistDrainLimit s
  | .lbistComplete misrPort misrBody broken worst => Sys2Proof.Machine.execLbistComplete misrPort misrBody broken worst s
  | .mbistComplete failing => Sys2Proof.Machine.execMbistComplete failing s
  | .rotationDue => Sys2Proof.Machine.execRotationDue s
  | .bistRetry => Sys2Proof.Machine.execBistRetry s
  | .bistBypassWrite sender engines => Sys2Proof.Machine.execBistBypassWrite sender engines s
  | .railInvalid rail => Sys2Proof.Machine.execRailInvalid rail s
  | .railValid rail => Sys2Proof.Machine.execRailValid rail s
  | .powerOn => Sys2Proof.Machine.execPowerOn s
  | .bccResetRelease => Sys2Proof.Machine.execBccResetRelease s
  | .refAoLoss => Sys2Proof.Machine.execRefAoLoss s
  | .warmStandbyEntry engine => Sys2Proof.Machine.execWarmStandbyEntry engine s
  | .coldEntry engine => Sys2Proof.Machine.execColdEntry engine s
  | .pllStop domain => Sys2Proof.Machine.execPllStop domain s
  | .wakeComplete engine => Sys2Proof.Machine.execWakeComplete engine s
  | .domainSwitch sender domain on => Sys2Proof.Machine.execDomainSwitch sender domain on s
  | .pllUnlock domain => Sys2Proof.Machine.execPllUnlock domain s
  | .pllRelockTimeout domain => Sys2Proof.Machine.execPllRelockTimeout domain s
  | .powerEvaluation mw => Sys2Proof.Machine.execPowerEvaluation mw s
  | .monitorSample kind index value => Sys2Proof.Machine.execMonitorSample kind index value s
  | .droopDetect part => Sys2Proof.Machine.execDroopDetect part s
  | .boot port body macros ring => Sys2Proof.Machine.execBoot port body macros ring s
  | .measurementExtend sender layer addr => Sys2Proof.Machine.execMeasurementExtend sender layer addr s
  | .attestationRequest sender addr => Sys2Proof.Machine.execAttestationRequest sender addr s
  | .attestationReportDone => Sys2Proof.Machine.execAttestationReportDone s
  | .firmwareUpdate sender addr => Sys2Proof.Machine.execFirmwareUpdate sender addr s
  | .updateWriteDone ok => Sys2Proof.Machine.execUpdateWriteDone ok s
  | .quiescentTick => Sys2Proof.Machine.execQuiescentTick s
  | .updateWaitTimeout => Sys2Proof.Machine.execUpdateWaitTimeout s
  | .updateCommit => Sys2Proof.Machine.execUpdateCommit s
  | .updateRevert => Sys2Proof.Machine.execUpdateRevert s
  | .svnCommitBcc sender => Sys2Proof.Machine.execSvnCommitBcc sender s
  | .svnCommitApp sender => Sys2Proof.Machine.execSvnCommitApp sender s
  | .idcode => Sys2Proof.Machine.execIdcode s
  | .tapBypass => Sys2Proof.Machine.execTapBypass s
  | .debugChallenge => Sys2Proof.Machine.execDebugChallenge s
  | .debugResponse data => Sys2Proof.Machine.execDebugResponse data s
  | .extest pins => Sys2Proof.Machine.execExtest pins s
  | .extestExit => Sys2Proof.Machine.execExtestExit s
  | .ethFrameReceive port frame => Sys2Proof.Machine.execEthFrameReceive port frame s
  | .ethFrameTransmit port => Sys2Proof.Machine.execEthFrameTransmit port s
  | .rxBufferReturn sender port index => Sys2Proof.Machine.execRxBufferReturn sender port index s
  | .ethLinkUp port => Sys2Proof.Machine.execEthLinkUp port s
  | .ethLinkDown port => Sys2Proof.Machine.execEthLinkDown port s
  | .lldpSend port => Sys2Proof.Machine.execLldpSend port s
  | .lldpTtlExpiry port => Sys2Proof.Machine.execLldpTtlExpiry port s
  | .rdmaWriteReceive qp psn form rkey addr len data ce => Sys2Proof.Machine.execRdmaWriteReceive qp psn form rkey addr len data ce s
  | .rdmaReadReceive qp psn rkey addr len => Sys2Proof.Machine.execRdmaReadReceive qp psn rkey addr len s
  | .roceSendReceive qp psn form message ce => Sys2Proof.Machine.execRoceSendReceive qp psn form message ce s
  | .roceAckReceive qp psn nak => Sys2Proof.Machine.execRoceAckReceive qp psn nak s
  | .cnpReceive qp => Sys2Proof.Machine.execCnpReceive qp s
  | .ackTimeout qp => Sys2Proof.Machine.execAckTimeout qp s
  | .rateWindowEnd qp => Sys2Proof.Machine.execRateWindowEnd qp s
  | .resetNotice job rank => Sys2Proof.Machine.execResetNotice job rank s
  | .transferDiscard index => Sys2Proof.Machine.execTransferDiscard index s
  | .jobAbort sender job step => Sys2Proof.Machine.execJobAbort sender job step s
  | .jobResume sender job => Sys2Proof.Machine.execJobResume sender job s
  | .pcieLinkUp speed width => Sys2Proof.Machine.execPcieLinkUp speed width s
  | .pcieLinkDown => Sys2Proof.Machine.execPcieLinkDown s
  | .msiReceive addr data => Sys2Proof.Machine.execMsiReceive addr data s
  | .sysrefEdge => Sys2Proof.Machine.execSysrefEdge s
  | .jesdLinkError link sync => Sys2Proof.Machine.execJesdLinkError link sync s
  | .symbolBoundary carrier samples => Sys2Proof.Machine.execSymbolBoundary carrier samples s
  | .symbolLaunch carrier => Sys2Proof.Machine.execSymbolLaunch carrier s
  | .fhWindowOpen peer => Sys2Proof.Machine.execFhWindowOpen peer s
  | .fhWindowClose peer => Sys2Proof.Machine.execFhWindowClose peer s
  | .pllRelocked domain => Sys2Proof.Machine.execPllRelocked domain s
  | .servoStart => Sys2Proof.Machine.execServoStart s
  | .droopStretchEnd part => Sys2Proof.Machine.execDroopStretchEnd part s
  | .updateVerificationDone => Sys2Proof.Machine.execUpdateVerificationDone s
  | .ledgerCopyRewritten queue => Sys2Proof.Machine.execLedgerCopyRewritten queue s
  | .rdmaReadResponse qp psn data => Sys2Proof.Machine.execRdmaReadResponse qp psn data s

end Sys2Proof.Machine
end

