-- ==== Sys2Proof/Safety.lean ====
section
/-! DEFINITION. What counts as a safe state, a frame and a run of the block, in the terms the claims use. -/

namespace Sys2Proof.Machine

open Sys2Proof

/-! ## Canonical form -/

/-- The canonical form of the register table: offsets strictly rising, no entry at its register's reset value. -/
def Registers.wf (rs : Tbl Word) : Bool := tblSorted rs && rs.all fun e => e.2 != regReset e.1

/-- The state's lists are in canonical form, so that equal contents are equal data. -/
def State.Canonical (s : State) : Prop := Memory.wf s.mem = true ∧ Registers.wf s.regs = true

/-! ## Frames -/

/-- The components of the state beside the queue of commands. -/
inductive Part where
  /-- The bytes of memory. -/
  | mem
  /-- The registers. -/
  | regs
  /-- The answer given to a command. -/
  | out
  /-- The count of open values drawn. -/
  | free
  /-- SiteTime beside its registers. -/
  | clock
  /-- The memory system beside its bytes. -/
  | sys
  /-- Tally's tables. -/
  | tally
  /-- The engines. -/
  | engines
  /-- The dma channels. -/
  | dma
  /-- The recovery unit. -/
  | rcv
  /-- The hall flags and records. -/
  | hall
  /-- What the block has sent on its wires. -/
  | sent
  /-- The output pins. -/
  | pins
  /-- The fabric engine. -/
  | fabric
  /-- The power manager. -/
  | power
  /-- Flash and emmc. -/
  | store
  /-- The security block. -/
  | sec
  /-- The self-test. -/
  | bist
  /-- The safe block. -/
  | safe
  /-- The camera path. -/
  | cams
  /-- The radio. -/
  | radio
  /-- The ethernet ports. -/
  | eth
  deriving DecidableEq, Repr

/-- A component is the same in two states. -/
def Part.same : Part → State → State → Prop
  | .mem, s, t => t.mem = s.mem
  | .regs, s, t => t.regs = s.regs
  | .out, s, t => t.out = s.out
  | .free, s, t => t.free = s.free
  | .clock, s, t => t.clock = s.clock
  | .sys, s, t => t.sys = s.sys
  | .tally, s, t => t.tally = s.tally
  | .engines, s, t => t.engines = s.engines
  | .dma, s, t => t.dma = s.dma
  | .rcv, s, t => t.rcv = s.rcv
  | .hall, s, t => t.hall = s.hall
  | .sent, s, t => t.sent = s.sent
  | .pins, s, t => t.pins = s.pins
  | .fabric, s, t => t.fabric = s.fabric
  | .power, s, t => t.power = s.power
  | .store, s, t => t.store = s.store
  | .sec, s, t => t.sec = s.sec
  | .bist, s, t => t.bist = s.bist
  | .safe, s, t => t.safe = s.safe
  | .cams, s, t => t.cams = s.cams
  | .radio, s, t => t.radio = s.radio
  | .eth, s, t => t.eth = s.eth

/-- Two states agree in everything but the named components; the queue of commands is the same. -/
def State.SameBut (ps : List Part) (s t : State) : Prop := t.pending = s.pending ∧ ∀ p, p ∉ ps → p.same s t

/-- What raising events changes (R98, R136): memory, the system cache, and queue 0 of Tally. -/
structure Quiet (s t : State) : Prop where
  /-- Memory, the system cache and the queues apart, the states agree. -/
  rest : t = { s with
    mem := t.mem
    sys := { s.sys with cache := t.sys.cache }
    tally := { s.tally with queues := t.tally.queues } }
  /-- Queue 0 apart, the queues agree. -/
  queues : ∀ q, q ≠ 0 → t.queue q = s.queue q

/-! ## What each command may change -/

/-- Components that several commands may change together. -/
def partsOfA : List Part := [.mem, .regs, .free, .sys, .tally, .engines, .rcv, .hall, .sent, .pins, .fabric, .safe]

/-- Components that several commands may change together. -/
def partsOfB : List Part := [.mem, .regs, .out, .free, .sys, .tally, .engines, .rcv, .hall, .sent, .pins, .fabric, .safe]

/-- Components that several commands may change together. -/
def partsOfC : List Part := [.mem, .regs, .free, .sys, .tally, .engines, .dma, .rcv, .hall, .sent, .pins, .fabric, .safe, .cams]

/-- Components that several commands may change together. -/
def partsOfD : List Part := [.mem, .regs, .free, .sys, .tally, .engines, .rcv, .hall, .sent, .pins, .fabric, .safe, .radio]

/-- Components that several commands may change together. -/
def partsOfE : List Part := [.mem, .regs, .free, .sys, .tally, .engines, .rcv, .hall, .sent, .pins, .fabric, .safe, .cams]

/-- Components that several commands may change together. -/
def partsOfF : List Part := [.mem, .regs, .sys, .tally, .pins, .safe]

/-- Components that several commands may change together. -/
def partsOfG : List Part := [.mem, .regs, .free, .sys, .tally, .engines, .dma, .rcv, .hall, .sent, .pins, .fabric, .safe]

/-- Components that several commands may change together. -/
def partsOfH : List Part := [.mem, .regs, .free, .sys, .tally, .engines, .rcv, .hall, .sent, .pins, .fabric, .bist, .safe]

/-- Components that several commands may change together. -/
def partsOfI : List Part := [.mem, .regs, .out, .sys, .tally]

/-- Components that several commands may change together. -/
def partsOfJ : List Part := [.mem, .regs, .out, .sys, .tally, .dma, .rcv]

/-- Components that several commands may change together. -/
def partsOfK : List Part := [.mem, .regs, .clock, .sys, .tally, .radio]

/-- Components that several commands may change together. -/
def partsOfL : List Part := [.mem, .regs, .free, .sys, .tally, .engines, .rcv, .sec]

end Sys2Proof.Machine

namespace Sys2Proof

open Machine

/-- The components a command may change; every other component is as before. -/
def Instr.parts : Instr → List Part
  | .registerWrite _ _ _ _ => [.mem, .regs, .out, .free, .clock, .sys, .tally, .engines, .dma, .rcv, .hall, .sent, .pins, .fabric, .power, .store, .sec, .bist, .safe, .cams, .radio, .eth]
  | .memoryRequest _ _ _ _ _ _ _ => [.mem, .regs, .out, .free, .clock, .sys, .tally, .engines, .dma, .rcv, .hall, .sent, .pins, .fabric, .power, .store, .sec, .bist, .safe, .cams, .radio, .eth]
  | .patrolScrub _ _ _ => [.mem, .regs, .sys, .tally, .engines]
  | .driftTracking _ _ => [.sys]
  | .refresh _ _ _ => [.sys]
  | .training _ => [.regs, .sys]
  | .mmuInval _ _ _ => [.mem, .regs, .sys, .tally]
  | .mmuInvalDone => [.regs, .sys]
  | .createContext _ _ _ _ _ _ _ => [.out, .tally]
  | .teardownContext _ _ => [.mem, .regs, .out, .free, .sys, .tally, .engines, .dma, .rcv, .hall, .sent, .pins, .fabric, .safe, .cams]
  | .teardownComplete _ => [.mem, .regs, .sys, .tally, .engines, .rcv]
  | .fabDrainDeclared _ => [.fabric]
  | .lateResponseDiscard _ => [.regs]
  | .registerBuffer _ _ _ => [.out, .tally]
  | .deregisterBuffer _ _ => [.out, .tally]
  | .deregistrationComplete _ _ => [.tally]
  | .portAckRead _ => [.out, .tally]
  | .enqueue _ _ _ => partsOfB
  | .taskSubmission _ _ => partsOfB
  | .ledgerAcceptance _ _ _ => partsOfB
  | .dequeue _ _ => partsOfB
  | .createQueue _ => [.mem, .regs, .out, .free, .sys, .tally, .engines, .rcv, .sent, .fabric]
  | .destroyQueue _ _ => partsOfB
  | .grant _ _ => partsOfI
  | .revoke _ _ => partsOfI
  | .registerGraph _ => partsOfB
  | .deregisterGraph _ => partsOfI
  | .graphDeregistrationDone _ => [.tally]
  | .tokenArrival _ _ _ => partsOfA
  | .dispatch _ => [.tally, .engines]
  | .descriptorFetch _ => partsOfA
  | .taskStart _ => [.tally, .engines]
  | .blockStepEnd _ _ => [.regs, .tally, .engines]
  | .abftRecomputeDone _ _ => partsOfC
  | .preemptSave _ => [.mem, .regs, .free, .tally, .engines]
  | .taskEnd _ _ => partsOfA
  | .commit _ => partsOfA
  | .heldEffectRelease _ _ => partsOfA
  | .queueAppend _ => partsOfA
  | .budgetExpiry _ => partsOfC
  | .midstreamFault _ _ => partsOfA
  | .faultResume _ _ _ => partsOfA
  | .faultResumeAbandon _ _ _ => partsOfA
  | .holdLimitExpiry _ => partsOfA
  | .progressWatchdog _ => partsOfA
  | .bandFilled _ _ => partsOfA
  | .bandReleased _ _ => partsOfA
  | .delayFire _ => partsOfA
  | .slotInstanceCreate _ => partsOfA
  | .nop _ => partsOfA
  | .delay _ => partsOfA
  | .instantiate _ => partsOfA
  | .post _ => partsOfA
  | .copy _ => partsOfA
  | .fill _ => partsOfA
  | .gather _ => partsOfA
  | .scatter _ => partsOfA
  | .matmul _ => partsOfA
  | .conv2d _ => partsOfA
  | .dwconv2d _ => partsOfA
  | .tconv2d _ => partsOfA
  | .eltwise _ => partsOfA
  | .unary _ => partsOfA
  | .quantize _ => partsOfA
  | .dequantize _ => partsOfA
  | .cmatmul _ => partsOfA
  | .reduce _ => partsOfA
  | .softmax _ => partsOfA
  | .layernorm _ => partsOfA
  | .rmsnorm _ => partsOfA
  | .argmax _ => partsOfA
  | .topk _ => partsOfA
  | .attention _ => partsOfA
  | .routeGather _ => partsOfA
  | .routeCombine _ => partsOfA
  | .ispFrame _ => partsOfA
  | .pyrBuild _ => partsOfA
  | .pyrLaplace _ => partsOfA
  | .warpMesh _ => partsOfA
  | .warpHomog _ => partsOfA
  | .flow _ => partsOfA
  | .stereo _ => partsOfA
  | .featDetect _ => partsOfA
  | .featMatch _ => partsOfA
  | .dfeDdc _ => partsOfD
  | .dfeDuc _ => partsOfD
  | .fft _ => partsOfA
  | .ifft _ => partsOfA
  | .prachDetect _ => partsOfA
  | .ldpcDecode _ => partsOfA
  | .ldpcEncode _ => partsOfA
  | .polarEncode _ => partsOfA
  | .polarDecode _ => partsOfA
  | .fhTx _ => partsOfD
  | .fhRx _ => partsOfD
  | .crc32c _ => partsOfA
  | .compare _ => partsOfA
  | .cairnCheck _ => partsOfA
  | .sendShard _ => partsOfA
  | .recvShard _ => partsOfA
  | .allReduce _ => partsOfA
  | .allGather _ => partsOfA
  | .packetReceive _ _ _ _ _ _ => [.mem, .regs, .free, .sys, .tally, .engines, .rcv, .cams]
  | .deskew _ _ => partsOfE
  | .csiLinkLoss _ => partsOfE
  | .frameStart _ _ => partsOfE
  | .frameEnd _ _ => partsOfE
  | .frameTimeout _ => partsOfE
  | .camArm _ _ => [.mem, .regs, .out, .sys, .tally, .rcv, .cams]
  | .camDisarm _ _ => [.mem, .regs, .out, .sys, .tally, .rcv, .cams]
  | .exposureRequest _ _ _ => [.mem, .regs, .out, .free, .sys, .tally, .engines, .rcv, .cams]
  | .busListStart _ _ _ => [.mem, .regs, .out, .free, .sys, .tally, .engines, .rcv, .cams]
  | .busTransferComplete _ _ => [.mem, .regs, .sys, .tally, .engines, .rcv, .sent, .cams]
  | .busTransferFail _ => [.mem, .regs, .sys, .tally, .cams]
  | .ispCtlApply => [.regs, .cams]
  | .hallFlagAdv _ _ => partsOfB
  | .hallFlagThrWrite _ _ _ => partsOfB
  | .hallRecordActivate _ _ _ _ => [.mem, .out, .sys, .tally, .rcv, .hall]
  | .dmaStart _ _ => partsOfJ
  | .dmaArm _ _ => partsOfJ
  | .dmaDisarm _ _ => [.mem, .regs, .out, .sys, .tally, .rcv]
  | .dmaStop _ _ => partsOfJ
  | .dmaAbort _ _ => [.mem, .regs, .out, .free, .sys, .tally, .engines, .dma, .rcv, .hall, .sent, .pins, .fabric, .safe]
  | .crateFetchDone _ => [.mem, .regs, .free, .sys, .tally, .engines, .dma, .rcv]
  | .descriptorComplete _ => partsOfG
  | .writebackAck _ => partsOfG
  | .dmaTransferError _ => partsOfG
  | .fetchTimeout _ => [.mem, .regs, .sys, .tally, .dma]
  | .descriptorTimeout _ => partsOfG
  | .dmaDrainComplete _ => [.regs, .dma]
  | .streamShareWrite _ _ _ => [.mem, .regs, .sys, .tally]
  | .fenceDrainEnd _ => [.mem, .regs, .free, .clock, .sys, .tally, .engines, .dma, .rcv, .hall, .sent, .pins, .fabric, .power, .sec, .bist, .safe, .cams, .radio, .eth]
  | .fenceDrainDeclaration _ => [.mem, .regs, .free, .clock, .sys, .tally, .engines, .dma, .rcv, .hall, .sent, .pins, .fabric, .power, .sec, .bist, .safe, .cams, .radio, .eth]
  | .rung1Reset _ _ => partsOfC
  | .rung2Reset _ => partsOfC
  | .rung3Reset _ => partsOfC
  | .chipReset _ => partsOfC
  | .powerCycleRequest _ => [.mem, .regs, .sys, .tally, .rcv, .pins]
  | .rungLimitExpiry _ => partsOfC
  | .resetComplete _ => partsOfA
  | .replayChip => partsOfA
  | .engineHangWatchdog _ => partsOfC
  | .wdtKick _ => [.mem, .sys, .tally, .rcv]
  | .bccWatchdogExpiry => [.mem, .regs, .free, .sys, .tally, .engines, .dma, .rcv, .hall, .sent, .pins, .fabric, .sec, .safe, .cams]
  | .heartbeatLoss _ => partsOfC
  | .resetIn => partsOfC
  | .resetInRelease => [.rcv]
  | .smbusBlockReadA0 => [.out, .pins]
  | .returnToService _ _ => partsOfA
  | .startService _ => [.mem, .regs, .sys, .tally]
  | .timeStep _ _ => [.mem, .clock, .sys, .tally]
  | .ppsInEdge => [.regs, .clock]
  | .ppsOutRise => [.clock, .pins]
  | .ppsOutFall => [.pins]
  | .timeLocked _ => partsOfK
  | .holdover _ => partsOfK
  | .gateDecision _ _ => partsOfA
  | .gateDeadline _ _ => partsOfA
  | .checkerCompare _ _ _ => partsOfF
  | .safeClear _ _ => partsOfF
  | .safeEnter _ _ => partsOfF
  | .pipelineEnable _ _ => [.mem, .regs, .sys, .tally, .safe]
  | .sealEnable _ _ _ => [.mem, .sys, .tally, .hall]
  | .belayEnable _ _ => [.mem, .sys, .tally, .safe]
  | .belayArm _ _ => [.mem, .sys, .tally, .safe]
  | .belayDisarm _ _ => [.mem, .sys, .tally, .safe]
  | .belayWindowDecision _ => partsOfF
  | .cairnEnable _ _ => [.mem, .regs, .sys, .tally, .safe]
  | .cairnDue _ => partsOfA
  | .cairnWindowExpiry _ => partsOfF
  | .bistStart _ _ => partsOfH
  | .bistAbort _ => [.mem, .regs, .free, .sys, .tally, .engines, .dma, .rcv, .hall, .sent, .pins, .fabric, .bist, .safe, .cams, .radio, .eth]
  | .bistDrainLimit => partsOfC
  | .lbistComplete _ _ _ _ => [.mem, .regs, .sys, .tally, .engines, .pins, .bist, .safe]
  | .mbistComplete _ => [.mem, .regs, .free, .sys, .tally, .engines, .dma, .rcv, .hall, .sent, .pins, .fabric, .bist, .safe, .cams, .radio, .eth]
  | .rotationDue => partsOfH
  | .bistRetry => partsOfH
  | .bistBypassWrite _ _ => partsOfH
  | .railInvalid _ => [.mem, .regs, .out, .free, .clock, .sys, .tally, .engines, .dma, .rcv, .hall, .sent, .pins, .fabric, .power, .sec, .bist, .safe, .cams, .radio, .eth]
  | .railValid _ => [.mem, .regs, .free, .sys, .tally, .power]
  | .powerOn => [.regs, .pins, .power]
  | .bccResetRelease => [.regs, .rcv, .power]
  | .refAoLoss => [.mem, .regs, .out, .clock, .sys, .tally, .engines, .dma, .rcv, .hall, .pins, .fabric, .power, .sec, .bist, .safe, .cams, .radio, .eth]
  | .warmStandbyEntry _ => [.engines]
  | .coldEntry _ => [.engines]
  | .pllStop _ => [.regs, .power]
  | .wakeComplete _ => [.regs, .engines, .power]
  | .domainSwitch _ _ _ => [.mem, .sys, .tally, .power]
  | .pllUnlock _ => [.mem, .regs, .sys, .tally, .engines, .power]
  | .pllRelockTimeout _ => [.mem, .regs, .free, .sys, .tally, .engines, .dma, .rcv, .hall, .sent, .pins, .fabric, .power, .safe, .cams]
  | .powerEvaluation _ => [.mem, .regs, .free, .sys, .tally, .power]
  | .monitorSample _ _ _ => [.mem, .regs, .free, .sys, .tally, .engines, .dma, .rcv, .hall, .sent, .pins, .fabric, .power, .safe, .cams]
  | .droopDetect _ => [.mem, .free, .sys, .tally, .power]
  | .boot _ _ _ _ => [.mem, .regs, .free, .sys, .tally, .engines, .rcv, .hall, .sent, .pins, .fabric, .power, .store, .sec, .bist, .safe]
  | .measurementExtend _ _ _ => partsOfL
  | .attestationRequest _ _ => partsOfL
  | .attestationReportDone => [.mem, .regs, .sys, .tally, .engines, .rcv, .sec]
  | .firmwareUpdate _ _ => partsOfL
  | .updateWriteDone _ => [.regs, .store, .sec]
  | .quiescentTick => [.regs, .rcv, .sec]
  | .updateWaitTimeout => [.regs, .sec]
  | .updateCommit => [.mem, .regs, .sys, .tally, .store, .sec]
  | .updateRevert => [.mem, .regs, .free, .sys, .tally, .engines, .dma, .rcv, .hall, .sent, .pins, .fabric, .sec, .safe, .cams]
  | .svnCommitBcc _ => [.mem, .sys, .tally, .store]
  | .svnCommitApp _ => [.mem, .sys, .tally, .store]
  | .idcode => [.out]
  | .tapBypass => [.out]
  | .debugChallenge => [.out, .free, .sec]
  | .debugResponse _ => [.mem, .regs, .out, .sys, .tally, .sec]
  | .extest _ => [.out, .tally, .pins]
  | .extestExit => [.mem, .regs, .out, .free, .sys, .tally, .engines, .dma, .rcv, .hall, .sent, .pins, .fabric, .safe, .cams]
  | .ethFrameReceive _ _ => [.mem, .regs, .out, .free, .sys, .tally, .engines, .rcv, .hall, .sent, .pins, .fabric, .safe, .radio, .eth]
  | .ethFrameTransmit _ => partsOfA
  | .rxBufferReturn _ _ _ => [.mem, .sys, .tally, .eth]
  | .ethLinkUp _ => [.mem, .regs, .sys, .tally]
  | .ethLinkDown _ => [.mem, .regs, .sys, .tally]
  | .lldpSend _ => [.sent, .eth]
  | .lldpTtlExpiry _ => [.mem, .sys, .tally, .eth]
  | .rdmaWriteReceive _ _ _ _ _ _ _ _ => [.mem, .regs, .free, .sys, .tally, .engines, .rcv, .sent, .fabric]
  | .rdmaReadReceive _ _ _ _ _ => [.mem, .regs, .free, .sys, .tally, .engines, .rcv, .sent, .fabric]
  | .roceSendReceive _ _ _ _ _ => partsOfA
  | .roceAckReceive _ _ _ => partsOfB
  | .cnpReceive _ => [.fabric]
  | .ackTimeout _ => partsOfB
  | .rateWindowEnd _ => [.fabric]
  | .resetNotice _ _ => partsOfB
  | .transferDiscard _ => [.fabric]
  | .jobAbort _ _ _ => partsOfA
  | .jobResume _ _ => partsOfA
  | .pcieLinkUp _ _ => [.mem, .regs, .sys, .tally]
  | .pcieLinkDown => [.mem, .regs, .sys, .tally]
  | .msiReceive _ _ => partsOfA
  | .sysrefEdge => [.mem, .regs, .sys, .tally, .radio]
  | .jesdLinkError _ _ => [.mem, .regs, .sys, .tally]
  | .symbolBoundary _ _ => partsOfD
  | .symbolLaunch _ => partsOfD
  | .fhWindowOpen _ => [.mem, .regs, .sys, .tally, .sent, .radio]
  | .fhWindowClose _ => partsOfD
  | .pllRelocked _ => [.regs, .engines, .power]
  | .servoStart => partsOfK
  | .droopStretchEnd _ => [.regs, .power]
  | .updateVerificationDone => [.mem, .regs, .sys, .tally, .sec]
  | .ledgerCopyRewritten _ => [.tally]
  | .rdmaReadResponse _ _ _ => partsOfA

end Sys2Proof

namespace Sys2Proof.Machine

open Sys2Proof

/-- The keys of the state's tables strictly rise, so that a key has one entry. -/
structure State.Keyed (s : State) : Prop where
  contexts : tblSorted s.tally.contexts = true
  queues : tblSorted s.tally.queues = true
  tasks : tblSorted s.tally.tasks = true
  board : tblSorted s.tally.board = true
  ready : tblSorted s.tally.ready = true
  graphs : tblSorted s.tally.graphs = true
  instances : tblSorted s.tally.instances = true
  holds : tblSorted s.tally.holds = true
  rings : tblSorted s.tally.rings = true
  cache : tblSorted s.sys.cache = true
  engines : tblSorted s.engines = true
  dma : tblSorted s.dma = true
  fences : tblSorted s.rcv.fences = true
  resets : tblSorted s.rcv.resets = true
  unlocked : tblSorted s.power.unlocked = true
  droop : tblSorted s.power.droop = true

/-- Every task in the store, and every live graph instance, has a number below the next one to be given. -/
structure State.Numbered (s : State) : Prop where
  tasks : ∀ p ∈ s.tally.tasks, p.1 < s.tally.nextTask
  instances : ∀ p ∈ s.tally.instances, p.1 < s.tally.nextInstance

/-- A command has its effect: it answers a next state in which the components it may not change, and the queue of commands, are as
before, and `Q` holds. -/
def Completes (i : Instr) (s : State) (Q : State → Prop) : Prop := ∃ t, exec i s = .next t ∧ s.SameBut i.parts t ∧ Q t

/-- An event's command is turned away: its cause is absent. -/
def TurnedAway (i : Instr) (s : State) : Prop := exec i s = .refused .notEnabled

/-- The state after an event has been raised in it (R98, R136). -/
def State.afterEvent (s : State) (src part code : Nat) (detail : List Byte) : State := M.run (raise src part code detail) s

/-- Two states hold the same registers, but that one register of the second holds a given value. -/
def State.OneReg (s : State) (r : Nat) (v : Word) (t : State) : Prop := ∀ x, t.reg x = if x = r then v else s.reg x

/-- An operation run alone answers a value and leaves a state, whatever follows it. -/
def M.gives {α : Type} (m : M α) (s : State) (a : α) (t : State) : Prop := ∀ k : α → Act, Act.run (m k) s = Act.run (k a) t

open Sys2Proof

/-! ## Runs -/

/-- A state some run from reset reaches, with commands given to it on the way: commands enter the queue's end. -/
inductive Reached : State → Prop where
  | reset : Reached State.reset
  | command {s : State} (c : Instr) (h : Reached s) : Reached { s with pending := s.pending ++ [c] }
  | step {s t : State} (h : Reached s) (k : Sys2Proof.Machine.step s = .next t) : Reached t

end Sys2Proof.Machine
end

