-- ==== Sys2Proof/Certificates/Slice0/Obligations.lean ====
section
/-! DEFINITION. The statements for the provers. -/

open Sys2Proof Sys2Proof.Machine

/-- The commands that may write flash or eMMC. -/
def mayWriteStorage : Instr → Bool
  | .registerWrite .. => true
  | .memoryRequest .. => true
  | .boot .. => true
  | .updateWriteDone .. => true
  | .updateCommit => true
  | .svnCommitBcc .. => true
  | .svnCommitApp .. => true
  | _ => false

/-- What a field holds after a word was written to its register (R5, R7, R95). -/
def fieldWritten (f : Field) (old w : Word) : Nat :=
  let o := getBits old f.lsb f.width
  let v := getBits w f.lsb f.width
  match f.ty with
  | .ro => o
  | .wo => o
  | .w1c => getBits (old &&& ~~~w) f.lsb f.width
  | .rw => if f.enc = [] ∨ ∃ r ∈ f.enc, r.1 ≤ v ∧ v ≤ r.2 then v else o
  | .rwk lo hi => unsigned f.width (max lo (min hi (if lo < 0 then signed f.width v else v)))

/-- Whether a field takes the value written without clamp or refusal. -/
def fieldTaken (f : Field) (w : Word) : Prop :=
  let v := getBits w f.lsb f.width
  match f.ty with
  | .ro => True
  | .w1c => True
  | .wo => f.enc = [] ∨ ∃ r ∈ f.enc, r.1 ≤ v ∧ v ≤ r.2
  | .rw => f.enc = [] ∨ ∃ r ∈ f.enc, r.1 ≤ v ∧ v ≤ r.2
  | .rwk lo hi => lo ≤ (if lo < 0 then signed f.width v else v) ∧ (if lo < 0 then signed f.width v else v) ≤ hi

/-- A memory that holds bytes takes a request at an address: decoded, not fenced, not the PCIe window, no ECC word known bad or weak. -/
def holdsBytes (s : State) (a n : Nat) : Prop :=
  s.takesWrite a = true ∧ s.place a ≠ .pcie ∧ ∀ w ∈ s.eccWords a n, w ∉ s.sys.badWords ∧ w ∉ s.sys.weakWords

/-- A port takes a request: its last acknowledgement has been read, and Tally accepts work. -/
def portReady (s : State) (i : Nat) : Prop := i ∉ s.tally.unread ∧ s.rcv.bivouac = false ∧ s.tally.accepting = true

/-- A port's request is judged with a status and a sequence, and the acknowledgement waits to be read. -/
def acked (t : State) (i code seq : Nat) : Prop :=
  t.reg (Reg.portAck i) = BitVec.ofNat 64 (code + 2 ^ 16 + seq * 2 ^ 32) ∧ i ∈ t.tally.unread ∧
    t.out = some ⟨code == 0, leBytes 1 code ++ leBytes 4 seq⟩

/-- No tile waits to take new staging banks into use. -/
def noStaging (s : State) : Prop := ∀ x ∈ s.regs, getBits x.2 Fld.ttTmemPending.lsb 1 = 0 ∨ ∀ n, x.1 ≠ Reg.ttTmem n

/-- The commands that write PORT_CMD of a port, each with the word it writes there. -/
def portCommands (i q ty : Nat) : List (Instr × Nat) :=
  [(.enqueue i q ty, cmdWord 0 ty q), (.taskSubmission i q, cmdWord 0 1 q), (.dequeue i q, cmdWord 1 0 q),
    (.createQueue i, cmdWord 2 0 0), (.destroyQueue i q, cmdWord 3 0 q), (.grant i q, cmdWord 4 0 q), (.revoke i q, cmdWord 5 0 q),
    (.registerGraph i, cmdWord 6 0 0), (.deregisterGraph i, cmdWord 7 0 0)]

/-- A command is taken: its own effect leaves a state with a property, and the named follow-up operation of the block runs from there;
outside the command's components nothing changes. -/
def CompletesThen (i : Instr) (s : State) (m : M Unit) (P : State → Prop) : Prop :=
  ∃ u, P u ∧ exec i s = .next (m.run u) ∧ s.SameBut i.parts (m.run u)

/-- Two states hold the same tasks, but that one task of the second is as given. -/
def OneTask (s : State) (n : Nat) (k : Option Task) (t : State) : Prop :=
  t.task n = k ∧ ∀ m, m ≠ n → t.task m = s.task m

/-- Two states hold the same engines, but that one engine of the second is as given. -/
def OneEngine (s : State) (e : Nat) (g : Engine) (t : State) : Prop :=
  t.engine e = g ∧ ∀ x, x ≠ e → t.engine x = s.engine x

/-- The state after a register write was refused (R95, R548): event 0x3003 with the offset, the value and the field, and nothing else. -/
def refusedWrite (s : State) (off value lsb : Nat) : State :=
  s.afterEvent (pageOwner (off / 0x1000)).1 (pageOwner (off / 0x1000)).2 0x3003 (det [(4, off), (4, value % 2 ^ 32), (1, lsb)])

/-- A task's operation over its units of memory: they are read, and the seals of what it reads in full are checked (R185, R439). -/
def planReads (s : State) (k : Task) (p : Plan) : M (Option MemErr) := do
  match ← touch k.engine k.handle (readUnits (s.operands k) p) with
  | some x => return some x
  | none => do
    checkSeals k (s.operands k) (readUnits (s.operands k) p)
    return none

/-- Where the reads of an operation's plan and the writes it forms meet no error, the command answers a next state: memory is as they
leave it, the task has formed its result, with the counts of its reads out of bounds, no other task changes, and `Q` holds between the
state the writes leave and the next. `s₀` is the state the command is given in, `s` the state its plan begins in. -/
def RunsPlan (c : Instr) (s₀ s : State) (n : Nat) (k : Task) (plan : State → List Ten → Plan) (extra : State → Nat)
    (Q : State → State → Prop) : Prop :=
  let ts := s.operands k
  ∀ u v,
    (planReads s k (plan s ts)).gives s none u →
    let good := (plan u ts).writes.filter fun w => ((tenAt ts w.slot).map fun o => o.writeTest w.idx).getD (some 1) == none
    let form := formMem u k.handle ts good
    M.gives (do
      match ← writeRuns k.engine k.handle (formRuns form) with
      | some x => return some x
      | none => do
        writeSeals k ts form
        return none : M (Option MemErr)) u none v →
    ∃ t, exec c s₀ = .next t ∧ s₀.SameBut c.parts t ∧ t.mem = v.mem ∧ (∀ m, m ≠ n → t.task m = v.task m) ∧
      (∀ x, v.task n = some x → ∃ y, t.task n = some y ∧ y.done = true ∧ y.life = x.life ∧ y.oobReads = x.oobReads + extra u +
        (ts.map (·.slot)).foldl (fun a sl => a + (fillCounts ts (plan u ts) sl).1 + (fillCounts ts (plan u ts) sl).2) 0) ∧ Q v t

/-- The operations whose result is their plan's alone: each command with its opcode and the plan of a task. -/
def planOperations (e : Nat) (k : Task) : List (Instr × Nat × (State → List Ten → Plan)) :=
  let h := k.handle
  let p := k.params
  let dot : Nat → (List Ten → List Dot) → State → List Ten → Plan := fun act dots s ts =>
    dotPlan h act (ofBits32 (leAt p 16 4)) (ofBits32 (leAt p 20 4)) (dots ts) s ts
  [(.copy e, 0x100, copyPlan h), (.fill e, 0x101, fun _ ts => fillPlan ts), (.gather e, 0x102, gatherPlan h p),
    (.scatter e, 0x103, scatterPlan h p), (.matmul e, 0x200, dot 0 matmulDots),
    (.conv2d e, 0x201, dot (leAt p 12 1) fun ts => convDots (convOf false p ts) ts),
    (.dwconv2d e, 0x202, dot (leAt p 12 1) fun ts => convDots (convOf true p ts) ts),
    (.tconv2d e, 0x203, dot (leAt p 12 1) fun ts => tconvDots (convOf false p ts) ts), (.eltwise e, 0x204, eltwisePlan h p),
    (.unary e, 0x205, unaryPlan h p), (.quantize e, 0x206, quantizePlan h p), (.dequantize e, 0x207, dequantizePlan h),
    (.cmatmul e, 0x208, dot 0 matmulDots), (.reduce e, 0x300, reducePlan h p), (.softmax e, 0x301, softmaxPlan h p),
    (.layernorm e, 0x302, normPlan true h p), (.rmsnorm e, 0x303, normPlan false h p), (.argmax e, 0x304, argmaxPlan h p),
    (.topk e, 0x305, topkPlan h p), (.attention e, 0x400, attentionPlan h p), (.routeGather e, 0x401, routeGatherPlan h p),
    (.routeCombine e, 0x402, routeCombinePlan h p), (.crc32c e, 0x700, crcPlan h), (.compare e, 0x701, comparePlan h),
    (.cairnCheck e, 0x702, cairnPlan h p), (.fft e, 0x602, fftPlan h p), (.ifft e, 0x603, ifftPlan h p),
    (.ldpcDecode e, 0x605, ldpcDecodePlan h p), (.ldpcEncode e, 0x606, ldpcEncodePlan h p), (.polarEncode e, 0x607, polarEncodePlan h p),
    (.polarDecode e, 0x608, polarDecodePlan h p), (.pyrLaplace e, 0x502, laplacePlan h p)]

/-- A requester reaches the registers of a partition: it is the BCC, or the partition is not behind a fence (R21, R47). -/
def reaches (s : State) (w : Requester) (part : Nat) : Prop := w = .bcc ∨ s.fenced part = false

/-- A register of the second state holds what writing one field of it in the first gives, every other register what it held. -/
def OneField (s : State) (r : Nat) (f : Field) (v : Nat) (t : State) : Prop := s.OneReg r (setBits (s.reg r) f.lsb f.width v) t

/-- A saturating counter of the second state is one more than in the first, every other register and field as before. -/
def Counted (s : State) (r : Nat) (f : Field) (t : State) : Prop := OneField s r f (satAdd f.width (s.fld r f) 1) t

/-- A reset of a scope has begun (R461, R464): its fence stands and its record shows the trigger; nothing of it is asserted yet. -/
def BeganReset (s : State) (sc : Scope) (drained : Option Nat) (t : State) : Prop :=
  tblFind t.rcv.fences sc.key = some ⟨s.clock.now, drained, 0, 0⟩ ∧
    (∃ r, tblFind t.rcv.resets sc.key = some r ∧ r.toScope = sc ∧ r.rung = sc.rung ∧ r.trigger = s.clock.now ∧ r.fencedAt = s.clock.now ∧
      r.seq = s.rcv.nextReport ∧ r.assertedAt = 0) ∧
    t.rcv.nextReport = (s.rcv.nextReport + 1) % 2 ^ 32 ∧ t.rcv.history = s.rcv.history ++ [(sc.key, sc.rung, s.clock.now)]

/-- Nothing absorbs or escalates a trigger of a scope: no reset runs, no unit is under test, its count is below the limit. -/
def takesTrigger (s : State) (sc : Scope) : Prop :=
  s.rcv.resets = [] ∧ s.bist.unit = none ∧ s.resetCount sc < s.fld Reg.rcvEsc Fld.rcvEscCount

/-- Post a task's transfer message to some ranks of its job (R421, R422). -/
def sendShards (n : Nat) (k : Task) (ranks : List Nat) : M Unit := do
  let s ← getS
  match s.operand k 0 with
  | none => pure ()
  | some o =>
    for r in ranks do
      match ← openQp (fabJob k.params) r with
      | some i => postMsg i none (transferMsg s k.handle (fabJob k.params) (s.jobRank (fabJob k.params)) k.params o) (some n) none
      | none => pure ()

/-- For every command c, state s and queue rest: where c stands at the front of the queue, step is exec of c on s with the rest of
the queue, whatever exec answers. -/
def Obligations.StepRunsTheFrontCommand : Prop :=
  ∀ (c : Instr) (rest : List Instr) (s : State), s.pending = c :: rest → step s = exec c { s with pending := rest }

/-- The model's choice (log entry 1): with no command waiting, a step answers a next state in which only SiteTime has changed.
With a fraction below 2^40, SiteTime and fraction together, in units of 2^-40 of a SiteTime unit, grow by 2^40 plus
TIME_FREQ_ADJ.adj as a signed number (modulo 2^64 units), and the fraction stays below 2^40. -/
def Obligations.IdleBlockTicks : Prop :=
  ∀ s : State, s.pending = [] → s.clock.sub < 2 ^ 40 →
    ∃ t, step s = .next t ∧ s.SameBut [.clock] t ∧ t.clock.sub < 2 ^ 40 ∧
      ∃ n : Nat, t.clock.now = (s.clock.now + n) % 2 ^ 64 ∧
        (n * 2 ^ 40 + t.clock.sub : Int) = s.clock.sub + 2 ^ 40 + signed 32 (s.fld Reg.timeFreqAdj Fld.timeFreqAdjAdj)

/-- From every state whose memory list has strictly rising addresses and no entry at the value an unwritten byte reads as, and
whose register list has strictly rising offsets and no entry at a register's reset value, a step that answers a next state
gives such a state again, whatever the command. -/
def Obligations.StepKeepsMemoryAndRegistersCanonical : Prop :=
  ∀ s t : State, s.Canonical → step s = .next t → t.Canonical

/-- The state right after reset lists no byte of memory and no register away from its reset value, so it has the canonical form
that every step keeps; its queue of commands is empty, no context exists, and every register reads as its reset value. -/
def Obligations.ResetIsCanonical : Prop :=
  State.reset.Canonical ∧ State.reset.pending = [] ∧ (∀ x, State.reset.reg x = regReset x) ∧ ∀ h, State.reset.ctx h = none

/-- For each of the commands there is a list of the components of the state (memory bytes, registers, SiteTime, memory system,
Tally, engines, DMA, recovery, Hall, wires, pins, fabric, power, storage, security, self-test, SAFE, cameras, radio, Ethernet,
answer, open values) that it may change. From every state, a command that answers a next state leaves every other component
and the queue as before. -/
def Obligations.EveryCommandKeepsItsFrame : Prop :=
  ∀ (i : Instr) (s t : State), exec i s = .next t → s.SameBut i.parts t

/-- Flash and eMMC contents are the same after a step unless the command at the front of the queue is a register write or a memory
request (either may carry one of the others), BOOT, UPDATE_WRITE_DONE, UPDATE_COMMIT, SVN_COMMIT_BCC or SVN_COMMIT_APP: every
step whose front command is none of them, and every step on an empty queue, leaves them. -/
def Obligations.StorageChangesOnlyByItsOwnCommands : Prop :=
  ∀ s t : State, step s = .next t → (∀ c ∈ s.pending.head?, mayWriteStorage c = false) → t.store = s.store

/-- START_SERVICE from the BCC sets TIME_STATUS.service and changes no other bit of any register and no other component. While
service is 0, TIME_STEP from the BCC adds the signed offset to SiteTime modulo 2^64 and changes nothing else. While service is
1, every TIME_STEP leaves SiteTime and every register as they are and raises event 0x3003; from any other sender both commands
are refused in the same way. -/
def Obligations.ServiceEndsTimeSteps : Prop :=
  ∀ s : State, s.Canonical →
    (∃ t, exec (.startService .bcc) s = .next t ∧ s.SameBut [.regs] t ∧ t.service = true ∧
      s.OneReg Reg.timeStatus (setBits (s.reg Reg.timeStatus) Fld.timeStatusService.lsb 1 1) t) ∧
    (∀ offset : Word, s.service = false → ∃ t, exec (.timeStep .bcc offset) s = .next t ∧ s.SameBut [.clock] t ∧
      t.clock = { s.clock with now := (s.clock.now + offset.toNat) % 2 ^ 64 }) ∧
    (∀ (c : Requester), c ≠ .bcc → ∃ detail t, exec (.startService c) s = .next t ∧
      t = s.afterEvent 0x82 6 0x3003 detail ∧ t.clock = s.clock ∧ (∀ x, t.reg x = s.reg x) ∧ s.SameBut [.mem, .sys, .tally] t) ∧
    (∀ (c : Requester) (offset : Word), c ≠ .bcc ∨ s.service = true → ∃ detail t, exec (.timeStep c offset) s = .next t ∧
      t = s.afterEvent 0x82 6 0x3003 detail ∧ t.clock = s.clock ∧ (∀ x, t.reg x = s.reg x) ∧ s.SameBut [.mem, .sys, .tally] t)

/-- PPS_IN_EDGE marks the edge as seen and, while TIME_CTL.pps_in_en is 1, stores SiteTime in TIME_PPS_IN_STAMP; no other register
changes. PPS_OUT_RISE is taken only while TIME_CTL.pps_out_en is 1, the pin is low, SiteTime's fraction is at or past
TIME_PPS_OUT.phase and the pin has not risen since; it raises the pin. PPS_OUT_FALL lowers the pin once 100 us have passed
since it rose. -/
def Obligations.PpsPinsAndStamps : Prop :=
  ∀ s : State, s.Canonical →
    (∃ t, exec .ppsInEdge s = .next t ∧ s.SameBut [.regs, .clock] t ∧ t.clock = { s.clock with ppsSeen := some s.clock.now } ∧
      ∀ x, t.reg x = if x = Reg.timePpsInStamp ∧ s.flag Reg.timeCtl Fld.timeCtlPpsInEn then BitVec.ofNat 64 s.clock.now else s.reg x) ∧
    (s.flag Reg.timeCtl Fld.timeCtlPpsOutEn = true → s.pins.ppsOut = false →
      s.fld Reg.timePpsOut Fld.timePpsOutPhase ≤ s.clock.now % 2 ^ 32 →
      (∀ t ∈ s.clock.ppsRose, t < s.clock.now / 2 ^ 32 * 2 ^ 32 + s.fld Reg.timePpsOut Fld.timePpsOutPhase) →
      ∃ t, exec .ppsOutRise s = .next t ∧ s.SameBut [.pins, .clock] t ∧ t.pins = { s.pins with ppsOut := true } ∧
        t.clock = { s.clock with ppsRose := some s.clock.now }) ∧
    (∀ r, s.pins.ppsOut = true → s.clock.ppsRose = some r → r + usUnits 100 ≤ s.clock.now →
      ∃ t, exec .ppsOutFall s = .next t ∧ s.SameBut [.pins] t ∧ t.pins = { s.pins with ppsOut := false }) ∧
    (s.pins.ppsOut = true → TurnedAway .ppsOutRise s) ∧ (s.pins.ppsOut = false → TurnedAway .ppsOutFall s)

/-- SERVO_START makes TIME_STATUS.state read 1 (acquiring) from every state. TIME_LOCKED is taken only in state 1 once 16 s have
passed since the servo started, and makes the state read 2 (locked); HOLDOVER is taken only in state 2 and makes it read 3.
Each changes no other register and no other field of TIME_STATUS, keeps SiteTime, records the servo's offset, and raises event
0x0201 with the old and the new state and the offset wherever the state changes; while service is 0 or the error lies within 1
us it raises nothing else. -/
def Obligations.SiteTimeServoStates : Prop :=
  ∀ s : State, s.Canonical →
    let entered := fun (n : Nat) (e : Int) => { s with
      clock := { s.clock with servoOffset := e }
      regs := regPut s.regs Reg.timeStatus (setBits (s.reg Reg.timeStatus) 0 2 n)
      radio := { s.radio with held := false } : State }
    let change := fun (n : Nat) (e : Int) =>
      det [(1, s.fld Reg.timeStatus Fld.timeStatusState), (1, n), (6, 0), (8, unsigned 64 e)]
    let keeps := fun (n : Nat) (t : State) => t.fld Reg.timeStatus Fld.timeStatusState = n ∧ t.service = s.service ∧
      t.clock.now = s.clock.now ∧ (∀ x, x ≠ Reg.timeStatus → t.reg x = s.reg x) ∧
      s.SameBut [.mem, .regs, .clock, .sys, .tally, .radio] t
    (∃ t, exec .servoStart s = .next t ∧ keeps 1 t ∧ t.clock = { s.clock with acquiredAt := s.clock.now }) ∧
    (∀ e : Int, s.fld Reg.timeStatus Fld.timeStatusState = 1 → s.clock.acquiredAt + 16 * 2 ^ 32 ≤ s.clock.now →
      ∃ t, exec (.timeLocked e) s = .next t ∧ keeps 2 t ∧ t.clock.servoOffset = e ∧
        (s.service = false ∨ -4294 ≤ e ∧ e ≤ 4294 → t = (entered 2 e).afterEvent 0x82 6 0x0201 (change 2 e))) ∧
    (∀ e : Int, s.fld Reg.timeStatus Fld.timeStatusState = 2 →
      ∃ t, exec (.holdover e) s = .next t ∧ keeps 3 t ∧ t.clock.servoOffset = e ∧
        (s.service = false ∨ -4294 ≤ e ∧ e ≤ 4294 → t = (entered 3 e).afterEvent 0x82 6 0x0201 (change 3 e))) ∧
    (∀ e : Int, s.fld Reg.timeStatus Fld.timeStatusState ≠ 1 → TurnedAway (.timeLocked e) s) ∧
    (∀ e : Int, s.fld Reg.timeStatus Fld.timeStatusState ≠ 2 → TurnedAway (.holdover e) s)

/-- For the registers of the DDR channels and of SiteTime (TIME_STEP and TIME_CMD start actions and apart), a 64-bit or 32-bit
write by the BCC is answered as done and leaves in each field what its type says: RO and WO fields keep their value, a 1
clears a W1C bit, an RW field takes a valid encoding and keeps its value on a reserved one, an RWK field takes the value or
the nearer bound of its range; the other half of a 32-bit write keeps its RW and RWK bits. Every other register is unchanged.
Where no field is clamped or refused only that register and the answer change. A write of any other sender to such a register,
a misaligned write, one to a page that is not allocated, one by an engine, and one to an offset without a register leave every
register as it is. -/
def Obligations.RegisterWritesAreJudgedFieldByField : Prop :=
  ∀ (s : State) (wide : Bool) (offset : Nat) (v : Word), s.Canonical →
    (∀ r, regAt (offset / 8 * 8) = some r → offset % (if wide then 8 else 4) = 0 →
      offset / 0x1000 = 0x30 ∨ (0xA8 ≤ offset / 0x1000 ∧ offset / 0x1000 < 0xB0) →
      offset / 8 * 8 ≠ Reg.timeStep → offset / 8 * 8 ≠ Reg.timeCmd →
      let off := offset / 8 * 8
      let w := mergeHalf r (s.reg off) wide (offset % 8 == 4) v
      (∃ t, exec (.registerWrite .bcc wide offset v) s = .next t ∧ s.SameBut [.mem, .regs, .out, .sys, .tally] t ∧
        t.out = some ⟨true, []⟩ ∧ (∀ x, x ≠ off → t.reg x = s.reg x) ∧
        (∀ f ∈ r.fields, t.fld off f = fieldWritten f (s.reg off) w) ∧
        ((∀ f ∈ r.fields, fieldTaken f w) →
          s.SameBut [.regs, .out] t)) ∧
      ∀ c : Requester, c ≠ .bcc → (∀ e, c ≠ .engine e) → s.fenced (pageOwner (offset / 0x1000)).2 = false →
        ∃ t, exec (.registerWrite c wide offset v) s = .next t ∧ t.out = some ⟨true, []⟩ ∧ ∀ x, t.reg x = s.reg x) ∧
    (∀ c : Requester, ((∃ e, c = .engine e) ∨ regReachable wide offset = false) →
      ∃ t, exec (.registerWrite c wide offset v) s = .next t ∧ t.out = some ⟨false, []⟩ ∧ ∀ x, t.reg x = s.reg x) ∧
    (regAt (offset / 8 * 8) = none → regReachable wide offset = true →
      ∃ t, exec (.registerWrite .bcc wide offset v) s = .next t ∧ t.out = some ⟨true, []⟩ ∧ s.SameBut [.out] t)

/-- For a physical request of any sender and form to memory that decodes, is not behind a fence and has no ECC word known bad or
weak in the line: a write is answered as done, after it every address of the request reads as the byte written and every other
address reads as before; a read is answered with the bytes at its addresses, and every address reads as before. A sender that
the system cache serves takes DDR lines into the cache; for any other request the statement covers lines the cache does not
hold. A request to on-chip memory changes no register. Requests to a hole are answered with an error and event 0x3002, and
every register keeps its value. -/
def Obligations.RequestsStoreAndReadBytes : Prop :=
  ∀ (s : State) (c : Requester) (a n : Nat) (data : List Byte), s.Canonical → s.sys.cache.length < cacheLines →
    (holdsBytes s a n → a % 64 + n ≤ 64 →
      ((∃ p o, s.place a = .ddr p o) ∧ cached (senderId c) = true ∨ tblFind s.sys.cache (a / 64) = none) →
      (requestForm s c true a n data = true →
        ∃ t, exec (.memoryRequest c none true a n data 0) s = .next t ∧ t.out = some ⟨true, []⟩ ∧
          (∀ b, t.byteAt b = if a ≤ b ∧ b < a + n then data.getD (b - a) 0#8 else s.byteAt b) ∧
          s.SameBut [.mem, .regs, .sys, .out] t ∧ ((∀ p o, s.place a ≠ .ddr p o) → s.SameBut [.mem, .sys, .out] t)) ∧
      (requestForm s c false a n [] = true →
        ∃ t, exec (.memoryRequest c none false a n [] 0) s = .next t ∧ t.out = some ⟨true, s.bytesAt a n⟩ ∧
          (∀ b, t.byteAt b = s.byteAt b) ∧
          s.SameBut [.mem, .regs, .sys, .out] t ∧ ((∀ p o, s.place a ≠ .ddr p o) → s.SameBut [.sys, .out] t))) ∧
    (∀ w, s.place a = .hole → requestForm s c w a n data = true →
      ∃ t u, exec (.memoryRequest c none w a n data 0) s = .next t ∧ t.out = some ⟨false, []⟩ ∧
        u = s.afterEvent (senderId c) (partOf (senderId c)) 0x3002 (det [(5, a % 2 ^ 40), (1, flagBit w)]) ∧ u.SameBut [.out] t)

/-- For a live context that is translated, a canonical address that no translation cache holds, and a requester: where the walk of
the context's tables ends at a leaf that permits the access, the answer is the leaf's page with the address's offset in it,
and at most the memory system's caches change (for a write by a context of safety class 0, where the page belongs to no buffer
of a safety-class context). Where the walk finds no valid leaf the answer is a page fault, and where the address is not
canonical an access fault kind of its own, each with event 0x4003 and nothing else changed. A physical context's address below
2^40 is its own translation. A handle that is no live context is answered as stale. -/
def Obligations.TranslationFollowsThePageTables : Prop :=
  ∀ (s : State) (who h va : Nat) (w : Bool) (c : Ctx),
    (s.ctx h = some c → c.physical = false → canonical va = true → ((tlbOf who).bind fun k => s.tlbFind k h va) = none →
      (∀ pte l pa, s.walk who va 4 c.root = .leaf pte l → leafCheck pte l va w = .ok pa →
        (w = true → c.safety = false → s.safetyPage pa = false) →
        pa = ptePpn pte * 4096 + va % 2 ^ (12 + 9 * l) ∧
        ∃ t, (translate who h va w).gives s (.ok pa) t ∧ s.SameBut [.sys] t) ∧
      (s.walk who va 4 c.root = .fault →
        (translate who h va w).gives s (.error .page)
          (s.afterEvent 0x84 6 0x4003 (det [(6, va % 2 ^ 48), (1, flagBit w), (1, 0), (3, h % 2 ^ 20), (1, who)])))) ∧
    (s.ctx h = some c → c.physical = false → canonical va = false →
      (translate who h va w).gives s (.error .nonCanonical)
        (s.afterEvent 0x84 6 0x4003 (det [(6, va % 2 ^ 48), (1, flagBit w), (1, 2), (3, h % 2 ^ 20), (1, who)]))) ∧
    (s.ctx h = some c → c.physical = true → va < 2 ^ 40 → (w = true → c.safety = false → s.safetyPage va = false) →
      (translate who h va w).gives s (.ok va) s) ∧
    (s.ctx h = none → ∃ t, (translate who h va w).gives s (.error .stale) t ∧ s.SameBut [.regs] t)

/-- PATROL_SCRUB, on a serving channel whose scrub period has passed, with newly found weak and bad words of that channel, leaves
no weak word of the channel, adds the bad words to those known, forgets none, and leaves the translations as they are.
DRIFT_TRACKING and REFRESH, where due, note the stamp of the rank and change nothing else. TRAINING of a pair whose two
channels have a listed configuration of equal ranks, density and capacity makes both channels read trained with that capacity;
of any other pair, not trained with capacity 0; it changes no register but MC_CTL and MC_STATUS of the pair. MMU_INVAL from
the BCC while none runs starts the invalidation of the handle over the pages that MMU_INVAL_VA and MMU_INVAL_PAGES give and
clears MMU_INVAL_STATUS.done; while one runs it is refused with event 0x3005 and the running one goes on; another sender is
refused and no register changes. MMU_INVAL_DONE removes exactly the cached translations that the running invalidation covers,
ends it, and sets MMU_INVAL_STATUS.done; with none running it is turned away. -/
def Obligations.DdrUpkeepAndInvalidation : Prop :=
  ∀ s : State, s.Canonical →
    (∀ (c : Nat) (weak bad : List Nat), s.chanServes c = true →
      s.due c (s.fld (Reg.mcScrubPeriod c) Fld.mcScrubPeriodHours * 3600 * 2 ^ 32) = true →
      (∀ w, w ∈ weak ∨ w ∈ bad → s.channelOf w = some c ∧ w % s.eccSize w = 0) → (∀ w ∈ weak, w ∉ bad) →
      ∃ t, exec (.patrolScrub c weak bad) s = .next t ∧ s.SameBut [.mem, .regs, .sys, .tally] t ∧
        (∀ w, w ∈ t.sys.weakWords ↔ w ∈ s.sys.weakWords ∧ s.channelOf w ≠ some c) ∧
        (∀ w, w ∈ t.sys.badWords ↔ w ∈ s.sys.badWords ∨ w ∈ bad) ∧
        t.sys.tlb = s.sys.tlb ∧ tblFind t.sys.marks c = some s.clock.now) ∧
    (∀ c r, s.chanServes c = true → r < s.ranksOf c → s.due (16 + 2 * c + r) (msUnits 128) = true →
      s.due (48 + c / 2) (msUnits 128) = true →
      (∀ r' < 2, ∀ m ∈ tblFind s.sys.marks (16 + 2 * (if c % 2 = 0 then c + 1 else c - 1) + r'),
        m / msUnits 128 ≠ s.clock.now / msUnits 128) →
      ∃ t, exec (.driftTracking c r) s = .next t ∧ s.SameBut [.sys] t ∧
        t.sys = { s.sys with marks := tblSet s.sys.marks (16 + 2 * c + r) s.clock.now }) ∧
    (∀ c r hot, s.chanServes c = true → r < s.ranksOf c → s.due (32 + 2 * c + r) (nsUnits (if hot then 3900 else 7800)) = true →
      ∃ t, exec (.refresh c r hot) s = .next t ∧ s.SameBut [.sys] t ∧
        t.sys = { s.sys with marks := tblSet s.sys.marks (32 + 2 * c + r) s.clock.now }) ∧
    (∀ p < 4, ∃ t, exec (.training p) s = .next t ∧ s.SameBut [.regs, .sys] t ∧
      (∀ x, (∀ c, c / 2 = p → x ≠ Reg.mcCtl c ∧ x ≠ Reg.mcStatus c) → t.reg x = s.reg x) ∧
      ∀ c, c / 2 = p →
        (∀ x y, tblFind s.sys.ddr (2 * p) = some x → tblFind s.sys.ddr (2 * p + 1) = some y →
          x.gib ≠ 0 → x.gib = y.gib → x.ranks = y.ranks → x.density = y.density →
          t.fld (Reg.mcStatus c) Fld.mcStatusTrained = 1 ∧ t.fld (Reg.mcStatus c) Fld.mcStatusCapacityGib = x.gib ∧
          t.fld (Reg.mcStatus c) Fld.mcStatusSelfRefresh = 0) ∧
        ((∀ x y, tblFind s.sys.ddr (2 * p) = some x → tblFind s.sys.ddr (2 * p + 1) = some y →
            x.gib = 0 ∨ x.gib ≠ y.gib ∨ x.ranks ≠ y.ranks ∨ x.density ≠ y.density) →
          t.fld (Reg.mcStatus c) Fld.mcStatusTrained = 0 ∧ t.fld (Reg.mcStatus c) Fld.mcStatusCapacityGib = 0)) ∧
    (∀ h all, s.sys.inval = none → ∃ t, exec (.mmuInval .bcc h all) s = .next t ∧ s.SameBut [.regs, .sys] t ∧
      t.sys = { s.sys with inval := some ⟨h % 2 ^ 20, all, s.fld Reg.mmuInvalVa Fld.mmuInvalVaBase,
        s.fld Reg.mmuInvalPages Fld.mmuInvalPagesPagesM1 + 1⟩ } ∧
      s.OneReg Reg.mmuInvalStatus (setBits (s.reg Reg.mmuInvalStatus) 0 1 0) t) ∧
    (∀ h all i, s.sys.inval = some i → ∃ t, exec (.mmuInval .bcc h all) s = .next t ∧
      t = s.afterEvent 0x84 6 0x3005 (det [(4, h % 2 ^ 20)]) ∧ t.sys.inval = some i ∧ s.SameBut [.mem, .sys, .tally] t) ∧
    (∀ c h all, c ≠ .bcc → ∃ t, exec (.mmuInval c h all) s = .next t ∧ t.sys.inval = s.sys.inval ∧ ∀ x, t.reg x = s.reg x) ∧
    (∀ i, s.sys.inval = some i → ∃ t, exec .mmuInvalDone s = .next t ∧ s.SameBut [.regs, .sys] t ∧ t.sys.inval = none ∧
      (∀ x, x ∈ t.sys.tlb ↔ x ∈ s.sys.tlb ∧ i.covers x.2 = false) ∧
      s.OneReg Reg.mmuInvalStatus (setBits (s.reg Reg.mmuInvalStatus) 0 1 1) t) ∧
    (s.sys.inval = none → TurnedAway .mmuInvalDone s)

/-- With queue 0 present, no record lost before and room in its ring at a slot of on-chip memory that takes writes, raising an
event stores the 64-byte entry that carries the 32-byte record (stamp, sequence, source, partition, code, detail) at the first
free slot, adds the entry to the queue, advances the stream's sequence by one modulo 2^32, and leaves every other byte of
memory, every other queue and every other part of the state. With the ring full, the sequence advances, one more record is
counted lost and nothing is written. Without queue 0 nothing changes. -/
def Obligations.EventRecordsEnterQueueZero : Prop :=
  ∀ (s : State) (src part code : Nat) (detail : List Byte), s.Canonical →
    let t := s.afterEvent src part code detail
    (∀ u, s.queue 0 = some u → u.evLost = 0 → u.full = false →
      let pa := u.base + 64 * freeSlot u
      let entry := entryBytes (eventBytes s.clock.now u.evSeq src part code detail) s.clock.now u.next u.owner 3 false
      s.takesWrite pa = true → (∀ p o, s.place pa ≠ .ddr p o) → (∀ i < 64, tblFind s.sys.cache ((pa + i) / 64) = none) →
      (∀ i < 64, ∀ off, s.place (pa + i) ≠ .rom off) →
      (∀ b, t.byteAt b = if pa ≤ b ∧ b < pa + 64 then entry.getD (b - pa) 0#8 else s.byteAt b) ∧
      t.queue 0 = some { u with
        evSeq := (u.evSeq + 1) % 2 ^ 32
        next := (u.next + 1) % 2 ^ 32
        ents := u.ents ++ [⟨u.next, freeSlot u, 3, u.owner, false,
          leAt (eventBytes s.clock.now u.evSeq src part code detail) (4 * u.flowWord) 4, s.clock.now, none, none⟩] } ∧
      (∀ q, q ≠ 0 → t.queue q = s.queue q) ∧ s.SameBut [.mem, .tally] t) ∧
    (∀ u, s.queue 0 = some u → u.full = true →
      t.queue 0 = some { u with evSeq := (u.evSeq + 1) % 2 ^ 32, evLost := u.evLost + 1, drops := u.drops + 1 } ∧
      (∀ q, q ≠ 0 → t.queue q = s.queue q) ∧ s.SameBut [.tally] t) ∧
    (s.queue 0 = none → t = s)

/-- Out of bivouac, with a priority ceiling up to 7, a quota from 16 to 262,144, a page-aligned root below 2^40 and an entry below
4,096 that is absent or free: the entry becomes live with the attributes given, its generation is one more than before modulo
256 (1 for an entry never used: the model's choice, log entry 7), the answer is status 0 and the 20-bit handle, every other
entry is unchanged and nothing outside the context table and the answer changes. A quota or ceiling out of range is answered
with status 0x12, an entry that is live or being torn down with status 0x1B, and a request in bivouac with status 0x20; these
change nothing but the answer. -/
def Obligations.ContextsAreCreatedWithTheNextGeneration : Prop :=
  ∀ (s : State) (id : Nat) (physical : Bool) (root ceiling : Nat) (safety : Bool) (quota eventQueue : Nat),
    let c := Instr.createContext id physical root ceiling safety quota eventQueue
    let gen := match tblFind s.tally.contexts id with
      | some x => (x.gen + 1) % 256
      | none => 1
    let isFree := ∀ x, tblFind s.tally.contexts id = some x → x.phase = .free
    let good := ceiling ≤ 7 ∧ 16 ≤ quota ∧ quota ≤ 262144 ∧ root % 4096 = 0 ∧ root < 2 ^ 40
    (s.rcv.bivouac = false → good → id < 4096 → isFree → ∃ t, exec c s = .next t ∧ s.SameBut [.out, .tally] t ∧
      t.tally = { s.tally with contexts := t.tally.contexts } ∧ t.out = some ⟨true, leBytes 1 0 ++ leBytes 3 (gen * 4096 + id)⟩ ∧
      t.ctx (gen * 4096 + id) =
        some ⟨.live, gen, physical, root, ceiling, safety, quota, eventQueue, [], [], 0, 0, [], 0, 0⟩ ∧
      ∀ i, i ≠ id → tblFind t.tally.contexts i = tblFind s.tally.contexts i) ∧
    (s.rcv.bivouac = false → ¬ good → ∃ t, exec c s = .next t ∧ s.SameBut [.out] t ∧ t.out = some ⟨false, [0x12#8]⟩) ∧
    (s.rcv.bivouac = false → good → ¬ (id < 4096 ∧ isFree) →
      ∃ t, exec c s = .next t ∧ s.SameBut [.out] t ∧ t.out = some ⟨false, [0x1B#8]⟩) ∧
    (s.rcv.bivouac = true → ∃ t, exec c s = .next t ∧ s.SameBut [.out] t ∧ t.out = some ⟨false, [0x20#8]⟩)

/-- For a live context, REGISTER_BUFFER of an extent that is a nonzero multiple of 64 bytes at a multiple of 64, canonical in the
context's addressing and apart from every buffer of the context, with room in the tables, is answered with status 0 and adds
exactly that buffer; one that is misaligned, empty, not canonical or overlapping is answered with status 0x17 and changes
nothing. DEREGISTER_BUFFER of a registered buffer marks it and changes no other buffer. DEREGISTRATION_COMPLETE, taken only
once it is marked and no task in the store names it, removes it and no other. A handle that is no live context is answered
with status 0x18. -/
def Obligations.BuffersAreRegisteredApart : Prop :=
  ∀ (s : State) (h base len : Nat) (c : Ctx),
    let canon := if c.physical then base + len ≤ 2 ^ 40
      else canonical base = true ∧ canonical (base + len - 1) = true ∧ ¬ (base < 2 ^ 47 ∧ 2 ^ 47 < base + len)
    let apart := ∀ b ∈ s.tally.buffers, b.handle = h → b.base + b.length ≤ base ∨ base + len ≤ b.base
    let good := base % 64 = 0 ∧ len % 64 = 0 ∧ len ≠ 0 ∧ canon ∧ apart
    (s.ctx h = some c → good → s.tally.buffers.length < 65536 →
      (s.tally.buffers.filter fun b => b.handle == h).length < 1024 →
      ∃ t, exec (.registerBuffer h base len) s = .next t ∧ s.SameBut [.out, .tally] t ∧ t.out = some ⟨true, [0#8]⟩ ∧
        t.tally = { s.tally with buffers := s.tally.buffers ++ [⟨h, base, len, false⟩] }) ∧
    (s.ctx h = some c → ¬ good →
      ∃ t, exec (.registerBuffer h base len) s = .next t ∧ s.SameBut [.out] t ∧ t.out = some ⟨false, [0x17#8]⟩) ∧
    (s.ctx h = some c → (∃ b ∈ s.tally.buffers, b.handle = h ∧ b.base = base) →
      ∃ t, exec (.deregisterBuffer h base) s = .next t ∧ s.SameBut [.out, .tally] t ∧ t.out = some ⟨true, [0#8]⟩ ∧
        t.tally = { s.tally with buffers := t.tally.buffers } ∧ (∀ b ∈ t.tally.buffers, b.handle = h → b.base = base → b.dereg = true) ∧
        ∀ b, (b.handle ≠ h ∨ b.base ≠ base) → (b ∈ t.tally.buffers ↔ b ∈ s.tally.buffers)) ∧
    (∀ b ∈ s.tally.buffers, b.handle = h → b.base = base → b.dereg = true →
      (∀ t k, s.task t = some k → s.namesBuffer k b = false) → tblSorted s.tally.tasks = true →
      ∃ t, exec (.deregistrationComplete h base) s = .next t ∧ s.SameBut [.tally] t ∧
        t.tally = { s.tally with buffers := t.tally.buffers } ∧
        ∀ x, x ∈ t.tally.buffers ↔ x ∈ s.tally.buffers ∧ ¬ (x.handle = h ∧ x.base = base)) ∧
    ((∀ b ∈ s.tally.buffers, b.handle = h → b.base = base → b.dereg = false) → TurnedAway (.deregistrationComplete h base) s) ∧
    (s.ctx h = none → (∃ t, exec (.registerBuffer h base len) s = .next t ∧ s.SameBut [.out] t ∧ t.out = some ⟨false, [0x18#8]⟩) ∧
      ∃ t, exec (.deregisterBuffer h base) s = .next t ∧ s.SameBut [.out] t ∧ t.out = some ⟨false, [0x18#8]⟩)

/-- TEARDOWN_CONTEXT of a live context is answered with status 0; after it no queue but queue 0 belongs to the context, no queue
grants it a right, no buffer, graph or Hall record is its own, and no translation is cached under its handle; a handle that is
no live context is answered with status 0x18 and changes nothing. FAB_DRAIN_DECLARED, taken only while fabric requests alone
are outstanding and twice RCV_FAB_RTT has passed since step 4, leaves none outstanding and changes nothing but the queue
pairs. TEARDOWN_COMPLETE, taken only when nothing is outstanding, takes the next report number and leaves no entry under
teardown for that handle. A response to a handle that is no live context is counted in RCV_LATE, saturating, and changes
nothing else; one to a live context is turned away. -/
def Obligations.TeardownEndsAContext : Prop :=
  ∀ (s : State) (h reportAt : Nat), s.Canonical →
    (∀ c, s.ctx h = some c → ∃ t, exec (.teardownContext h reportAt) s = .next t ∧ s.SameBut (Instr.teardownContext h reportAt).parts t ∧
      t.out = some ⟨true, [0#8]⟩ ∧ (∀ p ∈ t.tally.queues, p.1 ≠ 0 → p.2.owner ≠ h) ∧ (∀ p ∈ t.tally.queues, h ∉ p.2.grants) ∧
      (∀ b ∈ t.tally.buffers, b.handle ≠ h) ∧ (∀ p ∈ t.tally.graphs, p.2.owner ≠ h) ∧ (∀ p ∈ t.hall.bufs, p.2.owner ≠ h) ∧
      (∀ x ∈ t.sys.tlb, x.2.handle ≠ h)) ∧
    (s.ctx h = none → ∃ t, exec (.teardownContext h reportAt) s = .next t ∧ s.SameBut [.out] t ∧ t.out = some ⟨false, [0x18#8]⟩) ∧
    (∀ c, s.tearingCtx h = some c → s.fabricOutstanding h = true → s.chipOutstanding h = false →
      c.tearStamp + usUnits (2 * s.fld Reg.rcvFabRtt Fld.rcvFabRttUs) + 1024 ≤ s.clock.now →
      ∃ t, exec (.fabDrainDeclared h) s = .next t ∧ s.SameBut [.fabric] t ∧ t.fabricOutstanding h = false ∧
        ∀ p, p.2.handle ≠ h → (p ∈ t.fabric.qps ↔ p ∈ s.fabric.qps)) ∧
    (∀ c, s.tearingCtx h = some c → s.fabricOutstanding h = false → s.chipOutstanding h = false →
      ∃ t, exec (.teardownComplete h) s = .next t ∧ s.SameBut (Instr.teardownComplete h).parts t ∧ t.tearingCtx h = none ∧ t.ctx h = none ∧
        t.rcv = { s.rcv with nextReport := (s.rcv.nextReport + 1) % 2 ^ 32, fences := t.rcv.fences }) ∧
    (s.ctx h = none → ∃ t, exec (.lateResponseDiscard h) s = .next t ∧ s.SameBut [.regs] t ∧
      s.OneReg Reg.rcvLate (setBits (s.reg Reg.rcvLate) Fld.rcvLateCount.lsb Fld.rcvLateCount.width
        (satAdd Fld.rcvLateCount.width (s.fld Reg.rcvLate Fld.rcvLateCount) 1)) t) ∧
    (∀ c, s.ctx h = some c → TurnedAway (.lateResponseDiscard h) s)

/-- While the last acknowledgement of a port has not been read since it was judged, every command to the port (enqueue,
submission, ledger enqueue, dequeue, create, destroy, grant, revoke, register and deregister graph) is ignored with event
0x3003 and changes nothing else. PORT_ACK_READ answers the register's 8 bytes and, where done reads 1, makes the port ready;
it changes nothing else. A ready port of a device in bivouac, or whose scheduler does not accept work, answers each command
with status 0x20 and changes nothing else. -/
def Obligations.PortsTakeOneRequestAtATime : Prop :=
  ∀ (s : State) (i q ty : Nat), s.Canonical →
    let all := portCommands i q ty ++
      (if ((s.queue q).map (·.ledger)).getD false then [(.ledgerAcceptance i q ty, cmdWord 0 ty q)] else [])
    (i ∈ s.tally.unread → ∀ c ∈ all, exec c.1 s = .next (s.afterEvent 0x80 6 0x3003 (det [(4, Reg.portCmd i), (4, c.2)]))) ∧
    (∃ t, exec (.portAckRead i) s = .next t ∧ s.SameBut [.out, .tally] t ∧
      t.out = some ⟨true, leBytes 8 (s.reg (Reg.portAck i)).toNat⟩ ∧ t.tally = { s.tally with unread := t.tally.unread } ∧
      (∀ j, j ∈ t.tally.unread ↔ j ∈ s.tally.unread ∧ ¬ (j = i ∧ s.flag (Reg.portAck i) Fld.portAckDone = true))) ∧
    (i ∉ s.tally.unread → s.rcv.bivouac = true ∨ s.tally.accepting = false → ∀ c ∈ all,
      ∃ t, exec c.1 s = .next t ∧ acked t i 0x20 0 ∧ s.SameBut [.regs, .out, .tally] t ∧
        t.tally = { s.tally with unread := t.tally.unread } ∧ ∀ x, x ≠ Reg.portAck i → t.reg x = s.reg x)

/-- Of any list of rules with their status codes, none of them 0, the status returned is one whose rule is broken, no broken rule
has a lower one, and it is 0 only where no rule is broken. An enqueue of a data entry that breaks a rule is acknowledged with
the lowest of the codes that apply to it, and changes nothing but the acknowledgement. -/
def Obligations.RefusedRequestsReturnTheLowestStatus : Prop :=
  (∀ codes : List (Bool × Nat), (∀ x ∈ codes, x.2 ≠ 0) →
    (∀ c, (true, c) ∈ codes → lowest codes ≤ c) ∧ (lowest codes ≠ 0 → (true, lowest codes) ∈ codes) ∧
      (lowest codes = 0 ↔ ∀ x ∈ codes, x.1 = false)) ∧
  ∀ (s : State) (i q ty : Nat), s.Canonical → portReady s i → ty ≠ 1 → lowest (enqueueCodes s (s.portHandle i) q ty) ≠ 0 →
    ∃ t, exec (.enqueue i q ty) s = .next t ∧ acked t i (lowest (enqueueCodes s (s.portHandle i) q ty)) 0 ∧
      s.SameBut [.regs, .out, .tally] t ∧ t.tally = { s.tally with unread := t.tally.unread } ∧
      ∀ x, x ≠ Reg.portAck i → t.reg x = s.reg x

/-- For a queue outside ledger mode without a far end or a gate, owned by a live physical-addressing context, with room and with
its next place at 64 aligned bytes of on-chip memory that takes writes: an append answers the sequence the queue had next, the
queue holds the entry last, bound as asked, and its next sequence is one more modulo 2^32; the 64 bytes at the place hold the
entry, every other byte of memory and every other queue is as before. An append to a full queue answers full and changes
nothing. -/
def Obligations.AppendedEntriesTakeTheNextSequence : Prop :=
  ∀ (s : State) (q ty : Nat) (payload : List Byte) (producer : Nat) (safety : Bool) (bound : Option (Nat × Nat)) (u : Queue), s.Canonical →
    s.queue q = some u → u.ledger = false → u.remote = none → s.pipeOfQueue q = none →
    (u.full = true → (appendEntry q ty payload producer safety bound none noKey).gives s (.error .full) s) ∧
    (∀ c, u.full = false → s.ctx u.owner = some c → c.physical = true →
      let pa := u.base + 64 * freeSlot u
      pa % 64 = 0 → pa < 2 ^ 40 → holdsBytes s pa 64 → (∀ p o, s.place pa ≠ .ddr p o) → tblFind s.sys.cache (pa / 64) = none →
      (c.safety = true ∨ s.safetyPage pa = false) →
      (q = 0 ∨ s.fld Reg.pcieStatus Fld.pcieStatusSpeed = 0 ∨ ∀ v < 16, s.fld (Reg.pcieMsix v) Fld.pcieMsixQueue ≠ q) →
      ∃ t, (appendEntry q ty payload producer safety bound none noKey).gives s (.ok u.next) t ∧
        t.queue q = some { u with
          next := (u.next + 1) % 2 ^ 32
          ents := u.ents ++ [⟨u.next, freeSlot u, ty, producer, safety, leAt payload (4 * u.flowWord) 4, s.clock.now, bound, none⟩] } ∧
        (∀ x, x ≠ q → t.queue x = s.queue x) ∧ s.SameBut [.mem, .sys, .tally] t ∧
        ∀ b, t.byteAt b = if pa ≤ b ∧ b < pa + 64
          then (entryBytes payload s.clock.now u.next producer ty safety).getD (b - pa) 0#8 else s.byteAt b)

/-- For a ready port. ENQUEUE of a data entry that breaks no rule and whose append the queue accepts, and LEDGER_ACCEPTANCE of one
to a ledger-mode queue, is answered with status 0 and the entry's sequence (the acknowledgement of a queue with a peer waits
for the peer). Where no slot waits on the queue and no tile has staging pending, PORT_ACK holds them, PORT_STAMP holds
SiteTime, and nothing changes after the append but those and what the port has unread. TASK_SUBMISSION of a descriptor that
reads well, breaks no rule and finds room, once its append is accepted, is answered with status 0 and the sequence, and takes
the next task number. DEQUEUE by the owner of a queue with an entry to bind, which reads well, is answered with status 0 and
that entry's sequence; where no slot waits on the queue, no tile has staging pending, the queue is outside ledger mode and has
lost no event, DEQ_DATA shows the entry's eight words and the queue holds every entry but that one. -/
def Obligations.EntriesEnterAndLeaveThroughPorts : Prop :=
  ∀ (s : State) (i q ty : Nat), s.Canonical → portReady s i →
    let h := s.portHandle i
    (∀ seq u, ty ≠ 1 → lowest (enqueueCodes s h q ty) = 0 →
      (appendEntry q ty (s.enqBytes i) h (s.safetyOf h) none none noKey).gives s (.ok seq) u →
      ((u.queue q).bind Queue.mirrored).isSome = false →
      ∀ c ∈ [Instr.enqueue i q ty] ++ (if ((s.queue q).map (·.ledger)).getD false then [.ledgerAcceptance i q ty] else []),
        ∃ t, exec c s = .next t ∧ s.SameBut c.parts t ∧ t.out = some ⟨true, leBytes 1 0 ++ leBytes 4 seq⟩ ∧
          (u.Canonical → noStaging u → (∀ x ∈ u.queue q, x.waiters = []) →
            acked t i 0 seq ∧ t.reg (Reg.portStamp i) = BitVec.ofNat 64 u.clock.now ∧ u.SameBut [.regs, .out, .tally] t ∧
            t.tally = { u.tally with unread := t.tally.unread } ∧
            ∀ x, x ≠ Reg.portAck i → x ≠ Reg.portStamp i → t.reg x = u.reg x)) ∧
    (∀ d u seq v, (ctxRead 0x80 h (leAt (s.enqBytes i) 0 8) 128).gives s (.ok d) u → lowest (enqueueCodes s h q 1) = 0 →
      allZero (s.enqBytes i) 8 40 = true → leAt (s.enqBytes i) 0 8 % 64 = 0 → canonical (leAt (s.enqBytes i) 0 8) = true →
      lowestViolation (taskViolations u h (((u.queue q).map (·.ledger)).getD false) d) = none →
      u.hasRoom h none false [d] = true → u.ringBusy h d 0 = false →
      (appendEntry q 1 (s.enqBytes i) h (u.safetyOf h) (some (u.tally.nextTask, 0xFF)) none noKey).gives u (.ok seq) v →
      ((v.queue q).bind Queue.mirrored).isSome = false → v.tally.nextTask = u.tally.nextTask →
      ∃ t, exec (.taskSubmission i q) s = .next t ∧ s.SameBut (Instr.taskSubmission i q).parts t ∧
        t.out = some ⟨true, leBytes 1 0 ++ leBytes 4 seq⟩ ∧ t.tally.nextTask = u.tally.nextTask + 1) ∧
    (∀ x e bs u, s.queue q = some x → bindable x = some e → (s.ctx h).isSome = true → x.owner = h → s.queueFenced x = false →
      (ctxRead 0x80 x.owner (x.base + 64 * e.slot) 64).gives s (.ok bs) u →
      ∃ t, exec (.dequeue i q) s = .next t ∧ s.SameBut (Instr.dequeue i q).parts t ∧
        t.out = some ⟨true, leBytes 1 0 ++ leBytes 4 e.seq⟩ ∧
        (u.Canonical → noStaging u → x.ledger = false → x.waiters = [] → x.evLost = 0 → u.queue q = some x →
          acked t i 0 e.seq ∧ (∀ k < 8, t.reg (Reg.deqData i k) = BitVec.ofNat 64 (leAt bs (8 * k) 8)) ∧
          t.queue q = some { x with ents := x.ents.filter fun y => y.seq != e.seq, left := s.clock.now } ∧
          (∀ y, y ≠ q → t.queue y = u.queue y) ∧ u.SameBut [.regs, .out, .tally] t))

/-- On a ready port of a live context whose payload word 0 names a handle and no reserved bit. By the queue's owner, GRANT to a
handle granted before, or with fewer than 16 grants, is acknowledged with status 0 and grants the handle; REVOKE is
acknowledged with status 0 and leaves it no grant; each changes no other grant, no other field of the queue, no other queue,
and beside the queue only the acknowledgement. A seventeenth grant is refused with status 0x1B and a request of a context that
does not own the queue with 0x15; these change no queue. -/
def Obligations.QueueRightsAreGrantedAndRevoked : Prop :=
  ∀ (s : State) (i q : Nat) (u : Queue), s.Canonical → portReady s i → s.queue q = some u →
    (s.ctx (s.portHandle i)).isSome = true → bitsOf (s.enq i 0) 20 44 = 0 →
    let g := s.enq i 0 % 2 ^ 20
    let only := fun (t : State) (grants : List Nat) => t.queue q = some { u with grants := grants } ∧
      (∀ x, x ≠ q → t.queue x = s.queue x) ∧ t.tally = { s.tally with queues := t.tally.queues, unread := t.tally.unread } ∧
      s.SameBut [.regs, .out, .tally] t ∧ ∀ x, x ≠ Reg.portAck i → t.reg x = s.reg x
    (u.owner = s.portHandle i → g ∈ u.grants ∨ u.grants.length < 16 →
      ∃ t gs, exec (.grant i q) s = .next t ∧ acked t i 0 0 ∧ only t gs ∧ ∀ x, x ∈ gs ↔ x ∈ u.grants ∨ x = g) ∧
    (u.owner = s.portHandle i →
      ∃ t gs, exec (.revoke i q) s = .next t ∧ acked t i 0 0 ∧ only t gs ∧ ∀ x, x ∈ gs ↔ x ∈ u.grants ∧ x ≠ g) ∧
    (u.owner = s.portHandle i → g ∉ u.grants → 16 ≤ u.grants.length →
      ∃ t, exec (.grant i q) s = .next t ∧ acked t i 0x1B 0 ∧ t.queue q = some u ∧ only t u.grants) ∧
    (u.owner ≠ s.portHandle i → ∃ t t', exec (.grant i q) s = .next t ∧ exec (.revoke i q) s = .next t' ∧ acked t i 0x15 0 ∧
      acked t' i 0x15 0 ∧ only t u.grants ∧ only t' u.grants)

/-- On a ready port of a live physical-addressing context. CREATE_QUEUE with well-formed words that ask for no ledger, no pin and
no far end, over a ring in a registered buffer that lies in one class of memory, is acknowledged with status 0 and the lowest
free ID from 1; the new queue is empty with the base, the entries, the order and the flow word asked for, owned by the port's
context, its first sequence 0; every other queue is as before. DESTROY_QUEUE by the owner of a queue other than 0 that holds
no entry, that no live task names and that is not behind a fence is acknowledged with status 0; the queue and its ledger
records are gone, and every other queue is as before (the event stream apart, where the request is forced). Destroying queue 0
is refused with status 0x19 and removes nothing. -/
def Obligations.QueuesAreCreatedAndDestroyed : Prop :=
  ∀ (s : State) (i : Nat) (c : Ctx), s.Canonical → s.Keyed → portReady s i → s.ctx (s.portHandle i) = some c →
    (∀ id, c.physical = true →
      let h := s.portHandle i
      let base := slotAddr (s.enq i 0)
      let n := bitsOf (s.enq i 1) 0 20 + 1
      let order := bitsOf (s.enq i 1) 20 2
      let word := bitsOf (s.enq i 1) 22 4
      let pages := (List.range ((64 * n + base % 4096 + 4095) / 4096)).map fun j => base / 4096 * 4096 + 4096 * j
      bitsOf (s.enq i 1) 26 2 = 0 → bitsOf (s.enq i 1) 29 35 = 0 → (∀ k, 2 ≤ k → k < 6 → s.enq i k = 0) →
      16 ≤ n → order ≠ 3 → (order = 2 ∨ word = 0) → word ≤ 11 → s.enq i 0 % 64 = 0 → bitsOf (s.enq i 0) 48 16 = 0 →
      s.inBuffer h base (64 * n) = true → base + 64 * n ≤ 2 ^ 40 →
      (∃ k, k ≠ 0 ∧ ∀ pa ∈ pages, s.ringClass pa = k) → lowestFree (fun q => (s.queue q).isSome) 0xFFFFF 1 = some id →
      ∃ t u, exec (.createQueue i) s = .next t ∧ acked t i 0 id ∧ s.queue id = none ∧ t.queue id = some u ∧ u.owner = h ∧
        u.base = base ∧ u.entries = n ∧ u.order = order ∧ u.flowWord = word ∧ u.ledger = false ∧ u.pin = false ∧ u.ents = [] ∧
        u.next = 0 ∧ u.grants = [] ∧ u.waiters = [] ∧ u.submitOnly = bitAt (s.enq i 1) 28 ∧
        (∀ x, x ≠ id → t.queue x = s.queue x) ∧ s.SameBut [.regs, .out, .tally] t ∧
        t.tally = { s.tally with queues := t.tally.queues, unread := t.tally.unread } ∧
        ∀ x, x ≠ Reg.portAck i → t.reg x = s.reg x) ∧
    (∀ q u, s.queue q = some u → u.owner = s.portHandle i → q ≠ 0 → u.ents = [] → s.tasksOnQueue q = [] →
      (u.ledger = true → s.uncommitted q = false) → s.queueFenced u = false →
      ∃ t, exec (.destroyQueue i q) s = .next t ∧ acked t i 0 0 ∧ t.queue q = none ∧ (∀ r ∈ t.tally.ledger, r.queue ≠ q) ∧
        (∀ x, x ≠ q → x ≠ 0 → t.queue x = s.queue x) ∧ (bitAt (s.enq i 0) 0 = false → t.queue 0 = s.queue 0) ∧
        s.SameBut [.mem, .regs, .out, .sys, .tally] t) ∧
    (∀ u, s.queue 0 = some u → ∃ t code, exec (.destroyQueue i 0) s = .next t ∧ acked t i code 0 ∧ code ≠ 0 ∧ code ≤ 0x19 ∧
      (u.owner = s.portHandle i → code = 0x19) ∧ ∀ x, t.queue x = s.queue x)

/-- On a ready port of a live context. REGISTER_GRAPH whose words are well formed, whose table reads well from a registered
buffer, none of whose templates breaks a rule, whose consumers, credits and resources are admitted, is acknowledged with
status 0 and the lowest free number; the graph holds the templates read, no instance so far, and belongs to the port's
context. DEREGISTER_GRAPH by the owner marks the graph and changes nothing else of it; GRAPH_DEREGISTRATION_DONE, taken only
when it is marked and has no live instance, removes it. Each leaves every other graph. -/
def Obligations.GraphsAreRegisteredAndDeregistered : Prop :=
  ∀ (s : State) (i : Nat), s.Canonical → s.Keyed →
    (∀ bs u id, portReady s i → (s.ctx (s.portHandle i)).isSome = true →
      let h := s.portHandle i
      let w1 := s.enq i 1
      let table := slotAddr (s.enq i 0)
      let count := bitsOf w1 0 10 + 1
      let cadence := bitsOf w1 13 2
      let ds := (List.range count).map fun j => (bs.drop (128 * j)).take 128
      let g : Graph := ⟨h, ds, bitsOf w1 10 3 + 1, cadence, bitsOf w1 15 5, bitsOf w1 20 3, s.enq i 2, s.enq i 3 % 2 ^ 32, 0, [], false⟩
      bitsOf w1 23 41 = 0 → bitsOf (s.enq i 3) 32 32 = 0 → s.enq i 4 = 0 → s.enq i 5 = 0 → cadence ≠ 3 →
      (cadence = 1 ∨ bitsOf w1 15 5 = 0) →
      (if cadence = 2 then bitsOf w1 20 3 = 0 ∧ slotMu (s.enq i 3 % 2 ^ 32) ≠ none
        else bitsOf w1 20 3 = 0 ∧ s.enq i 2 = 0 ∧ s.enq i 3 = 0) →
      s.enq i 0 % 64 = 0 → bitsOf (s.enq i 0) 48 16 = 0 → s.inBuffer h table (128 * count) = true →
      (ctxRead 0x80 h table (128 * count)).gives s (.ok bs) u → u.Canonical →
      (∀ d ∈ ds, lowestViolation (taskViolations u h false d ++ templateViolations count cadence d) = none) →
      u.tooManyConsumers h ds = false → u.canReserve g = true → u.creditCycle h ds = false →
      lowestFree (fun x => (tblFind u.tally.graphs x).isSome) 16384 0 = some id →
      ∃ t, exec (.registerGraph i) s = .next t ∧ acked t i 0 id ∧ tblFind t.tally.graphs id = some g ∧
        (∀ x, x ≠ id → tblFind t.tally.graphs x = tblFind u.tally.graphs x) ∧ u.SameBut [.regs, .out, .tally] t ∧
        t.tally = { u.tally with graphs := t.tally.graphs, unread := t.tally.unread }) ∧
    (∀ gr, portReady s i → (s.ctx (s.portHandle i)).isSome = true →
      let g := s.enq i 0 % 2 ^ 14
      tblFind s.tally.graphs g = some gr → gr.owner = s.portHandle i →
      ∃ t, exec (.deregisterGraph i) s = .next t ∧ acked t i 0 0 ∧ tblFind t.tally.graphs g = some { gr with dereg := true } ∧
        (∀ x, x ≠ g → tblFind t.tally.graphs x = tblFind s.tally.graphs x) ∧ s.SameBut [.regs, .out, .tally] t ∧
        t.tally = { s.tally with graphs := t.tally.graphs, unread := t.tally.unread }) ∧
    (∀ g gr, tblFind s.tally.graphs g = some gr → gr.dereg = true → (∀ p ∈ s.tally.instances, p.2.tmpl ≠ g) →
      ∃ t, exec (.graphDeregistrationDone g) s = .next t ∧ s.SameBut [.tally] t ∧ tblFind t.tally.graphs g = none ∧
        (∀ x, x ≠ g → tblFind t.tally.graphs x = tblFind s.tally.graphs x) ∧ t.tally = { s.tally with graphs := t.tally.graphs }) ∧
    (∀ g p, p ∈ s.tally.instances → p.2.tmpl = g → TurnedAway (.graphDeregistrationDone g) s)

/-- TOKEN_ARRIVAL for a key from 1 to 4,095, no tile having staging pending. Under a handle that is no live context the token is
discarded and RCV_LATE counts it. With no slot waiting, the key's count of ok (or of failed) tokens grows by one and nothing
else changes; a count that stands at 65,535 stays and event 0x3101 is raised instead. With a slot waiting, the oldest one
leaves the key's waiters, and where its task has other slots missing exactly that slot stops missing, the task taking the
token's failed mark; no count changes. -/
def Obligations.TokensReachTheOldestWaiter : Prop :=
  ∀ (s : State) (h key : Nat) (failed : Bool), s.Canonical → 1 ≤ key → key < 4096 →
    let c := Instr.tokenArrival h key failed
    let b := h * 4096 + key
    let e := tblGet s.tally.board ⟨[], 0, 0⟩ b
    let boardOnly := fun (t : State) => s.SameBut [.tally] t ∧ t.tally = { s.tally with board := t.tally.board } ∧
      ∀ x, x ≠ b → tblFind t.tally.board x = tblFind s.tally.board x
    (s.ctx h = none → ∃ t, exec c s = .next t ∧ s.SameBut [.regs] t ∧
      s.OneReg Reg.rcvLate (setBits (s.reg Reg.rcvLate) Fld.rcvLateCount.lsb Fld.rcvLateCount.width
        (satAdd Fld.rcvLateCount.width (s.fld Reg.rcvLate Fld.rcvLateCount) 1)) t) ∧
    ((s.ctx h).isSome = true → noStaging s →
      (e.waiters = [] → failed = false → e.ok < 65535 → ∃ t, exec c s = .next t ∧ boardOnly t ∧
        tblGet t.tally.board ⟨[], 0, 0⟩ b = { e with ok := e.ok + 1 }) ∧
      (e.waiters = [] → failed = true → e.failed < 65535 → ∃ t, exec c s = .next t ∧ boardOnly t ∧
        tblGet t.tally.board ⟨[], 0, 0⟩ b = { e with failed := e.failed + 1 }) ∧
      (e.waiters = [] → 65535 ≤ (if failed then e.failed else e.ok) →
        exec c s = .next (s.afterEvent 0x80 6 0x3101 (det [(4, h % 2 ^ 20 + key * 2 ^ 20)]))) ∧
      ∀ n sl rest k, e.waiters = (n, sl) :: rest → s.task n = some k → sl ∈ k.missing → k.missing.filter (· ≠ sl) ≠ [] →
        k.missing ≠ [sl] ∧ ∃ t, exec c s = .next t ∧ s.SameBut [.tally] t ∧
          t.tally = { s.tally with board := t.tally.board, tasks := t.tally.tasks } ∧
          (∀ x, x ≠ b → tblFind t.tally.board x = tblFind s.tally.board x) ∧
          tblGet t.tally.board ⟨[], 0, 0⟩ b = { e with waiters := rest } ∧
          OneTask s n (some { k with missing := k.missing.filter (· ≠ sl), failed := k.failed || failed }) t)

/-- DISPATCH of an engine that can take a task: some task is picked, it leaves every ready list, is assigned and stands in the
engine's prefetched stall; a power-gated engine that is not awake begins to wake; no other task, no other stall and no other
component changes. TASK_START, taken when the prefetched task has its descriptors read, the engine serves, is awake and its
running stall is empty: the task runs from now in the running stall, the prefetched stall is empty, no save area holds it, its
start stamp is its first start. Where these conditions fail each command is turned away. -/
def Obligations.EnginesTakeReadyTasksAndStartThem : Prop :=
  ∀ (s : State) (e : Nat), s.Keyed →
    (s.canDispatch e = true → ∃ n k t, s.pick e = some n ∧ s.task n = some k ∧ exec (.dispatch e) s = .next t ∧
      s.SameBut [.tally, .engines] t ∧ t.tally = { s.tally with tasks := t.tally.tasks, ready := t.tally.ready } ∧
      OneTask s n (some { k with life := .assigned, engine := if s.isSaved n then k.engine else baseEngine e }) t ∧
      (∀ l ∈ t.tally.ready, n ∉ l.2) ∧ (t.engine e).next = some n ∧ (t.engine e).running = (s.engine e).running ∧
      (gated (baseEngine e) = true → (s.engine (baseEngine e)).power ≠ .awake → (t.engine (baseEngine e)).power = .waking) ∧
      ∀ x, x ≠ e → x ≠ baseEngine e → t.engine x = s.engine x) ∧
    (s.canDispatch e = false → TurnedAway (.dispatch e) s) ∧
    (∀ n k, (s.engine e).next = some n → s.task n = some k → s.canStart e = true → ∃ t, exec (.taskStart e) s = .next t ∧
      s.SameBut [.tally, .engines] t ∧ t.tally = { s.tally with tasks := t.tally.tasks } ∧
      OneTask s n (some { k with
        life := .running
        engine := baseEngine e
        runAt := s.clock.now
        start := if k.start = 0 then s.clock.now else k.start }) t ∧
      (t.engine e).running = some n ∧ (t.engine e).next = none ∧ (t.engine e).preempting = false ∧ (t.engine e).beat = s.clock.now ∧
      (∀ p ∈ t.engines, n ∉ p.2.saved) ∧ ∀ x, x ≠ e → n ∉ (s.engine x).saved → t.engine x = s.engine x) ∧
    (∀ n k, (s.engine e).next = some n → s.task n = some k → k.fetched = false → TurnedAway (.taskStart e) s) ∧
    ((s.engine e).running.isSome = true → TurnedAway (.taskStart e) s)

/-- DESCRIPTOR_FETCH for the task in a serving engine's prefetched stall that has not been read. Where the descriptors and the
parameter block read well, break no rule, and no output overlaps an operand, the task holds them and counts as read, and no
other task changes. A set that breaks a rule is treated as invalid with the slot and offset of the first violation, and an
error response as a fault in mid-stream, each from the state the reads leave. A task already read, or an engine not serving,
turns the command away. -/
def Obligations.DescriptorsAreReadAndCheckedBeforeTheStart : Prop :=
  ∀ (s : State) (e n : Nat) (k : Task), (s.engine e).next = some n → s.task n = some k →
    let c := Instr.descriptorFetch e
    let reads : M Fetched := do
      let f ← readDescs k (← descAddrs k) ⟨[], [], [], none⟩
      if f.err.isSome then pure f else readParams k f
    (∀ f u, k.fetched = false → s.serving e = true → reads.gives s f u →
      let k' := { k with tds := f.tds, params := f.params }
      let ts := u.operands k'
      let own := f.bad ++ setViolations u k' (dOpcode k.desc) ts
      let all := firstViolation (if own.isEmpty then opViolations u k' ts else own ++ opViolations u k' ts)
      (f.err = none → all = none → u.extraConsumer n k' = none → overlapping (dOpcode k.desc) ts = none →
        CompletesThen c s (do settleAll (← homeEvents n k' ts)) fun v => u.SameBut [.tally] v ∧
          v.tally = { u.tally with tasks := v.tally.tasks } ∧
          ∀ x, u.task n = some x → OneTask u n (some { x with tds := f.tds, params := f.params, fetched := true }) v) ∧
      (∀ sl off, f.err = none → all = some (sl, off) → CompletesThen c s (descriptorInvalid n sl off) fun v => v = u) ∧
      (∀ i o, f.err = none → all = none → u.extraConsumer n k' = none → overlapping (dOpcode k.desc) ts = some (i, o) →
        CompletesThen c s (do
          settleAll (← raiseFor n k.engine (partOf k.engine) 0x3301 (taskDetail [(1, i), (1, o)] k 0xFF))
          finish n 1) fun v => v = u) ∧
      ∀ x, f.err = some x → CompletesThen c s (opFault n x) fun v => v = u) ∧
    (k.fetched = true → TurnedAway c s) ∧ (s.serving e = false → TurnedAway c s)

/-- For an engine whose running task is in the store. BLOCK_STEP_END without a mismatch counts a step of the task and beats; with
a mismatching lane of a tile it counts none, records the lane and shows it in TT_STATUS. ABFT_RECOMPUTE_DONE that passes
counts the step, adds one to the retried count and the lane's record, and, the lane below its limit, raises event 0x4401 for
the task; one that fails adds one to the failed count, raises 0x4402, stops the task with status aborted and starts the tile's
rung 2. PREEMPT_SAVE frees the running stall, keeps the task as saved and pre-empted once more, writes no memory beside the
tile's 64 KiB save area, and the task re-enters its list at the head. -/
def Obligations.BoundariesAreCountedAndMismatchesRecomputed : Prop :=
  ∀ (s : State) (e n : Nat) (k : Task), s.Canonical → (s.engine e).running = some n → s.task n = some k →
    let g := s.engine e
    ((s.engine e).recompute = none → ∃ t, exec (.blockStepEnd e none) s = .next t ∧ s.SameBut [.tally, .engines] t ∧
      OneTask s n (some { k with steps := k.steps + 1 }) t ∧ t.tally = { s.tally with tasks := t.tally.tasks } ∧
      OneEngine s e { g with beat := s.clock.now, recompute := none } t) ∧
    (∀ lane, (s.engine e).recompute = none → e < 0x20 → lane < 64 →
      ∃ t, exec (.blockStepEnd e (some lane)) s = .next t ∧ s.SameBut [.regs, .engines] t ∧
        OneEngine s e { g with beat := s.clock.now, recompute := some lane } t ∧
        s.OneReg (Reg.ttStatus e) (setBits (s.reg (Reg.ttStatus e)) Fld.ttStatusLastLane.lsb Fld.ttStatusLastLane.width lane) t) ∧
    (∀ lane, (s.engine e).recompute.isSome = true → TurnedAway (.blockStepEnd e lane) s) ∧
    (∀ lane, e < 0x20 → (s.engine e).recompute = some lane →
      let recent := (g.lanes.filter fun x => s.clock.now ≤ x.2 + dayUnits) ++ [(lane, s.clock.now)]
      let count := fun (f : Field) => setBits (s.reg (Reg.ttAbftCnt e)) f.lsb f.width (satAdd f.width (s.fld (Reg.ttAbftCnt e) f) 1)
      let detail := taskDetail [(1, lane), (1, 0), (2, k.steps % 65536)] k 0xFF
      (recent.filter fun x => x.1 == lane).length < s.fld (Reg.ttAbftCtl e) Fld.ttAbftCtlLaneLimit →
      CompletesThen (.abftRecomputeDone e true) s (do settleAll (← raiseFor n e (partOf e) 0x4401 detail)) (fun u =>
        s.SameBut [.regs, .tally, .engines] u ∧ OneTask s n (some { k with steps := k.steps + 1 }) u ∧
        OneEngine s e { g with recompute := none, lanes := recent } u ∧
        s.OneReg (Reg.ttAbftCnt e) (count Fld.ttAbftCntRetried) u) ∧
      CompletesThen (.abftRecomputeDone e false) s (do
        settleAll (← raiseFor n e (partOf e) 0x4402 detail)
        faultTask n false false 1
        trigger (.engine e) 0x4402 s.clock.now 0 false) (fun u =>
        s.SameBut [.regs, .engines] u ∧ OneEngine s e { g with recompute := none, lanes := recent } u ∧
        s.OneReg (Reg.ttAbftCnt e) (count Fld.ttAbftCntFailed) u)) ∧
    (∀ m, g.preempting = true → g.next = some m → g.saved.length < saveLimit e →
      let area := 0x4020000000 + partOf e * 0x1000000 + s.fld (Reg.save (partOf e)) Fld.saveSlot * 0x200000
        + (e % 8 * 4 + g.saved.length) * 0x10000
      CompletesThen (.preemptSave e) s (do let _ ← enlist n true) fun u =>
        s.SameBut [.mem, .regs, .free, .tally, .engines] u ∧
        OneTask s n (some { k with
          life := .preempted
          preempts := k.preempts + 1
          used := k.used + (s.clock.now - k.runAt)
          fetched := false }) u ∧
        OneEngine s e { g with running := none, saved := g.saved ++ [n], preempting := false } u ∧
        (∀ a, (a < area ∨ area + 0x10000 ≤ a ∨ 0x20 ≤ e) → u.byteAt a = s.byteAt a)) ∧
    (g.preempting = false → TurnedAway (.preemptSave e) s)

/-- A task that ends with any status is no longer in the store, on a ready list, in a stall or in a save area. TASK_END, for a
running task that is done with nothing left to append or fill, adds the cycles it took to the task (and to a tile's busy
count) and ends it completed. NOP ends its task completed at once. DELAY_FIRE of a task's entry whose tick edge is reached
removes that entry and ends the task completed; of a cadence symbol it gives that symbol's token. BUDGET_EXPIRY raises event
0x5101, stops the task with status timed out, and starts rung 1 for the engine and context; PROGRESS_WATCHDOG raises 0x5501
and stops the cycle's youngest task aborted; MIDSTREAM_FAULT stops the running task with the fault its reason names. Each is
turned away where its cause is absent. -/
def Obligations.TasksEndWithTheirStatus : Prop :=
  (∀ (s : State) (i : Nat) (x : DelayEntry), s.tally.delay[i]? = some x →
    (x.task = none → tickEdge x.list x.due ≤ s.clock.now →
      CompletesThen (.delayFire i) s (settleAll [.token ((2 ^ 20 + x.inst) * 4096 + 0xBF0 + x.symbol) false]) fun u =>
        s.SameBut [.tally] u ∧ u.tally = { s.tally with delay := s.tally.delay.eraseIdx i }) ∧
    (s.clock.now < x.due → TurnedAway (.delayFire i) s)) ∧
  (∀ (s : State) (cycle : List Nat), s.stuckCycle cycle = false → TurnedAway (.progressWatchdog cycle) s) ∧
  ∀ (s : State) (n : Nat) (k : Task), s.Canonical → s.Keyed → s.task n = some k →
    (∀ status, ∃ ws u, (endTask n status).gives s ws u ∧ u.task n = none ∧ (∀ l ∈ u.tally.ready, n ∉ l.2) ∧
      (∀ p ∈ u.engines, p.2.running ≠ some n ∧ p.2.next ≠ some n ∧ n ∉ p.2.saved)) ∧
    (∀ e cycles, (s.engine e).running = some n → k.done = true → k.pendingAppends = [] → k.ringOut = [] →
      CompletesThen (.taskEnd e cycles) s (do
        finish n 0
        let t ← getS
        modEngine e fun g => { g with beat := t.clock.now }
        if (t.engine e).bypassed then presenceChanged) fun u => s.SameBut [.regs, .tally] u ∧
          OneTask s n (some { k with cycles := k.cycles + cycles }) u ∧
          (∀ x, x ≠ Reg.ttBusy e ∨ 0x20 ≤ e → u.reg x = s.reg x) ∧
          (e < 0x20 → u.fld (Reg.ttBusy e) Fld.ttBusyCycles =
            satAdd Fld.ttBusyCycles.width (s.fld (Reg.ttBusy e) Fld.ttBusyCycles) cycles)) ∧
    (∀ e cycles, (s.engine e).running = some n → (k.done = false ∨ k.pendingAppends ≠ [] ∨ k.ringOut ≠ []) →
      TurnedAway (.taskEnd e cycles) s) ∧
    (k.life = .tally → k.pendingAppends = [] → dOpcode k.desc = 0 → CompletesThen (.nop n) s (finish n 0) fun u => u = s) ∧
    (∀ i x, s.tally.delay[i]? = some x → tickEdge x.list x.due ≤ s.clock.now → x.task = some n →
      CompletesThen (.delayFire i) s (finish n 0) fun u => s.SameBut [.tally] u ∧
        u.tally = { s.tally with delay := s.tally.delay.eraseIdx i }) ∧
    (∀ e, e ≠ 0x80 → (s.engine e).running = some n → k.runAt + (s.budget k - k.used) + settleMargin ≤ s.clock.now →
      CompletesThen (.budgetExpiry e) s (do
        settleAll (← raiseFor n 0x80 6 0x5101 (taskDetail [(4, 0)] k 0xFF))
        faultTask n false false 3
        trigger (.ctxEngine (baseEngine e) k.handle) 0x5101 s.clock.now 0 false) fun u => u = s) ∧
    (∀ e, e ≠ 0x80 → (s.engine e).running = some n → s.clock.now < k.runAt + (s.budget k - k.used) + settleMargin →
      TurnedAway (.budgetExpiry e) s) ∧
    (∀ reason, k.life = .running →
      CompletesThen (.midstreamFault n reason) s (faultTask n (reason == 0) (reason == 1) 1) fun u => u = s) ∧
    (∀ reason, k.life ≠ .running → TurnedAway (.midstreamFault n reason) s) ∧
    (∀ cycle, s.stuckCycle cycle = true → cycle.foldl max 0 = n → CompletesThen (.progressWatchdog cycle) s (do
        settleAll (← raiseFor n 0x80 6 0x5501 (taskDetail [(1, min cycle.length 255)] k 0xFF))
        faultTask n false false 1) fun u => u = s)

/-- For a staged task's held list. COMMIT of an entry with no commit or close record, once both copies of the commit record are
written, marks the list committed; of an entry that has one it raises event 0x0202, drops the held effects and the entry
leaves its ring, and no effect of the list is performed. HELD_EFFECT_RELEASE of a committed list releases its first undone
effect, marks it done and goes on, or stops there if the target must be waited for; with nothing left to do it drops the list
and the entry leaves; it is turned away while the queue's order holds it back. QUEUE_APPEND of a task's held append to a queue
with room appends it; a POST whose append is accepted ends completed, and a staged POST holds its append as an effect and
ends. A POST to a queue it has no right to is invalid in slot 8; one to a full queue holds. -/
def Obligations.StagedEffectsAreReleasedOnlyAfterTheCommit : Prop :=
  ∀ (s : State) (n : Nat), s.Canonical →
    (∀ l, s.heldOf n = some l →
      (s.settled l.queue l.seq = true → CompletesThen (.commit n) s (do settleAll (← leaveEntry l.queue l.seq)) fun u =>
        u.tally.heldLists = s.tally.heldLists.filter (fun y => y.task != n) ∧
        Quiet s { u with tally := { u.tally with heldLists := s.tally.heldLists } }) ∧
      (∀ v, s.settled l.queue l.seq = false → (writeLedger l.queue l.seq 2 0 0 0 noKey 0 0).gives s true v →
        CompletesThen (.commit n) s (noteCommit n) fun u => v.SameBut [.tally] u ∧
          u.tally = { v.tally with heldLists := v.tally.heldLists.map fun y => if y.task = n then { y with committed := true } else y })) ∧
    (s.heldOf n = none → TurnedAway (.commit n) s) ∧
    (∀ q seq l, s.committedOf q seq = some l → s.mayRelease q seq = true → (∀ x ∈ l.effects, x.2 = true) →
      CompletesThen (.heldEffectRelease q seq) s (do settleAll (← leaveEntry q seq)) fun u => s.SameBut [.tally] u ∧
        u.tally = { s.tally with heldLists := s.tally.heldLists.filter fun y => y.task != l.task }) ∧
    (∀ q seq l pre e post, s.committedOf q seq = some l → s.mayRelease q seq = true → (∀ x ∈ pre, x.2 = true) →
      l.effects = pre ++ (e, false) :: post →
      (∀ ws v, (releaseOne l e).gives s (false, ws) v → v.tally.heldLists = s.tally.heldLists → exec (.heldEffectRelease q seq) s = .next v) ∧
      ∀ ws v, (releaseOne l e).gives s (true, ws) v → CompletesThen (.heldEffectRelease q seq) s (do
          settleAll ws
          releaseAll l post
          let t ← getS
          match t.committedOf q seq with
          | none => pure ()
          | some l =>
            if l.effects.all (·.2) then
              modTally fun x => { x with heldLists := x.heldLists.filter fun y => y.task != l.task }
              settleAll (← leaveEntry q seq)) fun u => v.SameBut [.tally] u ∧ u.tally = { v.tally with
        heldLists := v.tally.heldLists.map fun y => if y.task = l.task then { y with effects := markDone y.effects } else y }) ∧
    (∀ q seq, s.mayRelease q seq = false → TurnedAway (.heldEffectRelease q seq) s) ∧
    (∀ k q slot payload rest seq v, s.task n = some k → k.pendingAppends = (q, slot, payload) :: rest → s.canAppend q = true →
      (appendEntry q 0 payload k.handle (s.safetyOf k.handle) none (some k) noKey).gives s (.ok seq) v →
      (∀ x, v.task n = some x → CompletesThen (.queueAppend n) s (do
          settleAll [.bind q]
          let t ← getS
          if ((t.task n).map fun k => k.life == .tally).getD false then finish n 0) fun u => v.SameBut [.tally] u ∧
        OneTask v n (some { x with pendingAppends := [], appended := x.appended + 1 }) u)) ∧
    (∀ k q slot payload rest, s.task n = some k → k.pendingAppends = (q, slot, payload) :: rest → s.canAppend q = false →
      TurnedAway (.queueAppend n) s) ∧
    (∀ k p u, s.task n = some k → k.life = .tally → k.pendingAppends = [] → dOpcode k.desc = 3 →
      (ctxRead 0x80 k.handle (dParam k.desc) 64).gives s (.ok p) u → u.task n = some k → allZero p 48 16 = true →
      let q := slotQueue (dSlot k.desc 8)
      (s.mayEnqueue k.handle q = false → CompletesThen (.post n) s (descriptorInvalid n 8 0) fun v => v = u) ∧
      (s.mayEnqueue k.handle q = true → s.gateRefuses q (some k) = false → dStaged k.desc = true →
        CompletesThen (.post n) s (finish n 0) fun v => u.SameBut [.tally] v ∧
          OneTask u n (some { k with effects := k.effects ++ [(.append q 0 0 (p.take 48), false)] }) v) ∧
      (s.mayEnqueue k.handle q = true → s.gateRefuses q (some k) = false → dStaged k.desc = false →
        ∀ x, u.canAppend q = false → u.queue q = some x → ∃ t, exec (.post n) s = .next t ∧ u.SameBut [.tally] t ∧
          OneTask u n (some { k with runAt := s.clock.now, pendingAppends := [(q, 0, p.take 48)] }) t) ∧
      (s.mayEnqueue k.handle q = true → s.gateRefuses q (some k) = false → dStaged k.desc = false → u.canAppend q = true →
        ∀ seq v, (do
            modTask n fun k => { k with runAt := s.clock.now }
            appendEntry q 0 (p.take 48) k.handle (u.safetyOf k.handle) none (some { k with runAt := s.clock.now }) noKey).gives u (.ok seq) v →
          CompletesThen (.post n) s (do
            settleAll [.bind q]
            finish n 0) fun w => v.SameBut [.tally] w ∧
              ∀ x, v.task n = some x → OneTask v n (some { x with pendingAppends := [], appended := x.appended + 1 }) w))

/-- A FAULT_RESUME write by the BCC or an application core above user mode that names a live page-fault hold by the full handle of
its faulting task resumes the chain; with abandon set it ends it for reason 1 and after the hold's limit for reason 3, the
hold being gone in each case. A write that names no such hold raises event 0x3501 and nothing else; one by another writer is
refused with the register-refusal event and changes nothing else. HOLD_LIMIT_EXPIRY of a hold past its limit ends its chain
for reason 3; before the limit it is turned away. -/
def Obligations.HoldsEndByResumptionAbandonmentOrTheirLimit : Prop :=
  ∀ (s : State) (w : Requester) (i handle : Nat),
    let named := ∃ x n rest k, tblFind s.tally.holds i = some x ∧ x.reason = 0 ∧ x.chain = n :: rest ∧ s.task n = some k ∧ k.handle = handle
    let writes := [(Instr.faultResume w i handle, false), (Instr.faultResumeAbandon w i handle, true)]
    let gone := fun (u : State) => s.SameBut [.tally] u ∧ u.tally = { s.tally with holds := tblDel s.tally.holds i }
    (privileged w = true → ¬ named → ∀ c ∈ writes,
      exec c.1 s = .next (s.afterEvent 0x80 6 0x3501 (det [(4, i % 1024 + flagBit c.2 * 1024 + handle % 2 ^ 20 * 4096)]))) ∧
    (privileged w = false → ∀ c ∈ writes,
      exec c.1 s = .next (refusedWrite s Reg.faultResume (i % 1024 + flagBit c.2 * 1024 + handle % 2 ^ 20 * 4096) 0)) ∧
    (∀ x, privileged w = true → named → tblFind s.tally.holds i = some x →
      (x.stamp + s.holdLimit < s.clock.now → ∀ c ∈ writes, CompletesThen c.1 s (endChain x.chain 1 i 3) gone) ∧
      (s.clock.now ≤ x.stamp + s.holdLimit → CompletesThen (.faultResumeAbandon w i handle) s (endChain x.chain 1 i 1) gone ∧
        CompletesThen (.faultResume w i handle) s (resumeHold i) fun u => u = s)) ∧
    (∀ x, tblFind s.tally.holds i = some x →
      (x.stamp + s.holdLimit + settleMargin ≤ s.clock.now →
        CompletesThen (.holdLimitExpiry i) s (endChain x.chain 1 i 3) gone) ∧
      (s.clock.now < x.stamp + s.holdLimit + settleMargin → TurnedAway (.holdLimitExpiry i) s)) ∧
    (tblFind s.tally.holds i = none → TurnedAway (.holdLimitExpiry i) s)

/-- For an unsealed ring record. BAND_FILLED by the running producer of a formed band, whose write the memory takes: the band
leaves what the task holds formed, the task counts a step, the ring's fill grows by one with its stamp and its fill flag's
count by one; the slots that waited for the band are then satisfied. BAND_RELEASED by a running consumer with a filled band:
once the band's bytes are read the task keeps them, counts a step, and its own released count grows by one; the ring's credit
is then settled. With no formed band, or nothing filled, each is turned away. -/
def Obligations.BandsAreFilledAndReleasedInOrder : Prop :=
  ∀ (s : State) (n rec : Nat) (k : Task) (b : HallBuf), s.task n = some k → tblFind s.hall.bufs rec = some b → b.sealed = false →
    (∀ sl key bytes u, k.ringOf rec true = some (sl, key) → k.ringOut.find? (fun p => p.1 == sl) = some (sl, bytes) →
      let r := s.ring key
      k.life = .running → r.producer = some n → r.fill < r.credit + b.depthM1 + 1 →
      (ctxWrite k.engine k.handle (b.bandAddr (key % 8) r.fill) bytes).gives s none u → u.task n = some k → u.ring key = r →
      CompletesThen (.bandFilled n rec) s (settleAll (r.waiters.map fun w => .slot w.1 w.2 false)) fun v =>
        u.SameBut [.tally, .engines, .hall] v ∧ OneTask u n (some { k with ringOut := k.ringOut.erase (sl, bytes), steps := k.steps + 1 }) v ∧
        v.ring key = { r with fill := r.fill + 1, waiters := [], moved := s.clock.now, stamps := r.stamps ++ [s.clock.now] } ∧
        (∀ x, x ≠ key → v.ring x = u.ring x) ∧
        (v.hflag (b.fillFlag + 2 * (key % 8))) =
          { u.hflag (b.fillFlag + 2 * (key % 8)) with count := ((u.hflag (b.fillFlag + 2 * (key % 8))).count + 1) % 2 ^ 32 }) ∧
    (k.ringOut = [] → TurnedAway (.bandFilled n rec) s) ∧
    (∀ sl key j bytes u, k.ringOf rec false = some (sl, key) →
      let r := s.ring key
      k.life = .running → r.consumers.find? (fun c => c.1 == n) = some (n, j) → j < r.fill →
      (ctxRead k.engine k.handle (b.bandAddr (key % 8) j) b.bandBytes).gives s (.ok bytes) u → u.task n = some k → u.ring key = r →
      CompletesThen (.bandReleased n rec) s (settleCredit key) fun v =>
        u.SameBut [.tally, .engines] v ∧ OneTask u n (some { k with ringIn := k.ringIn ++ [(sl, j, bytes)], steps := k.steps + 1 }) v ∧
        v.ring key = { r with
          moved := s.clock.now
          consumers := r.consumers.map fun c => if c.1 = n then (n, c.2 + 1) else c } ∧
        ∀ x, x ≠ key → v.ring x = u.ring x) ∧
    (∀ sl key, k.ringOf rec false = some (sl, key) → (∀ c ∈ (s.ring key).consumers, c.1 = n → (s.ring key).fill ≤ c.2) →
      TurnedAway (.bandReleased n rec) s)

/-- For a task of Tally's whose parameter block reads well. DELAY with a list up to 7, zero reserved bytes, a due time not past
and room on the list enters it once and the task counts as delayed; with a due time already past it ends completed at once; on
a full list event 0x4102 is raised and it ends aborted; a list above 7 or a nonzero reserved byte is invalid at offset 8 or 9.
INSTANTIATE of a registered event-less graph of its own context makes an instance, counts it and ends completed; of any other
graph it is invalid at offset 0. SLOT_INSTANCE_CREATE, taken when the slot of the graph's next instance is due, counts an
instance; if it is created the 14 symbols of its air slot enter the graph's list, each at its stamp. Before it is due the
command is turned away. -/
def Obligations.DelaysAndInstancesAreMade : Prop :=
  ∀ (s : State),
    (∀ n k p u, s.task n = some k → k.life = .tally → k.pendingAppends = [] →
      (ctxRead 0x80 k.handle (dParam k.desc) 64).gives s (.ok p) u → u.task n = some k →
      let due := leAt p 0 8
      let list := leAt p 8 1
      (dOpcode k.desc = 1 → 7 < list → CompletesThen (.delay n) s (descriptorInvalid n 0xFE 8) fun v => v = u) ∧
      (dOpcode k.desc = 1 → list ≤ 7 → allZero p 9 55 = false → CompletesThen (.delay n) s (descriptorInvalid n 0xFE 9) fun v => v = u) ∧
      (dOpcode k.desc = 1 → list ≤ 7 → allZero p 9 55 = true →
        (due < s.clock.now → CompletesThen (.delay n) s (finish n 0) fun v => v = u) ∧
        (s.clock.now ≤ due → s.delayUsed list < s.delaySize list → ∃ t, exec (.delay n) s = .next t ∧ u.SameBut [.tally] t ∧
          t.tally = { u.tally with delay := u.tally.delay ++ [⟨list, due, some n, 0, 0⟩], tasks := t.tally.tasks } ∧
          OneTask u n (some { k with life := .delayed }) t) ∧
        (s.clock.now ≤ due → s.delaySize list ≤ s.delayUsed list → CompletesThen (.delay n) s (finish n 1) fun v =>
          v = u.afterEvent 0x80 6 0x4102 (det [(4, list)]))) ∧
      (dOpcode k.desc = 2 → leAt p 0 2 < 2 ^ 14 → allZero p 2 62 = true →
        (∀ x inst v, tblFind s.tally.graphs (leAt p 0 2) = some x → x.cadence = 0 → x.owner = k.handle → x.dereg = false →
          s.stillGood x = true → (createInstance (leAt p 0 2) x.number k.readyAt 0).gives u (.ok inst) v →
          CompletesThen (.instantiate n) s (do
            let _ ← countInstance (leAt p 0 2)
            finish n 0) fun w => w = v) ∧
        ((∀ x, tblFind s.tally.graphs (leAt p 0 2) = some x → x.cadence ≠ 0 ∨ x.owner ≠ k.handle ∨ x.dereg = true) →
          CompletesThen (.instantiate n) s (descriptorInvalid n 0xFE 0) fun v => v = u))) ∧
    (∀ g gr, tblFind s.tally.graphs g = some gr →
      let mu := (slotMu gr.period).getD 0
      let due := slotDue gr mu gr.number
      let slot := firstSlot mu due
      let stamp : Nat → Nat := fun l => airStamp (slot.1 / 1000) (slot.1 % 1000 * 122880 + airOffset mu (14 * slot.2 + l))
      (gr.cadence = 2 → gr.dereg = false → due ≤ s.clock.now → ∀ num u r v, (countInstance g).gives s num u →
        (cadenceEvent g num due (stamp 0)).gives u r v → ∃ t, exec (.slotInstanceCreate g) s = .next t ∧
          (r = none → t = v) ∧
          ∀ id, r = some id → v.SameBut [.tally] t ∧ t.tally = { v.tally with
            delay := v.tally.delay ++ (List.range 14).map fun l => ⟨gr.slotList, stamp l, none, id, l⟩ }) ∧
      (s.clock.now < due → TurnedAway (.slotInstanceCreate g) s) ∧ (gr.cadence ≠ 2 → TurnedAway (.slotInstanceCreate g) s))

/-- For each operation whose result depends on its operands and parameters alone (copies, fills, gathers, scatters, products,
convolutions, elementwise, conversions, reductions, normalisations, selections, attention, routing, checks, transforms and
codes, the Laplacian). Where the engine runs a task of that opcode whose descriptors are read and whose inputs are all there,
and the reads and writes meet no error, the command answers a next state: memory is what the plan's writes leave, the task has
formed its result, its reads out of bounds are counted, and only registers, Tally and the SAFE block differ from the state the
writes leave. Without such a task the command is turned away. -/
def Obligations.OperationsReadTheirPlanAndWriteItsResult : Prop :=
  ∀ (s : State) (e n : Nat) (k : Task), s.task n = some k → ∀ x ∈ planOperations e k,
    (s.opTask e x.2.1 = some n → RunsPlan x.1 s s n k x.2.2 (fun _ => 0) fun v t => v.SameBut [.regs, .tally, .safe] t) ∧
    (s.opTask e x.2.1 = none → TurnedAway x.1 s)

/-- On an engine whose running task has the opcode, its descriptors and its inputs. PYR_BUILD, STEREO, FEAT_DETECT and
PRACH_DETECT write what their plan computes. The warps do so where no ring window is exceeded, else raise event 0x3801 and end
aborted; FLOW does so over a ring of at least 96 rows or none, else raises 0x3901; FEAT_MATCH over two well-formed lists, else
0x3A01. ISP_FRAME of a detached frame does so with a valid page and a readable defect list, and of a closed camera frame with
its lines and a matching CRC. DFE_DDC writes its symbols once they are over, DFE_DUC ends its work once its symbols were
launched, FH_TX and FH_RX once each symbol was sent or missed or its window closed; before that each is turned away. -/
def Obligations.VisionAndRadioOperationsRunTheirPlans : Prop :=
  ∀ (s : State) (e n : Nat) (k : Task), s.task n = some k →
    let h := k.handle
    let p := k.params
    let ts := s.operands k
    let quiet := fun (v t : State) => v.SameBut [.regs, .tally, .safe] t
    let radio := fun (v t : State) => v.SameBut [.regs, .tally, .safe, .radio] t
    (s.opTask e 0x501 = some n → RunsPlan (.pyrBuild e) s s n k (pyrPlan h p) (fun u => (pyrNotes h p u ts).2) quiet) ∧
    (∀ a o, tenAt ts 0 = some a → tenAt ts 8 = some o →
      let mesh : State → List Ten → Source := fun s ts => match tenAt ts 1 with
        | some m => meshSource s h m (meshGrid p)
        | none => fun _ _ => none
      let homog : State → List Ten → Source := fun _ _ => homogSource p
      let bad := fun (ty rows : Nat) => (do
        settleAll (← raiseFor n 0x2A 4 0x3801 (taskDetail [(2, ty), (2, rows)] k 0))
        finish n 1 : M Unit)
      (s.opTask e 0x503 = some n →
        (ringWindow a o (leAt p 1 1 == 1) false (mesh s ts) = none →
          RunsPlan (.warpMesh e) s s n k (warpPlan (leAt p 1 1 == 1) (leAt p 2 1) mesh (meshReads (meshGrid p)) h) (fun _ => 0) quiet) ∧
        ∀ ty rows, ringWindow a o (leAt p 1 1 == 1) false (mesh s ts) = some (ty, rows) →
          CompletesThen (.warpMesh e) s (bad ty rows) fun u => u = s) ∧
      (s.opTask e 0x504 = some n →
        (ringWindow a o (leAt p 36 1 == 1) true (homog s ts) = none →
          RunsPlan (.warpHomog e) s s n k (warpPlan (leAt p 36 1 == 1) (leAt p 37 1) homog (fun _ => []) h) (fun _ => 0) quiet) ∧
        ∀ ty rows, ringWindow a o (leAt p 36 1 == 1) true (homog s ts) = some (ty, rows) →
          CompletesThen (.warpHomog e) s (bad ty rows) fun u => u = s)) ∧
    (∀ a, s.operand k 0 = some a →
      (s.opTask e 0x505 = some n →
        (a.ring = none ∨ a.ringInput = false ∨ (∃ r d b c, a.ring = some (r, d, b, c) ∧ 96 ≤ r * d) →
          RunsPlan (.flow e) s s n k (searchPlan true 12 flowField h p) (fun _ => 0) quiet) ∧
        ∀ r d b c, a.ring = some (r, d, b, c) → a.ringInput = true → r * d < 96 → CompletesThen (.flow e) s (do
          settleAll (← raiseFor n k.engine (partOf k.engine) 0x3901 (taskDetail [(2, r * d)] k 0))
          finish n 1) fun u => u = s) ∧
      (s.opTask e 0x506 = some n → RunsPlan (.stereo e) s s n k (searchPlan false 16 steField h p) (fun _ => 0) quiet)) ∧
    (s.opTask e 0x507 = some n → RunsPlan (.featDetect e) s s n k (featDetectPlan k) (fun _ => 0) quiet) ∧
    (∀ ta tb, s.operand k 0 = some ta → s.operand k 1 = some tb → s.opTask e 0x508 = some n →
      let a := ta.listBytes s h
      let b := tb.listBytes s h
      (listFault a (ta.ext 0) false = none → listFault b (tb.ext 0) true = none → RunsPlan (.featMatch e) s s n k
        (featMatchPlan (s.operand k 2).isSome a b (featMatches s k a b (s.operand k 2))) (fun _ => 0) quiet) ∧
      ∀ c, listFault a (ta.ext 0) false = some c → CompletesThen (.featMatch e) s (do
        settleAll (← raiseFor n k.engine (partOf k.engine) 0x3A01 (taskDetail [(1, 0), (1, c)] k 0))
        finish n 1) fun u => u = s) ∧
    (s.opTask e 0x604 = some n → RunsPlan (.prachDetect e) s s n k (prachPlan h s.clock.now p) (fun _ => 0) quiet) ∧
    (∀ page list u, s.opTask e 0x500 = some n → leAt p 1 1 = 1 → pageOk page = true →
      M.gives (do
        match ← ctxRead k.engine h (leAt p 16 8) 8192 with
        | .error x => return .error x
        | .ok pg => if pg = page then defectList k.engine h pg else return .error .page : M (Except MemErr (List (Nat × Nat))))
        s (.ok list) u → u.task n = some k →
      RunsPlan (.ispFrame e) s u n k (ispPlan k page list detachedReads (detachedInput k)) (fun _ => 0) quiet) ∧
    (∀ c num f page list u, s.opTask e 0x500 = some n → leAt p 1 1 = 0 → s.ispFrame k = some (c, num) → s.frameOf c num = some f →
      s.frameGone c num = false → f.isOpen = false → f.page ≠ 0 → pageOk page = true → f.direct = true → f.miss = false →
      linesCrc (s.camBits c) f.lines = f.lgCrc →
      M.gives (do
        match ← ctxRead k.engine (s.camOwner c) f.page 8192 with
        | .error x => return .error x
        | .ok pg => if pg = page then defectList k.engine (s.camOwner c) pg else return .error .page : M (Except MemErr (List (Nat × Nat))))
        s (.ok list) u → u.task n = some k →
      RunsPlan (.ispFrame e) s u n k (ispPlan k page list (fun _ _ => []) fun _ _ => cameraInput f c (s.camBits c) f.lines) (fun _ => 0)
        quiet) ∧
    (∀ c num, s.opTask e 0x500 = some n → leAt p 1 1 = 0 → s.ispFrame k = some (c, num) →
      (s.frameGone c num = true → CompletesThen (.ispFrame e) s (ispGone n c num) fun u => u = s) ∧
      (∀ f, s.frameGone c num = false → s.frameOf c num = some f → f.isOpen = true → TurnedAway (.ispFrame e) s)) ∧
    (∀ k' u, s.opTask e 0x600 = some n → s.symbolsOver k (dfeSpan p) = true →
      let sp := dfeSpan p
      M.gives (do
        for i in unseen s.radio.rx n k sp.count do zeroSymbol n k sp.car (sp.l0 + i) 0x4C03 false
        bump (Reg.rdWork 1) Fld.rdWorkCount
          (s.carStreams sp.car * (List.range sp.count).foldl (fun n i => n + s.symLen sp.car (s.taskSym k sp i)) 0)) s () u →
      u.task n = some k' → RunsPlan (.dfeDdc e) s u n k' (ddcPlan n k sp) (fun _ => 0) radio) ∧
    (s.opTask e 0x600 = some n → s.symbolsOver k (dfeSpan p) = false → TurnedAway (.dfeDdc e) s) ∧
    (∀ k' u, s.opTask e 0x601 = some n → s.launchesOver k (dfeSpan p) = true →
      M.gives (do for i in unseen s.radio.launched n k (dfeSpan p).count do
        zeroSymbol n k (dfeSpan p).car ((dfeSpan p).l0 + i) 0x4C03 true) s () u →
      u.task n = some k' → RunsPlan (.dfeDuc e) s u n k' (ducPlan n k (dfeSpan p)) (fun _ => 0) radio) ∧
    (s.opTask e 0x601 = some n → s.launchesOver k (dfeSpan p) = false → TurnedAway (.dfeDuc e) s) ∧
    (s.opTask e 0x609 = some n → settled s.radio.fhSent n k = true → RunsPlan (.fhTx e) s s n k (fhTxPlan n k) (fun _ => 0) radio) ∧
    (s.opTask e 0x609 = some n → settled s.radio.fhSent n k = false → TurnedAway (.fhTx e) s) ∧
    (s.opTask e 0x60A = some n → settled s.radio.fhClosed n k = true → RunsPlan (.fhRx e) s s n k (fhRxPlan n k)
      (fun u => ((u.fhResults n k).filter fun r => r.2.isNone).length) radio) ∧
    (s.opTask e 0x60A = some n → settled s.radio.fhClosed n k = false → TurnedAway (.fhRx e) s)

/-- For every operand t and index i: the read is out of bounds if some i[k] lies outside 0 to extent[k] − 1, or its supertile is
not held locally, or any bit of its storage or of its scale byte lies outside the registered buffer that holds base or
scale_base. It then returns the fill value in every state and asks for no unit of memory. A read that is in bounds, of an
operand that is no ring input, returns the bits that stand at the element's address. -/
def Obligations.ReadsOutOfBoundsGiveTheFillValue : Prop :=
  ∀ (t : Ten) (i : List Int),
    let n := (List.range 6).map fun k => (i.getD k 0).toNat
    let a := (t.address n).1
    let bit := (t.address n).2
    let outside := (∃ k < 6, i.getD k 0 < 0 ∨ (t.ext k : Int) ≤ i.getD k 0) ∨ t.local n = false ∨
      (∀ lo hi, t.buf = some (lo, hi) → a < lo ∨ hi < a + t.span bit) ∨
      (t.hasScale = true ∧ ∀ lo hi, t.sbuf = some (lo, hi) → t.scaleAddr n < lo ∨ hi ≤ t.scaleAddr n)
    (outside → (∀ s h, t.code s h i = t.fill) ∧ (∀ s h, t.scaleByte s h i = none) ∧ readUnits [t] ⟨[(t.slot, i)], [], []⟩ = []) ∧
    (¬ outside → t.ringInput = false → t.spot i = .mem a bit ∧
      ∀ s h, t.code s h i = bitsOf (leNat ((s.peek h a (t.span bit)).getD [])) bit t.width)

/-- For operands on the integer path, an output of a real integer type and a bias that loads as integers or no bias: MATMUL writes
every element of the output's shape exactly once, in logical order. Its encoding is that of the exact sum over k of a[k, m]
times b[k, n] plus the bias at n, saturated to the bounds of the output's type, and it counts as saturated exactly if that sum
lies outside them. -/
def Obligations.IntegerProductsAreExactAndSaturateOnce : Prop :=
  ∀ (s : State) (h : Nat) (alpha beta : Fp) (ts : List Ten) (a b o : Ten), tenAt ts 0 = some a → tenAt ts 1 = some b → tenAt ts 8 = some o →
    pathOf a b = some .int → isCplx o.dt = false → isFp o.dt = false → o.dt ≠ 0x12 →
    (∀ x, tenAt ts 2 = some x → ∀ i, ∃ v, x.load s h i = ⟨.int v, none⟩) →
    let sum : List Nat → Int := fun i =>
      ((List.range (a.ext 0)).map fun k => (a.load s h (bcast a (k :: i.getD 1 0 :: i.drop 2))).int *
        (b.load s h (bcast b (k :: i.getD 0 0 :: i.drop 2))).int).sum +
      (match tenAt ts 2 with
        | some x => (x.load s h (bcast x (i.getD 0 0 :: 0 :: i.drop 2))).int
        | none => 0)
    let lo := (intRange o.dt).1
    let hi := (intRange o.dt).2
    (dotPlan h 0 alpha beta (matmulDots ts) s ts).writes = o.indices.map fun i =>
      ⟨8, i, unsigned ((dtWidth o.dt).getD 8) (max lo (min hi (sum i))), decide (sum i < lo ∨ hi < sum i), none⟩

/-- An advance of a plain flag by its owner or the BCC adds one to the count (modulo 2^32). If the count becomes the threshold,
the flag crosses: the oldest waiting slot gets the token, or it is held, and the threshold increases by the period; with
period 0 no advance crosses again until a threshold is written. Otherwise the advance changes the count alone. A threshold the
BCC writes at or below the count in serial order crosses at once; another only arms the flag. HALL_FLAG_ADV and
HALL_FLAG_THR_WRITE of the BCC answer a next state with exactly that effect and the work of the token; a write by another
requester is refused without effect. -/
def Obligations.PlainFlagsCrossAtTheirThreshold : Prop :=
  ∀ (s : State) (f : Nat), s.Canonical → noStaging s →
    let x := s.hflag f
    let only := fun (y : HallFlag) (t : State) => s.SameBut [.hall] t ∧ t.hflag f = y ∧ (∀ g, g ≠ f → t.hflag g = s.hflag g) ∧
      t.hall = { s.hall with flags := t.hall.flags }
    let moved := fun (y : HallFlag) => if y.period = 0 then { y with spent := true } else { y with thr := (y.thr + y.period) % 2 ^ 32 }
    let crossed := fun (y : HallFlag) (ws : List Work) (t : State) => match y.waiters with
      | (n, sl) :: rest => ws = [.slot n sl false] ∧ only { moved y with waiters := rest } t
      | [] => ws = [] ∧ (y.held = false → only { moved y with held := true } t) ∧
          (y.held = true → ∃ u, only (moved y) u ∧ t = u.afterEvent 0x80 6 0x3102 (det [(4, f)]))
    (x.mode = 1 → ∀ h src part byBcc, byBcc = true ∨ x.owner = h →
      let y := { x with count := (x.count + 1) % 2 ^ 32 }
      (y.count = x.thr → x.spent = false → ∃ ws t, (advanceFlag f h src part byBcc).gives s ws t ∧ crossed y ws t) ∧
      (y.count ≠ x.thr ∨ x.spent = true → ∃ t, (advanceFlag f h src part byBcc).gives s [] t ∧ only y t)) ∧
    (f < 4096 → x.mode = 1 → ∃ ws u, (advanceFlag f 0 0x81 6 true).gives s ws u ∧
      CompletesThen (.hallFlagAdv .bcc f) s (settleAll ws) fun v => v = u) ∧
    (f < 4096 → x.mode = 0 → exec (.hallFlagAdv .bcc f) s = .next (s.afterEvent 0xB2 4 0x3B02 (det [(4, f), (3, 0), (1, 0x81), (1, 6)]))) ∧
    (f < 4096 → ∀ thr,
      let y := { x with thr := thr % 2 ^ 32, spent := false }
      (x.mode = 1 → y.thr = x.count ∨ seqBefore y.thr x.count = true →
        ∃ ws u, crossed y ws u ∧ exec (.hallFlagThrWrite .bcc f thr) s = .next (M.run (settleAll ws) u)) ∧
      (x.mode ≠ 1 ∨ (y.thr ≠ x.count ∧ seqBefore y.thr x.count = false) →
        ∃ t, exec (.hallFlagThrWrite .bcc f thr) s = .next t ∧ only y t)) ∧
    (f < 4096 → ∀ w thr, w ≠ .bcc → s.fenced 4 = false →
      exec (.hallFlagAdv w f) s = .next (refusedWrite s Reg.hallFlagAdv 1 0) ∧
      exec (.hallFlagThrWrite w f thr) s = .next (refusedWrite s Reg.hallFlagThr thr 0))

/-- The BCC's HALL_RECORD_ACTIVATE with a base of 0, or with one under which the record's copies lie in registered buffers of its
owner, apart from each other and from every other record, with a ring's flags as they must be, gives the record that base and
number of copies and changes no other record and nothing else, where no live task names the record. Otherwise, and from any
other requester, the write is refused with the register-refusal event and has no other effect. -/
def Obligations.HallRecordsBecomeLiveByTheirBase : Prop :=
  ∀ (s : State) (r base copies : Nat), r < 256 →
    let a := signExtend48 (base % 2 ^ 48 / 64 * 64)
    let b : HallBuf := { tblGet s.hall.bufs hallBuf0 r with base := a, copiesM1 := copies % 8 }
    let c := fun (w : Requester) => Instr.hallRecordActivate w r base copies
    (s.recordNamed r = false → a = 0 ∨ s.recordGood r b = true → ∃ t, exec (c .bcc) s = .next t ∧ s.SameBut [.hall] t ∧
      t.hall = { s.hall with bufs := t.hall.bufs } ∧ tblFind t.hall.bufs r = some b ∧
      ∀ x, x ≠ r → tblFind t.hall.bufs x = tblFind s.hall.bufs x) ∧
    (s.recordNamed r = true ∨ (a ≠ 0 ∧ s.recordGood r b = false) →
      exec (c .bcc) s = .next (refusedWrite s Reg.hallBufBase (base % 2 ^ 48 / 64 * 64 + copies % 8 * 2 ^ 48) 6)) ∧
    ∀ w, w ≠ .bcc → s.fenced 4 = false → exec (c w) s = .next (refusedWrite s Reg.hallBufBase base 0)

/-- On an enabled context of a receiving port. FRAME_START with no frame open on a link that is up opens the frame of the next
number, captured now, due by the timeout, with no line yet. A good image line for the open memory-fed frame adds one received
line; a line past the deadline counts as late alone; a packet with an uncorrectable header only counts as dropped. FRAME_END
no later than the deadline closes the frame now, and changes only the port's last packet stamp otherwise; FRAME_TIMEOUT past
the deadline and settle margin closes it at the deadline. A close fills the missing lines of a frame that was not dropped.
CSI_LINK_LOSS takes the link down and closes every frame of the port. DESKEW that passes on a link not up trains it; a failure
takes an up link down. -/
def Obligations.FramesOpenCollectLinesAndClose : Prop :=
  ∀ (s : State) (c : Nat), s.Canonical → c < 32 →
    let port := s.camPort c
    let now := s.clock.now
    let num := (s.fld (camReg Reg.camState c) Fld.camStateFrame + 1) % 2 ^ 32
    let newest := fun (t : State) => (t.cam c).frames.getLast?
    let others := fun (t : State) => ∀ x, x ≠ c → t.cam x = s.cam x
    let stamped := fun (t : State) => (t.csi port).lastPacket = now ∧ (t.csi port).jobs = (s.csi port).jobs
    (∀ fn, s.camOn c = true → s.csiReceives port = true → s.csiUp port = true → s.openFrame c = none →
      CompletesThen (.frameStart c fn) s (do for g in s.camGraphs c do let _ ← cadenceEvent g num now 0) fun u =>
        s.SameBut [.mem, .regs, .sys, .tally, .cams] u ∧ others u ∧ (u.cam c).lastStart = some now ∧
        u.fld (camReg Reg.camState c) Fld.camStateFrame = num ∧ u.fld (camReg Reg.camState c) Fld.camStateOpen = 1 ∧
        ∃ f, newest u = some f ∧ f.num = num ∧ f.capture = now ∧ f.csiFn = fn % 65536 ∧ f.isOpen = true ∧ f.rx = 0 ∧ f.filled = 0 ∧
          f.deadline = now + usUnits (s.fld (camReg Reg.camTimeout c) Fld.camTimeoutUs)) ∧
    (∀ vc payload f, s.camOn c = true → s.csiReceives port = true → s.csiUp port = true → s.camOf port vc = some c → vc < 16 →
      2 ≤ s.camDt c → s.camDt c < 64 → s.camDt c ≠ 2 → s.camDt c ≠ 3 → s.camDt c ≠ 0x12 → s.openFrame c = some f →
      f.dropped = false →
      (now ≤ f.deadline → f.rx < s.camH c → f.direct = false → ∃ t f', exec (.packetReceive port vc (s.camDt c) payload 0 true) s = .next t ∧
        s.SameBut (Instr.packetReceive port vc (s.camDt c) payload 0 true).parts t ∧ others t ∧ newest t = some f' ∧ f'.rx = f.rx + 1 ∧
        f'.isOpen = true ∧ f'.crc = f.crc ∧ f'.lastLine = now ∧
        f'.valid = f.valid ++ [min (unpackLine (s.camBits c) payload).length (s.camW c)] ∧ f'.num = f.num) ∧
      (f.deadline < now → ∃ t, exec (.packetReceive port vc (s.camDt c) payload 0 true) s = .next t ∧ s.SameBut [.cams] t ∧ others t ∧
        newest t = some { f with late := f.late + 1 })) ∧
    (∀ p vc dt payload ok, s.csiReceives p = true → vc < 16 → 2 ≤ dt → dt < 64 → ∃ t, exec (.packetReceive p vc dt payload 2 ok) s = .next t ∧
      s.SameBut [.regs] t ∧ Counted s (Reg.csiErr p) Fld.csiErrHdrDrop t) ∧
    (∀ fn, s.camOn c = true → s.csiReceives port = true → s.csiUp port = true →
      (∀ f, s.openFrame c = some f → now ≤ f.deadline → CompletesThen (.frameEnd c fn) s (closeFrame c now false false false) fun u =>
        s.SameBut [.cams] u ∧ stamped u ∧ ∀ x, u.cam x = s.cam x) ∧
      ((∀ f, s.openFrame c = some f → f.deadline < now) → ∃ t, exec (.frameEnd c fn) s = .next t ∧ s.SameBut [.cams] t ∧ stamped t ∧
        ∀ x, t.cam x = s.cam x)) ∧
    (∀ f, s.openFrame c = some f →
      (f.deadline + settleMargin ≤ now → CompletesThen (.frameTimeout c) s (closeFrame c f.deadline false true false) fun u => u = s) ∧
      (now < f.deadline + settleMargin → TurnedAway (.frameTimeout c) s) ∧
      ∀ stamp a b l, ∃ f', newest (M.run (closeFrame c stamp a b l) s) = some f' ∧ f'.isOpen = false ∧ f'.closed = stamp ∧ f'.num = f.num ∧
        f'.rx = f.rx ∧ (f.dropped = false → f'.filled = f.filled + (s.camH c - f.rx))) ∧
    (s.openFrame c = none → TurnedAway (.frameTimeout c) s) ∧
    (∀ p, p < 8 → s.csiUp p = true →
      ((s.csi p).lastPacket + usUnits (s.fld (Reg.csiLoss p) Fld.csiLossUs) ≤ now → ∃ t, exec (.csiLinkLoss p) s = .next t ∧
        s.SameBut (Instr.csiLinkLoss p).parts t ∧ t.fld (Reg.csiStatus p) Fld.csiStatusLink = 0 ∧ ∀ x ∈ s.camsOn p, t.openFrame x = none) ∧
      (now < (s.csi p).lastPacket + usUnits (s.fld (Reg.csiLoss p) Fld.csiLossUs) → TurnedAway (.csiLinkLoss p) s)) ∧
    (∀ p, s.csiReceives p = true → 1500 < s.fld (Reg.csiCtl p) Fld.csiCtlRateMbps →
      (∀ passed, s.csiUp p = false → ∃ t, exec (.deskew p passed) s = .next t ∧ s.SameBut [.regs] t ∧
        t.fld (Reg.csiStatus p) Fld.csiStatusDeskewOk = flagBit passed ∧ t.fld (Reg.csiStatus p) Fld.csiStatusLink = 1 ∧
        ∀ x, x ≠ Reg.csiStatus p → t.reg x = s.reg x) ∧
      (s.csiUp p = true → CompletesThen (.deskew p false) s (linkDown p 1) fun u => s.SameBut [.regs] u ∧
        OneField s (Reg.csiStatus p) Fld.csiStatusDeskewOk 0 u))

/-- CAM_ARM by a privileged requester arms an unarmed context now and changes nothing of an armed one; CAM_DISARM clears the arm;
a user-mode core's write is refused. EXPOSURE_REQUEST of a valid block with fewer than eight pending is queued last; an
invalid one or a ninth raises event 0x3701 and queues nothing. BUS_LIST_START in machine mode on an idle bus whose list reads
well makes it busy with that list; on a busy bus it is refused. BUS_TRANSFER_COMPLETE of a write puts it on the wires and
moves to the next entry, or ends the list. BUS_TRANSFER_FAIL raises event 0x4704 and ends the list with its error and entry
shown. ISP_CTL_APPLY writes the held value. -/
def Obligations.CameraRegistersArmRequestAndDriveTheBus : Prop :=
  ∀ (s : State) (w : Requester), s.Canonical →
    (∀ c, c < 32 → reaches s w 4 →
      let st := camReg Reg.camState c
      (privileged w = true → s.flag st Fld.camStateArmed = false → ∃ t, exec (.camArm w c) s = .next t ∧ s.SameBut [.regs, .cams] t ∧
        OneField s st Fld.camStateArmed 1 t ∧ t.cam c = { s.cam c with armAt := s.clock.now, late := (s.cam c).lastStart == some s.clock.now } ∧
        ∀ x, x ≠ c → t.cam x = s.cam x) ∧
      (privileged w = true → s.flag st Fld.camStateArmed = true → exec (.camArm w c) s = .next s) ∧
      (privileged w = true → ∃ t, exec (.camDisarm w c) s = .next t ∧ s.SameBut [.regs, .cams] t ∧ OneField s st Fld.camStateArmed 0 t ∧
        t.cam c = { s.cam c with late := false } ∧ ∀ x, x ≠ c → t.cam x = s.cam x) ∧
      (privileged w = false → exec (.camArm w c) s = .next (refusedWrite s (camReg Reg.camCmd c) 1 0) ∧
        exec (.camDisarm w c) s = .next (refusedWrite s (camReg Reg.camCmd c) 2 0) ∧
        ∀ block, exec (.exposureRequest w c block) s = .next (refusedWrite s (camReg Reg.camExpreq c) block 0)) ∧
      (∀ block b u, privileged w = true →
        (ctxRead (0xA0 + s.camPort c) (s.camOwner c) (signExtend48 (block % 2 ^ 48 / 64 * 64)) 256).gives s (.ok b) u → u.cam c = s.cam c →
        let id := leAt b 8 4
        let good := id ≠ 0 ∧ leAt b 6 2 = 0 ∧ leAt b 12 1 < 16 ∧ allZero b 13 51 = true ∧ allZero b 192 64 = true ∧
          ∀ e ∈ listEntries b, entryOk e = true ∧ entryReads e = false
        let waiting := ((s.cam c).reqs.filter fun r => 1 ≤ r.state && r.state ≤ 3).length
        let refused := fun why => u.afterEvent (0xA0 + s.camPort c) 4 0x3701 (det [(1, c), (1, why), (2, 0), (4, id)])
        (good → waiting < 8 → CompletesThen (.exposureRequest w c block) s (showReqs c) fun v => u.SameBut [.cams] v ∧
          v.cam c = { s.cam c with reqs := (s.cam c).reqs ++ [⟨id, leAt b 0 4, leAt b 4 2, listEntries b, 1, 0, 0⟩] } ∧
          ∀ x, x ≠ c → v.cam x = u.cam x) ∧
        (good → 8 ≤ waiting → exec (.exposureRequest w c block) s = .next (refused 0)) ∧
        (¬ good → exec (.exposureRequest w c block) s = .next (refused 1)))) ∧
    (∀ port addr, port < 8 → reaches s w 4 →
      let st := Reg.csiBusStatus port
      let a := addr % 2 ^ 40 / 64 * 64
      (∀ b u, machineMode w = true → s.flag st Fld.csiBusStatusBusy = false → (physReadAll (0xA0 + port) a 256).gives s (.ok b) u →
        u.Canonical → ∃ t, exec (.busListStart w port addr) s = .next t ∧ u.SameBut [.regs, .cams] t ∧ OneField u st Fld.csiBusStatusBusy 1 t ∧
          t.csi port = { u.csi port with jobs := (u.csi port).jobs ++ [⟨none, 0, a, listEntries b, 0, s.clock.now⟩] } ∧
          ∀ x, x ≠ port → t.csi x = u.csi x) ∧
      (machineMode w = true → s.flag st Fld.csiBusStatusBusy = true →
        exec (.busListStart w port addr) s = .next (refusedWrite s (Reg.csiBusList port) addr 6)) ∧
      (machineMode w = false → exec (.busListStart w port addr) s = .next (refusedWrite s (Reg.csiBusList port) addr 0))) ∧
    (∀ port j rest data, (s.csi port).jobs = j :: rest →
      let e := j.entries.getD j.idx []
      let done := match rest with
        | [] => []
        | k :: r => { k with since := s.clock.now } :: r
      let bus := fun (jobs : List BusJob) (t : State) => t.csi port = { s.csi port with jobs := jobs } ∧ (∀ x, x ≠ port → t.csi x = s.csi x) ∧
        t.cams.cams = s.cams.cams
      (entryReads e = false → j.idx + 1 < j.entries.length → ∃ t, exec (.busTransferComplete port data) s = .next t ∧
        s.SameBut [.sent, .cams] t ∧ t.sent = s.sent ++ [(0xA0 + port, busBytes e)] ∧
        bus ({ j with idx := j.idx + 1, since := s.clock.now } :: rest) t) ∧
      (entryReads e = false → j.entries.length ≤ j.idx + 1 → j.cam = none → ∃ t, exec (.busTransferComplete port data) s = .next t ∧
        s.SameBut [.regs, .sent, .cams] t ∧ t.sent = s.sent ++ [(0xA0 + port, busBytes e)] ∧ bus done t ∧
        OneField s (Reg.csiBusStatus port) Fld.csiBusStatusBusy 0 t) ∧
      (∀ c, entryReads e = false → j.entries.length ≤ j.idx + 1 → j.cam = some c →
        CompletesThen (.busTransferComplete port data) s (schedule c j.req) fun u => s.SameBut [.sent, .cams] u ∧
          u.sent = s.sent ++ [(0xA0 + port, busBytes e)] ∧ bus done u) ∧
      let late := flagBit (decide (j.since + msUnits 10 ≤ s.clock.now))
      let event := fun (u : State) => u.afterEvent (0xA0 + port) 4 0x4704 (det [(1, port), (1, j.idx), (1, late), (1, 0), (4, j.req)])
      (j.cam = none → ∃ u t, s.SameBut [.cams] u ∧ bus done u ∧ exec (.busTransferFail port) s = .next t ∧ (event u).SameBut [.regs] t ∧
        t.fld (Reg.csiBusStatus port) Fld.csiBusStatusBusy = 0 ∧ t.fld (Reg.csiBusStatus port) Fld.csiBusStatusError = 1 ∧
        t.fld (Reg.csiBusStatus port) Fld.csiBusStatusEntry = j.idx % 16 ∧ ∀ x, x ≠ Reg.csiBusStatus port → t.reg x = s.reg x) ∧
      ∀ c, j.cam = some c → CompletesThen (.busTransferFail port) s
        (modReqs c fun r => if r.state = 2 ∧ r.id = j.req then { r with state := 6 } else r) fun v =>
          ∃ u, s.SameBut [.cams] u ∧ bus done u ∧ v = event u) ∧
    (∀ port, (s.csi port).jobs = [] → (∀ data, TurnedAway (.busTransferComplete port data) s) ∧ TurnedAway (.busTransferFail port) s) ∧
    (∀ v, s.cams.ctl = some v →
      (s.ispCtlWaits v = false → ∃ t, exec .ispCtlApply s = .next t ∧ s.SameBut [.regs, .cams] t ∧ s.OneReg Reg.ispCtl v t ∧
        t.cams = { s.cams with ctl := none }) ∧
      (s.ispCtlWaits v = true → TurnedAway .ispCtlApply s))

/-- By a privileged writer. DMA_START of an idle or halted present channel of a live context with an aligned head runs it from
that head: cause, hops and hand-over 0, the head's crate being fetched; from another state it is refused. DMA_ARM of a running
or draining channel sets armed; of an idle one it commits the shadow head with hand-over 2 and hops 0. DMA_DISARM clears armed
before the chain has ended and changes nothing after. DMA_STOP discards what was prefetched; with nothing executing the
channel is idle with cause 2. DMA_ABORT drains for cause 3, the executing descriptor being aborted. DMA_DRAIN_COMPLETE halts
the channel with its cause. Other writers are refused. -/
def Obligations.DmaChannelsStartArmStopAndAbort : Prop :=
  ∀ (s : State) (w : Requester) (n : Nat), s.Canonical → n < 64 → reaches s w (partOf (0x40 + n)) →
    let c := s.chan n
    let st := Reg.dmaChStatus n
    let only := fun (t : State) => s.SameBut [.regs, .dma] t ∧ ∀ x, x ≠ n → t.chan x = s.chan x
    let good := fun (head : Nat) => signExtend48 head % 64 = 0 ∧ s.badPhysical (s.chanCtx n) (signExtend48 head) = false
    let enters := fun (state cause : Nat) (t : State) => t.fld st Fld.dmaChStatusState = state ∧ t.fld st Fld.dmaChStatusCause = cause
    let ctl := [(Instr.dmaStart w n, 1), (Instr.dmaArm w n, 2), (Instr.dmaDisarm w n, 4), (Instr.dmaStop w n, 8), (Instr.dmaAbort w n, 16)]
    (privileged w = false → ∀ x ∈ ctl, exec x.1 s = .next (refusedWrite s (Reg.dmaChCtl n) x.2 0)) ∧
    (privileged w = true →
      (∀ head, s.canStartChan n = true → head = s.fld (Reg.dmaChActiveHead n) Fld.dmaChActiveHeadHead → good head →
        ∃ t, exec (.dmaStart w n) s = .next t ∧ only t ∧ t.chan n = { dma0 with fetch := some (signExtend48 head, s.clock.now) } ∧ enters 1 0 t ∧
          t.fld st Fld.dmaChStatusHops = 0 ∧ t.fld st Fld.dmaChStatusHandover = 0 ∧ ∀ x, x ≠ st → t.reg x = s.reg x) ∧
      (s.canStartChan n = false → exec (.dmaStart w n) s = .next (refusedWrite s (Reg.dmaChCtl n) 1 0)) ∧
      (s.chanState n = 1 ∨ s.chanState n = 2 → ∃ t, exec (.dmaArm w n) s = .next t ∧ s.SameBut [.regs] t ∧
        OneField s st Fld.dmaChStatusArmed 1 t) ∧
      (∀ head, s.canStartChan n = true → head = s.fld (Reg.dmaChShadowHead n) Fld.dmaChShadowHeadHead → good head →
        ∃ t, exec (.dmaArm w n) s = .next t ∧ s.SameBut [.mem, .regs, .sys, .tally, .dma] t ∧
          t.chan n = { dma0 with fetch := some (signExtend48 head, s.clock.now) } ∧ enters 1 0 t ∧ t.fld st Fld.dmaChStatusHops = 0 ∧
          t.fld st Fld.dmaChStatusHandover = 2 ∧ t.fld st Fld.dmaChStatusArmed = 0 ∧
          t.fld (Reg.dmaChActiveHead n) Fld.dmaChActiveHeadHead = head) ∧
      (s.chanState n ≠ 1 → s.chanState n ≠ 2 → s.canStartChan n = false →
        exec (.dmaArm w n) s = .next (refusedWrite s (Reg.dmaChCtl n) 2 1)) ∧
      (c.ended = false → ∃ t, exec (.dmaDisarm w n) s = .next t ∧ s.SameBut [.regs] t ∧ OneField s st Fld.dmaChStatusArmed 0 t) ∧
      (c.ended = true → exec (.dmaDisarm w n) s = .next s) ∧
      (s.chanState n = 1 → c.cur = none → ∃ t, exec (.dmaStop w n) s = .next t ∧ only t ∧ t.chan n = dma0 ∧ enters 0 2 t ∧
        t.fld st Fld.dmaChStatusArmed = 0 ∧ ∀ x, x ≠ st → t.reg x = s.reg x) ∧
      (s.chanState n = 1 → c.cur.isSome = true → ∃ t, exec (.dmaStop w n) s = .next t ∧ only t ∧
        t.chan n = { c with ahead := [], want := none, fetch := none, stopping := true } ∧ OneField s st Fld.dmaChStatusArmed 0 t) ∧
      (s.chanState n ≠ 1 → s.chanState n ≠ 2 → exec (.dmaStop w n) s = .next s ∧ exec (.dmaAbort w n) s = .next s) ∧
      (s.chanState n = 1 → c.cur = none → ∃ t, exec (.dmaAbort w n) s = .next t ∧ only t ∧ t.fld st Fld.dmaChStatusState = 2 ∧
        t.fld st Fld.dmaChStatusArmed = 0 ∧ t.chan n = { c with drain := 3, ahead := [], want := none, fetch := none, stopping := false }) ∧
      (∀ d, s.chanState n = 1 → c.cur = some d → d.status = 0 → ∃ t, exec (.dmaAbort w n) s = .next t ∧
        s.SameBut (Instr.dmaAbort w n).parts t ∧ t.fld st Fld.dmaChStatusState = 2 ∧ (t.chan n).drain = 3 ∧ (t.chan n).ahead = [] ∧
        (t.chan n).cur = some { d with status := 0x87, stamp := s.clock.now, issued := true } ∧ ∀ x, x ≠ n → t.chan x = s.chan x)) ∧
    (s.chanState n = 2 → c.drain ≠ 7 → c.drain < 8 → c.cur = none → ∃ t, exec (.dmaDrainComplete n) s = .next t ∧ only t ∧ t.chan n = dma0 ∧
      enters 3 c.drain t ∧ ∀ x, x ≠ st → t.reg x = s.reg x) ∧
    (s.chanState n ≠ 2 ∨ c.cur.isSome = true → TurnedAway (.dmaDrainComplete n) s)

/-- For a running channel. CRATE_FETCH_DONE takes the descriptors of the crate that the fetch yields; a last one taken outside an
armed chain gets the present hop count, which grows by one, and ends the chain; a failed fetch breaks the chain there, as
FETCH_TIMEOUT does for reason 1. DESCRIPTOR_COMPLETE moves every unit and settles the descriptor as done, DMA_TRANSFER_ERROR
raises 0x4601 and settles it with the error's status. A settled descriptor waits for its write-back where one is asked for.
WRITEBACK_ACK whose writes succeed finishes it: it is counted and no longer executing. DESCRIPTOR_TIMEOUT settles it as timed
out and drains the channel for cause 6. STREAM_SHARE_WRITE by the BCC of a held partition stores three fields, each clamped to
1 to 14, that sum to 16; others are refused whole. -/
def Obligations.DmaDescriptorsAreTakenMovedAndReported : Prop :=
  ∀ (s : State) (n : Nat), s.Canonical →
    (n < 64 → s.chanState n = 1 →
      let c := s.chan n
      (∀ a t0, c.fetch = some (a, t0) →
        (∀ r u, M.gives (do
            modChan n fun c => { c with fetch := none }
            ctxRead (0x40 + n) (s.chanCtx n) (a / 256 * 256) 256) s r u →
          (∀ crate, r = .ok crate → CompletesThen (.crateFetchDone n) s (do
            takeDescs 4 n crate a
            issueFetch n
            beginNext n) fun v => v = u) ∧
          (∀ x, r = .error x → CompletesThen (.crateFetchDone n) s (do
            issueFetch n
            beginNext n) fun v => u.SameBut [.dma] v ∧ v.chan n = { u.chan n with broken := some (0, a) } ∧
              ∀ y, y ≠ n → v.chan y = u.chan y)) ∧
        (t0 + usUnits (s.fld (Reg.dmaChCfg n) Fld.dmaChCfgFetchUs) + settleMargin ≤ s.clock.now →
          CompletesThen (.fetchTimeout n) s (beginNext n) fun v => s.SameBut [.dma] v ∧
            v.chan n = { c with fetch := none, broken := some (1, a) } ∧ ∀ y, y ≠ n → v.chan y = s.chan y) ∧
        (s.clock.now < t0 + usUnits (s.fld (Reg.dmaChCfg n) Fld.dmaChCfgFetchUs) + settleMargin → TurnedAway (.fetchTimeout n) s)) ∧
      (c.fetch = none → TurnedAway (.crateFetchDone n) s ∧ TurnedAway (.fetchTimeout n) s) ∧
      (∀ crate a f, let d := (crate.drop (a % 256)).take 64
        ddNext d = 0 → s.chanArmed n = false →
        ∃ v, (takeDescs (f + 1) n crate a).gives s () v ∧ s.SameBut [.regs, .dma] v ∧
          v.chan n = { c with ahead := c.ahead ++ [⟨a, d, s.fld (Reg.dmaChStatus n) Fld.dmaChStatusHops, 0, 0, 0, false, 0, 0, 0⟩], ended := true } ∧
          OneField s (Reg.dmaChStatus n) Fld.dmaChStatusHops (min (s.fld (Reg.dmaChStatus n) Fld.dmaChStatusHops + 1) (2 ^ 21 - 1)) v) ∧
      (∀ d, s.moving n = some d →
        let us := ddUnits d.bytes
        (∀ u, s.moveFails n = false → (moveUnits n us).gives s none u → CompletesThen (.descriptorComplete n) s (do
          scramble n us
          settleDesc n 0x81) fun v => v = u) ∧
        (∀ x a u, s.moveFails n = true → (moveUnits n us).gives s (some (x, a)) u → CompletesThen (.dmaTransferError n) s (do
          chanEvent n 0x4601 [(1, x.dmaStatus), (1, 0), (6, a % 2 ^ 48), (6, d.addr % 2 ^ 48)]
          settleDesc n x.dmaStatus) fun v => v = u) ∧
        (s.moveFails n = true → TurnedAway (.descriptorComplete n) s) ∧ (s.moveFails n = false → TurnedAway (.dmaTransferError n) s) ∧
        (ddWb d.bytes = true → ∃ v, (settleDesc n 0x81).gives s () v ∧ s.SameBut [.dma] v ∧
          v.chan n = { c with cur := some { d with status := 0x81, stamp := s.clock.now, issued := true } }) ∧
        (d.firstRead + msUnits (s.fld (Reg.dmaChCfg n) Fld.dmaChCfgDescMs) + settleMargin ≤ s.clock.now →
          ∃ t, exec (.descriptorTimeout n) s = .next t ∧ s.SameBut (Instr.descriptorTimeout n).parts t ∧
            t.fld (Reg.dmaChStatus n) Fld.dmaChStatusState = 2 ∧ (t.chan n).drain = 6 ∧
            (t.chan n).cur = some { d with status := 0x88, stamp := s.clock.now, issued := true }) ∧
        (s.clock.now < d.firstRead + msUnits (s.fld (Reg.dmaChCfg n) Fld.dmaChCfgDescMs) + settleMargin →
          TurnedAway (.descriptorTimeout n) s))) ∧
    (n < 64 → s.chanState n = 1 ∨ s.chanState n = 2 → ∀ d, (s.chan n).cur = some d →
      let h := s.chanCtx n
      (d.issued = false → TurnedAway (.writebackAck n) s) ∧
      (∀ u v, d.issued = true → (ctxWrite (0x40 + n) h (d.addr + 0x1C) (leBytes 1 d.status)).gives s none u →
        (ctxWrite (0x40 + n) h (d.addr + 0x38) (leBytes 8 d.stamp)).gives u none v →
        CompletesThen (.writebackAck n) s (descDone n d) fun x => x = v) ∧
      (s.chanState n = 2 → d.status = 0x81 → ddSignal d.bytes = false → ddHall d.bytes = false → ddNotify d.bytes = false →
        ∃ v, (descDone n d).gives s () v ∧ s.SameBut [.regs, .dma] v ∧ v.chan n = { s.chan n with cur := none } ∧
          Counted s (Reg.dmaChDescCnt n) Fld.dmaChDescCntDone v)) ∧
    (n < 4 → ∀ (w : Requester) (v : Word),
      let get : Field → Nat := fun f => getBits v f.lsb f.width
      let clamp : Field → Nat := fun f => min 14 (max 1 (get f))
      let sum := clamp Fld.streamShareRead + clamp Fld.streamShareWrite + clamp Fld.streamShareRemote
      let allowed := w = .bcc ∧ s.heldForShare n = true ∧ sum = 16
      (allowed → ∃ t, exec (.streamShareWrite w n v) s = .next t ∧ s.SameBut (Instr.streamShareWrite w n v).parts t ∧
        (∀ f ∈ shareFields, t.fld (Reg.streamShare n) f = clamp f) ∧ (∀ x, x ≠ Reg.streamShare n → t.reg x = s.reg x) ∧
        ((∀ f ∈ shareFields, get f = clamp f) → s.SameBut [.regs] t)) ∧
      (¬ allowed → exec (.streamShareWrite w n v) s = .next (refusedWrite s (Reg.streamShare n) v.toNat 0)))

/-- A start, and the commit of a shadow chain, leave hops at 0. Where a channel that is not armed takes descriptors from a crate,
whatever their bytes (valid, invalid or bad), hops grows by exactly the number of descriptors taken, at least one, which join
those taken before in order, and each has for its hop number the count before it was taken. (The count has 21 bits; the
premise keeps it below its largest value.) -/
def Obligations.HopsCountTheDescriptorsTaken : Prop :=
  ∀ (s : State) (n : Nat), s.Canonical → n < 64 →
    let hops := fun (t : State) => t.fld (Reg.dmaChStatus n) Fld.dmaChStatusHops
    (∀ w, reaches s w (partOf (0x40 + n)) → privileged w = true → s.canStartChan n = true →
      ∃ t, exec (.dmaStart w n) s = .next t ∧ hops t = 0) ∧
    (∀ kind, ∃ t, (commitShadow n kind).gives s () t ∧ hops t = 0) ∧
    ∀ f crate a, s.chanArmed n = false → hops s + f + 1 < 2 ^ 21 → ∃ t more, (takeDescs (f + 1) n crate a).gives s () t ∧
      (t.chan n).ahead = (s.chan n).ahead ++ more ∧ more ≠ [] ∧ hops t = hops s + more.length ∧
      ∀ i d, more[i]? = some d → d.hop = hops s + i

/-- Where no reset runs, no unit is under test and the scope's repeat count is below the limit: rungs 1 to 3 on a scope that holds
no task and the chip reset begin a reset whose fence and record carry the present stamp, take the next report number and mark
the engines as resetting. A reset already running for the scope absorbs a rung 2 trigger. FENCE_DRAIN_END, and
FENCE_DRAIN_DECLARATION 50 µs and the margin after the fence, mark the drain as ended, and assert the reset of the domain if
one runs. Asserting a tile's reset zeroes its SRAM and gives its register page the reset values, and changes no other byte or
register. A fence that is not draining turns both away. -/
def Obligations.ResetsFenceTheirScopeBeforeAssertion : Prop :=
  ∀ (s : State), s.Canonical → s.Keyed →
    (∀ e h, kindOf e < 15 → takesTrigger s (.ctxEngine e h) → (∀ n ∈ s.tasksAt e, ∀ k, s.task n = some k → k.handle ≠ h) →
      ∃ t, exec (.rung1Reset e h) s = .next t ∧ s.SameBut (Instr.rung1Reset e h).parts t ∧ BeganReset s (.ctxEngine e h) none t) ∧
    (∀ e, rung2Target e = true → takesTrigger s (.engine e) → s.tasksAt e = [] → ∃ t, exec (.rung2Reset e) s = .next t ∧
      s.SameBut (Instr.rung2Reset e).parts t ∧ BeganReset s (.engine e) none t ∧ (t.engine e).resetting = true) ∧
    (∀ e p, rung2Target e = true → p ∈ s.rcv.resets → p.2.toScope = .engine e → exec (.rung2Reset e) s = .next s) ∧
    (∀ p, p < 4 → takesTrigger s (.part p) → (∀ e ∈ enginesIn p, s.tasksAt e = []) → ∃ t, exec (.rung3Reset p) s = .next t ∧
      s.SameBut (Instr.rung3Reset p).parts t ∧ BeganReset s (.part p) none t ∧ ∀ e ∈ enginesIn p, (t.engine e).resetting = true) ∧
    (∀ cause, takesTrigger s .die → ∃ t, exec (.chipReset cause) s = .next t ∧ s.SameBut (Instr.chipReset cause).parts t ∧
      BeganReset s .die none t ∧ t.pins.safeN = false ∧ t.pins.trayAlertN = false) ∧
    (∀ dom, s.draining dom = false → TurnedAway (.fenceDrainEnd dom) s ∧ TurnedAway (.fenceDrainDeclaration dom) s) ∧
    (∀ dom f c, s.fence dom = some f → s.draining dom = true → c = .fenceDrainEnd dom ∨
        (c = .fenceDrainDeclaration dom ∧ f.stamp + usUnits 50 + settleMargin ≤ s.clock.now) →
      let ended := fun (u : State) => s.SameBut [.rcv] u ∧ u.rcv = { s.rcv with fences := u.rcv.fences } ∧
        tblFind u.rcv.fences dom = some { f with drained := some s.clock.now } ∧
        ∀ x, x ≠ dom → tblFind u.rcv.fences x = tblFind s.rcv.fences x
      (∀ r, tblFind s.rcv.resets dom = some r → CompletesThen c s (assertReset r.toScope) ended) ∧
      (tblFind s.rcv.resets dom = none → s.bist.unit = none → ∃ t, exec c s = .next t ∧ ended t)) ∧
    (∀ dom f, s.fence dom = some f → s.clock.now < f.stamp + usUnits 50 + settleMargin → TurnedAway (.fenceDrainDeclaration dom) s) ∧
    (∀ e sram, e < 0x20 → sram = 0x4000000000 + e * 0x800000 →
      (∀ a, sram ≤ a → a < sram + 0x400000 → tblFind s.sys.cache (a / 64) = none) →
      let t := M.run (assertReset (.engine e)) s
      (∀ a, sram ≤ a → a < sram + 0x400000 → t.byteAt a = 0#8) ∧ (∀ a, a < sram ∨ sram + 0x400000 ≤ a → t.byteAt a = s.byteAt a) ∧
      (∀ x, t.reg x = if x / 0x1000 = 0x80 + e then regReset x else s.reg x) ∧
      t.engine e = { engine0 with
        bypassed := (s.engine e).bypassed
        failed := (s.engine e).failed
        testing := (s.engine e).testing
        resetting := (s.engine e).resetting
        power := .warm
        since := s.clock.now
        beat := s.clock.now
        reserved := (s.engine e).reserved } ∧
      ∀ x, x ≠ e → t.engine x = s.engine x)

/-- RESET_COMPLETE, taken only when the reset has drained and been asserted and its scope can serve, writes the report under its
number, shows it in RCV_REPORT, lifts the fence and forgets the reset; an engine's reset leaves it no longer resetting, and
held work then resumes. A privileged reset at the window's limit enters bivouac instead. RUNG_LIMIT_EXPIRY past the limit of
the reset's rung reports it as escalated and triggers the enclosing scope with the first trigger's stamp; before the limit it
is turned away. POWER_CYCLE_REQUEST pulls the three pins low, keeps reason and stamp for the tray controller and takes a
report number. -/
def Obligations.ResetsEndInServiceAHigherRungOrBivouac : Prop :=
  ∀ (s : State), s.Canonical → s.Keyed →
    (∀ key r, tblFind s.rcv.resets key = some r → s.resetReady key = true →
      let lifted := fun (u : State) => tblFind u.rcv.resets key = none ∧ tblFind u.rcv.fences key = none ∧
        u.reg Reg.rcvReport = BitVec.ofNat 64 r.seq ∧ (∀ x, x ≠ key → tblFind u.rcv.resets x = tblFind s.rcv.resets x)
      (∀ e, r.toScope = .engine e → CompletesThen (.resetComplete key) s (do
        drivePins
        resumeFenceHolds key
        presenceChanged) fun u => lifted u ∧ (u.engine e).resetting = false) ∧
      (r.toScope = .bcc → s.privLimit ≤ s.privCount → CompletesThen (.resetComplete key) s (do
        enterBivouac
        presenceChanged) fun u => lifted u ∧ u.rcv.privEmmc = s.rcv.priv)) ∧
    (∀ key, s.resetReady key = false → TurnedAway (.resetComplete key) s) ∧
    (∀ key r, tblFind s.rcv.resets key = some r →
      let past := r.trigger + r.toScope.limit + settleMargin
      let dropped := fun (u : State) => tblFind u.rcv.resets key = none ∧ tblFind u.rcv.fences key = none ∧
        u.reg Reg.rcvReport = BitVec.ofNat 64 r.seq ∧ s.SameBut [.mem, .regs, .sys, .tally, .rcv] u
      (past ≤ s.clock.now → r.toScope ≠ .die → CompletesThen (.rungLimitExpiry key) s
        (trigger r.toScope.enclosing r.cause r.trigger r.toScope.rung false) dropped) ∧
      (past ≤ s.clock.now → r.toScope = .die → CompletesThen (.rungLimitExpiry key) s (requestPowerCycle 1 r.cause r.trigger 4 true) dropped) ∧
      (s.clock.now < past → TurnedAway (.rungLimitExpiry key) s)) ∧
    (∀ reason, 1 ≤ reason → reason ≤ 3 → ∃ t, exec (.powerCycleRequest reason) s = .next t ∧ s.SameBut [.mem, .regs, .sys, .tally, .rcv, .pins] t ∧
      t.pins = { s.pins with pcycReqN := false, trayAlertN := false, safeN := false } ∧
      t.rcv = { s.rcv with
        reason := reason
        requestAt := s.clock.now
        recorded := s.rcv.recorded || reason != 2
        nextReport := (s.rcv.nextReport + 1) % 2 ^ 32 } ∧
      ∀ x, t.reg x = if x = Reg.rcvReport then BitVec.ofNat 64 s.rcv.nextReport else s.reg x)

/-- WDT_KICK by the BCC sets the kick stamp, by another it is refused. ENGINE_HANG_WATCHDOG raises event 0x5201 for the task and
triggers rung 2. BCC_WATCHDOG_EXPIRY restarts the BCC and the watchdog; HEARTBEAT_LOSS resets the security block or the die.
RESET_IN begins a chip reset whose drain is already over; the release clears the pin. SMBUS_BLOCK_READ_A0 answers the 16-byte
message and, with no power cycle asked, releases the alert. REPLAY_CHIP with nothing interrupted raises event 0x0203 with zero
counts; a resubmitted entry whose descriptor reads well is stored as a task again. LEDGER_COPY_REWRITTEN gives every record of
the queue its copy at the other home and lets the queue accept again. -/
def Obligations.WatchdogsAndTheTrayControllerActOnTheDevice : Prop :=
  ∀ (s : State), s.Canonical → s.Keyed →
    (∃ t, exec (.wdtKick .bcc) s = .next t ∧ s.SameBut [.rcv] t ∧ t.rcv = { s.rcv with kickAt := s.clock.now }) ∧
    (∀ w, w ≠ .bcc → exec (.wdtKick w) s = .next (refusedWrite s Reg.rcvWdt (2 ^ 14) 0)) ∧
    (∀ e n k, (s.engine e).running = some n → s.task n = some k →
      let due := (s.engine e).beat + usUnits (s.fld Reg.rcvHang Fld.rcvHangUs) + settleMargin
      ((s.engine e).stopped = false → s.throttled e = false → s.waitsOnFlow n = false → due ≤ s.clock.now →
        CompletesThen (.engineHangWatchdog e) s (do
          settleAll (← raiseFor n 0x81 (partOf e) 0x5201 (taskDetail [(1, baseEngine e)] k 0xFF))
          trigger (.engine (baseEngine e)) 0x5201 s.clock.now 0 false) fun u => u = s) ∧
      (s.clock.now < due ∨ s.waitsOnFlow n = true → TurnedAway (.engineHangWatchdog e) s)) ∧
    (∀ due, due = s.rcv.kickAt + msUnits (s.fld Reg.rcvWdt Fld.rcvWdtBccMs) + settleMargin →
      (s.power.phase = 2 → due ≤ s.clock.now → s.rcv.resets = [] → s.sec.update = none → ∃ t, exec .bccWatchdogExpiry s = .next t ∧
        s.SameBut [.mem, .sys, .tally, .rcv] t ∧ BeganReset s .bcc none t ∧ t.rcv.kickAt = s.clock.now ∧
        t.rcv.priv = s.rcv.priv ++ [s.clock.now]) ∧
      (s.clock.now < due → TurnedAway .bccWatchdogExpiry s)) ∧
    (s.power.phase = 2 → (s.rcv.resets = [] → ∃ t, exec (.heartbeatLoss 2) s = .next t ∧ s.SameBut [.mem, .sys, .tally, .rcv] t ∧
        BeganReset s .sec none t) ∧
      ∀ b, b = 1 ∨ b = 3 → takesTrigger s .die → ∃ t, exec (.heartbeatLoss b) s = .next t ∧ s.SameBut (Instr.heartbeatLoss b).parts t ∧
        BeganReset s .die none t ∧ t.pins.safeN = false) ∧
    (s.power.phase ≠ 0 → s.rcv.resetInLow = false → takesTrigger s .die → ∃ t, exec .resetIn s = .next t ∧ s.SameBut Instr.resetIn.parts t ∧
      BeganReset s .die (some s.clock.now) t ∧ t.rcv.resetInLow = true) ∧
    (s.rcv.resetInLow = true → TurnedAway .resetIn s ∧ ∃ t, exec .resetInRelease s = .next t ∧ s.SameBut [.rcv] t ∧
      t.rcv = { s.rcv with resetInLow := false }) ∧
    (s.rcv.resetInLow = false → TurnedAway .resetInRelease s) ∧
    (s.power.phase ≠ 0 → ∃ t, exec .smbusBlockReadA0 s = .next t ∧ s.SameBut [.out, .pins] t ∧
      t.out = some ⟨true, leBytes 1 s.rcv.reason ++ leBytes 4 (s.fld Reg.rcvReport Fld.rcvReportSeq) ++ leBytes 8 s.rcv.requestAt ++
        leBytes 1 s.rcvState ++ leBytes 1 (min s.privCount 255) ++ leBytes 1 0⟩ ∧
      t.pins = { s.pins with trayAlertN := s.pins.trayAlertN || s.pins.pcycReqN }) ∧
    (s.power.phase = 0 → TurnedAway .smbusBlockReadA0 s) ∧
    (s.rcv.replayDue = true → s.tally.accepting = true → (∀ p ∈ s.populatedParts, s.fenced p = false) →
      (∀ l ∈ s.tally.heldLists, l.committed = false) → (∀ p ∈ s.tally.queues, p.2.ledger = true → s.interrupted p.1 = []) →
      ∃ u, s.SameBut [.rcv] u ∧ u.rcv = { s.rcv with replayDue := false } ∧
        exec .replayChip s = .next (u.afterEvent 0x80 6 0x0203 (det [(4, 0), (4, 0)]))) ∧
    (s.rcv.replayDue = false → TurnedAway .replayChip s) ∧
    (∀ q seq x e d u, s.queue q = some x → x.ents.find? (fun y => y.seq == seq) = some e → e.ty = 1 →
      (ctxRead 0x80 e.producer (((s.acceptRec q seq 0).map fun r => leAt (s.bytesAt (leAt r.bytes 40 8) 64) 0 8).getD 0) 128).gives s (.ok d) u →
      u.hasRoom e.producer none false [d] = true → ∀ n v, (storeTask e.producer d (.enq q seq) none).gives u n v →
      ∃ y, M.run (resubmit q seq) s = M.run (do settleAll (← takeTokens n)) y ∧ v.SameBut [.tally] y ∧
        ∀ z, v.queue q = some z → y.queue q = some { z with ents := z.ents.map fun x => if x.seq = seq then { x with bound := some (n, 0xFF) } else x }) ∧
    (∀ q x, s.queue q = some x → x.ledger = true → x.blocked = true → s.fenced x.home = false → s.fenced x.mirror = false →
      ∃ t, exec (.ledgerCopyRewritten q) s = .next t ∧ s.SameBut [.tally] t ∧ t.queue q = some { x with blocked := false } ∧
        t.tally = { s.tally with ledger := t.tally.ledger, queues := t.tally.queues } ∧ (∀ r ∈ s.tally.ledger, r ∈ t.tally.ledger) ∧
        (∀ r ∈ s.tally.ledger, r.queue = q → ∃ y ∈ t.tally.ledger, y.queue = q ∧ y.seq = r.seq ∧ y.ty = r.ty ∧
          y.home = if r.home = x.home then x.mirror else x.home) ∧
        ∀ r ∈ t.tally.ledger, r.queue ≠ q → r ∈ s.tally.ledger) ∧
    (∀ q x, s.queue q = some x → x.blocked = false → TurnedAway (.ledgerCopyRewritten q) s)

/-- On an engine whose running task has the opcode, its descriptors and its inputs. SEND_SHARD, and the first command of
ALL_REDUCE and ALL_GATHER, with the queue pairs ready, read this member's part, note the part as sent in this run, leave the
task unfinished and post the transfer message to the peer or to every other rank. RECV_SHARD writes the elements of the
awaited transfer to this member's part and drops it. The second command of ALL_REDUCE and ALL_GATHER, with its part
acknowledged and every other member's received, writes the reduction or the gathered tensor and drops the transfers. A
transfer of another shape raises event 0x3D02 and ends the task aborted. Without the transfers awaited each is turned away. -/
def Obligations.CommunicationOperationsSendReceiveAndCombine : Prop :=
  ∀ (s : State) (e n : Nat) (k : Task), s.task n = some k →
    let j := fabJob k.params
    let ts := s.operands k
    let sends := fun (c : Instr) (ranks : List Nat) => (∀ r ∈ ranks, ∃ i q, s.qpOf j r = some (i, q) ∧ q.phase = .ready) →
      ∀ u, (planReads s k (sendPlan s ts)).gives s none u → u.task n = some k → CompletesThen c s (sendShards n k ranks) fun v =>
        u.SameBut [.regs, .tally, .fabric, .safe] v ∧ (∃ y, v.task n = some y ∧ y.done = false ∧ y.life = k.life) ∧
        v.fabric = { u.fabric with sends := u.fabric.sends.filter (fun x => x.1 != n) ++ [(n, k.runAt)] }
    let drops := fun (xs : List Transfer) (v t : State) => v.SameBut [.regs, .tally, .fabric, .safe] t ∧
      t.fabric = { v.fabric with transfers := v.fabric.transfers.filter fun x => !xs.contains x }
    let differs := fun (r : Nat) => (do
      settleAll (← raiseFor n 0xB1 6 0x3D02 (taskDetail [(1, r)] k 0xFF))
      faultTask n false false 1 : M Unit)
    (s.opTask e 0x800 = some n → (s.hasSent n = false → sends (.sendShard e) [fabPeer k.params]) ∧
      (s.hasSent n = true → TurnedAway (.sendShard e) s)) ∧
    (s.opTask e 0x801 = some n →
      (∀ x o, s.transferFor k.params (fabPeer k.params) = some x → s.operand k 8 = some o →
        (x.shape.take 51 = padTo 51 (shapeOf o) → RunsPlan (.recvShard e) s s n k (recvPlan x) (fun _ => 0) (drops [x])) ∧
        (x.shape.take 51 ≠ padTo 51 (shapeOf o) → CompletesThen (.recvShard e) s (differs (fabPeer k.params)) fun u => u = s)) ∧
      (s.transferFor k.params (fabPeer k.params) = none → TurnedAway (.recvShard e) s)) ∧
    (∀ c ∈ [(Instr.allReduce e, 0x802, fabReducePlan k, fun (_ : State) => 0),
        (Instr.allGather e, 0x803, fabGatherPlan k, fun u => (fabGatherNotes k u ts).2)], s.opTask e c.2.1 = some n →
      (s.hasSent n = false → sends c.1 (s.otherRanks j)) ∧
      (s.hasSent n = true → s.gathered n k = false → TurnedAway c.1 s) ∧
      (∀ xs o, xs = (s.otherRanks j).filterMap (fun r => s.transferFor k.params r) → s.operand k 0 = some o → s.gathered n k = true →
        ((∀ x ∈ xs, x.shape.take 51 = padTo 51 (shapeOf o)) → RunsPlan c.1 s s n k c.2.2.1 c.2.2.2 (drops xs)) ∧
        ∀ x, xs.find? (fun x => x.shape.take 51 != padTo 51 (shapeOf o)) = some x →
          CompletesThen c.1 s (differs x.sender) fun u => u = s))

/-- On a ready queue pair of an endpoint not fenced. A WRITE or SEND packet out of sequence is answered by an ACK of the last
taken (a repetition) or a sequence NAK (a gap) and changes nothing else. A WRITE's packets gather until its last; the whole is
then written and acknowledged; one whose key or range is refused raises event 0x3D01 and gets a remote access NAK. A READ is
answered in packets of the path MTU. A SEND delivers its message: a transfer is held, a queue's message answered by its code.
A CE mark sends a CNP at most once per cnp_us. An ACK takes the acknowledged packets off and completes what they served; a NAK
or a timeout sends the rest again, until retries run out. A CNP is kept, and the end of its window cuts the rate by at most
four CNPs or raises it by the step. A fenced endpoint ignores packets. -/
def Obligations.RocePacketsAreTakenInOrderAndAnswered : Prop :=
  ∀ (s : State) (i psn : Nat), s.Canonical →
    let q := s.qp i
    let write := fun (f r a l : Nat) (d : List Byte) => Instr.rdmaWriteReceive i psn f r a l d false
    let send := fun (f : Nat) (d : List Byte) => Instr.roceSendReceive i psn f d false
    let answer := fun (x y : Nat) => (0xB1, wirePacket q.peer 17 x (beBytes 1 y ++ beBytes 3 0) ([] : List Byte))
    let answers := fun (c : Instr) (x y : Nat) => ∃ t, exec c s = .next t ∧ s.SameBut [.sent] t ∧ t.sent = s.sent ++ [answer x y]
    let taken := fun (c : Instr) (u : State) (v : Qp) (out : List (Nat × List Byte)) =>
      ∃ t, exec c s = .next t ∧ u.SameBut [.fabric, .sent] t ∧ t.qp i = v ∧ t.sent = u.sent ++ out ∧
        t.fabric = { u.fabric with qps := t.fabric.qps } ∧ ∀ x, x ≠ i → t.qp x = u.qp x
    let nextPsn := (psn + 1) % 2 ^ 24
    (s.fabFenced = true → (∀ f r a l d ce, exec (.rdmaWriteReceive i psn f r a l d ce) s = .next s ∧
        exec (.rdmaReadReceive i psn r a l) s = .next s ∧ exec (.roceSendReceive i psn f d ce) s = .next s) ∧
      ∀ x, TurnedAway (.roceAckReceive i psn x) s ∧ TurnedAway (.ackTimeout i) s ∧ TurnedAway (.cnpReceive i) s) ∧
    (s.fabFenced = false → q.phase = .ready →
      (∀ f r a l d, (seqClass q.recvPsn psn = 1 → answers (write f r a l d) ((q.recvPsn + 2 ^ 24 - 1) % 2 ^ 24) 0x1F ∧
          answers (send f d) ((q.recvPsn + 2 ^ 24 - 1) % 2 ^ 24) 0x1F) ∧
        (seqClass q.recvPsn psn = 2 → answers (write f r a l d) q.recvPsn 0x60 ∧ answers (send f d) q.recvPsn 0x60 ∧
          answers (.rdmaReadReceive i psn r a l) q.recvPsn 0x60 ∧
          (q.cnpAt = none → ∃ t, exec (.roceSendReceive i psn f d true) s = .next t ∧ s.SameBut [.fabric, .sent] t ∧
            t.sent = s.sent ++ [(0xB1, wirePacket q.peer 0x81 0 [] (zeros 16)), answer q.recvPsn 0x60] ∧
            t.qp i = { q with cnpAt := some s.clock.now }) ∧
          ∀ x, q.cnpAt = some x → s.clock.now < x + usUnits (s.fld Reg.fabRc Fld.fabRcCnpUs) →
            answers (.roceSendReceive i psn f d true) q.recvPsn 0x60)) ∧
      (psn = q.recvPsn →
        (∀ f r a l d, f = 1 ∨ f = 2 → q.msg ≠ 2 → answers (write f r a l d) psn 0x61) ∧
        (∀ r a l d, q.msg = 2 → taken (write 1 r a l d) s { q with part := q.part ++ d, recvPsn := nextPsn } []) ∧
        (∀ r a l d u, (rdmaAdmit i psn r a l true).gives s true u →
          taken (write 0 r a l d) u { q with part := d, msg := 2, rkey := r, addr := a, total := l, recvPsn := nextPsn } []) ∧
        (∀ r a l d v, d.length = l → M.gives (do
            if ← rdmaAdmit i psn r a l true then
              takePacket i 2 true r a l d
              endMessage i
              if ← rdmaAdmit i psn r a l true then ctxWrite 0xB1 (r % 2 ^ 20) a d else return some .page
            else return some .page : M (Option MemErr)) s none v → v.fabFenced = false →
          taken (write 3 r a l d) v { q with part := [], msg := 0, rkey := r, addr := a, total := l, recvPsn := nextPsn } [answer psn 0x1F]) ∧
        (∀ r a l d v, q.msg = 2 → q.part.length + d.length = q.total → M.gives (do
            takePacket i 2 false r a l d
            endMessage i
            if ← rdmaAdmit i psn q.rkey q.addr q.total true then ctxWrite 0xB1 (q.rkey % 2 ^ 20) q.addr (q.part ++ d)
            else return some .page : M (Option MemErr)) s none v → v.fabFenced = false →
          taken (write 2 r a l d) v { q with part := [], msg := 0, recvPsn := nextPsn } [answer psn 0x1F]) ∧
        (∀ f r a l d, f = 0 ∨ f = 3 → s.rdmaOk r a l = false →
          taken (write f r a l d) (s.afterEvent 0xB1 6 0x3D01 (det [(4, r), (6, a), (1, q.job), (1, q.rank)])) { q with part := [], msg := 0 }
            [answer psn 0x62]) ∧
        (∀ f d, f = 1 ∨ f = 2 → q.msg ≠ 1 → answers (send f d) psn 0x61) ∧
        (∀ d, taken (send 0 d) s { q with part := d, msg := 1, rkey := 0, addr := 0, total := 0, recvPsn := nextPsn } []) ∧
        (∀ d, q.msg = 1 → taken (send 1 d) s { q with part := q.part ++ d, recvPsn := nextPsn } []) ∧
        (∀ d, 64 ≤ d.length → leAt d 0 1 = 1 → ∃ t, exec (send 3 d) s = .next t ∧ s.SameBut [.fabric, .sent] t ∧
          t.sent = s.sent ++ [answer psn 0x1F] ∧
          t.qp i = { q with part := [], msg := 0, rkey := 0, addr := 0, total := 0, recvPsn := nextPsn } ∧
          t.fabric.transfers = s.fabric.transfers ++
            [⟨leAt d 1 1, leAt d 2 1, leAt d 4 4, leAt d 8 4, leAt d 3 1, (d.drop 12).take 52, d.drop 64, s.clock.now⟩]) ∧
        (∀ d code u, leAt d 0 1 = 5 → (takeFabricMessage i d).gives s code u → u.fabFenced = false →
          let end_ := (0xB1, wirePacket (u.qp i).peer 17 psn
            (beBytes 1 (if code = 0 then 0x1F else if code = 1 then 0x20 else 0x61) ++ beBytes 3 0) ([] : List Byte))
          ∃ t, exec (send 3 d) s = .next t ∧ u.SameBut [.fabric, .sent] t ∧ t.sent = u.sent ++ [end_] ∧
            (t.qp i).recvPsn = if code = 0 then ((u.qp i).recvPsn + 1) % 2 ^ 24 else (u.qp i).recvPsn)) ∧
      (∀ r a l u bs v, seqClass q.recvPsn psn ≠ 2 → (rdmaAdmit i psn r a l false).gives s true u →
        (ctxRead 0xB1 (r % 2 ^ 20) a l).gives u (.ok bs) v → v.fabFenced = false →
        let ps := pieces pathMtu (l / 1024 + 1) bs
        let op := fun (n : Nat) => if ps.length = 1 then 16 else if n = 0 then 13 else if n + 1 = ps.length then 15 else 14
        taken (.rdmaReadReceive i psn r a l) v
          (if seqClass q.recvPsn psn = 0 then { q with recvPsn := (q.recvPsn + ps.length) % 2 ^ 24 } else q)
          (ps.zipIdx.map fun x => (0xB1, wirePacket q.peer (op x.2) ((psn + x.2) % 2 ^ 24)
            (if op x.2 = 14 then [] else beBytes 1 0x1F ++ beBytes 3 0) x.1))) ∧
      (∀ nak, let good := q.out.takeWhile fun p => p.op != 12 && (psnBefore p.psn psn || (nak == 0 && p.psn == psn))
        CompletesThen (.roceAckReceive i psn nak) s (do
          for p in good do packetAcked p
          match nak with
          | 0 => pure ()
          | 1 => retryQp i false
          | 2 => retryQp i true
          | _ => peerLost q.job q.rank 1) fun u => s.SameBut [.fabric] u ∧ (∀ x, x ≠ i → u.qp x = s.qp x) ∧
            u.qp i = { q with out := q.out.drop good.length, retries := if good.isEmpty then q.retries else 0 }) ∧
      (∀ p n k, p.entry = none → p.task = some n → s.task n = some k → s.sending n = false → dOpcode k.desc = 0x800 →
        OneTask s n (some { k with done := true }) (M.run (packetAcked p) s)) ∧
      (q.out ≠ [] → (q.retries < Config.retryLimit % 8 → taken (.ackTimeout i) s { q with retries := q.retries + 1 }
          (q.out.map fun p => (0xB1, wirePacket q.peer p.op p.psn
            (if p.op = 6 ∨ p.op = 10 ∨ p.op = 12 then beBytes 8 p.addr ++ beBytes 4 p.rkey ++ beBytes 4 p.len else []) p.bytes))) ∧
        (Config.retryLimit % 8 ≤ q.retries → CompletesThen (.ackTimeout i) s (peerLost q.job q.rank 1) fun u => u = s)) ∧
      (q.out = [] → TurnedAway (.ackTimeout i) s) ∧
      taken (.cnpReceive i) s { q with cnps := q.cnps ++ [s.clock.now] } []) ∧
    (q.phase = .ready → q.windowAt < s.rateWindow (s.clock.now - settleMargin) →
      let c := (q.cnps.filter fun t => s.rateWindow t == q.windowAt).length
      let add := s.fld Reg.fabRc Fld.fabRcAddMbps
      let after := fun (rate step : Nat) => taken (.rateWindowEnd i) s { q with
        rate := rate, step := step, cnps := q.cnps.filter fun t => q.windowAt < s.rateWindow t, windowAt := q.windowAt + 1 } []
      (0 < c → after (max (s.fld Reg.fabRc Fld.fabRcRminMbps)
        (q.rate - q.rate * min c 4 * s.fld Reg.fabRc Fld.fabRcCut / 1024)) add) ∧
      (c = 0 → q.rate < q.line →
        after (min q.line (q.rate + q.step)) (min (s.fld Reg.fabRc Fld.fabRcStepMax * 1000) (2 * q.step))) ∧
      (c = 0 → q.line ≤ q.rate → after q.rate q.step)) ∧
    (q.phase ≠ .ready ∨ s.rateWindow (s.clock.now - settleMargin) ≤ q.windowAt → TurnedAway (.rateWindowEnd i) s)

/-- RESET_NOTICE of a rank of a job puts its queue pairs into error and records the rank as lost; tasks that need it then end as
lost, and event 0xAD05 is raised. TRANSFER_DISCARD, of a transfer no live task awaits and 10 ms and the margin after it came,
removes and counts it; else it is turned away. JOB_ABORT, in machine mode, ends the context's tasks cancelled, discards the
transfers of the current epoch and sets aborted; JOB_RESUME moves the epoch on, clears aborted and the lost ranks, and sets up
lost queue pairs again; other writers are refused. RDMA_READ_RESPONSE takes the request off; for a mirrored queue the open
entries are restored, then resubmitted. -/
def Obligations.JobsLosePeersAbortAndResume : Prop :=
  ∀ (s : State), s.Canonical →
    (∀ j r, s.fabFenced = false → j < 16 → r < s.jobMembers j → s.fabric.waits = [] → CompletesThen (.resetNotice j r) s (do
        for x in s.tally.tasks do
          if (x.2.life = .ready ∨ x.2.life = .assigned ∨ x.2.life = .running) ∧ s.needsRank x.2 j r then
            unstall x.1
            settleAll (← endLost x.1 x.2 j r 0)
        raise 0xB1 6 0xAD05 (det [(1, j), (1, r)])) fun u => s.SameBut [.fabric] u ∧
          (∀ i, u.qp i = if (tblFind s.fabric.qps i).isSome ∧ (s.qp i).job = j ∧ (s.qp i).rank = r then lostQp (s.qp i) else s.qp i) ∧
          u.job j = { s.job j with lost := ((s.job j).lost.filter fun l => l.1 != r) ++ [(r, 0)] } ∧ ∀ x, x ≠ j → u.job x = s.job x) ∧
    (∀ j r, s.fabFenced = true ∨ 16 ≤ j ∨ s.jobMembers j ≤ r → TurnedAway (.resetNotice j r) s) ∧
    (∀ n x, s.fabric.transfers[n]? = some x →
      (s.awaited x = false → x.stamp + msUnits 10 + settleMargin ≤ s.clock.now → ∃ t, exec (.transferDiscard n) s = .next t ∧
        s.SameBut [.fabric] t ∧ t.fabric = { s.fabric with
          transfers := s.fabric.transfers.eraseIdx n
          discarded := s.fabric.discarded + 1 }) ∧
      (s.awaited x = true ∨ s.clock.now < x.stamp + msUnits 10 + settleMargin → TurnedAway (.transferDiscard n) s)) ∧
    (∀ n, s.fabric.transfers[n]? = none → TurnedAway (.transferDiscard n) s) ∧
    (∀ w j step, machineMode w = true →
      let st := Reg.fabJobStatus j
      (∀ u, M.gives (do
          for n in (s.tally.tasks.filter fun p => p.2.handle == s.jobHandle j).map (·.1) do
            unstall n
            finish n 4) s () u →
        ∃ t, exec (.jobAbort w j step) s = .next t ∧ s.SameBut (Instr.jobAbort w j step).parts t ∧ u.SameBut [.regs, .fabric] t ∧
          OneField u st Fld.fabJobStatusAborted 1 t ∧
          t.fabric = { u.fabric with transfers := u.fabric.transfers.filter fun x => !(x.job == j && x.epoch == s.jobEpoch j) }) ∧
      CompletesThen (.jobResume w j) s (do
        for x in s.fabric.qps do
          if x.2.job = j ∧ x.2.phase = .error then reviveQp x.1) fun u => s.SameBut [.regs, .fabric] u ∧
            s.OneReg st (setBits (setBits (s.reg st) Fld.fabJobStatusEpoch.lsb Fld.fabJobStatusEpoch.width ((s.jobEpoch j + 1) % 256))
              Fld.fabJobStatusAborted.lsb Fld.fabJobStatusAborted.width 0) u ∧
            u.job j = { lost := [], steps := (s.job j).steps.filter fun p => !p.2.2.isEmpty } ∧ u.fabric = { s.fabric with jobs := u.fabric.jobs }) ∧
    (∀ w j step, machineMode w = false →
      exec (.jobAbort w j step) s = .next (refusedWrite s (Reg.fabJobCmd j) (1 + step * 2 ^ 32) 0) ∧
      exec (.jobResume w j) s = .next (refusedWrite s (Reg.fabJobCmd j) 2 0)) ∧
    (∀ i b v, (readMember (s.qp i).job (s.qp i).rank).gives s (some b) v → (s.qp i).out = [] →
      let t := M.run (reviveQp i) s
      v.SameBut [.fabric] t ∧ (t.qp i).phase = .ready ∧ (t.qp i).peer = mbPeerQpn b ∧ (t.qp i).rate = s.portRate (mbPort b) ∧
        (t.qp i).sendPsn = 0 ∧ (t.qp i).recvPsn = 0 ∧ ∀ x, x ≠ i → t.qp x = v.qp x) ∧
    (∀ i psn data p, s.fabFenced = false → (s.qp i).phase = .ready → (s.qp i).out.find? (fun p => p.op == 12 && p.psn == psn) = some p →
      p.len = data.length →
      let off := fun (u : State) => s.SameBut [.fabric] u ∧ u.qp i = { s.qp i with out := (s.qp i).out.erase p, retries := 0 } ∧
        ∀ x, x ≠ i → u.qp x = s.qp x
      (p.entry = none → ∃ t, exec (.rdmaReadResponse i psn data) s = .next t ∧ off t) ∧
      ∀ n y x, p.entry = some (n, y) → s.queue n = some x → CompletesThen (.rdmaReadResponse i psn data) s (do
        for e in mirrorOpen data x.entries do restoreEntry n e
        modQueue n fun u => { u with reading := false }
        for e in mirrorOpen data x.entries do resubmit n e.1
        settleAll [.bind n]) off) ∧
    (∀ i psn data, s.fabFenced = true ∨ (s.qp i).phase ≠ .ready ∨
      (∀ p ∈ (s.qp i).out, ¬ (p.op = 12 ∧ p.psn = psn ∧ p.len = data.length)) → TurnedAway (.rdmaReadResponse i psn data) s)

/-- Only the BCC's writes count; others are refused. A good pipeline record becomes enabled, verified when no cairn is bound and
unverified else; a bad one is refused. SAFE_ENTER sets safe state with event 0x6003, pulling SAFE_N low where safe_pin is set;
SAFE_CLEAR is refused until every bound cairn has passed, then verifies the pipeline with event 0x6004. A checker's compare
counts the block and, on a difference, the mismatch, and is a fault of the instance: event 0x6001, one fault counted for each
instance, safe state at a second within the window. SEAL_ENABLE records a sidecar in a buffer clear of Hall buffers. The gate
decides the oldest undecided instance once ready, or at its deadline with a fault of kind 5: withheld entries raise event
0x6002, held entries are released in order with the verdict's bytes, then a closing entry follows. -/
def Obligations.PipelinesJudgeTheirInstancesAndGateThem : Prop :=
  ∀ (s : State) (p : Nat), s.Canonical → p < 32 →
    let cfg := Reg.safePipeCfg p
    let st := Reg.safePipeStatus p
    let state := fun (v : Nat) (t : State) => OneField s st Fld.safePipeStatusState v t
    let pins := fun (v t : State) => t = { v with pins := { v.pins with safeN := !v.safeLow } }
    (∀ w r b, w ≠ .bcc → r < 256 → exec (.safeClear w p) s = .next (refusedWrite s (Reg.safePipeCmd p) 1 0) ∧
      exec (.safeEnter w p) s = .next (refusedWrite s (Reg.safePipeCmd p) 2 0) ∧ exec (.pipelineEnable w p) s = .next (refusedWrite s cfg 1 0) ∧
      exec (.sealEnable w r b) s = .next (refusedWrite s Reg.safeSeal 1 0)) ∧
    (s.pipeOn p = true → exec (.pipelineEnable .bcc p) s = .next s) ∧
    (s.pipeOn p = false → s.pipeGood p = false → exec (.pipelineEnable .bcc p) s = .next (refusedWrite s cfg ((s.reg cfg).toNat + 1) 0)) ∧
    (s.pipeOn p = false → s.pipeGood p = true → s.pipeState p ≠ 3 → ∃ t, exec (.pipelineEnable .bcc p) s = .next t ∧
      s.SameBut [.regs, .safe] t ∧ t.pipeOn p = true ∧ t.pipeState p = (if s.boundCairns p = [] then 1 else 2) ∧
      t.pipe p = { s.pipe p with faulty := [], due := s.boundCairns p, safeDue := [] } ∧ ∀ x, x ≠ cfg → x ≠ st → t.reg x = s.reg x) ∧
    (s.pipeOn p = false ∨ s.pipeState p = 3 → exec (.safeEnter .bcc p) s = .next s) ∧
    (∀ num, s.pipeOn p = true → s.pipeState p ≠ 3 →
      num = ((s.pipe p).insts.getLast?.map (·.num)).getD (s.fld st Fld.safePipeStatusLastFault) →
      ∃ u t, s.SameBut [.regs, .safe] u ∧ state 3 u ∧ u.pipe p = { s.pipe p with safeDue := s.boundCairns p } ∧
        pins (u.afterEvent 0x81 6 0x6003 (det [(1, p), (1, 3), (2, 0), (4, num), (4, 0)])) t ∧ exec (.safeEnter .bcc p) s = .next t ∧
        (s.flag cfg Fld.safePipeCfgSafePin = true → t.pins.safeN = false)) ∧
    (s.pipeState p ≠ 3 → exec (.safeClear .bcc p) s = .next s) ∧
    (s.pipeState p = 3 → (s.pipe p).safeDue ≠ [] → exec (.safeClear .bcc p) s = .next (refusedWrite s (Reg.safePipeCmd p) 1 0)) ∧
    (s.pipeState p = 3 → (s.pipe p).safeDue = [] → ∃ u t, s.SameBut [.regs, .safe] u ∧ state 1 u ∧
      u.pipe p = { s.pipe p with faulty := [], due := [] } ∧ pins (u.afterEvent 0x81 6 0x6004 (det [(1, p)])) t ∧
      exec (.safeClear .bcc p) s = .next t) ∧
    (∀ n i b, s.nextBlock p n = some (i, b) → s.present b.checker = true → b.checker ∈ [0x20, 0x21, 0x22, 0x23, 0x2E] → ∀ crc,
      let chk := checkerIndex b.checker
      let compared := fun (t : State) => s.SameBut [.regs, .safe] t ∧ (∃ u, Counted s (Reg.safePipeSampled p) Fld.safePipeSampledBlocks u ∧
          Counted u (Reg.chkBlocks chk) Fld.chkBlocksCount t) ∧
        t.pipe p = { s.pipe p with insts := (s.pipe p).insts.map fun y => if y.id = i.id then { y with blocks := y.blocks.erase b } else y }
      (crc = b.crc → ∃ t, exec (.checkerCompare p n crc) s = .next t ∧ compared t) ∧
      (crc ≠ b.crc → CompletesThen (.checkerCompare p n crc) s (do
        bump (Reg.chkMismatch chk) Fld.chkMismatchCount 1
        pipeFault p i.num 0 b.engine b.checker b.index b.crc) compared)) ∧
    (∀ n crc, s.nextBlock p n = none → TurnedAway (.checkerCompare p n crc) s) ∧
    (∀ num kind eng chk index crc src,
      src = (if kind = 0 then chk else if kind ≤ 3 ∧ eng < 0xFF then eng else 0x81) → (s.pipe p).faulty.contains num = false →
      ∃ u, (s.afterEvent src (partOf src) 0x6001
          (det [(1, p), (1, eng), (1, chk), (1, kind), (4, num), (4, index), (4, crc)])).SameBut [.regs, .safe] u ∧
        u.fld st Fld.safePipeStatusLastFault = num % 2 ^ 32 ∧
        u.fld (Reg.safePipeCnt p) Fld.safePipeCntFaults = satAdd Fld.safePipeCntFaults.width (s.fld (Reg.safePipeCnt p) Fld.safePipeCntFaults) 1 ∧
        (∀ i ∈ (s.pipe p).insts, i.num = num → i.fault = none → { i with fault := some kind } ∈ (u.pipe p).insts) ∧
        num ∈ (u.pipe p).faulty ∧
        ((∀ a ∈ (s.pipe p).faulty, ∀ w, w = s.fld (Reg.safePipeChk p) Fld.safePipeChkDisWindow → withinWindow a num w = false ∧
            withinWindow num a w = false) → M.run (pipeFault p num kind eng chk index crc) s = u) ∧
        ∀ a w, w = s.fld (Reg.safePipeChk p) Fld.safePipeChkDisWindow → (s.pipe p).faulty = [a] → withinWindow a num w = true →
          M.run (pipeFault p num kind eng chk index crc) s = M.run (enterSafe p 0 num a) u) ∧
    (∀ r b base x, r < 256 → x = signExtend48 (base % 2 ^ 48 / 64 * 64) → tblFind s.hall.bufs r = some b →
      (b.base ≠ 0 ∧ s.inBuffer b.owner x b.sidecarBytes = true ∧ s.meetsHall b.owner x b.sidecarBytes = false →
        ∃ t, exec (.sealEnable .bcc r base) s = .next t ∧ s.SameBut [.hall] t ∧
          t.hall = { s.hall with bufs := tblSet s.hall.bufs r { b with sealed := true, sealBase := x } }) ∧
      (s.meetsHall b.owner x b.sidecarBytes = true →
        exec (.sealEnable .bcc r base) s = .next (refusedWrite s Reg.safeSeal (base % 2 ^ 48 / 64 * 64 + 1) 0))) ∧
    (∀ i, s.nextInst p = some i →
      (s.pipeState p = 3 → s.verdict p i = (3, 0xFF)) ∧ (∀ k, s.pipeState p ≠ 3 → i.fault = some k → s.verdict p i = (2, k)) ∧
      (i.fault = none → (s.pipeState p = 1 → s.verdict p i = (0, 0xFF)) ∧ (s.pipeState p = 2 → s.verdict p i = (1, 0xFF))) ∧
      (∀ q x v r u, q = s.fld (Reg.safePipeGate p) Fld.safePipeGateOutQueue → s.queue q = some x → v = s.verdict p i →
        s.instReady p i = true → M.gives (do
          let mine := x.ents.filter fun e => e.gate == some (p * 2 ^ 32 + i.num)
          modPipe p fun x => { x with insts := x.insts.map fun y => if y.id = i.id then { y with verdict := some v } else y }
          if v.1 = 2 then
            bump (Reg.safePipeCnt p) Fld.safePipeCntWithheld 1
            raise 0x81 6 0x6002 (det [(1, p), (1, v.2), (2, mine.length), (4, i.num), (8, i.stamp)])
          for e in mine do releaseEntry q p x i v e
          acceptEntry q 0 [] x.owner true none noKey none fun e => gateBytes e i.stamp i.num (v.1 + 4) p v.2) s (.ok r) u →
        CompletesThen (.gateDecision p i.num) s (do
          settleAll [.bind q]
          let s ← getS
          modPipe p fun x => { x with insts := x.insts.filter fun y =>
            y.verdict.isNone || (tblFind s.tally.instances y.id).isSome || !y.blocks.isEmpty }) fun y => y = u) ∧
      (∀ num, num ≠ i.num → TurnedAway (.gateDecision p num) s ∧ TurnedAway (.gateDeadline p num) s) ∧
      (s.instReady p i = false → s.gateLimit p i + settleMargin ≤ s.clock.now →
        CompletesThen (.gateDeadline p i.num) s (gateDecision p) fun u => u = M.run (pipeFault p i.num 5 0xFF 0xFF 0 0) s) ∧
      (s.instReady p i = true ∨ s.clock.now < s.gateLimit p i + settleMargin → TurnedAway (.gateDeadline p i.num) s) ∧
      (s.instReady p i = false → TurnedAway (.gateDecision p i.num) s)) ∧
    (∀ (e : List Byte) stamp num v r, e.length = 64 →
      let g := gateBytes e stamp num v p r
      g.length = 64 ∧ g.take 28 = (if v % 4 = 2 ∨ v % 4 = 3 then zeros 28 else e.take 28) ∧ g.drop 48 = e.drop 48 ∧
        leAt g 28 4 = crc32c (g.take 28 ++ g.drop 32) % 2 ^ 32 ∧ leAt g 32 8 = stamp % 2 ^ 64 ∧ leAt g 40 4 = num % 2 ^ 32 ∧
        leAt g 44 1 = v % 256 ∧ leAt g 45 1 = p ∧ leAt g 46 1 = r % 256)

/-- By the BCC; other writers are refused. BELAY_ENABLE sets enable (a mode 1 window must watch its pipeline's graph); BELAY_ARM
arms, late when the watched graph's instance was created in this cycle; BELAY_DISARM clears it. A window's judgement takes the
oldest pending instance: an end in [open, close] is in the window; early or late is a fault of kind 4 in mode 1, and event
0x5C01 (slot graph) or 0x5E01 in mode 0. CAIRN_ENABLE of a good template starts its period and makes covered pipelines
unverified. CAIRN_DUE skips while a kind has no present engine, misses while an instance lives, else reserves stalls and
creates the instance. At its window's end a cairn fails (event 0x6006, safe state), passes (0x0E01) or is missed (0x6007,
covered pipelines unverified). -/
def Obligations.BelayWindowsAndCairnsJudgeInTime : Prop :=
  ∀ (s : State), s.Canonical →
    (∀ w x c, w ≠ .bcc → x < 256 → c < 16 → exec (.belayEnable w x) s = .next (refusedWrite s Reg.safeBwCfg 1 0) ∧
      exec (.belayArm w x) s = .next (refusedWrite s Reg.safeBwCmd 1 0) ∧ exec (.belayDisarm w x) s = .next (refusedWrite s Reg.safeBwCmd 2 0) ∧
      exec (.cairnEnable w c) s = .next (refusedWrite s Reg.safeCairnCfg 1 0)) ∧
    (∀ w, w < 256 →
      let b := s.belay w
      let p := fieldOf b.cfg Fld.safeBwCfgPipe
      let sets := fun (c : Instr) (v : Belay) => ∃ t, exec c s = .next t ∧ s.SameBut [.safe] t ∧ t.belay w = v ∧
        (∀ x, x ≠ w → t.belay x = s.belay x) ∧ t.safe = { s.safe with belays := t.safe.belays }
      let strays := fieldOf b.cfg Fld.safeBwCfgMode = 1 ∧ fieldOf b.cfg Fld.safeBwCfgTmpl ≠ s.fld (Reg.safePipeCfg p) Fld.safePipeCfgTmpl
      (fieldOf b.cfg Fld.safeBwCfgEnable = 1 → exec (.belayEnable .bcc w) s = .next s) ∧
      (fieldOf b.cfg Fld.safeBwCfgEnable ≠ 1 → strays → exec (.belayEnable .bcc w) s = .next (refusedWrite s Reg.safeBwCfg (b.cfg.toNat + 1) 0)) ∧
      (fieldOf b.cfg Fld.safeBwCfgEnable ≠ 1 → ¬ strays → sets (.belayEnable .bcc w) { b with cfg := setBits b.cfg 0 1 1, created := none }) ∧
      (b.armed = true → exec (.belayArm .bcc w) s = .next s) ∧
      (b.armed = false → sets (.belayArm .bcc w) { b with armed := true, late := b.created == some s.clock.now }) ∧
      sets (.belayDisarm .bcc w) { b with armed := false }) ∧
    (∀ w d rest r, (s.belay w).due = d :: rest →
      r = (match d.ended with
        | some e => if (e : Int) < d.opens then 2 else if (e : Int) ≤ d.closes then 1 else 3
        | none => 3) →
      let b := s.belay w
      let judged := fun (u : State) => s.SameBut [.safe] u ∧ u.belay w = { b with due := rest, result := r, inst := d.num }
      let slot := ((tblFind s.tally.graphs (fieldOf b.cfg Fld.safeBwCfgTmpl)).map fun g => g.cadence == 2).getD false
      let part := if slot then 5 else 6
      let event := if slot then 0x5C01 else 0x5E01
      (d.ended = none → (s.clock.now : Int) < d.closes + settleMargin → TurnedAway (.belayWindowDecision w) s) ∧
      (d.ended.isSome = true ∨ d.closes + settleMargin ≤ (s.clock.now : Int) →
        (r = 1 → ∃ t, exec (.belayWindowDecision w) s = .next t ∧ judged t) ∧
        (r ≠ 1 → fieldOf b.cfg Fld.safeBwCfgMode = 1 → CompletesThen (.belayWindowDecision w) s
          (pipeFault (fieldOf b.cfg Fld.safeBwCfgPipe) d.num 4 0xFF 0xFF w 0) judged) ∧
        (r ≠ 1 → fieldOf b.cfg Fld.safeBwCfgMode ≠ 1 → ∃ u, judged u ∧ exec (.belayWindowDecision w) s =
          .next (u.afterEvent 0x81 part event (det [(4, w), (4, d.num), (8, d.closes.toNat)]))))) ∧
    (∀ w, (s.belay w).due = [] → TurnedAway (.belayWindowDecision w) s) ∧
    (∀ c, c < 16 →
      let x := s.cairn c
      let g := tblFind s.tally.graphs (fieldOf x.cfg Fld.safeCairnCfgTmpl)
      (fieldOf x.cfg Fld.safeCairnCfgEnable = 1 → exec (.cairnEnable .bcc c) s = .next s) ∧
      (fieldOf x.cfg Fld.safeCairnCfgEnable ≠ 1 → g = none →
        exec (.cairnEnable .bcc c) s = .next (refusedWrite s Reg.safeCairnCfg (x.cfg.toNat + 1) 0)) ∧
      (∀ y, fieldOf x.cfg Fld.safeCairnCfgEnable ≠ 1 → g = some y →
        (y.cadence = 0 ∧ ((s.ctx y.owner).map (·.safety)).getD false = true ∧ (cairnKinds y).isSome = true ∧
            y.tasks.length ≤ s.storeFree ∧ y.localKeys ≤ s.boardFree →
          ∃ t, exec (.cairnEnable .bcc c) s = .next t ∧ s.SameBut [.regs, .safe] t ∧
            t.cairn c = { x with cfg := setBits x.cfg 0 1 1, since := s.clock.now, n := 0, run := none } ∧
            ∀ p ∈ s.coveredPipes c, (t.pipe p).due = (s.pipe p).due ++ [c] ∧ t.pipeState p = if s.pipeState p = 3 then 3 else 2) ∧
        (y.cadence ≠ 0 ∨ s.storeFree < y.tasks.length →
          exec (.cairnEnable .bcc c) s = .next (refusedWrite s Reg.safeCairnCfg (x.cfg.toNat + 1) 0)))) ∧
    (∀ c,
      let x := s.cairn c
      let g := fieldOf x.cfg Fld.safeCairnCfgTmpl
      let mask := fieldOf x.cfg Fld.safeCairnCfgPipeMask
      let due := s.cairnDue c
      let sets := fun (v : Cairn) (t : State) => s.SameBut [.safe] t ∧ t.cairn c = v
      (fieldOf x.cfg Fld.safeCairnCfgEnable ≠ 1 ∨ x.run.isSome = true ∨ s.clock.now < due → TurnedAway (.cairnDue c) s) ∧
      (∀ ks es, fieldOf x.cfg Fld.safeCairnCfgEnable = 1 → x.run = none → due ≤ s.clock.now →
        (tblFind s.tally.graphs g).bind cairnKinds = some ks → es = ks.filterMap (fun k => (enginesOf k).find? s.present) →
        (es.length < ks.length → ∃ t, exec (.cairnDue c) s = .next t ∧ sets { x with n := x.n + 1, skipped := true } t) ∧
        (es.length = ks.length → s.liveInstances g ≠ [] → CompletesThen (.cairnDue c) s (cairnMissed c 1 due)
          (sets { x with n := x.n + 1, skipped := false })) ∧
        (es.length = ks.length → s.liveInstances g = [] → CompletesThen (.cairnDue c) s (do
          for e in es do reserveStall e s.tally.nextInstance
          let num ← countInstance g
          match ← createInstance g num due 0 with
          | .ok i => modCairn c fun x => { x with
              runs := satAdd 32 x.runs 1
              run := if x.run.isSome then x.run else some ⟨i, due, false, 0, []⟩ }
          | .error _ => do
            update (.engines fun t => t.map fun e =>
              if e.2.reserved = some s.tally.nextInstance then (e.1, { e.2 with reserved := none }) else e)
            cairnMissed c 1 due) (sets { x with n := x.n + 1, skipped := false }))) ∧
      (∀ why y, ∃ u, sets { x with last := 3, run := none } u ∧
        (u.afterEvent 0x81 6 0x6007 (det [(1, c), (1, why), (2, 0), (8, y), (4, mask)])).SameBut [.regs, .safe] (M.run (cairnMissed c why y) s) ∧
        ∀ p ∈ s.coveredPipes c, c ∈ ((M.run (cairnMissed c why y) s).pipe p).due) ∧
      (x.run = none → TurnedAway (.cairnWindowExpiry c) s) ∧
      ∀ r, x.run = some r →
        let ended := (tblFind s.tally.instances r.id).isNone
        (ended = false → s.clock.now < s.cairnLimit c r + settleMargin → TurnedAway (.cairnWindowExpiry c) s) ∧
        (ended = true ∨ s.cairnLimit c r + settleMargin ≤ s.clock.now →
          (∀ bad first, r.checks.find? (fun x => !x.1) = some (false, bad, first) → CompletesThen (.cairnWindowExpiry c) s (do
            raise 0x81 6 0x6006 (det [(1, c), (3, 0), (4, bad), (4, first), (4, mask)])
            for p in s.coveredPipes c do
              enterSafe p 1 (((s.pipe p).insts.getLast?.map (·.num)).getD 0) 0) (sets { x with last := 2, run := none })) ∧
          ((∀ y ∈ r.checks, y.1 = true) →
            (ended = true → r.aborted = false → r.lastEnd ≤ s.cairnLimit c r → CompletesThen (.cairnWindowExpiry c) s (do
              raise 0x81 6 0x0E01 (det [(1, c), (3, 0), (4, x.runs), (8, r.due)])
              for p in s.coveredPipes c do
                modPipe p fun y => { y with due := y.due.filter (· ≠ c), safeDue := y.safeDue.filter (· ≠ c) }
                settlePipe p) (sets { x with last := 1, run := none })) ∧
            (ended = false ∨ r.aborted = true ∨ s.cairnLimit c r < r.lastEnd → CompletesThen (.cairnWindowExpiry c) s
              (cairnMissed c (if r.aborted then 1 else 0) r.due) fun u => u = s))))

/-- BIST_START by the BCC, a rotation that is due, or a retry, begins the test: BIST_STATUS shows it and the engines become
absent; a test in progress, a unit down, bivouac or a unit without in-service test refuses it with event 0x3F01. At the drain
limit what still runs is interrupted, the unit fenced, phase 2. LBIST_COMPLETE keeps both signatures; conditions not met give
result 3, event 0x0F02 and a retry; else the unit is judged by its signatures. MBIST_COMPLETE fails macros, records them and
restores the unit, ending the test; or returns bypassed engines. BIST_ABORT in phase 1 returns the unit, later restores it as
aborted. BIST_BYPASS_WRITE makes the engines set absent. Other writers are refused. -/
def Obligations.UnitsAreTestedInServiceAndRestored : Prop :=
  ∀ (s : State), s.Canonical →
    let st := Reg.bistStatus
    let shows := fun (busy unit phase : Nat) (t : State) => t.fld st Fld.bistStatusBusy = busy ∧ t.fld st Fld.bistStatusUnit = unit ∧
      t.fld st Fld.bistStatusPhase = phase
    let begun := fun (u : Nat) (retry : List (Nat × Nat × Nat)) (t : State) => s.SameBut [.regs, .engines, .bist] t ∧
      shows 1 u (if u = 6 then 4 else 1) t ∧ (∀ x, x ≠ st → t.reg x = s.reg x) ∧
      t.bist = { s.bist with
        unit := some u
        since := s.clock.now
        aborted := false
        port := 0
        body := 0
        retry := retry
        rotated := tblSet s.bist.rotated u s.clock.now } ∧
      ∀ e, t.engine e = if e ∈ unitEngines u then { s.engine e with testing := true } else s.engine e
    (∀ w u, w ≠ .bcc ∨ 11 ≤ u → exec (.bistStart w u) s = .next (refusedWrite s Reg.bistCmd (u % 16 + 16) 0)) ∧
    (∀ u, u < 11 → (∀ why, s.bistRefusal u = some why →
        exec (.bistStart .bcc u) s = .next (s.afterEvent 0x81 (if u < 6 then u else 6) 0x3F01 (det [(1, u), (1, why)]))) ∧
      (s.bistRefusal u = none → CompletesThen (.bistStart .bcc u) s presenceChanged (begun u s.bist.retry)) ∧
      (s.bist.unit.isSome = true → s.bistRefusal u = some 0) ∧
      (s.bist.unit = none → (s.unitDown u = true → s.bistRefusal u = some 1) ∧
        (s.unitDown u = false → s.rcv.bivouac = true → s.bistRefusal u = some 2))) ∧
    (∀ u, s.rotationUnit = some u → CompletesThen .rotationDue s presenceChanged (begun u s.bist.retry) ∧
      s.flag Reg.bistRot Fld.bistRotEnable = true ∧ bitAt (s.fld Reg.bistRot Fld.bistRotRotMask) u = true ∧
      ∀ x, tblFind s.bist.rotated u = some x → x + s.fld Reg.bistRot Fld.bistRotPeriodH * 3600 * 2 ^ 32 ≤ s.clock.now) ∧
    (s.rotationUnit = none → TurnedAway .rotationDue s) ∧
    (∀ u x n, s.retryUnit = some (u, x, n) → n < 3 ∧ x + 600 * 2 ^ 32 ≤ s.clock.now ∧ CompletesThen .bistRetry s presenceChanged
      (begun u (s.bist.retry.map fun r => if r.1 = u then (u, s.clock.now, n + 1) else r))) ∧
    (s.retryUnit = none → TurnedAway .bistRetry s) ∧
    (∀ u v, s.bist.unit = some u → u < 7 → s.bistPhase = 1 → s.bist.since + msUnits (s.fld Reg.bistRot Fld.bistRotDrainMs) ≤ s.clock.now →
      M.gives (do
        if u = 4 then camerasDown
        if u = 5 then jesdDown
        let _ ← interruptEngines (unitEngines u) (0x800 + u)
        for e in unitEngines u do drainDma e) s () v →
      ∃ t, exec .bistDrainLimit s = .next t ∧ s.SameBut Instr.bistDrainLimit.parts t ∧ shows 1 u 2 t ∧ v.SameBut [.mem, .regs, .sys, .tally, .rcv] t ∧
        tblFind t.rcv.fences (0x100 + u) = some ⟨s.clock.now, none, 0, 0⟩ ∧
        (u < 4 → t.fld (Reg.streamMode u) Fld.streamModeRestricted = 1)) ∧
    (s.bist.unit = none ∨ s.bistPhase ≠ 1 ∨ s.clock.now < s.bist.since + msUnits (s.fld Reg.bistRot Fld.bistRotDrainMs) →
      TurnedAway .bistDrainLimit s) ∧
    (∀ u mp mb broken worst, s.bist.unit = some u → u < 7 → s.bistPhase = 4 → broken ≤ 2 →
      let c := Instr.lbistComplete mp mb broken worst
      let pb := u < 6 && mp != Config.scanSignature u 0
      let bb := mb != Config.scanSignature u 1
      let kept := fun (t : State) => s.SameBut [.regs, .bist] t ∧ t.reg Reg.bistMisrPort = mp ∧ t.reg Reg.bistMisrBody = mb ∧
        (∀ r ∈ t.bist.retry, r.1 = u → broken ≠ 0 ∧ r.2.1 = s.clock.now) ∧ (broken ≠ 0 → ∃ n, (u, s.clock.now, n) ∈ t.bist.retry)
      (broken = 0 → u < 6 → CompletesThen c s (do
        unitTested u pb bb 1 s.bist.since (if pb then mp.toNat else mb.toNat)
        bistStatus 1 u 5) kept) ∧
      (broken ≠ 0 → CompletesThen c s (do
        raise 0x81 (if u < 6 then u else 6) 0x0F02 (det [(1, u), (1, broken - 1), (2, 0), (4, worst)])
        bistStatus 1 u 5) fun t => kept t ∧ t.fld (Reg.bistResult u) Fld.bistResultBody = 3 ∧
          (u < 6 → t.fld (Reg.bistResult u) Fld.bistResultPort = 3)) ∧
      (broken = 0 → u = 6 → bb = true → s.bist.port = 0 → CompletesThen c s (do
        safeUnitFailed
        bistStatus 1 6 5) fun t => kept t ∧ t.bist.body = 1 ∧ 6 ∈ t.bist.badBody) ∧
      (broken = 0 → u = 6 → bb = false → s.bist.port = 0 → ∃ t, exec c s = .next t ∧ kept t ∧ shows 1 6 5 t)) ∧
    (∀ mp mb broken worst, s.bist.unit = none ∨ s.bistPhase ≠ 4 → TurnedAway (.lbistComplete mp mb broken worst) s) ∧
    (∀ u pb bb since sig, u < 11 →
      let t := M.run (unitTested u pb bb 1 since sig) s
      t.fld (Reg.bistResult u) Fld.bistResultPort = (if u < 6 then (if pb then 2 else 1) else 0) ∧
        t.fld (Reg.bistResult u) Fld.bistResultBody = (if bb then 2 else 1) ∧
        (u ∈ t.bist.badPort ↔ pb = true) ∧ (u ∈ t.bist.badBody ↔ bb = true) ∧
        (pb = true ∨ bb = true → ∀ e ∈ unitEngines u, (t.engine e).failed = true) ∧
        (pb = true → u < 4 → (u * 0x1000000000, 0x1000000000) ∈ t.sys.holes) ∧
        (pb = false → bb = false → t.engines = s.engines)) ∧
    (∀ u failing mine v, s.bist.unit = some u → u < 7 → s.bistPhase = 5 → mine = failing.dedup.filter (fun m => macroUnit m == u) →
      M.gives (do for m in mine do macroFailed m) s () v →
      let noted := fun (t : State) => t.fld (Reg.bistResult u) Fld.bistResultMbistFail = (if mine = [] then 0 else 1) ∧
        t.fld (Reg.bistResult u) Fld.bistResultMacros = min mine.length 1023
      (u < 6 ∨ s.bist.port ≠ 0 → CompletesThen (.mbistComplete failing) s (do
        restoreUnit u
        endTest u false) fun t => v.SameBut [.regs] t ∧ noted t) ∧
      (u = 6 → s.bist.port = 0 → ∃ t, exec (.mbistComplete failing) s = .next t ∧ v.SameBut [.regs, .bist] t ∧ noted t ∧ shows 1 6 4 t ∧
        t.bist = { v.bist with port := 1 })) ∧
    (∀ failing v, s.bist.unit = none ∨ s.bistPhase ≠ 5 → s.bist.bypassing ≠ [] →
      M.gives (do for m in s.bypassMacros failing do macroFailed m) s () v →
      CompletesThen (.mbistComplete failing) s presenceChanged fun t => v.SameBut [.engines, .bist] t ∧ t.bist = { v.bist with bypassing := [] } ∧
        ∀ e ∈ s.bist.bypassing, (t.engine e).bypassed = false ∧ (t.engine e).failed = (v.engine e).failed) ∧
    (∀ failing, s.bist.unit = none ∨ s.bistPhase ≠ 5 → s.bist.bypassing = [] → TurnedAway (.mbistComplete failing) s) ∧
    (∀ u a, u < 7 →
      let t := M.run (endTest u a) s
      s.SameBut [.regs, .bist] t ∧ t.bist = { s.bist with unit := none } ∧ shows 0 u 0 t ∧
        t.fld (Reg.bistResult u) Fld.bistResultAborted = flagBit a ∧
        t.fld (Reg.bistResult u) Fld.bistResultWhen = s.clock.now / 2 ^ 32 % 2 ^ 32) ∧
    (∀ w, w ≠ .bcc → exec (.bistAbort w) s = .next (refusedWrite s Reg.bistCmd 32 0) ∧
      ∀ v, exec (.bistBypassWrite w v) s = .next (refusedWrite s Reg.bistBypass v 0)) ∧
    (s.bist.unit = none → exec (.bistAbort .bcc) s = .next s) ∧
    (∀ u, s.bist.unit = some u → u < 7 →
      (s.bistPhase = 1 → CompletesThen (.bistAbort .bcc) s presenceChanged fun t => s.SameBut [.regs, .engines, .bist] t ∧
        t.bist = { s.bist with unit := none } ∧ shows 0 u 0 t ∧
        ∀ e, t.engine e = if e ∈ unitEngines u then { s.engine e with testing := false } else s.engine e) ∧
      (s.bistPhase ≠ 1 → CompletesThen (.bistAbort .bcc) s (do
        restoreUnit u
        endTest u true) fun t => t = s)) ∧
    (∀ v, CompletesThen (.bistBypassWrite .bcc v) s presenceChanged fun t => s.SameBut [.regs, .engines, .bist] t ∧
      OneField s Reg.bistBypass Fld.bistBypassEngines v t ∧
      (∀ i, i < 11 → bitAt v i = true → t.engine (bypassEngines.getD i 0) = { s.engine (bypassEngines.getD i 0) with bypassed := true } ∧
        bypassEngines.getD i 0 ∉ t.bist.bypassing) ∧
      (∀ i, i < 11 → bitAt v i = false → t.engine (bypassEngines.getD i 0) = s.engine (bypassEngines.getD i 0) ∧
        ((s.engine (bypassEngines.getD i 0)).bypassed = true → bypassEngines.getD i 0 ∈ t.bist.bypassing)) ∧
      ∀ e, e ∉ bypassEngines → t.engine e = s.engine e)

/-- RAIL_VALID and RAIL_INVALID keep PWR_STATUS.rails; once the device runs they raise event 0xB001 with an open reading. A loss
of rails 0 or 1, or of the reference, loses everything power holds; of rails 2 to 6 triggers the die's reset, of 9 the PCIe,
of others the Ethernet links'. POWER_ON and BCC_RESET_RELEASE, with the rails valid for 2 ms, bring up the phases. An engine
idle for its time goes to warm standby, then cold unless kept; when all engines of a domain are cold its PLL stops;
WAKE_COMPLETE wakes the engine and restarts the PLL. DOMAIN_SWITCH by the BCC switches a domain that may be off; a Hall group
off reads as lost and becomes a hole. Elsewhere each is turned away. -/
def Obligations.RailsClocksAndDomainsFollowTheirRules : Prop :=
  ∀ (s : State), s.Canonical →
    let locked := fun (t : State) (d : Nat) => bitAt (t.fld Reg.clkStatus Fld.clkStatusLocked) d
    let rails := fun (t : State) => t.fld Reg.pwrStatus Fld.pwrStatusRails
    let emptied := fun (t : State) => (∀ a, a < 2 ^ 41 → memGet t.mem a = memGet [] a) ∧ ∀ x, x < 2 ^ 32 → t.reg x = regReset x
    let lost := fun (c : Instr) => ∃ t, exec c s = .next t ∧ s.SameBut c.parts t ∧ emptied t ∧ t.engines = [] ∧ t.dma = [] ∧
      t.tally = State.reset.tally ∧ t.power.phase = 0 ∧ t.store = s.store ∧ t.rcv.privEmmc = s.rcv.privEmmc ∧ t.pins = State.reset.pins
    (∀ r, (s.power.valid.contains r = true ∨ 10 ≤ r → TurnedAway (.railValid r) s) ∧
      (s.power.valid.contains r = false → TurnedAway (.railInvalid r) s) ∧
      (r < 10 → s.power.valid.contains r = false → ∃ u, s.SameBut [.regs, .power] u ∧ s.OneReg Reg.pwrStatus (u.reg Reg.pwrStatus) u ∧
        (∀ x, x ∈ u.power.valid ↔ x = r ∨ x ∈ s.power.valid) ∧ tblFind u.power.railAt r = some s.clock.now ∧
        rails u = (u.power.valid.foldl (fun n x => n + 2 ^ x) 0) % 2 ^ Fld.pwrStatusRails.width ∧
        (s.power.phase ≠ 2 → exec (.railValid r) s = .next u) ∧
        (s.power.phase = 2 → ∃ mv v, (fresh 65536).gives u mv v ∧
          exec (.railValid r) s = .next (v.afterEvent 0x81 0xFF 0xB001 (det [(1, r), (1, 1), (2, mv)])))) ∧
      (r < 2 → s.power.valid.contains r = true → ∃ t, exec (.railInvalid r) s = .next t ∧ emptied t ∧ t.engines = [] ∧
        t.power.phase = 0 ∧ t.store = s.store ∧ ∀ x, x ∈ t.power.valid ↔ x ≠ r ∧ x ∈ s.power.valid) ∧
      (2 ≤ r → s.power.valid.contains r = true → s.power.phase ≠ 2 → ∃ t, exec (.railInvalid r) s = .next t ∧ s.SameBut [.regs, .power] t ∧
        ∀ x, x ∈ t.power.valid ↔ x ≠ r ∧ x ∈ s.power.valid) ∧
      (∀ u v mv, 2 ≤ r → s.power.valid.contains r = true → s.power.phase = 2 →
        M.gives (do
          modPower fun p => { p with valid := p.valid.filter (· ≠ r), railAt := tblSet p.railAt r s.clock.now }
          showRails) s () u → (fresh 65536).gives u mv v → CompletesThen (.railInvalid r) s (do
            if r ≤ 6 then
              if r = 5 ∨ r = 6 then update (.rcv fun x => { x with ddrLost := true })
              trigger .die 0xB001 s.clock.now 0 true
            else if r = 9 then
              for n in List.range 8 do trigger (.engine (0xA0 + n)) 0xB001 s.clock.now 0 false
            else
              for n in List.range 8 do trigger (.engine (0xA8 + n)) 0xB001 s.clock.now 0 false
              trigger (.engine 0xB0) 0xB001 s.clock.now 0 false
            drivePins) fun t => t = v.afterEvent 0x81 0xFF 0xB001 (det [(1, r), (1, 0), (2, mv)]))) ∧
    (s.power.phase ≠ 0 → lost .refAoLoss) ∧ (s.power.phase = 0 → TurnedAway .refAoLoss s) ∧
    (s.power.phase = 0 → s.power.valid.contains 0 = true → s.power.valid.contains 1 = true → ∃ t, exec .powerOn s = .next t ∧
      s.SameBut [.regs, .pins, .power] t ∧ t.power = { s.power with phase := 1 } ∧ locked t 0 = true ∧
      t.pins = { s.pins with driven := true, safeN := false, oosN := false, pcycReqN := true, thermN := true, trayAlertN := true }) ∧
    (s.power.phase ≠ 0 ∨ s.power.valid.contains 0 = false → TurnedAway .powerOn s) ∧
    (s.power.phase = 1 → s.railsFor2ms (List.range 10) = true → ∃ t, exec .bccResetRelease s = .next t ∧ s.SameBut [.regs, .rcv, .power] t ∧
      t.power = { s.power with phase := 2 } ∧ locked t 22 = true ∧ locked t 40 = true ∧ t.rcv = { s.rcv with kickAt := s.clock.now }) ∧
    (s.power.phase ≠ 1 ∨ s.railsFor2ms (List.range 10) = false → TurnedAway .bccResetRelease s) ∧
    (∀ e,
      let stands := fun (c : Instr) (p : Power) => ∃ t, exec c s = .next t ∧ s.SameBut [.engines] t ∧
        OneEngine s e { s.engine e with power := p, since := s.clock.now } t
      (gated e = true → s.idleEngine e = true →
        ((s.engine e).power = .awake → s.idleSince e + nsUnits (s.fld Reg.pwrIdle Fld.pwrIdleWarmNs) ≤ s.clock.now →
          stands (.warmStandbyEntry e) .warm) ∧
        ((s.engine e).power = .warm → s.kept (domainOf e) = false →
          (s.engine e).since + usUnits (s.fld Reg.pwrIdle Fld.pwrIdleColdUs) ≤ s.clock.now → stands (.coldEntry e) .cold)) ∧
      (s.idleEngine e = false ∨ gated e = false → TurnedAway (.warmStandbyEntry e) s ∧ TurnedAway (.coldEntry e) s) ∧
      (s.kept (domainOf e) = true → TurnedAway (.coldEntry e) s) ∧
      ((s.engine e).power = .waking → tblFind s.power.unlocked (clockOf e) = none → ∃ t, exec (.wakeComplete e) s = .next t ∧
        s.SameBut [.regs, .engines, .power] t ∧
        OneEngine s e { s.engine e with power := .awake, since := s.clock.now, beat := s.clock.now } t ∧
        clockOf e ∉ t.power.stopped ∧ (s.power.stopped.contains (clockOf e) = true → locked t (clockOf e) = true)) ∧
      ((s.engine e).power ≠ .waking ∨ (tblFind s.power.unlocked (clockOf e)).isSome = true → TurnedAway (.wakeComplete e) s)) ∧
    (∀ d,
      let ripe := ∀ e ∈ clockEngines d, gated e = true → (s.engine e).power = .cold ∧
        (s.engine e).since + usUnits (s.fld Reg.pwrIdle Fld.pwrIdleColdUs) ≤ s.clock.now
      (d ∈ [1, 2, 3, 4, 6, 8] → s.power.stopped.contains d = false → ripe → ∃ t, exec (.pllStop d) s = .next t ∧ s.SameBut [.regs, .power] t ∧
        t.power = { s.power with stopped := s.power.stopped ++ [d] } ∧ locked t d = false ∧ ∀ x, x ≠ d → x < 41 → locked t x = locked s x) ∧
      (d ∉ [1, 2, 3, 4, 6, 8] ∨ s.power.stopped.contains d = true ∨ ¬ ripe → TurnedAway (.pllStop d) s)) ∧
    (∀ w d on, w ≠ .bcc ∨ bccSwitched d = false ∨ (on = false ∧ s.mayBeOff d = false) →
      exec (.domainSwitch w d on) s = .next (refusedWrite s Reg.pwrDom (flagBit on) 0)) ∧
    (∀ d, bccSwitched d = true → (∃ t, exec (.domainSwitch .bcc d true) s = .next t ∧ s.SameBut [.sys, .power] t ∧ d ∈ t.power.domOn ∧
        (∀ x, x ∈ t.power.domOn → x = d ∨ x ∈ s.power.domOn) ∧ (51 ≤ d → d ≤ 58 → hallGroup (d - 51) ∉ t.sys.holes)) ∧
      (s.mayBeOff d = true → ∃ t, exec (.domainSwitch .bcc d false) s = .next t ∧ s.SameBut [.mem, .sys, .power] t ∧ d ∉ t.power.domOn ∧
        (51 ≤ d → d ≤ 58 → hallGroup (d - 51) ∈ t.sys.holes ∧ ∀ a, a < (hallGroup (d - 51)).1 ∨ (hallGroup (d - 51)).2 + (hallGroup (d - 51)).1 ≤ a →
          t.byteAt a = s.byteAt a)))

/-- PLL_UNLOCK of a locked PLL clears its bit, counts, stops the domain's engines and raises event 0xB009; relocking undoes this,
the stop not counting for the hang watchdog; after 100 µs the domain's engines, or the die, take a reset. POWER_EVALUATION
keeps 100 samples and shows their mean; above 97 % of the limit it throttles with an open duty and event 0xB006 at the start;
below 92 % it ends throttling. MONITOR_SAMPLE keeps the reading and its maximum; a temperature at the throttle, alarm or trip
limit acts. A droop stretches the partition's clocks, raising event 0xB007 at most once per 1 ms, and its end counts the
cycles. -/
def Obligations.ClocksPowerAndMonitorsAreWatched : Prop :=
  ∀ (s : State), s.Canonical → tblSorted s.power.unlocked = true → tblSorted s.power.droop = true →
    let locked := fun (t : State) (d : Nat) => bitAt (t.fld Reg.clkStatus Fld.clkStatusLocked) d
    (∀ d, (hasPll d = true → locked s d = true → ∃ u, s.SameBut [.regs, .engines, .power] u ∧
        u.power = { s.power with unlocked := tblSet s.power.unlocked d (s.clock.now, false) } ∧ locked u d = false ∧
        (∀ x, x ≠ d → x < 41 → locked u x = locked s x) ∧
        u.fld Reg.clkUnlockCnt Fld.clkUnlockCntCount = satAdd Fld.clkUnlockCntCount.width (s.fld Reg.clkUnlockCnt Fld.clkUnlockCntCount) 1 ∧
        (∀ e, u.engine e = if e ∈ clockEngines d then { s.engine e with stopped := true } else s.engine e) ∧
        exec (.pllUnlock d) s = .next (u.afterEvent 0x81 0xFF 0xB009 (det [(1, d), (1, 0)]))) ∧
      (hasPll d = false ∨ locked s d = false → TurnedAway (.pllUnlock d) s) ∧
      (∀ x b, tblFind s.power.unlocked d = some (x, b) →
        (∃ t, exec (.pllRelocked d) s = .next t ∧ s.SameBut [.regs, .engines, .power] t ∧ tblFind t.power.unlocked d = none ∧
          (d < 41 → locked t d = true) ∧
          ∀ e, t.engine e = if e ∈ clockEngines d then
            { s.engine e with stopped := false, beat := (s.engine e).beat + (s.clock.now - x) } else s.engine e) ∧
        (b = false → x + usUnits 100 ≤ s.clock.now →
          let given := fun (t : State) => ∃ u, s.SameBut [.power] u ∧ tblFind u.power.unlocked d = some (x, true) ∧
            t = u.afterEvent 0x81 0xFF 0xB009 (det [(1, d), (1, 1)])
          (d = 5 ∨ (18 ≤ d ∧ d ≤ 22) ∨ d = 40 →
            CompletesThen (.pllRelockTimeout d) s (trigger .die 0xB009 s.clock.now 0 false) given) ∧
          (¬ (d = 5 ∨ (18 ≤ d ∧ d ≤ 22) ∨ d = 40) → CompletesThen (.pllRelockTimeout d) s (do
            for e in clockEngines d do trigger (.engine e) 0xB009 s.clock.now 0 false) given)) ∧
        (b = true ∨ s.clock.now < x + usUnits 100 → TurnedAway (.pllRelockTimeout d) s)) ∧
      (tblFind s.power.unlocked d = none → TurnedAway (.pllRelocked d) s ∧ TurnedAway (.pllRelockTimeout d) s)) ∧
    (∀ mw samples mean, s.power.phase = 2 → samples = (mw :: s.power.samples).take 100 → mean = samples.foldl (· + ·) 0 / samples.length →
      let limit := s.fld Reg.pwrLimit Fld.pwrLimitWatts * 1000
      let shown := fun (u : State) => u.fld Reg.pwrStatus Fld.pwrStatusMw1ms = min mean (2 ^ 20 - 1)
      let st := fun (on : Nat) (u : State) => u.fld Reg.pwrStatus Fld.pwrStatusThrottling = on
      let c := Instr.powerEvaluation mw
      (limit * 97 < mean * 100 → ∃ duty u, duty < 15 ∧ shown u ∧ s.SameBut [.regs, .free, .power] u ∧
        u.power = { s.power with samples := samples, duty := duty + 1 } ∧
        (s.power.duty ≠ 0 → exec c s = .next u) ∧
        (s.power.duty = 0 → st 1 u ∧ exec c s = .next (u.afterEvent 0x81 0xFF 0xB006 (det [(1, 1), (1, duty + 1), (2, 0), (4, mean)])))) ∧
      (mean * 100 < limit * 92 → s.power.duty ≠ 0 → ∃ u, shown u ∧ st 0 u ∧ s.SameBut [.regs, .power] u ∧
        u.power = { s.power with samples := samples, duty := 0 } ∧
        exec c s = .next (u.afterEvent 0x81 0xFF 0xB006 (det [(1, 0), (1, s.power.duty), (2, 0), (4, mean)]))) ∧
      (mean * 100 ≤ limit * 97 → limit * 92 ≤ mean * 100 ∨ s.power.duty = 0 → ∃ t, exec c s = .next t ∧ shown t ∧ s.SameBut [.regs, .power] t ∧
        t.power = { s.power with samples := samples })) ∧
    (∀ mw, s.power.phase ≠ 2 → TurnedAway (.powerEvaluation mw) s) ∧
    (∀ kind i v top, s.power.phase ≠ 0 → i < monitorCount kind → v < 2 ^ 32 →
      top = (match tblFind s.power.mon (kind * 256 + i) with
        | some (_, m) => if signed 32 m < signed 32 v then v else m
        | none => v) →
      let kept := fun (t : State) => s.SameBut [.power] t ∧ t.power = { s.power with mon := tblSet s.power.mon (kind * 256 + i) (v, top) }
      (kind = 1 ∨ kind = 2 → ∃ t, exec (.monitorSample kind i v) s = .next t ∧ kept t) ∧
      (kind = 0 → CompletesThen (.monitorSample kind i v) s (thermal i) kept) ∧
      (kind = 3 → CompletesThen (.monitorSample kind i v) s (currentSample i) kept)) ∧
    (∀ kind i v, s.power.phase = 0 ∨ monitorCount kind ≤ i → TurnedAway (.monitorSample kind i v) s) ∧
    (∀ i p x, i < 64 → p = sensorPart i → x = s.monitor 0 i → s.power.tripped = false → s.pins.thermN = true → s.power.hot.contains p = false →
      signed 8 (s.opRec p).calTemp * 8 - 240 ≤ x → x < 960 → x < 8 * (s.fld Reg.monTherm Fld.monThermAlarmC : Int) →
      (x < 8 * (s.fld Reg.monTherm Fld.monThermThrottleC : Int) → M.run (thermal i) s = s) ∧
      (8 * (s.fld Reg.monTherm Fld.monThermThrottleC : Int) ≤ x → ∃ u, s.SameBut [.power] u ∧ u.power = { s.power with hot := s.power.hot ++ [p] } ∧
        M.run (thermal i) s = u.afterEvent 0x81 p 0xB003 (det [(1, p), (1, 1), (2, unsigned 16 x)]))) ∧
    (∀ p, p < 7 → tblFind s.power.droop p = none →
      (∀ x, tblFind s.power.droopEvent p = some x → s.clock.now < x + msUnits 1 → ∃ t, exec (.droopDetect p) s = .next t ∧ s.SameBut [.power] t ∧
        t.power = { s.power with droop := tblSet s.power.droop p s.clock.now }) ∧
      (tblFind s.power.droopEvent p = none → ∃ d mv n u, d < 24 ∧ s.SameBut [.free, .power] u ∧ u.power = { s.power with
          droop := tblSet s.power.droop p s.clock.now
          droopEvent := tblSet s.power.droopEvent p s.clock.now } ∧
        exec (.droopDetect p) s = .next (u.afterEvent 0x81 p 0xB007 (det [(1, p), (1, d), (2, mv), (4, n)])))) ∧
    (∀ p, 7 ≤ p ∨ (tblFind s.power.droop p).isSome = true → TurnedAway (.droopDetect p) s) ∧
    (∀ p x, tblFind s.power.droop p = some x → ∃ t, exec (.droopStretchEnd p) s = .next t ∧ s.SameBut [.regs, .power] t ∧
      tblFind t.power.droop p = none ∧ s.OneReg (Reg.monDroopCnt p) (t.reg (Reg.monDroopCnt p)) t ∧
      t.fld (Reg.monDroopCnt p) Fld.monDroopCntCycles = satAdd Fld.monDroopCntCycles.width (s.fld (Reg.monDroopCnt p) Fld.monDroopCntCycles)
        ((s.clock.now - x) * (partKhz p * 1000) / 2 ^ 33)) ∧
    (∀ p, tblFind s.power.droop p = none → TurnedAway (.droopStretchEnd p) s)

/-- BOOT without a good identity raises event 0x9003 and fails; with everything good it extends L0 to L2, runs the rest, and ends
with Tally open. MEASUREMENT_EXTEND extends L5 to L7 by 64 bytes read. An attestation request takes a nonce; its report of
1,024 bytes is written behind it and the sequence moves on. A counter commit raises the image type's counter to the running
svn at most. RETURN_TO_SERVICE renews the challenge; a bad block raises event 0x9008, a good one leaves bivouac. The TAP
answers IDCODE and BYPASS; a challenge serves one response, which unlocks a level with event 0x9004 or fails with 0x9005;
EXTEST needs level 1 and closes Tally, and its exit resets the chip. Others' writes are refused. -/
def Obligations.BootMeasuresAndSecretsAreGuarded : Prop :=
  ∀ (s : State), s.Canonical →
    let secFld := fun (f : Field) (t : State) => t.fld Reg.secStatus f
    (∀ port body macros ring, s.power.phase ≠ 2 ∨ s.sec.booted = true ∨ ring % 64 ≠ 0 ∨ 2 ^ 38 ≤ ring →
      TurnedAway (.boot port body macros ring) s) ∧
    (∀ port body macros ring, s.power.phase = 2 → s.sec.booted = false → ring % 64 = 0 → ring < 2 ^ 38 → s.rcv.resets = [] →
      let c := Instr.boot port body macros ring
      let opened := fun (u : State) => (tblFind u.tally.contexts 0).isSome = true ∧ (u.queue 0).isSome = true
      (s.store.helperOk = false → CompletesThen c s (do
        raise 0x81 6 0x9003 []
        bootFails false) fun u => s.SameBut [.regs, .tally, .rcv] u ∧ opened u ∧ secFld Fld.secStatusIdentityOk u = 0) ∧
      (∀ o i, s.store.helperOk = true → s.store.rpmbKeyed = true → s.store.rpmbGood = true → s.store.rpmbWorn = false →
        s.store.owner = some o → o.good = true → s.store.dirGood ≠ [] → s.sec.layers.length = 8 →
        tblFind s.store.bccSlots s.store.bccActive = some i → imageFault 1 (s.counter 1) s.ownerKey i = none →
        CompletesThen c s (bootRest port body macros) fun u => s.SameBut [.regs, .free, .tally, .rcv, .sec] u ∧ opened u ∧
          secFld Fld.secStatusIdentityOk u = 1 ∧ secFld Fld.secStatusRpmbOk u = 1 ∧ u.sec.seeded = true ∧ u.sec.bccImage = some i ∧
          u.layer 0 = shake512 (s.layer 0 ++ Config.romDigest) ∧
          u.layer 1 = shake512 (s.layer 1 ++ shake512 (o.bytes ++ o.ownerSig ++ o.vendorSig)) ∧
          u.layer 2 = shake512 (s.layer 2 ++ imgDigest i) ∧ u.sec.aliasL2 = u.layer 2)) ∧
    (∀ port body macros, s.store.confImage = none →
      M.run (bootRest port body macros) s = M.run (do
        imageRejected 3 0 3 none
        bootFails true) s) ∧
    (∀ ci i, s.store.confImage = some ci → imageFault 3 (s.counter 3) s.ownerKey ci = none → s.rcv.resets = [] → s.rcv.bivouac = false →
      s.rcv.wasBivouac = false → s.privCount < s.privLimit → s.sec.layers.length = 8 →
      tblFind s.store.appSlots s.store.appActive = some i → imageFault 2 (s.counter 2) s.ownerKey i = none →
      let t := M.run (bootRest 0 0 []) s
      t.sec.booted = true ∧ t.sec.appImage = some i ∧ t.tally.accepting = true ∧ t.pins.oosN = true ∧ t.rcv.bivouac = false ∧
        t.layer 3 = shake512 (s.layer 3 ++ imgDigest ci) ∧ t.layer 4 = shake512 (s.layer 4 ++ imgDigest i)) ∧
    (∀ w l addr a, a = addr % 2 ^ 40 / 64 * 64 →
      (machineMode w = false ∨ l % 8 < 5 → exec (.measurementExtend w l addr) s = .next (refusedWrite s Reg.secExtend (l % 8 + a) 0)) ∧
      (∀ m u, machineMode w = true → 5 ≤ l % 8 → (secRead a 64).gives s (some m) u → ∃ t, exec (.measurementExtend w l addr) s = .next t ∧
        s.SameBut (Instr.measurementExtend w l addr).parts t ∧ u.SameBut [.sec] t ∧
        t.sec = { u.sec with layers := u.sec.layers.set (l % 8) (shake512 (u.layer (l % 8) ++ m)) }) ∧
      (machineMode w = false → exec (.attestationRequest w addr) s = .next (refusedWrite s Reg.secAttReq a 0) ∧
        exec (.returnToService w addr) s = .next (refusedWrite s Reg.secRts a 0) ∧
        exec (.svnCommitBcc w) s = .next (refusedWrite s Reg.secSvnCommit 1 0) ∧
        exec (.svnCommitApp w) s = .next (refusedWrite s Reg.secSvnCommit 2 0)) ∧
      (machineMode w = true → s.sec.att.isSome = true ∨ within4k a 1088 = false →
        exec (.attestationRequest w addr) s = .next (refusedWrite s Reg.secAttReq a 6)) ∧
      (∀ nonce u, machineMode w = true → s.sec.att = none → within4k a 1088 = true → (secRead a 64).gives s (some nonce) u →
        ∃ t, exec (.attestationRequest w addr) s = .next t ∧ s.SameBut (Instr.attestationRequest w addr).parts t ∧ u.SameBut [.regs, .sec] t ∧
          t.sec = { u.sec with att := some (a, nonce, s.clock.now) } ∧ t.fld Reg.secAttStatus Fld.secAttStatusBusy = 1) ∧
      (machineMode w = true → within4k a 256 = false → exec (.returnToService w addr) s = .next (refusedWrite s Reg.secRts a 6)) ∧
      (∀ b new v, machineMode w = true → within4k a 256 = true → M.gives (do
          let b := (← secRead a 256).getD []
          return (b, ← freshBytes 8) : M (List Byte × List Byte)) s (b, new) v →
        let renewed := fun (u : State) => v.SameBut [.regs] u ∧ v.OneReg Reg.secRtsChallenge (BitVec.ofNat 64 (leNat new)) u
        let good := b.take 64 = deviceId ∧ leAt b 64 8 = (s.reg Reg.secRtsChallenge).toNat ∧
          edVerify s.ownerKey (b.take 72) ((b.drop 72).take 114) = true
        (¬ good → ∃ u why, why < 3 ∧ renewed u ∧ exec (.returnToService w addr) s = .next (u.afterEvent 0x81 6 0x9008 (det [(1, why)]))) ∧
        (good → s.rcv.bivouac = false → ∃ u, renewed u ∧ exec (.returnToService w addr) s = .next u) ∧
        (good → s.rcv.bivouac = true → CompletesThen (.returnToService w addr) s (leaveBivouac 0) fun u =>
          v.SameBut [.regs, .rcv] u ∧ u.rcv = { v.rcv with priv := [], privEmmc := [] })) ∧
      (machineMode w = true →
        (∃ t, exec (.svnCommitBcc w) s = .next t ∧ s.SameBut [.store] t ∧ t.counter 1 = max (s.counter 1) ((s.sec.bccImage.map imgSvn).getD 0) ∧
          ∀ x, x ≠ 1 → t.counter x = s.counter x) ∧
        ∃ t, exec (.svnCommitApp w) s = .next t ∧ s.SameBut [.store] t ∧ t.counter 2 = max (s.counter 2) ((s.sec.appImage.map imgSvn).getD 0) ∧
          ∀ x, x ≠ 2 → t.counter x = s.counter x)) ∧
    (s.sec.att = none → TurnedAway .attestationReportDone s) ∧
    (∀ a nonce x r u, s.sec.att = some (a, nonce, x) → (physWriteAll 0x83 (a + 64) (s.attReport nonce)).gives s r u →
      (s.attReport nonce).length = 1024 ∧ ∃ t, exec .attestationReportDone s = .next t ∧ s.SameBut Instr.attestationReportDone.parts t ∧
        u.SameBut [.regs, .sec] t ∧ t.sec = { u.sec with att := none, attSeq := (u.sec.attSeq + 1) % 2 ^ 32 } ∧
        t.fld Reg.secAttStatus Fld.secAttStatusBusy = 0 ∧ t.fld Reg.secAttStatus Fld.secAttStatusSeq = s.sec.attSeq % 2 ^ 32) ∧
    (s.power.phase ≠ 0 → exec .idcode s = .next { s with out := some ⟨true, leBytes 4 Config.idcode.toNat⟩ } ∧
      (∃ b, b ≤ 1 ∧ exec .tapBypass s = .next { s with out := some ⟨true, [BitVec.ofNat 8 b]⟩ }) ∧
      ∀ x, (secFld Fld.secStatusDebug s = 0 → exec (.extest x) s = .next { s with out := some ⟨false, []⟩ }) ∧
        (secFld Fld.secStatusDebug s ≠ 0 → ∃ t, exec (.extest x) s = .next t ∧ s.SameBut [.out, .tally, .pins] t ∧
          t.out = some ⟨true, []⟩ ∧ t.tally = { s.tally with accepting := false } ∧ t.pins = { s.pins with
            extest := true
            safeN := false
            oosN := false
            ppsOut := bitAt x 0
            pcycReqN := bitAt x 1
            thermN := bitAt x 2
            trayAlertN := bitAt x 3 })) ∧
    (s.power.phase = 0 → TurnedAway .idcode s ∧ TurnedAway .tapBypass s ∧ ∀ x, TurnedAway (.extest x) s) ∧
    (s.pins.extest = false → TurnedAway .extestExit s) ∧
    (s.pins.extest = true → CompletesThen .extestExit s (do
      trigger .die 0 s.clock.now 0 false
      drivePins) fun u => s.SameBut [.pins] u ∧ u.pins = { s.pins with
        extest := false
        pcycReqN := true
        thermN := true
        trayAlertN := true
        ppsOut := false }) ∧
    (s.power.phase ≠ 2 → TurnedAway .debugChallenge s) ∧
    (s.power.phase = 2 → (4 ≤ s.sec.failures → exec .debugChallenge s = .next { s with out := some ⟨false, []⟩ }) ∧
      (s.sec.failures < 4 → ∃ c t, c.length = 64 ∧ exec .debugChallenge s = .next t ∧ s.SameBut [.out, .free, .sec] t ∧
        t.sec = { s.sec with challenge := some c } ∧ t.out = some ⟨true, c⟩)) ∧
    (∀ data, s.sec.challenge = none → TurnedAway (.debugResponse data) s) ∧
    (∀ data c level, s.sec.challenge = some c → level = leAt data 0 1 →
      let good := 1 ≤ level ∧ level ≤ 3 ∧
        edVerify ((s.store.owner.map (·.debugKey)).getD []) (c ++ deviceId ++ leBytes 1 level) (data.drop 1) = true
      (good → ∃ u t, s.SameBut [.regs, .sec] u ∧ secFld Fld.secStatusDebug u = max level (secFld Fld.secStatusDebug s) ∧ u.sec = { s.sec with
          challenge := none
          peakDebug := max s.sec.peakDebug level
          layers := s.sec.layers.set 3 (shake512 (s.layer 3 ++ shake512 (leBytes 1 level))) } ∧
        exec (.debugResponse data) s = .next t ∧ (u.afterEvent 0x81 6 0x9004 (det [(1, level)])).SameBut [.out] t ∧ t.out = some ⟨true, []⟩) ∧
      (¬ good → ∃ u t, s.SameBut [.sec] u ∧ u.sec = { s.sec with challenge := none, failures := s.sec.failures + 1 } ∧
        exec (.debugResponse data) s = .next t ∧
        (u.afterEvent 0x81 6 0x9005 (det [(1, level), (1, min (s.sec.failures + 1) 255)])).SameBut [.out] t ∧ t.out = some ⟨false, []⟩))

/-- In machine mode FIRMWARE_UPDATE reads the image and starts verifying; while an update is in states 1 to 4 it is refused, as
are other writers. A good image goes to writing, a bad one raises event 0x9001 and is refused. A written BCC image fills the
inactive slot and waits; an application image becomes the active slot; a failed read-back refuses. The quiescent tick extends
L2, runs the new image and restarts the watchdog; 10 s of waiting refuse. After 1 s of probation the slot becomes active with
event 0x9006; a revert raises 0x9007, restores the old image and restarts the BCC. -/
def Obligations.UpdatesAreVerifiedWrittenTriedAndCommittedOrReverted : Prop :=
  ∀ (s : State), s.Canonical →
    let st := Reg.secUpdStatus
    let now := s.clock.now
    (∀ w addr a, a = addr % 2 ^ 40 / 64 * 64 →
      (machineMode w = false → exec (.firmwareUpdate w addr) s = .next (refusedWrite s Reg.secUpd a 0)) ∧
      (machineMode w = true → 1 ≤ s.updState → s.updState ≤ 4 → exec (.firmwareUpdate w addr) s = .next (refusedWrite s Reg.secUpd a 6)) ∧
      (∀ h b u v, machineMode w = true → s.updState = 0 ∨ 4 < s.updState → (secRead a 256).gives s (some h) u →
        (secRead (a + 256) (min (leAt h 4 4 + 1) (bodyLimit (leAt h 0 2)))).gives u (some b) v →
        ∃ t, exec (.firmwareUpdate w addr) s = .next t ∧ s.SameBut (Instr.firmwareUpdate w addr).parts t ∧ v.SameBut [.regs, .sec] t ∧
          t.updState = 1 ∧ t.sec = { v.sec with update := some (if leAt h 0 2 = 2 then ⟨a, some ⟨h, b⟩, 1 - s.store.appActive, 2, now⟩
            else ⟨a, some ⟨h, b⟩, 1 - s.store.bccActive, 1, now⟩) })) ∧
    (s.updState ≠ 1 ∨ s.sec.update = none → TurnedAway .updateVerificationDone s) ∧
    (∀ ok, s.updState ≠ 2 ∨ s.sec.update = none → TurnedAway (.updateWriteDone ok) s) ∧
    (s.updState ≠ 3 ∨ s.quiescent = false → TurnedAway .quiescentTick s) ∧
    (s.updState ≠ 3 → TurnedAway .updateWaitTimeout s) ∧
    (s.updState ≠ 4 → TurnedAway .updateCommit s ∧ TurnedAway .updateRevert s) ∧
    ∀ p, s.sec.update = some p →
      let moves := fun (c : Instr) (n : Nat) => ∃ t, exec c s = .next t ∧ s.SameBut [.regs, .sec] t ∧ OneField s st Fld.secUpdStatusState n t ∧
        t.sec = { s.sec with update := some { p with since := now } }
      (∀ i, s.updState = 1 → p.image = some i → imageFault p.type (s.counter p.type) s.ownerKey i = none → moves .updateVerificationDone 2) ∧
      (∀ i why, s.updState = 1 → p.image = some i → imageFault p.type (s.counter p.type) s.ownerKey i = some why →
        let v := s.afterEvent 0x81 6 0x9001 (det [(1, p.type), (1, p.slot), (1, why), (1, 0), (4, imgSvn i), (4, s.counter p.type)])
        ∃ t, exec .updateVerificationDone s = .next t ∧ v.SameBut [.regs, .sec] t ∧ t.updState = 6) ∧
      (s.updState = 2 → moves (.updateWriteDone false) 6) ∧
      (∀ i, s.updState = 2 → p.image = some i →
        (p.type = 1 → ∃ t, exec (.updateWriteDone true) s = .next t ∧ s.SameBut [.regs, .store, .sec] t ∧ t.updState = 3 ∧
          t.store = { s.store with bccSlots := tblSet s.store.bccSlots p.slot i } ∧ t.sec.update = some { p with since := now }) ∧
        (p.type ≠ 1 → ∃ t, exec (.updateWriteDone true) s = .next t ∧ s.SameBut [.regs, .store, .sec] t ∧ t.updState = 0 ∧
          t.store = { s.store with appSlots := tblSet s.store.appSlots p.slot i, appActive := p.slot } ∧ t.sec.update = none)) ∧
      (∀ i, s.updState = 3 → s.quiescent = true → p.image = some i → ∃ t, exec .quiescentTick s = .next t ∧ s.SameBut [.regs, .rcv, .sec] t ∧
        t.updState = 4 ∧ t.rcv = { s.rcv with kickAt := now } ∧ t.sec = { s.sec with
          layers := s.sec.layers.set 2 (shake512 (s.layer 2 ++ imgDigest i))
          aliasL2 := shake512 (s.layer 2 ++ imgDigest i)
          bccImage := some i
          update := some { p with since := now } }) ∧
      (s.updState = 3 → p.since + msUnits 10000 ≤ now → moves .updateWaitTimeout 6) ∧
      (now < p.since + msUnits 10000 → TurnedAway .updateWaitTimeout s) ∧
      (s.updState = 4 → p.since + msUnits 1000 ≤ now → ∃ u t, s.SameBut [.regs, .store] u ∧
        u.store = { s.store with bccActive := p.slot, dirGood := [0, 1] } ∧
        OneField s Reg.secStatus Fld.secStatusBccSlot p.slot u ∧ exec .updateCommit s = .next t ∧
        (u.afterEvent 0x81 6 0x9006 (det [(1, p.slot), (3, 0), (4, (p.image.map imgSvn).getD 0),
          (4, (p.image.map imgVersion).getD 0)])).SameBut [.regs, .sec] t ∧ t.updState = 5 ∧ t.sec = { s.sec with update := none }) ∧
      (now < p.since + msUnits 1000 → TurnedAway .updateCommit s) ∧
      (s.updState = 4 → CompletesThen .updateRevert s (restartBlock .bcc 0x9007) fun u => ∃ v, s.SameBut [.regs, .sec] v ∧
        OneField s st Fld.secUpdStatusState 7 v ∧
        (v.afterEvent 0x81 6 0x9007 (det [(1, p.slot), (1, 1), (2, 0), (4, (p.image.map imgSvn).getD 0)])).SameBut [.sec] u ∧
        u.sec = { s.sec with update := none, bccImage := tblFind s.store.bccSlots s.store.bccActive })

/-- For every state whose RPMB is keyed, and every image type, whatever command stands at the front of the queue: when the step
answers a next state, the store is keyed in it and the type's counter is at least what it was. -/
def Obligations.RollbackCountersNeverDecrease : Prop :=
  ∀ (s t : State), s.store.rpmbKeyed = true → step s = .next t → t.store.rpmbKeyed = true ∧ ∀ ty, s.counter ty ≤ t.counter ty

/-- A link's change writes its status with event 0xAD01, 0xAD02, 0xAD06 or 0xAD07. A frame too long is dropped; PAUSE is counted,
PTP handed over with its stamp, LLDP keeps the neighbour and a new one raises 0xAD03, RoCE for the port's address goes to the
fabric engine; any other goes to the queue of its priority: dropped and counted without a free buffer, else written to the
next buffer with its entry. The BCC returns buffers. A transmit entry's frame is sent padded, or raises 0x3D03 outside the
producer's buffers; the entry leaves. An LLDPDU goes every 30 s; a neighbour ages out with 0xAD04. An MSI to the target raises
0x0D01, offered to the PCIe context too. -/
def Obligations.PortsReceiveSendAndDiscover : Prop :=
  ∀ (s : State) (n : Nat), s.Canonical → n < 8 →
    let now := s.clock.now
    let p := s.ethPort n
    let port := fun (v : EthPort) (t : State) => t.ethPort n = v ∧ ∀ x, x ≠ n → t.ethPort x = s.ethPort x
    (∀ c ∈ [(Instr.ethLinkUp n, 3#64, 0xAD01, s.portOn n && !s.linkUp n), (Instr.ethLinkDown n, 0#64, 0xAD02, s.linkUp n)],
      (c.2.2.2 = true → ∃ u, s.SameBut [.regs] u ∧ s.OneReg (Reg.ethStatus n) c.2.1 u ∧
        exec c.1 s = .next (u.afterEvent (0xA8 + n) 6 c.2.2.1 (det [(1, n), (1, u.portLanes n), (2, u.portRate n / 1000)]))) ∧
      (c.2.2.2 = false → TurnedAway c.1 s)) ∧
    (∀ f, s.linkUp n = false ∨ f.length < 14 → TurnedAway (.ethFrameReceive n f) s) ∧
    (∀ f tagged pcp ty body, s.linkUp n = true → 14 ≤ f.length → etherParse f = (tagged, pcp, ty, body) →
      let c := Instr.ethFrameReceive n f
      let udp := udpParse ty body
      let dropped := ∃ t, exec c s = .next t ∧ s.SameBut [.regs] t ∧ Counted s (Reg.ethCnt n) Fld.ethCntRxDrop t
      (s.fld (Reg.ethCtl n) Fld.ethCtlMaxFrame < f.length → exec c s = .next s) ∧
      (f.length ≤ s.fld (Reg.ethCtl n) Fld.ethCtlMaxFrame →
        (ty = 0x8808 → ∃ t, exec c s = .next t ∧ s.SameBut [.regs] t ∧ Counted s (Reg.ethCnt n) Fld.ethCntPauseRx t) ∧
        (ty = 0x88F7 → exec c s = .next { s with out := some ⟨true, leBytes 8 now ++ f⟩ }) ∧
        (∀ x ttl, ty = 0x88CC → udp = none → lldpTlv 1 64 body = some x → lldpTlv 3 64 body = some ttl → ∃ u, s.SameBut [.eth] u ∧
          port { p with neigh := some (padTo 6 (x.drop 1), body, beAt ttl 0 2, now) } u ∧
          ((∃ a b d, p.neigh = some (a, body, b, d)) → exec c s = .next u) ∧
          (p.neigh = none → exec c s = .next (u.afterEvent 0x81 6 0xAD03
            (det ([(1, n), (3, 0)] ++ (padTo 6 (x.drop 1)).map fun y => (1, y.toNat)))))) ∧
        (∀ dst b, (ty = 0x0800 ∨ ty = 0x86DD) → udp = some (4791, dst, b) → s.ipMine n dst = true →
          CompletesThen c s (roceReceive b (ipCe ty body)) fun u => u = s) ∧
        (∀ peer, ty = 0xAEFE → udp = none → s.fhePeerOf (beAt f 6 6) = some peer → CompletesThen c s (fhReceive peer now body) fun u => u = s) ∧
        (∀ q count base h, ty ∉ [0x8808, 0x88F7, 0x88CC, 0xAEFE] → udp = none → q = s.fld (Reg.ethRxq n pcp) Fld.ethRxqQueue →
          count = s.fld (Reg.ethRxbuf n) Fld.ethRxbufCountM1 + 1 → base = s.fld (Reg.ethRxbuf n) Fld.ethRxbufBase * 64 →
          h = s.fld (Reg.ethCtx n) Fld.ethCtxHandle →
          (q = 0 → exec c s = .next s) ∧
          (q ≠ 0 → count ≤ p.used ∨ s.inBuffer h base (10240 * count) = false → dropped) ∧
          (∀ u ws v x y, q ≠ 0 → p.used < count → s.inBuffer h base (10240 * count) = true →
            (ctxWrite (0xA8 + n) h (base + 10240 * p.next) f).gives s none u → (deviceAppend q 4 (leBytes 8 (base + 10240 * p.next) ++
              leBytes 2 (f.length - 1) ++ leBytes 1 n ++ leBytes 1 (flagBit tagged) ++ leBytes 4 p.next ++ leBytes 8 now) h
              (s.safetyOf h)).gives u ws v → s.queue q = some x → v.queue q = some y → y.next ≠ x.next →
            CompletesThen c s (settleAll ws) fun z => v.SameBut [.eth] z ∧
              z.ethPort n = { p with next := (p.next + 1) % count, used := p.used + 1 })))) ∧
    (∀ w i, w ≠ .bcc ∨ 4096 ≤ i → exec (.rxBufferReturn w n i) s = .next (refusedWrite s (Reg.ethRxbufRet n) i 0)) ∧
    (∀ i count first k, i < 4096 → count = s.fld (Reg.ethRxbuf n) Fld.ethRxbufCountM1 + 1 →
      first = (p.next + count - p.used % count) % count → k = (i + count - first) % count + 1 →
      (i < count → k ≤ p.used → ∃ t, exec (.rxBufferReturn .bcc n i) s = .next t ∧ s.SameBut [.eth] t ∧ port { p with used := p.used - k } t) ∧
      (count ≤ i ∨ p.used < k → exec (.rxBufferReturn .bcc n i) s = .next s)) ∧
    (s.linkUp n = false ∨ s.txEntry n = none → TurnedAway (.ethFrameTransmit n) s) ∧
    (∀ q x e b u a len, s.linkUp n = true → s.txEntry n = some (q, x, e) →
      (ctxRead (0xA8 + n) x.owner (x.base + 64 * e.slot) 64).gives s (.ok b) u → a = leAt b 0 8 → len = leAt b 8 2 + 1 → s.txGood n e b = true →
      let leaves : M Unit := do settleAll (← leaveEntry q e.seq)
      let c := Instr.ethFrameTransmit n
      (∀ f v, s.inBuffer e.producer a len = true → (ctxRead (0xA8 + n) e.producer a len).gives u (.ok f) v → CompletesThen c s leaves fun z =>
        v.SameBut [.regs, .sent] z ∧ z.sent = v.sent ++ [(0xA8 + n, padTo (max 60 len) f)] ∧
          v.OneReg (Reg.ethTxdone n) (BitVec.ofNat 64 e.seq) z) ∧
      (s.inBuffer e.producer a len = false → CompletesThen c s leaves fun z =>
        (u.afterEvent (0xA8 + n) 6 0x3D03 (det [(1, n), (3, 0), (4, e.seq)])).SameBut [.regs] z ∧ z.sent = u.sent)) ∧
    (s.linkUp n = true → (p.lldpAt = none ∨ ∃ x, p.lldpAt = some x ∧ x + 30 * 2 ^ 32 ≤ now) → ∃ t f, exec (.lldpSend n) s = .next t ∧
      s.SameBut [.sent, .eth] t ∧ port { p with lldpAt := some now } t ∧ t.sent = s.sent ++ [(0xA8 + n, f)] ∧ 60 ≤ f.length ∧
        beAt f 0 6 = 0x0180C200000E ∧ beAt f 6 6 = s.fld (Reg.ethMac n) Fld.ethMacMac ∧ beAt f 12 2 = 0x88CC) ∧
    (s.linkUp n = false ∨ (∃ x, p.lldpAt = some x ∧ now < x + 30 * 2 ^ 32) → TurnedAway (.lldpSend n) s) ∧
    (∀ x b ttl y, p.neigh = some (x, b, ttl, y) →
      (y + ttl * 2 ^ 32 + settleMargin ≤ now → ∃ u, s.SameBut [.eth] u ∧ port { p with neigh := none } u ∧
        exec (.lldpTtlExpiry n) s = .next (u.afterEvent 0x81 6 0xAD04 (det ([(1, n), (3, 0)] ++ x.map fun z => (1, z.toNat))))) ∧
      (now < y + ttl * 2 ^ 32 + settleMargin → TurnedAway (.lldpTtlExpiry n) s)) ∧
    (p.neigh = none → TurnedAway (.lldpTtlExpiry n) s) ∧
    (∀ speed shows, speed = s.fld Reg.pcieStatus Fld.pcieStatusSpeed →
      shows = (fun (a b : Nat) (u : State) => s.SameBut [.regs] u ∧ (∀ x, x ≠ Reg.pcieStatus → u.reg x = s.reg x) ∧
        u.fld Reg.pcieStatus Fld.pcieStatusSpeed = a ∧ u.fld Reg.pcieStatus Fld.pcieStatusWidth = b) →
      (∀ a b, 1 ≤ a → a ≤ 5 → b ∈ [1, 2, 4, 8] → speed = 0 → ∃ u, shows a b u ∧
        exec (.pcieLinkUp a b) s = .next (u.afterEvent 0xB0 6 0xAD06 (det [(1, a), (1, b)]))) ∧
      (∀ a b, a = 0 ∨ 5 < a ∨ b ∉ [1, 2, 4, 8] ∨ speed ≠ 0 → TurnedAway (.pcieLinkUp a b) s) ∧
      (speed ≠ 0 → ∃ u, shows 0 0 u ∧
        exec .pcieLinkDown s = .next (u.afterEvent 0xB0 6 0xAD07 (det [(1, speed), (1, s.fld Reg.pcieStatus Fld.pcieStatusWidth)]))) ∧
      (speed = 0 → TurnedAway .pcieLinkDown s) ∧
      ∀ a d, (s.fld Reg.pcieStatus Fld.pcieStatusRole = 0 → speed ≠ 0 → a = s.fld Reg.pcieMsi Fld.pcieMsiAddr * 4 →
          CompletesThen (.msiReceive a d) s (do
            settleAll (← offerCtx (s.fld Reg.pcieCtx Fld.pcieCtxHandle) ⟨0xB0, 6, 0x0D01, det [(4, d)]⟩)) fun u =>
              u = s.afterEvent 0xB0 6 0x0D01 (det [(4, d)])) ∧
        (s.fld Reg.pcieStatus Fld.pcieStatusRole ≠ 0 ∨ speed = 0 ∨ a ≠ s.fld Reg.pcieMsi Fld.pcieMsiAddr * 4 → TurnedAway (.msiReceive a d) s))

/-- At a SYSREF edge every enabled link outside the data state enters it with its measured latency, a resynchronised one counted;
a link error counts a CRC error and leaves the data state with event 0xAC02. A symbol that begins at the DFE input is
down-converted for the running task that holds it; for a waiting one it counts as zeros. A symbol's launch sends the running
task's samples when its band was filled in time and transmission is not held, else zeros, recorded as missed. An open window
sends the message of its symbol; at its close an unsent symbol counts as missed with event 0x4C06, and a receiving task waits
no longer. With nothing due each is turned away. -/
def Obligations.RadioLinksAlignAndSymbolsPassInTime : Prop :=
  ∀ (s : State), s.Canonical →
    let now := s.clock.now
    let fetched := fun (t : Option Nat) => t.filter fun n => ((s.task n).map (·.fetched)).getD false
    (s.radio.sysref < s.sysrefAt → s.fenced 5 = false → ∃ t, exec .sysrefEdge s = .next t ∧ s.SameBut [.mem, .regs, .sys, .tally, .radio] t ∧
      t.radio = { s.radio with sysref := s.sysrefAt } ∧ ∀ l, l < 8 →
        if s.linkOn l = true ∧ s.linkState l ≠ 2 then t.linkState l = 2 ∧
          t.fld (Reg.jesdStatus l) Fld.jesdStatusLat = Config.jesdLatency l (s.fld (Reg.jesdCtl l) Fld.jesdCtlRbd) % 2 ^ 24 ∧
          t.fld (Reg.jesdErr l) Fld.jesdErrResync =
            satAdd 32 (s.fld (Reg.jesdErr l) Fld.jesdErrResync) (if s.linkState l = 1 then 1 else 0)
        else t.reg (Reg.jesdStatus l) = s.reg (Reg.jesdStatus l) ∧ t.reg (Reg.jesdErr l) = s.reg (Reg.jesdErr l)) ∧
    (s.sysrefAt ≤ s.radio.sysref ∨ s.fenced 5 = true → TurnedAway .sysrefEdge s) ∧
    (∀ l sync, (l < 8 → s.linkOn l = true → s.linkState l = 2 → ∃ u, s.SameBut [.regs] u ∧ u.linkState l = 1 ∧
        u.fld (Reg.jesdErr l) Fld.jesdErrCrc = satAdd Fld.jesdErrCrc.width (s.fld (Reg.jesdErr l) Fld.jesdErrCrc) (if sync then 0 else 1) ∧
        exec (.jesdLinkError l sync) s = .next (u.afterEvent 0xB3 5 0xAC02 (det [(1, l), (1, if sync then 0 else 1)]))) ∧
      (8 ≤ l ∨ s.linkOn l = false ∨ s.linkState l ≠ 2 → TurnedAway (.jesdLinkError l sync) s)) ∧
    (∀ c x samples, s.rxDue c = some x → samples.length = s.carStreams c * s.inputBytes c x →
      let g := s.engine (0x200 + c)
      let ins := (List.range (s.carStreams c)).map fun a =>
        s.linkSamples (s.carFirst c + a) ((samples.drop (a * s.inputBytes c x)).take (s.inputBytes c x))
      let rx := fun (more : List SymRec) (t : State) => t.radio = { s.radio with
        rxAt := tblSet s.radio.rxAt c (s.symStamp c x.1 x.2)
        rx := (s.radio.rx.filter fun e => (s.task e.task).isSome) ++ more }
      let counts := fun (t : State) => ∀ y, y ≠ Reg.rdSat 1 → y ≠ Reg.dfeCnt c → t.reg y = s.reg y
      (∀ n k p i, s.holder (fetched g.running) c x = some (n, k, p, i) → ∃ t, exec (.symbolBoundary c samples) s = .next t ∧
        s.SameBut [.regs, .radio] t ∧ counts t ∧ rx [⟨n, i, now, ins.map fun v => (s.downConvert c x p v.1).1⟩] t ∧
        t.fld (Reg.rdSat 1) Fld.rdSatCount = satAdd Fld.rdSatCount.width (s.fld (Reg.rdSat 1) Fld.rdSatCount)
          ((ins.map fun v => s.downConvert c x p v.1).foldl (fun m v => m + v.2) 0)) ∧
      (∀ n k p i, s.holder (fetched g.running) c x = none → s.holder g.next c x = some (n, k, p, i) →
        CompletesThen (.symbolBoundary c samples) s (do
          zeroSymbol n k c (x.2 % 14) 0x4C03 false
          modRadio fun r => { r with rx := r.rx ++ [⟨n, i, now, []⟩] }) fun u => s.SameBut [.radio] u ∧ rx [] u) ∧
      (s.holder (fetched g.running) c x = none → s.holder g.next c x = none → ∃ t, exec (.symbolBoundary c samples) s = .next t ∧
        s.SameBut [.regs, .radio] t ∧ counts t ∧ rx [] t)) ∧
    (∀ c samples, (∀ x, s.rxDue c = some x → samples.length ≠ s.carStreams c * s.inputBytes c x) → TurnedAway (.symbolBoundary c samples) s) ∧
    (∀ c x, s.txDue c = some x →
      let g := s.engine (0x210 + c)
      let len := s.symLen c x
      let start := x.1 / 1000 * s.carRate c + s.symSamples c x.1 x.2 / max 1 (s.carStep c)
      let zero : TxSym := ⟨start, List.replicate (s.carStreams c) (List.replicate len (0, 0)), List.replicate 24 0, 0⟩
      let launched := fun (more : List SymRec) (u : State) => s.SameBut [.regs, .radio] u ∧ u.radio = { s.radio with
        txAt := tblSet s.radio.txAt c (s.symStamp c x.1 x.2)
        launched := (s.radio.launched.filter fun e => (s.task e.task).isSome) ++ more }
      let state := s.fld Reg.timeStatus Fld.timeStatusState
      let runs := state = 2 ∨ state = 3
      (∀ n k p i, s.holder (fetched g.running) c x = some (n, k, p, i) →
        let inTime := ∃ b, s.bandStamp k i = some b ∧ b + usUnits 2 ≤ s.symStamp c x.1 x.2 - s.txLead c
        let ins := (List.range (s.carStreams c)).map fun a => applyGain (leAt p 8 2) (rotate (s.phaseOf c x.2) (s.txInput k len a i)).1
        (runs → inTime → CompletesThen (.symbolLaunch c) s (launchSamples c ⟨start, ins.map (·.1), dfeTaps p, leAt p 10 2⟩)
          (launched [⟨n, i, now, [[1]]⟩])) ∧
        (runs → ¬ inTime → CompletesThen (.symbolLaunch c) s (do
          zeroSymbol n k c (x.2 % 14) 0x4C04 true
          modRadio fun r => { r with launched := r.launched ++ [⟨n, i, now, []⟩] }
          launchSamples c zero) (launched [])) ∧
        (¬ runs → s.radio.held = true → CompletesThen (.symbolLaunch c) s (launchSamples c zero) fun u => launched [⟨n, i, now, []⟩] u ∧
          Counted s (Reg.dfeCnt c) Fld.dfeCntTxZero u)) ∧
      (∀ n k p i, s.holder (fetched g.running) c x = none → s.holder g.next c x = some (n, k, p, i) → runs →
        CompletesThen (.symbolLaunch c) s (do
          zeroSymbol n k c (x.2 % 14) 0x4C03 true
          modRadio fun r => { r with launched := r.launched ++ [⟨n, i, now, []⟩] }
          launchSamples c zero) (launched [])) ∧
      (s.holder (fetched g.running) c x = none → s.holder g.next c x = none → CompletesThen (.symbolLaunch c) s (launchSamples c zero)
        (launched []))) ∧
    (∀ c, s.txDue c = none → TurnedAway (.symbolLaunch c) s) ∧
    (∀ peer, 16 ≤ peer ∨ s.fhSendable peer = [] → TurnedAway (.fhWindowOpen peer) s) ∧
    (∀ peer n k i u, peer < 16 → s.fhTask 0x609 peer = some (n, k) → s.fhSendable peer = [i] →
      s.fld Reg.timeStatus Fld.timeStatusState = 2 ∨ s.fld Reg.timeStatus Fld.timeStatusState = 3 →
      M.gives (if i = 1000 then
          fhSend k.params 2 (cMessage k.params (s.radioTime (fhSpan k.params).car (s.taskSym k (fhSpan k.params) 0)) (fhSpan k.params).count)
        else fhSendSymbol k i) s () u →
      ∃ t, exec (.fhWindowOpen peer) s = .next t ∧ s.SameBut (Instr.fhWindowOpen peer).parts t ∧ u.SameBut [.radio] t ∧
        t.radio = { u.radio with fhSent := u.radio.fhSent ++ [⟨n, i, now, [[1]]⟩] }) ∧
    (∀ peer, 16 ≤ peer ∨ (s.fhClosing peer 0x609 = [] ∧ s.fhClosing peer 0x60A = []) → TurnedAway (.fhWindowClose peer) s) ∧
    (∀ peer n k i, peer < 16 → s.fhTask 0x609 peer = some (n, k) → s.fhClosing peer 0x609 = [i] → CompletesThen (.fhWindowClose peer) s (do
        settleAll (← raiseFor n 0x35 5 0x4C06
          (taskDetail [(1, peer), (1, (fhSpan k.params).l0 + i), (2, fhEaxc k.params)] k 0xFF))) fun u =>
      s.SameBut [.regs, .radio] u ∧ Counted s (Reg.fheCntB peer) Fld.fheCntBTxMissed u ∧
        u.radio = { s.radio with fhSent := s.radio.fhSent ++ [⟨n, i, now, []⟩] }) ∧
    (∀ peer n k, peer < 16 → s.fhTask 0x60A peer = some (n, k) → s.fhClosing peer 0x60A ≠ [] → ∃ t, exec (.fhWindowClose peer) s = .next t ∧
      s.SameBut [.radio] t ∧ t.radio = { s.radio with fhClosed := s.radio.fhClosed ++ (s.fhClosing peer 0x60A).map fun i => ⟨n, i, now, [[1]]⟩ })
end

