-- ==== Sys2Proof/Laws/Run.lean ====
section
/-! SUPPORT. What a meaning leaves, taken apart: the state after a sequence of updates, and the updates a meaning can make. -/

namespace Sys2Proof.Machine

open Sys2Proof

variable {α β : Type} {P Q : Upd → Prop}

/-! ## Running -/

@[simp] theorem run_pure (s : State) : M.run (pure ()) s = s := rfl

@[simp] theorem run_update (u : Upd) (s : State) : M.run (update u) s = u.apply s := rfl

@[simp] theorem run_pure_bind (a : α) (f : α → M Unit) (s : State) : M.run (pure a >>= f) s = M.run (f a) s := rfl

@[simp] theorem run_getS_bind (f : State → M Unit) (s : State) : M.run (getS >>= f) s = M.run (f s) s := rfl

@[simp] theorem run_update_bind (u : Upd) (f : Unit → M Unit) (s : State) :
    M.run (update u >>= f) s = M.run (f ()) (u.apply s) := rfl

@[simp] theorem run_bind_bind (m : M α) (f : α → M β) (g : β → M Unit) (s : State) :
    M.run (m >>= f >>= g) s = M.run (m >>= fun a => f a >>= g) s := rfl

@[simp] theorem run_ite (c : Prop) [Decidable c] (m n : M Unit) (s : State) :
    M.run (if c then m else n) s = if c then M.run m s else M.run n s := by
  split <;> rfl

theorem run_ite_bind (c : Prop) [Decidable c] (m n : M α) (f : α → M Unit) (s : State) :
    M.run ((if c then m else n) >>= f) s = if c then M.run (m >>= f) s else M.run (n >>= f) s := by
  split <;> rfl

@[simp] theorem always_next (m : M Unit) (s : State) : always m s = .next (m.run s) := rfl

theorem whenEnabled_next {c : State → Bool} {m : M Unit} {s : State} (h : c s = true) :
    whenEnabled c m s = .next (m.run s) := if_pos h

theorem whenEnabled_refused {c : State → Bool} {m : M Unit} {s : State} (h : c s = false) :
    whenEnabled c m s = .refused .notEnabled := if_neg (by simp [h])

/-- What an answer of an event's command says: its cause was present. -/
theorem whenEnabled_cases {c : State → Bool} {m : M Unit} {s t : State} (h : whenEnabled c m s = .next t) :
    c s = true ∧ t = m.run s := by
  unfold whenEnabled at h
  split at h
  · next hc => exact ⟨hc, by cases h; rfl⟩
  · cases h

/-! ## Which updates a meaning makes -/

/-- One state comes from another by updates that have a property. -/
inductive Steps (P : Upd → Prop) : State → State → Prop where
  | refl (s : State) : Steps P s s
  | snoc {s t : State} {u : Upd} (h : Steps P s t) (hu : P u) : Steps P s (u.apply t)

theorem Steps.one {u : Upd} (h : P u) (s : State) : Steps P s (u.apply s) := .snoc (.refl s) h

theorem Steps.trans {s t u : State} (h : Steps P s t) (k : Steps P t u) : Steps P s u := by
  induction k with
  | refl => exact h
  | snoc _ hu ih => exact .snoc ih hu

theorem Steps.mono {s t : State} (hq : ∀ u, P u → Q u) (h : Steps P s t) : Steps Q s t := by
  induction h with
  | refl => exact .refl _
  | snoc _ hu ih => exact .snoc ih (hq _ hu)

/-- A property of states that every update keeps holds at the end. -/
theorem Steps.keeps {I : State → Prop} {s t : State} (hu : ∀ (u : Upd) s, P u → I s → I (u.apply s)) (h : Steps P s t)
    (hs : I s) : I t := by
  induction h with
  | refl => exact hs
  | snoc _ hp ih => exact hu _ _ hp ih

/-- What an action leaves comes from where it began by updates. -/
theorem Act.run_steps : ∀ (a : Act) (s : State), Steps (fun _ => True) s (a.run s)
  | .done, s => .refl s
  | .get k, s => (k s).run_steps s
  | .upd _ k, s => (Steps.one trivial s).trans (k.run_steps _)

/-- A meaning answers one value and leaves one state, whatever follows it, and every update it makes has a property. -/
def M.All (P : Upd → Prop) (m : M α) : Prop :=
  ∀ s, ∃ a t, Steps P s t ∧ ∀ k : α → Act, Act.run (m k) s = (k a).run t

theorem M.All.pure (a : α) : M.All P (pure a : M α) := fun s => ⟨a, s, .refl s, fun _ => rfl⟩

theorem M.All.getS : M.All P getS := fun s => ⟨s, s, .refl s, fun _ => rfl⟩

theorem M.All.update {u : Upd} (h : P u) : M.All P (update u) := fun s => ⟨(), u.apply s, .one h s, fun _ => rfl⟩

theorem M.All.bind {m : M α} {f : α → M β} (hm : M.All P m) (hf : ∀ a, M.All P (f a)) : M.All P (m >>= f) := by
  intro s
  obtain ⟨a, t, ht, hk⟩ := hm s
  obtain ⟨b, u, hu, hl⟩ := hf a t
  exact ⟨b, u, ht.trans hu, fun k => (hk _).trans (hl k)⟩

theorem M.All.ite {c : Prop} [Decidable c] {m n : M α} (hm : M.All P m) (hn : M.All P n) :
    M.All P (if c then m else n) := by
  split <;> assumption

theorem M.All.forIn {γ : Type} (l : List γ) (b : β) (f : γ → β → M (ForInStep β)) (h : ∀ x y, M.All P (f x y)) :
    M.All P (forIn l b f) := by
  induction l generalizing b with
  | nil => exact M.All.pure b
  | cons x t ih =>
    rw [List.forIn_cons]
    refine M.All.bind (h x b) fun r => ?_
    cases r with
    | done y => exact M.All.pure y
    | yield y => exact ih y

theorem M.All.mono {m : M α} (hm : M.All P m) (h : ∀ u, P u → Q u) : M.All Q m := by
  intro s
  obtain ⟨a, t, ht, hk⟩ := hm s
  exact ⟨a, t, ht.mono h, hk⟩

/-- A meaning alone: the state it leaves comes by its updates. -/
theorem M.All.run_steps {m : M Unit} (hm : M.All P m) (s : State) : Steps P s (m.run s) := by
  obtain ⟨a, t, ht, hk⟩ := hm s
  rwa [M.run, M.act, hk]

/-- A meaning followed by another: the rest runs from the state the first leaves. -/
theorem M.All.run_bind {m : M α} (hm : M.All P m) (s : State) :
    ∃ a t, Steps P s t ∧ ∀ f : α → M Unit, M.run (m >>= f) s = M.run (f a) t := by
  obtain ⟨a, t, ht, hk⟩ := hm s
  exact ⟨a, t, ht, fun f => hk _⟩

theorem M.All.keeps {I : State → Prop} {m : M Unit} (hm : M.All P m)
    (hu : ∀ (u : Upd) s, P u → I s → I (u.apply s)) {s : State} (h : I s) : I (m.run s) :=
  (hm.run_steps s).keeps hu h

/-- A property of states that every update keeps holds after every meaning. -/
theorem M.keeps {I : State → Prop} (m : M Unit) (hu : ∀ (u : Upd) s, I s → I (u.apply s)) {s : State} (h : I s) :
    I (m.run s) :=
  (Act.run_steps m.act s).keeps (fun u s _ => hu u s) h

/-! ## The components an action reaches -/

/-- The number of the component of the state that an update changes, in the order of `Upd`'s constructors. -/
def Upd.kind : Upd → Nat
  | .mem _ _ => 0
  | .memClear _ _ => 1
  | .regClear _ _ => 2
  | .reg _ _ => 3
  | .out _ => 4
  | .free _ => 5
  | .clock _ => 6
  | .sys _ => 7
  | .tally _ => 8
  | .engines _ => 9
  | .dma _ => 10
  | .rcv _ => 11
  | .hall _ => 12
  | .sent _ => 13
  | .pins _ => 14
  | .fabric _ => 15
  | .power _ => 16
  | .store _ => 17
  | .sec _ => 18
  | .bist _ => 19
  | .safe _ => 20
  | .cams _ => 21
  | .radio _ => 22
  | .eth _ => 23

/-- The bit a mask has for the component an update changes. -/
def Upd.bit (n : Nat) : Upd → Bool
  | .mem _ _ => n.testBit 0
  | .memClear _ _ => n.testBit 1
  | .regClear _ _ => n.testBit 2
  | .reg _ _ => n.testBit 3
  | .out _ => n.testBit 4
  | .free _ => n.testBit 5
  | .clock _ => n.testBit 6
  | .sys _ => n.testBit 7
  | .tally _ => n.testBit 8
  | .engines _ => n.testBit 9
  | .dma _ => n.testBit 10
  | .rcv _ => n.testBit 11
  | .hall _ => n.testBit 12
  | .sent _ => n.testBit 13
  | .pins _ => n.testBit 14
  | .fabric _ => n.testBit 15
  | .power _ => n.testBit 16
  | .store _ => n.testBit 17
  | .sec _ => n.testBit 18
  | .bist _ => n.testBit 19
  | .safe _ => n.testBit 20
  | .cams _ => n.testBit 21
  | .radio _ => n.testBit 22
  | .eth _ => n.testBit 23

theorem Upd.bit_eq (n : Nat) (u : Upd) : u.bit n = n.testBit u.kind := by
  cases u <;> rfl

/-- Whether an update changes a component whose bit a mask has. -/
abbrev Upd.In (n : Nat) (u : Upd) : Prop := u.bit n = true

/-- One mask lies within another. -/
abbrev Within (a b : Nat) : Prop := a &&& b = a

theorem Within.trans {a b c : Nat} (h : Within a b) (k : Within b c) : Within a c := by
  unfold Within at *
  rw [← h, Nat.land_assoc, k]

theorem Upd.In.of {a b : Nat} {u : Upd} (hs : Within a b) (h : u.bit a = true) : Upd.In b u := by
  unfold Within at hs
  simp only [Upd.In, Upd.bit_eq] at *
  rw [← hs, Nat.testBit_and] at h
  exact (Bool.and_eq_true_iff.mp h).2

theorem M.All.within {a b : Nat} {m : M α} (h : M.All (Upd.In a) m) (hs : Within a b) : M.All (Upd.In b) m :=
  h.mono fun _ hu => .of hs hu

/-! ## States reached -/

/-- One state comes from another by updates of the components of a mask. -/
abbrev Reaches (n : Nat) (s t : State) : Prop := Steps (Upd.In n) s t

theorem Reaches.full (m : M Unit) (s : State) : Reaches 0xFFFFFF s (m.run s) :=
  (Act.run_steps m.act s).mono fun u _ => by cases u <;> rfl

end Sys2Proof.Machine
end

