-- ==== Sys2Proof/Laws/ReachBase.lean ====
section
/-! SUPPORT. Which components of the state the operations of one group reach: the event streams, memory, queues and Tally. One lemma for each operation: every update it makes
lies in its mask, so every component outside the mask is as before. -/

set_option linter.unusedTactic false
set_option linter.unreachableTactic false
set_option linter.unusedVariables false
set_option linter.style.multiGoal false

namespace Sys2Proof.Machine

open Sys2Proof

theorem wrReg_reach {msk : Nat} (hw : Within 0x8 msk) (off : Nat) (v : Word) :
    M.All (Upd.In msk) (wrReg off v) := by
  unfold wrReg
  repeat' first
    | (with_reducible first | exact .pure _ | exact .getS | refine .bind ?_ fun _ => ?_ | refine .ite ?_ ?_)
    | ((with_reducible refine .update ?_); exact .of hw rfl)
    | with_reducible intro _
    | split

theorem wrFld_reach {msk : Nat} (hw : Within 0x8 msk) (off : Nat) (f : Field) (v : Nat) :
    M.All (Upd.In msk) (wrFld off f v) := by
  unfold wrFld
  repeat' first
    | (with_reducible first | exact .pure _ | exact .getS | refine .bind ?_ fun _ => ?_ | refine .ite ?_ ?_)
    | ((with_reducible refine wrReg_reach ?_ _ _); exact .trans rfl hw)
    | with_reducible intro _
    | split

theorem modEngine_reach {msk : Nat} (hw : Within 0x200 msk) (e : Nat) (f : Engine → Engine) :
    M.All (Upd.In msk) (modEngine e f) := by
  unfold modEngine
  repeat' first
    | (with_reducible first | exact .pure _ | exact .getS | refine .bind ?_ fun _ => ?_ | refine .ite ?_ ?_)
    | ((with_reducible refine .update ?_); exact .of hw rfl)
    | with_reducible intro _
    | split

theorem modTally_reach {msk : Nat} (hw : Within 0x100 msk) (f : Tally → Tally) :
    M.All (Upd.In msk) (modTally f) := by
  unfold modTally
  repeat' first
    | (with_reducible first | exact .pure _ | exact .getS | refine .bind ?_ fun _ => ?_ | refine .ite ?_ ?_)
    | ((with_reducible refine .update ?_); exact .of hw rfl)
    | with_reducible intro _
    | split

theorem modQueue_reach {msk : Nat} (hw : Within 0x100 msk) (q : Nat) (f : Queue → Queue) :
    M.All (Upd.In msk) (modQueue q f) := by
  unfold modQueue
  repeat' first
    | (with_reducible first | exact .pure _ | exact .getS | refine .bind ?_ fun _ => ?_ | refine .ite ?_ ?_)
    | ((with_reducible refine modTally_reach ?_ _); exact .trans rfl hw)
    | with_reducible intro _
    | split

theorem writeBack_reach {msk : Nat} (hw : Within 0x81 msk) (line : Nat) :
    M.All (Upd.In msk) (writeBack line) := by
  unfold writeBack
  repeat' first
    | (with_reducible first | exact .pure _ | exact .getS | refine .bind ?_ fun _ => ?_ | refine .ite ?_ ?_)
    | ((with_reducible refine .update ?_); exact .of hw rfl)
    | with_reducible intro _
    | split

theorem dropLine_reach {msk : Nat} (hw : Within 0x81 msk) (line : Nat) :
    M.All (Upd.In msk) (dropLine line) := by
  unfold dropLine
  repeat' first
    | (with_reducible first | exact .pure _ | exact .getS | refine .bind ?_ fun _ => ?_ | refine .ite ?_ ?_)
    | ((with_reducible refine .update ?_); exact .of hw rfl)
    | ((with_reducible refine writeBack_reach ?_ _); exact .trans rfl hw)
    | with_reducible intro _
    | split

theorem allocLine_reach {msk : Nat} (hw : Within 0x81 msk) (line : Nat) (l : CacheLine) :
    M.All (Upd.In msk) (allocLine line l) := by
  unfold allocLine
  repeat' first
    | (with_reducible first | exact .pure _ | exact .getS | refine .bind ?_ fun _ => ?_ | refine .ite ?_ ?_)
    | ((with_reducible refine .update ?_); exact .of hw rfl)
    | ((with_reducible refine dropLine_reach ?_ _); exact .trans rfl hw)
    | with_reducible intro _
    | split

theorem storeLine_reach {msk : Nat} (hw : Within 0x81 msk) (who a : Nat) (bs : List Byte) :
    M.All (Upd.In msk) (storeLine who a bs) := by
  unfold storeLine
  repeat' first
    | (with_reducible first | exact .pure _ | exact .getS | refine .bind ?_ fun _ => ?_ | refine .ite ?_ ?_)
    | ((with_reducible refine .update ?_); exact .of hw rfl)
    | ((with_reducible refine allocLine_reach ?_ _ _); exact .trans rfl hw)
    | ((with_reducible refine dropLine_reach ?_ _); exact .trans rfl hw)
    | with_reducible intro _
    | split

theorem streamWrite_reach {msk : Nat} (hw : Within 0x181 msk) (q pa : Nat) (r : List Byte) :
    M.All (Upd.In msk) (streamWrite q pa r) := by
  unfold streamWrite
  repeat' first
    | (with_reducible first | exact .pure _ | exact .getS | refine .bind ?_ fun _ => ?_ | refine .ite ?_ ?_)
    | ((with_reducible refine modQueue_reach ?_ _ _); exact .trans rfl hw)
    | ((with_reducible refine storeLine_reach ?_ _ _ _); exact .trans rfl hw)
    | with_reducible intro _
    | split

theorem offer0_reach {msk : Nat} (hw : Within 0x181 msk) (mk : Nat → List Byte) :
    M.All (Upd.In msk) (offer0 mk) := by
  unfold offer0
  repeat' first
    | (with_reducible first | exact .pure _ | exact .getS | refine .bind ?_ fun _ => ?_ | refine .ite ?_ ?_)
    | ((with_reducible refine streamWrite_reach ?_ _ _ _); exact .trans rfl hw)
    | ((with_reducible refine modQueue_reach ?_ _ _); exact .trans rfl hw)
    | with_reducible intro _
    | split

theorem raise_reach {msk : Nat} (hw : Within 0x181 msk) (src part code : Nat) (detail : List Byte) :
    M.All (Upd.In msk) (raise src part code detail) := by
  unfold raise
  repeat' first
    | (with_reducible first | exact .pure _ | exact .getS | refine .bind ?_ fun _ => ?_ | refine .ite ?_ ?_)
    | ((with_reducible refine offer0_reach ?_ _); exact .trans rfl hw)
    | with_reducible intro _
    | split

theorem modTask_reach {msk : Nat} (hw : Within 0x100 msk) (t : Nat) (f : Task → Task) :
    M.All (Upd.In msk) (modTask t f) := by
  unfold modTask
  repeat' first
    | (with_reducible first | exact .pure _ | exact .getS | refine .bind ?_ fun _ => ?_ | refine .ite ?_ ?_)
    | ((with_reducible refine modTally_reach ?_ _); exact .trans rfl hw)
    | with_reducible intro _
    | split

theorem prevTokens_reach {msk : Nat} (hw : Within 0x100 msk) (g : Nat) :
    M.All (Upd.In msk) (prevTokens g) := by
  unfold prevTokens
  repeat' first
    | (with_reducible first | exact .pure _ | exact .getS | refine .bind ?_ fun _ => ?_ | refine .ite ?_ ?_ | refine .forIn _ _ _ fun _ _ => ?_)
    | ((with_reducible refine modTask_reach ?_ _ _); exact .trans rfl hw)
    | with_reducible intro _
    | split

theorem modCtx_reach {msk : Nat} (hw : Within 0x100 msk) (h : Nat) (f : Ctx → Ctx) :
    M.All (Upd.In msk) (modCtx h f) := by
  unfold modCtx
  repeat' first
    | (with_reducible first | exact .pure _ | exact .getS | refine .bind ?_ fun _ => ?_ | refine .ite ?_ ?_)
    | ((with_reducible refine modTally_reach ?_ _); exact .trans rfl hw)
    | with_reducible intro _
    | split

theorem modJob_reach {msk : Nat} (hw : Within 0x8000 msk) (j : Nat) (f : Job → Job) :
    M.All (Upd.In msk) (modJob j f) := by
  unfold modJob
  repeat' first
    | (with_reducible first | exact .pure _ | exact .getS | refine .bind ?_ fun _ => ?_ | refine .ite ?_ ?_)
    | ((with_reducible refine .update ?_); exact .of hw rfl)
    | with_reducible intro _
    | split

theorem settleSteps_reach {msk : Nat} (hw : Within 0x8008 msk) (j : Nat) :
    M.All (Upd.In msk) (settleSteps j) := by
  unfold settleSteps
  repeat' first
    | (with_reducible first | exact .pure _ | exact .getS | refine .bind ?_ fun _ => ?_ | refine .ite ?_ ?_)
    | ((with_reducible refine modJob_reach ?_ _ _); exact .trans rfl hw)
    | ((with_reducible refine wrFld_reach ?_ _ _ _); exact .trans rfl hw)
    | with_reducible intro _
    | split

theorem settleJobs_reach {msk : Nat} (hw : Within 0x8008 msk) (h : Nat) :
    M.All (Upd.In msk) (settleJobs h) := by
  unfold settleJobs
  repeat' first
    | (with_reducible first | exact .pure _ | exact .getS | refine .bind ?_ fun _ => ?_ | refine .ite ?_ ?_ | refine .forIn _ _ _ fun _ _ => ?_)
    | ((with_reducible refine settleSteps_reach ?_ _); exact .trans rfl hw)
    | with_reducible intro _
    | split

theorem msixFor_reach {msk : Nat} (hw : Within 0x2000 msk) (q : Nat) :
    M.All (Upd.In msk) (msixFor q) := by
  unfold msixFor
  repeat' first
    | (with_reducible first | exact .pure _ | exact .getS | refine .bind ?_ fun _ => ?_ | refine .ite ?_ ?_ | refine .forIn _ _ _ fun _ _ => ?_)
    | ((with_reducible refine .update ?_); exact .of hw rfl)
    | with_reducible intro _
    | split

theorem translationFault_reach {msk : Nat} (hw : Within 0x181 msk) (who h va access : Nat) (e : MemErr) :
    M.All (Upd.In msk) (translationFault who h va access e) := by
  unfold translationFault
  repeat' first
    | (with_reducible first | exact .pure _ | exact .getS | refine .bind ?_ fun _ => ?_ | refine .ite ?_ ?_)
    | ((with_reducible refine raise_reach ?_ _ _ _ _); exact .trans rfl hw)
    | with_reducible intro _
    | split

theorem bump_reach {msk : Nat} (hw : Within 0x8 msk) (off : Nat) (f : Field) (n : Nat) :
    M.All (Upd.In msk) (bump off f n) := by
  unfold bump
  repeat' first
    | (with_reducible first | exact .pure _ | exact .getS | refine .bind ?_ fun _ => ?_ | refine .ite ?_ ?_)
    | ((with_reducible refine wrFld_reach ?_ _ _ _); exact .trans rfl hw)
    | with_reducible intro _
    | split

theorem countLate_reach {msk : Nat} (hw : Within 0x8 msk) :
    M.All (Upd.In msk) (countLate) := by
  unfold countLate
  repeat' first
    | (with_reducible first | exact .pure _ | exact .getS | refine .bind ?_ fun _ => ?_ | refine .ite ?_ ?_)
    | ((with_reducible refine bump_reach ?_ _ _ _); exact .trans rfl hw)
    | with_reducible intro _
    | split

theorem decodeError_reach {msk : Nat} (hw : Within 0x181 msk) (who a : Nat) (isWrite : Bool) :
    M.All (Upd.In msk) (decodeError who a isWrite) := by
  unfold decodeError
  repeat' first
    | (with_reducible first | exact .pure _ | exact .getS | refine .bind ?_ fun _ => ?_ | refine .ite ?_ ?_)
    | ((with_reducible refine raise_reach ?_ _ _ _ _); exact .trans rfl hw)
    | with_reducible intro _
    | split

theorem meter_reach {msk : Nat} (hw : Within 0x8 msk) (who a n : Nat) (isWrite : Bool) :
    M.All (Upd.In msk) (meter who a n isWrite) := by
  unfold meter
  repeat' first
    | (with_reducible first | exact .pure _ | exact .getS | refine .bind ?_ fun _ => ?_ | refine .ite ?_ ?_)
    | ((with_reducible refine bump_reach ?_ _ _ _); exact .trans rfl hw)
    | with_reducible intro _
    | split

theorem eccFailed_reach {msk : Nat} (hw : Within 0x389 msk) (who w kind : Nat) :
    M.All (Upd.In msk) (eccFailed who w kind) := by
  unfold eccFailed
  repeat' first
    | (with_reducible first | exact .pure _ | exact .getS | refine .bind ?_ fun _ => ?_ | refine .ite ?_ ?_)
    | ((with_reducible refine modEngine_reach ?_ _ _); exact .trans rfl hw)
    | ((with_reducible refine raise_reach ?_ _ _ _ _); exact .trans rfl hw)
    | ((with_reducible refine wrReg_reach ?_ _ _); exact .trans rfl hw)
    | with_reducible intro _
    | split

theorem touchLine_reach {msk : Nat} (hw : Within 0x81 msk) (who a : Nat) :
    M.All (Upd.In msk) (touchLine who a) := by
  unfold touchLine
  repeat' first
    | (with_reducible first | exact .pure _ | exact .getS | refine .bind ?_ fun _ => ?_ | refine .ite ?_ ?_)
    | ((with_reducible refine allocLine_reach ?_ _ _); exact .trans rfl hw)
    | with_reducible intro _
    | split

theorem countRefused_reach {msk : Nat} (hw : Within 0x800 msk) (p : Nat) :
    M.All (Upd.In msk) (countRefused p) := by
  unfold countRefused
  repeat' first
    | (with_reducible first | exact .pure _ | exact .getS | refine .bind ?_ fun _ => ?_ | refine .ite ?_ ?_)
    | ((with_reducible refine .update ?_); exact .of hw rfl)
    | with_reducible intro _
    | split

theorem admit_reach {msk : Nat} (hw : Within 0x981 msk) (who a : Nat) (isWrite : Bool) :
    M.All (Upd.In msk) (admitAccess who a isWrite) := by
  unfold admitAccess
  repeat' first
    | (with_reducible first | exact .pure _ | exact .getS | refine .bind ?_ fun _ => ?_ | refine .ite ?_ ?_)
    | ((with_reducible refine decodeError_reach ?_ _ _ _); exact .trans rfl hw)
    | ((with_reducible refine countRefused_reach ?_ _); exact .trans rfl hw)
    | with_reducible intro _
    | split

theorem eccCorrected_reach {msk : Nat} (hw : Within 0x189 msk) (w : Nat) :
    M.All (Upd.In msk) (eccCorrected w) := by
  unfold eccCorrected
  repeat' first
    | (with_reducible first | exact .pure _ | exact .getS | refine .bind ?_ fun _ => ?_ | refine .ite ?_ ?_)
    | ((with_reducible refine .update ?_); exact .of hw rfl)
    | ((with_reducible refine bump_reach ?_ _ _ _); exact .trans rfl hw)
    | ((with_reducible refine raise_reach ?_ _ _ _ _); exact .trans rfl hw)
    | ((with_reducible refine wrFld_reach ?_ _ _ _); exact .trans rfl hw)
    | with_reducible intro _
    | split

theorem physRead_reach {msk : Nat} (hw : Within 0xBA9 msk) (who a n : Nat) :
    M.All (Upd.In msk) (physRead who a n) := by
  unfold physRead
  repeat' first
    | fail_if_no_progress beta_reduce
    | (extract_lets +onlyGivenNames jp
       first
       | (refine (fun hj : ∀ x, M.All (Upd.In msk) (jp x) => ?_) (fun x => ?_)
          on_goal 2 => (dsimp -zeta only [jp]; clear jp)
          on_goal 1 => clear_value jp)
       | clear_value jp)
    | (with_reducible first | exact .pure _ | exact .getS | refine .bind ?_ fun _ => ?_ | refine .ite ?_ ?_ | refine .forIn _ _ _ fun _ _ => ?_)
    | ((with_reducible refine .update ?_); exact .of hw rfl)
    | ((with_reducible refine meter_reach ?_ _ _ _ _); exact .trans rfl hw)
    | ((with_reducible refine eccFailed_reach ?_ _ _ _); exact .trans rfl hw)
    | ((with_reducible refine touchLine_reach ?_ _ _); exact .trans rfl hw)
    | ((with_reducible refine admit_reach ?_ _ _ _); exact .trans rfl hw)
    | ((with_reducible refine eccCorrected_reach ?_ _); exact .trans rfl hw)
    | with_reducible apply_assumption -exfalso -symm
    | with_reducible intro _
    | split

theorem translate_reach {msk : Nat} (hw : Within 0xBA9 msk) (who h va : Nat) (isWrite : Bool) :
    M.All (Upd.In msk) (translate who h va isWrite) := by
  unfold translate
  repeat' first
    | fail_if_no_progress beta_reduce
    | (extract_lets +onlyGivenNames jp
       first
       | (refine (fun hj : ∀ x, M.All (Upd.In msk) (jp x) => ?_) (fun x => ?_)
          on_goal 2 => (dsimp -zeta only [jp]; clear jp)
          on_goal 1 => clear_value jp)
       | (refine (fun hj : ∀ x y, M.All (Upd.In msk) (jp x y) => ?_) (fun x y => ?_)
          on_goal 2 => (dsimp -zeta only [jp]; clear jp)
          on_goal 1 => clear_value jp)
       | clear_value jp)
    | (with_reducible first | exact .pure _ | exact .getS | refine .bind ?_ fun _ => ?_ | refine .ite ?_ ?_)
    | ((with_reducible refine .update ?_); exact .of hw rfl)
    | ((with_reducible refine translationFault_reach ?_ _ _ _ _ _); exact .trans rfl hw)
    | ((with_reducible refine countLate_reach ?_); exact .trans rfl hw)
    | ((with_reducible refine decodeError_reach ?_ _ _ _); exact .trans rfl hw)
    | ((with_reducible refine physRead_reach ?_ _ _ _); exact .trans rfl hw)
    | with_reducible apply_assumption -exfalso -symm
    | with_reducible intro _
    | split

theorem physWrite_reach {msk : Nat} (hw : Within 0xB89 msk) (who a : Nat) (bs : List Byte) :
    M.All (Upd.In msk) (physWrite who a bs) := by
  unfold physWrite
  repeat' first
    | (with_reducible first | exact .pure _ | exact .getS | refine .bind ?_ fun _ => ?_ | refine .ite ?_ ?_ | refine .forIn _ _ _ fun _ _ => ?_)
    | ((with_reducible refine .update ?_); exact .of hw rfl)
    | ((with_reducible refine meter_reach ?_ _ _ _ _); exact .trans rfl hw)
    | ((with_reducible refine eccFailed_reach ?_ _ _ _); exact .trans rfl hw)
    | ((with_reducible refine admit_reach ?_ _ _ _); exact .trans rfl hw)
    | ((with_reducible refine storeLine_reach ?_ _ _ _); exact .trans rfl hw)
    | with_reducible intro _
    | split

theorem ctxWrite_reach {msk : Nat} (hw : Within 0xBA9 msk) (who h va : Nat) (bs : List Byte) :
    M.All (Upd.In msk) (ctxWrite who h va bs) := by
  unfold ctxWrite
  repeat' first
    | (with_reducible first | exact .pure _ | exact .getS | refine .bind ?_ fun _ => ?_ | refine .ite ?_ ?_ | refine .forIn _ _ _ fun _ _ => ?_)
    | ((with_reducible refine translate_reach ?_ _ _ _ _); exact .trans rfl hw)
    | ((with_reducible refine physWrite_reach ?_ _ _ _); exact .trans rfl hw)
    | ((with_reducible refine modCtx_reach ?_ _ _); exact .trans rfl hw)
    | with_reducible intro _
    | split

theorem physReadAll_reach {msk : Nat} (hw : Within 0xBA9 msk) (who a n : Nat) :
    M.All (Upd.In msk) (physReadAll who a n) := by
  unfold physReadAll
  repeat' first
    | fail_if_no_progress beta_reduce
    | (extract_lets +onlyGivenNames jp
       first
       | (refine (fun hj : ∀ x, M.All (Upd.In msk) (jp x) => ?_) (fun x => ?_)
          on_goal 2 => (dsimp -zeta only [jp]; clear jp)
          on_goal 1 => clear_value jp)
       | clear_value jp)
    | (with_reducible first | exact .pure _ | exact .getS | refine .bind ?_ fun _ => ?_ | refine .ite ?_ ?_ | refine .forIn _ _ _ fun _ _ => ?_)
    | ((with_reducible refine physRead_reach ?_ _ _ _); exact .trans rfl hw)
    | with_reducible apply_assumption -exfalso -symm
    | with_reducible intro _
    | split

theorem readMember_reach {msk : Nat} (hw : Within 0xBA9 msk) (j r : Nat) :
    M.All (Upd.In msk) (readMember j r) := by
  unfold readMember
  repeat' first
    | (with_reducible first | exact .pure _ | exact .getS | refine .bind ?_ fun _ => ?_ | refine .ite ?_ ?_)
    | ((with_reducible refine physReadAll_reach ?_ _ _ _); exact .trans rfl hw)
    | with_reducible intro _
    | split

theorem modQp_reach {msk : Nat} (hw : Within 0x8000 msk) (i : Nat) (f : Qp → Qp) :
    M.All (Upd.In msk) (modQp i f) := by
  unfold modQp
  repeat' first
    | (with_reducible first | exact .pure _ | exact .getS | refine .bind ?_ fun _ => ?_ | refine .ite ?_ ?_)
    | ((with_reducible refine .update ?_); exact .of hw rfl)
    | with_reducible intro _
    | split

theorem openQp_reach {msk : Nat} (hw : Within 0x8BA9 msk) (j r : Nat) :
    M.All (Upd.In msk) (openQp j r) := by
  unfold openQp
  repeat' first
    | (with_reducible first | exact .pure _ | exact .getS | refine .bind ?_ fun _ => ?_ | refine .ite ?_ ?_)
    | ((with_reducible refine readMember_reach ?_ _ _); exact .trans rfl hw)
    | ((with_reducible refine modQp_reach ?_ _ _); exact .trans rfl hw)
    | with_reducible intro _
    | split

theorem sendPacket_reach {msk : Nat} (hw : Within 0x2000 msk) (peer op psn : Nat) (ext payload : List Byte) :
    M.All (Upd.In msk) (sendPacket peer op psn ext payload) := by
  unfold sendPacket
  repeat' first
    | (with_reducible first | exact .pure _ | exact .getS | refine .bind ?_ fun _ => ?_ | refine .ite ?_ ?_)
    | ((with_reducible refine .update ?_); exact .of hw rfl)
    | with_reducible intro _
    | split

theorem sendOut_reach {msk : Nat} (hw : Within 0x2000 msk) (i : Nat) (p : OutPkt) :
    M.All (Upd.In msk) (sendOut i p) := by
  unfold sendOut
  repeat' first
    | (with_reducible first | exact .pure _ | exact .getS | refine .bind ?_ fun _ => ?_ | refine .ite ?_ ?_)
    | ((with_reducible refine sendPacket_reach ?_ _ _ _ _ _); exact .trans rfl hw)
    | with_reducible intro _
    | split

theorem postPacket_reach {msk : Nat} (hw : Within 0xA000 msk) (i : Nat) (p : OutPkt) (psns : Nat) :
    M.All (Upd.In msk) (postPacket i p psns) := by
  unfold postPacket
  repeat' first
    | (with_reducible first | exact .pure _ | exact .getS | refine .bind ?_ fun _ => ?_ | refine .ite ?_ ?_)
    | ((with_reducible refine modQp_reach ?_ _ _); exact .trans rfl hw)
    | ((with_reducible refine sendOut_reach ?_ _ _); exact .trans rfl hw)
    | with_reducible intro _
    | split

theorem postMsg_reach {msk : Nat} (hw : Within 0xA000 msk) (i : Nat) (write : Option (Nat × Nat)) (msg : List Byte) (task : Option Nat) (entry : Option (Nat × Nat)) :
    M.All (Upd.In msk) (postMsg i write msg task entry) := by
  unfold postMsg
  repeat' first
    | (with_reducible first | exact .pure _ | exact .getS | refine .bind ?_ fun _ => ?_ | refine .ite ?_ ?_ | refine .forIn _ _ _ fun _ _ => ?_)
    | ((with_reducible refine postPacket_reach ?_ _ _ _); exact .trans rfl hw)
    | with_reducible intro _
    | split

theorem mirrorPost_reach {msk : Nat} (hw : Within 0xABA9 msk) (j r off : Nat) (bytes : List Byte) (entry : Option (Nat × Nat)) :
    M.All (Upd.In msk) (mirrorPost j r off bytes entry) := by
  unfold mirrorPost
  repeat' first
    | (with_reducible first | exact .pure _ | exact .getS | refine .bind ?_ fun _ => ?_ | refine .ite ?_ ?_)
    | ((with_reducible refine readMember_reach ?_ _ _); exact .trans rfl hw)
    | ((with_reducible refine openQp_reach ?_ _ _); exact .trans rfl hw)
    | ((with_reducible refine postMsg_reach ?_ _ _ _ _ _); exact .trans rfl hw)
    | with_reducible intro _
    | split

theorem forwardEntry_reach {msk : Nat} (hw : Within 0xABA9 msk) (q seq oseq oqueue oslot index : Nat) (payload : List Byte) :
    M.All (Upd.In msk) (forwardEntry q seq oseq oqueue oslot index payload) := by
  unfold forwardEntry
  repeat' first
    | (with_reducible first | exact .pure _ | exact .getS | refine .bind ?_ fun _ => ?_ | refine .ite ?_ ?_)
    | ((with_reducible refine openQp_reach ?_ _ _); exact .trans rfl hw)
    | ((with_reducible refine postMsg_reach ?_ _ _ _ _ _); exact .trans rfl hw)
    | ((with_reducible refine modQp_reach ?_ _ _); exact .trans rfl hw)
    | with_reducible intro _
    | split

theorem writeLedger_reach {msk : Nat} (hw : Within 0xABA9 msk) (q seq ty crc producer status : Nat) (key : OriginKey) (a0 a1 : Nat) :
    M.All (Upd.In msk) (writeLedger q seq ty crc producer status key a0 a1) := by
  unfold writeLedger
  repeat' first
    | (with_reducible first | exact .pure _ | exact .getS | refine .bind ?_ fun _ => ?_ | refine .ite ?_ ?_ | refine .forIn _ _ _ fun _ _ => ?_)
    | ((with_reducible refine modTally_reach ?_ _); exact .trans rfl hw)
    | ((with_reducible refine modQueue_reach ?_ _ _); exact .trans rfl hw)
    | ((with_reducible refine raise_reach ?_ _ _ _ _); exact .trans rfl hw)
    | ((with_reducible refine mirrorPost_reach ?_ _ _ _ _ _); exact .trans rfl hw)
    | with_reducible intro _
    | split

theorem acceptEntry_reach {msk : Nat} (hw : Within 0xABA9 msk) (q ty : Nat) (payload : List Byte) (producer : Nat) (safety : Bool) (bound : Option (Nat × Nat)) (key : OriginKey) (gate : Option Nat) (form : List Byte → List Byte) :
    M.All (Upd.In msk) (acceptEntry q ty payload producer safety bound key gate form) := by
  unfold acceptEntry
  repeat' first
    | (with_reducible first | exact .pure _ | exact .getS | refine .bind ?_ fun _ => ?_ | refine .ite ?_ ?_)
    | ((with_reducible refine msixFor_reach ?_ _); exact .trans rfl hw)
    | ((with_reducible refine ctxWrite_reach ?_ _ _ _ _); exact .trans rfl hw)
    | ((with_reducible refine physWrite_reach ?_ _ _ _); exact .trans rfl hw)
    | ((with_reducible refine mirrorPost_reach ?_ _ _ _ _ _); exact .trans rfl hw)
    | ((with_reducible refine forwardEntry_reach ?_ _ _ _ _ _ _ _); exact .trans rfl hw)
    | ((with_reducible refine modQueue_reach ?_ _ _); exact .trans rfl hw)
    | ((with_reducible refine writeLedger_reach ?_ _ _ _ _ _ _ _ _ _); exact .trans rfl hw)
    | with_reducible intro _
    | split

theorem appendEntry_reach {msk : Nat} (hw : Within 0xABA9 msk) (q ty : Nat) (payload : List Byte) (producer : Nat) (safety : Bool) (bound : Option (Nat × Nat)) (by_ : Option Task) (key : OriginKey) :
    M.All (Upd.In msk) (appendEntry q ty payload producer safety bound by_ key) := by
  unfold appendEntry
  repeat' first
    | fail_if_no_progress beta_reduce
    | (extract_lets +onlyGivenNames jp
       first
       | (refine (fun hj : ∀ x, M.All (Upd.In msk) (jp x) => ?_) (fun x => ?_)
          on_goal 2 => (dsimp -zeta only [jp]; clear jp)
          on_goal 1 => clear_value jp)
       | clear_value jp)
    | (with_reducible first | exact .pure _ | exact .getS | refine .bind ?_ fun _ => ?_ | refine .ite ?_ ?_)
    | ((with_reducible refine acceptEntry_reach ?_ _ _ _ _ _ _ _ _ _); exact .trans rfl hw)
    | with_reducible apply_assumption -exfalso -symm
    | with_reducible intro _
    | split

theorem flushLost_reach {msk : Nat} (hw : Within 0xABA9 msk) (q : Nat) :
    M.All (Upd.In msk) (flushLost q) := by
  unfold flushLost
  repeat' first
    | (with_reducible first | exact .pure _ | exact .getS | refine .bind ?_ fun _ => ?_ | refine .ite ?_ ?_)
    | ((with_reducible refine modQueue_reach ?_ _ _); exact .trans rfl hw)
    | ((with_reducible refine appendEntry_reach ?_ _ _ _ _ _ _ _ _); exact .trans rfl hw)
    | with_reducible intro _
    | split

theorem leaveEntry_reach {msk : Nat} (hw : Within 0xABA9 msk) (q seq : Nat) :
    M.All (Upd.In msk) (leaveEntry q seq) := by
  unfold leaveEntry
  repeat' first
    | (with_reducible first | exact .pure _ | exact .getS | refine .bind ?_ fun _ => ?_ | refine .ite ?_ ?_)
    | ((with_reducible refine modQueue_reach ?_ _ _); exact .trans rfl hw)
    | ((with_reducible refine flushLost_reach ?_ _); exact .trans rfl hw)
    | ((with_reducible refine writeLedger_reach ?_ _ _ _ _ _ _ _ _ _); exact .trans rfl hw)
    | with_reducible intro _
    | split

theorem noteStep_reach {msk : Nat} (hw : Within 0x8000 msk) (t : Nat) (k : Task) (ok staged : Bool) :
    M.All (Upd.In msk) (noteStep t k ok staged) := by
  unfold noteStep
  repeat' first
    | (with_reducible first | exact .pure _ | exact .getS | refine .bind ?_ fun _ => ?_ | refine .ite ?_ ?_)
    | ((with_reducible refine .update ?_); exact .of hw rfl)
    | ((with_reducible refine modJob_reach ?_ _ _); exact .trans rfl hw)
    | with_reducible intro _
    | split

theorem modRing_reach {msk : Nat} (hw : Within 0x100 msk) (key : Nat) (f : Ring → Ring) :
    M.All (Upd.In msk) (modRing key f) := by
  unfold modRing
  repeat' first
    | (with_reducible first | exact .pure _ | exact .getS | refine .bind ?_ fun _ => ?_ | refine .ite ?_ ?_)
    | ((with_reducible refine modTally_reach ?_ _); exact .trans rfl hw)
    | with_reducible intro _
    | split

theorem modFlag_reach {msk : Nat} (hw : Within 0x1000 msk) (f : Nat) (g : HallFlag → HallFlag) :
    M.All (Upd.In msk) (modFlag f g) := by
  unfold modFlag
  repeat' first
    | (with_reducible first | exact .pure _ | exact .getS | refine .bind ?_ fun _ => ?_ | refine .ite ?_ ?_)
    | ((with_reducible refine .update ?_); exact .of hw rfl)
    | with_reducible intro _
    | split

theorem settleCredit_reach {msk : Nat} (hw : Within 0x1100 msk) (key : Nat) :
    M.All (Upd.In msk) (settleCredit key) := by
  unfold settleCredit
  repeat' first
    | (with_reducible first | exact .pure _ | exact .getS | refine .bind ?_ fun _ => ?_ | refine .ite ?_ ?_)
    | ((with_reducible refine modRing_reach ?_ _ _); exact .trans rfl hw)
    | ((with_reducible refine modFlag_reach ?_ _ _); exact .trans rfl hw)
    | with_reducible intro _
    | split

theorem endRings_reach {msk : Nat} (hw : Within 0x1100 msk) (t : Nat) (ok : Bool) :
    M.All (Upd.In msk) (endRings t ok) := by
  unfold endRings
  repeat' first
    | (with_reducible first | exact .pure _ | exact .getS | refine .bind ?_ fun _ => ?_ | refine .ite ?_ ?_ | refine .forIn _ _ _ fun _ _ => ?_)
    | ((with_reducible refine settleCredit_reach ?_ _); exact .trans rfl hw)
    | ((with_reducible refine modRing_reach ?_ _ _); exact .trans rfl hw)
    | with_reducible intro _
    | split

theorem dropEvent_reach {msk : Nat} (hw : Within 0x181 msk) (q why : Nat) :
    M.All (Upd.In msk) (dropEvent q why) := by
  unfold dropEvent
  repeat' first
    | (with_reducible first | exact .pure _ | exact .getS | refine .bind ?_ fun _ => ?_ | refine .ite ?_ ?_)
    | ((with_reducible refine modQueue_reach ?_ _ _); exact .trans rfl hw)
    | ((with_reducible refine raise_reach ?_ _ _ _ _); exact .trans rfl hw)
    | with_reducible intro _
    | split

theorem deviceAppend_reach {msk : Nat} (hw : Within 0xABA9 msk) (q ty : Nat) (payload : List Byte) (producer : Nat) (safety : Bool) :
    M.All (Upd.In msk) (deviceAppend q ty payload producer safety) := by
  unfold deviceAppend
  repeat' first
    | (with_reducible first | exact .pure _ | exact .getS | refine .bind ?_ fun _ => ?_ | refine .ite ?_ ?_)
    | ((with_reducible refine dropEvent_reach ?_ _ _); exact .trans rfl hw)
    | ((with_reducible refine modQueue_reach ?_ _ _); exact .trans rfl hw)
    | ((with_reducible refine appendEntry_reach ?_ _ _ _ _ _ _ _ _); exact .trans rfl hw)
    | with_reducible intro _
    | split

theorem deliverCompletion_reach {msk : Nat} (hw : Within 0xABA9 msk) (h who : Nat) (record : List Byte) (cpl : Nat) (notify : Option Nat) :
    M.All (Upd.In msk) (deliverCompletion h who record cpl notify) := by
  unfold deliverCompletion
  repeat' first
    | (with_reducible first | exact .pure _ | exact .getS | refine .bind ?_ fun _ => ?_ | refine .ite ?_ ?_)
    | ((with_reducible refine deviceAppend_reach ?_ _ _ _ _ _); exact .trans rfl hw)
    | ((with_reducible refine ctxWrite_reach ?_ _ _ _ _); exact .trans rfl hw)
    | with_reducible intro _
    | split

theorem freeBoard_reach {msk : Nat} (hw : Within 0x100 msk) :
    M.All (Upd.In msk) (freeBoard) := by
  unfold freeBoard
  repeat' first
    | (with_reducible first | exact .pure _ | exact .getS | refine .bind ?_ fun _ => ?_ | refine .ite ?_ ?_)
    | ((with_reducible refine modTally_reach ?_ _); exact .trans rfl hw)
    | with_reducible intro _
    | split

theorem unlist_reach {msk : Nat} (hw : Within 0x100 msk) (t : Nat) :
    M.All (Upd.In msk) (unlist t) := by
  unfold unlist
  repeat' first
    | (with_reducible first | exact .pure _ | exact .getS | refine .bind ?_ fun _ => ?_ | refine .ite ?_ ?_)
    | ((with_reducible refine modTally_reach ?_ _); exact .trans rfl hw)
    | with_reducible intro _
    | split

theorem forget_reach {msk : Nat} (hw : Within 0x1300 msk) (t : Nat) :
    M.All (Upd.In msk) (forget t) := by
  unfold forget
  repeat' first
    | (with_reducible first | exact .pure _ | exact .getS | refine .bind ?_ fun _ => ?_ | refine .ite ?_ ?_ | refine .forIn _ _ _ fun _ _ => ?_)
    | ((with_reducible refine .update ?_); exact .of hw rfl)
    | ((with_reducible refine freeBoard_reach ?_); exact .trans rfl hw)
    | ((with_reducible refine modEngine_reach ?_ _ _); exact .trans rfl hw)
    | ((with_reducible refine modTally_reach ?_ _); exact .trans rfl hw)
    | ((with_reducible refine unlist_reach ?_ _); exact .trans rfl hw)
    | with_reducible intro _
    | split

theorem modPipe_reach {msk : Nat} (hw : Within 0x100000 msk) (p : Nat) (f : Pipe → Pipe) :
    M.All (Upd.In msk) (modPipe p f) := by
  unfold modPipe
  repeat' first
    | (with_reducible first | exact .pure _ | exact .getS | refine .bind ?_ fun _ => ?_ | refine .ite ?_ ?_)
    | ((with_reducible refine .update ?_); exact .of hw rfl)
    | with_reducible intro _
    | split

theorem drivePins_reach {msk : Nat} (hw : Within 0x4000 msk) :
    M.All (Upd.In msk) (drivePins) := by
  unfold drivePins
  repeat' first
    | (with_reducible first | exact .pure _ | exact .getS | refine .bind ?_ fun _ => ?_ | refine .ite ?_ ?_)
    | ((with_reducible refine .update ?_); exact .of hw rfl)
    | with_reducible intro _
    | split

theorem enterSafe_reach {msk : Nat} (hw : Within 0x104189 msk) (p reason num earlier : Nat) :
    M.All (Upd.In msk) (enterSafe p reason num earlier) := by
  unfold enterSafe
  repeat' first
    | (with_reducible first | exact .pure _ | exact .getS | refine .bind ?_ fun _ => ?_ | refine .ite ?_ ?_)
    | ((with_reducible refine modPipe_reach ?_ _ _); exact .trans rfl hw)
    | ((with_reducible refine raise_reach ?_ _ _ _ _); exact .trans rfl hw)
    | ((with_reducible refine drivePins_reach ?_); exact .trans rfl hw)
    | ((with_reducible refine wrFld_reach ?_ _ _ _); exact .trans rfl hw)
    | with_reducible intro _
    | split

theorem pipeFault_reach {msk : Nat} (hw : Within 0x104189 msk) (p num kind producer checker index crc : Nat) :
    M.All (Upd.In msk) (pipeFault p num kind producer checker index crc) := by
  unfold pipeFault
  repeat' first
    | fail_if_no_progress beta_reduce
    | (extract_lets +onlyGivenNames jp
       first
       | (refine (fun hj : ∀ x, M.All (Upd.In msk) (jp x) => ?_) (fun x => ?_)
          on_goal 2 => (dsimp -zeta only [jp]; clear jp)
          on_goal 1 => clear_value jp)
       | clear_value jp)
    | (with_reducible first | exact .pure _ | exact .getS | refine .bind ?_ fun _ => ?_ | refine .ite ?_ ?_)
    | ((with_reducible refine modPipe_reach ?_ _ _); exact .trans rfl hw)
    | ((with_reducible refine bump_reach ?_ _ _ _); exact .trans rfl hw)
    | ((with_reducible refine enterSafe_reach ?_ _ _ _ _); exact .trans rfl hw)
    | ((with_reducible refine raise_reach ?_ _ _ _ _); exact .trans rfl hw)
    | ((with_reducible refine wrFld_reach ?_ _ _ _); exact .trans rfl hw)
    | with_reducible apply_assumption -exfalso -symm
    | with_reducible intro _
    | split

theorem modCairn_reach {msk : Nat} (hw : Within 0x100000 msk) (c : Nat) (f : Cairn → Cairn) :
    M.All (Upd.In msk) (modCairn c f) := by
  unfold modCairn
  repeat' first
    | (with_reducible first | exact .pure _ | exact .getS | refine .bind ?_ fun _ => ?_ | refine .ite ?_ ?_)
    | ((with_reducible refine .update ?_); exact .of hw rfl)
    | with_reducible intro _
    | split

theorem modBelay_reach {msk : Nat} (hw : Within 0x100000 msk) (w : Nat) (f : Belay → Belay) :
    M.All (Upd.In msk) (modBelay w f) := by
  unfold modBelay
  repeat' first
    | (with_reducible first | exact .pure _ | exact .getS | refine .bind ?_ fun _ => ?_ | refine .ite ?_ ?_)
    | ((with_reducible refine .update ?_); exact .of hw rfl)
    | with_reducible intro _
    | split

theorem safeEnded_reach {msk : Nat} (hw : Within 0x104389 msk) (k : Task) (g j n id : Nat) (ok last : Bool) :
    M.All (Upd.In msk) (safeEnded k g j n id ok last) := by
  unfold safeEnded
  repeat' first
    | (with_reducible first | exact .pure _ | exact .getS | refine .bind ?_ fun _ => ?_ | refine .ite ?_ ?_ | refine .forIn _ _ _ fun _ _ => ?_)
    | ((with_reducible refine .update ?_); exact .of hw rfl)
    | ((with_reducible refine pipeFault_reach ?_ _ _ _ _ _ _ _); exact .trans rfl hw)
    | ((with_reducible refine modCairn_reach ?_ _ _); exact .trans rfl hw)
    | ((with_reducible refine modBelay_reach ?_ _ _); exact .trans rfl hw)
    | with_reducible intro _
    | split

theorem offerCtx_reach {msk : Nat} (hw : Within 0xABA9 msk) (h : Nat) (e : EventRec) :
    M.All (Upd.In msk) (offerCtx h e) := by
  unfold offerCtx
  repeat' first
    | (with_reducible first | exact .pure _ | exact .getS | refine .bind ?_ fun _ => ?_ | refine .ite ?_ ?_)
    | ((with_reducible refine modQueue_reach ?_ _ _); exact .trans rfl hw)
    | ((with_reducible refine appendEntry_reach ?_ _ _ _ _ _ _ _ _); exact .trans rfl hw)
    | with_reducible intro _
    | split

theorem raiseFor_reach {msk : Nat} (hw : Within 0xABA9 msk) (t src part code : Nat) (detail : List Byte) :
    M.All (Upd.In msk) (raiseFor t src part code detail) := by
  unfold raiseFor
  repeat' first
    | (with_reducible first | exact .pure _ | exact .getS | refine .bind ?_ fun _ => ?_ | refine .ite ?_ ?_)
    | ((with_reducible refine offerCtx_reach ?_ _ _); exact .trans rfl hw)
    | ((with_reducible refine raise_reach ?_ _ _ _ _); exact .trans rfl hw)
    | ((with_reducible refine modTask_reach ?_ _ _); exact .trans rfl hw)
    | with_reducible intro _
    | split

theorem endTask_reach {msk : Nat} (hw : Within 0x10FBA9 msk) (t status : Nat) :
    M.All (Upd.In msk) (endTask t status) := by
  unfold endTask
  repeat' first
    | (with_reducible first | exact .pure _ | exact .getS | refine .bind ?_ fun _ => ?_ | refine .ite ?_ ?_ | refine .forIn _ _ _ fun _ _ => ?_)
    | ((with_reducible refine prevTokens_reach ?_ _); exact .trans rfl hw)
    | ((with_reducible refine modTally_reach ?_ _); exact .trans rfl hw)
    | ((with_reducible refine modCtx_reach ?_ _ _); exact .trans rfl hw)
    | ((with_reducible refine settleJobs_reach ?_ _); exact .trans rfl hw)
    | ((with_reducible refine raise_reach ?_ _ _ _ _); exact .trans rfl hw)
    | ((with_reducible refine leaveEntry_reach ?_ _ _); exact .trans rfl hw)
    | ((with_reducible refine noteStep_reach ?_ _ _ _ _); exact .trans rfl hw)
    | ((with_reducible refine endRings_reach ?_ _ _); exact .trans rfl hw)
    | ((with_reducible refine deliverCompletion_reach ?_ _ _ _ _ _); exact .trans rfl hw)
    | ((with_reducible refine forget_reach ?_ _); exact .trans rfl hw)
    | ((with_reducible refine safeEnded_reach ?_ _ _ _ _ _ _ _); exact .trans rfl hw)
    | ((with_reducible refine raiseFor_reach ?_ _ _ _ _ _); exact .trans rfl hw)
    | ((with_reducible refine writeLedger_reach ?_ _ _ _ _ _ _ _ _ _); exact .trans rfl hw)
    | with_reducible intro _
    | split

theorem enlist_reach {msk : Nat} (hw : Within 0x100 msk) (t : Nat) (atHead : Bool) :
    M.All (Upd.In msk) (enlist t atHead) := by
  unfold enlist
  repeat' first
    | (with_reducible first | exact .pure _ | exact .getS | refine .bind ?_ fun _ => ?_ | refine .ite ?_ ?_)
    | ((with_reducible refine modTally_reach ?_ _); exact .trans rfl hw)
    | ((with_reducible refine modTask_reach ?_ _ _); exact .trans rfl hw)
    | with_reducible intro _
    | split

theorem tryPreempt_reach {msk : Nat} (hw : Within 0x300 msk) (t : Nat) :
    M.All (Upd.In msk) (tryPreempt t) := by
  unfold tryPreempt
  repeat' first
    | (with_reducible first | exact .pure _ | exact .getS | refine .bind ?_ fun _ => ?_ | refine .ite ?_ ?_)
    | ((with_reducible refine enlist_reach ?_ _ _); exact .trans rfl hw)
    | ((with_reducible refine modEngine_reach ?_ _ _); exact .trans rfl hw)
    | ((with_reducible refine unlist_reach ?_ _); exact .trans rfl hw)
    | ((with_reducible refine modTask_reach ?_ _ _); exact .trans rfl hw)
    | with_reducible intro _
    | split

theorem endLost_reach {msk : Nat} (hw : Within 0x10FBA9 msk) (t : Nat) (k : Task) (j r reason : Nat) :
    M.All (Upd.In msk) (endLost t k j r reason) := by
  unfold endLost
  repeat' first
    | (with_reducible first | exact .pure _ | exact .getS | refine .bind ?_ fun _ => ?_ | refine .ite ?_ ?_)
    | ((with_reducible refine endTask_reach ?_ _ _); exact .trans rfl hw)
    | ((with_reducible refine raiseFor_reach ?_ _ _ _ _ _); exact .trans rfl hw)
    | with_reducible intro _
    | split

theorem makeReady_reach {msk : Nat} (hw : Within 0x10FBA9 msk) (t : Nat) :
    M.All (Upd.In msk) (makeReady t) := by
  unfold makeReady
  repeat' first
    | (with_reducible first | exact .pure _ | exact .getS | refine .bind ?_ fun _ => ?_ | refine .ite ?_ ?_)
    | ((with_reducible refine endTask_reach ?_ _ _); exact .trans rfl hw)
    | ((with_reducible refine enlist_reach ?_ _ _); exact .trans rfl hw)
    | ((with_reducible refine modTask_reach ?_ _ _); exact .trans rfl hw)
    | ((with_reducible refine tryPreempt_reach ?_ _); exact .trans rfl hw)
    | ((with_reducible refine endLost_reach ?_ _ _ _ _ _); exact .trans rfl hw)
    | ((with_reducible refine raiseFor_reach ?_ _ _ _ _ _); exact .trans rfl hw)
    | with_reducible intro _
    | split

theorem satisfy_reach {msk : Nat} (hw : Within 0x10FBA9 msk) (t sl : Nat) (failed : Bool) :
    M.All (Upd.In msk) (satisfy t sl failed) := by
  unfold satisfy
  repeat' first
    | (with_reducible first | exact .pure _ | exact .getS | refine .bind ?_ fun _ => ?_ | refine .ite ?_ ?_)
    | ((with_reducible refine makeReady_reach ?_ _); exact .trans rfl hw)
    | ((with_reducible refine modTask_reach ?_ _ _); exact .trans rfl hw)
    | with_reducible intro _
    | split

theorem onToken_reach {msk : Nat} (hw : Within 0x10FBA9 msk) (key : Nat) (failed : Bool) :
    M.All (Upd.In msk) (onToken key failed) := by
  unfold onToken
  repeat' first
    | fail_if_no_progress beta_reduce
    | (extract_lets +onlyGivenNames jp
       first
       | (refine (fun hj : M.All (Upd.In msk) jp => ?_) ?_
          on_goal 2 => (dsimp -zeta only [jp]; clear jp)
          on_goal 1 => clear_value jp)
       | (refine (fun hj : ∀ x, M.All (Upd.In msk) (jp x) => ?_) (fun x => ?_)
          on_goal 2 => (dsimp -zeta only [jp]; clear jp)
          on_goal 1 => clear_value jp)
       | clear_value jp)
    | (with_reducible first | exact .pure _ | exact .getS | refine .bind ?_ fun _ => ?_ | refine .ite ?_ ?_)
    | ((with_reducible refine modTally_reach ?_ _); exact .trans rfl hw)
    | ((with_reducible refine raise_reach ?_ _ _ _ _); exact .trans rfl hw)
    | ((with_reducible refine satisfy_reach ?_ _ _ _); exact .trans rfl hw)
    | with_reducible apply_assumption -exfalso -symm
    | with_reducible intro _
    | split

theorem bindOne_reach {msk : Nat} (hw : Within 0x100 msk) (q : Nat) :
    M.All (Upd.In msk) (bindOne q) := by
  unfold bindOne
  repeat' first
    | (with_reducible first | exact .pure _ | exact .getS | refine .bind ?_ fun _ => ?_ | refine .ite ?_ ?_)
    | ((with_reducible refine modQueue_reach ?_ _ _); exact .trans rfl hw)
    | ((with_reducible refine modTask_reach ?_ _ _); exact .trans rfl hw)
    | with_reducible intro _
    | split

theorem doWork_reach {msk : Nat} (hw : Within 0x10FBA9 msk) : ∀ (z0 : Work),
    M.All (Upd.In msk) (doWork z0) := by
  intros
  unfold doWork
  repeat' first
    | (with_reducible first | exact .pure _ | exact .getS | refine .bind ?_ fun _ => ?_ | refine .ite ?_ ?_)
    | ((with_reducible refine onToken_reach ?_ _ _); exact .trans rfl hw)
    | ((with_reducible refine satisfy_reach ?_ _ _ _); exact .trans rfl hw)
    | ((with_reducible refine bindOne_reach ?_ _); exact .trans rfl hw)
    | with_reducible intro _
    | split

theorem settle_reach {msk : Nat} (hw : Within 0x10FBA9 msk) : ∀ (z0 : Nat) (z1 : List Work),
    M.All (Upd.In msk) (settle z0 z1) := by
  intro z0
  induction z0 with
  | zero => intro _; unfold settle; exact .pure _
  | succ n ih =>
    rintro (_ | ⟨w, ws⟩)
    · exact .pure _
    · exact .bind (doWork_reach (.trans rfl hw) _) fun _ => ih _

theorem freshBytes_reach {msk : Nat} (hw : Within 0x20 msk) (n : Nat) :
    M.All (Upd.In msk) (freshBytes n) := by
  unfold freshBytes
  repeat' first
    | (with_reducible first | exact .pure _ | exact .getS | refine .bind ?_ fun _ => ?_ | refine .ite ?_ ?_)
    | ((with_reducible refine .update ?_); exact .of hw rfl)
    | with_reducible intro _
    | split

theorem setStaging_reach {msk : Nat} (hw : Within 0x229 msk) (n v : Nat) :
    M.All (Upd.In msk) (setStaging n v) := by
  unfold setStaging
  repeat' first
    | (with_reducible first | exact .pure _ | exact .getS | refine .bind ?_ fun _ => ?_ | refine .ite ?_ ?_)
    | ((with_reducible refine .update ?_); exact .of hw rfl)
    | ((with_reducible refine freshBytes_reach ?_ _); exact .trans rfl hw)
    | ((with_reducible refine modEngine_reach ?_ _ _); exact .trans rfl hw)
    | ((with_reducible refine wrFld_reach ?_ _ _ _); exact .trans rfl hw)
    | with_reducible intro _
    | split

theorem applyStaging_reach {msk : Nat} (hw : Within 0x229 msk) :
    M.All (Upd.In msk) (applyStaging) := by
  unfold applyStaging
  repeat' first
    | (with_reducible first | exact .pure _ | exact .getS | refine .bind ?_ fun _ => ?_ | refine .ite ?_ ?_ | refine .forIn _ _ _ fun _ _ => ?_)
    | ((with_reducible refine setStaging_reach ?_ _ _); exact .trans rfl hw)
    | with_reducible intro _
    | split

theorem settleAll_reach {msk : Nat} (hw : Within 0x10FBA9 msk) (ws : List Work) :
    M.All (Upd.In msk) (settleAll ws) := by
  unfold settleAll
  repeat' first
    | (with_reducible first | exact .pure _ | exact .getS | refine .bind ?_ fun _ => ?_ | refine .ite ?_ ?_)
    | ((with_reducible refine settle_reach ?_ _ _); exact .trans rfl hw)
    | ((with_reducible refine applyStaging_reach ?_); exact .trans rfl hw)
    | with_reducible intro _
    | split

theorem presenceChanged_reach {msk : Nat} (hw : Within 0x10FBA9 msk) :
    M.All (Upd.In msk) (presenceChanged) := by
  unfold presenceChanged
  repeat' first
    | (with_reducible first | exact .pure _ | exact .getS | refine .bind ?_ fun _ => ?_ | refine .ite ?_ ?_ | refine .forIn _ _ _ fun _ _ => ?_)
    | ((with_reducible refine modTally_reach ?_ _); exact .trans rfl hw)
    | ((with_reducible refine settleAll_reach ?_ _); exact .trans rfl hw)
    | ((with_reducible refine endTask_reach ?_ _ _); exact .trans rfl hw)
    | ((with_reducible refine raise_reach ?_ _ _ _ _); exact .trans rfl hw)
    | ((with_reducible refine enlist_reach ?_ _ _); exact .trans rfl hw)
    | ((with_reducible refine modEngine_reach ?_ _ _); exact .trans rfl hw)
    | ((with_reducible refine unlist_reach ?_ _); exact .trans rfl hw)
    | ((with_reducible refine modTask_reach ?_ _ _); exact .trans rfl hw)
    | ((with_reducible refine raiseFor_reach ?_ _ _ _ _ _); exact .trans rfl hw)
    | with_reducible intro _
    | split

theorem refuseReg_reach {msk : Nat} (hw : Within 0x181 msk) (off value lsb : Nat) :
    M.All (Upd.In msk) (refuseReg off value lsb) := by
  unfold refuseReg
  repeat' first
    | (with_reducible first | exact .pure _ | exact .getS | refine .bind ?_ fun _ => ?_ | refine .ite ?_ ?_)
    | ((with_reducible refine raise_reach ?_ _ _ _ _); exact .trans rfl hw)
    | with_reducible intro _
    | split

theorem finish_reach {msk : Nat} (hw : Within 0x10FBA9 msk) (t status : Nat) :
    M.All (Upd.In msk) (finish t status) := by
  unfold finish
  repeat' first
    | (with_reducible first | exact .pure _ | exact .getS | refine .bind ?_ fun _ => ?_ | refine .ite ?_ ?_)
    | ((with_reducible refine endTask_reach ?_ _ _); exact .trans rfl hw)
    | ((with_reducible refine settleAll_reach ?_ _); exact .trans rfl hw)
    | with_reducible intro _
    | split

theorem physWriteAll_reach {msk : Nat} (hw : Within 0xB89 msk) (who a : Nat) (bs : List Byte) :
    M.All (Upd.In msk) (physWriteAll who a bs) := by
  unfold physWriteAll
  repeat' first
    | (with_reducible first | exact .pure _ | exact .getS | refine .bind ?_ fun _ => ?_ | refine .ite ?_ ?_ | refine .forIn _ _ _ fun _ _ => ?_)
    | ((with_reducible refine physWrite_reach ?_ _ _ _); exact .trans rfl hw)
    | with_reducible intro _
    | split

theorem answer_reach {msk : Nat} (hw : Within 0x10 msk) (ok : Bool) (data : List Byte) :
    M.All (Upd.In msk) (answer ok data) := by
  unfold answer
  repeat' first
    | (with_reducible first | exact .pure _ | exact .getS | refine .bind ?_ fun _ => ?_ | refine .ite ?_ ?_)
    | ((with_reducible refine .update ?_); exact .of hw rfl)
    | with_reducible intro _
    | split

theorem safeCreated_reach {msk : Nat} (hw : Within 0x100181 msk) (g id num stamp air : Nat) :
    M.All (Upd.In msk) (safeCreated g id num stamp air) := by
  unfold safeCreated
  repeat' first
    | (with_reducible first | exact .pure _ | exact .getS | refine .bind ?_ fun _ => ?_ | refine .ite ?_ ?_ | refine .forIn _ _ _ fun _ _ => ?_)
    | ((with_reducible refine modPipe_reach ?_ _ _); exact .trans rfl hw)
    | ((with_reducible refine raise_reach ?_ _ _ _ _); exact .trans rfl hw)
    | ((with_reducible refine modBelay_reach ?_ _ _); exact .trans rfl hw)
    | with_reducible intro _
    | split

theorem ctxRead_reach {msk : Nat} (hw : Within 0xBA9 msk) (who h va n : Nat) :
    M.All (Upd.In msk) (ctxRead who h va n) := by
  unfold ctxRead
  repeat' first
    | fail_if_no_progress beta_reduce
    | (extract_lets +onlyGivenNames jp
       first
       | (refine (fun hj : ∀ x, M.All (Upd.In msk) (jp x) => ?_) (fun x => ?_)
          on_goal 2 => (dsimp -zeta only [jp]; clear jp)
          on_goal 1 => clear_value jp)
       | clear_value jp)
    | (with_reducible first | exact .pure _ | exact .getS | refine .bind ?_ fun _ => ?_ | refine .ite ?_ ?_ | refine .forIn _ _ _ fun _ _ => ?_)
    | ((with_reducible refine physRead_reach ?_ _ _ _); exact .trans rfl hw)
    | ((with_reducible refine translate_reach ?_ _ _ _ _); exact .trans rfl hw)
    | ((with_reducible refine modCtx_reach ?_ _ _); exact .trans rfl hw)
    | with_reducible apply_assumption -exfalso -symm
    | with_reducible intro _
    | split

theorem taskFault_reach {msk : Nat} (hw : Within 0x104189 msk) (k : Task) (kind index crc : Nat) :
    M.All (Upd.In msk) (taskFault k kind index crc) := by
  unfold taskFault
  repeat' first
    | (with_reducible first | exact .pure _ | exact .getS | refine .bind ?_ fun _ => ?_ | refine .ite ?_ ?_)
    | ((with_reducible refine pipeFault_reach ?_ _ _ _ _ _ _ _); exact .trans rfl hw)
    | with_reducible intro _
    | split

theorem fresh_reach {msk : Nat} (hw : Within 0x20 msk) (bound : Nat) :
    M.All (Upd.In msk) (fresh bound) := by
  unfold fresh
  repeat' first
    | (with_reducible first | exact .pure _ | exact .getS | refine .bind ?_ fun _ => ?_ | refine .ite ?_ ?_)
    | ((with_reducible refine .update ?_); exact .of hw rfl)
    | with_reducible intro _
    | split

theorem crossFlag_reach {msk : Nat} (hw : Within 0x1181 msk) (f : Nat) :
    M.All (Upd.In msk) (crossFlag f) := by
  unfold crossFlag
  repeat' first
    | (with_reducible first | exact .pure _ | exact .getS | refine .bind ?_ fun _ => ?_ | refine .ite ?_ ?_)
    | ((with_reducible refine raise_reach ?_ _ _ _ _); exact .trans rfl hw)
    | ((with_reducible refine modFlag_reach ?_ _ _); exact .trans rfl hw)
    | with_reducible intro _
    | split

theorem rearmFlag_reach {msk : Nat} (hw : Within 0x1000 msk) (f : Nat) :
    M.All (Upd.In msk) (rearmFlag f) := by
  unfold rearmFlag
  repeat' first
    | (with_reducible first | exact .pure _ | exact .getS | refine .bind ?_ fun _ => ?_ | refine .ite ?_ ?_)
    | ((with_reducible refine modFlag_reach ?_ _ _); exact .trans rfl hw)
    | with_reducible intro _
    | split

theorem advanceFlag_reach {msk : Nat} (hw : Within 0x1181 msk) (f h src part : Nat) (byBcc : Bool) :
    M.All (Upd.In msk) (advanceFlag f h src part byBcc) := by
  unfold advanceFlag
  repeat' first
    | (with_reducible first | exact .pure _ | exact .getS | refine .bind ?_ fun _ => ?_ | refine .ite ?_ ?_)
    | ((with_reducible refine crossFlag_reach ?_ _); exact .trans rfl hw)
    | ((with_reducible refine rearmFlag_reach ?_ _); exact .trans rfl hw)
    | ((with_reducible refine raise_reach ?_ _ _ _ _); exact .trans rfl hw)
    | ((with_reducible refine modFlag_reach ?_ _ _); exact .trans rfl hw)
    | with_reducible intro _
    | split

theorem clampReg_reach {msk : Nat} (hw : Within 0x181 msk) (off value applied lsb width : Nat) :
    M.All (Upd.In msk) (clampReg off value applied lsb width) := by
  unfold clampReg
  repeat' first
    | (with_reducible first | exact .pure _ | exact .getS | refine .bind ?_ fun _ => ?_ | refine .ite ?_ ?_)
    | ((with_reducible refine raise_reach ?_ _ _ _ _); exact .trans rfl hw)
    | with_reducible intro _
    | split

theorem postRead_reach {msk : Nat} (hw : Within 0xA000 msk) (i rkey addr len : Nat) (entry : Option (Nat × Nat)) :
    M.All (Upd.In msk) (postRead i rkey addr len entry) := by
  unfold postRead
  repeat' first
    | (with_reducible first | exact .pure _ | exact .getS | refine .bind ?_ fun _ => ?_ | refine .ite ?_ ?_)
    | ((with_reducible refine postPacket_reach ?_ _ _ _); exact .trans rfl hw)
    | with_reducible intro _
    | split

theorem noteCommit_reach {msk : Nat} (hw : Within 0x8008 msk) (t : Nat) :
    M.All (Upd.In msk) (noteCommit t) := by
  unfold noteCommit
  repeat' first
    | (with_reducible first | exact .pure _ | exact .getS | refine .bind ?_ fun _ => ?_ | refine .ite ?_ ?_ | refine .forIn _ _ _ fun _ _ => ?_)
    | ((with_reducible refine settleSteps_reach ?_ _); exact .trans rfl hw)
    | ((with_reducible refine modJob_reach ?_ _ _); exact .trans rfl hw)
    | with_reducible intro _
    | split

theorem settlePipe_reach {msk : Nat} (hw : Within 0x8 msk) (p : Nat) :
    M.All (Upd.In msk) (settlePipe p) := by
  unfold settlePipe
  repeat' first
    | (with_reducible first | exact .pure _ | exact .getS | refine .bind ?_ fun _ => ?_ | refine .ite ?_ ?_)
    | ((with_reducible refine wrFld_reach ?_ _ _ _); exact .trans rfl hw)
    | with_reducible intro _
    | split

end Sys2Proof.Machine
end

