-- ==== Sys2Proof/Laws/ReachTasks.lean ====
section
/-! SUPPORT. Which components of the state the operations of one group reach: the life of tasks, faults, submission and the ladder of resets. One lemma for each operation: every update it makes
lies in its mask, so every component outside the mask is as before. -/

set_option linter.unusedTactic false
set_option linter.unreachableTactic false
set_option linter.unusedVariables false
set_option linter.style.multiGoal false

namespace Sys2Proof.Machine

open Sys2Proof

theorem resumeHold_reach {msk : Nat} (hw : Within 0x10FBA9 msk) (i : Nat) :
    M.All (Upd.In msk) (resumeHold i) := by
  unfold resumeHold
  repeat' first
    | (with_reducible first | exact .pure _ | exact .getS | refine .bind ?_ fun _ => ?_ | refine .ite ?_ ?_ | refine .forIn _ _ _ fun _ _ => ?_)
    | ((with_reducible refine modTally_reach ?_ _); exact .trans rfl hw)
    | ((with_reducible refine makeReady_reach ?_ _); exact .trans rfl hw)
    | ((with_reducible refine modTask_reach ?_ _ _); exact .trans rfl hw)
    | ((with_reducible refine settleAll_reach ?_ _); exact .trans rfl hw)
    | ((with_reducible refine modRing_reach ?_ _ _); exact .trans rfl hw)
    | ((with_reducible refine raiseFor_reach ?_ _ _ _ _ _); exact .trans rfl hw)
    | with_reducible intro _
    | split

theorem resumeFenceHolds_reach {msk : Nat} (hw : Within 0x10FBA9 msk) (dom : Nat) :
    M.All (Upd.In msk) (resumeFenceHolds dom) := by
  unfold resumeFenceHolds
  repeat' first
    | (with_reducible first | exact .pure _ | exact .getS | refine .bind ?_ fun _ => ?_ | refine .ite ?_ ?_ | refine .forIn _ _ _ fun _ _ => ?_)
    | ((with_reducible refine resumeHold_reach ?_ _); exact .trans rfl hw)
    | with_reducible intro _
    | split

theorem resetPages_reach {msk : Nat} (hw : Within 0x4 msk) (ps : List Nat) :
    M.All (Upd.In msk) (resetPages ps) := by
  unfold resetPages
  repeat' first
    | (with_reducible first | exact .pure _ | exact .getS | refine .bind ?_ fun _ => ?_ | refine .ite ?_ ?_ | refine .forIn _ _ _ fun _ _ => ?_)
    | ((with_reducible refine .update ?_); exact .of hw rfl)
    | with_reducible intro _
    | split

theorem resetDma_reach {msk : Nat} (hw : Within 0x40C msk) (n : Nat) :
    M.All (Upd.In msk) (resetDma n) := by
  unfold resetDma
  repeat' first
    | (with_reducible first | exact .pure _ | exact .getS | refine .bind ?_ fun _ => ?_ | refine .ite ?_ ?_)
    | ((with_reducible refine .update ?_); exact .of hw rfl)
    | ((with_reducible refine resetPages_reach ?_ _); exact .trans rfl hw)
    | ((with_reducible refine wrReg_reach ?_ _ _); exact .trans rfl hw)
    | with_reducible intro _
    | split

theorem modRadio_reach {msk : Nat} (hw : Within 0x400000 msk) (f : Radio → Radio) :
    M.All (Upd.In msk) (modRadio f) := by
  unfold modRadio
  repeat' first
    | (with_reducible first | exact .pure _ | exact .getS | refine .bind ?_ fun _ => ?_ | refine .ite ?_ ?_)
    | ((with_reducible refine .update ?_); exact .of hw rfl)
    | with_reducible intro _
    | split

theorem resetEngine_reach {msk : Nat} (hw : Within 0xC0860E msk) (e : Nat) :
    M.All (Upd.In msk) (resetEngine e) := by
  unfold resetEngine
  repeat' first
    | (with_reducible first | exact .pure _ | exact .getS | refine .bind ?_ fun _ => ?_ | refine .ite ?_ ?_ | refine .forIn _ _ _ fun _ _ => ?_)
    | ((with_reducible refine .update ?_); exact .of hw rfl)
    | ((with_reducible refine resetDma_reach ?_ _); exact .trans rfl hw)
    | ((with_reducible refine modEngine_reach ?_ _ _); exact .trans rfl hw)
    | ((with_reducible refine resetPages_reach ?_ _); exact .trans rfl hw)
    | ((with_reducible refine modRadio_reach ?_ _); exact .trans rfl hw)
    | with_reducible intro _
    | split

theorem clearCameras_reach {msk : Nat} (hw : Within 0x200000 msk) :
    M.All (Upd.In msk) (clearCameras) := by
  unfold clearCameras
  repeat' first
    | (with_reducible first | exact .pure _ | exact .getS | refine .bind ?_ fun _ => ?_ | refine .ite ?_ ?_)
    | ((with_reducible refine .update ?_); exact .of hw rfl)
    | with_reducible intro _
    | split

theorem resetPart_reach {msk : Nat} (hw : Within 0xE0860E msk) (p : Nat) :
    M.All (Upd.In msk) (resetPart p) := by
  unfold resetPart
  repeat' first
    | (with_reducible first | exact .pure _ | exact .getS | refine .bind ?_ fun _ => ?_ | refine .ite ?_ ?_ | refine .forIn _ _ _ fun _ _ => ?_)
    | ((with_reducible refine .update ?_); exact .of hw rfl)
    | ((with_reducible refine resetEngine_reach ?_ _); exact .trans rfl hw)
    | ((with_reducible refine modEngine_reach ?_ _ _); exact .trans rfl hw)
    | ((with_reducible refine resetPages_reach ?_ _); exact .trans rfl hw)
    | ((with_reducible refine clearCameras_reach ?_); exact .trans rfl hw)
    | with_reducible intro _
    | split

theorem drainDma_reach {msk : Nat} (hw : Within 0x408 msk) (e : Nat) :
    M.All (Upd.In msk) (drainDma e) := by
  unfold drainDma
  repeat' first
    | (with_reducible first | exact .pure _ | exact .getS | refine .bind ?_ fun _ => ?_ | refine .ite ?_ ?_)
    | ((with_reducible refine .update ?_); exact .of hw rfl)
    | ((with_reducible refine wrFld_reach ?_ _ _ _); exact .trans rfl hw)
    | with_reducible intro _
    | split

theorem unstall_reach {msk : Nat} (hw : Within 0x300 msk) (t : Nat) :
    M.All (Upd.In msk) (unstall t) := by
  unfold unstall
  repeat' first
    | (with_reducible first | exact .pure _ | exact .getS | refine .bind ?_ fun _ => ?_ | refine .ite ?_ ?_ | refine .forIn _ _ _ fun _ _ => ?_)
    | ((with_reducible refine modEngine_reach ?_ _ _); exact .trans rfl hw)
    | ((with_reducible refine unlist_reach ?_ _); exact .trans rfl hw)
    | with_reducible intro _
    | split

theorem backToWaiting_reach {msk : Nat} (hw : Within 0x300 msk) (t key : Nat) :
    M.All (Upd.In msk) (backToWaiting t key) := by
  unfold backToWaiting
  repeat' first
    | (with_reducible first | exact .pure _ | exact .getS | refine .bind ?_ fun _ => ?_ | refine .ite ?_ ?_)
    | ((with_reducible refine unstall_reach ?_ _); exact .trans rfl hw)
    | ((with_reducible refine modTask_reach ?_ _ _); exact .trans rfl hw)
    | ((with_reducible refine modRing_reach ?_ _ _); exact .trans rfl hw)
    | with_reducible intro _
    | split

theorem endChain_reach {msk : Nat} (hw : Within 0x10FBA9 msk) (chain : List Nat) (status hold reason : Nat) :
    M.All (Upd.In msk) (endChain chain status hold reason) := by
  unfold endChain
  repeat' first
    | (with_reducible first | exact .pure _ | exact .getS | refine .bind ?_ fun _ => ?_ | refine .ite ?_ ?_ | refine .forIn _ _ _ fun _ _ => ?_)
    | ((with_reducible refine unstall_reach ?_ _); exact .trans rfl hw)
    | ((with_reducible refine settleAll_reach ?_ _); exact .trans rfl hw)
    | ((with_reducible refine finish_reach ?_ _ _); exact .trans rfl hw)
    | ((with_reducible refine raiseFor_reach ?_ _ _ _ _ _); exact .trans rfl hw)
    | with_reducible intro _
    | split

theorem faultTask_reach {msk : Nat} (hw : Within 0x10FBA9 msk) (t : Nat) (page fence : Bool) (status : Nat) :
    M.All (Upd.In msk) (faultTask t page fence status) := by
  unfold faultTask
  repeat' first
    | (with_reducible first | exact .pure _ | exact .getS | refine .bind ?_ fun _ => ?_ | refine .ite ?_ ?_ | refine .forIn _ _ _ fun _ _ => ?_)
    | ((with_reducible refine modTally_reach ?_ _); exact .trans rfl hw)
    | ((with_reducible refine backToWaiting_reach ?_ _ _); exact .trans rfl hw)
    | ((with_reducible refine unstall_reach ?_ _); exact .trans rfl hw)
    | ((with_reducible refine endChain_reach ?_ _ _ _ _); exact .trans rfl hw)
    | ((with_reducible refine modTask_reach ?_ _ _); exact .trans rfl hw)
    | ((with_reducible refine settleAll_reach ?_ _); exact .trans rfl hw)
    | ((with_reducible refine raiseFor_reach ?_ _ _ _ _ _); exact .trans rfl hw)
    | with_reducible intro _
    | split

theorem interruptTask_reach {msk : Nat} (hw : Within 0x10FBA9 msk) (t dom : Nat) :
    M.All (Upd.In msk) (interruptTask t dom) := by
  unfold interruptTask
  repeat' first
    | (with_reducible first | exact .pure _ | exact .getS | refine .bind ?_ fun _ => ?_ | refine .ite ?_ ?_)
    | ((with_reducible refine modTally_reach ?_ _); exact .trans rfl hw)
    | ((with_reducible refine unstall_reach ?_ _); exact .trans rfl hw)
    | ((with_reducible refine makeReady_reach ?_ _); exact .trans rfl hw)
    | ((with_reducible refine modTask_reach ?_ _ _); exact .trans rfl hw)
    | ((with_reducible refine settleAll_reach ?_ _); exact .trans rfl hw)
    | ((with_reducible refine faultTask_reach ?_ _ _ _ _); exact .trans rfl hw)
    | with_reducible intro _
    | split

theorem interruptEngines_reach {msk : Nat} (hw : Within 0x10FBA9 msk) (es : List Nat) (dom : Nat) :
    M.All (Upd.In msk) (interruptEngines es dom) := by
  unfold interruptEngines
  repeat' first
    | (with_reducible first | exact .pure _ | exact .getS | refine .bind ?_ fun _ => ?_ | refine .ite ?_ ?_ | refine .forIn _ _ _ fun _ _ => ?_)
    | ((with_reducible refine interruptTask_reach ?_ _ _); exact .trans rfl hw)
    | with_reducible intro _
    | split

theorem linkLost_reach {msk : Nat} (hw : Within 0x189 msk) (l why : Nat) :
    M.All (Upd.In msk) (linkLost l why) := by
  unfold linkLost
  repeat' first
    | (with_reducible first | exact .pure _ | exact .getS | refine .bind ?_ fun _ => ?_ | refine .ite ?_ ?_)
    | ((with_reducible refine raise_reach ?_ _ _ _ _); exact .trans rfl hw)
    | ((with_reducible refine wrFld_reach ?_ _ _ _); exact .trans rfl hw)
    | with_reducible intro _
    | split

theorem jesdDown_reach {msk : Nat} (hw : Within 0x189 msk) :
    M.All (Upd.In msk) (jesdDown) := by
  unfold jesdDown
  repeat' first
    | (with_reducible first | exact .pure _ | exact .getS | refine .bind ?_ fun _ => ?_ | refine .ite ?_ ?_ | refine .forIn _ _ _ fun _ _ => ?_)
    | ((with_reducible refine linkLost_reach ?_ _ _); exact .trans rfl hw)
    | ((with_reducible refine wrFld_reach ?_ _ _ _); exact .trans rfl hw)
    | with_reducible intro _
    | split

theorem selfRefresh_reach {msk : Nat} (hw : Within 0x8 msk) (p : Nat) :
    M.All (Upd.In msk) (selfRefresh p) := by
  unfold selfRefresh
  repeat' first
    | (with_reducible first | exact .pure _ | exact .getS | refine .bind ?_ fun _ => ?_ | refine .ite ?_ ?_ | refine .forIn _ _ _ fun _ _ => ?_)
    | ((with_reducible refine wrFld_reach ?_ _ _ _); exact .trans rfl hw)
    | with_reducible intro _
    | split

theorem showReqs_reach {msk : Nat} (hw : Within 0x8 msk) (c : Nat) :
    M.All (Upd.In msk) (showReqs c) := by
  unfold showReqs
  repeat' first
    | fail_if_no_progress beta_reduce
    | (extract_lets +onlyGivenNames jp
       first
       | (refine (fun hj : ∀ x, M.All (Upd.In msk) (jp x) => ?_) (fun x => ?_)
          on_goal 2 => (dsimp -zeta only [jp]; clear jp)
          on_goal 1 => clear_value jp)
       | clear_value jp)
    | (with_reducible first | exact .pure _ | exact .getS | refine .bind ?_ fun _ => ?_ | refine .ite ?_ ?_)
    | ((with_reducible refine wrFld_reach ?_ _ _ _); exact .trans rfl hw)
    | with_reducible apply_assumption -exfalso -symm
    | with_reducible intro _
    | split

theorem modCam_reach {msk : Nat} (hw : Within 0x200000 msk) (c : Nat) (f : Cam → Cam) :
    M.All (Upd.In msk) (modCam c f) := by
  unfold modCam
  repeat' first
    | (with_reducible first | exact .pure _ | exact .getS | refine .bind ?_ fun _ => ?_ | refine .ite ?_ ?_)
    | ((with_reducible refine .update ?_); exact .of hw rfl)
    | with_reducible intro _
    | split

theorem modReqs_reach {msk : Nat} (hw : Within 0x200008 msk) (c : Nat) (g : ExpReq → ExpReq) :
    M.All (Upd.In msk) (modReqs c g) := by
  unfold modReqs
  repeat' first
    | (with_reducible first | exact .pure _ | exact .getS | refine .bind ?_ fun _ => ?_ | refine .ite ?_ ?_)
    | ((with_reducible refine showReqs_reach ?_ _); exact .trans rfl hw)
    | ((with_reducible refine modCam_reach ?_ _ _); exact .trans rfl hw)
    | with_reducible intro _
    | split

theorem modFrame_reach {msk : Nat} (hw : Within 0x200000 msk) (c : Nat) (g : CamFrame → CamFrame) :
    M.All (Upd.In msk) (modFrame c g) := by
  unfold modFrame
  repeat' first
    | (with_reducible first | exact .pure _ | exact .getS | refine .bind ?_ fun _ => ?_ | refine .ite ?_ ?_)
    | ((with_reducible refine modCam_reach ?_ _ _); exact .trans rfl hw)
    | with_reducible intro _
    | split

theorem modCsi_reach {msk : Nat} (hw : Within 0x200000 msk) (n : Nat) (f : CsiPort → CsiPort) :
    M.All (Upd.In msk) (modCsi n f) := by
  unfold modCsi
  repeat' first
    | (with_reducible first | exact .pure _ | exact .getS | refine .bind ?_ fun _ => ?_ | refine .ite ?_ ?_)
    | ((with_reducible refine .update ?_); exact .of hw rfl)
    | with_reducible intro _
    | split

theorem beginWrites_reach {msk : Nat} (hw : Within 0x200008 msk) (c frame : Nat) :
    M.All (Upd.In msk) (beginWrites c frame) := by
  unfold beginWrites
  repeat' first
    | (with_reducible first | exact .pure _ | exact .getS | refine .bind ?_ fun _ => ?_ | refine .ite ?_ ?_)
    | ((with_reducible refine modCsi_reach ?_ _ _); exact .trans rfl hw)
    | ((with_reducible refine modReqs_reach ?_ _ _); exact .trans rfl hw)
    | with_reducible intro _
    | split

theorem storeLineOf_reach {msk : Nat} (hw : Within 0x200BA9 msk) (c y : Nat) (l : List Nat) :
    M.All (Upd.In msk) (storeLineOf c y l) := by
  unfold storeLineOf
  repeat' first
    | (with_reducible first | exact .pure _ | exact .getS | refine .bind ?_ fun _ => ?_ | refine .ite ?_ ?_)
    | ((with_reducible refine modFrame_reach ?_ _ _); exact .trans rfl hw)
    | ((with_reducible refine ctxWrite_reach ?_ _ _ _ _); exact .trans rfl hw)
    | with_reducible intro _
    | split

theorem closeFrame_reach {msk : Nat} (hw : Within 0x30FBA9 msk) (c stamp : Nat) (noFe timeout lost : Bool) :
    M.All (Upd.In msk) (closeFrame c stamp noFe timeout lost) := by
  unfold closeFrame
  repeat' first
    | (with_reducible first | exact .pure _ | exact .getS | refine .bind ?_ fun _ => ?_ | refine .ite ?_ ?_ | refine .forIn _ _ _ fun _ _ => ?_)
    | ((with_reducible refine modFrame_reach ?_ _ _); exact .trans rfl hw)
    | ((with_reducible refine beginWrites_reach ?_ _ _); exact .trans rfl hw)
    | ((with_reducible refine settleAll_reach ?_ _); exact .trans rfl hw)
    | ((with_reducible refine ctxWrite_reach ?_ _ _ _ _); exact .trans rfl hw)
    | ((with_reducible refine raise_reach ?_ _ _ _ _); exact .trans rfl hw)
    | ((with_reducible refine bump_reach ?_ _ _ _); exact .trans rfl hw)
    | ((with_reducible refine storeLineOf_reach ?_ _ _ _); exact .trans rfl hw)
    | ((with_reducible refine wrFld_reach ?_ _ _ _); exact .trans rfl hw)
    | with_reducible intro _
    | split

theorem loseFrames_reach {msk : Nat} (hw : Within 0x30FBA9 msk) (port stamp : Nat) :
    M.All (Upd.In msk) (loseFrames port stamp) := by
  unfold loseFrames
  repeat' first
    | (with_reducible first | exact .pure _ | exact .getS | refine .bind ?_ fun _ => ?_ | refine .ite ?_ ?_ | refine .forIn _ _ _ fun _ _ => ?_)
    | ((with_reducible refine closeFrame_reach ?_ _ _ _ _ _); exact .trans rfl hw)
    | with_reducible intro _
    | split

theorem linkDown_reach {msk : Nat} (hw : Within 0x30FBA9 msk) (port reason : Nat) :
    M.All (Upd.In msk) (linkDown port reason) := by
  unfold linkDown
  repeat' first
    | (with_reducible first | exact .pure _ | exact .getS | refine .bind ?_ fun _ => ?_ | refine .ite ?_ ?_ | refine .forIn _ _ _ fun _ _ => ?_)
    | ((with_reducible refine raise_reach ?_ _ _ _ _); exact .trans rfl hw)
    | ((with_reducible refine modReqs_reach ?_ _ _); exact .trans rfl hw)
    | ((with_reducible refine loseFrames_reach ?_ _ _); exact .trans rfl hw)
    | ((with_reducible refine wrFld_reach ?_ _ _ _); exact .trans rfl hw)
    | with_reducible intro _
    | split

theorem camerasDown_reach {msk : Nat} (hw : Within 0x30FBA9 msk) :
    M.All (Upd.In msk) (camerasDown) := by
  unfold camerasDown
  repeat' first
    | (with_reducible first | exact .pure _ | exact .getS | refine .bind ?_ fun _ => ?_ | refine .ite ?_ ?_ | refine .forIn _ _ _ fun _ _ => ?_)
    | ((with_reducible refine linkDown_reach ?_ _ _); exact .trans rfl hw)
    | ((with_reducible refine loseFrames_reach ?_ _ _); exact .trans rfl hw)
    | with_reducible intro _
    | split

theorem rcvEvent_reach {msk : Nat} (hw : Within 0x181 msk) (sc : Scope) (code : Nat) (detail : List (Nat × Nat)) :
    M.All (Upd.In msk) (rcvEvent sc code detail) := by
  unfold rcvEvent
  repeat' first
    | (with_reducible first | exact .pure _ | exact .getS | refine .bind ?_ fun _ => ?_ | refine .ite ?_ ?_)
    | ((with_reducible refine raise_reach ?_ _ _ _ _); exact .trans rfl hw)
    | with_reducible intro _
    | split

theorem writeBackHome_reach {msk : Nat} (hw : Within 0x81 msk) (p : Nat) :
    M.All (Upd.In msk) (writeBackHome p) := by
  unfold writeBackHome
  repeat' first
    | (with_reducible first | exact .pure _ | exact .getS | refine .bind ?_ fun _ => ?_ | refine .ite ?_ ?_ | refine .forIn _ _ _ fun _ _ => ?_)
    | ((with_reducible refine writeBack_reach ?_ _); exact .trans rfl hw)
    | with_reducible intro _
    | split

theorem sendResetNotices_reach {msk : Nat} (hw : Within 0x2000 msk) :
    M.All (Upd.In msk) (sendResetNotices) := by
  unfold sendResetNotices
  repeat' first
    | (with_reducible first | exact .pure _ | exact .getS | refine .bind ?_ fun _ => ?_ | refine .ite ?_ ?_ | refine .forIn _ _ _ fun _ _ => ?_)
    | ((with_reducible refine .update ?_); exact .of hw rfl)
    | with_reducible intro _
    | split

theorem endOnEngine_reach {msk : Nat} (hw : Within 0x10FBA9 msk) (e h status : Nat) :
    M.All (Upd.In msk) (endOnEngine e h status) := by
  unfold endOnEngine
  repeat' first
    | (with_reducible first | exact .pure _ | exact .getS | refine .bind ?_ fun _ => ?_ | refine .ite ?_ ?_ | refine .forIn _ _ _ fun _ _ => ?_)
    | ((with_reducible refine unstall_reach ?_ _); exact .trans rfl hw)
    | ((with_reducible refine finish_reach ?_ _ _); exact .trans rfl hw)
    | with_reducible intro _
    | split

theorem beginReset_reach {msk : Nat} (hw : Within 0x30FFA9 msk) (sc : Scope) (cause trigger cameFrom : Nat) (zeroDrain : Bool) :
    M.All (Upd.In msk) (beginReset sc cause trigger cameFrom zeroDrain) := by
  unfold beginReset
  repeat' first
    | (with_reducible first | exact .pure _ | exact .getS | refine .bind ?_ fun _ => ?_ | refine .ite ?_ ?_ | refine .forIn _ _ _ fun _ _ => ?_)
    | ((with_reducible refine .update ?_); exact .of hw rfl)
    | ((with_reducible refine drainDma_reach ?_ _); exact .trans rfl hw)
    | ((with_reducible refine rcvEvent_reach ?_ _ _ _); exact .trans rfl hw)
    | ((with_reducible refine writeBackHome_reach ?_ _); exact .trans rfl hw)
    | ((with_reducible refine camerasDown_reach ?_); exact .trans rfl hw)
    | ((with_reducible refine sendResetNotices_reach ?_); exact .trans rfl hw)
    | ((with_reducible refine interruptEngines_reach ?_ _ _); exact .trans rfl hw)
    | ((with_reducible refine jesdDown_reach ?_); exact .trans rfl hw)
    | ((with_reducible refine endOnEngine_reach ?_ _ _ _); exact .trans rfl hw)
    | ((with_reducible refine selfRefresh_reach ?_ _); exact .trans rfl hw)
    | ((with_reducible refine modEngine_reach ?_ _ _); exact .trans rfl hw)
    | ((with_reducible refine wrFld_reach ?_ _ _ _); exact .trans rfl hw)
    | with_reducible intro _
    | split

theorem climb_reach {msk : Nat} (hw : Within 0x181 msk) : ∀ (z0 : Nat) (z1 : Scope) (z2 : Nat),
    M.All (Upd.In msk) (climb z0 z1 z2) := by
  intro z0
  induction z0 with
  | zero =>
    intros
    unfold climb
    repeat' first
      | (with_reducible first | exact .pure _ | exact .getS | refine .bind ?_ fun _ => ?_ | refine .ite ?_ ?_)
      | ((with_reducible refine rcvEvent_reach ?_ _ _ _); exact .trans rfl hw)
      | with_reducible apply_assumption -exfalso -symm
      | with_reducible intro _
      | (injections; subst_vars; with_reducible apply_assumption -exfalso -symm)
      | split
  | succ n ih =>
    intros
    unfold climb
    repeat' first
      | (with_reducible first | exact .pure _ | exact .getS | refine .bind ?_ fun _ => ?_ | refine .ite ?_ ?_)
      | ((with_reducible refine rcvEvent_reach ?_ _ _ _); exact .trans rfl hw)
      | with_reducible apply_assumption -exfalso -symm
      | with_reducible intro _
      | (injections; subst_vars; with_reducible apply_assumption -exfalso -symm)
      | split

theorem writeReport_reach {msk : Nat} (hw : Within 0x9 msk) (r : Reset) (outcome : Nat) :
    M.All (Upd.In msk) (writeReport r outcome) := by
  unfold writeReport
  repeat' first
    | (with_reducible first | exact .pure _ | exact .getS | refine .bind ?_ fun _ => ?_ | refine .ite ?_ ?_)
    | ((with_reducible refine .update ?_); exact .of hw rfl)
    | ((with_reducible refine wrReg_reach ?_ _ _); exact .trans rfl hw)
    | with_reducible intro _
    | split

theorem takeOver_reach {msk : Nat} (hw : Within 0x989 msk) (sc : Scope) :
    M.All (Upd.In msk) (takeOver sc) := by
  unfold takeOver
  repeat' first
    | (with_reducible first | exact .pure _ | exact .getS | refine .bind ?_ fun _ => ?_ | refine .ite ?_ ?_ | refine .forIn _ _ _ fun _ _ => ?_)
    | ((with_reducible refine .update ?_); exact .of hw rfl)
    | ((with_reducible refine writeReport_reach ?_ _ _); exact .trans rfl hw)
    | ((with_reducible refine rcvEvent_reach ?_ _ _ _); exact .trans rfl hw)
    | with_reducible intro _
    | split

theorem requestPowerCycle_reach {msk : Nat} (hw : Within 0x4989 msk) (reason cause stamp cameFrom : Nat) (byBcc : Bool) :
    M.All (Upd.In msk) (requestPowerCycle reason cause stamp cameFrom byBcc) := by
  unfold requestPowerCycle
  repeat' first
    | (with_reducible first | exact .pure _ | exact .getS | refine .bind ?_ fun _ => ?_ | refine .ite ?_ ?_)
    | ((with_reducible refine .update ?_); exact .of hw rfl)
    | ((with_reducible refine writeReport_reach ?_ _ _); exact .trans rfl hw)
    | ((with_reducible refine raise_reach ?_ _ _ _ _); exact .trans rfl hw)
    | with_reducible intro _
    | split

theorem trigger_reach {msk : Nat} (hw : Within 0x30FFA9 msk) (sc0 : Scope) (cause : Nat) (stamp cameFrom : Nat) (zeroDrain : Bool) :
    M.All (Upd.In msk) (trigger sc0 cause stamp cameFrom zeroDrain) := by
  unfold trigger
  repeat' first
    | (with_reducible first | exact .pure _ | exact .getS | refine .bind ?_ fun _ => ?_ | refine .ite ?_ ?_)
    | ((with_reducible refine climb_reach ?_ _ _ _); exact .trans rfl hw)
    | ((with_reducible refine beginReset_reach ?_ _ _ _ _ _); exact .trans rfl hw)
    | ((with_reducible refine takeOver_reach ?_ _); exact .trans rfl hw)
    | ((with_reducible refine requestPowerCycle_reach ?_ _ _ _ _ _); exact .trans rfl hw)
    | with_reducible intro _
    | split

theorem validHeader_reach {msk : Nat} (hw : Within 0x200189 msk) (port : Nat) :
    M.All (Upd.In msk) (validHeader port) := by
  unfold validHeader
  repeat' first
    | (with_reducible first | exact .pure _ | exact .getS | refine .bind ?_ fun _ => ?_ | refine .ite ?_ ?_)
    | ((with_reducible refine modCsi_reach ?_ _ _); exact .trans rfl hw)
    | ((with_reducible refine raise_reach ?_ _ _ _ _); exact .trans rfl hw)
    | ((with_reducible refine wrFld_reach ?_ _ _ _); exact .trans rfl hw)
    | with_reducible intro _
    | split

theorem acceptKeySlot_reach {msk : Nat} (hw : Within 0x100 msk) (t sl key : Nat) :
    M.All (Upd.In msk) (acceptKeySlot t sl key) := by
  unfold acceptKeySlot
  repeat' first
    | (with_reducible first | exact .pure _ | exact .getS | refine .bind ?_ fun _ => ?_ | refine .ite ?_ ?_)
    | ((with_reducible refine modTally_reach ?_ _); exact .trans rfl hw)
    | with_reducible intro _
    | split

theorem plainFlagSlot_reach {msk : Nat} (hw : Within 0x1000 msk) (t sl flag : Nat) (s : State) :
    M.All (Upd.In msk) (plainFlagSlot t sl flag s) := by
  unfold plainFlagSlot
  repeat' first
    | (with_reducible first | exact .pure _ | exact .getS | refine .bind ?_ fun _ => ?_ | refine .ite ?_ ?_)
    | ((with_reducible refine modFlag_reach ?_ _ _); exact .trans rfl hw)
    | with_reducible intro _
    | split

theorem acceptFlagSlot_reach {msk : Nat} (hw : Within 0x1100 msk) (t sl flag : Nat) (k : Task) (num : Nat) :
    M.All (Upd.In msk) (acceptFlagSlot t sl flag k num) := by
  unfold acceptFlagSlot
  repeat' first
    | (with_reducible first | exact .pure _ | exact .getS | refine .bind ?_ fun _ => ?_ | refine .ite ?_ ?_)
    | ((with_reducible refine modRing_reach ?_ _ _); exact .trans rfl hw)
    | ((with_reducible refine plainFlagSlot_reach ?_ _ _ _ _); exact .trans rfl hw)
    | with_reducible intro _
    | split

theorem takeTokens_reach {msk : Nat} (hw : Within 0x10FBA9 msk) (t : Nat) :
    M.All (Upd.In msk) (takeTokens t) := by
  unfold takeTokens
  repeat' first
    | (with_reducible first | exact .pure _ | exact .getS | refine .bind ?_ fun _ => ?_ | refine .ite ?_ ?_ | refine .forIn _ _ _ fun _ _ => ?_)
    | ((with_reducible refine acceptKeySlot_reach ?_ _ _ _); exact .trans rfl hw)
    | ((with_reducible refine modQueue_reach ?_ _ _); exact .trans rfl hw)
    | ((with_reducible refine acceptFlagSlot_reach ?_ _ _ _ _ _); exact .trans rfl hw)
    | ((with_reducible refine makeReady_reach ?_ _); exact .trans rfl hw)
    | ((with_reducible refine modRing_reach ?_ _ _); exact .trans rfl hw)
    | with_reducible intro _
    | split

theorem storeTask_reach {msk : Nat} (hw : Within 0x100 msk) (h : Nat) (d : Desc) (o : Origin) (inst : Option Nat) :
    M.All (Upd.In msk) (storeTask h d o inst) := by
  unfold storeTask
  repeat' first
    | (with_reducible first | exact .pure _ | exact .getS | refine .bind ?_ fun _ => ?_ | refine .ite ?_ ?_ | refine .forIn _ _ _ fun _ _ => ?_)
    | ((with_reducible refine modTally_reach ?_ _); exact .trans rfl hw)
    | ((with_reducible refine modRing_reach ?_ _ _); exact .trans rfl hw)
    | with_reducible intro _
    | split

theorem createInstance_reach {msk : Nat} (hw : Within 0x10FBA9 msk) (g num stamp air : Nat) :
    M.All (Upd.In msk) (createInstance g num stamp air) := by
  unfold createInstance
  repeat' first
    | (with_reducible first | exact .pure _ | exact .getS | refine .bind ?_ fun _ => ?_ | refine .ite ?_ ?_ | refine .forIn _ _ _ fun _ _ => ?_)
    | ((with_reducible refine safeCreated_reach ?_ _ _ _ _ _); exact .trans rfl hw)
    | ((with_reducible refine takeTokens_reach ?_ _); exact .trans rfl hw)
    | ((with_reducible refine modTally_reach ?_ _); exact .trans rfl hw)
    | ((with_reducible refine settleAll_reach ?_ _); exact .trans rfl hw)
    | ((with_reducible refine storeTask_reach ?_ _ _ _ _); exact .trans rfl hw)
    | with_reducible intro _
    | split

theorem cadenceEvent_reach {msk : Nat} (hw : Within 0x10FBA9 msk) (g num stamp air : Nat) :
    M.All (Upd.In msk) (cadenceEvent g num stamp air) := by
  unfold cadenceEvent
  repeat' first
    | (with_reducible first | exact .pure _ | exact .getS | refine .bind ?_ fun _ => ?_ | refine .ite ?_ ?_)
    | ((with_reducible refine raise_reach ?_ _ _ _ _); exact .trans rfl hw)
    | ((with_reducible refine createInstance_reach ?_ _ _ _ _); exact .trans rfl hw)
    | with_reducible intro _
    | split

theorem reachReg_reach {msk : Nat} (hw : Within 0x810 msk) (by_ : Requester) (part : Nat) :
    M.All (Upd.In msk) (reachReg by_ part) := by
  unfold reachReg
  repeat' first
    | (with_reducible first | exact .pure _ | exact .getS | refine .bind ?_ fun _ => ?_ | refine .ite ?_ ?_)
    | ((with_reducible refine answer_reach ?_ _ _); exact .trans rfl hw)
    | ((with_reducible refine countRefused_reach ?_ _); exact .trans rfl hw)
    | with_reducible intro _
    | split

theorem opFault_reach {msk : Nat} (hw : Within 0x10FBA9 msk) (t : Nat) (e : MemErr) :
    M.All (Upd.In msk) (opFault t e) := by
  unfold opFault
  repeat' first
    | (with_reducible first | exact .pure _ | exact .getS | refine .bind ?_ fun _ => ?_ | refine .ite ?_ ?_)
    | ((with_reducible refine faultTask_reach ?_ _ _ _ _); exact .trans rfl hw)
    | with_reducible intro _
    | split

theorem descriptorInvalid_reach {msk : Nat} (hw : Within 0x10FBA9 msk) (t slot off : Nat) :
    M.All (Upd.In msk) (descriptorInvalid t slot off) := by
  unfold descriptorInvalid
  repeat' first
    | (with_reducible first | exact .pure _ | exact .getS | refine .bind ?_ fun _ => ?_ | refine .ite ?_ ?_)
    | ((with_reducible refine settleAll_reach ?_ _); exact .trans rfl hw)
    | ((with_reducible refine finish_reach ?_ _ _); exact .trans rfl hw)
    | ((with_reducible refine raiseFor_reach ?_ _ _ _ _ _); exact .trans rfl hw)
    | with_reducible intro _
    | split

theorem countInstance_reach {msk : Nat} (hw : Within 0x100 msk) (g : Nat) :
    M.All (Upd.In msk) (countInstance g) := by
  unfold countInstance
  repeat' first
    | (with_reducible first | exact .pure _ | exact .getS | refine .bind ?_ fun _ => ?_ | refine .ite ?_ ?_)
    | ((with_reducible refine modTally_reach ?_ _); exact .trans rfl hw)
    | with_reducible intro _
    | split

theorem tokenArrival_reach {msk : Nat} (hw : Within 0x10FBA9 msk) (h key : Nat) (failed : Bool) :
    M.All (Upd.In msk) (tokenArrival h key failed) := by
  unfold tokenArrival
  repeat' first
    | (with_reducible first | exact .pure _ | exact .getS | refine .bind ?_ fun _ => ?_ | refine .ite ?_ ?_)
    | ((with_reducible refine countLate_reach ?_); exact .trans rfl hw)
    | ((with_reducible refine settleAll_reach ?_ _); exact .trans rfl hw)
    | with_reducible intro _
    | split

theorem dispatch_reach {msk : Nat} (hw : Within 0x300 msk) (e : Nat) :
    M.All (Upd.In msk) (dispatch e) := by
  unfold dispatch
  repeat' first
    | (with_reducible first | exact .pure _ | exact .getS | refine .bind ?_ fun _ => ?_ | refine .ite ?_ ?_)
    | ((with_reducible refine modEngine_reach ?_ _ _); exact .trans rfl hw)
    | ((with_reducible refine unlist_reach ?_ _); exact .trans rfl hw)
    | ((with_reducible refine modTask_reach ?_ _ _); exact .trans rfl hw)
    | with_reducible intro _
    | split

theorem taskStart_reach {msk : Nat} (hw : Within 0x300 msk) (e : Nat) :
    M.All (Upd.In msk) (taskStart e) := by
  unfold taskStart
  repeat' first
    | (with_reducible first | exact .pure _ | exact .getS | refine .bind ?_ fun _ => ?_ | refine .ite ?_ ?_ | refine .forIn _ _ _ fun _ _ => ?_)
    | ((with_reducible refine modEngine_reach ?_ _ _); exact .trans rfl hw)
    | ((with_reducible refine modTask_reach ?_ _ _); exact .trans rfl hw)
    | with_reducible intro _
    | split

theorem blockStepEnd_reach {msk : Nat} (hw : Within 0x308 msk) (e : Nat) (mismatch : Option Nat) :
    M.All (Upd.In msk) (blockStepEnd e mismatch) := by
  unfold blockStepEnd
  repeat' first
    | (with_reducible first | exact .pure _ | exact .getS | refine .bind ?_ fun _ => ?_ | refine .ite ?_ ?_)
    | ((with_reducible refine modEngine_reach ?_ _ _); exact .trans rfl hw)
    | ((with_reducible refine modTask_reach ?_ _ _); exact .trans rfl hw)
    | ((with_reducible refine wrFld_reach ?_ _ _ _); exact .trans rfl hw)
    | with_reducible intro _
    | split

theorem abftRecomputeDone_reach {msk : Nat} (hw : Within 0x30FFA9 msk) (e : Nat) (ok : Bool) :
    M.All (Upd.In msk) (abftRecomputeDone e ok) := by
  unfold abftRecomputeDone
  repeat' first
    | (with_reducible first | exact .pure _ | exact .getS | refine .bind ?_ fun _ => ?_ | refine .ite ?_ ?_)
    | ((with_reducible refine modEngine_reach ?_ _ _); exact .trans rfl hw)
    | ((with_reducible refine bump_reach ?_ _ _ _); exact .trans rfl hw)
    | ((with_reducible refine raise_reach ?_ _ _ _ _); exact .trans rfl hw)
    | ((with_reducible refine modTask_reach ?_ _ _); exact .trans rfl hw)
    | ((with_reducible refine settleAll_reach ?_ _); exact .trans rfl hw)
    | ((with_reducible refine trigger_reach ?_ _ _ _ _ _); exact .trans rfl hw)
    | ((with_reducible refine presenceChanged_reach ?_); exact .trans rfl hw)
    | ((with_reducible refine faultTask_reach ?_ _ _ _ _); exact .trans rfl hw)
    | ((with_reducible refine raiseFor_reach ?_ _ _ _ _ _); exact .trans rfl hw)
    | with_reducible intro _
    | split

theorem preemptSave_reach {msk : Nat} (hw : Within 0x329 msk) (e : Nat) :
    M.All (Upd.In msk) (preemptSave e) := by
  unfold preemptSave
  repeat' first
    | (with_reducible first | exact .pure _ | exact .getS | refine .bind ?_ fun _ => ?_ | refine .ite ?_ ?_)
    | ((with_reducible refine .update ?_); exact .of hw rfl)
    | ((with_reducible refine enlist_reach ?_ _ _); exact .trans rfl hw)
    | ((with_reducible refine freshBytes_reach ?_ _); exact .trans rfl hw)
    | ((with_reducible refine modEngine_reach ?_ _ _); exact .trans rfl hw)
    | ((with_reducible refine bump_reach ?_ _ _ _); exact .trans rfl hw)
    | ((with_reducible refine modTask_reach ?_ _ _); exact .trans rfl hw)
    | with_reducible intro _
    | split

theorem taskEnd_reach {msk : Nat} (hw : Within 0x10FBA9 msk) (e cycles : Nat) :
    M.All (Upd.In msk) (taskEnd e cycles) := by
  unfold taskEnd
  repeat' first
    | (with_reducible first | exact .pure _ | exact .getS | refine .bind ?_ fun _ => ?_ | refine .ite ?_ ?_)
    | ((with_reducible refine bump_reach ?_ _ _ _); exact .trans rfl hw)
    | ((with_reducible refine modEngine_reach ?_ _ _); exact .trans rfl hw)
    | ((with_reducible refine modTask_reach ?_ _ _); exact .trans rfl hw)
    | ((with_reducible refine presenceChanged_reach ?_); exact .trans rfl hw)
    | ((with_reducible refine finish_reach ?_ _ _); exact .trans rfl hw)
    | with_reducible intro _
    | split

theorem budgetExpiry_reach {msk : Nat} (hw : Within 0x30FFA9 msk) (e : Nat) :
    M.All (Upd.In msk) (budgetExpiry e) := by
  unfold budgetExpiry
  repeat' first
    | (with_reducible first | exact .pure _ | exact .getS | refine .bind ?_ fun _ => ?_ | refine .ite ?_ ?_)
    | ((with_reducible refine settleAll_reach ?_ _); exact .trans rfl hw)
    | ((with_reducible refine trigger_reach ?_ _ _ _ _ _); exact .trans rfl hw)
    | ((with_reducible refine faultTask_reach ?_ _ _ _ _); exact .trans rfl hw)
    | ((with_reducible refine raiseFor_reach ?_ _ _ _ _ _); exact .trans rfl hw)
    | with_reducible intro _
    | split

theorem commit_reach {msk : Nat} (hw : Within 0x10FBA9 msk) (t : Nat) :
    M.All (Upd.In msk) (commit t) := by
  unfold commit
  repeat' first
    | (with_reducible first | exact .pure _ | exact .getS | refine .bind ?_ fun _ => ?_ | refine .ite ?_ ?_)
    | ((with_reducible refine modTally_reach ?_ _); exact .trans rfl hw)
    | ((with_reducible refine noteCommit_reach ?_ _); exact .trans rfl hw)
    | ((with_reducible refine raise_reach ?_ _ _ _ _); exact .trans rfl hw)
    | ((with_reducible refine leaveEntry_reach ?_ _ _); exact .trans rfl hw)
    | ((with_reducible refine settleAll_reach ?_ _); exact .trans rfl hw)
    | ((with_reducible refine writeLedger_reach ?_ _ _ _ _ _ _ _ _ _); exact .trans rfl hw)
    | with_reducible intro _
    | split

theorem releaseOne_reach {msk : Nat} (hw : Within 0xABA9 msk) (l : HeldList) (e : Effect) :
    M.All (Upd.In msk) (releaseOne l e) := by
  unfold releaseOne
  repeat' first
    | (with_reducible first | exact .pure _ | exact .getS | refine .bind ?_ fun _ => ?_ | refine .ite ?_ ?_)
    | ((with_reducible refine deliverCompletion_reach ?_ _ _ _ _ _); exact .trans rfl hw)
    | ((with_reducible refine raise_reach ?_ _ _ _ _); exact .trans rfl hw)
    | ((with_reducible refine appendEntry_reach ?_ _ _ _ _ _ _ _ _); exact .trans rfl hw)
    | with_reducible intro _
    | split

theorem releaseAll_reach {msk : Nat} (hw : Within 0x10FBA9 msk) (l : HeldList) : ∀ (z0 : List (Effect × Bool)),
    M.All (Upd.In msk) (releaseAll l z0) := by
  intro z0
  induction z0 with
  | nil =>
    intros
    unfold releaseAll
    repeat' first
      | (with_reducible first | exact .pure _ | exact .getS | refine .bind ?_ fun _ => ?_ | refine .ite ?_ ?_)
      | ((with_reducible refine modTally_reach ?_ _); exact .trans rfl hw)
      | ((with_reducible refine releaseOne_reach ?_ _ _); exact .trans rfl hw)
      | ((with_reducible refine settleAll_reach ?_ _); exact .trans rfl hw)
      | with_reducible apply_assumption -exfalso -symm
      | with_reducible intro _
      | (injections; subst_vars; with_reducible apply_assumption -exfalso -symm)
      | split
  | cons x t ih =>
    intros
    unfold releaseAll
    repeat' first
      | (with_reducible first | exact .pure _ | exact .getS | refine .bind ?_ fun _ => ?_ | refine .ite ?_ ?_)
      | ((with_reducible refine modTally_reach ?_ _); exact .trans rfl hw)
      | ((with_reducible refine releaseOne_reach ?_ _ _); exact .trans rfl hw)
      | ((with_reducible refine settleAll_reach ?_ _); exact .trans rfl hw)
      | with_reducible apply_assumption -exfalso -symm
      | with_reducible intro _
      | (injections; subst_vars; with_reducible apply_assumption -exfalso -symm)
      | split

theorem heldEffectRelease_reach {msk : Nat} (hw : Within 0x10FBA9 msk) (q seq : Nat) :
    M.All (Upd.In msk) (heldEffectRelease q seq) := by
  unfold heldEffectRelease
  repeat' first
    | (with_reducible first | exact .pure _ | exact .getS | refine .bind ?_ fun _ => ?_ | refine .ite ?_ ?_)
    | ((with_reducible refine modTally_reach ?_ _); exact .trans rfl hw)
    | ((with_reducible refine leaveEntry_reach ?_ _ _); exact .trans rfl hw)
    | ((with_reducible refine settleAll_reach ?_ _); exact .trans rfl hw)
    | ((with_reducible refine releaseAll_reach ?_ _ _); exact .trans rfl hw)
    | with_reducible intro _
    | split

theorem appendNow_reach {msk : Nat} (hw : Within 0x10FBA9 msk) (t : Nat) (q slot : Nat) (payload : List Byte) :
    M.All (Upd.In msk) (appendNow t q slot payload) := by
  unfold appendNow
  repeat' first
    | (with_reducible first | exact .pure _ | exact .getS | refine .bind ?_ fun _ => ?_ | refine .ite ?_ ?_)
    | ((with_reducible refine modTask_reach ?_ _ _); exact .trans rfl hw)
    | ((with_reducible refine settleAll_reach ?_ _); exact .trans rfl hw)
    | ((with_reducible refine appendEntry_reach ?_ _ _ _ _ _ _ _ _); exact .trans rfl hw)
    | ((with_reducible refine faultTask_reach ?_ _ _ _ _); exact .trans rfl hw)
    | with_reducible intro _
    | split

theorem queueAppend_reach {msk : Nat} (hw : Within 0x10FBA9 msk) (t : Nat) :
    M.All (Upd.In msk) (queueAppend t) := by
  unfold queueAppend
  repeat' first
    | (with_reducible first | exact .pure _ | exact .getS | refine .bind ?_ fun _ => ?_ | refine .ite ?_ ?_)
    | ((with_reducible refine appendNow_reach ?_ _ _ _ _); exact .trans rfl hw)
    | ((with_reducible refine finish_reach ?_ _ _); exact .trans rfl hw)
    | with_reducible intro _
    | split

theorem abandonHold_reach {msk : Nat} (hw : Within 0x10FBA9 msk) (i reason : Nat) :
    M.All (Upd.In msk) (abandonHold i reason) := by
  unfold abandonHold
  repeat' first
    | (with_reducible first | exact .pure _ | exact .getS | refine .bind ?_ fun _ => ?_ | refine .ite ?_ ?_)
    | ((with_reducible refine modTally_reach ?_ _); exact .trans rfl hw)
    | ((with_reducible refine endChain_reach ?_ _ _ _ _); exact .trans rfl hw)
    | with_reducible intro _
    | split

theorem faultResume_reach {msk : Nat} (hw : Within 0x10FBA9 msk) (by_ : Requester) (i h : Nat) (abandon : Bool) :
    M.All (Upd.In msk) (faultResume by_ i h abandon) := by
  unfold faultResume
  repeat' first
    | (with_reducible first | exact .pure _ | exact .getS | refine .bind ?_ fun _ => ?_ | refine .ite ?_ ?_)
    | ((with_reducible refine refuseReg_reach ?_ _ _ _); exact .trans rfl hw)
    | ((with_reducible refine abandonHold_reach ?_ _ _); exact .trans rfl hw)
    | ((with_reducible refine raise_reach ?_ _ _ _ _); exact .trans rfl hw)
    | ((with_reducible refine resumeHold_reach ?_ _); exact .trans rfl hw)
    | with_reducible intro _
    | split

theorem progressWatchdog_reach {msk : Nat} (hw : Within 0x10FBA9 msk) (ts : List Nat) :
    M.All (Upd.In msk) (progressWatchdog ts) := by
  unfold progressWatchdog
  repeat' first
    | fail_if_no_progress beta_reduce
    | (extract_lets +onlyGivenNames jp
       first
       | (refine (fun hj : ∀ x, M.All (Upd.In msk) (jp x) => ?_) (fun x => ?_)
          on_goal 2 => (dsimp -zeta only [jp]; clear jp)
          on_goal 1 => clear_value jp)
       | clear_value jp)
    | (with_reducible first | exact .pure _ | exact .getS | refine .bind ?_ fun _ => ?_ | refine .ite ?_ ?_)
    | ((with_reducible refine settleAll_reach ?_ _); exact .trans rfl hw)
    | ((with_reducible refine faultTask_reach ?_ _ _ _ _); exact .trans rfl hw)
    | ((with_reducible refine raiseFor_reach ?_ _ _ _ _ _); exact .trans rfl hw)
    | with_reducible apply_assumption -exfalso -symm
    | with_reducible intro _
    | split

theorem bandFilled_reach {msk : Nat} (hw : Within 0x10FBA9 msk) (t rec : Nat) :
    M.All (Upd.In msk) (bandFilled t rec) := by
  unfold bandFilled
  repeat' first
    | (with_reducible first | exact .pure _ | exact .getS | refine .bind ?_ fun _ => ?_ | refine .ite ?_ ?_ | refine .forIn _ _ _ fun _ _ => ?_)
    | ((with_reducible refine opFault_reach ?_ _ _); exact .trans rfl hw)
    | ((with_reducible refine modEngine_reach ?_ _ _); exact .trans rfl hw)
    | ((with_reducible refine modTask_reach ?_ _ _); exact .trans rfl hw)
    | ((with_reducible refine settleAll_reach ?_ _); exact .trans rfl hw)
    | ((with_reducible refine modRing_reach ?_ _ _); exact .trans rfl hw)
    | ((with_reducible refine modFlag_reach ?_ _ _); exact .trans rfl hw)
    | ((with_reducible refine ctxWrite_reach ?_ _ _ _ _); exact .trans rfl hw)
    | with_reducible intro _
    | split

theorem bandReleased_reach {msk : Nat} (hw : Within 0x10FBA9 msk) (t rec : Nat) :
    M.All (Upd.In msk) (bandReleased t rec) := by
  unfold bandReleased
  repeat' first
    | (with_reducible first | exact .pure _ | exact .getS | refine .bind ?_ fun _ => ?_ | refine .ite ?_ ?_ | refine .forIn _ _ _ fun _ _ => ?_)
    | ((with_reducible refine opFault_reach ?_ _ _); exact .trans rfl hw)
    | ((with_reducible refine ctxRead_reach ?_ _ _ _ _); exact .trans rfl hw)
    | ((with_reducible refine settleCredit_reach ?_ _); exact .trans rfl hw)
    | ((with_reducible refine modEngine_reach ?_ _ _); exact .trans rfl hw)
    | ((with_reducible refine modTask_reach ?_ _ _); exact .trans rfl hw)
    | ((with_reducible refine modRing_reach ?_ _ _); exact .trans rfl hw)
    | ((with_reducible refine taskFault_reach ?_ _ _ _ _); exact .trans rfl hw)
    | with_reducible intro _
    | split

theorem delayFire_reach {msk : Nat} (hw : Within 0x10FBA9 msk) (i : Nat) :
    M.All (Upd.In msk) (delayFire i) := by
  unfold delayFire
  repeat' first
    | (with_reducible first | exact .pure _ | exact .getS | refine .bind ?_ fun _ => ?_ | refine .ite ?_ ?_)
    | ((with_reducible refine modTally_reach ?_ _); exact .trans rfl hw)
    | ((with_reducible refine settleAll_reach ?_ _); exact .trans rfl hw)
    | ((with_reducible refine finish_reach ?_ _ _); exact .trans rfl hw)
    | with_reducible intro _
    | split

theorem tallyParams_reach {msk : Nat} (hw : Within 0x10FBA9 msk) (t : Nat) (k : Task) (go : List Byte → M Unit) (hgo : ∀ x0, M.All (Upd.In msk) (go x0)) :
    M.All (Upd.In msk) (tallyParams t k go) := by
  unfold tallyParams
  repeat' first
    | (with_reducible first | exact .pure _ | exact .getS | refine .bind ?_ fun _ => ?_ | refine .ite ?_ ?_)
    | ((with_reducible refine finish_reach ?_ _ _); exact .trans rfl hw)
    | ((with_reducible refine ctxRead_reach ?_ _ _ _ _); exact .trans rfl hw)
    | with_reducible apply_assumption -exfalso -symm
    | with_reducible assumption
    | with_reducible intro _
    | split

theorem delayTask_reach {msk : Nat} (hw : Within 0x10FBA9 msk) (t : Nat) :
    M.All (Upd.In msk) (delayTask t) := by
  unfold delayTask
  repeat' first
    | (with_reducible first | exact .pure _ | exact .getS | refine .bind ?_ fun _ => ?_ | refine .ite ?_ ?_)
    | ((with_reducible refine descriptorInvalid_reach ?_ _ _ _); exact .trans rfl hw)
    | ((with_reducible refine modTally_reach ?_ _); exact .trans rfl hw)
    | ((with_reducible refine raise_reach ?_ _ _ _ _); exact .trans rfl hw)
    | ((with_reducible refine tallyParams_reach ?_ _ _ _ ?_); on_goal 1 => exact .trans rfl hw)
    | ((with_reducible refine modTask_reach ?_ _ _); exact .trans rfl hw)
    | ((with_reducible refine finish_reach ?_ _ _); exact .trans rfl hw)
    | with_reducible intro _
    | split

theorem instantiateTask_reach {msk : Nat} (hw : Within 0x10FBA9 msk) (t : Nat) :
    M.All (Upd.In msk) (instantiateTask t) := by
  unfold instantiateTask
  repeat' first
    | (with_reducible first | exact .pure _ | exact .getS | refine .bind ?_ fun _ => ?_ | refine .ite ?_ ?_)
    | ((with_reducible refine descriptorInvalid_reach ?_ _ _ _); exact .trans rfl hw)
    | ((with_reducible refine tallyParams_reach ?_ _ _ _ ?_); on_goal 1 => exact .trans rfl hw)
    | ((with_reducible refine finish_reach ?_ _ _); exact .trans rfl hw)
    | ((with_reducible refine countInstance_reach ?_ _); exact .trans rfl hw)
    | ((with_reducible refine createInstance_reach ?_ _ _ _ _); exact .trans rfl hw)
    | with_reducible intro _
    | split

theorem postTask_reach {msk : Nat} (hw : Within 0x10FBA9 msk) (t : Nat) :
    M.All (Upd.In msk) (postTask t) := by
  unfold postTask
  repeat' first
    | (with_reducible first | exact .pure _ | exact .getS | refine .bind ?_ fun _ => ?_ | refine .ite ?_ ?_)
    | ((with_reducible refine descriptorInvalid_reach ?_ _ _ _); exact .trans rfl hw)
    | ((with_reducible refine tallyParams_reach ?_ _ _ _ ?_); on_goal 1 => exact .trans rfl hw)
    | ((with_reducible refine modTask_reach ?_ _ _); exact .trans rfl hw)
    | ((with_reducible refine finish_reach ?_ _ _); exact .trans rfl hw)
    | ((with_reducible refine appendNow_reach ?_ _ _ _ _); exact .trans rfl hw)
    | with_reducible intro _
    | split

theorem rejected_reach {msk : Nat} (hw : Within 0xABA9 msk) (h status field word : Nat) :
    M.All (Upd.In msk) (rejected h status field word) := by
  unfold rejected
  repeat' first
    | (with_reducible first | exact .pure _ | exact .getS | refine .bind ?_ fun _ => ?_ | refine .ite ?_ ?_)
    | ((with_reducible refine offerCtx_reach ?_ _ _); exact .trans rfl hw)
    | ((with_reducible refine raise_reach ?_ _ _ _ _); exact .trans rfl hw)
    | with_reducible intro _
    | split

theorem timeState_reach {msk : Nat} (hw : Within 0x400189 msk) (new : Nat) :
    M.All (Upd.In msk) (timeState new) := by
  unfold timeState
  repeat' first
    | (with_reducible first | exact .pure _ | exact .getS | refine .bind ?_ fun _ => ?_ | refine .ite ?_ ?_)
    | ((with_reducible refine raise_reach ?_ _ _ _ _); exact .trans rfl hw)
    | ((with_reducible refine modRadio_reach ?_ _); exact .trans rfl hw)
    | ((with_reducible refine wrFld_reach ?_ _ _ _); exact .trans rfl hw)
    | with_reducible intro _
    | split

theorem reloadTime_reach {msk : Nat} (hw : Within 0x4001C9 msk) :
    M.All (Upd.In msk) (reloadTime) := by
  unfold reloadTime
  repeat' first
    | (with_reducible first | exact .pure _ | exact .getS | refine .bind ?_ fun _ => ?_ | refine .ite ?_ ?_)
    | ((with_reducible refine .update ?_); exact .of hw rfl)
    | ((with_reducible refine timeState_reach ?_ _); exact .trans rfl hw)
    | with_reducible intro _
    | split

end Sys2Proof.Machine
end

