-- ==== Sys2Proof/Laws/ReachUnits.lean ====
section
/-! SUPPORT. Which components of the state the operations of one group reach: memory traffic, DMA, power, recovery, boot, the safety unit, the tests and the cameras. One lemma for each operation: every update it makes
lies in its mask, so every component outside the mask is as before. -/

set_option linter.unusedTactic false
set_option linter.unreachableTactic false
set_option linter.unusedVariables false
set_option linter.style.multiGoal false

namespace Sys2Proof.Machine

open Sys2Proof

theorem bistStatus_reach {msk : Nat} (hw : Within 0x8 msk) (busy unit phase : Nat) :
    M.All (Upd.In msk) (bistStatus busy unit phase) := by
  unfold bistStatus
  repeat' first
    | (with_reducible first | exact .pure _ | exact .getS | refine .bind ?_ fun _ => ?_ | refine .ite ?_ ?_)
    | ((with_reducible refine wrFld_reach ?_ _ _ _); exact .trans rfl hw)
    | with_reducible intro _
    | split

theorem beginTest_reach {msk : Nat} (hw : Within 0x18FBA9 msk) (u : Nat) :
    M.All (Upd.In msk) (beginTest u) := by
  unfold beginTest
  repeat' first
    | (with_reducible first | exact .pure _ | exact .getS | refine .bind ?_ fun _ => ?_ | refine .ite ?_ ?_ | refine .forIn _ _ _ fun _ _ => ?_)
    | ((with_reducible refine .update ?_); exact .of hw rfl)
    | ((with_reducible refine modEngine_reach ?_ _ _); exact .trans rfl hw)
    | ((with_reducible refine raise_reach ?_ _ _ _ _); exact .trans rfl hw)
    | ((with_reducible refine presenceChanged_reach ?_); exact .trans rfl hw)
    | ((with_reducible refine bistStatus_reach ?_ _ _ _); exact .trans rfl hw)
    | with_reducible intro _
    | split

theorem bistStart_reach {msk : Nat} (hw : Within 0x18FBA9 msk) (by_ : Requester) (u : Nat) :
    M.All (Upd.In msk) (bistStart by_ u) := by
  unfold bistStart
  repeat' first
    | (with_reducible first | exact .pure _ | exact .getS | refine .bind ?_ fun _ => ?_ | refine .ite ?_ ?_)
    | ((with_reducible refine beginTest_reach ?_ _); exact .trans rfl hw)
    | ((with_reducible refine refuseReg_reach ?_ _ _ _); exact .trans rfl hw)
    | with_reducible intro _
    | split

theorem endTest_reach {msk : Nat} (hw : Within 0x80008 msk) (u : Nat) (aborted : Bool) :
    M.All (Upd.In msk) (endTest u aborted) := by
  unfold endTest
  repeat' first
    | (with_reducible first | exact .pure _ | exact .getS | refine .bind ?_ fun _ => ?_ | refine .ite ?_ ?_)
    | ((with_reducible refine .update ?_); exact .of hw rfl)
    | ((with_reducible refine wrFld_reach ?_ _ _ _); exact .trans rfl hw)
    | ((with_reducible refine bistStatus_reach ?_ _ _ _); exact .trans rfl hw)
    | with_reducible intro _
    | split

theorem setMark_reach {msk : Nat} (hw : Within 0x80 msk) (mark : Nat) :
    M.All (Upd.In msk) (setMark mark) := by
  unfold setMark
  repeat' first
    | (with_reducible first | exact .pure _ | exact .getS | refine .bind ?_ fun _ => ?_ | refine .ite ?_ ?_)
    | ((with_reducible refine .update ?_); exact .of hw rfl)
    | with_reducible intro _
    | split

theorem training_reach {msk : Nat} (hw : Within 0x88 msk) (p : Nat) :
    M.All (Upd.In msk) (training p) := by
  unfold training
  repeat' first
    | (with_reducible first | exact .pure _ | exact .getS | refine .bind ?_ fun _ => ?_ | refine .ite ?_ ?_ | refine .forIn _ _ _ fun _ _ => ?_)
    | ((with_reducible refine setMark_reach ?_ _); exact .trans rfl hw)
    | ((with_reducible refine wrFld_reach ?_ _ _ _); exact .trans rfl hw)
    | with_reducible intro _
    | split

theorem restoreRegs_reach {msk : Nat} (hw : Within 0x208 msk) (saved : Tbl Word) :
    M.All (Upd.In msk) (restoreRegs saved) := by
  unfold restoreRegs
  repeat' first
    | (with_reducible first | exact .pure _ | exact .getS | refine .bind ?_ fun _ => ?_ | refine .ite ?_ ?_ | refine .forIn _ _ _ fun _ _ => ?_)
    | ((with_reducible refine modEngine_reach ?_ _ _); exact .trans rfl hw)
    | ((with_reducible refine wrFld_reach ?_ _ _ _); exact .trans rfl hw)
    | with_reducible intro _
    | split

theorem restoreUnit_reach {msk : Nat} (hw : Within 0xF0FFAF msk) (u : Nat) :
    M.All (Upd.In msk) (restoreUnit u) := by
  unfold restoreUnit
  repeat' first
    | (with_reducible first | exact .pure _ | exact .getS | refine .bind ?_ fun _ => ?_ | refine .ite ?_ ?_ | refine .forIn _ _ _ fun _ _ => ?_)
    | ((with_reducible refine .update ?_); exact .of hw rfl)
    | ((with_reducible refine modEngine_reach ?_ _ _); exact .trans rfl hw)
    | ((with_reducible refine resumeFenceHolds_reach ?_ _); exact .trans rfl hw)
    | ((with_reducible refine training_reach ?_ _); exact .trans rfl hw)
    | ((with_reducible refine resetPart_reach ?_ _); exact .trans rfl hw)
    | ((with_reducible refine restoreRegs_reach ?_ _); exact .trans rfl hw)
    | ((with_reducible refine presenceChanged_reach ?_); exact .trans rfl hw)
    | ((with_reducible refine wrFld_reach ?_ _ _ _); exact .trans rfl hw)
    | with_reducible intro _
    | split

theorem bistDrainLimit_reach {msk : Nat} (hw : Within 0x30FFA9 msk) :
    M.All (Upd.In msk) (bistDrainLimit) := by
  unfold bistDrainLimit
  repeat' first
    | (with_reducible first | exact .pure _ | exact .getS | refine .bind ?_ fun _ => ?_ | refine .ite ?_ ?_ | refine .forIn _ _ _ fun _ _ => ?_)
    | ((with_reducible refine .update ?_); exact .of hw rfl)
    | ((with_reducible refine drainDma_reach ?_ _); exact .trans rfl hw)
    | ((with_reducible refine interruptEngines_reach ?_ _ _); exact .trans rfl hw)
    | ((with_reducible refine jesdDown_reach ?_); exact .trans rfl hw)
    | ((with_reducible refine selfRefresh_reach ?_ _); exact .trans rfl hw)
    | ((with_reducible refine camerasDown_reach ?_); exact .trans rfl hw)
    | ((with_reducible refine wrFld_reach ?_ _ _ _); exact .trans rfl hw)
    | ((with_reducible refine bistStatus_reach ?_ _ _ _); exact .trans rfl hw)
    | with_reducible intro _
    | split

theorem noteRetry_reach {msk : Nat} (hw : Within 0x80000 msk) (u : Nat) (valid : Bool) :
    M.All (Upd.In msk) (noteRetry u valid) := by
  unfold noteRetry
  repeat' first
    | (with_reducible first | exact .pure _ | exact .getS | refine .bind ?_ fun _ => ?_ | refine .ite ?_ ?_)
    | ((with_reducible refine .update ?_); exact .of hw rfl)
    | with_reducible intro _
    | split

theorem safeUnitFailed_reach {msk : Nat} (hw : Within 0x104189 msk) :
    M.All (Upd.In msk) (safeUnitFailed) := by
  unfold safeUnitFailed
  repeat' first
    | (with_reducible first | exact .pure _ | exact .getS | refine .bind ?_ fun _ => ?_ | refine .ite ?_ ?_ | refine .forIn _ _ _ fun _ _ => ?_)
    | ((with_reducible refine enterSafe_reach ?_ _ _ _ _); exact .trans rfl hw)
    | ((with_reducible refine drivePins_reach ?_); exact .trans rfl hw)
    | with_reducible intro _
    | split

theorem unitTested_reach {msk : Nat} (hw : Within 0x80389 msk) (u : Nat) (portBad bodyBad : Bool) (inService since : Nat) (sig : Nat) :
    M.All (Upd.In msk) (unitTested u portBad bodyBad inService since sig) := by
  unfold unitTested
  repeat' first
    | (with_reducible first | exact .pure _ | exact .getS | refine .bind ?_ fun _ => ?_ | refine .ite ?_ ?_ | refine .forIn _ _ _ fun _ _ => ?_)
    | ((with_reducible refine .update ?_); exact .of hw rfl)
    | ((with_reducible refine modEngine_reach ?_ _ _); exact .trans rfl hw)
    | ((with_reducible refine raise_reach ?_ _ _ _ _); exact .trans rfl hw)
    | ((with_reducible refine wrFld_reach ?_ _ _ _); exact .trans rfl hw)
    | with_reducible intro _
    | split

theorem lbistComplete_reach {msk : Nat} (hw : Within 0x184389 msk) (misrPort misrBody : Word) (broken worst : Nat) :
    M.All (Upd.In msk) (lbistComplete misrPort misrBody broken worst) := by
  unfold lbistComplete
  repeat' first
    | (with_reducible first | exact .pure _ | exact .getS | refine .bind ?_ fun _ => ?_ | refine .ite ?_ ?_)
    | ((with_reducible refine .update ?_); exact .of hw rfl)
    | ((with_reducible refine wrFld_reach ?_ _ _ _); exact .trans rfl hw)
    | ((with_reducible refine noteRetry_reach ?_ _ _); exact .trans rfl hw)
    | ((with_reducible refine raise_reach ?_ _ _ _ _); exact .trans rfl hw)
    | ((with_reducible refine safeUnitFailed_reach ?_); exact .trans rfl hw)
    | ((with_reducible refine unitTested_reach ?_ _ _ _ _ _ _); exact .trans rfl hw)
    | ((with_reducible refine wrReg_reach ?_ _ _); exact .trans rfl hw)
    | ((with_reducible refine bistStatus_reach ?_ _ _ _); exact .trans rfl hw)
    | with_reducible intro _
    | split

theorem macroFailed_reach {msk : Nat} (hw : Within 0x80381 msk) (m : Nat) :
    M.All (Upd.In msk) (macroFailed m) := by
  unfold macroFailed
  repeat' first
    | (with_reducible first | exact .pure _ | exact .getS | refine .bind ?_ fun _ => ?_ | refine .ite ?_ ?_)
    | ((with_reducible refine .update ?_); exact .of hw rfl)
    | ((with_reducible refine modEngine_reach ?_ _ _); exact .trans rfl hw)
    | ((with_reducible refine raise_reach ?_ _ _ _ _); exact .trans rfl hw)
    | with_reducible intro _
    | split

theorem mbistComplete_reach {msk : Nat} (hw : Within 0xF8FFAF msk) (failing : List Nat) :
    M.All (Upd.In msk) (mbistComplete failing) := by
  unfold mbistComplete
  repeat' first
    | (with_reducible first | exact .pure _ | exact .getS | refine .bind ?_ fun _ => ?_ | refine .ite ?_ ?_ | refine .forIn _ _ _ fun _ _ => ?_)
    | ((with_reducible refine .update ?_); exact .of hw rfl)
    | ((with_reducible refine endTest_reach ?_ _ _); exact .trans rfl hw)
    | ((with_reducible refine modEngine_reach ?_ _ _); exact .trans rfl hw)
    | ((with_reducible refine restoreUnit_reach ?_ _); exact .trans rfl hw)
    | ((with_reducible refine presenceChanged_reach ?_); exact .trans rfl hw)
    | ((with_reducible refine macroFailed_reach ?_ _); exact .trans rfl hw)
    | ((with_reducible refine wrFld_reach ?_ _ _ _); exact .trans rfl hw)
    | ((with_reducible refine bistStatus_reach ?_ _ _ _); exact .trans rfl hw)
    | with_reducible intro _
    | split

theorem bistAbort_reach {msk : Nat} (hw : Within 0xF8FFAF msk) (by_ : Requester) :
    M.All (Upd.In msk) (bistAbort by_) := by
  unfold bistAbort
  repeat' first
    | (with_reducible first | exact .pure _ | exact .getS | refine .bind ?_ fun _ => ?_ | refine .ite ?_ ?_ | refine .forIn _ _ _ fun _ _ => ?_)
    | ((with_reducible refine .update ?_); exact .of hw rfl)
    | ((with_reducible refine endTest_reach ?_ _ _); exact .trans rfl hw)
    | ((with_reducible refine refuseReg_reach ?_ _ _ _); exact .trans rfl hw)
    | ((with_reducible refine modEngine_reach ?_ _ _); exact .trans rfl hw)
    | ((with_reducible refine restoreUnit_reach ?_ _); exact .trans rfl hw)
    | ((with_reducible refine presenceChanged_reach ?_); exact .trans rfl hw)
    | ((with_reducible refine bistStatus_reach ?_ _ _ _); exact .trans rfl hw)
    | with_reducible intro _
    | split

theorem rotationDue_reach {msk : Nat} (hw : Within 0x18FBA9 msk) :
    M.All (Upd.In msk) (rotationDue) := by
  unfold rotationDue
  repeat' first
    | (with_reducible first | exact .pure _ | exact .getS | refine .bind ?_ fun _ => ?_ | refine .ite ?_ ?_)
    | ((with_reducible refine beginTest_reach ?_ _); exact .trans rfl hw)
    | with_reducible intro _
    | split

theorem bistRetry_reach {msk : Nat} (hw : Within 0x18FBA9 msk) :
    M.All (Upd.In msk) (bistRetry) := by
  unfold bistRetry
  repeat' first
    | (with_reducible first | exact .pure _ | exact .getS | refine .bind ?_ fun _ => ?_ | refine .ite ?_ ?_)
    | ((with_reducible refine .update ?_); exact .of hw rfl)
    | ((with_reducible refine beginTest_reach ?_ _); exact .trans rfl hw)
    | with_reducible intro _
    | split

theorem bistBypassWrite_reach {msk : Nat} (hw : Within 0x18FBA9 msk) (by_ : Requester) (v : Nat) :
    M.All (Upd.In msk) (bistBypassWrite by_ v) := by
  unfold bistBypassWrite
  repeat' first
    | (with_reducible first | exact .pure _ | exact .getS | refine .bind ?_ fun _ => ?_ | refine .ite ?_ ?_ | refine .forIn _ _ _ fun _ _ => ?_)
    | ((with_reducible refine .update ?_); exact .of hw rfl)
    | ((with_reducible refine refuseReg_reach ?_ _ _ _); exact .trans rfl hw)
    | ((with_reducible refine modEngine_reach ?_ _ _); exact .trans rfl hw)
    | ((with_reducible refine presenceChanged_reach ?_); exact .trans rfl hw)
    | ((with_reducible refine wrFld_reach ?_ _ _ _); exact .trans rfl hw)
    | with_reducible intro _
    | split

theorem modSec_reach {msk : Nat} (hw : Within 0x40000 msk) (f : Security → Security) :
    M.All (Upd.In msk) (modSec f) := by
  unfold modSec
  repeat' first
    | (with_reducible first | exact .pure _ | exact .getS | refine .bind ?_ fun _ => ?_ | refine .ite ?_ ?_)
    | ((with_reducible refine .update ?_); exact .of hw rfl)
    | with_reducible intro _
    | split

theorem imageRejected_reach {msk : Nat} (hw : Within 0x181 msk) (ty slot why : Nat) (i : Option Image) :
    M.All (Upd.In msk) (imageRejected ty slot why i) := by
  unfold imageRejected
  repeat' first
    | (with_reducible first | exact .pure _ | exact .getS | refine .bind ?_ fun _ => ?_ | refine .ite ?_ ?_)
    | ((with_reducible refine raise_reach ?_ _ _ _ _); exact .trans rfl hw)
    | with_reducible intro _
    | split

theorem extend_reach {msk : Nat} (hw : Within 0x40000 msk) (i : Nat) (m : List Byte) :
    M.All (Upd.In msk) (extend i m) := by
  unfold extend
  repeat' first
    | (with_reducible first | exact .pure _ | exact .getS | refine .bind ?_ fun _ => ?_ | refine .ite ?_ ?_)
    | ((with_reducible refine modSec_reach ?_ _); exact .trans rfl hw)
    | with_reducible intro _
    | split

theorem enterBivouac_reach {msk : Nat} (hw : Within 0x10FBA9 msk) :
    M.All (Upd.In msk) (enterBivouac) := by
  unfold enterBivouac
  repeat' first
    | (with_reducible first | exact .pure _ | exact .getS | refine .bind ?_ fun _ => ?_ | refine .ite ?_ ?_ | refine .forIn _ _ _ fun _ _ => ?_)
    | ((with_reducible refine .update ?_); exact .of hw rfl)
    | ((with_reducible refine modTally_reach ?_ _); exact .trans rfl hw)
    | ((with_reducible refine raise_reach ?_ _ _ _ _); exact .trans rfl hw)
    | ((with_reducible refine presenceChanged_reach ?_); exact .trans rfl hw)
    | ((with_reducible refine selfRefresh_reach ?_ _); exact .trans rfl hw)
    | with_reducible intro _
    | split

theorem bootFails_reach {msk : Nat} (hw : Within 0x14FBA9 msk) (noImage : Bool) :
    M.All (Upd.In msk) (bootFails noImage) := by
  unfold bootFails
  repeat' first
    | (with_reducible first | exact .pure _ | exact .getS | refine .bind ?_ fun _ => ?_ | refine .ite ?_ ?_)
    | ((with_reducible refine modSec_reach ?_ _); exact .trans rfl hw)
    | ((with_reducible refine enterBivouac_reach ?_); exact .trans rfl hw)
    | ((with_reducible refine wrFld_reach ?_ _ _ _); exact .trans rfl hw)
    | with_reducible intro _
    | split

theorem trySlots_reach {msk : Nat} (hw : Within 0x181 msk) (ty : Nat) (slots : List Nat) (get : Nat → Option Image) :
    M.All (Upd.In msk) (trySlots ty slots get) := by
  unfold trySlots
  repeat' first
    | (with_reducible first | exact .pure _ | exact .getS | refine .bind ?_ fun _ => ?_ | refine .ite ?_ ?_ | refine .forIn _ _ _ fun _ _ => ?_)
    | ((with_reducible refine imageRejected_reach ?_ _ _ _ _); exact .trans rfl hw)
    | with_reducible intro _
    | split

theorem createEventQueue_reach {msk : Nat} (hw : Within 0x100 msk) (ring : Nat) :
    M.All (Upd.In msk) (createEventQueue ring) := by
  unfold createEventQueue
  repeat' first
    | (with_reducible first | exact .pure _ | exact .getS | refine .bind ?_ fun _ => ?_ | refine .ite ?_ ?_)
    | ((with_reducible refine modTally_reach ?_ _); exact .trans rfl hw)
    | with_reducible intro _
    | split

theorem startupTest_reach {msk : Nat} (hw : Within 0x8038B msk) (port body : Nat) (macros : List Nat) :
    M.All (Upd.In msk) (startupTest port body macros) := by
  unfold startupTest
  repeat' first
    | (with_reducible first | exact .pure _ | exact .getS | refine .bind ?_ fun _ => ?_ | refine .ite ?_ ?_ | refine .forIn _ _ _ fun _ _ => ?_)
    | ((with_reducible refine .update ?_); exact .of hw rfl)
    | ((with_reducible refine unitTested_reach ?_ _ _ _ _ _ _); exact .trans rfl hw)
    | ((with_reducible refine macroFailed_reach ?_ _); exact .trans rfl hw)
    | ((with_reducible refine wrFld_reach ?_ _ _ _); exact .trans rfl hw)
    | with_reducible intro _
    | split

theorem modPower_reach {msk : Nat} (hw : Within 0x10000 msk) (f : PowerSys → PowerSys) :
    M.All (Upd.In msk) (modPower f) := by
  unfold modPower
  repeat' first
    | (with_reducible first | exact .pure _ | exact .getS | refine .bind ?_ fun _ => ?_ | refine .ite ?_ ?_)
    | ((with_reducible refine .update ?_); exact .of hw rfl)
    | with_reducible intro _
    | split

theorem powerDomains_reach {msk : Nat} (hw : Within 0x10080 msk) :
    M.All (Upd.In msk) (powerDomains) := by
  unfold powerDomains
  repeat' first
    | (with_reducible first | exact .pure _ | exact .getS | refine .bind ?_ fun _ => ?_ | refine .ite ?_ ?_)
    | ((with_reducible refine .update ?_); exact .of hw rfl)
    | ((with_reducible refine modPower_reach ?_ _); exact .trans rfl hw)
    | with_reducible intro _
    | split

theorem setAvs_reach {msk : Nat} (hw : Within 0x8 msk) :
    M.All (Upd.In msk) (setAvs) := by
  unfold setAvs
  repeat' first
    | (with_reducible first | exact .pure _ | exact .getS | refine .bind ?_ fun _ => ?_ | refine .ite ?_ ?_)
    | ((with_reducible refine wrFld_reach ?_ _ _ _); exact .trans rfl hw)
    | with_reducible intro _
    | split

theorem setLocked_reach {msk : Nat} (hw : Within 0x8 msk) (ds : List Nat) (on : Bool) :
    M.All (Upd.In msk) (setLocked ds on) := by
  unfold setLocked
  repeat' first
    | (with_reducible first | exact .pure _ | exact .getS | refine .bind ?_ fun _ => ?_ | refine .ite ?_ ?_)
    | ((with_reducible refine wrFld_reach ?_ _ _ _); exact .trans rfl hw)
    | with_reducible intro _
    | split

theorem bootRest_reach {msk : Nat} (hw : Within 0x1FFBAB msk) (port body : Nat) (macros : List Nat) :
    M.All (Upd.In msk) (bootRest port body macros) := by
  unfold bootRest
  repeat' first
    | (with_reducible first | exact .pure _ | exact .getS | refine .bind ?_ fun _ => ?_ | refine .ite ?_ ?_ | refine .forIn _ _ _ fun _ _ => ?_)
    | ((with_reducible refine .update ?_); exact .of hw rfl)
    | ((with_reducible refine trySlots_reach ?_ _ _ _); exact .trans rfl hw)
    | ((with_reducible refine modPower_reach ?_ _); exact .trans rfl hw)
    | ((with_reducible refine modTally_reach ?_ _); exact .trans rfl hw)
    | ((with_reducible refine imageRejected_reach ?_ _ _ _ _); exact .trans rfl hw)
    | ((with_reducible refine modSec_reach ?_ _); exact .trans rfl hw)
    | ((with_reducible refine powerDomains_reach ?_); exact .trans rfl hw)
    | ((with_reducible refine training_reach ?_ _); exact .trans rfl hw)
    | ((with_reducible refine raise_reach ?_ _ _ _ _); exact .trans rfl hw)
    | ((with_reducible refine setAvs_reach ?_); exact .trans rfl hw)
    | ((with_reducible refine setLocked_reach ?_ _ _); exact .trans rfl hw)
    | ((with_reducible refine bootFails_reach ?_ _); exact .trans rfl hw)
    | ((with_reducible refine enterBivouac_reach ?_); exact .trans rfl hw)
    | ((with_reducible refine drivePins_reach ?_); exact .trans rfl hw)
    | ((with_reducible refine presenceChanged_reach ?_); exact .trans rfl hw)
    | ((with_reducible refine startupTest_reach ?_ _ _ _); exact .trans rfl hw)
    | ((with_reducible refine extend_reach ?_ _ _); exact .trans rfl hw)
    | ((with_reducible refine wrFld_reach ?_ _ _ _); exact .trans rfl hw)
    | with_reducible intro _
    | split

theorem boot_reach {msk : Nat} (hw : Within 0x1FFBAB msk) (port body : Nat) (macros : List Nat) (ring : Nat) :
    M.All (Upd.In msk) (boot port body macros ring) := by
  unfold boot
  repeat' first
    | (with_reducible first | exact .pure _ | exact .getS | refine .bind ?_ fun _ => ?_ | refine .ite ?_ ?_)
    | ((with_reducible refine .update ?_); exact .of hw rfl)
    | ((with_reducible refine wrFld_reach ?_ _ _ _); exact .trans rfl hw)
    | ((with_reducible refine trySlots_reach ?_ _ _ _); exact .trans rfl hw)
    | ((with_reducible refine createEventQueue_reach ?_ _); exact .trans rfl hw)
    | ((with_reducible refine bootRest_reach ?_ _ _ _); exact .trans rfl hw)
    | ((with_reducible refine freshBytes_reach ?_ _); exact .trans rfl hw)
    | ((with_reducible refine modSec_reach ?_ _); exact .trans rfl hw)
    | ((with_reducible refine bootFails_reach ?_ _); exact .trans rfl hw)
    | ((with_reducible refine raise_reach ?_ _ _ _ _); exact .trans rfl hw)
    | ((with_reducible refine extend_reach ?_ _ _); exact .trans rfl hw)
    | ((with_reducible refine wrReg_reach ?_ _ _); exact .trans rfl hw)
    | with_reducible intro _
    | split

theorem secRead_reach {msk : Nat} (hw : Within 0xBA9 msk) (a n : Nat) :
    M.All (Upd.In msk) (secRead a n) := by
  unfold secRead
  repeat' first
    | (with_reducible first | exact .pure _ | exact .getS | refine .bind ?_ fun _ => ?_ | refine .ite ?_ ?_)
    | ((with_reducible refine physReadAll_reach ?_ _ _ _); exact .trans rfl hw)
    | with_reducible intro _
    | split

theorem measurementExtend_reach {msk : Nat} (hw : Within 0x40BA9 msk) (by_ : Requester) (layer addr : Nat) :
    M.All (Upd.In msk) (measurementExtend by_ layer addr) := by
  unfold measurementExtend
  repeat' first
    | (with_reducible first | exact .pure _ | exact .getS | refine .bind ?_ fun _ => ?_ | refine .ite ?_ ?_)
    | ((with_reducible refine refuseReg_reach ?_ _ _ _); exact .trans rfl hw)
    | ((with_reducible refine extend_reach ?_ _ _); exact .trans rfl hw)
    | ((with_reducible refine secRead_reach ?_ _ _); exact .trans rfl hw)
    | with_reducible intro _
    | split

theorem attestationRequest_reach {msk : Nat} (hw : Within 0x40BA9 msk) (by_ : Requester) (addr : Nat) :
    M.All (Upd.In msk) (attestationRequest by_ addr) := by
  unfold attestationRequest
  repeat' first
    | (with_reducible first | exact .pure _ | exact .getS | refine .bind ?_ fun _ => ?_ | refine .ite ?_ ?_)
    | ((with_reducible refine refuseReg_reach ?_ _ _ _); exact .trans rfl hw)
    | ((with_reducible refine modSec_reach ?_ _); exact .trans rfl hw)
    | ((with_reducible refine secRead_reach ?_ _ _); exact .trans rfl hw)
    | ((with_reducible refine wrFld_reach ?_ _ _ _); exact .trans rfl hw)
    | with_reducible intro _
    | split

theorem attestationDone_reach {msk : Nat} (hw : Within 0x40B89 msk) :
    M.All (Upd.In msk) (attestationDone) := by
  unfold attestationDone
  repeat' first
    | (with_reducible first | exact .pure _ | exact .getS | refine .bind ?_ fun _ => ?_ | refine .ite ?_ ?_)
    | ((with_reducible refine modSec_reach ?_ _); exact .trans rfl hw)
    | ((with_reducible refine wrFld_reach ?_ _ _ _); exact .trans rfl hw)
    | ((with_reducible refine physWriteAll_reach ?_ _ _ _); exact .trans rfl hw)
    | with_reducible intro _
    | split

theorem setUpd_reach {msk : Nat} (hw : Within 0x40008 msk) (n : Nat) :
    M.All (Upd.In msk) (setUpd n) := by
  unfold setUpd
  repeat' first
    | (with_reducible first | exact .pure _ | exact .getS | refine .bind ?_ fun _ => ?_ | refine .ite ?_ ?_)
    | ((with_reducible refine modSec_reach ?_ _); exact .trans rfl hw)
    | ((with_reducible refine wrFld_reach ?_ _ _ _); exact .trans rfl hw)
    | with_reducible intro _
    | split

theorem firmwareUpdate_reach {msk : Nat} (hw : Within 0x40BA9 msk) (by_ : Requester) (addr : Nat) :
    M.All (Upd.In msk) (firmwareUpdate by_ addr) := by
  unfold firmwareUpdate
  repeat' first
    | (with_reducible first | exact .pure _ | exact .getS | refine .bind ?_ fun _ => ?_ | refine .ite ?_ ?_)
    | ((with_reducible refine refuseReg_reach ?_ _ _ _); exact .trans rfl hw)
    | ((with_reducible refine modSec_reach ?_ _); exact .trans rfl hw)
    | ((with_reducible refine secRead_reach ?_ _ _); exact .trans rfl hw)
    | ((with_reducible refine wrFld_reach ?_ _ _ _); exact .trans rfl hw)
    | with_reducible intro _
    | split

theorem updateVerified_reach {msk : Nat} (hw : Within 0x40189 msk) :
    M.All (Upd.In msk) (updateVerified) := by
  unfold updateVerified
  repeat' first
    | fail_if_no_progress beta_reduce
    | (extract_lets +onlyGivenNames jp
       first
       | (refine (fun hj : ∀ x, M.All (Upd.In msk) (jp x) => ?_) (fun x => ?_)
          on_goal 2 => (dsimp -zeta only [jp]; clear jp)
          on_goal 1 => clear_value jp)
       | clear_value jp)
    | (with_reducible first | exact .pure _ | exact .getS | refine .bind ?_ fun _ => ?_ | refine .ite ?_ ?_)
    | ((with_reducible refine setUpd_reach ?_ _); exact .trans rfl hw)
    | ((with_reducible refine imageRejected_reach ?_ _ _ _ _); exact .trans rfl hw)
    | with_reducible apply_assumption -exfalso -symm
    | with_reducible intro _
    | split

theorem updateWritten_reach {msk : Nat} (hw : Within 0x60008 msk) (ok : Bool) :
    M.All (Upd.In msk) (updateWritten ok) := by
  unfold updateWritten
  repeat' first
    | (with_reducible first | exact .pure _ | exact .getS | refine .bind ?_ fun _ => ?_ | refine .ite ?_ ?_)
    | ((with_reducible refine .update ?_); exact .of hw rfl)
    | ((with_reducible refine modSec_reach ?_ _); exact .trans rfl hw)
    | ((with_reducible refine setUpd_reach ?_ _); exact .trans rfl hw)
    | ((with_reducible refine wrFld_reach ?_ _ _ _); exact .trans rfl hw)
    | with_reducible intro _
    | split

theorem quiescentTick_reach {msk : Nat} (hw : Within 0x40808 msk) :
    M.All (Upd.In msk) (quiescentTick) := by
  unfold quiescentTick
  repeat' first
    | (with_reducible first | exact .pure _ | exact .getS | refine .bind ?_ fun _ => ?_ | refine .ite ?_ ?_)
    | ((with_reducible refine .update ?_); exact .of hw rfl)
    | ((with_reducible refine modSec_reach ?_ _); exact .trans rfl hw)
    | ((with_reducible refine setUpd_reach ?_ _); exact .trans rfl hw)
    | ((with_reducible refine extend_reach ?_ _ _); exact .trans rfl hw)
    | with_reducible intro _
    | split

theorem updateCommit_reach {msk : Nat} (hw : Within 0x60189 msk) :
    M.All (Upd.In msk) (updateCommit) := by
  unfold updateCommit
  repeat' first
    | (with_reducible first | exact .pure _ | exact .getS | refine .bind ?_ fun _ => ?_ | refine .ite ?_ ?_)
    | ((with_reducible refine .update ?_); exact .of hw rfl)
    | ((with_reducible refine modSec_reach ?_ _); exact .trans rfl hw)
    | ((with_reducible refine raise_reach ?_ _ _ _ _); exact .trans rfl hw)
    | ((with_reducible refine wrFld_reach ?_ _ _ _); exact .trans rfl hw)
    | with_reducible intro _
    | split

theorem revertUpdate_reach {msk : Nat} (hw : Within 0x40189 msk) (why : Nat) :
    M.All (Upd.In msk) (revertUpdate why) := by
  unfold revertUpdate
  repeat' first
    | (with_reducible first | exact .pure _ | exact .getS | refine .bind ?_ fun _ => ?_ | refine .ite ?_ ?_)
    | ((with_reducible refine .update ?_); exact .of hw rfl)
    | ((with_reducible refine raise_reach ?_ _ _ _ _); exact .trans rfl hw)
    | ((with_reducible refine wrFld_reach ?_ _ _ _); exact .trans rfl hw)
    | with_reducible intro _
    | split

theorem restartBlock_reach {msk : Nat} (hw : Within 0x30FFA9 msk) (sc : Scope) (cause : Nat) :
    M.All (Upd.In msk) (restartBlock sc cause) := by
  unfold restartBlock
  repeat' first
    | (with_reducible first | exact .pure _ | exact .getS | refine .bind ?_ fun _ => ?_ | refine .ite ?_ ?_)
    | ((with_reducible refine beginReset_reach ?_ _ _ _ _ _); exact .trans rfl hw)
    | with_reducible intro _
    | split

theorem updateRevert_reach {msk : Nat} (hw : Within 0x34FFA9 msk) :
    M.All (Upd.In msk) (updateRevert) := by
  unfold updateRevert
  repeat' first
    | (with_reducible first | exact .pure _ | exact .getS | refine .bind ?_ fun _ => ?_ | refine .ite ?_ ?_)
    | ((with_reducible refine modSec_reach ?_ _); exact .trans rfl hw)
    | ((with_reducible refine revertUpdate_reach ?_ _); exact .trans rfl hw)
    | ((with_reducible refine restartBlock_reach ?_ _ _); exact .trans rfl hw)
    | with_reducible intro _
    | split

theorem svnCommit_reach {msk : Nat} (hw : Within 0x20181 msk) (by_ : Requester) (ty bit : Nat) :
    M.All (Upd.In msk) (svnCommit by_ ty bit) := by
  unfold svnCommit
  repeat' first
    | (with_reducible first | exact .pure _ | exact .getS | refine .bind ?_ fun _ => ?_ | refine .ite ?_ ?_)
    | ((with_reducible refine .update ?_); exact .of hw rfl)
    | ((with_reducible refine refuseReg_reach ?_ _ _ _); exact .trans rfl hw)
    | with_reducible intro _
    | split

theorem leaveBivouac_reach {msk : Nat} (hw : Within 0x10FBA9 msk) (how : Nat) :
    M.All (Upd.In msk) (leaveBivouac how) := by
  unfold leaveBivouac
  repeat' first
    | (with_reducible first | exact .pure _ | exact .getS | refine .bind ?_ fun _ => ?_ | refine .ite ?_ ?_ | refine .forIn _ _ _ fun _ _ => ?_)
    | ((with_reducible refine .update ?_); exact .of hw rfl)
    | ((with_reducible refine modTally_reach ?_ _); exact .trans rfl hw)
    | ((with_reducible refine resumeFenceHolds_reach ?_ _); exact .trans rfl hw)
    | ((with_reducible refine training_reach ?_ _); exact .trans rfl hw)
    | ((with_reducible refine raise_reach ?_ _ _ _ _); exact .trans rfl hw)
    | ((with_reducible refine drivePins_reach ?_); exact .trans rfl hw)
    | ((with_reducible refine presenceChanged_reach ?_); exact .trans rfl hw)
    | ((with_reducible refine wrFld_reach ?_ _ _ _); exact .trans rfl hw)
    | with_reducible intro _
    | split

theorem returnToService_reach {msk : Nat} (hw : Within 0x10FBA9 msk) (by_ : Requester) (addr : Nat) :
    M.All (Upd.In msk) (returnToService by_ addr) := by
  unfold returnToService
  repeat' first
    | (with_reducible first | exact .pure _ | exact .getS | refine .bind ?_ fun _ => ?_ | refine .ite ?_ ?_)
    | ((with_reducible refine .update ?_); exact .of hw rfl)
    | ((with_reducible refine freshBytes_reach ?_ _); exact .trans rfl hw)
    | ((with_reducible refine refuseReg_reach ?_ _ _ _); exact .trans rfl hw)
    | ((with_reducible refine leaveBivouac_reach ?_ _); exact .trans rfl hw)
    | ((with_reducible refine raise_reach ?_ _ _ _ _); exact .trans rfl hw)
    | ((with_reducible refine secRead_reach ?_ _ _); exact .trans rfl hw)
    | ((with_reducible refine wrReg_reach ?_ _ _); exact .trans rfl hw)
    | with_reducible intro _
    | split

theorem debugChallenge_reach {msk : Nat} (hw : Within 0x40030 msk) :
    M.All (Upd.In msk) (debugChallenge) := by
  unfold debugChallenge
  repeat' first
    | (with_reducible first | exact .pure _ | exact .getS | refine .bind ?_ fun _ => ?_ | refine .ite ?_ ?_)
    | ((with_reducible refine answer_reach ?_ _ _); exact .trans rfl hw)
    | ((with_reducible refine freshBytes_reach ?_ _); exact .trans rfl hw)
    | ((with_reducible refine modSec_reach ?_ _); exact .trans rfl hw)
    | with_reducible intro _
    | split

theorem debugResponse_reach {msk : Nat} (hw : Within 0x40199 msk) (data : List Byte) :
    M.All (Upd.In msk) (debugResponse data) := by
  unfold debugResponse
  repeat' first
    | (with_reducible first | exact .pure _ | exact .getS | refine .bind ?_ fun _ => ?_ | refine .ite ?_ ?_)
    | ((with_reducible refine answer_reach ?_ _ _); exact .trans rfl hw)
    | ((with_reducible refine modSec_reach ?_ _); exact .trans rfl hw)
    | ((with_reducible refine raise_reach ?_ _ _ _ _); exact .trans rfl hw)
    | ((with_reducible refine extend_reach ?_ _ _); exact .trans rfl hw)
    | ((with_reducible refine wrFld_reach ?_ _ _ _); exact .trans rfl hw)
    | with_reducible intro _
    | split

theorem extest_reach {msk : Nat} (hw : Within 0x4110 msk) (pins : Nat) :
    M.All (Upd.In msk) (extest pins) := by
  unfold extest
  repeat' first
    | (with_reducible first | exact .pure _ | exact .getS | refine .bind ?_ fun _ => ?_ | refine .ite ?_ ?_)
    | ((with_reducible refine .update ?_); exact .of hw rfl)
    | ((with_reducible refine answer_reach ?_ _ _); exact .trans rfl hw)
    | ((with_reducible refine modTally_reach ?_ _); exact .trans rfl hw)
    | with_reducible intro _
    | split

theorem extestExit_reach {msk : Nat} (hw : Within 0x30FFB9 msk) :
    M.All (Upd.In msk) (extestExit) := by
  unfold extestExit
  repeat' first
    | (with_reducible first | exact .pure _ | exact .getS | refine .bind ?_ fun _ => ?_ | refine .ite ?_ ?_)
    | ((with_reducible refine .update ?_); exact .of hw rfl)
    | ((with_reducible refine extest_reach ?_ _); exact .trans rfl hw)
    | ((with_reducible refine trigger_reach ?_ _ _ _ _ _); exact .trans rfl hw)
    | ((with_reducible refine drivePins_reach ?_); exact .trans rfl hw)
    | with_reducible intro _
    | split

theorem dropFrame_reach {msk : Nat} (hw : Within 0x200181 msk) (c : Nat) :
    M.All (Upd.In msk) (dropFrame c) := by
  unfold dropFrame
  repeat' first
    | (with_reducible first | exact .pure _ | exact .getS | refine .bind ?_ fun _ => ?_ | refine .ite ?_ ?_)
    | ((with_reducible refine modFrame_reach ?_ _ _); exact .trans rfl hw)
    | ((with_reducible refine raise_reach ?_ _ _ _ _); exact .trans rfl hw)
    | with_reducible intro _
    | split

theorem inlineMiss_reach {msk : Nat} (hw : Within 0x200BA9 msk) (c : Nat) :
    M.All (Upd.In msk) (inlineMiss c) := by
  unfold inlineMiss
  repeat' first
    | (with_reducible first | exact .pure _ | exact .getS | refine .bind ?_ fun _ => ?_ | refine .ite ?_ ?_ | refine .forIn _ _ _ fun _ _ => ?_)
    | ((with_reducible refine modFrame_reach ?_ _ _); exact .trans rfl hw)
    | ((with_reducible refine raise_reach ?_ _ _ _ _); exact .trans rfl hw)
    | ((with_reducible refine dropFrame_reach ?_ _); exact .trans rfl hw)
    | ((with_reducible refine ctxWrite_reach ?_ _ _ _ _); exact .trans rfl hw)
    | with_reducible intro _
    | split

theorem imageLine_reach {msk : Nat} (hw : Within 0x200BA9 msk) (c : Nat) (payload : List Byte) (crcOk : Bool) :
    M.All (Upd.In msk) (imageLine c payload crcOk) := by
  unfold imageLine
  repeat' first
    | (with_reducible first | exact .pure _ | exact .getS | refine .bind ?_ fun _ => ?_ | refine .ite ?_ ?_)
    | ((with_reducible refine modFrame_reach ?_ _ _); exact .trans rfl hw)
    | ((with_reducible refine bump_reach ?_ _ _ _); exact .trans rfl hw)
    | ((with_reducible refine storeLineOf_reach ?_ _ _ _); exact .trans rfl hw)
    | ((with_reducible refine inlineMiss_reach ?_ _); exact .trans rfl hw)
    | with_reducible intro _
    | split

theorem embeddedLine_reach {msk : Nat} (hw : Within 0x200189 msk) (c : Nat) (payload : List Byte) :
    M.All (Upd.In msk) (embeddedLine c payload) := by
  unfold embeddedLine
  repeat' first
    | (with_reducible first | exact .pure _ | exact .getS | refine .bind ?_ fun _ => ?_ | refine .ite ?_ ?_ | refine .forIn _ _ _ fun _ _ => ?_)
    | ((with_reducible refine modFrame_reach ?_ _ _); exact .trans rfl hw)
    | ((with_reducible refine raise_reach ?_ _ _ _ _); exact .trans rfl hw)
    | ((with_reducible refine modReqs_reach ?_ _ _); exact .trans rfl hw)
    | with_reducible intro _
    | split

theorem packetReceive_reach {msk : Nat} (hw : Within 0x200BA9 msk) (port vc dt : Nat) (payload : List Byte) (header : Nat) (crcOk : Bool) :
    M.All (Upd.In msk) (packetReceive port vc dt payload header crcOk) := by
  unfold packetReceive
  repeat' first
    | (with_reducible first | exact .pure _ | exact .getS | refine .bind ?_ fun _ => ?_ | refine .ite ?_ ?_)
    | ((with_reducible refine embeddedLine_reach ?_ _ _); exact .trans rfl hw)
    | ((with_reducible refine bump_reach ?_ _ _ _); exact .trans rfl hw)
    | ((with_reducible refine imageLine_reach ?_ _ _ _); exact .trans rfl hw)
    | ((with_reducible refine validHeader_reach ?_ _); exact .trans rfl hw)
    | with_reducible intro _
    | split

theorem deskew_reach {msk : Nat} (hw : Within 0x30FBA9 msk) (port : Nat) (passed : Bool) :
    M.All (Upd.In msk) (deskew port passed) := by
  unfold deskew
  repeat' first
    | (with_reducible first | exact .pure _ | exact .getS | refine .bind ?_ fun _ => ?_ | refine .ite ?_ ?_)
    | ((with_reducible refine linkDown_reach ?_ _ _); exact .trans rfl hw)
    | ((with_reducible refine wrFld_reach ?_ _ _ _); exact .trans rfl hw)
    | with_reducible intro _
    | split

theorem commitPage_reach {msk : Nat} (hw : Within 0x200189 msk) (c num : Nat) :
    M.All (Upd.In msk) (commitPage c num) := by
  unfold commitPage
  repeat' first
    | (with_reducible first | exact .pure _ | exact .getS | refine .bind ?_ fun _ => ?_ | refine .ite ?_ ?_)
    | ((with_reducible refine raise_reach ?_ _ _ _ _); exact .trans rfl hw)
    | ((with_reducible refine modCam_reach ?_ _ _); exact .trans rfl hw)
    | ((with_reducible refine wrFld_reach ?_ _ _ _); exact .trans rfl hw)
    | with_reducible intro _
    | split

theorem frameStart_reach {msk : Nat} (hw : Within 0x30FBA9 msk) (c csiFn : Nat) :
    M.All (Upd.In msk) (frameStart c csiFn) := by
  unfold frameStart
  repeat' first
    | (with_reducible first | exact .pure _ | exact .getS | refine .bind ?_ fun _ => ?_ | refine .ite ?_ ?_ | refine .forIn _ _ _ fun _ _ => ?_)
    | ((with_reducible refine commitPage_reach ?_ _ _); exact .trans rfl hw)
    | ((with_reducible refine dropFrame_reach ?_ _); exact .trans rfl hw)
    | ((with_reducible refine modCam_reach ?_ _ _); exact .trans rfl hw)
    | ((with_reducible refine closeFrame_reach ?_ _ _ _ _ _); exact .trans rfl hw)
    | ((with_reducible refine raise_reach ?_ _ _ _ _); exact .trans rfl hw)
    | ((with_reducible refine cadenceEvent_reach ?_ _ _ _ _); exact .trans rfl hw)
    | ((with_reducible refine validHeader_reach ?_ _); exact .trans rfl hw)
    | ((with_reducible refine modReqs_reach ?_ _ _); exact .trans rfl hw)
    | ((with_reducible refine wrFld_reach ?_ _ _ _); exact .trans rfl hw)
    | with_reducible intro _
    | split

theorem frameEnd_reach {msk : Nat} (hw : Within 0x30FBA9 msk) (c : Nat) :
    M.All (Upd.In msk) (frameEnd c) := by
  unfold frameEnd
  repeat' first
    | (with_reducible first | exact .pure _ | exact .getS | refine .bind ?_ fun _ => ?_ | refine .ite ?_ ?_)
    | ((with_reducible refine validHeader_reach ?_ _); exact .trans rfl hw)
    | ((with_reducible refine closeFrame_reach ?_ _ _ _ _ _); exact .trans rfl hw)
    | with_reducible intro _
    | split

theorem frameTimeout_reach {msk : Nat} (hw : Within 0x30FBA9 msk) (c : Nat) :
    M.All (Upd.In msk) (frameTimeout c) := by
  unfold frameTimeout
  repeat' first
    | (with_reducible first | exact .pure _ | exact .getS | refine .bind ?_ fun _ => ?_ | refine .ite ?_ ?_)
    | ((with_reducible refine closeFrame_reach ?_ _ _ _ _ _); exact .trans rfl hw)
    | with_reducible intro _
    | split

theorem camWrite_reach {msk : Nat} (hw : Within 0x991 msk) (by_ : Requester) (off value : Nat) (m : M Unit) (hm : M.All (Upd.In msk) (m)) :
    M.All (Upd.In msk) (camWrite by_ off value m) := by
  unfold camWrite
  repeat' first
    | (with_reducible first | exact .pure _ | exact .getS | refine .bind ?_ fun _ => ?_ | refine .ite ?_ ?_)
    | ((with_reducible refine reachReg_reach ?_ _ _); exact .trans rfl hw)
    | ((with_reducible refine refuseReg_reach ?_ _ _ _); exact .trans rfl hw)
    | with_reducible apply_assumption -exfalso -symm
    | with_reducible assumption
    | with_reducible intro _
    | split

theorem camArm_reach {msk : Nat} (hw : Within 0x200008 msk) (c : Nat) :
    M.All (Upd.In msk) (camArm c) := by
  unfold camArm
  repeat' first
    | (with_reducible first | exact .pure _ | exact .getS | refine .bind ?_ fun _ => ?_ | refine .ite ?_ ?_)
    | ((with_reducible refine modCam_reach ?_ _ _); exact .trans rfl hw)
    | ((with_reducible refine wrFld_reach ?_ _ _ _); exact .trans rfl hw)
    | with_reducible intro _
    | split

theorem camDisarm_reach {msk : Nat} (hw : Within 0x200008 msk) (c : Nat) :
    M.All (Upd.In msk) (camDisarm c) := by
  unfold camDisarm
  repeat' first
    | (with_reducible first | exact .pure _ | exact .getS | refine .bind ?_ fun _ => ?_ | refine .ite ?_ ?_)
    | ((with_reducible refine wrFld_reach ?_ _ _ _); exact .trans rfl hw)
    | ((with_reducible refine modCam_reach ?_ _ _); exact .trans rfl hw)
    | with_reducible intro _
    | split

theorem exposureRequest_reach {msk : Nat} (hw : Within 0x200BA9 msk) (c block : Nat) :
    M.All (Upd.In msk) (exposureRequest c block) := by
  unfold exposureRequest
  repeat' first
    | (with_reducible first | exact .pure _ | exact .getS | refine .bind ?_ fun _ => ?_ | refine .ite ?_ ?_)
    | ((with_reducible refine showReqs_reach ?_ _); exact .trans rfl hw)
    | ((with_reducible refine ctxRead_reach ?_ _ _ _ _); exact .trans rfl hw)
    | ((with_reducible refine raise_reach ?_ _ _ _ _); exact .trans rfl hw)
    | ((with_reducible refine modCam_reach ?_ _ _); exact .trans rfl hw)
    | with_reducible intro _
    | split

theorem busListStart_reach {msk : Nat} (hw : Within 0x200BB9 msk) (by_ : Requester) (port addr : Nat) :
    M.All (Upd.In msk) (busListStart by_ port addr) := by
  unfold busListStart
  repeat' first
    | (with_reducible first | exact .pure _ | exact .getS | refine .bind ?_ fun _ => ?_ | refine .ite ?_ ?_)
    | ((with_reducible refine modCsi_reach ?_ _ _); exact .trans rfl hw)
    | ((with_reducible refine reachReg_reach ?_ _ _); exact .trans rfl hw)
    | ((with_reducible refine refuseReg_reach ?_ _ _ _); exact .trans rfl hw)
    | ((with_reducible refine physReadAll_reach ?_ _ _ _); exact .trans rfl hw)
    | ((with_reducible refine raise_reach ?_ _ _ _ _); exact .trans rfl hw)
    | ((with_reducible refine wrFld_reach ?_ _ _ _); exact .trans rfl hw)
    | with_reducible intro _
    | split

theorem schedule_reach {msk : Nat} (hw : Within 0x200189 msk) (c id : Nat) :
    M.All (Upd.In msk) (schedule c id) := by
  unfold schedule
  repeat' first
    | (with_reducible first | exact .pure _ | exact .getS | refine .bind ?_ fun _ => ?_ | refine .ite ?_ ?_)
    | ((with_reducible refine raise_reach ?_ _ _ _ _); exact .trans rfl hw)
    | ((with_reducible refine modReqs_reach ?_ _ _); exact .trans rfl hw)
    | with_reducible intro _
    | split

theorem busTransferComplete_reach {msk : Nat} (hw : Within 0x202B89 msk) (port : Nat) (data : List Byte) :
    M.All (Upd.In msk) (busTransferComplete port data) := by
  unfold busTransferComplete
  repeat' first
    | (with_reducible first | exact .pure _ | exact .getS | refine .bind ?_ fun _ => ?_ | refine .ite ?_ ?_)
    | ((with_reducible refine .update ?_); exact .of hw rfl)
    | ((with_reducible refine modCsi_reach ?_ _ _); exact .trans rfl hw)
    | ((with_reducible refine schedule_reach ?_ _ _); exact .trans rfl hw)
    | ((with_reducible refine wrFld_reach ?_ _ _ _); exact .trans rfl hw)
    | ((with_reducible refine physWriteAll_reach ?_ _ _ _); exact .trans rfl hw)
    | with_reducible intro _
    | split

theorem busTransferFail_reach {msk : Nat} (hw : Within 0x200189 msk) (port : Nat) :
    M.All (Upd.In msk) (busTransferFail port) := by
  unfold busTransferFail
  repeat' first
    | (with_reducible first | exact .pure _ | exact .getS | refine .bind ?_ fun _ => ?_ | refine .ite ?_ ?_)
    | ((with_reducible refine modCsi_reach ?_ _ _); exact .trans rfl hw)
    | ((with_reducible refine raise_reach ?_ _ _ _ _); exact .trans rfl hw)
    | ((with_reducible refine modReqs_reach ?_ _ _); exact .trans rfl hw)
    | ((with_reducible refine wrFld_reach ?_ _ _ _); exact .trans rfl hw)
    | with_reducible intro _
    | split

theorem ispCtlApply_reach {msk : Nat} (hw : Within 0x200008 msk) :
    M.All (Upd.In msk) (ispCtlApply) := by
  unfold ispCtlApply
  repeat' first
    | (with_reducible first | exact .pure _ | exact .getS | refine .bind ?_ fun _ => ?_ | refine .ite ?_ ?_)
    | ((with_reducible refine .update ?_); exact .of hw rfl)
    | ((with_reducible refine wrReg_reach ?_ _ _); exact .trans rfl hw)
    | with_reducible intro _
    | split

theorem modChan_reach {msk : Nat} (hw : Within 0x400 msk) (n : Nat) (f : DmaChan → DmaChan) :
    M.All (Upd.In msk) (modChan n f) := by
  unfold modChan
  repeat' first
    | (with_reducible first | exact .pure _ | exact .getS | refine .bind ?_ fun _ => ?_ | refine .ite ?_ ?_)
    | ((with_reducible refine .update ?_); exact .of hw rfl)
    | with_reducible intro _
    | split

theorem setArmed_reach {msk : Nat} (hw : Within 0x8 msk) (n : Nat) (on : Bool) :
    M.All (Upd.In msk) (setArmed n on) := by
  unfold setArmed
  repeat' first
    | (with_reducible first | exact .pure _ | exact .getS | refine .bind ?_ fun _ => ?_ | refine .ite ?_ ?_)
    | ((with_reducible refine wrFld_reach ?_ _ _ _); exact .trans rfl hw)
    | with_reducible intro _
    | split

theorem enterState_reach {msk : Nat} (hw : Within 0x8 msk) (n st cause : Nat) :
    M.All (Upd.In msk) (enterState n st cause) := by
  unfold enterState
  repeat' first
    | (with_reducible first | exact .pure _ | exact .getS | refine .bind ?_ fun _ => ?_ | refine .ite ?_ ?_)
    | ((with_reducible refine wrFld_reach ?_ _ _ _); exact .trans rfl hw)
    | with_reducible intro _
    | split

theorem chanEvent_reach {msk : Nat} (hw : Within 0x581 msk) (n code : Nat) (detail : List (Nat × Nat)) :
    M.All (Upd.In msk) (chanEvent n code detail) := by
  unfold chanEvent
  repeat' first
    | (with_reducible first | exact .pure _ | exact .getS | refine .bind ?_ fun _ => ?_ | refine .ite ?_ ?_)
    | ((with_reducible refine raise_reach ?_ _ _ _ _); exact .trans rfl hw)
    | ((with_reducible refine modChan_reach ?_ _ _); exact .trans rfl hw)
    | with_reducible intro _
    | split

theorem issueFetch_reach {msk : Nat} (hw : Within 0x400 msk) (n : Nat) :
    M.All (Upd.In msk) (issueFetch n) := by
  unfold issueFetch
  repeat' first
    | fail_if_no_progress beta_reduce
    | (extract_lets +onlyGivenNames jp
       first
       | (refine (fun hj : ∀ x, M.All (Upd.In msk) (jp x) => ?_) (fun x => ?_)
          on_goal 2 => (dsimp -zeta only [jp]; clear jp)
          on_goal 1 => clear_value jp)
       | clear_value jp)
    | (with_reducible first | exact .pure _ | exact .getS | refine .bind ?_ fun _ => ?_ | refine .ite ?_ ?_)
    | ((with_reducible refine modChan_reach ?_ _ _); exact .trans rfl hw)
    | with_reducible apply_assumption -exfalso -symm
    | with_reducible intro _
    | split

theorem follow_reach {msk : Nat} (hw : Within 0x400 msk) (n a : Nat) :
    M.All (Upd.In msk) (follow n a) := by
  unfold follow
  repeat' first
    | (with_reducible first | exact .pure _ | exact .getS | refine .bind ?_ fun _ => ?_ | refine .ite ?_ ?_)
    | ((with_reducible refine modChan_reach ?_ _ _); exact .trans rfl hw)
    | with_reducible intro _
    | split

theorem commitShadow_reach {msk : Nat} (hw : Within 0x589 msk) (n kind : Nat) :
    M.All (Upd.In msk) (commitShadow n kind) := by
  unfold commitShadow
  repeat' first
    | (with_reducible first | exact .pure _ | exact .getS | refine .bind ?_ fun _ => ?_ | refine .ite ?_ ?_)
    | ((with_reducible refine chanEvent_reach ?_ _ _ _); exact .trans rfl hw)
    | ((with_reducible refine setArmed_reach ?_ _ _); exact .trans rfl hw)
    | ((with_reducible refine modChan_reach ?_ _ _); exact .trans rfl hw)
    | ((with_reducible refine follow_reach ?_ _ _); exact .trans rfl hw)
    | ((with_reducible refine wrFld_reach ?_ _ _ _); exact .trans rfl hw)
    | with_reducible intro _
    | split

theorem takeDescs_reach {msk : Nat} (hw : Within 0x589 msk) : ∀ (z0 : Nat) (z1 : Nat) (z2 : List Byte) (z3 : Nat),
    M.All (Upd.In msk) (takeDescs z0 z1 z2 z3) := by
  intro z0
  induction z0 with
  | zero =>
    intros
    unfold takeDescs
    repeat' first
      | (with_reducible first | exact .pure _ | exact .getS | refine .bind ?_ fun _ => ?_ | refine .ite ?_ ?_)
      | ((with_reducible refine chanEvent_reach ?_ _ _ _); exact .trans rfl hw)
      | ((with_reducible refine modChan_reach ?_ _ _); exact .trans rfl hw)
      | ((with_reducible refine follow_reach ?_ _ _); exact .trans rfl hw)
      | ((with_reducible refine commitShadow_reach ?_ _ _); exact .trans rfl hw)
      | ((with_reducible refine wrFld_reach ?_ _ _ _); exact .trans rfl hw)
      | with_reducible apply_assumption -exfalso -symm
      | with_reducible intro _
      | (injections; subst_vars; with_reducible apply_assumption -exfalso -symm)
      | split
  | succ n ih =>
    intros
    unfold takeDescs
    repeat' first
      | (with_reducible first | exact .pure _ | exact .getS | refine .bind ?_ fun _ => ?_ | refine .ite ?_ ?_)
      | ((with_reducible refine chanEvent_reach ?_ _ _ _); exact .trans rfl hw)
      | ((with_reducible refine modChan_reach ?_ _ _); exact .trans rfl hw)
      | ((with_reducible refine follow_reach ?_ _ _); exact .trans rfl hw)
      | ((with_reducible refine commitShadow_reach ?_ _ _); exact .trans rfl hw)
      | ((with_reducible refine wrFld_reach ?_ _ _ _); exact .trans rfl hw)
      | with_reducible apply_assumption -exfalso -symm
      | with_reducible intro _
      | (injections; subst_vars; with_reducible apply_assumption -exfalso -symm)
      | split

theorem drainFor_reach {msk : Nat} (hw : Within 0x408 msk) (n cause : Nat) :
    M.All (Upd.In msk) (drainFor n cause) := by
  unfold drainFor
  repeat' first
    | (with_reducible first | exact .pure _ | exact .getS | refine .bind ?_ fun _ => ?_ | refine .ite ?_ ?_)
    | ((with_reducible refine modChan_reach ?_ _ _); exact .trans rfl hw)
    | ((with_reducible refine wrFld_reach ?_ _ _ _); exact .trans rfl hw)
    | with_reducible intro _
    | split

theorem beginNext_reach {msk : Nat} (hw : Within 0x589 msk) (n : Nat) :
    M.All (Upd.In msk) (beginNext n) := by
  unfold beginNext
  repeat' first
    | (with_reducible first | exact .pure _ | exact .getS | refine .bind ?_ fun _ => ?_ | refine .ite ?_ ?_)
    | ((with_reducible refine enterState_reach ?_ _ _ _); exact .trans rfl hw)
    | ((with_reducible refine drainFor_reach ?_ _ _); exact .trans rfl hw)
    | ((with_reducible refine chanEvent_reach ?_ _ _ _); exact .trans rfl hw)
    | ((with_reducible refine modChan_reach ?_ _ _); exact .trans rfl hw)
    | ((with_reducible refine issueFetch_reach ?_ _); exact .trans rfl hw)
    | ((with_reducible refine commitShadow_reach ?_ _ _); exact .trans rfl hw)
    | ((with_reducible refine wrFld_reach ?_ _ _ _); exact .trans rfl hw)
    | with_reducible intro _
    | split

theorem startChain_reach {msk : Nat} (hw : Within 0x589 msk) (n head : Nat) :
    M.All (Upd.In msk) (startChain n head) := by
  unfold startChain
  repeat' first
    | (with_reducible first | exact .pure _ | exact .getS | refine .bind ?_ fun _ => ?_ | refine .ite ?_ ?_)
    | ((with_reducible refine beginNext_reach ?_ _); exact .trans rfl hw)
    | ((with_reducible refine enterState_reach ?_ _ _ _); exact .trans rfl hw)
    | ((with_reducible refine modChan_reach ?_ _ _); exact .trans rfl hw)
    | ((with_reducible refine issueFetch_reach ?_ _); exact .trans rfl hw)
    | ((with_reducible refine follow_reach ?_ _ _); exact .trans rfl hw)
    | ((with_reducible refine wrFld_reach ?_ _ _ _); exact .trans rfl hw)
    | with_reducible intro _
    | split

theorem ctlWrite_reach {msk : Nat} (hw : Within 0x991 msk) (by_ : Requester) (n bit : Nat) (act : M Unit) (hact : M.All (Upd.In msk) (act)) :
    M.All (Upd.In msk) (ctlWrite by_ n bit act) := by
  unfold ctlWrite
  repeat' first
    | (with_reducible first | exact .pure _ | exact .getS | refine .bind ?_ fun _ => ?_ | refine .ite ?_ ?_)
    | ((with_reducible refine reachReg_reach ?_ _ _); exact .trans rfl hw)
    | ((with_reducible refine refuseReg_reach ?_ _ _ _); exact .trans rfl hw)
    | with_reducible apply_assumption -exfalso -symm
    | with_reducible assumption
    | with_reducible intro _
    | split

theorem dmaStart_reach {msk : Nat} (hw : Within 0x589 msk) (n : Nat) :
    M.All (Upd.In msk) (dmaStart n) := by
  unfold dmaStart
  repeat' first
    | (with_reducible first | exact .pure _ | exact .getS | refine .bind ?_ fun _ => ?_ | refine .ite ?_ ?_)
    | ((with_reducible refine refuseReg_reach ?_ _ _ _); exact .trans rfl hw)
    | ((with_reducible refine startChain_reach ?_ _ _); exact .trans rfl hw)
    | ((with_reducible refine wrFld_reach ?_ _ _ _); exact .trans rfl hw)
    | with_reducible intro _
    | split

theorem dmaArm_reach {msk : Nat} (hw : Within 0x589 msk) (n : Nat) :
    M.All (Upd.In msk) (dmaArm n) := by
  unfold dmaArm
  repeat' first
    | (with_reducible first | exact .pure _ | exact .getS | refine .bind ?_ fun _ => ?_ | refine .ite ?_ ?_)
    | ((with_reducible refine beginNext_reach ?_ _); exact .trans rfl hw)
    | ((with_reducible refine refuseReg_reach ?_ _ _ _); exact .trans rfl hw)
    | ((with_reducible refine enterState_reach ?_ _ _ _); exact .trans rfl hw)
    | ((with_reducible refine setArmed_reach ?_ _ _); exact .trans rfl hw)
    | ((with_reducible refine modChan_reach ?_ _ _); exact .trans rfl hw)
    | ((with_reducible refine issueFetch_reach ?_ _); exact .trans rfl hw)
    | ((with_reducible refine commitShadow_reach ?_ _ _); exact .trans rfl hw)
    | with_reducible intro _
    | split

theorem dmaDisarm_reach {msk : Nat} (hw : Within 0x8 msk) (n : Nat) :
    M.All (Upd.In msk) (dmaDisarm n) := by
  unfold dmaDisarm
  repeat' first
    | (with_reducible first | exact .pure _ | exact .getS | refine .bind ?_ fun _ => ?_ | refine .ite ?_ ?_)
    | ((with_reducible refine setArmed_reach ?_ _ _); exact .trans rfl hw)
    | with_reducible intro _
    | split

theorem dmaStop_reach {msk : Nat} (hw : Within 0x408 msk) (n : Nat) :
    M.All (Upd.In msk) (dmaStop n) := by
  unfold dmaStop
  repeat' first
    | (with_reducible first | exact .pure _ | exact .getS | refine .bind ?_ fun _ => ?_ | refine .ite ?_ ?_)
    | ((with_reducible refine enterState_reach ?_ _ _ _); exact .trans rfl hw)
    | ((with_reducible refine modChan_reach ?_ _ _); exact .trans rfl hw)
    | ((with_reducible refine setArmed_reach ?_ _ _); exact .trans rfl hw)
    | with_reducible intro _
    | split

theorem moveUnits_reach {msk : Nat} (hw : Within 0xBA9 msk) (n : Nat) : ∀ (z0 : List (Nat × Nat)),
    M.All (Upd.In msk) (moveUnits n z0) := by
  intro z0
  induction z0 with
  | nil =>
    intros
    unfold moveUnits
    repeat' first
      | (with_reducible first | exact .pure _ | exact .getS | refine .bind ?_ fun _ => ?_ | refine .ite ?_ ?_)
      | ((with_reducible refine ctxRead_reach ?_ _ _ _ _); exact .trans rfl hw)
      | ((with_reducible refine bump_reach ?_ _ _ _); exact .trans rfl hw)
      | ((with_reducible refine ctxWrite_reach ?_ _ _ _ _); exact .trans rfl hw)
      | with_reducible apply_assumption -exfalso -symm
      | with_reducible intro _
      | (injections; subst_vars; with_reducible apply_assumption -exfalso -symm)
      | split
  | cons x t ih =>
    intros
    unfold moveUnits
    repeat' first
      | (with_reducible first | exact .pure _ | exact .getS | refine .bind ?_ fun _ => ?_ | refine .ite ?_ ?_)
      | ((with_reducible refine ctxRead_reach ?_ _ _ _ _); exact .trans rfl hw)
      | ((with_reducible refine bump_reach ?_ _ _ _); exact .trans rfl hw)
      | ((with_reducible refine ctxWrite_reach ?_ _ _ _ _); exact .trans rfl hw)
      | with_reducible apply_assumption -exfalso -symm
      | with_reducible intro _
      | (injections; subst_vars; with_reducible apply_assumption -exfalso -symm)
      | split

theorem scramble_reach {msk : Nat} (hw : Within 0xBA9 msk) (n : Nat) (us : List (Nat × Nat)) :
    M.All (Upd.In msk) (scramble n us) := by
  unfold scramble
  repeat' first
    | (with_reducible first | exact .pure _ | exact .getS | refine .bind ?_ fun _ => ?_ | refine .ite ?_ ?_ | refine .forIn _ _ _ fun _ _ => ?_)
    | ((with_reducible refine freshBytes_reach ?_ _); exact .trans rfl hw)
    | ((with_reducible refine ctxWrite_reach ?_ _ _ _ _); exact .trans rfl hw)
    | with_reducible intro _
    | split

theorem moveSome_reach {msk : Nat} (hw : Within 0xBA9 msk) (n : Nat) :
    M.All (Upd.In msk) (moveSome n) := by
  unfold moveSome
  repeat' first
    | (with_reducible first | exact .pure _ | exact .getS | refine .bind ?_ fun _ => ?_ | refine .ite ?_ ?_)
    | ((with_reducible refine moveUnits_reach ?_ _ _); exact .trans rfl hw)
    | ((with_reducible refine fresh_reach ?_ _); exact .trans rfl hw)
    | with_reducible intro _
    | split

theorem descDone_reach {msk : Nat} (hw : Within 0x10FFA9 msk) (n : Nat) (d : DmaDesc) :
    M.All (Upd.In msk) (descDone n d) := by
  unfold descDone
  repeat' first
    | (with_reducible first | exact .pure _ | exact .getS | refine .bind ?_ fun _ => ?_ | refine .ite ?_ ?_)
    | ((with_reducible refine enterState_reach ?_ _ _ _); exact .trans rfl hw)
    | ((with_reducible refine modChan_reach ?_ _ _); exact .trans rfl hw)
    | ((with_reducible refine settleAll_reach ?_ _); exact .trans rfl hw)
    | ((with_reducible refine beginNext_reach ?_ _); exact .trans rfl hw)
    | ((with_reducible refine countLate_reach ?_); exact .trans rfl hw)
    | ((with_reducible refine advanceFlag_reach ?_ _ _ _ _ _); exact .trans rfl hw)
    | ((with_reducible refine deviceAppend_reach ?_ _ _ _ _ _); exact .trans rfl hw)
    | ((with_reducible refine bump_reach ?_ _ _ _); exact .trans rfl hw)
    | ((with_reducible refine issueFetch_reach ?_ _); exact .trans rfl hw)
    | with_reducible intro _
    | split

theorem settleDesc_reach {msk : Nat} (hw : Within 0x10FFA9 msk) (n status : Nat) :
    M.All (Upd.In msk) (settleDesc n status) := by
  unfold settleDesc
  repeat' first
    | (with_reducible first | exact .pure _ | exact .getS | refine .bind ?_ fun _ => ?_ | refine .ite ?_ ?_)
    | ((with_reducible refine modChan_reach ?_ _ _); exact .trans rfl hw)
    | ((with_reducible refine descDone_reach ?_ _ _); exact .trans rfl hw)
    | with_reducible intro _
    | split

theorem runDesc_reach {msk : Nat} (hw : Within 0x10FFA9 msk) (n : Nat) :
    M.All (Upd.In msk) (runDesc n) := by
  unfold runDesc
  repeat' first
    | (with_reducible first | exact .pure _ | exact .getS | refine .bind ?_ fun _ => ?_ | refine .ite ?_ ?_)
    | ((with_reducible refine moveUnits_reach ?_ _ _); exact .trans rfl hw)
    | ((with_reducible refine scramble_reach ?_ _ _); exact .trans rfl hw)
    | ((with_reducible refine chanEvent_reach ?_ _ _ _); exact .trans rfl hw)
    | ((with_reducible refine settleDesc_reach ?_ _ _); exact .trans rfl hw)
    | with_reducible intro _
    | split

theorem writebackAck_reach {msk : Nat} (hw : Within 0x10FFA9 msk) (n : Nat) :
    M.All (Upd.In msk) (writebackAck n) := by
  unfold writebackAck
  repeat' first
    | fail_if_no_progress beta_reduce
    | (extract_lets +onlyGivenNames jp
       first
       | (refine (fun hj : ∀ x, M.All (Upd.In msk) (jp x) => ?_) (fun x => ?_)
          on_goal 2 => (dsimp -zeta only [jp]; clear jp)
          on_goal 1 => clear_value jp)
       | clear_value jp)
    | (with_reducible first | exact .pure _ | exact .getS | refine .bind ?_ fun _ => ?_ | refine .ite ?_ ?_)
    | ((with_reducible refine bump_reach ?_ _ _ _); exact .trans rfl hw)
    | ((with_reducible refine drainFor_reach ?_ _ _); exact .trans rfl hw)
    | ((with_reducible refine chanEvent_reach ?_ _ _ _); exact .trans rfl hw)
    | ((with_reducible refine modChan_reach ?_ _ _); exact .trans rfl hw)
    | ((with_reducible refine descDone_reach ?_ _ _); exact .trans rfl hw)
    | ((with_reducible refine ctxWrite_reach ?_ _ _ _ _); exact .trans rfl hw)
    | with_reducible apply_assumption -exfalso -symm
    | with_reducible intro _
    | split

theorem crateFetchDone_reach {msk : Nat} (hw : Within 0xFA9 msk) (n : Nat) :
    M.All (Upd.In msk) (crateFetchDone n) := by
  unfold crateFetchDone
  repeat' first
    | (with_reducible first | exact .pure _ | exact .getS | refine .bind ?_ fun _ => ?_ | refine .ite ?_ ?_)
    | ((with_reducible refine ctxRead_reach ?_ _ _ _ _); exact .trans rfl hw)
    | ((with_reducible refine beginNext_reach ?_ _); exact .trans rfl hw)
    | ((with_reducible refine modChan_reach ?_ _ _); exact .trans rfl hw)
    | ((with_reducible refine takeDescs_reach ?_ _ _ _ _); exact .trans rfl hw)
    | ((with_reducible refine issueFetch_reach ?_ _); exact .trans rfl hw)
    | with_reducible intro _
    | split

theorem fetchTimeout_reach {msk : Nat} (hw : Within 0x589 msk) (n : Nat) :
    M.All (Upd.In msk) (fetchTimeout n) := by
  unfold fetchTimeout
  repeat' first
    | (with_reducible first | exact .pure _ | exact .getS | refine .bind ?_ fun _ => ?_ | refine .ite ?_ ?_)
    | ((with_reducible refine beginNext_reach ?_ _); exact .trans rfl hw)
    | ((with_reducible refine modChan_reach ?_ _ _); exact .trans rfl hw)
    | with_reducible intro _
    | split

theorem descriptorTimeout_reach {msk : Nat} (hw : Within 0x10FFA9 msk) (n : Nat) :
    M.All (Upd.In msk) (descriptorTimeout n) := by
  unfold descriptorTimeout
  repeat' first
    | (with_reducible first | exact .pure _ | exact .getS | refine .bind ?_ fun _ => ?_ | refine .ite ?_ ?_)
    | ((with_reducible refine drainFor_reach ?_ _ _); exact .trans rfl hw)
    | ((with_reducible refine chanEvent_reach ?_ _ _ _); exact .trans rfl hw)
    | ((with_reducible refine settleDesc_reach ?_ _ _); exact .trans rfl hw)
    | ((with_reducible refine moveSome_reach ?_ _); exact .trans rfl hw)
    | with_reducible intro _
    | split

theorem dmaAbort_reach {msk : Nat} (hw : Within 0x10FFA9 msk) (n : Nat) :
    M.All (Upd.In msk) (dmaAbort n) := by
  unfold dmaAbort
  repeat' first
    | (with_reducible first | exact .pure _ | exact .getS | refine .bind ?_ fun _ => ?_ | refine .ite ?_ ?_)
    | ((with_reducible refine drainFor_reach ?_ _ _); exact .trans rfl hw)
    | ((with_reducible refine settleDesc_reach ?_ _ _); exact .trans rfl hw)
    | ((with_reducible refine moveSome_reach ?_ _); exact .trans rfl hw)
    | ((with_reducible refine setArmed_reach ?_ _ _); exact .trans rfl hw)
    | with_reducible intro _
    | split

theorem dmaDrainComplete_reach {msk : Nat} (hw : Within 0x408 msk) (n : Nat) :
    M.All (Upd.In msk) (dmaDrainComplete n) := by
  unfold dmaDrainComplete
  repeat' first
    | (with_reducible first | exact .pure _ | exact .getS | refine .bind ?_ fun _ => ?_ | refine .ite ?_ ?_)
    | ((with_reducible refine enterState_reach ?_ _ _ _); exact .trans rfl hw)
    | ((with_reducible refine modChan_reach ?_ _ _); exact .trans rfl hw)
    | with_reducible intro _
    | split

theorem streamShareWrite_reach {msk : Nat} (hw : Within 0x189 msk) (by_ : Requester) (p : Nat) (v : Word) :
    M.All (Upd.In msk) (streamShareWrite by_ p v) := by
  unfold streamShareWrite
  repeat' first
    | (with_reducible first | exact .pure _ | exact .getS | refine .bind ?_ fun _ => ?_ | refine .ite ?_ ?_ | refine .forIn _ _ _ fun _ _ => ?_)
    | ((with_reducible refine refuseReg_reach ?_ _ _ _); exact .trans rfl hw)
    | ((with_reducible refine clampReg_reach ?_ _ _ _ _ _); exact .trans rfl hw)
    | ((with_reducible refine wrFld_reach ?_ _ _ _); exact .trans rfl hw)
    | with_reducible intro _
    | split

theorem resubmit_reach {msk : Nat} (hw : Within 0x10FBA9 msk) (q seq : Nat) :
    M.All (Upd.In msk) (resubmit q seq) := by
  unfold resubmit
  repeat' first
    | (with_reducible first | exact .pure _ | exact .getS | refine .bind ?_ fun _ => ?_ | refine .ite ?_ ?_)
    | ((with_reducible refine ctxRead_reach ?_ _ _ _ _); exact .trans rfl hw)
    | ((with_reducible refine takeTokens_reach ?_ _); exact .trans rfl hw)
    | ((with_reducible refine modQueue_reach ?_ _ _); exact .trans rfl hw)
    | ((with_reducible refine leaveEntry_reach ?_ _ _); exact .trans rfl hw)
    | ((with_reducible refine settleAll_reach ?_ _); exact .trans rfl hw)
    | ((with_reducible refine storeTask_reach ?_ _ _ _ _); exact .trans rfl hw)
    | ((with_reducible refine writeLedger_reach ?_ _ _ _ _ _ _ _ _ _); exact .trans rfl hw)
    | with_reducible intro _
    | split

theorem patrolScrub_reach {msk : Nat} (hw : Within 0x389 msk) (c : Nat) (weak bad : List Nat) :
    M.All (Upd.In msk) (patrolScrub c weak bad) := by
  unfold patrolScrub
  repeat' first
    | (with_reducible first | exact .pure _ | exact .getS | refine .bind ?_ fun _ => ?_ | refine .ite ?_ ?_ | refine .forIn _ _ _ fun _ _ => ?_)
    | ((with_reducible refine .update ?_); exact .of hw rfl)
    | ((with_reducible refine setMark_reach ?_ _); exact .trans rfl hw)
    | ((with_reducible refine eccFailed_reach ?_ _ _ _); exact .trans rfl hw)
    | ((with_reducible refine eccCorrected_reach ?_ _); exact .trans rfl hw)
    | with_reducible intro _
    | split

theorem mmuInval_reach {msk : Nat} (hw : Within 0x189 msk) (by_ : Requester) (h : Nat) (all : Bool) :
    M.All (Upd.In msk) (mmuInval by_ h all) := by
  unfold mmuInval
  repeat' first
    | (with_reducible first | exact .pure _ | exact .getS | refine .bind ?_ fun _ => ?_ | refine .ite ?_ ?_)
    | ((with_reducible refine .update ?_); exact .of hw rfl)
    | ((with_reducible refine refuseReg_reach ?_ _ _ _); exact .trans rfl hw)
    | ((with_reducible refine raise_reach ?_ _ _ _ _); exact .trans rfl hw)
    | ((with_reducible refine wrFld_reach ?_ _ _ _); exact .trans rfl hw)
    | with_reducible intro _
    | split

theorem dropTranslations_reach {msk : Nat} (hw : Within 0x80 msk) (i : Inval) :
    M.All (Upd.In msk) (dropTranslations i) := by
  unfold dropTranslations
  repeat' first
    | (with_reducible first | exact .pure _ | exact .getS | refine .bind ?_ fun _ => ?_ | refine .ite ?_ ?_)
    | ((with_reducible refine .update ?_); exact .of hw rfl)
    | with_reducible intro _
    | split

theorem mmuInvalDone_reach {msk : Nat} (hw : Within 0x88 msk) :
    M.All (Upd.In msk) (mmuInvalDone) := by
  unfold mmuInvalDone
  repeat' first
    | (with_reducible first | exact .pure _ | exact .getS | refine .bind ?_ fun _ => ?_ | refine .ite ?_ ?_)
    | ((with_reducible refine .update ?_); exact .of hw rfl)
    | ((with_reducible refine dropTranslations_reach ?_ _); exact .trans rfl hw)
    | ((with_reducible refine wrFld_reach ?_ _ _ _); exact .trans rfl hw)
    | with_reducible intro _
    | split

theorem powerLoss_reach {msk : Nat} (hw : Within 0xFDDFD6 msk) :
    M.All (Upd.In msk) (powerLoss) := by
  unfold powerLoss
  repeat' first
    | (with_reducible first | exact .pure _ | exact .getS | refine .bind ?_ fun _ => ?_ | refine .ite ?_ ?_)
    | ((with_reducible refine .update ?_); exact .of hw rfl)
    | ((with_reducible refine modPower_reach ?_ _); exact .trans rfl hw)
    | ((with_reducible refine modRadio_reach ?_ _); exact .trans rfl hw)
    | ((with_reducible refine clearCameras_reach ?_); exact .trans rfl hw)
    | with_reducible intro _
    | split

theorem showRails_reach {msk : Nat} (hw : Within 0x8 msk) :
    M.All (Upd.In msk) (showRails) := by
  unfold showRails
  repeat' first
    | (with_reducible first | exact .pure _ | exact .getS | refine .bind ?_ fun _ => ?_ | refine .ite ?_ ?_)
    | ((with_reducible refine wrFld_reach ?_ _ _ _); exact .trans rfl hw)
    | with_reducible intro _
    | split

theorem railChanged_reach {msk : Nat} (hw : Within 0x101A9 msk) (rail : Nat) (ok : Bool) :
    M.All (Upd.In msk) (railChanged rail ok) := by
  unfold railChanged
  repeat' first
    | (with_reducible first | exact .pure _ | exact .getS | refine .bind ?_ fun _ => ?_ | refine .ite ?_ ?_)
    | ((with_reducible refine showRails_reach ?_); exact .trans rfl hw)
    | ((with_reducible refine modPower_reach ?_ _); exact .trans rfl hw)
    | ((with_reducible refine raise_reach ?_ _ _ _ _); exact .trans rfl hw)
    | ((with_reducible refine fresh_reach ?_ _); exact .trans rfl hw)
    | with_reducible intro _
    | split

theorem railInvalid_reach {msk : Nat} (hw : Within 0xFDFFFF msk) (rail : Nat) :
    M.All (Upd.In msk) (railInvalid rail) := by
  unfold railInvalid
  repeat' first
    | (with_reducible first | exact .pure _ | exact .getS | refine .bind ?_ fun _ => ?_ | refine .ite ?_ ?_ | refine .forIn _ _ _ fun _ _ => ?_)
    | ((with_reducible refine .update ?_); exact .of hw rfl)
    | ((with_reducible refine powerLoss_reach ?_); exact .trans rfl hw)
    | ((with_reducible refine railChanged_reach ?_ _ _); exact .trans rfl hw)
    | ((with_reducible refine trigger_reach ?_ _ _ _ _ _); exact .trans rfl hw)
    | ((with_reducible refine drivePins_reach ?_); exact .trans rfl hw)
    | with_reducible intro _
    | split

theorem powerOn_reach {msk : Nat} (hw : Within 0x14008 msk) :
    M.All (Upd.In msk) (powerOn) := by
  unfold powerOn
  repeat' first
    | (with_reducible first | exact .pure _ | exact .getS | refine .bind ?_ fun _ => ?_ | refine .ite ?_ ?_)
    | ((with_reducible refine .update ?_); exact .of hw rfl)
    | ((with_reducible refine showRails_reach ?_); exact .trans rfl hw)
    | ((with_reducible refine modPower_reach ?_ _); exact .trans rfl hw)
    | ((with_reducible refine wrFld_reach ?_ _ _ _); exact .trans rfl hw)
    | with_reducible intro _
    | split

theorem bccResetRelease_reach {msk : Nat} (hw : Within 0x10808 msk) :
    M.All (Upd.In msk) (bccResetRelease) := by
  unfold bccResetRelease
  repeat' first
    | (with_reducible first | exact .pure _ | exact .getS | refine .bind ?_ fun _ => ?_ | refine .ite ?_ ?_)
    | ((with_reducible refine .update ?_); exact .of hw rfl)
    | ((with_reducible refine setLocked_reach ?_ _ _); exact .trans rfl hw)
    | ((with_reducible refine showRails_reach ?_); exact .trans rfl hw)
    | ((with_reducible refine modPower_reach ?_ _); exact .trans rfl hw)
    | with_reducible intro _
    | split

theorem wakeComplete_reach {msk : Nat} (hw : Within 0x10208 msk) (e : Nat) :
    M.All (Upd.In msk) (wakeComplete e) := by
  unfold wakeComplete
  repeat' first
    | (with_reducible first | exact .pure _ | exact .getS | refine .bind ?_ fun _ => ?_ | refine .ite ?_ ?_)
    | ((with_reducible refine setLocked_reach ?_ _ _); exact .trans rfl hw)
    | ((with_reducible refine modPower_reach ?_ _); exact .trans rfl hw)
    | ((with_reducible refine modEngine_reach ?_ _ _); exact .trans rfl hw)
    | with_reducible intro _
    | split

theorem domainSwitch_reach {msk : Nat} (hw : Within 0x10183 msk) (by_ : Requester) (d : Nat) (on : Bool) :
    M.All (Upd.In msk) (domainSwitch by_ d on) := by
  unfold domainSwitch
  repeat' first
    | (with_reducible first | exact .pure _ | exact .getS | refine .bind ?_ fun _ => ?_ | refine .ite ?_ ?_)
    | ((with_reducible refine .update ?_); exact .of hw rfl)
    | ((with_reducible refine refuseReg_reach ?_ _ _ _); exact .trans rfl hw)
    | ((with_reducible refine modPower_reach ?_ _); exact .trans rfl hw)
    | with_reducible intro _
    | split

theorem pllUnlock_reach {msk : Nat} (hw : Within 0x10389 msk) (d : Nat) :
    M.All (Upd.In msk) (pllUnlock d) := by
  unfold pllUnlock
  repeat' first
    | (with_reducible first | exact .pure _ | exact .getS | refine .bind ?_ fun _ => ?_ | refine .ite ?_ ?_ | refine .forIn _ _ _ fun _ _ => ?_)
    | ((with_reducible refine setLocked_reach ?_ _ _); exact .trans rfl hw)
    | ((with_reducible refine modPower_reach ?_ _); exact .trans rfl hw)
    | ((with_reducible refine bump_reach ?_ _ _ _); exact .trans rfl hw)
    | ((with_reducible refine modEngine_reach ?_ _ _); exact .trans rfl hw)
    | ((with_reducible refine raise_reach ?_ _ _ _ _); exact .trans rfl hw)
    | with_reducible intro _
    | split

theorem pllRelocked_reach {msk : Nat} (hw : Within 0x10208 msk) (d : Nat) :
    M.All (Upd.In msk) (pllRelocked d) := by
  unfold pllRelocked
  repeat' first
    | (with_reducible first | exact .pure _ | exact .getS | refine .bind ?_ fun _ => ?_ | refine .ite ?_ ?_ | refine .forIn _ _ _ fun _ _ => ?_)
    | ((with_reducible refine setLocked_reach ?_ _ _); exact .trans rfl hw)
    | ((with_reducible refine modPower_reach ?_ _); exact .trans rfl hw)
    | ((with_reducible refine modEngine_reach ?_ _ _); exact .trans rfl hw)
    | with_reducible intro _
    | split

theorem pllRelockTimeout_reach {msk : Nat} (hw : Within 0x31FFA9 msk) (d : Nat) :
    M.All (Upd.In msk) (pllRelockTimeout d) := by
  unfold pllRelockTimeout
  repeat' first
    | (with_reducible first | exact .pure _ | exact .getS | refine .bind ?_ fun _ => ?_ | refine .ite ?_ ?_ | refine .forIn _ _ _ fun _ _ => ?_)
    | ((with_reducible refine modPower_reach ?_ _); exact .trans rfl hw)
    | ((with_reducible refine raise_reach ?_ _ _ _ _); exact .trans rfl hw)
    | ((with_reducible refine trigger_reach ?_ _ _ _ _ _); exact .trans rfl hw)
    | with_reducible intro _
    | split

theorem powerEvaluation_reach {msk : Nat} (hw : Within 0x101A9 msk) (mw : Nat) :
    M.All (Upd.In msk) (powerEvaluation mw) := by
  unfold powerEvaluation
  repeat' first
    | (with_reducible first | exact .pure _ | exact .getS | refine .bind ?_ fun _ => ?_ | refine .ite ?_ ?_)
    | ((with_reducible refine modPower_reach ?_ _); exact .trans rfl hw)
    | ((with_reducible refine raise_reach ?_ _ _ _ _); exact .trans rfl hw)
    | ((with_reducible refine fresh_reach ?_ _); exact .trans rfl hw)
    | ((with_reducible refine wrFld_reach ?_ _ _ _); exact .trans rfl hw)
    | with_reducible intro _
    | split

theorem opFallback_reach {msk : Nat} (hw : Within 0x10189 msk) (n band why ma : Nat) :
    M.All (Upd.In msk) (opFallback n band why ma) := by
  unfold opFallback
  repeat' first
    | (with_reducible first | exact .pure _ | exact .getS | refine .bind ?_ fun _ => ?_ | refine .ite ?_ ?_)
    | ((with_reducible refine setAvs_reach ?_); exact .trans rfl hw)
    | ((with_reducible refine modPower_reach ?_ _); exact .trans rfl hw)
    | ((with_reducible refine raise_reach ?_ _ _ _ _); exact .trans rfl hw)
    | with_reducible intro _
    | split

theorem thermal_reach {msk : Nat} (hw : Within 0x31FFA9 msk) (i : Nat) :
    M.All (Upd.In msk) (thermal i) := by
  unfold thermal
  repeat' first
    | (with_reducible first | exact .pure _ | exact .getS | refine .bind ?_ fun _ => ?_ | refine .ite ?_ ?_)
    | ((with_reducible refine .update ?_); exact .of hw rfl)
    | ((with_reducible refine modPower_reach ?_ _); exact .trans rfl hw)
    | ((with_reducible refine raise_reach ?_ _ _ _ _); exact .trans rfl hw)
    | ((with_reducible refine trigger_reach ?_ _ _ _ _ _); exact .trans rfl hw)
    | ((with_reducible refine drivePins_reach ?_); exact .trans rfl hw)
    | ((with_reducible refine opFallback_reach ?_ _ _ _ _); exact .trans rfl hw)
    | with_reducible intro _
    | split

theorem currentSample_reach {msk : Nat} (hw : Within 0x10189 msk) (i : Nat) :
    M.All (Upd.In msk) (currentSample i) := by
  unfold currentSample
  repeat' first
    | (with_reducible first | exact .pure _ | exact .getS | refine .bind ?_ fun _ => ?_ | refine .ite ?_ ?_)
    | ((with_reducible refine modPower_reach ?_ _); exact .trans rfl hw)
    | ((with_reducible refine opFallback_reach ?_ _ _ _ _); exact .trans rfl hw)
    | with_reducible intro _
    | split

theorem monitorSample_reach {msk : Nat} (hw : Within 0x31FFA9 msk) (kind i v : Nat) :
    M.All (Upd.In msk) (monitorSample kind i v) := by
  unfold monitorSample
  repeat' first
    | (with_reducible first | exact .pure _ | exact .getS | refine .bind ?_ fun _ => ?_ | refine .ite ?_ ?_)
    | ((with_reducible refine modPower_reach ?_ _); exact .trans rfl hw)
    | ((with_reducible refine currentSample_reach ?_ _); exact .trans rfl hw)
    | ((with_reducible refine thermal_reach ?_ _); exact .trans rfl hw)
    | with_reducible intro _
    | split

theorem droopDetect_reach {msk : Nat} (hw : Within 0x101A1 msk) (p : Nat) :
    M.All (Upd.In msk) (droopDetect p) := by
  unfold droopDetect
  repeat' first
    | (with_reducible first | exact .pure _ | exact .getS | refine .bind ?_ fun _ => ?_ | refine .ite ?_ ?_)
    | ((with_reducible refine modPower_reach ?_ _); exact .trans rfl hw)
    | ((with_reducible refine fresh_reach ?_ _); exact .trans rfl hw)
    | ((with_reducible refine raise_reach ?_ _ _ _ _); exact .trans rfl hw)
    | with_reducible intro _
    | split

theorem droopStretchEnd_reach {msk : Nat} (hw : Within 0x10008 msk) (p : Nat) :
    M.All (Upd.In msk) (droopStretchEnd p) := by
  unfold droopStretchEnd
  repeat' first
    | (with_reducible first | exact .pure _ | exact .getS | refine .bind ?_ fun _ => ?_ | refine .ite ?_ ?_)
    | ((with_reducible refine modPower_reach ?_ _); exact .trans rfl hw)
    | ((with_reducible refine bump_reach ?_ _ _ _); exact .trans rfl hw)
    | with_reducible intro _
    | split

theorem dieReset_reach {msk : Nat} (hw : Within 0xFD97CF msk) :
    M.All (Upd.In msk) (dieReset) := by
  unfold dieReset
  repeat' first
    | (with_reducible first | exact .pure _ | exact .getS | refine .bind ?_ fun _ => ?_ | refine .ite ?_ ?_ | refine .forIn _ _ _ fun _ _ => ?_)
    | ((with_reducible refine .update ?_); exact .of hw rfl)
    | ((with_reducible refine resetDma_reach ?_ _); exact .trans rfl hw)
    | ((with_reducible refine setLocked_reach ?_ _ _); exact .trans rfl hw)
    | ((with_reducible refine showRails_reach ?_); exact .trans rfl hw)
    | ((with_reducible refine modPower_reach ?_ _); exact .trans rfl hw)
    | ((with_reducible refine modTally_reach ?_ _); exact .trans rfl hw)
    | ((with_reducible refine reloadTime_reach ?_); exact .trans rfl hw)
    | ((with_reducible refine modRadio_reach ?_ _); exact .trans rfl hw)
    | ((with_reducible refine clearCameras_reach ?_); exact .trans rfl hw)
    | ((with_reducible refine wrFld_reach ?_ _ _ _); exact .trans rfl hw)
    | with_reducible intro _
    | split

theorem assertReset_reach {msk : Nat} (hw : Within 0xFD9FCF msk) (sc : Scope) :
    M.All (Upd.In msk) (assertReset sc) := by
  unfold assertReset
  repeat' first
    | (with_reducible first | exact .pure _ | exact .getS | refine .bind ?_ fun _ => ?_ | refine .ite ?_ ?_)
    | ((with_reducible refine .update ?_); exact .of hw rfl)
    | ((with_reducible refine resetEngine_reach ?_ _); exact .trans rfl hw)
    | ((with_reducible refine dieReset_reach ?_); exact .trans rfl hw)
    | ((with_reducible refine resetPart_reach ?_ _); exact .trans rfl hw)
    | with_reducible intro _
    | split

theorem drainEnds_reach {msk : Nat} (hw : Within 0xFDFFEF msk) (dom : Nat) :
    M.All (Upd.In msk) (drainEnds dom) := by
  unfold drainEnds
  repeat' first
    | (with_reducible first | exact .pure _ | exact .getS | refine .bind ?_ fun _ => ?_ | refine .ite ?_ ?_)
    | ((with_reducible refine .update ?_); exact .of hw rfl)
    | ((with_reducible refine resumeFenceHolds_reach ?_ _); exact .trans rfl hw)
    | ((with_reducible refine assertReset_reach ?_ _); exact .trans rfl hw)
    | ((with_reducible refine wrFld_reach ?_ _ _ _); exact .trans rfl hw)
    | with_reducible intro _
    | split

theorem chipReset_reach {msk : Nat} (hw : Within 0x30FFA9 msk) (cause : Nat) :
    M.All (Upd.In msk) (chipReset cause) := by
  unfold chipReset
  repeat' first
    | (with_reducible first | exact .pure _ | exact .getS | refine .bind ?_ fun _ => ?_ | refine .ite ?_ ?_)
    | ((with_reducible refine trigger_reach ?_ _ _ _ _ _); exact .trans rfl hw)
    | ((with_reducible refine drivePins_reach ?_); exact .trans rfl hw)
    | with_reducible intro _
    | split

theorem rungLimitExpiry_reach {msk : Nat} (hw : Within 0x30FFA9 msk) (key : Nat) :
    M.All (Upd.In msk) (rungLimitExpiry key) := by
  unfold rungLimitExpiry
  repeat' first
    | (with_reducible first | exact .pure _ | exact .getS | refine .bind ?_ fun _ => ?_ | refine .ite ?_ ?_)
    | ((with_reducible refine .update ?_); exact .of hw rfl)
    | ((with_reducible refine writeReport_reach ?_ _ _); exact .trans rfl hw)
    | ((with_reducible refine trigger_reach ?_ _ _ _ _ _); exact .trans rfl hw)
    | ((with_reducible refine rcvEvent_reach ?_ _ _ _); exact .trans rfl hw)
    | ((with_reducible refine requestPowerCycle_reach ?_ _ _ _ _ _); exact .trans rfl hw)
    | with_reducible intro _
    | split

theorem resetComplete_reach {msk : Nat} (hw : Within 0x10FBA9 msk) (key : Nat) :
    M.All (Upd.In msk) (resetComplete key) := by
  unfold resetComplete
  repeat' first
    | (with_reducible first | exact .pure _ | exact .getS | refine .bind ?_ fun _ => ?_ | refine .ite ?_ ?_ | refine .forIn _ _ _ fun _ _ => ?_)
    | ((with_reducible refine .update ?_); exact .of hw rfl)
    | ((with_reducible refine writeReport_reach ?_ _ _); exact .trans rfl hw)
    | ((with_reducible refine rcvEvent_reach ?_ _ _ _); exact .trans rfl hw)
    | ((with_reducible refine raise_reach ?_ _ _ _ _); exact .trans rfl hw)
    | ((with_reducible refine restoreRegs_reach ?_ _); exact .trans rfl hw)
    | ((with_reducible refine enterBivouac_reach ?_); exact .trans rfl hw)
    | ((with_reducible refine drivePins_reach ?_); exact .trans rfl hw)
    | ((with_reducible refine presenceChanged_reach ?_); exact .trans rfl hw)
    | ((with_reducible refine modEngine_reach ?_ _ _); exact .trans rfl hw)
    | ((with_reducible refine resumeFenceHolds_reach ?_ _); exact .trans rfl hw)
    | ((with_reducible refine wrFld_reach ?_ _ _ _); exact .trans rfl hw)
    | with_reducible intro _
    | split

theorem checkCopies_reach {msk : Nat} (hw : Within 0x10FBA9 msk) (q seq : Nat) :
    M.All (Upd.In msk) (checkCopies q seq) := by
  unfold checkCopies
  repeat' first
    | fail_if_no_progress beta_reduce
    | (extract_lets +onlyGivenNames jp
       first
       | (refine (fun hj : ∀ x, M.All (Upd.In msk) (jp x) => ?_) (fun x => ?_)
          on_goal 2 => (dsimp -zeta only [jp]; clear jp)
          on_goal 1 => clear_value jp)
       | clear_value jp)
    | (with_reducible first | exact .pure _ | exact .getS | refine .bind ?_ fun _ => ?_ | refine .ite ?_ ?_)
    | ((with_reducible refine raise_reach ?_ _ _ _ _); exact .trans rfl hw)
    | ((with_reducible refine leaveEntry_reach ?_ _ _); exact .trans rfl hw)
    | ((with_reducible refine settleAll_reach ?_ _); exact .trans rfl hw)
    | ((with_reducible refine storeLine_reach ?_ _ _ _); exact .trans rfl hw)
    | ((with_reducible refine writeLedger_reach ?_ _ _ _ _ _ _ _ _ _); exact .trans rfl hw)
    | with_reducible apply_assumption -exfalso -symm
    | with_reducible intro _
    | split

theorem replayChip_reach {msk : Nat} (hw : Within 0x10FBA9 msk) :
    M.All (Upd.In msk) (replayChip) := by
  unfold replayChip
  repeat' first
    | (with_reducible first | exact .pure _ | exact .getS | refine .bind ?_ fun _ => ?_ | refine .ite ?_ ?_ | refine .forIn _ _ _ fun _ _ => ?_)
    | ((with_reducible refine .update ?_); exact .of hw rfl)
    | ((with_reducible refine heldEffectRelease_reach ?_ _ _); exact .trans rfl hw)
    | ((with_reducible refine raise_reach ?_ _ _ _ _); exact .trans rfl hw)
    | ((with_reducible refine resubmit_reach ?_ _ _); exact .trans rfl hw)
    | ((with_reducible refine checkCopies_reach ?_ _ _); exact .trans rfl hw)
    | with_reducible intro _
    | split

theorem engineHang_reach {msk : Nat} (hw : Within 0x30FFA9 msk) (e : Nat) :
    M.All (Upd.In msk) (engineHang e) := by
  unfold engineHang
  repeat' first
    | (with_reducible first | exact .pure _ | exact .getS | refine .bind ?_ fun _ => ?_ | refine .ite ?_ ?_)
    | ((with_reducible refine settleAll_reach ?_ _); exact .trans rfl hw)
    | ((with_reducible refine trigger_reach ?_ _ _ _ _ _); exact .trans rfl hw)
    | ((with_reducible refine raiseFor_reach ?_ _ _ _ _ _); exact .trans rfl hw)
    | with_reducible intro _
    | split

theorem wdtKick_reach {msk : Nat} (hw : Within 0x981 msk) (by_ : Requester) :
    M.All (Upd.In msk) (wdtKick by_) := by
  unfold wdtKick
  repeat' first
    | (with_reducible first | exact .pure _ | exact .getS | refine .bind ?_ fun _ => ?_ | refine .ite ?_ ?_)
    | ((with_reducible refine .update ?_); exact .of hw rfl)
    | ((with_reducible refine refuseReg_reach ?_ _ _ _); exact .trans rfl hw)
    | with_reducible intro _
    | split

theorem bccWatchdogExpiry_reach {msk : Nat} (hw : Within 0x34FFA9 msk) :
    M.All (Upd.In msk) (bccWatchdogExpiry) := by
  unfold bccWatchdogExpiry
  repeat' first
    | (with_reducible first | exact .pure _ | exact .getS | refine .bind ?_ fun _ => ?_ | refine .ite ?_ ?_)
    | ((with_reducible refine .update ?_); exact .of hw rfl)
    | ((with_reducible refine revertUpdate_reach ?_ _); exact .trans rfl hw)
    | ((with_reducible refine raise_reach ?_ _ _ _ _); exact .trans rfl hw)
    | ((with_reducible refine restartBlock_reach ?_ _ _); exact .trans rfl hw)
    | with_reducible intro _
    | split

theorem heartbeatLoss_reach {msk : Nat} (hw : Within 0x30FFA9 msk) (block : Nat) :
    M.All (Upd.In msk) (heartbeatLoss block) := by
  unfold heartbeatLoss
  repeat' first
    | (with_reducible first | exact .pure _ | exact .getS | refine .bind ?_ fun _ => ?_ | refine .ite ?_ ?_)
    | ((with_reducible refine raise_reach ?_ _ _ _ _); exact .trans rfl hw)
    | ((with_reducible refine restartBlock_reach ?_ _ _); exact .trans rfl hw)
    | ((with_reducible refine trigger_reach ?_ _ _ _ _ _); exact .trans rfl hw)
    | ((with_reducible refine drivePins_reach ?_); exact .trans rfl hw)
    | with_reducible intro _
    | split

theorem resetIn_reach {msk : Nat} (hw : Within 0x30FFA9 msk) :
    M.All (Upd.In msk) (resetIn) := by
  unfold resetIn
  repeat' first
    | (with_reducible first | exact .pure _ | exact .getS | refine .bind ?_ fun _ => ?_ | refine .ite ?_ ?_)
    | ((with_reducible refine .update ?_); exact .of hw rfl)
    | ((with_reducible refine trigger_reach ?_ _ _ _ _ _); exact .trans rfl hw)
    | ((with_reducible refine drivePins_reach ?_); exact .trans rfl hw)
    | with_reducible intro _
    | split

theorem smbusRead_reach {msk : Nat} (hw : Within 0x4010 msk) :
    M.All (Upd.In msk) (smbusRead) := by
  unfold smbusRead
  repeat' first
    | (with_reducible first | exact .pure _ | exact .getS | refine .bind ?_ fun _ => ?_ | refine .ite ?_ ?_)
    | ((with_reducible refine .update ?_); exact .of hw rfl)
    | ((with_reducible refine answer_reach ?_ _ _); exact .trans rfl hw)
    | with_reducible intro _
    | split

theorem ledgerCopyRewritten_reach {msk : Nat} (hw : Within 0x100 msk) (q : Nat) :
    M.All (Upd.In msk) (ledgerCopyRewritten q) := by
  unfold ledgerCopyRewritten
  repeat' first
    | (with_reducible first | exact .pure _ | exact .getS | refine .bind ?_ fun _ => ?_ | refine .ite ?_ ?_ | refine .forIn _ _ _ fun _ _ => ?_)
    | ((with_reducible refine modTally_reach ?_ _); exact .trans rfl hw)
    | ((with_reducible refine modQueue_reach ?_ _ _); exact .trans rfl hw)
    | with_reducible intro _
    | split

theorem destroyObjects_reach {msk : Nat} (hw : Within 0xBBA9 msk) (h : Nat) :
    M.All (Upd.In msk) (destroyObjects h) := by
  unfold destroyObjects
  repeat' first
    | (with_reducible first | exact .pure _ | exact .getS | refine .bind ?_ fun _ => ?_ | refine .ite ?_ ?_ | refine .forIn _ _ _ fun _ _ => ?_)
    | ((with_reducible refine .update ?_); exact .of hw rfl)
    | ((with_reducible refine modTally_reach ?_ _); exact .trans rfl hw)
    | ((with_reducible refine writeLedger_reach ?_ _ _ _ _ _ _ _ _ _); exact .trans rfl hw)
    | with_reducible intro _
    | split

theorem teardownContext_reach {msk : Nat} (hw : Within 0x30FFB9 msk) (h reportAt : Nat) :
    M.All (Upd.In msk) (teardownContext h reportAt) := by
  unfold teardownContext
  repeat' first
    | (with_reducible first | exact .pure _ | exact .getS | refine .bind ?_ fun _ => ?_ | refine .ite ?_ ?_ | refine .forIn _ _ _ fun _ _ => ?_)
    | ((with_reducible refine .update ?_); exact .of hw rfl)
    | ((with_reducible refine answer_reach ?_ _ _); exact .trans rfl hw)
    | ((with_reducible refine destroyObjects_reach ?_ _); exact .trans rfl hw)
    | ((with_reducible refine unstall_reach ?_ _); exact .trans rfl hw)
    | ((with_reducible refine dropTranslations_reach ?_ _); exact .trans rfl hw)
    | ((with_reducible refine trigger_reach ?_ _ _ _ _ _); exact .trans rfl hw)
    | ((with_reducible refine modCtx_reach ?_ _ _); exact .trans rfl hw)
    | ((with_reducible refine finish_reach ?_ _ _); exact .trans rfl hw)
    | ((with_reducible refine wrReg_reach ?_ _ _); exact .trans rfl hw)
    | ((with_reducible refine dmaAbort_reach ?_ _); exact .trans rfl hw)
    | with_reducible intro _
    | split

theorem teardownComplete_reach {msk : Nat} (hw : Within 0xB89 msk) (h : Nat) :
    M.All (Upd.In msk) (teardownComplete h) := by
  unfold teardownComplete
  repeat' first
    | (with_reducible first | exact .pure _ | exact .getS | refine .bind ?_ fun _ => ?_ | refine .ite ?_ ?_)
    | ((with_reducible refine .update ?_); exact .of hw rfl)
    | ((with_reducible refine raise_reach ?_ _ _ _ _); exact .trans rfl hw)
    | ((with_reducible refine modCtx_reach ?_ _ _); exact .trans rfl hw)
    | ((with_reducible refine physWriteAll_reach ?_ _ _ _); exact .trans rfl hw)
    | with_reducible intro _
    | split

theorem pipelineEnable_reach {msk : Nat} (hw : Within 0x100189 msk) (p : Nat) :
    M.All (Upd.In msk) (pipelineEnable p) := by
  unfold pipelineEnable
  repeat' first
    | (with_reducible first | exact .pure _ | exact .getS | refine .bind ?_ fun _ => ?_ | refine .ite ?_ ?_)
    | ((with_reducible refine refuseReg_reach ?_ _ _ _); exact .trans rfl hw)
    | ((with_reducible refine modPipe_reach ?_ _ _); exact .trans rfl hw)
    | ((with_reducible refine settlePipe_reach ?_ _); exact .trans rfl hw)
    | ((with_reducible refine wrFld_reach ?_ _ _ _); exact .trans rfl hw)
    | with_reducible intro _
    | split

theorem cairnEnable_reach {msk : Nat} (hw : Within 0x100189 msk) (c : Nat) :
    M.All (Upd.In msk) (cairnEnable c) := by
  unfold cairnEnable
  repeat' first
    | (with_reducible first | exact .pure _ | exact .getS | refine .bind ?_ fun _ => ?_ | refine .ite ?_ ?_ | refine .forIn _ _ _ fun _ _ => ?_)
    | ((with_reducible refine refuseReg_reach ?_ _ _ _); exact .trans rfl hw)
    | ((with_reducible refine modPipe_reach ?_ _ _); exact .trans rfl hw)
    | ((with_reducible refine modCairn_reach ?_ _ _); exact .trans rfl hw)
    | ((with_reducible refine settlePipe_reach ?_ _); exact .trans rfl hw)
    | with_reducible intro _
    | split

theorem belayEnable_reach {msk : Nat} (hw : Within 0x100181 msk) (w : Nat) :
    M.All (Upd.In msk) (belayEnable w) := by
  unfold belayEnable
  repeat' first
    | (with_reducible first | exact .pure _ | exact .getS | refine .bind ?_ fun _ => ?_ | refine .ite ?_ ?_)
    | ((with_reducible refine refuseReg_reach ?_ _ _ _); exact .trans rfl hw)
    | ((with_reducible refine modBelay_reach ?_ _ _); exact .trans rfl hw)
    | with_reducible intro _
    | split

theorem sealEnable_reach {msk : Nat} (hw : Within 0x1181 msk) (r base : Nat) :
    M.All (Upd.In msk) (sealEnable r base) := by
  unfold sealEnable
  repeat' first
    | (with_reducible first | exact .pure _ | exact .getS | refine .bind ?_ fun _ => ?_ | refine .ite ?_ ?_)
    | ((with_reducible refine .update ?_); exact .of hw rfl)
    | ((with_reducible refine refuseReg_reach ?_ _ _ _); exact .trans rfl hw)
    | with_reducible intro _
    | split

theorem releaseEntry_reach {msk : Nat} (hw : Within 0xABA9 msk) (q p : Nat) (u : Queue) (i : PipeInst) (v : Nat × Nat) (e : Entry) :
    M.All (Upd.In msk) (releaseEntry q p u i v e) := by
  unfold releaseEntry
  repeat' first
    | (with_reducible first | exact .pure _ | exact .getS | refine .bind ?_ fun _ => ?_ | refine .ite ?_ ?_)
    | ((with_reducible refine ctxRead_reach ?_ _ _ _ _); exact .trans rfl hw)
    | ((with_reducible refine modQueue_reach ?_ _ _); exact .trans rfl hw)
    | ((with_reducible refine forwardEntry_reach ?_ _ _ _ _ _ _ _); exact .trans rfl hw)
    | ((with_reducible refine ctxWrite_reach ?_ _ _ _ _); exact .trans rfl hw)
    | with_reducible intro _
    | split

theorem decideInst_reach {msk : Nat} (hw : Within 0x10FBA9 msk) (p : Nat) (i : PipeInst) :
    M.All (Upd.In msk) (decideInst p i) := by
  unfold decideInst
  repeat' first
    | (with_reducible first | exact .pure _ | exact .getS | refine .bind ?_ fun _ => ?_ | refine .ite ?_ ?_ | refine .forIn _ _ _ fun _ _ => ?_)
    | ((with_reducible refine dropEvent_reach ?_ _ _); exact .trans rfl hw)
    | ((with_reducible refine modPipe_reach ?_ _ _); exact .trans rfl hw)
    | ((with_reducible refine bump_reach ?_ _ _ _); exact .trans rfl hw)
    | ((with_reducible refine raise_reach ?_ _ _ _ _); exact .trans rfl hw)
    | ((with_reducible refine releaseEntry_reach ?_ _ _ _ _ _ _); exact .trans rfl hw)
    | ((with_reducible refine settleAll_reach ?_ _); exact .trans rfl hw)
    | ((with_reducible refine acceptEntry_reach ?_ _ _ _ _ _ _ _ _ _); exact .trans rfl hw)
    | with_reducible intro _
    | split

theorem gateDecision_reach {msk : Nat} (hw : Within 0x10FBA9 msk) (p : Nat) :
    M.All (Upd.In msk) (gateDecision p) := by
  unfold gateDecision
  repeat' first
    | (with_reducible first | exact .pure _ | exact .getS | refine .bind ?_ fun _ => ?_ | refine .ite ?_ ?_)
    | ((with_reducible refine decideInst_reach ?_ _ _); exact .trans rfl hw)
    | with_reducible intro _
    | split

theorem gateDeadline_reach {msk : Nat} (hw : Within 0x10FBA9 msk) (p : Nat) :
    M.All (Upd.In msk) (gateDeadline p) := by
  unfold gateDeadline
  repeat' first
    | (with_reducible first | exact .pure _ | exact .getS | refine .bind ?_ fun _ => ?_ | refine .ite ?_ ?_)
    | ((with_reducible refine pipeFault_reach ?_ _ _ _ _ _ _ _); exact .trans rfl hw)
    | ((with_reducible refine decideInst_reach ?_ _ _); exact .trans rfl hw)
    | with_reducible intro _
    | split

theorem checkerCompare_reach {msk : Nat} (hw : Within 0x104189 msk) (p t crc : Nat) :
    M.All (Upd.In msk) (checkerCompare p t crc) := by
  unfold checkerCompare
  repeat' first
    | (with_reducible first | exact .pure _ | exact .getS | refine .bind ?_ fun _ => ?_ | refine .ite ?_ ?_)
    | ((with_reducible refine modPipe_reach ?_ _ _); exact .trans rfl hw)
    | ((with_reducible refine bump_reach ?_ _ _ _); exact .trans rfl hw)
    | ((with_reducible refine pipeFault_reach ?_ _ _ _ _ _ _ _); exact .trans rfl hw)
    | with_reducible intro _
    | split

theorem safeWrite_reach {msk : Nat} (hw : Within 0x181 msk) (by_ : Requester) (off value : Nat) (m : M Unit) (hm : M.All (Upd.In msk) (m)) :
    M.All (Upd.In msk) (safeWrite by_ off value m) := by
  unfold safeWrite
  repeat' first
    | (with_reducible first | exact .pure _ | exact .getS | refine .bind ?_ fun _ => ?_ | refine .ite ?_ ?_)
    | ((with_reducible refine refuseReg_reach ?_ _ _ _); exact .trans rfl hw)
    | with_reducible apply_assumption -exfalso -symm
    | with_reducible assumption
    | with_reducible intro _
    | split

theorem safeClear_reach {msk : Nat} (hw : Within 0x104189 msk) (p : Nat) :
    M.All (Upd.In msk) (safeClear p) := by
  unfold safeClear
  repeat' first
    | (with_reducible first | exact .pure _ | exact .getS | refine .bind ?_ fun _ => ?_ | refine .ite ?_ ?_)
    | ((with_reducible refine refuseReg_reach ?_ _ _ _); exact .trans rfl hw)
    | ((with_reducible refine modPipe_reach ?_ _ _); exact .trans rfl hw)
    | ((with_reducible refine raise_reach ?_ _ _ _ _); exact .trans rfl hw)
    | ((with_reducible refine drivePins_reach ?_); exact .trans rfl hw)
    | ((with_reducible refine wrFld_reach ?_ _ _ _); exact .trans rfl hw)
    | with_reducible intro _
    | split

theorem safeEnter_reach {msk : Nat} (hw : Within 0x104189 msk) (p : Nat) :
    M.All (Upd.In msk) (safeEnter p) := by
  unfold safeEnter
  repeat' first
    | (with_reducible first | exact .pure _ | exact .getS | refine .bind ?_ fun _ => ?_ | refine .ite ?_ ?_)
    | ((with_reducible refine enterSafe_reach ?_ _ _ _ _); exact .trans rfl hw)
    | with_reducible intro _
    | split

theorem belayArm_reach {msk : Nat} (hw : Within 0x100000 msk) (w : Nat) :
    M.All (Upd.In msk) (belayArm w) := by
  unfold belayArm
  repeat' first
    | (with_reducible first | exact .pure _ | exact .getS | refine .bind ?_ fun _ => ?_ | refine .ite ?_ ?_)
    | ((with_reducible refine modBelay_reach ?_ _ _); exact .trans rfl hw)
    | with_reducible intro _
    | split

theorem belayWindowDecision_reach {msk : Nat} (hw : Within 0x104189 msk) (w : Nat) :
    M.All (Upd.In msk) (belayWindowDecision w) := by
  unfold belayWindowDecision
  repeat' first
    | fail_if_no_progress beta_reduce
    | (extract_lets +onlyGivenNames jp
       first
       | (refine (fun hj : ∀ x, M.All (Upd.In msk) (jp x) => ?_) (fun x => ?_)
          on_goal 2 => (dsimp -zeta only [jp]; clear jp)
          on_goal 1 => clear_value jp)
       | clear_value jp)
    | (with_reducible first | exact .pure _ | exact .getS | refine .bind ?_ fun _ => ?_ | refine .ite ?_ ?_)
    | ((with_reducible refine pipeFault_reach ?_ _ _ _ _ _ _ _); exact .trans rfl hw)
    | ((with_reducible refine raise_reach ?_ _ _ _ _); exact .trans rfl hw)
    | ((with_reducible refine modBelay_reach ?_ _ _); exact .trans rfl hw)
    | with_reducible apply_assumption -exfalso -symm
    | with_reducible intro _
    | split

theorem cairnMissed_reach {msk : Nat} (hw : Within 0x100189 msk) (c why due : Nat) :
    M.All (Upd.In msk) (cairnMissed c why due) := by
  unfold cairnMissed
  repeat' first
    | (with_reducible first | exact .pure _ | exact .getS | refine .bind ?_ fun _ => ?_ | refine .ite ?_ ?_ | refine .forIn _ _ _ fun _ _ => ?_)
    | ((with_reducible refine modPipe_reach ?_ _ _); exact .trans rfl hw)
    | ((with_reducible refine raise_reach ?_ _ _ _ _); exact .trans rfl hw)
    | ((with_reducible refine modCairn_reach ?_ _ _); exact .trans rfl hw)
    | ((with_reducible refine settlePipe_reach ?_ _); exact .trans rfl hw)
    | with_reducible intro _
    | split

theorem reserveStall_reach {msk : Nat} (hw : Within 0x300 msk) (e id : Nat) :
    M.All (Upd.In msk) (reserveStall e id) := by
  unfold reserveStall
  repeat' first
    | (with_reducible first | exact .pure _ | exact .getS | refine .bind ?_ fun _ => ?_ | refine .ite ?_ ?_)
    | ((with_reducible refine enlist_reach ?_ _ _); exact .trans rfl hw)
    | ((with_reducible refine modEngine_reach ?_ _ _); exact .trans rfl hw)
    | ((with_reducible refine modTask_reach ?_ _ _); exact .trans rfl hw)
    | with_reducible intro _
    | split

theorem cairnDue_reach {msk : Nat} (hw : Within 0x10FBA9 msk) (c : Nat) :
    M.All (Upd.In msk) (cairnDue c) := by
  unfold cairnDue
  repeat' first
    | (with_reducible first | exact .pure _ | exact .getS | refine .bind ?_ fun _ => ?_ | refine .ite ?_ ?_ | refine .forIn _ _ _ fun _ _ => ?_)
    | ((with_reducible refine .update ?_); exact .of hw rfl)
    | ((with_reducible refine cairnMissed_reach ?_ _ _ _); exact .trans rfl hw)
    | ((with_reducible refine createInstance_reach ?_ _ _ _ _); exact .trans rfl hw)
    | ((with_reducible refine modCairn_reach ?_ _ _); exact .trans rfl hw)
    | ((with_reducible refine reserveStall_reach ?_ _ _); exact .trans rfl hw)
    | ((with_reducible refine countInstance_reach ?_ _); exact .trans rfl hw)
    | with_reducible intro _
    | split

theorem cairnWindowExpiry_reach {msk : Nat} (hw : Within 0x104189 msk) (c : Nat) :
    M.All (Upd.In msk) (cairnWindowExpiry c) := by
  unfold cairnWindowExpiry
  repeat' first
    | (with_reducible first | exact .pure _ | exact .getS | refine .bind ?_ fun _ => ?_ | refine .ite ?_ ?_ | refine .forIn _ _ _ fun _ _ => ?_)
    | ((with_reducible refine cairnMissed_reach ?_ _ _ _); exact .trans rfl hw)
    | ((with_reducible refine enterSafe_reach ?_ _ _ _ _); exact .trans rfl hw)
    | ((with_reducible refine modPipe_reach ?_ _ _); exact .trans rfl hw)
    | ((with_reducible refine raise_reach ?_ _ _ _ _); exact .trans rfl hw)
    | ((with_reducible refine modCairn_reach ?_ _ _); exact .trans rfl hw)
    | ((with_reducible refine settlePipe_reach ?_ _); exact .trans rfl hw)
    | with_reducible intro _
    | split

end Sys2Proof.Machine
end

