-- ==== Sys2Proof/Laws/ReachOps.lean ====
section
/-! SUPPORT. Which components of the state the operations of one group reach: the operations of the engines. One lemma for each operation: every update it makes
lies in its mask, so every component outside the mask is as before. -/

set_option linter.unusedTactic false
set_option linter.unreachableTactic false
set_option linter.unusedVariables false
set_option linter.style.multiGoal false

namespace Sys2Proof.Machine

open Sys2Proof

theorem writeSeals_reach {msk : Nat} (hw : Within 0xBA9 msk) (k : Task) (ts : List Ten) (f : Form) :
    M.All (Upd.In msk) (writeSeals k ts f) := by
  unfold writeSeals
  repeat' first
    | (with_reducible first | exact .pure _ | exact .getS | refine .bind ?_ fun _ => ?_ | refine .ite ?_ ?_ | refine .forIn _ _ _ fun _ _ => ?_)
    | ((with_reducible refine ctxWrite_reach ?_ _ _ _ _); exact .trans rfl hw)
    | with_reducible intro _
    | split

theorem checkSeals_reach {msk : Nat} (hw : Within 0x104189 msk) (k : Task) (ts : List Ten) (units : List Nat) :
    M.All (Upd.In msk) (checkSeals k ts units) := by
  unfold checkSeals
  repeat' first
    | (with_reducible first | exact .pure _ | exact .getS | refine .bind ?_ fun _ => ?_ | refine .ite ?_ ?_ | refine .forIn _ _ _ fun _ _ => ?_)
    | ((with_reducible refine taskFault_reach ?_ _ _ _ _); exact .trans rfl hw)
    | with_reducible intro _
    | split

theorem sampleBlocks_reach {msk : Nat} (hw : Within 0x100000 msk) (t : Nat) (k : Task) (every : Bool) (blocks : List (List Byte)) :
    M.All (Upd.In msk) (sampleBlocks t k every blocks) := by
  unfold sampleBlocks
  repeat' first
    | (with_reducible first | exact .pure _ | exact .getS | refine .bind ?_ fun _ => ?_ | refine .ite ?_ ?_)
    | ((with_reducible refine modPipe_reach ?_ _ _); exact .trans rfl hw)
    | with_reducible intro _
    | split

theorem writeRuns_reach {msk : Nat} (hw : Within 0xBA9 msk) (e h : Nat) : ∀ (z0 : List (Nat × List Byte)),
    M.All (Upd.In msk) (writeRuns e h z0) := by
  intro z0
  induction z0 with
  | nil =>
    intros
    unfold writeRuns
    repeat' first
      | (with_reducible first | exact .pure _ | exact .getS | refine .bind ?_ fun _ => ?_ | refine .ite ?_ ?_)
      | ((with_reducible refine ctxWrite_reach ?_ _ _ _ _); exact .trans rfl hw)
      | with_reducible apply_assumption -exfalso -symm
      | with_reducible intro _
      | (injections; subst_vars; with_reducible apply_assumption -exfalso -symm)
      | split
  | cons x t ih =>
    intros
    unfold writeRuns
    repeat' first
      | (with_reducible first | exact .pure _ | exact .getS | refine .bind ?_ fun _ => ?_ | refine .ite ?_ ?_)
      | ((with_reducible refine ctxWrite_reach ?_ _ _ _ _); exact .trans rfl hw)
      | with_reducible apply_assumption -exfalso -symm
      | with_reducible intro _
      | (injections; subst_vars; with_reducible apply_assumption -exfalso -symm)
      | split

theorem touch_reach {msk : Nat} (hw : Within 0xBA9 msk) (e h : Nat) : ∀ (z0 : List Nat),
    M.All (Upd.In msk) (touch e h z0) := by
  intro z0
  induction z0 with
  | nil =>
    intros
    unfold touch
    repeat' first
      | (with_reducible first | exact .pure _ | exact .getS | refine .bind ?_ fun _ => ?_ | refine .ite ?_ ?_)
      | ((with_reducible refine ctxRead_reach ?_ _ _ _ _); exact .trans rfl hw)
      | with_reducible apply_assumption -exfalso -symm
      | with_reducible intro _
      | (injections; subst_vars; with_reducible apply_assumption -exfalso -symm)
      | split
  | cons x t ih =>
    intros
    unfold touch
    repeat' first
      | (with_reducible first | exact .pure _ | exact .getS | refine .bind ?_ fun _ => ?_ | refine .ite ?_ ?_)
      | ((with_reducible refine ctxRead_reach ?_ _ _ _ _); exact .trans rfl hw)
      | with_reducible apply_assumption -exfalso -symm
      | with_reducible intro _
      | (injections; subst_vars; with_reducible apply_assumption -exfalso -symm)
      | split

theorem runPlanWith_reach {msk : Nat} (hw : Within 0x10FBA9 msk) (t : Nat) (smp : Sampling) (every : Bool) (plan : State → List Ten → Plan) (notes : State → List Ten → Notes) (post : List OutW → M Unit) (hpost : ∀ x0, M.All (Upd.In msk) (post x0)) :
    M.All (Upd.In msk) (runPlanWith t smp every plan notes post) := by
  unfold runPlanWith
  repeat' first
    | (with_reducible first | exact .pure _ | exact .getS | refine .bind ?_ fun _ => ?_ | refine .ite ?_ ?_)
    | ((with_reducible refine writeSeals_reach ?_ _ _ _); exact .trans rfl hw)
    | ((with_reducible refine checkSeals_reach ?_ _ _ _); exact .trans rfl hw)
    | ((with_reducible refine opFault_reach ?_ _ _); exact .trans rfl hw)
    | ((with_reducible refine sampleBlocks_reach ?_ _ _ _ _); exact .trans rfl hw)
    | ((with_reducible refine bump_reach ?_ _ _ _); exact .trans rfl hw)
    | ((with_reducible refine modTask_reach ?_ _ _); exact .trans rfl hw)
    | ((with_reducible refine writeRuns_reach ?_ _ _ _); exact .trans rfl hw)
    | ((with_reducible refine touch_reach ?_ _ _ _); exact .trans rfl hw)
    | with_reducible apply_assumption -exfalso -symm
    | with_reducible assumption
    | with_reducible intro _
    | split

theorem runPlan_reach {msk : Nat} (hw : Within 0x10FBA9 msk) (t : Nat) (smp : Sampling) (every : Bool) (plan : State → List Ten → Plan) :
    M.All (Upd.In msk) (runPlan t smp every plan) := by
  unfold runPlan
  repeat' first
    | (with_reducible first | exact .pure _ | exact .getS | refine .bind ?_ fun _ => ?_ | refine .ite ?_ ?_)
    | ((with_reducible refine runPlanWith_reach ?_ _ _ _ _ _ _ ?_); on_goal 1 => exact .trans rfl hw)
    | with_reducible intro _
    | split

theorem runOp_reach {msk : Nat} (hw : Within 0x10FBA9 msk) (t : Nat) (smp : Sampling) (plan : Nat → List Byte → State → List Ten → Plan) :
    M.All (Upd.In msk) (runOp t smp plan) := by
  unfold runOp
  repeat' first
    | (with_reducible first | exact .pure _ | exact .getS | refine .bind ?_ fun _ => ?_ | refine .ite ?_ ?_)
    | ((with_reducible refine runPlan_reach ?_ _ _ _ _); exact .trans rfl hw)
    | with_reducible intro _
    | split

theorem cairnCheckOp_reach {msk : Nat} (hw : Within 0x10FBA9 msk) (t : Nat) :
    M.All (Upd.In msk) (cairnCheckOp t) := by
  unfold cairnCheckOp
  repeat' first
    | (with_reducible first | exact .pure _ | exact .getS | refine .bind ?_ fun _ => ?_ | refine .ite ?_ ?_)
    | ((with_reducible refine .update ?_); exact .of hw rfl)
    | ((with_reducible refine runOp_reach ?_ _ _ _); exact .trans rfl hw)
    | with_reducible intro _
    | split

theorem radioCount_reach {msk : Nat} (hw : Within 0x8 msk) (t work sat : Nat) :
    M.All (Upd.In msk) (radioCount t work sat) := by
  unfold radioCount
  repeat' first
    | (with_reducible first | exact .pure _ | exact .getS | refine .bind ?_ fun _ => ?_ | refine .ite ?_ ?_)
    | ((with_reducible refine bump_reach ?_ _ _ _); exact .trans rfl hw)
    | with_reducible intro _
    | split

theorem ldpcDecode_reach {msk : Nat} (hw : Within 0x10FBA9 msk) (t : Nat) :
    M.All (Upd.In msk) (ldpcDecode t) := by
  unfold ldpcDecode
  repeat' first
    | (with_reducible first | exact .pure _ | exact .getS | refine .bind ?_ fun _ => ?_ | refine .ite ?_ ?_)
    | ((with_reducible refine runPlanWith_reach ?_ _ _ _ _ _ _ ?_); on_goal 1 => exact .trans rfl hw)
    | ((with_reducible refine radioCount_reach ?_ _ _ _); exact .trans rfl hw)
    | with_reducible intro _
    | split

theorem ldpcEncode_reach {msk : Nat} (hw : Within 0x10FBA9 msk) (t : Nat) :
    M.All (Upd.In msk) (ldpcEncode t) := by
  unfold ldpcEncode
  repeat' first
    | (with_reducible first | exact .pure _ | exact .getS | refine .bind ?_ fun _ => ?_ | refine .ite ?_ ?_)
    | ((with_reducible refine runPlanWith_reach ?_ _ _ _ _ _ _ ?_); on_goal 1 => exact .trans rfl hw)
    | ((with_reducible refine radioCount_reach ?_ _ _ _); exact .trans rfl hw)
    | with_reducible intro _
    | split

theorem polarEncodeOp_reach {msk : Nat} (hw : Within 0x10FBA9 msk) (t : Nat) :
    M.All (Upd.In msk) (polarEncodeOp t) := by
  unfold polarEncodeOp
  repeat' first
    | (with_reducible first | exact .pure _ | exact .getS | refine .bind ?_ fun _ => ?_ | refine .ite ?_ ?_)
    | ((with_reducible refine runPlanWith_reach ?_ _ _ _ _ _ _ ?_); on_goal 1 => exact .trans rfl hw)
    | ((with_reducible refine radioCount_reach ?_ _ _ _); exact .trans rfl hw)
    | with_reducible intro _
    | split

theorem polarDecodeOp_reach {msk : Nat} (hw : Within 0x10FBA9 msk) (t : Nat) :
    M.All (Upd.In msk) (polarDecodeOp t) := by
  unfold polarDecodeOp
  repeat' first
    | (with_reducible first | exact .pure _ | exact .getS | refine .bind ?_ fun _ => ?_ | refine .ite ?_ ?_)
    | ((with_reducible refine runPlan_reach ?_ _ _ _ _); exact .trans rfl hw)
    | with_reducible intro _
    | split

theorem sysrefEdge_reach {msk : Nat} (hw : Within 0x400189 msk) :
    M.All (Upd.In msk) (sysrefEdge) := by
  unfold sysrefEdge
  repeat' first
    | (with_reducible first | exact .pure _ | exact .getS | refine .bind ?_ fun _ => ?_ | refine .ite ?_ ?_ | refine .forIn _ _ _ fun _ _ => ?_)
    | ((with_reducible refine bump_reach ?_ _ _ _); exact .trans rfl hw)
    | ((with_reducible refine raise_reach ?_ _ _ _ _); exact .trans rfl hw)
    | ((with_reducible refine modRadio_reach ?_ _); exact .trans rfl hw)
    | ((with_reducible refine wrFld_reach ?_ _ _ _); exact .trans rfl hw)
    | with_reducible intro _
    | split

theorem zeroSymbol_reach {msk : Nat} (hw : Within 0x10FBA9 msk) (t : Nat) (k : Task) (c l code : Nat) (tx : Bool) :
    M.All (Upd.In msk) (zeroSymbol t k c l code tx) := by
  unfold zeroSymbol
  repeat' first
    | (with_reducible first | exact .pure _ | exact .getS | refine .bind ?_ fun _ => ?_ | refine .ite ?_ ?_)
    | ((with_reducible refine bump_reach ?_ _ _ _); exact .trans rfl hw)
    | ((with_reducible refine settleAll_reach ?_ _); exact .trans rfl hw)
    | ((with_reducible refine raiseFor_reach ?_ _ _ _ _ _); exact .trans rfl hw)
    | with_reducible intro _
    | split

theorem symbolBoundary_reach {msk : Nat} (hw : Within 0x50FBA9 msk) (c : Nat) (samples : List Byte) :
    M.All (Upd.In msk) (symbolBoundary c samples) := by
  unfold symbolBoundary
  repeat' first
    | fail_if_no_progress beta_reduce
    | (extract_lets +onlyGivenNames jp
       first
       | (refine (fun hj : ∀ x, M.All (Upd.In msk) (jp x) => ?_) (fun x => ?_)
          on_goal 2 => (dsimp -zeta only [jp]; clear jp)
          on_goal 1 => clear_value jp)
       | clear_value jp)
    | (with_reducible first | exact .pure _ | exact .getS | refine .bind ?_ fun _ => ?_ | refine .ite ?_ ?_)
    | ((with_reducible refine bump_reach ?_ _ _ _); exact .trans rfl hw)
    | ((with_reducible refine modRadio_reach ?_ _); exact .trans rfl hw)
    | ((with_reducible refine zeroSymbol_reach ?_ _ _ _ _ _ _); exact .trans rfl hw)
    | with_reducible apply_assumption -exfalso -symm
    | with_reducible intro _
    | split

theorem dfeDdc_reach {msk : Nat} (hw : Within 0x50FBA9 msk) (t : Nat) :
    M.All (Upd.In msk) (dfeDdc t) := by
  unfold dfeDdc
  repeat' first
    | (with_reducible first | exact .pure _ | exact .getS | refine .bind ?_ fun _ => ?_ | refine .ite ?_ ?_ | refine .forIn _ _ _ fun _ _ => ?_)
    | ((with_reducible refine bump_reach ?_ _ _ _); exact .trans rfl hw)
    | ((with_reducible refine modRadio_reach ?_ _); exact .trans rfl hw)
    | ((with_reducible refine zeroSymbol_reach ?_ _ _ _ _ _ _); exact .trans rfl hw)
    | ((with_reducible refine runPlan_reach ?_ _ _ _ _); exact .trans rfl hw)
    | with_reducible intro _
    | split

theorem emitStream_reach {msk : Nat} (hw : Within 0x402008 msk) (st : Nat) :
    M.All (Upd.In msk) (emitStream st) := by
  unfold emitStream
  repeat' first
    | (with_reducible first | exact .pure _ | exact .getS | refine .bind ?_ fun _ => ?_ | refine .ite ?_ ?_)
    | ((with_reducible refine .update ?_); exact .of hw rfl)
    | ((with_reducible refine bump_reach ?_ _ _ _); exact .trans rfl hw)
    | ((with_reducible refine modRadio_reach ?_ _); exact .trans rfl hw)
    | with_reducible intro _
    | split

theorem launchSamples_reach {msk : Nat} (hw : Within 0x402008 msk) (c : Nat) (y : TxSym) :
    M.All (Upd.In msk) (launchSamples c y) := by
  unfold launchSamples
  repeat' first
    | fail_if_no_progress beta_reduce
    | (extract_lets +onlyGivenNames jp
       first
       | (refine (fun hj : ∀ x, M.All (Upd.In msk) (jp x) => ?_) (fun x => ?_)
          on_goal 2 => (dsimp -zeta only [jp]; clear jp)
          on_goal 1 => clear_value jp)
       | clear_value jp)
    | (with_reducible first | exact .pure _ | exact .getS | refine .bind ?_ fun _ => ?_ | refine .ite ?_ ?_ | refine .forIn _ _ _ fun _ _ => ?_)
    | ((with_reducible refine bump_reach ?_ _ _ _); exact .trans rfl hw)
    | ((with_reducible refine emitStream_reach ?_ _); exact .trans rfl hw)
    | ((with_reducible refine modRadio_reach ?_ _); exact .trans rfl hw)
    | with_reducible apply_assumption -exfalso -symm
    | with_reducible intro _
    | split

theorem heldForTime_reach {msk : Nat} (hw : Within 0x400181 msk) :
    M.All (Upd.In msk) (heldForTime) := by
  unfold heldForTime
  repeat' first
    | (with_reducible first | exact .pure _ | exact .getS | refine .bind ?_ fun _ => ?_ | refine .ite ?_ ?_)
    | ((with_reducible refine raise_reach ?_ _ _ _ _); exact .trans rfl hw)
    | ((with_reducible refine modRadio_reach ?_ _); exact .trans rfl hw)
    | with_reducible intro _
    | split

theorem symbolLaunch_reach {msk : Nat} (hw : Within 0x50FBA9 msk) (c : Nat) :
    M.All (Upd.In msk) (symbolLaunch c) := by
  unfold symbolLaunch
  repeat' first
    | fail_if_no_progress beta_reduce
    | (extract_lets +onlyGivenNames jp
       first
       | (refine (fun hj : M.All (Upd.In msk) jp => ?_) ?_
          on_goal 2 => (dsimp -zeta only [jp]; clear jp)
          on_goal 1 => clear_value jp)
       | (refine (fun hj : ∀ x, M.All (Upd.In msk) (jp x) => ?_) (fun x => ?_)
          on_goal 2 => (dsimp -zeta only [jp]; clear jp)
          on_goal 1 => clear_value jp)
       | (refine (fun hj : ∀ x y, M.All (Upd.In msk) (jp x y) => ?_) (fun x y => ?_)
          on_goal 2 => (dsimp -zeta only [jp]; clear jp)
          on_goal 1 => clear_value jp)
       | (refine (fun hj : ∀ x y z, M.All (Upd.In msk) (jp x y z) => ?_) (fun x y z => ?_)
          on_goal 2 => (dsimp -zeta only [jp]; clear jp)
          on_goal 1 => clear_value jp)
       | clear_value jp)
    | (with_reducible first | exact .pure _ | exact .getS | refine .bind ?_ fun _ => ?_ | refine .ite ?_ ?_)
    | ((with_reducible refine launchSamples_reach ?_ _ _); exact .trans rfl hw)
    | ((with_reducible refine modRadio_reach ?_ _); exact .trans rfl hw)
    | ((with_reducible refine bump_reach ?_ _ _ _); exact .trans rfl hw)
    | ((with_reducible refine heldForTime_reach ?_); exact .trans rfl hw)
    | ((with_reducible refine zeroSymbol_reach ?_ _ _ _ _ _ _); exact .trans rfl hw)
    | with_reducible apply_assumption -exfalso -symm
    | with_reducible intro _
    | split

theorem dfeDuc_reach {msk : Nat} (hw : Within 0x50FBA9 msk) (t : Nat) :
    M.All (Upd.In msk) (dfeDuc t) := by
  unfold dfeDuc
  repeat' first
    | (with_reducible first | exact .pure _ | exact .getS | refine .bind ?_ fun _ => ?_ | refine .ite ?_ ?_ | refine .forIn _ _ _ fun _ _ => ?_)
    | ((with_reducible refine modRadio_reach ?_ _); exact .trans rfl hw)
    | ((with_reducible refine zeroSymbol_reach ?_ _ _ _ _ _ _); exact .trans rfl hw)
    | ((with_reducible refine runPlan_reach ?_ _ _ _ _); exact .trans rfl hw)
    | with_reducible intro _
    | split

theorem featDetectOp_reach {msk : Nat} (hw : Within 0x10FBA9 msk) (t : Nat) :
    M.All (Upd.In msk) (featDetectOp t) := by
  unfold featDetectOp
  repeat' first
    | (with_reducible first | exact .pure _ | exact .getS | refine .bind ?_ fun _ => ?_ | refine .ite ?_ ?_)
    | ((with_reducible refine bump_reach ?_ _ _ _); exact .trans rfl hw)
    | ((with_reducible refine runPlanWith_reach ?_ _ _ _ _ _ _ ?_); on_goal 1 => exact .trans rfl hw)
    | with_reducible intro _
    | split

theorem featMatchOp_reach {msk : Nat} (hw : Within 0x10FBA9 msk) (t : Nat) :
    M.All (Upd.In msk) (featMatchOp t) := by
  unfold featMatchOp
  repeat' first
    | fail_if_no_progress beta_reduce
    | (extract_lets +onlyGivenNames jp
       first
       | (refine (fun hj : ∀ x, M.All (Upd.In msk) (jp x) => ?_) (fun x => ?_)
          on_goal 2 => (dsimp -zeta only [jp]; clear jp)
          on_goal 1 => clear_value jp)
       | clear_value jp)
    | (with_reducible first | exact .pure _ | exact .getS | refine .bind ?_ fun _ => ?_ | refine .ite ?_ ?_)
    | ((with_reducible refine bump_reach ?_ _ _ _); exact .trans rfl hw)
    | ((with_reducible refine runPlanWith_reach ?_ _ _ _ _ _ _ ?_); on_goal 1 => exact .trans rfl hw)
    | ((with_reducible refine settleAll_reach ?_ _); exact .trans rfl hw)
    | ((with_reducible refine finish_reach ?_ _ _); exact .trans rfl hw)
    | ((with_reducible refine raiseFor_reach ?_ _ _ _ _ _); exact .trans rfl hw)
    | with_reducible apply_assumption -exfalso -symm
    | with_reducible intro _
    | split

theorem descAddrs_reach {msk : Nat} (hw : Within 0xBA9 msk) (k : Task) :
    M.All (Upd.In msk) (descAddrs k) := by
  unfold descAddrs
  repeat' first
    | (with_reducible first | exact .pure _ | exact .getS | refine .bind ?_ fun _ => ?_ | refine .ite ?_ ?_ | refine .forIn _ _ _ fun _ _ => ?_)
    | ((with_reducible refine ctxRead_reach ?_ _ _ _ _); exact .trans rfl hw)
    | with_reducible intro _
    | split

theorem readDesc_reach {msk : Nat} (hw : Within 0xBA9 msk) (k : Task) (a : Nat) :
    M.All (Upd.In msk) (readDesc k a) := by
  unfold readDesc
  repeat' first
    | (with_reducible first | exact .pure _ | exact .getS | refine .bind ?_ fun _ => ?_ | refine .ite ?_ ?_)
    | ((with_reducible refine ctxRead_reach ?_ _ _ _ _); exact .trans rfl hw)
    | with_reducible intro _
    | split

theorem readDescs_reach {msk : Nat} (hw : Within 0xBA9 msk) (k : Task) : ∀ (z0 : List (Nat × Option Nat)) (z1 : Fetched),
    M.All (Upd.In msk) (readDescs k z0 z1) := by
  intro z0
  induction z0 with
  | nil =>
    intros
    unfold readDescs
    repeat' first
      | (with_reducible first | exact .pure _ | exact .getS | refine .bind ?_ fun _ => ?_ | refine .ite ?_ ?_)
      | ((with_reducible refine readDesc_reach ?_ _ _); exact .trans rfl hw)
      | with_reducible apply_assumption -exfalso -symm
      | with_reducible intro _
      | (injections; subst_vars; with_reducible apply_assumption -exfalso -symm)
      | split
  | cons x t ih =>
    intros
    unfold readDescs
    repeat' first
      | (with_reducible first | exact .pure _ | exact .getS | refine .bind ?_ fun _ => ?_ | refine .ite ?_ ?_)
      | ((with_reducible refine readDesc_reach ?_ _ _); exact .trans rfl hw)
      | with_reducible apply_assumption -exfalso -symm
      | with_reducible intro _
      | (injections; subst_vars; with_reducible apply_assumption -exfalso -symm)
      | split

theorem readParams_reach {msk : Nat} (hw : Within 0xBA9 msk) (k : Task) (f : Fetched) :
    M.All (Upd.In msk) (readParams k f) := by
  unfold readParams
  repeat' first
    | (with_reducible first | exact .pure _ | exact .getS | refine .bind ?_ fun _ => ?_ | refine .ite ?_ ?_)
    | ((with_reducible refine ctxRead_reach ?_ _ _ _ _); exact .trans rfl hw)
    | ((with_reducible refine readDescs_reach ?_ _ _ _); exact .trans rfl hw)
    | with_reducible intro _
    | split

theorem homeEvents_reach {msk : Nat} (hw : Within 0xABA9 msk) (t : Nat) (k : Task) (ts : List Ten) :
    M.All (Upd.In msk) (homeEvents t k ts) := by
  unfold homeEvents
  repeat' first
    | (with_reducible first | exact .pure _ | exact .getS | refine .bind ?_ fun _ => ?_ | refine .ite ?_ ?_ | refine .forIn _ _ _ fun _ _ => ?_)
    | ((with_reducible refine raiseFor_reach ?_ _ _ _ _ _); exact .trans rfl hw)
    | with_reducible intro _
    | split

theorem descriptorFetch_reach {msk : Nat} (hw : Within 0x10FBA9 msk) (e : Nat) :
    M.All (Upd.In msk) (descriptorFetch e) := by
  unfold descriptorFetch
  repeat' first
    | fail_if_no_progress beta_reduce
    | (extract_lets +onlyGivenNames jp
       first
       | (refine (fun hj : ∀ x, M.All (Upd.In msk) (jp x) => ?_) (fun x => ?_)
          on_goal 2 => (dsimp -zeta only [jp]; clear jp)
          on_goal 1 => clear_value jp)
       | clear_value jp)
    | (with_reducible first | exact .pure _ | exact .getS | refine .bind ?_ fun _ => ?_ | refine .ite ?_ ?_)
    | ((with_reducible refine homeEvents_reach ?_ _ _ _); exact .trans rfl hw)
    | ((with_reducible refine settleAll_reach ?_ _); exact .trans rfl hw)
    | ((with_reducible refine readParams_reach ?_ _ _); exact .trans rfl hw)
    | ((with_reducible refine opFault_reach ?_ _ _); exact .trans rfl hw)
    | ((with_reducible refine readDescs_reach ?_ _ _ _); exact .trans rfl hw)
    | ((with_reducible refine descAddrs_reach ?_ _); exact .trans rfl hw)
    | ((with_reducible refine descriptorInvalid_reach ?_ _ _ _); exact .trans rfl hw)
    | ((with_reducible refine finish_reach ?_ _ _); exact .trans rfl hw)
    | ((with_reducible refine modTask_reach ?_ _ _); exact .trans rfl hw)
    | ((with_reducible refine raiseFor_reach ?_ _ _ _ _ _); exact .trans rfl hw)
    | with_reducible apply_assumption -exfalso -symm
    | with_reducible intro _
    | split

theorem fftOp_reach {msk : Nat} (hw : Within 0x10FBA9 msk) (t : Nat) :
    M.All (Upd.In msk) (fftOp t) := by
  unfold fftOp
  repeat' first
    | (with_reducible first | exact .pure _ | exact .getS | refine .bind ?_ fun _ => ?_ | refine .ite ?_ ?_)
    | ((with_reducible refine runPlanWith_reach ?_ _ _ _ _ _ _ ?_); on_goal 1 => exact .trans rfl hw)
    | ((with_reducible refine radioCount_reach ?_ _ _ _); exact .trans rfl hw)
    | with_reducible intro _
    | split

theorem ifftOp_reach {msk : Nat} (hw : Within 0x10FBA9 msk) (t : Nat) :
    M.All (Upd.In msk) (ifftOp t) := by
  unfold ifftOp
  repeat' first
    | (with_reducible first | exact .pure _ | exact .getS | refine .bind ?_ fun _ => ?_ | refine .ite ?_ ?_)
    | ((with_reducible refine runPlanWith_reach ?_ _ _ _ _ _ _ ?_); on_goal 1 => exact .trans rfl hw)
    | ((with_reducible refine radioCount_reach ?_ _ _ _); exact .trans rfl hw)
    | with_reducible intro _
    | split

theorem prachDetect_reach {msk : Nat} (hw : Within 0x10FBA9 msk) (t : Nat) :
    M.All (Upd.In msk) (prachDetect t) := by
  unfold prachDetect
  repeat' first
    | (with_reducible first | exact .pure _ | exact .getS | refine .bind ?_ fun _ => ?_ | refine .ite ?_ ?_)
    | ((with_reducible refine runPlanWith_reach ?_ _ _ _ _ _ _ ?_); on_goal 1 => exact .trans rfl hw)
    | ((with_reducible refine radioCount_reach ?_ _ _ _); exact .trans rfl hw)
    | with_reducible intro _
    | split

theorem searchOp_reach {msk : Nat} (hw : Within 0x10FBA9 msk) (t u own : Nat) (flow : Bool) (roiAt : Nat) (field : Nat → List Byte → State → List Ten → List ((Nat × Nat) × Found)) :
    M.All (Upd.In msk) (searchOp t u own flow roiAt field) := by
  unfold searchOp
  repeat' first
    | (with_reducible first | exact .pure _ | exact .getS | refine .bind ?_ fun _ => ?_ | refine .ite ?_ ?_ | refine .forIn _ _ _ fun _ _ => ?_)
    | ((with_reducible refine settleAll_reach ?_ _); exact .trans rfl hw)
    | ((with_reducible refine bump_reach ?_ _ _ _); exact .trans rfl hw)
    | ((with_reducible refine finish_reach ?_ _ _); exact .trans rfl hw)
    | ((with_reducible refine runPlanWith_reach ?_ _ _ _ _ _ _ ?_); on_goal 1 => exact .trans rfl hw)
    | ((with_reducible refine raiseFor_reach ?_ _ _ _ _ _); exact .trans rfl hw)
    | with_reducible intro _
    | split

theorem hallWrite_reach {msk : Nat} (hw : Within 0x991 msk) (by_ : Requester) (off value : Nat) (m : M Unit) (hm : M.All (Upd.In msk) (m)) :
    M.All (Upd.In msk) (hallWrite by_ off value m) := by
  unfold hallWrite
  repeat' first
    | (with_reducible first | exact .pure _ | exact .getS | refine .bind ?_ fun _ => ?_ | refine .ite ?_ ?_)
    | ((with_reducible refine reachReg_reach ?_ _ _); exact .trans rfl hw)
    | ((with_reducible refine refuseReg_reach ?_ _ _ _); exact .trans rfl hw)
    | with_reducible apply_assumption -exfalso -symm
    | with_reducible assumption
    | with_reducible intro _
    | split

theorem hallFlagAdv_reach {msk : Nat} (hw : Within 0x10FBA9 msk) (f : Nat) :
    M.All (Upd.In msk) (hallFlagAdv f) := by
  unfold hallFlagAdv
  repeat' first
    | (with_reducible first | exact .pure _ | exact .getS | refine .bind ?_ fun _ => ?_ | refine .ite ?_ ?_)
    | ((with_reducible refine advanceFlag_reach ?_ _ _ _ _ _); exact .trans rfl hw)
    | ((with_reducible refine settleAll_reach ?_ _); exact .trans rfl hw)
    | with_reducible intro _
    | split

theorem hallFlagThr_reach {msk : Nat} (hw : Within 0x10FBA9 msk) (f thr : Nat) :
    M.All (Upd.In msk) (hallFlagThr f thr) := by
  unfold hallFlagThr
  repeat' first
    | (with_reducible first | exact .pure _ | exact .getS | refine .bind ?_ fun _ => ?_ | refine .ite ?_ ?_)
    | ((with_reducible refine crossFlag_reach ?_ _); exact .trans rfl hw)
    | ((with_reducible refine rearmFlag_reach ?_ _); exact .trans rfl hw)
    | ((with_reducible refine settleAll_reach ?_ _); exact .trans rfl hw)
    | ((with_reducible refine modFlag_reach ?_ _ _); exact .trans rfl hw)
    | with_reducible intro _
    | split

theorem modBuf_reach {msk : Nat} (hw : Within 0x1000 msk) (r : Nat) (g : HallBuf → HallBuf) :
    M.All (Upd.In msk) (modBuf r g) := by
  unfold modBuf
  repeat' first
    | (with_reducible first | exact .pure _ | exact .getS | refine .bind ?_ fun _ => ?_ | refine .ite ?_ ?_)
    | ((with_reducible refine .update ?_); exact .of hw rfl)
    | with_reducible intro _
    | split

theorem hallRecordActivate_reach {msk : Nat} (hw : Within 0x1181 msk) (r base copiesM1 : Nat) :
    M.All (Upd.In msk) (hallRecordActivate r base copiesM1) := by
  unfold hallRecordActivate
  repeat' first
    | (with_reducible first | exact .pure _ | exact .getS | refine .bind ?_ fun _ => ?_ | refine .ite ?_ ?_)
    | ((with_reducible refine refuseReg_reach ?_ _ _ _); exact .trans rfl hw)
    | ((with_reducible refine modBuf_reach ?_ _ _); exact .trans rfl hw)
    | with_reducible intro _
    | split

theorem defectList_reach {msk : Nat} (hw : Within 0xBA9 msk) (e h : Nat) (p : List Byte) :
    M.All (Upd.In msk) (defectList e h p) := by
  unfold defectList
  repeat' first
    | (with_reducible first | exact .pure _ | exact .getS | refine .bind ?_ fun _ => ?_ | refine .ite ?_ ?_)
    | ((with_reducible refine ctxRead_reach ?_ _ _ _ _); exact .trans rfl hw)
    | with_reducible intro _
    | split

theorem ispRun_reach {msk : Nat} (hw : Within 0x10FBA9 msk) (t : Nat) (k : Task) (h : Nat) (page : List Byte) (reads : State → List Ten → List (Nat × List Int)) (inp : State → List Ten → IspInput) :
    M.All (Upd.In msk) (ispRun t k h page reads inp) := by
  unfold ispRun
  repeat' first
    | (with_reducible first | exact .pure _ | exact .getS | refine .bind ?_ fun _ => ?_ | refine .ite ?_ ?_)
    | ((with_reducible refine opFault_reach ?_ _ _); exact .trans rfl hw)
    | ((with_reducible refine descriptorInvalid_reach ?_ _ _ _); exact .trans rfl hw)
    | ((with_reducible refine defectList_reach ?_ _ _ _); exact .trans rfl hw)
    | ((with_reducible refine runPlanWith_reach ?_ _ _ _ _ _ _ ?_); on_goal 1 => exact .trans rfl hw)
    | with_reducible intro _
    | split

theorem ispGone_reach {msk : Nat} (hw : Within 0x10FBA9 msk) (t c n : Nat) :
    M.All (Upd.In msk) (ispGone t c n) := by
  unfold ispGone
  repeat' first
    | (with_reducible first | exact .pure _ | exact .getS | refine .bind ?_ fun _ => ?_ | refine .ite ?_ ?_)
    | ((with_reducible refine settleAll_reach ?_ _); exact .trans rfl hw)
    | ((with_reducible refine finish_reach ?_ _ _); exact .trans rfl hw)
    | ((with_reducible refine raiseFor_reach ?_ _ _ _ _ _); exact .trans rfl hw)
    | with_reducible intro _
    | split

theorem readRows_reach {msk : Nat} (hw : Within 0xBA9 msk) (e c slot : Nat) : ∀ (z0 : List Nat),
    M.All (Upd.In msk) (readRows e c slot z0) := by
  intro z0
  induction z0 with
  | nil =>
    intros
    unfold readRows
    repeat' first
      | (with_reducible first | exact .pure _ | exact .getS | refine .bind ?_ fun _ => ?_ | refine .ite ?_ ?_)
      | ((with_reducible refine ctxRead_reach ?_ _ _ _ _); exact .trans rfl hw)
      | with_reducible apply_assumption -exfalso -symm
      | with_reducible intro _
      | (injections; subst_vars; with_reducible apply_assumption -exfalso -symm)
      | split
  | cons x t ih =>
    intros
    unfold readRows
    repeat' first
      | (with_reducible first | exact .pure _ | exact .getS | refine .bind ?_ fun _ => ?_ | refine .ite ?_ ?_)
      | ((with_reducible refine ctxRead_reach ?_ _ _ _ _); exact .trans rfl hw)
      | with_reducible apply_assumption -exfalso -symm
      | with_reducible intro _
      | (injections; subst_vars; with_reducible apply_assumption -exfalso -symm)
      | split

theorem ispCamera_reach {msk : Nat} (hw : Within 0x10FBA9 msk) (t : Nat) (k : Task) (c n : Nat) :
    M.All (Upd.In msk) (ispCamera t k c n) := by
  unfold ispCamera
  repeat' first
    | (with_reducible first | exact .pure _ | exact .getS | refine .bind ?_ fun _ => ?_ | refine .ite ?_ ?_)
    | ((with_reducible refine opFault_reach ?_ _ _); exact .trans rfl hw)
    | ((with_reducible refine descriptorInvalid_reach ?_ _ _ _); exact .trans rfl hw)
    | ((with_reducible refine ispGone_reach ?_ _ _ _); exact .trans rfl hw)
    | ((with_reducible refine ctxRead_reach ?_ _ _ _ _); exact .trans rfl hw)
    | ((with_reducible refine readRows_reach ?_ _ _ _ _); exact .trans rfl hw)
    | ((with_reducible refine ispRun_reach ?_ _ _ _ _ _ _); exact .trans rfl hw)
    | ((with_reducible refine taskFault_reach ?_ _ _ _ _); exact .trans rfl hw)
    | with_reducible intro _
    | split

theorem ispDetached_reach {msk : Nat} (hw : Within 0x10FBA9 msk) (t : Nat) (k : Task) :
    M.All (Upd.In msk) (ispDetached t k) := by
  unfold ispDetached
  repeat' first
    | (with_reducible first | exact .pure _ | exact .getS | refine .bind ?_ fun _ => ?_ | refine .ite ?_ ?_)
    | ((with_reducible refine opFault_reach ?_ _ _); exact .trans rfl hw)
    | ((with_reducible refine ctxRead_reach ?_ _ _ _ _); exact .trans rfl hw)
    | ((with_reducible refine ispRun_reach ?_ _ _ _ _ _ _); exact .trans rfl hw)
    | with_reducible intro _
    | split

theorem ispFrameOp_reach {msk : Nat} (hw : Within 0x10FBA9 msk) (t : Nat) :
    M.All (Upd.In msk) (ispFrameOp t) := by
  unfold ispFrameOp
  repeat' first
    | (with_reducible first | exact .pure _ | exact .getS | refine .bind ?_ fun _ => ?_ | refine .ite ?_ ?_)
    | ((with_reducible refine ispCamera_reach ?_ _ _ _ _); exact .trans rfl hw)
    | ((with_reducible refine ispDetached_reach ?_ _ _); exact .trans rfl hw)
    | with_reducible intro _
    | split

theorem dotOp_reach {msk : Nat} (hw : Within 0x10FBA9 msk) (t : Nat) (act : List Byte → Nat) (dots : List Byte → List Ten → List Dot) :
    M.All (Upd.In msk) (dotOp t act dots) := by
  unfold dotOp
  repeat' first
    | (with_reducible first | exact .pure _ | exact .getS | refine .bind ?_ fun _ => ?_ | refine .ite ?_ ?_)
    | ((with_reducible refine runOp_reach ?_ _ _ _); exact .trans rfl hw)
    | with_reducible intro _
    | split

theorem matmulOp_reach {msk : Nat} (hw : Within 0x10FBA9 msk) (t : Nat) :
    M.All (Upd.In msk) (matmulOp t) := by
  unfold matmulOp
  repeat' first
    | (with_reducible first | exact .pure _ | exact .getS | refine .bind ?_ fun _ => ?_ | refine .ite ?_ ?_)
    | ((with_reducible refine dotOp_reach ?_ _ _ _); exact .trans rfl hw)
    | with_reducible intro _
    | split

theorem countPixels_reach {msk : Nat} (hw : Within 0x8 msk) (e off : Nat) (f : Field) (t : Nat) (n : Nat) :
    M.All (Upd.In msk) (countPixels e off f t n) := by
  unfold countPixels
  repeat' first
    | (with_reducible first | exact .pure _ | exact .getS | refine .bind ?_ fun _ => ?_ | refine .ite ?_ ?_)
    | ((with_reducible refine bump_reach ?_ _ _ _); exact .trans rfl hw)
    | with_reducible intro _
    | split

theorem pyrBuildOp_reach {msk : Nat} (hw : Within 0x10FBA9 msk) (t : Nat) :
    M.All (Upd.In msk) (pyrBuildOp t) := by
  unfold pyrBuildOp
  repeat' first
    | (with_reducible first | exact .pure _ | exact .getS | refine .bind ?_ fun _ => ?_ | refine .ite ?_ ?_)
    | ((with_reducible refine runPlanWith_reach ?_ _ _ _ _ _ _ ?_); on_goal 1 => exact .trans rfl hw)
    | ((with_reducible refine countPixels_reach ?_ _ _ _ _ _); exact .trans rfl hw)
    | with_reducible intro _
    | split

theorem pyrLaplaceOp_reach {msk : Nat} (hw : Within 0x10FBA9 msk) (t : Nat) :
    M.All (Upd.In msk) (pyrLaplaceOp t) := by
  unfold pyrLaplaceOp
  repeat' first
    | (with_reducible first | exact .pure _ | exact .getS | refine .bind ?_ fun _ => ?_ | refine .ite ?_ ?_)
    | ((with_reducible refine runPlanWith_reach ?_ _ _ _ _ _ _ ?_); on_goal 1 => exact .trans rfl hw)
    | ((with_reducible refine countPixels_reach ?_ _ _ _ _ _); exact .trans rfl hw)
    | with_reducible intro _
    | split

theorem warpOp_reach {msk : Nat} (hw : Within 0x10FBA9 msk) (t : Nat) (bicubic : Bool) (bord : Nat) (corners : Bool) (src : State → List Ten → Source) (extra : List Ten → List (Nat × List Int)) :
    M.All (Upd.In msk) (warpOp t bicubic bord corners src extra) := by
  unfold warpOp
  repeat' first
    | fail_if_no_progress beta_reduce
    | (extract_lets +onlyGivenNames jp
       first
       | (refine (fun hj : ∀ x, M.All (Upd.In msk) (jp x) => ?_) (fun x => ?_)
          on_goal 2 => (dsimp -zeta only [jp]; clear jp)
          on_goal 1 => clear_value jp)
       | clear_value jp)
    | (with_reducible first | exact .pure _ | exact .getS | refine .bind ?_ fun _ => ?_ | refine .ite ?_ ?_)
    | ((with_reducible refine bump_reach ?_ _ _ _); exact .trans rfl hw)
    | ((with_reducible refine runPlanWith_reach ?_ _ _ _ _ _ _ ?_); on_goal 1 => exact .trans rfl hw)
    | ((with_reducible refine settleAll_reach ?_ _); exact .trans rfl hw)
    | ((with_reducible refine finish_reach ?_ _ _); exact .trans rfl hw)
    | ((with_reducible refine raiseFor_reach ?_ _ _ _ _ _); exact .trans rfl hw)
    | with_reducible apply_assumption -exfalso -symm
    | with_reducible intro _
    | split

theorem warpMeshOp_reach {msk : Nat} (hw : Within 0x10FBA9 msk) (t : Nat) :
    M.All (Upd.In msk) (warpMeshOp t) := by
  unfold warpMeshOp
  repeat' first
    | (with_reducible first | exact .pure _ | exact .getS | refine .bind ?_ fun _ => ?_ | refine .ite ?_ ?_)
    | ((with_reducible refine warpOp_reach ?_ _ _ _ _ _ _); exact .trans rfl hw)
    | with_reducible intro _
    | split

theorem warpHomogOp_reach {msk : Nat} (hw : Within 0x10FBA9 msk) (t : Nat) :
    M.All (Upd.In msk) (warpHomogOp t) := by
  unfold warpHomogOp
  repeat' first
    | (with_reducible first | exact .pure _ | exact .getS | refine .bind ?_ fun _ => ?_ | refine .ite ?_ ?_)
    | ((with_reducible refine warpOp_reach ?_ _ _ _ _ _ _); exact .trans rfl hw)
    | with_reducible intro _
    | split

end Sys2Proof.Machine
end

