-- ==== Sys2Proof/Laws/ReachPorts.lean ====
section
/-! SUPPORT. Which components of the state the operations of one group reach: contexts, the ports, the networks, time and the registers. One lemma for each operation: every update it makes
lies in its mask, so every component outside the mask is as before. -/

set_option linter.unusedTactic false
set_option linter.unreachableTactic false
set_option linter.unusedVariables false
set_option linter.style.multiGoal false

namespace Sys2Proof.Machine

open Sys2Proof

theorem status_reach {msk : Nat} (hw : Within 0x10 msk) (code : Nat) :
    M.All (Upd.In msk) (status code) := by
  unfold status
  repeat' first
    | (with_reducible first | exact .pure _ | exact .getS | refine .bind ?_ fun _ => ?_ | refine .ite ?_ ?_)
    | ((with_reducible refine answer_reach ?_ _ _); exact .trans rfl hw)
    | with_reducible intro _
    | split

theorem createContext_reach {msk : Nat} (hw : Within 0x110 msk) (id : Nat) (physical : Bool) (root ceiling : Nat) (safety : Bool) (quota eventQueue : Nat) :
    M.All (Upd.In msk) (createContext id physical root ceiling safety quota eventQueue) := by
  unfold createContext
  repeat' first
    | (with_reducible first | exact .pure _ | exact .getS | refine .bind ?_ fun _ => ?_ | refine .ite ?_ ?_)
    | ((with_reducible refine answer_reach ?_ _ _); exact .trans rfl hw)
    | ((with_reducible refine modTally_reach ?_ _); exact .trans rfl hw)
    | ((with_reducible refine status_reach ?_ _); exact .trans rfl hw)
    | with_reducible intro _
    | split

theorem registerBuffer_reach {msk : Nat} (hw : Within 0x110 msk) (h base len : Nat) :
    M.All (Upd.In msk) (registerBuffer h base len) := by
  unfold registerBuffer
  repeat' first
    | (with_reducible first | exact .pure _ | exact .getS | refine .bind ?_ fun _ => ?_ | refine .ite ?_ ?_)
    | ((with_reducible refine modTally_reach ?_ _); exact .trans rfl hw)
    | ((with_reducible refine status_reach ?_ _); exact .trans rfl hw)
    | with_reducible intro _
    | split

theorem deregisterBuffer_reach {msk : Nat} (hw : Within 0x110 msk) (h base : Nat) :
    M.All (Upd.In msk) (deregisterBuffer h base) := by
  unfold deregisterBuffer
  repeat' first
    | (with_reducible first | exact .pure _ | exact .getS | refine .bind ?_ fun _ => ?_ | refine .ite ?_ ?_)
    | ((with_reducible refine modTally_reach ?_ _); exact .trans rfl hw)
    | ((with_reducible refine status_reach ?_ _); exact .trans rfl hw)
    | with_reducible intro _
    | split

theorem deregistrationComplete_reach {msk : Nat} (hw : Within 0x100 msk) (h base : Nat) :
    M.All (Upd.In msk) (deregistrationComplete h base) := by
  unfold deregistrationComplete
  repeat' first
    | (with_reducible first | exact .pure _ | exact .getS | refine .bind ?_ fun _ => ?_ | refine .ite ?_ ?_)
    | ((with_reducible refine modTally_reach ?_ _); exact .trans rfl hw)
    | with_reducible intro _
    | split

theorem modEth_reach {msk : Nat} (hw : Within 0x800000 msk) (n : Nat) (f : EthPort → EthPort) :
    M.All (Upd.In msk) (modEth n f) := by
  unfold modEth
  repeat' first
    | (with_reducible first | exact .pure _ | exact .getS | refine .bind ?_ fun _ => ?_ | refine .ite ?_ ?_)
    | ((with_reducible refine .update ?_); exact .of hw rfl)
    | with_reducible intro _
    | split

theorem linkEvent_reach {msk : Nat} (hw : Within 0x181 msk) (n code : Nat) :
    M.All (Upd.In msk) (linkEvent n code) := by
  unfold linkEvent
  repeat' first
    | (with_reducible first | exact .pure _ | exact .getS | refine .bind ?_ fun _ => ?_ | refine .ite ?_ ?_)
    | ((with_reducible refine raise_reach ?_ _ _ _ _); exact .trans rfl hw)
    | with_reducible intro _
    | split

theorem ethLinkUp_reach {msk : Nat} (hw : Within 0x189 msk) (n : Nat) :
    M.All (Upd.In msk) (ethLinkUp n) := by
  unfold ethLinkUp
  repeat' first
    | (with_reducible first | exact .pure _ | exact .getS | refine .bind ?_ fun _ => ?_ | refine .ite ?_ ?_)
    | ((with_reducible refine linkEvent_reach ?_ _ _); exact .trans rfl hw)
    | ((with_reducible refine wrReg_reach ?_ _ _); exact .trans rfl hw)
    | with_reducible intro _
    | split

theorem ethLinkDown_reach {msk : Nat} (hw : Within 0x189 msk) (n : Nat) :
    M.All (Upd.In msk) (ethLinkDown n) := by
  unfold ethLinkDown
  repeat' first
    | (with_reducible first | exact .pure _ | exact .getS | refine .bind ?_ fun _ => ?_ | refine .ite ?_ ?_)
    | ((with_reducible refine linkEvent_reach ?_ _ _); exact .trans rfl hw)
    | ((with_reducible refine wrReg_reach ?_ _ _); exact .trans rfl hw)
    | with_reducible intro _
    | split

theorem lldpReceive_reach {msk : Nat} (hw : Within 0x800181 msk) (n : Nat) (b : List Byte) :
    M.All (Upd.In msk) (lldpReceive n b) := by
  unfold lldpReceive
  repeat' first
    | (with_reducible first | exact .pure _ | exact .getS | refine .bind ?_ fun _ => ?_ | refine .ite ?_ ?_)
    | ((with_reducible refine raise_reach ?_ _ _ _ _); exact .trans rfl hw)
    | ((with_reducible refine modEth_reach ?_ _ _); exact .trans rfl hw)
    | with_reducible intro _
    | split

theorem restoreEntry_reach {msk : Nat} (hw : Within 0xABA9 msk) (q : Nat) (x : Nat × Nat × List Byte) :
    M.All (Upd.In msk) (restoreEntry q x) := by
  unfold restoreEntry
  repeat' first
    | (with_reducible first | exact .pure _ | exact .getS | refine .bind ?_ fun _ => ?_ | refine .ite ?_ ?_)
    | ((with_reducible refine modQueue_reach ?_ _ _); exact .trans rfl hw)
    | ((with_reducible refine physWrite_reach ?_ _ _ _); exact .trans rfl hw)
    | ((with_reducible refine ctxWrite_reach ?_ _ _ _ _); exact .trans rfl hw)
    | ((with_reducible refine writeLedger_reach ?_ _ _ _ _ _ _ _ _ _); exact .trans rfl hw)
    | with_reducible intro _
    | split

theorem readResponse_reach {msk : Nat} (hw : Within 0x10FBA9 msk) (i psn : Nat) (data : List Byte) :
    M.All (Upd.In msk) (readResponse i psn data) := by
  unfold readResponse
  repeat' first
    | (with_reducible first | exact .pure _ | exact .getS | refine .bind ?_ fun _ => ?_ | refine .ite ?_ ?_ | refine .forIn _ _ _ fun _ _ => ?_)
    | ((with_reducible refine modQp_reach ?_ _ _); exact .trans rfl hw)
    | ((with_reducible refine modQueue_reach ?_ _ _); exact .trans rfl hw)
    | ((with_reducible refine settleAll_reach ?_ _); exact .trans rfl hw)
    | ((with_reducible refine restoreEntry_reach ?_ _ _); exact .trans rfl hw)
    | ((with_reducible refine resubmit_reach ?_ _ _); exact .trans rfl hw)
    | with_reducible intro _
    | split

theorem acknowledge_reach {msk : Nat} (hw : Within 0x2000 msk) (i psn syndrome : Nat) :
    M.All (Upd.In msk) (acknowledge i psn syndrome) := by
  unfold acknowledge
  repeat' first
    | (with_reducible first | exact .pure _ | exact .getS | refine .bind ?_ fun _ => ?_ | refine .ite ?_ ?_)
    | ((with_reducible refine sendPacket_reach ?_ _ _ _ _ _); exact .trans rfl hw)
    | with_reducible intro _
    | split

theorem ensureQp_reach {msk : Nat} (hw : Within 0x8BA9 msk) (i : Nat) :
    M.All (Upd.In msk) (ensureQp i) := by
  unfold ensureQp
  repeat' first
    | (with_reducible first | exact .pure _ | exact .getS | refine .bind ?_ fun _ => ?_ | refine .ite ?_ ?_ | refine .forIn _ _ _ fun _ _ => ?_)
    | ((with_reducible refine readMember_reach ?_ _ _); exact .trans rfl hw)
    | ((with_reducible refine openQp_reach ?_ _ _); exact .trans rfl hw)
    | with_reducible intro _
    | split

theorem rdmaTranslates_reach {msk : Nat} (hw : Within 0xBA9 msk) (h addr len : Nat) (isWrite : Bool) :
    M.All (Upd.In msk) (rdmaTranslates h addr len isWrite) := by
  unfold rdmaTranslates
  repeat' first
    | (with_reducible first | exact .pure _ | exact .getS | refine .bind ?_ fun _ => ?_ | refine .ite ?_ ?_ | refine .forIn _ _ _ fun _ _ => ?_)
    | ((with_reducible refine translate_reach ?_ _ _ _ _); exact .trans rfl hw)
    | with_reducible intro _
    | split

theorem rdmaRefuse_reach {msk : Nat} (hw : Within 0xA181 msk) (i psn rkey addr : Nat) :
    M.All (Upd.In msk) (rdmaRefuse i psn rkey addr) := by
  unfold rdmaRefuse
  repeat' first
    | (with_reducible first | exact .pure _ | exact .getS | refine .bind ?_ fun _ => ?_ | refine .ite ?_ ?_)
    | ((with_reducible refine acknowledge_reach ?_ _ _ _); exact .trans rfl hw)
    | ((with_reducible refine raise_reach ?_ _ _ _ _); exact .trans rfl hw)
    | ((with_reducible refine modQp_reach ?_ _ _); exact .trans rfl hw)
    | with_reducible intro _
    | split

theorem rdmaAdmit_reach {msk : Nat} (hw : Within 0xABA9 msk) (i psn rkey addr len : Nat) (isWrite : Bool) :
    M.All (Upd.In msk) (rdmaAdmit i psn rkey addr len isWrite) := by
  unfold rdmaAdmit
  repeat' first
    | (with_reducible first | exact .pure _ | exact .getS | refine .bind ?_ fun _ => ?_ | refine .ite ?_ ?_)
    | ((with_reducible refine rdmaTranslates_reach ?_ _ _ _ _); exact .trans rfl hw)
    | ((with_reducible refine rdmaRefuse_reach ?_ _ _ _ _); exact .trans rfl hw)
    | with_reducible intro _
    | split

theorem rdmaRead_reach {msk : Nat} (hw : Within 0xABA9 msk) (i psn rkey addr len : Nat) :
    M.All (Upd.In msk) (rdmaRead i psn rkey addr len) := by
  unfold rdmaRead
  repeat' first
    | (with_reducible first | exact .pure _ | exact .getS | refine .bind ?_ fun _ => ?_ | refine .ite ?_ ?_ | refine .forIn _ _ _ fun _ _ => ?_)
    | ((with_reducible refine ctxRead_reach ?_ _ _ _ _); exact .trans rfl hw)
    | ((with_reducible refine acknowledge_reach ?_ _ _ _); exact .trans rfl hw)
    | ((with_reducible refine ensureQp_reach ?_ _); exact .trans rfl hw)
    | ((with_reducible refine rdmaAdmit_reach ?_ _ _ _ _ _ _); exact .trans rfl hw)
    | ((with_reducible refine modQp_reach ?_ _ _); exact .trans rfl hw)
    | ((with_reducible refine sendPacket_reach ?_ _ _ _ _ _); exact .trans rfl hw)
    | with_reducible intro _
    | split

theorem portAck_reach {msk : Nat} (hw : Within 0x118 msk) (i code seq : Nat) :
    M.All (Upd.In msk) (portAck i code seq) := by
  unfold portAck
  repeat' first
    | (with_reducible first | exact .pure _ | exact .getS | refine .bind ?_ fun _ => ?_ | refine .ite ?_ ?_)
    | ((with_reducible refine answer_reach ?_ _ _); exact .trans rfl hw)
    | ((with_reducible refine modTally_reach ?_ _); exact .trans rfl hw)
    | ((with_reducible refine wrReg_reach ?_ _ _); exact .trans rfl hw)
    | with_reducible intro _
    | split

theorem refuseWait_reach {msk : Nat} (hw : Within 0x1318 msk) (w : MirrorWait) :
    M.All (Upd.In msk) (refuseWait w) := by
  unfold refuseWait
  repeat' first
    | (with_reducible first | exact .pure _ | exact .getS | refine .bind ?_ fun _ => ?_ | refine .ite ?_ ?_)
    | ((with_reducible refine modTally_reach ?_ _); exact .trans rfl hw)
    | ((with_reducible refine modQueue_reach ?_ _ _); exact .trans rfl hw)
    | ((with_reducible refine forget_reach ?_ _); exact .trans rfl hw)
    | ((with_reducible refine portAck_reach ?_ _ _ _); exact .trans rfl hw)
    | with_reducible intro _
    | split

theorem peerLost_reach {msk : Nat} (hw : Within 0x10FBB9 msk) (j r reason : Nat) :
    M.All (Upd.In msk) (peerLost j r reason) := by
  unfold peerLost
  repeat' first
    | (with_reducible first | exact .pure _ | exact .getS | refine .bind ?_ fun _ => ?_ | refine .ite ?_ ?_ | refine .forIn _ _ _ fun _ _ => ?_)
    | ((with_reducible refine .update ?_); exact .of hw rfl)
    | ((with_reducible refine modJob_reach ?_ _ _); exact .trans rfl hw)
    | ((with_reducible refine unstall_reach ?_ _); exact .trans rfl hw)
    | ((with_reducible refine settleAll_reach ?_ _); exact .trans rfl hw)
    | ((with_reducible refine endLost_reach ?_ _ _ _ _ _); exact .trans rfl hw)
    | ((with_reducible refine refuseWait_reach ?_ _); exact .trans rfl hw)
    | with_reducible intro _
    | split

theorem resetNotice_reach {msk : Nat} (hw : Within 0x10FBB9 msk) (j r : Nat) :
    M.All (Upd.In msk) (resetNotice j r) := by
  unfold resetNotice
  repeat' first
    | (with_reducible first | exact .pure _ | exact .getS | refine .bind ?_ fun _ => ?_ | refine .ite ?_ ?_)
    | ((with_reducible refine raise_reach ?_ _ _ _ _); exact .trans rfl hw)
    | ((with_reducible refine peerLost_reach ?_ _ _ _); exact .trans rfl hw)
    | with_reducible intro _
    | split

theorem congestion_reach {msk : Nat} (hw : Within 0xA000 msk) (i : Nat) (ce : Bool) :
    M.All (Upd.In msk) (congestion i ce) := by
  unfold congestion
  repeat' first
    | (with_reducible first | exact .pure _ | exact .getS | refine .bind ?_ fun _ => ?_ | refine .ite ?_ ?_)
    | ((with_reducible refine modQp_reach ?_ _ _); exact .trans rfl hw)
    | ((with_reducible refine sendPacket_reach ?_ _ _ _ _ _); exact .trans rfl hw)
    | with_reducible intro _
    | split

theorem inbound_reach {msk : Nat} (hw : Within 0xABA9 msk) (i psn : Nat) (ce : Bool) (go : M Unit) (hgo : M.All (Upd.In msk) (go)) :
    M.All (Upd.In msk) (inbound i psn ce go) := by
  unfold inbound
  repeat' first
    | fail_if_no_progress beta_reduce
    | (extract_lets +onlyGivenNames jp
       first
       | (refine (fun hj : ∀ x, M.All (Upd.In msk) (jp x) => ?_) (fun x => ?_)
          on_goal 2 => (dsimp -zeta only [jp]; clear jp)
          on_goal 1 => clear_value jp)
       | clear_value jp)
    | (with_reducible first | exact .pure _ | exact .getS | refine .bind ?_ fun _ => ?_ | refine .ite ?_ ?_)
    | ((with_reducible refine acknowledge_reach ?_ _ _ _); exact .trans rfl hw)
    | ((with_reducible refine ensureQp_reach ?_ _); exact .trans rfl hw)
    | ((with_reducible refine congestion_reach ?_ _ _); exact .trans rfl hw)
    | with_reducible apply_assumption -exfalso -symm
    | with_reducible assumption
    | with_reducible intro _
    | split

theorem takePacket_reach {msk : Nat} (hw : Within 0x8000 msk) (i kind : Nat) (first : Bool) (rkey addr len : Nat) (data : List Byte) :
    M.All (Upd.In msk) (takePacket i kind first rkey addr len data) := by
  unfold takePacket
  repeat' first
    | (with_reducible first | exact .pure _ | exact .getS | refine .bind ?_ fun _ => ?_ | refine .ite ?_ ?_)
    | ((with_reducible refine modQp_reach ?_ _ _); exact .trans rfl hw)
    | with_reducible intro _
    | split

theorem endMessage_reach {msk : Nat} (hw : Within 0x8000 msk) (i : Nat) :
    M.All (Upd.In msk) (endMessage i) := by
  unfold endMessage
  repeat' first
    | (with_reducible first | exact .pure _ | exact .getS | refine .bind ?_ fun _ => ?_ | refine .ite ?_ ?_)
    | ((with_reducible refine modQp_reach ?_ _ _); exact .trans rfl hw)
    | with_reducible intro _
    | split

theorem rdmaWrite_reach {msk : Nat} (hw : Within 0xABA9 msk) (i psn form rkey addr len : Nat) (data : List Byte) (ce : Bool) :
    M.All (Upd.In msk) (rdmaWrite i psn form rkey addr len data ce) := by
  unfold rdmaWrite
  repeat' first
    | (with_reducible first | exact .pure _ | exact .getS | refine .bind ?_ fun _ => ?_ | refine .ite ?_ ?_)
    | ((with_reducible refine acknowledge_reach ?_ _ _ _); exact .trans rfl hw)
    | ((with_reducible refine inbound_reach ?_ _ _ _ _ ?_); on_goal 1 => exact .trans rfl hw)
    | ((with_reducible refine rdmaAdmit_reach ?_ _ _ _ _ _ _); exact .trans rfl hw)
    | ((with_reducible refine takePacket_reach ?_ _ _ _ _ _ _ _); exact .trans rfl hw)
    | ((with_reducible refine ctxWrite_reach ?_ _ _ _ _); exact .trans rfl hw)
    | ((with_reducible refine endMessage_reach ?_ _); exact .trans rfl hw)
    | with_reducible intro _
    | split

theorem takeTransfer_reach {msk : Nat} (hw : Within 0x8000 msk) (msg : List Byte) :
    M.All (Upd.In msk) (takeTransfer msg) := by
  unfold takeTransfer
  repeat' first
    | (with_reducible first | exact .pure _ | exact .getS | refine .bind ?_ fun _ => ?_ | refine .ite ?_ ?_)
    | ((with_reducible refine .update ?_); exact .of hw rfl)
    | with_reducible intro _
    | split

theorem takeFabricMessage_reach {msk : Nat} (hw : Within 0x10FBA9 msk) (i : Nat) (msg : List Byte) :
    M.All (Upd.In msk) (takeFabricMessage i msg) := by
  unfold takeFabricMessage
  repeat' first
    | fail_if_no_progress beta_reduce
    | (extract_lets +onlyGivenNames jp
       first
       | (refine (fun hj : ∀ x, M.All (Upd.In msk) (jp x) => ?_) (fun x => ?_)
          on_goal 2 => (dsimp -zeta only [jp]; clear jp)
          on_goal 1 => clear_value jp)
       | clear_value jp)
    | (with_reducible first | exact .pure _ | exact .getS | refine .bind ?_ fun _ => ?_ | refine .ite ?_ ?_)
    | ((with_reducible refine raise_reach ?_ _ _ _ _); exact .trans rfl hw)
    | ((with_reducible refine settleAll_reach ?_ _); exact .trans rfl hw)
    | ((with_reducible refine appendEntry_reach ?_ _ _ _ _ _ _ _ _); exact .trans rfl hw)
    | with_reducible apply_assumption -exfalso -symm
    | with_reducible intro _
    | split

theorem roceSend_reach {msk : Nat} (hw : Within 0x10FBA9 msk) (i psn form : Nat) (data : List Byte) (ce : Bool) :
    M.All (Upd.In msk) (roceSend i psn form data ce) := by
  unfold roceSend
  repeat' first
    | (with_reducible first | exact .pure _ | exact .getS | refine .bind ?_ fun _ => ?_ | refine .ite ?_ ?_)
    | ((with_reducible refine takeTransfer_reach ?_ _); exact .trans rfl hw)
    | ((with_reducible refine acknowledge_reach ?_ _ _ _); exact .trans rfl hw)
    | ((with_reducible refine takeFabricMessage_reach ?_ _ _); exact .trans rfl hw)
    | ((with_reducible refine inbound_reach ?_ _ _ _ _ ?_); on_goal 1 => exact .trans rfl hw)
    | ((with_reducible refine takePacket_reach ?_ _ _ _ _ _ _ _); exact .trans rfl hw)
    | ((with_reducible refine endMessage_reach ?_ _); exact .trans rfl hw)
    | with_reducible intro _
    | split

theorem mirrorAccepted_reach {msk : Nat} (hw : Within 0x10FBB9 msk) (q seq : Nat) :
    M.All (Upd.In msk) (mirrorAccepted q seq) := by
  unfold mirrorAccepted
  repeat' first
    | (with_reducible first | exact .pure _ | exact .getS | refine .bind ?_ fun _ => ?_ | refine .ite ?_ ?_)
    | ((with_reducible refine .update ?_); exact .of hw rfl)
    | ((with_reducible refine takeTokens_reach ?_ _); exact .trans rfl hw)
    | ((with_reducible refine modQueue_reach ?_ _ _); exact .trans rfl hw)
    | ((with_reducible refine settleAll_reach ?_ _); exact .trans rfl hw)
    | ((with_reducible refine portAck_reach ?_ _ _ _); exact .trans rfl hw)
    | ((with_reducible refine wrReg_reach ?_ _ _); exact .trans rfl hw)
    | with_reducible intro _
    | split

theorem packetAcked_reach {msk : Nat} (hw : Within 0x10FBB9 msk) (p : OutPkt) :
    M.All (Upd.In msk) (packetAcked p) := by
  unfold packetAcked
  repeat' first
    | (with_reducible first | exact .pure _ | exact .getS | refine .bind ?_ fun _ => ?_ | refine .ite ?_ ?_)
    | ((with_reducible refine leaveEntry_reach ?_ _ _); exact .trans rfl hw)
    | ((with_reducible refine modTask_reach ?_ _ _); exact .trans rfl hw)
    | ((with_reducible refine settleAll_reach ?_ _); exact .trans rfl hw)
    | ((with_reducible refine mirrorAccepted_reach ?_ _ _); exact .trans rfl hw)
    | with_reducible intro _
    | split

theorem retryQp_reach {msk : Nat} (hw : Within 0x10FBB9 msk) (i : Nat) (count : Bool) :
    M.All (Upd.In msk) (retryQp i count) := by
  unfold retryQp
  repeat' first
    | (with_reducible first | exact .pure _ | exact .getS | refine .bind ?_ fun _ => ?_ | refine .ite ?_ ?_ | refine .forIn _ _ _ fun _ _ => ?_)
    | ((with_reducible refine peerLost_reach ?_ _ _ _); exact .trans rfl hw)
    | ((with_reducible refine sendOut_reach ?_ _ _); exact .trans rfl hw)
    | ((with_reducible refine modQp_reach ?_ _ _); exact .trans rfl hw)
    | with_reducible intro _
    | split

theorem roceAck_reach {msk : Nat} (hw : Within 0x10FBB9 msk) (i psn nak : Nat) :
    M.All (Upd.In msk) (roceAck i psn nak) := by
  unfold roceAck
  repeat' first
    | (with_reducible first | exact .pure _ | exact .getS | refine .bind ?_ fun _ => ?_ | refine .ite ?_ ?_ | refine .forIn _ _ _ fun _ _ => ?_)
    | ((with_reducible refine packetAcked_reach ?_ _); exact .trans rfl hw)
    | ((with_reducible refine peerLost_reach ?_ _ _ _); exact .trans rfl hw)
    | ((with_reducible refine retryQp_reach ?_ _ _); exact .trans rfl hw)
    | ((with_reducible refine modQp_reach ?_ _ _); exact .trans rfl hw)
    | with_reducible intro _
    | split

theorem roceReceive_reach {msk : Nat} (hw : Within 0x10FBB9 msk) (b : List Byte) (ce : Bool) :
    M.All (Upd.In msk) (roceReceive b ce) := by
  unfold roceReceive
  repeat' first
    | (with_reducible first | exact .pure _ | exact .getS | refine .bind ?_ fun _ => ?_ | refine .ite ?_ ?_)
    | ((with_reducible refine readResponse_reach ?_ _ _ _); exact .trans rfl hw)
    | ((with_reducible refine rdmaRead_reach ?_ _ _ _ _ _); exact .trans rfl hw)
    | ((with_reducible refine resetNotice_reach ?_ _ _); exact .trans rfl hw)
    | ((with_reducible refine rdmaWrite_reach ?_ _ _ _ _ _ _ _ _); exact .trans rfl hw)
    | ((with_reducible refine roceSend_reach ?_ _ _ _ _ _); exact .trans rfl hw)
    | ((with_reducible refine modQp_reach ?_ _ _); exact .trans rfl hw)
    | ((with_reducible refine roceAck_reach ?_ _ _ _); exact .trans rfl hw)
    | with_reducible intro _
    | split

theorem rxPacket_reach {msk : Nat} (hw : Within 0x90FBA9 msk) (n : Nat) (f : List Byte) (tagged : Bool) (pcp : Nat) :
    M.All (Upd.In msk) (rxPacket n f tagged pcp) := by
  unfold rxPacket
  repeat' first
    | (with_reducible first | exact .pure _ | exact .getS | refine .bind ?_ fun _ => ?_ | refine .ite ?_ ?_)
    | ((with_reducible refine bump_reach ?_ _ _ _); exact .trans rfl hw)
    | ((with_reducible refine deviceAppend_reach ?_ _ _ _ _ _); exact .trans rfl hw)
    | ((with_reducible refine settleAll_reach ?_ _); exact .trans rfl hw)
    | ((with_reducible refine ctxWrite_reach ?_ _ _ _ _); exact .trans rfl hw)
    | ((with_reducible refine modEth_reach ?_ _ _); exact .trans rfl hw)
    | with_reducible intro _
    | split

theorem fhReceive_reach {msk : Nat} (hw : Within 0x400008 msk) (peer stamp : Nat) (msg : List Byte) :
    M.All (Upd.In msk) (fhReceive peer stamp msg) := by
  unfold fhReceive
  repeat' first
    | fail_if_no_progress beta_reduce
    | (extract_lets +onlyGivenNames jp
       first
       | (refine (fun hj : ∀ x, M.All (Upd.In msk) (jp x) => ?_) (fun x => ?_)
          on_goal 2 => (dsimp -zeta only [jp]; clear jp)
          on_goal 1 => clear_value jp)
       | clear_value jp)
    | (with_reducible first | exact .pure _ | exact .getS | refine .bind ?_ fun _ => ?_ | refine .ite ?_ ?_)
    | ((with_reducible refine bump_reach ?_ _ _ _); exact .trans rfl hw)
    | ((with_reducible refine modRadio_reach ?_ _); exact .trans rfl hw)
    | with_reducible apply_assumption -exfalso -symm
    | with_reducible intro _
    | split

theorem ethReceive_reach {msk : Nat} (hw : Within 0xD0FBB9 msk) (n : Nat) (f : List Byte) :
    M.All (Upd.In msk) (ethReceive n f) := by
  unfold ethReceive
  repeat' first
    | (with_reducible first | exact .pure _ | exact .getS | refine .bind ?_ fun _ => ?_ | refine .ite ?_ ?_)
    | ((with_reducible refine fhReceive_reach ?_ _ _ _); exact .trans rfl hw)
    | ((with_reducible refine answer_reach ?_ _ _); exact .trans rfl hw)
    | ((with_reducible refine roceReceive_reach ?_ _ _); exact .trans rfl hw)
    | ((with_reducible refine bump_reach ?_ _ _ _); exact .trans rfl hw)
    | ((with_reducible refine rxPacket_reach ?_ _ _ _ _); exact .trans rfl hw)
    | ((with_reducible refine lldpReceive_reach ?_ _ _); exact .trans rfl hw)
    | with_reducible intro _
    | split

theorem rxReturn_reach {msk : Nat} (hw : Within 0x800181 msk) (by_ : Requester) (n index : Nat) :
    M.All (Upd.In msk) (rxReturn by_ n index) := by
  unfold rxReturn
  repeat' first
    | (with_reducible first | exact .pure _ | exact .getS | refine .bind ?_ fun _ => ?_ | refine .ite ?_ ?_)
    | ((with_reducible refine refuseReg_reach ?_ _ _ _); exact .trans rfl hw)
    | ((with_reducible refine modEth_reach ?_ _ _); exact .trans rfl hw)
    | with_reducible intro _
    | split

theorem ethTransmit_reach {msk : Nat} (hw : Within 0x10FBA9 msk) (n : Nat) :
    M.All (Upd.In msk) (ethTransmit n) := by
  unfold ethTransmit
  repeat' first
    | (with_reducible first | exact .pure _ | exact .getS | refine .bind ?_ fun _ => ?_ | refine .ite ?_ ?_)
    | ((with_reducible refine .update ?_); exact .of hw rfl)
    | ((with_reducible refine ctxRead_reach ?_ _ _ _ _); exact .trans rfl hw)
    | ((with_reducible refine raise_reach ?_ _ _ _ _); exact .trans rfl hw)
    | ((with_reducible refine settleAll_reach ?_ _); exact .trans rfl hw)
    | ((with_reducible refine leaveEntry_reach ?_ _ _); exact .trans rfl hw)
    | ((with_reducible refine wrReg_reach ?_ _ _); exact .trans rfl hw)
    | with_reducible intro _
    | split

theorem lldpSend_reach {msk : Nat} (hw : Within 0x802000 msk) (n : Nat) :
    M.All (Upd.In msk) (lldpSend n) := by
  unfold lldpSend
  repeat' first
    | (with_reducible first | exact .pure _ | exact .getS | refine .bind ?_ fun _ => ?_ | refine .ite ?_ ?_)
    | ((with_reducible refine .update ?_); exact .of hw rfl)
    | ((with_reducible refine modEth_reach ?_ _ _); exact .trans rfl hw)
    | with_reducible intro _
    | split

theorem lldpExpire_reach {msk : Nat} (hw : Within 0x800181 msk) (n : Nat) :
    M.All (Upd.In msk) (lldpExpire n) := by
  unfold lldpExpire
  repeat' first
    | (with_reducible first | exact .pure _ | exact .getS | refine .bind ?_ fun _ => ?_ | refine .ite ?_ ?_)
    | ((with_reducible refine raise_reach ?_ _ _ _ _); exact .trans rfl hw)
    | ((with_reducible refine modEth_reach ?_ _ _); exact .trans rfl hw)
    | with_reducible intro _
    | split

theorem pcieLinkUp_reach {msk : Nat} (hw : Within 0x189 msk) (speed width : Nat) :
    M.All (Upd.In msk) (pcieLinkUp speed width) := by
  unfold pcieLinkUp
  repeat' first
    | (with_reducible first | exact .pure _ | exact .getS | refine .bind ?_ fun _ => ?_ | refine .ite ?_ ?_)
    | ((with_reducible refine raise_reach ?_ _ _ _ _); exact .trans rfl hw)
    | ((with_reducible refine wrFld_reach ?_ _ _ _); exact .trans rfl hw)
    | with_reducible intro _
    | split

theorem pcieLinkDown_reach {msk : Nat} (hw : Within 0x189 msk) :
    M.All (Upd.In msk) (pcieLinkDown) := by
  unfold pcieLinkDown
  repeat' first
    | (with_reducible first | exact .pure _ | exact .getS | refine .bind ?_ fun _ => ?_ | refine .ite ?_ ?_)
    | ((with_reducible refine raise_reach ?_ _ _ _ _); exact .trans rfl hw)
    | ((with_reducible refine wrFld_reach ?_ _ _ _); exact .trans rfl hw)
    | with_reducible intro _
    | split

theorem msiReceive_reach {msk : Nat} (hw : Within 0x10FBA9 msk) (data : Nat) :
    M.All (Upd.In msk) (msiReceive data) := by
  unfold msiReceive
  repeat' first
    | (with_reducible first | exact .pure _ | exact .getS | refine .bind ?_ fun _ => ?_ | refine .ite ?_ ?_)
    | ((with_reducible refine offerCtx_reach ?_ _ _); exact .trans rfl hw)
    | ((with_reducible refine raise_reach ?_ _ _ _ _); exact .trans rfl hw)
    | ((with_reducible refine settleAll_reach ?_ _); exact .trans rfl hw)
    | with_reducible intro _
    | split

theorem rateWindowEnd_reach {msk : Nat} (hw : Within 0x8000 msk) (i : Nat) :
    M.All (Upd.In msk) (rateWindowEnd i) := by
  unfold rateWindowEnd
  repeat' first
    | (with_reducible first | exact .pure _ | exact .getS | refine .bind ?_ fun _ => ?_ | refine .ite ?_ ?_)
    | ((with_reducible refine modQp_reach ?_ _ _); exact .trans rfl hw)
    | with_reducible intro _
    | split

theorem sendPart_reach {msk : Nat} (hw : Within 0x10FBA9 msk) (t : Nat) (k : Task) (ranks : List Nat) :
    M.All (Upd.In msk) (sendPart t k ranks) := by
  unfold sendPart
  repeat' first
    | (with_reducible first | exact .pure _ | exact .getS | refine .bind ?_ fun _ => ?_ | refine .ite ?_ ?_ | refine .forIn _ _ _ fun _ _ => ?_)
    | ((with_reducible refine .update ?_); exact .of hw rfl)
    | ((with_reducible refine openQp_reach ?_ _ _); exact .trans rfl hw)
    | ((with_reducible refine modTask_reach ?_ _ _); exact .trans rfl hw)
    | ((with_reducible refine runPlanWith_reach ?_ _ _ _ _ _ _ ?_); on_goal 1 => exact .trans rfl hw)
    | ((with_reducible refine postMsg_reach ?_ _ _ _ _ _); exact .trans rfl hw)
    | with_reducible intro _
    | split

theorem shapeMismatch_reach {msk : Nat} (hw : Within 0x10FBA9 msk) (t r : Nat) (k : Task) :
    M.All (Upd.In msk) (shapeMismatch t r k) := by
  unfold shapeMismatch
  repeat' first
    | (with_reducible first | exact .pure _ | exact .getS | refine .bind ?_ fun _ => ?_ | refine .ite ?_ ?_)
    | ((with_reducible refine settleAll_reach ?_ _); exact .trans rfl hw)
    | ((with_reducible refine faultTask_reach ?_ _ _ _ _); exact .trans rfl hw)
    | ((with_reducible refine raiseFor_reach ?_ _ _ _ _ _); exact .trans rfl hw)
    | with_reducible intro _
    | split

theorem dropTransfers_reach {msk : Nat} (hw : Within 0x8000 msk) (xs : List Transfer) :
    M.All (Upd.In msk) (dropTransfers xs) := by
  unfold dropTransfers
  repeat' first
    | (with_reducible first | exact .pure _ | exact .getS | refine .bind ?_ fun _ => ?_ | refine .ite ?_ ?_)
    | ((with_reducible refine .update ?_); exact .of hw rfl)
    | with_reducible intro _
    | split

theorem recvShard_reach {msk : Nat} (hw : Within 0x10FBA9 msk) (t : Nat) (k : Task) :
    M.All (Upd.In msk) (recvShard t k) := by
  unfold recvShard
  repeat' first
    | (with_reducible first | exact .pure _ | exact .getS | refine .bind ?_ fun _ => ?_ | refine .ite ?_ ?_)
    | ((with_reducible refine dropTransfers_reach ?_ _); exact .trans rfl hw)
    | ((with_reducible refine shapeMismatch_reach ?_ _ _ _); exact .trans rfl hw)
    | ((with_reducible refine runPlanWith_reach ?_ _ _ _ _ _ _ ?_); on_goal 1 => exact .trans rfl hw)
    | with_reducible intro _
    | split

theorem allMembers_reach {msk : Nat} (hw : Within 0x10FBA9 msk) (t : Nat) (k : Task) (plan : State → List Ten → Plan) (notes : State → List Ten → Notes) :
    M.All (Upd.In msk) (allMembers t k plan notes) := by
  unfold allMembers
  repeat' first
    | fail_if_no_progress beta_reduce
    | (extract_lets +onlyGivenNames jp
       first
       | (refine (fun hj : ∀ x, M.All (Upd.In msk) (jp x) => ?_) (fun x => ?_)
          on_goal 2 => (dsimp -zeta only [jp]; clear jp)
          on_goal 1 => clear_value jp)
       | clear_value jp)
    | (with_reducible first | exact .pure _ | exact .getS | refine .bind ?_ fun _ => ?_ | refine .ite ?_ ?_)
    | ((with_reducible refine dropTransfers_reach ?_ _); exact .trans rfl hw)
    | ((with_reducible refine shapeMismatch_reach ?_ _ _ _); exact .trans rfl hw)
    | ((with_reducible refine sendPart_reach ?_ _ _ _); exact .trans rfl hw)
    | ((with_reducible refine runPlanWith_reach ?_ _ _ _ _ _ _ ?_); on_goal 1 => exact .trans rfl hw)
    | with_reducible apply_assumption -exfalso -symm
    | with_reducible intro _
    | split

theorem abortJob_reach {msk : Nat} (hw : Within 0x10FBA9 msk) (j : Nat) :
    M.All (Upd.In msk) (abortJob j) := by
  unfold abortJob
  repeat' first
    | (with_reducible first | exact .pure _ | exact .getS | refine .bind ?_ fun _ => ?_ | refine .ite ?_ ?_ | refine .forIn _ _ _ fun _ _ => ?_)
    | ((with_reducible refine .update ?_); exact .of hw rfl)
    | ((with_reducible refine unstall_reach ?_ _); exact .trans rfl hw)
    | ((with_reducible refine finish_reach ?_ _ _); exact .trans rfl hw)
    | ((with_reducible refine wrFld_reach ?_ _ _ _); exact .trans rfl hw)
    | with_reducible intro _
    | split

theorem reviveQp_reach {msk : Nat} (hw : Within 0xABA9 msk) (i : Nat) :
    M.All (Upd.In msk) (reviveQp i) := by
  unfold reviveQp
  repeat' first
    | (with_reducible first | exact .pure _ | exact .getS | refine .bind ?_ fun _ => ?_ | refine .ite ?_ ?_ | refine .forIn _ _ _ fun _ _ => ?_)
    | ((with_reducible refine .update ?_); exact .of hw rfl)
    | ((with_reducible refine readMember_reach ?_ _ _); exact .trans rfl hw)
    | ((with_reducible refine postPacket_reach ?_ _ _ _); exact .trans rfl hw)
    | ((with_reducible refine modQp_reach ?_ _ _); exact .trans rfl hw)
    | with_reducible intro _
    | split

theorem resumeJob_reach {msk : Nat} (hw : Within 0xABA9 msk) (j : Nat) :
    M.All (Upd.In msk) (resumeJob j) := by
  unfold resumeJob
  repeat' first
    | (with_reducible first | exact .pure _ | exact .getS | refine .bind ?_ fun _ => ?_ | refine .ite ?_ ?_ | refine .forIn _ _ _ fun _ _ => ?_)
    | ((with_reducible refine modJob_reach ?_ _ _); exact .trans rfl hw)
    | ((with_reducible refine reviveQp_reach ?_ _); exact .trans rfl hw)
    | ((with_reducible refine wrFld_reach ?_ _ _ _); exact .trans rfl hw)
    | with_reducible intro _
    | split

theorem fabJobCmd_reach {msk : Nat} (hw : Within 0x10FBA9 msk) (by_ : Requester) (j cmd step : Nat) :
    M.All (Upd.In msk) (fabJobCmd by_ j cmd step) := by
  unfold fabJobCmd
  repeat' first
    | (with_reducible first | exact .pure _ | exact .getS | refine .bind ?_ fun _ => ?_ | refine .ite ?_ ?_)
    | ((with_reducible refine refuseReg_reach ?_ _ _ _); exact .trans rfl hw)
    | ((with_reducible refine resumeJob_reach ?_ _); exact .trans rfl hw)
    | ((with_reducible refine abortJob_reach ?_ _); exact .trans rfl hw)
    | with_reducible intro _
    | split

theorem fhSend_reach {msk : Nat} (hw : Within 0x402008 msk) (p : List Byte) (type : Nat) (body : List Byte) :
    M.All (Upd.In msk) (fhSend p type body) := by
  unfold fhSend
  repeat' first
    | (with_reducible first | exact .pure _ | exact .getS | refine .bind ?_ fun _ => ?_ | refine .ite ?_ ?_)
    | ((with_reducible refine .update ?_); exact .of hw rfl)
    | ((with_reducible refine bump_reach ?_ _ _ _); exact .trans rfl hw)
    | ((with_reducible refine modRadio_reach ?_ _); exact .trans rfl hw)
    | with_reducible intro _
    | split

theorem fhSendSymbol_reach {msk : Nat} (hw : Within 0x402008 msk) (k : Task) (i : Nat) :
    M.All (Upd.In msk) (fhSendSymbol k i) := by
  unfold fhSendSymbol
  repeat' first
    | (with_reducible first | exact .pure _ | exact .getS | refine .bind ?_ fun _ => ?_ | refine .ite ?_ ?_ | refine .forIn _ _ _ fun _ _ => ?_)
    | ((with_reducible refine fhSend_reach ?_ _ _ _); exact .trans rfl hw)
    | ((with_reducible refine bump_reach ?_ _ _ _); exact .trans rfl hw)
    | with_reducible intro _
    | split

theorem fhWindowOpen_reach {msk : Nat} (hw : Within 0x402189 msk) (peer : Nat) :
    M.All (Upd.In msk) (fhWindowOpen peer) := by
  unfold fhWindowOpen
  repeat' first
    | (with_reducible first | exact .pure _ | exact .getS | refine .bind ?_ fun _ => ?_ | refine .ite ?_ ?_ | refine .forIn _ _ _ fun _ _ => ?_)
    | ((with_reducible refine fhSend_reach ?_ _ _ _); exact .trans rfl hw)
    | ((with_reducible refine fhSendSymbol_reach ?_ _ _); exact .trans rfl hw)
    | ((with_reducible refine bump_reach ?_ _ _ _); exact .trans rfl hw)
    | ((with_reducible refine modRadio_reach ?_ _); exact .trans rfl hw)
    | ((with_reducible refine heldForTime_reach ?_); exact .trans rfl hw)
    | with_reducible intro _
    | split

theorem fhWindowClose_reach {msk : Nat} (hw : Within 0x50FBA9 msk) (peer : Nat) :
    M.All (Upd.In msk) (fhWindowClose peer) := by
  unfold fhWindowClose
  repeat' first
    | (with_reducible first | exact .pure _ | exact .getS | refine .bind ?_ fun _ => ?_ | refine .ite ?_ ?_ | refine .forIn _ _ _ fun _ _ => ?_)
    | ((with_reducible refine bump_reach ?_ _ _ _); exact .trans rfl hw)
    | ((with_reducible refine modRadio_reach ?_ _); exact .trans rfl hw)
    | ((with_reducible refine settleAll_reach ?_ _); exact .trans rfl hw)
    | ((with_reducible refine raiseFor_reach ?_ _ _ _ _ _); exact .trans rfl hw)
    | with_reducible intro _
    | split

theorem fhTx_reach {msk : Nat} (hw : Within 0x50FBA9 msk) (t : Nat) :
    M.All (Upd.In msk) (fhTx t) := by
  unfold fhTx
  repeat' first
    | (with_reducible first | exact .pure _ | exact .getS | refine .bind ?_ fun _ => ?_ | refine .ite ?_ ?_)
    | ((with_reducible refine modRadio_reach ?_ _); exact .trans rfl hw)
    | ((with_reducible refine runPlan_reach ?_ _ _ _ _); exact .trans rfl hw)
    | with_reducible intro _
    | split

theorem fhRx_reach {msk : Nat} (hw : Within 0x50FBA9 msk) (t : Nat) :
    M.All (Upd.In msk) (fhRx t) := by
  unfold fhRx
  repeat' first
    | (with_reducible first | exact .pure _ | exact .getS | refine .bind ?_ fun _ => ?_ | refine .ite ?_ ?_)
    | ((with_reducible refine runPlanWith_reach ?_ _ _ _ _ _ _ ?_); on_goal 1 => exact .trans rfl hw)
    | ((with_reducible refine modRadio_reach ?_ _); exact .trans rfl hw)
    | with_reducible intro _
    | split

theorem portOp_reach {msk : Nat} (hw : Within 0x199 msk) (i cmd : Nat) (op : M Unit) (hop : M.All (Upd.In msk) (op)) :
    M.All (Upd.In msk) (portOp i cmd op) := by
  unfold portOp
  repeat' first
    | (with_reducible first | exact .pure _ | exact .getS | refine .bind ?_ fun _ => ?_ | refine .ite ?_ ?_)
    | ((with_reducible refine raise_reach ?_ _ _ _ _); exact .trans rfl hw)
    | ((with_reducible refine portAck_reach ?_ _ _ _); exact .trans rfl hw)
    | with_reducible apply_assumption -exfalso -symm
    | with_reducible assumption
    | with_reducible intro _
    | split

theorem portAckRead_reach {msk : Nat} (hw : Within 0x110 msk) (i : Nat) :
    M.All (Upd.In msk) (portAckRead i) := by
  unfold portAckRead
  repeat' first
    | (with_reducible first | exact .pure _ | exact .getS | refine .bind ?_ fun _ => ?_ | refine .ite ?_ ?_)
    | ((with_reducible refine answer_reach ?_ _ _); exact .trans rfl hw)
    | ((with_reducible refine modTally_reach ?_ _); exact .trans rfl hw)
    | with_reducible intro _
    | split

theorem ackEnqueue_reach {msk : Nat} (hw : Within 0x10FBB9 msk) (i q seq : Nat) (task : Option Nat) (work : M (List Work)) (hwork : M.All (Upd.In msk) (work)) :
    M.All (Upd.In msk) (ackEnqueue i q seq task work) := by
  unfold ackEnqueue
  repeat' first
    | (with_reducible first | exact .pure _ | exact .getS | refine .bind ?_ fun _ => ?_ | refine .ite ?_ ?_)
    | ((with_reducible refine .update ?_); exact .of hw rfl)
    | ((with_reducible refine modTally_reach ?_ _); exact .trans rfl hw)
    | ((with_reducible refine settleAll_reach ?_ _); exact .trans rfl hw)
    | ((with_reducible refine portAck_reach ?_ _ _ _); exact .trans rfl hw)
    | ((with_reducible refine wrReg_reach ?_ _ _); exact .trans rfl hw)
    | with_reducible apply_assumption -exfalso -symm
    | with_reducible assumption
    | with_reducible intro _
    | split

theorem enqueueData_reach {msk : Nat} (hw : Within 0x10FBB9 msk) (i q ty : Nat) :
    M.All (Upd.In msk) (enqueueData i q ty) := by
  unfold enqueueData
  repeat' first
    | (with_reducible first | exact .pure _ | exact .getS | refine .bind ?_ fun _ => ?_ | refine .ite ?_ ?_)
    | ((with_reducible refine ackEnqueue_reach ?_ _ _ _ _ _ ?_); on_goal 1 => exact .trans rfl hw)
    | ((with_reducible refine appendEntry_reach ?_ _ _ _ _ _ _ _ _); exact .trans rfl hw)
    | ((with_reducible refine portAck_reach ?_ _ _ _); exact .trans rfl hw)
    | with_reducible intro _
    | split

theorem enqueueSubmit_reach {msk : Nat} (hw : Within 0x10FBB9 msk) (i q : Nat) :
    M.All (Upd.In msk) (enqueueSubmit i q) := by
  unfold enqueueSubmit
  repeat' first
    | (with_reducible first | exact .pure _ | exact .getS | refine .bind ?_ fun _ => ?_ | refine .ite ?_ ?_)
    | ((with_reducible refine ctxRead_reach ?_ _ _ _ _); exact .trans rfl hw)
    | ((with_reducible refine settleAll_reach ?_ _); exact .trans rfl hw)
    | ((with_reducible refine appendEntry_reach ?_ _ _ _ _ _ _ _ _); exact .trans rfl hw)
    | ((with_reducible refine portAck_reach ?_ _ _ _); exact .trans rfl hw)
    | ((with_reducible refine takeTokens_reach ?_ _); exact .trans rfl hw)
    | ((with_reducible refine ackEnqueue_reach ?_ _ _ _ _ _ ?_); on_goal 1 => exact .trans rfl hw)
    | ((with_reducible refine rejected_reach ?_ _ _ _ _); exact .trans rfl hw)
    | ((with_reducible refine storeTask_reach ?_ _ _ _ _); exact .trans rfl hw)
    | with_reducible intro _
    | split

theorem enqueueOp_reach {msk : Nat} (hw : Within 0x10FBB9 msk) (i q ty : Nat) :
    M.All (Upd.In msk) (enqueueOp i q ty) := by
  unfold enqueueOp
  repeat' first
    | (with_reducible first | exact .pure _ | exact .getS | refine .bind ?_ fun _ => ?_ | refine .ite ?_ ?_)
    | ((with_reducible refine enqueueSubmit_reach ?_ _ _); exact .trans rfl hw)
    | ((with_reducible refine enqueueData_reach ?_ _ _ _); exact .trans rfl hw)
    | with_reducible intro _
    | split

theorem dequeueOp_reach {msk : Nat} (hw : Within 0x10FBB9 msk) (i q : Nat) :
    M.All (Upd.In msk) (dequeueOp i q) := by
  unfold dequeueOp
  repeat' first
    | fail_if_no_progress beta_reduce
    | (extract_lets +onlyGivenNames jp
       first
       | (refine (fun hj : ∀ x, M.All (Upd.In msk) (jp x) => ?_) (fun x => ?_)
          on_goal 2 => (dsimp -zeta only [jp]; clear jp)
          on_goal 1 => clear_value jp)
       | clear_value jp)
    | (with_reducible first | exact .pure _ | exact .getS | refine .bind ?_ fun _ => ?_ | refine .ite ?_ ?_ | refine .forIn _ _ _ fun _ _ => ?_)
    | ((with_reducible refine ctxRead_reach ?_ _ _ _ _); exact .trans rfl hw)
    | ((with_reducible refine leaveEntry_reach ?_ _ _); exact .trans rfl hw)
    | ((with_reducible refine settleAll_reach ?_ _); exact .trans rfl hw)
    | ((with_reducible refine portAck_reach ?_ _ _ _); exact .trans rfl hw)
    | ((with_reducible refine wrReg_reach ?_ _ _); exact .trans rfl hw)
    | with_reducible apply_assumption -exfalso -symm
    | with_reducible intro _
    | split

theorem readMirror_reach {msk : Nat} (hw : Within 0xABA9 msk) (q n : Nat) (far : Nat × Nat × Nat) :
    M.All (Upd.In msk) (readMirror q n far) := by
  unfold readMirror
  repeat' first
    | (with_reducible first | exact .pure _ | exact .getS | refine .bind ?_ fun _ => ?_ | refine .ite ?_ ?_)
    | ((with_reducible refine readMember_reach ?_ _ _); exact .trans rfl hw)
    | ((with_reducible refine postRead_reach ?_ _ _ _ _ _); exact .trans rfl hw)
    | ((with_reducible refine openQp_reach ?_ _ _); exact .trans rfl hw)
    | with_reducible intro _
    | split

theorem createQueueOp_reach {msk : Nat} (hw : Within 0xABB9 msk) (i : Nat) :
    M.All (Upd.In msk) (createQueueOp i) := by
  unfold createQueueOp
  repeat' first
    | (with_reducible first | exact .pure _ | exact .getS | refine .bind ?_ fun _ => ?_ | refine .ite ?_ ?_ | refine .forIn _ _ _ fun _ _ => ?_)
    | ((with_reducible refine modTally_reach ?_ _); exact .trans rfl hw)
    | ((with_reducible refine translate_reach ?_ _ _ _ _); exact .trans rfl hw)
    | ((with_reducible refine portAck_reach ?_ _ _ _); exact .trans rfl hw)
    | ((with_reducible refine readMirror_reach ?_ _ _ _); exact .trans rfl hw)
    | with_reducible intro _
    | split

theorem dropQueue_reach {msk : Nat} (hw : Within 0x100 msk) (q : Nat) :
    M.All (Upd.In msk) (dropQueue q) := by
  unfold dropQueue
  repeat' first
    | (with_reducible first | exact .pure _ | exact .getS | refine .bind ?_ fun _ => ?_ | refine .ite ?_ ?_)
    | ((with_reducible refine modTally_reach ?_ _); exact .trans rfl hw)
    | with_reducible intro _
    | split

theorem destroyQueueOp_reach {msk : Nat} (hw : Within 0x10FBB9 msk) (i q : Nat) :
    M.All (Upd.In msk) (destroyQueueOp i q) := by
  unfold destroyQueueOp
  repeat' first
    | (with_reducible first | exact .pure _ | exact .getS | refine .bind ?_ fun _ => ?_ | refine .ite ?_ ?_ | refine .forIn _ _ _ fun _ _ => ?_)
    | ((with_reducible refine dropQueue_reach ?_ _); exact .trans rfl hw)
    | ((with_reducible refine raise_reach ?_ _ _ _ _); exact .trans rfl hw)
    | ((with_reducible refine finish_reach ?_ _ _); exact .trans rfl hw)
    | ((with_reducible refine portAck_reach ?_ _ _ _); exact .trans rfl hw)
    | with_reducible intro _
    | split

theorem grantOp_reach {msk : Nat} (hw : Within 0x118 msk) (i q : Nat) :
    M.All (Upd.In msk) (grantOp i q) := by
  unfold grantOp
  repeat' first
    | (with_reducible first | exact .pure _ | exact .getS | refine .bind ?_ fun _ => ?_ | refine .ite ?_ ?_)
    | ((with_reducible refine modQueue_reach ?_ _ _); exact .trans rfl hw)
    | ((with_reducible refine portAck_reach ?_ _ _ _); exact .trans rfl hw)
    | with_reducible intro _
    | split

theorem revokeOp_reach {msk : Nat} (hw : Within 0x118 msk) (i q : Nat) :
    M.All (Upd.In msk) (revokeOp i q) := by
  unfold revokeOp
  repeat' first
    | (with_reducible first | exact .pure _ | exact .getS | refine .bind ?_ fun _ => ?_ | refine .ite ?_ ?_)
    | ((with_reducible refine modQueue_reach ?_ _ _); exact .trans rfl hw)
    | ((with_reducible refine portAck_reach ?_ _ _ _); exact .trans rfl hw)
    | with_reducible intro _
    | split

theorem registerGraphOp_reach {msk : Nat} (hw : Within 0x10FBB9 msk) (i : Nat) :
    M.All (Upd.In msk) (registerGraphOp i) := by
  unfold registerGraphOp
  repeat' first
    | (with_reducible first | exact .pure _ | exact .getS | refine .bind ?_ fun _ => ?_ | refine .ite ?_ ?_)
    | ((with_reducible refine ctxRead_reach ?_ _ _ _ _); exact .trans rfl hw)
    | ((with_reducible refine modTally_reach ?_ _); exact .trans rfl hw)
    | ((with_reducible refine settleAll_reach ?_ _); exact .trans rfl hw)
    | ((with_reducible refine portAck_reach ?_ _ _ _); exact .trans rfl hw)
    | ((with_reducible refine rejected_reach ?_ _ _ _ _); exact .trans rfl hw)
    | with_reducible intro _
    | split

theorem deregisterGraphOp_reach {msk : Nat} (hw : Within 0x118 msk) (i : Nat) :
    M.All (Upd.In msk) (deregisterGraphOp i) := by
  unfold deregisterGraphOp
  repeat' first
    | fail_if_no_progress beta_reduce
    | (extract_lets +onlyGivenNames jp
       first
       | (refine (fun hj : ∀ x, M.All (Upd.In msk) (jp x) => ?_) (fun x => ?_)
          on_goal 2 => (dsimp -zeta only [jp]; clear jp)
          on_goal 1 => clear_value jp)
       | clear_value jp)
    | (with_reducible first | exact .pure _ | exact .getS | refine .bind ?_ fun _ => ?_ | refine .ite ?_ ?_)
    | ((with_reducible refine modTally_reach ?_ _); exact .trans rfl hw)
    | ((with_reducible refine portAck_reach ?_ _ _ _); exact .trans rfl hw)
    | with_reducible apply_assumption -exfalso -symm
    | with_reducible intro _
    | split

theorem readDefined_reach {msk : Nat} (hw : Within 0x20 msk) (off : Nat) (r : RegDef) :
    M.All (Upd.In msk) (readDefined off r) := by
  unfold readDefined
  repeat' first
    | (with_reducible first | exact .pure _ | exact .getS | refine .bind ?_ fun _ => ?_ | refine .ite ?_ ?_)
    | ((with_reducible refine fresh_reach ?_ _); exact .trans rfl hw)
    | with_reducible intro _
    | split

theorem readReg_reach {msk : Nat} (hw : Within 0x120 msk) (off : Nat) :
    M.All (Upd.In msk) (readReg off) := by
  unfold readReg
  repeat' first
    | (with_reducible first | exact .pure _ | exact .getS | refine .bind ?_ fun _ => ?_ | refine .ite ?_ ?_)
    | ((with_reducible refine modTally_reach ?_ _); exact .trans rfl hw)
    | ((with_reducible refine readDefined_reach ?_ _ _); exact .trans rfl hw)
    | with_reducible intro _
    | split

theorem judgedEvents_reach {msk : Nat} (hw : Within 0x181 msk) (off : Nat) (w : Word) (fates : List (Field × FieldFate)) :
    M.All (Upd.In msk) (judgedEvents off w fates) := by
  unfold judgedEvents
  repeat' first
    | (with_reducible first | exact .pure _ | exact .getS | refine .bind ?_ fun _ => ?_ | refine .ite ?_ ?_ | refine .forIn _ _ _ fun _ _ => ?_)
    | ((with_reducible refine clampReg_reach ?_ _ _ _ _ _); exact .trans rfl hw)
    | ((with_reducible refine refuseReg_reach ?_ _ _ _); exact .trans rfl hw)
    | with_reducible intro _
    | split

theorem storeHall_reach {msk : Nat} (hw : Within 0x1008 msk) (off : Nat) (w : Word) :
    M.All (Upd.In msk) (storeHall off w) := by
  unfold storeHall
  repeat' first
    | (with_reducible first | exact .pure _ | exact .getS | refine .bind ?_ fun _ => ?_ | refine .ite ?_ ?_)
    | ((with_reducible refine modBuf_reach ?_ _ _); exact .trans rfl hw)
    | ((with_reducible refine modFlag_reach ?_ _ _); exact .trans rfl hw)
    | ((with_reducible refine wrReg_reach ?_ _ _); exact .trans rfl hw)
    | with_reducible intro _
    | split

theorem storeSafe_reach {msk : Nat} (hw : Within 0x100008 msk) (off : Nat) (w : Word) :
    M.All (Upd.In msk) (storeSafe off w) := by
  unfold storeSafe
  repeat' first
    | (with_reducible first | exact .pure _ | exact .getS | refine .bind ?_ fun _ => ?_ | refine .ite ?_ ?_)
    | ((with_reducible refine modCairn_reach ?_ _ _); exact .trans rfl hw)
    | ((with_reducible refine modBelay_reach ?_ _ _); exact .trans rfl hw)
    | ((with_reducible refine wrReg_reach ?_ _ _); exact .trans rfl hw)
    | with_reducible intro _
    | split

theorem storePower_reach {msk : Nat} (hw : Within 0x10008 msk) (off : Nat) (w : Word) :
    M.All (Upd.In msk) (storePower off w) := by
  unfold storePower
  repeat' first
    | (with_reducible first | exact .pure _ | exact .getS | refine .bind ?_ fun _ => ?_ | refine .ite ?_ ?_)
    | ((with_reducible refine setAvs_reach ?_); exact .trans rfl hw)
    | ((with_reducible refine modPower_reach ?_ _); exact .trans rfl hw)
    | ((with_reducible refine wrReg_reach ?_ _ _); exact .trans rfl hw)
    | with_reducible intro _
    | split

theorem storeWord_reach {msk : Nat} (hw : Within 0x111008 msk) (off : Nat) (w : Word) :
    M.All (Upd.In msk) (storeWord off w) := by
  unfold storeWord
  repeat' first
    | (with_reducible first | exact .pure _ | exact .getS | refine .bind ?_ fun _ => ?_ | refine .ite ?_ ?_)
    | ((with_reducible refine storeSafe_reach ?_ _ _); exact .trans rfl hw)
    | ((with_reducible refine storeHall_reach ?_ _ _); exact .trans rfl hw)
    | ((with_reducible refine wrReg_reach ?_ _ _); exact .trans rfl hw)
    | ((with_reducible refine storePower_reach ?_ _ _); exact .trans rfl hw)
    | with_reducible intro _
    | split

theorem camSwitched_reach {msk : Nat} (hw : Within 0x30FBA9 msk) (c : Nat) (on : Bool) :
    M.All (Upd.In msk) (camSwitched c on) := by
  unfold camSwitched
  repeat' first
    | (with_reducible first | exact .pure _ | exact .getS | refine .bind ?_ fun _ => ?_ | refine .ite ?_ ?_)
    | ((with_reducible refine modCam_reach ?_ _ _); exact .trans rfl hw)
    | ((with_reducible refine wrFld_reach ?_ _ _ _); exact .trans rfl hw)
    | ((with_reducible refine closeFrame_reach ?_ _ _ _ _ _); exact .trans rfl hw)
    | with_reducible intro _
    | split

theorem enabling_reach {msk : Nat} (hw : Within 0x111008 msk) (off : Nat) (old new : Word) (act : M Unit) (done : State → Bool) (hact : M.All (Upd.In msk) (act)) :
    M.All (Upd.In msk) (enabling off old new act done) := by
  unfold enabling
  repeat' first
    | (with_reducible first | exact .pure _ | exact .getS | refine .bind ?_ fun _ => ?_ | refine .ite ?_ ?_)
    | ((with_reducible refine storeWord_reach ?_ _ _); exact .trans rfl hw)
    | with_reducible apply_assumption -exfalso -symm
    | with_reducible assumption
    | with_reducible intro _
    | split

theorem pipelineOff_reach {msk : Nat} (hw : Within 0x4008 msk) (p : Nat) :
    M.All (Upd.In msk) (pipelineOff p) := by
  unfold pipelineOff
  repeat' first
    | (with_reducible first | exact .pure _ | exact .getS | refine .bind ?_ fun _ => ?_ | refine .ite ?_ ?_)
    | ((with_reducible refine wrFld_reach ?_ _ _ _); exact .trans rfl hw)
    | ((with_reducible refine drivePins_reach ?_); exact .trans rfl hw)
    | with_reducible intro _
    | split

theorem cairnOff_reach {msk : Nat} (hw : Within 0x100008 msk) (c : Nat) :
    M.All (Upd.In msk) (cairnOff c) := by
  unfold cairnOff
  repeat' first
    | (with_reducible first | exact .pure _ | exact .getS | refine .bind ?_ fun _ => ?_ | refine .ite ?_ ?_ | refine .forIn _ _ _ fun _ _ => ?_)
    | ((with_reducible refine modPipe_reach ?_ _ _); exact .trans rfl hw)
    | ((with_reducible refine settlePipe_reach ?_ _); exact .trans rfl hw)
    | with_reducible intro _
    | split

theorem settleWrite_reach {msk : Nat} (hw : Within 0x31FBA9 msk) (off : Nat) (old new : Word) :
    M.All (Upd.In msk) (settleWrite off old new) := by
  unfold settleWrite
  repeat' first
    | fail_if_no_progress beta_reduce
    | (extract_lets +onlyGivenNames jp
       first
       | (refine (fun hj : ∀ x, M.All (Upd.In msk) (jp x) => ?_) (fun x => ?_)
          on_goal 2 => (dsimp -zeta only [jp]; clear jp)
          on_goal 1 => clear_value jp)
       | clear_value jp)
    | (with_reducible first | exact .pure _ | exact .getS | refine .bind ?_ fun _ => ?_ | refine .ite ?_ ?_)
    | ((with_reducible refine linkDown_reach ?_ _ _); exact .trans rfl hw)
    | ((with_reducible refine pipelineEnable_reach ?_ _); exact .trans rfl hw)
    | ((with_reducible refine pipelineOff_reach ?_ _); exact .trans rfl hw)
    | ((with_reducible refine ethLinkDown_reach ?_ _); exact .trans rfl hw)
    | ((with_reducible refine applyStaging_reach ?_); exact .trans rfl hw)
    | ((with_reducible refine enabling_reach ?_ _ _ _ _ _ ?_); on_goal 1 => exact .trans rfl hw)
    | ((with_reducible refine cairnEnable_reach ?_ _); exact .trans rfl hw)
    | ((with_reducible refine storeWord_reach ?_ _ _); exact .trans rfl hw)
    | ((with_reducible refine setAvs_reach ?_); exact .trans rfl hw)
    | ((with_reducible refine belayEnable_reach ?_ _); exact .trans rfl hw)
    | ((with_reducible refine drivePins_reach ?_); exact .trans rfl hw)
    | ((with_reducible refine camSwitched_reach ?_ _ _); exact .trans rfl hw)
    | ((with_reducible refine linkLost_reach ?_ _ _); exact .trans rfl hw)
    | ((with_reducible refine wrFld_reach ?_ _ _ _); exact .trans rfl hw)
    | ((with_reducible refine cairnOff_reach ?_ _); exact .trans rfl hw)
    | with_reducible apply_assumption -exfalso -symm
    | with_reducible intro _
    | split

theorem rcvCommand_reach {msk : Nat} (hw : Within 0x30FFA9 msk) (w : Word) :
    M.All (Upd.In msk) (rcvCommand w) := by
  unfold rcvCommand
  repeat' first
    | (with_reducible first | exact .pure _ | exact .getS | refine .bind ?_ fun _ => ?_ | refine .ite ?_ ?_)
    | ((with_reducible refine refuseReg_reach ?_ _ _ _); exact .trans rfl hw)
    | ((with_reducible refine chipReset_reach ?_ _); exact .trans rfl hw)
    | ((with_reducible refine trigger_reach ?_ _ _ _ _ _); exact .trans rfl hw)
    | ((with_reducible refine requestPowerCycle_reach ?_ _ _ _ _ _); exact .trans rfl hw)
    | with_reducible intro _
    | split

theorem portCommand_reach {msk : Nat} (hw : Within 0x10FBB9 msk) (i : Nat) (w : Word) :
    M.All (Upd.In msk) (portCommand i w) := by
  unfold portCommand
  repeat' first
    | (with_reducible first | exact .pure _ | exact .getS | refine .bind ?_ fun _ => ?_ | refine .ite ?_ ?_)
    | ((with_reducible refine createQueueOp_reach ?_ _); exact .trans rfl hw)
    | ((with_reducible refine destroyQueueOp_reach ?_ _ _); exact .trans rfl hw)
    | ((with_reducible refine deregisterGraphOp_reach ?_ _); exact .trans rfl hw)
    | ((with_reducible refine revokeOp_reach ?_ _ _); exact .trans rfl hw)
    | ((with_reducible refine grantOp_reach ?_ _ _); exact .trans rfl hw)
    | ((with_reducible refine portOp_reach ?_ _ _ _ ?_); on_goal 1 => exact .trans rfl hw)
    | ((with_reducible refine dequeueOp_reach ?_ _ _); exact .trans rfl hw)
    | ((with_reducible refine registerGraphOp_reach ?_ _); exact .trans rfl hw)
    | ((with_reducible refine enqueueOp_reach ?_ _ _ _); exact .trans rfl hw)
    | with_reducible intro _
    | split

theorem dmaCommand_reach {msk : Nat} (hw : Within 0x10FFA9 msk) (n : Nat) (w : Word) :
    M.All (Upd.In msk) (dmaCommand n w) := by
  unfold dmaCommand
  repeat' first
    | (with_reducible first | exact .pure _ | exact .getS | refine .bind ?_ fun _ => ?_ | refine .ite ?_ ?_)
    | ((with_reducible refine dmaDisarm_reach ?_ _); exact .trans rfl hw)
    | ((with_reducible refine dmaStop_reach ?_ _); exact .trans rfl hw)
    | ((with_reducible refine dmaStart_reach ?_ _); exact .trans rfl hw)
    | ((with_reducible refine dmaArm_reach ?_ _); exact .trans rfl hw)
    | ((with_reducible refine dmaAbort_reach ?_ _); exact .trans rfl hw)
    | with_reducible intro _
    | split

theorem ispControl_reach {msk : Nat} (hw : Within 0x200008 msk) (w : Word) :
    M.All (Upd.In msk) (ispControl w) := by
  unfold ispControl
  repeat' first
    | (with_reducible first | exact .pure _ | exact .getS | refine .bind ?_ fun _ => ?_ | refine .ite ?_ ?_)
    | ((with_reducible refine .update ?_); exact .of hw rfl)
    | ((with_reducible refine wrReg_reach ?_ _ _); exact .trans rfl hw)
    | with_reducible intro _
    | split

theorem sealWrite_reach {msk : Nat} (hw : Within 0x1181 msk) (w : Word) :
    M.All (Upd.In msk) (sealWrite w) := by
  unfold sealWrite
  repeat' first
    | (with_reducible first | exact .pure _ | exact .getS | refine .bind ?_ fun _ => ?_ | refine .ite ?_ ?_)
    | ((with_reducible refine modBuf_reach ?_ _ _); exact .trans rfl hw)
    | ((with_reducible refine sealEnable_reach ?_ _ _); exact .trans rfl hw)
    | with_reducible intro _
    | split

theorem readRegister_reach {msk : Nat} (hw : Within 0x9B1 msk) (by_ : Requester) (wide : Bool) (offset : Nat) :
    M.All (Upd.In msk) (readRegister by_ wide offset) := by
  unfold readRegister
  repeat' first
    | (with_reducible first | exact .pure _ | exact .getS | refine .bind ?_ fun _ => ?_ | refine .ite ?_ ?_)
    | ((with_reducible refine answer_reach ?_ _ _); exact .trans rfl hw)
    | ((with_reducible refine reachReg_reach ?_ _ _); exact .trans rfl hw)
    | ((with_reducible refine decodeError_reach ?_ _ _ _); exact .trans rfl hw)
    | ((with_reducible refine readReg_reach ?_ _); exact .trans rfl hw)
    | with_reducible intro _
    | split

theorem upsetWord_reach {msk : Nat} (hw : Within 0x80 msk) (pa upset : Nat) :
    M.All (Upd.In msk) (upsetWord pa upset) := by
  unfold upsetWord
  repeat' first
    | (with_reducible first | exact .pure _ | exact .getS | refine .bind ?_ fun _ => ?_ | refine .ite ?_ ?_)
    | ((with_reducible refine .update ?_); exact .of hw rfl)
    | with_reducible intro _
    | split

theorem slotInstanceCreate_reach {msk : Nat} (hw : Within 0x10FBA9 msk) (g : Nat) :
    M.All (Upd.In msk) (slotInstanceCreate g) := by
  unfold slotInstanceCreate
  repeat' first
    | (with_reducible first | exact .pure _ | exact .getS | refine .bind ?_ fun _ => ?_ | refine .ite ?_ ?_)
    | ((with_reducible refine cadenceEvent_reach ?_ _ _ _ _); exact .trans rfl hw)
    | ((with_reducible refine modTally_reach ?_ _); exact .trans rfl hw)
    | ((with_reducible refine countInstance_reach ?_ _); exact .trans rfl hw)
    | with_reducible intro _
    | split

theorem tick_reach {msk : Nat} (hw : Within 0x40 msk) :
    M.All (Upd.In msk) (tick) := by
  unfold tick
  repeat' first
    | (with_reducible first | exact .pure _ | exact .getS | refine .bind ?_ fun _ => ?_ | refine .ite ?_ ?_)
    | ((with_reducible refine .update ?_); exact .of hw rfl)
    | with_reducible intro _
    | split

theorem startService_reach {msk : Nat} (hw : Within 0x189 msk) (by_ : Requester) :
    M.All (Upd.In msk) (startService by_) := by
  unfold startService
  repeat' first
    | (with_reducible first | exact .pure _ | exact .getS | refine .bind ?_ fun _ => ?_ | refine .ite ?_ ?_)
    | ((with_reducible refine wrFld_reach ?_ _ _ _); exact .trans rfl hw)
    | ((with_reducible refine refuseReg_reach ?_ _ _ _); exact .trans rfl hw)
    | with_reducible intro _
    | split

theorem timeStep_reach {msk : Nat} (hw : Within 0x1C1 msk) (by_ : Requester) (offset : Word) :
    M.All (Upd.In msk) (timeStep by_ offset) := by
  unfold timeStep
  repeat' first
    | (with_reducible first | exact .pure _ | exact .getS | refine .bind ?_ fun _ => ?_ | refine .ite ?_ ?_)
    | ((with_reducible refine .update ?_); exact .of hw rfl)
    | ((with_reducible refine refuseReg_reach ?_ _ _ _); exact .trans rfl hw)
    | with_reducible intro _
    | split

theorem ppsInEdge_reach {msk : Nat} (hw : Within 0x48 msk) :
    M.All (Upd.In msk) (ppsInEdge) := by
  unfold ppsInEdge
  repeat' first
    | (with_reducible first | exact .pure _ | exact .getS | refine .bind ?_ fun _ => ?_ | refine .ite ?_ ?_)
    | ((with_reducible refine .update ?_); exact .of hw rfl)
    | ((with_reducible refine wrReg_reach ?_ _ _); exact .trans rfl hw)
    | with_reducible intro _
    | split

theorem timeError_reach {msk : Nat} (hw : Within 0x181 msk) (e : Int) :
    M.All (Upd.In msk) (timeError e) := by
  unfold timeError
  repeat' first
    | (with_reducible first | exact .pure _ | exact .getS | refine .bind ?_ fun _ => ?_ | refine .ite ?_ ?_)
    | ((with_reducible refine raise_reach ?_ _ _ _ _); exact .trans rfl hw)
    | with_reducible intro _
    | split

theorem timeLocked_reach {msk : Nat} (hw : Within 0x4001C9 msk) (offset : Int) :
    M.All (Upd.In msk) (timeLocked offset) := by
  unfold timeLocked
  repeat' first
    | (with_reducible first | exact .pure _ | exact .getS | refine .bind ?_ fun _ => ?_ | refine .ite ?_ ?_)
    | ((with_reducible refine .update ?_); exact .of hw rfl)
    | ((with_reducible refine timeError_reach ?_ _); exact .trans rfl hw)
    | ((with_reducible refine timeState_reach ?_ _); exact .trans rfl hw)
    | with_reducible intro _
    | split

theorem holdover_reach {msk : Nat} (hw : Within 0x4001C9 msk) (e : Int) :
    M.All (Upd.In msk) (holdover e) := by
  unfold holdover
  repeat' first
    | (with_reducible first | exact .pure _ | exact .getS | refine .bind ?_ fun _ => ?_ | refine .ite ?_ ?_)
    | ((with_reducible refine .update ?_); exact .of hw rfl)
    | ((with_reducible refine timeError_reach ?_ _); exact .trans rfl hw)
    | ((with_reducible refine timeState_reach ?_ _); exact .trans rfl hw)
    | with_reducible intro _
    | split

end Sys2Proof.Machine
end

