-- ==== Sys2Proof/Laws/Commands.lean ====
section
/-! SUPPORT. Which components of the state each command reaches. -/

set_option linter.unusedTactic false
set_option linter.unreachableTactic false
set_option linter.unusedVariables false
set_option linter.style.multiGoal false

namespace Sys2Proof.Machine

open Sys2Proof

theorem always_run {m : M Unit} {s t : State} (h : always m s = .next t) : t = m.run s := by
  cases h
  rfl

theorem opCommand_cases {e op : Nat} {m : Nat → M Unit} {s t : State} (h : opCommand e op m s = .next t) :
    ∃ k, s.opTask e op = some k ∧ t = (m k).run s := by
  obtain ⟨hc, ht⟩ := whenEnabled_cases h
  obtain ⟨k, hk⟩ := Option.isSome_iff_exists.mp hc
  refine ⟨k, hk, ?_⟩
  rw [ht]
  change M.run (match s.opTask e op with
    | some t => m t
    | none => pure ()) s = _
  rw [hk]

theorem execRegisterWrite_reach {s t : State} (sender : Requester) (wide : Bool) (offset : Nat) (value : BitVec 64)
    (h : execRegisterWrite sender wide offset value s = .next t) : Reaches 0xFFFFFF s t := by
  unfold execRegisterWrite at h
  rw [always_run h]
  exact .full _ _

theorem execMemoryRequest_reach {s t : State} (sender : Requester) (handle : Option Nat) (isWrite : Bool) (addr : Nat) (len : Nat) (data : List (BitVec 8)) (upset : Nat)
    (h : execMemoryRequest sender handle isWrite addr len data upset s = .next t) : Reaches 0xFFFFFF s t := by
  unfold execMemoryRequest at h
  rw [(whenEnabled_cases h).2]
  exact .full _ _

theorem execPatrolScrub_reach {s t : State} (channel : Nat) (weak : List Nat) (bad : List Nat)
    (h : execPatrolScrub channel weak bad s = .next t) : Reaches 0x389 s t := by
  unfold execPatrolScrub at h
  rw [(whenEnabled_cases h).2]
  refine M.All.run_steps ?_ _
  repeat' first
    | (with_reducible first | exact .pure _ | exact .getS | refine .bind ?_ fun _ => ?_ | refine .ite ?_ ?_)
    | ((with_reducible refine patrolScrub_reach ?_ _ _ _); exact rfl)
    | with_reducible intro _
    | split

theorem execDriftTracking_reach {s t : State} (channel : Nat) (rank : Nat)
    (h : execDriftTracking channel rank s = .next t) : Reaches 0x80 s t := by
  unfold execDriftTracking at h
  rw [(whenEnabled_cases h).2]
  refine M.All.run_steps ?_ _
  repeat' first
    | (with_reducible first | exact .pure _ | exact .getS | refine .bind ?_ fun _ => ?_ | refine .ite ?_ ?_)
    | ((with_reducible refine setMark_reach ?_ _); exact rfl)
    | with_reducible intro _
    | split

theorem execRefresh_reach {s t : State} (channel : Nat) (rank : Nat) (hot : Bool)
    (h : execRefresh channel rank hot s = .next t) : Reaches 0x80 s t := by
  unfold execRefresh at h
  rw [(whenEnabled_cases h).2]
  refine M.All.run_steps ?_ _
  repeat' first
    | (with_reducible first | exact .pure _ | exact .getS | refine .bind ?_ fun _ => ?_ | refine .ite ?_ ?_)
    | ((with_reducible refine setMark_reach ?_ _); exact rfl)
    | with_reducible intro _
    | split

theorem execTraining_reach {s t : State} (part : Nat)
    (h : execTraining part s = .next t) : Reaches 0x88 s t := by
  unfold execTraining at h
  rw [(whenEnabled_cases h).2]
  refine M.All.run_steps ?_ _
  repeat' first
    | (with_reducible first | exact .pure _ | exact .getS | refine .bind ?_ fun _ => ?_ | refine .ite ?_ ?_)
    | ((with_reducible refine training_reach ?_ _); exact rfl)
    | with_reducible intro _
    | split

theorem execMmuInval_reach {s t : State} (sender : Requester) (handle : Nat) (all : Bool)
    (h : execMmuInval sender handle all s = .next t) : Reaches 0x189 s t := by
  unfold execMmuInval at h
  rw [always_run h]
  refine M.All.run_steps ?_ _
  repeat' first
    | (with_reducible first | exact .pure _ | exact .getS | refine .bind ?_ fun _ => ?_ | refine .ite ?_ ?_)
    | ((with_reducible refine mmuInval_reach ?_ _ _ _); exact rfl)
    | with_reducible intro _
    | split

theorem execMmuInvalDone_reach {s t : State}
    (h : execMmuInvalDone s = .next t) : Reaches 0x88 s t := by
  unfold execMmuInvalDone at h
  rw [(whenEnabled_cases h).2]
  refine M.All.run_steps ?_ _
  repeat' first
    | (with_reducible first | exact .pure _ | exact .getS | refine .bind ?_ fun _ => ?_ | refine .ite ?_ ?_)
    | ((with_reducible refine mmuInvalDone_reach ?_); exact rfl)
    | with_reducible intro _
    | split

theorem execCreateContext_reach {s t : State} (id : Nat) (physical : Bool) (root : Nat) (ceiling : Nat) (safety : Bool) (quota : Nat) (eventQueue : Nat)
    (h : execCreateContext id physical root ceiling safety quota eventQueue s = .next t) : Reaches 0x110 s t := by
  unfold execCreateContext at h
  rw [always_run h]
  refine M.All.run_steps ?_ _
  repeat' first
    | (with_reducible first | exact .pure _ | exact .getS | refine .bind ?_ fun _ => ?_ | refine .ite ?_ ?_)
    | ((with_reducible refine createContext_reach ?_ _ _ _ _ _ _ _); exact rfl)
    | with_reducible intro _
    | split

theorem execTeardownContext_reach {s t : State} (handle : Nat) (reportAt : Nat)
    (h : execTeardownContext handle reportAt s = .next t) : Reaches 0x30FFB9 s t := by
  unfold execTeardownContext at h
  rw [always_run h]
  refine M.All.run_steps ?_ _
  repeat' first
    | (with_reducible first | exact .pure _ | exact .getS | refine .bind ?_ fun _ => ?_ | refine .ite ?_ ?_)
    | ((with_reducible refine teardownContext_reach ?_ _ _); exact rfl)
    | with_reducible intro _
    | split

theorem execTeardownComplete_reach {s t : State} (handle : Nat)
    (h : execTeardownComplete handle s = .next t) : Reaches 0xB89 s t := by
  unfold execTeardownComplete at h
  rw [(whenEnabled_cases h).2]
  refine M.All.run_steps ?_ _
  repeat' first
    | (with_reducible first | exact .pure _ | exact .getS | refine .bind ?_ fun _ => ?_ | refine .ite ?_ ?_)
    | ((with_reducible refine teardownComplete_reach ?_ _); exact rfl)
    | with_reducible intro _
    | split

theorem execFabDrainDeclared_reach {s t : State} (handle : Nat)
    (h : execFabDrainDeclared handle s = .next t) : Reaches 0x8000 s t := by
  unfold execFabDrainDeclared at h
  rw [(whenEnabled_cases h).2]
  refine M.All.run_steps ?_ _
  repeat' first
    | (with_reducible first | exact .pure _ | exact .getS | refine .bind ?_ fun _ => ?_ | refine .ite ?_ ?_)
    | ((with_reducible refine .update ?_); exact rfl)
    | with_reducible intro _
    | split

theorem execLateResponseDiscard_reach {s t : State} (handle : Nat)
    (h : execLateResponseDiscard handle s = .next t) : Reaches 0x8 s t := by
  unfold execLateResponseDiscard at h
  rw [(whenEnabled_cases h).2]
  refine M.All.run_steps ?_ _
  repeat' first
    | (with_reducible first | exact .pure _ | exact .getS | refine .bind ?_ fun _ => ?_ | refine .ite ?_ ?_)
    | ((with_reducible refine countLate_reach ?_); exact rfl)
    | with_reducible intro _
    | split

theorem execRegisterBuffer_reach {s t : State} (handle : Nat) (base : Nat) (length : Nat)
    (h : execRegisterBuffer handle base length s = .next t) : Reaches 0x110 s t := by
  unfold execRegisterBuffer at h
  rw [always_run h]
  refine M.All.run_steps ?_ _
  repeat' first
    | (with_reducible first | exact .pure _ | exact .getS | refine .bind ?_ fun _ => ?_ | refine .ite ?_ ?_)
    | ((with_reducible refine registerBuffer_reach ?_ _ _ _); exact rfl)
    | with_reducible intro _
    | split

theorem execDeregisterBuffer_reach {s t : State} (handle : Nat) (base : Nat)
    (h : execDeregisterBuffer handle base s = .next t) : Reaches 0x110 s t := by
  unfold execDeregisterBuffer at h
  rw [always_run h]
  refine M.All.run_steps ?_ _
  repeat' first
    | (with_reducible first | exact .pure _ | exact .getS | refine .bind ?_ fun _ => ?_ | refine .ite ?_ ?_)
    | ((with_reducible refine deregisterBuffer_reach ?_ _ _); exact rfl)
    | with_reducible intro _
    | split

theorem execDeregistrationComplete_reach {s t : State} (handle : Nat) (base : Nat)
    (h : execDeregistrationComplete handle base s = .next t) : Reaches 0x100 s t := by
  unfold execDeregistrationComplete at h
  rw [(whenEnabled_cases h).2]
  refine M.All.run_steps ?_ _
  repeat' first
    | (with_reducible first | exact .pure _ | exact .getS | refine .bind ?_ fun _ => ?_ | refine .ite ?_ ?_)
    | ((with_reducible refine deregistrationComplete_reach ?_ _ _); exact rfl)
    | with_reducible intro _
    | split

theorem execPortAckRead_reach {s t : State} (port : Nat)
    (h : execPortAckRead port s = .next t) : Reaches 0x110 s t := by
  unfold execPortAckRead at h
  rw [always_run h]
  refine M.All.run_steps ?_ _
  repeat' first
    | (with_reducible first | exact .pure _ | exact .getS | refine .bind ?_ fun _ => ?_ | refine .ite ?_ ?_)
    | ((with_reducible refine portAckRead_reach ?_ _); exact rfl)
    | with_reducible intro _
    | split

theorem execEnqueue_reach {s t : State} (port : Nat) (target : Nat) (ty : Nat)
    (h : execEnqueue port target ty s = .next t) : Reaches 0x10FBB9 s t := by
  unfold execEnqueue at h
  rw [always_run h]
  refine M.All.run_steps ?_ _
  repeat' first
    | (with_reducible first | exact .pure _ | exact .getS | refine .bind ?_ fun _ => ?_ | refine .ite ?_ ?_)
    | ((with_reducible refine enqueueOp_reach ?_ _ _ _); exact rfl)
    | ((with_reducible refine portOp_reach ?_ _ _ _ ?_); on_goal 1 => exact rfl)
    | with_reducible intro _
    | split

theorem execTaskSubmission_reach {s t : State} (port : Nat) (target : Nat)
    (h : execTaskSubmission port target s = .next t) : Reaches 0x10FBB9 s t := by
  unfold execTaskSubmission at h
  rw [always_run h]
  refine M.All.run_steps ?_ _
  repeat' first
    | (with_reducible first | exact .pure _ | exact .getS | refine .bind ?_ fun _ => ?_ | refine .ite ?_ ?_)
    | ((with_reducible refine enqueueSubmit_reach ?_ _ _); exact rfl)
    | ((with_reducible refine portOp_reach ?_ _ _ _ ?_); on_goal 1 => exact rfl)
    | with_reducible intro _
    | split

theorem execLedgerAcceptance_reach {s t : State} (port : Nat) (target : Nat) (ty : Nat)
    (h : execLedgerAcceptance port target ty s = .next t) : Reaches 0x10FBB9 s t := by
  unfold execLedgerAcceptance at h
  rw [(whenEnabled_cases h).2]
  refine M.All.run_steps ?_ _
  repeat' first
    | (with_reducible first | exact .pure _ | exact .getS | refine .bind ?_ fun _ => ?_ | refine .ite ?_ ?_)
    | ((with_reducible refine enqueueOp_reach ?_ _ _ _); exact rfl)
    | ((with_reducible refine portOp_reach ?_ _ _ _ ?_); on_goal 1 => exact rfl)
    | with_reducible intro _
    | split

theorem execDequeue_reach {s t : State} (port : Nat) (target : Nat)
    (h : execDequeue port target s = .next t) : Reaches 0x10FBB9 s t := by
  unfold execDequeue at h
  rw [always_run h]
  refine M.All.run_steps ?_ _
  repeat' first
    | (with_reducible first | exact .pure _ | exact .getS | refine .bind ?_ fun _ => ?_ | refine .ite ?_ ?_)
    | ((with_reducible refine dequeueOp_reach ?_ _ _); exact rfl)
    | ((with_reducible refine portOp_reach ?_ _ _ _ ?_); on_goal 1 => exact rfl)
    | with_reducible intro _
    | split

theorem execCreateQueue_reach {s t : State} (port : Nat)
    (h : execCreateQueue port s = .next t) : Reaches 0xABB9 s t := by
  unfold execCreateQueue at h
  rw [always_run h]
  refine M.All.run_steps ?_ _
  repeat' first
    | (with_reducible first | exact .pure _ | exact .getS | refine .bind ?_ fun _ => ?_ | refine .ite ?_ ?_)
    | ((with_reducible refine createQueueOp_reach ?_ _); exact rfl)
    | ((with_reducible refine portOp_reach ?_ _ _ _ ?_); on_goal 1 => exact rfl)
    | with_reducible intro _
    | split

theorem execDestroyQueue_reach {s t : State} (port : Nat) (target : Nat)
    (h : execDestroyQueue port target s = .next t) : Reaches 0x10FBB9 s t := by
  unfold execDestroyQueue at h
  rw [always_run h]
  refine M.All.run_steps ?_ _
  repeat' first
    | (with_reducible first | exact .pure _ | exact .getS | refine .bind ?_ fun _ => ?_ | refine .ite ?_ ?_)
    | ((with_reducible refine destroyQueueOp_reach ?_ _ _); exact rfl)
    | ((with_reducible refine portOp_reach ?_ _ _ _ ?_); on_goal 1 => exact rfl)
    | with_reducible intro _
    | split

theorem execGrant_reach {s t : State} (port : Nat) (target : Nat)
    (h : execGrant port target s = .next t) : Reaches 0x199 s t := by
  unfold execGrant at h
  rw [always_run h]
  refine M.All.run_steps ?_ _
  repeat' first
    | (with_reducible first | exact .pure _ | exact .getS | refine .bind ?_ fun _ => ?_ | refine .ite ?_ ?_)
    | ((with_reducible refine grantOp_reach ?_ _ _); exact rfl)
    | ((with_reducible refine portOp_reach ?_ _ _ _ ?_); on_goal 1 => exact rfl)
    | with_reducible intro _
    | split

theorem execRevoke_reach {s t : State} (port : Nat) (target : Nat)
    (h : execRevoke port target s = .next t) : Reaches 0x199 s t := by
  unfold execRevoke at h
  rw [always_run h]
  refine M.All.run_steps ?_ _
  repeat' first
    | (with_reducible first | exact .pure _ | exact .getS | refine .bind ?_ fun _ => ?_ | refine .ite ?_ ?_)
    | ((with_reducible refine portOp_reach ?_ _ _ _ ?_); on_goal 1 => exact rfl)
    | ((with_reducible refine revokeOp_reach ?_ _ _); exact rfl)
    | with_reducible intro _
    | split

theorem execRegisterGraph_reach {s t : State} (port : Nat)
    (h : execRegisterGraph port s = .next t) : Reaches 0x10FBB9 s t := by
  unfold execRegisterGraph at h
  rw [always_run h]
  refine M.All.run_steps ?_ _
  repeat' first
    | (with_reducible first | exact .pure _ | exact .getS | refine .bind ?_ fun _ => ?_ | refine .ite ?_ ?_)
    | ((with_reducible refine portOp_reach ?_ _ _ _ ?_); on_goal 1 => exact rfl)
    | ((with_reducible refine registerGraphOp_reach ?_ _); exact rfl)
    | with_reducible intro _
    | split

theorem execDeregisterGraph_reach {s t : State} (port : Nat)
    (h : execDeregisterGraph port s = .next t) : Reaches 0x199 s t := by
  unfold execDeregisterGraph at h
  rw [always_run h]
  refine M.All.run_steps ?_ _
  repeat' first
    | (with_reducible first | exact .pure _ | exact .getS | refine .bind ?_ fun _ => ?_ | refine .ite ?_ ?_)
    | ((with_reducible refine deregisterGraphOp_reach ?_ _); exact rfl)
    | ((with_reducible refine portOp_reach ?_ _ _ _ ?_); on_goal 1 => exact rfl)
    | with_reducible intro _
    | split

theorem execGraphDeregistrationDone_reach {s t : State} (graph : Nat)
    (h : execGraphDeregistrationDone graph s = .next t) : Reaches 0x100 s t := by
  unfold execGraphDeregistrationDone at h
  rw [(whenEnabled_cases h).2]
  refine M.All.run_steps ?_ _
  repeat' first
    | (with_reducible first | exact .pure _ | exact .getS | refine .bind ?_ fun _ => ?_ | refine .ite ?_ ?_)
    | ((with_reducible refine modTally_reach ?_ _); exact rfl)
    | with_reducible intro _
    | split

theorem execTokenArrival_reach {s t : State} (handle : Nat) (key : Nat) (failed : Bool)
    (h : execTokenArrival handle key failed s = .next t) : Reaches 0x10FBA9 s t := by
  unfold execTokenArrival at h
  rw [(whenEnabled_cases h).2]
  refine M.All.run_steps ?_ _
  repeat' first
    | (with_reducible first | exact .pure _ | exact .getS | refine .bind ?_ fun _ => ?_ | refine .ite ?_ ?_)
    | ((with_reducible refine tokenArrival_reach ?_ _ _ _); exact rfl)
    | with_reducible intro _
    | split

theorem execDispatch_reach {s t : State} (engine : Nat)
    (h : execDispatch engine s = .next t) : Reaches 0x300 s t := by
  unfold execDispatch at h
  rw [(whenEnabled_cases h).2]
  refine M.All.run_steps ?_ _
  repeat' first
    | (with_reducible first | exact .pure _ | exact .getS | refine .bind ?_ fun _ => ?_ | refine .ite ?_ ?_)
    | ((with_reducible refine dispatch_reach ?_ _); exact rfl)
    | with_reducible intro _
    | split

theorem execDescriptorFetch_reach {s t : State} (engine : Nat)
    (h : execDescriptorFetch engine s = .next t) : Reaches 0x10FBA9 s t := by
  unfold execDescriptorFetch at h
  rw [(whenEnabled_cases h).2]
  refine M.All.run_steps ?_ _
  repeat' first
    | (with_reducible first | exact .pure _ | exact .getS | refine .bind ?_ fun _ => ?_ | refine .ite ?_ ?_)
    | ((with_reducible refine descriptorFetch_reach ?_ _); exact rfl)
    | with_reducible intro _
    | split

theorem execTaskStart_reach {s t : State} (engine : Nat)
    (h : execTaskStart engine s = .next t) : Reaches 0x300 s t := by
  unfold execTaskStart at h
  rw [(whenEnabled_cases h).2]
  refine M.All.run_steps ?_ _
  repeat' first
    | (with_reducible first | exact .pure _ | exact .getS | refine .bind ?_ fun _ => ?_ | refine .ite ?_ ?_)
    | ((with_reducible refine taskStart_reach ?_ _); exact rfl)
    | with_reducible intro _
    | split

theorem execBlockStepEnd_reach {s t : State} (engine : Nat) (mismatch : Option Nat)
    (h : execBlockStepEnd engine mismatch s = .next t) : Reaches 0x308 s t := by
  unfold execBlockStepEnd at h
  rw [(whenEnabled_cases h).2]
  refine M.All.run_steps ?_ _
  repeat' first
    | (with_reducible first | exact .pure _ | exact .getS | refine .bind ?_ fun _ => ?_ | refine .ite ?_ ?_)
    | ((with_reducible refine blockStepEnd_reach ?_ _ _); exact rfl)
    | with_reducible intro _
    | split

theorem execAbftRecomputeDone_reach {s t : State} (engine : Nat) (ok : Bool)
    (h : execAbftRecomputeDone engine ok s = .next t) : Reaches 0x30FFA9 s t := by
  unfold execAbftRecomputeDone at h
  rw [(whenEnabled_cases h).2]
  refine M.All.run_steps ?_ _
  repeat' first
    | (with_reducible first | exact .pure _ | exact .getS | refine .bind ?_ fun _ => ?_ | refine .ite ?_ ?_)
    | ((with_reducible refine abftRecomputeDone_reach ?_ _ _); exact rfl)
    | with_reducible intro _
    | split

theorem execPreemptSave_reach {s t : State} (engine : Nat)
    (h : execPreemptSave engine s = .next t) : Reaches 0x329 s t := by
  unfold execPreemptSave at h
  rw [(whenEnabled_cases h).2]
  refine M.All.run_steps ?_ _
  repeat' first
    | (with_reducible first | exact .pure _ | exact .getS | refine .bind ?_ fun _ => ?_ | refine .ite ?_ ?_)
    | ((with_reducible refine preemptSave_reach ?_ _); exact rfl)
    | with_reducible intro _
    | split

theorem execTaskEnd_reach {s t : State} (engine : Nat) (cycles : Nat)
    (h : execTaskEnd engine cycles s = .next t) : Reaches 0x10FBA9 s t := by
  unfold execTaskEnd at h
  rw [(whenEnabled_cases h).2]
  refine M.All.run_steps ?_ _
  repeat' first
    | (with_reducible first | exact .pure _ | exact .getS | refine .bind ?_ fun _ => ?_ | refine .ite ?_ ?_)
    | ((with_reducible refine taskEnd_reach ?_ _ _); exact rfl)
    | with_reducible intro _
    | split

theorem execCommit_reach {s t : State} (task : Nat)
    (h : execCommit task s = .next t) : Reaches 0x10FBA9 s t := by
  unfold execCommit at h
  rw [(whenEnabled_cases h).2]
  refine M.All.run_steps ?_ _
  repeat' first
    | (with_reducible first | exact .pure _ | exact .getS | refine .bind ?_ fun _ => ?_ | refine .ite ?_ ?_)
    | ((with_reducible refine commit_reach ?_ _); exact rfl)
    | with_reducible intro _
    | split

theorem execHeldEffectRelease_reach {s t : State} (queue : Nat) (seq : Nat)
    (h : execHeldEffectRelease queue seq s = .next t) : Reaches 0x10FBA9 s t := by
  unfold execHeldEffectRelease at h
  rw [(whenEnabled_cases h).2]
  refine M.All.run_steps ?_ _
  repeat' first
    | (with_reducible first | exact .pure _ | exact .getS | refine .bind ?_ fun _ => ?_ | refine .ite ?_ ?_)
    | ((with_reducible refine heldEffectRelease_reach ?_ _ _); exact rfl)
    | with_reducible intro _
    | split

theorem execQueueAppend_reach {s t : State} (task : Nat)
    (h : execQueueAppend task s = .next t) : Reaches 0x10FBA9 s t := by
  unfold execQueueAppend at h
  rw [(whenEnabled_cases h).2]
  refine M.All.run_steps ?_ _
  repeat' first
    | (with_reducible first | exact .pure _ | exact .getS | refine .bind ?_ fun _ => ?_ | refine .ite ?_ ?_)
    | ((with_reducible refine queueAppend_reach ?_ _); exact rfl)
    | with_reducible intro _
    | split

theorem execBudgetExpiry_reach {s t : State} (engine : Nat)
    (h : execBudgetExpiry engine s = .next t) : Reaches 0x30FFA9 s t := by
  unfold execBudgetExpiry at h
  rw [(whenEnabled_cases h).2]
  refine M.All.run_steps ?_ _
  repeat' first
    | (with_reducible first | exact .pure _ | exact .getS | refine .bind ?_ fun _ => ?_ | refine .ite ?_ ?_)
    | ((with_reducible refine budgetExpiry_reach ?_ _); exact rfl)
    | with_reducible intro _
    | split

theorem execMidstreamFault_reach {s t : State} (task : Nat) (reason : Nat)
    (h : execMidstreamFault task reason s = .next t) : Reaches 0x10FBA9 s t := by
  unfold execMidstreamFault at h
  rw [(whenEnabled_cases h).2]
  refine M.All.run_steps ?_ _
  repeat' first
    | (with_reducible first | exact .pure _ | exact .getS | refine .bind ?_ fun _ => ?_ | refine .ite ?_ ?_)
    | ((with_reducible refine faultTask_reach ?_ _ _ _ _); exact rfl)
    | with_reducible intro _
    | split

theorem execFaultResume_reach {s t : State} (sender : Requester) (hold : Nat) (handle : Nat)
    (h : execFaultResume sender hold handle s = .next t) : Reaches 0x10FBA9 s t := by
  unfold execFaultResume at h
  rw [always_run h]
  refine M.All.run_steps ?_ _
  repeat' first
    | (with_reducible first | exact .pure _ | exact .getS | refine .bind ?_ fun _ => ?_ | refine .ite ?_ ?_)
    | ((with_reducible refine faultResume_reach ?_ _ _ _ _); exact rfl)
    | with_reducible intro _
    | split

theorem execFaultResumeAbandon_reach {s t : State} (sender : Requester) (hold : Nat) (handle : Nat)
    (h : execFaultResumeAbandon sender hold handle s = .next t) : Reaches 0x10FBA9 s t := by
  unfold execFaultResumeAbandon at h
  rw [always_run h]
  refine M.All.run_steps ?_ _
  repeat' first
    | (with_reducible first | exact .pure _ | exact .getS | refine .bind ?_ fun _ => ?_ | refine .ite ?_ ?_)
    | ((with_reducible refine faultResume_reach ?_ _ _ _ _); exact rfl)
    | with_reducible intro _
    | split

theorem execHoldLimitExpiry_reach {s t : State} (hold : Nat)
    (h : execHoldLimitExpiry hold s = .next t) : Reaches 0x10FBA9 s t := by
  unfold execHoldLimitExpiry at h
  rw [(whenEnabled_cases h).2]
  refine M.All.run_steps ?_ _
  repeat' first
    | (with_reducible first | exact .pure _ | exact .getS | refine .bind ?_ fun _ => ?_ | refine .ite ?_ ?_)
    | ((with_reducible refine abandonHold_reach ?_ _ _); exact rfl)
    | with_reducible intro _
    | split

theorem execProgressWatchdog_reach {s t : State} (cycle : List Nat)
    (h : execProgressWatchdog cycle s = .next t) : Reaches 0x10FBA9 s t := by
  unfold execProgressWatchdog at h
  rw [(whenEnabled_cases h).2]
  refine M.All.run_steps ?_ _
  repeat' first
    | (with_reducible first | exact .pure _ | exact .getS | refine .bind ?_ fun _ => ?_ | refine .ite ?_ ?_)
    | ((with_reducible refine progressWatchdog_reach ?_ _); exact rfl)
    | with_reducible intro _
    | split

theorem execBandFilled_reach {s t : State} (task : Nat) (record : Nat)
    (h : execBandFilled task record s = .next t) : Reaches 0x10FBA9 s t := by
  unfold execBandFilled at h
  rw [(whenEnabled_cases h).2]
  refine M.All.run_steps ?_ _
  repeat' first
    | (with_reducible first | exact .pure _ | exact .getS | refine .bind ?_ fun _ => ?_ | refine .ite ?_ ?_)
    | ((with_reducible refine bandFilled_reach ?_ _ _); exact rfl)
    | with_reducible intro _
    | split

theorem execBandReleased_reach {s t : State} (task : Nat) (record : Nat)
    (h : execBandReleased task record s = .next t) : Reaches 0x10FBA9 s t := by
  unfold execBandReleased at h
  rw [(whenEnabled_cases h).2]
  refine M.All.run_steps ?_ _
  repeat' first
    | (with_reducible first | exact .pure _ | exact .getS | refine .bind ?_ fun _ => ?_ | refine .ite ?_ ?_)
    | ((with_reducible refine bandReleased_reach ?_ _ _); exact rfl)
    | with_reducible intro _
    | split

theorem execDelayFire_reach {s t : State} (index : Nat)
    (h : execDelayFire index s = .next t) : Reaches 0x10FBA9 s t := by
  unfold execDelayFire at h
  rw [(whenEnabled_cases h).2]
  refine M.All.run_steps ?_ _
  repeat' first
    | (with_reducible first | exact .pure _ | exact .getS | refine .bind ?_ fun _ => ?_ | refine .ite ?_ ?_)
    | ((with_reducible refine delayFire_reach ?_ _); exact rfl)
    | with_reducible intro _
    | split

theorem execSlotInstanceCreate_reach {s t : State} (graph : Nat)
    (h : execSlotInstanceCreate graph s = .next t) : Reaches 0x10FBA9 s t := by
  unfold execSlotInstanceCreate at h
  rw [(whenEnabled_cases h).2]
  refine M.All.run_steps ?_ _
  repeat' first
    | (with_reducible first | exact .pure _ | exact .getS | refine .bind ?_ fun _ => ?_ | refine .ite ?_ ?_)
    | ((with_reducible refine slotInstanceCreate_reach ?_ _); exact rfl)
    | with_reducible intro _
    | split

theorem execNop_reach {s t : State} (task : Nat)
    (h : execNop task s = .next t) : Reaches 0x10FBA9 s t := by
  unfold execNop at h
  rw [(whenEnabled_cases h).2]
  refine M.All.run_steps ?_ _
  repeat' first
    | (with_reducible first | exact .pure _ | exact .getS | refine .bind ?_ fun _ => ?_ | refine .ite ?_ ?_)
    | ((with_reducible refine finish_reach ?_ _ _); exact rfl)
    | with_reducible intro _
    | split

theorem execDelay_reach {s t : State} (task : Nat)
    (h : execDelay task s = .next t) : Reaches 0x10FBA9 s t := by
  unfold execDelay at h
  rw [(whenEnabled_cases h).2]
  refine M.All.run_steps ?_ _
  repeat' first
    | (with_reducible first | exact .pure _ | exact .getS | refine .bind ?_ fun _ => ?_ | refine .ite ?_ ?_)
    | ((with_reducible refine delayTask_reach ?_ _); exact rfl)
    | with_reducible intro _
    | split

theorem execInstantiate_reach {s t : State} (task : Nat)
    (h : execInstantiate task s = .next t) : Reaches 0x10FBA9 s t := by
  unfold execInstantiate at h
  rw [(whenEnabled_cases h).2]
  refine M.All.run_steps ?_ _
  repeat' first
    | (with_reducible first | exact .pure _ | exact .getS | refine .bind ?_ fun _ => ?_ | refine .ite ?_ ?_)
    | ((with_reducible refine instantiateTask_reach ?_ _); exact rfl)
    | with_reducible intro _
    | split

theorem execPost_reach {s t : State} (task : Nat)
    (h : execPost task s = .next t) : Reaches 0x10FBA9 s t := by
  unfold execPost at h
  rw [(whenEnabled_cases h).2]
  refine M.All.run_steps ?_ _
  repeat' first
    | (with_reducible first | exact .pure _ | exact .getS | refine .bind ?_ fun _ => ?_ | refine .ite ?_ ?_)
    | ((with_reducible refine postTask_reach ?_ _); exact rfl)
    | with_reducible intro _
    | split

theorem execCopy_reach {s t : State} (engine : Nat)
    (h : execCopy engine s = .next t) : Reaches 0x10FBA9 s t := by
  obtain ⟨k, -, rfl⟩ := opCommand_cases h
  refine M.All.run_steps ?_ _
  repeat' first
    | (with_reducible first | exact .pure _ | exact .getS | refine .bind ?_ fun _ => ?_ | refine .ite ?_ ?_)
    | ((with_reducible refine opCommand_reach ?_ _ _ _ _ ?_); on_goal 1 => exact rfl)
    | ((with_reducible refine runOp_reach ?_ _ _ _); exact rfl)
    | with_reducible intro _
    | split

theorem execFill_reach {s t : State} (engine : Nat)
    (h : execFill engine s = .next t) : Reaches 0x10FBA9 s t := by
  obtain ⟨k, -, rfl⟩ := opCommand_cases h
  refine M.All.run_steps ?_ _
  repeat' first
    | (with_reducible first | exact .pure _ | exact .getS | refine .bind ?_ fun _ => ?_ | refine .ite ?_ ?_)
    | ((with_reducible refine opCommand_reach ?_ _ _ _ _ ?_); on_goal 1 => exact rfl)
    | ((with_reducible refine runOp_reach ?_ _ _ _); exact rfl)
    | with_reducible intro _
    | split

theorem execGather_reach {s t : State} (engine : Nat)
    (h : execGather engine s = .next t) : Reaches 0x10FBA9 s t := by
  obtain ⟨k, -, rfl⟩ := opCommand_cases h
  refine M.All.run_steps ?_ _
  repeat' first
    | (with_reducible first | exact .pure _ | exact .getS | refine .bind ?_ fun _ => ?_ | refine .ite ?_ ?_)
    | ((with_reducible refine opCommand_reach ?_ _ _ _ _ ?_); on_goal 1 => exact rfl)
    | ((with_reducible refine runOp_reach ?_ _ _ _); exact rfl)
    | with_reducible intro _
    | split

theorem execScatter_reach {s t : State} (engine : Nat)
    (h : execScatter engine s = .next t) : Reaches 0x10FBA9 s t := by
  obtain ⟨k, -, rfl⟩ := opCommand_cases h
  refine M.All.run_steps ?_ _
  repeat' first
    | (with_reducible first | exact .pure _ | exact .getS | refine .bind ?_ fun _ => ?_ | refine .ite ?_ ?_)
    | ((with_reducible refine opCommand_reach ?_ _ _ _ _ ?_); on_goal 1 => exact rfl)
    | ((with_reducible refine runOp_reach ?_ _ _ _); exact rfl)
    | with_reducible intro _
    | split

theorem execMatmul_reach {s t : State} (engine : Nat)
    (h : execMatmul engine s = .next t) : Reaches 0x10FBA9 s t := by
  obtain ⟨k, -, rfl⟩ := opCommand_cases h
  refine M.All.run_steps ?_ _
  repeat' first
    | (with_reducible first | exact .pure _ | exact .getS | refine .bind ?_ fun _ => ?_ | refine .ite ?_ ?_)
    | ((with_reducible refine matmulOp_reach ?_ _); exact rfl)
    | ((with_reducible refine opCommand_reach ?_ _ _ _ _ ?_); on_goal 1 => exact rfl)
    | with_reducible intro _
    | split

theorem execConv2d_reach {s t : State} (engine : Nat)
    (h : execConv2d engine s = .next t) : Reaches 0x10FBA9 s t := by
  obtain ⟨k, -, rfl⟩ := opCommand_cases h
  refine M.All.run_steps ?_ _
  repeat' first
    | (with_reducible first | exact .pure _ | exact .getS | refine .bind ?_ fun _ => ?_ | refine .ite ?_ ?_)
    | ((with_reducible refine dotOp_reach ?_ _ _ _); exact rfl)
    | ((with_reducible refine opCommand_reach ?_ _ _ _ _ ?_); on_goal 1 => exact rfl)
    | with_reducible intro _
    | split

theorem execDwconv2d_reach {s t : State} (engine : Nat)
    (h : execDwconv2d engine s = .next t) : Reaches 0x10FBA9 s t := by
  obtain ⟨k, -, rfl⟩ := opCommand_cases h
  refine M.All.run_steps ?_ _
  repeat' first
    | (with_reducible first | exact .pure _ | exact .getS | refine .bind ?_ fun _ => ?_ | refine .ite ?_ ?_)
    | ((with_reducible refine dotOp_reach ?_ _ _ _); exact rfl)
    | ((with_reducible refine opCommand_reach ?_ _ _ _ _ ?_); on_goal 1 => exact rfl)
    | with_reducible intro _
    | split

theorem execTconv2d_reach {s t : State} (engine : Nat)
    (h : execTconv2d engine s = .next t) : Reaches 0x10FBA9 s t := by
  obtain ⟨k, -, rfl⟩ := opCommand_cases h
  refine M.All.run_steps ?_ _
  repeat' first
    | (with_reducible first | exact .pure _ | exact .getS | refine .bind ?_ fun _ => ?_ | refine .ite ?_ ?_)
    | ((with_reducible refine dotOp_reach ?_ _ _ _); exact rfl)
    | ((with_reducible refine opCommand_reach ?_ _ _ _ _ ?_); on_goal 1 => exact rfl)
    | with_reducible intro _
    | split

theorem execEltwise_reach {s t : State} (engine : Nat)
    (h : execEltwise engine s = .next t) : Reaches 0x10FBA9 s t := by
  obtain ⟨k, -, rfl⟩ := opCommand_cases h
  refine M.All.run_steps ?_ _
  repeat' first
    | (with_reducible first | exact .pure _ | exact .getS | refine .bind ?_ fun _ => ?_ | refine .ite ?_ ?_)
    | ((with_reducible refine opCommand_reach ?_ _ _ _ _ ?_); on_goal 1 => exact rfl)
    | ((with_reducible refine runOp_reach ?_ _ _ _); exact rfl)
    | with_reducible intro _
    | split

theorem execUnary_reach {s t : State} (engine : Nat)
    (h : execUnary engine s = .next t) : Reaches 0x10FBA9 s t := by
  obtain ⟨k, -, rfl⟩ := opCommand_cases h
  refine M.All.run_steps ?_ _
  repeat' first
    | (with_reducible first | exact .pure _ | exact .getS | refine .bind ?_ fun _ => ?_ | refine .ite ?_ ?_)
    | ((with_reducible refine opCommand_reach ?_ _ _ _ _ ?_); on_goal 1 => exact rfl)
    | ((with_reducible refine runOp_reach ?_ _ _ _); exact rfl)
    | with_reducible intro _
    | split

theorem execQuantize_reach {s t : State} (engine : Nat)
    (h : execQuantize engine s = .next t) : Reaches 0x10FBA9 s t := by
  obtain ⟨k, -, rfl⟩ := opCommand_cases h
  refine M.All.run_steps ?_ _
  repeat' first
    | (with_reducible first | exact .pure _ | exact .getS | refine .bind ?_ fun _ => ?_ | refine .ite ?_ ?_)
    | ((with_reducible refine opCommand_reach ?_ _ _ _ _ ?_); on_goal 1 => exact rfl)
    | ((with_reducible refine runOp_reach ?_ _ _ _); exact rfl)
    | with_reducible intro _
    | split

theorem execDequantize_reach {s t : State} (engine : Nat)
    (h : execDequantize engine s = .next t) : Reaches 0x10FBA9 s t := by
  obtain ⟨k, -, rfl⟩ := opCommand_cases h
  refine M.All.run_steps ?_ _
  repeat' first
    | (with_reducible first | exact .pure _ | exact .getS | refine .bind ?_ fun _ => ?_ | refine .ite ?_ ?_)
    | ((with_reducible refine opCommand_reach ?_ _ _ _ _ ?_); on_goal 1 => exact rfl)
    | ((with_reducible refine runOp_reach ?_ _ _ _); exact rfl)
    | with_reducible intro _
    | split

theorem execCmatmul_reach {s t : State} (engine : Nat)
    (h : execCmatmul engine s = .next t) : Reaches 0x10FBA9 s t := by
  obtain ⟨k, -, rfl⟩ := opCommand_cases h
  refine M.All.run_steps ?_ _
  repeat' first
    | (with_reducible first | exact .pure _ | exact .getS | refine .bind ?_ fun _ => ?_ | refine .ite ?_ ?_)
    | ((with_reducible refine matmulOp_reach ?_ _); exact rfl)
    | ((with_reducible refine opCommand_reach ?_ _ _ _ _ ?_); on_goal 1 => exact rfl)
    | with_reducible intro _
    | split

theorem execReduce_reach {s t : State} (engine : Nat)
    (h : execReduce engine s = .next t) : Reaches 0x10FBA9 s t := by
  obtain ⟨k, -, rfl⟩ := opCommand_cases h
  refine M.All.run_steps ?_ _
  repeat' first
    | (with_reducible first | exact .pure _ | exact .getS | refine .bind ?_ fun _ => ?_ | refine .ite ?_ ?_)
    | ((with_reducible refine opCommand_reach ?_ _ _ _ _ ?_); on_goal 1 => exact rfl)
    | ((with_reducible refine runOp_reach ?_ _ _ _); exact rfl)
    | with_reducible intro _
    | split

theorem execSoftmax_reach {s t : State} (engine : Nat)
    (h : execSoftmax engine s = .next t) : Reaches 0x10FBA9 s t := by
  obtain ⟨k, -, rfl⟩ := opCommand_cases h
  refine M.All.run_steps ?_ _
  repeat' first
    | (with_reducible first | exact .pure _ | exact .getS | refine .bind ?_ fun _ => ?_ | refine .ite ?_ ?_)
    | ((with_reducible refine opCommand_reach ?_ _ _ _ _ ?_); on_goal 1 => exact rfl)
    | ((with_reducible refine runOp_reach ?_ _ _ _); exact rfl)
    | with_reducible intro _
    | split

theorem execLayernorm_reach {s t : State} (engine : Nat)
    (h : execLayernorm engine s = .next t) : Reaches 0x10FBA9 s t := by
  obtain ⟨k, -, rfl⟩ := opCommand_cases h
  refine M.All.run_steps ?_ _
  repeat' first
    | (with_reducible first | exact .pure _ | exact .getS | refine .bind ?_ fun _ => ?_ | refine .ite ?_ ?_)
    | ((with_reducible refine opCommand_reach ?_ _ _ _ _ ?_); on_goal 1 => exact rfl)
    | ((with_reducible refine runOp_reach ?_ _ _ _); exact rfl)
    | with_reducible intro _
    | split

theorem execRmsnorm_reach {s t : State} (engine : Nat)
    (h : execRmsnorm engine s = .next t) : Reaches 0x10FBA9 s t := by
  obtain ⟨k, -, rfl⟩ := opCommand_cases h
  refine M.All.run_steps ?_ _
  repeat' first
    | (with_reducible first | exact .pure _ | exact .getS | refine .bind ?_ fun _ => ?_ | refine .ite ?_ ?_)
    | ((with_reducible refine opCommand_reach ?_ _ _ _ _ ?_); on_goal 1 => exact rfl)
    | ((with_reducible refine runOp_reach ?_ _ _ _); exact rfl)
    | with_reducible intro _
    | split

theorem execArgmax_reach {s t : State} (engine : Nat)
    (h : execArgmax engine s = .next t) : Reaches 0x10FBA9 s t := by
  obtain ⟨k, -, rfl⟩ := opCommand_cases h
  refine M.All.run_steps ?_ _
  repeat' first
    | (with_reducible first | exact .pure _ | exact .getS | refine .bind ?_ fun _ => ?_ | refine .ite ?_ ?_)
    | ((with_reducible refine opCommand_reach ?_ _ _ _ _ ?_); on_goal 1 => exact rfl)
    | ((with_reducible refine runOp_reach ?_ _ _ _); exact rfl)
    | with_reducible intro _
    | split

theorem execTopk_reach {s t : State} (engine : Nat)
    (h : execTopk engine s = .next t) : Reaches 0x10FBA9 s t := by
  obtain ⟨k, -, rfl⟩ := opCommand_cases h
  refine M.All.run_steps ?_ _
  repeat' first
    | (with_reducible first | exact .pure _ | exact .getS | refine .bind ?_ fun _ => ?_ | refine .ite ?_ ?_)
    | ((with_reducible refine opCommand_reach ?_ _ _ _ _ ?_); on_goal 1 => exact rfl)
    | ((with_reducible refine runOp_reach ?_ _ _ _); exact rfl)
    | with_reducible intro _
    | split

theorem execAttention_reach {s t : State} (engine : Nat)
    (h : execAttention engine s = .next t) : Reaches 0x10FBA9 s t := by
  obtain ⟨k, -, rfl⟩ := opCommand_cases h
  refine M.All.run_steps ?_ _
  repeat' first
    | (with_reducible first | exact .pure _ | exact .getS | refine .bind ?_ fun _ => ?_ | refine .ite ?_ ?_)
    | ((with_reducible refine opCommand_reach ?_ _ _ _ _ ?_); on_goal 1 => exact rfl)
    | ((with_reducible refine runOp_reach ?_ _ _ _); exact rfl)
    | with_reducible intro _
    | split

theorem execRouteGather_reach {s t : State} (engine : Nat)
    (h : execRouteGather engine s = .next t) : Reaches 0x10FBA9 s t := by
  obtain ⟨k, -, rfl⟩ := opCommand_cases h
  refine M.All.run_steps ?_ _
  repeat' first
    | (with_reducible first | exact .pure _ | exact .getS | refine .bind ?_ fun _ => ?_ | refine .ite ?_ ?_)
    | ((with_reducible refine opCommand_reach ?_ _ _ _ _ ?_); on_goal 1 => exact rfl)
    | ((with_reducible refine runOp_reach ?_ _ _ _); exact rfl)
    | with_reducible intro _
    | split

theorem execRouteCombine_reach {s t : State} (engine : Nat)
    (h : execRouteCombine engine s = .next t) : Reaches 0x10FBA9 s t := by
  obtain ⟨k, -, rfl⟩ := opCommand_cases h
  refine M.All.run_steps ?_ _
  repeat' first
    | (with_reducible first | exact .pure _ | exact .getS | refine .bind ?_ fun _ => ?_ | refine .ite ?_ ?_)
    | ((with_reducible refine opCommand_reach ?_ _ _ _ _ ?_); on_goal 1 => exact rfl)
    | ((with_reducible refine runOp_reach ?_ _ _ _); exact rfl)
    | with_reducible intro _
    | split

theorem execIspFrame_reach {s t : State} (engine : Nat)
    (h : execIspFrame engine s = .next t) : Reaches 0x10FBA9 s t := by
  unfold execIspFrame at h
  rw [(whenEnabled_cases h).2]
  refine M.All.run_steps ?_ _
  repeat' first
    | (with_reducible first | exact .pure _ | exact .getS | refine .bind ?_ fun _ => ?_ | refine .ite ?_ ?_)
    | ((with_reducible refine ispFrameOp_reach ?_ _); exact rfl)
    | with_reducible intro _
    | split

theorem execPyrBuild_reach {s t : State} (engine : Nat)
    (h : execPyrBuild engine s = .next t) : Reaches 0x10FBA9 s t := by
  obtain ⟨k, -, rfl⟩ := opCommand_cases h
  refine M.All.run_steps ?_ _
  repeat' first
    | (with_reducible first | exact .pure _ | exact .getS | refine .bind ?_ fun _ => ?_ | refine .ite ?_ ?_)
    | ((with_reducible refine opCommand_reach ?_ _ _ _ _ ?_); on_goal 1 => exact rfl)
    | ((with_reducible refine pyrBuildOp_reach ?_ _); exact rfl)
    | with_reducible intro _
    | split

theorem execPyrLaplace_reach {s t : State} (engine : Nat)
    (h : execPyrLaplace engine s = .next t) : Reaches 0x10FBA9 s t := by
  obtain ⟨k, -, rfl⟩ := opCommand_cases h
  refine M.All.run_steps ?_ _
  repeat' first
    | (with_reducible first | exact .pure _ | exact .getS | refine .bind ?_ fun _ => ?_ | refine .ite ?_ ?_)
    | ((with_reducible refine opCommand_reach ?_ _ _ _ _ ?_); on_goal 1 => exact rfl)
    | ((with_reducible refine pyrLaplaceOp_reach ?_ _); exact rfl)
    | with_reducible intro _
    | split

theorem execWarpMesh_reach {s t : State} (engine : Nat)
    (h : execWarpMesh engine s = .next t) : Reaches 0x10FBA9 s t := by
  obtain ⟨k, -, rfl⟩ := opCommand_cases h
  refine M.All.run_steps ?_ _
  repeat' first
    | (with_reducible first | exact .pure _ | exact .getS | refine .bind ?_ fun _ => ?_ | refine .ite ?_ ?_)
    | ((with_reducible refine opCommand_reach ?_ _ _ _ _ ?_); on_goal 1 => exact rfl)
    | ((with_reducible refine warpMeshOp_reach ?_ _); exact rfl)
    | with_reducible intro _
    | split

theorem execWarpHomog_reach {s t : State} (engine : Nat)
    (h : execWarpHomog engine s = .next t) : Reaches 0x10FBA9 s t := by
  obtain ⟨k, -, rfl⟩ := opCommand_cases h
  refine M.All.run_steps ?_ _
  repeat' first
    | (with_reducible first | exact .pure _ | exact .getS | refine .bind ?_ fun _ => ?_ | refine .ite ?_ ?_)
    | ((with_reducible refine opCommand_reach ?_ _ _ _ _ ?_); on_goal 1 => exact rfl)
    | ((with_reducible refine warpHomogOp_reach ?_ _); exact rfl)
    | with_reducible intro _
    | split

theorem execFlow_reach {s t : State} (engine : Nat)
    (h : execFlow engine s = .next t) : Reaches 0x10FBA9 s t := by
  obtain ⟨k, -, rfl⟩ := opCommand_cases h
  refine M.All.run_steps ?_ _
  repeat' first
    | (with_reducible first | exact .pure _ | exact .getS | refine .bind ?_ fun _ => ?_ | refine .ite ?_ ?_)
    | ((with_reducible refine opCommand_reach ?_ _ _ _ _ ?_); on_goal 1 => exact rfl)
    | ((with_reducible refine searchOp_reach ?_ _ _ _ _ _ _); exact rfl)
    | with_reducible intro _
    | split

theorem execStereo_reach {s t : State} (engine : Nat)
    (h : execStereo engine s = .next t) : Reaches 0x10FBA9 s t := by
  obtain ⟨k, -, rfl⟩ := opCommand_cases h
  refine M.All.run_steps ?_ _
  repeat' first
    | (with_reducible first | exact .pure _ | exact .getS | refine .bind ?_ fun _ => ?_ | refine .ite ?_ ?_)
    | ((with_reducible refine opCommand_reach ?_ _ _ _ _ ?_); on_goal 1 => exact rfl)
    | ((with_reducible refine searchOp_reach ?_ _ _ _ _ _ _); exact rfl)
    | with_reducible intro _
    | split

theorem execFeatDetect_reach {s t : State} (engine : Nat)
    (h : execFeatDetect engine s = .next t) : Reaches 0x10FBA9 s t := by
  obtain ⟨k, -, rfl⟩ := opCommand_cases h
  refine M.All.run_steps ?_ _
  repeat' first
    | (with_reducible first | exact .pure _ | exact .getS | refine .bind ?_ fun _ => ?_ | refine .ite ?_ ?_)
    | ((with_reducible refine featDetectOp_reach ?_ _); exact rfl)
    | ((with_reducible refine opCommand_reach ?_ _ _ _ _ ?_); on_goal 1 => exact rfl)
    | with_reducible intro _
    | split

theorem execFeatMatch_reach {s t : State} (engine : Nat)
    (h : execFeatMatch engine s = .next t) : Reaches 0x10FBA9 s t := by
  obtain ⟨k, -, rfl⟩ := opCommand_cases h
  refine M.All.run_steps ?_ _
  repeat' first
    | (with_reducible first | exact .pure _ | exact .getS | refine .bind ?_ fun _ => ?_ | refine .ite ?_ ?_)
    | ((with_reducible refine featMatchOp_reach ?_ _); exact rfl)
    | ((with_reducible refine opCommand_reach ?_ _ _ _ _ ?_); on_goal 1 => exact rfl)
    | with_reducible intro _
    | split

theorem execDfeDdc_reach {s t : State} (engine : Nat)
    (h : execDfeDdc engine s = .next t) : Reaches 0x50FBA9 s t := by
  unfold execDfeDdc at h
  rw [(whenEnabled_cases h).2]
  refine M.All.run_steps ?_ _
  repeat' first
    | (with_reducible first | exact .pure _ | exact .getS | refine .bind ?_ fun _ => ?_ | refine .ite ?_ ?_)
    | ((with_reducible refine dfeDdc_reach ?_ _); exact rfl)
    | with_reducible intro _
    | split

theorem execDfeDuc_reach {s t : State} (engine : Nat)
    (h : execDfeDuc engine s = .next t) : Reaches 0x50FBA9 s t := by
  unfold execDfeDuc at h
  rw [(whenEnabled_cases h).2]
  refine M.All.run_steps ?_ _
  repeat' first
    | (with_reducible first | exact .pure _ | exact .getS | refine .bind ?_ fun _ => ?_ | refine .ite ?_ ?_)
    | ((with_reducible refine dfeDuc_reach ?_ _); exact rfl)
    | with_reducible intro _
    | split

theorem execFft_reach {s t : State} (engine : Nat)
    (h : execFft engine s = .next t) : Reaches 0x10FBA9 s t := by
  obtain ⟨k, -, rfl⟩ := opCommand_cases h
  refine M.All.run_steps ?_ _
  repeat' first
    | (with_reducible first | exact .pure _ | exact .getS | refine .bind ?_ fun _ => ?_ | refine .ite ?_ ?_)
    | ((with_reducible refine fftOp_reach ?_ _); exact rfl)
    | ((with_reducible refine opCommand_reach ?_ _ _ _ _ ?_); on_goal 1 => exact rfl)
    | with_reducible intro _
    | split

theorem execIfft_reach {s t : State} (engine : Nat)
    (h : execIfft engine s = .next t) : Reaches 0x10FBA9 s t := by
  obtain ⟨k, -, rfl⟩ := opCommand_cases h
  refine M.All.run_steps ?_ _
  repeat' first
    | (with_reducible first | exact .pure _ | exact .getS | refine .bind ?_ fun _ => ?_ | refine .ite ?_ ?_)
    | ((with_reducible refine ifftOp_reach ?_ _); exact rfl)
    | ((with_reducible refine opCommand_reach ?_ _ _ _ _ ?_); on_goal 1 => exact rfl)
    | with_reducible intro _
    | split

theorem execPrachDetect_reach {s t : State} (engine : Nat)
    (h : execPrachDetect engine s = .next t) : Reaches 0x10FBA9 s t := by
  obtain ⟨k, -, rfl⟩ := opCommand_cases h
  refine M.All.run_steps ?_ _
  repeat' first
    | (with_reducible first | exact .pure _ | exact .getS | refine .bind ?_ fun _ => ?_ | refine .ite ?_ ?_)
    | ((with_reducible refine opCommand_reach ?_ _ _ _ _ ?_); on_goal 1 => exact rfl)
    | ((with_reducible refine prachDetect_reach ?_ _); exact rfl)
    | with_reducible intro _
    | split

theorem execLdpcDecode_reach {s t : State} (engine : Nat)
    (h : execLdpcDecode engine s = .next t) : Reaches 0x10FBA9 s t := by
  obtain ⟨k, -, rfl⟩ := opCommand_cases h
  refine M.All.run_steps ?_ _
  repeat' first
    | (with_reducible first | exact .pure _ | exact .getS | refine .bind ?_ fun _ => ?_ | refine .ite ?_ ?_)
    | ((with_reducible refine ldpcDecode_reach ?_ _); exact rfl)
    | ((with_reducible refine opCommand_reach ?_ _ _ _ _ ?_); on_goal 1 => exact rfl)
    | with_reducible intro _
    | split

theorem execLdpcEncode_reach {s t : State} (engine : Nat)
    (h : execLdpcEncode engine s = .next t) : Reaches 0x10FBA9 s t := by
  obtain ⟨k, -, rfl⟩ := opCommand_cases h
  refine M.All.run_steps ?_ _
  repeat' first
    | (with_reducible first | exact .pure _ | exact .getS | refine .bind ?_ fun _ => ?_ | refine .ite ?_ ?_)
    | ((with_reducible refine ldpcEncode_reach ?_ _); exact rfl)
    | ((with_reducible refine opCommand_reach ?_ _ _ _ _ ?_); on_goal 1 => exact rfl)
    | with_reducible intro _
    | split

theorem execPolarEncode_reach {s t : State} (engine : Nat)
    (h : execPolarEncode engine s = .next t) : Reaches 0x10FBA9 s t := by
  obtain ⟨k, -, rfl⟩ := opCommand_cases h
  refine M.All.run_steps ?_ _
  repeat' first
    | (with_reducible first | exact .pure _ | exact .getS | refine .bind ?_ fun _ => ?_ | refine .ite ?_ ?_)
    | ((with_reducible refine opCommand_reach ?_ _ _ _ _ ?_); on_goal 1 => exact rfl)
    | ((with_reducible refine polarEncodeOp_reach ?_ _); exact rfl)
    | with_reducible intro _
    | split

theorem execPolarDecode_reach {s t : State} (engine : Nat)
    (h : execPolarDecode engine s = .next t) : Reaches 0x10FBA9 s t := by
  obtain ⟨k, -, rfl⟩ := opCommand_cases h
  refine M.All.run_steps ?_ _
  repeat' first
    | (with_reducible first | exact .pure _ | exact .getS | refine .bind ?_ fun _ => ?_ | refine .ite ?_ ?_)
    | ((with_reducible refine opCommand_reach ?_ _ _ _ _ ?_); on_goal 1 => exact rfl)
    | ((with_reducible refine polarDecodeOp_reach ?_ _); exact rfl)
    | with_reducible intro _
    | split

theorem execFhTx_reach {s t : State} (engine : Nat)
    (h : execFhTx engine s = .next t) : Reaches 0x50FBA9 s t := by
  unfold execFhTx at h
  rw [(whenEnabled_cases h).2]
  refine M.All.run_steps ?_ _
  repeat' first
    | (with_reducible first | exact .pure _ | exact .getS | refine .bind ?_ fun _ => ?_ | refine .ite ?_ ?_)
    | ((with_reducible refine fhTx_reach ?_ _); exact rfl)
    | with_reducible intro _
    | split

theorem execFhRx_reach {s t : State} (engine : Nat)
    (h : execFhRx engine s = .next t) : Reaches 0x50FBA9 s t := by
  unfold execFhRx at h
  rw [(whenEnabled_cases h).2]
  refine M.All.run_steps ?_ _
  repeat' first
    | (with_reducible first | exact .pure _ | exact .getS | refine .bind ?_ fun _ => ?_ | refine .ite ?_ ?_)
    | ((with_reducible refine fhRx_reach ?_ _); exact rfl)
    | with_reducible intro _
    | split

theorem execCrc32c_reach {s t : State} (engine : Nat)
    (h : execCrc32c engine s = .next t) : Reaches 0x10FBA9 s t := by
  obtain ⟨k, -, rfl⟩ := opCommand_cases h
  refine M.All.run_steps ?_ _
  repeat' first
    | (with_reducible first | exact .pure _ | exact .getS | refine .bind ?_ fun _ => ?_ | refine .ite ?_ ?_)
    | ((with_reducible refine opCommand_reach ?_ _ _ _ _ ?_); on_goal 1 => exact rfl)
    | ((with_reducible refine runOp_reach ?_ _ _ _); exact rfl)
    | with_reducible intro _
    | split

theorem execCompare_reach {s t : State} (engine : Nat)
    (h : execCompare engine s = .next t) : Reaches 0x10FBA9 s t := by
  obtain ⟨k, -, rfl⟩ := opCommand_cases h
  refine M.All.run_steps ?_ _
  repeat' first
    | (with_reducible first | exact .pure _ | exact .getS | refine .bind ?_ fun _ => ?_ | refine .ite ?_ ?_)
    | ((with_reducible refine opCommand_reach ?_ _ _ _ _ ?_); on_goal 1 => exact rfl)
    | ((with_reducible refine runOp_reach ?_ _ _ _); exact rfl)
    | with_reducible intro _
    | split

theorem execCairnCheck_reach {s t : State} (engine : Nat)
    (h : execCairnCheck engine s = .next t) : Reaches 0x10FBA9 s t := by
  obtain ⟨k, -, rfl⟩ := opCommand_cases h
  refine M.All.run_steps ?_ _
  repeat' first
    | (with_reducible first | exact .pure _ | exact .getS | refine .bind ?_ fun _ => ?_ | refine .ite ?_ ?_)
    | ((with_reducible refine cairnCheckOp_reach ?_ _); exact rfl)
    | ((with_reducible refine opCommand_reach ?_ _ _ _ _ ?_); on_goal 1 => exact rfl)
    | with_reducible intro _
    | split

theorem execSendShard_reach {s t : State} (engine : Nat)
    (h : execSendShard engine s = .next t) : Reaches 0x10FBA9 s t := by
  unfold execSendShard at h
  rw [(whenEnabled_cases h).2]
  refine M.All.run_steps ?_ _
  repeat' first
    | (with_reducible first | exact .pure _ | exact .getS | refine .bind ?_ fun _ => ?_ | refine .ite ?_ ?_)
    | ((with_reducible refine sendPart_reach ?_ _ _ _); exact rfl)
    | with_reducible intro _
    | split

theorem execRecvShard_reach {s t : State} (engine : Nat)
    (h : execRecvShard engine s = .next t) : Reaches 0x10FBA9 s t := by
  unfold execRecvShard at h
  rw [(whenEnabled_cases h).2]
  refine M.All.run_steps ?_ _
  repeat' first
    | (with_reducible first | exact .pure _ | exact .getS | refine .bind ?_ fun _ => ?_ | refine .ite ?_ ?_)
    | ((with_reducible refine recvShard_reach ?_ _ _); exact rfl)
    | with_reducible intro _
    | split

theorem execAllReduce_reach {s t : State} (engine : Nat)
    (h : execAllReduce engine s = .next t) : Reaches 0x10FBA9 s t := by
  unfold execAllReduce at h
  unfold allCommand at h
  rw [(whenEnabled_cases h).2]
  refine M.All.run_steps ?_ _
  repeat' first
    | (with_reducible first | exact .pure _ | exact .getS | refine .bind ?_ fun _ => ?_ | refine .ite ?_ ?_)
    | ((with_reducible refine allMembers_reach ?_ _ _ _ _); exact rfl)
    | with_reducible intro _
    | split

theorem execAllGather_reach {s t : State} (engine : Nat)
    (h : execAllGather engine s = .next t) : Reaches 0x10FBA9 s t := by
  unfold execAllGather at h
  unfold allCommand at h
  rw [(whenEnabled_cases h).2]
  refine M.All.run_steps ?_ _
  repeat' first
    | (with_reducible first | exact .pure _ | exact .getS | refine .bind ?_ fun _ => ?_ | refine .ite ?_ ?_)
    | ((with_reducible refine allMembers_reach ?_ _ _ _ _); exact rfl)
    | with_reducible intro _
    | split

theorem execPacketReceive_reach {s t : State} (port : Nat) (vc : Nat) (dt : Nat) (payload : List (BitVec 8)) (header : Nat) (crcOk : Bool)
    (h : execPacketReceive port vc dt payload header crcOk s = .next t) : Reaches 0x200BA9 s t := by
  unfold execPacketReceive at h
  rw [(whenEnabled_cases h).2]
  refine M.All.run_steps ?_ _
  repeat' first
    | (with_reducible first | exact .pure _ | exact .getS | refine .bind ?_ fun _ => ?_ | refine .ite ?_ ?_)
    | ((with_reducible refine packetReceive_reach ?_ _ _ _ _ _ _); exact rfl)
    | with_reducible intro _
    | split

theorem execDeskew_reach {s t : State} (port : Nat) (passed : Bool)
    (h : execDeskew port passed s = .next t) : Reaches 0x30FBA9 s t := by
  unfold execDeskew at h
  rw [(whenEnabled_cases h).2]
  refine M.All.run_steps ?_ _
  repeat' first
    | (with_reducible first | exact .pure _ | exact .getS | refine .bind ?_ fun _ => ?_ | refine .ite ?_ ?_)
    | ((with_reducible refine deskew_reach ?_ _ _); exact rfl)
    | with_reducible intro _
    | split

theorem execCsiLinkLoss_reach {s t : State} (port : Nat)
    (h : execCsiLinkLoss port s = .next t) : Reaches 0x30FBA9 s t := by
  unfold execCsiLinkLoss at h
  rw [(whenEnabled_cases h).2]
  refine M.All.run_steps ?_ _
  repeat' first
    | (with_reducible first | exact .pure _ | exact .getS | refine .bind ?_ fun _ => ?_ | refine .ite ?_ ?_)
    | ((with_reducible refine linkDown_reach ?_ _ _); exact rfl)
    | with_reducible intro _
    | split

theorem execFrameStart_reach {s t : State} (cam : Nat) (csiFrame : Nat)
    (h : execFrameStart cam csiFrame s = .next t) : Reaches 0x30FBA9 s t := by
  unfold execFrameStart at h
  rw [(whenEnabled_cases h).2]
  refine M.All.run_steps ?_ _
  repeat' first
    | (with_reducible first | exact .pure _ | exact .getS | refine .bind ?_ fun _ => ?_ | refine .ite ?_ ?_)
    | ((with_reducible refine frameStart_reach ?_ _ _); exact rfl)
    | with_reducible intro _
    | split

theorem execFrameEnd_reach {s t : State} (cam : Nat) (csiFrame : Nat)
    (h : execFrameEnd cam csiFrame s = .next t) : Reaches 0x30FBA9 s t := by
  unfold execFrameEnd at h
  rw [(whenEnabled_cases h).2]
  refine M.All.run_steps ?_ _
  repeat' first
    | (with_reducible first | exact .pure _ | exact .getS | refine .bind ?_ fun _ => ?_ | refine .ite ?_ ?_)
    | ((with_reducible refine frameEnd_reach ?_ _); exact rfl)
    | with_reducible intro _
    | split

theorem execFrameTimeout_reach {s t : State} (cam : Nat)
    (h : execFrameTimeout cam s = .next t) : Reaches 0x30FBA9 s t := by
  unfold execFrameTimeout at h
  rw [(whenEnabled_cases h).2]
  refine M.All.run_steps ?_ _
  repeat' first
    | (with_reducible first | exact .pure _ | exact .getS | refine .bind ?_ fun _ => ?_ | refine .ite ?_ ?_)
    | ((with_reducible refine frameTimeout_reach ?_ _); exact rfl)
    | with_reducible intro _
    | split

theorem execCamArm_reach {s t : State} (sender : Requester) (cam : Nat)
    (h : execCamArm sender cam s = .next t) : Reaches 0x200999 s t := by
  unfold execCamArm at h
  rw [(whenEnabled_cases h).2]
  refine M.All.run_steps ?_ _
  repeat' first
    | (with_reducible first | exact .pure _ | exact .getS | refine .bind ?_ fun _ => ?_ | refine .ite ?_ ?_)
    | ((with_reducible refine camArm_reach ?_ _); exact rfl)
    | ((with_reducible refine camWrite_reach ?_ _ _ _ _ ?_); on_goal 1 => exact rfl)
    | with_reducible intro _
    | split

theorem execCamDisarm_reach {s t : State} (sender : Requester) (cam : Nat)
    (h : execCamDisarm sender cam s = .next t) : Reaches 0x200999 s t := by
  unfold execCamDisarm at h
  rw [(whenEnabled_cases h).2]
  refine M.All.run_steps ?_ _
  repeat' first
    | (with_reducible first | exact .pure _ | exact .getS | refine .bind ?_ fun _ => ?_ | refine .ite ?_ ?_)
    | ((with_reducible refine camDisarm_reach ?_ _); exact rfl)
    | ((with_reducible refine camWrite_reach ?_ _ _ _ _ ?_); on_goal 1 => exact rfl)
    | with_reducible intro _
    | split

theorem execExposureRequest_reach {s t : State} (sender : Requester) (cam : Nat) (block : Nat)
    (h : execExposureRequest sender cam block s = .next t) : Reaches 0x200BB9 s t := by
  unfold execExposureRequest at h
  rw [(whenEnabled_cases h).2]
  refine M.All.run_steps ?_ _
  repeat' first
    | (with_reducible first | exact .pure _ | exact .getS | refine .bind ?_ fun _ => ?_ | refine .ite ?_ ?_)
    | ((with_reducible refine camWrite_reach ?_ _ _ _ _ ?_); on_goal 1 => exact rfl)
    | ((with_reducible refine exposureRequest_reach ?_ _ _); exact rfl)
    | with_reducible intro _
    | split

theorem execBusListStart_reach {s t : State} (sender : Requester) (port : Nat) (addr : Nat)
    (h : execBusListStart sender port addr s = .next t) : Reaches 0x200BB9 s t := by
  unfold execBusListStart at h
  rw [(whenEnabled_cases h).2]
  refine M.All.run_steps ?_ _
  repeat' first
    | (with_reducible first | exact .pure _ | exact .getS | refine .bind ?_ fun _ => ?_ | refine .ite ?_ ?_)
    | ((with_reducible refine busListStart_reach ?_ _ _ _); exact rfl)
    | with_reducible intro _
    | split

theorem execBusTransferComplete_reach {s t : State} (port : Nat) (data : List (BitVec 8))
    (h : execBusTransferComplete port data s = .next t) : Reaches 0x202B89 s t := by
  unfold execBusTransferComplete at h
  rw [(whenEnabled_cases h).2]
  refine M.All.run_steps ?_ _
  repeat' first
    | (with_reducible first | exact .pure _ | exact .getS | refine .bind ?_ fun _ => ?_ | refine .ite ?_ ?_)
    | ((with_reducible refine busTransferComplete_reach ?_ _ _); exact rfl)
    | with_reducible intro _
    | split

theorem execBusTransferFail_reach {s t : State} (port : Nat)
    (h : execBusTransferFail port s = .next t) : Reaches 0x200189 s t := by
  unfold execBusTransferFail at h
  rw [(whenEnabled_cases h).2]
  refine M.All.run_steps ?_ _
  repeat' first
    | (with_reducible first | exact .pure _ | exact .getS | refine .bind ?_ fun _ => ?_ | refine .ite ?_ ?_)
    | ((with_reducible refine busTransferFail_reach ?_ _); exact rfl)
    | with_reducible intro _
    | split

theorem execIspCtlApply_reach {s t : State}
    (h : execIspCtlApply s = .next t) : Reaches 0x200008 s t := by
  unfold execIspCtlApply at h
  rw [(whenEnabled_cases h).2]
  refine M.All.run_steps ?_ _
  repeat' first
    | (with_reducible first | exact .pure _ | exact .getS | refine .bind ?_ fun _ => ?_ | refine .ite ?_ ?_)
    | ((with_reducible refine ispCtlApply_reach ?_); exact rfl)
    | with_reducible intro _
    | split

theorem execHallFlagAdv_reach {s t : State} (sender : Requester) (flag : Nat)
    (h : execHallFlagAdv sender flag s = .next t) : Reaches 0x10FBB9 s t := by
  unfold execHallFlagAdv at h
  rw [(whenEnabled_cases h).2]
  refine M.All.run_steps ?_ _
  repeat' first
    | (with_reducible first | exact .pure _ | exact .getS | refine .bind ?_ fun _ => ?_ | refine .ite ?_ ?_)
    | ((with_reducible refine hallFlagAdv_reach ?_ _); exact rfl)
    | ((with_reducible refine hallWrite_reach ?_ _ _ _ _ ?_); on_goal 1 => exact rfl)
    | with_reducible intro _
    | split

theorem execHallFlagThrWrite_reach {s t : State} (sender : Requester) (flag : Nat) (thr : Nat)
    (h : execHallFlagThrWrite sender flag thr s = .next t) : Reaches 0x10FBB9 s t := by
  unfold execHallFlagThrWrite at h
  rw [(whenEnabled_cases h).2]
  refine M.All.run_steps ?_ _
  repeat' first
    | (with_reducible first | exact .pure _ | exact .getS | refine .bind ?_ fun _ => ?_ | refine .ite ?_ ?_)
    | ((with_reducible refine hallFlagThr_reach ?_ _ _); exact rfl)
    | ((with_reducible refine hallWrite_reach ?_ _ _ _ _ ?_); on_goal 1 => exact rfl)
    | with_reducible intro _
    | split

theorem execHallRecordActivate_reach {s t : State} (sender : Requester) (record : Nat) (base : Nat) (copiesM1 : Nat)
    (h : execHallRecordActivate sender record base copiesM1 s = .next t) : Reaches 0x1991 s t := by
  unfold execHallRecordActivate at h
  rw [(whenEnabled_cases h).2]
  refine M.All.run_steps ?_ _
  repeat' first
    | (with_reducible first | exact .pure _ | exact .getS | refine .bind ?_ fun _ => ?_ | refine .ite ?_ ?_)
    | ((with_reducible refine hallRecordActivate_reach ?_ _ _ _); exact rfl)
    | ((with_reducible refine hallWrite_reach ?_ _ _ _ _ ?_); on_goal 1 => exact rfl)
    | with_reducible intro _
    | split

theorem execDmaStart_reach {s t : State} (sender : Requester) (ch : Nat)
    (h : execDmaStart sender ch s = .next t) : Reaches 0xD99 s t := by
  unfold execDmaStart at h
  rw [(whenEnabled_cases h).2]
  refine M.All.run_steps ?_ _
  repeat' first
    | (with_reducible first | exact .pure _ | exact .getS | refine .bind ?_ fun _ => ?_ | refine .ite ?_ ?_)
    | ((with_reducible refine ctlWrite_reach ?_ _ _ _ _ ?_); on_goal 1 => exact rfl)
    | ((with_reducible refine dmaStart_reach ?_ _); exact rfl)
    | with_reducible intro _
    | split

theorem execDmaArm_reach {s t : State} (sender : Requester) (ch : Nat)
    (h : execDmaArm sender ch s = .next t) : Reaches 0xD99 s t := by
  unfold execDmaArm at h
  rw [(whenEnabled_cases h).2]
  refine M.All.run_steps ?_ _
  repeat' first
    | (with_reducible first | exact .pure _ | exact .getS | refine .bind ?_ fun _ => ?_ | refine .ite ?_ ?_)
    | ((with_reducible refine ctlWrite_reach ?_ _ _ _ _ ?_); on_goal 1 => exact rfl)
    | ((with_reducible refine dmaArm_reach ?_ _); exact rfl)
    | with_reducible intro _
    | split

theorem execDmaDisarm_reach {s t : State} (sender : Requester) (ch : Nat)
    (h : execDmaDisarm sender ch s = .next t) : Reaches 0x999 s t := by
  unfold execDmaDisarm at h
  rw [(whenEnabled_cases h).2]
  refine M.All.run_steps ?_ _
  repeat' first
    | (with_reducible first | exact .pure _ | exact .getS | refine .bind ?_ fun _ => ?_ | refine .ite ?_ ?_)
    | ((with_reducible refine ctlWrite_reach ?_ _ _ _ _ ?_); on_goal 1 => exact rfl)
    | ((with_reducible refine dmaDisarm_reach ?_ _); exact rfl)
    | with_reducible intro _
    | split

theorem execDmaStop_reach {s t : State} (sender : Requester) (ch : Nat)
    (h : execDmaStop sender ch s = .next t) : Reaches 0xD99 s t := by
  unfold execDmaStop at h
  rw [(whenEnabled_cases h).2]
  refine M.All.run_steps ?_ _
  repeat' first
    | (with_reducible first | exact .pure _ | exact .getS | refine .bind ?_ fun _ => ?_ | refine .ite ?_ ?_)
    | ((with_reducible refine ctlWrite_reach ?_ _ _ _ _ ?_); on_goal 1 => exact rfl)
    | ((with_reducible refine dmaStop_reach ?_ _); exact rfl)
    | with_reducible intro _
    | split

theorem execDmaAbort_reach {s t : State} (sender : Requester) (ch : Nat)
    (h : execDmaAbort sender ch s = .next t) : Reaches 0x10FFB9 s t := by
  unfold execDmaAbort at h
  rw [(whenEnabled_cases h).2]
  refine M.All.run_steps ?_ _
  repeat' first
    | (with_reducible first | exact .pure _ | exact .getS | refine .bind ?_ fun _ => ?_ | refine .ite ?_ ?_)
    | ((with_reducible refine ctlWrite_reach ?_ _ _ _ _ ?_); on_goal 1 => exact rfl)
    | ((with_reducible refine dmaAbort_reach ?_ _); exact rfl)
    | with_reducible intro _
    | split

theorem execCrateFetchDone_reach {s t : State} (ch : Nat)
    (h : execCrateFetchDone ch s = .next t) : Reaches 0xFA9 s t := by
  unfold execCrateFetchDone at h
  rw [(whenEnabled_cases h).2]
  refine M.All.run_steps ?_ _
  repeat' first
    | (with_reducible first | exact .pure _ | exact .getS | refine .bind ?_ fun _ => ?_ | refine .ite ?_ ?_)
    | ((with_reducible refine crateFetchDone_reach ?_ _); exact rfl)
    | with_reducible intro _
    | split

theorem execDescriptorComplete_reach {s t : State} (ch : Nat)
    (h : execDescriptorComplete ch s = .next t) : Reaches 0x10FFA9 s t := by
  unfold execDescriptorComplete at h
  rw [(whenEnabled_cases h).2]
  refine M.All.run_steps ?_ _
  repeat' first
    | (with_reducible first | exact .pure _ | exact .getS | refine .bind ?_ fun _ => ?_ | refine .ite ?_ ?_)
    | ((with_reducible refine runDesc_reach ?_ _); exact rfl)
    | with_reducible intro _
    | split

theorem execWritebackAck_reach {s t : State} (ch : Nat)
    (h : execWritebackAck ch s = .next t) : Reaches 0x10FFA9 s t := by
  unfold execWritebackAck at h
  rw [(whenEnabled_cases h).2]
  refine M.All.run_steps ?_ _
  repeat' first
    | (with_reducible first | exact .pure _ | exact .getS | refine .bind ?_ fun _ => ?_ | refine .ite ?_ ?_)
    | ((with_reducible refine writebackAck_reach ?_ _); exact rfl)
    | with_reducible intro _
    | split

theorem execDmaTransferError_reach {s t : State} (ch : Nat)
    (h : execDmaTransferError ch s = .next t) : Reaches 0x10FFA9 s t := by
  unfold execDmaTransferError at h
  rw [(whenEnabled_cases h).2]
  refine M.All.run_steps ?_ _
  repeat' first
    | (with_reducible first | exact .pure _ | exact .getS | refine .bind ?_ fun _ => ?_ | refine .ite ?_ ?_)
    | ((with_reducible refine runDesc_reach ?_ _); exact rfl)
    | with_reducible intro _
    | split

theorem execFetchTimeout_reach {s t : State} (ch : Nat)
    (h : execFetchTimeout ch s = .next t) : Reaches 0x589 s t := by
  unfold execFetchTimeout at h
  rw [(whenEnabled_cases h).2]
  refine M.All.run_steps ?_ _
  repeat' first
    | (with_reducible first | exact .pure _ | exact .getS | refine .bind ?_ fun _ => ?_ | refine .ite ?_ ?_)
    | ((with_reducible refine fetchTimeout_reach ?_ _); exact rfl)
    | with_reducible intro _
    | split

theorem execDescriptorTimeout_reach {s t : State} (ch : Nat)
    (h : execDescriptorTimeout ch s = .next t) : Reaches 0x10FFA9 s t := by
  unfold execDescriptorTimeout at h
  rw [(whenEnabled_cases h).2]
  refine M.All.run_steps ?_ _
  repeat' first
    | (with_reducible first | exact .pure _ | exact .getS | refine .bind ?_ fun _ => ?_ | refine .ite ?_ ?_)
    | ((with_reducible refine descriptorTimeout_reach ?_ _); exact rfl)
    | with_reducible intro _
    | split

theorem execDmaDrainComplete_reach {s t : State} (ch : Nat)
    (h : execDmaDrainComplete ch s = .next t) : Reaches 0x408 s t := by
  unfold execDmaDrainComplete at h
  rw [(whenEnabled_cases h).2]
  refine M.All.run_steps ?_ _
  repeat' first
    | (with_reducible first | exact .pure _ | exact .getS | refine .bind ?_ fun _ => ?_ | refine .ite ?_ ?_)
    | ((with_reducible refine dmaDrainComplete_reach ?_ _); exact rfl)
    | with_reducible intro _
    | split

theorem execStreamShareWrite_reach {s t : State} (sender : Requester) (part : Nat) (value : BitVec 64)
    (h : execStreamShareWrite sender part value s = .next t) : Reaches 0x189 s t := by
  unfold execStreamShareWrite at h
  rw [(whenEnabled_cases h).2]
  refine M.All.run_steps ?_ _
  repeat' first
    | (with_reducible first | exact .pure _ | exact .getS | refine .bind ?_ fun _ => ?_ | refine .ite ?_ ?_)
    | ((with_reducible refine streamShareWrite_reach ?_ _ _ _); exact rfl)
    | with_reducible intro _
    | split

theorem execFenceDrainEnd_reach {s t : State} (domain : Nat)
    (h : execFenceDrainEnd domain s = .next t) : Reaches 0xFDFFEF s t := by
  unfold execFenceDrainEnd at h
  rw [(whenEnabled_cases h).2]
  refine M.All.run_steps ?_ _
  repeat' first
    | (with_reducible first | exact .pure _ | exact .getS | refine .bind ?_ fun _ => ?_ | refine .ite ?_ ?_)
    | ((with_reducible refine drainEnds_reach ?_ _); exact rfl)
    | with_reducible intro _
    | split

theorem execFenceDrainDeclaration_reach {s t : State} (domain : Nat)
    (h : execFenceDrainDeclaration domain s = .next t) : Reaches 0xFDFFEF s t := by
  unfold execFenceDrainDeclaration at h
  rw [(whenEnabled_cases h).2]
  refine M.All.run_steps ?_ _
  repeat' first
    | (with_reducible first | exact .pure _ | exact .getS | refine .bind ?_ fun _ => ?_ | refine .ite ?_ ?_)
    | ((with_reducible refine drainEnds_reach ?_ _); exact rfl)
    | with_reducible intro _
    | split

theorem execRung1Reset_reach {s t : State} (engine : Nat) (handle : Nat)
    (h : execRung1Reset engine handle s = .next t) : Reaches 0x30FFA9 s t := by
  unfold execRung1Reset at h
  rw [(whenEnabled_cases h).2]
  refine M.All.run_steps ?_ _
  repeat' first
    | (with_reducible first | exact .pure _ | exact .getS | refine .bind ?_ fun _ => ?_ | refine .ite ?_ ?_)
    | ((with_reducible refine trigger_reach ?_ _ _ _ _ _); exact rfl)
    | with_reducible intro _
    | split

theorem execRung2Reset_reach {s t : State} (engine : Nat)
    (h : execRung2Reset engine s = .next t) : Reaches 0x30FFA9 s t := by
  unfold execRung2Reset at h
  rw [(whenEnabled_cases h).2]
  refine M.All.run_steps ?_ _
  repeat' first
    | (with_reducible first | exact .pure _ | exact .getS | refine .bind ?_ fun _ => ?_ | refine .ite ?_ ?_)
    | ((with_reducible refine trigger_reach ?_ _ _ _ _ _); exact rfl)
    | with_reducible intro _
    | split

theorem execRung3Reset_reach {s t : State} (part : Nat)
    (h : execRung3Reset part s = .next t) : Reaches 0x30FFA9 s t := by
  unfold execRung3Reset at h
  rw [(whenEnabled_cases h).2]
  refine M.All.run_steps ?_ _
  repeat' first
    | (with_reducible first | exact .pure _ | exact .getS | refine .bind ?_ fun _ => ?_ | refine .ite ?_ ?_)
    | ((with_reducible refine trigger_reach ?_ _ _ _ _ _); exact rfl)
    | with_reducible intro _
    | split

theorem execChipReset_reach {s t : State} (cause : Nat)
    (h : execChipReset cause s = .next t) : Reaches 0x30FFA9 s t := by
  unfold execChipReset at h
  rw [always_run h]
  refine M.All.run_steps ?_ _
  repeat' first
    | (with_reducible first | exact .pure _ | exact .getS | refine .bind ?_ fun _ => ?_ | refine .ite ?_ ?_)
    | ((with_reducible refine chipReset_reach ?_ _); exact rfl)
    | with_reducible intro _
    | split

theorem execPowerCycleRequest_reach {s t : State} (reason : Nat)
    (h : execPowerCycleRequest reason s = .next t) : Reaches 0x4989 s t := by
  unfold execPowerCycleRequest at h
  rw [(whenEnabled_cases h).2]
  refine M.All.run_steps ?_ _
  repeat' first
    | (with_reducible first | exact .pure _ | exact .getS | refine .bind ?_ fun _ => ?_ | refine .ite ?_ ?_)
    | ((with_reducible refine requestPowerCycle_reach ?_ _ _ _ _ _); exact rfl)
    | with_reducible intro _
    | split

theorem execRungLimitExpiry_reach {s t : State} (reset : Nat)
    (h : execRungLimitExpiry reset s = .next t) : Reaches 0x30FFA9 s t := by
  unfold execRungLimitExpiry at h
  rw [(whenEnabled_cases h).2]
  refine M.All.run_steps ?_ _
  repeat' first
    | (with_reducible first | exact .pure _ | exact .getS | refine .bind ?_ fun _ => ?_ | refine .ite ?_ ?_)
    | ((with_reducible refine rungLimitExpiry_reach ?_ _); exact rfl)
    | with_reducible intro _
    | split

theorem execResetComplete_reach {s t : State} (reset : Nat)
    (h : execResetComplete reset s = .next t) : Reaches 0x10FBA9 s t := by
  unfold execResetComplete at h
  rw [(whenEnabled_cases h).2]
  refine M.All.run_steps ?_ _
  repeat' first
    | (with_reducible first | exact .pure _ | exact .getS | refine .bind ?_ fun _ => ?_ | refine .ite ?_ ?_)
    | ((with_reducible refine resetComplete_reach ?_ _); exact rfl)
    | with_reducible intro _
    | split

theorem execReplayChip_reach {s t : State}
    (h : execReplayChip s = .next t) : Reaches 0x10FBA9 s t := by
  unfold execReplayChip at h
  rw [(whenEnabled_cases h).2]
  refine M.All.run_steps ?_ _
  repeat' first
    | (with_reducible first | exact .pure _ | exact .getS | refine .bind ?_ fun _ => ?_ | refine .ite ?_ ?_)
    | ((with_reducible refine replayChip_reach ?_); exact rfl)
    | with_reducible intro _
    | split

theorem execEngineHangWatchdog_reach {s t : State} (engine : Nat)
    (h : execEngineHangWatchdog engine s = .next t) : Reaches 0x30FFA9 s t := by
  unfold execEngineHangWatchdog at h
  rw [(whenEnabled_cases h).2]
  refine M.All.run_steps ?_ _
  repeat' first
    | (with_reducible first | exact .pure _ | exact .getS | refine .bind ?_ fun _ => ?_ | refine .ite ?_ ?_)
    | ((with_reducible refine engineHang_reach ?_ _); exact rfl)
    | with_reducible intro _
    | split

theorem execWdtKick_reach {s t : State} (sender : Requester)
    (h : execWdtKick sender s = .next t) : Reaches 0x981 s t := by
  unfold execWdtKick at h
  rw [always_run h]
  refine M.All.run_steps ?_ _
  repeat' first
    | (with_reducible first | exact .pure _ | exact .getS | refine .bind ?_ fun _ => ?_ | refine .ite ?_ ?_)
    | ((with_reducible refine wdtKick_reach ?_ _); exact rfl)
    | with_reducible intro _
    | split

theorem execBccWatchdogExpiry_reach {s t : State}
    (h : execBccWatchdogExpiry s = .next t) : Reaches 0x34FFA9 s t := by
  unfold execBccWatchdogExpiry at h
  rw [(whenEnabled_cases h).2]
  refine M.All.run_steps ?_ _
  repeat' first
    | (with_reducible first | exact .pure _ | exact .getS | refine .bind ?_ fun _ => ?_ | refine .ite ?_ ?_)
    | ((with_reducible refine bccWatchdogExpiry_reach ?_); exact rfl)
    | with_reducible intro _
    | split

theorem execHeartbeatLoss_reach {s t : State} (block : Nat)
    (h : execHeartbeatLoss block s = .next t) : Reaches 0x30FFA9 s t := by
  unfold execHeartbeatLoss at h
  rw [(whenEnabled_cases h).2]
  refine M.All.run_steps ?_ _
  repeat' first
    | (with_reducible first | exact .pure _ | exact .getS | refine .bind ?_ fun _ => ?_ | refine .ite ?_ ?_)
    | ((with_reducible refine heartbeatLoss_reach ?_ _); exact rfl)
    | with_reducible intro _
    | split

theorem execResetIn_reach {s t : State}
    (h : execResetIn s = .next t) : Reaches 0x30FFA9 s t := by
  unfold execResetIn at h
  rw [(whenEnabled_cases h).2]
  refine M.All.run_steps ?_ _
  repeat' first
    | (with_reducible first | exact .pure _ | exact .getS | refine .bind ?_ fun _ => ?_ | refine .ite ?_ ?_)
    | ((with_reducible refine resetIn_reach ?_); exact rfl)
    | with_reducible intro _
    | split

theorem execResetInRelease_reach {s t : State}
    (h : execResetInRelease s = .next t) : Reaches 0x800 s t := by
  unfold execResetInRelease at h
  rw [(whenEnabled_cases h).2]
  refine M.All.run_steps ?_ _
  repeat' first
    | (with_reducible first | exact .pure _ | exact .getS | refine .bind ?_ fun _ => ?_ | refine .ite ?_ ?_)
    | ((with_reducible refine .update ?_); exact rfl)
    | with_reducible intro _
    | split

theorem execSmbusBlockReadA0_reach {s t : State}
    (h : execSmbusBlockReadA0 s = .next t) : Reaches 0x4010 s t := by
  unfold execSmbusBlockReadA0 at h
  rw [(whenEnabled_cases h).2]
  refine M.All.run_steps ?_ _
  repeat' first
    | (with_reducible first | exact .pure _ | exact .getS | refine .bind ?_ fun _ => ?_ | refine .ite ?_ ?_)
    | ((with_reducible refine smbusRead_reach ?_); exact rfl)
    | with_reducible intro _
    | split

theorem execReturnToService_reach {s t : State} (sender : Requester) (addr : Nat)
    (h : execReturnToService sender addr s = .next t) : Reaches 0x10FBA9 s t := by
  unfold execReturnToService at h
  rw [always_run h]
  refine M.All.run_steps ?_ _
  repeat' first
    | (with_reducible first | exact .pure _ | exact .getS | refine .bind ?_ fun _ => ?_ | refine .ite ?_ ?_)
    | ((with_reducible refine returnToService_reach ?_ _ _); exact rfl)
    | with_reducible intro _
    | split

theorem execStartService_reach {s t : State} (sender : Requester)
    (h : execStartService sender s = .next t) : Reaches 0x189 s t := by
  unfold execStartService at h
  rw [always_run h]
  refine M.All.run_steps ?_ _
  repeat' first
    | (with_reducible first | exact .pure _ | exact .getS | refine .bind ?_ fun _ => ?_ | refine .ite ?_ ?_)
    | ((with_reducible refine startService_reach ?_ _); exact rfl)
    | with_reducible intro _
    | split

theorem execTimeStep_reach {s t : State} (sender : Requester) (offset : BitVec 64)
    (h : execTimeStep sender offset s = .next t) : Reaches 0x1C1 s t := by
  unfold execTimeStep at h
  rw [always_run h]
  refine M.All.run_steps ?_ _
  repeat' first
    | (with_reducible first | exact .pure _ | exact .getS | refine .bind ?_ fun _ => ?_ | refine .ite ?_ ?_)
    | ((with_reducible refine timeStep_reach ?_ _ _); exact rfl)
    | with_reducible intro _
    | split

theorem execPpsInEdge_reach {s t : State}
    (h : execPpsInEdge s = .next t) : Reaches 0x48 s t := by
  unfold execPpsInEdge at h
  rw [always_run h]
  refine M.All.run_steps ?_ _
  repeat' first
    | (with_reducible first | exact .pure _ | exact .getS | refine .bind ?_ fun _ => ?_ | refine .ite ?_ ?_)
    | ((with_reducible refine ppsInEdge_reach ?_); exact rfl)
    | with_reducible intro _
    | split

theorem execPpsOutRise_reach {s t : State}
    (h : execPpsOutRise s = .next t) : Reaches 0x4040 s t := by
  unfold execPpsOutRise at h
  rw [(whenEnabled_cases h).2]
  refine M.All.run_steps ?_ _
  repeat' first
    | (with_reducible first | exact .pure _ | exact .getS | refine .bind ?_ fun _ => ?_ | refine .ite ?_ ?_)
    | ((with_reducible refine .update ?_); exact rfl)
    | with_reducible intro _
    | split

theorem execPpsOutFall_reach {s t : State}
    (h : execPpsOutFall s = .next t) : Reaches 0x4000 s t := by
  unfold execPpsOutFall at h
  rw [(whenEnabled_cases h).2]
  refine M.All.run_steps ?_ _
  repeat' first
    | (with_reducible first | exact .pure _ | exact .getS | refine .bind ?_ fun _ => ?_ | refine .ite ?_ ?_)
    | ((with_reducible refine .update ?_); exact rfl)
    | with_reducible intro _
    | split

theorem execTimeLocked_reach {s t : State} (offset : Int)
    (h : execTimeLocked offset s = .next t) : Reaches 0x4001C9 s t := by
  unfold execTimeLocked at h
  rw [(whenEnabled_cases h).2]
  refine M.All.run_steps ?_ _
  repeat' first
    | (with_reducible first | exact .pure _ | exact .getS | refine .bind ?_ fun _ => ?_ | refine .ite ?_ ?_)
    | ((with_reducible refine timeLocked_reach ?_ _); exact rfl)
    | with_reducible intro _
    | split

theorem execHoldover_reach {s t : State} (error : Int)
    (h : execHoldover error s = .next t) : Reaches 0x4001C9 s t := by
  unfold execHoldover at h
  rw [(whenEnabled_cases h).2]
  refine M.All.run_steps ?_ _
  repeat' first
    | (with_reducible first | exact .pure _ | exact .getS | refine .bind ?_ fun _ => ?_ | refine .ite ?_ ?_)
    | ((with_reducible refine holdover_reach ?_ _); exact rfl)
    | with_reducible intro _
    | split

theorem execGateDecision_reach {s t : State} (pipe : Nat) (inst : Nat)
    (h : execGateDecision pipe inst s = .next t) : Reaches 0x10FBA9 s t := by
  unfold execGateDecision at h
  rw [(whenEnabled_cases h).2]
  refine M.All.run_steps ?_ _
  repeat' first
    | (with_reducible first | exact .pure _ | exact .getS | refine .bind ?_ fun _ => ?_ | refine .ite ?_ ?_)
    | ((with_reducible refine gateDecision_reach ?_ _); exact rfl)
    | with_reducible intro _
    | split

theorem execGateDeadline_reach {s t : State} (pipe : Nat) (inst : Nat)
    (h : execGateDeadline pipe inst s = .next t) : Reaches 0x10FBA9 s t := by
  unfold execGateDeadline at h
  rw [(whenEnabled_cases h).2]
  refine M.All.run_steps ?_ _
  repeat' first
    | (with_reducible first | exact .pure _ | exact .getS | refine .bind ?_ fun _ => ?_ | refine .ite ?_ ?_)
    | ((with_reducible refine gateDeadline_reach ?_ _); exact rfl)
    | with_reducible intro _
    | split

theorem execCheckerCompare_reach {s t : State} (pipe : Nat) (task : Nat) (crc : Nat)
    (h : execCheckerCompare pipe task crc s = .next t) : Reaches 0x104189 s t := by
  unfold execCheckerCompare at h
  rw [(whenEnabled_cases h).2]
  refine M.All.run_steps ?_ _
  repeat' first
    | (with_reducible first | exact .pure _ | exact .getS | refine .bind ?_ fun _ => ?_ | refine .ite ?_ ?_)
    | ((with_reducible refine checkerCompare_reach ?_ _ _ _); exact rfl)
    | with_reducible intro _
    | split

theorem execSafeClear_reach {s t : State} (sender : Requester) (pipe : Nat)
    (h : execSafeClear sender pipe s = .next t) : Reaches 0x104189 s t := by
  unfold execSafeClear at h
  rw [(whenEnabled_cases h).2]
  refine M.All.run_steps ?_ _
  repeat' first
    | (with_reducible first | exact .pure _ | exact .getS | refine .bind ?_ fun _ => ?_ | refine .ite ?_ ?_)
    | ((with_reducible refine safeClear_reach ?_ _); exact rfl)
    | ((with_reducible refine safeWrite_reach ?_ _ _ _ _ ?_); on_goal 1 => exact rfl)
    | with_reducible intro _
    | split

theorem execSafeEnter_reach {s t : State} (sender : Requester) (pipe : Nat)
    (h : execSafeEnter sender pipe s = .next t) : Reaches 0x104189 s t := by
  unfold execSafeEnter at h
  rw [(whenEnabled_cases h).2]
  refine M.All.run_steps ?_ _
  repeat' first
    | (with_reducible first | exact .pure _ | exact .getS | refine .bind ?_ fun _ => ?_ | refine .ite ?_ ?_)
    | ((with_reducible refine safeEnter_reach ?_ _); exact rfl)
    | ((with_reducible refine safeWrite_reach ?_ _ _ _ _ ?_); on_goal 1 => exact rfl)
    | with_reducible intro _
    | split

theorem execPipelineEnable_reach {s t : State} (sender : Requester) (pipe : Nat)
    (h : execPipelineEnable sender pipe s = .next t) : Reaches 0x100189 s t := by
  unfold execPipelineEnable at h
  rw [(whenEnabled_cases h).2]
  refine M.All.run_steps ?_ _
  repeat' first
    | (with_reducible first | exact .pure _ | exact .getS | refine .bind ?_ fun _ => ?_ | refine .ite ?_ ?_)
    | ((with_reducible refine pipelineEnable_reach ?_ _); exact rfl)
    | ((with_reducible refine safeWrite_reach ?_ _ _ _ _ ?_); on_goal 1 => exact rfl)
    | with_reducible intro _
    | split

theorem execSealEnable_reach {s t : State} (sender : Requester) (record : Nat) (base : Nat)
    (h : execSealEnable sender record base s = .next t) : Reaches 0x1181 s t := by
  unfold execSealEnable at h
  rw [(whenEnabled_cases h).2]
  refine M.All.run_steps ?_ _
  repeat' first
    | (with_reducible first | exact .pure _ | exact .getS | refine .bind ?_ fun _ => ?_ | refine .ite ?_ ?_)
    | ((with_reducible refine safeWrite_reach ?_ _ _ _ _ ?_); on_goal 1 => exact rfl)
    | ((with_reducible refine sealEnable_reach ?_ _ _); exact rfl)
    | with_reducible intro _
    | split

theorem execBelayEnable_reach {s t : State} (sender : Requester) (window : Nat)
    (h : execBelayEnable sender window s = .next t) : Reaches 0x100181 s t := by
  unfold execBelayEnable at h
  rw [(whenEnabled_cases h).2]
  refine M.All.run_steps ?_ _
  repeat' first
    | (with_reducible first | exact .pure _ | exact .getS | refine .bind ?_ fun _ => ?_ | refine .ite ?_ ?_)
    | ((with_reducible refine belayEnable_reach ?_ _); exact rfl)
    | ((with_reducible refine safeWrite_reach ?_ _ _ _ _ ?_); on_goal 1 => exact rfl)
    | with_reducible intro _
    | split

theorem execBelayArm_reach {s t : State} (sender : Requester) (window : Nat)
    (h : execBelayArm sender window s = .next t) : Reaches 0x100181 s t := by
  unfold execBelayArm at h
  rw [(whenEnabled_cases h).2]
  refine M.All.run_steps ?_ _
  repeat' first
    | (with_reducible first | exact .pure _ | exact .getS | refine .bind ?_ fun _ => ?_ | refine .ite ?_ ?_)
    | ((with_reducible refine belayArm_reach ?_ _); exact rfl)
    | ((with_reducible refine safeWrite_reach ?_ _ _ _ _ ?_); on_goal 1 => exact rfl)
    | with_reducible intro _
    | split

theorem execBelayDisarm_reach {s t : State} (sender : Requester) (window : Nat)
    (h : execBelayDisarm sender window s = .next t) : Reaches 0x100181 s t := by
  unfold execBelayDisarm at h
  rw [(whenEnabled_cases h).2]
  refine M.All.run_steps ?_ _
  repeat' first
    | (with_reducible first | exact .pure _ | exact .getS | refine .bind ?_ fun _ => ?_ | refine .ite ?_ ?_)
    | ((with_reducible refine modBelay_reach ?_ _ _); exact rfl)
    | ((with_reducible refine safeWrite_reach ?_ _ _ _ _ ?_); on_goal 1 => exact rfl)
    | with_reducible intro _
    | split

theorem execBelayWindowDecision_reach {s t : State} (window : Nat)
    (h : execBelayWindowDecision window s = .next t) : Reaches 0x104189 s t := by
  unfold execBelayWindowDecision at h
  rw [(whenEnabled_cases h).2]
  refine M.All.run_steps ?_ _
  repeat' first
    | (with_reducible first | exact .pure _ | exact .getS | refine .bind ?_ fun _ => ?_ | refine .ite ?_ ?_)
    | ((with_reducible refine belayWindowDecision_reach ?_ _); exact rfl)
    | with_reducible intro _
    | split

theorem execCairnEnable_reach {s t : State} (sender : Requester) (cairn : Nat)
    (h : execCairnEnable sender cairn s = .next t) : Reaches 0x100189 s t := by
  unfold execCairnEnable at h
  rw [(whenEnabled_cases h).2]
  refine M.All.run_steps ?_ _
  repeat' first
    | (with_reducible first | exact .pure _ | exact .getS | refine .bind ?_ fun _ => ?_ | refine .ite ?_ ?_)
    | ((with_reducible refine cairnEnable_reach ?_ _); exact rfl)
    | ((with_reducible refine safeWrite_reach ?_ _ _ _ _ ?_); on_goal 1 => exact rfl)
    | with_reducible intro _
    | split

theorem execCairnDue_reach {s t : State} (cairn : Nat)
    (h : execCairnDue cairn s = .next t) : Reaches 0x10FBA9 s t := by
  unfold execCairnDue at h
  rw [(whenEnabled_cases h).2]
  refine M.All.run_steps ?_ _
  repeat' first
    | (with_reducible first | exact .pure _ | exact .getS | refine .bind ?_ fun _ => ?_ | refine .ite ?_ ?_)
    | ((with_reducible refine cairnDue_reach ?_ _); exact rfl)
    | with_reducible intro _
    | split

theorem execCairnWindowExpiry_reach {s t : State} (cairn : Nat)
    (h : execCairnWindowExpiry cairn s = .next t) : Reaches 0x104189 s t := by
  unfold execCairnWindowExpiry at h
  rw [(whenEnabled_cases h).2]
  refine M.All.run_steps ?_ _
  repeat' first
    | (with_reducible first | exact .pure _ | exact .getS | refine .bind ?_ fun _ => ?_ | refine .ite ?_ ?_)
    | ((with_reducible refine cairnWindowExpiry_reach ?_ _); exact rfl)
    | with_reducible intro _
    | split

theorem execBistStart_reach {s t : State} (sender : Requester) (unit : Nat)
    (h : execBistStart sender unit s = .next t) : Reaches 0x18FBA9 s t := by
  unfold execBistStart at h
  rw [always_run h]
  refine M.All.run_steps ?_ _
  repeat' first
    | (with_reducible first | exact .pure _ | exact .getS | refine .bind ?_ fun _ => ?_ | refine .ite ?_ ?_)
    | ((with_reducible refine bistStart_reach ?_ _ _); exact rfl)
    | with_reducible intro _
    | split

theorem execBistAbort_reach {s t : State} (sender : Requester)
    (h : execBistAbort sender s = .next t) : Reaches 0xF8FFAF s t := by
  unfold execBistAbort at h
  rw [always_run h]
  refine M.All.run_steps ?_ _
  repeat' first
    | (with_reducible first | exact .pure _ | exact .getS | refine .bind ?_ fun _ => ?_ | refine .ite ?_ ?_)
    | ((with_reducible refine bistAbort_reach ?_ _); exact rfl)
    | with_reducible intro _
    | split

theorem execBistDrainLimit_reach {s t : State}
    (h : execBistDrainLimit s = .next t) : Reaches 0x30FFA9 s t := by
  unfold execBistDrainLimit at h
  rw [(whenEnabled_cases h).2]
  refine M.All.run_steps ?_ _
  repeat' first
    | (with_reducible first | exact .pure _ | exact .getS | refine .bind ?_ fun _ => ?_ | refine .ite ?_ ?_)
    | ((with_reducible refine bistDrainLimit_reach ?_); exact rfl)
    | with_reducible intro _
    | split

theorem execLbistComplete_reach {s t : State} (misrPort : BitVec 64) (misrBody : BitVec 64) (broken : Nat) (worst : Nat)
    (h : execLbistComplete misrPort misrBody broken worst s = .next t) : Reaches 0x184389 s t := by
  unfold execLbistComplete at h
  rw [(whenEnabled_cases h).2]
  refine M.All.run_steps ?_ _
  repeat' first
    | (with_reducible first | exact .pure _ | exact .getS | refine .bind ?_ fun _ => ?_ | refine .ite ?_ ?_)
    | ((with_reducible refine lbistComplete_reach ?_ _ _ _ _); exact rfl)
    | with_reducible intro _
    | split

theorem execMbistComplete_reach {s t : State} (failing : List Nat)
    (h : execMbistComplete failing s = .next t) : Reaches 0xF8FFAF s t := by
  unfold execMbistComplete at h
  rw [(whenEnabled_cases h).2]
  refine M.All.run_steps ?_ _
  repeat' first
    | (with_reducible first | exact .pure _ | exact .getS | refine .bind ?_ fun _ => ?_ | refine .ite ?_ ?_)
    | ((with_reducible refine mbistComplete_reach ?_ _); exact rfl)
    | with_reducible intro _
    | split

theorem execRotationDue_reach {s t : State}
    (h : execRotationDue s = .next t) : Reaches 0x18FBA9 s t := by
  unfold execRotationDue at h
  rw [(whenEnabled_cases h).2]
  refine M.All.run_steps ?_ _
  repeat' first
    | (with_reducible first | exact .pure _ | exact .getS | refine .bind ?_ fun _ => ?_ | refine .ite ?_ ?_)
    | ((with_reducible refine rotationDue_reach ?_); exact rfl)
    | with_reducible intro _
    | split

theorem execBistRetry_reach {s t : State}
    (h : execBistRetry s = .next t) : Reaches 0x18FBA9 s t := by
  unfold execBistRetry at h
  rw [(whenEnabled_cases h).2]
  refine M.All.run_steps ?_ _
  repeat' first
    | (with_reducible first | exact .pure _ | exact .getS | refine .bind ?_ fun _ => ?_ | refine .ite ?_ ?_)
    | ((with_reducible refine bistRetry_reach ?_); exact rfl)
    | with_reducible intro _
    | split

theorem execBistBypassWrite_reach {s t : State} (sender : Requester) (engines : Nat)
    (h : execBistBypassWrite sender engines s = .next t) : Reaches 0x18FBA9 s t := by
  unfold execBistBypassWrite at h
  rw [always_run h]
  refine M.All.run_steps ?_ _
  repeat' first
    | (with_reducible first | exact .pure _ | exact .getS | refine .bind ?_ fun _ => ?_ | refine .ite ?_ ?_)
    | ((with_reducible refine bistBypassWrite_reach ?_ _ _); exact rfl)
    | with_reducible intro _
    | split

theorem execRailInvalid_reach {s t : State} (rail : Nat)
    (h : execRailInvalid rail s = .next t) : Reaches 0xFDFFFF s t := by
  unfold execRailInvalid at h
  rw [(whenEnabled_cases h).2]
  refine M.All.run_steps ?_ _
  repeat' first
    | (with_reducible first | exact .pure _ | exact .getS | refine .bind ?_ fun _ => ?_ | refine .ite ?_ ?_)
    | ((with_reducible refine railInvalid_reach ?_ _); exact rfl)
    | with_reducible intro _
    | split

theorem execRailValid_reach {s t : State} (rail : Nat)
    (h : execRailValid rail s = .next t) : Reaches 0x101A9 s t := by
  unfold execRailValid at h
  rw [(whenEnabled_cases h).2]
  refine M.All.run_steps ?_ _
  repeat' first
    | (with_reducible first | exact .pure _ | exact .getS | refine .bind ?_ fun _ => ?_ | refine .ite ?_ ?_)
    | ((with_reducible refine railChanged_reach ?_ _ _); exact rfl)
    | with_reducible intro _
    | split

theorem execPowerOn_reach {s t : State}
    (h : execPowerOn s = .next t) : Reaches 0x14008 s t := by
  unfold execPowerOn at h
  rw [(whenEnabled_cases h).2]
  refine M.All.run_steps ?_ _
  repeat' first
    | (with_reducible first | exact .pure _ | exact .getS | refine .bind ?_ fun _ => ?_ | refine .ite ?_ ?_)
    | ((with_reducible refine powerOn_reach ?_); exact rfl)
    | with_reducible intro _
    | split

theorem execBccResetRelease_reach {s t : State}
    (h : execBccResetRelease s = .next t) : Reaches 0x10808 s t := by
  unfold execBccResetRelease at h
  rw [(whenEnabled_cases h).2]
  refine M.All.run_steps ?_ _
  repeat' first
    | (with_reducible first | exact .pure _ | exact .getS | refine .bind ?_ fun _ => ?_ | refine .ite ?_ ?_)
    | ((with_reducible refine bccResetRelease_reach ?_); exact rfl)
    | with_reducible intro _
    | split

theorem execRefAoLoss_reach {s t : State}
    (h : execRefAoLoss s = .next t) : Reaches 0xFDDFD6 s t := by
  unfold execRefAoLoss at h
  rw [(whenEnabled_cases h).2]
  refine M.All.run_steps ?_ _
  repeat' first
    | (with_reducible first | exact .pure _ | exact .getS | refine .bind ?_ fun _ => ?_ | refine .ite ?_ ?_)
    | ((with_reducible refine powerLoss_reach ?_); exact rfl)
    | with_reducible intro _
    | split

theorem execWarmStandbyEntry_reach {s t : State} (engine : Nat)
    (h : execWarmStandbyEntry engine s = .next t) : Reaches 0x200 s t := by
  unfold execWarmStandbyEntry at h
  rw [(whenEnabled_cases h).2]
  refine M.All.run_steps ?_ _
  repeat' first
    | (with_reducible first | exact .pure _ | exact .getS | refine .bind ?_ fun _ => ?_ | refine .ite ?_ ?_)
    | ((with_reducible refine modEngine_reach ?_ _ _); exact rfl)
    | with_reducible intro _
    | split

theorem execColdEntry_reach {s t : State} (engine : Nat)
    (h : execColdEntry engine s = .next t) : Reaches 0x200 s t := by
  unfold execColdEntry at h
  rw [(whenEnabled_cases h).2]
  refine M.All.run_steps ?_ _
  repeat' first
    | (with_reducible first | exact .pure _ | exact .getS | refine .bind ?_ fun _ => ?_ | refine .ite ?_ ?_)
    | ((with_reducible refine modEngine_reach ?_ _ _); exact rfl)
    | with_reducible intro _
    | split

theorem execPllStop_reach {s t : State} (domain : Nat)
    (h : execPllStop domain s = .next t) : Reaches 0x10008 s t := by
  unfold execPllStop at h
  rw [(whenEnabled_cases h).2]
  refine M.All.run_steps ?_ _
  repeat' first
    | (with_reducible first | exact .pure _ | exact .getS | refine .bind ?_ fun _ => ?_ | refine .ite ?_ ?_)
    | ((with_reducible refine modPower_reach ?_ _); exact rfl)
    | ((with_reducible refine setLocked_reach ?_ _ _); exact rfl)
    | with_reducible intro _
    | split

theorem execWakeComplete_reach {s t : State} (engine : Nat)
    (h : execWakeComplete engine s = .next t) : Reaches 0x10208 s t := by
  unfold execWakeComplete at h
  rw [(whenEnabled_cases h).2]
  refine M.All.run_steps ?_ _
  repeat' first
    | (with_reducible first | exact .pure _ | exact .getS | refine .bind ?_ fun _ => ?_ | refine .ite ?_ ?_)
    | ((with_reducible refine wakeComplete_reach ?_ _); exact rfl)
    | with_reducible intro _
    | split

theorem execDomainSwitch_reach {s t : State} (sender : Requester) (domain : Nat) (on : Bool)
    (h : execDomainSwitch sender domain on s = .next t) : Reaches 0x10183 s t := by
  unfold execDomainSwitch at h
  rw [always_run h]
  refine M.All.run_steps ?_ _
  repeat' first
    | (with_reducible first | exact .pure _ | exact .getS | refine .bind ?_ fun _ => ?_ | refine .ite ?_ ?_)
    | ((with_reducible refine domainSwitch_reach ?_ _ _ _); exact rfl)
    | with_reducible intro _
    | split

theorem execPllUnlock_reach {s t : State} (domain : Nat)
    (h : execPllUnlock domain s = .next t) : Reaches 0x10389 s t := by
  unfold execPllUnlock at h
  rw [(whenEnabled_cases h).2]
  refine M.All.run_steps ?_ _
  repeat' first
    | (with_reducible first | exact .pure _ | exact .getS | refine .bind ?_ fun _ => ?_ | refine .ite ?_ ?_)
    | ((with_reducible refine pllUnlock_reach ?_ _); exact rfl)
    | with_reducible intro _
    | split

theorem execPllRelockTimeout_reach {s t : State} (domain : Nat)
    (h : execPllRelockTimeout domain s = .next t) : Reaches 0x31FFA9 s t := by
  unfold execPllRelockTimeout at h
  rw [(whenEnabled_cases h).2]
  refine M.All.run_steps ?_ _
  repeat' first
    | (with_reducible first | exact .pure _ | exact .getS | refine .bind ?_ fun _ => ?_ | refine .ite ?_ ?_)
    | ((with_reducible refine pllRelockTimeout_reach ?_ _); exact rfl)
    | with_reducible intro _
    | split

theorem execPowerEvaluation_reach {s t : State} (mw : Nat)
    (h : execPowerEvaluation mw s = .next t) : Reaches 0x101A9 s t := by
  unfold execPowerEvaluation at h
  rw [(whenEnabled_cases h).2]
  refine M.All.run_steps ?_ _
  repeat' first
    | (with_reducible first | exact .pure _ | exact .getS | refine .bind ?_ fun _ => ?_ | refine .ite ?_ ?_)
    | ((with_reducible refine powerEvaluation_reach ?_ _); exact rfl)
    | with_reducible intro _
    | split

theorem execMonitorSample_reach {s t : State} (kind : Nat) (index : Nat) (value : Nat)
    (h : execMonitorSample kind index value s = .next t) : Reaches 0x31FFA9 s t := by
  unfold execMonitorSample at h
  rw [(whenEnabled_cases h).2]
  refine M.All.run_steps ?_ _
  repeat' first
    | (with_reducible first | exact .pure _ | exact .getS | refine .bind ?_ fun _ => ?_ | refine .ite ?_ ?_)
    | ((with_reducible refine monitorSample_reach ?_ _ _ _); exact rfl)
    | with_reducible intro _
    | split

theorem execDroopDetect_reach {s t : State} (part : Nat)
    (h : execDroopDetect part s = .next t) : Reaches 0x101A1 s t := by
  unfold execDroopDetect at h
  rw [(whenEnabled_cases h).2]
  refine M.All.run_steps ?_ _
  repeat' first
    | (with_reducible first | exact .pure _ | exact .getS | refine .bind ?_ fun _ => ?_ | refine .ite ?_ ?_)
    | ((with_reducible refine droopDetect_reach ?_ _); exact rfl)
    | with_reducible intro _
    | split

theorem execBoot_reach {s t : State} (port : Nat) (body : Nat) (macros : List Nat) (ring : Nat)
    (h : execBoot port body macros ring s = .next t) : Reaches 0x1FFBAB s t := by
  unfold execBoot at h
  rw [(whenEnabled_cases h).2]
  refine M.All.run_steps ?_ _
  repeat' first
    | (with_reducible first | exact .pure _ | exact .getS | refine .bind ?_ fun _ => ?_ | refine .ite ?_ ?_)
    | ((with_reducible refine boot_reach ?_ _ _ _ _); exact rfl)
    | with_reducible intro _
    | split

theorem execMeasurementExtend_reach {s t : State} (sender : Requester) (layer : Nat) (addr : Nat)
    (h : execMeasurementExtend sender layer addr s = .next t) : Reaches 0x40BA9 s t := by
  unfold execMeasurementExtend at h
  rw [always_run h]
  refine M.All.run_steps ?_ _
  repeat' first
    | (with_reducible first | exact .pure _ | exact .getS | refine .bind ?_ fun _ => ?_ | refine .ite ?_ ?_)
    | ((with_reducible refine measurementExtend_reach ?_ _ _ _); exact rfl)
    | with_reducible intro _
    | split

theorem execAttestationRequest_reach {s t : State} (sender : Requester) (addr : Nat)
    (h : execAttestationRequest sender addr s = .next t) : Reaches 0x40BA9 s t := by
  unfold execAttestationRequest at h
  rw [always_run h]
  refine M.All.run_steps ?_ _
  repeat' first
    | (with_reducible first | exact .pure _ | exact .getS | refine .bind ?_ fun _ => ?_ | refine .ite ?_ ?_)
    | ((with_reducible refine attestationRequest_reach ?_ _ _); exact rfl)
    | with_reducible intro _
    | split

theorem execAttestationReportDone_reach {s t : State}
    (h : execAttestationReportDone s = .next t) : Reaches 0x40B89 s t := by
  unfold execAttestationReportDone at h
  rw [(whenEnabled_cases h).2]
  refine M.All.run_steps ?_ _
  repeat' first
    | (with_reducible first | exact .pure _ | exact .getS | refine .bind ?_ fun _ => ?_ | refine .ite ?_ ?_)
    | ((with_reducible refine attestationDone_reach ?_); exact rfl)
    | with_reducible intro _
    | split

theorem execFirmwareUpdate_reach {s t : State} (sender : Requester) (addr : Nat)
    (h : execFirmwareUpdate sender addr s = .next t) : Reaches 0x40BA9 s t := by
  unfold execFirmwareUpdate at h
  rw [always_run h]
  refine M.All.run_steps ?_ _
  repeat' first
    | (with_reducible first | exact .pure _ | exact .getS | refine .bind ?_ fun _ => ?_ | refine .ite ?_ ?_)
    | ((with_reducible refine firmwareUpdate_reach ?_ _ _); exact rfl)
    | with_reducible intro _
    | split

theorem execUpdateWriteDone_reach {s t : State} (ok : Bool)
    (h : execUpdateWriteDone ok s = .next t) : Reaches 0x60008 s t := by
  unfold execUpdateWriteDone at h
  rw [(whenEnabled_cases h).2]
  refine M.All.run_steps ?_ _
  repeat' first
    | (with_reducible first | exact .pure _ | exact .getS | refine .bind ?_ fun _ => ?_ | refine .ite ?_ ?_)
    | ((with_reducible refine updateWritten_reach ?_ _); exact rfl)
    | with_reducible intro _
    | split

theorem execQuiescentTick_reach {s t : State}
    (h : execQuiescentTick s = .next t) : Reaches 0x40808 s t := by
  unfold execQuiescentTick at h
  rw [(whenEnabled_cases h).2]
  refine M.All.run_steps ?_ _
  repeat' first
    | (with_reducible first | exact .pure _ | exact .getS | refine .bind ?_ fun _ => ?_ | refine .ite ?_ ?_)
    | ((with_reducible refine quiescentTick_reach ?_); exact rfl)
    | with_reducible intro _
    | split

theorem execUpdateWaitTimeout_reach {s t : State}
    (h : execUpdateWaitTimeout s = .next t) : Reaches 0x40008 s t := by
  unfold execUpdateWaitTimeout at h
  rw [(whenEnabled_cases h).2]
  refine M.All.run_steps ?_ _
  repeat' first
    | (with_reducible first | exact .pure _ | exact .getS | refine .bind ?_ fun _ => ?_ | refine .ite ?_ ?_)
    | ((with_reducible refine setUpd_reach ?_ _); exact rfl)
    | with_reducible intro _
    | split

theorem execUpdateCommit_reach {s t : State}
    (h : execUpdateCommit s = .next t) : Reaches 0x60189 s t := by
  unfold execUpdateCommit at h
  rw [(whenEnabled_cases h).2]
  refine M.All.run_steps ?_ _
  repeat' first
    | (with_reducible first | exact .pure _ | exact .getS | refine .bind ?_ fun _ => ?_ | refine .ite ?_ ?_)
    | ((with_reducible refine updateCommit_reach ?_); exact rfl)
    | with_reducible intro _
    | split

theorem execUpdateRevert_reach {s t : State}
    (h : execUpdateRevert s = .next t) : Reaches 0x34FFA9 s t := by
  unfold execUpdateRevert at h
  rw [(whenEnabled_cases h).2]
  refine M.All.run_steps ?_ _
  repeat' first
    | (with_reducible first | exact .pure _ | exact .getS | refine .bind ?_ fun _ => ?_ | refine .ite ?_ ?_)
    | ((with_reducible refine updateRevert_reach ?_); exact rfl)
    | with_reducible intro _
    | split

theorem execSvnCommitBcc_reach {s t : State} (sender : Requester)
    (h : execSvnCommitBcc sender s = .next t) : Reaches 0x20181 s t := by
  unfold execSvnCommitBcc at h
  rw [always_run h]
  refine M.All.run_steps ?_ _
  repeat' first
    | (with_reducible first | exact .pure _ | exact .getS | refine .bind ?_ fun _ => ?_ | refine .ite ?_ ?_)
    | ((with_reducible refine svnCommit_reach ?_ _ _ _); exact rfl)
    | with_reducible intro _
    | split

theorem execSvnCommitApp_reach {s t : State} (sender : Requester)
    (h : execSvnCommitApp sender s = .next t) : Reaches 0x20181 s t := by
  unfold execSvnCommitApp at h
  rw [always_run h]
  refine M.All.run_steps ?_ _
  repeat' first
    | (with_reducible first | exact .pure _ | exact .getS | refine .bind ?_ fun _ => ?_ | refine .ite ?_ ?_)
    | ((with_reducible refine svnCommit_reach ?_ _ _ _); exact rfl)
    | with_reducible intro _
    | split

theorem execIdcode_reach {s t : State}
    (h : execIdcode s = .next t) : Reaches 0x10 s t := by
  unfold execIdcode at h
  rw [(whenEnabled_cases h).2]
  refine M.All.run_steps ?_ _
  repeat' first
    | (with_reducible first | exact .pure _ | exact .getS | refine .bind ?_ fun _ => ?_ | refine .ite ?_ ?_)
    | ((with_reducible refine answer_reach ?_ _ _); exact rfl)
    | with_reducible intro _
    | split

theorem execTapBypass_reach {s t : State}
    (h : execTapBypass s = .next t) : Reaches 0x10 s t := by
  unfold execTapBypass at h
  rw [(whenEnabled_cases h).2]
  refine M.All.run_steps ?_ _
  repeat' first
    | (with_reducible first | exact .pure _ | exact .getS | refine .bind ?_ fun _ => ?_ | refine .ite ?_ ?_)
    | ((with_reducible refine answer_reach ?_ _ _); exact rfl)
    | with_reducible intro _
    | split

theorem execDebugChallenge_reach {s t : State}
    (h : execDebugChallenge s = .next t) : Reaches 0x40030 s t := by
  unfold execDebugChallenge at h
  rw [(whenEnabled_cases h).2]
  refine M.All.run_steps ?_ _
  repeat' first
    | (with_reducible first | exact .pure _ | exact .getS | refine .bind ?_ fun _ => ?_ | refine .ite ?_ ?_)
    | ((with_reducible refine debugChallenge_reach ?_); exact rfl)
    | with_reducible intro _
    | split

theorem execDebugResponse_reach {s t : State} (data : List (BitVec 8))
    (h : execDebugResponse data s = .next t) : Reaches 0x40199 s t := by
  unfold execDebugResponse at h
  rw [(whenEnabled_cases h).2]
  refine M.All.run_steps ?_ _
  repeat' first
    | (with_reducible first | exact .pure _ | exact .getS | refine .bind ?_ fun _ => ?_ | refine .ite ?_ ?_)
    | ((with_reducible refine debugResponse_reach ?_ _); exact rfl)
    | with_reducible intro _
    | split

theorem execExtest_reach {s t : State} (pins : Nat)
    (h : execExtest pins s = .next t) : Reaches 0x4110 s t := by
  unfold execExtest at h
  rw [(whenEnabled_cases h).2]
  refine M.All.run_steps ?_ _
  repeat' first
    | (with_reducible first | exact .pure _ | exact .getS | refine .bind ?_ fun _ => ?_ | refine .ite ?_ ?_)
    | ((with_reducible refine extest_reach ?_ _); exact rfl)
    | with_reducible intro _
    | split

theorem execExtestExit_reach {s t : State}
    (h : execExtestExit s = .next t) : Reaches 0x30FFB9 s t := by
  unfold execExtestExit at h
  rw [(whenEnabled_cases h).2]
  refine M.All.run_steps ?_ _
  repeat' first
    | (with_reducible first | exact .pure _ | exact .getS | refine .bind ?_ fun _ => ?_ | refine .ite ?_ ?_)
    | ((with_reducible refine extestExit_reach ?_); exact rfl)
    | with_reducible intro _
    | split

theorem execEthFrameReceive_reach {s t : State} (port : Nat) (frame : List (BitVec 8))
    (h : execEthFrameReceive port frame s = .next t) : Reaches 0xD0FBB9 s t := by
  unfold execEthFrameReceive at h
  rw [(whenEnabled_cases h).2]
  refine M.All.run_steps ?_ _
  repeat' first
    | (with_reducible first | exact .pure _ | exact .getS | refine .bind ?_ fun _ => ?_ | refine .ite ?_ ?_)
    | ((with_reducible refine ethReceive_reach ?_ _ _); exact rfl)
    | with_reducible intro _
    | split

theorem execEthFrameTransmit_reach {s t : State} (port : Nat)
    (h : execEthFrameTransmit port s = .next t) : Reaches 0x10FBA9 s t := by
  unfold execEthFrameTransmit at h
  rw [(whenEnabled_cases h).2]
  refine M.All.run_steps ?_ _
  repeat' first
    | (with_reducible first | exact .pure _ | exact .getS | refine .bind ?_ fun _ => ?_ | refine .ite ?_ ?_)
    | ((with_reducible refine ethTransmit_reach ?_ _); exact rfl)
    | with_reducible intro _
    | split

theorem execRxBufferReturn_reach {s t : State} (sender : Requester) (port : Nat) (index : Nat)
    (h : execRxBufferReturn sender port index s = .next t) : Reaches 0x800181 s t := by
  unfold execRxBufferReturn at h
  rw [always_run h]
  refine M.All.run_steps ?_ _
  repeat' first
    | (with_reducible first | exact .pure _ | exact .getS | refine .bind ?_ fun _ => ?_ | refine .ite ?_ ?_)
    | ((with_reducible refine rxReturn_reach ?_ _ _ _); exact rfl)
    | with_reducible intro _
    | split

theorem execEthLinkUp_reach {s t : State} (port : Nat)
    (h : execEthLinkUp port s = .next t) : Reaches 0x189 s t := by
  unfold execEthLinkUp at h
  rw [(whenEnabled_cases h).2]
  refine M.All.run_steps ?_ _
  repeat' first
    | (with_reducible first | exact .pure _ | exact .getS | refine .bind ?_ fun _ => ?_ | refine .ite ?_ ?_)
    | ((with_reducible refine ethLinkUp_reach ?_ _); exact rfl)
    | with_reducible intro _
    | split

theorem execEthLinkDown_reach {s t : State} (port : Nat)
    (h : execEthLinkDown port s = .next t) : Reaches 0x189 s t := by
  unfold execEthLinkDown at h
  rw [(whenEnabled_cases h).2]
  refine M.All.run_steps ?_ _
  repeat' first
    | (with_reducible first | exact .pure _ | exact .getS | refine .bind ?_ fun _ => ?_ | refine .ite ?_ ?_)
    | ((with_reducible refine ethLinkDown_reach ?_ _); exact rfl)
    | with_reducible intro _
    | split

theorem execLldpSend_reach {s t : State} (port : Nat)
    (h : execLldpSend port s = .next t) : Reaches 0x802000 s t := by
  unfold execLldpSend at h
  rw [(whenEnabled_cases h).2]
  refine M.All.run_steps ?_ _
  repeat' first
    | (with_reducible first | exact .pure _ | exact .getS | refine .bind ?_ fun _ => ?_ | refine .ite ?_ ?_)
    | ((with_reducible refine lldpSend_reach ?_ _); exact rfl)
    | with_reducible intro _
    | split

theorem execLldpTtlExpiry_reach {s t : State} (port : Nat)
    (h : execLldpTtlExpiry port s = .next t) : Reaches 0x800181 s t := by
  unfold execLldpTtlExpiry at h
  rw [(whenEnabled_cases h).2]
  refine M.All.run_steps ?_ _
  repeat' first
    | (with_reducible first | exact .pure _ | exact .getS | refine .bind ?_ fun _ => ?_ | refine .ite ?_ ?_)
    | ((with_reducible refine lldpExpire_reach ?_ _); exact rfl)
    | with_reducible intro _
    | split

theorem execRdmaWriteReceive_reach {s t : State} (qp : Nat) (psn : Nat) (form : Nat) (rkey : Nat) (addr : Nat) (len : Nat) (data : List (BitVec 8)) (ce : Bool)
    (h : execRdmaWriteReceive qp psn form rkey addr len data ce s = .next t) : Reaches 0xABA9 s t := by
  unfold execRdmaWriteReceive at h
  rw [always_run h]
  refine M.All.run_steps ?_ _
  repeat' first
    | (with_reducible first | exact .pure _ | exact .getS | refine .bind ?_ fun _ => ?_ | refine .ite ?_ ?_)
    | ((with_reducible refine rdmaWrite_reach ?_ _ _ _ _ _ _ _ _); exact rfl)
    | with_reducible intro _
    | split

theorem execRdmaReadReceive_reach {s t : State} (qp : Nat) (psn : Nat) (rkey : Nat) (addr : Nat) (len : Nat)
    (h : execRdmaReadReceive qp psn rkey addr len s = .next t) : Reaches 0xABA9 s t := by
  unfold execRdmaReadReceive at h
  rw [always_run h]
  refine M.All.run_steps ?_ _
  repeat' first
    | (with_reducible first | exact .pure _ | exact .getS | refine .bind ?_ fun _ => ?_ | refine .ite ?_ ?_)
    | ((with_reducible refine rdmaRead_reach ?_ _ _ _ _ _); exact rfl)
    | with_reducible intro _
    | split

theorem execRoceSendReceive_reach {s t : State} (qp : Nat) (psn : Nat) (form : Nat) (message : List (BitVec 8)) (ce : Bool)
    (h : execRoceSendReceive qp psn form message ce s = .next t) : Reaches 0x10FBA9 s t := by
  unfold execRoceSendReceive at h
  rw [always_run h]
  refine M.All.run_steps ?_ _
  repeat' first
    | (with_reducible first | exact .pure _ | exact .getS | refine .bind ?_ fun _ => ?_ | refine .ite ?_ ?_)
    | ((with_reducible refine roceSend_reach ?_ _ _ _ _ _); exact rfl)
    | with_reducible intro _
    | split

theorem execRoceAckReceive_reach {s t : State} (qp : Nat) (psn : Nat) (nak : Nat)
    (h : execRoceAckReceive qp psn nak s = .next t) : Reaches 0x10FBB9 s t := by
  unfold execRoceAckReceive at h
  rw [(whenEnabled_cases h).2]
  refine M.All.run_steps ?_ _
  repeat' first
    | (with_reducible first | exact .pure _ | exact .getS | refine .bind ?_ fun _ => ?_ | refine .ite ?_ ?_)
    | ((with_reducible refine roceAck_reach ?_ _ _ _); exact rfl)
    | with_reducible intro _
    | split

theorem execCnpReceive_reach {s t : State} (qp : Nat)
    (h : execCnpReceive qp s = .next t) : Reaches 0x8000 s t := by
  unfold execCnpReceive at h
  rw [(whenEnabled_cases h).2]
  refine M.All.run_steps ?_ _
  repeat' first
    | (with_reducible first | exact .pure _ | exact .getS | refine .bind ?_ fun _ => ?_ | refine .ite ?_ ?_)
    | ((with_reducible refine modQp_reach ?_ _ _); exact rfl)
    | with_reducible intro _
    | split

theorem execAckTimeout_reach {s t : State} (qp : Nat)
    (h : execAckTimeout qp s = .next t) : Reaches 0x10FBB9 s t := by
  unfold execAckTimeout at h
  rw [(whenEnabled_cases h).2]
  refine M.All.run_steps ?_ _
  repeat' first
    | (with_reducible first | exact .pure _ | exact .getS | refine .bind ?_ fun _ => ?_ | refine .ite ?_ ?_)
    | ((with_reducible refine retryQp_reach ?_ _ _); exact rfl)
    | with_reducible intro _
    | split

theorem execRateWindowEnd_reach {s t : State} (qp : Nat)
    (h : execRateWindowEnd qp s = .next t) : Reaches 0x8000 s t := by
  unfold execRateWindowEnd at h
  rw [(whenEnabled_cases h).2]
  refine M.All.run_steps ?_ _
  repeat' first
    | (with_reducible first | exact .pure _ | exact .getS | refine .bind ?_ fun _ => ?_ | refine .ite ?_ ?_)
    | ((with_reducible refine rateWindowEnd_reach ?_ _); exact rfl)
    | with_reducible intro _
    | split

theorem execResetNotice_reach {s t : State} (job : Nat) (rank : Nat)
    (h : execResetNotice job rank s = .next t) : Reaches 0x10FBB9 s t := by
  unfold execResetNotice at h
  rw [(whenEnabled_cases h).2]
  refine M.All.run_steps ?_ _
  repeat' first
    | (with_reducible first | exact .pure _ | exact .getS | refine .bind ?_ fun _ => ?_ | refine .ite ?_ ?_)
    | ((with_reducible refine resetNotice_reach ?_ _ _); exact rfl)
    | with_reducible intro _
    | split

theorem execTransferDiscard_reach {s t : State} (index : Nat)
    (h : execTransferDiscard index s = .next t) : Reaches 0x8000 s t := by
  unfold execTransferDiscard at h
  rw [(whenEnabled_cases h).2]
  refine M.All.run_steps ?_ _
  repeat' first
    | (with_reducible first | exact .pure _ | exact .getS | refine .bind ?_ fun _ => ?_ | refine .ite ?_ ?_)
    | ((with_reducible refine .update ?_); exact rfl)
    | with_reducible intro _
    | split

theorem execJobAbort_reach {s t : State} (sender : Requester) (job : Nat) (step : Nat)
    (h : execJobAbort sender job step s = .next t) : Reaches 0x10FBA9 s t := by
  unfold execJobAbort at h
  rw [always_run h]
  refine M.All.run_steps ?_ _
  repeat' first
    | (with_reducible first | exact .pure _ | exact .getS | refine .bind ?_ fun _ => ?_ | refine .ite ?_ ?_)
    | ((with_reducible refine fabJobCmd_reach ?_ _ _ _ _); exact rfl)
    | with_reducible intro _
    | split

theorem execJobResume_reach {s t : State} (sender : Requester) (job : Nat)
    (h : execJobResume sender job s = .next t) : Reaches 0x10FBA9 s t := by
  unfold execJobResume at h
  rw [always_run h]
  refine M.All.run_steps ?_ _
  repeat' first
    | (with_reducible first | exact .pure _ | exact .getS | refine .bind ?_ fun _ => ?_ | refine .ite ?_ ?_)
    | ((with_reducible refine fabJobCmd_reach ?_ _ _ _ _); exact rfl)
    | with_reducible intro _
    | split

theorem execPcieLinkUp_reach {s t : State} (speed : Nat) (width : Nat)
    (h : execPcieLinkUp speed width s = .next t) : Reaches 0x189 s t := by
  unfold execPcieLinkUp at h
  rw [(whenEnabled_cases h).2]
  refine M.All.run_steps ?_ _
  repeat' first
    | (with_reducible first | exact .pure _ | exact .getS | refine .bind ?_ fun _ => ?_ | refine .ite ?_ ?_)
    | ((with_reducible refine pcieLinkUp_reach ?_ _ _); exact rfl)
    | with_reducible intro _
    | split

theorem execPcieLinkDown_reach {s t : State}
    (h : execPcieLinkDown s = .next t) : Reaches 0x189 s t := by
  unfold execPcieLinkDown at h
  rw [(whenEnabled_cases h).2]
  refine M.All.run_steps ?_ _
  repeat' first
    | (with_reducible first | exact .pure _ | exact .getS | refine .bind ?_ fun _ => ?_ | refine .ite ?_ ?_)
    | ((with_reducible refine pcieLinkDown_reach ?_); exact rfl)
    | with_reducible intro _
    | split

theorem execMsiReceive_reach {s t : State} (addr : Nat) (data : Nat)
    (h : execMsiReceive addr data s = .next t) : Reaches 0x10FBA9 s t := by
  unfold execMsiReceive at h
  rw [(whenEnabled_cases h).2]
  refine M.All.run_steps ?_ _
  repeat' first
    | (with_reducible first | exact .pure _ | exact .getS | refine .bind ?_ fun _ => ?_ | refine .ite ?_ ?_)
    | ((with_reducible refine msiReceive_reach ?_ _); exact rfl)
    | with_reducible intro _
    | split

theorem execSysrefEdge_reach {s t : State}
    (h : execSysrefEdge s = .next t) : Reaches 0x400189 s t := by
  unfold execSysrefEdge at h
  rw [(whenEnabled_cases h).2]
  refine M.All.run_steps ?_ _
  repeat' first
    | (with_reducible first | exact .pure _ | exact .getS | refine .bind ?_ fun _ => ?_ | refine .ite ?_ ?_)
    | ((with_reducible refine sysrefEdge_reach ?_); exact rfl)
    | with_reducible intro _
    | split

theorem execJesdLinkError_reach {s t : State} (link : Nat) (sync : Bool)
    (h : execJesdLinkError link sync s = .next t) : Reaches 0x189 s t := by
  unfold execJesdLinkError at h
  rw [(whenEnabled_cases h).2]
  refine M.All.run_steps ?_ _
  repeat' first
    | (with_reducible first | exact .pure _ | exact .getS | refine .bind ?_ fun _ => ?_ | refine .ite ?_ ?_)
    | ((with_reducible refine bump_reach ?_ _ _ _); exact rfl)
    | ((with_reducible refine linkLost_reach ?_ _ _); exact rfl)
    | with_reducible intro _
    | split

theorem execSymbolBoundary_reach {s t : State} (carrier : Nat) (samples : List (BitVec 8))
    (h : execSymbolBoundary carrier samples s = .next t) : Reaches 0x50FBA9 s t := by
  unfold execSymbolBoundary at h
  rw [(whenEnabled_cases h).2]
  refine M.All.run_steps ?_ _
  repeat' first
    | (with_reducible first | exact .pure _ | exact .getS | refine .bind ?_ fun _ => ?_ | refine .ite ?_ ?_)
    | ((with_reducible refine symbolBoundary_reach ?_ _ _); exact rfl)
    | with_reducible intro _
    | split

theorem execSymbolLaunch_reach {s t : State} (carrier : Nat)
    (h : execSymbolLaunch carrier s = .next t) : Reaches 0x50FBA9 s t := by
  unfold execSymbolLaunch at h
  rw [(whenEnabled_cases h).2]
  refine M.All.run_steps ?_ _
  repeat' first
    | (with_reducible first | exact .pure _ | exact .getS | refine .bind ?_ fun _ => ?_ | refine .ite ?_ ?_)
    | ((with_reducible refine symbolLaunch_reach ?_ _); exact rfl)
    | with_reducible intro _
    | split

theorem execFhWindowOpen_reach {s t : State} (peer : Nat)
    (h : execFhWindowOpen peer s = .next t) : Reaches 0x402189 s t := by
  unfold execFhWindowOpen at h
  rw [(whenEnabled_cases h).2]
  refine M.All.run_steps ?_ _
  repeat' first
    | (with_reducible first | exact .pure _ | exact .getS | refine .bind ?_ fun _ => ?_ | refine .ite ?_ ?_)
    | ((with_reducible refine fhWindowOpen_reach ?_ _); exact rfl)
    | with_reducible intro _
    | split

theorem execFhWindowClose_reach {s t : State} (peer : Nat)
    (h : execFhWindowClose peer s = .next t) : Reaches 0x50FBA9 s t := by
  unfold execFhWindowClose at h
  rw [(whenEnabled_cases h).2]
  refine M.All.run_steps ?_ _
  repeat' first
    | (with_reducible first | exact .pure _ | exact .getS | refine .bind ?_ fun _ => ?_ | refine .ite ?_ ?_)
    | ((with_reducible refine fhWindowClose_reach ?_ _); exact rfl)
    | with_reducible intro _
    | split

theorem execPllRelocked_reach {s t : State} (domain : Nat)
    (h : execPllRelocked domain s = .next t) : Reaches 0x10208 s t := by
  unfold execPllRelocked at h
  rw [(whenEnabled_cases h).2]
  refine M.All.run_steps ?_ _
  repeat' first
    | (with_reducible first | exact .pure _ | exact .getS | refine .bind ?_ fun _ => ?_ | refine .ite ?_ ?_)
    | ((with_reducible refine pllRelocked_reach ?_ _); exact rfl)
    | with_reducible intro _
    | split

theorem execServoStart_reach {s t : State}
    (h : execServoStart s = .next t) : Reaches 0x4001C9 s t := by
  unfold execServoStart at h
  rw [always_run h]
  refine M.All.run_steps ?_ _
  repeat' first
    | (with_reducible first | exact .pure _ | exact .getS | refine .bind ?_ fun _ => ?_ | refine .ite ?_ ?_)
    | ((with_reducible refine .update ?_); exact rfl)
    | ((with_reducible refine timeState_reach ?_ _); exact rfl)
    | with_reducible intro _
    | split

theorem execDroopStretchEnd_reach {s t : State} (part : Nat)
    (h : execDroopStretchEnd part s = .next t) : Reaches 0x10008 s t := by
  unfold execDroopStretchEnd at h
  rw [(whenEnabled_cases h).2]
  refine M.All.run_steps ?_ _
  repeat' first
    | (with_reducible first | exact .pure _ | exact .getS | refine .bind ?_ fun _ => ?_ | refine .ite ?_ ?_)
    | ((with_reducible refine droopStretchEnd_reach ?_ _); exact rfl)
    | with_reducible intro _
    | split

theorem execUpdateVerificationDone_reach {s t : State}
    (h : execUpdateVerificationDone s = .next t) : Reaches 0x40189 s t := by
  unfold execUpdateVerificationDone at h
  rw [(whenEnabled_cases h).2]
  refine M.All.run_steps ?_ _
  repeat' first
    | (with_reducible first | exact .pure _ | exact .getS | refine .bind ?_ fun _ => ?_ | refine .ite ?_ ?_)
    | ((with_reducible refine updateVerified_reach ?_); exact rfl)
    | with_reducible intro _
    | split

theorem execLedgerCopyRewritten_reach {s t : State} (queue : Nat)
    (h : execLedgerCopyRewritten queue s = .next t) : Reaches 0x100 s t := by
  unfold execLedgerCopyRewritten at h
  rw [(whenEnabled_cases h).2]
  refine M.All.run_steps ?_ _
  repeat' first
    | (with_reducible first | exact .pure _ | exact .getS | refine .bind ?_ fun _ => ?_ | refine .ite ?_ ?_)
    | ((with_reducible refine ledgerCopyRewritten_reach ?_ _); exact rfl)
    | with_reducible intro _
    | split

theorem execRdmaReadResponse_reach {s t : State} (qp : Nat) (psn : Nat) (data : List (BitVec 8))
    (h : execRdmaReadResponse qp psn data s = .next t) : Reaches 0x10FBA9 s t := by
  unfold execRdmaReadResponse at h
  rw [(whenEnabled_cases h).2]
  refine M.All.run_steps ?_ _
  repeat' first
    | (with_reducible first | exact .pure _ | exact .getS | refine .bind ?_ fun _ => ?_ | refine .ite ?_ ?_)
    | ((with_reducible refine readResponse_reach ?_ _ _ _); exact rfl)
    | with_reducible intro _
    | split

/-- The components each command reaches, as a mask over `Upd.kind`. -/
def reachOf : Instr → Nat
  | .registerWrite _ _ _ _ => 0xFFFFFF
  | .memoryRequest _ _ _ _ _ _ _ => 0xFFFFFF
  | .patrolScrub _ _ _ => 0x389
  | .driftTracking _ _ => 0x80
  | .refresh _ _ _ => 0x80
  | .training _ => 0x88
  | .mmuInval _ _ _ => 0x189
  | .mmuInvalDone => 0x88
  | .createContext _ _ _ _ _ _ _ => 0x110
  | .teardownContext _ _ => 0x30FFB9
  | .teardownComplete _ => 0xB89
  | .fabDrainDeclared _ => 0x8000
  | .lateResponseDiscard _ => 0x8
  | .registerBuffer _ _ _ => 0x110
  | .deregisterBuffer _ _ => 0x110
  | .deregistrationComplete _ _ => 0x100
  | .portAckRead _ => 0x110
  | .enqueue _ _ _ => 0x10FBB9
  | .taskSubmission _ _ => 0x10FBB9
  | .ledgerAcceptance _ _ _ => 0x10FBB9
  | .dequeue _ _ => 0x10FBB9
  | .createQueue _ => 0xABB9
  | .destroyQueue _ _ => 0x10FBB9
  | .grant _ _ => 0x199
  | .revoke _ _ => 0x199
  | .registerGraph _ => 0x10FBB9
  | .deregisterGraph _ => 0x199
  | .graphDeregistrationDone _ => 0x100
  | .tokenArrival _ _ _ => 0x10FBA9
  | .dispatch _ => 0x300
  | .descriptorFetch _ => 0x10FBA9
  | .taskStart _ => 0x300
  | .blockStepEnd _ _ => 0x308
  | .abftRecomputeDone _ _ => 0x30FFA9
  | .preemptSave _ => 0x329
  | .taskEnd _ _ => 0x10FBA9
  | .commit _ => 0x10FBA9
  | .heldEffectRelease _ _ => 0x10FBA9
  | .queueAppend _ => 0x10FBA9
  | .budgetExpiry _ => 0x30FFA9
  | .midstreamFault _ _ => 0x10FBA9
  | .faultResume _ _ _ => 0x10FBA9
  | .faultResumeAbandon _ _ _ => 0x10FBA9
  | .holdLimitExpiry _ => 0x10FBA9
  | .progressWatchdog _ => 0x10FBA9
  | .bandFilled _ _ => 0x10FBA9
  | .bandReleased _ _ => 0x10FBA9
  | .delayFire _ => 0x10FBA9
  | .slotInstanceCreate _ => 0x10FBA9
  | .nop _ => 0x10FBA9
  | .delay _ => 0x10FBA9
  | .instantiate _ => 0x10FBA9
  | .post _ => 0x10FBA9
  | .copy _ => 0x10FBA9
  | .fill _ => 0x10FBA9
  | .gather _ => 0x10FBA9
  | .scatter _ => 0x10FBA9
  | .matmul _ => 0x10FBA9
  | .conv2d _ => 0x10FBA9
  | .dwconv2d _ => 0x10FBA9
  | .tconv2d _ => 0x10FBA9
  | .eltwise _ => 0x10FBA9
  | .unary _ => 0x10FBA9
  | .quantize _ => 0x10FBA9
  | .dequantize _ => 0x10FBA9
  | .cmatmul _ => 0x10FBA9
  | .reduce _ => 0x10FBA9
  | .softmax _ => 0x10FBA9
  | .layernorm _ => 0x10FBA9
  | .rmsnorm _ => 0x10FBA9
  | .argmax _ => 0x10FBA9
  | .topk _ => 0x10FBA9
  | .attention _ => 0x10FBA9
  | .routeGather _ => 0x10FBA9
  | .routeCombine _ => 0x10FBA9
  | .ispFrame _ => 0x10FBA9
  | .pyrBuild _ => 0x10FBA9
  | .pyrLaplace _ => 0x10FBA9
  | .warpMesh _ => 0x10FBA9
  | .warpHomog _ => 0x10FBA9
  | .flow _ => 0x10FBA9
  | .stereo _ => 0x10FBA9
  | .featDetect _ => 0x10FBA9
  | .featMatch _ => 0x10FBA9
  | .dfeDdc _ => 0x50FBA9
  | .dfeDuc _ => 0x50FBA9
  | .fft _ => 0x10FBA9
  | .ifft _ => 0x10FBA9
  | .prachDetect _ => 0x10FBA9
  | .ldpcDecode _ => 0x10FBA9
  | .ldpcEncode _ => 0x10FBA9
  | .polarEncode _ => 0x10FBA9
  | .polarDecode _ => 0x10FBA9
  | .fhTx _ => 0x50FBA9
  | .fhRx _ => 0x50FBA9
  | .crc32c _ => 0x10FBA9
  | .compare _ => 0x10FBA9
  | .cairnCheck _ => 0x10FBA9
  | .sendShard _ => 0x10FBA9
  | .recvShard _ => 0x10FBA9
  | .allReduce _ => 0x10FBA9
  | .allGather _ => 0x10FBA9
  | .packetReceive _ _ _ _ _ _ => 0x200BA9
  | .deskew _ _ => 0x30FBA9
  | .csiLinkLoss _ => 0x30FBA9
  | .frameStart _ _ => 0x30FBA9
  | .frameEnd _ _ => 0x30FBA9
  | .frameTimeout _ => 0x30FBA9
  | .camArm _ _ => 0x200999
  | .camDisarm _ _ => 0x200999
  | .exposureRequest _ _ _ => 0x200BB9
  | .busListStart _ _ _ => 0x200BB9
  | .busTransferComplete _ _ => 0x202B89
  | .busTransferFail _ => 0x200189
  | .ispCtlApply => 0x200008
  | .hallFlagAdv _ _ => 0x10FBB9
  | .hallFlagThrWrite _ _ _ => 0x10FBB9
  | .hallRecordActivate _ _ _ _ => 0x1991
  | .dmaStart _ _ => 0xD99
  | .dmaArm _ _ => 0xD99
  | .dmaDisarm _ _ => 0x999
  | .dmaStop _ _ => 0xD99
  | .dmaAbort _ _ => 0x10FFB9
  | .crateFetchDone _ => 0xFA9
  | .descriptorComplete _ => 0x10FFA9
  | .writebackAck _ => 0x10FFA9
  | .dmaTransferError _ => 0x10FFA9
  | .fetchTimeout _ => 0x589
  | .descriptorTimeout _ => 0x10FFA9
  | .dmaDrainComplete _ => 0x408
  | .streamShareWrite _ _ _ => 0x189
  | .fenceDrainEnd _ => 0xFDFFEF
  | .fenceDrainDeclaration _ => 0xFDFFEF
  | .rung1Reset _ _ => 0x30FFA9
  | .rung2Reset _ => 0x30FFA9
  | .rung3Reset _ => 0x30FFA9
  | .chipReset _ => 0x30FFA9
  | .powerCycleRequest _ => 0x4989
  | .rungLimitExpiry _ => 0x30FFA9
  | .resetComplete _ => 0x10FBA9
  | .replayChip => 0x10FBA9
  | .engineHangWatchdog _ => 0x30FFA9
  | .wdtKick _ => 0x981
  | .bccWatchdogExpiry => 0x34FFA9
  | .heartbeatLoss _ => 0x30FFA9
  | .resetIn => 0x30FFA9
  | .resetInRelease => 0x800
  | .smbusBlockReadA0 => 0x4010
  | .returnToService _ _ => 0x10FBA9
  | .startService _ => 0x189
  | .timeStep _ _ => 0x1C1
  | .ppsInEdge => 0x48
  | .ppsOutRise => 0x4040
  | .ppsOutFall => 0x4000
  | .timeLocked _ => 0x4001C9
  | .holdover _ => 0x4001C9
  | .gateDecision _ _ => 0x10FBA9
  | .gateDeadline _ _ => 0x10FBA9
  | .checkerCompare _ _ _ => 0x104189
  | .safeClear _ _ => 0x104189
  | .safeEnter _ _ => 0x104189
  | .pipelineEnable _ _ => 0x100189
  | .sealEnable _ _ _ => 0x1181
  | .belayEnable _ _ => 0x100181
  | .belayArm _ _ => 0x100181
  | .belayDisarm _ _ => 0x100181
  | .belayWindowDecision _ => 0x104189
  | .cairnEnable _ _ => 0x100189
  | .cairnDue _ => 0x10FBA9
  | .cairnWindowExpiry _ => 0x104189
  | .bistStart _ _ => 0x18FBA9
  | .bistAbort _ => 0xF8FFAF
  | .bistDrainLimit => 0x30FFA9
  | .lbistComplete _ _ _ _ => 0x184389
  | .mbistComplete _ => 0xF8FFAF
  | .rotationDue => 0x18FBA9
  | .bistRetry => 0x18FBA9
  | .bistBypassWrite _ _ => 0x18FBA9
  | .railInvalid _ => 0xFDFFFF
  | .railValid _ => 0x101A9
  | .powerOn => 0x14008
  | .bccResetRelease => 0x10808
  | .refAoLoss => 0xFDDFD6
  | .warmStandbyEntry _ => 0x200
  | .coldEntry _ => 0x200
  | .pllStop _ => 0x10008
  | .wakeComplete _ => 0x10208
  | .domainSwitch _ _ _ => 0x10183
  | .pllUnlock _ => 0x10389
  | .pllRelockTimeout _ => 0x31FFA9
  | .powerEvaluation _ => 0x101A9
  | .monitorSample _ _ _ => 0x31FFA9
  | .droopDetect _ => 0x101A1
  | .boot _ _ _ _ => 0x1FFBAB
  | .measurementExtend _ _ _ => 0x40BA9
  | .attestationRequest _ _ => 0x40BA9
  | .attestationReportDone => 0x40B89
  | .firmwareUpdate _ _ => 0x40BA9
  | .updateWriteDone _ => 0x60008
  | .quiescentTick => 0x40808
  | .updateWaitTimeout => 0x40008
  | .updateCommit => 0x60189
  | .updateRevert => 0x34FFA9
  | .svnCommitBcc _ => 0x20181
  | .svnCommitApp _ => 0x20181
  | .idcode => 0x10
  | .tapBypass => 0x10
  | .debugChallenge => 0x40030
  | .debugResponse _ => 0x40199
  | .extest _ => 0x4110
  | .extestExit => 0x30FFB9
  | .ethFrameReceive _ _ => 0xD0FBB9
  | .ethFrameTransmit _ => 0x10FBA9
  | .rxBufferReturn _ _ _ => 0x800181
  | .ethLinkUp _ => 0x189
  | .ethLinkDown _ => 0x189
  | .lldpSend _ => 0x802000
  | .lldpTtlExpiry _ => 0x800181
  | .rdmaWriteReceive _ _ _ _ _ _ _ _ => 0xABA9
  | .rdmaReadReceive _ _ _ _ _ => 0xABA9
  | .roceSendReceive _ _ _ _ _ => 0x10FBA9
  | .roceAckReceive _ _ _ => 0x10FBB9
  | .cnpReceive _ => 0x8000
  | .ackTimeout _ => 0x10FBB9
  | .rateWindowEnd _ => 0x8000
  | .resetNotice _ _ => 0x10FBB9
  | .transferDiscard _ => 0x8000
  | .jobAbort _ _ _ => 0x10FBA9
  | .jobResume _ _ => 0x10FBA9
  | .pcieLinkUp _ _ => 0x189
  | .pcieLinkDown => 0x189
  | .msiReceive _ _ => 0x10FBA9
  | .sysrefEdge => 0x400189
  | .jesdLinkError _ _ => 0x189
  | .symbolBoundary _ _ => 0x50FBA9
  | .symbolLaunch _ => 0x50FBA9
  | .fhWindowOpen _ => 0x402189
  | .fhWindowClose _ => 0x50FBA9
  | .pllRelocked _ => 0x10208
  | .servoStart => 0x4001C9
  | .droopStretchEnd _ => 0x10008
  | .updateVerificationDone => 0x40189
  | .ledgerCopyRewritten _ => 0x100
  | .rdmaReadResponse _ _ _ => 0x10FBA9

/-- Every command that answers a next state leaves it by a meaning that stays within the command's components. -/
theorem exec_reach {i : Instr} {s t : State} (h : exec i s = .next t) : Reaches (reachOf i) s t := by
  cases i with
  | registerWrite sender wide offset value => exact execRegisterWrite_reach sender wide offset value h
  | memoryRequest sender handle isWrite addr len data upset => exact execMemoryRequest_reach sender handle isWrite addr len data upset h
  | patrolScrub channel weak bad => exact execPatrolScrub_reach channel weak bad h
  | driftTracking channel rank => exact execDriftTracking_reach channel rank h
  | refresh channel rank hot => exact execRefresh_reach channel rank hot h
  | training part => exact execTraining_reach part h
  | mmuInval sender handle all => exact execMmuInval_reach sender handle all h
  | mmuInvalDone => exact execMmuInvalDone_reach h
  | createContext id physical root ceiling safety quota eventQueue => exact execCreateContext_reach id physical root ceiling safety quota eventQueue h
  | teardownContext handle reportAt => exact execTeardownContext_reach handle reportAt h
  | teardownComplete handle => exact execTeardownComplete_reach handle h
  | fabDrainDeclared handle => exact execFabDrainDeclared_reach handle h
  | lateResponseDiscard handle => exact execLateResponseDiscard_reach handle h
  | registerBuffer handle base length => exact execRegisterBuffer_reach handle base length h
  | deregisterBuffer handle base => exact execDeregisterBuffer_reach handle base h
  | deregistrationComplete handle base => exact execDeregistrationComplete_reach handle base h
  | portAckRead port => exact execPortAckRead_reach port h
  | enqueue port target ty => exact execEnqueue_reach port target ty h
  | taskSubmission port target => exact execTaskSubmission_reach port target h
  | ledgerAcceptance port target ty => exact execLedgerAcceptance_reach port target ty h
  | dequeue port target => exact execDequeue_reach port target h
  | createQueue port => exact execCreateQueue_reach port h
  | destroyQueue port target => exact execDestroyQueue_reach port target h
  | grant port target => exact execGrant_reach port target h
  | revoke port target => exact execRevoke_reach port target h
  | registerGraph port => exact execRegisterGraph_reach port h
  | deregisterGraph port => exact execDeregisterGraph_reach port h
  | graphDeregistrationDone graph => exact execGraphDeregistrationDone_reach graph h
  | tokenArrival handle key failed => exact execTokenArrival_reach handle key failed h
  | dispatch engine => exact execDispatch_reach engine h
  | descriptorFetch engine => exact execDescriptorFetch_reach engine h
  | taskStart engine => exact execTaskStart_reach engine h
  | blockStepEnd engine mismatch => exact execBlockStepEnd_reach engine mismatch h
  | abftRecomputeDone engine ok => exact execAbftRecomputeDone_reach engine ok h
  | preemptSave engine => exact execPreemptSave_reach engine h
  | taskEnd engine cycles => exact execTaskEnd_reach engine cycles h
  | commit task => exact execCommit_reach task h
  | heldEffectRelease queue seq => exact execHeldEffectRelease_reach queue seq h
  | queueAppend task => exact execQueueAppend_reach task h
  | budgetExpiry engine => exact execBudgetExpiry_reach engine h
  | midstreamFault task reason => exact execMidstreamFault_reach task reason h
  | faultResume sender hold handle => exact execFaultResume_reach sender hold handle h
  | faultResumeAbandon sender hold handle => exact execFaultResumeAbandon_reach sender hold handle h
  | holdLimitExpiry hold => exact execHoldLimitExpiry_reach hold h
  | progressWatchdog cycle => exact execProgressWatchdog_reach cycle h
  | bandFilled task record => exact execBandFilled_reach task record h
  | bandReleased task record => exact execBandReleased_reach task record h
  | delayFire index => exact execDelayFire_reach index h
  | slotInstanceCreate graph => exact execSlotInstanceCreate_reach graph h
  | nop task => exact execNop_reach task h
  | delay task => exact execDelay_reach task h
  | instantiate task => exact execInstantiate_reach task h
  | post task => exact execPost_reach task h
  | copy engine => exact execCopy_reach engine h
  | fill engine => exact execFill_reach engine h
  | gather engine => exact execGather_reach engine h
  | scatter engine => exact execScatter_reach engine h
  | matmul engine => exact execMatmul_reach engine h
  | conv2d engine => exact execConv2d_reach engine h
  | dwconv2d engine => exact execDwconv2d_reach engine h
  | tconv2d engine => exact execTconv2d_reach engine h
  | eltwise engine => exact execEltwise_reach engine h
  | unary engine => exact execUnary_reach engine h
  | quantize engine => exact execQuantize_reach engine h
  | dequantize engine => exact execDequantize_reach engine h
  | cmatmul engine => exact execCmatmul_reach engine h
  | reduce engine => exact execReduce_reach engine h
  | softmax engine => exact execSoftmax_reach engine h
  | layernorm engine => exact execLayernorm_reach engine h
  | rmsnorm engine => exact execRmsnorm_reach engine h
  | argmax engine => exact execArgmax_reach engine h
  | topk engine => exact execTopk_reach engine h
  | attention engine => exact execAttention_reach engine h
  | routeGather engine => exact execRouteGather_reach engine h
  | routeCombine engine => exact execRouteCombine_reach engine h
  | ispFrame engine => exact execIspFrame_reach engine h
  | pyrBuild engine => exact execPyrBuild_reach engine h
  | pyrLaplace engine => exact execPyrLaplace_reach engine h
  | warpMesh engine => exact execWarpMesh_reach engine h
  | warpHomog engine => exact execWarpHomog_reach engine h
  | flow engine => exact execFlow_reach engine h
  | stereo engine => exact execStereo_reach engine h
  | featDetect engine => exact execFeatDetect_reach engine h
  | featMatch engine => exact execFeatMatch_reach engine h
  | dfeDdc engine => exact execDfeDdc_reach engine h
  | dfeDuc engine => exact execDfeDuc_reach engine h
  | fft engine => exact execFft_reach engine h
  | ifft engine => exact execIfft_reach engine h
  | prachDetect engine => exact execPrachDetect_reach engine h
  | ldpcDecode engine => exact execLdpcDecode_reach engine h
  | ldpcEncode engine => exact execLdpcEncode_reach engine h
  | polarEncode engine => exact execPolarEncode_reach engine h
  | polarDecode engine => exact execPolarDecode_reach engine h
  | fhTx engine => exact execFhTx_reach engine h
  | fhRx engine => exact execFhRx_reach engine h
  | crc32c engine => exact execCrc32c_reach engine h
  | compare engine => exact execCompare_reach engine h
  | cairnCheck engine => exact execCairnCheck_reach engine h
  | sendShard engine => exact execSendShard_reach engine h
  | recvShard engine => exact execRecvShard_reach engine h
  | allReduce engine => exact execAllReduce_reach engine h
  | allGather engine => exact execAllGather_reach engine h
  | packetReceive port vc dt payload header crcOk => exact execPacketReceive_reach port vc dt payload header crcOk h
  | deskew port passed => exact execDeskew_reach port passed h
  | csiLinkLoss port => exact execCsiLinkLoss_reach port h
  | frameStart cam csiFrame => exact execFrameStart_reach cam csiFrame h
  | frameEnd cam csiFrame => exact execFrameEnd_reach cam csiFrame h
  | frameTimeout cam => exact execFrameTimeout_reach cam h
  | camArm sender cam => exact execCamArm_reach sender cam h
  | camDisarm sender cam => exact execCamDisarm_reach sender cam h
  | exposureRequest sender cam block => exact execExposureRequest_reach sender cam block h
  | busListStart sender port addr => exact execBusListStart_reach sender port addr h
  | busTransferComplete port data => exact execBusTransferComplete_reach port data h
  | busTransferFail port => exact execBusTransferFail_reach port h
  | ispCtlApply => exact execIspCtlApply_reach h
  | hallFlagAdv sender flag => exact execHallFlagAdv_reach sender flag h
  | hallFlagThrWrite sender flag thr => exact execHallFlagThrWrite_reach sender flag thr h
  | hallRecordActivate sender record base copiesM1 => exact execHallRecordActivate_reach sender record base copiesM1 h
  | dmaStart sender ch => exact execDmaStart_reach sender ch h
  | dmaArm sender ch => exact execDmaArm_reach sender ch h
  | dmaDisarm sender ch => exact execDmaDisarm_reach sender ch h
  | dmaStop sender ch => exact execDmaStop_reach sender ch h
  | dmaAbort sender ch => exact execDmaAbort_reach sender ch h
  | crateFetchDone ch => exact execCrateFetchDone_reach ch h
  | descriptorComplete ch => exact execDescriptorComplete_reach ch h
  | writebackAck ch => exact execWritebackAck_reach ch h
  | dmaTransferError ch => exact execDmaTransferError_reach ch h
  | fetchTimeout ch => exact execFetchTimeout_reach ch h
  | descriptorTimeout ch => exact execDescriptorTimeout_reach ch h
  | dmaDrainComplete ch => exact execDmaDrainComplete_reach ch h
  | streamShareWrite sender part value => exact execStreamShareWrite_reach sender part value h
  | fenceDrainEnd domain => exact execFenceDrainEnd_reach domain h
  | fenceDrainDeclaration domain => exact execFenceDrainDeclaration_reach domain h
  | rung1Reset engine handle => exact execRung1Reset_reach engine handle h
  | rung2Reset engine => exact execRung2Reset_reach engine h
  | rung3Reset part => exact execRung3Reset_reach part h
  | chipReset cause => exact execChipReset_reach cause h
  | powerCycleRequest reason => exact execPowerCycleRequest_reach reason h
  | rungLimitExpiry reset => exact execRungLimitExpiry_reach reset h
  | resetComplete reset => exact execResetComplete_reach reset h
  | replayChip => exact execReplayChip_reach h
  | engineHangWatchdog engine => exact execEngineHangWatchdog_reach engine h
  | wdtKick sender => exact execWdtKick_reach sender h
  | bccWatchdogExpiry => exact execBccWatchdogExpiry_reach h
  | heartbeatLoss block => exact execHeartbeatLoss_reach block h
  | resetIn => exact execResetIn_reach h
  | resetInRelease => exact execResetInRelease_reach h
  | smbusBlockReadA0 => exact execSmbusBlockReadA0_reach h
  | returnToService sender addr => exact execReturnToService_reach sender addr h
  | startService sender => exact execStartService_reach sender h
  | timeStep sender offset => exact execTimeStep_reach sender offset h
  | ppsInEdge => exact execPpsInEdge_reach h
  | ppsOutRise => exact execPpsOutRise_reach h
  | ppsOutFall => exact execPpsOutFall_reach h
  | timeLocked offset => exact execTimeLocked_reach offset h
  | holdover error => exact execHoldover_reach error h
  | gateDecision pipe inst => exact execGateDecision_reach pipe inst h
  | gateDeadline pipe inst => exact execGateDeadline_reach pipe inst h
  | checkerCompare pipe task crc => exact execCheckerCompare_reach pipe task crc h
  | safeClear sender pipe => exact execSafeClear_reach sender pipe h
  | safeEnter sender pipe => exact execSafeEnter_reach sender pipe h
  | pipelineEnable sender pipe => exact execPipelineEnable_reach sender pipe h
  | sealEnable sender record base => exact execSealEnable_reach sender record base h
  | belayEnable sender window => exact execBelayEnable_reach sender window h
  | belayArm sender window => exact execBelayArm_reach sender window h
  | belayDisarm sender window => exact execBelayDisarm_reach sender window h
  | belayWindowDecision window => exact execBelayWindowDecision_reach window h
  | cairnEnable sender cairn => exact execCairnEnable_reach sender cairn h
  | cairnDue cairn => exact execCairnDue_reach cairn h
  | cairnWindowExpiry cairn => exact execCairnWindowExpiry_reach cairn h
  | bistStart sender unit => exact execBistStart_reach sender unit h
  | bistAbort sender => exact execBistAbort_reach sender h
  | bistDrainLimit => exact execBistDrainLimit_reach h
  | lbistComplete misrPort misrBody broken worst => exact execLbistComplete_reach misrPort misrBody broken worst h
  | mbistComplete failing => exact execMbistComplete_reach failing h
  | rotationDue => exact execRotationDue_reach h
  | bistRetry => exact execBistRetry_reach h
  | bistBypassWrite sender engines => exact execBistBypassWrite_reach sender engines h
  | railInvalid rail => exact execRailInvalid_reach rail h
  | railValid rail => exact execRailValid_reach rail h
  | powerOn => exact execPowerOn_reach h
  | bccResetRelease => exact execBccResetRelease_reach h
  | refAoLoss => exact execRefAoLoss_reach h
  | warmStandbyEntry engine => exact execWarmStandbyEntry_reach engine h
  | coldEntry engine => exact execColdEntry_reach engine h
  | pllStop domain => exact execPllStop_reach domain h
  | wakeComplete engine => exact execWakeComplete_reach engine h
  | domainSwitch sender domain on => exact execDomainSwitch_reach sender domain on h
  | pllUnlock domain => exact execPllUnlock_reach domain h
  | pllRelockTimeout domain => exact execPllRelockTimeout_reach domain h
  | powerEvaluation mw => exact execPowerEvaluation_reach mw h
  | monitorSample kind index value => exact execMonitorSample_reach kind index value h
  | droopDetect part => exact execDroopDetect_reach part h
  | boot port body macros ring => exact execBoot_reach port body macros ring h
  | measurementExtend sender layer addr => exact execMeasurementExtend_reach sender layer addr h
  | attestationRequest sender addr => exact execAttestationRequest_reach sender addr h
  | attestationReportDone => exact execAttestationReportDone_reach h
  | firmwareUpdate sender addr => exact execFirmwareUpdate_reach sender addr h
  | updateWriteDone ok => exact execUpdateWriteDone_reach ok h
  | quiescentTick => exact execQuiescentTick_reach h
  | updateWaitTimeout => exact execUpdateWaitTimeout_reach h
  | updateCommit => exact execUpdateCommit_reach h
  | updateRevert => exact execUpdateRevert_reach h
  | svnCommitBcc sender => exact execSvnCommitBcc_reach sender h
  | svnCommitApp sender => exact execSvnCommitApp_reach sender h
  | idcode => exact execIdcode_reach h
  | tapBypass => exact execTapBypass_reach h
  | debugChallenge => exact execDebugChallenge_reach h
  | debugResponse data => exact execDebugResponse_reach data h
  | extest pins => exact execExtest_reach pins h
  | extestExit => exact execExtestExit_reach h
  | ethFrameReceive port frame => exact execEthFrameReceive_reach port frame h
  | ethFrameTransmit port => exact execEthFrameTransmit_reach port h
  | rxBufferReturn sender port index => exact execRxBufferReturn_reach sender port index h
  | ethLinkUp port => exact execEthLinkUp_reach port h
  | ethLinkDown port => exact execEthLinkDown_reach port h
  | lldpSend port => exact execLldpSend_reach port h
  | lldpTtlExpiry port => exact execLldpTtlExpiry_reach port h
  | rdmaWriteReceive qp psn form rkey addr len data ce => exact execRdmaWriteReceive_reach qp psn form rkey addr len data ce h
  | rdmaReadReceive qp psn rkey addr len => exact execRdmaReadReceive_reach qp psn rkey addr len h
  | roceSendReceive qp psn form message ce => exact execRoceSendReceive_reach qp psn form message ce h
  | roceAckReceive qp psn nak => exact execRoceAckReceive_reach qp psn nak h
  | cnpReceive qp => exact execCnpReceive_reach qp h
  | ackTimeout qp => exact execAckTimeout_reach qp h
  | rateWindowEnd qp => exact execRateWindowEnd_reach qp h
  | resetNotice job rank => exact execResetNotice_reach job rank h
  | transferDiscard index => exact execTransferDiscard_reach index h
  | jobAbort sender job step => exact execJobAbort_reach sender job step h
  | jobResume sender job => exact execJobResume_reach sender job h
  | pcieLinkUp speed width => exact execPcieLinkUp_reach speed width h
  | pcieLinkDown => exact execPcieLinkDown_reach h
  | msiReceive addr data => exact execMsiReceive_reach addr data h
  | sysrefEdge => exact execSysrefEdge_reach h
  | jesdLinkError link sync => exact execJesdLinkError_reach link sync h
  | symbolBoundary carrier samples => exact execSymbolBoundary_reach carrier samples h
  | symbolLaunch carrier => exact execSymbolLaunch_reach carrier h
  | fhWindowOpen peer => exact execFhWindowOpen_reach peer h
  | fhWindowClose peer => exact execFhWindowClose_reach peer h
  | pllRelocked domain => exact execPllRelocked_reach domain h
  | servoStart => exact execServoStart_reach h
  | droopStretchEnd part => exact execDroopStretchEnd_reach part h
  | updateVerificationDone => exact execUpdateVerificationDone_reach h
  | ledgerCopyRewritten queue => exact execLedgerCopyRewritten_reach queue h
  | rdmaReadResponse qp psn data => exact execRdmaReadResponse_reach qp psn data h

end Sys2Proof.Machine
end

