-- ==== Sys2Proof/Laws/Memory.lean ====
section
/-! SUPPORT. Memory and the register table as lists in canonical form: what a read gives after a write, and that every operation keeps
the form. -/

namespace Sys2Proof.Machine

open Sys2Proof

/-! ## Memory -/

/-- The canonical form, entry by entry. -/
theorem memory_wf_cons {k : Nat} {c : Byte} {t : List Host.Cell} :
    Memory.wf ((k, c) :: t) = true ↔ c ≠ memDefault ∧ (∀ e ∈ t.head?, k < e.1) ∧ Memory.wf t = true := by
  cases t with
  | nil => simp [Memory.wf]
  | cons e u => obtain ⟨k', c'⟩ := e; simp [Memory.wf, and_assoc]

theorem memory_wf_iff {m : List Host.Cell} :
    Memory.wf m = true ↔ m.Pairwise (fun a b => a.1 < b.1) ∧ ∀ e ∈ m, e.2 ≠ memDefault := by
  induction m with
  | nil => simp [Memory.wf]
  | cons e t ih =>
    obtain ⟨k, c⟩ := e
    rw [memory_wf_cons, ih, List.pairwise_cons]
    constructor
    · rintro ⟨hc, hk, hp, ht⟩
      refine ⟨⟨fun x hx => ?_, hp⟩, by simpa [hc] using ht⟩
      cases t with
      | nil => simp at hx
      | cons y u =>
        have hy := hk y (by simp)
        rcases List.mem_cons.mp hx with rfl | hu
        · exact hy
        · exact lt_trans hy ((List.pairwise_cons.mp hp).1 x hu)
    · rintro ⟨⟨hk, hp⟩, ht⟩
      refine ⟨ht _ List.mem_cons_self, fun x hx => hk x (List.mem_of_mem_head? hx), hp, fun x hx => ht x (by simp [hx])⟩

theorem memPut_keys {m : List Host.Cell} {a : Nat} {b : Byte} {e : Host.Cell} (h : e ∈ memPut m a b) :
    e ∈ m ∨ e = (a, b) ∧ b ≠ memDefault := by
  induction m with
  | nil =>
    simp only [memPut] at h
    split at h <;> simp_all
  | cons x t ih =>
    obtain ⟨k, c⟩ := x
    simp only [memPut] at h
    split at h
    · split at h <;> simp_all
      tauto
    · split at h
      · split at h <;> simp_all
        tauto
      · simp only [List.mem_cons] at h ⊢
        rcases h with h | h
        · exact .inl (.inl h)
        · rcases ih h with h | h
          · exact .inl (.inr h)
          · exact .inr h

/-- Storing a byte keeps the canonical form. -/
theorem memPut_wf {m : List Host.Cell} (a : Nat) (b : Byte) (h : Memory.wf m = true) : Memory.wf (memPut m a b) = true := by
  rw [memory_wf_iff] at *
  refine ⟨?_, fun e he => ?_⟩
  · obtain ⟨hp, -⟩ := h
    induction m with
    | nil =>
      simp only [memPut]
      split <;> simp
    | cons x t ih =>
      obtain ⟨k, c⟩ := x
      obtain ⟨hk, ht⟩ := List.pairwise_cons.mp hp
      simp only [memPut]
      split
      · split
        · exact hp
        · refine List.pairwise_cons.mpr ⟨fun e he => ?_, hp⟩
          rcases List.mem_cons.mp he with rfl | he
          · assumption
          · exact lt_trans ‹_› (hk e he)
      · split
        · split
          · exact ht
          · exact List.pairwise_cons.mpr ⟨fun e he => by have := hk e he; simp_all, ht⟩
        · refine List.pairwise_cons.mpr ⟨fun e he => ?_, ih ht⟩
          rcases memPut_keys he with he | ⟨rfl, -⟩
          · exact hk e he
          · simp only
            omega
  · rcases memPut_keys he with he | ⟨rfl, hb⟩
    · exact h.2 e he
    · exact hb

/-- Storing consecutive bytes keeps the canonical form. -/
theorem memPutAll_wf {m : List Host.Cell} (a : Nat) (bs : List Byte) (h : Memory.wf m = true) :
    Memory.wf (memPutAll m a bs) = true := by
  induction bs generalizing m a with
  | nil => exact h
  | cons b t ih => exact ih _ (memPut_wf a b h)

/-- Clearing addresses keeps the canonical form. -/
theorem memory_filter_wf {m : List Host.Cell} (p : Host.Cell → Bool) (h : Memory.wf m = true) :
    Memory.wf (m.filter p) = true := by
  rw [memory_wf_iff] at *
  exact ⟨h.1.filter p, fun e he => h.2 e (List.mem_filter.mp he).1⟩

theorem memGet_of_lt {m : List Host.Cell} {a : Nat} (h : ∀ e ∈ m, a < e.1) : memGet m a = memDefault := by
  induction m with
  | nil => rfl
  | cons x t ih =>
    obtain ⟨k, c⟩ := x
    have hk : a < k := h _ List.mem_cons_self
    rw [memGet, if_neg (by omega)]
    exact ih fun e he => h e (by simp [he])

/-- A read after a one-byte write: the byte written at its address, the old byte elsewhere. -/
theorem memGet_memPut {m : List Host.Cell} (h : Memory.wf m = true) (a : Nat) (b : Byte) (x : Nat) :
    memGet (memPut m a b) x = if x = a then b else memGet m x := by
  rw [memory_wf_iff] at h
  obtain ⟨hp, -⟩ := h
  induction m with
  | nil =>
    simp only [memPut]
    split <;> simp_all [memGet, eq_comm]
  | cons y t ih =>
    obtain ⟨k, c⟩ := y
    obtain ⟨hk, ht⟩ := List.pairwise_cons.mp hp
    simp only [memPut]
    split
    · next hak =>
      split
      · next hb =>
        split
        · next hx =>
          rw [hx, hb]
          refine memGet_of_lt fun e he => ?_
          rcases List.mem_cons.mp he with rfl | he
          · exact hak
          · exact lt_trans hak (hk e he)
        · rfl
      · simp only [memGet, eq_comm (a := a)]
    · split
      · next hak =>
        subst hak
        split
        · next hb =>
          split
          · next hx =>
            rw [hx, hb]
            exact memGet_of_lt fun e he => hk e he
          · next hx => rw [memGet, if_neg (Ne.symm hx)]
        · simp only [memGet, eq_comm (a := a)]
          split <;> rfl
      · next h1 h2 =>
        simp only [memGet]
        split
        · next hx =>
          rw [if_neg (by omega)]
        · exact ih ht

/-- A read after a write of consecutive bytes. -/
theorem memGet_memPutAll {m : List Host.Cell} (h : Memory.wf m = true) (a : Nat) (bs : List Byte) (x : Nat) :
    memGet (memPutAll m a bs) x = if a ≤ x ∧ x < a + bs.length then bs.getD (x - a) 0#8 else memGet m x := by
  induction bs generalizing m a with
  | nil => simp [memPutAll]
  | cons b t ih =>
    rw [memPutAll, ih (memPut_wf a b h), memGet_memPut h]
    simp only [List.length_cons]
    by_cases hx : x = a
    · subst hx
      simp
    · by_cases hr : a + 1 ≤ x ∧ x < a + 1 + t.length
      · rw [if_pos hr, if_pos (by omega)]
        obtain ⟨d, hd⟩ : ∃ d, x - a = d + 1 := ⟨x - a - 1, by omega⟩
        rw [hd, List.getD_cons_succ]
        congr 1
        omega
      · rw [if_neg hr, if_neg hx, if_neg (by omega)]

/-- A read after addresses were cleared. -/
theorem memGet_clear {m : List Host.Cell} (lo hi x : Nat) (h : Memory.wf m = true) :
    memGet (m.filter fun c => c.1 < lo || hi ≤ c.1) x = if lo ≤ x ∧ x < hi then memDefault else memGet m x := by
  rw [memory_wf_iff] at h
  obtain ⟨hp, -⟩ := h
  induction m with
  | nil => simp [memGet]
  | cons y t ih =>
    obtain ⟨k, c⟩ := y
    obtain ⟨hk, ht⟩ := List.pairwise_cons.mp hp
    rw [List.filter_cons]
    split
    · next hc =>
      simp only [Bool.or_eq_true, decide_eq_true_eq] at hc
      simp only [memGet]
      by_cases hx : k = x
      · rw [if_pos hx, if_neg (by omega), if_pos hx]
      · rw [if_neg hx, if_neg hx, ih ht]
    · next hc =>
      simp only [Bool.or_eq_true, decide_eq_true_eq, not_or, not_lt, not_le] at hc
      rw [ih ht]
      split
      · rfl
      · rw [memGet, if_neg (by omega)]

/-! ## Tables -/

theorem tblSorted_iff {α : Type} {t : Tbl α} : tblSorted t = true ↔ t.Pairwise (fun a b => a.1 < b.1) := by
  induction t with
  | nil => simp [tblSorted]
  | cons e u ih =>
    obtain ⟨k, v⟩ := e
    cases u with
    | nil => simp [tblSorted]
    | cons e' w =>
      obtain ⟨k', v'⟩ := e'
      rw [tblSorted, Bool.and_eq_true, ih, decide_eq_true_eq, List.pairwise_cons (a := (k, v))]
      constructor
      · rintro ⟨hk, hp⟩
        refine ⟨fun x hx => ?_, hp⟩
        rcases List.mem_cons.mp hx with rfl | hx
        · exact hk
        · exact lt_trans hk ((List.pairwise_cons.mp hp).1 x hx)
      · rintro ⟨hk, hp⟩
        exact ⟨hk _ List.mem_cons_self, hp⟩

theorem tblSet_mem {α : Type} {t : Tbl α} {i : Nat} {v : α} {e : Nat × α} (h : e ∈ tblSet t i v) : e ∈ t ∨ e = (i, v) := by
  induction t with
  | nil => simpa [tblSet] using h
  | cons x u ih =>
    obtain ⟨k, w⟩ := x
    simp only [tblSet] at h
    split at h
    · simp_all
      tauto
    · split at h
      · simp_all
        tauto
      · simp only [List.mem_cons] at h ⊢
        rcases h with h | h
        · exact .inl (.inl h)
        · rcases ih h with h | h
          · exact .inl (.inr h)
          · exact .inr h

theorem tblDel_sublist {α : Type} (t : Tbl α) (i : Nat) : (tblDel t i).Sublist t := by
  induction t with
  | nil => simp [tblDel]
  | cons x u ih =>
    simp only [tblDel]
    split
    · exact List.sublist_cons_self _ _
    · exact ih.cons_cons _

theorem tblSet_sorted {α : Type} {t : Tbl α} (i : Nat) (v : α) (h : tblSorted t = true) : tblSorted (tblSet t i v) = true := by
  rw [tblSorted_iff] at *
  induction t with
  | nil => simp [tblSet]
  | cons x u ih =>
    obtain ⟨k, w⟩ := x
    obtain ⟨hk, hu⟩ := List.pairwise_cons.mp h
    simp only [tblSet]
    split
    · refine List.pairwise_cons.mpr ⟨fun e he => ?_, h⟩
      rcases List.mem_cons.mp he with rfl | he
      · assumption
      · exact lt_trans ‹_› (hk e he)
    · split
      · exact List.pairwise_cons.mpr ⟨fun e he => by have := hk e he; simp_all, hu⟩
      · refine List.pairwise_cons.mpr ⟨fun e he => ?_, ih hu⟩
        rcases tblSet_mem he with he | rfl
        · exact hk e he
        · simp only
          omega

/-- A lookup after a set: the value set at its key, the old answer elsewhere. -/
@[simp] theorem tblFind_tblSet_same {α : Type} (t : Tbl α) (i : Nat) (v : α) : tblFind (tblSet t i v) i = some v := by
  induction t with
  | nil => simp [tblSet, tblFind]
  | cons x u ih =>
    obtain ⟨k, w⟩ := x
    simp only [tblSet]
    split
    · simp [tblFind]
    · split
      · simp [tblFind]
      · rw [tblFind, if_neg (by omega)]
        exact ih

theorem tblFind_tblSet {α : Type} (t : Tbl α) {i j : Nat} (v : α) (h : j ≠ i) : tblFind (tblSet t i v) j = tblFind t j := by
  induction t with
  | nil => simp [tblSet, tblFind, Ne.symm h]
  | cons x u ih =>
    obtain ⟨k, w⟩ := x
    simp only [tblSet]
    split
    · rw [tblFind, if_neg (Ne.symm h)]
    · split
      · next hik => simp only [tblFind, if_neg (Ne.symm h), ← hik]
      · simp only [tblFind, ih]

@[simp] theorem tblGet_tblSet_same {α : Type} (t : Tbl α) (d : α) (i : Nat) (v : α) : tblGet (tblSet t i v) d i = v := by
  simp [tblGet]

theorem tblGet_tblSet {α : Type} (t : Tbl α) (d : α) {i j : Nat} (v : α) (h : j ≠ i) :
    tblGet (tblSet t i v) d j = tblGet t d j := by
  rw [tblGet, tblFind_tblSet t v h, tblGet]

theorem tblFind_none_of_lt {α : Type} {t : Tbl α} {i : Nat} (h : ∀ e ∈ t, i < e.1) : tblFind t i = none := by
  induction t with
  | nil => rfl
  | cons x u ih =>
    obtain ⟨k, w⟩ := x
    have : i < k := h _ List.mem_cons_self
    rw [tblFind, if_neg (by omega)]
    exact ih fun e he => h e (by simp [he])

theorem tblFind_tblDel {α : Type} {t : Tbl α} (h : tblSorted t = true) (i j : Nat) :
    tblFind (tblDel t i) j = if j = i then none else tblFind t j := by
  rw [tblSorted_iff] at h
  induction t with
  | nil => simp [tblDel, tblFind]
  | cons x u ih =>
    obtain ⟨k, w⟩ := x
    obtain ⟨hk, hu⟩ := List.pairwise_cons.mp h
    simp only [tblDel]
    split
    · next hki =>
      subst hki
      split
      · next hj =>
        subst hj
        exact tblFind_none_of_lt hk
      · next hj => rw [tblFind, if_neg (Ne.symm hj)]
    · next hki =>
      rw [tblFind, ih hu, tblFind]
      split
      · next hkj => rw [if_neg (by omega)]
      · rfl

/-! ## Registers -/

/-- Storing a register keeps the canonical form. -/
theorem regPut_wf {rs : Tbl Word} (off : Nat) (v : Word) (h : Registers.wf rs = true) : Registers.wf (regPut rs off v) = true := by
  simp only [Registers.wf, Bool.and_eq_true, List.all_eq_true, bne_iff_ne] at *
  obtain ⟨hs, ha⟩ := h
  unfold regPut
  split
  · refine ⟨?_, fun e he => ha e ((tblDel_sublist rs off).subset he)⟩
    rw [tblSorted_iff] at *
    exact hs.sublist (tblDel_sublist rs off)
  · next hv =>
    refine ⟨tblSet_sorted off v hs, fun e he => ?_⟩
    rcases tblSet_mem he with he | rfl
    · exact ha e he
    · exact hv

theorem registers_filter_wf {rs : Tbl Word} (p : Nat × Word → Bool) (h : Registers.wf rs = true) :
    Registers.wf (rs.filter p) = true := by
  simp only [Registers.wf, Bool.and_eq_true, List.all_eq_true, bne_iff_ne] at *
  obtain ⟨hs, ha⟩ := h
  rw [tblSorted_iff] at *
  exact ⟨hs.filter p, fun e he => ha e (List.mem_filter.mp he).1⟩

/-- A register read after a register write. -/
theorem regGet_regPut {rs : Tbl Word} (h : Registers.wf rs = true) (off : Nat) (v : Word) (x : Nat) :
    regGet (regPut rs off v) x = if x = off then v else regGet rs x := by
  simp only [Registers.wf, Bool.and_eq_true] at h
  unfold regGet regPut
  split
  · next hv =>
    rw [tblFind_tblDel h.1]
    split
    · next hx => rw [hx, hv]; rfl
    · rfl
  · split
    · next hx => rw [hx, tblFind_tblSet_same]; rfl
    · next hx => rw [tblFind_tblSet rs v hx]

end Sys2Proof.Machine
end

