-- ==== Sys2Proof/Laws/State.lean ====
section
/-! SUPPORT. What each update of the state leaves of each component: one lemma for each pair, so that no proof unfolds a record update. -/

namespace Sys2Proof.Machine

open Sys2Proof

/-! ### The update `mem` -/

section
variable (a : Nat) (b : List Byte) (s : State)

@[simp] theorem apply_mem_pending : ((Upd.mem a b).apply s).pending = s.pending := rfl
@[simp] theorem apply_mem_out : ((Upd.mem a b).apply s).out = s.out := rfl
@[simp] theorem apply_mem_free : ((Upd.mem a b).apply s).free = s.free := rfl
@[simp] theorem apply_mem_clock : ((Upd.mem a b).apply s).clock = s.clock := rfl
@[simp] theorem apply_mem_mem : ((Upd.mem a b).apply s).mem = memPutAll s.mem a b := rfl
@[simp] theorem apply_mem_regs : ((Upd.mem a b).apply s).regs = s.regs := rfl
@[simp] theorem apply_mem_sys : ((Upd.mem a b).apply s).sys = s.sys := rfl
@[simp] theorem apply_mem_tally : ((Upd.mem a b).apply s).tally = s.tally := rfl
@[simp] theorem apply_mem_engines : ((Upd.mem a b).apply s).engines = s.engines := rfl
@[simp] theorem apply_mem_dma : ((Upd.mem a b).apply s).dma = s.dma := rfl
@[simp] theorem apply_mem_rcv : ((Upd.mem a b).apply s).rcv = s.rcv := rfl
@[simp] theorem apply_mem_hall : ((Upd.mem a b).apply s).hall = s.hall := rfl
@[simp] theorem apply_mem_sent : ((Upd.mem a b).apply s).sent = s.sent := rfl
@[simp] theorem apply_mem_pins : ((Upd.mem a b).apply s).pins = s.pins := rfl
@[simp] theorem apply_mem_fabric : ((Upd.mem a b).apply s).fabric = s.fabric := rfl
@[simp] theorem apply_mem_power : ((Upd.mem a b).apply s).power = s.power := rfl
@[simp] theorem apply_mem_store : ((Upd.mem a b).apply s).store = s.store := rfl
@[simp] theorem apply_mem_sec : ((Upd.mem a b).apply s).sec = s.sec := rfl
@[simp] theorem apply_mem_bist : ((Upd.mem a b).apply s).bist = s.bist := rfl
@[simp] theorem apply_mem_safe : ((Upd.mem a b).apply s).safe = s.safe := rfl
@[simp] theorem apply_mem_cams : ((Upd.mem a b).apply s).cams = s.cams := rfl
@[simp] theorem apply_mem_radio : ((Upd.mem a b).apply s).radio = s.radio := rfl
@[simp] theorem apply_mem_eth : ((Upd.mem a b).apply s).eth = s.eth := rfl

end

/-! ### The update `memClear` -/

section
variable (a b : Nat) (s : State)

@[simp] theorem apply_memClear_pending : ((Upd.memClear a b).apply s).pending = s.pending := rfl
@[simp] theorem apply_memClear_out : ((Upd.memClear a b).apply s).out = s.out := rfl
@[simp] theorem apply_memClear_free : ((Upd.memClear a b).apply s).free = s.free := rfl
@[simp] theorem apply_memClear_clock : ((Upd.memClear a b).apply s).clock = s.clock := rfl
@[simp] theorem apply_memClear_mem : ((Upd.memClear a b).apply s).mem = s.mem.filter fun c => c.1 < a || b ≤ c.1 := rfl
@[simp] theorem apply_memClear_regs : ((Upd.memClear a b).apply s).regs = s.regs := rfl
@[simp] theorem apply_memClear_sys : ((Upd.memClear a b).apply s).sys = s.sys := rfl
@[simp] theorem apply_memClear_tally : ((Upd.memClear a b).apply s).tally = s.tally := rfl
@[simp] theorem apply_memClear_engines : ((Upd.memClear a b).apply s).engines = s.engines := rfl
@[simp] theorem apply_memClear_dma : ((Upd.memClear a b).apply s).dma = s.dma := rfl
@[simp] theorem apply_memClear_rcv : ((Upd.memClear a b).apply s).rcv = s.rcv := rfl
@[simp] theorem apply_memClear_hall : ((Upd.memClear a b).apply s).hall = s.hall := rfl
@[simp] theorem apply_memClear_sent : ((Upd.memClear a b).apply s).sent = s.sent := rfl
@[simp] theorem apply_memClear_pins : ((Upd.memClear a b).apply s).pins = s.pins := rfl
@[simp] theorem apply_memClear_fabric : ((Upd.memClear a b).apply s).fabric = s.fabric := rfl
@[simp] theorem apply_memClear_power : ((Upd.memClear a b).apply s).power = s.power := rfl
@[simp] theorem apply_memClear_store : ((Upd.memClear a b).apply s).store = s.store := rfl
@[simp] theorem apply_memClear_sec : ((Upd.memClear a b).apply s).sec = s.sec := rfl
@[simp] theorem apply_memClear_bist : ((Upd.memClear a b).apply s).bist = s.bist := rfl
@[simp] theorem apply_memClear_safe : ((Upd.memClear a b).apply s).safe = s.safe := rfl
@[simp] theorem apply_memClear_cams : ((Upd.memClear a b).apply s).cams = s.cams := rfl
@[simp] theorem apply_memClear_radio : ((Upd.memClear a b).apply s).radio = s.radio := rfl
@[simp] theorem apply_memClear_eth : ((Upd.memClear a b).apply s).eth = s.eth := rfl

end

/-! ### The update `regClear` -/

section
variable (a b : Nat) (s : State)

@[simp] theorem apply_regClear_pending : ((Upd.regClear a b).apply s).pending = s.pending := rfl
@[simp] theorem apply_regClear_out : ((Upd.regClear a b).apply s).out = s.out := rfl
@[simp] theorem apply_regClear_free : ((Upd.regClear a b).apply s).free = s.free := rfl
@[simp] theorem apply_regClear_clock : ((Upd.regClear a b).apply s).clock = s.clock := rfl
@[simp] theorem apply_regClear_mem : ((Upd.regClear a b).apply s).mem = s.mem := rfl
@[simp] theorem apply_regClear_regs : ((Upd.regClear a b).apply s).regs = s.regs.filter fun c => c.1 < a || b ≤ c.1 := rfl
@[simp] theorem apply_regClear_sys : ((Upd.regClear a b).apply s).sys = s.sys := rfl
@[simp] theorem apply_regClear_tally : ((Upd.regClear a b).apply s).tally = s.tally := rfl
@[simp] theorem apply_regClear_engines : ((Upd.regClear a b).apply s).engines = s.engines := rfl
@[simp] theorem apply_regClear_dma : ((Upd.regClear a b).apply s).dma = s.dma := rfl
@[simp] theorem apply_regClear_rcv : ((Upd.regClear a b).apply s).rcv = s.rcv := rfl
@[simp] theorem apply_regClear_hall : ((Upd.regClear a b).apply s).hall = s.hall := rfl
@[simp] theorem apply_regClear_sent : ((Upd.regClear a b).apply s).sent = s.sent := rfl
@[simp] theorem apply_regClear_pins : ((Upd.regClear a b).apply s).pins = s.pins := rfl
@[simp] theorem apply_regClear_fabric : ((Upd.regClear a b).apply s).fabric = s.fabric := rfl
@[simp] theorem apply_regClear_power : ((Upd.regClear a b).apply s).power = s.power := rfl
@[simp] theorem apply_regClear_store : ((Upd.regClear a b).apply s).store = s.store := rfl
@[simp] theorem apply_regClear_sec : ((Upd.regClear a b).apply s).sec = s.sec := rfl
@[simp] theorem apply_regClear_bist : ((Upd.regClear a b).apply s).bist = s.bist := rfl
@[simp] theorem apply_regClear_safe : ((Upd.regClear a b).apply s).safe = s.safe := rfl
@[simp] theorem apply_regClear_cams : ((Upd.regClear a b).apply s).cams = s.cams := rfl
@[simp] theorem apply_regClear_radio : ((Upd.regClear a b).apply s).radio = s.radio := rfl
@[simp] theorem apply_regClear_eth : ((Upd.regClear a b).apply s).eth = s.eth := rfl

end

/-! ### The update `reg` -/

section
variable (a : Nat) (b : Word) (s : State)

@[simp] theorem apply_reg_pending : ((Upd.reg a b).apply s).pending = s.pending := rfl
@[simp] theorem apply_reg_out : ((Upd.reg a b).apply s).out = s.out := rfl
@[simp] theorem apply_reg_free : ((Upd.reg a b).apply s).free = s.free := rfl
@[simp] theorem apply_reg_clock : ((Upd.reg a b).apply s).clock = s.clock := rfl
@[simp] theorem apply_reg_mem : ((Upd.reg a b).apply s).mem = s.mem := rfl
@[simp] theorem apply_reg_regs : ((Upd.reg a b).apply s).regs = regPut s.regs a b := rfl
@[simp] theorem apply_reg_sys : ((Upd.reg a b).apply s).sys = s.sys := rfl
@[simp] theorem apply_reg_tally : ((Upd.reg a b).apply s).tally = s.tally := rfl
@[simp] theorem apply_reg_engines : ((Upd.reg a b).apply s).engines = s.engines := rfl
@[simp] theorem apply_reg_dma : ((Upd.reg a b).apply s).dma = s.dma := rfl
@[simp] theorem apply_reg_rcv : ((Upd.reg a b).apply s).rcv = s.rcv := rfl
@[simp] theorem apply_reg_hall : ((Upd.reg a b).apply s).hall = s.hall := rfl
@[simp] theorem apply_reg_sent : ((Upd.reg a b).apply s).sent = s.sent := rfl
@[simp] theorem apply_reg_pins : ((Upd.reg a b).apply s).pins = s.pins := rfl
@[simp] theorem apply_reg_fabric : ((Upd.reg a b).apply s).fabric = s.fabric := rfl
@[simp] theorem apply_reg_power : ((Upd.reg a b).apply s).power = s.power := rfl
@[simp] theorem apply_reg_store : ((Upd.reg a b).apply s).store = s.store := rfl
@[simp] theorem apply_reg_sec : ((Upd.reg a b).apply s).sec = s.sec := rfl
@[simp] theorem apply_reg_bist : ((Upd.reg a b).apply s).bist = s.bist := rfl
@[simp] theorem apply_reg_safe : ((Upd.reg a b).apply s).safe = s.safe := rfl
@[simp] theorem apply_reg_cams : ((Upd.reg a b).apply s).cams = s.cams := rfl
@[simp] theorem apply_reg_radio : ((Upd.reg a b).apply s).radio = s.radio := rfl
@[simp] theorem apply_reg_eth : ((Upd.reg a b).apply s).eth = s.eth := rfl

end

/-! ### The update `out` -/

section
variable (s : State)

@[simp] theorem apply_out_pending (f : _) : ((Upd.out f).apply s).pending = s.pending := rfl
@[simp] theorem apply_out_out (f : _) : ((Upd.out f).apply s).out = f s.out := rfl
@[simp] theorem apply_out_free (f : _) : ((Upd.out f).apply s).free = s.free := rfl
@[simp] theorem apply_out_clock (f : _) : ((Upd.out f).apply s).clock = s.clock := rfl
@[simp] theorem apply_out_mem (f : _) : ((Upd.out f).apply s).mem = s.mem := rfl
@[simp] theorem apply_out_regs (f : _) : ((Upd.out f).apply s).regs = s.regs := rfl
@[simp] theorem apply_out_sys (f : _) : ((Upd.out f).apply s).sys = s.sys := rfl
@[simp] theorem apply_out_tally (f : _) : ((Upd.out f).apply s).tally = s.tally := rfl
@[simp] theorem apply_out_engines (f : _) : ((Upd.out f).apply s).engines = s.engines := rfl
@[simp] theorem apply_out_dma (f : _) : ((Upd.out f).apply s).dma = s.dma := rfl
@[simp] theorem apply_out_rcv (f : _) : ((Upd.out f).apply s).rcv = s.rcv := rfl
@[simp] theorem apply_out_hall (f : _) : ((Upd.out f).apply s).hall = s.hall := rfl
@[simp] theorem apply_out_sent (f : _) : ((Upd.out f).apply s).sent = s.sent := rfl
@[simp] theorem apply_out_pins (f : _) : ((Upd.out f).apply s).pins = s.pins := rfl
@[simp] theorem apply_out_fabric (f : _) : ((Upd.out f).apply s).fabric = s.fabric := rfl
@[simp] theorem apply_out_power (f : _) : ((Upd.out f).apply s).power = s.power := rfl
@[simp] theorem apply_out_store (f : _) : ((Upd.out f).apply s).store = s.store := rfl
@[simp] theorem apply_out_sec (f : _) : ((Upd.out f).apply s).sec = s.sec := rfl
@[simp] theorem apply_out_bist (f : _) : ((Upd.out f).apply s).bist = s.bist := rfl
@[simp] theorem apply_out_safe (f : _) : ((Upd.out f).apply s).safe = s.safe := rfl
@[simp] theorem apply_out_cams (f : _) : ((Upd.out f).apply s).cams = s.cams := rfl
@[simp] theorem apply_out_radio (f : _) : ((Upd.out f).apply s).radio = s.radio := rfl
@[simp] theorem apply_out_eth (f : _) : ((Upd.out f).apply s).eth = s.eth := rfl

end

/-! ### The update `free` -/

section
variable (s : State)

@[simp] theorem apply_free_pending (f : _) : ((Upd.free f).apply s).pending = s.pending := rfl
@[simp] theorem apply_free_out (f : _) : ((Upd.free f).apply s).out = s.out := rfl
@[simp] theorem apply_free_free (f : _) : ((Upd.free f).apply s).free = f s.free := rfl
@[simp] theorem apply_free_clock (f : _) : ((Upd.free f).apply s).clock = s.clock := rfl
@[simp] theorem apply_free_mem (f : _) : ((Upd.free f).apply s).mem = s.mem := rfl
@[simp] theorem apply_free_regs (f : _) : ((Upd.free f).apply s).regs = s.regs := rfl
@[simp] theorem apply_free_sys (f : _) : ((Upd.free f).apply s).sys = s.sys := rfl
@[simp] theorem apply_free_tally (f : _) : ((Upd.free f).apply s).tally = s.tally := rfl
@[simp] theorem apply_free_engines (f : _) : ((Upd.free f).apply s).engines = s.engines := rfl
@[simp] theorem apply_free_dma (f : _) : ((Upd.free f).apply s).dma = s.dma := rfl
@[simp] theorem apply_free_rcv (f : _) : ((Upd.free f).apply s).rcv = s.rcv := rfl
@[simp] theorem apply_free_hall (f : _) : ((Upd.free f).apply s).hall = s.hall := rfl
@[simp] theorem apply_free_sent (f : _) : ((Upd.free f).apply s).sent = s.sent := rfl
@[simp] theorem apply_free_pins (f : _) : ((Upd.free f).apply s).pins = s.pins := rfl
@[simp] theorem apply_free_fabric (f : _) : ((Upd.free f).apply s).fabric = s.fabric := rfl
@[simp] theorem apply_free_power (f : _) : ((Upd.free f).apply s).power = s.power := rfl
@[simp] theorem apply_free_store (f : _) : ((Upd.free f).apply s).store = s.store := rfl
@[simp] theorem apply_free_sec (f : _) : ((Upd.free f).apply s).sec = s.sec := rfl
@[simp] theorem apply_free_bist (f : _) : ((Upd.free f).apply s).bist = s.bist := rfl
@[simp] theorem apply_free_safe (f : _) : ((Upd.free f).apply s).safe = s.safe := rfl
@[simp] theorem apply_free_cams (f : _) : ((Upd.free f).apply s).cams = s.cams := rfl
@[simp] theorem apply_free_radio (f : _) : ((Upd.free f).apply s).radio = s.radio := rfl
@[simp] theorem apply_free_eth (f : _) : ((Upd.free f).apply s).eth = s.eth := rfl

end

/-! ### The update `clock` -/

section
variable (s : State)

@[simp] theorem apply_clock_pending (f : _) : ((Upd.clock f).apply s).pending = s.pending := rfl
@[simp] theorem apply_clock_out (f : _) : ((Upd.clock f).apply s).out = s.out := rfl
@[simp] theorem apply_clock_free (f : _) : ((Upd.clock f).apply s).free = s.free := rfl
@[simp] theorem apply_clock_clock (f : _) : ((Upd.clock f).apply s).clock = f s.clock := rfl
@[simp] theorem apply_clock_mem (f : _) : ((Upd.clock f).apply s).mem = s.mem := rfl
@[simp] theorem apply_clock_regs (f : _) : ((Upd.clock f).apply s).regs = s.regs := rfl
@[simp] theorem apply_clock_sys (f : _) : ((Upd.clock f).apply s).sys = s.sys := rfl
@[simp] theorem apply_clock_tally (f : _) : ((Upd.clock f).apply s).tally = s.tally := rfl
@[simp] theorem apply_clock_engines (f : _) : ((Upd.clock f).apply s).engines = s.engines := rfl
@[simp] theorem apply_clock_dma (f : _) : ((Upd.clock f).apply s).dma = s.dma := rfl
@[simp] theorem apply_clock_rcv (f : _) : ((Upd.clock f).apply s).rcv = s.rcv := rfl
@[simp] theorem apply_clock_hall (f : _) : ((Upd.clock f).apply s).hall = s.hall := rfl
@[simp] theorem apply_clock_sent (f : _) : ((Upd.clock f).apply s).sent = s.sent := rfl
@[simp] theorem apply_clock_pins (f : _) : ((Upd.clock f).apply s).pins = s.pins := rfl
@[simp] theorem apply_clock_fabric (f : _) : ((Upd.clock f).apply s).fabric = s.fabric := rfl
@[simp] theorem apply_clock_power (f : _) : ((Upd.clock f).apply s).power = s.power := rfl
@[simp] theorem apply_clock_store (f : _) : ((Upd.clock f).apply s).store = s.store := rfl
@[simp] theorem apply_clock_sec (f : _) : ((Upd.clock f).apply s).sec = s.sec := rfl
@[simp] theorem apply_clock_bist (f : _) : ((Upd.clock f).apply s).bist = s.bist := rfl
@[simp] theorem apply_clock_safe (f : _) : ((Upd.clock f).apply s).safe = s.safe := rfl
@[simp] theorem apply_clock_cams (f : _) : ((Upd.clock f).apply s).cams = s.cams := rfl
@[simp] theorem apply_clock_radio (f : _) : ((Upd.clock f).apply s).radio = s.radio := rfl
@[simp] theorem apply_clock_eth (f : _) : ((Upd.clock f).apply s).eth = s.eth := rfl

end

/-! ### The update `sys` -/

section
variable (s : State)

@[simp] theorem apply_sys_pending (f : _) : ((Upd.sys f).apply s).pending = s.pending := rfl
@[simp] theorem apply_sys_out (f : _) : ((Upd.sys f).apply s).out = s.out := rfl
@[simp] theorem apply_sys_free (f : _) : ((Upd.sys f).apply s).free = s.free := rfl
@[simp] theorem apply_sys_clock (f : _) : ((Upd.sys f).apply s).clock = s.clock := rfl
@[simp] theorem apply_sys_mem (f : _) : ((Upd.sys f).apply s).mem = s.mem := rfl
@[simp] theorem apply_sys_regs (f : _) : ((Upd.sys f).apply s).regs = s.regs := rfl
@[simp] theorem apply_sys_sys (f : _) : ((Upd.sys f).apply s).sys = f s.sys := rfl
@[simp] theorem apply_sys_tally (f : _) : ((Upd.sys f).apply s).tally = s.tally := rfl
@[simp] theorem apply_sys_engines (f : _) : ((Upd.sys f).apply s).engines = s.engines := rfl
@[simp] theorem apply_sys_dma (f : _) : ((Upd.sys f).apply s).dma = s.dma := rfl
@[simp] theorem apply_sys_rcv (f : _) : ((Upd.sys f).apply s).rcv = s.rcv := rfl
@[simp] theorem apply_sys_hall (f : _) : ((Upd.sys f).apply s).hall = s.hall := rfl
@[simp] theorem apply_sys_sent (f : _) : ((Upd.sys f).apply s).sent = s.sent := rfl
@[simp] theorem apply_sys_pins (f : _) : ((Upd.sys f).apply s).pins = s.pins := rfl
@[simp] theorem apply_sys_fabric (f : _) : ((Upd.sys f).apply s).fabric = s.fabric := rfl
@[simp] theorem apply_sys_power (f : _) : ((Upd.sys f).apply s).power = s.power := rfl
@[simp] theorem apply_sys_store (f : _) : ((Upd.sys f).apply s).store = s.store := rfl
@[simp] theorem apply_sys_sec (f : _) : ((Upd.sys f).apply s).sec = s.sec := rfl
@[simp] theorem apply_sys_bist (f : _) : ((Upd.sys f).apply s).bist = s.bist := rfl
@[simp] theorem apply_sys_safe (f : _) : ((Upd.sys f).apply s).safe = s.safe := rfl
@[simp] theorem apply_sys_cams (f : _) : ((Upd.sys f).apply s).cams = s.cams := rfl
@[simp] theorem apply_sys_radio (f : _) : ((Upd.sys f).apply s).radio = s.radio := rfl
@[simp] theorem apply_sys_eth (f : _) : ((Upd.sys f).apply s).eth = s.eth := rfl

end

/-! ### The update `tally` -/

section
variable (s : State)

@[simp] theorem apply_tally_pending (f : _) : ((Upd.tally f).apply s).pending = s.pending := rfl
@[simp] theorem apply_tally_out (f : _) : ((Upd.tally f).apply s).out = s.out := rfl
@[simp] theorem apply_tally_free (f : _) : ((Upd.tally f).apply s).free = s.free := rfl
@[simp] theorem apply_tally_clock (f : _) : ((Upd.tally f).apply s).clock = s.clock := rfl
@[simp] theorem apply_tally_mem (f : _) : ((Upd.tally f).apply s).mem = s.mem := rfl
@[simp] theorem apply_tally_regs (f : _) : ((Upd.tally f).apply s).regs = s.regs := rfl
@[simp] theorem apply_tally_sys (f : _) : ((Upd.tally f).apply s).sys = s.sys := rfl
@[simp] theorem apply_tally_tally (f : _) : ((Upd.tally f).apply s).tally = f s.tally := rfl
@[simp] theorem apply_tally_engines (f : _) : ((Upd.tally f).apply s).engines = s.engines := rfl
@[simp] theorem apply_tally_dma (f : _) : ((Upd.tally f).apply s).dma = s.dma := rfl
@[simp] theorem apply_tally_rcv (f : _) : ((Upd.tally f).apply s).rcv = s.rcv := rfl
@[simp] theorem apply_tally_hall (f : _) : ((Upd.tally f).apply s).hall = s.hall := rfl
@[simp] theorem apply_tally_sent (f : _) : ((Upd.tally f).apply s).sent = s.sent := rfl
@[simp] theorem apply_tally_pins (f : _) : ((Upd.tally f).apply s).pins = s.pins := rfl
@[simp] theorem apply_tally_fabric (f : _) : ((Upd.tally f).apply s).fabric = s.fabric := rfl
@[simp] theorem apply_tally_power (f : _) : ((Upd.tally f).apply s).power = s.power := rfl
@[simp] theorem apply_tally_store (f : _) : ((Upd.tally f).apply s).store = s.store := rfl
@[simp] theorem apply_tally_sec (f : _) : ((Upd.tally f).apply s).sec = s.sec := rfl
@[simp] theorem apply_tally_bist (f : _) : ((Upd.tally f).apply s).bist = s.bist := rfl
@[simp] theorem apply_tally_safe (f : _) : ((Upd.tally f).apply s).safe = s.safe := rfl
@[simp] theorem apply_tally_cams (f : _) : ((Upd.tally f).apply s).cams = s.cams := rfl
@[simp] theorem apply_tally_radio (f : _) : ((Upd.tally f).apply s).radio = s.radio := rfl
@[simp] theorem apply_tally_eth (f : _) : ((Upd.tally f).apply s).eth = s.eth := rfl

end

/-! ### The update `engines` -/

section
variable (s : State)

@[simp] theorem apply_engines_pending (f : _) : ((Upd.engines f).apply s).pending = s.pending := rfl
@[simp] theorem apply_engines_out (f : _) : ((Upd.engines f).apply s).out = s.out := rfl
@[simp] theorem apply_engines_free (f : _) : ((Upd.engines f).apply s).free = s.free := rfl
@[simp] theorem apply_engines_clock (f : _) : ((Upd.engines f).apply s).clock = s.clock := rfl
@[simp] theorem apply_engines_mem (f : _) : ((Upd.engines f).apply s).mem = s.mem := rfl
@[simp] theorem apply_engines_regs (f : _) : ((Upd.engines f).apply s).regs = s.regs := rfl
@[simp] theorem apply_engines_sys (f : _) : ((Upd.engines f).apply s).sys = s.sys := rfl
@[simp] theorem apply_engines_tally (f : _) : ((Upd.engines f).apply s).tally = s.tally := rfl
@[simp] theorem apply_engines_engines (f : _) : ((Upd.engines f).apply s).engines = f s.engines := rfl
@[simp] theorem apply_engines_dma (f : _) : ((Upd.engines f).apply s).dma = s.dma := rfl
@[simp] theorem apply_engines_rcv (f : _) : ((Upd.engines f).apply s).rcv = s.rcv := rfl
@[simp] theorem apply_engines_hall (f : _) : ((Upd.engines f).apply s).hall = s.hall := rfl
@[simp] theorem apply_engines_sent (f : _) : ((Upd.engines f).apply s).sent = s.sent := rfl
@[simp] theorem apply_engines_pins (f : _) : ((Upd.engines f).apply s).pins = s.pins := rfl
@[simp] theorem apply_engines_fabric (f : _) : ((Upd.engines f).apply s).fabric = s.fabric := rfl
@[simp] theorem apply_engines_power (f : _) : ((Upd.engines f).apply s).power = s.power := rfl
@[simp] theorem apply_engines_store (f : _) : ((Upd.engines f).apply s).store = s.store := rfl
@[simp] theorem apply_engines_sec (f : _) : ((Upd.engines f).apply s).sec = s.sec := rfl
@[simp] theorem apply_engines_bist (f : _) : ((Upd.engines f).apply s).bist = s.bist := rfl
@[simp] theorem apply_engines_safe (f : _) : ((Upd.engines f).apply s).safe = s.safe := rfl
@[simp] theorem apply_engines_cams (f : _) : ((Upd.engines f).apply s).cams = s.cams := rfl
@[simp] theorem apply_engines_radio (f : _) : ((Upd.engines f).apply s).radio = s.radio := rfl
@[simp] theorem apply_engines_eth (f : _) : ((Upd.engines f).apply s).eth = s.eth := rfl

end

/-! ### The update `dma` -/

section
variable (s : State)

@[simp] theorem apply_dma_pending (f : _) : ((Upd.dma f).apply s).pending = s.pending := rfl
@[simp] theorem apply_dma_out (f : _) : ((Upd.dma f).apply s).out = s.out := rfl
@[simp] theorem apply_dma_free (f : _) : ((Upd.dma f).apply s).free = s.free := rfl
@[simp] theorem apply_dma_clock (f : _) : ((Upd.dma f).apply s).clock = s.clock := rfl
@[simp] theorem apply_dma_mem (f : _) : ((Upd.dma f).apply s).mem = s.mem := rfl
@[simp] theorem apply_dma_regs (f : _) : ((Upd.dma f).apply s).regs = s.regs := rfl
@[simp] theorem apply_dma_sys (f : _) : ((Upd.dma f).apply s).sys = s.sys := rfl
@[simp] theorem apply_dma_tally (f : _) : ((Upd.dma f).apply s).tally = s.tally := rfl
@[simp] theorem apply_dma_engines (f : _) : ((Upd.dma f).apply s).engines = s.engines := rfl
@[simp] theorem apply_dma_dma (f : _) : ((Upd.dma f).apply s).dma = f s.dma := rfl
@[simp] theorem apply_dma_rcv (f : _) : ((Upd.dma f).apply s).rcv = s.rcv := rfl
@[simp] theorem apply_dma_hall (f : _) : ((Upd.dma f).apply s).hall = s.hall := rfl
@[simp] theorem apply_dma_sent (f : _) : ((Upd.dma f).apply s).sent = s.sent := rfl
@[simp] theorem apply_dma_pins (f : _) : ((Upd.dma f).apply s).pins = s.pins := rfl
@[simp] theorem apply_dma_fabric (f : _) : ((Upd.dma f).apply s).fabric = s.fabric := rfl
@[simp] theorem apply_dma_power (f : _) : ((Upd.dma f).apply s).power = s.power := rfl
@[simp] theorem apply_dma_store (f : _) : ((Upd.dma f).apply s).store = s.store := rfl
@[simp] theorem apply_dma_sec (f : _) : ((Upd.dma f).apply s).sec = s.sec := rfl
@[simp] theorem apply_dma_bist (f : _) : ((Upd.dma f).apply s).bist = s.bist := rfl
@[simp] theorem apply_dma_safe (f : _) : ((Upd.dma f).apply s).safe = s.safe := rfl
@[simp] theorem apply_dma_cams (f : _) : ((Upd.dma f).apply s).cams = s.cams := rfl
@[simp] theorem apply_dma_radio (f : _) : ((Upd.dma f).apply s).radio = s.radio := rfl
@[simp] theorem apply_dma_eth (f : _) : ((Upd.dma f).apply s).eth = s.eth := rfl

end

/-! ### The update `rcv` -/

section
variable (s : State)

@[simp] theorem apply_rcv_pending (f : _) : ((Upd.rcv f).apply s).pending = s.pending := rfl
@[simp] theorem apply_rcv_out (f : _) : ((Upd.rcv f).apply s).out = s.out := rfl
@[simp] theorem apply_rcv_free (f : _) : ((Upd.rcv f).apply s).free = s.free := rfl
@[simp] theorem apply_rcv_clock (f : _) : ((Upd.rcv f).apply s).clock = s.clock := rfl
@[simp] theorem apply_rcv_mem (f : _) : ((Upd.rcv f).apply s).mem = s.mem := rfl
@[simp] theorem apply_rcv_regs (f : _) : ((Upd.rcv f).apply s).regs = s.regs := rfl
@[simp] theorem apply_rcv_sys (f : _) : ((Upd.rcv f).apply s).sys = s.sys := rfl
@[simp] theorem apply_rcv_tally (f : _) : ((Upd.rcv f).apply s).tally = s.tally := rfl
@[simp] theorem apply_rcv_engines (f : _) : ((Upd.rcv f).apply s).engines = s.engines := rfl
@[simp] theorem apply_rcv_dma (f : _) : ((Upd.rcv f).apply s).dma = s.dma := rfl
@[simp] theorem apply_rcv_rcv (f : _) : ((Upd.rcv f).apply s).rcv = f s.rcv := rfl
@[simp] theorem apply_rcv_hall (f : _) : ((Upd.rcv f).apply s).hall = s.hall := rfl
@[simp] theorem apply_rcv_sent (f : _) : ((Upd.rcv f).apply s).sent = s.sent := rfl
@[simp] theorem apply_rcv_pins (f : _) : ((Upd.rcv f).apply s).pins = s.pins := rfl
@[simp] theorem apply_rcv_fabric (f : _) : ((Upd.rcv f).apply s).fabric = s.fabric := rfl
@[simp] theorem apply_rcv_power (f : _) : ((Upd.rcv f).apply s).power = s.power := rfl
@[simp] theorem apply_rcv_store (f : _) : ((Upd.rcv f).apply s).store = s.store := rfl
@[simp] theorem apply_rcv_sec (f : _) : ((Upd.rcv f).apply s).sec = s.sec := rfl
@[simp] theorem apply_rcv_bist (f : _) : ((Upd.rcv f).apply s).bist = s.bist := rfl
@[simp] theorem apply_rcv_safe (f : _) : ((Upd.rcv f).apply s).safe = s.safe := rfl
@[simp] theorem apply_rcv_cams (f : _) : ((Upd.rcv f).apply s).cams = s.cams := rfl
@[simp] theorem apply_rcv_radio (f : _) : ((Upd.rcv f).apply s).radio = s.radio := rfl
@[simp] theorem apply_rcv_eth (f : _) : ((Upd.rcv f).apply s).eth = s.eth := rfl

end

/-! ### The update `hall` -/

section
variable (s : State)

@[simp] theorem apply_hall_pending (f : _) : ((Upd.hall f).apply s).pending = s.pending := rfl
@[simp] theorem apply_hall_out (f : _) : ((Upd.hall f).apply s).out = s.out := rfl
@[simp] theorem apply_hall_free (f : _) : ((Upd.hall f).apply s).free = s.free := rfl
@[simp] theorem apply_hall_clock (f : _) : ((Upd.hall f).apply s).clock = s.clock := rfl
@[simp] theorem apply_hall_mem (f : _) : ((Upd.hall f).apply s).mem = s.mem := rfl
@[simp] theorem apply_hall_regs (f : _) : ((Upd.hall f).apply s).regs = s.regs := rfl
@[simp] theorem apply_hall_sys (f : _) : ((Upd.hall f).apply s).sys = s.sys := rfl
@[simp] theorem apply_hall_tally (f : _) : ((Upd.hall f).apply s).tally = s.tally := rfl
@[simp] theorem apply_hall_engines (f : _) : ((Upd.hall f).apply s).engines = s.engines := rfl
@[simp] theorem apply_hall_dma (f : _) : ((Upd.hall f).apply s).dma = s.dma := rfl
@[simp] theorem apply_hall_rcv (f : _) : ((Upd.hall f).apply s).rcv = s.rcv := rfl
@[simp] theorem apply_hall_hall (f : _) : ((Upd.hall f).apply s).hall = f s.hall := rfl
@[simp] theorem apply_hall_sent (f : _) : ((Upd.hall f).apply s).sent = s.sent := rfl
@[simp] theorem apply_hall_pins (f : _) : ((Upd.hall f).apply s).pins = s.pins := rfl
@[simp] theorem apply_hall_fabric (f : _) : ((Upd.hall f).apply s).fabric = s.fabric := rfl
@[simp] theorem apply_hall_power (f : _) : ((Upd.hall f).apply s).power = s.power := rfl
@[simp] theorem apply_hall_store (f : _) : ((Upd.hall f).apply s).store = s.store := rfl
@[simp] theorem apply_hall_sec (f : _) : ((Upd.hall f).apply s).sec = s.sec := rfl
@[simp] theorem apply_hall_bist (f : _) : ((Upd.hall f).apply s).bist = s.bist := rfl
@[simp] theorem apply_hall_safe (f : _) : ((Upd.hall f).apply s).safe = s.safe := rfl
@[simp] theorem apply_hall_cams (f : _) : ((Upd.hall f).apply s).cams = s.cams := rfl
@[simp] theorem apply_hall_radio (f : _) : ((Upd.hall f).apply s).radio = s.radio := rfl
@[simp] theorem apply_hall_eth (f : _) : ((Upd.hall f).apply s).eth = s.eth := rfl

end

/-! ### The update `sent` -/

section
variable (s : State)

@[simp] theorem apply_sent_pending (f : _) : ((Upd.sent f).apply s).pending = s.pending := rfl
@[simp] theorem apply_sent_out (f : _) : ((Upd.sent f).apply s).out = s.out := rfl
@[simp] theorem apply_sent_free (f : _) : ((Upd.sent f).apply s).free = s.free := rfl
@[simp] theorem apply_sent_clock (f : _) : ((Upd.sent f).apply s).clock = s.clock := rfl
@[simp] theorem apply_sent_mem (f : _) : ((Upd.sent f).apply s).mem = s.mem := rfl
@[simp] theorem apply_sent_regs (f : _) : ((Upd.sent f).apply s).regs = s.regs := rfl
@[simp] theorem apply_sent_sys (f : _) : ((Upd.sent f).apply s).sys = s.sys := rfl
@[simp] theorem apply_sent_tally (f : _) : ((Upd.sent f).apply s).tally = s.tally := rfl
@[simp] theorem apply_sent_engines (f : _) : ((Upd.sent f).apply s).engines = s.engines := rfl
@[simp] theorem apply_sent_dma (f : _) : ((Upd.sent f).apply s).dma = s.dma := rfl
@[simp] theorem apply_sent_rcv (f : _) : ((Upd.sent f).apply s).rcv = s.rcv := rfl
@[simp] theorem apply_sent_hall (f : _) : ((Upd.sent f).apply s).hall = s.hall := rfl
@[simp] theorem apply_sent_sent (f : _) : ((Upd.sent f).apply s).sent = f s.sent := rfl
@[simp] theorem apply_sent_pins (f : _) : ((Upd.sent f).apply s).pins = s.pins := rfl
@[simp] theorem apply_sent_fabric (f : _) : ((Upd.sent f).apply s).fabric = s.fabric := rfl
@[simp] theorem apply_sent_power (f : _) : ((Upd.sent f).apply s).power = s.power := rfl
@[simp] theorem apply_sent_store (f : _) : ((Upd.sent f).apply s).store = s.store := rfl
@[simp] theorem apply_sent_sec (f : _) : ((Upd.sent f).apply s).sec = s.sec := rfl
@[simp] theorem apply_sent_bist (f : _) : ((Upd.sent f).apply s).bist = s.bist := rfl
@[simp] theorem apply_sent_safe (f : _) : ((Upd.sent f).apply s).safe = s.safe := rfl
@[simp] theorem apply_sent_cams (f : _) : ((Upd.sent f).apply s).cams = s.cams := rfl
@[simp] theorem apply_sent_radio (f : _) : ((Upd.sent f).apply s).radio = s.radio := rfl
@[simp] theorem apply_sent_eth (f : _) : ((Upd.sent f).apply s).eth = s.eth := rfl

end

/-! ### The update `pins` -/

section
variable (s : State)

@[simp] theorem apply_pins_pending (f : _) : ((Upd.pins f).apply s).pending = s.pending := rfl
@[simp] theorem apply_pins_out (f : _) : ((Upd.pins f).apply s).out = s.out := rfl
@[simp] theorem apply_pins_free (f : _) : ((Upd.pins f).apply s).free = s.free := rfl
@[simp] theorem apply_pins_clock (f : _) : ((Upd.pins f).apply s).clock = s.clock := rfl
@[simp] theorem apply_pins_mem (f : _) : ((Upd.pins f).apply s).mem = s.mem := rfl
@[simp] theorem apply_pins_regs (f : _) : ((Upd.pins f).apply s).regs = s.regs := rfl
@[simp] theorem apply_pins_sys (f : _) : ((Upd.pins f).apply s).sys = s.sys := rfl
@[simp] theorem apply_pins_tally (f : _) : ((Upd.pins f).apply s).tally = s.tally := rfl
@[simp] theorem apply_pins_engines (f : _) : ((Upd.pins f).apply s).engines = s.engines := rfl
@[simp] theorem apply_pins_dma (f : _) : ((Upd.pins f).apply s).dma = s.dma := rfl
@[simp] theorem apply_pins_rcv (f : _) : ((Upd.pins f).apply s).rcv = s.rcv := rfl
@[simp] theorem apply_pins_hall (f : _) : ((Upd.pins f).apply s).hall = s.hall := rfl
@[simp] theorem apply_pins_sent (f : _) : ((Upd.pins f).apply s).sent = s.sent := rfl
@[simp] theorem apply_pins_pins (f : _) : ((Upd.pins f).apply s).pins = f s.pins := rfl
@[simp] theorem apply_pins_fabric (f : _) : ((Upd.pins f).apply s).fabric = s.fabric := rfl
@[simp] theorem apply_pins_power (f : _) : ((Upd.pins f).apply s).power = s.power := rfl
@[simp] theorem apply_pins_store (f : _) : ((Upd.pins f).apply s).store = s.store := rfl
@[simp] theorem apply_pins_sec (f : _) : ((Upd.pins f).apply s).sec = s.sec := rfl
@[simp] theorem apply_pins_bist (f : _) : ((Upd.pins f).apply s).bist = s.bist := rfl
@[simp] theorem apply_pins_safe (f : _) : ((Upd.pins f).apply s).safe = s.safe := rfl
@[simp] theorem apply_pins_cams (f : _) : ((Upd.pins f).apply s).cams = s.cams := rfl
@[simp] theorem apply_pins_radio (f : _) : ((Upd.pins f).apply s).radio = s.radio := rfl
@[simp] theorem apply_pins_eth (f : _) : ((Upd.pins f).apply s).eth = s.eth := rfl

end

/-! ### The update `fabric` -/

section
variable (s : State)

@[simp] theorem apply_fabric_pending (f : _) : ((Upd.fabric f).apply s).pending = s.pending := rfl
@[simp] theorem apply_fabric_out (f : _) : ((Upd.fabric f).apply s).out = s.out := rfl
@[simp] theorem apply_fabric_free (f : _) : ((Upd.fabric f).apply s).free = s.free := rfl
@[simp] theorem apply_fabric_clock (f : _) : ((Upd.fabric f).apply s).clock = s.clock := rfl
@[simp] theorem apply_fabric_mem (f : _) : ((Upd.fabric f).apply s).mem = s.mem := rfl
@[simp] theorem apply_fabric_regs (f : _) : ((Upd.fabric f).apply s).regs = s.regs := rfl
@[simp] theorem apply_fabric_sys (f : _) : ((Upd.fabric f).apply s).sys = s.sys := rfl
@[simp] theorem apply_fabric_tally (f : _) : ((Upd.fabric f).apply s).tally = s.tally := rfl
@[simp] theorem apply_fabric_engines (f : _) : ((Upd.fabric f).apply s).engines = s.engines := rfl
@[simp] theorem apply_fabric_dma (f : _) : ((Upd.fabric f).apply s).dma = s.dma := rfl
@[simp] theorem apply_fabric_rcv (f : _) : ((Upd.fabric f).apply s).rcv = s.rcv := rfl
@[simp] theorem apply_fabric_hall (f : _) : ((Upd.fabric f).apply s).hall = s.hall := rfl
@[simp] theorem apply_fabric_sent (f : _) : ((Upd.fabric f).apply s).sent = s.sent := rfl
@[simp] theorem apply_fabric_pins (f : _) : ((Upd.fabric f).apply s).pins = s.pins := rfl
@[simp] theorem apply_fabric_fabric (f : _) : ((Upd.fabric f).apply s).fabric = f s.fabric := rfl
@[simp] theorem apply_fabric_power (f : _) : ((Upd.fabric f).apply s).power = s.power := rfl
@[simp] theorem apply_fabric_store (f : _) : ((Upd.fabric f).apply s).store = s.store := rfl
@[simp] theorem apply_fabric_sec (f : _) : ((Upd.fabric f).apply s).sec = s.sec := rfl
@[simp] theorem apply_fabric_bist (f : _) : ((Upd.fabric f).apply s).bist = s.bist := rfl
@[simp] theorem apply_fabric_safe (f : _) : ((Upd.fabric f).apply s).safe = s.safe := rfl
@[simp] theorem apply_fabric_cams (f : _) : ((Upd.fabric f).apply s).cams = s.cams := rfl
@[simp] theorem apply_fabric_radio (f : _) : ((Upd.fabric f).apply s).radio = s.radio := rfl
@[simp] theorem apply_fabric_eth (f : _) : ((Upd.fabric f).apply s).eth = s.eth := rfl

end

/-! ### The update `power` -/

section
variable (s : State)

@[simp] theorem apply_power_pending (f : _) : ((Upd.power f).apply s).pending = s.pending := rfl
@[simp] theorem apply_power_out (f : _) : ((Upd.power f).apply s).out = s.out := rfl
@[simp] theorem apply_power_free (f : _) : ((Upd.power f).apply s).free = s.free := rfl
@[simp] theorem apply_power_clock (f : _) : ((Upd.power f).apply s).clock = s.clock := rfl
@[simp] theorem apply_power_mem (f : _) : ((Upd.power f).apply s).mem = s.mem := rfl
@[simp] theorem apply_power_regs (f : _) : ((Upd.power f).apply s).regs = s.regs := rfl
@[simp] theorem apply_power_sys (f : _) : ((Upd.power f).apply s).sys = s.sys := rfl
@[simp] theorem apply_power_tally (f : _) : ((Upd.power f).apply s).tally = s.tally := rfl
@[simp] theorem apply_power_engines (f : _) : ((Upd.power f).apply s).engines = s.engines := rfl
@[simp] theorem apply_power_dma (f : _) : ((Upd.power f).apply s).dma = s.dma := rfl
@[simp] theorem apply_power_rcv (f : _) : ((Upd.power f).apply s).rcv = s.rcv := rfl
@[simp] theorem apply_power_hall (f : _) : ((Upd.power f).apply s).hall = s.hall := rfl
@[simp] theorem apply_power_sent (f : _) : ((Upd.power f).apply s).sent = s.sent := rfl
@[simp] theorem apply_power_pins (f : _) : ((Upd.power f).apply s).pins = s.pins := rfl
@[simp] theorem apply_power_fabric (f : _) : ((Upd.power f).apply s).fabric = s.fabric := rfl
@[simp] theorem apply_power_power (f : _) : ((Upd.power f).apply s).power = f s.power := rfl
@[simp] theorem apply_power_store (f : _) : ((Upd.power f).apply s).store = s.store := rfl
@[simp] theorem apply_power_sec (f : _) : ((Upd.power f).apply s).sec = s.sec := rfl
@[simp] theorem apply_power_bist (f : _) : ((Upd.power f).apply s).bist = s.bist := rfl
@[simp] theorem apply_power_safe (f : _) : ((Upd.power f).apply s).safe = s.safe := rfl
@[simp] theorem apply_power_cams (f : _) : ((Upd.power f).apply s).cams = s.cams := rfl
@[simp] theorem apply_power_radio (f : _) : ((Upd.power f).apply s).radio = s.radio := rfl
@[simp] theorem apply_power_eth (f : _) : ((Upd.power f).apply s).eth = s.eth := rfl

end

/-! ### The update `store` -/

section
variable (s : State)

@[simp] theorem apply_store_pending (f : _) : ((Upd.store f).apply s).pending = s.pending := rfl
@[simp] theorem apply_store_out (f : _) : ((Upd.store f).apply s).out = s.out := rfl
@[simp] theorem apply_store_free (f : _) : ((Upd.store f).apply s).free = s.free := rfl
@[simp] theorem apply_store_clock (f : _) : ((Upd.store f).apply s).clock = s.clock := rfl
@[simp] theorem apply_store_mem (f : _) : ((Upd.store f).apply s).mem = s.mem := rfl
@[simp] theorem apply_store_regs (f : _) : ((Upd.store f).apply s).regs = s.regs := rfl
@[simp] theorem apply_store_sys (f : _) : ((Upd.store f).apply s).sys = s.sys := rfl
@[simp] theorem apply_store_tally (f : _) : ((Upd.store f).apply s).tally = s.tally := rfl
@[simp] theorem apply_store_engines (f : _) : ((Upd.store f).apply s).engines = s.engines := rfl
@[simp] theorem apply_store_dma (f : _) : ((Upd.store f).apply s).dma = s.dma := rfl
@[simp] theorem apply_store_rcv (f : _) : ((Upd.store f).apply s).rcv = s.rcv := rfl
@[simp] theorem apply_store_hall (f : _) : ((Upd.store f).apply s).hall = s.hall := rfl
@[simp] theorem apply_store_sent (f : _) : ((Upd.store f).apply s).sent = s.sent := rfl
@[simp] theorem apply_store_pins (f : _) : ((Upd.store f).apply s).pins = s.pins := rfl
@[simp] theorem apply_store_fabric (f : _) : ((Upd.store f).apply s).fabric = s.fabric := rfl
@[simp] theorem apply_store_power (f : _) : ((Upd.store f).apply s).power = s.power := rfl
@[simp] theorem apply_store_store (f : _) : ((Upd.store f).apply s).store = f s.store := rfl
@[simp] theorem apply_store_sec (f : _) : ((Upd.store f).apply s).sec = s.sec := rfl
@[simp] theorem apply_store_bist (f : _) : ((Upd.store f).apply s).bist = s.bist := rfl
@[simp] theorem apply_store_safe (f : _) : ((Upd.store f).apply s).safe = s.safe := rfl
@[simp] theorem apply_store_cams (f : _) : ((Upd.store f).apply s).cams = s.cams := rfl
@[simp] theorem apply_store_radio (f : _) : ((Upd.store f).apply s).radio = s.radio := rfl
@[simp] theorem apply_store_eth (f : _) : ((Upd.store f).apply s).eth = s.eth := rfl

end

/-! ### The update `sec` -/

section
variable (s : State)

@[simp] theorem apply_sec_pending (f : _) : ((Upd.sec f).apply s).pending = s.pending := rfl
@[simp] theorem apply_sec_out (f : _) : ((Upd.sec f).apply s).out = s.out := rfl
@[simp] theorem apply_sec_free (f : _) : ((Upd.sec f).apply s).free = s.free := rfl
@[simp] theorem apply_sec_clock (f : _) : ((Upd.sec f).apply s).clock = s.clock := rfl
@[simp] theorem apply_sec_mem (f : _) : ((Upd.sec f).apply s).mem = s.mem := rfl
@[simp] theorem apply_sec_regs (f : _) : ((Upd.sec f).apply s).regs = s.regs := rfl
@[simp] theorem apply_sec_sys (f : _) : ((Upd.sec f).apply s).sys = s.sys := rfl
@[simp] theorem apply_sec_tally (f : _) : ((Upd.sec f).apply s).tally = s.tally := rfl
@[simp] theorem apply_sec_engines (f : _) : ((Upd.sec f).apply s).engines = s.engines := rfl
@[simp] theorem apply_sec_dma (f : _) : ((Upd.sec f).apply s).dma = s.dma := rfl
@[simp] theorem apply_sec_rcv (f : _) : ((Upd.sec f).apply s).rcv = s.rcv := rfl
@[simp] theorem apply_sec_hall (f : _) : ((Upd.sec f).apply s).hall = s.hall := rfl
@[simp] theorem apply_sec_sent (f : _) : ((Upd.sec f).apply s).sent = s.sent := rfl
@[simp] theorem apply_sec_pins (f : _) : ((Upd.sec f).apply s).pins = s.pins := rfl
@[simp] theorem apply_sec_fabric (f : _) : ((Upd.sec f).apply s).fabric = s.fabric := rfl
@[simp] theorem apply_sec_power (f : _) : ((Upd.sec f).apply s).power = s.power := rfl
@[simp] theorem apply_sec_store (f : _) : ((Upd.sec f).apply s).store = s.store := rfl
@[simp] theorem apply_sec_sec (f : _) : ((Upd.sec f).apply s).sec = f s.sec := rfl
@[simp] theorem apply_sec_bist (f : _) : ((Upd.sec f).apply s).bist = s.bist := rfl
@[simp] theorem apply_sec_safe (f : _) : ((Upd.sec f).apply s).safe = s.safe := rfl
@[simp] theorem apply_sec_cams (f : _) : ((Upd.sec f).apply s).cams = s.cams := rfl
@[simp] theorem apply_sec_radio (f : _) : ((Upd.sec f).apply s).radio = s.radio := rfl
@[simp] theorem apply_sec_eth (f : _) : ((Upd.sec f).apply s).eth = s.eth := rfl

end

/-! ### The update `bist` -/

section
variable (s : State)

@[simp] theorem apply_bist_pending (f : _) : ((Upd.bist f).apply s).pending = s.pending := rfl
@[simp] theorem apply_bist_out (f : _) : ((Upd.bist f).apply s).out = s.out := rfl
@[simp] theorem apply_bist_free (f : _) : ((Upd.bist f).apply s).free = s.free := rfl
@[simp] theorem apply_bist_clock (f : _) : ((Upd.bist f).apply s).clock = s.clock := rfl
@[simp] theorem apply_bist_mem (f : _) : ((Upd.bist f).apply s).mem = s.mem := rfl
@[simp] theorem apply_bist_regs (f : _) : ((Upd.bist f).apply s).regs = s.regs := rfl
@[simp] theorem apply_bist_sys (f : _) : ((Upd.bist f).apply s).sys = s.sys := rfl
@[simp] theorem apply_bist_tally (f : _) : ((Upd.bist f).apply s).tally = s.tally := rfl
@[simp] theorem apply_bist_engines (f : _) : ((Upd.bist f).apply s).engines = s.engines := rfl
@[simp] theorem apply_bist_dma (f : _) : ((Upd.bist f).apply s).dma = s.dma := rfl
@[simp] theorem apply_bist_rcv (f : _) : ((Upd.bist f).apply s).rcv = s.rcv := rfl
@[simp] theorem apply_bist_hall (f : _) : ((Upd.bist f).apply s).hall = s.hall := rfl
@[simp] theorem apply_bist_sent (f : _) : ((Upd.bist f).apply s).sent = s.sent := rfl
@[simp] theorem apply_bist_pins (f : _) : ((Upd.bist f).apply s).pins = s.pins := rfl
@[simp] theorem apply_bist_fabric (f : _) : ((Upd.bist f).apply s).fabric = s.fabric := rfl
@[simp] theorem apply_bist_power (f : _) : ((Upd.bist f).apply s).power = s.power := rfl
@[simp] theorem apply_bist_store (f : _) : ((Upd.bist f).apply s).store = s.store := rfl
@[simp] theorem apply_bist_sec (f : _) : ((Upd.bist f).apply s).sec = s.sec := rfl
@[simp] theorem apply_bist_bist (f : _) : ((Upd.bist f).apply s).bist = f s.bist := rfl
@[simp] theorem apply_bist_safe (f : _) : ((Upd.bist f).apply s).safe = s.safe := rfl
@[simp] theorem apply_bist_cams (f : _) : ((Upd.bist f).apply s).cams = s.cams := rfl
@[simp] theorem apply_bist_radio (f : _) : ((Upd.bist f).apply s).radio = s.radio := rfl
@[simp] theorem apply_bist_eth (f : _) : ((Upd.bist f).apply s).eth = s.eth := rfl

end

/-! ### The update `safe` -/

section
variable (s : State)

@[simp] theorem apply_safe_pending (f : _) : ((Upd.safe f).apply s).pending = s.pending := rfl
@[simp] theorem apply_safe_out (f : _) : ((Upd.safe f).apply s).out = s.out := rfl
@[simp] theorem apply_safe_free (f : _) : ((Upd.safe f).apply s).free = s.free := rfl
@[simp] theorem apply_safe_clock (f : _) : ((Upd.safe f).apply s).clock = s.clock := rfl
@[simp] theorem apply_safe_mem (f : _) : ((Upd.safe f).apply s).mem = s.mem := rfl
@[simp] theorem apply_safe_regs (f : _) : ((Upd.safe f).apply s).regs = s.regs := rfl
@[simp] theorem apply_safe_sys (f : _) : ((Upd.safe f).apply s).sys = s.sys := rfl
@[simp] theorem apply_safe_tally (f : _) : ((Upd.safe f).apply s).tally = s.tally := rfl
@[simp] theorem apply_safe_engines (f : _) : ((Upd.safe f).apply s).engines = s.engines := rfl
@[simp] theorem apply_safe_dma (f : _) : ((Upd.safe f).apply s).dma = s.dma := rfl
@[simp] theorem apply_safe_rcv (f : _) : ((Upd.safe f).apply s).rcv = s.rcv := rfl
@[simp] theorem apply_safe_hall (f : _) : ((Upd.safe f).apply s).hall = s.hall := rfl
@[simp] theorem apply_safe_sent (f : _) : ((Upd.safe f).apply s).sent = s.sent := rfl
@[simp] theorem apply_safe_pins (f : _) : ((Upd.safe f).apply s).pins = s.pins := rfl
@[simp] theorem apply_safe_fabric (f : _) : ((Upd.safe f).apply s).fabric = s.fabric := rfl
@[simp] theorem apply_safe_power (f : _) : ((Upd.safe f).apply s).power = s.power := rfl
@[simp] theorem apply_safe_store (f : _) : ((Upd.safe f).apply s).store = s.store := rfl
@[simp] theorem apply_safe_sec (f : _) : ((Upd.safe f).apply s).sec = s.sec := rfl
@[simp] theorem apply_safe_bist (f : _) : ((Upd.safe f).apply s).bist = s.bist := rfl
@[simp] theorem apply_safe_safe (f : _) : ((Upd.safe f).apply s).safe = f s.safe := rfl
@[simp] theorem apply_safe_cams (f : _) : ((Upd.safe f).apply s).cams = s.cams := rfl
@[simp] theorem apply_safe_radio (f : _) : ((Upd.safe f).apply s).radio = s.radio := rfl
@[simp] theorem apply_safe_eth (f : _) : ((Upd.safe f).apply s).eth = s.eth := rfl

end

/-! ### The update `cams` -/

section
variable (s : State)

@[simp] theorem apply_cams_pending (f : _) : ((Upd.cams f).apply s).pending = s.pending := rfl
@[simp] theorem apply_cams_out (f : _) : ((Upd.cams f).apply s).out = s.out := rfl
@[simp] theorem apply_cams_free (f : _) : ((Upd.cams f).apply s).free = s.free := rfl
@[simp] theorem apply_cams_clock (f : _) : ((Upd.cams f).apply s).clock = s.clock := rfl
@[simp] theorem apply_cams_mem (f : _) : ((Upd.cams f).apply s).mem = s.mem := rfl
@[simp] theorem apply_cams_regs (f : _) : ((Upd.cams f).apply s).regs = s.regs := rfl
@[simp] theorem apply_cams_sys (f : _) : ((Upd.cams f).apply s).sys = s.sys := rfl
@[simp] theorem apply_cams_tally (f : _) : ((Upd.cams f).apply s).tally = s.tally := rfl
@[simp] theorem apply_cams_engines (f : _) : ((Upd.cams f).apply s).engines = s.engines := rfl
@[simp] theorem apply_cams_dma (f : _) : ((Upd.cams f).apply s).dma = s.dma := rfl
@[simp] theorem apply_cams_rcv (f : _) : ((Upd.cams f).apply s).rcv = s.rcv := rfl
@[simp] theorem apply_cams_hall (f : _) : ((Upd.cams f).apply s).hall = s.hall := rfl
@[simp] theorem apply_cams_sent (f : _) : ((Upd.cams f).apply s).sent = s.sent := rfl
@[simp] theorem apply_cams_pins (f : _) : ((Upd.cams f).apply s).pins = s.pins := rfl
@[simp] theorem apply_cams_fabric (f : _) : ((Upd.cams f).apply s).fabric = s.fabric := rfl
@[simp] theorem apply_cams_power (f : _) : ((Upd.cams f).apply s).power = s.power := rfl
@[simp] theorem apply_cams_store (f : _) : ((Upd.cams f).apply s).store = s.store := rfl
@[simp] theorem apply_cams_sec (f : _) : ((Upd.cams f).apply s).sec = s.sec := rfl
@[simp] theorem apply_cams_bist (f : _) : ((Upd.cams f).apply s).bist = s.bist := rfl
@[simp] theorem apply_cams_safe (f : _) : ((Upd.cams f).apply s).safe = s.safe := rfl
@[simp] theorem apply_cams_cams (f : _) : ((Upd.cams f).apply s).cams = f s.cams := rfl
@[simp] theorem apply_cams_radio (f : _) : ((Upd.cams f).apply s).radio = s.radio := rfl
@[simp] theorem apply_cams_eth (f : _) : ((Upd.cams f).apply s).eth = s.eth := rfl

end

/-! ### The update `radio` -/

section
variable (s : State)

@[simp] theorem apply_radio_pending (f : _) : ((Upd.radio f).apply s).pending = s.pending := rfl
@[simp] theorem apply_radio_out (f : _) : ((Upd.radio f).apply s).out = s.out := rfl
@[simp] theorem apply_radio_free (f : _) : ((Upd.radio f).apply s).free = s.free := rfl
@[simp] theorem apply_radio_clock (f : _) : ((Upd.radio f).apply s).clock = s.clock := rfl
@[simp] theorem apply_radio_mem (f : _) : ((Upd.radio f).apply s).mem = s.mem := rfl
@[simp] theorem apply_radio_regs (f : _) : ((Upd.radio f).apply s).regs = s.regs := rfl
@[simp] theorem apply_radio_sys (f : _) : ((Upd.radio f).apply s).sys = s.sys := rfl
@[simp] theorem apply_radio_tally (f : _) : ((Upd.radio f).apply s).tally = s.tally := rfl
@[simp] theorem apply_radio_engines (f : _) : ((Upd.radio f).apply s).engines = s.engines := rfl
@[simp] theorem apply_radio_dma (f : _) : ((Upd.radio f).apply s).dma = s.dma := rfl
@[simp] theorem apply_radio_rcv (f : _) : ((Upd.radio f).apply s).rcv = s.rcv := rfl
@[simp] theorem apply_radio_hall (f : _) : ((Upd.radio f).apply s).hall = s.hall := rfl
@[simp] theorem apply_radio_sent (f : _) : ((Upd.radio f).apply s).sent = s.sent := rfl
@[simp] theorem apply_radio_pins (f : _) : ((Upd.radio f).apply s).pins = s.pins := rfl
@[simp] theorem apply_radio_fabric (f : _) : ((Upd.radio f).apply s).fabric = s.fabric := rfl
@[simp] theorem apply_radio_power (f : _) : ((Upd.radio f).apply s).power = s.power := rfl
@[simp] theorem apply_radio_store (f : _) : ((Upd.radio f).apply s).store = s.store := rfl
@[simp] theorem apply_radio_sec (f : _) : ((Upd.radio f).apply s).sec = s.sec := rfl
@[simp] theorem apply_radio_bist (f : _) : ((Upd.radio f).apply s).bist = s.bist := rfl
@[simp] theorem apply_radio_safe (f : _) : ((Upd.radio f).apply s).safe = s.safe := rfl
@[simp] theorem apply_radio_cams (f : _) : ((Upd.radio f).apply s).cams = s.cams := rfl
@[simp] theorem apply_radio_radio (f : _) : ((Upd.radio f).apply s).radio = f s.radio := rfl
@[simp] theorem apply_radio_eth (f : _) : ((Upd.radio f).apply s).eth = s.eth := rfl

end

/-! ### The update `eth` -/

section
variable (s : State)

@[simp] theorem apply_eth_pending (f : _) : ((Upd.eth f).apply s).pending = s.pending := rfl
@[simp] theorem apply_eth_out (f : _) : ((Upd.eth f).apply s).out = s.out := rfl
@[simp] theorem apply_eth_free (f : _) : ((Upd.eth f).apply s).free = s.free := rfl
@[simp] theorem apply_eth_clock (f : _) : ((Upd.eth f).apply s).clock = s.clock := rfl
@[simp] theorem apply_eth_mem (f : _) : ((Upd.eth f).apply s).mem = s.mem := rfl
@[simp] theorem apply_eth_regs (f : _) : ((Upd.eth f).apply s).regs = s.regs := rfl
@[simp] theorem apply_eth_sys (f : _) : ((Upd.eth f).apply s).sys = s.sys := rfl
@[simp] theorem apply_eth_tally (f : _) : ((Upd.eth f).apply s).tally = s.tally := rfl
@[simp] theorem apply_eth_engines (f : _) : ((Upd.eth f).apply s).engines = s.engines := rfl
@[simp] theorem apply_eth_dma (f : _) : ((Upd.eth f).apply s).dma = s.dma := rfl
@[simp] theorem apply_eth_rcv (f : _) : ((Upd.eth f).apply s).rcv = s.rcv := rfl
@[simp] theorem apply_eth_hall (f : _) : ((Upd.eth f).apply s).hall = s.hall := rfl
@[simp] theorem apply_eth_sent (f : _) : ((Upd.eth f).apply s).sent = s.sent := rfl
@[simp] theorem apply_eth_pins (f : _) : ((Upd.eth f).apply s).pins = s.pins := rfl
@[simp] theorem apply_eth_fabric (f : _) : ((Upd.eth f).apply s).fabric = s.fabric := rfl
@[simp] theorem apply_eth_power (f : _) : ((Upd.eth f).apply s).power = s.power := rfl
@[simp] theorem apply_eth_store (f : _) : ((Upd.eth f).apply s).store = s.store := rfl
@[simp] theorem apply_eth_sec (f : _) : ((Upd.eth f).apply s).sec = s.sec := rfl
@[simp] theorem apply_eth_bist (f : _) : ((Upd.eth f).apply s).bist = s.bist := rfl
@[simp] theorem apply_eth_safe (f : _) : ((Upd.eth f).apply s).safe = s.safe := rfl
@[simp] theorem apply_eth_cams (f : _) : ((Upd.eth f).apply s).cams = s.cams := rfl
@[simp] theorem apply_eth_radio (f : _) : ((Upd.eth f).apply s).radio = s.radio := rfl
@[simp] theorem apply_eth_eth (f : _) : ((Upd.eth f).apply s).eth = f s.eth := rfl

end

end Sys2Proof.Machine
end

