-- ==== Sys2Proof/Laws/Frames.lean ====
section
/-! SUPPORT. What states reached by updates of some components share with where they began: every other component, the queue of commands, and
the canonical form of the lists. -/

namespace Sys2Proof.Machine

open Sys2Proof

/-! ## What every update keeps -/

theorem Upd.apply_pending (u : Upd) (s : State) : (u.apply s).pending = s.pending := by
  cases u <;> rfl

/-- Every update keeps the canonical form of memory and registers. -/
theorem Upd.apply_canonical (u : Upd) (s : State) (h : s.Canonical) : (u.apply s).Canonical := by
  obtain ⟨hm, hr⟩ := h
  cases u
  case mem => exact ⟨memPutAll_wf _ _ hm, hr⟩
  case memClear => exact ⟨memory_filter_wf _ hm, hr⟩
  case regClear => exact ⟨hm, registers_filter_wf _ hr⟩
  case reg => exact ⟨hm, regPut_wf _ _ hr⟩
  all_goals exact ⟨hm, hr⟩

theorem Steps.pending {P : Upd → Prop} {s t : State} (h : Steps P s t) : t.pending = s.pending :=
  h.keeps (I := fun x => x.pending = s.pending) (fun u x _ hx => (u.apply_pending x).trans hx) rfl

theorem Steps.canonical {P : Upd → Prop} {s t : State} (h : Steps P s t) (hs : s.Canonical) : t.Canonical :=
  h.keeps (fun u x _ => u.apply_canonical x) hs

/-! ## Components outside a mask -/

theorem Reaches.mem {n : Nat} {s t : State} (h : Reaches n s t) (ha : n.testBit 0 = false) (hb : n.testBit 1 = false) :
    t.mem = s.mem :=
  h.keeps (I := fun x => x.mem = s.mem) (fun u x hu hx => by
    cases u <;> first | exact hx | simp [Upd.In, Upd.bit, ha, hb] at hu) rfl

theorem Reaches.regs {n : Nat} {s t : State} (h : Reaches n s t) (ha : n.testBit 3 = false) (hb : n.testBit 2 = false) :
    t.regs = s.regs :=
  h.keeps (I := fun x => x.regs = s.regs) (fun u x hu hx => by
    cases u <;> first | exact hx | simp [Upd.In, Upd.bit, ha, hb] at hu) rfl

theorem Reaches.out {n : Nat} {s t : State} (h : Reaches n s t) (hb : n.testBit 4 = false) : t.out = s.out :=
  h.keeps (I := fun x => x.out = s.out) (fun u x hu hx => by
    cases u <;> first | exact hx | simp [Upd.In, Upd.bit, hb] at hu) rfl

theorem Reaches.free {n : Nat} {s t : State} (h : Reaches n s t) (hb : n.testBit 5 = false) : t.free = s.free :=
  h.keeps (I := fun x => x.free = s.free) (fun u x hu hx => by
    cases u <;> first | exact hx | simp [Upd.In, Upd.bit, hb] at hu) rfl

theorem Reaches.clock {n : Nat} {s t : State} (h : Reaches n s t) (hb : n.testBit 6 = false) : t.clock = s.clock :=
  h.keeps (I := fun x => x.clock = s.clock) (fun u x hu hx => by
    cases u <;> first | exact hx | simp [Upd.In, Upd.bit, hb] at hu) rfl

theorem Reaches.sys {n : Nat} {s t : State} (h : Reaches n s t) (hb : n.testBit 7 = false) : t.sys = s.sys :=
  h.keeps (I := fun x => x.sys = s.sys) (fun u x hu hx => by
    cases u <;> first | exact hx | simp [Upd.In, Upd.bit, hb] at hu) rfl

theorem Reaches.tally {n : Nat} {s t : State} (h : Reaches n s t) (hb : n.testBit 8 = false) : t.tally = s.tally :=
  h.keeps (I := fun x => x.tally = s.tally) (fun u x hu hx => by
    cases u <;> first | exact hx | simp [Upd.In, Upd.bit, hb] at hu) rfl

theorem Reaches.engines {n : Nat} {s t : State} (h : Reaches n s t) (hb : n.testBit 9 = false) : t.engines = s.engines :=
  h.keeps (I := fun x => x.engines = s.engines) (fun u x hu hx => by
    cases u <;> first | exact hx | simp [Upd.In, Upd.bit, hb] at hu) rfl

theorem Reaches.dma {n : Nat} {s t : State} (h : Reaches n s t) (hb : n.testBit 10 = false) : t.dma = s.dma :=
  h.keeps (I := fun x => x.dma = s.dma) (fun u x hu hx => by
    cases u <;> first | exact hx | simp [Upd.In, Upd.bit, hb] at hu) rfl

theorem Reaches.rcv {n : Nat} {s t : State} (h : Reaches n s t) (hb : n.testBit 11 = false) : t.rcv = s.rcv :=
  h.keeps (I := fun x => x.rcv = s.rcv) (fun u x hu hx => by
    cases u <;> first | exact hx | simp [Upd.In, Upd.bit, hb] at hu) rfl

theorem Reaches.hall {n : Nat} {s t : State} (h : Reaches n s t) (hb : n.testBit 12 = false) : t.hall = s.hall :=
  h.keeps (I := fun x => x.hall = s.hall) (fun u x hu hx => by
    cases u <;> first | exact hx | simp [Upd.In, Upd.bit, hb] at hu) rfl

theorem Reaches.sent {n : Nat} {s t : State} (h : Reaches n s t) (hb : n.testBit 13 = false) : t.sent = s.sent :=
  h.keeps (I := fun x => x.sent = s.sent) (fun u x hu hx => by
    cases u <;> first | exact hx | simp [Upd.In, Upd.bit, hb] at hu) rfl

theorem Reaches.pins {n : Nat} {s t : State} (h : Reaches n s t) (hb : n.testBit 14 = false) : t.pins = s.pins :=
  h.keeps (I := fun x => x.pins = s.pins) (fun u x hu hx => by
    cases u <;> first | exact hx | simp [Upd.In, Upd.bit, hb] at hu) rfl

theorem Reaches.fabric {n : Nat} {s t : State} (h : Reaches n s t) (hb : n.testBit 15 = false) : t.fabric = s.fabric :=
  h.keeps (I := fun x => x.fabric = s.fabric) (fun u x hu hx => by
    cases u <;> first | exact hx | simp [Upd.In, Upd.bit, hb] at hu) rfl

theorem Reaches.power {n : Nat} {s t : State} (h : Reaches n s t) (hb : n.testBit 16 = false) : t.power = s.power :=
  h.keeps (I := fun x => x.power = s.power) (fun u x hu hx => by
    cases u <;> first | exact hx | simp [Upd.In, Upd.bit, hb] at hu) rfl

theorem Reaches.store {n : Nat} {s t : State} (h : Reaches n s t) (hb : n.testBit 17 = false) : t.store = s.store :=
  h.keeps (I := fun x => x.store = s.store) (fun u x hu hx => by
    cases u <;> first | exact hx | simp [Upd.In, Upd.bit, hb] at hu) rfl

theorem Reaches.sec {n : Nat} {s t : State} (h : Reaches n s t) (hb : n.testBit 18 = false) : t.sec = s.sec :=
  h.keeps (I := fun x => x.sec = s.sec) (fun u x hu hx => by
    cases u <;> first | exact hx | simp [Upd.In, Upd.bit, hb] at hu) rfl

theorem Reaches.bist {n : Nat} {s t : State} (h : Reaches n s t) (hb : n.testBit 19 = false) : t.bist = s.bist :=
  h.keeps (I := fun x => x.bist = s.bist) (fun u x hu hx => by
    cases u <;> first | exact hx | simp [Upd.In, Upd.bit, hb] at hu) rfl

theorem Reaches.safe {n : Nat} {s t : State} (h : Reaches n s t) (hb : n.testBit 20 = false) : t.safe = s.safe :=
  h.keeps (I := fun x => x.safe = s.safe) (fun u x hu hx => by
    cases u <;> first | exact hx | simp [Upd.In, Upd.bit, hb] at hu) rfl

theorem Reaches.cams {n : Nat} {s t : State} (h : Reaches n s t) (hb : n.testBit 21 = false) : t.cams = s.cams :=
  h.keeps (I := fun x => x.cams = s.cams) (fun u x hu hx => by
    cases u <;> first | exact hx | simp [Upd.In, Upd.bit, hb] at hu) rfl

theorem Reaches.radio {n : Nat} {s t : State} (h : Reaches n s t) (hb : n.testBit 22 = false) : t.radio = s.radio :=
  h.keeps (I := fun x => x.radio = s.radio) (fun u x hu hx => by
    cases u <;> first | exact hx | simp [Upd.In, Upd.bit, hb] at hu) rfl

theorem Reaches.eth {n : Nat} {s t : State} (h : Reaches n s t) (hb : n.testBit 23 = false) : t.eth = s.eth :=
  h.keeps (I := fun x => x.eth = s.eth) (fun u x hu hx => by
    cases u <;> first | exact hx | simp [Upd.In, Upd.bit, hb] at hu) rfl

end Sys2Proof.Machine
end

