-- ==== Sys2Proof/Laws/Registers.lean ====
section
/-! SUPPORT. Fields of registers: what a field reads after a field was stored. -/

namespace Sys2Proof.Machine

open Sys2Proof

/-! ## Bits of words -/

theorem getLsbD_setBits (w : Word) (l n v i : Nat) :
    (setBits w l n v).getLsbD i = if i < 64 ∧ l ≤ i ∧ i < l + n then v.testBit (i - l) else w.getLsbD i := by
  unfold setBits
  simp only [BitVec.getLsbD_or, BitVec.getLsbD_and, BitVec.getLsbD_not, BitVec.getLsbD_ofNat, Nat.testBit_mul_two_pow,
    Nat.testBit_two_pow_sub_one]
  by_cases h64 : i < 64
  · by_cases hl : l ≤ i
    · by_cases hn : i < l + n
      · have : i - l < n := by omega
        simp [h64, hl, hn, this]
      · have : ¬ i - l < n := by omega
        simp [h64, hl, hn, this]
    · simp [h64, hl]
  · have : w.getLsbD i = false := BitVec.getLsbD_of_ge w i (by omega)
    simp [h64, this]

theorem testBit_getBits (w : Word) (l n i : Nat) : (getBits w l n).testBit i = (decide (i < n) && w.getLsbD (i + l)) := by
  unfold getBits bitsOf
  rw [Nat.testBit_mod_two_pow, Nat.testBit_div_two_pow]
  rfl

/-- A field reads as stored. -/
theorem getBits_setBits_same (w : Word) {l n : Nat} (v : Nat) (h : l + n ≤ 64) : getBits (setBits w l n v) l n = v % 2 ^ n := by
  refine Nat.eq_of_testBit_eq fun i => ?_
  rw [testBit_getBits, getLsbD_setBits, Nat.testBit_mod_two_pow]
  by_cases hi : i < n
  · rw [if_pos (by omega)]
    simp [hi]
  · simp [hi]

/-- Storing a field leaves every field beside it. -/
theorem getBits_setBits_apart (w : Word) {l n l' n' : Nat} (v : Nat) (h : l' + n' ≤ l ∨ l + n ≤ l') :
    getBits (setBits w l n v) l' n' = getBits w l' n' := by
  refine Nat.eq_of_testBit_eq fun i => ?_
  rw [testBit_getBits, testBit_getBits, getLsbD_setBits]
  by_cases hi : i < n'
  · rw [if_neg (by omega)]
  · simp [hi]

/-! ## Registers of a state -/

/-- A register after a register was stored. -/
theorem reg_apply {s : State} (h : s.Canonical) (off : Nat) (v : Word) (x : Nat) :
    ((Upd.reg off v).apply s).reg x = if x = off then v else s.reg x :=
  regGet_regPut h.2 off v x

@[simp] theorem run_wrReg (off : Nat) (v : Word) (s : State) : M.run (wrReg off v) s = (Upd.reg off v).apply s := rfl

@[simp] theorem run_wrReg_bind (off : Nat) (v : Word) (f : Unit → M Unit) (s : State) :
    M.run (wrReg off v >>= f) s = M.run (f ()) ((Upd.reg off v).apply s) := rfl

theorem run_wrFld (off : Nat) (f : Field) (v : Nat) (s : State) :
    M.run (wrFld off f v) s = (Upd.reg off (setBits (s.reg off) f.lsb f.width v)).apply s := rfl

theorem run_wrFld_bind (off : Nat) (f : Field) (v : Nat) (g : Unit → M Unit) (s : State) :
    M.run (wrFld off f v >>= g) s = M.run (g ()) ((Upd.reg off (setBits (s.reg off) f.lsb f.width v)).apply s) := rfl

theorem run_bump (off : Nat) (f : Field) (n : Nat) (s : State) :
    M.run (bump off f n) s = M.run (wrFld off f (satAdd f.width (s.fld off f) n)) s := rfl

/-- A field of the register stored, and of every other register. -/
theorem fld_apply_same {s : State} (h : s.Canonical) (off : Nat) (f : Field) (v : Nat) (hf : f.lsb + f.width ≤ 64) :
    ((Upd.reg off (setBits (s.reg off) f.lsb f.width v)).apply s).fld off f = v % 2 ^ f.width := by
  rw [State.fld, reg_apply h, if_pos rfl, getBits_setBits_same _ _ hf]

theorem fld_apply_apart {s : State} (h : s.Canonical) {off : Nat} {f g : Field} (v : Nat)
    (hg : g.lsb + g.width ≤ f.lsb ∨ f.lsb + f.width ≤ g.lsb) :
    ((Upd.reg off (setBits (s.reg off) f.lsb f.width v)).apply s).fld off g = s.fld off g := by
  rw [State.fld, reg_apply h, if_pos rfl, getBits_setBits_apart _ _ hg, State.fld]

theorem reg_apply_other {s : State} (h : s.Canonical) {off x : Nat} (v : Word) (hx : x ≠ off) :
    ((Upd.reg off v).apply s).reg x = s.reg x := by
  rw [reg_apply h, if_neg hx]

/-- States with one register table agree on every register. -/
theorem reg_congr {s t : State} (h : t.regs = s.regs) (x : Nat) : t.reg x = s.reg x := by
  rw [State.reg, h, State.reg]

theorem fld_congr {s t : State} (h : t.regs = s.regs) (x : Nat) (f : Field) : t.fld x f = s.fld x f := by
  rw [State.fld, reg_congr h, State.fld]

end Sys2Proof.Machine
end

