-- ==== Sys2Proof/Laws/Events.lean ====
section
/-! SUPPORT. Everything that raising an event can do (R98, R136): bytes of memory, the system cache and queue 0. -/

namespace Sys2Proof.Machine

open Sys2Proof

theorem Quiet.refl (s : State) : Quiet s s := ⟨rfl, fun _ _ => rfl⟩

theorem Quiet.trans {s t u : State} (h : Quiet s t) (k : Quiet t u) : Quiet s u := by
  refine ⟨?_, fun q hq => (k.queues q hq).trans (h.queues q hq)⟩
  have h1 := h.rest
  have k1 := k.rest
  rw [h1] at k1
  exact k1

/-- An update that keeps everything outside. -/
def EventUpd (u : Upd) : Prop := ∀ s, Quiet s (u.apply s)

theorem Steps.quiet {s t : State} (h : Steps EventUpd s t) : Quiet s t := by
  induction h with
  | refl => exact .refl _
  | snoc _ hu ih => exact ih.trans (hu _)

theorem EventUpd.mem (a : Nat) (bs : List Byte) : EventUpd (.mem a bs) := fun _ => ⟨rfl, fun _ _ => rfl⟩

theorem EventUpd.cache {f : MemSys → MemSys} (h : ∀ m, f m = { m with cache := (f m).cache }) : EventUpd (.sys f) :=
  fun s => ⟨congrArg (fun m => { s with sys := m }) (h s.sys), fun _ _ => rfl⟩

theorem modQueue0_event (f : Queue → Queue) : M.All EventUpd (modQueue 0 f) := by
  refine .update fun s => ⟨rfl, fun q hq => ?_⟩
  change tblFind (match tblFind s.tally.queues 0 with
    | some k => tblSet s.tally.queues 0 (f k)
    | none => s.tally.queues) q = tblFind s.tally.queues q
  split
  · exact tblFind_tblSet _ _ hq
  · rfl

theorem writeBack_event (line : Nat) : M.All EventUpd (writeBack line) := by
  unfold writeBack
  refine .bind .getS fun s => ?_
  split
  · split
    · exact .bind (.update (.mem _ _)) fun _ => .update (.cache fun _ => rfl)
    · exact .update (.cache fun _ => rfl)
  · exact .pure _

theorem dropLine_event (line : Nat) : M.All EventUpd (dropLine line) :=
  .bind (writeBack_event line) fun _ => .update (.cache fun _ => rfl)

theorem allocLine_event (line : Nat) (l : CacheLine) : M.All EventUpd (allocLine line l) := by
  unfold allocLine
  refine .bind .getS fun s => ?_
  split
  · split
    · exact .bind (dropLine_event _) fun _ => .update (.cache fun _ => rfl)
    · exact .update (.cache fun _ => rfl)
  · exact .update (.cache fun _ => rfl)

theorem storeLine_event (who a : Nat) (bs : List Byte) : M.All EventUpd (storeLine who a bs) := by
  unfold storeLine
  refine .bind .getS fun s => ?_
  split
  · exact .ite (allocLine_event _ _) (.bind (dropLine_event _) fun _ => .update (.mem _ _))
  · exact .update (.mem _ _)

theorem streamWrite0_event (pa : Nat) (r : List Byte) : M.All EventUpd (streamWrite 0 pa r) := by
  unfold streamWrite
  refine .bind .getS fun s => ?_
  split
  · exact .pure _
  · exact .bind (storeLine_event _ _ _) fun _ => modQueue0_event _

theorem offer0_event (mk : Nat → List Byte) : M.All EventUpd (offer0 mk) := by
  have last : M.All EventUpd (do
      let s ← getS
      match s.queue 0 with
      | none => pure ()
      | some u =>
        modQueue 0 fun u => { u with evSeq := (u.evSeq + 1) % 2 ^ 32 }
        let pa := u.base + 64 * freeSlot u
        if u.full ∨ !s.takesWrite pa then
          modQueue 0 fun u => { u with evLost := u.evLost + 1, drops := u.drops + 1 }
        else streamWrite 0 pa (mk u.evSeq)) := by
    refine .bind .getS fun s => ?_
    split
    · exact .pure _
    · exact .bind (modQueue0_event _) fun _ => .ite (modQueue0_event _) (streamWrite0_event _ _)
  unfold offer0
  refine .bind .getS fun s => ?_
  split
  · exact .pure _
  · split
    · exact .bind (streamWrite0_event _ _) fun _ => .bind (modQueue0_event _) fun _ => last
    · exact last

/-- What raising an event does: memory, the system cache and queue 0 take the record, nothing else changes. -/
theorem raise_event (src part code : Nat) (detail : List Byte) : M.All EventUpd (raise src part code detail) :=
  .bind .getS fun _ => offer0_event _

theorem run_raise_quiet (src part code : Nat) (detail : List Byte) (s : State) :
    Quiet s (M.run (raise src part code detail) s) :=
  ((raise_event src part code detail).run_steps s).quiet

theorem refuseReg_event (off value lsb : Nat) : M.All EventUpd (refuseReg off value lsb) := raise_event _ _ _ _

theorem clampReg_event (off value applied lsb width : Nat) : M.All EventUpd (clampReg off value applied lsb width) :=
  raise_event _ _ _ _

theorem Quiet.regs {s t : State} (h : Quiet s t) : t.regs = s.regs := by rw [h.rest]

theorem Quiet.sameBut {s t : State} (h : Quiet s t) : s.SameBut [.mem, .sys, .tally] t := by
  rw [h.rest]
  refine ⟨rfl, fun p hp => ?_⟩
  cases p <;> first | rfl | exact absurd hp (by decide)

/-- Raising an event in a state is quiet. -/
theorem State.afterEvent_quiet (s : State) (src part code : Nat) (detail : List Byte) :
    Quiet s (s.afterEvent src part code detail) := run_raise_quiet src part code detail s

theorem Quiet.reg {s t : State} (h : Quiet s t) (x : Nat) : t.reg x = s.reg x := reg_congr h.regs x

theorem Quiet.fld {s t : State} (h : Quiet s t) (x : Nat) (f : Field) : t.fld x f = s.fld x f := fld_congr h.regs x f

end Sys2Proof.Machine
end

