-- ==== Sys2Proof/Laws/Parts.lean ====
section
/-! SUPPORT. The frame of every command, from the components it reaches. -/

namespace Sys2Proof.Machine

open Sys2Proof

/-- The bits of a component in a mask over `Upd.kind`. -/
def Part.bits : Part → Nat
  | .mem => 0x3
  | .regs => 0xC
  | .out => 0x10
  | .free => 0x20
  | .clock => 0x40
  | .sys => 0x80
  | .tally => 0x100
  | .engines => 0x200
  | .dma => 0x400
  | .rcv => 0x800
  | .hall => 0x1000
  | .sent => 0x2000
  | .pins => 0x4000
  | .fabric => 0x8000
  | .power => 0x10000
  | .store => 0x20000
  | .sec => 0x40000
  | .bist => 0x80000
  | .safe => 0x100000
  | .cams => 0x200000
  | .radio => 0x400000
  | .eth => 0x800000

theorem Part.testBit_of_land {n b i : Nat} (h : n &&& b = 0) (hb : b.testBit i = true) : n.testBit i = false := by
  have := congrArg (fun x => x.testBit i) h
  simpa [Nat.testBit_and, hb] using this

theorem Reaches.same {n : Nat} {s t : State} (h : Reaches n s t) (p : Part) (hp : n &&& p.bits = 0) : p.same s t := by
  have bit {i : Nat} (hb : p.bits.testBit i = true) : n.testBit i = false := Part.testBit_of_land hp hb
  cases p
  case mem => exact h.mem (bit rfl) (bit rfl)
  case regs => exact h.regs (bit rfl) (bit rfl)
  case out => exact h.out (bit rfl)
  case free => exact h.free (bit rfl)
  case clock => exact h.clock (bit rfl)
  case sys => exact h.sys (bit rfl)
  case tally => exact h.tally (bit rfl)
  case engines => exact h.engines (bit rfl)
  case dma => exact h.dma (bit rfl)
  case rcv => exact h.rcv (bit rfl)
  case hall => exact h.hall (bit rfl)
  case sent => exact h.sent (bit rfl)
  case pins => exact h.pins (bit rfl)
  case fabric => exact h.fabric (bit rfl)
  case power => exact h.power (bit rfl)
  case store => exact h.store (bit rfl)
  case sec => exact h.sec (bit rfl)
  case bist => exact h.bist (bit rfl)
  case safe => exact h.safe (bit rfl)
  case cams => exact h.cams (bit rfl)
  case radio => exact h.radio (bit rfl)
  case eth => exact h.eth (bit rfl)

/-- The components whose bits a mask has. -/
def Part.all : List Part := [.mem, .regs, .out, .free, .clock, .sys, .tally, .engines, .dma, .rcv, .hall, .sent, .pins, .fabric, .power, .store, .sec, .bist, .safe, .cams, .radio, .eth]

theorem Part.mem_all (p : Part) : p ∈ Part.all := by
  cases p <;> decide

theorem Reaches.sameBut {n : Nat} {s t : State} (h : Reaches n s t) (ps : List Part)
    (hp : (Part.all.all fun p => ps.contains p || n &&& p.bits == 0) = true) : s.SameBut ps t := by
  refine ⟨h.pending, fun p hn => h.same p ?_⟩
  have := List.all_eq_true.mp hp p p.mem_all
  simpa [hn] using this

/-- The mask of a command covers no more than the components the command may change. -/
theorem reachOf_parts (i : Instr) : (Part.all.all fun p => i.parts.contains p || reachOf i &&& p.bits == 0) = true := by
  cases i <;> (dsimp only [Instr.parts, reachOf]; decide)

end Sys2Proof.Machine
end

