-- ==== Sys2Proof/WellFormed.lean ====
section
/-! DEFINITION. Which commands are well formed: every operand lies in the range its register field, table or record gives it. The commands
of the block that are no terms of these ranges name nothing the spec describes. -/

namespace Sys2Proof

/-- A requester the chip has (R9): sixteen application cores; engine and block IDs of one byte. -/
def Requester.wf : Requester → Bool
  | .core n _ => decide (n < 16)
  | .engine e => decide (e < 256)
  | .bcc => true
  | .host => true

/-- Every operand in its range. -/
def Instr.wf : Instr → Bool
  | .registerWrite sender _ offset _ => sender.wf && decide (offset < 0x400000) && offset % 4 == 0
  | .memoryRequest sender _ isWrite addr len data upset => sender.wf && decide (addr < 2 ^ 64) && decide (len < 65) && decide (upset < 3) && decide (1 ≤ len) && (!isWrite || data.length == len)
  | .patrolScrub channel _ _ => decide (channel < 8)
  | .driftTracking channel rank => decide (channel < 8) && decide (rank < 2)
  | .refresh channel rank _ => decide (channel < 8) && decide (rank < 2)
  | .training part => decide (part < 4)
  | .mmuInval sender handle _ => sender.wf && decide (handle < 2 ^ 20)
  | .mmuInvalDone => true
  | .createContext id _ root ceiling _ _ eventQueue => decide (id < 4096) && decide (root < 2 ^ 40) && decide (ceiling < 8) && decide (eventQueue < 4096)
  | .teardownContext handle reportAt => decide (handle < 2 ^ 20) && decide (reportAt < 2 ^ 40)
  | .teardownComplete handle => decide (handle < 2 ^ 20)
  | .fabDrainDeclared handle => decide (handle < 2 ^ 20)
  | .lateResponseDiscard handle => decide (handle < 2 ^ 20)
  | .registerBuffer handle base length => decide (handle < 2 ^ 20) && decide (base < 2 ^ 64) && decide (length < 2 ^ 64)
  | .deregisterBuffer handle base => decide (handle < 2 ^ 20) && decide (base < 2 ^ 64)
  | .deregistrationComplete handle base => decide (handle < 2 ^ 20) && decide (base < 2 ^ 64)
  | .portAckRead port => decide (port < 18)
  | .enqueue port target ty => decide (port < 18) && decide (target < 2 ^ 20) && decide (ty < 16)
  | .taskSubmission port target => decide (port < 18) && decide (target < 2 ^ 20)
  | .ledgerAcceptance port target ty => decide (port < 18) && decide (target < 2 ^ 20) && decide (ty < 16)
  | .dequeue port target => decide (port < 18) && decide (target < 2 ^ 20)
  | .createQueue port => decide (port < 18)
  | .destroyQueue port target => decide (port < 18) && decide (target < 2 ^ 20)
  | .grant port target => decide (port < 18) && decide (target < 2 ^ 20)
  | .revoke port target => decide (port < 18) && decide (target < 2 ^ 20)
  | .registerGraph port => decide (port < 18)
  | .deregisterGraph port => decide (port < 18)
  | .graphDeregistrationDone _ => true
  | .tokenArrival handle key _ => decide (handle < 2 ^ 20) && decide (1 ≤ key) && decide (key < 4096)
  | .dispatch engine => decide (engine < 540)
  | .descriptorFetch engine => decide (engine < 540)
  | .taskStart engine => decide (engine < 540)
  | .blockStepEnd engine _ => decide (engine < 540)
  | .abftRecomputeDone engine _ => decide (engine < 540)
  | .preemptSave engine => decide (engine < 540)
  | .taskEnd engine cycles => decide (engine < 540) && decide (cycles < 2 ^ 64)
  | .commit _ => true
  | .heldEffectRelease queue seq => decide (queue < 4096) && decide (seq < 2 ^ 32)
  | .queueAppend _ => true
  | .budgetExpiry engine => decide (engine < 540)
  | .midstreamFault _ reason => decide (reason < 3)
  | .faultResume sender _ handle => sender.wf && decide (handle < 2 ^ 20)
  | .faultResumeAbandon sender _ handle => sender.wf && decide (handle < 2 ^ 20)
  | .holdLimitExpiry _ => true
  | .progressWatchdog _ => true
  | .bandFilled _ record => decide (record < 256)
  | .bandReleased _ record => decide (record < 256)
  | .delayFire _ => true
  | .slotInstanceCreate _ => true
  | .nop _ => true
  | .delay _ => true
  | .instantiate _ => true
  | .post _ => true
  | .copy engine => decide (engine < 540)
  | .fill engine => decide (engine < 540)
  | .gather engine => decide (engine < 540)
  | .scatter engine => decide (engine < 540)
  | .matmul engine => decide (engine < 540)
  | .conv2d engine => decide (engine < 540)
  | .dwconv2d engine => decide (engine < 540)
  | .tconv2d engine => decide (engine < 540)
  | .eltwise engine => decide (engine < 540)
  | .unary engine => decide (engine < 540)
  | .quantize engine => decide (engine < 540)
  | .dequantize engine => decide (engine < 540)
  | .cmatmul engine => decide (engine < 540)
  | .reduce engine => decide (engine < 540)
  | .softmax engine => decide (engine < 540)
  | .layernorm engine => decide (engine < 540)
  | .rmsnorm engine => decide (engine < 540)
  | .argmax engine => decide (engine < 540)
  | .topk engine => decide (engine < 540)
  | .attention engine => decide (engine < 540)
  | .routeGather engine => decide (engine < 540)
  | .routeCombine engine => decide (engine < 540)
  | .ispFrame engine => decide (engine < 540)
  | .pyrBuild engine => decide (engine < 540)
  | .pyrLaplace engine => decide (engine < 540)
  | .warpMesh engine => decide (engine < 540)
  | .warpHomog engine => decide (engine < 540)
  | .flow engine => decide (engine < 540)
  | .stereo engine => decide (engine < 540)
  | .featDetect engine => decide (engine < 540)
  | .featMatch engine => decide (engine < 540)
  | .dfeDdc engine => decide (engine < 540)
  | .dfeDuc engine => decide (engine < 540)
  | .fft engine => decide (engine < 540)
  | .ifft engine => decide (engine < 540)
  | .prachDetect engine => decide (engine < 540)
  | .ldpcDecode engine => decide (engine < 540)
  | .ldpcEncode engine => decide (engine < 540)
  | .polarEncode engine => decide (engine < 540)
  | .polarDecode engine => decide (engine < 540)
  | .fhTx engine => decide (engine < 540)
  | .fhRx engine => decide (engine < 540)
  | .crc32c engine => decide (engine < 540)
  | .compare engine => decide (engine < 540)
  | .cairnCheck engine => decide (engine < 540)
  | .sendShard engine => decide (engine < 540)
  | .recvShard engine => decide (engine < 540)
  | .allReduce engine => decide (engine < 540)
  | .allGather engine => decide (engine < 540)
  | .packetReceive port vc dt _ header _ => decide (port < 8) && decide (vc < 16) && decide (dt < 64) && decide (header < 3) && decide (2 ≤ dt)
  | .deskew port _ => decide (port < 8)
  | .csiLinkLoss port => decide (port < 8)
  | .frameStart cam csiFrame => decide (cam < 32) && decide (csiFrame < 65536)
  | .frameEnd cam csiFrame => decide (cam < 32) && decide (csiFrame < 65536)
  | .frameTimeout cam => decide (cam < 32)
  | .camArm sender cam => sender.wf && decide (cam < 32)
  | .camDisarm sender cam => sender.wf && decide (cam < 32)
  | .exposureRequest sender cam block => sender.wf && decide (cam < 32) && decide (block < 2 ^ 48)
  | .busListStart sender port addr => sender.wf && decide (port < 8) && decide (addr < 2 ^ 48)
  | .busTransferComplete port _ => decide (port < 8)
  | .busTransferFail port => decide (port < 8)
  | .ispCtlApply => true
  | .hallFlagAdv sender flag => sender.wf && decide (flag < 4096)
  | .hallFlagThrWrite sender flag thr => sender.wf && decide (flag < 4096) && decide (thr < 2 ^ 32)
  | .hallRecordActivate sender record base copiesM1 => sender.wf && decide (record < 256) && decide (base < 2 ^ 48) && decide (copiesM1 < 256)
  | .dmaStart sender ch => sender.wf && decide (ch < 64)
  | .dmaArm sender ch => sender.wf && decide (ch < 64)
  | .dmaDisarm sender ch => sender.wf && decide (ch < 64)
  | .dmaStop sender ch => sender.wf && decide (ch < 64)
  | .dmaAbort sender ch => sender.wf && decide (ch < 64)
  | .crateFetchDone ch => decide (ch < 64)
  | .descriptorComplete ch => decide (ch < 64)
  | .writebackAck ch => decide (ch < 64)
  | .dmaTransferError ch => decide (ch < 64)
  | .fetchTimeout ch => decide (ch < 64)
  | .descriptorTimeout ch => decide (ch < 64)
  | .dmaDrainComplete ch => decide (ch < 64)
  | .streamShareWrite sender part _ => sender.wf && decide (part < 4)
  | .fenceDrainEnd domain => decide (domain < 2 ^ 34)
  | .fenceDrainDeclaration domain => decide (domain < 2 ^ 34)
  | .rung1Reset engine handle => decide (engine < 540) && decide (handle < 2 ^ 20)
  | .rung2Reset engine => decide (engine < 540)
  | .rung3Reset part => decide (part < 7)
  | .chipReset cause => decide (cause < 256)
  | .powerCycleRequest reason => decide (reason < 4) && decide (1 ≤ reason)
  | .rungLimitExpiry reset => decide (reset < 2 ^ 34)
  | .resetComplete reset => decide (reset < 2 ^ 34)
  | .replayChip => true
  | .engineHangWatchdog engine => decide (engine < 540)
  | .wdtKick sender => sender.wf
  | .bccWatchdogExpiry => true
  | .heartbeatLoss block => decide (block < 4) && decide (1 ≤ block)
  | .resetIn => true
  | .resetInRelease => true
  | .smbusBlockReadA0 => true
  | .returnToService sender addr => sender.wf && decide (addr < 2 ^ 40)
  | .startService sender => sender.wf
  | .timeStep sender _ => sender.wf
  | .ppsInEdge => true
  | .ppsOutRise => true
  | .ppsOutFall => true
  | .timeLocked _ => true
  | .holdover _ => true
  | .gateDecision pipe _ => decide (pipe < 32)
  | .gateDeadline pipe _ => decide (pipe < 32)
  | .checkerCompare pipe _ crc => decide (pipe < 32) && decide (crc < 2 ^ 32)
  | .safeClear sender pipe => sender.wf && decide (pipe < 32)
  | .safeEnter sender pipe => sender.wf && decide (pipe < 32)
  | .pipelineEnable sender pipe => sender.wf && decide (pipe < 32)
  | .sealEnable sender record base => sender.wf && decide (record < 256) && decide (base < 2 ^ 48)
  | .belayEnable sender window => sender.wf && decide (window < 256)
  | .belayArm sender window => sender.wf && decide (window < 256)
  | .belayDisarm sender window => sender.wf && decide (window < 256)
  | .belayWindowDecision window => decide (window < 256)
  | .cairnEnable sender cairn => sender.wf && decide (cairn < 16)
  | .cairnDue cairn => decide (cairn < 16)
  | .cairnWindowExpiry cairn => decide (cairn < 16)
  | .bistStart sender unit => sender.wf && decide (unit < 16)
  | .bistAbort sender => sender.wf
  | .bistDrainLimit => true
  | .lbistComplete _ _ broken _ => decide (broken < 3)
  | .mbistComplete _ => true
  | .rotationDue => true
  | .bistRetry => true
  | .bistBypassWrite sender engines => sender.wf && decide (engines < 2 ^ 64)
  | .railInvalid rail => decide (rail < 10)
  | .railValid rail => decide (rail < 10)
  | .powerOn => true
  | .bccResetRelease => true
  | .refAoLoss => true
  | .warmStandbyEntry engine => decide (engine < 540)
  | .coldEntry engine => decide (engine < 540)
  | .pllStop domain => decide (domain < 41)
  | .wakeComplete engine => decide (engine < 540)
  | .domainSwitch sender domain _ => sender.wf && decide (domain < 85)
  | .pllUnlock domain => decide (domain < 41)
  | .pllRelockTimeout domain => decide (domain < 41)
  | .powerEvaluation _ => true
  | .monitorSample kind index value => decide (kind < 4) && decide (index < 128) && decide (value < 2 ^ 32)
  | .droopDetect part => decide (part < 7)
  | .boot port body _ ring => decide (port < 64) && decide (body < 2 ^ 11) && decide (ring < 2 ^ 38) && ring % 64 == 0
  | .measurementExtend sender layer addr => sender.wf && decide (layer < 8) && decide (addr < 2 ^ 40)
  | .attestationRequest sender addr => sender.wf && decide (addr < 2 ^ 40)
  | .attestationReportDone => true
  | .firmwareUpdate sender addr => sender.wf && decide (addr < 2 ^ 40)
  | .updateWriteDone _ => true
  | .quiescentTick => true
  | .updateWaitTimeout => true
  | .updateCommit => true
  | .updateRevert => true
  | .svnCommitBcc sender => sender.wf
  | .svnCommitApp sender => sender.wf
  | .idcode => true
  | .tapBypass => true
  | .debugChallenge => true
  | .debugResponse _ => true
  | .extest pins => decide (pins < 16)
  | .extestExit => true
  | .ethFrameReceive port frame => decide (port < 8) && decide (14 ≤ frame.length)
  | .ethFrameTransmit port => decide (port < 8)
  | .rxBufferReturn sender port _ => sender.wf && decide (port < 8)
  | .ethLinkUp port => decide (port < 8)
  | .ethLinkDown port => decide (port < 8)
  | .lldpSend port => decide (port < 8)
  | .lldpTtlExpiry port => decide (port < 8)
  | .rdmaWriteReceive qp psn form rkey addr len _ _ => decide (qp < 4096) && decide (psn < 2 ^ 24) && decide (form < 4) && decide (rkey < 2 ^ 32) && decide (addr < 2 ^ 64) && decide (len < 2 ^ 32)
  | .rdmaReadReceive qp psn rkey addr len => decide (qp < 4096) && decide (psn < 2 ^ 24) && decide (rkey < 2 ^ 32) && decide (addr < 2 ^ 64) && decide (len < 2 ^ 32)
  | .roceSendReceive qp psn form _ _ => decide (qp < 4096) && decide (psn < 2 ^ 24) && decide (form < 4)
  | .roceAckReceive qp psn nak => decide (qp < 4096) && decide (psn < 2 ^ 24) && decide (nak < 4)
  | .cnpReceive qp => decide (qp < 4096)
  | .ackTimeout qp => decide (qp < 4096)
  | .rateWindowEnd qp => decide (qp < 4096)
  | .resetNotice job rank => decide (job < 16) && decide (rank < 65536)
  | .transferDiscard _ => true
  | .jobAbort sender job _ => sender.wf && decide (job < 16)
  | .jobResume sender job => sender.wf && decide (job < 16)
  | .pcieLinkUp speed width => decide (speed < 6) && decide (width < 9) && decide (1 ≤ speed) && [1, 2, 4, 8].contains width
  | .pcieLinkDown => true
  | .msiReceive addr data => decide (addr < 2 ^ 64) && decide (data < 2 ^ 32)
  | .sysrefEdge => true
  | .jesdLinkError link _ => decide (link < 8)
  | .symbolBoundary carrier _ => decide (carrier < 12)
  | .symbolLaunch carrier => decide (carrier < 12)
  | .fhWindowOpen peer => decide (peer < 16)
  | .fhWindowClose peer => decide (peer < 16)
  | .pllRelocked domain => decide (domain < 41)
  | .servoStart => true
  | .droopStretchEnd part => decide (part < 7)
  | .updateVerificationDone => true
  | .ledgerCopyRewritten queue => decide (queue < 2 ^ 20)
  | .rdmaReadResponse qp psn _ => decide (qp < 4096) && decide (psn < 2 ^ 24)

/-- The engine and the opcode of a command that carries out an operation of a descriptor (R75, R84). -/
def Instr.operation : Instr → Option (Nat × Nat)
  | .registerWrite _ _ _ _ => none
  | .memoryRequest _ _ _ _ _ _ _ => none
  | .patrolScrub _ _ _ => none
  | .driftTracking _ _ => none
  | .refresh _ _ _ => none
  | .training _ => none
  | .mmuInval _ _ _ => none
  | .mmuInvalDone => none
  | .createContext _ _ _ _ _ _ _ => none
  | .teardownContext _ _ => none
  | .teardownComplete _ => none
  | .fabDrainDeclared _ => none
  | .lateResponseDiscard _ => none
  | .registerBuffer _ _ _ => none
  | .deregisterBuffer _ _ => none
  | .deregistrationComplete _ _ => none
  | .portAckRead _ => none
  | .enqueue _ _ _ => none
  | .taskSubmission _ _ => none
  | .ledgerAcceptance _ _ _ => none
  | .dequeue _ _ => none
  | .createQueue _ => none
  | .destroyQueue _ _ => none
  | .grant _ _ => none
  | .revoke _ _ => none
  | .registerGraph _ => none
  | .deregisterGraph _ => none
  | .graphDeregistrationDone _ => none
  | .tokenArrival _ _ _ => none
  | .dispatch _ => none
  | .descriptorFetch _ => none
  | .taskStart _ => none
  | .blockStepEnd _ _ => none
  | .abftRecomputeDone _ _ => none
  | .preemptSave _ => none
  | .taskEnd _ _ => none
  | .commit _ => none
  | .heldEffectRelease _ _ => none
  | .queueAppend _ => none
  | .budgetExpiry _ => none
  | .midstreamFault _ _ => none
  | .faultResume _ _ _ => none
  | .faultResumeAbandon _ _ _ => none
  | .holdLimitExpiry _ => none
  | .progressWatchdog _ => none
  | .bandFilled _ _ => none
  | .bandReleased _ _ => none
  | .delayFire _ => none
  | .slotInstanceCreate _ => none
  | .nop _ => none
  | .delay _ => none
  | .instantiate _ => none
  | .post _ => none
  | .copy engine => some (engine, 0x100)
  | .fill engine => some (engine, 0x101)
  | .gather engine => some (engine, 0x102)
  | .scatter engine => some (engine, 0x103)
  | .matmul engine => some (engine, 0x200)
  | .conv2d engine => some (engine, 0x201)
  | .dwconv2d engine => some (engine, 0x202)
  | .tconv2d engine => some (engine, 0x203)
  | .eltwise engine => some (engine, 0x204)
  | .unary engine => some (engine, 0x205)
  | .quantize engine => some (engine, 0x206)
  | .dequantize engine => some (engine, 0x207)
  | .cmatmul engine => some (engine, 0x208)
  | .reduce engine => some (engine, 0x300)
  | .softmax engine => some (engine, 0x301)
  | .layernorm engine => some (engine, 0x302)
  | .rmsnorm engine => some (engine, 0x303)
  | .argmax engine => some (engine, 0x304)
  | .topk engine => some (engine, 0x305)
  | .attention engine => some (engine, 0x400)
  | .routeGather engine => some (engine, 0x401)
  | .routeCombine engine => some (engine, 0x402)
  | .ispFrame engine => some (engine, 0x500)
  | .pyrBuild engine => some (engine, 0x501)
  | .pyrLaplace engine => some (engine, 0x502)
  | .warpMesh engine => some (engine, 0x503)
  | .warpHomog engine => some (engine, 0x504)
  | .flow engine => some (engine, 0x505)
  | .stereo engine => some (engine, 0x506)
  | .featDetect engine => some (engine, 0x507)
  | .featMatch engine => some (engine, 0x508)
  | .dfeDdc engine => some (engine, 0x600)
  | .dfeDuc engine => some (engine, 0x601)
  | .fft engine => some (engine, 0x602)
  | .ifft engine => some (engine, 0x603)
  | .prachDetect engine => some (engine, 0x604)
  | .ldpcDecode engine => some (engine, 0x605)
  | .ldpcEncode engine => some (engine, 0x606)
  | .polarEncode engine => some (engine, 0x607)
  | .polarDecode engine => some (engine, 0x608)
  | .fhTx engine => some (engine, 0x609)
  | .fhRx engine => some (engine, 0x60A)
  | .crc32c engine => some (engine, 0x700)
  | .compare engine => some (engine, 0x701)
  | .cairnCheck engine => some (engine, 0x702)
  | .sendShard engine => some (engine, 0x800)
  | .recvShard engine => some (engine, 0x801)
  | .allReduce engine => some (engine, 0x802)
  | .allGather engine => some (engine, 0x803)
  | .packetReceive _ _ _ _ _ _ => none
  | .deskew _ _ => none
  | .csiLinkLoss _ => none
  | .frameStart _ _ => none
  | .frameEnd _ _ => none
  | .frameTimeout _ => none
  | .camArm _ _ => none
  | .camDisarm _ _ => none
  | .exposureRequest _ _ _ => none
  | .busListStart _ _ _ => none
  | .busTransferComplete _ _ => none
  | .busTransferFail _ => none
  | .ispCtlApply => none
  | .hallFlagAdv _ _ => none
  | .hallFlagThrWrite _ _ _ => none
  | .hallRecordActivate _ _ _ _ => none
  | .dmaStart _ _ => none
  | .dmaArm _ _ => none
  | .dmaDisarm _ _ => none
  | .dmaStop _ _ => none
  | .dmaAbort _ _ => none
  | .crateFetchDone _ => none
  | .descriptorComplete _ => none
  | .writebackAck _ => none
  | .dmaTransferError _ => none
  | .fetchTimeout _ => none
  | .descriptorTimeout _ => none
  | .dmaDrainComplete _ => none
  | .streamShareWrite _ _ _ => none
  | .fenceDrainEnd _ => none
  | .fenceDrainDeclaration _ => none
  | .rung1Reset _ _ => none
  | .rung2Reset _ => none
  | .rung3Reset _ => none
  | .chipReset _ => none
  | .powerCycleRequest _ => none
  | .rungLimitExpiry _ => none
  | .resetComplete _ => none
  | .replayChip => none
  | .engineHangWatchdog _ => none
  | .wdtKick _ => none
  | .bccWatchdogExpiry => none
  | .heartbeatLoss _ => none
  | .resetIn => none
  | .resetInRelease => none
  | .smbusBlockReadA0 => none
  | .returnToService _ _ => none
  | .startService _ => none
  | .timeStep _ _ => none
  | .ppsInEdge => none
  | .ppsOutRise => none
  | .ppsOutFall => none
  | .timeLocked _ => none
  | .holdover _ => none
  | .gateDecision _ _ => none
  | .gateDeadline _ _ => none
  | .checkerCompare _ _ _ => none
  | .safeClear _ _ => none
  | .safeEnter _ _ => none
  | .pipelineEnable _ _ => none
  | .sealEnable _ _ _ => none
  | .belayEnable _ _ => none
  | .belayArm _ _ => none
  | .belayDisarm _ _ => none
  | .belayWindowDecision _ => none
  | .cairnEnable _ _ => none
  | .cairnDue _ => none
  | .cairnWindowExpiry _ => none
  | .bistStart _ _ => none
  | .bistAbort _ => none
  | .bistDrainLimit => none
  | .lbistComplete _ _ _ _ => none
  | .mbistComplete _ => none
  | .rotationDue => none
  | .bistRetry => none
  | .bistBypassWrite _ _ => none
  | .railInvalid _ => none
  | .railValid _ => none
  | .powerOn => none
  | .bccResetRelease => none
  | .refAoLoss => none
  | .warmStandbyEntry _ => none
  | .coldEntry _ => none
  | .pllStop _ => none
  | .wakeComplete _ => none
  | .domainSwitch _ _ _ => none
  | .pllUnlock _ => none
  | .pllRelockTimeout _ => none
  | .powerEvaluation _ => none
  | .monitorSample _ _ _ => none
  | .droopDetect _ => none
  | .boot _ _ _ _ => none
  | .measurementExtend _ _ _ => none
  | .attestationRequest _ _ => none
  | .attestationReportDone => none
  | .firmwareUpdate _ _ => none
  | .updateWriteDone _ => none
  | .quiescentTick => none
  | .updateWaitTimeout => none
  | .updateCommit => none
  | .updateRevert => none
  | .svnCommitBcc _ => none
  | .svnCommitApp _ => none
  | .idcode => none
  | .tapBypass => none
  | .debugChallenge => none
  | .debugResponse _ => none
  | .extest _ => none
  | .extestExit => none
  | .ethFrameReceive _ _ => none
  | .ethFrameTransmit _ => none
  | .rxBufferReturn _ _ _ => none
  | .ethLinkUp _ => none
  | .ethLinkDown _ => none
  | .lldpSend _ => none
  | .lldpTtlExpiry _ => none
  | .rdmaWriteReceive _ _ _ _ _ _ _ _ => none
  | .rdmaReadReceive _ _ _ _ _ => none
  | .roceSendReceive _ _ _ _ _ => none
  | .roceAckReceive _ _ _ => none
  | .cnpReceive _ => none
  | .ackTimeout _ => none
  | .rateWindowEnd _ => none
  | .resetNotice _ _ => none
  | .transferDiscard _ => none
  | .jobAbort _ _ _ => none
  | .jobResume _ _ => none
  | .pcieLinkUp _ _ => none
  | .pcieLinkDown => none
  | .msiReceive _ _ => none
  | .sysrefEdge => none
  | .jesdLinkError _ _ => none
  | .symbolBoundary _ _ => none
  | .symbolLaunch _ => none
  | .fhWindowOpen _ => none
  | .fhWindowClose _ => none
  | .pllRelocked _ => none
  | .servoStart => none
  | .droopStretchEnd _ => none
  | .updateVerificationDone => none
  | .ledgerCopyRewritten _ => none
  | .rdmaReadResponse _ _ _ => none

end Sys2Proof
end

