-- ==== Sys2Proof/Tests/Slice0.lean ====
section
/-! SUPPORT. Tests of single steps on small states, and witnesses of the statements' hypotheses. The expected values are worked out by hand
from the rules named beside them. -/

namespace Sys2Proof.Tests

open Sys2Proof Sys2Proof.Machine

set_option Elab.async false

/-! ## Helpers -/

/-- Whether a command answers a next state of which a test holds. -/
def after (c : Instr) (s : State) (p : State → Bool) : Bool :=
  match exec c s with
  | .next t => p t
  | _ => false

/-- Whether a command is turned away. -/
def off (c : Instr) (s : State) : Bool :=
  match exec c s with
  | .refused .notEnabled => true
  | _ => false

/-- Whether a state's lists are in canonical form. -/
def canon (s : State) : Bool := Memory.wf s.mem && Registers.wf s.regs

/-- A register and a field set in a state. -/
def reg (s : State) (o v : Nat) : State := { s with regs := regPut s.regs o (BitVec.ofNat 64 v) }
def fld (s : State) (o : Nat) (f : Field) (v : Nat) : State := { s with regs := regPut s.regs o (setBits (s.reg o) f.lsb f.width v) }

/-- Bytes set in memory. -/
def put (s : State) (a : Nat) (b : List Byte) : State := { s with mem := memPutAll s.mem a b }

def at_ (s : State) (now : Nat) : State := { s with clock := { s.clock with now := now } }

/-- An address of a Hall bank, in the test context's buffer. -/
def hall : Nat := 0x4010000000

def ctx1 : Ctx := ⟨.live, 1, true, 0, 7, true, 4096, 0, [], [], 0, 0, [], 0, 0⟩
def queue1 : Queue :=
  ⟨0x1001, hall + 0x8000, 16, 1, 0, false, false, false, [], [], 0, 0, none, 0, 0, 5, 5, 0, false, [], [], 0, none, false⟩

/-- A running device: one physically addressing safety context 0x1001 with a buffer and queue 1, one engine awake. -/
def base : State := { State.reset with
  power := { State.reset.power with phase := 2 }
  sec := { State.reset.sec with booted := true }
  clock := { State.reset.clock with now := 1000 * 2 ^ 32 }
  sys := { State.reset.sys with holes := [] }
  tally := { tally0 with
    accepting := true
    contexts := [(1, ctx1)]
    buffers := [⟨0x1001, hall, 0x10000, false⟩]
    queues := [(1, queue1)]
    nextTask := 20 }
  engines := [(0, { engine0 with power := .awake })] }

/-- The same with an event queue 0 in on-chip memory. -/
def withEvents (s : State) : State := { s with tally := { s.tally with
  contexts := (0, { ctx1 with quota := 262144 }) :: s.tally.contexts
  queues := (0, { queue1 with owner := 0x1000, base := 0x4010100000 }) :: s.tally.queues } }

/-- The code of the newest event in queue 0. -/
def lastEvent (s : State) : Nat :=
  match s.queue 0 with
  | some u => match u.ents.getLast? with
    | some e => leAt (s.bytesAt (u.base + 64 * e.slot) 64) 14 2
    | none => 0
  | none => 0


/-- A task descriptor at feature level 3: opcode, class, completion record, parameter block, slot words. -/
def tdesc (op cls cpl param : Nat) (slots : List (Nat × Nat)) : List Byte :=
  leBytes 4 (op + 3 * 2 ^ 16 + cls * 2 ^ 20) ++ leBytes 4 0x1001 ++ zeros 8 ++ leBytes 8 cpl ++ leBytes 8 param
    ++ (List.range 12).flatMap fun n => leBytes 8 ((tblFind slots n).getD 0)

/-- A one-dimensional tensor descriptor of unscaled elements: base, data type, extent. -/
def td1 (a dt n : Nat) : List Byte :=
  leBytes 6 a ++ leBytes 1 dt ++ leBytes 1 0 ++ leBytes 8 (0x4688 * 2 ^ 48) ++ leBytes 4 0 ++ leBytes 2 (n - 1) ++ zeros 31
    ++ leBytes 3 6 ++ zeros 8

/-- A task of context 0x1001 with a descriptor. -/
def task1 (d : List Byte) : Task := newTask 0x1001 d (.enq 1 4) none [] [] []

/-- A state with a task in the store. -/
def withTask (s : State) (n : Nat) (k : Task) : State := { s with tally := { s.tally with tasks := tblSet s.tally.tasks n k } }

/-- A state with a task that runs on an engine. -/
def onEngine (s : State) (e n : Nat) (k : Task) : State :=
  let t := withTask s n { k with
    life := .running
    engine := e
    fetched := true }
  { t with engines := tblSet t.engines e { engine0 with
    power := .awake
    running := some n } }

/-- An entry of a queue. -/
def entry (seq slot ty : Nat) : Entry := ⟨seq, slot, ty, 0x1001, true, 0, 0, none, none⟩

/-- Queue 1 with some entries. -/
def holding (s : State) (es : List Entry) : State :=
  { s with tally := { s.tally with queues := tblSet s.tally.queues 1 { queue1 with
    ents := es
    next := es.length } } }

/-- The state a command leaves; the state itself where it is turned away. -/
def ran (c : Instr) (s : State) : State :=
  match exec c s with
  | .next t => t
  | _ => s
/-! ## The machine -/

/-- The command in front is run on the queue's rest: rail 0 becomes valid, the second command waits. -/
theorem test_step_front : (match step { State.reset with pending := [.railValid 0, .servoStart] } with
  | .next t => t.pending == [.servoStart] && t.power.valid == [0]
  | _ => false) = true := by decide +kernel
theorem test_base_canonical : canon base = true ∧ canon (withEvents base) = true := by decide +kernel

/-- On an empty queue SiteTime advances by one unit (log entry 1). -/
theorem test_tick : (match step base with
  | .next t => t.clock.now == base.clock.now + 1 && t.mem == base.mem && t.regs == base.regs
  | _ => false) = true := by decide +kernel

/-! ## SiteTime -/

theorem test_start_service : after (.startService .bcc) base (·.service) = true := by decide +kernel
theorem test_start_service_refused : after (.startService .host) (withEvents base) (fun t => !t.service && lastEvent t == 0x3003) = true := by decide +kernel
theorem test_time_step : (!base.service && after (.timeStep .bcc 5#64) base (fun t => t.clock.now == 1000 * 2 ^ 32 + 5)) = true := by decide +kernel
theorem test_time_step_in_service : (match exec (.startService .bcc) (withEvents base) with
  | .next t => after (.timeStep .bcc 5#64) t (fun u => u.clock.now == 1000 * 2 ^ 32 && lastEvent u == 0x3003)
  | _ => false) = true := by decide +kernel
theorem test_pps_in : after .ppsInEdge (fld base Reg.timeCtl Fld.timeCtlPpsInEn 1) (fun t =>
  t.reg Reg.timePpsInStamp == BitVec.ofNat 64 (1000 * 2 ^ 32) && t.clock.ppsSeen == some (1000 * 2 ^ 32)) = true := by decide +kernel
theorem test_pps_rise : (let s := fld base Reg.timeCtl Fld.timeCtlPpsOutEn 1
  !s.pins.ppsOut && after .ppsOutRise s (fun t => t.pins.ppsOut && off .ppsOutRise t)) = true := by decide +kernel
/-- 100 µs are 429,497 units, rounded up (R147). -/
theorem test_pps_fall : (let s := { base with
    pins := { base.pins with ppsOut := true }
    clock := { base.clock with ppsRose := some (1000 * 2 ^ 32 - 429497) } }
  after .ppsOutFall s (fun t => !t.pins.ppsOut && off .ppsOutFall t)
    && off .ppsOutFall { s with clock := { s.clock with ppsRose := some (1000 * 2 ^ 32 - 429496) } }) = true := by decide +kernel
theorem test_servo_start : after .servoStart base (fun t => t.fld Reg.timeStatus Fld.timeStatusState == 1
  && t.clock.acquiredAt == 1000 * 2 ^ 32) = true := by decide +kernel
theorem test_time_locked : (let s := fld base Reg.timeStatus Fld.timeStatusState 1
  let s := { s with clock := { s.clock with acquiredAt := 984 * 2 ^ 32 } }
  after (.timeLocked 7) s (fun t => t.fld Reg.timeStatus Fld.timeStatusState == 2 && t.clock.servoOffset == 7)
    && off (.timeLocked 7) base) = true := by decide +kernel
theorem test_holdover : (let s := fld base Reg.timeStatus Fld.timeStatusState 2
  after (.holdover (-3)) (withEvents s) (fun t => t.fld Reg.timeStatus Fld.timeStatusState == 3 && lastEvent t == 0x0201)
    && off (.holdover (-3)) base) = true := by decide +kernel

/-! ## Registers and memory -/

/-- A write of DMA_CH[0]_CFG and of a register that does not exist (R5, R47). -/
theorem test_register_write :
  (after (.registerWrite .bcc true Reg.timePpsOut 77#64) base (fun t => t.fld Reg.timePpsOut Fld.timePpsOutPhase == 77
    && t.out == some ⟨true, []⟩)
  && after (.registerWrite (.engine 3) true Reg.timePpsOut 77#64) base (fun t => t.reg Reg.timePpsOut == base.reg Reg.timePpsOut
    && t.out == some ⟨false, []⟩)) = true := by decide +kernel
theorem test_register_write_refused : after (.registerWrite .host true Reg.timePpsOut 77#64) base (fun t =>
  t.reg Reg.timePpsOut == base.reg Reg.timePpsOut && t.out == some ⟨true, []⟩) = true := by decide +kernel
theorem test_memory_write : after (.memoryRequest .bcc none true hall 2 [1#8, 2#8] 0) base (fun t =>
  t.bytesAt hall 3 == [1#8, 2#8, 0#8] && t.out == some ⟨true, []⟩) = true := by decide +kernel
theorem test_memory_read : (after (.memoryRequest .bcc none false hall 2 [] 0) (put base hall [7#8, 9#8]) (fun t =>
    t.out == some ⟨true, [7#8, 9#8]⟩)
  && after (.memoryRequest .bcc none false 0x6000000000 4 [] 0) (withEvents base) (fun t => t.out == some ⟨false, []⟩
    && lastEvent t == 0x3002)) = true := by decide +kernel

/-- DDR of pair 0: two channels of 16 GiB, trained. -/
def ddr : State :=
  let s := { base with sys := { base.sys with ddr := [(0, ⟨8, 16, 1⟩), (1, ⟨8, 16, 1⟩)] } }
  match exec (.training 0) s with
  | .next t => t
  | _ => s

theorem test_training : (ddr.fld (Reg.mcStatus 1) Fld.mcStatusTrained == 1 && ddr.fld (Reg.mcStatus 1) Fld.mcStatusCapacityGib == 16
  && ddr.chanServes 0 && ddr.mem == base.mem) = true := by decide +kernel
theorem test_patrol : (let s := { ddr with sys := { ddr.sys with weakWords := [64, 128] } }
  (s.channelOf 64).isSome && after (.patrolScrub 0 [] []) s (fun t => t.sys.weakWords.all fun w => s.channelOf w != some 0)) = true := by decide +kernel
theorem test_refresh : after (.refresh 0 0 false) ddr (fun t => tblFind t.sys.marks 32 == some (1000 * 2 ^ 32)) = true := by decide +kernel
theorem test_drift : (let s := at_ ddr (2000 * 2 ^ 32)
  after (.driftTracking 0 0) s (fun t => tblFind t.sys.marks 16 == some (2000 * 2 ^ 32))) = true := by decide +kernel
theorem test_mmu_inval : (after (.mmuInval .bcc 0x1001 true) base (fun t => t.sys.inval.isSome
    && after (.mmuInval .bcc 0x1001 true) (withEvents t) (fun u => lastEvent u == 0x3005)
    && after .mmuInvalDone t (fun u => u.sys.inval.isNone && u.fld Reg.mmuInvalStatus Fld.mmuInvalStatusDone == 1))
  && off .mmuInvalDone base) = true := by decide +kernel

/-! ## Contexts and buffers -/

/-- Entry 5 is created under generation 1: handle 0x1005 (R76, R116). -/
theorem test_create_context : after (.createContext 5 true 0 7 false 4096 0) base (fun t =>
  t.out == some ⟨true, [0#8, 0x05#8, 0x10#8, 0#8]⟩ && (t.ctx 0x1005).isSome && (t.ctx 0x1001).isSome && t.mem == base.mem) = true := by decide +kernel
theorem test_create_context_refused :
  (after (.createContext 5 true 0 8 false 4096 0) base (fun t => t.out == some ⟨false, [0x12#8]⟩)
  && after (.createContext 5 true 0 7 false 15 0) base (fun t => t.out == some ⟨false, [0x12#8]⟩)
  && after (.createContext 1 true 0 7 false 16 0) base (fun t => t.out == some ⟨false, [0x1B#8]⟩)
  && after (.createContext 5 true 0 7 false 16 0) { base with rcv := { base.rcv with bivouac := true } } (fun t =>
    t.out == some ⟨false, [0x20#8]⟩)) = true := by decide +kernel
/-- The extents 0 to 64 KiB and on meet at 64 KiB: apart (R50). -/
theorem test_register_buffer :
  (after (.registerBuffer 0x1001 (hall + 0x10000) 64) base (fun t => t.out == some ⟨true, [0#8]⟩
    && t.tally.buffers.getLast? == some ⟨0x1001, hall + 0x10000, 64, false⟩)
  && after (.registerBuffer 0x1001 (hall + 0xFFC0) 128) base (fun t => t.out == some ⟨false, [0x17#8]⟩ && t.tally == base.tally)
  && after (.registerBuffer 0x1001 (hall + 0x10020) 64) base (fun t => t.out == some ⟨false, [0x17#8]⟩)
  && after (.registerBuffer 0x2001 (hall + 0x10000) 64) base (fun t => t.out == some ⟨false, [0x18#8]⟩)) = true := by decide +kernel
theorem test_deregister_buffer : (after (.deregisterBuffer 0x1001 hall) base (fun t => t.out == some ⟨true, [0#8]⟩
    && t.tally.buffers == [⟨0x1001, hall, 0x10000, true⟩]
    && after (.deregistrationComplete 0x1001 hall) t (fun u => u.tally.buffers == []))
  && off (.deregistrationComplete 0x1001 hall) base) = true := by decide +kernel
theorem test_teardown_context : after (.teardownContext 0x1001 0) base (fun t => t.out == some ⟨true, [0#8]⟩
  && (t.ctx 0x1001).isNone && (t.queue 1).isNone && t.tally.buffers == []) = true := by decide +kernel
theorem test_teardown_unknown : after (.teardownContext 0x1005 0) base (fun t => t.out == some ⟨false, [0x18#8]⟩ && t.tally == base.tally) = true := by decide +kernel
/-- A context under teardown with nothing outstanding. -/
def tearing : State := { base with tally := { base.tally with contexts := [(1, { ctx1 with
  phase := .tearing
  tearStamp := 2 ^ 32 })] } }
theorem test_teardown_complete : (after (.teardownComplete 0x1001) tearing (fun t => (t.tearingCtx 0x1001).isNone && (t.ctx 0x1001).isNone
    && t.rcv.nextReport == 1) && off (.teardownComplete 0x1001) base) = true := by decide +kernel
/-- A queue pair of the context with one packet unanswered. -/
def qp1 : Qp := ⟨7, 1, .ready, 0x1001, 3, 100000, 5, 0, 100000, 0, [], 0, 0, [], [], 0, 0, 0, 0, none⟩
def packet1 : OutPkt := ⟨4, 4, 0, 0, 0, [], none, none, 0⟩
def tearingFab : State := { tearing with fabric := { tearing.fabric with qps := [(2, { qp1 with out := [packet1] })] } }
theorem test_fab_drain_declared : (after (.fabDrainDeclared 0x1001) tearingFab (fun t => !t.fabricOutstanding 0x1001)
  && off (.teardownComplete 0x1001) tearingFab && off (.fabDrainDeclared 0x1001) tearing) = true := by decide +kernel
theorem test_late_response : (after (.lateResponseDiscard 0x2001) base (fun t => t.fld Reg.rcvLate Fld.rcvLateCount == 1)
  && off (.lateResponseDiscard 0x1001) base) = true := by decide +kernel

/-! ## Ports -/

/-- Port 2 carries the context's handle; the payload's first word. -/
def port2 (s : State) (w : Nat) : State := reg (reg s (Reg.portHandle 2) 0x1001) (Reg.enqData 2 0) w
def acks (t : State) (code seq : Nat) : Bool := t.reg (Reg.portAck 2) == BitVec.ofNat 64 (code + 2 ^ 16 + seq * 2 ^ 32) && t.tally.unread == [2]

theorem test_enqueue : after (.enqueue 2 1 0) (port2 base 0x55) (fun t => acks t 0 0 && (t.queue 1).any (fun u => u.ents.length == 1 && u.next == 1)
  && t.bytesAt (hall + 0x8000) 1 == [0x55#8]) = true := by decide +kernel
/-- Type 7 is reserved (0x12); the queue does not exist (0x1D): the lower code answers (R112). -/
theorem test_enqueue_refused : (after (.enqueue 2 9 7) (port2 base 0) (fun t => acks t 0x12 0 && t.tally.queues == base.tally.queues)
  && after (.enqueue 2 9 0) (port2 base 0) (acks · 0x1D 0)) = true := by decide +kernel
/-- A full ring answers 0x1A (R113). -/
theorem test_enqueue_full : (let s := holding (port2 base 0) ((List.range 16).map fun n => entry n n 0)
  after (.enqueue 2 1 0) s (fun t => acks t 0x1A 0 && t.mem == s.mem)) = true := by decide +kernel
theorem test_port_unread : (let s := port2 (withEvents base) 0x55
  let s := { s with tally := { s.tally with unread := [2] } }
  ((portCommands 2 1 0).all fun c => after c.1 s fun t => lastEvent t == 0x3003 && t.regs == s.regs && (t.queue 1) == (s.queue 1))
  && after (.portAckRead 2) (reg s (Reg.portAck 2) (0x10000)) (fun t => t.tally.unread == [])) = true := by decide +kernel
theorem test_port_before_boot : (let s := port2 base 0x55
  let s := { s with tally := { s.tally with accepting := false } }
  (portCommands 2 1 0).all fun c => after c.1 s (acks · 0x20 0)) = true := by decide +kernel
theorem test_dequeue : after (.dequeue 2 1) (put (holding (port2 base 0) [entry 0 0 0, entry 1 1 0]) (hall + 0x8000) [0x77#8]) (fun t =>
  acks t 0 0 && t.reg (Reg.deqData 2 0) == 0x77#64 && (t.queue 1).any (fun u => u.ents == [entry 1 1 0])) = true := by decide +kernel
/-- A NOP at level 3 in a registered buffer is accepted as task 20. -/
theorem test_task_submission : after (.taskSubmission 2 1) (put (port2 base (hall + 0x100)) (hall + 0x100) (tdesc 0 0 0 0 [])) (fun t =>
  acks t 0 0 && t.tally.nextTask == 21 && (t.task 20).any (fun k => k.handle == 0x1001)) = true := by decide +kernel
/-- The same with feature level 1: status 0x12 (R100). -/
theorem test_task_submission_refused : after (.taskSubmission 2 1)
  (put (port2 base (hall + 0x100)) (hall + 0x100) (leBytes 4 (1 * 2 ^ 16) ++ leBytes 4 0x1001 ++ zeros 120)) (fun t =>
    (t.fld (Reg.portAck 2) Fld.portAckStatus == 0x11 || t.fld (Reg.portAck 2) Fld.portAckStatus == 0x12) && t.tally.nextTask == 20) = true := by decide +kernel
/-- A ledger queue with its regions in Hall partitions 0 and 1. -/
def ledgered : State := { port2 base 0x55 with tally := { base.tally with queues := [(1, { queue1 with
  ledger := true
  home := 0
  mirror := 1
  mirrorBase := 0x4110000000 })] } }
theorem test_ledger_acceptance : after (.ledgerAcceptance 2 1 0) ledgered (fun t => acks t 0 0 && t.tally.ledger.length == 2
  && (t.queue 1).any (fun u => u.ents.length == 1)) = true := by decide +kernel
theorem test_grant : (let s := port2 base 0x2002
  after (.grant 2 1) s (fun t => acks t 0 0 && (t.queue 1).any (fun u => u.grants == [0x2002])
    && after (.revoke 2 1) { t with tally := { t.tally with unread := [] } } (fun u => acks u 0 0 && u.queue 1 == s.queue 1))) = true := by decide +kernel
theorem test_grant_refused : (let s := port2 base 0x2002
  let many := { s with tally := { s.tally with queues := [(1, { queue1 with grants := (List.range 16).map (· + 0x3000) })] } }
  let other := { s with tally := { s.tally with queues := [(1, { queue1 with owner := 0x1002 })] } }
  after (.grant 2 1) many (fun t => acks t 0x1B 0) && after (.grant 2 1) other (acks · 0x15 0) && after (.revoke 2 1) other (acks · 0x15 0)) = true := by decide +kernel
/-- 16 entries in FIFO order at the buffer's start: the lowest free ID is 2 (R106). -/
theorem test_create_queue : after (.createQueue 2) (reg (port2 base hall) (Reg.enqData 2 1) (15 + 1 * 2 ^ 20)) (fun t => acks t 0 2
  && (t.queue 2).any (fun u => u.base == hall && u.entries == 16 && u.order == 1 && u.ents == []) && t.queue 1 == base.queue 1) = true := by decide +kernel
theorem test_destroy_queue : (after (.destroyQueue 2 1) (port2 base 0) (fun t => acks t 0 0 && (t.queue 1).isNone)
  && (let s := port2 (withEvents base) 0
    after (.destroyQueue 2 0) (reg s (Reg.portHandle 2) 0x1000) (fun t => t.fld (Reg.portAck 2) Fld.portAckStatus != 0
      && (t.queue 0).isSome))) = true := by decide +kernel
/-- A table of one NOP template without a cadence. -/
def graphTable : State := put (port2 base (hall + 0x100)) (hall + 0x100) (tdesc 0 0 0 0 [])
def graph1 : Graph := ⟨0x1001, [tdesc 0 0 0 0 []], 1, 0, 0, 0, 0, 0, 0, [], false⟩
def withGraph (s : State) (g : Graph) : State := { s with tally := { s.tally with graphs := [(0, g)] } }
theorem test_register_graph : after (.registerGraph 2) graphTable (fun t => acks t 0 0
  && tblFind t.tally.graphs 0 == some graph1) = true := by decide +kernel
theorem test_deregister_graph : (after (.deregisterGraph 2) (withGraph (port2 base 0) graph1) (fun t => acks t 0 0
    && tblFind t.tally.graphs 0 == some { graph1 with dereg := true }
    && after (.graphDeregistrationDone 0) t (fun u => u.tally.graphs == []))
  && off (.graphDeregistrationDone 0) (withGraph base graph1)) = true := by decide +kernel

/-! ## Tasks -/

def nop : Task := task1 (tdesc 0 0 0 0 [])
/-- An ELTWISE task on two int8 vectors of two elements. -/
def eltwiseDesc : List Byte := tdesc 0x204 3 0 (hall + 0x280) [(0, hall + 0x301), (1, hall + 0x341), (8, hall + 0x381)]
def eltwiseTask : Task := task1 eltwiseDesc
/-- Its descriptors, elements 5, 250 and 7, 100, and parameter block (an addition). -/
def eltwiseMem (s : State) : State :=
  put (put (put (put (put s (hall + 0x300) (td1 (hall + 0x400) 2 2)) (hall + 0x340) (td1 (hall + 0x440) 2 2)) (hall + 0x380)
    (td1 (hall + 0x480) 2 2)) (hall + 0x400) [5#8, 250#8]) (hall + 0x440) [7#8, 100#8]
/-- The task ready on the list of kind 0, class 3. -/
def readied : State :=
  let s := withTask (eltwiseMem base) 10 { eltwiseTask with
    life := .ready
    kind := 0 }
  { s with tally := { s.tally with ready := [(listKey 0 3, [10])] } }
def assigned (f : Bool) : State :=
  let s := withTask (eltwiseMem base) 10 { eltwiseTask with
    life := .assigned
    engine := 0
    fetched := f }
  { s with engines := [(0, { engine0 with
    power := .awake
    next := some 10 })] }
def running : State := onEngine base 0 10 eltwiseTask

theorem test_token : (after (.tokenArrival 0x1001 9 false) base (fun t =>
    tblGet t.tally.board ⟨[], 0, 0⟩ (0x1001 * 4096 + 9) == ⟨[], 1, 0⟩)
  && after (.tokenArrival 0x1001 4095 true) base (fun t => tblGet t.tally.board ⟨[], 0, 0⟩ (0x1001 * 4096 + 4095) == ⟨[], 0, 1⟩)
  && after (.tokenArrival 0x2001 9 false) base (fun t => t.fld Reg.rcvLate Fld.rcvLateCount == 1 && t.tally == base.tally)
  && off (.tokenArrival 0x1001 0 false) base && off (.tokenArrival 0x1001 4096 false) base) = true := by decide +kernel
theorem test_token_saturates : (let s := withEvents { base with tally := { base.tally with board := [(0x1001 * 4096 + 1, ⟨[], 65535, 0⟩)] } }
  after (.tokenArrival 0x1001 1 false) s (fun t => lastEvent t == 0x3101 && t.tally.board == s.tally.board)) = true := by decide +kernel
theorem test_token_waiter : (let s := withTask base 10 { nop with missing := [0, 1] }
  let s := { s with tally := { s.tally with board := [(0x1001 * 4096 + 1, ⟨[(10, 1), (10, 0)], 0, 0⟩)] } }
  after (.tokenArrival 0x1001 1 true) s (fun t => (t.task 10).any (fun k => k.missing == [0] && k.failed)
    && tblGet t.tally.board ⟨[], 0, 0⟩ (0x1001 * 4096 + 1) == ⟨[(10, 0)], 0, 0⟩)) = true := by decide +kernel
theorem test_dispatch : (after (.dispatch 0) readied (fun t => (t.engine 0).next == some 10 && (t.task 10).any (fun k => k.life == .assigned)
  && t.tally.ready.all fun l => l.2 == []) && off (.dispatch 0) base) = true := by decide +kernel
theorem test_task_start : (after (.taskStart 0) (assigned true) (fun t => (t.engine 0).running == some 10 && (t.engine 0).next == none
    && (t.task 10).any (fun k => k.life == .running && k.start == 1000 * 2 ^ 32))
  && off (.taskStart 0) (assigned false) && off (.taskStart 0) running) = true := by decide +kernel
theorem test_descriptor_fetch : (after (.descriptorFetch 0) (assigned false) (fun t => (t.task 10).any (fun k => k.fetched && k.tds.length == 3
    && k.params.length == 64)) && off (.descriptorFetch 0) (assigned true)) = true := by decide +kernel
/-- An operand of the reserved data type 0x3F makes the set invalid (R89): the task ends. -/
theorem test_descriptor_fetch_invalid : after (.descriptorFetch 0) (put (assigned false) (hall + 0x300) (td1 (hall + 0x400) 0x3F 2)) (fun t =>
  (t.task 10).isNone) = true := by decide +kernel
/-- An output on the second operand's bytes: aborted (R190). -/
theorem test_descriptor_fetch_overlap : after (.descriptorFetch 0) (put (assigned false) (hall + 0x380) (td1 (hall + 0x440) 2 2)) (fun t =>
  (t.task 10).isNone) = true := by decide +kernel
/-- A descriptor at an address outside memory. -/
theorem test_descriptor_fetch_fault : (let s := withTask (assigned false) 10 { task1 (tdesc 0x204 3 0 (hall + 0x280)
      [(0, 0x6000000001), (1, hall + 0x341), (8, hall + 0x381)]) with
    life := .assigned
    engine := 0 }
  after (.descriptorFetch 0) s (fun t => (t.task 10).isNone)) = true := by decide +kernel
theorem test_block_step : (after (.blockStepEnd 0 none) running (fun t => (t.task 10).any (·.steps == 1) && (t.engine 0).beat == 1000 * 2 ^ 32)
  && after (.blockStepEnd 0 (some 63)) running (fun t => (t.task 10).any (·.steps == 0) && (t.engine 0).recompute == some 63
    && t.fld (Reg.ttStatus 0) Fld.ttStatusLastLane == 63 && off (.blockStepEnd 0 none) t)
  && off (.blockStepEnd 0 (some 64)) running) = true := by decide +kernel
/-- A running task whose block awaits its recomputation. -/
def mismatched (s : State) : State := { s with engines := [(0, { s.engine 0 with recompute := some 5 })] }
theorem test_abft_passed : (after (.abftRecomputeDone 0 true) (mismatched (withEvents running)) (fun t => lastEvent t == 0x4401
    && t.fld (Reg.ttAbftCnt 0) Fld.ttAbftCntRetried == 1 && (t.task 10).any (·.steps == 1) && (t.engine 0).recompute == none)
  && off (.abftRecomputeDone 0 true) running) = true := by decide +kernel
theorem test_abft_failed : after (.abftRecomputeDone 0 false) (mismatched running) (fun t => t.fld (Reg.ttAbftCnt 0) Fld.ttAbftCntFailed == 1
  && (t.task 10).isNone && (tblFind t.rcv.resets 0).isSome) = true := by decide +kernel
theorem test_preempt_save : (let s := withTask running 11 { nop with life := .assigned }
  let s := { s with engines := [(0, { s.engine 0 with
    preempting := true
    next := some 11 })] }
  after (.preemptSave 0) s (fun t => (t.engine 0).running == none && (t.engine 0).saved == [10]
    && (t.task 10).any (fun k => k.preempts == 1 && !k.fetched)) && off (.preemptSave 0) running) = true := by decide +kernel
theorem test_task_end : (let s := onEngine base 0 10 { eltwiseTask with done := true }
  after (.taskEnd 0 77) s (fun t => (t.task 10).isNone && t.fld (Reg.ttBusy 0) Fld.ttBusyCycles == 77 && (t.engine 0).running == none)
    && off (.taskEnd 0 77) running) = true := by decide +kernel
def ofTally (s : State) (d : List Byte) : State := withTask s 10 { task1 d with
  life := .tally
  engine := 0x80 }
theorem test_nop : (after (.nop 10) (ofTally base (tdesc 0 0 0 0 [])) (fun t => (t.task 10).isNone) && off (.nop 10) running) = true := by decide +kernel
/-- A delay due in the past ends at once; one due now is listed; list 8 is invalid; the reserved bytes must be 0 (R129). -/
def delaying (p : List Byte) : State := put (ofTally (withEvents base) (tdesc 1 0 0 (hall + 0x280) [])) (hall + 0x280) p
theorem test_delay : (after (.delay 10) (delaying (leBytes 8 (1000 * 2 ^ 32) ++ [7#8])) (fun t =>
    t.tally.delay == [⟨7, 1000 * 2 ^ 32, some 10, 0, 0⟩] && (t.task 10).any (fun k => k.life == .delayed))
  && after (.delay 10) (delaying (leBytes 8 (1000 * 2 ^ 32 - 1))) (fun t => t.tally.delay == [] && (t.task 10).isNone)) = true := by decide +kernel
theorem test_delay_invalid : (after (.delay 10) (delaying (leBytes 8 (1000 * 2 ^ 32) ++ [8#8])) (fun t => lastEvent t == 0x3004)
  && after (.delay 10) (delaying (leBytes 8 (1000 * 2 ^ 32) ++ [7#8, 1#8])) (fun t => lastEvent t == 0x3004 && t.tally.delay == [])) = true := by decide +kernel
theorem test_delay_fire : (let s := ofTally base (tdesc 1 0 0 0 [])
  let list : Nat → State := fun due => { s with tally := { s.tally with delay := [⟨0, due, some 10, 0, 0⟩] } }
  let symbol := { base with tally := { base.tally with delay := [⟨0, 5, none, 3, 13⟩] } }
  after (.delayFire 0) (list (1000 * 2 ^ 32)) (fun t => t.tally.delay == [] && (t.task 10).isNone)
    && off (.delayFire 0) (list (1000 * 2 ^ 32 + 1)) && off (.delayFire 1) (list 0)
    && after (.delayFire 0) symbol (fun t => t.tally.delay == [])) = true := by decide +kernel
/-- The class budget of class 3 and the settling margin have passed. -/
theorem test_budget_expiry : (let s := at_ running (1001 * 2 ^ 32)
  after (.budgetExpiry 0) s (fun t => (t.task 10).isNone && (tblFind t.rcv.resets 0x1001001).isSome) && off (.budgetExpiry 1) s
    && off (.budgetExpiry 0x80) s) = true := by decide +kernel
theorem test_midstream_fault : (after (.midstreamFault 10 2) running (fun t => (t.task 10).isNone)
  && off (.midstreamFault 10 2) (assigned true)) = true := by decide +kernel
/-- Two tasks that wait for each other on full queues. -/
def stuck : State :=
  let p : Nat → Task := fun q => { nop with
    life := .tally
    pendingAppends := [(q, 0, zeros 48)] }
  let s := withTask (withTask (withEvents base) 10 (p 1)) 11 (p 2)
  let full : Nat → Queue := fun n => { queue1 with
    ents := (List.range 16).map fun i => { entry i i 0 with bound := some (n, 0) }
    next := 16 }
  { s with tally := { s.tally with queues := [(0, { queue1 with
      owner := 0x1000
      base := 0x4010100000 }), (1, full 11), (2, full 10)] } }
theorem test_progress_watchdog : (after (.progressWatchdog [10, 11]) stuck (fun t => (t.task 11).isNone && (t.task 10).isSome)
  && off (.progressWatchdog []) stuck && off (.progressWatchdog [10]) stuck) = true := by decide +kernel

/-! ## Commits, appends and holds -/

def held1 : HeldList := ⟨1, 4, 10, 0x1001, 0, zeros 64, 0, none, 0, [(.completion, false)], false⟩
/-- Entry 4 of ledger queue 1 has ended with effects held. -/
def staged (l : HeldList) : State :=
  let s := { base with tally := { base.tally with queues := [(1, { queue1 with
    ledger := true
    home := 0
    mirror := 1
    mirrorBase := 0x4110000000
    ents := [entry 4 4 1]
    next := 5 })] } }
  { s with tally := { s.tally with heldLists := [l] } }
theorem test_commit : (after (.commit 10) (staged held1) (fun t => t.tally.heldLists == [{ held1 with committed := true }]
    && t.tally.ledger.length == 2) && off (.commit 11) (staged held1)) = true := by decide +kernel
theorem test_commit_twice : (let s := staged held1
  let s := { s with tally := { s.tally with ledger := [⟨0, 1, 4, 2, zeros 64⟩] } }
  s.settled 1 4 && after (.commit 10) s (fun t => t.tally.heldLists == [] && (t.queue 1).any (fun u => u.ents == []))) = true := by decide +kernel
theorem test_held_effect_release : (let s := staged { held1 with committed := true }
  after (.heldEffectRelease 1 4) s (fun t => t.tally.heldLists == []) && off (.heldEffectRelease 1 4) (staged held1)) = true := by decide +kernel
def posting (slots : List (Nat × Nat)) : State := put (ofTally base (tdesc 3 0 0 (hall + 0x280) slots)) (hall + 0x280) [0x99#8]
theorem test_post : after (.post 10) (posting [(8, 4 + 64)]) (fun t => (t.task 10).isNone && (t.queue 1).any (fun u => u.ents.length == 1)
  && t.bytesAt (hall + 0x8000) 1 == [0x99#8]) = true := by decide +kernel
theorem test_post_without_right : after (.post 10) (posting [(8, 4 + 64 * 9)]) (fun t => (t.task 10).isNone && (t.queue 1).any (fun u => u.ents == [])) = true := by decide +kernel
/-- A POST to a full queue holds; its append is made once an entry has left. -/
theorem test_queue_append : (let s := posting [(8, 4 + 64)]
  let full := holding s ((List.range 16).map fun n => entry n n 0)
  after (.post 10) full (fun t => (t.task 10).any (fun k => k.pendingAppends.length == 1) && off (.queueAppend 10) t
    && after (.queueAppend 10) (holding t [entry 0 0 0]) (fun u => (u.task 10).isNone && (u.queue 1).any (fun q => q.ents.length == 2)))) = true := by decide +kernel
/-- A page-fault hold of one task since 5 s before the present. -/
def holdState : State :=
  let s := withTask (withEvents base) 10 { eltwiseTask with life := .held }
  { s with tally := { s.tally with holds := [(3, ⟨[10], 0, 1000 * 2 ^ 32, none⟩)] } }
theorem test_fault_resume : (after (.faultResume .bcc 3 0x1001) holdState (fun t => t.tally.holds == [] && (t.task 10).any (fun k => k.life != .held))
  && after (.faultResume .bcc 3 0x1002) holdState (fun t => lastEvent t == 0x3501 && t.tally.holds == holdState.tally.holds)
  && after (.faultResume .host 3 0x1001) holdState (fun t => lastEvent t == 0x3003 && t.tally.holds == holdState.tally.holds)) = true := by decide +kernel
theorem test_fault_resume_abandon : after (.faultResumeAbandon (.core 0 .supervisor) 3 0x1001) holdState (fun t => t.tally.holds == []
  && (t.task 10).isNone) = true := by decide +kernel
theorem test_hold_limit_expiry : (after (.holdLimitExpiry 3) (at_ holdState (2000 * 2 ^ 32)) (fun t => t.tally.holds == [] && (t.task 10).isNone)
  && off (.holdLimitExpiry 3) holdState && off (.holdLimitExpiry 4) holdState) = true := by decide +kernel

/-! ## Bands, instances -/

/-- Hall ring record 2: bands of 64 bytes, two places, four bands. -/
def ring2 : HallBuf := ⟨hall + 0x2000, 0, 0x80, 64, true, 0, 1, 3, true, 0, 8, 0x1001, false, 0⟩
def ringed (s : State) (r : Ring) : State := { s with
  hall := { s.hall with bufs := [(2, ring2)] }
  tally := { s.tally with rings := [(16, r)] } }
def ringState : Ring := ⟨1, 0, some 10, false, false, [(11, 0)], [], 0, [0]⟩
theorem test_band_filled : (let k := { eltwiseTask with
    rings := [(8, 16)]
    ringOut := [(8, List.replicate 64 0x42#8)] }
  let s := ringed (onEngine base 0 10 k) ringState
  after (.bandFilled 10 2) s (fun t => (t.ring 16).fill == 2 && t.bytesAt (hall + 0x2040) 1 == [0x42#8]
    && (t.task 10).any (fun k => k.ringOut == []) && (t.hflag 8).count == 1)
  && off (.bandFilled 10 2) (ringed (onEngine base 0 10 { k with ringOut := [] }) ringState)) = true := by decide +kernel
theorem test_band_released : (let s := ringed (onEngine (put base (hall + 0x2000) [0x42#8]) 0 11 { eltwiseTask with rings := [(0, 16)] }) ringState
  after (.bandReleased 11 2) s (fun t => (t.ring 16).consumers == [(11, 1)] && (t.ring 16).credit == 1
    && (t.task 11).any (fun k => k.ringIn.length == 1) && off (.bandReleased 11 2) t)) = true := by decide +kernel
theorem test_instantiate : (let s := withGraph (put (ofTally base (tdesc 2 0 0 (hall + 0x280) [])) (hall + 0x280) [0#8]) graph1
  after (.instantiate 10) s (fun t => (t.task 10).isNone && t.tally.instances.length == 1 && (tblFind t.tally.graphs 0).any (fun g => g.number == 1))
  && after (.instantiate 10) (ofTally base (tdesc 2 0 0 (hall + 0x280) [])) (fun t => (t.task 10).isNone && t.tally.instances == [])) = true := by decide +kernel
/-- A graph of the slot cadence at 15 kHz whose first slot has begun. -/
theorem test_slot_instance : (let g := { graph1 with
    cadence := 2
    epoch := 10 * 2 ^ 32
    period := 2 ^ 32 / 1000 }
  (slotMu g.period).isSome && off (.slotInstanceCreate 0) (withGraph base graph1)
    && after (.slotInstanceCreate 0) (withGraph base g) (fun t => (tblFind t.tally.graphs 0).any (fun g => g.number == 1)
      && t.tally.delay.length == 14)
    && off (.slotInstanceCreate 0) (withGraph (at_ base 0) g)) = true := by decide +kernel

/-! ## Operations

The result of each operation on small operands, worked out by hand. The operands' descriptors are as read; the output stands at
`outAt`. -/

def outAt : Nat := hall + 0x4000
def inAt (n : Nat) : Nat := hall + 0x1000 + 0x400 * n

/-- A two-dimensional tensor descriptor: layout tiles of 8 by 8 elements. -/
def td2 (a dt x y : Nat) : List Byte :=
  leBytes 6 a ++ leBytes 1 dt ++ leBytes 1 1 ++ leBytes 8 (0x4688 * 2 ^ 48) ++ leBytes 4 0 ++ leBytes 2 (x - 1) ++ leBytes 2 (y - 1) ++ zeros 29
    ++ leBytes 3 0x33 ++ zeros 8

/-- An engine that runs a task of an opcode with descriptors and a parameter block, and bytes in memory. -/
def opOn (e op : Nat) (tds : List (Nat × List Byte)) (params : List Byte) (mem : List (Nat × List Byte)) : State :=
  onEngine (mem.foldl (fun s p => put s p.1 p.2) base) e 10 { task1 (tdesc op 0 0 0 (tds.map fun p => (p.1, 1))) with
    tds := tds
    params := params ++ zeros (64 - params.length) }

/-- Whether an operation's command forms some bytes at the output and marks its task done. -/
def forms (c : Instr) (s : State) (bytes : List Byte) : Bool :=
  after c s fun t => t.bytesAt outAt bytes.length == bytes && (t.task 10).any (·.done)

def bytes (l : List Nat) : List Byte := l.map (BitVec.ofNat 8)
def words (l : List Nat) : List Byte := l.flatMap (leBytes 4)

theorem test_copy : forms (.copy 0) (opOn 0 0x100 [(0, td1 (inAt 0) 2 3), (8, td1 outAt 2 3)] [] [(inAt 0, bytes [1, 2, 253])]) (bytes [1, 2, 253, 0]) = true := by decide +kernel
theorem test_fill : forms (.fill 0) (opOn 0 0x101 [(8, td1 outAt 2 2)] [] [(outAt, bytes [9, 9, 9])]) (bytes [0, 0, 9]) = true := by decide +kernel
/-- Rows 2 and 0 of a table; index 7 is outside and gives the fill value (R178). -/
theorem test_gather : forms (.gather 0) (opOn 0 0x102 [(0, td1 (inAt 0) 2 3), (1, td1 (inAt 1) 5 3), (8, td1 outAt 2 3)] []
  [(inAt 0, bytes [10, 20, 30]), (inAt 1, words [2, 0, 7]), (outAt, bytes [9, 9, 9])]) (bytes [30, 10, 0]) = true := by decide +kernel
theorem test_scatter : forms (.scatter 0) (opOn 0 0x103 [(0, td1 (inAt 0) 2 3), (1, td1 (inAt 1) 5 2), (2, td1 (inAt 2) 2 2), (8, td1 outAt 2 3)] []
  [(inAt 0, bytes [10, 20, 30]), (inAt 1, words [2, 0]), (inAt 2, bytes [7, 8])]) (bytes [8, 20, 7]) = true := by decide +kernel
/-- The products of the worked example below R219: 3·5 − 2·7 = 1 and 1·5 + 4·7 = 33. -/
theorem test_matmul : forms (.matmul 0) (opOn 0 0x200 [(0, td2 (inAt 0) 2 2 2), (1, td1 (inAt 1) 2 2), (8, td2 outAt 5 1 2)] []
  [(inAt 0, bytes [3, 254, 0, 0, 0, 0, 0, 0, 1, 4]), (inAt 1, bytes [5, 7])]) (words [1, 0, 0, 0, 0, 0, 0, 0, 33]) = true := by decide +kernel
/-- A sum beyond the output's range saturates once: 100·100 + 100·100 stored as INT8 is 127. -/
theorem test_matmul_saturates : forms (.matmul 0) (opOn 0 0x200 [(0, td1 (inAt 0) 2 2), (1, td1 (inAt 1) 2 2), (8, td1 outAt 2 1)] []
  [(inAt 0, bytes [100, 100]), (inAt 1, bytes [100, 100])]) (bytes [127]) = true := by decide +kernel
/-- One channel, kernel 2 along x (6 and 2 at dimension 1 of the weights), origin −1: outside reads give the fill value. -/
theorem test_conv2d : forms (.conv2d 0) (opOn 0 0x201 [(0, td2 (inAt 0) 2 1 2), (1, td2 (inAt 1) 2 1 2), (8, td2 outAt 2 1 2)]
  (zeros 8 ++ leBytes 2 0xFFFF) [(inAt 0, bytes [3, 0, 0, 0, 0, 0, 0, 0, 4]), (inAt 1, bytes [6, 0, 0, 0, 0, 0, 0, 0, 2])])
  (bytes [6, 0, 0, 0, 0, 0, 0, 0, 26]) = true := by decide +kernel
theorem test_dwconv2d : forms (.dwconv2d 0) (opOn 0 0x202 [(0, td2 (inAt 0) 2 1 2), (1, td2 (inAt 1) 2 1 1), (8, td2 outAt 2 1 2)]
  [] [(inAt 0, bytes [3, 0, 0, 0, 0, 0, 0, 0, 4]), (inAt 1, bytes [2])]) (bytes [6, 0, 0, 0, 0, 0, 0, 0, 8]) = true := by decide +kernel
/-- Stride 2 along x leaves the odd outputs without a term. -/
theorem test_tconv2d : forms (.tconv2d 0) (opOn 0 0x203 [(0, td2 (inAt 0) 2 1 2), (1, td2 (inAt 1) 2 1 1), (8, td2 outAt 2 1 3)]
  [1#8] [(inAt 0, bytes [3, 0, 0, 0, 0, 0, 0, 0, 4]), (inAt 1, bytes [2])])
  (bytes [6, 0, 0, 0, 0, 0, 0, 0, 0, 0, 0, 0, 0, 0, 0, 0, 8]) = true := by decide +kernel
/-- 5 + 7 and −6 + 100; 100 + 100 saturates. -/
theorem test_eltwise : forms (.eltwise 0) (opOn 0 0x204 [(0, td1 (inAt 0) 2 3), (1, td1 (inAt 1) 2 3), (8, td1 outAt 2 3)] []
  [(inAt 0, bytes [5, 250, 100]), (inAt 1, bytes [7, 100, 100])]) (bytes [12, 94, 127]) = true := by decide +kernel
/-- relu; neg of −128 is 127 (R209). -/
theorem test_unary : (forms (.unary 0) (opOn 0 0x205 [(0, td1 (inAt 0) 2 2), (8, td1 outAt 2 2)] [1#8] [(inAt 0, bytes [5, 250])]) (bytes [5, 0])
  && forms (.unary 0) (opOn 0 0x205 [(0, td1 (inAt 0) 2 1), (8, td1 outAt 2 1)] [5#8] [(inAt 0, bytes [128])]) (bytes [127])) = true := by decide +kernel
/-- The FP32 square roots of 4 and of −0. -/
theorem test_unary_sqrt : forms (.unary 0) (opOn 0 0x205 [(0, td1 (inAt 0) 15 2), (8, td1 outAt 15 2)] [8#8]
  [(inAt 0, words [0x40800000, 0x80000000])]) (words [0x40000000, 0x80000000]) = true := by decide +kernel
theorem test_dequantize : forms (.dequantize 0) (opOn 0 0x207 [(0, td1 (inAt 0) 2 2), (8, td1 outAt 15 2)] []
  [(inAt 0, bytes [3, 255])]) (words [0x40400000, 0xBF800000]) = true := by decide +kernel
/-- (1 + 2i)(3 + i) = 1 + 7i. -/
theorem test_cmatmul : forms (.cmatmul 0) (opOn 0 0x208 [(0, td1 (inAt 0) 17 1), (1, td1 (inAt 1) 17 1), (8, td1 outAt 17 1)] []
  [(inAt 0, words [0x20001]), (inAt 1, words [0x10003])]) (words [0x70001]) = true := by decide +kernel
theorem test_reduce : (forms (.reduce 0) (opOn 0 0x300 [(0, td1 (inAt 0) 2 3), (8, td1 outAt 5 1)] [0#8, 1#8] [(inAt 0, bytes [1, 2, 255])]) (words [2])
  && forms (.reduce 0) (opOn 0 0x300 [(0, td1 (inAt 0) 2 3), (8, td1 outAt 5 1)] [2#8, 1#8] [(inAt 0, bytes [1, 2, 255])]) (words [2])) = true := by decide +kernel
/-- Equal elements share the probability: 1/2 each. -/
theorem test_softmax : forms (.softmax 0) (opOn 0 0x301 [(0, td1 (inAt 0) 15 2), (8, td1 outAt 15 2)] []
  [(inAt 0, words [0x3F800000, 0x3F800000])]) (words [0x3F000000, 0x3F000000]) = true := by decide +kernel
/-- 3 and 1 have mean 2 and variance 1. -/
theorem test_layernorm : forms (.layernorm 0) (opOn 0 0x302 [(0, td1 (inAt 0) 15 2), (8, td1 outAt 15 2)] [0#8, 1#8]
  [(inAt 0, words [0x40400000, 0x3F800000])]) (words [0x3F800000, 0xBF800000]) = true := by decide +kernel
theorem test_rmsnorm : forms (.rmsnorm 0) (opOn 0 0x303 [(0, td1 (inAt 0) 15 2), (8, td1 outAt 15 2)] [0#8, 1#8]
  [(inAt 0, words [0x40000000, 0xC0000000])]) (words [0x3F800000, 0xBF800000]) = true := by decide +kernel
/-- The first of equal largest elements. -/
theorem test_argmax : forms (.argmax 0) (opOn 0 0x304 [(0, td1 (inAt 0) 2 4), (8, td1 outAt 5 1)] [] [(inAt 0, bytes [1, 9, 9, 255])]) (words [1]) = true := by decide +kernel
theorem test_topk : after (.topk 0) (opOn 0 0x305 [(0, td1 (inAt 0) 2 3), (8, td1 outAt 2 2), (9, td1 (outAt + 0x100) 5 2)] [0#8, 0#8, 0#8, 0#8, 1#8]
  [(inAt 0, bytes [1, 9, 3])]) (fun t => t.bytesAt outAt 2 == bytes [9, 3] && t.bytesAt (outAt + 0x100) 8 == words [1, 2]) = true := by decide +kernel
/-- One key: its weight is 1 and the output is V. -/
theorem test_attention : forms (.attention 0) (opOn 0 0x400 [(0, td1 (inAt 0) 15 1), (1, td1 (inAt 1) 15 1), (2, td1 (inAt 2) 15 1), (8, td1 outAt 15 1)]
  (words [0x3F800000]) [(inAt 0, words [0x40000000]), (inAt 1, words [0x40400000]), (inAt 2, words [0x3FC00000])]) (words [0x3FC00000]) = true := by decide +kernel

/-! ## Further operations -/

def completes (c : Instr) (s : State) : Bool := after c s fun t => (t.task 10).any (·.done)

/-- A UINT8 vector of 64 elements for a record. -/
def record8 (a : Nat) : List Byte := td1 a 3 64
def onlyHead (n : Nat) (l : List Byte) (c : Instr) (s : State) : Bool :=
  after c s fun t => t.bytesAt outAt n == l && (t.task 10).any (·.done)

/-- 1.0 with the INT8 exponent −6 is 64: the least exponent with X / 2^s ≤ 127 (R208). -/
theorem test_quantize : after (.quantize 0) (opOn 0 0x206 [(0, td1 (inAt 0) 15 1),
    (8, putBytes (td1 outAt 2 1) 8 (leBytes 6 (outAt + 0x100 + 7)))] [1#8] [(inAt 0, words [0x3F800000])])
  (fun t => t.bytesAt outAt 1 == [64#8] && t.bytesAt (outAt + 0x100) 1 == [0xFA#8]) = true := by decide +kernel
/-- The floating worked example below R208: the products 64, 36 and −5 sum to 95, stored as BF16 0x42BE. -/
theorem test_matmul_block_scaled : forms (.matmul 0) (opOn 0 0x200
    [(0, putBytes (td1 (inAt 0) 11 3) 8 (leBytes 6 (inAt 2 + 1))), (1, putBytes (td1 (inAt 1) 11 3) 8 (leBytes 6 (inAt 3 + 1))), (8, td1 outAt 14 1)] []
  [(inAt 0, bytes [0x48, 0x38, 0xC0]), (inAt 1, bytes [0x70, 0x79, 0x5A]), (inAt 2, bytes [0x7C]), (inAt 3, bytes [0x7F])])
  (bytes [0xBE, 0x42]) = true := by decide +kernel
/-- One expert with room for one token: token 0 takes it, token 1 is left out. -/
theorem test_route_gather : forms (.routeGather 0) (opOn 0 0x401 [(0, td2 (inAt 0) 2 1 2), (1, td2 (inAt 1) 5 1 2), (8, td2 outAt 2 1 1)]
  [] [(inAt 0, bytes [5, 0, 0, 0, 0, 0, 0, 0, 6])]) (bytes [5, 0]) = true := by decide +kernel
/-- Two equal vectors of two elements: no difference, first −1, 2 compared. -/
theorem test_compare : onlyHead 17 (zeros 8 ++ List.replicate 8 0xFF#8 ++ [2#8]) (.compare 0x38) (opOn 0x38 0x701
  [(0, td1 (inAt 0) 2 2), (1, td1 (inAt 1) 2 2), (8, record8 outAt)] [] [(inAt 0, bytes [1, 2]), (inAt 1, bytes [1, 2])]) = true := by decide +kernel
/-- Within a tolerance of 1 element 1 differs by 2: failed, one bad, largest 2, first 1. -/
theorem test_cairn_check : onlyHead 16 (words [0, 1, 2, 1]) (.cairnCheck 0x38) (opOn 0x38 0x702
  [(0, td1 (inAt 0) 2 2), (1, td1 (inAt 1) 2 2), (8, record8 outAt)] (words [0, 1]) [(inAt 0, bytes [1, 5]), (inAt 1, bytes [2, 7])]) = true := by decide +kernel
/-- RFC 3720's value for 32 bytes of zeros. -/
theorem test_crc32c_zeros : forms (.crc32c 0x38) (opOn 0x38 0x700 [(0, putBytes (td1 (inAt 0) 3 32) 0x35 [5#8]), (8, td1 outAt 5 1)] [] [])
  (words [0x8A9136AA]) = true := by decide +kernel
/-- Four pixels of 104 over a coarser 100: (64 · 4 + 8) >> 4 = 16. -/
theorem test_pyr_laplace : forms (.pyrLaplace 0x29) (opOn 0x29 0x502 [(0, td2 (inAt 0) 3 2 1), (1, td2 (inAt 1) 3 1 1), (8, td2 outAt 4 2 1)]
  [] [(inAt 0, bytes [104, 104]), (inAt 1, bytes [100])]) (bytes [16, 0, 16, 0]) = true := by decide +kernel
/-- A flat image stays flat. -/
theorem test_pyr_build : forms (.pyrBuild 0x29) (opOn 0x29 0x501 [(0, td2 (inAt 0) 3 2 1), (8, td2 outAt 3 1 1)]
  [] [(inAt 0, bytes [100, 100])]) (bytes [100]) = true := by decide +kernel
/-- The identity homography. -/
theorem test_warp_homog : forms (.warpHomog 0x2A) (opOn 0x2A 0x504 [(0, td2 (inAt 0) 3 2 1), (8, td2 outAt 3 2 1)]
  (words [0x3F800000, 0, 0, 0, 0x3F800000, 0, 0, 0, 0x3F800000]) [(inAt 0, bytes [100, 50])]) (bytes [100, 50]) = true := by decide +kernel
/-- A mesh whose nodes all name pixel (1, 0): S13.3 value 8. -/
theorem test_warp_mesh : forms (.warpMesh 0x2A) (opOn 0x2A 0x503 [(0, td2 (inAt 0) 3 2 1), (1, putBytes (td2 (inAt 1) 5 2 2) 0x18 [1#8]), (8, td2 outAt 3 1 1)]
  [] [(inAt 0, bytes [100, 50]), (inAt 1, words [8, 0, 0, 0, 0, 0, 0, 0, 8, 0])]) (bytes [50]) = true := by decide +kernel
/-- One token of one feature, weight 2.0 for its only expert: 2 · 1.5. -/
theorem test_route_combine : forms (.routeCombine 0) (opOn 0 0x402 [(0, td2 (inAt 0) 15 1 1), (1, td2 (inAt 1) 5 1 1), (2, td2 (inAt 2) 15 1 1), (8, td2 outAt 15 1 1)]
  [] [(inAt 0, words [0x3FC00000]), (inAt 2, words [0x40000000])]) (words [0x40400000]) = true := by decide +kernel
/-- One flat pixel on the default prediction. -/
theorem test_flow : completes (.flow 0x2B) (opOn 0x2B 0x505 [(0, td2 (inAt 0) 3 1 1), (1, td2 (inAt 1) 3 1 1), (8, td2 outAt 4 2 1), (9, td2 (outAt + 0x100) 3 1 1)]
  [2#8] []) = true := by decide +kernel
theorem test_stereo : completes (.stereo 0x2C) (opOn 0x2C 0x506 [(0, td2 (inAt 0) 3 1 1), (1, td2 (inAt 1) 3 1 1), (8, td2 outAt 4 1 1), (9, td2 (outAt + 0x100) 3 1 1)]
  [2#8] []) = true := by decide +kernel
/-- A flat image has no corner: the counts kept and found are 0. -/
theorem test_feat_detect : after (.featDetect 0x2D) (opOn 0x2D 0x507 [(0, td2 (inAt 0) 3 2 2), (8, record8 outAt)] [] [])
  (fun t => t.bytesAt (outAt + 12) 8 == zeros 8 && (t.task 10).any (·.done)) = true := by decide +kernel
/-- An empty feature list with descriptors. -/
def emptyList : List Byte := withCrc 60 (zeros 24 ++ [2#8])
theorem test_feat_match : completes (.featMatch 0x2D) (opOn 0x2D 0x508 [(0, record8 (inAt 0)), (1, record8 (inAt 1)), (8, record8 outAt)] []
  [(inAt 0, emptyList), (inAt 1, emptyList)]) = true := by decide +kernel
theorem test_feat_match_bad_list : after (.featMatch 0x2D) (opOn 0x2D 0x508 [(0, record8 (inAt 0)), (1, record8 (inAt 1)), (8, record8 outAt)] [] [])
  (fun t => (t.task 10).isNone) = true := by decide +kernel
/-- Carrier 0 with one point and one PRB, to keep the operands small. -/
def tiny (s : State) : State := fld (fld s (Reg.dfeCfg 0) Fld.dfeCfgNfftLog2 0) (Reg.dfeCfg 0) Fld.dfeCfgPrbM1 0
theorem test_fft : completes (.fft 0x30) (tiny (opOn 0x30 0x602 [(0, td1 (inAt 0) 17 1), (8, td1 outAt 17 12), (9, td1 (outAt + 0x100) 25 1)] []
  [(inAt 0, words [1000])])) = true := by decide +kernel
theorem test_ifft : completes (.ifft 0x30) (tiny (opOn 0x30 0x603 [(0, td1 (inAt 0) 17 12), (1, td1 (inAt 1) 25 1), (8, td1 outAt 17 1)] [] [])) = true := by decide +kernel
/-- The sequence of a root is long: only that the task takes the command is evaluated. -/
def prachState : State := tiny (opOn 0x32 0x604 [(0, td1 (inAt 0) 17 1), (8, record8 outAt)] [0#8, 1#8] [])
theorem test_prach : (prachState.opTask 0x32 0x604 == some 10 && after (.prachDetect 0x32) prachState fun _ => true) = true := by decide +kernel
theorem test_ldpc_decode : completes (.ldpcDecode 0x33) (opOn 0x33 0x605 [(0, td1 (inAt 0) 2 1), (8, record8 outAt)] [1#8, 3#8, 2#8] []) = true := by decide +kernel
theorem test_ldpc_encode : completes (.ldpcEncode 0x34) (opOn 0x34 0x606 [(0, td1 (inAt 0) 3 1), (8, record8 outAt)] [1#8, 0#8, 2#8] []) = true := by decide +kernel
theorem test_polar_encode : completes (.polarEncode 0x34) (opOn 0x34 0x607 [(0, td1 (inAt 0) 3 2), (8, record8 outAt)] [1#8, 0#8, 11#8, 0#8, 35#8] []) = true := by decide +kernel
def polarState : State := opOn 0 0x608 [(0, td1 (inAt 0) 2 36), (8, record8 outAt)] [1#8, 0#8, 11#8, 0#8, 35#8] []
theorem test_polar_decode : (polarState.opTask 0 0x608 == some 10 && after (.polarDecode 0) polarState fun _ => true) = true := by decide +kernel

/-! ## Radio tasks -/

/-- 2,000,000,000 s; the slot of 1 ms that began then is number 1,684,035,181,000 since the GPS epoch at 315,964,819 s. -/
def later (s : State) : State := at_ s (2000000000 * 2 ^ 32)
/-- The block of a DFE task on symbol 0 of carrier 0, a number of slots after that one. -/
def dfeParams (d : Int) : List Byte := [0#8, 0#8, 0#8, 0#8] ++ leBytes 4 ((1684035181000 + d) % 2 ^ 32).toNat
theorem test_dfe_ddc : (completes (.dfeDdc 0x31) (later (tiny (opOn 0x31 0x600 [(8, td1 outAt 17 1)] (dfeParams (-1)) [])))
  && off (.dfeDdc 0x31) (later (tiny (opOn 0x31 0x600 [(8, td1 outAt 17 1)] (dfeParams 5) [])))) = true := by decide +kernel
theorem test_dfe_duc : (completes (.dfeDuc 0x31) (later (tiny (opOn 0x31 0x601 [(0, td1 (inAt 0) 17 1)] (dfeParams (-1)) [])))
  && off (.dfeDuc 0x31) (later (tiny (opOn 0x31 0x601 [(0, td1 (inAt 0) 17 1)] (dfeParams 5) [])))) = true := by decide +kernel
/-- A fronthaul task of one symbol that has been settled, or not. -/
def fhState (op : Nat) (tds : List (Nat × List Byte)) (r : Radio) : State :=
  let s := opOn 0x35 op tds [] []
  { s with radio := r }
theorem test_fh_tx : (completes (.fhTx 0x35) (fhState 0x609 [(0, td1 (inAt 0) 17 12), (1, td1 (inAt 1) 25 1)] { radio0 with fhSent := [⟨10, 0, 5, []⟩] })
  && off (.fhTx 0x35) (fhState 0x609 [(0, td1 (inAt 0) 17 12), (1, td1 (inAt 1) 25 1)] radio0)) = true := by decide +kernel
/-- PRBs that did not come count as reads out of bounds. -/
theorem test_fh_rx : (after (.fhRx 0x35) (fhState 0x60A [(8, td1 outAt 17 12), (9, td1 (outAt + 0x100) 25 1)] { radio0 with fhClosed := [⟨10, 0, 5, []⟩] })
    (fun t => (t.task 10).any fun k => k.done && k.oobReads != 0)
  && off (.fhRx 0x35) (fhState 0x60A [(8, td1 outAt 17 12), (9, td1 (outAt + 0x100) 25 1)] radio0)) = true := by decide +kernel

/-! ## ISP_FRAME -/

/-- A camera task that names frame 3 of camera 1, which frame 4 has followed: it cannot be had any more; an open frame is waited for. -/
def ispNamed : State := onEngine (put base (hall + 0x280) ([1#8, 0#8, 0#8, 0#8] ++ leBytes 4 3)) 0x28 10 { task1 (tdesc 0x500 3 0 (hall + 0x280) []) with
  params := [1#8, 0#8, 0#8, 0#8] ++ leBytes 4 3 ++ zeros 120 }
/-- A camera frame of a number, closed or open. -/
def frame (num : Nat) (isOpen : Bool) : CamFrame :=
  ⟨num, 0, 2000 * 2 ^ 32, 0, hall, 1, false, false, false, 0, 0, 0, 0, 0, 0, [], [], [], [], 0, none, false, isOpen, 0, 0, 0, 0, 0, 0⟩
def withFrames (s : State) (c : Nat) (fs : List CamFrame) : State := { s with cams := { s.cams with cams := [(c, { cam0 with frames := fs })] } }
theorem test_isp_frame_gone : (after (.ispFrame 0x28) (withFrames ispNamed 1 [frame 4 false]) (fun t => (t.task 10).isNone)
  && off (.ispFrame 0x28) (withFrames ispNamed 1 [frame 3 true])) = true := by decide +kernel
/-- A page whose curve has 16 rising knots, for a detached frame of one pixel. -/
def page1 : List Byte := zeros 32 ++ (List.range 16).flatMap (fun k => leBytes 8 k) ++ zeros 8032
def ispDetachedState : State := onEngine (put base (hall + 0x8020) ((List.range 16).flatMap fun k => leBytes 8 k)) 0x28 10 { task1 (tdesc 0x500 3 0 (hall + 0x280) []) with
  tds := [(0, td2 (inAt 0) 0x20 1 1), (8, td2 outAt 3 1 1)]
  params := bytes [0, 1, 2] ++ zeros 13 ++ leBytes 8 (hall + 0x8000) ++ zeros 104 }
theorem test_isp_page : pageOk page1 = true := by decide +kernel
theorem test_isp_frame : (ispDetachedState.opTask 0x28 0x500 == some 10 && after (.ispFrame 0x28) ispDetachedState fun _ => true) = true := by decide +kernel

/-! ## Hall flags and buffers -/

def withFlag (s : State) (f : Nat) (x : HallFlag) : State := { s with hall := { s.hall with flags := tblSet s.hall.flags f x } }
/-- A plain flag of context 0x1001 at count 4 with threshold 5 and period 3. -/
def plain : HallFlag := ⟨0x1001, 1, 4, 5, 3, false, [], false⟩
/-- Count 5 meets the threshold: the period moves it to 8 and the flag holds the crossing, no slot waiting (R361, R362). -/
theorem test_hall_flag_adv : after (.hallFlagAdv .bcc 7) (withFlag base 7 plain) (fun t =>
  t.hflag 7 == { plain with
    count := 5
    thr := 8
    held := true }) = true := by decide +kernel
/-- Advanced by a sender that is not the BCC, or below its threshold. -/
theorem test_hall_flag_adv_refused : (after (.hallFlagAdv .host 7) (withFlag base 7 plain) (fun t => t.hflag 7 == plain)
  && after (.hallFlagAdv .bcc 4095) (withFlag base 4095 { plain with count := 3 }) (fun t => (t.hflag 4095).count == 4 && !(t.hflag 4095).held)) = true := by decide +kernel
theorem test_hall_flag_thr : (after (.hallFlagThrWrite .bcc 7 9) (withFlag base 7 plain) (fun t => t.hflag 7 == { plain with thr := 9 })
  && after (.hallFlagThrWrite .bcc 7 4) (withFlag base 7 plain) (fun t => (t.hflag 7).held && (t.hflag 7).thr == 7)) = true := by decide +kernel
theorem test_hall_record : (let s := { base with hall := { base.hall with bufs := [(2, { hallBuf0 with
    owner := 0x1001
    stride := 64 })] } }
  after (.hallRecordActivate .bcc 2 (hall + 0x40) 1) s (fun t => (tblFind t.hall.bufs 2).any fun b => b.base == hall + 0x40 && b.copiesM1 == 1)
    && after (.hallRecordActivate .bcc 2 0x80 1) s (fun t => t.hall == s.hall)
    && after (.hallRecordActivate .host 2 (hall + 0x40) 1) s (fun t => t.hall == s.hall)) = true := by decide +kernel

/-! ## Cameras -/

/-- Camera 0 on port 0, RAW8, one pixel by one line, its raw ring in the test context's buffer; the link is up. -/
def camera : State :=
  let s := fld (fld base (Reg.camCfg 0 0) Fld.camCfgEnable 1) (camReg Reg.camOwner 0) Fld.camOwnerHandle 0x1001
  let s := fld s (camReg Reg.camRaw 0) Fld.camRawBase ((hall + 0x6000) / 64)
  let s := fld (fld s (camReg Reg.camSize 0) Fld.camSizeWidthM1 0) (camReg Reg.camSize 0) Fld.camSizeHeightM1 0
  fld (fld s (Reg.csiCtl 0) Fld.csiCtlEnable 1) (Reg.csiStatus 0) Fld.csiStatusLink 2
def opened : State := withFrames camera 0 [frame 8 true]
def newest (s : State) (p : CamFrame → Bool) : Bool := (s.cam 0).frames.getLast?.any p

theorem test_frame_start : (after (.frameStart 0 5) camera (fun t => newest t (fun f => f.num == 0 && f.isOpen && f.rx == 0 && f.capture == 1000 * 2 ^ 32)
    && t.flag (camReg Reg.camState 0) Fld.camStateOpen)
  && off (.frameStart 1 5) camera && off (.frameStart 32 5) camera) = true := by decide +kernel
theorem test_packet : (after (.packetReceive 0 0 42 [0x5A#8] 0 true) opened (fun t => newest t (fun f => f.rx == 1 && f.crc == 0 && f.valid == [1])
    && t.bytesAt (hall + 0x6000) 1 == [0x5A#8])
  && after (.packetReceive 0 0 42 [0x5A#8] 1 false) opened (fun t => newest t (fun f => f.rx == 1 && f.crc == 1)
    && t.fld (Reg.csiErr 0) Fld.csiErrEccCorrected == 1 && t.fld (Reg.csiErr 0) Fld.csiErrCrcErr == 1)
  && off (.packetReceive 0 0 1 [] 0 true) opened && off (.packetReceive 1 0 42 [] 0 true) opened) = true := by decide +kernel
theorem test_packet_dropped : (after (.packetReceive 0 0 42 [0x5A#8] 2 true) opened (fun t => t.fld (Reg.csiErr 0) Fld.csiErrHdrDrop == 1 && t.cams == opened.cams)
  && after (.packetReceive 0 3 42 [0x5A#8] 0 true) opened (fun t => t.fld (Reg.csiErr 0) Fld.csiErrDtDrop == 1)) = true := by decide +kernel
/-- A frame end closes the frame; a line that did not come is filled. -/
theorem test_frame_end : after (.frameEnd 0 5) opened (fun t => newest t (fun f => !f.isOpen && f.filled == 1 && f.closed == 1000 * 2 ^ 32)
  && !t.flag (camReg Reg.camState 0) Fld.camStateOpen) = true := by decide +kernel
theorem test_frame_timeout : (after (.frameTimeout 0) (at_ opened (3000 * 2 ^ 32)) (fun t => newest t (fun f => !f.isOpen && f.closed == 2000 * 2 ^ 32))
  && off (.frameTimeout 0) opened) = true := by decide +kernel
theorem test_csi_link_loss : (after (.csiLinkLoss 0) opened (fun t => !t.csiUp 0 && newest t (fun f => !f.isOpen))
  && off (.csiLinkLoss 1) opened) = true := by decide +kernel
theorem test_deskew : (let s := fld (fld camera (Reg.csiStatus 0) Fld.csiStatusLink 0) (Reg.csiCtl 0) Fld.csiCtlRateMbps 2500
  after (.deskew 0 true) s (fun t => t.fld (Reg.csiStatus 0) Fld.csiStatusLink == 1 && t.flag (Reg.csiStatus 0) Fld.csiStatusDeskewOk)
    && off (.deskew 0 true) (fld s (Reg.csiCtl 0) Fld.csiCtlRateMbps 1500)) = true := by decide +kernel
theorem test_cam_arm : (after (.camArm (.core 0 .supervisor) 0) camera (fun t => t.flag (camReg Reg.camState 0) Fld.camStateArmed
    && after (.camDisarm .bcc 0) t (fun u => !u.flag (camReg Reg.camState 0) Fld.camStateArmed))
  && after (.camArm .host 0) camera (fun t => t.regs == camera.regs)) = true := by decide +kernel
/-- A list block: codes 7 and 3, request 0x51, one write entry to register 0x10. -/
def listBlock (id : Nat) : List Byte := leBytes 4 7 ++ leBytes 4 3 ++ leBytes 4 id ++ zeros 52 ++ leBytes 8 (0x20 + 0x10 * 2 ^ 16 + 0xAB * 2 ^ 32)
theorem test_exposure_request : (after (.exposureRequest .bcc 0 (hall + 0x500)) (put camera (hall + 0x500) (listBlock 0x51)) (fun t =>
    (t.cam 0).reqs.map (fun r => (r.id, r.exp, r.gain)) == [(0x51, 7, 3)])
  && after (.exposureRequest .bcc 0 (hall + 0x500)) (put camera (hall + 0x500) (listBlock 0)) (fun t => (t.cam 0).reqs == [])) = true := by decide +kernel
def onBus : State :=
  match exec (.busListStart .bcc 0 (hall + 0x500)) (put camera (hall + 0x500) (listBlock 0)) with
  | .next t => t
  | _ => base
theorem test_bus_list_start : (onBus.flag (Reg.csiBusStatus 0) Fld.csiBusStatusBusy && (onBus.csi 0).jobs.length == 1
  && after (.busListStart .bcc 0 (hall + 0x500)) onBus (fun t => (t.csi 0).jobs.length == 1)) = true := by decide +kernel
/-- The write on the wires: address 0x20 and direction, register 0x10, data 0xAB. -/
theorem test_bus_transfer : (after (.busTransferComplete 0 []) onBus (fun t => (t.csi 0).jobs == [] && !t.flag (Reg.csiBusStatus 0) Fld.csiBusStatusBusy
    && t.sent == [(0xA0, bytes [0x40, 0x10, 0xAB])])
  && after (.busTransferFail 0) onBus (fun t => (t.csi 0).jobs == [] && t.flag (Reg.csiBusStatus 0) Fld.csiBusStatusError)
  && off (.busTransferComplete 0 []) camera && off (.busTransferFail 0) camera) = true := by decide +kernel
theorem test_isp_ctl_apply : (let s := { camera with cams := { camera.cams with ctl := some 1#64 } }
  after .ispCtlApply s (fun t => t.reg Reg.ispCtl == 1#64 && t.cams.ctl == none) && off .ispCtlApply camera
    && off .ispCtlApply { opened with cams := { opened.cams with ctl := some 1#64 } }) = true := by decide +kernel

/-! ## DMA -/

/-- A descriptor of one unit with a next field and flags. -/
def dd (next flags src dst : Nat) : List Byte := leBytes 6 next ++ leBytes 2 flags ++ leBytes 8 src ++ leBytes 8 dst ++ zeros 40
/-- Channel 0 of context 0x1001, its active head at one descriptor with a write-back. -/
def channel : State :=
  let s := put (put base (hall + 0x600) (dd 0 0x10 (hall + 0x700) (hall + 0x740))) (hall + 0x700) (bytes [1, 2, 3])
  let s := fld (fld s (Reg.dmaChCtx 0) Fld.dmaChCtxHandle 0x1001) (Reg.dmaChActiveHead 0) Fld.dmaChActiveHeadHead (hall + 0x600)
  fld s (Reg.dmaChShadowHead 0) Fld.dmaChShadowHeadHead (hall + 0x600)
def started : State := ran (.dmaStart .bcc 0) channel
def fetched : State := ran (.crateFetchDone 0) started
def moved : State := ran (.descriptorComplete 0) fetched

/-- The worked example below R262: 512 rows of 32 units, 7,680 bytes apart, into rows of 2,048 bytes; next is 0, signal and write-back. -/
theorem test_dma_worked_example : (let d := [0x0011000000000000, 0x01FF0000505DCC00, 0x60000000, 0x1F, 0x0000080000001E00, 0, 0, 0].flatMap (leBytes 8)
  ddNext d == 0 && ddSignal d && ddWb d && !ddNotify d && ddCount d 0 == 512 && ddCount d 1 == 1 && ddCount d 2 == 1 && ddRun d == 32
    && ddSrc d == 0x505DCC00 && ddDst d == 0x60000000 && ddSrcStep d 0 == 7680 && ddDstStep d 0 == 2048) = true := by decide +kernel
theorem test_dma_start : (started.chanState 0 == 1 && (started.chan 0).fetch == some (hall + 0x600, 1000 * 2 ^ 32)
  && after (.dmaStart .bcc 0) started (fun t => t.chanState 0 == 1 && t.dma == started.dma)
  && after (.dmaStart .host 0) channel (fun t => t.chanState 0 == 0) && off (.dmaStart .bcc 64) channel) = true := by decide +kernel
theorem test_crate_fetch : (fetched.fld (Reg.dmaChStatus 0) Fld.dmaChStatusHops == 1 && (fetched.chan 0).cur.any (fun d => d.addr == hall + 0x600)
  && (fetched.chan 0).ended && off (.crateFetchDone 0) fetched) = true := by decide +kernel
theorem test_descriptor_complete : (moved.bytesAt (hall + 0x740) 4 == bytes [1, 2, 3, 0] && (moved.chan 0).cur.any (fun d => d.status == 0x81 && d.issued)
  && moved.fld (Reg.dmaChBytes 0) Fld.dmaChBytesBytes == 64 && off (.descriptorComplete 0) moved && off (.dmaTransferError 0) fetched) = true := by decide +kernel
theorem test_writeback : after (.writebackAck 0) moved (fun t => t.bytesAt (hall + 0x61C) 1 == [0x81#8] && t.bytesAt (hall + 0x638) 8 == leBytes 8 (1000 * 2 ^ 32)
  && t.fld (Reg.dmaChDescCnt 0) Fld.dmaChDescCntDone == 1 && t.chanState 0 == 0) = true := by decide +kernel
/-- A source outside memory: the descriptor is bad with status 0x84. -/
theorem test_dma_transfer_error : (let d : DmaDesc := ⟨hall + 0x600, dd 0 0x10 0x6000000000 (hall + 0x740), 0, 5, 0, 0, false, 0, 0, 0⟩
  let s := { fetched with dma := [(0, { fetched.chan 0 with cur := some d })] }
  after (.dmaTransferError 0) s (fun t => (t.chan 0).cur.any fun d => d.status == 0x84) && off (.descriptorComplete 0) s) = true := by decide +kernel
theorem test_fetch_timeout : (after (.fetchTimeout 0) (at_ started (2000 * 2 ^ 32)) (fun t => t.chanState 0 == 2) && off (.fetchTimeout 0) started) = true := by decide +kernel
theorem test_descriptor_timeout : (off (.descriptorTimeout 0) fetched
  && after (.descriptorTimeout 0) (at_ fetched (2000 * 2 ^ 32)) (fun _ => true)) = true := by decide +kernel
theorem test_dma_arm : (after (.dmaArm .bcc 0) started (fun t => t.chanArmed 0 && after (.dmaDisarm .bcc 0) t (fun u => !u.chanArmed 0))
  && after (.dmaArm .bcc 0) channel (fun t => t.chanState 0 == 1 && t.fld (Reg.dmaChStatus 0) Fld.dmaChStatusHandover == 2)) = true := by decide +kernel
theorem test_dma_stop : after (.dmaStop .bcc 0) started (fun t => t.chanState 0 == 0 && t.fld (Reg.dmaChStatus 0) Fld.dmaChStatusCause == 2) = true := by decide +kernel
theorem test_dma_abort : (let s := { started with dma := [(0, { started.chan 0 with cur := none })] }
  after (.dmaAbort .bcc 0) s (fun t => t.chanState 0 == 2 && after (.dmaDrainComplete 0) t (fun u => u.chanState 0 == 3
      && u.fld (Reg.dmaChStatus 0) Fld.dmaChStatusCause == 3)) && off (.dmaDrainComplete 0) started) = true := by decide +kernel
/-- 7 + 6 + 3 = 16 in restricted mode (R239). -/
theorem test_stream_share : (let s := fld base (Reg.streamMode 0) Fld.streamModeRestricted 1
  let v := BitVec.ofNat 64 (7 * 2 ^ Fld.streamShareRead.lsb + 6 * 2 ^ Fld.streamShareWrite.lsb + 3 * 2 ^ Fld.streamShareRemote.lsb)
  after (.streamShareWrite .bcc 0 v) s (fun t => t.fld (Reg.streamShare 0) Fld.streamShareRead == 7 && t.fld (Reg.streamShare 0) Fld.streamShareRemote == 3)
    && after (.streamShareWrite .bcc 0 v) (fld base (Reg.streamMode 0) Fld.streamModeRestricted 0) (fun t => t.reg (Reg.streamShare 0) == base.reg (Reg.streamShare 0))) = true := by decide +kernel

/-! ## Resets -/

def engineReset : State := ran (.rung2Reset 0) base
def asserted : State := ran (.fenceDrainEnd 0) engineReset
theorem test_rung_2 : (engineReset.draining 0 && (engineReset.fence 0).any (fun f => f.stamp == 1000 * 2 ^ 32) && engineReset.rcv.nextReport == 1
  && off (.rung2Reset 0xFF) base) = true := by decide +kernel
theorem test_fence_drain_end : (!asserted.draining 0 && (tblFind asserted.rcv.resets 0).any (fun r => r.assertedAt != 0)
  && off (.fenceDrainEnd 0) base && off (.fenceDrainEnd 0) asserted) = true := by decide +kernel
theorem test_fence_drain_declaration : (after (.fenceDrainDeclaration 0) (at_ engineReset (1001 * 2 ^ 32)) (fun t => !t.draining 0)
  && off (.fenceDrainDeclaration 0) engineReset) = true := by decide +kernel
theorem test_reset_complete : (after (.resetComplete 0) asserted (fun t => t.rcv.resets == [] && t.rcv.fences == []) && off (.resetComplete 0) engineReset) = true := by decide +kernel
theorem test_rung_limit : (after (.rungLimitExpiry 0) (at_ asserted (1001 * 2 ^ 32)) (fun t => (tblFind t.rcv.resets 0).isNone
    && (tblFind t.rcv.resets 0x100).isSome) && off (.rungLimitExpiry 0) asserted) = true := by decide +kernel
theorem test_rung_1 : (after (.rung1Reset 0 0x1001) base (fun t => (tblFind t.rcv.resets 0x2001001).isSome || (tblFind t.rcv.resets 0x1001001).isSome)
  && off (.rung1Reset 0x7F 0x1001) base) = true := by decide +kernel
theorem test_rung_3 : (after (.rung3Reset 2) base (fun t => (t.fence 0x102).isSome) && off (.rung3Reset 7) base) = true := by decide +kernel
theorem test_chip_reset : after (.chipReset 0) base (fun t => (t.fence 0x200).isSome) = true := by decide +kernel
theorem test_power_cycle_request : (after (.powerCycleRequest 3) base (fun t => t.rcv.reason == 3 && t.rcv.recorded && !t.pins.pcycReqN && !t.pins.trayAlertN)
  && after (.powerCycleRequest 2) base (fun t => !t.rcv.recorded) && off (.powerCycleRequest 0) base && off (.powerCycleRequest 4) base) = true := by decide +kernel
theorem test_engine_hang : (after (.engineHangWatchdog 0) (at_ running (2000 * 2 ^ 32)) (fun t => (tblFind t.rcv.resets 0).isSome)
  && off (.engineHangWatchdog 0) base) = true := by decide +kernel
theorem test_wdt_kick : (after (.wdtKick .bcc) base (fun t => t.rcv.kickAt == 1000 * 2 ^ 32)
  && after (.wdtKick .host) base (fun t => t.rcv.kickAt == 0)) = true := by decide +kernel
theorem test_bcc_watchdog : (after .bccWatchdogExpiry base (fun t => t.rcv.kickAt == 1000 * 2 ^ 32 && t.rcv.resets.length == 1)
  && off .bccWatchdogExpiry { base with rcv := { base.rcv with kickAt := 1000 * 2 ^ 32 } }) = true := by decide +kernel
theorem test_heartbeat_loss : (after (.heartbeatLoss 2) base (fun t => t.rcv.resets.length == 1) && after (.heartbeatLoss 1) base (fun t => (t.fence 0x200).isSome)
  && off (.heartbeatLoss 0) base && off (.heartbeatLoss 4) base) = true := by decide +kernel
theorem test_reset_in : after .resetIn base (fun t => t.rcv.resetInLow && (t.fence 0x200).isSome && off .resetIn t
  && after .resetInRelease t (fun u => !u.rcv.resetInLow)) = true := by decide +kernel
theorem test_smbus_read : (after .smbusBlockReadA0 base (fun t => t.out.any fun r => r.ok && r.data.length == 16 && r.data.head? == some 0#8)
  && off .smbusBlockReadA0 State.reset) = true := by decide +kernel
theorem test_replay_chip : (let s := { base with rcv := { base.rcv with replayDue := true } }
  after .replayChip s (fun t => !t.rcv.replayDue) && off .replayChip base) = true := by decide +kernel
theorem test_ledger_copy_rewritten : (let q := { queue1 with
    ledger := true
    blocked := true
    home := 0
    mirror := 1 }
  let s := { base with tally := { base.tally with queues := [(1, q)], ledger := [⟨0, 1, 4, 0, zeros 64⟩] } }
  after (.ledgerCopyRewritten 1) s (fun t => (t.queue 1).any (fun u => !u.blocked) && t.tally.ledger.length == 2)
    && off (.ledgerCopyRewritten 1) base) = true := by decide +kernel
/-- Without a signed grant the device stays in bivouac, and the challenge is spent: event 0x7009 tells it. -/
theorem test_return_to_service : (let s := { base with rcv := { base.rcv with bivouac := true } }
  after (.returnToService .bcc hall) s (fun t => t.rcv.bivouac) && after (.returnToService .host hall) s (fun t => t.regs == s.regs)) = true := by decide +kernel

/-! ## Fabric -/

/-- Job 7 of two members, this one rank 0, with queue pair 2 to the peer. -/
def fab1 : State :=
  let s := fld (fld base (Reg.fabJobCfg 7) Fld.fabJobCfgHandle 0x1001) (Reg.fabJobCfg 7) Fld.fabJobCfgMembersM1 1
  { s with fabric := { s.fabric with qps := [(2, qp1)] } }
def withQp (s : State) (q : Qp) : State := { s with fabric := { s.fabric with qps := [(2, q)] } }
def fabResetting (s : State) : State := { s with rcv := { s.rcv with fences := [(0x200, ⟨0, none, 0, 0⟩)] } }
/-- An answer of the receiver: opcode 17, one byte that says what. -/
def ackBytes (psn syn : Nat) : List (Nat × List Byte) := [(0xB1, wirePacket 3 17 psn (bytes [syn, 0, 0, 0]) [])]

theorem test_rdma_write : (after (.rdmaWriteReceive 2 0 3 0x1001 hall 4 (bytes [1, 2, 3, 4]) false) fab1 (fun t =>
    t.bytesAt hall 4 == bytes [1, 2, 3, 4] && (t.qp 2).recvPsn == 1 && t.sent == ackBytes 0 0x1F)
  && after (.rdmaWriteReceive 2 0 0 0x1001 hall 8 (bytes [1, 2, 3, 4]) false) fab1 (fun t => t.bytesAt hall 4 == zeros 4
    && after (.rdmaWriteReceive 2 1 2 0 0 0 (bytes [5, 6, 7, 8]) false) t fun u => u.bytesAt hall 8 == bytes [1, 2, 3, 4, 5, 6, 7, 8]
      && u.sent == ackBytes 1 0x1F)) = true := by decide +kernel
/-- A gap, a repetition, a key of no buffer, a fenced endpoint (R416–R418, R426). -/
theorem test_rdma_write_refused : (after (.rdmaWriteReceive 2 5 3 0x1001 hall 4 (zeros 4) false) fab1 (fun t => t.sent == ackBytes 0 0x60)
  && after (.rdmaWriteReceive 2 (2 ^ 24 - 1) 3 0x1001 hall 4 (zeros 4) false) fab1 (fun t => t.sent == ackBytes (2 ^ 24 - 1) 0x1F)
  && after (.rdmaWriteReceive 2 0 3 0x101001 hall 4 (zeros 4) false) fab1 (fun t => t.sent == ackBytes 0 0x62 && t.mem == fab1.mem)
  && after (.rdmaWriteReceive 2 0 3 0x1001 hall 4 (bytes [1]) false) (fabResetting fab1) (fun t => t.sent == [] && t.mem == fab1.mem)) = true := by decide +kernel
theorem test_rdma_read : (after (.rdmaReadReceive 2 0 0x1001 hall 4) fab1 (fun _ => true)
  && after (.rdmaReadReceive 2 0 0x1001 (hall + 0xFFFE) 4) fab1 (fun t => t.sent == ackBytes 0 0x62)
  && after (.rdmaReadReceive 2 9 0x1001 hall 4) fab1 (fun t => t.sent == ackBytes 0 0x60)) = true := by decide +kernel
/-- A transfer of two INT8 elements 7 and 8 of step 3 with tag 4. -/
def shard1 : Transfer := ⟨7, 0, 3, 4, 1, bytes [2, 0, 1] ++ zeros 49, bytes [7, 8], 0⟩
def shardMessage : List Byte := bytes [1, 7, 0, 1] ++ leBytes 4 3 ++ leBytes 4 4 ++ shard1.shape ++ shard1.data
theorem test_roce_send : (after (.roceSendReceive 2 0 3 shardMessage false) fab1 (fun t => t.fabric.transfers == [{ shard1 with stamp := 1000 * 2 ^ 32 }]
    && t.sent == ackBytes 0 0x1F && (t.qp 2).recvPsn == 1)
  && after (.roceSendReceive 2 0 2 shardMessage false) fab1 (fun t => t.sent == ackBytes 0 0x61 && t.fabric == fab1.fabric)
  && after (.roceSendReceive 2 9 3 shardMessage true) fab1 (fun t => t.sent.length == 2 && (t.qp 2).cnpAt == some (1000 * 2 ^ 32))) = true := by decide +kernel
theorem test_roce_ack : (let s := withQp fab1 { qp1 with
    out := [packet1]
    retries := 2 }
  after (.roceAckReceive 2 4 0) s (fun t => (t.qp 2).out == [] && (t.qp 2).retries == 0)
    && after (.roceAckReceive 2 3 0) s (fun t => (t.qp 2).out == [packet1] && (t.qp 2).retries == 2)
    && after (.roceAckReceive 2 4 3) s (fun t => (t.qp 2).phase == .error && (t.job 7).lost == [(1, 1)])
    && off (.roceAckReceive 3 4 0) s && after (.ackTimeout 2) s (fun _ => true) && off (.ackTimeout 2) fab1
    && off (.ackTimeout 2) (fabResetting s)) = true := by decide +kernel
theorem test_cnp : (after (.cnpReceive 2) fab1 (fun t => (t.qp 2).cnps == [1000 * 2 ^ 32]) && off (.cnpReceive 3) fab1) = true := by decide +kernel
/-- The example of R419: 400,000 falls to 300,000 on four CNPs and to 375,000 on one; six quiet windows lead to 363,000, the seventh to the
line rate. -/
theorem test_rate_example : (let quiet := fun (x : Nat × Nat) => rateStep 400000 10 64 1000 64000 0 x.1 x.2
  rateStep 400000 10 64 1000 64000 4 400000 2000 == (300000, 1000) && (rateStep 400000 10 64 1000 64000 1 400000 2000).1 == 375000
    && (quiet (quiet (quiet (quiet (quiet (quiet (300000, 1000))))))).1 == 363000
    && (quiet (quiet (quiet (quiet (quiet (quiet (quiet (300000, 1000)))))))).1 == 400000
    && (quiet (quiet (quiet (quiet (quiet (375000, 1000)))))).1 == 400000) = true := by decide +kernel
theorem test_rate_window : (after (.rateWindowEnd 2) (withQp fab1 { qp1 with cnps := [0] }) (fun t => (t.qp 2).rate == 93750 && (t.qp 2).cnps == []
    && (t.qp 2).windowAt == 1)
  && off (.rateWindowEnd 2) (withQp fab1 { qp1 with windowAt := fab1.rateWindow fab1.clock.now })) = true := by decide +kernel
theorem test_reset_notice : (after (.resetNotice 7 1) fab1 (fun t => (t.qp 2).phase == .error && (t.job 7).lost == [(1, 0)])
  && off (.resetNotice 7 2) fab1 && off (.resetNotice 16 0) fab1) = true := by decide +kernel
/-- The region of a queue's four places, with nothing in it. -/
theorem test_read_response : (let s := withQp fab1 { qp1 with out := [{ packet1 with
    op := 12
    len := 4 }] }
  after (.rdmaReadResponse 2 4 (zeros 4)) s (fun t => (t.qp 2).out == []) && off (.rdmaReadResponse 2 4 (zeros 5)) s
    && off (.rdmaReadResponse 2 5 (zeros 4)) s) = true := by decide +kernel
/-- Parameters of a communication task: step 3, peer 1, job 7, tag 4. -/
def shardParams : List Byte := bytes [3, 0, 0, 0, 1, 0, 7, 0, 4]
def withFab (s : State) (xs : List Transfer) : State := { s with
  regs := fab1.regs
  fabric := { fab1.fabric with transfers := xs } }
theorem test_send_shard : (let s := withFab (opOn 0xB0 0x800 [(0, td1 (inAt 0) 2 2)] shardParams [(inAt 0, bytes [7, 8])]) []
  after (.sendShard 0xB0) s (fun _ => true)
    && off (.sendShard 0xB0) { s with fabric := { s.fabric with sends := [(10, ((s.task 10).map (·.runAt)).getD 1)] } }
    && (s.task 10).any fun k => (s.operand k 0).any fun o => transferMsg s 0x1001 7 0 k.params o == bytes [1, 7, 0, 0] ++ shardMessage.drop 4) = true := by decide +kernel
theorem test_recv_shard : (let s := opOn 0xB0 0x801 [(8, td1 outAt 2 2)] shardParams []
  forms (.recvShard 0xB0) (withFab s [shard1]) (bytes [7, 8]) && off (.recvShard 0xB0) (withFab s [])
    && off (.recvShard 0xB0) (withFab s [{ shard1 with epoch := 1 }])) = true := by decide +kernel
/-- The sum in ascending rank of this member's 1, 2 and the peer's 7, 8. -/
theorem test_all_reduce : (let p := bytes [3, 0, 0, 0, 0, 0, 7, 0, 4]
  let s := withFab (opOn 0xB0 0x802 [(0, td1 (inAt 0) 2 2), (8, td1 outAt 2 2)] p [(inAt 0, bytes [1, 2])]) [shard1]
  after (.allReduce 0xB0) s (fun _ => true)
    && forms (.allReduce 0xB0) { s with fabric := { s.fabric with sends := [(10, ((s.task 10).map (·.runAt)).getD 1)] } } (bytes [8, 10])) = true := by decide +kernel
/-- A tensor of two elements sharded over its one dimension: rank 0 holds 1, rank 1 holds 7. -/
theorem test_all_gather : (let d := td1 (inAt 0) 2 2
  let s := withFab (opOn 0xB0 0x803 [(0, d), (8, td1 outAt 2 2)] (bytes [3, 0, 0, 0, 0, 0, 7, 0, 4]) [(inAt 0, bytes [1, 2])]) []
  after (.allGather 0xB0) s (fun _ => true)) = true := by decide +kernel
theorem test_transfer_discard : (let s := { fab1 with fabric := { fab1.fabric with transfers := [shard1] } }
  after (.transferDiscard 0) s (fun t => t.fabric.transfers == [] && t.fabric.discarded == 1) && off (.transferDiscard 1) s
    && off (.transferDiscard 0) (at_ s 0)) = true := by decide +kernel
theorem test_job_abort : (let s := withTask { fab1 with fabric := { fab1.fabric with transfers := [shard1] } } 10 (task1 (tdesc 0 0 0 0 []))
  after (.jobAbort .bcc 7 0) s (fun t => t.fabric.transfers == [] && (t.task 10).isNone && t.flag (Reg.fabJobStatus 7) Fld.fabJobStatusAborted)
    && after (.jobAbort .host 7 0) s (fun t => t.tally == s.tally && t.fabric == s.fabric)) = true := by decide +kernel
theorem test_job_resume : after (.jobResume .bcc 7) (withQp fab1 { qp1 with phase := .error }) (fun t => t.jobEpoch 7 == 1 && (t.job 7).lost == []
  && t.fabric.qps == []) = true := by decide +kernel

/-! ## Ethernet and PCIe -/

/-- Port 0 enabled, with its receive queue and buffers and its transmit queue in the test context; the link up where asked. -/
def ether (up : Nat) : State :=
  let s := fld (fld base Reg.sdsCfg Fld.sdsCfgQuad0Mode 2) (Reg.ethCtl 0) Fld.ethCtlEnable 1
  let s := fld (fld s (Reg.ethCtl 0) Fld.ethCtlMaxFrame 1522) (Reg.ethCtx 0) Fld.ethCtxHandle 0x1001
  let s := fld (fld s (Reg.ethRxbuf 0) Fld.ethRxbufBase (hall / 64)) (Reg.ethRxbuf 0) Fld.ethRxbufCountM1 1
  reg (fld (fld s (Reg.ethRxq 0 0) Fld.ethRxqQueue 1) (Reg.ethTxq 0) Fld.ethTxqQueue 1) (Reg.ethStatus 0) up
def frameOf (ty : Nat) (b : List Byte) : List Byte := zeros 12 ++ beBytes 2 ty ++ b

theorem test_eth_link : (after (.ethLinkUp 0) (withEvents (ether 0)) (fun t => t.reg (Reg.ethStatus 0) == 3#64 && lastEvent t == 0xAD01
    && after (.ethLinkDown 0) t fun u => !u.linkUp 0 && lastEvent u == 0xAD02)
  && off (.ethLinkUp 0) (ether 3) && off (.ethLinkUp 0) base && off (.ethLinkDown 0) (ether 0)) = true := by decide +kernel
/-- A packet takes the first receive buffer; its entry is of type 4. A PTP frame is answered with its stamp, PAUSE counted. -/
theorem test_eth_receive : (after (.ethFrameReceive 0 (frameOf 0x1234 (bytes [1, 2]))) (ether 3) (fun t => t.bytesAt hall 16 == frameOf 0x1234 (bytes [1, 2])
    && (t.queue 1).any (fun u => u.ents.map (·.ty) == [4]) && (t.ethPort 0).used == 1
    && after (.rxBufferReturn .bcc 0 0) t (fun u => (u.ethPort 0).used == 0))
  && after (.ethFrameReceive 0 (frameOf 0x88F7 [])) (ether 3) (fun t => t.out == some ⟨true, leBytes 8 (1000 * 2 ^ 32) ++ frameOf 0x88F7 []⟩)
  && after (.ethFrameReceive 0 (frameOf 0x8808 [])) (ether 3) (fun t => t.fld (Reg.ethCnt 0) Fld.ethCntPauseRx == 1)
  && off (.ethFrameReceive 0 (zeros 13)) (ether 3) && off (.ethFrameReceive 0 (zeros 14)) (ether 0)) = true := by decide +kernel
/-- An entry for 14 bytes at a buffer's address: the frame goes out padded to 60 bytes. -/
theorem test_eth_transmit : (let s := { ether 3 with tally := (holding base [entry 0 0 4]).tally }
  let s := put (put s (hall + 0x8000) (leBytes 8 (hall + 0x100) ++ leBytes 2 13)) (hall + 0x100) (frameOf 0x1234 [])
  after (.ethFrameTransmit 0) s (fun t => t.sent == [(0xA8, padTo 60 (frameOf 0x1234 []))] && (t.queue 1).any (fun u => u.ents == []))
    && off (.ethFrameTransmit 0) (ether 3)) = true := by decide +kernel
theorem test_lldp_send : (after (.lldpSend 0) (ether 3) (fun t => t.sent.length == 1 && (t.ethPort 0).lldpAt == some (1000 * 2 ^ 32) && off (.lldpSend 0) t)
  && off (.lldpSend 0) (ether 0)) = true := by decide +kernel
/-- An LLDPDU with chassis ID, TTL 1 s: the neighbour is there, and ages out. -/
theorem test_lldp_expiry : (let f := frameOf 0x88CC (bytes [2, 7, 4, 1, 2, 3, 4, 5, 6, 4, 2, 7, 0, 6, 2, 0, 1, 0, 0])
  after (.ethFrameReceive 0 f) (withEvents (ether 3)) (fun t => lastEvent t == 0xAD03 && off (.lldpTtlExpiry 0) t
    && after (.lldpTtlExpiry 0) (at_ t (1002 * 2 ^ 32)) (fun u => (u.ethPort 0).neigh == none && lastEvent u == 0xAD04))) = true := by decide +kernel
theorem test_pcie : (after (.pcieLinkUp 5 8) base (fun t => t.fld Reg.pcieStatus Fld.pcieStatusSpeed == 5 && t.fld Reg.pcieStatus Fld.pcieStatusWidth == 8
    && off (.pcieLinkUp 1 1) t && after (.msiReceive 0 9) t (fun u => u.regs == t.regs)
    && after .pcieLinkDown t (fun u => u.fld Reg.pcieStatus Fld.pcieStatusSpeed == 0))
  && off (.pcieLinkUp 6 8) base && off (.pcieLinkUp 5 3) base && off .pcieLinkDown base && off (.msiReceive 0 9) base) = true := by decide +kernel

/-! ## Functional safety -/

/-- The frame graph of the test context, and pipeline 3 over it with output queue 1 (strict order, not in ledger mode). -/
def framed : State :=
  let s := withGraph base { graph1 with cadence := 1 }
  let s := { s with tally := { s.tally with queues := [(1, { queue1 with order := 0 })] } }
  let s := fld (fld s (Reg.safePipeCfg 3) Fld.safePipeCfgHandle 0x1001) (Reg.safePipeGate 3) Fld.safePipeGateOutQueue 1
  fld s (Reg.safePipeGate 3) Fld.safePipeGateFttiMs 100
def piped : State := ran (.pipelineEnable .bcc 3) framed
def instNow : PipeInst := ⟨9, 4, 1000 * 2 ^ 32, none, [], none⟩
/-- Pipeline 3 with an instance that has ended, and one entry of it held at the gate. -/
def gatedBy (i : PipeInst) : State := { piped with
  tally := { piped.tally with queues := [(1, { queue1 with
    order := 0
    ents := [{ entry 0 0 0 with gate := some (3 * 2 ^ 32 + 9) }]
    next := 1 })] }
  safe := { piped.safe with pipes := [(3, { piped.pipe 3 with insts := [i] })] } }

theorem test_pipeline_enable : (piped.pipeOn 3 && piped.pipeState 3 == 1
  && after (.pipelineEnable .host 3) framed (fun t => !t.pipeOn 3 && t.safe == framed.safe) && off (.pipelineEnable .bcc 32) framed
  && after (.pipelineEnable .bcc 3) (fld framed (Reg.safePipeCfg 3) Fld.safePipeCfgHandle 0x1002) (fun t => !t.pipeOn 3)) = true := by decide +kernel
/-- A passed instance: its entry leaves the gate, and a closing entry of verdict 0 + 4 follows (R444, R445). -/
theorem test_gate_decision : (after (.gateDecision 3 9) (gatedBy instNow) (fun t => (t.queue 1).any (fun u => u.ents.map (·.gate) == [none, none])
    && t.bytesAt (hall + 0x8000 + 40) 6 == bytes [9, 0, 0, 0, 0, 3] && t.bytesAt (hall + 0x8040 + 40) 6 == bytes [9, 0, 0, 0, 4, 3])
  && off (.gateDecision 3 8) (gatedBy instNow) && off (.gateDeadline 3 9) (gatedBy instNow)) = true := by decide +kernel
/-- A faulty instance is withheld: its payload reads zero, verdict 2 (R444). -/
theorem test_gate_withheld : after (.gateDecision 3 9) (put (gatedBy { instNow with fault := some 1 }) (hall + 0x8000) (bytes [7, 7])) (fun t =>
  t.bytesAt (hall + 0x8000) 2 == zeros 2 && t.bytesAt (hall + 0x8000 + 44) 3 == bytes [2, 3, 1]
    && t.fld (Reg.safePipeCnt 3) Fld.safePipeCntWithheld == 1) = true := by decide +kernel
/-- 100 ms after its capture stamp an instance with an open block is decided with a fault of kind 5. -/
theorem test_gate_deadline : (let s := gatedBy { instNow with blocks := [⟨10, 0, 0x28, 0x20, 5⟩] }
  after (.gateDeadline 3 9) (at_ s (1001 * 2 ^ 32)) (fun t => t.fld (Reg.safePipeCnt 3) Fld.safePipeCntWithheld == 1)
    && off (.gateDeadline 3 9) (at_ s (1000 * 2 ^ 32 + 2 ^ 27)) && off (.gateDecision 3 9) s) = true := by decide +kernel
theorem test_checker_compare : (let s := gatedBy { instNow with blocks := [⟨10, 0, 0x28, 0x20, 5⟩] }
  after (.checkerCompare 3 10 5) s (fun t => (t.pipe 3).insts == [instNow] && t.fld (Reg.chkMismatch 0) Fld.chkMismatchCount == 0)
    && after (.checkerCompare 3 10 6) s (fun t => (t.pipe 3).insts == [{ instNow with fault := some 0 }]
      && t.fld (Reg.chkMismatch 0) Fld.chkMismatchCount == 1)
    && off (.checkerCompare 3 11 5) s) = true := by decide +kernel
theorem test_safe_state : after (.safeEnter .bcc 3) piped (fun t => t.pipeState 3 == 3 && after (.safeClear .bcc 3) t (fun u => u.pipeState 3 == 1)
  && after (.safeClear .host 3) t (fun u => u.pipeState 3 == 3) && after (.safeEnter .host 3) piped (fun u => u.pipeState 3 == 1)) = true := by decide +kernel
/-- Within the window of 8 instances a second fault brings safe state; at distance 8 it does not (R446). -/
theorem test_second_fault : (withinWindow 9 16 8 && !withinWindow 9 17 8 && !withinWindow 9 9 8 && withinWindow (2 ^ 32 - 1) 6 8) = true := by decide +kernel
theorem test_seal_enable : (let s := { base with hall := { base.hall with bufs := [(2, { hallBuf0 with
    owner := 0x1001
    stride := 4096
    base := hall })] } }
  after (.sealEnable .bcc 2 (hall + 0x2000)) s (fun t => (tblFind t.hall.bufs 2).any fun b => b.sealed && b.sealBase == hall + 0x2000)
    && after (.sealEnable .bcc 2 hall) s (fun t => t.hall == s.hall) && after (.sealEnable .host 2 (hall + 0x2000)) s (fun t => t.hall == s.hall)
    && off (.sealEnable .bcc 256 0) s) = true := by decide +kernel
theorem test_belay_arm : (after (.belayEnable .bcc 5) base (fun t => fieldOf (t.belay 5).cfg Fld.safeBwCfgEnable == 1)
  && after (.belayArm .bcc 5) base (fun t => (t.belay 5).armed && !(t.belay 5).late && after (.belayDisarm .bcc 5) t (fun u => !(u.belay 5).armed))
  && after (.belayArm .host 5) base (fun t => t.safe == base.safe) && off (.belayArm .bcc 256) base) = true := by decide +kernel
/-- Open 100, close 200: ends at 99, 100, 200 and 201 are early, in the window, in the window and late. -/
theorem test_belay_decision : (let s := fun (e : Option Nat) => { base with safe := { base.safe with belays := [(5, { belay0 with due := [⟨4, 9, 100, 200, e⟩] })] } }
  let result := fun (e : Option Nat) => after (.belayWindowDecision 5) (s e) fun t => (t.belay 5).due == [] && (t.belay 5).inst == 9
  ((result (some 99) && result (some 100) && result (some 200) && result (some 201) && result none)
    && after (.belayWindowDecision 5) (s (some 99)) (fun t => (t.belay 5).result == 2)
    && after (.belayWindowDecision 5) (s (some 100)) (fun t => (t.belay 5).result == 1)
    && after (.belayWindowDecision 5) (s (some 200)) (fun t => (t.belay 5).result == 1)
    && after (.belayWindowDecision 5) (s (some 201)) (fun t => (t.belay 5).result == 3)
    && off (.belayWindowDecision 5) base && off (.belayWindowDecision 5) (at_ (s none) 200))) = true := by decide +kernel
/-- A template of one CAIRN_CHECK-kind task; the cairn over it covers pipeline 3. -/
def cairned : State := ran (.cairnEnable .bcc 2) { withGraph piped { graph1 with tasks := [leBytes 4 (3 * 2 ^ 16) ++ leBytes 4 0x1001 ++ leBytes 8 1 ++ zeros 112] } with
  safe := { piped.safe with cairns := [(2, { cairn0 with cfg := BitVec.ofNat 64 (2 ^ (Fld.safeCairnCfgPipeMask.lsb + 3)) })] } }
theorem test_cairn_enable : (fieldOf (cairned.cairn 2).cfg Fld.safeCairnCfgEnable == 1 && (cairned.pipe 3).due == [2] && cairned.pipeState 3 == 2
  && after (.cairnEnable .bcc 2) piped (fun t => t.safe == piped.safe) && off (.cairnEnable .bcc 16) piped) = true := by decide +kernel
def cairnRan (r : CairnRun) : State := { cairned with safe := { cairned.safe with cairns := [(2, { cairned.cairn 2 with run := some r })] } }
/-- All tasks ended in time: the cairn has passed and pipeline 3 is verified; a failing check brings safe state; else it is missed. -/
theorem test_cairn_window : (after (.cairnWindowExpiry 2) (cairnRan ⟨4, 1000 * 2 ^ 32, false, 1000 * 2 ^ 32, []⟩) (fun t => (t.cairn 2).last == 1
    && (t.cairn 2).run == none && t.pipeState 3 == 1)
  && after (.cairnWindowExpiry 2) (cairnRan ⟨4, 1000 * 2 ^ 32, false, 0, [(false, 3, 7)]⟩) (fun t => (t.cairn 2).last == 2 && t.pipeState 3 == 3)
  && after (.cairnWindowExpiry 2) (cairnRan ⟨4, 1000 * 2 ^ 32, true, 0, []⟩) (fun t => (t.cairn 2).last == 3 && t.pipeState 3 == 2)
  && off (.cairnWindowExpiry 2) cairned) = true := by decide +kernel
theorem test_cairn_due : (after (.cairnDue 2) cairned (fun t => (t.cairn 2).n == 1) && off (.cairnDue 2) (at_ cairned 0) && off (.cairnDue 3) cairned) = true := by decide +kernel

/-! ## Self-test and power -/

/-- Unit 2 under test; its drain limit of 100 ms past. -/
def tested : State := ran (.bistStart .bcc 2) base
def drained : State := ran .bistDrainLimit (at_ tested (1001 * 2 ^ 32))
def phase (s : State) (n : Nat) : State := fld s Reg.bistStatus Fld.bistStatusPhase n
theorem test_bist_start : (tested.bist.unit == some 2 && tested.bistPhase == 1 && (tested.engine 0x10).testing
  && after (.bistStart .bcc 3) tested (fun t => t.bist == tested.bist) && after (.bistStart .bcc 7) base (fun t => t.bist == base.bist)
  && after (.bistStart .host 2) base (fun t => t.bist == base.bist)
  && after (.bistAbort .bcc) tested (fun t => t.bist.unit == none && !(t.engine 0x10).testing && !t.flag Reg.bistStatus Fld.bistStatusBusy)) = true := by decide +kernel
theorem test_bist_drain : (drained.bistPhase == 2 && (drained.fence 0x102).isSome && drained.flag (Reg.streamMode 2) Fld.streamModeRestricted
  && off .bistDrainLimit tested && off .bistDrainLimit base) = true := by decide +kernel
/-- A broken clock condition: result 3 for both segments, the signatures kept, the test due again. -/
theorem test_lbist : (after (.lbistComplete 5#64 6#64 1 9) (phase drained 4) (fun t => t.bistPhase == 5 && t.reg Reg.bistMisrPort == 5#64
    && t.fld (Reg.bistResult 2) Fld.bistResultBody == 3 && t.bist.retry == [(2, 1001 * 2 ^ 32, 0)])
  && off (.lbistComplete 5#64 6#64 1 9) drained && off (.lbistComplete 5#64 6#64 3 9) (phase drained 4)) = true := by decide +kernel
/-- Unit 2 comes back, a failing engine buffer is taken out of service. -/
theorem test_mbist : (after (.mbistComplete []) (phase drained 5) (fun t => t.bist.unit == none && (t.fence 0x102).isNone && !(t.engine 0x10).testing
    && t.fld (Reg.bistResult 2) Fld.bistResultMbistFail == 0)
  && after (.mbistComplete [0x10010]) (phase drained 5) (fun t => (t.engine 0x10).failed && t.fld (Reg.bistResult 2) Fld.bistResultMacros == 1)
  && off (.mbistComplete []) drained) = true := by decide +kernel
def rotating : State := fld (fld (fld base Reg.bistRot Fld.bistRotEnable 1) Reg.bistRot Fld.bistRotRotMask 0x0C) Reg.bistRot Fld.bistRotPeriodH 1
theorem test_rotation : (after .rotationDue rotating (fun t => t.bist.unit == some 2) && off .rotationDue base
  && off .rotationDue { rotating with bist := { rotating.bist with rotated := [(2, 1000 * 2 ^ 32), (3, 1000 * 2 ^ 32)] } }) = true := by decide +kernel
theorem test_bist_retry : (let s := fun n => { base with bist := { base.bist with retry := [(2, 400 * 2 ^ 32, n)] } }
  after .bistRetry (s 2) (fun t => t.bist.unit == some 2 && t.bist.retry == [(2, 1000 * 2 ^ 32, 3)]) && off .bistRetry (s 3)
    && off .bistRetry (at_ (s 0) (999 * 2 ^ 32))) = true := by decide +kernel
theorem test_bist_bypass : (after (.bistBypassWrite .bcc 1) base (fun t => (t.engine 0x28).bypassed
    && after (.bistBypassWrite .bcc 0) t (fun u => u.bist.bypassing == [0x28] && (u.engine 0x28).bypassed
      && after (.mbistComplete []) u (fun v => !(v.engine 0x28).bypassed && v.bist.bypassing == [])))
  && after (.bistBypassWrite .host 1) base (fun t => !(t.engine 0x28).bypassed)) = true := by decide +kernel

/-- The rails of a device that runs. -/
def railed : State := { base with power := { base.power with valid := List.range 10 } }
theorem test_rails : (after (.railInvalid 9) railed (fun t => !t.power.valid.contains 9)
  && after (.railInvalid 7) railed (fun t => !t.power.valid.contains 7)
  && after (.railInvalid 0) railed (fun t => t.power.phase == 0 && t.mem == [] && t.tally == tally0)
  && off (.railInvalid 10) railed && off (.railValid 9) railed && off (.railValid 10) base
  && after (.railValid 3) State.reset (fun t => t.power.valid.contains 3 && tblFind t.power.railAt 3 == some 0)) = true := by decide +kernel
/-- Both rails of the always-on domain, then all ten for 2 ms (R498). -/
def poweredOn : State := ran .powerOn { State.reset with power := { State.reset.power with valid := List.range 10 } }
theorem test_power_on : (poweredOn.power.phase == 1 && poweredOn.pins.driven && poweredOn.pins.pcycReqN && !poweredOn.pins.safeN
  && off .powerOn base && off .powerOn { State.reset with power := { State.reset.power with valid := [0] } }
  && after .bccResetRelease (at_ poweredOn (msUnits 2)) (fun t => t.power.phase == 2 && bitAt (t.fld Reg.clkStatus Fld.clkStatusLocked) 40)
  && off .bccResetRelease (at_ poweredOn (msUnits 2 - 1))) = true := by decide +kernel
theorem test_ref_ao : (after .refAoLoss railed (fun t => t.power.phase == 0 && t.mem == []) && off .refAoLoss State.reset) = true := by decide +kernel
/-- An engine falls to warm standby, then to cold; the PLL of its domain stops when all of the domain are cold; it wakes (R500). -/
theorem test_power_states : (let s := { base with engines := [(0x28, { engine0 with power := .awake })] }
  after (.warmStandbyEntry 0x28) s (fun t => (t.engine 0x28).power == .warm
    && after (.coldEntry 0x28) (at_ t (1001 * 2 ^ 32)) (fun u => (u.engine 0x28).power == .cold && (u.engine 0x28).since == 1001 * 2 ^ 32)
    && off (.coldEntry 0x28) t && off (.warmStandbyEntry 0x28) t)
  && off (.warmStandbyEntry 0x40) s && off (.coldEntry 0x28) s
  && after (.pllStop 6) { base with engines := [] } (fun t => t.power.stopped == [6] && off (.pllStop 6) t) && off (.pllStop 6) s && off (.pllStop 5) base
  && after (.wakeComplete 0x28) { s with
    engines := [(0x28, { engine0 with power := .waking })]
    power := { s.power with stopped := [6] } } (fun t => (t.engine 0x28).power == .awake && t.power.stopped == [])
  && off (.wakeComplete 0x28) s) = true := by decide +kernel
/-- Domain 36, a DDR channel, may be off where the channel has no memory; domain 0 is not the BCC's to switch. -/
theorem test_domain_switch : (after (.domainSwitch .bcc 65 false) base (fun t => !t.power.domOn.contains 65
    && after (.domainSwitch .bcc 65 true) t (fun u => u.power.domOn.contains 65))
  && after (.domainSwitch .bcc 0 false) base (fun t => t.power == base.power) && after (.domainSwitch .host 65 false) base (fun t => t.power == base.power)
  && after (.domainSwitch .bcc 51 false) base (fun t => t.power == base.power)) = true := by decide +kernel
def locked : State := fld base Reg.clkStatus Fld.clkStatusLocked (2 ^ 41 - 1)
def unlocked : State := ran (.pllUnlock 6) locked
theorem test_pll : (!bitAt (unlocked.fld Reg.clkStatus Fld.clkStatusLocked) 6 && (unlocked.engine 0x28).stopped
  && unlocked.fld Reg.clkUnlockCnt Fld.clkUnlockCntCount == 1 && off (.pllUnlock 6) unlocked && off (.pllUnlock 33) locked && off (.pllUnlock 0) locked
  && after (.pllRelocked 6) unlocked (fun t => t.power.unlocked == [] && !(t.engine 0x28).stopped) && off (.pllRelocked 6) locked
  && after (.pllRelockTimeout 6) (at_ unlocked (1001 * 2 ^ 32)) (fun t => (tblFind t.rcv.resets 0x28).isSome && off (.pllRelockTimeout 6) t)
  && off (.pllRelockTimeout 6) unlocked) = true := by decide +kernel
/-- 60 W against a limit of 60 W is above 97 %: throttling; 50 W lifts it (below 92 % of the mean). -/
theorem test_power_evaluation : (let s := fld base Reg.pwrLimit Fld.pwrLimitWatts 60
  after (.powerEvaluation 60000) s (fun t => t.flag Reg.pwrStatus Fld.pwrStatusThrottling && t.fld Reg.pwrStatus Fld.pwrStatusMw1ms == 60000
    && after (.powerEvaluation 50000) t (fun u => u.fld Reg.pwrStatus Fld.pwrStatusMw1ms == 55000))
  && after (.powerEvaluation 58200) s (fun t => !t.flag Reg.pwrStatus Fld.pwrStatusThrottling) && off (.powerEvaluation 1) State.reset) = true := by decide +kernel
/-- Sensor 0 at 30 °C, then at 20 °C: the maximum stays. Trip at 120 °C (R509). -/
theorem test_monitor : (after (.monitorSample 0 0 240) base (fun t => t.monitor 0 0 == 240
    && after (.monitorSample 0 0 160) t (fun u => tblFind u.power.mon 0 == some (160, 240)))
  && after (.monitorSample 0 0 960) base (fun t => t.power.tripped && t.power.hot == [0] && !t.pins.thermN)
  && off (.monitorSample 0 64 240) base && off (.monitorSample 5 0 0) base && off (.monitorSample 0 0 240) State.reset) = true := by decide +kernel
/-- A stretch of 1 ms at half of 1.25 GHz: 625,000 cycles. -/
theorem test_droop : (after (.droopDetect 2) base (fun t => tblFind t.power.droop 2 == some (1000 * 2 ^ 32) && off (.droopDetect 2) t
    && after (.droopStretchEnd 2) (at_ t (1000 * 2 ^ 32 + 4294968)) (fun u => u.power.droop == []
      && u.fld (Reg.monDroopCnt 2) Fld.monDroopCntCycles == 625000))
  && off (.droopDetect 7) base && off (.droopStretchEnd 2) base) = true := by decide +kernel

/-! ## Boot, security, debug -/

/-- The device with the BCC out of reset and its storage blank: boot ends in bivouac, without an accepted image. -/
def unbooted : State := { State.reset with power := { State.reset.power with phase := 2 } }
theorem test_boot : (after (.boot 0 0 [] 0x1000) { unbooted with store := { unbooted.store with helperOk := false } } (fun t => t.sec.booted && t.rcv.bivouac
    && !t.flag Reg.secStatus Fld.secStatusIdentityOk && (t.queue 0).any (fun u => u.base == 0x1000 && u.entries == 65536) && !t.tally.accepting)
  && off (.boot 0 0 [] 1) unbooted && off (.boot 0 0 [] 0) State.reset && off (.boot 0 0 [] 0) base) = true := by decide +kernel
/-- The Hall is a hole until boot powers its groups (R498, R499). -/
theorem test_power_domains : (let t := M.run powerDomains State.reset
  State.reset.place hall == .hole && t.place hall != .hole && t.place (hall + 0x2FFFFFF) != .hole && t.power.domOn.contains 51 && t.power.domOn.contains 80
    && !t.power.domOn.contains 36 && !t.power.domOn.contains 82) = true := by decide +kernel
/-- The first bytes of SHAKE256 of the empty string (FIPS 202). -/
theorem test_shake256 : shake256 [] 8 == bytes [0x46, 0xb9, 0xdd, 0x2b, 0x0b, 0xa8, 0x8d, 0x13] := by decide +kernel
theorem test_measurement : (after (.measurementExtend .bcc 5 hall) base (fun t => t.sec.layers.length == 8 && t.layer 6 == base.layer 6)
  && after (.measurementExtend .bcc 4 hall) base (fun t => t.sec == base.sec) && after (.measurementExtend .host 5 hall) base (fun t => t.sec == base.sec)) = true := by decide +kernel
theorem test_attestation : after (.attestationRequest .bcc hall) (put base hall (bytes [1, 2])) (fun t => t.sec.att == some (hall, bytes [1, 2] ++ zeros 62, 1000 * 2 ^ 32)
    && t.flag Reg.secAttStatus Fld.secAttStatusBusy && after .attestationReportDone t (fun _ => true)
    && after (.attestationRequest .bcc (hall + 64)) t (fun u => u.sec == t.sec))
  && after (.attestationRequest .bcc (hall + 0xFC0)) base (fun t => t.sec == base.sec) && off .attestationReportDone base = true := by decide +kernel

/-- A BCC image of svn 5 and version 6 as read for an update, in an update's state. -/
def image5 : Image := ⟨bytes [1, 0, 0, 0] ++ zeros 4 ++ leBytes 4 5 ++ leBytes 4 6 ++ zeros 240, [0x13#8]⟩
def updating (n ty : Nat) (i : Option Image) : State :=
  let s := fld base Reg.secUpdStatus Fld.secUpdStatusState n
  { s with sec := { s.sec with update := some ⟨hall, i, 1, ty, 900 * 2 ^ 32⟩ } }
theorem test_firmware_update : (after (.firmwareUpdate .bcc hall) (put base hall image5.header) (fun t => t.updState == 1
    && t.sec.update.any (fun u => u.image == some ⟨image5.header, [0#8]⟩ && u.slot == 1 && u.type == 1))
  && after (.firmwareUpdate .bcc hall) (updating 3 1 none) (fun t => t.sec == (updating 3 1 none).sec)
  && after (.firmwareUpdate .host hall) base (fun t => t.updState == 0)) = true := by decide +kernel
theorem test_update_verification : (after .updateVerificationDone (updating 1 1 none) (fun t => t.updState == 6)
  && after .updateVerificationDone (updating 1 2 (some image5)) (fun t => t.updState == 6) && off .updateVerificationDone (updating 2 1 none)) = true := by decide +kernel
theorem test_update_write : (after (.updateWriteDone true) (updating 2 1 (some image5)) (fun t => t.updState == 3 && tblFind t.store.bccSlots 1 == some image5)
  && after (.updateWriteDone true) (updating 2 2 (some image5)) (fun t => t.updState == 0 && tblFind t.store.appSlots 1 == some image5 && t.store.appActive == 1)
  && after (.updateWriteDone false) (updating 2 1 (some image5)) (fun t => t.updState == 6 && t.store == base.store)
  && off (.updateWriteDone true) (updating 3 1 (some image5))) = true := by decide +kernel
/-- Handed over at a quiescent tick, then committed after its probation, or reverted. -/
theorem test_update_commit : (after .quiescentTick (updating 3 1 (some image5)) (fun t => t.updState == 4 && t.sec.bccImage == some image5 && off .updateCommit t)
  && after .updateCommit (updating 4 1 (some image5)) (fun t => t.updState == 5 && t.store.bccActive == 1 && t.sec.update == none)
  && after .updateRevert (updating 4 1 (some image5)) (fun t => t.store.bccActive == 0)
  && after .updateWaitTimeout (updating 3 1 (some image5)) (fun t => t.updState == 6) && off .updateWaitTimeout (at_ (updating 3 1 none) (909 * 2 ^ 32))
  && off .quiescentTick (updating 4 1 (some image5)) && off .updateRevert base) = true := by decide +kernel
/-- The counter advances to the running svn 5, and never goes back from 7. -/
theorem test_svn : (let s := fun n => { base with
    sec := { base.sec with
      bccImage := some image5
      appImage := some image5 }
    store := { base.store with counters := [(1, n), (2, n)] } }
  after (.svnCommitBcc .bcc) (s 4) (fun t => t.counter 1 == 5 && t.counter 2 == 4) && after (.svnCommitApp .bcc) (s 4) (fun t => t.counter 1 == 4 && t.counter 2 == 5)
    && after (.svnCommitBcc .bcc) (s 7) (fun t => t.counter 1 == 7) && after (.svnCommitBcc .host) (s 4) (fun t => t.store == (s 4).store)) = true := by decide +kernel
theorem test_tap : (after .idcode base (fun t => t.out.any fun r => r.ok && r.data.length == 4) && after .tapBypass base (fun t => t.out == some ⟨true, [0#8]⟩)
  && off .idcode State.reset && off .tapBypass State.reset) = true := by decide +kernel
theorem test_debug : (after .debugChallenge base (fun t => (t.sec.challenge.map List.length) == some 64 && t.out.any (·.ok)
    && after (.debugResponse (bytes [0])) t (fun u => u.sec.failures == 1 && u.sec.challenge == none && u.out == some ⟨false, []⟩))
  && after .debugChallenge { base with sec := { base.sec with failures := 4 } } (fun t => t.out == some ⟨false, []⟩ && t.sec.challenge == none)
  && off (.debugResponse (bytes [0])) base && off .debugChallenge State.reset) = true := by decide +kernel
theorem test_extest : (after (.extest 5) (fld base Reg.secStatus Fld.secStatusDebug 1) (fun t => t.pins.extest && t.pins.ppsOut && !t.pins.pcycReqN && t.pins.thermN
    && !t.pins.safeN && !t.tally.accepting && after .extestExit t (fun u => !u.pins.extest && (u.fence 0x200).isSome))
  && after (.extest 5) base (fun t => t.pins == base.pins && t.out == some ⟨false, []⟩) && off .extestExit base && off (.extest 5) State.reset) = true := by decide +kernel

/-! ## Radio links and symbols -/

def link2 (st : Nat) : State := fld (fld base (Reg.jesdCtl 2) Fld.jesdCtlEnable 1) (Reg.jesdStatus 2) Fld.jesdStatusState st
theorem test_sysref : (after .sysrefEdge (link2 1) (fun t => t.radio.sysref == (link2 1).sysrefAt)
  && off .sysrefEdge (at_ base 0)) = true := by decide +kernel
theorem test_jesd_error : (after (.jesdLinkError 2 false) (link2 2) (fun t => t.linkState 2 == 1 && t.fld (Reg.jesdErr 2) Fld.jesdErrCrc == 1)
  && after (.jesdLinkError 2 true) (link2 2) (fun t => t.linkState 2 == 1 && t.fld (Reg.jesdErr 2) Fld.jesdErrCrc == 0)
  && off (.jesdLinkError 2 true) (link2 1) && off (.jesdLinkError 8 true) base) = true := by decide +kernel
/-- Carrier 0 receives and transmits symbols of one sample; the symbol that has begun at 2,000,000,000 s. -/
def carrier0 : State := fld (fld (later (tiny base)) (Reg.dfeCfg 0) Fld.dfeCfgRxEn 1) (Reg.dfeCfg 0) Fld.dfeCfgTxEn 1
theorem symbol_taken (s : State) (c : Nat) (x : Nat × Nat) (h : s.rxDue c = some x) :
    ∃ t, exec (.symbolBoundary c (zeros (s.carStreams c * s.inputBytes c x))) s = .next t :=
  ⟨_, if_pos (by simp only [h]; simp [zeros])⟩
theorem test_symbol_due : carrier0.rxDue 0 = some (2000000000000, 0) := by decide +kernel
theorem test_symbol_boundary : ∃ t, exec (.symbolBoundary 0 (zeros (carrier0.carStreams 0 * carrier0.inputBytes 0 (2000000000000, 0)))) carrier0 = .next t :=
  symbol_taken carrier0 0 _ test_symbol_due
theorem test_symbol_boundary_refused : (off (.symbolBoundary 0 [0#8]) carrier0 && off (.symbolBoundary 1 []) carrier0) = true := by decide +kernel
theorem test_symbol_launch : (after (.symbolLaunch 0) carrier0 (fun t => (tblFind t.radio.txAt 0).isSome && (tblGet t.radio.tx [] 0).length == 1 && off (.symbolLaunch 0) t)
  && off (.symbolLaunch 1) carrier0) = true := by decide +kernel
/-- A fronthaul task of peer 0 on symbol 0 of a slot, some slots after the present one. -/
def fhAt (op : Nat) (d : Int) : State :=
  let s := opOn 0x35 op (if op = 0x609 then [(0, td1 (inAt 0) 17 12), (1, td1 (inAt 1) 25 1)] else [(8, td1 outAt 17 12), (9, td1 (outAt + 0x100) 25 1)])
    (zeros 16 ++ leBytes 4 ((1684035181000 + d) % 2 ^ 32).toNat) []
  fld (later s) (Reg.ethStatus 0) Fld.ethStatusLink 1
theorem test_fh_open : (after (.fhWindowOpen 0) (fhAt 0x609 0) (fun t => !t.radio.fhSent.isEmpty) && off (.fhWindowOpen 0) (fhAt 0x609 1)
  && off (.fhWindowOpen 16) (fhAt 0x609 0)) = true := by decide +kernel
theorem test_fh_close : (after (.fhWindowClose 0) (fhAt 0x60A (-1)) (fun t => t.radio.fhClosed.length == 1)
  && after (.fhWindowClose 0) (fhAt 0x609 (-1)) (fun t => t.fld (Reg.fheCntB 0) Fld.fheCntBTxMissed == 1) && off (.fhWindowClose 0) (fhAt 0x60A 1)) = true := by decide +kernel

/-! ## Statements over every state: witnesses -/

/-- Context 0x1002, translated: its tables at hall + 0x20000 lead over two pages to a 1 GiB leaf at 0x4000000000, read and write. -/
def translated : State :=
  let s := { base with tally := { base.tally with contexts := (base.tally.contexts ++ [(2, { ctx1 with
    physical := false
    root := hall + 0x20000 })]) } }
  put (put s (hall + 0x20000) (leBytes 8 (((hall + 0x21000) / 4096) * 1024 + 1))) (hall + 0x21000) (leBytes 8 (0x4000000 * 1024 + 0xC7))
theorem test_walk : (translated.walk 0 0x10123 4 (hall + 0x20000) == .leaf (0x4000000 * 1024 + 0xC7) 2
  && (match leafCheck (0x4000000 * 1024 + 0xC7) 2 0x10010123 true with
    | .ok pa => pa == 0x4010010123
    | _ => false)
  && translated.walk 0 0x8000000000 4 (hall + 0x20000) == .fault && translated.walk 0 0x8010000123 4 0x6000000000 == .readAt 0x6000000008) = true := by decide +kernel
/-- A write through the translation reaches the Hall; an unmapped and a non-canonical address raise event 0x4003. -/
theorem test_translated_request : (after (.memoryRequest (.engine 0) (some 0x1002) true 0x10010100 2 (bytes [5, 6]) 0) translated (fun t =>
    t.bytesAt (hall + 0x10100) 2 == bytes [5, 6])
  && after (.memoryRequest (.engine 0) (some 0x1002) false 0x8000000000 64 [] 0) (withEvents translated) (fun t => lastEvent t == 0x4003 && t.out == some ⟨false, []⟩)
  && after (.memoryRequest (.engine 0) (some 0x1002) false 0x800000000000 64 [] 0) (withEvents translated) (fun t => lastEvent t == 0x4003)
  && after (.memoryRequest (.engine 0) (some 0x5002) false 0 64 [] 0) translated (fun t => t.fld Reg.rcvLate Fld.rcvLateCount == 1)) = true := by decide +kernel
/-- Event 0x3003 of the second write of a running invalidation; its 32-byte record begins the entry: stamp, sequence, source, partition,
code. A full event queue loses the record. -/
theorem test_event_record : (let s := withEvents base
  let full := { s with tally := { s.tally with queues := tblSet s.tally.queues 0 { queue1 with
    owner := 0x1000
    base := 0x4010100000
    ents := (List.range 16).map fun n => entry n n 3
    next := 16 } } }
  after (.timeStep .host 5#64) s (fun t => t.bytesAt 0x4010100000 16 == leBytes 8 (1000 * 2 ^ 32) ++ leBytes 4 0 ++ (t.bytesAt 0x401010000C 2) ++ leBytes 2 0x3003
      && (t.queue 0).any (fun u => u.evSeq == 1 && u.next == 1))
    && after (.timeStep .host 5#64) full (fun t => t.mem == full.mem && (t.queue 0).any (fun u => u.evSeq == 1 && u.evLost == 1 && u.drops == 1))) = true := by decide +kernel
/-- Indices −1, 0, 2 and 3 of a tensor of three elements with fill value 9. -/
theorem test_out_of_bounds : (let s := opOn 0 0x100 [(0, (td1 (inAt 0) 2 3).take 16 ++ leBytes 4 9 ++ (td1 (inAt 0) 2 3).drop 20)] [] [(inAt 0, bytes [10, 20, 30])]
  ((s.task 10).bind fun k => s.operand k 0).any fun t => [-1, 0, 2, 3].map (fun i => t.code s 0x1001 [i]) == [9, 10, 30, 9]) = true := by decide +kernel
/-- The operands of an INT8 product with an INT8 output. -/
theorem test_integer_path : (let s := opOn 0 0x200 [(0, td1 (inAt 0) 2 2), (1, td1 (inAt 1) 2 2), (8, td1 outAt 2 1)] [] []
  (s.task 10).any fun k => (tenAt (s.operands k) 0).any fun a => (tenAt (s.operands k) 1).any fun b => (tenAt (s.operands k) 8).any fun o =>
    pathOf a b == some .int && !isCplx o.dt && !isFp o.dt && o.dt != 0x12 && (tenAt (s.operands k) 2).isNone) = true := by decide +kernel
/-- FAB_RC.cut has the range 1 to 255: 0 becomes 1 (R7). A read-only register keeps its value. -/
theorem test_register_clamp : (after (.registerWrite .bcc true Reg.fabRc 0#64) base (fun t => t.fld Reg.fabRc Fld.fabRcCut == 1)
  && after (.registerWrite .bcc true Reg.timeStatus (BitVec.allOnes 64)) base (fun t => t.reg Reg.timeStatus == base.reg Reg.timeStatus)) = true := by decide +kernel
/-- Generation 255 is followed by 0 (R76). -/
theorem test_generation_wraps : after (.createContext 1 true 0 7 false 16 0) { base with tally := { base.tally with contexts := [(1, { ctx1 with
    phase := .free
    gen := 255 })] } } (fun t => t.out == some ⟨true, leBytes 1 0 ++ leBytes 3 1⟩ && (t.ctx 1).isSome) = true := by decide +kernel
/-- What only happens in some state is turned away where it cannot happen: after reset. -/
theorem test_turned_away : ([.teardownComplete 0x1001, .fabDrainDeclared 0x1001, .deregistrationComplete 0x1001 hall, .graphDeregistrationDone 0, .dispatch 0,
  .descriptorFetch 0, .taskStart 0, .blockStepEnd 0 none, .preemptSave 0, .taskEnd 0 0, .commit 0, .heldEffectRelease 0 0, .queueAppend 0,
  .budgetExpiry 0, .holdLimitExpiry 0, .bandFilled 0 0, .delayFire 0, .slotInstanceCreate 0, .matmul 0, .ispFrame 0x28, .frameEnd 0 0,
  .crateFetchDone 0, .descriptorComplete 0, .writebackAck 0, .ppsOutFall, .gateDecision 0 0, .cairnDue 0, .lbistComplete 0#64 0#64 0 0,
  .attestationReportDone, .updateCommit, .extestExit, .ethLinkDown 0, .ackTimeout 0, .pcieLinkDown, .symbolLaunch 0, .fhWindowOpen 0] : List Instr).all
    (off · State.reset) = true := by decide +kernel
/-- No word spells a command: the table gives no bits; what waits is not changed. -/
theorem test_no_words : (decodeTableWord 16 5 == none && (State.reset.withFetchWord 16 5) == State.reset) = true := by decide +kernel

/-! ## Well-formed commands

One term that breaks each check of `Instr.wf`: an operand at the first value beyond its range. -/

/-- Each is refused by the check. -/
theorem test_ill_formed_1 : ([
  .registerWrite (.core 16 .machine) false 0 (0#64), .registerWrite .bcc false 0x400000 (0#64), .registerWrite .bcc false 1 (0#64),
  .memoryRequest (.core 16 .machine) none false 0 1 [] 0, .memoryRequest .bcc none false (2 ^ 64) 1 [] 0, .memoryRequest .bcc none false 0 65 [] 0,
  .memoryRequest .bcc none false 0 1 [] 3, .memoryRequest .bcc none false 0 0 [] 0, .memoryRequest .bcc none true 0 1 [] 0, .patrolScrub 8 [] [],
  .driftTracking 8 0, .driftTracking 0 2, .refresh 8 0 false, .refresh 0 2 false, .training 4, .mmuInval (.core 16 .machine) 0 false,
  .mmuInval .bcc (2 ^ 20) false, .createContext 4096 false 0 0 false 0 0, .createContext 0 false (2 ^ 40) 0 false 0 0,
  .createContext 0 false 0 8 false 0 0, .createContext 0 false 0 0 false 0 4096, .teardownContext (2 ^ 20) 0, .teardownContext 0 (2 ^ 40),
  .teardownComplete (2 ^ 20), .fabDrainDeclared (2 ^ 20), .lateResponseDiscard (2 ^ 20), .registerBuffer (2 ^ 20) 0 0, .registerBuffer 0 (2 ^ 64) 0,
  .registerBuffer 0 0 (2 ^ 64), .deregisterBuffer (2 ^ 20) 0, .deregisterBuffer 0 (2 ^ 64), .deregistrationComplete (2 ^ 20) 0,
  .deregistrationComplete 0 (2 ^ 64), .portAckRead 18, .enqueue 18 0 0, .enqueue 0 (2 ^ 20) 0, .enqueue 0 0 16, .taskSubmission 18 0,
  .taskSubmission 0 (2 ^ 20), .ledgerAcceptance 18 0 0, .ledgerAcceptance 0 (2 ^ 20) 0, .ledgerAcceptance 0 0 16, .dequeue 18 0, .dequeue 0 (2 ^ 20),
  .createQueue 18, .destroyQueue 18 0, .destroyQueue 0 (2 ^ 20), .grant 18 0] : List Instr).all (!·.wf) = true := by decide +kernel
theorem test_ill_formed_2 : ([
  .grant 0 (2 ^ 20), .revoke 18 0, .revoke 0 (2 ^ 20), .registerGraph 18, .deregisterGraph 18, .tokenArrival (2 ^ 20) 1 false,
  .tokenArrival 0 0 false, .tokenArrival 0 4096 false, .dispatch 540, .descriptorFetch 540, .taskStart 540, .blockStepEnd 540 none,
  .abftRecomputeDone 540 false, .preemptSave 540, .taskEnd 540 0, .taskEnd 0 (2 ^ 64), .heldEffectRelease 4096 0, .heldEffectRelease 0 (2 ^ 32),
  .budgetExpiry 540, .midstreamFault 0 3, .faultResume (.core 16 .machine) 0 0, .faultResume .bcc 0 (2 ^ 20),
  .faultResumeAbandon (.core 16 .machine) 0 0, .faultResumeAbandon .bcc 0 (2 ^ 20), .bandFilled 0 256, .bandReleased 0 256, .copy 540, .fill 540,
  .gather 540, .scatter 540, .matmul 540, .conv2d 540, .dwconv2d 540, .tconv2d 540, .eltwise 540, .unary 540, .quantize 540, .dequantize 540,
  .cmatmul 540, .reduce 540, .softmax 540, .layernorm 540, .rmsnorm 540, .argmax 540, .topk 540, .attention 540, .routeGather 540, .routeCombine 540] : List Instr).all (!·.wf) = true := by decide +kernel
theorem test_ill_formed_3 : ([
  .ispFrame 540, .pyrBuild 540, .pyrLaplace 540, .warpMesh 540, .warpHomog 540, .flow 540, .stereo 540, .featDetect 540, .featMatch 540, .dfeDdc 540,
  .dfeDuc 540, .fft 540, .ifft 540, .prachDetect 540, .ldpcDecode 540, .ldpcEncode 540, .polarEncode 540, .polarDecode 540, .fhTx 540, .fhRx 540,
  .crc32c 540, .compare 540, .cairnCheck 540, .sendShard 540, .recvShard 540, .allReduce 540, .allGather 540, .packetReceive 8 0 2 [] 0 false,
  .packetReceive 0 16 2 [] 0 false, .packetReceive 0 0 64 [] 0 false, .packetReceive 0 0 2 [] 3 false, .packetReceive 0 0 1 [] 0 false,
  .deskew 8 false, .csiLinkLoss 8, .frameStart 32 0, .frameStart 0 65536, .frameEnd 32 0, .frameEnd 0 65536, .frameTimeout 32,
  .camArm (.core 16 .machine) 0, .camArm .bcc 32, .camDisarm (.core 16 .machine) 0, .camDisarm .bcc 32, .exposureRequest (.core 16 .machine) 0 0,
  .exposureRequest .bcc 32 0, .exposureRequest .bcc 0 (2 ^ 48), .busListStart (.core 16 .machine) 0 0, .busListStart .bcc 8 0] : List Instr).all (!·.wf) = true := by decide +kernel
theorem test_ill_formed_4 : ([
  .busListStart .bcc 0 (2 ^ 48), .busTransferComplete 8 [], .busTransferFail 8, .hallFlagAdv (.core 16 .machine) 0, .hallFlagAdv .bcc 4096,
  .hallFlagThrWrite (.core 16 .machine) 0 0, .hallFlagThrWrite .bcc 4096 0, .hallFlagThrWrite .bcc 0 (2 ^ 32),
  .hallRecordActivate (.core 16 .machine) 0 0 0, .hallRecordActivate .bcc 256 0 0, .hallRecordActivate .bcc 0 (2 ^ 48) 0,
  .hallRecordActivate .bcc 0 0 256, .dmaStart (.core 16 .machine) 0, .dmaStart .bcc 64, .dmaArm (.core 16 .machine) 0, .dmaArm .bcc 64,
  .dmaDisarm (.core 16 .machine) 0, .dmaDisarm .bcc 64, .dmaStop (.core 16 .machine) 0, .dmaStop .bcc 64, .dmaAbort (.core 16 .machine) 0,
  .dmaAbort .bcc 64, .crateFetchDone 64, .descriptorComplete 64, .writebackAck 64, .dmaTransferError 64, .fetchTimeout 64, .descriptorTimeout 64,
  .dmaDrainComplete 64, .streamShareWrite (.core 16 .machine) 0 (0#64), .streamShareWrite .bcc 4 (0#64), .fenceDrainEnd (2 ^ 34),
  .fenceDrainDeclaration (2 ^ 34), .rung1Reset 540 0, .rung1Reset 0 (2 ^ 20), .rung2Reset 540, .rung3Reset 7, .chipReset 256, .powerCycleRequest 4,
  .powerCycleRequest 0, .rungLimitExpiry (2 ^ 34), .resetComplete (2 ^ 34), .engineHangWatchdog 540, .wdtKick (.core 16 .machine), .heartbeatLoss 4,
  .heartbeatLoss 0, .returnToService (.core 16 .machine) 0, .returnToService .bcc (2 ^ 40)] : List Instr).all (!·.wf) = true := by decide +kernel
theorem test_ill_formed_5 : ([
  .startService (.core 16 .machine), .timeStep (.core 16 .machine) (0#64), .gateDecision 32 0, .gateDeadline 32 0, .checkerCompare 32 0 0,
  .checkerCompare 0 0 (2 ^ 32), .safeClear (.core 16 .machine) 0, .safeClear .bcc 32, .safeEnter (.core 16 .machine) 0, .safeEnter .bcc 32,
  .pipelineEnable (.core 16 .machine) 0, .pipelineEnable .bcc 32, .sealEnable (.core 16 .machine) 0 0, .sealEnable .bcc 256 0,
  .sealEnable .bcc 0 (2 ^ 48), .belayEnable (.core 16 .machine) 0, .belayEnable .bcc 256, .belayArm (.core 16 .machine) 0, .belayArm .bcc 256,
  .belayDisarm (.core 16 .machine) 0, .belayDisarm .bcc 256, .belayWindowDecision 256, .cairnEnable (.core 16 .machine) 0, .cairnEnable .bcc 16,
  .cairnDue 16, .cairnWindowExpiry 16, .bistStart (.core 16 .machine) 0, .bistStart .bcc 16, .bistAbort (.core 16 .machine),
  .lbistComplete (0#64) (0#64) 3 0, .bistBypassWrite (.core 16 .machine) 0, .bistBypassWrite .bcc (2 ^ 64), .railInvalid 10, .railValid 10,
  .warmStandbyEntry 540, .coldEntry 540, .pllStop 41, .wakeComplete 540, .domainSwitch (.core 16 .machine) 0 false, .domainSwitch .bcc 85 false,
  .pllUnlock 41, .pllRelockTimeout 41, .monitorSample 4 0 0, .monitorSample 0 128 0, .monitorSample 0 0 (2 ^ 32), .droopDetect 7, .boot 64 0 [] 0,
  .boot 0 (2 ^ 11) [] 0] : List Instr).all (!·.wf) = true := by decide +kernel
theorem test_ill_formed_6 : ([
  .boot 0 0 [] (2 ^ 38), .boot 0 0 [] 1, .measurementExtend (.core 16 .machine) 0 0, .measurementExtend .bcc 8 0, .measurementExtend .bcc 0 (2 ^ 40),
  .attestationRequest (.core 16 .machine) 0, .attestationRequest .bcc (2 ^ 40), .firmwareUpdate (.core 16 .machine) 0, .firmwareUpdate .bcc (2 ^ 40),
  .svnCommitBcc (.core 16 .machine), .svnCommitApp (.core 16 .machine), .extest 16, .ethFrameReceive 8 (zeros 14), .ethFrameReceive 0 (zeros 13),
  .ethFrameTransmit 8, .rxBufferReturn (.core 16 .machine) 0 0, .rxBufferReturn .bcc 8 0, .ethLinkUp 8, .ethLinkDown 8, .lldpSend 8,
  .lldpTtlExpiry 8, .rdmaWriteReceive 4096 0 0 0 0 0 [] false, .rdmaWriteReceive 0 (2 ^ 24) 0 0 0 0 [] false, .rdmaWriteReceive 0 0 4 0 0 0 [] false,
  .rdmaWriteReceive 0 0 0 (2 ^ 32) 0 0 [] false, .rdmaWriteReceive 0 0 0 0 (2 ^ 64) 0 [] false, .rdmaWriteReceive 0 0 0 0 0 (2 ^ 32) [] false,
  .rdmaReadReceive 4096 0 0 0 0, .rdmaReadReceive 0 (2 ^ 24) 0 0 0, .rdmaReadReceive 0 0 (2 ^ 32) 0 0, .rdmaReadReceive 0 0 0 (2 ^ 64) 0,
  .rdmaReadReceive 0 0 0 0 (2 ^ 32), .roceSendReceive 4096 0 0 [] false, .roceSendReceive 0 (2 ^ 24) 0 [] false, .roceSendReceive 0 0 4 [] false,
  .roceAckReceive 4096 0 0, .roceAckReceive 0 (2 ^ 24) 0, .roceAckReceive 0 0 4, .cnpReceive 4096, .ackTimeout 4096, .rateWindowEnd 4096,
  .resetNotice 16 0, .resetNotice 0 65536, .jobAbort (.core 16 .machine) 0 0, .jobAbort .bcc 16 0, .jobResume (.core 16 .machine) 0,
  .jobResume .bcc 16, .pcieLinkUp 6 1] : List Instr).all (!·.wf) = true := by decide +kernel
theorem test_ill_formed_7 : ([
  .pcieLinkUp 1 9, .pcieLinkUp 0 1, .pcieLinkUp 1 3, .msiReceive (2 ^ 64) 0, .msiReceive 0 (2 ^ 32), .jesdLinkError 8 false, .symbolBoundary 12 [],
  .symbolLaunch 12, .fhWindowOpen 16, .fhWindowClose 16, .pllRelocked 41, .droopStretchEnd 7, .ledgerCopyRewritten (2 ^ 20),
  .rdmaReadResponse 4096 0 [], .rdmaReadResponse 0 (2 ^ 24) []] : List Instr).all (!·.wf) = true := by decide +kernel
/-- Every command with its smallest operands is well formed. -/
theorem test_well_formed_1 : ([
  .registerWrite .bcc false 0 (0#64), .memoryRequest .bcc none false 0 1 [] 0, .patrolScrub 0 [] [], .driftTracking 0 0, .refresh 0 0 false,
  .training 0, .mmuInval .bcc 0 false, .mmuInvalDone, .createContext 0 false 0 0 false 0 0, .teardownContext 0 0, .teardownComplete 0,
  .fabDrainDeclared 0, .lateResponseDiscard 0, .registerBuffer 0 0 0, .deregisterBuffer 0 0, .deregistrationComplete 0 0, .portAckRead 0,
  .enqueue 0 0 0, .taskSubmission 0 0, .ledgerAcceptance 0 0 0, .dequeue 0 0, .createQueue 0, .destroyQueue 0 0, .grant 0 0, .revoke 0 0,
  .registerGraph 0, .deregisterGraph 0, .graphDeregistrationDone 0, .tokenArrival 0 1 false, .dispatch 0, .descriptorFetch 0, .taskStart 0,
  .blockStepEnd 0 none, .abftRecomputeDone 0 false, .preemptSave 0, .taskEnd 0 0, .commit 0, .heldEffectRelease 0 0, .queueAppend 0, .budgetExpiry 0,
  .midstreamFault 0 0, .faultResume .bcc 0 0, .faultResumeAbandon .bcc 0 0, .holdLimitExpiry 0, .progressWatchdog [], .bandFilled 0 0,
  .bandReleased 0 0, .delayFire 0] : List Instr).all (·.wf) = true := by decide +kernel
theorem test_well_formed_2 : ([
  .slotInstanceCreate 0, .nop 0, .delay 0, .instantiate 0, .post 0, .copy 0, .fill 0, .gather 0, .scatter 0, .matmul 0, .conv2d 0, .dwconv2d 0,
  .tconv2d 0, .eltwise 0, .unary 0, .quantize 0, .dequantize 0, .cmatmul 0, .reduce 0, .softmax 0, .layernorm 0, .rmsnorm 0, .argmax 0, .topk 0,
  .attention 0, .routeGather 0, .routeCombine 0, .ispFrame 0, .pyrBuild 0, .pyrLaplace 0, .warpMesh 0, .warpHomog 0, .flow 0, .stereo 0,
  .featDetect 0, .featMatch 0, .dfeDdc 0, .dfeDuc 0, .fft 0, .ifft 0, .prachDetect 0, .ldpcDecode 0, .ldpcEncode 0, .polarEncode 0, .polarDecode 0,
  .fhTx 0, .fhRx 0, .crc32c 0] : List Instr).all (·.wf) = true := by decide +kernel
theorem test_well_formed_3 : ([
  .compare 0, .cairnCheck 0, .sendShard 0, .recvShard 0, .allReduce 0, .allGather 0, .packetReceive 0 0 2 [] 0 false, .deskew 0 false,
  .csiLinkLoss 0, .frameStart 0 0, .frameEnd 0 0, .frameTimeout 0, .camArm .bcc 0, .camDisarm .bcc 0, .exposureRequest .bcc 0 0,
  .busListStart .bcc 0 0, .busTransferComplete 0 [], .busTransferFail 0, .ispCtlApply, .hallFlagAdv .bcc 0, .hallFlagThrWrite .bcc 0 0,
  .hallRecordActivate .bcc 0 0 0, .dmaStart .bcc 0, .dmaArm .bcc 0, .dmaDisarm .bcc 0, .dmaStop .bcc 0, .dmaAbort .bcc 0, .crateFetchDone 0,
  .descriptorComplete 0, .writebackAck 0, .dmaTransferError 0, .fetchTimeout 0, .descriptorTimeout 0, .dmaDrainComplete 0,
  .streamShareWrite .bcc 0 (0#64), .fenceDrainEnd 0, .fenceDrainDeclaration 0, .rung1Reset 0 0, .rung2Reset 0, .rung3Reset 0, .chipReset 0,
  .powerCycleRequest 1, .rungLimitExpiry 0, .resetComplete 0, .replayChip, .engineHangWatchdog 0, .wdtKick .bcc, .bccWatchdogExpiry] : List Instr).all (·.wf) = true := by decide +kernel
theorem test_well_formed_4 : ([
  .heartbeatLoss 1, .resetIn, .resetInRelease, .smbusBlockReadA0, .returnToService .bcc 0, .startService .bcc, .timeStep .bcc (0#64), .ppsInEdge,
  .ppsOutRise, .ppsOutFall, .timeLocked 0, .holdover 0, .gateDecision 0 0, .gateDeadline 0 0, .checkerCompare 0 0 0, .safeClear .bcc 0,
  .safeEnter .bcc 0, .pipelineEnable .bcc 0, .sealEnable .bcc 0 0, .belayEnable .bcc 0, .belayArm .bcc 0, .belayDisarm .bcc 0,
  .belayWindowDecision 0, .cairnEnable .bcc 0, .cairnDue 0, .cairnWindowExpiry 0, .bistStart .bcc 0, .bistAbort .bcc, .bistDrainLimit,
  .lbistComplete (0#64) (0#64) 0 0, .mbistComplete [], .rotationDue, .bistRetry, .bistBypassWrite .bcc 0, .railInvalid 0, .railValid 0, .powerOn,
  .bccResetRelease, .refAoLoss, .warmStandbyEntry 0, .coldEntry 0, .pllStop 0, .wakeComplete 0, .domainSwitch .bcc 0 false, .pllUnlock 0,
  .pllRelockTimeout 0, .powerEvaluation 0, .monitorSample 0 0 0] : List Instr).all (·.wf) = true := by decide +kernel
theorem test_well_formed_5 : ([
  .droopDetect 0, .boot 0 0 [] 0, .measurementExtend .bcc 0 0, .attestationRequest .bcc 0, .attestationReportDone, .firmwareUpdate .bcc 0,
  .updateWriteDone false, .quiescentTick, .updateWaitTimeout, .updateCommit, .updateRevert, .svnCommitBcc .bcc, .svnCommitApp .bcc, .idcode,
  .tapBypass, .debugChallenge, .debugResponse [], .extest 0, .extestExit, .ethFrameReceive 0 (zeros 14), .ethFrameTransmit 0,
  .rxBufferReturn .bcc 0 0, .ethLinkUp 0, .ethLinkDown 0, .lldpSend 0, .lldpTtlExpiry 0, .rdmaWriteReceive 0 0 0 0 0 0 [] false,
  .rdmaReadReceive 0 0 0 0 0, .roceSendReceive 0 0 0 [] false, .roceAckReceive 0 0 0, .cnpReceive 0, .ackTimeout 0, .rateWindowEnd 0,
  .resetNotice 0 0, .transferDiscard 0, .jobAbort .bcc 0 0, .jobResume .bcc 0, .pcieLinkUp 1 1, .pcieLinkDown, .msiReceive 0 0, .sysrefEdge,
  .jesdLinkError 0 false, .symbolBoundary 0 [], .symbolLaunch 0, .fhWindowOpen 0, .fhWindowClose 0, .pllRelocked 0, .servoStart] : List Instr).all (·.wf) = true := by decide +kernel
theorem test_well_formed_6 : ([
  .droopStretchEnd 0, .updateVerificationDone, .ledgerCopyRewritten 0, .rdmaReadResponse 0 0 []] : List Instr).all (·.wf) = true := by decide +kernel

end Sys2Proof.Tests
end

section
/-! PROOFS. Reads of elements (R178): where a read is out of bounds, and what every read of an element found outside memory has in
common. -/

namespace Sys2Proof.Machine

open Sys2Proof

/-- An index as naturals, whether or not it lies inside the logical shape. -/
def natIndex (i : List Int) : List Nat := (List.range 6).map fun k => (i.getD k 0).toNat

/-- The first case of R178: some coordinate lies outside the extents. -/
def Ten.OutsideShape (t : Ten) (i : List Int) : Prop := ∃ k < 6, i.getD k 0 < 0 ∨ (t.ext k : Int) ≤ i.getD k 0

/-- Bytes `[a, a + n)` are not all in the registered buffer `b`; with no buffer, none is. -/
def OutsideBuffer (b : Option (Nat × Nat)) (a n : Nat) : Prop := ∀ lo hi, b = some (lo, hi) → a < lo ∨ hi < a + n

/-- The third case of R178, of the storage of an element and of its scale byte. -/
def Ten.OutsideBuffers (t : Ten) (n : List Nat) : Prop :=
  OutsideBuffer t.buf (t.address n).1 (t.span (t.address n).2) ∨ t.hasScale = true ∧ OutsideBuffer t.sbuf (t.scaleAddr n) 1

/-- A read that R178 answers with the fill value. -/
def Ten.OutOfBounds (t : Ten) (i : List Int) : Prop :=
  t.OutsideShape i ∨ t.local (natIndex i) = false ∨ t.OutsideBuffers (natIndex i)

/-! ## The tests of a read -/

theorem Ten.inside_eq_none {t : Ten} {i : List Int} (h : t.OutsideShape i) : t.inside i = none := by
  obtain ⟨k, hk, hi⟩ := h
  refine if_neg fun hall => ?_
  have hin := List.all_eq_true.mp hall k (List.mem_range.mpr hk)
  simp only [Bool.and_eq_true, decide_eq_true_eq] at hin
  omega

theorem Ten.inside_eq_some {t : Ten} {i : List Int} (h : ¬ t.OutsideShape i) : t.inside i = some (natIndex i) := by
  refine if_pos (List.all_eq_true.mpr fun k hk => ?_)
  have hin : ¬ (i.getD k 0 < 0 ∨ (t.ext k : Int) ≤ i.getD k 0) := fun hi => h ⟨k, List.mem_range.mp hk, hi⟩
  simp only [Bool.and_eq_true, decide_eq_true_eq]
  omega

theorem inRange_eq_false_iff (b : Option (Nat × Nat)) (a n : Nat) : inRange b a n = false ↔ OutsideBuffer b a n := by
  rcases b with _ | ⟨lo, hi⟩
  · simp [inRange, OutsideBuffer]
  · simp [inRange, OutsideBuffer]
    omega

/-- The test of the registered buffers that `Ten.spot` makes is the third case of R178. -/
theorem Ten.bufferTest_iff (t : Ten) (n : List Nat) :
    (!inRange t.buf (t.address n).1 (t.span (t.address n).2) || (t.hasScale && !inRange t.sbuf (t.scaleAddr n) 1)) = true ↔
      t.OutsideBuffers n := by
  simp [Ten.OutsideBuffers, inRange_eq_false_iff]

/-! ## Where a read finds its element -/

/-- A read out of bounds is filled: quietly or not, by the descriptor's `quiet_pad` (R180). -/
theorem Ten.spot_of_outOfBounds {t : Ten} {i : List Int} (h : t.OutOfBounds i) : ∃ quiet, t.spot i = .fill quiet := by
  by_cases hshape : t.OutsideShape i
  · exact ⟨tdQuiet t.td, by simp [Ten.spot, Ten.inside_eq_none hshape]⟩
  · refine ⟨false, ?_⟩
    obtain hlocal | hbuf := h.resolve_left hshape
    · simp [Ten.spot, Ten.inside_eq_some hshape, hlocal]
    · simp [Ten.spot, Ten.inside_eq_some hshape, (t.bufferTest_iff _).mpr hbuf]

/-- A read in bounds of an operand that is no ring input finds its element at its address. -/
theorem Ten.spot_of_inBounds {t : Ten} {i : List Int} (h : ¬ t.OutOfBounds i) (hring : t.ringInput = false) :
    t.spot i = .mem (t.address (natIndex i)).1 (t.address (natIndex i)).2 := by
  obtain ⟨hshape, hlocal, hbuf⟩ : ¬ t.OutsideShape i ∧ ¬ t.local (natIndex i) = false ∧ ¬ t.OutsideBuffers (natIndex i) := by
    simpa only [Ten.OutOfBounds, not_or] using h
  simp [Ten.spot, Ten.inside_eq_some hshape, hlocal, mt (t.bufferTest_iff _).mp hbuf, hring]

/-! ## What a read gives -/

section
variable {t : Ten} {i : List Int} {quiet : Bool}

theorem Ten.code_of_fill (h : t.spot i = .fill quiet) (s : State) (handle : Nat) : t.code s handle i = t.fill := by
  simp [Ten.code, h]

theorem Ten.code_of_mem {a bit : Nat} (h : t.spot i = .mem a bit) (s : State) (handle : Nat) :
    t.code s handle i = bitsOf (leNat ((s.peek handle a (t.span bit)).getD [])) bit t.width := by
  simp [Ten.code, h, bitsAt]

theorem Ten.filled_of_fill (h : t.spot i = .fill quiet) : t.filled i = true := by
  simp [Ten.filled, h]

theorem Ten.scaleByte_of_fill (h : t.spot i = .fill quiet) (s : State) (handle : Nat) : t.scaleByte s handle i = none := by
  simp [Ten.scaleByte, Ten.filled_of_fill h]

/-- A plan that reads one filled element touches no unit of memory: neither for its storage nor for its scale byte. -/
theorem readUnits_of_fill (h : t.spot i = .fill quiet) : readUnits [t] ⟨[(t.slot, i)], [], []⟩ = [] := by
  simp [readUnits, tenAt, h, Ten.filled_of_fill h]

end

/-- Settles O36: each case of R178 makes the element's spot a fill, and a fill determines the code, the scale byte and the units read;
in bounds, the spot is the element's address. -/
theorem readsOutOfBoundsGiveTheFillValue : Obligations.ReadsOutOfBoundsGiveTheFillValue := by
  intro t i n a bit outside
  have houtside : outside ↔ t.OutOfBounds i := by
    simp only [outside, n, a, bit, Ten.OutOfBounds, Ten.OutsideShape, Ten.OutsideBuffers, OutsideBuffer, natIndex, Nat.lt_succ_iff]
  rw [houtside]
  constructor
  · intro hout
    obtain ⟨quiet, hfill⟩ := Ten.spot_of_outOfBounds hout
    exact ⟨Ten.code_of_fill hfill, Ten.scaleByte_of_fill hfill, readUnits_of_fill hfill⟩
  · intro hin hring
    have hmem : t.spot i = .mem a bit := Ten.spot_of_inBounds hin hring
    exact ⟨hmem, Ten.code_of_mem hmem⟩

end Sys2Proof.Machine
end

section
/-! PROOFS. Products on the integer path (R204, R205, R207): the sum in the fixed order of R65 is the plain sum wherever addition is
associative, so an integer dot product is exact, and the store saturates it once. -/

namespace Sys2Proof.Machine

open Sys2Proof

/-! ## The sum in the fixed order -/

section
variable {α β : Type} {f : α → β} {add : α → α → α} {add' : β → β → β} (hf : ∀ x y, add' (f x) (f y) = f (add x y))
include hf

theorem pairUp_map (xs : List α) : pairUp add' (xs.map f) = (pairUp add xs).map f := by
  induction xs using pairUp.induct with
  | case1 x y xs ih => simp [pairUp, hf, ih]
  | case2 xs hshort =>
    match xs with
    | [] => rfl
    | [x] => rfl
    | x :: y :: xs => exact absurd rfl (hshort x y xs)

theorem blockSum_map (xs : List α) : blockSum add' (xs.map f) = (blockSum add xs).map f := by
  simp only [blockSum, pairUp_map hf]

omit hf in
theorem blocks64_map (n : Nat) (xs : List α) : blocks64 n (xs.map f) = (blocks64 n xs).map (List.map f) := by
  induction n generalizing xs with
  | zero => rfl
  | succ n ih => cases xs <;> simp [blocks64, ← ih]

theorem foldl_map_add (x : α) (xs : List α) : (xs.map f).foldl add' (f x) = f (xs.foldl add x) := by
  induction xs generalizing x with
  | nil => rfl
  | cons y ys ih => simp [hf, ih]

/-- The order of a sum does not depend on what its terms are: it commutes with every map that respects addition. -/
theorem orderedSum_map (xs : List α) : orderedSum add' (xs.map f) = (orderedSum add xs).map f := by
  have hblocks : (blocks64 ((xs.map f).length / 64 + 1) (xs.map f)).flatMap (blockSum add') =
      ((blocks64 (xs.length / 64 + 1) xs).flatMap (blockSum add)).map f := by
    simp only [List.length_map, blocks64_map, List.flatMap_map, List.map_flatMap, blockSum_map hf]
  unfold orderedSum
  rw [hblocks]
  cases (blocks64 (xs.length / 64 + 1) xs).flatMap (blockSum add) with
  | nil => rfl
  | cons y ys => exact congrArg some (foldl_map_add hf y ys)

end

section
variable {α : Type} [AddMonoid α]

@[simp] theorem sum_pairUp (xs : List α) : (pairUp (· + ·) xs).sum = xs.sum := by
  induction xs using pairUp.induct with
  | case1 x y xs ih => simp [pairUp, ih, add_assoc]
  | case2 xs hshort =>
    rw [pairUp]
    exact hshort

@[simp] theorem sum_blockSum (xs : List α) : (blockSum (· + ·) xs).sum = xs.sum := by
  simp only [blockSum, sum_pairUp]

omit [AddMonoid α] in
theorem flatten_blocks64 {n : Nat} {xs : List α} (hfuel : xs.length ≤ 64 * n) : (blocks64 n xs).flatten = xs := by
  induction n generalizing xs with
  | zero => simp_all [blocks64]
  | succ n ih =>
    cases xs with
    | nil => rfl
    | cons x xs =>
      have hrest : ((x :: xs).drop 64).length ≤ 64 * n := by
        rw [List.length_drop]
        omega
      rw [blocks64, if_neg (by simp), List.flatten_cons, ih hrest, List.take_append_drop]

theorem sum_flatMap_blockSum (bs : List (List α)) : (bs.flatMap (blockSum (· + ·))).sum = bs.flatten.sum := by
  induction bs with
  | nil => rfl
  | cons b bs ih => simp [ih]

/-- The sum in the order of R65 is the plain sum, where addition is associative. -/
theorem getD_orderedSum (xs : List α) : (orderedSum (· + ·) xs).getD 0 = xs.sum := by
  have hsum : ((blocks64 (xs.length / 64 + 1) xs).flatMap (blockSum (· + ·))).sum = xs.sum := by
    rw [sum_flatMap_blockSum, flatten_blocks64 (by omega)]
  rw [← hsum]
  unfold orderedSum
  cases (blocks64 (xs.length / 64 + 1) xs).flatMap (blockSum (· + ·)) with
  | nil => rfl
  | cons y ys => simp [List.sum_eq_foldl]

end

/-! ## Elements that are exact integers -/

/-- A real element that is an exact integer. -/
def intElt (n : Int) : Elt := realElt (.int n)

theorem mulElt_int (x y : Elt) : mulElt .int x y = intElt (x.int * y.int) := rfl

theorem addElt_intElt (m n : Int) : addElt (intElt m) (intElt n) = intElt (m + n) := rfl

/-- Code 0 of R209 is the identity, exact on integers. -/
theorem eltFunction_zero_intElt (alpha beta : Fp) (n : Int) : eltFunction 0 alpha beta (intElt n) = intElt n := rfl

/-- A sum of exact integers is exact. -/
theorem orderedSum_intElt (ns : List Int) : (orderedSum addElt (ns.map intElt)).getD Path.int.zero = intElt ns.sum := by
  rw [orderedSum_map addElt_intElt, ← getD_orderedSum]
  exact Option.getD_map intElt 0 _

/-! ## The store of an integer (R207) -/

theorem saturate_eq {r : Int × Int} (hr : r.1 ≤ r.2) (n : Int) :
    saturate r n = (max r.1 (min r.2 n), decide (n < r.1 ∨ r.2 < n)) := by
  unfold saturate
  split_ifs with hlow hhigh
  · simp [hlow, min_eq_right (by omega : n ≤ r.2), le_of_lt hlow]
  · simp [hhigh, min_eq_left (le_of_lt hhigh), hr]
  · simp [hlow, hhigh, min_eq_right (not_lt.mp hhigh), not_lt.mp hlow]

theorem intRange_le (dt : Nat) : (intRange dt).1 ≤ (intRange dt).2 := by
  unfold intRange
  split_ifs <;> decide

/-- An exact integer written to an output of a real integer type: saturated once, and counted exactly if it lay outside the type. -/
theorem outE_intElt {o : Ten} (hreal : isCplx o.dt = false) (hint : isFp o.dt = false) (hcfp : o.dt ≠ 0x12) (i : List Nat) (n : Int) :
    outE o i (intElt n) =
      ⟨o.slot, i, unsigned ((dtWidth o.dt).getD 8) (max (intRange o.dt).1 (min (intRange o.dt).2 n)),
        decide (n < (intRange o.dt).1 ∨ (intRange o.dt).2 < n), none⟩ := by
  simp [outE, storeElt, storeComp, intElt, realElt, hreal, hint, hcfp, saturate_eq (intRange_le o.dt)]

/-! ## Dot products on the integer path -/

theorem slot_of_tenAt {ts : List Ten} {n : Nat} {t : Ten} (h : tenAt ts n = some t) : t.slot = n := by
  simpa using List.find?_some h

/-- The products of a dot product's terms, as integers. -/
def Dot.products (d : Dot) (s : State) (h : Nat) (a b : Ten) : List Int :=
  d.terms.map fun t => (a.load s h t.1).int * (b.load s h t.2).int

/-- The bias of a dot product, as an integer; 0 where it has none. -/
def Dot.biasInt (d : Dot) (s : State) (h : Nat) (bias : Option Ten) : Int :=
  match d.bias, bias with
  | some i, some x => (x.load s h i).int
  | _, _ => 0

/-- The exact value of a dot product: its products and its bias. -/
def Dot.exact (d : Dot) (s : State) (h : Nat) (a b : Ten) (bias : Option Ten) : Int :=
  (d.products s h a b).sum + d.biasInt s h bias

/-- The dot product of MATMUL at an index of its output: the sum over k of a[k, m] times b[k, n], and the bias at n (R205). -/
def matmulDot (a b : Ten) (bias : Option Ten) (i : List Nat) : Dot :=
  ⟨i, (List.range (a.ext 0)).map fun k => (bcast a (k :: i.getD 1 0 :: i.drop 2), bcast b (k :: i.getD 0 0 :: i.drop 2)),
    bias.map fun x => bcast x (i.getD 0 0 :: 0 :: i.drop 2)⟩

/-- The products of a dot product on the integer path, in the order of R65, sum exactly. -/
theorem Dot.orderedSum_products (d : Dot) (s : State) (h : Nat) (a b : Ten) :
    (orderedSum addElt (d.terms.map fun t => mulElt .int (a.load s h t.1) (b.load s h t.2))).getD Path.int.zero =
      intElt (d.products s h a b).sum := by
  simp only [mulElt_int, Dot.products, ← orderedSum_intElt, List.map_map, Function.comp_def]

section
variable {s : State} {h : Nat} {ts : List Ten} {a b o : Ten} (ha : tenAt ts 0 = some a) (hb : tenAt ts 1 = some b)
  (ho : tenAt ts 8 = some o)
include ha hb ho

/-- On the integer path, with the identity as activation and a bias that loads as integers, a plan of dot products writes their exact
values. -/
theorem dotPlan_writes_of_int (alpha beta : Fp) (dots : List Dot) (hpath : pathOf a b = some .int)
    (hbias : ∀ x, tenAt ts 2 = some x → ∀ i, ∃ v, x.load s h i = intElt v) :
    (dotPlan h 0 alpha beta dots s ts).writes = dots.map fun d => outE o d.out (intElt (d.exact s h a b (tenAt ts 2))) := by
  simp only [dotPlan, ha, hb, ho, hpath, Option.getD_some, Dot.orderedSum_products]
  refine List.map_congr_left fun d _ => congrArg (outE o d.out) ?_
  refine (congrArg (eltFunction 0 alpha beta) ?_).trans (eltFunction_zero_intElt alpha beta _)
  cases hd : d.bias with
  | none => simp [Dot.exact, Dot.biasInt, hd]
  | some i =>
    cases hx : tenAt ts 2 with
    | none => simp [Dot.exact, Dot.biasInt, hd]
    | some x =>
      obtain ⟨v, hv⟩ := hbias x hx i
      simp only [Dot.exact, Dot.biasInt, hd, hv]
      exact addElt_intElt _ v

theorem matmulDots_eq : matmulDots ts = o.indices.map (matmulDot a b (tenAt ts 2)) := by
  simp only [matmulDots, ha, hb, ho]
  rfl

end

/-- Settles O37: an integer dot product is its exact value, since the sum of R65 is the plain sum where addition is associative, and the
store saturates it once. -/
theorem integerProductsAreExactAndSaturateOnce : Obligations.IntegerProductsAreExactAndSaturateOnce := by
  intro s h alpha beta ts a b o ha hb ho hpath hreal hint hcfp hbias sum lo hi
  have hsum (i : List Nat) : (matmulDot a b (tenAt ts 2) i).exact s h a b (tenAt ts 2) = sum i := by
    cases hx : tenAt ts 2 <;> simp [sum, hx, Dot.exact, Dot.products, Dot.biasInt, matmulDot, Function.comp_def]
  have hslot : o.slot = 8 := slot_of_tenAt ho
  rw [dotPlan_writes_of_int ha hb ho alpha beta _ hpath hbias, matmulDots_eq ha hb ho, List.map_map]
  refine List.map_congr_left fun i _ => ?_
  calc
    outE o i (intElt ((matmulDot a b (tenAt ts 2) i).exact s h a b (tenAt ts 2))) = outE o i (intElt (sum i)) := by rw [hsum]
    _ = ⟨8, i, unsigned ((dtWidth o.dt).getD 8) (max lo (min hi (sum i))), decide (sum i < lo ∨ hi < sum i), none⟩ := by
      rw [outE_intElt hreal hint hcfp, hslot]

end Sys2Proof.Machine
end

section
/-! PROOFS. The count of descriptors of a DMA channel (R267): a start and a commit zero it, and each descriptor the fetcher takes adds one
to it and carries the count before as its hop number. -/

namespace Sys2Proof.Machine

open Sys2Proof

/-- STATUS.hops (R267): the descriptors the chain has taken since its start or commit. -/
def State.chanHops (s : State) (n : Nat) : Nat := s.fld (Reg.dmaChStatus n) Fld.dmaChStatusHops

/-! ## Running one meaning after another -/

/-- A meaning run alone gives the state it leaves, whatever follows it. -/
theorem M.All.gives_run {P : Upd → Prop} {m : M Unit} (hm : M.All P m) (s : State) : m.gives s () (m.run s) := by
  obtain ⟨_, t, -, hk⟩ := hm s
  intro k
  rw [M.run, M.act, hk, hk]
  rfl

theorem M.All.run_seq {P : Upd → Prop} {m : M Unit} (hm : M.All P m) (f : Unit → M Unit) (s : State) :
    M.run (m >>= f) s = M.run (f ()) (m.run s) :=
  hm.gives_run s fun a => f a fun _ => .done

theorem run_modChan_seq (n : Nat) (f : DmaChan → DmaChan) (g : Unit → M Unit) (s : State) :
    M.run (modChan n f >>= g) s = M.run (g ()) (M.run (modChan n f) s) := rfl

theorem run_wrFld_seq (off : Nat) (f : Field) (v : Nat) (g : Unit → M Unit) (s : State) :
    M.run (wrFld off f v >>= g) s = M.run (g ()) (M.run (wrFld off f v) s) := rfl

/-- A write that reaches its register goes on as such. -/
theorem run_reachReg_bind {w : Requester} {part : Nat} {s : State} (hr : reaches s w part) (f : Bool → M Unit) :
    M.run (reachReg w part >>= f) s = M.run (f true) s := by
  have hopen : ¬ (w ≠ .bcc ∧ part < 6 ∧ s.fenced part = true) := by
    rintro ⟨hw, -, hfenced⟩
    rcases hr with hbcc | hfree
    · exact hw hbcc
    · simp [hfree] at hfenced
  rw [reachReg, bind_assoc, run_getS_bind, if_neg hopen]
  rfl

/-- A privileged write of CTL that reaches the channel does what its bit asks for. -/
theorem run_ctlWrite {w : Requester} {n : Nat} {s : State} (hr : reaches s w (partOf (0x40 + n))) (hw : privileged w = true)
    (bit : Nat) (act : M Unit) : M.run (ctlWrite w n bit act) s = M.run act s := by
  rw [ctlWrite, run_reachReg_bind hr, if_pos rfl, if_pos hw]

/-! ## What leaves the count -/

section
variable {n : Nat} {s : State}

theorem chanHops_congr {t : State} (h : t.regs = s.regs) : t.chanHops n = s.chanHops n := fld_congr h _ _

/-- Operations that touch no register leave the count. -/
theorem chanHops_run_of_reach {m : M Unit} (hm : M.All (Upd.In 0x581) m) (s : State) : (m.run s).chanHops n = s.chanHops n :=
  chanHops_congr (Reaches.regs (hm.run_steps s) rfl rfl)

theorem canonical_run (m : M Unit) (hs : s.Canonical) : (m.run s).Canonical :=
  m.keeps (fun u _ h => u.apply_canonical _ h) hs

/-- Storing a field of STATUS that lies below the count leaves the count. -/
theorem chanHops_run_wrFld_below (hs : s.Canonical) {f : Field} (hf : f.lsb + f.width ≤ 32) (v : Nat) :
    (M.run (wrFld (Reg.dmaChStatus n) f v) s).chanHops n = s.chanHops n :=
  fld_apply_apart hs v (.inr hf)

theorem chanHops_run_wrFld_hops (hs : s.Canonical) (v : Nat) :
    (M.run (wrFld (Reg.dmaChStatus n) Fld.dmaChStatusHops v) s).chanHops n = v % 2 ^ 21 :=
  fld_apply_same hs _ _ v (by decide)

theorem chanHops_run_wrFld_other (hs : s.Canonical) {r : Nat} (hr : Reg.dmaChStatus n ≠ r) (f : Field) (v : Nat) :
    (M.run (wrFld r f v) s).chanHops n = s.chanHops n := by
  rw [State.chanHops, State.fld, run_wrFld, reg_apply_other hs _ hr]
  rfl

theorem chanHops_run_enterState (hs : s.Canonical) (st cause : Nat) :
    (M.run (enterState n st cause) s).chanHops n = s.chanHops n := by
  rw [enterState, run_wrFld_seq, chanHops_run_wrFld_below (canonical_run _ hs) (by decide), chanHops_run_wrFld_below hs (by decide)]

theorem chanHops_run_drainFor (hs : s.Canonical) (cause : Nat) : (M.run (drainFor n cause) s).chanHops n = s.chanHops n := by
  rw [drainFor, run_wrFld_seq, chanHops_run_of_reach (modChan_reach rfl _ _), chanHops_run_wrFld_below hs (by decide)]

/-! ## Starts and commits -/

/-- A commit (R270) zeroes the count. -/
theorem chanHops_run_commitShadow (hs : s.Canonical) (kind : Nat) : (M.run (commitShadow n kind) s).chanHops n = 0 := by
  have hrest (m : M Unit) (hm : M.All (Upd.In 0x581) m) (t : State) (ht : t.Canonical) :
      (M.run (do
        wrFld (Reg.dmaChStatus n) Fld.dmaChStatusHops 0
        wrFld (Reg.dmaChStatus n) Fld.dmaChStatusHandover kind
        m) t).chanHops n = 0 := by
    rw [run_wrFld_seq, run_wrFld_seq, chanHops_run_of_reach hm, chanHops_run_wrFld_below (canonical_run _ ht) (by decide),
      chanHops_run_wrFld_hops ht, Nat.zero_mod]
  unfold commitShadow
  rw [run_getS_bind, run_wrFld_seq, setArmed, run_wrFld_seq]
  refine hrest _ ?_ _ (canonical_run _ (canonical_run _ hs))
  refine .bind (modChan_reach rfl _ _) fun _ => ?_
  split
  · exact .bind (chanEvent_reach rfl _ _ _) fun _ => follow_reach rfl _ _
  · exact follow_reach rfl _ _

/-- Taking the next descriptor for execution counts none: no branch leads away from a count of 0, a commit leads back to it. -/
theorem chanHops_run_beginNext_of_zero (hs : s.Canonical) (h0 : s.chanHops n = 0) : (M.run (beginNext n) s).chanHops n = 0 := by
  unfold beginNext
  rw [run_getS_bind]
  dsimp only
  split
  · exact h0
  · split
    next d rest hahead =>
      rw [run_wrFld_seq, chanHops_run_of_reach _ _, chanHops_run_wrFld_other hs (by simp [Reg.dmaChStatus, Reg.dmaChCur]), h0]
      refine .bind (modChan_reach rfl _ _) fun _ => ?_
      split
      · exact .bind (modChan_reach rfl _ _) fun _ => chanEvent_reach rfl _ _ _
      · exact modChan_reach rfl _ _
    next hahead =>
      split
      next reason a hbroken =>
        rw [(@chanEvent_reach 0x581 rfl _ _ _).run_seq, chanHops_run_drainFor (canonical_run _ hs),
          chanHops_run_of_reach (chanEvent_reach rfl _ _ _), h0]
      next hbroken =>
        split_ifs with hloop hended harmed
        · rw [chanHops_run_drainFor hs, h0]
        · rw [(@commitShadow_reach 0x589 rfl _ _).run_seq, chanHops_run_of_reach (issueFetch_reach rfl _),
            chanHops_run_commitShadow hs]
        · rw [run_modChan_seq, chanHops_run_enterState (canonical_run _ hs), chanHops_run_of_reach (modChan_reach rfl _ _), h0]
        · exact h0

/-- A chain begins with a count of 0 (R267). -/
theorem chanHops_run_startChain (hs : s.Canonical) (head : Nat) : (M.run (startChain n head) s).chanHops n = 0 := by
  unfold startChain
  rw [run_modChan_seq, run_wrFld_seq, (@enterState_reach 8 rfl _ _ _).run_seq, (@follow_reach 0x400 rfl _ _).run_seq,
    (@issueFetch_reach 0x400 rfl _).run_seq]
  refine chanHops_run_beginNext_of_zero
    (canonical_run _ <| canonical_run _ <| canonical_run _ <| canonical_run _ <| canonical_run _ hs) ?_
  rw [chanHops_run_of_reach (issueFetch_reach rfl _), chanHops_run_of_reach (follow_reach rfl _ _),
    chanHops_run_enterState (canonical_run _ (canonical_run _ hs)), chanHops_run_wrFld_hops (canonical_run _ hs), Nat.zero_mod]

theorem chanHops_run_dmaStart (hs : s.Canonical) (h : s.canStartChan n = true) : (M.run (dmaStart n) s).chanHops n = 0 := by
  rw [dmaStart, run_getS_bind, if_pos h, run_wrFld_seq, chanHops_run_startChain (canonical_run _ hs)]

/-- DMA_START by a privileged writer that reaches the channel. -/
theorem exec_dmaStart {w : Requester} (hn : n < 64) (hr : reaches s w (partOf (0x40 + n))) (hw : privileged w = true) :
    exec (.dmaStart w n) s = .next (M.run (dmaStart n) s) :=
  calc
    exec (.dmaStart w n) s = execDmaStart w n s := rfl
    _ = .next (M.run (ctlWrite w n 0 (dmaStart n)) s) := whenEnabled_next (decide_eq_true hn)
    _ = .next (M.run (dmaStart n) s) := by rw [run_ctlWrite hr hw]

end

/-! ## Descriptors taken -/

/-- The second state comes from the first by taking descriptors into channel `n`: they join those taken before in order, each with the
count before it as its hop number, and the count grows by their number. -/
structure State.Took (n : Nat) (s : State) (ds : List DmaDesc) (t : State) : Prop where
  ahead : (t.chan n).ahead = (s.chan n).ahead ++ ds
  hops : t.chanHops n = s.chanHops n + ds.length
  hop : ∀ i d, ds[i]? = some d → d.hop = s.chanHops n + i

section
variable {n : Nat} {s t u : State} {ds es : List DmaDesc}

theorem State.Took.trans (h : s.Took n ds t) (k : t.Took n es u) : s.Took n (ds ++ es) u where
  ahead := by rw [k.ahead, h.ahead, List.append_assoc]
  hops := by rw [k.hops, h.hops, List.length_append, Nat.add_assoc]
  hop i d hd := by
    rcases Nat.lt_or_ge i ds.length with hi | hi
    · exact h.hop i d (by rwa [List.getElem?_append_left hi] at hd)
    · rw [List.getElem?_append_right hi] at hd
      rw [k.hop _ d hd, h.hops]
      omega

/-- An update that leaves the registers and the descriptors taken into channel `n`. -/
def Upd.KeepsTaken (n : Nat) (u : Upd) : Prop :=
  ∀ s, (u.apply s).regs = s.regs ∧ ((u.apply s).chan n).ahead = (s.chan n).ahead

theorem Steps.keepsTaken (h : Steps (Upd.KeepsTaken n) s t) : t.regs = s.regs ∧ (t.chan n).ahead = (s.chan n).ahead := by
  induction h with
  | refl => exact ⟨rfl, rfl⟩
  | snoc _ hv ih => exact ⟨(hv _).1.trans ih.1, (hv _).2.trans ih.2⟩

/-- Updates that leave the registers and the descriptors taken take none. -/
theorem took_nil_of_keepsTaken {m : M Unit} (hm : M.All (Upd.KeepsTaken n) m) (s : State) : s.Took n [] (m.run s) := by
  obtain ⟨hregs, hahead⟩ := (hm.run_steps s).keepsTaken
  exact ⟨by rw [hahead, List.append_nil], chanHops_congr hregs, by simp⟩

theorem EventUpd.keepsTaken {v : Upd} (hv : EventUpd v) : v.KeepsTaken n := fun s =>
  ⟨(hv s).regs, by rw [State.chan, (hv s).rest, State.chan]⟩

theorem chan_run_modChan (n : Nat) (f : DmaChan → DmaChan) (s : State) : (M.run (modChan n f) s).chan n = f (s.chan n) :=
  tblGet_tblSet_same _ _ _ _

theorem chan_run_wrFld (r : Nat) (f : Field) (v : Nat) (s : State) : (M.run (wrFld r f v) s).chan n = s.chan n := rfl

theorem modChan_keepsTaken {f : DmaChan → DmaChan} (hf : ∀ c, (f c).ahead = c.ahead) : M.All (Upd.KeepsTaken n) (modChan n f) :=
  .update fun s => ⟨rfl, (congrArg DmaChan.ahead (chan_run_modChan n f s)).trans (hf _)⟩

theorem chanEvent_keepsTaken (code : Nat) (detail : List (Nat × Nat)) : M.All (Upd.KeepsTaken n) (chanEvent n code detail) := by
  unfold chanEvent
  refine .bind .getS fun _ => .bind ((raise_event _ _ _ _).mono fun _ => EventUpd.keepsTaken) fun _ => .ite ?_ (.pure _)
  exact modChan_keepsTaken fun _ => rfl

theorem follow_keepsTaken (a : Nat) : M.All (Upd.KeepsTaken n) (follow n a) :=
  .bind .getS fun _ => .ite (modChan_keepsTaken fun _ => rfl) (modChan_keepsTaken fun _ => rfl)

/-- The descriptor the fetcher takes at an address of a crate: its bytes, and the count before it as its hop number. -/
def State.descAt (s : State) (n : Nat) (crate : List Byte) (a : Nat) : DmaDesc :=
  ⟨a, (crate.drop (a % 256)).take 64, s.chanHops n, 0, 0, 0, false, 0, 0, 0⟩

/-- The state in which one descriptor more has been taken, whatever its bytes, and counted up to the largest count. -/
def State.takeDesc (s : State) (n : Nat) (crate : List Byte) (a : Nat) : State :=
  M.run (wrFld (Reg.dmaChStatus n) Fld.dmaChStatusHops (min (s.chanHops n + 1) (2 ^ 21 - 1)))
    (M.run (modChan n fun c => { c with ahead := c.ahead ++ [s.descAt n crate a] }) s)

theorem State.takeDesc_canonical (hs : s.Canonical) (crate : List Byte) (a : Nat) : (s.takeDesc n crate a).Canonical :=
  canonical_run _ (canonical_run _ hs)

theorem State.took_takeDesc (hs : s.Canonical) (hlt : s.chanHops n + 1 < 2 ^ 21) (crate : List Byte) (a : Nat) :
    s.Took n [s.descAt n crate a] (s.takeDesc n crate a) where
  ahead := by rw [State.takeDesc, chan_run_wrFld, chan_run_modChan]
  hops := by
    rw [State.takeDesc, chanHops_run_wrFld_hops (canonical_run _ hs), Nat.min_eq_left (by omega), Nat.mod_eq_of_lt hlt]
    rfl
  hop
    | 0, _, rfl => rfl

theorem State.chanArmed_takeDesc (hs : s.Canonical) (crate : List Byte) (a : Nat) :
    (s.takeDesc n crate a).chanArmed n = s.chanArmed n := by
  rw [State.takeDesc, State.chanArmed, State.flag, run_wrFld, fld_apply_apart (canonical_run _ hs) _ (.inl (by decide))]
  rfl

/-- What `takeDescs` can do on a channel that is not armed: take one descriptor, then go on with the next of the crate or leave the
registers and the descriptors taken. -/
theorem run_takeDescs_succ (hs : s.chanArmed n = false) (f : Nat) (crate : List Byte) (a : Nat) :
    ∃ m : M Unit, M.run (takeDescs (f + 1) n crate a) s = M.run m (s.takeDesc n crate a) ∧
      (M.All (Upd.KeepsTaken n) m ∨ ∃ next, m = takeDescs f n crate next) := by
  rw [takeDescs, run_getS_bind]
  dsimp only
  rw [run_modChan_seq, run_wrFld_seq]
  split_ifs with hlast harmed hbad hlimit hinside
  · simp [hs] at harmed
  · exact ⟨_, rfl, .inl (modChan_keepsTaken fun _ => rfl)⟩
  · exact ⟨_, rfl, .inl (follow_keepsTaken _)⟩
  · exact ⟨_, rfl, .inl (.bind (modChan_keepsTaken fun _ => rfl) fun _ => chanEvent_keepsTaken _ _)⟩
  · exact ⟨_, rfl, .inr ⟨_, rfl⟩⟩
  · exact ⟨_, rfl, .inl (follow_keepsTaken _)⟩

/-- A channel that is not armed takes descriptors from a crate; with fuel, at least one. -/
theorem took_takeDescs (f : Nat) (crate : List Byte) : ∀ (a : Nat) {s : State}, s.Canonical → s.chanArmed n = false →
    s.chanHops n + f < 2 ^ 21 → ∃ ds, s.Took n ds (M.run (takeDescs f n crate a) s) ∧ (f ≠ 0 → ds ≠ []) := by
  induction f with
  | zero => exact fun a s _ _ _ => ⟨[], took_nil_of_keepsTaken (.pure ()) s, by simp⟩
  | succ f ih =>
    intro a s hs harmed hlt
    have hone : s.Took n [s.descAt n crate a] (s.takeDesc n crate a) := s.took_takeDesc hs (by omega) crate a
    obtain ⟨m, hrun, hm⟩ := run_takeDescs_succ harmed f crate a
    have hrest : ∃ es, (s.takeDesc n crate a).Took n es (m.run (s.takeDesc n crate a)) := by
      rcases hm with hm | ⟨next, rfl⟩
      · exact ⟨[], took_nil_of_keepsTaken hm _⟩
      · obtain ⟨es, hes, -⟩ := ih next (s.takeDesc_canonical hs crate a) (by rw [s.chanArmed_takeDesc hs, harmed])
          (by rw [hone.hops, List.length_singleton]; omega)
        exact ⟨es, hes⟩
    obtain ⟨es, hes⟩ := hrest
    rw [hrun]
    exact ⟨_, hone.trans hes, by simp⟩

end

/-- Settles O44: a start and a commit store 0 into the count and nothing after stores another value; each descriptor taken adds one, by
induction on the fuel of `takeDescs`. -/
theorem hopsCountTheDescriptorsTaken : Obligations.HopsCountTheDescriptorsTaken := by
  intro s n hs hn hops
  refine ⟨fun w hr hw hstart => ?_, fun kind => ?_, fun f crate a harmed hlt => ?_⟩
  · exact ⟨_, exec_dmaStart hn hr hw, chanHops_run_dmaStart hs hstart⟩
  · exact ⟨_, (@commitShadow_reach 0x589 rfl n kind).gives_run s, chanHops_run_commitShadow hs kind⟩
  · obtain ⟨more, htook, hne⟩ := took_takeDescs (f + 1) crate a hs harmed hlt
    refine ⟨_, more, (@takeDescs_reach 0x589 rfl (f + 1) n crate a).gives_run s, ?_⟩
    exact ⟨htook.ahead, hne (Nat.succ_ne_zero f), htook.hops, htook.hop⟩

end Sys2Proof.Machine
end

section
/-! PROOFS. The Hall page (R360 to R363, R372): who may write it, how a plain flag counts and crosses, and how a Hall buffer record becomes
live. -/

namespace Sys2Proof.Machine

open Sys2Proof

/-! ## Meanings that answer a value -/

section
variable {α β : Type} {s t u : State} {a : α} {b : β}

theorem M.gives.bind {m : M α} {f : α → M β} (hm : m.gives s a t) (hf : (f a).gives t b u) : (m >>= f).gives s b u :=
  fun k => (hm _).trans (hf k)

theorem M.gives.run_bind {m : M α} (hm : m.gives s a t) (f : α → M Unit) : M.run (m >>= f) s = M.run (f a) t := hm _

theorem pure_gives (a : α) (s : State) : (pure a : M α).gives s a s := fun _ => rfl

/-- Looking at the state changes none. -/
theorem M.gives.getS_bind {f : State → M β} (h : (f s).gives s b t) : (getS >>= f).gives s b t := h

theorem raise_gives (src part code : Nat) (detail : List Byte) (s : State) :
    (raise src part code detail).gives s () (s.afterEvent src part code detail) :=
  (raise_event src part code detail).gives_run s

/-- A command whose answer is the state a follow-up leaves completes with that follow-up. -/
theorem completesThen_of_exec {i : Instr} {m : M Unit} (h : exec i s = .next (m.run u)) : CompletesThen i s m fun v => v = u :=
  ⟨u, rfl, h, (exec_reach h).sameBut _ (reachOf_parts i)⟩

end

/-! ## No work left -/

/-- A loop whose turns all do nothing does nothing. -/
theorem forIn_of_idle {γ : Type} {body : γ → PUnit → M (ForInStep PUnit)} (l : List γ)
    (h : ∀ x ∈ l, body x ⟨⟩ = pure (.yield ⟨⟩)) :
    forIn l ⟨⟩ body = (pure ⟨⟩ : M PUnit) := by
  induction l with
  | nil => rfl
  | cons x l ih =>
    rw [List.forIn_cons, h x List.mem_cons_self, pure_bind]
    exact ih fun y hy => h y (List.mem_cons_of_mem x hy)

/-- The offsets that `applyStaging` takes for a tile's register are offsets of that register. -/
theorem eq_ttTmem_of_offset {off : Nat} (hlow : Reg.ttTmem 0 ≤ off) (hpage : off % 0x1000 = 8) :
    off = Reg.ttTmem ((off - Reg.ttTmem 0) / 0x1000) := by
  simp only [Reg.ttTmem] at *
  omega

theorem run_applyStaging_of_noStaging {s : State} (h : noStaging s) : M.run applyStaging s = s := by
  rw [applyStaging, run_getS_bind, forIn_of_idle]
  · rfl
  · rintro ⟨off, w⟩ hx
    refine if_neg ?_
    rintro ⟨hlow, -, hpage, hpending, -⟩
    rcases h _ hx with hnone | hother
    · exact absurd (hnone.symm.trans hpending) (by decide)
    · exact hother _ (eq_ttTmem_of_offset hlow hpage)

theorem settle_nil (n : Nat) : settle n [] = pure () := by
  cases n <;> rfl

theorem run_settleAll_nil {s : State} (h : noStaging s) : M.run (settleAll []) s = s := by
  rw [settleAll, run_getS_bind]
  dsimp only
  rw [settle_nil, run_pure_bind, run_applyStaging_of_noStaging h]

theorem noStaging_congr {s t : State} (h : t.regs = s.regs) : noStaging t ↔ noStaging s := by
  rw [noStaging, h, noStaging]

/-! ## Writes of the Hall page -/

theorem run_hallWrite_bcc (off value : Nat) (m : M Unit) (s : State) : M.run (hallWrite .bcc off value m) s = M.run m s := by
  rw [hallWrite, run_reachReg_bind (.inl rfl), if_pos rfl, if_pos rfl]

/-- A requester other than the BCC may not write the Hall page (R372). -/
theorem run_hallWrite_of_ne_bcc {w : Requester} {s : State} (hw : w ≠ .bcc) (hopen : s.fenced 4 = false) (off value : Nat) (m : M Unit) :
    M.run (hallWrite w off value m) s = refusedWrite s off value 0 := by
  rw [hallWrite, run_reachReg_bind (.inr hopen), if_pos rfl, if_neg hw]
  rfl

/-- A command enabled by its operands alone. -/
theorem whenEnabled_of_decide {p : Prop} [Decidable p] (h : p) (m : M Unit) (s : State) :
    whenEnabled (fun _ => decide p) m s = .next (m.run s) := whenEnabled_next (decide_eq_true h)

theorem exec_hallFlagAdv {f : Nat} (hf : f < 4096) (w : Requester) (s : State) :
    exec (.hallFlagAdv w f) s = .next (M.run (hallWrite w Reg.hallFlagAdv 1 (hallFlagAdv f)) s) :=
  whenEnabled_of_decide hf _ _

theorem exec_hallFlagThrWrite {f : Nat} (hf : f < 4096) (w : Requester) (thr : Nat) (s : State) :
    exec (.hallFlagThrWrite w f thr) s = .next (M.run (hallWrite w Reg.hallFlagThr thr (hallFlagThr f thr)) s) :=
  whenEnabled_of_decide hf _ _

theorem exec_hallRecordActivate {r : Nat} (hr : r < 256) (w : Requester) (base copiesM1 : Nat) (s : State) :
    exec (.hallRecordActivate w r base copiesM1) s =
      .next (M.run (hallWrite w Reg.hallBufBase base (hallRecordActivate r base copiesM1)) s) :=
  whenEnabled_of_decide hr _ _

theorem sameBut_hall (g : Hall → Hall) (s : State) : s.SameBut [.hall] ((Upd.hall g).apply s) :=
  Reaches.sameBut (n := 0x1000) (.one (P := Upd.In 0x1000) rfl s) _ (by decide)

/-! ## One flag set -/

theorem tblSet_tblSet_same {α : Type} (t : Tbl α) (i : Nat) (v w : α) : tblSet (tblSet t i v) i w = tblSet t i w := by
  induction t with
  | nil => simp [tblSet]
  | cons x t ih =>
    obtain ⟨k, z⟩ := x
    rcases Nat.lt_trichotomy i k with hlt | rfl | hgt
    · simp [tblSet, hlt]
    · simp [tblSet]
    · simp [tblSet, hgt.not_gt, hgt.ne', ih]

/-- The state with one Hall flag as given. -/
def State.setFlag (s : State) (f : Nat) (y : HallFlag) : State := (Upd.hall fun h => { h with flags := tblSet h.flags f y }).apply s

/-- One flag is as given, and nothing else has changed. -/
def State.OnlyFlag (s : State) (f : Nat) (y : HallFlag) (t : State) : Prop :=
  s.SameBut [.hall] t ∧ t.hflag f = y ∧ (∀ g, g ≠ f → t.hflag g = s.hflag g) ∧ t.hall = { s.hall with flags := t.hall.flags }

section
variable (s : State) (f : Nat) (y z : HallFlag)

@[simp] theorem hflag_setFlag : (s.setFlag f y).hflag f = y := tblGet_tblSet_same _ _ _ _

@[simp] theorem setFlag_setFlag : (s.setFlag f y).setFlag f z = s.setFlag f z :=
  congrArg (fun l => { s with hall := { s.hall with flags := l } }) (tblSet_tblSet_same s.hall.flags f y z)

theorem onlyFlag_setFlag : s.OnlyFlag f y (s.setFlag f y) :=
  ⟨sameBut_hall _ s, hflag_setFlag s f y, fun _ hg => tblGet_tblSet _ _ _ hg, rfl⟩

theorem modFlag_gives (g : HallFlag → HallFlag) : (modFlag f g).gives s () (s.setFlag f (g (s.hflag f))) := fun _ => rfl

/-- A flag just set and changed again. -/
theorem modFlag_gives_setFlag (g : HallFlag → HallFlag) : (modFlag f g).gives (s.setFlag f y) () (s.setFlag f (g y)) := by
  have h := modFlag_gives (s.setFlag f y) f g
  rwa [hflag_setFlag, setFlag_setFlag] at h

end

/-! ## Crossings -/

/-- A flag after a crossing has moved its threshold on (R362). -/
def HallFlag.moved (y : HallFlag) : HallFlag := if y.period = 0 then { y with spent := true } else { y with thr := (y.thr + y.period) % 2 ^ 32 }

@[simp] theorem HallFlag.moved_waiters (y : HallFlag) : y.moved.waiters = y.waiters := by
  unfold moved
  split <;> rfl

@[simp] theorem HallFlag.moved_held (y : HallFlag) : y.moved.held = y.held := by
  unfold moved
  split <;> rfl

/-- What a crossing of a flag leaves, and the work it makes (R121, R362). -/
def State.FlagCrossed (s : State) (f : Nat) (y : HallFlag) (ws : List Work) (t : State) : Prop :=
  match y.waiters with
  | (n, sl) :: rest => ws = [.slot n sl false] ∧ s.OnlyFlag f { y.moved with waiters := rest } t
  | [] => ws = [] ∧ (y.held = false → s.OnlyFlag f { y.moved with held := true } t) ∧
      (y.held = true → ∃ u, s.OnlyFlag f y.moved u ∧ t = u.afterEvent 0x80 6 0x3102 (det [(4, f)]))

section
variable {s t : State} {f : Nat} {y : HallFlag}

/-- The token goes to the oldest waiting slot. -/
theorem crossFlag_gives_slot {n sl : Nat} {rest : List (Nat × Nat)} (hy : y.waiters = (n, sl) :: rest) :
    (crossFlag f).gives (s.setFlag f y) [.slot n sl false] (s.setFlag f { y with waiters := rest }) := by
  refine .getS_bind ?_
  rw [hflag_setFlag, hy]
  exact .bind (modFlag_gives_setFlag _ _ _ _) (pure_gives _ _)

/-- With no slot waiting the crossing is held. -/
theorem crossFlag_gives_held (hy : y.waiters = []) (hfree : y.held = false) :
    (crossFlag f).gives (s.setFlag f y) [] (s.setFlag f { y with held := true }) := by
  refine .getS_bind ?_
  rw [hflag_setFlag, hy]
  dsimp only
  rw [if_neg (by simp [hfree]), ← hy]
  exact .bind (modFlag_gives_setFlag _ _ _ _) (pure_gives _ _)

/-- With one held already the crossing is lost, and event 0x3102 tells it. -/
theorem crossFlag_gives_lost (hy : y.waiters = []) (hheld : y.held = true) :
    (crossFlag f).gives (s.setFlag f y) [] ((s.setFlag f y).afterEvent 0x80 6 0x3102 (det [(4, f)])) := by
  refine .getS_bind ?_
  rw [hflag_setFlag, hy]
  dsimp only
  rw [if_pos hheld]
  exact .bind (raise_gives _ _ _ _ _) (pure_gives _ _)

/-- A flag that moves its threshold on and crosses. -/
theorem rearm_cross_gives (s : State) (f : Nat) (y : HallFlag) :
    ∃ ws t, (rearmFlag f >>= fun _ => crossFlag f).gives (s.setFlag f y) ws t ∧ s.FlagCrossed f y ws t := by
  have hrearm : (rearmFlag f).gives (s.setFlag f y) () (s.setFlag f y.moved) := modFlag_gives_setFlag s f y HallFlag.moved
  cases hy : y.waiters with
  | cons x rest =>
    refine ⟨_, _, hrearm.bind (crossFlag_gives_slot (by rw [y.moved_waiters, hy])), ?_⟩
    rw [State.FlagCrossed, hy]
    exact ⟨rfl, onlyFlag_setFlag ..⟩
  | nil =>
    cases hheld : y.held with
    | false =>
      refine ⟨_, _, hrearm.bind (crossFlag_gives_held (by rw [y.moved_waiters, hy]) (by rw [y.moved_held, hheld])), ?_⟩
      rw [State.FlagCrossed, hy]
      exact ⟨rfl, fun _ => onlyFlag_setFlag .., by simp [hheld]⟩
    | true =>
      refine ⟨_, _, hrearm.bind (crossFlag_gives_lost (by rw [y.moved_waiters, hy]) (by rw [y.moved_held, hheld])), ?_⟩
      rw [State.FlagCrossed, hy]
      exact ⟨rfl, by simp [hheld], fun _ => ⟨_, onlyFlag_setFlag .., rfl⟩⟩

end

/-! ## Advances -/

/-- A flag advanced by one. -/
def HallFlag.advanced (y : HallFlag) : HallFlag := { y with count := (y.count + 1) % 2 ^ 32 }

section
variable {s : State} {f : Nat}

/-- An advance of a flag in mode 0 is refused with event 0x3B02. -/
theorem advanceFlag_gives_refused (hmode : (s.hflag f).mode = 0) (h src part : Nat) (byBcc : Bool) :
    (advanceFlag f h src part byBcc).gives s [] (s.afterEvent 0xB2 4 0x3B02 (det [(4, f), (3, h), (1, src), (1, part)])) := by
  refine .getS_bind ?_
  dsimp only
  rw [if_pos (.inl hmode)]
  exact .bind (raise_gives _ _ _ _ _) (pure_gives _ _)

/-- An allowed advance of a plain flag counts, and then crosses or not. -/
theorem advanceFlag_gives_of {h : Nat} {byBcc : Bool} {ws : List Work} {t : State} (hmode : (s.hflag f).mode = 1)
    (hby : byBcc = true ∨ (s.hflag f).owner = h) (src part : Nat)
    (hrest : (if (s.hflag f).mode = 1 ∧ (s.hflag f).advanced.count = (s.hflag f).thr ∧ (!(s.hflag f).spent) = true then
      rearmFlag f >>= fun _ => crossFlag f else pure []).gives (s.setFlag f (s.hflag f).advanced) ws t) :
    (advanceFlag f h src part byBcc).gives s ws t := by
  have hallowed : ¬ ((s.hflag f).mode = 0 ∨ (!byBcc) = true ∧ (s.hflag f).owner ≠ h) := by
    rintro (h0 | ⟨hnot, howner⟩)
    · omega
    · exact hby.elim (fun hb => by simp [hb] at hnot) howner
  refine .getS_bind ?_
  dsimp only
  rw [if_neg hallowed]
  exact .bind (modFlag_gives _ _ _) hrest

theorem advanceFlag_gives_crossed {h : Nat} {byBcc : Bool} (hmode : (s.hflag f).mode = 1)
    (hby : byBcc = true ∨ (s.hflag f).owner = h) (src part : Nat) (hcount : (s.hflag f).advanced.count = (s.hflag f).thr)
    (hspent : (s.hflag f).spent = false) :
    ∃ ws t, (advanceFlag f h src part byBcc).gives s ws t ∧ s.FlagCrossed f (s.hflag f).advanced ws t := by
  obtain ⟨ws, t, hgives, hcrossed⟩ := rearm_cross_gives s f (s.hflag f).advanced
  refine ⟨ws, t, advanceFlag_gives_of hmode hby src part ?_, hcrossed⟩
  rwa [if_pos ⟨hmode, hcount, congrArg not hspent⟩]

theorem advanceFlag_gives_counted {h : Nat} {byBcc : Bool} (hmode : (s.hflag f).mode = 1)
    (hby : byBcc = true ∨ (s.hflag f).owner = h) (src part : Nat)
    (hbelow : (s.hflag f).advanced.count ≠ (s.hflag f).thr ∨ (s.hflag f).spent = true) :
    (advanceFlag f h src part byBcc).gives s [] (s.setFlag f (s.hflag f).advanced) := by
  refine advanceFlag_gives_of hmode hby src part ?_
  rw [if_neg]
  · exact pure_gives _ _
  · rintro ⟨-, hcount, hspent⟩
    exact hbelow.elim (· hcount) fun hb => by simp [hb] at hspent

/-- Every allowed advance of a plain flag answers some work. -/
theorem advanceFlag_gives_some {h : Nat} {byBcc : Bool} (hmode : (s.hflag f).mode = 1)
    (hby : byBcc = true ∨ (s.hflag f).owner = h) (src part : Nat) : ∃ ws t, (advanceFlag f h src part byBcc).gives s ws t := by
  by_cases hcross : (s.hflag f).advanced.count = (s.hflag f).thr ∧ (s.hflag f).spent = false
  · obtain ⟨ws, t, hgives, -⟩ := advanceFlag_gives_crossed hmode hby src part hcross.1 hcross.2
    exact ⟨ws, t, hgives⟩
  · refine ⟨[], _, advanceFlag_gives_counted hmode hby src part ?_⟩
    rwa [not_and_or, Bool.not_eq_false] at hcross

/-- The BCC's HALL_FLAG_ADV does the work of its advance. -/
theorem exec_hallFlagAdv_bcc (hf : f < 4096) {ws : List Work} {u : State} (h : (advanceFlag f 0 0x81 6 true).gives s ws u) :
    exec (.hallFlagAdv .bcc f) s = .next (M.run (settleAll ws) u) := by
  rw [exec_hallFlagAdv hf, run_hallWrite_bcc, hallFlagAdv, h.run_bind]

/-- In mode 0 no work follows. -/
theorem exec_hallFlagAdv_bcc_refused (hf : f < 4096) (hs : noStaging s) (hmode : (s.hflag f).mode = 0) :
    exec (.hallFlagAdv .bcc f) s = .next (s.afterEvent 0xB2 4 0x3B02 (det [(4, f), (3, 0), (1, 0x81), (1, 6)])) := by
  rw [exec_hallFlagAdv_bcc hf (advanceFlag_gives_refused hmode 0 0x81 6 true),
    run_settleAll_nil ((noStaging_congr (s.afterEvent_quiet _ _ _ _).regs).mpr hs)]

end

/-! ## Thresholds -/

/-- A flag with a threshold just written. -/
def HallFlag.armed (y : HallFlag) (thr : Nat) : HallFlag := { y with thr := thr % 2 ^ 32, spent := false }

section
variable {s : State} {f thr : Nat}

/-- HALL_FLAG_THR sets the flag, and then crosses or not. -/
theorem run_hallFlagThr (s : State) (f thr : Nat) :
    M.run (hallFlagThr f thr) s = M.run (if (s.hflag f).mode = 1 ∧ (thr % 2 ^ 32 = (s.hflag f).count ∨
        seqBefore (thr % 2 ^ 32) (s.hflag f).count = true) then (rearmFlag f >>= fun _ => crossFlag f) >>= settleAll else pure ())
      (s.setFlag f ((s.hflag f).armed thr)) := by
  refine ((modFlag_gives s f fun x => x.armed thr).run_bind _).trans ?_
  rw [run_getS_bind]
  dsimp only
  rw [hflag_setFlag]
  rfl

/-- A written threshold of a plain flag at or below the count crosses at once. -/
theorem run_hallFlagThr_crossed (hmode : (s.hflag f).mode = 1)
    (hpassed : thr % 2 ^ 32 = (s.hflag f).count ∨ seqBefore (thr % 2 ^ 32) (s.hflag f).count = true) :
    ∃ ws u, s.FlagCrossed f ((s.hflag f).armed thr) ws u ∧ M.run (hallFlagThr f thr) s = M.run (settleAll ws) u := by
  obtain ⟨ws, u, hgives, hcrossed⟩ := rearm_cross_gives s f ((s.hflag f).armed thr)
  exact ⟨ws, u, hcrossed, by rw [run_hallFlagThr, if_pos ⟨hmode, hpassed⟩, hgives.run_bind]⟩

/-- Another written threshold only arms the flag. -/
theorem run_hallFlagThr_armed
    (hahead : (s.hflag f).mode ≠ 1 ∨ (thr % 2 ^ 32 ≠ (s.hflag f).count ∧ seqBefore (thr % 2 ^ 32) (s.hflag f).count = false)) :
    M.run (hallFlagThr f thr) s = s.setFlag f ((s.hflag f).armed thr) := by
  rw [run_hallFlagThr, if_neg, run_pure]
  rintro ⟨hmode, hpassed⟩
  obtain hother | ⟨hne, hnot⟩ := hahead
  · exact hother hmode
  · exact hpassed.elim hne fun hbefore => Bool.false_ne_true (hnot.symm.trans hbefore)

end

/-- Settles O38: an advance and a written threshold each set one flag, and either stop there or move the threshold on and cross. -/
theorem plainFlagsCrossAtTheirThreshold : Obligations.PlainFlagsCrossAtTheirThreshold := by
  intro s f _ hstaging
  refine ⟨fun hmode h src part byBcc hby => ⟨fun hcount hspent => ?_, fun hbelow => ?_⟩, fun hf hmode => ?_, fun hf hmode => ?_,
    fun hf thr => ⟨fun hmode hpassed => ?_, fun hahead => ?_⟩, fun hf w thr hw hopen => ⟨?_, ?_⟩⟩
  · exact advanceFlag_gives_crossed hmode hby src part hcount hspent
  · exact ⟨_, advanceFlag_gives_counted hmode hby src part hbelow, onlyFlag_setFlag ..⟩
  · obtain ⟨ws, u, hgives⟩ := advanceFlag_gives_some hmode (h := 0) (.inl rfl) 0x81 6
    exact ⟨ws, u, hgives, completesThen_of_exec (exec_hallFlagAdv_bcc hf hgives)⟩
  · exact exec_hallFlagAdv_bcc_refused hf hstaging hmode
  · obtain ⟨ws, u, hcrossed, hrun⟩ := run_hallFlagThr_crossed hmode hpassed
    exact ⟨ws, u, hcrossed, by rw [exec_hallFlagThrWrite hf, run_hallWrite_bcc, hrun]⟩
  · exact ⟨s.setFlag f ((s.hflag f).armed thr),
      by rw [exec_hallFlagThrWrite hf, run_hallWrite_bcc, run_hallFlagThr_armed hahead], onlyFlag_setFlag ..⟩
  · rw [exec_hallFlagAdv hf, run_hallWrite_of_ne_bcc hw hopen]
  · rw [exec_hallFlagThrWrite hf, run_hallWrite_of_ne_bcc hw hopen]

/-! ## Records -/

/-- A Hall buffer record with a base and a number of copies written (R363). -/
def State.recordBased (s : State) (r base copies : Nat) : HallBuf :=
  { tblGet s.hall.bufs hallBuf0 r with base := signExtend48 (base % 2 ^ 48 / 64 * 64), copiesM1 := copies % 8 }

/-- The state with one Hall buffer record as given. -/
def State.setRecord (s : State) (r : Nat) (b : HallBuf) : State := (Upd.hall fun h => { h with bufs := tblSet h.bufs r b }).apply s

/-- HALL_BUF_BASE sets the record, or is refused where a live task names the record or its nonzero base makes no good one. -/
theorem run_hallRecordActivate (s : State) (r base copies : Nat) :
    M.run (hallRecordActivate r base copies) s =
      if s.recordNamed r = true ∨ ((s.recordBased r base copies).base ≠ 0 ∧ s.recordGood r (s.recordBased r base copies) = false) then
        refusedWrite s Reg.hallBufBase (base % 2 ^ 48 / 64 * 64 + copies % 8 * 2 ^ 48) 6
      else s.setRecord r (s.recordBased r base copies) := by
  rw [hallRecordActivate, run_getS_bind]
  dsimp only
  rw [run_ite]
  simp only [Bool.not_eq_true']
  rfl

/-- Settles O39: the test of HALL_RECORD_ACTIVATE is the statement's, and the write sets one entry of the table of records. -/
theorem hallRecordsBecomeLiveByTheirBase : Obligations.HallRecordsBecomeLiveByTheirBase := by
  intro s r base copies hr
  refine ⟨fun hfree hgood => ?_, fun hbad => ?_, fun w hw hopen => ?_⟩
  · refine ⟨s.setRecord r (s.recordBased r base copies), ?_, sameBut_hall _ s, rfl, tblFind_tblSet_same _ _ _,
      fun x hx => tblFind_tblSet _ _ hx⟩
    rw [exec_hallRecordActivate hr, run_hallWrite_bcc, run_hallRecordActivate, if_neg]
    rintro (hnamed | ⟨hlive, hbad⟩)
    · exact Bool.false_ne_true (hfree.symm.trans hnamed)
    · exact hgood.elim hlive fun hg => Bool.false_ne_true (hbad.symm.trans hg)
  · rw [exec_hallRecordActivate hr, run_hallWrite_bcc, run_hallRecordActivate]
    exact congrArg _ (if_pos hbad)
  · rw [exec_hallRecordActivate hr, run_hallWrite_of_ne_bcc hw hopen]

end Sys2Proof.Machine
end

section
/-! PROOFS. One step of the block: what a step is, the components a command may change, the canonical form every step keeps, and the tick
of SiteTime on an empty queue. -/

namespace Sys2Proof.Machine

open Sys2Proof

/-! ## One step -/

section
variable {s t : State} {c : Instr} {rest : List Instr}

theorem step_of_idle (h : s.pending = []) : step s = .next (tick.run s) := by
  rw [step, h]

theorem step_of_command (h : s.pending = c :: rest) : step s = exec c { s with pending := rest } := by
  rw [step, h]

/-- A step that answers a next state ticks, or carries out the front command on the queue's rest. -/
theorem step_cases (h : step s = .next t) :
    (s.pending = [] ∧ t = tick.run s) ∨ ∃ c rest, s.pending = c :: rest ∧ exec c { s with pending := rest } = .next t := by
  cases hp : s.pending with
  | nil =>
    rw [step_of_idle hp] at h
    cases h
    exact .inl ⟨rfl, rfl⟩
  | cons c rest =>
    rw [step_of_command hp] at h
    exact .inr ⟨c, rest, rfl, h⟩

/-- A property that the queue of commands does not decide, that a tick keeps and that every command keeps, is kept by a step. -/
theorem step_keeps {I : State → Prop} (hq : ∀ s q, I s → I { s with pending := q }) (htick : ∀ s, I s → I (tick.run s))
    (hexec : ∀ c s t, I s → exec c s = .next t → I t) (hs : I s) (h : step s = .next t) : I t := by
  rcases step_cases h with ⟨-, rfl⟩ | ⟨c, rest, -, h⟩
  · exact htick s hs
  · exact hexec c _ _ (hq s rest hs) h

end

/-- Settles O1: the match of `step` on the queue. -/
theorem stepRunsTheFrontCommand : Obligations.StepRunsTheFrontCommand := fun _ _ _ h => step_of_command h

/-- Settles O3: every update keeps the canonical form, and a tick and a command make only updates. -/
theorem stepKeepsMemoryAndRegistersCanonical : Obligations.StepKeepsMemoryAndRegistersCanonical :=
  fun _ _ => step_keeps (fun _ _ hs => hs) (fun s => (Act.run_steps tick.act s).canonical) fun _ _ _ hs h => (exec_reach h).canonical hs

/-- Settles O4: no table of the reset state has an entry. -/
theorem resetIsCanonical : Obligations.ResetIsCanonical :=
  ⟨⟨rfl, rfl⟩, rfl, fun _ => rfl, fun _ => rfl⟩

/-! ## Frames -/

/-- Settles O5: the components a command's updates reach lie in its list. -/
theorem everyCommandKeepsItsFrame : Obligations.EveryCommandKeepsItsFrame :=
  fun i _ _ h => (exec_reach h).sameBut _ (reachOf_parts i)

theorem Part.same_refl (p : Part) (s : State) : p.same s s := by
  cases p <;> rfl

theorem Part.same_trans {p : Part} {s t u : State} (h : p.same s t) (k : p.same t u) : p.same s u := by
  cases p <;> exact Eq.trans k h

/-- The component an update changes. -/
def Upd.part : Upd → Part
  | .mem _ _ => .mem
  | .memClear _ _ => .mem
  | .regClear _ _ => .regs
  | .reg _ _ => .regs
  | .out _ => .out
  | .free _ => .free
  | .clock _ => .clock
  | .sys _ => .sys
  | .tally _ => .tally
  | .engines _ => .engines
  | .dma _ => .dma
  | .rcv _ => .rcv
  | .hall _ => .hall
  | .sent _ => .sent
  | .pins _ => .pins
  | .fabric _ => .fabric
  | .power _ => .power
  | .store _ => .store
  | .sec _ => .sec
  | .bist _ => .bist
  | .safe _ => .safe
  | .cams _ => .cams
  | .radio _ => .radio
  | .eth _ => .eth

/-- An update leaves every component but its own. -/
theorem Upd.sameBut (u : Upd) (s : State) : s.SameBut [u.part] (u.apply s) := by
  refine ⟨u.apply_pending s, fun p hp => ?_⟩
  have hne : p ≠ u.part := fun h => hp (List.mem_singleton.mpr h)
  cases u <;> cases p <;> first | rfl | exact absurd rfl hne

namespace State.SameBut

variable {s t u : State} {ps qs : List Part}

theorem refl (ps : List Part) (s : State) : s.SameBut ps s := ⟨rfl, fun p _ => p.same_refl s⟩

theorem mono (h : s.SameBut ps t) (hsub : ps ⊆ qs) : s.SameBut qs t := ⟨h.1, fun p hp => h.2 p fun hm => hp (hsub hm)⟩

theorem trans (h : s.SameBut ps t) (k : t.SameBut ps u) : s.SameBut ps u :=
  ⟨k.1.trans h.1, fun p hp => Part.same_trans (h.2 p hp) (k.2 p hp)⟩

/-- One more update of a named component. -/
theorem upd (h : s.SameBut ps t) (u : Upd) (hu : ps.contains u.part = true := by rfl) : s.SameBut ps (u.apply t) :=
  h.trans ((u.sameBut t).mono fun _ hp => List.mem_singleton.mp hp ▸ List.contains_iff_mem.mp hu)

end State.SameBut

/-- One update of a named component. -/
theorem Upd.sameBut_of {ps : List Part} (u : Upd) (s : State) (hu : ps.contains u.part = true := by rfl) : s.SameBut ps (u.apply s) :=
  (State.SameBut.refl ps s).upd u hu

/-- Flash and eMMC are a component of the seven commands that may write them, and of no other. -/
theorem store_mem_parts (i : Instr) : decide (Part.store ∈ i.parts) = mayWriteStorage i := by
  cases i <;> rfl

theorem store_of_exec {i : Instr} {s t : State} (hi : mayWriteStorage i = false) (h : exec i s = .next t) : t.store = s.store :=
  (everyCommandKeepsItsFrame i s t h).2 .store (of_decide_eq_false ((store_mem_parts i).trans hi))

/-- Settles O6: the frame of the front command, or of a tick, holds no storage. -/
theorem storageChangesOnlyByItsOwnCommands : Obligations.StorageChangesOnlyByItsOwnCommands := by
  intro s t h hc
  rcases step_cases h with ⟨-, rfl⟩ | ⟨c, rest, hp, h⟩
  · rfl
  · exact (store_of_exec (hc c (by simp [hp])) h :)

/-! ## The tick -/

/-- The low bits of a word taken as a signed number are no less than the least of their width. -/
theorem neg_two_pow_le_signed (w n : Nat) : -2 ^ (w - 1) ≤ signed w n := by
  unfold signed
  dsimp only
  split
  · next h =>
    obtain ⟨hw, hle⟩ := h
    have hpow : (2 : Int) ^ w = 2 ^ (w - 1) + 2 ^ (w - 1) := by
      rw [← mul_two, ← pow_succ, Nat.sub_add_cancel (Nat.pos_of_ne_zero hw)]
    have hlow : ((2 ^ (w - 1) : Nat) : Int) ≤ (n % 2 ^ w : Nat) := Int.ofNat_le.mpr hle
    rw [Nat.cast_pow, Nat.cast_ofNat] at hlow
    linarith
  · have : (0 : Int) ≤ 2 ^ (w - 1) := by positivity
    omega

/-- SiteTime and its fraction advance by one unit and the slew, where these together are no step back. -/
theorem advance_eq {adj : Int} (h : 0 ≤ 2 ^ 40 + adj) (c : Clock) : (advance adj c).sub < 2 ^ 40 ∧
    ∃ n : Nat, (advance adj c).now = (c.now + n) % 2 ^ 64 ∧ (n * 2 ^ 40 + (advance adj c).sub : Int) = c.sub + 2 ^ 40 + adj := by
  refine ⟨Nat.mod_lt _ (by norm_num), (c.sub + 2 ^ 40 + adj).toNat / 2 ^ 40, rfl, ?_⟩
  simp only [advance]
  omega

/-- Settles O2: a tick is one update of the clock, and the slew is less than a unit. -/
theorem idleBlockTicks : Obligations.IdleBlockTicks := by
  intro s hp _
  have hslew := neg_two_pow_le_signed 32 (s.fld Reg.timeFreqAdj Fld.timeFreqAdjAdj)
  obtain ⟨hsub, hnow⟩ := advance_eq (adj := signed 32 (s.fld Reg.timeFreqAdj Fld.timeFreqAdjAdj)) (by omega) s.clock
  exact ⟨_, step_of_idle hp, Upd.sameBut _ s, hsub, hnow⟩

end Sys2Proof.Machine
end

section
/-! PROOFS. Support of the proofs that follow: what an operation run alone leaves, loops, stored fields, tables and answers. -/

namespace Sys2Proof.Machine

open Sys2Proof

/-! ## What an operation run alone leaves -/

section
variable {α : Type} {s t u : State}

theorem M.gives.ite_pos {c : Prop} [Decidable c] {m : M α} {a : α} (h : c) (n : M α) (hm : m.gives s a t) :
    (if c then m else n).gives s a t := by rwa [if_pos h]

theorem M.gives.ite_neg {c : Prop} [Decidable c] {n : M α} {a : α} (h : ¬ c) (m : M α) (hn : n.gives s a t) :
    (if c then m else n).gives s a t := by rwa [if_neg h]

theorem M.gives.run {m : M Unit} (h : m.gives s () t) : M.run m s = t := h fun _ => .done

theorem Quiet.clock (h : Quiet s t) : t.clock = s.clock := by rw [h.rest]

theorem run_refuseReg (off value lsb : Nat) (s : State) : M.run (refuseReg off value lsb) s = refusedWrite s off value lsb := rfl

theorem refusedWrite_quiet (s : State) (off value lsb : Nat) : Quiet s (refusedWrite s off value lsb) := State.afterEvent_quiet ..

end

/-! ## What holds once an operation has run -/

/-- An operation run alone answers a value and leaves a state of which a property holds. -/
def M.Leads {α : Type} (m : M α) (s : State) (Q : α → State → Prop) : Prop := ∃ a t, m.gives s a t ∧ Q a t

section
variable {α β γ : Type} {s t : State} {Q : β → State → Prop} {P : α → State → Prop}

theorem M.gives.leads {m : M α} {a : α} (h : m.gives s a t) (hQ : P a t) : m.Leads s P := ⟨a, t, h, hQ⟩

theorem M.Leads.pure {a : α} (h : P a s) : (pure a : M α).Leads s P := (pure_gives a s).leads h

theorem M.Leads.getS {f : State → M β} (h : (f s).Leads s Q) : (getS >>= f).Leads s Q := h

theorem M.Leads.bind {m : M α} {f : α → M β} (h : m.Leads s fun a t => (f a).Leads t Q) : (m >>= f).Leads s Q := by
  obtain ⟨a, t, hm, b, u, hf, hQ⟩ := h
  exact ⟨b, u, hm.bind hf, hQ⟩

theorem M.gives.leads_bind {m : M α} {a : α} {f : α → M β} (hm : m.gives s a t) (h : (f a).Leads t Q) : (m >>= f).Leads s Q :=
  .bind (hm.leads h)

theorem M.Leads.upd {u : Upd} {f : Unit → M β} (h : (f ()).Leads (u.apply s) Q) : (update u >>= f).Leads s Q := h

theorem M.Leads.mono {m : M α} {P' : α → State → Prop} (h : m.Leads s P) (hP : ∀ a t, P a t → P' a t) : m.Leads s P' := by
  obtain ⟨a, t, hm, ha⟩ := h
  exact ⟨a, t, hm, hP a t ha⟩

theorem M.Leads.run {m : M Unit} {P : State → Prop} (h : m.Leads s fun _ => P) : P (M.run m s) := by
  obtain ⟨⟨⟩, t, hm, ht⟩ := h
  exact hm.run ▸ ht

/-- An operation that always runs leads to whatever its updates keep. -/
theorem M.All.leads {m : M α} {R : Upd → Prop} (hm : M.All R m) (hP : ∀ a t, Steps R s t → P a t) : m.Leads s P := by
  obtain ⟨a, t, ht, hk⟩ := hm s
  exact ⟨a, t, hk, hP a t ht⟩

/-- A loop whose turns each relate two states, and what these relations come to over the list. -/
theorem M.Leads.forIn {body : γ → PUnit → M (ForInStep PUnit)} {P : γ → State → State → Prop} {R : List γ → State → State → Prop}
    (hnil : ∀ s, R [] s s) (hcons : ∀ x l s t u, P x s t → R l t u → R (x :: l) s u) (l : List γ)
    (hbody : ∀ x ∈ l, ∀ s, (body x ⟨⟩).Leads s fun r t => r = .yield ⟨⟩ ∧ P x s t) (s : State) :
    (forIn l ⟨⟩ body).Leads s fun _ t => R l s t := by
  induction l generalizing s with
  | nil => exact .pure (hnil s)
  | cons x l ih =>
    obtain ⟨r, t, hx, rfl, ht⟩ := hbody x List.mem_cons_self s
    rw [List.forIn_cons]
    exact hx.leads_bind ((ih (fun y hy => hbody y (List.mem_cons_of_mem x hy)) t).mono fun _ u hu => hcons x l s t u ht hu)

/-- A turn that runs one operation. -/
theorem M.Leads.turn {m : M Unit} {P : State → Prop} (h : m.Leads s fun _ => P) :
    (m >>= fun _ => (Pure.pure (.yield ⟨⟩) : M (ForInStep PUnit))).Leads s fun r t => r = .yield ⟨⟩ ∧ P t :=
  .bind (h.mono fun _ _ ht => .pure ⟨rfl, ht⟩)

end

/-! ## Stored fields -/

/-- The state with one field of a register stored. -/
def State.putFld (s : State) (off : Nat) (f : Field) (v : Nat) : State := (Upd.reg off (setBits (s.reg off) f.lsb f.width v)).apply s

theorem wrFld_gives (off : Nat) (f : Field) (v : Nat) (s : State) : (wrFld off f v).gives s () (s.putFld off f v) := fun _ => rfl

theorem bump_gives (off : Nat) (f : Field) (n : Nat) (s : State) :
    (bump off f n).gives s () (s.putFld off f (satAdd f.width (s.fld off f) n)) := fun _ => rfl

theorem update_gives (u : Upd) (s : State) : (update u).gives s () (u.apply s) := fun _ => rfl

section
variable {s : State} {off x : Nat} {f g : Field} {v : Nat}

theorem State.canonical_putFld (hs : s.Canonical) (off : Nat) (f : Field) (v : Nat) : (s.putFld off f v).Canonical := Upd.apply_canonical _ _ hs

theorem State.reg_putFld (hs : s.Canonical) :
    (s.putFld off f v).reg x = if x = off then setBits (s.reg off) f.lsb f.width v else s.reg x := reg_apply hs _ _ x

theorem State.fld_putFld_same (hs : s.Canonical) (hf : f.lsb + f.width ≤ 64) (hv : v < 2 ^ f.width) : (s.putFld off f v).fld off f = v :=
  (fld_apply_same hs off f v hf).trans (Nat.mod_eq_of_lt hv)

theorem State.fld_putFld_apart (hs : s.Canonical) (hg : g.lsb + g.width ≤ f.lsb ∨ f.lsb + f.width ≤ g.lsb) :
    (s.putFld off f v).fld off g = s.fld off g := fld_apply_apart hs v hg

theorem State.fld_putFld_other (hs : s.Canonical) (hx : x ≠ off) : (s.putFld off f v).fld x g = s.fld x g := by
  rw [State.fld, State.reg_putFld hs, if_neg hx, State.fld]

theorem State.sameBut_putFld (s : State) (off : Nat) (f : Field) (v : Nat) : s.SameBut [.regs] (s.putFld off f v) := Upd.sameBut _ s

end

/-! ## Tables and answers -/

theorem tblFind_eq_some_iff {α : Type} {t : Tbl α} (h : tblSorted t = true) (i : Nat) (v : α) : tblFind t i = some v ↔ (i, v) ∈ t := by
  rw [tblSorted_iff] at h
  induction t with
  | nil => simp [tblFind]
  | cons x u ih =>
    obtain ⟨k, w⟩ := x
    obtain ⟨hk, hu⟩ := List.pairwise_cons.mp h
    rw [tblFind, List.mem_cons, Prod.mk.injEq]
    split
    · next hki =>
      subst hki
      have hnot : (k, v) ∉ u := fun hm => lt_irrefl k (hk (k, v) hm)
      simp [hnot, eq_comm]
    · next hki => simp [ih hu, Ne.symm hki]

/-- What a command that always runs answers. -/
theorem always_of_run {m : M Unit} {s t : State} (h : M.run m s = t) : always m s = .next t := congrArg _ h

theorem run_answer (ok : Bool) (data : List Byte) (s : State) : M.run (answer ok data) s = (Upd.out fun _ => some ⟨ok, data⟩).apply s := rfl

theorem run_modTally_bind (f : Tally → Tally) (g : Unit → M Unit) (s : State) :
    M.run (modTally f >>= g) s = M.run (g ()) ((Upd.tally f).apply s) := rfl

/-- A status alone: the answer, and nothing else. -/
theorem run_status (code : Nat) (s : State) : s.SameBut [.out] (M.run (status code) s) ∧
    (M.run (status code) s).out = some ⟨code == 0, leBytes 1 code⟩ :=
  ⟨Upd.sameBut _ s, rfl⟩

end Sys2Proof.Machine
end

section
/-! PROOFS. SiteTime (R140 to R147): service and steps, the PPS pins, and the states of the servo. -/

namespace Sys2Proof.Machine

open Sys2Proof

/-! ## Service and steps -/

theorem exec_startService (w : Requester) (s : State) : exec (.startService w) s = .next (M.run (startService w) s) := rfl

theorem exec_timeStep (w : Requester) (offset : Word) (s : State) :
    exec (.timeStep w offset) s = .next (M.run (timeStep w offset) s) := rfl

theorem run_startService_bcc (s : State) :
    M.run (startService .bcc) s = (Upd.reg Reg.timeStatus (setBits (s.reg Reg.timeStatus) Fld.timeStatusService.lsb 1 1)).apply s := rfl

/-- Another requester may not start service. -/
theorem run_startService_of_ne_bcc {w : Requester} (hw : w ≠ .bcc) (s : State) :
    M.run (startService w) s = refusedWrite s Reg.timeCmd 1 0 := by
  rw [startService, if_neg hw, run_refuseReg]

theorem run_timeStep_bcc {s : State} (h : s.service = false) (offset : Word) :
    M.run (timeStep .bcc offset) s = (Upd.clock fun c => { c with now := (c.now + offset.toNat) % 2 ^ 64 }).apply s := by
  rw [timeStep, run_getS_bind, if_neg (by simp [h]), run_update]

/-- No step is taken in service, nor from another requester than the BCC. -/
theorem run_timeStep_refused {w : Requester} {s : State} (h : w ≠ .bcc ∨ s.service = true) (offset : Word) :
    M.run (timeStep w offset) s = refusedWrite s Reg.timeStep offset.toNat 0 := by
  rw [timeStep, run_getS_bind, if_pos h, run_refuseReg]

/-- A refused write is an event of the register's owner, and keeps SiteTime and every register. -/
theorem refusedWrite_time (s : State) {off : Nat} (hoff : pageOwner (off / 0x1000) = (0x82, 6)) (value lsb : Nat) :
    ∃ detail, refusedWrite s off value lsb = s.afterEvent 0x82 6 0x3003 detail ∧ (refusedWrite s off value lsb).clock = s.clock ∧
      (∀ x, (refusedWrite s off value lsb).reg x = s.reg x) ∧ s.SameBut [.mem, .sys, .tally] (refusedWrite s off value lsb) := by
  have hq := refusedWrite_quiet s off value lsb
  exact ⟨det [(4, off), (4, value % 2 ^ 32), (1, lsb)], by rw [refusedWrite, hoff], hq.clock, hq.reg, hq.sameBut⟩

/-- Settles O7: START_SERVICE stores one field and TIME_STEP moves the clock, or the write is refused. -/
theorem serviceEndsTimeSteps : Obligations.ServiceEndsTimeSteps := by
  intro s hs
  refine ⟨?_, fun offset hidle => ?_, fun w hw => ?_, fun w offset hrefused => ?_⟩
  · refine ⟨_, exec_startService _ s, ?_⟩
    rw [run_startService_bcc]
    refine ⟨Upd.sameBut _ s, ?_, fun x => reg_apply hs _ _ x⟩
    exact congrArg (· != 0) (fld_apply_same hs Reg.timeStatus Fld.timeStatusService 1 (by decide))
  · refine ⟨_, exec_timeStep _ offset s, ?_⟩
    rw [run_timeStep_bcc hidle]
    exact ⟨Upd.sameBut _ s, rfl⟩
  · obtain ⟨detail, h⟩ := refusedWrite_time s (off := Reg.timeCmd) rfl 1 0
    exact ⟨detail, _, (exec_startService w s).trans (congrArg _ (run_startService_of_ne_bcc hw s)), h⟩
  · obtain ⟨detail, h⟩ := refusedWrite_time s (off := Reg.timeStep) rfl offset.toNat 0
    exact ⟨detail, _, (exec_timeStep w offset s).trans (congrArg _ (run_timeStep_refused hrefused offset)), h⟩

/-! ## PPS -/

/-- Settles O8: the edge is seen and, where enabled, stamped; each output edge is its command's one or two updates, and a pin at the edge's
level already turns it away. -/
theorem ppsPinsAndStamps : Obligations.PpsPinsAndStamps := by
  intro s hs
  refine ⟨⟨_, rfl, ?_⟩, fun hen hlow hphase hrose => ?_, fun r hhigh hr hpast => ?_, fun hhigh => ?_, fun hlow => ?_⟩
  · by_cases hen : s.flag Reg.timeCtl Fld.timeCtlPpsInEn = true
    · have hrun : M.run ppsInEdge s = (Upd.reg Reg.timePpsInStamp (BitVec.ofNat 64 s.clock.now)).apply
          ((Upd.clock fun c => { c with ppsSeen := some s.clock.now }).apply s) := by
        rw [ppsInEdge, run_getS_bind, run_update_bind, if_pos hen, run_wrReg]
      rw [hrun]
      refine ⟨(Upd.sameBut_of _ _).upd _, rfl, fun x => ?_⟩
      rw [reg_apply (Upd.apply_canonical _ _ hs)]
      simp [hen, State.reg]
    · have hrun : M.run ppsInEdge s = (Upd.clock fun c => { c with ppsSeen := some s.clock.now }).apply s := by
        rw [ppsInEdge, run_getS_bind, run_update_bind, if_neg hen, run_pure]
      rw [hrun]
      refine ⟨Upd.sameBut_of _ _, rfl, fun x => ?_⟩
      simp [hen, State.reg]
  · change ∃ t, execPpsOutRise s = _ ∧ _
    refine ⟨_, whenEnabled_next ?_, ?_, rfl, rfl⟩
    · have hat : s.ppsAt ≤ s.clock.now := by
        rw [State.ppsAt]
        omega
      cases hp : s.clock.ppsRose with
      | none => simp [hen, hlow, hat]
      | some t =>
        have hbefore : t < s.ppsAt := hrose t hp
        simp [hen, hlow, hat, hbefore]
    · exact (Upd.sameBut_of _ _).upd _
  · change ∃ t, execPpsOutFall s = _ ∧ _
    exact ⟨_, whenEnabled_next (by simp [hhigh, hr, hpast]), Upd.sameBut _ s, rfl⟩
  · change execPpsOutRise s = _
    exact whenEnabled_refused (by simp [hhigh])
  · change execPpsOutFall s = _
    exact whenEnabled_refused (by simp [hlow])

/-! ## The servo -/

/-- The state once SiteTime's servo state has changed (R144, R165). -/
def State.servoChanged (s : State) (n : Nat) : State :=
  State.afterEvent
    { s with
      regs := regPut s.regs Reg.timeStatus (setBits (s.reg Reg.timeStatus) 0 2 n)
      radio := { s.radio with held := false } } 0x82 6 0x0201
    (det [(1, s.fld Reg.timeStatus Fld.timeStatusState), (1, n), (6, 0), (8, unsigned 64 s.clock.servoOffset)])

/-- The state once SiteTime's servo state is as given. -/
def State.servoAt (s : State) (n : Nat) : State :=
  if s.fld Reg.timeStatus Fld.timeStatusState = n then s else s.servoChanged n

theorem timeState_gives (n : Nat) (s : State) : (timeState n).gives s () (s.servoAt n) := by
  refine .getS_bind ?_
  dsimp only
  by_cases h : s.fld Reg.timeStatus Fld.timeStatusState = n
  · rw [State.servoAt, if_pos h]
    exact .ite_neg (not_not.mpr h) _ (pure_gives _ _)
  · rw [State.servoAt, if_neg h]
    exact .ite_pos h _ (raise_gives _ _ _ _ _)

/-- The state once an error of SiteTime has been judged (R145). -/
def State.errorJudged (s : State) (e : Int) : State :=
  if s.service = true ∧ (usFloor < e ∨ e < -usFloor) then s.afterEvent 0x82 6 0x4201 (det [(8, unsigned 64 e)]) else s

theorem timeError_gives (e : Int) (s : State) : (timeError e).gives s () (s.errorJudged e) := by
  refine .getS_bind ?_
  by_cases h : s.service = true ∧ (usFloor < e ∨ e < -usFloor)
  · rw [show s.errorJudged e = _ from if_pos h]
    exact .ite_pos h _ (raise_gives _ _ _ _ _)
  · rw [show s.errorJudged e = _ from if_neg h]
    exact .ite_neg h _ (pure_gives _ _)

theorem State.errorJudged_quiet (s : State) (e : Int) : Quiet s (s.errorJudged e) := by
  unfold State.errorJudged
  split
  · exact State.afterEvent_quiet ..
  · exact .refl s

/-- Within 1 µs, or out of service, no error is reported. -/
theorem State.errorJudged_of_small {s : State} {e : Int} (h : s.service = false ∨ -4294 ≤ e ∧ e ≤ 4294) : s.errorJudged e = s := by
  refine if_neg ?_
  rintro ⟨hservice, hlarge⟩
  rw [usFloor] at hlarge
  rcases h with hidle | hsmall
  · simp [hidle] at hservice
  · omega

/-- A state in which TIME_STATUS.state is as given, and no other field or register, nor SiteTime, has changed. -/
structure State.ServoOnly (s : State) (n : Nat) (t : State) : Prop where
  state : t.fld Reg.timeStatus Fld.timeStatusState = n
  service : t.service = s.service
  regs : ∀ x, x ≠ Reg.timeStatus → t.reg x = s.reg x
  clock : t.clock = s.clock
  frame : s.SameBut [.mem, .regs, .sys, .tally, .radio] t

section
variable {s t : State} {n : Nat}

theorem State.servoOnly_servoChanged (hs : s.Canonical) (hn : n < 4) : s.ServoOnly n (s.servoChanged n) := by
  have hq : Quiet _ (s.servoChanged n) := State.afterEvent_quiet ..
  have hfield := fld_apply_same hs Reg.timeStatus Fld.timeStatusState n (by decide)
  have hapart : ((Upd.reg Reg.timeStatus (setBits (s.reg Reg.timeStatus) 0 2 n)).apply s).fld Reg.timeStatus Fld.timeStatusService =
      s.fld Reg.timeStatus Fld.timeStatusService := fld_apply_apart hs (f := Fld.timeStatusState) n (by decide)
  refine ⟨?_, ?_, fun x hx => ?_, hq.clock, ?_⟩
  · exact (hq.fld _ _).trans (hfield.trans (Nat.mod_eq_of_lt hn))
  · rw [State.service, State.flag, hq.fld]
    exact congrArg (· != 0) hapart
  · exact (hq.reg x).trans (reg_apply_other hs _ hx)
  · refine ((Upd.sameBut_of (.reg Reg.timeStatus _) s).upd (.radio fun r => { r with held := false })).trans (hq.sameBut.mono (by decide))

theorem State.servoOnly_servoAt (hs : s.Canonical) (hn : n < 4) : s.ServoOnly n (s.servoAt n) := by
  unfold State.servoAt
  split
  · next h => exact ⟨h, rfl, fun _ _ => rfl, rfl, .refl _ s⟩
  · exact State.servoOnly_servoChanged hs hn

/-- Events keep the servo's state. -/
theorem State.ServoOnly.quiet {u : State} (h : s.ServoOnly n t) (k : Quiet t u) : s.ServoOnly n u where
  state := (k.fld _ _).trans h.state
  service := by rw [State.service, State.flag, k.fld]; exact h.service
  regs x hx := (k.reg x).trans (h.regs x hx)
  clock := k.clock.trans h.clock
  frame := h.frame.trans (k.sameBut.mono (by decide))

/-- The servo has reported an offset. -/
def State.withOffset (s : State) (e : Int) : State := (Upd.clock fun c => { c with servoOffset := e }).apply s

/-- The servo reports an offset, enters a state, and its error is judged: what TIME_LOCKED and HOLDOVER do. -/
theorem servoReport_gives (e : Int) (n : Nat) (s : State) :
    (update (.clock fun c => { c with servoOffset := e }) >>= fun _ => timeState n >>= fun _ => timeError e).gives s ()
      (((s.withOffset e).servoAt n).errorJudged e) :=
  M.gives.bind (t := s.withOffset e) (fun _ => rfl) ((timeState_gives n _).bind (timeError_gives e _))

/-- What TIME_LOCKED and HOLDOVER leave: SiteTime has changed its state, with the offset noted; a report within its limit raises event 0x0201
alone. -/
theorem State.servoReport (hs : s.Canonical) (hn : n < 4) (hnew : s.fld Reg.timeStatus Fld.timeStatusState ≠ n) (e : Int) :
    (s.withOffset e).ServoOnly n (((s.withOffset e).servoAt n).errorJudged e) ∧
      (s.service = false ∨ -4294 ≤ e ∧ e ≤ 4294 → ((s.withOffset e).servoAt n).errorJudged e = (s.withOffset e).servoChanged n) := by
  have hs' : (s.withOffset e).Canonical := Upd.apply_canonical _ _ hs
  refine ⟨(State.servoOnly_servoAt hs' hn).quiet (State.errorJudged_quiet _ e), fun hsmall => ?_⟩
  have hat : (s.withOffset e).servoAt n = (s.withOffset e).servoChanged n := if_neg hnew
  rw [hat]
  exact State.errorJudged_of_small (hsmall.imp_left fun hidle => (State.servoOnly_servoChanged hs' hn).service.trans hidle)

theorem exec_servoStart (s : State) :
    exec .servoStart s = .next ((Upd.clock fun c => { c with acquiredAt := s.clock.now }).apply (s.servoAt 1)) :=
  congrArg _ ((timeState_gives 1 s).run_bind _)

theorem exec_timeLocked {e : Int} (hacq : s.fld Reg.timeStatus Fld.timeStatusState = 1) (hlong : s.clock.acquiredAt + 16 * 2 ^ 32 ≤ s.clock.now) :
    exec (.timeLocked e) s = .next (((s.withOffset e).servoAt 2).errorJudged e) := by
  change execTimeLocked e s = _
  exact (whenEnabled_next (by simpa [hacq] using hlong)).trans (congrArg _ (servoReport_gives e 2 s).run)

theorem exec_holdover {e : Int} (hlocked : s.fld Reg.timeStatus Fld.timeStatusState = 2) :
    exec (.holdover e) s = .next (((s.withOffset e).servoAt 3).errorJudged e) := by
  change execHoldover e s = _
  exact (whenEnabled_next (by simp [hlocked])).trans (congrArg _ (servoReport_gives e 3 s).run)

end

/-- Settles O9: each of the three commands enters its state by `timeState`; TIME_LOCKED and HOLDOVER are one report of the servo. -/
theorem siteTimeServoStates : Obligations.SiteTimeServoStates := by
  intro s hs
  refine ⟨?_, fun e hacq hlong => ?_, fun e hlocked => ?_, fun e hother => ?_, fun e hother => ?_⟩
  · have h := State.servoOnly_servoAt hs (n := 1) (by decide)
    have hclock := congrArg (fun c : Clock => { c with acquiredAt := s.clock.now }) h.clock
    exact ⟨_, exec_servoStart s, ⟨h.state, h.service, (congrArg Clock.now hclock :), h.regs, (h.frame.mono (by decide)).upd _⟩, hclock⟩
  · obtain ⟨h, hsmall⟩ := State.servoReport hs (n := 2) (by decide) (by omega) e
    exact ⟨_, exec_timeLocked hacq hlong, ⟨h.state, h.service, (congrArg Clock.now h.clock :), h.regs,
      (Upd.sameBut_of _ s).trans (h.frame.mono (by decide))⟩, (congrArg Clock.servoOffset h.clock :), hsmall⟩
  · obtain ⟨h, hsmall⟩ := State.servoReport hs (n := 3) (by decide) (by omega) e
    exact ⟨_, exec_holdover hlocked, ⟨h.state, h.service, (congrArg Clock.now h.clock :), h.regs,
      (Upd.sameBut_of _ s).trans (h.frame.mono (by decide))⟩, (congrArg Clock.servoOffset h.clock :), hsmall⟩
  · change execTimeLocked e s = _
    exact whenEnabled_refused (by simp [hother])
  · change execHoldover e s = _
    exact whenEnabled_refused (by simp [hother])

end Sys2Proof.Machine
end

section
/-! PROOFS. Rollback counters (R523): once the RPMB is keyed, the only updates of flash and eMMC that touch the counters raise one. A register
write reaches storage through SEC_SVN_COMMIT alone; BOOT keys a store that has no key. -/

namespace Sys2Proof.Machine

open Sys2Proof

/-- The counter store is keyed, and no counter is below what it was. -/
def State.CountersFrom (s t : State) : Prop := t.store.rpmbKeyed = true ∧ ∀ ty, s.counter ty ≤ t.counter ty

/-- An update of a state with a keyed store that keeps the key and lowers no counter. -/
def Upd.KeepsCounters (u : Upd) : Prop := ∀ s : State, s.store.rpmbKeyed = true → s.CountersFrom (u.apply s)

section
variable {α : Type} {s t : State} {m : M α}

theorem State.CountersFrom.refl (hs : s.store.rpmbKeyed = true) : s.CountersFrom s := ⟨hs, fun _ => le_rfl⟩

theorem State.CountersFrom.of_store (hs : s.store.rpmbKeyed = true) (h : t.store = s.store) : s.CountersFrom t :=
  ⟨h ▸ hs, fun ty => by rw [State.counter, State.counter, h]⟩

theorem Steps.countersFrom (h : Steps Upd.KeepsCounters s t) (hs : s.store.rpmbKeyed = true) : s.CountersFrom t :=
  h.keeps (fun _ x hu hx => ⟨(hu x hx.1).1, fun ty => (hx.2 ty).trans ((hu x hx.1).2 ty)⟩) (.refl hs)

/-- An update of any other component. -/
theorem Upd.keepsCounters_of_in {u : Upd} (h : Upd.In 0xFDFFFF u) : u.KeepsCounters := by
  intro s hs
  refine .of_store hs ?_
  cases u <;> first | rfl | exact absurd h Bool.false_ne_true

/-- Operations that reach no storage. -/
theorem M.All.keepsCounters (h : M.All (Upd.In 0xFDFFFF) m) : M.All Upd.KeepsCounters m :=
  h.mono fun _ => Upd.keepsCounters_of_in

/-- A change of storage that leaves key and counters. -/
theorem storage_keepsCounters {f : Storage → Storage} (hkey : ∀ x, (f x).rpmbKeyed = x.rpmbKeyed) (hcount : ∀ x, (f x).counters = x.counters) :
    M.All Upd.KeepsCounters (update (.store f)) :=
  .update fun s hs => ⟨(hkey s.store).trans hs, fun ty => (congrArg (tblGet · 0 ty) (hcount s.store)).ge⟩

end

/-- An operation under a condition, then the rest. -/
theorem M.All.whenThen {γ : Type} {P : Upd → Prop} {c : Prop} [Decidable c] {n : M Unit} {f : Unit → M γ} (hn : M.All P n)
    (hf : ∀ r, M.All P (f r)) : M.All P (if c then n >>= fun r => f r else f ()) :=
  .ite (.bind hn hf) (hf ())

/-- Only the other branch can be taken. -/
theorem M.All.otherwise {P : Upd → Prop} {c : Prop} [Decidable c] {m n : M α} (h : ¬ c) (hn : M.All P n) :
    M.All P (if c then m else n) := by rwa [if_neg h]

/-- Two operations under a condition, then the rest. -/
theorem M.All.whenBoth {P : Upd → Prop} {β γ : Type} {c : Prop} [Decidable c] {m : M β} {n : β → M Unit} {f : Unit → M γ}
    (hm : M.All P m) (hn : ∀ b, M.All P (n b)) (hf : ∀ r, M.All P (f r)) :
    M.All P (if c then m >>= fun b => n b >>= fun r => f r else f ()) :=
  .ite (.bind hm fun b => .bind (hn b) hf) (hf ())

/-! ## The operations on storage -/

/-- A commit raises one counter to the running version at most, and lowers none. -/
theorem svnCommit_keepsCounters (w : Requester) (ty bit : Nat) : M.All Upd.KeepsCounters (svnCommit w ty bit) := by
  refine .bind .getS fun s => .ite (.keepsCounters (refuseReg_reach rfl _ _ _)) (.update fun t ht => ⟨ht, fun x => ?_⟩)
  change tblGet t.store.counters 0 x ≤ tblGet (tblSet t.store.counters ty _) 0 x
  by_cases hx : x = ty
  · rw [hx, tblGet_tblSet_same]
    exact le_max_left _ _
  · rw [tblGet_tblSet _ _ _ hx]

theorem updateWritten_keepsCounters (ok : Bool) : M.All Upd.KeepsCounters (updateWritten ok) := by
  have state (n : Nat) : M.All Upd.KeepsCounters (setUpd n) := .keepsCounters (setUpd_reach rfl n)
  refine .bind .getS fun s => ?_
  split
  · exact .pure _
  · refine .ite (state 6) ?_
    split
    · exact state 6
    · refine .ite (.bind (storage_keepsCounters (fun _ => rfl) fun _ => rfl) fun _ => state 3)
        (.bind (storage_keepsCounters (fun _ => rfl) fun _ => rfl) fun _ => .keepsCounters ?_)
      exact .bind (modSec_reach rfl _) fun _ => wrFld_reach rfl _ _ _

theorem updateCommit_keepsCounters : M.All Upd.KeepsCounters updateCommit := by
  refine .bind .getS fun s => ?_
  split
  · exact .pure _
  · refine .bind (storage_keepsCounters (fun _ => rfl) fun _ => rfl) fun _ => .keepsCounters ?_
    exact .bind (wrFld_reach rfl _ _ _) fun _ => .bind (raise_reach rfl _ _ _ _) fun _ => .bind (modSec_reach rfl _) fun _ =>
      wrFld_reach rfl _ _ _

/-! ## Boot -/

section
variable {α : Type} {m : M α}

/-- An operation that reaches no storage, then the rest. -/
theorem M.All.thenKeeps {f : α → M Unit} (hm : M.All (Upd.In 0xFDFFFF) m) (hf : ∀ a, M.All Upd.KeepsCounters (f a)) :
    M.All Upd.KeepsCounters (m >>= f) := .bind hm.keepsCounters hf

end

/-- The end of BOOT reaches no storage. -/
theorem bootOpens_reach (again : Bool) (macros : List Nat) : M.All (Upd.In 0xFDFFFF) (do
      let s ← getS
      if again && macros.any (fun m => macroKind m == 8) then enterBivouac
      else if s.privLimit ≤ s.privCount ∧ !s.rcv.resets.any (fun p => p.1 == 0x200) then enterBivouac
      else do
        modTally fun x => { x with accepting := true }
        if !s.rcv.resets.any (fun p => p.1 == 0x200) then
          update (.pins fun p => { p with oosN := true })
        if s.rcv.wasBivouac then
          raise 0x81 0xFF 0x7006 (det [(1, 1)])
          update (.rcv fun r => { r with wasBivouac := false })
        drivePins
        presenceChanged) := by
  refine .bind .getS fun s => .ite (enterBivouac_reach rfl) (.ite (enterBivouac_reach rfl) ?_)
  refine .bind (modTally_reach rfl _) fun _ => .whenThen (.update rfl) fun _ => ?_
  refine .whenBoth (raise_reach rfl _ _ _ _) (fun _ => .update rfl) fun _ => ?_
  exact .bind (drivePins_reach rfl) fun _ => presenceChanged_reach rfl

/-- Below the choice of the application image, BOOT reaches storage only to note the slot it took. -/
theorem bootRest_keepsCounters (port body : Nat) (macros : List Nat) : M.All Upd.KeepsCounters (bootRest port body macros) := by
  refine .bind .getS fun s => ?_
  split
  · exact .thenKeeps (imageRejected_reach rfl _ _ _ _) fun _ => .keepsCounters (bootFails_reach rfl _)
  · refine .thenKeeps (extend_reach rfl _ _) fun _ => .thenKeeps (.update rfl) fun _ => .thenKeeps (wrFld_reach rfl _ _ _) fun _ =>
      .thenKeeps (modPower_reach rfl _) fun _ => .thenKeeps (powerDomains_reach rfl) fun _ => .thenKeeps (setAvs_reach rfl) fun _ =>
      .thenKeeps (setLocked_reach rfl _ _) fun _ => .whenThen (.keepsCounters (startupTest_reach rfl _ _ _)) fun _ => ?_
    refine .thenKeeps (.forIn _ _ _ fun p _ => ?_) fun _ => .bind .getS fun t => .thenKeeps (trySlots_reach rfl _ _ _) fun r => ?_
    · exact .whenThen (training_reach rfl _) fun _ => .bind (wrFld_reach rfl _ _ _) fun _ => .pure _
    · split
      · exact .keepsCounters (bootFails_reach rfl _)
      · refine .whenThen (storage_keepsCounters (fun _ => rfl) fun _ => rfl) fun _ => .thenKeeps (.update rfl) fun _ =>
          .thenKeeps (extend_reach rfl _ _) fun _ => .thenKeeps (wrFld_reach rfl _ _ _) fun _ => .thenKeeps (modSec_reach rfl _) fun _ =>
          .keepsCounters (bootOpens_reach _ _)

/-- BOOT of a device whose store has its key. -/
theorem run_boot_countersFrom {s : State} (hs : s.store.rpmbKeyed = true) (port body : Nat) (macros : List Nat) (ring : Nat) :
    s.CountersFrom (M.run (boot port body macros ring) s) := by
  suffices h : ∃ m : M Unit, M.All Upd.KeepsCounters m ∧ M.run (boot port body macros ring) s = M.run m s by
    obtain ⟨m, hm, hrun⟩ := h
    rw [hrun]
    exact (hm.run_steps s).countersFrom hs
  refine ⟨_, ?_, (run_getS_bind _ s).trans rfl⟩
  refine .whenThen (.keepsCounters (.update rfl)) fun _ => .thenKeeps (createEventQueue_reach rfl _) fun _ => .thenKeeps (wrFld_reach rfl _ _ _) fun _ =>
    .ite ?_ ?_
  · exact .thenKeeps (raise_reach rfl _ _ _ _) fun _ => .keepsCounters (bootFails_reach rfl _)
  · refine .thenKeeps (modSec_reach rfl _) fun _ => .thenKeeps (extend_reach rfl _ _) fun _ => ?_
    refine .otherwise (by simp [hs]) (.ite ?_ ?_)
    · exact .thenKeeps (raise_reach rfl _ _ _ _) fun _ => .keepsCounters (bootFails_reach rfl _)
    · refine .thenKeeps (wrFld_reach rfl _ _ _) fun _ => .thenKeeps (freshBytes_reach rfl _) fun _ => .thenKeeps (wrReg_reach rfl _ _) fun _ => ?_
      split
      · exact .keepsCounters (bootFails_reach rfl _)
      · refine .thenKeeps (extend_reach rfl _ _) fun _ => .thenKeeps (trySlots_reach rfl _ _ _) fun r => ?_
        split
        · exact .keepsCounters (bootFails_reach rfl _)
        · exact .whenThen (storage_keepsCounters (fun _ => rfl) fun _ => rfl) fun _ => .thenKeeps (extend_reach rfl _ _) fun _ =>
            .thenKeeps (wrFld_reach rfl _ _ _) fun _ => .thenKeeps (modSec_reach rfl _) fun _ => bootRest_keepsCounters _ _ _

/-! ## Register writes -/

/-- Every action that may be started is one that keeps the counters. -/
def ActsKeepCounters (o : Option (M Unit)) : Prop := ∀ m ∈ o, M.All Upd.KeepsCounters m

section
variable {m : M Unit}

theorem ActsKeepCounters.none : ActsKeepCounters none := by simp [ActsKeepCounters]

theorem ActsKeepCounters.some (h : M.All Upd.KeepsCounters m) : ActsKeepCounters (some m) := by simpa [ActsKeepCounters] using h

theorem ActsKeepCounters.reach (h : M.All (Upd.In 0xFDFFFF) m) : ActsKeepCounters (Option.some m) := .some h.keepsCounters

theorem ActsKeepCounters.ite {c : Prop} [Decidable c] {o p : Option (M Unit)} (ho : ActsKeepCounters o) (hp : ActsKeepCounters p) :
    ActsKeepCounters (if c then o else p) := by
  split <;> assumption

end

/-- Of the low pages' actions only SEC_SVN_COMMIT reaches storage. -/
theorem lowAction_keepsCounters (w : Requester) (off : Nat) (v : Word) : ActsKeepCounters (lowAction w off v) := by
  refine .ite (.reach (measurementExtend_reach rfl _ _ _)) <| .ite (.reach (attestationRequest_reach rfl _ _)) <|
    .ite (.reach (firmwareUpdate_reach rfl _ _)) <| .ite (.reach (returnToService_reach rfl _ _)) <| .ite (.some ?_) <|
    .ite (.ite (.reach (portCommand_reach rfl _ _)) <| .ite (.reach (wrReg_reach rfl _ _)) .none) <|
    .ite (.reach (timeStep_reach rfl _ _)) <| .ite (.reach (.ite (startService_reach rfl _) (.pure _))) <|
    .ite (.reach (dmaCommand_reach rfl _ _)) <| .ite (.reach (streamShareWrite_reach rfl _ _ _)) <|
    .ite (.reach (mmuInval_reach rfl _ _ _)) <| .ite (.reach (faultResume_reach rfl _ _ _ _)) <|
    .ite (.reach (fabJobCmd_reach rfl _ _ _ _)) .none
  exact .whenThen (svnCommit_keepsCounters _ _ _) fun _ => .ite (svnCommit_keepsCounters _ _ _) (.pure _)

/-- Of the high pages' actions none reaches storage. -/
theorem highAction_keepsCounters (s : State) (w : Requester) (off : Nat) (v : Word) : ActsKeepCounters (highAction s w off v) := by
  refine .ite (.reach (ispControl_reach rfl _)) <| .ite (.reach ?cam) <| .ite (.reach (exposureRequest_reach rfl _ _)) <|
    .ite (.reach (hallFlagThr_reach rfl _ _)) <| .ite (.reach (.ite (hallFlagAdv_reach rfl _) (.pure _))) <|
    .ite (.reach (hallRecordActivate_reach rfl _ _ _)) <| .ite (.reach (busListStart_reach rfl _ _ _)) <|
    .ite (.reach (rxReturn_reach rfl _ _ _)) <| .ite (.reach ?belay) <| .ite (.reach (sealWrite_reach rfl _)) <|
    .ite (.reach ?pipe) <| .ite (.reach (rcvCommand_reach rfl _)) <| .ite (.reach ?bist) <|
    .ite (.reach (bistBypassWrite_reach rfl _ _)) <| .ite (.reach (domainSwitch_reach rfl _ _ _)) .none
  case cam => exact .whenThen (camArm_reach rfl _) fun _ => .ite (camDisarm_reach rfl _) (.pure _)
  case belay => exact .whenThen (belayArm_reach rfl _) fun _ => .ite (modBelay_reach rfl _ _) (.pure _)
  case pipe => exact .whenThen (safeClear_reach rfl _) fun _ => .ite (safeEnter_reach rfl _) (.pure _)
  case bist =>
    have habort : ∀ _ : Unit, M.All (Upd.In 0xFDFFFF) (if fieldOf v Fld.bistCmdAbort = 1 then bistAbort w else pure ()) :=
      fun _ => .ite (bistAbort_reach rfl _) (.pure _)
    exact .ite (.bind (refuseReg_reach rfl _ _ _) habort) (.whenThen (bistStart_reach rfl _ _) habort)

theorem writeDefined_keepsCounters (w : Requester) (off : Nat) (r : RegDef) (wide high : Bool) (v : Word) :
    M.All Upd.KeepsCounters (writeDefined w off r wide high v) := by
  refine .bind .getS fun s => .ite (.keepsCounters (refuseReg_reach rfl _ _ _)) ?_
  split
  · next m hm =>
    have hacts : ActsKeepCounters (regAction s w off (mergeHalf r (s.stored off) wide high v)) :=
      .ite (lowAction_keepsCounters _ _ _) (highAction_keepsCounters _ _ _ _)
    exact hacts m hm
  · split
    · exact .keepsCounters (refuseReg_reach rfl _ _ _)
    · exact .thenKeeps (judgedEvents_reach rfl _ _ _) fun _ => .thenKeeps (settleWrite_reach rfl _ _ _) fun _ =>
        .ite (.keepsCounters (wdtKick_reach rfl _)) (.pure _)

theorem writeRegister_keepsCounters (w : Requester) (wide : Bool) (off : Nat) (v : Word) :
    M.All Upd.KeepsCounters (writeRegister w wide off v) := by
  refine .ite (.thenKeeps (decodeError_reach rfl _ _ _) fun _ => .keepsCounters (answer_reach rfl _ _)) ?_
  refine .thenKeeps (reachReg_reach rfl _ _) fun r => .ite (.thenKeeps (answer_reach rfl _ _) fun _ => ?_) (.pure _)
  dsimp only
  split
  · exact .pure _
  · exact writeDefined_keepsCounters _ _ _ _ _ _

theorem physRequest_keepsCounters (w : Requester) (isWrite : Bool) (pa n : Nat) (data : List Byte) (upset : Nat) :
    M.All Upd.KeepsCounters (physRequest w isWrite pa n data upset) := by
  have hend : ∀ _ : Unit, M.All (Upd.In 0xFDFFFF) (if upset = 2 then presenceChanged else pure ()) :=
    fun _ => .ite (presenceChanged_reach rfl) (.pure _)
  refine .bind .getS fun s => ?_
  dsimp only
  split
  · refine .ite (.thenKeeps (decodeError_reach rfl _ _ _) fun _ => .keepsCounters (answer_reach rfl _ _)) ?_
    exact .ite (writeRegister_keepsCounters _ _ _ _) (.keepsCounters (readRegister_reach rfl _ _ _))
  · refine .thenKeeps (upsetWord_reach rfl _ _) fun _ => .keepsCounters (.ite ?_ ?_)
    · refine .bind (physWrite_reach rfl _ _ _) fun e => ?_
      split <;> exact .bind (answer_reach rfl _ _) hend
    · refine .bind (physRead_reach rfl _ _ _) fun e => ?_
      split <;> exact .bind (answer_reach rfl _ _) hend

theorem memoryRequest_keepsCounters (w : Requester) (handle : Option Nat) (isWrite : Bool) (addr n : Nat) (data : List Byte) (upset : Nat) :
    M.All Upd.KeepsCounters (memoryRequest w handle isWrite addr n data upset) := by
  cases handle with
  | none => exact physRequest_keepsCounters _ _ _ _ _ _
  | some h =>
    refine .thenKeeps (translate_reach rfl _ _ _ _) fun r => ?_
    split
    · exact .keepsCounters (answer_reach rfl _ _)
    · exact physRequest_keepsCounters _ _ _ _ _ _

/-! ## Every command -/

/-- A command that may write storage keeps the counters as its meaning does. -/
theorem exec_countersFrom {i : Instr} {s t : State} (hs : s.store.rpmbKeyed = true) (h : exec i s = .next t) : s.CountersFrom t := by
  have of_all {m : M Unit} (hm : M.All Upd.KeepsCounters m) : s.CountersFrom (M.run m s) := (hm.run_steps s).countersFrom hs
  by_cases hi : mayWriteStorage i = true
  · cases i
    case registerWrite => exact always_run h ▸ of_all (writeRegister_keepsCounters _ _ _ _)
    case memoryRequest => exact (whenEnabled_cases (show execMemoryRequest _ _ _ _ _ _ _ s = .next t from h)).2 ▸ of_all (memoryRequest_keepsCounters _ _ _ _ _ _ _)
    case boot => exact (whenEnabled_cases (show execBoot _ _ _ _ s = .next t from h)).2 ▸ run_boot_countersFrom hs _ _ _ _
    case updateWriteDone => exact (whenEnabled_cases (show execUpdateWriteDone _ s = .next t from h)).2 ▸ of_all (updateWritten_keepsCounters _)
    case updateCommit => exact (whenEnabled_cases (show execUpdateCommit s = .next t from h)).2 ▸ of_all updateCommit_keepsCounters
    case svnCommitBcc => exact always_run h ▸ of_all (svnCommit_keepsCounters _ _ _)
    case svnCommitApp => exact always_run h ▸ of_all (svnCommit_keepsCounters _ _ _)
    all_goals exact absurd hi Bool.false_ne_true
  · exact .of_store hs (store_of_exec (Bool.eq_false_iff.mpr hi) h)

/-- Settles O58: a tick keeps storage, and every update of a command keeps the key and lowers no counter. -/
theorem rollbackCountersNeverDecrease : Obligations.RollbackCountersNeverDecrease := by
  intro s t hs h
  rcases step_cases h with ⟨-, rfl⟩ | ⟨c, rest, -, h⟩
  · exact State.CountersFrom.refl hs
  · exact exec_countersFrom (s := { s with pending := rest }) hs h

end Sys2Proof.Machine
end

section
/-! PROOFS. Contexts and buffers (R48 to R56, R76, R116, R117): how they are created, registered and removed. -/

namespace Sys2Proof.Machine

open Sys2Proof

/-! ## Creation of contexts -/

section
variable {s : State} {id : Nat} {physical : Bool} {root ceiling : Nat} {safety : Bool} {quota eventQueue : Nat}

/-- The generation a context ID takes next (R56). -/
def State.nextGen (s : State) (id : Nat) : Nat :=
  match tblFind s.tally.contexts id with
  | some x => (x.gen + 1) % 256
  | none => 1

/-- A context just created. -/
def newCtx (gen : Nat) (physical : Bool) (root ceiling : Nat) (safety : Bool) (quota eventQueue : Nat) : Ctx :=
  ⟨.live, gen, physical, root, ceiling, safety, quota, eventQueue, [], [], 0, 0, [], 0, 0⟩

/-- The attributes CREATE_CONTEXT takes (R116, R117). -/
def goodAttributes (root ceiling quota : Nat) : Prop := ceiling ≤ 7 ∧ 16 ≤ quota ∧ quota ≤ 262144 ∧ root % 4096 = 0 ∧ root < 2 ^ 40

/-- A context ID that stands for no context. -/
def State.idFree (s : State) (id : Nat) : Prop := ∀ x, tblFind s.tally.contexts id = some x → x.phase = .free

theorem goodAttributes_iff : goodAttributes root ceiling quota ↔
    ¬ (7 < ceiling ∨ quota < 16 ∨ 262144 < quota ∨ root % 4096 ≠ 0 ∨ 2 ^ 40 ≤ root) := by
  rw [goodAttributes]
  omega

theorem idFree_iff : s.idFree id ↔ ((tblFind s.tally.contexts id).map fun c => c.phase != .free).getD false = false := by
  rw [State.idFree]
  cases tblFind s.tally.contexts id <;> simp

/-- CREATE_CONTEXT by cases. -/
theorem exec_createContext : exec (.createContext id physical root ceiling safety quota eventQueue) s = .next (
    if s.rcv.bivouac = true then M.run (status 0x20) s
    else if 7 < ceiling ∨ quota < 16 ∨ 262144 < quota ∨ root % 4096 ≠ 0 ∨ 2 ^ 40 ≤ root then M.run (status 0x12) s
    else if 4096 ≤ id ∨ ((tblFind s.tally.contexts id).map fun c => c.phase != .free).getD false = true then M.run (status 0x1B) s
    else (Upd.out fun _ => some ⟨true, leBytes 1 0 ++ leBytes 3 (s.nextGen id * 4096 + id)⟩).apply
      ((Upd.tally fun x => { x with contexts := tblSet x.contexts id (newCtx (s.nextGen id) physical root ceiling safety quota eventQueue) }).apply s)) := by
  change Host.Outcome.next (M.run (createContext id physical root ceiling safety quota eventQueue) s) = _
  rw [createContext, run_getS_bind]
  dsimp only
  rw [run_ite, run_ite, run_ite]
  rfl

/-- A live context found by its handle. -/
theorem ctx_tblSet (hid : id < 4096) {c : Ctx} (hlive : c.phase = .live) (t : State) (h : t.tally.contexts = tblSet s.tally.contexts id c) :
    t.ctx (c.gen * 4096 + id) = some c := by
  have hmod : (c.gen * 4096 + id) % 4096 = id := by omega
  have hdiv : (c.gen * 4096 + id) / 4096 = c.gen := by omega
  rw [State.ctx, State.ctxAt, h, hmod, tblFind_tblSet_same, hdiv]
  simp [hlive]

end

/-- Settles O15: the three refusals are the command's tests in their order, and what passes them sets one entry. -/
theorem contextsAreCreatedWithTheNextGeneration : Obligations.ContextsAreCreatedWithTheNextGeneration := by
  intro s id physical root ceiling safety quota eventQueue
  refine ⟨fun hup hgood hid hfree => ?_, fun hup hbad => ?_, fun hup hgood hused => ?_, fun hdown => ?_⟩
  · refine ⟨_, exec_createContext, ?_⟩
    rw [if_neg (by simp [hup]), if_neg (goodAttributes_iff.mp hgood), if_neg (by simp [hid, idFree_iff.mp hfree])]
    have hctx := ctx_tblSet (s := s) (c := newCtx (s.nextGen id) physical root ceiling safety quota eventQueue) hid rfl
    exact ⟨(Upd.sameBut_of _ s).upd _, rfl, rfl, hctx _ rfl, fun i hi => tblFind_tblSet _ _ hi⟩
  · refine ⟨_, exec_createContext, ?_⟩
    rw [if_neg (by simp [hup]), if_pos (not_not.mp fun h => hbad (goodAttributes_iff.mpr h))]
    exact run_status 0x12 s
  · refine ⟨_, exec_createContext, ?_⟩
    rw [if_neg (by simp [hup]), if_neg (goodAttributes_iff.mp hgood), if_pos]
    · exact run_status 0x1B s
    · by_contra hnone
      rw [not_or, not_le, Bool.not_eq_true] at hnone
      exact hused ⟨hnone.1, idFree_iff.mpr hnone.2⟩
  · refine ⟨_, exec_createContext, ?_⟩
    rw [if_pos hdown]
    exact run_status 0x20 s

/-! ## Buffers -/

section
variable {s : State} {h base len : Nat} {c : Ctx}

/-- An extent that a context may register (R48, R50): aligned, canonical in its addressing, and apart from its buffers. -/
def State.registrable (s : State) (h : Nat) (c : Ctx) (base len : Nat) : Prop :=
  base % 64 = 0 ∧ len % 64 = 0 ∧ len ≠ 0 ∧
    (if c.physical then base + len ≤ 2 ^ 40
      else canonical base = true ∧ canonical (base + len - 1) = true ∧ ¬ (base < 2 ^ 47 ∧ 2 ^ 47 < base + len)) ∧
    ∀ b ∈ s.tally.buffers, b.handle = h → b.base + b.length ≤ base ∨ base + len ≤ b.base

theorem overlap_eq_false_iff (a n b m : Nat) : overlap a n b m = false ↔ a + n ≤ b ∨ b + m ≤ a := by
  simp only [overlap, Bool.and_eq_false_iff, decide_eq_false_iff_not]
  omega

/-- The test of REGISTER_BUFFER. -/
theorem registrable_iff : s.registrable h c base len ↔ (base % 64 != 0 || len % 64 != 0 || len == 0
      || (if c.physical then decide (2 ^ 40 < base + len)
          else !canonical base || !canonical (base + len - 1) || decide (base < 2 ^ 47 ∧ 2 ^ 47 < base + len))
      || s.tally.buffers.any fun b => b.handle == h && overlap b.base b.length base len) = false := by
  rw [State.registrable]
  simp only [Bool.or_eq_false_iff, bne_eq_false_iff_eq, beq_eq_false_iff_ne, List.any_eq_false, Bool.and_eq_true, beq_iff_eq, not_and,
    Bool.not_eq_true, overlap_eq_false_iff, and_assoc]
  cases c.physical <;> simp [and_assoc]

theorem run_registerBuffer_refused (hc : s.ctx h = some c) (hbad : ¬ s.registrable h c base len) :
    M.run (registerBuffer h base len) s = M.run (status 0x17) s := by
  rw [registerBuffer, run_getS_bind, hc]
  dsimp only
  rw [if_pos ((Bool.not_eq_false _).mp fun hb => hbad (registrable_iff.mpr hb))]

theorem run_registerBuffer_taken (hc : s.ctx h = some c) (hgood : s.registrable h c base len) (hroom : s.tally.buffers.length < 65536)
    (hown : (s.tally.buffers.filter fun b => b.handle == h).length < 1024) :
    M.run (registerBuffer h base len) s = (Upd.out fun _ => some ⟨true, leBytes 1 0⟩).apply
      ((Upd.tally fun x => { x with buffers := x.buffers ++ [⟨h, base, len, false⟩] }).apply s) := by
  rw [registerBuffer, run_getS_bind, hc]
  dsimp only
  rw [if_neg (by rw [registrable_iff.mp hgood]; exact Bool.false_ne_true), if_neg (by omega)]
  rfl

/-- A handle that is no live context is answered with status 0x18. -/
theorem run_registerBuffer_stale (hc : s.ctx h = none) : M.run (registerBuffer h base len) s = M.run (status 0x18) s := by
  rw [registerBuffer, run_getS_bind, hc]

theorem run_deregisterBuffer_stale (hc : s.ctx h = none) : M.run (deregisterBuffer h base) s = M.run (status 0x18) s := by
  rw [deregisterBuffer, run_getS_bind, if_pos (by simp [hc])]

/-- A buffer as its deregistration leaves it. -/
def Buffer.marked (h base : Nat) (b : Buffer) : Buffer := if b.handle = h ∧ b.base = base then { b with dereg := true } else b

theorem run_deregisterBuffer (hc : s.ctx h = some c) (hb : ∃ b ∈ s.tally.buffers, b.handle = h ∧ b.base = base) :
    M.run (deregisterBuffer h base) s = (Upd.out fun _ => some ⟨true, leBytes 1 0⟩).apply
      ((Upd.tally fun x => { x with buffers := x.buffers.map (Buffer.marked h base) }).apply s) := by
  rw [deregisterBuffer, run_getS_bind, if_neg (by simp [hc]), if_neg (by simpa using hb)]
  rfl

/-- A marked buffer keeps its handle and its base, and no other buffer is changed. -/
theorem mem_map_marked {l : List Buffer} {b : Buffer} (hb : b.handle ≠ h ∨ b.base ≠ base) : b ∈ l.map (Buffer.marked h base) ↔ b ∈ l := by
  have hother : ¬ (b.handle = h ∧ b.base = base) := by tauto
  rw [List.mem_map]
  constructor
  · rintro ⟨x, hx, rfl⟩
    by_cases hxb : x.handle = h ∧ x.base = base
    · exact absurd (by simp [Buffer.marked, hxb]) hother
    · rwa [Buffer.marked, if_neg hxb]
  · exact fun hm => ⟨b, hm, if_neg hother⟩

theorem dereg_of_mem_map_marked {l : List Buffer} {b : Buffer} (hm : b ∈ l.map (Buffer.marked h base)) (hh : b.handle = h) (hbase : b.base = base) :
    b.dereg = true := by
  obtain ⟨x, -, rfl⟩ := List.mem_map.mp hm
  by_cases hxb : x.handle = h ∧ x.base = base
  · rw [Buffer.marked, if_pos hxb]
  · rw [Buffer.marked, if_neg hxb] at hh hbase
    exact absurd ⟨hh, hbase⟩ hxb

/-- A marked buffer that no task names can go. -/
theorem deregReady_of (hsort : tblSorted s.tally.tasks = true) {b : Buffer} (hb : b ∈ s.tally.buffers) (hh : b.handle = h) (hbase : b.base = base)
    (hmark : b.dereg = true) (hunnamed : ∀ t k, s.task t = some k → s.namesBuffer k b = false) : s.deregReady h base = true := by
  refine List.any_eq_true.mpr ⟨b, hb, ?_⟩
  have hnone : (s.tally.tasks.any fun p => s.namesBuffer p.2 b) = false :=
    List.any_eq_false.mpr fun p hp => by simp [hunnamed p.1 p.2 ((tblFind_eq_some_iff hsort _ _).mpr hp)]
  simp [hh, hbase, hmark, hnone]

theorem deregReady_of_unmarked (hmark : ∀ b ∈ s.tally.buffers, b.handle = h → b.base = base → b.dereg = false) : s.deregReady h base = false := by
  refine List.any_eq_false.mpr fun b hb hready => ?_
  simp only [Bool.and_eq_true, beq_iff_eq] at hready
  obtain ⟨⟨⟨hh, hbase⟩, hd⟩, -⟩ := hready
  exact Bool.false_ne_true ((hmark b hb hh hbase).symm.trans hd)

end

/-- Settles O16: the command's test of an extent is the statement's; a deregistration marks what matches, and its completion keeps what does
not. -/
theorem buffersAreRegisteredApart : Obligations.BuffersAreRegisteredApart := by
  intro s h base len c
  refine ⟨fun hc hgood hroom hown => ?_, fun hc hbad => ?_, fun hc hb => ?_, fun b hb hh hbase hmark hunnamed hsort => ?_, fun hmark => ?_,
    fun hc => ⟨?_, ?_⟩⟩
  · exact ⟨_, always_of_run (run_registerBuffer_taken hc hgood hroom hown), (Upd.sameBut_of _ s).upd _, rfl, rfl⟩
  · exact ⟨_, always_of_run (run_registerBuffer_refused hc hbad), run_status 0x17 s⟩
  · exact ⟨_, always_of_run (run_deregisterBuffer hc hb), (Upd.sameBut_of _ s).upd _, rfl, rfl, fun b hm => dereg_of_mem_map_marked hm,
      fun b hb => mem_map_marked hb⟩
  · change ∃ t, execDeregistrationComplete h base s = _ ∧ _
    refine ⟨_, whenEnabled_next (deregReady_of hsort hb hh hbase hmark hunnamed), Upd.sameBut _ s, rfl, fun x => ?_⟩
    refine List.mem_filter.trans (and_congr_right fun _ => ?_)
    simp [imp_iff_not_or]
  · change execDeregistrationComplete h base s = _
    exact whenEnabled_refused (deregReady_of_unmarked hmark)
  · exact ⟨_, always_of_run (run_registerBuffer_stale hc), run_status 0x18 s⟩
  · exact ⟨_, always_of_run (run_deregisterBuffer_stale hc), run_status 0x18 s⟩

end Sys2Proof.Machine
end

section
/-! PROOFS. Upkeep of DDR and invalidation of translations (R30 to R35, R44, R45). -/

namespace Sys2Proof.Machine

open Sys2Proof

/-! ## Scrubbing -/

/-- States that differ in bytes, registers, queues and the memory system's cache and weak words alone, the weak words being those that pass a
test. -/
structure State.Scrubbed (s : State) (keep : Nat → Prop) (t : State) : Prop where
  frame : s.SameBut [.mem, .regs, .sys, .tally] t
  sys : t.sys = { s.sys with cache := t.sys.cache, weakWords := t.sys.weakWords }
  weak : ∀ w, w ∈ t.sys.weakWords ↔ w ∈ s.sys.weakWords ∧ keep w

section
variable {s t u : State} {p q : Nat → Prop}

theorem State.Scrubbed.of_quiet (h : Quiet s t) : s.Scrubbed (fun _ => True) t where
  frame := h.sameBut.mono (by decide)
  sys := by rw [h.rest]
  weak w := by rw [h.rest]; simp

theorem State.Scrubbed.of_reg (s : State) (off : Nat) (v : Word) : s.Scrubbed (fun _ => True) ((Upd.reg off v).apply s) where
  frame := Upd.sameBut_of _ s
  sys := rfl
  weak w := by rw [and_true]; rfl

theorem State.Scrubbed.trans (h : s.Scrubbed p t) (k : t.Scrubbed q u) : s.Scrubbed (fun w => p w ∧ q w) u where
  frame := h.frame.trans k.frame
  sys := by rw [k.sys, h.sys]
  weak w := by rw [k.weak, h.weak, and_assoc]

theorem State.Scrubbed.congr (h : s.Scrubbed p t) (hpq : ∀ w, p w ↔ q w) : s.Scrubbed q t :=
  ⟨h.frame, h.sys, fun w => (h.weak w).trans (and_congr_right fun _ => hpq w)⟩

/-- Correcting a word takes it off the weak ones, whatever its count brings. -/
theorem eccCorrected_leads (w : Nat) (s : State) : (eccCorrected w).Leads s fun _ t => s.Scrubbed (· ≠ w) t := by
  have hfirst : s.Scrubbed (· ≠ w) ((Upd.sys fun m => { m with weakWords := m.weakWords.filter (· ≠ w) }).apply s) :=
    ⟨Upd.sameBut_of _ s, rfl, fun x => by simp [List.mem_filter]⟩
  have hrest {t : State} (h : ((Upd.sys fun m => { m with weakWords := m.weakWords.filter (· ≠ w) }).apply s).Scrubbed (fun _ => True) t) :
      s.Scrubbed (· ≠ w) t := (hfirst.trans h).congr fun _ => by rw [and_true]
  refine .upd (.getS ?_)
  split
  · refine (bump_gives _ _ _ _).leads_bind (.getS ?_)
    dsimp only
    split
    · exact (wrFld_gives _ _ _ _).leads_bind ((raise_gives _ _ _ _ _).leads
        (hrest ((((State.Scrubbed.of_reg ..).trans (.of_reg ..)).trans (.of_quiet (State.afterEvent_quiet ..))).congr fun _ => by simp)))
    · exact .pure (hrest (.of_reg ..))
  · exact .pure hfirst

/-- Below the tiles lies DDR, or nothing. -/
theorem place_of_lt {w : Nat} (hw : w < 0x4000000000) (s : State) : s.place w = .hole ∨ ∃ p off, s.place w = .ddr p off := by
  unfold State.place
  split
  · exact .inl rfl
  · dsimp only
    split
    · exact .inr ⟨_, _, rfl⟩
    · exact .inl rfl

theorem lt_of_channelOf {w c : Nat} (h : s.channelOf w = some c) : w < 0x4000000000 := by
  by_contra hw
  have hplace : ∀ p off, s.place w ≠ .ddr p off := by
    intro p off
    unfold State.place
    rw [if_neg hw]
    split
    · simp
    · dsimp only
      split_ifs <;> simp
  unfold State.channelOf at h
  split at h
  · next p off hp => exact hplace p off hp
  · cases h

/-- Reporting an uncorrectable DDR word touches no engine, and leaves the memory system's words. -/
theorem eccFailed_leads (who kind : Nat) {w : Nat} (hw : w < 0x4000000000) (s : State) :
    (eccFailed who w kind).Leads s fun _ t => s.Scrubbed (fun _ => True) t := by
  refine .getS ?_
  rcases place_of_lt hw s with hp | ⟨p, off, hp⟩
  · rw [hp]
    exact .pure (.of_quiet (.refl s))
  · rw [hp]
    exact .upd ((raise_gives _ _ _ _ _).leads ((State.Scrubbed.of_reg ..).trans (.of_quiet (State.afterEvent_quiet ..)) |>.congr fun _ => by simp))

end

/-- The weak words of a channel, as the state and the scrub know them. -/
def State.weakOf (s : State) (c : Nat) (weak : List Nat) : List Nat := (s.sys.weakWords.filter fun w => s.channelOf w == some c) ++ weak

theorem mem_weakOf {s : State} {c : Nat} {weak : List Nat} (h : ∀ w ∈ weak, s.channelOf w = some c) {w : Nat} (hw : w ∈ s.sys.weakWords) :
    w ∉ s.weakOf c weak ↔ s.channelOf w ≠ some c := by
  simp only [State.weakOf, List.mem_append, List.mem_filter, beq_iff_eq, not_or, not_and]
  exact ⟨fun ⟨hnot, _⟩ => hnot hw, fun hnot => ⟨fun _ => hnot, fun hm => hnot (h w hm)⟩⟩

/-- The state with a mark set now. -/
def State.marked (s : State) (mark : Nat) : State := (Upd.sys fun m => { m with marks := tblSet m.marks mark s.clock.now }).apply s

theorem setMark_gives (mark : Nat) (s : State) : (setMark mark).gives s () (s.marked mark) := fun _ => rfl

theorem correctAll_leads (l : List Nat) (s : State) : (forIn l PUnit.unit fun w _ => do
    eccCorrected w
    pure (.yield PUnit.unit) : M PUnit).Leads s fun _ t => s.Scrubbed (· ∉ l) t :=
  .forIn (P := fun w s t => s.Scrubbed (· ≠ w) t) (R := fun l s t => s.Scrubbed (· ∉ l) t)
    (fun s => (State.Scrubbed.of_quiet (.refl s)).congr fun _ => by simp)
    (fun x l _ _ _ h k => (h.trans k).congr fun _ => by rw [List.mem_cons, not_or]) l (fun w _ s => (eccCorrected_leads w s).turn) s

theorem failAll_leads (who kind : Nat) {l : List Nat} (hl : ∀ w ∈ l, w < 0x4000000000) (s : State) : (forIn l PUnit.unit fun w _ => do
    eccFailed who w kind
    pure (.yield PUnit.unit) : M PUnit).Leads s fun _ t => s.Scrubbed (fun _ => True) t :=
  .forIn (P := fun _ s t => s.Scrubbed (fun _ => True) t) (R := fun _ s t => s.Scrubbed (fun _ => True) t)
    (fun s => .of_quiet (.refl s)) (fun _ _ _ _ _ h k => (h.trans k).congr fun _ => by simp) l
    (fun w hw s => (eccFailed_leads who kind (hl w hw) s).turn) s

/-- What a scrub leaves (R33, R34). -/
theorem patrolScrub_leads {s : State} {c : Nat} {weak bad : List Nat} (hweak : ∀ w ∈ weak, s.channelOf w = some c)
    (hbad : ∀ w ∈ bad, s.channelOf w = some c) : (patrolScrub c weak bad).Leads s fun _ t => s.SameBut [.mem, .regs, .sys, .tally] t ∧
      (∀ w, w ∈ t.sys.weakWords ↔ w ∈ s.sys.weakWords ∧ s.channelOf w ≠ some c) ∧
      (∀ w, w ∈ t.sys.badWords ↔ w ∈ s.sys.badWords ∨ w ∈ bad) ∧
      t.sys.tlb = s.sys.tlb ∧ tblFind t.sys.marks c = some s.clock.now := by
  refine .getS ((setMark_gives c s).leads_bind (.bind ((correctAll_leads _ _).mono fun _ t ht => .upd (.bind ?_))))
  refine (failAll_leads 0xFF 1 (fun w hw => lt_of_channelOf (hbad w (List.mem_dedup.mp hw))) _).mono fun _ u hu => .pure ?_
  refine ⟨((Upd.sameBut_of _ s).trans ht.frame |>.upd _).trans hu.frame, fun w => ?_, fun w => ?_, ?_, ?_⟩
  · rw [hu.weak, and_true]
    refine (ht.weak w).trans (and_congr_right fun hw => ?_)
    rw [List.mem_dedup]
    exact mem_weakOf hweak hw
  · rw [hu.sys]
    change w ∈ (t.sys.badWords ++ bad).dedup ↔ _
    rw [List.mem_dedup, List.mem_append, ht.sys]
    rfl
  · rw [hu.sys]
    change t.sys.tlb = _
    rw [ht.sys]
    rfl
  · rw [hu.sys]
    change tblFind t.sys.marks c = _
    rw [ht.sys]
    exact tblFind_tblSet_same _ _ _

/-! ## Training -/

/-- What training leaves of one channel (R30, R35). -/
structure State.ChannelTrained (s : State) (good : Bool) (gib c : Nat) (t : State) : Prop where
  frame : s.SameBut [.regs] t
  canonical : t.Canonical
  regs : ∀ x, x ≠ Reg.mcCtl c → x ≠ Reg.mcStatus c → t.reg x = s.reg x
  trained : t.fld (Reg.mcStatus c) Fld.mcStatusTrained = flagBit good
  capacity : t.fld (Reg.mcStatus c) Fld.mcStatusCapacityGib = if good then gib else 0
  selfRefresh : t.fld (Reg.mcStatus c) Fld.mcStatusSelfRefresh = flagBit !good

/-- The end of a channel's training. -/
theorem endTraining_leads {s t : State} {good : Bool} {gib c : Nat} (hframe : s.SameBut [.regs] t) (ht : t.Canonical)
    (hregs : ∀ x, x ≠ Reg.mcCtl c → x ≠ Reg.mcStatus c → t.reg x = s.reg x)
    (hcap : t.fld (Reg.mcStatus c) Fld.mcStatusCapacityGib = if good then gib else 0) :
    M.Leads (do
      wrFld (Reg.mcStatus c) Fld.mcStatusTrained (flagBit good)
      wrFld (Reg.mcStatus c) Fld.mcStatusSelfRefresh (flagBit !good)
      pure (ForInStep.yield PUnit.unit)) t fun r u => r = ForInStep.yield PUnit.unit ∧ s.ChannelTrained good gib c u := by
  have hbit (b : Bool) : flagBit b < 2 ^ 1 := by cases b <;> decide
  have h1 := State.canonical_putFld ht (Reg.mcStatus c) Fld.mcStatusTrained (flagBit good)
  refine (wrFld_gives _ _ _ _).leads_bind ((wrFld_gives _ _ _ _).leads_bind (.pure ⟨rfl, hframe.upd _ |>.upd _, State.canonical_putFld h1 _ _ _, fun x hc hx => ?_, ?_, ?_, ?_⟩))
  · rw [State.reg_putFld h1, if_neg hx, State.reg_putFld ht, if_neg hx, hregs x hc hx]
  · rw [State.fld_putFld_apart h1 (by decide), State.fld_putFld_same ht (by decide) (hbit good)]
  · rw [State.fld_putFld_apart h1 (by decide), State.fld_putFld_apart ht (by decide), hcap]
  · rw [State.fld_putFld_same h1 (by decide) (hbit _)]

/-- Whether a pair trains: both channels given, listed and alike (R22, R35). -/
def pairGood (a b : Option DdrConf) : Bool :=
  match a, b with
  | some x, some y => x.gib != 0 && y.gib != 0 && x.ranks == y.ranks && x.density == y.density && x.gib == y.gib
  | _, _ => false

theorem DdrConf.gib_lt (d : DdrConf) : d.gib < 64 := by
  unfold DdrConf.gib
  split_ifs <;> omega

/-- One channel of a pair in training. -/
theorem trainChannel_leads {s : State} (hs : s.Canonical) (good : Bool) (d : Option DdrConf) (speed c : Nat) :
    M.Leads (do
      if good then
        wrFld (Reg.mcCtl c) Fld.mcCtlEccMode (flagBit ((d.map (·.width)) == some 4))
        wrFld (Reg.mcStatus c) Fld.mcStatusCapacityGib ((d.map (·.gib)).getD 0)
        wrFld (Reg.mcStatus c) Fld.mcStatusSpeedRun speed
      else wrFld (Reg.mcStatus c) Fld.mcStatusCapacityGib 0
      wrFld (Reg.mcStatus c) Fld.mcStatusTrained (flagBit good)
      wrFld (Reg.mcStatus c) Fld.mcStatusSelfRefresh (flagBit !good)
      pure (ForInStep.yield PUnit.unit)) s
    fun r t => r = ForInStep.yield PUnit.unit ∧ s.ChannelTrained good ((d.map (·.gib)).getD 0) c t := by
  have hgib : (d.map (·.gib)).getD 0 < 2 ^ 6 := by
    cases d with
    | none => decide
    | some d => exact d.gib_lt
  cases good with
  | false =>
    have hcap : (s.putFld (Reg.mcStatus c) Fld.mcStatusCapacityGib 0).fld (Reg.mcStatus c) Fld.mcStatusCapacityGib = 0 :=
      State.fld_putFld_same hs (by decide) (by decide)
    refine (wrFld_gives _ _ _ _).leads_bind (endTraining_leads (State.sameBut_putFld ..) (State.canonical_putFld hs ..) (fun x _ hx => ?_) hcap)
    rw [State.reg_putFld hs, if_neg hx]
  | true =>
    have h1 := State.canonical_putFld hs (Reg.mcCtl c) Fld.mcCtlEccMode (flagBit ((d.map (·.width)) == some 4))
    have h2 := State.canonical_putFld h1 (Reg.mcStatus c) Fld.mcStatusCapacityGib ((d.map (·.gib)).getD 0)
    have h3 := State.canonical_putFld h2 (Reg.mcStatus c) Fld.mcStatusSpeedRun speed
    refine (wrFld_gives _ _ _ _).leads_bind ((wrFld_gives _ _ _ _).leads_bind ((wrFld_gives _ _ _ _).leads_bind
      (endTraining_leads (((State.sameBut_putFld ..).upd _).upd _) h3 (fun x hc hx => ?_) ?_)))
    · rw [State.reg_putFld h2, if_neg hx, State.reg_putFld h1, if_neg hx, State.reg_putFld hs, if_neg hc]
    · rw [State.fld_putFld_apart h2 (by decide), State.fld_putFld_same h1 (by decide) hgib]
      rfl

theorem training_leads {s : State} (hs : s.Canonical) (p : Nat) :
    (training p).Leads s fun _ t => ∃ u,
      (s.marked (48 + p)).ChannelTrained (pairGood (tblFind s.sys.ddr (2 * p)) (tblFind s.sys.ddr (2 * p + 1)))
        (((tblFind s.sys.ddr (2 * p)).map (·.gib)).getD 0) (2 * p) u ∧
      u.ChannelTrained (pairGood (tblFind s.sys.ddr (2 * p)) (tblFind s.sys.ddr (2 * p + 1)))
        (((tblFind s.sys.ddr (2 * p + 1)).map (·.gib)).getD 0) (2 * p + 1) t := by
  refine .getS ((setMark_gives (48 + p) s).leads_bind ?_)
  dsimp only
  have hmarked : (s.marked (48 + p)).Canonical := Upd.apply_canonical _ _ hs
  rw [List.forIn_cons]
  refine .bind (.bind ((trainChannel_leads hmarked _ (tblFind s.sys.ddr (2 * p)) _ (2 * p)).mono ?_))
  rintro _ u ⟨rfl, hu⟩
  dsimp only
  rw [List.forIn_cons]
  refine .bind ((trainChannel_leads hu.canonical _ (tblFind s.sys.ddr (2 * p + 1)) _ (2 * p + 1)).mono ?_)
  rintro _ t ⟨rfl, ht⟩
  exact .pure (.pure ⟨u, hu, ht⟩)

/-- Both channels of a pair, and no other register, are trained alike. -/
theorem training_fields {s u t : State} {p gibA gibB : Nat} {good : Bool} (hu : s.ChannelTrained good gibA (2 * p) u)
    (ht : u.ChannelTrained good gibB (2 * p + 1) t) {c : Nat} (hc : c / 2 = p) :
    t.fld (Reg.mcStatus c) Fld.mcStatusTrained = flagBit good ∧
    t.fld (Reg.mcStatus c) Fld.mcStatusCapacityGib = (if good then (if c = 2 * p then gibA else gibB) else 0) ∧
    t.fld (Reg.mcStatus c) Fld.mcStatusSelfRefresh = flagBit !good := by
  have hfld (f : Field) : t.fld (Reg.mcStatus (2 * p)) f = u.fld (Reg.mcStatus (2 * p)) f := by
    rw [State.fld, State.fld, ht.regs _ (by simp only [Reg.mcStatus, Reg.mcCtl]; omega) (by simp only [Reg.mcStatus]; omega)]
  obtain rfl | rfl : c = 2 * p ∨ c = 2 * p + 1 := by omega
  · rw [hfld, hfld, hfld, if_pos rfl]
    exact ⟨hu.trained, hu.capacity, hu.selfRefresh⟩
  · rw [if_neg (c := 2 * p + 1 = 2 * p) (by omega)]
    exact ⟨ht.trained, ht.capacity, ht.selfRefresh⟩

/-! ## Invalidation -/

theorem run_mmuInval_of_ne_bcc {w : Requester} (hw : w ≠ .bcc) (h : Nat) (all : Bool) (s : State) :
    M.run (mmuInval w h all) s = refusedWrite s Reg.mmuInval (h % 2 ^ 20 + flagBit all * 2 ^ 20) 0 := by
  rw [mmuInval, run_getS_bind, if_pos hw, run_refuseReg]

theorem run_mmuInval_busy {s : State} {i : Inval} (hi : s.sys.inval = some i) (h : Nat) (all : Bool) :
    M.run (mmuInval .bcc h all) s = s.afterEvent 0x84 6 0x3005 (det [(4, h % 2 ^ 20)]) := by
  rw [mmuInval, run_getS_bind, if_neg (not_not.mpr rfl), if_pos (by simp [hi])]
  rfl

theorem run_mmuInval_free {s : State} (hi : s.sys.inval = none) (h : Nat) (all : Bool) :
    M.run (mmuInval .bcc h all) s = ((Upd.sys fun m => { m with inval := some ⟨h % 2 ^ 20, all,
      s.fld Reg.mmuInvalVa Fld.mmuInvalVaBase, s.fld Reg.mmuInvalPages Fld.mmuInvalPagesPagesM1 + 1⟩ }).apply s).putFld
        Reg.mmuInvalStatus Fld.mmuInvalStatusDone 0 := by
  rw [mmuInval, run_getS_bind, if_neg (not_not.mpr rfl), if_neg (by simp [hi])]
  rfl

theorem Quiet.sys {s t : State} (h : Quiet s t) : t.sys = { s.sys with cache := t.sys.cache } := by rw [h.rest]

theorem run_mmuInvalDone {s : State} {i : Inval} (hi : s.sys.inval = some i) :
    M.run mmuInvalDone s = ((Upd.sys fun m => { m with inval := none }).apply
      ((Upd.sys fun m => { m with tlb := m.tlb.filter fun x => !i.covers x.2 }).apply s)).putFld Reg.mmuInvalStatus Fld.mmuInvalStatusDone 1 := by
  rw [mmuInvalDone, run_getS_bind, hi]
  rfl

/-- Settles O13: the scrub and the training by what their loops leave, the rest by the one or two updates they make. -/
theorem ddrUpkeepAndInvalidation : Obligations.DdrUpkeepAndInvalidation := by
  intro s hs
  refine ⟨fun c weak bad hserves hdue hwords hapart => ?_, fun c r hserves hr hdue hpair hother => ?_, fun c r hot hserves hr hdue => ?_,
    fun p hp => ?_, fun h all hfree => ?_, fun h all i hi => ?_, fun w h all hw => ?_, fun i hi => ?_, fun hnone => ?_⟩
  · change ∃ t, execPatrolScrub c weak bad s = _ ∧ _
    refine ⟨_, whenEnabled_next ?_, (patrolScrub_leads (fun w hw => (hwords w (.inl hw)).1) fun w hw => (hwords w (.inr hw)).1).run⟩
    have hall : ((weak ++ bad).all fun w => s.channelOf w == some c && w % s.eccSize w == 0) = true :=
      List.all_eq_true.mpr fun w hw => by simp [hwords w (List.mem_append.mp hw)]
    have hany : weak.any bad.contains = false := List.any_eq_false.mpr fun w hw => by simp [hapart w hw]
    rw [hserves, hdue, hall, hany]
    rfl
  · change ∃ t, execDriftTracking c r s = _ ∧ _
    refine ⟨_, whenEnabled_next ?_, Upd.sameBut _ s, rfl⟩
    have hall : ((List.range 2).all fun r => match tblFind s.sys.marks (16 + 2 * (if c % 2 = 0 then c + 1 else c - 1) + r) with
        | some t => t / msUnits 128 != s.clock.now / msUnits 128
        | none => true) = true := by
      refine List.all_eq_true.mpr fun r' hr' => ?_
      have hmark := hother r' (List.mem_range.mp hr')
      cases hm : tblFind s.sys.marks (16 + 2 * (if c % 2 = 0 then c + 1 else c - 1) + r') with
      | none => rfl
      | some m => exact bne_iff_ne.mpr (hmark m hm)
    rw [hserves, hdue, hpair, decide_eq_true hr]
    exact hall
  · change ∃ t, execRefresh c r hot s = _ ∧ _
    refine ⟨_, whenEnabled_next ?_, Upd.sameBut _ s, rfl⟩
    rw [hserves, hdue, decide_eq_true hr]
    rfl
  · refine ⟨_, whenEnabled_of_decide hp (training p) s, ?_⟩
    obtain ⟨u, hu, ht⟩ := (training_leads hs p).run
    refine ⟨((Upd.sameBut_of _ s).trans (hu.frame.mono (by decide))).trans (ht.frame.mono (by decide)), fun x hx => ?_, fun c hc => ⟨?_, ?_⟩⟩
    · obtain ⟨ha, ha'⟩ := hx (2 * p) (by omega)
      obtain ⟨hb, hb'⟩ := hx (2 * p + 1) (by omega)
      exact (ht.regs x hb hb').trans (hu.regs x ha ha')
    · intro x y hx hy hlisted hgib hranks hdensity
      have hgood : pairGood (some x) (some y) = true := by simp [pairGood, hgib ▸ hlisted, hranks, hdensity, hgib]
      have h := training_fields hu ht hc
      rw [hx, hy, hgood] at h
      simpa [flagBit, hgib] using h
    · intro hbad
      have hgood : pairGood (tblFind s.sys.ddr (2 * p)) (tblFind s.sys.ddr (2 * p + 1)) = false := by
        cases hx : tblFind s.sys.ddr (2 * p) with
        | none => rfl
        | some x =>
          cases hy : tblFind s.sys.ddr (2 * p + 1) with
          | none => rfl
          | some y =>
            have := hbad x y hx hy
            simp only [pairGood, Bool.and_eq_false_iff, bne_eq_false_iff_eq, beq_eq_false_iff_ne]
            tauto
      have h := training_fields hu ht hc
      rw [hgood] at h
      exact ⟨h.1, h.2.1⟩
  · refine ⟨_, always_of_run (run_mmuInval_free hfree h all), (Upd.sameBut_of _ s).upd _, rfl, fun x => ?_⟩
    exact State.reg_putFld (Upd.apply_canonical _ _ hs)
  · have hq : Quiet s _ := State.afterEvent_quiet s 0x84 6 0x3005 (det [(4, h % 2 ^ 20)])
    exact ⟨_, always_of_run (run_mmuInval_busy hi h all), rfl, by rw [hq.sys]; exact hi, hq.sameBut⟩
  · have hq := refusedWrite_quiet s Reg.mmuInval (h % 2 ^ 20 + flagBit all * 2 ^ 20) 0
    exact ⟨_, always_of_run (run_mmuInval_of_ne_bcc hw h all s), by rw [hq.sys], hq.reg⟩
  · change ∃ t, execMmuInvalDone s = _ ∧ _
    refine ⟨_, (whenEnabled_next (by simp [hi])).trans (congrArg _ (run_mmuInvalDone hi)), ((Upd.sameBut_of _ s).upd _).upd _, rfl, fun x => ?_,
      fun x => ?_⟩
    · exact List.mem_filter.trans (and_congr_right fun _ => by rw [Bool.not_eq_true'])
    · exact State.reg_putFld (Upd.apply_canonical _ _ (Upd.apply_canonical _ _ hs))
  · change execMmuInvalDone s = _
    exact whenEnabled_refused (by simp [hnone])

end Sys2Proof.Machine
end

section
/-! PROOFS. Ports: acknowledgements, refused requests, grants (R79, R92, R112, R114). -/

namespace Sys2Proof.Machine

open Sys2Proof

/-! ## Acknowledgements -/

/-- The state after a port's request was judged. -/
def State.judged (s : State) (i code seq : Nat) : State := M.run (portAck i code seq) s

/-- What judging a port's request leaves: the acknowledgement, and nothing else. -/
structure State.Judged (s : State) (i code seq : Nat) (t : State) : Prop where
  acked : acked t i code seq
  frame : s.SameBut [.regs, .out, .tally] t
  tally : t.tally = { s.tally with unread := t.tally.unread }
  regs : ∀ x, x ≠ Reg.portAck i → t.reg x = s.reg x

section
variable {s : State} {i code seq : Nat}

theorem portAck_gives (i code seq : Nat) (s : State) : (portAck i code seq).gives s () (s.judged i code seq) :=
  (portAck_reach (msk := 280) rfl i code seq).gives_run s

/-- Showing a word as acknowledgement, noting it as unread, answering. -/
theorem run_acknowledge (i : Nat) (w : Word) (ok : Bool) (data : List Byte) (s : State) :
    M.run (do
      wrReg (Reg.portAck i) w
      modTally fun x => { x with unread := (x.unread.filter (· ≠ i)) ++ [i] }
      answer ok data) s =
    (Upd.out fun _ => some ⟨ok, data⟩).apply
      ((Upd.tally fun x => { x with unread := (x.unread.filter (· ≠ i)) ++ [i] }).apply ((Upd.reg (Reg.portAck i) w).apply s)) := rfl

theorem State.judged_spec (hs : s.Canonical) (i code seq : Nat) : s.Judged i code seq (s.judged i code seq) := by
  have hword : ∃ w, w = BitVec.ofNat 64 (code + 2 ^ 16 + seq * 2 ^ 32) := ⟨_, rfl⟩
  obtain ⟨w, hword⟩ := hword
  rw [State.judged, portAck, ← hword, run_acknowledge]
  exact {
    acked := ⟨((reg_apply hs _ w _).trans (if_pos rfl)).trans hword, List.mem_append.mpr (.inr List.mem_cons_self), rfl⟩
    frame := ((Upd.sameBut_of _ s).upd _).upd _
    tally := rfl
    regs := fun x hx => reg_apply_other hs _ hx }

theorem State.Judged.queue {t : State} (h : s.Judged i code seq t) (q : Nat) : t.queue q = s.queue q := by
  rw [State.queue, h.tally, State.queue]

end

/-! ## The lowest status -/

theorem foldl_min_le (c : Nat) (cs : List Nat) : cs.foldl min c ≤ c ∧ ∀ x ∈ cs, cs.foldl min c ≤ x := by
  induction cs generalizing c with
  | nil => simp
  | cons d cs ih =>
    obtain ⟨hle, hall⟩ := ih (min c d)
    exact ⟨hle.trans (min_le_left c d), List.forall_mem_cons.mpr ⟨hle.trans (min_le_right c d), hall⟩⟩

theorem foldl_min_mem (c : Nat) (cs : List Nat) : cs.foldl min c ∈ c :: cs := by
  induction cs generalizing c with
  | nil => exact List.mem_cons_self
  | cons d cs ih =>
    rw [List.foldl_cons]
    rcases List.mem_cons.mp (ih (min c d)) with h | h
    · rw [h]
      rcases min_choice c d with hm | hm <;> simp [hm]
    · simp [h]

/-- The codes of the rules broken. -/
def brokenCodes (codes : List (Bool × Nat)) : List Nat := (codes.filter (·.1)).map (·.2)

theorem mem_brokenCodes {codes : List (Bool × Nat)} {c : Nat} : c ∈ brokenCodes codes ↔ (true, c) ∈ codes := by
  simp [brokenCodes]

theorem lowest_of_nil {codes : List (Bool × Nat)} (h : brokenCodes codes = []) : lowest codes = 0 := by
  simp only [brokenCodes] at h
  simp [lowest, h]

theorem lowest_of_cons {codes : List (Bool × Nat)} {c : Nat} {cs : List Nat} (h : brokenCodes codes = c :: cs) :
    lowest codes = cs.foldl min c := by
  simp only [brokenCodes] at h
  simp [lowest, h]

theorem lowest_le {codes : List (Bool × Nat)} {c : Nat} (h : (true, c) ∈ codes) : lowest codes ≤ c := by
  rw [← mem_brokenCodes] at h
  cases hb : brokenCodes codes with
  | nil => simp [hb] at h
  | cons d ds =>
    rw [lowest_of_cons hb]
    rw [hb] at h
    rcases List.mem_cons.mp h with rfl | h
    · exact (foldl_min_le c ds).1
    · exact (foldl_min_le d ds).2 c h

theorem lowest_mem_of_mem {codes : List (Bool × Nat)} {c : Nat} (h : (true, c) ∈ codes) : (true, lowest codes) ∈ codes := by
  rw [← mem_brokenCodes] at h ⊢
  cases hb : brokenCodes codes with
  | nil => simp [hb] at h
  | cons d ds =>
    rw [lowest_of_cons hb]
    exact foldl_min_mem d ds

theorem lowest_mem {codes : List (Bool × Nat)} (h : lowest codes ≠ 0) : (true, lowest codes) ∈ codes := by
  cases hb : brokenCodes codes with
  | nil => exact absurd (lowest_of_nil hb) h
  | cons d ds => exact lowest_mem_of_mem (c := d) (mem_brokenCodes.mp (hb ▸ List.mem_cons_self))

theorem lowest_eq_zero_iff {codes : List (Bool × Nat)} (hpos : ∀ x ∈ codes, x.2 ≠ 0) :
    lowest codes = 0 ↔ ∀ x ∈ codes, x.1 = false := by
  constructor
  · intro h x hx
    by_contra hb
    have hmem : (true, x.2) ∈ codes := by
      have : x = (true, x.2) := Prod.ext (by simpa using hb) rfl
      rwa [← this]
    exact hpos _ (lowest_mem_of_mem hmem) h
  · intro h
    by_contra hne
    simpa using h _ (lowest_mem hne)

/-! ## The commands of a port -/

section
variable {s : State} {i cmd : Nat} {op : M Unit}

theorem run_portOp_unread (h : i ∈ s.tally.unread) :
    M.run (portOp i cmd op) s = s.afterEvent 0x80 6 0x3003 (det [(4, Reg.portCmd i), (4, cmd)]) := by
  rw [portOp, run_getS_bind, if_pos (List.contains_iff_mem.mpr h)]
  rfl

theorem run_portOp_closed (h : i ∉ s.tally.unread) (hc : s.rcv.bivouac = true ∨ s.tally.accepting = false) :
    M.run (portOp i cmd op) s = s.judged i 0x20 0 := by
  have hclosed : s.rcv.bivouac = true ∨ (!s.tally.accepting) = true := by simpa using hc
  rw [portOp, run_getS_bind, if_neg (by simpa using h), if_pos hclosed]
  rfl

theorem run_portOp (h : portReady s i) : M.run (portOp i cmd op) s = M.run op s := by
  obtain ⟨hread, hbiv, hacc⟩ := h
  rw [portOp, run_getS_bind, if_neg (by simpa using hread), if_neg (by simp [hbiv, hacc])]

/-- Every command of a port is a port operation, and runs always. -/
theorem exec_portCommand {q ty : Nat} {c : Instr × Nat} (h : c ∈ portCommands i q ty) (s : State) :
    ∃ op, exec c.1 s = .next (M.run (portOp i c.2 op) s) := by
  simp only [portCommands, List.mem_cons, List.not_mem_nil, or_false] at h
  rcases h with rfl | rfl | rfl | rfl | rfl | rfl | rfl | rfl | rfl
  · exact ⟨enqueueOp i q ty, rfl⟩
  · exact ⟨enqueueSubmit i q, rfl⟩
  · exact ⟨dequeueOp i q, rfl⟩
  · exact ⟨createQueueOp i, rfl⟩
  · exact ⟨destroyQueueOp i q, rfl⟩
  · exact ⟨grantOp i q, rfl⟩
  · exact ⟨revokeOp i q, rfl⟩
  · exact ⟨registerGraphOp i, rfl⟩
  · exact ⟨deregisterGraphOp i, rfl⟩

/-- A ledger acceptance to a queue in ledger mode is the enqueue's port operation. -/
theorem exec_ledgerAcceptance {q ty : Nat} (h : ((s.queue q).map (·.ledger)).getD false = true) :
    exec (.ledgerAcceptance i q ty) s = .next (M.run (portOp i (cmdWord 0 ty q) (enqueueOp i q ty)) s) := by
  change execLedgerAcceptance i q ty s = _
  exact whenEnabled_next h

end

/-- Reading an acknowledgement. -/
theorem run_portAckRead (i : Nat) (s : State) : M.run (portAckRead i) s =
    (Upd.out fun _ => some ⟨true, leBytes 8 (s.reg (Reg.portAck i)).toNat⟩).apply
      (if s.flag (Reg.portAck i) Fld.portAckDone = true then (Upd.tally fun x => { x with unread := x.unread.filter (· ≠ i) }).apply s
        else s) := by
  rw [portAckRead, run_getS_bind]
  split <;> rfl

/-- Settles O18: every command of a port goes through one operation, which looks at the acknowledgement and at the device first. -/
theorem portsTakeOneRequestAtATime : Obligations.PortsTakeOneRequestAtATime := by
  intro s i q ty hs
  have hop {c : Instr × Nat} (hc : c ∈ portCommands i q ty ++
      (if ((s.queue q).map (·.ledger)).getD false then [(.ledgerAcceptance i q ty, cmdWord 0 ty q)] else [])) :
      ∃ op, exec c.1 s = .next (M.run (portOp i c.2 op) s) := by
    rcases List.mem_append.mp hc with h | h
    · exact exec_portCommand h s
    · split at h
      · next hl =>
        cases List.mem_singleton.mp h
        exact ⟨_, exec_ledgerAcceptance hl⟩
      · cases h
  refine ⟨fun hun c hc => ?_, ⟨_, always_of_run (run_portAckRead i s), ?_, rfl, ?_, fun j => ?_⟩, fun hun hclosed c hc => ?_⟩
  · obtain ⟨op, hx⟩ := hop hc
    rw [hx, run_portOp_unread hun]
  · split
    · exact (Upd.sameBut_of _ s).upd _
    · exact Upd.sameBut_of (ps := [.out, .tally]) _ s
  · split <;> rfl
  · split
    · next hdone => simp [hdone]
    · next hdone => simp [hdone]
  · obtain ⟨op, hx⟩ := hop hc
    have h := State.judged_spec hs i 0x20 0
    exact ⟨_, hx.trans (congrArg _ (run_portOp_closed hun hclosed)), h.acked, h.frame, h.tally, h.regs⟩

/-- Settles O19: a minimum over the broken rules, and what an enqueue does with it. -/
theorem refusedRequestsReturnTheLowestStatus : Obligations.RefusedRequestsReturnTheLowestStatus := by
  refine ⟨fun codes hpos => ⟨fun c => lowest_le, lowest_mem, lowest_eq_zero_iff hpos⟩, fun s i q ty hs hready hty hcode => ?_⟩
  have hrun : M.run (enqueueOp i q ty) s = s.judged i (lowest (enqueueCodes s (s.portHandle i) q ty)) 0 := by
    rw [enqueueOp, if_neg hty, enqueueData, run_getS_bind]
    dsimp only
    rw [if_pos hcode]
    rfl
  have h := State.judged_spec hs i (lowest (enqueueCodes s (s.portHandle i) q ty)) 0
  exact ⟨_, always_of_run ((run_portOp hready).trans hrun), h.acked, h.frame, h.tally, h.regs⟩

/-! ## Grants -/

section
variable {s : State} {i q : Nat} {u : Queue}

/-- The state with one queue changed. -/
def State.withQueue (s : State) (q : Nat) (u : Queue) : State := (Upd.tally fun x => { x with queues := tblSet x.queues q u }).apply s

theorem State.queue_withQueue (s : State) (q : Nat) (u : Queue) (x : Nat) :
    (s.withQueue q u).queue x = if x = q then some u else s.queue x := by
  by_cases hx : x = q
  · rw [if_pos hx, hx]
    exact tblFind_tblSet_same ..
  · rw [if_neg hx]
    exact tblFind_tblSet _ _ hx

theorem State.upd_modQueue (hu : s.queue q = some u) (f : Queue → Queue) :
    (Upd.tally fun x => { x with queues := match tblFind x.queues q with
      | some k => tblSet x.queues q (f k)
      | none => x.queues }).apply s = s.withQueue q (f u) := by
  rw [State.queue] at hu
  simp only [Upd.apply, State.withQueue, hu]

theorem modQueue_gives (hu : s.queue q = some u) (f : Queue → Queue) : (modQueue q f).gives s () (s.withQueue q (f u)) := by
  intro k
  rw [← State.upd_modQueue hu f]
  rfl

theorem State.withQueue_frame (s : State) (q : Nat) (u : Queue) : s.SameBut [.tally] (s.withQueue q u) := Upd.sameBut_of _ s

/-- What a judged request to change a queue's grants leaves: the grants and the acknowledgement. -/
theorem grants_of_judged {g : List Nat} {t : State} (h : (s.withQueue q { u with grants := g }).Judged i 0 0 t) :
    acked t i 0 0 ∧ (t.queue q = some { u with grants := g } ∧ (∀ x, x ≠ q → t.queue x = s.queue x) ∧
      t.tally = { s.tally with queues := t.tally.queues, unread := t.tally.unread } ∧
      s.SameBut [.regs, .out, .tally] t ∧ ∀ x, x ≠ Reg.portAck i → t.reg x = s.reg x) := by
  refine ⟨h.acked, ?_, fun x hx => ?_, ?_, ((s.withQueue_frame ..).mono (by decide)).trans h.frame, h.regs⟩
  · rw [h.queue, State.queue_withQueue, if_pos rfl]
  · rw [h.queue, State.queue_withQueue, if_neg hx]
  · rw [h.tally]
    rfl

/-- What a refused request to change a queue's grants leaves. -/
theorem grants_of_refused {code : Nat} (hu : s.queue q = some u) {t : State} (h : s.Judged i code 0 t) :
    acked t i code 0 ∧ (t.queue q = some { u with grants := u.grants } ∧ (∀ x, x ≠ q → t.queue x = s.queue x) ∧
      t.tally = { s.tally with queues := t.tally.queues, unread := t.tally.unread } ∧
      s.SameBut [.regs, .out, .tally] t ∧ ∀ x, x ≠ Reg.portAck i → t.reg x = s.reg x) := by
  refine ⟨h.acked, (h.queue q).trans hu, fun x _ => h.queue x, ?_, h.frame, h.regs⟩
  rw [h.tally]

end

section
variable {s : State} {i q : Nat} {g : Nat} {u : Queue} (hg : s.enq i 0 % 2 ^ 20 = g) (hu : s.queue q = some u) (hctx : (s.ctx (s.portHandle i)).isSome = true)
  (hword : bitsOf (s.enq i 0) 20 44 = 0)
include hctx hword

/-- The rules a request to change grants is judged by, for a live context and a word without reserved bits. -/
theorem grantCodes_eq (own full : Bool) :
    lowest [((s.ctx (s.portHandle i)).isNone, 0x18), (bitsOf (s.enq i 0) 20 44 != 0, 0x12), (own, 0x15), (full, 0x1B)] =
      if own then 0x15 else if full then 0x1B else 0 := by
  have hlive : (s.ctx (s.portHandle i)).isNone = false := by simpa using hctx
  rw [hword, hlive]
  cases own <;> cases full <;> rfl

include hg hu

theorem run_grantOp {code : Nat} (hcode : (if u.owner != s.portHandle i then 0x15
      else if !u.grants.contains g && decide (16 ≤ u.grants.length) then 0x1B else 0) = code) :
    M.run (grantOp i q) s = if code ≠ 0 then s.judged i code 0 else
      (s.withQueue q { u with grants := u.grants.filter (· ≠ g) ++ [g] }).judged i 0 0 := by
  rw [grantOp, run_getS_bind, hu]
  dsimp only
  rw [hg, grantCodes_eq hctx hword, hcode]
  split
  · rfl
  · exact (modQueue_gives hu _).run_bind _

theorem run_revokeOp {code : Nat} (hcode : (if u.owner != s.portHandle i then 0x15 else 0) = code) :
    M.run (revokeOp i q) s = if code ≠ 0 then s.judged i code 0 else
      (s.withQueue q { u with grants := u.grants.filter (· ≠ g) }).judged i 0 0 := by
  have hlive : (s.ctx (s.portHandle i)).isNone = false := by simpa using hctx
  have hcodes : lowest [((s.ctx (s.portHandle i)).isNone, 0x18), (bitsOf (s.enq i 0) 20 44 != 0, 0x12), (u.owner != s.portHandle i, 0x15)] =
      code := by
    rw [hword, hlive, ← hcode]
    cases u.owner != s.portHandle i <;> rfl
  rw [revokeOp, run_getS_bind, hu]
  dsimp only
  rw [hg, hcodes]
  split
  · rfl
  · exact (modQueue_gives hu _).run_bind _

end

/-- Settles O22: the rules a request is judged by, and the one queue it changes. -/
theorem queueRightsAreGrantedAndRevoked : Obligations.QueueRightsAreGrantedAndRevoked := by
  intro s i q u hs hready hu hctx hword g only
  have hg : s.enq i 0 % 2 ^ 20 = g := rfl
  clear_value g
  have hexec (m : M Unit) (cmd : Nat) {t : State} (h : M.run m s = t) : always (portOp i cmd m) s = .next t :=
    always_of_run ((run_portOp hready).trans h)
  have hcanon (v : Queue) : (s.withQueue q v).Canonical := Upd.apply_canonical _ _ hs
  refine ⟨fun hown hroom => ?_, fun hown => ?_, fun hown hnew hfull => ?_, fun hown => ?_⟩
  · have hrun := run_grantOp hg hu hctx hword (code := 0) (by simpa [hown, or_iff_not_imp_left] using hroom)
    obtain ⟨hack, honly⟩ := grants_of_judged (State.judged_spec (hcanon _) i 0 0)
    exact ⟨_, _, hexec _ _ hrun, hack, honly, fun x => by by_cases hx : x = g <;> simp [hx]⟩
  · have hrun := run_revokeOp hg hu hctx hword (code := 0) (by simp [hown])
    obtain ⟨hack, honly⟩ := grants_of_judged (State.judged_spec (hcanon _) i 0 0)
    exact ⟨_, _, hexec _ _ hrun, hack, honly, fun x => by simp⟩
  · have hrun := run_grantOp hg hu hctx hword (code := 0x1B) (by simpa [hown] using ⟨hnew, hfull⟩)
    obtain ⟨hack, honly⟩ := grants_of_refused hu (State.judged_spec hs i 0x1B 0)
    exact ⟨_, hexec _ _ hrun, hack, honly.1, honly⟩
  · have hne : (u.owner != s.portHandle i) = true := by simpa using hown
    have hgrant := run_grantOp hg hu hctx hword (code := 0x15) (by rw [hne, if_pos rfl])
    have hrevoke := run_revokeOp hg hu hctx hword (code := 0x15) (by rw [hne, if_pos rfl])
    obtain ⟨hack, honly⟩ := grants_of_refused hu (State.judged_spec hs i 0x15 0)
    exact ⟨_, _, hexec _ _ hgrant, hexec _ _ hrevoke, hack, hack, honly, honly⟩

end Sys2Proof.Machine
end

section
/-! PROOFS. Translations (R41 to R43, R80). -/

namespace Sys2Proof.Machine

open Sys2Proof

/-! ## What a cached translation leaves as it is -/

/-- The state with other cached translations. -/
def State.withTlb (s : State) (t : List (Nat × TlbEntry)) : State := (Upd.sys fun m => { m with tlb := t }).apply s

section
variable (s : State) (t : List (Nat × TlbEntry))

theorem State.walk_withTlb (who va l table : Nat) : (s.withTlb t).walk who va l table = s.walk who va l table := by
  induction l generalizing table with
  | zero => rfl
  | succ l ih =>
    rw [State.walk, State.walk]
    dsimp only
    rw [ih]
    rfl

theorem State.safetyPage_withTlb (pa : Nat) : (s.withTlb t).safetyPage pa = s.safetyPage pa := by
  unfold State.safetyPage
  simp only [State.walk_withTlb]
  rfl

end

/-! ## The outcomes of a translation -/

section
variable {s : State} {c : Ctx} {who h va : Nat} {w : Bool}

theorem translationFault_gives (s : State) (who h va acc : Nat) (e : MemErr) : (translationFault who h va acc e).gives s ()
    (s.afterEvent 0x84 6 0x4003 (det [(6, va % 2 ^ 48), (1, acc), (1, e.kind), (3, h % 2 ^ 20), (1, who)])) := raise_gives _ _ _ _ _

theorem translate_stale (hc : s.ctx h = none) :
    (translate who h va w).gives s (.error .stale) (s.putFld Reg.rcvLate Fld.rcvLateCount (satAdd Fld.rcvLateCount.width (s.fld Reg.rcvLate Fld.rcvLateCount) 1)) := by
  refine M.gives.getS_bind ?_
  rw [hc]
  exact (bump_gives _ _ _ _).bind (pure_gives _ _)

theorem translate_physical (hc : s.ctx h = some c) (hp : c.physical = true) (hva : va < 2 ^ 40)
    (hsafe : w = true → c.safety = false → s.safetyPage va = false) : (translate who h va w).gives s (.ok va) s := by
  refine M.gives.getS_bind ?_
  rw [hc]
  dsimp only
  rw [if_pos hp, if_pos hva]
  refine M.gives.getS_bind (.ite_neg ?_ _ (pure_gives _ _))
  rintro ⟨hw, hs, hpage⟩
  simp [hsafe hw (by simpa using hs)] at hpage

section
variable (hc : s.ctx h = some c) (hp : c.physical = false)
include hc hp

theorem translate_nonCanonical (hva : canonical va = false) : (translate who h va w).gives s (.error .nonCanonical)
    (s.afterEvent 0x84 6 0x4003 (det [(6, va % 2 ^ 48), (1, flagBit w), (1, 2), (3, h % 2 ^ 20), (1, who)])) := by
  refine M.gives.getS_bind ?_
  rw [hc]
  dsimp only
  rw [if_neg (by simp [hp]), if_pos (by simp [hva])]
  exact (translationFault_gives _ _ _ _ _ _).bind (pure_gives _ _)

variable (hva : canonical va = true) (hmiss : ((tlbOf who).bind fun k => s.tlbFind k h va) = none)
include hva hmiss

theorem translate_pageFault (hw : s.walk who va 4 c.root = .fault) : (translate who h va w).gives s (.error .page)
    (s.afterEvent 0x84 6 0x4003 (det [(6, va % 2 ^ 48), (1, flagBit w), (1, 0), (3, h % 2 ^ 20), (1, who)])) := by
  refine M.gives.getS_bind ?_
  rw [hc]
  dsimp only
  rw [if_neg (by simp [hp]), if_neg (by simp [hva]), hmiss, hw]
  exact (translationFault_gives _ _ _ _ _ _).bind (pure_gives _ _)

theorem translate_leaf {pte l pa : Nat} (hwalk : s.walk who va 4 c.root = .leaf pte l) (hleaf : leafCheck pte l va w = .ok pa)
    (hsafe : w = true → c.safety = false → s.safetyPage pa = false) :
    ∃ t, (translate who h va w).gives s (.ok pa) (s.withTlb t) := by
  have hguard (t : List (Nat × TlbEntry)) : ¬ (w = true ∧ (!c.safety) = true ∧ (s.withTlb t).safetyPage pa = true) := by
    rintro ⟨hw, hs, hpage⟩
    rw [State.safetyPage_withTlb, hsafe hw (by simpa using hs)] at hpage
    cases hpage
  cases hcache : tlbOf who with
  | none =>
    refine ⟨s.sys.tlb, .getS_bind ?_⟩
    rw [hc]
    dsimp only
    rw [hcache] at hmiss ⊢
    rw [if_neg (by simp [hp]), if_neg (by simp [hva]), hmiss, hwalk]
    dsimp only
    rw [hleaf]
    exact .getS_bind (.ite_neg (hguard _) _ (pure_gives _ _))
  | some k =>
    refine ⟨tlbInsert s.sys.tlb k ⟨h, vpnAt va l, l, pte⟩, .getS_bind ?_⟩
    rw [hc]
    dsimp only
    rw [hcache] at hmiss ⊢
    rw [if_neg (by simp [hp]), if_neg (by simp [hva]), hmiss, hwalk]
    dsimp only
    rw [hleaf]
    exact (update_gives _ _).bind (.getS_bind (.ite_neg (hguard _) _ (pure_gives _ _)))

end

/-- A leaf that permits an access gives its page with the address's offset. -/
theorem leafAddr_of_leafCheck {pte l pa : Nat} (h : leafCheck pte l va w = .ok pa) : pa = leafAddr pte l va := by
  unfold leafCheck at h
  split_ifs at h <;> exact (Except.ok.inj h).symm

end

/-- Settles O12: a translation's outcomes, one by one. -/
theorem translationFollowsThePageTables : Obligations.TranslationFollowsThePageTables := by
  intro s who h va w c
  refine ⟨fun hc hp hva hmiss => ⟨fun pte l pa hwalk hleaf hsafe => ?_, translate_pageFault hc hp hva hmiss⟩,
    fun hc hp hva => translate_nonCanonical hc hp hva, fun hc hp hva hsafe => translate_physical hc hp hva hsafe, fun hc => ?_⟩
  · obtain ⟨t, ht⟩ := translate_leaf hc hp hva hmiss hwalk hleaf hsafe
    exact ⟨leafAddr_of_leafCheck hleaf, _, ht, Upd.sameBut_of _ s⟩
  · exact ⟨_, translate_stale hc, State.sameBut_putFld ..⟩

end Sys2Proof.Machine
end

section
/-! PROOFS. Requests to memory: what the map decodes, what is stored and what is read (R26, R27, R33, R37 to R39). -/

namespace Sys2Proof.Machine

open Sys2Proof

/-! ## The map -/

theorem State.place_congr {s t : State} (hholes : t.sys.holes = s.sys.holes) (hcap : ∀ c, t.reg (Reg.mcStatus c) = s.reg (Reg.mcStatus c))
    (heng : t.engines = s.engines) (a : Nat) : t.place a = s.place a := by
  have hgib (c : Nat) : t.chanGib c = s.chanGib c := by rw [State.chanGib, State.fld, hcap, State.chanGib, State.fld]
  have hengine (n : Nat) : t.engine n = s.engine n := by rw [State.engine, heng, State.engine]
  unfold State.place State.populated
  simp only [hgib, hholes, hengine]

theorem State.byteAt_congr {s t : State} (hmem : t.mem = s.mem) (hcache : t.sys.cache = s.sys.cache) (hplace : ∀ a, t.place a = s.place a)
    (b : Nat) : t.byteAt b = s.byteAt b := by
  rw [State.byteAt, hmem, hcache, hplace, State.byteAt]

/-- A byte that the system cache does not hold, outside the ROM. -/
theorem State.byteAt_of_uncached {s : State} {b : Nat} (hc : tblFind s.sys.cache (b / 64) = none) (hrom : ∀ off, s.place b ≠ .rom off) :
    s.byteAt b = memGet s.mem b := by
  unfold State.byteAt
  rw [hc]
  dsimp only
  split
  · next off h => exact absurd h (hrom off)
  · rfl

/-- The ROM fills whole lines, so a line that reaches it lies in it or in a hole. -/
theorem State.place_of_rom {s : State} {b off : Nat} (h : s.place b = .rom off) : 0x7FF0000000 ≤ b ∧ b < 0x7FF0040000 := by
  unfold State.place at h
  dsimp only at h
  split_ifs at h with _ _ _ _ _ _ _ _ hrom
  exact hrom

theorem State.place_in_rom {s : State} {a : Nat} (h : 0x7FF0000000 ≤ a ∧ a < 0x7FF0040000) :
    s.place a = .hole ∨ ∃ off, s.place a = .rom off := by
  unfold State.place
  dsimp only
  rw [if_neg (c := a < 0x4000000000) (by omega), if_neg (c := a < 0x4010000000) (by omega), if_neg (c := a < 0x4013000000) (by omega),
    if_neg (c := 0x4020000000 ≤ a ∧ a < 0x4024000000) (by omega),
    if_neg (c := regSpace ≤ a ∧ a < regSpace + 0x400000) (by simp only [regSpace]; omega), if_pos h]
  split
  · exact .inl rfl
  · exact .inr ⟨_, rfl⟩

/-- A place that takes a device write, beside the PCIe window: memory in front of no fence. -/
theorem State.place_of_takesWrite {s : State} {a : Nat} (h : s.takesWrite a = true) (hp : s.place a ≠ .pcie) :
    s.placeFenced (s.place a) = false ∧ ((∃ p o, s.place a = .ddr p o) ∨ (∃ n o, s.place a = .tile n o) ∨ (∃ o, s.place a = .hall o) ∨
      (∃ p o, s.place a = .pbuf p o) ∨ ∃ o, s.place a = .aoSram o) := by
  unfold State.takesWrite at h
  cases hpl : s.place a <;> simp_all

theorem State.not_rom_of_takesWrite {s : State} {a b : Nat} (h : s.takesWrite a = true) (hline : b / 64 = a / 64) (off : Nat) :
    s.place b ≠ .rom off := by
  intro hb
  have hrange := State.place_of_rom hb
  unfold State.takesWrite at h
  rcases State.place_in_rom (s := s) (a := a) (by omega) with hp | ⟨o, hp⟩ <;> simp [hp] at h

/-! ## Admission and metering -/

theorem admitAccess_gives {s : State} {a : Nat} (h : s.takesWrite a = true) (hp : s.place a ≠ .pcie) (who : Nat) (w : Bool) :
    (admitAccess who a w).gives s none s := by
  obtain ⟨hfence, hplace⟩ := State.place_of_takesWrite h hp
  refine M.gives.getS_bind ?_
  obtain ⟨p, o, hp⟩ | ⟨n, o, hp⟩ | ⟨o, hp⟩ | ⟨p, o, hp⟩ | ⟨o, hp⟩ := hplace <;> rw [hp] at hfence ⊢ <;>
    exact .ite_neg (by simp [hfence]) _ (pure_gives _ _)

/-- Register counts that leave the map as it was. -/
structure State.Metered (s t : State) : Prop where
  frame : s.SameBut [.regs] t
  canonical : t.Canonical
  place : ∀ a, t.place a = s.place a

section
variable {s t u : State}

theorem State.Metered.refl (hs : s.Canonical) : s.Metered s := ⟨.refl _ s, hs, fun _ => rfl⟩

theorem State.Metered.trans (h : s.Metered t) (k : t.Metered u) : s.Metered u :=
  ⟨h.frame.trans k.frame, k.canonical, fun a => (k.place a).trans (h.place a)⟩

theorem State.Metered.putFld (hs : s.Canonical) {off : Nat} (hoff : ∀ c, Reg.mcStatus c ≠ off) (f : Field) (v : Nat) :
    s.Metered (s.putFld off f v) :=
  ⟨State.sameBut_putFld .., State.canonical_putFld hs .., State.place_congr rfl (fun c => (State.reg_putFld hs).trans (if_neg (hoff c))) rfl⟩

theorem State.Metered.mem (h : s.Metered t) : t.mem = s.mem := h.frame.2 .mem (by decide)
theorem State.Metered.sys (h : s.Metered t) : t.sys = s.sys := h.frame.2 .sys (by decide)
theorem State.Metered.byteAt (h : s.Metered t) (b : Nat) : t.byteAt b = s.byteAt b :=
  State.byteAt_congr h.mem (by rw [h.sys]) h.place b

end

section
variable {s : State} {who a n : Nat} {w : Bool}

theorem meter_gives_of_not_ddr (h : ∀ p o, s.place a ≠ .ddr p o) : (meter who a n w).gives s () s := by
  refine M.gives.getS_bind ?_
  split
  · next p o hp => exact absurd hp (h p o)
  · exact pure_gives _ _

theorem meter_leads (hs : s.Canonical) : (meter who a n w).Leads s fun _ t => s.Metered t := by
  have hrd (p c : Nat) : Reg.mcStatus c ≠ Reg.streamRdBytes p := by simp only [Reg.mcStatus, Reg.streamRdBytes]; omega
  have hwr (p c : Nat) : Reg.mcStatus c ≠ Reg.streamWrBytes p := by simp only [Reg.mcStatus, Reg.streamWrBytes]; omega
  have hrm (p c : Nat) : Reg.mcStatus c ≠ Reg.streamRmBytes p := by simp only [Reg.mcStatus, Reg.streamRmBytes]; omega
  refine .getS ?_
  split
  · next h o hp =>
    dsimp only
    split
    · exact .pure (.refl hs)
    · split
      · split
        · exact (bump_gives _ _ _ _).leads (.putFld hs (hwr _) _ _)
        · exact (bump_gives _ _ _ _).leads (.putFld hs (hrd _) _ _)
      · refine (bump_gives _ _ _ _).leads_bind ?_
        have h1 := State.Metered.putFld hs (hrm h) Fld.streamRmBytesBytes
          (satAdd Fld.streamRmBytesBytes.width (s.fld (Reg.streamRmBytes h) Fld.streamRmBytesBytes) n)
        split
        · exact (bump_gives _ _ _ _).leads (h1.trans (.putFld h1.canonical (hrm _) _ _))
        · exact .pure h1
  · exact .pure (.refl hs)

end

/-! ## The system cache -/

/-- The state with a line of the system cache as given. -/
def State.withLine (s : State) (line : Nat) (l : CacheLine) : State := (Upd.sys fun m => { m with cache := tblSet m.cache line l }).apply s

theorem allocLine_gives {s : State} (h : s.sys.cache.length < cacheLines) (line : Nat) (l : CacheLine) :
    (allocLine line l).gives s () (s.withLine line l) := by
  refine M.gives.getS_bind ?_
  split
  · exact .ite_neg (fun hfull => absurd hfull.1 (by omega)) _ (update_gives _ _)
  · exact update_gives _ _

theorem tblDel_of_none {α : Type} {t : Tbl α} {i : Nat} (h : tblFind t i = none) : tblDel t i = t := by
  induction t with
  | nil => rfl
  | cons x t ih =>
    obtain ⟨k, v⟩ := x
    rw [tblFind] at h
    split at h
    · cases h
    · next hk => rw [tblDel, if_neg hk, ih h]

theorem dropLine_gives_of_none {s : State} {line : Nat} (h : tblFind s.sys.cache line = none) : (dropLine line).gives s () s := by
  have hback : (writeBack line).gives s () s := by
    refine M.gives.getS_bind ?_
    rw [h]
    exact pure_gives _ _
  refine hback.bind fun k => ?_
  refine (update_gives (Upd.sys fun m => { m with cache := tblDel m.cache line }) s k).trans ?_
  rw [Upd.apply, tblDel_of_none h]

theorem getD_bytesAt (s : State) (a n i : Nat) (hi : i < n) (d : Byte) : (s.bytesAt a n).getD i d = s.byteAt (a + i) := by
  simp [State.bytesAt, hi]

theorem length_bytesAt (s : State) (a n : Nat) : (s.bytesAt a n).length = n := by simp [State.bytesAt]

theorem getD_putBytes {bs new : List Byte} {off : Nat} (hlen : off + new.length ≤ bs.length) (i : Nat) (d : Byte) :
    (putBytes bs off new).getD i d = if off ≤ i ∧ i < off + new.length then new.getD (i - off) d else bs.getD i d := by
  have htake : (bs.take off).length = off := by rw [List.length_take]; omega
  simp only [putBytes, List.getD_eq_getElem?_getD]
  by_cases hlow : i < off
  · rw [if_neg (by omega), List.append_assoc, List.getElem?_append_left (by omega), List.getElem?_take_of_lt hlow]
  · by_cases hmid : i < off + new.length
    · rw [if_pos (by omega), List.append_assoc, List.getElem?_append_right (by omega), List.getElem?_append_left (by omega), htake]
    · rw [if_neg (by omega), List.getElem?_append_right (by simp [htake]; omega), List.getElem?_drop, List.length_append, htake]
      congr 2
      omega

/-- A line entered in the cache shows its bytes; every other byte is as before. -/
theorem State.byteAt_withLine (s : State) (line : Nat) (l : CacheLine) (b : Nat) :
    (s.withLine line l).byteAt b = if b / 64 = line then l.data.getD (b % 64) 0#8 else s.byteAt b := by
  unfold State.byteAt
  by_cases hb : b / 64 = line
  · rw [if_pos hb, hb]
    change (match tblFind (tblSet s.sys.cache line l) line with | some l => _ | none => _) = _
    rw [tblFind_tblSet_same]
  · rw [if_neg hb]
    change (match tblFind (tblSet s.sys.cache line l) (b / 64) with | some l => _ | none => _) = _
    rw [tblFind_tblSet _ _ hb]
    rfl

/-! ## Writes -/

/-- What a write of bytes leaves: they stand at their addresses, and every other byte is as before. -/
def State.Stored (s : State) (a : Nat) (bs : List Byte) (t : State) : Prop :=
  ∀ b, t.byteAt b = if a ≤ b ∧ b < a + bs.length then bs.getD (b - a) 0#8 else s.byteAt b

section
variable {s : State} {who a : Nat} {bs : List Byte} (hs : s.Canonical) (hline : a % 64 + bs.length ≤ 64)
include hs hline

/-- Bytes stored in memory, of a line that the cache does not hold. -/
theorem State.stored_mem (hc : tblFind s.sys.cache (a / 64) = none) (htakes : s.takesWrite a = true) :
    s.Stored a bs ((Upd.mem a bs).apply s) := by
  intro b
  by_cases hb : a ≤ b ∧ b < a + bs.length
  · have hsame : b / 64 = a / 64 := by omega
    have hrom := State.not_rom_of_takesWrite htakes hsame
    rw [if_pos hb, State.byteAt_of_uncached (s := (Upd.mem a bs).apply s) (by rw [hsame]; exact hc) hrom]
    exact (memGet_memPutAll hs.1 a bs b).trans (if_pos hb)
  · rw [if_neg hb, State.byteAt, State.byteAt]
    have hmem : memGet ((Upd.mem a bs).apply s).mem b = memGet s.mem b := (memGet_memPutAll hs.1 a bs b).trans (if_neg hb)
    rw [hmem]
    rfl

omit hs in
/-- Bytes stored in a line of the cache. -/
theorem State.stored_line (dirty : Bool) :
    s.Stored a bs (s.withLine (a / 64) ⟨putBytes (s.bytesAt (a / 64 * 64) 64) (a % 64) bs, dirty⟩) := by
  intro b
  rw [State.byteAt_withLine]
  by_cases hsame : b / 64 = a / 64
  · rw [if_pos hsame]
    dsimp only
    rw [getD_putBytes (by rw [length_bytesAt]; exact hline)]
    by_cases hb : a ≤ b ∧ b < a + bs.length
    · rw [if_pos hb, if_pos (by omega)]
      congr 1
      omega
    · rw [if_neg hb, if_neg (by omega), getD_bytesAt _ _ _ _ (by omega)]
      congr 1
      omega
  · rw [if_neg hsame, if_neg (by omega)]

theorem storeLine_leads (hcap : cached who = true → s.sys.cache.length < cacheLines) (htakes : s.takesWrite a = true)
    (hc : (∃ p o, s.place a = .ddr p o) ∧ cached who = true ∨ tblFind s.sys.cache (a / 64) = none) :
    (storeLine who a bs).Leads s fun _ t => s.Stored a bs t ∧ s.SameBut [.mem, .sys] t := by
  refine .getS ?_
  split
  · next p o hp =>
    split
    · next hwho => exact (allocLine_gives (hcap hwho) _ _).leads ⟨State.stored_line hline true, Upd.sameBut_of _ s⟩
    · next hwho =>
      have hnone := hc.resolve_left fun h => hwho h.2
      exact (dropLine_gives_of_none hnone).leads_bind
        ((update_gives _ _).leads ⟨State.stored_mem hs hline hnone htakes, Upd.sameBut_of _ s⟩)
  · next hp =>
    have hnone := hc.resolve_left fun ⟨⟨p, o, hddr⟩, _⟩ => hp p o hddr
    exact (update_gives _ _).leads ⟨State.stored_mem hs hline hnone htakes, Upd.sameBut_of _ s⟩

end

/-- What a request to memory needs: it decodes, stands before no fence, no ECC word of it is bad or weak, it lies in one line, and
the line is one that the requester takes into the cache or one that the cache does not hold. -/
structure State.Serves (s : State) (who a n : Nat) : Prop where
  canonical : s.Canonical
  holds : holdsBytes s a n
  line : a % 64 + n ≤ 64
  capacity : cached who = true → s.sys.cache.length < cacheLines
  cache : (∃ p o, s.place a = .ddr p o) ∧ cached who = true ∨ tblFind s.sys.cache (a / 64) = none

/-- What a served write leaves. -/
structure State.Wrote (s : State) (a : Nat) (bs : List Byte) (t : State) : Prop where
  bytes : s.Stored a bs t
  frame : s.SameBut [.mem, .regs, .sys] t
  onChip : (∀ p o, s.place a ≠ .ddr p o) → s.SameBut [.mem, .sys] t

section
variable {s : State} {who a : Nat} {bs : List Byte}

/-- The state with words whose check bits a write made fresh. -/
def State.freshWords (s : State) (p : Nat → Bool) : State :=
  (Upd.sys fun m => { m with badWords := m.badWords.filter p, weakWords := m.weakWords.filter p }).apply s

theorem State.Serves.not_bad {n : Nat} (h : s.Serves who a n) {w : Nat} (hw : w ∈ s.eccWords a n) : s.sys.badWords.contains w = false := by
  obtain ⟨-, -, hwords⟩ := h.holds
  simp [(hwords w hw).1]

theorem State.Serves.not_weak {n : Nat} (h : s.Serves who a n) {w : Nat} (hw : w ∈ s.eccWords a n) : s.sys.weakWords.contains w = false := by
  obtain ⟨-, -, hwords⟩ := h.holds
  simp [(hwords w hw).2]

/-- Once metered, a served write stores its bytes. -/
theorem storeLine_leads_of_metered {p : Nat → Bool} {u : State} (h : s.Serves who a bs.length) (hu : (s.freshWords p).Metered u) :
    (storeLine who a bs).Leads u fun _ t => s.Stored a bs t ∧ u.SameBut [.mem, .sys] t := by
  have hplace (x : Nat) : u.place x = s.place x := hu.place x
  have hcache : u.sys.cache = s.sys.cache := by rw [hu.sys]; rfl
  have hrcv : u.rcv = s.rcv := hu.frame.2 .rcv (by decide)
  have htakes : u.takesWrite a = true := by
    obtain ⟨ht, -, -⟩ := h.holds
    unfold State.takesWrite at ht ⊢
    simp only [hplace, State.placeFenced, State.fenced, State.fence, hrcv] at ht ⊢
    exact ht
  refine (storeLine_leads hu.canonical h.line (by rw [hcache]; exact h.capacity) htakes (by rw [hplace, hcache]; exact h.cache)).mono ?_
  rintro _ t ⟨hstored, hframe⟩
  refine ⟨fun b => (hstored b).trans ?_, hframe⟩
  rw [hu.byteAt b]
  rfl

theorem physWrite_leads (h : s.Serves who a bs.length) : (physWrite who a bs).Leads s fun r t => r = none ∧ s.Wrote a bs t := by
  obtain ⟨htakes, hpcie, -⟩ := h.holds
  refine (admitAccess_gives htakes hpcie who true).leads_bind (.getS ?_)
  dsimp only
  have hpart : ((s.eccWords a bs.length).filter fun w => s.sys.badWords.contains w && !s.coversWord a bs.length w) = [] :=
    List.filter_eq_nil_iff.mpr fun w hw => by rw [h.not_bad hw]; simp
  rw [hpart]
  refine .upd ?_
  set p : Nat → Bool := fun w => !((s.eccWords a bs.length).contains w && s.coversWord a bs.length w) with hp
  have hfresh : (s.freshWords p).Canonical := Upd.apply_canonical _ _ h.canonical
  have hframe : s.SameBut [.sys] (s.freshWords p) := Upd.sameBut_of _ s
  by_cases hddr : ∃ q o, s.place a = .ddr q o
  · refine .bind ((meter_leads hfresh).mono fun _ u hu => .bind ((storeLine_leads_of_metered h hu).mono ?_))
    rintro _ t ⟨hstored, ht⟩
    have hall : s.SameBut [.mem, .regs, .sys] t := ((hframe.mono (by decide)).trans (hu.frame.mono (by decide))).trans (ht.mono (by decide))
    exact .pure ⟨rfl, hstored, hall, fun hno => absurd hddr (by simpa using hno)⟩
  · have hno : ∀ q o, s.place a ≠ .ddr q o := by simpa using hddr
    refine (meter_gives_of_not_ddr (s := s.freshWords p) hno).leads_bind (.bind ((storeLine_leads_of_metered h (.refl hfresh)).mono ?_))
    rintro _ t ⟨hstored, ht⟩
    have hall : s.SameBut [.mem, .sys] t := (hframe.mono (by decide)).trans ht
    exact .pure ⟨rfl, hstored, hall.mono (by decide), fun _ => hall⟩

end

/-! ## Reads -/

section
variable {s : State} {who a n : Nat}

theorem byteAt_withLine_clean (s : State) (line b : Nat) : (s.withLine line ⟨s.bytesAt (line * 64) 64, false⟩).byteAt b = s.byteAt b := by
  rw [State.byteAt_withLine]
  split
  · next hb =>
    rw [getD_bytesAt _ _ _ _ (by omega)]
    congr 1
    omega
  · rfl

theorem touchLine_leads (hcap : cached who = true → s.sys.cache.length < cacheLines) :
    (touchLine who a).Leads s fun _ t => (∀ b, t.byteAt b = s.byteAt b) ∧ s.SameBut [.sys] t := by
  refine .getS ?_
  split
  · split
    · next hwho => exact (allocLine_gives (hcap hwho.1) _ _).leads ⟨byteAt_withLine_clean s _, Upd.sameBut_of _ s⟩
    · exact .pure ⟨fun _ => rfl, .refl _ s⟩
  · exact .pure ⟨fun _ => rfl, .refl _ s⟩

theorem touchLine_gives_of_not_ddr (h : ∀ p o, s.place a ≠ .ddr p o) : (touchLine who a).gives s () s := by
  refine M.gives.getS_bind ?_
  split
  · next p o hp => exact absurd hp (h p o)
  · exact pure_gives _ _

/-- What a served read leaves: every byte as it was. -/
structure State.ReadOut (s : State) (a : Nat) (t : State) : Prop where
  bytes : ∀ b, t.byteAt b = s.byteAt b
  frame : s.SameBut [.regs, .sys] t
  onChip : (∀ p o, s.place a ≠ .ddr p o) → t = s

theorem physRead_leads (h : s.Serves who a n) :
    (physRead who a n).Leads s fun r t => r = .ok (s.bytesAt a n) ∧ s.ReadOut a t := by
  obtain ⟨htakes, hpcie, -⟩ := h.holds
  refine (admitAccess_gives htakes hpcie who false).leads_bind (.getS ?_)
  dsimp only
  have hbad : ((s.eccWords a n).find? fun w => s.sys.badWords.contains w) = none :=
    List.find?_eq_none.mpr fun w hw => by rw [h.not_bad hw]; simp
  rw [hbad]
  dsimp only
  rw [forIn_of_idle _ fun w hw => by rw [h.not_weak hw]; rfl]
  have hanswer {t : State} {Q : Except MemErr (List Byte) → State → Prop} (hQ : Q (.ok (s.bytesAt a n)) t) :
      (match s.place a with
        | .pcie => do
          let s ← getS
          update (.free (· + 1))
          return .ok ((List.range n).map fun i => Config.pcieByte s.free (a + i))
        | _ => return .ok (s.bytesAt a n) : M (Except MemErr (List Byte))).Leads t Q := by
    split
    · next hp => exact absurd hp hpcie
    · exact .pure hQ
  by_cases hddr : ∃ q o, s.place a = .ddr q o
  · refine (pure_gives _ _).leads_bind (.bind ((meter_leads h.canonical).mono fun _ u hu => .bind ((touchLine_leads (by rw [hu.sys]; exact h.capacity)).mono ?_)))
    rintro _ t ⟨hbytes, ht⟩
    refine hanswer ⟨rfl, fun b => (hbytes b).trans (hu.byteAt b), (hu.frame.mono (by decide)).trans (ht.mono (by decide)), fun hno => ?_⟩
    exact absurd hddr (by simpa using hno)
  · have hno : ∀ q o, s.place a ≠ .ddr q o := by simpa using hddr
    refine (pure_gives _ _).leads_bind ((meter_gives_of_not_ddr hno).leads_bind ((touchLine_gives_of_not_ddr hno).leads_bind (hanswer ?_)))
    exact ⟨rfl, fun _ => rfl, .refl _ s, fun _ => rfl⟩

end

/-! ## Requests -/

section
variable {s : State} {c : Requester} {a n : Nat} {data : List Byte}

theorem State.SameBut.out {ps : List Part} {t : State} (h : s.SameBut ps t) (ok : Bool) (bs : List Byte) :
    s.SameBut (ps ++ [.out]) ((Upd.out fun _ => some ⟨ok, bs⟩).apply t) :=
  ((h.mono (List.subset_append_left ..)).upd _ (by simp [Upd.part]))

theorem upsetWord_gives (a : Nat) (s : State) : (upsetWord a 0).gives s () s := by
  refine M.gives.getS_bind ?_
  split
  · exact pure_gives _ _
  · exact pure_gives _ _
  · exact pure_gives _ _
  · exact pure_gives _ _
  · exact pure_gives _ _

/-- A request outside register space, without an upset. -/
theorem exec_memoryRequest {w : Bool} (hform : requestForm s c w a n data = true) (hregs : ∀ off, s.place a ≠ .regs off) :
    exec (.memoryRequest c none w a n data 0) s = .next (M.run (if w then do
        match ← physWrite (senderId c) a data with
        | none => answer true []
        | some _ => answer false []
      else do
        match ← physRead (senderId c) a n with
        | .ok bs => answer true bs
        | .error _ => answer false []) s) := by
  change execMemoryRequest c none w a n data 0 s = _
  refine (whenEnabled_next hform).trans (congrArg _ ?_)
  rw [memoryRequest, physRequest, run_getS_bind]
  dsimp only
  split
  · next off hp => exact absurd hp (hregs off)
  · refine ((upsetWord_gives a s).run_bind _).trans ?_
    cases w <;> rfl

theorem length_of_requestForm (h : requestForm s c true a n data = true) : data.length = n := by
  unfold requestForm at h
  simp only [Bool.and_eq_true] at h
  simpa using h.2

theorem exec_memoryRequest_write (h : s.Serves (senderId c) a n) (hform : requestForm s c true a n data = true) :
    ∃ t, exec (.memoryRequest c none true a n data 0) s = .next ((Upd.out fun _ => some ⟨true, []⟩).apply t) ∧ s.Wrote a data t := by
  obtain ⟨htakes, -, -⟩ := h.holds
  have hlen := length_of_requestForm hform
  obtain ⟨_, t, hgives, rfl, hwrote⟩ := physWrite_leads (bs := data) (hlen ▸ h)
  refine ⟨t, (exec_memoryRequest hform fun off hp => by simp [State.takesWrite, hp] at htakes).trans (congrArg _ ?_), hwrote⟩
  rw [if_pos rfl, hgives.run_bind]
  rfl

theorem exec_memoryRequest_read (h : s.Serves (senderId c) a n) (hform : requestForm s c false a n [] = true) :
    ∃ t, exec (.memoryRequest c none false a n [] 0) s = .next ((Upd.out fun _ => some ⟨true, s.bytesAt a n⟩).apply t) ∧ s.ReadOut a t := by
  obtain ⟨htakes, -, -⟩ := h.holds
  obtain ⟨_, t, hgives, rfl, hread⟩ := physRead_leads h
  refine ⟨t, (exec_memoryRequest hform fun off hp => by simp [State.takesWrite, hp] at htakes).trans (congrArg _ ?_), hread⟩
  rw [if_neg Bool.false_ne_true, hgives.run_bind]
  rfl

theorem admitAccess_gives_hole (hp : s.place a = .hole) (who : Nat) (w : Bool) : (admitAccess who a w).gives s (some .decode)
    (s.afterEvent who (partOf who) 0x3002 (det [(5, a % 2 ^ 40), (1, flagBit w)])) := by
  refine M.gives.getS_bind ?_
  rw [hp]
  exact (raise_gives _ _ _ _ _).bind (pure_gives _ _)

theorem exec_memoryRequest_hole {w : Bool} (hp : s.place a = .hole) (hform : requestForm s c w a n data = true) :
    exec (.memoryRequest c none w a n data 0) s = .next ((Upd.out fun _ => some ⟨false, []⟩).apply
      (s.afterEvent (senderId c) (partOf (senderId c)) 0x3002 (det [(5, a % 2 ^ 40), (1, flagBit w)]))) := by
  refine (exec_memoryRequest hform fun off hr => by simp [hp] at hr).trans (congrArg _ ?_)
  have hgives := admitAccess_gives_hole hp (senderId c) w
  cases w with
  | true =>
    have hwrite : (physWrite (senderId c) a data).gives s (some .decode) _ := hgives.bind (pure_gives _ _)
    rw [if_pos rfl, hwrite.run_bind]
    rfl
  | false =>
    have hread : (physRead (senderId c) a n).gives s (.error .decode) _ := hgives.bind (pure_gives _ _)
    rw [if_neg Bool.false_ne_true, hread.run_bind]
    rfl

end

/-- Settles O11: what a served write stores, what a served read leaves, and what a hole answers. -/
theorem requestsStoreAndReadBytes : Obligations.RequestsStoreAndReadBytes := by
  intro s c a n data hs hcap
  refine ⟨fun hholds hline hcache => ⟨fun hform => ?_, fun hform => ?_⟩, fun w hp hform => ?_⟩
  · have hlen := length_of_requestForm hform
    obtain ⟨t, hx, hwrote⟩ := exec_memoryRequest_write ⟨hs, hholds, hline, fun _ => hcap, hcache⟩ hform
    refine ⟨_, hx, rfl, fun b => (hwrote.bytes b).trans (by rw [hlen]), hwrote.frame.out _ _, fun hno => (hwrote.onChip hno).out _ _⟩
  · obtain ⟨t, hx, hread⟩ := exec_memoryRequest_read ⟨hs, hholds, hline, fun _ => hcap, hcache⟩ hform
    refine ⟨_, hx, rfl, hread.bytes, (hread.frame.out _ _).mono (by decide), fun hno => ?_⟩
    rw [hread.onChip hno]
    exact (State.SameBut.refl [.sys] s).out _ _
  · exact ⟨_, _, exec_memoryRequest_hole hp hform, rfl, rfl, Upd.sameBut_of _ _⟩

end Sys2Proof.Machine
end

section
/-! PROOFS. Entries appended to a queue (R104, R105, R109). -/

namespace Sys2Proof.Machine

open Sys2Proof

/-! ## The bytes of an entry -/

theorem length_leBytes (k n : Nat) : (leBytes k n).length = k := by
  induction k generalizing n with
  | zero => rfl
  | succ k ih => simp [leBytes, ih]

theorem length_padTo (n : Nat) (bs : List Byte) : (padTo n bs).length = n := by simp [padTo, zeros]

theorem length_entryBytes (payload : List Byte) (stamp seq producer ty : Nat) (safety : Bool) :
    (entryBytes payload stamp seq producer ty safety).length = 64 := by
  simp [entryBytes, length_leBytes, length_padTo]

/-! ## Writing one line under a context -/

/-- 64 aligned bytes are one piece. -/
theorem linePieces_line {a : Nat} (ha : a % 64 = 0) : linePieces (64 / 64 + 2) a 0 64 = [(0, 64)] := by
  simp [linePieces, ha]

/-- The state with one context's count of bytes written moved on. -/
def State.wroteFor (s : State) (h n : Nat) : State := M.run (modCtx h fun c => { c with bytesWritten := satAdd 48 c.bytesWritten n }) s

theorem State.wroteFor_frame (s : State) (h n : Nat) : s.SameBut [.tally] (s.wroteFor h n) := Upd.sameBut_of _ s

theorem ctxWrite_leads {s : State} {who h pa : Nat} {bs : List Byte} {c : Ctx} (hc : s.ctx h = some c) (hp : c.physical = true)
    (hpa : pa < 2 ^ 40) (halign : pa % 64 = 0) (hlen : bs.length = 64) (hsafe : c.safety = false → s.safetyPage pa = false)
    (hserves : s.Serves who pa bs.length) :
    (ctxWrite who h pa bs).Leads s fun r t => r = none ∧ ∃ u, s.Wrote pa bs u ∧ t = u.wroteFor h 64 := by
  unfold ctxWrite
  dsimp only
  rw [hlen, linePieces_line halign, List.forIn_cons]
  refine .bind (.bind ?_)
  rw [if_pos (c := (none : Option MemErr).isNone = true) rfl]
  refine (translate_physical hc hp hpa fun _ => hsafe).leads_bind (.bind ?_)
  rw [List.drop_zero, List.take_of_length_le hlen.le]
  refine (physWrite_leads hserves).mono ?_
  rintro _ u ⟨rfl, hu⟩
  exact .pure (.pure ((update_gives _ _).leads_bind (.pure ⟨rfl, u, hu, rfl⟩)))

/-! ## An append -/

section
variable {s : State} {q : Nat} {u : Queue}

/-- No interrupt leaves where the link is down or no vector names the queue. -/
theorem msixFor_gives (h : q = 0 ∨ s.fld Reg.pcieStatus Fld.pcieStatusSpeed = 0 ∨ ∀ v < 16, s.fld (Reg.pcieMsix v) Fld.pcieMsixQueue ≠ q) :
    (msixFor q).gives s () s := by
  refine M.gives.getS_bind ?_
  rw [forIn_of_idle]
  · exact pure_gives _ _
  · intro v hv
    rw [if_neg]
    rintro ⟨hq, hne, hspeed⟩
    rcases h with h | h | h
    · exact hne h
    · exact hspeed h
    · exact h v (List.mem_range.mp hv) hq

theorem forwardEntry_gives {seq oseq oqueue oslot index : Nat} {payload : List Byte} (hu : s.queue q = some u) (hr : u.remote = none) :
    (forwardEntry q seq oseq oqueue oslot index payload).gives s () s := by
  refine M.gives.getS_bind ?_
  rw [hu]
  have : (some u).bind Queue.proxy = none := by simp [Queue.proxy, hr]
  rw [this]
  exact pure_gives _ _

theorem appendEntry_gives_of_ungated {ty producer : Nat} {payload : List Byte} {safety : Bool} {bound : Option (Nat × Nat)}
    (hp : s.pipeOfQueue q = none) {r : Except AppendErr Nat} {t : State}
    (h : (acceptEntry q ty payload producer safety bound noKey none id).gives s r t) :
    (appendEntry q ty payload producer safety bound none noKey).gives s r t := by
  have hrefuse : s.gateRefuses q none = false := by simp [State.gateRefuses, hp]
  have hgate : s.gateOf q none = none := by simp [State.gateOf, hp]
  refine M.gives.getS_bind ?_
  rw [hrefuse, hgate]
  exact h

/-- A queue after an entry was appended. -/
def Queue.appended (u : Queue) (now ty : Nat) (payload : List Byte) (producer : Nat) (safety : Bool) (bound : Option (Nat × Nat)) : Queue :=
  { u with
    next := (u.next + 1) % 2 ^ 32
    ents := u.ents ++ [⟨u.next, freeSlot u, ty, producer, safety, leAt payload (4 * u.flowWord) 4, now, bound, none⟩] }

section
variable {ty producer : Nat} {payload : List Byte} {safety : Bool} {bound : Option (Nat × Nat)} (hu : s.queue q = some u)
  (hledger : u.ledger = false)
include hu hledger

theorem acceptEntry_gives_full (hfull : u.full = true) :
    (acceptEntry q ty payload producer safety bound noKey none id).gives s (.error .full) s := by
  refine M.gives.getS_bind ?_
  rw [hu]
  dsimp only
  rw [hledger, if_neg (by simp), if_pos hfull]
  exact pure_gives _ _

/-- The rest of an append once the entry's bytes are written, by an owner whose count of bytes moved on. -/
theorem acceptEntry_leads {w : State} (hremote : u.remote = none) (hroom : u.full = false)
    (hmsix : q = 0 ∨ s.fld Reg.pcieStatus Fld.pcieStatusSpeed = 0 ∨ ∀ v < 16, s.fld (Reg.pcieMsix v) Fld.pcieMsixQueue ≠ q)
    (hw : (ctxWrite 0x80 u.owner (u.base + 64 * freeSlot u) (entryBytes payload s.clock.now u.next producer ty safety)).gives s none
      (w.wroteFor u.owner 64))
    (hframe : s.SameBut [.mem, .sys] w) :
    (acceptEntry q ty payload producer safety bound noKey none id).gives s (.ok u.next)
      ((w.wroteFor u.owner 64).withQueue q (u.appended s.clock.now ty payload producer safety bound)) := by
  have hqueue : (w.wroteFor u.owner 64).queue q = some u := by
    change tblFind w.tally.queues q = some u
    rw [hframe.2 .tally (by decide)]
    exact hu
  have hafter : ((w.wroteFor u.owner 64).withQueue q (u.appended s.clock.now ty payload producer safety bound)).queue q =
      some (u.appended s.clock.now ty payload producer safety bound) := by
    rw [State.queue_withQueue, if_pos rfl]
  have hfld (off : Nat) (f : Field) :
      ((w.wroteFor u.owner 64).withQueue q (u.appended s.clock.now ty payload producer safety bound)).fld off f = s.fld off f :=
    fld_congr (t := w) (hframe.2 .regs (by decide)) off f
  refine M.gives.getS_bind ?_
  rw [hu]
  dsimp only
  rw [hledger, if_neg (by simp), if_neg (by simp [hroom]), if_neg (by simp)]
  refine hw.bind ?_
  dsimp only
  rw [if_neg (by simp), hremote]
  refine (modQueue_gives hqueue _).bind ?_
  rw [if_pos (c := (none : Option Nat).isNone = true) rfl, if_pos (c := noKey = noKey) rfl, if_pos (c := noKey = noKey) rfl,
    if_neg (by simp), ← Queue.appended]
  refine (forwardEntry_gives hafter hremote).bind ((msixFor_gives ?_).bind (pure_gives _ _))
  simpa only [hfld] using hmsix

end

end

/-- Settles O20: the ring write of one line, then the queue's new entry. -/
theorem appendedEntriesTakeTheNextSequence : Obligations.AppendedEntriesTakeTheNextSequence := by
  intro s q ty payload producer safety bound u hs hu hledger hremote hpipe
  refine ⟨fun hfull => appendEntry_gives_of_ungated hpipe (acceptEntry_gives_full hu hledger hfull), ?_⟩
  intro c hroom hc hp pa halign hpa hholds hddr hcache hsafe hmsix
  have hlen : (entryBytes payload s.clock.now u.next producer ty safety).length = 64 := length_entryBytes ..
  have hserves : s.Serves 0x80 pa (entryBytes payload s.clock.now u.next producer ty safety).length :=
    ⟨hs, hlen ▸ hholds, by omega, fun hwho => (by cases hwho), .inr hcache⟩
  obtain ⟨_, _, hgives, rfl, w, hwrote, rfl⟩ :=
    ctxWrite_leads hc hp hpa halign hlen (fun hno => hsafe.resolve_left (by simp [hno])) hserves
  have hframe := hwrote.onChip hddr
  refine ⟨_, appendEntry_gives_of_ungated hpipe (acceptEntry_leads hu hledger hremote hroom hmsix hgives hframe), ?_, fun x hx => ?_, ?_,
    fun b => ?_⟩
  · rw [State.queue_withQueue, if_pos rfl]
    rfl
  · rw [State.queue_withQueue, if_neg hx]
    change tblFind w.tally.queues x = _
    rw [hframe.2 .tally (by decide)]
    rfl
  · exact (hframe.mono (by decide)).trans (((w.wroteFor_frame _ _).trans (State.withQueue_frame ..)).mono (by decide))
  · rw [← hlen]
    exact hwrote.bytes b

end Sys2Proof.Machine
end

section
/-! PROOFS. Support of the proofs that follow: one task, one engine, one entry of the token board changed, and one piece of work. -/

namespace Sys2Proof.Machine

open Sys2Proof

/-! ## One task -/

/-- The state with one task as given. -/
def State.withTask (s : State) (n : Nat) (k : Task) : State := (Upd.tally fun x => { x with tasks := tblSet x.tasks n k }).apply s

section
variable {s t : State} {n : Nat} {k : Task}

theorem State.task_withTask (s : State) (n : Nat) (k : Task) (m : Nat) : (s.withTask n k).task m = if m = n then some k else s.task m := by
  by_cases hm : m = n
  · rw [if_pos hm, hm]
    exact tblFind_tblSet_same ..
  · rw [if_neg hm]
    exact tblFind_tblSet _ _ hm

theorem State.oneTask_withTask (s : State) (n : Nat) (k : Task) : OneTask s n (some k) (s.withTask n k) :=
  ⟨by rw [State.task_withTask, if_pos rfl], fun m hm => by rw [State.task_withTask, if_neg hm]⟩

theorem State.withTask_frame (s : State) (n : Nat) (k : Task) : s.SameBut [.tally] (s.withTask n k) := Upd.sameBut_of _ s

theorem State.upd_modTask (hk : s.task n = some k) (f : Task → Task) :
    (Upd.tally fun x => { x with tasks := match tblFind x.tasks n with
      | some k => tblSet x.tasks n (f k)
      | none => x.tasks }).apply s = s.withTask n (f k) := by
  rw [State.task] at hk
  simp only [Upd.apply, State.withTask, hk]

theorem modTask_gives (hk : s.task n = some k) (f : Task → Task) : (modTask n f).gives s () (s.withTask n (f k)) := by
  intro m
  rw [← State.upd_modTask hk f]
  rfl

theorem OneTask.congr (h : OneTask s n (some k) t) {u : State} (hu : ∀ m, u.task m = t.task m) : OneTask s n (some k) u :=
  ⟨(hu n).trans h.1, fun m hm => (hu m).trans (h.2 m hm)⟩

end

/-! ## One engine -/

/-- The state with one engine as given. -/
def State.withEngine (s : State) (e : Nat) (g : Engine) : State := (Upd.engines fun t => tblSet t e g).apply s

section
variable {s : State} {e : Nat} {g : Engine}

theorem State.engine_withEngine (s : State) (e : Nat) (g : Engine) (x : Nat) :
    (s.withEngine e g).engine x = if x = e then g else s.engine x := by
  by_cases hx : x = e
  · rw [if_pos hx, hx]
    exact tblGet_tblSet_same ..
  · rw [if_neg hx]
    exact tblGet_tblSet _ _ _ hx

theorem State.oneEngine_withEngine (s : State) (e : Nat) (g : Engine) : OneEngine s e g (s.withEngine e g) :=
  ⟨by rw [State.engine_withEngine, if_pos rfl], fun x hx => by rw [State.engine_withEngine, if_neg hx]⟩

theorem State.withEngine_frame (s : State) (e : Nat) (g : Engine) : s.SameBut [.engines] (s.withEngine e g) := Upd.sameBut_of _ s

theorem modEngine_gives (e : Nat) (f : Engine → Engine) (s : State) : (modEngine e f).gives s () (s.withEngine e (f (s.engine e))) :=
  fun _ => rfl

end

/-! ## One entry of the token board -/

/-- The entry of the token board for a key. -/
def State.boardAt (s : State) (b : Nat) : Board := tblGet s.tally.board ⟨[], 0, 0⟩ b

/-- The state with one entry of the token board as given. -/
def State.withBoard (s : State) (b : Nat) (e : Board) : State := (Upd.tally fun x => { x with board := tblSet x.board b e }).apply s

theorem State.withBoard_frame (s : State) (b : Nat) (e : Board) : s.SameBut [.tally] (s.withBoard b e) := Upd.sameBut_of _ s

/-! ## One piece of work -/

section
variable {s t : State}

/-- Work that brings no other. -/
theorem run_settleAll_one {w : Work} (hw : (doWork w).gives s [] t) (ht : noStaging t) : M.run (settleAll [w]) s = t := by
  rw [settleAll, run_getS_bind]
  dsimp only
  have hfuel (a b c : Nat) : 16 * (a + b + c) + 64 = (16 * (a + b + c) + 63) + 1 := rfl
  rw [hfuel, settle]
  refine (hw.run_bind fun more => settle _ (more ++ []) >>= fun _ => applyStaging).trans ?_
  rw [List.append_nil, settle_nil, run_pure_bind, run_applyStaging_of_noStaging ht]

end

end Sys2Proof.Machine
end

section
/-! PROOFS. Tokens, dispatch and the start of tasks (R120, R124, R125). -/

namespace Sys2Proof.Machine

open Sys2Proof

/-! ## Tokens -/

section
variable {s : State} {h key b n sl : Nat} {failed : Bool} {k : Task} {rest : List (Nat × Nat)}

theorem exec_tokenArrival (h1 : 1 ≤ key) (h2 : key < 4096) :
    exec (.tokenArrival h key failed) s = .next (M.run (tokenArrival h key failed) s) := by
  change execTokenArrival h key failed s = _
  exact whenEnabled_next (by simp [h1, h2])

theorem run_tokenArrival_stale (hc : s.ctx h = none) : M.run (tokenArrival h key failed) s =
    s.putFld Reg.rcvLate Fld.rcvLateCount (satAdd Fld.rcvLateCount.width (s.fld Reg.rcvLate Fld.rcvLateCount) 1) := by
  rw [tokenArrival, run_getS_bind, if_pos (by simp [hc])]
  rfl

/-- A token of a live context is one piece of work. -/
theorem run_tokenArrival {t : State} (hc : (s.ctx h).isSome = true) (hw : (onToken (h * 4096 + key) failed).gives s [] t) (ht : noStaging t) :
    M.run (tokenArrival h key failed) s = t := by
  rw [tokenArrival, run_getS_bind, if_neg (by simpa [Option.isNone_iff_eq_none, Option.isSome_iff_ne_none] using hc)]
  exact run_settleAll_one hw ht

/-- An entry of the board with one token more of a kind. -/
def Board.counted (e : Board) (failed : Bool) : Board := if failed then { e with failed := e.failed + 1 } else { e with ok := e.ok + 1 }

theorem onToken_gives_counted (hwait : (s.boardAt b).waiters = [])
    (hroom : (if failed then (s.boardAt b).failed else (s.boardAt b).ok) < 65535) :
    (onToken b failed).gives s [] (s.withBoard b ((s.boardAt b).counted failed)) := by
  refine M.gives.getS_bind ?_
  rw [← State.boardAt]
  generalize s.boardAt b = e at *
  obtain ⟨w, o, f⟩ := e
  dsimp only at hwait hroom ⊢
  subst hwait
  cases failed with
  | true => exact .ite_pos rfl _ (.ite_neg (by simpa using hroom) _ ((update_gives _ _).bind (pure_gives _ _)))
  | false => exact .ite_neg (by simp) _ (.ite_neg (by simpa using hroom) _ ((update_gives _ _).bind (pure_gives _ _)))

theorem onToken_gives_lost (hwait : (s.boardAt b).waiters = [])
    (hfull : 65535 ≤ (if failed then (s.boardAt b).failed else (s.boardAt b).ok)) :
    (onToken b failed).gives s [] (s.afterEvent 0x80 6 0x3101 (det [(4, b / 4096 % 2 ^ 20 + b % 4096 * 2 ^ 20)])) := by
  refine M.gives.getS_bind ?_
  rw [← State.boardAt]
  generalize s.boardAt b = e at *
  obtain ⟨w, o, f⟩ := e
  dsimp only at hwait hfull ⊢
  subst hwait
  cases failed with
  | true => exact .ite_pos rfl _ (.ite_pos (by simpa using hfull) _ ((raise_gives _ _ _ _ _).bind (pure_gives _ _)))
  | false => exact .ite_neg (by simp) _ (.ite_pos (by simpa using hfull) _ ((raise_gives _ _ _ _ _).bind (pure_gives _ _)))

/-- A task with one slot less to wait for. -/
def Task.satisfied (k : Task) (sl : Nat) (failed : Bool) : Task :=
  { k with missing := k.missing.filter (· ≠ sl), failed := k.failed || failed }

theorem satisfy_gives (hk : s.task n = some k) (hsl : sl ∈ k.missing) (hmore : k.missing ≠ [sl]) :
    (satisfy n sl failed).gives s [] (s.withTask n (k.satisfied sl failed)) := by
  refine M.gives.getS_bind ?_
  rw [hk]
  exact .ite_neg (by simpa using hsl) _ ((modTask_gives hk _).bind (.ite_neg hmore _ (pure_gives _ _)))

theorem onToken_gives_waiter (hwait : (s.boardAt b).waiters = (n, sl) :: rest) (hk : s.task n = some k) (hsl : sl ∈ k.missing)
    (hmore : k.missing ≠ [sl]) :
    (onToken b failed).gives s [] ((s.withBoard b { s.boardAt b with waiters := rest }).withTask n (k.satisfied sl failed)) := by
  refine M.gives.getS_bind ?_
  rw [← State.boardAt]
  dsimp only
  rw [hwait]
  exact (update_gives _ _).bind (satisfy_gives hk hsl hmore)

end

/-- Settles O25: the token is one piece of work, which counts it, loses it, or gives it to the oldest waiter. -/
theorem tokensReachTheOldestWaiter : Obligations.TokensReachTheOldestWaiter := by
  intro s h key failed hs h1 h2 c b e boardOnly
  have hb : b / 4096 % 2 ^ 20 + b % 4096 * 2 ^ 20 = h % 2 ^ 20 + key * 2 ^ 20 := by
    have : b / 4096 = h := by omega
    have : b % 4096 = key := by omega
    simp [*]
  have hothers (v : Board) (x : Nat) (hx : x ≠ b) : tblFind (s.withBoard b v).tally.board x = tblFind s.tally.board x := tblFind_tblSet _ _ hx
  have hat (v : Board) : tblGet (s.withBoard b v).tally.board ⟨[], 0, 0⟩ b = v := tblGet_tblSet_same ..
  have hrun {t : State} (h : M.run (tokenArrival _ key failed) s = t) : exec c s = .next t := (exec_tokenArrival h1 h2).trans (congrArg _ h)
  refine ⟨fun hc => ?_, fun hc hst => ⟨fun hwait hf hroom => ?_, fun hwait hf hroom => ?_, fun hwait hfull => ?_, ?_⟩⟩
  · exact ⟨_, hrun (run_tokenArrival_stale hc), State.sameBut_putFld .., fun x => State.reg_putFld hs⟩
  · subst hf
    have hgives := onToken_gives_counted (s := s) (b := b) (failed := false) hwait hroom
    exact ⟨_, hrun (run_tokenArrival hc hgives hst), ⟨s.withBoard_frame .., rfl, hothers _⟩, hat _⟩
  · subst hf
    have hgives := onToken_gives_counted (s := s) (b := b) (failed := true) hwait hroom
    exact ⟨_, hrun (run_tokenArrival hc hgives hst), ⟨s.withBoard_frame .., rfl, hothers _⟩, hat _⟩
  · have hgives := onToken_gives_lost (s := s) (b := b) (failed := failed) hwait hfull
    rw [← hb]
    exact hrun (run_tokenArrival hc hgives ((noStaging_congr (s.afterEvent_quiet _ _ _ _).regs).mpr hst))
  · intro n sl rest k hwait hk hsl hmore
    have hne : k.missing ≠ [sl] := fun heq => hmore (by simp [heq])
    have hgives := onToken_gives_waiter (s := s) (b := b) (failed := failed) hwait hk hsl hne
    refine ⟨hne, _, hrun (run_tokenArrival hc hgives hst), ((s.withBoard_frame ..).trans (State.withTask_frame ..)), rfl, hothers _, hat _, ?_⟩
    exact State.oneTask_withTask (s.withBoard b _) n _

/-! ## Dispatch -/

section
variable {s : State} {e n : Nat} {k : Task}

/-- A task that an engine's pick names is in the store. -/
theorem State.task_of_pick (h : s.pick e = some n) : (s.task n).isSome = true := by
  have hok (l : List Nat) (f : Nat → Bool) (hf : (l.find? f) = some n) (himp : f n = true → s.eligible e n = true) :
      (s.task n).isSome = true := by
    have helig := himp (List.find?_some hf)
    unfold State.eligible at helig
    split at helig
    · cases helig
    · next heq => rw [heq]; rfl
  unfold State.pick at h
  dsimp only at h
  split at h
  · cases h
  · split at h
    · next hhome =>
      split at hhome
      · exact hok _ _ (hhome.trans h) fun hf => by simp only [Bool.and_eq_true] at hf; exact hf.1.1
      · cases hhome
    · exact hok _ _ h fun hf => by simp only [Bool.and_eq_true] at hf; exact hf.1

/-- The state with a task off every ready list. -/
def State.unlisted (s : State) (n : Nat) : State :=
  (Upd.tally fun x => { x with ready := x.ready.map fun p => (p.1, p.2.filter (· ≠ n)) }).apply s

/-- An engine that has been given a task. -/
def wakened (b : Nat) (g : Engine) : Engine := { g with power := if g.power = .awake ∨ !gated b then g.power else .waking }

theorem dispatch_gives (hp : s.pick e = some n) (hk : s.task n = some k) : (dispatch e).gives s ()
    (let t := ((s.unlisted n).withTask n { k with life := .assigned, engine := if s.isSaved n then k.engine else baseEngine e }).withEngine e
      { s.engine e with next := some n }
     t.withEngine (baseEngine e) (wakened (baseEngine e) (t.engine (baseEngine e)))) := by
  refine M.gives.getS_bind ?_
  rw [hp]
  have hk' : (s.unlisted n).task n = some k := hk
  exact (update_gives _ _).bind ((modTask_gives hk' _).bind ((modEngine_gives _ _ _).bind (modEngine_gives _ _ _)))

/-- A task that an engine's stall takes, wherever the engine's channels stand. -/
theorem engine_after_dispatch (t : State) (e n x : Nat) :
    let u := t.withEngine e { t.engine e with next := some n }
    let v := u.withEngine (baseEngine e) (wakened (baseEngine e) (u.engine (baseEngine e)))
    (v.engine e).next = some n ∧ (v.engine e).running = (t.engine e).running ∧
    (gated (baseEngine e) = true → (t.engine (baseEngine e)).power ≠ .awake → (v.engine (baseEngine e)).power = .waking) ∧
    (x ≠ e → x ≠ baseEngine e → v.engine x = t.engine x) := by
  intro u v
  simp only [u, v, State.engine_withEngine]
  refine ⟨?_, ?_, fun hg hp => ?_, fun hx hb => ?_⟩
  · by_cases hbe : e = baseEngine e
    · rw [if_pos hbe, wakened, if_pos hbe.symm]
    · rw [if_neg hbe, if_pos trivial]
  · by_cases hbe : e = baseEngine e
    · rw [if_pos hbe, wakened, if_pos hbe.symm]
    · rw [if_neg hbe, if_pos trivial]
  · by_cases hbe : baseEngine e = e
    · rw [hbe] at hg hp ⊢
      simp [wakened, hg, hp]
    · simp [wakened, hg, hp, hbe]
  · rw [if_neg hb, if_neg hx]

/-! ## Starts -/

/-- An engine whose save areas no longer hold a task. -/
def Engine.unsave (g : Engine) (n : Nat) : Engine := { g with saved := g.saved.filter (· ≠ n) }

theorem Engine.unsave_of_not_mem {g : Engine} (h : n ∉ g.saved) : g.unsave n = g := by
  have : g.saved.filter (· ≠ n) = g.saved := List.filter_eq_self.mpr fun x hx => by
    simp only [ne_eq, decide_not, Bool.not_eq_true', decide_eq_false_iff_not]
    rintro rfl
    exact h hx
  rw [Engine.unsave, this]

/-- What taking a task out of some engines' save areas leaves. -/
structure State.Unsaved (s : State) (n : Nat) (l : List (Nat × Engine)) (t : State) : Prop where
  frame : s.SameBut [.engines] t
  sorted : tblSorted s.engines = true → tblSorted t.engines = true
  either : ∀ y, t.engine y = s.engine y ∨ t.engine y = (s.engine y).unsave n
  held : ∀ y g, (y, g) ∈ l → n ∈ g.saved → t.engine y = (s.engine y).unsave n

theorem Engine.unsave_unsave (g : Engine) (n : Nat) : (g.unsave n).unsave n = g.unsave n :=
  Engine.unsave_of_not_mem (by simp [Engine.unsave])

theorem State.Unsaved.refl (s : State) (n : Nat) : s.Unsaved n [] s :=
  ⟨.refl _ s, fun h => h, fun _ => .inl rfl, fun _ _ h => by cases h⟩

theorem State.Unsaved.append {s t u : State} {l m : List (Nat × Engine)} (h : s.Unsaved n l t) (k : t.Unsaved n m u) :
    s.Unsaved n (l ++ m) u where
  frame := h.frame.trans k.frame
  sorted hs := k.sorted (h.sorted hs)
  either y := by
    rcases k.either y with hk | hk <;> rcases h.either y with hh | hh <;> rw [hk, hh] <;> simp [Engine.unsave_unsave]
  held y g hm hg := by
    rcases List.mem_append.mp hm with hl | hm
    · have hh := h.held y g hl hg
      rcases k.either y with hk | hk
      · rw [hk, hh]
      · rw [hk, hh, Engine.unsave_unsave]
    · rw [k.held y g hm hg]
      rcases h.either y with hh | hh <;> rw [hh]
      exact Engine.unsave_unsave ..

theorem unsaved_withEngine (s : State) (n : Nat) (x : Nat × Engine) : s.Unsaved n [x] (s.withEngine x.1 ((s.engine x.1).unsave n)) where
  frame := s.withEngine_frame _ _
  sorted hs := tblSet_sorted _ _ hs
  either y := by
    rw [State.engine_withEngine]
    split
    · next hy => exact .inr (by rw [hy])
    · exact .inl rfl
  held y g hm _ := by
    cases List.mem_singleton.mp hm
    rw [State.engine_withEngine, if_pos rfl]

theorem unsaveAll_leads (n : Nat) (l : List (Nat × Engine)) (s : State) : (forIn l PUnit.unit fun x _ => do
      if x.2.saved.contains n then modEngine x.1 fun g => { g with saved := g.saved.filter (· ≠ n) }
      pure (.yield PUnit.unit) : M PUnit).Leads s fun _ t => s.Unsaved n l t := by
  refine .forIn (P := fun x s t => s.Unsaved n [x] t) (R := fun l s t => s.Unsaved n l t) (State.Unsaved.refl · n)
    (fun x l s t u h k => h.append k) l (fun x _ s => ?_) s
  dsimp only
  split
  · exact (modEngine_gives _ _ _).leads_bind (.pure ⟨rfl, unsaved_withEngine s n x⟩)
  · next hno =>
    refine .pure ⟨rfl, .refl _ s, fun h => h, fun _ => .inl rfl, fun y g hm hg => ?_⟩
    cases List.mem_singleton.mp hm
    exact absurd (List.contains_iff_mem.mpr hg) hno

theorem mem_of_tblFind {α : Type} {t : Tbl α} {i : Nat} {v : α} (h : tblFind t i = some v) : (i, v) ∈ t := by
  induction t with
  | nil => cases h
  | cons x t ih =>
    obtain ⟨k, w⟩ := x
    rw [tblFind] at h
    split at h
    · next hk => cases h; rw [hk]; exact List.mem_cons_self
    · exact List.mem_cons_of_mem _ (ih h)

/-- After all engines have been looked at, no save area holds the task. -/
theorem State.Unsaved.engine_eq {s t : State} (h : s.Unsaved n s.engines t) (y : Nat) : t.engine y = (s.engine y).unsave n := by
  by_cases hm : n ∈ (s.engine y).saved
  · cases hf : tblFind s.engines y with
    | none =>
      rw [State.engine, tblGet, hf] at hm
      cases hm
    | some g =>
      refine h.held y g (mem_of_tblFind hf) ?_
      rwa [State.engine, tblGet, hf] at hm
  · rcases h.either y with he | he
    · rw [he, Engine.unsave_of_not_mem hm]
    · exact he

theorem taskStart_leads (hn : (s.engine e).next = some n) (hk : s.task n = some k) :
    (taskStart e).Leads s fun _ t => ∃ u, s.Unsaved n s.engines u ∧ t =
      (u.withEngine e { u.engine e with running := some n, next := none, preempting := false, beat := s.clock.now }).withTask n
        { k with
          life := .running
          engine := baseEngine e
          runAt := s.clock.now
          start := if k.start = 0 then s.clock.now else k.start } := by
  refine .getS ?_
  rw [hn]
  refine .bind ((unsaveAll_leads n s.engines s).mono fun _ u hu => ?_)
  have hk' : (u.withEngine e { u.engine e with running := some n, next := none, preempting := false, beat := s.clock.now }).task n = some k := by
    change tblFind u.tally.tasks n = _
    rw [hu.frame.2 .tally (by decide)]
    exact hk
  exact (modEngine_gives _ _ _).leads_bind ((modTask_gives hk' _).leads ⟨u, hu, rfl⟩)

theorem State.canStart_of_not_fetched (hn : (s.engine e).next = some n) (hk : s.task n = some k) (hf : k.fetched = false) :
    s.canStart e = false := by
  simp [State.canStart, hn, hk, hf]

theorem State.canStart_of_running (h : (s.engine e).running.isSome = true) : s.canStart e = false := by
  have : (s.engine e).running.isNone = false := by simpa [Option.isNone_iff_eq_none, Option.isSome_iff_ne_none] using h
  simp [State.canStart, this]

theorem exec_dispatch (h : s.canDispatch e = true) : exec (.dispatch e) s = .next (M.run (dispatch e) s) := by
  change execDispatch e s = _
  exact whenEnabled_next h

theorem exec_taskStart (h : s.canStart e = true) : exec (.taskStart e) s = .next (M.run (taskStart e) s) := by
  change execTaskStart e s = _
  exact whenEnabled_next h

end

/-- Settles O26: a dispatch makes four updates, a start empties the save areas by a loop and makes two. -/
theorem enginesTakeReadyTasksAndStartThem : Obligations.EnginesTakeReadyTasksAndStartThem := by
  intro s e hs
  refine ⟨fun hd => ?_, fun hd => ?_, fun n k hn hk hstart => ?_, fun n k hn hk hf => ?_, fun hr => ?_⟩
  · have hpick : (s.pick e).isSome = true := (Bool.and_eq_true_iff.mp hd).2
    obtain ⟨n, hn⟩ := Option.isSome_iff_exists.mp hpick
    obtain ⟨k, hk⟩ := Option.isSome_iff_exists.mp (State.task_of_pick hn)
    have hx := (exec_dispatch hd).trans (congrArg _ (dispatch_gives hn hk).run)
    have heng := engine_after_dispatch ((s.unlisted n).withTask n
      { k with life := .assigned, engine := if s.isSaved n then k.engine else baseEngine e }) e n
    refine ⟨n, k, _, hn, hk, hx, ?_, rfl, State.oneTask_withTask (s.unlisted n) n _, fun l hl => ?_, (heng 0).1, (heng 0).2.1, (heng 0).2.2.1,
      fun x => (heng x).2.2.2⟩
    · exact ((Upd.sameBut_of _ s).upd _ |>.upd _).upd _
    · obtain ⟨l', -, rfl⟩ := List.mem_map.mp hl
      simp
  · change execDispatch e s = _
    exact whenEnabled_refused hd
  · obtain ⟨_, _, hgives, u, hu, rfl⟩ := taskStart_leads hn hk
    have hx := (exec_taskStart hstart).trans (congrArg _ hgives.run)
    have htally : u.tally = s.tally := hu.frame.2 .tally (by decide)
    have hone := State.oneTask_withTask (u.withEngine e { u.engine e with running := some n, next := none, preempting := false, beat := s.clock.now }) n
      { k with life := .running, engine := baseEngine e, runAt := s.clock.now, start := if k.start = 0 then s.clock.now else k.start }
    have heng (x : Nat) := State.engine_withEngine u e { u.engine e with running := some n, next := none, preempting := false, beat := s.clock.now } x
    have hself := (heng e).trans (if_pos rfl)
    refine ⟨_, hx, ?_, ?_, ⟨hone.1, fun m hm => (hone.2 m hm).trans ?_⟩, ?_, ?_, ?_, ?_, fun p hp => ?_, fun x hx hno => ?_⟩
    · exact (hu.frame.mono (by decide)).trans (((State.withEngine_frame ..).mono (by decide)).trans ((State.withTask_frame ..).mono (by decide)))
    · rw [← htally]
      rfl
    · change tblFind u.tally.tasks m = _
      rw [htally]
      rfl
    · exact congrArg Engine.running hself
    · exact congrArg Engine.next hself
    · exact congrArg Engine.preempting hself
    · exact congrArg Engine.beat hself
    · have hsorted := tblSet_sorted e { u.engine e with running := some n, next := none, preempting := false, beat := s.clock.now }
        (hu.sorted hs.engines)
      have hp' := (tblFind_eq_some_iff hsorted p.1 p.2).mpr hp
      have hval : p.2 = (if p.1 = e then { u.engine e with running := some n, next := none, preempting := false, beat := s.clock.now }
          else u.engine p.1) := by
        rw [← heng]
        exact (congrArg (·.getD engine0) hp').symm
      rw [hval]
      split <;> simp [hu.engine_eq, Engine.unsave]
    · refine (heng x).trans ((if_neg hx).trans ?_)
      rw [hu.engine_eq, Engine.unsave_of_not_mem hno]
  · change execTaskStart e s = _
    exact whenEnabled_refused (State.canStart_of_not_fetched hn hk hf)
  · change execTaskStart e s = _
    exact whenEnabled_refused (State.canStart_of_running hr)

end Sys2Proof.Machine
end

section
/-! PROOFS. Queues and graphs created and removed through ports (R55, R104, R112, R113, R132). -/

namespace Sys2Proof.Machine

open Sys2Proof

/-! ## Codes and free numbers -/

/-- No rule broken. -/
theorem lowest_eq_zero {codes : List (Bool × Nat)} (h : ∀ x ∈ codes, x.1 = false) : lowest codes = 0 := by
  by_contra hne
  simpa using h _ (lowest_mem hne)

theorem unused_of_lowestFree {used : Nat → Bool} {fuel i j : Nat} (h : lowestFree used fuel i = some j) : used j = false := by
  induction fuel generalizing i with
  | zero => cases h
  | succ fuel ih =>
    rw [lowestFree] at h
    split at h
    · exact ih h
    · next hfree =>
      cases h
      simpa using hfree

/-- An event leaves an acknowledgement. -/
theorem Quiet.keeps_acked {s t : State} {i code seq : Nat} (h : Quiet s t) (hs : acked s i code seq) : acked t i code seq := by
  obtain ⟨hreg, hunread, hout⟩ := hs
  refine ⟨(h.reg _).trans hreg, ?_, ?_⟩
  · rw [h.rest]
    exact hunread
  · rw [h.rest]
    exact hout

/-! ## Queues -/

/-- The ring a request to create a queue asks for: base, entries, order, flow word. -/
def State.askedBase (s : State) (i : Nat) : Nat := slotAddr (s.enq i 0)
def State.askedEntries (s : State) (i : Nat) : Nat := bitsOf (s.enq i 1) 0 20 + 1
def State.askedOrder (s : State) (i : Nat) : Nat := bitsOf (s.enq i 1) 20 2
def State.askedWord (s : State) (i : Nat) : Nat := bitsOf (s.enq i 1) 22 4

/-- The pages of a ring. -/
def ringPages (base n : Nat) : List Nat := (List.range ((64 * n + base % 4096 + 4095) / 4096)).map fun j => base / 4096 * 4096 + 4096 * j

/-- A request for a plain queue that breaks no rule. -/
structure State.AsksPlainQueue (s : State) (i id : Nat) : Prop where
  flags : bitsOf (s.enq i 1) 26 2 = 0
  reserved : bitsOf (s.enq i 1) 29 35 = 0
  rest : ∀ k, 2 ≤ k → k < 6 → s.enq i k = 0
  entries : 16 ≤ s.askedEntries i
  order : s.askedOrder i ≠ 3
  word : s.askedOrder i = 2 ∨ s.askedWord i = 0
  wordMax : s.askedWord i ≤ 11
  aligned : s.enq i 0 % 64 = 0
  high : bitsOf (s.enq i 0) 48 16 = 0
  inBuffer : s.inBuffer (s.portHandle i) (s.askedBase i) (64 * s.askedEntries i) = true
  below : s.askedBase i + 64 * s.askedEntries i ≤ 2 ^ 40
  oneClass : ∃ k, k ≠ 0 ∧ ∀ pa ∈ ringPages (s.askedBase i) (s.askedEntries i), s.ringClass pa = k
  free : lowestFree (fun q => (s.queue q).isSome) 0xFFFFF 1 = some id

/-- The home partition of a ring. -/
def State.ringHome (s : State) (i : Nat) : Nat := ((ringPages (s.askedBase i) (s.askedEntries i)).map s.homeOf).dedup.headD 4

/-- The queue made for such a request. -/
def State.plainQueue (s : State) (i : Nat) : Queue :=
  { owner := s.portHandle i, base := s.askedBase i, entries := s.askedEntries i, order := s.askedOrder i, flowWord := s.askedWord i,
    ledger := false, pin := false, submitOnly := bitAt (s.enq i 1) 28, grants := [], ents := [], next := 0, drops := 0, lastDrop := none,
    evSeq := 0, evLost := 0, home := s.ringHome i, mirror := s.mirrorHome (s.ringHome i), mirrorBase := 0, blocked := false, waiters := [], keys := [], left := 0,
    remote := none, reading := false }

theorem dedup_of_const {l : List Nat} {k : Nat} (hl : l ≠ []) (h : ∀ x ∈ l, x = k) : l.dedup = [k] := by
  rw [List.eq_replicate_of_mem h]
  exact List.replicate_dedup (by simpa using hl)

/-- The pages of a ring below 2^40, translated for a physical context. -/
theorem translatePages_gives {s : State} {h base : Nat} {c : Ctx} (hc : s.ctx h = some c) (hp : c.physical = true) (l : List Nat) (acc : List Nat)
    (hl : ∀ j ∈ l, base + 4096 * j < 2 ^ 40) :
    (forIn l (true, acc) fun j x => do
      match ← translate 0x80 h (base + 4096 * j) false with
      | .error _ => pure (.yield (false, x.2))
      | .ok pa => pure (.yield (x.1, x.2 ++ [pa])) : M (Bool × List Nat)).gives s (true, acc ++ l.map fun j => base + 4096 * j) s := by
  induction l generalizing acc with
  | nil => simpa using pure_gives (true, acc) s
  | cons j l ih =>
    rw [List.forIn_cons]
    refine ((translate_physical hc hp (hl j List.mem_cons_self) (by simp)).bind (pure_gives _ _)).bind ?_
    have hrest := ih (acc ++ [base + 4096 * j]) fun x hx => hl x (List.mem_cons_of_mem j hx)
    rwa [List.append_assoc] at hrest

section
variable {s : State} {i id : Nat} {c : Ctx}

theorem createQueueOp_gives (h : s.AsksPlainQueue i id) (hc : s.ctx (s.portHandle i) = some c) (hp : c.physical = true) :
    (createQueueOp i).gives s () ((s.withQueue id (s.plainQueue i)).judged i 0 id) := by
  obtain ⟨hflags, hreserved, hrest, hentries, horder, hword, hmax, haligned, hhigh, hbuf, hbelow, ⟨k, hk, hclass⟩, hfree⟩ := h
  have hctx : (s.ctx (s.portHandle i)).isNone = false := by rw [hc]; rfl
  have hledger : bitAt (s.enq i 1) 26 = false := by
    simp only [bitsOf, bitAt, beq_eq_false_iff_ne] at hflags ⊢
    omega
  have hpin : bitAt (s.enq i 1) 27 = false := by
    simp only [bitsOf, bitAt, beq_eq_false_iff_ne] at hflags ⊢
    omega
  have hany : ((List.range 3).any fun k => s.enq i (3 + k) != 0) = false := List.any_eq_false.mpr fun k hk => by
    have := List.mem_range.mp hk
    rw [hrest (3 + k) (by omega) (by omega)]
    simp
  have hfree' : lowestFree (fun q => (tblFind s.tally.queues q).isSome) 0xFFFFF 1 = some id := hfree
  have hpeer : s.peerWord (s.portHandle i) (bitsOf (s.enq i 1) 0 20 + 1) false (s.enq i 2) = ([], none) := by
    rw [hrest 2 (by decide) (by decide)]
    rfl
  have hshape : ((bitsOf (s.enq i 1) 29 35 != 0 || (List.range 3).any fun k => s.enq i (3 + k) != 0) ||
      decide (bitsOf (s.enq i 1) 0 20 + 1 < 16) || bitsOf (s.enq i 1) 20 2 == 3 ||
      bitsOf (s.enq i 1) 20 2 != 2 && bitsOf (s.enq i 1) 22 4 != 0 || decide (11 < bitsOf (s.enq i 1) 22 4)) = false := by
    simp only [State.askedEntries, State.askedOrder, State.askedWord] at *
    rw [hreserved, hany, decide_eq_false (by omega), decide_eq_false (by omega)]
    rcases hword with hw | hw <;> simp [hw, horder]
  have hring : (s.enq i 0 % 64 != 0 || bitsOf (s.enq i 0) 48 16 != 0 ||
      !s.inBuffer (s.portHandle i) (slotAddr (s.enq i 0)) (64 * (bitsOf (s.enq i 1) 0 20 + 1))) = false := by
    have hbuf' : s.inBuffer (s.portHandle i) (slotAddr (s.enq i 0)) (64 * (bitsOf (s.enq i 1) 0 20 + 1)) = true := hbuf
    rw [haligned, hhigh, hbuf']
    rfl
  refine M.gives.getS_bind ?_
  dsimp only
  rw [hctx, hshape, hring, hledger, hpin, hfree', hpeer]
  refine .ite_neg (by simp [lowest]) _ ?_
  refine ((translatePages_gives hc hp _ [] fun j hj => ?_)).bind ?_
  · have hj' := List.mem_range.mp hj
    simp only [State.askedBase, State.askedEntries] at hbelow
    generalize slotAddr (s.enq i 0) = a at *
    omega
  · have hpages : ringPages (s.askedBase i) (s.askedEntries i) ≠ [] := by
      simp only [ringPages, ne_eq, List.map_eq_nil_iff, List.range_eq_nil]
      omega
    have hclasses : ((ringPages (s.askedBase i) (s.askedEntries i)).map s.ringClass).dedup = [k] :=
      dedup_of_const (by simpa using hpages) fun x hx => by
        obtain ⟨pa, hpa, rfl⟩ := List.mem_map.mp hx
        exact hclass pa hpa
    simp only [ringPages, State.askedBase, State.askedEntries] at hclasses
    refine .getS_bind ?_
    dsimp only
    simp only [List.nil_append, hclasses]
    refine .ite_neg (not_not.mpr (lowest_eq_zero ?_)) _ ((pure_gives true s).bind (.ite_neg (by simp) _ ?_))
    · simp [hk.symm]
    · exact (update_gives _ _).bind (portAck_gives _ _ _ _)

/-- The state with a queue, its entries and its ledger records discarded. -/
def State.dropped (s : State) (q : Nat) : State := M.run (dropQueue q) s

/-- The codes a request to destroy a queue is judged by. -/
def destroyCodes (s : State) (i q : Nat) (u : Queue) : List (Bool × Nat) :=
  [((s.ctx (s.portHandle i)).isNone, 0x18), (u.owner != s.portHandle i, 0x15), (q == 0, 0x19),
    ((!bitAt (s.enq i 0) 0 && (!u.ents.isEmpty || !(s.tasksOnQueue q).isEmpty)) || (u.ledger && s.uncommitted q), 0x19),
    (s.queueFenced u, 0x1C)]

section
variable {q : Nat} {u : Queue} (hu : s.queue q = some u)
include hu

theorem run_destroyQueueOp_refused (h : lowest (destroyCodes s i q u) ≠ 0) :
    M.run (destroyQueueOp i q) s = s.judged i (lowest (destroyCodes s i q u)) 0 := by
  rw [destroyQueueOp, run_getS_bind]
  dsimp only
  rw [hu]
  dsimp only
  rw [← destroyCodes, if_pos h]
  rfl

theorem run_destroyQueueOp (h : lowest (destroyCodes s i q u) = 0) (htasks : s.tasksOnQueue q = []) (hents : u.ents = []) :
    M.run (destroyQueueOp i q) s = if bitAt (s.enq i 0) 0 then ((s.dropped q).judged i 0 0).afterEvent 0x80 6 0x0004
      (det [(4, q), (4, 0), (4, 0)]) else (s.dropped q).judged i 0 0 := by
  rw [destroyQueueOp, run_getS_bind]
  dsimp only
  rw [hu]
  dsimp only
  rw [← destroyCodes, h, htasks, hents, if_neg (not_not.mpr rfl)]
  have hrest : M.run (portAck i 0 0 >>= fun _ => if bitAt (s.enq i 0) 0 = true then raise 0x80 6 0x0004 (det [(4, q), (4, 0), (4, 0)]) else pure ())
      (s.dropped q) = if bitAt (s.enq i 0) 0 then ((s.dropped q).judged i 0 0).afterEvent 0x80 6 0x0004
        (det [(4, q), (4, 0), (4, 0)]) else (s.dropped q).judged i 0 0 := by
    rw [(portAck_gives i 0 0 _).run_bind, run_ite]
    rfl
  exact hrest

end

end

/-- Settles O23: the queue made, the queue dropped, and the codes of queue 0. -/
theorem queuesAreCreatedAndDestroyed : Obligations.QueuesAreCreatedAndDestroyed := by
  intro s i c hs hkeyed hready hc
  have hexec (m : M Unit) (cmd : Nat) {t : State} (h : M.run m s = t) : always (portOp i cmd m) s = .next t :=
    always_of_run ((run_portOp hready).trans h)
  refine ⟨?_, ?_, ?_⟩
  · intro id hp h base n order word pages hflags hreserved hrest hentries horder hword hmax haligned hhigh hbuf hbelow hclass hfree
    have hgives := createQueueOp_gives
      ⟨hflags, hreserved, hrest, hentries, horder, hword, hmax, haligned, hhigh, hbuf, hbelow, hclass, hfree⟩ hc hp
    have hcanon : (s.withQueue id (s.plainQueue i)).Canonical := Upd.apply_canonical _ _ hs
    have hj := State.judged_spec hcanon i 0 id
    refine ⟨_, s.plainQueue i, hexec _ _ hgives.run, hj.acked, ?_, ?_, rfl, rfl, rfl, rfl, rfl, rfl, rfl, rfl, rfl, rfl, rfl, rfl, fun x hx => ?_,
      ((s.withQueue_frame ..).mono (by decide)).trans hj.frame, ?_, hj.regs⟩
    · simpa using unused_of_lowestFree hfree
    · rw [hj.queue, State.queue_withQueue, if_pos rfl]
    · rw [hj.queue, State.queue_withQueue, if_neg hx]
    · rw [hj.tally]
      rfl
  · intro q u hu howner hq hents htasks hledger hfence
    have hcodes : lowest (destroyCodes s i q u) = 0 := lowest_eq_zero (by
      have hl : (u.ledger && s.uncommitted q) = false := by
        cases hu : u.ledger with
        | false => rfl
        | true => exact hledger hu
      simp [destroyCodes, hc, howner, hq, hents, htasks, hl, hfence])
    have hj := State.judged_spec (s := s.dropped q) (Upd.apply_canonical _ _ hs) i 0 0
    have hdrop (x : Nat) : (s.dropped q).queue x = if x = q then none else s.queue x := tblFind_tblDel hkeyed.queues q x
    have hframe : s.SameBut [.mem, .regs, .out, .sys, .tally] ((s.dropped q).judged i 0 0) :=
      ((Upd.sameBut_of (ps := [.tally]) _ s).mono (by decide)).trans (hj.frame.mono (by decide))
    have hledgers : ∀ r ∈ ((s.dropped q).judged i 0 0).tally.ledger, r.queue ≠ q := by
      rw [hj.tally]
      intro r hr
      simpa using (List.mem_filter.mp hr).2
    have hrun := hexec _ (cmdWord 3 0 q) (run_destroyQueueOp hu hcodes htasks hents)
    by_cases hforce : bitAt (s.enq i 0) 0 = true
    · rw [if_pos hforce] at hrun
      have hquiet := State.afterEvent_quiet ((s.dropped q).judged i 0 0) 0x80 6 0x0004 (det [(4, q), (4, 0), (4, 0)])
      refine ⟨_, hrun, hquiet.keeps_acked hj.acked, ?_, ?_, fun x hx h0 => ?_, fun h => absurd hforce (by simp [h]), hframe.trans (hquiet.sameBut.mono (by decide))⟩
      · rw [hquiet.queues q hq, hj.queue, hdrop, if_pos rfl]
      · rw [hquiet.rest]
        exact hledgers
      · rw [hquiet.queues x h0, hj.queue, hdrop, if_neg hx]
    · rw [if_neg hforce] at hrun
      refine ⟨_, hrun, hj.acked, ?_, hledgers, fun x hx _ => ?_, fun _ => ?_, hframe⟩
      · rw [hj.queue, hdrop, if_pos rfl]
      · rw [hj.queue, hdrop, if_neg hx]
      · rw [hj.queue, hdrop, if_neg (Ne.symm hq)]
  · intro u hu
    have hmem : (true, 0x19) ∈ destroyCodes s i 0 u := by simp [destroyCodes]
    have hle := lowest_le hmem
    have hin := lowest_mem_of_mem hmem
    have hpos : ∀ x ∈ destroyCodes s i 0 u, x.2 ≠ 0 := by simp [destroyCodes]
    have hne := hpos _ hin
    have hj := State.judged_spec hs i (lowest (destroyCodes s i 0 u)) 0
    refine ⟨_, _, hexec _ _ (run_destroyQueueOp_refused hu hne), hj.acked, hne, hle, fun howner => ?_, hj.queue⟩
    generalize lowest (destroyCodes s i 0 u) = code at *
    simp only [destroyCodes, hc, howner, List.mem_cons, Prod.mk.injEq, List.not_mem_nil, or_false] at hin
    rcases hin with h | h | h | h | h
    · simp at h
    · simp at h
    · exact h.2
    · exact h.2
    · omega

/-! ## Graphs -/

section
variable {s u : State} {i id : Nat} {bs : List Byte}

/-- The templates that a table of bytes holds. -/
def templatesOf (count : Nat) (bs : List Byte) : List Desc := (List.range count).map fun j => (bs.drop (128 * j)).take 128

/-- The graph that a request to register one asks for. -/
def State.askedGraph (s : State) (i : Nat) (ds : List Desc) : Graph :=
  ⟨s.portHandle i, ds, bitsOf (s.enq i 1) 10 3 + 1, bitsOf (s.enq i 1) 13 2, bitsOf (s.enq i 1) 15 5, bitsOf (s.enq i 1) 20 3, s.enq i 2,
    s.enq i 3 % 2 ^ 32, 0, [], false⟩

theorem getD_templatesOf {count j : Nat} (hj : j < count) (bs : List Byte) :
    (templatesOf count bs).getD j [] = (bs.drop (128 * j)).take 128 := by
  simp [templatesOf, hj]

theorem getD_templatesOf_mem {count j : Nat} (hj : j < count) (bs : List Byte) : (templatesOf count bs).getD j [] ∈ templatesOf count bs := by
  rw [getD_templatesOf hj]
  exact List.mem_map.mpr ⟨j, List.mem_range.mpr hj, rfl⟩

/-- Templates that break no rule leave none to refuse. -/
theorem noBadTemplate {V : Desc → List Violation} {count : Nat} (h : ∀ d ∈ templatesOf count bs, lowestViolation (V d) = none) :
    ((List.range count).filterMap fun j => (lowestViolation (V ((templatesOf count bs).getD j []))).map fun v => (v.1, j, v.2)) = [] := by
  refine List.filterMap_eq_nil_iff.mpr fun j hj => ?_
  rw [h _ (getD_templatesOf_mem (List.mem_range.mp hj) bs)]
  rfl

/-- A request to register a graph whose words are well formed. -/
structure State.AsksGraph (s : State) (i : Nat) : Prop where
  reserved1 : bitsOf (s.enq i 1) 23 41 = 0
  reserved3 : bitsOf (s.enq i 3) 32 32 = 0
  word4 : s.enq i 4 = 0
  word5 : s.enq i 5 = 0
  cadence : bitsOf (s.enq i 1) 13 2 ≠ 3
  camera : bitsOf (s.enq i 1) 13 2 = 1 ∨ bitsOf (s.enq i 1) 15 5 = 0
  slot : if bitsOf (s.enq i 1) 13 2 = 2 then bitsOf (s.enq i 1) 20 3 = 0 ∧ slotMu (s.enq i 3 % 2 ^ 32) ≠ none
    else bitsOf (s.enq i 1) 20 3 = 0 ∧ s.enq i 2 = 0 ∧ s.enq i 3 = 0
  aligned : s.enq i 0 % 64 = 0
  high : bitsOf (s.enq i 0) 48 16 = 0
  inBuffer : s.inBuffer (s.portHandle i) (slotAddr (s.enq i 0)) (128 * (bitsOf (s.enq i 1) 0 10 + 1)) = true

theorem run_registerGraphOp (h : s.AsksGraph i) (hctx : (s.ctx (s.portHandle i)).isSome = true)
    (hread : (ctxRead 0x80 (s.portHandle i) (slotAddr (s.enq i 0)) (128 * (bitsOf (s.enq i 1) 0 10 + 1))).gives s (.ok bs) u)
    (hgood : ∀ d ∈ templatesOf (bitsOf (s.enq i 1) 0 10 + 1) bs, lowestViolation (taskViolations u (s.portHandle i) false d ++
      templateViolations (bitsOf (s.enq i 1) 0 10 + 1) (bitsOf (s.enq i 1) 13 2) d) = none)
    (hmany : u.tooManyConsumers (s.portHandle i) (templatesOf (bitsOf (s.enq i 1) 0 10 + 1) bs) = false)
    (hroom : u.canReserve (s.askedGraph i (templatesOf (bitsOf (s.enq i 1) 0 10 + 1) bs)) = true)
    (hcycle : u.creditCycle (s.portHandle i) (templatesOf (bitsOf (s.enq i 1) 0 10 + 1) bs) = false)
    (hfree : lowestFree (fun x => (tblFind u.tally.graphs x).isSome) 16384 0 = some id) :
    M.run (registerGraphOp i) s = ((Upd.tally fun x => { x with
      graphs := tblSet x.graphs id (s.askedGraph i (templatesOf (bitsOf (s.enq i 1) 0 10 + 1) bs)) }).apply u).judged i 0 id := by
  obtain ⟨hr1, hr3, h4, h5, hcad, hcam, hslot, halign, hhigh, hbuf⟩ := h
  have hlive : (s.ctx (s.portHandle i)).isNone = false := by simpa using hctx
  have hshape : ((bitsOf (s.enq i 1) 23 41 != 0 || bitsOf (s.enq i 3) 32 32 != 0 || s.enq i 4 != 0 || s.enq i 5 != 0) ||
      bitsOf (s.enq i 1) 13 2 == 3 || (bitsOf (s.enq i 1) 13 2 != 1 && bitsOf (s.enq i 1) 15 5 != 0 ||
        bitsOf (s.enq i 1) 13 2 != 2 && (bitsOf (s.enq i 1) 20 3 != 0 || s.enq i 2 != 0 || s.enq i 3 != 0))) = false := by
    rw [hr1, hr3, h4, h5]
    split at hslot
    · next h2 =>
      have hc := hcam.resolve_left (by omega)
      simp [h2, hc]
    · next h2 =>
      obtain ⟨hl, hw2, hw3⟩ := hslot
      rcases hcam with hc | hc <;> simp [hc, hcad, hl, hw2, hw3]
  have hrow : (bitsOf (s.enq i 1) 13 2 == 2 && (bitsOf (s.enq i 1) 20 3 != 0 || slotMu (s.enq i 3 % 2 ^ 32) == none)) = false := by
    split at hslot
    · next h2 =>
      obtain ⟨hl, hmu⟩ := hslot
      rw [hl, beq_eq_false_iff_ne.mpr hmu]
      simp
    · next h2 => simp [h2]
  rw [registerGraphOp, run_getS_bind]
  dsimp only
  rw [hlive, hshape, halign, hhigh, hbuf, if_neg (by simp [lowest]), hread.run_bind]
  dsimp only
  rw [run_getS_bind]
  have hds : ((List.range (bitsOf (s.enq i 1) 0 10 + 1)).map fun j => (bs.drop (128 * j)).take 128) =
    templatesOf (bitsOf (s.enq i 1) 0 10 + 1) bs := rfl
  rw [hds, noBadTemplate hgood, ← State.askedGraph, hrow, hmany, hroom, hcycle, hfree]
  exact congrArg (M.run · u) (if_neg (not_not.mpr (lowest_eq_zero (by simp))))

theorem run_deregisterGraphOp {g : Nat} {gr : Graph} (hg : s.enq i 0 % 2 ^ 14 = g) (hgr : tblFind s.tally.graphs g = some gr)
    (hctx : (s.ctx (s.portHandle i)).isSome = true) (howner : gr.owner = s.portHandle i) :
    M.run (deregisterGraphOp i) s = ((Upd.tally fun x => { x with graphs := tblSet x.graphs g { gr with dereg := true } }).apply s).judged i 0 0 := by
  have hlive : (s.ctx (s.portHandle i)).isNone = false := by simpa using hctx
  rw [deregisterGraphOp, run_getS_bind]
  dsimp only
  rw [hg, hgr]
  exact congrArg (M.run · s) (if_neg (not_not.mpr (lowest_eq_zero (by simp [hlive, howner]))))

end

/-- Settles O24: the requests through a port set one entry of the table of graphs, and the end of a deregistration removes one. -/
theorem graphsAreRegisteredAndDeregistered : Obligations.GraphsAreRegisteredAndDeregistered := by
  intro s i hs hkeyed
  refine ⟨?_, ?_, fun g gr hgr hdereg hlive => ?_, fun g p hp htmpl => ?_⟩
  · intro bs u id hready hctx h w1 table count cadence ds g hr1 hr3 h4 h5 hcad hcam hslot halign hhigh hbuf hread hu hgood hmany hroom hcycle hfree
    have hrun := run_registerGraphOp ⟨hr1, hr3, h4, h5, hcad, hcam, hslot, halign, hhigh, hbuf⟩ hctx hread hgood hmany hroom hcycle hfree
    have hj := State.judged_spec (s := (Upd.tally fun x => { x with graphs := tblSet x.graphs id g }).apply u) (Upd.apply_canonical _ _ hu) i 0 id
    refine ⟨_, always_of_run ((run_portOp hready).trans hrun), hj.acked, ?_, fun x hx => ?_, ((Upd.sameBut_of (ps := [.tally]) _ u).mono (by decide)).trans hj.frame, ?_⟩
    · exact tblFind_tblSet_same ..
    · exact tblFind_tblSet _ _ hx
    · rfl
  · intro gr hready hctx g hgr howner
    have hrun := run_deregisterGraphOp rfl hgr hctx howner
    have hj := State.judged_spec (s := (Upd.tally fun x => { x with graphs := tblSet x.graphs g { gr with dereg := true } }).apply s) (Upd.apply_canonical _ _ hs) i 0 0
    refine ⟨_, always_of_run ((run_portOp hready).trans hrun), hj.acked, ?_, fun x hx => ?_, ((Upd.sameBut_of (ps := [.tally]) _ s).mono (by decide)).trans hj.frame, ?_⟩
    · exact tblFind_tblSet_same ..
    · exact tblFind_tblSet _ _ hx
    · rfl
  · change ∃ t, execGraphDeregistrationDone g s = _ ∧ _
    have hempty : s.liveInstances g = [] := List.filter_eq_nil_iff.mpr fun p hp => by simpa using hlive p hp
    refine ⟨_, whenEnabled_next (by simp [hgr, hdereg, hempty]), Upd.sameBut_of _ s, ?_, fun x hx => ?_, rfl⟩
    · exact (tblFind_tblDel hkeyed.graphs g g).trans (if_pos rfl)
    · exact (tblFind_tblDel hkeyed.graphs g x).trans (if_neg hx)
  · change execGraphDeregistrationDone g s = _
    have hlive : (s.liveInstances g).isEmpty = false := by
      rw [List.isEmpty_eq_false_iff]
      exact List.ne_nil_of_mem (List.mem_filter.mpr ⟨hp, by simp [htmpl]⟩)
    exact whenEnabled_refused (by simp [hlive])

end Sys2Proof.Machine
end

section
/-! PROOFS. What a register write leaves in each field (R5, R7, R28, R95, R96). -/

namespace Sys2Proof.Machine

open Sys2Proof

/-! ## Fields side by side -/

/-- Two fields share no bit. -/
abbrev Field.Apart (f g : Field) : Prop := f.lsb + f.width ≤ g.lsb ∨ g.lsb + g.width ≤ f.lsb

/-- The fields of a register lie in its 64 bits and share none. -/
structure FieldsLaid (fs : List Field) : Prop where
  within : ∀ f ∈ fs, f.lsb + f.width ≤ 64
  apart : fs.Pairwise Field.Apart

theorem FieldsLaid.tail {f : Field} {fs : List Field} (h : FieldsLaid (f :: fs)) : FieldsLaid fs :=
  ⟨fun g hg => h.within g (List.mem_cons_of_mem f hg), (List.pairwise_cons.mp h.apart).2⟩

/-- The value a field's fate stores, if it stores one. -/
def FieldFate.value : FieldFate → Option Nat
  | .stored v => some v
  | .clamped v _ => some v
  | .kept => none
  | .refused => none

theorem judgedWord_cons (old : Word) (f : Field) (x : FieldFate) (l : List (Field × FieldFate)) :
    judgedWord old ((f, x) :: l) = judgedWord (match x.value with
      | some v => setBits old f.lsb f.width v
      | none => old) l := by
  cases x <;> rfl

/-- A field apart from every field judged keeps its value. -/
theorem getBits_judgedWord_apart {g : Field} : ∀ (l : List (Field × FieldFate)) (old : Word), (∀ p ∈ l, p.1.Apart g) →
    getBits (judgedWord old l) g.lsb g.width = getBits old g.lsb g.width
  | [], _, _ => rfl
  | (f, x) :: l, old, h => by
    rw [judgedWord_cons, getBits_judgedWord_apart l _ fun p hp => h p (List.mem_cons_of_mem _ hp)]
    cases x.value with
    | none => rfl
    | some v => exact getBits_setBits_apart _ _ (h (f, x) List.mem_cons_self).symm

/-- Each field judged ends with the value its fate stores, or keeps its own. -/
theorem getBits_judgedWord {fate : Field → FieldFate} {f : Field} : ∀ {fs : List Field} (old : Word), FieldsLaid fs → f ∈ fs →
    getBits (judgedWord old (fs.map fun f => (f, fate f))) f.lsb f.width = match (fate f).value with
      | some v => v % 2 ^ f.width
      | none => getBits old f.lsb f.width
  | g :: fs, old, hl, hf => by
    obtain ⟨hhead, -⟩ := List.pairwise_cons.mp hl.apart
    rw [List.map_cons, judgedWord_cons]
    by_cases hg : f ∈ fs
    · rw [getBits_judgedWord _ hl.tail hg]
      cases (fate f).value with
      | some v => rfl
      | none =>
        cases (fate g).value with
        | none => rfl
        | some v => exact getBits_setBits_apart _ _ (hhead f hg).symm
    · obtain rfl : f = g := (List.mem_cons.mp hf).resolve_right hg
      rw [getBits_judgedWord_apart _ _ fun p hp => ?_]
      · cases (fate f).value with
        | none => rfl
        | some v => exact getBits_setBits_same _ _ (hl.within f List.mem_cons_self)
      · obtain ⟨h, hh, rfl⟩ := List.mem_map.mp hp
        exact (hhead h hh).symm

/-! ## The registers whose chapters add no rule -/

/-- An offset on the page of SiteTime or on a page of a DDR channel. -/
def plainPage (off : Nat) : Prop := off / 0x1000 = 0x30 ∨ (0xA8 ≤ off / 0x1000 ∧ off / 0x1000 < 0xB0)

/-- The offset behind the last register of a set. -/
def RegDef.finish (r : RegDef) : Nat := r.base + r.s1 * (r.n1 - 1) + r.s2 * r.n2

/-- A register lies in the span of its set. -/
theorem RegDef.span_of_index {r : RegDef} {off : Nat} (h2 : r.s2 ≠ 0) (h : (r.index off).isSome) : r.base ≤ off ∧ off < r.finish := by
  unfold RegDef.index at h
  split at h
  · simp at h
  next hlow =>
    dsimp only at h
    split at h
    next hin =>
      simp only [Bool.and_eq_true, decide_eq_true_eq] at hin
      obtain ⟨⟨hi, -⟩, hj⟩ := hin
      have hi' : r.s1 * ((off - r.base) / r.s1) ≤ r.s1 * (r.n1 - 1) := Nat.mul_le_mul_left _ (by omega)
      have hj' : (off - r.base) % r.s1 < r.s2 * r.n2 := by
        rw [Nat.mul_comm]; exact (Nat.div_lt_iff_lt_mul (Nat.pos_of_ne_zero h2)).mp hj
      have hsum := Nat.div_add_mod (off - r.base) r.s1
      unfold RegDef.finish
      omega
    · simp at h

/-- A register on these pages is the BCC's alone, and its fields are laid out apart. -/
theorem regTable_plain : ∀ r ∈ regTable, r.s2 ≠ 0 ∧
    (r.finish ≤ 0x30000 ∨ (0x31000 ≤ r.base ∧ r.finish ≤ 0xA8000) ∨ 0xB0000 ≤ r.base ∨
      (r.writers = .bccOnly ∧ (∀ f ∈ r.fields, f.lsb + f.width ≤ 64) ∧ r.fields.Pairwise Field.Apart)) := by
  decide +kernel

theorem regAt_plain {off : Nat} {r : RegDef} (hp : plainPage off) (hr : regAt off = some r) : r.writers = .bccOnly ∧ FieldsLaid r.fields := by
  obtain ⟨hs2, hplace⟩ := regTable_plain r (List.mem_of_find?_eq_some hr)
  have hspan := RegDef.span_of_index hs2 (List.find?_some (p := fun r : RegDef => (r.index off).isSome) hr)
  unfold plainPage at hp
  rcases hplace with h | ⟨h, h'⟩ | h | ⟨hw, hin, hap⟩
  · omega
  · omega
  · omega
  · exact ⟨hw, hin, hap⟩

theorem judgedEvents_event (off : Nat) (w : Word) (fates : List (Field × FieldFate)) : M.All EventUpd (judgedEvents off w fates) := by
  unfold judgedEvents
  refine .forIn _ _ _ fun p _ => ?_
  obtain ⟨f, x⟩ := p
  cases x with
  | clamped v u => exact .bind (clampReg_event _ _ _ _ _) fun _ => .pure _
  | refused => exact .bind (refuseReg_event _ _ _) fun _ => .pure _
  | kept => exact .pure _
  | stored v => exact .pure _

/-! ## What becomes of one field -/

theorem unsigned_natCast {n v : Nat} (h : v < 2 ^ n) : unsigned n v = v := by
  rw [unsigned, Int.emod_eq_of_lt (by omega) (by exact_mod_cast h)]
  rfl

theorem unsigned_lt (n : Nat) (i : Int) : unsigned n i < 2 ^ n := by
  have h := Int.emod_lt_of_pos i (b := 2 ^ n) (by positivity)
  have h0 := Int.emod_nonneg i (b := 2 ^ n) (by positivity)
  unfold unsigned
  zify
  rw [Int.toNat_of_nonneg h0]
  exact h

/-- The pattern of a pattern's own number. -/
theorem unsigned_signed {n v : Nat} (h : v < 2 ^ n) : unsigned n (signed n v) = v := by
  have hmod : v % 2 ^ n = v := Nat.mod_eq_of_lt h
  unfold signed
  rw [hmod]
  dsimp only
  split
  · rw [unsigned, Int.sub_emod_right, ← unsigned, unsigned_natCast h]
  · exact unsigned_natCast h

theorem getBits_lt (w : Word) (l n : Nat) : getBits w l n < 2 ^ n := Nat.mod_lt _ (by positivity)

theorem coded_iff {f : Field} {v : Nat} : (f.enc.isEmpty || f.enc.any fun r => r.1 ≤ v && v ≤ r.2) = true ↔
    f.enc = [] ∨ ∃ r ∈ f.enc, r.1 ≤ v ∧ v ≤ r.2 := by
  simp

section
variable {off : Nat} {s : State}

theorem regReachable_plain {wide : Bool} (halign : off % (if wide then 8 else 4) = 0) (hp : plainPage off) :
    regReachable wide off = true := by
  unfold plainPage at hp
  have hpage : pageAllocated (off / 0x1000) = true := by
    unfold pageAllocated
    simp only [Bool.or_eq_true, Bool.and_eq_true, decide_eq_true_eq]
    omega
  unfold regReachable
  rw [halign, hpage]
  simp only [BEq.rfl, Bool.true_and, Bool.and_true, decide_eq_true_eq]
  omega

theorem stored_plain (hp : plainPage off) : s.stored off = s.reg off := by
  unfold plainPage at hp
  unfold State.stored
  dsimp only
  rw [if_neg (by omega), if_neg (by omega), if_neg (by omega)]
  rfl

theorem judgeWrite_plain (hp : plainPage off) (by_ : Requester) (old w : Word) : s.judgeWrite by_ off old w = some [] := by
  unfold plainPage at hp
  unfold State.judgeWrite
  dsimp only
  iterate 8 rw [if_neg (by omega)]

theorem fieldRange_plain (hp : plainPage off) (lo hi : Int) : s.fieldRange off lo hi = (lo, hi) := by
  unfold plainPage at hp
  unfold State.fieldRange
  rw [if_neg (by simp only [Reg.tlyDlyCfg]; omega), if_neg (by simp only [Reg.oprecData]; omega)]

theorem storeWord_plain (hp : plainPage off) (w : Word) : storeWord off w = wrReg off w := by
  unfold plainPage at hp
  unfold storeWord
  dsimp only
  rw [if_neg (by omega), if_neg (by omega), if_neg (by omega), if_neg (by simp only [Reg.pwrKeep]; omega)]

theorem settleWrite_plain (hp : plainPage off) (old w : Word) : (settleWrite off old w).gives s () ((Upd.reg off w).apply s) := by
  unfold settleWrite
  refine .getS_bind ?_
  dsimp only
  rw [storeWord_plain hp]
  unfold plainPage at hp
  rw [if_neg (by omega)]
  refine (update_gives _ s).bind ?_
  iterate 5 rw [if_neg (by omega)]
  rw [if_neg (by simp only [Reg.pwrOpdef]; omega)]
  exact pure_gives _ _

theorem regAction_plain (hp : plainPage off) (hstep : off ≠ Reg.timeStep) (hcmd : off ≠ Reg.timeCmd) (by_ : Requester) (w : Word) :
    regAction s by_ off w = none := by
  unfold plainPage at hp
  have hsec : off ≠ Reg.secExtend ∧ off ≠ Reg.secAttReq ∧ off ≠ Reg.secUpd ∧ off ≠ Reg.secRts ∧ off ≠ Reg.secSvnCommit := by
    simp only [Reg.secExtend, Reg.secAttReq, Reg.secUpd, Reg.secRts, Reg.secSvnCommit]
    omega
  have hmmu : off ≠ Reg.mmuInval ∧ off ≠ Reg.faultResume := by
    simp only [Reg.mmuInval, Reg.faultResume]
    omega
  obtain ⟨hextend, hreq, hupd, hrts, hsvn⟩ := hsec
  unfold regAction lowAction
  rw [if_pos (by omega), if_neg hextend, if_neg hreq, if_neg hupd, if_neg hrts, if_neg hsvn, if_neg (c := 0x1E ≤ _ ∧ _) (by omega),
    if_neg hstep, if_neg hcmd, if_neg (by omega), if_neg (by omega), if_neg hmmu.1, if_neg hmmu.2, if_neg (by omega)]

/-- What is left of a judged write where every rule is a field's own: the events of its fields, then the word stored. -/
theorem writeDefined_plain {r : RegDef} {wide high : Bool} {v : Word} (hp : plainPage off) (hr : regAt off = some r)
    (hstep : off ≠ Reg.timeStep) (hcmd : off ≠ Reg.timeCmd) :
    let w := mergeHalf r (s.reg off) wide high v
    let fates := s.fates off (s.reg off) w [] r
    (writeDefined .bcc off r wide high v).gives s ()
      ((Upd.reg off (judgedWord (s.reg off) fates)).apply (M.run (judgedEvents off w fates) s)) := by
  intro w fates
  have hmay : mayWrite .bcc r off = true := by rw [mayWrite, (regAt_plain hp hr).1]; rfl
  have hnotWdt : ¬ (off = Reg.rcvWdt ∧ fieldOf w Fld.rcvWdtKick = 1) := by
    unfold plainPage at hp
    simp only [Reg.rcvWdt]
    omega
  unfold writeDefined
  refine .getS_bind ?_
  dsimp only
  rw [hmay, if_neg (by decide), stored_plain hp, regAction_plain hp hstep hcmd]
  dsimp only
  rw [judgeWrite_plain hp]
  refine ((judgedEvents_event _ _ _).gives_run s).bind ((settleWrite_plain hp _ _).bind ?_)
  rw [if_neg hnotWdt]
  exact pure_gives _ _

/-- A field ends with what its type says. -/
theorem value_judgeField (hp : plainPage off) (old w : Word) (f : Field) :
    (match (s.judgeField off old w [] f).value with
      | some v => v % 2 ^ f.width
      | none => getBits old f.lsb f.width) = fieldWritten f old w := by
  have hlt := getBits_lt w f.lsb f.width
  unfold State.judgeField fieldWritten
  cases hty : f.ty with
  | ro => rfl
  | wo =>
    dsimp only
    cases f.enc.isEmpty || f.enc.any fun r => r.1 ≤ getBits w f.lsb f.width && getBits w f.lsb f.width ≤ r.2 <;> rfl
  | w1c => exact Nat.mod_eq_of_lt (getBits_lt _ _ _)
  | rw =>
    dsimp only
    by_cases hcoded : f.enc = [] ∨ ∃ r ∈ f.enc, r.1 ≤ getBits w f.lsb f.width ∧ getBits w f.lsb f.width ≤ r.2
    · rw [if_pos hcoded, coded_iff.mpr hcoded]
      exact Nat.mod_eq_of_lt hlt
    · rw [if_neg hcoded, Bool.eq_false_iff.mpr fun h => hcoded (coded_iff.mp h)]
      rfl
  | rwk lo hi =>
    dsimp only
    rw [fieldRange_plain hp]
    dsimp only
    have hx : unsigned f.width (if lo < 0 then signed f.width (getBits w f.lsb f.width) else getBits w f.lsb f.width) =
        getBits w f.lsb f.width := by
      split
      · exact unsigned_signed hlt
      · exact unsigned_natCast hlt
    generalize (if lo < 0 then signed f.width (getBits w f.lsb f.width) else (getBits w f.lsb f.width : Int)) = x at hx ⊢
    by_cases hin : max lo (min hi x) = x
    · rw [if_pos hin, hin, hx]
      exact Nat.mod_eq_of_lt hlt
    · rw [if_neg hin]
      exact Nat.mod_eq_of_lt (unsigned_lt _ _)

/-- A field taken as written raises no event. -/
theorem fate_of_taken (hp : plainPage off) (old w : Word) {f : Field} (h : fieldTaken f w) :
    s.judgeField off old w [] f = .kept ∨ ∃ v, s.judgeField off old w [] f = .stored v := by
  unfold State.judgeField
  unfold fieldTaken at h
  cases hty : f.ty with
  | ro => exact .inl rfl
  | wo =>
    rw [hty] at h
    dsimp only at h ⊢
    rw [coded_iff.mpr h]
    exact .inl rfl
  | w1c => exact .inr ⟨_, rfl⟩
  | rw =>
    rw [hty] at h
    dsimp only at h ⊢
    rw [coded_iff.mpr h]
    exact .inr ⟨_, rfl⟩
  | rwk lo hi =>
    rw [hty] at h
    dsimp only at h ⊢
    rw [fieldRange_plain hp]
    obtain ⟨hlo, hhi⟩ := h
    dsimp only
    rw [min_eq_right hhi, max_eq_right hlo, if_pos rfl]
    exact .inr ⟨_, rfl⟩

theorem run_judgedEvents_of_taken {fates : List (Field × FieldFate)} (w : Word)
    (h : ∀ p ∈ fates, p.2 = .kept ∨ ∃ v, p.2 = .stored v) : M.run (judgedEvents off w fates) s = s := by
  unfold judgedEvents
  refine (M.Leads.forIn (P := fun _ s t => t = s) (R := fun _ s t => t = s) (fun _ => rfl) ?_ fates ?_ s).run
  · rintro x l s _ _ rfl rfl
    rfl
  · rintro ⟨f, x⟩ hmem s
    rcases h _ hmem with hx | ⟨v, hx⟩ <;>
    · dsimp only at hx ⊢
      rw [hx]
      exact .pure ⟨rfl, rfl⟩

/-- A write of the BCC to such a register: each field as its type says, no other register, and where every field takes its value no
event. -/
theorem writeRegister_plain {r : RegDef} {wide : Bool} {offset : Nat} {v : Word} (hs : s.Canonical) (hr : regAt (offset / 8 * 8) = some r)
    (hreach : regReachable wide offset = true) (hp : plainPage (offset / 8 * 8)) (hstep : offset / 8 * 8 ≠ Reg.timeStep)
    (hcmd : offset / 8 * 8 ≠ Reg.timeCmd) :
    let off := offset / 8 * 8
    let w := mergeHalf r (s.reg off) wide (offset % 8 == 4) v
    let t := M.run (writeRegister .bcc wide offset v) s
    s.SameBut [.mem, .regs, .out, .sys, .tally] t ∧ t.out = some ⟨true, []⟩ ∧ (∀ x, x ≠ off → t.reg x = s.reg x) ∧
      (∀ f ∈ r.fields, t.fld off f = fieldWritten f (s.reg off) w) ∧ ((∀ f ∈ r.fields, fieldTaken f w) → s.SameBut [.regs, .out] t) := by
  intro off w t
  let u := (Upd.out fun _ => some ⟨true, []⟩).apply s
  let fates := u.fates off (s.reg off) w [] r
  let e := M.run (judgedEvents off w fates) u
  have hrun : t = (Upd.reg off (judgedWord (s.reg off) fates)).apply e := by
    change M.run (writeRegister _ _ _ _) s = _
    unfold writeRegister
    dsimp only
    rw [if_neg (by simp [hreach]), run_reachReg_bind (.inl rfl), if_pos rfl]
    change M.run (match regAt off with
      | none => pure ()
      | some r => writeDefined .bcc off r wide (offset % 8 == 4) v) u = _
    rw [show regAt off = some r from hr]
    exact (writeDefined_plain (s := u) hp hr hstep hcmd).run
  have hquiet : Quiet u e := ((judgedEvents_event off w fates).run_steps u).quiet
  have hregs : e.regs = s.regs := hquiet.regs
  have hec : e.Canonical := ((judgedEvents_event off w fates).run_steps u).canonical hs
  have hreg (x : Nat) : t.reg x = if x = off then judgedWord (s.reg off) fates else s.reg x := by
    rw [hrun, reg_apply hec, reg_congr hregs]
  refine ⟨?_, ?_, fun x hx => by rw [hreg, if_neg hx], fun f hf => ?_, fun htaken => ?_⟩
  · rw [hrun]
    exact ((Upd.sameBut _ s).mono (by decide)).trans
      ((hquiet.sameBut.mono (by decide)).trans (Upd.sameBut_of (ps := [.mem, .regs, .out, .sys, .tally]) _ e))
  · rw [hrun]
    change e.out = _
    rw [hquiet.rest]
    rfl
  · rw [State.fld, hreg, if_pos rfl]
    exact (getBits_judgedWord _ (regAt_plain hp hr).2 hf).trans (value_judgeField hp _ _ f)
  · have hsame : e = u := run_judgedEvents_of_taken w fun p hp' => by
      obtain ⟨f, hf, rfl⟩ := List.mem_map.mp hp'
      exact fate_of_taken hp _ _ (htaken f hf)
    rw [hrun, hsame]
    exact ((Upd.sameBut _ s).mono (by decide)).trans (Upd.sameBut_of (ps := [.regs, .out]) _ u)

/-- A write of another requester to such a register is refused. -/
theorem writeRegister_plain_refused {r : RegDef} {wide : Bool} {offset : Nat} {v : Word} {c : Requester}
    (hr : regAt (offset / 8 * 8) = some r) (hreach : regReachable wide offset = true) (hp : plainPage (offset / 8 * 8)) (hc : c ≠ .bcc)
    (heng : ∀ e, c ≠ .engine e) (hopen : s.fenced (pageOwner (offset / 0x1000)).2 = false) :
    ∃ value, M.run (writeRegister c wide offset v) s =
      refusedWrite ((Upd.out fun _ => some ⟨true, []⟩).apply s) (offset / 8 * 8) value 0 := by
  refine ⟨(mergeHalf r (s.reg (offset / 8 * 8)) wide (offset % 8 == 4) v).toNat, ?_⟩
  have hmay : mayWrite c r (offset / 8 * 8) = false := by
    rw [mayWrite, (regAt_plain hp hr).1]
    exact decide_eq_false hc
  unfold writeRegister
  dsimp only
  rw [if_neg (by cases c <;> simp_all), run_reachReg_bind (.inr hopen), if_pos rfl]
  change M.run (match regAt (offset / 8 * 8) with
    | none => pure ()
    | some r => writeDefined c (offset / 8 * 8) r wide (offset % 8 == 4) v) _ = _
  rw [hr]
  change M.run (writeDefined _ _ _ _ _ _) _ = _
  unfold writeDefined
  rw [run_getS_bind]
  dsimp only
  rw [hmay, if_pos (c := (!false) = true) rfl, stored_plain hp]
  rfl

/-- A misaligned write, one to a page that is not allocated and one by an engine are decode errors. -/
theorem writeRegister_decodeError {c : Requester} {wide : Bool} {offset : Nat} (v : Word)
    (h : (∃ e, c = .engine e) ∨ regReachable wide offset = false) :
    ∃ e, Quiet s e ∧ M.run (writeRegister c wide offset v) s = (Upd.out fun _ => some ⟨false, []⟩).apply e := by
  refine ⟨M.run (decodeError (senderId c) (regSpace + offset) true) s, run_raise_quiet _ _ _ _ s, ?_⟩
  unfold writeRegister
  dsimp only
  rw [if_pos (by rcases h with ⟨e, rfl⟩ | h <;> simp [*])]
  exact (raise_event _ _ _ _).run_seq _ s

end

/-- Settles O10: on these pages every rule is a field's own, and each field's bits are stored apart from the others'. -/
theorem registerWritesAreJudgedFieldByField : Obligations.RegisterWritesAreJudgedFieldByField := by
  intro s wide offset v hs
  refine ⟨fun r hr halign hpage hstep hcmd => ⟨?_, fun c hc heng hopen => ?_⟩, fun c hc => ?_, fun hnone hreach => ?_⟩
  · have hp : plainPage (offset / 8 * 8) := by unfold plainPage; omega
    have hreach := regReachable_plain halign hpage
    exact ⟨_, always_of_run rfl, writeRegister_plain hs hr hreach hp hstep hcmd⟩
  · have hp : plainPage (offset / 8 * 8) := by unfold plainPage; omega
    have hreach := regReachable_plain halign hpage
    obtain ⟨value, hrun⟩ := writeRegister_plain_refused (v := v) hr hreach hp hc heng hopen
    refine ⟨_, always_of_run hrun, ?_, fun x => ?_⟩
    · rw [(refusedWrite_quiet ..).rest]
      rfl
    · exact (refusedWrite_quiet ..).reg x
  · obtain ⟨e, he, hrun⟩ := writeRegister_decodeError (s := s) v hc
    exact ⟨_, always_of_run hrun, rfl, he.reg⟩
  · refine ⟨_, always_of_run ?_, rfl, Upd.sameBut_of (.out fun _ => some ⟨true, []⟩) s⟩
    unfold writeRegister
    dsimp only
    rw [if_neg (by simp [hreach]), run_reachReg_bind (.inl rfl), if_pos rfl, hnone]
    rfl

end Sys2Proof.Machine
end

section
/-! PROOFS. Holds resumed, abandoned and expired (R246, R247, R253, R254). -/

namespace Sys2Proof.Machine

open Sys2Proof

/-- A command is taken where its own effect and the operation that follows are known. -/
theorem completesThen_of {i : Instr} {s u : State} {m : M Unit} {P : State → Prop} (hP : P u) (h : exec i s = .next (m.run u)) :
    CompletesThen i s m P :=
  ⟨u, hP, h, (exec_reach h).sameBut _ (reachOf_parts i)⟩

/-- A page-fault hold named by the full handle of its faulting task (R246). -/
def State.NamesHold (s : State) (i handle : Nat) : Prop :=
  ∃ x n rest k, tblFind s.tally.holds i = some x ∧ x.reason = 0 ∧ x.chain = n :: rest ∧ s.task n = some k ∧ k.handle = handle

/-- The state without a hold. -/
def State.withoutHold (s : State) (i : Nat) : State := (Upd.tally fun t => { t with holds := tblDel t.holds i }).apply s

section
variable {s : State} {w : Requester} {i handle : Nat}

theorem namesHold_iff {x : Hold} (hx : tblFind s.tally.holds i = some x) :
    (x.reason == 0 && ((x.chain.head?.bind s.task).map (·.handle)) == some handle) = true ↔ s.NamesHold i handle := by
  unfold State.NamesHold
  rw [hx]
  cases hc : x.chain with
  | nil => simp [hc]
  | cons n rest =>
    simp only [hc, List.head?_cons, Option.bind_some, Bool.and_eq_true, beq_iff_eq, Option.map_eq_some_iff, Option.some.injEq,
      exists_and_left, exists_eq_left', List.cons.injEq]
    constructor
    · rintro ⟨hr, k, hk, hh⟩
      exact ⟨hr, n, rest, ⟨rfl, rfl⟩, k, hk, hh⟩
    · rintro ⟨hr, n', rest', ⟨rfl, rfl⟩, k, hk, hh⟩
      exact ⟨hr, k, hk, hh⟩

theorem run_abandonHold {x : Hold} (hx : tblFind s.tally.holds i = some x) (why : Nat) :
    M.run (abandonHold i why) s = M.run (endChain x.chain 1 i why) (s.withoutHold i) := by
  unfold abandonHold
  rw [run_getS_bind, hx]
  rfl

theorem run_faultResume_unprivileged (hw : privileged w = false) (abandon : Bool) : M.run (faultResume w i handle abandon) s =
    refusedWrite s Reg.faultResume (i % 1024 + flagBit abandon * 1024 + handle % 2 ^ 20 * 4096) 0 := by
  unfold faultResume
  rw [run_getS_bind]
  dsimp only
  rw [hw, if_pos (c := (!false) = true) rfl, run_refuseReg]

theorem run_faultResume_unnamed (hw : privileged w = true) (h : ¬ s.NamesHold i handle) (abandon : Bool) :
    M.run (faultResume w i handle abandon) s =
      s.afterEvent 0x80 6 0x3501 (det [(4, i % 1024 + flagBit abandon * 1024 + handle % 2 ^ 20 * 4096)]) := by
  unfold faultResume
  rw [run_getS_bind]
  dsimp only
  generalize i % 1024 + flagBit abandon * 1024 + handle % 2 ^ 20 * 4096 = value
  rw [hw, if_neg (by decide)]
  cases hx : tblFind s.tally.holds i with
  | none => exact (raise_gives _ _ _ _ s).run
  | some x =>
    have hbad := Bool.eq_false_iff.mpr fun hn => h ((namesHold_iff hx).mp hn)
    dsimp only
    rw [if_pos (by rw [hbad]; rfl)]
    exact (raise_gives _ _ _ _ s).run

/-- A write that names its hold acts on it: the limit first, then the bit that abandons it. -/
theorem run_faultResume_named {x : Hold} (hw : privileged w = true) (h : s.NamesHold i handle) (hx : tblFind s.tally.holds i = some x)
    (abandon : Bool) : M.run (faultResume w i handle abandon) s =
      M.run (if x.stamp + s.holdLimit < s.clock.now then abandonHold i 3 else if abandon then abandonHold i 1 else resumeHold i) s := by
  unfold faultResume
  rw [run_getS_bind]
  dsimp only
  rw [hw, if_neg (by decide), hx]
  dsimp only
  rw [if_neg (by rw [(namesHold_iff hx).mpr h]; decide)]
  rw [Option.map_some, Option.getD_some]
  generalize s.holdLimit = limit
  by_cases hlate : x.stamp + limit < s.clock.now
  · rw [if_pos hlate, if_pos (decide_eq_true hlate)]
  · rw [if_neg hlate, if_neg (by exact fun hd => hlate (of_decide_eq_true hd))]

end

/-- Settles O31: the write's handle must name a page-fault hold; then the hold's limit and the abandon bit say what ends it. -/
theorem holdsEndByResumptionAbandonmentOrTheirLimit : Obligations.HoldsEndByResumptionAbandonmentOrTheirLimit := by
  intro s w i handle named writes gone
  have hexec (c : Instr × Bool) (hc : c ∈ writes) : exec c.1 s = .next (M.run (faultResume w i handle c.2) s) := by
    rcases List.mem_pair.mp hc with rfl | rfl <;> rfl
  have hgone : gone (s.withoutHold i) := ⟨Upd.sameBut_of _ s, rfl⟩
  refine ⟨fun hw hn c hc => ?_, fun hw c hc => ?_, fun x hw hn hx => ⟨fun hlate c hc => ?_, fun htime => ⟨?_, ?_⟩⟩,
    fun x hx => ⟨fun hlate => ?_, fun htime => ?_⟩, fun hnone => ?_⟩
  · rw [hexec c hc, run_faultResume_unnamed hw hn]
  · rw [hexec c hc, run_faultResume_unprivileged hw]
  · refine completesThen_of hgone ?_
    rw [hexec c hc, run_faultResume_named hw hn hx, if_pos hlate, run_abandonHold hx]
  · refine completesThen_of hgone ?_
    rw [hexec (.faultResumeAbandon w i handle, true) (by simp [writes]), run_faultResume_named hw hn hx, if_neg (by omega),
      if_pos rfl, run_abandonHold hx]
  · refine completesThen_of rfl ?_
    rw [hexec (.faultResume w i handle, false) (by simp [writes]), run_faultResume_named hw hn hx, if_neg (by omega),
      if_neg (c := false = true) (by decide)]
  · refine completesThen_of hgone ?_
    rw [← run_abandonHold hx]
    change execHoldLimitExpiry i s = _
    exact whenEnabled_next (by rw [hx]; exact decide_eq_true hlate)
  · change execHoldLimitExpiry i s = _
    exact whenEnabled_refused (by rw [hx]; exact decide_eq_false (by omega))
  · change execHoldLimitExpiry i s = _
    exact whenEnabled_refused (by rw [hnone])

end Sys2Proof.Machine
end

section
/-! PROOFS. Descriptors read and checked before a task starts (R88, R89, R184, R190, R365). -/

namespace Sys2Proof.Machine

open Sys2Proof

/-- The reads of DESCRIPTOR_FETCH: the descriptors, then the parameter block. -/
def fetchReads (k : Task) : M Fetched := do
  let f ← readDescs k (← descAddrs k) ⟨[], [], [], none⟩
  if f.err.isSome then pure f else readParams k f

/-- The checks of DESCRIPTOR_FETCH on what its reads answered. -/
def checkFetched (n : Nat) (k : Task) (f : Fetched) : M Unit :=
  match f.err with
  | some x => opFault n x
  | none => do
    let s ← getS
    let k := { k with
      tds := f.tds
      params := f.params }
    let ts := s.operands k
    let own := f.bad ++ setViolations s k (dOpcode k.desc) ts
    match firstViolation (if own.isEmpty then opViolations s k ts else own ++ opViolations s k ts) with
    | some (sl, off) => descriptorInvalid n sl off
    | none =>
      match s.extraConsumer n k, overlapping (dOpcode k.desc) ts with
      | some (sl, rec), _ => do
        settleAll (← raiseFor n 0xB2 4 0x3B01 (taskDetail [(1, rec)] k sl))
        finish n 1
      | none, some (i, o) => do
        settleAll (← raiseFor n k.engine (partOf k.engine) 0x3301 (taskDetail [(1, i), (1, o)] k 0xFF))
        finish n 1
      | none, none => do
        modTask n fun x => { x with
          tds := f.tds
          params := f.params
          fetched := true }
        settleAll (← homeEvents n k ts)

section
variable {s u : State} {e n : Nat} {k : Task} {f : Fetched}

theorem oneTask_modTask {n : Nat} {k : Task} (hk : s.task n = some k) (f : Task → Task) :
    OneTask s n (some (f k)) (M.run (modTask n f) s) := by
  rw [(modTask_gives hk f).run]
  exact State.oneTask_withTask ..

theorem run_descriptorFetch (hn : (s.engine e).next = some n) (hk : s.task n = some k) (hf : (fetchReads k).gives s f u) :
    M.run (descriptorFetch e) s = M.run (checkFetched n k f) u := by
  rw [← hf.run_bind]
  unfold descriptorFetch
  rw [run_getS_bind]
  simp only [hn, hk]
  have hparams (g : Fetched) : ((if g.err.isSome then pure g else readParams k g) >>= checkFetched n k) =
      if g.err.isSome then pure g >>= checkFetched n k else readParams k g >>= checkFetched n k := by
    split <;> rfl
  simp only [fetchReads, bind_assoc, hparams]
  rfl

theorem exec_descriptorFetch (hn : (s.engine e).next = some n) (hk : s.task n = some k) (hnew : k.fetched = false)
    (hs : s.serving e = true) (hf : (fetchReads k).gives s f u) :
    exec (.descriptorFetch e) s = .next (M.run (checkFetched n k f) u) := by
  rw [← run_descriptorFetch hn hk hf]
  change execDescriptorFetch e s = _
  refine whenEnabled_next ?_
  simp only [hn, hs, Option.bind_some, hk, hnew]
  rfl

theorem descriptorFetch_turnedAway (hn : (s.engine e).next = some n) (hk : s.task n = some k)
    (h : k.fetched = true ∨ s.serving e = false) : TurnedAway (.descriptorFetch e) s := by
  change execDescriptorFetch e s = _
  refine whenEnabled_refused ?_
  simp only [hn, Option.bind_some, hk]
  rcases h with h | h <;> simp [h]

end

/-- Settles O27: the reads run first; what they answered is checked in the order of R88, R365 and R190. -/
theorem descriptorsAreReadAndCheckedBeforeTheStart : Obligations.DescriptorsAreReadAndCheckedBeforeTheStart := by
  intro s e n k hn hk c reads
  refine ⟨fun f u hnew hs hf => ?_, fun h => descriptorFetch_turnedAway hn hk (.inl h),
    fun h => descriptorFetch_turnedAway hn hk (.inr h)⟩
  have hexec := exec_descriptorFetch hn hk hnew hs hf
  intro k' ts own all
  have hgood (herr : f.err = none) : M.run (checkFetched n k f) u = M.run (match all with
      | some (sl, off) => descriptorInvalid n sl off
      | none =>
        match u.extraConsumer n k', overlapping (dOpcode k.desc) ts with
        | some (sl, rec), _ => do
          settleAll (← raiseFor n 0xB2 4 0x3B01 (taskDetail [(1, rec)] k' sl))
          finish n 1
        | none, some (i, o) => do
          settleAll (← raiseFor n k.engine (partOf k.engine) 0x3301 (taskDetail [(1, i), (1, o)] k' 0xFF))
          finish n 1
        | none, none => do
          modTask n fun x => { x with
            tds := f.tds
            params := f.params
            fetched := true }
          settleAll (← homeEvents n k' ts)) u := by
    rw [checkFetched, herr]
    rfl
  refine ⟨fun herr hall hextra hover => ?_, fun sl off herr hall => ?_, fun i o herr hall hextra hover => ?_, fun x herr => ?_⟩
  · refine completesThen_of (u := M.run (modTask n fun x => { x with tds := f.tds, params := f.params, fetched := true }) u)
      ⟨Upd.sameBut_of _ u, rfl, fun x hx => oneTask_modTask hx _⟩ ?_
    rw [hexec, hgood herr, hall]
    dsimp only
    rw [hextra, hover]
    rfl
  · refine completesThen_of_exec ?_
    rw [hexec, hgood herr, hall]
  · refine completesThen_of_exec ?_
    rw [hexec, hgood herr, hall]
    dsimp only
    rw [hextra, hover]
    rfl
  · refine completesThen_of_exec ?_
    rw [hexec, checkFetched, herr]

end Sys2Proof.Machine
end

section
/-! PROOFS. Block steps, their recomputation, and pre-emption (R126, R201, R217, R218, R221). -/

namespace Sys2Proof.Machine

open Sys2Proof

/-! ## Decoding where no bank is staged anew -/

theorem State.place_congr_staging {s t : State} (hholes : t.sys.holes = s.sys.holes)
    (hcap : ∀ c, t.reg (Reg.mcStatus c) = s.reg (Reg.mcStatus c)) (hstaging : ∀ n, (t.engine n).staging = (s.engine n).staging) (a : Nat) :
    t.place a = s.place a := by
  have hgib (c : Nat) : t.chanGib c = s.chanGib c := by rw [State.chanGib, State.fld, hcap, State.chanGib, State.fld]
  unfold State.place State.populated
  simp only [hgib, hholes, hstaging]

theorem State.staging_withEngine {s : State} {e : Nat} {g : Engine} (h : g.staging = (s.engine e).staging) (n : Nat) :
    ((s.withEngine e g).engine n).staging = (s.engine n).staging := by
  rw [State.engine_withEngine]
  split
  · next hn => rw [hn, h]
  · rfl

/-- Bytes stored in a range leave those outside. -/
theorem State.byteAt_apply_mem {s : State} (hs : s.Canonical) {a x : Nat} {bs : List Byte} (hx : x < a ∨ a + bs.length ≤ x) :
    ((Upd.mem a bs).apply s).byteAt x = s.byteAt x := by
  have hget : memGet ((Upd.mem a bs).apply s).mem x = memGet s.mem x :=
    (memGet_memPutAll hs.1 a bs x).trans (if_neg (by omega))
  unfold State.byteAt
  rw [hget, State.place_congr (s := s) rfl (fun _ => rfl) rfl]
  rfl

/-! ## Block steps -/

section
variable {s : State} {e n : Nat} {k : Task}

theorem exec_blockStepEnd (hrun : (s.engine e).running = some n) (hnone : (s.engine e).recompute = none) {mismatch : Option Nat}
    (hlane : ∀ l, mismatch = some l → e < 0x20 ∧ l < 64) :
    exec (.blockStepEnd e mismatch) s = .next (M.run (blockStepEnd e mismatch) s) := by
  change execBlockStepEnd e mismatch s = _
  refine whenEnabled_next ?_
  rw [hrun, hnone]
  cases mismatch with
  | none => rfl
  | some l => simp [hlane l rfl]

theorem run_blockStepEnd_good (hrun : (s.engine e).running = some n) (hk : s.task n = some k) :
    M.run (blockStepEnd e none) s =
      (s.withEngine e { s.engine e with beat := s.clock.now, recompute := none }).withTask n { k with steps := k.steps + 1 } := by
  unfold blockStepEnd
  rw [run_getS_bind, hrun]
  refine ((modEngine_gives e _ s).run_bind _).trans ?_
  exact (modTask_gives (s := s.withEngine e _) hk _).run

theorem run_blockStepEnd_bad (hrun : (s.engine e).running = some n) (he : e < 0x20) (lane : Nat) :
    M.run (blockStepEnd e (some lane)) s =
      (s.withEngine e { s.engine e with beat := s.clock.now, recompute := some lane }).putFld (Reg.ttStatus e) Fld.ttStatusLastLane lane := by
  unfold blockStepEnd
  rw [run_getS_bind, hrun]
  refine ((modEngine_gives e _ s).run_bind _).trans ?_
  dsimp only
  rw [if_pos he]
  rfl

/-! ## Recomputation -/

theorem exec_abftRecomputeDone {lane : Nat} (he : e < 0x20) (hrun : (s.engine e).running = some n) (hk : s.task n = some k)
    (hlane : (s.engine e).recompute = some lane) (ok : Bool) :
    exec (.abftRecomputeDone e ok) s = .next (M.run (abftRecomputeDone e ok) s) := by
  change execAbftRecomputeDone e ok s = _
  refine whenEnabled_next ?_
  rw [hrun, hlane, Option.bind_some, hk]
  simp [he]

end

/-- The state once a recomputation's lane is recorded and its outcome counted. -/
def State.recomputed (s : State) (e lane : Nat) (f : Field) : State :=
  (s.withEngine e { s.engine e with
    recompute := none
    lanes := ((s.engine e).lanes.filter fun x => s.clock.now ≤ x.2 + dayUnits) ++ [(lane, s.clock.now)] }).putFld
    (Reg.ttAbftCnt e) f (satAdd f.width (s.fld (Reg.ttAbftCnt e) f) 1)

section
variable {s : State} {e n lane : Nat} {k : Task}

theorem run_abftRecomputeDone_passed (hrun : (s.engine e).running = some n) (hk : s.task n = some k)
    (hlane : (s.engine e).recompute = some lane)
    (hfew : ((((s.engine e).lanes.filter fun x => s.clock.now ≤ x.2 + dayUnits) ++ [(lane, s.clock.now)]).filter fun x => x.1 == lane).length
      < s.fld (Reg.ttAbftCtl e) Fld.ttAbftCtlLaneLimit) :
    M.run (abftRecomputeDone e true) s =
      M.run (do settleAll (← raiseFor n e (partOf e) 0x4401 (taskDetail [(1, lane), (1, 0), (2, k.steps % 65536)] k 0xFF)))
        ((s.recomputed e lane Fld.ttAbftCntRetried).withTask n { k with steps := k.steps + 1 }) := by
  unfold abftRecomputeDone
  rw [run_getS_bind, hrun, hlane]
  dsimp only
  rw [hk]
  refine ((modEngine_gives e _ s).run_bind _).trans ?_
  rw [if_pos rfl, if_neg (by omega)]
  refine ((bump_gives _ _ _ _).run_bind _).trans ?_
  refine ((modTask_gives (s := s.recomputed e lane Fld.ttAbftCntRetried) hk _).run_bind _).trans ?_
  simp only [bind_pure_unit]

theorem run_abftRecomputeDone_failed (hrun : (s.engine e).running = some n) (hk : s.task n = some k)
    (hlane : (s.engine e).recompute = some lane)
    (hfew : ((((s.engine e).lanes.filter fun x => s.clock.now ≤ x.2 + dayUnits) ++ [(lane, s.clock.now)]).filter fun x => x.1 == lane).length
      < s.fld (Reg.ttAbftCtl e) Fld.ttAbftCtlLaneLimit) :
    M.run (abftRecomputeDone e false) s =
      M.run (do
        settleAll (← raiseFor n e (partOf e) 0x4402 (taskDetail [(1, lane), (1, 0), (2, k.steps % 65536)] k 0xFF))
        faultTask n false false 1
        trigger (.engine e) 0x4402 s.clock.now 0 false) (s.recomputed e lane Fld.ttAbftCntFailed) := by
  unfold abftRecomputeDone
  rw [run_getS_bind, hrun, hlane]
  dsimp only
  rw [hk]
  refine ((modEngine_gives e _ s).run_bind _).trans ?_
  rw [if_neg (by decide), if_neg (by omega)]
  refine ((bump_gives _ _ _ _).run_bind _).trans ?_
  simp only [bind_pure_unit]
  rfl

theorem State.recomputed_frame (s : State) (e lane : Nat) (f : Field) : s.SameBut [.regs, .engines] (s.recomputed e lane f) :=
  ((State.withEngine_frame ..).mono (by decide)).trans ((State.sameBut_putFld ..).mono (by decide))

end

/-! ## Pre-emption -/

/-- The state once the running task of an engine is marked as saved. -/
def State.setAside (s : State) (e n : Nat) (k : Task) : State :=
  (s.withTask n { k with
    life := .preempted
    preempts := k.preempts + 1
    used := k.used + (s.clock.now - k.runAt)
    fetched := false }).withEngine e { s.engine e with
    running := none
    saved := (s.engine e).saved ++ [n]
    preempting := false }

/-- The address of the save area an engine of the tiles takes next (R223). -/
def State.saveArea (s : State) (e : Nat) : Nat :=
  0x4020000000 + partOf e * 0x1000000 + s.fld (Reg.save (partOf e)) Fld.saveSlot * 0x200000
    + (e % 8 * 4 + (s.engine e).saved.length) * 0x10000

/-- The state once a number of bytes of the save area of a tile's task are written, with values that are open. -/
def State.savedTile (s : State) (e n : Nat) (k : Task) (size : Nat) : State :=
  (Upd.mem (s.saveArea e) ((List.range size).map fun i => Config.freeByte (s.free + i))).apply
    ((Upd.free (· + size)).apply ((s.setAside e n k).putFld (Reg.ttPreemptCnt e) Fld.ttPreemptCntCount
      (satAdd Fld.ttPreemptCntCount.width (s.fld (Reg.ttPreemptCnt e) Fld.ttPreemptCntCount) 1)))

section
variable {s : State} {e n m : Nat} {k : Task}

theorem exec_preemptSave (hrun : (s.engine e).running = some n) (hp : (s.engine e).preempting = true)
    (hnext : (s.engine e).next = some m) (hroom : (s.engine e).saved.length < saveLimit e) :
    exec (.preemptSave e) s = .next (M.run (preemptSave e) s) := by
  change execPreemptSave e s = _
  refine whenEnabled_next ?_
  dsimp only
  rw [hrun, hp, hnext]
  simp [hroom]

theorem run_preemptSave_other (hrun : (s.engine e).running = some n) (hk : s.task n = some k) (he : ¬ e < 0x20) :
    M.run (preemptSave e) s = M.run (do let _ ← enlist n true) (s.setAside e n k) := by
  unfold preemptSave
  rw [run_getS_bind, hrun]
  refine ((modTask_gives hk _).run_bind _).trans ?_
  refine ((modEngine_gives e _ _).run_bind _).trans ?_
  rw [if_neg he]
  rfl

theorem run_preemptSave_tile (hrun : (s.engine e).running = some n) (hk : s.task n = some k) (he : e < 0x20) :
    M.run (preemptSave e) s = M.run (do let _ ← enlist n true) (s.savedTile e n k 0x10000) := by
  unfold preemptSave
  rw [run_getS_bind, hrun]
  refine ((modTask_gives hk _).run_bind _).trans ?_
  refine ((modEngine_gives e _ _).run_bind _).trans ?_
  rw [if_pos he]
  refine ((bump_gives _ _ _ _).run_bind _).trans ?_
  rfl

theorem State.setAside_frame : s.SameBut [.tally, .engines] (s.setAside e n k) :=
  ((State.withTask_frame ..).mono (by decide)).trans ((State.withEngine_frame ..).mono (by decide))

theorem State.place_setAside (a : Nat) : (s.setAside e n k).place a = s.place a := by
  refine State.place_congr_staging ?_ (fun c => ?_) (fun x => ?_) a
  · rfl
  · exact reg_congr rfl _
  · unfold State.setAside
    rw [State.staging_withEngine]
    · rfl
    · rfl

/-- Nothing but the save area is written. -/
theorem State.byteAt_savedTile (hs : s.Canonical) {x size : Nat} (hx : x < s.saveArea e ∨ s.saveArea e + size ≤ x) :
    (s.savedTile e n k size).byteAt x = s.byteAt x := by
  have hc : (s.setAside e n k).Canonical := hs
  have hcap (c : Nat) : Reg.mcStatus c ≠ Reg.ttPreemptCnt e := by simp only [Reg.mcStatus, Reg.ttPreemptCnt]; omega
  unfold State.savedTile
  refine (State.byteAt_apply_mem (State.canonical_putFld hc _ _ _) (by rw [List.length_map, List.length_range]; exact hx)).trans ?_
  refine State.byteAt_congr ?_ ?_ (fun a => ?_) x
  · rfl
  · rfl
  refine Eq.trans ?_ (State.place_setAside (s := s) (e := e) (n := n) (k := k) a)
  refine State.place_congr (s := s.setAside e n k) ?_ (fun c => ?_) ?_ a
  · rfl
  on_goal 2 => rfl
  exact (State.reg_putFld (off := Reg.ttPreemptCnt e) hc).trans (if_neg (hcap c))

theorem State.byteAt_setAside (x : Nat) : (s.setAside e n k).byteAt x = s.byteAt x := by
  refine State.byteAt_congr ?_ ?_ State.place_setAside x
  · rfl
  · rfl

theorem State.savedTile_frame {size : Nat} : s.SameBut [.mem, .regs, .free, .tally, .engines] (s.savedTile e n k size) :=
  ((((State.setAside_frame ..).mono (by decide)).trans ((State.sameBut_putFld ..).mono (by decide))).upd (.free _)).upd (.mem _ _)

theorem State.oneTask_savedTile {size : Nat} : OneTask s n (some { k with
    life := .preempted
    preempts := k.preempts + 1
    used := k.used + (s.clock.now - k.runAt)
    fetched := false }) (s.savedTile e n k size) := State.oneTask_withTask ..

theorem State.oneEngine_savedTile {size : Nat} : OneEngine s e { s.engine e with
    running := none
    saved := (s.engine e).saved ++ [n]
    preempting := false } (s.savedTile e n k size) := State.oneEngine_withEngine ..

end

/-- Settles O28: each command's own updates, one after another, then the follow-up from where they leave. -/
theorem boundariesAreCountedAndMismatchesRecomputed : Obligations.BoundariesAreCountedAndMismatchesRecomputed := by
  intro s e n k hs hrun hk g
  refine ⟨fun hnone => ?_, fun lane hnone he hl => ?_, fun lane hsome => ?_, fun lane he hlane => ?_, fun m hp hnext hroom => ?_,
    fun hp => ?_⟩
  · refine ⟨_, exec_blockStepEnd hrun hnone nofun, ?_⟩
    rw [run_blockStepEnd_good hrun hk]
    refine ⟨((State.withEngine_frame ..).mono (by decide)).trans ((State.withTask_frame ..).mono (by decide)),
      State.oneTask_withTask .., rfl, State.oneEngine_withEngine ..⟩
  · refine ⟨_, exec_blockStepEnd hrun hnone (by rintro _ ⟨⟩; exact ⟨he, hl⟩), ?_⟩
    rw [run_blockStepEnd_bad hrun he]
    exact ⟨((State.withEngine_frame ..).mono (by decide)).trans ((State.sameBut_putFld ..).mono (by decide)),
      State.oneEngine_withEngine .., fun x => State.reg_putFld (s := s.withEngine _ _) hs⟩
  · change execBlockStepEnd e lane s = _
    refine whenEnabled_refused ?_
    rw [Option.isNone_eq_false_iff.mpr hsome]
    simp
  · intro recent count detail hfew
    constructor
    · refine completesThen_of (u := (s.recomputed e lane Fld.ttAbftCntRetried).withTask n { k with steps := k.steps + 1 })
        ⟨((State.recomputed_frame ..).mono (by decide)).trans ((State.withTask_frame ..).mono (by decide)), State.oneTask_withTask ..,
          State.oneEngine_withEngine .., fun x => State.reg_putFld (s := s.withEngine _ _) hs⟩ ?_
      rw [exec_abftRecomputeDone he hrun hk hlane, run_abftRecomputeDone_passed hrun hk hlane hfew]
    · refine completesThen_of (u := s.recomputed e lane Fld.ttAbftCntFailed)
        ⟨State.recomputed_frame .., State.oneEngine_withEngine .., fun x => State.reg_putFld (s := s.withEngine _ _) hs⟩ ?_
      rw [exec_abftRecomputeDone he hrun hk hlane, run_abftRecomputeDone_failed hrun hk hlane hfew]
  · intro area
    by_cases he : e < 0x20
    · refine completesThen_of (u := s.savedTile e n k 0x10000) ⟨State.savedTile_frame, State.oneTask_savedTile, State.oneEngine_savedTile,
        fun a ha => State.byteAt_savedTile hs ?_⟩ ?_
      · exact ha.imp_right fun h => h.resolve_right (by omega)
      · rw [exec_preemptSave hrun hp hnext hroom, run_preemptSave_tile hrun hk he]
    · refine completesThen_of (u := s.setAside e n k) ⟨State.setAside_frame.mono (by decide), State.oneTask_withTask ..,
        State.oneEngine_withEngine .., fun a _ => State.byteAt_setAside a⟩ ?_
      rw [exec_preemptSave hrun hp hnext hroom, run_preemptSave_other hrun hk he]
  · change execPreemptSave e s = _
    refine whenEnabled_refused ?_
    dsimp only
    rw [hp]
    rfl

end Sys2Proof.Machine
end

section
/-! PROOFS. Bands filled and released (R242, R243, R361, R365). -/

namespace Sys2Proof.Machine

open Sys2Proof

/-- The state with one ring as given. -/
def State.withRing (s : State) (key : Nat) (r : Ring) : State := (Upd.tally fun x => { x with rings := tblSet x.rings key r }).apply s

theorem State.ring_withRing (s : State) (key : Nat) (r : Ring) (x : Nat) :
    (s.withRing key r).ring x = if x = key then r else s.ring x := by
  by_cases hx : x = key
  · rw [if_pos hx, hx]
    exact tblGet_tblSet_same ..
  · rw [if_neg hx]
    exact tblGet_tblSet _ _ _ hx

theorem State.withRing_frame (s : State) (key : Nat) (r : Ring) : s.SameBut [.tally] (s.withRing key r) := Upd.sameBut_of _ s

theorem modRing_gives (key : Nat) (f : Ring → Ring) (s : State) : (modRing key f).gives s () (s.withRing key (f (s.ring key))) :=
  fun _ => rfl

section
variable {s u : State} {n rec sl key j : Nat} {k : Task} {b : HallBuf} {bytes : List Byte}

/-- The state once a band is counted as filled. -/
def State.filled (s u : State) (n sl key : Nat) (k : Task) (b : HallBuf) (bytes : List Byte) : State :=
  (((u.withTask n { k with ringOut := k.ringOut.erase (sl, bytes), steps := k.steps + 1 }).withEngine k.engine
    { u.engine k.engine with beat := s.clock.now }).withRing key { u.ring key with
      fill := (u.ring key).fill + 1, waiters := [], moved := s.clock.now, stamps := (u.ring key).stamps ++ [s.clock.now] }).setFlag
    (b.fillFlag + 2 * (key % 8)) { u.hflag (b.fillFlag + 2 * (key % 8)) with
      count := ((u.hflag (b.fillFlag + 2 * (key % 8))).count + 1) % 2 ^ 32 }

theorem run_bandFilled (hk : s.task n = some k) (hb : tblFind s.hall.bufs rec = some b) (hopen : b.sealed = false)
    (hring : k.ringOf rec true = some (sl, key)) (hformed : k.ringOut.find? (fun p => p.1 == sl) = some (sl, bytes))
    (hw : (ctxWrite k.engine k.handle (b.bandAddr (key % 8) (s.ring key).fill) bytes).gives s none u) (hku : u.task n = some k) :
    M.run (bandFilled n rec) s =
      M.run (settleAll ((s.ring key).waiters.map fun w => .slot w.1 w.2 false)) (s.filled u n sl key k b bytes) := by
  unfold bandFilled
  rw [run_getS_bind, hk, hb]
  dsimp only
  rw [hring]
  dsimp only
  rw [hformed]
  refine (hw.run_bind _).trans ?_
  dsimp only
  rw [if_neg (by rw [hopen]; decide)]
  refine ((modTask_gives hku _).run_bind _).trans ?_
  refine ((modEngine_gives _ _ _).run_bind _).trans ?_
  refine ((modRing_gives _ _ _).run_bind _).trans ?_
  exact (modFlag_gives _ _ _).run_bind _

theorem State.filled_frame : u.SameBut [.tally, .engines, .hall] (s.filled u n sl key k b bytes) :=
  ((((State.withTask_frame ..).mono (by decide)).trans ((State.withEngine_frame ..).mono (by decide))).trans
    ((State.withRing_frame ..).mono (by decide))).trans ((sameBut_hall _ _).mono (by decide))

theorem State.ring_filled (x : Nat) : (s.filled u n sl key k b bytes).ring x = if x = key then { u.ring key with
    fill := (u.ring key).fill + 1, waiters := [], moved := s.clock.now, stamps := (u.ring key).stamps ++ [s.clock.now] } else u.ring x :=
  State.ring_withRing ..

/-- The state once a consumer has kept a band and counted it as released, its ring's credit not yet settled. -/
def State.bandKept (s u : State) (n sl key j : Nat) (k : Task) (bytes : List Byte) : State :=
  ((u.withTask n { k with ringIn := k.ringIn ++ [(sl, j, bytes)], steps := k.steps + 1 }).withEngine k.engine
    { u.engine k.engine with beat := s.clock.now }).withRing key { u.ring key with
      moved := s.clock.now
      consumers := (u.ring key).consumers.map fun c => if c.1 = n then (n, c.2 + 1) else c }

theorem run_bandReleased (hk : s.task n = some k) (hb : tblFind s.hall.bufs rec = some b) (hopen : b.sealed = false)
    (hring : k.ringOf rec false = some (sl, key)) (hj : (s.ring key).consumers.find? (fun c => c.1 == n) = some (n, j))
    (hr : (ctxRead k.engine k.handle (b.bandAddr (key % 8) j) b.bandBytes).gives s (.ok bytes) u) (hku : u.task n = some k) :
    M.run (bandReleased n rec) s = M.run (settleCredit key) (s.bandKept u n sl key j k bytes) := by
  unfold bandReleased
  rw [run_getS_bind, hk, hb]
  dsimp only
  rw [hring]
  dsimp only
  rw [hj]
  refine (hr.run_bind _).trans ?_
  dsimp only
  rw [if_neg (by rw [hopen]; decide)]
  refine ((modTask_gives hku _).run_bind _).trans ?_
  refine ((modEngine_gives _ _ _).run_bind _).trans ?_
  exact (modRing_gives _ _ _).run_bind _

theorem State.bandKept_frame : u.SameBut [.tally, .engines] (s.bandKept u n sl key j k bytes) :=
  (((State.withTask_frame ..).mono (by decide)).trans ((State.withEngine_frame ..).mono (by decide))).trans
    ((State.withRing_frame ..).mono (by decide))

end

/-- Settles O32: the band's bytes first, then the task, its engine's beat, the ring and its flag. -/
theorem bandsAreFilledAndReleasedInOrder : Obligations.BandsAreFilledAndReleasedInOrder := by
  intro s n rec k b hk hb hopen
  refine ⟨fun sl key bytes u hring hformed => ?_, fun hnone => ?_, fun sl key j bytes u hring => ?_, fun sl key hring hall => ?_⟩
  · intro r hlife hprod hroom hw hku hru
    refine completesThen_of (u := s.filled u n sl key k b bytes) ⟨State.filled_frame, State.oneTask_withTask .., ?_, fun x hx => ?_,
      hflag_setFlag _ _ _⟩ ?_
    · rw [State.ring_filled, if_pos rfl, hru]
    · rw [State.ring_filled, if_neg hx]
    · rw [← run_bandFilled hk hb hopen hring hformed hw hku]
      change execBandFilled n rec s = _
      refine whenEnabled_next ?_
      have hany : k.ringOut.any (fun p => p.1 == sl) = true := List.any_eq_true.mpr ⟨_, List.mem_of_find?_eq_some hformed, by simp⟩
      unfold State.canFill
      rw [hk, hb]
      dsimp only
      rw [hring]
      dsimp only
      rw [hlife, show (s.ring key).producer = some n from hprod, hany, decide_eq_true hroom]
      simp
  · change execBandFilled n rec s = _
    refine whenEnabled_refused ?_
    unfold State.canFill
    rw [hk, hb]
    dsimp only
    split
    · rw [hnone]
      simp
    · rfl
  · intro r hlife hj hfilled hr hku hru
    refine completesThen_of (u := s.bandKept u n sl key j k bytes) ⟨State.bandKept_frame, State.oneTask_withTask .., ?_, fun x hx => ?_⟩ ?_
    · rw [← hru]
      exact (State.ring_withRing ..).trans (if_pos rfl)
    · exact (State.ring_withRing ..).trans (if_neg hx)
    · rw [← run_bandReleased hk hb hopen hring hj hr hku]
      change execBandReleased n rec s = _
      refine whenEnabled_next ?_
      have hany : (s.ring key).consumers.any (fun c => c.1 == n && c.2 < (s.ring key).fill) = true :=
        List.any_eq_true.mpr ⟨_, List.mem_of_find?_eq_some hj, by simpa using hfilled⟩
      unfold State.canReleaseBand
      rw [hk]
      dsimp only
      rw [hring]
      dsimp only
      rw [hlife, hany]
      rfl
  · change execBandReleased n rec s = _
    refine whenEnabled_refused ?_
    have hany : (s.ring key).consumers.any (fun c => c.1 == n && c.2 < (s.ring key).fill) = false := by
      rw [List.any_eq_false]
      intro c hc
      simpa using hall c hc
    unfold State.canReleaseBand
    rw [hk]
    dsimp only
    rw [hring]
    dsimp only
    rw [hany, Bool.and_false]

end Sys2Proof.Machine
end

section
/-! PROOFS. Delays, instances made by a task, and instances of slot graphs (R128–R135, R403). -/

namespace Sys2Proof.Machine

open Sys2Proof

section
variable {s u v : State} {n g num inst : Nat} {k : Task} {p : List Byte} {gr : Graph} {r : Option Nat}

/-- A task of Tally's with an opcode of family 0x00, and nothing left to append. -/
theorem tallyTask_iff (hk : s.task n = some k) (op : Nat) :
    s.tallyTask n op = true ↔ k.life = .tally ∧ k.pendingAppends = [] ∧ dOpcode k.desc = op := by
  unfold State.tallyTask
  rw [hk]
  simp [and_assoc]

theorem whenEnabled_tallyTask {op : Nat} (hk : s.task n = some k) (hl : k.life = .tally) (ha : k.pendingAppends = [])
    (hop : dOpcode k.desc = op) (m : M Unit) : whenEnabled (fun s => s.tallyTask n op) m s = .next (M.run m s) :=
  whenEnabled_next ((tallyTask_iff hk op).mpr ⟨hl, ha, hop⟩)

theorem run_tallyParams (hp : (ctxRead 0x80 k.handle (dParam k.desc) 64).gives s (.ok p) u) (go : List Byte → M Unit) :
    M.run (tallyParams n k go) s = M.run (go p) u := hp.run_bind _

/-! ## DELAY -/

/-- What DELAY does with its parameter block (R129); the times and the room are those of the command's start. -/
def delayWith (s : State) (n : Nat) (p : List Byte) : M Unit :=
  if 7 < leAt p 8 1 then descriptorInvalid n 0xFE 8
  else if !allZero p 9 55 then descriptorInvalid n 0xFE 9
  else if leAt p 0 8 < s.clock.now then finish n 0
  else if s.delaySize (leAt p 8 1) ≤ s.delayUsed (leAt p 8 1) then do
    raise 0x80 6 0x4102 (det [(4, leAt p 8 1)])
    finish n 1
  else do
    modTally fun x => { x with delay := x.delay ++ [⟨leAt p 8 1, leAt p 0 8, some n, 0, 0⟩] }
    modTask n fun k => { k with life := .delayed }

theorem exec_delay (hk : s.task n = some k) (hl : k.life = .tally) (ha : k.pendingAppends = []) (hop : dOpcode k.desc = 1)
    (hp : (ctxRead 0x80 k.handle (dParam k.desc) 64).gives s (.ok p) u) : exec (.delay n) s = .next (M.run (delayWith s n p) u) := by
  have hrun : M.run (delayTask n) s = M.run (delayWith s n p) u := by
    unfold delayTask
    rw [run_getS_bind, hk]
    exact run_tallyParams hp _
  rw [← hrun]
  exact whenEnabled_tallyTask hk hl ha hop (delayTask n)

/-! ## INSTANTIATE -/

theorem run_instantiateTask_bad (hk : s.task n = some k) (hp : (ctxRead 0x80 k.handle (dParam k.desc) 64).gives s (.ok p) u)
    (hg : leAt p 0 2 < 2 ^ 14) (hz : allZero p 2 62 = true)
    (hbad : ∀ x, tblFind s.tally.graphs (leAt p 0 2) = some x → x.cadence ≠ 0 ∨ x.owner ≠ k.handle ∨ x.dereg = true) :
    M.run (instantiateTask n) s = M.run (descriptorInvalid n 0xFE 0) u := by
  unfold instantiateTask
  rw [run_getS_bind, hk]
  refine (run_tallyParams hp _).trans ?_
  dsimp only
  rw [Nat.mod_eq_of_lt hg, if_neg (by simp), if_neg (by rw [hz]; decide), if_pos]
  cases hx : tblFind s.tally.graphs (leAt p 0 2) with
  | none => rfl
  | some x =>
    rcases hbad x hx with h | h | h <;> simp [h]

theorem run_instantiateTask_good (hk : s.task n = some k) (hp : (ctxRead 0x80 k.handle (dParam k.desc) 64).gives s (.ok p) u)
    (hg : leAt p 0 2 < 2 ^ 14) (hz : allZero p 2 62 = true) (hx : tblFind s.tally.graphs (leAt p 0 2) = some gr) (hc : gr.cadence = 0)
    (ho : gr.owner = k.handle) (hd : gr.dereg = false) (hgood : s.stillGood gr = true)
    (hi : (createInstance (leAt p 0 2) gr.number k.readyAt 0).gives u (.ok inst) v) :
    M.run (instantiateTask n) s = M.run (do
      let _ ← countInstance (leAt p 0 2)
      finish n 0) v := by
  unfold instantiateTask
  rw [run_getS_bind, hk]
  refine (run_tallyParams hp _).trans ?_
  dsimp only
  rw [Nat.mod_eq_of_lt hg, if_neg (by simp), if_neg (by rw [hz]; decide), hx]
  dsimp only
  rw [if_neg (by simp [hc, ho, hd, hgood])]
  exact hi.run_bind _

theorem exec_instantiate (hk : s.task n = some k) (hl : k.life = .tally) (ha : k.pendingAppends = []) (hop : dOpcode k.desc = 2) :
    exec (.instantiate n) s = .next (M.run (instantiateTask n) s) :=
  whenEnabled_tallyTask hk hl ha hop (instantiateTask n)

end

/-- Settles O33: the parameter block is read once; the checks, the room and the graph's counter then decide. -/
theorem delaysAndInstancesAreMade : Obligations.DelaysAndInstancesAreMade := by
  intro s
  refine ⟨fun n k p u hk hl ha hp hku => ?_, fun g gr hgr => ?_⟩
  · intro due list
    refine ⟨fun hop hlist => ?_, fun hop hlist hz => ?_, fun hop hlist hz => ⟨fun hlate => ?_, fun htime hroom => ?_, fun htime hroom => ?_⟩,
      fun hop hg hz => ⟨fun x inst v hx hc ho hd hgood hi => ?_, fun hbad => ?_⟩⟩
    · refine completesThen_of_exec ?_
      rw [exec_delay hk hl ha hop hp, delayWith, if_pos hlist]
    · refine completesThen_of_exec ?_
      rw [exec_delay hk hl ha hop hp, delayWith, if_neg (by omega), hz, if_pos (c := (!false) = true) rfl]
    · refine completesThen_of_exec ?_
      rw [exec_delay hk hl ha hop hp, delayWith, if_neg (by omega), hz, if_neg (by decide), if_pos hlate]
    · refine ⟨_, exec_delay hk hl ha hop hp, ?_⟩
      rw [delayWith, if_neg (by omega), hz, if_neg (by decide), if_neg (by omega), if_neg (Nat.not_le.mpr hroom)]
      refine ⟨(Upd.sameBut_of (.tally _) _).trans (Upd.sameBut_of (.tally _) _), rfl, ?_⟩
      exact oneTask_modTask (s := (Upd.tally fun x => { x with delay := x.delay ++ [⟨list, due, some n, 0, 0⟩] }).apply u) hku _
    · refine completesThen_of rfl ?_
      rw [exec_delay hk hl ha hop hp, delayWith, if_neg (by omega), hz, if_neg (by decide), if_neg (by omega), if_pos hroom]
      exact congrArg _ ((raise_gives _ _ _ _ u).run_bind _)
    · refine completesThen_of_exec ?_
      rw [exec_instantiate hk hl ha hop, run_instantiateTask_good hk hp hg hz hx hc ho hd hgood hi]
    · refine completesThen_of_exec ?_
      rw [exec_instantiate hk hl ha hop, run_instantiateTask_bad hk hp hg hz hbad]
  · intro mu due slot stamp
    refine ⟨fun hc hd hdue num u r v hnum hev => ?_, fun hearly => ?_, fun hc => ?_⟩
    · have hexec : exec (.slotInstanceCreate g) s = .next (M.run (slotInstanceCreate g) s) := by
        change execSlotInstanceCreate g s = _
        refine whenEnabled_next ?_
        rw [hgr]
        dsimp only
        rw [decide_eq_true hdue, hc, hd]
        rfl
      have hrun : M.run (slotInstanceCreate g) s = M.run (match (generalizing := false) r with
          | none => pure ()
          | some id =>
            modTally fun x => { x with delay := x.delay ++ (List.range 14).map fun l => ⟨gr.slotList, stamp l, none, id, l⟩ }) v := by
        unfold slotInstanceCreate
        rw [run_getS_bind, hgr]
        refine (hnum.run_bind _).trans ((hev.run_bind _).trans ?_)
        cases r <;> rfl
      rw [hexec, hrun]
      refine ⟨_, rfl, by rintro rfl; rfl, ?_⟩
      rintro id rfl
      exact ⟨Upd.sameBut_of _ v, rfl⟩
    · change execSlotInstanceCreate g s = _
      refine whenEnabled_refused ?_
      rw [hgr]
      dsimp only
      rw [decide_eq_false (Nat.not_le.mpr hearly), Bool.and_false]
    · change execSlotInstanceCreate g s = _
      refine whenEnabled_refused ?_
      rw [hgr]
      simp [hc]

end Sys2Proof.Machine
end

section
/-! PROOFS. Commits, releases of held effects, and appends of tasks (R109, R135, R155–R160, R554, R555). -/

namespace Sys2Proof.Machine

open Sys2Proof

/-! ## Held lists -/

/-- The state with its held-effects lists as given. -/
def State.withHeld (s : State) (ls : List HeldList) : State := (Upd.tally fun x => { x with heldLists := ls }).apply s

theorem State.withHeld_frame (s : State) (ls : List HeldList) : s.SameBut [.tally] (s.withHeld ls) := Upd.sameBut_of _ s

section
variable {s v : State} {n q seq : Nat} {l : HeldList} {e : Effect} {pre post : List (Effect × Bool)}

theorem exec_commit (h : s.heldOf n = some l) : exec (.commit n) s = .next (M.run (commit n) s) := by
  change execCommit n s = _
  exact whenEnabled_next (by rw [h]; rfl)

/-- A second commit discards the held effects, with event 0x0202 (R160). -/
theorem run_commit_settled (h : s.heldOf n = some l) (hset : s.settled l.queue l.seq = true) :
    M.run (commit n) s = M.run (do settleAll (← leaveEntry l.queue l.seq))
      ((s.afterEvent 0x80 6 0x0202 (det [(4, l.queue), (4, l.seq)])).withHeld
        ((s.afterEvent 0x80 6 0x0202 (det [(4, l.queue), (4, l.seq)])).tally.heldLists.filter fun y => y.task != n)) := by
  unfold commit
  rw [run_getS_bind, h]
  dsimp only
  rw [if_pos hset]
  exact (raise_gives _ _ _ _ s).run_bind _

/-- A commit notes it once both copies of its record are written (R156). -/
theorem run_commit_written (h : s.heldOf n = some l) (hnew : s.settled l.queue l.seq = false)
    (hw : (writeLedger l.queue l.seq 2 0 0 0 noKey 0 0).gives s true v) :
    M.run (commit n) s = M.run (noteCommit n)
      (v.withHeld (v.tally.heldLists.map fun y => if y.task = n then { y with committed := true } else y)) := by
  unfold commit
  rw [run_getS_bind, h]
  dsimp only
  rw [if_neg (by rw [hnew]; decide)]
  exact hw.run_bind _

/-! ## Releases -/

/-- Effects already done are passed over. -/
theorem releaseAll_append_done (h : ∀ x ∈ pre, x.2 = true) : releaseAll l (pre ++ post) = releaseAll l post := by
  induction pre with
  | nil => rfl
  | cons x pre ih =>
    obtain ⟨e, d⟩ := x
    obtain rfl : d = true := h _ List.mem_cons_self
    exact ih fun y hy => h y (List.mem_cons_of_mem _ hy)

/-- An entry whose list has nothing left to release is retired and leaves its ring. -/
def retireReleased (q seq : Nat) : M Unit := do
  let s ← getS
  match s.committedOf q seq with
  | none => pure ()
  | some l =>
    if l.effects.all (·.2) then
      modTally fun x => { x with heldLists := x.heldLists.filter fun y => y.task != l.task }
      settleAll (← leaveEntry q seq)

theorem run_heldEffectRelease (h : s.committedOf q seq = some l) :
    M.run (heldEffectRelease q seq) s = M.run (do
      releaseAll l l.effects
      retireReleased q seq) s := by
  unfold heldEffectRelease
  rw [run_getS_bind, h]
  rfl

theorem exec_heldEffectRelease (h : s.committedOf q seq = some l) (hm : s.mayRelease q seq = true) :
    exec (.heldEffectRelease q seq) s = .next (M.run (do
      releaseAll l l.effects
      retireReleased q seq) s) := by
  rw [← run_heldEffectRelease h]
  change execHeldEffectRelease q seq s = _
  exact whenEnabled_next (by rw [h, hm]; rfl)

theorem run_retireReleased_done (h : s.committedOf q seq = some l) (hall : ∀ x ∈ l.effects, x.2 = true) :
    M.run (retireReleased q seq) s = M.run (do settleAll (← leaveEntry q seq))
      (s.withHeld (s.tally.heldLists.filter fun y => y.task != l.task)) := by
  unfold retireReleased
  rw [run_getS_bind, h]
  dsimp only
  rw [if_pos (List.all_eq_true.mpr hall)]
  rfl

theorem run_retireReleased_waiting (h : s.committedOf q seq = some l) (hx : (e, false) ∈ l.effects) : M.run (retireReleased q seq) s = s := by
  unfold retireReleased
  rw [run_getS_bind, h]
  dsimp only
  rw [if_neg fun hall => by simpa using List.all_eq_true.mp hall _ hx]
  rfl

theorem run_releaseAll_stopped {ws : List Work} (hr : (releaseOne l e).gives s (false, ws) v) (f : Unit → M Unit) :
    M.run (releaseAll l ((e, false) :: post) >>= f) s = M.run (f ()) v := by
  rw [releaseAll]
  exact hr.run_bind _

theorem run_releaseAll_done {ws : List Work} (hr : (releaseOne l e).gives s (true, ws) v) (f : Unit → M Unit) :
    M.run (releaseAll l ((e, false) :: post) >>= f) s = M.run (do
        settleAll ws
        releaseAll l post
        f ())
      (v.withHeld (v.tally.heldLists.map fun y => if y.task = l.task then { y with effects := markDone y.effects } else y)) := by
  rw [releaseAll]
  exact hr.run_bind _

end

/-! ## Appends -/

section
variable {s u v : State} {n q slot seq : Nat} {k : Task} {payload : List Byte}

theorem run_appendNow_full (hk : s.task n = some k) (hfull : s.canAppend q = false) (f : Bool → M Unit) :
    M.run (appendNow n q slot payload >>= f) s = M.run (f false) (s.withTask n { k with pendingAppends := [(q, slot, payload)] }) := by
  rw [appendNow, bind_assoc, run_getS_bind, hk]
  dsimp only
  rw [hfull, if_pos (c := (!false) = true) rfl]
  exact (modTask_gives hk _).run_bind _

/-- The state once a task has counted an append as made. -/
def State.appendedBy (s : State) (n : Nat) : State :=
  M.run (modTask n fun k => { k with pendingAppends := [], appended := k.appended + 1 }) s

theorem State.appendedBy_frame : s.SameBut [.tally] (s.appendedBy n) := Upd.sameBut_of _ s

theorem run_appendNow_room (hk : s.task n = some k) (hroom : s.canAppend q = true)
    (happ : (appendEntry q 0 payload k.handle (s.safetyOf k.handle) none (some k) noKey).gives s (.ok seq) v) (f : Bool → M Unit) :
    M.run (appendNow n q slot payload >>= f) s = M.run (do
      settleAll [.bind q]
      f true) (v.appendedBy n) := by
  rw [appendNow, bind_assoc, run_getS_bind, hk]
  dsimp only
  rw [hroom, if_neg (by decide)]
  exact happ.run_bind _

/-- A held append that finds room; a POST then ends completed (R109, R135). -/
theorem exec_queueAppend {rest : List (Nat × Nat × List Byte)} (hk : s.task n = some k)
    (hp : k.pendingAppends = (q, slot, payload) :: rest) (hroom : s.canAppend q = true)
    (happ : (appendEntry q 0 payload k.handle (s.safetyOf k.handle) none (some k) noKey).gives s (.ok seq) v) :
    exec (.queueAppend n) s = .next (M.run (do
      settleAll [.bind q]
      let t ← getS
      if ((t.task n).map fun k => k.life == .tally).getD false then finish n 0) (v.appendedBy n)) := by
  have hrun : M.run (queueAppend n) s = M.run (do
      if ← appendNow n q slot payload then
        let t ← getS
        if ((t.task n).map fun k => k.life == .tally).getD false then finish n 0) s := by
    unfold queueAppend
    rw [run_getS_bind, hk, Option.map_some, hp]
  have hroomed := hrun.trans (run_appendNow_room hk hroom happ _)
  change execQueueAppend n s = _
  exact (whenEnabled_next (by rw [hk, Option.map_some, hp]; exact hroom)).trans (congrArg _ hroomed)

/-- What POST does with its parameter block (R135); the rights are those of the command's start. -/
def postWith (s : State) (n : Nat) (k : Task) (p : List Byte) : M Unit :=
  let q := slotQueue (dSlot k.desc 8)
  if !allZero p 48 16 then descriptorInvalid n 0xFE 48
  else if !s.mayEnqueue k.handle q ∨ s.gateRefuses q (some k) then descriptorInvalid n 8 0
  else if dStaged k.desc then do
    modTask n fun k => { k with effects := k.effects ++ [(.append q 0 0 (p.take 48), false)] }
    finish n 0
  else do
    modTask n fun k => { k with runAt := s.clock.now }
    if ← appendNow n q 0 (p.take 48) then finish n 0

theorem exec_post {p : List Byte} (hk : s.task n = some k) (hl : k.life = .tally) (ha : k.pendingAppends = []) (hop : dOpcode k.desc = 3)
    (hp : (ctxRead 0x80 k.handle (dParam k.desc) 64).gives s (.ok p) u) :
    exec (.post n) s = .next (M.run (postWith s n k p) u) := by
  have hrun : M.run (postTask n) s = M.run (postWith s n k p) u := by
    unfold postTask
    rw [run_getS_bind, hk]
    exact run_tallyParams hp _
  rw [← hrun]
  exact whenEnabled_tallyTask hk hl ha hop (postTask n)

end

/-- Settles O30: the list's flag is set only behind the commit record, and only effects of a list so marked are released. -/
theorem stagedEffectsAreReleasedOnlyAfterTheCommit : Obligations.StagedEffectsAreReleasedOnlyAfterTheCommit := by
  intro s n hs
  refine ⟨fun l hl => ⟨fun hset => ?_, fun v hnew hw => ?_⟩, fun hnone => ?_, fun q seq l hl hm hall => ?_,
    fun q seq l pre e post hl hm hpre heff => ⟨fun ws v hr hsame => ?_, fun ws v hr => ?_⟩, fun q seq hm => ?_,
    fun k q slot payload rest seq v hk hp hroom happ x hx => ?_, fun k q slot payload rest hk hp hfull => ?_,
    fun k p u hk hl ha hop hp hku hz => ?_⟩
  · have hquiet := s.afterEvent_quiet 0x80 6 0x0202 (det [(4, l.queue), (4, l.seq)])
    have hlists : (s.afterEvent 0x80 6 0x0202 (det [(4, l.queue), (4, l.seq)])).tally.heldLists = s.tally.heldLists := by
      rw [hquiet.rest]
    refine completesThen_of ⟨?_, ?_⟩ (by rw [exec_commit hl, run_commit_settled hl hset])
    · change List.filter _ _ = _
      rw [hlists]
    · convert hquiet using 1
      rw [← hlists]
      rfl
  · exact completesThen_of ⟨State.withHeld_frame .., rfl⟩ (by rw [exec_commit hl, run_commit_written hl hnew hw])
  · change execCommit n s = _
    exact whenEnabled_refused (by rw [hnone]; rfl)
  · refine completesThen_of (u := s.withHeld (s.tally.heldLists.filter fun y => y.task != l.task)) ⟨State.withHeld_frame .., rfl⟩ ?_
    have hskip := releaseAll_append_done (l := l) (post := []) hall
    rw [List.append_nil] at hskip
    rw [exec_heldEffectRelease hl hm, hskip, ← run_retireReleased_done hl hall]
    rfl
  · rw [exec_heldEffectRelease hl hm, heff, releaseAll_append_done hpre, run_releaseAll_stopped hr,
      run_retireReleased_waiting (s := v) (l := l) (e := e)]
    · rw [State.committedOf, hsame]
      exact hl
    · rw [heff]
      simp
  · refine completesThen_of (u := v.withHeld _) ⟨State.withHeld_frame .., rfl⟩ ?_
    rw [exec_heldEffectRelease hl hm, heff, releaseAll_append_done hpre, run_releaseAll_done hr]
    rfl
  · change execHeldEffectRelease q seq s = _
    exact whenEnabled_refused (by rw [hm, Bool.and_false])
  · exact completesThen_of ⟨State.appendedBy_frame, oneTask_modTask hx _⟩ (exec_queueAppend hk hp hroom happ)
  · change execQueueAppend n s = _
    exact whenEnabled_refused (by rw [hk, Option.map_some, hp]; exact hfull)
  · have hexec := exec_post hk hl ha hop hp
    intro q
    refine ⟨fun hno => ?_, fun hmay hgate hst => ?_, fun hmay hgate hst x hfull hx => ?_, fun hmay hgate hst hroom seq v happ => ?_⟩
    · refine completesThen_of_exec ?_
      rw [hexec, postWith, hz, if_neg (by decide), if_pos (by left; rw [hno]; rfl)]
    · refine completesThen_of (u := u.withTask n _) ⟨State.withTask_frame .., State.oneTask_withTask ..⟩ ?_
      rw [hexec, postWith, hz, if_neg (by decide), if_neg (by rw [hmay, hgate]; decide), hst, if_pos rfl]
      exact congrArg _ ((modTask_gives hku _).run_bind _)
    · refine ⟨_, hexec, ?_⟩
      rw [postWith, hz, if_neg (by decide), if_neg (by rw [hmay, hgate]; decide), hst, if_neg (by decide)]
      rw [(modTask_gives hku _).run_bind _, run_appendNow_full (State.oneTask_withTask u n _).1 hfull]
      refine ⟨(State.withTask_frame ..).trans (State.withTask_frame ..), (State.oneTask_withTask ..).1, fun m hm => ?_⟩
      exact ((State.oneTask_withTask ..).2 m hm).trans ((State.oneTask_withTask ..).2 m hm)
    · have happ' : (appendEntry q 0 (p.take 48) k.handle (u.safetyOf k.handle) none (some { k with runAt := s.clock.now }) noKey).gives
          (u.withTask n { k with runAt := s.clock.now }) (.ok seq) v := fun m => (modTask_gives hku _ _).symm.trans (happ m)
      refine completesThen_of (u := v.appendedBy n) ⟨State.appendedBy_frame, fun x hx => oneTask_modTask hx _⟩ ?_
      rw [hexec, postWith, hz, if_neg (by decide), if_neg (by rw [hmay, hgate]; decide), hst, if_neg (by decide)]
      rw [(modTask_gives hku _).run_bind _, run_appendNow_room (State.oneTask_withTask u n _).1 hroom happ']
      rfl

end Sys2Proof.Machine
end

section
/-! PROOFS. What ending a task and settling the work that follows keep: the order of the tables of tasks and engines, the numbers given to
tasks, the owners of queues, whether Tally accepts work, the pin OOS_N, and recovery but for its fences. -/

namespace Sys2Proof.Machine

open Sys2Proof

/-- Every queue of one Tally stands in the other one with the same owner. -/
def Tally.Owners (x y : Tally) : Prop := ∀ p ∈ y.queues, ∃ r ∈ x.queues, r.1 = p.1 ∧ r.2.owner = p.2.owner

theorem Tally.Owners.of {x y : Tally} (h : y.queues = x.queues) : x.Owners y := fun p hp => ⟨p, h ▸ hp, rfl, rfl⟩

theorem Tally.Owners.trans {x y z : Tally} (h : x.Owners y) (k : y.Owners z) : x.Owners z := fun p hp => by
  obtain ⟨r, hr, hkey, howner⟩ := k p hp
  obtain ⟨r', hr', hkey', howner'⟩ := h r hr
  exact ⟨r', hr', hkey'.trans hkey, howner'.trans howner⟩

/-- What the operations that end tasks and settle their work keep of Tally's tables. -/
structure Tally.Tame (x y : Tally) : Prop where
  sorted : tblSorted x.tasks = true → tblSorted y.tasks = true
  absent : ∀ n, tblFind x.tasks n = none → tblFind y.tasks n = none
  nextTask : y.nextTask = x.nextTask
  accepting : y.accepting = x.accepting
  owners : x.Owners y

theorem Tally.Tame.of {x y : Tally} (ht : y.tasks = x.tasks) (hn : y.nextTask = x.nextTask) (hq : y.queues = x.queues)
    (ha : y.accepting = x.accepting := by rfl) : x.Tame y :=
  ⟨by rw [ht]; exact id, by rw [ht]; exact fun _ => id, hn, ha, .of hq⟩

theorem Tally.Tame.trans {x y z : Tally} (h : x.Tame y) (k : y.Tame z) : x.Tame z :=
  ⟨k.sorted ∘ h.sorted, fun n hn => k.absent n (h.absent n hn), k.nextTask.trans h.nextTask, k.accepting.trans h.accepting,
    h.owners.trans k.owners⟩

/-- An update that keeps the tables of tasks and engines in order, gives no new task, leaves Tally's gate and OOS_N, and of recovery
all but the fences. -/
def Upd.Tame : Upd → Prop
  | .tally f => ∀ x : Tally, x.Tame (f x)
  | .engines f => ∀ t, tblSorted t = true → tblSorted (f t) = true
  | .rcv f => ∀ r, f r = { r with fences := (f r).fences }
  | .pins f => ∀ p, (f p).oosN = p.oosN
  | _ => True

theorem M.All.tame {α : Type} {m : M α} {msk : Nat} (h : M.All (Upd.In msk) m) (hm : msk &&& 0x4B00 = 0) : M.All Upd.Tame m := by
  refine h.mono fun u hu => ?_
  have bit {i : Nat} (hb : (0x4B00).testBit i = true) : msk.testBit i = false := Part.testBit_of_land hm hb
  cases u with
  | tally f => exact absurd hu (by simp [Upd.In, Upd.bit, bit (i := 8) rfl])
  | engines f => exact absurd hu (by simp [Upd.In, Upd.bit, bit (i := 9) rfl])
  | rcv f => exact absurd hu (by simp [Upd.In, Upd.bit, bit (i := 11) rfl])
  | pins f => exact absurd hu (by simp [Upd.In, Upd.bit, bit (i := 14) rfl])
  | _ => exact True.intro

theorem modTally_tame {f : Tally → Tally} (h : ∀ x : Tally, x.Tame (f x)) : M.All Upd.Tame (modTally f) := .update h

theorem modEngine_tame (e : Nat) (f : Engine → Engine) : M.All Upd.Tame (modEngine e f) := .update fun (t : Tbl Engine) (h : tblSorted t = true) => tblSet_sorted _ _ h

theorem Tally.Tame.set {x y : Tally} {n : Nat} {k v : Task} (hk : tblFind x.tasks n = some k) (ht : y.tasks = tblSet x.tasks n v)
    (hn : y.nextTask = x.nextTask) (hq : y.queues = x.queues) (ha : y.accepting = x.accepting := by rfl) : x.Tame y := by
  refine ⟨fun h => by rw [ht]; exact tblSet_sorted _ _ h, fun m hm => ?_, hn, ha, .of hq⟩
  have hne : m ≠ n := by rintro rfl; rw [hk] at hm; cases hm
  rw [ht, tblFind_tblSet _ _ hne, hm]

theorem modTask_tame (n : Nat) (f : Task → Task) : M.All Upd.Tame (modTask n f) := by
  refine modTally_tame fun x => ?_
  cases hk : tblFind x.tasks n with
  | none => exact .of rfl rfl rfl
  | some k => exact .set hk rfl rfl rfl

theorem modQueue_tame (q : Nat) (f : Queue → Queue) (hf : ∀ u, (f u).owner = u.owner) : M.All Upd.Tame (modQueue q f) := by
  refine modTally_tame fun x => ?_
  cases hk : tblFind x.queues q with
  | none => exact .of rfl rfl rfl
  | some u =>
    refine ⟨id, fun _ => id, rfl, rfl, fun p hp => ?_⟩
    rcases tblSet_mem hp with hp | rfl
    · exact ⟨p, hp, rfl, rfl⟩
    · exact ⟨(q, u), mem_of_tblFind hk, rfl, (hf u).symm⟩

theorem modCtx_tame (h : Nat) (f : Ctx → Ctx) : M.All Upd.Tame (modCtx h f) := modTally_tame fun _ => .of rfl rfl rfl

theorem modRing_tame (key : Nat) (f : Ring → Ring) : M.All Upd.Tame (modRing key f) := modTally_tame fun _ => .of rfl rfl rfl

theorem countRefused_tame (p : Nat) : M.All Upd.Tame (countRefused p) := .update fun _ => rfl

theorem streamWrite_tame (q pa : Nat) (r : List Byte) : M.All Upd.Tame (streamWrite q pa r) := by
  unfold streamWrite
  repeat' first
    | (with_reducible first | exact .pure _ | exact .getS | refine .bind ?_ fun _ => ?_ | refine .ite ?_ ?_)
    | with_reducible exact modQueue_tame _ _ fun _ => rfl
    | ((with_reducible refine .tame (storeLine_reach (msk := 0x81) (Nat.and_self _) _ _ _) ?_); exact rfl)
    | with_reducible intro _
    | split

theorem offer0_tame (mk : Nat → List Byte) : M.All Upd.Tame (offer0 mk) := by
  unfold offer0
  repeat' first
    | (with_reducible first | exact .pure _ | exact .getS | refine .bind ?_ fun _ => ?_ | refine .ite ?_ ?_)
    | with_reducible exact streamWrite_tame _ _ _
    | with_reducible exact modQueue_tame _ _ fun _ => rfl
    | with_reducible intro _
    | split

theorem raise_tame (src part code : Nat) (detail : List Byte) : M.All Upd.Tame (raise src part code detail) := by
  unfold raise
  repeat' first
    | (with_reducible first | exact .pure _ | exact .getS | refine .bind ?_ fun _ => ?_ | refine .ite ?_ ?_)
    | with_reducible exact offer0_tame _

theorem prevTokens_tame (g : Nat) : M.All Upd.Tame (prevTokens g) := by
  unfold prevTokens
  repeat' first
    | (with_reducible first | exact .pure _ | exact .getS | refine .bind ?_ fun _ => ?_ | refine .ite ?_ ?_ | refine .forIn _ _ _ fun _ _ => ?_)
    | with_reducible exact modTask_tame _ _
    | with_reducible intro _
    | split

theorem translationFault_tame (who h va access : Nat) (e : MemErr) : M.All Upd.Tame (translationFault who h va access e) := by
  unfold translationFault
  repeat' first
    | (with_reducible first | exact .pure _ | exact .getS | refine .bind ?_ fun _ => ?_ | refine .ite ?_ ?_)
    | with_reducible exact raise_tame _ _ _ _

theorem decodeError_tame (who a : Nat) (isWrite : Bool) : M.All Upd.Tame (decodeError who a isWrite) := by
  unfold decodeError
  repeat' first
    | (with_reducible first | exact .pure _ | exact .getS | refine .bind ?_ fun _ => ?_ | refine .ite ?_ ?_)
    | with_reducible exact raise_tame _ _ _ _

theorem eccFailed_tame (who w kind : Nat) : M.All Upd.Tame (eccFailed who w kind) := by
  unfold eccFailed
  repeat' first
    | (with_reducible first | exact .pure _ | exact .getS | refine .bind ?_ fun _ => ?_ | refine .ite ?_ ?_)
    | with_reducible exact modEngine_tame _ _
    | with_reducible exact raise_tame _ _ _ _
    | ((with_reducible refine .tame (wrReg_reach (msk := 0x8) (Nat.and_self _) _ _) ?_); exact rfl)
    | with_reducible intro _
    | split

theorem admit_tame (who a : Nat) (isWrite : Bool) : M.All Upd.Tame (admitAccess who a isWrite) := by
  unfold admitAccess
  repeat' first
    | (with_reducible first | exact .pure _ | exact .getS | refine .bind ?_ fun _ => ?_ | refine .ite ?_ ?_)
    | with_reducible exact decodeError_tame _ _ _
    | with_reducible exact countRefused_tame _
    | with_reducible intro _
    | split

theorem eccCorrected_tame (w : Nat) : M.All Upd.Tame (eccCorrected w) := by
  refine .bind (.update True.intro) fun _ => .bind .getS fun s => ?_
  split
  · refine .bind ((bump_reach (msk := 8) rfl _ _ _).tame rfl) fun _ => .bind .getS fun s => .ite ?_ (.pure _)
    exact .bind ((wrFld_reach (msk := 8) rfl _ _ _).tame rfl) fun _ => raise_tame _ _ _ _
  · exact .pure _

theorem physRead_tame (who a n : Nat) : M.All Upd.Tame (physRead who a n) := by
  unfold physRead
  repeat' first
    | fail_if_no_progress beta_reduce
    | (extract_lets +onlyGivenNames jp; clear_value jp)
    | (with_reducible first | exact .pure _ | exact .getS | refine .bind ?_ fun _ => ?_ | refine .ite ?_ ?_ | refine .forIn _ _ _ fun _ _ => ?_)
    | ((with_reducible refine .update ?_); exact True.intro)
    | ((with_reducible refine .tame (meter_reach (msk := 0x8) (Nat.and_self _) _ _ _ _) ?_); exact rfl)
    | with_reducible exact eccFailed_tame _ _ _
    | ((with_reducible refine .tame (touchLine_reach (msk := 0x81) (Nat.and_self _) _ _) ?_); exact rfl)
    | with_reducible exact admit_tame _ _ _
    | with_reducible exact eccCorrected_tame _
    | with_reducible apply_assumption -exfalso -symm
    | with_reducible intro _
    | split

theorem translate_tame (who h va : Nat) (isWrite : Bool) : M.All Upd.Tame (translate who h va isWrite) := by
  unfold translate
  repeat' first
    | fail_if_no_progress beta_reduce
    | (extract_lets +onlyGivenNames jp
       first
       | (refine (fun hj : ∀ x, M.All Upd.Tame (jp x) => ?_) (fun x => ?_)
          on_goal 2 => (dsimp -zeta only [jp]; clear jp)
          on_goal 1 => clear_value jp)
       | (refine (fun hj : ∀ x y, M.All Upd.Tame (jp x y) => ?_) (fun x y => ?_)
          on_goal 2 => (dsimp -zeta only [jp]; clear jp)
          on_goal 1 => clear_value jp)
       | clear_value jp)
    | (with_reducible first | exact .pure _ | exact .getS | refine .bind ?_ fun _ => ?_ | refine .ite ?_ ?_)
    | ((with_reducible refine .update ?_); exact True.intro)
    | with_reducible exact translationFault_tame _ _ _ _ _
    | ((with_reducible refine .tame (countLate_reach (msk := 0x8) (Nat.and_self _)) ?_); exact rfl)
    | with_reducible exact decodeError_tame _ _ _
    | with_reducible exact physRead_tame _ _ _
    | with_reducible apply_assumption -exfalso -symm
    | with_reducible intro _
    | split

theorem physWrite_tame (who a : Nat) (bs : List Byte) : M.All Upd.Tame (physWrite who a bs) := by
  unfold physWrite
  repeat' first
    | (with_reducible first | exact .pure _ | exact .getS | refine .bind ?_ fun _ => ?_ | refine .ite ?_ ?_ | refine .forIn _ _ _ fun _ _ => ?_)
    | ((with_reducible refine .update ?_); exact True.intro)
    | ((with_reducible refine .tame (meter_reach (msk := 0x8) (Nat.and_self _) _ _ _ _) ?_); exact rfl)
    | with_reducible exact eccFailed_tame _ _ _
    | with_reducible exact admit_tame _ _ _
    | ((with_reducible refine .tame (storeLine_reach (msk := 0x81) (Nat.and_self _) _ _ _) ?_); exact rfl)
    | with_reducible intro _
    | split

theorem ctxWrite_tame (who h va : Nat) (bs : List Byte) : M.All Upd.Tame (ctxWrite who h va bs) := by
  unfold ctxWrite
  repeat' first
    | (with_reducible first | exact .pure _ | exact .getS | refine .bind ?_ fun _ => ?_ | refine .ite ?_ ?_ | refine .forIn _ _ _ fun _ _ => ?_)
    | with_reducible exact translate_tame _ _ _ _
    | with_reducible exact physWrite_tame _ _ _
    | with_reducible exact modCtx_tame _ _
    | with_reducible intro _
    | split

theorem physReadAll_tame (who a n : Nat) : M.All Upd.Tame (physReadAll who a n) := by
  unfold physReadAll
  repeat' first
    | fail_if_no_progress beta_reduce
    | (extract_lets +onlyGivenNames jp; clear_value jp)
    | (with_reducible first | exact .pure _ | exact .getS | refine .bind ?_ fun _ => ?_ | refine .ite ?_ ?_ | refine .forIn _ _ _ fun _ _ => ?_)
    | with_reducible exact physRead_tame _ _ _
    | with_reducible apply_assumption -exfalso -symm
    | with_reducible intro _
    | split

theorem readMember_tame (j r : Nat) : M.All Upd.Tame (readMember j r) := by
  unfold readMember
  repeat' first
    | (with_reducible first | exact .pure _ | exact .getS | refine .bind ?_ fun _ => ?_ | refine .ite ?_ ?_)
    | with_reducible exact physReadAll_tame _ _ _
    | with_reducible intro _
    | split

theorem openQp_tame (j r : Nat) : M.All Upd.Tame (openQp j r) := by
  unfold openQp
  repeat' first
    | (with_reducible first | exact .pure _ | exact .getS | refine .bind ?_ fun _ => ?_ | refine .ite ?_ ?_)
    | with_reducible exact readMember_tame _ _
    | ((with_reducible refine .tame (modQp_reach (msk := 0x8000) (Nat.and_self _) _ _) ?_); exact rfl)
    | with_reducible intro _
    | split

theorem mirrorPost_tame (j r off : Nat) (bytes : List Byte) (entry : Option (Nat × Nat)) : M.All Upd.Tame (mirrorPost j r off bytes entry) := by
  unfold mirrorPost
  repeat' first
    | (with_reducible first | exact .pure _ | exact .getS | refine .bind ?_ fun _ => ?_ | refine .ite ?_ ?_)
    | with_reducible exact readMember_tame _ _
    | with_reducible exact openQp_tame _ _
    | ((with_reducible refine .tame (postMsg_reach (msk := 0xA000) (Nat.and_self _) _ _ _ _ _) ?_); exact rfl)
    | with_reducible intro _
    | split

theorem forwardEntry_tame (q seq oseq oqueue oslot index : Nat) (payload : List Byte) : M.All Upd.Tame (forwardEntry q seq oseq oqueue oslot index payload) := by
  unfold forwardEntry
  repeat' first
    | (with_reducible first | exact .pure _ | exact .getS | refine .bind ?_ fun _ => ?_ | refine .ite ?_ ?_)
    | with_reducible exact openQp_tame _ _
    | ((with_reducible refine .tame (postMsg_reach (msk := 0xA000) (Nat.and_self _) _ _ _ _ _) ?_); exact rfl)
    | ((with_reducible refine .tame (modQp_reach (msk := 0x8000) (Nat.and_self _) _ _) ?_); exact rfl)
    | with_reducible intro _
    | split

theorem writeLedger_tame (q seq ty crc producer status : Nat) (key : OriginKey) (a0 a1 : Nat) : M.All Upd.Tame (writeLedger q seq ty crc producer status key a0 a1) := by
  unfold writeLedger
  repeat' first
    | (with_reducible first | exact .pure _ | exact .getS | refine .bind ?_ fun _ => ?_ | refine .ite ?_ ?_ | refine .forIn _ _ _ fun _ _ => ?_)
    | ((with_reducible refine modTally_tame ?_); exact fun _ => .of rfl rfl rfl)
    | with_reducible exact modQueue_tame _ _ fun _ => rfl
    | with_reducible exact raise_tame _ _ _ _
    | with_reducible exact mirrorPost_tame _ _ _ _ _
    | with_reducible intro _
    | split

theorem acceptEntry_tame (q ty : Nat) (payload : List Byte) (producer : Nat) (safety : Bool) (bound : Option (Nat × Nat)) (key : OriginKey) (gate : Option Nat) (form : List Byte → List Byte) : M.All Upd.Tame (acceptEntry q ty payload producer safety bound key gate form) := by
  unfold acceptEntry
  repeat' first
    | (with_reducible first | exact .pure _ | exact .getS | refine .bind ?_ fun _ => ?_ | refine .ite ?_ ?_)
    | ((with_reducible refine .tame (msixFor_reach (msk := 0x2000) (Nat.and_self _) _) ?_); exact rfl)
    | with_reducible exact ctxWrite_tame _ _ _ _
    | with_reducible exact physWrite_tame _ _ _
    | with_reducible exact mirrorPost_tame _ _ _ _ _
    | with_reducible exact forwardEntry_tame _ _ _ _ _ _ _
    | with_reducible exact modQueue_tame _ _ fun _ => rfl
    | with_reducible exact writeLedger_tame _ _ _ _ _ _ _ _ _
    | with_reducible intro _
    | split

theorem appendEntry_tame (q ty : Nat) (payload : List Byte) (producer : Nat) (safety : Bool) (bound : Option (Nat × Nat)) (by_ : Option Task) (key : OriginKey) : M.All Upd.Tame (appendEntry q ty payload producer safety bound by_ key) := by
  unfold appendEntry
  repeat' first
    | fail_if_no_progress beta_reduce
    | (extract_lets +onlyGivenNames jp; clear_value jp)
    | (with_reducible first | exact .pure _ | exact .getS | refine .bind ?_ fun _ => ?_ | refine .ite ?_ ?_)
    | with_reducible exact acceptEntry_tame _ _ _ _ _ _ _ _ _
    | with_reducible apply_assumption -exfalso -symm
    | with_reducible intro _
    | split

theorem flushLost_tame (q : Nat) : M.All Upd.Tame (flushLost q) := by
  unfold flushLost
  repeat' first
    | (with_reducible first | exact .pure _ | exact .getS | refine .bind ?_ fun _ => ?_ | refine .ite ?_ ?_)
    | with_reducible exact modQueue_tame _ _ fun _ => rfl
    | with_reducible exact appendEntry_tame _ _ _ _ _ _ _ _
    | with_reducible intro _
    | split

theorem leaveEntry_tame (q seq : Nat) : M.All Upd.Tame (leaveEntry q seq) := by
  unfold leaveEntry
  repeat' first
    | (with_reducible first | exact .pure _ | exact .getS | refine .bind ?_ fun _ => ?_ | refine .ite ?_ ?_)
    | with_reducible exact modQueue_tame _ _ fun _ => rfl
    | with_reducible exact flushLost_tame _
    | with_reducible exact writeLedger_tame _ _ _ _ _ _ _ _ _
    | with_reducible intro _
    | split

theorem settleCredit_tame (key : Nat) : M.All Upd.Tame (settleCredit key) := by
  unfold settleCredit
  repeat' first
    | (with_reducible first | exact .pure _ | exact .getS | refine .bind ?_ fun _ => ?_ | refine .ite ?_ ?_)
    | with_reducible exact modRing_tame _ _
    | ((with_reducible refine .tame (modFlag_reach (msk := 0x1000) (Nat.and_self _) _ _) ?_); exact rfl)
    | with_reducible intro _
    | split

theorem endRings_tame (t : Nat) (ok : Bool) : M.All Upd.Tame (endRings t ok) := by
  unfold endRings
  repeat' first
    | (with_reducible first | exact .pure _ | exact .getS | refine .bind ?_ fun _ => ?_ | refine .ite ?_ ?_ | refine .forIn _ _ _ fun _ _ => ?_)
    | with_reducible exact settleCredit_tame _
    | with_reducible exact modRing_tame _ _
    | with_reducible intro _
    | split

theorem dropEvent_tame (q why : Nat) : M.All Upd.Tame (dropEvent q why) := by
  unfold dropEvent
  repeat' first
    | (with_reducible first | exact .pure _ | exact .getS | refine .bind ?_ fun _ => ?_ | refine .ite ?_ ?_)
    | with_reducible exact modQueue_tame _ _ fun _ => rfl
    | with_reducible exact raise_tame _ _ _ _
    | with_reducible intro _
    | split

theorem deviceAppend_tame (q ty : Nat) (payload : List Byte) (producer : Nat) (safety : Bool) : M.All Upd.Tame (deviceAppend q ty payload producer safety) := by
  unfold deviceAppend
  repeat' first
    | (with_reducible first | exact .pure _ | exact .getS | refine .bind ?_ fun _ => ?_ | refine .ite ?_ ?_)
    | with_reducible exact dropEvent_tame _ _
    | with_reducible exact modQueue_tame _ _ fun _ => rfl
    | with_reducible exact appendEntry_tame _ _ _ _ _ _ _ _
    | with_reducible intro _
    | split

theorem deliverCompletion_tame (h who : Nat) (record : List Byte) (cpl : Nat) (notify : Option Nat) : M.All Upd.Tame (deliverCompletion h who record cpl notify) := by
  unfold deliverCompletion
  repeat' first
    | (with_reducible first | exact .pure _ | exact .getS | refine .bind ?_ fun _ => ?_ | refine .ite ?_ ?_)
    | with_reducible exact deviceAppend_tame _ _ _ _ _
    | with_reducible exact ctxWrite_tame _ _ _ _
    | with_reducible intro _
    | split

theorem freeBoard_tame : M.All Upd.Tame (freeBoard) := by
  unfold freeBoard
  repeat' first
    | (with_reducible first | exact .pure _ | exact .getS | refine .bind ?_ fun _ => ?_ | refine .ite ?_ ?_)
    | ((with_reducible refine modTally_tame ?_); exact fun _ => .of rfl rfl rfl)

theorem unlist_tame (t : Nat) : M.All Upd.Tame (unlist t) := by
  unfold unlist
  repeat' first
    | (with_reducible first | exact .pure _ | exact .getS | refine .bind ?_ fun _ => ?_ | refine .ite ?_ ?_)
    | ((with_reducible refine modTally_tame ?_); exact fun _ => .of rfl rfl rfl)

theorem tblFind_tblDel_of_none {α : Type} {t : Tbl α} {i j : Nat} (h : tblFind t j = none) : tblFind (tblDel t i) j = none := by
  induction t with
  | nil => rfl
  | cons x t ih =>
    obtain ⟨a, v⟩ := x
    rw [tblFind] at h
    split at h
    · cases h
    next hne =>
      rw [tblDel]
      split
      · exact h
      · rw [tblFind, if_neg hne]
        exact ih h

theorem forget_tame (n : Nat) : M.All Upd.Tame (forget n) := by
  have del : ∀ x : Tally, x.Tame { x with
      tasks := tblDel x.tasks n
      delay := x.delay.filter fun e => e.task != some n
      board := x.board.map fun p => (p.1, { p.2 with waiters := p.2.waiters.filter fun w => w.1 != n })
      queues := x.queues.map fun p => (p.1, { p.2 with waiters := p.2.waiters.filter fun w => w.1 != n })
      instances := (x.instances.map fun p => (p.1, { p.2 with live := p.2.live.filter (· ≠ n) })).filter fun p => !p.2.live.isEmpty } :=
    fun x => ⟨fun h => tblSorted_iff.mpr ((tblSorted_iff.mp h).sublist (tblDel_sublist _ _)), fun m hm => tblFind_tblDel_of_none hm, rfl, rfl, fun p hp => by
      obtain ⟨r, hr, rfl⟩ := List.mem_map.mp hp
      exact ⟨r, hr, rfl, rfl⟩⟩
  refine .bind (unlist_tame n) fun _ => .bind .getS fun s => .bind (.forIn _ _ _ fun p _ => ?_) fun _ =>
    .bind (modTally_tame del) fun _ => .bind (.update True.intro) fun _ => freeBoard_tame
  repeat' first
    | (with_reducible first | exact .pure _ | refine .bind ?_ fun _ => ?_ | refine .ite ?_ ?_ | exact modEngine_tame _ _)

theorem drivePins_tame : M.All Upd.Tame drivePins := .bind .getS fun _ => .update fun _ => rfl

theorem enterSafe_tame (p reason num earlier : Nat) : M.All Upd.Tame (enterSafe p reason num earlier) := by
  unfold enterSafe
  repeat' first
    | (with_reducible first | exact .pure _ | exact .getS | refine .bind ?_ fun _ => ?_ | refine .ite ?_ ?_)
    | ((with_reducible refine .tame (modPipe_reach (msk := 0x100000) (Nat.and_self _) _ _) ?_); exact rfl)
    | with_reducible exact raise_tame _ _ _ _
    | with_reducible exact drivePins_tame
    | ((with_reducible refine .tame (wrFld_reach (msk := 0x8) (Nat.and_self _) _ _ _) ?_); exact rfl)

theorem pipeFault_tame (p num kind producer checker index crc : Nat) :
    M.All Upd.Tame (pipeFault p num kind producer checker index crc) := by
  refine .bind .getS fun s => .bind (raise_tame _ _ _ _) fun _ => .bind (.update True.intro) fun _ => ?_
  refine .bind ((wrFld_reach (msk := 8) rfl _ _ _).tame rfl) fun _ => .ite ?_ (.pure _)
  refine .bind ((bump_reach (msk := 8) rfl _ _ _).tame rfl) fun _ => .bind (.update True.intro) fun _ => ?_
  dsimp only
  split
  · exact .ite (enterSafe_tame _ _ _ _) (enterSafe_tame _ _ _ _)
  · exact .pure _

theorem tblSorted_map {α β : Type} {t : Tbl α} (f : Nat × α → Nat × β) (hf : ∀ e, (f e).1 = e.1) (h : tblSorted t = true) :
    tblSorted (t.map f) = true := by
  rw [tblSorted_iff] at *
  exact List.pairwise_map.mpr (h.imp fun {a b} hab => by rw [hf, hf]; exact hab)

theorem safeEnded_tame (k : Task) (g j n id : Nat) (ok last : Bool) : M.All Upd.Tame (safeEnded k g j n id ok last) := by
  refine .bind .getS fun s => .bind (.forIn _ _ _ fun w _ => .ite (.bind (.update True.intro) fun _ => .pure _) (.pure _)) fun _ => ?_
  refine .bind (.forIn _ _ _ fun c _ => ?_) fun _ => ?_
  · dsimp only
    split
    · exact .ite (.bind (.update True.intro) fun _ => .pure _) (.pure _)
    · exact .pure _
  · have free : Upd.Tame (.engines fun t => t.map fun e => if e.2.reserved = some id then (e.1, { e.2 with reserved := none }) else e) :=
      fun t h => tblSorted_map _ (fun e => by split <;> rfl) h
    have fault : M.All Upd.Tame (if !ok then match s.pipeOfGraph g with
        | some p => pipeFault p n 3 k.engine 0xFF 0 0
        | none => pure () else pure ()) := by
      refine .ite ?_ (.pure _)
      split
      · exact pipeFault_tame _ _ _ _ _ _ _
      · exact .pure _
    exact .ite (.bind (.update free) fun _ => fault) fault

theorem offerCtx_tame (h : Nat) (e : EventRec) : M.All Upd.Tame (offerCtx h e) := by
  unfold offerCtx
  repeat' first
    | (with_reducible first | exact .pure _ | exact .getS | refine .bind ?_ fun _ => ?_ | refine .ite ?_ ?_)
    | with_reducible exact modQueue_tame _ _ fun _ => rfl
    | with_reducible exact appendEntry_tame _ _ _ _ _ _ _ _
    | with_reducible intro _
    | split

theorem raiseFor_tame (t src part code : Nat) (detail : List Byte) : M.All Upd.Tame (raiseFor t src part code detail) := by
  unfold raiseFor
  repeat' first
    | (with_reducible first | exact .pure _ | exact .getS | refine .bind ?_ fun _ => ?_ | refine .ite ?_ ?_)
    | with_reducible exact offerCtx_tame _ _
    | with_reducible exact raise_tame _ _ _ _
    | with_reducible exact modTask_tame _ _
    | with_reducible intro _
    | split

theorem noteStep_tame (t : Nat) (k : Task) (ok staged : Bool) : M.All Upd.Tame (noteStep t k ok staged) :=
  (noteStep_reach (msk := 0x8000) rfl t k ok staged).tame rfl

theorem settleJobs_tame (h : Nat) : M.All Upd.Tame (settleJobs h) := (settleJobs_reach (msk := 0x8008) rfl h).tame rfl

theorem endTask_tame (t status : Nat) : M.All Upd.Tame (endTask t status) := by
  unfold endTask
  repeat' first
    | (with_reducible first | exact .pure _ | exact .getS | refine .bind ?_ fun _ => ?_ | refine .ite ?_ ?_ | refine .forIn _ _ _ fun _ _ => ?_)
    | (with_reducible first | exact leaveEntry_tame _ _ | exact prevTokens_tame _ | exact forget_tame _ | exact settleJobs_tame _)
    | (with_reducible first | exact noteStep_tame _ _ _ _ | exact raise_tame _ _ _ _ | exact modCtx_tame _ _ | exact endRings_tame _ _)
    | (with_reducible first | exact deliverCompletion_tame _ _ _ _ _ | exact safeEnded_tame _ _ _ _ _ _ _)
    | (with_reducible first | exact raiseFor_tame _ _ _ _ _ | exact writeLedger_tame _ _ _ _ _ _ _ _ _)
    | ((with_reducible refine modTally_tame ?_); exact fun _ => .of rfl rfl rfl)
    | with_reducible intro _
    | split

theorem enlist_tame (t : Nat) (atHead : Bool) : M.All Upd.Tame (enlist t atHead) := by
  unfold enlist
  repeat' first
    | (with_reducible first | exact .pure _ | exact .getS | refine .bind ?_ fun _ => ?_ | refine .ite ?_ ?_)
    | ((with_reducible refine modTally_tame ?_); exact fun _ => .of rfl rfl rfl)
    | with_reducible exact modTask_tame _ _
    | with_reducible intro _
    | split

theorem tryPreempt_tame (t : Nat) : M.All Upd.Tame (tryPreempt t) := by
  unfold tryPreempt
  repeat' first
    | (with_reducible first | exact .pure _ | exact .getS | refine .bind ?_ fun _ => ?_ | refine .ite ?_ ?_)
    | with_reducible exact enlist_tame _ _
    | with_reducible exact modEngine_tame _ _
    | with_reducible exact unlist_tame _
    | with_reducible exact modTask_tame _ _
    | with_reducible intro _
    | split

theorem endLost_tame (t : Nat) (k : Task) (j r reason : Nat) : M.All Upd.Tame (endLost t k j r reason) := by
  unfold endLost
  repeat' first
    | (with_reducible first | exact .pure _ | exact .getS | refine .bind ?_ fun _ => ?_ | refine .ite ?_ ?_)
    | with_reducible exact endTask_tame _ _
    | with_reducible exact raiseFor_tame _ _ _ _ _

theorem makeReady_tame (t : Nat) : M.All Upd.Tame (makeReady t) := by
  unfold makeReady
  repeat' first
    | (with_reducible first | exact .pure _ | exact .getS | refine .bind ?_ fun _ => ?_ | refine .ite ?_ ?_)
    | with_reducible exact endTask_tame _ _
    | with_reducible exact enlist_tame _ _
    | with_reducible exact modTask_tame _ _
    | with_reducible exact tryPreempt_tame _
    | with_reducible exact endLost_tame _ _ _ _ _
    | with_reducible exact raiseFor_tame _ _ _ _ _
    | with_reducible intro _
    | split

theorem satisfy_tame (t sl : Nat) (failed : Bool) : M.All Upd.Tame (satisfy t sl failed) := by
  unfold satisfy
  repeat' first
    | (with_reducible first | exact .pure _ | exact .getS | refine .bind ?_ fun _ => ?_ | refine .ite ?_ ?_)
    | with_reducible exact makeReady_tame _
    | with_reducible exact modTask_tame _ _
    | with_reducible intro _
    | split

theorem onToken_tame (key : Nat) (failed : Bool) : M.All Upd.Tame (onToken key failed) := by
  unfold onToken
  repeat' first
    | fail_if_no_progress beta_reduce
    | (extract_lets +onlyGivenNames jp
       first
       | (refine (fun hj : M.All Upd.Tame jp => ?_) ?_
          on_goal 2 => (dsimp -zeta only [jp]; clear jp)
          on_goal 1 => clear_value jp)
       | clear_value jp)
    | (with_reducible first | exact .pure _ | exact .getS | refine .bind ?_ fun _ => ?_ | refine .ite ?_ ?_)
    | ((with_reducible refine modTally_tame ?_); exact fun _ => .of rfl rfl rfl)
    | with_reducible exact raise_tame _ _ _ _
    | with_reducible exact satisfy_tame _ _ _
    | with_reducible apply_assumption -exfalso -symm
    | with_reducible intro _
    | split

theorem bindOne_tame (q : Nat) : M.All Upd.Tame (bindOne q) := by
  unfold bindOne
  repeat' first
    | (with_reducible first | exact .pure _ | exact .getS | refine .bind ?_ fun _ => ?_ | refine .ite ?_ ?_)
    | with_reducible exact modQueue_tame _ _ fun _ => rfl
    | with_reducible exact modTask_tame _ _
    | with_reducible intro _
    | split

theorem setStaging_tame (n v : Nat) : M.All Upd.Tame (setStaging n v) := by
  unfold setStaging
  repeat' first
    | (with_reducible first | exact .pure _ | exact .getS | refine .bind ?_ fun _ => ?_ | refine .ite ?_ ?_)
    | ((with_reducible refine .update ?_); exact True.intro)
    | ((with_reducible refine .tame (freshBytes_reach (msk := 0x20) (Nat.and_self _) _) ?_); exact rfl)
    | with_reducible exact modEngine_tame _ _
    | ((with_reducible refine .tame (wrFld_reach (msk := 0x8) (Nat.and_self _) _ _ _) ?_); exact rfl)

theorem applyStaging_tame : M.All Upd.Tame (applyStaging) := by
  unfold applyStaging
  repeat' first
    | (with_reducible first | exact .pure _ | exact .getS | refine .bind ?_ fun _ => ?_ | refine .ite ?_ ?_ | refine .forIn _ _ _ fun _ _ => ?_)
    | with_reducible exact setStaging_tame _ _

theorem doWork_tame : ∀ w : Work, M.All Upd.Tame (doWork w)
  | .token _ _ => onToken_tame _ _
  | .slot _ _ _ => satisfy_tame _ _ _
  | .bind _ => bindOne_tame _

theorem settle_tame : ∀ (fuel : Nat) (ws : List Work), M.All Upd.Tame (settle fuel ws)
  | 0, _ => .pure _
  | _ + 1, [] => .pure _
  | n + 1, w :: _ => .bind (doWork_tame w) fun _ => settle_tame n _

theorem settleAll_tame (ws : List Work) : M.All Upd.Tame (settleAll ws) :=
  .bind .getS fun _ => .bind (settle_tame _ ws) fun _ => applyStaging_tame

theorem finish_tame (n status : Nat) : M.All Upd.Tame (finish n status) := .bind (endTask_tame n status) fun _ => settleAll_tame _

/-! ## What tame operations keep -/

/-- What tame operations keep of a state. -/
structure State.Tame (s t : State) : Prop where
  tally : s.tally.Tame t.tally
  engines : tblSorted s.engines = true → tblSorted t.engines = true
  rcv : t.rcv = { s.rcv with fences := t.rcv.fences }
  oosN : t.pins.oosN = s.pins.oosN

theorem State.Tame.refl (s : State) : s.Tame s := ⟨.of rfl rfl rfl, id, rfl, rfl⟩

theorem State.Tame.trans {s t u : State} (h : s.Tame t) (k : t.Tame u) : s.Tame u :=
  ⟨h.tally.trans k.tally, k.engines ∘ h.engines, by rw [k.rcv, h.rcv], k.oosN.trans h.oosN⟩

theorem Upd.Tame.apply {u : Upd} (hu : u.Tame) (s : State) : s.Tame (u.apply s) := by
  cases u with
  | tally f => exact ⟨hu s.tally, id, rfl, rfl⟩
  | engines f => exact ⟨.of rfl rfl rfl, hu s.engines, rfl, rfl⟩
  | rcv f => exact ⟨.of rfl rfl rfl, id, hu s.rcv, rfl⟩
  | pins f => exact ⟨.of rfl rfl rfl, id, rfl, hu s.pins⟩
  | _ => exact ⟨.of rfl rfl rfl, id, rfl, rfl⟩

theorem Steps.tame {s t : State} (h : Steps Upd.Tame s t) : s.Tame t := by
  induction h with
  | refl => exact .refl _
  | snoc _ hu ih => exact ih.trans (hu.apply _)

end Sys2Proof.Machine
end

section
/-! PROOFS. How tasks end: an ended task is nowhere in Tally's tables nor in an engine, whatever follows from its end. -/

namespace Sys2Proof.Machine

open Sys2Proof

/-! ## Taking a task out of the engines -/

/-- An engine that has a task neither in a stall nor in a save area. -/
structure Engine.Free (n : Nat) (g : Engine) : Prop where
  running : g.running ≠ some n
  next : g.next ≠ some n
  saved : n ∉ g.saved

/-- An engine that has a task only where another one has it. -/
structure Engine.Within (n : Nat) (x g : Engine) : Prop where
  running : x.running = some n → g.running = some n
  next : x.next = some n → g.next = some n
  saved : n ∈ x.saved → n ∈ g.saved

theorem Engine.Within.refl (n : Nat) (g : Engine) : g.Within n g := ⟨id, id, id⟩

theorem Engine.Within.trans {n : Nat} {x g k : Engine} (h : x.Within n g) (j : g.Within n k) : x.Within n k :=
  ⟨j.running ∘ h.running, j.next ∘ h.next, j.saved ∘ h.saved⟩

theorem Engine.Free.within {n : Nat} {x g : Engine} (h : g.Free n) (hx : x.Within n g) : x.Free n :=
  ⟨h.running ∘ hx.running, h.next ∘ hx.next, h.saved ∘ hx.saved⟩

theorem Engine.free_engine0 (n : Nat) : engine0.Free n := ⟨nofun, nofun, nofun⟩

/-- One engine has another content, the table of engines is as well ordered as before, and nothing else has changed. -/
structure State.EngineTo (s : State) (e : Nat) (x : Engine) (t : State) : Prop where
  frame : s.SameBut [.engines] t
  sorted : tblSorted s.engines = true → tblSorted t.engines = true
  one : OneEngine s e x t

section
variable {s t : State} {β : Type} {Q : β → State → Prop} {n e : Nat}

theorem changeWhere_leads {c : Prop} [Decidable c] {f : Engine → Engine} {rest : Unit → M β}
    (h : ∀ t, s.EngineTo e (if c then f (s.engine e) else s.engine e) t → (rest ()).Leads t Q) :
    (if c then modEngine e f >>= rest else rest ()).Leads s Q := by
  split
  · next hc =>
    refine (modEngine_gives e f s).leads_bind (h _ ?_)
    rw [if_pos hc]
    exact ⟨s.withEngine_frame _ _, tblSet_sorted _ _, s.oneEngine_withEngine _ _⟩
  · next hc =>
    refine h s ?_
    rw [if_neg hc]
    exact ⟨.refl _ s, id, rfl, fun _ _ => rfl⟩

/-- What taking a task out of some engines leaves. -/
structure State.Freed (s : State) (n : Nat) (l : List (Nat × Engine)) (t : State) : Prop where
  frame : s.SameBut [.engines] t
  sorted : tblSorted s.engines = true → tblSorted t.engines = true
  within : ∀ y, (t.engine y).Within n (s.engine y)
  free : ∀ p ∈ l, (s.engine p.1).Within n p.2 → (t.engine p.1).Free n

theorem State.Freed.refl (s : State) (n : Nat) : s.Freed n [] s := ⟨.refl _ s, id, fun _ => .refl _ _, nofun⟩

theorem State.Freed.cons {u : State} {p : Nat × Engine} {l : List (Nat × Engine)} (h : s.Freed n [p] t) (k : t.Freed n l u) :
    s.Freed n (p :: l) u where
  frame := h.frame.trans k.frame
  sorted := k.sorted ∘ h.sorted
  within y := (k.within y).trans (h.within y)
  free q hq hw := by
    rcases List.mem_cons.mp hq with rfl | hq
    · exact (h.free q (List.mem_singleton_self q) hw).within (k.within q.1)
    · exact k.free q hq ((h.within q.1).trans hw)

/-- Three changes of one engine that take a task out of its stalls and its save area. -/
theorem State.Freed.of_engineTo {x₁ x₂ x₃ g : Engine} {t₁ t₂ t₃ : State} (h₁ : s.EngineTo e x₁ t₁) (h₂ : t₁.EngineTo e x₂ t₂)
    (h₃ : t₂.EngineTo e x₃ t₃) (hw : x₃.Within n (s.engine e)) (hf : (s.engine e).Within n g → x₃.Free n) : s.Freed n [(e, g)] t₃ where
  frame := (h₁.frame.trans h₂.frame).trans h₃.frame
  sorted := h₃.sorted ∘ h₂.sorted ∘ h₁.sorted
  within y := by
    by_cases hy : y = e
    · rw [hy, h₃.one.1]
      exact hw
    · rw [h₃.one.2 y hy, h₂.one.2 y hy, h₁.one.2 y hy]
      exact .refl _ _
  free p hp := by
    cases List.mem_singleton.mp hp
    rw [h₃.one.1]
    exact hf

/-- One turn of the loop that takes a task out of every engine. -/
theorem freeEngine_leads (n e now : Nat) (g : Engine) (s : State) :
    (let last : Unit → M (ForInStep PUnit) := fun _ =>
      if g.saved.contains n then modEngine e (fun g => { g with saved := g.saved.filter (· ≠ n) }) >>= fun _ => pure (.yield ⟨⟩)
      else pure (.yield ⟨⟩)
    let mid : Unit → M (ForInStep PUnit) := fun _ =>
      if g.next = some n then modEngine e (fun g => { g with next := none, preempting := false }) >>= last else last ()
    if g.running = some n then modEngine e (fun g => { g with running := none, since := now, preempting := false }) >>= mid
      else mid ()).Leads s fun r t => r = .yield ⟨⟩ ∧ s.Freed n [(e, g)] t := by
  let done : Unit → M (ForInStep PUnit) := fun _ => pure (.yield ⟨⟩)
  refine changeWhere_leads fun t₁ h₁ => changeWhere_leads fun t₂ h₂ => changeWhere_leads (rest := done) fun t₃ h₃ =>
    .pure ⟨rfl, .of_engineTo h₁ h₂ h₃ ?_ fun hw => ?_⟩
  · rw [h₂.one.1, h₁.one.1]
    constructor <;> split_ifs <;> simp_all
  · obtain ⟨hr, hx, hs⟩ := hw
    rw [h₂.one.1, h₁.one.1]
    constructor <;> split_ifs <;> simp_all

end

/-! ## A task is gone -/

/-- A task is not in the store, on no ready list and in no engine; the tables of tasks and engines are in order. -/
structure State.Gone (s : State) (n : Nat) : Prop where
  tasks : tblSorted s.tally.tasks = true
  engines : tblSorted s.engines = true
  absent : s.task n = none
  unlisted : ∀ l ∈ s.tally.ready, n ∉ l.2
  free : ∀ e, (s.engine e).Free n

/-- An update after which a task that is gone is so still. -/
def Upd.LeavesGone : Upd → Prop
  | .tally f => ∀ x : Tally, x.Tame (f x) ∧ (f x).ready = x.ready
  | .engines _ => False
  | _ => True

section
variable {s t : State} {α : Type} {n : Nat} {k : Task}

theorem Upd.LeavesGone.apply {u : Upd} (hu : u.LeavesGone) (hs : s.Gone n) : (u.apply s).Gone n := by
  obtain ⟨ht, he, ha, hl, hf⟩ := hs
  cases u with
  | tally f =>
    obtain ⟨htame, hready⟩ := hu s.tally
    exact ⟨htame.sorted ht, he, htame.absent n ha, by change ∀ l ∈ (f s.tally).ready, _; rw [hready]; exact hl, hf⟩
  | engines f => exact hu.elim
  | _ => exact ⟨ht, he, ha, hl, hf⟩

theorem Steps.gone (h : Steps Upd.LeavesGone s t) (hs : s.Gone n) : t.Gone n := h.keeps (I := (·.Gone n)) (fun _ _ hu hs => hu.apply hs) hs

theorem modTask_leavesGone (m : Nat) (f : Task → Task) : M.All Upd.LeavesGone (modTask m f) := by
  refine .update fun x => ?_
  dsimp only
  cases hk : tblFind x.tasks m with
  | none => exact ⟨.of rfl rfl rfl, rfl⟩
  | some k => exact ⟨.set hk rfl rfl rfl, rfl⟩

theorem prevTokens_leavesGone (g : Nat) : M.All Upd.LeavesGone (prevTokens g) := by
  unfold prevTokens
  repeat' first
    | (with_reducible first | exact .pure _ | exact .getS | refine .bind ?_ fun _ => ?_ | refine .ite ?_ ?_ | refine .forIn _ _ _ fun _ _ => ?_)
    | with_reducible exact modTask_leavesGone _ _
    | with_reducible intro _
    | split

theorem settleJobs_leavesGone (h : Nat) : M.All Upd.LeavesGone (settleJobs h) := by
  refine (settleJobs_reach (msk := 0x8008) rfl h).mono fun u hu => ?_
  cases u with
  | tally f => exact absurd hu (by simp [Upd.In, Upd.bit, Nat.testBit])
  | engines f => exact absurd hu (by simp [Upd.In, Upd.bit, Nat.testBit])
  | _ => exact True.intro

theorem freeBoard_leavesGone : M.All Upd.LeavesGone freeBoard :=
  .bind .getS fun _ => .update fun _ => ⟨.of rfl rfl rfl, rfl⟩

theorem forget_leads (ht : tblSorted s.tally.tasks = true) (he : tblSorted s.engines = true) :
    (forget n).Leads s fun _ t => t.Gone n := by
  unfold forget
  refine (update_gives _ _).leads_bind (.getS (.bind ?_))
  refine (M.Leads.forIn (P := fun p s t => s.Freed n [p] t) (R := fun l s t => s.Freed n l t) (State.Freed.refl · n)
    (fun _ _ _ _ _ h k => h.cons k) _ (fun p _ s => freeEngine_leads n p.1 _ p.2 s) _).mono fun _ u hu => ?_
  have htally := hu.frame.2 .tally (by decide)
  refine (update_gives _ _).leads_bind ((update_gives _ _).leads_bind (freeBoard_leavesGone.leads fun _ _ hv => hv.gone ?_))
  refine ⟨?_, hu.sorted he, ?_, ?_, fun e => ?_⟩
  · change tblSorted (tblDel u.tally.tasks n) = true
    rw [htally]
    exact tblSorted_iff.mpr ((tblSorted_iff.mp ht).sublist (tblDel_sublist _ _))
  · change tblFind (tblDel u.tally.tasks n) n = none
    rw [htally]
    exact (tblFind_tblDel ht n n).trans (if_pos rfl)
  · change ∀ l ∈ u.tally.ready, n ∉ l.2
    rw [htally]
    intro l hl
    obtain ⟨p, -, rfl⟩ := List.mem_map.mp hl
    simp
  · change (u.engine e).Free n
    cases hg : tblFind s.engines e with
    | none =>
      have hnone : s.engine e = engine0 := by rw [State.engine, tblGet, hg]; rfl
      exact (hnone ▸ Engine.free_engine0 n : (s.engine e).Free n).within (hu.within e)
    | some g =>
      refine hu.free (e, g) (mem_of_tblFind hg) ?_
      have hsome : s.engine e = g := by rw [State.engine, tblGet, hg]; rfl
      exact hsome ▸ .refl n _

/-- An operation that, from tables of tasks and engines in order, leaves a task gone. -/
def M.Ends (n : Nat) (m : M α) : Prop :=
  ∀ s : State, tblSorted s.tally.tasks = true → tblSorted s.engines = true → m.Leads s fun _ t => t.Gone n

section
variable {β : Type}

theorem M.Ends.bind {m : M α} {f : α → M β} (hm : M.All Upd.Tame m) (hf : ∀ a, M.Ends n (f a)) : M.Ends n (m >>= f) := fun _ ht he =>
  .bind (hm.leads fun a _ h => hf a _ (h.tame.tally.sorted ht) (h.tame.engines he))

theorem M.Ends.ite {c : Prop} [Decidable c] {m m' : M α} (hm : M.Ends n m) (hm' : M.Ends n m') : M.Ends n (if c then m else m') := by
  split
  · exact hm
  · exact hm'

theorem M.Ends.forget {f : Unit → M β} (hf : M.All Upd.LeavesGone (f ())) : M.Ends n (Sys2Proof.Machine.forget n >>= f) := fun _ ht he =>
  .bind ((forget_leads ht he).mono fun _ _ h => hf.leads fun _ _ k => k.gone h)

end

/-- Every task's end: what comes before the task is forgotten keeps the tables in order, what comes after leaves it gone. -/
theorem endTask_ends (status : Nat) (hk : s.task n = some k) (ht : tblSorted s.tally.tasks = true) (he : tblSorted s.engines = true) :
    (endTask n status).Leads s fun _ t => t.Gone n := by
  unfold endTask
  refine .getS ?_
  rw [hk]
  refine (?_ : M.Ends n _) s ht he
  refine .bind (.forIn _ _ _ fun _ _ => .bind (raiseFor_tame _ _ _ _ _) fun _ => .pure _) fun _ => .bind .getS fun r =>
    .bind (endRings_tame _ _) fun _ => .bind (modCtx_tame _ _) fun _ => ?_
  extract_lets staged last finish
  have hfinish : ∀ r ws, M.Ends n (finish r ws) := fun _ _ => by
    dsimp -zeta only [finish]
    refine .bind (.forIn _ _ _ fun _ _ => .bind (leaveEntry_tame _ _) fun _ => .pure _) fun _ => ?_
    extract_lets ws rest forgetIt
    have hforget : M.Ends n (forgetIt ()) := .forget (by
      dsimp only [rest]
      repeat' first
        | (with_reducible first | exact .pure _ | refine .bind ?_ fun _ => ?_ | refine .ite ?_ ?_)
        | (with_reducible first | exact settleJobs_leavesGone _ | exact prevTokens_leavesGone _)
        | split)
    exact .ite (.bind (noteStep_tame _ _ _ _) fun _ => hforget) hforget
  clear_value finish
  split
  · refine .ite (.ite (.bind (raise_tame _ _ _ _) fun _ => .bind (leaveEntry_tame _ _) fun _ => hfinish _ _)
      (.bind (modTally_tame fun _ => .of rfl rfl rfl) fun _ => hfinish _ _))
      (.ite (.bind (writeLedger_tame _ _ _ _ _ _ _ _ _) fun _ => .ite ?_ ?_) (.ite ?_ ?_))
    all_goals exact .bind (deliverCompletion_tame _ _ _ _ _) fun _ => .bind (leaveEntry_tame _ _) fun _ => hfinish _ _
  · refine .ite ?_ ?_
    all_goals
      cases ((r.task n).getD k).inst
      case' some => refine .bind (safeEnded_tame _ _ _ _ _ _ _) fun _ => ?_
      all_goals exact .bind (deliverCompletion_tame _ _ _ _ _) fun _ => .bind (modTally_tame fun _ => .of rfl rfl rfl) fun _ => hfinish _ _

/-! ## What ends a task -/

theorem State.Gone.engine (h : s.Gone n) : ∀ p ∈ s.engines, p.2.running ≠ some n ∧ p.2.next ≠ some n ∧ n ∉ p.2.saved := by
  intro p hp
  have hfind : tblFind s.engines p.1 = some p.2 := (tblFind_eq_some_iff h.engines p.1 p.2).mpr hp
  have hg : s.engine p.1 = p.2 := by rw [State.engine, tblGet, hfind]; rfl
  obtain ⟨hr, hx, hs⟩ := h.free p.1
  rw [hg] at hr hx hs
  exact ⟨hr, hx, hs⟩

/-- A tile's count of busy cycles, with a task's cycles added; other engines have none. -/
def State.busyFor (s : State) (e cycles : Nat) : State :=
  if e < 0x20 then s.putFld (Reg.ttBusy e) Fld.ttBusyCycles (satAdd Fld.ttBusyCycles.width (s.fld (Reg.ttBusy e) Fld.ttBusyCycles) cycles)
  else s

section
variable {e cycles i reason : Nat} {x : DelayEntry} {cycle : List Nat}

theorem State.busyFor_frame (s : State) (e cycles : Nat) : s.SameBut [.regs] (s.busyFor e cycles) := by
  unfold State.busyFor
  split
  · exact s.sameBut_putFld _ _ _
  · exact .refl _ s

theorem State.reg_busyFor (hs : s.Canonical) {y : Nat} (hy : y ≠ Reg.ttBusy e ∨ 0x20 ≤ e) : (s.busyFor e cycles).reg y = s.reg y := by
  unfold State.busyFor
  split
  · next he => rw [State.reg_putFld hs, if_neg (hy.resolve_right (by omega))]
  · rfl

theorem State.fld_busyFor (hs : s.Canonical) (he : e < 0x20) : (s.busyFor e cycles).fld (Reg.ttBusy e) Fld.ttBusyCycles =
    satAdd Fld.ttBusyCycles.width (s.fld (Reg.ttBusy e) Fld.ttBusyCycles) cycles := by
  rw [State.busyFor, if_pos he]
  exact State.fld_putFld_same hs (by decide) (Nat.lt_of_le_of_lt (Nat.min_le_right ..) (by decide))

theorem run_taskEnd (hr : (s.engine e).running = some n) (hk : s.task n = some k) :
    M.run (taskEnd e cycles) s = M.run (do
      finish n 0
      let t ← getS
      modEngine e fun g => { g with beat := t.clock.now }
      if (t.engine e).bypassed then presenceChanged) ((s.withTask n { k with cycles := k.cycles + cycles }).busyFor e cycles) := by
  unfold taskEnd
  rw [run_getS_bind, hr]
  refine ((modTask_gives hk _).run_bind _).trans ?_
  unfold State.busyFor
  split
  · exact (bump_gives _ _ _ _).run_bind _
  · rfl

theorem run_delayFire (hx : s.tally.delay[i]? = some x) : M.run (delayFire i) s =
    M.run (match x.task with
      | some n => finish n 0
      | none => settleAll [.token ((2 ^ 20 + x.inst) * 4096 + 0xBF0 + x.symbol) false])
      ((Upd.tally fun y => { y with delay := y.delay.eraseIdx i }).apply s) := by
  unfold delayFire
  rw [run_getS_bind, hx]
  rfl

theorem exec_delayFire (hx : s.tally.delay[i]? = some x) (hdue : tickEdge x.list x.due ≤ s.clock.now) :
    exec (.delayFire i) s = .next (M.run (delayFire i) s) := by
  change execDelayFire i s = _
  exact whenEnabled_next (by rw [hx]; exact decide_eq_true hdue)

theorem le_tickEdge (list due : Nat) : due ≤ tickEdge list due := by
  have hpos : 0 < 2 ^ (8 + 2 * list) := by positivity
  unfold tickEdge
  generalize 2 ^ (8 + 2 * list) = unit at hpos
  have := Nat.div_add_mod (due + unit - 1) unit
  have := Nat.mod_lt (due + unit - 1) hpos
  dsimp only
  rw [Nat.mul_comm]
  omega

theorem State.budgetTask_eq (he : e ≠ 0x80) (hr : (s.engine e).running = some n) (hk : s.task n = some k) :
    s.budgetTask e = if k.runAt + (s.budget k - k.used) + settleMargin ≤ s.clock.now then some n else none := by
  rw [State.budgetTask, if_neg he, hr, Option.filter_some, hk]
  simp only [decide_eq_true_eq]

theorem run_budgetExpiry (he : e ≠ 0x80) (hb : s.budgetTask e = some n) (hk : s.task n = some k) :
    M.run (budgetExpiry e) s = M.run (do
      settleAll (← raiseFor n 0x80 6 0x5101 (taskDetail [(4, 0)] k 0xFF))
      faultTask n false false 3
      trigger (.ctxEngine (baseEngine e) k.handle) 0x5101 s.clock.now 0 false) s := by
  unfold budgetExpiry
  rw [run_getS_bind, hb]
  dsimp only
  rw [hk]
  simp only [ne_eq, he, not_false_eq_true, if_true]

theorem run_progressWatchdog (hk : s.task (cycle.foldl max 0) = some k) : M.run (progressWatchdog cycle) s = M.run (do
      settleAll (← raiseFor (cycle.foldl max 0) 0x80 6 0x5501 (taskDetail [(1, min cycle.length 255)] k 0xFF))
      faultTask (cycle.foldl max 0) false false 1) s := by
  unfold progressWatchdog
  rw [run_getS_bind]
  dsimp only
  rw [hk]

end
end

/-- Settles O29: an ended task is gone whatever its end brings about; each command that ends one is its own effect and that end. -/
theorem tasksEndWithTheirStatus : Obligations.TasksEndWithTheirStatus := by
  refine ⟨fun s i x hx => ⟨fun htask hdue => ?_, fun hearly => ?_⟩, fun s cycle hstuck => ?_, fun s n k hs hkeys hk =>
    ⟨fun status => ?_, fun e cycles hr hdone hpend hring => ?_, fun e cycles hr hno => ?_, fun hlife hpend hop => ?_,
      fun i x hx hdue htask => ?_, fun e he hr hover => ?_, fun e he hr hwithin => ?_, fun reason hlife => ?_, fun reason hlife => ?_,
      fun cycle hstuck hyoung => ?_⟩⟩
  · refine completesThen_of (u := (Upd.tally fun y => { y with delay := y.delay.eraseIdx i }).apply s) ⟨Upd.sameBut_of _ s, rfl⟩ ?_
    rw [exec_delayFire hx hdue, run_delayFire hx, htask]
  · have := le_tickEdge x.list x.due
    change execDelayFire i s = _
    exact whenEnabled_refused (by rw [hx]; exact decide_eq_false (by omega))
  · change execProgressWatchdog cycle s = _
    exact whenEnabled_refused hstuck
  · obtain ⟨ws, u, hgives, hgone⟩ := endTask_ends status hk hkeys.tasks hkeys.engines
    exact ⟨ws, u, hgives, hgone.absent, hgone.unlisted, hgone.engine⟩
  · have hcan : (s.withTask n { k with cycles := k.cycles + cycles }).Canonical := Upd.apply_canonical _ _ hs
    have hframe := (s.withTask n { k with cycles := k.cycles + cycles }).busyFor_frame e cycles
    refine completesThen_of (u := (s.withTask n { k with cycles := k.cycles + cycles }).busyFor e cycles)
      ⟨((s.withTask_frame n _).mono (by decide)).trans (hframe.mono (by decide)), OneTask.congr (s.oneTask_withTask n _) fun m => ?_,
        fun y hy => (State.reg_busyFor hcan hy).trans (reg_congr rfl _), fun he => (State.fld_busyFor hcan he).trans ?_⟩ ?_
    · exact congrArg (fun x => tblFind x.tasks m) (hframe.2 .tally (by decide))
    · rfl
    · rw [← run_taskEnd hr hk]
      change execTaskEnd e cycles s = _
      exact whenEnabled_next (by rw [hr, Option.bind_some, hk]; simp [hdone, hpend, hring])
  · change execTaskEnd e cycles s = _
    refine whenEnabled_refused ?_
    rw [hr, Option.bind_some, hk]
    simpa [or_assoc, imp_iff_not_or] using hno
  · refine completesThen_of rfl ?_
    change execNop n s = _
    exact whenEnabled_next ((tallyTask_iff hk 0).mpr ⟨hlife, hpend, hop⟩)
  · refine completesThen_of (u := (Upd.tally fun y => { y with delay := y.delay.eraseIdx i }).apply s) ⟨Upd.sameBut_of _ s, rfl⟩ ?_
    rw [exec_delayFire hx hdue, run_delayFire hx, htask]
  · have hb : s.budgetTask e = some n := (State.budgetTask_eq he hr hk).trans (if_pos hover)
    refine completesThen_of rfl ?_
    rw [← run_budgetExpiry he hb hk]
    change execBudgetExpiry e s = _
    exact whenEnabled_next (by rw [hb]; rfl)
  · change execBudgetExpiry e s = _
    exact whenEnabled_refused (by rw [State.budgetTask_eq he hr hk, if_neg (Nat.not_le.mpr hwithin)]; rfl)
  · refine completesThen_of rfl ?_
    change execMidstreamFault n reason s = _
    exact whenEnabled_next (by rw [hk]; simp [hlife])
  · change execMidstreamFault n reason s = _
    exact whenEnabled_refused (by rw [hk]; simpa using hlife)
  · refine completesThen_of rfl ?_
    subst hyoung
    rw [← run_progressWatchdog hk]
    change execProgressWatchdog cycle s = _
    exact whenEnabled_next hstuck

end Sys2Proof.Machine
end

section
/-! PROOFS. How contexts end: teardown, its fabric drain and completion, and late responses (R466, R468, R471). -/

namespace Sys2Proof.Machine

open Sys2Proof

section
variable {s t : State} {h : Nat} {c : Ctx} {α β : Type}

/-- What follows an operation that always runs may start from whatever that operation's updates keep. -/
theorem M.All.leads_bind {m : M α} {R : Upd → Prop} {f : α → M β} {Q : β → State → Prop} (hm : M.All R m)
    (h : ∀ a t, Steps R s t → (f a).Leads t Q) : (m >>= f).Leads s Q := .bind (hm.leads h)

theorem physWriteAll_tame (who a : Nat) (bs : List Byte) : M.All Upd.Tame (physWriteAll who a bs) := by
  unfold physWriteAll
  repeat' first
    | (with_reducible first | exact .pure _ | refine .bind ?_ fun _ => ?_ | refine .ite ?_ ?_ | refine .forIn _ _ _ fun _ _ => ?_)
    | with_reducible exact physWrite_tame _ _ _

/-! ## What a teardown leaves -/

/-- No queue but queue 0, no grant, no buffer, no graph and no Hall record belongs to a handle. -/
structure State.Destroyed (s : State) (h : Nat) : Prop where
  queues : ∀ p ∈ s.tally.queues, p.1 ≠ 0 → p.2.owner ≠ h
  grants : ∀ p ∈ s.tally.queues, h ∉ p.2.grants
  buffers : ∀ b ∈ s.tally.buffers, b.handle ≠ h
  graphs : ∀ p ∈ s.tally.graphs, p.2.owner ≠ h
  bufs : ∀ p ∈ s.hall.bufs, p.2.owner ≠ h

/-- The records of interrupted entries change no queue's owner, so every queue of the context was found. -/
theorem destroyObjects_leads (h : Nat) (s : State) : (destroyObjects h).Leads s fun _ t => t.Destroyed h := by
  unfold destroyObjects
  refine .getS ?_
  have hledger : M.All Upd.Tame (forIn ((s.tally.queues.filter fun p => p.2.owner == h && p.1 != 0).map (·.1)) PUnit.unit fun q _ => do
      let s ← getS
      forIn (s.interrupted q) PUnit.unit fun seq _ => do
        let _ ← writeLedger q seq 3 0 0 4 noKey 0 0
        pure (ForInStep.yield PUnit.unit)
      pure (ForInStep.yield PUnit.unit)) :=
    .forIn _ _ _ fun _ _ => .bind .getS fun _ => .bind (.forIn _ _ _ fun _ _ => .bind (writeLedger_tame _ _ _ _ _ _ _ _ _) fun _ => .pure _)
      fun _ => .pure _
  refine hledger.leads_bind fun _ u hu => (update_gives _ _).leads_bind ((update_gives _ _).leads ⟨?_, ?_, ?_, ?_, ?_⟩)
  · intro p hp h0 howner
    obtain ⟨r, hr, rfl⟩ := List.mem_map.mp hp
    obtain ⟨hr, hnot⟩ := List.mem_filter.mp hr
    obtain ⟨r', hr', hkey, howner'⟩ := hu.tame.tally.owners r hr
    have hmine : r'.1 ∈ (s.tally.queues.filter fun p => p.2.owner == h && p.1 != 0).map (·.1) := by
      refine List.mem_map_of_mem (List.mem_filter.mpr ⟨hr', ?_⟩)
      rw [hkey, howner']
      simpa using ⟨howner, h0⟩
    rw [hkey] at hmine
    exact Bool.eq_false_iff.mp (Bool.not_eq_true' _ ▸ hnot) (List.contains_iff_mem.mpr hmine)
  · intro p hp
    obtain ⟨r, -, rfl⟩ := List.mem_map.mp hp
    simp
  · intro b hb
    simpa using (List.mem_filter.mp hb).2
  · intro p hp
    simpa using (List.mem_filter.mp hp).2
  · intro p hp
    simpa using (List.mem_filter.mp hp).2

theorem teardownContext_leads (hc : s.ctx h = some c) (reportAt : Nat) : (teardownContext h reportAt).Leads s fun _ t =>
    t.out = some ⟨true, [0#8]⟩ ∧ t.Destroyed h ∧ ∀ x ∈ t.sys.tlb, x.2.handle ≠ h := by
  have anyUpd {α : Type} {m : M α} (hm : M.All (Upd.In 0x30FFB9) m) : M.All (fun _ => True) m := hm.mono fun _ _ => trivial
  unfold teardownContext
  refine .getS ?_
  rw [hc]
  refine (anyUpd (modCtx_reach rfl _ _)).leads_bind fun _ u _ => ?_
  refine (M.All.forIn (P := fun _ => True) _ _ _ fun e _ => ?_).leads_bind fun _ u _ => ?_
  · exact .ite (.bind (anyUpd (trigger_reach rfl _ _ _ _ _)) fun _ => .pure _) (.pure _)
  refine (M.All.forIn (P := fun _ => True) _ _ _ fun n _ => ?_).leads_bind fun _ u _ => ?_
  · exact .bind (anyUpd (unstall_reach rfl _)) fun _ => .bind (anyUpd (finish_reach rfl _ _)) fun _ => .pure _
  refine (M.All.forIn (P := fun _ => True) _ _ _ fun n _ => ?_).leads_bind fun _ u _ => ?_
  · exact .ite (.bind (anyUpd (dmaAbort_reach rfl _)) fun _ => .pure _) (.pure _)
  refine (update_gives _ _).leads_bind ?_
  refine (M.All.forIn (P := fun _ => True) _ _ _ fun j _ => ?_).leads_bind fun _ u _ => ?_
  · exact .ite (.bind (anyUpd (wrReg_reach rfl _ _)) fun _ => .pure _) (.pure _)
  refine .getS ((anyUpd (modCtx_reach rfl _ _)).leads_bind fun _ u _ => .bind ((destroyObjects_leads h u).mono fun _ v hv => ?_))
  refine (update_gives _ _).leads_bind ((update_gives _ _).leads ⟨rfl, ⟨hv.queues, hv.grants, hv.buffers, hv.graphs, hv.bufs⟩, ?_⟩)
  intro x hx heq
  have hnot := (List.mem_filter.mp hx).2
  simp [Inval.covers, heq] at hnot

/-! ## How a teardown ends -/

theorem ctx_eq_none_of_phase (hp : ∀ c, s.ctxAt h = some c → c.phase ≠ .live) : s.ctx h = none := by
  unfold State.ctx
  split
  · next c hc => exact if_neg fun hlive => hp c hc hlive.1
  · rfl

theorem tearingCtx_eq_none_of_phase (hp : ∀ c, s.ctxAt h = some c → c.phase ≠ .tearing) : s.tearingCtx h = none := by
  rw [State.tearingCtx, Option.filter_eq_none_iff]
  intro c hc
  simp [hp c hc]

/-- A handle's entry is freed: it is then neither live nor under teardown. -/
theorem modCtx_free_leads (h : Nat) (s : State) : (modCtx h fun c => { c with phase := .free }).Leads s fun _ t =>
    t.tearingCtx h = none ∧ t.ctx h = none ∧ t.rcv = s.rcv := by
  have hfree : ∀ c, ((Upd.tally fun x => { x with contexts := match tblFind x.contexts (h % 4096) with
      | some k => tblSet x.contexts (h % 4096) { k with phase := .free }
      | none => x.contexts }).apply s).ctxAt h = some c → c.phase = .free := by
    intro c hc
    simp only [State.ctxAt, Upd.apply] at hc
    cases hfind : tblFind s.tally.contexts (h % 4096) with
    | none => simp [hfind] at hc
    | some k =>
      simp only [hfind, tblFind_tblSet_same, Option.some.injEq] at hc
      rw [← hc]
  refine (update_gives _ _).leads ⟨tearingCtx_eq_none_of_phase fun c hc => ?_, ctx_eq_none_of_phase fun c hc => ?_, rfl⟩
  all_goals
    rw [hfree c hc]
    decide

theorem nextReport_eq {x y z : Recovery} {n : Nat} (h : y = { x with fences := y.fences })
    (k : z = { y with nextReport := n, fences := z.fences }) : z = { x with nextReport := n, fences := z.fences } := by
  rw [k, h]

/-- A report is written, its number taken and its event raised, and the handle's entry is freed. -/
theorem freedWithReport_leads (h dest n : Nat) (report detail : List Byte) (s : State) : (do
      let _ ← physWriteAll 0x81 dest report
      update (.rcv fun r => { r with nextReport := n })
      raise 0x81 6 0x7004 detail
      modCtx h fun c => { c with phase := .free }).Leads s fun _ t =>
    t.tearingCtx h = none ∧ t.ctx h = none ∧ t.rcv = { s.rcv with nextReport := n, fences := t.rcv.fences } := by
  refine (physWriteAll_tame _ _ _).leads_bind fun _ u hu => (update_gives _ _).leads_bind ?_
  refine (raise_tame _ _ _ _).leads_bind fun _ v hv => (modCtx_free_leads h v).mono fun _ t ht => ?_
  obtain ⟨htear, hctx, hrcv⟩ := ht
  exact ⟨htear, hctx, hrcv ▸ nextReport_eq hu.tame.rcv hv.tame.rcv⟩

theorem teardownComplete_leads (hc : s.tearingCtx h = some c) : (teardownComplete h).Leads s fun _ t =>
    t.tearingCtx h = none ∧ t.ctx h = none ∧
      t.rcv = { s.rcv with nextReport := (s.rcv.nextReport + 1) % 2 ^ 32, fences := t.rcv.fences } := by
  unfold teardownComplete
  refine .getS ?_
  rw [hc]
  exact freedWithReport_leads _ _ _ _ _ _

theorem countLate_gives (s : State) : countLate.gives s ()
    (s.putFld Reg.rcvLate Fld.rcvLateCount (satAdd Fld.rcvLateCount.width (s.fld Reg.rcvLate Fld.rcvLateCount) 1)) := bump_gives _ _ _ s

end

/-- Settles O17: a teardown ends with the context's objects and translations, a completion with its entry. -/
theorem teardownEndsAContext : Obligations.TeardownEndsAContext := by
  refine fun s h reportAt hs => ⟨fun c hc => ?_, fun hnone => ?_, fun c hc hfab hchip hold => ?_, fun c hc hfab hchip => ?_, fun hnone => ?_,
    fun c hc => ?_⟩
  · obtain ⟨hout, hd, htlb⟩ := (teardownContext_leads hc reportAt).run
    have hexec : exec (.teardownContext h reportAt) s = .next (M.run (teardownContext h reportAt) s) := rfl
    exact ⟨_, hexec, (exec_reach hexec).sameBut _ (reachOf_parts _), hout, hd.queues, hd.grants, hd.buffers, hd.graphs, hd.bufs, htlb⟩
  · have hrun : M.run (teardownContext h reportAt) s = (Upd.out fun _ => some ⟨false, [0x18#8]⟩).apply s := by
      unfold teardownContext
      rw [run_getS_bind, hnone]
      rfl
    exact ⟨_, always_of_run hrun, Upd.sameBut _ s, rfl⟩
  · refine ⟨_, ?_, Upd.sameBut (.fabric fun f => { f with qps := f.qps.map fun p =>
        if p.2.handle = h then (p.1, { p.2 with out := [] }) else p }) s, ?_, fun p hp => ?_⟩
    · have hmargin : settleMargin = 1024 := rfl
      change execFabDrainDeclared h s = _
      exact whenEnabled_next (by rw [hc, hfab, hchip, hmargin]; simp only [Bool.not_false, Bool.and_self, Bool.true_and, decide_eq_true_eq, hold])
    · simp only [State.fabricOutstanding, Upd.apply, List.any_map, List.any_eq_false]
      intro r _
      simp only [Function.comp_apply]
      split <;> simp [*]
    · simp only [Upd.apply, List.mem_map]
      refine ⟨fun ⟨r, hr, hmap⟩ => ?_, fun hmem => ⟨p, hmem, if_neg hp⟩⟩
      split at hmap
      · next hh => exact absurd (hmap ▸ hh) hp
      · exact hmap ▸ hr
  · obtain ⟨htear, hctx, hrcv⟩ := (teardownComplete_leads hc).run
    have hexec : exec (.teardownComplete h) s = .next (M.run (teardownComplete h) s) := by
      change execTeardownComplete h s = _
      exact whenEnabled_next (by rw [hc, hfab, hchip]; rfl)
    exact ⟨_, hexec, (exec_reach hexec).sameBut _ (reachOf_parts _), htear, hctx, hrcv⟩
  · refine ⟨s.putFld Reg.rcvLate Fld.rcvLateCount (satAdd Fld.rcvLateCount.width (s.fld Reg.rcvLate Fld.rcvLateCount) 1), ?_,
      s.sameBut_putFld _ _ _, ?_⟩
    · change execLateResponseDiscard h s = _
      exact (whenEnabled_next (by rw [hnone]; rfl)).trans (congrArg _ (countLate_gives s).run)
    · exact fun _ => State.reg_putFld hs
  · change execLateResponseDiscard h s = _
    exact whenEnabled_refused (by rw [hc]; rfl)

end Sys2Proof.Machine
end

section
/-! PROOFS. DMA channels: started, armed, disarmed, stopped, aborted and drained (R257, R268, R270, R271, R274). -/

namespace Sys2Proof.Machine

open Sys2Proof

/-! ## One channel and its status register -/

/-- The state with one DMA channel as given. -/
def State.withChan (s : State) (n : Nat) (c : DmaChan) : State := (Upd.dma fun t => tblSet t n c).apply s

/-- Only channel `n` and its status register have changed: the channel is `c`, and the register shows the fields listed. -/
structure State.ChanAt (s : State) (n : Nat) (c : DmaChan) (fields : List (Field × Nat)) (t : State) : Prop where
  frame : s.SameBut [.regs, .dma] t
  canonical : t.Canonical
  chan : t.chan n = c
  others : ∀ x, x ≠ n → t.chan x = s.chan x
  regs : ∀ x, x ≠ Reg.dmaChStatus n → t.reg x = s.reg x
  shown : ∀ p ∈ fields, t.fld (Reg.dmaChStatus n) p.1 = p.2

section
variable {s t : State} {n : Nat} {c : DmaChan} {fields : List (Field × Nat)} {α β : Type}

theorem State.chan_withChan (s : State) (n : Nat) (c : DmaChan) : (s.withChan n c).chan n = c := tblGet_tblSet_same ..

theorem State.chan_withChan_other (s : State) (c : DmaChan) {x : Nat} (hx : x ≠ n) : (s.withChan n c).chan x = s.chan x :=
  tblGet_tblSet _ _ _ hx

theorem State.withChan_frame (s : State) (n : Nat) (c : DmaChan) : s.SameBut [.dma] (s.withChan n c) := Upd.sameBut_of _ s

theorem modChan_gives (n : Nat) (f : DmaChan → DmaChan) (s : State) : (modChan n f).gives s () (s.withChan n (f (s.chan n))) := fun _ => rfl

theorem State.oneField_putFld (hs : s.Canonical) (off : Nat) (f : Field) (v : Nat) : OneField s off f v (s.putFld off f v) :=
  fun _ => State.reg_putFld hs

theorem Quiet.chan (h : Quiet s t) (x : Nat) : t.chan x = s.chan x := by rw [State.chan, h.rest, State.chan]

theorem State.ChanAt.refl (hs : s.Canonical) (n : Nat) : s.ChanAt n (s.chan n) [] s :=
  ⟨.refl _ s, hs, rfl, fun _ _ => rfl, fun _ _ => rfl, nofun⟩

theorem State.ChanAt.show_nothing (h : s.ChanAt n c fields t) : s.ChanAt n c [] t := { h with shown := nofun }

theorem State.ChanAt.put (h : s.ChanAt n c fields t) {f : Field} {v : Nat} (hfit : f.lsb + f.width ≤ 64) (hv : v < 2 ^ f.width)
    (hapart : ∀ p ∈ fields, p.1.lsb + p.1.width ≤ f.lsb ∨ f.lsb + f.width ≤ p.1.lsb) :
    s.ChanAt n c ((f, v) :: fields) (t.putFld (Reg.dmaChStatus n) f v) where
  frame := h.frame.trans ((t.sameBut_putFld _ _ _).mono (by decide))
  canonical := State.canonical_putFld h.canonical _ _ _
  chan := h.chan
  others := h.others
  regs x hx := by rw [State.reg_putFld h.canonical, if_neg hx, h.regs x hx]
  shown p hp := by
    rcases List.mem_cons.mp hp with rfl | hp
    · exact State.fld_putFld_same h.canonical hfit hv
    · rw [State.fld_putFld_apart h.canonical (hapart p hp), h.shown p hp]

theorem M.Leads.next {m : M α} {f : α → M β} {P : α → State → Prop} {Q : β → State → Prop} (h : m.Leads s P)
    (hf : ∀ a t, P a t → (f a).Leads t Q) : (m >>= f).Leads s Q := .bind (h.mono hf)

theorem State.ChanAt.wrFld (h : s.ChanAt n c fields t) {f : Field} {v : Nat} (hfit : f.lsb + f.width ≤ 64) (hv : v < 2 ^ f.width)
    (hapart : ∀ p ∈ fields, p.1.lsb + p.1.width ≤ f.lsb ∨ f.lsb + f.width ≤ p.1.lsb) :
    (Machine.wrFld (Reg.dmaChStatus n) f v).Leads t fun _ => s.ChanAt n c ((f, v) :: fields) :=
  (wrFld_gives _ _ _ _).leads (h.put hfit hv hapart)

theorem State.ChanAt.modChan (h : s.ChanAt n c fields t) (f : DmaChan → DmaChan) :
    (Machine.modChan n f).Leads t fun _ => s.ChanAt n (f c) fields := by
  refine (modChan_gives n f t).leads ?_
  rw [h.chan]
  exact {
    frame := h.frame.trans ((t.withChan_frame n _).mono (by decide))
    canonical := Upd.apply_canonical _ _ h.canonical
    chan := t.chan_withChan n _
    others := fun x hx => (t.chan_withChan_other _ hx).trans (h.others x hx)
    regs := h.regs
    shown := h.shown }

theorem State.ChanAt.enterState (h : s.ChanAt n c fields t) {state cause : Nat} (hstate : state < 4) (hcause : cause < 16)
    (hapart : ∀ p ∈ fields, 6 ≤ p.1.lsb) :
    (Machine.enterState n state cause).Leads t fun _ =>
      s.ChanAt n c ((Fld.dmaChStatusCause, cause) :: (Fld.dmaChStatusState, state) :: fields) := by
  refine (h.wrFld (by decide) hstate fun p hp => .inr (Nat.le_trans (by decide) (hapart p hp))).next fun _ u hu =>
    hu.wrFld (by decide) hcause fun p hp => ?_
  rcases List.mem_cons.mp hp with rfl | hp
  · exact .inl (Nat.le_refl 2)
  · exact .inr (hapart p hp)

/-- What a channel's context says of addresses is in components that neither its status nor an event touches. -/
theorem badPhysical_congr {a : Nat} (hreg : t.reg (Reg.dmaChCtx n) = s.reg (Reg.dmaChCtx n)) (hctx : t.tally.contexts = s.tally.contexts) :
    t.badPhysical (t.chanCtx n) a = s.badPhysical (s.chanCtx n) a := by
  have hhandle : t.chanCtx n = s.chanCtx n := by rw [State.chanCtx, State.fld, hreg, State.chanCtx, State.fld]
  simp only [State.badPhysical, State.ctx, State.ctxAt, hhandle, hctx]

theorem State.ChanAt.badPhysical (h : s.ChanAt n c fields t) (a : Nat) :
    t.badPhysical (t.chanCtx n) a = s.badPhysical (s.chanCtx n) a :=
  badPhysical_congr (h.regs _ (by simp [Reg.dmaChStatus, Reg.dmaChCtx])) (by rw [h.frame.2 .tally (by decide)])

/-- A chain that begins has its first crate fetched, and no descriptor to take yet. -/
theorem State.ChanAt.fetchFirst {a : Nat} (h : s.ChanAt n dma0 fields t) (hstate : (Fld.dmaChStatusState, 1) ∈ fields) (ha : a % 64 = 0)
    (hgood : s.badPhysical (s.chanCtx n) a = false) : (do
      follow n a
      issueFetch n
      beginNext n).Leads t fun _ => s.ChanAt n { dma0 with fetch := some (a, s.clock.now) } fields := by
  refine .bind (.getS ?_)
  rw [if_neg (by simp [ha, h.badPhysical, hgood])]
  refine (h.modChan _).mono fun _ u hu => .bind (.getS ?_)
  rw [hu.chan]
  dsimp only
  rw [if_pos ⟨rfl, by simp [DmaChan.cratesAhead, dma0]⟩]
  refine (hu.modChan _).mono fun _ v hv => .getS ?_
  have hrun : v.chanState n = 1 := hv.shown _ hstate
  have hclock : u.clock.now = s.clock.now := by rw [hu.frame.2 .clock (by decide)]
  rw [hclock] at hv
  rw [hv.chan]
  dsimp only
  rw [if_neg (by simp [hrun, dma0])]
  exact .pure hv

/-! ## DMA_START and DMA_ARM -/

theorem dmaStart_leads {head : Nat} (hs : s.Canonical) (hstart : s.canStartChan n = true)
    (hhead : head = s.fld (Reg.dmaChActiveHead n) Fld.dmaChActiveHeadHead) (ha : signExtend48 head % 64 = 0)
    (hgood : s.badPhysical (s.chanCtx n) (signExtend48 head) = false) : (dmaStart n).Leads s fun _ =>
      s.ChanAt n { dma0 with fetch := some (signExtend48 head, s.clock.now) } [(Fld.dmaChStatusCause, 0), (Fld.dmaChStatusState, 1),
        (Fld.dmaChStatusHops, 0), (Fld.dmaChStatusHandover, 0)] := by
  subst hhead
  refine .getS ?_
  rw [if_pos hstart]
  refine ((State.ChanAt.refl hs n).wrFld (by decide) (by decide) (by decide)).next fun _ u hu => ?_
  refine (hu.modChan fun _ => dma0).next fun _ u hu => (hu.wrFld (by decide) (by decide) (by decide)).next fun _ u hu => ?_
  exact (hu.enterState (by decide) (by decide) (by decide)).next fun _ u hu => hu.fetchFirst (by simp) ha hgood

theorem dmaArm_gives_running (h : s.chanState n = 1 ∨ s.chanState n = 2) : (dmaArm n).gives s ()
    (s.putFld (Reg.dmaChStatus n) Fld.dmaChStatusArmed 1) := .getS_bind (.ite_pos h _ fun _ => rfl)

/-- A state seen as its own origin. -/
theorem State.ChanAt.self (hs : s.Canonical) (hc : s.chan n = c) (hshown : ∀ p ∈ fields, s.fld (Reg.dmaChStatus n) p.1 = p.2) :
    s.ChanAt n c fields s := ⟨.refl _ s, hs, hc, fun _ _ => rfl, fun _ _ => rfl, hshown⟩

/-- An event below the exceptions leaves the channel. -/
theorem chanEvent_leads {code : Nat} (hcode : code < 0x2000) (detail : List (Nat × Nat)) (s : State) :
    (chanEvent n code detail).Leads s fun _ t => Quiet s t ∧ (s.Canonical → t.Canonical) := by
  refine .getS ((raise_gives _ _ _ _ _).leads_bind ?_)
  rw [if_neg (by omega)]
  exact .pure ⟨s.afterEvent_quiet _ _ _ _, canonical_run _⟩

theorem dmaArm_leads {head : Nat} (hs : s.Canonical) (hstart : s.canStartChan n = true) (hidle : ¬ (s.chanState n = 1 ∨ s.chanState n = 2))
    (hhead : head = s.fld (Reg.dmaChShadowHead n) Fld.dmaChShadowHeadHead) (ha : signExtend48 head % 64 = 0)
    (hgood : s.badPhysical (s.chanCtx n) (signExtend48 head) = false) : (dmaArm n).Leads s fun _ t =>
      s.SameBut [.mem, .regs, .sys, .tally, .dma] t ∧ t.chan n = { dma0 with fetch := some (signExtend48 head, s.clock.now) } ∧
      (∀ p ∈ [(Fld.dmaChStatusCause, 0), (Fld.dmaChStatusState, 1), (Fld.dmaChStatusHops, 0), (Fld.dmaChStatusHandover, 2),
        (Fld.dmaChStatusArmed, 0)], t.fld (Reg.dmaChStatus n) p.1 = p.2) ∧
      t.fld (Reg.dmaChActiveHead n) Fld.dmaChActiveHeadHead = head := by
  refine .getS ?_
  rw [if_neg hidle, if_pos hstart]
  refine ((State.ChanAt.refl hs n).modChan fun _ => dma0).next fun _ u hu =>
    (hu.enterState (by decide) (by decide) (by decide)).next fun _ u hu => ?_
  unfold commitShadow
  simp only [bind_assoc]
  refine .getS ?_
  have hshadow : u.fld (Reg.dmaChShadowHead n) Fld.dmaChShadowHeadHead = head := by
    rw [State.fld, hu.regs _ (by simp [Reg.dmaChStatus, Reg.dmaChShadowHead]), hhead, State.fld]
  rw [hshadow]
  refine (wrFld_gives _ _ _ _).leads_bind ?_
  have hv : ((u.putFld (Reg.dmaChActiveHead n) Fld.dmaChActiveHeadHead head)).ChanAt n dma0 _ _ :=
    .self (State.canonical_putFld hu.canonical _ _ _) hu.chan fun p hp =>
      (State.fld_putFld_other hu.canonical (by simp [Reg.dmaChStatus, Reg.dmaChActiveHead])).trans (hu.shown p hp)
  have hactive : (u.putFld (Reg.dmaChActiveHead n) Fld.dmaChActiveHeadHead head).fld (Reg.dmaChActiveHead n) Fld.dmaChActiveHeadHead = head :=
    State.fld_putFld_same hu.canonical (by decide) (hhead ▸ getBits_lt _ _ _)
  have hframe := hu.frame.trans ((u.sameBut_putFld (Reg.dmaChActiveHead n) Fld.dmaChActiveHeadHead head).mono (by decide))
  have hother : (u.putFld (Reg.dmaChActiveHead n) Fld.dmaChActiveHeadHead head).reg (Reg.dmaChCtx n) = u.reg (Reg.dmaChCtx n) := by
    rw [State.reg_putFld hu.canonical, if_neg (by simp [Reg.dmaChActiveHead, Reg.dmaChCtx])]
  have hsame : (u.putFld (Reg.dmaChActiveHead n) Fld.dmaChActiveHeadHead head).tally.contexts = u.tally.contexts := rfl
  generalize u.putFld (Reg.dmaChActiveHead n) Fld.dmaChActiveHeadHead head = v at hv hactive hframe hother hsame
  refine (hv.wrFld (f := Fld.dmaChStatusArmed) (v := 0) (by decide) (by decide) (by decide)).next fun _ w hw => ?_
  refine (hw.wrFld (by decide) (by decide) (by decide)).next fun _ w hw => (hw.wrFld (by decide) (by decide) (by decide)).next fun _ w hw => ?_
  refine (hw.modChan _).next fun _ w hw => ?_
  simp only [if_true, bind_assoc]
  refine (chanEvent_leads (by decide) _ w).next fun _ x hx => ?_
  obtain ⟨hquiet, hcan⟩ := hx
  have hx : x.ChanAt n dma0 _ x := .self (hcan hw.canonical) ((hquiet.chan n).trans hw.chan) fun p hp =>
    (hquiet.fld _ _).trans (hw.shown p hp)
  have hframe := (hframe.trans hw.frame).mono (qs := [.mem, .regs, .sys, .tally, .dma]) (by decide)
  have hframe := hframe.trans (hquiet.sameBut.mono (by decide))
  have hgood : x.badPhysical (x.chanCtx n) (signExtend48 head) = false := by
    rw [← hgood, ← hu.badPhysical, ← badPhysical_congr (t := v) hother hsame, ← hw.badPhysical]
    exact badPhysical_congr (hquiet.reg _) (by rw [hquiet.rest])
  refine (hx.fetchFirst (by simp) ha hgood).mono fun _ y hy => ⟨hframe.trans (hy.frame.mono (by decide)), ?_, fun p hp => ?_, ?_⟩
  · have hclock : x.clock = s.clock := hframe.2 .clock (by decide)
    rw [← hclock]
    exact hy.chan
  · exact hy.shown p (by simp at hp ⊢; tauto)
  · rw [State.fld, hy.regs _ (by simp [Reg.dmaChStatus, Reg.dmaChActiveHead]), hquiet.reg,
      hw.regs _ (by simp [Reg.dmaChStatus, Reg.dmaChActiveHead])]
    exact hactive

/-! ## DMA_DISARM, DMA_STOP, DMA_ABORT and the end of a drain -/

theorem dmaStop_leads_idle (hs : s.Canonical) (hrun : s.chanState n = 1) (hcur : (s.chan n).cur = none) : (dmaStop n).Leads s fun _ =>
    s.ChanAt n dma0 [(Fld.dmaChStatusCause, 2), (Fld.dmaChStatusState, 0), (Fld.dmaChStatusArmed, 0)] := by
  refine .getS ?_
  rw [if_pos hrun]
  refine ((State.ChanAt.refl hs n).wrFld (f := Fld.dmaChStatusArmed) (v := 0) (by decide) (by decide) (by decide)).next fun _ u hu =>
    (hu.modChan _).next fun _ u hu => ?_
  rw [if_pos (by rw [hcur]; rfl)]
  exact (hu.modChan _).next fun _ u hu => hu.enterState (by decide) (by decide) (by decide)

theorem dmaStop_gives_executing (hrun : s.chanState n = 1) (hcur : (s.chan n).cur.isSome = true) : (dmaStop n).gives s ()
    ((s.putFld (Reg.dmaChStatus n) Fld.dmaChStatusArmed 0).withChan n
      { s.chan n with ahead := [], want := none, fetch := none, stopping := true }) := by
  have hno : ¬ (s.chan n).cur.isNone = true := by simpa [Option.isNone_iff_eq_none, Option.isSome_iff_ne_none] using hcur
  refine .getS_bind (.ite_pos hrun _ ((wrFld_gives _ _ _ s).bind ((modChan_gives _ _ _).bind (.ite_neg hno _ (pure_gives _ _)))))

theorem moveSome_gives_nothing (hcur : (s.chan n).cur = none) : (moveSome n).gives s () s := by
  refine .getS_bind ?_
  rw [hcur]
  exact pure_gives _ _

theorem dmaAbort_leads_idle (hs : s.Canonical) (hrun : s.chanState n = 1) (hcur : (s.chan n).cur = none) : (dmaAbort n).Leads s fun _ =>
    s.ChanAt n { s.chan n with drain := 3, ahead := [], want := none, fetch := none, stopping := false }
      [(Fld.dmaChStatusState, 2), (Fld.dmaChStatusArmed, 0)] := by
  refine .getS ?_
  rw [if_pos hrun]
  refine ((State.ChanAt.refl hs n).wrFld (f := Fld.dmaChStatusArmed) (v := 0) (by decide) (by decide) (by decide)).next fun _ u hu => ?_
  refine (moveSome_gives_nothing (hu.chan ▸ hcur)).leads_bind ?_
  refine .bind (.next (hu.wrFld (by decide) (by decide) (by decide)) fun _ v hv => (hv.modChan _).mono fun _ w hw => ?_)
  rw [if_neg (by rw [hcur]; decide)]
  exact .pure hw

theorem dmaAbort_leads {d : DmaDesc} (hs : s.Canonical) (hrun : s.chanState n = 1) (hcur : (s.chan n).cur = some d) (hd : d.status = 0) :
    (dmaAbort n).Leads s fun _ t => t.fld (Reg.dmaChStatus n) Fld.dmaChStatusState = 2 ∧
      t.chan n = { s.chan n with
        cur := some { d with status := 0x87, stamp := s.clock.now, issued := true }
        drain := 3
        ahead := []
        want := none
        fetch := none
        stopping := false } ∧ ∀ x, x ≠ n → t.chan x = s.chan x := by
  refine .getS ?_
  rw [if_pos hrun]
  refine ((State.ChanAt.refl hs n).wrFld (f := Fld.dmaChStatusArmed) (v := 0) (by decide) (by decide) (by decide)).next fun _ u hu => ?_
  refine (moveSome_reach (msk := 0xBA9) rfl n).leads_bind fun _ v hv => ?_
  have hdma : v.dma = u.dma := Reaches.dma hv rfl
  have hclock : v.clock = s.clock := (Reaches.clock hv rfl).trans (hu.frame.2 .clock (by decide))
  have hchan : ∀ x, v.chan x = u.chan x := fun x => by rw [State.chan, hdma, State.chan]
  have hv' : v.ChanAt n (s.chan n) [] v := .self (hv.canonical hu.canonical) ((hchan n).trans hu.chan) nofun
  refine .bind (.next (hv'.wrFld (by decide) (by decide) (by decide)) fun _ w hw => (hw.modChan _).mono fun _ w hw => ?_)
  rw [if_pos (by rw [hcur, Option.map_some, hd]; rfl)]
  refine .getS ?_
  rw [hw.chan]
  dsimp only
  rw [hcur]
  refine (hw.modChan _).next fun _ y hy => ?_
  rw [if_neg (by simp)]
  have hnow : w.clock.now = s.clock.now := by rw [hw.frame.2 .clock (by decide), hclock]
  rw [hnow] at hy
  exact .pure ⟨hy.shown _ List.mem_cons_self, hy.chan, fun x hx => by rw [hy.others x hx, hchan, hu.others x hx]⟩

theorem dmaDrainComplete_leads (hs : s.Canonical) (hdrain : (s.chan n).drain < 8) : (dmaDrainComplete n).Leads s fun _ =>
    s.ChanAt n dma0 [(Fld.dmaChStatusCause, (s.chan n).drain), (Fld.dmaChStatusState, 3)] :=
  .getS (((State.ChanAt.refl hs n).modChan fun _ => dma0).next fun _ u hu => hu.enterState (by decide) (by omega) (by decide))

/-! ## Writes of CTL -/

variable {w : Requester} {P : State → Prop}

/-- The writes of CTL with the bit each sets and what each does. -/
def ctlWrites (w : Requester) (n : Nat) : List (Instr × Nat × M Unit) :=
  [(.dmaStart w n, 0, dmaStart n), (.dmaArm w n, 1, dmaArm n), (.dmaDisarm w n, 2, dmaDisarm n), (.dmaStop w n, 3, dmaStop n),
    (.dmaAbort w n, 4, dmaAbort n)]

theorem exec_ctlWrites (hn : n < 64) {x : Instr × Nat × M Unit} (hx : x ∈ ctlWrites w n) (s : State) :
    exec x.1 s = .next (M.run (ctlWrite w n x.2.1 x.2.2) s) := by
  simp only [ctlWrites, List.mem_cons, List.not_mem_nil, or_false] at hx
  rcases hx with rfl | rfl | rfl | rfl | rfl
  · exact (whenEnabled_of_decide hn _ _ : execDmaStart w n s = _)
  · exact (whenEnabled_of_decide hn _ _ : execDmaArm w n s = _)
  · exact (whenEnabled_of_decide hn _ _ : execDmaDisarm w n s = _)
  · exact (whenEnabled_of_decide hn _ _ : execDmaStop w n s = _)
  · exact (whenEnabled_of_decide hn _ _ : execDmaAbort w n s = _)

theorem exec_ctl (hn : n < 64) (hr : reaches s w (partOf (0x40 + n))) (hw : privileged w = true) {i : Instr} {bit : Nat} {act : M Unit}
    (hx : (i, bit, act) ∈ ctlWrites w n) : exec i s = .next (M.run act s) := by
  rw [exec_ctlWrites hn hx, run_ctlWrite hr hw]

theorem exec_ctl_refused (hn : n < 64) (hr : reaches s w (partOf (0x40 + n))) (hw : privileged w = false) {i : Instr} {bit : Nat}
    {act : M Unit} (hx : (i, bit, act) ∈ ctlWrites w n) : exec i s = .next (refusedWrite s (Reg.dmaChCtl n) (2 ^ bit) 0) := by
  rw [exec_ctlWrites hn hx, ctlWrite, run_reachReg_bind hr, if_pos rfl, if_neg (by simp [hw]), run_refuseReg]

/-- A write of CTL whose action leads to a state with a property. -/
theorem exec_ctl_leads (hn : n < 64) (hr : reaches s w (partOf (0x40 + n))) (hw : privileged w = true) {i : Instr} {bit : Nat}
    {act : M Unit} (hx : (i, bit, act) ∈ ctlWrites w n) (h : act.Leads s fun _ => P) :
    ∃ t, exec i s = .next t ∧ P t ∧ s.SameBut i.parts t := by
  have hexec := exec_ctl hn hr hw hx
  exact ⟨_, hexec, h.run, (exec_reach hexec).sameBut _ (reachOf_parts _)⟩

end

/-- Settles O42: each write of CTL makes a few updates of the channel and its status register; only a move in progress does more. -/
theorem dmaChannelsStartArmStopAndAbort : Obligations.DmaChannelsStartArmStopAndAbort := by
  intro s w n hs hn hr c st only good enters ctl
  refine ⟨fun hw x hx => ?_, fun hw => ⟨fun head hstart hhead hgood => ?_, fun hno => ?_, fun hrun => ?_, fun head hstart hhead hgood => ?_,
    fun h1 h2 hno => ?_, fun hended => ?_, fun hended => ?_, fun hrun hcur => ?_, fun hrun hcur => ?_, fun h1 h2 => ?_, fun hrun hcur => ?_,
    fun d hrun hcur hd => ?_⟩, fun hstate h7 h8 hcur => ?_, fun hno => ?_⟩
  · simp only [ctl, List.mem_cons, List.not_mem_nil, or_false] at hx
    rcases hx with rfl | rfl | rfl | rfl | rfl
    · exact exec_ctl_refused (bit := 0) (act := dmaStart n) hn hr hw (by simp [ctlWrites])
    · exact exec_ctl_refused (bit := 1) (act := dmaArm n) hn hr hw (by simp [ctlWrites])
    · exact exec_ctl_refused (bit := 2) (act := dmaDisarm n) hn hr hw (by simp [ctlWrites])
    · exact exec_ctl_refused (bit := 3) (act := dmaStop n) hn hr hw (by simp [ctlWrites])
    · exact exec_ctl_refused (bit := 4) (act := dmaAbort n) hn hr hw (by simp [ctlWrites])
  · obtain ⟨t, hexec, ht, -⟩ := exec_ctl_leads hn hr hw (i := .dmaStart w n) (bit := 0) (by simp [ctlWrites])
      (dmaStart_leads hs hstart hhead hgood.1 hgood.2)
    exact ⟨t, hexec, ⟨ht.frame, ht.others⟩, ht.chan,
      ⟨ht.shown (Fld.dmaChStatusState, 1) (by simp), ht.shown (Fld.dmaChStatusCause, 0) (by simp)⟩,
      ht.shown (Fld.dmaChStatusHops, 0) (by simp), ht.shown (Fld.dmaChStatusHandover, 0) (by simp), ht.regs⟩
  · rw [exec_ctl hn hr hw (i := .dmaStart w n) (bit := 0) (act := dmaStart n) (by simp [ctlWrites]), dmaStart, run_getS_bind, if_neg (by simp [hno]),
      run_refuseReg]
  · exact ⟨_, (exec_ctl hn hr hw (i := .dmaArm w n) (bit := 1) (by simp [ctlWrites])).trans (congrArg _ (dmaArm_gives_running hrun).run),
      s.sameBut_putFld _ _ _, State.oneField_putFld hs _ _ _⟩
  · have hidle : ¬ (s.chanState n = 1 ∨ s.chanState n = 2) := by
      simp only [State.canStartChan, Bool.and_eq_true, Bool.or_eq_true, beq_iff_eq] at hstart
      omega
    obtain ⟨t, hexec, ⟨hframe, hchan, hshown, hactive⟩, -⟩ := exec_ctl_leads hn hr hw (i := .dmaArm w n) (bit := 1) (by simp [ctlWrites])
      (dmaArm_leads hs hstart hidle hhead hgood.1 hgood.2)
    exact ⟨t, hexec, hframe, hchan, ⟨hshown (Fld.dmaChStatusState, 1) (by simp), hshown (Fld.dmaChStatusCause, 0) (by simp)⟩,
      hshown (Fld.dmaChStatusHops, 0) (by simp), hshown (Fld.dmaChStatusHandover, 2) (by simp),
      hshown (Fld.dmaChStatusArmed, 0) (by simp), hactive⟩
  · rw [exec_ctl hn hr hw (i := .dmaArm w n) (bit := 1) (act := dmaArm n) (by simp [ctlWrites]), dmaArm, run_getS_bind, if_neg (by simp [h1, h2]),
      if_neg (by simp [hno]), run_refuseReg]
  · refine ⟨s.putFld st Fld.dmaChStatusArmed 0, ?_, s.sameBut_putFld _ _ _, State.oneField_putFld hs _ _ _⟩
    rw [exec_ctl hn hr hw (i := .dmaDisarm w n) (bit := 2) (act := dmaDisarm n) (by simp [ctlWrites]), dmaDisarm, run_getS_bind]
    exact congrArg _ (congrArg (M.run · s) (if_pos (by rw [show (s.chan n).ended = false from hended]; rfl)))
  · rw [exec_ctl hn hr hw (i := .dmaDisarm w n) (bit := 2) (act := dmaDisarm n) (by simp [ctlWrites]), dmaDisarm, run_getS_bind]
    exact congrArg _ (congrArg (M.run · s) (if_neg (by rw [show (s.chan n).ended = true from hended]; decide)))
  · obtain ⟨t, hexec, ht, -⟩ := exec_ctl_leads hn hr hw (i := .dmaStop w n) (bit := 3) (by simp [ctlWrites]) (dmaStop_leads_idle hs hrun hcur)
    exact ⟨t, hexec, ⟨ht.frame, ht.others⟩, ht.chan,
      ⟨ht.shown (Fld.dmaChStatusState, 0) (by simp), ht.shown (Fld.dmaChStatusCause, 2) (by simp)⟩,
      ht.shown (Fld.dmaChStatusArmed, 0) (by simp), ht.regs⟩
  · refine ⟨_, (exec_ctl hn hr hw (i := .dmaStop w n) (bit := 3) (by simp [ctlWrites])).trans
      (congrArg _ (dmaStop_gives_executing hrun hcur).run), ⟨?_, fun x hx => ?_⟩, State.chan_withChan _ _ _,
        State.oneField_putFld hs _ _ _⟩
    · exact ((s.sameBut_putFld _ _ _).mono (by decide)).trans ((State.withChan_frame _ n _).mono (by decide))
    · exact State.chan_withChan_other _ _ hx
  · constructor
    · rw [exec_ctl hn hr hw (i := .dmaStop w n) (bit := 3) (act := dmaStop n) (by simp [ctlWrites]), dmaStop, run_getS_bind, if_neg h1, if_neg h2]
      rfl
    · rw [exec_ctl hn hr hw (i := .dmaAbort w n) (bit := 4) (act := dmaAbort n) (by simp [ctlWrites]), dmaAbort, run_getS_bind, if_neg h1, if_neg h2]
      rfl
  · obtain ⟨t, hexec, ht, -⟩ := exec_ctl_leads hn hr hw (i := .dmaAbort w n) (bit := 4) (by simp [ctlWrites]) (dmaAbort_leads_idle hs hrun hcur)
    exact ⟨t, hexec, ⟨ht.frame, ht.others⟩, ht.shown (Fld.dmaChStatusState, 2) (by simp), ht.shown (Fld.dmaChStatusArmed, 0) (by simp), ht.chan⟩
  · obtain ⟨t, hexec, ⟨hstate, hchan, hothers⟩, hparts⟩ := exec_ctl_leads hn hr hw (i := .dmaAbort w n) (bit := 4) (by simp [ctlWrites])
      (dmaAbort_leads hs hrun hcur hd)
    exact ⟨t, hexec, hparts, hstate, by rw [hchan], by rw [hchan], by rw [hchan], hothers⟩
  · have ht := (dmaDrainComplete_leads hs h8).run
    refine ⟨_, ?_, ⟨ht.frame, ht.others⟩, ht.chan,
      ⟨ht.shown (Fld.dmaChStatusState, 3) (by simp), ht.shown (Fld.dmaChStatusCause, c.drain) (by simp [c])⟩, ht.regs⟩
    change execDmaDrainComplete n s = _
    exact whenEnabled_next (by rw [show (s.chan n).cur = none from hcur]; simpa using ⟨⟨hn, hstate⟩, h7⟩)
  · change execDmaDrainComplete n s = _
    refine whenEnabled_refused ?_
    rcases hno with h | h
    · simp [h]
    · rw [Option.isNone_eq_false_iff.mpr h, Bool.and_false]

end Sys2Proof.Machine
end

section
/-! PROOFS. DMA descriptors fetched, moved, written back and reported; shares of the stream bandwidth (R250, R261, R264, R267, R269). -/

namespace Sys2Proof.Machine

open Sys2Proof

section
variable {s t u v : State} {n a t0 : Nat} {d : DmaDesc}

/-! ## Crates -/

theorem run_crateFetchDone (hf : (s.chan n).fetch = some (a, t0)) {r : Except MemErr (List Byte)} (h : M.gives (do
      modChan n fun c => { c with fetch := none }
      ctxRead (0x40 + n) (s.chanCtx n) (a / 256 * 256) 256) s r u) :
    M.run (crateFetchDone n) s = M.run (do
      match r with
      | .error _ => modChan n fun c => { c with broken := some (0, a) }
      | .ok crate => takeDescs 4 n crate a
      issueFetch n
      beginNext n) u := by
  unfold crateFetchDone
  rw [run_getS_bind, hf]
  refine Eq.trans ?_ (h.run_bind fun r => do
      match r with
      | .error _ => modChan n fun c => { c with broken := some (0, a) }
      | .ok crate => takeDescs 4 n crate a
      issueFetch n
      beginNext n)
  exact congrArg (fun m => M.run m s) (bind_assoc _ _ _).symm

theorem exec_crateFetchDone (hn : n < 64) (hrun : s.chanState n = 1) (hf : (s.chan n).fetch = some (a, t0)) :
    exec (.crateFetchDone n) s = .next (M.run (crateFetchDone n) s) := by
  change execCrateFetchDone n s = _
  exact whenEnabled_next (by simp [hn, hrun, hf])

theorem run_fetchTimeout (hf : (s.chan n).fetch = some (a, t0)) : M.run (fetchTimeout n) s =
    M.run (beginNext n) (s.withChan n { s.chan n with fetch := none, broken := some (1, a) }) := by
  unfold fetchTimeout
  rw [run_getS_bind, hf]
  rfl

theorem State.SameBut.withChan {ps : List Part} (h : s.SameBut ps t) (hp : Part.dma ∈ ps) (n : Nat) (c : DmaChan) :
    s.SameBut ps (t.withChan n c) := h.trans ((t.withChan_frame n c).mono (by simpa using hp))

theorem State.SameBut.putFld {ps : List Part} (h : s.SameBut ps t) (hp : Part.regs ∈ ps) (r : Nat) (f : Field) (x : Nat) :
    s.SameBut ps (t.putFld r f x) := h.trans ((t.sameBut_putFld r f x).mono (by simpa using hp))

/-- A field stored in a state whose registers are those of another one. -/
theorem OneField.of_regs (ht : t.Canonical) (h : t.regs = s.regs) (r : Nat) (f : Field) (x : Nat) : OneField s r f x (t.putFld r f x) :=
  fun y => by rw [State.reg_putFld ht, reg_congr h, reg_congr h]

/-- The last descriptor of a chain that is not armed is taken as it stands, and ends the chain. -/
theorem takeDescs_leads_last {f : Nat} {crate : List Byte} (hs : s.Canonical) (hlast : ddNext ((crate.drop (a % 256)).take 64) = 0)
    (harmed : s.chanArmed n = false) : (takeDescs (f + 1) n crate a).Leads s fun _ v => s.SameBut [.regs, .dma] v ∧
      v.chan n = { s.chan n with
        ahead := (s.chan n).ahead ++
          [⟨a, (crate.drop (a % 256)).take 64, s.fld (Reg.dmaChStatus n) Fld.dmaChStatusHops, 0, 0, 0, false, 0, 0, 0⟩]
        ended := true } ∧
      OneField s (Reg.dmaChStatus n) Fld.dmaChStatusHops (min (s.fld (Reg.dmaChStatus n) Fld.dmaChStatusHops + 1) (2 ^ 21 - 1)) v := by
  unfold takeDescs
  refine .getS ((modChan_gives _ _ _).leads_bind ((wrFld_gives _ _ _ _).leads_bind ?_))
  rw [if_pos hlast, if_neg (by simp [harmed])]
  refine (modChan_gives _ _ _).leads ⟨?_, ?_, ?_⟩
  · exact (((State.SameBut.refl _ s).withChan (by decide) _ _).putFld (by decide) _ _ _).withChan (by decide) _ _
  · rw [State.chan_withChan]
    change { (s.withChan n _).chan n with ended := true } = _
    rw [State.chan_withChan]
  · exact OneField.of_regs (t := s.withChan n _) (Upd.apply_canonical _ _ hs) rfl _ _ _

/-! ## Descriptors moved -/

theorem State.moving_eq_some (h : s.moving n = some d) : s.chanState n = 1 ∧ (s.chan n).cur = some d ∧ d.status = 0 := by
  unfold State.moving at h
  split at h
  · next hrun =>
    obtain ⟨hcur, hd⟩ := Option.filter_eq_some_iff.mp h
    exact ⟨hrun.1, hcur, by simpa using hd⟩
  · cases h

theorem run_runDesc (hd : s.moving n = some d) {r : Option (MemErr × Nat)} (h : (moveUnits n (ddUnits d.bytes)).gives s r u) :
    M.run (runDesc n) s = M.run (match r with
      | none => do
        scramble n (ddUnits d.bytes)
        settleDesc n 0x81
      | some (e, a) => do
        chanEvent n 0x4601 [(1, e.dmaStatus), (1, 0), (6, a % 2 ^ 48), (6, d.addr % 2 ^ 48)]
        settleDesc n e.dmaStatus) u := by
  unfold runDesc
  rw [run_getS_bind, hd]
  refine (h.run_bind _).trans ?_
  cases r <;> rfl

theorem State.moveFails_isSome (h : s.moveFails n = true) : (s.moving n).isSome = true := by
  unfold State.moveFails at h
  split at h
  · cases h
  · next hd => rw [hd]; rfl

/-- A descriptor in execution takes its status; one that is written back waits. -/
theorem settleDesc_leads (hcur : (s.chan n).cur = some d) {status : Nat} (hwait : status = 0x81 → ddWb d.bytes = true) :
    (settleDesc n status).gives s ()
      (s.withChan n { s.chan n with cur := some { d with status := status, stamp := s.clock.now, issued := true } }) := by
  unfold settleDesc
  refine .getS_bind ?_
  rw [hcur]
  refine (modChan_gives _ _ _).bind (.ite_neg ?_ _ (pure_gives _ _))
  rintro ⟨hstatus, hno⟩
  simp [hwait hstatus] at hno

/-- What a channel's event leaves of the channel: all but the event it shows. -/
theorem chanEvent_keeps (code : Nat) (detail : List (Nat × Nat)) (s : State) : (chanEvent n code detail).Leads s fun _ t =>
    t.clock = s.clock ∧ (s.Canonical → t.Canonical) ∧ (t.chan n).cur = (s.chan n).cur := by
  refine .getS ((raise_gives _ _ _ _ _).leads_bind ?_)
  have hquiet := s.afterEvent_quiet (0x40 + n) (partOf (0x40 + n)) code (det detail)
  have hcan : s.Canonical → (s.afterEvent (0x40 + n) (partOf (0x40 + n)) code (det detail)).Canonical := canonical_run _
  split
  · refine (modChan_gives _ _ _).leads ⟨hquiet.clock, fun hs => Upd.apply_canonical _ _ (hcan hs), ?_⟩
    rw [State.chan_withChan, hquiet.chan]
  · exact .pure ⟨hquiet.clock, hcan, by rw [hquiet.chan]⟩

theorem descriptorTimeout_leads (hs : s.Canonical) (hd : s.moving n = some d) : (descriptorTimeout n).Leads s fun _ t =>
    t.fld (Reg.dmaChStatus n) Fld.dmaChStatusState = 2 ∧ (t.chan n).drain = 6 ∧
      (t.chan n).cur = some { d with status := 0x88, stamp := s.clock.now, issued := true } := by
  refine .getS ?_
  rw [hd]
  refine (moveSome_reach (msk := 0xBA9) rfl n).leads_bind fun _ u hu => (chanEvent_keeps _ _ u).next fun _ v hv => ?_
  obtain ⟨hclock, hcan, hcur⟩ := hv
  have hcur : (v.chan n).cur = some d := by
    rw [hcur, State.chan, Reaches.dma hu rfl]
    exact (State.moving_eq_some hd).2.1
  have hclock : v.clock = s.clock := hclock.trans (Reaches.clock hu rfl)
  refine .bind (.next ((State.ChanAt.refl (hcan (hu.canonical hs)) n).wrFld (by decide) (by decide) (by decide)) fun _ w hw =>
    (hw.modChan _).mono fun _ w hw => ?_)
  have hwcur : (w.chan n).cur = some d := by rw [hw.chan]; exact hcur
  have hwclock : w.clock = s.clock := (hw.frame.2 .clock (by decide)).trans hclock
  refine (settleDesc_leads hwcur fun h => absurd h (by decide)).leads ⟨hw.shown (Fld.dmaChStatusState, 2) (by simp), ?_, ?_⟩
  · rw [State.chan_withChan, hw.chan]
  · rw [State.chan_withChan, hwclock]

/-! ## Descriptors written back and done -/

theorem run_writebackAck (hcur : (s.chan n).cur = some d)
    (h1 : (ctxWrite (0x40 + n) (s.chanCtx n) (d.addr + 0x1C) (leBytes 1 d.status)).gives s none u)
    (h2 : (ctxWrite (0x40 + n) (s.chanCtx n) (d.addr + 0x38) (leBytes 8 d.stamp)).gives u none v) :
    M.run (writebackAck n) s = M.run (descDone n d) v := by
  unfold writebackAck
  rw [run_getS_bind, hcur]
  refine (h1.run_bind _).trans ?_
  dsimp only
  rw [if_pos (by rfl)]
  exact h2.run_bind _

/-- A done descriptor of a draining channel with nothing to report is counted. -/
theorem descDone_leads (hs : s.Canonical) (hdrain : s.chanState n = 2) (hok : d.status = 0x81) (hsignal : ddSignal d.bytes = false)
    (hhall : ddHall d.bytes = false) (hnotify : ddNotify d.bytes = false) : (descDone n d).Leads s fun _ v =>
      s.SameBut [.regs, .dma] v ∧ v.chan n = { s.chan n with cur := none } ∧ Counted s (Reg.dmaChDescCnt n) Fld.dmaChDescCntDone v := by
  unfold descDone
  refine .getS ((modChan_gives _ _ _).leads_bind ?_)
  rw [if_pos (by rw [hok]; rfl)]
  refine (bump_gives _ _ _ _).leads_bind ?_
  rw [if_pos (by rw [hok]; decide), if_neg (by simp [hsignal]), if_neg (by simp [hhall]), if_neg (by simp [hnotify])]
  refine .getS ?_
  have hcan : (s.withChan n { s.chan n with cur := none }).Canonical := Upd.apply_canonical _ _ hs
  have hstate : ((s.withChan n { s.chan n with cur := none }).putFld (Reg.dmaChDescCnt n) Fld.dmaChDescCntDone
      (satAdd Fld.dmaChDescCntDone.width ((s.withChan n { s.chan n with cur := none }).fld (Reg.dmaChDescCnt n) Fld.dmaChDescCntDone) 1)).chanState n
        = 2 := (State.fld_putFld_other hcan (by simp [Reg.dmaChStatus, Reg.dmaChDescCnt])).trans hdrain
  rw [if_neg (by rw [hstate]; decide)]
  exact .pure ⟨((State.SameBut.refl _ s).withChan (by decide) _ _).putFld (by decide) _ _ _, s.chan_withChan n _,
    OneField.of_regs hcan rfl _ _ _⟩

/-! ## Shares of the stream bandwidth -/

/-- What storing fields of one register leaves, each bringing at most an event. -/
structure State.FieldsSet (s : State) (off : Nat) (g : Field → Nat) (l : List Field) (quiet : Prop) (t : State) : Prop where
  canonical : t.Canonical
  regs : ∀ x, x ≠ off → t.reg x = s.reg x
  shown : ∀ f ∈ l, t.fld off f = g f
  apart : ∀ f : Field, (∀ p ∈ l, f.lsb + f.width ≤ p.lsb ∨ p.lsb + p.width ≤ f.lsb) → t.fld off f = s.fld off f
  frame : quiet → s.SameBut [.regs] t

/-- Fields that lie apart are stored one after the other; each out of its range raises the event of a clamped write. -/
theorem clampFields_leads {off : Nat} {g h : Field → Nat} (l : List Field) (hs : s.Canonical)
    (hfit : ∀ f ∈ l, f.lsb + f.width ≤ 64 ∧ g f < 2 ^ f.width)
    (hapart : l.Pairwise fun f p => f.lsb + f.width ≤ p.lsb ∨ p.lsb + p.width ≤ f.lsb) : (forIn l PUnit.unit fun f _ => do
      wrFld off f (g f)
      if h f ≠ g f then clampReg off (h f) (g f) f.lsb f.width
      pure (.yield PUnit.unit) : M PUnit).Leads s fun _ t => s.FieldsSet off g l (∀ f ∈ l, h f = g f) t := by
  induction l generalizing s with
  | nil => exact .pure ⟨hs, fun _ _ => rfl, nofun, fun _ _ => rfl, fun _ => .refl _ s⟩
  | cons f l ih =>
    obtain ⟨hfirst, hrest⟩ := List.pairwise_cons.mp hapart
    obtain ⟨hwidth, hlt⟩ := hfit f List.mem_cons_self
    have hcan := State.canonical_putFld hs off f (g f)
    have hturn : (do
        wrFld off f (g f)
        if h f ≠ g f then clampReg off (h f) (g f) f.lsb f.width
        pure (.yield PUnit.unit) : M (ForInStep PUnit)).Leads s fun r u => r = .yield PUnit.unit ∧ u.Canonical ∧
          u.regs = (s.putFld off f (g f)).regs ∧ (h f = g f → u = s.putFld off f (g f)) := by
      refine (wrFld_gives _ _ _ _).leads_bind ?_
      split
      · next hne =>
        exact (raise_gives _ _ _ _ _).leads_bind (.pure ⟨rfl, canonical_run _ hcan, (State.afterEvent_quiet _ _ _ _ _).regs, fun h => absurd h hne⟩)
      · exact .pure ⟨rfl, hcan, rfl, fun _ => rfl⟩
    rw [List.forIn_cons]
    refine hturn.next fun r u hu => ?_
    obtain ⟨rfl, hucan, huregs, husame⟩ := hu
    refine (ih hucan (fun p hp => hfit p (List.mem_cons_of_mem _ hp)) hrest).mono fun _ v hv => ?_
    have hreg (x : Nat) (hx : x ≠ off) : u.reg x = s.reg x := by rw [reg_congr huregs, State.reg_putFld hs, if_neg hx]
    refine ⟨hv.canonical, fun x hx => (hv.regs x hx).trans (hreg x hx), fun p hp => ?_, fun p hp => ?_, fun hsame => ?_⟩
    · rcases List.mem_cons.mp hp with rfl | hp
      · rw [hv.apart p hfirst, fld_congr huregs, State.fld_putFld_same hs hwidth hlt]
      · exact hv.shown p hp
    · rw [hv.apart p fun q hq => hp q (List.mem_cons_of_mem _ hq), fld_congr huregs, State.fld_putFld_apart hs (hp f List.mem_cons_self)]
    · have hu := husame (hsame f List.mem_cons_self)
      exact (hu ▸ s.sameBut_putFld _ _ _ : s.SameBut [.regs] u).trans (hv.frame fun p hp => hsame p (List.mem_cons_of_mem _ hp))

/-- The value a share field of a written word takes. -/
def shareOf (v : Word) (f : Field) : Nat := min 14 (max 1 (getBits v f.lsb f.width))

theorem run_streamShareWrite_refused {w : Requester} {p : Nat} {x : Word}
    (h : ¬ (w = .bcc ∧ s.heldForShare p = true ∧ shareOf x Fld.streamShareRead + shareOf x Fld.streamShareWrite +
      shareOf x Fld.streamShareRemote = 16)) : M.run (streamShareWrite w p x) s = refusedWrite s (Reg.streamShare p) x.toNat 0 := by
  unfold streamShareWrite
  rw [run_getS_bind]
  refine (congrArg (M.run · s) (if_pos ?_)).trans (run_refuseReg _ _ _ s)
  simp only [shareFields, List.map_cons, List.map_nil, List.foldl_cons, List.foldl_nil, Nat.zero_add, Bool.not_eq_true', ne_eq]
  simp only [shareOf] at h
  by_contra hno
  simp only [not_or, not_not, Bool.not_eq_false] at hno
  exact h hno

theorem streamShareWrite_leads {w : Requester} {p : Nat} {x : Word} (hs : s.Canonical)
    (h : w = .bcc ∧ s.heldForShare p = true ∧ shareOf x Fld.streamShareRead + shareOf x Fld.streamShareWrite +
      shareOf x Fld.streamShareRemote = 16) : (streamShareWrite w p x).Leads s fun _ t =>
        s.FieldsSet (Reg.streamShare p) (shareOf x) shareFields (∀ f ∈ shareFields, getBits x f.lsb f.width = shareOf x f) t := by
  unfold streamShareWrite
  refine .getS ?_
  obtain ⟨hw, hheld, hsum⟩ := h
  rw [if_neg (by
    simp only [shareFields, List.map_cons, List.map_nil, List.foldl_cons, List.foldl_nil, Nat.zero_add]
    simp only [shareOf] at hsum
    simp [hw, hheld, hsum])]
  refine .next (clampFields_leads shareFields hs (fun f hf => ?_) (by decide)) fun _ t ht => .pure ht
  have hwidth : f.lsb + f.width ≤ 64 ∧ 14 < 2 ^ f.width := by revert f; decide
  exact ⟨hwidth.1, Nat.lt_of_le_of_lt (Nat.min_le_left _ _) hwidth.2⟩

end

/-- Settles O43: each command of a channel runs its own part, the descriptor's move or report given, and goes on as the channel does. -/
theorem dmaDescriptorsAreTakenMovedAndReported : Obligations.DmaDescriptorsAreTakenMovedAndReported := by
  refine fun s n hs => ⟨fun hn hrun => ⟨fun a t0 hf => ⟨fun r u hread => ⟨fun crate hr => ?_, fun e hr => ?_⟩, fun hold => ?_,
    fun hearly => ?_⟩, fun hf => ⟨?_, ?_⟩, fun crate a f hlast harmed => takeDescs_leads_last hs hlast harmed |>.choose_spec, fun d hd =>
    ⟨fun u hgood hmove => ?_, fun e a u hbad hmove => ?_, fun hbad => ?_, fun hgood => ?_, fun hwb => ?_, fun hold => ?_, fun hearly => ?_⟩⟩,
    fun hn hstate d hcur => ⟨fun hno => ?_, fun u v hissued h1 h2 => ?_, fun hdrain hok hsignal hhall hnotify => ?_⟩, fun hn w x => ⟨fun h => ?_, fun h => ?_⟩⟩
  · refine completesThen_of rfl ?_
    rw [exec_crateFetchDone hn hrun hf, run_crateFetchDone hf hread, hr]
  · refine completesThen_of (u := u.withChan n { u.chan n with broken := some (0, a) })
      ⟨u.withChan_frame n _, u.chan_withChan n _, fun y hy => u.chan_withChan_other _ hy⟩ ?_
    rw [exec_crateFetchDone hn hrun hf, run_crateFetchDone hf hread, hr]
    rfl
  · refine completesThen_of (u := s.withChan n { s.chan n with fetch := none, broken := some (1, a) })
      ⟨s.withChan_frame n _, s.chan_withChan n _, fun y hy => s.chan_withChan_other _ hy⟩ ?_
    rw [← run_fetchTimeout hf]
    change execFetchTimeout n s = _
    exact whenEnabled_next (by rw [hf]; simp [hn, hrun, hold])
  · change execFetchTimeout n s = _
    exact whenEnabled_refused (by rw [hf]; simp [hearly])
  · change execCrateFetchDone n s = _
    exact whenEnabled_refused (by rw [show (s.chan n).fetch = none from hf]; simp)
  · change execFetchTimeout n s = _
    exact whenEnabled_refused (by rw [show (s.chan n).fetch = none from hf]; simp)
  · refine completesThen_of rfl ((?_ : exec (.descriptorComplete n) s = .next (M.run (runDesc n) s)).trans (congrArg _ (run_runDesc hd hmove)))
    change execDescriptorComplete n s = _
    exact whenEnabled_next (by rw [hd, hgood]; simp [hn])
  · refine completesThen_of rfl ((?_ : exec (.dmaTransferError n) s = .next (M.run (runDesc n) s)).trans (congrArg _ (run_runDesc hd hmove)))
    change execDmaTransferError n s = _
    exact whenEnabled_next (by rw [hbad]; simp [hn])
  · change execDescriptorComplete n s = _
    exact whenEnabled_refused (by rw [hbad]; simp)
  · change execDmaTransferError n s = _
    exact whenEnabled_refused (by rw [hgood]; simp)
  · obtain ⟨-, hcur, -⟩ := State.moving_eq_some hd
    exact ⟨_, settleDesc_leads hcur fun _ => hwb, s.withChan_frame n _, s.chan_withChan n _⟩
  · have hexec : exec (.descriptorTimeout n) s = .next (M.run (descriptorTimeout n) s) := by
      change execDescriptorTimeout n s = _
      exact whenEnabled_next (by rw [hd]; simp [hn, hold])
    obtain ⟨hstate, hdrain, hcur⟩ := (descriptorTimeout_leads hs hd).run
    exact ⟨_, hexec, (exec_reach hexec).sameBut _ (reachOf_parts _), hstate, hdrain, hcur⟩
  · change execDescriptorTimeout n s = _
    exact whenEnabled_refused (by rw [hd]; simp [hearly])
  · change execWritebackAck n s = _
    exact whenEnabled_refused (by rw [hcur]; simp [hno])
  · refine completesThen_of rfl ?_
    rw [← run_writebackAck hcur h1 h2]
    change execWritebackAck n s = _
    exact whenEnabled_next (by rw [hcur]; simp [hn, hstate, hissued])
  · obtain ⟨⟨⟩, v, hv⟩ := descDone_leads hs hdrain hok hsignal hhall hnotify
    exact ⟨v, hv⟩
  · have hexec : exec (.streamShareWrite w n x) s = .next (M.run (streamShareWrite w n x) s) := by
      change execStreamShareWrite w n x s = _
      exact whenEnabled_next (decide_eq_true hn)
    have ht := (streamShareWrite_leads hs h).run
    exact ⟨_, hexec, (exec_reach hexec).sameBut _ (reachOf_parts _), ht.shown, ht.regs, ht.frame⟩
  · change execStreamShareWrite w n x s = _
    exact (whenEnabled_next (decide_eq_true hn)).trans (congrArg _ (run_streamShareWrite_refused h))

end Sys2Proof.Machine
end

section
/-! PROOFS. Registers of the camera path: arms, exposure requests, sensor buses and the held ISP_CTL write (R293, R299–R304). -/

namespace Sys2Proof.Machine

open Sys2Proof

/-! ## One camera context and one port -/

/-- The state with one camera context as given. -/
def State.withCam (s : State) (c : Nat) (x : Cam) : State := (Upd.cams fun y => { y with cams := tblSet y.cams c x }).apply s

/-- The state with one camera port as given. -/
def State.withCsi (s : State) (n : Nat) (p : CsiPort) : State := (Upd.cams fun y => { y with ports := tblSet y.ports n p }).apply s

section
variable {s t u v : State} {c n port : Nat} {w : Requester}

theorem State.cam_withCam (s : State) (c : Nat) (x : Cam) : (s.withCam c x).cam c = x := tblGet_tblSet_same ..

theorem State.cam_withCam_other (s : State) (x : Cam) {y : Nat} (hy : y ≠ c) : (s.withCam c x).cam y = s.cam y := tblGet_tblSet _ _ _ hy

theorem State.withCam_frame (s : State) (c : Nat) (x : Cam) : s.SameBut [.cams] (s.withCam c x) := Upd.sameBut_of _ s

theorem modCam_gives (c : Nat) (f : Cam → Cam) (s : State) : (modCam c f).gives s () (s.withCam c (f (s.cam c))) := fun _ => rfl

theorem State.csi_withCsi (s : State) (n : Nat) (p : CsiPort) : (s.withCsi n p).csi n = p := tblGet_tblSet_same ..

theorem State.csi_withCsi_other (s : State) (p : CsiPort) {y : Nat} (hy : y ≠ n) : (s.withCsi n p).csi y = s.csi y := tblGet_tblSet _ _ _ hy

theorem State.withCsi_frame (s : State) (n : Nat) (p : CsiPort) : s.SameBut [.cams] (s.withCsi n p) := Upd.sameBut_of _ s

theorem modCsi_gives (n : Nat) (f : CsiPort → CsiPort) (s : State) : (modCsi n f).gives s () (s.withCsi n (f (s.csi n))) := fun _ => rfl

/-! ## Arms and exposure requests -/

theorem run_camWrite (hr : reaches s w 4) (off value : Nat) (m : M Unit) :
    M.run (camWrite w off value m) s = if privileged w then M.run m s else refusedWrite s off value 0 := by
  rw [camWrite, run_reachReg_bind hr, if_pos rfl]
  split <;> rfl

theorem exec_camArm (hc : c < 32) (hr : reaches s w 4) : exec (.camArm w c) s =
    .next (if privileged w then M.run (camArm c) s else refusedWrite s (camReg Reg.camCmd c) 1 0) := by
  change execCamArm w c s = _
  exact (whenEnabled_of_decide hc _ _).trans (congrArg _ (run_camWrite hr _ _ _))

theorem exec_camDisarm (hc : c < 32) (hr : reaches s w 4) : exec (.camDisarm w c) s =
    .next (if privileged w then M.run (camDisarm c) s else refusedWrite s (camReg Reg.camCmd c) 2 0) := by
  change execCamDisarm w c s = _
  exact (whenEnabled_of_decide hc _ _).trans (congrArg _ (run_camWrite hr _ _ _))

theorem exec_exposureRequest (hc : c < 32) (hr : reaches s w 4) (block : Nat) : exec (.exposureRequest w c block) s =
    .next (if privileged w then M.run (exposureRequest c block) s else refusedWrite s (camReg Reg.camExpreq c) block 0) := by
  change execExposureRequest w c block s = _
  exact (whenEnabled_of_decide hc _ _).trans (congrArg _ (run_camWrite hr _ _ _))

theorem camArm_gives (h : s.flag (camReg Reg.camState c) Fld.camStateArmed = false) : (camArm c).gives s ()
    ((s.putFld (camReg Reg.camState c) Fld.camStateArmed 1).withCam c
      { s.cam c with armAt := s.clock.now, late := (s.cam c).lastStart == some s.clock.now }) :=
  .getS_bind (.ite_pos (by simp [h]) _ ((wrFld_gives _ _ _ _).bind (modCam_gives _ _ _)))

theorem run_camArm_armed (h : s.flag (camReg Reg.camState c) Fld.camStateArmed = true) : M.run (camArm c) s = s := by
  rw [camArm, run_getS_bind, if_neg (by simp [h])]
  rfl

theorem camDisarm_gives (c : Nat) (s : State) : (camDisarm c).gives s ()
    ((s.putFld (camReg Reg.camState c) Fld.camStateArmed 0).withCam c { s.cam c with late := false }) :=
  (wrFld_gives _ _ _ _).bind (modCam_gives _ _ _)

/-- Whether a block read is a valid exposure request (R300). -/
def GoodRequest (b : List Byte) : Prop :=
  leAt b 8 4 ≠ 0 ∧ leAt b 6 2 = 0 ∧ leAt b 12 1 < 16 ∧ allZero b 13 51 = true ∧ allZero b 192 64 = true ∧
    ∀ e ∈ listEntries b, entryOk e = true ∧ entryReads e = false

theorem not_goodRequest_iff (b : List Byte) : ¬ GoodRequest b ↔ leAt b 8 4 = 0 ∨ leAt b 6 2 ≠ 0 ∨ 16 ≤ leAt b 12 1 ∨ !allZero b 13 51 ∨
    !allZero b 192 64 ∨ (listEntries b).any fun e => !entryOk e || entryReads e := by
  simp only [GoodRequest, List.any_eq_true, Bool.or_eq_true, Bool.not_eq_true']
  constructor
  · intro h
    by_contra hno
    push Not at hno
    obtain ⟨h1, h2, h3, h4, h5, h6⟩ := hno
    exact h ⟨h1, h2, h3, by simpa using h4, by simpa using h5, fun e he => by simpa using h6 e he⟩
  · rintro (h | h | h | h | h | ⟨e, he, h⟩) ⟨h1, h2, h3, h4, h5, h6⟩
    · exact h1 h
    · exact h h2
    · omega
    · simp [h4] at h
    · simp [h5] at h
    · have := h6 e he
      simp [this.1, this.2] at h

section
variable {block : Nat} {b : List Byte}

/-- What a request whose block was read comes to. -/
theorem run_exposureRequest (h : (ctxRead (0xA0 + s.camPort c) (s.camOwner c) (signExtend48 (block % 2 ^ 48 / 64 * 64)) 256).gives s (.ok b) u)
    (hcam : u.cam c = s.cam c) :
    (¬ GoodRequest b → M.run (exposureRequest c block) s =
      u.afterEvent (0xA0 + s.camPort c) 4 0x3701 (det [(1, c), (1, 1), (2, 0), (4, leAt b 8 4)])) ∧
    (GoodRequest b → 8 ≤ ((s.cam c).reqs.filter fun r => 1 ≤ r.state && r.state ≤ 3).length → M.run (exposureRequest c block) s =
      u.afterEvent (0xA0 + s.camPort c) 4 0x3701 (det [(1, c), (1, 0), (2, 0), (4, leAt b 8 4)])) ∧
    (GoodRequest b → ((s.cam c).reqs.filter fun r => 1 ≤ r.state && r.state ≤ 3).length < 8 → M.run (exposureRequest c block) s =
      M.run (showReqs c) (u.withCam c { s.cam c with reqs := (s.cam c).reqs ++ [⟨leAt b 8 4, leAt b 0 4, leAt b 4 2, listEntries b, 1, 0, 0⟩] })) := by
  unfold exposureRequest
  rw [run_getS_bind]
  simp only [h.run_bind]
  refine ⟨fun hbad => ?_, fun hgood hfull => ?_, fun hgood hroom => ?_⟩
  · rw [if_pos ((not_goodRequest_iff b).mp hbad)]
    rfl
  · rw [if_neg fun hno => (not_goodRequest_iff b).mpr hno hgood, if_pos hfull]
    rfl
  · rw [if_neg fun hno => (not_goodRequest_iff b).mpr hno hgood, if_neg (Nat.not_le.mpr hroom), ← hcam]
    rfl

end

/-! ## Sensor buses -/

theorem exec_busListStart (hp : port < 8) (addr : Nat) : exec (.busListStart w port addr) s = .next (M.run (busListStart w port addr) s) := by
  change execBusListStart w port addr s = _
  exact whenEnabled_of_decide hp _ _

theorem run_busListStart {b : List Byte} {addr : Nat} (hr : reaches s w 4) (hw : machineMode w = true)
    (hidle : s.flag (Reg.csiBusStatus port) Fld.csiBusStatusBusy = false)
    (h : (physReadAll (0xA0 + port) (addr % 2 ^ 40 / 64 * 64) 256).gives s (.ok b) u) : M.run (busListStart w port addr) s =
      (u.putFld (Reg.csiBusStatus port) Fld.csiBusStatusBusy 1).withCsi port
        { u.csi port with jobs := (u.csi port).jobs ++ [⟨none, 0, addr % 2 ^ 40 / 64 * 64, listEntries b, 0, s.clock.now⟩] } := by
  rw [busListStart, run_reachReg_bind hr, if_pos rfl, run_getS_bind]
  dsimp only
  rw [if_neg (by simp [hw]), if_neg (by simp [hidle])]
  exact h.run_bind _

theorem run_busListStart_refused (hr : reaches s w 4) (addr : Nat) (hw : machineMode w = false) :
    M.run (busListStart w port addr) s = refusedWrite s (Reg.csiBusList port) addr 0 := by
  rw [busListStart, run_reachReg_bind hr, if_pos rfl, run_getS_bind]
  dsimp only
  rw [if_pos (by simp [hw]), run_refuseReg]

theorem run_busListStart_busy (hr : reaches s w 4) (addr : Nat) (hw : machineMode w = true)
    (hbusy : s.flag (Reg.csiBusStatus port) Fld.csiBusStatusBusy = true) :
    M.run (busListStart w port addr) s = refusedWrite s (Reg.csiBusList port) addr 6 := by
  rw [busListStart, run_reachReg_bind hr, if_pos rfl, run_getS_bind]
  dsimp only
  rw [if_neg (by simp [hw]), if_pos hbusy, run_refuseReg]

section
variable {j : BusJob} {rest : List BusJob} {data : List Byte}

/-- The jobs of a bus once its front job is gone: the next one begins now. -/
def nextJobs (now : Nat) : List BusJob → List BusJob
  | [] => []
  | k :: r => { k with since := now } :: r

/-- A port with other jobs, and what a transfer put on the wires. -/
def State.bused (s : State) (port : Nat) (wire : List (Nat × List Byte)) (jobs : List BusJob) : State :=
  ((Upd.sent (· ++ wire)).apply s).withCsi port { s.csi port with jobs := jobs }

theorem State.bused_frame (s : State) (port : Nat) (wire : List (Nat × List Byte)) (jobs : List BusJob) :
    s.SameBut [.sent, .cams] (s.bused port wire jobs) :=
  ((State.SameBut.refl _ s).upd (.sent (· ++ wire)) rfl).trans ((State.withCsi_frame _ port _).mono (by decide))

theorem run_busTransferComplete (hjobs : (s.csi port).jobs = j :: rest) (hwrite : entryReads (j.entries.getD j.idx []) = false) :
    M.run (busTransferComplete port data) s =
      if j.idx + 1 < j.entries.length then
        s.bused port [(0xA0 + port, busBytes (j.entries.getD j.idx []))] ({ j with idx := j.idx + 1, since := s.clock.now } :: rest)
      else M.run (match j.cam with
        | some c => schedule c j.req
        | none => wrFld (Reg.csiBusStatus port) Fld.csiBusStatusBusy 0)
          (s.bused port [(0xA0 + port, busBytes (j.entries.getD j.idx []))] (nextJobs s.clock.now rest)) := by
  unfold busTransferComplete
  rw [run_getS_bind, hjobs]
  refine ((update_gives _ _).run_bind _).trans ?_
  rw [if_neg fun h => Bool.eq_false_iff.mp hwrite h.1]
  split
  · rfl
  · cases rest <;> rfl

theorem exec_busTransferComplete (hjobs : (s.csi port).jobs = j :: rest) :
    exec (.busTransferComplete port data) s = .next (M.run (busTransferComplete port data) s) := by
  change execBusTransferComplete port data s = _
  exact whenEnabled_next (by rw [hjobs]; rfl)

theorem run_busTransferFail (hjobs : (s.csi port).jobs = j :: rest) : M.run (busTransferFail port) s =
    M.run (match j.cam with
      | some c => modReqs c fun r => if r.state = 2 ∧ r.id = j.req then { r with state := 6 } else r
      | none => do
        wrFld (Reg.csiBusStatus port) Fld.csiBusStatusBusy 0
        wrFld (Reg.csiBusStatus port) Fld.csiBusStatusError 1
        wrFld (Reg.csiBusStatus port) Fld.csiBusStatusEntry j.idx)
      ((s.withCsi port { s.csi port with jobs := nextJobs s.clock.now rest }).afterEvent (0xA0 + port) 4 0x4704
        (det [(1, port), (1, j.idx), (1, flagBit (decide (j.since + msUnits 10 ≤ s.clock.now))), (1, 0), (4, j.req)])) := by
  unfold busTransferFail
  rw [run_getS_bind, hjobs]
  refine ((modCsi_gives _ _ _).run_bind _).trans (((raise_gives _ _ _ _ _).run_bind _).trans ?_)
  cases rest <;> rfl

theorem exec_busTransferFail (hjobs : (s.csi port).jobs = j :: rest) :
    exec (.busTransferFail port) s = .next (M.run (busTransferFail port) s) := by
  change execBusTransferFail port s = _
  exact whenEnabled_next (by rw [hjobs]; rfl)

end

/-- The status of a bus whose list has failed. -/
theorem failedList_shown (hs : s.Canonical) (port i : Nat) :
    let t := ((s.putFld (Reg.csiBusStatus port) Fld.csiBusStatusBusy 0).putFld (Reg.csiBusStatus port) Fld.csiBusStatusError 1).putFld
      (Reg.csiBusStatus port) Fld.csiBusStatusEntry i
    s.SameBut [.regs] t ∧ t.fld (Reg.csiBusStatus port) Fld.csiBusStatusBusy = 0 ∧ t.fld (Reg.csiBusStatus port) Fld.csiBusStatusError = 1 ∧
      t.fld (Reg.csiBusStatus port) Fld.csiBusStatusEntry = i % 16 ∧ ∀ x, x ≠ Reg.csiBusStatus port → t.reg x = s.reg x := by
  have hs₁ := State.canonical_putFld hs (Reg.csiBusStatus port) Fld.csiBusStatusBusy 0
  have hs₂ := State.canonical_putFld hs₁ (Reg.csiBusStatus port) Fld.csiBusStatusError 1
  refine ⟨(((State.SameBut.refl _ s).putFld (by decide) _ _ _).putFld (by decide) _ _ _).putFld (by decide) _ _ _, ?_, ?_,
    fld_apply_same hs₂ _ _ _ (by decide), fun x hx => ?_⟩
  · rw [State.fld_putFld_apart hs₂ (by decide), State.fld_putFld_apart hs₁ (by decide), State.fld_putFld_same hs (by decide) (by decide)]
  · rw [State.fld_putFld_apart hs₂ (by decide), State.fld_putFld_same hs₁ (by decide) (by decide)]
  · rw [State.reg_putFld hs₂, if_neg hx, State.reg_putFld hs₁, if_neg hx, State.reg_putFld hs, if_neg hx]

end

/-- Settles O41: each write or transfer is a few updates of one context, one port or one register after what it reads. -/
theorem cameraRegistersArmRequestAndDriveTheBus : Obligations.CameraRegistersArmRequestAndDriveTheBus := by
  refine fun s w hs => ⟨fun c hc hr => ⟨fun hw hidle => ?_, fun hw harmed => ?_, fun hw => ?_, fun hw => ⟨?_, ?_, fun block => ?_⟩,
    fun block b u hw hread hcam => ⟨fun hgood hroom => ?_, fun hgood hfull => ?_, fun hbad => ?_⟩⟩,
    fun port addr hp hr => ⟨fun b u hw hidle hread hu => ?_, fun hw hbusy => ?_, fun hw => ?_⟩,
    fun port j rest data hjobs => ?_, fun port hjobs => ⟨fun data => ?_, ?_⟩, fun v hv => ⟨fun hno => ?_, fun hwait => ?_⟩⟩
  · exact ⟨_, by rw [exec_camArm hc hr, if_pos hw, (camArm_gives hidle).run],
      ((s.sameBut_putFld _ _ _).mono (by decide)).trans ((State.withCam_frame _ c _).mono (by decide)),
      OneField.of_regs (t := s) hs rfl _ _ _, State.cam_withCam _ _ _, fun x hx => State.cam_withCam_other _ _ hx⟩
  · rw [exec_camArm hc hr, if_pos hw, run_camArm_armed harmed]
  · exact ⟨_, by rw [exec_camDisarm hc hr, if_pos hw, (camDisarm_gives c s).run],
      ((s.sameBut_putFld _ _ _).mono (by decide)).trans ((State.withCam_frame _ c _).mono (by decide)),
      OneField.of_regs (t := s) hs rfl _ _ _, State.cam_withCam _ _ _, fun x hx => State.cam_withCam_other _ _ hx⟩
  · rw [exec_camArm hc hr, if_neg (by simp [hw])]
  · rw [exec_camDisarm hc hr, if_neg (by simp [hw])]
  · rw [exec_exposureRequest hc hr, if_neg (by simp [hw])]
  · refine completesThen_of (u := u.withCam c { s.cam c with reqs := (s.cam c).reqs ++ [⟨leAt b 8 4, leAt b 0 4, leAt b 4 2, listEntries b, 1, 0, 0⟩] })
      ⟨u.withCam_frame c _, u.cam_withCam c _, fun x hx => u.cam_withCam_other _ hx⟩ ?_
    rw [exec_exposureRequest hc hr, if_pos hw, (run_exposureRequest hread hcam).2.2 hgood hroom]
  · rw [exec_exposureRequest hc hr, if_pos hw, (run_exposureRequest hread hcam).2.1 hgood hfull]
  · rw [exec_exposureRequest hc hr, if_pos hw, (run_exposureRequest hread hcam).1 hbad]
  · exact ⟨_, by rw [exec_busListStart hp, run_busListStart hr hw hidle hread],
      ((u.sameBut_putFld _ _ _).mono (by decide)).trans ((State.withCsi_frame _ port _).mono (by decide)),
      OneField.of_regs (t := u) hu rfl _ _ _, State.csi_withCsi _ _ _, fun x hx => State.csi_withCsi_other _ _ hx⟩
  · rw [exec_busListStart hp, run_busListStart_busy hr addr hw hbusy]
  · rw [exec_busListStart hp, run_busListStart_refused hr addr hw]
  · refine ⟨fun hwrite hmore => ?_, fun hwrite hlast hcam => ?_, fun c hwrite hlast hcam => ?_, fun hcam => ?_, fun c hcam => ?_⟩
    · exact ⟨_, by rw [exec_busTransferComplete hjobs, run_busTransferComplete hjobs hwrite, if_pos hmore], s.bused_frame _ _ _, rfl,
        State.csi_withCsi _ _ _, fun x hx => State.csi_withCsi_other _ _ hx, rfl⟩
    · have hframe := s.bused_frame port [(0xA0 + port, busBytes (j.entries.getD j.idx []))] (nextJobs s.clock.now rest)
      refine ⟨_, by rw [exec_busTransferComplete hjobs, run_busTransferComplete hjobs hwrite, if_neg (Nat.not_lt.mpr hlast), hcam,
        (wrFld_gives _ _ _ _).run], (hframe.mono (by decide)).putFld (by decide) _ _ _, rfl,
        ⟨State.csi_withCsi _ _ _, fun x hx => State.csi_withCsi_other _ _ hx, rfl⟩, OneField.of_regs (Upd.apply_canonical _ _ hs) rfl _ _ _⟩
    · refine completesThen_of (u := s.bused port [(0xA0 + port, busBytes (j.entries.getD j.idx []))] (nextJobs s.clock.now rest))
        ⟨s.bused_frame _ _ _, rfl, State.csi_withCsi _ _ _, fun x hx => State.csi_withCsi_other _ _ hx, rfl⟩ ?_
      rw [exec_busTransferComplete hjobs, run_busTransferComplete hjobs hwrite, if_neg (Nat.not_lt.mpr hlast), hcam]
    · have hquiet := (s.withCsi port { s.csi port with jobs := nextJobs s.clock.now rest }).afterEvent_quiet (0xA0 + port) 4 0x4704
        (det [(1, port), (1, j.idx), (1, flagBit (decide (j.since + msUnits 10 ≤ s.clock.now))), (1, 0), (4, j.req)])
      obtain ⟨hframe, hbusy, herr, hentry, hregs⟩ := failedList_shown (canonical_run (raise (0xA0 + port) 4 0x4704
        (det [(1, port), (1, j.idx), (1, flagBit (decide (j.since + msUnits 10 ≤ s.clock.now))), (1, 0), (4, j.req)]))
        (s := s.withCsi port { s.csi port with jobs := nextJobs s.clock.now rest }) (Upd.apply_canonical _ _ hs)) port j.idx
      exact ⟨s.withCsi port { s.csi port with jobs := nextJobs s.clock.now rest }, _, s.withCsi_frame port _,
        ⟨State.csi_withCsi _ _ _, fun x hx => State.csi_withCsi_other _ _ hx, rfl⟩,
        (exec_busTransferFail hjobs).trans (congrArg _ ((run_busTransferFail hjobs).trans (by rw [hcam]; rfl))),
        hframe, hbusy, herr, hentry, fun x hx => (hregs x hx).trans (hquiet.reg x)⟩
    · refine completesThen_of ⟨s.withCsi port { s.csi port with jobs := nextJobs s.clock.now rest }, s.withCsi_frame port _,
        ⟨State.csi_withCsi _ _ _, fun x hx => State.csi_withCsi_other _ _ hx, rfl⟩, rfl⟩ ?_
      rw [exec_busTransferFail hjobs, run_busTransferFail hjobs, hcam]
  · change execBusTransferComplete port data s = _
    exact whenEnabled_refused (by rw [hjobs]; rfl)
  · change execBusTransferFail port s = _
    exact whenEnabled_refused (by rw [hjobs]; rfl)
  · have hrun : M.run ispCtlApply s = (Upd.cams fun x => { x with ctl := none }).apply ((Upd.reg Reg.ispCtl v).apply s) := by
      rw [ispCtlApply, run_getS_bind, hv]
      rfl
    refine ⟨_, (whenEnabled_next (by rw [hv]; simp [hno]) : execIspCtlApply s = _).trans (congrArg _ hrun),
      ((State.SameBut.refl _ s).upd (.reg Reg.ispCtl v) rfl).upd _ rfl, fun x => reg_apply hs _ _ x, rfl⟩
  · change execIspCtlApply s = _
    exact whenEnabled_refused (by rw [hv]; simp [hwait])

end Sys2Proof.Machine
end

section
/-! PROOFS. Frames of the camera path: opened, filled line by line, closed; links that come up and go down (R277–R285). -/

namespace Sys2Proof.Machine

open Sys2Proof

/-- The newest frame of context `c` is `f`, and the other contexts are as before. -/
structure State.FrameAt (s : State) (c : Nat) (f : CamFrame) (t : State) : Prop where
  newest : (t.cam c).frames.getLast? = some f
  others : ∀ x, x ≠ c → t.cam x = s.cam x

/-- A frame that has stored some lines more, `k` of them as filled ones. -/
def CamFrame.Padded (f : CamFrame) (k : Nat) (g : CamFrame) : Prop :=
  g = { f with group := g.group, crcs := g.crcs, lines := g.lines, filled := f.filled + k }

section
variable {s t u : State} {c port : Nat} {f g : CamFrame} {α : Type}

/-! ## The newest frame -/

theorem State.openFrame_eq_some_iff : s.openFrame c = some f ↔ (s.cam c).frames.getLast? = some f ∧ f.isOpen = true := Option.filter_eq_some_iff

theorem State.frameAt_of_openFrame (h : s.openFrame c = some f) : s.FrameAt c f s := ⟨(State.openFrame_eq_some_iff.mp h).1, fun _ _ => rfl⟩

theorem State.FrameAt.openFrame (h : s.FrameAt c f t) (ho : f.isOpen = true) : t.openFrame c = some f :=
  State.openFrame_eq_some_iff.mpr ⟨h.newest, ho⟩

theorem State.FrameAt.congr (h : s.FrameAt c f t) (hu : u.cams.cams = t.cams.cams) : s.FrameAt c f u :=
  ⟨by rw [State.cam, hu]; exact h.newest, fun x hx => by rw [State.cam, hu]; exact h.others x hx⟩

/-- Operations that leave the cameras. -/
theorem State.FrameAt.apart {m : M α} {msk : Nat} (h : s.FrameAt c f t) (hm : M.All (Upd.In msk) m) (hmask : msk.testBit 21 = false) :
    m.Leads t fun _ => s.FrameAt c f :=
  hm.leads fun _ _ hu => h.congr (by rw [Reaches.cams hu hmask])

/-- An operation that leaves the cameras, where its condition holds, and what follows. -/
theorem State.FrameAt.optional {p : Prop} [Decidable p] {m : M Unit} {rest : Unit → M Unit} {msk : Nat} {Q : Unit → State → Prop}
    (h : s.FrameAt c f t) (hm : M.All (Upd.In msk) m) (hmask : msk.testBit 21 = false)
    (hrest : ∀ u, s.FrameAt c f u → (rest ()).Leads u Q) : (if p then m >>= rest else rest ()).Leads t Q := by
  split
  · exact (h.apart hm hmask).next fun _ => hrest
  · exact hrest t h

theorem State.FrameAt.modCam (h : s.FrameAt c f t) (k : Cam → Cam) (hk : (k (t.cam c)).frames.getLast? = some g) :
    (Machine.modCam c k).Leads t fun _ => s.FrameAt c g :=
  (modCam_gives c k t).leads ⟨by rw [State.cam_withCam]; exact hk, fun x hx => (State.cam_withCam_other _ _ hx).trans (h.others x hx)⟩

theorem State.FrameAt.modFrame (h : s.FrameAt c f t) (k : CamFrame → CamFrame) : (Machine.modFrame c k).Leads t fun _ => s.FrameAt c (k f) :=
  h.modCam _ (by simp [h.newest])

theorem State.FrameAt.modReqs (h : s.FrameAt c f t) (k : ExpReq → ExpReq) : (Machine.modReqs c k).Leads t fun _ => s.FrameAt c f :=
  (h.modCam _ h.newest).next fun _ _ hu => hu.apart (showReqs_reach (msk := 8) rfl c) rfl

/-! ## Lines stored and filled -/

theorem CamFrame.padded_addLine (f : CamFrame) (bits : Nat) (l : List Nat) : f.Padded 0 (f.addLine bits l) := by
  unfold CamFrame.addLine CamFrame.Padded
  dsimp only
  split <;> rfl

theorem CamFrame.Padded.trans {h : CamFrame} {a b : Nat} (x : f.Padded a g) (y : g.Padded b h) : f.Padded (a + b) h := by
  unfold CamFrame.Padded at *
  rw [y, x]
  simp [Nat.add_assoc]

theorem CamFrame.Padded.isOpen {a : Nat} (x : f.Padded a g) : g.isOpen = f.isOpen := by rw [x]

/-- A line stored changes of the frame only what its lines make up. -/
theorem State.FrameAt.storeLine (h : s.FrameAt c f t) (ho : f.isOpen = true) (y : Nat) (l : List Nat) :
    (storeLineOf c y l).Leads t fun _ u => ∃ g, s.FrameAt c g u ∧ f.Padded 0 g ∧ (f.direct = false → g = f.addLine (t.camBits c) l) := by
  unfold storeLineOf
  refine .getS ?_
  rw [h.openFrame ho]
  refine (h.modFrame _).next fun _ u hu => ?_
  split
  · next hd =>
    refine (hu.modFrame _).mono fun _ v hv => ⟨_, hv, (f.padded_addLine _ _).trans (b := 0) rfl, fun hno => ?_⟩
    simp [hno] at hd
  · exact (hu.apart (ctxWrite_reach (msk := 0xBA9) rfl _ _ _ _) rfl).next fun _ v hv => .pure ⟨_, hv, f.padded_addLine _ _, fun _ => rfl⟩

/-- The lines that a frame lacks are filled one by one. -/
theorem fillLines_leads (line : List Nat) (row : Nat → Nat) (l : List Nat) (h : s.FrameAt c f t) (ho : f.isOpen = true) :
    (forIn l PUnit.unit fun i _ => do
      storeLineOf c (row i) line
      modFrame c fun f => { f with filled := f.filled + 1 }
      pure (.yield PUnit.unit) : M PUnit).Leads t fun _ u => ∃ g, s.FrameAt c g u ∧ f.Padded l.length g := by
  induction l generalizing f t with
  | nil => exact .pure ⟨f, h, rfl⟩
  | cons i l ih =>
    rw [List.forIn_cons]
    refine .bind ((h.storeLine ho _ _).next fun _ u hu => ?_)
    obtain ⟨g, hg, hpad, -⟩ := hu
    refine (hg.modFrame _).next fun _ v hv => .pure ((ih hv (hpad.isOpen.trans ho)).mono fun _ w hw => ?_)
    obtain ⟨k, hk, hlast⟩ := hw
    refine ⟨k, hk, ?_⟩
    have hone : f.Padded 1 { g with filled := g.filled + 1 } := by
      rw [hpad]
      rfl
    rw [List.length_cons, Nat.add_comm]
    exact hone.trans hlast

/-! ## The close of a frame -/

/-- What a closed frame keeps of the open one, and what it lacked. -/
structure CamFrame.ClosedFrom (f : CamFrame) (height stamp : Nat) (g : CamFrame) : Prop where
  isOpen : g.isOpen = false
  closed : g.closed = stamp
  num : g.num = f.num
  rx : g.rx = f.rx
  filled : f.dropped = false → g.filled = f.filled + (height - f.rx)

theorem beginWrites_leads (h : s.FrameAt c f t) (frame : Nat) : (beginWrites c frame).Leads t fun _ => s.FrameAt c f := by
  unfold beginWrites
  refine .getS ?_
  dsimp only
  split
  · exact (modCsi_gives _ _ _).leads_bind ((State.FrameAt.congr (u := State.withCsi _ _ _) h rfl).modReqs _)
  · exact .pure h

theorem closeFrame_leads (h : s.openFrame c = some f) (stamp : Nat) (noFe timeout lost : Bool) :
    (closeFrame c stamp noFe timeout lost).Leads s fun _ t => ∃ g, s.FrameAt c g t ∧ f.ClosedFrom (s.camH c) stamp g := by
  have ho : f.isOpen = true := (State.openFrame_eq_some_iff.mp h).2
  unfold closeFrame
  refine .getS ?_
  rw [h]
  refine (fillLines_leads _ _ _ (s.frameAt_of_openFrame h) ho).next fun _ u hu => ?_
  obtain ⟨g, hg, hpad⟩ := hu
  refine .getS ((hg.modFrame _).next fun _ v hv => .getS ?_)
  have hclosed : ∃ k, s.FrameAt c k v ∧ f.ClosedFrom (s.camH c) stamp k := ⟨_, hv, {
    isOpen := rfl
    closed := rfl
    num := by rw [hpad]
    rx := by rw [hpad]
    filled := fun hd => by rw [hpad]; simp [hd] }⟩
  obtain ⟨k, hk, hfrom⟩ := hclosed
  rw [hk.newest]
  refine .mono (P := fun _ => s.FrameAt c k) ?_ fun _ w hw => ⟨k, hw, hfrom⟩
  refine (hk.apart (wrFld_reach (msk := 8) rfl _ _ _) rfl).next fun _ w hw => ?_
  refine hw.optional (bump_reach (msk := 8) rfl _ _ _) rfl fun w hw => hw.optional (bump_reach (msk := 8) rfl _ _ _) rfl fun w hw => ?_
  refine hw.optional (bump_reach (msk := 8) rfl _ _ _) rfl fun w hw => hw.optional (raise_reach (msk := 0x181) rfl _ _ _ _) rfl fun w hw => ?_
  refine hw.optional (raise_reach (msk := 0x181) rfl _ _ _ _) rfl fun w hw => ?_
  refine (hw.apart (ctxWrite_reach (msk := 0xBA9) rfl _ _ _ _) rfl).next fun _ w hw => ?_
  exact hw.optional (settleAll_reach (msk := 0x10FBA9) rfl _) rfl fun w hw => beginWrites_leads hw _

/-! ## A link goes down -/

/-- Every operation keeps the canonical form. -/
theorem M.Leads.canonical {m : M α} {P : α → State → Prop} (h : m.Leads s P) (hs : s.Canonical) :
    m.Leads s fun a t => P a t ∧ t.Canonical := by
  obtain ⟨a, t, hm, hP⟩ := h
  have hrun : (m >>= fun _ => (Pure.pure () : M Unit)).gives s () t := hm.bind (pure_gives () t)
  exact ⟨a, t, hm, hP, hrun.run ▸ canonical_run _ hs⟩

/-- Frames and the contexts' configuration are as before. -/
structure State.FramesKept (s t : State) : Prop where
  canonical : t.Canonical
  frames : ∀ x, (t.cam x).frames = (s.cam x).frames
  config : ∀ x, t.reg (camReg Reg.camCfg x) = s.reg (camReg Reg.camCfg x)

theorem State.FramesKept.camsOn (h : s.FramesKept t) (port : Nat) : t.camsOn port = s.camsOn port := by
  simp only [State.camsOn, State.camOn, State.camPort, State.flag, State.fld, h.config]

theorem State.FramesKept.openFrame (h : s.FramesKept t) (x : Nat) : t.openFrame x = s.openFrame x := by
  rw [State.openFrame, h.frames, State.openFrame]

/-- An update of the requests of contexts and of the registers that show them. -/
def Upd.Requests : Upd → Prop
  | .cams f => ∀ y x, (tblGet (f y).cams cam0 x).frames = (tblGet y.cams cam0 x).frames
  | .reg off _ => ∃ c, off = camReg Reg.camExpreqStatus c
  | _ => False

theorem Upd.Requests.apply {v : Upd} (hv : v.Requests) (h : s.FramesKept t) : s.FramesKept (v.apply t) := by
  cases v with
  | cams f => exact ⟨h.canonical, fun x => (hv t.cams x).trans (h.frames x), h.config⟩
  | reg off w =>
    obtain ⟨c, rfl⟩ := hv
    refine ⟨Upd.apply_canonical _ _ h.canonical, h.frames, fun x => ?_⟩
    rw [reg_apply h.canonical, if_neg (by simp only [camReg, Reg.camCfg, Reg.camExpreqStatus]; omega), h.config]
  | _ => exact hv.elim

theorem showReqs_requests (c : Nat) : M.All Upd.Requests (showReqs c) := by
  have hfld (f : Field) (v : Nat) : M.All Upd.Requests (wrFld (camReg Reg.camExpreqStatus c) f v) := .bind .getS fun _ => .update ⟨c, rfl⟩
  unfold showReqs
  refine .bind .getS fun s => ?_
  dsimp only
  split
  · exact .bind (hfld _ _) fun _ => .bind (hfld _ _) fun _ => hfld _ _
  · exact hfld _ _

theorem modReqs_requests (c : Nat) (g : ExpReq → ExpReq) : M.All Upd.Requests (modReqs c g) := by
  refine .bind (.update fun y x => ?_) fun _ => showReqs_requests c
  dsimp only
  by_cases hx : x = c
  · rw [hx, tblGet_tblSet_same]
  · rw [tblGet_tblSet _ _ _ hx]

theorem Steps.framesKept (h : Steps Upd.Requests s t) (hs : s.Canonical) : s.FramesKept t :=
  h.keeps (I := s.FramesKept) (fun _ _ hu ht => hu.apply ht) ⟨hs, fun _ => rfl, fun _ => rfl⟩

theorem closeFrame_leads_closed (c stamp : Nat) (noFe timeout lost : Bool) (s : State) :
    (closeFrame c stamp noFe timeout lost).Leads s fun _ t => t.openFrame c = none ∧ ∀ x, x ≠ c → t.cam x = s.cam x := by
  cases h : s.openFrame c with
  | none =>
    unfold closeFrame
    refine .getS ?_
    rw [h]
    exact .pure ⟨h, fun _ _ => rfl⟩
  | some f =>
    refine (closeFrame_leads h stamp noFe timeout lost).mono fun _ t ht => ?_
    obtain ⟨g, hg, hclosed⟩ := ht
    exact ⟨by rw [State.openFrame, hg.newest]; simp [hclosed.isOpen], hg.others⟩

/-- Of some contexts no frame is open, and each context has none open or is as before. -/
def State.AllClosed (l : List Nat) (s t : State) : Prop :=
  (∀ x ∈ l, t.openFrame x = none) ∧ ∀ x, t.openFrame x = none ∨ t.cam x = s.cam x

theorem closeAll_leads (stamp : Nat) (l : List Nat) (s : State) : (forIn l PUnit.unit fun c _ => do
      closeFrame c stamp false false true
      pure (.yield PUnit.unit) : M PUnit).Leads s fun _ t => s.AllClosed l t := by
  refine .forIn (P := fun c s t => t.openFrame c = none ∧ ∀ x, x ≠ c → t.cam x = s.cam x) (R := fun l s t => s.AllClosed l t)
    (fun s => ⟨nofun, fun _ => .inr rfl⟩) (fun x l s t u h k => ⟨fun y hy => ?_, fun y => ?_⟩) l
    (fun x _ s => .turn (closeFrame_leads_closed x _ _ _ _ s)) s
  · rcases List.mem_cons.mp hy with rfl | hy
    · exact (k.2 y).elim id fun hsame => by rw [State.openFrame, hsame]; exact h.1
    · exact k.1 y hy
  · rcases k.2 y with hk | hk
    · exact .inl hk
    · by_cases hyx : y = x
      · exact .inl (by rw [State.openFrame, hk, hyx]; exact h.1)
      · exact .inr (hk.trans (h.2 y hyx))

theorem loseFrames_leads (port stamp : Nat) (s : State) : (loseFrames port stamp).Leads s fun _ t => ∀ x ∈ s.camsOn port, t.openFrame x = none := by
  unfold loseFrames
  refine .getS ((closeAll_leads stamp _ s).next fun _ t ht => .pure fun x hx => ?_)
  by_cases ho : (s.openFrame x).isSome = true
  · exact ht.1 x (List.mem_filter.mpr ⟨hx, ho⟩)
  · rcases ht.2 x with h | h
    · exact h
    · have hnone : s.openFrame x = none := by simpa using ho
      rw [State.openFrame, h]
      exact hnone

/-- A link that goes down leaves no frame of its port open. -/
theorem linkDown_leads (hs : s.Canonical) (port reason : Nat) : (linkDown port reason).Leads s fun _ t =>
    t.fld (Reg.csiStatus port) Fld.csiStatusLink = 0 ∧ ∀ x ∈ s.camsOn port, t.openFrame x = none := by
  unfold linkDown
  refine .getS ?_
  have hreqs : M.All Upd.Requests (forIn (s.camsOn port) PUnit.unit fun c _ => do
      modReqs c fun r => if r.state = 1 then { r with state := 6 } else r
      pure (.yield PUnit.unit) : M PUnit) := .forIn _ _ _ fun _ _ => .bind (modReqs_requests _ _) fun _ => .pure _
  refine hreqs.leads_bind fun _ t ht => ?_
  have hkept := ht.framesKept hs
  refine ((loseFrames_leads port _ t).canonical hkept.canonical).next fun n u hu => ?_
  obtain ⟨hclosed, hcan⟩ := hu
  refine (wrFld_gives _ _ _ _).leads_bind ((raise_gives _ _ _ _ _).leads ⟨?_, fun x hx => ?_⟩)
  · rw [(State.afterEvent_quiet _ _ _ _ _).fld]
    exact State.fld_putFld_same hcan (by decide) (by decide)
  · rw [State.openFrame, State.cam, (State.afterEvent_quiet _ _ _ _ _).rest]
    exact hclosed x (hkept.camsOn port ▸ hx)

/-! ## Packets on a link that is up -/

theorem State.csiReceives_lt (h : s.csiReceives port = true) : port < 8 := by
  simp only [State.csiReceives, Bool.and_eq_true, decide_eq_true_eq] at h
  exact h.1.1

/-- A header on a link that is up is only noted. -/
theorem validHeader_gives (hup : s.csiUp port = true) : (validHeader port).gives s ()
    (s.withCsi port { s.csi port with lastPacket := s.clock.now }) := by
  unfold validHeader
  refine .getS_bind ((modCsi_gives _ _ _).bind (.ite_neg ?_ _ (pure_gives _ _)))
  simpa [State.csiUp] using hup

theorem State.noted (s : State) (port : Nat) :
    ((s.withCsi port { s.csi port with lastPacket := s.clock.now }).csi port).lastPacket = s.clock.now ∧
      ((s.withCsi port { s.csi port with lastPacket := s.clock.now }).csi port).jobs = (s.csi port).jobs := by
  rw [State.csi_withCsi]
  exact ⟨rfl, rfl⟩

theorem exec_packetReceive {vc dt header : Nat} {payload : List Byte} {ok : Bool} (hrec : s.csiReceives port = true) (hvc : vc < 16)
    (hlo : 2 ≤ dt) (hhi : dt < 64) (hheader : header ≤ 2) : exec (.packetReceive port vc dt payload header ok) s =
      .next (M.run (packetReceive port vc dt payload header ok) s) := by
  change execPacketReceive port vc dt payload header ok s = _
  exact whenEnabled_next (by simp [hrec, hvc, hlo, hhi, hheader])

/-- A good packet with a line of the context that its channel and type bind. -/
theorem packetReceive_leads_line {vc : Nat} {payload : List Byte} {P : State → Prop} (hup : s.csiUp port = true)
    (hof : s.camOf port vc = some c) (h2 : s.camDt c ≠ 2) (h3 : s.camDt c ≠ 3) (hemb : s.camDt c ≠ 0x12)
    (h : (imageLine c payload true).Leads (s.withCsi port { s.csi port with lastPacket := s.clock.now }) fun _ => P) :
    (packetReceive port vc (s.camDt c) payload 0 true).Leads s fun _ => P := by
  unfold packetReceive
  rw [if_neg (by decide), if_neg (by decide)]
  refine (validHeader_gives hup).leads_bind (.getS ?_)
  have hbound : ((s.withCsi port { s.csi port with lastPacket := s.clock.now }).camOf port vc).filter (fun x =>
      (s.withCsi port { s.csi port with lastPacket := s.clock.now }).camDt x == s.camDt c || (s.camDt c == 0x12 &&
        (s.withCsi port { s.csi port with lastPacket := s.clock.now }).flag (camReg Reg.camCfg x) Fld.camCfgEmbEn)) = some c := by
    change (s.camOf port vc).filter _ = _
    rw [hof, Option.filter_some, if_pos]
    simp only [Bool.or_eq_true, beq_iff_eq]
    exact .inl rfl
  have hup' : (s.withCsi port { s.csi port with lastPacket := s.clock.now }).csiUp port = true := hup
  dsimp only
  rw [if_neg (by simp [h2, h3]), hbound]
  dsimp only
  rw [if_neg (by simp), if_pos hup', if_neg hemb]
  exact h

/-- A line in time of an open memory-fed frame. -/
theorem imageLine_leads {payload : List Byte} (h : s.openFrame c = some f) (hd : f.dropped = false) (htime : s.clock.now ≤ f.deadline)
    (hroom : f.rx < s.camH c) (hmem : f.direct = false) : (imageLine c payload true).Leads s fun _ t => ∃ g, s.FrameAt c g t ∧
      g.rx = f.rx + 1 ∧ g.isOpen = true ∧ g.crc = f.crc ∧ g.lastLine = s.clock.now ∧
      g.valid = f.valid ++ [min (unpackLine (s.camBits c) payload).length (s.camW c)] ∧ g.num = f.num := by
  have ho : f.isOpen = true := (State.openFrame_eq_some_iff.mp h).2
  unfold imageLine
  refine .getS ?_
  rw [h]
  dsimp only
  rw [if_neg (by simp [hd]), if_neg (Nat.not_lt.mpr htime), if_neg (Nat.not_le.mpr hroom)]
  refine ((s.frameAt_of_openFrame h).storeLine ho _ _).next fun _ t ht => ?_
  obtain ⟨g, hg, hpad, -⟩ := ht
  refine (hg.modFrame _).next fun _ u hu => ?_
  rw [if_neg (by simp [hmem])]
  refine .pure ⟨_, hu, ?_⟩
  rw [hpad]
  exact ⟨rfl, ho, rfl, rfl, rfl, rfl⟩

theorem imageLine_leads_late {payload : List Byte} {ok : Bool} (h : s.openFrame c = some f) (hd : f.dropped = false)
    (hlate : f.deadline < s.clock.now) : (imageLine c payload ok).Leads s fun _ t => s.SameBut [.cams] t ∧
      s.FrameAt c { f with late := f.late + 1 } t := by
  unfold imageLine
  refine .getS ?_
  rw [h]
  dsimp only
  rw [if_neg (by simp [hd]), if_pos hlate]
  refine (modCam_gives c _ s).leads ⟨s.withCam_frame c _, ?_, fun x hx => s.cam_withCam_other _ hx⟩
  rw [State.cam_withCam]
  simp [(State.openFrame_eq_some_iff.mp h).1]

/-! ## The end of a frame, its timeout, and deskew -/

theorem run_frameEnd (hup : s.csiUp (s.camPort c) = true) : M.run (frameEnd c) s = M.run (match s.openFrame c with
    | some f => if s.clock.now ≤ f.deadline then closeFrame c s.clock.now false false false else pure ()
    | none => pure ()) (s.withCsi (s.camPort c) { s.csi (s.camPort c) with lastPacket := s.clock.now }) := by
  unfold frameEnd
  rw [run_getS_bind]
  refine ((validHeader_gives hup).run_bind _).trans ?_
  cases s.openFrame c <;> rfl

theorem exec_frameEnd (hc : c < 32) (hon : s.camOn c = true) (hrec : s.csiReceives (s.camPort c) = true) (fn : Nat) :
    exec (.frameEnd c fn) s = .next (M.run (frameEnd c) s) := by
  change execFrameEnd c fn s = _
  exact whenEnabled_next (by simp [hc, hon, hrec])

theorem run_frameTimeout (h : s.openFrame c = some f) : M.run (frameTimeout c) s = M.run (closeFrame c f.deadline false true false) s := by
  unfold frameTimeout
  rw [run_getS_bind, h]

theorem exec_deskew (hrec : s.csiReceives port = true) (hrate : 1500 < s.fld (Reg.csiCtl port) Fld.csiCtlRateMbps) (passed : Bool) :
    exec (.deskew port passed) s = .next (M.run (deskew port passed) s) := by
  change execDeskew port passed s = _
  exact whenEnabled_next (by simp [hrec, hrate])

theorem run_deskew (passed : Bool) : M.run (deskew port passed) s = M.run (
    if s.csiUp port then (if passed then pure () else linkDown port 1) else wrFld (Reg.csiStatus port) Fld.csiStatusLink 1)
      (s.putFld (Reg.csiStatus port) Fld.csiStatusDeskewOk (flagBit passed)) := rfl

/-! ## The start of a frame -/

/-- An operation run alone does what another one does from a state with a property. -/
def M.Then (m : M Unit) (s : State) (tail : M Unit) (Q : State → Prop) : Prop := ∃ u, Q u ∧ m.run s = tail.run u

section
variable {tail : M Unit} {Q : State → Prop}

theorem M.Then.here (h : Q s) : tail.Then s tail Q := ⟨s, h, rfl⟩

theorem M.Then.getS {k : State → M Unit} (h : (k s).Then s tail Q) : (getS >>= k).Then s tail Q := h

theorem M.Leads.andThen {m : M α} {k : α → M Unit} {P : α → State → Prop} (h : m.Leads s P) (hk : ∀ a t, P a t → (k a).Then t tail Q) :
    (m >>= k).Then s tail Q := by
  obtain ⟨a, t, hm, ha⟩ := h
  obtain ⟨u, hu, hrun⟩ := hk a t ha
  exact ⟨u, hu, (hm.run_bind k).trans hrun⟩

theorem completesThen_of_then {i : Instr} {m : M Unit} (hexec : exec i s = .next (m.run s)) (h : m.Then s tail Q) : CompletesThen i s tail Q := by
  obtain ⟨u, hu, hrun⟩ := h
  exact completesThen_of hu (hexec.trans (congrArg _ hrun))

end

/-- A frame of context `c` is about to start: the other contexts, the graphs and the timeout are as before. -/
structure State.Starting (s : State) (c : Nat) (t : State) : Prop where
  frame : s.SameBut [.mem, .regs, .sys, .tally, .cams] t
  canonical : t.Canonical
  others : ∀ x, x ≠ c → t.cam x = s.cam x
  graphs : t.tally.graphs = s.tally.graphs
  timeout : t.reg (camReg Reg.camTimeout c) = s.reg (camReg Reg.camTimeout c)

/-- The frame `num` of context `c` has started. -/
structure State.Started (s : State) (c num fn : Nat) (t : State) : Prop extends s.Starting c t where
  lastStart : (t.cam c).lastStart = some s.clock.now
  shown : t.fld (camReg Reg.camState c) Fld.camStateFrame = num
  shownOpen : t.fld (camReg Reg.camState c) Fld.camStateOpen = 1
  newest : ∃ f, (t.cam c).frames.getLast? = some f ∧ f.num = num ∧ f.capture = s.clock.now ∧ f.csiFn = fn % 65536 ∧ f.isOpen = true ∧ f.rx = 0 ∧
    f.filled = 0 ∧ f.deadline = s.clock.now + usUnits (s.fld (camReg Reg.camTimeout c) Fld.camTimeoutUs)

theorem State.Starting.refl (hs : s.Canonical) (c : Nat) : s.Starting c s := ⟨.refl _ s, hs, fun _ _ => rfl, rfl, rfl⟩

theorem Quiet.cams (h : Quiet s t) : t.cams = s.cams := by rw [h.rest]

theorem State.Starting.quiet (h : s.Starting c t) (hu : Quiet t u) (hcan : u.Canonical) : s.Starting c u where
  frame := h.frame.trans (hu.sameBut.mono (by decide))
  canonical := hcan
  others x hx := by rw [State.cam, hu.cams]; exact h.others x hx
  graphs := by rw [hu.rest]; exact h.graphs
  timeout := (hu.reg _).trans h.timeout

theorem State.Starting.reg (h : s.Starting c t) {off : Nat} (hoff : camReg Reg.camTimeout c ≠ off) (w : Word) :
    s.Starting c ((Upd.reg off w).apply t) where
  frame := h.frame.upd (.reg off w) rfl
  canonical := Upd.apply_canonical _ _ h.canonical
  others := h.others
  graphs := h.graphs
  timeout := by rw [reg_apply h.canonical, if_neg hoff, h.timeout]

theorem State.Starting.cam (h : s.Starting c t) (x : Cam) : s.Starting c (t.withCam c x) where
  frame := h.frame.trans ((t.withCam_frame c x).mono (by decide))
  canonical := Upd.apply_canonical _ _ h.canonical
  others y hy := (t.cam_withCam_other x hy).trans (h.others y hy)
  graphs := h.graphs
  timeout := h.timeout

/-- An update that leaves a frame about to start. -/
def Upd.Starts (s : State) (c : Nat) (v : Upd) : Prop := ∀ t, s.Starting c t → s.Starting c (v.apply t)

theorem EventUpd.starts {v : Upd} (hv : EventUpd v) : v.Starts s c := fun t h => h.quiet (hv t) (Upd.apply_canonical _ _ h.canonical)

theorem modCam_starts (g : Cam → Cam) : M.All (Upd.Starts s c) (modCam c g) := .update fun _ h => h.cam _

theorem wrFld_starts {off : Nat} (hoff : camReg Reg.camTimeout c ≠ off) (f : Field) (v : Nat) : M.All (Upd.Starts s c) (wrFld off f v) :=
  .bind .getS fun _ => .update fun _ h => h.reg hoff _

theorem raise_starts (src part code : Nat) (detail : List Byte) : M.All (Upd.Starts s c) (raise src part code detail) :=
  (raise_event _ _ _ _).mono fun _ => EventUpd.starts

theorem commitPage_starts (c num : Nat) : M.All (Upd.Starts s c) (commitPage c num) := by
  have hact : camReg Reg.camTimeout c ≠ camReg Reg.camParamActive c := by simp only [camReg, Reg.camTimeout, Reg.camParamActive]; omega
  have hst : camReg Reg.camTimeout c ≠ camReg Reg.camState c := by simp only [camReg, Reg.camTimeout, Reg.camState]; omega
  refine .bind .getS fun s => .ite ?_ (.ite (modCam_starts _) (.pure _))
  refine .bind (wrFld_starts hact _ _) fun _ => .bind (wrFld_starts hact _ _) fun _ => .bind (wrFld_starts hst _ _) fun _ => ?_
  exact .bind (wrFld_starts hst _ _) fun _ => .bind (modCam_starts _) fun _ => .ite (raise_starts _ _ _ _) (.pure _)

/-! ### Once the frame has started -/

variable {num fn : Nat}

theorem State.Started.quiet (h : s.Started c num fn t) (hu : Quiet t u) (hcan : u.Canonical) : s.Started c num fn u where
  toStarting := h.toStarting.quiet hu hcan
  lastStart := by rw [State.cam, hu.cams]; exact h.lastStart
  shown := (hu.fld _ _).trans h.shown
  shownOpen := (hu.fld _ _).trans h.shownOpen
  newest := by rw [State.cam, hu.cams]; exact h.newest

theorem State.Started.raise (h : s.Started c num fn t) (src part code : Nat) (detail : List Byte) :
    (Machine.raise src part code detail).Leads t fun _ => s.Started c num fn :=
  (raise_gives _ _ _ _ _).leads (h.quiet (State.afterEvent_quiet _ _ _ _ _) (canonical_run _ h.canonical))

/-- The context changes, but for its newest frame's place in time. -/
theorem State.Started.cam (h : s.Started c num fn t) (x : Cam) (hlast : x.lastStart = (t.cam c).lastStart)
    (hframes : x.frames = (t.cam c).frames) : s.Started c num fn (t.withCam c x) where
  toStarting := h.toStarting.cam x
  lastStart := by rw [State.cam_withCam, hlast, h.lastStart]
  shown := h.shown
  shownOpen := h.shownOpen
  newest := by rw [State.cam_withCam, hframes]; exact h.newest

theorem State.Started.reg (h : s.Started c num fn t) {off : Nat} (hoff : camReg Reg.camTimeout c ≠ off) (hst : camReg Reg.camState c ≠ off)
    (w : Word) : s.Started c num fn ((Upd.reg off w).apply t) where
  toStarting := h.toStarting.reg hoff w
  lastStart := h.lastStart
  shown := by rw [State.fld, reg_apply h.canonical, if_neg hst]; exact h.shown
  shownOpen := by rw [State.fld, reg_apply h.canonical, if_neg hst]; exact h.shownOpen
  newest := h.newest

theorem showReqs_started (s : State) (c num fn : Nat) :
    M.All (fun v => ∀ t, s.Started c num fn t → s.Started c num fn (v.apply t)) (showReqs c) := by
  have hfld (f : Field) (x : Nat) : M.All (fun v => ∀ t, s.Started c num fn t → s.Started c num fn (v.apply t))
      (wrFld (camReg Reg.camExpreqStatus c) f x) :=
    .bind .getS fun _ => .update fun _ h => h.reg (by simp only [camReg, Reg.camTimeout, Reg.camExpreqStatus]; omega)
      (by simp only [camReg, Reg.camState, Reg.camExpreqStatus]; omega) _
  unfold showReqs
  refine .bind .getS fun s => ?_
  dsimp only
  split
  · exact .bind (hfld _ _) fun _ => .bind (hfld _ _) fun _ => hfld _ _
  · exact hfld _ _

theorem State.Started.modReqs (h : s.Started c num fn t) (g : ExpReq → ExpReq) : (Machine.modReqs c g).Leads t fun _ => s.Started c num fn :=
  (modCam_gives _ _ _).leads_bind ((showReqs_started s c num fn).leads fun _ _ hu =>
    hu.keeps (I := s.Started c num fn) (fun _ _ hv ht => hv _ ht) (h.cam _ rfl rfl))

theorem State.Started.dropFrame (h : s.Started c num fn t) : (Machine.dropFrame c).Leads t fun _ => s.Started c num fn := by
  obtain ⟨f, hf, hnum, hcap, hfn, ho, hrx, hfill, hdead⟩ := h.newest
  unfold Machine.dropFrame
  refine .getS ?_
  rw [hf]
  refine (modCam_gives _ _ _).leads_bind (State.Started.raise ?_ _ _ _ _)
  exact {
    toStarting := h.toStarting.cam _
    lastStart := by rw [State.cam_withCam]; exact h.lastStart
    shown := h.shown
    shownOpen := h.shownOpen
    newest := by
      rw [State.cam_withCam]
      simp only [hf, Option.map_some, Option.toList_some, List.getLast?_append, List.getLast?_singleton, Option.some_or, Option.some.injEq,
        exists_eq_left', hnum, hcap, hfn, ho, hfill, hdead, and_self] }

/-- A new frame joins the newest ones, and the state register shows it. -/
theorem State.Starting.started (h : s.Starting c t) (hnum : num < 2 ^ 32) {x : Cam} (hstart : x.lastStart = some s.clock.now)
    (hx : ∃ f, x.frames.getLast? = some f ∧ f.num = num ∧ f.capture = s.clock.now ∧ f.csiFn = fn % 65536 ∧ f.isOpen = true ∧ f.rx = 0 ∧
      f.filled = 0 ∧ f.deadline = s.clock.now + usUnits (s.fld (camReg Reg.camTimeout c) Fld.camTimeoutUs)) :
    s.Started c num fn (((t.withCam c x).putFld (camReg Reg.camState c) Fld.camStateFrame num).putFld (camReg Reg.camState c)
      Fld.camStateOpen 1) := by
  have hst : camReg Reg.camTimeout c ≠ camReg Reg.camState c := by simp only [camReg, Reg.camTimeout, Reg.camState]; omega
  have hcan : (t.withCam c x).Canonical := Upd.apply_canonical _ _ h.canonical
  exact {
    toStarting := ((h.cam x).reg hst _).reg hst _
    lastStart := (congrArg Cam.lastStart (t.cam_withCam c x)).trans hstart
    shown := by
      rw [State.fld_putFld_apart (State.canonical_putFld hcan _ _ _) (by decide)]
      exact State.fld_putFld_same hcan (by decide) hnum
    shownOpen := State.fld_putFld_same (State.canonical_putFld hcan _ _ _) (by decide) (by decide)
    newest := by
      obtain ⟨f, hf, hrest⟩ := hx
      exact ⟨f, (congrArg (fun y : Cam => y.frames.getLast?) (t.cam_withCam c x)).trans hf, hrest⟩ }

theorem State.Starting.csi (h : s.Starting c t) (n : Nat) (p : CsiPort) : s.Starting c (t.withCsi n p) where
  frame := h.frame.trans ((t.withCsi_frame n p).mono (by decide))
  canonical := Upd.apply_canonical _ _ h.canonical
  others := h.others
  graphs := h.graphs
  timeout := h.timeout

theorem frameStart_then (hs : s.Canonical) (hup : s.csiUp (s.camPort c) = true) (hno : s.openFrame c = none) (fn : Nat)
    (hnum : num = (s.fld (camReg Reg.camState c) Fld.camStateFrame + 1) % 2 ^ 32) :
    (frameStart c fn).Then s (do for g in s.camGraphs c do let _ ← cadenceEvent g num s.clock.now 0) (s.Started c num fn) := by
  unfold frameStart
  refine .getS ((validHeader_gives hup).leads (P := fun _ t => t = _) rfl |>.andThen fun _ t ht => ?_)
  have hstart : s.Starting c t := ht ▸ (State.Starting.refl hs c).csi _ _
  have hfld : t.fld (camReg Reg.camState c) Fld.camStateFrame = s.fld (camReg Reg.camState c) Fld.camStateFrame := by rw [ht]; rfl
  have hnow : t.clock.now = s.clock.now := by rw [ht]; rfl
  clear ht
  rw [hno]
  refine .getS ?_
  rw [hfld, ← hnum, hnow]
  extract_lets now number act commit
  have hcommit : ∀ {u}, s.Starting c u → (commit ()).Then u (do for g in s.camGraphs c do let _ ← cadenceEvent g num s.clock.now 0) (s.Started c num fn) := by
    intro u hu
    dsimp -zeta only [commit]
    refine ((commitPage_starts c num).leads (P := fun _ => s.Starting c) fun _ _ hv =>
      hv.keeps (I := s.Starting c) (fun _ _ hv ht => hv _ ht) hu).andThen fun _ v hv => .getS ?_
    have hgraphs : v.camGraphs c = s.camGraphs c := by rw [State.camGraphs, hv.graphs, State.camGraphs]
    have htimeout : v.fld (camReg Reg.camTimeout c) Fld.camTimeoutUs = s.fld (camReg Reg.camTimeout c) Fld.camTimeoutUs := by
      rw [State.fld, hv.timeout, State.fld]
    rw [hgraphs, htimeout]
    extract_lets direct ring miss slot busy f kept last afterDrop afterMiss
    have hnewest : ((kept ++ [f]).drop (kept.length - 7)).getLast? = some f := by
      rw [List.getLast?_drop, if_neg (by simp), List.getLast?_append, List.getLast?_singleton, Option.some_or]
    have hlast : ∀ {w}, s.Started c num fn w → (last ()).Then w (last ()) (s.Started c num fn) := fun {w} hw => ⟨w, hw, rfl⟩
    have hdrop : ∀ {w}, s.Started c num fn w → (afterDrop ()).Then w (last ()) (s.Started c num fn) := by
      intro w hw
      dsimp only [afterDrop]
      split
      · exact (hw.modReqs _).andThen fun _ _ => hlast
      · exact hlast hw
    have hmiss : ∀ {w}, s.Started c num fn w → (afterMiss ()).Then w (last ()) (s.Started c num fn) := by
      intro w hw
      dsimp only [afterMiss]
      split
      · exact hw.dropFrame.andThen fun _ _ => hdrop
      · exact hdrop hw
    have hnumlt : num < 2 ^ 32 := hnum ▸ Nat.mod_lt _ (by decide)
    have hbegun := hv.started (num := num) (fn := fn) (x := { v.cam c with frames := (kept ++ [f]).drop (kept.length - 7), lastStart := some now })
      hnumlt rfl ⟨f, hnewest, rfl, rfl, rfl, rfl, rfl, rfl, rfl⟩
    refine ((modCam_gives _ _ _).leads (P := fun _ x => x = _) rfl).andThen fun _ x hx => ?_
    subst hx
    refine ((wrFld_gives _ _ _ _).leads (P := fun _ x => x = _) rfl).andThen fun _ x hx => ?_
    subst hx
    refine ((wrFld_gives _ _ _ _).leads (P := fun _ x => s.Started c num fn x) hbegun).andThen fun _ w hw => ?_
    split
    · exact (hw.raise _ _ _ _).andThen fun _ _ => hmiss
    · exact hmiss hw
  split
  · split
    · exact ((raise_starts _ _ _ _).leads (P := fun _ => s.Starting c) fun _ _ hv =>
        hv.keeps (I := s.Starting c) (fun _ _ hv ht => hv _ ht) hstart).andThen fun _ _ => hcommit
    · exact hcommit hstart
  · exact hcommit hstart

theorem exec_frameStart (hc : c < 32) (hon : s.camOn c = true) (hrec : s.csiReceives (s.camPort c) = true)
    (hup : s.csiUp (s.camPort c) = true) (fn : Nat) : exec (.frameStart c fn) s = .next (M.run (frameStart c fn) s) := by
  change execFrameStart c fn s = _
  exact whenEnabled_next (by simp [hc, hon, hrec, hup])

theorem exec_csiLinkLoss (hp : port < 8) (hup : s.csiUp port = true)
    (hold : (s.csi port).lastPacket + usUnits (s.fld (Reg.csiLoss port) Fld.csiLossUs) ≤ s.clock.now) :
    exec (.csiLinkLoss port) s = .next (M.run (linkDown port 0) s) := by
  change execCsiLinkLoss port s = _
  exact whenEnabled_next (by simp [hp, hup, hold])

end

/-- Settles O40: the newest frame of a context is followed through what its start, its lines and its close do. -/
theorem framesOpenCollectLinesAndClose : Obligations.FramesOpenCollectLinesAndClose := by
  refine fun s c hs hc => ⟨fun fn hon hrec hup hno => ?_, fun vc payload f hon hrec hup hof hvc hlo hhi h2 h3 hemb hf hd =>
    ⟨fun htime hroom hmem => ?_, fun hlate => ?_⟩, fun p vc dt payload ok hrec hvc hlo hhi => ?_, fun fn hon hrec hup =>
    ⟨fun f hf htime => ?_, fun hlate => ?_⟩, fun f hf => ⟨fun hold => ?_, fun hearly => ?_, fun stamp a b l => ?_⟩, fun hno => ?_,
    fun p hp hup => ⟨fun hold => ?_, fun hearly => ?_⟩, fun p hrec hrate => ⟨fun passed hdown => ?_, fun hup => ?_⟩⟩
  · refine completesThen_of_then (exec_frameStart hc hon hrec hup fn) ?_
    obtain ⟨u, hu, hrun⟩ := frameStart_then hs hup hno fn rfl
    exact ⟨u, ⟨hu.frame, hu.others, hu.lastStart, hu.shown, hu.shownOpen, hu.newest.imp fun f hf => by tauto⟩, hrun⟩
  · have hexec := exec_packetReceive (payload := payload) (ok := true) hrec hvc hlo hhi (Nat.zero_le 2)
    obtain ⟨g, hg, hrest⟩ := (packetReceive_leads_line hup hof h2 h3 hemb
      (imageLine_leads (s := s.withCsi _ _) (payload := payload) hf hd htime hroom hmem)).run
    obtain ⟨hrx, hopen, hcrc, hlast, hvalid, hnum⟩ := hrest
    exact ⟨_, g, hexec, (exec_reach hexec).sameBut _ (reachOf_parts _), hg.others, hg.newest, hrx, hopen, hcrc, hlast, hvalid, hnum⟩
  · have hexec := exec_packetReceive (payload := payload) (ok := true) hrec hvc hlo hhi (Nat.zero_le 2)
    obtain ⟨hframe, hg⟩ := (packetReceive_leads_line hup hof h2 h3 hemb
      (imageLine_leads_late (s := s.withCsi _ _) (payload := payload) hf hd hlate)).run
    exact ⟨_, hexec, (s.withCsi_frame _ _).trans hframe, hg.others, hg.newest⟩
  · have hrun : M.run (packetReceive p vc dt payload 2 ok) s = M.run (bump (Reg.csiErr p) Fld.csiErrHdrDrop 1) s := rfl
    exact ⟨_, (exec_packetReceive hrec hvc hlo hhi (Nat.le_refl 2)).trans (congrArg _ (hrun.trans (bump_gives _ _ _ _).run)),
      s.sameBut_putFld _ _ _, State.oneField_putFld hs _ _ _⟩
  · refine completesThen_of (u := s.withCsi (s.camPort c) { s.csi (s.camPort c) with lastPacket := s.clock.now })
      ⟨s.withCsi_frame _ _, s.noted _, fun _ => rfl⟩ ?_
    rw [exec_frameEnd hc hon hrec, run_frameEnd hup, hf]
    dsimp only
    rw [if_pos htime]
  · refine ⟨s.withCsi (s.camPort c) { s.csi (s.camPort c) with lastPacket := s.clock.now }, ?_, s.withCsi_frame _ _,
      s.noted _, fun _ => rfl⟩
    rw [exec_frameEnd hc hon hrec, run_frameEnd hup]
    cases hf : s.openFrame c with
    | none => rfl
    | some f =>
      dsimp only
      rw [if_neg (Nat.not_le.mpr (hlate f hf))]
      rfl
  · refine completesThen_of rfl ?_
    rw [← run_frameTimeout hf]
    change execFrameTimeout c s = _
    exact whenEnabled_next (by rw [hf]; exact decide_eq_true hold)
  · change execFrameTimeout c s = _
    exact whenEnabled_refused (by rw [hf]; exact decide_eq_false (Nat.not_le.mpr hearly))
  · obtain ⟨g, hg, hclosed⟩ := (closeFrame_leads hf stamp a b l).run
    exact ⟨g, hg.newest, hclosed.isOpen, hclosed.closed, hclosed.num, hclosed.rx, hclosed.filled⟩
  · change execFrameTimeout c s = _
    exact whenEnabled_refused (by rw [hno])
  · have hexec := exec_csiLinkLoss hp hup hold
    obtain ⟨hlink, hclosed⟩ := (linkDown_leads hs p 0).run
    exact ⟨_, hexec, (exec_reach hexec).sameBut _ (reachOf_parts _), hlink, hclosed⟩
  · change execCsiLinkLoss p s = _
    exact whenEnabled_refused (by simp [hearly])
  · refine ⟨(s.putFld (Reg.csiStatus p) Fld.csiStatusDeskewOk (flagBit passed)).putFld (Reg.csiStatus p) Fld.csiStatusLink 1, ?_,
      ((State.SameBut.refl _ s).putFld (by decide) _ _ _).putFld (by decide) _ _ _, ?_, ?_, fun x hx => ?_⟩
    · rw [exec_deskew hrec hrate, run_deskew, if_neg (by simp [hdown])]
      rfl
    · rw [State.fld_putFld_apart (State.canonical_putFld hs _ _ _) (by decide)]
      exact State.fld_putFld_same hs (by decide) (by cases passed <;> decide)
    · exact State.fld_putFld_same (State.canonical_putFld hs _ _ _) (by decide) (by decide)
    · rw [State.reg_putFld (State.canonical_putFld hs _ _ _), if_neg hx, State.reg_putFld hs, if_neg hx]
  · refine completesThen_of (u := s.putFld (Reg.csiStatus p) Fld.csiStatusDeskewOk 0) ⟨s.sameBut_putFld _ _ _, State.oneField_putFld hs _ _ _⟩ ?_
    rw [exec_deskew hrec hrate, run_deskew, if_pos hup, if_neg (by decide)]
    rfl

end Sys2Proof.Machine
end

section
/-! PROOFS. Resets end in service, in a higher rung or in bivouac: O46 (R465, R471, R474, R478). -/

namespace Sys2Proof.Machine

open Sys2Proof

variable {s t : State} {key : Nat} {r : Reset}

theorem rcvEvent_gives (sc : Scope) (code : Nat) (detail : List (Nat × Nat)) (s : State) :
    (rcvEvent sc code detail).gives s () (s.afterEvent 0x81 sc.partCode code (det detail)) := raise_gives _ _ _ _ s

/-! ## Reports -/

/-- The state after the report of a reset was written: `bytes` stand at its place and RCV_REPORT names it. -/
def State.reported (s : State) (r : Reset) (bytes : List Byte) : State :=
  (Upd.reg Reg.rcvReport (BitVec.ofNat 64 r.seq)).apply ((Upd.mem (reportAddr r.seq) bytes).apply s)

theorem writeReport_gives (r : Reset) (outcome : Nat) (s : State) :
    ∃ bytes, (writeReport r outcome).gives s () (s.reported r bytes) := ⟨_, fun _ => rfl⟩

theorem State.sameBut_reported (s : State) (r : Reset) (bytes : List Byte) : s.SameBut [.mem, .regs] (s.reported r bytes) :=
  ((State.SameBut.refl _ s).upd _ rfl).upd _ rfl

theorem State.reg_reported (hs : s.Canonical) (r : Reset) (bytes : List Byte) (x : Nat) :
    (s.reported r bytes).reg x = if x = Reg.rcvReport then BitVec.ofNat 64 r.seq else s.reg x :=
  reg_apply (Upd.apply_canonical _ _ hs) _ _ _

/-! ## The configuration restored -/

/-- An update that leaves open which engines are being reset as it was. -/
def Upd.KeepsResetting (u : Upd) : Prop := ∀ s x, ((u.apply s).engine x).resetting = (s.engine x).resetting

theorem wrFld_keepsResetting (off : Nat) (f : Field) (v : Nat) : M.All Upd.KeepsResetting (wrFld off f v) :=
  .bind .getS fun _ => .update fun _ _ => rfl

theorem modEngine_keepsResetting {f : Engine → Engine} (e : Nat) (hf : ∀ g, (f g).resetting = g.resetting) :
    M.All Upd.KeepsResetting (modEngine e f) :=
  .update fun t x => by
    change ((t.withEngine e (f (t.engine e))).engine x).resetting = _
    rw [State.engine_withEngine]
    split
    · next h => rw [hf, h]
    · rfl

theorem restoreRegs_keepsResetting (saved : Tbl Word) : M.All Upd.KeepsResetting (restoreRegs saved) := by
  refine .bind (.forIn _ _ _ fun p _ => ?_) fun _ => .pure _
  refine .ite ?_ (.pure _)
  split
  · exact .pure _
  · refine .bind (.forIn _ _ _ fun f _ => ?_) fun _ => .ite (.bind (modEngine_keepsResetting _ fun _ => rfl) fun _ => .pure _) (.pure _)
    dsimp only
    split
    · exact .ite (.bind (wrFld_keepsResetting _ _ _) fun _ => .pure _) (.pure _)
    · exact .bind (wrFld_keepsResetting _ _ _) fun _ => .pure _
    · exact .pure _

theorem restoreRegs_leads (hs : s.Canonical) (saved : Tbl Word) : (restoreRegs saved).Leads s fun _ t =>
    t.Canonical ∧ t.rcv = s.rcv ∧ ∀ x, (t.engine x).resetting = (s.engine x).resetting := by
  have hrun := (restoreRegs_keepsResetting saved).gives_run s
  refine hrun.leads ⟨canonical_run _ hs, Reaches.rcv ((restoreRegs_reach (msk := 0x208) rfl saved).run_steps s) rfl, fun x => ?_⟩
  exact ((restoreRegs_keepsResetting saved).run_steps s).keeps (I := fun u => (u.engine x).resetting = (s.engine x).resetting)
    (fun u v hu hv => (hu v x).trans hv) rfl

/-! ## A reset forgotten once its report was written -/

/-- The report of a reset was written and is named in RCV_REPORT. -/
structure State.Reporting (s : State) (r : Reset) (t : State) : Prop where
  canonical : t.Canonical
  rcv : t.rcv = s.rcv
  engines : t.engines = s.engines
  reg : ∀ x, t.reg x = if x = Reg.rcvReport then BitVec.ofNat 64 r.seq else s.reg x
  frame : s.SameBut [.mem, .regs, .sys, .tally] t

theorem State.Reporting.report (h : s.Reporting r t) : t.reg Reg.rcvReport = BitVec.ofNat 64 r.seq := (h.reg _).trans (if_pos rfl)

theorem report_leads (hs : s.Canonical) (r : Reset) (src part code : Nat) (detail : List Byte) (outcome : Nat) :
    (do raise src part code detail; writeReport r outcome : M Unit).Leads s fun _ => s.Reporting r := by
  have hq := s.afterEvent_quiet src part code detail
  have hu : (s.afterEvent src part code detail).Canonical := canonical_run _ hs
  obtain ⟨bytes, hgives⟩ := writeReport_gives r outcome (s.afterEvent src part code detail)
  have hrcv : (s.afterEvent src part code detail).rcv = s.rcv := by rw [hq.rest]
  have hengines : (s.afterEvent src part code detail).engines = s.engines := by rw [hq.rest]
  exact (raise_gives _ _ _ _ _).leads_bind (hgives.leads ⟨Upd.apply_canonical _ _ (Upd.apply_canonical _ _ hu), hrcv, hengines,
    fun x => by rw [State.reg_reported hu, hq.reg],
    (hq.sameBut.mono (by decide)).trans ((State.sameBut_reported _ r bytes).mono (by decide))⟩)

theorem report_then (hs : s.Canonical) {sc : Scope} {code outcome : Nat} {detail : List (Nat × Nat)} {f : Unit → M Unit} {tail : M Unit}
    {Q : State → Prop} (h : ∀ t, s.Reporting r t → (f ()).Then t tail Q) :
    (rcvEvent sc code detail >>= fun _ => writeReport r outcome >>= f).Then s tail Q :=
  (report_leads hs r 0x81 sc.partCode code (det detail) outcome).andThen fun _ t ht => h t ht

/-- A reset is forgotten, its fence lifted, its report named, and every other reset is as before. -/
structure State.Lifted (s : State) (key : Nat) (r : Reset) (t : State) : Prop where
  resets : tblFind t.rcv.resets key = none
  fences : tblFind t.rcv.fences key = none
  report : t.reg Reg.rcvReport = BitVec.ofNat 64 r.seq
  others : ∀ x, x ≠ key → tblFind t.rcv.resets x = tblFind s.rcv.resets x

theorem State.Keyed.lifted (hk : s.Keyed) (hresets : t.rcv.resets = tblDel s.rcv.resets key) (hfences : t.rcv.fences = tblDel s.rcv.fences key)
    (hreport : t.reg Reg.rcvReport = BitVec.ofNat 64 r.seq) : s.Lifted key r t := by
  refine ⟨?_, ?_, hreport, fun x hx => ?_⟩
  · rw [hresets, tblFind_tblDel hk.resets, if_pos rfl]
  · rw [hfences, tblFind_tblDel hk.fences, if_pos rfl]
  · rw [hresets, tblFind_tblDel hk.resets, if_neg hx]

theorem M.Then.upd {u : Upd} {f : Unit → M Unit} {tail : M Unit} {Q : State → Prop} (h : (f ()).Then (u.apply s) tail Q) :
    (update u >>= f).Then s tail Q := h

/-! ## RESET_COMPLETE -/

/-- The commands that hold a reset's record forget it once its report was written, whatever else of recovery they note. -/
theorem State.Keyed.lifted_of_reporting (hk : s.Keyed) {u : State} {f : Recovery → Recovery} (ht : u.Reporting r t)
    (hresets : u.rcv.resets = s.rcv.resets) (hfences : u.rcv.fences = s.rcv.fences)
    (hf : ∀ x, (f x).resets = tblDel x.resets key) (hg : ∀ x, (f x).fences = tblDel x.fences key) :
    s.Lifted key r ((Upd.rcv f).apply t) :=
  hk.lifted ((hf t.rcv).trans (by rw [ht.rcv, hresets])) ((hg t.rcv).trans (by rw [ht.rcv, hfences])) ht.report

theorem resetComplete_then_engine (hs : s.Canonical) (hk : s.Keyed) (hr : tblFind s.rcv.resets key = some r) {e : Nat}
    (he : r.toScope = .engine e) : (resetComplete key).Then s (do
      drivePins
      resumeFenceHolds key
      presenceChanged) fun u => s.Lifted key r u ∧ (u.engine e).resetting = false := by
  unfold resetComplete
  refine .getS ?_
  rw [hr]
  simp only [he, reduceCtorEq, or_self, false_and, and_false, if_false]
  refine (restoreRegs_leads hs r.saved).andThen fun _ u ⟨hu, hrcv, hresetting⟩ => .upd ?_
  refine report_then (Upd.apply_canonical _ _ hu) fun t ht => .upd ?_
  have hlifted : s.Lifted key r ((Upd.rcv fun x => { x with
      resets := tblDel x.resets key, fences := tblDel x.fences key, replayDue := x.replayDue || decide False }).apply t) :=
    hk.lifted_of_reporting ht (congrArg Recovery.resets hrcv) (congrArg Recovery.fences hrcv) (fun _ => rfl) fun _ => rfl
  have hengine : (t.engine e).resetting = (s.engine e).resetting := by
    rw [State.engine, ht.engines]
    exact hresetting e
  simp only [List.forIn_cons, List.forIn_nil]
  by_cases h : (s.engine e).resetting = true
  · rw [if_pos h]
    refine .upd (.here ⟨⟨hlifted.resets, hlifted.fences, hlifted.report, hlifted.others⟩, ?_⟩)
    exact congrArg Engine.resetting ((State.engine_withEngine _ e _ e).trans (if_pos rfl))
  · rw [if_neg h]
    exact .here ⟨hlifted, hengine.trans (Bool.eq_false_iff.mpr h)⟩

theorem resetComplete_then_bcc (hs : s.Canonical) (hk : s.Keyed) (hr : tblFind s.rcv.resets key = some r) (hbcc : r.toScope = .bcc)
    (hfull : s.privLimit ≤ s.privCount) : (resetComplete key).Then s (do
      enterBivouac
      presenceChanged) fun u => s.Lifted key r u ∧ u.rcv.privEmmc = s.rcv.priv := by
  unfold resetComplete
  refine .getS ?_
  rw [hr]
  simp only [hbcc, reduceCtorEq, or_true, true_or, true_and, hfull, and_false, if_false, if_true]
  refine (restoreRegs_leads hs r.saved).andThen fun _ u ⟨hu, hrcv, _⟩ => .upd ?_
  refine report_then (Upd.apply_canonical _ _ hu) fun t ht => .upd ?_
  have hresets : u.rcv.resets = s.rcv.resets := by rw [hrcv]
  have hfences : u.rcv.fences = s.rcv.fences := by rw [hrcv]
  refine .here ⟨hk.lifted_of_reporting ht hresets hfences (fun _ => rfl) fun _ => rfl, ?_⟩
  change t.rcv.privEmmc = _
  rw [ht.rcv]
  exact congrArg Recovery.priv hrcv

theorem exec_resetComplete (h : s.resetReady key = true) : exec (.resetComplete key) s = .next (M.run (resetComplete key) s) := by
  change execResetComplete key s = _
  exact whenEnabled_next h

/-! ## RUNG_LIMIT_EXPIRY -/

/-- What the end of a reset past its limit leaves: the reset is dropped, its report named. -/
def State.Dropped (s : State) (key : Nat) (r : Reset) (u : State) : Prop :=
  tblFind u.rcv.resets key = none ∧ tblFind u.rcv.fences key = none ∧ u.reg Reg.rcvReport = BitVec.ofNat 64 r.seq ∧
    s.SameBut [.mem, .regs, .sys, .tally, .rcv] u

theorem rungLimitExpiry_then (hs : s.Canonical) (hk : s.Keyed) (hr : tblFind s.rcv.resets key = some r) :
    (rungLimitExpiry key).Then s (if r.toScope = .die then requestPowerCycle 1 r.cause r.trigger 4 true
      else trigger r.toScope.enclosing r.cause r.trigger r.toScope.rung false) (s.Dropped key r) := by
  unfold rungLimitExpiry
  refine .getS ?_
  rw [hr]
  refine report_then hs fun t ht => .upd (.here ?_)
  have hlifted : s.Lifted key r ((Upd.rcv fun x => { x with resets := tblDel x.resets key, fences := tblDel x.fences key }).apply t) :=
    hk.lifted_of_reporting ht rfl rfl (fun _ => rfl) fun _ => rfl
  exact ⟨hlifted.resets, hlifted.fences, hlifted.report, (ht.frame.mono (by decide)).upd _ rfl⟩

theorem exec_rungLimitExpiry (hr : tblFind s.rcv.resets key = some r) (h : r.trigger + r.toScope.limit + settleMargin ≤ s.clock.now) :
    exec (.rungLimitExpiry key) s = .next (M.run (rungLimitExpiry key) s) := by
  change execRungLimitExpiry key s = _
  exact whenEnabled_next (by simp only [hr, decide_eq_true_eq, h])

/-! ## POWER_CYCLE_REQUEST -/

/-- What a request of a power cycle leaves (R474). -/
structure State.PowerCycled (s : State) (reason : Nat) (byBcc : Bool) (t : State) : Prop where
  frame : s.SameBut [.mem, .regs, .sys, .tally, .rcv, .pins] t
  pins : t.pins = { s.pins with pcycReqN := false, trayAlertN := false, safeN := false }
  rcv : t.rcv = { s.rcv with
    reason := reason
    requestAt := s.clock.now
    recorded := s.rcv.recorded || byBcc
    nextReport := (s.rcv.nextReport + 1) % 2 ^ 32 }
  reg : ∀ x, t.reg x = if x = Reg.rcvReport then BitVec.ofNat 64 s.rcv.nextReport else s.reg x

theorem requestPowerCycle_leads (hs : s.Canonical) (reason cause stamp cameFrom : Nat) (byBcc : Bool) :
    (requestPowerCycle reason cause stamp cameFrom byBcc).Leads s fun _ => s.PowerCycled reason byBcc := by
  unfold requestPowerCycle
  refine .getS (.upd (.upd ?_))
  refine (report_leads (Upd.apply_canonical _ _ (Upd.apply_canonical _ _ hs)) _ _ _ _ _ _).mono fun _ t ht => ?_
  exact ⟨(((State.SameBut.refl _ s).upd _ rfl).upd _ rfl).trans (ht.frame.mono (by decide)), ht.frame.2 .pins (by decide), ht.rcv, ht.reg⟩

/-- Settles O46: a reset that is ready writes its report, lifts its fence and is forgotten; one past its limit is dropped for the enclosing
scope; a power cycle is asked for with its report. -/
theorem resetsEndInServiceAHigherRungOrBivouac : Obligations.ResetsEndInServiceAHigherRungOrBivouac := by
  unfold Obligations.ResetsEndInServiceAHigherRungOrBivouac
  intro s hs hk
  refine ⟨fun key r hr hready => ⟨fun e he => ?_, fun hbcc hfull => ?_⟩, fun key hready => ?_,
    fun key r hr => ⟨fun hold hdie => ?_, fun hold hdie => ?_, fun hearly => ?_⟩, fun reason hlo hhi => ?_⟩
  · obtain ⟨u, ⟨hu, hres⟩, hrun⟩ := resetComplete_then_engine hs hk hr he
    exact completesThen_of_then (exec_resetComplete hready) ⟨u, ⟨⟨hu.resets, hu.fences, hu.report, hu.others⟩, hres⟩, hrun⟩
  · obtain ⟨u, ⟨hu, hpriv⟩, hrun⟩ := resetComplete_then_bcc hs hk hr hbcc hfull
    exact completesThen_of_then (exec_resetComplete hready) ⟨u, ⟨⟨hu.resets, hu.fences, hu.report, hu.others⟩, hpriv⟩, hrun⟩
  · change execResetComplete key s = _
    exact whenEnabled_refused hready
  · refine completesThen_of_then (exec_rungLimitExpiry hr hold) ?_
    have := rungLimitExpiry_then hs hk hr
    rwa [if_neg hdie] at this
  · refine completesThen_of_then (exec_rungLimitExpiry hr hold) ?_
    have := rungLimitExpiry_then hs hk hr
    rwa [if_pos hdie] at this
  · change execRungLimitExpiry key s = _
    exact whenEnabled_refused (by simp only [hr, decide_eq_false_iff_not, Nat.not_le, hearly])
  · have h := (requestPowerCycle_leads hs reason 0 s.clock.now 0 (reason != 2)).run
    refine ⟨_, ?_, h.frame, h.pins, h.rcv, h.reg⟩
    change execPowerCycleRequest reason s = _
    exact whenEnabled_next (by simp [hlo, hhi])

end Sys2Proof.Machine
end

section
/-! PROOFS. Resets fence their scope before they are asserted: O45 (R461, R464, R469). -/

namespace Sys2Proof.Machine

open Sys2Proof

/-! ## Tables and memory with entries removed or changed -/

theorem tblFind_filter {α : Type} (p : Nat → Bool) (t : Tbl α) (i : Nat) :
    tblFind (t.filter fun c => p c.1) i = if p i then tblFind t i else none := by
  induction t with
  | nil => simp [tblFind]
  | cons x t ih =>
    obtain ⟨k, v⟩ := x
    by_cases hk : p k = true
    · rw [List.filter_cons_of_pos (by simpa using hk)]
      by_cases hi : k = i
      · subst hi
        simp [tblFind, hk]
      · simp only [tblFind, if_neg hi, ih]
    · rw [List.filter_cons_of_neg (by simpa using hk), ih]
      by_cases hi : k = i
      · rw [← hi, if_neg hk, if_neg hk]
      · simp only [tblFind, if_neg hi]

theorem memGet_filter (p : Nat → Bool) (m : List Host.Cell) (a : Nat) :
    memGet (m.filter fun c => p c.1) a = if p a then memGet m a else memDefault := by
  induction m with
  | nil => simp [memGet]
  | cons x m ih =>
    obtain ⟨k, v⟩ := x
    by_cases hk : p k = true
    · rw [List.filter_cons_of_pos (by simpa using hk)]
      by_cases hi : k = a
      · subst hi
        simp [memGet, hk]
      · simp only [memGet, if_neg hi, ih]
    · rw [List.filter_cons_of_neg (by simpa using hk), ih]
      by_cases hi : k = a
      · rw [← hi, if_neg hk, if_neg hk]
      · simp only [memGet, if_neg hi]

/-- A table in which the value of one key is changed, if it has one. -/
theorem tblFind_map_at {α : Type} (t : Tbl α) (k : Nat) (f : α → α) (i : Nat) :
    tblFind (t.map fun p => if p.1 = k then (p.1, f p.2) else p) i = if i = k then (tblFind t i).map f else tblFind t i := by
  induction t with
  | nil => simp [tblFind]
  | cons x t ih =>
    obtain ⟨j, v⟩ := x
    by_cases hj : j = k
    · by_cases hi : j = i
      · simp [tblFind, hj, ← hi]
      · simp only [List.map_cons, tblFind, if_pos hj, if_neg hi, ih]
    · by_cases hi : j = i
      · simp [tblFind, ← hi, hj]
      · simp only [List.map_cons, tblFind, if_neg hj, if_neg hi, ih]

theorem State.place_eq_rom_iff (s : State) (a off : Nat) : s.place a = .rom off ↔
    s.sys.holes.any (fun h => h.1 ≤ a && a < h.1 + h.2) = false ∧ 0x7FF0000000 ≤ a ∧ a < 0x7FF0040000 ∧ a - 0x7FF0000000 = off := by
  unfold State.place
  have hregs : regSpace + 0x400000 ≤ 0x7FF0000000 := by decide
  constructor
  · intro h
    split at h
    · cases h
    · next hhole =>
      refine ⟨Bool.eq_false_iff.mpr hhole, ?_⟩
      dsimp only at h
      split_ifs at h
      next hlo => exact ⟨hlo.1, hlo.2, Place.rom.inj h⟩
  · rintro ⟨hhole, hlo, hhi, rfl⟩
    rw [if_neg (Bool.eq_false_iff.mp hhole), if_neg (by omega), if_neg (by omega), if_neg (by omega), if_neg (by omega), if_neg (by omega),
      if_pos ⟨hlo, hhi⟩]

/-- A byte is read from the system cache, else from the ROM or from memory, wherever staging banks stand. -/
theorem State.byteAt_of_mem {s t : State} (hholes : t.sys.holes = s.sys.holes) (hcache : t.sys.cache = s.sys.cache) {a : Nat}
    (hmem : memGet t.mem a = memGet s.mem a) : t.byteAt a = s.byteAt a := by
  have hrom : ∀ off, t.place a = .rom off ↔ s.place a = .rom off := fun off => by
    rw [State.place_eq_rom_iff, State.place_eq_rom_iff, hholes]
  unfold State.byteAt
  rw [hcache, hmem]
  cases tblFind s.sys.cache (a / 64) with
  | some l => rfl
  | none =>
    dsimp only
    split
    · next off h => rw [(hrom off).mp h]
    · next h =>
      split
      · next off h' => exact absurd ((hrom off).mpr h') (h off)
      · rfl

/-! ## The reset of a tile -/

section
variable {s : State} {e : Nat}

/-- The state that notes when the reset of a scope is asserted, with the registers it will restore. -/
def State.asserting (s : State) (sc : Scope) : State :=
  (Upd.rcv fun x => { x with resets := x.resets.map fun p =>
    if p.1 = sc.key then (p.1, { p.2 with assertedAt := s.clock.now, saved := s.regsIn sc.pages }) else p }).apply s

/-- The state after the reset of tile `e` was asserted (R469): its SRAM and its register page are cleared, its engine is warm. -/
def State.tileReset (s : State) (e : Nat) : State :=
  ((Upd.regClear ((0x80 + e) * 0x1000) ((0x80 + e + 1) * 0x1000)).apply
    ((Upd.memClear (0x4000000000 + e * 0x800000) (0x4000000000 + e * 0x800000 + 0x400000)).apply (s.asserting (.engine e)))).withEngine e
    { engine0 with
      bypassed := (s.engine e).bypassed
      failed := (s.engine e).failed
      testing := (s.engine e).testing
      resetting := (s.engine e).resetting
      power := .warm
      since := s.clock.now
      beat := s.clock.now
      reserved := (s.engine e).reserved }

theorem run_assertReset_tile (s : State) (he : e < 0x20) : M.run (assertReset (.engine e)) s = s.tileReset e := by
  have hchan : channelsOf e = [] := by
    rw [channelsOf, if_neg (by omega), if_neg (by omega)]
  change M.run (resetEngine e) (s.asserting (.engine e)) = _
  unfold resetEngine
  rw [run_getS_bind]
  simp only [if_pos he, hchan, if_neg (show ¬ (0x40 ≤ e ∧ e < 0x80) by omega), if_neg (show ¬ (0xA8 ≤ e ∧ e ≤ 0xAF) by omega),
    if_neg (show e ≠ 0xB1 by omega), if_neg (show e ≠ 0x31 by omega), if_neg (show e ≠ 0x35 by omega), enginePages, List.forIn_nil]
  rfl

theorem State.reg_regClear (s : State) (lo hi x : Nat) :
    ((Upd.regClear lo hi).apply s).reg x = if lo ≤ x ∧ x < hi then regReset x else s.reg x := by
  have := tblFind_filter (fun k => k < lo || hi ≤ k) s.regs x
  change (tblFind (s.regs.filter fun c => c.1 < lo || hi ≤ c.1) x).getD (regReset x) = _
  rw [this]
  by_cases h : lo ≤ x ∧ x < hi
  · rw [if_neg (by simp; omega), if_pos h]
    rfl
  · rw [if_pos (by simp; omega), if_neg h]
    rfl

theorem State.sys_tileReset (s : State) (e : Nat) : (s.tileReset e).sys = s.sys := rfl

theorem State.reg_tileReset (s : State) (e : Nat) (x : Nat) :
    (s.tileReset e).reg x = if x / 0x1000 = 0x80 + e then regReset x else s.reg x := by
  refine (State.reg_regClear _ _ _ x).trans ?_
  by_cases h : x / 0x1000 = 0x80 + e
  · rw [if_pos (by omega), if_pos h]
  · rw [if_neg (by omega), if_neg h]
    rfl

theorem State.memGet_tileReset (s : State) (e : Nat) (a : Nat) :
    memGet (s.tileReset e).mem a =
      if 0x4000000000 + e * 0x800000 ≤ a ∧ a < 0x4000000000 + e * 0x800000 + 0x400000 then 0#8 else memGet s.mem a := by
  refine (memGet_filter (fun k => k < 0x4000000000 + e * 0x800000 || 0x4000000000 + e * 0x800000 + 0x400000 ≤ k) s.mem a).trans ?_
  by_cases h : 0x4000000000 + e * 0x800000 ≤ a ∧ a < 0x4000000000 + e * 0x800000 + 0x400000
  · rw [if_neg (by simp; omega), if_pos h, memDefault]
  · rw [if_pos (by simp; omega), if_neg h]

theorem State.byteAt_tileReset_inside {a : Nat} (he : e < 0x20) (hlo : 0x4000000000 + e * 0x800000 ≤ a)
    (hhi : a < 0x4000000000 + e * 0x800000 + 0x400000) (hc : tblFind s.sys.cache (a / 64) = none) :
    (s.tileReset e).byteAt a = 0#8 := by
  rw [State.byteAt_of_uncached (s := s.tileReset e) hc fun off h => by
    have := (State.place_eq_rom_iff _ _ _).mp h
    omega, State.memGet_tileReset, if_pos ⟨hlo, hhi⟩]

theorem State.byteAt_tileReset_outside {a : Nat}
    (ha : a < 0x4000000000 + e * 0x800000 ∨ 0x4000000000 + e * 0x800000 + 0x400000 ≤ a) :
    (s.tileReset e).byteAt a = s.byteAt a := by
  have hmem : memGet (s.tileReset e).mem a = memGet s.mem a := by rw [State.memGet_tileReset, if_neg (by omega)]
  exact State.byteAt_of_mem (by rw [s.sys_tileReset]) (by rw [s.sys_tileReset]) hmem

end

end Sys2Proof.Machine
end

section
/-! PROOFS. Resets begin: the trigger that nothing absorbs, for each scope; O45 (R461, R464–R467). -/

namespace Sys2Proof.Machine

open Sys2Proof

variable {s t : State} {sc : Scope}

/-! ## Triggers -/

theorem trigger_leads_of_takes (h : takesTrigger s sc) (hsc : sc ≠ .package) {cause stamp cameFrom : Nat} {z : Bool}
    {Q : Unit → State → Prop} (hbegin : (beginReset sc cause stamp cameFrom z).Leads s Q) : (trigger sc cause stamp cameFrom z).Leads s Q := by
  obtain ⟨hresets, hunit, hcount⟩ := h
  have habsorb : s.testAbsorbs sc = false := by rw [State.testAbsorbs, hunit]
  have hclimb : (climb 4 sc cameFrom).gives s (sc, cameFrom) s := fun k => by
    unfold climb
    exact M.gives.getS_bind (M.gives.ite_pos (.inr hcount) _ (pure_gives _ _)) k
  unfold trigger
  refine .getS ?_
  simp only [habsorb, hresets, List.any_nil, Bool.or_self, Bool.false_eq_true, if_false]
  refine hclimb.leads_bind (.getS ?_)
  simp only [hresets, List.any_nil, Bool.false_eq_true, if_false, hsc]
  have htake : (takeOver sc).gives s () s := by
    unfold takeOver
    refine M.gives.getS_bind ?_
    rw [hresets]
    exact pure_gives _ _
  exact htake.leads_bind hbegin

theorem run_trigger_absorbed {p : Nat × Reset} (hp : p ∈ s.rcv.resets) (hsc : p.2.toScope = sc) (cause stamp cameFrom : Nat) (z : Bool) :
    M.run (trigger sc cause stamp cameFrom z) s = s := by
  unfold trigger
  rw [run_getS_bind, if_pos]
  · rfl
  · rw [Bool.or_eq_true, List.any_eq_true]
    exact .inr ⟨p, hp, by rw [hsc]; simp⟩

/-! ## The record and the fence of a reset -/

/-- A record of a reset that begins now. -/
structure State.Records (s : State) (sc : Scope) (r : Reset) : Prop where
  scope : r.toScope = sc
  rung : r.rung = sc.rung
  trigger : r.trigger = s.clock.now
  fencedAt : r.fencedAt = s.clock.now
  seq : r.seq = s.rcv.nextReport
  assertedAt : r.assertedAt = 0

/-- What recovery holds once a reset has begun. -/
def State.begun (s : State) (sc : Scope) (drained : Option Nat) (r : Reset) : Recovery :=
  { s.rcv with
    nextReport := (s.rcv.nextReport + 1) % 2 ^ 32
    fences := tblSet s.rcv.fences sc.key ⟨s.clock.now, drained, 0, 0⟩
    resets := tblSet s.rcv.resets sc.key r
    history := s.rcv.history ++ [(sc.key, sc.rung, s.clock.now)] }

theorem State.Records.began {r : Reset} {drained : Option Nat} {rest : Tbl Reset} (h : s.Records sc r)
    (hfences : t.rcv.fences = tblSet s.rcv.fences sc.key ⟨s.clock.now, drained, 0, 0⟩) (hresets : t.rcv.resets = tblSet rest sc.key r)
    (hnext : t.rcv.nextReport = (s.rcv.nextReport + 1) % 2 ^ 32)
    (hhistory : t.rcv.history = s.rcv.history ++ [(sc.key, sc.rung, s.clock.now)]) : BeganReset s sc drained t :=
  ⟨by rw [hfences, tblFind_tblSet_same], ⟨r, by rw [hresets, tblFind_tblSet_same], h.scope, h.rung, h.trigger, h.fencedAt, h.seq, h.assertedAt⟩,
    hnext, hhistory⟩

/-- The state in which the fence and the record of a reset stand. -/
def State.withBegun (s : State) (sc : Scope) (drained : Option Nat) (r : Reset) : State := (Upd.rcv fun _ => s.begun sc drained r).apply s

theorem begun_leads {r : Reset} {drained : Option Nat} {code : Nat} {detail : List (Nat × Nat)} {f : Unit → M Unit} {Q : Unit → State → Prop}
    (h : ∀ v, Quiet (s.withBegun sc drained r) v → (f ()).Leads v Q) :
    (update (.rcv fun x => { x with
      nextReport := (s.rcv.nextReport + 1) % 2 ^ 32
      fences := tblSet x.fences sc.key ⟨s.clock.now, drained, 0, 0⟩
      resets := tblSet x.resets sc.key r
      history := x.history ++ [(sc.key, sc.rung, s.clock.now)] }) >>= fun _ => rcvEvent sc code detail >>= f).Leads s Q :=
  .upd ((rcvEvent_gives _ _ _ _).leads_bind (h _ (State.afterEvent_quiet (s.withBegun sc drained r) _ _ _ _)))

theorem Quiet.rcv (h : Quiet s t) : t.rcv = s.rcv := by rw [h.rest]
theorem Quiet.engines (h : Quiet s t) : t.engines = s.engines := by rw [h.rest]
theorem Quiet.task (h : Quiet s t) (n : Nat) : t.task n = s.task n := by
  have : t.tally.tasks = s.tally.tasks := by rw [h.rest]
  rw [State.task, this, State.task]

/-- Tasks at an engine are what its stalls and save areas hold. -/
theorem State.tasksAt_congr (h : ∀ x, (t.engine x).running = (s.engine x).running ∧ (t.engine x).next = (s.engine x).next ∧
    (t.engine x).saved = (s.engine x).saved) (e : Nat) : t.tasksAt e = s.tasksAt e := by
  unfold State.tasksAt
  simp only [h]

theorem Quiet.tasksAt (h : Quiet s t) (e : Nat) : t.tasksAt e = s.tasksAt e :=
  State.tasksAt_congr (fun x => by simp only [State.engine, h.engines, and_self]) e

/-! ## Rung 1 -/

theorem endOnEngine_gives_none {e h : Nat} (hnone : ∀ n ∈ s.tasksAt e, ∀ k, s.task n = some k → k.handle ≠ h) (status : Nat) :
    (endOnEngine e h status).gives s 0 s := by
  unfold endOnEngine
  refine M.gives.getS_bind ?_
  have hempty : ((s.tasksAt e).filter fun t => ((s.task t).map fun k => k.handle == h).getD false) = [] := by
    rw [List.filter_eq_nil_iff]
    intro n hn
    cases ht : s.task n with
    | none => simp
    | some k => simpa using hnone n hn k ht
  rw [hempty]
  exact pure_gives _ _

theorem beginReset_leads_ctxEngine {e h : Nat} (hnone : ∀ n ∈ s.tasksAt e, ∀ k, s.task n = some k → k.handle ≠ h) (cause src : Nat) :
    (beginReset (.ctxEngine e h) cause s.clock.now src false).Leads s fun _ => BeganReset s (.ctxEngine e h) none := by
  unfold beginReset
  rw [if_neg nofun, if_neg nofun]
  refine .getS (begun_leads fun v hv => ?_)
  have hgives : (endOnEngine e h 4).gives v 0 v := endOnEngine_gives_none (fun n hn k hk => by
    rw [hv.tasksAt] at hn
    rw [hv.task] at hk
    exact hnone n hn k hk) 4
  refine hgives.leads_bind ((update_gives _ _).leads ?_)
  exact State.Records.began ⟨rfl, rfl, rfl, rfl, rfl, rfl⟩ (congrArg Recovery.fences hv.rcv) rfl (congrArg Recovery.nextReport hv.rcv)
    (congrArg Recovery.history hv.rcv)

/-! ## Rungs 2 and 3 -/

theorem interruptEngines_gives_none {es : List Nat} (hnone : ∀ e ∈ es, s.tasksAt e = []) (dom : Nat) :
    (interruptEngines es dom).gives s (0, 0) s := by
  have hloop : ∀ (f : Nat → Nat × Nat → M (ForInStep (Nat × Nat))) (b : Nat × Nat),
      (∀ e ∈ es, ∀ b, (f e b).gives s (.yield b) s) → (forIn es b f).gives s b s := by
    intro f b hf
    clear hnone
    induction es with
    | nil => exact pure_gives _ _
    | cons e es ih =>
      rw [List.forIn_cons]
      exact (hf e List.mem_cons_self b).bind (ih fun x hx => hf x (List.mem_cons_of_mem e hx))
  unfold interruptEngines
  dsimp only
  refine (hloop _ _ fun e he b => ?_).bind (pure_gives _ _)
  refine M.gives.getS_bind ?_
  rw [hnone e he]
  exact pure_gives _ _

/-- The tasks at each engine are as before, so is recovery but for what one update will write, and some engines are marked as resetting. -/
structure State.Resetting (s : State) (es : List Nat) (t : State) : Prop where
  rcv : t.rcv = s.rcv
  tasks : ∀ x, t.tasksAt x = s.tasksAt x
  marked : ∀ e ∈ es, (t.engine e).resetting = true
  kept : ∀ e, (s.engine e).resetting = true → (t.engine e).resetting = true

theorem State.Resetting.trans {a b : List Nat} {u : State} (h : s.Resetting a t) (k : t.Resetting b u) : s.Resetting (a ++ b) u :=
  ⟨k.rcv.trans h.rcv, fun x => (k.tasks x).trans (h.tasks x),
    fun e he => (List.mem_append.mp he).elim (fun ha => k.kept e (h.marked e ha)) (k.marked e), fun e he => k.kept e (h.kept e he)⟩

theorem resetting_turn (s : State) (e : Nat) {f : Unit → M β} {Q : β → State → Prop}
    (h : ∀ t, s.Resetting [e] t → (f ()).Leads t Q) :
    (modEngine e (fun g => { g with resetting := true }) >>= fun _ => drainDma e >>= f).Leads s Q := by
  refine (modEngine_gives _ _ _).leads_bind (.bind (((drainDma_reach (msk := 0x408) rfl e)).leads fun _ t (ht : Reaches 0x408 _ t) => h t ?_))
  have hengines := Reaches.engines ht rfl
  have hengine (x : Nat) : t.engine x = if x = e then { s.engine e with resetting := true } else s.engine x := by
    rw [State.engine, hengines]
    exact State.engine_withEngine s e _ x
  refine ⟨(Reaches.rcv (n := 0x408) ht rfl).trans rfl, fun x => State.tasksAt_congr (fun y => ?_) x, fun x hx => ?_, fun x hx => ?_⟩
  · rw [hengine]
    split
    · next hy => exact hy ▸ ⟨rfl, rfl, rfl⟩
    · exact ⟨rfl, rfl, rfl⟩
  · rw [hengine, if_pos (List.mem_singleton.mp hx)]
  · rw [hengine]
    split
    · rfl
    · exact hx

theorem beginReset_leads_engine {e : Nat} (hnone : s.tasksAt e = []) (cause src : Nat) :
    (beginReset (.engine e) cause s.clock.now src false).Leads s fun _ t => BeganReset s (.engine e) none t ∧ (t.engine e).resetting = true := by
  unfold beginReset
  rw [if_neg nofun, if_neg nofun]
  refine .getS (begun_leads fun v hv => resetting_turn v e fun u hu => ?_)
  have hgives : (interruptEngines [e] (Scope.engine e).key).gives u (0, 0) u := interruptEngines_gives_none (fun x hx => by
    rw [List.mem_singleton.mp hx, hu.tasks, hv.tasksAt]
    exact hnone) _
  refine hgives.leads_bind ((update_gives _ _).leads ?_)
  have hrcv := hu.rcv.trans hv.rcv
  exact ⟨State.Records.began ⟨rfl, rfl, rfl, rfl, rfl, rfl⟩ (congrArg Recovery.fences hrcv) rfl (congrArg Recovery.nextReport hrcv)
    (congrArg Recovery.history hrcv), hu.marked e List.mem_cons_self⟩

theorem beginReset_leads_part {p : Nat} (hp : p < 4) (hnone : ∀ e ∈ enginesIn p, s.tasksAt e = []) (cause src : Nat) :
    (beginReset (.part p) cause s.clock.now src false).Leads s fun _ t =>
      BeganReset s (.part p) none t ∧ ∀ e ∈ enginesIn p, (t.engine e).resetting = true := by
  unfold beginReset
  rw [if_neg (by simp; omega), if_neg (by simp; omega)]
  refine .getS (begun_leads fun v hv => ?_)
  refine M.Leads.next (M.Leads.forIn (P := fun e s t => s.Resetting [e] t) (R := fun l s t => s.Resetting l t)
    (fun s => ⟨rfl, fun _ => rfl, nofun, fun _ h => h⟩) (fun e l a b c h k => h.trans k) _
    (fun e _ a => resetting_turn a e (Q := fun r t => r = ForInStep.yield PUnit.unit ∧ a.Resetting [e] t) fun b hb => .pure ⟨rfl, hb⟩) v) fun _ u hu => ?_
  have hgives : (interruptEngines (enginesIn p) (Scope.part p).key).gives u (0, 0) u := interruptEngines_gives_none (fun x hx => by
    rw [hu.tasks, hv.tasksAt]
    exact hnone x hx) _
  refine hgives.leads_bind ?_
  dsimp only
  rw [if_pos hp]
  refine (selfRefresh_reach (msk := 8) rfl p).leads_bind fun _ w (hw : Reaches 8 u w) => (update_gives _ _).leads ?_
  have hrcv := (Reaches.rcv hw rfl).trans (hu.rcv.trans hv.rcv)
  refine ⟨State.Records.began ⟨rfl, rfl, rfl, rfl, rfl, rfl⟩ (congrArg Recovery.fences hrcv) rfl (congrArg Recovery.nextReport hrcv)
    (congrArg Recovery.history hrcv), fun e he => ?_⟩
  have hengine : w.engine e = u.engine e := by rw [State.engine, Reaches.engines hw rfl, State.engine]
  exact (congrArg Engine.resetting hengine).trans (hu.marked e he)

/-! ## Rung 4 -/

theorem beginReset_leads_die (hresets : s.rcv.resets = []) (hunit : s.bist.unit = none) (cause src : Nat) (zeroDrain : Bool) :
    (beginReset .die cause s.clock.now src zeroDrain).Leads s fun _ t =>
      BeganReset s .die (if zeroDrain then some s.clock.now else none) t ∧ t.pins = { s.pins with safeN := false, trayAlertN := false } ∧
        t.rcvRung = 4 ∧ t.rcv.resetInLow = s.rcv.resetInLow := by
  unfold beginReset
  rw [if_neg nofun, if_neg nofun]
  refine .getS (begun_leads fun v hv => ?_)
  rw [hunit]
  dsimp only
  refine (sendResetNotices_reach (msk := 0x2000) rfl).leads_bind fun _ w hw => .getS ?_
  have hback : M.All (Upd.In 0x81) (forIn (List.range 4) PUnit.unit fun q (_ : PUnit) =>
      (writeBackHome q >>= fun _ => Pure.pure (.yield PUnit.unit) : M (ForInStep PUnit))) :=
    .forIn _ _ _ fun _ _ => .bind (writeBackHome_reach rfl _) fun _ => .pure _
  have hrefresh : M.All (Upd.In 0x8) (forIn (List.range 4) PUnit.unit fun q (_ : PUnit) =>
      (selfRefresh q >>= fun _ => Pure.pure (.yield PUnit.unit) : M (ForInStep PUnit))) :=
    .forIn _ _ _ fun _ _ => .bind (selfRefresh_reach rfl _) fun _ => .pure _
  refine hback.leads_bind fun _ x hx => hrefresh.leads_bind fun _ y hy => .upd ((update_gives _ _).leads ?_)
  have hrcv : y.rcv = s.begun .die _ _ := (Reaches.rcv hy rfl).trans ((Reaches.rcv hx rfl).trans ((Reaches.rcv hw rfl).trans hv.rcv))
  have hpins : y.pins = s.pins := (Reaches.pins hy rfl).trans ((Reaches.pins hx rfl).trans ((Reaches.pins hw rfl).trans (by rw [hv.rest]; rfl)))
  refine ⟨State.Records.began ⟨rfl, rfl, rfl, rfl, rfl, rfl⟩ (congrArg Recovery.fences hrcv) rfl (congrArg Recovery.nextReport hrcv)
    (congrArg Recovery.history hrcv), congrArg (fun x : Pins => { x with safeN := false, trayAlertN := false }) hpins, ?_,
    (congrArg Recovery.resetInLow hrcv :)⟩
  change (tblSet y.rcv.resets _ _).foldl _ 0 = 4
  rw [hrcv, State.begun, hresets]
  rfl

theorem State.safeLow_of_rung (h : s.rcvRung = 4) : s.safeLow = true := by
  rw [State.safeLow, h]
  simp

/-- A reset of the die that begins, and the pins driven after it (R464, R474). -/
theorem dieTrigger_leads (h : takesTrigger s .die) (cause : Nat) (zeroDrain : Bool) :
    (do trigger .die cause s.clock.now 0 zeroDrain; drivePins : M Unit).Leads s fun _ t =>
      BeganReset s .die (if zeroDrain then some s.clock.now else none) t ∧ t.rcv.resetInLow = s.rcv.resetInLow ∧
        t.pins = { s.pins with safeN := false, trayAlertN := false } := by
  refine M.Leads.next (trigger_leads_of_takes h nofun (beginReset_leads_die h.1 h.2.1 cause 0 zeroDrain)) fun _ t ht => ?_
  obtain ⟨hbegan, hpins, hrung, hlow⟩ := ht
  refine .getS ((update_gives _ _).leads ⟨hbegan, hlow, ?_⟩)
  change ({ t.pins with safeN := !t.safeLow } : Pins) = _
  rw [State.safeLow_of_rung hrung, hpins]
  rfl

/-! ## The end of a drain -/

section
variable {dom : Nat}

/-- The state in which the drain of a fence has ended now. -/
def State.drainEnded (s : State) (dom : Nat) : State :=
  (Upd.rcv fun x => { x with fences := x.fences.map fun p =>
    if p.1 = dom then (p.1, { p.2 with drained := some s.clock.now }) else p }).apply s

theorem State.fences_drainEnded (s : State) (dom x : Nat) : tblFind (s.drainEnded dom).rcv.fences x =
    if x = dom then (tblFind s.rcv.fences x).map fun f => { f with drained := some s.clock.now } else tblFind s.rcv.fences x :=
  tblFind_map_at _ _ (fun f : Fence => { f with drained := some s.clock.now }) _

theorem run_drainEnds_some {r : Reset} (hr : tblFind s.rcv.resets dom = some r) :
    M.run (drainEnds dom) s = M.run (assertReset r.toScope) (s.drainEnded dom) := by
  unfold drainEnds
  rw [run_getS_bind, hr]
  rfl

theorem run_drainEnds_none (hr : tblFind s.rcv.resets dom = none) (hunit : s.bist.unit = none) : M.run (drainEnds dom) s = s.drainEnded dom := by
  unfold drainEnds
  rw [run_getS_bind, hr, hunit]
  rfl

theorem exec_fenceDrainEnd (hd : s.draining dom = true) : exec (.fenceDrainEnd dom) s = .next (M.run (drainEnds dom) s) := by
  change execFenceDrainEnd dom s = _
  exact whenEnabled_next hd

theorem exec_fenceDrainDeclaration {f : Fence} (hd : s.draining dom = true) (hf : s.fence dom = some f)
    (hold : f.stamp + usUnits 50 + settleMargin ≤ s.clock.now) :
    exec (.fenceDrainDeclaration dom) s = .next (M.run (drainEnds dom) s) := by
  change execFenceDrainDeclaration dom s = _
  exact whenEnabled_next (by simp only [hd, hf, Option.map_some, Option.getD_some, hold, decide_true, Bool.and_true])

end

/-- Settles O45: a trigger that nothing absorbs raises its scope's fence and records it; the end of the drain asserts the reset, and that
of a tile clears its SRAM and its registers alone. -/
theorem resetsFenceTheirScopeBeforeAssertion : Obligations.ResetsFenceTheirScopeBeforeAssertion := by
  unfold Obligations.ResetsFenceTheirScopeBeforeAssertion
  intro s hs hk
  refine ⟨fun e h hkind htakes hnone => ?_, fun e htarget htakes hnone => ?_, fun e p htarget hp hsc => ?_, fun p hp htakes hnone => ?_,
    fun cause htakes => ?_, fun dom hd => ⟨?_, ?_⟩, fun dom f c hf hd hc => ?_, fun dom f hf hearly => ?_, fun e sram he hsram hcache => ?_⟩
  · have hexec : exec (.rung1Reset e h) s = .next (M.run (trigger (.ctxEngine e h) 0 s.clock.now 0 false) s) := by
      change execRung1Reset e h s = _
      exact whenEnabled_next (decide_eq_true hkind)
    exact ⟨_, hexec, (exec_reach hexec).sameBut _ (reachOf_parts _),
      (trigger_leads_of_takes htakes nofun (beginReset_leads_ctxEngine hnone 0 0)).run⟩
  · have hexec : exec (.rung2Reset e) s = .next (M.run (trigger (.engine e) 0 s.clock.now 0 false) s) := by
      change execRung2Reset e s = _
      exact whenEnabled_next htarget
    obtain ⟨hbegan, hresetting⟩ := (trigger_leads_of_takes htakes nofun (beginReset_leads_engine hnone 0 0)).run
    exact ⟨_, hexec, (exec_reach hexec).sameBut _ (reachOf_parts _), hbegan, hresetting⟩
  · change execRung2Reset e s = _
    exact (whenEnabled_next htarget).trans (congrArg _ (run_trigger_absorbed hp hsc 0 s.clock.now 0 false))
  · have hscope : partScope p = .part p := if_neg (by omega)
    have hexec : exec (.rung3Reset p) s = .next (M.run (trigger (.part p) 0 s.clock.now 0 false) s) := by
      change execRung3Reset p s = _
      rw [← hscope]
      exact whenEnabled_next (decide_eq_true (by omega))
    obtain ⟨hbegan, hresetting⟩ := (trigger_leads_of_takes htakes nofun (beginReset_leads_part hp hnone 0 0)).run
    exact ⟨_, hexec, (exec_reach hexec).sameBut _ (reachOf_parts _), hbegan, hresetting⟩
  · have hexec : exec (.chipReset cause) s = .next (M.run (do trigger .die cause s.clock.now 0 false; drivePins) s) := rfl
    obtain ⟨hbegan, -, hpins⟩ := (dieTrigger_leads htakes cause false).run
    exact ⟨_, hexec, (exec_reach hexec).sameBut _ (reachOf_parts _), hbegan, congrArg Pins.safeN hpins, congrArg Pins.trayAlertN hpins⟩
  · change execFenceDrainEnd dom s = _
    exact whenEnabled_refused hd
  · change execFenceDrainDeclaration dom s = _
    exact whenEnabled_refused (by rw [hd, Bool.false_and])
  · have hexec : exec c s = .next (M.run (drainEnds dom) s) := by
      obtain rfl | ⟨rfl, hold⟩ := hc
      · exact exec_fenceDrainEnd hd
      · exact exec_fenceDrainDeclaration hd hf hold
    have hended : s.SameBut [.rcv] (s.drainEnded dom) ∧ (s.drainEnded dom).rcv = { s.rcv with fences := (s.drainEnded dom).rcv.fences } ∧
        tblFind (s.drainEnded dom).rcv.fences dom = some { f with drained := some s.clock.now } ∧
        ∀ x, x ≠ dom → tblFind (s.drainEnded dom).rcv.fences x = tblFind s.rcv.fences x := by
      refine ⟨Upd.sameBut_of _ s, rfl, ?_, fun x hx => ?_⟩
      · rw [State.fences_drainEnded, if_pos rfl, show tblFind s.rcv.fences dom = some f from hf]
        rfl
      · rw [State.fences_drainEnded, if_neg hx]
    refine ⟨fun r hr => completesThen_of hended (hexec.trans (congrArg _ (run_drainEnds_some hr))), fun hr hunit => ?_⟩
    exact ⟨_, hexec.trans (congrArg _ (run_drainEnds_none hr hunit)), hended⟩
  · change execFenceDrainDeclaration dom s = _
    exact whenEnabled_refused (by simp only [hf, Option.map_some, Option.getD_some, Nat.not_le.mpr hearly, decide_false, Bool.and_false])
  · subst hsram
    rw [run_assertReset_tile s he]
    refine ⟨fun a hlo hhi => State.byteAt_tileReset_inside he hlo hhi (hcache a hlo hhi), fun a ha => State.byteAt_tileReset_outside ha,
      s.reg_tileReset e, (State.engine_withEngine _ _ _ _).trans (if_pos rfl), fun x hx => (State.engine_withEngine _ _ _ _).trans (if_neg hx)⟩

end Sys2Proof.Machine
end

section
/-! PROOFS. Watchdogs, the reset pin, the tray controller, replay and ledger copies: O47 (R161, R165, R459, R460, R472–R475). -/

namespace Sys2Proof.Machine

open Sys2Proof

variable {s t : State}

/-! ## Restarts of a block -/

theorem Quiet.takesTrigger {sc : Scope} (h : Quiet s t) (hs : takesTrigger s sc) : takesTrigger t sc := by
  obtain ⟨hresets, hunit, hcount⟩ := hs
  have hbist : t.bist = s.bist := by rw [h.rest]
  refine ⟨by rw [h.rcv, hresets], by rw [hbist, hunit], ?_⟩
  rw [State.resetCount, h.fld, h.fld, h.rcv, h.clock]
  exact hcount

/-- What began after an event was raised began at the same stamp under the same number. -/
theorem Quiet.beganReset {u : State} {sc : Scope} {d : Option Nat} (h : Quiet s t) (hu : BeganReset t sc d u) : BeganReset s sc d u := by
  unfold BeganReset at hu ⊢
  rwa [h.clock, h.rcv] at hu

/-- The reset of a block outside the ladder (R472) changes recovery alone, but for its event, and counts as privileged. -/
theorem beginReset_leads_block {sc : Scope} (hsc : sc = .bcc ∨ sc = .sec) (cause : Nat) :
    (beginReset sc cause s.clock.now 0 false).Leads s fun _ t => BeganReset s sc none t ∧ s.SameBut [.mem, .sys, .tally, .rcv] t ∧
      t.rcv.priv = s.rcv.priv ++ [s.clock.now] := by
  have hpart (p : Nat) : sc ≠ .part p := by rcases hsc with rfl | rfl <;> exact nofun
  unfold beginReset
  rw [if_neg (hpart 4), if_neg (hpart 5)]
  have hlast {r : Reset} {v : State} (hr : s.Records sc r) (hv : Quiet (s.withBegun sc none r) v) :
      (update (.rcv fun x => { x with priv := x.priv ++ [s.clock.now] })).Leads v fun _ t => BeganReset s sc none t ∧
        s.SameBut [.mem, .sys, .tally, .rcv] t ∧ t.rcv.priv = s.rcv.priv ++ [s.clock.now] := by
    refine (update_gives _ _).leads ⟨hr.began (congrArg Recovery.fences hv.rcv :) (congrArg Recovery.resets hv.rcv :)
      (congrArg Recovery.nextReport hv.rcv :) (congrArg Recovery.history hv.rcv :), ?_,
      (congrArg (fun x : Recovery => x.priv ++ [s.clock.now]) hv.rcv :)⟩
    exact (((Upd.sameBut_of (ps := [.mem, .sys, .tally, .rcv]) (.rcv fun _ => s.begun sc none r) s).trans
      (hv.sameBut.mono (by decide))).upd _ rfl)
  rcases hsc with rfl | rfl
  · exact .getS (begun_leads fun v hv => hlast ⟨rfl, rfl, rfl, rfl, rfl, rfl⟩ hv)
  · exact .getS (begun_leads fun v hv => hlast ⟨rfl, rfl, rfl, rfl, rfl, rfl⟩ hv)

theorem restartBlock_leads {sc : Scope} (hsc : sc = .bcc ∨ sc = .sec) (hresets : s.rcv.resets = []) (cause : Nat) :
    (restartBlock sc cause).Leads s fun _ t => BeganReset s sc none t ∧ s.SameBut [.mem, .sys, .tally, .rcv] t ∧
      t.rcv.priv = s.rcv.priv ++ [s.clock.now] := by
  unfold restartBlock
  refine .getS ?_
  rw [hresets]
  exact beginReset_leads_block hsc cause

/-! ## Watchdogs -/

theorem bccWatchdogExpiry_leads (hresets : s.rcv.resets = []) (hupdate : s.sec.update = none) :
    bccWatchdogExpiry.Leads s fun _ t => s.SameBut [.mem, .sys, .tally, .rcv] t ∧ BeganReset s .bcc none t ∧ t.rcv.kickAt = s.clock.now ∧
      t.rcv.priv = s.rcv.priv ++ [s.clock.now] := by
  unfold bccWatchdogExpiry
  have hq := s.afterEvent_quiet 0x81 6 0x5202 (det [(1, 0)])
  refine .getS ((raise_gives _ _ _ _ _).leads_bind ?_)
  have hrevert : (revertUpdate 0).gives (s.afterEvent 0x81 6 0x5202 (det [(1, 0)])) () (s.afterEvent 0x81 6 0x5202 (det [(1, 0)])) := by
    unfold revertUpdate
    refine M.gives.getS_bind ?_
    have : (s.afterEvent 0x81 6 0x5202 (det [(1, 0)])).sec.update = none := by rw [hq.rest]; exact hupdate
    rw [this]
    exact pure_gives _ _
  refine hrevert.leads_bind (M.Leads.next (restartBlock_leads (.inl rfl) (by rw [hq.rcv, hresets]) _) fun _ t ht => (update_gives _ _).leads ?_)
  obtain ⟨hbegan, hframe, hpriv⟩ := ht
  refine ⟨((hq.sameBut.mono (by decide)).trans hframe).upd _ rfl, hq.beganReset hbegan, rfl, ?_⟩
  rw [hq.rcv, hq.clock] at hpriv
  exact hpriv

theorem heartbeatLoss_leads_sec (hresets : s.rcv.resets = []) :
    (heartbeatLoss 2).Leads s fun _ t => s.SameBut [.mem, .sys, .tally, .rcv] t ∧ BeganReset s .sec none t := by
  unfold heartbeatLoss
  have hq := s.afterEvent_quiet 0x81 6 0x5202 (det [(1, 2)])
  refine (raise_gives _ _ _ _ _).leads_bind ?_
  rw [if_pos rfl]
  refine (restartBlock_leads (.inr rfl) (by rw [hq.rcv, hresets]) _).mono fun _ t ht => ?_
  obtain ⟨hbegan, hframe, -⟩ := ht
  exact ⟨(hq.sameBut.mono (by decide)).trans hframe, hq.beganReset hbegan⟩

theorem heartbeatLoss_leads_die {b : Nat} (hb : b ≠ 2) (htakes : takesTrigger s .die) :
    (heartbeatLoss b).Leads s fun _ t => BeganReset s .die none t ∧ t.pins.safeN = false := by
  unfold heartbeatLoss
  have hq := s.afterEvent_quiet 0x81 6 0x5202 (det [(1, b)])
  refine (raise_gives _ _ _ _ _).leads_bind ?_
  rw [if_neg hb]
  refine .getS ((dieTrigger_leads (hq.takesTrigger htakes) 0x5202 false).mono fun _ t ht => ?_)
  obtain ⟨hbegan, -, hpins⟩ := ht
  exact ⟨hq.beganReset hbegan, congrArg Pins.safeN hpins⟩

theorem resetIn_leads (htakes : takesTrigger s .die) :
    resetIn.Leads s fun _ t => BeganReset s .die (some s.clock.now) t ∧ t.rcv.resetInLow = true := by
  unfold resetIn
  refine .getS (.upd ?_)
  have htakes' : takesTrigger ((Upd.rcv fun r => { r with resetInLow := true }).apply s) .die := htakes
  refine (dieTrigger_leads htakes' 0 true).mono fun _ t ht => ?_
  obtain ⟨hbegan, hlow, -⟩ := ht
  exact ⟨hbegan, hlow⟩

theorem exec_engineHangWatchdog {e n : Nat} {k : Task} (hrun : (s.engine e).running = some n) (hk : s.task n = some k)
    (hstop : (s.engine e).stopped = false) (hthr : s.throttled e = false) (hwait : s.waitsOnFlow n = false)
    (hdue : (s.engine e).beat + usUnits (s.fld Reg.rcvHang Fld.rcvHangUs) + settleMargin ≤ s.clock.now) :
    exec (.engineHangWatchdog e) s = .next (M.run (do
      settleAll (← raiseFor n 0x81 (partOf e) 0x5201 (taskDetail [(1, baseEngine e)] k 0xFF))
      trigger (.engine (baseEngine e)) 0x5201 s.clock.now 0 false) s) := by
  have hbody : M.run (engineHang e) s = M.run (do
      settleAll (← raiseFor n 0x81 (partOf e) 0x5201 (taskDetail [(1, baseEngine e)] k 0xFF))
      trigger (.engine (baseEngine e)) 0x5201 s.clock.now 0 false) s := by
    unfold engineHang
    rw [run_getS_bind, hrun, Option.bind_some, hk]
    rfl
  rw [← hbody]
  change execEngineHangWatchdog e s = _
  exact whenEnabled_next (by simp only [hstop, hthr, hrun, hk, hwait, hdue, Option.isSome_some, Bool.not_false, Bool.and_self, decide_true])

theorem engineHangWatchdog_turnedAway {e n : Nat} (hrun : (s.engine e).running = some n)
    (h : s.clock.now < (s.engine e).beat + usUnits (s.fld Reg.rcvHang Fld.rcvHangUs) + settleMargin ∨ s.waitsOnFlow n = true) :
    TurnedAway (.engineHangWatchdog e) s := by
  change execEngineHangWatchdog e s = _
  refine whenEnabled_refused ?_
  obtain h | h := h
  · simp only [Nat.not_le.mpr h, decide_false, Bool.and_false]
  · simp only [hrun, h, Bool.not_true, Bool.and_false, Bool.false_and]

/-! ## The tray controller -/

theorem run_smbusRead (s : State) : ∃ t, M.run smbusRead s = t ∧ s.SameBut [.out, .pins] t ∧
    t.out = some ⟨true, leBytes 1 s.rcv.reason ++ leBytes 4 (s.fld Reg.rcvReport Fld.rcvReportSeq) ++ leBytes 8 s.rcv.requestAt ++
      leBytes 1 s.rcvState ++ leBytes 1 (min s.privCount 255) ++ leBytes 1 0⟩ ∧
    t.pins = { s.pins with trayAlertN := s.pins.trayAlertN || s.pins.pcycReqN } := by
  refine ⟨_, rfl, ?_⟩
  unfold smbusRead
  rw [run_getS_bind]
  cases hp : s.pins.pcycReqN with
  | true =>
    rw [if_pos rfl, Bool.or_true]
    exact ⟨((State.SameBut.refl _ s).upd (.out _) rfl).upd (.pins _) rfl, rfl, rfl⟩
  | false =>
    rw [if_neg nofun, Bool.or_false]
    exact ⟨(State.SameBut.refl _ s).upd (.out _) rfl, rfl, rfl⟩

/-! ## Replay -/

/-- A loop none of whose turns changes anything. -/
theorem forIn_gives_self {γ β : Type} {l : List γ} {f : γ → β → M (ForInStep β)} (hf : ∀ x ∈ l, ∀ b, (f x b).gives s (.yield b) s) (b : β) :
    (forIn l b f).gives s b s := by
  induction l with
  | nil => exact pure_gives _ _
  | cons x l ih =>
    rw [List.forIn_cons]
    exact (hf x List.mem_cons_self b).bind (ih fun y hy => hf y (List.mem_cons_of_mem x hy))

theorem run_replayChip_idle (hlists : ∀ l ∈ s.tally.heldLists, l.committed = false)
    (hidle : ∀ p ∈ s.tally.queues, p.2.ledger = true → s.interrupted p.1 = []) :
    M.run replayChip s = ((Upd.rcv fun r => { r with replayDue := false }).apply s).afterEvent 0x80 6 0x0203 (det [(4, 0), (4, 0)]) := by
  have hcommitted : (s.tally.heldLists.filter (·.committed)) = [] :=
    List.filter_eq_nil_iff.mpr fun l hl => by rw [hlists l hl]; exact nofun
  have hqueues : ∀ q ∈ (s.tally.queues.filter fun p => p.2.ledger).map (·.1), s.interrupted q = [] := fun q hq => by
    obtain ⟨p, hp, rfl⟩ := List.mem_map.mp hq
    exact hidle p (List.mem_filter.mp hp).1 (List.mem_filter.mp hp).2
  unfold replayChip
  rw [run_getS_bind]
  refine M.gives.run ?_
  refine (update_gives _ _).bind ?_
  dsimp only
  rw [hcommitted, List.forIn_nil]
  refine (pure_gives _ _).bind ((forIn_gives_self (fun q hq b => ?_) _).bind ?_)
  · refine M.gives.getS_bind ?_
    have hnone : ((Upd.rcv fun r => { r with replayDue := false }).apply s).interrupted q = [] := hqueues q hq
    rw [hnone]
    exact pure_gives _ _
  · rw [List.mergeSort_nil, List.forIn_nil]
    exact (pure_gives _ _).bind (raise_gives _ _ _ _ _)

/-- An entry whose descriptor was read and stored again is bound to its task, and the tokens its task finds are taken (R161). -/
theorem run_resubmit {q seq n : Nat} {x : Queue} {e : Entry} {d : Desc} {u v : State} (hx : s.queue q = some x)
    (he : x.ents.find? (fun y => y.seq == seq) = some e) (hty : e.ty = 1)
    (hread : (ctxRead 0x80 e.producer (((s.acceptRec q seq 0).map fun r => leAt (s.bytesAt (leAt r.bytes 40 8) 64) 0 8).getD 0) 128).gives s (.ok d) u)
    (hroom : u.hasRoom e.producer none false [d] = true) (hstore : (storeTask e.producer d (.enq q seq) none).gives u n v) :
    M.run (resubmit q seq) s = M.run (do settleAll (← takeTokens n)) (M.run (modQueue q fun u => { u with ents := u.ents.map fun x =>
      if x.seq = seq then { x with bound := some (n, 0xFF) } else x }) v) := by
  unfold resubmit
  rw [run_getS_bind, hx, Option.bind_some, he]
  dsimp only
  rw [if_neg (by simp [hty])]
  rw [hread.run_bind]
  dsimp only
  rw [run_getS_bind, if_neg (by simp [hroom]), hstore.run_bind]
  rfl

/-! ## The missing ledger copy -/

/-- Each record of a queue among some has its copy in the other home, and no record of another queue has come. -/
structure State.Copied (s : State) (q : Nat) (x : Queue) (rs : List LedgerRec) (t : State) : Prop where
  frame : s.SameBut [.tally] t
  tally : t.tally = { s.tally with ledger := t.tally.ledger }
  kept : ∀ r ∈ s.tally.ledger, r ∈ t.tally.ledger
  copies : ∀ r ∈ rs, r.queue = q → ∃ y ∈ t.tally.ledger, y.queue = q ∧ y.seq = r.seq ∧ y.ty = r.ty ∧
    y.home = if r.home = x.home then x.mirror else x.home
  others : ∀ r ∈ t.tally.ledger, r.queue ≠ q → r ∈ s.tally.ledger

theorem State.Copied.refl (s : State) (q : Nat) (x : Queue) : s.Copied q x [] s :=
  ⟨.refl _ s, rfl, fun _ h => h, nofun, fun _ h _ => h⟩

theorem State.Copied.trans {u : State} {q : Nat} {x : Queue} {a b : List LedgerRec} (h : s.Copied q x a t) (k : t.Copied q x b u) :
    s.Copied q x (a ++ b) u := by
  refine ⟨h.frame.trans k.frame, ?_, fun r hr => k.kept r (h.kept r hr), fun r hr hq => ?_, fun r hr hq => h.others r (k.others r hr hq) hq⟩
  · rw [k.tally, h.tally]
  · obtain ha | hb := List.mem_append.mp hr
    · obtain ⟨y, hy, hrest⟩ := h.copies r ha hq
      exact ⟨y, k.kept y hy, hrest⟩
    · exact k.copies r hb hq

/-- A record of another queue needs no copy. -/
theorem State.Copied.skip {q : Nat} {x : Queue} {r : LedgerRec} (hr : r.queue ≠ q) : s.Copied q x [r] s :=
  ⟨.refl _ s, rfl, fun _ h => h, fun _ hy hq => absurd (List.mem_singleton.mp hy ▸ hq) hr, fun _ h _ => h⟩

/-- A record whose copy is there needs none. -/
theorem State.Copied.present {q : Nat} {x : Queue} {r y : LedgerRec} (hy : y ∈ s.tally.ledger) (hq : y.queue = q) (hseq : y.seq = r.seq)
    (hty : y.ty = r.ty) (hhome : y.home = if r.home = x.home then x.mirror else x.home) : s.Copied q x [r] s :=
  ⟨.refl _ s, rfl, fun _ h => h, fun _ hz _ => List.mem_singleton.mp hz ▸ ⟨y, hy, hq, hseq, hty, hhome⟩, fun _ h _ => h⟩

/-- A copy that is written into the ledger. -/
theorem State.Copied.written {q : Nat} {x : Queue} {r : LedgerRec} (hr : r.queue = q) (bytes : List Byte) :
    s.Copied q x [r] ((Upd.tally fun t => { t with ledger := t.ledger ++
      [{ r with home := if r.home = x.home then x.mirror else x.home, bytes := bytes }] }).apply s) := by
  refine ⟨Upd.sameBut_of _ s, rfl, fun y hy => List.mem_append_left _ hy, fun z hz _ => ?_, fun y hy hq => ?_⟩
  · exact ⟨_, List.mem_append_right _ List.mem_cons_self, hr, by rw [List.mem_singleton.mp hz], by rw [List.mem_singleton.mp hz],
      by rw [List.mem_singleton.mp hz]⟩
  · obtain hy | hy := List.mem_append.mp hy
    · exact hy
    · exact absurd ((congrArg LedgerRec.queue (List.mem_singleton.mp hy)).trans hr) hq

theorem ledgerCopyRewritten_leads {q : Nat} {x : Queue} (hx : s.queue q = some x) : (ledgerCopyRewritten q).Leads s fun _ t =>
    ∃ u, s.Copied q x s.tally.ledger u ∧ t = u.withQueue q { x with blocked := false } := by
  unfold ledgerCopyRewritten
  refine .getS ?_
  rw [hx]
  refine M.Leads.next (M.Leads.forIn (P := fun r s t => s.Copied q x [r] t) (R := fun l s t => s.Copied q x l t)
    (fun s => State.Copied.refl s q x) (fun r l a b c h k => h.trans k) _ (fun r _ a => ?_) s) fun _ u hu => ?_
  · by_cases hr : r.queue = q
    · rw [if_pos hr]
      refine .getS ?_
      by_cases hany : a.tally.ledger.any (fun y => y.queue == q && y.seq == r.seq && y.ty == r.ty &&
          y.home == if r.home = x.home then x.mirror else x.home) = true
      case neg =>
        simp only [Bool.eq_false_iff.mpr hany, Bool.not_false, if_true]
        exact (update_gives _ _).leads_bind (.pure ⟨rfl, State.Copied.written hr _⟩)
      case pos =>
        simp only [hany, Bool.not_true, Bool.false_eq_true, if_false]
        obtain ⟨y, hy, hsame⟩ := List.any_eq_true.mp hany
        simp only [Bool.and_eq_true, beq_iff_eq] at hsame
        obtain ⟨⟨⟨hq, hseq⟩, hty⟩, hhome⟩ := hsame
        exact .pure ⟨rfl, State.Copied.present hy hq hseq hty hhome⟩
    · rw [if_neg hr]
      exact .pure ⟨rfl, State.Copied.skip hr⟩
  · have hu' : u.queue q = some x := by
      rw [State.queue, hu.tally]
      exact hx
    exact (modQueue_gives hu' _).leads ⟨u, hu, rfl⟩

/-- Settles O47: kicks, hangs, silent blocks and the reset pin, the tray controller's read, the replay and the rewriting of ledger copies. -/
theorem watchdogsAndTheTrayControllerActOnTheDevice : Obligations.WatchdogsAndTheTrayControllerActOnTheDevice := by
  unfold Obligations.WatchdogsAndTheTrayControllerActOnTheDevice
  intro s hs hk
  refine ⟨⟨_, rfl, Upd.sameBut_of (.rcv _) s, rfl⟩, fun w hw => ?_, fun e n k hrun hk => ⟨fun hstop hthr hwait hdue => ?_, fun h => ?_⟩,
    fun due hdue => ⟨fun hphase hold hresets hupdate => ?_, fun hearly => ?_⟩, fun hphase => ⟨fun hresets => ?_, fun b hb htakes => ?_⟩,
    fun hphase hlow htakes => ?_, fun hlow => ⟨?_, ?_⟩, fun hlow => ?_, fun hphase => ?_, fun hphase => ?_,
    fun hdue hacc hparts hlists hidle => ?_, fun hdue => ?_, fun q seq x e d u hx he hty hread hroom n v hstore => ?_,
    fun q x hx hledger hblocked hhome hmirror => ?_, fun q x hx hblocked => ?_⟩
  · change execWdtKick w s = _
    refine always_of_run ?_
    unfold wdtKick
    rw [run_getS_bind, if_neg hw]
    exact run_refuseReg _ _ _ _
  · exact completesThen_of rfl (exec_engineHangWatchdog hrun hk hstop hthr hwait hdue)
  · exact engineHangWatchdog_turnedAway hrun h
  · have hexec : exec .bccWatchdogExpiry s = .next (M.run bccWatchdogExpiry s) := by
      change execBccWatchdogExpiry s = _
      exact whenEnabled_next (by simp only [hphase, ← hdue, hold, beq_self_eq_true, decide_true, Bool.and_self])
    obtain ⟨hframe, hbegan, hkick, hpriv⟩ := (bccWatchdogExpiry_leads hresets hupdate).run
    exact ⟨_, hexec, hframe, hbegan, hkick, hpriv⟩
  · change execBccWatchdogExpiry s = _
    exact whenEnabled_refused (by simp only [← hdue, Nat.not_le.mpr hearly, decide_false, Bool.and_false])
  · have hexec : exec (.heartbeatLoss 2) s = .next (M.run (heartbeatLoss 2) s) := by
      change execHeartbeatLoss 2 s = _
      exact whenEnabled_next (by simp [hphase])
    obtain ⟨hframe, hbegan⟩ := (heartbeatLoss_leads_sec hresets).run
    exact ⟨_, hexec, hframe, hbegan⟩
  · have hexec : exec (.heartbeatLoss b) s = .next (M.run (heartbeatLoss b) s) := by
      change execHeartbeatLoss b s = _
      exact whenEnabled_next (by rcases hb with rfl | rfl <;> simp [hphase])
    have hne : b ≠ 2 := by rcases hb with rfl | rfl <;> decide
    obtain ⟨hbegan, hpins⟩ := (heartbeatLoss_leads_die hne htakes).run
    exact ⟨_, hexec, (exec_reach hexec).sameBut _ (reachOf_parts _), hbegan, hpins⟩
  · have hexec : exec .resetIn s = .next (M.run resetIn s) := by
      change execResetIn s = _
      exact whenEnabled_next (by simp [hphase, hlow])
    obtain ⟨hbegan, hset⟩ := (resetIn_leads htakes).run
    exact ⟨_, hexec, (exec_reach hexec).sameBut _ (reachOf_parts _), hbegan, hset⟩
  · change execResetIn s = _
    exact whenEnabled_refused (by simp [hlow])
  · refine ⟨_, ?_, Upd.sameBut_of (.rcv fun r => { r with resetInLow := false }) s, rfl⟩
    change execResetInRelease s = _
    exact whenEnabled_next hlow
  · change execResetInRelease s = _
    exact whenEnabled_refused hlow
  · obtain ⟨t, hrun, ht⟩ := run_smbusRead s
    refine ⟨t, ?_, ht⟩
    change execSmbusBlockReadA0 s = _
    rw [← hrun]
    exact whenEnabled_next (by simp [hphase])
  · change execSmbusBlockReadA0 s = _
    exact whenEnabled_refused (by simp [hphase])
  · refine ⟨_, Upd.sameBut_of (.rcv fun r => { r with replayDue := false }) s, rfl, ?_⟩
    rw [← run_replayChip_idle hlists hidle]
    change execReplayChip s = _
    exact whenEnabled_next (by
      rw [hdue, hacc, Bool.and_self, Bool.true_and, List.all_eq_true]
      exact fun p hp => by rw [hparts p hp, Bool.not_false])
  · change execReplayChip s = _
    exact whenEnabled_refused (by rw [hdue, Bool.false_and, Bool.false_and])
  · refine ⟨_, run_resubmit hx he hty hread hroom hstore, Upd.sameBut_of (.tally _) v, fun z hz => ?_⟩
    rw [(modQueue_gives hz _).run, State.queue_withQueue, if_pos rfl]
  · have hexec : exec (.ledgerCopyRewritten q) s = .next (M.run (ledgerCopyRewritten q) s) := by
      change execLedgerCopyRewritten q s = _
      exact whenEnabled_next (by simp [hx, hledger, hblocked, hhome, hmirror])
    obtain ⟨u, hu, ht⟩ := (ledgerCopyRewritten_leads hx).run
    refine ⟨_, hexec, ?_⟩
    rw [ht]
    refine ⟨hu.frame.trans (u.withQueue_frame _ _), by rw [State.queue_withQueue, if_pos rfl], ?_, hu.kept, hu.copies, hu.others⟩
    change ({ u.tally with queues := tblSet u.tally.queues q { x with blocked := false } } : Tally) =
      { s.tally with ledger := u.tally.ledger, queues := tblSet u.tally.queues q { x with blocked := false } }
    rw [hu.tally]
  · change execLedgerCopyRewritten q s = _
    exact whenEnabled_refused (by simp [hx, hblocked])

end Sys2Proof.Machine
end

section
/-! PROOFS. Operations that run a plan: their reads, their writes, and what they note of them; O34 (R178–R183, R207, R231). -/

namespace Sys2Proof.Machine

open Sys2Proof

/-! ## What is carried over the operations that come first -/

/-- A property of running a meaning in a state that holds where it holds after the operation that comes first. -/
def PrefixClosed (P : M Unit → State → Prop) : Prop :=
  ∀ (α : Type) (m : M α) (f : α → M Unit) (s t : State) (a : α), m.gives s a t → P (f a) t → P (m >>= f) s

theorem prefixClosed_leads (rest : Unit → M Unit) (Q : Unit → State → Prop) : PrefixClosed fun m s => (m >>= rest).Leads s Q :=
  fun _ _ _ _ _ _ h hf => h.leads_bind hf

theorem prefixClosed_then (tail : M Unit) (Q : State → Prop) : PrefixClosed fun m s => m.Then s tail Q := fun _ _ f _ _ _ h hf => by
  obtain ⟨v, hv, hrun⟩ := hf
  exact ⟨v, hv, (h.run_bind f).trans hrun⟩

theorem PrefixClosed.next {P : M Unit → State → Prop} {α : Type} {m : M α} {f : α → M Unit} {s : State} {Q : α → State → Prop}
    (hP : PrefixClosed P) (h : m.Leads s Q) (hf : ∀ a t, Q a t → P (f a) t) : P (m >>= f) s := by
  obtain ⟨a, t, ht, ha⟩ := h
  exact hP α m f s t a ht (hf a t ha)

section
variable {P : M Unit → State → Prop} {s u : State} {k : Task} {p : Plan}

/-- Reads that meet no error and whose seals are checked lead to what follows them. -/
theorem PrefixClosed.of_reads (hP : PrefixClosed P) {s₀ : State} {fault : MemErr → M Unit} {m : M Unit}
    (h : (planReads s₀ k p).gives s none u) (hm : P m u) :
    P (touch k.engine k.handle (readUnits (s₀.operands k) p) >>= fun o => match o with
      | some x => fault x
      | none => do
        checkSeals k (s₀.operands k) (readUnits (s₀.operands k) p)
        m) s := by
  have heq : (touch k.engine k.handle (readUnits (s₀.operands k) p) >>= fun o => match o with
      | some x => fault x
      | none => do
        checkSeals k (s₀.operands k) (readUnits (s₀.operands k) p)
        m) = planReads s₀ k p >>= fun o => match o with
      | some x => fault x
      | none => m := by
    funext f
    exact congrArg (touch k.engine k.handle (readUnits (s₀.operands k) p)) (funext fun o => by cases o <;> rfl)
  rw [heq]
  exact hP _ _ _ _ _ _ h hm

/-- Writes that meet no error, and whose seals are written, lead to what follows them. -/
theorem PrefixClosed.of_writes (hP : PrefixClosed P) {ts : List Ten} {form : Form} {fault : MemErr → M Unit} {m : M Unit}
    (h : M.gives (do
      match ← writeRuns k.engine k.handle (formRuns form) with
      | some x => return some x
      | none => do
        writeSeals k ts form
        return none : M (Option MemErr)) s none u) (hm : P m u) :
    P (writeRuns k.engine k.handle (formRuns form) >>= fun o => match o with
      | some x => fault x
      | none => do
        writeSeals k ts form
        m) s := by
  have heq : (writeRuns k.engine k.handle (formRuns form) >>= fun o => match o with
      | some x => fault x
      | none => do
        writeSeals k ts form
        m) = (do
      match ← writeRuns k.engine k.handle (formRuns form) with
      | some x => return some x
      | none => do
        writeSeals k ts form
        return none : M (Option MemErr)) >>= fun o => match o with
      | some x => fault x
      | none => m := by
    funext f
    exact congrArg (writeRuns k.engine k.handle (formRuns form)) (funext fun o => by cases o <;> rfl)
  rw [heq]
  exact hP _ _ _ _ _ _ h hm

end

theorem judged_good (ts : List Ten) (ws : List OutW) :
    ((ws.map fun w => (w, ((tenAt ts w.slot).map fun o => o.writeTest w.idx).getD (some 1))).filter fun j => j.2.isNone).map (·.1) =
      ws.filter fun w => ((tenAt ts w.slot).map fun o => o.writeTest w.idx).getD (some 1) == none := by
  rw [List.filter_map, List.map_map]
  simp [Function.comp_def]

theorem modTask_leads (n : Nat) (f : Task → Task) (s : State) : (modTask n f).Leads s fun _ t => s.SameBut [.tally] t ∧
    (∀ m, m ≠ n → t.task m = s.task m) ∧ ∀ x, s.task n = some x → t.task n = some (f x) := by
  cases hk : s.task n with
  | some x =>
    refine (modTask_gives hk f).leads ⟨State.withTask_frame _ _ _, fun m hm => ?_, fun y hy => ?_⟩
    · rw [State.task_withTask, if_neg hm]
    · rw [State.task_withTask, if_pos rfl, Option.some.inj hy]
  | none =>
    refine (update_gives _ s).leads ⟨Upd.sameBut_of _ s, fun m _ => ?_, nofun⟩
    change tblFind (match tblFind s.tally.tasks n with
      | some k => tblSet s.tally.tasks n (f k)
      | none => s.tally.tasks) m = _
    rw [show tblFind s.tally.tasks n = none from hk]
    rfl

/-- What the counts and the samples of an operation leave of the state its writes left. -/
structure State.Noted (v : State) (n : Nat) (reads : Nat) (ps : List Part) (t : State) : Prop where
  frame : v.SameBut ps t
  others : ∀ m, m ≠ n → t.task m = v.task m
  task : ∀ x, v.task n = some x → ∃ y, t.task n = some y ∧ y.done = true ∧ y.life = x.life ∧ y.oobReads = x.oobReads + reads

theorem State.Noted.mono {v t : State} {n reads : Nat} {ps qs : List Part} (h : v.Noted n reads ps t) (hps : ∀ p ∈ ps, p ∈ qs) :
    v.Noted n reads qs t := ⟨h.frame.mono hps, h.others, h.task⟩

theorem State.Noted.after {v w t : State} {n reads : Nat} {ps : List Part} {msk : Nat} (hw : v.Noted n reads ps w) (ht : Reaches msk w t)
    (htasks : msk.testBit 8 = false) (hparts : (Part.all.all fun p => ps.contains p || msk &&& p.bits == 0) = true) :
    v.Noted n reads ps t := by
  have htask (m : Nat) : t.task m = w.task m := by rw [State.task, Reaches.tally ht htasks, State.task]
  exact ⟨hw.frame.trans (ht.sameBut ps hparts), fun m hm => (htask m).trans (hw.others m hm), fun x hx => by
    rw [htask]
    exact hw.task x hx⟩

/-- What a plan reads out of bounds in the state its reads leave. -/
def planFills (ts : List Ten) (p : Plan) : Nat :=
  (ts.map (·.slot)).foldl (fun a sl => a + (fillCounts ts p sl).1 + (fillCounts ts p sl).2) 0

/-- The elements of a plan that its operands take. -/
def goodWrites (ts : List Ten) (p : Plan) : List OutW :=
  p.writes.filter fun w => ((tenAt ts w.slot).map fun o => o.writeTest w.idx).getD (some 1) == none

/-- The writes of a plan's elements, with the seals of what they fill. -/
def planWrites (u : State) (k : Task) (ts : List Ten) (p : Plan) : M (Option MemErr) := do
  match ← writeRuns k.engine k.handle (formRuns (formMem u k.handle ts (goodWrites ts p))) with
  | some x => return some x
  | none => do
    writeSeals k ts (formMem u k.handle ts (goodWrites ts p))
    return none

/-- Where a plan's reads and writes meet no error, its task has formed its result, and only what `post` does comes after its counts and
its samples. -/
theorem PrefixClosed.of_runPlanWith {P : M Unit → State → Prop} (hP : PrefixClosed P) {s : State} {n : Nat} {k : Task} {smp : Sampling} {every : Bool}
    {plan : State → List Ten → Plan} {notes : State → List Ten → Notes} {post : List OutW → M Unit} {u v : State} (hk : s.task n = some k)
    (hreads : (planReads s k (plan s (s.operands k))).gives s none u)
    (hwrites : (planWrites u k (s.operands k) (plan u (s.operands k))).gives u none v)
    (hpost : ∀ ws w, v.Noted n ((notes u (s.operands k)).2 + planFills (s.operands k) (plan u (s.operands k))) [.regs, .tally, .safe] w →
      P (post ws) w) : P (runPlanWith n smp every plan notes post) s := by
  unfold runPlanWith
  refine hP _ _ _ _ _ _ (show getS.gives s s s from fun _ => rfl) ?_
  rw [hk]
  refine hP.of_reads hreads (hP _ _ _ _ _ _ (show getS.gives u u u from fun _ => rfl) ?_)
  extract_lets p more judged good form
  have hgood : good = goodWrites (s.operands k) p := judged_good (s.operands k) p.writes
  unfold planWrites at hwrites
  rw [← hgood] at hwrites
  refine hP.of_writes hwrites ?_
  rename_i slots readCounts lost dropped padding groups writeCounts reads bands jp
  have hjp : ∀ w, Reaches 0x8 v w → P (jp ()) w := by
    intro w hw
    refine hP.next (modTask_leads n _ w) fun _ x hx => ?_
    obtain ⟨hframe, hothers, htask⟩ := hx
    refine hP.next ((sampleBlocks_reach (msk := 0x100000) rfl n k every _).leads (P := fun _ => Reaches 0x100000 x) fun _ _ h => h)
      fun _ y hy => hpost good y ?_
    have hw' (m : Nat) : w.task m = v.task m := by rw [State.task, Reaches.tally hw rfl, State.task]
    refine State.Noted.after (w := x) ⟨(hw.sameBut _ rfl).trans (hframe.mono (by decide)), fun m hm => ?_, fun a ha => ?_⟩ hy rfl rfl
    · rw [hothers m hm, hw']
    · exact ⟨_, htask a ((hw' n).trans ha), rfl, rfl, by
        change a.oobReads + reads + more.2 = a.oobReads + (more.2 + reads)
        omega⟩
  split
  · exact hP.next ((bump_reach (msk := 0x8) rfl _ _ _).leads (P := fun _ => Reaches 0x8 v) fun _ _ h => h) fun _ w hw => hjp w hw
  · exact hjp v (.refl v)

/-- A command that runs a plan, whatever it does after its counts and its samples. -/
theorem runsPlan_of_leads {c : Instr} {s₀ s : State} {n : Nat} {k : Task} {plan : State → List Ten → Plan} {extra : State → Nat} {ps : List Part}
    {Q : State → State → Prop} {smp : Sampling} {every : Bool} {notes : State → List Ten → Notes} {post : List OutW → M Unit}
    {rest : Unit → M Unit} (hexec : exec c s₀ = .next (M.run (runPlanWith n smp every plan notes post >>= rest) s)) (hk : s.task n = some k)
    (hextra : ∀ u, (notes u (s.operands k)).2 = extra u) (hmem : Part.mem ∉ ps)
    (hpost : ∀ v r ws w, v.Noted n r [.regs, .tally, .safe] w → (post ws >>= rest).Leads w fun _ t => v.Noted n r ps t ∧ Q v t) :
    RunsPlan c s₀ s n k plan extra Q := by
  intro u v hreads good form hwrites
  have hrun := PrefixClosed.of_runPlanWith (prefixClosed_leads rest fun _ t => v.Noted n
    ((notes u (s.operands k)).2 + planFills (s.operands k) (plan u (s.operands k))) ps t ∧ Q v t) (smp := smp) (every := every) (notes := notes) (post := post) hk hreads hwrites
    (hpost v ((notes u (s.operands k)).2 + planFills (s.operands k) (plan u (s.operands k))))
  obtain ⟨ht, hQ⟩ := M.Leads.run hrun
  rw [hextra u] at ht
  refine ⟨_, hexec, (exec_reach hexec).sameBut _ (reachOf_parts _), ht.frame.2 .mem hmem, ht.others, fun x hx => ?_, hQ⟩
  obtain ⟨y, hy, hdone, hlife, hreads⟩ := ht.task x hx
  exact ⟨y, hy, hdone, hlife, hreads.trans (Nat.add_assoc _ _ _).symm⟩

/-- What a mask of updates lets an operation note beside its result: neither memory nor tasks. -/
structure NotesIn (msk : Nat) (ps : List Part) : Prop where
  parts : (Part.all.all fun p => ps.contains p || msk &&& p.bits == 0) = true
  base : ∀ p ∈ [Part.regs, .tally, .safe], p ∈ ps
  tasks : msk.testBit 8 = false
  mem : Part.mem ∉ ps

theorem runsPlan_of {c : Instr} {s₀ s : State} {n : Nat} {k : Task} {plan : State → List Ten → Plan} {extra : State → Nat} {ps : List Part}
    {msk : Nat} {smp : Sampling} {every : Bool} {notes : State → List Ten → Notes} {post : List OutW → M Unit} {rest : Unit → M Unit}
    (hexec : exec c s₀ = .next (M.run (runPlanWith n smp every plan notes post >>= rest) s)) (hk : s.task n = some k)
    (hextra : ∀ u, (notes u (s.operands k)).2 = extra u) (hnotes : NotesIn msk ps)
    (hpost : ∀ ws, M.All (Upd.In msk) (post ws)) (hrest : M.All (Upd.In msk) (rest ())) :
    RunsPlan c s₀ s n k plan extra fun v t => v.SameBut ps t :=
  runsPlan_of_leads hexec hk hextra hnotes.mem fun _ _ ws _ hw => (M.All.bind (hpost ws) fun _ => hrest).leads fun _ _ ht =>
    have h := (hw.mono hnotes.base).after ht hnotes.tasks hnotes.parts
    ⟨h, h.frame⟩

/-! ## The commands of operations -/

section
variable {s : State} {e op n : Nat} {k : Task} {m : Nat → M Unit}

theorem opCommand_next (h : s.opTask e op = some n) : opCommand e op m s = .next (M.run (m n) s) := by
  unfold opCommand
  rw [whenEnabled_next (by rw [h]; rfl), run_getS_bind, h]

theorem opCommand_refused (h : s.opTask e op = none) : opCommand e op m s = .refused .notEnabled :=
  whenEnabled_refused (by rw [h]; rfl)

/-- What the obligation asks of a command whose operation is its plan. -/
def PlanCommand (s : State) (e n : Nat) (k : Task) (x : Instr × Nat × (State → List Ten → Plan)) : Prop :=
  (s.opTask e x.2.1 = some n → RunsPlan x.1 s s n k x.2.2 (fun _ => 0) fun v t => v.SameBut [.regs, .tally, .safe] t) ∧
    (s.opTask e x.2.1 = none → TurnedAway x.1 s)

theorem planCommand_of {c : Instr} {plan : State → List Ten → Plan} {smp : Sampling} {every : Bool} {notes : State → List Ten → Notes}
    {post : List OutW → M Unit} {rest : Unit → M Unit} (hexec : exec c s = opCommand e op m s) (hk : s.task n = some k)
    (hm : M.run (m n) s = M.run (runPlanWith n smp every plan notes post >>= rest) s) (hextra : ∀ u, (notes u (s.operands k)).2 = 0)
    (hpost : ∀ ws, M.All (Upd.In 0x100008) (post ws)) (hrest : M.All (Upd.In 0x100008) (rest ())) : PlanCommand s e n k (c, op, plan) :=
  ⟨fun h => runsPlan_of ((hexec.trans (opCommand_next h)).trans (congrArg _ hm)) hk hextra ⟨rfl, by decide, rfl, by decide⟩ hpost hrest,
    fun h => hexec.trans (opCommand_refused h)⟩

theorem planCommand_runPlan {c : Instr} {plan : State → List Ten → Plan} {smp : Sampling} {post : List OutW → M Unit}
    (hexec : exec c s = opCommand e op m s) (hk : s.task n = some k)
    (hm : M.run (m n) s = M.run (runPlanWith n smp false plan (fun _ _ => ([], 0)) post) s)
    (hpost : ∀ ws, M.All (Upd.In 0x100008) (post ws)) : PlanCommand s e n k (c, op, plan) :=
  planCommand_of (post := post) (smp := smp) (every := false) (notes := fun _ _ => ([], 0)) (rest := pure) hexec hk
    (by rw [bind_pure]; exact hm) (fun _ => rfl) hpost (.pure _)

theorem run_runOp (hk : s.task n = some k) (smp : Sampling) (plan : Nat → List Byte → State → List Ten → Plan) :
    M.run (runOp n smp plan) s = M.run (runPlanWith n smp false (plan k.handle k.params) (fun _ _ => ([], 0)) fun _ => pure ()) s := by
  unfold runOp
  rw [run_getS_bind, hk]
  rfl

theorem planCommand_runOp {c : Instr} {smp : Sampling} {plan : Nat → List Byte → State → List Ten → Plan}
    (hexec : exec c s = opCommand e op (fun t => runOp t smp plan) s) (hk : s.task n = some k) :
    PlanCommand s e n k (c, op, plan k.handle k.params) :=
  planCommand_runPlan hexec hk (run_runOp hk smp plan) fun _ => .pure _

theorem planCommand_dotOp {c : Instr} {act : List Byte → Nat} {dots : List Byte → List Ten → List Dot}
    (hexec : exec c s = opCommand e op (fun t => dotOp t act dots) s) (hk : s.task n = some k) :
    PlanCommand s e n k (c, op, fun s ts => dotPlan k.handle (act k.params) (ofBits32 (leAt k.params 16 4)) (ofBits32 (leAt k.params 20 4))
      (dots k.params ts) s ts) := by
  refine planCommand_runPlan (smp := dotSampling s n (act k.params)) (post := fun _ => pure ()) hexec hk ?_ fun _ => .pure _
  unfold dotOp
  rw [run_getS_bind, hk]
  exact run_runOp hk _ _

theorem planCommand_radio {c : Instr} {plan : State → List Ten → Plan} {work : List OutW → Nat} {sat : Nat}
    (hexec : exec c s = opCommand e op m s) (hk : s.task n = some k)
    (hm : M.run (m n) s = M.run (runPlanWith n .none false plan (fun _ _ => ([], 0)) fun out => radioCount n (work out) sat) s) :
    PlanCommand s e n k (c, op, plan) :=
  planCommand_runPlan hexec hk hm fun _ => radioCount_reach rfl _ _ _

theorem planCommand_fft (hk : s.task n = some k) : PlanCommand s e n k (.fft e, 0x602, fftPlan k.handle k.params) :=
  planCommand_radio (m := fftOp) rfl hk (by
    unfold fftOp
    rw [run_getS_bind, hk])

theorem planCommand_ifft (hk : s.task n = some k) : PlanCommand s e n k (.ifft e, 0x603, ifftPlan k.handle k.params) :=
  planCommand_radio (m := ifftOp) rfl hk (by
    unfold ifftOp
    rw [run_getS_bind, hk])

theorem planCommand_ldpcDecode (hk : s.task n = some k) : PlanCommand s e n k (.ldpcDecode e, 0x605, ldpcDecodePlan k.handle k.params) :=
  planCommand_radio (m := ldpcDecode) rfl hk (by
    unfold ldpcDecode
    rw [run_getS_bind, hk])

theorem planCommand_ldpcEncode (hk : s.task n = some k) : PlanCommand s e n k (.ldpcEncode e, 0x606, ldpcEncodePlan k.handle k.params) :=
  planCommand_radio (m := ldpcEncode) rfl hk (by
    unfold ldpcEncode
    rw [run_getS_bind, hk])

theorem planCommand_polarEncode (hk : s.task n = some k) : PlanCommand s e n k (.polarEncode e, 0x607, polarEncodePlan k.handle k.params) :=
  planCommand_radio (m := polarEncodeOp) rfl hk (by
    unfold polarEncodeOp
    rw [run_getS_bind, hk])

theorem planCommand_polarDecode (hk : s.task n = some k) : PlanCommand s e n k (.polarDecode e, 0x608, polarDecodePlan k.handle k.params) :=
  planCommand_runPlan (m := polarDecodeOp) rfl hk (by
    unfold polarDecodeOp
    rw [run_getS_bind, hk]
    rfl) fun _ => .pure _

theorem planCommand_pyrLaplace (hk : s.task n = some k) : PlanCommand s e n k (.pyrLaplace e, 0x502, laplacePlan k.handle k.params) :=
  planCommand_runPlan (m := pyrLaplaceOp) rfl hk (by
    unfold pyrLaplaceOp
    rw [run_getS_bind, hk]) fun _ => countPixels_reach rfl _ _ _ _ _

/-- CAIRN_CHECK runs its plan and then notes its verdict in the SAFE block. -/
theorem cairnCheckOp_eq (n : Nat) : ∃ rest : Unit → M Unit, cairnCheckOp n = runOp n .none cairnPlan >>= rest ∧ M.All (Upd.In 0x100008) (rest ()) := by
  refine ⟨_, rfl, .bind .getS fun s => ?_⟩
  split
  · exact .pure _
  · refine .ite ?_ (.pure _)
    split
    · exact .update rfl
    · exact .pure _

theorem planCommand_cairnCheck (hk : s.task n = some k) : PlanCommand s e n k (.cairnCheck e, 0x702, cairnPlan k.handle k.params) := by
  obtain ⟨rest, heq, hrest⟩ := cairnCheckOp_eq n
  refine planCommand_of (m := cairnCheckOp) (smp := .none) (every := false) (notes := fun _ _ => ([], 0)) (post := fun _ => pure ())
    (rest := rest) rfl hk ?_ (fun _ => rfl) (fun _ => .pure _) hrest
  rw [heq]
  unfold runOp
  rw [bind_assoc, run_getS_bind, hk]
  rfl

/-- Settles O34: each command runs its operation's plan, whose reads and writes are the statement's own, and notes only what its task
counts, its checker samples and its engine shows. -/
theorem operationsReadTheirPlanAndWriteItsResult : Obligations.OperationsReadTheirPlanAndWriteItsResult := by
  unfold Obligations.OperationsReadTheirPlanAndWriteItsResult
  intro s e n k hk
  change ∀ x ∈ planOperations e k, PlanCommand s e n k x
  simp only [planOperations, List.forall_mem_cons]
  refine ⟨planCommand_runOp (plan := fun h _ s ts => copyPlan h s ts) rfl hk, planCommand_runOp (plan := fun _ _ _ ts => fillPlan ts) rfl hk,
    planCommand_runOp (plan := gatherPlan) rfl hk, planCommand_runOp (plan := scatterPlan) rfl hk, 
    planCommand_dotOp (act := fun _ => 0) (dots := fun _ ts => matmulDots ts) rfl hk,
    planCommand_dotOp (act := fun p => leAt p 12 1) (dots := fun p ts => convDots (convOf false p ts) ts) rfl hk,
    planCommand_dotOp (act := fun p => leAt p 12 1) (dots := fun p ts => convDots (convOf true p ts) ts) rfl hk,
    planCommand_dotOp (act := fun p => leAt p 12 1) (dots := fun p ts => tconvDots (convOf false p ts) ts) rfl hk,
    planCommand_runOp (plan := eltwisePlan) rfl hk, planCommand_runOp (plan := unaryPlan) rfl hk,
    planCommand_runOp (plan := quantizePlan) rfl hk, planCommand_runOp (plan := fun h _ s ts => dequantizePlan h s ts) rfl hk,
    planCommand_dotOp (act := fun _ => 0) (dots := fun _ ts => matmulDots ts) rfl hk,
    planCommand_runOp (plan := reducePlan) rfl hk, planCommand_runOp (plan := softmaxPlan) rfl hk,
    planCommand_runOp (plan := normPlan true) rfl hk, planCommand_runOp (plan := normPlan false) rfl hk,
    planCommand_runOp (plan := argmaxPlan) rfl hk, planCommand_runOp (plan := topkPlan) rfl hk,
    planCommand_runOp (plan := attentionPlan) rfl hk, planCommand_runOp (plan := routeGatherPlan) rfl hk,
    planCommand_runOp (plan := routeCombinePlan) rfl hk, planCommand_runOp (plan := fun h _ s ts => crcPlan h s ts) rfl hk,
    planCommand_runOp (plan := fun h _ s ts => comparePlan h s ts) rfl hk, planCommand_cairnCheck hk, 
    planCommand_fft hk, planCommand_ifft hk, planCommand_ldpcDecode hk, planCommand_ldpcEncode hk, planCommand_polarEncode hk,
    planCommand_polarDecode hk, planCommand_pyrLaplace hk, nofun⟩

end

end Sys2Proof.Machine
end

section
/-! PROOFS. Vision and radio operations run their plans: O35 (R287, R313–R320, R336, R351–R357, R383, R401). -/

namespace Sys2Proof.Machine

open Sys2Proof

/-- What an operation answers and the state it leaves are determined. -/
theorem M.gives.unique {m : M α} {s t u : State} {a b : α} (h : m.gives s a t) (k : m.gives s b u) : a = b ∧ t = u := by
  classical
  have hab : a = b := by
    by_contra hne
    let mark : α → Act := fun x => .upd (.out fun _ => if x = a then none else some ⟨true, []⟩) .done
    have hrun := congrArg State.out ((h mark).symm.trans (k mark))
    have hleft : (Act.run (mark a) t).out = none := if_pos rfl
    have hright : (Act.run (mark b) u).out = some ⟨true, []⟩ := if_neg (Ne.symm hne)
    rw [hleft, hright] at hrun
    cases hrun
  subst hab
  exact ⟨rfl, (h fun _ => .done).symm.trans (k fun _ => .done)⟩

/-- A command that runs a plan and notes registers and the SAFE block alone. -/
theorem runsPlan_plain {c : Instr} {s₀ s : State} {n : Nat} {k : Task} {plan : State → List Ten → Plan} {extra : State → Nat}
    {smp : Sampling} {every : Bool} {notes : State → List Ten → Notes} {post : List OutW → M Unit}
    (hexec : exec c s₀ = .next (M.run (runPlanWith n smp every plan notes post) s)) (hk : s.task n = some k)
    (hextra : ∀ u, (notes u (s.operands k)).2 = extra u) (hpost : ∀ ws, M.All (Upd.In 0x100008) (post ws)) :
    RunsPlan c s₀ s n k plan extra fun v t => v.SameBut [.regs, .tally, .safe] t :=
  runsPlan_of (rest := pure) (by rw [bind_pure]; exact hexec) hk hextra ⟨rfl, by decide, rfl, by decide⟩ hpost (.pure _)

section
variable {s : State} {e n : Nat} {k : Task} {m : Nat → M Unit}

/-- An operation whose further condition holds runs. -/
theorem whenTask_next {op : Nat} {c : State → Bool} (h : s.opTask e op = some n) (hc : c s = true) : whenEnabled c (do
      let s ← getS
      match s.opTask e op with
      | some t => m t
      | none => pure ()) s = .next (M.run (m n) s) := by
  rw [whenEnabled_next hc, run_getS_bind, h]

/-! ## Operations on images -/

theorem runsPlan_pyrBuild (hk : s.task n = some k) (h : s.opTask e 0x501 = some n) :
    RunsPlan (.pyrBuild e) s s n k (pyrPlan k.handle k.params) (fun u => (pyrNotes k.handle k.params u (s.operands k)).2)
      fun v t => v.SameBut [.regs, .tally, .safe] t := by
  refine runsPlan_plain (smp := .tiles) (every := false) (notes := pyrNotes k.handle k.params)
    (post := fun ws => countPixels 0x29 (Reg.pyrPixels 0) Fld.pyrPixelsCount n ws.length) ?_ hk (fun _ => rfl)
    fun _ => countPixels_reach rfl _ _ _ _ _
  refine (opCommand_next (m := pyrBuildOp) h).trans (congrArg _ ?_)
  unfold pyrBuildOp
  rw [run_getS_bind, hk]

section
variable {bicubic corners : Bool} {bord : Nat} {src : State → List Ten → Source} {more : List Ten → List (Nat × List Int)} {a o : Ten}

theorem run_warpOp_fault (hk : s.task n = some k) (ha : tenAt (s.operands k) 0 = some a) (ho : tenAt (s.operands k) 8 = some o) {ty rows : Nat}
    (hw : ringWindow a o bicubic corners (src s (s.operands k)) = some (ty, rows)) :
    M.run (warpOp n bicubic bord corners src more) s = M.run (do
      settleAll (← raiseFor n 0x2A 4 0x3801 (taskDetail [(2, ty), (2, rows)] k 0))
      finish n 1) s := by
  unfold warpOp
  rw [run_getS_bind, hk]
  dsimp only
  rw [ha, ho]
  dsimp only
  rw [hw]

/-- A warp whose ring window is never exceeded runs its plan, and counts on the warp engine's own page. -/
theorem run_warpOp (hk : s.task n = some k) (ha : tenAt (s.operands k) 0 = some a) (ho : tenAt (s.operands k) 8 = some o)
    (hw : ringWindow a o bicubic corners (src s (s.operands k)) = none) : ∃ (notes : State → List Ten → Notes) (post : List OutW → M Unit),
      M.run (warpOp n bicubic bord corners src more) s =
        M.run (runPlanWith n .tiles false (warpPlan bicubic bord src more k.handle) notes post) s ∧
      (∀ u ts, (notes u ts).2 = 0) ∧ ∀ ws, M.All (Upd.In 0x100008) (post ws) := by
  unfold warpOp
  rw [run_getS_bind, hk]
  dsimp only
  rw [ha, ho]
  dsimp only
  rw [hw]
  refine ⟨_, _, rfl, fun u ts => ?_, fun ws => ?_⟩
  · split <;> rfl
  · exact .ite (.bind (bump_reach rfl _ _ _) fun _ => .bind (bump_reach rfl _ _ _) fun _ => bump_reach rfl _ _ _) (.pure _)

theorem runsPlan_warp {c : Instr} (hexec : exec c s = .next (M.run (warpOp n bicubic bord corners src more) s)) (hk : s.task n = some k)
    (ha : tenAt (s.operands k) 0 = some a) (ho : tenAt (s.operands k) 8 = some o)
    (hw : ringWindow a o bicubic corners (src s (s.operands k)) = none) :
    RunsPlan c s s n k (warpPlan bicubic bord src more k.handle) (fun _ => 0) fun v t => v.SameBut [.regs, .tally, .safe] t := by
  obtain ⟨notes, post, hrun, hnotes, hpost⟩ := run_warpOp (bord := bord) (more := more) hk ha ho hw
  exact runsPlan_plain (hexec.trans (congrArg _ hrun)) hk (fun u => hnotes u _) hpost

end

/-- The source of a mesh warp (R315). -/
def meshOf (h : Nat) (p : List Byte) : State → List Ten → Source := fun s ts => match tenAt ts 1 with
  | some m => meshSource s h m (meshGrid p)
  | none => fun _ _ => none

theorem exec_warpMesh (hk : s.task n = some k) (h : s.opTask e 0x503 = some n) : exec (.warpMesh e) s = .next (M.run (warpOp n
    (leAt k.params 1 1 == 1) (leAt k.params 2 1) false (meshOf k.handle k.params) (meshReads (meshGrid k.params))) s) := by
  refine (opCommand_next (m := warpMeshOp) h).trans (congrArg _ ?_)
  unfold warpMeshOp
  rw [run_getS_bind, hk]
  rfl

theorem exec_warpHomog (hk : s.task n = some k) (h : s.opTask e 0x504 = some n) : exec (.warpHomog e) s = .next (M.run (warpOp n
    (leAt k.params 36 1 == 1) (leAt k.params 37 1) true (fun _ _ => homogSource k.params) fun _ => []) s) := by
  refine (opCommand_next (m := warpHomogOp) h).trans (congrArg _ ?_)
  unfold warpHomogOp
  rw [run_getS_bind, hk]

/-! ## Searches -/

section
variable {a : Ten} {unit own roiAt : Nat} {flow : Bool} {field : Nat → List Byte → State → List Ten → List ((Nat × Nat) × Found)}

/-- The rows a ring input of a search holds. -/
def ringRows (a : Ten) : Option Nat :=
  match a.ring with
  | some (r, d, _, _) => if a.ringInput then some (r * d) else none
  | none => none

theorem run_searchOp (hk : s.task n = some k) (ha : s.operand k 0 = some a) (hrows : flow = true → 96 ≤ (ringRows a).getD 96) :
    ∃ (notes : State → List Ten → Notes) (post : List OutW → M Unit), M.run (searchOp n unit own flow roiAt field) s =
        M.run (runPlanWith n (if k.engine < 0x20 then .rows else .none) true (searchPlan flow roiAt field k.handle k.params) notes post) s ∧
      (∀ u ts, (notes u ts).2 = 0) ∧ ∀ ws, M.All (Upd.In 0x100008) (post ws) := by
  unfold searchOp
  rw [run_getS_bind, hk]
  dsimp only
  rw [ha]
  have hcond : ¬ ((flow && decide ((ringRows a).getD 96 < 96)) = true) := by
    rw [Bool.and_eq_true, decide_eq_true_eq]
    exact fun h => absurd (hrows h.1) (Nat.not_le.mpr h.2)
  refine ⟨_, _, congrArg (fun m => M.run m s) (if_neg hcond), fun _ _ => rfl, fun ws => ?_⟩
  refine .ite ?_ (.pure _)
  refine .bind (bump_reach rfl _ _ _) fun _ => .bind (.forIn _ _ _ fun _ _ => .bind (bump_reach rfl _ _ _) fun _ => .pure _) fun _ => ?_
  exact .bind (bump_reach rfl _ _ _) fun _ => bump_reach rfl _ _ _

theorem run_searchOp_fault (hk : s.task n = some k) (ha : s.operand k 0 = some a) {rows : Nat} (hrows : ringRows a = some rows) (hfew : rows < 96) :
    M.run (searchOp n unit own true roiAt field) s = M.run (do
      settleAll (← raiseFor n k.engine (partOf k.engine) 0x3901 (taskDetail [(2, rows)] k 0))
      finish n 1) s := by
  unfold searchOp
  rw [run_getS_bind, hk]
  dsimp only
  rw [ha]
  change M.run (if (true && decide ((ringRows a).getD 96 < 96)) = true then do
      settleAll (← raiseFor n k.engine (partOf k.engine) 0x3901 (taskDetail [(2, (ringRows a).getD 0)] k 0))
      finish n 1 else _) s = _
  rw [hrows, Option.getD_some, Option.getD_some, if_pos (by simpa using hfew)]

theorem runsPlan_search {c : Instr} (hexec : exec c s = .next (M.run (searchOp n unit own flow roiAt field) s)) (hk : s.task n = some k)
    (ha : s.operand k 0 = some a) (hrows : flow = true → 96 ≤ (ringRows a).getD 96) :
    RunsPlan c s s n k (searchPlan flow roiAt field k.handle k.params) (fun _ => 0) fun v t => v.SameBut [.regs, .tally, .safe] t := by
  obtain ⟨notes, post, hrun, hnotes, hpost⟩ := run_searchOp (unit := unit) (own := own) (roiAt := roiAt) (field := field) hk ha hrows
  exact runsPlan_plain (hexec.trans (congrArg _ hrun)) hk (fun u => hnotes u _) hpost

end

/-! ## Features and PRACH -/

theorem runsPlan_featDetect (hk : s.task n = some k) (h : s.opTask e 0x507 = some n) :
    RunsPlan (.featDetect e) s s n k (featDetectPlan k) (fun _ => 0) fun v t => v.SameBut [.regs, .tally, .safe] t := by
  have hrun : ∃ (notes : State → List Ten → Notes) (post : List OutW → M Unit), M.run (featDetectOp n) s =
        M.run (runPlanWith n (boundedSampling k) true (featDetectPlan k) notes post) s ∧
      (∀ u ts, (notes u ts).2 = 0) ∧ ∀ ws, M.All (Upd.In 0x100008) (post ws) := by
    unfold featDetectOp
    rw [run_getS_bind, hk]
    refine ⟨_, _, rfl, fun _ _ => rfl, fun ws => ?_⟩
    refine .ite ?_ (.pure _)
    extract_lets jp
    have hjp : ∀ r, M.All (Upd.In 0x100008) (jp r) := fun _ => .ite (bump_reach rfl _ _ _) (.pure _)
    cases s.operand k 0 with
    | some a => exact .bind (bump_reach rfl _ _ _) hjp
    | none => exact hjp ()
  obtain ⟨notes, post, hrun, hnotes, hpost⟩ := hrun
  exact runsPlan_plain ((opCommand_next (m := featDetectOp) h).trans (congrArg _ hrun)) hk (fun u => hnotes u _) hpost

theorem runsPlan_prachDetect (hk : s.task n = some k) (h : s.opTask e 0x604 = some n) :
    RunsPlan (.prachDetect e) s s n k (prachPlan k.handle s.clock.now k.params) (fun _ => 0) fun v t => v.SameBut [.regs, .tally, .safe] t := by
  refine runsPlan_plain (smp := .none) (every := false) (notes := fun _ _ => ([], 0)) (post := fun _ => radioCount n 1 0)
    ?_ hk (fun _ => rfl) fun _ => radioCount_reach rfl _ _ _
  refine (opCommand_next (m := prachDetect) h).trans (congrArg _ ?_)
  unfold prachDetect
  rw [run_getS_bind, hk]

section
variable {ta tb : Ten}

/-- The first fault of the lists of FEAT_MATCH. -/
theorem run_featMatchOp_fault (hk : s.task n = some k) (ha : s.operand k 0 = some ta) (hb : s.operand k 1 = some tb) {c : Nat}
    (hfault : listFault (ta.listBytes s k.handle) (ta.ext 0) false = some c) :
    M.run (featMatchOp n) s = M.run (do
      settleAll (← raiseFor n k.engine (partOf k.engine) 0x3A01 (taskDetail [(1, 0), (1, c)] k 0))
      finish n 1) s := by
  unfold featMatchOp
  rw [run_getS_bind, hk]
  dsimp only
  rw [ha, hb]
  dsimp only
  rw [hfault]

theorem runsPlan_featMatch (hk : s.task n = some k) (ha : s.operand k 0 = some ta) (hb : s.operand k 1 = some tb)
    (h : s.opTask e 0x508 = some n) (hfa : listFault (ta.listBytes s k.handle) (ta.ext 0) false = none)
    (hfb : listFault (tb.listBytes s k.handle) (tb.ext 0) true = none) :
    RunsPlan (.featMatch e) s s n k (featMatchPlan (s.operand k 2).isSome (ta.listBytes s k.handle) (tb.listBytes s k.handle)
      (featMatches s k (ta.listBytes s k.handle) (tb.listBytes s k.handle) (s.operand k 2))) (fun _ => 0)
      fun v t => v.SameBut [.regs, .tally, .safe] t := by
  have hrun : ∃ post : List OutW → M Unit, M.run (featMatchOp n) s = M.run (runPlanWith n .none false
      (featMatchPlan (s.operand k 2).isSome (ta.listBytes s k.handle) (tb.listBytes s k.handle)
        (featMatches s k (ta.listBytes s k.handle) (tb.listBytes s k.handle) (s.operand k 2))) (fun _ _ => ([], 0)) post) s ∧
      ∀ ws, M.All (Upd.In 0x100008) (post ws) := by
    unfold featMatchOp
    rw [run_getS_bind, hk]
    dsimp only
    rw [ha, hb]
    dsimp only
    rw [hfa]
    dsimp only
    rw [hfb]
    exact ⟨_, rfl, fun _ => .ite (bump_reach rfl _ _ _) (.pure _)⟩
  obtain ⟨post, hrun, hpost⟩ := hrun
  exact runsPlan_plain ((opCommand_next (m := featMatchOp) h).trans (congrArg _ hrun)) hk (fun _ => rfl) hpost

end

/-! ## Frames -/

section
variable {page : List Byte} {list : List (Nat × Nat)} {u : State} {h addr : Nat}

/-- The page of a frame is read and is the one given, and so is its list of defects. -/
def readPage (engine h addr : Nat) (page : List Byte) : M (Except MemErr (List (Nat × Nat))) := do
  match ← ctxRead engine h addr 8192 with
  | .error x => return .error x
  | .ok pg => if pg = page then defectList engine h pg else return .error .page

theorem run_page (hread : (readPage k.engine h addr page).gives s (.ok list) u) (hok : pageOk page = true)
    {reads : State → List Ten → List (Nat × List Int)} {inp : State → List Ten → IspInput} {m : List Byte → M Unit}
    (hm : m page = ispRun n k h page reads inp) :
    M.run (do
      match ← ctxRead k.engine h addr 8192 with
      | .error x => opFault n x
      | .ok pg => m pg) s =
    M.run (runPlanWith n (boundedSampling k) true (ispPlan k page list reads inp) (fun _ _ => ([], 0)) fun _ => pure ()) u := by
  obtain ⟨r, t, -, hctx⟩ := ctxRead_reach (msk := 0xBA9) rfl k.engine h addr 8192 s
  have hctx' : (ctxRead k.engine h addr 8192).gives s r t := hctx
  unfold readPage at hread
  cases r with
  | error x => cases (hread.unique (hctx'.bind (pure_gives _ _))).1
  | ok pg =>
    by_cases hpg : pg = page
    · subst hpg
      obtain ⟨r', t', -, hdef⟩ := defectList_reach (msk := 0xBA9) rfl k.engine h pg t
      have hdef' : (defectList k.engine h pg).gives t r' t' := hdef
      obtain ⟨rfl, rfl⟩ := hread.unique (hctx'.bind (M.gives.ite_pos rfl _ hdef'))
      rw [hctx'.run_bind]
      dsimp only
      rw [hm, ispRun, if_neg (by simp [hok]), hdef'.run_bind]
    · cases (hread.unique (hctx'.bind (M.gives.ite_neg hpg _ (pure_gives _ _)))).1

theorem runsPlan_isp {c : Instr} {s₀ : State} {reads : State → List Ten → List (Nat × List Int)} {inp : State → List Ten → IspInput}
    (hexec : exec c s₀ = .next (M.run (runPlanWith n (boundedSampling k) true (ispPlan k page list reads inp) (fun _ _ => ([], 0)) fun _ => pure ()) u))
    (hk : u.task n = some k) : RunsPlan c s₀ u n k (ispPlan k page list reads inp) (fun _ => 0) fun v t => v.SameBut [.regs, .tally, .safe] t :=
  runsPlan_plain hexec hk (fun _ => rfl) fun _ => .pure _

theorem exec_ispFrame (hk : s.task n = some k) (h : s.opTask e 0x500 = some n)
    (hready : leAt k.params 1 1 = 1 ∨ ∃ c num, s.ispFrame k = some (c, num) ∧
      (s.frameGone c num = true ∨ ∃ f, s.frameOf c num = some f ∧ f.isOpen = false)) :
    exec (.ispFrame e) s = .next (M.run (ispFrameOp n) s) := by
  change execIspFrame e s = _
  refine whenTask_next (c := fun s => match s.opTask e 0x500 with | some t => s.ispReady t | none => false) h ?_
  rw [h]
  dsimp only
  rw [State.ispReady, hk]
  dsimp only
  obtain hone | ⟨c, num, hframe, hgone⟩ := hready
  · rw [hone]
    rfl
  · rw [hframe]
    dsimp only
    obtain hgone | ⟨f, hf, hopen⟩ := hgone
    · rw [hgone, Bool.true_or, Bool.or_true]
    · rw [hf, Option.map_some, hopen]
      simp

end

/-! ## Radio -/

/-- A radio operation that runs a plan and then forgets its symbols. -/
theorem runsPlan_radio {c : Instr} {s₀ u : State} {plan : State → List Ten → Plan} {extra : State → Nat} {notes : State → List Ten → Notes}
    {f : Radio → Radio} (hexec : exec c s₀ = .next (M.run (runPlanWith n .none false plan notes (fun _ => pure ()) >>= fun _ => modRadio f) u))
    (hk : u.task n = some k) (hextra : ∀ v, (notes v (u.operands k)).2 = extra v) :
    RunsPlan c s₀ u n k plan extra fun v t => v.SameBut [.regs, .tally, .safe, .radio] t :=
  runsPlan_of (msk := 0x500008) (rest := fun _ => modRadio f) hexec hk hextra ⟨rfl, by decide, rfl, by decide⟩ (fun _ => .pure _)
    (modRadio_reach rfl _)

theorem exec_dfeDdc {u : State} (hk : s.task n = some k) (h : s.opTask e 0x600 = some n) (hover : s.symbolsOver k (dfeSpan k.params) = true)
    (hzero : M.gives (do
        for i in unseen s.radio.rx n k (dfeSpan k.params).count do zeroSymbol n k (dfeSpan k.params).car ((dfeSpan k.params).l0 + i) 0x4C03 false
        bump (Reg.rdWork 1) Fld.rdWorkCount (s.carStreams (dfeSpan k.params).car *
          (List.range (dfeSpan k.params).count).foldl (fun n i => n + s.symLen (dfeSpan k.params).car (s.taskSym k (dfeSpan k.params) i)) 0)) s () u) :
    exec (.dfeDdc e) s = .next (M.run (runPlanWith n .none false (ddcPlan n k (dfeSpan k.params)) (fun _ _ => ([], 0)) (fun _ => pure ()) >>=
      fun _ => modRadio fun r => { r with rx := r.rx.filter fun x => x.task != n }) u) := by
  change execDfeDdc e s = _
  refine (whenTask_next (m := dfeDdc) (c := fun s => match (s.opTask e 0x600).bind s.task with
      | some k => s.symbolsOver k (dfeSpan k.params)
      | none => false) h ?_).trans (congrArg _ ?_)
  · rw [h, Option.bind_some, hk]
    exact hover
  · unfold dfeDdc
    rw [run_getS_bind, hk]
    exact (congrArg (fun m => M.run m s) (bind_assoc _ _ _)).symm.trans (hzero.run_bind _)

theorem exec_dfeDuc {u : State} (hk : s.task n = some k) (h : s.opTask e 0x601 = some n) (hover : s.launchesOver k (dfeSpan k.params) = true)
    (hzero : M.gives (do for i in unseen s.radio.launched n k (dfeSpan k.params).count do
        zeroSymbol n k (dfeSpan k.params).car ((dfeSpan k.params).l0 + i) 0x4C03 true) s () u) :
    exec (.dfeDuc e) s = .next (M.run (runPlanWith n .none false (ducPlan n k (dfeSpan k.params)) (fun _ _ => ([], 0)) (fun _ => pure ()) >>=
      fun _ => modRadio fun r => { r with launched := r.launched.filter fun x => x.task != n }) u) := by
  change execDfeDuc e s = _
  refine (whenTask_next (m := dfeDuc) (c := fun s => match (s.opTask e 0x601).bind s.task with
      | some k => s.launchesOver k (dfeSpan k.params)
      | none => false) h ?_).trans (congrArg _ ?_)
  · rw [h, Option.bind_some, hk]
    exact hover
  · unfold dfeDuc
    rw [run_getS_bind, hk]
    exact hzero.run_bind _

theorem exec_fhTx (hk : s.task n = some k) (h : s.opTask e 0x609 = some n) (hsettled : settled s.radio.fhSent n k = true) :
    exec (.fhTx e) s = .next (M.run (runPlanWith n .none false (fhTxPlan n k) (fun _ _ => ([], 0)) (fun _ => pure ()) >>=
      fun _ => modRadio fun r => { r with fhSent := r.fhSent.filter fun x => x.task != n }) s) := by
  change execFhTx e s = _
  refine (whenTask_next (m := fhTx) (c := fun s => match s.opTask e 0x609 with
      | some t => ((s.task t).map fun k => settled s.radio.fhSent t k).getD false
      | none => false) h ?_).trans (congrArg _ ?_)
  · rw [h]
    dsimp only
    rw [hk]
    exact hsettled
  · unfold fhTx
    rw [run_getS_bind, hk]
    rfl

theorem exec_fhRx (hk : s.task n = some k) (h : s.opTask e 0x60A = some n) (hsettled : settled s.radio.fhClosed n k = true) :
    exec (.fhRx e) s = .next (M.run (runPlanWith n .none false (fhRxPlan n k)
      (fun s _ => ([], ((s.fhResults n k).filter fun r => r.2.isNone).length)) (fun _ => pure ()) >>= fun _ => modRadio fun r => { r with
        fhPrbs := r.fhPrbs.filter fun x => x.task != n
        fhClosed := r.fhClosed.filter fun x => x.task != n }) s) := by
  change execFhRx e s = _
  refine (whenTask_next (m := fhRx) (c := fun s => match s.opTask e 0x60A with
      | some t => ((s.task t).map fun k => settled s.radio.fhClosed t k).getD false
      | none => false) h ?_).trans (congrArg _ ?_)
  · rw [h]
    dsimp only
    rw [hk]
    exact hsettled
  · unfold fhRx
    rw [run_getS_bind, hk]

end

/-- Settles O35: each vision and radio operation runs its plan once what it waits for is there, and is turned away or ended otherwise. -/
theorem visionAndRadioOperationsRunTheirPlans : Obligations.VisionAndRadioOperationsRunTheirPlans := by
  unfold Obligations.VisionAndRadioOperationsRunTheirPlans
  intro s e n k hk h p ts quiet radio
  refine ⟨fun hop => runsPlan_pyrBuild hk hop, fun a o ha ho => ⟨fun hop => ⟨fun hw => ?_, fun ty rows hw => ?_⟩,
      fun hop => ⟨fun hw => ?_, fun ty rows hw => ?_⟩⟩,
    fun a ha => ⟨fun hop => ⟨fun hrows => ?_, fun r d b c hring hin hfew => ?_⟩, fun hop => ?_⟩, fun hop => runsPlan_featDetect hk hop,
    fun ta tb ha hb hop => ⟨fun hfa hfb => runsPlan_featMatch hk ha hb hop hfa hfb, fun c hc => ?_⟩, fun hop => runsPlan_prachDetect hk hop,
    fun page list u hop hmode hpage hread hu => ?_, fun c num f page list u hop hmode hframe hf hgone hopen hfp hpage hdirect hmiss hcrc hread hu => ?_,
    fun c num hop hmode hframe => ⟨fun hgone => ?_, fun f hgone hf hopen => ?_⟩,
    fun k' u hop hover hzero hu => runsPlan_radio (exec_dfeDdc hk hop hover hzero) hu fun _ => rfl, fun hop hover => ?_,
    fun k' u hop hover hzero hu => runsPlan_radio (exec_dfeDuc hk hop hover hzero) hu fun _ => rfl, fun hop hover => ?_,
    fun hop hset => runsPlan_radio (exec_fhTx hk hop hset) hk fun _ => rfl, fun hop hset => ?_,
    fun hop hset => runsPlan_radio (exec_fhRx hk hop hset) hk fun _ => rfl, fun hop hset => ?_⟩
  · exact runsPlan_warp (exec_warpMesh hk hop) hk ha ho hw
  · exact completesThen_of rfl ((exec_warpMesh hk hop).trans (congrArg _ (run_warpOp_fault hk ha ho hw)))
  · exact runsPlan_warp (exec_warpHomog hk hop) hk ha ho hw
  · exact completesThen_of rfl ((exec_warpHomog hk hop).trans (congrArg _ (run_warpOp_fault hk ha ho hw)))
  · refine runsPlan_search (opCommand_next (m := fun t => searchOp t 0 0x2B true 12 flowField) hop) hk ha fun _ => ?_
    obtain hring | hin | ⟨r, d, b, c, hring, hmany⟩ := hrows
    · simp [ringRows, hring]
    · unfold ringRows
      split
      · simp [hin]
      · simp
    · unfold ringRows
      rw [hring]
      dsimp only
      split
      · exact hmany
      · simp
  · refine completesThen_of rfl ((opCommand_next (m := fun t => searchOp t 0 0x2B true 12 flowField) hop).trans
      (congrArg _ (run_searchOp_fault hk ha (rows := r * d) ?_ hfew)))
    unfold ringRows
    rw [hring]
    exact if_pos hin
  · exact runsPlan_search (opCommand_next (m := fun t => searchOp t 1 0x2C false 16 steField) hop) hk ha nofun
  · exact completesThen_of rfl ((opCommand_next (m := featMatchOp) hop).trans (congrArg _ (run_featMatchOp_fault hk ha hb hc)))
  · refine runsPlan_isp ((exec_ispFrame hk hop (.inl hmode)).trans (congrArg _ ?_)) hu
    unfold ispFrameOp
    rw [run_getS_bind, hk]
    dsimp only
    rw [if_pos hmode]
    exact run_page (m := fun page => ispRun n k k.handle page detachedReads (detachedInput k)) hread hpage rfl
  · refine runsPlan_isp ((exec_ispFrame hk hop (.inr ⟨c, num, hframe, .inr ⟨f, hf, hopen⟩⟩)).trans (congrArg _ ?_)) hu
    have hmode' : leAt k.params 1 1 ≠ 1 := by rw [hmode]; decide
    unfold ispFrameOp
    rw [run_getS_bind, hk]
    dsimp only
    rw [if_neg hmode', hframe]
    dsimp only
    unfold ispCamera
    rw [run_getS_bind, hf]
    dsimp only
    rw [if_neg (by simp [hgone]), if_neg hfp]
    refine run_page (reads := fun _ _ => []) hread hpage ?_
    rw [if_pos (by simp [hdirect, hmiss]), pure_bind]
    exact if_neg (not_not.mpr hcrc)
  · refine completesThen_of rfl ((exec_ispFrame hk hop (.inr ⟨c, num, hframe, .inl hgone⟩)).trans (congrArg _ ?_))
    have hmode' : leAt k.params 1 1 ≠ 1 := by rw [hmode]; decide
    unfold ispFrameOp
    rw [run_getS_bind, hk]
    dsimp only
    rw [if_neg hmode', hframe]
    dsimp only
    unfold ispCamera
    rw [run_getS_bind]
    cases s.frameOf c num with
    | none => rfl
    | some f => exact congrArg (fun m => M.run m s) (if_pos hgone)
  · have hmode' : leAt k.params 1 1 ≠ 1 := by rw [hmode]; decide
    change execIspFrame e s = _
    refine whenEnabled_refused ?_
    rw [hop]
    dsimp only
    rw [State.ispReady, hk]
    dsimp only
    rw [hframe]
    dsimp only
    rw [hgone, hf, Option.map_some, hopen]
    simp [hmode']
  · change execDfeDdc e s = _
    exact whenEnabled_refused (by rw [hop, Option.bind_some, hk]; exact hover)
  · change execDfeDuc e s = _
    exact whenEnabled_refused (by rw [hop, Option.bind_some, hk]; exact hover)
  · change execFhTx e s = _
    refine whenEnabled_refused ?_
    rw [hop]
    dsimp only
    rw [hk]
    exact hset
  · change execFhRx e s = _
    refine whenEnabled_refused ?_
    rw [hop]
    dsimp only
    rw [hk]
    exact hset

end Sys2Proof.Machine
end

section
/-! PROOFS. Communication operations send their part, receive and combine: O48 (R421, R422). -/

namespace Sys2Proof.Machine

open Sys2Proof

/-! ## What an operand shows -/

/-- Two states in which memory, its translation, Hall records and jobs are the same. -/
structure State.Shows (s t : State) : Prop where
  mem : t.mem = s.mem
  regs : t.regs = s.regs
  sys : t.sys = s.sys
  engines : t.engines = s.engines
  rcv : t.rcv = s.rcv
  hall : t.hall = s.hall
  contexts : t.tally.contexts = s.tally.contexts
  buffers : t.tally.buffers = s.tally.buffers

section
variable {s t : State}

theorem State.Shows.place (h : s.Shows t) (a : Nat) : t.place a = s.place a :=
  State.place_congr (by rw [h.sys]) (fun _ => reg_congr h.regs _) h.engines a

theorem State.Shows.byteAt (h : s.Shows t) (a : Nat) : t.byteAt a = s.byteAt a := State.byteAt_congr h.mem (by rw [h.sys]) h.place a

theorem State.Shows.bytesAt (h : s.Shows t) (a n : Nat) : t.bytesAt a n = s.bytesAt a n := by
  simp only [State.bytesAt, h.byteAt]

theorem State.Shows.fld (h : s.Shows t) (x : Nat) (f : Field) : t.fld x f = s.fld x f := fld_congr h.regs x f

theorem State.Shows.walk (h : s.Shows t) (who va l table : Nat) : t.walk who va l table = s.walk who va l table := by
  have hf (d : Nat) : t.fence d = s.fence d := by rw [State.fence, h.rcv, State.fence]
  have hfence (p : Nat) : t.fenced p = s.fenced p := by simp only [State.fenced, hf, h.rcv]
  have hsize (a : Nat) : t.eccSize a = s.eccSize a := by
    rw [State.eccSize, h.place, State.eccSize]
    cases s.place a with
    | ddr p off =>
      have hflag : t.flag (Reg.mcCtl (chanOf p off)) Fld.mcCtlEccMode = s.flag (Reg.mcCtl (chanOf p off)) Fld.mcCtlEccMode := by
        rw [State.flag, h.fld, State.flag]
      dsimp only
      rw [hflag]
    | _ => rfl
  have hecc (a n : Nat) : t.eccWords a n = s.eccWords a n := by simp only [State.eccWords, hsize]
  induction l generalizing table with
  | zero => rfl
  | succ l ih =>
    have hplace (pl : Place) : t.placeFenced pl = s.placeFenced pl := by
      cases pl <;> simp only [State.placeFenced, hfence, hf]
    unfold State.walk
    simp only [ih, h.place, hplace, hecc, State.numAt, h.bytesAt, h.sys]
    rfl

theorem State.Shows.peekAddr (h : s.Shows t) (c va : Nat) : t.peekAddr c va = s.peekAddr c va := by
  unfold State.peekAddr State.ctx State.ctxAt
  simp only [h.contexts, h.walk]

theorem State.Shows.peek (h : s.Shows t) (c va n : Nat) : t.peek c va n = s.peek c va n := by
  unfold State.peek
  simp only [h.peekAddr, h.bytesAt]

theorem State.Shows.operand (h : s.Shows t) (k : Task) (slot : Nat) : t.operand k slot = s.operand k slot := by
  have hrank : t.rankOf k.handle = s.rankOf k.handle := by
    simp only [State.rankOf, State.jobOf, h.fld, State.reg, h.regs]
  unfold State.operand State.hallOf State.bufferAt
  simp only [hrank, h.hall, h.buffers]

theorem State.Shows.transferMsg (h : s.Shows t) (c j rank : Nat) (p : List Byte) (o : Ten) :
    transferMsg t c j rank p o = transferMsg s c j rank p o := by
  unfold Machine.transferMsg Ten.code Ten.scaleByte State.jobEpoch
  simp only [h.peek, h.fld]

end

/-! ## Sending -/

section
variable {s u : State} {n : Nat} {k : Task} {ranks : List Nat}

theorem writeSeals_gives_nil (k : Task) (ts : List Ten) (s : State) : (writeSeals k ts []).gives s () s := by
  unfold writeSeals
  refine (forIn_gives_self (fun t _ b => ?_) _).bind (pure_gives _ _)
  refine M.gives.getS_bind ?_
  split
  · exact pure_gives _ _
  · refine (forIn_gives_self (fun i _ b => ?_) _).bind (pure_gives _ _)
    exact pure_gives _ _

theorem planWrites_gives_nil {ts : List Ten} {p : Plan} (hp : p.writes = []) : (planWrites u k ts p).gives u none u := by
  have hgood : goodWrites ts p = [] := by rw [goodWrites, hp, List.filter_nil]
  unfold planWrites
  rw [hgood]
  exact (pure_gives _ _).bind ((writeSeals_gives_nil k ts u).bind (pure_gives _ _))

theorem openQp_gives_ready {j r i : Nat} {q : Qp} (hq : s.qpOf j r = some (i, q)) (hready : q.phase = .ready) :
    (openQp j r).gives s (some i) s := by
  unfold openQp
  refine M.gives.getS_bind ?_
  rw [hq]
  dsimp only
  rw [if_pos hready]
  exact pure_gives _ _

theorem sendPlan_writes (s : State) (ts : List Ten) : (sendPlan s ts).writes = [] := by
  unfold sendPlan
  split <;> rfl

/-- What sending leaves of the state its reads left (R422): the task has still to be acknowledged, and its part counts as sent. -/
structure State.Sending (u : State) (n : Nat) (k : Task) (v : State) : Prop where
  frame : u.SameBut [.regs, .tally, .fabric, .safe] v
  task : ∃ y, v.task n = some y ∧ y.done = false ∧ y.life = k.life
  fabric : v.fabric = { u.fabric with sends := u.fabric.sends.filter (fun x => x.1 != n) ++ [(n, k.runAt)] }

/-- The state in which a task's part counts as sent in its run and the task as not done. -/
def State.withSent (s : State) (n run : Nat) (y : Task) : State :=
  (Upd.fabric fun f => { f with sends := f.sends.filter (fun x => x.1 != n) ++ [(n, run)] }).apply (s.withTask n { y with done := false })

theorem sendPart_then (hk : s.task n = some k) (hready : ∀ r ∈ ranks, ∃ i q, s.qpOf (fabJob k.params) r = some (i, q) ∧ q.phase = .ready)
    (hreads : (planReads s k (sendPlan s (s.operands k))).gives s none u) (hu : u.task n = some k) :
    (sendPart n k ranks).Then s (sendShards n k ranks) (u.Sending n k) := by
  have hP := prefixClosed_then (sendShards n k ranks) (u.Sending n k)
  unfold sendPart
  refine hP _ _ _ _ _ true (forIn_gives_self (fun r hr b => ?_) _) ?_
  · obtain ⟨i, q, hq, hphase⟩ := hready r hr
    exact (openQp_gives_ready hq hphase).bind (pure_gives _ _)
  · rw [if_pos rfl]
    refine hP.of_runPlanWith hk hreads (planWrites_gives_nil (sendPlan_writes _ _)) fun ws w hw => ?_
    obtain ⟨y, hy, -, hlife, -⟩ := hw.task k hu
    refine .getS (hP _ _ _ _ _ _ (modTask_gives hy _) (.upd ?_))
    refine ⟨w.withSent n k.runAt y, ⟨?_, ⟨{ y with done := false }, (State.task_withTask w n _ n).trans (if_pos rfl), rfl, hlife⟩, ?_⟩, ?_⟩
    · exact ((hw.frame.mono (by decide)).upd (.tally fun x => { x with tasks := tblSet x.tasks n { y with done := false } }) rfl).upd (.fabric _) rfl
    · exact congrArg (fun f : Fabric => { f with sends := f.sends.filter (fun z : Nat × Nat => z.1 != n) ++ [(n, k.runAt)] })
        (hw.frame.2 .fabric (by decide))
    · have hshows : w.Shows (w.withSent n k.runAt y) := ⟨rfl, rfl, rfl, rfl, rfl, rfl, rfl, rfl⟩
      unfold sendShards
      rw [run_getS_bind, hshows.operand]
      cases w.operand k 0 with
      | none => rfl
      | some o =>
        dsimp only
        simp only [hshows.transferMsg]
        rfl

end

/-! ## The commands -/

section
variable {s : State} {e n : Nat} {k : Task}

/-- What the statement says of a result that uses up transfers. -/
def Drops (xs : List Transfer) (v t : State) : Prop :=
  v.SameBut [.regs, .tally, .fabric, .safe] t ∧ t.fabric = { v.fabric with transfers := v.fabric.transfers.filter fun x => !xs.contains x }

theorem runsPlan_drops {c : Instr} {plan : State → List Ten → Plan} {extra : State → Nat} {notes : State → List Ten → Notes}
    {xs : List Transfer} (hexec : exec c s = .next (M.run (runPlanWith n .none false plan notes fun _ => dropTransfers xs) s))
    (hk : s.task n = some k) (hextra : ∀ v, (notes v (s.operands k)).2 = extra v) : RunsPlan c s s n k plan extra (Drops xs) := by
  refine runsPlan_of_leads (ps := [.regs, .tally, .fabric, .safe]) (rest := pure) (by rw [bind_pure]; exact hexec) hk hextra (by decide)
    fun v r ws w hw => ?_
  rw [bind_pure]
  refine (update_gives _ w).leads ?_
  have hframe := (hw.frame.mono (by decide)).upd (ps := [.regs, .tally, .fabric, .safe])
    (.fabric fun f => { f with transfers := f.transfers.filter fun x => !xs.contains x }) rfl
  exact ⟨⟨hframe, hw.others, hw.task⟩, hframe,
    congrArg (fun f : Fabric => { f with transfers := f.transfers.filter fun x => !xs.contains x }) (hw.frame.2 .fabric (by decide))⟩

theorem exec_sendShard (hk : s.task n = some k) (hop : s.opTask e 0x800 = some n) (hsent : s.hasSent n = false) :
    exec (.sendShard e) s = .next (M.run (sendPart n k [fabPeer k.params]) s) := by
  change execSendShard e s = _
  refine (whenEnabled_next ?_).trans (congrArg _ ?_)
  · rw [hop]
    dsimp only
    rw [hsent]
    rfl
  · rw [run_getS_bind, hop]
    dsimp only
    rw [hk]

theorem exec_recvShard (hk : s.task n = some k) (hop : s.opTask e 0x801 = some n) {x : Transfer}
    (hx : s.transferFor k.params (fabPeer k.params) = some x) : exec (.recvShard e) s = .next (M.run (recvShard n k) s) := by
  change execRecvShard e s = _
  refine (whenEnabled_next ?_).trans (congrArg _ ?_)
  · rw [hop, Option.bind_some, hk]
    dsimp only
    rw [hx]
    rfl
  · rw [run_getS_bind, hop]
    dsimp only
    rw [hk]

theorem run_recvShard {x : Transfer} {o : Ten} (hx : s.transferFor k.params (fabPeer k.params) = some x) (ho : s.operand k 8 = some o) :
    M.run (recvShard n k) s = M.run (if x.shape.take 51 ≠ padTo 51 (shapeOf o) then shapeMismatch n (fabPeer k.params) k
      else runPlanWith n .none false (recvPlan x) (fun _ _ => ([], 0)) fun _ => dropTransfers [x]) s := by
  unfold recvShard
  rw [run_getS_bind, hx, ho]

section
variable {op : Nat} {plan : Task → State → List Ten → Plan} {notes : Task → State → List Ten → Notes}

theorem allCommand_next (hk : s.task n = some k) (hop : s.opTask e op = some n) (h : s.hasSent n = false ∨ s.gathered n k = true) :
    allCommand e op plan notes s = .next (M.run (allMembers n k (plan k) (notes k)) s) := by
  refine (whenEnabled_next ?_).trans (congrArg _ ?_)
  · rw [hop]
    dsimp only
    rw [hk, Option.map_some, Option.getD_some]
    obtain h | h := h
    · rw [h]; rfl
    · rw [h, Bool.or_true]
  · rw [run_getS_bind, hop]
    dsimp only
    rw [hk]

theorem allCommand_refused (hk : s.task n = some k) (hop : s.opTask e op = some n) (hsent : s.hasSent n = true) (h : s.gathered n k = false) :
    allCommand e op plan notes s = .refused .notEnabled := by
  refine whenEnabled_refused ?_
  rw [hop]
  dsimp only
  rw [hk, Option.map_some, Option.getD_some, hsent, h]
  rfl

theorem run_allMembers_send {p : State → List Ten → Plan} {m : State → List Ten → Notes} (hsent : s.hasSent n = false) :
    M.run (allMembers n k p m) s = M.run (sendPart n k (s.otherRanks (fabJob k.params))) s := by
  unfold allMembers
  rw [run_getS_bind]
  dsimp only
  rw [if_pos (by rw [hsent]; rfl)]

theorem run_allMembers_combine {p : State → List Ten → Plan} {m : State → List Ten → Notes} {o : Ten} (hsent : s.hasSent n = true)
    (ho : s.operand k 0 = some o) : M.run (allMembers n k p m) s =
      M.run (match ((s.otherRanks (fabJob k.params)).filterMap fun r => s.transferFor k.params r).find? fun x =>
          x.shape.take 51 != padTo 51 (shapeOf o) with
        | some x => shapeMismatch n x.sender k
        | none => runPlanWith n .none false p m fun _ => dropTransfers ((s.otherRanks (fabJob k.params)).filterMap fun r => s.transferFor k.params r)) s := by
  unfold allMembers
  rw [run_getS_bind]
  dsimp only
  rw [if_neg (by rw [hsent]; decide), ho]
  rfl

theorem hasSent_of_gathered (h : s.gathered n k = true) : s.hasSent n = true := by
  simp only [State.gathered, Bool.and_eq_true] at h
  exact h.1.1

end

end

/-- What the statement says of a command that sends a task's part to some ranks. -/
theorem sends_of {s : State} {c : Instr} {n : Nat} {k : Task} {ranks : List Nat} (hexec : exec c s = .next (M.run (sendPart n k ranks) s))
    (hk : s.task n = some k) (hready : ∀ r ∈ ranks, ∃ i q, s.qpOf (fabJob k.params) r = some (i, q) ∧ q.phase = .ready) (u : State)
    (hreads : (planReads s k (sendPlan s (s.operands k))).gives s none u) (hu : u.task n = some k) :
    CompletesThen c s (sendShards n k ranks) fun v => u.SameBut [.regs, .tally, .fabric, .safe] v ∧
      (∃ y, v.task n = some y ∧ y.done = false ∧ y.life = k.life) ∧
      v.fabric = { u.fabric with sends := u.fabric.sends.filter (fun x => x.1 != n) ++ [(n, k.runAt)] } := by
  obtain ⟨v, hv, hrun⟩ := sendPart_then hk hready hreads hu
  exact completesThen_of_then hexec ⟨v, ⟨hv.frame, hv.task, hv.fabric⟩, hrun⟩

/-- Settles O48: sending reads the part, notes it as sent and posts it; receiving and combining write what was received, or end the task
where a transfer differs. -/
theorem communicationOperationsSendReceiveAndCombine : Obligations.CommunicationOperationsSendReceiveAndCombine := by
  unfold Obligations.CommunicationOperationsSendReceiveAndCombine
  intro s e n k hk j ts sends drops differs
  have hall : ∀ c op (plan : Task → State → List Ten → Plan) (notes : Task → State → List Ten → Notes), exec c s = allCommand e op plan notes s →
      s.opTask e op = some n →
      (s.hasSent n = false → sends c (s.otherRanks j)) ∧ (s.hasSent n = true → s.gathered n k = false → TurnedAway c s) ∧
      (∀ xs o, xs = (s.otherRanks j).filterMap (fun r => s.transferFor k.params r) → s.operand k 0 = some o → s.gathered n k = true →
        ((∀ x ∈ xs, x.shape.take 51 = padTo 51 (shapeOf o)) → RunsPlan c s s n k (plan k) (fun u => (notes k u ts).2) (drops xs)) ∧
        ∀ x, xs.find? (fun x => x.shape.take 51 != padTo 51 (shapeOf o)) = some x → CompletesThen c s (differs x.sender) fun u => u = s) := by
    intro c op plan notes hexec hop
    refine ⟨fun hsent hready u hreads hu => ?_, fun hsent hgath => hexec.trans (allCommand_refused hk hop hsent hgath),
      fun xs o hxs ho hgath => ⟨fun hsame => ?_, fun x hx => ?_⟩⟩
    · exact sends_of (hexec.trans ((allCommand_next hk hop (.inl hsent)).trans (congrArg _ (run_allMembers_send hsent)))) hk hready u hreads hu
    · have hfind : xs.find? (fun x => x.shape.take 51 != padTo 51 (shapeOf o)) = none :=
        List.find?_eq_none.mpr fun x hx => by simp [hsame x hx]
      refine runsPlan_drops (xs := xs) (notes := notes k) (hexec.trans ((allCommand_next hk hop (.inr hgath)).trans (congrArg _ ?_))) hk fun _ => rfl
      rw [run_allMembers_combine (hasSent_of_gathered hgath) ho, ← hxs, hfind]
    · refine completesThen_of rfl (hexec.trans ((allCommand_next hk hop (.inr hgath)).trans (congrArg _ ?_)))
      rw [run_allMembers_combine (hasSent_of_gathered hgath) ho, ← hxs, hx]
      rfl
  refine ⟨fun hop => ⟨fun hsent hready u hreads hu => ?_, fun hsent => ?_⟩, fun hop => ⟨fun x o hx ho => ⟨fun hsame => ?_, fun hdiff => ?_⟩, fun hx => ?_⟩,
    ?_⟩
  · exact sends_of (exec_sendShard hk hop hsent) hk hready u hreads hu
  · change execSendShard e s = _
    refine whenEnabled_refused ?_
    rw [hop]
    dsimp only
    rw [hsent]
    rfl
  · refine runsPlan_drops (notes := fun _ _ => ([], 0)) ((exec_recvShard hk hop hx).trans (congrArg _ ?_)) hk fun _ => rfl
    rw [run_recvShard hx ho, if_neg (not_not.mpr hsame)]
  · refine completesThen_of rfl ((exec_recvShard hk hop hx).trans (congrArg _ ?_))
    rw [run_recvShard hx ho, if_pos hdiff]
    rfl
  · change execRecvShard e s = _
    refine whenEnabled_refused ?_
    rw [hop, Option.bind_some, hk]
    dsimp only
    rw [hx]
    rfl
  · simp only [List.forall_mem_cons]
    exact ⟨hall _ _ fabReducePlan (fun _ _ _ => ([], 0)) rfl, hall _ _ fabGatherPlan fabGatherNotes rfl, nofun⟩

end Sys2Proof.Machine
end

section
/-! PROOFS. Lost peers, discarded transfers, aborted and resumed jobs, and read responses: O50 (R424, R426, R427). -/

namespace Sys2Proof.Machine

open Sys2Proof

/-! ## Queue pairs -/

theorem tblFind_map_snd {α : Type} (t : Tbl α) (g : α → α) (i : Nat) : tblFind (t.map fun p => (p.1, g p.2)) i = (tblFind t i).map g := by
  induction t with
  | nil => rfl
  | cons x t ih =>
    simp only [List.map_cons, tblFind]
    split
    · rfl
    · exact ih

/-- The state with queue pair `i` replaced. -/
def State.withQp (s : State) (i : Nat) (q : Qp) : State := (Upd.fabric fun x => { x with qps := tblSet x.qps i q }).apply s

theorem modQp_gives (i : Nat) (f : Qp → Qp) (s : State) : (modQp i f).gives s () (s.withQp i (f (s.qp i))) := fun _ => rfl

@[simp] theorem State.qp_withQp_same (s : State) (i : Nat) (q : Qp) : (s.withQp i q).qp i = q := tblGet_tblSet_same _ _ _ _

theorem State.qp_withQp (s : State) (q : Qp) {i x : Nat} (h : x ≠ i) : (s.withQp i q).qp x = s.qp x := tblGet_tblSet _ _ _ h

theorem State.sameBut_withQp (s : State) (i : Nat) (q : Qp) : s.SameBut [.fabric] (s.withQp i q) := Upd.sameBut _ s

section
variable {s : State}

/-! ## A reset notice (R426) -/

/-- Queue pair `q` after the loss of the peer of rank `r` in job `j`. -/
def Qp.afterLoss (j r : Nat) (q : Qp) : Qp := if q.job = j ∧ q.rank = r then lostQp q else q

/-- The state in which the queue pairs to a lost peer are in error. -/
def State.withoutPeer (s : State) (j r : Nat) : State :=
  (Upd.fabric fun f => { f with qps := f.qps.map fun p => if p.2.job = j ∧ p.2.rank = r then (p.1, lostQp p.2) else p }).apply s

theorem State.qp_withoutPeer (s : State) (j r i : Nat) : (s.withoutPeer j r).qp i =
    if (tblFind s.fabric.qps i).isSome ∧ (s.qp i).job = j ∧ (s.qp i).rank = r then lostQp (s.qp i) else s.qp i := by
  have hmap : (fun p : Nat × Qp => if p.2.job = j ∧ p.2.rank = r then (p.1, lostQp p.2) else p) = fun p => (p.1, p.2.afterLoss j r) := by
    funext p
    unfold Qp.afterLoss
    split <;> rfl
  have hfind : tblFind (s.withoutPeer j r).fabric.qps i = (tblFind s.fabric.qps i).map (Qp.afterLoss j r) :=
    (congrArg (fun f => tblFind (s.fabric.qps.map f) i) hmap).trans (tblFind_map_snd _ _ _)
  unfold State.qp tblGet
  rw [hfind]
  cases tblFind s.fabric.qps i with
  | none => simp
  | some q => simp [Qp.afterLoss]

theorem State.Shows.needsRank {t : State} (h : s.Shows t) (k : Task) (j r : Nat) : t.needsRank k j r = s.needsRank k j r := by
  unfold State.needsRank State.fabParams State.jobHandle
  rw [h.peek, h.fld]

/-- The state in which the peer of rank `r` in job `j` counts as lost. -/
def State.losing (s : State) (j r : Nat) : State :=
  (Upd.fabric fun x => { x with jobs := tblSet x.jobs j { s.job j with lost := ((s.job j).lost.filter fun l => l.1 != r) ++ [(r, 0)] } }).apply
    (s.withoutPeer j r)

theorem State.shows_losing (s : State) (j r : Nat) : s.Shows (s.losing j r) := ⟨rfl, rfl, rfl, rfl, rfl, rfl, rfl, rfl⟩

theorem resetNotice_then (j r : Nat) (hwaits : s.fabric.waits = []) : (resetNotice j r).Then s (do
    for x in s.tally.tasks do
      if (x.2.life = .ready ∨ x.2.life = .assigned ∨ x.2.life = .running) ∧ s.needsRank x.2 j r then
        unstall x.1
        settleAll (← endLost x.1 x.2 j r 0)
    raise 0xB1 6 0xAD05 (det [(1, j), (1, r)])) fun u => u = s.losing j r := by
  have hlosing : (s.losing j r).fabric.waits = [] := hwaits
  have hkept : (Upd.fabric fun f => { f with waits := f.waits.filter fun w => !([] : List MirrorWait).contains w }).apply (s.losing j r) =
      s.losing j r := congrArg (fun l => { s.losing j r with fabric := { (s.losing j r).fabric with waits := l } })
        ((congrArg (List.filter _) hlosing).trans hlosing.symm)
  unfold resetNotice peerLost
  simp only [bind_assoc]
  refine .upd (.upd ?_)
  change M.Then _ (s.losing j r) _ _
  refine .getS ?_
  simp only [hlosing, List.filter_nil]
  refine .upd ?_
  rw [hkept]
  have hneeds (k : Task) : (s.losing j r).needsRank k j r = s.needsRank k j r := (s.shows_losing j r).needsRank k j r
  have htasks : (s.losing j r).tally.tasks = s.tally.tasks := rfl
  simp only [List.forIn_nil, pure_bind, hneeds, htasks]
  exact .here rfl

theorem exec_resetNotice {j r : Nat} (hfence : s.fabFenced = false) (hj : j < 16) (hr : r < s.jobMembers j) :
    exec (.resetNotice j r) s = .next (M.run (resetNotice j r) s) := by
  change execResetNotice j r s = _
  exact whenEnabled_next (by simp [hfence, hj, hr])

/-! ## Jobs (R427) -/

theorem run_fabJobCmd_machine {w : Requester} (hw : machineMode w = true) (j step : Nat) :
    M.run (fabJobCmd w j 1 step) s = M.run (abortJob j) s ∧ M.run (fabJobCmd w j 2 0) s = M.run (resumeJob j) s := by
  simp [fabJobCmd, hw]

theorem exec_job_refused {w : Requester} (hw : machineMode w = false) (j step : Nat) :
    exec (.jobAbort w j step) s = .next (refusedWrite s (Reg.fabJobCmd j) (1 + step * 2 ^ 32) 0) ∧
    exec (.jobResume w j) s = .next (refusedWrite s (Reg.fabJobCmd j) 2 0) := by
  constructor
  · change execJobAbort w j step s = _
    unfold execJobAbort fabJobCmd
    rw [if_pos (.inl (by rw [hw]; rfl))]
    exact always_of_run (run_refuseReg _ _ _ _)
  · change execJobResume w j s = _
    unfold execJobResume fabJobCmd
    rw [if_pos (.inl (by rw [hw]; rfl))]
    exact always_of_run (run_refuseReg _ _ _ _)

theorem run_abortJob {u : State} {j : Nat} (hu : M.gives (do
      for n in (s.tally.tasks.filter fun p => p.2.handle == s.jobHandle j).map (·.1) do
        unstall n
        finish n 4) s () u) : M.run (abortJob j) s = ((Upd.fabric fun f => { f with
          transfers := f.transfers.filter fun x => !(x.job == j && x.epoch == s.jobEpoch j) }).apply u).putFld (Reg.fabJobStatus j) Fld.fabJobStatusAborted 1 := by
  unfold abortJob
  rw [run_getS_bind]
  exact hu.run_bind _

/-- The state in which a job has epoch `v` and is not aborted. -/
def State.inEpoch (s : State) (j v : Nat) : State :=
  (s.putFld (Reg.fabJobStatus j) Fld.fabJobStatusEpoch v).putFld (Reg.fabJobStatus j) Fld.fabJobStatusAborted 0

/-- The state in which every rank of job `j` is readmitted. -/
def State.readmitted (s t : State) (j : Nat) : State :=
  (Upd.fabric fun x => { x with jobs := tblSet x.jobs j { lost := [], steps := (s.job j).steps.filter fun p => !p.2.2.isEmpty } }).apply t

/-- The state in which the epoch of a job has moved on and its abort is cleared. -/
def State.resumed (s : State) (j : Nat) : State := s.readmitted (s.inEpoch j ((s.jobEpoch j + 1) % 256)) j

theorem State.regs_readmitted (s t : State) (j : Nat) : (s.readmitted t j).regs = t.regs := rfl

theorem resumeJob_then (j : Nat) : (resumeJob j).Then s (do
    for x in s.fabric.qps do
      if x.2.job = j ∧ x.2.phase = .error then reviveQp x.1) fun u => u = s.resumed j :=
  ⟨s.resumed j, rfl, rfl⟩

theorem State.oneReg_putFld_putFld (hs : s.Canonical) (off : Nat) (f g : Field) (v w : Nat) :
    s.OneReg off (setBits (setBits (s.reg off) f.lsb f.width v) g.lsb g.width w) ((s.putFld off f v).putFld off g w) := by
  intro x
  rw [State.reg_putFld (State.canonical_putFld hs off f v), State.reg_putFld hs, State.reg_putFld hs, if_pos rfl]
  split <;> rfl

theorem State.OneReg.regs {t u : State} {off : Nat} {w : Word} (h : s.OneReg off w t) (hu : u.regs = t.regs) : s.OneReg off w u :=
  fun x => (reg_congr hu x).trans (h x)

theorem State.oneReg_resumed (hs : s.Canonical) (j : Nat) : s.OneReg (Reg.fabJobStatus j)
    (setBits (setBits (s.reg (Reg.fabJobStatus j)) Fld.fabJobStatusEpoch.lsb Fld.fabJobStatusEpoch.width ((s.jobEpoch j + 1) % 256))
      Fld.fabJobStatusAborted.lsb Fld.fabJobStatusAborted.width 0) (s.resumed j) := by
  have h := State.oneReg_putFld_putFld hs (Reg.fabJobStatus j) Fld.fabJobStatusEpoch Fld.fabJobStatusAborted ((s.jobEpoch j + 1) % 256) 0
  exact h.regs (s.regs_readmitted _ j)

theorem State.sameBut_resumed (s : State) (j : Nat) : s.SameBut [.regs, .fabric] (s.resumed j) :=
  State.SameBut.upd (((s.sameBut_putFld _ _ _).trans (State.sameBut_putFld _ _ _ _)).mono (by decide)) (.fabric _) rfl

/-! ## Transfers nobody awaits -/

theorem exec_transferDiscard {n : Nat} {x : Transfer} (hx : s.fabric.transfers[n]? = some x) (hawait : s.awaited x = false)
    (htime : x.stamp + msUnits 10 + settleMargin ≤ s.clock.now) : exec (.transferDiscard n) s =
      .next ((Upd.fabric fun f => { f with transfers := f.transfers.eraseIdx n, discarded := f.discarded + 1 }).apply s) := by
  change execTransferDiscard n s = _
  refine whenEnabled_next ?_
  rw [hx]
  simp only [hawait, htime, decide_true, Bool.not_false, Bool.and_true]

theorem exec_transferDiscard_refused {n : Nat} {x : Transfer} (hx : s.fabric.transfers[n]? = some x)
    (h : s.awaited x = true ∨ s.clock.now < x.stamp + msUnits 10 + settleMargin) : TurnedAway (.transferDiscard n) s := by
  change execTransferDiscard n s = _
  refine whenEnabled_refused ?_
  rw [hx]
  obtain h | h := h
  · simp only [h, Bool.not_true, Bool.false_and]
  · simp only [Nat.not_le.mpr h, decide_false, Bool.and_false]

/-! ## Queue pairs set up again (R427) -/

/-- Queue pair `q` set up again with the member of record `b`. -/
def State.revivedQp (s : State) (q : Qp) (b : List Byte) : Qp :=
  { qp0 with
    job := q.job
    rank := q.rank
    phase := .ready
    handle := s.jobHandle q.job
    peer := mbPeerQpn b
    line := s.portRate (mbPort b)
    rate := s.portRate (mbPort b)
    step := s.fld Reg.fabRc Fld.fabRcAddMbps
    windowAt := s.rateWindow s.clock.now }

theorem run_reviveQp {i : Nat} {b : List Byte} {v : State} (hread : (readMember (s.qp i).job (s.qp i).rank).gives s (some b) v)
    (hout : (s.qp i).out = []) : M.run (reviveQp i) s = v.withQp i (s.revivedQp (s.qp i) b) := by
  unfold reviveQp
  rw [run_getS_bind]
  refine (hread.run_bind _).trans ?_
  dsimp only
  rw [hout]
  rfl

/-! ## Read responses (R424) -/

theorem exec_rdmaReadResponse {i psn : Nat} {data : List Byte} {p : OutPkt} (hfence : s.fabFenced = false) (hphase : (s.qp i).phase = .ready)
    (hp : (s.qp i).out.find? (fun p => p.op == 12 && p.psn == psn) = some p) (hlen : p.len = data.length) :
    exec (.rdmaReadResponse i psn data) s = .next (M.run (readResponse i psn data) s) := by
  change execRdmaReadResponse i psn data s = _
  have hany : ((s.qp i).out.any fun p => p.op == 12 && p.psn == psn && p.len == data.length) = true :=
    List.any_eq_true.mpr ⟨p, List.mem_of_find?_eq_some hp, by rw [List.find?_some hp, hlen]; simp⟩
  exact whenEnabled_next (by rw [hfence, hphase, hany]; rfl)

/-- The state in which the request that a response answers is off the queue pair. -/
def State.answered (s : State) (i : Nat) (p : OutPkt) : State := s.withQp i { s.qp i with out := (s.qp i).out.erase p, retries := 0 }

theorem run_readResponse {i psn : Nat} {data : List Byte} {p : OutPkt}
    (hp : (s.qp i).out.find? (fun p => p.op == 12 && p.psn == psn) = some p) :
    (p.entry = none → M.run (readResponse i psn data) s = s.answered i p) ∧
    ∀ n y x, p.entry = some (n, y) → s.queue n = some x → M.run (readResponse i psn data) s = M.run (do
      for e in mirrorOpen data x.entries do restoreEntry n e
      modQueue n fun u => { u with reading := false }
      for e in mirrorOpen data x.entries do resubmit n e.1
      settleAll [.bind n]) (s.answered i p) := by
  unfold readResponse
  rw [run_getS_bind, hp]
  dsimp only
  constructor
  · intro h
    rw [h]
    rfl
  · intro n y x h hx
    rw [h]
    dsimp only
    rw [hx]
    rfl

/-- Settles O50: the queue pairs to a lost peer, the transfers held and a job's status are written before the follow-ups run. -/
theorem jobsLosePeersAbortAndResume : Obligations.JobsLosePeersAbortAndResume := by
  unfold Obligations.JobsLosePeersAbortAndResume
  intro s hs
  refine ⟨fun j r hf hj hr hw => ?_, fun j r h => ?_, fun n x hx => ⟨fun hawait htime => ?_, fun h => ?_⟩, fun n hn => ?_,
    fun w j step hw => ⟨fun u hu => ?_, ?_⟩, fun w j step hw => exec_job_refused hw j step, fun i b v hread hout => ?_,
    fun i psn data p hf hphase hp hlen => ⟨fun hentry => ?_, fun n y x hentry hx => ?_⟩, fun i psn data h => ?_⟩
  · refine completesThen_of_then (exec_resetNotice hf hj hr) ?_
    obtain ⟨u, rfl, hrun⟩ := resetNotice_then j r hw
    refine ⟨s.losing j r, ⟨?_, s.qp_withoutPeer j r, tblGet_tblSet_same _ _ _ _, fun x hx => tblGet_tblSet _ _ _ hx⟩, hrun⟩
    exact (State.SameBut.refl [.fabric] s).upd (.fabric _) rfl |>.upd (.fabric _) rfl
  · change execResetNotice j r s = _
    refine whenEnabled_refused ?_
    obtain h | h | h := h
    · simp [h]
    · simp [Nat.not_lt.mpr h]
    · simp [Nat.not_lt.mpr h]
  · refine ⟨_, exec_transferDiscard hx hawait htime, Upd.sameBut _ s, rfl⟩
  · exact exec_transferDiscard_refused hx h
  · change execTransferDiscard n s = _
    exact whenEnabled_refused (by rw [hn])
  · have hu' : u.Canonical := hu.run ▸ canonical_run _ hs
    have hexec : exec (.jobAbort w j step) s = .next (M.run (abortJob j) s) := by
      change execJobAbort w j step s = _
      exact always_of_run (run_fabJobCmd_machine hw j step).1
    have hframe := (exec_reach hexec).sameBut _ (reachOf_parts _)
    rw [run_abortJob hu] at hexec hframe
    refine ⟨_, hexec, hframe, ?_, ?_, rfl⟩
    · exact ((State.SameBut.refl [.regs, .fabric] u).upd (.fabric _) rfl).trans ((State.sameBut_putFld _ _ _ _).mono (by decide))
    · exact fun x => State.reg_putFld (s := (Upd.fabric _).apply u) hu'
  · have hexec : exec (.jobResume w j) s = .next (M.run (resumeJob j) s) := by
      change execJobResume w j s = _
      exact always_of_run (run_fabJobCmd_machine hw j 0).2
    refine completesThen_of_then hexec ?_
    obtain ⟨u, rfl, hrun⟩ := resumeJob_then (s := s) j
    exact ⟨_, ⟨s.sameBut_resumed j, State.oneReg_resumed hs j, tblGet_tblSet_same _ _ _ _, rfl⟩, hrun⟩
  · rw [run_reviveQp hread hout]
    refine ⟨v.sameBut_withQp i _, ?_⟩
    rw [State.qp_withQp_same]
    exact ⟨rfl, rfl, rfl, rfl, rfl, fun x hx => v.qp_withQp _ hx⟩
  · exact ⟨_, (exec_rdmaReadResponse hf hphase hp hlen).trans (congrArg _ ((run_readResponse hp).1 hentry)), s.sameBut_withQp i _,
      s.qp_withQp_same i _, fun x hx => s.qp_withQp _ hx⟩
  · exact completesThen_of ⟨s.sameBut_withQp i _, s.qp_withQp_same i _, fun x hx => s.qp_withQp _ hx⟩
      ((exec_rdmaReadResponse hf hphase hp hlen).trans (congrArg _ ((run_readResponse hp).2 n y x hentry hx)))
  · change execRdmaReadResponse i psn data s = _
    refine whenEnabled_refused ?_
    obtain h | h | h := h
    · simp [h]
    · simp [h]
    · have hany : ((s.qp i).out.any fun p => p.op == 12 && p.psn == psn && p.len == data.length) = false := by
        simpa [and_assoc] using h
      rw [hany, Bool.and_false]

end

end Sys2Proof.Machine
end

section
/-! PROOFS. Firmware updates are verified, written, tried and committed or reverted: O57 (R531, R532). -/

namespace Sys2Proof.Machine

open Sys2Proof

theorem M.gives.canonical {α : Type} {m : M α} {a : α} {s t : State} (hm : m.gives s a t) (hs : s.Canonical) : t.Canonical :=
  let hrun : (m >>= fun _ => (Pure.pure () : M Unit)).gives s () t := hm.bind (pure_gives () t)
  hrun.run ▸ canonical_run _ hs

section
variable {s : State}

/-- The state in which the security block is `x`. -/
def State.withSec (s : State) (x : Security) : State := (Upd.sec fun _ => x).apply s

theorem modSec_gives (f : Security → Security) (s : State) : (modSec f).gives s () (s.withSec (f s.sec)) := fun _ => rfl

theorem State.sameBut_withSec (s : State) (x : Security) : s.SameBut [.sec] (s.withSec x) := Upd.sameBut _ s

theorem State.canonical_withSec {x : Security} (hs : s.Canonical) : (s.withSec x).Canonical := hs

theorem State.updState_withSec (s : State) (x : Security) : (s.withSec x).updState = s.updState := rfl

/-- The state in which the update is in state `n`. -/
def State.withUpd (s : State) (n : Nat) : State := s.putFld Reg.secUpdStatus Fld.secUpdStatusState n

theorem State.updState_withUpd {n : Nat} (hs : s.Canonical) (hn : n < 8) : (s.withUpd n).updState = n :=
  State.fld_putFld_same hs (by decide) hn

theorem State.sameBut_withUpd (s : State) (n : Nat) : s.SameBut [.regs] (s.withUpd n) := s.sameBut_putFld _ _ _

/-! ## An update moves to its next state (R531) -/

/-- The state after the update entered state `n` at the present stamp. -/
def State.updMoved (s : State) (n : Nat) : State :=
  (s.withUpd n).withSec { s.sec with update := s.sec.update.map fun u => { u with since := s.clock.now } }

theorem setUpd_gives (n : Nat) (s : State) : (setUpd n).gives s () (s.updMoved n) := fun _ => rfl

theorem State.updState_updMoved {n : Nat} (hs : s.Canonical) (hn : n < 8) : (s.updMoved n).updState = n := State.updState_withUpd hs hn

theorem State.sameBut_updMoved (s : State) (n : Nat) : s.SameBut [.regs, .sec] (s.updMoved n) :=
  ((s.sameBut_withUpd n).mono (by decide)).trans ((State.sameBut_withSec _ _).mono (by decide))

theorem State.oneField_updMoved (hs : s.Canonical) (n : Nat) : OneField s Reg.secUpdStatus Fld.secUpdStatusState n (s.updMoved n) :=
  State.oneField_putFld hs _ _ _

theorem State.sec_updMoved {p : Update} (hp : s.sec.update = some p) (n : Nat) :
    (s.updMoved n).sec = { s.sec with update := some { p with since := s.clock.now } } := by
  have hmap : (s.updMoved n).sec = { s.sec with update := s.sec.update.map fun u => { u with since := s.clock.now } } := rfl
  rw [hmap, hp]
  rfl

/-- What the statement says of a command that moves the update to state `n` and does nothing else. -/
theorem moves_of {p : Update} {c : Instr} {n : Nat} (hs : s.Canonical) (hp : s.sec.update = some p) (hexec : exec c s = .next (s.updMoved n)) :
    ∃ t, exec c s = .next t ∧ s.SameBut [.regs, .sec] t ∧ OneField s Reg.secUpdStatus Fld.secUpdStatusState n t ∧
      t.sec = { s.sec with update := some { p with since := s.clock.now } } :=
  ⟨_, hexec, s.sameBut_updMoved n, State.oneField_updMoved hs n, State.sec_updMoved hp n⟩

/-! ## FIRMWARE_UPDATE -/

theorem run_firmwareUpdate_refused {w : Requester} (addr : Nat) (h : machineMode w = false) :
    M.run (firmwareUpdate w addr) s = refusedWrite s Reg.secUpd (addr % 2 ^ 40 / 64 * 64) 0 := by
  unfold firmwareUpdate
  rw [run_getS_bind, if_pos (by rw [h]; rfl)]
  exact run_refuseReg _ _ _ _

theorem run_firmwareUpdate_busy {w : Requester} (addr : Nat) (h : machineMode w = true) (hbusy : 1 ≤ s.updState ∧ s.updState ≤ 4) :
    M.run (firmwareUpdate w addr) s = refusedWrite s Reg.secUpd (addr % 2 ^ 40 / 64 * 64) 6 := by
  unfold firmwareUpdate
  rw [run_getS_bind, if_neg (by rw [h]; decide), if_pos hbusy]
  exact run_refuseReg _ _ _ _

/-- The update of an image that was read at an address. -/
def State.newUpdate (s : State) (a : Nat) (h b : List Byte) : Update :=
  if leAt h 0 2 = 2 then ⟨a, some ⟨h, b⟩, 1 - s.store.appActive, 2, s.clock.now⟩ else ⟨a, some ⟨h, b⟩, 1 - s.store.bccActive, 1, s.clock.now⟩

theorem run_firmwareUpdate {w : Requester} {addr a : Nat} {h b : List Byte} {u v : State} (ha : a = addr % 2 ^ 40 / 64 * 64)
    (hw : machineMode w = true) (hfree : s.updState = 0 ∨ 4 < s.updState) (hhead : (secRead a 256).gives s (some h) u)
    (hbody : (secRead (a + 256) (min (leAt h 4 4 + 1) (bodyLimit (leAt h 0 2)))).gives u (some b) v) :
    M.run (firmwareUpdate w addr) s = (v.withSec { v.sec with update := some (s.newUpdate a h b) }).withUpd 1 := by
  unfold firmwareUpdate
  rw [run_getS_bind, if_neg (by rw [hw]; decide), if_neg (by omega), ← ha]
  dsimp only
  rw [hhead.run_bind]
  dsimp only
  rw [hbody.run_bind]
  by_cases hty : leAt h 0 2 = 2
  · have himg : (Option.map imgType (some ⟨h, b⟩)) = some 2 := congrArg some hty
    simp only [pure_bind, himg, if_true, State.newUpdate, hty]
    rfl
  · have himg : (Option.map imgType (some ⟨h, b⟩)) ≠ some 2 := fun e => hty (Option.some.inj e)
    simp only [pure_bind, himg, if_false, State.newUpdate, hty]
    rfl

/-! ## Verification, writing, hand-over -/

theorem exec_updateVerificationDone {p : Update} {i : Image} (hst : s.updState = 1) (hp : s.sec.update = some p) (hi : p.image = some i) :
    exec .updateVerificationDone s = .next (match imageFault p.type (s.counter p.type) s.ownerKey i with
      | none => s.updMoved 2
      | some why => (s.afterEvent 0x81 6 0x9001
          (det [(1, p.type), (1, p.slot), (1, why), (1, 0), (4, imgSvn i), (4, s.counter p.type)])).updMoved 6) := by
  change execUpdateVerificationDone s = _
  refine whenEnabled_next (by rw [hst, hp]; rfl) |>.trans (congrArg _ ?_)
  unfold updateVerified
  rw [run_getS_bind, hp]
  dsimp only
  rw [hi]
  dsimp only
  cases imageFault p.type (s.counter p.type) s.ownerKey i with
  | none => exact (setUpd_gives 2 s).run
  | some why => exact ((raise_gives _ _ _ _ s).bind (setUpd_gives 6 _)).run

theorem exec_updateWriteDone {p : Update} (hst : s.updState = 2) (hp : s.sec.update = some p) (ok : Bool) :
    exec (.updateWriteDone ok) s = .next (M.run (updateWritten ok) s) := by
  change execUpdateWriteDone ok s = _
  exact whenEnabled_next (by rw [hst, hp]; rfl)

theorem run_updateWritten_bad {p : Update} (hp : s.sec.update = some p) : M.run (updateWritten false) s = s.updMoved 6 := by
  unfold updateWritten
  rw [run_getS_bind, hp]
  rfl

/-- The state in which flash and eMMC are `x`. -/
def State.withStore (s : State) (f : Storage → Storage) : State := (Upd.store f).apply s

theorem State.sameBut_withStore (s : State) (f : Storage → Storage) : s.SameBut [.store] (s.withStore f) := Upd.sameBut _ s

theorem run_updateWritten {p : Update} {i : Image} (hp : s.sec.update = some p) (hi : p.image = some i) :
    M.run (updateWritten true) s = if p.type = 1 then (s.withStore fun x => { x with bccSlots := tblSet x.bccSlots p.slot i }).updMoved 3
      else ((s.withStore fun x => { x with appSlots := tblSet x.appSlots p.slot i, appActive := p.slot }).withSec
        { s.sec with update := none }).withUpd 0 := by
  unfold updateWritten
  rw [run_getS_bind, hp]
  dsimp only
  rw [if_neg (by decide), hi]
  dsimp only
  split <;> rfl

/-- The state in which image `i` is measured and runs, the watchdog being restarted. -/
def State.handedOver (s : State) (i : Image) : State :=
  (Upd.rcv fun r => { r with kickAt := s.clock.now }).apply (s.withSec { s.sec with
    layers := s.sec.layers.set 2 (shake512 (s.layer 2 ++ imgDigest i))
    aliasL2 := shake512 (s.layer 2 ++ imgDigest i)
    bccImage := some i })

theorem exec_quiescentTick {p : Update} {i : Image} (hst : s.updState = 3) (hq : s.quiescent = true) (hp : s.sec.update = some p)
    (hi : p.image = some i) : exec .quiescentTick s = .next ((s.handedOver i).updMoved 4) := by
  have hbind : (s.sec.update.bind fun u => u.image) = some i := by rw [hp]; exact hi
  change execQuiescentTick s = _
  refine whenEnabled_next (by rw [hst, hq, hbind]; rfl) |>.trans (congrArg _ ?_)
  unfold quiescentTick
  rw [run_getS_bind, hbind]
  rfl

/-! ## Waiting and probation end -/

theorem State.updSince_eq {p : Update} (hp : s.sec.update = some p) (span : Nat) : s.updSince span = decide (p.since + span ≤ s.clock.now) := by
  rw [State.updSince, hp]
  rfl

/-- The state in which the slot of update `p` is active. -/
def State.slotActive (s : State) (p : Update) : State :=
  (s.withStore fun x => { x with bccActive := p.slot, dirGood := [0, 1] }).putFld Reg.secStatus Fld.secStatusBccSlot p.slot

/-- Event 0x9006 of a committed update. -/
def State.committedEvent (s : State) (p : Update) : State := s.afterEvent 0x81 6 0x9006
  (det [(1, p.slot), (3, 0), (4, (p.image.map imgSvn).getD 0), (4, (p.image.map imgVersion).getD 0)])

theorem exec_updateCommit {p : Update} (hst : s.updState = 4) (hp : s.sec.update = some p) (hsince : s.updSince (msUnits 1000) = true) :
    exec .updateCommit s = .next ((((s.slotActive p).committedEvent p).withSec { ((s.slotActive p).committedEvent p).sec with update := none }).withUpd 5) := by
  change execUpdateCommit s = _
  refine whenEnabled_next (by rw [hst, hsince]; rfl) |>.trans (congrArg _ ?_)
  unfold updateCommit
  rw [run_getS_bind, hp]
  exact M.gives.run ((update_gives _ s).bind ((wrFld_gives _ _ _ _).bind ((raise_gives _ _ _ _ (s.slotActive p)).bind
    ((modSec_gives _ _).bind (wrFld_gives _ _ _ _)))))

/-- The state in which update `p` counts as reverted, before its event. -/
def State.revertState (s : State) : State := (s.withSec { s.sec with update := none }).withUpd 7

/-- Event 0x9007 of an update reverted because the new firmware stopped. -/
def State.revertedEvent (s : State) (p : Update) : State := s.afterEvent 0x81 6 0x9007
  (det [(1, p.slot), (1, 1), (2, 0), (4, (p.image.map imgSvn).getD 0)])

theorem updateRevert_then {p : Update} (hst : s.updState = 4) (hp : s.sec.update = some p) :
    updateRevert.Then s (restartBlock .bcc 0x9007) fun u => u = (s.revertState.revertedEvent p).withSec
      { (s.revertState.revertedEvent p).sec with bccImage := tblFind s.store.bccSlots s.store.bccActive } := by
  have hrevert : (revertUpdate 1).gives s () (s.revertState.revertedEvent p) := by
    unfold revertUpdate
    refine .getS_bind ?_
    rw [hp]
    dsimp only
    refine .ite_pos hst _ ?_
    exact (update_gives _ _).bind ((wrFld_gives _ _ _ _).bind (raise_gives _ _ _ _ _))
  unfold updateRevert
  exact .getS ((hrevert.leads (P := fun _ u => u = _) rfl).andThen fun _ u hu => hu ▸ .upd (.here rfl))

/-- Settles O57: each command of an update moves its state and writes what the statement names. -/
theorem updatesAreVerifiedWrittenTriedAndCommittedOrReverted : Obligations.UpdatesAreVerifiedWrittenTriedAndCommittedOrReverted := by
  unfold Obligations.UpdatesAreVerifiedWrittenTriedAndCommittedOrReverted
  intro s hs st now
  refine ⟨fun w addr a ha => ⟨fun hw => ?_, fun hw h1 h4 => ?_, fun h b u v hw hfree hhead hbody => ?_⟩, fun h => ?_, fun ok h => ?_, fun h => ?_, fun h => ?_,
    fun h => ⟨?_, ?_⟩, fun p hp => ⟨fun i hst hi hf => ?_, fun i why hst hi hf => ?_, fun hst => ?_,
      fun i hst hi => ⟨fun hty => ?_, fun hty => ?_⟩, fun i hst hq hi => ?_, fun hst htime => ?_, fun htime => ?_, fun hst htime => ?_,
      fun htime => ?_, fun hst => ?_⟩⟩
  · subst ha
    change execFirmwareUpdate w addr s = _
    exact always_of_run (run_firmwareUpdate_refused addr hw)
  · subst ha
    change execFirmwareUpdate w addr s = _
    exact always_of_run (run_firmwareUpdate_busy addr hw ⟨h1, h4⟩)
  · have hv : v.Canonical := hbody.canonical (hhead.canonical hs)
    have hexec : exec (.firmwareUpdate w addr) s = .next ((v.withSec { v.sec with update := some (s.newUpdate a h b) }).withUpd 1) := by
      change execFirmwareUpdate w addr s = _
      exact always_of_run (run_firmwareUpdate ha hw hfree hhead hbody)
    refine ⟨_, hexec, (exec_reach hexec).sameBut _ (reachOf_parts _), ?_, State.updState_withUpd (s := v.withSec _) hv (by decide), rfl⟩
    exact ((v.sameBut_withSec _).mono (by decide)).trans ((State.sameBut_withUpd _ _).mono (by decide))
  · change execUpdateVerificationDone s = _
    exact whenEnabled_refused (by obtain h | h := h <;> simp [h])
  · change execUpdateWriteDone ok s = _
    exact whenEnabled_refused (by obtain h | h := h <;> simp [h])
  · change execQuiescentTick s = _
    exact whenEnabled_refused (by obtain h | h := h <;> simp [h])
  · change execUpdateWaitTimeout s = _
    exact whenEnabled_refused (by rw [beq_false_of_ne h, Bool.false_and])
  · change execUpdateCommit s = _
    exact whenEnabled_refused (by rw [beq_false_of_ne h, Bool.false_and])
  · change execUpdateRevert s = _
    exact whenEnabled_refused (by rw [beq_false_of_ne h, Bool.false_and])
  · exact moves_of hs hp (by rw [exec_updateVerificationDone hst hp hi, hf])
  · have hq := s.afterEvent_quiet 0x81 6 0x9001 (det [(1, p.type), (1, p.slot), (1, why), (1, 0), (4, imgSvn i), (4, s.counter p.type)])
    have hexec := exec_updateVerificationDone hst hp hi
    rw [hf] at hexec
    exact ⟨_, hexec, State.sameBut_updMoved _ _, State.updState_updMoved ((raise_gives _ _ _ _ s).canonical hs) (by decide)⟩
  · exact moves_of hs hp ((exec_updateWriteDone hst hp false).trans (congrArg _ (run_updateWritten_bad hp)))
  · have hexec := exec_updateWriteDone hst hp true
    rw [run_updateWritten hp hi, if_pos hty] at hexec
    exact ⟨_, hexec, ((s.sameBut_withStore _).mono (by decide)).trans ((State.sameBut_updMoved _ _).mono (by decide)),
      State.updState_updMoved (s := s.withStore _) hs (by decide), rfl, congrArg Security.update (State.sec_updMoved (s := s.withStore _) hp _)⟩
  · have hexec := exec_updateWriteDone hst hp true
    rw [run_updateWritten hp hi, if_neg hty] at hexec
    exact ⟨_, hexec, (((s.sameBut_withStore _).mono (by decide)).trans ((State.sameBut_withSec _ _).mono (by decide))).trans
      ((State.sameBut_withUpd _ _).mono (by decide)), State.updState_withUpd (s := State.withSec _ _) hs (by decide), rfl, rfl⟩
  · have hexec := exec_quiescentTick hst hq hp hi
    refine ⟨_, hexec, (((State.sameBut_withSec s _).mono (by decide)).upd (.rcv _) rfl).trans ((State.sameBut_updMoved _ _).mono (by decide)),
      State.updState_updMoved (s := s.handedOver i) hs (by decide), rfl, State.sec_updMoved (s := s.handedOver i) hp 4⟩
  · refine moves_of hs hp ?_
    change execUpdateWaitTimeout s = _
    exact whenEnabled_next (by rw [hst, State.updSince_eq hp]; simp only [now] at htime; simp only [htime, decide_true]; rfl)
  · change execUpdateWaitTimeout s = _
    exact whenEnabled_refused (by rw [State.updSince_eq hp]; simp only [now] at htime; simp only [Nat.not_le.mpr htime, decide_false, Bool.and_false])
  · have hsince : s.updSince (msUnits 1000) = true := by
      rw [State.updSince_eq hp]
      simp only [now] at htime
      simp only [htime, decide_true]
    have hq : Quiet (s.slotActive p) ((s.slotActive p).committedEvent p) := State.afterEvent_quiet _ _ _ _ _
    have hcan : ((s.slotActive p).committedEvent p).Canonical :=
      (raise_gives _ _ _ _ _).canonical (State.canonical_putFld (s := s.withStore _) hs _ _ _)
    refine ⟨s.slotActive p, _, ?_, rfl, State.oneField_putFld (s := s.withStore _) hs _ _ _, exec_updateCommit hst hp hsince, ?_,
      State.updState_withUpd (s := State.withSec _ _) hcan (by decide), ?_⟩
    · exact ((s.sameBut_withStore _).mono (by decide)).trans ((State.sameBut_putFld _ _ _ _).mono (by decide))
    · exact ((State.sameBut_withSec _ _).mono (by decide)).trans ((State.sameBut_withUpd _ _).mono (by decide))
    · have hsec : ((s.slotActive p).committedEvent p).sec = s.sec := by
        rw [hq.rest]
        rfl
      exact congrArg (fun x : Security => { x with update := none }) hsec
  · change execUpdateCommit s = _
    exact whenEnabled_refused (by rw [State.updSince_eq hp]; simp only [now] at htime; simp only [Nat.not_le.mpr htime, decide_false, Bool.and_false])
  · have hexec : exec .updateRevert s = .next (M.run updateRevert s) := by
      change execUpdateRevert s = _
      exact whenEnabled_next (by rw [hst, hp]; rfl)
    refine completesThen_of_then hexec ?_
    obtain ⟨u, rfl, hrun⟩ := updateRevert_then hst hp
    have hq : Quiet s.revertState (s.revertState.revertedEvent p) := State.afterEvent_quiet _ _ _ _ _
    refine ⟨_, ⟨s.revertState, ?_, State.oneField_putFld (s := s.withSec _) hs _ _ _, State.sameBut_withSec _ _, ?_⟩, hrun⟩
    · exact ((State.sameBut_withSec s _).mono (by decide)).trans ((State.sameBut_withUpd _ _).mono (by decide))
    · have hsec : (s.revertState.revertedEvent p).sec = { s.sec with update := none } := by
        rw [hq.rest]
        rfl
      exact congrArg (fun x : Security => { x with bccImage := tblFind s.store.bccSlots s.store.bccActive }) hsec

end

end Sys2Proof.Machine
end

section
/-! PROOFS. What the power block's operations do: lock bits, engines of a clock domain, open values (R499–R503). -/

namespace Sys2Proof.Machine

open Sys2Proof

/-! ## Bits of a number -/

theorem bitAt_eq_testBit (n i : Nat) : bitAt n i = n.testBit i := by
  rw [Nat.testBit_eq_decide_div_mod_eq]
  rfl

/-- Number `n` with bit `d` set to `on`. -/
def switchBit (on : Bool) (n d : Nat) : Nat := if bitAt n d = on then n else if on then n + 2 ^ d else n - 2 ^ d

theorem testBit_add_two_pow {n d : Nat} (h : n.testBit d = false) (x : Nat) : (n + 2 ^ d).testBit x = if x = d then true else n.testBit x := by
  by_cases hlow : x < d
  · have hmod : (n + 2 ^ d) % 2 ^ d = n % 2 ^ d := Nat.add_mod_right _ _
    have hx := Nat.testBit_mod_two_pow (n + 2 ^ d) d x
    rw [hmod, Nat.testBit_mod_two_pow] at hx
    rw [if_neg (by omega)]
    simpa [hlow] using hx.symm
  · obtain ⟨k, rfl⟩ := Nat.exists_eq_add_of_le (Nat.not_lt.mp hlow)
    have hdiv : (n + 2 ^ d) / 2 ^ d = n / 2 ^ d + 1 := Nat.add_div_right _ (by positivity)
    have heven : n / 2 ^ d % 2 = 0 := by
      rw [← bitAt_eq_testBit] at h
      simp only [bitAt, beq_eq_false_iff_ne] at h
      omega
    rw [Nat.add_comm d k, ← Nat.testBit_div_two_pow, ← Nat.testBit_div_two_pow, hdiv]
    cases k with
    | zero => rw [if_pos (by omega), Nat.testBit_zero]; exact decide_eq_true (by omega)
    | succ k =>
      rw [if_neg (by omega), Nat.testBit_succ, Nat.testBit_succ]
      congr 1
      omega

theorem bitAt_switchBit (on : Bool) (n d x : Nat) : bitAt (switchBit on n d) x = if x = d then on else bitAt n x := by
  unfold switchBit
  simp only [bitAt_eq_testBit]
  split
  case isTrue h => split <;> simp_all
  case isFalse h =>
    cases on with
    | true => exact testBit_add_two_pow (by simpa using h) x
    | false =>
      have hset : n.testBit d = true := by simpa using h
      have hle : 2 ^ d ≤ n := Nat.ge_two_pow_of_testBit hset
      obtain ⟨m, rfl⟩ := Nat.exists_eq_add_of_le' hle
      have hclear : m.testBit d = false := by
        have h := Nat.testBit_two_pow_add_eq m d
        rw [Nat.add_comm, hset] at h
        simpa using h.symm
      rw [testBit_add_two_pow hclear, if_neg (by decide), Nat.add_sub_cancel]
      split
      case isTrue h => rw [h, hclear]
      case isFalse => rfl

theorem bitAt_foldl_switchBit (on : Bool) (x : Nat) : ∀ (ds : List Nat) (n : Nat),
    bitAt (ds.foldl (switchBit on) n) x = if x ∈ ds then on else bitAt n x
  | [], _ => by simp
  | d :: ds, n => by
    rw [List.foldl_cons, bitAt_foldl_switchBit on x ds, bitAt_switchBit]
    by_cases hx : x ∈ ds <;> by_cases hd : x = d <;> simp [hx, hd]

theorem bitAt_mod_two_pow {n k x : Nat} (h : x < k) : bitAt (n % 2 ^ k) x = bitAt n x := by
  rw [bitAt_eq_testBit, bitAt_eq_testBit, Nat.testBit_mod_two_pow, decide_eq_true h, Bool.true_and]

/-! ## CLK_STATUS.locked -/

section
variable {s : State}

/-- Bit `d` of CLK_STATUS.locked. -/
def State.locked (s : State) (d : Nat) : Bool := bitAt (s.fld Reg.clkStatus Fld.clkStatusLocked) d

/-- The state in which the lock bits of some clock domains are `on`. -/
def State.withLocked (s : State) (ds : List Nat) (on : Bool) : State :=
  s.putFld Reg.clkStatus Fld.clkStatusLocked (ds.foldl (switchBit on) (s.fld Reg.clkStatus Fld.clkStatusLocked))

theorem setLocked_gives (ds : List Nat) (on : Bool) (s : State) : (setLocked ds on).gives s () (s.withLocked ds on) := fun _ => rfl

theorem State.locked_withLocked (hs : s.Canonical) (ds : List Nat) (on : Bool) {x : Nat} (hx : x < 41) :
    (s.withLocked ds on).locked x = if x ∈ ds then on else s.locked x := by
  have h : (s.withLocked ds on).fld Reg.clkStatus Fld.clkStatusLocked =
      ds.foldl (switchBit on) (s.fld Reg.clkStatus Fld.clkStatusLocked) % 2 ^ 41 := fld_apply_same hs _ _ _ (by decide)
  rw [State.locked, h, bitAt_mod_two_pow hx, bitAt_foldl_switchBit, State.locked]

theorem State.locked_withLocked_one (hs : s.Canonical) (d : Nat) (on : Bool) {x : Nat} (hx : x < 41) :
    (s.withLocked [d] on).locked x = if x = d then on else s.locked x := by
  simp [State.locked_withLocked hs _ _ hx]

theorem State.sameBut_withLocked (s : State) (ds : List Nat) (on : Bool) : s.SameBut [.regs] (s.withLocked ds on) := s.sameBut_putFld _ _ _

theorem State.locked_congr {t : State} (h : t.regs = s.regs) (d : Nat) : t.locked d = s.locked d := congrArg (bitAt · d) (fld_congr h _ _)

theorem State.fld_bumped (hs : s.Canonical) {off : Nat} {f : Field} (hf : f.lsb + f.width ≤ 64) (n : Nat) :
    (s.putFld off f (satAdd f.width (s.fld off f) n)).fld off f = satAdd f.width (s.fld off f) n :=
  State.fld_putFld_same hs hf (Nat.lt_of_le_of_lt (Nat.min_le_right _ _) (Nat.sub_lt (by positivity) (by decide)))

/-! ## The state of the power block -/

/-- The state in which the power block is `p`. -/
def State.withPower (s : State) (p : PowerSys) : State := (Upd.power fun _ => p).apply s

theorem modPower_gives (f : PowerSys → PowerSys) (s : State) : (modPower f).gives s () (s.withPower (f s.power)) := fun _ => rfl

theorem State.sameBut_withPower (s : State) (p : PowerSys) : s.SameBut [.power] (s.withPower p) := Upd.sameBut _ s

/-! ## Open values -/

/-- The state after a value was drawn. -/
def State.drawn (s : State) : State := (Upd.free (· + 1)).apply s

theorem State.sameBut_drawn (s : State) : s.SameBut [.free] s.drawn := Upd.sameBut _ s

theorem fresh_leads (n : Nat) (hn : 0 < n) (s : State) : (fresh n).Leads s fun v t => v < n ∧ t = s.drawn :=
  .getS (.upd (.pure ⟨(Nat.mod_lt _ (by omega)).trans_le (by omega), rfl⟩))

/-! ## All engines of a list -/

/-- The state with `f` applied to the engines of a list. -/
def State.withEngines (f : Engine → Engine) : List Nat → State → State
  | [], s => s
  | e :: l, s => State.withEngines f l (s.withEngine e (f (s.engine e)))

theorem forIn_modEngine_gives (f : Engine → Engine) : ∀ (l : List Nat) (s : State),
    (forIn l PUnit.unit fun e (_ : PUnit) => do
      modEngine e f
      pure (ForInStep.yield PUnit.unit)).gives s () (State.withEngines f l s)
  | [], s => pure_gives _ _
  | e :: l, s => by
    rw [List.forIn_cons]
    exact ((modEngine_gives e f s).bind (pure_gives _ _)).bind (forIn_modEngine_gives f l _)

theorem State.sameBut_withEngines (f : Engine → Engine) : ∀ (l : List Nat) (s : State), s.SameBut [.engines] (State.withEngines f l s)
  | [], s => .refl _ s
  | e :: l, s => ((s.withEngine_frame e _).mono (by decide)).trans (State.sameBut_withEngines f l _)

theorem State.engine_withEngines (f : Engine → Engine) (x : Nat) : ∀ (l : List Nat) (s : State), l.Nodup →
    (State.withEngines f l s).engine x = if x ∈ l then f (s.engine x) else s.engine x
  | [], s, _ => by simp [State.withEngines]
  | e :: l, s, h => by
    obtain ⟨he, hl⟩ := List.nodup_cons.mp h
    rw [State.withEngines, State.engine_withEngines f x l _ hl, State.engine_withEngine]
    by_cases hx : x = e
    · subst hx
      simp [he]
    · simp [hx]

theorem nodup_clockEngines (d : Nat) : (clockEngines d).Nodup := by
  refine List.Nodup.filter _ ?_
  decide +kernel

end

end Sys2Proof.Machine
end

section
/-! PROOFS. PLLs, package power, monitors and droops: O55 (R503–R509). -/

namespace Sys2Proof.Machine

open Sys2Proof

section
variable {s : State}

/-! ## PLL_UNLOCK -/

/-- The state in which the PLL of domain `d` has lost its lock, before the event. -/
def State.pllLost (s : State) (d : Nat) : State :=
  let u := (s.withPower { s.power with unlocked := tblSet s.power.unlocked d (s.clock.now, false) }).withLocked [d] false
  State.withEngines (fun g => { g with stopped := true }) (clockEngines d)
    (u.putFld Reg.clkUnlockCnt Fld.clkUnlockCntCount (satAdd Fld.clkUnlockCntCount.width (u.fld Reg.clkUnlockCnt Fld.clkUnlockCntCount) 1))

theorem exec_pllUnlock {d : Nat} (hpll : hasPll d = true) (hlocked : s.locked d = true) :
    exec (.pllUnlock d) s = .next ((s.pllLost d).afterEvent 0x81 0xFF 0xB009 (det [(1, d), (1, 0)])) := by
  change execPllUnlock d s = _
  refine whenEnabled_next (by rw [hpll]; exact hlocked) |>.trans (congrArg _ ?_)
  refine M.gives.run (.getS_bind ((modPower_gives _ _).bind ((setLocked_gives _ _ _).bind ((bump_gives _ _ _ _).bind ?_))))
  exact (forIn_modEngine_gives _ _ _).bind (raise_gives _ _ _ _ _)

/-- What the statement says of the state of a lost PLL. -/
theorem State.pllLost_spec (hs : s.Canonical) (d : Nat) : s.SameBut [.regs, .engines, .power] (s.pllLost d) ∧
    (s.pllLost d).power = { s.power with unlocked := tblSet s.power.unlocked d (s.clock.now, false) } ∧
    (∀ x, x < 41 → (s.pllLost d).locked x = if x = d then false else s.locked x) ∧
    (s.pllLost d).fld Reg.clkUnlockCnt Fld.clkUnlockCntCount =
      satAdd Fld.clkUnlockCntCount.width (s.fld Reg.clkUnlockCnt Fld.clkUnlockCntCount) 1 ∧
    ∀ e, (s.pllLost d).engine e = if e ∈ clockEngines d then { s.engine e with stopped := true } else s.engine e := by
  let a := s.withPower { s.power with unlocked := tblSet s.power.unlocked d (s.clock.now, false) }
  let b := a.withLocked [d] false
  let c := b.putFld Reg.clkUnlockCnt Fld.clkUnlockCntCount (satAdd Fld.clkUnlockCntCount.width (b.fld Reg.clkUnlockCnt Fld.clkUnlockCntCount) 1)
  have hb : b.Canonical := State.canonical_putFld (s := a) hs _ _ _
  have hab : a.SameBut [.regs] b := a.sameBut_withLocked _ _
  have hbc : b.SameBut [.regs] c := b.sameBut_putFld _ _ _
  have hcd : c.SameBut [.engines] (s.pllLost d) := State.sameBut_withEngines _ _ _
  have hregs : (s.pllLost d).regs = c.regs := hcd.2 .regs (by decide)
  refine ⟨((s.sameBut_withPower _).mono (by decide)).trans (((hab.trans hbc).mono (by decide)).trans (hcd.mono (by decide))), ?_, fun x hx => ?_, ?_,
    fun e => ?_⟩
  · exact ((hcd.2 .power (by decide)).trans (hbc.2 .power (by decide))).trans (hab.2 .power (by decide))
  · have hc : c.locked x = b.locked x := congrArg (bitAt · x) (State.fld_putFld_other hb (by decide))
    rw [State.locked_congr hregs, hc, State.locked_withLocked_one (s := a) hs d false hx]
    rfl
  · have hcnt : b.fld Reg.clkUnlockCnt Fld.clkUnlockCntCount = s.fld Reg.clkUnlockCnt Fld.clkUnlockCntCount :=
      State.fld_putFld_other (s := a) hs (by decide)
    rw [fld_congr hregs, State.fld_bumped hb (by decide), hcnt]
  · exact State.engine_withEngines _ e _ _ (nodup_clockEngines d)

/-! ## PLL_RELOCKED -/

/-- The state in which the PLL of domain `d`, unlocked since `x`, has its lock again. -/
def State.pllBack (s : State) (d x : Nat) : State :=
  State.withEngines (fun g => { g with stopped := false, beat := g.beat + (s.clock.now - x) }) (clockEngines d)
    ((s.withPower { s.power with unlocked := tblDel s.power.unlocked d }).withLocked [d] true)

theorem exec_pllRelocked {d x : Nat} {b : Bool} (h : tblFind s.power.unlocked d = some (x, b)) :
    exec (.pllRelocked d) s = .next (s.pllBack d x) := by
  change execPllRelocked d s = _
  refine whenEnabled_next (by rw [h]; rfl) |>.trans (congrArg _ ?_)
  unfold pllRelocked
  rw [run_getS_bind, h]
  refine M.gives.run ((modPower_gives _ _).bind ((setLocked_gives _ _ _).bind ((forIn_modEngine_gives _ _ _).bind (pure_gives _ _))))

theorem State.pllBack_spec (hs : s.Canonical) (d x : Nat) : s.SameBut [.regs, .engines, .power] (s.pllBack d x) ∧
    (s.pllBack d x).power = { s.power with unlocked := tblDel s.power.unlocked d } ∧ (d < 41 → (s.pllBack d x).locked d = true) ∧
    ∀ e, (s.pllBack d x).engine e = if e ∈ clockEngines d then
      { s.engine e with stopped := false, beat := (s.engine e).beat + (s.clock.now - x) } else s.engine e := by
  let a := s.withPower { s.power with unlocked := tblDel s.power.unlocked d }
  let b := a.withLocked [d] true
  have hab : a.SameBut [.regs] b := a.sameBut_withLocked _ _
  have hbc : b.SameBut [.engines] (s.pllBack d x) := State.sameBut_withEngines _ _ _
  refine ⟨((s.sameBut_withPower _).mono (by decide)).trans ((hab.mono (by decide)).trans (hbc.mono (by decide))),
    (hbc.2 .power (by decide)).trans (hab.2 .power (by decide)), fun hd => ?_, fun e => ?_⟩
  · rw [State.locked_congr (hbc.2 .regs (by decide)), State.locked_withLocked_one (s := a) hs d true hd, if_pos rfl]
  · exact State.engine_withEngines _ e _ _ (nodup_clockEngines d)

theorem lt_of_hasPll {d : Nat} (h : hasPll d = true) : d < 41 := by
  simp only [hasPll, Bool.and_eq_true, decide_eq_true_eq] at h
  exact h.1.2

/-! ## PLL_RELOCK_TIMEOUT -/

/-- The state in which a PLL is given up, before the event. -/
def State.pllGivenUp (s : State) (d x : Nat) : State := s.withPower { s.power with unlocked := tblSet s.power.unlocked d (x, true) }

theorem exec_pllRelockTimeout {d x : Nat} (h : tblFind s.power.unlocked d = some (x, false)) (htime : x + usUnits 100 ≤ s.clock.now) :
    exec (.pllRelockTimeout d) s = .next (M.run (pllRelockTimeout d) s) := by
  change execPllRelockTimeout d s = _
  refine whenEnabled_next ?_
  rw [h]
  exact decide_eq_true htime

theorem exec_pllRelockTimeout_refused {d x : Nat} {b : Bool} (h : tblFind s.power.unlocked d = some (x, b))
    (hno : b = true ∨ s.clock.now < x + usUnits 100) : TurnedAway (.pllRelockTimeout d) s := by
  change execPllRelockTimeout d s = _
  refine whenEnabled_refused ?_
  rw [h]
  cases b with
  | true => rfl
  | false => exact decide_eq_false (Nat.not_le.mpr (hno.resolve_left (by decide)))

theorem pllRelockTimeout_then {d x : Nat} {b : Bool} (h : tblFind s.power.unlocked d = some (x, b)) {tail : M Unit}
    (htail : tail = if d = 5 ∨ (18 ≤ d ∧ d ≤ 22) ∨ d = 40 then trigger .die 0xB009 s.clock.now 0 false
      else do for e in clockEngines d do trigger (.engine e) 0xB009 s.clock.now 0 false) :
    (pllRelockTimeout d).Then s tail fun t => t = (s.pllGivenUp d x).afterEvent 0x81 0xFF 0xB009 (det [(1, d), (1, 1)]) := by
  subst htail
  unfold pllRelockTimeout
  refine .getS ?_
  rw [h]
  refine .upd (((raise_gives _ _ _ _ (s.pllGivenUp d x)).leads (P := fun _ t => t = _) rfl).andThen fun _ t ht => ht ▸ ?_)
  split
  · exact .here rfl
  · exact .here rfl

/-! ## POWER_EVALUATION -/

/-- The state in which the samples are kept and their mean is shown. -/
def State.sampled (s : State) (samples : List Nat) (mean : Nat) : State :=
  (s.withPower { s.power with samples := samples }).putFld Reg.pwrStatus Fld.pwrStatusMw1ms (min mean (2 ^ 20 - 1))

theorem State.fld_sampled (hs : s.Canonical) (samples : List Nat) (mean : Nat) :
    (s.sampled samples mean).fld Reg.pwrStatus Fld.pwrStatusMw1ms = min mean (2 ^ 20 - 1) :=
  State.fld_putFld_same (s := s.withPower _) hs (by decide) (Nat.lt_of_le_of_lt (Nat.min_le_right _ _) (by decide))

theorem State.sameBut_sampled (s : State) (samples : List Nat) (mean : Nat) : s.SameBut [.regs, .power] (s.sampled samples mean) :=
  ((s.sameBut_withPower _).mono (by decide)).trans ((State.sameBut_putFld _ _ _ _).mono (by decide))

/-- The state in which the throttle's duty is `duty`. -/
def State.withDuty (s : State) (duty : Nat) : State := s.withPower { s.power with duty := duty }

/-- The state of an evaluation over the limit that throttles by `duty`; the event marks the start of throttling. -/
def State.throttling (s : State) (samples : List Nat) (mean duty : Nat) : State :=
  if s.power.duty = 0 then
    (((s.sampled samples mean).drawn.withDuty duty).putFld Reg.pwrStatus Fld.pwrStatusThrottling 1).afterEvent 0x81 0xFF 0xB006
      (det [(1, 1), (1, duty), (2, 0), (4, mean)])
  else (s.sampled samples mean).drawn.withDuty duty

theorem exec_powerEvaluation (hphase : s.power.phase = 2) (mw : Nat) : exec (.powerEvaluation mw) s = .next (M.run (powerEvaluation mw) s) := by
  change execPowerEvaluation mw s = _
  exact whenEnabled_next (by rw [hphase]; rfl)

section
variable {mw mean : Nat} {samples : List Nat} (hsamples : samples = (mw :: s.power.samples).take 100)
  (hmean : mean = samples.foldl (· + ·) 0 / samples.length)
include hsamples hmean

theorem meanMw_eq : meanMw samples = mean := by
  have hne : samples.isEmpty = false := by rw [hsamples]; rfl
  rw [meanMw, hne, hmean]
  rfl

theorem run_powerEvaluation_over (hover : s.fld Reg.pwrLimit Fld.pwrLimitWatts * 1000 * 97 < mean * 100) :
    ∃ duty, duty < 15 ∧ M.run (powerEvaluation mw) s = s.throttling samples mean (duty + 1) := by
  refine M.Leads.run (P := fun t => ∃ duty, duty < 15 ∧ t = s.throttling samples mean (duty + 1)) ?_
  unfold powerEvaluation
  refine .getS ?_
  dsimp only
  rw [← hsamples, meanMw_eq hsamples hmean, if_pos hover]
  refine .upd ((wrFld_gives _ _ _ _).leads_bind (.bind (M.Leads.mono (fresh_leads 15 (by decide) _) fun duty t ht => M.Leads.upd ?_)))
  obtain ⟨hduty, rfl⟩ := ht
  unfold State.throttling
  split
  · exact ((wrFld_gives _ _ _ _).bind (raise_gives _ _ _ _ _)).leads ⟨duty, hduty, rfl⟩
  · exact (pure_gives _ _).leads ⟨duty, hduty, rfl⟩

theorem run_powerEvaluation_under (hunder : mean * 100 < s.fld Reg.pwrLimit Fld.pwrLimitWatts * 1000 * 92) (hduty : s.power.duty ≠ 0) :
    M.run (powerEvaluation mw) s =
      (((s.sampled samples mean).withDuty 0).putFld Reg.pwrStatus Fld.pwrStatusThrottling 0).afterEvent 0x81 0xFF 0xB006
        (det [(1, 0), (1, s.power.duty), (2, 0), (4, mean)]) := by
  unfold powerEvaluation
  rw [run_getS_bind]
  dsimp only
  rw [← hsamples, meanMw_eq hsamples hmean, if_neg (by omega), if_pos ⟨hunder, hduty⟩]
  exact M.gives.run ((modPower_gives _ _).bind ((wrFld_gives _ _ _ _).bind ((modPower_gives _ _).bind ((wrFld_gives _ _ _ _).bind
    (raise_gives _ _ _ _ _)))))

theorem run_powerEvaluation_within (hle : mean * 100 ≤ s.fld Reg.pwrLimit Fld.pwrLimitWatts * 1000 * 97)
    (hkeep : s.fld Reg.pwrLimit Fld.pwrLimitWatts * 1000 * 92 ≤ mean * 100 ∨ s.power.duty = 0) :
    M.run (powerEvaluation mw) s = s.sampled samples mean := by
  unfold powerEvaluation
  rw [run_getS_bind]
  dsimp only
  rw [← hsamples, meanMw_eq hsamples hmean]
  refine M.gives.run ((modPower_gives _ _).bind ((wrFld_gives _ _ _ _).bind ?_))
  exact .ite_neg (Nat.not_lt.mpr hle) _ (.ite_neg (by omega) _ (pure_gives _ _))

end

/-! ## MONITOR_SAMPLE -/

/-- The state in which a monitor's reading and maximum are kept. -/
def State.monitored (s : State) (kind i v top : Nat) : State := s.withPower { s.power with mon := tblSet s.power.mon (kind * 256 + i) (v, top) }

theorem exec_monitorSample {kind i v : Nat} (hphase : s.power.phase ≠ 0) (hi : i < monitorCount kind) :
    exec (.monitorSample kind i v) s = .next (M.run (monitorSample kind i v) s) := by
  change execMonitorSample kind i v s = _
  exact whenEnabled_next (by simp [hphase, hi])

theorem monitorSample_then {kind i v top : Nat} (hv : v < 2 ^ 32) (htop : top = (match tblFind s.power.mon (kind * 256 + i) with
    | some (_, m) => if signed 32 m < signed 32 v then v else m
    | none => v)) {tail : M Unit} (htail : tail = do
      if kind = 0 then thermal i
      if kind = 3 then currentSample i) : (monitorSample kind i v).Then s tail fun t => t = s.monitored kind i v top := by
  subst htail
  unfold monitorSample
  refine .getS ?_
  simp only [Nat.mod_eq_of_lt hv]
  subst htop
  exact .upd (.here rfl)

/-! ## Temperatures -/

/-- The state in which partition `p` is throttled for its temperature. -/
def State.heated (s : State) (p : Nat) : State := s.withPower { s.power with hot := s.power.hot ++ [p] }

theorem run_thermal {i p : Nat} {x : Int} (hp : p = sensorPart i) (hx : x = s.monitor 0 i) (htrip : s.power.tripped = false)
    (hpin : s.pins.thermN = true) (hhot : s.power.hot.contains p = false) (hcold : signed 8 (s.opRec p).calTemp * 8 - 240 ≤ x) (hlow : x < 960)
    (halarm : x < 8 * (s.fld Reg.monTherm Fld.monThermAlarmC : Int)) :
    M.run (thermal i) s = if 8 * (s.fld Reg.monTherm Fld.monThermThrottleC : Int) ≤ x then
      (s.heated p).afterEvent 0x81 p 0xB003 (det [(1, p), (1, 1), (2, unsigned 16 x)]) else s := by
  subst hp hx
  unfold thermal
  rw [run_getS_bind]
  simp only [hhot, htrip, hpin, not_le.mpr halarm, not_le.mpr hlow, not_lt.mpr hcold, Bool.not_true, Bool.not_false, Bool.false_eq_true,
    false_and, and_true, if_false]
  split
  · exact ((modPower_gives _ _).bind ((raise_gives _ _ _ _ (s.heated _)).bind (pure_gives _ _))).run
  · exact (pure_gives _ _).run

/-! ## Droops -/

/-- The state in which the clocks of partition `p` are stretched. -/
def State.drooped (s : State) (p : Nat) : State := s.withPower { s.power with droop := tblSet s.power.droop p s.clock.now }

theorem exec_droopDetect {p : Nat} (hp : p < 7) (h : tblFind s.power.droop p = none) :
    exec (.droopDetect p) s = .next (M.run (droopDetect p) s) := by
  change execDroopDetect p s = _
  exact whenEnabled_next (by simp [hp, h])

theorem run_droopDetect_quiet {p x : Nat} (h : tblFind s.power.droopEvent p = some x) (htime : s.clock.now < x + msUnits 1) :
    M.run (droopDetect p) s = s.drooped p := by
  unfold droopDetect
  rw [run_getS_bind, h]
  have hquiet : ((some x).map fun t => decide (s.clock.now < t + msUnits 1)).getD false = true := by
    simp only [Option.map_some, Option.getD_some, htime, decide_true]
  rw [hquiet]
  exact M.gives.run ((modPower_gives _ _).bind (.ite_neg (by decide) _ (pure_gives _ _)))

theorem run_droopDetect_first {p : Nat} (h : tblFind s.power.droopEvent p = none) : ∃ d mv n u, d < 24 ∧ s.SameBut [.free, .power] u ∧
    u.power = { s.power with droop := tblSet s.power.droop p s.clock.now, droopEvent := tblSet s.power.droopEvent p s.clock.now } ∧
    M.run (droopDetect p) s = u.afterEvent 0x81 p 0xB007 (det [(1, p), (1, d), (2, mv), (4, n)]) := by
  refine M.Leads.run (P := fun t => ∃ d mv n u, d < 24 ∧ s.SameBut [.free, .power] u ∧
    u.power = { s.power with droop := tblSet s.power.droop p s.clock.now, droopEvent := tblSet s.power.droopEvent p s.clock.now } ∧
    t = u.afterEvent 0x81 p 0xB007 (det [(1, p), (1, d), (2, mv), (4, n)])) ?_
  unfold droopDetect
  refine .getS ?_
  rw [h]
  refine .upd ?_
  dsimp only
  rw [if_pos (by rfl)]
  refine .bind (M.Leads.mono (fresh_leads 24 (by decide) _) fun d t ht => .bind (M.Leads.mono (fresh_leads 65536 (by decide) _) fun mv t' ht' =>
    .bind (M.Leads.mono (fresh_leads (2 ^ 32) (by decide) _) fun n t'' ht'' => M.Leads.upd ?_)))
  obtain ⟨hd, rfl⟩ := ht
  obtain ⟨-, rfl⟩ := ht'
  obtain ⟨-, rfl⟩ := ht''
  refine (raise_gives _ _ _ _ _).leads ⟨d, mv, n, _, hd, ?_, rfl, rfl⟩
  exact (((((s.sameBut_withPower _).mono (by decide)).upd (.free _) rfl).upd (.free _) rfl).upd (.free _) rfl).upd (.power _) rfl

/-- The state in which the stretch of partition `p`, since `x`, has ended. -/
def State.stretchEnded (s : State) (p x : Nat) : State :=
  let u := s.withPower { s.power with droop := tblDel s.power.droop p }
  u.putFld (Reg.monDroopCnt p) Fld.monDroopCntCycles (satAdd Fld.monDroopCntCycles.width (u.fld (Reg.monDroopCnt p) Fld.monDroopCntCycles)
    ((s.clock.now - x) * (partKhz p * 1000) / 2 ^ 33))

theorem State.stretchEnded_spec (hs : s.Canonical) (p x : Nat) : s.SameBut [.regs, .power] (s.stretchEnded p x) ∧
    (s.stretchEnded p x).power = { s.power with droop := tblDel s.power.droop p } ∧
    s.OneReg (Reg.monDroopCnt p) ((s.stretchEnded p x).reg (Reg.monDroopCnt p)) (s.stretchEnded p x) ∧
    (s.stretchEnded p x).fld (Reg.monDroopCnt p) Fld.monDroopCntCycles = satAdd Fld.monDroopCntCycles.width
      (s.fld (Reg.monDroopCnt p) Fld.monDroopCntCycles) ((s.clock.now - x) * (partKhz p * 1000) / 2 ^ 33) := by
  refine ⟨((s.sameBut_withPower _).mono (by decide)).trans ((State.sameBut_putFld _ _ _ _).mono (by decide)), rfl, fun y => ?_, ?_⟩
  · split
    case isTrue h => rw [h]
    case isFalse h => exact (State.reg_putFld (s := s.withPower _) hs).trans (if_neg h)
  · exact State.fld_bumped (s := s.withPower _) hs (by decide) _

theorem exec_droopStretchEnd {p x : Nat} (h : tblFind s.power.droop p = some x) : exec (.droopStretchEnd p) s = .next (s.stretchEnded p x) := by
  have hget : tblGet s.power.droop s.clock.now p = x := by rw [tblGet, h]; rfl
  change execDroopStretchEnd p s = _
  refine whenEnabled_next (by rw [h]; rfl) |>.trans (congrArg _ ?_)
  unfold droopStretchEnd
  rw [run_getS_bind, hget]
  exact M.gives.run ((modPower_gives _ _).bind (bump_gives _ _ _ _))

/-- Settles O55: each watch of clocks, power and monitors writes what the statement names and then raises its event. -/
theorem clocksPowerAndMonitorsAreWatched : Obligations.ClocksPowerAndMonitorsAreWatched := by
  unfold Obligations.ClocksPowerAndMonitorsAreWatched
  intro s hs hunlocked hdroop locked
  refine ⟨fun d => ⟨fun hpll hlock => ?_, fun h => ?_, fun x b hfind => ⟨?_, fun hb htime => ⟨fun hd => ?_, fun hd => ?_⟩, fun h => ?_⟩,
      fun h => ⟨?_, ?_⟩⟩,
    fun mw samples mean hphase hsamples hmean => ⟨fun hover => ?_, fun hunder hduty => ?_, fun hle hkeep => ?_⟩, fun mw h => ?_,
    fun kind i v top hphase hi hv htop => ⟨fun hkind => ?_, fun hkind => ?_, fun hkind => ?_⟩, fun kind i v h => ?_,
    fun i p x hi hp hx htrip hpin hhot hcold hlow halarm => ⟨fun hthr => ?_, fun hthr => ?_⟩, fun p hp hnone => ⟨fun x hx htime => ?_, fun hx => ?_⟩,
    fun p h => ?_, fun p x hx => ?_, fun p h => ?_⟩
  · obtain ⟨hframe, hpower, hlocked, hcount, hengines⟩ := State.pllLost_spec hs d
    refine ⟨_, hframe, hpower, ?_, fun x hx hlt => ?_, hcount, hengines, exec_pllUnlock hpll hlock⟩
    · exact (hlocked d (lt_of_hasPll hpll)).trans (if_pos rfl)
    · exact (hlocked x hlt).trans (if_neg hx)
  · change execPllUnlock d s = _
    refine whenEnabled_refused ?_
    obtain h | h := h
    · rw [h, Bool.false_and]
    · rw [show bitAt (s.fld Reg.clkStatus Fld.clkStatusLocked) d = false from h, Bool.and_false]
  · obtain ⟨hframe, hpower, hlocked, hengines⟩ := State.pllBack_spec hs d x
    refine ⟨_, exec_pllRelocked hfind, hframe, ?_, hlocked, hengines⟩
    rw [hpower]
    exact (tblFind_tblDel hunlocked _ _).trans (if_pos rfl)
  · subst hb
    refine completesThen_of_then (exec_pllRelockTimeout hfind htime) ?_
    obtain ⟨u, rfl, hrun⟩ := pllRelockTimeout_then hfind (if_pos hd).symm
    exact ⟨_, ⟨s.pllGivenUp d x, s.sameBut_withPower _, tblFind_tblSet_same _ _ _, rfl⟩, hrun⟩
  · subst hb
    refine completesThen_of_then (exec_pllRelockTimeout hfind htime) ?_
    obtain ⟨u, rfl, hrun⟩ := pllRelockTimeout_then hfind (if_neg hd).symm
    exact ⟨_, ⟨s.pllGivenUp d x, s.sameBut_withPower _, tblFind_tblSet_same _ _ _, rfl⟩, hrun⟩
  · exact exec_pllRelockTimeout_refused hfind h
  · change execPllRelocked d s = _
    exact whenEnabled_refused (by rw [h]; rfl)
  · change execPllRelockTimeout d s = _
    exact whenEnabled_refused (by rw [h])
  · obtain ⟨duty, hlt, hrun⟩ := run_powerEvaluation_over hsamples hmean hover
    have hexec := (exec_powerEvaluation hphase mw).trans (congrArg _ hrun)
    have hcan : ((s.sampled samples mean).drawn.withDuty (duty + 1)).Canonical := State.canonical_putFld (s := s.withPower _) hs _ _ _
    have hframe : s.SameBut [.regs, .free, .power] ((s.sampled samples mean).drawn.withDuty (duty + 1)) :=
      (((s.sameBut_sampled samples mean).mono (by decide)).upd (.free _) rfl).trans ((State.sameBut_withPower _ _).mono (by decide))
    unfold State.throttling at hexec
    by_cases hzero : s.power.duty = 0
    · rw [if_pos hzero] at hexec
      refine ⟨duty, _, hlt, ?_, hframe.trans ((State.sameBut_putFld _ _ _ _).mono (by decide)), rfl, fun h => absurd hzero h,
        fun _ => ⟨State.fld_putFld_same hcan (by decide) (by decide), hexec⟩⟩
      exact (State.fld_putFld_apart hcan (by decide)).trans (State.fld_sampled hs samples mean)
    · rw [if_neg hzero] at hexec
      exact ⟨duty, (s.sampled samples mean).drawn.withDuty (duty + 1), hlt, State.fld_sampled hs samples mean, hframe, rfl, fun _ => hexec, fun h => absurd h hzero⟩
  · have hexec := (exec_powerEvaluation hphase mw).trans (congrArg _ (run_powerEvaluation_under hsamples hmean hunder hduty))
    have hcan : ((s.sampled samples mean).withDuty 0).Canonical := State.canonical_putFld (s := s.withPower _) hs _ _ _
    refine ⟨_, ?_, State.fld_putFld_same hcan (by decide) (by decide), ?_, rfl, hexec⟩
    · exact (State.fld_putFld_apart hcan (by decide)).trans (State.fld_sampled hs samples mean)
    · exact ((s.sameBut_sampled samples mean).trans ((State.sameBut_withPower _ _).mono (by decide))).trans
        ((State.sameBut_putFld _ _ _ _).mono (by decide))
  · exact ⟨_, (exec_powerEvaluation hphase mw).trans (congrArg _ (run_powerEvaluation_within hsamples hmean hle hkeep)),
      State.fld_sampled hs samples mean, s.sameBut_sampled samples mean, rfl⟩
  · change execPowerEvaluation mw s = _
    exact whenEnabled_refused (by simp [h])
  · obtain ⟨u, rfl, hrun⟩ := monitorSample_then hv htop rfl
    refine ⟨_, (exec_monitorSample hphase hi).trans (congrArg _ (hrun.trans ?_)), s.sameBut_withPower _, rfl⟩
    rw [if_neg (by omega), if_neg (by omega)]
    rfl
  · refine completesThen_of_then (exec_monitorSample hphase hi) ?_
    subst hkind
    obtain ⟨u, rfl, hrun⟩ := monitorSample_then hv htop rfl
    exact ⟨_, ⟨s.sameBut_withPower _, rfl⟩, hrun.trans (congrArg (M.run · _) (bind_pure (thermal i)))⟩
  · refine completesThen_of_then (exec_monitorSample hphase hi) ?_
    subst hkind
    obtain ⟨u, rfl, hrun⟩ := monitorSample_then hv htop rfl
    exact ⟨_, ⟨s.sameBut_withPower _, rfl⟩, hrun⟩
  · change execMonitorSample kind i v s = _
    refine whenEnabled_refused ?_
    obtain h | h := h
    · simp [h]
    · simp [Nat.not_lt.mpr h]
  · exact (run_thermal hp hx htrip hpin hhot hcold hlow halarm).trans (if_neg (not_le.mpr hthr))
  · exact ⟨_, s.sameBut_withPower _, rfl, (run_thermal hp hx htrip hpin hhot hcold hlow halarm).trans (if_pos hthr)⟩
  · exact ⟨_, (exec_droopDetect hp hnone).trans (congrArg _ (run_droopDetect_quiet hx htime)), s.sameBut_withPower _, rfl⟩
  · obtain ⟨d, mv, n, u, hd, hframe, hpower, hrun⟩ := run_droopDetect_first hx
    exact ⟨d, mv, n, u, hd, hframe, hpower, (exec_droopDetect hp hnone).trans (congrArg _ hrun)⟩
  · change execDroopDetect p s = _
    refine whenEnabled_refused ?_
    obtain h | h := h
    · simp [Nat.not_lt.mpr h]
    · rw [← Option.not_isSome, h, Bool.not_true, Bool.and_false]
  · obtain ⟨hframe, hpower, hone, hfld⟩ := State.stretchEnded_spec hs p x
    refine ⟨_, exec_droopStretchEnd hx, hframe, ?_, hone, hfld⟩
    rw [hpower]
    exact (tblFind_tblDel hdroop _ _).trans (if_pos rfl)
  · change execDroopStretchEnd p s = _
    exact whenEnabled_refused (by rw [h]; rfl)

end

end Sys2Proof.Machine
end

section
/-! PROOFS. Rails, clocks and power domains: O54 (R497–R501, R513, R544). -/

namespace Sys2Proof.Machine

open Sys2Proof

section
variable {s : State}

/-! ## Rails (R497) -/

/-- The rails that are valid after one of them changed. -/
def PowerSys.railsAfter (p : PowerSys) (r : Nat) (ok : Bool) : List Nat :=
  if ok then p.valid.orderedInsert (· ≤ ·) r else p.valid.filter (· ≠ r)

theorem PowerSys.mem_railsAfter (p : PowerSys) (r : Nat) (ok : Bool) (x : Nat) :
    x ∈ p.railsAfter r ok ↔ if ok then x = r ∨ x ∈ p.valid else x ≠ r ∧ x ∈ p.valid := by
  cases ok with
  | true => simp [PowerSys.railsAfter, List.mem_orderedInsert]
  | false => simp [PowerSys.railsAfter, and_comm]

/-- The state after PWR_STATUS.rails follows the valid rails. -/
def State.railsShown (s : State) : State :=
  s.putFld Reg.pwrStatus Fld.pwrStatusRails (s.power.valid.foldl (fun n r => n + 2 ^ r) 0)

theorem showRails_gives (s : State) : showRails.gives s () s.railsShown := fun _ => rfl

/-- The state after a rail's validity changed, before its event. -/
def State.railed (s : State) (r : Nat) (ok : Bool) : State :=
  (s.withPower { s.power with valid := s.power.railsAfter r ok, railAt := tblSet s.power.railAt r s.clock.now }).railsShown

theorem State.sameBut_railed (s : State) (r : Nat) (ok : Bool) : s.SameBut [.regs, .power] (s.railed r ok) :=
  ((s.sameBut_withPower _).mono (by decide)).trans ((State.sameBut_putFld _ _ _ _).mono (by decide))

theorem State.oneReg_railed (hs : s.Canonical) (r : Nat) (ok : Bool) :
    s.OneReg Reg.pwrStatus ((s.railed r ok).reg Reg.pwrStatus) (s.railed r ok) := fun x => by
  split
  case isTrue h => rw [h]
  case isFalse h => exact (State.reg_putFld (s := s.withPower _) hs).trans (if_neg h)

theorem State.fld_railed (hs : s.Canonical) (r : Nat) (ok : Bool) : (s.railed r ok).fld Reg.pwrStatus Fld.pwrStatusRails =
    ((s.railed r ok).power.valid.foldl (fun n x => n + 2 ^ x) 0) % 2 ^ Fld.pwrStatusRails.width :=
  fld_apply_same (s := s.withPower _) hs _ _ _ (by decide)

theorem railChanged_gives_off (hphase : s.power.phase ≠ 2) (r : Nat) (ok : Bool) : (railChanged r ok).gives s () (s.railed r ok) :=
  .getS_bind ((modPower_gives _ _).bind ((showRails_gives _).bind (.ite_neg hphase _ (pure_gives _ _))))

theorem railChanged_gives_on (hphase : s.power.phase = 2) (r : Nat) (ok : Bool) {mv : Nat} {v : State} (hv : (fresh 65536).gives (s.railed r ok) mv v) :
    (railChanged r ok).gives s () (v.afterEvent 0x81 0xFF 0xB001 (det [(1, r), (1, flagBit ok), (2, mv)])) :=
  .getS_bind ((modPower_gives _ _).bind ((showRails_gives _).bind (.ite_pos hphase _ (hv.bind (raise_gives _ _ _ _ _)))))

/-- Whatever the phase, a rail's change keeps the stores and shows in the valid rails. -/
theorem railChanged_leads (hs : s.Canonical) (r : Nat) (ok : Bool) :
    (railChanged r ok).Leads s fun _ t => t.Canonical ∧ t.power = (s.railed r ok).power ∧ t.store = s.store := by
  have hcan : (s.railed r ok).Canonical := State.canonical_putFld (s := s.withPower _) hs _ _ _
  by_cases hphase : s.power.phase = 2
  · obtain ⟨mv, v, hv, -, rfl⟩ := fresh_leads 65536 (by decide) (s.railed r ok)
    have hq := (s.railed r ok).drawn.afterEvent_quiet 0x81 0xFF 0xB001 (det [(1, r), (1, flagBit ok), (2, mv)])
    refine (railChanged_gives_on hphase r ok hv).leads ⟨(raise_gives _ _ _ _ _).canonical hcan, ?_, ?_⟩
    · rw [hq.rest]
      rfl
    · rw [hq.rest]
      rfl
  · exact (railChanged_gives_off hphase r ok).leads ⟨hcan, rfl, rfl⟩

theorem exec_railInvalid {r : Nat} (h : s.power.valid.contains r = true) : exec (.railInvalid r) s = .next (M.run (railInvalid r) s) := by
  change execRailInvalid r s = _
  exact whenEnabled_next h

theorem exec_railValid {r : Nat} (hr : r < 10) (h : s.power.valid.contains r = false) :
    exec (.railValid r) s = .next (M.run (railChanged r true) s) := by
  change execRailValid r s = _
  exact whenEnabled_next (by rw [h, decide_eq_true hr]; rfl)

/-! ## Loss of power (R469, R498) -/

/-- The state in which everything that power holds is lost. -/
def State.powerLost (s : State) : State :=
  { s with
    mem := s.mem.filter fun c => c.1 < 0 || 2 ^ 41 ≤ c.1
    regs := s.regs.filter fun c => c.1 < 0 || 2 ^ 32 ≤ c.1
    out := none
    clock := State.reset.clock
    sys := State.reset.sys
    tally := State.reset.tally
    engines := []
    dma := []
    rcv := { State.reset.rcv with privEmmc := s.rcv.privEmmc, recorded := s.rcv.recorded, wasBivouac := s.rcv.bivouac || s.rcv.wasBivouac }
    hall := State.reset.hall
    pins := State.reset.pins
    fabric := State.reset.fabric
    eth := []
    sec := State.reset.sec
    bist := State.reset.bist
    safe := State.reset.safe
    cams := State.reset.cams
    radio := State.reset.radio
    power := { State.reset.power with valid := s.power.valid, railAt := s.power.valid.map fun r => (r, 0) } }

theorem powerLoss_leads (s : State) : powerLoss.Leads s fun _ t => t = s.powerLost := by
  unfold powerLoss clearCameras modRadio modPower
  refine .getS ?_
  iterate 19 refine .upd ?_
  refine .pure ?_
  unfold State.powerLost
  simp only [Upd.apply]

theorem State.memGet_powerLost (s : State) {a : Nat} (ha : a < 2 ^ 41) : memGet s.powerLost.mem a = memGet [] a :=
  (memGet_filter (fun k => k < 0 || 2 ^ 41 ≤ k) s.mem a).trans (if_neg (by simp only [Nat.not_lt_zero, Nat.not_le.mpr ha]; decide))

theorem State.reg_powerLost (s : State) {x : Nat} (hx : x < 2 ^ 32) : s.powerLost.reg x = regReset x :=
  (State.reg_regClear s 0 (2 ^ 32) x).trans (if_pos (And.intro (Nat.zero_le x) hx))

theorem State.store_powerLost (s : State) : s.powerLost.store = s.store := by
  unfold State.powerLost
  rfl

theorem exec_refAoLoss (hphase : s.power.phase ≠ 0) : exec .refAoLoss s = .next s.powerLost := by
  change execRefAoLoss s = _
  refine whenEnabled_next (by simp [hphase]) |>.trans (congrArg _ ?_)
  exact (powerLoss_leads s).run

theorem railInvalid_leads_lost (hs : s.Canonical) {r : Nat} (hr : r < 2) : (railInvalid r).Leads s fun _ t =>
    ∃ v : State, v.power = (s.railed r false).power ∧ v.store = s.store ∧ t = v.powerLost := by
  unfold railInvalid
  refine .getS (.bind ((railChanged_leads hs r false).mono fun _ v hv => ?_))
  obtain ⟨-, hpower, hstore⟩ := hv
  rw [if_pos hr]
  exact (powerLoss_leads v).mono fun _ t ht => ⟨v, hpower, hstore, ht⟩

theorem run_railInvalid_off {r : Nat} (hr : 2 ≤ r) (hphase : s.power.phase ≠ 2) : M.run (railInvalid r) s = s.railed r false :=
  M.gives.run (.getS_bind ((railChanged_gives_off hphase r false).bind (.ite_neg (by omega) _ (.ite_neg hphase _ (pure_gives _ _)))))

/-- What a rail that fails in operation resets (R497). -/
def railEffect (r now : Nat) : M Unit := do
  if r ≤ 6 then
    if r = 5 ∨ r = 6 then update (.rcv fun x => { x with ddrLost := true })
    trigger .die 0xB001 now 0 true
  else if r = 9 then
    for n in List.range 8 do trigger (.engine (0xA0 + n)) 0xB001 now 0 false
  else
    for n in List.range 8 do trigger (.engine (0xA8 + n)) 0xB001 now 0 false
    trigger (.engine 0xB0) 0xB001 now 0 false
  drivePins

theorem run_railInvalid_on {r mv : Nat} {v : State} (hr : 2 ≤ r) (hphase : s.power.phase = 2) (hv : (fresh 65536).gives (s.railed r false) mv v) :
    M.run (railInvalid r) s = M.run (railEffect r s.clock.now) (v.afterEvent 0x81 0xFF 0xB001 (det [(1, r), (1, 0), (2, mv)])) := by
  unfold railInvalid
  rw [run_getS_bind, (railChanged_gives_on hphase r false hv).run_bind, if_neg (by omega), if_pos hphase]
  rfl

/-! ## Power up (R498) -/

/-- The state in which the always-on domain runs and drives its pins. -/
def State.alwaysOn (s : State) : State :=
  (Upd.pins fun p => { p with driven := true, safeN := false, oosN := false, pcycReqN := true, thermN := true, trayAlertN := true }).apply
    (s.withPower { s.power with phase := 1 })

/-- The state after the always-on domain left reset. -/
def State.poweredOn (s : State) : State := s.alwaysOn.railsShown.putFld Reg.clkStatus Fld.clkStatusLocked 1

theorem exec_powerOn (hphase : s.power.phase = 0) (h0 : s.power.valid.contains 0 = true) (h1 : s.power.valid.contains 1 = true) :
    exec .powerOn s = .next s.poweredOn := by
  change execPowerOn s = _
  refine whenEnabled_next (by rw [hphase, h0, h1]; rfl) |>.trans (congrArg _ ?_)
  exact M.gives.run ((modPower_gives _ _).bind ((update_gives _ _).bind ((showRails_gives _).bind (wrFld_gives _ _ _ _))))

/-- The state after the BCC left reset. -/
def State.bccReleased (s : State) : State :=
  ((Upd.rcv fun r => { r with kickAt := s.clock.now }).apply ((s.withPower { s.power with phase := 2 }).withLocked [22, 40] true)).railsShown

theorem exec_bccResetRelease (hphase : s.power.phase = 1) (h : s.railsFor2ms (List.range 10) = true) :
    exec .bccResetRelease s = .next s.bccReleased := by
  change execBccResetRelease s = _
  refine whenEnabled_next (by rw [hphase, h]; rfl) |>.trans (congrArg _ ?_)
  exact M.gives.run (.getS_bind ((modPower_gives _ _).bind ((setLocked_gives _ _ _).bind ((update_gives _ _).bind (showRails_gives _)))))

theorem State.bccReleased_spec (s : State) (hs : s.Canonical) : s.SameBut [.regs, .rcv, .power] s.bccReleased ∧
    s.bccReleased.locked 22 = true ∧ s.bccReleased.locked 40 = true := by
  let u := (s.withPower { s.power with phase := 2 }).withLocked [22, 40] true
  have hu : u.Canonical := State.canonical_putFld (s := s.withPower _) hs _ _ _
  have hlocked : ∀ x, x < 41 → s.bccReleased.locked x = u.locked x := fun x _ =>
    congrArg (bitAt · x) (State.fld_putFld_other (s := (Upd.rcv _).apply u) hu (by decide))
  refine ⟨?_, ?_, ?_⟩
  · exact ((((s.sameBut_withPower _).mono (by decide)).trans ((State.sameBut_withLocked _ _ _).mono (by decide))).upd (.rcv _) rfl).trans
      ((State.sameBut_putFld _ _ _ _).mono (by decide))
  · rw [hlocked 22 (by decide)]
    exact (State.locked_withLocked (s := s.withPower _) hs _ _ (by decide)).trans (if_pos (by decide))
  · rw [hlocked 40 (by decide)]
    exact (State.locked_withLocked (s := s.withPower _) hs _ _ (by decide)).trans (if_pos (by decide))

/-! ## Engine power states (R499–R501) -/

theorem exec_warmStandbyEntry {e : Nat} (hgated : gated e = true) (hidle : s.idleEngine e = true) (hpower : (s.engine e).power = .awake)
    (htime : s.idleSince e + nsUnits (s.fld Reg.pwrIdle Fld.pwrIdleWarmNs) ≤ s.clock.now) :
    exec (.warmStandbyEntry e) s = .next (s.withEngine e { s.engine e with power := .warm, since := s.clock.now }) := by
  change execWarmStandbyEntry e s = _
  refine whenEnabled_next ?_ |>.trans (congrArg _ (M.gives.run (.getS_bind (modEngine_gives _ _ _))))
  simp only [hgated, hidle, hpower, htime, decide_true, Bool.and_true]
  rfl

theorem exec_coldEntry {e : Nat} (hgated : gated e = true) (hidle : s.idleEngine e = true) (hpower : (s.engine e).power = .warm)
    (hkept : s.kept (domainOf e) = false) (htime : (s.engine e).since + usUnits (s.fld Reg.pwrIdle Fld.pwrIdleColdUs) ≤ s.clock.now) :
    exec (.coldEntry e) s = .next (s.withEngine e { s.engine e with power := .cold, since := s.clock.now }) := by
  change execColdEntry e s = _
  refine whenEnabled_next ?_ |>.trans (congrArg _ (M.gives.run (.getS_bind (modEngine_gives _ _ _))))
  simp only [hgated, hidle, hpower, hkept, htime, decide_true, Bool.and_true, Bool.not_false]
  rfl

theorem clockOf_lt (e : Nat) : clockOf e < 41 := by
  unfold clockOf
  split_ifs <;> omega

/-- The state in which the PLL of an engine's clock domain runs. -/
def State.pllRuns (s : State) (d : Nat) : State :=
  if s.power.stopped.contains d then (s.withPower { s.power with stopped := s.power.stopped.filter (· ≠ d) }).withLocked [d] true else s

theorem State.pllRuns_spec (hs : s.Canonical) {d : Nat} (hd : d < 41) : s.SameBut [.regs, .power] (s.pllRuns d) ∧ d ∉ (s.pllRuns d).power.stopped ∧
    (s.power.stopped.contains d = true → (s.pllRuns d).locked d = true) := by
  unfold State.pllRuns
  split
  case isTrue h =>
    refine ⟨((s.sameBut_withPower _).mono (by decide)).trans ((State.sameBut_withLocked _ _ _).mono (by decide)), ?_, fun _ => ?_⟩
    · show d ∉ s.power.stopped.filter (· ≠ d)
      simp
    · exact (State.locked_withLocked_one (s := s.withPower _) hs d true hd).trans (if_pos rfl)
  case isFalse h => exact ⟨.refl _ s, fun hmem => h (List.contains_iff_mem.mpr hmem), fun hc => absurd hc h⟩

theorem exec_wakeComplete {e : Nat} (hpower : (s.engine e).power = .waking) (hlock : tblFind s.power.unlocked (clockOf e) = none) :
    exec (.wakeComplete e) s = .next ((s.pllRuns (clockOf e)).withEngine e
      { s.engine e with power := .awake, since := s.clock.now, beat := s.clock.now }) := by
  change execWakeComplete e s = _
  refine whenEnabled_next (by rw [hpower, hlock]; rfl) |>.trans (congrArg _ ?_)
  unfold wakeComplete
  rw [run_getS_bind]
  unfold State.pllRuns
  split
  · exact M.gives.run ((modPower_gives _ _).bind ((setLocked_gives _ _ _).bind (modEngine_gives _ _ _)))
  · exact (modEngine_gives _ _ _).run

/-! ## Stopped PLLs (R500) -/

theorem exec_pllStop {d : Nat} (hd : d ∈ [1, 2, 3, 4, 6, 8]) (hstop : s.power.stopped.contains d = false)
    (hripe : ∀ e ∈ clockEngines d, gated e = true → (s.engine e).power = .cold ∧
      (s.engine e).since + usUnits (s.fld Reg.pwrIdle Fld.pwrIdleColdUs) ≤ s.clock.now) :
    exec (.pllStop d) s = .next ((s.withPower { s.power with stopped := s.power.stopped ++ [d] }).withLocked [d] false) := by
  have hall : (((clockEngines d).filter gated).all fun e => (s.engine e).power == .cold
      && decide ((s.engine e).since + usUnits (s.fld Reg.pwrIdle Fld.pwrIdleColdUs) ≤ s.clock.now)) = true := by
    rw [List.all_eq_true]
    intro e he
    obtain ⟨hmem, hg⟩ := List.mem_filter.mp he
    obtain ⟨hcold, htime⟩ := hripe e hmem hg
    simp only [hcold, htime, decide_true, Bool.and_true]
    rfl
  change execPllStop d s = _
  refine whenEnabled_next ?_ |>.trans (congrArg _ ?_)
  · rw [hstop, hall, List.contains_iff_mem.mpr hd]
    rfl
  · exact M.gives.run ((modPower_gives _ _).bind (setLocked_gives _ _ _))

theorem exec_pllStop_refused {d : Nat} (h : d ∉ [1, 2, 3, 4, 6, 8] ∨ s.power.stopped.contains d = true ∨
    ¬ ∀ e ∈ clockEngines d, gated e = true → (s.engine e).power = .cold ∧
      (s.engine e).since + usUnits (s.fld Reg.pwrIdle Fld.pwrIdleColdUs) ≤ s.clock.now) : TurnedAway (.pllStop d) s := by
  change execPllStop d s = _
  refine whenEnabled_refused ?_
  obtain h | h | h := h
  · have hno : [1, 2, 3, 4, 6, 8].contains d = false := Bool.eq_false_iff.mpr fun hc => h (List.contains_iff_mem.mp hc)
    rw [hno, Bool.false_and, Bool.false_and]
  · rw [h, Bool.not_true, Bool.and_false, Bool.false_and]
  · have hall : (((clockEngines d).filter gated).all fun e => (s.engine e).power == .cold
        && decide ((s.engine e).since + usUnits (s.fld Reg.pwrIdle Fld.pwrIdleColdUs) ≤ s.clock.now)) = false := by
      rw [Bool.eq_false_iff]
      refine fun hc => h fun e hmem hg => ?_
      have he := List.all_eq_true.mp hc e (List.mem_filter.mpr ⟨hmem, hg⟩)
      rw [Bool.and_eq_true, decide_eq_true_eq, beq_iff_eq] at he
      exact he
    rw [hall, Bool.and_false]

/-! ## Switched domains (R499, R513) -/

/-- The state in which a Hall group is memory. -/
def State.hallOn (s : State) (r : Nat × Nat) : State := (Upd.sys fun m => { m with holes := m.holes.filter (· ≠ r) }).apply s

/-- The state in which a Hall group has lost its contents and is a hole. -/
def State.hallOff (s : State) (r : Nat × Nat) : State :=
  (Upd.sys fun m => { m with holes := (m.holes ++ [r]).dedup }).apply ((Upd.memClear r.1 (r.1 + r.2)).apply s)

/-- The state in which some switched domains are on. -/
def State.withDomOn (s : State) (l : List Nat) : State := s.withPower { s.power with domOn := l }

/-- The state after a domain was switched on. -/
def State.domainOn (s : State) (d : Nat) : State :=
  let u := s.withDomOn (s.power.domOn ++ [d]).dedup
  if 51 ≤ d ∧ d ≤ 58 then u.hallOn (hallGroup (d - 51)) else u

/-- The state after a domain was switched off. -/
def State.domainOff (s : State) (d : Nat) : State :=
  let u := s.withDomOn (s.power.domOn.filter (· ≠ d))
  if 51 ≤ d ∧ d ≤ 58 then u.hallOff (hallGroup (d - 51)) else u

theorem exec_domainSwitch_on {d : Nat} (hsw : bccSwitched d = true) : exec (.domainSwitch .bcc d true) s = .next (s.domainOn d) := by
  change execDomainSwitch .bcc d true s = _
  refine always_of_run ?_
  unfold domainSwitch
  rw [run_getS_bind, if_neg (by simp [hsw])]
  unfold State.domainOn
  by_cases hd : 51 ≤ d ∧ d ≤ 58
  · rw [if_pos hd, if_pos hd]
    rfl
  · rw [if_neg hd, if_neg hd]
    rfl

theorem exec_domainSwitch_off {d : Nat} (hsw : bccSwitched d = true) (hoff : s.mayBeOff d = true) :
    exec (.domainSwitch .bcc d false) s = .next (s.domainOff d) := by
  change execDomainSwitch .bcc d false s = _
  refine always_of_run ?_
  unfold domainSwitch
  rw [run_getS_bind, if_neg (by simp [hsw, hoff])]
  unfold State.domainOff
  by_cases hd : 51 ≤ d ∧ d ≤ 58
  · rw [if_pos hd, if_pos hd]
    rfl
  · rw [if_neg hd, if_neg hd]
    rfl

theorem exec_domainSwitch_refused {w : Requester} {d : Nat} {on : Bool} (h : w ≠ .bcc ∨ bccSwitched d = false ∨ (on = false ∧ s.mayBeOff d = false)) :
    exec (.domainSwitch w d on) s = .next (refusedWrite s Reg.pwrDom (flagBit on) 0) := by
  have hno : w ≠ .bcc ∨ (!bccSwitched d) = true ∨ (!on) = true ∧ (!s.mayBeOff d) = true := by
    obtain h | h | ⟨h, h'⟩ := h
    · exact .inl h
    · exact .inr (.inl (by rw [h]; rfl))
    · exact .inr (.inr ⟨by rw [h]; rfl, by rw [h']; rfl⟩)
  change execDomainSwitch w d on s = _
  refine always_of_run ?_
  unfold domainSwitch
  rw [run_getS_bind, if_pos hno]
  exact run_refuseReg _ _ _ _

/-- A byte is read from the system cache, else from the ROM or from memory; of the holes only those around it matter. -/
theorem State.byteAt_of_holes {t : State} {a : Nat}
    (hholes : t.sys.holes.any (fun h => h.1 ≤ a && a < h.1 + h.2) = s.sys.holes.any fun h => h.1 ≤ a && a < h.1 + h.2)
    (hcache : t.sys.cache = s.sys.cache) (hmem : memGet t.mem a = memGet s.mem a) : t.byteAt a = s.byteAt a := by
  have hrom : ∀ off, t.place a = .rom off ↔ s.place a = .rom off := fun off => by
    rw [State.place_eq_rom_iff, State.place_eq_rom_iff, hholes]
  unfold State.byteAt
  rw [hcache, hmem]
  cases tblFind s.sys.cache (a / 64) with
  | some l => rfl
  | none =>
    dsimp only
    split
    case h_1 off h => rw [(hrom off).mp h]
    case h_2 h =>
      split
      case h_1 off h' => exact absurd ((hrom off).mpr h') (h off)
      case h_2 => rfl

/-- A byte outside a group that becomes a hole reads as before. -/
theorem State.byteAt_hallOff (s : State) (r : Nat × Nat) {a : Nat} (ha : a < r.1 ∨ r.2 + r.1 ≤ a) : (s.hallOff r).byteAt a = s.byteAt a := by
  have hholes : (s.hallOff r).sys.holes.any (fun h => h.1 ≤ a && a < h.1 + h.2) = s.sys.holes.any fun h => h.1 ≤ a && a < h.1 + h.2 := by
    have hout : (decide (r.1 ≤ a) && decide (a < r.1 + r.2)) = false := by
      rw [← Bool.decide_and]
      exact decide_eq_false (by omega)
    have happ : (s.sys.holes ++ [r]).any (fun h => h.1 ≤ a && a < h.1 + h.2) = s.sys.holes.any fun h => h.1 ≤ a && a < h.1 + h.2 := by
      rw [List.any_append, List.any_cons, hout]
      simp
    refine Eq.trans (Bool.eq_iff_iff.mpr ?_) happ
    change (s.sys.holes ++ [r]).dedup.any _ = true ↔ _
    simp only [List.any_eq_true, List.mem_dedup]
  have hmem : memGet (s.hallOff r).mem a = memGet s.mem a :=
    (memGet_filter (fun k => k < r.1 || r.1 + r.2 ≤ k) s.mem a).trans (if_pos (by simp only [Bool.or_eq_true, decide_eq_true_eq]; omega))
  exact State.byteAt_of_holes hholes rfl hmem

theorem State.sameBut_hallOff (s : State) (r : Nat × Nat) : s.SameBut [.mem, .sys] (s.hallOff r) :=
  (State.SameBut.refl [.mem, .sys] s).upd (.memClear _ _) rfl |>.upd (.sys _) rfl

theorem State.domainOn_spec (s : State) (d : Nat) : s.SameBut [.sys, .power] (s.domainOn d) ∧ (s.domainOn d).power.domOn = (s.power.domOn ++ [d]).dedup ∧
    (51 ≤ d ∧ d ≤ 58 → hallGroup (d - 51) ∉ (s.domainOn d).sys.holes) := by
  have hpower : s.SameBut [.power] (s.withDomOn (s.power.domOn ++ [d]).dedup) := s.sameBut_withPower _
  unfold State.domainOn
  dsimp only
  split
  case isTrue h =>
    refine ⟨(hpower.mono (by decide)).upd (.sys _) rfl, rfl, fun _ hmem => ?_⟩
    exact absurd rfl (of_decide_eq_true (List.mem_filter.mp hmem).2)
  case isFalse h => exact ⟨hpower.mono (by decide), rfl, fun hd => absurd hd h⟩

theorem State.domainOff_spec (s : State) (d : Nat) : s.SameBut [.mem, .sys, .power] (s.domainOff d) ∧
    (s.domainOff d).power.domOn = s.power.domOn.filter (· ≠ d) ∧
    (51 ≤ d ∧ d ≤ 58 → hallGroup (d - 51) ∈ (s.domainOff d).sys.holes ∧
      ∀ a, a < (hallGroup (d - 51)).1 ∨ (hallGroup (d - 51)).2 + (hallGroup (d - 51)).1 ≤ a → (s.domainOff d).byteAt a = s.byteAt a) := by
  have hpower : s.SameBut [.power] (s.withDomOn (s.power.domOn.filter (· ≠ d))) := s.sameBut_withPower _
  unfold State.domainOff
  dsimp only
  generalize hallGroup (d - 51) = r
  split
  case isTrue h =>
    refine ⟨(hpower.mono (by decide)).trans ((State.sameBut_hallOff _ r).mono (by decide)), rfl, fun _ => ⟨?_, fun a ha => ?_⟩⟩
    · exact List.mem_dedup.mpr (List.mem_append_right _ (List.mem_singleton_self r))
    · exact (State.byteAt_hallOff _ r ha).trans (State.byteAt_of_mem rfl rfl rfl)
  case isFalse h => exact ⟨hpower.mono (by decide), rfl, fun hd => absurd hd h⟩

/-- Settles O54: each command writes the rails, lock bits, engines or domains that the statement names. -/
theorem railsClocksAndDomainsFollowTheirRules : Obligations.RailsClocksAndDomainsFollowTheirRules := by
  unfold Obligations.RailsClocksAndDomainsFollowTheirRules
  intro s hs locked rails emptied lost
  refine ⟨fun r => ⟨fun h => ?_, fun h => ?_, fun hr h => ?_, fun hr h => ?_, fun hr h hphase => ?_, fun u v mv hr h hphase hu hv => ?_⟩,
    fun hphase => ?_, fun hphase => ?_, fun hphase h0 h1 => ?_, fun h => ?_, fun hphase hrails => ?_, fun h => ?_,
    fun e => ⟨fun hg hi => ⟨fun hp ht => ?_, fun hp hk ht => ?_⟩, fun h => ⟨?_, ?_⟩, fun h => ?_, fun hp hlock => ?_, fun h => ?_⟩,
    fun d => ⟨fun hd hstop hripe => ?_, fun h => exec_pllStop_refused h⟩, fun w d on h => exec_domainSwitch_refused h,
    fun d hd => ⟨?_, fun hoff => ?_⟩⟩
  · change execRailValid r s = _
    refine whenEnabled_refused ?_
    obtain h | h := h
    · rw [h, Bool.not_true, Bool.and_false]
    · rw [decide_eq_false (Nat.not_lt.mpr h), Bool.false_and]
  · change execRailInvalid r s = _
    exact whenEnabled_refused h
  · obtain ⟨mv, v, hv, -, -⟩ := fresh_leads 65536 (by decide) (s.railed r true)
    refine ⟨s.railed r true, s.sameBut_railed r true, State.oneReg_railed hs r true, fun x => ?_, tblFind_tblSet_same _ _ _, State.fld_railed hs r true,
      fun hphase => ?_, fun hphase => ⟨mv, v, hv, ?_⟩⟩
    · exact (s.power.mem_railsAfter r true x).trans (iff_of_eq (if_pos rfl))
    · exact (exec_railValid hr h).trans (congrArg _ (railChanged_gives_off hphase r true).run)
    · exact (exec_railValid hr h).trans (congrArg _ (railChanged_gives_on hphase r true hv).run)
  · obtain ⟨v, hpower, hstore, hrun⟩ := (railInvalid_leads_lost hs hr).run
    refine ⟨v.powerLost, (exec_railInvalid h).trans (congrArg _ hrun), ⟨fun a ha => v.memGet_powerLost ha, fun x hx => v.reg_powerLost hx⟩, rfl, rfl,
      v.store_powerLost.trans hstore, fun x => ?_⟩
    have hvalid : v.powerLost.power.valid = s.power.railsAfter r false := congrArg PowerSys.valid hpower
    rw [hvalid]
    exact (s.power.mem_railsAfter r false x).trans (iff_of_eq (if_neg (by decide)))
  · exact ⟨_, (exec_railInvalid h).trans (congrArg _ (run_railInvalid_off hr hphase)), s.sameBut_railed r false,
      fun x => (s.power.mem_railsAfter r false x).trans (iff_of_eq (if_neg (by decide)))⟩
  · have hrailed : M.gives (do
        modPower fun p => { p with valid := p.valid.filter (· ≠ r), railAt := tblSet p.railAt r s.clock.now }
        showRails) s () (s.railed r false) := (modPower_gives _ _).bind (showRails_gives _)
    obtain rfl := (hu.unique hrailed).2
    exact completesThen_of_then (exec_railInvalid h) ⟨_, rfl, run_railInvalid_on hr hphase hv⟩
  · have hexec := exec_refAoLoss hphase
    exact ⟨_, hexec, (exec_reach hexec).sameBut _ (reachOf_parts _), ⟨fun a ha => s.memGet_powerLost ha, fun x hx => s.reg_powerLost hx⟩, rfl, rfl, rfl,
      rfl, s.store_powerLost, rfl, rfl⟩
  · change execRefAoLoss s = _
    exact whenEnabled_refused (by rw [hphase]; rfl)
  · have hcan : s.alwaysOn.railsShown.Canonical := State.canonical_putFld (s := s.alwaysOn) hs _ _ _
    refine ⟨_, exec_powerOn hphase h0 h1, ?_, rfl, ?_, rfl⟩
    · exact ((((s.sameBut_withPower _).mono (by decide)).upd (.pins _) rfl).trans ((State.sameBut_putFld _ _ _ _).mono (by decide))).trans
        ((State.sameBut_putFld _ _ _ _).mono (by decide))
    · exact congrArg (bitAt · 0) (State.fld_putFld_same hcan (by decide) (by decide))
  · change execPowerOn s = _
    refine whenEnabled_refused ?_
    obtain h | h := h
    · rw [beq_false_of_ne h, Bool.false_and, Bool.false_and]
    · rw [h, Bool.and_false, Bool.false_and]
  · obtain ⟨hframe, h22, h40⟩ := s.bccReleased_spec hs
    exact ⟨_, exec_bccResetRelease hphase hrails, hframe, rfl, h22, h40, rfl⟩
  · change execBccResetRelease s = _
    refine whenEnabled_refused ?_
    obtain h | h := h
    · rw [beq_false_of_ne h, Bool.false_and]
    · rw [h, Bool.and_false]
  · exact ⟨_, exec_warmStandbyEntry hg hi hp ht, s.withEngine_frame e _, s.oneEngine_withEngine e _⟩
  · exact ⟨_, exec_coldEntry hg hi hp hk ht, s.withEngine_frame e _, s.oneEngine_withEngine e _⟩
  · change execWarmStandbyEntry e s = _
    refine whenEnabled_refused ?_
    obtain h | h := h
    · rw [h, Bool.and_false, Bool.false_and]
    · rw [h, Bool.false_and, Bool.false_and, Bool.false_and]
  · change execColdEntry e s = _
    refine whenEnabled_refused ?_
    obtain h | h := h
    · rw [h, Bool.and_false, Bool.false_and, Bool.false_and]
    · rw [h, Bool.false_and, Bool.false_and, Bool.false_and, Bool.false_and]
  · change execColdEntry e s = _
    exact whenEnabled_refused (by rw [h, Bool.not_true, Bool.and_false, Bool.false_and])
  · obtain ⟨hframe, hstop, hlocked⟩ := State.pllRuns_spec hs (clockOf_lt e)
    have hone := (s.pllRuns (clockOf e)).oneEngine_withEngine e { s.engine e with power := .awake, since := s.clock.now, beat := s.clock.now }
    have hengines : (s.pllRuns (clockOf e)).engines = s.engines := hframe.2 .engines (by decide)
    refine ⟨_, exec_wakeComplete hp hlock, (hframe.mono (by decide)).trans ((State.withEngine_frame _ e _).mono (by decide)), ⟨hone.1, fun x hx => ?_⟩,
      hstop, hlocked⟩
    rw [hone.2 x hx, State.engine, hengines, State.engine]
  · change execWakeComplete e s = _
    refine whenEnabled_refused ?_
    obtain h | h := h
    · rw [beq_false_of_ne h, Bool.false_and]
    · rw [← Option.not_isSome, h, Bool.not_true, Bool.and_false]
  · refine ⟨_, exec_pllStop hd hstop hripe, ((s.sameBut_withPower _).mono (by decide)).trans ((State.sameBut_withLocked _ _ _).mono (by decide)), rfl,
      ?_, fun x hx hlt => ?_⟩
    · refine (State.locked_withLocked_one (s := s.withPower _) hs d false ?_).trans (if_pos rfl)
      simp only [List.mem_cons, List.not_mem_nil, or_false] at hd
      omega
    · exact (State.locked_withLocked_one (s := s.withPower _) hs d false hlt).trans (if_neg hx)
  · obtain ⟨hframe, hdom, hhole⟩ := s.domainOn_spec d
    refine ⟨_, exec_domainSwitch_on hd, hframe, ?_, fun x hx => ?_, fun h51 h58 => hhole ⟨h51, h58⟩⟩
    · rw [hdom]
      simp
    · rw [hdom] at hx
      simpa [or_comm] using hx
  · obtain ⟨hframe, hdom, hhole⟩ := s.domainOff_spec d
    refine ⟨_, exec_domainSwitch_off hd hoff, hframe, ?_, fun h51 h58 => hhole ⟨h51, h58⟩⟩
    rw [hdom]
    simp

end

end Sys2Proof.Machine
end

section
/-! PROOFS. Radio links align and symbols pass in time: O60 (R378–R383, R399, R401). -/

namespace Sys2Proof.Machine

open Sys2Proof

section
variable {s : State}

/-! ## JESD links (R382) -/

/-- What the alignment of link `l` writes, by what the link was in state `s`. -/
def alignLink (s : State) (l : Nat) : M Unit := do
  if s.linkState l = 1 then bump (Reg.jesdErr l) Fld.jesdErrResync 1
  wrFld (Reg.jesdStatus l) Fld.jesdStatusLat (Config.jesdLatency l (s.fld (Reg.jesdCtl l) Fld.jesdCtlRbd) % 2 ^ 24)
  wrFld (Reg.jesdStatus l) Fld.jesdStatusState 2
  raise 0xB3 5 0xAC01 (det [(1, l), (1, s.linkLanes l), (4, Config.jesdLatency l (s.fld (Reg.jesdCtl l) Fld.jesdCtlRbd) % 2 ^ 24)])

/-- Link `l` is aligned in state `u` from what it was in state `t`; `s` says which links align. -/
def Aligned (s t u : State) (l : Nat) : Prop :=
  if s.linkOn l = true ∧ s.linkState l ≠ 2 then u.linkState l = 2 ∧
    u.fld (Reg.jesdStatus l) Fld.jesdStatusLat = Config.jesdLatency l (s.fld (Reg.jesdCtl l) Fld.jesdCtlRbd) % 2 ^ 24 ∧
    u.fld (Reg.jesdErr l) Fld.jesdErrResync = satAdd 32 (t.fld (Reg.jesdErr l) Fld.jesdErrResync) (if s.linkState l = 1 then 1 else 0)
  else u.reg (Reg.jesdStatus l) = t.reg (Reg.jesdStatus l) ∧ u.reg (Reg.jesdErr l) = t.reg (Reg.jesdErr l)

/-- A link's counter and status registers, and a quiet rest, are all that may differ. -/
structure LinkTurn (l : Nat) (t u : State) : Prop where
  frame : t.SameBut [.mem, .regs, .sys, .tally] u
  canonical : u.Canonical
  regs : ∀ y, y ≠ Reg.jesdStatus l → y ≠ Reg.jesdErr l → u.reg y = t.reg y

/-- The state in which link `l` is aligned, before the event. -/
def State.linkAligned (t s : State) (l : Nat) : State :=
  let u := if s.linkState l = 1 then t.putFld (Reg.jesdErr l) Fld.jesdErrResync
    (satAdd Fld.jesdErrResync.width (t.fld (Reg.jesdErr l) Fld.jesdErrResync) 1) else t
  (u.putFld (Reg.jesdStatus l) Fld.jesdStatusLat (Config.jesdLatency l (s.fld (Reg.jesdCtl l) Fld.jesdCtlRbd) % 2 ^ 24)).putFld
    (Reg.jesdStatus l) Fld.jesdStatusState 2

theorem alignLink_gives (s t : State) (l : Nat) : (alignLink s l).gives t () ((t.linkAligned s l).afterEvent 0xB3 5 0xAC01
    (det [(1, l), (1, s.linkLanes l), (4, Config.jesdLatency l (s.fld (Reg.jesdCtl l) Fld.jesdCtlRbd) % 2 ^ 24)])) := by
  unfold alignLink State.linkAligned
  have htail (u : State) : M.gives (do
      wrFld (Reg.jesdStatus l) Fld.jesdStatusLat (Config.jesdLatency l (s.fld (Reg.jesdCtl l) Fld.jesdCtlRbd) % 2 ^ 24)
      wrFld (Reg.jesdStatus l) Fld.jesdStatusState 2
      raise 0xB3 5 0xAC01 (det [(1, l), (1, s.linkLanes l), (4, Config.jesdLatency l (s.fld (Reg.jesdCtl l) Fld.jesdCtlRbd) % 2 ^ 24)])) u () _ :=
    (wrFld_gives _ _ _ _).bind ((wrFld_gives _ _ _ _).bind (raise_gives _ _ _ _ _))
  by_cases h : s.linkState l = 1
  · simp only [if_pos h]
    exact (bump_gives _ _ _ _).bind (htail _)
  · simp only [if_neg h]
    exact htail t

theorem jesdStatus_ne_jesdErr (l m : Nat) : Reg.jesdStatus l ≠ Reg.jesdErr m := by
  unfold Reg.jesdStatus Reg.jesdErr
  omega

/-- What alignment does to the registers of a link. -/
theorem State.linkAligned_spec {t : State} (ht : t.Canonical) (l : Nat) : LinkTurn l t (t.linkAligned s l) ∧ (t.linkAligned s l).linkState l = 2 ∧
    (t.linkAligned s l).fld (Reg.jesdStatus l) Fld.jesdStatusLat = Config.jesdLatency l (s.fld (Reg.jesdCtl l) Fld.jesdCtlRbd) % 2 ^ 24 ∧
    (t.linkAligned s l).fld (Reg.jesdErr l) Fld.jesdErrResync =
      satAdd 32 (t.fld (Reg.jesdErr l) Fld.jesdErrResync) (if s.linkState l = 1 then 1 else 0) := by
  let u := if s.linkState l = 1 then t.putFld (Reg.jesdErr l) Fld.jesdErrResync
    (satAdd Fld.jesdErrResync.width (t.fld (Reg.jesdErr l) Fld.jesdErrResync) 1) else t
  let v := u.putFld (Reg.jesdStatus l) Fld.jesdStatusLat (Config.jesdLatency l (s.fld (Reg.jesdCtl l) Fld.jesdCtlRbd) % 2 ^ 24)
  have hu : u.Canonical ∧ t.SameBut [.regs] u ∧ (∀ y, y ≠ Reg.jesdErr l → u.reg y = t.reg y) ∧ u.fld (Reg.jesdErr l) Fld.jesdErrResync =
      satAdd 32 (t.fld (Reg.jesdErr l) Fld.jesdErrResync) (if s.linkState l = 1 then 1 else 0) := by
    by_cases h : s.linkState l = 1
    · simp only [u, if_pos h]
      exact ⟨State.canonical_putFld ht _ _ _, t.sameBut_putFld _ _ _, fun y hy => (State.reg_putFld ht).trans (if_neg hy),
        State.fld_bumped ht (by decide) 1⟩
    · simp only [u, if_neg h]
      refine ⟨ht, .refl _ t, fun _ _ => trivial, ?_⟩
      have hlt : t.fld (Reg.jesdErr l) Fld.jesdErrResync < 2 ^ 32 := getBits_lt _ _ _
      unfold satAdd
      omega
  obtain ⟨hcan, hframe, hregs, herr⟩ := hu
  have hv : v.Canonical := State.canonical_putFld hcan _ _ _
  have hne := jesdStatus_ne_jesdErr l l
  refine ⟨⟨(hframe.trans ((u.sameBut_putFld _ _ _).trans (v.sameBut_putFld _ _ _))).mono (by decide), State.canonical_putFld hv _ _ _, fun y hs he => ?_⟩,
    State.fld_putFld_same hv (by decide) (by decide), ?_, ?_⟩
  · exact ((State.reg_putFld hv).trans (if_neg hs)).trans (((State.reg_putFld hcan).trans (if_neg hs)).trans (hregs y he))
  · exact (State.fld_putFld_apart hv (by decide)).trans (State.fld_putFld_same hcan (by decide) (Nat.mod_lt _ (by decide)))
  · exact ((State.fld_putFld_other hv (Ne.symm hne)).trans (State.fld_putFld_other hcan (Ne.symm hne))).trans herr

theorem jesd_ne {l m : Nat} (h : l ≠ m) : Reg.jesdStatus l ≠ Reg.jesdStatus m ∧ Reg.jesdErr l ≠ Reg.jesdErr m := by
  unfold Reg.jesdStatus Reg.jesdErr
  omega

/-- One turn of the loop over the links. -/
theorem linkTurn_leads {t : State} (ht : t.Canonical) (l : Nat) :
    (if (s.linkOn l && s.linkState l != 2) = true then alignLink s l else pure ()).Leads t fun _ u => LinkTurn l t u ∧ Aligned s t u l := by
  have hiff : (s.linkOn l && s.linkState l != 2) = true ↔ s.linkOn l = true ∧ s.linkState l ≠ 2 := by
    rw [Bool.and_eq_true, bne_iff_ne]
  unfold Aligned
  by_cases h : s.linkOn l = true ∧ s.linkState l ≠ 2
  · simp only [if_pos (hiff.mpr h), if_pos h]
    obtain ⟨⟨hframe, hcan, hregs⟩, hstate, hlat, herr⟩ := State.linkAligned_spec (s := s) ht l
    have hq := (t.linkAligned s l).afterEvent_quiet 0xB3 5 0xAC01
      (det [(1, l), (1, s.linkLanes l), (4, Config.jesdLatency l (s.fld (Reg.jesdCtl l) Fld.jesdCtlRbd) % 2 ^ 24)])
    refine (alignLink_gives s t l).leads ⟨⟨hframe.trans (hq.sameBut.mono (by decide)), (raise_gives _ _ _ _ _).canonical hcan, fun y hs he => ?_⟩, ?_, ?_, ?_⟩
    · exact (hq.reg y).trans (hregs y hs he)
    · exact (hq.fld _ _).trans hstate
    · exact (hq.fld _ _).trans hlat
    · exact (hq.fld _ _).trans herr
  · simp only [if_neg (fun hc => h (hiff.mp hc)), if_neg h]
    exact .pure ⟨⟨.refl _ t, ht, fun _ _ _ => rfl⟩, rfl, rfl⟩

/-- The links of a list are aligned, the others as they were. -/
structure LinkTurns (s : State) (l : List Nat) (t u : State) : Prop where
  frame : t.SameBut [.mem, .regs, .sys, .tally] u
  canonical : u.Canonical
  aligned : ∀ x ∈ l, Aligned s t u x
  others : ∀ x, x ∉ l → u.reg (Reg.jesdStatus x) = t.reg (Reg.jesdStatus x) ∧ u.reg (Reg.jesdErr x) = t.reg (Reg.jesdErr x)

theorem Aligned.congr {t t' u u' : State} {l : Nat} (h : Aligned s t u l) (hs : t'.reg (Reg.jesdStatus l) = t.reg (Reg.jesdStatus l))
    (he : t'.reg (Reg.jesdErr l) = t.reg (Reg.jesdErr l)) (hs' : u'.reg (Reg.jesdStatus l) = u.reg (Reg.jesdStatus l))
    (he' : u'.reg (Reg.jesdErr l) = u.reg (Reg.jesdErr l)) : Aligned s t' u' l := by
  unfold Aligned State.linkState State.fld at h ⊢
  rw [hs', he', hs, he]
  exact h

theorem linkTurns_leads {body : Nat → PUnit → M (ForInStep PUnit)} (hbody : ∀ (x : Nat) (t : State), t.Canonical →
      (body x PUnit.unit).Leads t fun r u => r = .yield PUnit.unit ∧ LinkTurn x t u ∧ Aligned s t u x) :
    ∀ (l : List Nat) {t : State}, l.Nodup → t.Canonical → (forIn l PUnit.unit body).Leads t fun _ u => LinkTurns s l t u
  | [], t, _, ht => .pure ⟨.refl _ t, ht, fun _ hx => absurd hx List.not_mem_nil, fun _ _ => ⟨rfl, rfl⟩⟩
  | l :: ls, t, hnd, ht => by
    obtain ⟨hl, hls⟩ := List.nodup_cons.mp hnd
    rw [List.forIn_cons]
    refine .bind ((hbody l t ht).mono fun r u hu => ?_)
    obtain ⟨rfl, ⟨hframe, hcan, hregs⟩, haligned⟩ := hu
    refine (linkTurns_leads hbody ls hls hcan).mono fun _ v hv => ⟨hframe.trans hv.frame, hv.canonical, fun x hx => ?_, fun x hx => ?_⟩
    · by_cases hxl : x = l
      · subst hxl
        obtain ⟨hst, herr⟩ := hv.others x hl
        exact haligned.congr rfl rfl hst herr
      · have hmem : x ∈ ls := (List.mem_cons.mp hx).resolve_left hxl
        obtain ⟨hst, herr⟩ := jesd_ne hxl
        refine (hv.aligned x hmem).congr (hregs _ hst (jesdStatus_ne_jesdErr _ _)).symm (hregs _ (Ne.symm (jesdStatus_ne_jesdErr _ _)) herr).symm rfl rfl
    · obtain ⟨hxl, hmem⟩ := not_or.mp (fun h => hx (List.mem_cons.mpr h))
      obtain ⟨hst, herr⟩ := jesd_ne hxl
      obtain ⟨hst', herr'⟩ := hv.others x hmem
      exact ⟨hst'.trans (hregs _ hst (jesdStatus_ne_jesdErr _ _)), herr'.trans (hregs _ (Ne.symm (jesdStatus_ne_jesdErr _ _)) herr)⟩

/-- The state in which a SYSREF edge is noted. -/
def State.sysrefNoted (s : State) : State := (Upd.radio fun r => { r with sysref := s.sysrefAt }).apply s

theorem sysrefEdge_leads (hs : s.Canonical) : sysrefEdge.Leads s fun _ t => LinkTurns s (List.range 8) s.sysrefNoted t := by
  unfold sysrefEdge
  refine .getS (.upd ?_)
  refine .bind ((linkTurns_leads (s := s) (t := s.sysrefNoted) (fun x t ht => ?_) (List.range 8) List.nodup_range hs).mono fun _ u hu => .pure hu)
  have hturn := M.Leads.turn (linkTurn_leads (s := s) ht x)
  unfold alignLink at hturn
  dsimp only
  split at hturn
  case isTrue h =>
    rw [if_pos h]
    split at hturn
    case isTrue h1 =>
      rw [if_pos h1]
      simpa only [bind_assoc] using hturn
    case isFalse h1 =>
      rw [if_neg h1]
      simpa only [bind_assoc] using hturn
  case isFalse h =>
    rw [if_neg h]
    exact hturn

theorem exec_sysrefEdge (hdue : s.radio.sysref < s.sysrefAt) (hfence : s.fenced 5 = false) : exec .sysrefEdge s = .next (M.run sysrefEdge s) := by
  change execSysrefEdge s = _
  exact whenEnabled_next (by rw [decide_eq_true hdue, hfence]; rfl)

/-! ## JESD_LINK_ERROR -/

/-- The state in which a link has left the data state. -/
def State.linkDropped (s : State) (l : Nat) (sync : Bool) : State :=
  (if sync then s else s.putFld (Reg.jesdErr l) Fld.jesdErrCrc (satAdd Fld.jesdErrCrc.width (s.fld (Reg.jesdErr l) Fld.jesdErrCrc) 1)).putFld
    (Reg.jesdStatus l) Fld.jesdStatusState 1

theorem exec_jesdLinkError {l : Nat} (hl : l < 8) (hon : s.linkOn l = true) (hstate : s.linkState l = 2) (sync : Bool) :
    exec (.jesdLinkError l sync) s = .next ((s.linkDropped l sync).afterEvent 0xB3 5 0xAC02 (det [(1, l), (1, if sync then 0 else 1)])) := by
  change execJesdLinkError l sync s = _
  refine whenEnabled_next (by rw [decide_eq_true hl, hon, hstate]; rfl) |>.trans (congrArg _ ?_)
  cases sync with
  | true => exact M.gives.run ((wrFld_gives _ _ _ _).bind (raise_gives _ _ _ _ _))
  | false => exact M.gives.run ((bump_gives _ _ _ _).bind ((wrFld_gives _ _ _ _).bind (raise_gives _ _ _ _ _)))

theorem State.linkDropped_spec (hs : s.Canonical) (l : Nat) (sync : Bool) : s.SameBut [.regs] (s.linkDropped l sync) ∧
    (s.linkDropped l sync).linkState l = 1 ∧ (s.linkDropped l sync).fld (Reg.jesdErr l) Fld.jesdErrCrc =
      satAdd Fld.jesdErrCrc.width (s.fld (Reg.jesdErr l) Fld.jesdErrCrc) (if sync then 0 else 1) := by
  have hne := Ne.symm (jesdStatus_ne_jesdErr l l)
  cases sync with
  | true =>
    refine ⟨s.sameBut_putFld _ _ _, State.fld_putFld_same hs (by decide) (by decide), (State.fld_putFld_other hs hne).trans ?_⟩
    have hlt : s.fld (Reg.jesdErr l) Fld.jesdErrCrc < 2 ^ 32 := getBits_lt _ _ _
    exact (Nat.min_eq_left (Nat.le_sub_one_of_lt hlt)).symm
  | false =>
    have hcan := State.canonical_putFld hs (Reg.jesdErr l) Fld.jesdErrCrc (satAdd Fld.jesdErrCrc.width (s.fld (Reg.jesdErr l) Fld.jesdErrCrc) 1)
    exact ⟨(s.sameBut_putFld _ _ _).trans (State.sameBut_putFld _ _ _ _), State.fld_putFld_same hcan (by decide) (by decide),
      (State.fld_putFld_other hcan hne).trans (State.fld_bumped hs (by decide) 1)⟩

/-! ## SYMBOL_BOUNDARY (R378, R383) -/

/-- The state in which the radio is `x`. -/
def State.withRadio (s : State) (f : Radio → Radio) : State := (Upd.radio f).apply s

theorem modRadio_gives (f : Radio → Radio) (s : State) : (modRadio f).gives s () (s.withRadio f) := fun _ => rfl

theorem State.sameBut_withRadio (s : State) (f : Radio → Radio) : s.SameBut [.radio] (s.withRadio f) := Upd.sameBut _ s

/-- The task of a stall whose descriptors are read. -/
def State.fetchedOf (s : State) (t : Option Nat) : Option Nat := t.filter fun n => ((s.task n).map (·.fetched)).getD false

/-- The state in which a carrier's received symbol `x` is noted. -/
def State.rxNoted (s : State) (c : Nat) (x : Nat × Nat) : State := s.withRadio fun r => { r with
  rxAt := tblSet r.rxAt c (s.symStamp c x.1 x.2)
  rx := r.rx.filter fun e => (s.task e.task).isSome }

theorem State.radio_rxNoted (s : State) (c : Nat) (x : Nat × Nat) : (s.rxNoted c x).radio = { s.radio with
    rxAt := tblSet s.radio.rxAt c (s.symStamp c x.1 x.2)
    rx := (s.radio.rx.filter fun e => (s.task e.task).isSome) ++ [] } := by
  rw [List.append_nil]
  rfl

/-- The streams of a symbol as they reach DFE. -/
def State.symbolInputs (s : State) (c : Nat) (x : Nat × Nat) (samples : List Byte) : List (List (Int × Int) × Bool) :=
  (List.range (s.carStreams c)).map fun a => s.linkSamples (s.carFirst c + a) ((samples.drop (a * s.inputBytes c x)).take (s.inputBytes c x))

/-- The state in which a symbol of zeros counts, where one of its streams is not in the data state. -/
def State.zerosCounted (s : State) (c : Nat) (ins : List (List (Int × Int) × Bool)) : State :=
  if ins.any (·.2) then s.putFld (Reg.dfeCnt c) Fld.dfeCntRxZero (satAdd Fld.dfeCntRxZero.width (s.fld (Reg.dfeCnt c) Fld.dfeCntRxZero) 1) else s

theorem State.zerosCounted_spec (hs : s.Canonical) (c : Nat) (ins : List (List (Int × Int) × Bool)) :
    s.SameBut [.regs] (s.zerosCounted c ins) ∧ ∀ y, y ≠ Reg.dfeCnt c → (s.zerosCounted c ins).reg y = s.reg y := by
  unfold State.zerosCounted
  split
  · exact ⟨s.sameBut_putFld _ _ _, fun y hy => (State.reg_putFld hs).trans (if_neg hy)⟩
  · exact ⟨.refl _ s, fun _ _ => rfl⟩

theorem rdSat_ne_dfeCnt (c : Nat) : Reg.rdSat 1 ≠ Reg.dfeCnt c := by
  unfold Reg.rdSat Reg.dfeCnt
  omega

section
variable {c : Nat} {x : Nat × Nat} {samples : List Byte}

theorem exec_symbolBoundary (hdue : s.rxDue c = some x) (hlen : samples.length = s.carStreams c * s.inputBytes c x) :
    exec (.symbolBoundary c samples) s = .next (M.run (symbolBoundary c samples) s) := by
  change execSymbolBoundary c samples s = _
  refine whenEnabled_next ?_
  rw [hdue]
  exact beq_iff_eq.mpr hlen

/-- The state after the running task took the symbol. -/
def State.symbolTaken (s : State) (c : Nat) (x : Nat × Nat) (samples : List Byte) (n : Nat) (p : List Byte) (i : Nat) : State :=
  let out := (s.symbolInputs c x samples).map fun v => s.downConvert c x p v.1
  let u := (s.rxNoted c x).putFld (Reg.rdSat 1) Fld.rdSatCount
    (satAdd Fld.rdSatCount.width ((s.rxNoted c x).fld (Reg.rdSat 1) Fld.rdSatCount) (out.foldl (fun m v => m + v.2) 0))
  (u.zerosCounted c (s.symbolInputs c x samples)).withRadio fun r => { r with rx := r.rx ++ [⟨n, i, s.clock.now, out.map (·.1)⟩] }

theorem run_symbolBoundary_running {n i : Nat} {k : Task} {p : List Byte} (hdue : s.rxDue c = some x)
    (hold : s.holder (s.fetchedOf (s.engine (0x200 + c)).running) c x = some (n, k, p, i)) :
    M.run (symbolBoundary c samples) s = s.symbolTaken c x samples n p i := by
  unfold symbolBoundary
  rw [run_getS_bind, hdue]
  dsimp only
  unfold State.fetchedOf at hold
  rw [hold]
  dsimp only
  refine M.gives.run ((modRadio_gives _ _).bind ((bump_gives _ _ _ _).bind ?_))
  unfold State.symbolTaken State.zerosCounted State.symbolInputs
  dsimp only
  split
  · exact (bump_gives _ _ _ _).bind (modRadio_gives _ _)
  · exact modRadio_gives _ _

theorem symbolBoundary_then_waiting {n i : Nat} {k : Task} {p : List Byte} (hdue : s.rxDue c = some x)
    (hno : s.holder (s.fetchedOf (s.engine (0x200 + c)).running) c x = none) (hold : s.holder (s.engine (0x200 + c)).next c x = some (n, k, p, i)) :
    (symbolBoundary c samples).Then s (do
      zeroSymbol n k c (x.2 % 14) 0x4C03 false
      modRadio fun r => { r with rx := r.rx ++ [⟨n, i, s.clock.now, []⟩] }) fun u => u = s.rxNoted c x := by
  unfold symbolBoundary
  refine .getS ?_
  rw [hdue]
  dsimp only
  unfold State.fetchedOf at hno
  rw [hno, hold]
  exact .upd (.here rfl)

theorem run_symbolBoundary_free (hdue : s.rxDue c = some x) (hno : s.holder (s.fetchedOf (s.engine (0x200 + c)).running) c x = none)
    (hno' : s.holder (s.engine (0x200 + c)).next c x = none) :
    M.run (symbolBoundary c samples) s = (s.rxNoted c x).zerosCounted c (s.symbolInputs c x samples) := by
  unfold symbolBoundary
  rw [run_getS_bind, hdue]
  dsimp only
  unfold State.fetchedOf at hno
  rw [hno, hno']
  dsimp only
  refine M.gives.run ((modRadio_gives _ _).bind ?_)
  unfold State.zerosCounted State.symbolInputs
  split
  · exact bump_gives _ _ _ _
  · exact pure_gives _ _

/-- What the statement says of the state after the running task took the symbol. -/
theorem State.symbolTaken_spec (hs : s.Canonical) (n : Nat) (p : List Byte) (i : Nat) :
    s.SameBut [.regs, .radio] (s.symbolTaken c x samples n p i) ∧
    (∀ y, y ≠ Reg.rdSat 1 → y ≠ Reg.dfeCnt c → (s.symbolTaken c x samples n p i).reg y = s.reg y) ∧
    (s.symbolTaken c x samples n p i).radio = { s.radio with
      rxAt := tblSet s.radio.rxAt c (s.symStamp c x.1 x.2)
      rx := (s.radio.rx.filter fun e => (s.task e.task).isSome) ++
        [(⟨n, i, s.clock.now, ((s.symbolInputs c x samples).map fun v => (s.downConvert c x p v.1).1 : List (List Nat))⟩ : SymRec)] } ∧
    (s.symbolTaken c x samples n p i).fld (Reg.rdSat 1) Fld.rdSatCount = satAdd Fld.rdSatCount.width (s.fld (Reg.rdSat 1) Fld.rdSatCount)
      (((s.symbolInputs c x samples).map fun v => s.downConvert c x p v.1).foldl (fun m v => m + v.2) 0) := by
  let out := (s.symbolInputs c x samples).map fun v => s.downConvert c x p v.1
  let a := s.rxNoted c x
  let b := a.putFld (Reg.rdSat 1) Fld.rdSatCount
    (satAdd Fld.rdSatCount.width (a.fld (Reg.rdSat 1) Fld.rdSatCount) (out.foldl (fun m v => m + v.2) 0))
  have hb : b.Canonical := State.canonical_putFld (s := a) hs _ _ _
  obtain ⟨hframe, hregs⟩ := State.zerosCounted_spec hb c (s.symbolInputs c x samples)
  have hradio : (b.zerosCounted c (s.symbolInputs c x samples)).radio = a.radio := hframe.2 .radio (by decide)
  refine ⟨?_, fun y hsat hcnt => ?_, ?_, ?_⟩
  · exact ((s.sameBut_withRadio _).mono (by decide)).trans ((((a.sameBut_putFld _ _ _).trans hframe).mono (by decide)).trans
      ((State.sameBut_withRadio _ _).mono (by decide)))
  · exact (hregs y hcnt).trans ((State.reg_putFld (s := a) hs).trans (if_neg hsat))
  · refine (congrArg (fun r : Radio => { r with rx := r.rx ++ [(⟨n, i, s.clock.now, out.map fun v : List Nat × Nat => v.1⟩ : SymRec)] }) hradio).trans ?_
    rw [List.map_map]
    rfl
  · have hfld : (b.zerosCounted c (s.symbolInputs c x samples)).fld (Reg.rdSat 1) Fld.rdSatCount = b.fld (Reg.rdSat 1) Fld.rdSatCount := by
      rw [State.fld, hregs _ (rdSat_ne_dfeCnt c), State.fld]
    exact hfld.trans (State.fld_bumped (s := a) hs (by decide) _)

end

/-! ## SYMBOL_LAUNCH (R378, R379, R385) -/

/-- SiteTime is synchronized, so that transmission runs (R379). -/
def State.transmits (s : State) : Prop := s.fld Reg.timeStatus Fld.timeStatusState = 2 ∨ s.fld Reg.timeStatus Fld.timeStatusState = 3

theorem heldForTime_gives_false (h : s.transmits) : heldForTime.gives s false s := by
  unfold State.transmits at h
  exact .getS_bind (.ite_pos h _ (pure_gives _ _))

theorem heldForTime_gives_true (h : ¬ s.transmits) (hheld : s.radio.held = true) : heldForTime.gives s true s := by
  unfold State.transmits at h
  exact .getS_bind (.ite_neg h _ (.ite_neg (by rw [hheld]; decide) _ (pure_gives _ _)))

/-- The state in which a carrier's launched symbol `x` is noted. -/
def State.txNoted (s : State) (c : Nat) (x : Nat × Nat) : State := s.withRadio fun r => { r with
  txAt := tblSet r.txAt c (s.symStamp c x.1 x.2)
  launched := r.launched.filter fun e => (s.task e.task).isSome }

/-- The state in which what became of a symbol at its launch is noted. -/
def State.launchNoted (s : State) (n i now : Nat) (d : List (List Nat)) : State :=
  s.withRadio fun r => { r with launched := r.launched ++ [⟨n, i, now, d⟩] }

/-- What the statement says of the state from which the samples are launched. -/
def State.Launched (s : State) (c : Nat) (x : Nat × Nat) (more : List SymRec) (u : State) : Prop :=
  s.SameBut [.regs, .radio] u ∧ u.radio = { s.radio with
    txAt := tblSet s.radio.txAt c (s.symStamp c x.1 x.2)
    launched := (s.radio.launched.filter fun e => (s.task e.task).isSome) ++ more }

/-- Zeros in place of a symbol. -/
def State.zeroSym (s : State) (c : Nat) (x : Nat × Nat) : TxSym :=
  ⟨x.1 / 1000 * s.carRate c + s.symSamples c x.1 x.2 / max 1 (s.carStep c),
    List.replicate (s.carStreams c) (List.replicate (s.symLen c x) (0, 0)), List.replicate 24 0, 0⟩

/-- The samples of symbol `i` of the task, ready for the channel filter, and the saturations. -/
def State.launchInputs (s : State) (c : Nat) (x : Nat × Nat) (k : Task) (p : List Byte) (i : Nat) : List (List (Int × Int) × Nat) :=
  (List.range (s.carStreams c)).map fun a =>
    let r := rotate (s.phaseOf c x.2) (s.txInput k (s.symLen c x) a i)
    let y := applyGain (leAt p 8 2) r.1
    (y.1, r.2 + y.2)

/-- The band of symbol `i` was filled in time for its launch. -/
def State.bandInTime (s : State) (c : Nat) (x : Nat × Nat) (k : Task) (i : Nat) : Prop :=
  ∃ b, s.bandStamp k i = some b ∧ b + usUnits 2 ≤ s.symStamp c x.1 x.2 - s.txLead c

section
variable {c : Nat} {x : Nat × Nat}

theorem exec_symbolLaunch (hdue : s.txDue c = some x) : exec (.symbolLaunch c) s = .next (M.run (symbolLaunch c) s) := by
  change execSymbolLaunch c s = _
  exact whenEnabled_next (by rw [hdue]; rfl)

theorem State.Launched.putFld {u : State} {more : List SymRec} (h : s.Launched c x more u) (off : Nat) (f : Field) (v : Nat) :
    s.Launched c x more (u.putFld off f v) :=
  ⟨h.1.trans ((u.sameBut_putFld off f v).mono (by decide)), h.2⟩

theorem State.Launched.noted {u : State} (h : s.Launched c x [] u) (n i now : Nat) (d : List (List Nat)) :
    s.Launched c x [⟨n, i, now, d⟩] (u.launchNoted n i now d) := by
  refine ⟨h.1.trans ((u.sameBut_withRadio _).mono (by decide)), ?_⟩
  refine (congrArg (fun r : Radio => { r with launched := r.launched ++ [(⟨n, i, now, d⟩ : SymRec)] }) h.2).trans ?_
  rw [List.append_nil]

theorem State.launched_txNoted (s : State) (c : Nat) (x : Nat × Nat) : s.Launched c x [] (s.txNoted c x) :=
  ⟨(s.sameBut_withRadio _).mono (by decide), by rw [List.append_nil]; rfl⟩

section
variable {n i : Nat} {k : Task} {p : List Byte}

theorem symbolLaunch_then_inTime (hdue : s.txDue c = some x) (hold : s.holder (s.fetchedOf (s.engine (0x210 + c)).running) c x = some (n, k, p, i))
    (hruns : s.transmits) (htime : s.bandInTime c x k i) : (symbolLaunch c).Then s
      (launchSamples c ⟨(s.zeroSym c x).start, (s.launchInputs c x k p i).map (·.1), dfeTaps p, leAt p 10 2⟩)
      (s.Launched c x [⟨n, i, s.clock.now, [[1]]⟩]) := by
  have hheld : heldForTime.gives (s.txNoted c x) false (s.txNoted c x) := heldForTime_gives_false hruns
  unfold symbolLaunch
  refine .getS ?_
  rw [hdue]
  dsimp only
  unfold State.fetchedOf at hold
  rw [hold]
  dsimp only
  refine .upd ((hheld.leads (P := fun b t => b = false ∧ t = s.txNoted c x) ⟨rfl, rfl⟩).andThen fun b t ht => ?_)
  obtain ⟨rfl, rfl⟩ := ht
  obtain ⟨b, hb, hle⟩ := htime
  rw [if_neg (by decide), hb]
  dsimp only
  rw [if_pos (decide_eq_true hle)]
  refine ((bump_gives _ _ _ _).leads (P := fun _ t => t = _) rfl).andThen fun _ t ht => ?_
  subst ht
  refine .upd ⟨_, ((s.launched_txNoted c x).putFld _ _ _).noted n i s.clock.now [[1]], rfl⟩

theorem symbolLaunch_then_late (hdue : s.txDue c = some x) (hold : s.holder (s.fetchedOf (s.engine (0x210 + c)).running) c x = some (n, k, p, i))
    (hruns : s.transmits) (htime : ¬ s.bandInTime c x k i) : (symbolLaunch c).Then s (do
      zeroSymbol n k c (x.2 % 14) 0x4C04 true
      modRadio fun r => { r with launched := r.launched ++ [⟨n, i, s.clock.now, []⟩] }
      launchSamples c (s.zeroSym c x)) (s.Launched c x []) := by
  have hheld : heldForTime.gives (s.txNoted c x) false (s.txNoted c x) := heldForTime_gives_false hruns
  unfold symbolLaunch
  refine .getS ?_
  rw [hdue]
  dsimp only
  unfold State.fetchedOf at hold
  rw [hold]
  dsimp only
  refine .upd ((hheld.leads (P := fun b t => b = false ∧ t = s.txNoted c x) ⟨rfl, rfl⟩).andThen fun b t ht => ?_)
  obtain ⟨rfl, rfl⟩ := ht
  rw [if_neg (by decide)]
  cases hb : s.bandStamp k i with
  | none => exact ⟨_, s.launched_txNoted c x, rfl⟩
  | some b =>
    dsimp only
    rw [if_neg (fun h => htime ⟨b, hb, of_decide_eq_true h⟩)]
    exact ⟨_, s.launched_txNoted c x, rfl⟩

theorem symbolLaunch_then_held (hs : s.Canonical) (hdue : s.txDue c = some x)
    (hold : s.holder (s.fetchedOf (s.engine (0x210 + c)).running) c x = some (n, k, p, i))
    (hruns : ¬ s.transmits) (hheld : s.radio.held = true) : (symbolLaunch c).Then s (launchSamples c (s.zeroSym c x)) fun u =>
      s.Launched c x [⟨n, i, s.clock.now, []⟩] u ∧ Counted s (Reg.dfeCnt c) Fld.dfeCntTxZero u := by
  have hheld : heldForTime.gives (s.txNoted c x) true (s.txNoted c x) := heldForTime_gives_true hruns hheld
  unfold symbolLaunch
  refine .getS ?_
  rw [hdue]
  dsimp only
  unfold State.fetchedOf at hold
  rw [hold]
  dsimp only
  refine .upd ((hheld.leads (P := fun b t => b = true ∧ t = s.txNoted c x) ⟨rfl, rfl⟩).andThen fun b t ht => ?_)
  obtain ⟨rfl, rfl⟩ := ht
  rw [if_pos rfl]
  refine ((bump_gives _ _ _ _).leads (P := fun _ t => t = _) rfl).andThen fun _ t ht => ?_
  subst ht
  refine .upd ⟨_, ⟨((s.launched_txNoted c x).putFld _ _ _).noted n i s.clock.now [], ?_⟩, rfl⟩
  exact State.oneField_putFld (s := s.txNoted c x) hs _ _ _

theorem symbolLaunch_then_waiting (hdue : s.txDue c = some x) (hno : s.holder (s.fetchedOf (s.engine (0x210 + c)).running) c x = none)
    (hold : s.holder (s.engine (0x210 + c)).next c x = some (n, k, p, i)) (hruns : s.transmits) : (symbolLaunch c).Then s (do
      zeroSymbol n k c (x.2 % 14) 0x4C03 true
      modRadio fun r => { r with launched := r.launched ++ [⟨n, i, s.clock.now, []⟩] }
      launchSamples c (s.zeroSym c x)) (s.Launched c x []) := by
  have hheld : heldForTime.gives (s.txNoted c x) false (s.txNoted c x) := heldForTime_gives_false hruns
  unfold symbolLaunch
  refine .getS ?_
  rw [hdue]
  dsimp only
  unfold State.fetchedOf at hno
  rw [hno, hold]
  dsimp only
  refine .upd ((hheld.leads (P := fun b t => b = false ∧ t = s.txNoted c x) ⟨rfl, rfl⟩).andThen fun b t ht => ?_)
  obtain ⟨rfl, rfl⟩ := ht
  rw [if_neg (by decide)]
  exact ⟨_, s.launched_txNoted c x, rfl⟩

theorem symbolLaunch_then_free (hdue : s.txDue c = some x) (hno : s.holder (s.fetchedOf (s.engine (0x210 + c)).running) c x = none)
    (hno' : s.holder (s.engine (0x210 + c)).next c x = none) :
    (symbolLaunch c).Then s (launchSamples c (s.zeroSym c x)) (s.Launched c x []) := by
  unfold symbolLaunch
  refine .getS ?_
  rw [hdue]
  dsimp only
  unfold State.fetchedOf at hno
  rw [hno, hno']
  exact .upd ⟨_, s.launched_txNoted c x, rfl⟩

end

end

/-! ## Fronthaul windows (R399, R401) -/

section
variable {peer n i : Nat} {k : Task}

theorem State.fhTask_eq_none {op op' : Nat} (h : s.fhTask op peer = some (n, k)) (hop : op' ≠ op) (peer' : Nat) : s.fhTask op' peer' = none := by
  unfold State.fhTask at h ⊢
  cases hr : (s.engine 0x35).running with
  | none => rfl
  | some t =>
    simp only [hr] at h ⊢
    cases ht : s.task t with
    | none => rfl
    | some y =>
      simp only [ht] at h ⊢
      rw [if_neg]
      intro hc
      split at h
      case isTrue ho => exact hop (hc.1.symm.trans ho.1)
      case isFalse => cases h

theorem State.fhClosing_eq_nil {op : Nat} (h : s.fhTask op peer = none) : s.fhClosing peer op = [] := by
  rw [State.fhClosing, h]

theorem exec_fhWindowOpen (hp : peer < 16) (hsend : s.fhSendable peer ≠ []) : exec (.fhWindowOpen peer) s = .next (M.run (fhWindowOpen peer) s) := by
  change execFhWindowOpen peer s = _
  exact whenEnabled_next (by simp [hp, hsend])

/-- The state in which a fronthaul message counts as sent. -/
def State.fhNoted (s : State) (n i now : Nat) (d : List (List Nat)) : State :=
  s.withRadio fun r => { r with fhSent := r.fhSent ++ [⟨n, i, now, d⟩] }

theorem run_fhWindowOpen {u : State} (htask : s.fhTask 0x609 peer = some (n, k)) (hsend : s.fhSendable peer = [i]) (hruns : s.transmits)
    (hu : M.gives (if i = 1000 then
        fhSend k.params 2 (cMessage k.params (s.radioTime (fhSpan k.params).car (s.taskSym k (fhSpan k.params) 0)) (fhSpan k.params).count)
      else fhSendSymbol k i) s () u) : M.run (fhWindowOpen peer) s = u.fhNoted n i s.clock.now [[1]] := by
  unfold fhWindowOpen
  rw [run_getS_bind, htask]
  dsimp only
  rw [hsend]
  simp only [List.forIn_cons, List.forIn_nil, bind_assoc]
  rw [(heldForTime_gives_false hruns).run_bind]
  by_cases hi : i = 1000
  · rw [if_pos hi] at hu
    rw [if_pos hi, if_pos (by decide)]
    rw [bind_assoc, hu.run_bind]
    rfl
  · rw [if_neg hi] at hu
    rw [if_neg hi, if_neg (by decide)]
    rw [bind_assoc, hu.run_bind]
    rfl

theorem exec_fhWindowClose (hp : peer < 16) (h : s.fhClosing peer 0x609 ≠ [] ∨ s.fhClosing peer 0x60A ≠ []) :
    exec (.fhWindowClose peer) s = .next (M.run (fhWindowClose peer) s) := by
  change execFhWindowClose peer s = _
  refine whenEnabled_next ?_
  obtain h | h := h <;> simp [hp, h]

theorem fhWindowClose_then (htask : s.fhTask 0x609 peer = some (n, k)) (hclose : s.fhClosing peer 0x609 = [i]) : (fhWindowClose peer).Then s (do
      settleAll (← raiseFor n 0x35 5 0x4C06 (taskDetail [(1, peer), (1, (fhSpan k.params).l0 + i), (2, fhEaxc k.params)] k 0xFF)))
    fun u => u = (s.putFld (Reg.fheCntB peer) Fld.fheCntBTxMissed
      (satAdd Fld.fheCntBTxMissed.width (s.fld (Reg.fheCntB peer) Fld.fheCntBTxMissed) 1)).fhNoted n i s.clock.now [] := by
  unfold fhWindowClose
  refine .getS ?_
  rw [hclose, htask, State.fhClosing_eq_nil (State.fhTask_eq_none htask (by decide) peer)]
  simp only [List.forIn_cons, List.forIn_nil, bind_assoc]
  refine ((bump_gives _ _ _ _).leads (P := fun _ t => t = _) rfl).andThen fun _ t ht => .upd ?_
  subst ht
  exact .here rfl

theorem forIn_close_gives (n now : Nat) : ∀ (l : List Nat) (s : State), (forIn l PUnit.unit fun i (_ : PUnit) => do
      modRadio fun r => { r with fhClosed := r.fhClosed ++ [(⟨n, i, now, [[1]]⟩ : SymRec)] }
      pure (ForInStep.yield PUnit.unit)).gives s () (s.withRadio fun r => { r with
        fhClosed := r.fhClosed ++ l.map fun i => (⟨n, i, now, [[1]]⟩ : SymRec) })
  | [], s => by
    have h : (s.withRadio fun r => { r with fhClosed := r.fhClosed ++ ([] : List Nat).map fun i => (⟨n, i, now, [[1]]⟩ : SymRec) }) = s := by
      unfold State.withRadio Upd.apply
      simp only [List.map_nil, List.append_nil]
    rw [h]
    exact pure_gives _ _
  | i :: l, s => by
    rw [List.forIn_cons]
    have hsame : (s.withRadio fun r => { r with fhClosed := r.fhClosed ++ (i :: l).map fun i => (⟨n, i, now, [[1]]⟩ : SymRec) }) =
        (s.withRadio fun r => { r with fhClosed := r.fhClosed ++ [(⟨n, i, now, [[1]]⟩ : SymRec)] }).withRadio fun r => { r with
          fhClosed := r.fhClosed ++ l.map fun i => (⟨n, i, now, [[1]]⟩ : SymRec) } := by
      unfold State.withRadio Upd.apply
      simp only [List.append_assoc, List.singleton_append, List.map_cons]
    rw [hsame]
    exact ((modRadio_gives _ s).bind (pure_gives _ _)).bind (forIn_close_gives n now l _)

theorem run_fhWindowClose_receive (htask : s.fhTask 0x60A peer = some (n, k)) : M.run (fhWindowClose peer) s = s.withRadio fun r => { r with
    fhClosed := r.fhClosed ++ (s.fhClosing peer 0x60A).map fun i => (⟨n, i, s.clock.now, [[1]]⟩ : SymRec) } := by
  unfold fhWindowClose
  rw [run_getS_bind, htask, State.fhClosing_eq_nil (State.fhTask_eq_none htask (by decide) peer)]
  exact M.gives.run ((pure_gives _ _).bind ((forIn_close_gives n s.clock.now _ s).bind (pure_gives _ _)))

end

/-- Settles O60: links align, symbols and messages are noted, and the rest is done from the noted state. -/
theorem radioLinksAlignAndSymbolsPassInTime : Obligations.RadioLinksAlignAndSymbolsPassInTime := by
  unfold Obligations.RadioLinksAlignAndSymbolsPassInTime
  intro s hs now fetched
  refine ⟨fun hdue hfence => ?_, fun h => ?_, fun l sync => ⟨fun hl hon hstate => ?_, fun h => ?_⟩,
    fun c x samples hdue hlen => ⟨fun n k p i hold => ?_, fun n k p i hno hold => ?_, fun hno hno' => ?_⟩, fun c samples h => ?_,
    fun c x hdue => ⟨fun n k p i hold => ⟨fun hruns htime => ?_, fun hruns htime => ?_, fun hruns hheld => ?_⟩, fun n k p i hno hold hruns => ?_,
      fun hno hno' => ?_⟩, fun c h => ?_, fun peer h => ?_, fun peer n k i u hp htask hsend hruns hu => ?_, fun peer h => ?_,
    fun peer n k i hp htask hclose => ?_, fun peer n k hp htask hclose => ?_⟩
  · obtain ⟨t, hrun, ht⟩ : ∃ t, M.run sysrefEdge s = t ∧ LinkTurns s (List.range 8) s.sysrefNoted t := ⟨_, rfl, (sysrefEdge_leads hs).run⟩
    refine ⟨t, (exec_sysrefEdge hdue hfence).trans (congrArg _ hrun), ?_, ht.frame.2 .radio (by decide), fun l hl => ht.aligned l (List.mem_range.mpr hl)⟩
    exact ((s.sameBut_withRadio _).mono (by decide)).trans (ht.frame.mono (by decide))
  · change execSysrefEdge s = _
    refine whenEnabled_refused ?_
    obtain h | h := h
    · rw [decide_eq_false (Nat.not_lt.mpr h), Bool.false_and]
    · rw [h, Bool.not_true, Bool.and_false]
  · obtain ⟨hframe, hst, hcrc⟩ := State.linkDropped_spec hs l sync
    exact ⟨_, hframe, hst, hcrc, exec_jesdLinkError hl hon hstate sync⟩
  · change execJesdLinkError l sync s = _
    refine whenEnabled_refused ?_
    obtain h | h | h := h
    · rw [decide_eq_false (Nat.not_lt.mpr h), Bool.false_and, Bool.false_and]
    · rw [h, Bool.and_false, Bool.false_and]
    · rw [beq_false_of_ne h, Bool.and_false]
  · obtain ⟨hframe, hregs, hradio, hsat⟩ := State.symbolTaken_spec (c := c) (x := x) (samples := samples) hs n p i
    exact ⟨_, (exec_symbolBoundary hdue hlen).trans (congrArg _ (run_symbolBoundary_running hdue hold)), hframe, hregs, hradio, hsat⟩
  · refine completesThen_of_then (exec_symbolBoundary hdue hlen) ?_
    obtain ⟨u, rfl, hrun⟩ := symbolBoundary_then_waiting (samples := samples) hdue hno hold
    exact ⟨_, ⟨s.sameBut_withRadio _, s.radio_rxNoted c x⟩, hrun⟩
  · obtain ⟨hframe, hregs⟩ := State.zerosCounted_spec (s := s.rxNoted c x) hs c (s.symbolInputs c x samples)
    refine ⟨_, (exec_symbolBoundary hdue hlen).trans (congrArg _ (run_symbolBoundary_free hdue hno hno')),
      ((s.sameBut_withRadio _).mono (by decide)).trans (hframe.mono (by decide)), fun y _ hy => hregs y hy, ?_⟩
    exact (hframe.2 .radio (by decide)).trans (s.radio_rxNoted c x)
  · change execSymbolBoundary c samples s = _
    refine whenEnabled_refused ?_
    cases hdue : s.rxDue c with
    | none => rfl
    | some x => exact beq_false_of_ne (h x hdue)
  · have hins : (s.launchInputs c x k p i).map (·.1) =
        ((List.range (s.carStreams c)).map fun a => applyGain (leAt p 8 2) (rotate (s.phaseOf c x.2) (s.txInput k (s.symLen c x) a i)).1).map (·.1) := by
      unfold State.launchInputs
      rw [List.map_map, List.map_map]
      rfl
    have hthen := symbolLaunch_then_inTime hdue hold hruns htime
    rw [hins] at hthen
    exact completesThen_of_then (exec_symbolLaunch hdue) hthen
  · exact completesThen_of_then (exec_symbolLaunch hdue) (symbolLaunch_then_late hdue hold hruns htime)
  · exact completesThen_of_then (exec_symbolLaunch hdue) (symbolLaunch_then_held hs hdue hold hruns hheld)
  · exact completesThen_of_then (exec_symbolLaunch hdue) (symbolLaunch_then_waiting hdue hno hold hruns)
  · exact completesThen_of_then (exec_symbolLaunch hdue) (symbolLaunch_then_free hdue hno hno')
  · change execSymbolLaunch c s = _
    exact whenEnabled_refused (by rw [h]; rfl)
  · change execFhWindowOpen peer s = _
    refine whenEnabled_refused ?_
    obtain h | h := h
    · rw [decide_eq_false (Nat.not_lt.mpr h), Bool.false_and]
    · rw [h, Bool.and_comm]
      rfl
  · have hexec := (exec_fhWindowOpen hp (by rw [hsend]; exact List.cons_ne_nil _ _)).trans (congrArg _ (run_fhWindowOpen htask hsend hruns hu))
    exact ⟨_, hexec, (exec_reach hexec).sameBut _ (reachOf_parts _), u.sameBut_withRadio _, rfl⟩
  · change execFhWindowClose peer s = _
    refine whenEnabled_refused ?_
    obtain h | ⟨h, h'⟩ := h
    · rw [decide_eq_false (Nat.not_lt.mpr h), Bool.false_and]
    · rw [h, h', Bool.and_comm]
      rfl
  · refine completesThen_of_then (exec_fhWindowClose hp (.inl (by rw [hclose]; exact List.cons_ne_nil _ _))) ?_
    obtain ⟨u, rfl, hrun⟩ := fhWindowClose_then htask hclose
    refine ⟨_, ⟨?_, ?_, ?_⟩, hrun⟩
    rotate_left
    · exact State.oneField_putFld hs _ _ _
    · rfl
    exact ((s.sameBut_putFld _ _ _).mono (by decide)).trans ((State.sameBut_withRadio _ _).mono (by decide))
  · exact ⟨_, (exec_fhWindowClose hp (.inr hclose)).trans (congrArg _ (run_fhWindowClose_receive htask)), s.sameBut_withRadio _, rfl⟩

end

end Sys2Proof.Machine
end

section
/-! PROOFS. Ethernet ports receive, send and discover; the PCIe link and its MSIs: O59 (R411–R415, R425, R428). -/

namespace Sys2Proof.Machine

open Sys2Proof

/-! ## Bytes in network order -/

theorem leNat_leBytes (k n : Nat) : leNat (leBytes k n) = n % 256 ^ k := by
  induction k generalizing n with
  | zero => simp [leBytes, leNat, Nat.mod_one]
  | succ k ih =>
    rw [leBytes, leNat, ih, BitVec.toNat_ofNat]
    exact Eq.symm (by rw [pow_succ', Nat.mod_mul])

@[simp] theorem length_beBytes (k n : Nat) : (beBytes k n).length = k := by rw [beBytes, List.length_reverse, length_leBytes]

/-- A number stands in the bytes where its encoding stands. -/
theorem beAt_append_beBytes (a b : List Byte) (k n : Nat) : beAt (a ++ (beBytes k n ++ b)) a.length k = n % 256 ^ k := by
  unfold beAt
  rw [List.drop_left, List.take_left' (length_beBytes k n), beBytes, List.reverse_reverse, leNat_leBytes]

theorem padTo_of_le {n : Nat} {l : List Byte} (h : l.length ≤ n) : padTo n l = l ++ zeros (n - l.length) := by
  unfold padTo
  rw [List.take_append, List.take_of_length_le h, zeros, List.take_replicate, zeros]
  congr 2
  omega

section
variable {s : State} {n : Nat}

/-! ## Ports -/

/-- The state with port `n` replaced. -/
def State.withEth (s : State) (n : Nat) (v : EthPort) : State := (Upd.eth fun t => tblSet t n v).apply s

theorem modEth_gives (n : Nat) (f : EthPort → EthPort) (s : State) : (modEth n f).gives s () (s.withEth n (f (s.ethPort n))) := fun _ => rfl

theorem State.sameBut_withEth (s : State) (n : Nat) (v : EthPort) : s.SameBut [.eth] (s.withEth n v) := Upd.sameBut _ s

theorem State.ethPort_withEth_same (s : State) (n : Nat) (v : EthPort) : (s.withEth n v).ethPort n = v := tblGet_tblSet_same _ _ _ _

theorem State.ethPort_withEth (s : State) (v : EthPort) {n x : Nat} (h : x ≠ n) : (s.withEth n v).ethPort x = s.ethPort x := tblGet_tblSet _ _ _ h

/-- The state with one register written. -/
def State.putReg (s : State) (off : Nat) (v : Word) : State := (Upd.reg off v).apply s

theorem wrReg_gives (off : Nat) (v : Word) (s : State) : (wrReg off v).gives s () (s.putReg off v) := fun _ => rfl

theorem State.sameBut_putReg (s : State) (off : Nat) (v : Word) : s.SameBut [.regs] (s.putReg off v) := Upd.sameBut _ s

theorem State.oneReg_putReg (hs : s.Canonical) (off : Nat) (v : Word) : s.OneReg off v (s.putReg off v) := reg_apply hs off v

/-! ## Links (R425) -/

/-- The event of a link that came up or went down. -/
def State.linkEvent (u : State) (n code : Nat) : State :=
  u.afterEvent (0xA8 + n) 6 code (det [(1, n), (1, u.portLanes n), (2, u.portRate n / 1000)])

theorem exec_ethLinkUp (h : (s.portOn n && !s.linkUp n) = true) :
    exec (.ethLinkUp n) s = .next ((s.putReg (Reg.ethStatus n) 3#64).linkEvent n 0xAD01) := by
  change execEthLinkUp n s = _
  exact whenEnabled_next h |>.trans (congrArg _ (M.gives.run ((wrReg_gives _ _ _).bind (.getS_bind (raise_gives _ _ _ _ _)))))

theorem exec_ethLinkDown (h : s.linkUp n = true) :
    exec (.ethLinkDown n) s = .next ((s.putReg (Reg.ethStatus n) 0#64).linkEvent n 0xAD02) := by
  change execEthLinkDown n s = _
  exact whenEnabled_next h |>.trans (congrArg _ (M.gives.run ((wrReg_gives _ _ _).bind (.getS_bind (raise_gives _ _ _ _ _)))))

theorem exec_ethLinkUp_refused (h : (s.portOn n && !s.linkUp n) = false) : TurnedAway (.ethLinkUp n) s := by
  change execEthLinkUp n s = _
  exact whenEnabled_refused h

theorem exec_ethLinkDown_refused (h : s.linkUp n = false) : TurnedAway (.ethLinkDown n) s := by
  change execEthLinkDown n s = _
  exact whenEnabled_refused h

/-! ## Received frames (R412–R415) -/

theorem exec_ethFrameReceive {f : List Byte} (hup : s.linkUp n = true) (hlen : 14 ≤ f.length) :
    exec (.ethFrameReceive n f) s = .next (M.run (ethReceive n f) s) := by
  change execEthFrameReceive n f s = _
  exact whenEnabled_next (by rw [hup, decide_eq_true hlen]; rfl)

/-- The state in which port `n` counts a frame in a field of its counter register. -/
def State.ethCounted (s : State) (n : Nat) (fd : Field) : State := s.putFld (Reg.ethCnt n) fd (satAdd fd.width (s.fld (Reg.ethCnt n) fd) 1)

section
variable {f body : List Byte} {tagged : Bool} {pcp ty : Nat} (hparse : etherParse f = (tagged, pcp, ty, body))
include hparse

theorem run_ethReceive_long (hlen : s.fld (Reg.ethCtl n) Fld.ethCtlMaxFrame < f.length) : M.run (ethReceive n f) s = s := by
  unfold ethReceive
  rw [run_getS_bind, hparse]
  dsimp only
  rw [if_pos hlen]
  rfl

theorem run_ethReceive_pause (hlen : f.length ≤ s.fld (Reg.ethCtl n) Fld.ethCtlMaxFrame) (hty : ty = 0x8808) :
    M.run (ethReceive n f) s = s.ethCounted n Fld.ethCntPauseRx := by
  unfold ethReceive
  rw [run_getS_bind, hparse]
  dsimp only
  rw [if_neg (Nat.not_lt.mpr hlen), if_pos hty]
  exact (bump_gives _ _ _ _).run

theorem run_ethReceive_ptp (hlen : f.length ≤ s.fld (Reg.ethCtl n) Fld.ethCtlMaxFrame) (hty : ty = 0x88F7) :
    M.run (ethReceive n f) s = { s with out := some ⟨true, leBytes 8 s.clock.now ++ f⟩ } := by
  unfold ethReceive
  rw [run_getS_bind, hparse]
  dsimp only
  rw [if_neg (Nat.not_lt.mpr hlen), if_neg (by omega), if_pos (.inl hty)]
  exact run_answer _ _ _

theorem run_ethReceive_lldp (hlen : f.length ≤ s.fld (Reg.ethCtl n) Fld.ethCtlMaxFrame) (hty : ty = 0x88CC) (hudp : udpParse ty body = none) :
    M.run (ethReceive n f) s = M.run (lldpReceive n body) s := by
  unfold ethReceive
  rw [run_getS_bind, hparse]
  dsimp only
  rw [hudp, if_neg (Nat.not_lt.mpr hlen), if_neg (by omega), if_neg (by simp [hty]), if_pos hty]

theorem run_ethReceive_roce {dst b : List Byte} (hlen : f.length ≤ s.fld (Reg.ethCtl n) Fld.ethCtlMaxFrame) (hty : ty = 0x0800 ∨ ty = 0x86DD)
    (hudp : udpParse ty body = some (4791, dst, b)) (hmine : s.ipMine n dst = true) :
    M.run (ethReceive n f) s = M.run (roceReceive b (ipCe ty body)) s := by
  unfold ethReceive
  rw [run_getS_bind, hparse]
  dsimp only
  rw [hudp, if_neg (Nat.not_lt.mpr hlen), if_neg (by omega), if_neg (by simp; omega), if_neg (by omega), if_neg (by omega)]
  exact congrArg (M.run · s) (if_pos hmine)

theorem run_ethReceive_fh {peer : Nat} (hlen : f.length ≤ s.fld (Reg.ethCtl n) Fld.ethCtlMaxFrame) (hty : ty = 0xAEFE)
    (hudp : udpParse ty body = none) (hpeer : s.fhePeerOf (beAt f 6 6) = some peer) :
    M.run (ethReceive n f) s = M.run (fhReceive peer s.clock.now body) s := by
  unfold ethReceive
  rw [run_getS_bind, hparse]
  dsimp only
  rw [hudp, if_neg (Nat.not_lt.mpr hlen), if_neg (by omega), if_neg (by simp [hty]), if_neg (by omega), if_pos hty, hpeer]

theorem run_ethReceive_packet (hlen : f.length ≤ s.fld (Reg.ethCtl n) Fld.ethCtlMaxFrame) (hty : ty ∉ [0x8808, 0x88F7, 0x88CC, 0xAEFE])
    (hudp : udpParse ty body = none) : M.run (ethReceive n f) s = M.run (rxPacket n f tagged pcp) s := by
  simp only [List.mem_cons, List.not_mem_nil, or_false, not_or] at hty
  obtain ⟨h1, h2, h3, h4⟩ := hty
  unfold ethReceive
  rw [run_getS_bind, hparse]
  dsimp only
  rw [hudp, if_neg (Nat.not_lt.mpr hlen), if_neg h1, if_neg (by simp [h2]), if_neg h3, if_neg h4]

end

/-- The state in which port `n` knows a neighbour. -/
def State.neighbourKept (s : State) (n : Nat) (x body ttl : List Byte) : State :=
  s.withEth n { s.ethPort n with neigh := some (padTo 6 (x.drop 1), body, beAt ttl 0 2, s.clock.now) }

theorem run_lldpReceive {x ttl body : List Byte} (hx : lldpTlv 1 64 body = some x) (httl : lldpTlv 3 64 body = some ttl) :
    ((∃ a b d, (s.ethPort n).neigh = some (a, body, b, d)) → M.run (lldpReceive n body) s = s.neighbourKept n x body ttl) ∧
    ((s.ethPort n).neigh = none → M.run (lldpReceive n body) s = (s.neighbourKept n x body ttl).afterEvent 0x81 6 0xAD03
      (det ([(1, n), (3, 0)] ++ (padTo 6 (x.drop 1)).map fun y => (1, y.toNat)))) := by
  unfold lldpReceive
  rw [run_getS_bind, hx, httl]
  dsimp only
  constructor
  · rintro ⟨a, b, d, hn⟩
    rw [hn]
    dsimp only
    rw [if_neg (by simp)]
    exact M.gives.run ((modEth_gives _ _ _).bind (pure_gives _ _))
  · intro hn
    rw [hn]
    dsimp only
    rw [if_pos (by rfl)]
    exact M.gives.run ((modEth_gives _ _ _).bind (raise_gives _ _ _ _ _))

/-! ## A frame for the port's queue (R413) -/

theorem M.All.steps_of_gives {α : Type} {m : M α} {R : Upd → Prop} {a : α} {t : State} (hm : M.All R m) (h : m.gives s a t) : Steps R s t := by
  obtain ⟨b, u, hsteps, hk⟩ := hm s
  exact (h.unique hk).2 ▸ hsteps

section
variable {f : List Byte} {tagged : Bool} {pcp : Nat}

theorem run_rxPacket_unset (hq : s.fld (Reg.ethRxq n pcp) Fld.ethRxqQueue = 0) : M.run (rxPacket n f tagged pcp) s = s := by
  unfold rxPacket
  rw [run_getS_bind]
  dsimp only
  rw [if_pos hq]
  rfl

theorem run_rxPacket_dropped (hq : s.fld (Reg.ethRxq n pcp) Fld.ethRxqQueue ≠ 0)
    (hroom : s.fld (Reg.ethRxbuf n) Fld.ethRxbufCountM1 + 1 ≤ (s.ethPort n).used ∨ s.inBuffer (s.fld (Reg.ethCtx n) Fld.ethCtxHandle)
      (s.fld (Reg.ethRxbuf n) Fld.ethRxbufBase * 64) (10240 * (s.fld (Reg.ethRxbuf n) Fld.ethRxbufCountM1 + 1)) = false) :
    M.run (rxPacket n f tagged pcp) s = s.ethCounted n Fld.ethCntRxDrop := by
  unfold rxPacket
  rw [run_getS_bind]
  dsimp only
  rw [if_neg hq, if_pos (hroom.imp id fun h => by rw [h]; rfl)]
  exact (bump_gives _ _ _ _).run

theorem rxPacket_then {u v : State} {ws : List Work} {x y : Queue} {q count base h : Nat} (hq : q = s.fld (Reg.ethRxq n pcp) Fld.ethRxqQueue)
    (hcount : count = s.fld (Reg.ethRxbuf n) Fld.ethRxbufCountM1 + 1) (hbase : base = s.fld (Reg.ethRxbuf n) Fld.ethRxbufBase * 64)
    (hh : h = s.fld (Reg.ethCtx n) Fld.ethCtxHandle) (hset : q ≠ 0) (hfree : (s.ethPort n).used < count)
    (hin : s.inBuffer h base (10240 * count) = true)
    (hwrite : (ctxWrite (0xA8 + n) h (base + 10240 * (s.ethPort n).next) f).gives s none u)
    (happend : (deviceAppend q 4 (leBytes 8 (base + 10240 * (s.ethPort n).next) ++ leBytes 2 (f.length - 1) ++ leBytes 1 n ++
      leBytes 1 (flagBit tagged) ++ leBytes 4 (s.ethPort n).next ++ leBytes 8 s.clock.now) h (s.safetyOf h)).gives u ws v)
    (hx : s.queue q = some x) (hy : v.queue q = some y) (hmoved : y.next ≠ x.next) :
    (rxPacket n f tagged pcp).Then s (settleAll ws) fun z => v.SameBut [.eth] z ∧
      z.ethPort n = { s.ethPort n with next := ((s.ethPort n).next + 1) % count, used := (s.ethPort n).used + 1 } := by
  subst hq hcount hbase hh
  have hother : ¬ (s.fld (Reg.ethRxbuf n) Fld.ethRxbufCountM1 + 1 ≤ (s.ethPort n).used ∨ (!s.inBuffer (s.fld (Reg.ethCtx n) Fld.ethCtxHandle)
      (s.fld (Reg.ethRxbuf n) Fld.ethRxbufBase * 64) (10240 * (s.fld (Reg.ethRxbuf n) Fld.ethRxbufCountM1 + 1))) = true) := by
    rw [hin]
    exact not_or.mpr ⟨Nat.not_le.mpr hfree, by decide⟩
  have heth : v.eth = s.eth :=
    (Reaches.eth (M.All.steps_of_gives (deviceAppend_reach (msk := 0xABA9) rfl _ _ _ _ _) happend) rfl).trans
      (Reaches.eth (M.All.steps_of_gives (ctxWrite_reach (msk := 0xBA9) rfl _ _ _ _) hwrite) rfl)
  have hport : v.ethPort n = s.ethPort n := congrArg (fun t : List (Nat × EthPort) => tblGet t ethPort0 n) heth
  refine ⟨v.withEth n { s.ethPort n with next := ((s.ethPort n).next + 1) % (s.fld (Reg.ethRxbuf n) Fld.ethRxbufCountM1 + 1)
                                         used := (s.ethPort n).used + 1 }, ⟨v.sameBut_withEth _ _, State.ethPort_withEth_same _ _ _⟩, ?_⟩
  unfold rxPacket
  rw [run_getS_bind]
  dsimp only
  rw [if_neg hset, if_neg hother, hwrite.run_bind]
  dsimp only
  rw [happend.run_bind, run_getS_bind, hx, hy]
  rw [if_pos (by simpa using hmoved)]
  rw [(modEth_gives _ _ _).run_bind, hport]

end

/-! ## Buffers that the BCC returns (R413) -/

theorem run_rxReturn_refused {w : Requester} {i : Nat} (h : w ≠ .bcc ∨ 4096 ≤ i) :
    M.run (rxReturn w n i) s = refusedWrite s (Reg.ethRxbufRet n) i 0 := by
  unfold rxReturn
  rw [run_getS_bind, if_pos h]
  exact run_refuseReg _ _ _ _

/-- How many buffers, from the oldest in use, are returned with buffer `i`. -/
def State.rxReturned (s : State) (n i count : Nat) : Nat :=
  (i + count - ((s.ethPort n).next + count - (s.ethPort n).used % count) % count) % count + 1

theorem run_rxReturn {i count : Nat} (hi : i < 4096) (hcount : count = s.fld (Reg.ethRxbuf n) Fld.ethRxbufCountM1 + 1) :
    M.run (rxReturn .bcc n i) s = if i < count ∧ s.rxReturned n i count ≤ (s.ethPort n).used
      then s.withEth n { s.ethPort n with used := (s.ethPort n).used - s.rxReturned n i count } else s := by
  subst hcount
  unfold rxReturn State.rxReturned
  rw [run_getS_bind, if_neg (by simp; omega)]
  dsimp only
  split
  · exact (modEth_gives _ _ _).run
  · rfl

/-! ## Frames that are sent (R414) -/

theorem exec_ethFrameTransmit {q : Nat} {x : Queue} {e : Entry} (hup : s.linkUp n = true) (he : s.txEntry n = some (q, x, e)) :
    exec (.ethFrameTransmit n) s = .next (M.run (ethTransmit n) s) := by
  change execEthFrameTransmit n s = _
  exact whenEnabled_next (by rw [hup, he]; rfl)

section
variable {q : Nat} {x : Queue} {e : Entry} {b : List Byte} {u : State} (hs : s.Canonical) (he : s.txEntry n = some (q, x, e))
  (hread : (ctxRead (0xA8 + n) x.owner (x.base + 64 * e.slot) 64).gives s (.ok b) u) (hgood : s.txGood n e b = true)
include he hread hgood

include hs in
theorem ethTransmit_then_sent {f : List Byte} {v : State} (hin : s.inBuffer e.producer (leAt b 0 8) (leAt b 8 2 + 1) = true)
    (hdata : (ctxRead (0xA8 + n) e.producer (leAt b 0 8) (leAt b 8 2 + 1)).gives u (.ok f) v) :
    (ethTransmit n).Then s (do settleAll (← leaveEntry q e.seq)) fun z => v.SameBut [.regs, .sent] z ∧
      z.sent = v.sent ++ [(0xA8 + n, padTo (max 60 (leAt b 8 2 + 1)) f)] ∧ v.OneReg (Reg.ethTxdone n) (BitVec.ofNat 64 e.seq) z := by
  have hv : v.Canonical := hdata.canonical (hread.canonical hs)
  refine ⟨((Upd.sent (· ++ [(0xA8 + n, padTo (max 60 (leAt b 8 2 + 1)) f)])).apply v).putReg (Reg.ethTxdone n) (BitVec.ofNat 64 e.seq),
    ⟨?_, rfl, ?_⟩, ?_⟩
  · exact ((State.SameBut.refl _ v).upd (.sent _) rfl).trans ((State.sameBut_putReg _ _ _).mono (by decide))
  · exact State.oneReg_putReg (s := (Upd.sent _).apply v) hv _ _
  · unfold ethTransmit
    rw [run_getS_bind, he]
    dsimp only
    rw [hread.run_bind]
    dsimp only
    rw [hgood, hin]
    simp only [Bool.not_true, Bool.false_eq_true, if_false]
    rw [hdata.run_bind]
    rfl

theorem ethTransmit_then_outside (hin : s.inBuffer e.producer (leAt b 0 8) (leAt b 8 2 + 1) = false) :
    (ethTransmit n).Then s (do settleAll (← leaveEntry q e.seq)) fun z =>
      (u.afterEvent (0xA8 + n) 6 0x3D03 (det [(1, n), (3, 0), (4, e.seq)])).SameBut [.regs] z ∧ z.sent = u.sent := by
  refine ⟨(u.afterEvent (0xA8 + n) 6 0x3D03 (det [(1, n), (3, 0), (4, e.seq)])).putReg (Reg.ethTxdone n) (BitVec.ofNat 64 e.seq),
    ⟨State.sameBut_putReg _ _ _, (u.afterEvent_quiet _ _ _ _).sameBut.2 .sent (by decide)⟩, ?_⟩
  unfold ethTransmit
  rw [run_getS_bind, he]
  dsimp only
  rw [hread.run_bind]
  dsimp only
  rw [hgood, hin]
  simp only [Bool.not_true, Bool.not_false, Bool.false_eq_true, if_false, if_true]
  rw [(raise_gives _ _ _ _ _).run_bind]
  rfl

end

/-! ## Discovery (R415) -/

/-- The header without a tag stands at the front of the frame. -/
theorem beAt_etherHeader (dst src ty : Nat) (b : List Byte) : beAt (etherHeader dst src 0 0 ty ++ b) 0 6 = dst % 256 ^ 6 ∧
    beAt (etherHeader dst src 0 0 ty ++ b) 6 6 = src % 256 ^ 6 ∧ beAt (etherHeader dst src 0 0 ty ++ b) 12 2 = ty % 256 ^ 2 := by
  have hframe : etherHeader dst src 0 0 ty ++ b = beBytes 6 dst ++ (beBytes 6 src ++ (beBytes 2 ty ++ b)) := by simp [etherHeader]
  refine ⟨?_, ?_, ?_⟩
  · exact hframe ▸ beAt_append_beBytes [] _ 6 dst
  · have h := beAt_append_beBytes (beBytes 6 dst) (beBytes 2 ty ++ b) 6 src
    rwa [length_beBytes, ← hframe] at h
  · have h := beAt_append_beBytes (beBytes 6 dst ++ beBytes 6 src) b 2 ty
    rwa [List.length_append, length_beBytes, length_beBytes, List.append_assoc, ← hframe] at h

/-- The LLDPDU of a port, without its padding. -/
def State.lldpFrame (s : State) (n : Nat) : List Byte :=
  etherHeader 0x0180C200000E (s.fld (Reg.ethMac n) Fld.ethMacMac) 0 0 0x88CC ++
    (tlv 1 (leBytes 1 4 ++ deviceId.take 6) ++ tlv 2 (leBytes 1 7 ++ leBytes 1 n) ++ tlv 3 (beBytes 2 120) ++ zeros 2)

/-- The state after port `n` sent its LLDPDU. -/
def State.lldpSent (s : State) (n : Nat) : State :=
  ((Upd.sent (· ++ [(0xA8 + n, padTo (max 60 (s.lldpFrame n).length) (s.lldpFrame n))])).apply s).withEth n
    { s.ethPort n with lldpAt := some s.clock.now }

theorem run_lldpSend (s : State) (n : Nat) : M.run (lldpSend n) s = s.lldpSent n := rfl

theorem run_lldpExpire {c b : List Byte} {ttl y : Nat} (hneigh : (s.ethPort n).neigh = some (c, b, ttl, y)) :
    M.run (lldpExpire n) s = (s.withEth n { s.ethPort n with neigh := none }).afterEvent 0x81 6 0xAD04
      (det ([(1, n), (3, 0)] ++ c.map fun x => (1, x.toNat))) := by
  unfold lldpExpire
  rw [run_getS_bind, hneigh]
  exact ((modEth_gives _ _ _).bind (raise_gives _ _ _ _ _)).run

/-! ## The PCIe link (R428, R432) -/

/-- The state whose PCIe status shows a speed and a width. -/
def State.pcieShown (s : State) (speed width : Nat) : State :=
  (s.putFld Reg.pcieStatus Fld.pcieStatusSpeed speed).putFld Reg.pcieStatus Fld.pcieStatusWidth width

theorem State.pcieShown_spec (hs : s.Canonical) {a b : Nat} (ha : a < 2 ^ 3) (hb : b < 2 ^ 4) : s.SameBut [.regs] (s.pcieShown a b) ∧
    (∀ x, x ≠ Reg.pcieStatus → (s.pcieShown a b).reg x = s.reg x) ∧ (s.pcieShown a b).fld Reg.pcieStatus Fld.pcieStatusSpeed = a ∧
    (s.pcieShown a b).fld Reg.pcieStatus Fld.pcieStatusWidth = b := by
  have hmid : (s.putFld Reg.pcieStatus Fld.pcieStatusSpeed a).Canonical := State.canonical_putFld hs _ _ _
  refine ⟨((s.sameBut_putFld _ _ _).trans (State.sameBut_putFld _ _ _ _)).mono (by decide), fun x hx => ?_, ?_, ?_⟩
  · exact (State.oneReg_putFld_putFld hs _ _ _ _ _ x).trans (if_neg hx)
  · exact (State.fld_putFld_apart hmid (by decide)).trans (State.fld_putFld_same hs (by decide) ha)
  · exact State.fld_putFld_same hmid (by decide) hb

theorem run_pcieLinkUp (s : State) (a b : Nat) : M.run (pcieLinkUp a b) s = (s.pcieShown a b).afterEvent 0xB0 6 0xAD06 (det [(1, a), (1, b)]) :=
  ((wrFld_gives _ _ _ _).bind ((wrFld_gives _ _ _ _).bind (raise_gives _ _ _ _ _))).run

theorem run_pcieLinkDown (s : State) : M.run pcieLinkDown s = (s.pcieShown 0 0).afterEvent 0xB0 6 0xAD07
    (det [(1, s.fld Reg.pcieStatus Fld.pcieStatusSpeed), (1, s.fld Reg.pcieStatus Fld.pcieStatusWidth)]) :=
  M.gives.run (.getS_bind ((wrFld_gives _ _ _ _).bind ((wrFld_gives _ _ _ _).bind (raise_gives _ _ _ _ _))))

theorem exec_pcieLinkUp {a b : Nat} (ha : 1 ≤ a) (ha' : a ≤ 5) (hb : b ∈ [1, 2, 4, 8]) (hdown : s.fld Reg.pcieStatus Fld.pcieStatusSpeed = 0) :
    exec (.pcieLinkUp a b) s = .next ((s.pcieShown a b).afterEvent 0xB0 6 0xAD06 (det [(1, a), (1, b)])) := by
  change execPcieLinkUp a b s = _
  rw [← run_pcieLinkUp]
  exact whenEnabled_next (by rw [decide_eq_true ha, decide_eq_true ha', List.contains_iff_mem.mpr hb, hdown]; rfl)

theorem exec_pcieLinkUp_refused {a b : Nat} (h : a = 0 ∨ 5 < a ∨ b ∉ [1, 2, 4, 8] ∨ s.fld Reg.pcieStatus Fld.pcieStatusSpeed ≠ 0) :
    TurnedAway (.pcieLinkUp a b) s := by
  change execPcieLinkUp a b s = _
  refine whenEnabled_refused ?_
  obtain h | h | h | h := h
  · rw [h]
    rfl
  · rw [decide_eq_false (Nat.not_le.mpr h), Bool.and_false, Bool.false_and, Bool.false_and]
  · rw [Bool.eq_false_iff.mpr (mt List.contains_iff_mem.mp h), Bool.and_false, Bool.false_and]
  · rw [beq_eq_false_iff_ne.mpr h, Bool.and_false]

theorem exec_pcieLinkDown (h : s.fld Reg.pcieStatus Fld.pcieStatusSpeed ≠ 0) :
    exec .pcieLinkDown s = .next ((s.pcieShown 0 0).afterEvent 0xB0 6 0xAD07
      (det [(1, s.fld Reg.pcieStatus Fld.pcieStatusSpeed), (1, s.fld Reg.pcieStatus Fld.pcieStatusWidth)])) := by
  change execPcieLinkDown s = _
  rw [← run_pcieLinkDown]
  exact whenEnabled_next (bne_iff_ne.mpr h)

theorem exec_msiReceive {a d : Nat} (hrole : s.fld Reg.pcieStatus Fld.pcieStatusRole = 0) (hup : s.fld Reg.pcieStatus Fld.pcieStatusSpeed ≠ 0)
    (ha : a = s.fld Reg.pcieMsi Fld.pcieMsiAddr * 4) : CompletesThen (.msiReceive a d) s (do
      settleAll (← offerCtx (s.fld Reg.pcieCtx Fld.pcieCtxHandle) ⟨0xB0, 6, 0x0D01, det [(4, d)]⟩)) fun u =>
        u = s.afterEvent 0xB0 6 0x0D01 (det [(4, d)]) := by
  refine completesThen_of rfl ?_
  change execMsiReceive a d s = _
  refine (whenEnabled_next (by rw [hrole, bne_iff_ne.mpr hup, ha, beq_self_eq_true, beq_self_eq_true]; rfl)).trans (congrArg _ ?_)
  unfold msiReceive
  rw [run_getS_bind]
  exact (raise_gives _ _ _ _ _).run_bind _

theorem exec_msiReceive_refused {a d : Nat} (h : s.fld Reg.pcieStatus Fld.pcieStatusRole ≠ 0 ∨ s.fld Reg.pcieStatus Fld.pcieStatusSpeed = 0 ∨
    a ≠ s.fld Reg.pcieMsi Fld.pcieMsiAddr * 4) : TurnedAway (.msiReceive a d) s := by
  change execMsiReceive a d s = _
  refine whenEnabled_refused ?_
  obtain h | h | h := h
  · rw [beq_eq_false_iff_ne.mpr h, Bool.false_and, Bool.false_and]
  · rw [h, bne_self_eq_false, Bool.and_false, Bool.false_and]
  · rw [beq_eq_false_iff_ne.mpr h, Bool.and_false]

/-! ## Frames that a port does not take, by the rule that names them -/

theorem exec_received {f : List Byte} {t : State} (hup : s.linkUp n = true) (hlen : 14 ≤ f.length) (h : M.run (ethReceive n f) s = t) :
    exec (.ethFrameReceive n f) s = .next t := h ▸ exec_ethFrameReceive hup hlen

theorem State.counted_ethCounted (hs : s.Canonical) (n : Nat) (fd : Field) :
    s.SameBut [.regs] (s.ethCounted n fd) ∧ Counted s (Reg.ethCnt n) fd (s.ethCounted n fd) :=
  ⟨s.sameBut_putFld _ _ _, State.oneField_putFld hs _ _ _⟩

theorem State.lldpSent_spec (s : State) (n : Nat) : s.SameBut [.sent, .eth] (s.lldpSent n) ∧
    (s.lldpSent n).ethPort n = { s.ethPort n with lldpAt := some s.clock.now } ∧ ∀ x, x ≠ n → (s.lldpSent n).ethPort x = s.ethPort x :=
  ⟨((State.SameBut.refl _ s).upd (.sent _) rfl).upd (.eth _) rfl, State.ethPort_withEth_same _ _ _,
    fun _ hx => State.ethPort_withEth (s := (Upd.sent _).apply s) _ hx⟩

theorem State.lldpFrame_spec (s : State) (n : Nat) : 60 ≤ (padTo (max 60 (s.lldpFrame n).length) (s.lldpFrame n)).length ∧
    beAt (padTo (max 60 (s.lldpFrame n).length) (s.lldpFrame n)) 0 6 = 0x0180C200000E ∧
    beAt (padTo (max 60 (s.lldpFrame n).length) (s.lldpFrame n)) 6 6 = s.fld (Reg.ethMac n) Fld.ethMacMac ∧
    beAt (padTo (max 60 (s.lldpFrame n).length) (s.lldpFrame n)) 12 2 = 0x88CC := by
  have hmac : s.fld (Reg.ethMac n) Fld.ethMacMac < 256 ^ 6 := getBits_lt _ _ _
  rw [padTo_of_le (Nat.le_max_right _ _)]
  refine ⟨by rw [← padTo_of_le (Nat.le_max_right _ _), length_padTo]; exact Nat.le_max_left _ _, ?_⟩
  unfold State.lldpFrame
  rw [List.append_assoc]
  obtain ⟨hdst, hsrc, hty⟩ := beAt_etherHeader 0x0180C200000E (s.fld (Reg.ethMac n) Fld.ethMacMac) 0x88CC
    (tlv 1 (leBytes 1 4 ++ deviceId.take 6) ++ tlv 2 (leBytes 1 7 ++ leBytes 1 n) ++ tlv 3 (beBytes 2 120) ++ zeros 2 ++
      zeros (max 60 (s.lldpFrame n).length - (s.lldpFrame n).length))
  exact ⟨hdst, hsrc.trans (Nat.mod_eq_of_lt hmac), hty⟩

theorem exec_lldpSend_refused (h : s.linkUp n = false ∨ ∃ x, (s.ethPort n).lldpAt = some x ∧ s.clock.now < x + 30 * 2 ^ 32) :
    TurnedAway (.lldpSend n) s := by
  change execLldpSend n s = _
  refine whenEnabled_refused ?_
  obtain h | ⟨x, hx, hlt⟩ := h
  · rw [h, Bool.false_and]
  · rw [hx]
    dsimp only
    rw [decide_eq_false (Nat.not_le.mpr hlt), Bool.and_false]

theorem exec_lldpSend (hup : s.linkUp n = true)
    (h : (s.ethPort n).lldpAt = none ∨ ∃ x, (s.ethPort n).lldpAt = some x ∧ x + 30 * 2 ^ 32 ≤ s.clock.now) :
    exec (.lldpSend n) s = .next (s.lldpSent n) := by
  change execLldpSend n s = _
  refine (whenEnabled_next ?_).trans (congrArg _ (run_lldpSend s n))
  obtain h | ⟨x, hx, hle⟩ := h
  · rw [hup, h]
    rfl
  · rw [hup, hx]
    dsimp only
    rw [decide_eq_true hle]
    rfl

theorem exec_lldpTtlExpiry {c b : List Byte} {ttl y : Nat} (hneigh : (s.ethPort n).neigh = some (c, b, ttl, y)) :
    (y + ttl * 2 ^ 32 + settleMargin ≤ s.clock.now → exec (.lldpTtlExpiry n) s = .next
      ((s.withEth n { s.ethPort n with neigh := none }).afterEvent 0x81 6 0xAD04 (det ([(1, n), (3, 0)] ++ c.map fun x => (1, x.toNat))))) ∧
    (s.clock.now < y + ttl * 2 ^ 32 + settleMargin → TurnedAway (.lldpTtlExpiry n) s) := by
  constructor
  · intro h
    change execLldpTtlExpiry n s = _
    rw [← run_lldpExpire hneigh]
    refine whenEnabled_next ?_
    rw [hneigh]
    exact decide_eq_true h
  · intro h
    change execLldpTtlExpiry n s = _
    refine whenEnabled_refused ?_
    rw [hneigh]
    exact decide_eq_false (Nat.not_le.mpr h)

theorem exec_lldpTtlExpiry_refused (hneigh : (s.ethPort n).neigh = none) : TurnedAway (.lldpTtlExpiry n) s := by
  change execLldpTtlExpiry n s = _
  refine whenEnabled_refused ?_
  rw [hneigh]

theorem exec_ethFrameReceive_refused {f : List Byte} (h : s.linkUp n = false ∨ f.length < 14) : TurnedAway (.ethFrameReceive n f) s := by
  change execEthFrameReceive n f s = _
  refine whenEnabled_refused ?_
  obtain h | h := h
  · rw [h, Bool.false_and]
  · rw [decide_eq_false (Nat.not_le.mpr h), Bool.and_false]

theorem exec_ethFrameTransmit_refused (h : s.linkUp n = false ∨ s.txEntry n = none) : TurnedAway (.ethFrameTransmit n) s := by
  change execEthFrameTransmit n s = _
  refine whenEnabled_refused ?_
  obtain h | h := h
  · rw [h, Bool.false_and]
  · rw [h, Option.isSome_none, Bool.and_false]

end

/-- Settles O59: each frame's rule of R412–R415 first, then buffers, transmission, discovery and PCIe. -/
theorem portsReceiveSendAndDiscover : Obligations.PortsReceiveSendAndDiscover := by
  unfold Obligations.PortsReceiveSendAndDiscover
  intro s n hs hn now p port
  refine ⟨?_, fun f h => exec_ethFrameReceive_refused h, ?_, ?_, ?_, exec_ethFrameTransmit_refused, ?_, ?_, exec_lldpSend_refused, ?_,
    exec_lldpTtlExpiry_refused, ?_⟩
  case refine_1 =>
    intro c hc
    simp only [List.mem_cons, List.not_mem_nil, or_false] at hc
    obtain rfl | rfl := hc
    · exact ⟨fun h => ⟨_, s.sameBut_putReg _ _, State.oneReg_putReg hs _ _, exec_ethLinkUp h⟩, exec_ethLinkUp_refused⟩
    · exact ⟨fun h => ⟨_, s.sameBut_putReg _ _, State.oneReg_putReg hs _ _, exec_ethLinkDown h⟩, exec_ethLinkDown_refused⟩
  case refine_2 =>
    intro f tagged pcp ty body hup hlen hparse c udp dropped
    refine ⟨fun hlong => exec_received hup hlen (run_ethReceive_long hparse hlong), fun hmax => ⟨?_, ?_, ?_, ?_, ?_, ?_⟩⟩
    · intro hty
      exact ⟨_, exec_received hup hlen (run_ethReceive_pause hparse hmax hty), State.counted_ethCounted hs _ _⟩
    · intro hty
      exact exec_received hup hlen (run_ethReceive_ptp hparse hmax hty)
    · intro x ttl hty hudp hx httl
      obtain ⟨hkept, hnew⟩ := run_lldpReceive (s := s) (n := n) hx httl
      have hrun := run_ethReceive_lldp (s := s) (n := n) hparse hmax hty hudp
      exact ⟨s.neighbourKept n x body ttl, s.sameBut_withEth _ _, ⟨State.ethPort_withEth_same _ _ _, fun _ hx => State.ethPort_withEth _ _ hx⟩,
        fun h => exec_received hup hlen (hrun.trans (hkept h)), fun h => exec_received hup hlen (hrun.trans (hnew h))⟩
    · intro dst b hty hudp hmine
      exact completesThen_of rfl (exec_received hup hlen (run_ethReceive_roce hparse hmax hty hudp hmine))
    · intro peer hty hudp hpeer
      exact completesThen_of rfl (exec_received hup hlen (run_ethReceive_fh hparse hmax hty hudp hpeer))
    · intro q count base h hty hudp hq hcount hbase hh
      have hrun := run_ethReceive_packet (s := s) (n := n) hparse hmax hty hudp
      refine ⟨fun h0 => exec_received hup hlen (hrun.trans (run_rxPacket_unset (hq ▸ h0))), fun hset hroom => ?_, ?_⟩
      · subst hq hcount hbase hh
        exact ⟨_, exec_received hup hlen (hrun.trans (run_rxPacket_dropped hset hroom)), State.counted_ethCounted hs _ _⟩
      · intro u ws v x y hset hfree hin hwrite happend hx hy hmoved
        exact completesThen_of_then (exec_received hup hlen hrun |>.trans rfl)
          (rxPacket_then hq hcount hbase hh hset hfree hin hwrite happend hx hy hmoved)
  case refine_3 =>
    intro w i h
    change execRxBufferReturn w n i s = _
    exact always_of_run (run_rxReturn_refused h)
  case refine_4 =>
    intro i count first k hi hcount hfirst hk
    have hret : s.rxReturned n i count = k := by rw [hk, hfirst]; rfl
    have hrun := run_rxReturn (s := s) (n := n) hi hcount
    rw [hret] at hrun
    refine ⟨fun hin hle => ?_, fun hout => always_of_run (hrun.trans (if_neg ?_))⟩
    · exact ⟨_, always_of_run (hrun.trans (if_pos ⟨hin, hle⟩)), s.sameBut_withEth _ _, State.ethPort_withEth_same _ _ _,
        fun _ hx => State.ethPort_withEth _ _ hx⟩
    · rw [not_and_or, not_lt, not_le]
      exact hout
  case refine_5 =>
    intro q x e b u a len hup he hread ha hlen hgood leaves c
    subst ha hlen
    exact ⟨fun f v hin hdata => completesThen_of_then (exec_ethFrameTransmit hup he) (ethTransmit_then_sent hs he hread hgood hin hdata),
      fun hin => completesThen_of_then (exec_ethFrameTransmit hup he) (ethTransmit_then_outside he hread hgood hin)⟩
  case refine_6 =>
    intro hup hdue
    obtain ⟨hsame, hport⟩ := s.lldpSent_spec n
    exact ⟨s.lldpSent n, _, exec_lldpSend hup hdue, hsame, hport, rfl, s.lldpFrame_spec n⟩
  case refine_7 =>
    intro x b ttl y hneigh
    obtain ⟨hdue, hearly⟩ := exec_lldpTtlExpiry hneigh
    exact ⟨fun h => ⟨_, s.sameBut_withEth _ _, ⟨State.ethPort_withEth_same _ _ _, fun _ hx => State.ethPort_withEth _ _ hx⟩, hdue h⟩, hearly⟩
  case refine_8 =>
    intro speed shows hspeed hshows
    subst hspeed hshows
    refine ⟨?_, fun a b h => exec_pcieLinkUp_refused h, ?_, fun h => ?_, fun a d => ⟨exec_msiReceive, exec_msiReceive_refused⟩⟩
    · intro a b ha ha' hb hdown
      have hb' : b < 2 ^ 4 := by fin_cases hb <;> decide
      exact ⟨_, State.pcieShown_spec hs (by omega) hb', exec_pcieLinkUp ha ha' hb hdown⟩
    · intro hup
      exact ⟨_, State.pcieShown_spec hs (by decide) (by decide), exec_pcieLinkDown hup⟩
    · change execPcieLinkDown s = _
      exact whenEnabled_refused (by rw [h]; rfl)

end Sys2Proof.Machine
end

section
/-! PROOFS. The SAFE block's tables and operations, and O51: pipelines judge their instances and gate them (R434–R447, R456). -/

namespace Sys2Proof.Machine

open Sys2Proof

section
variable {s : State} {p : Nat}

/-! ## The tables of the SAFE block -/

/-- The state with pipeline `p` replaced. -/
def State.withPipe (s : State) (p : Nat) (v : Pipe) : State := (Upd.safe fun x => { x with pipes := tblSet x.pipes p v }).apply s

theorem modPipe_gives (p : Nat) (f : Pipe → Pipe) (s : State) : (modPipe p f).gives s () (s.withPipe p (f (s.pipe p))) := fun _ => rfl

theorem State.sameBut_withPipe (s : State) (p : Nat) (v : Pipe) : s.SameBut [.safe] (s.withPipe p v) := Upd.sameBut _ s

theorem State.pipe_withPipe (s : State) (p : Nat) (v : Pipe) : (s.withPipe p v).pipe p = v := tblGet_tblSet_same _ _ _ _

theorem State.canonical_withPipe (hs : s.Canonical) (p : Nat) (v : Pipe) : (s.withPipe p v).Canonical := hs

theorem State.reg_withPipe (s : State) (p : Nat) (v : Pipe) (x : Nat) : (s.withPipe p v).reg x = s.reg x := rfl

theorem State.fld_withPipe (s : State) (p : Nat) (v : Pipe) (x : Nat) (f : Field) : (s.withPipe p v).fld x f = s.fld x f := rfl

theorem State.pipe_putFld (s : State) (off : Nat) (f : Field) (v p : Nat) : (s.putFld off f v).pipe p = s.pipe p := rfl

theorem State.boundCairns_congr {t : State} (h : t.safe.cairns = s.safe.cairns) (p : Nat) : t.boundCairns p = s.boundCairns p := by
  have hcairn (c : Nat) : t.cairn c = s.cairn c := by rw [State.cairn, h, State.cairn]
  simp only [State.boundCairns, hcairn]

theorem Quiet.pipe {t : State} (h : Quiet s t) (p : Nat) : t.pipe p = s.pipe p := by rw [State.pipe, h.rest, State.pipe]

theorem Quiet.pipeState {t : State} (h : Quiet s t) (p : Nat) : t.pipeState p = s.pipeState p := h.fld _ _

theorem safePipeCfg_ne_status {p q : Nat} (_ : p < 32) (_ : q < 32) : Reg.safePipeCfg p ≠ Reg.safePipeStatus q := by
  simp only [Reg.safePipeCfg, Reg.safePipeStatus]
  omega

/-! ## The pin (R448) -/

/-- The state in which SAFE_N is driven as R448 says. -/
def State.pinDriven (s : State) : State := { s with pins := { s.pins with safeN := !s.safeLow } }

theorem drivePins_gives (s : State) : drivePins.gives s () s.pinDriven := fun _ => rfl

theorem State.safeLow_of_pipe (hp : p < 32) (hstate : s.pipeState p = 3) (hpin : s.flag (Reg.safePipeCfg p) Fld.safePipeCfgSafePin = true) :
    s.safeLow = true := by
  refine Bool.or_eq_true_iff.mpr (.inr (List.any_eq_true.mpr ⟨p, List.mem_range.mpr hp, ?_⟩))
  rw [hstate, hpin]
  rfl

/-! ## Safe state (R447) -/

/-- The state in which pipeline `p` has entered safe state, before the event. -/
def State.safeEntered (s : State) (p : Nat) : State :=
  (s.putFld (Reg.safePipeStatus p) Fld.safePipeStatusState 3).withPipe p { s.pipe p with safeDue := s.boundCairns p }

/-- The state after event 0x6003 and the pin that follows it. -/
def State.safeReported (s : State) (p reason num earlier : Nat) : State :=
  ((s.safeEntered p).afterEvent 0x81 6 0x6003 (det [(1, p), (1, reason), (2, 0), (4, num), (4, earlier)])).pinDriven

theorem run_enterSafe_on (hon : s.pipeOn p = true) (hstate : s.pipeState p ≠ 3) (reason num earlier : Nat) :
    M.run (enterSafe p reason num earlier) s = s.safeReported p reason num earlier := by
  unfold enterSafe
  rw [run_getS_bind, if_pos ⟨hon, hstate⟩]
  exact ((wrFld_gives _ _ _ _).bind ((modPipe_gives _ _ _).bind ((raise_gives _ _ _ _ _).bind (drivePins_gives _)))).run

theorem run_enterSafe_off (h : s.pipeOn p = false ∨ s.pipeState p = 3) (reason num earlier : Nat) :
    M.run (enterSafe p reason num earlier) s = s := by
  unfold enterSafe
  rw [run_getS_bind, if_neg]
  · rfl
  · rintro ⟨hon, hstate⟩
    exact h.elim (fun h => Bool.false_ne_true (h.symm.trans hon)) hstate

theorem State.safeEntered_spec (hs : s.Canonical) (p : Nat) : s.SameBut [.regs, .safe] (s.safeEntered p) ∧
    OneField s (Reg.safePipeStatus p) Fld.safePipeStatusState 3 (s.safeEntered p) ∧
    (s.safeEntered p).pipe p = { s.pipe p with safeDue := s.boundCairns p } :=
  ⟨((s.sameBut_putFld _ _ _).mono (by decide)).upd (.safe _) rfl, State.oneField_putFld hs _ _ _, State.pipe_withPipe _ _ _⟩

theorem State.pipeState_safeEntered (hs : s.Canonical) (p : Nat) : (s.safeEntered p).pipeState p = 3 := by
  rw [State.pipeState, State.safeEntered, State.fld_withPipe, State.fld_putFld_same hs (by decide) (by decide)]

theorem State.safeReported_pinLow (hs : s.Canonical) (hp : p < 32) (hpin : s.flag (Reg.safePipeCfg p) Fld.safePipeCfgSafePin = true)
    (reason num earlier : Nat) : (s.safeReported p reason num earlier).pins.safeN = false := by
  have hq := (s.safeEntered p).afterEvent_quiet 0x81 6 0x6003 (det [(1, p), (1, reason), (2, 0), (4, num), (4, earlier)])
  have hcfg : (s.safeEntered p).fld (Reg.safePipeCfg p) Fld.safePipeCfgSafePin = s.fld (Reg.safePipeCfg p) Fld.safePipeCfgSafePin := by
    rw [State.safeEntered, State.fld_withPipe, State.fld_putFld_other hs (safePipeCfg_ne_status hp hp)]
  have hlow := State.safeLow_of_pipe hp ((hq.pipeState p).trans (State.pipeState_safeEntered hs p))
    (by rw [State.flag, hq.fld, hcfg]; exact hpin)
  exact congrArg (!·) hlow

/-- The state after SAFE_CLEAR, before its event. -/
def State.safeCleared (s : State) (p : Nat) : State :=
  (s.putFld (Reg.safePipeStatus p) Fld.safePipeStatusState 1).withPipe p { s.pipe p with faulty := [], due := [] }

theorem run_safeClear (hstate : s.pipeState p = 3) (hdue : (s.pipe p).safeDue = []) :
    M.run (safeClear p) s = ((s.safeCleared p).afterEvent 0x81 6 0x6004 (det [(1, p)])).pinDriven := by
  unfold safeClear
  rw [run_getS_bind, if_neg (not_not.mpr hstate), hdue]
  exact ((wrFld_gives _ _ _ _).bind ((modPipe_gives _ _ _).bind ((raise_gives _ _ _ _ _).bind (drivePins_gives _)))).run

theorem run_safeClear_refused (hstate : s.pipeState p = 3) (hdue : (s.pipe p).safeDue ≠ []) :
    M.run (safeClear p) s = refusedWrite s (Reg.safePipeCmd p) 1 0 := by
  unfold safeClear
  rw [run_getS_bind, if_neg (not_not.mpr hstate), if_pos (by simpa using hdue)]
  exact run_refuseReg _ _ _ _

theorem run_safeClear_off (hstate : s.pipeState p ≠ 3) : M.run (safeClear p) s = s := by
  unfold safeClear
  rw [run_getS_bind, if_pos hstate]
  rfl

/-! ## The registers of the SAFE block (R456) -/

theorem run_safeWrite_bcc (off value : Nat) (m : M Unit) (s : State) : M.run (safeWrite .bcc off value m) s = M.run m s := rfl

theorem run_safeWrite_refused {w : Requester} (hw : w ≠ .bcc) (off value : Nat) (m : M Unit) (s : State) :
    M.run (safeWrite w off value m) s = refusedWrite s off value 0 := by
  unfold safeWrite
  rw [if_neg hw]
  exact run_refuseReg _ _ _ _

section
variable {w : Requester} (hp : p < 32)
include hp

theorem exec_safeClear {t : State} (h : M.run (safeWrite w (Reg.safePipeCmd p) 1 (safeClear p)) s = t) : exec (.safeClear w p) s = .next t := by
  change execSafeClear w p s = _
  exact h ▸ whenEnabled_next (decide_eq_true hp)

theorem exec_safeEnter {t : State} (h : M.run (safeWrite w (Reg.safePipeCmd p) 2 (safeEnter p)) s = t) : exec (.safeEnter w p) s = .next t := by
  change execSafeEnter w p s = _
  exact h ▸ whenEnabled_next (decide_eq_true hp)

theorem exec_pipelineEnable {t : State} (h : M.run (safeWrite w (Reg.safePipeCfg p) 1 (pipelineEnable p)) s = t) :
    exec (.pipelineEnable w p) s = .next t := by
  change execPipelineEnable w p s = _
  exact h ▸ whenEnabled_next (decide_eq_true hp)

end

theorem exec_sealEnable {w : Requester} {r base : Nat} {t : State} (hr : r < 256)
    (h : M.run (safeWrite w Reg.safeSeal 1 (sealEnable r base)) s = t) : exec (.sealEnable w r base) s = .next t := by
  change execSealEnable w r base s = _
  exact h ▸ whenEnabled_next (decide_eq_true hr)

/-! ## Pipelines are enabled (R434, R453) -/

theorem run_settlePipe (hon : s.pipeOn p = true) (hstate : s.pipeState p ≠ 3) :
    M.run (settlePipe p) s = s.putFld (Reg.safePipeStatus p) Fld.safePipeStatusState (if (s.pipe p).due.isEmpty then 1 else 2) := by
  unfold settlePipe
  rw [run_getS_bind, if_pos ⟨hon, hstate⟩]
  exact (wrFld_gives _ _ _ _).run

theorem run_pipelineEnable_on (hon : s.pipeOn p = true) : M.run (pipelineEnable p) s = s := by
  unfold pipelineEnable
  rw [run_getS_bind, if_pos hon]
  rfl

theorem run_pipelineEnable_bad (hon : s.pipeOn p = false) (hbad : s.pipeGood p = false) :
    M.run (pipelineEnable p) s = refusedWrite s (Reg.safePipeCfg p) ((s.reg (Reg.safePipeCfg p)).toNat + 1) 0 := by
  unfold pipelineEnable
  rw [run_getS_bind, if_neg (by rw [hon]; decide), if_pos (by rw [hbad]; rfl)]
  exact run_refuseReg _ _ _ _

/-- The state in which pipeline `p` is enabled, before its state is settled. -/
def State.pipeSet (s : State) (p : Nat) : State :=
  (s.putFld (Reg.safePipeCfg p) Fld.safePipeCfgEnable 1).withPipe p { s.pipe p with faulty := [], due := s.boundCairns p, safeDue := [] }

/-- The state in which pipeline `p` is enabled. -/
def State.pipeEnabled (s : State) (p : Nat) : State :=
  (s.pipeSet p).putFld (Reg.safePipeStatus p) Fld.safePipeStatusState (if (s.boundCairns p).isEmpty then 1 else 2)

theorem State.pipeOn_pipeSet (hs : s.Canonical) (p : Nat) : (s.pipeSet p).pipeOn p = true := by
  rw [State.pipeOn, State.flag, State.pipeSet, State.fld_withPipe, State.fld_putFld_same hs (by decide) (by decide)]
  rfl

theorem run_pipelineEnable (hs : s.Canonical) (hp : p < 32) (hon : s.pipeOn p = false) (hgood : s.pipeGood p = true)
    (hstate : s.pipeState p ≠ 3) : M.run (pipelineEnable p) s = s.pipeEnabled p := by
  have hstate' : (s.pipeSet p).pipeState p ≠ 3 := by
    rwa [State.pipeState, State.pipeSet, State.fld_withPipe, State.fld_putFld_other hs (safePipeCfg_ne_status hp hp).symm]
  unfold pipelineEnable
  rw [run_getS_bind, if_neg (by rw [hon]; decide), if_neg (by rw [hgood]; decide), (wrFld_gives _ _ _ _).run_bind,
    (modPipe_gives _ _ _).run_bind]
  change M.run (settlePipe p) (s.pipeSet p) = _
  rw [run_settlePipe (State.pipeOn_pipeSet hs p) hstate', State.pipeEnabled, State.pipeSet, State.pipe_withPipe]

theorem State.canonical_pipeSet (hs : s.Canonical) (p : Nat) : (s.pipeSet p).Canonical :=
  State.canonical_withPipe (State.canonical_putFld hs _ _ _) _ _

theorem State.sameBut_pipeEnabled (s : State) (p : Nat) : s.SameBut [.regs, .safe] (s.pipeEnabled p) := by
  have hset : s.SameBut [.regs, .safe] (s.pipeSet p) :=
    ((s.sameBut_putFld _ _ _).mono (by decide)).trans ((State.sameBut_withPipe _ _ _).mono (by decide))
  exact hset.trans ((State.sameBut_putFld _ _ _ _).mono (by decide))

theorem State.pipeOn_pipeEnabled (hs : s.Canonical) (hp : p < 32) : (s.pipeEnabled p).pipeOn p = true := by
  rw [State.pipeOn, State.flag, State.pipeEnabled, State.fld_putFld_other (State.canonical_pipeSet hs p) (safePipeCfg_ne_status hp hp)]
  exact State.pipeOn_pipeSet hs p

theorem State.pipeState_pipeEnabled (hs : s.Canonical) (p : Nat) :
    (s.pipeEnabled p).pipeState p = if s.boundCairns p = [] then 1 else 2 := by
  rw [State.pipeState, State.pipeEnabled, State.fld_putFld_same (State.canonical_pipeSet hs p) (by decide) (by split <;> decide)]
  simp only [List.isEmpty_iff]

theorem State.pipe_pipeEnabled (s : State) (p : Nat) :
    (s.pipeEnabled p).pipe p = { s.pipe p with faulty := [], due := s.boundCairns p, safeDue := [] } := by
  rw [State.pipeEnabled, State.pipe_putFld, State.pipeSet, State.pipe_withPipe]

theorem State.reg_pipeEnabled (hs : s.Canonical) {x : Nat} (hcfg : x ≠ Reg.safePipeCfg p) (hst : x ≠ Reg.safePipeStatus p) :
    (s.pipeEnabled p).reg x = s.reg x := by
  rw [State.pipeEnabled, State.reg_putFld (State.canonical_pipeSet hs p), if_neg hst, State.pipeSet, State.reg_withPipe, State.reg_putFld hs,
    if_neg hcfg]

/-! ## Checkers compare blocks (R441) -/

/-- The state in which a compared block is no longer waited for and is counted. -/
def State.blockCompared (s : State) (p : Nat) (i : PipeInst) (b : Block) : State :=
  let u := (s.withPipe p { s.pipe p with insts := (s.pipe p).insts.map fun y => if y.id = i.id then { y with blocks := y.blocks.erase b } else y })
  let v := u.putFld (Reg.safePipeSampled p) Fld.safePipeSampledBlocks
    (satAdd Fld.safePipeSampledBlocks.width (u.fld (Reg.safePipeSampled p) Fld.safePipeSampledBlocks) 1)
  v.putFld (Reg.chkBlocks (checkerIndex b.checker)) Fld.chkBlocksCount
    (satAdd Fld.chkBlocksCount.width (v.fld (Reg.chkBlocks (checkerIndex b.checker)) Fld.chkBlocksCount) 1)

theorem State.blockCompared_spec (hs : s.Canonical) (i : PipeInst) (b : Block) : s.SameBut [.regs, .safe] (s.blockCompared p i b) ∧
    (∃ u, Counted s (Reg.safePipeSampled p) Fld.safePipeSampledBlocks u ∧
      Counted u (Reg.chkBlocks (checkerIndex b.checker)) Fld.chkBlocksCount (s.blockCompared p i b)) ∧
    (s.blockCompared p i b).pipe p =
      { s.pipe p with insts := (s.pipe p).insts.map fun y => if y.id = i.id then { y with blocks := y.blocks.erase b } else y } := by
  refine ⟨?_, ⟨_, State.oneField_putFld (s := s.withPipe p _) hs _ _ _, State.oneField_putFld ?_ _ _ _⟩, State.pipe_withPipe _ _ _⟩
  · exact (((s.sameBut_withPipe _ _).mono (by decide)).trans ((State.sameBut_putFld _ _ _ _).mono (by decide))).trans
      ((State.sameBut_putFld _ _ _ _).mono (by decide))
  · exact State.canonical_putFld (s := s.withPipe p _) hs _ _ _

theorem run_checkerCompare {n : Nat} {i : PipeInst} {b : Block} (hnext : s.nextBlock p n = some (i, b)) (crc : Nat) :
    M.run (checkerCompare p n crc) s = if crc ≠ b.crc then M.run (do
        bump (Reg.chkMismatch (checkerIndex b.checker)) Fld.chkMismatchCount 1
        pipeFault p i.num 0 b.engine b.checker b.index b.crc) (s.blockCompared p i b) else s.blockCompared p i b := by
  unfold checkerCompare
  rw [run_getS_bind, hnext]
  dsimp only
  rw [(modPipe_gives _ _ _).run_bind, (bump_gives _ _ _ _).run_bind, (bump_gives _ _ _ _).run_bind]
  split <;> rfl

theorem exec_checkerCompare {n : Nat} {i : PipeInst} {b : Block} (hnext : s.nextBlock p n = some (i, b))
    (hpresent : s.present b.checker = true) (crc : Nat) :
    exec (.checkerCompare p n crc) s = .next (M.run (checkerCompare p n crc) s) := by
  change execCheckerCompare p n crc s = _
  exact whenEnabled_next (by rw [hnext]; exact hpresent)

theorem exec_checkerCompare_refused {n : Nat} (hnext : s.nextBlock p n = none) (crc : Nat) : TurnedAway (.checkerCompare p n crc) s := by
  change execCheckerCompare p n crc s = _
  exact whenEnabled_refused (by rw [hnext])

/-! ## Faults of instances (R442, R446) -/

/-- The source that event 0x6001 names. -/
def faultSource (kind eng chk : Nat) : Nat := if kind = 0 then chk else if kind ≤ 3 ∧ eng < 0xFF then eng else 0x81

/-- The state after event 0x6001. -/
def State.faultRaised (s : State) (p num kind eng chk index crc : Nat) : State :=
  s.afterEvent (faultSource kind eng chk) (partOf (faultSource kind eng chk)) 0x6001
    (det [(1, p), (1, eng), (1, chk), (1, kind), (4, num), (4, index), (4, crc)])

/-- The instances after a fault of number `num`: its first fault is kept. -/
def PipeInst.marked (num kind : Nat) (i : PipeInst) : PipeInst :=
  if i.num = num ∧ i.fault.isNone then { i with fault := some kind } else i

/-- The state in which the first fault of number `num` has been counted. -/
def State.faultCounted (v : State) (p num kind : Nat) : State :=
  let a := (v.withPipe p { v.pipe p with insts := (v.pipe p).insts.map (PipeInst.marked num kind) }).putFld
    (Reg.safePipeStatus p) Fld.safePipeStatusLastFault num
  let b := a.putFld (Reg.safePipeCnt p) Fld.safePipeCntFaults
    (satAdd Fld.safePipeCntFaults.width (a.fld (Reg.safePipeCnt p) Fld.safePipeCntFaults) 1)
  b.withPipe p { b.pipe p with faulty := ((b.pipe p).faulty ++ [num]).drop ((b.pipe p).faulty.length + 1 - 128) }

/-- The first of the instances with a fault near number `num` (R446). -/
def State.faultNear (s : State) (p num : Nat) : Option Nat :=
  (s.pipe p).faulty.find? fun a => withinWindow a num (s.fld (Reg.safePipeChk p) Fld.safePipeChkDisWindow) ||
    withinWindow num a (s.fld (Reg.safePipeChk p) Fld.safePipeChkDisWindow)

section
variable {num : Nat} (hnew : (s.pipe p).faulty.contains num = false) (kind eng chk index crc : Nat)
include hnew

theorem run_pipeFault_alone (hnear : s.faultNear p num = none) :
    M.run (pipeFault p num kind eng chk index crc) s = (s.faultRaised p num kind eng chk index crc).faultCounted p num kind := by
  unfold State.faultNear at hnear
  unfold pipeFault
  rw [run_getS_bind]
  dsimp only
  rw [(raise_gives _ _ _ _ _).run_bind, (modPipe_gives _ _ _).run_bind, (wrFld_gives _ _ _ _).run_bind, if_pos (by rw [hnew]; rfl),
    (bump_gives _ _ _ _).run_bind, (modPipe_gives _ _ _).run_bind, hnear]
  rfl

theorem run_pipeFault_second {a : Nat} (hnear : s.faultNear p num = some a)
    (hwithin : withinWindow a num (s.fld (Reg.safePipeChk p) Fld.safePipeChkDisWindow) = true) :
    M.run (pipeFault p num kind eng chk index crc) s =
      M.run (enterSafe p 0 num a) ((s.faultRaised p num kind eng chk index crc).faultCounted p num kind) := by
  unfold State.faultNear at hnear
  unfold pipeFault
  rw [run_getS_bind]
  dsimp only
  rw [(raise_gives _ _ _ _ _).run_bind, (modPipe_gives _ _ _).run_bind, (wrFld_gives _ _ _ _).run_bind, if_pos (by rw [hnew]; rfl),
    (bump_gives _ _ _ _).run_bind, (modPipe_gives _ _ _).run_bind, hnear]
  dsimp only
  rw [if_pos hwithin]
  rfl

end

theorem safePipeStatus_ne_cnt (p q : Nat) : Reg.safePipeStatus p ≠ Reg.safePipeCnt q := by
  simp only [Reg.safePipeStatus, Reg.safePipeCnt]
  omega

theorem State.sameBut_faultCounted (v : State) (p num kind : Nat) : v.SameBut [.regs, .safe] (v.faultCounted p num kind) :=
  ((((v.sameBut_withPipe _ _).mono (by decide)).trans ((State.sameBut_putFld _ _ _ _).mono (by decide))).trans
    ((State.sameBut_putFld _ _ _ _).mono (by decide))).trans ((State.sameBut_withPipe _ _ _).mono (by decide))

section
variable {v : State} (hv : v.Canonical) (p num kind : Nat)

include hv in
theorem State.lastFault_faultCounted :
    (v.faultCounted p num kind).fld (Reg.safePipeStatus p) Fld.safePipeStatusLastFault = num % 2 ^ 32 := by
  have hw (x : Pipe) : (v.withPipe p x).Canonical := hv
  rw [State.faultCounted, State.fld_withPipe, State.fld_putFld_other (State.canonical_putFld (hw _) _ _ _) (safePipeStatus_ne_cnt p p)]
  exact fld_apply_same (hw _) _ _ _ (by decide)

include hv in
theorem State.faults_faultCounted : (v.faultCounted p num kind).fld (Reg.safePipeCnt p) Fld.safePipeCntFaults =
    satAdd Fld.safePipeCntFaults.width (v.fld (Reg.safePipeCnt p) Fld.safePipeCntFaults) 1 := by
  have hw (x : Pipe) : (v.withPipe p x).Canonical := hv
  rw [State.faultCounted, State.fld_withPipe, State.fld_bumped (State.canonical_putFld (hw _) _ _ _) (by decide),
    State.fld_putFld_other (hw _) (safePipeStatus_ne_cnt p p).symm, State.fld_withPipe]

theorem State.pipe_faultCounted : (v.faultCounted p num kind).pipe p =
    { v.pipe p with
        insts := (v.pipe p).insts.map (PipeInst.marked num kind)
        faulty := ((v.pipe p).faulty ++ [num]).drop ((v.pipe p).faulty.length + 1 - 128) } := by
  rw [State.faultCounted, State.pipe_withPipe, State.pipe_putFld, State.pipe_putFld, State.pipe_withPipe]

theorem State.mem_insts_faultCounted {i : PipeInst} (hi : i ∈ (v.pipe p).insts) (hnum : i.num = num) (hfault : i.fault = none) :
    { i with fault := some kind } ∈ ((v.faultCounted p num kind).pipe p).insts := by
  rw [State.pipe_faultCounted]
  refine List.mem_map.mpr ⟨i, hi, if_pos ⟨hnum, ?_⟩⟩
  rw [hfault]
  rfl

theorem State.mem_faulty_faultCounted : num ∈ ((v.faultCounted p num kind).pipe p).faulty := by
  rw [State.pipe_faultCounted]
  dsimp only
  rw [List.drop_append_of_le_length (by omega)]
  exact List.mem_append_right _ (List.mem_singleton_self num)

end

/-! ## Seals (R438) -/

section
variable {r base x : Nat} {b : HallBuf} (hx : x = signExtend48 (base % 2 ^ 48 / 64 * 64)) (hb : tblFind s.hall.bufs r = some b)
include hx hb

theorem run_sealEnable (hbase : b.base ≠ 0) (hin : s.inBuffer b.owner x b.sidecarBytes = true) (hclear : s.meetsHall b.owner x b.sidecarBytes = false) :
    M.run (sealEnable r base) s = { s with hall := { s.hall with bufs := tblSet s.hall.bufs r { b with sealed := true, sealBase := x } } } := by
  subst hx
  unfold sealEnable
  rw [run_getS_bind]
  dsimp only
  rw [hb]
  dsimp only
  have hgood : (b.base != 0 && s.inBuffer b.owner (signExtend48 (base % 2 ^ 48 / 64 * 64)) b.sidecarBytes &&
      !s.meetsHall b.owner (signExtend48 (base % 2 ^ 48 / 64 * 64)) b.sidecarBytes) = true := by
    rw [bne_iff_ne.mpr hbase, hin, hclear]
    rfl
  refine (congrArg (M.run · s) (if_pos hgood)).trans ?_
  exact congrArg (fun t => ({ s with hall := { s.hall with bufs := t } } : State)) (by rw [hb])

theorem run_sealEnable_refused (hmeets : s.meetsHall b.owner x b.sidecarBytes = true) :
    M.run (sealEnable r base) s = refusedWrite s Reg.safeSeal (base % 2 ^ 48 / 64 * 64 + 1) 0 := by
  subst hx
  unfold sealEnable
  rw [run_getS_bind]
  dsimp only
  rw [hb]
  dsimp only
  refine (congrArg (M.run · s) (if_neg ?_)).trans (run_refuseReg _ _ _ _)
  rw [hmeets, Bool.not_true, Bool.and_false]
  exact Bool.false_ne_true

end

/-! ## The gate (R444, R445) -/

section
variable {i : PipeInst}

theorem State.verdict_safe (h : s.pipeState p = 3) : s.verdict p i = (3, 0xFF) := if_pos h

theorem State.verdict_fault {k : Nat} (h : s.pipeState p ≠ 3) (hk : i.fault = some k) : s.verdict p i = (2, k) := by
  rw [State.verdict, if_neg h, hk]

theorem State.verdict_good (h : s.pipeState p = 1) (hk : i.fault = none) : s.verdict p i = (0, 0xFF) := by
  rw [State.verdict, if_neg (by omega), hk]
  exact if_pos h

theorem State.verdict_unverified (h : s.pipeState p = 2) (hk : i.fault = none) : s.verdict p i = (1, 0xFF) := by
  rw [State.verdict, if_neg (by omega), hk]
  exact if_neg (by omega)

/-- What is decided of the oldest of the instances up to its closing entry (R444–R446). -/
def gateRelease (p : Nat) (i : PipeInst) (v : Nat × Nat) (q : Nat) (x : Queue) : M (Except AppendErr Nat) := do
  let mine := x.ents.filter fun e => e.gate == some (p * 2 ^ 32 + i.num)
  modPipe p fun x => { x with insts := x.insts.map fun y => if y.id = i.id then { y with verdict := some v } else y }
  if v.1 = 2 then
    bump (Reg.safePipeCnt p) Fld.safePipeCntWithheld 1
    raise 0x81 6 0x6002 (det [(1, p), (1, v.2), (2, mine.length), (4, i.num), (8, i.stamp)])
  for e in mine do releaseEntry q p x i v e
  acceptEntry q 0 [] x.owner true none noKey none fun e => gateBytes e i.stamp i.num (v.1 + 4) p v.2

/-- What is decided of it after its closing entry: decided instances that nothing waits for leave the pipeline. -/
def gateClose (p q : Nat) : M Unit := do
  settleAll [.bind q]
  let s ← getS
  modPipe p fun x => { x with insts := x.insts.filter fun y =>
    y.verdict.isNone || (tblFind s.tally.instances y.id).isSome || !y.blocks.isEmpty }

/-- What follows the closing entry: a drop of one that the queue refused, then the close. -/
def gateAfter (p q : Nat) (r : Except AppendErr Nat) : M Unit := do
  match r with
  | .error .full => dropEvent q 0
  | .error .memory => dropEvent q 1
  | _ => pure ()
  gateClose p q

theorem run_decideInst {q : Nat} {x : Queue} (hq : q = s.fld (Reg.safePipeGate p) Fld.safePipeGateOutQueue) (hx : s.queue q = some x) :
    M.run (decideInst p i) s = M.run (gateRelease p i (s.verdict p i) q x >>= gateAfter p q) s := by
  subst hq
  unfold decideInst gateRelease
  rw [run_getS_bind]
  dsimp only
  rw [hx]
  split <;> rfl

theorem run_decideInst_closed {q r : Nat} {x : Queue} {u : State} (hq : q = s.fld (Reg.safePipeGate p) Fld.safePipeGateOutQueue)
    (hx : s.queue q = some x) (hrelease : (gateRelease p i (s.verdict p i) q x).gives s (.ok r) u) :
    M.run (decideInst p i) s = M.run (gateClose p q) u :=
  (run_decideInst hq hx).trans (hrelease.run_bind _)

variable (hnext : s.nextInst p = some i)
include hnext

theorem exec_gateDecision (hready : s.instReady p i = true) : exec (.gateDecision p i.num) s = .next (M.run (decideInst p i) s) := by
  have hrun : M.run (gateDecision p) s = M.run (decideInst p i) s := by
    unfold gateDecision
    rw [run_getS_bind, hnext]
  change execGateDecision p i.num s = _
  rw [← hrun]
  exact whenEnabled_next (by rw [hnext]; dsimp only; rw [hready, beq_self_eq_true]; rfl)

theorem exec_gateDecision_refused {num : Nat} (h : num ≠ i.num ∨ s.instReady p i = false) : TurnedAway (.gateDecision p num) s := by
  change execGateDecision p num s = _
  refine whenEnabled_refused ?_
  rw [hnext]
  dsimp only
  obtain h | h := h
  · rw [beq_eq_false_iff_ne.mpr h.symm, Bool.false_and]
  · rw [h, Bool.and_false]

theorem exec_gateDeadline_refused {num : Nat}
    (h : num ≠ i.num ∨ s.instReady p i = true ∨ s.clock.now < s.gateLimit p i + settleMargin) : TurnedAway (.gateDeadline p num) s := by
  change execGateDeadline p num s = _
  refine whenEnabled_refused ?_
  rw [hnext]
  dsimp only
  obtain h | h | h := h
  · rw [beq_eq_false_iff_ne.mpr h.symm, Bool.false_and, Bool.false_and]
  · rw [h, Bool.not_true, Bool.and_false, Bool.false_and]
  · rw [decide_eq_false (Nat.not_le.mpr h), Bool.and_false]

theorem exec_gateDeadline (hready : s.instReady p i = false) (hdue : s.gateLimit p i + settleMargin ≤ s.clock.now) :
    CompletesThen (.gateDeadline p i.num) s (gateDecision p) fun u => u = M.run (pipeFault p i.num 5 0xFF 0xFF 0 0) s := by
  refine completesThen_of rfl ?_
  change execGateDeadline p i.num s = _
  refine (whenEnabled_next ?_).trans (congrArg _ ?_)
  · rw [hnext]
    dsimp only
    rw [hready, beq_self_eq_true, decide_eq_true hdue]
    rfl
  · unfold gateDeadline
    rw [run_getS_bind, hnext]
    have hfault := (pipeFault_reach (msk := 0xFFFFFF) rfl p i.num 5 0xFF 0xFF 0 0).gives_run s
    exact hfault.run_bind _

end

/-! ### The bytes that the gate releases -/

theorem leAt_leBytes (k n : Nat) (b : List Byte) : leAt (leBytes k n ++ b) 0 k = n % 256 ^ k := by
  rw [leAt, List.drop_zero, List.take_left' (length_leBytes k n), leNat_leBytes]

theorem leAt_append {a b : List Byte} {n : Nat} (ha : a.length = n) (off k : Nat) : leAt (a ++ b) (n + off) k = leAt b off k := by
  subst ha
  rw [leAt, List.drop_length_add_append, leAt]

/-- The bytes that the gate sets behind an entry's CRC, and the entry's last 16 (R444). -/
def gateTail (e : List Byte) (stamp num v p r : Nat) : List Byte :=
  leBytes 8 stamp ++ (leBytes 4 num ++ (leBytes 1 v ++ (leBytes 1 p ++ (leBytes 1 r ++ (leBytes 1 0 ++ e.drop 48)))))

theorem leAt_gateTail (e : List Byte) (stamp num v p r : Nat) : leAt (gateTail e stamp num v p r) 0 8 = stamp % 256 ^ 8 ∧
    leAt (gateTail e stamp num v p r) 8 4 = num % 256 ^ 4 ∧ leAt (gateTail e stamp num v p r) 12 1 = v % 256 ^ 1 ∧
    leAt (gateTail e stamp num v p r) 13 1 = p % 256 ^ 1 ∧ leAt (gateTail e stamp num v p r) 14 1 = r % 256 ^ 1 := by
  have hstamp := leAt_append (b := leBytes 4 num ++ (leBytes 1 v ++ (leBytes 1 p ++ (leBytes 1 r ++ (leBytes 1 0 ++ e.drop 48)))))
    (length_leBytes 8 stamp)
  have hnum := leAt_append (b := leBytes 1 v ++ (leBytes 1 p ++ (leBytes 1 r ++ (leBytes 1 0 ++ e.drop 48)))) (length_leBytes 4 num)
  have hv := leAt_append (b := leBytes 1 p ++ (leBytes 1 r ++ (leBytes 1 0 ++ e.drop 48))) (length_leBytes 1 v)
  have hp := leAt_append (b := leBytes 1 r ++ (leBytes 1 0 ++ e.drop 48)) (length_leBytes 1 p)
  exact ⟨leAt_leBytes _ _ _, (hstamp 0 4).trans (leAt_leBytes _ _ _), (hstamp 4 1).trans ((hnum 0 1).trans (leAt_leBytes _ _ _)),
    (hstamp 5 1).trans ((hnum 1 1).trans ((hv 0 1).trans (leAt_leBytes _ _ _))),
    (hstamp 6 1).trans ((hnum 2 1).trans ((hv 1 1).trans ((hp 0 1).trans (leAt_leBytes _ _ _))))⟩

/-- The bytes that stand before the CRC: the entry's own, or zeros where it is withheld (R444). -/
def gateHead (e : List Byte) (v : Nat) : List Byte := if v % 4 = 2 ∨ v % 4 = 3 then zeros 28 else e.take 28

section
variable {e : List Byte} (he : e.length = 64)
include he

theorem length_gateHead (v : Nat) : (gateHead e v).length = 28 := by
  unfold gateHead zeros
  split
  · exact List.length_replicate
  · rw [List.length_take, he]
    rfl

theorem gateBytes_eq (stamp num v p r : Nat) : gateBytes e stamp num v p r = gateHead e v ++
    (leBytes 4 (crc32c (gateHead e v ++ gateTail e stamp num v p r)) ++ gateTail e stamp num v p r) := by
  have htake : padTo 28 e = e.take 28 := by rw [padTo, List.take_append_of_le_length (by omega)]
  have hpad : padTo 64 e = e := by rw [padTo_of_le he.le, he, Nat.sub_self, zeros, List.replicate_zero, List.append_nil]
  unfold gateBytes gateHead gateTail
  rw [htake, hpad]
  simp only [List.append_assoc]

/-- The bytes of an entry as the gate releases it: head, CRC over the rest, stamp, number, verdict, pipeline, reason, tail (R444). -/
theorem gateBytes_spec {p : Nat} (hp : p < 32) (stamp num v r : Nat) :
    (gateBytes e stamp num v p r).length = 64 ∧
    (gateBytes e stamp num v p r).take 28 = (if v % 4 = 2 ∨ v % 4 = 3 then zeros 28 else e.take 28) ∧
    (gateBytes e stamp num v p r).drop 48 = e.drop 48 ∧
    leAt (gateBytes e stamp num v p r) 28 4 =
      crc32c ((gateBytes e stamp num v p r).take 28 ++ (gateBytes e stamp num v p r).drop 32) % 2 ^ 32 ∧
    leAt (gateBytes e stamp num v p r) 32 8 = stamp % 2 ^ 64 ∧ leAt (gateBytes e stamp num v p r) 40 4 = num % 2 ^ 32 ∧
    leAt (gateBytes e stamp num v p r) 44 1 = v % 256 ∧ leAt (gateBytes e stamp num v p r) 45 1 = p ∧
    leAt (gateBytes e stamp num v p r) 46 1 = r % 256 := by
  have hhead := length_gateHead he v
  have hdrop : (leBytes 8 stamp ++ (leBytes 4 num ++ (leBytes 1 v ++ (leBytes 1 p ++ (leBytes 1 r ++ leBytes 1 0))))).length = 16 := by
    simp only [List.length_append, length_leBytes]
  have htail : gateTail e stamp num v p r =
      (leBytes 8 stamp ++ (leBytes 4 num ++ (leBytes 1 v ++ (leBytes 1 p ++ (leBytes 1 r ++ leBytes 1 0))))) ++ e.drop 48 := by
    simp only [gateTail, List.append_assoc]
  have hlen : (gateTail e stamp num v p r).length = 32 := by rw [htail, List.length_append, hdrop, List.length_drop, he]
  obtain ⟨hstamp, hnum, hv, hpipe, hr⟩ := leAt_gateTail e stamp num v p r
  have hfront (c off k : Nat) : leAt (gateHead e v ++ (leBytes 4 c ++ gateTail e stamp num v p r)) (32 + off) k =
      leAt (gateTail e stamp num v p r) off k := by
    rw [show 32 + off = 28 + (4 + off) by omega, leAt_append hhead, leAt_append (length_leBytes 4 c)]
  have hback (c off : Nat) : (gateHead e v ++ (leBytes 4 c ++ gateTail e stamp num v p r)).drop (32 + off) =
      (gateTail e stamp num v p r).drop off := by
    rw [← List.append_assoc, show 32 + off = (gateHead e v ++ leBytes 4 c).length + off by rw [List.length_append, hhead, length_leBytes],
      List.drop_length_add_append]
  rw [gateBytes_eq he, List.take_left' hhead]
  refine ⟨by rw [List.length_append, List.length_append, hhead, length_leBytes, hlen], rfl, ?_, ?_, (hfront _ 0 8).trans hstamp,
    (hfront _ 8 4).trans hnum, ?_, ?_, ?_⟩
  · rw [show 48 = 32 + 16 from rfl, hback, htail, List.drop_left' hdrop]
  · rw [show 32 = 32 + 0 from rfl, hback, List.drop_zero]
    exact (leAt_append hhead 0 4).trans (leAt_leBytes _ _ _)
  · exact (hfront _ 12 1).trans hv
  · exact (hfront _ 13 1).trans (hpipe.trans (Nat.mod_eq_of_lt (by omega)))
  · exact (hfront _ 14 1).trans hr

end

end

/-- Settles O51, clause by clause: each command's run first, then what the resulting state shows. -/
theorem pipelinesJudgeTheirInstancesAndGateThem : Obligations.PipelinesJudgeTheirInstancesAndGateThem := by
  unfold Obligations.PipelinesJudgeTheirInstancesAndGateThem
  intro s p hs hp cfg st state pins
  refine ⟨?_, ?_, ?_, ?_, ?_, ?_, ?_, ?_, ?_, ?_, ?_, ?_, ?_, ?_, ?_⟩
  case refine_1 =>
    intro w r b hw hr
    exact ⟨exec_safeClear hp (run_safeWrite_refused hw _ _ _ _), exec_safeEnter hp (run_safeWrite_refused hw _ _ _ _),
      exec_pipelineEnable hp (run_safeWrite_refused hw _ _ _ _), exec_sealEnable hr (run_safeWrite_refused hw _ _ _ _)⟩
  case refine_2 => exact fun hon => exec_pipelineEnable hp (run_pipelineEnable_on hon)
  case refine_3 => exact fun hon hbad => exec_pipelineEnable hp (run_pipelineEnable_bad hon hbad)
  case refine_4 =>
    intro hon hgood hstate
    exact ⟨s.pipeEnabled p, exec_pipelineEnable hp (run_pipelineEnable hs hp hon hgood hstate), s.sameBut_pipeEnabled p,
      State.pipeOn_pipeEnabled hs hp, State.pipeState_pipeEnabled hs p, s.pipe_pipeEnabled p, fun x hcfg hst => State.reg_pipeEnabled hs hcfg hst⟩
  case refine_5 => exact fun h => exec_safeEnter hp (run_enterSafe_off h _ _ _)
  case refine_6 =>
    intro num hon hstate hnum
    subst hnum
    obtain ⟨hsame, hfield, hpipe⟩ := State.safeEntered_spec hs p
    exact ⟨s.safeEntered p, _, hsame, hfield, hpipe, rfl, exec_safeEnter hp (run_enterSafe_on hon hstate _ _ _),
      fun hpin => State.safeReported_pinLow hs hp hpin _ _ _⟩
  case refine_7 => exact fun hstate => exec_safeClear hp (run_safeClear_off hstate)
  case refine_8 => exact fun hstate hdue => exec_safeClear hp (run_safeClear_refused hstate hdue)
  case refine_9 =>
    intro hstate hdue
    exact ⟨s.safeCleared p, _, ((s.sameBut_putFld _ _ _).mono (by decide)).upd (.safe _) rfl, State.oneField_putFld hs _ _ _,
      State.pipe_withPipe _ _ _, rfl, exec_safeClear hp (run_safeClear hstate hdue)⟩
  case refine_10 =>
    intro n i b hnext hpresent hchecker crc chk compared
    have hcompared : compared (s.blockCompared p i b) := State.blockCompared_spec hs i b
    have hexec := exec_checkerCompare hnext hpresent crc
    rw [run_checkerCompare hnext crc] at hexec
    exact ⟨fun h => ⟨_, hexec.trans (congrArg _ (if_neg (not_not.mpr h))), hcompared⟩,
      fun h => completesThen_of hcompared (hexec.trans (congrArg _ (if_pos h)))⟩
  case refine_11 => exact fun n crc hnext => exec_checkerCompare_refused hnext crc
  case refine_12 =>
    intro num kind eng chk index crc src hsrc hnew
    subst hsrc
    have hq := s.afterEvent_quiet (faultSource kind eng chk) (partOf (faultSource kind eng chk)) 0x6001
      (det [(1, p), (1, eng), (1, chk), (1, kind), (4, num), (4, index), (4, crc)])
    have hv : (s.faultRaised p num kind eng chk index crc).Canonical := (raise_gives _ _ _ _ _).canonical hs
    refine ⟨(s.faultRaised p num kind eng chk index crc).faultCounted p num kind, State.sameBut_faultCounted _ _ _ _,
      State.lastFault_faultCounted hv _ _ _, ?_, ?_, State.mem_faulty_faultCounted _ _ _, ?_, ?_⟩
    · exact (State.faults_faultCounted hv _ _ _).trans (congrArg (satAdd _ · 1) (hq.fld _ _))
    · exact fun i hi hnum hfault => State.mem_insts_faultCounted _ _ _ (by rwa [State.faultRaised, hq.pipe]) hnum hfault
    · intro hfar
      refine run_pipeFault_alone hnew _ _ _ _ _ (List.find?_eq_none.mpr fun a ha => ?_)
      obtain ⟨hafter, hbefore⟩ := hfar a ha _ rfl
      rw [hafter, hbefore]
      decide
    · intro a w hw hfaulty hwithin
      subst hw
      refine run_pipeFault_second hnew _ _ _ _ _ ?_ hwithin
      rw [State.faultNear, hfaulty, List.find?_cons_of_pos]
      rw [hwithin, Bool.true_or]
  case refine_13 =>
    intro r b base x hr hx hb
    refine ⟨?_, fun hmeets => exec_sealEnable hr (run_sealEnable_refused hx hb hmeets)⟩
    rintro ⟨hbase, hin, hclear⟩
    exact ⟨_, exec_sealEnable hr (run_sealEnable hx hb hbase hin hclear), Upd.sameBut (.hall fun _ => _) s, rfl⟩
  case refine_14 =>
    intro i hnext
    refine ⟨State.verdict_safe, fun k => State.verdict_fault, fun hfault => ⟨fun h => State.verdict_good h hfault,
      fun h => State.verdict_unverified h hfault⟩, ?_, ?_, exec_gateDeadline hnext, ?_, ?_⟩
    · intro q x v r u hq hx hv hready hrelease
      subst hv
      exact completesThen_of rfl ((exec_gateDecision hnext hready).trans (congrArg _ (run_decideInst_closed hq hx hrelease)))
    · exact fun num hnum => ⟨exec_gateDecision_refused hnext (.inl hnum), exec_gateDeadline_refused hnext (.inl hnum)⟩
    · exact fun h => exec_gateDeadline_refused hnext (.inr h)
    · exact fun h => exec_gateDecision_refused hnext (.inr h)
  case refine_15 => exact fun e stamp num v r he => gateBytes_spec he hp stamp num v r

end Sys2Proof.Machine
end

section
/-! PROOFS. Belay windows and cairns judge in time: O52 (R449–R453, R405). -/

namespace Sys2Proof.Machine

open Sys2Proof

section
variable {s : State}

/-! ## The tables of windows and cairns -/

/-- The state with belay window `w` replaced. -/
def State.withBelay (s : State) (w : Nat) (v : Belay) : State := (Upd.safe fun x => { x with belays := tblSet x.belays w v }).apply s

theorem modBelay_gives (w : Nat) (f : Belay → Belay) (s : State) : (modBelay w f).gives s () (s.withBelay w (f (s.belay w))) := fun _ => rfl

theorem State.sameBut_withBelay (s : State) (w : Nat) (v : Belay) : s.SameBut [.safe] (s.withBelay w v) := Upd.sameBut _ s

theorem State.belay_withBelay_same (s : State) (w : Nat) (v : Belay) : (s.withBelay w v).belay w = v := tblGet_tblSet_same _ _ _ _

theorem State.belay_withBelay (s : State) {w x : Nat} (v : Belay) (h : x ≠ w) : (s.withBelay w v).belay x = s.belay x := tblGet_tblSet _ _ _ h

/-- The state with cairn `c` replaced. -/
def State.withCairn (s : State) (c : Nat) (v : Cairn) : State := (Upd.safe fun x => { x with cairns := tblSet x.cairns c v }).apply s

theorem modCairn_gives (c : Nat) (f : Cairn → Cairn) (s : State) : (modCairn c f).gives s () (s.withCairn c (f (s.cairn c))) := fun _ => rfl

theorem State.sameBut_withCairn (s : State) (c : Nat) (v : Cairn) : s.SameBut [.safe] (s.withCairn c v) := Upd.sameBut _ s

theorem State.canonical_withCairn (hs : s.Canonical) (c : Nat) (v : Cairn) : (s.withCairn c v).Canonical := hs

theorem State.cairn_withCairn (s : State) (c : Nat) (v : Cairn) : (s.withCairn c v).cairn c = v := tblGet_tblSet_same _ _ _ _

/-! ## Belay windows (R449–R451) -/

section
variable {w : Nat}

section
variable {r : Requester} {t : State} (hw : w < 256)
include hw

theorem exec_belayEnable (h : M.run (safeWrite r Reg.safeBwCfg 1 (belayEnable w)) s = t) : exec (.belayEnable r w) s = .next t := by
  change execBelayEnable r w s = _
  exact h ▸ whenEnabled_next (decide_eq_true hw)

theorem exec_belayArm (h : M.run (safeWrite r Reg.safeBwCmd 1 (belayArm w)) s = t) : exec (.belayArm r w) s = .next t := by
  change execBelayArm r w s = _
  exact h ▸ whenEnabled_next (decide_eq_true hw)

theorem exec_belayDisarm (h : M.run (safeWrite r Reg.safeBwCmd 2 (modBelay w fun x => { x with armed := false })) s = t) :
    exec (.belayDisarm r w) s = .next t := by
  change execBelayDisarm r w s = _
  exact h ▸ whenEnabled_next (decide_eq_true hw)

end

/-- Whether a window in mode 1 watches another graph than its pipeline's (R450). -/
def State.belayStrays (s : State) (w : Nat) : Prop :=
  fieldOf (s.belay w).cfg Fld.safeBwCfgMode = 1 ∧
    fieldOf (s.belay w).cfg Fld.safeBwCfgTmpl ≠ s.fld (Reg.safePipeCfg (fieldOf (s.belay w).cfg Fld.safeBwCfgPipe)) Fld.safePipeCfgTmpl

theorem run_belayEnable_on (hon : fieldOf (s.belay w).cfg Fld.safeBwCfgEnable = 1) : M.run (belayEnable w) s = s := by
  unfold belayEnable
  rw [run_getS_bind]
  dsimp only
  rw [if_pos hon]
  rfl

theorem run_belayEnable_strays (hon : fieldOf (s.belay w).cfg Fld.safeBwCfgEnable ≠ 1) (hstrays : s.belayStrays w) :
    M.run (belayEnable w) s = refusedWrite s Reg.safeBwCfg ((s.belay w).cfg.toNat + 1) 0 := by
  unfold State.belayStrays at hstrays
  unfold belayEnable
  rw [run_getS_bind]
  dsimp only
  rw [if_neg hon, if_pos hstrays]
  exact run_refuseReg _ _ _ _

theorem run_belayEnable (hon : fieldOf (s.belay w).cfg Fld.safeBwCfgEnable ≠ 1) (hstrays : ¬ s.belayStrays w) :
    M.run (belayEnable w) s = s.withBelay w { s.belay w with cfg := setBits (s.belay w).cfg 0 1 1, created := none } := by
  unfold State.belayStrays at hstrays
  unfold belayEnable
  rw [run_getS_bind]
  dsimp only
  rw [if_neg hon, if_neg hstrays]
  exact (modBelay_gives _ _ _).run

theorem run_belayArm_armed (harmed : (s.belay w).armed = true) : M.run (belayArm w) s = s := by
  unfold belayArm
  rw [run_getS_bind, if_pos harmed]
  rfl

theorem run_belayArm (harmed : (s.belay w).armed = false) :
    M.run (belayArm w) s = s.withBelay w { s.belay w with armed := true, late := (s.belay w).created == some s.clock.now } := by
  unfold belayArm
  rw [run_getS_bind, if_neg (by rw [harmed]; decide)]
  exact (modBelay_gives _ _ _).run

variable {d : BelayDue} {rest : List BelayDue} (hdue : (s.belay w).due = d :: rest)
include hdue

theorem exec_belayWindowDecision (h : d.ended.isSome = true ∨ d.closes + settleMargin ≤ (s.clock.now : Int)) :
    exec (.belayWindowDecision w) s = .next (M.run (belayWindowDecision w) s) := by
  change execBelayWindowDecision w s = _
  refine whenEnabled_next ?_
  rw [State.belayDecidable, hdue]
  exact Bool.or_eq_true_iff.mpr (h.imp id fun h => decide_eq_true h)

theorem exec_belayWindowDecision_refused (hended : d.ended = none) (hearly : (s.clock.now : Int) < d.closes + settleMargin) :
    TurnedAway (.belayWindowDecision w) s := by
  change execBelayWindowDecision w s = _
  refine whenEnabled_refused ?_
  rw [State.belayDecidable, hdue]
  exact Bool.or_eq_false_iff.mpr ⟨by rw [hended]; rfl, decide_eq_false (Int.not_le.mpr hearly)⟩

/-- The state in which the oldest judgement of window `w` is made. -/
def State.belayJudged (s : State) (w : Nat) (d : BelayDue) (rest : List BelayDue) : State :=
  s.withBelay w { s.belay w with due := rest, result := d.result, inst := d.num }

theorem run_belayWindowDecision_within (hr : d.result = 1) : M.run (belayWindowDecision w) s = s.belayJudged w d rest := by
  unfold belayWindowDecision
  rw [run_getS_bind]
  dsimp only
  rw [hdue]
  dsimp only
  rw [(modBelay_gives _ _ _).run_bind, if_neg (not_not.mpr hr)]
  rfl

theorem run_belayWindowDecision_fault (hr : d.result ≠ 1) (hmode : fieldOf (s.belay w).cfg Fld.safeBwCfgMode = 1) :
    M.run (belayWindowDecision w) s =
      M.run (pipeFault (fieldOf (s.belay w).cfg Fld.safeBwCfgPipe) d.num 4 0xFF 0xFF w 0) (s.belayJudged w d rest) := by
  unfold belayWindowDecision
  rw [run_getS_bind]
  dsimp only
  rw [hdue]
  dsimp only
  rw [(modBelay_gives _ _ _).run_bind, if_pos hr, if_pos hmode]
  rfl

/-- Whether a window watches a slot graph. -/
def State.belaySlot (s : State) (w : Nat) : Bool :=
  ((tblFind s.tally.graphs (fieldOf (s.belay w).cfg Fld.safeBwCfgTmpl)).map fun g => g.cadence == 2).getD false

theorem run_belayWindowDecision_monitor (hr : d.result ≠ 1) (hmode : fieldOf (s.belay w).cfg Fld.safeBwCfgMode ≠ 1) :
    M.run (belayWindowDecision w) s = (s.belayJudged w d rest).afterEvent 0x81 (if s.belaySlot w then 5 else 6)
      (if s.belaySlot w then 0x5C01 else 0x5E01) (det [(4, w), (4, d.num), (8, d.closes.toNat)]) := by
  unfold belayWindowDecision
  rw [run_getS_bind]
  dsimp only
  rw [hdue]
  dsimp only
  rw [(modBelay_gives _ _ _).run_bind, if_pos hr, if_neg hmode]
  unfold State.belaySlot
  split <;> rfl

end

theorem exec_belayWindowDecision_idle {w : Nat} (hdue : (s.belay w).due = []) : TurnedAway (.belayWindowDecision w) s := by
  change execBelayWindowDecision w s = _
  refine whenEnabled_refused ?_
  rw [State.belayDecidable, hdue]

/-! ## Covered pipelines wait for a cairn (R453) -/

theorem settlePipe_leads (p : Nat) (s : State) : (settlePipe p).Leads s fun _ t => s.SameBut [.regs] t := by
  unfold settlePipe
  refine .getS ?_
  split
  · exact (wrFld_gives _ _ _ _).leads (s.sameBut_putFld _ _ _)
  · exact .pure (.refl _ _)

theorem safePipeStatus_inj {p q : Nat} (h : q ≠ p) : Reg.safePipeStatus q ≠ Reg.safePipeStatus p := by
  simp only [Reg.safePipeStatus]
  omega

/-- The pipelines of a list wait for cairn `c`, and count as unverified outside safe state. -/
structure State.Awaits (s : State) (c : Nat) (l : List Nat) (t : State) : Prop where
  same : s.SameBut [.regs, .safe] t
  cairns : t.safe.cairns = s.safe.cairns
  on : ∀ q < 32, t.pipeOn q = s.pipeOn q
  due : ∀ q, (t.pipe q).due = if q ∈ l then (s.pipe q).due ++ [c] else (s.pipe q).due
  state : ∀ q < 32, t.pipeState q = if q ∈ l ∧ s.pipeState q ≠ 3 then 2 else s.pipeState q

section
variable {p c : Nat}

/-- The state in which pipeline `p` waits for cairn `c` as well. -/
def State.awaiting (s : State) (p c : Nat) : State :=
  let u := s.withPipe p { s.pipe p with due := (s.pipe p).due ++ [c] }
  if s.pipeState p = 3 then u else u.putFld (Reg.safePipeStatus p) Fld.safePipeStatusState 2

theorem await_gives (hon : s.pipeOn p = true) : M.gives (do
    modPipe p fun y => { y with due := y.due ++ [c] }
    settlePipe p) s () (s.awaiting p c) := by
  refine (modPipe_gives _ _ _).bind (.getS_bind ?_)
  unfold State.awaiting
  by_cases hstate : s.pipeState p = 3
  · rw [if_pos hstate]
    exact .ite_neg (fun h => h.2 hstate) _ (pure_gives _ _)
  · rw [if_neg hstate]
    refine .ite_pos ⟨hon, hstate⟩ _ ?_
    have hdue : ((s.withPipe p { s.pipe p with due := (s.pipe p).due ++ [c] }).pipe p).due.isEmpty = false := by
      rw [State.pipe_withPipe]
      simp
    rw [hdue]
    exact wrFld_gives _ _ _ _

theorem State.canonical_awaiting (hs : s.Canonical) (p c : Nat) : (s.awaiting p c).Canonical := by
  unfold State.awaiting
  split
  · exact hs
  · exact State.canonical_putFld (State.canonical_withPipe hs _ _) _ _ _

theorem State.pipe_awaiting (s : State) (p c q : Nat) :
    (s.awaiting p c).pipe q = (s.withPipe p { s.pipe p with due := (s.pipe p).due ++ [c] }).pipe q := by
  unfold State.awaiting
  split
  · rfl
  · exact State.pipe_putFld _ _ _ _ _

theorem State.reg_awaiting (hs : s.Canonical) {x : Nat} (hx : x ≠ Reg.safePipeStatus p) : (s.awaiting p c).reg x = s.reg x := by
  unfold State.awaiting
  split
  · rfl
  · rw [State.reg_putFld (State.canonical_withPipe hs _ _), if_neg hx, State.reg_withPipe]

theorem State.pipeState_awaiting (hs : s.Canonical) (p c : Nat) : (s.awaiting p c).pipeState p = if s.pipeState p = 3 then 3 else 2 := by
  unfold State.awaiting
  split
  case isTrue h => exact h
  case isFalse h => rw [State.pipeState, State.fld_putFld_same (State.canonical_withPipe hs _ _) (by decide) (by decide)]

theorem State.awaits_awaiting (hs : s.Canonical) (hp : p < 32) : s.Awaits c [p] (s.awaiting p c) where
  same := by
    unfold State.awaiting
    split
    · exact (s.sameBut_withPipe _ _).mono (by decide)
    · exact ((s.sameBut_withPipe _ _).mono (by decide)).trans ((State.sameBut_putFld _ _ _ _).mono (by decide))
  cairns := by
    unfold State.awaiting
    split <;> rfl
  on q hq := by rw [State.pipeOn, State.flag, State.fld, State.reg_awaiting hs (safePipeCfg_ne_status hq hp), State.pipeOn, State.flag, State.fld]
  due q := by
    rw [State.pipe_awaiting]
    by_cases hq : q = p
    · rw [hq, State.pipe_withPipe, if_pos (List.mem_singleton_self p)]
    · rw [if_neg (by simpa using hq)]
      exact congrArg Pipe.due (tblGet_tblSet _ _ _ hq)
  state q _ := by
    by_cases hq : q = p
    · rw [hq, State.pipeState_awaiting hs]
      by_cases hstate : s.pipeState p = 3 <;> simp [hstate]
    · rw [State.pipeState, State.fld, State.reg_awaiting hs (safePipeStatus_inj hq), if_neg (by simp [hq]), State.pipeState, State.fld]

theorem State.Awaits.nil (s : State) (c : Nat) : s.Awaits c [] s := ⟨.refl _ _, rfl, fun _ _ => rfl, fun _ => rfl, fun _ _ => rfl⟩

theorem State.Awaits.cons {l : List Nat} {t u : State} (hp : p ∉ l) (h : s.Awaits c [p] t) (k : t.Awaits c l u) : s.Awaits c (p :: l) u where
  same := h.same.trans k.same
  cairns := k.cairns.trans h.cairns
  on q hq := (k.on q hq).trans (h.on q hq)
  due q := by
    rw [k.due, h.due]
    by_cases hq : q = p
    · rw [hq, if_neg hp, if_pos (List.mem_singleton_self p), if_pos List.mem_cons_self]
    · simp only [List.mem_cons, hq, List.not_mem_nil, or_false, false_or, if_false]
  state q hq := by
    rw [k.state q hq, h.state q hq]
    by_cases hqp : q = p
    · simp [hqp, hp]
    · simp [hqp]

theorem awaitAll_leads (l : List Nat) (hs : s.Canonical) (hnodup : l.Nodup) (hl : ∀ p ∈ l, p < 32 ∧ s.pipeOn p = true) :
    M.Leads (do
      for p in l do
        modPipe p fun y => { y with due := y.due ++ [c] }
        settlePipe p) s fun _ t => s.Awaits c l t := by
  induction l generalizing s with
  | nil => exact .pure (.nil s c)
  | cons p l ih =>
    obtain ⟨hp, hnodup⟩ := List.nodup_cons.mp hnodup
    obtain ⟨hlt, hon⟩ := hl p List.mem_cons_self
    have hstep := State.awaits_awaiting (c := c) hs hlt
    rw [List.forIn_cons]
    refine ((await_gives hon).bind (pure_gives _ _)).leads_bind ((ih (State.canonical_awaiting hs p c) hnodup fun q hq => ?_).mono
      fun _ _ hu => .cons hp hstep hu)
    obtain ⟨hqlt, hqon⟩ := hl q (List.mem_cons_of_mem p hq)
    exact ⟨hqlt, (hstep.on q hqlt).trans hqon⟩

end

theorem State.coveredPipes_congr {t : State} {c : Nat} (hcfg : fieldOf (t.cairn c).cfg Fld.safeCairnCfgPipeMask = fieldOf (s.cairn c).cfg Fld.safeCairnCfgPipeMask)
    (hregs : t.regs = s.regs) : t.coveredPipes c = s.coveredPipes c := by
  have hon (p : Nat) : t.pipeOn p = s.pipeOn p := congrArg (· != 0) (fld_congr hregs _ _)
  simp only [State.coveredPipes, hcfg, hon]

theorem State.mem_coveredPipes {p c : Nat} (h : p ∈ s.coveredPipes c) : p < 32 ∧ s.pipeOn p = true := by
  obtain ⟨hp, hc⟩ := List.mem_filter.mp h
  exact ⟨List.mem_range.mp hp, (Bool.and_eq_true_iff.mp hc).1⟩

theorem State.nodup_coveredPipes (s : State) (c : Nat) : (s.coveredPipes c).Nodup := List.nodup_range.filter _

/-! ## Cairns are enabled (R452, R453) -/

section
variable {c : Nat}

theorem exec_cairnEnable {r : Requester} {t : State} (hc : c < 16) (h : M.run (safeWrite r Reg.safeCairnCfg 1 (cairnEnable c)) s = t) :
    exec (.cairnEnable r c) s = .next t := by
  change execCairnEnable r c s = _
  exact h ▸ whenEnabled_next (decide_eq_true hc)

theorem run_cairnEnable_on (hon : fieldOf (s.cairn c).cfg Fld.safeCairnCfgEnable = 1) : M.run (cairnEnable c) s = s := by
  unfold cairnEnable
  rw [run_getS_bind]
  dsimp only
  rw [if_pos hon]
  rfl

theorem run_cairnEnable_absent (hon : fieldOf (s.cairn c).cfg Fld.safeCairnCfgEnable ≠ 1)
    (hg : tblFind s.tally.graphs (fieldOf (s.cairn c).cfg Fld.safeCairnCfgTmpl) = none) :
    M.run (cairnEnable c) s = refusedWrite s Reg.safeCairnCfg ((s.cairn c).cfg.toNat + 1) 0 := by
  unfold cairnEnable
  rw [run_getS_bind]
  dsimp only
  rw [if_neg hon, hg]
  exact run_refuseReg _ _ _ _

/-- Whether a graph may be a cairn's template (R452). -/
def State.cairnFits (s : State) (g : Graph) : Bool :=
  g.cadence == 0 && ((s.ctx g.owner).map (·.safety)).getD false && (cairnKinds g).isSome && g.tasks.length ≤ s.storeFree && g.localKeys ≤ s.boardFree

theorem run_cairnEnable_unfit {g : Graph} (hon : fieldOf (s.cairn c).cfg Fld.safeCairnCfgEnable ≠ 1)
    (hg : tblFind s.tally.graphs (fieldOf (s.cairn c).cfg Fld.safeCairnCfgTmpl) = some g) (hfits : s.cairnFits g = false) :
    M.run (cairnEnable c) s = refusedWrite s Reg.safeCairnCfg ((s.cairn c).cfg.toNat + 1) 0 := by
  unfold State.cairnFits at hfits
  unfold cairnEnable
  rw [run_getS_bind]
  dsimp only
  rw [if_neg hon, hg]
  refine (congrArg (M.run · s) (if_pos ?_)).trans (run_refuseReg _ _ _ _)
  dsimp only
  rw [hfits]
  rfl

/-- The state in which cairn `c` is enabled, before covered pipelines wait for it. -/
def State.cairnSet (s : State) (c : Nat) : State :=
  s.withCairn c { s.cairn c with cfg := setBits (s.cairn c).cfg 0 1 1, since := s.clock.now, n := 0, run := none }

theorem cairnEnable_leads {g : Graph} (hs : s.Canonical) (hon : fieldOf (s.cairn c).cfg Fld.safeCairnCfgEnable ≠ 1)
    (hg : tblFind s.tally.graphs (fieldOf (s.cairn c).cfg Fld.safeCairnCfgTmpl) = some g) (hfits : s.cairnFits g = true) :
    (cairnEnable c).Leads s fun _ t => (s.cairnSet c).Awaits c (s.coveredPipes c) t := by
  have hcovered : (s.cairnSet c).coveredPipes c = s.coveredPipes c := by
    refine State.coveredPipes_congr ?_ rfl
    rw [State.cairnSet, State.cairn_withCairn]
    exact getBits_setBits_apart _ _ (by decide)
  have hset : (s.cairnSet c).Canonical := State.canonical_withCairn hs _ _
  have hall := awaitAll_leads (c := c) ((s.cairnSet c).coveredPipes c) hset (State.nodup_coveredPipes _ _) fun p hp => State.mem_coveredPipes hp
  rw [← hcovered]
  unfold State.cairnFits at hfits
  unfold cairnEnable
  refine .getS ?_
  rw [if_neg hon, hg]
  dsimp only
  rw [if_neg (by rw [hfits]; decide)]
  exact (modCairn_gives _ _ _).leads_bind (.getS hall)

theorem State.cairnEnabled_spec {t : State} (h : (s.cairnSet c).Awaits c (s.coveredPipes c) t) : s.SameBut [.regs, .safe] t ∧
    t.cairn c = { s.cairn c with cfg := setBits (s.cairn c).cfg 0 1 1, since := s.clock.now, n := 0, run := none } ∧
    ∀ p ∈ s.coveredPipes c, (t.pipe p).due = (s.pipe p).due ++ [c] ∧ t.pipeState p = if s.pipeState p = 3 then 3 else 2 := by
  refine ⟨((s.sameBut_withCairn _ _).mono (by decide)).trans h.same, ?_, fun p hp => ⟨(h.due p).trans (if_pos hp), ?_⟩⟩
  · rw [State.cairn, h.cairns]
    exact s.cairn_withCairn _ _
  · rw [h.state p (State.mem_coveredPipes hp).1]
    by_cases hstate : s.pipeState p = 3
    · exact (if_neg fun h => h.2 hstate).trans (hstate.trans (if_pos hstate).symm)
    · exact (if_pos ⟨hp, hstate⟩).trans (if_neg hstate).symm

/-! ## Cairns run when they are due (R452, R453) -/

/-- The state in which a due run of cairn `c` has been counted, and skipped or not. -/
def State.cairnCounted (s : State) (c : Nat) (skipped : Bool) : State :=
  (s.withCairn c { s.cairn c with n := (s.cairn c).n + 1 }).withCairn c { s.cairn c with n := (s.cairn c).n + 1, skipped := skipped }

theorem State.cairnCounted_spec (s : State) (c : Nat) (skipped : Bool) : s.SameBut [.safe] (s.cairnCounted c skipped) ∧
    (s.cairnCounted c skipped).cairn c = { s.cairn c with n := (s.cairn c).n + 1, skipped := skipped } :=
  ⟨(s.sameBut_withCairn _ _).trans (State.sameBut_withCairn _ _ _), State.cairn_withCairn _ _ _⟩

/-- How a cairn is created on the engines of its kinds (R452). -/
def cairnStart (c g id due : Nat) (es : List Nat) : M Unit := do
  for e in es do reserveStall e id
  let num ← countInstance g
  match ← createInstance g num due 0 with
  | .ok i => modCairn c fun x => { x with
      runs := satAdd 32 x.runs 1
      run := if x.run.isSome then x.run else some ⟨i, due, false, 0, []⟩ }
  | .error _ => do
    update (.engines fun t => t.map fun e => if e.2.reserved = some id then (e.1, { e.2 with reserved := none }) else e)
    cairnMissed c 1 due

section
variable {ks es : List Nat} (hks : (tblFind s.tally.graphs (fieldOf (s.cairn c).cfg Fld.safeCairnCfgTmpl)).bind cairnKinds = some ks)
  (hes : es = ks.filterMap fun k => (enginesOf k).find? s.present)
include hks hes

theorem run_cairnDue_skipped (hfew : es.length < ks.length) : M.run (cairnDue c) s = s.cairnCounted c true := by
  subst hes
  unfold cairnDue
  rw [run_getS_bind]
  dsimp only
  rw [(modCairn_gives _ _ _).run_bind, hks]
  dsimp only
  rw [if_pos hfew, (modCairn_gives _ _ _).run, State.cairn_withCairn]
  rfl

theorem run_cairnDue_live (hall : es.length = ks.length) (hlive : s.liveInstances (fieldOf (s.cairn c).cfg Fld.safeCairnCfgTmpl) ≠ []) :
    M.run (cairnDue c) s = M.run (cairnMissed c 1 (s.cairnDue c)) (s.cairnCounted c false) := by
  subst hes
  unfold cairnDue
  rw [run_getS_bind]
  dsimp only
  rw [(modCairn_gives _ _ _).run_bind, hks]
  dsimp only
  rw [if_neg (by rw [hall]; exact lt_irrefl _), (modCairn_gives _ _ _).run_bind, State.cairn_withCairn, if_pos (by simpa using hlive)]
  rfl

theorem run_cairnDue_started (hall : es.length = ks.length) (hlive : s.liveInstances (fieldOf (s.cairn c).cfg Fld.safeCairnCfgTmpl) = []) :
    M.run (cairnDue c) s = M.run (cairnStart c (fieldOf (s.cairn c).cfg Fld.safeCairnCfgTmpl) s.tally.nextInstance (s.cairnDue c) es)
      (s.cairnCounted c false) := by
  subst hes
  unfold cairnDue
  rw [run_getS_bind]
  dsimp only
  rw [(modCairn_gives _ _ _).run_bind, hks]
  dsimp only
  rw [if_neg (by rw [hall]; exact lt_irrefl _), (modCairn_gives _ _ _).run_bind, State.cairn_withCairn, if_neg (by rw [hlive]; decide)]
  rfl

end

theorem exec_cairnDue (hon : fieldOf (s.cairn c).cfg Fld.safeCairnCfgEnable = 1) (hrun : (s.cairn c).run = none)
    (hdue : s.cairnDue c ≤ s.clock.now) : exec (.cairnDue c) s = .next (M.run (cairnDue c) s) := by
  change execCairnDue c s = _
  exact whenEnabled_next (by rw [hon, hrun, decide_eq_true hdue]; rfl)

theorem exec_cairnDue_refused (h : fieldOf (s.cairn c).cfg Fld.safeCairnCfgEnable ≠ 1 ∨ (s.cairn c).run.isSome = true ∨
    s.clock.now < s.cairnDue c) : TurnedAway (.cairnDue c) s := by
  change execCairnDue c s = _
  refine whenEnabled_refused ?_
  obtain h | h | h := h
  · rw [beq_eq_false_iff_ne.mpr h, Bool.false_and, Bool.false_and]
  · rw [Option.isNone_eq_false_iff.mpr h, Bool.and_false, Bool.false_and]
  · rw [decide_eq_false (Nat.not_le.mpr h), Bool.and_false]

/-! ## Cairns that miss their window (R453) -/

theorem missAll_leads (l : List Nat) (s : State) : M.Leads (do
      for p in l do
        modPipe p fun y => { y with due := if y.due.contains c then y.due else y.due ++ [c] }
        settlePipe p) s fun _ t => s.SameBut [.regs, .safe] t ∧ (∀ q, c ∈ (s.pipe q).due → c ∈ (t.pipe q).due) ∧
          ∀ p ∈ l, c ∈ (t.pipe p).due := by
  refine M.Leads.forIn (P := fun p s t => s.SameBut [.regs, .safe] t ∧ (∀ q, c ∈ (s.pipe q).due → c ∈ (t.pipe q).due) ∧ c ∈ (t.pipe p).due)
    (R := fun l s t => s.SameBut [.regs, .safe] t ∧ (∀ q, c ∈ (s.pipe q).due → c ∈ (t.pipe q).due) ∧ ∀ p ∈ l, c ∈ (t.pipe p).due) ?_ ?_ l ?_ s
  · exact fun s => ⟨.refl _ _, fun _ h => h, fun _ hp => absurd hp List.not_mem_nil⟩
  · rintro p l s t u ⟨hsame, hkeep, hp⟩ ⟨hsame', hkeep', hl⟩
    exact ⟨hsame.trans hsame', fun q hq => hkeep' q (hkeep q hq), List.forall_mem_cons.mpr ⟨hkeep' p hp, hl⟩⟩
  · intro p _ s
    refine M.Leads.turn (m := do
      modPipe p fun y => { y with due := if y.due.contains c then y.due else y.due ++ [c] }
      settlePipe p) ?_
    refine (modPipe_gives _ _ _).leads_bind ((settlePipe_leads p _).mono fun _ t ht => ?_)
    have hpipe (q : Nat) : t.pipe q = (s.withPipe p { s.pipe p with
        due := if (s.pipe p).due.contains c then (s.pipe p).due else (s.pipe p).due ++ [c] }).pipe q :=
      congrArg (fun x : SafeUnit => tblGet x.pipes pipe0 q) (ht.2 .safe (by decide))
    have hadd : c ∈ (t.pipe p).due := by
      rw [hpipe, State.pipe_withPipe]
      dsimp only
      split
      case isTrue h => exact List.contains_iff_mem.mp h
      case isFalse h => exact List.mem_append_right _ (List.mem_singleton_self c)
    refine ⟨((s.sameBut_withPipe _ _).mono (by decide)).trans (ht.mono (by decide)), fun q hq => ?_, hadd⟩
    by_cases hqp : q = p
    · exact hqp ▸ hadd
    · rw [hpipe]
      exact (congrArg (c ∈ Pipe.due ·) (tblGet_tblSet _ _ _ hqp)).mpr hq

/-- The state in which the run of cairn `c` has ended with a result. -/
def State.cairnEnded (s : State) (c last : Nat) : State := s.withCairn c { s.cairn c with last := last, run := none }

theorem State.cairnEnded_spec (s : State) (c last : Nat) : s.SameBut [.safe] (s.cairnEnded c last) ∧
    (s.cairnEnded c last).cairn c = { s.cairn c with last := last, run := none } := ⟨s.sameBut_withCairn _ _, State.cairn_withCairn _ _ _⟩

theorem cairnMissed_leads (why due : Nat) : (cairnMissed c why due).Leads s fun _ t =>
    ((s.cairnEnded c 3).afterEvent 0x81 6 0x6007
      (det [(1, c), (1, why), (2, 0), (8, due), (4, fieldOf (s.cairn c).cfg Fld.safeCairnCfgPipeMask)])).SameBut [.regs, .safe] t ∧
    ∀ p ∈ s.coveredPipes c, c ∈ (t.pipe p).due := by
  unfold cairnMissed
  exact .getS ((modCairn_gives _ _ _).leads_bind ((raise_gives _ _ _ _ _).leads_bind
    ((missAll_leads (s.coveredPipes c) _).mono fun _ t ⟨hsame, _, hdue⟩ => ⟨hsame, hdue⟩)))

/-! ## The end of a cairn's window (R453) -/

theorem exec_cairnWindowExpiry_idle (hrun : (s.cairn c).run = none) : TurnedAway (.cairnWindowExpiry c) s := by
  change execCairnWindowExpiry c s = _
  refine whenEnabled_refused ?_
  rw [hrun]

section
variable {r : CairnRun} (hrun : (s.cairn c).run = some r)
include hrun

theorem exec_cairnWindowExpiry (h : (tblFind s.tally.instances r.id).isNone = true ∨ s.cairnLimit c r + settleMargin ≤ s.clock.now) :
    exec (.cairnWindowExpiry c) s = .next (M.run (cairnWindowExpiry c) s) := by
  change execCairnWindowExpiry c s = _
  refine whenEnabled_next ?_
  rw [hrun]
  exact Bool.or_eq_true_iff.mpr (h.imp id fun h => decide_eq_true h)

theorem exec_cairnWindowExpiry_refused (hended : (tblFind s.tally.instances r.id).isNone = false)
    (hearly : s.clock.now < s.cairnLimit c r + settleMargin) : TurnedAway (.cairnWindowExpiry c) s := by
  change execCairnWindowExpiry c s = _
  refine whenEnabled_refused ?_
  rw [hrun]
  exact Bool.or_eq_false_iff.mpr ⟨hended, decide_eq_false (Nat.not_le.mpr hearly)⟩

theorem run_cairnWindowExpiry_failed {good : Bool} {bad first : Nat} (hfail : r.checks.find? (fun x => !x.1) = some (good, bad, first)) :
    M.run (cairnWindowExpiry c) s = M.run (do
      raise 0x81 6 0x6006 (det [(1, c), (3, 0), (4, bad), (4, first), (4, fieldOf (s.cairn c).cfg Fld.safeCairnCfgPipeMask)])
      for p in s.coveredPipes c do
        enterSafe p 1 (((s.pipe p).insts.getLast?.map (·.num)).getD 0) 0) (s.cairnEnded c 2) := by
  unfold cairnWindowExpiry
  rw [run_getS_bind, hrun]
  dsimp only
  rw [hfail]
  dsimp only
  rw [(modCairn_gives _ _ _).run_bind]
  rfl

variable (hgood : r.checks.find? (fun x => !x.1) = none)
include hgood

theorem run_cairnWindowExpiry_passed (hended : (tblFind s.tally.instances r.id).isNone = true) (haborted : r.aborted = false)
    (htime : r.lastEnd ≤ s.cairnLimit c r) : M.run (cairnWindowExpiry c) s = M.run (do
      raise 0x81 6 0x0E01 (det [(1, c), (3, 0), (4, (s.cairn c).runs), (8, r.due)])
      for p in s.coveredPipes c do
        modPipe p fun y => { y with due := y.due.filter (· ≠ c), safeDue := y.safeDue.filter (· ≠ c) }
        settlePipe p) (s.cairnEnded c 1) := by
  unfold cairnWindowExpiry
  rw [run_getS_bind, hrun]
  dsimp only
  rw [hgood]
  dsimp only
  rw [if_pos ⟨hended, by rw [haborted]; rfl, htime⟩, (modCairn_gives _ _ _).run_bind]
  rfl

theorem run_cairnWindowExpiry_missed
    (h : (tblFind s.tally.instances r.id).isNone = false ∨ r.aborted = true ∨ s.cairnLimit c r < r.lastEnd) :
    M.run (cairnWindowExpiry c) s = M.run (cairnMissed c (if r.aborted then 1 else 0) r.due) s := by
  have hmissed : ¬ ((tblFind s.tally.instances r.id).isNone = true ∧ (!r.aborted) = true ∧ r.lastEnd ≤ s.cairnLimit c r) := by
    rintro ⟨hended, haborted, htime⟩
    obtain h | h | h := h
    · exact Bool.false_ne_true (h.symm.trans hended)
    · rw [h] at haborted
      exact Bool.false_ne_true haborted
    · exact absurd htime (Nat.not_le.mpr h)
  unfold cairnWindowExpiry
  rw [run_getS_bind, hrun]
  dsimp only
  rw [hgood]
  dsimp only
  rw [if_neg hmissed]
  cases r.aborted <;> simp

end

end

end

/-- Settles O52, clause by clause: windows, then cairns as they are enabled, due, missed and judged. -/
theorem belayWindowsAndCairnsJudgeInTime : Obligations.BelayWindowsAndCairnsJudgeInTime := by
  unfold Obligations.BelayWindowsAndCairnsJudgeInTime
  intro s hs
  refine ⟨?_, ?_, ?_, fun w hdue => exec_belayWindowDecision_idle hdue, ?_, ?_⟩
  case refine_1 =>
    intro w x c hw hx hc
    exact ⟨exec_belayEnable hx (run_safeWrite_refused hw _ _ _ _), exec_belayArm hx (run_safeWrite_refused hw _ _ _ _),
      exec_belayDisarm hx (run_safeWrite_refused hw _ _ _ _), exec_cairnEnable hc (run_safeWrite_refused hw _ _ _ _)⟩
  case refine_2 =>
    intro w hw b p sets strays
    have hsets {c : Instr} {v : Belay} (h : exec c s = .next (s.withBelay w v)) : sets c v :=
      ⟨_, h, s.sameBut_withBelay w v, s.belay_withBelay_same w v, fun x hx => s.belay_withBelay v hx, rfl⟩
    exact ⟨fun hon => exec_belayEnable hw (run_belayEnable_on hon), fun hon h => exec_belayEnable hw (run_belayEnable_strays hon h),
      fun hon h => hsets (exec_belayEnable hw (run_belayEnable hon h)), fun harmed => exec_belayArm hw (run_belayArm_armed harmed),
      fun harmed => hsets (exec_belayArm hw (run_belayArm harmed)), hsets (exec_belayDisarm hw rfl)⟩
  case refine_3 =>
    intro w d rest r hdue hr b judged slot part event
    have hresult : r = d.result := hr
    subst hresult
    have hjudged : judged (s.belayJudged w d rest) := ⟨s.sameBut_withBelay _ _, s.belay_withBelay_same _ _⟩
    refine ⟨exec_belayWindowDecision_refused hdue, fun h => ?_⟩
    have hexec := exec_belayWindowDecision hdue h
    exact ⟨fun h1 => ⟨_, hexec.trans (congrArg _ (run_belayWindowDecision_within hdue h1)), hjudged⟩,
      fun h1 hmode => completesThen_of hjudged (hexec.trans (congrArg _ (run_belayWindowDecision_fault hdue h1 hmode))),
      fun h1 hmode => ⟨_, hjudged, hexec.trans (congrArg _ (run_belayWindowDecision_monitor hdue h1 hmode))⟩⟩
  case refine_4 =>
    intro c hc x g
    refine ⟨fun hon => exec_cairnEnable hc (run_cairnEnable_on hon), fun hon hg => exec_cairnEnable hc (run_cairnEnable_absent hon hg), ?_⟩
    intro y hon hg
    constructor
    · rintro ⟨hcadence, hsafety, hkinds, hroom, hboard⟩
      have hfits : s.cairnFits y = true := by
        rw [State.cairnFits, hcadence, hsafety, hkinds, decide_eq_true hroom, decide_eq_true hboard]
        rfl
      exact ⟨_, exec_cairnEnable hc rfl, State.cairnEnabled_spec (cairnEnable_leads hs hon hg hfits).run⟩
    · intro h
      refine exec_cairnEnable hc (run_cairnEnable_unfit hon hg ?_)
      rw [State.cairnFits]
      obtain h | h := h
      · rw [beq_eq_false_iff_ne.mpr h]
        rfl
      · rw [decide_eq_false (Nat.not_le.mpr h), Bool.and_false, Bool.false_and]
  case refine_5 =>
    intro c x g mask due sets
    refine ⟨exec_cairnDue_refused, ?_, ?_, exec_cairnWindowExpiry_idle, ?_⟩
    · intro ks es hon hrun hdue hks hes
      have hexec := exec_cairnDue hon hrun hdue
      exact ⟨fun hfew => ⟨_, hexec.trans (congrArg _ (run_cairnDue_skipped hks hes hfew)), s.cairnCounted_spec c true⟩,
        fun hall hlive => completesThen_of (s.cairnCounted_spec c false) (hexec.trans (congrArg _ (run_cairnDue_live hks hes hall hlive))),
        fun hall hlive => completesThen_of (s.cairnCounted_spec c false)
          (hexec.trans (congrArg _ (run_cairnDue_started hks hes hall hlive)))⟩
    · intro why y
      exact ⟨s.cairnEnded c 3, s.cairnEnded_spec c 3, (cairnMissed_leads why y).run⟩
    · intro r hrun ended
      refine ⟨exec_cairnWindowExpiry_refused hrun, fun h => ?_⟩
      have hexec := exec_cairnWindowExpiry hrun h
      refine ⟨fun bad first hfail => ?_, fun hgood => ?_⟩
      · exact completesThen_of (s.cairnEnded_spec c 2) (hexec.trans (congrArg _ (run_cairnWindowExpiry_failed hrun hfail)))
      · have hnone : r.checks.find? (fun x => !x.1) = none := List.find?_eq_none.mpr fun y hy => by rw [hgood y hy]; decide
        exact ⟨fun hended haborted htime => completesThen_of (s.cairnEnded_spec c 1)
            (hexec.trans (congrArg _ (run_cairnWindowExpiry_passed hrun hnone hended haborted htime))),
          fun h => completesThen_of rfl (hexec.trans (congrArg _ (run_cairnWindowExpiry_missed hrun hnone h)))⟩

end Sys2Proof.Machine
end

section
/-! PROOFS. RoCE packets are taken in order and answered: O49 (R416–R419, R426). -/

namespace Sys2Proof.Machine

open Sys2Proof

section
variable {s t u v : State} {i psn : Nat}

theorem M.gives.of_bind {α β : Type} {m : M α} {k : α → M β} {a : α} {b : β} (hm : m.gives s a t) (h : (m >>= k).gives s b u) :
    (k a).gives t b u := fun c => (hm fun a => k a c).symm.trans (h c)

/-! ## Packets on the wire -/

/-- The state with packets put on the wire. -/
def State.sends (s : State) (out : List (Nat × List Byte)) : State := (Upd.sent (· ++ out)).apply s

theorem State.sameBut_sends (s : State) (out : List (Nat × List Byte)) : s.SameBut [.sent] (s.sends out) := Upd.sameBut _ s

theorem State.fabFenced_of_rcv (h : t.rcv = s.rcv) : t.fabFenced = s.fabFenced := by simp only [State.fabFenced, State.fence, h]

theorem State.qp_of_fabric (h : t.fabric = s.fabric) (i : Nat) : t.qp i = s.qp i := by rw [State.qp, h, State.qp]

theorem sendPacket_gives (hf : s.fabFenced = false) (peer op psn : Nat) (ext payload : List Byte) :
    (sendPacket peer op psn ext payload).gives s () (s.sends [(0xB1, wirePacket peer op psn ext payload)]) :=
  .getS_bind (.ite_neg (by rw [hf]; decide) _ fun _ => rfl)

/-- The answer to a packet: its queue pair's peer, sequence number and syndrome. -/
def ackPacket (q : Qp) (x y : Nat) : Nat × List Byte := (0xB1, wirePacket q.peer 17 x (beBytes 1 y ++ beBytes 3 0) [])

theorem acknowledge_gives (hf : s.fabFenced = false) (i x y : Nat) :
    (acknowledge i x y).gives s () (s.sends [ackPacket (s.qp i) x y]) := .getS_bind (sendPacket_gives hf _ _ _ _ _)

/-- One queue pair has become `v` and packets are on the wire; nothing else has changed. -/
structure State.QpTo (s : State) (i : Nat) (v : Qp) (out : List (Nat × List Byte)) (t : State) : Prop where
  same : s.SameBut [.fabric, .sent] t
  qp : t.qp i = v
  sent : t.sent = s.sent ++ out
  fabric : t.fabric = { s.fabric with qps := t.fabric.qps }
  others : ∀ x, x ≠ i → t.qp x = s.qp x

section
variable {a b : Qp} {out : List (Nat × List Byte)}

theorem State.QpTo.refl (h : s.qp i = a) : s.QpTo i a [] s := ⟨.refl _ _, h, (List.append_nil _).symm, rfl, fun _ _ => rfl⟩

theorem State.QpTo.fabFenced (h : s.QpTo i a out t) : t.fabFenced = s.fabFenced := State.fabFenced_of_rcv (h.same.2 .rcv (by decide))

theorem State.QpTo.withQp (h : s.QpTo i a out t) (b : Qp) : s.QpTo i b out (t.withQp i b) where
  same := h.same.trans ((t.sameBut_withQp i b).mono (by decide))
  qp := t.qp_withQp_same i b
  sent := h.sent
  fabric := congrArg (fun x : Fabric => { x with qps := (t.withQp i b).fabric.qps }) h.fabric
  others x hx := (t.qp_withQp b hx).trans (h.others x hx)

theorem State.QpTo.sends (h : s.QpTo i a out t) (more : List (Nat × List Byte)) : s.QpTo i a (out ++ more) (t.sends more) where
  same := h.same.trans ((t.sameBut_sends more).mono (by decide))
  qp := h.qp
  sent := (congrArg (· ++ more) h.sent).trans (List.append_assoc _ _ _)
  fabric := h.fabric
  others := h.others

theorem State.QpTo.modQp (h : s.QpTo i a out t) (f : Qp → Qp) : s.QpTo i (f a) out (M.run (Machine.modQp i f) t) := by
  rw [(modQp_gives i f t).run, h.qp]
  exact h.withQp _

theorem State.QpTo.acknowledge (h : s.QpTo i a out t) (hf : s.fabFenced = false) (x y : Nat) :
    s.QpTo i a (out ++ [ackPacket a x y]) (M.run (Machine.acknowledge i x y) t) := by
  rw [(acknowledge_gives (h.fabFenced.trans hf) i x y).run, h.qp]
  exact h.sends _

end

/-! ## Packets reach a queue pair (R416) -/

theorem ensureQp_gives_fenced (hf : s.fabFenced = true) : (ensureQp i).gives s false s := by
  unfold ensureQp
  exact .getS_bind (.ite_pos hf _ (pure_gives _ _))

theorem State.tblFind_of_ready (hphase : (s.qp i).phase = .ready) : (tblFind s.fabric.qps i).isSome = true := by
  unfold State.qp tblGet at hphase
  cases hq : tblFind s.fabric.qps i with
  | some q => rfl
  | none =>
    rw [hq] at hphase
    exact absurd hphase (by decide)

theorem ensureQp_gives_ready (hf : s.fabFenced = false) (hphase : (s.qp i).phase = .ready) : (ensureQp i).gives s true s := by
  unfold ensureQp
  refine .getS_bind (.ite_neg (by rw [hf]; decide) _ (.ite_pos (State.tblFind_of_ready hphase) _ ?_))
  rw [hphase]
  exact pure_gives _ _

theorem run_inbound_fenced (hf : s.fabFenced = true) (ce : Bool) (go : M Unit) : M.run (inbound i psn ce go) s = s := by
  unfold inbound
  rw [(ensureQp_gives_fenced hf).run_bind]
  rfl

theorem congestion_gives_unmarked (i : Nat) (s : State) : (congestion i false).gives s () s := fun _ => rfl

theorem congestion_gives_recent {x : Nat} (hcnp : (s.qp i).cnpAt = some x) (hnow : s.clock.now < x + usUnits (s.fld Reg.fabRc Fld.fabRcCnpUs)) :
    (congestion i true).gives s () s := by
  unfold congestion
  refine .getS_bind ?_
  rw [hcnp]
  dsimp only
  rw [decide_eq_false (Nat.not_le.mpr hnow)]
  exact fun _ => rfl

/-- The state in which a CNP has been returned (R419). -/
def State.cnpSent (s : State) (i : Nat) : State :=
  (s.withQp i { s.qp i with cnpAt := some s.clock.now }).sends [(0xB1, wirePacket (s.qp i).peer 0x81 0 [] (zeros 16))]

theorem congestion_gives_first (hf : s.fabFenced = false) (hcnp : (s.qp i).cnpAt = none) : (congestion i true).gives s () (s.cnpSent i) := by
  unfold congestion
  refine .getS_bind ?_
  rw [hcnp]
  exact (modQp_gives _ _ _).bind (sendPacket_gives (s := s.withQp i _) hf _ _ _ _ _)

section
variable (hf : s.fabFenced = false) (hphase : (s.qp i).phase = .ready) {ce : Bool} (hce : (congestion i ce).gives s () t) (go : M Unit)
include hf hphase hce

theorem run_inbound_expected (hpsn : psn = (t.qp i).recvPsn) : M.run (inbound i psn ce go) s = M.run go t := by
  have hclass : seqClass (t.qp i).recvPsn psn = 0 := by
    rw [seqClass, ← hpsn, Nat.add_sub_cancel_left, Nat.mod_self]
    rfl
  unfold inbound
  rw [(ensureQp_gives_ready hf hphase).run_bind, if_pos rfl, hce.run_bind, run_getS_bind]
  dsimp only
  rw [hclass]
  rfl

theorem run_inbound_repeated (hf' : t.fabFenced = false) (hclass : seqClass (t.qp i).recvPsn psn = 1) :
    M.run (inbound i psn ce go) s = t.sends [ackPacket (t.qp i) (((t.qp i).recvPsn + 2 ^ 24 - 1) % 2 ^ 24) 0x1F] := by
  unfold inbound
  rw [(ensureQp_gives_ready hf hphase).run_bind, if_pos rfl, hce.run_bind, run_getS_bind]
  dsimp only
  rw [hclass]
  exact (acknowledge_gives hf' _ _ _).run

theorem run_inbound_gap (hf' : t.fabFenced = false) (hclass : seqClass (t.qp i).recvPsn psn = 2) :
    M.run (inbound i psn ce go) s = t.sends [ackPacket (t.qp i) (t.qp i).recvPsn 0x60] := by
  unfold inbound
  rw [(ensureQp_gives_ready hf hphase).run_bind, if_pos rfl, hce.run_bind, run_getS_bind]
  dsimp only
  rw [hclass]
  exact (acknowledge_gives hf' _ _ _).run

end

/-! ## The checks of a request (R418) -/

section
variable {rkey addr len : Nat} {w : Bool}

theorem rdmaAdmit_gives_admitted (hok : s.rdmaOk rkey addr len = true) (h : (rdmaTranslates (rkey % 2 ^ 20) addr len w).gives s true u) :
    (rdmaAdmit i psn rkey addr len w).gives s true u := by
  unfold rdmaAdmit
  refine .getS_bind ?_
  dsimp only
  rw [if_pos hok]
  exact h.bind (.ite_neg (by decide) _ (pure_gives true u))

theorem rdmaAdmit_gives_untranslated (hok : s.rdmaOk rkey addr len = true) (h : (rdmaTranslates (rkey % 2 ^ 20) addr len w).gives s false u)
    (hr : (rdmaRefuse i psn rkey addr).gives u () v) : (rdmaAdmit i psn rkey addr len w).gives s false v := by
  unfold rdmaAdmit
  refine .getS_bind ?_
  dsimp only
  rw [if_pos hok]
  exact h.bind (.ite_pos (by decide) _ (hr.bind (pure_gives false v)))

theorem rdmaAdmit_gives_outside (hok : s.rdmaOk rkey addr len = false) (hr : (rdmaRefuse i psn rkey addr).gives s () v) :
    (rdmaAdmit i psn rkey addr len w).gives s false v := by
  unfold rdmaAdmit
  refine .getS_bind ?_
  dsimp only
  rw [if_neg (by rw [hok]; decide)]
  exact (pure_gives false s).bind (.ite_pos (by decide) _ (hr.bind (pure_gives false v)))

theorem rdmaAdmit_steps (h : (rdmaAdmit i psn rkey addr len w).gives s true u) : Reaches 0xBA9 s u := by
  cases hok : s.rdmaOk rkey addr len with
  | true =>
    obtain ⟨good, x, hsteps, hgood⟩ := rdmaTranslates_reach (msk := 0xBA9) rfl (rkey % 2 ^ 20) addr len w s
    cases good with
    | true => exact ((rdmaAdmit_gives_admitted hok hgood).unique h).2 ▸ hsteps
    | false =>
      obtain ⟨⟨⟩, y, -, hrefuse⟩ := rdmaRefuse_reach (msk := 0xFFFFFF) rfl i psn rkey addr x
      exact absurd ((rdmaAdmit_gives_untranslated hok hgood hrefuse).unique h).1 (by decide)
  | false =>
    obtain ⟨⟨⟩, y, -, hrefuse⟩ := rdmaRefuse_reach (msk := 0xFFFFFF) rfl i psn rkey addr s
    exact absurd ((rdmaAdmit_gives_outside hok hrefuse).unique h).1 (by decide)

end

/-- A request that is admitted leaves the fabric's state and the wire as they were. -/
theorem rdmaAdmit_keeps {rkey addr len : Nat} {w : Bool} (h : (rdmaAdmit i psn rkey addr len w).gives s true u) :
    u.fabric = s.fabric ∧ u.sent = s.sent :=
  ⟨(rdmaAdmit_steps h).fabric rfl, (rdmaAdmit_steps h).sent rfl⟩

/-- The state in which a request has been refused, before its answer. -/
def State.rdmaRefused (s : State) (i rkey addr : Nat) : State :=
  let u := s.afterEvent 0xB1 6 0x3D01 (det [(4, rkey), (6, addr), (1, (s.qp i).job), (1, (s.qp i).rank)])
  u.withQp i { u.qp i with msg := 0, part := [] }

theorem rdmaAdmit_gives_refused (hf : s.fabFenced = false) {rkey addr len : Nat} (hok : s.rdmaOk rkey addr len = false) (w : Bool) :
    (rdmaAdmit i psn rkey addr len w).gives s false
      ((s.rdmaRefused i rkey addr).sends [ackPacket ((s.rdmaRefused i rkey addr).qp i) psn 0x62]) := by
  have hq := s.afterEvent_quiet 0xB1 6 0x3D01 (det [(4, rkey), (6, addr), (1, (s.qp i).job), (1, (s.qp i).rank)])
  have hfenced : (s.rdmaRefused i rkey addr).fabFenced = false :=
    (State.fabFenced_of_rcv ((State.sameBut_withQp _ _ _).2 .rcv (by decide))).trans
      ((State.fabFenced_of_rcv (hq.sameBut.2 .rcv (by decide))).trans hf)
  refine rdmaAdmit_gives_outside hok ?_
  exact .getS_bind ((raise_gives _ _ _ _ _).bind ((modQp_gives _ _ _).bind (acknowledge_gives hfenced _ _ _)))

/-! ## Messages are gathered (R416) -/

/-- A queue pair that has taken a packet of a message. -/
def Qp.taken (q : Qp) (kind : Nat) (first : Bool) (rkey addr len : Nat) (data : List Byte) : Qp :=
  { q with
    part := (if first then [] else q.part) ++ data
    msg := kind
    rkey := if first then rkey else q.rkey
    addr := if first then addr else q.addr
    total := if first then len else q.total
    recvPsn := (q.recvPsn + 1) % 2 ^ 24 }

theorem takePacket_gives (i kind : Nat) (first : Bool) (rkey addr len : Nat) (data : List Byte) (s : State) :
    (takePacket i kind first rkey addr len data).gives s () (s.withQp i ((s.qp i).taken kind first rkey addr len data)) := modQp_gives _ _ _

/-- A queue pair whose message has ended. -/
def Qp.ended (q : Qp) : Qp := { q with part := [], msg := 0 }

theorem endMessage_gives (i : Nat) (s : State) : (endMessage i).gives s () (s.withQp i (s.qp i).ended) := modQp_gives _ _ _

/-- A WRITE's packet joins its message, which is written at the last (R416, R418). -/
def rdmaStore (i psn form : Nat) (first : Bool) (rkey addr len : Nat) (data : List Byte) : M Unit := do
  takePacket i 2 first rkey addr len data
  let s ← getS
  let q := s.qp i
  if form = 2 ∨ form = 3 then
    endMessage i
    if q.part.length ≠ q.total then acknowledge i psn 0x61
    else if ← rdmaAdmit i psn q.rkey q.addr q.total true then
      match ← ctxWrite 0xB1 (q.rkey % 2 ^ 20) q.addr q.part with
      | none => acknowledge i psn 0x1F
      | some _ => acknowledge i psn 0x63

/-- The expected packet of a WRITE. -/
def rdmaTake (i psn form rkey addr len : Nat) (data : List Byte) : M Unit := do
  let s ← getS
  let first := form == 0 || form == 3
  let begun ← if first then rdmaAdmit i psn rkey addr len true else pure ((s.qp i).msg == 2)
  if !begun then
    (if first then pure () else acknowledge i psn 0x61)
  else rdmaStore i psn form first rkey addr len data

theorem rdmaWrite_eq (form rkey addr len : Nat) (data : List Byte) (ce : Bool) :
    rdmaWrite i psn form rkey addr len data ce = inbound i psn ce (rdmaTake i psn form rkey addr len data) := rfl

section
variable {form rkey addr len : Nat} {data : List Byte}

theorem run_rdmaTake_stray (hf : s.fabFenced = false) (hform : form = 1 ∨ form = 2) (hmsg : (s.qp i).msg ≠ 2) :
    M.run (rdmaTake i psn form rkey addr len data) s = s.sends [ackPacket (s.qp i) psn 0x61] := by
  have hmsg : ((s.qp i).msg == 2) = false := beq_eq_false_iff_ne.mpr hmsg
  unfold rdmaTake
  rw [run_getS_bind]
  dsimp only
  obtain rfl | rfl := hform <;>
  · refine ((pure_gives _ s).run_bind _).trans ?_
    rw [hmsg]
    exact (acknowledge_gives hf _ _ _).run

theorem run_rdmaTake_next (hform : form = 1 ∨ form = 2) (hmsg : (s.qp i).msg = 2) :
    M.run (rdmaTake i psn form rkey addr len data) s = M.run (rdmaStore i psn form false rkey addr len data) s := by
  unfold rdmaTake
  rw [run_getS_bind]
  dsimp only
  obtain rfl | rfl := hform <;>
  · refine ((pure_gives _ s).run_bind _).trans ?_
    rw [hmsg]
    rfl

theorem run_rdmaTake_first (hform : form = 0 ∨ form = 3) (hadmit : (rdmaAdmit i psn rkey addr len true).gives s true u) :
    M.run (rdmaTake i psn form rkey addr len data) s = M.run (rdmaStore i psn form true rkey addr len data) u := by
  unfold rdmaTake
  rw [run_getS_bind]
  dsimp only
  obtain rfl | rfl := hform <;>
  exact hadmit.run_bind _

theorem run_rdmaTake_refused (hform : form = 0 ∨ form = 3) (hadmit : (rdmaAdmit i psn rkey addr len true).gives s false u) :
    M.run (rdmaTake i psn form rkey addr len data) s = u := by
  unfold rdmaTake
  rw [run_getS_bind]
  dsimp only
  obtain rfl | rfl := hform <;>
  exact hadmit.run_bind _

theorem run_rdmaStore_more (hform : form = 0 ∨ form = 1) (first : Bool) :
    M.run (rdmaStore i psn form first rkey addr len data) s = s.withQp i ((s.qp i).taken 2 first rkey addr len data) := by
  unfold rdmaStore
  rw [(takePacket_gives _ _ _ _ _ _ _ _).run_bind, run_getS_bind]
  dsimp only
  rw [if_neg (by omega)]
  rfl

theorem run_rdmaStore_last {q : Qp} {first : Bool} (hform : form = 2 ∨ form = 3) (hq : q = (s.qp i).taken 2 first rkey addr len data)
    (hlen : q.part.length = q.total)
    (hadmit : (rdmaAdmit i psn q.rkey q.addr q.total true).gives ((s.withQp i q).withQp i q.ended) true u)
    (hwrite : (ctxWrite 0xB1 (q.rkey % 2 ^ 20) q.addr q.part).gives u none v) :
    M.run (rdmaStore i psn form first rkey addr len data) s = M.run (acknowledge i psn 0x1F) v := by
  subst hq
  unfold rdmaStore
  rw [(takePacket_gives _ _ _ _ _ _ _ _).run_bind, run_getS_bind]
  dsimp only
  rw [if_pos hform, (endMessage_gives _ _).run_bind, State.qp_withQp_same, if_neg (not_not.mpr hlen), hadmit.run_bind, if_pos rfl,
    hwrite.run_bind]

end

/-! ## A WRITE's last packet, with the checks and the write that it runs (R418) -/

theorem rdmaAdmit_leads_true {α : Type} {rkey addr len : Nat} {w : Bool} {m : M (Option α)} {x : α}
    (h : M.gives (do if ← rdmaAdmit i psn rkey addr len w then m else return some x) s none v) :
    ∃ u, (rdmaAdmit i psn rkey addr len w).gives s true u ∧ m.gives u none v := by
  obtain ⟨b, u, -, hu⟩ := rdmaAdmit_reach (msk := 0xFFFFFF) rfl i psn rkey addr len w s
  have hrest := M.gives.of_bind hu h
  cases b with
  | true => exact ⟨u, hu, hrest⟩
  | false => exact absurd ((pure_gives (some x) u).unique hrest).1 (Option.some_ne_none x)

theorem ctxWrite_keeps {who h a : Nat} {bs : List Byte} {e : Option MemErr} (hw : (ctxWrite who h a bs).gives s e t) :
    t.fabric = s.fabric ∧ t.sent = s.sent := by
  have hsteps : Reaches 0xBA9 s t := M.All.steps_of_gives (ctxWrite_reach rfl _ _ _ _) hw
  exact ⟨hsteps.fabric rfl, hsteps.sent rfl⟩

/-- The bytes of a whole message are checked again and written. -/
def storeWhole (i psn : Nat) (q : Qp) : M (Option MemErr) := do
  endMessage i
  if ← rdmaAdmit i psn q.rkey q.addr q.total true then ctxWrite 0xB1 (q.rkey % 2 ^ 20) q.addr q.part
  else return some .page

theorem run_rdmaStore_whole {q : Qp} {form rkey addr len : Nat} {data : List Byte} {first : Bool} (hform : form = 2 ∨ form = 3)
    (hq : q = (s.qp i).taken 2 first rkey addr len data) (hlen : q.part.length = q.total)
    (hwhole : (storeWhole i psn q).gives (s.withQp i q) none v) (hf : v.fabFenced = false) :
    v.QpTo i q.ended [ackPacket q.ended psn 0x1F] (M.run (rdmaStore i psn form first rkey addr len data) s) := by
  unfold storeWhole at hwhole
  have hend := endMessage_gives i (s.withQp i q)
  rw [State.qp_withQp_same] at hend
  have hrest := M.gives.of_bind hend hwhole
  obtain ⟨u, hadmit, hwrite⟩ := rdmaAdmit_leads_true hrest
  have hv : v.qp i = q.ended := by
    rw [State.qp_of_fabric (ctxWrite_keeps hwrite).1, State.qp_of_fabric (rdmaAdmit_keeps hadmit).1, State.qp_withQp_same]
  rw [run_rdmaStore_last hform hq hlen hadmit hwrite]
  exact (State.QpTo.refl hv).acknowledge hf _ _

/-! ## SENDs (R421, R423) -/

/-- The expected packet of a SEND. -/
def roceTake (i psn form : Nat) (data : List Byte) : M Unit := do
  let s ← getS
  let first := form == 0 || form == 3
  let q := s.qp i
  if !first ∧ q.msg ≠ 1 then acknowledge i psn 0x61
  else if form = 0 ∨ form = 1 then takePacket i 1 first 0 0 0 data
  else do
    let msg := (if first then [] else q.part) ++ data
    let code ← if leAt msg 0 1 = 5 then takeFabricMessage i msg else if leAt msg 0 1 = 1 then takeTransfer msg else pure 2
    if code = 0 then
      takePacket i 1 first 0 0 0 data
      endMessage i
      acknowledge i psn 0x1F
    else acknowledge i psn (if code = 1 then 0x20 else 0x61)

theorem roceSend_eq (form : Nat) (data : List Byte) (ce : Bool) : roceSend i psn form data ce = inbound i psn ce (roceTake i psn form data) := rfl

section
variable {form : Nat} {data : List Byte}

theorem run_roceTake_stray (hf : s.fabFenced = false) (hform : form = 1 ∨ form = 2) (hmsg : (s.qp i).msg ≠ 1) :
    M.run (roceTake i psn form data) s = s.sends [ackPacket (s.qp i) psn 0x61] := by
  unfold roceTake
  rw [run_getS_bind]
  dsimp only
  rw [if_pos ⟨by obtain rfl | rfl := hform <;> rfl, hmsg⟩]
  exact (acknowledge_gives hf _ _ _).run

theorem run_roceTake_first : M.run (roceTake i psn 0 data) s = s.withQp i ((s.qp i).taken 1 true 0 0 0 data) := by
  unfold roceTake
  rw [run_getS_bind]
  dsimp only
  rw [if_neg fun h => absurd h.1 (by decide), if_pos (.inl rfl)]
  exact (takePacket_gives _ _ _ _ _ _ _ _).run

theorem run_roceTake_next (hmsg : (s.qp i).msg = 1) : M.run (roceTake i psn 1 data) s = s.withQp i ((s.qp i).taken 1 false 0 0 0 data) := by
  unfold roceTake
  rw [run_getS_bind]
  dsimp only
  rw [if_neg fun h => h.2 hmsg, if_pos (.inr rfl)]
  exact (takePacket_gives _ _ _ _ _ _ _ _).run

/-- The end of a message that was taken or not, by its code. -/
def roceEnd (i psn : Nat) (data : List Byte) (code : Nat) : M Unit := do
  if code = 0 then
    takePacket i 1 true 0 0 0 data
    endMessage i
    acknowledge i psn 0x1F
  else acknowledge i psn (if code = 1 then 0x20 else 0x61)

theorem run_roceTake_message (hkind : leAt data 0 1 = 5) {code : Nat} (hmsg : (takeFabricMessage i data).gives s code u) :
    M.run (roceTake i psn 3 data) s = M.run (roceEnd i psn data code) u := by
  have hwhole : (if ((3 : Nat) == 0 || (3 : Nat) == 3) = true then [] else (s.qp i).part) ++ data = data := rfl
  unfold roceTake
  rw [run_getS_bind]
  dsimp only
  rw [if_neg fun h => absurd h.1 (by decide), if_neg (by omega), hwhole]
  rw [if_pos hkind]
  exact hmsg.run_bind _

/-- The transfer that a message brings (R421). -/
def transferOf (d : List Byte) (now : Nat) : Transfer :=
  ⟨leAt d 1 1, leAt d 2 1, leAt d 4 4, leAt d 8 4, leAt d 3 1, (d.drop 12).take 52, d.drop 64, now⟩

/-- The state that holds one more transfer. -/
def State.withTransfer (s : State) (x : Transfer) : State := (Upd.fabric fun f => { f with transfers := f.transfers ++ [x] }).apply s

theorem takeTransfer_gives (hlen : 64 ≤ data.length) : (takeTransfer data).gives s 0 (s.withTransfer (transferOf data s.clock.now)) := by
  unfold takeTransfer
  exact .getS_bind (.ite_neg (Nat.not_lt.mpr hlen) _ fun _ => rfl)

theorem run_roceTake_transfer (hkind : leAt data 0 1 = 1) (hlen : 64 ≤ data.length) :
    M.run (roceTake i psn 3 data) s = M.run (roceEnd i psn data 0) (s.withTransfer (transferOf data s.clock.now)) := by
  have hwhole : (if ((3 : Nat) == 0 || (3 : Nat) == 3) = true then [] else (s.qp i).part) ++ data = data := rfl
  unfold roceTake
  rw [run_getS_bind]
  dsimp only
  rw [if_neg fun h => absurd h.1 (by decide), if_neg (by omega), hwhole]
  rw [if_neg (by omega), if_pos hkind]
  exact (takeTransfer_gives hlen).run_bind _

theorem run_roceEnd_taken (s : State) : M.run (roceEnd i psn data 0) s =
    M.run (acknowledge i psn 0x1F) ((s.withQp i ((s.qp i).taken 1 true 0 0 0 data)).withQp i ((s.qp i).taken 1 true 0 0 0 data).ended) := by
  unfold roceEnd
  rw [if_pos rfl, (takePacket_gives _ _ _ _ _ _ _ _).run_bind, (endMessage_gives _ _).run_bind, State.qp_withQp_same]

theorem roceEnd_spec (hf : s.fabFenced = false) (code : Nat) :
    s.QpTo i (if code = 0 then ((s.qp i).taken 1 true 0 0 0 data).ended else s.qp i)
      [ackPacket (s.qp i) psn (if code = 0 then 0x1F else if code = 1 then 0x20 else 0x61)] (M.run (roceEnd i psn data code) s) := by
  by_cases h : code = 0
  · subst h
    rw [run_roceEnd_taken]
    exact (((State.QpTo.refl rfl).withQp _).withQp _).acknowledge hf _ _
  · unfold roceEnd
    rw [if_neg h, if_neg h, if_neg h]
    exact (State.QpTo.refl rfl).acknowledge hf _ _

end

/-! ## Several packets in a row -/

theorem forIn_sends_gives {α : Type} (f : α → Nat × List Byte) (body : α → PUnit → M (ForInStep PUnit)) (l : List α) {fab : Fabric}
    (hbody : ∀ x, ∀ t : State, t.fabFenced = false → t.fabric = fab → (body x ⟨⟩).gives t (.yield ⟨⟩) (t.sends [f x]))
    (hf : s.fabFenced = false) (hfab : s.fabric = fab) : (forIn l ⟨⟩ body).gives s ⟨⟩ (s.sends (l.map f)) := by
  induction l generalizing s with
  | nil =>
    rw [List.map_nil, State.sends]
    simp only [List.append_nil]
    exact pure_gives _ _
  | cons x l ih =>
    rw [List.forIn_cons]
    refine (hbody x s hf hfab).bind ?_
    have hrest := ih (s := s.sends [f x]) hf hfab
    rw [State.sends, State.sends] at hrest
    simpa [State.sends, Upd.apply] using hrest

/-! ## READs (R416, R418) -/

/-- The opcode of the n-th of a number of response packets. -/
def readOp (count n : Nat) : Nat := if count = 1 then 16 else if n = 0 then 13 else if n + 1 = count then 15 else 14

/-- The packets that answer a READ with some bytes. -/
def readPackets (q : Qp) (psn : Nat) (ps : List (List Byte)) : List (Nat × List Byte) :=
  ps.zipIdx.map fun x => (0xB1, wirePacket q.peer (readOp ps.length x.2) ((psn + x.2) % 2 ^ 24)
    (if readOp ps.length x.2 = 14 then [] else beBytes 1 0x1F ++ beBytes 3 0) x.1)

theorem run_rdmaRead_gap (hf : s.fabFenced = false) (hphase : (s.qp i).phase = .ready) (hclass : seqClass (s.qp i).recvPsn psn = 2)
    (rkey addr len : Nat) : M.run (rdmaRead i psn rkey addr len) s = s.sends [ackPacket (s.qp i) (s.qp i).recvPsn 0x60] := by
  unfold rdmaRead
  rw [(ensureQp_gives_ready hf hphase).run_bind, if_pos rfl, run_getS_bind]
  dsimp only
  rw [if_pos hclass]
  exact (acknowledge_gives hf _ _ _).run

theorem run_rdmaRead_fenced (hf : s.fabFenced = true) (rkey addr len : Nat) : M.run (rdmaRead i psn rkey addr len) s = s := by
  unfold rdmaRead
  rw [(ensureQp_gives_fenced hf).run_bind]
  rfl

theorem rdmaRead_spec {rkey addr len : Nat} {bs : List Byte} (hf : s.fabFenced = false) (hphase : (s.qp i).phase = .ready)
    (hclass : seqClass (s.qp i).recvPsn psn ≠ 2) (hadmit : (rdmaAdmit i psn rkey addr len false).gives s true u)
    (hread : (ctxRead 0xB1 (rkey % 2 ^ 20) addr len).gives u (.ok bs) v) (hf' : v.fabFenced = false) :
    v.QpTo i (if seqClass (s.qp i).recvPsn psn = 0
        then { s.qp i with recvPsn := ((s.qp i).recvPsn + (pieces pathMtu (len / 1024 + 1) bs).length) % 2 ^ 24 } else s.qp i)
      (readPackets (s.qp i) psn (pieces pathMtu (len / 1024 + 1) bs)) (M.run (rdmaRead i psn rkey addr len) s) := by
  have hsteps : Reaches 0xBA9 u v := M.All.steps_of_gives (ctxRead_reach rfl _ _ _ _) hread
  have hv : v.qp i = s.qp i :=
    (State.qp_of_fabric (hsteps.fabric rfl) i).trans (State.qp_of_fabric (rdmaAdmit_keeps hadmit).1 i)
  have hall := (State.QpTo.refl hv).sends (readPackets (s.qp i) psn (pieces pathMtu (len / 1024 + 1) bs))
  unfold rdmaRead
  rw [(ensureQp_gives_ready hf hphase).run_bind, if_pos rfl, run_getS_bind]
  dsimp only
  rw [if_neg hclass, hadmit.run_bind, if_pos rfl, hread.run_bind]
  dsimp only
  rw [M.gives.run_bind (forIn_sends_gives (fun x : List Byte × Nat => (0xB1, wirePacket (s.qp i).peer
      (readOp (pieces pathMtu (len / 1024 + 1) bs).length x.2) ((psn + x.2) % 2 ^ 24)
      (if readOp (pieces pathMtu (len / 1024 + 1) bs).length x.2 = 14 then [] else beBytes 1 0x1F ++ beBytes 3 0) x.1)) _ _
    (fun x t ht _ => (sendPacket_gives ht _ _ _ _ _).bind fun _ => rfl) hf' rfl)]
  split
  · rw [(modQp_gives _ _ _).run, State.qp_of_fabric (t := v.sends _) (s := v) rfl, hv]
    exact hall.withQp _
  · exact hall

/-! ## Acknowledgements, retries and congestion (R416, R419) -/

theorem exec_fabric_refused {c : State → Bool} (h : s.fabFenced = true) (m : M Unit) : whenEnabled (fun s => !s.fabFenced && c s) m s = .refused .notEnabled :=
  whenEnabled_refused (by rw [h]; rfl)

/-- The state after an acknowledgement took its packets off a queue pair. -/
def State.acked (s : State) (i : Nat) (good : List OutPkt) : State :=
  s.withQp i { s.qp i with
    out := (s.qp i).out.drop good.length
    retries := if good.isEmpty then (s.qp i).retries else 0 }

theorem run_packetAcked {p : OutPkt} {n : Nat} (hentry : p.entry = none) (htask : p.task = some n) (hsending : s.sending n = false) :
    M.run (packetAcked p) s = M.run (modTask n fun k => if dOpcode k.desc = 0x800 then { k with done := true } else k) s := by
  unfold packetAcked
  rw [hentry, htask]
  dsimp only
  rw [run_getS_bind, hsending]
  rfl

/-- An outstanding packet as it goes on the wire. -/
def outPacket (q : Qp) (p : OutPkt) : Nat × List Byte := (0xB1, wirePacket q.peer p.op p.psn
  (if p.op = 6 ∨ p.op = 10 ∨ p.op = 12 then beBytes 8 p.addr ++ beBytes 4 p.rkey ++ beBytes 4 p.len else []) p.bytes)

theorem sendOut_gives (hf : s.fabFenced = false) (i : Nat) (p : OutPkt) : (sendOut i p).gives s () (s.sends [outPacket (s.qp i) p]) :=
  .getS_bind (sendPacket_gives hf _ _ _ _ _)

theorem retryQp_spec (hf : s.fabFenced = false) (hretries : (s.qp i).retries < Config.retryLimit % 8) :
    s.QpTo i { s.qp i with retries := (s.qp i).retries + 1 } ((s.qp i).out.map (outPacket (s.qp i))) (M.run (retryQp i true) s) := by
  unfold retryQp
  rw [run_getS_bind]
  dsimp only
  rw [if_neg fun h => absurd h.2 (Nat.not_le.mpr hretries), (modQp_gives _ _ _).run_bind]
  have hto := (State.QpTo.refl rfl).withQp (s := s) (i := i) { s.qp i with retries := (s.qp i).retries + 1 }
  have hsend := forIn_sends_gives (outPacket (s.qp i)) (fun p _ => do
      sendOut i p
      return .yield ⟨⟩) (s.qp i).out (fun x t ht hfab => ?_) (hto.fabFenced.trans hf) rfl
  · exact (hsend.run_bind _).symm ▸ hto.sends _
  · have hpeer : t.qp i = { s.qp i with retries := (s.qp i).retries + 1 } := (State.qp_of_fabric hfab i).trans hto.qp
    have hout := sendOut_gives ht i x
    rw [hpeer] at hout
    exact hout.bind fun _ => rfl

theorem run_retryQp_exhausted (hretries : Config.retryLimit % 8 ≤ (s.qp i).retries) :
    M.run (retryQp i true) s = M.run (peerLost (s.qp i).job (s.qp i).rank 1) s := by
  unfold retryQp
  rw [run_getS_bind]
  dsimp only
  rw [if_pos ⟨rfl, hretries⟩]

theorem exec_roceAckReceive_refused {x : Nat} (hf : s.fabFenced = true) : TurnedAway (.roceAckReceive i psn x) s := by
  change execRoceAckReceive i psn x s = _
  exact whenEnabled_refused (by rw [hf]; rfl)

theorem exec_ackTimeout_refused (h : s.fabFenced = true ∨ (s.qp i).out = []) : TurnedAway (.ackTimeout i) s := by
  change execAckTimeout i s = _
  refine whenEnabled_refused ?_
  obtain h | h := h
  · rw [h]
    rfl
  · rw [h, List.isEmpty_nil, Bool.not_true, Bool.and_false]

theorem exec_cnpReceive_refused (hf : s.fabFenced = true) : TurnedAway (.cnpReceive i) s := by
  change execCnpReceive i s = _
  exact whenEnabled_refused (by rw [hf]; rfl)

section
variable (hf : s.fabFenced = false) (hphase : (s.qp i).phase = .ready)
include hf hphase

theorem exec_roceAckReceive (x : Nat) : exec (.roceAckReceive i psn x) s = .next (M.run (roceAck i psn x) s) := by
  change execRoceAckReceive i psn x s = _
  exact whenEnabled_next (by rw [hf, hphase]; rfl)

theorem exec_ackTimeout (hout : (s.qp i).out ≠ []) : exec (.ackTimeout i) s = .next (M.run (retryQp i true) s) := by
  change execAckTimeout i s = _
  exact whenEnabled_next (by rw [hf, hphase, List.isEmpty_eq_false_iff.mpr hout]; rfl)

theorem exec_cnpReceive : exec (.cnpReceive i) s = .next (s.withQp i { s.qp i with cnps := (s.qp i).cnps ++ [s.clock.now] }) := by
  change execCnpReceive i s = _
  exact whenEnabled_next (by rw [hf, hphase]; rfl)

end

/-! ## The rate at the end of a window (R419) -/

/-- A queue pair at the end of its rate window, with a new rate and step. -/
def State.rated (s : State) (i rate step : Nat) : Qp :=
  { s.qp i with
    rate := rate
    step := step
    cnps := (s.qp i).cnps.filter fun t => (s.qp i).windowAt < s.rateWindow t
    windowAt := (s.qp i).windowAt + 1 }

/-- The CNPs of the window that ends. -/
def State.windowCnps (s : State) (i : Nat) : Nat := ((s.qp i).cnps.filter fun t => s.rateWindow t == (s.qp i).windowAt).length

/-- The rate and step that follow the window. -/
def State.nextRate (s : State) (i : Nat) : Nat × Nat :=
  rateStep (s.qp i).line (s.fld Reg.fabRc Fld.fabRcRminMbps) (s.fld Reg.fabRc Fld.fabRcCut) (s.fld Reg.fabRc Fld.fabRcAddMbps)
    (s.fld Reg.fabRc Fld.fabRcStepMax * 1000) (s.windowCnps i) (s.qp i).rate (s.qp i).step

theorem exec_rateWindowEnd (hphase : (s.qp i).phase = .ready) (hwin : (s.qp i).windowAt < s.rateWindow (s.clock.now - settleMargin)) :
    exec (.rateWindowEnd i) s = .next (s.withQp i (s.rated i (s.nextRate i).1 (s.nextRate i).2)) := by
  change execRateWindowEnd i s = _
  exact whenEnabled_next (by rw [hphase, decide_eq_true hwin]; rfl)

theorem exec_rateWindowEnd_refused (h : (s.qp i).phase ≠ .ready ∨ s.rateWindow (s.clock.now - settleMargin) ≤ (s.qp i).windowAt) :
    TurnedAway (.rateWindowEnd i) s := by
  change execRateWindowEnd i s = _
  refine whenEnabled_refused ?_
  obtain h | h := h
  · rw [beq_eq_false_iff_ne.mpr h, Bool.false_and]
  · rw [decide_eq_false (Nat.not_lt.mpr h), Bool.and_false]

end

/-- Settles O49: each packet's run first, then what the queue pair and the wire show. -/
theorem rocePacketsAreTakenInOrderAndAnswered : Obligations.RocePacketsAreTakenInOrderAndAnswered := by
  unfold Obligations.RocePacketsAreTakenInOrderAndAnswered
  intro s i psn hs q write send answer answers taken nextPsn
  have htaken {c : Instr} {u t : State} {v : Qp} {out : List (Nat × List Byte)} (hexec : exec c s = .next t) (h : u.QpTo i v out t) :
      taken c u v out := ⟨t, hexec, h.same, h.qp, h.sent, h.fabric, h.others⟩
  have hanswers {c : Instr} {x y : Nat} (hexec : exec c s = .next (s.sends [ackPacket q x y])) : answers c x y :=
    ⟨_, hexec, s.sameBut_sends _, rfl⟩
  refine ⟨?_, ?_, ?_, exec_rateWindowEnd_refused⟩
  case refine_1 =>
    intro hf
    exact ⟨fun f r a l d ce => ⟨always_of_run (run_inbound_fenced hf _ _), always_of_run (run_rdmaRead_fenced hf _ _ _),
      always_of_run (run_inbound_fenced hf _ _)⟩,
      fun x => ⟨exec_roceAckReceive_refused hf, exec_ackTimeout_refused (.inl hf), exec_cnpReceive_refused hf⟩⟩
  case refine_2 =>
    intro hf hphase
    have hplain := congestion_gives_unmarked i s
    refine ⟨?_, ?_, ?_, ?_, ?_, ?_, fun hout => exec_ackTimeout_refused (.inr hout), ?_⟩
    case refine_1 =>
      intro f r a l d
      refine ⟨fun hclass => ?_, fun hclass => ⟨?_, ?_, ?_, ?_, ?_⟩⟩
      · exact ⟨hanswers (always_of_run (run_inbound_repeated hf hphase hplain _ hf hclass)),
          hanswers (always_of_run (run_inbound_repeated hf hphase hplain _ hf hclass))⟩
      · exact hanswers (always_of_run (run_inbound_gap hf hphase hplain _ hf hclass))
      · exact hanswers (always_of_run (run_inbound_gap hf hphase hplain _ hf hclass))
      · exact hanswers (always_of_run (run_rdmaRead_gap hf hphase hclass _ _ _))
      · intro hcnp
        have hto := ((State.QpTo.refl (s := s) (i := i) rfl).withQp { q with cnpAt := some s.clock.now }).sends
          [(0xB1, wirePacket q.peer 0x81 0 [] (zeros 16))]
        have hq : (s.cnpSent i).qp i = { q with cnpAt := some s.clock.now } := hto.qp
        have hrun := run_inbound_gap (psn := psn) hf hphase (congestion_gives_first hf hcnp) (roceTake i psn f d) (hto.fabFenced.trans hf)
          (by rw [hq]; exact hclass)
        rw [hq] at hrun
        have hend := hto.sends [ackPacket q q.recvPsn 0x60]
        exact ⟨_, always_of_run hrun, hend.same, hend.sent, hend.qp⟩
      · exact fun x hcnp hnow => hanswers (always_of_run (run_inbound_gap hf hphase (congestion_gives_recent hcnp hnow) _ hf hclass))
    case refine_2 =>
      intro hpsn
      subst hpsn
      have hwrite (f r a l : Nat) (d : List Byte) {t : State} (h : M.run (rdmaTake i q.recvPsn f r a l d) s = t) :
          exec (write f r a l d) s = .next t := always_of_run ((run_inbound_expected hf hphase hplain _ rfl).trans h)
      have hsend (f : Nat) (d : List Byte) {t : State} (h : M.run (roceTake i q.recvPsn f d) s = t) :
          exec (send f d) s = .next t := always_of_run ((run_inbound_expected hf hphase hplain _ rfl).trans h)
      refine ⟨?_, ?_, ?_, ?_, ?_, ?_, ?_, ?_, ?_, ?_, ?_⟩
      case refine_1 => exact fun f r a l d hform hmsg => hanswers (hwrite _ _ _ _ _ (run_rdmaTake_stray hf hform hmsg))
      case refine_2 =>
        intro r a l d hmsg
        have hto := (State.QpTo.refl (s := s) (i := i) rfl).withQp (q.taken 2 false r a l d)
        have hv : q.taken 2 false r a l d = { q with part := q.part ++ d, recvPsn := nextPsn } := by
          conv_rhs => rw [show q = { q with msg := 2 } by rw [← hmsg]]
          rfl
        exact htaken (hwrite _ _ _ _ _ ((run_rdmaTake_next (.inl rfl) hmsg).trans (run_rdmaStore_more (.inr rfl) _))) (hv ▸ hto)
      case refine_3 =>
        intro r a l d u hadmit
        have hu : u.qp i = q := State.qp_of_fabric (rdmaAdmit_keeps hadmit).1 i
        have hto := (State.QpTo.refl (s := u) (i := i) rfl).withQp ((u.qp i).taken 2 true r a l d)
        have hexec := hwrite 0 r a l d ((run_rdmaTake_first (.inl rfl) hadmit).trans (run_rdmaStore_more (.inl rfl) _))
        rw [hu] at hto hexec
        exact htaken hexec hto
      case refine_4 =>
        intro r a l d v hlen hwhole hf'
        obtain ⟨u, hadmit, hrest⟩ := rdmaAdmit_leads_true hwhole
        have hu : u.qp i = q := State.qp_of_fabric (rdmaAdmit_keeps hadmit).1 i
        have htake := takePacket_gives i 2 true r a l d u
        rw [hu] at htake
        have hstore := M.gives.of_bind htake hrest
        exact htaken (hwrite 3 r a l d (run_rdmaTake_first (.inr rfl) hadmit))
          (run_rdmaStore_whole (.inr rfl) (congrArg (Qp.taken · 2 true r a l d) hu).symm hlen hstore hf')
      case refine_5 =>
        intro r a l d v hmsg hlen hwhole hf'
        have hstore := M.gives.of_bind (takePacket_gives i 2 false r a l d s) hwhole
        have hall : (q.taken 2 false r a l d).part.length = q.total := List.length_append.trans hlen
        exact htaken (hwrite 2 r a l d (run_rdmaTake_next (.inr rfl) hmsg)) (run_rdmaStore_whole (.inl rfl) rfl hall hstore hf')
      case refine_6 =>
        intro f r a l d hform hok
        have hquiet := s.afterEvent_quiet 0xB1 6 0x3D01 (det [(4, r), (6, a), (1, q.job), (1, q.rank)])
        have hqp := State.qp_of_fabric (hquiet.sameBut.2 .fabric (by decide)) i
        have hto := (State.QpTo.refl hqp).withQp { q with msg := 0, part := [] }
        have hrefused := rdmaAdmit_gives_refused (i := i) (psn := q.recvPsn) hf hok true
        have hv : s.rdmaRefused i r a = State.withQp _ i { q with msg := 0, part := [] } :=
          congrArg (fun x : Qp => State.withQp _ i { x with msg := 0, part := [] }) hqp
        rw [hv, hto.qp] at hrefused
        exact htaken (hwrite f r a l d (run_rdmaTake_refused hform hrefused)) (hto.sends _)
      case refine_7 => exact fun f d hform hmsg => hanswers (hsend _ _ (run_roceTake_stray hf hform hmsg))
      case refine_8 =>
        intro d
        exact htaken (hsend _ _ run_roceTake_first) ((State.QpTo.refl rfl).withQp _)
      case refine_9 =>
        intro d hmsg
        have hto := (State.QpTo.refl (s := s) (i := i) rfl).withQp (q.taken 1 false 0 0 0 d)
        have hv : q.taken 1 false 0 0 0 d = { q with part := q.part ++ d, recvPsn := nextPsn } := by
          conv_rhs => rw [show q = { q with msg := 1 } by rw [← hmsg]]
          rfl
        exact htaken (hsend _ _ (run_roceTake_next hmsg)) (hv ▸ hto)
      case refine_10 =>
        intro d hlen hkind
        have hto := roceEnd_spec (s := s.withTransfer (transferOf d s.clock.now)) (psn := q.recvPsn) (data := d) (i := i) hf 0
        have hsame : s.SameBut [.fabric, .sent] (s.withTransfer (transferOf d s.clock.now)) :=
          (State.SameBut.refl _ s).upd (.fabric _) rfl
        exact ⟨_, hsend _ _ (run_roceTake_transfer hkind hlen), hsame.trans hto.same, hto.sent, hto.qp, congrArg Fabric.transfers hto.fabric⟩
      case refine_11 =>
        intro d code u hkind hmsg hf' end_
        have hto := roceEnd_spec (psn := q.recvPsn) (data := d) (i := i) hf' code
        refine ⟨_, hsend _ _ (run_roceTake_message hkind hmsg), hto.same, hto.sent, ?_⟩
        rw [hto.qp]
        split <;> rfl
    case refine_3 =>
      intro r a l u bs v hclass hadmit hread hf' ps op
      exact htaken (always_of_run rfl) (rdmaRead_spec hf hphase hclass hadmit hread hf')
    case refine_4 =>
      intro nak good
      exact completesThen_of ⟨s.sameBut_withQp _ _, fun x hx => s.qp_withQp _ hx, s.qp_withQp_same _ _⟩ (exec_roceAckReceive hf hphase nak)
    case refine_5 =>
      intro p n k hentry htask hk hsending hop
      rw [run_packetAcked hentry htask hsending]
      have h := oneTask_modTask hk fun k => if dOpcode k.desc = 0x800 then { k with done := true } else k
      rwa [if_pos hop] at h
    case refine_6 =>
      intro hout
      have hexec := exec_ackTimeout hf hphase hout
      exact ⟨fun hretries => htaken hexec (retryQp_spec hf hretries),
        fun hretries => completesThen_of rfl (hexec.trans (congrArg _ (run_retryQp_exhausted hretries)))⟩
    case refine_7 => exact htaken (exec_cnpReceive hf hphase) ((State.QpTo.refl rfl).withQp _)
  case refine_3 =>
    intro hphase hwin c add after
    have hexec := exec_rateWindowEnd hphase hwin
    have hafter {rate step : Nat} (h : s.nextRate i = (rate, step)) : after rate step := by
      rw [h] at hexec
      exact htaken hexec ((State.QpTo.refl rfl).withQp _)
    refine ⟨fun hc => hafter (if_pos hc), fun hc hline => hafter ?_, fun hc hline => hafter ?_⟩
    · exact (if_neg (by rw [show s.windowCnps i = 0 from hc]; decide)).trans (if_pos hline)
    · exact (if_neg (by rw [show s.windowCnps i = 0 from hc]; decide)).trans (if_neg (Nat.not_lt.mpr hline))

end Sys2Proof.Machine
end

section
/-! PROOFS. Units are tested in service and restored: O53 (R488–R495). -/

namespace Sys2Proof.Machine

open Sys2Proof

section
variable {s t : State} {u : Nat}

theorem State.SameBut.canonical {ps : List Part} (h : s.SameBut ps t) (hmem : Part.mem ∉ ps) (hregs : Part.regs ∉ ps) (hs : s.Canonical) :
    t.Canonical := by
  have hm : t.mem = s.mem := h.2 .mem hmem
  have hr : t.regs = s.regs := h.2 .regs hregs
  rw [State.Canonical, hm, hr]
  exact hs

/-! ## The state of the test, and what BIST_STATUS shows (R488) -/

/-- The state in which the test's state is `b`. -/
def State.withBist (s : State) (b : Bist) : State := (Upd.bist fun _ => b).apply s

theorem State.sameBut_withBist (s : State) (b : Bist) : s.SameBut [.bist] (s.withBist b) := Upd.sameBut _ s

theorem State.canonical_withBist (hs : s.Canonical) (b : Bist) : (s.withBist b).Canonical := hs

theorem State.fld_withBist (s : State) (b : Bist) (x : Nat) (f : Field) : (s.withBist b).fld x f = s.fld x f := rfl

theorem updateBist_gives (f : Bist → Bist) (s : State) : (update (.bist f)).gives s () (s.withBist (f s.bist)) := fun _ => rfl

/-- The state whose BIST_STATUS shows a test. -/
def State.testShown (s : State) (busy unit phase : Nat) : State :=
  ((s.putFld Reg.bistStatus Fld.bistStatusBusy busy).putFld Reg.bistStatus Fld.bistStatusUnit unit).putFld Reg.bistStatus Fld.bistStatusPhase phase

theorem bistStatus_gives (busy unit phase : Nat) (s : State) : (bistStatus busy unit phase).gives s () (s.testShown busy unit phase) :=
  (wrFld_gives _ _ _ _).bind ((wrFld_gives _ _ _ _).bind (wrFld_gives _ _ _ _))

theorem State.sameBut_testShown (s : State) (busy unit phase : Nat) : s.SameBut [.regs] (s.testShown busy unit phase) :=
  ((s.sameBut_putFld _ _ _).trans (State.sameBut_putFld _ _ _ _)).trans (State.sameBut_putFld _ _ _ _)

/-- What BIST_STATUS shows: whether a test runs, its unit and its phase. -/
def State.Tests (s : State) (busy unit phase : Nat) : Prop :=
  s.fld Reg.bistStatus Fld.bistStatusBusy = busy ∧ s.fld Reg.bistStatus Fld.bistStatusUnit = unit ∧ s.fld Reg.bistStatus Fld.bistStatusPhase = phase

section
variable (hs : s.Canonical)
include hs

theorem State.tests_testShown {busy unit phase : Nat} (hb : busy < 2) (hu : unit < 16) (hp : phase < 8) :
    (s.testShown busy unit phase).Tests busy unit phase := by
  have h1 := State.canonical_putFld hs Reg.bistStatus Fld.bistStatusBusy busy
  have h2 := State.canonical_putFld h1 Reg.bistStatus Fld.bistStatusUnit unit
  refine ⟨?_, ?_, ?_⟩
  · rw [State.testShown, State.fld_putFld_apart h2 (by decide), State.fld_putFld_apart h1 (by decide), State.fld_putFld_same hs (by decide) hb]
  · rw [State.testShown, State.fld_putFld_apart h2 (by decide), State.fld_putFld_same h1 (by decide) hu]
  · rw [State.testShown, State.fld_putFld_same h2 (by decide) hp]

theorem State.reg_testShown {busy unit phase x : Nat} (hx : x ≠ Reg.bistStatus) : (s.testShown busy unit phase).reg x = s.reg x := by
  have h1 := State.canonical_putFld hs Reg.bistStatus Fld.bistStatusBusy busy
  have h2 := State.canonical_putFld h1 Reg.bistStatus Fld.bistStatusUnit unit
  rw [State.testShown, State.reg_putFld h2, if_neg hx, State.reg_putFld h1, if_neg hx, State.reg_putFld hs, if_neg hx]

theorem State.fld_testShown {busy unit phase x : Nat} (hx : x ≠ Reg.bistStatus) (f : Field) : (s.testShown busy unit phase).fld x f = s.fld x f := by
  rw [State.fld, State.reg_testShown hs hx, State.fld]

theorem State.canonical_testShown (busy unit phase : Nat) : (s.testShown busy unit phase).Canonical :=
  State.canonical_putFld (State.canonical_putFld (State.canonical_putFld hs _ _ _) _ _ _) _ _ _

end

theorem bistResult_ne_status (u : Nat) : Reg.bistResult u ≠ Reg.bistStatus := by
  simp only [Reg.bistResult, Reg.bistStatus]
  omega

theorem bistResult_ne_misr {u : Nat} (hu : u < 11) : Reg.bistResult u ≠ Reg.bistMisrPort ∧ Reg.bistResult u ≠ Reg.bistMisrBody := by
  simp only [Reg.bistResult, Reg.bistMisrPort, Reg.bistMisrBody]
  omega

theorem nodup_unitEngines (u : Nat) : (unitEngines u).Nodup := by
  by_cases h : u < 6
  · interval_cases u <;> decide
  · rw [unitEngines, if_neg h]
    exact List.nodup_nil

theorem State.sameBut_engines_canonical (hs : s.Canonical) (f : Engine → Engine) (l : List Nat) : (State.withEngines f l s).Canonical :=
  (State.sameBut_withEngines f l s).canonical (by decide) (by decide) hs

/-! ## Tests begin (R488, R490, R491) -/

/-- The state in which the test of unit `u` has begun. -/
def State.testBegun (s : State) (u : Nat) : State :=
  State.withEngines (fun g => { g with testing := true }) (unitEngines u)
    ((s.withBist { s.bist with
      unit := some u
      since := s.clock.now
      aborted := false
      port := 0
      body := 0
      rotated := tblSet s.bist.rotated u s.clock.now }).testShown 1 u (if u = 6 then 4 else 1))

theorem beginTest_then (h : s.bistRefusal u = none) : (beginTest u).Then s presenceChanged fun t => t = s.testBegun u := by
  refine ⟨_, rfl, ?_⟩
  unfold beginTest
  rw [run_getS_bind, h]
  dsimp only
  exact (updateBist_gives _ s).run_bind _ |>.trans ((bistStatus_gives _ _ _ _).run_bind _ |>.trans ((forIn_modEngine_gives _ _ _).run_bind _))

theorem run_beginTest_refused {why : Nat} (h : s.bistRefusal u = some why) :
    M.run (beginTest u) s = s.afterEvent 0x81 (if u < 6 then u else 6) 0x3F01 (det [(1, u), (1, why)]) := by
  unfold beginTest
  rw [run_getS_bind, h]
  rfl

theorem State.bistRefusal_none (h : s.bistRefusal u = none) : u < 7 := by
  unfold State.bistRefusal at h
  split at h
  · exact absurd h (by simp)
  · split at h
    · exact absurd h (by simp)
    · split at h
      · exact absurd h (by simp)
      · split at h
        · exact absurd h (by simp)
        · omega

/-- What a begun test shows, with the list of tests to be repeated. -/
def State.Begins (s : State) (u : Nat) (retry : List (Nat × Nat × Nat)) (t : State) : Prop :=
  s.SameBut [.regs, .engines, .bist] t ∧ t.Tests 1 u (if u = 6 then 4 else 1) ∧ (∀ x, x ≠ Reg.bistStatus → t.reg x = s.reg x) ∧
    t.bist = { s.bist with
      unit := some u
      since := s.clock.now
      aborted := false
      port := 0
      body := 0
      retry := retry
      rotated := tblSet s.bist.rotated u s.clock.now } ∧
    ∀ e, t.engine e = if e ∈ unitEngines u then { s.engine e with testing := true } else s.engine e

theorem State.begins_testBegun (hs : s.Canonical) (hu : u < 7) : s.Begins u s.bist.retry (s.testBegun u) := by
  let b : Bist := { s.bist with
    unit := some u
    since := s.clock.now
    aborted := false
    port := 0
    body := 0
    rotated := tblSet s.bist.rotated u s.clock.now }
  have hb : (s.withBist b).Canonical := State.canonical_withBist hs b
  have hsame := State.sameBut_withEngines (fun g => { g with testing := true }) (unitEngines u)
    ((s.withBist b).testShown 1 u (if u = 6 then 4 else 1))
  have hregs := hsame.2 .regs (by decide)
  have htests : ((s.withBist b).testShown 1 u (if u = 6 then 4 else 1)).Tests 1 u (if u = 6 then 4 else 1) :=
    State.tests_testShown hb (by decide) (by omega) (by split <;> decide)
  refine ⟨?_, ?_, fun x hx => ?_, hsame.2 .bist (by decide), fun e => State.engine_withEngines _ e _ _ (nodup_unitEngines u)⟩
  · exact (((s.sameBut_withBist b).mono (by decide)).trans ((State.sameBut_testShown _ _ _ _).mono (by decide))).trans (hsame.mono (by decide))
  · exact ⟨(fld_congr hregs _ _).trans htests.1, (fld_congr hregs _ _).trans htests.2.1, (fld_congr hregs _ _).trans htests.2.2⟩
  · exact (reg_congr hregs x).trans (State.reg_testShown hb hx)

theorem exec_bistStart {v : State} {w : Requester} (h : M.run (bistStart w u) s = v) : exec (.bistStart w u) s = .next v := by
  change execBistStart w u s = _
  exact always_of_run h

theorem run_bistStart_refused {w : Requester} (h : w ≠ .bcc ∨ 11 ≤ u) :
    M.run (bistStart w u) s = refusedWrite s Reg.bistCmd (u % 16 + 16) 0 := by
  unfold bistStart
  rw [if_pos h]
  exact run_refuseReg _ _ _ _

theorem run_bistStart (hu : u < 11) : M.run (bistStart .bcc u) s = M.run (beginTest u) s := by
  unfold bistStart
  rw [if_neg (by simp; omega)]

/-! ## Rotation and repetition (R490) -/

theorem exec_rotationDue (h : s.rotationUnit = some u) : exec .rotationDue s = .next (M.run (beginTest u) s) := by
  have hrun : M.run rotationDue s = M.run (beginTest u) s := by
    unfold rotationDue
    rw [run_getS_bind, h]
  change execRotationDue s = _
  rw [← hrun]
  exact whenEnabled_next (by rw [h]; rfl)

theorem exec_rotationDue_refused (h : s.rotationUnit = none) : TurnedAway .rotationDue s := by
  change execRotationDue s = _
  exact whenEnabled_refused (by rw [h]; rfl)

/-- Whether rotation may test unit `u` when its period is `n` (R490). -/
def State.rotates (s : State) (n u : Nat) : Bool :=
  bitAt (s.fld Reg.bistRot Fld.bistRotRotMask) u && (s.bistRefusal u).isNone && (match tblFind s.bist.rotated u with
    | some t => decide (t + n ≤ s.clock.now)
    | none => true)

theorem State.rotates_spec {n : Nat} (h : s.rotates n u = true) : bitAt (s.fld Reg.bistRot Fld.bistRotRotMask) u = true ∧
    s.bistRefusal u = none ∧ ∀ x, tblFind s.bist.rotated u = some x → x + n ≤ s.clock.now := by
  obtain ⟨hleft, hdue⟩ := Bool.and_eq_true_iff.mp h
  obtain ⟨hmask, hfree⟩ := Bool.and_eq_true_iff.mp hleft
  refine ⟨hmask, Option.isNone_iff_eq_none.mp hfree, fun x hx => ?_⟩
  rw [hx] at hdue
  exact of_decide_eq_true hdue

theorem State.rotationUnit_eq (s : State) : s.rotationUnit = if !s.flag Reg.bistRot Fld.bistRotEnable then none
    else (List.range 7).find? (s.rotates (s.fld Reg.bistRot Fld.bistRotPeriodH * 3600 * 2 ^ 32)) := rfl

theorem State.rotationUnit_some (h : s.rotationUnit = some u) : s.flag Reg.bistRot Fld.bistRotEnable = true ∧
    bitAt (s.fld Reg.bistRot Fld.bistRotRotMask) u = true ∧ s.bistRefusal u = none ∧
    ∀ x, tblFind s.bist.rotated u = some x → x + s.fld Reg.bistRot Fld.bistRotPeriodH * 3600 * 2 ^ 32 ≤ s.clock.now := by
  rw [State.rotationUnit_eq] at h
  cases hflag : s.flag Reg.bistRot Fld.bistRotEnable with
  | false =>
    rw [hflag] at h
    exact absurd h (by simp)
  | true =>
    rw [hflag] at h
    exact ⟨rfl, State.rotates_spec (List.find?_some h)⟩

/-- The list of tests to be repeated, unit `u`'s now for the next time. -/
def State.retriesNoted (s : State) (u n : Nat) : List (Nat × Nat × Nat) :=
  s.bist.retry.map fun r => if r.1 = u then (u, s.clock.now, n + 1) else r

theorem exec_bistRetry {x n : Nat} (h : s.retryUnit = some (u, x, n)) :
    exec .bistRetry s = .next (M.run (beginTest u) (s.withBist { s.bist with retry := s.retriesNoted u n })) := by
  have hrun : M.run bistRetry s = M.run (beginTest u) (s.withBist { s.bist with retry := s.retriesNoted u n }) := by
    unfold bistRetry
    rw [run_getS_bind, h]
    rfl
  change execBistRetry s = _
  rw [← hrun]
  exact whenEnabled_next (by rw [h]; rfl)

theorem exec_bistRetry_refused (h : s.retryUnit = none) : TurnedAway .bistRetry s := by
  change execBistRetry s = _
  exact whenEnabled_refused (by rw [h]; rfl)

theorem State.retryUnit_some {x n : Nat} (h : s.retryUnit = some (u, x, n)) :
    n < 3 ∧ s.bistRefusal u = none ∧ x + 600 * 2 ^ 32 ≤ s.clock.now := by
  have hr := List.find?_some h
  obtain ⟨hleft, hdue⟩ := Bool.and_eq_true_iff.mp hr
  obtain ⟨hn, hfree⟩ := Bool.and_eq_true_iff.mp hleft
  exact ⟨of_decide_eq_true hn, Option.isNone_iff_eq_none.mp hfree, of_decide_eq_true hdue⟩

/-! ## The drain limit (R488, R489) -/

/-- What the drain limit interrupts before the unit is fenced. -/
def drainUnit (u : Nat) : M Unit := do
  if u = 4 then camerasDown
  if u = 5 then jesdDown
  let _ ← interruptEngines (unitEngines u) (0x800 + u)
  for e in unitEngines u do drainDma e

/-- The fence of a unit, whose DDR enters self-refresh. -/
def drainFence (u now : Nat) : M Unit := do
  update (.rcv fun r => { r with fences := tblSet r.fences (0x100 + u) ⟨now, none, 0, 0⟩ })
  if u < 4 then
    selfRefresh u
    wrFld (Reg.streamMode u) Fld.streamModeRestricted 1
  bistStatus 1 u 2

theorem run_bistDrainLimit {v : State} (hu : s.bist.unit = some u) (hdrained : (drainUnit u).gives s () v) :
    M.run bistDrainLimit s = M.run (drainFence u s.clock.now) v := by
  refine Eq.trans ?_ (hdrained.run_bind fun _ => drainFence u s.clock.now)
  unfold bistDrainLimit drainUnit
  rw [run_getS_bind, hu]
  dsimp only
  by_cases h4 : u = 4
  · simp only [if_pos h4, if_neg (show u ≠ 5 by omega)]
    rfl
  · by_cases h5 : u = 5
    · simp only [if_neg h4, if_pos h5]
      rfl
    · simp only [if_neg h4, if_neg h5]
      rfl

theorem streamMode_ne_bistStatus (u : Nat) (hu : u < 4) : Reg.streamMode u ≠ Reg.bistStatus := by
  simp only [Reg.streamMode, Reg.bistStatus]
  omega

/-- The state with unit `u` fenced. -/
def State.unitFenced (s : State) (u now : Nat) : State :=
  (Upd.rcv fun r => { r with fences := tblSet r.fences (0x100 + u) ⟨now, none, 0, 0⟩ }).apply s

/-- What the fence of a unit shows. -/
structure State.FencedUnit (s : State) (u now : Nat) (t : State) : Prop where
  same : s.SameBut [.regs, .rcv] t
  tests : t.Tests 1 u 2
  fence : tblFind t.rcv.fences (0x100 + u) = some ⟨now, none, 0, 0⟩
  restricted : u < 4 → t.fld (Reg.streamMode u) Fld.streamModeRestricted = 1

theorem State.FencedUnit.of_regs {now : Nat} {w : State} (hw : w.Canonical) (h : (s.unitFenced u now).SameBut [.regs] w) (hu : u < 7)
    (hr : u < 4 → w.fld (Reg.streamMode u) Fld.streamModeRestricted = 1) : s.FencedUnit u now (w.testShown 1 u 2) where
  same := ((State.SameBut.refl [.regs, .rcv] s).upd (.rcv _) rfl).trans ((h.mono (by decide)).trans ((State.sameBut_testShown _ _ _ _).mono (by decide)))
  tests := State.tests_testShown hw (by decide) (by omega) (by decide)
  fence := by
    have hfences : w.rcv = (s.unitFenced u now).rcv := h.2 .rcv (by decide)
    change tblFind w.rcv.fences _ = _
    rw [hfences]
    exact tblFind_tblSet_same _ _ _
  restricted h4 := by rw [State.fld_testShown hw (streamMode_ne_bistStatus u h4), hr h4]

theorem drainFence_leads (hs : s.Canonical) (hu : u < 7) (now : Nat) : (drainFence u now).Leads s fun _ t => s.FencedUnit u now t := by
  have hf : (s.unitFenced u now).Canonical := hs
  unfold drainFence
  refine .upd ?_
  by_cases h4 : u < 4
  · rw [if_pos h4]
    refine M.All.leads_bind (selfRefresh_reach (msk := 0x8) rfl u) fun _ w hsteps => ?_
    have hw : w.Canonical := hsteps.canonical hf
    have hsame : (s.unitFenced u now).SameBut [.regs] w := Reaches.sameBut hsteps [.regs] rfl
    refine (wrFld_gives _ _ _ _).leads_bind ((bistStatus_gives _ _ _ _).leads ?_)
    refine .of_regs (State.canonical_putFld hw _ _ _) (hsame.trans (State.sameBut_putFld _ _ _ _)) hu fun _ => ?_
    exact State.fld_putFld_same hw (by decide) (by decide)
  · rw [if_neg h4]
    exact (bistStatus_gives _ _ _ _).leads (.of_regs hf (.refl _ _) hu fun h => absurd h h4)

theorem exec_bistDrainLimit (hu : s.bist.unit = some u) (hphase : s.bistPhase = 1)
    (hdue : s.bist.since + msUnits (s.fld Reg.bistRot Fld.bistRotDrainMs) ≤ s.clock.now) :
    exec .bistDrainLimit s = .next (M.run bistDrainLimit s) := by
  change execBistDrainLimit s = _
  exact whenEnabled_next (by rw [hu, hphase, decide_eq_true hdue]; rfl)

theorem exec_bistDrainLimit_refused (h : s.bist.unit = none ∨ s.bistPhase ≠ 1 ∨
    s.clock.now < s.bist.since + msUnits (s.fld Reg.bistRot Fld.bistRotDrainMs)) : TurnedAway .bistDrainLimit s := by
  change execBistDrainLimit s = _
  refine whenEnabled_refused ?_
  obtain h | h | h := h
  · rw [h]
    rfl
  · rw [beq_eq_false_iff_ne.mpr h, Bool.and_false, Bool.false_and]
  · rw [decide_eq_false (Nat.not_le.mpr h), Bool.and_false]

/-! ## LBIST (R482, R483, R495) -/

/-- The tests to be repeated after a scan of unit `u` (R490). -/
def State.retriesAfter (s : State) (u : Nat) (valid : Bool) : List (Nat × Nat × Nat) :=
  let rest := s.bist.retry.filter fun r => r.1 != u
  if valid then rest else rest ++ [(u, s.clock.now, ((s.bist.retry.find? fun r => r.1 == u).map (·.2.2)).getD 0)]

theorem noteRetry_gives (u : Nat) (valid : Bool) (s : State) :
    (noteRetry u valid).gives s () (s.withBist { s.bist with retry := s.retriesAfter u valid }) := fun _ => rfl

/-- The state that keeps the signatures of a scan. -/
def State.scanned (s : State) (mp mb : Word) (u broken : Nat) : State :=
  ((s.putReg Reg.bistMisrPort mp).putReg Reg.bistMisrBody mb).withBist { s.bist with retry := s.retriesAfter u (broken == 0) }

/-- What a scan keeps, whatever its result. -/
structure State.Scanned (s : State) (mp mb : Word) (u broken : Nat) (t : State) : Prop where
  same : s.SameBut [.regs, .bist] t
  port : t.reg Reg.bistMisrPort = mp
  body : t.reg Reg.bistMisrBody = mb
  retry : t.bist.retry = s.retriesAfter u (broken == 0)

theorem State.canonical_scanned (hs : s.Canonical) (mp mb : Word) (u broken : Nat) : (s.scanned mp mb u broken).Canonical :=
  State.canonical_withBist (Upd.apply_canonical (.reg _ _) _ (Upd.apply_canonical (.reg _ _) _ hs)) _

theorem State.scanned_spec (hs : s.Canonical) (mp mb : Word) (u broken : Nat) : s.Scanned mp mb u broken (s.scanned mp mb u broken) := by
  have h1 : (s.putReg Reg.bistMisrPort mp).Canonical := Upd.apply_canonical (.reg _ _) _ hs
  have hreg (x : Nat) : (s.scanned mp mb u broken).reg x = ((s.putReg Reg.bistMisrPort mp).putReg Reg.bistMisrBody mb).reg x := rfl
  refine ⟨?_, ?_, ?_, rfl⟩
  · exact (((s.sameBut_putReg _ _).mono (by decide)).trans ((State.sameBut_putReg _ _ _).mono (by decide))).trans
      ((State.sameBut_withBist _ _).mono (by decide))
  · rw [hreg, State.oneReg_putReg h1, if_neg (by decide), State.oneReg_putReg hs, if_pos rfl]
  · rw [hreg, State.oneReg_putReg h1, if_pos rfl]

theorem State.Scanned.retries {mp mb : Word} {broken : Nat} (h : s.Scanned mp mb u broken t) :
    (∀ r ∈ t.bist.retry, r.1 = u → broken ≠ 0 ∧ r.2.1 = s.clock.now) ∧ (broken ≠ 0 → ∃ n, (u, s.clock.now, n) ∈ t.bist.retry) := by
  rw [h.retry, State.retriesAfter]
  constructor
  · intro r hr hru
    have hrest : r ∉ s.bist.retry.filter fun r => r.1 != u := fun hm => by
      have := (List.mem_filter.mp hm).2
      rw [hru, bne_self_eq_false] at this
      exact Bool.false_ne_true this
    split at hr
    · exact absurd hr hrest
    case isFalse hb =>
      obtain hm | hm := List.mem_append.mp hr
      · exact absurd hm hrest
      · rw [List.mem_singleton.mp hm]
        exact ⟨fun h0 => hb (by rw [h0]; rfl), rfl⟩
  · intro hb
    rw [if_neg (by simpa using hb)]
    exact ⟨_, List.mem_append_right _ (List.mem_singleton_self _)⟩

section
variable {mp mb : Word} {broken worst : Nat}

theorem run_lbistComplete_unit (hu : s.bist.unit = some u) (hlt : u < 6) :
    M.run (lbistComplete mp mb 0 worst) s = M.run (do
      unitTested u (u < 6 && mp != Config.scanSignature u 0) (mb != Config.scanSignature u 1) 1 s.bist.since
        (if u < 6 && mp != Config.scanSignature u 0 then mp.toNat else mb.toNat)
      bistStatus 1 u 5) (s.scanned mp mb u 0) := by
  unfold lbistComplete
  rw [run_getS_bind, hu]
  dsimp only
  rw [(wrReg_gives _ _ _).run_bind, (wrReg_gives _ _ _).run_bind, (noteRetry_gives _ _ _).run_bind, if_neg (by decide), if_neg (by omega)]
  rfl

/-- The state whose BIST_RESULT shows that the conditions were not met. -/
def State.conditionsShown (s : State) (u : Nat) : State :=
  (if u < 6 then s.putFld (Reg.bistResult u) Fld.bistResultPort 3 else s).putFld (Reg.bistResult u) Fld.bistResultBody 3

theorem run_lbistComplete_broken (hu : s.bist.unit = some u) (hbroken : broken ≠ 0) :
    M.run (lbistComplete mp mb broken worst) s = M.run (do
      raise 0x81 (if u < 6 then u else 6) 0x0F02 (det [(1, u), (1, broken - 1), (2, 0), (4, worst)])
      bistStatus 1 u 5) ((s.scanned mp mb u broken).conditionsShown u) := by
  unfold lbistComplete State.conditionsShown
  rw [run_getS_bind, hu]
  dsimp only
  rw [(wrReg_gives _ _ _).run_bind, (wrReg_gives _ _ _).run_bind, (noteRetry_gives _ _ _).run_bind, if_pos hbroken]
  by_cases hlt : u < 6
  · simp only [if_pos hlt]
    rfl
  · simp only [if_neg hlt]
    rfl

/-- The state in which the SAFE segment's body has failed its scan. -/
def State.safeScanFailed (s : State) : State := s.withBist { s.bist with body := 1, badBody := (s.bist.badBody ++ [6]).dedup }

theorem run_lbistComplete_safe_bad (hu : s.bist.unit = some 6) (hbad : (mb != Config.scanSignature 6 1) = true) (hport : s.bist.port = 0) :
    M.run (lbistComplete mp mb 0 worst) s = M.run (do
      safeUnitFailed
      bistStatus 1 6 5) (s.scanned mp mb 6 0).safeScanFailed := by
  unfold lbistComplete
  rw [run_getS_bind, hu]
  dsimp only
  rw [(wrReg_gives _ _ _).run_bind, (wrReg_gives _ _ _).run_bind, (noteRetry_gives _ _ _).run_bind, if_neg (by decide), if_pos rfl, if_pos hbad]
  simp only [if_neg (show ¬ s.bist.port = 1 by omega)]
  rfl

theorem run_lbistComplete_safe_good (hu : s.bist.unit = some 6) (hgood : (mb != Config.scanSignature 6 1) = false) (hport : s.bist.port = 0) :
    M.run (lbistComplete mp mb 0 worst) s = (s.scanned mp mb 6 0).testShown 1 6 5 := by
  unfold lbistComplete
  rw [run_getS_bind, hu]
  dsimp only
  rw [(wrReg_gives _ _ _).run_bind, (wrReg_gives _ _ _).run_bind, (noteRetry_gives _ _ _).run_bind, if_neg (by decide), if_pos rfl,
    if_neg (by rw [hgood]; decide)]
  simp only [if_neg (show ¬ s.bist.port = 1 by omega)]
  exact (bistStatus_gives _ _ _ _).run

theorem State.Scanned.of_reg (h : s.Scanned mp mb u broken t) {v : State} (hsame : t.SameBut [.regs, .bist] v)
    (hretry : v.bist.retry = t.bist.retry) (hport : v.reg Reg.bistMisrPort = t.reg Reg.bistMisrPort)
    (hbody : v.reg Reg.bistMisrBody = t.reg Reg.bistMisrBody) : s.Scanned mp mb u broken v :=
  ⟨h.same.trans hsame, hport.trans h.port, hbody.trans h.body, hretry.trans h.retry⟩

theorem State.conditionsShown_spec (hs : s.Canonical) (u : Nat) : s.SameBut [.regs] (s.conditionsShown u) ∧
    (∀ x, x ≠ Reg.bistResult u → (s.conditionsShown u).reg x = s.reg x) ∧
    (s.conditionsShown u).fld (Reg.bistResult u) Fld.bistResultBody = 3 ∧
    (u < 6 → (s.conditionsShown u).fld (Reg.bistResult u) Fld.bistResultPort = 3) := by
  unfold State.conditionsShown
  by_cases hlt : u < 6
  · have h1 := State.canonical_putFld hs (Reg.bistResult u) Fld.bistResultPort 3
    rw [if_pos hlt]
    refine ⟨(s.sameBut_putFld _ _ _).trans (State.sameBut_putFld _ _ _ _), fun x hx => ?_, State.fld_putFld_same h1 (by decide) (by decide), fun _ => ?_⟩
    · rw [State.reg_putFld h1, if_neg hx, State.reg_putFld hs, if_neg hx]
    · rw [State.fld_putFld_apart h1 (by decide), State.fld_putFld_same hs (by decide) (by decide)]
  · rw [if_neg hlt]
    exact ⟨s.sameBut_putFld _ _ _, fun x hx => by rw [State.reg_putFld hs, if_neg hx], State.fld_putFld_same hs (by decide) (by decide),
      fun h => absurd h hlt⟩

theorem exec_lbistComplete (hu : s.bist.unit = some u) (hphase : s.bistPhase = 4) (hbroken : broken ≤ 2) :
    exec (.lbistComplete mp mb broken worst) s = .next (M.run (lbistComplete mp mb broken worst) s) := by
  change execLbistComplete mp mb broken worst s = _
  exact whenEnabled_next (by rw [hu, hphase, decide_eq_true hbroken]; rfl)

theorem exec_lbistComplete_refused (h : s.bist.unit = none ∨ s.bistPhase ≠ 4) : TurnedAway (.lbistComplete mp mb broken worst) s := by
  change execLbistComplete mp mb broken worst s = _
  refine whenEnabled_refused ?_
  obtain h | h := h
  · rw [h]
    rfl
  · rw [beq_eq_false_iff_ne.mpr h, Bool.and_false, Bool.false_and]

end

/-! ## A unit is judged by its signatures (R487) -/

/-- The state that shows the results of a unit. -/
def State.unitShown (s : State) (u : Nat) (pb bb : Bool) : State :=
  ((s.putFld (Reg.bistResult u) Fld.bistResultPort (if !decide (u < 6) then 0 else if pb then 2 else 1)).putFld
    (Reg.bistResult u) Fld.bistResultBody (if bb then 2 else 1)).putFld (Reg.bistResult u) Fld.bistResultWhen (s.clock.now / 2 ^ 32 % 2 ^ 32)

/-- What the judgement of a unit does after its event: parts held in reset, the hole in memory, failed engines. -/
def unitMark (u : Nat) (portBad bodyBad : Bool) : M Unit := do
  update (.bist fun b => { b with
    badPort := if portBad then (b.badPort ++ [u]).dedup else b.badPort.filter (· ≠ u)
    badBody := if bodyBad then (b.badBody ++ [u]).dedup else b.badBody.filter (· ≠ u) })
  if portBad ∧ u < 4 then
    update (.sys fun m => { m with holes := (m.holes ++ [(u * 0x1000000000, 0x1000000000)]).dedup })
  if portBad ∨ bodyBad then
    for e in unitEngines u do modEngine e fun g => { g with failed := true }

theorem unitTested_leads (u : Nat) (pb bb : Bool) (inService since sig : Nat) {Q : State → Prop}
    (h : ∀ v, Quiet (s.unitShown u pb bb) v → (unitMark u pb bb).Leads v fun _ t => Q t) :
    (unitTested u pb bb inService since sig).Leads s fun _ t => Q t := by
  unfold unitTested
  refine .getS ((wrFld_gives _ _ _ _).leads_bind ((wrFld_gives _ _ _ _).leads_bind ((wrFld_gives _ _ _ _).leads_bind ?_)))
  by_cases hbad : pb = true ∨ bb = true
  · rw [if_pos hbad]
    exact (raise_gives _ _ _ _ _).leads_bind (h _ (State.afterEvent_quiet _ _ _ _ _))
  · rw [if_neg hbad]
    exact (raise_gives _ _ _ _ _).leads_bind (h _ (State.afterEvent_quiet _ _ _ _ _))

/-- The state in which a unit's parts are held in reset or not, before its memory and engines follow. -/
def State.unitHeld (s : State) (u : Nat) (pb bb : Bool) : State := s.withBist { s.bist with
  badPort := if pb then (s.bist.badPort ++ [u]).dedup else s.bist.badPort.filter (· ≠ u)
  badBody := if bb then (s.bist.badBody ++ [u]).dedup else s.bist.badBody.filter (· ≠ u) }

/-- The state with a unit's DDR a hole where its port segment has failed. -/
def State.unitHoled (s : State) (u : Nat) (pb : Bool) : State :=
  if pb = true ∧ u < 4 then
    (Upd.sys fun m => { m with holes := (m.holes ++ [(u * 0x1000000000, 0x1000000000)]).dedup }).apply s
  else s

theorem unitMark_gives (u : Nat) (pb bb : Bool) (s : State) : (unitMark u pb bb).gives s ()
    (if pb = true ∨ bb = true then State.withEngines (fun g => { g with failed := true }) (unitEngines u) ((s.unitHeld u pb bb).unitHoled u pb)
      else (s.unitHeld u pb bb).unitHoled u pb) := by
  unfold unitMark State.unitHoled
  refine (updateBist_gives _ s).bind ?_
  by_cases hport : pb = true ∧ u < 4
  · have hbad : pb = true ∨ bb = true := .inl hport.1
    simp only [if_pos hport, if_pos hbad]
    exact M.gives.bind (fun _ => rfl) (forIn_modEngine_gives _ _ _)
  · rw [if_neg hport, if_neg hport]
    split
    · exact forIn_modEngine_gives _ _ _
    · exact pure_gives _ _

theorem State.fld_unitShown (hs : s.Canonical) (u : Nat) (pb bb : Bool) :
    (s.unitShown u pb bb).fld (Reg.bistResult u) Fld.bistResultPort = (if u < 6 then (if pb then 2 else 1) else 0) ∧
    (s.unitShown u pb bb).fld (Reg.bistResult u) Fld.bistResultBody = if bb then 2 else 1 := by
  have h1 (x : Nat) := State.canonical_putFld hs (Reg.bistResult u) Fld.bistResultPort x
  have h2 (x y : Nat) := State.canonical_putFld (h1 x) (Reg.bistResult u) Fld.bistResultBody y
  unfold State.unitShown
  constructor
  · rw [State.fld_putFld_apart (h2 _ _) (by decide), State.fld_putFld_apart (h1 _) (by decide),
      State.fld_putFld_same hs (by decide) (by cases pb <;> split <;> decide)]
    by_cases hu : u < 6 <;> simp [hu]
  · rw [State.fld_putFld_apart (h2 _ _) (by decide), State.fld_putFld_same (h1 _) (by decide) (by cases bb <;> decide)]

theorem State.sameBut_unitHoled (s : State) (u : Nat) (pb : Bool) : s.SameBut [.sys] (s.unitHoled u pb) := by
  unfold State.unitHoled
  split
  · exact Upd.sameBut (.sys _) s
  · exact .refl _ _

theorem State.mem_holes_unitHoled (s : State) (hu : u < 4) : (u * 0x1000000000, 0x1000000000) ∈ (s.unitHoled u true).sys.holes := by
  rw [State.unitHoled, if_pos ⟨rfl, hu⟩]
  exact List.mem_dedup.mpr (List.mem_append_right _ (List.mem_singleton_self _))

theorem mem_held_iff {l : List Nat} {u : Nat} {b : Bool} : u ∈ (if b then (l ++ [u]).dedup else l.filter (· ≠ u)) ↔ b = true := by
  cases b <;> simp

/-- What the judgement of a unit shows. -/
structure State.UnitJudged (s : State) (u : Nat) (pb bb : Bool) (t : State) : Prop where
  port : t.fld (Reg.bistResult u) Fld.bistResultPort = if u < 6 then (if pb then 2 else 1) else 0
  body : t.fld (Reg.bistResult u) Fld.bistResultBody = if bb then 2 else 1
  badPort : u ∈ t.bist.badPort ↔ pb = true
  badBody : u ∈ t.bist.badBody ↔ bb = true
  failed : pb = true ∨ bb = true → ∀ e ∈ unitEngines u, (t.engine e).failed = true
  hole : pb = true → u < 4 → (u * 0x1000000000, 0x1000000000) ∈ t.sys.holes
  engines : pb = false → bb = false → t.engines = s.engines

theorem unitTested_judges (hs : s.Canonical) (u : Nat) (pb bb : Bool) (inService since sig : Nat) :
    s.UnitJudged u pb bb (M.run (unitTested u pb bb inService since sig) s) := by
  refine M.Leads.run (unitTested_leads u pb bb inService since sig fun v hv => (unitMark_gives u pb bb v).leads ?_)
  obtain ⟨hport, hbody⟩ := State.fld_unitShown hs u pb bb
  have hshown : s.SameBut [.regs] (s.unitShown u pb bb) :=
    ((s.sameBut_putFld _ _ _).trans (State.sameBut_putFld _ _ _ _)).trans (State.sameBut_putFld _ _ _ _)
  have hheld : v.SameBut [.bist, .sys] ((v.unitHeld u pb bb).unitHoled u pb) :=
    ((v.sameBut_withBist _).mono (by decide)).trans ((State.sameBut_unitHoled _ u pb).mono (by decide))
  have hbist : ((v.unitHeld u pb bb).unitHoled u pb).bist = (v.unitHeld u pb bb).bist := (State.sameBut_unitHoled _ u pb).2 .bist (by decide)
  have hregs : ((v.unitHeld u pb bb).unitHoled u pb).regs = v.regs := hheld.2 .regs (by decide)
  have hengines : ((v.unitHeld u pb bb).unitHoled u pb).engines = s.engines :=
    (hheld.2 .engines (by decide)).trans (hv.engines.trans (hshown.2 .engines (by decide)))
  generalize hw : (v.unitHeld u pb bb).unitHoled u pb = w at *
  have hjudged (x : State) (hx : w.SameBut [.engines] x) (hfailed : pb = true ∨ bb = true → ∀ e ∈ unitEngines u, (x.engine e).failed = true)
      (hgood : pb = false → bb = false → x.engines = s.engines) : s.UnitJudged u pb bb x := by
    have hxregs : x.regs = v.regs := (hx.2 .regs (by decide)).trans hregs
    have hxbist : x.bist = (v.unitHeld u pb bb).bist := (hx.2 .bist (by decide)).trans hbist
    have hxsys : x.sys = w.sys := hx.2 .sys (by decide)
    refine ⟨?_, ?_, ?_, ?_, hfailed, fun h hu => ?_, hgood⟩
    · rw [fld_congr hxregs, hv.fld, hport]
    · rw [fld_congr hxregs, hv.fld, hbody]
    · rw [hxbist]
      exact mem_held_iff
    · rw [hxbist]
      exact mem_held_iff
    · rw [hxsys, ← hw, h]
      exact State.mem_holes_unitHoled _ hu
  by_cases hbad : pb = true ∨ bb = true
  · rw [if_pos hbad]
    refine hjudged _ (State.sameBut_withEngines _ _ _) (fun _ e he => ?_) fun hp hb => ?_
    · rw [State.engine_withEngines _ e _ _ (nodup_unitEngines u), if_pos he]
    · rw [hp, hb] at hbad
      exact absurd hbad (by decide)
  · rw [if_neg hbad]
    exact hjudged _ (.refl _ _) (fun h => absurd h hbad) fun _ _ => hengines

/-! ## MBIST and the end of a test (R485–R488, R492) -/

/-- The state that shows the failed macros of a unit. -/
def State.macrosShown (s : State) (u : Nat) (mine : List Nat) : State :=
  (s.putFld (Reg.bistResult u) Fld.bistResultMbistFail (flagBit !mine.isEmpty)).putFld (Reg.bistResult u) Fld.bistResultMacros (min mine.length 1023)

theorem State.fld_macrosShown (hs : s.Canonical) (u : Nat) (mine : List Nat) :
    (s.macrosShown u mine).fld (Reg.bistResult u) Fld.bistResultMbistFail = (if mine = [] then 0 else 1) ∧
    (s.macrosShown u mine).fld (Reg.bistResult u) Fld.bistResultMacros = min mine.length 1023 := by
  have h1 (x : Nat) := State.canonical_putFld hs (Reg.bistResult u) Fld.bistResultMbistFail x
  unfold State.macrosShown
  constructor
  · rw [State.fld_putFld_apart (h1 _) (by decide), State.fld_putFld_same hs (by decide) (by cases mine.isEmpty <;> decide)]
    cases mine <;> rfl
  · exact State.fld_putFld_same (h1 _) (by decide) (lt_of_le_of_lt (Nat.min_le_right _ _) (by decide))

section
variable {failing : List Nat} {v : State}

theorem exec_mbistComplete (h : s.bist.unit.isSome = true ∧ s.bistPhase = 5 ∨ s.bist.bypassing ≠ []) :
    exec (.mbistComplete failing) s = .next (M.run (mbistComplete failing) s) := by
  change execMbistComplete failing s = _
  refine whenEnabled_next (Bool.or_eq_true_iff.mpr (h.imp (fun h => ?_) fun h => ?_))
  · rw [h.1, h.2]
    rfl
  · rw [List.isEmpty_eq_false_iff.mpr h]
    rfl

theorem exec_mbistComplete_refused (h : s.bist.unit = none ∨ s.bistPhase ≠ 5) (hbypassing : s.bist.bypassing = []) :
    TurnedAway (.mbistComplete failing) s := by
  change execMbistComplete failing s = _
  refine whenEnabled_refused ?_
  rw [hbypassing]
  obtain h | h := h
  · rw [h]
    rfl
  · rw [beq_eq_false_iff_ne.mpr h, Bool.and_false]
    rfl

section
variable {mine : List Nat} (hu : s.bist.unit = some u) (hphase : s.bistPhase = 5) (hmine : mine = failing.dedup.filter fun m => macroUnit m == u)
  (hfailed : M.gives (do for m in mine do macroFailed m) s () v)
include hu hphase hmine hfailed

theorem run_mbistComplete_unit (h : u < 6 ∨ s.bist.port ≠ 0) : M.run (mbistComplete failing) s = M.run (do
      restoreUnit u
      endTest u false) (v.macrosShown u mine) := by
  subst hmine
  have hrest := hfailed.run_bind fun _ => do
    wrFld (Reg.bistResult u) Fld.bistResultMbistFail (flagBit !(failing.dedup.filter fun m => macroUnit m == u).isEmpty)
    wrFld (Reg.bistResult u) Fld.bistResultMacros (min (failing.dedup.filter fun m => macroUnit m == u).length 1023)
    restoreUnit u
    endTest u false
  unfold mbistComplete
  rw [run_getS_bind, if_pos hphase, hu]
  dsimp only
  simp only [if_neg (show ¬ (u = 6 ∧ s.bist.port = 0) by omega)]
  exact hrest

theorem run_mbistComplete_gate (h6 : u = 6) (hport : s.bist.port = 0) :
    M.run (mbistComplete failing) s = ((v.macrosShown u mine).withBist { v.bist with port := 1 }).testShown 1 u 4 := by
  subst hmine
  have hrest := hfailed.run_bind fun _ => do
    wrFld (Reg.bistResult u) Fld.bistResultMbistFail (flagBit !(failing.dedup.filter fun m => macroUnit m == u).isEmpty)
    wrFld (Reg.bistResult u) Fld.bistResultMacros (min (failing.dedup.filter fun m => macroUnit m == u).length 1023)
    update (.bist fun b => { b with port := 1 })
    bistStatus 1 u 4
  unfold mbistComplete
  rw [run_getS_bind, if_pos hphase, hu]
  dsimp only
  simp only [if_pos (And.intro h6 hport)]
  exact hrest

end

/-- The state in which the engines whose bypass was cleared have returned. -/
def State.bypassReturned (s : State) (es : List Nat) : State :=
  let u := State.withEngines (fun g => { g with bypassed := false }) es s
  u.withBist { u.bist with bypassing := [] }

theorem State.withEngines_returned : ∀ (l : List Nat) (s : State) (e : Nat),
    let t := State.withEngines (fun g => { g with bypassed := false }) l s
    (t.engine e).failed = (s.engine e).failed ∧ (e ∈ l ∨ (s.engine e).bypassed = false → (t.engine e).bypassed = false)
  | [], s, e => ⟨rfl, fun h => h.resolve_left List.not_mem_nil⟩
  | x :: l, s, e => by
    obtain ⟨hfailed, hbypassed⟩ := State.withEngines_returned l (s.withEngine x { s.engine x with bypassed := false }) e
    have hengine : (s.withEngine x { s.engine x with bypassed := false }).engine e =
        if e = x then { s.engine x with bypassed := false } else s.engine e := State.engine_withEngine _ _ _ _
    refine ⟨hfailed.trans ?_, fun h => hbypassed ?_⟩
    · rw [hengine]
      split
      case isTrue hx => rw [hx]
      case isFalse => rfl
    · rw [hengine]
      split
      · exact .inr rfl
      case isFalse hx => exact h.imp (fun h => (List.mem_cons.mp h).resolve_left hx) id

theorem run_mbistComplete_bypass (h : s.bist.unit = none ∨ s.bistPhase ≠ 5)
    (hfailed : M.gives (do for m in s.bypassMacros failing do macroFailed m) s () v) :
    M.run (mbistComplete failing) s = M.run presenceChanged (v.bypassReturned s.bist.bypassing) := by
  have hnone : (if s.bistPhase = 5 then s.bist.unit else none) = none := by
    split
    · exact h.resolve_right (not_not.mpr ‹_›)
    · rfl
  have hreturn := forIn_modEngine_gives (fun g => { g with bypassed := false }) s.bist.bypassing v
  have hrest := hfailed.run_bind fun _ => do
    for e in s.bist.bypassing do modEngine e fun g => { g with bypassed := false }
    update (.bist fun b => { b with bypassing := [] })
    presenceChanged
  unfold mbistComplete
  rw [run_getS_bind, hnone]
  exact hrest.trans ((hreturn.run_bind _).trans ((updateBist_gives _ _).run_bind _))

end

/-- The state in which the test of unit `u` has ended. -/
def State.testEnded (s : State) (u : Nat) (aborted : Bool) : State :=
  let v := (s.putFld (Reg.bistResult u) Fld.bistResultAborted (flagBit aborted)).putFld (Reg.bistResult u) Fld.bistResultWhen
    (s.clock.now / 2 ^ 32 % 2 ^ 32)
  (v.withBist { s.bist with unit := none }).testShown 0 u 0

theorem run_endTest (s : State) (u : Nat) (aborted : Bool) : M.run (endTest u aborted) s = s.testEnded u aborted :=
  M.gives.run (.getS_bind ((wrFld_gives _ _ _ _).bind ((wrFld_gives _ _ _ _).bind ((updateBist_gives _ _).bind (bistStatus_gives _ _ _ _)))))

theorem State.testEnded_spec (hs : s.Canonical) (hu : u < 7) (aborted : Bool) : s.SameBut [.regs, .bist] (s.testEnded u aborted) ∧
    (s.testEnded u aborted).bist = { s.bist with unit := none } ∧ (s.testEnded u aborted).Tests 0 u 0 ∧
    (s.testEnded u aborted).fld (Reg.bistResult u) Fld.bistResultAborted = flagBit aborted ∧
    (s.testEnded u aborted).fld (Reg.bistResult u) Fld.bistResultWhen = s.clock.now / 2 ^ 32 % 2 ^ 32 := by
  have h1 := State.canonical_putFld hs (Reg.bistResult u) Fld.bistResultAborted (flagBit aborted)
  have h2 := State.canonical_putFld h1 (Reg.bistResult u) Fld.bistResultWhen (s.clock.now / 2 ^ 32 % 2 ^ 32)
  have h3 := State.canonical_withBist h2 { s.bist with unit := none }
  refine ⟨?_, rfl, State.tests_testShown h3 (by decide) (by omega) (by decide), ?_, ?_⟩
  · exact ((((s.sameBut_putFld _ _ _).trans (State.sameBut_putFld _ _ _ _)).mono (by decide)).trans
      ((State.sameBut_withBist _ _).mono (by decide))).trans ((State.sameBut_testShown _ _ _ _).mono (by decide))
  · rw [State.testEnded, State.fld_testShown h3 (bistResult_ne_status u), State.fld_withBist, State.fld_putFld_apart h1 (by decide),
      State.fld_putFld_same hs (by decide) (by cases aborted <;> decide)]
  · have hlt : s.clock.now / 2 ^ 32 % 2 ^ 32 < 2 ^ Fld.bistResultWhen.width := Nat.mod_lt _ (by positivity)
    rw [State.testEnded, State.fld_testShown h3 (bistResult_ne_status u), State.fld_withBist, State.fld_putFld_same h1 (by decide) hlt]

/-! ## A test is aborted (R491) -/

theorem exec_bistAbort {w : Requester} {v : State} (h : M.run (bistAbort w) s = v) : exec (.bistAbort w) s = .next v := by
  change execBistAbort w s = _
  exact always_of_run h

theorem run_bistAbort_refused {w : Requester} (hw : w ≠ .bcc) : M.run (bistAbort w) s = refusedWrite s Reg.bistCmd 32 0 := by
  unfold bistAbort
  rw [run_getS_bind, if_pos hw]
  exact run_refuseReg _ _ _ _

theorem run_bistAbort_idle (hu : s.bist.unit = none) : M.run (bistAbort .bcc) s = s := by
  unfold bistAbort
  rw [run_getS_bind, if_neg (not_not.mpr rfl), hu]
  rfl

/-- The state in which unit `u` has returned from a test that was still draining. -/
def State.testLeft (s : State) (u : Nat) : State :=
  ((State.withEngines (fun g => { g with testing := false }) (unitEngines u) s).withBist { s.bist with unit := none }).testShown 0 u 0

theorem run_bistAbort_draining (hu : s.bist.unit = some u) (hphase : s.bistPhase = 1) :
    M.run (bistAbort .bcc) s = M.run presenceChanged (s.testLeft u) := by
  have hbist : (State.withEngines (fun g => { g with testing := false }) (unitEngines u) s).bist = s.bist :=
    (State.sameBut_withEngines _ _ s).2 .bist (by decide)
  have hengines := forIn_modEngine_gives (fun g => { g with testing := false }) (unitEngines u) s
  unfold bistAbort State.testLeft
  rw [run_getS_bind, if_neg (not_not.mpr rfl), hu]
  dsimp only
  rw [if_pos hphase, ← hbist]
  exact (hengines.run_bind _).trans ((updateBist_gives _ _).run_bind _ |>.trans ((bistStatus_gives _ _ _ _).run_bind _))

theorem run_bistAbort_testing (hu : s.bist.unit = some u) (hphase : s.bistPhase ≠ 1) : M.run (bistAbort .bcc) s = M.run (do
      restoreUnit u
      endTest u true) s := by
  unfold bistAbort
  rw [run_getS_bind, if_neg (not_not.mpr rfl), hu]
  dsimp only
  rw [if_neg hphase]

theorem State.testLeft_spec (hs : s.Canonical) (hu : u < 7) : s.SameBut [.regs, .engines, .bist] (s.testLeft u) ∧
    (s.testLeft u).bist = { s.bist with unit := none } ∧ (s.testLeft u).Tests 0 u 0 ∧
    ∀ e, (s.testLeft u).engine e = if e ∈ unitEngines u then { s.engine e with testing := false } else s.engine e := by
  have hengines := State.sameBut_withEngines (fun g => { g with testing := false }) (unitEngines u) s
  have hc := State.canonical_withBist (State.sameBut_engines_canonical hs (fun g => { g with testing := false }) (unitEngines u)) { s.bist with unit := none }
  refine ⟨?_, rfl, State.tests_testShown hc (by decide) (by omega) (by decide), fun e =>
    State.engine_withEngines _ e _ s (nodup_unitEngines u)⟩
  exact ((hengines.mono (by decide)).trans ((State.sameBut_withBist _ _).mono (by decide))).trans ((State.sameBut_testShown _ _ _ _).mono (by decide))

/-! ## Engines are bypassed (R492) -/

/-- The engine of a bit of BIST_BYPASS. -/
abbrev bypassEngine (i : Nat) : Nat := bypassEngines.getD i 0

theorem bypassEngine_inj : ∀ i < 11, ∀ j < 11, bypassEngine i = bypassEngine j → i = j := by decide

theorem bypassEngine_mem : ∀ i < 11, bypassEngine i ∈ bypassEngines := by decide

/-- The state after one bit of BIST_BYPASS has been followed. -/
def State.bypassTurn (s : State) (v i : Nat) : State :=
  if bitAt v i then
    (s.withEngine (bypassEngine i) { s.engine (bypassEngine i) with bypassed := true }).withBist
      { s.bist with bypassing := s.bist.bypassing.filter (· ≠ bypassEngine i) }
  else if (s.engine (bypassEngine i)).bypassed = true ∧ (!s.bist.bypassing.contains (bypassEngine i)) = true then
    s.withBist { s.bist with bypassing := s.bist.bypassing ++ [bypassEngine i] }
  else s

/-- The bits of a list have been followed. -/
structure State.Bypasses (s : State) (v : Nat) (l : List Nat) (t : State) : Prop where
  same : s.SameBut [.engines, .bist] t
  set : ∀ i ∈ l, bitAt v i = true → t.engine (bypassEngine i) = { s.engine (bypassEngine i) with bypassed := true } ∧
    bypassEngine i ∉ t.bist.bypassing
  clear : ∀ i ∈ l, bitAt v i = false → t.engine (bypassEngine i) = s.engine (bypassEngine i) ∧
    ((s.engine (bypassEngine i)).bypassed = true → bypassEngine i ∈ t.bist.bypassing)
  other : ∀ e, (∀ i ∈ l, e ≠ bypassEngine i) → t.engine e = s.engine e ∧ (e ∈ t.bist.bypassing ↔ e ∈ s.bist.bypassing)

theorem State.bypasses_turn (s : State) (v i : Nat) : s.Bypasses v [i] (s.bypassTurn v i) := by
  unfold State.bypassTurn
  cases hbit : bitAt v i with
  | true =>
    rw [if_pos rfl]
    have hengine (e : Nat) : ((s.withEngine (bypassEngine i) { s.engine (bypassEngine i) with bypassed := true }).withBist
        { s.bist with bypassing := s.bist.bypassing.filter (· ≠ bypassEngine i) }).engine e =
          if e = bypassEngine i then { s.engine (bypassEngine i) with bypassed := true } else s.engine e :=
      State.engine_withEngine _ _ _ _
    refine ⟨?_, fun j hj _ => ?_, fun j hj h => ?_, fun e he => ⟨?_, ?_⟩⟩
    · exact ((s.withEngine_frame _ _).mono (by decide)).trans ((State.sameBut_withBist _ _).mono (by decide))
    · rw [List.mem_singleton.mp hj, hengine, if_pos rfl]
      exact ⟨rfl, fun h => absurd (List.mem_filter.mp h).2 (by simp)⟩
    · rw [List.mem_singleton.mp hj, hbit] at h
      exact absurd h (by decide)
    · rw [hengine, if_neg (he i (List.mem_singleton_self i))]
    · refine List.mem_filter.trans (and_iff_left ?_)
      exact decide_eq_true (he i (List.mem_singleton_self i))
  | false =>
    rw [if_neg (by decide)]
    have hset (j : Nat) (hj : j ∈ [i]) (h : bitAt v j = true) : False := by
      rw [List.mem_singleton.mp hj, hbit] at h
      exact absurd h (by decide)
    by_cases hb : (s.engine (bypassEngine i)).bypassed = true ∧ (!s.bist.bypassing.contains (bypassEngine i)) = true
    · rw [if_pos hb]
      refine ⟨(s.sameBut_withBist _).mono (by decide), fun j hj h => (hset j hj h).elim, fun j hj _ => ⟨rfl, fun _ => ?_⟩, fun e he => ⟨rfl, ?_⟩⟩
      · rw [List.mem_singleton.mp hj]
        exact List.mem_append_right _ (List.mem_singleton_self _)
      · refine List.mem_append.trans (or_iff_left fun h => ?_)
        exact he i (List.mem_singleton_self i) (List.mem_singleton.mp h)
    · rw [if_neg hb]
      refine ⟨.refl _ _, fun j hj h => (hset j hj h).elim, fun j hj _ => ⟨rfl, fun hbypassed => ?_⟩, fun e _ => ⟨rfl, Iff.rfl⟩⟩
      rw [List.mem_singleton.mp hj] at hbypassed ⊢
      by_contra hout
      exact hb ⟨hbypassed, by rw [Bool.eq_false_iff.mpr (mt List.contains_iff_mem.mp hout)]; rfl⟩

theorem State.Bypasses.cons {v i : Nat} {l : List Nat} {w : State} (hi : i ∉ l) (hlt : ∀ j ∈ i :: l, j < 11) (h : s.Bypasses v [i] t)
    (k : t.Bypasses v l w) : s.Bypasses v (i :: l) w := by
  have hilt := hlt i List.mem_cons_self
  have hne (j : Nat) (hj : j ∈ l) : bypassEngine i ≠ bypassEngine j := fun he =>
    hi (bypassEngine_inj i hilt j (hlt j (List.mem_cons_of_mem i hj)) he ▸ hj)
  obtain ⟨hikeep, hilist⟩ := k.other (bypassEngine i) hne
  have hkeep (j : Nat) (hj : j ∈ l) : t.engine (bypassEngine j) = s.engine (bypassEngine j) :=
    (h.other _ fun x hx => by rw [List.mem_singleton.mp hx]; exact (hne j hj).symm).1
  refine ⟨h.same.trans k.same, List.forall_mem_cons.mpr ⟨fun hb => ?_, fun j hj hb => ?_⟩,
    List.forall_mem_cons.mpr ⟨fun hb => ?_, fun j hj hb => ?_⟩, fun e he => ?_⟩
  · obtain ⟨hset, hout⟩ := h.set i (List.mem_singleton_self i) hb
    exact ⟨hikeep.trans hset, mt hilist.mp hout⟩
  · rw [← hkeep j hj]
    exact k.set j hj hb
  · obtain ⟨hclear, hin⟩ := h.clear i (List.mem_singleton_self i) hb
    exact ⟨hikeep.trans hclear, fun hbypassed => hilist.mpr (hin hbypassed)⟩
  · rw [← hkeep j hj]
    exact k.clear j hj hb
  · obtain ⟨hi', hl'⟩ := List.forall_mem_cons.mp he
    obtain ⟨h1, h2⟩ := h.other e fun x hx => by rw [List.mem_singleton.mp hx]; exact hi'
    obtain ⟨k1, k2⟩ := k.other e hl'
    exact ⟨k1.trans h1, k2.trans h2⟩

theorem bypassAll_leads {v : Nat} {body : Nat → PUnit → M (ForInStep PUnit)}
    (hbody : ∀ i, ∀ s : State, (body i ⟨⟩).gives s (.yield ⟨⟩) (s.bypassTurn v i)) (l : List Nat) (hnodup : l.Nodup) (hlt : ∀ i ∈ l, i < 11)
    (s : State) : (forIn l ⟨⟩ body).Leads s fun _ t => s.Bypasses v l t := by
  induction l generalizing s with
  | nil => exact .pure ⟨.refl _ _, fun _ h => absurd h List.not_mem_nil, fun _ h => absurd h List.not_mem_nil, fun _ _ => ⟨rfl, Iff.rfl⟩⟩
  | cons i l ih =>
    obtain ⟨hi, hnodup⟩ := List.nodup_cons.mp hnodup
    rw [List.forIn_cons]
    exact (hbody i s).leads_bind ((ih hnodup (fun j hj => hlt j (List.mem_cons_of_mem i hj)) _).mono fun _ _ h =>
      .cons hi hlt (s.bypasses_turn v i) h)

/-- What a write of BIST_BYPASS leaves for the engines. -/
def State.BypassWritten (s : State) (v : Nat) (t : State) : Prop := (s.putFld Reg.bistBypass Fld.bistBypassEngines v).Bypasses v (List.range 11) t

/-- The turn of a bit of BIST_BYPASS in its loop. -/
def bypassStep (v i : Nat) : M (ForInStep PUnit) := do
  let s ← getS
  let e := bypassEngines.getD i 0
  if bitAt v i then do
    modEngine e fun g => { g with bypassed := true }
    update (.bist fun b => { b with bypassing := b.bypassing.filter (· ≠ e) })
    return .yield ⟨⟩
  else if (s.engine e).bypassed ∧ !s.bist.bypassing.contains e then
    update (.bist fun b => { b with bypassing := b.bypassing ++ [e] })
    return .yield ⟨⟩
  else return .yield ⟨⟩

theorem bypassStep_gives (v i : Nat) (s : State) : (bypassStep v i).gives s (.yield ⟨⟩) (s.bypassTurn v i) := by
  unfold bypassStep State.bypassTurn
  refine .getS_bind ?_
  dsimp only
  split
  · exact (modEngine_gives _ _ _).bind ((updateBist_gives _ _).bind fun _ => rfl)
  · split
    · exact (updateBist_gives _ _).bind fun _ => rfl
    · exact fun _ => rfl

theorem bistBypassWrite_then (v : Nat) : (bistBypassWrite .bcc v).Then s presenceChanged (s.BypassWritten v) := by
  have hall := bypassAll_leads (body := fun i _ => bypassStep v i) (bypassStep_gives v) (List.range 11) List.nodup_range
    (fun i hi => List.mem_range.mp hi) (s.putFld Reg.bistBypass Fld.bistBypassEngines v)
  unfold bistBypassWrite
  rw [if_neg (not_not.mpr rfl)]
  exact (M.gives.leads (P := fun _ t => t = s.putFld Reg.bistBypass Fld.bistBypassEngines v) (wrFld_gives _ _ _ _) rfl).andThen
    fun _ t ht => ht ▸ hall.andThen fun _ w hw => M.Then.here hw

theorem State.BypassWritten.spec {v : Nat} (hs : s.Canonical) (h : s.BypassWritten v t) : s.SameBut [.regs, .engines, .bist] t ∧
    OneField s Reg.bistBypass Fld.bistBypassEngines v t ∧
    (∀ i, i < 11 → bitAt v i = true → t.engine (bypassEngine i) = { s.engine (bypassEngine i) with bypassed := true } ∧
      bypassEngine i ∉ t.bist.bypassing) ∧
    (∀ i, i < 11 → bitAt v i = false → t.engine (bypassEngine i) = s.engine (bypassEngine i) ∧
      ((s.engine (bypassEngine i)).bypassed = true → bypassEngine i ∈ t.bist.bypassing)) ∧
    ∀ e, e ∉ bypassEngines → t.engine e = s.engine e := by
  refine ⟨((s.sameBut_putFld _ _ _).mono (by decide)).trans (h.same.mono (by decide)), fun x => ?_, fun i hi hb => h.set i (List.mem_range.mpr hi) hb,
    fun i hi hb => h.clear i (List.mem_range.mpr hi) hb, fun e he => (h.other e fun i hi hei => ?_).1⟩
  · have hregs : t.regs = (s.putFld Reg.bistBypass Fld.bistBypassEngines v).regs := h.same.2 .regs (by decide)
    rw [reg_congr hregs]
    exact State.oneField_putFld hs _ _ _ x
  · exact he (hei ▸ bypassEngine_mem i (List.mem_range.mp hi))

end

/-- Settles O53, command by command, in the order of a test's phases. -/
theorem unitsAreTestedInServiceAndRestored : Obligations.UnitsAreTestedInServiceAndRestored := by
  unfold Obligations.UnitsAreTestedInServiceAndRestored
  intro s hs st shows begun
  have hbegun {u : Nat} (h : s.bistRefusal u = none) {c : Instr} (hexec : exec c s = .next (M.run (beginTest u) s)) :
      CompletesThen c s presenceChanged (begun u s.bist.retry) := by
    obtain ⟨t, rfl, hrun⟩ := beginTest_then h
    exact completesThen_of (State.begins_testBegun hs (State.bistRefusal_none h)) (hexec.trans (congrArg _ hrun))
  refine ⟨?_, ?_, ?_, exec_rotationDue_refused, ?_, exec_bistRetry_refused, ?_, exec_bistDrainLimit_refused, ?_, ?_, ?_, ?_, ?_, ?_, ?_, ?_, ?_, ?_, ?_⟩
  case refine_1 => exact fun w u h => exec_bistStart (run_bistStart_refused h)
  case refine_2 =>
    intro u hu
    refine ⟨fun why h => exec_bistStart ((run_bistStart hu).trans (run_beginTest_refused h)), fun h => hbegun h (exec_bistStart (run_bistStart hu)),
      fun h => if_pos h, fun hunit => ?_⟩
    have hidle : ¬ s.bist.unit.isSome = true := by rw [hunit]; decide
    exact ⟨fun hdown => (if_neg hidle).trans (if_pos hdown),
      fun hup hbivouac => (if_neg hidle).trans ((if_neg (by rw [hup]; decide)).trans (if_pos hbivouac))⟩
  case refine_3 =>
    intro u h
    obtain ⟨hflag, hmask, hfree, hdue⟩ := State.rotationUnit_some h
    exact ⟨hbegun hfree (exec_rotationDue h), hflag, hmask, hdue⟩
  case refine_4 =>
    intro u x n h
    obtain ⟨hn, hfree, hdue⟩ := State.retryUnit_some h
    refine ⟨hn, hdue, ?_⟩
    obtain ⟨t, rfl, hrun⟩ := beginTest_then (s := s.withBist { s.bist with retry := s.retriesNoted u n }) hfree
    obtain ⟨hsame, htests, hregs, hbist, hengines⟩ := State.begins_testBegun (s := s.withBist { s.bist with retry := s.retriesNoted u n }) hs
      (State.bistRefusal_none hfree)
    exact completesThen_of ⟨((s.sameBut_withBist _).mono (by decide)).trans hsame, htests, hregs, hbist, hengines⟩
      ((exec_bistRetry h).trans (congrArg _ hrun))
  case refine_5 =>
    intro u v hu hlt hphase hdue hdrained
    have hexec := exec_bistDrainLimit hu hphase hdue
    have hfenced : v.FencedUnit u s.clock.now (M.run bistDrainLimit s) := by
      rw [run_bistDrainLimit hu hdrained]
      exact (drainFence_leads (hdrained.canonical hs) hlt s.clock.now).run
    exact ⟨_, hexec, (exec_reach hexec).sameBut _ (reachOf_parts _), hfenced.tests, hfenced.same.mono (by decide), hfenced.fence, hfenced.restricted⟩
  case refine_6 =>
    intro u mp mb broken worst hu hlt hphase hbroken c pb bb kept
    have hexec : exec c s = _ := exec_lbistComplete hu hphase hbroken
    have hkept {t : State} (h : s.Scanned mp mb u broken t) : kept t := ⟨h.same, h.port, h.body, h.retries⟩
    have hscanned := State.scanned_spec hs mp mb u broken
    refine ⟨fun h0 hu6 => ?_, fun h0 => ?_, fun h0 hu6 hbad hport => ?_, fun h0 hu6 hgood hport => ?_⟩
    · subst h0
      exact completesThen_of (hkept hscanned) (hexec.trans (congrArg _ (run_lbistComplete_unit hu hu6)))
    · obtain ⟨hsame, hregs, hbody, hport⟩ := State.conditionsShown_spec (State.canonical_scanned hs mp mb u broken) u
      obtain ⟨hmp, hmb⟩ := bistResult_ne_misr (show u < 11 by omega)
      refine completesThen_of ⟨hkept (hscanned.of_reg (hsame.mono (by decide)) ?_ (hregs _ hmp.symm) (hregs _ hmb.symm)), hbody, hport⟩
        (hexec.trans (congrArg _ (run_lbistComplete_broken hu h0)))
      exact congrArg Bist.retry (hsame.2 .bist (by decide))
    · subst h0 hu6
      have hfailed : s.Scanned mp mb 6 0 (s.scanned mp mb 6 0).safeScanFailed :=
        hscanned.of_reg ((State.sameBut_withBist _ _).mono (by decide)) rfl rfl rfl
      exact completesThen_of ⟨hkept hfailed, rfl, List.mem_dedup.mpr (List.mem_append_right _ (List.mem_singleton_self _))⟩
        (hexec.trans (congrArg _ (run_lbistComplete_safe_bad hu hbad hport)))
    · subst h0 hu6
      have hc := State.canonical_scanned hs mp mb 6 0
      exact ⟨_, hexec.trans (congrArg _ (run_lbistComplete_safe_good hu hgood hport)),
        hkept (hscanned.of_reg ((State.sameBut_testShown _ _ _ _).mono (by decide)) rfl (State.reg_testShown hc (by decide))
          (State.reg_testShown hc (by decide))), State.tests_testShown hc (by decide) (by decide) (by decide)⟩
  case refine_7 => exact fun mp mb broken worst h => exec_lbistComplete_refused h
  case refine_8 =>
    intro u pb bb since sig hu t
    obtain ⟨hport, hbody, hbadPort, hbadBody, hfailed, hhole, hengines⟩ := unitTested_judges hs u pb bb 1 since sig
    exact ⟨hport, hbody, hbadPort, hbadBody, hfailed, hhole, hengines⟩
  case refine_9 =>
    intro u failing mine v hu hlt hphase hmine hfailed noted
    have hv : v.Canonical := hfailed.canonical hs
    have hexec : exec (.mbistComplete failing) s = _ := exec_mbistComplete (.inl ⟨by rw [hu]; rfl, hphase⟩)
    have hnoted := State.fld_macrosShown hv u mine
    have hsame : v.SameBut [.regs] (v.macrosShown u mine) := (v.sameBut_putFld _ _ _).trans (State.sameBut_putFld _ _ _ _)
    refine ⟨fun h => completesThen_of ⟨hsame, hnoted⟩ (hexec.trans (congrArg _ (run_mbistComplete_unit hu hphase hmine hfailed h))), fun h6 hport => ?_⟩
    have hc : (v.macrosShown u mine).Canonical := State.canonical_putFld (State.canonical_putFld hv _ _ _) _ _ _
    have hb := State.canonical_withBist hc { v.bist with port := 1 }
    refine ⟨_, hexec.trans (congrArg _ (run_mbistComplete_gate hu hphase hmine hfailed h6 hport)), ?_, ⟨?_, ?_⟩, ?_, rfl⟩
    · exact ((hsame.mono (by decide)).trans ((State.sameBut_withBist _ _).mono (by decide))).trans
        ((State.sameBut_testShown _ _ _ _).mono (by decide))
    · rw [State.fld_testShown hb (bistResult_ne_status u), State.fld_withBist]
      exact hnoted.1
    · rw [State.fld_testShown hb (bistResult_ne_status u), State.fld_withBist]
      exact hnoted.2
    · have htests := State.tests_testShown hb (busy := 1) (unit := u) (phase := 4) (by decide) (by omega) (by decide)
      rw [h6] at htests ⊢
      exact htests
  case refine_10 =>
    intro failing v hidle hbypassing hfailed
    have hengines := State.sameBut_withEngines (fun g => { g with bypassed := false }) s.bist.bypassing v
    refine completesThen_of ⟨(hengines.mono (by decide)).trans ((State.sameBut_withBist _ _).mono (by decide)), ?_, fun e he => ?_⟩
      ((exec_mbistComplete (.inr hbypassing)).trans (congrArg _ (run_mbistComplete_bypass hidle hfailed)))
    · exact congrArg (fun b : Bist => { b with bypassing := [] }) (hengines.2 .bist (by decide))
    · obtain ⟨hkept, hback⟩ := State.withEngines_returned s.bist.bypassing v e
      exact ⟨hback (.inl he), hkept⟩
  case refine_11 => exact fun failing h hbypassing => exec_mbistComplete_refused h hbypassing
  case refine_12 =>
    intro u a hu t
    have ht : t = s.testEnded u a := run_endTest s u a
    rw [ht]
    exact State.testEnded_spec hs hu a
  case refine_13 =>
    intro w hw
    refine ⟨exec_bistAbort (run_bistAbort_refused hw), fun v => ?_⟩
    change execBistBypassWrite w v s = _
    refine always_of_run ?_
    unfold bistBypassWrite
    rw [if_pos hw]
    exact run_refuseReg _ _ _ _
  case refine_14 => exact fun hu => exec_bistAbort (run_bistAbort_idle hu)
  case refine_15 =>
    intro u hu hlt
    exact ⟨fun hphase => completesThen_of (State.testLeft_spec hs hlt) (exec_bistAbort (run_bistAbort_draining hu hphase)),
      fun hphase => completesThen_of rfl (exec_bistAbort (run_bistAbort_testing hu hphase))⟩
  case refine_16 =>
    intro v
    obtain ⟨t, ht, hrun⟩ := bistBypassWrite_then (s := s) v
    refine completesThen_of (ht.spec hs) ?_
    change execBistBypassWrite .bcc v s = _
    exact always_of_run hrun

end Sys2Proof.Machine
end

section
/-! PROOFS. What the security block measures and guards: the layers, attestation, the counters, return to service and debug access (the parts
of O56 beside boot). -/

namespace Sys2Proof.Machine

open Sys2Proof

variable {s t u : State}

/-! ## The layers (R526) -/

/-- The security block after a layer was extended by a measurement. -/
def Security.extended (x : Security) (i : Nat) (m : List Byte) : Security :=
  { x with
    layers := x.layers.set i (shake512 (x.layers.getD i [] ++ m))
    aliasL2 := if i = 2 then shake512 (x.layers.getD i [] ++ m) else x.aliasL2 }

theorem extend_gives (i : Nat) (m : List Byte) (s : State) : (extend i m).gives s () (s.withSec (s.sec.extended i m)) := fun _ => rfl

theorem Security.extended_of_ne (x : Security) {i : Nat} (m : List Byte) (h : i ≠ 2) :
    x.extended i m = { x with layers := x.layers.set i (shake512 (x.layers.getD i [] ++ m)) } := by
  rw [Security.extended, if_neg h]

theorem run_measurementExtend_refused {w : Requester} {l : Nat} (addr : Nat) (h : machineMode w = false ∨ l % 8 < 5) (s : State) :
    M.run (measurementExtend w l addr) s = refusedWrite s Reg.secExtend (l % 8 + addr % 2 ^ 40 / 64 * 64) 0 := by
  have hrefused : !machineMode w ∨ l % 8 < 5 := by simpa using h
  unfold measurementExtend
  dsimp only
  rw [if_pos hrefused]
  rfl

theorem run_measurementExtend {w : Requester} {l addr : Nat} {m : List Byte} (hw : machineMode w = true) (hl : 5 ≤ l % 8)
    (hread : (secRead (addr % 2 ^ 40 / 64 * 64) 64).gives s (some m) u) :
    M.run (measurementExtend w l addr) s = u.withSec (u.sec.extended (l % 8) m) := by
  have htaken : ¬(!machineMode w ∨ l % 8 < 5) := by simp [hw, hl]
  unfold measurementExtend
  dsimp only
  rw [if_neg htaken]
  exact hread.run_bind _

theorem exec_measurementExtend {w : Requester} {l addr : Nat} {m : List Byte} (hw : machineMode w = true) (hl : 5 ≤ l % 8)
    (hread : (secRead (addr % 2 ^ 40 / 64 * 64) 64).gives s (some m) u) :
    ∃ t, exec (.measurementExtend w l addr) s = .next t ∧ s.SameBut (Instr.measurementExtend w l addr).parts t ∧ u.SameBut [.sec] t ∧
      t.sec = { u.sec with layers := u.sec.layers.set (l % 8) (shake512 (u.layer (l % 8) ++ m)) } := by
  have hexec : exec (.measurementExtend w l addr) s = .next (u.withSec (u.sec.extended (l % 8) m)) :=
    always_of_run (run_measurementExtend hw hl hread)
  exact ⟨_, hexec, (exec_reach hexec).sameBut _ (reachOf_parts _), u.sameBut_withSec _, u.sec.extended_of_ne m (by omega)⟩

/-! ## Attestation (R528, R534) -/

theorem run_attestationRequest_user {w : Requester} (addr : Nat) (hw : machineMode w = false) (s : State) :
    M.run (attestationRequest w addr) s = refusedWrite s Reg.secAttReq (addr % 2 ^ 40 / 64 * 64) 0 := by
  unfold attestationRequest
  rw [run_getS_bind]
  dsimp only
  rw [if_pos (by simp [hw])]
  rfl

theorem run_attestationRequest_refused {w : Requester} {addr : Nat} (hw : machineMode w = true)
    (h : s.sec.att.isSome = true ∨ within4k (addr % 2 ^ 40 / 64 * 64) 1088 = false) :
    M.run (attestationRequest w addr) s = refusedWrite s Reg.secAttReq (addr % 2 ^ 40 / 64 * 64) 6 := by
  unfold attestationRequest
  rw [run_getS_bind]
  dsimp only
  rw [if_neg (by simp [hw]), if_pos (h.imp_right fun hc => by rw [hc]; rfl)]
  rfl

/-- The state in which a report on a nonce is being made. -/
def State.attesting (s u : State) (a : Nat) (nonce : List Byte) : State :=
  (u.withSec { u.sec with att := some (a, nonce, s.clock.now) }).putFld Reg.secAttStatus Fld.secAttStatusBusy 1

theorem run_attestationRequest {w : Requester} {addr : Nat} {nonce : List Byte} (hw : machineMode w = true) (hatt : s.sec.att = none)
    (hpage : within4k (addr % 2 ^ 40 / 64 * 64) 1088 = true) (hread : (secRead (addr % 2 ^ 40 / 64 * 64) 64).gives s (some nonce) u) :
    M.run (attestationRequest w addr) s = s.attesting u (addr % 2 ^ 40 / 64 * 64) nonce := by
  unfold attestationRequest
  rw [run_getS_bind]
  dsimp only
  rw [if_neg (by simp [hw]), if_neg (by rw [hatt, hpage]; decide)]
  exact hread.run_bind _

theorem exec_attestationRequest (hs : s.Canonical) {w : Requester} {addr : Nat} {nonce : List Byte} (hw : machineMode w = true)
    (hatt : s.sec.att = none) (hpage : within4k (addr % 2 ^ 40 / 64 * 64) 1088 = true)
    (hread : (secRead (addr % 2 ^ 40 / 64 * 64) 64).gives s (some nonce) u) :
    ∃ t, exec (.attestationRequest w addr) s = .next t ∧ s.SameBut (Instr.attestationRequest w addr).parts t ∧ u.SameBut [.regs, .sec] t ∧
      t.sec = { u.sec with att := some (addr % 2 ^ 40 / 64 * 64, nonce, s.clock.now) } ∧ t.fld Reg.secAttStatus Fld.secAttStatusBusy = 1 := by
  have hexec : exec (.attestationRequest w addr) s = .next (s.attesting u (addr % 2 ^ 40 / 64 * 64) nonce) :=
    always_of_run (run_attestationRequest hw hatt hpage hread)
  refine ⟨_, hexec, (exec_reach hexec).sameBut _ (reachOf_parts _), ?_, rfl, ?_⟩
  · exact ((u.sameBut_withSec _).mono (by decide)).trans ((State.sameBut_putFld _ _ _ _).mono (by decide))
  · exact State.fld_putFld_same (State.canonical_withSec (hread.canonical hs)) (by decide) (by decide)

/-- The state once the report of an attestation was written. -/
def State.attested (s u : State) : State :=
  let v := u.putFld Reg.secAttStatus Fld.secAttStatusSeq s.sec.attSeq
  (v.withSec { v.sec with att := none, attSeq := (v.sec.attSeq + 1) % 2 ^ 32 }).putFld Reg.secAttStatus Fld.secAttStatusBusy 0

theorem run_attestationDone {a x : Nat} {nonce : List Byte} {r : Option MemErr} (hatt : s.sec.att = some (a, nonce, x))
    (hwrite : (physWriteAll 0x83 (a + 64) (s.attReport nonce)).gives s r u) : M.run attestationDone s = s.attested u := by
  unfold attestationDone
  rw [run_getS_bind]
  simp only [hatt]
  exact hwrite.run_bind _

theorem State.sameBut_attested (s u : State) : u.SameBut [.regs, .sec] (s.attested u) :=
  (((State.sameBut_putFld _ _ _ _).mono (by decide)).trans ((State.sameBut_withSec _ _).mono (by decide))).trans
    ((State.sameBut_putFld _ _ _ _).mono (by decide))

theorem State.fld_attested_busy (hu : u.Canonical) (s : State) : (s.attested u).fld Reg.secAttStatus Fld.secAttStatusBusy = 0 :=
  State.fld_putFld_same (State.canonical_withSec (State.canonical_putFld hu _ _ _)) (by decide) (by decide)

theorem State.fld_attested_seq (hu : u.Canonical) (s : State) :
    (s.attested u).fld Reg.secAttStatus Fld.secAttStatusSeq = s.sec.attSeq % 2 ^ 32 :=
  (State.fld_putFld_apart (State.canonical_withSec (State.canonical_putFld hu _ _ _)) (by decide)).trans
    (fld_apply_same hu _ _ _ (by decide))

theorem exec_attestationReportDone (hs : s.Canonical) {a x : Nat} {nonce : List Byte} {r : Option MemErr}
    (hatt : s.sec.att = some (a, nonce, x)) (hwrite : (physWriteAll 0x83 (a + 64) (s.attReport nonce)).gives s r u) :
    ∃ t, exec .attestationReportDone s = .next t ∧ s.SameBut Instr.attestationReportDone.parts t ∧ u.SameBut [.regs, .sec] t ∧
      t.sec = { u.sec with att := none, attSeq := (u.sec.attSeq + 1) % 2 ^ 32 } ∧
      t.fld Reg.secAttStatus Fld.secAttStatusBusy = 0 ∧ t.fld Reg.secAttStatus Fld.secAttStatusSeq = s.sec.attSeq % 2 ^ 32 := by
  have hexec : exec .attestationReportDone s = .next (s.attested u) := by
    change execAttestationReportDone s = _
    exact (whenEnabled_next (by rw [hatt]; rfl)).trans (congrArg _ (run_attestationDone hatt hwrite))
  have hu : u.Canonical := hwrite.canonical hs
  exact ⟨_, hexec, (exec_reach hexec).sameBut _ (reachOf_parts _), s.sameBut_attested u, rfl, State.fld_attested_busy hu s, State.fld_attested_seq hu s⟩

/-! ## The counters (R523) -/

theorem run_svnCommit_user {w : Requester} (hw : machineMode w = false) (ty bit : Nat) (s : State) :
    M.run (svnCommit w ty bit) s = refusedWrite s Reg.secSvnCommit (2 ^ bit) 0 := by
  unfold svnCommit
  rw [run_getS_bind, if_pos (by simp [hw])]
  rfl

/-- The state in which the counter of an image type is raised to a number at least. -/
def State.countedTo (s : State) (ty n : Nat) : State :=
  s.withStore fun x => { x with counters := tblSet x.counters ty (max (tblGet x.counters 0 ty) n) }

theorem State.counter_countedTo (s : State) (ty n : Nat) : (s.countedTo ty n).counter ty = max (s.counter ty) n := tblGet_tblSet_same ..

theorem State.counter_countedTo_other (s : State) {ty x : Nat} (n : Nat) (h : x ≠ ty) : (s.countedTo ty n).counter x = s.counter x :=
  tblGet_tblSet _ _ _ h

theorem run_svnCommit {w : Requester} (hw : machineMode w = true) (ty bit : Nat) (s : State) :
    M.run (svnCommit w ty bit) s = s.countedTo ty (((if ty = 1 then s.sec.bccImage else s.sec.appImage).map imgSvn).getD 0) := by
  unfold svnCommit
  rw [run_getS_bind, if_neg (by simp [hw])]
  rfl

theorem exec_svnCommitBcc {w : Requester} (hw : machineMode w = true) (s : State) :
    ∃ t, exec (.svnCommitBcc w) s = .next t ∧ s.SameBut [.store] t ∧ t.counter 1 = max (s.counter 1) ((s.sec.bccImage.map imgSvn).getD 0) ∧
      ∀ x, x ≠ 1 → t.counter x = s.counter x :=
  ⟨_, always_of_run (run_svnCommit hw 1 0 s), s.sameBut_withStore _, s.counter_countedTo 1 _, fun _ hx => s.counter_countedTo_other _ hx⟩

theorem exec_svnCommitApp {w : Requester} (hw : machineMode w = true) (s : State) :
    ∃ t, exec (.svnCommitApp w) s = .next t ∧ s.SameBut [.store] t ∧ t.counter 2 = max (s.counter 2) ((s.sec.appImage.map imgSvn).getD 0) ∧
      ∀ x, x ≠ 2 → t.counter x = s.counter x :=
  ⟨_, always_of_run (run_svnCommit hw 2 1 s), s.sameBut_withStore _, s.counter_countedTo 2 _, fun _ hx => s.counter_countedTo_other _ hx⟩

/-! ## Return to service (R533) -/

theorem run_returnToService_user {w : Requester} (addr : Nat) (hw : machineMode w = false) (s : State) :
    M.run (returnToService w addr) s = refusedWrite s Reg.secRts (addr % 2 ^ 40 / 64 * 64) 0 := by
  unfold returnToService
  rw [run_getS_bind]
  dsimp only
  rw [if_pos (by simp [hw])]
  rfl

theorem run_returnToService_page {w : Requester} {addr : Nat} (hw : machineMode w = true)
    (hpage : within4k (addr % 2 ^ 40 / 64 * 64) 256 = false) (s : State) :
    M.run (returnToService w addr) s = refusedWrite s Reg.secRts (addr % 2 ^ 40 / 64 * 64) 6 := by
  unfold returnToService
  rw [run_getS_bind]
  dsimp only
  rw [if_neg (by simp [hw]), if_pos (by rw [hpage]; rfl)]
  rfl

/-- The first part of the block that is not as it has to be, if any. -/
def State.rtsFault (s : State) (b : List Byte) : Option Nat :=
  if b.take 64 ≠ deviceId then some 1
  else if leAt b 64 8 ≠ (s.reg Reg.secRtsChallenge).toNat then some 2
  else if !edVerify s.ownerKey (b.take 72) ((b.drop 72).take 114) then some 0
  else none

/-- A block that names the device and its challenge and is signed by the owner. -/
def State.RtsGood (s : State) (b : List Byte) : Prop :=
  b.take 64 = deviceId ∧ leAt b 64 8 = (s.reg Reg.secRtsChallenge).toNat ∧ edVerify s.ownerKey (b.take 72) ((b.drop 72).take 114) = true

theorem State.rtsFault_of_good {b : List Byte} (h : s.RtsGood b) : s.rtsFault b = none := by
  obtain ⟨hid, hch, hsig⟩ := h
  rw [State.rtsFault, if_neg (not_not.mpr hid), if_neg (not_not.mpr hch), hsig]
  rfl

theorem State.rtsFault_of_bad {b : List Byte} (h : ¬ s.RtsGood b) : ∃ why, why < 3 ∧ s.rtsFault b = some why := by
  rw [State.rtsFault]
  by_cases hid : b.take 64 = deviceId
  · by_cases hch : leAt b 64 8 = (s.reg Reg.secRtsChallenge).toNat
    · have hsig : edVerify s.ownerKey (b.take 72) ((b.drop 72).take 114) = false := Bool.eq_false_iff.mpr fun hc => h ⟨hid, hch, hc⟩
      exact ⟨0, by decide, by rw [if_neg (not_not.mpr hid), if_neg (not_not.mpr hch), hsig]; rfl⟩
    · exact ⟨2, by decide, by rw [if_neg (not_not.mpr hid), if_pos hch]⟩
  · exact ⟨1, by decide, by rw [if_pos hid]⟩

/-- What follows the judgement of the block. -/
def rtsEnd (bivouac : Bool) : Option Nat → M Unit
  | some w => raise 0x81 6 0x9008 (det [(1, w)])
  | none => if bivouac then do
      update (.rcv fun r => { r with priv := [], privEmmc := [] })
      leaveBivouac 0
    else pure ()

/-- The state in which the challenge is drawn anew. -/
def State.renewed (s : State) (new : List Byte) : State := s.putReg Reg.secRtsChallenge (BitVec.ofNat 64 (leNat new))

theorem run_returnToService {w : Requester} {addr : Nat} {b new : List Byte} (hw : machineMode w = true)
    (hpage : within4k (addr % 2 ^ 40 / 64 * 64) 256 = true) (hdrawn : M.gives (do
      let b := (← secRead (addr % 2 ^ 40 / 64 * 64) 256).getD []
      return (b, ← freshBytes 8) : M (List Byte × List Byte)) s (b, new) u) :
    M.run (returnToService w addr) s = M.run (rtsEnd s.rcv.bivouac (s.rtsFault b)) (u.renewed new) := by
  have hrest := hdrawn.run_bind fun p => do
    wrReg Reg.secRtsChallenge (BitVec.ofNat 64 (leNat p.2))
    rtsEnd s.rcv.bivouac (s.rtsFault p.1)
  unfold returnToService
  rw [run_getS_bind]
  dsimp only
  rw [if_neg (by simp [hw]), if_neg (by rw [hpage]; decide)]
  refine Eq.trans ?_ hrest
  rfl

section
variable {w : Requester} {addr : Nat} {b new : List Byte} (hw : machineMode w = true) (hpage : within4k (addr % 2 ^ 40 / 64 * 64) 256 = true)
  (hdrawn : M.gives (do
      let b := (← secRead (addr % 2 ^ 40 / 64 * 64) 256).getD []
      return (b, ← freshBytes 8) : M (List Byte × List Byte)) s (b, new) u)
include hw hpage hdrawn

theorem exec_returnToService_bad (hbad : ¬ s.RtsGood b) :
    ∃ why, why < 3 ∧ exec (.returnToService w addr) s = .next ((u.renewed new).afterEvent 0x81 6 0x9008 (det [(1, why)])) := by
  obtain ⟨why, hlt, hwhy⟩ := State.rtsFault_of_bad hbad
  refine ⟨why, hlt, always_of_run ((run_returnToService hw hpage hdrawn).trans ?_)⟩
  rw [hwhy]
  rfl

theorem exec_returnToService_good (hgood : s.RtsGood b) (hb : s.rcv.bivouac = false) :
    exec (.returnToService w addr) s = .next (u.renewed new) := by
  refine always_of_run ((run_returnToService hw hpage hdrawn).trans ?_)
  rw [State.rtsFault_of_good hgood, hb]
  rfl

theorem returnToService_leavesBivouac (hgood : s.RtsGood b) (hb : s.rcv.bivouac = true) :
    CompletesThen (.returnToService w addr) s (leaveBivouac 0) fun v =>
      u.SameBut [.regs, .rcv] v ∧ v.rcv = { u.rcv with priv := [], privEmmc := [] } := by
  refine completesThen_of (u := (Upd.rcv fun r => { r with priv := [], privEmmc := [] }).apply (u.renewed new)) ⟨?_, rfl⟩ ?_
  · exact ((u.sameBut_putReg _ _).mono (by decide)).trans (Upd.sameBut_of _ _)
  · refine always_of_run ((run_returnToService hw hpage hdrawn).trans ?_)
    rw [State.rtsFault_of_good hgood, hb]
    rfl

end

/-! ## Debug access (R529, R530) -/

theorem exec_idcode (hphase : s.power.phase ≠ 0) : exec .idcode s = .next { s with out := some ⟨true, leBytes 4 Config.idcode.toNat⟩ } := by
  change execIdcode s = _
  exact whenEnabled_next (bne_iff_ne.mpr hphase)

theorem exec_tapBypass (hphase : s.power.phase ≠ 0) : exec .tapBypass s = .next { s with out := some ⟨true, [BitVec.ofNat 8 0]⟩ } := by
  change execTapBypass s = _
  exact whenEnabled_next (bne_iff_ne.mpr hphase)

theorem exec_extest_locked (x : Nat) (hphase : s.power.phase ≠ 0) (hlevel : s.fld Reg.secStatus Fld.secStatusDebug = 0) :
    exec (.extest x) s = .next { s with out := some ⟨false, []⟩ } := by
  have hrun : M.run (extest x) s = { s with out := some ⟨false, []⟩ } := by
    unfold extest
    rw [run_getS_bind, if_pos hlevel]
    rfl
  rw [← hrun]
  change execExtest x s = _
  exact whenEnabled_next (bne_iff_ne.mpr hphase)

/-- The pins as the boundary register drives them. -/
def Pins.boundary (p : Pins) (x : Nat) : Pins :=
  { p with
    extest := true
    safeN := false
    oosN := false
    ppsOut := bitAt x 0
    pcycReqN := bitAt x 1
    thermN := bitAt x 2
    trayAlertN := bitAt x 3 }

/-- The state in which the boundary register drives the pins. -/
def State.boundary (s : State) (x : Nat) : State :=
  (Upd.out fun _ => some ⟨true, []⟩).apply ((Upd.tally fun y => { y with accepting := false }).apply ((Upd.pins fun p => p.boundary x).apply s))

theorem State.sameBut_boundary (s : State) (x : Nat) : s.SameBut [.out, .tally, .pins] (s.boundary x) :=
  ((Upd.sameBut_of _ _).trans (Upd.sameBut_of _ _)).trans (Upd.sameBut_of _ _)

theorem exec_extest (x : Nat) (hphase : s.power.phase ≠ 0) (hlevel : s.fld Reg.secStatus Fld.secStatusDebug ≠ 0) :
    exec (.extest x) s = .next (s.boundary x) := by
  have hrun : M.run (extest x) s = s.boundary x := by
    unfold extest
    rw [run_getS_bind, if_neg hlevel]
    rfl
  rw [← hrun]
  change execExtest x s = _
  exact whenEnabled_next (bne_iff_ne.mpr hphase)

theorem extestExit_completes (hextest : s.pins.extest = true) : CompletesThen .extestExit s (do
    trigger .die 0 s.clock.now 0 false
    drivePins) fun u => s.SameBut [.pins] u ∧ u.pins = { s.pins with
      extest := false
      pcycReqN := true
      thermN := true
      trayAlertN := true
      ppsOut := false } := by
  refine completesThen_of (u := (Upd.pins fun p => { p with
    extest := false
    pcycReqN := true
    thermN := true
    trayAlertN := true
    ppsOut := false }).apply s) ⟨Upd.sameBut_of _ s, rfl⟩ ?_
  change execExtestExit s = _
  exact whenEnabled_next hextest

/-- The bytes that are drawn next. -/
def State.freshBytes (s : State) (n : Nat) : List Byte := (List.range n).map fun i => Config.freeByte (s.free + i)

theorem freshBytes_gives (n : Nat) (s : State) : (freshBytes n).gives s (s.freshBytes n) ((Upd.free (· + n)).apply s) := fun _ => rfl

theorem State.length_freshBytes (s : State) (n : Nat) : (s.freshBytes n).length = n := (List.length_map _).trans List.length_range

theorem exec_debugChallenge_spent (hphase : s.power.phase = 2) (h : 4 ≤ s.sec.failures) :
    exec .debugChallenge s = .next { s with out := some ⟨false, []⟩ } := by
  have hrun : M.run debugChallenge s = { s with out := some ⟨false, []⟩ } := by
    unfold debugChallenge
    rw [run_getS_bind, if_pos h]
    rfl
  rw [← hrun]
  change execDebugChallenge s = _
  exact whenEnabled_next (beq_iff_eq.mpr hphase)

/-- The state in which a challenge was drawn and answered. -/
def State.challenged (s : State) (c : List Byte) : State :=
  (Upd.out fun _ => some ⟨true, c⟩).apply (((Upd.free (· + 64)).apply s).withSec { s.sec with challenge := some c })

theorem State.sameBut_challenged (s : State) (c : List Byte) : s.SameBut [.out, .free, .sec] (s.challenged c) :=
  ((Upd.sameBut_of _ _).trans ((State.sameBut_withSec _ _).mono (by decide))).trans (Upd.sameBut_of _ _)

theorem exec_debugChallenge (hphase : s.power.phase = 2) (h : s.sec.failures < 4) :
    ∃ c t, c.length = 64 ∧ exec .debugChallenge s = .next t ∧ s.SameBut [.out, .free, .sec] t ∧
      t.sec = { s.sec with challenge := some c } ∧ t.out = some ⟨true, c⟩ := by
  have hrun : M.run debugChallenge s = s.challenged (s.freshBytes 64) := by
    unfold debugChallenge
    rw [run_getS_bind, if_neg (Nat.not_le.mpr h)]
    exact (freshBytes_gives 64 s).run_bind _
  refine ⟨s.freshBytes 64, _, s.length_freshBytes 64, ?_, s.sameBut_challenged _, rfl, rfl⟩
  rw [← hrun]
  change execDebugChallenge s = _
  exact whenEnabled_next (beq_iff_eq.mpr hphase)

/-- A response that names a level and is signed by the owner's debug key. -/
def State.DebugGood (s : State) (c data : List Byte) : Prop :=
  1 ≤ leAt data 0 1 ∧ leAt data 0 1 ≤ 3 ∧
    edVerify ((s.store.owner.map (·.debugKey)).getD []) (c ++ deviceId ++ leBytes 1 (leAt data 0 1)) (data.drop 1) = true

/-- The state in which a level is unlocked. -/
def State.unlocked (s : State) (level : Nat) : State :=
  let v := (s.withSec { s.sec with challenge := none }).putFld Reg.secStatus Fld.secStatusDebug (max level (s.fld Reg.secStatus Fld.secStatusDebug))
  let x : Security := { v.sec with peakDebug := max v.sec.peakDebug level }
  (v.withSec x).withSec (x.extended 3 (shake512 (leBytes 1 level)))

theorem State.sameBut_unlocked (s : State) (level : Nat) : s.SameBut [.regs, .sec] (s.unlocked level) :=
  ((((State.sameBut_withSec _ _).mono (by decide)).trans ((State.sameBut_putFld _ _ _ _).mono (by decide))).trans
    ((State.sameBut_withSec _ _).mono (by decide))).trans ((State.sameBut_withSec _ _).mono (by decide))

theorem State.sec_unlocked (s : State) (level : Nat) : (s.unlocked level).sec = { s.sec with
    challenge := none
    peakDebug := max s.sec.peakDebug level
    layers := s.sec.layers.set 3 (shake512 (s.layer 3 ++ shake512 (leBytes 1 level))) } :=
  Security.extended_of_ne _ _ (by decide)

theorem State.fld_withSec (s : State) (x : Security) (off : Nat) (f : Field) : (s.withSec x).fld off f = s.fld off f := rfl

theorem State.fld_unlocked (hs : s.Canonical) {level : Nat} (hlevel : level ≤ 3) :
    (s.unlocked level).fld Reg.secStatus Fld.secStatusDebug = max level (s.fld Reg.secStatus Fld.secStatusDebug) := by
  have hold : s.fld Reg.secStatus Fld.secStatusDebug < 4 := getBits_lt _ _ _
  have hlt : max level (s.fld Reg.secStatus Fld.secStatusDebug) < 2 ^ Fld.secStatusDebug.width := show _ < 4 by omega
  rw [State.unlocked, State.fld_withSec, State.fld_withSec]
  exact State.fld_putFld_same (State.canonical_withSec hs) (by decide) hlt

section
variable {c data : List Byte} (hc : s.sec.challenge = some c)
include hc

theorem exec_debugResponse_good (hgood : s.DebugGood c data) : ∃ t, exec (.debugResponse data) s = .next t ∧
    ((s.unlocked (leAt data 0 1)).afterEvent 0x81 6 0x9004 (det [(1, leAt data 0 1)])).SameBut [.out] t ∧ t.out = some ⟨true, []⟩ := by
  have hrun : M.run (debugResponse data) s = (Upd.out fun _ => some ⟨true, []⟩).apply
      ((s.unlocked (leAt data 0 1)).afterEvent 0x81 6 0x9004 (det [(1, leAt data 0 1)])) := by
    unfold debugResponse
    rw [run_getS_bind]
    refine ((modSec_gives _ s).run_bind _).trans ?_
    unfold State.DebugGood at hgood
    rw [hc, Option.getD_some, if_pos hgood]
    exact (raise_gives _ _ _ _ (s.unlocked (leAt data 0 1))).run_bind fun _ => answer true []
  refine ⟨_, ?_, Upd.sameBut (.out fun _ => some ⟨true, []⟩) _, rfl⟩
  change execDebugResponse data s = _
  exact (whenEnabled_next (by rw [hc]; rfl)).trans (congrArg _ hrun)

theorem exec_debugResponse_bad (hbad : ¬ s.DebugGood c data) : ∃ u t, s.SameBut [.sec] u ∧
    u.sec = { s.sec with challenge := none, failures := s.sec.failures + 1 } ∧ exec (.debugResponse data) s = .next t ∧
    (u.afterEvent 0x81 6 0x9005 (det [(1, leAt data 0 1), (1, min (s.sec.failures + 1) 255)])).SameBut [.out] t ∧ t.out = some ⟨false, []⟩ := by
  have hrun : M.run (debugResponse data) s = (Upd.out fun _ => some ⟨false, []⟩).apply
      ((s.withSec { s.sec with challenge := none, failures := s.sec.failures + 1 }).afterEvent 0x81 6 0x9005
        (det [(1, leAt data 0 1), (1, min (s.sec.failures + 1) 255)])) := by
    unfold debugResponse
    rw [run_getS_bind]
    refine ((modSec_gives _ s).run_bind _).trans ?_
    unfold State.DebugGood at hbad
    rw [hc, Option.getD_some, if_neg hbad]
    exact (raise_gives _ _ _ _ (s.withSec { s.sec with challenge := none, failures := s.sec.failures + 1 })).run_bind fun _ => answer false []
  refine ⟨_, _, s.sameBut_withSec _, rfl, ?_, Upd.sameBut (.out fun _ => some ⟨false, []⟩) _, rfl⟩
  change execDebugResponse data s = _
  exact (whenEnabled_next (by rw [hc]; rfl)).trans (congrArg _ hrun)

end

end Sys2Proof.Machine
end

section
/-! PROOFS. Boot measures its images and opens the device (O56). -/

namespace Sys2Proof.Machine

open Sys2Proof

variable {s t u : State}

/-! ## What taking tasks off absent engines keeps -/

theorem presenceChanged_tame : M.All Upd.Tame presenceChanged := by
  unfold presenceChanged
  repeat' first
    | (with_reducible first | exact .pure _ | exact .getS | refine .bind ?_ fun _ => ?_ | refine .ite ?_ ?_ | refine .forIn _ _ _ fun _ _ => ?_)
    | (with_reducible first | exact endTask_tame _ _ | exact settleAll_tame _ | exact raiseFor_tame _ _ _ _ _ | exact enlist_tame _ _)
    | (with_reducible first | exact unlist_tame _ | exact raise_tame _ _ _ _ | exact modTask_tame _ _ | exact modEngine_tame _ _)
    | ((with_reducible refine modTally_tame ?_); exact fun _ => .of rfl rfl rfl)
    | with_reducible intro _
    | split

/-- What the end of boot and of a return to service keep. -/
theorem presenceChanged_keeps (s : State) : (M.run presenceChanged s).sec = s.sec ∧
    (M.run presenceChanged s).tally.accepting = s.tally.accepting ∧ (M.run presenceChanged s).pins.oosN = s.pins.oosN ∧
    (M.run presenceChanged s).rcv.bivouac = s.rcv.bivouac := by
  have htame := (presenceChanged_tame.run_steps s).tame
  have hsec : s.SameBut _ (M.run presenceChanged s) := Reaches.sameBut ((presenceChanged_reach (msk := 0x10FBA9) rfl).run_steps s)
    [.mem, .regs, .free, .sys, .tally, .engines, .rcv, .hall, .sent, .pins, .fabric, .safe] rfl
  exact ⟨hsec.2 .sec (by decide), htame.tally.accepting, htame.oosN, (congrArg Recovery.bivouac htame.rcv).trans rfl⟩

/-! ## The preparation of the device leaves the limit of privileged resets -/

/-- An update that the preparation of the device may do: on the components that it brings up, but for the register RCV_PRIV. -/
def Upd.Prepares (v : Upd) : Prop := v.In 0x9038B ∧ ∀ x, v ≠ .reg Reg.rcvPriv x

/-- The device is being prepared: what was measured and stored, the clock, recovery, the pins and the limit of privileged resets are as before. -/
structure State.Prepared (s t : State) : Prop where
  frame : s.SameBut [.mem, .regs, .sys, .tally, .engines, .power, .bist] t
  limits : t.reg Reg.rcvPriv = s.reg Reg.rcvPriv
  canonical : t.Canonical

theorem State.Prepared.refl (hs : s.Canonical) : s.Prepared s := ⟨.refl _ s, rfl, hs⟩

theorem State.Prepared.trans (h : s.Prepared t) (k : t.Prepared u) : s.Prepared u :=
  ⟨(h.frame.mono (by decide)).trans (k.frame.mono (by decide)), k.limits.trans h.limits, k.canonical⟩

theorem Upd.Prepares.reg_apply {v : Upd} (hv : v.Prepares) (ht : t.Canonical) : (v.apply t).reg Reg.rcvPriv = t.reg Reg.rcvPriv := by
  obtain ⟨hin, hreg⟩ := hv
  cases v with
  | reg off x => exact reg_apply_other ht x fun h => hreg x (by rw [h])
  | regClear lo hi => exact absurd (show (0x9038B).testBit 2 = true from hin) (by decide)
  | _ => rfl

theorem Steps.prepared (h : Steps Upd.Prepares s t) (hs : s.Canonical) : s.Prepared t := by
  have hreach : Reaches 0x9038B s t := h.mono fun _ hv => hv.1
  refine ⟨hreach.sameBut _ rfl, ?_, h.canonical hs⟩
  exact (h.keeps (I := fun x => x.Canonical ∧ x.reg Reg.rcvPriv = s.reg Reg.rcvPriv)
    (fun v x hv hx => ⟨v.apply_canonical _ hx.1, (hv.reg_apply hx.1).trans hx.2⟩) ⟨hs, rfl⟩).2

theorem M.All.prepares {α : Type} {m : M α} {msk : Nat} (h : M.All (Upd.In msk) m) (hm : Within msk 0x9038B) (hreg : msk.testBit 3 = false) :
    M.All Upd.Prepares m :=
  h.mono fun v hv => ⟨.of hm hv, fun x hx => by rw [hx] at hv; exact Bool.false_ne_true (hreg.symm.trans hv)⟩

theorem M.All.prepared_bind {α β : Type} {m : M α} {f : α → M β} {Q : β → State → Prop} (hm : M.All Upd.Prepares m) (ht : s.Prepared t)
    (h : ∀ a u, s.Prepared u → (f a).Leads u Q) : (m >>= f).Leads t Q :=
  hm.leads_bind fun a u hsteps => h a u (ht.trans (hsteps.prepared ht.canonical))

theorem update_prepares {v : Upd} (h : v.Prepares) : M.All Upd.Prepares (update v) := .update h

theorem wrFld_prepares {off : Nat} (hoff : off ≠ Reg.rcvPriv) (f : Field) (v : Nat) : M.All Upd.Prepares (wrFld off f v) :=
  .bind .getS fun _ => .update ⟨rfl, fun _ hx => hoff (Upd.reg.inj hx).1⟩

theorem raise_prepares (src part code : Nat) (detail : List Byte) : M.All Upd.Prepares (raise src part code detail) :=
  (raise_reach (msk := 0x181) rfl src part code detail).prepares rfl rfl

theorem setLocked_prepares (ds : List Nat) (on : Bool) : M.All Upd.Prepares (setLocked ds on) :=
  .bind .getS fun _ => wrFld_prepares (by decide) _ _

theorem setAvs_prepares : M.All Upd.Prepares setAvs :=
  .bind .getS fun _ => .bind (wrFld_prepares (by decide) _ _) fun _ => wrFld_prepares (by decide) _ _

theorem powerDomains_prepares : M.All Upd.Prepares powerDomains := (powerDomains_reach (msk := 0x10080) rfl).prepares rfl rfl

theorem Reg.mcCtl_ne_rcvPriv (c : Nat) : Reg.mcCtl c ≠ Reg.rcvPriv := by simp only [Reg.mcCtl, Reg.rcvPriv]; omega

theorem Reg.mcStatus_ne_rcvPriv (c : Nat) : Reg.mcStatus c ≠ Reg.rcvPriv := by simp only [Reg.mcStatus, Reg.rcvPriv]; omega

theorem Reg.bistResult_ne_rcvPriv (j : Nat) : Reg.bistResult j ≠ Reg.rcvPriv := by simp only [Reg.bistResult, Reg.rcvPriv]; omega

theorem Reg.streamMode_ne_rcvPriv (p : Nat) : Reg.streamMode p ≠ Reg.rcvPriv := by simp only [Reg.streamMode, Reg.rcvPriv]; omega

theorem training_prepares (p : Nat) : M.All Upd.Prepares (training p) := by
  unfold training
  refine .bind .getS fun s => .bind ((setMark_reach (msk := 0x80) rfl _).prepares rfl rfl) fun _ => .forIn _ _ _ fun x _ => ?_
  obtain ⟨c, d⟩ := x
  have ctl := fun f v => wrFld_prepares (Reg.mcCtl_ne_rcvPriv c) f v
  have status := fun f v => wrFld_prepares (Reg.mcStatus_ne_rcvPriv c) f v
  exact .ite (.bind (ctl _ _) fun _ => .bind (status _ _) fun _ => .bind (status _ _) fun _ => .bind (status _ _) fun _ =>
    .bind (status _ _) fun _ => .pure _) (.bind (status _ _) fun _ => .bind (status _ _) fun _ => .bind (status _ _) fun _ => .pure _)

theorem unitTested_prepares (u : Nat) (pb bb : Bool) (inService since sig : Nat) :
    M.All Upd.Prepares (unitTested u pb bb inService since sig) := by
  have result := fun f v => wrFld_prepares (Reg.bistResult_ne_rcvPriv u) f v
  have hmark : M.All Upd.Prepares (unitMark u pb bb) := M.All.prepares (msk := 0x80280) (by
    refine .bind (.update rfl) fun _ => ?_
    have hfailed : M.All (Upd.In 0x80280) (if pb ∨ bb then
        forIn (unitEngines u) PUnit.unit fun e _ => do
          modEngine e fun g => { g with failed := true }
          pure (.yield PUnit.unit)
      else pure ()) := .ite (.forIn _ _ _ fun _ _ => .bind (modEngine_reach (msk := 0x80280) rfl _ _) fun _ => .pure _) (.pure _)
    exact .ite (.bind (.update rfl) fun _ => hfailed) hfailed) rfl rfl
  have htail := fun src part code detail => M.All.bind (raise_prepares src part code detail) fun _ => hmark
  exact .bind .getS fun _ => .bind (result _ _) fun _ => .bind (result _ _) fun _ => .bind (result _ _) fun _ =>
    .ite (htail _ _ _ _) (htail _ _ _ _)

theorem startupTest_prepares (port body : Nat) : M.All Upd.Prepares (startupTest port body []) := by
  have result := fun u f v => wrFld_prepares (Reg.bistResult_ne_rcvPriv u) f v
  exact .bind .getS fun _ => .bind (.update ⟨rfl, fun _ h => nomatch h⟩) fun _ => .bind (.pure _) fun _ =>
    .forIn _ _ _ fun u _ => .bind (unitTested_prepares u _ _ _ _ _) fun _ => .bind (result u _ _) fun _ => .bind (result u _ _) fun _ => .pure _

/-! ## The slots of an image type -/

theorem trySlots_gives {ty a b : Nat} {get : Nat → Option Image} {i : Image} (hget : get a = some i)
    (hgood : imageFault ty (s.counter ty) s.ownerKey i = none) : (trySlots ty [a, b] get).gives s (some (a, i)) s := by
  unfold trySlots
  refine M.gives.bind (a := some (a, i)) (t := s) ?_ (pure_gives _ _)
  rw [List.forIn_cons]
  refine M.gives.bind (a := ForInStep.yield (some (a, i))) (t := s) ?_ fun _ => rfl
  rw [hget]
  refine .getS_bind ?_
  dsimp only
  rw [hgood]
  exact pure_gives _ _

/-! ## The start of boot: queue 0 and the identity (R524, R525) -/

/-- The BCC's context and queue 0 exist. -/
def State.Opened (s : State) : Prop := (tblFind s.tally.contexts 0).isSome = true ∧ (s.queue 0).isSome = true

theorem createEventQueue_leads (ring : Nat) (s : State) : (createEventQueue ring).Leads s fun _ t => s.SameBut [.tally] t ∧ t.Opened := by
  have hctx : ¬ (tblFind s.tally.contexts 0).isNone = true → (tblFind s.tally.contexts 0).isSome = true := by
    cases tblFind s.tally.contexts 0 <;> simp
  have hqueue : ¬ (s.queue 0).isNone = true → (s.queue 0).isSome = true := by cases s.queue 0 <;> simp
  have hset {α : Type} (t : Tbl α) (v : α) : (tblFind (tblSet t 0 v) 0).isSome = true := by rw [tblFind_tblSet_same]; rfl
  unfold createEventQueue
  refine .getS ?_
  dsimp only
  by_cases hc : (tblFind s.tally.contexts 0).isNone = true
  · rw [if_pos hc]
    refine .upd ?_
    have hfirst := fun f => Upd.sameBut (.tally f) s
    by_cases hq : (s.queue 0).isNone = true
    · rw [if_pos hq]
      exact (update_gives _ _).leads ⟨(hfirst _).trans (Upd.sameBut (.tally _) _), hset _ _, hset _ _⟩
    · rw [if_neg hq]
      exact .pure ⟨hfirst _, hset _ _, hqueue hq⟩
  · rw [if_neg hc]
    by_cases hq : (s.queue 0).isNone = true
    · rw [if_pos hq]
      exact (update_gives _ _).leads ⟨Upd.sameBut (.tally _) _, hctx hc, hset _ _⟩
    · rw [if_neg hq]
      exact .pure ⟨.refl _ s, hctx hc, hqueue hq⟩

/-- Boot has opened queue 0 and shown whether the identity is good. -/
structure State.BootOpened (s t : State) : Prop where
  frame : s.SameBut [.regs, .tally, .rcv] t
  canonical : t.Canonical
  opened : t.Opened
  identity : t.fld Reg.secStatus Fld.secStatusIdentityOk = if s.store.helperOk then 1 else 0

/-- The part of boot before the identity is judged. -/
def bootOpen (ring : Nat) (s : State) : M Unit := do
  update (.rcv fun r => { r with
    priv := r.privEmmc ++ (if r.recorded then [s.clock.now] else [])
    privEmmc := r.privEmmc ++ (if r.recorded then [s.clock.now] else [])
    recorded := false })
  createEventQueue ring
  wrFld Reg.secStatus Fld.secStatusIdentityOk (flagBit s.store.helperOk)

theorem bootOpen_leads (ring : Nat) (hs : s.Canonical) : (bootOpen ring s).Leads s fun _ t => s.BootOpened t := by
  refine .upd ((createEventQueue_leads ring _).next fun _ t ⟨hframe, hopened⟩ => ?_)
  have ht : t.Canonical := hframe.canonical (by decide) (by decide) hs
  refine (wrFld_gives _ _ _ t).leads ⟨?_, State.canonical_putFld ht _ _ _, hopened, ?_⟩
  · exact ((Upd.sameBut_of _ _).trans (hframe.mono (by decide))).trans ((State.sameBut_putFld _ _ _ _).mono (by decide))
  · refine (fld_apply_same ht _ _ _ (by decide)).trans ?_
    cases s.store.helperOk <;> rfl

theorem boot_fails_identity {ring : Nat} (port body : Nat) (macros : List Nat) (hs : s.Canonical) (hresets : s.rcv.resets = [])
    (hid : s.store.helperOk = false) : (boot port body macros ring).Then s (do
      raise 0x81 6 0x9003 []
      bootFails false) fun u => s.BootOpened u := by
  unfold boot
  refine .getS ?_
  dsimp only
  rw [if_pos (by rw [hresets]; rfl), if_pos (by rw [hid]; rfl)]
  exact (bootOpen_leads ring hs).andThen fun _ t ht => .here ht

/-! ## The measured images (R521, R526) -/

theorem Security.layer_extended (x : Security) {i : Nat} (m : List Byte) (hi : i < x.layers.length) :
    (x.extended i m).layers.getD i [] = shake512 (x.layers.getD i [] ++ m) := by
  simp [Security.extended, List.getD_eq_getElem?_getD, hi]

theorem Security.layer_extended_other (x : Security) {i j : Nat} (m : List Byte) (hj : j ≠ i) :
    (x.extended i m).layers.getD j [] = x.layers.getD j [] := by
  simp [Security.extended, List.getD_eq_getElem?_getD, List.getElem?_set_ne hj.symm]

theorem Security.length_extended (x : Security) (i : Nat) (m : List Byte) : (x.extended i m).layers.length = x.layers.length :=
  List.length_set

/-- The measurement of an owner record. -/
def Owner.measured (o : Owner) : List Byte := shake512 (o.bytes ++ o.ownerSig ++ o.vendorSig)

/-- The security block once the ROM, the owner record and the BCC image are measured. -/
def Security.measured (x : Security) (o : Owner) (i : Image) : Security :=
  { (((({ x with seeded := true } : Security).extended 0 Config.romDigest).extended 1 o.measured).extended 2 (imgDigest i)) with bccImage := some i }

theorem Security.layer_measured (x : Security) (o : Owner) (i : Image) (hx : x.layers.length = 8) :
    (x.measured o i).layers.getD 0 [] = shake512 (x.layers.getD 0 [] ++ Config.romDigest) ∧
      (x.measured o i).layers.getD 1 [] = shake512 (x.layers.getD 1 [] ++ o.measured) ∧
      (x.measured o i).layers.getD 2 [] = shake512 (x.layers.getD 2 [] ++ imgDigest i) ∧
      (x.measured o i).aliasL2 = (x.measured o i).layers.getD 2 [] := by
  let a : Security := { x with seeded := true }
  let b := a.extended 0 Config.romDigest
  let c := b.extended 1 o.measured
  have ha : a.layers.length = 8 := hx
  have hb : b.layers.length = 8 := (a.length_extended _ _).trans ha
  have hc : c.layers.length = 8 := (b.length_extended _ _).trans hb
  have h2 : (c.extended 2 (imgDigest i)).layers.getD 2 [] = shake512 (c.layers.getD 2 [] ++ imgDigest i) := c.layer_extended _ (by omega)
  refine ⟨?_, ?_, ?_, h2.symm⟩
  · exact (c.layer_extended_other _ (by decide)).trans ((b.layer_extended_other _ (by decide)).trans (a.layer_extended _ (by omega)))
  · refine (c.layer_extended_other _ (by decide)).trans ((b.layer_extended _ (by omega)).trans ?_)
    rw [a.layer_extended_other _ (by decide)]
  · refine h2.trans ?_
    rw [b.layer_extended_other _ (by decide), a.layer_extended_other _ (by decide)]

/-- The state once the ROM is measured, the counter store opened and the challenge drawn. -/
def State.bootKeyed (s : State) : State :=
  let a := s.withSec { s.sec with seeded := true }
  let b := (a.withSec (a.sec.extended 0 Config.romDigest)).putFld Reg.secStatus Fld.secStatusRpmbOk 1
  ((Upd.free (· + 8)).apply b).putReg Reg.secRtsChallenge (BitVec.ofNat 64 (leNat (b.freshBytes 8)))

theorem State.sameBut_bootKeyed (s : State) : s.SameBut [.regs, .free, .sec] s.bootKeyed := by
  have hsec := fun (x : State) y => (x.sameBut_withSec y).mono (show [Part.sec] ⊆ [.regs, .free, .sec] by decide)
  exact ((((hsec _ _).trans (hsec _ _)).trans ((State.sameBut_putFld _ _ _ _).mono (by decide))).trans (Upd.sameBut_of (.free _) _)).trans
    (Upd.sameBut_of (.reg _ _) _)

theorem State.canonical_bootKeyed (hs : s.Canonical) : s.bootKeyed.Canonical :=
  Upd.apply_canonical _ _ (Upd.apply_canonical (.free _) _ (State.canonical_putFld (State.canonical_withSec (State.canonical_withSec hs)) _ _ _))

theorem State.fld_bootKeyed (hs : s.Canonical) : s.bootKeyed.fld Reg.secStatus Fld.secStatusIdentityOk = s.fld Reg.secStatus Fld.secStatusIdentityOk ∧
    s.bootKeyed.fld Reg.secStatus Fld.secStatusRpmbOk = 1 := by
  have hregs : s.bootKeyed.regs = ((s.putFld Reg.secStatus Fld.secStatusRpmbOk 1).putReg Reg.secRtsChallenge
    (BitVec.ofNat 64 (leNat (s.freshBytes 8)))).regs := rfl
  have hkept : ∀ g, s.bootKeyed.fld Reg.secStatus g = (s.putFld Reg.secStatus Fld.secStatusRpmbOk 1).fld Reg.secStatus g := fun g => by
    rw [fld_congr hregs, State.fld, State.putReg, reg_apply_other (State.canonical_putFld hs _ _ _) _ (by decide), State.fld]
  rw [hkept, hkept]
  exact ⟨State.fld_putFld_apart hs (by decide), State.fld_putFld_same hs (by decide) (by decide)⟩

/-- The state once the owner record and the BCC image are measured. -/
def State.bootMeasured (s : State) (o : Owner) (i : Image) (slot : Nat) : State :=
  let d := s.withSec (s.sec.extended 1 o.measured)
  let e := (d.withSec (d.sec.extended 2 (imgDigest i))).putFld Reg.secStatus Fld.secStatusBccSlot slot
  e.withSec { e.sec with bccImage := some i }

theorem State.sameBut_bootMeasured (s : State) (o : Owner) (i : Image) (slot : Nat) :
    s.SameBut [.regs, .free, .sec] (s.bootMeasured o i slot) := by
  have hsec := fun (x : State) y => (x.sameBut_withSec y).mono (show [Part.sec] ⊆ [.regs, .free, .sec] by decide)
  exact (((hsec _ _).trans (hsec _ _)).trans ((State.sameBut_putFld _ _ _ _).mono (by decide))).trans (hsec _ _)

theorem State.fld_bootMeasured (hs : s.Canonical) (o : Owner) (i : Image) (slot : Nat) {g : Field}
    (hg : g.lsb + g.width ≤ Fld.secStatusBccSlot.lsb) : (s.bootMeasured o i slot).fld Reg.secStatus g = s.fld Reg.secStatus g := by
  rw [State.bootMeasured, State.fld_withSec, State.fld_putFld_apart (State.canonical_withSec (State.canonical_withSec hs)) (.inl hg)]
  rfl

/-- What lets boot run to the BCC image. -/
structure State.BootGood (s : State) (o : Owner) (i : Image) : Prop where
  identity : s.store.helperOk = true
  keyed : s.store.rpmbKeyed = true
  good : s.store.rpmbGood = true
  fresh : s.store.rpmbWorn = false
  owner : s.store.owner = some o
  signed : o.good = true
  directory : s.store.dirGood ≠ []
  slot : tblFind s.store.bccSlots s.store.bccActive = some i
  image : imageFault 1 (s.counter 1) s.ownerKey i = none

theorem boot_measures {ring : Nat} {o : Owner} {i : Image} (port body : Nat) (macros : List Nat) (hs : s.Canonical)
    (hresets : s.rcv.resets = []) (hgood : s.BootGood o i) :
    (boot port body macros ring).Then s (bootRest port body macros) fun u => ∃ t, s.BootOpened t ∧
      u = t.bootKeyed.bootMeasured o i s.store.bccActive := by
  obtain ⟨hid, hkeyed, hrpmb, hworn, howner, hsigned, hdir, hslot, himage⟩ := hgood
  have hfilter : (s.store.owner.filter fun o => o.good && !s.store.dirGood.isEmpty) = some o := by
    rw [howner]
    exact Option.filter_eq_some_iff.mpr ⟨rfl, by rw [hsigned, List.isEmpty_eq_false_iff.mpr hdir]; rfl⟩
  unfold boot
  refine .getS ?_
  dsimp only
  rw [if_pos (by rw [hresets]; rfl), if_neg (by rw [hid]; decide), if_neg (by rw [hkeyed]; decide), if_neg (by rw [hrpmb, hworn]; simp), hfilter]
  refine (bootOpen_leads ring hs).andThen fun _ t ht => ?_
  have hstore : (t.bootKeyed.withSec (t.bootKeyed.sec.extended 1 o.measured)).store = s.store :=
    (t.sameBut_bootKeyed.2 .store (by decide)).trans (ht.frame.2 .store (by decide))
  have htry := trySlots_gives (s := t.bootKeyed.withSec (t.bootKeyed.sec.extended 1 o.measured)) (b := 1 - s.store.bccActive) hslot
    (show imageFault 1 (tblGet (State.store _).counters 0 1) (((State.store _).owner.map (·.imageKey)).getD []) i = none by
      rw [hstore]; exact himage)
  refine ⟨_, ⟨t, ht, rfl⟩, ?_⟩
  refine ((modSec_gives _ t).run_bind _).trans (((extend_gives _ _ _).run_bind _).trans (((wrFld_gives _ _ _ _).run_bind _).trans ?_))
  refine ((freshBytes_gives _ _).run_bind _).trans (((wrReg_gives _ _ _).run_bind _).trans (((extend_gives _ _ _).run_bind _).trans ?_))
  refine (htry.run_bind _).trans ?_
  dsimp only
  rw [if_neg (not_not.mpr rfl)]
  exact ((extend_gives _ _ _).run_bind _).trans (((wrFld_gives _ _ _ _).run_bind _).trans ((modSec_gives _ _).run_bind _))

end Sys2Proof.Machine
end

section
/-! PROOFS. The rest of boot: the device is prepared, the application image runs and Tally opens; and the settlement of O56. -/

namespace Sys2Proof.Machine

open Sys2Proof

variable {s t u : State}

theorem bootRest_unconfigured (port body : Nat) (macros : List Nat) (h : s.store.confImage = none) :
    M.run (bootRest port body macros) s = M.run (do
      imageRejected 3 0 3 none
      bootFails true) s := by
  unfold bootRest
  rw [run_getS_bind, h]
  rfl

/-- What lets the rest of boot open Tally. -/
structure State.RestGood (s : State) (ci i : Image) : Prop where
  config : s.store.confImage = some ci
  configGood : imageFault 3 (s.counter 3) s.ownerKey ci = none
  resets : s.rcv.resets = []
  bivouac : s.rcv.bivouac = false
  wasBivouac : s.rcv.wasBivouac = false
  limit : s.privCount < s.privLimit
  layers : s.sec.layers.length = 8
  slot : tblFind s.store.appSlots s.store.appActive = some i
  image : imageFault 2 (s.counter 2) s.ownerKey i = none

theorem State.limits_congr (hreg : t.reg Reg.rcvPriv = s.reg Reg.rcvPriv) (hrcv : t.rcv = s.rcv) (hclock : t.clock = s.clock) :
    t.privCount = s.privCount ∧ t.privLimit = s.privLimit := by
  have hfld : ∀ f, t.fld Reg.rcvPriv f = s.fld Reg.rcvPriv f := fun f => congrArg (fun w => getBits w f.lsb f.width) hreg
  constructor
  · rw [State.privCount, hfld, hrcv, hclock, State.privCount]
  · rw [State.privLimit, hfld, State.privLimit]

/-- The state in which the application image stands in memory, is measured and runs. -/
def State.appStarted (s : State) (i : Image) : State :=
  let a := (Upd.mem (imgLoad i) i.body).apply s
  let b := (a.withSec (a.sec.extended 4 (imgDigest i))).putFld Reg.secStatus Fld.secStatusAppSlot s.store.appActive
  b.withSec { b.sec with appImage := some i, booted := true }

/-- The state in which Tally accepts work and the device is shown in service. -/
def State.inService (s : State) : State := (Upd.pins fun p => { p with oosN := true }).apply ((Upd.tally fun x => { x with accepting := true }).apply s)

/-- What the boot of the rest leaves. -/
structure State.Served (s : State) (ci i : Image) (t : State) : Prop where
  booted : t.sec.booted = true
  app : t.sec.appImage = some i
  accepting : t.tally.accepting = true
  oosN : t.pins.oosN = true
  bivouac : t.rcv.bivouac = false
  config : t.layer 3 = shake512 (s.layer 3 ++ imgDigest ci)
  measured : t.layer 4 = shake512 (s.layer 4 ++ imgDigest i)

theorem State.limits_appStarted (hs : s.Canonical) (i : Image) :
    (s.appStarted i).privCount = s.privCount ∧ (s.appStarted i).privLimit = s.privLimit := by
  refine State.limits_congr ?_ rfl rfl
  have hregs : (s.appStarted i).regs = (((Upd.mem (imgLoad i) i.body).apply s).putFld Reg.secStatus Fld.secStatusAppSlot s.store.appActive).regs := rfl
  rw [reg_congr hregs, State.reg_putFld (Upd.apply_canonical _ _ hs), if_neg (by decide)]
  rfl

theorem presenceChanged_gives (s : State) : presenceChanged.gives s () (M.run presenceChanged s) := presenceChanged_tame.gives_run s

theorem served_of_inService {ci i : Image} (hgood : s.RestGood ci i)
    (hu : (s.withSec (s.sec.extended 3 (imgDigest ci))).Prepared u) :
    s.Served ci i (M.run presenceChanged (M.run drivePins (u.appStarted i).inService)) := by
  obtain ⟨hsec, haccept, hoosN, hbivouac⟩ := presenceChanged_keeps (M.run drivePins (u.appStarted i).inService)
  have husec : u.sec = s.sec.extended 3 (imgDigest ci) := hu.frame.2 .sec (by decide)
  have hurcv : u.rcv = s.rcv := hu.frame.2 .rcv (by decide)
  have htsec : (M.run presenceChanged (M.run drivePins (u.appStarted i).inService)).sec =
      { (s.sec.extended 3 (imgDigest ci)).extended 4 (imgDigest i) with appImage := some i, booted := true } := by
    rw [← husec]
    exact hsec
  have hlen : (s.sec.extended 3 (imgDigest ci)).layers.length = 8 := (s.sec.length_extended _ _).trans hgood.layers
  refine ⟨by rw [htsec], by rw [htsec], haccept, hoosN, hbivouac.trans ((congrArg Recovery.bivouac hurcv).trans hgood.bivouac), ?_, ?_⟩
  · rw [State.layer, htsec]
    exact ((Security.layer_extended_other _ _ (by decide)).trans (s.sec.layer_extended _ (by rw [hgood.layers]; decide)))
  · rw [State.layer, htsec]
    refine (Security.layer_extended _ _ (by rw [hlen]; decide)).trans ?_
    rw [s.sec.layer_extended_other _ (by decide), State.layer]

theorem sysUpdate_prepares (f : MemSys → MemSys) : M.All Upd.Prepares (update (.sys f)) := .update ⟨rfl, fun _ h => nomatch h⟩

theorem M.Leads.ite_pos {α : Type} {c : Prop} [Decidable c] {m n : M α} {Q : α → State → Prop} (h : c) (hm : m.Leads s Q) :
    (if c then m else n).Leads s Q := by rwa [if_pos h]

theorem M.Leads.ite_neg {α : Type} {c : Prop} [Decidable c] {m n : M α} {Q : α → State → Prop} (h : ¬ c) (hn : n.Leads s Q) :
    (if c then m else n).Leads s Q := by rwa [if_neg h]

theorem bootRest_serves {ci i : Image} (hs : s.Canonical) (hgood : s.RestGood ci i) : s.Served ci i (M.run (bootRest 0 0 []) s) := by
  have hfilter : (s.store.confImage.filter fun i => (imageFault 3 (s.counter 3) s.ownerKey i).isNone) = some ci := by
    rw [hgood.config]
    exact Option.filter_eq_some_iff.mpr ⟨rfl, by rw [hgood.configGood]; rfl⟩
  refine M.Leads.run ?_
  unfold bootRest
  refine .getS ?_
  dsimp only
  rw [hfilter, hgood.resets]
  refine (extend_gives _ _ _).leads_bind ?_
  refine (sysUpdate_prepares _).prepared_bind (.refl (State.canonical_withSec hs)) fun _ _ h => ?_
  refine (wrFld_prepares (by decide) _ _).prepared_bind h fun _ _ h => ?_
  refine ((modPower_reach (msk := 0x10000) rfl _).prepares rfl rfl).prepared_bind h fun _ _ h => ?_
  refine powerDomains_prepares.prepared_bind h fun _ _ h => ?_
  refine setAvs_prepares.prepared_bind h fun _ _ h => ?_
  refine (setLocked_prepares _ _).prepared_bind h fun _ _ h => ?_
  refine .ite_pos rfl ?_
  refine (startupTest_prepares 0 0).prepared_bind h fun _ _ h => ?_
  refine M.All.prepared_bind (.forIn _ _ _ fun p _ => ?_) h fun _ u hu => ?_
  · have hmode := wrFld_prepares (Reg.streamMode_ne_rcvPriv p) Fld.streamModeRestricted 0
    exact .ite (.bind (training_prepares p) fun _ => .bind hmode fun _ => .pure _) (.bind hmode fun _ => .pure _)
  have hstore : u.store = s.store := hu.frame.2 .store (by decide)
  have hrcv : u.rcv = s.rcv := hu.frame.2 .rcv (by decide)
  have himage : imageFault 2 (u.counter 2) u.ownerKey i = none := by
    rw [State.counter, State.ownerKey, hstore]
    exact hgood.image
  have hlimit : ¬ ((u.appStarted i).privLimit ≤ (u.appStarted i).privCount ∧ (!(u.appStarted i).rcv.resets.any fun p => p.1 == 0x200) = true) := by
    obtain ⟨hcount, hlim⟩ := u.limits_appStarted hu.canonical i
    obtain ⟨hcount', hlim'⟩ := State.limits_congr (s := s) hu.limits hrcv (hu.frame.2 .clock (by decide))
    rw [hcount, hlim, hcount', hlim']
    exact fun h => Nat.not_le.mpr hgood.limit h.1
  refine .getS ((trySlots_gives (by rw [hstore]; exact hgood.slot) himage).leads_bind ?_)
  refine .ite_neg (not_not.mpr rfl) (.upd ?_)
  refine (extend_gives _ _ _).leads_bind ((wrFld_gives _ _ _ _).leads_bind ((modSec_gives _ _).leads_bind (.getS ?_)))
  refine .ite_neg (by decide) (.ite_neg hlimit (.upd ?_))
  refine .ite_pos ?_ (.upd (.ite_neg ?_ ?_))
  · change (!(u.appStarted i).rcv.resets.any fun p => p.1 == 0x200) = true
    rw [show (u.appStarted i).rcv = s.rcv from hrcv, hgood.resets]
    rfl
  · change ¬ (u.appStarted i).rcv.wasBivouac = true
    rw [show (u.appStarted i).rcv = s.rcv from hrcv, hgood.wasBivouac]
    decide
  · refine M.gives.leads_bind (t := M.run drivePins (u.appStarted i).inService) (fun _ => rfl) ?_
    exact (presenceChanged_gives _).leads (served_of_inService hgood hu)

/-! ## The command BOOT -/

theorem boot_turnedAway {port body : Nat} {macros : List Nat} {ring : Nat}
    (h : s.power.phase ≠ 2 ∨ s.sec.booted = true ∨ ring % 64 ≠ 0 ∨ 2 ^ 38 ≤ ring) : TurnedAway (.boot port body macros ring) s := by
  change execBoot port body macros ring s = _
  refine whenEnabled_refused ?_
  obtain h | h | h | h := h
  · simp [h]
  · simp [h]
  · simp [h]
  · rw [decide_eq_false (Nat.not_lt.mpr h), Bool.and_false, Bool.false_and]

section
variable {port body : Nat} {macros : List Nat} {ring : Nat} (hphase : s.power.phase = 2) (hbooted : s.sec.booted = false)
  (halign : ring % 64 = 0) (hlow : ring < 2 ^ 38) (hresets : s.rcv.resets = [])
include hphase hbooted halign hlow hresets

theorem exec_boot : exec (.boot port body macros ring) s = .next (M.run (boot port body macros ring) s) := by
  change execBoot port body macros ring s = _
  refine whenEnabled_next ?_
  rw [hphase, hbooted, halign, hresets, decide_eq_true hlow]
  rfl

theorem boot_completes_identity (hs : s.Canonical) (hid : s.store.helperOk = false) :
    CompletesThen (.boot port body macros ring) s (do
      raise 0x81 6 0x9003 []
      bootFails false) fun u => s.SameBut [.regs, .tally, .rcv] u ∧
        ((tblFind u.tally.contexts 0).isSome = true ∧ (u.queue 0).isSome = true) ∧ u.fld Reg.secStatus Fld.secStatusIdentityOk = 0 := by
  obtain ⟨u, hu, hrun⟩ := boot_fails_identity (ring := ring) port body macros hs hresets hid
  refine completesThen_of ⟨hu.frame, hu.opened, hu.identity.trans ?_⟩ ((exec_boot hphase hbooted halign hlow hresets).trans (congrArg _ hrun))
  rw [hid]
  rfl

theorem boot_completes_measured {o : Owner} {i : Image} (hs : s.Canonical) (hgood : s.BootGood o i) (hlen : s.sec.layers.length = 8) :
    CompletesThen (.boot port body macros ring) s (bootRest port body macros) fun u => s.SameBut [.regs, .free, .tally, .rcv, .sec] u ∧
      ((tblFind u.tally.contexts 0).isSome = true ∧ (u.queue 0).isSome = true) ∧
      u.fld Reg.secStatus Fld.secStatusIdentityOk = 1 ∧ u.fld Reg.secStatus Fld.secStatusRpmbOk = 1 ∧ u.sec.seeded = true ∧ u.sec.bccImage = some i ∧
      u.layer 0 = shake512 (s.layer 0 ++ Config.romDigest) ∧
      u.layer 1 = shake512 (s.layer 1 ++ shake512 (o.bytes ++ o.ownerSig ++ o.vendorSig)) ∧
      u.layer 2 = shake512 (s.layer 2 ++ imgDigest i) ∧ u.sec.aliasL2 = u.layer 2 := by
  obtain ⟨_, ⟨t, ht, rfl⟩, hrun⟩ := boot_measures (ring := ring) port body macros hs hresets hgood
  refine completesThen_of ?_ ((exec_boot hphase hbooted halign hlow hresets).trans (congrArg _ hrun))
  have hframe : t.SameBut [.regs, .free, .sec] (t.bootKeyed.bootMeasured o i s.store.bccActive) :=
    t.sameBut_bootKeyed.trans (t.bootKeyed.sameBut_bootMeasured o i _)
  have htally : (t.bootKeyed.bootMeasured o i s.store.bccActive).tally = t.tally := hframe.2 .tally (by decide)
  have hsec : (t.bootKeyed.bootMeasured o i s.store.bccActive).sec = s.sec.measured o i := by
    rw [← show t.sec = s.sec from ht.frame.2 .sec (by decide)]
    rfl
  have hk := State.canonical_bootKeyed ht.canonical
  obtain ⟨hidentity, hrpmb⟩ := State.fld_bootKeyed ht.canonical
  obtain ⟨h0, h1, h2, halias⟩ := s.sec.layer_measured o i hlen
  refine ⟨(ht.frame.mono (by decide)).trans (hframe.mono (by decide)), ?_, ?_, ?_, by rw [hsec]; rfl, by rw [hsec]; rfl, ?_, ?_, ?_, ?_⟩
  · rw [State.queue, htally]
    exact ht.opened
  · rw [State.fld_bootMeasured hk _ _ _ (by decide), hidentity, ht.identity, if_pos hgood.identity]
  · rw [State.fld_bootMeasured hk _ _ _ (by decide), hrpmb]
  · rw [State.layer, hsec]; exact h0
  · rw [State.layer, hsec]; exact h1
  · rw [State.layer, hsec]; exact h2
  · rw [State.layer, hsec]; exact halias

end

/-- Settles O56: boot measures each image that it accepts and opens Tally, and every secret is guarded by its check. -/
theorem bootMeasuresAndSecretsAreGuarded : Obligations.BootMeasuresAndSecretsAreGuarded := by
  unfold Obligations.BootMeasuresAndSecretsAreGuarded
  intro s hs
  refine ⟨fun port body macros ring h => ?_, fun port body macros ring hphase hbooted halign hlow hresets => ⟨fun hid => ?_,
      fun o i hid hkeyed hrpmb hworn howner hsigned hdir hlen hslot himage => ?_⟩, fun port body macros h => bootRest_unconfigured port body macros h,
    fun ci i hconf hcgood hresets hb hwas hlimit hlen hslot himage => ?_, fun w l addr a ha => ?_, fun h => ?_,
    fun a nonce x r u hatt hwrite => ⟨length_padTo .., exec_attestationReportDone hs hatt hwrite⟩,
    fun hphase => ⟨exec_idcode hphase, ⟨0, by decide, exec_tapBypass hphase⟩, fun x => ⟨exec_extest_locked x hphase,
      fun hlevel => ⟨_, exec_extest x hphase hlevel, s.sameBut_boundary x, rfl, rfl, rfl⟩⟩⟩, fun hphase => ?_, fun h => ?_, extestExit_completes,
    fun hphase => ?_, fun hphase => ⟨exec_debugChallenge_spent hphase, exec_debugChallenge hphase⟩, fun data h => ?_,
    fun data c level hc hl => ?_⟩
  · exact boot_turnedAway h
  · exact boot_completes_identity hphase hbooted halign hlow hresets hs hid
  · exact boot_completes_measured hphase hbooted halign hlow hresets hs ⟨hid, hkeyed, hrpmb, hworn, howner, hsigned, hdir, hslot, himage⟩ hlen
  · have hserved := bootRest_serves hs ⟨hconf, hcgood, hresets, hb, hwas, hlimit, hlen, hslot, himage⟩
    exact ⟨hserved.booted, hserved.app, hserved.accepting, hserved.oosN, hserved.bivouac, hserved.config, hserved.measured⟩
  · subst ha
    refine ⟨fun h => always_of_run (run_measurementExtend_refused addr h s), fun m u => exec_measurementExtend,
      fun hw => ⟨always_of_run (run_attestationRequest_user addr hw s), always_of_run (run_returnToService_user addr hw s),
        always_of_run (run_svnCommit_user hw 1 0 s), always_of_run (run_svnCommit_user hw 2 1 s)⟩,
      fun hw h => always_of_run (run_attestationRequest_refused hw h), fun nonce u hw hatt hpage hread =>
        exec_attestationRequest hs hw hatt hpage hread, fun hw hpage => always_of_run (run_returnToService_page hw hpage s),
      fun b new v hw hpage hdrawn => ?_, fun hw => ⟨exec_svnCommitBcc hw s, exec_svnCommitApp hw s⟩⟩
    have hrenewed : v.SameBut [.regs] (v.renewed new) ∧ v.OneReg Reg.secRtsChallenge (BitVec.ofNat 64 (leNat new)) (v.renewed new) :=
      ⟨v.sameBut_putReg _ _, State.oneReg_putReg (hdrawn.canonical hs) _ _⟩
    refine ⟨fun hbad => ?_, fun hgood hb => ⟨_, hrenewed, exec_returnToService_good hw hpage hdrawn hgood hb⟩,
      returnToService_leavesBivouac hw hpage hdrawn⟩
    obtain ⟨why, hlt, hexec⟩ := exec_returnToService_bad hw hpage hdrawn hbad
    exact ⟨_, why, hlt, hrenewed, hexec⟩
  · change execAttestationReportDone s = _
    exact whenEnabled_refused (by rw [h]; rfl)
  · have hrefused : (s.power.phase != 0) = false := by rw [hphase]; rfl
    refine ⟨?_, ?_, fun x => ?_⟩
    · change execIdcode s = _
      exact whenEnabled_refused hrefused
    · change execTapBypass s = _
      exact whenEnabled_refused hrefused
    · change execExtest x s = _
      exact whenEnabled_refused hrefused
  · change execExtestExit s = _
    exact whenEnabled_refused h
  · change execDebugChallenge s = _
    exact whenEnabled_refused (beq_eq_false_iff_ne.mpr hphase)
  · change execDebugResponse data s = _
    exact whenEnabled_refused (by rw [h]; rfl)
  · subst hl
    refine ⟨fun hgood => ?_, exec_debugResponse_bad hc⟩
    obtain ⟨t, hexec, hframe, hout⟩ := exec_debugResponse_good hc hgood
    exact ⟨s.unlocked (leAt data 0 1), t, s.sameBut_unlocked _, State.fld_unlocked hs hgood.2.1, s.sec_unlocked _, hexec, hframe, hout⟩

end Sys2Proof.Machine
end

section
/-! PROOFS. Entries enter and leave queues through ports (O21). -/

namespace Sys2Proof.Machine

open Sys2Proof

variable {s t u v : State} {i q : Nat}

/-! ## Two views of one run -/

/-- An operation leads to what two kinds of updates keep, where it does both. -/
theorem M.All.leads_both {α : Type} {m : M α} {R R' : Upd → Prop} {Q : α → State → Prop} (h : M.All R m) (h' : M.All R' m)
    (hQ : ∀ a t, Steps R s t → Steps R' s t → Q a t) : m.Leads s Q := by
  obtain ⟨a, t, hsteps, hk⟩ := h s
  exact ⟨a, t, hk, hQ a t hsteps (h'.steps_of_gives hk)⟩

/-! ## Registers of a port do not stage tiles -/

theorem noStaging_putReg {off : Nat} {w : Word} (hs : noStaging s) (hoff : ∀ n, off ≠ Reg.ttTmem n) : noStaging (s.putReg off w) := by
  intro x hx
  change x ∈ regPut s.regs off w at hx
  rw [regPut] at hx
  split at hx
  · exact hs x ((tblDel_sublist _ _).subset hx)
  · rcases tblSet_mem hx with hx | rfl
    · exact hs x hx
    · exact .inr hoff

theorem Reg.portStamp_ne_ttTmem (i n : Nat) : Reg.portStamp i ≠ Reg.ttTmem n := by simp only [Reg.portStamp, Reg.ttTmem]; omega

theorem Reg.portAck_ne_ttTmem (i n : Nat) : Reg.portAck i ≠ Reg.ttTmem n := by simp only [Reg.portAck, Reg.ttTmem]; omega

theorem Reg.portStamp_ne_portAck (i : Nat) : Reg.portStamp i ≠ Reg.portAck i := by simp only [Reg.portStamp, Reg.portAck]; omega

theorem Reg.deqData_ne_ttTmem (i n : Nat) {k : Nat} (hk : k < 8) : Reg.deqData i k ≠ Reg.ttTmem n := by
  simp only [Reg.deqData, Reg.ttTmem]; omega

theorem Reg.deqData_ne_portAck (i k : Nat) : Reg.deqData i k ≠ Reg.portAck i := by simp only [Reg.deqData, Reg.portAck]; omega

theorem Reg.deqData_inj {i j k : Nat} (h : Reg.deqData i j = Reg.deqData i k) : j = k := by simp only [Reg.deqData] at h; omega

theorem State.regs_judged (s : State) (i code seq : Nat) : ∃ w, (s.judged i code seq).regs = (s.putReg (Reg.portAck i) w).regs := by
  obtain ⟨w, hw⟩ : ∃ w, w = BitVec.ofNat 64 (code + 2 ^ 16 + seq * 2 ^ 32) := ⟨_, rfl⟩
  refine ⟨w, ?_⟩
  rw [State.judged, portAck, ← hw, run_acknowledge]
  rfl

theorem State.noStaging_judged (hs : noStaging s) (i code seq : Nat) : noStaging (s.judged i code seq) := by
  obtain ⟨w, hw⟩ := s.regs_judged i code seq
  exact (noStaging_congr hw).mpr (noStaging_putReg hs (Reg.portAck_ne_ttTmem i))

/-! ## Work that finds no waiter -/

theorem doWork_bind_gives_nil (h : ∀ x ∈ s.queue q, x.waiters = []) : (doWork (.bind q)).gives s [] s := by
  change (bindOne q).gives s [] s
  unfold bindOne
  refine .getS_bind ?_
  cases hu : s.queue q with
  | none => exact pure_gives _ _
  | some u =>
    dsimp only
    rw [h u (hu ▸ rfl)]
    exact pure_gives _ _

theorem settleAll_keeps_out (ws : List Work) (s : State) : (M.run (settleAll ws) s).out = s.out :=
  (Reaches.sameBut ((settleAll_reach (msk := 0x10FBA9) rfl ws).run_steps s)
    [.mem, .regs, .free, .sys, .tally, .engines, .rcv, .hall, .sent, .pins, .fabric, .safe] rfl).2 Part.out (by decide)

/-! ## An accepted entry is acknowledged (R112, R151) -/

/-- The state in which an accepted entry is stamped and acknowledged. -/
def State.acknowledged (s : State) (i seq : Nat) : State := (s.putReg (Reg.portStamp i) (BitVec.ofNat 64 s.clock.now)).judged i 0 seq

theorem acknowledged_spec (hs : s.Canonical) (i seq : Nat) : acked (s.acknowledged i seq) i 0 seq ∧
    (s.acknowledged i seq).reg (Reg.portStamp i) = BitVec.ofNat 64 s.clock.now ∧ s.SameBut [.regs, .out, .tally] (s.acknowledged i seq) ∧
    (s.acknowledged i seq).tally = { s.tally with unread := (s.acknowledged i seq).tally.unread } ∧
    ∀ x, x ≠ Reg.portAck i → x ≠ Reg.portStamp i → (s.acknowledged i seq).reg x = s.reg x := by
  have hj := State.judged_spec (s := s.putReg (Reg.portStamp i) (BitVec.ofNat 64 s.clock.now)) (Upd.apply_canonical _ _ hs) i 0 seq
  refine ⟨hj.acked, ?_, ((s.sameBut_putReg _ _).mono (by decide)).trans hj.frame, hj.tally, fun x hx hx' => ?_⟩
  · exact (hj.regs _ (Reg.portStamp_ne_portAck i)).trans ((reg_apply hs _ _ _).trans (if_pos rfl))
  · exact (hj.regs x hx).trans (reg_apply_other hs _ hx')

theorem State.noStaging_acknowledged (hs : noStaging s) (i seq : Nat) : noStaging (s.acknowledged i seq) :=
  State.noStaging_judged (noStaging_putReg hs (Reg.portStamp_ne_ttTmem i)) i 0 seq

theorem run_ackEnqueue {seq : Nat} {task : Option Nat} {work : M (List Work)} (h : ((s.queue q).bind Queue.mirrored).isSome = false) :
    M.run (ackEnqueue i q seq task work) s = M.run (work >>= settleAll) (s.acknowledged i seq) := by
  unfold ackEnqueue
  rw [run_getS_bind, if_neg (by rw [h]; decide)]
  exact ((wrReg_gives _ _ s).run_bind _).trans ((portAck_gives i 0 seq _).run_bind _)

section
variable {seq ty : Nat} (hcodes : lowest (enqueueCodes s (s.portHandle i) q ty) = 0) (hty : ty ≠ 1)
  (happend : (appendEntry q ty (s.enqBytes i) (s.portHandle i) (s.safetyOf (s.portHandle i)) none none noKey).gives s (.ok seq) u)
  (hmirror : ((u.queue q).bind Queue.mirrored).isSome = false)
include hcodes hty happend hmirror

theorem run_enqueueOp : M.run (enqueueOp i q ty) s = M.run (settleAll [.bind q]) (u.acknowledged i seq) := by
  rw [enqueueOp, if_neg hty]
  unfold enqueueData
  rw [run_getS_bind]
  dsimp only
  rw [if_neg (not_not.mpr hcodes)]
  exact (happend.run_bind _).trans (run_ackEnqueue hmirror)

theorem exec_enqueueOf (hready : portReady s i) {c : Instr}
    (hc : c ∈ [Instr.enqueue i q ty] ++ (if ((s.queue q).map (·.ledger)).getD false then [.ledgerAcceptance i q ty] else [])) :
    exec c s = .next (M.run (settleAll [.bind q]) (u.acknowledged i seq)) := by
  have hrun : M.run (portOp i (cmdWord 0 ty q) (enqueueOp i q ty)) s = M.run (settleAll [.bind q]) (u.acknowledged i seq) :=
    (run_portOp hready).trans (run_enqueueOp hcodes hty happend hmirror)
  rcases List.mem_append.mp hc with hc | hc
  · rw [List.mem_singleton.mp hc]
    exact always_of_run hrun
  · split at hc
    · next hledger =>
      rw [List.mem_singleton.mp hc]
      exact (exec_ledgerAcceptance hledger).trans (congrArg _ hrun)
    · cases hc

end

/-- Work on a queue without waiters leaves an acknowledged entry as it is. -/
theorem run_settle_acknowledged {seq : Nat} (hu : u.Canonical) (hst : noStaging u) (hwait : ∀ x ∈ u.queue q, x.waiters = []) :
    M.run (settleAll [.bind q]) (u.acknowledged i seq) = u.acknowledged i seq := by
  obtain ⟨-, -, -, htally, -⟩ := acknowledged_spec hu i seq
  have hqueue : (u.acknowledged i seq).queue q = u.queue q := by rw [State.queue, htally, State.queue]
  exact run_settleAll_one (doWork_bind_gives_nil (by rw [hqueue]; exact hwait)) (State.noStaging_acknowledged hst i seq)

/-! ## A dequeued entry is shown and leaves (R114) -/

/-- The state in which some of an entry's words are shown. -/
def State.shown (i : Nat) (bs : List Byte) : List Nat → State → State
  | [], s => s
  | k :: l, s => State.shown i bs l (s.putReg (Reg.deqData i k) (BitVec.ofNat 64 (leAt bs (8 * k) 8)))

theorem forIn_shown_gives (i : Nat) (bs : List Byte) : ∀ (l : List Nat) (s : State),
    (forIn l PUnit.unit fun k (_ : PUnit) => do
      wrReg (Reg.deqData i k) (BitVec.ofNat 64 (leAt bs (8 * k) 8))
      pure (ForInStep.yield PUnit.unit)).gives s () (State.shown i bs l s)
  | [], _ => pure_gives _ _
  | k :: l, s => by
    rw [List.forIn_cons]
    exact ((wrReg_gives _ _ s).bind (pure_gives _ _)).bind (forIn_shown_gives i bs l _)

theorem State.sameBut_shown (i : Nat) (bs : List Byte) : ∀ (l : List Nat) (s : State), s.SameBut [.regs] (State.shown i bs l s)
  | [], s => .refl _ s
  | _ :: l, s => (s.sameBut_putReg _ _).trans (State.sameBut_shown i bs l _)

theorem State.canonical_shown (i : Nat) (bs : List Byte) : ∀ (l : List Nat) {s : State}, s.Canonical → (State.shown i bs l s).Canonical
  | [], _, hs => hs
  | _ :: l, _, hs => State.canonical_shown i bs l (Upd.apply_canonical _ _ hs)

theorem State.noStaging_shown (i : Nat) (bs : List Byte) : ∀ (l : List Nat) {s : State}, (∀ k ∈ l, k < 8) → noStaging s →
    noStaging (State.shown i bs l s)
  | [], _, _, hs => hs
  | _ :: l, _, hl, hs => State.noStaging_shown i bs l (fun k hk => hl k (List.mem_cons_of_mem _ hk))
    (noStaging_putReg hs fun n => Reg.deqData_ne_ttTmem i n (hl _ List.mem_cons_self))

theorem State.reg_shown_other (i : Nat) (bs : List Byte) {x : Nat} : ∀ (l : List Nat) {s : State}, s.Canonical → (∀ k ∈ l, x ≠ Reg.deqData i k) →
    (State.shown i bs l s).reg x = s.reg x
  | [], _, _, _ => rfl
  | _ :: l, _, hs, hl => (State.reg_shown_other i bs l (Upd.apply_canonical _ _ hs) fun k hk => hl k (List.mem_cons_of_mem _ hk)).trans
    (reg_apply_other hs _ (hl _ List.mem_cons_self))

theorem State.reg_shown (i : Nat) (bs : List Byte) {k : Nat} {l : List Nat} (hs : s.Canonical) (hk : k ∈ l) :
    (State.shown i bs l s).reg (Reg.deqData i k) = BitVec.ofNat 64 (leAt bs (8 * k) 8) := by
  induction l generalizing s with
  | nil => cases hk
  | cons j l ih =>
    by_cases hmem : k ∈ l
    · exact ih (Upd.apply_canonical _ _ hs) hmem
    · have hkj : k = j := (List.mem_cons.mp hk).resolve_right hmem
      have hother : ∀ n ∈ l, Reg.deqData i k ≠ Reg.deqData i n := fun n hn heq => hmem (Reg.deqData_inj heq ▸ hn)
      refine (State.reg_shown_other i bs l (s := s.putReg _ _) (Upd.apply_canonical _ _ hs) hother).trans ?_
      rw [hkj]
      exact (State.oneReg_putReg hs _ _ _).trans (if_pos rfl)

/-- The queue once an entry left it. -/
def Queue.without (u : Queue) (seq now : Nat) : Queue := { u with ents := u.ents.filter fun e => e.seq != seq, left := now }

theorem leaveEntry_gives {x : Queue} (hx : s.queue q = some x) (hledger : x.ledger = false) (hlost : x.evLost = 0) (seq : Nat) :
    (leaveEntry q seq).gives s [.bind q] (s.withQueue q (x.without seq s.clock.now)) := by
  have hflush : (flushLost q).gives (s.withQueue q (x.without seq s.clock.now)) ()
      (s.withQueue q (x.without seq s.clock.now)) := by
    unfold flushLost
    refine .getS_bind ?_
    rw [State.queue_withQueue, if_pos rfl]
    dsimp only
    rw [if_neg fun h => h.1 hlost]
    exact pure_gives _ _
  unfold leaveEntry
  refine .getS_bind ?_
  rw [hx]
  dsimp only
  rw [if_neg (by rw [hledger]; simp)]
  exact (modQueue_gives hx _).bind (hflush.bind (pure_gives _ _))

/-- What follows the display of a dequeued entry. -/
def dequeueEnd (i q seq : Nat) : M Unit := do
  let ws ← leaveEntry q seq
  portAck i 0 seq
  settleAll ws

theorem run_dequeueOp {x : Queue} {e : Entry} {bs : List Byte} (hx : s.queue q = some x) (he : bindable x = some e)
    (hctx : (s.ctx (s.portHandle i)).isSome = true) (howner : x.owner = s.portHandle i) (hfence : s.queueFenced x = false)
    (hread : (ctxRead 0x80 x.owner (x.base + 64 * e.slot) 64).gives s (.ok bs) u) :
    M.run (dequeueOp i q) s = M.run (dequeueEnd i q e.seq) (State.shown i bs (List.range 8) u) := by
  have hlive : (s.ctx (s.portHandle i)).isNone = false := by simpa using hctx
  have hcode : lowest [((s.ctx (s.portHandle i)).isNone, 0x18), (x.owner != s.portHandle i, 0x15), (s.queueFenced x, 0x1C),
      ((some e).isNone, 0x1E)] = 0 := by
    rw [hlive, bne_eq_false_iff_eq.mpr howner, hfence]
    rfl
  unfold dequeueOp
  rw [run_getS_bind, hx]
  dsimp only
  rw [he]
  dsimp only
  rw [if_neg (not_not.mpr hcode)]
  exact (hread.run_bind _).trans ((forIn_shown_gives i bs (List.range 8) u).run_bind _)

theorem out_dequeueEnd (hs : s.Canonical) (i q seq : Nat) :
    (M.run (dequeueEnd i q seq) s).out = some ⟨true, leBytes 1 0 ++ leBytes 4 seq⟩ := by
  refine M.Leads.run (P := fun t => t.out = _) ?_
  refine (leaveEntry_reach (msk := 0xABA9) rfl q seq).leads_bind fun ws t hsteps => ?_
  refine (portAck_gives i 0 seq t).leads_bind (M.All.leads (settleAll_reach (msk := 0x10FBA9) rfl ws) fun _ v hv => ?_)
  have hout : v.out = (t.judged i 0 seq).out := (Reaches.sameBut hv
    [.mem, .regs, .free, .sys, .tally, .engines, .rcv, .hall, .sent, .pins, .fabric, .safe] rfl).2 Part.out (by decide)
  exact hout.trans (State.judged_spec (hsteps.canonical hs) i 0 seq).acked.2.2

theorem run_dequeueEnd {x : Queue} (hs : s.Canonical) (hst : noStaging s) (hx : s.queue q = some x) (hledger : x.ledger = false)
    (hwait : x.waiters = []) (hlost : x.evLost = 0) (seq : Nat) : M.run (dequeueEnd i q seq) s =
      (s.withQueue q (x.without seq s.clock.now)).judged i 0 seq := by
  have hleft := State.judged_spec (s := s.withQueue q (x.without seq s.clock.now))
    (Upd.apply_canonical _ _ hs) i 0 seq
  refine ((leaveEntry_gives hx hledger hlost seq).run_bind _).trans (((portAck_gives i 0 seq _).run_bind _).trans ?_)
  refine run_settleAll_one (doWork_bind_gives_nil fun y hy => ?_) (State.noStaging_judged hst i 0 seq)
  rw [hleft.queue, State.queue_withQueue, if_pos rfl] at hy
  obtain rfl := Option.mem_some_iff.mp hy
  exact hwait

/-! ## A submission stores its task and takes the tokens that wait for it (R115, R120) -/

theorem acceptKeySlot_tame (t sl key : Nat) : M.All Upd.Tame (acceptKeySlot t sl key) := by
  have put : ∀ b : Board, M.All Upd.Tame (modTally fun x => { x with board := tblSet x.board key b }) := fun _ => modTally_tame fun _ => .of rfl rfl rfl
  exact .bind .getS fun _ => .ite (.bind (put _) fun _ => .pure _) (.ite (.bind (put _) fun _ => .pure _) (.bind (put _) fun _ => .pure _))

theorem modFlag_tame (f : Nat) (g : HallFlag → HallFlag) : M.All Upd.Tame (modFlag f g) := (modFlag_reach (msk := 0x1000) rfl f g).tame rfl

theorem plainFlagSlot_tame (t sl flag : Nat) (s : State) : M.All Upd.Tame (plainFlagSlot t sl flag s) :=
  .ite (.bind (modFlag_tame _ _) fun _ => .pure _) (.bind (modFlag_tame _ _) fun _ => .pure _)

theorem acceptFlagSlot_tame (t sl flag : Nat) (k : Task) (num : Nat) : M.All Upd.Tame (acceptFlagSlot t sl flag k num) := by
  unfold acceptFlagSlot
  repeat' first
    | (with_reducible first | exact .pure _ | exact .getS | refine .bind ?_ fun _ => ?_ | refine .ite ?_ ?_)
    | (with_reducible first | exact modRing_tame _ _ | exact plainFlagSlot_tame _ _ _ _)
    | with_reducible intro _
    | split

theorem takeTokens_tame (t : Nat) : M.All Upd.Tame (takeTokens t) := by
  unfold takeTokens
  repeat' first
    | (with_reducible first | exact .pure _ | exact .getS | refine .bind ?_ fun _ => ?_ | refine .ite ?_ ?_ | refine .forIn _ _ _ fun _ _ => ?_)
    | (with_reducible first | exact acceptKeySlot_tame _ _ _ | exact acceptFlagSlot_tame _ _ _ _ _ | exact modRing_tame _ _ | exact makeReady_tame _)
    | with_reducible exact modQueue_tame _ _ fun _ => rfl
    | with_reducible intro _
    | split

/-- An update of Tally that leaves its queues and the numbers given to tasks. -/
def Upd.KeepsQueues : Upd → Prop
  | .tally f => ∀ x : Tally, (f x).queues = x.queues ∧ (f x).nextTask = x.nextTask
  | _ => False

theorem Steps.keepsQueues (h : Steps Upd.KeepsQueues s t) : t.tally.queues = s.tally.queues ∧ t.tally.nextTask = s.tally.nextTask := by
  refine h.keeps (I := fun x => x.tally.queues = s.tally.queues ∧ x.tally.nextTask = s.tally.nextTask) (fun v x hv hx => ?_) ⟨rfl, rfl⟩
  cases v with
  | tally f => exact ⟨(hv x.tally).1.trans hx.1, (hv x.tally).2.trans hx.2⟩
  | _ => cases hv

theorem storeTask_leads (h : Nat) (d : Desc) (o : Origin) (inst : Option Nat) (hs : s.Canonical) : (storeTask h d o inst).Leads s fun _ t =>
    t.Canonical ∧ t.tally.queues = s.tally.queues ∧ t.tally.nextTask = s.tally.nextTask + 1 := by
  unfold storeTask
  refine .getS (.upd ?_)
  refine M.All.leads_bind (R := Upd.KeepsQueues) (.forIn _ _ _ fun x _ => ?_) fun _ t hsteps => .pure ?_
  · obtain ⟨n, key⟩ := x
    exact .ite (.bind (.update fun _ => ⟨rfl, rfl⟩) fun _ => .pure _) (.pure _)
  · obtain ⟨hqueues, hnext⟩ := hsteps.keepsQueues
    exact ⟨hsteps.canonical (Upd.apply_canonical _ _ hs), hqueues, hnext⟩

/-- What acknowledging a submission and settling its work leave. -/
theorem submitted_leads (hs : s.Canonical) (hmirror : ((s.queue q).bind Queue.mirrored).isSome = false) (seq n : Nat) :
    (M.run (ackEnqueue i q seq (some n) (takeTokens n)) s).out = some ⟨true, leBytes 1 0 ++ leBytes 4 seq⟩ ∧
      (M.run (ackEnqueue i q seq (some n) (takeTokens n)) s).tally.nextTask = s.tally.nextTask := by
  have hwithout : (Part.all.all fun p => [Part.mem, .regs, .free, .sys, .tally, .engines, .rcv, .hall, .sent, .pins, .fabric, .safe].contains p ||
    0x10FBA9 &&& p.bits == 0) = true := rfl
  obtain ⟨hack, -, -, htally, -⟩ := acknowledged_spec hs i seq
  rw [run_ackEnqueue hmirror]
  refine M.Leads.run (P := fun t => t.out = _ ∧ t.tally.nextTask = _) ?_
  refine .bind ((takeTokens_tame n).leads_both (takeTokens_reach (msk := 0x10FBA9) rfl n) fun ws t htame hreach => ?_)
  refine (settleAll_tame ws).leads_both (settleAll_reach (msk := 0x10FBA9) rfl ws) fun _ u htame' hreach' => ?_
  have hout : u.out = (s.acknowledged i seq).out :=
    ((Reaches.sameBut hreach' _ hwithout).2 Part.out (by decide)).trans ((Reaches.sameBut hreach _ hwithout).2 Part.out (by decide))
  exact ⟨hout.trans hack.2.2, htame'.tame.tally.nextTask.trans (htame.tame.tally.nextTask.trans ((congrArg Tally.nextTask htally).trans rfl))⟩

theorem enqueueCodes_broken (hcodes : lowest (enqueueCodes s h q ty) = 0) : ∀ x ∈ enqueueCodes s h q ty, x.1 = false := by
  have hpos : ∀ x ∈ enqueueCodes s h q ty, x.2 ≠ 0 := by
    rw [enqueueCodes]
    split <;> simp
  exact (lowest_eq_zero_iff hpos).mp hcodes

section
variable {d : Desc} {seq : Nat} (hread : (ctxRead 0x80 (s.portHandle i) (leAt (s.enqBytes i) 0 8) 128).gives s (.ok d) u)
  (hcodes : lowest (enqueueCodes s (s.portHandle i) q 1) = 0) (hzero : allZero (s.enqBytes i) 8 40 = true)
  (halign : leAt (s.enqBytes i) 0 8 % 64 = 0) (hcanon : canonical (leAt (s.enqBytes i) 0 8) = true)
  (hgood : lowestViolation (taskViolations u (s.portHandle i) (((u.queue q).map (·.ledger)).getD false) d) = none)
  (hroom : u.hasRoom (s.portHandle i) none false [d] = true) (hring : u.ringBusy (s.portHandle i) d 0 = false)
  (happend : (appendEntry q 1 (s.enqBytes i) (s.portHandle i) (u.safetyOf (s.portHandle i)) (some (u.tally.nextTask, 0xFF)) none noKey).gives u
    (.ok seq) v)
include hread hcodes hzero halign hcanon hgood hroom hring happend

theorem run_enqueueSubmit : M.run (enqueueSubmit i q) s = M.run (do
    let _ ← storeTask (s.portHandle i) d (.enq q seq) none
    ackEnqueue i q seq (some u.tally.nextTask) (takeTokens u.tally.nextTask)) v := by
  have hearly : ∀ x ∈ enqueueCodes s (s.portHandle i) q 1 ++
      [(!allZero (s.enqBytes i) 8 40, 0x12), (leAt (s.enqBytes i) 0 8 % 64 != 0 || !canonical (leAt (s.enqBytes i) 0 8), 0x17)], x.1 = false := by
    intro x hx
    rcases List.mem_append.mp hx with hx | hx
    · exact enqueueCodes_broken hcodes x hx
    · rw [hzero, halign, hcanon] at hx
      simp only [List.mem_cons, List.not_mem_nil, or_false] at hx
      rcases hx with rfl | rfl <;> rfl
  unfold enqueueSubmit
  rw [run_getS_bind]
  dsimp only
  rw [if_neg (not_not.mpr (lowest_eq_zero fun x hx => hearly x (List.mem_filter.mp hx).1))]
  refine (hread.run_bind _).trans ?_
  dsimp only
  rw [run_getS_bind, hgood, hroom, hring]
  dsimp only
  rw [if_neg (not_not.mpr (lowest_eq_zero fun x hx => ?_))]
  · exact happend.run_bind _
  · rw [List.append_nil] at hx
    rcases List.mem_append.mp hx with hx | hx
    · exact hearly x hx
    · rw [List.mem_singleton.mp hx]
      rfl

end

theorem State.reg_withQueue (s : State) (q : Nat) (u : Queue) (x : Nat) : (s.withQueue q u).reg x = s.reg x := rfl

/-- What the dequeue of an entry leaves where nobody waits on the queue. -/
theorem dequeueEnd_shows {x : Queue} (hu : u.Canonical) (hst : noStaging u) (hx : u.queue q = some x) (hledger : x.ledger = false)
    (hwait : x.waiters = []) (hlost : x.evLost = 0) {seq : Nat} {bs : List Byte}
    (ht : t = M.run (dequeueEnd i q seq) (State.shown i bs (List.range 8) u)) :
    acked t i 0 seq ∧ (∀ k < 8, t.reg (Reg.deqData i k) = BitVec.ofNat 64 (leAt bs (8 * k) 8)) ∧
      t.queue q = some { x with ents := x.ents.filter fun y => y.seq != seq, left := u.clock.now } ∧
      (∀ y, y ≠ q → t.queue y = u.queue y) ∧ u.SameBut [.regs, .out, .tally] t := by
  have hframe := State.sameBut_shown i bs (List.range 8) u
  have hcanon := State.canonical_shown i bs (List.range 8) hu
  have htally : (State.shown i bs (List.range 8) u).tally = u.tally := hframe.2 .tally (by decide)
  have hclock : (State.shown i bs (List.range 8) u).clock = u.clock := hframe.2 .clock (by decide)
  have hqueue : ∀ y, (State.shown i bs (List.range 8) u).queue y = u.queue y := fun y => by rw [State.queue, htally, State.queue]
  have hrun : t = ((State.shown i bs (List.range 8) u).withQueue q (x.without seq u.clock.now)).judged i 0 seq := by
    rw [← hclock, ht]
    exact run_dequeueEnd hcanon (State.noStaging_shown i bs _ (fun k hk => List.mem_range.mp hk) hst) ((hqueue q).trans hx) hledger hwait hlost seq
  clear ht
  subst hrun
  have hj := State.judged_spec (s := (State.shown i bs (List.range 8) u).withQueue q (x.without seq u.clock.now)) (Upd.apply_canonical _ _ hcanon)
    i 0 seq
  refine ⟨hj.acked, fun k hk => ?_, ?_, fun y hy => ?_, ?_⟩
  · rw [hj.regs _ (Reg.deqData_ne_portAck i k), State.reg_withQueue]
    exact State.reg_shown i bs hu (List.mem_range.mpr hk)
  · rw [hj.queue, State.queue_withQueue, if_pos rfl]
    rfl
  · rw [hj.queue, State.queue_withQueue, if_neg hy, hqueue]
  · exact ((hframe.mono (by decide)).trans ((State.withQueue_frame _ _ _).mono (by decide))).trans hj.frame

/-- Settles O21: an entry enters and leaves a queue through a port, with its acknowledgement. -/
theorem entriesEnterAndLeaveThroughPorts : Obligations.EntriesEnterAndLeaveThroughPorts := by
  unfold Obligations.EntriesEnterAndLeaveThroughPorts
  intro s i q ty hs hready h
  refine ⟨fun seq u hty hcodes happend hmirror c hc => ?_,
    fun d u seq v hread hcodes hzero halign hcanon hgood hroom hring happend hmirror hnext => ?_,
    fun x e bs u hx he hctx howner hfence hread => ?_⟩
  · have hexec := exec_enqueueOf hcodes hty happend hmirror hready hc
    obtain ⟨hack, hstamp, hframe, htally, hregs⟩ := acknowledged_spec (happend.canonical hs) i seq
    refine ⟨_, hexec, (exec_reach hexec).sameBut _ (reachOf_parts _), (settleAll_keeps_out _ _).trans hack.2.2, fun hu hst hwait => ?_⟩
    rw [run_settle_acknowledged hu hst hwait]
    exact ⟨hack, hstamp, hframe, htally, hregs⟩
  · have hexec : exec (.taskSubmission i q) s = .next (M.run (enqueueSubmit i q) s) := always_of_run (run_portOp hready)
    refine ⟨_, hexec, (exec_reach hexec).sameBut _ (reachOf_parts _), ?_⟩
    rw [run_enqueueSubmit hread hcodes hzero halign hcanon hgood hroom hring happend]
    obtain ⟨n, w, hstore, hw, hqueues, hcount⟩ := storeTask_leads (s.portHandle i) d (.enq q seq) none (happend.canonical (hread.canonical hs))
    rw [hstore.run_bind]
    obtain ⟨hout, hkept⟩ := submitted_leads (i := i) (q := q) hw (by rw [State.queue, hqueues]; exact hmirror) seq u.tally.nextTask
    exact ⟨hout, hkept.trans (hcount.trans (congrArg (· + 1) hnext))⟩
  · have hexec : exec (.dequeue i q) s = .next (M.run (dequeueEnd i q e.seq) (State.shown i bs (List.range 8) u)) :=
      always_of_run ((run_portOp hready).trans (run_dequeueOp hx he hctx howner hfence hread))
    have hu : u.Canonical := hread.canonical hs
    have hclock : u.clock = s.clock := Reaches.clock ((ctxRead_reach (msk := 0xBA9) rfl _ _ _ _).steps_of_gives hread) rfl
    refine ⟨_, hexec, (exec_reach hexec).sameBut _ (reachOf_parts _), out_dequeueEnd (State.canonical_shown i bs _ hu) i q e.seq,
      fun _ hst hledger hwait hlost hxu => ?_⟩
    rw [← hclock]
    exact dequeueEnd_shows hu hst hxu hledger hwait hlost rfl

end Sys2Proof.Machine
end
